-- ==== Sys2Proof/Word.lean ====
section
/-! DEFINITION. The word types of the block: bytes, 32-bit registers and 64-bit values. -/

-- The package is also compiled as one text: one declaration after another, so that no thread holds memory while it waits for those before it.
set_option Elab.async false

namespace Sys2Proof

/-- A byte of memory. -/
abbrev Byte := BitVec 8
/-- A 32-bit register (R35). -/
abbrev Word := BitVec 32
/-- A 64-bit value (R37, S registers). -/
abbrev DWord := BitVec 64

end Sys2Proof
end

