-- ==== Sys2Proof/Syntax.lean ====
section
/-! DEFINITION. The commands of the Z1024: one constructor per row of the opcode table, with the row's operands, and the records that
video rows carry. Register-write rows carry the writing function `fn` first; rod command rows carry the rod and the 128-bit command
word; event and timer rows carry what the world outside the model decides. -/
namespace Sys2Proof

/-- A rod command word (R164). -/
abbrev CmdWord := BitVec 128

/-- What a decoder takes from an SPS (R732): its profile is one of R731, chroma_format_idc, bit depth, field_seq_flag, picture size, and
sps_max_dec_pic_buffering_minus1. -/
structure VSps where
  prof : Bool
  chroma : Nat
  depth : Nat
  field : Bool
  width : Nat
  height : Nat
  dpb : Nat
  deriving DecidableEq, Repr

/-- A slice segment: first byte and length in its access unit or bitstream, first CTB and number of CTBs. -/
structure VSeg where
  start : Nat
  len : Nat
  ctb : Nat
  ctbs : Nat
  deriving DecidableEq, Repr

/-- What lets the entropy work of a picture run in parallel (R742, R753): nothing, WPP substreams, or tiles, by the CTB columns and CTB rows at
which a further tile column or tile row begins. -/
inductive VPar where
  | one
  | wpp
  | tiles (cols rows : List Nat)
  deriving DecidableEq, Repr

/-- What H.265 makes of one access unit: log2 of the CTB size, bit depth, picture size, the SPS it carries, whether no picture is decoded,
IRAP, recovery_poc_cnt of its recovery point SEI, POC, bytes consumed, CTB rows, slice segments, tiles or WPP, CTBs that a stream error
affects, the DPB slot, and the decoded samples in picture slot layout. -/
structure VDec where
  ctb : Nat
  depth : Nat
  width : Nat
  height : Nat
  sps : Option VSps
  nopic : Bool
  irap : Bool
  recovery : Option Nat
  poc : Nat
  used : Nat
  rows : Nat
  segs : List VSeg
  par : VPar
  lost : List Nat
  slot : Nat
  pic : List (BitVec 8)
  deriving DecidableEq, Repr

/-- A unit that an encoder writes before a picture's slices (R746, R750): the parameter sets, with VUI hrd_parameters (cbr_flag, rate in kb/s,
CPB in kbit) or without; a buffering period SEI; a picture timing SEI; a recovery point SEI with its recovery_poc_cnt. -/
inductive VUnit where
  | params (hrd : Option (Bool × Nat × Nat))
  | buffering
  | timing
  | recovery (cnt : Nat)
  deriving DecidableEq, Repr

/-- A block of reference samples that the coding of a CTB uses: the CTB, the reference (0, or 1 for the second of a B picture), left column, top
row, width and height in luma samples of the reference picture. -/
structure VVec where
  ctb : Nat
  ref : Nat
  x : Int
  y : Int
  w : Nat
  h : Nat
  deriving DecidableEq, Repr

/-- What H.265 coding makes of one source picture: the bytes of the units before the slices, the bytes and places of the slice segments, the
CTB columns coded as intra, the reference blocks used, CTB rows, DPB slot and reconstruction, mean QP, CPB fullness, and whether R751
dropped coefficients. -/
structure VEnc where
  heads : List (VUnit × List (BitVec 8))
  bits : List (BitVec 8)
  segs : List VSeg
  intra : List Nat
  vecs : List VVec
  rows : Nat
  slot : Nat
  recon : List (BitVec 8)
  qp : Nat
  cpb : Nat
  strain : Bool
  deriving DecidableEq, Repr

/-- What reading a coded page finds: its symbol errors, a header that fails its CRC, one that names another page, and the failures of
transfers that failed their CRC. -/
structure PageRead where
  errs : List Nat
  hdr : Bool
  other : Bool
  crc : List Nat
  deriving DecidableEq, Repr

/-- Bytes that a host read returned, and the offsets that are poisoned. -/
structure HostBytes where
  bytes : List Byte
  bad : List Nat
  deriving DecidableEq, Repr

/-- How a flooded message came: port (16: it begins here), DST, SRC, HOPS and AGE of its routing header, and the whole microseconds it spends here (R635). -/
structure Via where
  port : Nat
  dst : Nat
  src : Nat
  hops : Nat
  age : Nat
  us : Nat
  deriving DecidableEq, Repr

/-- The end of a rod's write-back: the rod, and the transfers that failed their CRC as page and failures. -/
structure WbackEnd where
  rod : Nat
  crc : List (Nat × Nat)
  deriving DecidableEq, Repr

/-- A slice segment as an encoder or decoder tells it, with the units that stand before a picture's first. -/
structure VSlice where
  seg : VSeg
  heads : List (VUnit × List (BitVec 8))
  deriving DecidableEq, Repr

/-- A configuration request: the item, and the value of a write. -/
structure CfgReq where
  reg : Nat
  write : Option Nat
  deriving DecidableEq, Repr

/-- A command of the block: one constructor per row of the opcode table. -/
inductive Instr where
  /-- REGISTER_WRITE (R40): A BAR0 write to a register that has no row of its own is checked for ownership and form, then applied under its access type. -/
  | registerWrite (fn off size v be : Nat)
  /-- BAR0_READ_TIMEOUT (R103): A BAR0 read whose page has not answered within 1 ms completes with all ones, and GLB raises ACCESS_TIMEOUT. -/
  | bar0ReadTimeout (fn a len : Nat)
  /-- BAR0_WRITE_TIMEOUT (R104): A BAR0 write that cannot be delivered within 1 ms is dropped, and GLB raises ACCESS_TIMEOUT. -/
  | bar0WriteTimeout (fn a : Nat)
  /-- PG_LOCK_SET (R47): A write of 1 to PG_LOCK.LOCKED locks every RWL field of the page. -/
  | pgLockSet (fn p v : Nat)
  /-- PG_EVT_CLEAR (R51): A W1C write to PG_EVT clears event bits, re-arming notification delivery once the enabled value is zero. -/
  | pgEvtClear (fn p v : Nat)
  /-- PG_EVT_EN_WRITE (R51): A write to PG_EVT_EN changes which events are delivered, and delivers a notification if the enabled value becomes non-zero. -/
  | pgEvtEnWrite (fn p v : Nat)
  /-- PG_EVT_ROUTE_WRITE (R53): A write to PG_EVT_ROUTE sets the notification target, is denied for an invalid MSI-X index or a rod outside the herd, and discards a held rod notification. -/
  | pgEvtRouteWrite (fn p v : Nat)
  /-- NOTIFY_ROD_HELD_SEND (R55): A held rod notification is sent, with its payload recaptured, once the target rod is READY or DRAINING and its channel has size and credit. -/
  | notifyRodHeldSend (p : Nat)
  /-- PG_ERR_FIRST_CLEAR (R59): A write of 1 to PG_ERR_FIRST.VALID moves PG_ERR_NEXT into PG_ERR_FIRST and clears PG_ERR_NEXT. -/
  | pgErrFirstClear (fn p v : Nat)
  /-- PG_ERR_CNT_CLR (R92): A write of 1 to PG_ERR_CNT.CLR sets COUNT to zero. -/
  | pgErrCntClr (fn p v : Nat)
  /-- PG_OWNER_WRITE (R46): A write to PG_OWNER is ignored and raises STATE_REJECT, because no page is assignable on stepping A1. -/
  | pgOwnerWrite (fn p : Nat)
  /-- LIFE_NOP (R89): A NOP life command changes nothing, but writes its tag and OK and raises CMD_DONE. -/
  | lifeNop (fn a tag : Nat)
  /-- LIFE_START (R64): A START life command is evaluated against the block's state under Table 2-3, with the licence, readiness and parent checks. -/
  | lifeStart (fn a tag : Nat)
  /-- LIFE_DRAIN (R64): A DRAIN life command moves a READY block to DRAINING with a deadline, or acts as Table 2-3 gives in other states. -/
  | lifeDrain (fn a tag dl : Nat)
  /-- LIFE_STOP (R64): A STOP life command moves the block to STOPPING, or acts as Table 2-3 gives in other states. -/
  | lifeStop (fn a tag : Nat)
  /-- LIFE_CLEAR (R64): A CLEAR life command moves a FAULTED block to OFF with a block life reset, or is refused while the fault cause persists. -/
  | lifeClear (fn a tag : Nat)
  /-- LIFE_BAD_CMD (R89): A life command with a CMD of 5 to 15 has no effect and completes with BAD_CMD. -/
  | lifeBadCmd (fn a cmd tag : Nat)
  /-- BLOCK_START_DONE (R61): A STARTING block finishes its start and enters READY, or enters FAULTED when the start fails. -/
  | blockStartDone (a : Nat) (ok : Bool) (code ab ba : Nat)
  /-- START_ABORT_SAFE_POINT (R66): A start aborted by DRAIN or STOP reaches its next safe point and the block enters STOPPING. -/
  | startAbortSafePoint (a : Nat)
  /-- DRAIN_DONE (R61): A DRAINING block whose accepted work has all completed enters STOPPING. -/
  | drainDone (a : Nat)
  /-- DRAIN_DEADLINE_EXPIRY (R62): When a drain deadline expires, remaining work ends with STOPPED, LAST_STATUS becomes DRAIN_EXPIRED and the block enters STOPPING. -/
  | drainDeadlineExpiry (a : Nat)
  /-- BLOCK_REACHES_OFF (R63): A STOPPING block that has released every resource performs a block life reset and reports OFF. -/
  | blockReachesOff (a : Nat)
  /-- OFF_SELFTEST_FAIL (R68): A self-test that a block runs while OFF fails, and the block enters FAULTED. -/
  | offSelftestFail (a code : Nat)
  /-- CONTROL_PARITY_ERROR (R893): A hardware unit detects a parity or state error in its own control state and records it with its severity. -/
  | controlParityError (p code detail loc x : Nat)
  /-- ISL_CMD (R126): A write of a target code to ISL_CMD is rejected, clamped or accepted as a voltage command that takes force at once. -/
  | islCmd (fn j v mv : Nat)
  /-- IVR_RAMP_START (R126): The regulator begins ramping from its instantaneous output toward the new target 0.5 µs after acceptance. -/
  | ivrRampStart (j mv : Nat)
  /-- SETTLED (R127): The output has stayed within 10 mV of the target for 1 µs, so the command settles and ISL_SETTLED is written. -/
  | settled (j mv : Nat)
  /-- ISL_CTL_MANUAL_WRITE (R149): A write to ISL_CTL.MANUAL hands the island's voltage between the policy engine and the host. -/
  | islCtlManualWrite (fn j v : Nat)
  /-- ISL_FLAGS_VR_FAULT_CLEAR (R155): A write of 1 to ISL_FLAGS.VR_FAULT clears it only once the island has settled after the regulator was reinitialised. -/
  | islFlagsVrFaultClear (fn j v : Nat)
  /-- VR_SLOW (R152): A command not settled within its ramp time plus 20 µs records VR_SLOW and stays in force. -/
  | vrSlow (j mv : Nat)
  /-- VR_UNDER (R153): An island output below 0.57 V for more than 2 µs faults the island's rods and herds, and MGS reinitialises the regulator. -/
  | vrUnder (j mv : Nat)
  /-- VR_OVER (R154): An island output above 0.98 V for more than 2 µs disconnects the island and records a fatal error. -/
  | vrOver (j mv : Nat)
  /-- PACE_WINDOW_END (R117): At the end of each 10.24 µs window the pace monitor writes SENSE_PACE.PACE and NOMINAL. -/
  | paceWindowEnd (i beats : Nat) (clk : Bool) (vs : List Nat)
  /-- ISLAND_STABLE (R134): An island output that has stayed within 10 mV of one value for 10 µs makes a calibration due if it moved more than 25 mV. -/
  | islandStable (j mv : Nat)
  /-- CALIBRATION_PERIODIC (R134): 100 ms after a channel's last calibration, a full calibration becomes due. -/
  | calibrationPeriodic (i c : Nat)
  /-- CALIBRATION_DONE (R137): A calibration ends, records VCODE and HOLD, and releases the held requests. -/
  | calibrationDone (i c hold : Nat)
  /-- CALIBRATION_TIMEOUT (R158): A calibration unfinished at 8 µs ends, the channel resumes on tracking and CAL_FAIL is recorded. -/
  | calibrationTimeout (i c : Nat)
  /-- CAL_RETRY (R398): 1 ms after a CAL_FAIL the channel repeats its calibration, and after three in a row it retrains. -/
  | calRetry (i c : Nat)
  /-- CHAN_RETRAIN_DONE (R398): A bead channel retraining ends, releasing its requests, or fails and records CHAN_DOWN. -/
  | chanRetrainDone (i c : Nat) (ok : Bool) (hold : Nat)
  /-- UNIT_START (R169): A unit starts the command at the head of its queue once its waits are satisfied and its resource is free, consuming the waits. -/
  | unitStart (i u : Nat) (hs : List (List (Option Nat)))
  /-- UNIT_COMPLETE (R171): A started command completes, signals its token and writes its S or P destination. -/
  | unitComplete (i num : Nat) (hs : List (List (Option Nat)))
  /-- PROGRAM_ENDED (R194): After HALT or a fault, once every started command has completed, PSTATE becomes DONE or PFAULT. -/
  | programEnded (i : Nat)
  /-- CTL_NOP (R167): The control command NOP is issued and does nothing. -/
  | ctlNop (i : Nat) (w : CmdWord)
  /-- HALT (R194): HALT stops issue and moves PSTATE to ENDING. -/
  | halt (i : Nat) (w : CmdWord)
  /-- BR (R183): BR sets PC relative to itself. -/
  | br (i : Nat) (w : CmdWord)
  /-- JR (R184): JR sets PC to S[A][16:0], faulting PC_RANGE when the upper bits are non-zero. -/
  | jr (i : Nat) (w : CmdWord)
  /-- CALL (R183): CALL writes PC + 1 to S[D] and branches. -/
  | call (i : Nat) (w : CmdWord)
  /-- ISYNC (R185): ISYNC discards every command fetched after itself. -/
  | isync (i : Nat) (w : CmdWord)
  /-- EVT (R186): EVT writes SEQ_USER.CODE, increments COUNT and raises USER. -/
  | evt (i : Nat) (w : CmdWord)
  /-- LSET (R210): LSET loads a loop counter from S[A] or IMM. -/
  | lset (i : Nat) (w : CmdWord)
  /-- LBR (R183): LBR decrements a non-zero loop counter and branches while the new value is non-zero. -/
  | lbr (i : Nat) (w : CmdWord)
  /-- LGET (R179): LGET copies a loop counter into S[D]. -/
  | lget (i : Nat) (w : CmdWord)
  /-- MOV (R182): MOV writes the second operand to S[D]. -/
  | mov (i : Nat) (w : CmdWord)
  /-- ADD (R211): ADD writes S[A] + X modulo 2^64. -/
  | add (i : Nat) (w : CmdWord)
  /-- SUB (R211): SUB writes S[A] - X modulo 2^64. -/
  | sub (i : Nat) (w : CmdWord)
  /-- MUL (R211): MUL writes the low 64 bits of S[A] x X. -/
  | mul (i : Nat) (w : CmdWord)
  /-- AND (R182): AND writes S[A] AND X. -/
  | and (i : Nat) (w : CmdWord)
  /-- OR (R182): OR writes S[A] OR X. -/
  | or (i : Nat) (w : CmdWord)
  /-- XOR (R182): XOR writes S[A] XOR X. -/
  | xor (i : Nat) (w : CmdWord)
  /-- SHL (R211): SHL shifts S[A] left by X[5:0]. -/
  | shl (i : Nat) (w : CmdWord)
  /-- SHR (R211): SHR shifts S[A] right logically by X[5:0]. -/
  | shr (i : Nat) (w : CmdWord)
  /-- SRA (R211): SRA shifts S[A] right arithmetically by X[5:0]. -/
  | sra (i : Nat) (w : CmdWord)
  /-- MIN (R182): MIN writes the signed minimum of S[A] and X. -/
  | min (i : Nat) (w : CmdWord)
  /-- MAX (R182): MAX writes the signed maximum of S[A] and X. -/
  | max (i : Nat) (w : CmdWord)
  /-- MOVH (R179): MOVH writes IMM[15:0] into S[D][63:48]. -/
  | movh (i : Nat) (w : CmdWord)
  /-- SCMP (R197): SCMP writes a predicate from a signed or unsigned comparison of S[A] and X. -/
  | scmp (i : Nat) (w : CmdWord)
  /-- PLOG (R177): PLOG sets a predicate to a constant or a logical function of two predicates. -/
  | plog (i : Nat) (w : CmdWord)
  /-- SLD (R198): SLD loads 8 scratchpad bytes into S[D] at issue, poisoning it on a parity error. -/
  | sld (i : Nat) (w : CmdWord)
  /-- SST (R198): SST stores S[B] to 8 scratchpad bytes at issue. -/
  | sst (i : Nat) (w : CmdWord)
  /-- TOK (R173): TOK carries waits and a signal and completes at start. -/
  | tok (i : Nat) (w : CmdWord)
  /-- TSET (R216): TSET replaces a token's counter at start. -/
  | tset (i : Nat) (w : CmdWord)
  /-- FENCE (R212): FENCE completes once every earlier command of the selected units has completed. -/
  | fence (i : Nat) (w : CmdWord)
  /-- DELAY (R212): DELAY completes at least IMM nanoseconds after it starts. -/
  | delay (i : Nat) (w : CmdWord)
  /-- TIME (R199): TIME writes package time in nanoseconds to S[D]. -/
  | time (i : Nat) (w : CmdWord)
  /-- WDOG (R205): WDOG sets the per-wait watchdog limit. -/
  | wdog (i : Nat) (w : CmdWord)
  /-- WAIT_TIMEOUT (R205): A program wait blocked for the watchdog limit completes with WAIT_TIMEOUT. -/
  | waitTimeout (i num : Nat)
  /-- TOKEN_STALL (R207): After the stall conditions have held for 1 ms with detection on, the rod raises the program fault TOKEN_STALL. -/
  | tokenStall (i : Nat)
  /-- SEQ_START (R191): A write to SEQ_START with GO starts a program by loading the arguments and clearing registers and tokens. -/
  | seqStart (fn i v : Nat)
  /-- SEQ_ABORT (R196): A write of 1 to SEQ_ABORT acts as the program fault HOST_ABORT at the next command to issue. -/
  | seqAbort (fn i v : Nat)
  /-- SEQ_TSIG (R208): A write to SEQ_TSIG signals a token once while the program runs or is paused. -/
  | seqTsig (fn i v : Nat)
  /-- DBG_PAUSE (R232): DBG_CTL.PAUSE moves PSTATE from RUN to PAUSED before the next issue. -/
  | dbgPause (fn i v : Nat)
  /-- DBG_RESUME (R232): DBG_CTL.RESUME returns a paused program to RUN. -/
  | dbgResume (fn i v : Nat)
  /-- DBG_STEP (R232): DBG_CTL.STEP issues exactly one command and returns to PAUSED. -/
  | dbgStep (fn i v : Nat)
  /-- DBG_DATA_COMMIT (R233): A write to DBG_DATA_HI commits the pair to the selected S, L, P or token state while paused. -/
  | dbgDataCommit (fn i v : Nat)
  /-- SRUN (R406): SRUN reads a stream descriptor and runs a stream in its slot. -/
  | srun (i : Nat) (w : CmdWord)
  /-- SCRED (R425): SCRED returns credits to a credit-mode stream, capped at LCOUNT. -/
  | scred (i : Nat) (w : CmdWord)
  /-- SFLUSH (R426): SFLUSH ends the slot's stream with FLUSHED. -/
  | sflush (i : Nat) (w : CmdWord)
  /-- SSTAT (R427): SSTAT writes the slot's status word to S[D]. -/
  | sstat (i : Nat) (w : CmdWord)
  /-- OWLD (R244): OWLD loads a weight tile from scratchpad into the shadow buffer. -/
  | owld (i : Nat) (w : CmdWord)
  /-- OSWAP (R245): OSWAP exchanges the active and shadow weight buffers between rows. -/
  | oswap (i : Nat) (w : CmdWord)
  /-- OMM (R247): OMM streams activation rows through the active tile into the accumulator file. -/
  | omm (i : Nat) (w : CmdWord)
  /-- GMV (R263): GMV binds to a Goat-sink stream and forms matrix-vector products into the accumulator file. -/
  | gmv (i : Nat) (w : CmdWord)
  /-- VLD (R306): VLD loads and converts scratchpad elements into a vector register. -/
  | vld (i : Nat) (w : CmdWord)
  /-- VST (R307): VST converts a vector register and writes it to scratchpad. -/
  | vst (i : Nat) (w : CmdWord)
  /-- VOP (R310): VOP performs an elementwise operation on vector registers. -/
  | vop (i : Nat) (w : CmdWord)
  /-- VFN (R314): VFN applies a function or an activation table to a vector register. -/
  | vfn (i : Nat) (w : CmdWord)
  /-- VRED (R317): VRED writes a cross-lane reduction into every lane. -/
  | vred (i : Nat) (w : CmdWord)
  /-- VCVT (R323): VCVT converts a vector register between forms or rounds it to a narrow format. -/
  | vcvt (i : Nat) (w : CmdWord)
  /-- VACC (R308): VACC reads accumulator entries, converts them and writes them to scratchpad. -/
  | vacc (i : Nat) (w : CmdWord)
  /-- VTOS (R309): VTOS copies one lane of a vector register into S[D]. -/
  | vtos (i : Nat) (w : CmdWord)
  /-- VCMP (R321): VCMP writes a predicate from an any-lane or all-lane comparison. -/
  | vcmp (i : Nat) (w : CmdWord)
  /-- VLSE (R325): VLSE merges two partial attention results by log-sum-exp. -/
  | vlse (i : Nat) (w : CmdWord)
  /-- MSEND (R549): MSEND reserves granules at the target channel and sends a message item. -/
  | msend (i : Nat) (w : CmdWord)
  /-- MRECV (R551): MRECV takes the oldest complete item of a channel into scratchpad, waiting if none is there. -/
  | mrecv (i : Nat) (w : CmdWord)
  /-- MPOLL (R551): MPOLL writes the number of complete items waiting on a channel. -/
  | mpoll (i : Nat) (w : CmdWord)
  /-- MFLUSH (R219): MFLUSH flushes an inbound channel. -/
  | mflush (i : Nat) (w : CmdWord)
  /-- KAPP (R694): KAPP appends one token's key and value to its handle's tail KV block. -/
  | kapp (i : Nat) (w : CmdWord) (hs : List (List (Option Nat)))
  /-- KATTN (R698): KATTN runs attention of a query block over a handle's KV blocks. -/
  | kattn (i : Nat) (w : CmdWord) (hs : List (List (Option Nat)))
  /-- KRING (R712): KRING runs one step of a drove ring: send, release, arrive, consume and advance. -/
  | kring (i : Nat) (w : CmdWord) (hs : List (List (Option Nat)))
  /-- KSTAT (R702): KSTAT writes the status word of a handle. -/
  | kstat (i : Nat) (w : CmdWord) (hs : List (List (Option Nat)))
  /-- KRING_RESUME (R712): A KRING waiting at its send or arrive step continues once ACKD or ARR reaches the needed count. -/
  | kringResume (i num : Nat) (hs : List (List (Option Nat)))
  /-- BEAD_REQUEST (R362): A request to a coded page arrives at its home controller and is served from the bead cache or starts a fill. -/
  | beadRequest (id : Nat)
  /-- BEAD_FILL_DONE (R364): A fill reads and decodes a coded page into the cache, and the waiting transactions are applied. -/
  | beadFillDone (i q : Nat) (crc errs : List Nat) (hdr other : Bool)
  /-- BEAD_WBACK (R369): A write of 1 to BEAD_CTL.WBACK writes back every dirty page and keeps it resident. -/
  | beadWback (fn i v : Nat)
  /-- BEAD_WBACK_DONE (R369): The write-back started by BEAD_CTL.WBACK finishes and BUSY clears. -/
  | beadWbackDone (w : WbackEnd)
  /-- BEAD_REFRESH (R371): A refresh of bead rows falls due at the rate of its temperature band. -/
  | beadRefresh (i k : Nat)
  /-- PATROL_SCRUB (R378): The patrol scrub reads the next page and writes back corrections. -/
  | patrolScrub (i : Nat) (p : PageRead)
  /-- AS_WINDOW_END (R374): At the end of each one-second window, auto-strengthen raises or lowers region classes. -/
  | asWindowEnd (i : Nat)
  /-- RECODE_SWEEP_DONE (R377): A recode sweep finishes and BEAD_RCLASS.SWEEP clears. -/
  | recodeSweepDone (i r : Nat)
  /-- BEAD_RCLASS_WRITE (R376): A write to BEAD_RCLASS sets region classes in manual mode, clamped to the floor, and is ignored otherwise. -/
  | beadRclassWrite (fn i j v : Nat)
  /-- BEAD_CODE_CTL_WRITE (R393): A write to BEAD_CODE_CTL switches between manual and automatic code classes. -/
  | beadCodeCtlWrite (fn i v : Nat)
  /-- ZERO_DONE (R395): A bead controller's zero-fill completes and raises ZERO_DONE. -/
  | zeroDone (i : Nat)
  /-- STREAM_REQUEST_ISSUE (R414): The stream engine issues a page request when a request slot, credit or tile window allows. -/
  | streamRequestIssue (i k : Nat)
  /-- STREAM_PAGE_RESPONSE (R416): A page request's response arrives and its bytes are delivered, or discarded if orphaned. -/
  | streamPageResponse (id : Nat) (late : Bool)
  /-- STREAM_END (R424): A stream delivers its last element or ends early and its SRUN completes, writing the saved position if requested. -/
  | streamEnd (i k : Nat)
  /-- STRM_CTL_WRITE (R447): A write to STRM_CTL.REQCAP sets the request slots per stream slot, clamped to 1-64. -/
  | strmCtlWrite (fn i v : Nat)
  /-- FRAMED_WORD_ARRIVAL (R439): A word arrives at a framed queue and is assembled into its producer's item, which becomes visible when whole. -/
  | framedWordArrival (q prod w mask : Nat)
  /-- XLAT_WALK_DONE (R472): A translation walk finishes reading its entries and yields a translation or a fault cause. -/
  | xlatWalkDone (i va : Nat) (hs : List (Option Nat))
  /-- FAULT_RECORD_WRITE (R486): A waiting fault record is written to the host ring once it has room, and PROD advances. -/
  | faultRecordWrite (i : Nat) (ok : Bool)
  /-- XLAT_PCOMP (R489): A write to XLAT_PCOMP answers a fault with RETRY or FAIL. -/
  | xlatPcomp (fn i v : Nat)
  /-- PAGER_COMPLETE (R489): A COMPLETE pager item answers a fault with RETRY or FAIL. -/
  | pagerComplete (i : Nat)
  /-- PAGER_INVALIDATE (R488): An INVALIDATE pager item starts an invalidation and answers the sender when done. -/
  | pagerInvalidate (i : Nat)
  /-- PAGER_TIMEOUT (R490): A fault open for the pager timeout closes as FAIL and records PAGER_TIMEOUT. -/
  | pagerTimeout (i fid : Nat)
  /-- XLAT_INV (R479): A write to XLAT_INV starts an invalidation of a range or the whole VA space. -/
  | xlatInv (fn i v : Nat)
  /-- INV_DONE (R480): An invalidation finishes, records its tag and raises INV_DONE. -/
  | invDone (n : Nat)
  /-- XLAT_PAGER_WRITE (R503): A write to XLAT_PAGER selects the pager, and is denied for a rod outside the herd or equal channels. -/
  | xlatPagerWrite (fn i v : Nat)
  /-- TIER_PAUSE (R499): A write to XLAT_TIER_CTL.PAUSE pauses the tier engine after the migration in progress, or resumes it with a rescan. -/
  | tierPause (fn i v : Nat)
  /-- TIER_ENABLE (R505): A write to XLAT_TIER_CTL.EN starts or stops auto-tier, rejected when the regions are invalid. -/
  | tierEnable (fn i v : Nat)
  /-- TIER_WINDOW_END (R496): At the end of each auto-tier window the engine ages frames and plans promotions and demotions. -/
  | tierWindowEnd (n : Nat) (hs : List (Option Nat))
  /-- MIGRATION_INVALIDATED (R497): The invalidation of a leaf marked MIG completes and the tier engine copies the frame. -/
  | migrationInvalidated (n : Nat) (ok : Bool) (data : HostBytes)
  /-- MIGRATION_COPY_DONE (R497): The frame copy completes, the leaf is rewritten and the halted requests resume. -/
  | migrationCopyDone (n cur : Nat) (hs : List (Option Nat))
  /-- GRID_PACKET_HOP (R521): A grid packet arrives at a router and takes a productive direction with credit or enters escape. -/
  | gridPacketHop (cls src dst at_ pick cred : Nat) (data : List Byte) (mask : Nat) (relay : Bool)
  /-- HERD_RESET (R532): A write of 1 to HERD_RESET.GO stops the herd without drain and records a pending start. -/
  | herdReset (fn n v : Nat)
  /-- HERD_RESIZE (R533): A write to HERD_RESIZE with GO checks and starts a resize of the herd rectangle. -/
  | herdResize (fn n v : Nat)
  /-- RESIZED (R533): A resize completes, writes OK to HERD_RSTAT and raises RESIZED. -/
  | resized (n : Nat)
  /-- HERD_SHARE_WRITE (R545): A write of FLOOR or CAP to HERD_SHARE changes the herd's share within 10 µs. -/
  | herdShareWrite (fn n r v : Nat)
  /-- RESERVATION (R549): A reservation arrives at the target channel and is answered QUEUED or REFUSED. -/
  | reservation (i num : Nat)
  /-- GRANT (R549): The target grants the oldest queued reservation once the channel's free granules cover it. -/
  | grant (t ch : Nat)
  /-- RESERVATION_RETRY (R550): 1 µs after a refusal, the sender repeats the reservation. -/
  | reservationRetry (i num : Nat)
  /-- ITEM_ANSWER (R549): The target's acceptance answer arrives and the MSEND completes with its status. -/
  | itemAnswer (i num : Nat)
  /-- RESV_TIMEOUT (R576): A reservation or item with no answer within 1 ms records RESV_TIMEOUT and faults the sender's herd. -/
  | resvTimeout (i num : Nat)
  /-- MSG_CH_BUF_WRITE (R552): A write to MSG_CHk_BUF flushes the channel and applies the new ring. -/
  | msgChBufWrite (fn i k v : Nat)
  /-- MSG_CH_FLUSH (R219): A write of 1 to MSG_CHk_FLUSH flushes the channel as MFLUSH does. -/
  | msgChFlush (fn i k v : Nat)
  /-- PROBE_TIMER (R558): A wait blocked for HOLD µs sends a probe along its edge, and again every 50 µs. -/
  | probeTimer (i num : Nat)
  /-- PROBE (R558): A probe arrives at a rod and is forwarded along older waits, dropped, or starts a confirmation at its initiator. -/
  | probe (k : Nat)
  /-- CONFIRMATION (R559): A confirmation arrives, is passed along an unchanged path, and at the initiator breaks the wait. -/
  | confirmation (k : Nat)
  /-- BRG_FLIT_RECEIVED (R589): A bridge flit arrives and is accepted, dropped as a duplicate, or dropped with a NAK. -/
  | brgFlitReceived (n d seq ack vc : Nat) (errs : List (Nat × Nat)) (ctrl : Bool) (op : Nat)
  /-- BRG_CREDIT (R592): A CREDIT control flit returns freed credits per VC. -/
  | brgCredit (n d ack : Nat) (c : List Nat)
  /-- BRG_NAK (R590): A NAK control flit makes the sender resend from the named sequence. -/
  | brgNak (n d seq ack : Nat)
  /-- CARRY (R596): A CARRY control flit names the home link and sequence of a run of carried flits. -/
  | carry (n d seq ack home first count : Nat)
  /-- SWAP (R599): A SWAP control flit switches the lane crossbar to a trained spare at a flit boundary. -/
  | swap (n d seq ack dir lg l : Nat)
  /-- BRG_WIDTH (R599): A WIDTH control flit sets the link's width and lane maps. -/
  | brgWidth (n d seq ack w ab ba : Nat)
  /-- BRG_DRAIN_END (R601): A DRAIN_END control flit reports the last sequence sent on the link. -/
  | brgDrainEnd (n d seq ack : Nat)
  /-- BRG_CREDIT_TIMER (R592): A receiver sends CREDIT at least every 200 ns while credit is unreturned. -/
  | brgCreditTimer (n d : Nat)
  /-- BRG_REPLAY_TIMEOUT (R590): After 1 µs without ACK progress the sender resends, and after 8 resends the link retrains. -/
  | brgReplayTimeout (n d : Nat)
  /-- LANE_ERROR_RATE (R599): A lane's error rate crosses a ladder threshold and the link swaps, degrades or retires. -/
  | laneErrorRate (n d l w1s w1ms fails : Nat)
  /-- SPARE_TRAINED (R599): A spare lane finishes background training and the swap proceeds. -/
  | spareTrained (n d l : Nat) (ok : Bool)
  /-- LINK_RETRAIN_DONE (R599): A bridge link retrain ends and the link carries again. -/
  | linkRetrainDone (n ab ba : Nat)
  /-- GROUP_RETURN (R597): A group returns to its home link once the substitute has acknowledged all its flits. -/
  | groupReturn (n : Nat)
  /-- LINK_DRAIN_END (R601): A draining link ends replay on full acknowledgement or at 100 µs, stranding what remains. -/
  | linkDrainEnd (n : Nat)
  /-- BRG_CREDIT_TIMEOUT (R620): A VC that waits 1 ms without credit records CREDIT_TIMEOUT and the link retrains. -/
  | brgCreditTimeout (n d vc : Nat)
  /-- BRG_CTL_WRITE (R602): A write to BRG_CTL sets the link width in manual mode, or is rejected while MANUAL is 0. -/
  | brgCtlWrite (fn n v : Nat)
  /-- RL_FLIT_RECEIVED (R633): An RL flit arrives and is accepted, dropped as a duplicate, or dropped with a NAK. -/
  | rlFlitReceived (p seq ack vc cvc cn : Nat) (errs : List Nat) (cws : List (Nat × Nat × Nat)) (ctrl : Bool) (op : Nat)
  /-- RL_NAK (R633): An RL NAK control flit makes the sender resend from the named sequence. -/
  | rlNak (p seq ack : Nat)
  /-- HELLO (R648): A HELLO control flit updates the neighbour record and moves a port in EXCHANGE to READY. -/
  | hello (p serial node epoch port : Nat) (valid : Bool) (host pri kserial : Nat)
  /-- RL_WIDTH (R645): An RL WIDTH control flit applies a width change at both ends. -/
  | rlWidth (p seq ack w rx tx : Nat)
  /-- RL_DRAIN_END (R643): An RL DRAIN_END control flit reports the last sequence sent. -/
  | rlDrainEnd (p seq ack : Nat)
  /-- HELLO_TIMER (R648): A port in EXCHANGE or ACTIVE sends HELLO every 1 ms. -/
  | helloTimer (p : Nat)
  /-- RL_IDLE_TIMER (R631): A port sends an IDLE flit carrying credit at least every 500 ns while credit is unreturned. -/
  | rlIdleTimer (p : Nat)
  /-- RL_REPLAY_TIMEOUT (R633): After 2 µs without ACK progress the RL sender resends, and after 8 resends the port retrains. -/
  | rlReplayTimeout (p : Nat)
  /-- RL_PARTNER_SIGNAL (R643): A port in DETECT sees its partner's signal and begins TRAIN. -/
  | rlPartnerSignal (p : Nat)
  /-- RL_TRAIN_DONE (R684): Port training and the lane test end, and the port aligns or faults. -/
  | rlTrainDone (p rx tx : Nat)
  /-- RL_ALIGN_DONE (R643): FEC lock, lane alignment and width setting end and the port enters EXCHANGE. -/
  | rlAlignDone (p : Nat)
  /-- RL_LANE_WINDOW (R644): At the end of each 100 ms window a lane's corrected and uncorrectable counts decide whether it fails. -/
  | rlLaneWindow (p l corr uncorr : Nat)
  /-- RL_LANE_LOCK_LOSS (R644): A lane that loses lock for more than 1 µs fails. -/
  | rlLaneLockLoss (p l : Nat)
  /-- RL_RETRAIN_DONE (R643): An RL retrain ends and the port carries again. -/
  | rlRetrainDone (p : Nat)
  /-- RL_DRAIN_DONE (R643): A draining port ends replay on full acknowledgement or at 100 µs, stranding what remains. -/
  | rlDrainDone (p : Nat)
  /-- RL_CREDIT_TIMEOUT (R681): An RL VC that waits 1 ms without credit records CREDIT_TIMEOUT and the port retrains. -/
  | rlCreditTimeout (p vc : Nat)
  /-- RLP_CTL_WRITE (R672): A write to RLP_CTL.WIDTH_MAX retrains the port narrower or sets WIDTH_LIMIT. -/
  | rlpCtlWrite (fn p v : Nat)
  /-- RL_PACKET_ARRIVAL (R639): An RL packet arrives and is taken, forwarded to a live candidate, or discarded. -/
  | rlPacketArrival (p dst src hops age cls len us serial mseq : Nat) (esc fld sr bad : Bool) (body : List Byte)
  /-- ESCAPE_TIMER (R640): A packet with no credited live candidate for 1 µs enters escape. -/
  | escapeTimer (k : Nat)
  /-- CLAIM (R649): A CLAIM message is flooded only if its manager key beats every key seen. -/
  | claim (inp : Via) (serial seq host pri kserial : Nat)
  /-- CLAIM_TIMER (R649): A candidate that has seen no better key for 50 ms becomes manager and starts HEARTBEAT. -/
  | claimTimer
  /-- HEARTBEAT (R654): A HEARTBEAT message refreshes the manager and adjusts fabric time. -/
  | heartbeat (inp : Via) (serial seq host pri kserial node ftime : Nat)
  /-- HEARTBEAT_TIMER (R648): The manager floods HEARTBEAT every 10 ms. -/
  | heartbeatTimer
  /-- FM_LOST (R650): A device that sees no HEARTBEAT for 50 ms forgets the manager and may claim again. -/
  | fmLost
  /-- TOPO_REQ (R648): A TOPO_REQ asks a device for its topology and is answered with TOPO_REP. -/
  | topoReq (src seq : Nat)
  /-- TOPO_REP (R648): A TOPO_REP reports a device's serial, node ID, epoch and ports to the manager. -/
  | topoRep (serial : Nat) (valid : Bool) (node epoch : Nat) (links : List (Nat × Nat × Nat))
  /-- ASSIGN (R651): An ASSIGN gives a device its node ID and epoch, and it answers ASSIGN_ACK. -/
  | assign (src seq node epoch : Nat)
  /-- ASSIGN_ACK (R651): An ASSIGN_ACK confirms a node ID assignment to the manager. -/
  | assignAck (serial : Nat) (writes : List (Nat × List Nat))
  /-- ROUTE_WRITE (R651): A ROUTE_WRITE writes routing table entries and is answered ROUTE_ACK. -/
  | routeWrite (src seq table first : Nat) (entries : List Nat)
  /-- ROUTE_ACK (R651): A ROUTE_ACK confirms a table write to the manager. -/
  | routeAck (src seq : Nat)
  /-- ANNOUNCE (R662): An ANNOUNCE JOIN or LEAVE purges duplicate entries or ends transactions to a node. -/
  | announce (inp : Via) (serial seq : Nat) (leave : Bool) (node epoch : Nat)
  /-- PORT_EVENT (R648): A PORT_EVENT reports a port change to the manager. -/
  | portEvent (serial port phase pserial pport : Nat) (writes : List (Nat × List Nat))
  /-- LEAVE_REQ (R653): A LEAVE_REQ asks the manager to remove a device from the fabric. -/
  | leaveReq (serial node epoch : Nat) (writes : List (Nat × List Nat))
  /-- MANAGER_REPEAT_TIMER (R648): The manager repeats an unanswered request every 1 ms. -/
  | managerRepeatTimer (serial : Nat)
  /-- TOPO_TIMEOUT (R653): A device that has not answered TOPO_REQ for 10 ms is announced as left. -/
  | topoTimeout (serial : Nat) (writes : List (Nat × List Nat))
  /-- E2E_LEAVE (R653): A write of 1 to E2E_CTL.LEAVE starts an orderly leave. -/
  | e2eLeave (fn v : Nat)
  /-- RTR_HOSTFM_CLAIM (R649): A write of 1 to RTR_HOSTFM.CLAIM makes the host claim the manager role. -/
  | rtrHostfmClaim (fn v : Nat)
  /-- RTR_HOSTFM_RELEASE (R649): A write of 1 to RTR_HOSTFM.RELEASE gives up the host manager role, and an election follows. -/
  | rtrHostfmRelease (fn v : Nat)
  /-- E2E_REQUEST (R661): An end-to-end request arrives at its target and is executed, absorbed, answered from its record or discarded. -/
  | e2eRequest
  /-- E2E_RESPONSE (R660): An end-to-end response arrives and completes its live transaction or is discarded as stale. -/
  | e2eResponse
  /-- E2E_ATTEMPT_TIMER (R658): Every 4 ms a source resends an unanswered transaction, and gives up at 48 ms. -/
  | e2eAttemptTimer (tag : Nat)
  /-- E2E_PENDING_TIMER (R659): A target whose operation has not finished after 1 ms sends PENDING, and repeats every 1 ms. -/
  | e2ePendingTimer (src tag : Nat)
  /-- E2E_PENDING_GIVEUP (R659): A source that has seen PENDING gives up after 4 ms with neither PENDING nor an outcome. -/
  | e2ePendingGiveup (tag : Nat)
  /-- DUP_ENTRY_EXPIRY (R662): A done duplicate-table entry is removed 64 ms after its outcome. -/
  | dupEntryExpiry (src tag : Nat)
  /-- QUIET_END (R663): 17 ms after a reset or leave, the E2E engine may send requests again. -/
  | quietEnd
  /-- KVM_OPGO (R705): A write of GO to KVM_OPGO submits the operation record to the KVM. -/
  | kvmOpgo (fn v : Nat)
  /-- KVM_OPEN (R706): The KVM OPEN operation creates a sequence and places one handle per head. -/
  | kvmOpen
  /-- KVM_CLOSE (R721): The KVM CLOSE operation frees every handle and block of a sequence. -/
  | kvmClose
  /-- SET_BUDGET (R718): The KVM SET_BUDGET operation writes budget and eviction settings on every pair. -/
  | setBudget
  /-- KVM_MOVE (R708): The KVM MOVE operation starts moving a pair to a named rod. -/
  | kvmMove
  /-- KVM_PIN (R705): The KVM PIN operation sets a sequence's pin flag. -/
  | kvmPin
  /-- KVM_BAD_OP (R705): A KVM record with an unknown OP completes with BAD_PARAM. -/
  | kvmBadOp
  /-- REBALANCE (R707): Every PERIOD ms the KVM moves pairs from the most loaded to the least loaded rod of each herd. -/
  | rebalance (n : Nat)
  /-- MOVE_COPY_DONE (R708): The source KV unit has at most 2 blocks left and freezes the handle. -/
  | moveCopyDone (k : Nat)
  /-- PAIR_MOVED (R708): A move finishes, the target becomes OPEN, the source becomes MOVED and held commands complete with MOVED. -/
  | pairMoved (k : Nat) (hs : List (List (Option Nat)))
  /-- MOVE_FAIL (R709): A move that misses its bound or meets a copy error is abandoned. -/
  | moveFail (k : Nat) (err : Bool)
  /-- MOVED_EXPIRY (R709): A MOVED handle returns to FREE 100 ms after the move. -/
  | movedExpiry (i hn : Nat)
  /-- KV_POOL_CFG_WRITE (R717): A write to KV_POOL_CFG or KV_POOL_BASE configures the pool, rejected while any handle is in use. -/
  | kvPoolCfgWrite (fn i r v : Nat)
  /-- VIDEO_OPEN (R757): An OPEN command block opens a video session. -/
  | videoOpen (v n k : Nat)
  /-- VIDEO_CLOSE (R761): A CLOSE command block stops the session's jobs and closes it. -/
  | videoClose (v n k : Nat)
  /-- DECODE (R740): A DECODE command block decodes one access unit. -/
  | decode (v : Nat) (d : VDec) (hs : List (List (Option Nat)))
  /-- ENCODE (R745): An ENCODE command block encodes one source picture. -/
  | encode (v key : Nat) (e : VEnc) (hs : List (List (Option Nat)))
  /-- END_OF_STREAM (R740): An END_OF_STREAM command block outputs or codes the remaining pictures and completes. -/
  | endOfStream (v n k : Nat) (hs : List (List (Option Nat)))
  /-- VIDEO_JOB_DONE (R739): A video job completes and writes its video completion. -/
  | videoJobDone (v key : Nat) (hs : List (List (Option Nat)))
  /-- SLICE_NOTE (R747): A completed slice segment sends a slice note and raises SLICE_OUT. -/
  | sliceNote (v slice rows : Nat) (g : VSlice) (data : List Byte) (hs : List (List (Option Nat)))
  /-- TENSORIZE_ROW (R754): The tensorizer converts rows as the pixel engine completes them. -/
  | tensorizeRow (v key : Nat) (vals : List (BitVec 32)) (bad : List Nat) (hs : List (List (Option Nat)))
  /-- SQ_DOORBELL (R775): A doorbell write at offset 0x0 sets the SQ tail and announces entries. -/
  | sqDoorbell (fn off v : Nat)
  /-- CQ_DOORBELL (R775): A doorbell write at offset 0x4 sets the CQ head and frees completion slots. -/
  | cqDoorbell (fn off v : Nat)
  /-- ENTRY_FETCH (R776): A queue fetches an announced entry when completion slots allow. -/
  | entryFetch (n q w0 sid : Nat) (body : List Byte) (bad : List Nat) (err : Nat)
  /-- ENTRY_NOP (R778): A NOP queue entry completes at start. -/
  | entryNop (n q k : Nat)
  /-- DELIVER (R779): A DELIVER entry sends its payload as a message item from the hub. -/
  | deliver (n q k : Nat)
  /-- COPY (R780): A COPY entry moves bytes between host memory and herd memory. -/
  | copy (n q k : Nat) (data : List Byte) (bad : List Nat) (fail : Nat) (hs : List (Option Nat))
  /-- LOAD (R781): A LOAD entry writes host data into a rod's scratchpad. -/
  | load (n q k : Nat) (data : List Byte) (bad : List Nat) (fail : Nat)
  /-- ENTRY_KVM (R782): A KVM entry submits its operation record to the KVM. -/
  | entryKvm (n q k : Nat)
  /-- ENTRY_VIDEO (R782): A VIDEO entry submits its command block to a pipe. -/
  | entryVideo (n q k : Nat)
  /-- ENTRY_COMPLETION (R783): A queue writes a final or note completion to the next completion slot. -/
  | entryCompletion (n q : Nat) (err : Bool)
  /-- IMOD_TIMER (R785): The interrupt moderation interval ends and one MSI-X message covers the completions written in it. -/
  | imodTimer (n q : Nat)
  /-- HQ_FLUSH (R802): A write of 1 to HQ_Qq_FLUSH flushes the queue's announced and unstarted entries. -/
  | hqFlush (fn n q v : Nat) (hdrs : List (Nat × Nat))
  /-- HQ_CFG_WRITE (R799): A write to HQ_Qq_CFG sets interrupts and ring sizes, denied for a vector beyond the table. -/
  | hqCfgWrite (fn n q v : Nat)
  /-- HQ_DEST_WRITE (R799): A write to HQ_Qq_DEST sets the default rod and channel, denied for a rod outside the herd. -/
  | hqDestWrite (fn n q v : Nat)
  /-- BAR2_READ (R790): A BAR2 read is translated and served from herd memory, or answered with all ones on a window fault. -/
  | bar2Read (fn off len : Nat) (hs : List (Option Nat))
  /-- BAR2_WRITE (R790): A BAR2 write is translated and applied to herd memory, or dropped on a window fault. -/
  | bar2Write (fn off : Nat) (data : List Byte) (ep : Bool) (hs : List (Option Nat))
  /-- ATS_INVALIDATE (R795): An ATS Invalidation Request removes matching entries and completes when their requests have finished. -/
  | atsInvalidate (fn pasid page count : Nat)
  /-- TRANSLATION_COMPLETION (R796): An ATS Translation Completion arrives, granting access or starting a page request. -/
  | translationCompletion (fn pasid page : Nat) (rd wr : Bool) (frame : Nat)
  /-- PRG_RESPONSE (R796): A PRG Response retries translation on Success, or ends the request with XLAT_FAIL. -/
  | prgResponse (fn pasid page code : Nat)
  /-- HOST_COMPLETION (R797): A completion for a device read arrives and delivers its data, poisoned data or an error. -/
  | hostCompletion (id : Nat) (data : List Byte) (ep err : Bool)
  /-- COMPLETION_TIMEOUT (R1020): A device read that exceeds the Completion Timeout ends with HOST_FAIL. -/
  | completionTimeout (id : Nat)
  /-- CONFIG_REQUEST (R933): A PCIe configuration request completes with RRS during early bring-up, and normally afterwards. -/
  | configRequest (fn : Nat) (q : CfgReq)
  /-- RRS_DEADLINE (R933): 900 ms after PERST_N deasserts, configuration requests complete normally whatever the stage. -/
  | rrsDeadline
  /-- FLR (R809): A Function Level Reset resets the function's PCIe state, resets its herd, turns off its queues and clears its SID record. -/
  | flr (fn : Nat)
  /-- VF_ENABLE_CLEAR (R810): Clearing VF Enable acts as FLR on every VF. -/
  | vfEnableClear
  /-- HOT_RESET (R808): A Hot Reset or DL_Down on the host port performs a package warm reset. -/
  | hotReset
  /-- POWER_STATE_CHANGE (R811): A function entering or leaving D3hot stops or resumes its memory accesses and queues. -/
  | powerStateChange (fn : Nat) (d3 : Bool)
  /-- BUS_MASTER_CHANGE (R1021): A change of Bus Master Enable or power state stops or resumes the requests that the device issues for the function. -/
  | busMasterChange (fn : Nat) (on : Bool)
  /-- RESIZABLE_BAR_WRITE (R801): A write to the Resizable BAR control sets BAR2's size now, or when Memory Space Enable is next cleared. -/
  | resizableBarWrite (size : Nat)
  /-- MEMORY_SPACE_DISABLE (R801): Clearing Memory Space Enable applies a stored BAR2 size. -/
  | memorySpaceDisable (fn : Nat)
  /-- LINK_UP (R807): The host link first reaches DL_Active and configuration requests begin to be answered. -/
  | linkUp (rate width : Nat) (flit : Bool)
  /-- MB_CMD (R820): A write to MB_CMD with GO submits a mailbox request, which MGS takes in round robin and checks in order. -/
  | mbCmd (fn f v : Nat)
  /-- MB_NOP (R1024): The mailbox NOP command completes with OK. -/
  | mbNop
  /-- GET_INFO (R1024): GET_INFO returns serial, stepping, MGS state, slots and versions. -/
  | getInfo
  /-- SENSOR_READ (R824): SENSOR_READ returns readings of a range of sensors. -/
  | sensorRead
  /-- LOG_READ (R1023): LOG_READ returns tally records from a position and source. -/
  | logRead
  /-- LOG_WRITE (R825): LOG_WRITE writes a USER tally record. -/
  | logWrite
  /-- LOG_ACK_LOST (R835): LOG_ACK_LOST clears LOST and MB_UNPERS. -/
  | logAckLost
  /-- FW_BEGIN (R836): FW_BEGIN checks an image header, erases the inactive slot and opens an update session. -/
  | fwBegin (sig ok : Bool)
  /-- FW_DATA (R837): FW_DATA writes image body bytes at an offset. -/
  | fwData (ok : Bool)
  /-- FW_VERIFY (R837): FW_VERIFY checks the body's digest and marks the slot valid. -/
  | fwVerify (ok : Bool)
  /-- FW_ACTIVATE (R838): FW_ACTIVATE marks the new slot as trial and activates now or at the next cold reset. -/
  | fwActivate (ok : Bool)
  /-- FW_ABORT (R836): FW_ABORT abandons the update session and leaves the slot invalid. -/
  | fwAbort
  /-- LIC_INSTALL (R841): LIC_INSTALL checks and stores a licence record and replaces the licence set. -/
  | licInstall (sig ok : Bool)
  /-- LIC_READ (R841): LIC_READ returns the licence record in force. -/
  | licRead
  /-- UNLOCK (R846): UNLOCK clears PG_LOCK.LOCKED of a named page. -/
  | unlock
  /-- CONFIG_GET (R1028): CONFIG_GET returns a configuration parameter. -/
  | configGet
  /-- CONFIG_SET (R823): CONFIG_SET writes a configuration parameter for the next bring-up. -/
  | configSet (ok : Bool)
  /-- FM_STATUS (R1024): FM_STATUS returns the fabric manager role and the count of known devices. -/
  | fmStatus
  /-- FM_PLAN (R823): FM_PLAN adds or replaces serial to node ID plan entries. -/
  | fmPlan (ok : Bool)
  /-- FM_NODES (R1024): FM_NODES returns the devices known to this fabric manager. -/
  | fmNodes
  /-- DEFECT_READ (R23): DEFECT_READ returns entries of the defect map. -/
  | defectRead
  /-- MB_BAD_OPCODE (R1024): A mailbox request with an opcode not in Table 16-5 completes with BAD_OPCODE. -/
  | mbBadOpcode
  /-- MCTP_MESSAGE (R814): An MCTP message arrives over PCIe VDM or I3C and is dispatched by message type. -/
  | mctpMessage (port type vendor op tag len : Nat) (data : List Byte)
  /-- SET_ENDPOINT_ID (R814): The MCTP control message Set Endpoint ID sets the endpoint ID. -/
  | setEndpointId (port eid : Nat)
  /-- GET_ENDPOINT_ID (R814): The MCTP control message Get Endpoint ID returns the endpoint ID. -/
  | getEndpointId (port : Nat)
  /-- GET_MCTP_VERSION_SUPPORT (R814): The MCTP control message Get MCTP Version Support reports version 1.3. -/
  | getMctpVersionSupport (port : Nat)
  /-- GET_MESSAGE_TYPE_SUPPORT (R814): The MCTP control message Get Message Type Support reports the supported types. -/
  | getMessageTypeSupport (port : Nat)
  /-- GETTID (R816): The PLDM command GetTID returns the terminus ID. -/
  | gettid (port : Nat)
  /-- GETPLDMVERSION (R816): The PLDM command GetPLDMVersion returns a type's version. -/
  | getpldmversion (port type : Nat)
  /-- GETPLDMTYPES (R816): The PLDM command GetPLDMTypes returns the supported types. -/
  | getpldmtypes (port : Nat)
  /-- GETPLDMCOMMANDS (R816): The PLDM command GetPLDMCommands returns a type's supported commands. -/
  | getpldmcommands (port type : Nat)
  /-- GETPDRREPOSITORYINFO (R817): The PLDM command GetPDRRepositoryInfo describes the PDR repository. -/
  | getpdrrepositoryinfo (port : Nat)
  /-- GETPDR (R817): The PLDM command GetPDR returns a PDR. -/
  | getpdr (port handle : Nat)
  /-- GETSENSORREADING (R817): The PLDM command GetSensorReading returns a numeric sensor reading. -/
  | getsensorreading (port id : Nat)
  /-- GETSTATESENSORREADINGS (R817): The PLDM command GetStateSensorReadings returns state sensor readings. -/
  | getstatesensorreadings (port id : Nat)
  /-- SETNUMERICEFFECTERVALUE (R817): The PLDM command SetNumericEffecterValue writes the power cap under R14. -/
  | setnumericeffectervalue (port id watts : Nat)
  /-- GETNUMERICEFFECTERVALUE (R817): The PLDM command GetNumericEffecterValue returns the power cap. -/
  | getnumericeffectervalue (port id : Nat)
  /-- SETEVENTRECEIVER (R816): The PLDM command SetEventReceiver sets where platform events are sent. -/
  | seteventreceiver (port eid : Nat)
  /-- POLLFORPLATFORMEVENTMESSAGE (R970): The PLDM command PollForPlatformEventMessage returns pending events and may release ALERT_N. -/
  | pollforplatformeventmessage (port : Nat)
  /-- QUERYDEVICEIDENTIFIERS (R816): The PLDM command QueryDeviceIdentifiers returns the device identifiers. -/
  | querydeviceidentifiers (port : Nat)
  /-- GETFIRMWAREPARAMETERS (R816): The PLDM command GetFirmwareParameters returns the firmware parameters. -/
  | getfirmwareparameters (port : Nat)
  /-- REQUESTUPDATE (R836): The PLDM command RequestUpdate opens the one update session, or answers busy. -/
  | requestupdate (port : Nat) (ok : Bool)
  /-- PASSCOMPONENTTABLE (R818): The PLDM command PassComponentTable names the one firmware component. -/
  | passcomponenttable (port : Nat)
  /-- UPDATECOMPONENT (R818): The PLDM command UpdateComponent starts transfer of the firmware image. -/
  | updatecomponent (port size : Nat)
  /-- ACTIVATEFIRMWARE (R818): The PLDM command ActivateFirmware activates the image now or at the next cold reset. -/
  | activatefirmware (port : Nat) (self ok : Bool)
  /-- GETSTATUS (R816): The PLDM command GetStatus returns the update state. -/
  | getstatus (port : Nat)
  /-- CANCELUPDATE (R816): The PLDM command CancelUpdate abandons the update session. -/
  | cancelupdate (port : Nat)
  /-- GET_MEASUREMENTS (R819): The SPDM request GET_MEASUREMENTS returns the signed measurement blocks. -/
  | getMeasurements (port k : Nat) (sign : Bool)
  /-- SPDM_REQUEST (R819): Another SPDM 1.1 or 1.2 request, such as for certificates or a challenge, is answered under the supported capabilities. -/
  | spdmRequest (port code slot : Nat)
  /-- I3C_DYNAMIC_ADDRESS (R975): A controller assigns the I3C port a dynamic address and the port enters I3C mode. -/
  | i3cDynamicAddress (addr : Nat)
  /-- RSTDAA (R975): RSTDAA resets the dynamic address and returns the port to I2C mode. -/
  | rstdaa
  /-- UPDATE_SESSION_IDLE (R836): An update session with no command for 60 s is abandoned. -/
  | updateSessionIdle
  /-- TRIAL_COMMIT (R839): A trial image that has run 10 s without watchdog is committed, raising the OTP SVN if asked. -/
  | trialCommit
  /-- MGS_WDOG (R853): The MGS 1 s watchdog fires and MGS restarts on the active slot. -/
  | mgsWdog (ue : Bool)
  /-- MGS_RESTART_RUN (R818): A restarting MGS reaches RUN, drains the notification FIFO, resumes the policy engine and serves the mailboxes. -/
  | mgsRestartRun (sigA sigB : Bool)
  /-- TALLY_PERSIST (R826): MGS writes pending tally records to the current tier. -/
  | tallyPersist (ok : Bool)
  /-- FLASH_VERIFY (R828): A flash program or erase is read back, and a failed verify retires the sector. -/
  | flashVerify (k : Nat) (pass : Bool)
  /-- XSPI_TIMEOUT (R829): An xSPI operation exceeds its 50 ms timeout. -/
  | xspiTimeout
  /-- SENSOR_REFRESH (R858): Every 1 ms the sensor hub reads every sensor and updates bands, throttle and shutdown. -/
  | sensorRefresh (rs : List (Nat × Option Nat)) (ok : Bool)
  /-- CEILING_RELAX (R862): Every 10 ms after an island leaves throttle its ceiling rises by 10 codes, becoming none at 190. -/
  | ceilingRelax (j : Nat)
  /-- POWER_METER_SAMPLE (R866): Every 10 µs the power meter sums rail currents for the fast limiter. -/
  | powerMeterSample (mw : Nat)
  /-- POLICY_PLAN (R868): Every 10 ms the policy engine plans island voltages, widths and shares. -/
  | policyPlan (volts : List (Nat × Nat)) (miss : List Nat) (widths : List (Nat × Nat)) (weights : List (Nat × Nat × Nat))
  /-- ESTIMATOR_FIT (R869): Every 10 ms the estimator updates its fit, and every 1 s assigns each island a confidence. -/
  | estimatorFit (pows : List (Nat × Nat)) (pkg : Nat) (div : List Nat) (confs : List (Nat × Nat × Nat))
  /-- QUIET_SLICE (R870): An island with LOW confidence for 30 s gets a 50 µs quiet slice, or guard bands widen. -/
  | quietSlice
  /-- QUIET_SLICE_END (R871): A quiet slice ends after 50 µs and the island resumes. -/
  | quietSliceEnd
  /-- HARDWARE_TRIP (R872): A trip comparator disconnects every island, asserts THERMTRIP_N and writes the trip record. -/
  | hardwareTrip (id : Nat) (ok : Bool)
  /-- SHUTDOWN_LOG (R884): After the herds drain or 4 ms, MGS drains RL ports and writes the shutdown record. -/
  | shutdownLog (ok : Bool)
  /-- SHUTDOWN_POWER_OFF (R884): Every island goes to 0 V and the outcome becomes NOT_READY. -/
  | shutdownPowerOff
  /-- THM_SHUT_CLEAR (R887): A write of 1 to THM_SHUT.CLEAR clears a cooled latch and performs a package warm reset. -/
  | thmShutClear (fn v : Nat)
  /-- THM_CAP_WRITE (R14): A write to THM_CAP.WATTS sets the power cap, clamped to the licensed range. -/
  | thmCapWrite (fn v : Nat)
  /-- THM_THRESHOLD_WRITE (R859): A write of thresholds or hystereses on THM instance 0 is stored clamped. -/
  | thmThresholdWrite (fn c : Nat) (sh : Bool) (v : Nat)
  /-- SENSE_TMAX_CLR (R999): A write of 1 to SENSE_TMAX.CLR sets MAX to the current reading. -/
  | senseTmaxClr (fn i v : Nat)
  /-- SENSE_PACE_MM_CLR (R117): A write of 1 to SENSE_PACE_MM.CLR resets the pace minimum and maximum. -/
  | sensePaceMmClr (fn i v : Nat)
  /-- STAGE_POWER (R924): Bring-up stage POWER releases cold reset and starts the hub clocks. -/
  | stagePower
  /-- STAGE_ROM (R924): Bring-up stage ROM reads OTP. -/
  | stageRom (ok : Bool)
  /-- STAGE_IMAGE (R840): Bring-up stage IMAGE selects and checks the firmware image. -/
  | stageImage (sigA sigB : Bool)
  /-- STAGE_MGS (R854): Bring-up stage MGS reaches RUN and reads the boot record, licences, configuration and defect map. -/
  | stageMgs (flash : Bool)
  /-- STAGE_SENSE (R924): Bring-up stage SENSE reads every sensor. -/
  | stageSense (rs : List (Nat × Option Nat)) (ok : Bool)
  /-- STAGE_ISLANDS (R159): Bring-up stage ISLANDS powers the islands frame by frame. -/
  | stageIslands
  /-- STAGE_LINKS (R945): Bring-up stage LINKS trains all bridge links. -/
  | stageLinks (lanes : List (Nat × Nat × Nat))
  /-- STAGE_ROD_TEST (R928): Bring-up stage ROD_TEST runs the logic self-test of every physical rod. -/
  | stageRodTest (bad : List Nat)
  /-- STAGE_CHECKER (R401): Bring-up stage CHECKER runs the page-code checker self-test. -/
  | stageChecker (bad : List Nat)
  /-- STAGE_ROD_MAP (R929): Bring-up stage ROD_MAP maps logical rods onto physical rods. -/
  | stageRodMap
  /-- STAGE_CHAN_TRAIN (R161): Bring-up stage CHAN_TRAIN trains every bead channel. -/
  | stageChanTrain (bad : List Nat) (holds : List (Nat × Nat))
  /-- STAGE_SPAD_TEST (R401): Bring-up stage SPAD_TEST runs the scratchpad march. -/
  | stageSpadTest (bad : List Nat)
  /-- STAGE_BEAD_TEST (R401): Bring-up stage BEAD_TEST runs the bead page march. -/
  | stageBeadTest (bad : List (Nat × Nat))
  /-- STAGE_RETIRE (R401): Bring-up stage RETIRE retires defect-map and march failures. -/
  | stageRetire
  /-- STAGE_ZERO (R401): Bring-up stage ZERO zero-fills every page at class T = 8. -/
  | stageZero
  /-- STAGE_LANE_TEST (R622): Bring-up stage LANE_TEST tests bridge lanes by profile and sets widths. -/
  | stageLaneTest (pass : List (Nat × Nat × Nat))
  /-- STAGE_GRID (R932): Bring-up stage GRID brings routers and bridges into routing, and runs the warm pass work. -/
  | stageGrid (checker chans : List Nat) (holds : List (Nat × Nat)) (spads : List Nat) (march : List (Nat × Nat))
  /-- STAGE_LICENCE (R20): Bring-up stage LICENCE applies the stored licence set. -/
  | stageLicence (sig : Bool)
  /-- STAGE_PCIE (R933): Bring-up stage PCIE makes configuration requests complete normally. -/
  | stagePcie
  /-- STAGE_RL (R927): Bring-up stage RL starts the ports and ends when training settles or after 3 s. -/
  | stageRl
  /-- STAGE_JUDGE (R938): Bring-up stage JUDGE applies the readiness criteria and chooses the outcome. -/
  | stageJudge
  /-- STAGE_SERVICE (R924): Bring-up stage SERVICE writes the outcome and starts the KVM and policy engine. -/
  | stageService
  /-- STAGE_OVERRUN (R926): A stage that exceeds twice its bound is recorded and its pending elements fail. -/
  | stageOverrun
  /-- COLD_RESET_ASSERT (R972): COLD_RESET_N low, a rail below its threshold or a loss of SYSCLK holds the package in cold reset. -/
  | coldResetAssert (rail : Option Nat)
  /-- COLD_RESET_END (R972): Cold reset ends 100 µs after its conditions clear and the straps are sampled. -/
  | coldResetEnd (i2ca : Nat) (recov test : Bool)
  /-- PERST_N_ASSERT (R107): PERST_N asserted performs a package warm reset. -/
  | perstNAssert
  /-- PERST_N_DEASSERT (R807): PERST_N deasserted starts PCIe link training within 20 ms. -/
  | perstNDeassert
  /-- PWR_WARN_FALL (R981): PWR_WARN_N low makes MGS persist the log and start no other flash write. -/
  | pwrWarnFall
  /-- PWR_WARN_RISE (R992): PWR_WARN_N high again lets flash writes start again. -/
  | pwrWarnRise
  /-- RAIL_OOT (R990): A rail leaving its tolerance sets its OOT bit and raises RAIL_OOT. -/
  | railOot (k mv : Nat)
  /-- RAIL_OVERVOLTAGE (R991): A rail above 110 % of nominal for 2 µs acts as a rail below its reset threshold. -/
  | railOvervoltage (k mv : Nat)
  /-- RLCLK_LOSS (R971): A loss of an RL reference clock makes every port it feeds lose lock. -/
  | rlclkLoss (c : Nat)
  /-- EXTEST (R1003): The TAP instruction EXTEST selects the boundary register, acting only in test mode. -/
  | extest (ic pins din : Nat)
  /-- IDCODE (R1004): The TAP instruction IDCODE shifts out the IDCODE of each included die. -/
  | idcode (ic : Nat)
  /-- SAMPLE_PRELOAD (R1003): The TAP instruction SAMPLE/PRELOAD samples the boundary register. -/
  | samplePreload (ic pins din : Nat)
  /-- EXTEST_PULSE (R1006): The TAP instruction EXTEST_PULSE drives IEEE 1149.6 pulses on the TX pairs in test mode. -/
  | extestPulse (ic pins din : Nat)
  /-- EXTEST_TRAIN (R1006): The TAP instruction EXTEST_TRAIN drives IEEE 1149.6 pulse trains on the TX pairs in test mode. -/
  | extestTrain (ic pins din : Nat)
  /-- CLAMP (R1003): The TAP instruction CLAMP holds the outputs and selects bypass in test mode. -/
  | clamp (ic : Nat)
  /-- HIGHZ (R1003): The TAP instruction HIGHZ floats the outputs and selects bypass in test mode. -/
  | highz (ic : Nat)
  /-- CCR_ACCESS (R1001): The TAP instruction CCR_ACCESS shifts the chain configuration register. -/
  | ccrAccess (ic din : Nat)
  /-- DIE_ACCESS (R1007): The TAP instruction DIE_ACCESS reaches the IEEE 1838 wrappers of the included dies. -/
  | dieAccess (ic : Nat) (ins : List (Nat × Nat)) (cap : List Bool)
  /-- IJTAG (R1008): The TAP instruction IJTAG reaches the IEEE 1687 instruments of the included dies. -/
  | ijtag (ic d what raw : Nat)
  /-- TAP_TEST_STAT (R1017): The TAP instruction TEST_STAT shifts out the test status register. -/
  | tapTestStat (ic : Nat)
  /-- TAP_BYPASS (R1003): The TAP instruction BYPASS, or any unknown code, selects the bypass register. -/
  | tapBypass (ic code : Nat)
  /-- ISLAND_PWR (R1008): The ISLAND_PWR instrument commands an island to 0.80 V or 0 V in test mode. -/
  | islandPwr (j : Nat) (on : Bool)
  /-- LANE_MARGIN (R1010): A lane margin run measures a lane's eye, and holds the START of an OFF link or port until it ends. -/
  | laneMargin (d kind k width height : Nat) (ladder : Bool)
  /-- ROD_LOGIC_BIST (R1008): The rod logic BIST and scratchpad march instrument runs on a physical rod in test mode. -/
  | rodLogicBist (p : Nat) (pass : Bool)
  /-- BEAD_ARRAY_MARCH (R1008): The bead-array march instrument tests a memory layer and lists failing pages in test mode. -/
  | beadArrayMarch (m p : Nat) (fails : List Nat)
  /-- TEST_LOGIC_RESET (R1014): Test-Logic-Reset ends every test within 10 µs and returns the wrappers and the CCR to reset. -/
  | testLogicReset
  /-- BRG_LANE_LOCK_LOSS (R585): A bridge lane receiver that loses symbol lock counts its lane as above 1e-6 at once, and the link climbs the sparing ladder. -/
  | brgLaneLockLoss (n d l : Nat)
  /-- PCIE_LINK_CHANGE (R771): The host link changes rate or width, or enters or leaves ASPM L1, updating HIF_LINK and raising LINK_CHANGE. -/
  | pcieLinkChange (rate width : Nat) (flit l1 : Bool)
  /-- MSIX_VECTOR_UNMASK (R785): A host write to the MSI-X table in BAR4 masks or unmasks a vector, and unmasking sends a message whose pending bit is set. -/
  | msixVectorUnmask (fn vec addr data : Nat) (mask : Bool)
  /-- REQUESTFIRMWAREDATA_RESPONSE (R818): The update agent's response to the device's PLDM RequestFirmwareData arrives with image bytes, which are written into the inactive slot. -/
  | requestfirmwaredataResponse (port off : Nat) (data : List Byte) (sig ok : Bool)
  /-- VIDEO_JOB_START (R864): A pipe starts its next queued job once the arbiter grants it and, under hub throttle, 1 ms has passed since its previous job ended. -/
  | videoJobStart (v n k : Nat)
  /-- MARGIN_RUN_END (R1010): A lane margin run ends, clearing GLB_TEST.ACTIVE and releasing the START hold on its link or port. -/
  | marginRunEnd (kind k : Nat)
  deriving DecidableEq, Repr

end Sys2Proof
end

