-- ==== Sys2Proof/WellFormed.lean ====
section
/-! DEFINITION. Which commands are well formed: register numbers, instances and fields in the ranges the spec gives them, and a rod command
word that spells the command of its row. -/
namespace Sys2Proof

/-- `x` is one of `n` values. -/
def below (n x : Nat) : Bool := decide (x < n)

/-- A port of this device, and the field widths of Table 12-4. -/
def Via.ok (v : Via) : Bool := below 16 v.port && below (2 ^ 18) v.dst && below (2 ^ 18) v.src && below 64 v.hops && below (2 ^ 14) v.age

/-- The base of a page of BAR0 (R35, R36). -/
def okPage (p : Nat) : Bool := below (2 ^ 27) p && p % 0x1000 == 0

/-- An aligned register offset of BAR0 (R36, R40). -/
def okReg (a : Nat) : Bool := below (2 ^ 27) a && a % 4 == 0

/-- A rate and a width of the host link (Table 15-1). -/
def okLink (rate width : Nat) : Bool := decide (1 ≤ rate) && decide (rate ≤ 6) && [1, 2, 4, 8, 16].contains width

/-- An MCTP port: 1 the host's VDM port, 2 the I3C port (R814). -/
def okPort (p : Nat) : Bool := p == 1 || p == 2

/-- The unit and operation of a rod command word (Table 4-2). -/
def wordKind (w : CmdWord) : Nat × Nat := ((w >>> 124).toNat, (w >>> 116).toNat % 256)

/-- The word is of unit `u` and operation `o` (Tables 4-6 to 4-8). -/
def okWord (u o : Nat) (w : CmdWord) : Bool := wordKind w == (u, o)

/-- The units and operations of the command catalogue (Tables 4-6 to 4-8). -/
def catalogue : List (Nat × Nat) :=
  [(0, 0x00), (0, 0x01), (0, 0x02), (0, 0x03), (0, 0x04), (0, 0x05), (0, 0x06), (0, 0x08), (0, 0x09), (0, 0x0A), (0, 0x10),
   (0, 0x11), (0, 0x12), (0, 0x13), (0, 0x14), (0, 0x15), (0, 0x16), (0, 0x17), (0, 0x18), (0, 0x19), (0, 0x1A), (0, 0x1B),
   (0, 0x1C), (0, 0x20), (0, 0x21), (0, 0x28), (0, 0x29), (1, 0x01), (1, 0x02), (1, 0x03), (1, 0x04), (2, 0x01), (2, 0x02),
   (2, 0x03), (3, 0x01), (4, 0x01), (4, 0x02), (4, 0x03), (4, 0x04), (4, 0x05), (4, 0x06), (4, 0x07), (4, 0x08), (4, 0x09),
   (4, 0x0A), (5, 0x01), (5, 0x02), (5, 0x03), (5, 0x04), (6, 0x01), (6, 0x02), (6, 0x03), (6, 0x04), (7, 0x00), (7, 0x01),
   (7, 0x02), (7, 0x03), (7, 0x04), (7, 0x05)]

/-- NOP, or a word that names no command, which is issued as ILLEGAL_CMD (R167, R206). -/
def okNop (w : CmdWord) : Bool := okWord 0 0 w || !catalogue.contains (wordKind w)

/-- A well-formed command. -/
def Instr.wellFormed (c : Instr) : Bool :=
  match c with
  | .registerWrite fn off _ v be => below 128 fn && below (2 ^ 27) off && below (2 ^ 64) v && below 256 be
  | .bar0ReadTimeout fn a _ => below 128 fn && okReg a
  | .bar0WriteTimeout fn a => below 128 fn && okReg a
  | .pgLockSet fn p v => below 128 fn && below (2 ^ 32) v && okPage p
  | .pgEvtClear fn p v => below 128 fn && below (2 ^ 32) v && okPage p
  | .pgEvtEnWrite fn p v => below 128 fn && below (2 ^ 32) v && okPage p
  | .pgEvtRouteWrite fn p v => below 128 fn && below (2 ^ 32) v && okPage p
  | .notifyRodHeldSend p => okPage p
  | .pgErrFirstClear fn p v => below 128 fn && below (2 ^ 32) v && okPage p
  | .pgErrCntClr fn p v => below 128 fn && below (2 ^ 32) v && okPage p
  | .pgOwnerWrite fn p => below 128 fn && okPage p
  | .lifeNop fn a tag => below 128 fn && below 256 tag && okReg a
  | .lifeStart fn a tag => below 128 fn && below 256 tag && okReg a
  | .lifeDrain fn a tag dl => below 128 fn && below 256 tag && below 65536 dl && okReg a
  | .lifeStop fn a tag => below 128 fn && below 256 tag && okReg a
  | .lifeClear fn a tag => below 128 fn && below 256 tag && okReg a
  | .lifeBadCmd fn a cmd tag => below 128 fn && decide (5 ≤ cmd) && below 16 cmd && below 256 tag && okReg a
  | .blockStartDone a _ _ _ _ => okReg a
  | .startAbortSafePoint a => okReg a
  | .drainDone a => okReg a
  | .drainDeadlineExpiry a => okReg a
  | .blockReachesOff a => okReg a
  | .offSelftestFail a _ => okReg a
  | .controlParityError p _ _ _ _ => okPage p
  | .islCmd fn j v _ => below 128 fn && below 64 j && below (2 ^ 32) v
  | .ivrRampStart j _ => below 64 j
  | .settled j _ => below 64 j
  | .islCtlManualWrite fn j v => below 128 fn && below 64 j && below (2 ^ 32) v
  | .islFlagsVrFaultClear fn j v => below 128 fn && below 64 j && below (2 ^ 32) v
  | .vrSlow j _ => below 64 j
  | .vrUnder j _ => below 64 j
  | .vrOver j _ => below 64 j
  | .paceWindowEnd i _ _ _ => below 1024 i
  | .islandStable j _ => below 64 j
  | .calibrationPeriodic i _ => below 1024 i
  | .calibrationDone i _ _ => below 1024 i
  | .calibrationTimeout i _ => below 1024 i
  | .calRetry i _ => below 1024 i
  | .chanRetrainDone i _ _ _ => below 1024 i
  | .unitStart i u _ => below 1024 i && below 8 u
  | .unitComplete i _ _ => below 1024 i
  | .programEnded i => below 1024 i
  | .ctlNop i w => below 1024 i && okNop w
  | .halt i w => below 1024 i && okWord 0 0x01 w
  | .br i w => below 1024 i && okWord 0 0x02 w
  | .jr i w => below 1024 i && okWord 0 0x03 w
  | .call i w => below 1024 i && okWord 0 0x04 w
  | .isync i w => below 1024 i && okWord 0 0x05 w
  | .evt i w => below 1024 i && okWord 0 0x06 w
  | .lset i w => below 1024 i && okWord 0 0x08 w
  | .lbr i w => below 1024 i && okWord 0 0x09 w
  | .lget i w => below 1024 i && okWord 0 0x0A w
  | .mov i w => below 1024 i && okWord 0 0x10 w
  | .add i w => below 1024 i && okWord 0 0x11 w
  | .sub i w => below 1024 i && okWord 0 0x12 w
  | .mul i w => below 1024 i && okWord 0 0x13 w
  | .and i w => below 1024 i && okWord 0 0x14 w
  | .or i w => below 1024 i && okWord 0 0x15 w
  | .xor i w => below 1024 i && okWord 0 0x16 w
  | .shl i w => below 1024 i && okWord 0 0x17 w
  | .shr i w => below 1024 i && okWord 0 0x18 w
  | .sra i w => below 1024 i && okWord 0 0x19 w
  | .min i w => below 1024 i && okWord 0 0x1A w
  | .max i w => below 1024 i && okWord 0 0x1B w
  | .movh i w => below 1024 i && okWord 0 0x1C w
  | .scmp i w => below 1024 i && okWord 0 0x20 w
  | .plog i w => below 1024 i && okWord 0 0x21 w
  | .sld i w => below 1024 i && okWord 0 0x28 w
  | .sst i w => below 1024 i && okWord 0 0x29 w
  | .tok i w => below 1024 i && okWord 7 0x00 w
  | .tset i w => below 1024 i && okWord 7 0x01 w
  | .fence i w => below 1024 i && okWord 7 0x02 w
  | .delay i w => below 1024 i && okWord 7 0x03 w
  | .time i w => below 1024 i && okWord 7 0x04 w
  | .wdog i w => below 1024 i && okWord 7 0x05 w
  | .waitTimeout i _ => below 1024 i
  | .tokenStall i => below 1024 i
  | .seqStart fn i v => below 128 fn && below 1024 i && below (2 ^ 32) v
  | .seqAbort fn i v => below 128 fn && below 1024 i && below (2 ^ 32) v
  | .seqTsig fn i v => below 128 fn && below 1024 i && below (2 ^ 32) v
  | .dbgPause fn i v => below 128 fn && below 1024 i && below (2 ^ 32) v
  | .dbgResume fn i v => below 128 fn && below 1024 i && below (2 ^ 32) v
  | .dbgStep fn i v => below 128 fn && below 1024 i && below (2 ^ 32) v
  | .dbgDataCommit fn i v => below 128 fn && below 1024 i && below (2 ^ 32) v
  | .srun i w => below 1024 i && okWord 1 0x01 w
  | .scred i w => below 1024 i && okWord 1 0x02 w
  | .sflush i w => below 1024 i && okWord 1 0x03 w
  | .sstat i w => below 1024 i && okWord 1 0x04 w
  | .owld i w => below 1024 i && okWord 2 0x01 w
  | .oswap i w => below 1024 i && okWord 2 0x02 w
  | .omm i w => below 1024 i && okWord 2 0x03 w
  | .gmv i w => below 1024 i && okWord 3 0x01 w
  | .vld i w => below 1024 i && okWord 4 0x01 w
  | .vst i w => below 1024 i && okWord 4 0x02 w
  | .vop i w => below 1024 i && okWord 4 0x03 w
  | .vfn i w => below 1024 i && okWord 4 0x04 w
  | .vred i w => below 1024 i && okWord 4 0x05 w
  | .vcvt i w => below 1024 i && okWord 4 0x06 w
  | .vacc i w => below 1024 i && okWord 4 0x07 w
  | .vtos i w => below 1024 i && okWord 4 0x08 w
  | .vcmp i w => below 1024 i && okWord 4 0x09 w
  | .vlse i w => below 1024 i && okWord 4 0x0A w
  | .msend i w => below 1024 i && okWord 5 0x01 w
  | .mrecv i w => below 1024 i && okWord 5 0x02 w
  | .mpoll i w => below 1024 i && okWord 5 0x03 w
  | .mflush i w => below 1024 i && okWord 5 0x04 w
  | .kapp i w _ => below 1024 i && okWord 6 0x01 w
  | .kattn i w _ => below 1024 i && okWord 6 0x02 w
  | .kring i w _ => below 1024 i && okWord 6 0x03 w
  | .kstat i w _ => below 1024 i && okWord 6 0x04 w
  | .kringResume i _ _ => below 1024 i
  | .beadRequest _ => true
  | .beadFillDone i q _ errs _ _ => below 1024 i && below 49152 q && errs.all (below 1728)
  | .beadWback fn i v => below 128 fn && below 1024 i && below (2 ^ 32) v
  | .beadWbackDone w => below 1024 w.rod && w.crc.all (fun e => below 49152 e.1)
  | .beadRefresh i k => below 1024 i && below 8 k
  | .patrolScrub i p => below 1024 i && p.errs.all (below 1728)
  | .asWindowEnd i => below 1024 i
  | .recodeSweepDone i r => below 1024 i && below 96 r
  | .beadRclassWrite fn i j v => below 128 fn && below 1024 i && below 12 j && below (2 ^ 32) v
  | .beadCodeCtlWrite fn i v => below 128 fn && below 1024 i && below (2 ^ 32) v
  | .zeroDone i => below 1024 i
  | .streamRequestIssue i k => below 1024 i && below 8 k
  | .streamPageResponse _ _ => true
  | .streamEnd i k => below 1024 i && below 8 k
  | .strmCtlWrite fn i v => below 128 fn && below 1024 i && below (2 ^ 32) v
  | .framedWordArrival _ _ _ _ => true
  | .xlatWalkDone i _ _ => below 1024 i
  | .faultRecordWrite i _ => below 1024 i
  | .xlatPcomp fn i v => below 128 fn && below 1024 i && below (2 ^ 32) v
  | .pagerComplete i => below 1024 i
  | .pagerInvalidate i => below 1024 i
  | .pagerTimeout i _ => below 1024 i
  | .xlatInv fn i v => below 128 fn && below 1024 i && below (2 ^ 32) v
  | .invDone n => below 128 n
  | .xlatPagerWrite fn i v => below 128 fn && below 1024 i && below (2 ^ 32) v
  | .tierPause fn i v => below 128 fn && below 1024 i && below (2 ^ 32) v
  | .tierEnable fn i v => below 128 fn && below 1024 i && below (2 ^ 32) v
  | .tierWindowEnd n _ => below 128 n
  | .migrationInvalidated n _ _ => below 128 n
  | .migrationCopyDone n _ _ => below 128 n
  | .gridPacketHop _ _ _ _ _ _ data _ _ => decide (1 ≤ data.length) && decide (data.length ≤ 256)
  | .herdReset fn n v => below 128 fn && below 128 n && below (2 ^ 32) v
  | .herdResize fn n v => below 128 fn && below 128 n && below (2 ^ 32) v
  | .resized n => below 128 n
  | .herdShareWrite fn n _ v => below 128 fn && below 128 n && below (2 ^ 32) v
  | .reservation _ _ => true
  | .grant t ch => below 1024 t && below 32 ch
  | .reservationRetry _ _ => true
  | .itemAnswer _ _ => true
  | .resvTimeout _ _ => true
  | .msgChBufWrite fn i k v => below 128 fn && below 1024 i && below 32 k && below (2 ^ 32) v
  | .msgChFlush fn i k v => below 128 fn && below 1024 i && below 32 k && below (2 ^ 32) v
  | .probeTimer i _ => below 1024 i
  | .probe _ => true
  | .confirmation _ => true
  | .brgFlitReceived n d seq ack vc errs _ op =>
    below 32 n && below 2 d && below 4096 seq && below 4096 ack && below 6 vc && below 256 op && errs.all (fun e => below 16 e.1 && below 72 e.2)
  | .brgCredit n d ack c => below 32 n && below 2 d && below 4096 ack && c.length == 6 && c.all (below 256)
  | .brgNak n d seq ack => below 32 n && below 2 d && below 4096 seq && below 4096 ack
  | .carry n d seq ack home first count => below 32 n && below 2 d && below 4096 seq && below 4096 ack && below 256 home && below 4096 first && below 256 count
  | .swap n d seq ack dir lg l => below 32 n && below 2 d && below 4096 seq && below 4096 ack && below 2 dir && below 256 lg && below 18 l
  | .brgWidth n d seq ack w ab ba => below 32 n && below 2 d && below 4096 seq && below 4096 ack && below 256 w && below (2 ^ 18) ab && below (2 ^ 18) ba
  | .brgDrainEnd n d seq ack => below 32 n && below 2 d && below 4096 seq && below 4096 ack
  | .brgCreditTimer n d => below 32 n && below 2 d
  | .brgReplayTimeout n d => below 32 n && below 2 d
  | .laneErrorRate n d l _ _ _ => below 32 n && below 2 d && below 18 l
  | .spareTrained n d l _ => below 32 n && below 2 d && below 18 l
  | .linkRetrainDone n ab ba => below 32 n && below (2 ^ 18) ab && below (2 ^ 18) ba
  | .groupReturn n => below 32 n
  | .linkDrainEnd n => below 32 n
  | .brgCreditTimeout n d vc => below 32 n && below 2 d && below 6 vc
  | .brgCtlWrite fn n v => below 128 fn && below 32 n && below (2 ^ 32) v
  | .rlFlitReceived p seq ack vc cvc cn errs cws _ op =>
    below 16 p && below 4096 seq && below 4096 ack && below 8 vc && below 8 cvc && below 256 cn && below 256 op
      && errs.all (below 2048) && cws.all (fun c => below 4 c.1 && below 65536 c.2.1 && below 545 c.2.2)
  | .rlNak p seq ack => below 16 p && below 4096 seq && below 4096 ack
  | .hello p serial node epoch port _ host pri kserial => below 16 p && below (2 ^ 64) serial && below (2 ^ 18) node && below 256 epoch && below 256 port && below 256 host && below 256 pri && below (2 ^ 64) kserial
  | .rlWidth p seq ack w rx tx => below 16 p && below 4096 seq && below 4096 ack && below 256 w && below 256 rx && below 256 tx
  | .rlDrainEnd p seq ack => below 16 p && below 4096 seq && below 4096 ack
  | .helloTimer p => below 16 p
  | .rlIdleTimer p => below 16 p
  | .rlReplayTimeout p => below 16 p
  | .rlPartnerSignal p => below 16 p
  | .rlTrainDone p rx tx => below 16 p && below 256 rx && below 256 tx
  | .rlAlignDone p => below 16 p
  | .rlLaneWindow p l _ _ => below 16 p && below 4 l
  | .rlLaneLockLoss p l => below 16 p && below 4 l
  | .rlRetrainDone p => below 16 p
  | .rlDrainDone p => below 16 p
  | .rlCreditTimeout p vc => below 16 p && below 8 vc
  | .rlpCtlWrite fn p v => below 128 fn && below 16 p && below (2 ^ 32) v
  | .rlPacketArrival p dst src hops age cls len _ serial _ _ _ _ _ body => below 16 p && below (2 ^ 18) dst && below (2 ^ 18) src && below 64 hops && below (2 ^ 14) age && below 8 cls && below (2 ^ 13) len && below (2 ^ 64) serial && body.length == len
  | .escapeTimer _ => true
  | .claim inp serial _ host pri kserial => inp.ok && below (2 ^ 64) serial && below 256 host && below 256 pri && below (2 ^ 64) kserial
  | .claimTimer => true
  | .heartbeat inp serial _ host pri kserial node _ => inp.ok && below (2 ^ 64) serial && below 256 host && below 256 pri && below (2 ^ 64) kserial && below (2 ^ 18) node
  | .heartbeatTimer => true
  | .fmLost => true
  | .topoReq src _ => below (2 ^ 18) src
  | .topoRep serial _ node epoch _ => below (2 ^ 64) serial && below (2 ^ 18) node && below 256 epoch
  | .assign src _ node epoch => below (2 ^ 18) src && below (2 ^ 18) node && below 256 epoch
  | .assignAck serial _ => below (2 ^ 64) serial
  | .routeWrite src _ _ _ _ => below (2 ^ 18) src
  | .routeAck src _ => below (2 ^ 18) src
  | .announce inp serial _ _ node epoch => inp.ok && below (2 ^ 64) serial && below (2 ^ 18) node && below 256 epoch
  | .portEvent serial port phase pserial pport _ => below (2 ^ 64) serial && below 16 port && below 8 phase && below (2 ^ 64) pserial && below 16 pport
  | .leaveReq serial node epoch _ => below (2 ^ 64) serial && below (2 ^ 18) node && below 256 epoch
  | .managerRepeatTimer serial => below (2 ^ 64) serial
  | .topoTimeout serial _ => below (2 ^ 64) serial
  | .e2eLeave fn v => below 128 fn && below (2 ^ 32) v
  | .rtrHostfmClaim fn v => below 128 fn && below (2 ^ 32) v
  | .rtrHostfmRelease fn v => below 128 fn && below (2 ^ 32) v
  | .e2eRequest => true
  | .e2eResponse => true
  | .e2eAttemptTimer tag => below (2 ^ 14) tag
  | .e2ePendingTimer src tag => below (2 ^ 18) src && below (2 ^ 14) tag
  | .e2ePendingGiveup tag => below (2 ^ 14) tag
  | .dupEntryExpiry src tag => below (2 ^ 18) src && below (2 ^ 14) tag
  | .quietEnd => true
  | .kvmOpgo fn v => below 128 fn && below (2 ^ 32) v
  | .kvmOpen => true
  | .kvmClose => true
  | .setBudget => true
  | .kvmMove => true
  | .kvmPin => true
  | .kvmBadOp => true
  | .rebalance n => below 128 n
  | .moveCopyDone _ => true
  | .pairMoved _ _ => true
  | .moveFail _ _ => true
  | .movedExpiry i _ => below 1024 i
  | .kvPoolCfgWrite fn i r v => below 128 fn && below 1024 i && below 3 r && below (2 ^ 32) v
  | .videoOpen v n _ => below 4 v && below 128 n
  | .videoClose v n _ => below 4 v && below 128 n
  | .decode v _ _ => below 4 v
  | .encode v _ _ _ => below 4 v
  | .endOfStream v n _ _ => below 4 v && below 128 n
  | .videoJobDone v _ _ => below 4 v
  | .sliceNote v _ _ _ _ _ => below 4 v
  | .tensorizeRow v _ _ _ _ => below 4 v
  | .sqDoorbell fn off v => below 128 fn && below (2 ^ 17) off && below (2 ^ 32) v
  | .cqDoorbell fn off v => below 128 fn && below (2 ^ 17) off && below (2 ^ 32) v
  | .entryFetch n q _ _ _ _ _ => below 128 n && below 8 q
  | .entryNop n q _ => below 128 n && below 8 q
  | .deliver n q _ => below 128 n && below 8 q
  | .copy n q _ _ _ _ _ => below 128 n && below 8 q
  | .load n q _ _ _ _ => below 128 n && below 8 q
  | .entryKvm n q _ => below 128 n && below 8 q
  | .entryVideo n _ _ => below 128 n
  | .entryCompletion n q _ => below 128 n && below 8 q
  | .imodTimer n q => below 128 n && below 8 q
  | .hqFlush fn n q v _ => below 128 fn && below 128 n && below 8 q && below (2 ^ 32) v
  | .hqCfgWrite fn n q v => below 128 fn && below 128 n && below 8 q && below (2 ^ 32) v
  | .hqDestWrite fn n q v => below 128 fn && below 128 n && below 8 q && below (2 ^ 32) v
  | .bar2Read fn off _ _ => below 128 fn && below (2 ^ 40) off
  | .bar2Write fn off _ _ _ => below 128 fn && below (2 ^ 40) off
  | .atsInvalidate fn _ _ _ => below 128 fn
  | .translationCompletion fn _ _ _ _ _ => below 128 fn
  | .prgResponse fn _ _ _ => below 128 fn
  | .hostCompletion _ _ _ _ => true
  | .completionTimeout _ => true
  | .configRequest fn _ => below 128 fn
  | .rrsDeadline => true
  | .flr fn => below 128 fn
  | .vfEnableClear => true
  | .hotReset => true
  | .powerStateChange fn _ => below 128 fn
  | .busMasterChange fn _ => below 128 fn
  | .resizableBarWrite _ => true
  | .memorySpaceDisable fn => below 128 fn
  | .linkUp rate width _ => okLink rate width
  | .mbCmd fn _ v => below 128 fn && below (2 ^ 32) v
  | .mbNop => true
  | .getInfo => true
  | .sensorRead => true
  | .logRead => true
  | .logWrite => true
  | .logAckLost => true
  | .fwBegin _ _ => true
  | .fwData _ => true
  | .fwVerify _ => true
  | .fwActivate _ => true
  | .fwAbort => true
  | .licInstall _ _ => true
  | .licRead => true
  | .unlock => true
  | .configGet => true
  | .configSet _ => true
  | .fmStatus => true
  | .fmPlan _ => true
  | .fmNodes => true
  | .defectRead => true
  | .mbBadOpcode => true
  | .mctpMessage port _ _ _ _ _ _ => okPort port
  | .setEndpointId port _ => okPort port
  | .getEndpointId port => okPort port
  | .getMctpVersionSupport port => okPort port
  | .getMessageTypeSupport port => okPort port
  | .gettid port => okPort port
  | .getpldmversion port _ => okPort port
  | .getpldmtypes port => okPort port
  | .getpldmcommands port _ => okPort port
  | .getpdrrepositoryinfo port => okPort port
  | .getpdr port _ => okPort port
  | .getsensorreading port _ => okPort port
  | .getstatesensorreadings port _ => okPort port
  | .setnumericeffectervalue port _ _ => okPort port
  | .getnumericeffectervalue port _ => okPort port
  | .seteventreceiver port _ => okPort port
  | .pollforplatformeventmessage port => okPort port
  | .querydeviceidentifiers port => okPort port
  | .getfirmwareparameters port => okPort port
  | .requestupdate port _ => okPort port
  | .passcomponenttable port => okPort port
  | .updatecomponent port _ => okPort port
  | .activatefirmware port _ _ => okPort port
  | .getstatus port => okPort port
  | .cancelupdate port => okPort port
  | .getMeasurements port _ _ => okPort port
  | .spdmRequest port _ _ => okPort port
  | .i3cDynamicAddress _ => true
  | .rstdaa => true
  | .updateSessionIdle => true
  | .trialCommit => true
  | .mgsWdog _ => true
  | .mgsRestartRun _ _ => true
  | .tallyPersist _ => true
  | .flashVerify _ _ => true
  | .xspiTimeout => true
  | .sensorRefresh _ _ => true
  | .ceilingRelax j => below 64 j
  | .powerMeterSample _ => true
  | .policyPlan _ _ _ _ => true
  | .estimatorFit _ _ _ _ => true
  | .quietSlice => true
  | .quietSliceEnd => true
  | .hardwareTrip _ _ => true
  | .shutdownLog _ => true
  | .shutdownPowerOff => true
  | .thmShutClear fn v => below 128 fn && below (2 ^ 32) v
  | .thmCapWrite fn v => below 128 fn && below (2 ^ 32) v
  | .thmThresholdWrite fn c _ v => below 128 fn && below 3 c && below (2 ^ 32) v
  | .senseTmaxClr fn i v => below 128 fn && below 1024 i && below (2 ^ 32) v
  | .sensePaceMmClr fn i v => below 128 fn && below 1024 i && below (2 ^ 32) v
  | .stagePower => true
  | .stageRom _ => true
  | .stageImage _ _ => true
  | .stageMgs _ => true
  | .stageSense _ _ => true
  | .stageIslands => true
  | .stageLinks _ => true
  | .stageRodTest _ => true
  | .stageChecker _ => true
  | .stageRodMap => true
  | .stageChanTrain _ _ => true
  | .stageSpadTest _ => true
  | .stageBeadTest _ => true
  | .stageRetire => true
  | .stageZero => true
  | .stageLaneTest _ => true
  | .stageGrid _ _ _ _ _ => true
  | .stageLicence _ => true
  | .stagePcie => true
  | .stageRl => true
  | .stageJudge => true
  | .stageService => true
  | .stageOverrun => true
  | .coldResetAssert _ => true
  | .coldResetEnd _ _ _ => true
  | .perstNAssert => true
  | .perstNDeassert => true
  | .pwrWarnFall => true
  | .pwrWarnRise => true
  | .railOot k _ => below 8 k
  | .railOvervoltage k _ => below 8 k
  | .rlclkLoss _ => true
  | .extest _ _ _ => true
  | .idcode _ => true
  | .samplePreload _ _ _ => true
  | .extestPulse _ _ _ => true
  | .extestTrain _ _ _ => true
  | .clamp _ => true
  | .highz _ => true
  | .ccrAccess _ _ => true
  | .dieAccess _ _ _ => true
  | .ijtag _ _ _ _ => true
  | .tapTestStat _ => true
  | .tapBypass _ _ => true
  | .islandPwr j _ => below 64 j
  | .laneMargin _ _ _ _ _ _ => true
  | .rodLogicBist p _ => below 1088 p
  | .beadArrayMarch m p _ => below 8 m && below 1088 p
  | .testLogicReset => true
  | .brgLaneLockLoss n d l => below 32 n && below 2 d && below 18 l
  | .pcieLinkChange rate width _ _ => okLink rate width
  | .msixVectorUnmask fn _ _ _ _ => below 128 fn
  | .requestfirmwaredataResponse port _ _ _ _ => okPort port
  | .videoJobStart v n _ => below 4 v && below 128 n
  | .marginRunEnd _ _ => true

end Sys2Proof
end

