-- ==== Sys2Proof/Decode.lean ====
section
/-! DEFINITION. Decoding of table words. The block has no instruction encoding of its own: no row of the opcode table gives any bits, so no
word of the table spells a command. A rod's 128-bit command words do (R164). -/
namespace Sys2Proof

/-- The command of rod i that a fetched 128-bit word is, by UNIT and OP (R163, R164, Tables 4-6 to 4-8): NOP stands for a word that names no command,
which is issued as ILLEGAL_CMD (R206). `hs` are the host translations that a KV command reads. -/
def rodCommand (i : Nat) (w : CmdWord) (hs : List (List (Option Nat))) : Instr :=
  match wordKind w with
  | (0, 0x01) => .halt i w
  | (0, 0x02) => .br i w
  | (0, 0x03) => .jr i w
  | (0, 0x04) => .call i w
  | (0, 0x05) => .isync i w
  | (0, 0x06) => .evt i w
  | (0, 0x08) => .lset i w
  | (0, 0x09) => .lbr i w
  | (0, 0x0A) => .lget i w
  | (0, 0x10) => .mov i w
  | (0, 0x11) => .add i w
  | (0, 0x12) => .sub i w
  | (0, 0x13) => .mul i w
  | (0, 0x14) => .and i w
  | (0, 0x15) => .or i w
  | (0, 0x16) => .xor i w
  | (0, 0x17) => .shl i w
  | (0, 0x18) => .shr i w
  | (0, 0x19) => .sra i w
  | (0, 0x1A) => .min i w
  | (0, 0x1B) => .max i w
  | (0, 0x1C) => .movh i w
  | (0, 0x20) => .scmp i w
  | (0, 0x21) => .plog i w
  | (0, 0x28) => .sld i w
  | (0, 0x29) => .sst i w
  | (7, 0x00) => .tok i w
  | (7, 0x01) => .tset i w
  | (7, 0x02) => .fence i w
  | (7, 0x03) => .delay i w
  | (7, 0x04) => .time i w
  | (7, 0x05) => .wdog i w
  | (1, 0x01) => .srun i w
  | (1, 0x02) => .scred i w
  | (1, 0x03) => .sflush i w
  | (1, 0x04) => .sstat i w
  | (2, 0x01) => .owld i w
  | (2, 0x02) => .oswap i w
  | (2, 0x03) => .omm i w
  | (3, 0x01) => .gmv i w
  | (4, 0x01) => .vld i w
  | (4, 0x02) => .vst i w
  | (4, 0x03) => .vop i w
  | (4, 0x04) => .vfn i w
  | (4, 0x05) => .vred i w
  | (4, 0x06) => .vcvt i w
  | (4, 0x07) => .vacc i w
  | (4, 0x08) => .vtos i w
  | (4, 0x09) => .vcmp i w
  | (4, 0x0A) => .vlse i w
  | (5, 0x01) => .msend i w
  | (5, 0x02) => .mrecv i w
  | (5, 0x03) => .mpoll i w
  | (5, 0x04) => .mflush i w
  | (6, 0x01) => .kapp i w hs
  | (6, 0x02) => .kattn i w hs
  | (6, 0x03) => .kring i w hs
  | (6, 0x04) => .kstat i w hs
  | _ => .ctlNop i w

/-- The command that the low `nbits` bits of `w` spell by the bits of the opcode table: none, as no row gives bits. -/
def decodeTableWord (_nbits _w : Nat) : Option Instr := none

end Sys2Proof
end

