-- ==== Sys2Proof/Machine/Fields.lean ====
section
/-! DEFINITION. The names of the register fields of spec/: a field is the offset of its register from the base it is
read at (a page, or the address of a life register), and its bits. Names are the spec's REGISTER_FIELD; an indexed
register's field takes the index. -/
namespace Sys2Proof.Machine

/-- A register field: offset from a base, high bit, low bit. -/
structure Field where
  off : Nat
  hi : Nat
  lo : Nat
  deriving DecidableEq, Repr

/-! ### ALL -/
abbrev PG_ID_TYPE : Field := ⟨0x000, 31, 24⟩
abbrev PG_ID_MAJOR : Field := ⟨0x000, 23, 16⟩
abbrev PG_ID_MINOR : Field := ⟨0x000, 15, 8⟩
abbrev PG_ID_INSTANCE : Field := ⟨0x000, 7, 0⟩
abbrev PG_CAP_BLOCK : Field := ⟨0x004, 31, 16⟩
abbrev PG_CAP_FRAME : Field := ⟨0x004, 9, 8⟩
abbrev PG_CAP_MULTI : Field := ⟨0x004, 5, 5⟩
abbrev PG_CAP_ASSIGNABLE : Field := ⟨0x004, 4, 4⟩
abbrev PG_CAP_LIC_OK : Field := ⟨0x004, 3, 3⟩
abbrev PG_CAP_LICENSED : Field := ⟨0x004, 2, 2⟩
abbrev PG_CAP_LOCKABLE : Field := ⟨0x004, 1, 1⟩
abbrev PG_CAP_LIFE_CTL : Field := ⟨0x004, 0, 0⟩
abbrev PG_LIFE_CMD_DEADLINE : Field := ⟨0x008, 31, 16⟩
abbrev PG_LIFE_CMD_TAG : Field := ⟨0x008, 15, 8⟩
abbrev PG_LIFE_CMD_CMD : Field := ⟨0x008, 3, 0⟩
abbrev PG_LIFE_STAT_FAULT_CAUSE : Field := ⟨0x00C, 31, 24⟩
abbrev PG_LIFE_STAT_LAST_STATUS : Field := ⟨0x00C, 23, 16⟩
abbrev PG_LIFE_STAT_LAST_TAG : Field := ⟨0x00C, 15, 8⟩
abbrev PG_LIFE_STAT_PENDING_START : Field := ⟨0x00C, 3, 3⟩
abbrev PG_LIFE_STAT_STATE : Field := ⟨0x00C, 2, 0⟩
abbrev PG_EVT_EVT : Field := ⟨0x010, 31, 0⟩
abbrev PG_EVT_EN_EN : Field := ⟨0x014, 31, 0⟩
abbrev PG_EVT_ROUTE_CHANNEL : Field := ⟨0x018, 20, 16⟩
abbrev PG_EVT_ROUTE_INDEX : Field := ⟨0x018, 14, 4⟩
abbrev PG_EVT_ROUTE_TARGET : Field := ⟨0x018, 1, 0⟩
abbrev PG_ERR_CNT_CLR : Field := ⟨0x01C, 31, 31⟩
abbrev PG_ERR_CNT_THRESH : Field := ⟨0x01C, 27, 24⟩
abbrev PG_ERR_CNT_COUNT : Field := ⟨0x01C, 23, 0⟩
abbrev PG_ERR_FIRST_VALID : Field := ⟨0x020, 31, 31⟩
abbrev PG_ERR_FIRST_DETAIL : Field := ⟨0x020, 29, 18⟩
abbrev PG_ERR_FIRST_SEV : Field := ⟨0x020, 17, 16⟩
abbrev PG_ERR_FIRST_CODE : Field := ⟨0x020, 15, 0⟩
abbrev PG_ERR_NEXT_VALID : Field := ⟨0x024, 31, 31⟩
abbrev PG_ERR_NEXT_MORE : Field := ⟨0x024, 25, 18⟩
abbrev PG_ERR_NEXT_SEV : Field := ⟨0x024, 17, 16⟩
abbrev PG_ERR_NEXT_CODE : Field := ⟨0x024, 15, 0⟩
abbrev PG_LOCK_LOCKED : Field := ⟨0x028, 0, 0⟩
abbrev PG_OWNER_FREE : Field := ⟨0x02C, 8, 8⟩
abbrev PG_OWNER_GLOBAL : Field := ⟨0x02C, 7, 7⟩
abbrev PG_OWNER_HERD : Field := ⟨0x02C, 6, 0⟩
/-! ### GLB -/
abbrev GLB_PART_STEPPING : Field := ⟨0x080, 23, 16⟩
abbrev GLB_PART_PART : Field := ⟨0x080, 15, 0⟩
abbrev GLB_SERIAL_LO_SERIAL : Field := ⟨0x084, 31, 0⟩
abbrev GLB_SERIAL_HI_SERIAL : Field := ⟨0x088, 31, 0⟩
abbrev GLB_LIC_CAP_MAX_W : Field := ⟨0x08C, 31, 16⟩
abbrev GLB_LIC_HERD_LIMIT : Field := ⟨0x08C, 15, 8⟩
abbrev GLB_LIC_FEATURES : Field := ⟨0x08C, 3, 0⟩
abbrev GLB_READY_RETRAINING : Field := ⟨0x090, 31, 31⟩
abbrev GLB_READY_PROFILE : Field := ⟨0x090, 17, 16⟩
abbrev GLB_READY_STAGE : Field := ⟨0x090, 12, 8⟩
abbrev GLB_READY_OUTCOME : Field := ⟨0x090, 2, 0⟩
abbrev GLB_STATE_HERDS : Field := ⟨0x094, 23, 16⟩
abbrev GLB_STATE_PRESENT : Field := ⟨0x094, 10, 0⟩
abbrev GLB_NODE_NODE_VALID : Field := ⟨0x098, 31, 31⟩
abbrev GLB_NODE_NODE_ID : Field := ⟨0x098, 25, 8⟩
abbrev GLB_NODE_EPOCH : Field := ⟨0x098, 7, 0⟩
abbrev GLB_RESET_WARM_COUNT : Field := ⟨0x09C, 31, 16⟩
abbrev GLB_RESET_LAST : Field := ⟨0x09C, 0, 0⟩
abbrev GLB_SCRATCH_VALUE : Field := ⟨0x0A0, 31, 0⟩
abbrev GLB_STICKY_VALUE : Field := ⟨0x0A4, 31, 0⟩
abbrev GLB_ABSENT_ABSENT (y : Nat) : Field := ⟨0x100 + 4 * y, 31, 0⟩
abbrev GLB_FATAL_VALID : Field := ⟨0x0A8, 31, 31⟩
abbrev GLB_FATAL_COUNT : Field := ⟨0x0A8, 23, 16⟩
abbrev GLB_FATAL_CODE : Field := ⟨0x0A8, 15, 0⟩
abbrev GLB_FATAL_PAGE_PAGE : Field := ⟨0x0AC, 31, 0⟩
abbrev GLB_LOSS_NR_CAUSE : Field := ⟨0x0B0, 18, 16⟩
abbrev GLB_LOSS_LOG : Field := ⟨0x0B0, 8, 8⟩
abbrev GLB_LOSS_UNCHECKED : Field := ⟨0x0B0, 7, 7⟩
abbrev GLB_LOSS_LICENCE : Field := ⟨0x0B0, 6, 6⟩
abbrev GLB_LOSS_TOPO : Field := ⟨0x0B0, 5, 5⟩
abbrev GLB_LOSS_RL_BER : Field := ⟨0x0B0, 4, 4⟩
abbrev GLB_LOSS_BRG_REMOVED : Field := ⟨0x0B0, 3, 3⟩
abbrev GLB_LOSS_BRG_BER : Field := ⟨0x0B0, 2, 2⟩
abbrev GLB_LOSS_PAGES : Field := ⟨0x0B0, 1, 1⟩
abbrev GLB_LOSS_RODS : Field := ⟨0x0B0, 0, 0⟩
abbrev GLB_LOSS_BRG_LINK : Field := ⟨0x0B4, 31, 0⟩
abbrev GLB_LOSS_RL_TOPO : Field := ⟨0x0B8, 31, 16⟩
abbrev GLB_BRINGUP_MS : Field := ⟨0x0BC, 31, 0⟩
abbrev GLB_RETRAINS_COUNT : Field := ⟨0x0C0, 31, 0⟩
abbrev GLB_DESC_STRICT : Field := ⟨0x0C4, 1, 1⟩
abbrev GLB_DESC_VALID : Field := ⟨0x0C4, 0, 0⟩
abbrev GLB_STRAP_PWR_WARN : Field := ⟨0x0C8, 5, 5⟩
abbrev GLB_STRAP_TEST : Field := ⟨0x0C8, 3, 3⟩
abbrev GLB_STRAP_RECOV : Field := ⟨0x0C8, 2, 2⟩
abbrev GLB_STRAP_I2CA : Field := ⟨0x0C8, 1, 0⟩
abbrev GLB_PWR_LOSS_V : Field := ⟨0x0CC, 31, 31⟩
abbrev GLB_PWR_LAST_LOSS : Field := ⟨0x0CC, 26, 24⟩
abbrev GLB_PWR_NOW : Field := ⟨0x0CC, 15, 8⟩
abbrev GLB_PWR_OOT : Field := ⟨0x0CC, 7, 0⟩
abbrev GLB_TEST_LAST_REFUSED : Field := ⟨0x0D0, 31, 24⟩
abbrev GLB_TEST_ACTIVE : Field := ⟨0x0D0, 1, 1⟩
abbrev GLB_TEST_MARGIN_EN : Field := ⟨0x0D0, 0, 0⟩
/-! ### MGS -/
abbrev MB_CMD_GO : Field := ⟨0x080, 31, 31⟩
abbrev MB_CMD_LEN : Field := ⟨0x080, 27, 16⟩
abbrev MB_CMD_TAG : Field := ⟨0x080, 15, 8⟩
abbrev MB_CMD_OPCODE : Field := ⟨0x080, 7, 0⟩
abbrev MB_STAT_BUSY : Field := ⟨0x084, 31, 31⟩
abbrev MB_STAT_RLEN : Field := ⟨0x084, 27, 16⟩
abbrev MB_STAT_TAG : Field := ⟨0x084, 15, 8⟩
abbrev MB_STAT_STATUS : Field := ⟨0x084, 7, 0⟩
abbrev MB_INFO_MSTATE : Field := ⟨0x088, 31, 30⟩
abbrev MB_INFO_SLOT : Field := ⟨0x088, 29, 29⟩
abbrev MB_INFO_TRIAL : Field := ⟨0x088, 28, 28⟩
abbrev MB_INFO_VERSION : Field := ⟨0x088, 23, 0⟩
abbrev MB_LOGSTAT_TIER : Field := ⟨0x08C, 31, 30⟩
abbrev MB_LOGSTAT_LOST : Field := ⟨0x08C, 29, 29⟩
abbrev MB_LOGSTAT_SPARES : Field := ⟨0x08C, 22, 16⟩
abbrev MB_UNPERS_COUNT : Field := ⟨0x090, 31, 0⟩
abbrev MB_RSVOVW_COUNT : Field := ⟨0x094, 31, 0⟩
abbrev MB_LOGSEQ_LO_SEQ : Field := ⟨0x098, 31, 0⟩
abbrev MB_LOGSEQ_HI_SEQ : Field := ⟨0x09C, 31, 0⟩
abbrev MB_REQ_DATA (w : Nat) : Field := ⟨0x100 + 4 * w, 31, 0⟩
abbrev MB_RSP_DATA (w : Nat) : Field := ⟨0x900 + 4 * w, 31, 0⟩
/-! ### THM0 -/
abbrev THM_THR_THYST (c : Nat) : Field := ⟨0x080 + 4 * c, 27, 24⟩
abbrev THM_THR_THROT (c : Nat) : Field := ⟨0x080 + 4 * c, 23, 16⟩
abbrev THM_THR_WHYST (c : Nat) : Field := ⟨0x080 + 4 * c, 11, 8⟩
abbrev THM_THR_WARN (c : Nat) : Field := ⟨0x080 + 4 * c, 7, 0⟩
abbrev THM_SHUTTHR_TRIP (c : Nat) : Field := ⟨0x090 + 4 * c, 15, 8⟩
abbrev THM_SHUTTHR_SHUT (c : Nat) : Field := ⟨0x090 + 4 * c, 7, 0⟩
abbrev THM_SHUT_LATCHED : Field := ⟨0x0A0, 31, 31⟩
abbrev THM_SHUT_TRIPPED : Field := ⟨0x0A0, 30, 30⟩
abbrev THM_SHUT_SENSOR : Field := ⟨0x0A0, 27, 16⟩
abbrev THM_SHUT_CLEAR : Field := ⟨0x0A0, 0, 0⟩
abbrev THM_HOT_SENSOR (c : Nat) : Field := ⟨0x0A4 + 4 * c, 27, 16⟩
abbrev THM_HOT_TEMP (c : Nat) : Field := ⟨0x0A4 + 4 * c, 15, 0⟩
abbrev THM_BANDS_THROT (c : Nat) : Field := ⟨0x0B0 + 4 * c, 31, 16⟩
abbrev THM_BANDS_WARN (c : Nat) : Field := ⟨0x0B0 + 4 * c, 15, 0⟩
/-! ### THM1 -/
abbrev THM_CAP_CLAMPED : Field := ⟨0x080, 31, 31⟩
abbrev THM_CAP_WATTS : Field := ⟨0x080, 15, 0⟩
abbrev THM_GOAL_CODE_FLOOR : Field := ⟨0x084, 6, 4⟩
abbrev THM_GOAL_SHARES_MAN : Field := ⟨0x084, 2, 2⟩
abbrev THM_GOAL_AUTOTIER : Field := ⟨0x084, 1, 1⟩
abbrev THM_GOAL_QUIET_OK : Field := ⟨0x084, 0, 0⟩
abbrev THM_POWER_EFFCAP : Field := ⟨0x088, 31, 16⟩
abbrev THM_POWER_PKG : Field := ⟨0x088, 15, 0⟩
abbrev THM_EST_LOW_S : Field := ⟨0x08C, 31, 16⟩
abbrev THM_EST_QUIET : Field := ⟨0x08C, 3, 3⟩
abbrev THM_EST_GUARD : Field := ⟨0x08C, 2, 2⟩
abbrev THM_EST_CONF : Field := ⟨0x08C, 1, 0⟩
abbrev THM_QUIET_COUNT : Field := ⟨0x090, 31, 16⟩
abbrev THM_QUIET_LAST : Field := ⟨0x090, 5, 0⟩
abbrev THM_LIMIT_COUNT : Field := ⟨0x094, 31, 16⟩
abbrev THM_LIMIT_DEPTH : Field := ⟨0x094, 15, 8⟩
abbrev THM_LIMIT_ACTIVE : Field := ⟨0x094, 0, 0⟩
abbrev THM_HERD_MISS (n : Nat) : Field := ⟨0x100 + 4 * n, 15, 15⟩
abbrev THM_HERD_LCLASS (n : Nat) : Field := ⟨0x100 + 4 * n, 13, 12⟩
abbrev THM_HERD_FLOOR (n : Nat) : Field := ⟨0x100 + 4 * n, 11, 0⟩
/-! ### ISL -/
abbrev ISL_CTL_MANUAL : Field := ⟨0x080, 0, 0⟩
abbrev ISL_CMD_TARGET : Field := ⟨0x084, 7, 0⟩
abbrev ISL_CMD_STAT_SEQ : Field := ⟨0x088, 31, 16⟩
abbrev ISL_CMD_STAT_STATUS : Field := ⟨0x088, 7, 0⟩
abbrev ISL_VSTAT_SEQ : Field := ⟨0x08C, 31, 16⟩
abbrev ISL_VSTAT_SRC : Field := ⟨0x08C, 15, 14⟩
abbrev ISL_VSTAT_DIR : Field := ⟨0x08C, 13, 12⟩
abbrev ISL_VSTAT_TARGET : Field := ⟨0x08C, 7, 0⟩
abbrev ISL_VNOW_MV : Field := ⟨0x090, 9, 0⟩
abbrev ISL_SETTLED_TARGET : Field := ⟨0x094, 23, 16⟩
abbrev ISL_SETTLED_SEQ : Field := ⟨0x094, 15, 0⟩
abbrev ISL_SUPER_COUNT : Field := ⟨0x098, 31, 16⟩
abbrev ISL_SUPER_LAST : Field := ⟨0x098, 15, 0⟩
abbrev ISL_FLAGS_VR_FAULT : Field := ⟨0x09C, 3, 3⟩
abbrev ISL_FLAGS_CLAMP_THERMAL : Field := ⟨0x09C, 2, 2⟩
abbrev ISL_FLAGS_CLAMP_HIGH : Field := ⟨0x09C, 1, 1⟩
abbrev ISL_FLAGS_CLAMP_LOW : Field := ⟨0x09C, 0, 0⟩
abbrev ISL_PACE_MAX : Field := ⟨0x0A0, 27, 16⟩
abbrev ISL_PACE_MIN : Field := ⟨0x0A0, 11, 0⟩
abbrev ISL_CAL_BUSY_BUSY : Field := ⟨0x0A4, 31, 0⟩
abbrev ISL_THERMCAP_CEILING : Field := ⟨0x0A8, 7, 0⟩
abbrev ISL_POWER_CONF : Field := ⟨0x0AC, 17, 16⟩
abbrev ISL_POWER_POWER : Field := ⟨0x0AC, 15, 0⟩
abbrev ISL_TBAND_QUIETS : Field := ⟨0x0B0, 31, 16⟩
abbrev ISL_TBAND_THROTTLE : Field := ⟨0x0B0, 4, 4⟩
abbrev ISL_TBAND_MEM : Field := ⟨0x0B0, 3, 2⟩
abbrev ISL_TBAND_LOGIC : Field := ⟨0x0B0, 1, 0⟩
/-! ### SEQ -/
abbrev SEQ_CTL_STALL_DET : Field := ⟨0x080, 0, 0⟩
abbrev SEQ_START_GO : Field := ⟨0x084, 31, 31⟩
abbrev SEQ_START_PC : Field := ⟨0x084, 16, 0⟩
abbrev SEQ_ABORT_ABORT : Field := ⟨0x088, 0, 0⟩
abbrev SEQ_PSTAT_FUNIT : Field := ⟨0x08C, 18, 16⟩
abbrev SEQ_PSTAT_FAULT : Field := ⟨0x08C, 15, 8⟩
abbrev SEQ_PSTAT_PSTATE : Field := ⟨0x08C, 2, 0⟩
abbrev SEQ_PC_PC : Field := ⟨0x090, 16, 0⟩
abbrev SEQ_WDOG_LIMIT : Field := ⟨0x094, 23, 0⟩
abbrev SEQ_USER_COUNT : Field := ⟨0x098, 31, 16⟩
abbrev SEQ_USER_CODE : Field := ⟨0x098, 15, 0⟩
abbrev SEQ_TSIG_TOKEN : Field := ⟨0x09C, 5, 0⟩
abbrev SEQ_ARG_LO_VALUE (k : Nat) : Field := ⟨0x0A0 + 8 * k, 31, 0⟩
abbrev SEQ_ARG_HI_VALUE (k : Nat) : Field := ⟨0x0A4 + 8 * k, 31, 0⟩
abbrev SEQ_QOCC_OCC : Field := ⟨0x0C0, 27, 0⟩
abbrev SEQ_LASTBAD_STATUS : Field := ⟨0x0C4, 31, 24⟩
abbrev SEQ_LASTBAD_UNIT : Field := ⟨0x0C4, 23, 21⟩
abbrev SEQ_LASTBAD_PC : Field := ⟨0x0C4, 16, 0⟩
abbrev SEQ_STALL_HEAD_TOK : Field := ⟨0x0C8, 7, 1⟩
abbrev SEQ_STALL_ISSUE : Field := ⟨0x0C8, 0, 0⟩
abbrev SEQ_BROKEN_TIMEOUT : Field := ⟨0x0CC, 31, 16⟩
abbrev SEQ_BROKEN_BROKEN : Field := ⟨0x0CC, 15, 0⟩
abbrev SEQ_COUNT_LO_COUNT : Field := ⟨0x0D0, 31, 0⟩
abbrev SEQ_COUNT_HI_COUNT : Field := ⟨0x0D4, 31, 0⟩
/-! ### OXA -/
abbrev OXA_ABUF_VALID : Field := ⟨0x080, 31, 31⟩
abbrev OXA_ABUF_LOADING : Field := ⟨0x080, 30, 30⟩
abbrev OXA_ABUF_TRANSPOSED : Field := ⟨0x080, 16, 16⟩
abbrev OXA_ABUF_FORMAT : Field := ⟨0x080, 7, 4⟩
abbrev OXA_ABUF_SHAPE : Field := ⟨0x080, 3, 0⟩
abbrev OXA_SBUF_VALID : Field := ⟨0x084, 31, 31⟩
abbrev OXA_SBUF_LOADING : Field := ⟨0x084, 30, 30⟩
abbrev OXA_SBUF_TRANSPOSED : Field := ⟨0x084, 16, 16⟩
abbrev OXA_SBUF_FORMAT : Field := ⟨0x084, 7, 4⟩
abbrev OXA_SBUF_SHAPE : Field := ⟨0x084, 3, 0⟩
abbrev OXA_ROWS_LO_ROWS : Field := ⟨0x088, 31, 0⟩
abbrev OXA_ROWS_HI_ROWS : Field := ⟨0x08C, 31, 0⟩
abbrev OXA_BUSY_LO_BEATS : Field := ⟨0x090, 31, 0⟩
abbrev OXA_BUSY_HI_BEATS : Field := ⟨0x094, 31, 0⟩
abbrev OXA_STARVE_LO_BEATS : Field := ⟨0x098, 31, 0⟩
abbrev OXA_STARVE_HI_BEATS : Field := ⟨0x09C, 31, 0⟩
abbrev OXA_ACCERR_COUNT : Field := ⟨0x0A0, 31, 16⟩
abbrev OXA_ACCERR_ENTRY : Field := ⟨0x0A0, 13, 0⟩
abbrev OXA_SWAPS_LOADS : Field := ⟨0x0A4, 31, 16⟩
abbrev OXA_SWAPS_SWAPS : Field := ⟨0x0A4, 15, 0⟩
/-! ### GOAT -/
abbrev GOAT_STATE_BUSY : Field := ⟨0x080, 31, 31⟩
abbrev GOAT_STATE_BOUND : Field := ⟨0x080, 30, 30⟩
abbrev GOAT_STATE_SLOT : Field := ⟨0x080, 29, 27⟩
abbrev GOAT_STATE_BLOCK : Field := ⟨0x080, 23, 12⟩
abbrev GOAT_STATE_ROW : Field := ⟨0x080, 11, 0⟩
abbrev GOAT_CHUNKS_LO_COUNT : Field := ⟨0x084, 31, 0⟩
abbrev GOAT_CHUNKS_HI_COUNT : Field := ⟨0x088, 31, 0⟩
abbrev GOAT_STARVE_LO_BEATS : Field := ⟨0x08C, 31, 0⟩
abbrev GOAT_STARVE_HI_BEATS : Field := ⟨0x090, 31, 0⟩
abbrev GOAT_LAST_STATUS : Field := ⟨0x094, 31, 24⟩
abbrev GOAT_LAST_CHUNKS : Field := ⟨0x094, 23, 0⟩
/-! ### VEC -/
abbrev VEC_CMDS_LO_COUNT : Field := ⟨0x080, 31, 0⟩
abbrev VEC_CMDS_HI_COUNT : Field := ⟨0x084, 31, 0⟩
abbrev VEC_INVALID_COUNT : Field := ⟨0x088, 31, 0⟩
abbrev VEC_SAT_COUNT : Field := ⟨0x08C, 31, 0⟩
abbrev VEC_POISON_REGS : Field := ⟨0x090, 31, 0⟩
abbrev VEC_ACT_NINF_VALUE (t : Nat) : Field := ⟨0x0A0 + 8 * t, 31, 0⟩
abbrev VEC_ACT_PINF_VALUE (t : Nat) : Field := ⟨0x0A4 + 8 * t, 31, 0⟩
abbrev VEC_ACT_BP_B (t : Nat) (s : Nat) : Field := ⟨0x400 + 1280 * t + 4 * s, 31, 0⟩
abbrev VEC_ACT_C_C (t : Nat) (s : Nat) (j : Nat) : Field := ⟨0x500 + 1280 * t + 16 * s + 4 * j, 31, 0⟩
/-! ### STRM -/
abbrev STRM_CTL_REQCAP : Field := ⟨0x080, 6, 0⟩
abbrev STRM_REQ_ORPHAN : Field := ⟨0x084, 14, 8⟩
abbrev STRM_REQ_INUSE : Field := ⟨0x084, 6, 0⟩
abbrev STRM_BYTES_LO_COUNT : Field := ⟨0x088, 31, 0⟩
abbrev STRM_BYTES_HI_COUNT : Field := ⟨0x08C, 31, 0⟩
abbrev STRM_HALTS_COUNT : Field := ⟨0x090, 31, 0⟩
abbrev STRM_S_CMD_DEADLINE (k : Nat) : Field := ⟨0x100 + 64 * k, 31, 16⟩
abbrev STRM_S_CMD_TAG (k : Nat) : Field := ⟨0x100 + 64 * k, 15, 8⟩
abbrev STRM_S_CMD_CMD (k : Nat) : Field := ⟨0x100 + 64 * k, 3, 0⟩
abbrev STRM_S_STAT_FAULT_CAUSE (k : Nat) : Field := ⟨0x104 + 64 * k, 31, 24⟩
abbrev STRM_S_STAT_LAST_STATUS (k : Nat) : Field := ⟨0x104 + 64 * k, 23, 16⟩
abbrev STRM_S_STAT_LAST_TAG (k : Nat) : Field := ⟨0x104 + 64 * k, 15, 8⟩
abbrev STRM_S_STAT_PENDING_START (k : Nat) : Field := ⟨0x104 + 64 * k, 3, 3⟩
abbrev STRM_S_STAT_STATE (k : Nat) : Field := ⟨0x104 + 64 * k, 2, 0⟩
abbrev STRM_S_RUN_BUSY (k : Nat) : Field := ⟨0x108 + 64 * k, 31, 31⟩
abbrev STRM_S_RUN_HALTED (k : Nat) : Field := ⟨0x108 + 64 * k, 30, 30⟩
abbrev STRM_S_RUN_OUTREQ (k : Nat) : Field := ⟨0x108 + 64 * k, 29, 23⟩
abbrev STRM_S_RUN_DESC (k : Nat) : Field := ⟨0x108 + 64 * k, 20, 0⟩
abbrev STRM_S_LAST_STATUS (k : Nat) : Field := ⟨0x10C + 64 * k, 7, 0⟩
abbrev STRM_S_POS_WORD (k : Nat) (j : Nat) : Field := ⟨0x110 + 64 * k + 4 * j, 31, 0⟩
abbrev STRM_S_FVA_LO_VA (k : Nat) : Field := ⟨0x130 + 64 * k, 31, 0⟩
abbrev STRM_S_FVA_HI_VA (k : Nat) : Field := ⟨0x134 + 64 * k, 31, 0⟩
abbrev STRM_S_DELIV_LO_COUNT (k : Nat) : Field := ⟨0x138 + 64 * k, 31, 0⟩
abbrev STRM_S_DELIV_HI_COUNT (k : Nat) : Field := ⟨0x13C + 64 * k, 31, 0⟩
/-! ### SPAD -/
abbrev SPAD_ERRADDR_VALID : Field := ⟨0x080, 31, 31⟩
abbrev SPAD_ERRADDR_ADDR : Field := ⟨0x080, 20, 0⟩
abbrev SPAD_PERR_COUNT : Field := ⟨0x084, 31, 0⟩
abbrev SPAD_CONFLICT_LO_BEATS : Field := ⟨0x088, 31, 0⟩
abbrev SPAD_CONFLICT_HI_BEATS : Field := ⟨0x08C, 31, 0⟩
abbrev SPAD_INJECT_ARM : Field := ⟨0x090, 31, 31⟩
abbrev SPAD_INJECT_ADDR : Field := ⟨0x090, 20, 0⟩
/-! ### BEAD -/
abbrev BEAD_CODE_CTL_RELAX_H : Field := ⟨0x080, 23, 16⟩
abbrev BEAD_CODE_CTL_AS_THRESH : Field := ⟨0x080, 15, 8⟩
abbrev BEAD_CODE_CTL_AS_EN : Field := ⟨0x080, 1, 1⟩
abbrev BEAD_CODE_CTL_MANUAL : Field := ⟨0x080, 0, 0⟩
abbrev BEAD_FLOOR_CLAMPED : Field := ⟨0x084, 31, 31⟩
abbrev BEAD_FLOOR_EFFECTIVE : Field := ⟨0x084, 10, 8⟩
abbrev BEAD_FLOOR_TEMP : Field := ⟨0x084, 6, 4⟩
abbrev BEAD_FLOOR_POLICY : Field := ⟨0x084, 2, 0⟩
abbrev BEAD_RCLASS_SWEEP0 (j : Nat) : Field := ⟨0x088 + 4 * j, 3, 3⟩
abbrev BEAD_RCLASS_SWEEP1 (j : Nat) : Field := ⟨0x088 + 4 * j, 7, 7⟩
abbrev BEAD_RCLASS_SWEEP2 (j : Nat) : Field := ⟨0x088 + 4 * j, 11, 11⟩
abbrev BEAD_RCLASS_SWEEP3 (j : Nat) : Field := ⟨0x088 + 4 * j, 15, 15⟩
abbrev BEAD_RCLASS_SWEEP4 (j : Nat) : Field := ⟨0x088 + 4 * j, 19, 19⟩
abbrev BEAD_RCLASS_SWEEP5 (j : Nat) : Field := ⟨0x088 + 4 * j, 23, 23⟩
abbrev BEAD_RCLASS_SWEEP6 (j : Nat) : Field := ⟨0x088 + 4 * j, 27, 27⟩
abbrev BEAD_RCLASS_SWEEP7 (j : Nat) : Field := ⟨0x088 + 4 * j, 31, 31⟩
abbrev BEAD_RCLASS_CLASS0 (j : Nat) : Field := ⟨0x088 + 4 * j, 2, 0⟩
abbrev BEAD_RCLASS_CLASS1 (j : Nat) : Field := ⟨0x088 + 4 * j, 6, 4⟩
abbrev BEAD_RCLASS_CLASS2 (j : Nat) : Field := ⟨0x088 + 4 * j, 10, 8⟩
abbrev BEAD_RCLASS_CLASS3 (j : Nat) : Field := ⟨0x088 + 4 * j, 14, 12⟩
abbrev BEAD_RCLASS_CLASS4 (j : Nat) : Field := ⟨0x088 + 4 * j, 18, 16⟩
abbrev BEAD_RCLASS_CLASS5 (j : Nat) : Field := ⟨0x088 + 4 * j, 22, 20⟩
abbrev BEAD_RCLASS_CLASS6 (j : Nat) : Field := ⟨0x088 + 4 * j, 26, 24⟩
abbrev BEAD_RCLASS_CLASS7 (j : Nat) : Field := ⟨0x088 + 4 * j, 30, 28⟩
abbrev BEAD_SCRUB_CTL_PERIOD_MIN : Field := ⟨0x0B8, 15, 8⟩
abbrev BEAD_SCRUB_CTL_MANUAL : Field := ⟨0x0B8, 0, 0⟩
abbrev BEAD_SCRUB_STAT_PASSES : Field := ⟨0x0BC, 31, 16⟩
abbrev BEAD_SCRUB_STAT_POS : Field := ⟨0x0BC, 15, 0⟩
abbrev BEAD_REFRESH_MULT0 : Field := ⟨0x0C0, 1, 0⟩
abbrev BEAD_REFRESH_MULT1 : Field := ⟨0x0C0, 3, 2⟩
abbrev BEAD_REFRESH_MULT2 : Field := ⟨0x0C0, 5, 4⟩
abbrev BEAD_REFRESH_MULT3 : Field := ⟨0x0C0, 7, 6⟩
abbrev BEAD_REFRESH_MULT4 : Field := ⟨0x0C0, 9, 8⟩
abbrev BEAD_REFRESH_MULT5 : Field := ⟨0x0C0, 11, 10⟩
abbrev BEAD_REFRESH_MULT6 : Field := ⟨0x0C0, 13, 12⟩
abbrev BEAD_REFRESH_MULT7 : Field := ⟨0x0C0, 15, 14⟩
abbrev BEAD_CE_SYM_LO_COUNT : Field := ⟨0x0C4, 31, 0⟩
abbrev BEAD_CE_SYM_HI_COUNT : Field := ⟨0x0C8, 31, 0⟩
abbrev BEAD_UE_LOST : Field := ⟨0x0CC, 31, 16⟩
abbrev BEAD_UE_UNCORR : Field := ⟨0x0CC, 15, 0⟩
abbrev BEAD_SPARE_RETIRED : Field := ⟨0x0D0, 31, 16⟩
abbrev BEAD_SPARE_B : Field := ⟨0x0D0, 15, 8⟩
abbrev BEAD_SPARE_A : Field := ⟨0x0D0, 7, 0⟩
abbrev BEAD_LAST_ERR_KIND : Field := ⟨0x0D4, 31, 30⟩
abbrev BEAD_LAST_ERR_MAXSYM : Field := ⟨0x0D4, 23, 16⟩
abbrev BEAD_LAST_ERR_PAGE : Field := ⟨0x0D4, 15, 0⟩
abbrev BEAD_HIT_LO_COUNT : Field := ⟨0x0D8, 31, 0⟩
abbrev BEAD_HIT_HI_COUNT : Field := ⟨0x0DC, 31, 0⟩
abbrev BEAD_MISS_LO_COUNT : Field := ⟨0x0E0, 31, 0⟩
abbrev BEAD_MISS_HI_COUNT : Field := ⟨0x0E4, 31, 0⟩
abbrev BEAD_CTL_BUSY : Field := ⟨0x0E8, 31, 31⟩
abbrev BEAD_CTL_WBACK : Field := ⟨0x0E8, 0, 0⟩
abbrev BEAD_INJECT_ARM : Field := ⟨0x0EC, 31, 31⟩
abbrev BEAD_INJECT_SYMS : Field := ⟨0x0EC, 21, 16⟩
abbrev BEAD_INJECT_PAGE : Field := ⟨0x0EC, 15, 0⟩
/-! ### XLAT -/
abbrev XLAT_CFG_K : Field := ⟨0x080, 25, 16⟩
abbrev XLAT_CFG_EXP_W : Field := ⟨0x080, 2, 2⟩
abbrev XLAT_CFG_EXP_R : Field := ⟨0x080, 1, 1⟩
abbrev XLAT_CFG_PLACE : Field := ⟨0x080, 0, 0⟩
abbrev XLAT_ROOT_LO_ADDR : Field := ⟨0x084, 31, 14⟩
abbrev XLAT_ROOT_LO_KIND : Field := ⟨0x084, 1, 1⟩
abbrev XLAT_ROOT_LO_V : Field := ⟨0x084, 0, 0⟩
abbrev XLAT_ROOT_HI_ADDR : Field := ⟨0x088, 31, 0⟩
abbrev XLAT_PASID_PV : Field := ⟨0x08C, 31, 31⟩
abbrev XLAT_PASID_PASID : Field := ⟨0x08C, 19, 0⟩
abbrev XLAT_PAGER_TIMEOUT : Field := ⟨0x090, 31, 24⟩
abbrev XLAT_PAGER_CCHAN : Field := ⟨0x090, 23, 19⟩
abbrev XLAT_PAGER_PCHAN : Field := ⟨0x090, 18, 14⟩
abbrev XLAT_PAGER_ROD : Field := ⟨0x090, 13, 4⟩
abbrev XLAT_PAGER_MODE : Field := ⟨0x090, 0, 0⟩
abbrev XLAT_FQ_BASE_LO_BASE : Field := ⟨0x094, 31, 12⟩
abbrev XLAT_FQ_BASE_HI_BASE : Field := ⟨0x098, 31, 0⟩
abbrev XLAT_FQ_SIZE_LOG2 : Field := ⟨0x09C, 4, 0⟩
abbrev XLAT_FQ_IDX_CONS : Field := ⟨0x0A0, 31, 16⟩
abbrev XLAT_FQ_IDX_PROD : Field := ⟨0x0A0, 15, 0⟩
abbrev XLAT_PCOMP_RESULT : Field := ⟨0x0A4, 17, 16⟩
abbrev XLAT_PCOMP_FID : Field := ⟨0x0A4, 15, 0⟩
abbrev XLAT_FSLOT_FAULTS : Field := ⟨0x0A8, 31, 16⟩
abbrev XLAT_FSLOT_OPEN : Field := ⟨0x0A8, 4, 0⟩
abbrev XLAT_INV_VA_LO_VA : Field := ⟨0x0AC, 31, 16⟩
abbrev XLAT_INV_VA_HI_VA : Field := ⟨0x0B0, 15, 0⟩
abbrev XLAT_INV_ALL : Field := ⟨0x0B4, 31, 31⟩
abbrev XLAT_INV_TAG : Field := ⟨0x0B4, 23, 16⟩
abbrev XLAT_INV_COUNT : Field := ⟨0x0B4, 15, 0⟩
abbrev XLAT_INV_STAT_BUSY : Field := ⟨0x0B8, 31, 31⟩
abbrev XLAT_INV_STAT_TAG : Field := ⟨0x0B8, 7, 0⟩
abbrev XLAT_TIER_CTL_IDLE : Field := ⟨0x0BC, 31, 31⟩
abbrev XLAT_TIER_CTL_MIG_MAX : Field := ⟨0x0BC, 23, 16⟩
abbrev XLAT_TIER_CTL_COLD_W : Field := ⟨0x0BC, 15, 8⟩
abbrev XLAT_TIER_CTL_PAUSE : Field := ⟨0x0BC, 1, 1⟩
abbrev XLAT_TIER_CTL_EN : Field := ⟨0x0BC, 0, 0⟩
abbrev XLAT_TIER_PAR_HOT_N : Field := ⟨0x0C0, 31, 16⟩
abbrev XLAT_TIER_PAR_WIN_MS : Field := ⟨0x0C0, 15, 0⟩
abbrev XLAT_TB_BASE_FRAMES : Field := ⟨0x0C4, 20, 0⟩
abbrev XLAT_TB_COUNT_FRAMES : Field := ⟨0x0C8, 20, 0⟩
abbrev XLAT_HS_COUNT_FRAMES : Field := ⟨0x0CC, 20, 0⟩
abbrev XLAT_TM_BASE_FRAMES : Field := ⟨0x0D0, 20, 0⟩
abbrev XLAT_HS_BASE_LO_BASE : Field := ⟨0x0D4, 31, 16⟩
abbrev XLAT_HS_BASE_HI_BASE : Field := ⟨0x0D8, 31, 0⟩
abbrev XLAT_FREE_B_FREE : Field := ⟨0x0DC, 20, 0⟩
abbrev XLAT_FREE_H_FREE : Field := ⟨0x0E0, 20, 0⟩
abbrev XLAT_MIGS_DEMOTE : Field := ⟨0x0E4, 31, 16⟩
abbrev XLAT_MIGS_PROMOTE : Field := ⟨0x0E4, 15, 0⟩
/-! ### MSG -/
abbrev MSG_STAT_RESV : Field := ⟨0x080, 24, 16⟩
abbrev MSG_STAT_RECV : Field := ⟨0x080, 4, 4⟩
abbrev MSG_STAT_SENDS : Field := ⟨0x080, 3, 0⟩
abbrev MSG_SENT_LO_COUNT : Field := ⟨0x084, 31, 0⟩
abbrev MSG_SENT_HI_COUNT : Field := ⟨0x088, 31, 0⟩
abbrev MSG_RECV_LO_COUNT : Field := ⟨0x08C, 31, 0⟩
abbrev MSG_RECV_HI_COUNT : Field := ⟨0x090, 31, 0⟩
abbrev MSG_FRAMEERR_COUNT : Field := ⟨0x094, 31, 0⟩
abbrev MSG_PROBES_FWD : Field := ⟨0x098, 31, 16⟩
abbrev MSG_PROBES_INIT : Field := ⟨0x098, 15, 0⟩
abbrev MSG_CH_BUF_SIZE (k : Nat) : Field := ⟨0x100 + 16 * k, 31, 16⟩
abbrev MSG_CH_BUF_BASE (k : Nat) : Field := ⟨0x100 + 16 * k, 14, 0⟩
abbrev MSG_CH_BIND_KIND (k : Nat) : Field := ⟨0x104 + 16 * k, 31, 30⟩
abbrev MSG_CH_BIND_NODE (k : Nat) : Field := ⟨0x104 + 16 * k, 27, 10⟩
abbrev MSG_CH_BIND_ROD (k : Nat) : Field := ⟨0x104 + 16 * k, 9, 0⟩
abbrev MSG_CH_STAT_ITEMS (k : Nat) : Field := ⟨0x108 + 16 * k, 31, 16⟩
abbrev MSG_CH_STAT_FREE (k : Nat) : Field := ⟨0x108 + 16 * k, 15, 0⟩
abbrev MSG_CH_FLUSH_FLUSH (k : Nat) : Field := ⟨0x10C + 16 * k, 0, 0⟩
/-! ### KV -/
abbrev KV_POOL_BASE_LO_BASE : Field := ⟨0x080, 31, 6⟩
abbrev KV_POOL_BASE_HI_BASE : Field := ⟨0x084, 15, 0⟩
abbrev KV_POOL_CFG_STRIDE : Field := ⟨0x088, 23, 16⟩
abbrev KV_POOL_CFG_COUNT : Field := ⟨0x088, 14, 0⟩
abbrev KV_POOL_FREE_HANDLES : Field := ⟨0x08C, 24, 16⟩
abbrev KV_POOL_FREE_FREE : Field := ⟨0x08C, 14, 0⟩
abbrev KV_HSEL_HANDLE : Field := ⟨0x090, 7, 0⟩
abbrev KV_HW_WORD (j : Nat) : Field := ⟨0x0A0 + 4 * j, 31, 0⟩
abbrev KV_EVICTS_COUNT : Field := ⟨0x0E0, 31, 0⟩
abbrev KV_APPENDS_LO_COUNT : Field := ⟨0x0E4, 31, 0⟩
abbrev KV_APPENDS_HI_COUNT : Field := ⟨0x0E8, 31, 0⟩
abbrev KV_TOKENS_LO_COUNT : Field := ⟨0x0EC, 31, 0⟩
abbrev KV_TOKENS_HI_COUNT : Field := ⟨0x0F0, 31, 0⟩
abbrev KV_RING_STEPS : Field := ⟨0x0F4, 31, 0⟩
/-! ### SENSE -/
abbrev SENSE_PACE_VALID : Field := ⟨0x080, 31, 31⟩
abbrev SENSE_PACE_NOMINAL : Field := ⟨0x080, 27, 16⟩
abbrev SENSE_PACE_PACE : Field := ⟨0x080, 11, 0⟩
abbrev SENSE_PACE_MM_CLR : Field := ⟨0x084, 31, 31⟩
abbrev SENSE_PACE_MM_MAX : Field := ⟨0x084, 27, 16⟩
abbrev SENSE_PACE_MM_MIN : Field := ⟨0x084, 11, 0⟩
abbrev SENSE_CAL_A_COUNT : Field := ⟨0x088, 31, 16⟩
abbrev SENSE_CAL_A_HOLD : Field := ⟨0x088, 15, 8⟩
abbrev SENSE_CAL_A_VCODE : Field := ⟨0x088, 7, 0⟩
abbrev SENSE_CAL_B_COUNT : Field := ⟨0x08C, 31, 16⟩
abbrev SENSE_CAL_B_HOLD : Field := ⟨0x08C, 15, 8⟩
abbrev SENSE_CAL_B_VCODE : Field := ⟨0x08C, 7, 0⟩
abbrev SENSE_TEMP_VALID : Field := ⟨0x090, 31, 31⟩
abbrev SENSE_TEMP_BAND : Field := ⟨0x090, 30, 28⟩
abbrev SENSE_TEMP_TEMP : Field := ⟨0x090, 15, 0⟩
abbrev SENSE_BEADT_ODD (j : Nat) : Field := ⟨0x094 + 4 * j, 31, 16⟩
abbrev SENSE_BEADT_EVEN (j : Nat) : Field := ⟨0x094 + 4 * j, 15, 0⟩
abbrev SENSE_TMAX_CLR : Field := ⟨0x0A4, 31, 31⟩
abbrev SENSE_TMAX_MAX : Field := ⟨0x0A4, 15, 0⟩
/-! ### DBG -/
abbrev DBG_CTL_BP1_EN : Field := ⟨0x080, 4, 4⟩
abbrev DBG_CTL_BP0_EN : Field := ⟨0x080, 3, 3⟩
abbrev DBG_CTL_STEP : Field := ⟨0x080, 2, 2⟩
abbrev DBG_CTL_RESUME : Field := ⟨0x080, 1, 1⟩
abbrev DBG_CTL_PAUSE : Field := ⟨0x080, 0, 0⟩
abbrev DBG_BP0_PC : Field := ⟨0x084, 16, 0⟩
abbrev DBG_BP1_PC : Field := ⟨0x088, 16, 0⟩
abbrev DBG_SEL_SEL : Field := ⟨0x08C, 7, 0⟩
abbrev DBG_DATA_LO_DATA : Field := ⟨0x090, 31, 0⟩
abbrev DBG_DATA_HI_DATA : Field := ⟨0x094, 31, 0⟩
abbrev DBG_POISON_POISON : Field := ⟨0x098, 31, 0⟩
abbrev DBG_TOKNZ_LO_NZ : Field := ⟨0x09C, 31, 0⟩
abbrev DBG_TOKNZ_HI_NZ : Field := ⟨0x0A0, 31, 0⟩
/-! ### BRG -/
abbrev BRG_CTL_WIDTH_REQ : Field := ⟨0x080, 1, 1⟩
abbrev BRG_CTL_MANUAL : Field := ⟨0x080, 0, 0⟩
abbrev BRG_STAT_CARRYING : Field := ⟨0x084, 31, 31⟩
abbrev BRG_STAT_RETRAIN : Field := ⟨0x084, 30, 30⟩
abbrev BRG_STAT_REMOVED : Field := ⟨0x084, 29, 29⟩
abbrev BRG_STAT_RELAY : Field := ⟨0x084, 28, 28⟩
abbrev BRG_STAT_SUBST : Field := ⟨0x084, 27, 26⟩
abbrev BRG_STAT_GOOD_BA : Field := ⟨0x084, 25, 21⟩
abbrev BRG_STAT_GOOD_AB : Field := ⟨0x084, 20, 16⟩
abbrev BRG_STAT_SPARE_BA : Field := ⟨0x084, 15, 12⟩
abbrev BRG_STAT_SPARE_AB : Field := ⟨0x084, 11, 8⟩
abbrev BRG_STAT_WIDTH : Field := ⟨0x084, 4, 0⟩
abbrev BRG_CRC_COUNT : Field := ⟨0x088, 31, 0⟩
abbrev BRG_REPLAY_COUNT : Field := ⟨0x08C, 31, 0⟩
abbrev BRG_LADDER_SWAPS : Field := ⟨0x090, 31, 16⟩
abbrev BRG_LADDER_WIDTHS : Field := ⟨0x090, 15, 0⟩
abbrev BRG_LAST_STEP : Field := ⟨0x094, 31, 28⟩
abbrev BRG_LAST_DIR : Field := ⟨0x094, 27, 27⟩
abbrev BRG_LAST_LANE : Field := ⟨0x094, 24, 20⟩
abbrev BRG_BYTES_AB_LO_COUNT : Field := ⟨0x098, 31, 0⟩
abbrev BRG_BYTES_AB_HI_COUNT : Field := ⟨0x09C, 31, 0⟩
abbrev BRG_BYTES_BA_LO_COUNT : Field := ⟨0x0A0, 31, 0⟩
abbrev BRG_BYTES_BA_HI_COUNT : Field := ⟨0x0A4, 31, 0⟩
abbrev BRG_LANE_STATE (d : Nat) (l : Nat) : Field := ⟨0x100 + 128 * d + 4 * l, 31, 30⟩
abbrev BRG_LANE_LOGICAL (d : Nat) (l : Nat) : Field := ⟨0x100 + 128 * d + 4 * l, 28, 24⟩
abbrev BRG_LANE_W1MS (d : Nat) (l : Nat) : Field := ⟨0x100 + 128 * d + 4 * l, 23, 16⟩
abbrev BRG_LANE_W1S (d : Nat) (l : Nat) : Field := ⟨0x100 + 128 * d + 4 * l, 15, 0⟩
/-! ### RLP -/
abbrev RLP_CTL_WIDTH_MAX : Field := ⟨0x080, 1, 0⟩
abbrev RLP_STAT_CARRYING : Field := ⟨0x084, 31, 31⟩
abbrev RLP_STAT_PHASE : Field := ⟨0x084, 30, 28⟩
abbrev RLP_STAT_WIDTH : Field := ⟨0x084, 26, 24⟩
abbrev RLP_STAT_GOOD_RX : Field := ⟨0x084, 23, 20⟩
abbrev RLP_STAT_USED_RX : Field := ⟨0x084, 19, 16⟩
abbrev RLP_STAT_GOOD_TX : Field := ⟨0x084, 15, 12⟩
abbrev RLP_STAT_USED_TX : Field := ⟨0x084, 11, 8⟩
abbrev RLP_NBR_SER_LO_SERIAL : Field := ⟨0x088, 31, 0⟩
abbrev RLP_NBR_SER_HI_SERIAL : Field := ⟨0x08C, 31, 0⟩
abbrev RLP_NBR_VALID : Field := ⟨0x090, 31, 31⟩
abbrev RLP_NBR_NODE_VALID : Field := ⟨0x090, 30, 30⟩
abbrev RLP_NBR_NODE : Field := ⟨0x090, 29, 12⟩
abbrev RLP_NBR_EPOCH : Field := ⟨0x090, 11, 4⟩
abbrev RLP_NBR_PORT : Field := ⟨0x090, 3, 0⟩
abbrev RLP_LANE_STATE (l : Nat) : Field := ⟨0x0A0 + 4 * l, 31, 30⟩
abbrev RLP_LANE_UNCORR (l : Nat) : Field := ⟨0x0A0 + 4 * l, 29, 24⟩
abbrev RLP_LANE_CORR (l : Nat) : Field := ⟨0x0A0 + 4 * l, 23, 0⟩
abbrev RLP_TX_LO_COUNT : Field := ⟨0x0B0, 31, 0⟩
abbrev RLP_TX_HI_COUNT : Field := ⟨0x0B4, 31, 0⟩
abbrev RLP_RX_LO_COUNT : Field := ⟨0x0B8, 31, 0⟩
abbrev RLP_RX_HI_COUNT : Field := ⟨0x0BC, 31, 0⟩
abbrev RLP_REPLAY_COUNT : Field := ⟨0x0C0, 31, 0⟩
abbrev RLP_CRC_COUNT : Field := ⟨0x0C4, 31, 0⟩
abbrev RLP_LAST_STEP : Field := ⟨0x0C8, 31, 28⟩
abbrev RLP_LAST_DIR : Field := ⟨0x0C8, 27, 27⟩
abbrev RLP_LAST_LANE : Field := ⟨0x0C8, 25, 24⟩
/-! ### RTR -/
abbrev RTR_CTL_TRANSIT_W : Field := ⟨0x080, 23, 16⟩
abbrev RTR_CTL_ELECT_PRI : Field := ⟨0x080, 7, 0⟩
abbrev RTR_HOSTFM_RELEASE : Field := ⟨0x084, 1, 1⟩
abbrev RTR_HOSTFM_CLAIM : Field := ⟨0x084, 0, 0⟩
abbrev RTR_FM_ROLE : Field := ⟨0x088, 31, 30⟩
abbrev RTR_FM_HOSTHERE : Field := ⟨0x088, 29, 29⟩
abbrev RTR_FM_MGR_NODE : Field := ⟨0x088, 25, 8⟩
abbrev RTR_FM_MGR_PRI : Field := ⟨0x088, 7, 0⟩
abbrev RTR_JL_KIND : Field := ⟨0x08C, 31, 31⟩
abbrev RTR_JL_V : Field := ⟨0x08C, 30, 30⟩
abbrev RTR_JL_NODE : Field := ⟨0x08C, 25, 8⟩
abbrev RTR_JL_EPOCH : Field := ⟨0x08C, 7, 0⟩
abbrev RTR_DROP_DISCARD : Field := ⟨0x090, 31, 16⟩
abbrev RTR_DROP_NOROUTE : Field := ⟨0x090, 15, 0⟩
abbrev RTR_TRANSIT_LO_COUNT : Field := ⟨0x094, 31, 0⟩
abbrev RTR_TRANSIT_HI_COUNT : Field := ⟨0x098, 31, 0⟩
abbrev RTR_FTIME_LO_NS : Field := ⟨0x09C, 31, 0⟩
abbrev RTR_FTIME_HI_NS : Field := ⟨0x0A0, 31, 0⟩
/-! ### RTRW1 -/
abbrev RTR_IG_C0 (m : Nat) : Field := ⟨0x400 + 4 * m, 3, 0⟩
abbrev RTR_IG_C1 (m : Nat) : Field := ⟨0x400 + 4 * m, 7, 4⟩
abbrev RTR_IG_C2 (m : Nat) : Field := ⟨0x400 + 4 * m, 11, 8⟩
abbrev RTR_IG_C3 (m : Nat) : Field := ⟨0x400 + 4 * m, 15, 12⟩
abbrev RTR_IG_ESC (m : Nat) : Field := ⟨0x400 + 4 * m, 19, 16⟩
abbrev RTR_IG_CV (m : Nat) : Field := ⟨0x400 + 4 * m, 23, 20⟩
abbrev RTR_IG_EV (m : Nat) : Field := ⟨0x400 + 4 * m, 24, 24⟩
/-! ### RTRW2 -/
abbrev RTR_G_C0 (g : Nat) : Field := ⟨0x200 + 4 * g, 3, 0⟩
abbrev RTR_G_C1 (g : Nat) : Field := ⟨0x200 + 4 * g, 7, 4⟩
abbrev RTR_G_C2 (g : Nat) : Field := ⟨0x200 + 4 * g, 11, 8⟩
abbrev RTR_G_C3 (g : Nat) : Field := ⟨0x200 + 4 * g, 15, 12⟩
abbrev RTR_G_ESC (g : Nat) : Field := ⟨0x200 + 4 * g, 19, 16⟩
abbrev RTR_G_CV (g : Nat) : Field := ⟨0x200 + 4 * g, 23, 20⟩
abbrev RTR_G_EV (g : Nat) : Field := ⟨0x200 + 4 * g, 24, 24⟩
/-! ### E2E -/
abbrev E2E_CTL_LEAVE : Field := ⟨0x080, 0, 0⟩
abbrev E2E_STAT_QUIET : Field := ⟨0x084, 31, 31⟩
abbrev E2E_STAT_LEAVING : Field := ⟨0x084, 30, 30⟩
abbrev E2E_STAT_OUT : Field := ⟨0x084, 14, 0⟩
abbrev E2E_DUP_HIGH : Field := ⟨0x088, 31, 16⟩
abbrev E2E_DUP_USED : Field := ⟨0x088, 15, 0⟩
abbrev E2E_RETRY_COUNT : Field := ⟨0x08C, 31, 0⟩
abbrev E2E_GIVEUP_COUNT : Field := ⟨0x090, 31, 0⟩
abbrev E2E_DUPHIT_COUNT : Field := ⟨0x094, 31, 0⟩
abbrev E2E_STALE_COUNT : Field := ⟨0x098, 31, 0⟩
abbrev E2E_BUSY_COUNT : Field := ⟨0x09C, 31, 0⟩
/-! ### E2EW -/
abbrev E2E_TAG_BUSY (w : Nat) : Field := ⟨0x200 + 4 * w, 31, 0⟩
/-! ### HIF -/
abbrev HIF_LINK_L1 : Field := ⟨0x080, 11, 11⟩
abbrev HIF_LINK_FLIT : Field := ⟨0x080, 10, 10⟩
abbrev HIF_LINK_WIDTH : Field := ⟨0x080, 9, 4⟩
abbrev HIF_LINK_RATE : Field := ⟨0x080, 3, 0⟩
abbrev HIF_FUNCS_VFE : Field := ⟨0x084, 7, 7⟩
abbrev HIF_FUNCS_NUMVFS : Field := ⟨0x084, 6, 0⟩
abbrev HIF_NPR_PEAK : Field := ⟨0x088, 31, 16⟩
abbrev HIF_NPR_NOW : Field := ⟨0x088, 15, 0⟩
abbrev HIF_ATS_INVAL : Field := ⟨0x08C, 31, 16⟩
abbrev HIF_ATS_PRQ : Field := ⟨0x08C, 15, 0⟩
/-! ### HQ -/
abbrev HQ_WIN_BASE_LO_B : Field := ⟨0x080, 31, 16⟩
abbrev HQ_WIN_BASE_HI_B : Field := ⟨0x084, 15, 0⟩
abbrev HQ_WIN_FVA_LO_VA : Field := ⟨0x088, 31, 0⟩
abbrev HQ_WIN_FVA_HI_VA : Field := ⟨0x08C, 15, 0⟩
abbrev HQ_DUPS_COUNT : Field := ⟨0x090, 31, 0⟩
abbrev HQ_Q_CMD_DEADLINE (k : Nat) : Field := ⟨0x100 + 64 * k, 31, 16⟩
abbrev HQ_Q_CMD_TAG (k : Nat) : Field := ⟨0x100 + 64 * k, 15, 8⟩
abbrev HQ_Q_CMD_CMD (k : Nat) : Field := ⟨0x100 + 64 * k, 3, 0⟩
abbrev HQ_Q_STAT_FAULT_CAUSE (k : Nat) : Field := ⟨0x104 + 64 * k, 31, 24⟩
abbrev HQ_Q_STAT_LAST_STATUS (k : Nat) : Field := ⟨0x104 + 64 * k, 23, 16⟩
abbrev HQ_Q_STAT_LAST_TAG (k : Nat) : Field := ⟨0x104 + 64 * k, 15, 8⟩
abbrev HQ_Q_STAT_PENDING_START (k : Nat) : Field := ⟨0x104 + 64 * k, 3, 3⟩
abbrev HQ_Q_STAT_STATE (k : Nat) : Field := ⟨0x104 + 64 * k, 2, 0⟩
abbrev HQ_Q_SQB_LO_BASE (k : Nat) : Field := ⟨0x108 + 64 * k, 31, 0⟩
abbrev HQ_Q_SQB_HI_BASE (k : Nat) : Field := ⟨0x10C + 64 * k, 31, 0⟩
abbrev HQ_Q_CQB_LO_BASE (k : Nat) : Field := ⟨0x110 + 64 * k, 31, 0⟩
abbrev HQ_Q_CQB_HI_BASE (k : Nat) : Field := ⟨0x114 + 64 * k, 31, 0⟩
abbrev HQ_Q_CFG_IEN (k : Nat) : Field := ⟨0x118 + 64 * k, 31, 31⟩
abbrev HQ_Q_CFG_VEC (k : Nat) : Field := ⟨0x118 + 64 * k, 26, 16⟩
abbrev HQ_Q_CFG_CQ_LOG2 (k : Nat) : Field := ⟨0x118 + 64 * k, 12, 8⟩
abbrev HQ_Q_CFG_SQ_LOG2 (k : Nat) : Field := ⟨0x118 + 64 * k, 4, 0⟩
abbrev HQ_Q_IDX_CQ_TAIL (k : Nat) : Field := ⟨0x11C + 64 * k, 31, 16⟩
abbrev HQ_Q_IDX_SQ_HEAD (k : Nat) : Field := ⟨0x11C + 64 * k, 15, 0⟩
abbrev HQ_Q_DBV_CQ_HEAD (k : Nat) : Field := ⟨0x120 + 64 * k, 31, 16⟩
abbrev HQ_Q_DBV_SQ_TAIL (k : Nat) : Field := ⟨0x120 + 64 * k, 15, 0⟩
abbrev HQ_Q_DEST_CHAN (k : Nat) : Field := ⟨0x124 + 64 * k, 20, 16⟩
abbrev HQ_Q_DEST_ROD (k : Nat) : Field := ⟨0x124 + 64 * k, 9, 0⟩
abbrev HQ_Q_IMOD_US (k : Nat) : Field := ⟨0x128 + 64 * k, 15, 0⟩
abbrev HQ_Q_FLUSH_FLUSH (k : Nat) : Field := ⟨0x12C + 64 * k, 0, 0⟩
/-! ### VPX -/
abbrev VPX_STAT_OPEN : Field := ⟨0x080, 20, 16⟩
abbrev VPX_STAT_RUN : Field := ⟨0x080, 15, 12⟩
abbrev VPX_STAT_BUSY : Field := ⟨0x080, 11, 11⟩
abbrev VPX_STAT_GANG : Field := ⟨0x080, 9, 8⟩
abbrev VPX_STAT_QUEUED : Field := ⟨0x080, 6, 0⟩
abbrev VPX_JOBS_LO_COUNT : Field := ⟨0x084, 31, 0⟩
abbrev VPX_JOBS_HI_COUNT : Field := ⟨0x088, 31, 0⟩
abbrev VPX_SYNBUF_USED : Field := ⟨0x08C, 19, 0⟩
abbrev VPX_ERRS_CONCEAL : Field := ⟨0x090, 31, 16⟩
abbrev VPX_ERRS_STREAM : Field := ⟨0x090, 15, 0⟩
abbrev VPX_SESS_OPEN (s : Nat) : Field := ⟨0x100 + 4 * s, 31, 31⟩
abbrev VPX_SESS_DIR (s : Nat) : Field := ⟨0x100 + 4 * s, 30, 30⟩
abbrev VPX_SESS_GANG (s : Nat) : Field := ⟨0x100 + 4 * s, 29, 28⟩
abbrev VPX_SESS_HERD (s : Nat) : Field := ⟨0x100 + 4 * s, 22, 16⟩
abbrev VPX_SESS_PENDING (s : Nat) : Field := ⟨0x100 + 4 * s, 15, 8⟩
abbrev VPX_SESS_LAST (s : Nat) : Field := ⟨0x100 + 4 * s, 7, 0⟩
/-! ### VEN -/
abbrev VEN_BITS_LO_COUNT : Field := ⟨0x080, 31, 0⟩
abbrev VEN_BITS_HI_COUNT : Field := ⟨0x084, 31, 0⟩
abbrev VEN_STRAIN_COUNT : Field := ⟨0x088, 31, 0⟩
abbrev VEN_RC_CPB (s : Nat) : Field := ⟨0x100 + 4 * s, 31, 8⟩
abbrev VEN_RC_QP (s : Nat) : Field := ⟨0x100 + 4 * s, 5, 0⟩
/-! ### TNZ -/
abbrev TNZ_FRAMES_COUNT : Field := ⟨0x080, 31, 0⟩
abbrev TNZ_BYTES_LO_COUNT : Field := ⟨0x084, 31, 0⟩
abbrev TNZ_BYTES_HI_COUNT : Field := ⟨0x088, 31, 0⟩
abbrev TNZ_SAT_COUNT : Field := ⟨0x08C, 31, 0⟩
/-! ### KVM -/
abbrev KVM_CTL_MOVES : Field := ⟨0x080, 23, 16⟩
abbrev KVM_CTL_PERIOD : Field := ⟨0x080, 15, 8⟩
abbrev KVM_CTL_MANUAL : Field := ⟨0x080, 0, 0⟩
abbrev KVM_BAL_THRESH : Field := ⟨0x084, 15, 0⟩
abbrev KVM_OPW_WORD (j : Nat) : Field := ⟨0x088 + 4 * j, 31, 0⟩
abbrev KVM_OPGO_TAG : Field := ⟨0x0A8, 15, 8⟩
abbrev KVM_OPGO_GO : Field := ⟨0x0A8, 0, 0⟩
abbrev KVM_OPRES_BUSY : Field := ⟨0x0AC, 31, 31⟩
abbrev KVM_OPRES_STATUS : Field := ⟨0x0AC, 23, 16⟩
abbrev KVM_OPRES_TAG : Field := ⟨0x0AC, 15, 8⟩
abbrev KVM_QSEQ_SEQID : Field := ⟨0x0B0, 31, 0⟩
abbrev KVM_QSEL_HEAD : Field := ⟨0x0B4, 11, 8⟩
abbrev KVM_QSEL_HERD : Field := ⟨0x0B4, 6, 0⟩
abbrev KVM_QRES_VALID : Field := ⟨0x0B8, 31, 31⟩
abbrev KVM_QRES_STATE : Field := ⟨0x0B8, 30, 28⟩
abbrev KVM_QRES_ROD : Field := ⟨0x0B8, 27, 18⟩
abbrev KVM_QRES_HANDLE : Field := ⟨0x0B8, 17, 10⟩
abbrev KVM_STAT_PAIRS : Field := ⟨0x0BC, 30, 16⟩
abbrev KVM_STAT_SEQS : Field := ⟨0x0BC, 12, 0⟩
abbrev KVM_MOVES_FAILED : Field := ⟨0x0C0, 31, 16⟩
abbrev KVM_MOVES_DONE : Field := ⟨0x0C0, 15, 0⟩
/-! ### KVMW -/
abbrev KVM_LOAD_HANDLES (r : Nat) : Field := ⟨0x800 + 4 * r, 23, 16⟩
abbrev KVM_LOAD_LOAD (r : Nat) : Field := ⟨0x800 + 4 * r, 15, 0⟩
/-! ### HERD -/
abbrev HERD_GEOM_H : Field := ⟨0x080, 29, 24⟩
abbrev HERD_GEOM_W : Field := ⟨0x080, 21, 16⟩
abbrev HERD_GEOM_Y0 : Field := ⟨0x080, 12, 8⟩
abbrev HERD_GEOM_X0 : Field := ⟨0x080, 4, 0⟩
abbrev HERD_MODE_HOLD : Field := ⟨0x084, 15, 8⟩
abbrev HERD_MODE_DL_EN : Field := ⟨0x084, 2, 2⟩
abbrev HERD_MODE_BW : Field := ⟨0x084, 1, 1⟩
abbrev HERD_MODE_PLACE : Field := ⟨0x084, 0, 0⟩
abbrev HERD_SIZE_ANCHOR : Field := ⟨0x088, 25, 16⟩
abbrev HERD_SIZE_N : Field := ⟨0x088, 10, 0⟩
abbrev HERD_RESET_GO : Field := ⟨0x08C, 0, 0⟩
abbrev HERD_RESIZE_GO : Field := ⟨0x090, 31, 31⟩
abbrev HERD_RESIZE_H : Field := ⟨0x090, 29, 24⟩
abbrev HERD_RESIZE_W : Field := ⟨0x090, 21, 16⟩
abbrev HERD_RSTAT_BUSY : Field := ⟨0x094, 31, 31⟩
abbrev HERD_RSTAT_STATUS : Field := ⟨0x094, 7, 0⟩
abbrev HERD_LEVEL_PAIR : Field := ⟨0x098, 31, 16⟩
abbrev HERD_LEVEL_INJ : Field := ⟨0x098, 15, 0⟩
abbrev HERD_DL_CYCLES : Field := ⟨0x09C, 31, 16⟩
abbrev HERD_DL_LONGEST : Field := ⟨0x09C, 15, 0⟩
abbrev HERD_SHARE_CAP (r : Nat) : Field := ⟨0x0A0 + 4 * r, 23, 16⟩
abbrev HERD_SHARE_WEIGHT (r : Nat) : Field := ⟨0x0A0 + 4 * r, 15, 8⟩
abbrev HERD_SHARE_FLOOR (r : Nat) : Field := ⟨0x0A0 + 4 * r, 7, 0⟩
/-! ### Life registers, relative to the address of the state register (PG_LIFE_STAT, STRM_Sk_STAT, HQ_Qq_STAT) -/
abbrev LIFE_FAULT_CAUSE : Field := ⟨0, 31, 24⟩
abbrev LIFE_LAST_STATUS : Field := ⟨0, 23, 16⟩
abbrev LIFE_LAST_TAG : Field := ⟨0, 15, 8⟩
abbrev LIFE_PENDING_START : Field := ⟨0, 3, 3⟩
abbrev LIFE_STATE : Field := ⟨0, 2, 0⟩

end Sys2Proof.Machine
end

