-- ==== Sys2Proof/Machine/RegTable.lean ====
section
/-! DEFINITION. The register layout of spec/ as data: for every register page kind, each register's offset, the
strides of an indexed register, its role in a _LO/_HI pair (R37), and each field's bits, access type (R6) and cold,
warm and FLR reset values (R9), in the order of the spec's own tables. A field whose table gives no number
(Const, Sampled, bring-up ...) stands as kept; the operation that gives it its value is named at that operation. -/
namespace Sys2Proof.Machine

/-- Access types of Table 0-3. -/
inductive Access where
  | ro | rw | rwl | rws | w1c | w1s | wo
  deriving DecidableEq, Repr

/-- A reset value of a register table: a number, or "kept". -/
inductive Rst where
  | val (n : Nat) | kept
  deriving DecidableEq, Repr

/-- One field row of a register table; `offOnly` marks "OFF only" (R95). -/
structure FSpec where
  hi : Nat
  lo : Nat
  acc : Access
  offOnly : Bool
  cold : Rst
  warm : Rst
  flr : Rst
  deriving DecidableEq, Repr

/-- The part a register plays in a 64-bit pair (R37). -/
inductive PairRole where
  | no | lo | hi
  deriving DecidableEq, Repr

/-- One register, or one indexed family of registers: `dims` lists (stride, count), widest stride first. -/
structure RSpec where
  base : Nat
  dims : List (Nat × Nat)
  role : PairRole
  fields : List FSpec
  deriving DecidableEq, Repr

/-- Reset value 0. -/
abbrev z : Rst := .val 0
/-- Reset value "kept". -/
abbrev kp : Rst := .kept
/-- A field without the OFF-only mark. -/
abbrev fs (hi lo : Nat) (acc : Access) (cold warm flr : Rst) : FSpec := ⟨hi, lo, acc, false, cold, warm, flr⟩
/-- A field writable in OFF only (R95). -/
abbrev fo (hi lo : Nat) (acc : Access) (cold warm flr : Rst) : FSpec := ⟨hi, lo, acc, true, cold, warm, flr⟩

/-- Registers of page kind ALL (02_register_pages.md). -/
def specsALL : List RSpec := [
  -- PG_ID
  ⟨0x000, [], .no, [fs 31 24 .ro z kp kp, fs 23 16 .ro (.val 1) (.val 1) (.val 1), fs 15 8 .ro z z z, fs 7 0 .ro z kp kp]⟩,
  -- PG_CAP
  ⟨0x004, [], .no, [fs 31 16 .ro z kp kp, fs 9 8 .ro z kp kp, fs 5 5 .ro z kp kp, fs 4 4 .ro z kp kp, fs 3 3 .ro z kp kp, fs 2 2 .ro z kp kp, fs 1 1 .ro z kp kp, fs 0 0 .ro z kp kp]⟩,
  -- PG_LIFE_CMD
  ⟨0x008, [], .no, [fs 31 16 .wo z z z, fs 15 8 .wo z z z, fs 3 0 .wo z z z]⟩,
  -- PG_LIFE_STAT
  ⟨0x00C, [], .no, [fs 31 24 .ro z z z, fs 23 16 .ro z z z, fs 15 8 .ro z z z, fs 3 3 .ro z z z, fs 2 0 .ro z z z]⟩,
  -- PG_EVT
  ⟨0x010, [], .no, [fs 31 0 .w1c z z kp]⟩,
  -- PG_EVT_EN
  ⟨0x014, [], .no, [fs 31 0 .rw z z kp]⟩,
  -- PG_EVT_ROUTE
  ⟨0x018, [], .no, [fs 20 16 .rwl z z kp, fs 14 4 .rwl z z kp, fs 1 0 .rwl z z kp]⟩,
  -- PG_ERR_CNT
  ⟨0x01C, [], .no, [fs 31 31 .wo z z z, fs 27 24 .rw z kp kp, fs 23 0 .ro z kp kp]⟩,
  -- PG_ERR_FIRST
  ⟨0x020, [], .no, [fs 31 31 .w1c z kp kp, fs 29 18 .ro z kp kp, fs 17 16 .ro z kp kp, fs 15 0 .ro z kp kp]⟩,
  -- PG_ERR_NEXT
  ⟨0x024, [], .no, [fs 31 31 .ro z kp kp, fs 25 18 .ro z kp kp, fs 17 16 .ro z kp kp, fs 15 0 .ro z kp kp]⟩,
  -- PG_LOCK
  ⟨0x028, [], .no, [fs 0 0 .w1s z z kp]⟩,
  -- PG_OWNER (its warm value is its cold one, which depends on the page: `coldOwner`, `warmPages`)
  ⟨0x02C, [], .no, [fs 8 8 .ro z kp kp, fs 7 7 .ro z kp kp, fs 6 0 .ro z kp kp]⟩]

/-- Registers of page kind GLB (02_register_pages.md, 18_errors_and_containment.md), part 0. -/
def specsGLB_0 : List RSpec := [
  -- GLB_PART
  ⟨0x080, [], .no, [fs 23 16 .ro (.val 161) (.val 161) (.val 161), fs 15 0 .ro (.val 4132) (.val 4132) (.val 4132)]⟩,
  -- GLB_SERIAL_LO
  ⟨0x084, [], .lo, [fs 31 0 .ro z kp kp]⟩,
  -- GLB_SERIAL_HI
  ⟨0x088, [], .hi, [fs 31 0 .ro z kp kp]⟩,
  -- GLB_LIC
  ⟨0x08C, [], .no, [fs 31 16 .ro (.val 600) kp kp, fs 15 8 .ro (.val 16) kp kp, fs 3 0 .ro z kp kp]⟩,
  -- GLB_READY
  ⟨0x090, [], .no, [fs 31 31 .ro z z kp, fs 17 16 .ro (.val 2) kp kp, fs 12 8 .ro z z kp, fs 2 0 .ro z z kp]⟩,
  -- GLB_STATE
  ⟨0x094, [], .no, [fs 23 16 .ro z z kp, fs 10 0 .ro z kp kp]⟩,
  -- GLB_NODE
  ⟨0x098, [], .no, [fs 31 31 .ro z z kp, fs 25 8 .ro z z kp, fs 7 0 .ro z kp kp]⟩,
  -- GLB_RESET
  ⟨0x09C, [], .no, [fs 31 16 .ro z kp kp, fs 0 0 .ro z (.val 1) kp]⟩,
  -- GLB_SCRATCH
  ⟨0x0A0, [], .no, [fs 31 0 .rwl z z kp]⟩,
  -- GLB_STICKY
  ⟨0x0A4, [], .no, [fs 31 0 .rws z kp kp]⟩,
  -- GLB_ABSENT
  ⟨0x100, [(4, 32)], .no, [fs 31 0 .ro z kp kp]⟩,
  -- GLB_FATAL
  ⟨0x0A8, [], .no, [fs 31 31 .w1c z kp kp, fs 23 16 .ro z kp kp, fs 15 0 .ro z kp kp]⟩]

/-- Registers of page kind GLB (18_errors_and_containment.md, 19_bring_up.md, 21_package_and_board.md, 22_test_access.md), part 1. -/
def specsGLB_1 : List RSpec := [
  -- GLB_FATAL_PAGE
  ⟨0x0AC, [], .no, [fs 31 0 .ro z kp kp]⟩,
  -- GLB_LOSS
  ⟨0x0B0, [], .no, [fs 18 16 .ro z z kp, fs 8 8 .ro z z kp, fs 7 7 .ro z z kp, fs 6 6 .ro z z kp, fs 5 5 .ro z z kp, fs 4 4 .ro z z kp, fs 3 3 .ro z z kp, fs 2 2 .ro z z kp, fs 1 1 .ro z z kp, fs 0 0 .ro z z kp]⟩,
  -- GLB_LOSS_BRG
  ⟨0x0B4, [], .no, [fs 31 0 .ro z z kp]⟩,
  -- GLB_LOSS_RL
  ⟨0x0B8, [], .no, [fs 31 16 .ro z z kp, fs 15 0 .ro z z kp]⟩,
  -- GLB_BRINGUP
  ⟨0x0BC, [], .no, [fs 31 0 .ro z z kp]⟩,
  -- GLB_RETRAINS
  ⟨0x0C0, [], .no, [fs 31 0 .ro z kp kp]⟩,
  -- GLB_DESC
  ⟨0x0C4, [], .no, [fs 1 1 .ro z kp kp, fs 0 0 .ro z kp kp]⟩,
  -- GLB_STRAP
  ⟨0x0C8, [], .no, [fs 5 5 .ro z kp kp, fs 3 3 .ro z kp kp, fs 2 2 .ro z kp kp, fs 1 0 .ro z kp kp]⟩,
  -- GLB_PWR
  ⟨0x0CC, [], .no, [fs 31 31 .ro z kp kp, fs 26 24 .ro z kp kp, fs 15 8 .ro z kp kp, fs 7 0 .w1c z kp kp]⟩,
  -- GLB_TEST
  ⟨0x0D0, [], .no, [fs 31 24 .ro z kp kp, fs 1 1 .ro z z kp, fs 0 0 .rwl z kp kp]⟩]

/-- Registers of page kind GLB. -/
def specsGLB : List RSpec := specsGLB_0 ++ specsGLB_1

/-- Registers of page kind MGS (16_management_subsystem.md). -/
def specsMGS : List RSpec := [
  -- MB_CMD
  ⟨0x080, [], .no, [fs 31 31 .wo z z z, fs 27 16 .wo z z z, fs 15 8 .wo z z z, fs 7 0 .wo z z z]⟩,
  -- MB_STAT
  ⟨0x084, [], .no, [fs 31 31 .ro z kp z, fs 27 16 .ro z kp z, fs 15 8 .ro z kp z, fs 7 0 .ro z kp z]⟩,
  -- MB_INFO
  ⟨0x088, [], .no, [fs 31 30 .ro z kp kp, fs 29 29 .ro z kp kp, fs 28 28 .ro z kp kp, fs 23 0 .ro z kp kp]⟩,
  -- MB_LOGSTAT
  ⟨0x08C, [], .no, [fs 31 30 .ro z kp kp, fs 29 29 .ro z kp kp, fs 22 16 .ro z kp kp]⟩,
  -- MB_UNPERS
  ⟨0x090, [], .no, [fs 31 0 .ro z kp kp]⟩,
  -- MB_RSVOVW
  ⟨0x094, [], .no, [fs 31 0 .ro z kp kp]⟩,
  -- MB_LOGSEQ_LO
  ⟨0x098, [], .lo, [fs 31 0 .ro z kp kp]⟩,
  -- MB_LOGSEQ_HI
  ⟨0x09C, [], .hi, [fs 31 0 .ro z kp kp]⟩,
  -- MB_REQ
  ⟨0x100, [(4, 512)], .no, [fs 31 0 .rw z kp z]⟩,
  -- MB_RSP
  ⟨0x900, [(4, 448)], .no, [fs 31 0 .ro z kp z]⟩]

/-- Registers of page kind THM0 (17_thermal_and_power.md). -/
def specsTHM0 : List RSpec := [
  -- THM_THR
  ⟨0x080, [], .no, [fs 27 24 .rwl (.val 5) kp kp, fs 23 16 .rwl (.val 105) kp kp, fs 11 8 .rwl (.val 4) kp kp, fs 7 0 .rwl (.val 98) kp kp]⟩,
  -- THM_THR
  ⟨0x084, [], .no, [fs 27 24 .rwl (.val 5) kp kp, fs 23 16 .rwl (.val 95) kp kp, fs 11 8 .rwl (.val 4) kp kp, fs 7 0 .rwl (.val 88) kp kp]⟩,
  -- THM_THR
  ⟨0x088, [], .no, [fs 27 24 .rwl (.val 5) kp kp, fs 23 16 .rwl (.val 105) kp kp, fs 11 8 .rwl (.val 4) kp kp, fs 7 0 .rwl (.val 95) kp kp]⟩,
  -- THM_SHUTTHR
  ⟨0x090, [], .no, [fs 15 8 .ro (.val 125) kp kp, fs 7 0 .rwl (.val 115) kp kp]⟩,
  -- THM_SHUTTHR
  ⟨0x094, [], .no, [fs 15 8 .ro (.val 112) kp kp, fs 7 0 .rwl (.val 105) kp kp]⟩,
  -- THM_SHUTTHR
  ⟨0x098, [], .no, [fs 15 8 .ro (.val 125) kp kp, fs 7 0 .rwl (.val 115) kp kp]⟩,
  -- THM_SHUT
  ⟨0x0A0, [], .no, [fs 31 31 .ro z kp kp, fs 30 30 .ro z kp kp, fs 27 16 .ro z kp kp, fs 0 0 .wo z z z]⟩,
  -- THM_HOT
  ⟨0x0A4, [(4, 3)], .no, [fs 27 16 .ro z z kp, fs 15 0 .ro z z kp]⟩,
  -- THM_BANDS
  ⟨0x0B0, [(4, 3)], .no, [fs 31 16 .ro z z kp, fs 15 0 .ro z z kp]⟩]

/-- Registers of page kind THM1 (17_thermal_and_power.md). -/
def specsTHM1 : List RSpec := [
  -- THM_CAP
  ⟨0x080, [], .no, [fs 31 31 .w1c z kp kp, fs 15 0 .rwl (.val 500) kp kp]⟩,
  -- THM_GOAL
  ⟨0x084, [], .no, [fs 6 4 .rwl z kp kp, fs 2 2 .rwl z kp kp, fs 1 1 .rwl (.val 1) kp kp, fs 0 0 .rwl (.val 1) kp kp]⟩,
  -- THM_POWER
  ⟨0x088, [], .no, [fs 31 16 .ro (.val 500) kp kp, fs 15 0 .ro z kp kp]⟩,
  -- THM_EST
  ⟨0x08C, [], .no, [fs 31 16 .ro z kp kp, fs 3 3 .ro z z kp, fs 2 2 .ro z kp kp, fs 1 0 .ro z kp kp]⟩,
  -- THM_QUIET
  ⟨0x090, [], .no, [fs 31 16 .ro z kp kp, fs 5 0 .ro z kp kp]⟩,
  -- THM_LIMIT
  ⟨0x094, [], .no, [fs 31 16 .ro z kp kp, fs 15 8 .ro z z kp, fs 0 0 .ro z z kp]⟩,
  -- THM_HERD
  ⟨0x100, [(4, 128)], .no, [fs 15 15 .ro z z z, fs 13 12 .rwl (.val 1) kp kp, fs 11 0 .rwl z kp kp]⟩]

/-- Registers of page kind ISL (03_pace_and_voltage.md, 17_thermal_and_power.md), part 0. -/
def specsISL_0 : List RSpec := [
  -- ISL_CTL
  ⟨0x080, [], .no, [fs 0 0 .rwl z z kp]⟩,
  -- ISL_CMD
  ⟨0x084, [], .no, [fs 7 0 .wo z z z]⟩,
  -- ISL_CMD_STAT
  ⟨0x088, [], .no, [fs 31 16 .ro z kp kp, fs 7 0 .ro z kp kp]⟩,
  -- ISL_VSTAT
  ⟨0x08C, [], .no, [fs 31 16 .ro z kp kp, fs 15 14 .ro z kp kp, fs 13 12 .ro z kp kp, fs 7 0 .ro z kp kp]⟩,
  -- ISL_VNOW
  ⟨0x090, [], .no, [fs 9 0 .ro z kp kp]⟩,
  -- ISL_SETTLED
  ⟨0x094, [], .no, [fs 23 16 .ro z kp kp, fs 15 0 .ro z kp kp]⟩,
  -- ISL_SUPER
  ⟨0x098, [], .no, [fs 31 16 .ro z kp kp, fs 15 0 .ro z kp kp]⟩,
  -- ISL_FLAGS
  ⟨0x09C, [], .no, [fs 3 3 .w1c z z kp, fs 2 2 .w1c z z kp, fs 1 1 .w1c z z kp, fs 0 0 .w1c z z kp]⟩,
  -- ISL_PACE
  ⟨0x0A0, [], .no, [fs 27 16 .ro z z kp, fs 11 0 .ro z z kp]⟩,
  -- ISL_CAL_BUSY
  ⟨0x0A4, [], .no, [fs 31 0 .ro z z kp]⟩,
  -- ISL_THERMCAP
  ⟨0x0A8, [], .no, [fs 7 0 .ro z z kp]⟩,
  -- ISL_POWER
  ⟨0x0AC, [], .no, [fs 17 16 .ro z kp kp, fs 15 0 .ro z kp kp]⟩]

/-- Registers of page kind ISL (17_thermal_and_power.md), part 1. -/
def specsISL_1 : List RSpec := [
  -- ISL_TBAND
  ⟨0x0B0, [], .no, [fs 31 16 .ro z kp kp, fs 4 4 .ro z z kp, fs 3 2 .ro z z kp, fs 1 0 .ro z z kp]⟩]

/-- Registers of page kind ISL. -/
def specsISL : List RSpec := specsISL_0 ++ specsISL_1

/-- Registers of page kind SEQ (04_rod_sequencer.md), part 0. -/
def specsSEQ_0 : List RSpec := [
  -- SEQ_CTL
  ⟨0x080, [], .no, [fs 0 0 .rwl (.val 1) (.val 1) kp]⟩,
  -- SEQ_START
  ⟨0x084, [], .no, [fs 31 31 .wo z z z, fs 16 0 .wo z z z]⟩,
  -- SEQ_ABORT
  ⟨0x088, [], .no, [fs 0 0 .wo z z z]⟩,
  -- SEQ_PSTAT
  ⟨0x08C, [], .no, [fs 18 16 .ro z z z, fs 15 8 .ro z z z, fs 2 0 .ro z z z]⟩,
  -- SEQ_PC
  ⟨0x090, [], .no, [fs 16 0 .ro z z z]⟩,
  -- SEQ_WDOG
  ⟨0x094, [], .no, [fs 23 0 .rw z z z]⟩,
  -- SEQ_USER
  ⟨0x098, [], .no, [fs 31 16 .ro z z z, fs 15 0 .ro z z z]⟩,
  -- SEQ_TSIG
  ⟨0x09C, [], .no, [fs 5 0 .wo z z z]⟩,
  -- SEQ_ARG_LO
  ⟨0x0A0, [(8, 4)], .lo, [fs 31 0 .rw z z z]⟩,
  -- SEQ_ARG_HI
  ⟨0x0A4, [(8, 4)], .hi, [fs 31 0 .rw z z z]⟩,
  -- SEQ_QOCC
  ⟨0x0C0, [], .no, [fs 27 0 .ro z z z]⟩,
  -- SEQ_LASTBAD
  ⟨0x0C4, [], .no, [fs 31 24 .ro z z z, fs 23 21 .ro z z z, fs 16 0 .ro z z z]⟩]

/-- Registers of page kind SEQ (04_rod_sequencer.md), part 1. -/
def specsSEQ_1 : List RSpec := [
  -- SEQ_STALL
  ⟨0x0C8, [], .no, [fs 7 1 .ro z z z, fs 0 0 .ro z z z]⟩,
  -- SEQ_BROKEN
  ⟨0x0CC, [], .no, [fs 31 16 .ro z z z, fs 15 0 .ro z z z]⟩,
  -- SEQ_COUNT_LO
  ⟨0x0D0, [], .lo, [fs 31 0 .ro z z z]⟩,
  -- SEQ_COUNT_HI
  ⟨0x0D4, [], .hi, [fs 31 0 .ro z z z]⟩]

/-- Registers of page kind SEQ. -/
def specsSEQ : List RSpec := specsSEQ_0 ++ specsSEQ_1

/-- Registers of page kind OXA (05_ox_and_goat.md). -/
def specsOXA : List RSpec := [
  -- OXA_ABUF
  ⟨0x080, [], .no, [fs 31 31 .ro z z z, fs 30 30 .ro z z z, fs 16 16 .ro z z z, fs 7 4 .ro z z z, fs 3 0 .ro z z z]⟩,
  -- OXA_SBUF
  ⟨0x084, [], .no, [fs 31 31 .ro z z z, fs 30 30 .ro z z z, fs 16 16 .ro z z z, fs 7 4 .ro z z z, fs 3 0 .ro z z z]⟩,
  -- OXA_ROWS_LO
  ⟨0x088, [], .lo, [fs 31 0 .ro z z z]⟩,
  -- OXA_ROWS_HI
  ⟨0x08C, [], .hi, [fs 31 0 .ro z z z]⟩,
  -- OXA_BUSY_LO
  ⟨0x090, [], .lo, [fs 31 0 .ro z z z]⟩,
  -- OXA_BUSY_HI
  ⟨0x094, [], .hi, [fs 31 0 .ro z z z]⟩,
  -- OXA_STARVE_LO
  ⟨0x098, [], .lo, [fs 31 0 .ro z z z]⟩,
  -- OXA_STARVE_HI
  ⟨0x09C, [], .hi, [fs 31 0 .ro z z z]⟩,
  -- OXA_ACCERR
  ⟨0x0A0, [], .no, [fs 31 16 .ro z z z, fs 13 0 .ro z z z]⟩,
  -- OXA_SWAPS
  ⟨0x0A4, [], .no, [fs 31 16 .ro z z z, fs 15 0 .ro z z z]⟩]

/-- Registers of page kind GOAT (05_ox_and_goat.md). -/
def specsGOAT : List RSpec := [
  -- GOAT_STATE
  ⟨0x080, [], .no, [fs 31 31 .ro z z z, fs 30 30 .ro z z z, fs 29 27 .ro z z z, fs 23 12 .ro z z z, fs 11 0 .ro z z z]⟩,
  -- GOAT_CHUNKS_LO
  ⟨0x084, [], .lo, [fs 31 0 .ro z z z]⟩,
  -- GOAT_CHUNKS_HI
  ⟨0x088, [], .hi, [fs 31 0 .ro z z z]⟩,
  -- GOAT_STARVE_LO
  ⟨0x08C, [], .lo, [fs 31 0 .ro z z z]⟩,
  -- GOAT_STARVE_HI
  ⟨0x090, [], .hi, [fs 31 0 .ro z z z]⟩,
  -- GOAT_LAST
  ⟨0x094, [], .no, [fs 31 24 .ro z z z, fs 23 0 .ro z z z]⟩]

/-- Registers of page kind VEC (06_vector_unit_and_formats.md). -/
def specsVEC : List RSpec := [
  -- VEC_CMDS_LO
  ⟨0x080, [], .lo, [fs 31 0 .ro z z z]⟩,
  -- VEC_CMDS_HI
  ⟨0x084, [], .hi, [fs 31 0 .ro z z z]⟩,
  -- VEC_INVALID
  ⟨0x088, [], .no, [fs 31 0 .ro z z z]⟩,
  -- VEC_SAT
  ⟨0x08C, [], .no, [fs 31 0 .ro z z z]⟩,
  -- VEC_POISON
  ⟨0x090, [], .no, [fs 31 0 .ro z z z]⟩,
  -- VEC_ACT_NINF
  ⟨0x0A0, [(8, 2)], .no, [fs 31 0 .rwl z z z]⟩,
  -- VEC_ACT_PINF
  ⟨0x0A4, [(8, 2)], .no, [fs 31 0 .rwl z z z]⟩,
  -- VEC_ACT_BP
  ⟨0x400, [(1280, 2), (4, 64)], .no, [fs 31 0 .rwl z z z]⟩,
  -- VEC_ACT_C
  ⟨0x500, [(1280, 2), (16, 64), (4, 4)], .no, [fs 31 0 .rwl z z z]⟩]

/-- Registers of page kind STRM (08_stream_engine.md), part 0. -/
def specsSTRM_0 : List RSpec := [
  -- STRM_CTL
  ⟨0x080, [], .no, [fs 6 0 .rwl (.val 64) (.val 64) (.val 64)]⟩,
  -- STRM_REQ
  ⟨0x084, [], .no, [fs 14 8 .ro z z kp, fs 6 0 .ro z z kp]⟩,
  -- STRM_BYTES_LO
  ⟨0x088, [], .lo, [fs 31 0 .ro z z z]⟩,
  -- STRM_BYTES_HI
  ⟨0x08C, [], .hi, [fs 31 0 .ro z z z]⟩,
  -- STRM_HALTS
  ⟨0x090, [], .no, [fs 31 0 .ro z z z]⟩,
  -- STRM_S_CMD
  ⟨0x100, [(64, 8)], .no, [fs 31 16 .wo z z z, fs 15 8 .wo z z z, fs 3 0 .wo z z z]⟩,
  -- STRM_S_STAT
  ⟨0x104, [(64, 8)], .no, [fs 31 24 .ro z z z, fs 23 16 .ro z z z, fs 15 8 .ro z z z, fs 3 3 .ro z z z, fs 2 0 .ro z z z]⟩,
  -- STRM_S_RUN
  ⟨0x108, [(64, 8)], .no, [fs 31 31 .ro z z z, fs 30 30 .ro z z z, fs 29 23 .ro z z z, fs 20 0 .ro z z z]⟩,
  -- STRM_S_LAST
  ⟨0x10C, [(64, 8)], .no, [fs 7 0 .ro z z z]⟩,
  -- STRM_S_POS
  ⟨0x110, [(64, 8), (4, 8)], .no, [fs 31 0 .ro z z z]⟩,
  -- STRM_S_FVA_LO
  ⟨0x130, [(64, 8)], .lo, [fs 31 0 .ro z z z]⟩,
  -- STRM_S_FVA_HI
  ⟨0x134, [(64, 8)], .hi, [fs 31 0 .ro z z z]⟩]

/-- Registers of page kind STRM (08_stream_engine.md), part 1. -/
def specsSTRM_1 : List RSpec := [
  -- STRM_S_DELIV_LO
  ⟨0x138, [(64, 8)], .lo, [fs 31 0 .ro z z z]⟩,
  -- STRM_S_DELIV_HI
  ⟨0x13C, [(64, 8)], .hi, [fs 31 0 .ro z z z]⟩]

/-- Registers of page kind STRM. -/
def specsSTRM : List RSpec := specsSTRM_0 ++ specsSTRM_1

/-- Registers of page kind SPAD (07_bead_memory.md). -/
def specsSPAD : List RSpec := [
  -- SPAD_ERRADDR
  ⟨0x080, [], .no, [fs 31 31 .w1c z z z, fs 20 0 .ro z z z]⟩,
  -- SPAD_PERR
  ⟨0x084, [], .no, [fs 31 0 .ro z z z]⟩,
  -- SPAD_CONFLICT_LO
  ⟨0x088, [], .lo, [fs 31 0 .ro z z z]⟩,
  -- SPAD_CONFLICT_HI
  ⟨0x08C, [], .hi, [fs 31 0 .ro z z z]⟩,
  -- SPAD_INJECT
  ⟨0x090, [], .no, [fs 31 31 .rwl z z z, fs 20 0 .rwl z z z]⟩]

/-- Registers of page kind BEAD (07_bead_memory.md), part 0. -/
def specsBEAD_0 : List RSpec := [
  -- BEAD_CODE_CTL
  ⟨0x080, [], .no, [fs 23 16 .rwl (.val 24) (.val 24) (.val 24), fs 15 8 .rwl (.val 64) (.val 64) (.val 64), fs 1 1 .rwl (.val 1) (.val 1) (.val 1), fs 0 0 .rwl z z z]⟩,
  -- BEAD_FLOOR
  ⟨0x084, [], .no, [fs 31 31 .w1c z z z, fs 10 8 .ro z z z, fs 6 4 .ro z z z, fs 2 0 .ro z z z]⟩,
  -- BEAD_RCLASS
  ⟨0x088, [(4, 12)], .no, [fs 3 3 .ro z z z, fs 7 7 .ro z z z, fs 11 11 .ro z z z, fs 15 15 .ro z z z, fs 19 19 .ro z z z, fs 23 23 .ro z z z, fs 27 27 .ro z z z, fs 31 31 .ro z z z, fs 2 0 .ro (.val 1) (.val 1) (.val 1), fs 6 4 .ro (.val 1) (.val 1) (.val 1), fs 10 8 .ro (.val 1) (.val 1) (.val 1), fs 14 12 .ro (.val 1) (.val 1) (.val 1), fs 18 16 .ro (.val 1) (.val 1) (.val 1), fs 22 20 .ro (.val 1) (.val 1) (.val 1), fs 26 24 .ro (.val 1) (.val 1) (.val 1), fs 30 28 .ro (.val 1) (.val 1) (.val 1)]⟩,
  -- BEAD_SCRUB_CTL
  ⟨0x0B8, [], .no, [fs 15 8 .rwl (.val 60) (.val 60) (.val 60), fs 0 0 .rwl z z z]⟩,
  -- BEAD_SCRUB_STAT
  ⟨0x0BC, [], .no, [fs 31 16 .ro z z z, fs 15 0 .ro z z z]⟩,
  -- BEAD_REFRESH
  ⟨0x0C0, [], .no, [fs 1 0 .ro z kp kp, fs 3 2 .ro z kp kp, fs 5 4 .ro z kp kp, fs 7 6 .ro z kp kp, fs 9 8 .ro z kp kp, fs 11 10 .ro z kp kp, fs 13 12 .ro z kp kp, fs 15 14 .ro z kp kp]⟩,
  -- BEAD_CE_SYM_LO
  ⟨0x0C4, [], .lo, [fs 31 0 .ro z kp kp]⟩,
  -- BEAD_CE_SYM_HI
  ⟨0x0C8, [], .hi, [fs 31 0 .ro z kp kp]⟩,
  -- BEAD_UE
  ⟨0x0CC, [], .no, [fs 31 16 .ro z kp kp, fs 15 0 .ro z kp kp]⟩,
  -- BEAD_SPARE
  ⟨0x0D0, [], .no, [fs 31 16 .ro z kp kp, fs 15 8 .ro z kp kp, fs 7 0 .ro z kp kp]⟩,
  -- BEAD_LAST_ERR
  ⟨0x0D4, [], .no, [fs 31 30 .ro z kp kp, fs 23 16 .ro z kp kp, fs 15 0 .ro z kp kp]⟩,
  -- BEAD_HIT_LO
  ⟨0x0D8, [], .lo, [fs 31 0 .ro z z z]⟩]

/-- Registers of page kind BEAD (07_bead_memory.md), part 1. -/
def specsBEAD_1 : List RSpec := [
  -- BEAD_HIT_HI
  ⟨0x0DC, [], .hi, [fs 31 0 .ro z z z]⟩,
  -- BEAD_MISS_LO
  ⟨0x0E0, [], .lo, [fs 31 0 .ro z z z]⟩,
  -- BEAD_MISS_HI
  ⟨0x0E4, [], .hi, [fs 31 0 .ro z z z]⟩,
  -- BEAD_CTL
  ⟨0x0E8, [], .no, [fs 31 31 .ro z z z, fs 0 0 .wo z z z]⟩,
  -- BEAD_INJECT
  ⟨0x0EC, [], .no, [fs 31 31 .rwl z z z, fs 21 16 .rwl z z z, fs 15 0 .rwl z z z]⟩]

/-- Registers of page kind BEAD. -/
def specsBEAD : List RSpec := specsBEAD_0 ++ specsBEAD_1

/-- Registers of page kind XLAT (09_addressing_and_spill.md), part 0. -/
def specsXLAT_0 : List RSpec := [
  -- XLAT_CFG
  ⟨0x080, [], .no, [fs 25 16 .ro z z kp, fs 2 2 .rwl z z z, fs 1 1 .rwl z z z, fs 0 0 .ro z z kp]⟩,
  -- XLAT_ROOT_LO
  ⟨0x084, [], .lo, [fs 31 14 .rwl z z z, fs 1 1 .rwl z z z, fs 0 0 .rwl z z z]⟩,
  -- XLAT_ROOT_HI
  ⟨0x088, [], .hi, [fs 31 0 .rwl z z z]⟩,
  -- XLAT_PASID
  ⟨0x08C, [], .no, [fs 31 31 .rwl z z z, fs 19 0 .rwl z z z]⟩,
  -- XLAT_PAGER
  ⟨0x090, [], .no, [fs 31 24 .rwl (.val 100) (.val 100) (.val 100), fs 23 19 .rwl (.val 31) (.val 31) (.val 31), fs 18 14 .rwl (.val 30) (.val 30) (.val 30), fs 13 4 .rwl z z z, fs 0 0 .rwl z z z]⟩,
  -- XLAT_FQ_BASE_LO
  ⟨0x094, [], .lo, [fs 31 12 .rwl z z z]⟩,
  -- XLAT_FQ_BASE_HI
  ⟨0x098, [], .hi, [fs 31 0 .rwl z z z]⟩,
  -- XLAT_FQ_SIZE
  ⟨0x09C, [], .no, [fs 4 0 .rwl (.val 6) (.val 6) (.val 6)]⟩,
  -- XLAT_FQ_IDX
  ⟨0x0A0, [], .no, [fs 31 16 .rw z z z, fs 15 0 .ro z z z]⟩,
  -- XLAT_PCOMP
  ⟨0x0A4, [], .no, [fs 17 16 .wo z z z, fs 15 0 .wo z z z]⟩,
  -- XLAT_FSLOT
  ⟨0x0A8, [], .no, [fs 31 16 .ro z z z, fs 4 0 .ro z z z]⟩,
  -- XLAT_INV_VA_LO
  ⟨0x0AC, [], .lo, [fs 31 16 .rw z z z]⟩]

/-- Registers of page kind XLAT (09_addressing_and_spill.md), part 1. -/
def specsXLAT_1 : List RSpec := [
  -- XLAT_INV_VA_HI
  ⟨0x0B0, [], .hi, [fs 15 0 .rw z z z]⟩,
  -- XLAT_INV
  ⟨0x0B4, [], .no, [fs 31 31 .wo z z z, fs 23 16 .wo z z z, fs 15 0 .wo z z z]⟩,
  -- XLAT_INV_STAT
  ⟨0x0B8, [], .no, [fs 31 31 .ro z z z, fs 7 0 .ro z z z]⟩,
  -- XLAT_TIER_CTL
  ⟨0x0BC, [], .no, [fs 31 31 .ro (.val 1) (.val 1) (.val 1), fs 23 16 .rwl (.val 16) (.val 16) (.val 16), fs 15 8 .rwl (.val 8) (.val 8) (.val 8), fs 1 1 .rw z z z, fs 0 0 .rw z z z]⟩,
  -- XLAT_TIER_PAR
  ⟨0x0C0, [], .no, [fs 31 16 .rwl (.val 64) (.val 64) (.val 64), fs 15 0 .rwl (.val 100) (.val 100) (.val 100)]⟩,
  -- XLAT_TB_BASE
  ⟨0x0C4, [], .no, [fs 20 0 .rwl z z z]⟩,
  -- XLAT_TB_COUNT
  ⟨0x0C8, [], .no, [fs 20 0 .rwl z z z]⟩,
  -- XLAT_HS_COUNT
  ⟨0x0CC, [], .no, [fs 20 0 .rwl z z z]⟩,
  -- XLAT_TM_BASE
  ⟨0x0D0, [], .no, [fs 20 0 .rwl z z z]⟩,
  -- XLAT_HS_BASE_LO
  ⟨0x0D4, [], .lo, [fs 31 16 .rwl z z z]⟩,
  -- XLAT_HS_BASE_HI
  ⟨0x0D8, [], .hi, [fs 31 0 .rwl z z z]⟩,
  -- XLAT_FREE_B
  ⟨0x0DC, [], .no, [fs 20 0 .ro z z z]⟩]

/-- Registers of page kind XLAT (09_addressing_and_spill.md), part 2. -/
def specsXLAT_2 : List RSpec := [
  -- XLAT_FREE_H
  ⟨0x0E0, [], .no, [fs 20 0 .ro z z z]⟩,
  -- XLAT_MIGS
  ⟨0x0E4, [], .no, [fs 31 16 .ro z z z, fs 15 0 .ro z z z]⟩]

/-- Registers of page kind XLAT. -/
def specsXLAT : List RSpec := specsXLAT_0 ++ specsXLAT_1 ++ specsXLAT_2

/-- Registers of page kind MSG (10_grid_network.md). -/
def specsMSG : List RSpec := [
  -- MSG_STAT
  ⟨0x080, [], .no, [fs 24 16 .ro z z z, fs 4 4 .ro z z z, fs 3 0 .ro z z z]⟩,
  -- MSG_SENT_LO
  ⟨0x084, [], .lo, [fs 31 0 .ro z z z]⟩,
  -- MSG_SENT_HI
  ⟨0x088, [], .hi, [fs 31 0 .ro z z z]⟩,
  -- MSG_RECV_LO
  ⟨0x08C, [], .lo, [fs 31 0 .ro z z z]⟩,
  -- MSG_RECV_HI
  ⟨0x090, [], .hi, [fs 31 0 .ro z z z]⟩,
  -- MSG_FRAMEERR
  ⟨0x094, [], .no, [fs 31 0 .ro z z z]⟩,
  -- MSG_PROBES
  ⟨0x098, [], .no, [fs 31 16 .ro z z z, fs 15 0 .ro z z z]⟩,
  -- MSG_CH_BUF
  ⟨0x100, [(16, 32)], .no, [fs 31 16 .rwl z z z, fs 14 0 .rwl z z z]⟩,
  -- MSG_CH_BIND
  ⟨0x104, [(16, 32)], .no, [fs 31 30 .rwl z z z, fs 27 10 .rwl z z z, fs 9 0 .rwl z z z]⟩,
  -- MSG_CH_STAT
  ⟨0x108, [(16, 32)], .no, [fs 31 16 .ro z z z, fs 15 0 .ro z z z]⟩,
  -- MSG_CH_FLUSH
  ⟨0x10C, [(16, 32)], .no, [fs 0 0 .wo z z z]⟩]

/-- Registers of page kind KV (13_attention_and_kv.md). -/
def specsKV : List RSpec := [
  -- KV_POOL_BASE_LO
  ⟨0x080, [], .lo, [fs 31 6 .rwl z z z]⟩,
  -- KV_POOL_BASE_HI
  ⟨0x084, [], .hi, [fs 15 0 .rwl z z z]⟩,
  -- KV_POOL_CFG
  ⟨0x088, [], .no, [fs 23 16 .rwl z z z, fs 14 0 .rwl z z z]⟩,
  -- KV_POOL_FREE
  ⟨0x08C, [], .no, [fs 24 16 .ro z z z, fs 14 0 .ro z z z]⟩,
  -- KV_HSEL
  ⟨0x090, [], .no, [fs 7 0 .rw z z z]⟩,
  -- KV_HW
  ⟨0x0A0, [(4, 16)], .no, [fs 31 0 .ro z z z]⟩,
  -- KV_EVICTS
  ⟨0x0E0, [], .no, [fs 31 0 .ro z z z]⟩,
  -- KV_APPENDS_LO
  ⟨0x0E4, [], .lo, [fs 31 0 .ro z z z]⟩,
  -- KV_APPENDS_HI
  ⟨0x0E8, [], .hi, [fs 31 0 .ro z z z]⟩,
  -- KV_TOKENS_LO
  ⟨0x0EC, [], .lo, [fs 31 0 .ro z z z]⟩,
  -- KV_TOKENS_HI
  ⟨0x0F0, [], .hi, [fs 31 0 .ro z z z]⟩,
  -- KV_RING
  ⟨0x0F4, [], .no, [fs 31 0 .ro z z z]⟩]

/-- Registers of page kind SENSE (03_pace_and_voltage.md, 17_thermal_and_power.md). -/
def specsSENSE : List RSpec := [
  -- SENSE_PACE
  ⟨0x080, [], .no, [fs 31 31 .ro z z kp, fs 27 16 .ro z z kp, fs 11 0 .ro z z kp]⟩,
  -- SENSE_PACE_MM
  ⟨0x084, [], .no, [fs 31 31 .wo z z z, fs 27 16 .ro z z kp, fs 11 0 .ro (.val 4095) (.val 4095) kp]⟩,
  -- SENSE_CAL_A
  ⟨0x088, [], .no, [fs 31 16 .ro z kp kp, fs 15 8 .ro z kp kp, fs 7 0 .ro z kp kp]⟩,
  -- SENSE_CAL_B
  ⟨0x08C, [], .no, [fs 31 16 .ro z kp kp, fs 15 8 .ro z kp kp, fs 7 0 .ro z kp kp]⟩,
  -- SENSE_TEMP
  ⟨0x090, [], .no, [fs 31 31 .ro z z kp, fs 30 28 .ro z z kp, fs 15 0 .ro z z kp]⟩,
  -- SENSE_BEADT
  ⟨0x094, [(4, 4)], .no, [fs 31 16 .ro z z kp, fs 15 0 .ro z z kp]⟩,
  -- SENSE_TMAX
  ⟨0x0A4, [], .no, [fs 31 31 .wo z z z, fs 15 0 .ro z z kp]⟩]

/-- Registers of page kind DBG (04_rod_sequencer.md). -/
def specsDBG : List RSpec := [
  -- DBG_CTL
  ⟨0x080, [], .no, [fs 4 4 .rwl z z z, fs 3 3 .rwl z z z, fs 2 2 .wo z z z, fs 1 1 .wo z z z, fs 0 0 .wo z z z]⟩,
  -- DBG_BP0
  ⟨0x084, [], .no, [fs 16 0 .rwl z z z]⟩,
  -- DBG_BP1
  ⟨0x088, [], .no, [fs 16 0 .rwl z z z]⟩,
  -- DBG_SEL
  ⟨0x08C, [], .no, [fs 7 0 .rw z z z]⟩,
  -- DBG_DATA_LO
  ⟨0x090, [], .lo, [fs 31 0 .rw z z z]⟩,
  -- DBG_DATA_HI
  ⟨0x094, [], .hi, [fs 31 0 .rw z z z]⟩,
  -- DBG_POISON
  ⟨0x098, [], .no, [fs 31 0 .ro z z z]⟩,
  -- DBG_TOKNZ_LO
  ⟨0x09C, [], .lo, [fs 31 0 .ro z z z]⟩,
  -- DBG_TOKNZ_HI
  ⟨0x0A0, [], .hi, [fs 31 0 .ro z z z]⟩]

/-- Registers of page kind BRG (11_bridges.md). -/
def specsBRG : List RSpec := [
  -- BRG_CTL
  ⟨0x080, [], .no, [fs 1 1 .rwl z kp kp, fs 0 0 .rwl z z kp]⟩,
  -- BRG_STAT
  ⟨0x084, [], .no, [fs 31 31 .ro z z kp, fs 30 30 .ro z z kp, fs 29 29 .ro z kp kp, fs 28 28 .ro z kp kp, fs 27 26 .ro z z kp, fs 25 21 .ro z kp kp, fs 20 16 .ro z kp kp, fs 15 12 .ro z kp kp, fs 11 8 .ro z kp kp, fs 4 0 .ro z kp kp]⟩,
  -- BRG_CRC
  ⟨0x088, [], .no, [fs 31 0 .ro z kp kp]⟩,
  -- BRG_REPLAY
  ⟨0x08C, [], .no, [fs 31 0 .ro z kp kp]⟩,
  -- BRG_LADDER
  ⟨0x090, [], .no, [fs 31 16 .ro z kp kp, fs 15 0 .ro z kp kp]⟩,
  -- BRG_LAST
  ⟨0x094, [], .no, [fs 31 28 .ro z kp kp, fs 27 27 .ro z kp kp, fs 24 20 .ro z kp kp]⟩,
  -- BRG_BYTES_AB_LO
  ⟨0x098, [], .lo, [fs 31 0 .ro z z kp]⟩,
  -- BRG_BYTES_AB_HI
  ⟨0x09C, [], .hi, [fs 31 0 .ro z z kp]⟩,
  -- BRG_BYTES_BA_LO
  ⟨0x0A0, [], .lo, [fs 31 0 .ro z z kp]⟩,
  -- BRG_BYTES_BA_HI
  ⟨0x0A4, [], .hi, [fs 31 0 .ro z z kp]⟩,
  -- BRG_LANE
  ⟨0x100, [(128, 2), (4, 18)], .no, [fs 31 30 .ro z kp kp, fs 28 24 .ro (.val 31) kp kp, fs 23 16 .ro z z kp, fs 15 0 .ro z z kp]⟩]

/-- Registers of page kind RLP (12_fabric.md), part 0. -/
def specsRLP_0 : List RSpec := [
  -- RLP_CTL
  ⟨0x080, [], .no, [fs 1 0 .rwl z kp kp]⟩,
  -- RLP_STAT
  ⟨0x084, [], .no, [fs 31 31 .ro z z kp, fs 30 28 .ro z z kp, fs 26 24 .ro z kp kp, fs 23 20 .ro z kp kp, fs 19 16 .ro z kp kp, fs 15 12 .ro z kp kp, fs 11 8 .ro z kp kp]⟩,
  -- RLP_NBR_SER_LO
  ⟨0x088, [], .lo, [fs 31 0 .ro z z kp]⟩,
  -- RLP_NBR_SER_HI
  ⟨0x08C, [], .hi, [fs 31 0 .ro z z kp]⟩,
  -- RLP_NBR
  ⟨0x090, [], .no, [fs 31 31 .ro z z kp, fs 30 30 .ro z z kp, fs 29 12 .ro z z kp, fs 11 4 .ro z z kp, fs 3 0 .ro z z kp]⟩,
  -- RLP_LANE
  ⟨0x0A0, [(4, 4)], .no, [fs 31 30 .ro z kp kp, fs 29 24 .ro z z kp, fs 23 0 .ro z z kp]⟩,
  -- RLP_TX_LO
  ⟨0x0B0, [], .lo, [fs 31 0 .ro z z kp]⟩,
  -- RLP_TX_HI
  ⟨0x0B4, [], .hi, [fs 31 0 .ro z z kp]⟩,
  -- RLP_RX_LO
  ⟨0x0B8, [], .lo, [fs 31 0 .ro z z kp]⟩,
  -- RLP_RX_HI
  ⟨0x0BC, [], .hi, [fs 31 0 .ro z z kp]⟩,
  -- RLP_REPLAY
  ⟨0x0C0, [], .no, [fs 31 0 .ro z kp kp]⟩,
  -- RLP_CRC
  ⟨0x0C4, [], .no, [fs 31 0 .ro z kp kp]⟩]

/-- Registers of page kind RLP (12_fabric.md), part 1. -/
def specsRLP_1 : List RSpec := [
  -- RLP_LAST
  ⟨0x0C8, [], .no, [fs 31 28 .ro z kp kp, fs 27 27 .ro z kp kp, fs 25 24 .ro z kp kp]⟩]

/-- Registers of page kind RLP. -/
def specsRLP : List RSpec := specsRLP_0 ++ specsRLP_1

/-- Registers of page kind RTR (12_fabric.md). -/
def specsRTR : List RSpec := [
  -- RTR_CTL
  ⟨0x080, [], .no, [fs 23 16 .rwl (.val 64) (.val 64) kp, fs 7 0 .rwl (.val 1) (.val 1) kp]⟩,
  -- RTR_HOSTFM
  ⟨0x084, [], .no, [fs 1 1 .wo z z z, fs 0 0 .wo z z z]⟩,
  -- RTR_FM
  ⟨0x088, [], .no, [fs 31 30 .ro z z kp, fs 29 29 .ro z z kp, fs 25 8 .ro z z kp, fs 7 0 .ro z z kp]⟩,
  -- RTR_JL
  ⟨0x08C, [], .no, [fs 31 31 .ro z z kp, fs 30 30 .ro z z kp, fs 25 8 .ro z z kp, fs 7 0 .ro z z kp]⟩,
  -- RTR_DROP
  ⟨0x090, [], .no, [fs 31 16 .ro z z kp, fs 15 0 .ro z z kp]⟩,
  -- RTR_TRANSIT_LO
  ⟨0x094, [], .lo, [fs 31 0 .ro z z kp]⟩,
  -- RTR_TRANSIT_HI
  ⟨0x098, [], .hi, [fs 31 0 .ro z z kp]⟩,
  -- RTR_FTIME_LO
  ⟨0x09C, [], .lo, [fs 31 0 .ro z z kp]⟩,
  -- RTR_FTIME_HI
  ⟨0x0A0, [], .hi, [fs 31 0 .ro z z kp]⟩]

/-- Registers of page kind RTRW1 (12_fabric.md). -/
def specsRTRW1 : List RSpec := [
  -- RTR_IG
  ⟨0x400, [(4, 256)], .no, [fs 3 0 .rwl z z kp, fs 7 4 .rwl z z kp, fs 11 8 .rwl z z kp, fs 15 12 .rwl z z kp, fs 19 16 .rwl z z kp, fs 23 20 .rwl z z kp, fs 24 24 .rwl z z kp]⟩]

/-- Registers of page kind RTRW2 (12_fabric.md). -/
def specsRTRW2 : List RSpec := [
  -- RTR_G
  ⟨0x200, [(4, 512)], .no, [fs 3 0 .rwl z z kp, fs 7 4 .rwl z z kp, fs 11 8 .rwl z z kp, fs 15 12 .rwl z z kp, fs 19 16 .rwl z z kp, fs 23 20 .rwl z z kp, fs 24 24 .rwl z z kp]⟩]

/-- Registers of page kind E2E (12_fabric.md). -/
def specsE2E : List RSpec := [
  -- E2E_CTL
  ⟨0x080, [], .no, [fs 0 0 .wo z z z]⟩,
  -- E2E_STAT
  ⟨0x084, [], .no, [fs 31 31 .ro (.val 1) (.val 1) kp, fs 30 30 .ro z z kp, fs 14 0 .ro z z kp]⟩,
  -- E2E_DUP
  ⟨0x088, [], .no, [fs 31 16 .ro z z kp, fs 15 0 .ro z z kp]⟩,
  -- E2E_RETRY
  ⟨0x08C, [], .no, [fs 31 0 .ro z z kp]⟩,
  -- E2E_GIVEUP
  ⟨0x090, [], .no, [fs 31 0 .ro z z kp]⟩,
  -- E2E_DUPHIT
  ⟨0x094, [], .no, [fs 31 0 .ro z z kp]⟩,
  -- E2E_STALE
  ⟨0x098, [], .no, [fs 31 0 .ro z z kp]⟩,
  -- E2E_BUSY
  ⟨0x09C, [], .no, [fs 31 0 .ro z z kp]⟩]

/-- Registers of page kind E2EW (12_fabric.md). -/
def specsE2EW : List RSpec := [
  -- E2E_TAG
  ⟨0x200, [(4, 512)], .no, [fs 31 0 .ro z z kp]⟩]

/-- Registers of page kind HIF (15_host_interface.md). -/
def specsHIF : List RSpec := [
  -- HIF_LINK
  ⟨0x080, [], .no, [fs 11 11 .ro z z kp, fs 10 10 .ro z z kp, fs 9 4 .ro z z kp, fs 3 0 .ro z z kp]⟩,
  -- HIF_FUNCS
  ⟨0x084, [], .no, [fs 7 7 .ro z z z, fs 6 0 .ro z z z]⟩,
  -- HIF_NPR
  ⟨0x088, [], .no, [fs 31 16 .ro z z kp, fs 15 0 .ro z z kp]⟩,
  -- HIF_ATS
  ⟨0x08C, [], .no, [fs 31 16 .ro z z kp, fs 15 0 .ro z z kp]⟩]

/-- Registers of page kind HQ (15_host_interface.md), part 0. -/
def specsHQ_0 : List RSpec := [
  -- HQ_WIN_BASE_LO
  ⟨0x080, [], .lo, [fs 31 16 .rwl z z z]⟩,
  -- HQ_WIN_BASE_HI
  ⟨0x084, [], .hi, [fs 15 0 .rwl z z z]⟩,
  -- HQ_WIN_FVA_LO
  ⟨0x088, [], .lo, [fs 31 0 .ro z z z]⟩,
  -- HQ_WIN_FVA_HI
  ⟨0x08C, [], .hi, [fs 15 0 .ro z z z]⟩,
  -- HQ_DUPS
  ⟨0x090, [], .no, [fs 31 0 .ro z z z]⟩,
  -- HQ_Q_CMD
  ⟨0x100, [(64, 8)], .no, [fs 31 16 .wo z z z, fs 15 8 .wo z z z, fs 3 0 .wo z z z]⟩,
  -- HQ_Q_STAT
  ⟨0x104, [(64, 8)], .no, [fs 31 24 .ro z z z, fs 23 16 .ro z z z, fs 15 8 .ro z z z, fs 3 3 .ro z z z, fs 2 0 .ro z z z]⟩,
  -- HQ_Q_SQB_LO
  ⟨0x108, [(64, 8)], .lo, [fo 31 0 .rwl z z z]⟩,
  -- HQ_Q_SQB_HI
  ⟨0x10C, [(64, 8)], .hi, [fo 31 0 .rwl z z z]⟩,
  -- HQ_Q_CQB_LO
  ⟨0x110, [(64, 8)], .lo, [fo 31 0 .rwl z z z]⟩,
  -- HQ_Q_CQB_HI
  ⟨0x114, [(64, 8)], .hi, [fo 31 0 .rwl z z z]⟩,
  -- HQ_Q_CFG
  ⟨0x118, [(64, 8)], .no, [fs 31 31 .rwl z z z, fs 26 16 .rwl z z z, fo 12 8 .rwl z z z, fo 4 0 .rwl z z z]⟩]

/-- Registers of page kind HQ (15_host_interface.md), part 1. -/
def specsHQ_1 : List RSpec := [
  -- HQ_Q_IDX
  ⟨0x11C, [(64, 8)], .no, [fs 31 16 .ro z z z, fs 15 0 .ro z z z]⟩,
  -- HQ_Q_DBV
  ⟨0x120, [(64, 8)], .no, [fs 31 16 .ro z z z, fs 15 0 .ro z z z]⟩,
  -- HQ_Q_DEST
  ⟨0x124, [(64, 8)], .no, [fs 20 16 .rwl z z z, fs 9 0 .rwl z z z]⟩,
  -- HQ_Q_IMOD
  ⟨0x128, [(64, 8)], .no, [fs 15 0 .rwl z z z]⟩,
  -- HQ_Q_FLUSH
  ⟨0x12C, [(64, 8)], .no, [fs 0 0 .wo z z z]⟩]

/-- Registers of page kind HQ. -/
def specsHQ : List RSpec := specsHQ_0 ++ specsHQ_1

/-- Registers of page kind VPX (14_video_pipes.md). -/
def specsVPX : List RSpec := [
  -- VPX_STAT
  ⟨0x080, [], .no, [fs 20 16 .ro z z kp, fs 15 12 .ro z z kp, fs 11 11 .ro z z kp, fs 9 8 .ro z z kp, fs 6 0 .ro z z kp]⟩,
  -- VPX_JOBS_LO
  ⟨0x084, [], .lo, [fs 31 0 .ro z z kp]⟩,
  -- VPX_JOBS_HI
  ⟨0x088, [], .hi, [fs 31 0 .ro z z kp]⟩,
  -- VPX_SYNBUF
  ⟨0x08C, [], .no, [fs 19 0 .ro z z kp]⟩,
  -- VPX_ERRS
  ⟨0x090, [], .no, [fs 31 16 .ro z z kp, fs 15 0 .ro z z kp]⟩,
  -- VPX_SESS
  ⟨0x100, [(4, 16)], .no, [fs 31 31 .ro z z kp, fs 30 30 .ro z z kp, fs 29 28 .ro z z kp, fs 22 16 .ro z z kp, fs 15 8 .ro z z kp, fs 7 0 .ro z z kp]⟩]

/-- Registers of page kind VEN (14_video_pipes.md). -/
def specsVEN : List RSpec := [
  -- VEN_BITS_LO
  ⟨0x080, [], .lo, [fs 31 0 .ro z z kp]⟩,
  -- VEN_BITS_HI
  ⟨0x084, [], .hi, [fs 31 0 .ro z z kp]⟩,
  -- VEN_STRAIN
  ⟨0x088, [], .no, [fs 31 0 .ro z z kp]⟩,
  -- VEN_RC
  ⟨0x100, [(4, 16)], .no, [fs 31 8 .ro z z kp, fs 5 0 .ro z z kp]⟩]

/-- Registers of page kind TNZ (14_video_pipes.md). -/
def specsTNZ : List RSpec := [
  -- TNZ_FRAMES
  ⟨0x080, [], .no, [fs 31 0 .ro z z kp]⟩,
  -- TNZ_BYTES_LO
  ⟨0x084, [], .lo, [fs 31 0 .ro z z kp]⟩,
  -- TNZ_BYTES_HI
  ⟨0x088, [], .hi, [fs 31 0 .ro z z kp]⟩,
  -- TNZ_SAT
  ⟨0x08C, [], .no, [fs 31 0 .ro z z kp]⟩]

/-- Registers of page kind KVM (13_attention_and_kv.md). -/
def specsKVM : List RSpec := [
  -- KVM_CTL
  ⟨0x080, [], .no, [fs 23 16 .rwl (.val 4) (.val 4) kp, fs 15 8 .rwl (.val 10) (.val 10) kp, fs 0 0 .rwl z z kp]⟩,
  -- KVM_BAL
  ⟨0x084, [], .no, [fs 15 0 .rwl (.val 64) (.val 64) kp]⟩,
  -- KVM_OPW
  ⟨0x088, [(4, 8)], .no, [fs 31 0 .rw z z kp]⟩,
  -- KVM_OPGO
  ⟨0x0A8, [], .no, [fs 15 8 .wo z z z, fs 0 0 .wo z z z]⟩,
  -- KVM_OPRES
  ⟨0x0AC, [], .no, [fs 31 31 .ro z z z, fs 23 16 .ro z z kp, fs 15 8 .ro z z kp]⟩,
  -- KVM_QSEQ
  ⟨0x0B0, [], .no, [fs 31 0 .rw z z kp]⟩,
  -- KVM_QSEL
  ⟨0x0B4, [], .no, [fs 11 8 .rw z z kp, fs 6 0 .rw z z kp]⟩,
  -- KVM_QRES
  ⟨0x0B8, [], .no, [fs 31 31 .ro z z z, fs 30 28 .ro z z z, fs 27 18 .ro z z z, fs 17 10 .ro z z z]⟩,
  -- KVM_STAT
  ⟨0x0BC, [], .no, [fs 30 16 .ro z z kp, fs 12 0 .ro z z kp]⟩,
  -- KVM_MOVES
  ⟨0x0C0, [], .no, [fs 31 16 .ro z z kp, fs 15 0 .ro z z kp]⟩]

/-- Registers of page kind KVMW (13_attention_and_kv.md). -/
def specsKVMW : List RSpec := [
  -- KVM_LOAD
  ⟨0x800, [(4, 128)], .no, [fs 23 16 .ro z z kp, fs 15 0 .ro z z kp]⟩]

/-- Registers of page kind HERD (10_grid_network.md). -/
def specsHERD : List RSpec := [
  -- HERD_GEOM
  ⟨0x080, [], .no, [fo 29 24 .rwl z z kp, fo 21 16 .rwl z z kp, fo 12 8 .rwl z z kp, fo 4 0 .rwl z z kp]⟩,
  -- HERD_MODE
  ⟨0x084, [], .no, [fs 15 8 .rwl (.val 20) (.val 20) kp, fs 2 2 .rwl (.val 1) (.val 1) kp, fs 1 1 .rwl z z kp, fo 0 0 .rwl z z kp]⟩,
  -- HERD_SIZE
  ⟨0x088, [], .no, [fs 25 16 .ro z z z, fs 10 0 .ro z z z]⟩,
  -- HERD_RESET
  ⟨0x08C, [], .no, [fs 0 0 .wo z z z]⟩,
  -- HERD_RESIZE
  ⟨0x090, [], .no, [fs 31 31 .wo z z z, fs 29 24 .wo z z z, fs 21 16 .wo z z z]⟩,
  -- HERD_RSTAT
  ⟨0x094, [], .no, [fs 31 31 .ro z z z, fs 7 0 .ro z z kp]⟩,
  -- HERD_LEVEL
  ⟨0x098, [], .no, [fs 31 16 .ro z z kp, fs 15 0 .ro z z kp]⟩,
  -- HERD_DL
  ⟨0x09C, [], .no, [fs 31 16 .ro z z kp, fs 15 0 .ro z z kp]⟩,
  -- HERD_SHARE
  ⟨0x0A0, [(4, 12)], .no, [fs 23 16 .rwl z z kp, fs 15 8 .ro (.val 16) (.val 16) kp, fs 7 0 .rwl (.val 16) (.val 16) kp]⟩]

end Sys2Proof.Machine
end

