-- ==== Sys2Proof/Machine/Pages.lean ====
section
/-! DEFINITION. The BAR0 map (Table 2-6, Table 2-7): page bases, the page an offset lies in, and the constant header
values of a page (Table 2-7, 2-8, 2-9, R87). -/
namespace Sys2Proof.Machine

/-- The kinds of register page. -/
inductive Kind where
  | glb | mgs | thm | isl | brg | rlp | rtr | e2e | vpx | ven | tnz | hif | hq | kvm | herd
  | seq | oxa | goat | vec | strm | spad | bead | xlat | msg | kv | sense | dbg
  deriving DecidableEq, Repr

/-! ### Page bases (Table 2-6, Table 2-7) -/
abbrev glbP : Nat := 0
abbrev mgsP (f : Nat) : Nat := 0x10000 + f * 0x1000
abbrev thmP (i : Nat) : Nat := 0x90000 + i * 0x1000
abbrev islP (i : Nat) : Nat := 0xA0000 + i * 0x1000
abbrev brgP (n : Nat) : Nat := 0x100000 + n * 0x1000
abbrev rlpP (p : Nat) : Nat := 0x200000 + p * 0x1000
abbrev rtrP (j : Nat) : Nat := 0x210000 + j * 0x1000
abbrev e2eP (j : Nat) : Nat := 0x220000 + j * 0x1000
abbrev vpxP (v : Nat) : Nat := 0x300000 + v * 0x10000
abbrev venP (v : Nat) : Nat := 0x301000 + v * 0x10000
abbrev tnzP (v : Nat) : Nat := 0x302000 + v * 0x10000
abbrev hifP : Nat := 0x400000
abbrev hqP (n : Nat) : Nat := 0x410000 + n * 0x1000
abbrev kvmP (j : Nat) : Nat := 0x500000 + j * 0x1000
abbrev herdP (n : Nat) : Nat := 0x800000 + n * 0x1000
abbrev rodP (i : Nat) : Nat := 0x1000000 + i * 0x10000
abbrev seqP (i : Nat) : Nat := rodP i
abbrev oxaP (i : Nat) : Nat := rodP i + 0x1000
abbrev goatP (i : Nat) : Nat := rodP i + 0x2000
abbrev vecP (i : Nat) : Nat := rodP i + 0x3000
abbrev strmP (i : Nat) : Nat := rodP i + 0x4000
abbrev spadP (i : Nat) : Nat := rodP i + 0x5000
abbrev beadP (i : Nat) : Nat := rodP i + 0x6000
abbrev xlatP (i : Nat) : Nat := rodP i + 0x7000
abbrev msgP (i : Nat) : Nat := rodP i + 0x8000
abbrev kvP (i : Nat) : Nat := rodP i + 0x9000
abbrev senseP (i : Nat) : Nat := rodP i + 0xA000
abbrev dbgP (i : Nat) : Nat := rodP i + 0xB000

/-- The kind of page `k` of a rod (Table 2-7). -/
def rodKind (k : Nat) : Option Kind :=
  match k with
  | 0 => some .seq | 1 => some .oxa | 2 => some .goat | 3 => some .vec | 4 => some .strm | 5 => some .spad
  | 6 => some .bead | 7 => some .xlat | 8 => some .msg | 9 => some .kv | 10 => some .sense | 11 => some .dbg
  | _ => none

/-- The page that BAR0 offset `o` lies in: its kind and its instance (for a rod page, the rod index); none for a
reserved offset (R88). -/
def pageOf (o : Nat) : Option (Kind × Nat) :=
  let n := o / 0x1000
  if n = 0 then some (.glb, 0)
  else if n < 0x10 then none
  else if n < 0x90 then some (.mgs, n - 0x10)
  else if n < 0x92 then some (.thm, n - 0x90)
  else if n < 0xA0 then none
  else if n < 0xE0 then some (.isl, n - 0xA0)
  else if n < 0x100 then none
  else if n < 0x120 then some (.brg, n - 0x100)
  else if n < 0x200 then none
  else if n < 0x210 then some (.rlp, n - 0x200)
  else if n < 0x220 then some (.rtr, n - 0x210)
  else if n < 0x230 then some (.e2e, n - 0x220)
  else if n < 0x300 then none
  else if n < 0x340 then
    (match n % 0x10 with
     | 0 => some (.vpx, (n - 0x300) / 0x10)
     | 1 => some (.ven, (n - 0x300) / 0x10)
     | 2 => some (.tnz, (n - 0x300) / 0x10)
     | _ => none)
  else if n < 0x400 then none
  else if n = 0x400 then some (.hif, 0)
  else if n < 0x410 then none
  else if n < 0x490 then some (.hq, n - 0x410)
  else if n < 0x500 then none
  else if n < 0x510 then some (.kvm, n - 0x500)
  else if n < 0x800 then none
  else if n < 0x880 then some (.herd, n - 0x800)
  else if n < 0x1000 then none
  else if n < 0x5000 then (rodKind (n % 0x10)).map (fun k => (k, (n - 0x1000) / 0x10))
  else none

/-- A page of a rod (Table 2-7). -/
def Kind.isRod : Kind → Bool
  | .seq | .oxa | .goat | .vec | .strm | .spad | .bead | .xlat | .msg | .kv | .sense | .dbg => true
  | _ => false

/-- Block type codes (Table 2-9). -/
def Kind.code : Kind → Nat
  | .glb => 0x01 | .mgs => 0x02 | .thm => 0x03 | .isl => 0x04 | .seq => 0x10 | .oxa => 0x11 | .goat => 0x12
  | .vec => 0x13 | .strm => 0x14 | .spad => 0x15 | .bead => 0x16 | .xlat => 0x17 | .msg => 0x18 | .kv => 0x19
  | .sense => 0x1A | .dbg => 0x1B | .brg => 0x20 | .rlp => 0x21 | .rtr => 0x22 | .e2e => 0x23 | .hif => 0x28
  | .hq => 0x29 | .vpx => 0x30 | .ven => 0x31 | .tnz => 0x32 | .kvm => 0x38 | .herd => 0x40

/-- PG_CAP.LIFE_CTL of a page (Table 2-7, Table 2-8): KVM only on instance 0. -/
def lifeCtl (k : Kind) (inst : Nat) : Bool :=
  match k with
  | .seq | .strm | .brg | .rlp | .vpx | .hq | .herd => true
  | .kvm => inst = 0
  | _ => false

/-- PG_CAP.LICENSED: the blocks of FABRIC (ports, router, end to end) and VIDEO (pipes). -/
def licensed : Kind → Bool
  | .rlp | .rtr | .e2e | .vpx | .ven | .tnz => true
  | _ => false

/-- The licensed feature of a block: bit of GLB_LIC.FEATURES, 0 FABRIC, 1 VIDEO (Table 0-5). -/
def licBit : Kind → Option Nat
  | .rlp | .rtr | .e2e => some 0
  | .vpx | .ven | .tnz => some 1
  | _ => none

/-- PG_CAP.LOCKABLE, from each chapter's page section (a window page without RWL fields of its own reads 0). -/
def lockable (k : Kind) (inst : Nat) : Bool :=
  match k with
  | .oxa | .goat | .mgs | .vpx | .ven | .tnz | .sense | .hif => false
  | .rtr => inst < 4
  | .e2e | .kvm => inst = 0
  | _ => true

/-- PG_CAP.BLOCK, where a chapter gives it: OXA shape codes, STRM slot count. -/
def capBlock : Kind → Nat
  | .oxa => 0x1F
  | .strm => 8
  | _ => 0

/-- Frame of rod i (R22). -/
def rodX (i : Nat) : Nat := i % 32
/-- Row of rod i (R22). -/
def rodY (i : Nat) : Nat := i / 32
/-- Frame of rod i (R22). -/
def rodFrame (i : Nat) : Nat := rodX i / 16 + 2 * (rodY i / 16)
/-- Index of the rod at (x, y) (R22). -/
def rodAt (x y : Nat) : Nat := y * 32 + x
/-- Island of rod i (R84). -/
def rodIsland (i : Nat) : Nat := 16 * rodFrame i + ((rodY i % 16) / 4) * 4 + (rodX i % 16) / 4
/-- The sixteen rods of island j (R84). -/
def islandRods (j : Nat) : List Nat :=
  let f := j / 16
  let q := j % 16
  let x0 := 16 * (f % 2) + 4 * (q % 4)
  let y0 := 16 * (f / 2) + 4 * (q / 4)
  (List.range 16).map (fun t => rodAt (x0 + t % 4) (y0 + t / 4))

/-- PG_ID of a page (R87). -/
def coldId (k : Kind) (inst : Nat) : Nat :=
  let i := if k.isRod then (rodY inst % 16) * 16 + rodX inst % 16 else inst
  k.code * 0x1000000 + 0x010000 + i

/-- PG_CAP of a page at cold reset. -/
def coldCap (k : Kind) (inst : Nat) : Nat :=
  let fr := if k.isRod then rodFrame inst else 0
  let multi := match k with | .strm | .hq => 1 | _ => 0
  capBlock k * 0x10000 + fr * 0x100 + multi * 0x20 + (if licensed k then 0 else 8)
    + (if licensed k then 4 else 0) + (if lockable k inst then 2 else 0) + (if lifeCtl k inst then 1 else 0)

/-- PG_OWNER of a page at cold reset (Table 2-6): rod pages FREE; MGS mailbox and HQ pages owned by their herd; all
others global. -/
def coldOwner (k : Kind) (inst : Nat) : Nat :=
  if k.isRod then 0x100
  else match k with
    | .mgs | .hq => inst
    | _ => 0x80

/-- The register tables that describe a page. -/
def specsOf (k : Kind) (inst : Nat) : List RSpec :=
  match k with
  | .glb => specsGLB | .mgs => specsMGS | .thm => if inst = 0 then specsTHM0 else specsTHM1
  | .isl => specsISL | .brg => specsBRG | .rlp => specsRLP
  | .rtr => if inst = 0 then specsRTR else if inst = 1 then specsRTRW1 else if inst = 2 ∨ inst = 3 then specsRTRW2 else []
  | .e2e => if inst = 0 then specsE2E else if inst = 1 then specsE2EW else []
  | .vpx => specsVPX | .ven => specsVEN | .tnz => specsTNZ | .hif => specsHIF | .hq => specsHQ
  | .kvm => if inst = 0 then specsKVM else if inst < 9 then specsKVMW else []
  | .herd => specsHERD
  | .seq => specsSEQ | .oxa => specsOXA | .goat => specsGOAT | .vec => specsVEC | .strm => specsSTRM
  | .spad => specsSPAD | .bead => specsBEAD | .xlat => specsXLAT | .msg => specsMSG | .kv => specsKV
  | .sense => specsSENSE | .dbg => specsDBG

/-- Whether distance `d` from the base of an indexed register family names one of its registers. -/
def dimsHit : List (Nat × Nat) → Nat → Bool
  | [], d => d = 0
  | (st, c) :: t, d =>
    let i := if d / st < c then d / st else c - 1
    dimsHit t (d - i * st)

/-- The table entry of the register at offset `o` of a page. -/
def specAt (l : List RSpec) (o : Nat) : Option RSpec :=
  match l with
  | [] => none
  | r :: t => if decide (r.base ≤ o) && dimsHit r.dims (o - r.base) then some r else specAt t o

/-- The table entry of the register at BAR0 offset `a` (R36: the header first). -/
def regSpec (a : Nat) : Option RSpec :=
  match pageOf a with
  | none => none
  | some (k, inst) =>
    let o := a % 0x1000
    if o < 0x30 then specAt specsALL o else specAt (specsOf k inst) o

/-- A reset value as a number (kept counts as 0 where nothing was there before). -/
def Rst.num : Rst → Nat
  | .val n => n
  | .kept => 0

/-- Cold value of a register from its fields. -/
def coldOf (fl : List FSpec) : Nat := fl.foldl (fun a f => a + f.cold.num * 2 ^ f.lo) 0

/-- What the register at BAR0 offset `a` holds after cold reset: what an unlisted register reads as. -/
def coldReg (a : Nat) : Word :=
  match pageOf a with
  | none => 0
  | some (k, inst) =>
    let o := a % 0x1000
    if o = 0 then BitVec.ofNat 32 (coldId k inst)
    else if o = 4 then BitVec.ofNat 32 (coldCap k inst)
    else if o = 0x2C then BitVec.ofNat 32 (coldOwner k inst)
    else match regSpec a with
      | none => 0
      | some r => BitVec.ofNat 32 (coldOf r.fields)

end Sys2Proof.Machine
end

