-- ==== Sys2Proof/Config.lean ====
section
/-! DEFINITION. What the spec leaves open and an implementation fixes: the free values (opaque constants, of which nothing can be proved), the
device serial, and the constants of the firmware image and of identity that the spec names without giving their values. -/
namespace Sys2Proof

/-- The n-th free value: a value the spec leaves open (assumption log 1). A reader takes the bits it needs. -/
opaque Config.free : Nat → BitVec 64

/-- The device serial held in OTP (R15, R87): fixed per device, given nowhere. -/
opaque Config.serial : BitVec 64

/-- The magic word of a firmware image header (Table 16-9), which the spec does not give. -/
opaque Config.imageMagic : BitVec 32

/-- The SHA-384 digest of the boot ROM (Table 16-3), which the spec does not give. -/
opaque Config.romDigest : BitVec 384

/-- The device's PCI Vendor ID (R814), which the spec does not give. -/
opaque Config.vendorId : BitVec 16

/-- The 8-byte bridge header of a grid packet (R587), by its length, source, target and class: the spec says that it carries the length, and gives no
layout (assumption log 39). -/
opaque Config.brgHeader : Nat → Nat → Nat → Nat → BitVec 64

/-- DST of a flooded message (R634, R647), which the spec does not give. -/
opaque Config.floodDst : BitVec 18

end Sys2Proof
end

