-- ==== Sys2Proof/Machine/Assoc.lean ====
section
/-! DEFINITION. Sparse maps with natural-number keys as sorted lists: the one form in which State holds sparse data
(registers, memory cells, records kept per rod, per herd ...). -/
namespace Sys2Proof.Machine

/-- The value listed for key `k`. -/
def alGet {α : Type} : List (Nat × α) → Nat → Option α
  | [], _ => none
  | e :: t, k => if e.1 = k then some e.2 else alGet t k

/-- The value listed for key `k`, or `d`. -/
def alGetD {α : Type} (m : List (Nat × α)) (k : Nat) (d : α) : α := (alGet m k).getD d

/-- The list without key `k`. -/
def alErase {α : Type} (m : List (Nat × α)) (k : Nat) : List (Nat × α) := m.filter (fun e => e.1 != k)

/-- The sorted list with key `k` bound to `v`. -/
def alSet {α : Type} : List (Nat × α) → Nat → α → List (Nat × α)
  | [], k, v => [(k, v)]
  | e :: t, k, v =>
    if k < e.1 then (k, v) :: e :: t
    else if k = e.1 then (k, v) :: t
    else e :: alSet t k v

/-- Write `v` at `k` in a map whose unlisted keys read as `d`: a value equal to `d` is not listed (canonical form). -/
def alPut {α : Type} [DecidableEq α] (d : α) (m : List (Nat × α)) (k : Nat) (v : α) : List (Nat × α) :=
  if v = d then alErase m k else alSet m k v

/-- Keys strictly rising. -/
def alSorted {α : Type} : List (Nat × α) → Bool
  | [] => true
  | [_] => true
  | a :: b :: t => decide (a.1 < b.1) && alSorted (b :: t)

/-- A set of natural numbers as a strictly rising list: insert. -/
def nsInsert : List Nat → Nat → List Nat
  | [], k => [k]
  | a :: t, k => if k < a then k :: a :: t else if k = a then a :: t else a :: nsInsert t k

/-- A set of natural numbers: erase. -/
def nsErase (m : List Nat) (k : Nat) : List Nat := m.filter (fun a => a != k)

/-- Replace element `i` of a list. -/
def listSet {α : Type} : List α → Nat → α → List α
  | [], _, _ => []
  | _ :: t, 0, v => v :: t
  | a :: t, i + 1, v => a :: listSet t i v

/-- The numbers 0 to n - 1. -/
def upTo (n : Nat) : List Nat := List.range n

end Sys2Proof.Machine
end

