-- ==== Sys2Proof/Machine/State.lean ====
section
/-! DEFINITION. The state of the block as plain data: every register (sparse, by BAR0 offset), every FIFO, buffer,
table, counter, mode and pin the spec gives the Z1024, and the queue of waiting commands; the state after reset;
and the two reason types of a stop. -/
namespace Sys2Proof.Machine

/-- Reasons a step stops with a fault. No meaning of this model raises one: every command of the table has an effect
in every state. `noEffect` stands so that the type has a value; nothing answers with it. -/
inductive Fault where
  /-- Raised by nobody (safe). -/
  | noEffect
  deriving DecidableEq, Repr

/-- Reasons a step refuses a command. -/
inductive Refusal where
  /-- The command has no meaning in this model yet (safe): raised by a refused arm of `exec` only. -/
  | notModelled (mnemonic : String)
  deriving DecidableEq, Repr

/-- What a request to host memory carries: a PASID (R472, R794), Relaxed Ordering and No Snoop (Table 9-2). -/
structure HostTag where
  pasid : Option Nat
  rlx : Bool
  ns : Bool
  deriving DecidableEq, Repr

/-- A request without any of these, as rings use (R773, R486). -/
def HostTag.plain : HostTag := ⟨none, false, false⟩

/-- What the device sends to the world outside it, in the order it sends it. -/
inductive Out where
  /-- An MSI-X message of function `fn`, vector `vec` (R52, R785). -/
  | msix (fn vec : Nat)
  /-- A memory write to the host; `ep` lists the offsets of the 64-byte blocks sent with EP set (R905). -/
  | hostWrite (fn addr : Nat) (data : List Byte) (ep : List Nat) (tag : HostTag)
  /-- A memory read request to the host. -/
  | hostRead (fn addr len : Nat) (tag : HostTag)
  /-- The completion of a BAR0 read (R103) or BAR2 read (R790, R792) of function `fn`; `ep` as for `hostWrite`. -/
  | readData (fn : Nat) (data : List Byte) (ep : List Nat)
  /-- The completion of a configuration request: 0 normal, 1 RRS (R933), 2 Unsupported Request. -/
  | config (fn kind val : Nat)
  /-- An ATS or PRI message to the host: kind 0 translation request, 1 page request, 2 invalidation completion. -/
  | ats (fn kind va : Nat)
  /-- A message to an agent over MCTP (1 host VDM, 2 I3C), with its bytes (R814). -/
  | mctp (port : Nat) (data : List Byte)
  /-- A PLDM event or an alert towards the BMC (R830, R899): its class and code. -/
  | bmc (kind code : Nat)
  /-- A flit sent on bridge link `n`, direction `d`: its 72 bytes (R586). -/
  | brgFlit (n d : Nat) (flit : List Byte)
  /-- A flit sent on RL port `p`: its 256 bytes (R630). -/
  | rlFlit (p : Nat) (flit : List Byte)
  /-- A codeword sent on a lane of RL port `p`: its 544 symbols (R628). -/
  | rlCodeword (p lane : Nat) (cw : List (BitVec 10))
  /-- A fabric control message of opcode `op` that no port of this device's tables carries: `dest` 16 is this device itself, 17 a device without a node
  ID, by a relay's source route (R648). -/
  | rlMsg (dest op : Nat) (f : List Nat)
  /-- A grid packet sent from a rod or hub position: class, source, target, fields. -/
  | grid (cls src dst : Nat) (f : List Nat)
  /-- Bits shifted out at TDO (chapter 22). -/
  | tdo (bits : List Bool)
  /-- An AER report of a function: 1 Uncorrectable Internal Error, 2 Poisoned TLP, 3 Completion Timeout, 4 a correctable error. -/
  | aer (fn kind : Nat)
  deriving DecidableEq, Repr

/-- What a life cycle keeps beside its state register (R62, R65, R66). -/
structure LifeX where
  /-- Drain deadline as package time in ns; none: no deadline (R67). -/
  deadline : Option Nat
  /-- Tag of the DRAIN whose deadline is in force (R62). -/
  dtag : Nat
  /-- A start has been aborted and runs to its next safe point (R66). -/
  aborting : Bool
  deriving DecidableEq, Repr

/-- One MSI-X table entry (R82, R785). -/
structure Msix where
  addr : Nat
  data : Nat
  masked : Bool
  pend : Bool
  deriving DecidableEq, Repr

/-- The PCIe state of a function (R809, R811, R1021, R801, R1020). -/
structure Fn where
  mse : Bool
  bme : Bool
  d3 : Bool
  msixEn : Bool
  msixMask : Bool
  /-- Completion Timeout Value and Disable of Device Control 2. -/
  ctoVal : Nat
  ctoDis : Bool
  atsEn : Bool
  priEn : Bool
  /-- BAR2 size in effect and the size stored in the Resizable BAR control, log2 (R801). -/
  bar2 : Nat
  bar2Stored : Nat
  /-- PRI stopped by a Response Failure (R796). -/
  priStopped : Bool
  deriving DecidableEq, Repr

/-- PCIe state of a function at reset: disabled, in D0. -/
def Fn.reset (pf : Bool) : Fn where
  mse := false
  bme := false
  d3 := false
  msixEn := false
  msixMask := false
  ctoVal := 0
  ctoDis := false
  atsEn := false
  priEn := false
  bar2 := if pf then 30 else 28
  bar2Stored := if pf then 30 else 28
  priStopped := false

/-- A tally record (Table 16-7); the CRC is formed when it is read out. -/
structure TRec where
  seq : Nat
  boot : Nat
  time : Nat
  kind : Nat
  src : Nat
  code : Nat
  page : Nat
  info : Nat
  data : List Byte
  deriving DecidableEq, Repr

/-- A logical sector of the tally area (R827): the physical sector it lies in, its erase generation, its records. -/
structure TSect where
  phys : Nat
  gen : Nat
  recs : List TRec
  deriving DecidableEq, Repr

/-- A firmware slot of the flash (Table 16-8, Table 16-9). -/
structure Slot where
  valid : Bool
  hdr : List Byte
  body : List Host.Cell
  deriving DecidableEq, Repr

/-- The one firmware update session (R836, R837). -/
structure Session where
  id : Nat
  /-- Agent that holds it: function number, 128 host MCTP, 129 BMC. -/
  agent : Nat
  slot : Nat
  /-- Image header, and body bytes written so far, by offset. -/
  hdr : List Byte
  written : List Host.Cell
  verified : Bool
  /-- PLDM: opened by RequestUpdate; UpdateComponent has been accepted, and the image's length (R818). -/
  pldm : Bool
  transferring : Option Nat
  /-- Package time of its last command. -/
  last : Nat
  deriving DecidableEq, Repr

/-- The licence record in flash (Table 16-11): its bytes, and whether its signature is good. -/
structure Lic where
  issue : Nat
  features : Nat
  serial : Nat
  sigOk : Bool
  bytes : List Byte
  deriving DecidableEq, Repr

/-- An entry of the defect map (DEFECT_READ, Table 16-5). -/
structure Defect where
  kind : Nat
  loc : Nat
  boot : Nat
  /-- Physical row of a retired bead page: 0 its own, k + 1 spare k. DEFECT_READ does not show it (R399; assumption log 154). -/
  row : Nat
  deriving DecidableEq, Repr

/-- A mailbox or MCTP request that MGS holds (R820, R821). -/
structure MbReq where
  /-- Agent: function number 0-127, 128 host MCTP, 129 BMC. -/
  agent : Nat
  op : Nat
  tag : Nat
  len : Nat
  data : List Byte
  deriving DecidableEq, Repr

/-- The management subsystem beside its registers. -/
structure Mgs where
  /-- Last SEQ assigned and boot count (R825). -/
  seq : Nat
  boot : Nat
  /-- RAM ring, newest last (R1023), and records not yet written to their tier. -/
  ring : List TRec
  pend : List TRec
  /-- Tally area by logical sector, the sector being filled, next unused spare (R827, R828). -/
  sects : List (Nat × TSect)
  cur : Nat
  spareNext : Nat
  /-- Reserve tally; whether a write to it has failed in this MGS boot (R831, R832). -/
  reserve : List TRec
  rsvFailed : Bool
  /-- (BOOT, SEQ) of the switch record (R830, R831). -/
  switchRec : Option (Nat × Nat)
  /-- Flash unusable, its cause, consecutive xSPI timeouts (R829). -/
  flashBad : Bool
  flashCause : Nat
  xspiRun : Nat
  /-- Notifications held while MGS restarts, and the overflow mark (Table 16-10). -/
  fifo : List TRec
  fifoOvf : Bool
  /-- Requests that mailboxes and MCTP channels hold, oldest first. -/
  queue : List MbReq
  /-- Agent that MGS served last (R821). -/
  rr : Nat
  session : Option Session
  slotA : Slot
  slotB : Slot
  /-- Boot record: active slot (0 A, 1 B), and the slot on trial. -/
  active : Nat
  trial : Option Nat
  /-- The trial slot has been started (R839, R995). -/
  trialRun : Bool
  /-- Package times at which MGS was last started, and at which it reached RUN (R839). -/
  startAt : Nat
  runAt : Nat
  otpSvn : Nat
  otpBad : Bool
  /-- The stored licence record, and the one in force (R841, R842). -/
  licence : Option Lic
  licForce : Option Lic
  /-- Whether the licence stage of this bring-up has run (R842, R949). -/
  licStage : Bool
  cfgProfile : Option Nat
  cfgDesc : Option (List Byte)
  cfgElect : Option Nat
  /-- Fabric plan: serial and node ID (R823). -/
  plan : List (Nat × Nat)
  defects : List Defect
  /-- MCTP endpoint IDs by port (1 PCIe VDM, 2 I3C), PLDM terminus ID, event receiver, PLDM update state (R814, R816). -/
  eid : List (Nat × Nat)
  tid : Nat
  evtRecv : Option Nat
  updState : Nat
  /-- Events waiting to be polled by the BMC (R970). -/
  events : List (Nat × Nat)
  /-- Dynamic I3C address; none: I2C mode (R975). -/
  i3c : Option Nat
  /-- PWR_WARN_N is low: flash writes are held (R981). -/
  noFlash : Bool
  deriving DecidableEq, Repr

/-- An empty firmware slot. -/
def Slot.empty : Slot := ⟨false, [], []⟩

/-- MGS at cold reset: nothing stored, log empty. -/
def Mgs.reset : Mgs where
  seq := 0
  boot := 0
  ring := []
  pend := []
  sects := []
  cur := 0
  spareNext := 0
  reserve := []
  rsvFailed := false
  switchRec := none
  flashBad := false
  flashCause := 0
  xspiRun := 0
  fifo := []
  fifoOvf := false
  queue := []
  rr := 0
  session := none
  slotA := .empty
  slotB := .empty
  active := 0
  trial := none
  trialRun := false
  startAt := 0
  runAt := 0
  otpSvn := 0
  otpBad := false
  licence := none
  licForce := none
  licStage := false
  cfgProfile := none
  cfgDesc := none
  cfgElect := none
  plan := []
  defects := []
  eid := []
  tid := 0
  evtRecv := none
  updState := 0
  events := []
  i3c := none
  noFlash := false

/-- A scalar register: value and poison flag (R179). -/
structure SReg where
  v : DWord
  p : Bool
  deriving DecidableEq, Repr

/-- A command captured at issue (R167): its word, PC, issue number, and the S operands it reads. -/
structure QCmd where
  word : CmdWord
  pc : Nat
  num : Nat
  skip : Bool
  sa : SReg
  sb : SReg
  sc : SReg
  deriving DecidableEq, Repr

/-- A started command that has not completed (R170). `done` marks that its work is over; `status` and `res` are what
its completion writes; `blocked` marks a program wait that is blocked (R203), `since` when it blocked, `block` the
number of that wait (R554), `limit` its watchdog in µs (R205), `probeAt` when its next probe is due after the one it last sent (R558), and `fab`
when it blocked as fabric time (R668). -/
structure Started where
  cmd : QCmd
  done : Bool
  status : Nat
  /-- Value for S[D] or P[D] at completion, with its poison mark. -/
  res : SReg
  blocked : Bool
  since : Nat
  block : Nat
  limit : Nat
  probeAt : Nat
  fab : Nat
  /-- Numbers of the unit's own (message phase, target, stream slot ...), laid out where the unit starts the command. -/
  aux : List Nat
  deriving DecidableEq, Repr

/-- The sequencer and its queues (chapter 4). -/
structure SeqSt where
  s : List SReg
  l : List Word
  p : List Bool
  tok : List Nat
  /-- Queues of units 1-7. -/
  queues : List (List QCmd)
  started : List Started
  /-- Pending S and P destinations (R180). -/
  pendS : List Nat
  pendP : List Nat
  /-- Issue number of the next command. -/
  num : Nat
  /-- A step request (R232); a pause already taken at this PC. -/
  stepReq : Bool
  bpTaken : Bool
  /-- Next block ID of a blocked wait (R554), 16 bits. -/
  blockNum : Nat
  /-- The command that issue is stalled at, and since when nothing has moved there (R207). -/
  stall : Option (CmdWord × Nat)
  /-- The stream slot that is first in turn for a free request slot (R415). -/
  turn : Nat
  deriving DecidableEq, Repr

/-- Sequencer state at the end of STARTING (R230) and at cold reset. -/
def SeqSt.reset : SeqSt where
  s := List.replicate 32 ⟨0, false⟩
  l := List.replicate 8 0
  p := List.replicate 8 false
  tok := List.replicate 64 0
  queues := List.replicate 7 []
  started := []
  pendS := []
  pendP := []
  num := 0
  stepReq := false
  bpTaken := false
  blockNum := 0
  stall := none
  turn := 0

/-- A complete item of a framed queue (R438, R439): its producer, header word, payload bytes and the payload offsets that
are poisoned; for a message channel, the ring granule where it begins (R548). -/
structure FItem where
  prod : Nat
  hdr : Nat
  body : List Byte
  bad : List Nat
  gran : Nat
  deriving DecidableEq, Repr

/-- A partly assembled item of one producer (R439): header, bytes so far, words still to come, and whether the rest is to be
dropped (R441 step 2). -/
structure FPart where
  prod : Nat
  hdr : Nat
  body : List Byte
  bad : List Nat
  left : Nat
  drop : Bool
  deriving DecidableEq, Repr

/-- A framed queue: complete items oldest first, partial items, producers with a flush note (R441, R442), producers whose
words are dropped until a valid header (R440), and the next ring granule (R548). -/
structure FQueue where
  items : List FItem
  parts : List FPart
  notes : List Nat
  resync : List Nat
  tail : Nat
  deriving DecidableEq, Repr

/-- An empty framed queue. -/
def FQueue.empty : FQueue := ⟨[], [], [], [], 0⟩

/-- Who sends a message item: a rod's MSEND (rod, issue number), or a hub item (identifier). -/
inductive Sender where
  | rod (i num : Nat)
  | hub (id : Nat)
  deriving DecidableEq, Repr

/-- A queued reservation (R549, R550). -/
structure Resv where
  src : Sender
  ch : Nat
  gran : Nat
  deriving DecidableEq, Repr

/-- An item the hub sends to a rod (host delivery, fault record, pager answer, an MSG from another device): where to, the header
bits beside LEN (Table 10-6), its payload, its phase (0 reservation sent, 1 queued, 2 refused, 3 granted, 4 answered), its answer,
whom the answer is for: nobody, a duplicate-table entry (source node, tag), or a queue entry (key), and the time of its phase. -/
structure HubItem where
  id : Nat
  rod : Nat
  ch : Nat
  hdr : Nat
  body : List Byte
  bad : List Nat
  phase : Nat
  answer : Nat
  dup : Option (Nat × Nat)
  entry : Option Nat
  since : Nat
  deriving DecidableEq, Repr

/-- Item words on their way from a producer to a framed queue, oldest first; each word with its poison mask. -/
structure Flight where
  q : Nat
  prod : Nat
  src : Sender
  words : List (Nat × Nat)
  deriving DecidableEq, Repr

/-- A probe, or with `conf` a confirmation, on its way to a rod (R558, R559): the initiating wait (node, rod, unit, issue number,
start time in package and in fabric time, block ID), the rod it goes to, the waits that forwarded it (node, rod, issue number, block ID) oldest first, and for a
confirmation how many of them it has passed. -/
structure Probe where
  conf : Bool
  node : Nat
  rod : Nat
  unit : Nat
  num : Nat
  start : Nat
  fab : Nat
  block : Nat
  dest : Nat
  passed : Nat
  path : List (Nat × Nat × Nat × Nat)
  deriving DecidableEq, Repr

/-- A weight buffer of the Ox array (R241): element codes by k × N + n, scale codes by block × N + n, the columns that carry
poison, and whether it was ever loaded. Its shape, format and transposition stand in OXA_ABUF and OXA_SBUF. -/
structure OxBuf where
  cells : List Nat
  scales : List Nat
  badCols : List Nat
  deriving DecidableEq, Repr

/-- The two weight buffers of a rod. -/
structure OxSt where
  active : OxBuf
  shadow : OxBuf
  deriving DecidableEq, Repr

/-- A weight buffer of zeros (R281). -/
def OxBuf.empty : OxBuf := ⟨[], [], []⟩

/-- The Goat path's work on a bound stream: the bytes of the current block that have been consumed and those among them that
are poisoned, the block and row of the next chunk to be added, the chunks consumed so far, whether bytes came past the last
block, whether a poisoned entry was written, and the vector chunk buffer (R262, R281): the codes of the current block's chunk of each vector, and
whether it is poisoned. -/
structure GoatSt where
  num : Nat
  slot : Nat
  blk : List Byte
  bad : List Nat
  block : Nat
  row : Nat
  chunks : Nat
  long : Bool
  pois : Bool
  vec : List (List Nat × Bool)
  deriving DecidableEq, Repr

/-- A page in a bead cache (R363): its number, dirty sectors, spare-dirty mark, and the class it was decoded at. -/
structure CPage where
  q : Nat
  dirty : List Nat
  spare : Bool
  cls : Nat
  deriving DecidableEq, Repr

/-- The bead column of a rod beside its data (chapter 7). -/
structure BeadSt where
  /-- Cached pages, least recently used first. -/
  cache : List CPage
  /-- Wrong symbols of stored pages, by page: symbol numbers as `decodeErrs` takes them. -/
  errs : List (Nat × List Nat)
  /-- Pages whose stored class header has no valid majority, and pages whose stored metadata name another page or rod (R360). -/
  badHdr : List Nat
  badMeta : List Nat
  /-- Stored class of pages that a region's class, or its old class during a sweep, does not give (R369, R377). -/
  hdr : List (Nat × Nat)
  /-- Page requests that wait for fills, in order of their arrival (R362, R364). -/
  waits : List Nat
  /-- Retired pages and their spares (R350, R381), lost pages (R383), suspect pages oldest first, each with whether its
  corrections have been written back (R380). -/
  remap : List (Nat × Nat)
  lost : List Nat
  suspects : List (Nat × Bool)
  /-- Spares that failed their march or that a page retired again has left (R399): 128 x channel + spare. -/
  badSpare : List Nat
  /-- Old class of a region under a recode sweep. -/
  sweepOld : List (Nat × Nat)
  /-- Corrected symbols of a region in this window, regions that changed class in it, and the time since which a region has met
  the conditions of R375. -/
  asCount : List (Nat × Nat)
  asChanged : List Nat
  asSince : List (Nat × Nat)
  /-- When the column was last zero-filled, when the window began (R374), when the scrub last read a page (R378), and when each channel last
  began a page transfer (R863). -/
  zeroAt : Nat
  asWin : Nat
  scrubAt : Nat
  xfer : List (Nat × Nat)
  /-- Channels that are down (R398), with the CAL_FAILs in a row of each channel. -/
  down : List Nat
  calFails : List (Nat × Nat)
  /-- The zero-fill of R395 runs. -/
  zeroing : Bool
  deriving DecidableEq, Repr

/-- A bead column after a zero-fill, nothing retired. -/
def BeadSt.empty : BeadSt where
  cache := []
  errs := []
  badHdr := []
  badMeta := []
  hdr := []
  waits := []
  remap := []
  lost := []
  suspects := []
  badSpare := []
  sweepOld := []
  asCount := []
  asChanged := []
  asSince := []
  zeroAt := 0
  asWin := 0
  scrubAt := 0
  xfer := []
  down := []
  calFails := []
  zeroing := false

/-- Who waits for a page request: a stream slot of a rod, its SRUN's issue number, with the stream offset of the request's first byte; or nobody
any more, the slot and number being those of the stream that issued it (R428). -/
inductive Client where
  | stream (i slot num off : Nat)
  | orphan (i slot num : Nat)
  deriving DecidableEq, Repr

/-- Where a translated access goes (R462). -/
inductive Target where
  | bead (i a : Nat)
  | host (addr : Nat) (rlx ns : Bool)
  | peer (gaddr : Nat)
  deriving DecidableEq, Repr

/-- A page request (R414): its number, requester, virtual address, length, direction, bytes carried or returned with the
offsets that are poisoned, phase (0 waits for a walk, 1 on its way, 2 waits for a fill, 3 answered, 4 waits for ATS, 5 keeps its slot while its stream holds the data it returned), target,
status, and when it was sent. -/
structure PReq where
  id : Nat
  client : Client
  rod : Nat
  va : Nat
  len : Nat
  write : Bool
  data : List Byte
  bad : List Nat
  phase : Nat
  target : Option Target
  status : Nat
  sent : Nat
  deriving DecidableEq, Repr

/-- A stream in a slot (chapter 8). Offsets count bytes in stream order. -/
structure Str where
  /-- Issue number of its SRUN, address of its descriptor, and the descriptor's words. -/
  num : Nat
  desc : Nat
  ctl : Nat
  src : Nat
  snk : Nat
  dims : List (Nat × Nat)
  /-- Block list entries read so far (address, length), index of the first of them, and the stream offset where it begins. -/
  ents : List (Nat × Nat)
  ent0 : Nat
  base0 : Nat
  /-- The position (R420), the next byte to read, the next byte to write to a VIRT sink. -/
  pos : Nat
  nxt : Nat
  wnxt : Nat
  /-- Credits held, tiles that have taken theirs, the next tile to signal. -/
  cred : Nat
  taken : Nat
  sig : Nat
  /-- Data read and not yet delivered: offset, bytes, poisoned offsets in them. -/
  hold : List (Nat × List Byte × List Nat)
  /-- Delivered intervals past the position: offset, length. -/
  got : List (Nat × Nat)
  pois : Bool
  /-- Halted: offset of the earliest byte that faulted (R431). -/
  halt : Option Nat
  /-- 64 KiB VA pages that must be completed before it resumes. -/
  haltPages : List Nat
  /-- The status with which it is about to end. -/
  fin : Option Nat
  /-- A GMV has bound it (R263). -/
  bound : Bool
  /-- The status with which it ends once it stands at the list entry after those read (R445). -/
  listEnd : Option Nat
  /-- Stream offsets of poisoned bytes that have come and are not delivered yet (R424). -/
  bads : List Nat
  deriving DecidableEq, Repr

/-- A cached translation entry (R475): level, index of its VA range at that level, the entry. -/
structure TlbE where
  level : Nat
  idx : Nat
  entry : Nat
  deriving DecidableEq, Repr

/-- An open fault (R483, R484). `sent` marks that its record has left the rod. -/
structure XFault where
  fid : Nat
  page : Nat
  va : Nat
  write : Bool
  cause : Nat
  level : Nat
  piece : Nat
  entry : Nat
  time : Nat
  sent : Bool
  deriving DecidableEq, Repr

/-- A rod's XLAT unit: cached leaves and pointers, least recently used first, open faults, the next fault ID, and the bead frames of the tier map that
it has used in this window (R495). -/
structure XlatSt where
  leaf3 : List TlbE
  leaf2 : List TlbE
  ptrs : List TlbE
  faults : List XFault
  fid : Nat
  acc : List Nat
  deriving DecidableEq, Repr

/-- An XLAT unit with empty caches and no fault. -/
def XlatSt.empty : XlatSt := ⟨[], [], [], [], 0, []⟩

/-- An invalidation (R479): the page that asked, its range, its tag, and for an INVALIDATE item its header and the channel to answer. -/
structure Inval where
  rod : Nat
  all : Bool
  va : Nat
  count : Nat
  tag : Nat
  reply : Option (Nat × Nat)
  deriving DecidableEq, Repr

/-- A migration of the tier engine (R497): leaf address and value, the VA page, old and new frames, direction (true promotes),
its step (1 invalidating, 3 copying), and the frames' numbers in the tier map. -/
structure Mig where
  leafAt : Nat
  leafHost : Bool
  leaf : Nat
  page : Nat
  promote : Bool
  oldF : Nat
  newF : Nat
  step : Nat
  deriving DecidableEq, Repr

/-- What the hub keeps of a herd's translation: the invalidation in progress and those waiting, the hot table with counts, the migration in
progress, the frames still to be promoted in this window and those that may be demoted for them, in order, the migrations left in the window, and
when the window began (R496). -/
structure HerdX where
  inv : Option Inval
  waiting : List Inval
  hot : List (Nat × Nat)
  mig : Option Mig
  plan : List Nat
  cold : List Nat
  left : Nat
  winAt : Nat
  deriving DecidableEq, Repr

/-- Nothing in progress. -/
def HerdX.empty : HerdX := ⟨none, [], [], none, [], [], 0, 0⟩

/-- A sequenced flit that no ACK covers yet (R590): sequence, VC (8 for a control flit), the group that a bridge link carries it for, the
link on which it was first sent and its sequence there (R596), the herd whose packet it carries (128: none), whether a packet header starts
it, its payload, and the control operation's content. -/
structure Unacked where
  seq : Nat
  vc : Nat
  home : Nat
  orig : Nat
  hseq : Nat
  herd : Nat
  head : Bool
  pay : List Byte
  ctl : List Nat
  deriving DecidableEq, Repr

/-- One direction of a bridge link, or the two ends that an RL port has here (R589-R592, R631, R633): next sequence to send, replay
buffer oldest first, resends of its oldest flit without progress; next sequence expected, whether a NAK has been sent for this run
of dropped flits; per VC the flits sent and not yet freed, the cumulative flits freed at the receiver, as last returned, and as last
heard at the sender; at a bridge receiver the CARRY run in force (home link, next home sequence, flits left); control flits that wait
for room in the replay buffer, and flits of moved groups that wait for it and for credits (R590, R598). -/
structure LinkDir where
  txNext : Nat
  replay : List Unacked
  resent : Nat
  rxNext : Nat
  naking : Bool
  used : List Nat
  freed : List Nat
  told : List Nat
  got : List Nat
  run : Option (Nat × Nat × Nat)
  ctl : List (List Nat)
  held : List Unacked
  deriving DecidableEq, Repr

/-- A link direction after training: nothing sent or received. -/
def LinkDir.fresh : LinkDir := ⟨0, [], 0, 0, false, List.replicate 8 0, List.replicate 8 0, List.replicate 8 0, List.replicate 8 0, none, [], []⟩

/-- When things began on a link direction or an RL port, as package time: the wait of the oldest unacknowledged flit since the last ACK progress or
resend (R590, R633), and per VC its wait without credit (0: it has some). -/
structure LinkT where
  since : Nat
  dry : List Nat
  deriving DecidableEq, Repr

/-- Nothing waits. -/
def LinkT.rest : LinkT := ⟨0, List.replicate 8 0⟩

/-- A packet on RL (Table 12-4): the port it came in by (16: it begins here), its header and the bytes after it. -/
structure Pkt where
  inp : Nat
  dst : Nat
  src : Nat
  hops : Nat
  age : Nat
  cls : Nat
  esc : Bool
  flood : Bool
  sr : Bool
  body : List Byte
  deriving DecidableEq, Repr

/-- A manager key (R649): HOST, PRI, serial. -/
structure MgrKey where
  host : Nat
  pri : Nat
  serial : Nat
  deriving DecidableEq, Repr

/-- A device that the fabric manager here knows (R651, FM_NODES): serial, node ID if any, epoch, the request it has not yet answered with its
sequence number and time (0 none, else the opcode of Table 12-7), the ROUTE_WRITEs of its join that are not acknowledged (node, table, first index, entries), when the request was first and last sent, whether its JOIN is announced, and its carrying
links (own port, partner's serial and port). -/
structure FmNode where
  serial : Nat
  node : Option Nat
  epoch : Nat
  asked : Nat
  seq : Nat
  since : Nat
  owed : List (Nat × List Nat)
  joined : Bool
  links : List (Nat × Nat × Nat)
  sent : Nat
  deriving DecidableEq, Repr

/-- What an RL port keeps beside its page: it drains (R643); the error code with which it goes down after that, 0 for none, and the
lane; when the drain began, when its last HELLO went out (R648), whether a
WIDTH_MAX written during a retrain still applies (R677), per lane the count of the last codeword that the FEC could not correct (R628), and of what
it sends the bytes of the flit stream that are not yet in a block, and the number of the next block (R629). -/
structure RlpX where
  draining : Bool
  down : Nat
  lane : Nat
  since : Nat
  hello : Nat
  maxDue : Bool
  cw : List (Nat × Nat)
  tx : List Byte
  blk : Nat
  deriving DecidableEq, Repr

/-- A port at rest. -/
def RlpX.rest : RlpX := ⟨false, 0, 0, 0, 0, false, [], [], 0⟩

/-- The router's discovery state (R647-R654): flooded messages seen (serial, sequence), own message sequence, the best key known, when the
own CLAIM was sent, when the last HEARTBEAT came, host manager here, fabric time offset, devices known to the manager here, and
epochs last announced by node ID. -/
structure RtrSt where
  seen : List (Nat × Nat)
  seq : Nat
  best : Option MgrKey
  claimed : Option Nat
  beat : Option Nat
  hostHere : Bool
  offset : Nat
  nodes : List FmNode
  epochs : List (Nat × Nat)
  deriving DecidableEq, Repr

/-- Who issued an end-to-end transaction: a page request, an item of a rod's MSEND or stream (rod, issue number), a step of a KRING (rod,
issue number, step), or nobody any more, of rod i (R679). -/
inductive Issuer where
  | req (id : Nat)
  | send (i num : Nat)
  | ring (i num step : Nat)
  | gone (i : Nat)
  deriving DecidableEq, Repr

/-- An end-to-end transaction (R655-R660): tag, use, operation, class, target node, words and payload of its request, package time of
attempt 0, attempts sent, time of the last PENDING, and its issuer. -/
structure Txn where
  tag : Nat
  use : Nat
  op : Nat
  cls : Nat
  node : Nat
  addr : Nat
  rlen : Nat
  aop : Nat
  data : List Byte
  bad : List Nat
  start : Nat
  sent : Nat
  pend : Option Nat
  who : Issuer
  deriving DecidableEq, Repr

/-- An entry of the duplicate table (R661): key, epoch, use, class and word 1 of its request, arrival or outcome time, the outcome with
its data once done, and whether its outcome is not to be sent (R662). -/
structure Dup where
  src : Nat
  tag : Nat
  epoch : Nat
  use : Nat
  op : Nat
  cls : Nat
  w1 : Nat
  time : Nat
  done : Option (Nat × List Byte)
  mute : Bool
  deriving DecidableEq, Repr

/-- The E2E engine: next tag, last use count and start time by tag, transactions under way, those that wait for a tag or their turn, the
duplicate table, requests and responses that have arrived and wait to be handled, when its quiet time began, and whether the device's
own ANNOUNCE has come (Table 12-8 step 7). -/
structure E2eSt where
  next : Nat
  uses : List (Nat × Nat)
  starts : List (Nat × Nat)
  live : List Txn
  wait : List Txn
  dups : List Dup
  arrived : List Pkt
  since : Nat
  announced : Bool
  deriving DecidableEq, Repr
/-- Failed parity groups of a physical lane of one direction (R585): they count in its 1 ms window until package time `endMs` and in its 1 s window
until `endS`. -/
structure LaneFails where
  dir : Nat
  lane : Nat
  endMs : Nat
  endS : Nat
  count : Nat
  deriving DecidableEq, Repr

/-- What a bridge link keeps beside its page: swaps under way (direction, failing lane, spare, whether the SWAP has been sent), what its
retrain or drain is for (0 plain, 1 degrade, 2 requested width, 3 retire), the width it goes to, the lane and direction that caused
it, whether it drains (R601) and since when; by direction the bits that each lane has carried since its last parity bit, and the lanes whose
parity group holds an odd number of wrong bits so far (R584); receivers that have lost symbol lock, and the groups that failed (R585). -/
structure BrgX where
  swaps : List (Nat × Nat × Nat × Bool)
  why : Nat
  target : Nat
  lane : Nat
  dir : Nat
  draining : Bool
  since : Nat
  laneAt : List Nat
  odd : List (Nat × Nat)
  lost : List (Nat × Nat)
  fails : List LaneFails
  deriving DecidableEq, Repr

/-- A bridge link at rest. -/
def BrgX.rest : BrgX := ⟨[], 0, 0, 31, 0, false, 0, [0, 0], [], [], []⟩

/-- A handle (Table 13-3) with the marks the KV unit keeps beside it: SCORE_PARTIAL of its last KATTN (R699), frozen by a move (Table
13-8), closing (R721), and the package time at which it moved (R709). -/
structure KvH where
  st : Nat
  evict : Bool
  kf : Nat
  dh : Nat
  sink : Nat
  recent : Nat
  decay : Nat
  seqid : Nat
  head : Nat
  budget : Nat
  qscale : Nat
  win : Nat
  len : Nat
  nblk : Nat
  hslot : Nat
  tslot : Nat
  nextLbn : Nat
  lastSeg : Nat
  lastPos : Nat
  fwdRod : Nat
  fwdH : Nat
  evicted : Nat
  part : Bool
  frozen : Bool
  closing : Bool
  movedAt : Nat
  deriving DecidableEq, Repr

/-- A free handle. -/
def KvH.free : KvH where
  st := 0
  evict := false
  kf := 0
  dh := 0
  sink := 0
  recent := 0
  decay := 0
  seqid := 0
  head := 0
  budget := 0
  qscale := 0
  win := 0
  len := 0
  nblk := 0
  hslot := 0
  tslot := 0
  nextLbn := 0
  lastSeg := 0
  lastPos := 0
  fwdRod := 0
  fwdH := 0
  evicted := 0
  part := false
  frozen := false
  closing := false
  movedAt := 0

/-- A rod's KV unit: its handles that are not free, by number, and the pool slots in use. -/
structure KvSt where
  hs : List (Nat × KvH)
  used : List Nat
  deriving DecidableEq, Repr

/-- A pair's record: head, rod, handle, and STATE as KVM_QRES shows it (1 open, 2 moving, 4 lost). -/
structure KvPair where
  head : Nat
  rod : Nat
  h : Nat
  st : Nat
  deriving DecidableEq, Repr

/-- A sequence (R704). -/
structure KvSeq where
  herd : Nat
  seqid : Nat
  pin : Bool
  pairs : List KvPair
  deriving DecidableEq, Repr

/-- A move (Table 13-8): its pair, source and target, when step 1 was, and whether it is a MOVE operation's. -/
structure KvMove where
  herd : Nat
  seqid : Nat
  head : Nat
  src : Nat
  srcH : Nat
  dst : Nat
  dstH : Nat
  start : Nat
  op : Bool
  deriving DecidableEq, Repr

/-- A submitted KVM operation: its words, its tag, the key of the queue entry it came by (none: KVM_OPGO), and whether it runs. -/
structure KvOp where
  w0 : Nat
  w1 : Nat
  w2 : Nat
  w3 : Nat
  tag : Nat
  entry : Option Nat
  runs : Bool
  deriving DecidableEq, Repr

/-- The KVM: sequences, moves, operations oldest first, and by herd when its last rebalancing period ended (R707). -/
structure KvmSt where
  seqs : List KvSeq
  moves : List KvMove
  ops : List KvOp
  balAt : List (Nat × Nat)
  deriving DecidableEq, Repr

/-- A fetched queue entry (R776-R778): its key (number x 1,024 + herd x 8 + queue), SQ slot, header word, SID, bytes from 16 on with
their poisoned offsets, phase (0 fetched, 1 started, 2 waits for the entry with the same SID, R788), bytes moved so far, and
whether poison was moved. -/
structure HqEnt where
  key : Nat
  slot : Nat
  hdr : Nat
  sid : Nat
  body : List Byte
  bad : List Nat
  phase : Nat
  moved : Nat
  pois : Bool
  deriving DecidableEq, Repr

/-- A completion that waits to be written (Table 15-4): queue, NOTE, SID, OP, SQ slot, STATUS, RESULT, words 4-7, DUP, time. -/
structure HqCpl where
  q : Nat
  note : Bool
  sid : Nat
  op : Nat
  slot : Nat
  status : Nat
  res : Nat
  vid : List Nat
  dup : Bool
  time : Nat
  deriving DecidableEq, Repr

/-- An entry of the SID record (R786). -/
structure SidRec where
  sid : Nat
  status : Nat
  res : Nat
  vid : List Nat
  deriving DecidableEq, Repr

/-- The host queues of a herd: entries in fetch order, completions to be written oldest first, SID record newest last; by queue: used
completion slots, queues whose phase is 0, time of the last message, queues with a message held by IMOD, queues that drop slots
until a valid header (R440), and a flushed partial chain with its slots still to be announced, SQ slot, OP and SID (R802). -/
structure HqSt where
  ents : List HqEnt
  out : List HqCpl
  recs : List SidRec
  used : List (Nat × Nat)
  phase0 : List Nat
  sentAt : List (Nat × Nat)
  due : List Nat
  resync : List Nat
  partials : List (Nat × (Nat × Nat × Nat × Nat))
  deriving DecidableEq, Repr

/-- Host queues at rest. -/
def HqSt.rest : HqSt := ⟨[], [], [], [], [], [], [], [], []⟩

/-- An entry of the address translation cache (R794): function, PASID (2^20: none), 4 KiB page, translated page, write permission. -/
structure AtcE where
  fn : Nat
  pasid : Nat
  page : Nat
  frame : Nat
  w : Bool
  deriving DecidableEq, Repr

/-- A BAR2 write that waits at its home or for a page under migration (R790): offset, bytes, and whether its TLP was poisoned. -/
structure BarWr where
  off : Nat
  data : List Byte
  ep : Bool
  deriving DecidableEq, Repr

/-- A page request to the host under way (R796): function, PASID, 4 KiB page, and the rod and 64 KiB VA page that halted for it. -/
structure PriReq where
  fn : Nat
  pasid : Nat
  page : Nat
  rod : Nat
  vpage : Nat
  deriving DecidableEq, Repr

/-- An ATS invalidation that waits for the requests that used its entries (R795): function, PASID (2^20: any), first page, pages,
and those requests. -/
structure AtsInv where
  fn : Nat
  pasid : Nat
  page : Nat
  count : Nat
  reqs : List Nat
  deriving DecidableEq, Repr

/-- An open video session (R736): number, herd, the 16 words of its OPEN (Tables 14-3, 14-6), pictures output or submitted, whether the
next picture is coded as IRAP (R759), and the previous output picture with its poisoned bytes (R767). Of an encoder: slots of the reference
pictures, the latest first (R738, R745), number of the last anchor, pictures coded since the last IRAP (R746), and what its CPB holds, in
bits x FPS_NUM (R750). Of a decoder: CTB columns of its pictures, and the POC from which it outputs pictures, once it has started (R748). -/
structure VSess where
  num : Nat
  herd : Nat
  words : List Nat
  pics : Nat
  irap : Bool
  last : List Byte
  lastBad : List Nat
  refs : List Nat
  anchor : Option Nat
  since : Nat
  cpb : Nat
  cols : Nat
  from_ : Option Int
  deriving DecidableEq, Repr

/-- A command block at a pipe (R737): the key of its queue entry, herd, OP, session, tag, body words; phase (0 queued, 1 running, 2 done
but for its output or completion, 3 its source is held for reordering); and what its completion will say (R739): status, NOPIC, IRAP,
RECOVERY, POC or picture number, output index, bytes, slice index, CTB rows; tensor rows written; the bytes of its picture with the
poisoned ones; the CTBs whose syntax record is bad and the tensor rows whose line state is bad (Table 14-8); and whether the units before its
slices are written. -/
structure VJob where
  key : Nat
  herd : Nat
  op : Nat
  sess : Nat
  tag : Nat
  words : List Nat
  phase : Nat
  st : Nat
  nopic : Bool
  irap : Bool
  recovery : Bool
  poc : Nat
  index : Nat
  bytes : Nat
  slice : Nat
  rows : Nat
  trows : Nat
  pic : List Byte
  bad : List Nat
  syn : List Nat
  lines : List Nat
  headed : Bool
  deriving DecidableEq, Repr

/-- A motion-search window (R743): nine columns of 64 x 320 luma samples with their chroma, and the prefetched column; none listed reads as
zeros. -/
structure VWin where
  cols : List (List Byte)
  pre : List Byte
  deriving DecidableEq, Repr

/-- The window store of a pipe (R743): the CTB column and CTB row it stands at, the windows of the two references, the source CTB, and the bytes
whose parity is bad. -/
structure VStore where
  at_ : Option (Nat × Nat)
  a : VWin
  b : VWin
  src : List Byte
  par : List Nat
  deriving DecidableEq, Repr

/-- A store of zeros with good parity (R769). -/
def VStore.zero : VStore := ⟨none, ⟨[], []⟩, ⟨[], []⟩, [], []⟩

/-- What the engines of a pipe have done of the running or last picture (R742, R753): the CTB rows its consuming engine has started, and the tiles
or WPP substreams of its entropy engine. -/
structure VEng where
  rows : List Nat
  units : List Nat
  deriving DecidableEq, Repr

/-- A video pipe: sessions, command blocks in arrival order, the time its last job ended (R864), its engines and its window store. -/
structure VPipe where
  sess : List VSess
  jobs : List VJob
  ended : Option Nat
  eng : VEng
  win : VStore
  deriving DecidableEq, Repr

/-- A pipe with nothing in it. -/
def VPipe.empty : VPipe := ⟨[], [], none, ⟨[], []⟩, .zero⟩

/-- A resize in progress (R533): the new width and height, and a STOP or DRAIN that takes effect when it completes (R569): the
command, its tag and its deadline. -/
structure Resize where
  w : Nat
  h : Nat
  stop : Option (Nat × Nat × Nat)
  deriving DecidableEq, Repr

/-- Calibration of a bead channel (R134-R137, R398): due, in progress, retraining, the island code when it began, whether a repeat after a
failure is due, and when the last calibration began, ended or failed. -/
structure Cal where
  due : Bool
  busy : Bool
  retrain : Bool
  code : Nat
  retry : Bool
  since : Nat
  deriving DecidableEq, Repr

/-- What an island keeps beside its page: bring-up has issued its boot command (R159); a command in force has not settled (R127); its
ramp has begun (R126); the regulator is disconnected (R154); it faulted and has not settled since (R153, R155); MGS has yet to
reinitialise it; its boot command was repeated once (R930). -/
structure IslX where
  booted : Bool
  unsettled : Bool
  ramping : Bool
  cut : Bool
  recover : Bool
  reinit : Bool
  repeated : Bool
  /-- Its boot command has failed twice, so that bring-up has handled it (R930). -/
  gaveUp : Bool
  /-- Package time and output at which the ramp in progress began (R126). -/
  rampAt : Nat
  rampFrom : Nat
  /-- The output was measured since the ramp in progress began: it is as last shown. -/
  stuck : Bool
  deriving DecidableEq, Repr

/-- An island at cold reset. -/
def IslX.cold : IslX where
  booted := false
  unsettled := false
  ramping := false
  cut := false
  recover := false
  reinit := false
  repeated := false
  gaveUp := false
  rampAt := 0
  rampFrom := 0
  stuck := false



/-- The test access port (chapter 22): instruction in force, CCR, and TEST_STAT's CCR_FIXED, REFUSED, ABORTED and ICOUNT; wrapper instructions by die
(unlisted: BYPASS); update latches of the boundary register, cell 0 nearest TDI; what the balls carry: 0 their function, 1 the latches, 2 nothing,
3 pulses and 4 pulse trains on the TX pairs. -/
structure Tap where
  ir : Nat
  ccr : Nat
  fixed : Bool
  refused : Bool
  aborted : Bool
  icount : Nat
  wirs : List (Nat × Nat)
  cells : Nat
  drive : Nat
  deriving DecidableEq, Repr

/-- Test-Logic-Reset with the reset CCR (R1018); IDCODE is in force. -/
def Tap.reset : Tap := ⟨1, 1, false, false, false, 0, [], 0, 0⟩

/-- A sensor (R824, R856, R857, R875): reading valid, value in sixteenths of the unit as 20 bits of two's complement, band, band
of the policy's decisions (R870), invalid refreshes in a row. -/
structure Sens where
  valid : Bool
  val : Nat
  band : Nat
  dec : Nat
  miss : Nat
  deriving DecidableEq, Repr

/-- What the thermal policy keeps of an island: in throttle through a logic and through a memory-layer sensor (R861, R878), the ceiling of
R861 (0 none), the time since which its confidence has been LOW (R870), the time of its last quiet slice, and the time at which it left throttle
or its ceiling last rose (R862). -/
structure IslT where
  logic : Bool
  mem : Bool
  ceil : Nat
  lowFrom : Option Nat
  sliced : Option Nat
  coolAt : Nat
  deriving DecidableEq, Repr

/-- Thermal and power policy beside its registers. -/
structure Thm where
  sens : List (Nat × Sens)
  isl : List (Nat × IslT)
  /-- Samples of the power meter in a row above 1.10 x cap, and below 0.95 x cap (R866). -/
  hiRun : Nat
  loRun : Nat
  /-- The running quiet slice: island, start, sample voided (R870, R871). -/
  quiet : Option (Nat × Nat × Bool)
  /-- Orderly shutdown (Table 17-4): 0 none, 1 herds draining, 2 logged, 3 islands off, 4 powering up after CLEAR (R887); and when it began. -/
  shut : Nat
  shutAt : Nat
  /-- THM_GOAL as the last plan took it (R867). -/
  goal : Nat
  /-- When the last sensor refresh, meter sample, plan, fit and confidence came (R858, R866, R867, R869). -/
  readAt : Option Nat
  meterAt : Option Nat
  planAt : Option Nat
  fitAt : Option Nat
  confAt : Option Nat
  deriving DecidableEq, Repr

/-- No reading yet, and the goals of the reset values of THM_GOAL. -/
def Thm.reset : Thm := ⟨[], [], 0, 0, none, 0, 0, 3, none, none, none, none, none⟩

/-- The package's pins, rails and bring-up beside its registers. -/
structure Boot where
  /-- Cold reset holds (R972). -/
  cold : Bool
  /-- Rails that are below their reset threshold or above 110 % (R972, R991). -/
  railsBad : List Nat
  /-- PERST_N is low; the time of its last rise (R807, R933). -/
  perst : Bool
  perstAt : Nat
  /-- PWR_WARN_N is low; its log step waits for the orderly shutdown (R994); rails outside their tolerance now (R999). -/
  pwrWarn : Bool
  warnDue : Bool
  railNow : List Nat
  /-- Rail whose loss ended the previous boot, as the always-on monitor captured it (R997). -/
  loss : Option Nat
  /-- THERMTRIP_N is low (R969, R872). -/
  trip : Bool
  /-- Start of this pass and of its stage; this pass is the cold one (R925, R932). -/
  passAt : Nat
  stageAt : Nat
  coldPass : Bool
  /-- Topology descriptor in use, when a valid one is stored (R937). -/
  desc : Option (List Byte)
  /-- Bridge links that trained at LINKS; links and RL ports that were READY when the package warm reset came (R624, R685). -/
  trained : List Nat
  warmLinks : List Nat
  warmPorts : List Nat
  /-- Pages that failed the march, as rod and page; a spare k of channel c counts as page 49,152 + 128 c + k. -/
  march : List (Nat × Nat)
  /-- Physical rods that have failed, and those mapped since cold reset (R929, R932), as frame x 272 + row x 17 + column. -/
  physBad : List Nat
  physSeen : List Nat
  /-- Bridge lanes that failed the lane test, as link x 64 + direction x 32 + lane (R935). -/
  laneBad : List Nat
  /-- The stored licence failed its checks at the licence stage (R21, R939). -/
  licBad : Bool
  deriving DecidableEq, Repr

/-- As cold reset ends: rails good, PERST_N still low. -/
def Boot.reset : Boot where
  cold := false
  railsBad := []
  perst := true
  perstAt := 0
  pwrWarn := false
  warnDue := false
  railNow := []
  loss := none
  trip := false
  passAt := 0
  stageAt := 0
  coldPass := true
  desc := none
  trained := []
  warmLinks := []
  warmPorts := []
  march := []
  physBad := []
  physSeen := []
  laneBad := []
  licBad := false

/-- The whole state of the block. -/
structure State where
  /-- Registers, by BAR0 offset; an unlisted register holds its cold value (`coldReg`). -/
  regs : List (Nat × Word)
  /-- Write shadows of _LO registers (R37), where they differ from the register. -/
  shadow : List (Nat × Word)
  /-- Package time in ns (R199). -/
  now : Nat
  /-- The model's own counter: the index of the next free value. -/
  freeN : Nat
  /-- What the device has sent, newest last. -/
  out : List Out
  /-- Life-cycle data by address of the state register. -/
  life : List (Nat × LifeX)
  /-- Pages with an undelivered rod notification; true once its hold has been logged (R54, R55). -/
  held : List (Nat × Bool)
  /-- DETAIL of the error in PG_ERR_NEXT, by page (R59). -/
  nextDetail : List (Nat × Nat)
  /-- Package time of a page's last summary record (R898). -/
  summaries : List (Nat × Nat)
  /-- Rods that have failed since bring-up (R902). -/
  failed : List Nat
  /-- Package time of a rod's last UCC that counts for R902. -/
  lastUcc : List (Nat × Nat)
  /-- FAT codes outstanding (R921). -/
  fatal : List Nat
  /-- Whether the life-command gate of R106 is open. -/
  gate : Bool
  /-- MSI-X entries by fn × 2048 + vector. -/
  msix : List (Nat × Msix)
  /-- PCIe state of the functions. -/
  fns : List (Nat × Fn)
  mgs : Mgs
  /-- Sequencers by rod; unlisted: `SeqSt.reset`. -/
  seqs : List (Nat × SeqSt)
  /-- Scratchpad bytes, key rod × 2^21 + address; unlisted bytes read 0, as STARTING leaves them (R230). -/
  spad : List Host.Cell
  /-- Scratchpad bytes with the poison flag, and with failing parity (R346), same keys. -/
  spadBad : List Nat
  spadPar : List Nat
  /-- Accumulator entries, key rod × 16,384 + entry; unlisted 0. -/
  acc : List (Nat × Word)
  accBad : List Nat
  /-- Entries whose parity fails (R256, R278). -/
  accPar : List Nat
  /-- Vector register lanes, key rod × 2,048 + register × 64 + lane; unlisted 0. -/
  vreg : List (Nat × Word)
  vregBad : List Nat
  /-- Framed queues by key (`chanKey`, `pipeKey`). -/
  framed : List (Nat × FQueue)
  /-- Queued reservations by target rod, oldest first. -/
  resvs : List (Nat × List Resv)
  hubItems : List HubItem
  hubNext : Nat
  flights : List Flight
  /-- Probes and confirmations on their way. -/
  probes : List Probe
  /-- Weight buffers by rod; unlisted: zeros. -/
  ox : List (Nat × OxSt)
  /-- Goat work of rods with a started GMV that has bound its stream. -/
  goat : List (Nat × GoatSt)
  /-- Activation-table segments with bad parity, key rod × 128 + table × 64 + segment (TABLE_PARITY). -/
  tabBad : List Nat
  /-- Bead bytes, key rod × 2^27 + bead address; unlisted bytes read 0, as the zero-fill leaves them (R395, R401). -/
  bead : List Host.Cell
  /-- Poisoned bead sectors, key rod × 2^21 + sector. -/
  beadPois : List Nat
  beads : List (Nat × BeadSt)
  /-- Page requests outstanding, oldest first, and the next number. -/
  reqs : List PReq
  reqNext : Nat
  /-- Physical place of a remapped logical rod, as DEFECT_READ writes it: frame in [1:0], row in [11:8], column in [20:16]
  (R27); unlisted: the place of the same row and column. -/
  rodMap : List (Nat × Nat)
  /-- Streams by rod × 8 + slot. -/
  strms : List (Nat × Str)
  xlats : List (Nat × XlatSt)
  herdX : List (Nat × HerdX)
  /-- The hub TLB: herds with their cached leaves, least recently used first (R463). -/
  hubTlb : List (Nat × TlbE)
  brgs : List (Nat × BrgX)
  rlps : List (Nat × RlpX)
  /-- RL ports that were READY at JUDGE (R941). -/
  judged : List Nat
  /-- Bridge links by link × 2 + direction; RL ports by port. -/
  links : List (Nat × LinkDir)
  ports : List (Nat × LinkDir)
  /-- Times of the same. -/
  linkT : List (Nat × LinkT)
  portT : List (Nat × LinkT)
  /-- RL packets that wait for a port or a credit, with the package time since when. -/
  rlWait : List (Pkt × Nat)
  /-- Flooded and source-routed packets that wait for a credit of their port: port, packet, since when (R631). -/
  rlOut : List (Nat × Pkt × Nat)
  /-- Routing-table entries with bad parity, by address (TABLE_PARITY). -/
  rtrBad : List Nat
  rtr : RtrSt
  e2e : E2eSt
  /-- KV units by rod. -/
  kvs : List (Nat × KvSt)
  kvm : KvmSt
  /-- Host queues by herd, and the number of the next entry. -/
  hqs : List (Nat × HqSt)
  hqNext : Nat
  /-- Address translation cache, least recently used first; page requests and invalidations under way. -/
  atc : List AtcE
  pris : List PriReq
  atsInv : List AtsInv
  /-- The BAR2 write of a function that waits, and that its later BAR2 accesses wait behind (R790). -/
  barHeld : List (Nat × BarWr)
  /-- Video pipes. -/
  pipes : List (Nat × VPipe)
  /-- Herds under herd reset whose HQ page takes its FLR values when they reach OFF (R9, R101). -/
  flrDue : List Nat
  /-- Herds whose rectangle is being resized. -/
  resizes : List (Nat × Resize)
  /-- Calibrations by rod × 2 + channel. -/
  cals : List (Nat × Cal)
  isls : List (Nat × IslX)
  /-- Low pace windows in a row, by rod (R156). -/
  lowPace : List (Nat × Nat)
  /-- Configuration requests complete normally (R933). -/
  rrsDone : Bool
  /-- Pages of the bridge links and RL ports that a lane margin measurement holds (R1010). -/
  margins : List Nat
  tap : Tap
  thm : Thm
  boot : Boot
  /-- Commands that wait, first in, first out. -/
  pending : List Instr
  deriving DecidableEq, Repr

/-- The machine right after cold reset, before bring-up (R972): nothing listed in any sparse map, so every register
reads its cold value, and no command waits. -/
def State.reset : State where
  regs := []
  shadow := []
  now := 0
  freeN := 0
  out := []
  life := []
  held := []
  nextDetail := []
  summaries := []
  failed := []
  lastUcc := []
  fatal := []
  gate := false
  msix := []
  fns := []
  mgs := Mgs.reset
  seqs := []
  spad := []
  spadBad := []
  spadPar := []
  acc := []
  accBad := []
  accPar := []
  vreg := []
  vregBad := []
  framed := []
  resvs := []
  hubItems := []
  hubNext := 1
  flights := []
  probes := []
  ox := []
  goat := []
  tabBad := []
  bead := []
  beadPois := []
  beads := []
  reqs := []
  reqNext := 0
  rodMap := []
  strms := []
  xlats := []
  herdX := []
  hubTlb := []
  brgs := []
  rlps := []
  judged := []
  links := []
  ports := []
  linkT := []
  portT := []
  rlWait := []
  rlOut := []
  rtrBad := []
  rtr := ⟨[], 0, none, none, none, false, 0, [], []⟩
  e2e := ⟨0, [], [], [], [], [], [], 0, false⟩
  kvs := []
  kvm := ⟨[], [], [], []⟩
  hqs := []
  hqNext := 0
  atc := []
  pris := []
  atsInv := []
  barHeld := []
  pipes := []
  flrDue := []
  resizes := []
  cals := []
  isls := []
  lowPace := []
  rrsDone := false
  margins := []
  tap := Tap.reset
  thm := Thm.reset
  boot := Boot.reset
  pending := []

end Sys2Proof.Machine
end

