-- ==== Sys2Proof/Machine/Regs.lean ====
section
/-! DEFINITION. Reading and writing the register file: whole registers, fields, 64-bit pairs, saturating counters,
what a function may read (R44, R88, R94, R1019), and how a reset loads the reset values of a table (R9). -/
namespace Sys2Proof.Machine

/-! ### Bits -/

/-- Bits hi..lo of a number. -/
def bitsOf (n hi lo : Nat) : Nat := n / 2 ^ lo % 2 ^ (hi + 1 - lo)

/-- Bit i of a number. -/
def bitOf (n i : Nat) : Bool := n / 2 ^ i % 2 == 1

/-- `n` with bits hi..lo replaced by the low bits of `v`. -/
def setBits (n hi lo v : Nat) : Nat :=
  n - bitsOf n hi lo * 2 ^ lo + v % 2 ^ (hi + 1 - lo) * 2 ^ lo

/-- A number as two's complement of `w` bits. -/
def signed (w n : Nat) : Int := if n % 2 ^ w < 2 ^ (w - 1) then (n % 2 ^ w : Nat) else (n % 2 ^ w : Nat) - (2 : Int) ^ w

/-- An integer in `w` bits. -/
def unsigned (w : Nat) (i : Int) : Nat := (i % ((2 : Int) ^ w)).toNat

/-- Saturating addition below 2^w. -/
def satAdd (w a b : Nat) : Nat := if a + b < 2 ^ w then a + b else 2 ^ w - 1

/-- A Bool as a bit. -/
def b2n (b : Bool) : Nat := if b then 1 else 0

/-! ### Registers -/

/-- Mailbox registers that show MGS itself (MB_INFO to MB_LOGSEQ) are one set of registers behind all 128 pages. -/
def canon (a : Nat) : Nat :=
  if 0x10000 ≤ a ∧ a < 0x90000 ∧ 0x88 ≤ a % 0x1000 ∧ a % 0x1000 < 0xA0 then 0x10000 + a % 0x1000 else a

/-- What a page whose STATE mirrors the package or MGS holds before bring-up is over (Table 2-8). -/
def coldVal (a : Nat) : Word :=
  if a % 0x1000 = 0x0C then
    match pageOf a with
    | some (.glb, _) | some (.thm, _) | some (.isl, _) | some (.rtr, _) | some (.e2e, _) | some (.hif, _)
    | some (.mgs, _) => 1
    | _ => 0
  else if a = 0x84 then Config.serial.setWidth 32
  else if a = 0x88 then (Config.serial >>> 32).setWidth 32
  else coldReg a

/-- The register at BAR0 offset `a`. -/
def rdW (a : Nat) (s : State) : Word := (alGet s.regs (canon a)).getD (coldVal (canon a))

/-- A row that stands for a timer or a deadline comes when that time has come: package time moves on to it (assumption log 3). -/
def waitTill (t : Nat) (s : State) : State := { s with now := max s.now t }

/-- A row that comes every `period` ns moves package time on to its moment, if it has come before. -/
def waitEvery (period : Nat) (last : Option Nat) (s : State) : State := match last with | some t => waitTill (t + period) s | none => s

/-- Store a register: a register at its cold value is not listed. -/
def wrW (a : Nat) (v : Word) (s : State) : State :=
  { s with regs := alPut (coldVal (canon a)) s.regs (canon a) v }

/-- A field of the register block at `p`. -/
def getF (p : Nat) (f : Field) (s : State) : Nat := bitsOf (rdW (p + f.off) s).toNat f.hi f.lo

/-- Store a field; the other bits of its register stay. -/
def setF (p : Nat) (f : Field) (v : Nat) (s : State) : State :=
  wrW (p + f.off) (BitVec.ofNat 32 (setBits (rdW (p + f.off) s).toNat f.hi f.lo v)) s

/-- A one-bit field as a Bool. -/
def flag (p : Nat) (f : Field) (s : State) : Bool := getF p f s == 1

/-- A 64-bit pair whose _LO register is at `a` (R37). -/
def rd64 (a : Nat) (s : State) : Nat := (rdW a s).toNat + (rdW (a + 4) s).toNat * 2 ^ 32

/-- Store a 64-bit pair. -/
def wr64 (a v : Nat) (s : State) : State :=
  wrW (a + 4) (BitVec.ofNat 32 (v / 2 ^ 32)) (wrW a (BitVec.ofNat 32 v) s)

/-- Width of a field. -/
def Field.width (f : Field) : Nat := f.hi + 1 - f.lo

/-- Add to a counter field, saturating. -/
def bump (p : Nat) (f : Field) (by_ : Nat) (s : State) : State :=
  setF p f (satAdd f.width (getF p f s) by_) s

/-- Add to a 64-bit counter pair, saturating. -/
def bump64 (a by_ : Nat) (s : State) : State := wr64 a (satAdd 64 (rd64 a s) by_) s

/-- Base of the page of an offset. -/
def pageBase (a : Nat) : Nat := a / 0x1000 * 0x1000

/-! ### Presence, ownership and reads -/

/-- Rod i is absent (R28, GLB_ABSENT). -/
def rodAbsent (i : Nat) (s : State) : Bool := bitOf (getF glbP (GLB_ABSENT_ABSENT (rodY i)) s) (rodX i)

/-- Rods have been mapped in this boot: stage ROD_MAP (0x09) has written PRESENT, or bring-up has got past it (R106). -/
def rodsMapped (s : State) : Bool := decide (9 < getF glbP GLB_READY_STAGE s) || decide (0 < getF glbP GLB_STATE_PRESENT s)

/-- The pages of rod i answer: the rods are mapped and the rod is present (R28, R106). -/
def rodVisible (i : Nat) (s : State) : Bool := rodsMapped s && !rodAbsent i s

/-- Page `p` exists and answers; rod pages do not while a thermal shutdown is latched (R886). -/
def pageLive (p : Nat) (s : State) : Bool :=
  match pageOf p with
  | none => false
  | some (k, i) => if k.isRod then rodVisible i s && !flag (thmP 0) THM_SHUT_LATCHED s else true

/-- The page has no owner (R43). -/
def isFree (p : Nat) (s : State) : Bool := flag p PG_OWNER_FREE s

/-- The page is global (R43). -/
def isGlobal (p : Nat) (s : State) : Bool := flag p PG_OWNER_GLOBAL s

/-- The herd that owns a page; a global page counts herd 0 as its owning herd (R53). -/
def ownerHerd (p : Nat) (s : State) : Nat := if isGlobal p s then 0 else getF p PG_OWNER_HERD s

/-- Function `fn` owns page `p` (R43): PF0 owns the global pages and those of herd 0. -/
def owns (fn p : Nat) (s : State) : Bool :=
  !isFree p s && decide (ownerHerd p s = fn)

/-- What function `fn` may read of page `p` at offset `o` (R44). -/
def mayRead (fn p o : Nat) (s : State) : Bool :=
  owns fn p s || decide (o < 8) || decide (p = glbP) || (decide (fn = 0) && isFree p s)
    || decide (p = herdP fn)

/-- Write-only fields of a register read zero (R6). -/
def maskWo (fl : List FSpec) (v : Nat) : Nat :=
  fl.foldl (fun a f => if f.acc = .wo then setBits a f.hi f.lo 0 else a) v

/-- Rod i is in the island that has a quiet slice now: its sequencer issues nothing and its streams start no request (R870). -/
def rodQuiet (i : Nat) (s : State) : Bool := match s.thm.quiet with | some q => q.1 == rodIsland i | none => false

/-! ### Resets of a page (R8, R9) -/

/-- Which reset value a reset loads. -/
inductive RstKind where
  | cold | warm | flr
  deriving DecidableEq, Repr

/-- The reset value of a field. -/
def FSpec.rst (f : FSpec) : RstKind → Rst
  | .cold => f.cold
  | .warm => f.warm
  | .flr => f.flr

/-- A register's value after a reset: each field its reset value, or kept. -/
def rstVal (k : RstKind) (fl : List FSpec) (v : Nat) : Nat :=
  fl.foldl (fun a f => match f.rst k with
    | .kept => a
    | .val n => setBits a f.hi f.lo n) v

/-- Reset the register at `a` by its table. -/
def rstReg (k : RstKind) (a : Nat) (s : State) : State :=
  match regSpec a with
  | none => s
  | some r => wrW a (BitVec.ofNat 32 (rstVal k r.fields (rdW a s).toNat)) s

/-- The addresses an indexed register family covers. -/
def dimAddrs : List (Nat × Nat) → Nat → List Nat
  | [], b => [b]
  | (st, c) :: t, b => (List.range c).flatMap (fun i => dimAddrs t (b + st * i))

/-- Every register address of a page. -/
def pageRegs (p : Nat) : List Nat :=
  match pageOf p with
  | none => []
  | some (k, i) => (specsALL ++ specsOf k i).flatMap (fun r => dimAddrs r.dims (p + r.base))

/-- Reset the page at `p`. Registers that are not listed and whose reset value is their cold value stay unlisted; so only
listed registers, and those of the page's tables, are touched. Shadows of the page become equal to their registers. -/
def rstPage (k : RstKind) (p : Nat) (s : State) : State :=
  let listed := (s.regs.map (·.1)).filter (fun a => pageBase a = p)
  let s1 := listed.foldl (fun t a => rstReg k a t) s
  { s1 with shadow := s1.shadow.filter (fun e => pageBase e.1 != p) }

end Sys2Proof.Machine
end

