-- ==== Sys2Proof/Machine/Events.lean ====
section
/-! DEFINITION. The tally log's creation of records (R825, R826, R1023), events and their delivery (R50-R56), MSI-X
messages (R785, R1021), and the signals towards the BMC (R830, R899, R970). -/
namespace Sys2Proof.Machine

/-- `v` as `n` bytes, least significant first. -/
def leBytes : Nat → Nat → List Byte
  | 0, _ => []
  | n + 1, v => BitVec.ofNat 8 v :: leBytes n (v / 256)

/-- The number that bytes spell, least significant first. -/
def leNat : List Byte → Nat
  | [] => 0
  | b :: t => b.toNat + 256 * leNat t

/-- The next free value (assumption log 1): its bits, and the state with the counter advanced. -/
def takeFree (s : State) : Nat × State := ((Config.free s.freeN).toNat, { s with freeN := s.freeN + 1 })

/-- Send something out of the device. -/
def emit (o : Out) (s : State) : State := { s with out := s.out ++ [o] }

/-! ### Tally records -/

/-- Mailbox state: 0 boot, 1 run, 2 restart, 3 recovery (MB_INFO.MSTATE). -/
def mstate (s : State) : Nat := getF (mgsP 0) MB_INFO_MSTATE s

/-- Create a record now: it takes the next SEQ and enters the RAM ring of 1,024 records (R825, R1023). -/
def tallyNow (r : TRec) (s : State) : State :=
  let q := s.mgs.seq + 1
  let r' := { r with seq := q, boot := s.mgs.boot }
  let ring := s.mgs.ring ++ [r']
  let ring := ring.drop (ring.length - 1024)
  wr64 (mgsP 0 + 0x98) q { s with mgs := { s.mgs with seq := q, ring := ring, pend := s.mgs.pend ++ [r'] } }

/-- A record for MGS to write: at once while MGS runs, or held in the hub's 256-entry FIFO until it does
(Table 16-10 step 2, R918, R925). -/
def tally (kind src code page info : Nat) (data : List Byte) (s : State) : State :=
  let r : TRec := ⟨0, 0, s.now, kind, src, code, page, info, data⟩
  match mstate s with
  | 1 | 3 => tallyNow r s
  | 2 =>
    if s.mgs.fifo.length < 256 then { s with mgs := { s.mgs with fifo := s.mgs.fifo ++ [r] } }
    else { s with mgs := { s.mgs with fifoOvf := true } }
  | _ => { s with mgs := { s.mgs with fifo := s.mgs.fifo ++ [r] } }

/-- An event for the BMC and the PLDM event receiver (R830, R899): held until polled (R970) and, in I3C mode, sent by
in-band interrupt. -/
def bmcEvent (kind code : Nat) (s : State) : State :=
  emit (.bmc kind code) { s with mgs := { s.mgs with events := s.mgs.events ++ [(kind, code)] } }

/-- ALERT_N is low: the I3C port is in I2C mode and an event waits (R970). -/
def alertLow (s : State) : Bool := s.mgs.i3c.isNone && !s.mgs.events.isEmpty

/-! ### MSI-X -/

/-- PCIe state of function `fn`. -/
def fnOf (fn : Nat) (s : State) : Fn := alGetD s.fns fn (Fn.reset (fn == 0))

/-- Store the PCIe state of a function. -/
def setFn (fn : Nat) (v : Fn) (s : State) : State := { s with fns := alSet s.fns fn v }

/-- The function may issue requests (R1021). -/
def mayIssue (fn : Nat) (s : State) : Bool := !(fnOf fn s).d3 && (fnOf fn s).bme

/-- MSI-X table size of a function (R82). -/
def msixSize (fn : Nat) : Nat := if fn = 0 then 2048 else 16

/-- An MSI-X entry; a vector is masked until the host unmasks it. -/
def msixOf (fn vec : Nat) (s : State) : Msix := alGetD s.msix (fn * 2048 + vec) ⟨0, 0, true, false⟩

/-- Store an MSI-X entry. -/
def setMsix (fn vec : Nat) (m : Msix) (s : State) : State :=
  { s with msix := alSet s.msix (fn * 2048 + vec) m }

/-- Signal an MSI-X vector: sent, or left pending while masked or while the function may not issue (R785). -/
def sendMsix (fn vec : Nat) (s : State) : State :=
  let f := fnOf fn s
  let m := msixOf fn vec s
  if !f.msixEn then s
  else if m.masked || f.msixMask || !mayIssue fn s then setMsix fn vec { m with pend := true } s
  else emit (.msix fn vec) s

/-! ### Events -/

/-- PG_EVT AND PG_EVT_EN of a page. -/
def evtLive (p : Nat) (s : State) : Nat := (rdW (p + 0x10) s &&& rdW (p + 0x14) s).toNat

/-- The lowest set bit of a non-zero number below 2^32. -/
def lowBit (n : Nat) : Nat := ((List.range 32).find? (fun i => bitOf n i)).getD 0

/-- A rod can take a notification on a channel: its SEQ is READY or DRAINING and the channel is on (R55). -/
def rodTakes (i ch : Nat) (s : State) : Bool :=
  (getF (seqP i) PG_LIFE_STAT_STATE s == 2 || getF (seqP i) PG_LIFE_STAT_STATE s == 3)
    && getF (msgP i) (MSG_CH_BUF_SIZE ch) s != 0

/-- Hold page `p`'s rod notification; on the first hold for a rod that cannot take it, MGS logs it (R55). -/
def holdNote (p : Nat) (s : State) : State :=
  let i := getF p PG_EVT_ROUTE_INDEX s
  let ch := getF p PG_EVT_ROUTE_CHANNEL s
  if rodTakes i ch s then { s with held := alSet s.held p false }
  else tally 2 0 (lowBit (evtLive p s)) p 0 [] { s with held := alSet s.held p true }

/-- A held notification whose rod takes none any more, because its SEQ has left READY and DRAINING or its channel has lost its ring, is logged
once (R55). -/
def recheckHeld (s : State) : State :=
  s.held.foldl (fun t e =>
    if e.2 || rodTakes (getF e.1 PG_EVT_ROUTE_INDEX t) (getF e.1 PG_EVT_ROUTE_CHANNEL t) t then t
    else tally 2 0 (lowBit (evtLive e.1 t)) e.1 0 [] { t with held := alSet t.held e.1 true }) s

/-- Deliver page `p`'s notification by its route (R52). -/
def deliver (p : Nat) (s : State) : State :=
  match getF p PG_EVT_ROUTE_TARGET s with
  | 1 => if isFree p s then s else sendMsix (ownerHerd p s) (getF p PG_EVT_ROUTE_INDEX s) s
  | 2 => tally 2 0 (lowBit (evtLive p s)) p 0 [] s
  | 3 => holdNote p s
  | _ => s

/-- Set bit `b` of page `p`'s PG_EVT whatever PG_EVT_EN holds (R50); deliver when PG_EVT AND PG_EVT_EN leaves zero
(R51). An ERR_FAT reaches MGS whatever the route (R56). -/
def raise (p b : Nat) (s : State) : State :=
  let was := evtLive p s
  let s1 := wrW (p + 0x10) (rdW (p + 0x10) s ||| BitVec.ofNat 32 (2 ^ b)) s
  let goes : Bool := was = 0 && evtLive p s1 != 0
  let s2 := if b = 8 ∧ ¬ bitOf (rdW (p + 0x10) s).toNat 8 ∧ ¬ (goes && getF p PG_EVT_ROUTE_TARGET s = 2)
    then tally 2 0 8 p 0 [] s1 else s1
  if goes then deliver p s2 else s2

/-- A held notification is discarded once the enabled value has returned to zero (R55). -/
def dropHeldIfClear (p : Nat) (s : State) : State :=
  if evtLive p s = 0 then { s with held := alErase s.held p } else s

end Sys2Proof.Machine
end

