-- ==== Sys2Proof/Machine/PageCode.lean ====
section
/-! DEFINITION. The page code of chapter 7: the layout of a coded page (Tables 7-1, 7-2), the two interleaved Reed-Solomon words
over GF(2^10) (R356-R359), the CRC of a channel transfer (R351, R352), and what a decode finds (R360). -/
namespace Sys2Proof.Machine

/-! ### Transfers -/

/-- One step of the CRC-16 of R352. -/
def crcStep (r : BitVec 16) (b : Bool) : BitVec 16 :=
  if r.msb != b then (r <<< 1) ^^^ 0x1021 else r <<< 1

/-- CRC-16 of a transfer's 272 bits: data bits 0-255, then code bits 0-15. -/
def transferCrc (data : BitVec 256) (code : BitVec 16) : BitVec 16 :=
  let r := (List.range 256).foldl (fun r k => crcStep r (data.getLsbD k)) 0xFFFF
  (List.range 16).foldl (fun r k => crcStep r (code.getLsbD k)) r

/-- The 32 code bits of transfer k: two spare bytes and the CRC (R351). -/
def codeBits (data : BitVec 256) (spare : BitVec 16) : BitVec 32 := transferCrc data spare ++ spare

/-- A coded page as its 64 transfers, each of 256 data bits and 32 code bits (R351). -/
def pageTransfers (data spare : List Byte) : List (BitVec 256 × BitVec 32) :=
  (List.range 64).map (fun k =>
    let d := BitVec.ofNat 256 (leNat ((data.drop (32 * k)).take 32))
    (d, codeBits d (BitVec.ofNat 16 (leNat ((spare.drop (2 * k)).take 2)))))

/-! ### GF(2^10) -/

/-- An element of GF(2^10). -/
abbrev Sym := BitVec 10

/-- Multiply by the root α of x^10 + x^3 + 1. -/
def gfDouble (a : Sym) : Sym := if a.msb then (a <<< 1) ^^^ 0x009 else a <<< 1

/-- Multiply in GF(2^10): the sum of a x α^k over the set bits k of b. -/
def gfMul (a b : Sym) : Sym :=
  ((List.range 10).foldl (fun (t : Sym × Sym) k => (if b.getLsbD k then t.1 ^^^ t.2 else t.1, gfDouble t.2)) (0, a)).1

/-- α^k. -/
def alphaPow (k : Nat) : Sym := (List.range k).foldl (fun a _ => gfDouble a) 1

/-- A polynomial as its coefficients, lowest first, times (x - r). -/
def polyTimesRoot (r : Sym) (p : List Sym) : List Sym :=
  List.zipWith (fun a b => a ^^^ b) (0 :: p) ((p.map (fun c => gfMul c r)) ++ [0])

/-- The generator of class T (R358): (x - α^0) ... (x - α^(T-1)), coefficients lowest first. -/
def genPoly (t : Nat) : List Sym := (List.range t).foldl (fun p k => polyTimesRoot (alphaPow k) p) [1]

/-- One symbol enters the division by the generator: `reg` holds the remainder, lowest coefficient first. -/
def rsStep (g : List Sym) (reg : List Sym) (m : Sym) : List Sym :=
  let fb := reg.getLastD 0 ^^^ m
  List.zipWith (fun a c => a ^^^ gfMul fb c) (0 :: reg.dropLast) g

/-- Parity of a word's information symbols, position 0 first: the coefficients of (m(x) x^T) mod g(x), lowest first. -/
def rsParity (t : Nat) (info : List Sym) : List Sym := info.foldl (rsStep (genPoly t)) (List.replicate t 0)

/-- A syndrome of a whole word, highest coefficient first: its value at α^k. -/
def syndrome (word : List Sym) (k : Nat) : Sym := word.foldl (fun a c => gfMul a (alphaPow k) ^^^ c) 0

/-! ### The coded page -/

/-- T of a class code (Table 7-3). -/
def classT (c : Nat) : Nat :=
  match c with
  | 0 => 4 | 1 => 8 | 2 => 16 | 3 => 24 | _ => 32

/-- Metadata bytes of a page (Table 7-2). -/
def metaBytes (q rod poison : Nat) : List Byte :=
  leBytes 2 q ++ leBytes 2 (rod % 1024) ++ leBytes 4 poison ++ List.replicate 24 0

/-- Symbol i of a page's protected bits (R356): data bytes, then metadata bytes. -/
def pageSymbol (stream i : Nat) : Sym := BitVec.ofNat 10 (stream / 2 ^ (10 * i))

/-- Information symbols of word w (R357). -/
def wordInfo (stream w : Nat) : List Sym := (List.range 832).map (fun j => pageSymbol stream (2 * j + w))

/-- The parity bytes of a page at class T: coefficient x^k of word w at bits 10 (2k + w) of the spare bytes (R358). -/
def parityBytes (t stream : Nat) : List Byte :=
  let p0 := rsParity t (wordInfo stream 0)
  let p1 := rsParity t (wordInfo stream 1)
  let n := (List.range t).foldl (fun a k =>
    a + ((p0[k]?).getD 0).toNat * 2 ^ (20 * k) + ((p1[k]?).getD 0).toNat * 2 ^ (20 * k + 10)) 0
  leBytes 80 n

/-! ### Sector updates and partial write-backs -/

/-- Steps 1 and 2 of R367: the delta of a sector update, as stream bits with zeros outside the sector. -/
def sectorDelta (sec : Nat) (old new : List Byte) : Nat := (leNat new ^^^ leNat old) * 2 ^ (512 * sec)

/-- Step 3 of R367: the delta is folded into the parity of word w. -/
def foldDelta (t w delta : Nat) (parity : List Sym) : List Sym :=
  List.zipWith (fun a b => a ^^^ b) parity (rsParity t (wordInfo delta w))

/-- Spare transfers that the parity of a class takes (Table 7-3). -/
def parityTransfers (c : Nat) : Nat :=
  match c with
  | 0 => 5 | 1 => 10 | 2 => 20 | 3 => 30 | _ => 40

/-- The transfer that carries stream bit b: data, then metadata (Table 7-1, R351). -/
def bitTransfer (b : Nat) : Nat := if b < 16384 then b / 256 else 40 + (b - 16384) / 16

/-- The transfers that carry symbol i: below 1,664 an information symbol, else parity position i - 1,664. -/
def symTransfers (i : Nat) : List Nat :=
  if i < 1664 then [bitTransfer (10 * i), bitTransfer (10 * i + 9)]
  else [10 * (i - 1664) / 16, (10 * (i - 1664) + 9) / 16]

/-- The sectors that hold a part of symbol i. -/
def symSectors (i : Nat) : List Nat :=
  if i < 1664 then (([10 * i, 10 * i + 9].filter (fun b => decide (b < 16384))).map (· / 512)) else []

/-- Part of symbol i lies in the spare bytes. -/
def symInSpare (i : Nat) : Bool := decide (16384 ≤ 10 * i + 9)

/-- The transfers that a write-back writes (R369): all 64 when the page's recorded class differs from the one in force; else those of its dirty
sectors, of the parity, and of the metadata when these changed. -/
def wbTransfers (dirty : List Nat) (spare : Bool) (stored cls : Nat) : List Nat :=
  if stored ≠ cls then List.range 64
  else if dirty.isEmpty && !spare then []
  else (List.range 64).filter (fun k =>
    decide (k < parityTransfers cls) || dirty.contains (k / 2) || (spare && decide (40 ≤ k) && decide (k < 56)))

/-- Wrong symbols that stay wrong in the stored copy when the transfers `tr` are written. -/
def errsLeft (tr errs : List Nat) : List Nat := errs.filter (fun i => !(symTransfers i).all tr.contains)

/-- One class header copy (R355). -/
def headerCopy (c : Nat) : List Byte := leBytes 3 (c + 8)

/-- The 128 spare bytes of a formatted page (Table 7-1). -/
def spareBytes (q rod poison c : Nat) (data : List Byte) : List Byte :=
  let md := metaBytes q rod poison
  parityBytes (classT c) (leNat (data ++ md)) ++ md ++ (List.replicate 5 (headerCopy c)).flatten ++ [0]

/-- Majority of five bits. -/
def majority (l : List Bool) : Bool := decide (l.countP id ≥ 3)

/-- The class a header's five copies give, none for a header failure (R355). -/
def headerClass (copies : List Nat) : Option Nat :=
  let v := (List.range 24).foldl (fun a k => a + b2n (majority (copies.map (fun c => bitOf c k))) * 2 ^ k) 0
  if bitOf v 3 ∧ v % 8 < 5 ∧ v / 16 = 0 then some (v % 8) else none

/-- Where symbol i of a page's protected bits stands: word 0 or 1. -/
def symWord (i : Nat) : Nat := i % 2

/-- What a decode at class T finds in a page whose stored copy differs from its code word in the symbols `errs` (numbers
below 1,664 are information symbols, 1,664 + r is parity position r): the count of wrong symbols of each word, and whether both
are within T/2 (R359, R360). -/
def decodeErrs (t : Nat) (errs : List Nat) : Nat × Nat × Bool :=
  let c0 := errs.countP (fun i => symWord i == 0)
  let c1 := errs.countP (fun i => symWord i == 1)
  (c0, c1, decide (2 * c0 ≤ t) && decide (2 * c1 ≤ t))

end Sys2Proof.Machine
end

