-- ==== Sys2Proof/Machine/IslCore.lean ====
section
/-! DEFINITION. Voltage islands as other operations reach them (chapter 3): the regulator's output now, a command taking force, an island without
rods, ISL_PACE. -/
namespace Sys2Proof.Machine

/-- Island j beside its page. -/
def islOf (j : Nat) (s : State) : IslX := alGetD s.isls j .cold

/-- Store it. -/
def setIsl (j : Nat) (x : IslX) (s : State) : State := { s with isls := alPut IslX.cold s.isls j x }

/-- Show a measured output. -/
def showMv (j mv : Nat) (s : State) : State := setF (islP j) ISL_VNOW_MV (min mv 1023) s

/-- |a - b| on numbers. -/
def mvDist (a b : Nat) : Nat := (a - b) + (b - a)

/-- The regulator is connected and powered. -/
def IslX.powered (x : IslX) : Bool := x.booted && !x.cut

/-- The regulator's output now: while it ramps, 10 mV/µs from where the ramp began toward the target (R121, R126), until a measurement shows where it
is; else as last shown. -/
def islMv (j : Nat) (s : State) : Nat :=
  let x := islOf j s
  let goal := 5 * getF (islP j) ISL_VSTAT_TARGET s
  let moved := (s.now - x.rampAt) / 100
  if !(x.ramping && x.powered) || x.stuck then getF (islP j) ISL_VNOW_MV s
  else if x.rampFrom ≤ goal then min goal (x.rampFrom + moved)
  else max goal (x.rampFrom - moved)

/-- A command takes force (R124, R126, R128, R139-R141, R145): clamped to the range and the ceiling, it supersedes an unsettled one. `src`: 0 BOOT,
1 POLICY, 2 HOST, 3 THERMAL; `mv` is the regulator's output at that moment. -/
def islAccept (j code src mv : Nat) (s : State) : State :=
  let p := islP j
  let (c1, st1, s1) :=
    if code < 120 then (120, 1, raise p 18 (setF p ISL_FLAGS_CLAMP_LOW 1 s))
    else if code > 190 then (190, 1, raise p 18 (setF p ISL_FLAGS_CLAMP_HIGH 1 s))
    else (code, 0, s)
  let cap := getF p ISL_THERMCAP_CEILING s1
  let (c2, st2, s2) :=
    if cap ≠ 0 ∧ c1 > cap then (cap, 2, raise p 18 (setF p ISL_FLAGS_CLAMP_THERMAL 1 s1)) else (c1, st1, s1)
  let x := islOf j s2
  let old := getF p ISL_VSTAT_SEQ s2
  let s3 := if x.unsettled then raise p 17 (bump p ISL_SUPER_COUNT 1 (setF p ISL_SUPER_LAST old s2)) else s2
  let seq := if old = 0xFFFF then 1 else old + 1
  let dir := if mvDist mv (5 * c2) ≤ 10 then 0 else if mv < 5 * c2 then 1 else 2
  let s4 := setF p ISL_VSTAT_SEQ seq (setF p ISL_VSTAT_SRC src (setF p ISL_VSTAT_DIR dir (setF p ISL_VSTAT_TARGET c2 s3)))
  let s5 := setF p ISL_CMD_STAT_SEQ seq (setF p ISL_CMD_STAT_STATUS st2 s4)
  setIsl j { x with unsettled := true, ramping := false } (showMv j mv s5)

/-- A command of the device itself: the output is the regulator's own. VR_FAULT rejects none of these (log 148). -/
def islIssue (j code src : Nat) (s : State) : State := islAccept j code src (islMv j s) s

/-- A command that is rejected takes no sequence number (R125). -/
def islRefuse (j st : Nat) (s : State) : State := setF (islP j) ISL_CMD_STAT_SEQ 0 (setF (islP j) ISL_CMD_STAT_STATUS st s)

/-- A thermal shutdown is in progress or latched (R151, R886). -/
def shutdownOn (s : State) : Bool := flag (thmP 0) THM_SHUT_LATCHED s

/-- Every rod of the island is absent (R143). -/
def islAbsent (j : Nat) (s : State) : Bool := rodsMapped s && (islandRods j).all (fun i => rodAbsent i s)

/-- An island whose rods are all absent is held at 0.60 V with source BOOT (R143). The spec does not say how: it is a BOOT command like any
other, which takes the next SEQ, writes ISL_CMD_STAT and settles (DEDUCED, assumption log 101). -/
def holdIsl (j : Nat) (s : State) : State :=
  let held := (islOf j s).booted && getF (islP j) ISL_VSTAT_TARGET s == 120 && getF (islP j) ISL_VSTAT_SRC s == 0
  if !islAbsent j s || (islOf j s).cut || shutdownOn s || held then s
  else islIssue j 120 0 (setIsl j { islOf j s with booted := true } s)

/-- A rod counts for calibration and ISL_PACE (R144). -/
def rodCounts (i : Nat) (s : State) : Bool := !rodAbsent i s && !s.failed.contains i

/-- ISL_PACE from the rods that count and have a measurement (R120, R143, R157). -/
def showIslPace (j : Nat) (s : State) : State :=
  let l := ((islandRods j).filter (fun i => rodCounts i s && flag (senseP i) SENSE_PACE_VALID s)).map (fun i => getF (senseP i) SENSE_PACE_PACE s)
  match l with
  | [] => setF (islP j) ISL_PACE_MIN 0 (setF (islP j) ISL_PACE_MAX 0 s)
  | a :: t => setF (islP j) ISL_PACE_MIN (t.foldl min a) (setF (islP j) ISL_PACE_MAX (t.foldl max a) s)

/-- While the output of island j is below 0.57 V its rods complete no pace window: VALID reads 0 (R1026). -/
def paceGone (j : Nat) (s : State) : State :=
  let on := (islandRods j).filter (fun i => flag (senseP i) SENSE_PACE_VALID s)
  if on.isEmpty then s
  else showIslPace j (on.foldl (fun t i => setF (senseP i) SENSE_PACE_VALID 0 { t with lowPace := alErase t.lowPace i }) s)

/-- The output of island j is measured as mv, and stays as shown until its regulator moves again. -/
def measureMv (j mv : Nat) (s : State) : State :=
  let s1 := showMv j mv (setIsl j { islOf j s with stuck := true } s)
  if mv < 570 then paceGone j s1 else s1

end Sys2Proof.Machine
end

