-- ==== Sys2Proof/Machine/Cells.lean ====
section
/-! DEFINITION. A rod's own stores: its sequencer and started commands, the scratchpad (2 MiB of bytes, each with a mark for poison
or bad parity, R343-R346), the accumulator file and the vector registers. -/
namespace Sys2Proof.Machine

/-- Sequencer of rod i. -/
def seqOf (i : Nat) (s : State) : SeqSt := alGetD s.seqs i SeqSt.reset

/-- Store the sequencer of rod i. -/
def setSeq (i : Nat) (v : SeqSt) (s : State) : State := { s with seqs := alSet s.seqs i v }

/-- Started command with issue number `num`. -/
def startedBy (i num : Nat) (s : State) : Option Started := (seqOf i s).started.find? (fun c => c.cmd.num == num)

/-- Change the started command with issue number `num`. -/
def updStarted (i num : Nat) (f : Started → Started) (s : State) : State :=
  let q := seqOf i s
  setSeq i { q with started := q.started.map (fun c => if c.cmd.num == num then f c else c) } s

/-- Mark a started command's work as over, with its status and result. -/
def markDone (i num status : Nat) (res : SReg) (s : State) : State :=
  updStarted i num (fun c => { c with done := true, blocked := false, status := status, res := res }) s

/-- Withdraw the queued reservations of the senders that `p` selects. -/
def dropResvs (p : Sender → Bool) (s : State) : State :=
  { s with resvs := s.resvs.map (fun e => (e.1, e.2.filter (fun r => !p r.src))) }

/-- The answer to a sender's reservation or item, on its way back: `code` is a command status, with 0x100 added for PRIOR. -/
def answerSend (src : Sender) (code : Nat) (s : State) : State :=
  match src with
  | .rod i n => updStarted i n (fun c => { c with
      blocked := false, aux := listSet (listSet c.aux 0 4) 6 code }) s
  | .hub id => { s with hubItems := s.hubItems.map (fun h => if h.id == id then { h with phase := 4, answer := code } else h) }

/-- Change a page request. -/
def updReq (id : Nat) (f : PReq → PReq) (s : State) : State :=
  { s with reqs := s.reqs.map (fun r => if r.id == id then f r else r) }

/-- Scratchpad size in bytes. -/
def spadSize : Nat := 0x200000

/-- Key of a scratchpad byte. -/
def spadKey (i a : Nat) : Nat := i * 0x200000 + a

/-- A scratchpad byte. -/
def spadByte (i a : Nat) (s : State) : Byte := alGetD s.spad (spadKey i a) 0

/-- A read delivers the byte as poisoned: its poison flag is set or its parity fails (R346). -/
def spadPoison (i a : Nat) (s : State) : Bool :=
  s.spadBad.contains (spadKey i a) || s.spadPar.contains (spadKey i a)

/-- `n` bytes from address `a`. -/
def spadRead (i a n : Nat) (s : State) : List Byte := (List.range n).map (fun k => spadByte i (a + k) s)

/-- Offsets among `n` bytes from `a` that are marked bad. -/
def spadBadIn (i a n : Nat) (s : State) : List Nat := (List.range n).filter (fun k => spadPoison i (a + k) s)

/-- Write one byte, poisoned or clean (R346, R908); an armed SPAD_INJECT makes the write to its byte store odd parity and is
then spent. -/
def spadPut (i a : Nat) (b : Byte) (bad : Bool) (s : State) : State :=
  let k := spadKey i a
  let inj := flag (spadP i) SPAD_INJECT_ARM s && getF (spadP i) SPAD_INJECT_ADDR s == a
  let s1 := { s with
    spad := alPut 0 s.spad k b
    spadBad := if bad then nsInsert s.spadBad k else nsErase s.spadBad k
    spadPar := if inj then nsInsert s.spadPar k else nsErase s.spadPar k }
  if inj then setF (spadP i) SPAD_INJECT_ARM 0 s1 else s1

/-- The scratchpad byte range lies inside 2 MiB. -/
def spadInRange (a n : Nat) : Bool := decide (a + n ≤ spadSize)

/-- Write bytes from address `a + k`; `bad` lists the offsets from `a` that carry poison. -/
def spadWriteFrom (i a k : Nat) : List Byte → List Nat → State → State
  | [], _, s => s
  | b :: t, bad, s => spadWriteFrom i a (k + 1) t bad (spadPut i (a + k) b (bad.contains k) s)

/-- Write bytes from address `a`; `bad` lists the offsets that carry poison. -/
def spadWrite (i a : Nat) (bs : List Byte) (bad : List Nat) (s : State) : State := spadWriteFrom i a 0 bs bad s

/-- Drop from a sparse map the keys of rod i, where a rod owns `w` keys. -/
def dropRod {α : Type} (w i : Nat) (m : List (Nat × α)) : List (Nat × α) := m.filter (fun e => e.1 / w != i)

/-- The same for a set of keys. -/
def dropRodSet (w i : Nat) (m : List Nat) : List Nat := m.filter (fun k => k / w != i)

/-- A vector command's registers: key of a lane. -/
def vKey (i r l : Nat) : Nat := i * 0x800 + r * 64 + l

/-- The 64 lanes of vector register r. -/
def vLanes (i r : Nat) (s : State) : List Nat := (List.range 64).map (fun l => (alGetD s.vreg (vKey i r l) 0).toNat)

/-- Poison flags of its lanes. -/
def vBads (i r : Nat) (s : State) : List Bool := (List.range 64).map (fun l => s.vregBad.contains (vKey i r l))

/-- Store one lane with its poison flag. -/
def vPut (i r l v : Nat) (bad : Bool) (s : State) : State :=
  let k := vKey i r l
  { s with
    vreg := alPut 0 s.vreg k (BitVec.ofNat 32 v)
    vregBad := if bad then nsInsert s.vregBad k else nsErase s.vregBad k }

/-- Store lanes from lane l on. -/
def vPutFrom (i r : Nat) : Nat → List (Nat × Bool) → State → State
  | _, [], s => s
  | l, e :: t, s => vPutFrom i r (l + 1) t (vPut i r l e.1 e.2 s)

/-- Key of a word of segment j of activation table t: word 0 its breakpoint, words 1-4 its coefficients (VEC page). -/
def tabKey (i t j k : Nat) : Nat := i * 4096 + t * 0x500 + (if k = 0 then 0x400 + 4 * j else 0x500 + 16 * j + 4 * (k - 1))

/-- Accumulator entry e of rod i. -/
def accAt (i e : Nat) (s : State) : Nat := (alGetD s.acc (i * 0x4000 + e) 0).toNat

/-- The entry carries the poison flag, or counts as poisoned because its parity fails (R278). -/
def accBadAt (i e : Nat) (s : State) : Bool := s.accBad.contains (i * 0x4000 + e) || s.accPar.contains (i * 0x4000 + e)

/-- Store an accumulator entry with its poison flag and good parity (R256). -/
def accPut (i e v : Nat) (bad : Bool) (s : State) : State :=
  let k := i * 0x4000 + e
  { s with
    acc := alPut 0 s.acc k (BitVec.ofNat 32 v)
    accBad := if bad then nsInsert s.accBad k else nsErase s.accBad k
    accPar := nsErase s.accPar k }

/-- Registers of rod i that STARTING sets to zero, their cold value: OXA_ABUF and OXA_SBUF (R281), the activation tables and their NINF and PINF
words (R341). -/
def rodTables (i a : Nat) : Bool :=
  (decide (oxaP i + 0x80 ≤ a) && decide (a < oxaP i + 0x88)) || (decide (vecP i + 0xA0 ≤ a) && decide (a < vecP i + 0xB0))
    || (decide (vecP i + 0x400 ≤ a) && decide (a < vecP i + 0xE00))

/-- Zero a rod's scratchpad, accumulator file, vector registers, weight buffers, channels and sequencer state with good parity
(R230, R281, R341, R578), and the registers that hold buffer records and activation tables. -/
def clearRod (i : Nat) (s : State) : State :=
  { s with
    regs := s.regs.filter (fun e => !rodTables i e.1)
    spad := dropRod 0x200000 i s.spad
    spadBad := dropRodSet 0x200000 i s.spadBad
    spadPar := dropRodSet 0x200000 i s.spadPar
    acc := dropRod 0x4000 i s.acc
    accBad := dropRodSet 0x4000 i s.accBad
    accPar := dropRodSet 0x4000 i s.accPar
    vreg := dropRod 0x800 i s.vreg
    vregBad := dropRodSet 0x800 i s.vregBad
    ox := alErase s.ox i
    goat := alErase s.goat i
    tabBad := dropRodSet 4096 i s.tabBad
    framed := dropRod 32 i s.framed
    seqs := alErase s.seqs i }

/-- A framed queue. -/
def fqOf (q : Nat) (s : State) : FQueue := alGetD s.framed q .empty

/-- Store a framed queue. -/
def setFq (q : Nat) (v : FQueue) (s : State) : State := { s with framed := alPut FQueue.empty s.framed q v }

/-- A flush of a framed queue (R441): complete items and partial items go, partial items' further words are dropped, and the producers
of discarded complete items get a flush note. -/
def flushQueue (q : Nat) (s : State) : State :=
  let v := fqOf q s
  setFq q { v with
    items := []
    parts := v.parts.map (fun p => { p with drop := true })
    notes := v.items.foldl (fun l it => nsInsert l it.prod) v.notes } s

end Sys2Proof.Machine
end

