-- ==== Sys2Proof/Machine/Operands.lean ====
section
/-! DEFINITION. The fields of a rod command word (Table 4-2), the catalogue of commands with the register fields each row
uses (Tables 4-6 to 4-8), and the operands a command reads (R167, R180-R182). -/
namespace Sys2Proof.Machine

/-! ### Fields of the command word -/
abbrev cwBits (w : CmdWord) (hi lo : Nat) : Nat := bitsOf w.toNat hi lo
abbrev cwUnit (w : CmdWord) : Nat := cwBits w 127 124
abbrev cwOp (w : CmdWord) : Nat := cwBits w 123 116
abbrev cwPen (w : CmdWord) : Bool := cwBits w 115 115 == 1
abbrev cwPneg (w : CmdWord) : Bool := cwBits w 114 114 == 1
abbrev cwPidx (w : CmdWord) : Nat := cwBits w 113 111
abbrev cwW0V (w : CmdWord) : Bool := cwBits w 110 110 == 1
abbrev cwW0 (w : CmdWord) : Nat := cwBits w 109 104
abbrev cwW1V (w : CmdWord) : Bool := cwBits w 103 103 == 1
abbrev cwW1 (w : CmdWord) : Nat := cwBits w 102 97
abbrev cwSV (w : CmdWord) : Bool := cwBits w 96 96 == 1
abbrev cwSG (w : CmdWord) : Nat := cwBits w 95 90
abbrev cwKeep0 (w : CmdWord) : Bool := cwBits w 89 89 == 1
abbrev cwKeep1 (w : CmdWord) : Bool := cwBits w 88 88 == 1
abbrev cwRsv (w : CmdWord) : Nat := cwBits w 87 80
abbrev cwD (w : CmdWord) : Nat := cwBits w 79 75
abbrev cwA (w : CmdWord) : Nat := cwBits w 74 70
abbrev cwB (w : CmdWord) : Nat := cwBits w 69 65
abbrev cwC (w : CmdWord) : Nat := cwBits w 64 60
abbrev cwMod (w : CmdWord) : Nat := cwBits w 59 48
abbrev cwImm (w : CmdWord) : Nat := cwBits w 47 0

/-- The low `n` bits of a field, sign-extended to 64 bits (R166). -/
def sext (n v : Nat) : Nat := unsigned 64 (signed n v)

/-- How a catalogue row uses a register field. -/
inductive Use where
  /-- Not used: must be zero. -/
  | non
  /-- An S register. -/
  | s
  /-- A loop counter or predicate: bits [4:3] must be zero (R179). -/
  | l
  /-- A predicate. -/
  | p
  /-- A vector register or stream slot. -/
  | v
  deriving DecidableEq, Repr

/-- A row of the command catalogue. `poison` marks rows whose S operands are addresses, lengths, counts, destination words
or compare operands (R182): 1 all of them, 2 only S[A]. -/
structure CatRow where
  unit : Nat
  op : Nat
  d : Use
  a : Use
  b : Use
  c : Use
  poison : Nat
  deriving DecidableEq, Repr

/-- Control commands (Table 4-6). -/
def catCtl : List CatRow := [
  ⟨0, 0x00, .non, .non, .non, .non, 0⟩, ⟨0, 0x01, .non, .non, .non, .non, 0⟩, ⟨0, 0x02, .non, .non, .non, .non, 0⟩,
  ⟨0, 0x03, .non, .s, .non, .non, 1⟩, ⟨0, 0x04, .s, .non, .non, .non, 0⟩, ⟨0, 0x05, .non, .non, .non, .non, 0⟩,
  ⟨0, 0x06, .non, .non, .non, .non, 0⟩, ⟨0, 0x08, .l, .s, .non, .non, 1⟩, ⟨0, 0x09, .l, .non, .non, .non, 0⟩,
  ⟨0, 0x0A, .s, .l, .non, .non, 0⟩, ⟨0, 0x10, .s, .non, .s, .non, 0⟩, ⟨0, 0x11, .s, .s, .s, .non, 0⟩,
  ⟨0, 0x12, .s, .s, .s, .non, 0⟩, ⟨0, 0x13, .s, .s, .s, .non, 0⟩, ⟨0, 0x14, .s, .s, .s, .non, 0⟩,
  ⟨0, 0x15, .s, .s, .s, .non, 0⟩, ⟨0, 0x16, .s, .s, .s, .non, 0⟩, ⟨0, 0x17, .s, .s, .s, .non, 0⟩,
  ⟨0, 0x18, .s, .s, .s, .non, 0⟩, ⟨0, 0x19, .s, .s, .s, .non, 0⟩, ⟨0, 0x1A, .s, .s, .s, .non, 0⟩,
  ⟨0, 0x1B, .s, .s, .s, .non, 0⟩, ⟨0, 0x1C, .s, .non, .non, .non, 0⟩, ⟨0, 0x20, .p, .s, .s, .non, 1⟩,
  ⟨0, 0x21, .p, .p, .p, .non, 0⟩, ⟨0, 0x28, .s, .s, .non, .non, 1⟩, ⟨0, 0x29, .non, .s, .s, .non, 2⟩]

/-- Unit commands (Tables 4-7 and 4-8). -/
def catUnits : List CatRow := [
  ⟨7, 0x00, .non, .non, .non, .non, 0⟩, ⟨7, 0x01, .non, .non, .non, .non, 0⟩, ⟨7, 0x02, .non, .non, .non, .non, 0⟩,
  ⟨7, 0x03, .non, .non, .non, .non, 0⟩, ⟨7, 0x04, .s, .non, .non, .non, 0⟩, ⟨7, 0x05, .non, .non, .non, .non, 0⟩,
  ⟨1, 0x01, .v, .s, .non, .non, 1⟩, ⟨1, 0x02, .v, .non, .non, .non, 0⟩, ⟨1, 0x03, .v, .non, .non, .non, 0⟩,
  ⟨1, 0x04, .s, .v, .non, .non, 0⟩, ⟨2, 0x01, .non, .s, .non, .non, 1⟩, ⟨2, 0x02, .non, .non, .non, .non, 0⟩,
  ⟨2, 0x03, .non, .s, .s, .s, 1⟩, ⟨3, 0x01, .v, .s, .non, .s, 1⟩, ⟨4, 0x01, .v, .s, .non, .non, 1⟩,
  ⟨4, 0x02, .non, .s, .v, .non, 1⟩, ⟨4, 0x03, .v, .v, .v, .v, 0⟩, ⟨4, 0x04, .v, .v, .non, .non, 0⟩,
  ⟨4, 0x05, .v, .v, .non, .non, 0⟩, ⟨4, 0x06, .v, .v, .non, .non, 0⟩, ⟨4, 0x07, .non, .s, .s, .s, 1⟩,
  ⟨4, 0x08, .s, .v, .non, .non, 0⟩, ⟨4, 0x09, .p, .v, .v, .non, 0⟩, ⟨4, 0x0A, .v, .v, .v, .v, 0⟩,
  ⟨5, 0x01, .s, .s, .s, .s, 1⟩, ⟨5, 0x02, .s, .s, .s, .non, 1⟩, ⟨5, 0x03, .s, .non, .non, .non, 0⟩,
  ⟨5, 0x04, .non, .non, .non, .non, 0⟩, ⟨6, 0x01, .non, .s, .non, .s, 1⟩, ⟨6, 0x02, .non, .s, .s, .s, 1⟩,
  ⟨6, 0x03, .s, .s, .non, .s, 1⟩, ⟨6, 0x04, .s, .non, .non, .s, 1⟩]

/-- The catalogue row of a command word. -/
def catRow (w : CmdWord) : Option CatRow :=
  (catCtl ++ catUnits).find? (fun r => r.unit == cwUnit w && r.op == cwOp w)

/-- A register field obeys its use: an unused one is zero, a predicate or loop counter has bits [4:3] zero. -/
def useOk (u : Use) (n : Nat) : Bool :=
  match u with
  | .non => n == 0
  | .l | .p => decide (n < 8)
  | .s | .v => true

/-- The word is a command of the catalogue with its reserved fields zero (R164, R179, R206); SCMP with a condition of 8-15
and FENCE with MOD[0] set are not (R197, R212). -/
def legal (w : CmdWord) : Bool :=
  match catRow w with
  | none => false
  | some r => cwRsv w == 0 && useOk r.d (cwD w) && useOk r.a (cwA w) && useOk r.b (cwB w) && useOk r.c (cwC w)
    && !(cwUnit w == 0 && cwOp w == 0x20 && decide (bitsOf (cwMod w) 4 1 ≥ 8))
    && !(cwUnit w == 7 && cwOp w == 0x02 && bitOf (cwMod w) 0)

/-- The second operand of a scalar operation reads S[B] when MOD[0] is 0; LSET reads S[A] when MOD[0] is 1. -/
def readsB (w : CmdWord) (r : CatRow) : Bool :=
  r.b == .s && !(r.unit == 0 && decide (0x10 ≤ r.op) && decide (r.op ≤ 0x20) && bitOf (cwMod w) 0)

/-- S[A] is read. -/
def readsA (w : CmdWord) (r : CatRow) : Bool :=
  r.a == .s && !(r.unit == 0 && r.op == 0x08 && !bitOf (cwMod w) 0)

/-- VOP SBCAST, which reads S[IMM[4:0]], captured at issue (Table 6-5). -/
def isSbcast (w : CmdWord) : Bool := cwUnit w == 4 && cwOp w == 3 && cwMod w % 256 == 0x1A

/-- The S registers a command reads. -/
def sReads (w : CmdWord) (r : CatRow) : List Nat :=
  (if readsA w r then [cwA w] else []) ++ (if readsB w r then [cwB w] else []) ++ (if r.c == .s then [cwC w] else [])
    ++ (if r.unit == 0 && r.op == 0x1C then [cwD w] else []) ++ (if isSbcast w then [cwImm w % 32] else [])

/-- The S destination is written: for MSEND only when MOD[11] is set. -/
def writesS (w : CmdWord) (r : CatRow) : Bool := r.d == .s && !(r.unit == 5 && r.op == 1 && !bitOf (cwMod w) 11)

/-- The predicates a command reads. -/
def pReads (w : CmdWord) (r : CatRow) : List Nat :=
  (if cwPen w then [cwPidx w] else []) ++ (if r.a == .p && !bitOf (cwMod w) 3 then [cwA w, cwB w] else [])

/-- Destinations written at completion rather than at issue are marked pending (R180). -/
def latePending (r : CatRow) : Bool := decide (r.unit ≠ 0)

/-- Element `n` of a list of S registers. -/
def sAt (q : SeqSt) (n : Nat) : SReg := (q.s[n]?).getD ⟨0, false⟩

/-- A predicate. -/
def pAt (q : SeqSt) (n : Nat) : Bool := (q.p[n]?).getD false

/-- A loop counter. -/
def lAt (q : SeqSt) (n : Nat) : Nat := ((q.l[n]?).getD 0).toNat

/-- A token's counter. -/
def tokAt (q : SeqSt) (n : Nat) : Nat := (q.tok[n]?).getD 0

/-- The S operands whose poison raises POISON_USE (R182). -/
def poisonReads (w : CmdWord) (r : CatRow) : List Nat :=
  match r.poison with
  | 1 => sReads w r
  | 2 => [cwA w]
  | _ => []

/-- X: the immediate, or S[B] with its poison. -/
def opX (w : CmdWord) (b : SReg) : SReg :=
  if bitOf (cwMod w) 0 then ⟨BitVec.ofNat 64 (sext 48 (cwImm w)), false⟩ else b

/-- The scratchpad address S[A] + sext(IMM[23:0]) of a unit command, modulo 2^64. -/
def spadAddr (w : CmdWord) (a : SReg) : Nat := (a.v.toNat + sext 24 (cwImm w)) % 2 ^ 64

end Sys2Proof.Machine
end

