-- ==== Sys2Proof/Machine/Flags.lean ====
section
/-! DEFINITION. The scalar operations of the control unit (Table 4-6) and the predicate and compare results they give. -/
namespace Sys2Proof.Machine

/-- A two's complement 64-bit value as an integer. -/
def sInt (v : DWord) : Int := v.toInt

/-- The value of a scalar operation by its OP code; arithmetic wraps modulo 2^64, shifts use X[5:0] (R211). -/
def scalarOp (op : Nat) (a x : DWord) : DWord :=
  match op with
  | 0x10 => x
  | 0x11 => a + x
  | 0x12 => a - x
  | 0x13 => a * x
  | 0x14 => a &&& x
  | 0x15 => a ||| x
  | 0x16 => a ^^^ x
  | 0x17 => a <<< (x.toNat % 64)
  | 0x18 => a >>> (x.toNat % 64)
  | 0x19 => a.sshiftRight (x.toNat % 64)
  | 0x1A => if sInt a ≤ sInt x then a else x
  | 0x1B => if sInt a ≤ sInt x then x else a
  | _ => x

/-- SCMP's conditions, MOD[4:1]: 0 EQ, 1 NE, 2 LT, 3 LE, 4 GT, 5 GE signed, 6 LTU, 7 GEU. -/
def scmp (c : Nat) (a x : DWord) : Bool :=
  match c with
  | 0 => a == x
  | 1 => a != x
  | 2 => decide (sInt a < sInt x)
  | 3 => decide (sInt a ≤ sInt x)
  | 4 => decide (sInt x < sInt a)
  | 5 => decide (sInt x ≤ sInt a)
  | 6 => decide (a.toNat < x.toNat)
  | _ => decide (x.toNat ≤ a.toNat)

/-- PLOG's functions, MOD[2:1]: 0 AND, 1 OR, 2 XOR, 3 A AND NOT B. -/
def plog (op : Nat) (a b : Bool) : Bool :=
  match op with
  | 0 => a && b
  | 1 => a || b
  | 2 => a != b
  | _ => a && !b

end Sys2Proof.Machine
end

