-- ==== Sys2Proof/Machine/Complete.lean ====
section
/-! DEFINITION. How a command completes (R171, R186-R189) and a program faults (R195): what issue, the units and the end of a program share. -/
namespace Sys2Proof.Machine

/-- Program state of rod i (Table 4-4): 0 IDLE, 1 RUN, 2 ENDING, 3 DONE, 4 PFAULT, 5 PAUSED. -/
def pstate (i : Nat) (s : State) : Nat := getF (seqP i) SEQ_PSTAT_PSTATE s

/-- Set the program state. -/
def setPstate (i v : Nat) (s : State) : State := setF (seqP i) SEQ_PSTAT_PSTATE v s

/-- Next PC. -/
def pcOf (i : Nat) (s : State) : Nat := getF (seqP i) SEQ_PC_PC s

/-- Queue of unit u (1-7). -/
def queueOf (q : SeqSt) (u : Nat) : List QCmd := (q.queues[u - 1]?).getD []

/-- The sequencer with unit u's queue replaced. -/
def withQueue (q : SeqSt) (u : Nat) (l : List QCmd) : SeqSt := { q with queues := listSet q.queues (u - 1) l }

/-- SEQ_QOCC from the queues. -/
def occWord (q : SeqSt) : Nat :=
  (List.range 7).foldl (fun a k => a + ((q.queues[k]?).getD []).length * 2 ^ (4 * k)) 0

/-- Store the sequencer and show its queue occupancy in SEQ_QOCC. -/
def putSeq (i : Nat) (q : SeqSt) (s : State) : State := setF (seqP i) SEQ_QOCC_OCC (occWord q) (setSeq i q s)

/-- A status word (R187). -/
def statusWord (status res : Nat) : SReg := ⟨BitVec.ofNat 64 (status * 2 ^ 56 + res % 2 ^ 56), false⟩

/-- A completion or a signal starts the time of R207 anew. -/
def restall (t : Nat) (q : SeqSt) : SeqSt := { q with stall := q.stall.map (fun e => (e.1, t)) }

/-- A program fault (R195): issue stops at `pc`, queued commands are discarded without signalling, blocked waits end with
STOPPED, PSTATE goes to ENDING. When a program that has faulted faults again before it has ended, the first fault's record stands and the waits
that have blocked since end with STOPPED too (DEDUCED, assumption log 110). -/
def programFault (i code unit pc : Nat) (s : State) : State :=
  let ps := pstate i s
  if ps == 1 || ps == 5 || ps == 2 then
    let q := seqOf i s
    let st := q.started.map (fun c =>
      if c.blocked then { c with blocked := false, done := true, status := 5, res := statusWord 5 0 } else c)
    let held : List Nat := (q.started.filter (fun c => c.blocked)).map (fun c => c.cmd.num)
    let s1 := dropResvs (fun r => match r with | .rod j n => j == i && held.contains n | .hub _ => false) s
    let s2 := setPstate i 2 (setF (seqP i) SEQ_STALL_ISSUE 0 (putSeq i { q with
      queues := List.replicate 7 [], started := st, stepReq := false, stall := none } s1))
    if getF (seqP i) SEQ_PSTAT_FAULT s = 0 then
      setF (seqP i) SEQ_PC_PC pc (setF (seqP i) SEQ_PSTAT_FUNIT unit (setF (seqP i) SEQ_PSTAT_FAULT code s2))
    else s2
  else s

/-- Signal a token (R175): at 255 it stays and TOKEN_OVF is raised, at the next PC to issue and with FUNIT 0 whoever signals (DEDUCED, assumption
log 105). -/
def signalTok (i t : Nat) (s : State) : State :=
  let q := seqOf i s
  if tokAt q t ≥ 255 then programFault i 6 0 (pcOf i s) s
  else setSeq i { q with tok := listSet q.tok t (tokAt q t + 1) } s

/-! ### Completion -/

/-- Store an S register. -/
def setS (q : SeqSt) (n : Nat) (r : SReg) : SeqSt := { q with s := listSet q.s n r }

/-- Store a predicate. -/
def setP (q : SeqSt) (n : Nat) (b : Bool) : SeqSt := { q with p := listSet q.p n b }

/-- Whether a command writes a status word to S[D]: SSTAT, MSEND with MOD[11], MRECV, KRING, KSTAT (R187). -/
def hasStatusWord (w : CmdWord) : Bool :=
  match cwUnit w, cwOp w with
  | 1, 4 => true
  | 5, 1 => bitOf (cwMod w) 11
  | 5, 2 => true
  | 6, 3 => true
  | 6, 4 => true
  | _, _ => false

/-- Completion of a command that has left its unit (R171, R186-R189): the S or P destination, LASTBAD and CMD_BAD, the signal,
and the fault BAD_OPERAND. `res` is S[D] or P[D]'s value; a command that ends otherwise than with OK or POISONED and has no
status word writes no destination. -/
def finish (i : Nat) (c : QCmd) (status : Nat) (res : SReg) (s : State) : State :=
  let q := seqOf i s
  let good : Bool := status == 0 || status == 4 || hasStatusWord c.word
  let q1 := match (if c.skip then none else catRow c.word) with
    | none => q
    | some r =>
      if writesS c.word r then
        { (if good then setS q (cwD c.word) res else q) with pendS := nsErase q.pendS (cwD c.word) }
      else if r.d == .p then
        { (if good then setP q (cwD c.word) (res.v != 0) else q) with pendP := nsErase q.pendP (cwD c.word) }
      else q
  let s1 := setSeq i (restall s.now q1) s
  let s2 := if status ≠ 0 ∧ status ≠ 4 ∧ ¬ hasStatusWord c.word then
      raise (seqP i) 22 (setF (seqP i) SEQ_LASTBAD_STATUS status (setF (seqP i) SEQ_LASTBAD_UNIT (cwUnit c.word)
        (setF (seqP i) SEQ_LASTBAD_PC c.pc s1)))
    else s1
  let s3 := if cwSV c.word then signalTok i (cwSG c.word) s2 else s2
  if status = 0x0A then programFault i 5 (cwUnit c.word) c.pc s3 else s3

/-- What a completion leaves in its unit's registers: OXA_SBUF and OXA_SWAPS (R241, OXA page), GOAT_STATE and GOAT_LAST (R264),
VEC_CMDS (R342). -/
def unitHook (i : Nat) (c : Started) (s : State) : State :=
  match cwUnit c.cmd.word, cwOp c.cmd.word with
  | 2, 1 =>
    if c.status = 0 ∨ c.status = 4 then
      bump (oxaP i) OXA_SWAPS_LOADS 1 (setF (oxaP i) OXA_SBUF_LOADING 0 (setF (oxaP i) OXA_SBUF_VALID 1 s))
    else s
  | 2, 2 => bump (oxaP i) OXA_SWAPS_SWAPS 1 s
  | 3, _ =>
    setF (goatP i) GOAT_LAST_STATUS c.status
      (setF (goatP i) GOAT_STATE_BUSY 0 (setF (goatP i) GOAT_STATE_BOUND 0 s))
  | 4, _ => bump64 (vecP i + 0x80) 1 s
  | _, _ => s

/-- A command that completes as it starts. -/
def finishNow (i : Nat) (c : QCmd) (status : Nat) (res : SReg) (s : State) : State :=
  finish i c status res (unitHook i ⟨c, true, status, res, false, 0, 0, 0, 0, 0, []⟩ s)

end Sys2Proof.Machine
end

