-- ==== Sys2Proof/Machine/Ends.lean ====
section
/-! DEFINITION. How work ends: streams and their records (R428, R435, R436), the Goat command bound to one (R275), what a stopped
program leaves (R221). -/
namespace Sys2Proof.Machine

/-! ### Streams -/

/-- Stream in slot k of rod i. -/
def strOf (i k : Nat) (s : State) : Option Str := alGet s.strms (i * 8 + k)

/-- Store a stream. -/
def setStr (i k : Nat) (v : Str) (s : State) : State := { s with strms := alSet s.strms (i * 8 + k) v }

/-- Fields of the CTL word (Table 8-3). -/
def Str.list (t : Str) : Bool := t.ctl % 4 == 1
def Str.pat (t : Str) : Nat := bitsOf t.ctl 2 2
def Str.tileMode (t : Str) : Bool := bitOf t.ctl 3
def Str.srcKind (t : Str) : Nat := bitsOf t.ctl 5 4
def Str.snkKind (t : Str) : Nat := bitsOf t.ctl 7 6
def Str.depth (t : Str) : Nat := bitsOf t.ctl 11 8 + 1
def Str.ttv (t : Str) : Bool := bitOf t.ctl 12
def Str.ttok (t : Str) : Nat := bitsOf t.ctl 18 13
def Str.save (t : Str) : Bool := bitOf t.ctl 19
def Str.elen (t : Str) : Nat := bitsOf t.ctl 47 32
def Str.tileE (t : Str) : Nat := bitsOf t.ctl 63 48
def Str.tb (t : Str) : Nat := t.tileE * t.elen
def Str.lcount (t : Str) : Nat := bitsOf t.src 63 48

/-- Counts of the five dimensions, those past NDIM being 1 (R412). -/
def Str.counts (t : Str) : List Nat :=
  let n := bitsOf t.ctl 26 24
  (List.range 5).map (fun k => if k < n then ((t.dims[k]?).getD (1, 0)).1 else 1)

/-- Number of list entries NENT. -/
def Str.nent (t : Str) : Nat := ((t.dims[0]?).getD (0, 0)).2 % 2 ^ 32

/-- Bytes of the stream, once known: an affine stream's at once, a list's when its last entry has been read (R412, R413). -/
def Str.total (t : Str) : Option Nat :=
  if t.list then
    (if t.ent0 + t.ents.length ≥ t.nent then some (t.base0 + (t.ents.map (·.2)).foldl (· + ·) 0) else none)
  else some (t.counts.foldl (· * ·) 1 * t.elen)

/-- Counters I0-I4 of element n; past the last element the counter of the last dimension is its COUNT (R435). -/
def counterList : List Nat → Nat → List Nat
  | [], _ => []
  | c :: t, n =>
    let last : Bool := t.all (· == 1)
    (if c = 0 then 0 else if last then n else n % c) :: counterList t (if c = 0 ∨ last then 0 else n / c)

/-- Entry index and offset in it of stream offset b, among the entries read. -/
def entryAt : List (Nat × Nat) → Nat → Nat → Nat → Nat × Nat
  | [], e, base, b => (e, b - base)
  | x :: t, e, base, b => if b < base + x.2 then (e, b - base) else entryAt t (e + 1) (base + x.2) b

/-- The 32 bytes of the saved-position record (Table 8-6). -/
def Str.record (t : Str) (status : Nat) : List Byte :=
  let cred := if t.tileMode then 0 else t.cred
  let tail := leBytes 4 cred ++ leBytes 4 (status % 256 + b2n t.list * 2 ^ 30 + (if status = 0 then 0 else 2 ^ 31))
  if t.list then
    let e := entryAt t.ents t.ent0 t.base0 t.pos
    leBytes 4 e.1 ++ leBytes 8 t.pos ++ leBytes 8 0 ++ leBytes 4 e.2 ++ tail
  else
    (counterList t.counts (t.pos / t.elen)).flatMap (leBytes 4) ++ leBytes 4 (t.pos % t.elen) ++ tail

/-- Delivered elements, or bytes in list form. -/
def Str.delivered (t : Str) : Nat := if t.list then t.pos else t.pos / t.elen

/-- Show DELIV in the slot's registers. -/
def showDeliv (i k : Nat) (t : Str) (s : State) : State :=
  let p := strmP i + 0x138 + 64 * k
  wrW (p + 4) (BitVec.ofNat 32 (t.delivered / 2 ^ 32 % 256)) (wrW p (BitVec.ofNat 32 t.delivered) s)

/-- Show the record in STRM_Sk_POS0-POS7: while halted it reads VALID, with status 0 (R435). -/
def showPos (i k : Nat) (rec : List Byte) (s : State) : State :=
  (List.range 8).foldl (fun u j =>
    wrW (strmP i + 0x110 + 64 * k + 4 * j) (BitVec.ofNat 32 (leNat ((rec.drop (4 * j)).take 4))) u) s

/-- The record shown during a halt. -/
def Str.haltRecord (t : Str) : List Byte := (t.record 0x100).take 28 ++ leBytes 4 (2 ^ 31 + b2n t.list * 2 ^ 30)

/-- Request slots in use by rod i, and those held by one slot. -/
def reqsOf (i : Nat) (s : State) : List PReq :=
  s.reqs.filter (fun r => match r.client with | .stream j _ _ _ => j == i | .orphan j _ _ => j == i)

def reqsOfSlot (i k : Nat) (s : State) : List PReq :=
  s.reqs.filter (fun r => match r.client with | .stream j l _ _ => j == i && l == k | .orphan _ _ _ => false)

/-- Unacknowledged writes of the stream that SRUN `num` runs in slot k, those that a halt has orphaned too (R422). -/
def writesOf (i k num : Nat) (s : State) : List PReq :=
  s.reqs.filter (fun r => r.write && (match r.client with | .stream j l n _ => j == i && l == k && n == num | .orphan j l n => j == i && l == k && n == num))

/-- Show INUSE, ORPHAN and OUTREQ. -/
def showReqs (i : Nat) (s : State) : State :=
  let l := reqsOf i s
  let s1 := setF (strmP i) STRM_REQ_INUSE l.length (setF (strmP i) STRM_REQ_ORPHAN
    (l.countP (fun r => match r.client with | .orphan _ _ _ => true | _ => false)) s)
  (List.range 8).foldl (fun t k => setF (strmP i) (STRM_S_RUN_OUTREQ k) (reqsOfSlot i k t).length t) s1

/-- The requests of a slot that `p` selects are orphaned (R428); one whose data the stream held is free, as these are discarded (R416). -/
def orphanReqs (i k : Nat) (p : PReq → Bool) (s : State) : State :=
  let mine (r : PReq) : Bool := match r.client with | .stream j l _ _ => j == i && l == k && p r | .orphan _ _ _ => false
  let left (c : Client) : Client := match c with | .stream j l n _ => .orphan j l n | o => o
  showReqs i { s with reqs := (s.reqs.filter (fun r => !(mine r && r.phase == 5))).map (fun r =>
    if mine r then { r with client := left r.client } else r) }

/-- End of the list entries read so far, in stream order. -/
def Str.known (t : Str) : Nat := t.base0 + (t.ents.map (·.2)).foldl (· + ·) 0

/-- The next position given the delivered intervals. -/
def posGo (got : List (Nat × Nat)) : Nat → Nat → Nat
  | 0, p => p
  | f + 1, p =>
    match got.find? (fun e => decide (e.1 ≤ p) && decide (p < e.1 + e.2)) with
    | some e => posGo got f (e.1 + e.2)
    | none => p

/-- Every byte from a to b - 1 has been delivered (R420). -/
def Str.delivers (t : Str) (a b : Nat) : Bool :=
  decide (b ≤ t.pos) || decide (b ≤ posGo t.got (t.got.length + 1) (max a t.pos))

/-- Read requests of slot k become free whose data have all been delivered (R416). -/
def freeReads (i k : Nat) (s : State) : State :=
  match strOf i k s with
  | none => s
  | some t =>
    showReqs i { s with reqs := s.reqs.filter (fun r =>
      match r.client with
      | .stream j l _ o => !(j == i && l == k && r.phase == 5 && t.delivers o (o + r.len))
      | .orphan _ _ _ => true) }

/-- A message item of the stream in slot k has been begun and not yet answered (R429). -/
def itemUnderWay (i k : Nat) (s : State) : Bool :=
  match strOf i k s with
  | none => false
  | some t => match startedBy i t.num s with
    | some c => !c.aux.isEmpty
    | none => false

/-- The GMV bound to slot k's stream ends with `status` when the stream ends early (R275). -/
def goatAbort (i k status : Nat) (s : State) : State :=
  match alGet s.goat i with
  | none => s
  | some x =>
    if x.slot ≠ k then s
    else
      let s1 := if x.pois then raise (goatP i) 16 s else s
      markDone i x.num status ⟨0, false⟩ { s1 with goat := alErase s1.goat i }

/-- The stream of a slot ends with `status` (R424, R428, R435, R436): its requests are orphaned, its record is shown and, with SAVE,
written after its descriptor, the slot is free, its SRUN's work is over. -/
def endStream (i k status : Nat) (s : State) : State :=
  match strOf i k s with
  | none => s
  | some t =>
    let rec_ := t.record status
    let s1 := orphanReqs i k (fun _ => true) { s with strms := alErase s.strms (i * 8 + k) }
    let s2 := if t.save then spadWrite i (t.desc + 64) rec_ [] s1 else s1
    let s3 := showDeliv i k t (showPos i k rec_ s2)
    let s4 := setF (strmP i) (STRM_S_LAST_STATUS k) status (setF (strmP i) (STRM_S_RUN_BUSY k) 0
      (setF (strmP i) (STRM_S_RUN_HALTED k) 0 s3))
    let s5 := if status = 3 then raise (strmP i) 19 s4 else s4
    let s6 := if status = 0 ∨ status = 4 then s5 else goatAbort i k status s5
    markDone i t.num status ⟨0, false⟩ s6

/-- The stream of slot k is told to stop: one that is ending, or that has begun an item, ends by STREAM_END, an item being answered first (R429);
any other ends with STOPPED at once. -/
def stopStream (i k : Nat) (s : State) : State :=
  match strOf i k s with
  | none => s
  | some t =>
    if t.fin.isSome || itemUnderWay i k s then setStr i k { t with fin := t.fin.or (some 5) } s else endStream i k 5 s

/-! ### Programs -/

/-- A started SRUN that outlives its program's stop: its stream is ending, or finishes an item for a rod of this device (R429); an item for
another device is waited for no longer (R679). -/
def outlives (i : Nat) (s : State) (c : Started) : Bool :=
  cwUnit c.cmd.word == 1 && cwOp c.cmd.word == 1
    && (match strOf i (cwD c.cmd.word % 8) s with
        | some t => t.num == c.cmd.num && (match c.aux with | [] => t.fin.isSome | _ => (c.aux[4]?).getD 0 == 0)
        | none => false)

/-- What rod i still has under way elsewhere when its commands but those of `keep` are gone: its queued reservations are withdrawn, answers to its
items and outcomes of its transactions are for nobody (R679). -/
def forgetRod (i : Nat) (keep : List Nat) (s : State) : State :=
  let mine (w : Issuer) : Bool := match w with | .send j n => j == i && !keep.contains n | .ring j _ _ => j == i | _ => false
  let drop (t : Txn) : Txn := if mine t.who then { t with who := .gone i } else t
  let s1 := dropResvs (fun r => match r with | .rod j n => j == i && !keep.contains n | .hub _ => false) s
  { s1 with
    flights := s1.flights.map (fun f => match f.src with
      | .rod j n => if j == i && !keep.contains n then { f with src := .hub 0 } else f
      | .hub _ => f)
    e2e := { s1.e2e with live := s1.e2e.live.map drop, wait := s1.e2e.wait.map drop } }

/-- Reservations queued at a rod that leaves service, and items on their way to it, are answered TARGET_OFF (R564, R679). -/
def rejectResvs (i : Nat) (s : State) : State :=
  let here (f : Flight) : Bool := decide (f.q / 32 = i) && decide (f.q < 0x8000)
  let s1 := (alGetD s.resvs i []).foldl (fun t r => answerSend r.src 0x82 t) { s with resvs := alErase s.resvs i }
  let s2 := (s1.flights.filter here).foldl (fun t f => answerSend f.src 0x82 t) s1
  { s2 with flights := s2.flights.filter (fun f => !here f) }

/-- A started command ends with STOPPED (R221): it completes like any other (R171, R188). -/
def stopStarted (i : Nat) (c : Started) (s : State) : State :=
  let x := { c with status := 5, res := statusWord 5 0 }
  finish i x.cmd 5 x.res (unitHook i x s)

/-- A rod's program ends: issue stops, queued commands are discarded without signalling, every started command but those of `kept` ends with
STOPPED, and PSTATE reads IDLE outside READY and DRAINING (R190, R221). A GMV that wrote poisoned entries says so (R277). -/
def stopProgramBut (kept : List Started) (i : Nat) (s : State) : State :=
  let q := seqOf i s
  let s1 := rejectResvs i (forgetRod i (kept.map (fun c => c.cmd.num)) s)
  let s2 := match alGet s1.goat i with
    | some x => if x.pois then raise (goatP i) 16 s1 else s1
    | none => s1
  let s3 := setF (oxaP i) OXA_SBUF_LOADING 0 { s2 with goat := alErase s2.goat i }
  let s4 := setF (seqP i) SEQ_PSTAT_PSTATE 0 (setF (seqP i) SEQ_STALL_ISSUE 0 (setF (seqP i) SEQ_QOCC_OCC 0
    (setSeq i { q with
      queues := List.replicate 7 [], started := kept, pendS := [], pendP := []
      stepReq := false, bpTaken := false, stall := none } s3)))
  (q.started.filter (fun c => !kept.contains c)).foldl (fun t c => stopStarted i c t) s4

/-- A rod's program ends with all that it has started, as in a fault. -/
def stopProgram (i : Nat) (s : State) : State := stopProgramBut [] i s

/-- A rod's program is stopped (R221): the streams that R429 keeps end by themselves. -/
def haltProgram (i : Nat) (s : State) : State := stopProgramBut ((seqOf i s).started.filter (outlives i s)) i s

end Sys2Proof.Machine
end

