-- ==== Sys2Proof/Machine/HqCore.lean ====
section
/-! DEFINITION. What a herd's host queues keep, and how an entry completes: its completion, the SID record, and the duplicates that
waited for it (R783, R786-R789). -/
namespace Sys2Proof.Machine

/-- Host queues of herd n. -/
def hqOf (n : Nat) (s : State) : HqSt := alGetD s.hqs n HqSt.rest

/-- Store them. -/
def setHq (n : Nat) (x : HqSt) (s : State) : State := { s with hqs := alPut HqSt.rest s.hqs n x }

/-- Herd and queue of an entry's key. -/
def keyHerd (k : Nat) : Nat := k % 1024 / 8
def keyQueue (k : Nat) : Nat := k % 8

/-- OP of an entry. -/
def HqEnt.op (e : HqEnt) : Nat := bitsOf e.hdr 55 48

/-- A 64-bit word of an entry's body: word 2 is the first. -/
def HqEnt.word (e : HqEnt) (j : Nat) : Nat := leNat ((e.body.drop (8 * (j - 2))).take 8)

/-- An item that the hub or a rod's own unit sends to a channel of a rod, with the sender fields `hdr` of its header: a reservation is to be
sent. -/
def sendItemAs (hdr rod ch : Nat) (body : List Byte) (s : State) : State :=
  { s with hubItems := s.hubItems ++ [⟨s.hubNext, rod, ch, hdr, body, [], 0, 0, none, none, s.now⟩], hubNext := s.hubNext + 1 }

/-- An item that the hub produces: HUB set and SROD 0 (R546). -/
def sendItem (rod ch : Nat) (body : List Byte) (s : State) : State := sendItemAs (2 ^ 31) rod ch body s

/-- A completion joins those to be written. -/
def hqPush (n : Nat) (c : HqCpl) (s : State) : State := setHq n { hqOf n s with out := (hqOf n s).out ++ [c] } s

/-- Add to the SID record of 256 (R786). -/
def sidAdd (r : SidRec) (l : List SidRec) : List SidRec := (l ++ [r]).drop (l.length + 1 - 256)

/-- An entry is answered from a recorded outcome (R787). -/
def hqDup (n : Nat) (e : HqEnt) (r : SidRec) (s : State) : State :=
  let s1 := setHq n { hqOf n s with ents := (hqOf n s).ents.filter (fun x => x.key != e.key) } s
  let s2 := hqPush n ⟨keyQueue e.key, false, e.sid, e.op, e.slot, r.status, r.res, r.vid, true, s.now⟩ s1
  raise (hqP n) 19 (bump (hqP n) HQ_DUPS_COUNT 1 s2)

/-- Entry `key` completes with a status, RESULT and words 4-7: entries that waited for its SID are answered with the same. -/
def hqOver (key status res : Nat) (vid : List Nat) (s : State) : State :=
  let n := keyHerd key
  match (hqOf n s).ents.find? (fun e => e.key == key) with
  | none => s
  | some e =>
    let r : SidRec := ⟨e.sid, status, res, vid⟩
    let keep : Bool := e.sid != 0 && status != 3 && status != 0x84
    let x := hqOf n s
    let s1 := setHq n { x with
      ents := x.ents.filter (fun y => y.key != key)
      recs := if keep then sidAdd r x.recs else x.recs } s
    let s2 := hqPush n ⟨keyQueue key, false, e.sid, e.op, e.slot, status, res, vid, false, s.now⟩ s1
    ((hqOf n s2).ents.filter (fun y => y.phase == 2 && y.sid == e.sid)).foldl (fun t y => hqDup n y r t) s2

/-- A slice note of a VIDEO entry (R783). -/
def hqNote (key : Nat) (vid : List Nat) (s : State) : State :=
  let n := keyHerd key
  match (hqOf n s).ents.find? (fun e => e.key == key) with
  | none => s
  | some e => hqPush n ⟨keyQueue key, true, e.sid, e.op, e.slot, 0, 0, vid, false, s.now⟩ s

/-- A queue's state register shows FLR values, and it holds nothing (R63, R809). -/
def hqClear (n q : Nat) (s : State) : State :=
  let x := hqOf n s
  setHq n { x with
    ents := x.ents.filter (fun e => keyQueue e.key != q), out := x.out.filter (fun c => c.q != q), used := alErase x.used q
    phase0 := nsErase x.phase0 q, sentAt := alErase x.sentAt q, due := nsErase x.due q, resync := nsErase x.resync q
    partials := alErase x.partials q } s

end Sys2Proof.Machine
end

