-- ==== Sys2Proof/Machine/KvCore.lean ====
section
/-! DEFINITION. What the KV units and the KVM keep (Tables 13-3, 13-6, R690, R691, R704), how their registers show it, and what happens to
handles and sequences when a rod, a herd or the KVM leaves service (R725, R729, R730). -/
namespace Sys2Proof.Machine

/-! ### A rod's handles and pool -/

/-- KV unit of rod i. -/
def kvOf (i : Nat) (s : State) : KvSt := alGetD s.kvs i ⟨[], []⟩

/-- Handle h of rod i. -/
def kvH (i h : Nat) (s : State) : KvH := alGetD (kvOf i s).hs h KvH.free

/-- Words of a handle entry (Table 13-3). -/
def KvH.word (x : KvH) (j : Nat) : Nat :=
  match j with
  | 0 => x.st % 8 + b2n x.evict * 8 + x.kf % 8 * 2 ^ 4 + x.dh % 16 * 2 ^ 7 + x.sink % 8 * 2 ^ 11 + x.recent % 256 * 2 ^ 14
      + x.decay % 256 * 2 ^ 22 + x.seqid % 2 ^ 32 * 2 ^ 32
  | 1 => x.head % 256 + x.budget % 65536 * 2 ^ 8 + x.qscale % 2 ^ 32 * 2 ^ 32
  | 2 => x.win % 2 ^ 32 + x.len % 2 ^ 32 * 2 ^ 32
  | 3 => x.nblk % 65536 + x.hslot % 65536 * 2 ^ 16 + x.tslot % 65536 * 2 ^ 32
  | 4 => x.nextLbn % 2 ^ 32 + x.lastSeg % 65536 * 2 ^ 32
  | 5 => x.lastPos % 2 ^ 32
  | 6 => x.fwdRod % 1024 + x.fwdH % 256 * 2 ^ 10
  | _ => x.evicted % 2 ^ 32

/-- A rod's load: the sum of max(NBLK, 1) over its open handles (R706). -/
def kvLoad (i : Nat) (s : State) : Nat :=
  (((kvOf i s).hs.filter (fun e => e.2.st == 1)).map (fun e => max e.2.nblk 1)).foldl (· + ·) 0

/-- Show a rod's pool, its selected handle and its load. -/
def showKv (i : Nat) (s : State) : State :=
  let k := kvOf i s
  let x := kvH i (getF (kvP i) KV_HSEL_HANDLE s) s
  let s1 := setF (kvP i) KV_POOL_FREE_FREE (getF (kvP i) KV_POOL_CFG_COUNT s - k.used.length)
    (setF (kvP i) KV_POOL_FREE_HANDLES k.hs.length s)
  let s2 := (List.range 16).foldl (fun t j => setF (kvP i) (KV_HW_WORD j) (x.word (j / 2) / 2 ^ (32 * (j % 2))) t) s1
  let p := kvmP (1 + i / 128)
  setF p (KVM_LOAD_LOAD (i % 128)) (kvLoad i s) (setF p (KVM_LOAD_HANDLES (i % 128)) (k.hs.countP (fun e => e.2.st == 1)) s2)

/-- Store a rod's KV unit. -/
def setKv (i : Nat) (k : KvSt) (s : State) : State := showKv i { s with kvs := alSet s.kvs i k }

/-- Store a handle; a free one is not listed. -/
def setKvH (i h : Nat) (x : KvH) (s : State) : State :=
  setKv i { kvOf i s with hs := if x.st = 0 then alErase (kvOf i s).hs h else alSet (kvOf i s).hs h x } s

/-- Lowest free slot of rod i's pool. -/
def kvFreeSlot (i : Nat) (s : State) : Option Nat :=
  (List.range (getF (kvP i) KV_POOL_CFG_COUNT s)).find? (fun k => !(kvOf i s).used.contains k)

/-- Lowest free handle of rod i. -/
def kvFreeHandle (i : Nat) (s : State) : Option Nat := (List.range 256).find? (fun h => (alGet (kvOf i s).hs h).isNone)

/-- Take and free a slot. -/
def kvTake (i slot : Nat) (s : State) : State := setKv i { kvOf i s with used := nsInsert (kvOf i s).used slot } s
def kvFreeSlots (i : Nat) (l : List Nat) (s : State) : State :=
  setKv i { kvOf i s with used := (kvOf i s).used.filter (fun k => !l.contains k) } s

/-! ### The KVM's records -/

/-- Show the KVM's counts and the pair that KVM_QSEQ and KVM_QSEL select. -/
def showKvm (s : State) : State :=
  let p := kvmP 0
  let l := s.kvm.seqs
  let n := (l.map (fun q => q.pairs.length)).foldl (· + ·) 0
  let s1 := setF p KVM_STAT_PAIRS n (setF p KVM_STAT_SEQS l.length s)
  let sel := match l.find? (fun q => q.herd == getF p KVM_QSEL_HERD s && q.seqid == getF p KVM_QSEQ_SEQID s) with
    | some (q : KvSeq) => q.pairs.find? (fun (x : KvPair) => x.head == getF p KVM_QSEL_HEAD s)
    | none => none
  wrW (p + 0xB8) (BitVec.ofNat 32 (match sel with
    | some x => 2 ^ 31 + x.st % 8 * 2 ^ 28 + x.rod % 1024 * 2 ^ 18 + x.h % 256 * 2 ^ 10
    | none => 0)) s1

/-- Store the KVM. -/
def setKvm (k : KvmSt) (s : State) : State := showKvm { s with kvm := k }

/-- A sequence. -/
def kvSeqOf (n q : Nat) (s : State) : Option KvSeq := s.kvm.seqs.find? (fun x => x.herd == n && x.seqid == q)

/-- WEIGHT of the herd whose function submitted an operation on resource 11 (R540, Table 10-5); PF0's own registers count as some weight above zero
(DESIGN CHOICE, assumption log 132). -/
def KvOp.weight (o : KvOp) (s : State) : Nat :=
  match o.entry with
  | some k => getF (herdP (keyHerd k)) (HERD_SHARE_WEIGHT 11) s
  | none => 1

/-- Change the pairs that `p` selects. -/
def updPairs (p : KvSeq → KvPair → Bool) (f : KvPair → KvPair) (s : State) : State :=
  setKvm { s.kvm with seqs := s.kvm.seqs.map (fun q => { q with pairs := q.pairs.map (fun x => if p q x then f x else x) }) } s

/-- An operation completes (R705): its tag and status are shown, or complete its queue entry. -/
def kvOpEnd (st : Nat) (o : KvOp) (s : State) : State :=
  let p := kvmP 0
  let s1 := setKvm { s.kvm with ops := s.kvm.ops.erase o } s
  let s2 := match o.entry with
    | some k => hqOver k 0 (st % 256 + o.tag % 256 * 256) [] s1
    | none =>
      setF p KVM_OPRES_BUSY (b2n (s1.kvm.ops.any (fun x => x.entry.isNone)))
        (setF p KVM_OPRES_STATUS st (setF p KVM_OPRES_TAG o.tag s1))
  let s3 := raise p 16 s2
  if st % 256 = 0 then s3 else raise p 20 s3

/-- The MOVE operation in progress completes. -/
def kvMoveOpEnd (st : Nat) (s : State) : State :=
  match s.kvm.ops.find? (fun o => o.runs) with
  | some o => kvOpEnd st o s
  | none => s

/-- Commands of rod i that a freeze holds may go on (R708, R722): their handle is looked at again. -/
def kvUnhold (i : Nat) (s : State) : State :=
  let q := seqOf i s
  setSeq i { q with started := q.started.map (fun c =>
    if bitsOf c.cmd.word.toNat 127 124 == 6 && !c.done && (c.aux[0]?).getD 0 == 8 then { c with aux := listSet c.aux 0 10 } else c) } s

/-- A move is abandoned (R709): the source handle returns to OPEN unless it is lost, the target is freed, the failure is counted. The
status of a MOVE operation that fails so is not stated: a free value. -/
def kvAbandon (m : KvMove) (s : State) : State :=
  let s1 := setKvm { s.kvm with moves := s.kvm.moves.erase m } s
  let x := kvH m.src m.srcH s1
  let s2 := if x.st = 2 then setKvH m.src m.srcH { x with st := 1, frozen := false } s1 else s1
  let y := kvH m.dst m.dstH s2
  let s3 := if y.st = 2 then setKvH m.dst m.dstH KvH.free s2 else s2
  let s4 := updPairs (fun q z => q.herd == m.herd && q.seqid == m.seqid && z.head == m.head && z.st == 2)
    (fun z => { z with st := 1 }) s3
  let s5 := kvUnhold m.src (bump (kvmP 0) KVM_MOVES_FAILED 1 s4)
  if m.op then
    let f := takeFree s5
    kvMoveOpEnd (f.1 % 256) f.2
  else s5

/-! ### Ends -/

/-- Rod i leaves READY or DRAINING (R725): its handles become LOST, and so do their pairs; moves it takes part in end. -/
def kvRodLost (i : Nat) (s : State) : State :=
  let k := kvOf i s
  if k.hs.isEmpty then s
  else
    let s1 := (s.kvm.moves.filter (fun m => m.src == i || m.dst == i)).foldl (fun t m => kvAbandon m t) s
    let k1 := kvOf i s1
    let s2 := setKv i { k1 with hs := k1.hs.map (fun e => (e.1, { e.2 with st := 4, frozen := false })) } s1
    let s3 := if k1.hs.isEmpty then s2 else raise (kvP i) 18 s2
    if s3.kvm.seqs.any (fun q => q.pairs.any (fun x => x.rod == i && x.st != 4)) then
      raise (kvmP 0) 18 (updPairs (fun _ x => x.rod == i) (fun x => { x with st := 4 }) s3)
    else s3

/-- A rod's STARTING (R729): every handle is free and the pool's free map is empty. -/
def kvRodStart (i : Nat) (s : State) : State := showKv i { s with kvs := alErase s.kvs i }

/-- A herd enters STOPPING (R725): its sequences are deleted and its moves abandoned. -/
def kvHerdStop (n : Nat) (s : State) : State :=
  let s1 := (s.kvm.moves.filter (fun m => m.herd == n)).foldl (fun t m => kvAbandon m t) s
  setKvm { s1.kvm with seqs := s1.kvm.seqs.filter (fun q => q.herd != n) } s1

/-- The KVM leaves READY: its moves are abandoned, operations complete with KVM_OFF, its records go (R730). -/
def kvmStop (s : State) : State :=
  let s1 := s.kvm.moves.foldl (fun t m => kvAbandon m t) s
  let s2 := s1.kvm.ops.foldl (fun t o => kvOpEnd 0x17 o t) s1
  setKvm { s2.kvm with seqs := [], moves := [] } s2

/-- Add a pair to the records. -/
def addPair (n q : Nat) (x : KvPair) (l : List KvSeq) : List KvSeq :=
  if l.any (fun z => z.herd == n && z.seqid == q) then
    l.map (fun z => if z.herd == n && z.seqid == q then { z with pairs := z.pairs ++ [x] } else z)
  else l ++ [⟨n, q, false, [x]⟩]

/-- Give every sequence a pin flag that nothing states. -/
def freePins (s : State) : List KvSeq × State :=
  s.kvm.seqs.foldl (fun r q =>
    let f := takeFree r.2
    (r.1 ++ [{ q with pin := bitOf f.1 0 }], f.2)) ([], s)

/-- The KVM rebuilds its records from the rods' handle tables (R730). A pin flag is in no handle table: it is a free value. -/
def kvmRebuild (s : State) : State :=
  let seqs := s.kvs.foldl (fun l e =>
    if isFree (seqP e.1) s then l
    else e.2.hs.foldl (fun l h =>
      if h.2.st = 1 ∨ h.2.st = 4 then addPair (ownerHerd (seqP e.1) s) h.2.seqid ⟨h.2.head, e.1, h.1, h.2.st⟩ l else l) l) []
  let r := freePins { s with kvm := { s.kvm with seqs := seqs } }
  setKvm { r.2.kvm with seqs := r.1 } r.2

end Sys2Proof.Machine
end

