-- ==== Sys2Proof/Machine/VpxCore.lean ====
section
/-! DEFINITION. What the video pipes keep: sessions and command blocks, how their registers show them, how a block completes (R739), how
sessions close (R761-R763, R770); and the end of a host queue's entries (R803). -/
namespace Sys2Proof.Machine

/-- Pipe v. -/
def vpOf (v : Nat) (s : State) : VPipe := alGetD s.pipes v .empty

/-- Fields of a session record (Table 14-3) and tensorizer profile (Table 14-6). -/
def VSess.word (x : VSess) (j : Nat) : Nat := (x.words[j]?).getD 0
def VSess.dir (x : VSess) : Nat := x.word 0 % 2
def VSess.gang (x : VSess) : Nat := bitsOf (x.word 0) 2 1
def VSess.lmode (x : VSess) : Nat := bitsOf (x.word 0) 5 4
def VSess.width (x : VSess) : Nat := bitsOf (x.word 0) 47 32
def VSess.height (x : VSess) : Nat := bitsOf (x.word 0) 63 48

/-- Pipes of a session opened on pipe v (R752). -/
def VSess.group (x : VSess) (v : Nat) : List Nat :=
  match x.gang with | 1 => [v, v + 1] | 2 => [0, 1, 2, 3] | _ => [v]

/-- Session k of pipe v. -/
def vsOf (v k : Nat) (s : State) : Option VSess := (vpOf v s).sess.find? (fun x => x.num == k)

/-- The running job of pipe u whose session takes pipe v's time (R752). -/
def vpRunFor (v u : Nat) (s : State) : Option VJob :=
  (vpOf u s).jobs.find? (fun j => j.phase == 1 && (u == v
    || (vpOf u s).sess.any (fun y => y.num == j.sess && y.herd == j.herd && (y.group u).contains v)))

/-- The job that takes pipe v's time. -/
def vpRun (v : Nat) (s : State) : Option VJob := ((List.range 4).filterMap (fun u => vpRunFor v u s)).head?

/-- Show a pipe's sessions and queue. -/
def showPipe (v : Nat) (s : State) : State :=
  let x := vpOf v s
  let p := vpxP v
  let run := vpRun v s
  let s1 := setF p VPX_STAT_OPEN x.sess.length (setF p VPX_STAT_QUEUED (x.jobs.countP (fun j => j.phase == 0))
    (setF p VPX_STAT_BUSY (b2n run.isSome) s))
  let s2 := match run with | some j => setF p VPX_STAT_RUN j.sess s1 | none => s1
  let lead := x.sess.any (fun y => y.gang != 0)
  let member := (List.range 4).any (fun u => u != v && (vpOf u s).sess.any (fun y => (y.group u).contains v))
  let s3 := setF p VPX_STAT_GANG (if lead then 1 else if member then 2 else 0) s2
  (List.range 16).foldl (fun t k =>
    let t1 := setF p (VPX_SESS_PENDING k) (x.jobs.countP (fun j => j.sess == k && j.phase == 0)) t
    match x.sess.find? (fun y => y.num == k) with
    | some y => setF p (VPX_SESS_OPEN k) 1 (setF p (VPX_SESS_DIR k) y.dir (setF p (VPX_SESS_GANG k) y.gang
        (setF p (VPX_SESS_HERD k) y.herd t1)))
    | none => setF p (VPX_SESS_OPEN k) 0 t1) s3

/-- Show every pipe. -/
def showPipes (s : State) : State := (List.range 4).foldl (fun t v => showPipe v t) s

/-- Store a pipe. -/
def setVp (v : Nat) (x : VPipe) (s : State) : State := showPipes { s with pipes := alSet s.pipes v x }

/-- The four words of a video completion of pipe v (R739); `note` says it is a slice note. -/
def VJob.completion (j : VJob) (v : Nat) (note : Bool) (now : Nat) : List Nat :=
  [j.st % 256 + b2n note * 2 ^ 8 + b2n j.nopic * 2 ^ 9 + b2n j.irap * 2 ^ 10 + b2n j.recovery * 2 ^ 11 + j.tag % 2 ^ 16 * 2 ^ 16
    + j.sess % 16 * 2 ^ 32 + v % 4 * 2 ^ 36,
   j.poc % 2 ^ 32 + j.index % 2 ^ 32 * 2 ^ 32,
   j.bytes % 2 ^ 32 + j.slice % 2 ^ 16 * 2 ^ 32 + j.rows % 2 ^ 16 * 2 ^ 48,
   now % 2 ^ 64]

/-- A word of a block's body. -/
def VJob.body (j : VJob) (i : Nat) : Nat := (j.words[i + 1]?).getD 0

/-- Send a completion or note to the session's rod (R739). -/
def vNotify (x : Option VSess) (ws : List Nat) (s : State) : State :=
  match x with
  | some y => if bitOf (y.word 5) 15 then sendItem (y.word 5 % 1024) (bitsOf (y.word 5) 14 10) (ws.flatMap (leBytes 8)) s else s
  | none => s

/-- The pipes of job j's session are free again from now on (R864). -/
def vpEnded (v : Nat) (j : VJob) (s : State) : State :=
  let g := match vsOf v j.sess s with | some y => if y.herd = j.herd then y.group v else [v] | none => [v]
  g.foldl (fun t u => { t with pipes := alSet t.pipes u { vpOf u t with ended := some t.now } }) s

/-- A command block completes: it leaves the pipe, its session shows the status, its queue entry and its rod get the completion. -/
def vComplete (v : Nat) (j : VJob) (s : State) : State :=
  let x := vpOf v s
  let ses := x.sess.find? (fun y => y.num == j.sess && y.herd == j.herd)
  let ws := j.completion v false s.now
  let s0 := if j.phase = 1 then vpEnded v j s else s
  let s1 := setVp v { vpOf v s0 with jobs := x.jobs.filter (fun k => k.key != j.key) } s0
  let s2 := if ses.isSome then setF (vpxP v) (VPX_SESS_LAST j.sess) j.st s1 else s1
  let s3 := if j.op = 3 ∨ j.op = 4 then raise (vpxP v) 16 (bump64 (vpxP v + 0x84) 1 s2) else s2
  let s4 := if j.st = 1 then bump (vpxP v) VPX_ERRS_CONCEAL 1 s3 else s3
  hqOver j.key (if j.st = 4 ∨ j.st = 5 then j.st else 0) 0 ws (vNotify ses ws s4)

/-- A command block completes with a status alone. -/
def vEnd (v st : Nat) (j : VJob) (s : State) : State := vComplete v { j with st := st } s

/-- Flush pipe v's syntax buffer (R441, R761). -/
def synFlush (v : Nat) (s : State) : State := setF (vpxP v) VPX_SYNBUF_USED 0 (flushQueue (0xA000 + v) s)

/-! ### Engines and stores (R733, R742, R743, R753) -/

/-- The lead pipe, job and session whose running job takes pipe v's time. -/
def vLead (v : Nat) (s : State) : Option (Nat × VJob × VSess) :=
  ((List.range 4).filterMap (fun u => (vpRunFor v u s).bind (fun j => (vsOf u j.sess s).map (fun y => (u, j, y))))).head?

/-- Pipe v's place in the group of a session that pipe u leads, and the number of pipes of the group (R753). -/
def VSess.place (y : VSess) (u v : Nat) : Nat × Nat := (v - u, (y.group u).length)

/-- The pipe whose pixel engine takes CTB row r of a session that pipe v leads (R753). -/
def VSess.pixelPipe (y : VSess) (v r : Nat) : Nat := v + r % (y.group v).length

/-- The tile, or WPP substream, that holds a CTB of a picture of `cols` CTB columns (R753). -/
def parUnit (p : VPar) (cols ctb : Nat) : Nat :=
  let c := ctb % max cols 1
  let r := ctb / max cols 1
  match p with
  | .one => 0
  | .wpp => r
  | .tiles cs rs => rs.countP (fun x => decide (x ≤ r)) * (cs.length + 1) + cs.countP (fun x => decide (x ≤ c))

/-- The pipe whose entropy engine takes tile or substream t (R753); without either all is the lead's. -/
def VSess.entropyPipe (y : VSess) (v : Nat) (p : VPar) (t : Nat) : Nat :=
  match p with | .one => v | _ => v + t % (y.group v).length

/-- Store what a pipe's engines have done. -/
def setEng (v : Nat) (x : VEng) (s : State) : State := { s with pipes := alSet s.pipes v { vpOf v s with eng := x } }

/-- Store a pipe's window store. -/
def setWin (v : Nat) (x : VStore) (s : State) : State := { s with pipes := alSet s.pipes v { vpOf v s with win := x } }

/-- The session that takes pipe v's time notes a CTB whose syntax record is bad (Table 14-8). -/
def synBad (v ctb : Nat) (s : State) : State :=
  match vLead v s with
  | some (u, j, _) =>
    { s with pipes := alSet s.pipes u { vpOf u s with
        jobs := (vpOf u s).jobs.map (fun z => if z.key == j.key then { z with syn := nsInsert z.syn ctb } else z) } }
  | none => s

/-- The row of the tensor under way on pipe v whose line state is bad (Table 14-8). -/
def lineBad (v row : Nat) (s : State) : State :=
  { s with pipes := alSet s.pipes v { vpOf v s with
      jobs := (vpOf v s).jobs.map (fun z => if z.op == 3 && z.body 3 != 0 && (z.phase == 1 || z.phase == 2)
        then { z with lines := nsInsert z.lines row } else z) } }

/-- DETAIL of Table 14-8. -/
def vpxDetail (k row : Nat) : Nat := k % 16 * 256 + row % 256

/-- DETAIL of a parity record of pipe v: the session whose job is on it, and the CTB row. -/
def vpxParityDetail (v row : Nat) (s : State) : Nat :=
  vpxDetail (match vLead v s with
    | some (_, j, _) => j.sess
    | none => match (vpOf v s).jobs.find? (fun z => z.phase == 2) with | some z => z.sess | none => 0) row

/-- In STARTING a pipe writes zero with good parity into its syntax buffer, window store and tensorizer lines (R769). -/
def vpxZero (v : Nat) (s : State) : State := setEng v ⟨[], []⟩ (setWin v .zero
  (setF (vpxP v) VPX_SYNBUF_USED 0 { s with framed := alErase s.framed (0xA000 + v) }))

/-- Session k of pipe v closes (R761): the jobs that arrived before the block `but` end with STOPPED. -/
def vClose (v k but : Nat) (s : State) : State :=
  match vsOf v k s with
  | none => s
  | some y =>
    let jobs := ((vpOf v s).jobs.takeWhile (fun j => j.key != but)).filter (fun j => j.sess == k && j.herd == y.herd)
    let run := jobs.any (fun j => j.phase == 1)
    let s1 := jobs.foldl (fun t j => vEnd v 5 j t) s
    let s2 := if run then (y.group v).foldl (fun t u => synFlush u t) s1 else s1
    let s3 := setVp v { vpOf v s2 with sess := (vpOf v s2).sess.filter (fun z => z.num != k) } s2
    raise (vpxP v) 19 s3

/-- The herd's sessions close on every pipe (R762, R770). -/
def vHerdStop (n : Nat) (s : State) : State :=
  (List.range 4).foldl (fun t v =>
    ((vpOf v t).sess.filter (fun y => y.herd == n)).foldl (fun u y => vClose v y.num (2 ^ 64) u) t) s

/-- Pipe v leaves service (R763): its sessions close, ganged ones on all their pipes, and what it holds ends with STOPPED. -/
def vPipeStop (v : Nat) (s : State) : State :=
  let s1 := (List.range 4).foldl (fun t u =>
    ((vpOf u t).sess.filter (fun y => (y.group u).contains v)).foldl (fun r y => vClose u y.num (2 ^ 64) r) t) s
  synFlush v ((vpOf v s1).jobs.foldl (fun t j => vEnd v 5 j t) s1)

/-! ### The end of a host queue -/

/-- A started entry ends with STOPPED (R803): what it had under way elsewhere is withdrawn, stopped, or for nobody. -/
def hqStopEnt (e : HqEnt) (s : State) : State :=
  let s1 := match e.op with
    | 1 =>
      let s0 := dropResvs (fun r => match r with
        | .hub id => s.hubItems.any (fun h => h.id == id && h.entry == some e.key && decide (h.phase < 3))
        | .rod _ _ => false) s
      { s0 with
        hubItems := (s0.hubItems.filter (fun h => !(h.entry == some e.key && decide (h.phase < 3)))).map (fun h =>
          if h.entry == some e.key then { h with entry := none } else h) }
    | 4 =>
      let mine (o : KvOp) : Bool := o.entry == some e.key
      let gone (t : State) : State := setKvm { t.kvm with ops := t.kvm.ops.filter (fun o => !mine o) } t
      if s.kvm.ops.any (fun o => mine o && o.runs) then
        gone ((s.kvm.moves.filter (fun m => m.op)).foldl (fun t m => kvAbandon { m with op := false } { t with
          kvm := { t.kvm with moves := t.kvm.moves.map (fun y => if y == m then { y with op := false } else y) } }) s)
      else gone s
    | 5 => (List.range 4).foldl (fun t v =>
        match (vpOf v t).jobs.find? (fun j => j.key == e.key) with
        | some j => vEnd v 5 j t
        | none => t) s
    | _ => s
  hqOver e.key 5 e.moved [] s1

/-- Queue q of herd n stops (R803): every fetched entry completes with STOPPED. -/
def hqStop (n q : Nat) (s : State) : State :=
  let mine := (hqOf n s).ents.filter (fun e => keyQueue e.key == q)
  let s1 := (mine.filter (fun e => e.phase != 1)).foldl (fun t e => hqOver e.key 5 0 [] t) s
  (mine.filter (fun e => e.phase == 1)).foldl (fun t e => hqStopEnt e t) s1

end Sys2Proof.Machine
end

