-- ==== Sys2Proof/Machine/Ops.lean ====
section
/-! DEFINITION. The shared operations of the block: life states and the pages that mirror them (R60-R77, Table 2-7,
Table 2-8), the end of work when a block stops (R221, R803), error records and their effects (R57-R59, R891-R902), and the
outcome of bring-up. -/
namespace Sys2Proof.Machine

/-- Outcome of a meaning that always gives a next state. -/
abbrev Res := Host.Outcome State Fault Refusal

/-! ### Life states -/

/-- Address of the state register of a page's own block. -/
def statOf (p : Nat) : Nat := p + 0xC

/-- Life state (Table 2-2) at the state register `a`: 0 OFF, 1 STARTING, 2 READY, 3 DRAINING, 4 STOPPING, 5 FAULTED. -/
def lifeAt (a : Nat) (s : State) : Nat := getF a LIFE_STATE s

/-- Life data of the block whose state register is at `a`. -/
def lifeX (a : Nat) (s : State) : LifeX := alGetD s.life a ⟨none, 0, false⟩

/-- Store the life data of a block. -/
def setLifeX (a : Nat) (x : LifeX) (s : State) : State := { s with life := alSet s.life a x }

/-- Rods of herd n's rectangle (R525), from HERD_GEOM. -/
def rectRods (x0 y0 w h : Nat) : List Nat :=
  (List.range h).flatMap (fun j => (List.range w).map (fun i => rodAt (x0 + i) (y0 + j)))

/-- The rods that herd n owns now (R43): those of its rectangle whose pages it owns. -/
def herdRods (n : Nat) (s : State) : List Nat :=
  (rectRods (getF (herdP n) HERD_GEOM_X0 s) (getF (herdP n) HERD_GEOM_Y0 s) (getF (herdP n) HERD_GEOM_W s)
    (getF (herdP n) HERD_GEOM_H s)).filter (fun i => !isFree (seqP i) s && ownerHerd (seqP i) s == n && decide (i < 1024))

/-- The herd that owns rod i, if any. -/
def herdOfRod (i : Nat) (s : State) : Option Nat := if isFree (seqP i) s then none else some (ownerHerd (seqP i) s)

/-- The rod's herd number. -/
def herdNo (i : Nat) (s : State) : Nat := (herdOfRod i s).getD 0

/-- Pages whose STATE mirrors the block at state register `a` (Table 2-7, Table 2-8). -/
def mirrors (a : Nat) (s : State) : List Nat :=
  if a % 0x1000 ≠ 0xC then []
  else match pageOf a with
    | some (.seq, i) => [oxaP i, goatP i, vecP i, spadP i, msgP i, kvP i, dbgP i]
    | some (.herd, n) => ((herdRods n s).filter (fun i => !s.failed.contains i)).flatMap (fun i => [beadP i, xlatP i])
    | some (.glb, _) => [thmP 0, thmP 1, hifP] ++ (List.range 64).map islP ++ (List.range 16).map rtrP
        ++ (List.range 16).map e2eP
    | some (.kvm, 0) => (List.range 15).map (fun j => kvmP (j + 1))
    | some (.vpx, v) => [venP v, tnzP v]
    | some (.mgs, 0) => (List.range 127).map (fun f => mgsP (f + 1))
    | _ => []

/-- Write a page's own STATE and raise LIFE_CHANGE when it changes (Table 2-1); the notifications held for a rod whose SEQ moves are looked
at again (R55). -/
def putState (a new : Nat) (s : State) : State :=
  if lifeAt a s = new then s
  else
    let s1 := raise (pageBase a) 0 (setF a LIFE_STATE new s)
    match pageOf a with
    | some (.seq, _) => recheckHeld s1
    | _ => s1

/-- Move a block to a life state, on its own register and on every page that mirrors it (R76). -/
def setState (a new : Nat) (s : State) : State :=
  (mirrors a s).foldl (fun t q => putState (statOf q) new t) (putState a new s)

/-- Write the tag and status of an evaluated command and raise CMD_DONE (R64). -/
def lifeDone (a tag status : Nat) (s : State) : State :=
  raise (pageBase a) 1 (setF a LIFE_LAST_STATUS status (setF a LIFE_LAST_TAG tag s))

/-! ### The outcome and losses -/

/-- GLB_READY.OUTCOME: 0 IN_PROGRESS, 1 READY, 2 READY_DEGRADED, 3 NOT_READY. -/
def outcome (s : State) : Nat := getF glbP GLB_READY_OUTCOME s

/-- Set the outcome; READY_CHANGE is raised when it changes, and GLB's STATE follows (Table 2-8). -/
def setOutcome (v : Nat) (s : State) : State :=
  if outcome s = v then s
  else setState (statOf glbP) (match v with | 0 => 1 | 3 => 5 | _ => 2) (raise glbP 16 (setF glbP GLB_READY_OUTCOME v s))

/-- A loss after the outcome turns READY into READY_DEGRADED (R941). -/
def degrade (s : State) : State := if outcome s = 1 then setOutcome 2 s else s

/-! ### The end of work -/

/-- What ends when the block at state register `a` leaves service. -/
def endWork (a : Nat) (s : State) : State :=
  match pageOf a with
  | some (.seq, i) => kvRodLost i (stopProgram i s)
  | some (.kvm, _) => kvmStop s
  | some (.vpx, v) => vPipeStop v s
  | some (.hq, n) =>
    let o := a % 0x1000
    if o < 0x100 then s else hqStop n ((o - 0x100) / 0x40) s
  | some (.strm, i) =>
    let o := a % 0x1000
    if o < 0x100 then s else endStream i ((o - 0x100) / 0x40) 5 s
  | some (.brg, n) => setF (brgP n) BRG_STAT_CARRYING 0 (setF (brgP n) BRG_STAT_RETRAIN 0 s)
  | some (.rlp, p) => setF (rlpP p) RLP_STAT_CARRYING 0 (setF (rlpP p) RLP_STAT_PHASE 0 s)
  | _ => s

/-- What ends when the block at `a` enters STOPPING: as when it leaves service, but a stream finishes what R429 has it finish. -/
def stopWork (a : Nat) (s : State) : State :=
  match pageOf a with
  | some (.seq, i) => kvRodLost i (haltProgram i s)
  | some (.strm, i) => if a % 0x1000 < 0x100 then s else stopStream i ((a % 0x1000 - 0x100) / 0x40) s
  | _ => endWork a s

/-! ### Block life reset -/

/-- Keys of the framed queues of the block at `a`: a rod's channels, a pipe's syntax buffer. -/
def ownQueues (a : Nat) : List Nat :=
  match pageOf a with
  | some (.seq, i) => (List.range 32).map (fun c => i * 32 + c)
  | some (.vpx, v) => [0xA000 + v]
  | _ => []

/-- The block's framed queues lose their flush notes (R442). -/
def dropNotes (a : Nat) (s : State) : State := (ownQueues a).foldl (fun t q => setFq q { fqOf q t with notes := [] } t) s

/-- The block life reset of the block at `a` (R9, R63): its own page, or a queue's or slot's own registers, take their FLR values but for
LAST_STATUS, LAST_TAG and PENDING_START; its framed queues lose their flush notes. -/
def lifeReset (a : Nat) (s : State) : State :=
  let p := pageBase a
  let st := lifeAt a s
  let keep := rdW a s &&& 0x00FFFF08
  if a % 0x1000 = 0xC then
    dropNotes a (setF a LIFE_STATE st (wrW a keep (rstPage .flr p s)))
  else
    let regs := (List.range 14).map (fun k => a + 4 + 4 * k)
    let s1 := regs.foldl (fun t x => rstReg .flr x t) s
    let s2 := { s1 with shadow := s1.shadow.filter (fun e => !regs.contains e.1) }
    let s3 := match pageOf a with
      | some (.hq, n) => hqClear n ((a % 0x1000 - 0x100) / 0x40) s2
      | _ => s2
    setF a LIFE_STATE st (wrW a keep s3)

/-- STOP without a drain, as R900 and R101 give it: an active block goes to STOPPING, its work ends, and its pending
start is cleared; an OFF or FAULTED block receives nothing. -/
def stopNow (a : Nat) (s : State) : State :=
  match lifeAt a s with
  | 1 | 2 | 3 => stopWork a (setState a 4 (setF a LIFE_PENDING_START 0 (setLifeX a ⟨none, 0, false⟩ s)))
  | 4 => setF a LIFE_PENDING_START 0 s
  | _ => s

/-- State register of stream slot k of rod i. -/
def slotStat (i k : Nat) : Nat := strmP i + 0x104 + 0x40 * k

/-- State register of queue q of herd n. -/
def queueStat (n q : Nat) : Nat := hqP n + 0x104 + 0x40 * q

/-- STOP a rod's STRM block and its slots. -/
def stopStrm (i : Nat) (s : State) : State :=
  stopNow (statOf (strmP i)) ((List.range 8).foldl (fun t k => stopNow (slotStat i k) t) s)

/-- STOP a rod and its children (R70, R72). -/
def stopRod (i : Nat) (s : State) : State := stopStrm i (stopNow (statOf (seqP i)) s)

/-- STOP a herd's queues and their page block. -/
def stopHq (n : Nat) (s : State) : State :=
  stopNow (statOf (hqP n)) ((List.range 8).foldl (fun t q => stopNow (queueStat n q) t) s)

/-- STOP every child of herd n (R70, R900). -/
def stopHerdKids (n : Nat) (s : State) : State :=
  stopHq n ((herdRods n s).foldl (fun t i => stopRod i t) s)

/-! ### Faults of blocks and herds -/

/-- A block enters FAULTED: FAULT_CAUSE takes the low byte of the code, and a pending start is cleared (R61, R65). -/
def faultBlock (a code : Nat) (s : State) : State :=
  endWork a (setState a 5 (setF a LIFE_FAULT_CAUSE (code % 256) (setF a LIFE_PENDING_START 0
    (setLifeX a ⟨none, 0, false⟩ s))))

/-- An error of severity UCC or FAT at the block at `a` (R61): an OFF block, and one that is FAULTED already, keep their state and cause. -/
def errBlock (a code : Nat) (s : State) : State :=
  match lifeAt a s with
  | 0 | 5 => s
  | _ => faultBlock a code s

/-- Herd n enters FAULTED with a child's code as its cause (R73) and stops its children without a drain (R900). A herd
that is OFF or already FAULTED keeps its state. -/
def faultHerd (n code : Nat) (s : State) : State :=
  let a := statOf (herdP n)
  match lifeAt a s with
  | 0 | 5 => s
  | _ => stopHerdKids n (setState a 5 (setF a LIFE_FAULT_CAUSE (code % 256) (setF a LIFE_PENDING_START 0
    (setLifeX a ⟨none, 0, false⟩ s))))

/-- Rod i has failed (R31, R105, R902): its pages report FAULTED until a reset maps it anew. -/
def failRod (i code : Nat) (s : State) : State :=
  let s1 := if lifeAt (statOf (seqP i)) s = 5 then s else faultBlock (statOf (seqP i)) code s
  let s2 := (List.range 8).foldl (fun t k => stopNow (slotStat i k) t) s1
  let s3 := if lifeAt (statOf (strmP i)) s2 = 5 then s2 else faultBlock (statOf (strmP i)) code s2
  let s4 := [beadP i, xlatP i, senseP i].foldl (fun t p => putState (statOf p) 5 t) s3
  let s5 := showIslPace (rodIsland i) { s4 with failed := nsInsert s4.failed i }
  if outcome s5 = 0 then s5 else degrade (setF glbP GLB_LOSS_RODS 1 s5)

/-- A logical rod that fails during bring-up after the rods are mapped becomes absent (R931); an island that has lost its last rod is held (R143). -/
def rodGone (i : Nat) (s : State) : State :=
  if rodAbsent i s then s
  else
    let f := GLB_ABSENT_ABSENT (rodY i)
    let s1 := setF glbP GLB_STATE_PRESENT (getF glbP GLB_STATE_PRESENT s - 1)
      (setF glbP f (getF glbP f s + 2 ^ rodX i) { s with failed := nsInsert s.failed i })
    showIslPace (rodIsland i) (holdIsl (rodIsland i) s1)

/-- Put the error in the page's records (R57, R58) and raise its events; answers whether it was recorded in
PG_ERR_FIRST or PG_ERR_NEXT (R896). -/
def recordRegs (p code sev detail : Nat) (s : State) : Bool × State :=
  let sevBit := match sev with | 1 => 6 | 2 => 7 | 3 => 8 | _ => 32
  let up (t : State) : State := if sevBit = 32 then t else raise p sevBit t
  if !flag p PG_ERR_FIRST_VALID s then
    (true, up (setF p PG_ERR_FIRST_VALID 1 (setF p PG_ERR_FIRST_DETAIL detail (setF p PG_ERR_FIRST_SEV sev
      (setF p PG_ERR_FIRST_CODE code s)))))
  else if !flag p PG_ERR_NEXT_VALID s then
    (true, up (setF p PG_ERR_NEXT_VALID 1 (setF p PG_ERR_NEXT_SEV sev (setF p PG_ERR_NEXT_CODE code
      { s with nextDetail := alSet s.nextDetail p detail }))))
  else
    let s1 := bump p PG_ERR_NEXT_MORE 1 s
    let hi := sev > getF p PG_ERR_NEXT_SEV s
    let s2 := if hi then setF p PG_ERR_NEXT_SEV sev (setF p PG_ERR_NEXT_CODE code
      { s1 with nextDetail := alSet s1.nextDetail p detail }) else s1
    (decide hi, up (raise p 9 s2))

/-- DATA of a KIND 1 record (Table 18-2). -/
def errData (p before after more : Nat) (summary recorded pois : Bool) (loc : Nat) (aff : Option Nat) (s : State) :
    List Byte :=
  let own := if isFree p s || isGlobal p s then 128 + getF p PG_OWNER_HERD s else getF p PG_OWNER_HERD s
  leBytes 4 (getF p PG_ERR_CNT_COUNT s) ++ leBytes 1 (before + after * 16) ++ leBytes 1 own
    ++ leBytes 1 (b2n summary + 2 * b2n (!recorded) + 4 * b2n pois) ++ leBytes 1 more ++ leBytes 8 loc
    ++ leBytes 2 (match aff with | some n => n + 0x8000 | none => 0) ++ List.replicate 10 0

/-- The effects of a FAT error (R894) beside its record: a herd that is FAULTED already keeps its cause and records PKG_FATAL too (R916). -/
def fatEffects (p code : Nat) (s : State) : State :=
  let s1 := if flag glbP GLB_FATAL_VALID s then s else
    setF glbP GLB_FATAL_VALID 1 (setF glbP GLB_FATAL_CODE code (setF glbP GLB_FATAL_PAGE_PAGE p s))
  let s2 := bump glbP GLB_FATAL_COUNT 1 s1
  let s3 := setState (statOf glbP) 5 (setOutcome 3 (setF glbP GLB_LOSS_NR_CAUSE 3 s2))
  let s4 := (List.range 128).foldl (fun t n =>
    if lifeAt (statOf (herdP n)) t = 0 then t
    else
      let b := lifeAt (statOf (herdP n)) t
      let r := recordRegs (herdP n) 0x4002 2 0 t
      let u := faultHerd n 0x4002 r.2
      bmcEvent 2 0x4002 (tally 1 0 0x4002 (herdP n) 2 (errData (herdP n) b (lifeAt (statOf (herdP n)) u)
        (getF (herdP n) PG_ERR_NEXT_MORE u) false r.1 false (n + code * 65536) (if b = 5 then none else some n) u) u)) s3
  emit (.aer 0 1) (bmcEvent 3 code { s4 with fatal := nsInsert s4.fatal code })

/-- Blocks that an error of severity UCC or FAT on page `p` puts in FAULTED by itself (R61, R228, R893): the block that
owns the page's life cycle, but not the herd behind BEAD and XLAT pages, which goes FAULTED as a herd. -/
def ownBlock (p : Nat) : Option Nat :=
  match pageOf p with
  | some (.strm, i) => some (statOf (strmP i))
  | some (.bead, _) | some (.xlat, _) => none
  | some (.herd, _) => none
  | some (.seq, i) | some (.oxa, i) | some (.goat, i) | some (.vec, i) | some (.spad, i) | some (.msg, i)
  | some (.kv, i) | some (.dbg, i) => some (statOf (seqP i))
  | some (.brg, n) => some (statOf (brgP n))
  | some (.rlp, n) => some (statOf (rlpP n))
  | some (.vpx, v) | some (.ven, v) | some (.tnz, v) => some (statOf (vpxP v))
  | some (.hq, n) => some (statOf (hqP n))
  | some (.kvm, _) => some (statOf (kvmP 0))
  | _ => none

/-- The herd of a herd-owned page. -/
def pageHerd (p : Nat) (s : State) : Option Nat :=
  match pageOf p with
  | some (.hq, n) => some n
  | some (.herd, n) => some n
  | some (k, i) => if k.isRod then herdOfRod i s else none
  | none => none

/-- UCC codes that do not count towards a failed rod (R902). -/
def uccExempt (code : Nat) : Bool := code == 0x1007 || code == 0x1804 || code == 0x1805

/-- A rod that records its second counted UCC within 60 s has failed (R902); during bring-up, its first makes it absent (R931). -/
def countUcc (p code : Nat) (s : State) : State :=
  match pageOf p with
  | some (k, i) =>
    if k.isRod && outcome s == 0 && rodsMapped s then rodGone i s
    else if k.isRod && !uccExempt code then
      let s1 := { s with lastUcc := alSet s.lastUcc i s.now }
      match alGet s.lastUcc i with
      | some t => if s.now - t ≤ 60000000000 then failRod i code s1 else s1
      | none => s1
    else s
  | none => s

/-- A rod's SEQ block meets an error of severity UCC or FAT; a rod whose STARTING ends so has failed (R902). -/
def errSeq (i code : Nat) (s : State) : State :=
  let a := statOf (seqP i)
  if lifeAt a s = 1 then failRod i code (errBlock a code s) else errBlock a code s

/-- The same at any block; a rod goes FAULTED with its stream engine (Table 8-9). -/
def errOwn (a code : Nat) (s : State) : State :=
  match pageOf a with
  | some (.seq, i) => errSeq i code s
  | some (.strm, i) => errSeq i code (errBlock a code s)
  | _ => errBlock a code s

/-- A page's own life state, before and after an error (Table 18-2 STATE). -/
def pageState (p : Nat) (s : State) : Nat := lifeAt (statOf p) s

/-- An error of a UCC or lower severity whose UCC effect falls on the herds `herds` and, when `self`, on the recording
block (R893, R896-R898). One record is written for each herd put in FAULTED, or one in all. -/
def recordWith (p code sev detail loc : Nat) (pois self : Bool) (herds : List Nat) (s : State) : State :=
  let before := pageState p s
  let cnt0 := getF p PG_ERR_CNT_COUNT s
  let s0 := if sev = 0 then bump p PG_ERR_CNT_COUNT 1 s else s
  let cnt := getF p PG_ERR_CNT_COUNT s0
  let hit : Bool := sev == 0 && cnt != cnt0 && cnt % 2 ^ getF p PG_ERR_CNT_THRESH s0 == 0
  let s1 := if hit then raise p 5 s0 else s0
  let summary : Bool := hit && (match alGet s1.summaries p with | some t => decide (s1.now - t ≥ 10000000) | none => true)
  let s2 := if summary then { s1 with summaries := alSet s1.summaries p s1.now } else s1
  let (recd, s3) := recordRegs p code sev detail s2
  let hit' := if sev ≥ 2 then herds.filter (fun n => lifeAt (statOf (herdP n)) s3 != 0 && lifeAt (statOf (herdP n)) s3 != 5)
    else []
  let s4 := if sev = 2 then countUcc p code s3 else s3
  let s5 := if sev ≥ 2 && self then (match ownBlock p with | some a => errOwn a code s4 | none => s4) else s4
  let s6 := if sev ≥ 2 then herds.foldl (fun t n => faultHerd n code t) s5 else s5
  let mk (aff : Option Nat) (t : State) : State :=
    tally 1 0 code p (sev + detail % 4096 * 4)
      (errData p before (pageState p t) (getF p PG_ERR_NEXT_MORE t) summary recd pois loc aff t) t
  let s7 :=
    if recd || summary || sev ≥ 2 then
      match hit' with
      | [] => mk none s6
      | l => l.foldl (fun t n => mk (some n) t) s6
    else s6
  if sev = 2 then bmcEvent 2 code s7 else s7

/-- Record an error on page `p` with its severity's effects (R891-R899). -/
def recordErr (p code sev detail loc : Nat) (pois : Bool) (s : State) : State :=
  let s1 := recordWith p code sev detail loc pois true ((pageHerd p s).toList) s
  if sev = 3 then fatEffects p code s1 else s1

/-- Record a CE. -/
def recordCE (p code detail loc : Nat) (s : State) : State := recordErr p code 0 detail loc false s

/-- Move PG_ERR_NEXT into PG_ERR_FIRST (R59). PG_ERR_NEXT has no DETAIL field and the spec does not say what PG_ERR_FIRST.DETAIL reads then:
DESIGN CHOICE (assumption log 98): the DETAIL of the error that moves, which State.nextDetail keeps. -/
def clearFirst (p : Nat) (s : State) : State :=
  let d := alGetD s.nextDetail p 0
  let v := getF p PG_ERR_NEXT_VALID s
  let first := v * 2 ^ 31 + (if v = 1 then d % 4096 * 2 ^ 18 + getF p PG_ERR_NEXT_SEV s * 65536 + getF p PG_ERR_NEXT_CODE s else 0)
  { wrW (p + 0x24) 0 (wrW (p + 0x20) (BitVec.ofNat 32 first) s) with nextDetail := alErase s.nextDetail p }

end Sys2Proof.Machine
end

