-- ==== Sys2Proof/Machine/RegWrite.lean ====
section
/-! DEFINITION. A BAR0 write that reaches its page, and how a written value enters a register's fields by their access types
(R6, R7, R28, R47, R88, R95, R106). -/
namespace Sys2Proof.Machine

/-- A BAR0 write by function `fn` to the register at `a` that reaches its page: reserved offsets and hidden rod pages ignore
it (R28, R88, R106), a function in D3hot accepts none (R811), and a function that does not own the page raises DENIAL (R7). -/
def barWrite (fn a : Nat) (k : State → State) (s : State) : State :=
  let p := pageBase a
  if (fnOf fn s).d3 || (regSpec a).isNone || !pageLive p s then s
  else if !owns fn p s then raise p 2 s
  else k s

/-- The state register whose OFF frees the "OFF only" fields of the register at `a`: the queue's or slot's own, or the page's. -/
def offStat (a : Nat) : Nat :=
  match pageOf a with
  | some (.hq, _) => if 0x100 ≤ a % 0x1000 ∧ a % 0x1000 < 0x300 then a / 0x40 * 0x40 + 4 else pageBase a + 0xC
  | _ => pageBase a + 0xC

/-- A field after a write. -/
def applyField (locked off : Bool) (v : Nat) (old : Nat) (f : FSpec) : Nat :=
  let w := bitsOf v f.hi f.lo
  match f.acc with
  | .ro | .wo => old
  | .rw | .rws => if f.offOnly && !off then old else setBits old f.hi f.lo w
  | .rwl => if locked || (f.offOnly && !off) then old else setBits old f.hi f.lo w
  | .w1c => setBits old f.hi f.lo (bitsOf old f.hi f.lo - (bitsOf old f.hi f.lo &&& w))
  | .w1s => setBits old f.hi f.lo (bitsOf old f.hi f.lo ||| w)

/-- A register's value after a write of `v`. -/
def applyFields (locked off : Bool) (v : Nat) (fl : List FSpec) (old : Nat) : Nat :=
  fl.foldl (applyField locked off v) old

/-- A write of `v` to the register at `a` under its access types: RWL fields of a locked page keep their value and the page
raises DENIAL (R47); OFF-only fields keep theirs outside OFF, and a different value raises STATE_REJECT (R95). -/
def writeReg (a v : Nat) (s : State) : State :=
  match regSpec a with
  | none => s
  | some r =>
    let p := pageBase a
    let locked := flag p PG_LOCK_LOCKED s
    let off := lifeAt (offStat a) s == 0
    let old := (rdW a s).toNat
    let s1 := wrW a (BitVec.ofNat 32 (applyFields locked off v r.fields old)) s
    let s2 := if locked && r.fields.any (fun f => f.acc = .rwl) then raise p 2 s1 else s1
    if !off && r.fields.any (fun f => f.offOnly && bitsOf v f.hi f.lo != bitsOf old f.hi f.lo) then raise p 3 s2 else s2

/-- The value that a write to the _HI register at `a` + 4 commits with the shadow of _LO at `a` (R37). -/
def commitVal (a v : Nat) (s : State) : Nat := (alGetD s.shadow a (rdW a s)).toNat + v % 2 ^ 32 * 2 ^ 32

/-- A lock keeps the register at `a`, which has RWL fields, as it is (R6, R47). -/
def lockHolds (a : Nat) (s : State) : Bool :=
  flag (pageBase a) PG_LOCK_LOCKED s && (match regSpec a with | some r => r.fields.any (fun f => f.acc = .rwl) | none => false)

/-- A write to a _LO register goes into its shadow (R37); of an RWL pair on a locked page it is ignored with DENIAL (R6, R47). -/
def writeShadow (a v : Nat) (s : State) : State :=
  if lockHolds a s then raise (pageBase a) 2 s else { s with shadow := alSet s.shadow a (BitVec.ofNat 32 v) }

/-- A write to _HI commits both halves as one value (R37); of an RWL pair on a locked page it is ignored with DENIAL, and the shadow stays. -/
def writeHi (a v : Nat) (s : State) : State :=
  let lo := a - 4
  if lockHolds a s then raise (pageBase a) 2 s
  else
    let c := commitVal lo v s
    let s1 := writeReg lo (c % 2 ^ 32) { s with shadow := alErase s.shadow lo }
    writeReg a v s1

end Sys2Proof.Machine
end

