-- ==== Sys2Proof/Machine/Spad.lean ====
section
/-! DEFINITION. What a unit that reads scratchpad bytes meets: parity failures (Table 7-6). -/
namespace Sys2Proof.Machine

/-- A read of `n` bytes from `a` meets the bytes whose parity fails: SPAD_ERRADDR holds the last, SPAD_PERR counts them,
SPAD_PARITY is recorded and PARITY raised (Table 7-6). -/
def spadSeen (i a n : Nat) (s : State) : State :=
  (List.range n).foldl (fun t k =>
    if t.spadPar.contains (spadKey i (a + k)) then
      let x := a + k
      recordErr (spadP i) 0x1501 1 (x / 512) x true (raise (spadP i) 16 (bump (spadP i) SPAD_PERR_COUNT 1
        (setF (spadP i) SPAD_ERRADDR_VALID 1 (setF (spadP i) SPAD_ERRADDR_ADDR x t))))
    else t) s

/-- An accumulate or a VACC read meets an entry whose parity fails: ACC_PARITY, with the entry in OXA_ACCERR (Table 5-7). -/
def accSeen (i e : Nat) (s : State) : State :=
  if s.accPar.contains (i * 0x4000 + e) then
    recordErr (oxaP i) 0x1102 1 (e / 4) e true (bump (oxaP i) OXA_ACCERR_COUNT 1 (setF (oxaP i) OXA_ACCERR_ENTRY e s))
  else s

end Sys2Proof.Machine
end

