-- ==== Sys2Proof/Machine/Bead.lean ====
section
/-! DEFINITION. The bead column: the home controller with its cache, decodes and their upkeep (R361-R383), regions and their
classes (R373-R377), access to bytes and sectors (R367, R370), and the zero-fill (R395). -/
namespace Sys2Proof.Machine

/-- Bytes of a rod's bead memory (R347). -/
def beadSize : Nat := 0x6000000

/-- Column data of rod i. -/
def beadOf (i : Nat) (s : State) : BeadSt := alGetD s.beads i BeadSt.empty

/-- Store the column data of rod i. -/
def setBead (i : Nat) (b : BeadSt) (s : State) : State := { s with beads := alSet s.beads i b }

/-- Calibration state of channel c of rod i. -/
def calOf (i c : Nat) (s : State) : Cal := alGetD s.cals (i * 2 + c) ⟨false, false, false, 0, false, 0⟩

/-- Store it. -/
def setCal (i c : Nat) (x : Cal) (s : State) : State :=
  { s with cals := alPut ⟨false, false, false, 0, false, 0⟩ s.cals (i * 2 + c) x }

/-- The channel holds its requests (R135, R398). -/
def chanHeld (i c : Nat) (s : State) : Bool := (calOf i c s).busy || (calOf i c s).retrain

/-- Channel of page q (R348). -/
def pageChan (q : Nat) : Nat := q % 2

/-- Bead and row of page q: its physical place while it is not retired (R348). -/
def pageBead (q : Nat) : Nat := 4 * (q % 2) + q / 2 / 6144
def pageRow (q : Nat) : Nat := q / 2 % 6144

/-- Region of page q (R349). -/
def pageRegion (q : Nat) : Nat := q / 512

/-- CLASS and SWEEP of region r in BEAD_RCLASS. -/
def rclassF (r : Nat) : Field := ⟨0x088 + 4 * (r / 8), 4 * (r % 8) + 2, 4 * (r % 8)⟩
def rsweepF (r : Nat) : Field := ⟨0x088 + 4 * (r / 8), 4 * (r % 8) + 3, 4 * (r % 8) + 3⟩

/-- Class in force of region r of rod i. -/
def regionClass (i r : Nat) (s : State) : Nat := getF (beadP i) (rclassF r) s

/-- Refresh multiplier of bead k: its temperature band (R371). -/
def beadMult (i k : Nat) (s : State) : Nat := getF (beadP i) ⟨0x0C0, 2 * k + 1, 2 * k⟩ s

/-- Temperature floor of region r: that of the hotter of its two beads, which hold its first two pages (R349, R373, Table 7-5). -/
def tempFloor (i r : Nat) (s : State) : Nat :=
  max (beadMult i (pageBead (512 * r)) s) (beadMult i (pageBead (512 * r + 1)) s)

/-- Policy floor (R373): THM_GOAL.CODE_FLOOR of the last plan (R867); 5-7 count as 4. -/
def policyFloor (s : State) : Nat := min 4 (bitsOf s.thm.goal 6 4)

/-- Effective floor of region r. -/
def effFloor (i r : Nat) (s : State) : Nat := max (policyFloor s) (tempFloor i r s)

/-- Class in the stored header of a page that has none of its own: its region's, or the region's old one during a sweep (R377). -/
def wideClass (i q : Nat) (s : State) : Nat :=
  (alGet (beadOf i s).sweepOld (pageRegion q)).getD (regionClass i (pageRegion q) s)

/-- Class in page q's stored header. -/
def storedClass (i q : Nat) (s : State) : Nat := (alGet (beadOf i s).hdr q).getD (wideClass i q s)

/-- Page q's stored header names class c. -/
def putHdr (i q c : Nat) (s : State) : State :=
  setBead i { beadOf i s with hdr := if wideClass i q s = c then alErase (beadOf i s).hdr q else alSet (beadOf i s).hdr q c } s

/-- Class of page q: that at which it is cached, or its stored one. -/
def pageClass (i q : Nat) (s : State) : Nat :=
  match (beadOf i s).cache.find? (fun c => c.q == q) with
  | some c => c.cls
  | none => storedClass i q s

/-- A region changes class: a recode sweep starts, resident pages are recoded in the cache, CLASS_CHANGE is raised (R377). A change counts for
the one that R374 allows in a window, unless a rise of the `floor` makes it. -/
def setRegionClass (i r c : Nat) (floor : Bool) (s : State) : State :=
  let old := regionClass i r s
  if old = c then s
  else
    let b := beadOf i s
    let b1 := { b with
      cache := b.cache.map (fun p => if pageRegion p.q = r then { p with cls := c, spare := true } else p)
      sweepOld := match alGet b.sweepOld r with | some _ => b.sweepOld | none => alSet b.sweepOld r old
      asChanged := if floor then b.asChanged else nsInsert b.asChanged r
      asSince := alSet b.asSince r s.now }
    raise (beadP i) 16 (setF (beadP i) (rsweepF r) 1 (setF (beadP i) (rclassF r) c (setBead i b1 s)))

/-- Show the floors in BEAD_FLOOR and raise every region below its own (R373). -/
def applyFloors (i : Nat) (s : State) : State :=
  let temps := (List.range 96).map (fun r => tempFloor i r s)
  let t := temps.foldl max 0
  let s1 := setF (beadP i) BEAD_FLOOR_EFFECTIVE (max t (policyFloor s)) (setF (beadP i) BEAD_FLOOR_TEMP t
    (setF (beadP i) BEAD_FLOOR_POLICY (policyFloor s) s))
  (List.range 96).foldl (fun u r => if regionClass i r u < effFloor i r u then setRegionClass i r (effFloor i r u) true u else u) s1

/-- Auto-strengthen works on this rod (R374). -/
def asOn (i : Nat) (s : State) : Bool := !flag (beadP i) BEAD_CODE_CTL_MANUAL s && flag (beadP i) BEAD_CODE_CTL_AS_EN s

/-- Raise a region by one code on a raise condition: at most once per window, and not above T = 32 (R374, R387). -/
def asRaise (i r : Nat) (s : State) : State :=
  let b := beadOf i s
  let s1 := setBead i { b with asSince := alSet b.asSince r s.now } s
  if asOn i s && !b.asChanged.contains r && decide (regionClass i r s < 4) then setRegionClass i r (regionClass i r s + 1) false s1
  else s1

/-! ### Temperature -/

/-- Temperature of bead k of rod i in sixteenths of a degree, signed (SENSE_BEADT). -/
def beadTemp (i k : Nat) (s : State) : Int :=
  signed 16 (getF (senseP i) (if k % 2 = 0 then SENSE_BEADT_EVEN (k / 2) else SENSE_BEADT_ODD (k / 2)) s)

/-- The band of Table 7-5 for a temperature, given the band in force: up at once, down when it is 2 °C below the bound (R371). -/
def beadBand (t : Int) (old : Nat) : Nat :=
  if t > 95 * 16 then 2
  else if old = 2 ∧ t > 93 * 16 then 2
  else if t > 85 * 16 then 1
  else if old ≥ 1 ∧ t > 83 * 16 then 1
  else 0

/-- Set bead k's refresh multiplier from its temperature, and apply the floors that follow (R371, R373). -/
def refreshBand (i k : Nat) (s : State) : State :=
  let old := beadMult i k s
  let new := beadBand (beadTemp i k s) old
  if new = old then s else applyFloors i (setF (beadP i) ⟨0x0C0, 2 * k + 1, 2 * k⟩ new s)

/-! ### Defects, retirement and loss -/

/-- Physical place of logical rod i, as DEFECT_READ gives it (R23). -/
def rodPlace (i : Nat) (s : State) : Nat :=
  (alGet s.rodMap i).getD (rodFrame i + rodY i % 16 * 256 + rodX i % 16 * 65536)

/-- MGS enters a defect in the defect map; `row` tells which row of a bead page it is (R399). -/
def addDefect (kind loc row : Nat) (s : State) : State :=
  { s with mgs := { s.mgs with defects := s.mgs.defects ++ [⟨kind, loc, s.mgs.boot, row⟩] } }

/-- Spares left on a channel. -/
def spareField (ch : Nat) : Field := if ch = 0 then BEAD_SPARE_A else BEAD_SPARE_B

/-- DETAIL of a bead error (Table 7-6): region and channel. -/
def beadDetail (q : Nat) : Nat := pageRegion q * 32 + pageChan q * 16

/-- Show an error in BEAD_LAST_ERR. -/
def lastErr (i kind maxsym q : Nat) (s : State) : State :=
  setF (beadP i) BEAD_LAST_ERR_PAGE q (setF (beadP i) BEAD_LAST_ERR_MAXSYM maxsym (setF (beadP i) BEAD_LAST_ERR_KIND kind s))

/-- A page becomes lost (R383): recorded once, and a loss after the outcome (R941). -/
def losePage (i q : Nat) (s : State) : State :=
  let b := beadOf i s
  if b.lost.contains q then s
  else
    let s1 := raise (beadP i) 21 (recordErr (beadP i) 0x160C 1 (beadDetail q) q true
      (lastErr i 3 0 q (bump (beadP i) BEAD_UE_LOST 1 (setBead i { b with lost := nsInsert b.lost q } s))))
    if outcome s1 = 0 then s1 else degrade (setF glbP GLB_LOSS_PAGES 1 s1)

/-- A spare of channel ch is gone; SPARE_LOW when 16 are left (R389). -/
def takeSpare (i ch : Nat) (s : State) : State :=
  let n := getF (beadP i) (spareField ch) s - 1
  let s1 := setF (beadP i) (spareField ch) n s
  if n = 16 then raise (beadP i) 20 s1 else s1

/-- The first free spare of channel ch. -/
def freeSpare (ch : Nat) (b : BeadSt) : Nat :=
  ((List.range 128).find? (fun k =>
    !b.badSpare.contains (128 * ch + k) && !b.remap.any (fun e => pageChan e.1 == ch && e.2 == k))).getD 0

/-- Point the remap table at a free spare for page q; a spare that q leaves is never used again (R381, R399). -/
def remapPage (i q : Nat) (s : State) : State :=
  let b := beadOf i s
  let ch := pageChan q
  let b1 := { b with
    badSpare := match alGet b.remap q with | some k => nsInsert b.badSpare (128 * ch + k) | none => b.badSpare
    remap := alSet b.remap q (freeSpare ch b) }
  takeSpare i ch (bump (beadP i) BEAD_SPARE_RETIRED 1 (setBead i b1 s))

/-! ### Sectors and bytes -/

/-- Key of a bead byte and of a sector. -/
def beadKey (i a : Nat) : Nat := i * 2 ^ 27 + a
def sectKey (i a : Nat) : Nat := i * 2 ^ 21 + a / 64

/-- The page of address a is lost. -/
def lostAt (i a : Nat) (s : State) : Bool := (beadOf i s).lost.contains (a / 2048)

/-- A byte of bead memory as a read delivers it, and its poison (R370, R383). -/
def beadByte (i a : Nat) (s : State) : Byte := alGetD s.bead (beadKey i a) 0
def beadPoison (i a : Nat) (s : State) : Bool := s.beadPois.contains (sectKey i a) || lostAt i a s

/-- Bytes from address a, and the offsets that are poisoned. -/
def beadBytes (i a n : Nat) (s : State) : List Byte := (List.range n).map (fun k => beadByte i (a + k) s)
def beadBadIn (i a n : Nat) (s : State) : List Nat := (List.range n).filter (fun k => beadPoison i (a + k) s)

/-- Store bytes from address a. -/
def putBytes (i : Nat) : Nat → List Byte → State → State
  | _, [], s => s
  | a, b :: t, s => putBytes i (a + 1) t { s with bead := alPut 0 s.bead (beadKey i a) b }

/-- Update the sectors that a write of `n` bytes at `a` touches, `bad` its poisoned offsets (R370), and mark them dirty (R367) and,
where a poison bit changes, the metadata too. -/
def putSectors (i a n : Nat) (bad : List Nat) (s : State) : State :=
  (List.range (n / 64 + 2)).foldl (fun t k =>
    let sec := a / 64 + k
    let lo := max a (sec * 64)
    let hi := min (a + n) (sec * 64 + 64)
    if hi ≤ lo then t
    else
      let p : Bool := bad.any (fun o => decide (lo ≤ a + o) && decide (a + o < hi))
      let whole : Bool := decide (hi - lo = 64)
      let key := i * 2 ^ 21 + sec
      let was : Bool := t.beadPois.contains key
      let now : Bool := p || (was && !whole)
      let b := beadOf i t
      let q := sec / 32
      setBead i { b with cache := b.cache.map (fun c => if c.q = q then
          { c with dirty := nsInsert c.dirty (sec % 32), spare := c.spare || (now != was) } else c) }
        { t with beadPois := if now then nsInsert t.beadPois key else nsErase t.beadPois key }) s

/-- Write bytes within one page; a lost page discards them (R383). Answers whether the write completes with POISONED. -/
def beadWrite (i a : Nat) (bs : List Byte) (bad : List Nat) (s : State) : Bool × State :=
  if lostAt i a s then (true, s) else (false, putSectors i a bs.length bad (putBytes i a bs s))

/-- Parity fails in sector `sec` of a cached page, dirty (CACHE_DIRTY_PARITY): the sector is poisoned (R370). -/
def dirtySectorBad (i sec : Nat) (s : State) : State :=
  if (beadOf i s).cache.any (fun c => c.q == sec / 32 && c.dirty.contains (sec % 32)) then putSectors i (sec * 64) 64 [0] s else s

/-! ### Write-back and the cache -/

/-- Stored wrong symbols of page q. -/
def pageErrs (i q : Nat) (s : State) : List Nat := alGetD (beadOf i s).errs q []

/-- The memory-layer sensors of rod i's island hold it in throttle (R863). -/
def memSlow (i : Nat) (s : State) : Bool := ((alGet s.thm.isl (rodIsland i)).map (·.mem)).getD false

/-- A page transfer of page q's channel begins; in throttle it waits until 128 ns have passed since the one before (R863). -/
def pageXfer (i q : Nat) (s : State) : State :=
  let s1 := match memSlow i s, alGet (beadOf i s).xfer (pageChan q) with
    | true, some t => waitTill (t + 128) s
    | _, _ => s
  setBead i { beadOf i s1 with xfer := alSet (beadOf i s1).xfer (pageChan q) s1.now } s1

/-- The transfers `tr` of page q have been written from good data: wrong symbols in them are gone, a wrong header or wrong metadata too when
all their transfers are among them; the page's corrections have been written (R380). An armed injection on it then
flips its first SYMS information symbols and is spent (BEAD_INJECT). -/
def wrote (i q : Nat) (tr : List Nat) (s : State) : State :=
  let b := beadOf i s
  let inj : Bool := flag (beadP i) BEAD_INJECT_ARM s && getF (beadP i) BEAD_INJECT_PAGE s == q
  let flips := if inj then List.range (getF (beadP i) BEAD_INJECT_SYMS s) else []
  let covers (lo hi : Nat) : Bool := (List.range (hi - lo)).all (fun k => tr.contains (lo + k))
  let s1 := setBead i { b with
    errs := alPut [] b.errs q (flips.foldl nsInsert (errsLeft tr (pageErrs i q s)))
    badHdr := if covers 56 64 then nsErase b.badHdr q else b.badHdr
    badMeta := if covers 40 56 then nsErase b.badMeta q else b.badMeta
    suspects := b.suspects.map (fun e => if e.1 = q then (q, true) else e) } s
  if inj then setF (beadP i) BEAD_INJECT_ARM 0 s1 else s1

/-- Write resident page q back (R369), all of it when `all` is set (R379): it is clean afterwards, stored at its region's class. -/
def writeBack (i q : Nat) (all : Bool) (s : State) : State :=
  match (beadOf i s).cache.find? (fun c => c.q == q) with
  | none => s
  | some c =>
    let cls := regionClass i (pageRegion q) s
    let tr := if all then List.range 64 else wbTransfers c.dirty c.spare (storedClass i q s) cls
    let s1 := wrote i q tr (putHdr i q cls (pageXfer i q s))
    setBead i { beadOf i s1 with cache := (beadOf i s1).cache.map (fun d =>
      if d.q = q then { d with dirty := [], spare := false, cls := cls } else d) } s1

/-- The page needs a write-back: a sector, the metadata or its class has changed. -/
def CPage.needs (c : CPage) : Bool := !c.dirty.isEmpty || c.spare

/-- Page q is in the cache. -/
def resident (i q : Nat) (s : State) : Bool := (beadOf i s).cache.any (fun c => c.q == q)

/-- The page that leaves page q's set when that is full: the least recently used of those that no write-back of BEAD_CTL.WBACK holds, or of
all when it holds every one (R363). -/
def cacheVictim (i q : Nat) (s : State) : Option CPage :=
  let set := (beadOf i s).cache.filter (fun c => c.q % 8 == q % 8)
  if set.length < 8 then none
  else ((set.filter (fun c => !(flag (beadP i) BEAD_CTL_BUSY s && c.needs))).head?).or set.head?

/-- Put page q in the cache as its set's most recently used; a page that leaves is written back first if dirty (R363). -/
def cacheInsert (i q : Nat) (dirty : List Nat) (spare : Bool) (cls : Nat) (s : State) : State :=
  let s1 := if resident i q s then s
    else match cacheVictim i q s with
      | some v =>
        let t := if v.needs then writeBack i v.q false s else s
        setBead i { beadOf i t with cache := (beadOf i t).cache.filter (fun c => c.q != v.q) } t
      | none => s
  setBead i { beadOf i s1 with cache := (beadOf i s1).cache.filter (fun c => c.q != q) ++ [⟨q, dirty, spare, cls⟩] } s1

/-- Page q becomes its set's most recently used. -/
def cacheUse (i q : Nat) (s : State) : State :=
  let b := beadOf i s
  match b.cache.find? (fun c => c.q == q) with
  | some c => setBead i { b with cache := b.cache.filter (fun d => d.q != q) ++ [c] } s
  | none => s

/-! ### Retirement and decode -/

/-- Retire page q (R381, R383): it is held resident and written whole to a free spare at its region's class, and the remap table, the spares, the
records and the defect map follow. `uncorr` tells an uncorrectable decode from corrections: with no spare left the page is lost, or
its region is raised to T = 32 and SPARE_EXHAUSTED recorded. -/
def retirePage (i q : Nat) (uncorr : Bool) (s : State) : State :=
  if getF (beadP i) (spareField (pageChan q)) s = 0 then
    if uncorr then losePage i q s
    else
      let s1 := if flag (beadP i) BEAD_CODE_CTL_MANUAL s then s else setRegionClass i (pageRegion q) 4 false s
      recordCE (beadP i) 0x160B (beadDetail q) q s1
  else
    let cls := regionClass i (pageRegion q) s
    let s0 := putHdr i q cls (cacheInsert i q [] false cls s)
    let b := beadOf i s0
    let s1 := remapPage i q (setBead i { b with
      errs := alErase b.errs q, badHdr := nsErase b.badHdr q, badMeta := nsErase b.badMeta q
      suspects := b.suspects.filter (fun e => e.1 != q) } s0)
    raise (beadP i) 19 (recordCE (beadP i) 0x160A (beadDetail q) q
      (addDefect 2 (rodPlace i s + q * 2 ^ 32) (match alGet b.remap q with | some k => k + 1 | none => 0) (lastErr i 2 0 q s1)))

/-- Corrected symbols are counted and feed the class rules and the suspect table (R361, R374, R380). -/
def corrected (i q c0 c1 t : Nat) (s : State) : State :=
  let n := c0 + c1
  let r := pageRegion q
  let m := max c0 c1
  let s1 := lastErr i 0 m q (bump64 (beadP i + 0xC4) n s)
  let s2 := recordCE (beadP i) 0x1601 (beadDetail q) q (bump (beadP i) PG_ERR_CNT_COUNT (n - 1) s1)
  let b := beadOf i s2
  let s3 := setBead i { b with asCount := alSet b.asCount r (alGetD b.asCount r 0 + n) } s2
  let s4 := if 8 * m ≥ 3 * t then asRaise i r s3 else s3
  let b4 := beadOf i s4
  if 4 * m > t then
    match b4.suspects.find? (fun e => e.1 == q) with
    | some e => if e.2 then retirePage i q false s4 else s4
    | none =>
      let l := if b4.suspects.length ≥ 64 then b4.suspects.drop 1 else b4.suspects
      setBead i { b4 with suspects := l ++ [(q, false)] } s4
  else s4

/-- An uncorrectable page (R382): every sector poisoned, counted, recorded, and retired. -/
def uncorrectable (i q code : Nat) (s : State) : State :=
  let keys := (List.range 32).map (fun k => i * 2 ^ 21 + q * 32 + k)
  let s1 := { s with beadPois := keys.foldl nsInsert s.beadPois }
  let s2 := raise (beadP i) 18 (recordErr (beadP i) code 1 (beadDetail q) q true
    (lastErr i 1 0 q (bump (beadP i) BEAD_UE_UNCORR 1 s1)))
  retirePage i q true s2

/-- Step 4 of a decode (R360): metadata that name another page or rod. -/
def checkMeta (i q : Nat) (s : State) : State :=
  if (beadOf i s).badMeta.contains q then recordErr (beadP i) 0x1604 2 (beadDetail q) q false s else s

/-- Decode stored page q (R360) with its effects. Answers whether symbols were corrected. -/
def decodePage (i q : Nat) (s : State) : Bool × State :=
  let b := beadOf i s
  if b.lost.contains q then (false, s)
  else if b.badHdr.contains q then (false, uncorrectable i q 0x1603 s)
  else
    let t := classT (storedClass i q s)
    let (c0, c1, ok) := decodeErrs t (pageErrs i q s)
    if !ok then (false, uncorrectable i q 0x1602 s)
    else if c0 + c1 = 0 then (false, checkMeta i q s)
    else (true, corrected i q c0 c1 t (checkMeta i q s))

/-- A fill (R364): the page is decoded and placed in the cache, unless its retirement has made it resident; the sectors and the metadata that
hold corrected symbols are dirty (R366). -/
def fillPage (i q : Nat) (s : State) : State :=
  let errs := pageErrs i q s
  let r := decodePage i q (pageXfer i q s)
  if resident i q r.2 then r.2
  else cacheInsert i q (if r.1 then (errs.flatMap symSectors).foldl nsInsert [] else []) (r.1 && errs.any symInSpare)
    (storedClass i q r.2) r.2

/-! ### Requests at the home controller -/

/-- The page of a request's bead target. -/
def PReq.page (r : PReq) : Option (Nat × Nat) :=
  match r.target with
  | some (.bead i a) => some (i, a / 2048)
  | _ => none

/-- The requests that wait for fills at rod i's controller, in order of their arrival. -/
def waiting (i : Nat) (s : State) : List PReq :=
  (beadOf i s).waits.filterMap (fun id => s.reqs.find? (fun r =>
    r.id == id && r.phase == 2 && (match r.page with | some (j, _) => j == i | none => false)))

/-- Pages of rod i that a fill is in flight for. -/
def fillsOf (i : Nat) (s : State) : List Nat :=
  (waiting i s).foldl (fun l r => match r.page with | some (_, q) => nsInsert l q | none => l) []

/-- Apply a request at its home controller, its page being resident (R365, R367, R370). -/
def applyReq (r : PReq) (s : State) : State :=
  match r.target with
  | some (.bead i a) =>
    if r.write then
      let w := beadWrite i a r.data r.bad s
      updReq r.id (fun x => { x with phase := 3, status := if w.1 then 4 else 0 }) w.2
    else
      let bad := beadBadIn i a r.len s
      let bs := beadBytes i a r.len s
      updReq r.id (fun x => { x with phase := 3, data := bs, bad := bad }) s
  | _ => s

/-- A request leaves the controller's wait list. -/
def unwait (i id : Nat) (s : State) : State := setBead i { beadOf i s with waits := (beadOf i s).waits.filter (fun w => w != id) } s

/-- The requests that waited for page q are carried out in order of arrival (R364, R390, R396). -/
def fillServe (i q : Nat) (s : State) : State :=
  ((waiting i s).filter (fun r => r.page == some (i, q))).foldl (fun t r => unwait i r.id (applyReq r t)) s

/-- Waiting requests whose page `p` selects end with `st`: a zero-fill has begun, or their channel is down (R395, R398). -/
def endWaits (i st : Nat) (p : Nat → Bool) (s : State) : State :=
  ((waiting i s).filter (fun r => match r.page with | some (_, q) => p q | none => false)).foldl (fun t r =>
    unwait i r.id (updReq r.id (fun x => { x with phase := 3, status := st }) t)) s

/-- An access comes to page q: a hit, or a miss that is filled; `whole` marks a write of all 32 sectors, which takes a way
without a fill, encoded at the region's class (R368). A fill in flight ends first, and those that wait for it go before (R364). -/
def touchPage (i q : Nat) (whole : Bool) (s : State) : State :=
  if resident i q s then cacheUse i q (bump64 (beadP i + 0xD8) 1 s)
  else
    let s1 := bump64 (beadP i + 0xE0) 1 s
    if (fillsOf i s1).contains q then fillServe i q (fillPage i q s1)
    else if whole then cacheInsert i q (List.range 32) true (regionClass i (pageRegion q) s1) s1
    else fillPage i q s1

/-- The column answers no access: its herd is STOPPING or has gone OFF after its zero-fill began, or the page's channel is down (R395, R398,
R455). -/
def beadBlocked (i a : Nat) (s : State) : Option Nat :=
  let b := beadOf i s
  let l := lifeAt (statOf (beadP i)) s
  if b.zeroing || l == 4 || l == 0 then some 5 else if b.down.contains (pageChan (a / 2048)) then some 9 else none

/-- Pages that n bytes at a touch. -/
def spanPages (a n : Nat) : List Nat :=
  if n = 0 then [] else (List.range ((a + n - 1) / 2048 + 1 - a / 2048)).map (fun k => a / 2048 + k)

/-- A transaction for page q waits on its way: its channel holds its requests (R135, R398), the controller tracks 64 transactions, or the fill that
it calls for would be the channel's ninth (R362); `whole` marks a write of all 32 sectors. -/
def pageHeld (i q : Nat) (whole : Bool) (s : State) : Bool :=
  let fl := fillsOf i s
  (beadBlocked i (q * 2048) s).isNone && (chanHeld i (pageChan q) s || decide ((waiting i s).length ≥ 64)
    || (!resident i q s && !whole && !fl.contains q && decide ((fl.filter (fun x => pageChan x == pageChan q)).length ≥ 8)))

/-- An access of n bytes at a, a write or a read, waits for one of its pages. -/
def homeHeld (i a n : Nat) (write : Bool) (s : State) : Bool :=
  let m := min n (beadSize - a)
  (spanPages a m).any (fun q => pageHeld i q (write && decide (a ≤ q * 2048) && decide (q * 2048 + 2048 ≤ a + m)) s)

/-- The part of an access that lies beyond the column is a request of its own, which has no effect but ADDR_RANGE (R384, R385): how much lies in
it, and the state. -/
def inColumn (i a n : Nat) (s : State) : Nat × State :=
  if a + n > beadSize then (beadSize - a, recordCE (beadP i) 0x160F 0 (max a beadSize) s) else (n, s)

/-- Status of a request served as several (R385): an error before POISONED before OK. -/
def worseOf (a b : Nat) : Nat := if a = 0 ∨ (a = 4 ∧ b ≠ 0) then b else a

/-- Read bytes at a home controller, page by page: status, bytes, poisoned offsets, state. -/
def homeRead (i a n : Nat) (s : State) : Nat × List Byte × List Nat × State :=
  let m := inColumn i a n s
  let pages := spanPages a m.1
  let stop (q : Nat) : Option Nat := beadBlocked i (q * 2048) s
  let s1 := (pages.filter (fun q => (stop q).isNone)).foldl (fun t q => touchPage i q false t) m.2
  let bad := (beadBadIn i a m.1 s1).filter (fun k => (stop ((a + k) / 2048)).isNone)
  (pages.foldl (fun st q => worseOf st ((stop q).getD 0)) (if m.1 < n then 9 else if bad.isEmpty then 0 else 4),
    (List.range n).map (fun k => if k < m.1 ∧ (stop ((a + k) / 2048)).isNone then beadByte i (a + k) s1 else 0), bad, s1)

/-- Write the part of `bs` at offset `o` that lies in one page, and then the rest. -/
def homeWriteGo (i a : Nat) (bs : List Byte) (bad : List Nat) : Nat → Nat → State → Nat × State
  | 0, _, s => (0, s)
  | f + 1, o, s =>
    if o ≥ bs.length then (0, s)
    else
      let x := a + o
      let n := min (bs.length - o) (2048 - x % 2048)
      let r : Nat × State := match beadBlocked i x s with
        | some st => (st, s)
        | none =>
          let w := beadWrite i x ((bs.drop o).take n)
            ((bad.filter (fun k => decide (o ≤ k) && decide (k < o + n))).map (fun k => k - o)) (touchPage i (x / 2048) (n = 2048) s)
          (if w.1 then 4 else 0, w.2)
      let t := homeWriteGo i a bs bad f (o + n) r.2
      (worseOf r.1 t.1, t.2)

/-- Write bytes at a home controller, page by page: status and state. -/
def homeWrite (i a : Nat) (bs : List Byte) (bad : List Nat) (s : State) : Nat × State :=
  let m := inColumn i a bs.length s
  let r := homeWriteGo i a (bs.take m.1) bad (bs.length / 2048 + 2) 0 m.2
  (if m.1 < bs.length then worseOf 9 r.1 else r.1, r.2)

/-! ### Zero-fill -/

/-- Step 1 of R395: the cache is discarded and accesses from now on end with STOPPED; those that still wait for a fill end so too (DEDUCED,
assumption log 113). -/
def zeroStart (i : Nat) (s : State) : State :=
  let s1 := endWaits i 5 (fun _ => true) s
  setBead i { beadOf i s1 with cache := [], zeroing := true } s1

/-- Zero the data and poison of rod i's column. -/
def zeroData (i : Nat) (s : State) : State :=
  { s with
    bead := s.bead.filter (fun e => e.1 / 2 ^ 27 != i)
    beadPois := s.beadPois.filter (fun k => k / 2 ^ 21 != i) }

/-- Steps 2 and 3 of R395: every page is written with zeros at class T = 8 or its region's effective floor; stored errors go,
lost pages stay lost (R402, R404). -/
def zeroFill (i : Nat) (s : State) : State :=
  let s0 := endWaits i 5 (fun _ => true) s
  let b := beadOf i s0
  let s1 := setBead i { BeadSt.empty with
    remap := b.remap, badSpare := b.badSpare, lost := b.lost, down := b.down, calFails := b.calFails, xfer := b.xfer
    zeroAt := s0.now, asWin := s0.now, scrubAt := s0.now } (zeroData i s0)
  (List.range 96).foldl (fun t r =>
    setF (beadP i) (rsweepF r) 0 (setF (beadP i) (rclassF r) (max 1 (effFloor i r t)) t)) s1

end Sys2Proof.Machine
end

