-- ==== Sys2Proof/Machine/Cal.lean ====
section
/-! DEFINITION. Bead channel calibration and retraining (R134-R137, R158, R398), and what counts as retraining in the package
(R942). -/
namespace Sys2Proof.Machine

/-- Position of rod i in its island (R122). -/
def islPos (i : Nat) : Nat := (rodY i % 4) * 4 + rodX i % 4

/-- SENSE_CAL_A or SENSE_CAL_B. -/
def calReg (c : Nat) (f : Field) : Field := ⟨f.off + 4 * c, f.hi, f.lo⟩

/-- Show whether channel c of rod i calibrates, in its island's ISL_CAL_BUSY. -/
def showCal (i c : Nat) (on : Bool) (s : State) : State :=
  let b := 2 * islPos i + c
  setF (islP (rodIsland i)) ⟨0x0A4, b, b⟩ (b2n on) s

/-- Island voltage as a code: the output in units of 5 mV. VCODE records the voltage at a calibration's start (R137); an output that is no multiple of
5 mV is rounded to the nearest code (DEDUCED, assumption log 100). -/
def islCode (j : Nat) (s : State) : Nat := (islMv j s + 2) / 5

/-- A retrain is in progress somewhere (R942): a bridge link, an RL port or a bead channel. -/
def retraining (s : State) : Bool :=
  (List.range 32).any (fun n => flag (brgP n) BRG_STAT_RETRAIN s)
    || (List.range 16).any (fun p => getF (rlpP p) RLP_STAT_PHASE s == 6)
    || s.cals.any (fun e => e.2.retrain)

/-- Show it in GLB_READY. -/
def showRetraining (s : State) : State := setF glbP GLB_READY_RETRAINING (b2n (retraining s)) s

/-- Count a retrain as it starts. -/
def countRetrain (s : State) : State := showRetraining (bump glbP GLB_RETRAINS_COUNT 1 s)

/-- Start what is due: channel A first, and never both channels of a rod at once (R136). -/
def calTry (i : Nat) (s : State) : State :=
  let go (c : Nat) (t : State) : State :=
    showCal i c true (setCal i c { calOf i c t with due := false, busy := true, retry := false, code := islCode (rodIsland i) t, since := t.now } t)
  if chanHeld i 0 s || chanHeld i 1 s || !rodCounts i s then s
  else if (calOf i 0 s).due then go 0 s
  else if (calOf i 1 s).due then go 1 s
  else s

/-- A full calibration of channel c of rod i is due (R134). -/
def calDue (i c : Nat) (s : State) : State := calTry i (setCal i c { calOf i c s with due := true } s)

/-- Both channels of rod i are due when the voltage mv differs by more than 25 mV from their last calibration's (R134). A calibration still in progress
is not yet the channel's last: VCODE holds the one before it, so an island that settles or stays stable meanwhile can make the channel due once more
(DEDUCED from R148, assumption log 99). -/
def calMoved (i mv : Nat) (s : State) : State :=
  let far (c : Nat) (t : State) : Bool :=
    let v := 5 * getF (senseP i) (calReg c SENSE_CAL_A_VCODE) t
    decide (mv > v + 25) || decide (v > mv + 25)
  let s1 := if far 0 s then setCal i 0 { calOf i 0 s with due := true } s else s
  let s2 := if far 1 s1 then setCal i 1 { calOf i 1 s1 with due := true } s1 else s1
  calTry i s2

/-- A calibration or training is written down (R137, R161). -/
def calRecord (i c hold : Nat) (s : State) : State :=
  bump (senseP i) (calReg c SENSE_CAL_A_COUNT) 1 (setF (senseP i) (calReg c SENSE_CAL_A_HOLD) (min 80 hold)
    (setF (senseP i) (calReg c SENSE_CAL_A_VCODE) (calOf i c s).code (setCal i c { calOf i c s with since := s.now } s)))

/-- CAL_FAILs in a row of a channel. -/
def setFails (i c n : Nat) (s : State) : State :=
  setBead i { beadOf i s with calFails := alPut 0 (beadOf i s).calFails c n } s

/-- A calibration fails (R158, R398): the channel goes on by tracking; after the third in a row it retrains. The spec does not say whether one that
ends unfinished writes VCODE and HOLD: they stay as they were (DEDUCED, assumption log 43). -/
def calFailed (i c : Nat) (s : State) : State :=
  let s1 := recordCE (beadP i) 0x1606 (c * 16) (c * 2 ^ 24) (showCal i c false (setCal i c { calOf i c s with busy := false, since := s.now } s))
  let n := alGetD (beadOf i s1).calFails c 0 + 1
  if n ≥ 3 then
    countRetrain (setCal i c { calOf i c s1 with retrain := true, retry := false, code := islCode (rodIsland i) s1 } (setFails i c 0 s1))
  else calTry i (setCal i c { calOf i c s1 with retry := true } (setFails i c n s1))

/-- A channel's retraining has failed: it is down, and the requests that wait for it end with XLAT_FAIL (R398). -/
def chanDown (i c : Nat) (s : State) : State :=
  let s1 := setBead i { beadOf i s with down := nsInsert (beadOf i s).down c } s
  recordErr (beadP i) 0x1607 2 (c * 16) (c * 2 ^ 24) false (raise (beadP i) 22 (endWaits i 9 (fun q => pageChan q == c) s1))

end Sys2Proof.Machine
end

