-- ==== Sys2Proof/Machine/Hash.lean ====
section
/-! DEFINITION. The digests the spec names: CRC-32C (Table 16-7) and SHA-384 (Tables 16-3, 16-9; FIPS 180-4), whose constants are the leading
fractional bits of roots of the first primes. -/
namespace Sys2Proof.Machine

/-- One bit of the reflected CRC-32C. -/
def crcBit : Nat → BitVec 32 → BitVec 32
  | 0, c => c
  | n + 1, c => crcBit n (if c.getLsbD 0 then (c >>> 1) ^^^ 0x82F63B78#32 else c >>> 1)

/-- CRC-32C of bytes: initial 0xFFFF_FFFF, inverted (Table 16-7). -/
def crc32c (l : List Byte) : Nat :=
  (~~~ (l.foldl (fun c b => crcBit 8 (c ^^^ b.setWidth 32)) 0xFFFFFFFF#32)).toNat

/-- Integer root by bisection: the largest r with r^k ≤ x, from the top bit down. -/
def rootGo (k x : Nat) : Nat → Nat → Nat
  | 0, r => r
  | n + 1, r => rootGo k x n (if (r + 2 ^ n) ^ k ≤ x then r + 2 ^ n else r)

/-- A number is prime. -/
def isPrime (n : Nat) : Bool := decide (2 ≤ n) && ((List.range n).drop 2).all (fun d => n % d != 0)

/-- The first 80 primes. -/
def primes80 : List Nat := (List.range 410).filter isPrime

/-- Round constants and initial value of SHA-384. -/
def shaK : List (BitVec 64) := primes80.map (fun p => BitVec.ofNat 64 (rootGo 3 (p * 2 ^ 192) 70 0))
def sha384Init : List (BitVec 64) := ((primes80.drop 8).take 8).map (fun p => BitVec.ofNat 64 (rootGo 2 (p * 2 ^ 128) 70 0))

/-- Message schedule: 64 more words, each from the 16 before it; the list holds the newest word first. -/
def shaExtend : Nat → List (BitVec 64) → List (BitVec 64)
  | 0, w => w
  | n + 1, w =>
    let at_ (k : Nat) : BitVec 64 := (w[k]?).getD 0
    let a := at_ 14
    let b := at_ 1
    let s0 := a.rotateRight 1 ^^^ a.rotateRight 8 ^^^ (a >>> 7)
    let s1 := b.rotateRight 19 ^^^ b.rotateRight 61 ^^^ (b >>> 6)
    shaExtend n ((at_ 15 + s0 + at_ 6 + s1) :: w)

/-- One round over the eight working variables. -/
def shaRound (v : List (BitVec 64)) (kw : BitVec 64 × BitVec 64) : List (BitVec 64) :=
  match v with
  | [a, b, c, d, e, f, g, h] =>
    let s1 := e.rotateRight 14 ^^^ e.rotateRight 18 ^^^ e.rotateRight 41
    let ch := (e &&& f) ^^^ (~~~ e &&& g)
    let t1 := h + s1 + ch + kw.1 + kw.2
    let s0 := a.rotateRight 28 ^^^ a.rotateRight 34 ^^^ a.rotateRight 39
    let maj := (a &&& b) ^^^ (a &&& c) ^^^ (b &&& c)
    [t1 + (s0 + maj), a, b, c, d + t1, e, f, g]
  | l => l

/-- A 64-bit word from eight bytes, most significant first. -/
def beWord (l : List Byte) : BitVec 64 := BitVec.ofNat 64 (leNat l.reverse)

/-- Compress one block of 128 bytes. -/
def shaBlock (h : List (BitVec 64)) (blk : List Byte) : List (BitVec 64) :=
  let w16 := (List.range 16).map (fun i => beWord ((blk.drop (8 * i)).take 8))
  let w := (shaExtend 64 w16.reverse).reverse
  List.zipWith (· + ·) h ((List.zip shaK w).foldl shaRound h)

/-- Blocks in turn. -/
def shaGo : Nat → List Byte → List (BitVec 64) → List (BitVec 64)
  | 0, _, h => h
  | n + 1, l, h => shaGo n (l.drop 128) (shaBlock h (l.take 128))

/-- SHA-384 of a message: 48 bytes. -/
def sha384 (m : List Byte) : List Byte :=
  let pad := (256 - (m.length + 17) % 128) % 128
  let l := m ++ [0x80#8] ++ List.replicate pad 0 ++ (leBytes 16 (8 * m.length)).reverse
  ((shaGo (l.length / 128) l sha384Init).take 6).flatMap (fun w => (leBytes 8 w.toNat).reverse)

end Sys2Proof.Machine
end

