-- ==== Sys2Proof/Machine/Flit.lean ====
section
/-! DEFINITION. Bits of flits: where a bridge link's lanes carry them (R583, R584), what a flit holds (R586, R588, R630, R632), when its CRC passes,
and the codewords of an RL lane (R628, R629). -/
namespace Sys2Proof.Machine

/-! ### Bridge lanes (R583, R584) -/

/-- Logical lane of flit bit b at width w, and its place among the bits of that lane. -/
def flitPlace (w b : Nat) : Nat × Nat := (b % w, b / w)

/-- The flit bit that a logical lane carries as its k-th: bits b with b mod w = lane, in ascending order. -/
def flitBit (w lane k : Nat) : Nat := k * w + lane

/-- Bits of a flit that each lane carries: 36 at width 16, 72 at width 8. -/
def flitSpan (w : Nat) : Nat := 576 / w

/-- Bit 8i + j of bytes is bit j of byte i. -/
def byteBit (l : List Byte) (b : Nat) : Bool := ((l[b / 8]?).getD 0).getLsbD (b % 8)

/-- What logical lane `lane` carries of a flit. -/
def laneBits (w lane : Nat) (flit : List Byte) : List Bool := (List.range (flitSpan w)).map (fun k => byteBit flit (flitBit w lane k))

/-- The parity bit after 64 bits of a lane makes the 65 even. -/
def laneParity (g : List Bool) : Bool := g.foldl Bool.xor false

/-- A parity group as received holds. -/
def groupHolds (g : List Bool) : Bool := !laneParity g

/-! ### Flits (R586, R588, R630, R632) -/

/-- Header of a bridge flit (Table 11-1). -/
def brgHdr (ctrl : Bool) (seq vc : Nat) (hdrv : Bool) (hoff ack : Nat) : Nat :=
  ack % 4096 + hoff % 8 * 2 ^ 12 + b2n hdrv * 2 ^ 15 + vc % 8 * 2 ^ 16 + seq % 4096 * 2 ^ 19 + b2n ctrl * 2 ^ 31

/-- Word 0 of an RL flit (Table 12-2). -/
def rlHdr (ctrl : Bool) (vc seq ack : Nat) (hdrv : Bool) (hoff : Nat) : Nat :=
  hoff % 32 * 2 ^ 30 + b2n hdrv * 2 ^ 35 + ack % 4096 * 2 ^ 36 + seq % 4096 * 2 ^ 48 + vc % 8 * 2 ^ 60 + b2n ctrl * 2 ^ 63

/-- Bytes of a list, with zeros up to n. -/
def padded (n : Nat) (l : List Byte) : List Byte := (l ++ List.replicate (n - l.length) 0).take n

/-- Bytes with zeros up to a multiple of 8. -/
def padded8 (l : List Byte) : List Byte := padded ((l.length + 7) / 8 * 8) l

/-- Bytes in payloads of n. -/
def chunks (n : Nat) (l : List Byte) : List (List Byte) := (List.range ((l.length + n - 1) / n)).map (fun k => (l.drop (k * n)).take n)

/-- The payload of a bridge control flit (Table 11-3), from its operation and fields. -/
def brgCtlBytes : List Nat → List Byte
  | [2, seq] => leBytes 1 2 ++ leBytes 2 seq
  | [3, home, first, count] => leBytes 1 3 ++ leBytes 1 home ++ leBytes 2 first ++ leBytes 1 count
  | [5, w, ab, ba] => leBytes 1 5 ++ leBytes 1 w ++ leBytes 3 ab ++ leBytes 3 ba
  | [6, last] => leBytes 1 6 ++ leBytes 2 last
  | l => l.flatMap (leBytes 1)

/-- The payload of an RL control flit (R632), from its operation and fields; a HELLO's are serial, node ID, NODE_VALID, epoch, port, and the best manager
key as HOST, PRI and serial. -/
def rlCtlBytes : List Nat → List Byte
  | [1, seq] => leBytes 1 1 ++ leBytes 2 seq
  | [2, serial, node, valid, epoch, port, host, pri, kserial] =>
    leBytes 1 2 ++ leBytes 8 serial ++ leBytes 3 (node % 2 ^ 18 + valid % 2 * 2 ^ 23) ++ leBytes 1 epoch ++ leBytes 1 port
      ++ leBytes 1 host ++ leBytes 1 pri ++ leBytes 8 kserial
  | [4, last] => leBytes 1 4 ++ leBytes 2 last
  | l => l.flatMap (leBytes 1)

/-- A bridge flit: header, payload and CRC (R586; byte order DESIGN CHOICE, assumption log 126). -/
def brgFlitBytes (hdr : Nat) (payload : List Byte) : List Byte :=
  let b := leBytes 4 hdr ++ padded 64 payload
  b ++ leBytes 4 (crc32c b)

/-- An RL flit: word 0, payload, the credit of its trailer and CRC (Table 12-2, R630). -/
def rlFlitBytes (hdr : Nat) (payload : List Byte) (credit : Option (Nat × Nat)) : List Byte :=
  let c := match credit with
    | some (vc, n) => vc % 8 + 8 + n % 256 * 2 ^ 8
    | none => 0
  let b := leBytes 8 hdr ++ padded 240 payload ++ leBytes 4 c
  b ++ leBytes 4 (crc32c b)

/-! ### The CRC of a flit as received -/

/-- Byte i of the pattern in which exactly the bits of a list are wrong; a bit listed twice is right again. -/
def errByte (bits : List Nat) (i : Nat) : Byte :=
  (bits.filter (fun b => b / 8 == i)).foldl (fun a b => a ^^^ (1#8 <<< (b % 8))) 0

/-- The CRC-32C register after bytes, from 0 and not inverted: CRC-32C is linear in the bits. -/
def crcSyndrome (l : List Byte) : BitVec 32 := l.foldl (fun c b => crcBit 8 (c ^^^ b.setWidth 32)) 0

/-- A flit of n bytes before its CRC passes with the bits of a list wrong: its CRC is wrong in the same way as the CRC of its bytes. -/
def crcPasses (n : Nat) (bits : List Nat) : Bool :=
  bits.isEmpty || (crcSyndrome ((List.range n).map (errByte bits))).toNat == leNat ((List.range 4).map (fun k => errByte bits (n + k)))

/-- A bridge flit received at width w with bits wrong, each by its logical lane and its place there. -/
def brgCrcPasses (w : Nat) (errs : List (Nat × Nat)) : Bool := crcPasses 68 (errs.map (fun e => flitBit w e.1 e.2))

/-- An RL flit received, after the FEC, with bits wrong. -/
def rlCrcPasses (bits : List Nat) : Bool := crcPasses 252 bits

/-! ### Codewords of an RL lane (R628, R629) -/

/-- The 20-bit lane word: codeword count and lane number. -/
def laneWord (count lane : Nat) : Nat := count % 65536 + lane % 4 * 2 ^ 16

/-- n symbols of 10 bits of a number, the lowest bits first. -/
def symbols10 (n x : Nat) : List Sym := (List.range n).map (fun k => BitVec.ofNat 10 (x / 2 ^ (10 * k)))

/-- The 514 message symbols of a codeword: symbols 0-1 carry the lane word, 2-513 carry 640 bytes of the flit stream. -/
def messageSymbols (count lane : Nat) (bytes : List Byte) : List Sym :=
  symbols10 2 (laneWord count lane) ++ symbols10 512 (leNat (padded 640 bytes))

/-- The number that symbols spell, the first one lowest. -/
def symbolsNat (l : List Sym) : Nat := l.foldr (fun a n => a.toNat + 1024 * n) 0

/-- What a codeword's message symbols carry: codeword count, lane, bytes of the flit stream. -/
def messageParts (m : List Sym) : Nat × Nat × List Byte :=
  let w := symbolsNat (m.take 2)
  (w % 65536, w / 65536 % 4, leBytes 640 (symbolsNat ((m.drop 2).take 512)))

/-- An RS(544,514) codeword: 514 message symbols, then the 30 parity symbols of the field and generator of R358 with T = 30, highest power first
(R628; the field, the generator and the order are those of IEEE 802.3: PRESUMED, assumption log 127). -/
def codeword (count lane : Nat) (bytes : List Byte) : List Sym :=
  let m := messageSymbols count lane bytes
  m ++ (rsParity 30 m).reverse

/-- A received codeword holds: its 30 syndromes are zero. -/
def codewordHolds (c : List Sym) : Bool := (List.range 30).all (fun k => syndrome c k == 0)

/-- Block i of 640 bytes of a flit stream goes to the used lane of rank i mod w (R629). -/
def laneBlocks (w rank : Nat) (blocks : List (List Byte)) : List (List Byte) :=
  (List.range (blocks.length / w + 1)).filterMap (fun k => blocks[k * w + rank]?)

/-- Symbol errors that the FEC corrects: half of the 30 parity symbols (DEDUCED from RS(544,514)). -/
abbrev fecLimit : Nat := 15

/-- A flit whose bytes lie in codewords with these numbers of wrong symbols is lost: one of them could not be corrected (R633). -/
def fecLost (syms : List Nat) : Bool := syms.any (fun n => decide (n > fecLimit))

end Sys2Proof.Machine
end

