-- ==== Sys2Proof/Machine/Link.lean ====
section
/-! DEFINITION. What a bridge link and an RL port share: sequences, acknowledgement, replay and credits (R589, R590, R592, R610,
R631, R633). -/
namespace Sys2Proof.Machine

/-- x - y modulo 4,096 (R610). -/
def seqDiff (x y : Nat) : Nat := (x + 4096 - y % 4096) % 4096

/-- Flits that an ACK of sequence a does not cover stay in the replay buffer; progress ends the run of resends. -/
def LinkDir.acked (a : Nat) (l : LinkDir) : LinkDir :=
  let left := l.replay.filter (fun f => decide (seqDiff a f.seq ≥ 2048))
  { l with replay := left, resent := if left.length < l.replay.length then 0 else l.resent }

/-- Credits free on a VC of `vcs`, with `res` reserved to each and `shared` in common (R592, R631). -/
def LinkDir.free (vcs res shared vc : Nat) (l : LinkDir) : Nat :=
  let u (v : Nat) : Nat := (l.used[v]?).getD 0
  (res - u vc) + (shared - ((List.range vcs).map (fun v => u v - res)).foldl (· + ·) 0)

/-- Times after a link direction or port has become `l`, at package time `now`: the oldest flit's wait begins again with a new oldest flit or a
resend, and a VC's wait without credit begins with its last credit. -/
def LinkT.stamp (vcs res shared now : Nat) (old l : LinkDir) (t : LinkT) : LinkT where
  since := if l.replay.isEmpty then 0 else if l.replay.head? = old.replay.head? ∧ l.resent = old.resent then t.since else now
  dry := (List.range 8).map (fun v =>
    if vcs ≤ v ∨ l.free vcs res shared v ≠ 0 then 0 else if old.free vcs res shared v = 0 then (t.dry[v]?).getD 0 else now)

/-- Add to the count of a VC. -/
def vcAdd (l : List Nat) (vc n : Nat) : List Nat := listSet l vc (((l[vc]?).getD 0) + n)

/-- Credits for n flits of a VC come back. -/
def LinkDir.returned (vc n : Nat) (l : LinkDir) : LinkDir :=
  { l with used := listSet l.used vc (((l.used[vc]?).getD 0) - n) }

/-- Send the flits of a packet on a VC, given by their payloads, of which the first begins with the packet's header if `head`: sequence numbers,
replay buffer and credits. -/
def LinkDir.send (vc home orig herd : Nat) (head : Bool) : List (List Byte) → LinkDir → LinkDir
  | [], l => l
  | b :: t, l => LinkDir.send vc home orig herd false t { l with
      txNext := (l.txNext + 1) % 4096
      replay := l.replay ++ [⟨l.txNext, vc, home, orig, l.txNext, herd, head, b, []⟩]
      used := vcAdd l.used vc 1 }

/-- Cumulative counts of freed flits arrive, modulo m (R592): the credits come back. -/
def LinkDir.heard (m : Nat) (c : List Nat) (l : LinkDir) : LinkDir :=
  let at_ (x : List Nat) (v : Nat) : Nat := (x[v]?).getD 0
  { l with
    used := (List.range 8).map (fun v => at_ l.used v - (at_ c v + m - at_ l.got v % m) % m)
    got := (List.range 8).map (fun v => at_ c v % m) }

/-- Send a sequenced control flit. -/
def LinkDir.sendCtl (home : Nat) (c : List Nat) (l : LinkDir) : LinkDir :=
  { l with
    txNext := (l.txNext + 1) % 4096
    replay := l.replay ++ [⟨l.txNext, 8, home, home, l.txNext, 128, false, [], c⟩] }

/-- What a receiver does with a sequenced flit (R589): accepts it, drops a duplicate and repeats its ACK, drops it with a NAK, or
drops it in a run for which the NAK has been sent. -/
inductive Take where
  | accept
  | duplicate
  | nak
  | drop
  deriving DecidableEq, Repr

/-- The receiver's choice for sequence `seq` whose CRC passed or not, with a window of `win` values for duplicates. -/
def LinkDir.take (win seq : Nat) (crc : Bool) (l : LinkDir) : Take :=
  if crc && seq % 4096 == l.rxNext then .accept
  else if crc && decide (1 ≤ seqDiff l.rxNext seq) && decide (seqDiff l.rxNext seq ≤ win) then .duplicate
  else if l.naking then .drop
  else .nak

/-- The receiver after its choice; an accepted data flit of a VC is handed on and its buffer freed. -/
def LinkDir.took (t : Take) (vc : Nat) (l : LinkDir) : LinkDir :=
  match t with
  | .accept => { l with rxNext := (l.rxNext + 1) % 4096, naking := false, freed := if vc < 8 then vcAdd l.freed vc 1 else l.freed }
  | .nak => { l with naking := true }
  | _ => l

/-- Flits to be resent from sequence `from_` on (R590). -/
def LinkDir.since (from_ : Nat) (l : LinkDir) : List Unacked := l.replay.filter (fun f => decide (seqDiff f.seq from_ < 2048))

/-- The sequence that an ACK names: that of the last flit accepted (Tables 11-1, 12-2). -/
def LinkDir.ack (l : LinkDir) : Nat := (l.rxNext + 4095) % 4096

/-- Failed parity groups of lane `l` of direction `d` in its windows as they stand now: 1 ms, 1 s (R585). -/
def BrgX.inWindows (x : BrgX) (d l now : Nat) : Nat × Nat :=
  let mine := x.fails.filter (fun f => f.dir == d && f.lane == l)
  (((mine.filter (fun f => decide (now < f.endMs))).map (·.count)).foldl (· + ·) 0,
    ((mine.filter (fun f => decide (now < f.endS))).map (·.count)).foldl (· + ·) 0)

end Sys2Proof.Machine
end

