-- ==== Sys2Proof/Machine/RlCore.lean ====
section
/-! DEFINITION. Packets on Ranhosia Link: routing header (Table 12-4), the tables' choice of a port (R638-R641), sending through a
port (R631, R633), and the packets that end here. -/
namespace Sys2Proof.Machine

/-- The device's node ID and whether it has one (R637). -/
def nodeValid (s : State) : Bool := flag glbP GLB_NODE_NODE_VALID s
def nodeId (s : State) : Nat := getF glbP GLB_NODE_NODE_ID s
def nodeEpoch (s : State) : Nat := getF glbP GLB_NODE_EPOCH s

/-- Link state of an RL port. -/
def portOf (p : Nat) (s : State) : LinkDir := alGetD s.ports p .fresh

/-- When things began on a port. -/
def portTime (p : Nat) (s : State) : LinkT := alGetD s.portT p .rest

/-- Store the link state of a port, with the times that its change begins. -/
def setPort (p : Nat) (l : LinkDir) (s : State) : State :=
  { s with ports := alSet s.ports p l
           portT := alPut LinkT.rest s.portT p (LinkT.stamp 8 16 896 s.now (portOf p s) l (portTime p s)) }

/-- Port p beside its page. -/
def rlpX (p : Nat) (s : State) : RlpX := alGetD s.rlps p .rest

/-- Store it. -/
def setRlpX (p : Nat) (x : RlpX) (s : State) : State := { s with rlps := alPut RlpX.rest s.rlps p x }

/-- Lanes of a 4-bit map, and back. -/
def lanes4 (m : Nat) : List Nat := (List.range 4).filter (fun l => bitOf m l)
def map4 (l : List Nat) : Nat := l.foldl (fun a x => a + 2 ^ x) 0

/-- Lanes in use, by direction (0 receive, 1 transmit). -/
def rlUsed (p d : Nat) (s : State) : List Nat := lanes4 (getF (rlpP p) (if d = 0 then RLP_STAT_USED_RX else RLP_STAT_USED_TX) s)

/-- Flits freed at the receiver and not yet returned, by VC. -/
def rlUntold (l : LinkDir) : List (Nat × Nat) :=
  ((List.range 8).map (fun v => (v, (l.freed[v]?).getD 0 - (l.told[v]?).getD 0))).filter (fun e => e.2 != 0)

/-- A flit joins the flit stream of port p, whose 640-byte blocks go to the used lanes in turn, block i to the lane of rank i mod W, in codewords
that count up on each lane (R628, R629). -/
def rlStream (p : Nat) (flit : List Byte) (s : State) : State :=
  let x := rlpX p s
  let lanes := rlUsed p 1 s
  let b := x.tx ++ flit
  if lanes.isEmpty then s
  else if b.length < 640 then setRlpX p { x with tx := b } s
  else
    let lane := (lanes[x.blk % lanes.length]?).getD 0
    emit (.rlCodeword p lane (codeword (x.blk / lanes.length) lane (b.take 640)))
      (setRlpX p { x with tx := b.drop 640, blk := x.blk + 1 } s)

/-- A flit goes out of port p: header with the ACK, payload, in its trailer the credits of one VC that are not yet returned, CRC (R630, R631). -/
def rlOutFlit (p : Nat) (ctrl : Bool) (vc seq : Nat) (head : Bool) (pay : List Byte) (s : State) : State :=
  let l := portOf p s
  let c := (rlUntold l).head?.map (fun e => (e.1, min 255 e.2))
  let flit := rlFlitBytes (rlHdr ctrl vc seq l.ack head 0) pay c
  let s1 := setPort p { l with told := match c with | some e => vcAdd l.told e.1 e.2 | none => l.told } s
  rlStream p flit (emit (.rlFlit p flit) s1)

/-- Sequenced flits go out, first sent or resent. -/
def emitRl (p : Nat) (l : List Unacked) (s : State) : State :=
  l.foldl (fun t f => if f.vc < 8 then rlOutFlit p false f.vc f.seq f.head f.pay t else rlOutFlit p true 0 f.seq false (rlCtlBytes f.ctl) t) s

/-- An unsequenced control flit goes out (R632). -/
def rlTell (p : Nat) (f : List Nat) (s : State) : State := rlOutFlit p true 0 0 false (rlCtlBytes f) s

/-- The port carries (R643). -/
def carries (p : Nat) (s : State) : Bool := decide (p < 16) && flag (rlpP p) RLP_STAT_CARRYING s

/-- Free credits of a port on a VC (R631); none while its replay buffer of 512 flits has no room for `n` more. -/
def portCredit (p vc n : Nat) (s : State) : Nat :=
  let l := portOf p s
  if l.replay.length + n > 512 ∨ ¬ l.ctl.isEmpty then 0 else l.free 8 16 896 vc

/-- Routing header word 0 (Table 12-4). -/
def Pkt.w0 (k : Pkt) : Nat :=
  k.dst % 2 ^ 18 + k.src % 2 ^ 18 * 2 ^ 18 + k.hops % 64 * 2 ^ 36 + k.age % 2 ^ 14 * 2 ^ 42 + k.cls % 8 * 2 ^ 56
    + b2n k.esc * 2 ^ 59 + b2n k.flood * 2 ^ 60 + b2n k.sr * 2 ^ 61

/-- A packet as it enters its VC's byte stream: routing header, body, zeros up to a multiple of 8 bytes (R634). -/
def Pkt.bytes (k : Pkt) : List Byte := leBytes 8 k.w0 ++ leBytes 8 (k.body.length % 2 ^ 13) ++ padded8 k.body

/-- Flits of a packet: its bytes in 240-byte payloads (R630, R634). -/
def Pkt.flits (k : Pkt) : Nat := (16 + (k.body.length + 7) / 8 * 8 + 239) / 240

/-- A packet that begins here. -/
def Pkt.own (dst cls : Nat) (body : List Byte) (s : State) : Pkt := ⟨16, dst, nodeId s, 63, 0, cls, false, false, false, body⟩

/-- VC that a packet takes (R640). -/
def Pkt.vc (k : Pkt) : Nat := if k.esc then (if k.cls = 1 then 7 else 6) else k.cls

/-- Send a packet out of a port: its flits go out and enter the replay buffer, count in RLP_TX, and transit bytes in RTR_TRANSIT. -/
def sendPort (p : Nat) (k : Pkt) (s : State) : State :=
  let l := portOf p s
  let l1 := l.send k.vc 0 0 128 true (chunks 240 k.bytes)
  let s1 := setPort p l1 (bump64 (rlpP p + 0xB0) k.flits s)
  let s2 := if k.inp < 16 then bump64 (rtrP 0 + 0x94) k.body.length s1 else s1
  emitRl p (l1.replay.drop l.replay.length) s2

/-- A packet is discarded (R635). -/
def rlDiscard (s : State) : State := recordCE (rtrP 0) 0x2202 0 0 (bump (rtrP 0) RTR_DROP_DISCARD 1 s)

/-- A packet that another device sent on has aged by the whole microseconds since t0 (R635). -/
def Pkt.aged (k : Pkt) (t0 : Nat) (s : State) : Pkt := if k.inp < 16 then { k with age := k.age + (s.now - t0) / 1000 } else k

/-- The packet has become too old. -/
def Pkt.old (k : Pkt) : Bool := decide (k.inp < 16) && decide (k.age ≥ 16000)

/-- Send a flooded or source-routed packet out of one port, on which it waits for its credits behind those that wait there already (R631, R633); it has
waited since package time t0. On a port that does not carry, a source-routed one is discarded, and a flooded one goes no further there. -/
def sendVia (p : Nat) (k : Pkt) (t0 : Nat) (s : State) : State :=
  let a := k.aged t0 s
  if a.old || (!carries p s && k.sr) then rlDiscard s
  else if !carries p s then s
  else if s.rlOut.any (fun e => e.1 == p) || decide (portCredit p k.vc k.flits s < k.flits) then { s with rlOut := s.rlOut ++ [(p, k, t0)] }
  else sendPort p a s

/-- Address of the table entry for destination d (R638); none for the device itself. -/
def entryAddr (d : Nat) (s : State) : Option Nat :=
  let me := nodeId s
  if d / 256 ≠ me / 256 then
    let g := d / 256 % 1024
    some (if g < 512 then rtrP 2 + 0x200 + 4 * g else rtrP 3 + 0x200 + 4 * (g - 512))
  else if d % 256 ≠ me % 256 ∨ ¬ nodeValid s then some (rtrP 1 + 0x400 + 4 * (d % 256))
  else none

/-- The entry for destination d; one with bad parity acts as all-invalid (TABLE_PARITY). -/
def routeEntry (d : Nat) (s : State) : Nat :=
  match entryAddr d s with
  | none => 0
  | some a => if s.rtrBad.contains a then 0 else (rdW a s).toNat

/-- Live candidates of an entry, in order (R639). -/
def liveCands (e : Nat) (s : State) : List Nat :=
  ((List.range 4).filter (fun i => bitOf e (20 + i) && carries (bitsOf e (4 * i + 3) (4 * i)) s)).map
    (fun i => bitsOf e (4 * i + 3) (4 * i))

/-- The escape port of an entry, when it carries. -/
def escPort (e : Nat) (s : State) : Option Nat :=
  if bitOf e 24 && carries (bitsOf e 19 16) s then some (bitsOf e 19 16) else none

/-- The candidate with the most free credits, the earlier on a tie. -/
def bestPort (vc n : Nat) (s : State) : List Nat → Option Nat
  | [] => none
  | p :: t =>
    match bestPort vc n s t with
    | some q => if portCredit q vc n s > portCredit p vc n s then some q else some p
    | none => some p

/-- 8-byte words of a body. -/
def wordsOf : List Byte → List Nat
  | a :: b :: c :: d :: e :: f :: g :: h :: t => leNat [a, b, c, d, e, f, g, h] :: wordsOf t
  | [] => []
  | l => [leNat l]

/-- E2E words 0 and 1 of a packet (Table 12-10). -/
def Pkt.e0 (k : Pkt) : Nat := leNat (k.body.take 8)
def Pkt.e1 (k : Pkt) : Nat := leNat ((k.body.drop 8).take 8)

/-- Poison mask of payload offsets (R656). -/
def poisonMask (bad : List Nat) : Nat :=
  (List.range 64).foldl (fun a b => if bad.any (fun o => min 63 (o / 64) == b) then a + 2 ^ b else a) 0

/-- Offsets below n that a mask marks. -/
def maskBad (m n : Nat) : List Nat := (List.range n).filter (fun o => bitOf m (min 63 (o / 64)))

/-- Poison mask and payload of an end-to-end packet. -/
def Pkt.payload (k : Pkt) : List Byte × List Nat :=
  if bitOf k.e0 46 then
    let d := k.body.drop 24
    (d, maskBad (leNat ((k.body.drop 16).take 8)) d.length)
  else (k.body.drop 16, [])

/-- The body of an end-to-end packet. -/
def e2eBody (w0 w1 : Nat) (data : List Byte) (bad : List Nat) : List Byte :=
  if bad.isEmpty then leBytes 8 w0 ++ leBytes 8 w1 ++ data
  else leBytes 8 (w0 + 2 ^ 46) ++ leBytes 8 w1 ++ leBytes 8 (poisonMask bad) ++ data

/-- The response to a request whose word 0 is `e0` (R656): its fields with RESP and a status, word 1 copied. -/
def respPkt (dst e0 e1 status : Nat) (data : List Byte) (bad : List Nat) (s : State) : Pkt :=
  Pkt.own dst 1 (e2eBody (e0 % 2 ^ 34 + 2 ^ 34 + bitsOf e0 37 35 * 2 ^ 35 + status % 256 * 2 ^ 38) e1 data bad) s

/-- A probe's words (the spec gives its contents, not its layout): kind, initiator, start and block, target rod, and its path. -/
def Probe.words (p : Probe) : List Nat :=
  [b2n p.conf, p.node, p.rod, p.unit, p.num, p.start, p.fab, p.block, p.dest, p.passed]
    ++ p.path.flatMap (fun x => [x.1, x.2.1, x.2.2.1, x.2.2.2])

/-- Fours of a list. -/
def fours : List Nat → List (Nat × Nat × Nat × Nat)
  | a :: b :: c :: d :: t => (a, b, c, d) :: fours t
  | _ => []

/-- The probe that words spell. -/
def probeOf (l : List Nat) : Probe :=
  let g (k : Nat) : Nat := (l[k]?).getD 0
  ⟨g 0 == 1, g 1, g 2, g 3, g 4, g 5, g 6, g 7, g 8, g 9, fours (l.drop 10)⟩

/-- A packet that ends here: end-to-end packets wait for the engine, probes go to their rod. Fabric control messages have their own
steps. -/
def takePkt (k : Pkt) (s : State) : State :=
  if k.cls < 4 then { s with e2e := { s.e2e with arrived := s.e2e.arrived ++ [k] } }
  else if k.cls = 4 then { s with probes := s.probes ++ [probeOf (wordsOf k.body)] }
  else s

/-- Keep a packet for a port or a credit; it has waited since package time t0. -/
def holdPkt (k : Pkt) (t0 : Nat) (s : State) : State := { s with rlWait := s.rlWait ++ [(k, t0)] }

/-- A NO_ROUTE case (R641): counted, raised and recorded. -/
def noRoute (s : State) : State :=
  recordCE (rtrP 0) 0x2201 0 0 (raise (rtrP 0) 20 (bump (rtrP 0) RTR_DROP_NOROUTE 1 s))

/-- Route a packet that is not for this device (R635, R639-R641): through a live candidate with a credit, or held, or a NO_ROUTE case whose
request is answered to its source. It has waited since package time t0, and is discarded once it is too old. -/
def routePkt : Nat → Pkt → Nat → State → State
  | 0, _, _, s => s
  | f + 1, k, t0, s =>
    let e := routeEntry k.dst s
    let n := k.flits
    let live := liveCands e s
    if live.isEmpty && (escPort e s).isNone then
      let s1 := noRoute s
      if (k.cls = 0 ∨ k.cls = 2 ∨ k.cls = 3) ∧ k.src ≠ nodeId s ∧ ¬ bitOf k.e0 34 then
        routePkt f (respPkt k.src k.e0 k.e1 3 [] [] s) s.now s1
      else s1
    else if (k.aged t0 s).old then rlDiscard s
    else if k.esc then
      match escPort e s with
      | some p => if portCredit p k.vc n s ≥ n then sendPort p (k.aged t0 s) s else holdPkt k t0 s
      | none => holdPkt k t0 s
    else match bestPort k.vc n s live with
      | some p => if portCredit p k.vc n s ≥ n then sendPort p (k.aged t0 s) s else holdPkt k t0 s
      | none => holdPkt k t0 s

/-- Send a packet towards its destination, which may be this device (R670). -/
def sendPkt (k : Pkt) (s : State) : State :=
  if nodeValid s && k.dst == nodeId s then takePkt k s else routePkt 2 k s.now s

end Sys2Proof.Machine
end

