-- ==== Sys2Proof/Machine/E2ECore.lean ====
section
/-! DEFINITION. The source side of the end-to-end engine (R655-R658, R665): tags, attempts, and the order of MSG transactions. -/
namespace Sys2Proof.Machine

/-- FABRIC is in force, so far as the licence set says. -/
def fabricOn (s : State) : Bool := bitOf (getF glbP GLB_LIC_FEATURES s) 0

/-- New transactions may be issued (R653, R670). -/
def e2eOpen (s : State) : Bool := fabricOn s && nodeValid s && !flag (e2eP 0) E2E_STAT_LEAVING s && s.fatal.isEmpty

/-- A tag is free: no live use, and its previous use started 0.5 ms ago or more (R657). -/
def tagFree (e : E2eSt) (now t : Nat) : Bool :=
  e.live.all (fun x => x.tag != t) && (match alGet e.starts t with | some a => decide (now ≥ a + 500000) | none => true)

/-- The next free tag in cyclic order, looking at `f` of them. -/
def findTag (e : E2eSt) (now : Nat) : Nat → Nat → Option Nat
  | 0, _ => none
  | f + 1, t => if tagFree e now (t % 16384) then some (t % 16384) else findTag e now f (t + 1)

/-- Source rod, node, rod and channel of an MSG transaction (R665). -/
def Txn.key (t : Txn) : Option (Nat × Nat × Nat) :=
  if t.op = 2 then (match t.who with | .send i _ | .gone i => some (i, t.node, t.addr) | _ => none) else none

/-- Show the transactions outstanding. -/
def showOut (s : State) : State := setF (e2eP 0) E2E_STAT_OUT (s.e2e.live.length + s.e2e.wait.length) s

/-- E2E word 0 of an attempt (Table 12-10). -/
def Txn.w0 (t : Txn) (attempt epoch : Nat) : Nat :=
  t.tag + epoch % 256 * 2 ^ 14 + t.use % 256 * 2 ^ 22 + t.op * 2 ^ 30 + attempt % 8 * 2 ^ 35

/-- E2E word 1. -/
def Txn.w1 (t : Txn) : Nat := t.addr % 2 ^ 46 + t.rlen % 2 ^ 12 * 2 ^ 46 + t.aop % 16 * 2 ^ 58

/-- Send an attempt of a transaction. -/
def sendAttempt (t : Txn) (s : State) : State :=
  sendPkt (Pkt.own t.node t.cls (e2eBody (t.w0 t.sent (nodeEpoch s)) t.w1 t.data t.bad) s) s

/-- Start a waiting transaction if it may (R657, R663, R665), or keep it waiting. -/
def tryStart (s : State) (t : Txn) : State :=
  let e := s.e2e
  let keep := { s with e2e := { e with wait := e.wait ++ [t] } }
  let blocked : Bool := flag (e2eP 0) E2E_STAT_QUIET s || !e.announced || !s.fatal.isEmpty
    || (match t.key with
        | some k => (e.live ++ e.wait).any (fun x => x.key == some k)
        | none => false)
  if blocked then keep
  else match findTag e s.now 16384 e.next with
    | none => keep
    | some g =>
      let u := (alGetD e.uses g 0 + 1) % 256
      let t1 := { t with tag := g, use := u, start := s.now, sent := 1 }
      let e1 := { e with
        next := (g + 1) % 16384, uses := alSet e.uses g u, starts := alSet e.starts g s.now, live := e.live ++ [t1] }
      let s1 := setF (e2eP 1) ⟨0x200 + 4 * (g / 32), g % 32, g % 32⟩ 1 { s with e2e := e1 }
      sendAttempt { t1 with sent := 0 } s1

/-- Start every waiting transaction that may start now, in order. -/
def e2ePump (s : State) : State := showOut (s.e2e.wait.foldl tryStart { s with e2e := { s.e2e with wait := [] } })

/-- Hand a transaction to the engine (R655). -/
def e2eSubmit (op cls node addr rlen aop : Nat) (data : List Byte) (bad : List Nat) (who : Issuer) (s : State) : State :=
  e2ePump { s with e2e := { s.e2e with
    wait := s.e2e.wait ++ [⟨0, 0, op, cls, node, addr, rlen, aop, data, bad, s.now, 0, none, who⟩] } }

/-- A live transaction ends: its tag is free again. -/
def e2eRetire (t : Txn) (s : State) : State :=
  showOut (setF (e2eP 1) ⟨0x200 + 4 * (t.tag / 32), t.tag % 32, t.tag % 32⟩ 0
    { s with e2e := { s.e2e with live := s.e2e.live.filter (fun x => x.tag != t.tag) } })

/-- What the issuer sees of a final response (Table 12-11). -/
def issuerStatus (st : Nat) : Nat :=
  match st with
  | 0 => 0 | 4 => 8 | 5 => 4 | 6 => 3 | 7 => 0x80 | 8 => 0x81 | 9 => 0x82 | 0x0A => 9 | _ => 0x0A

end Sys2Proof.Machine
end

