-- ==== Sys2Proof/Machine/Float.lean ====
section
/-! DEFINITION. The number formats of chapter 6 and their arithmetic: exact values, rounding (Table 6-3, R295-R299), packing
(R289), MX blocks (R291-R293), the FP32 and BF16 operations (R304, R310), and the correctly rounded functions of Table 6-6. -/
namespace Sys2Proof.Machine

/-- The exact value that a float code holds: NaN, an infinity, or (-1)^neg x m x 2^e (zero keeps its sign). -/
inductive FV where
  | nan
  | inf (neg : Bool)
  | fin (neg : Bool) (m : Nat) (e : Int)
  deriving DecidableEq, Repr

/-- What the top exponent codes of a format mean: IEEE infinities and NaNs, one NaN code only (E4M3), or neither. -/
inductive FTop where
  | ieee | oneNan | none
  deriving DecidableEq, Repr

/-- Parameters of a float format (Table 6-2): exponent and mantissa bits, bias, and its top codes. -/
structure FFmt where
  eb : Nat
  mb : Nat
  bias : Nat
  top : FTop
  deriving DecidableEq, Repr

abbrev fmtFp32 : FFmt := ⟨8, 23, 127, .ieee⟩
abbrev fmtBf16 : FFmt := ⟨8, 7, 127, .ieee⟩
abbrev fmtFp16 : FFmt := ⟨5, 10, 15, .ieee⟩
abbrev fmtE5m2 : FFmt := ⟨5, 2, 15, .ieee⟩
abbrev fmtE4m3 : FFmt := ⟨4, 3, 7, .oneNan⟩
abbrev fmtE3m2 : FFmt := ⟨3, 2, 3, .none⟩
abbrev fmtE2m3 : FFmt := ⟨2, 3, 1, .none⟩
abbrev fmtE2m1 : FFmt := ⟨2, 1, 1, .none⟩

/-- A format code of Table 6-1: a float format, or an integer format of so many bits. -/
inductive FKind where
  | flt (f : FFmt) (mx : Bool)
  | int (w : Nat)
  deriving DecidableEq, Repr

/-- Format codes (Table 5-1, Table 6-1). -/
def fmtOf (c : Nat) : Option FKind :=
  match c with
  | 0 => some (.flt fmtE4m3 false) | 1 => some (.flt fmtE5m2 false) | 2 => some (.int 8)
  | 3 => some (.flt fmtE4m3 true) | 4 => some (.flt fmtE5m2 true) | 5 => some (.flt fmtE3m2 true)
  | 6 => some (.flt fmtE2m3 true) | 7 => some (.flt fmtE2m1 true) | 8 => some (.int 4)
  | 9 => some (.flt fmtBf16 false) | 10 => some (.flt fmtFp16 false) | 11 => some (.flt fmtFp32 false)
  | 12 => some (.int 32) | _ => none

/-- Bits of an element. -/
def FKind.bits : FKind → Nat
  | .flt f _ => 1 + f.eb + f.mb
  | .int w => w

/-- The format carries E8M0 block scales. -/
def FKind.mx : FKind → Bool
  | .flt _ m => m
  | .int _ => false

/-- The format is an integer format. -/
def FKind.isInt : FKind → Bool
  | .flt _ _ => false
  | .int _ => true

/-! ### Decoding and rounding -/

/-- Number of bits of a natural number (0 for 0). -/
def bitLen (n : Nat) : Nat := if n = 0 then 0 else Nat.log2 n + 1

/-- Largest finite code without its sign. -/
def FFmt.maxCode (f : FFmt) : Nat :=
  match f.top with
  | .ieee => (2 ^ f.eb - 1) * 2 ^ f.mb - 1
  | .oneNan => 2 ^ (f.eb + f.mb) - 2
  | .none => 2 ^ (f.eb + f.mb) - 1

/-- The value of a code (R284). -/
def fdec (f : FFmt) (c : Nat) : FV :=
  let neg := bitOf c (f.eb + f.mb)
  let u := c % 2 ^ (f.eb + f.mb)
  if u > f.maxCode then
    (if f.top = .ieee ∧ u = f.maxCode + 1 then .inf neg else .nan)
  else
    let ex := u / 2 ^ f.mb
    let m := u % 2 ^ f.mb
    if ex = 0 then .fin neg m (1 - (f.bias : Int) - f.mb)
    else .fin neg (2 ^ f.mb + m) ((ex : Int) - f.bias - f.mb)

/-- Canonical NaN of a format (R288). -/
def FFmt.nanCode (f : FFmt) : Nat :=
  match f.top with
  | .ieee => (2 ^ f.eb - 1) * 2 ^ f.mb + 2 ^ (f.mb - 1)
  | .oneNan => 2 ^ (f.eb + f.mb) - 1
  | .none => 0

/-- The sign bit of a code. -/
def signBit (f : FFmt) (neg : Bool) : Nat := if neg then 2 ^ (f.eb + f.mb) else 0

/-- Whether the part shifted out, `rem` of `den`, rounds the kept part `r` up, under a rounding mode of Table 6-3. -/
def roundUp (mode : Nat) (neg : Bool) (r rem den : Nat) : Bool :=
  match mode with
  | 0 => decide (2 * rem > den) || (decide (2 * rem = den) && r % 2 == 1)
  | 1 => false
  | 2 => neg && decide (rem ≠ 0)
  | _ => !neg && decide (rem ≠ 0)

/-- Code of m x 2^e rounded with an unbounded exponent range above, without the sign: compare with `maxCode` for overflow. -/
def roundMag (f : FFmt) (mode : Nat) (neg : Bool) (m : Nat) (e : Int) : Nat :=
  if m = 0 then 0
  else
    let qmin : Int := 1 - (f.bias : Int) - f.mb
    let q : Int := max ((bitLen m : Int) - 1 + e - f.mb) qmin
    let k := (q - qmin).toNat
    let mant :=
      if q ≤ e then m * 2 ^ (e - q).toNat
      else
        let d := min (q - e).toNat (bitLen m + 2)
        let r := m / 2 ^ d
        if roundUp mode neg r (m % 2 ^ d) (2 ^ d) then r + 1 else r
    k * 2 ^ f.mb + mant

/-- The result of a conversion: its code, whether it was clamped (R330), and whether it made a NaN of an input that was not
(R329). -/
structure Conv where
  code : Nat
  clamp : Bool
  invalid : Bool
  deriving DecidableEq, Repr

/-- Convert to a float format that is not an MX target (R295, R296, R299). -/
def toFlt (f : FFmt) (mode : Nat) (sat : Bool) (v : FV) : Conv :=
  let maxi (neg : Bool) := signBit f neg + f.maxCode
  let past (neg : Bool) : Conv :=
    if sat then ⟨maxi neg, true, false⟩
    else match f.top with
      | .ieee =>
        let stay := mode == 1 || (mode == 2 && !neg) || (mode == 3 && neg)
        if stay then ⟨maxi neg, false, false⟩ else ⟨maxi neg + 1, false, false⟩
      | .oneNan => ⟨signBit f neg + f.nanCode, false, true⟩
      | .none => ⟨maxi neg, true, false⟩
  match v with
  | .nan => ⟨f.nanCode, false, false⟩
  | .inf neg =>
    if sat then ⟨maxi neg, true, false⟩
    else match f.top with
      | .ieee => ⟨maxi neg + 1, false, false⟩
      | .oneNan => ⟨signBit f neg + f.nanCode, false, true⟩
      | .none => ⟨maxi neg, true, false⟩
  | .fin neg m e =>
    let c := roundMag f mode neg m e
    if c > f.maxCode then past neg else ⟨signBit f neg + c, false, false⟩

/-- Round a value to an integer of magnitude under a rounding mode. -/
def roundInt (mode : Nat) (neg : Bool) (m : Nat) (e : Int) : Nat :=
  if 0 ≤ e then m * 2 ^ e.toNat
  else
    let d := min (-e).toNat (bitLen m + 2)
    let r := m / 2 ^ d
    if roundUp mode neg r (m % 2 ^ d) (2 ^ d) then r + 1 else r

/-- Convert to an integer format of `w` bits (R297); the code is two's complement. -/
def toInt (w mode : Nat) (v : FV) : Conv :=
  let lim (neg : Bool) : Conv := ⟨unsigned w (if neg then -(2 : Int) ^ (w - 1) else (2 : Int) ^ (w - 1) - 1), true, false⟩
  match v with
  | .nan => ⟨0, false, false⟩
  | .inf neg => lim neg
  | .fin neg m e =>
    if e > 64 ∧ m ≠ 0 then lim neg
    else
      let r := roundInt mode neg m e
      let i : Int := if neg then -(r : Int) else r
      if i < -(2 : Int) ^ (w - 1) ∨ (2 : Int) ^ (w - 1) - 1 < i then lim neg else ⟨unsigned w i, false, false⟩

/-- The value of an integer. -/
def ofInt (i : Int) : FV := .fin (decide (i < 0)) i.natAbs 0

/-- The value of an element of a format, without its block scale. -/
def kdec (k : FKind) (c : Nat) : FV :=
  match k with
  | .flt f _ => fdec f c
  | .int w => ofInt (signed w c)

/-- Encode into FP32 by RNE with the overflow rule of SAT 0: an FP32 result. -/
def enc32 (v : FV) : Nat := (toFlt fmtFp32 0 false v).code

/-- Decode an FP32 code. -/
def dec32 (c : Nat) : FV := fdec fmtFp32 c

/-! ### Exact arithmetic -/

/-- Multiply by 2^k. -/
def FV.scale (v : FV) (k : Int) : FV :=
  match v with
  | .fin n m e => .fin n m (e + k)
  | v => v

/-- Negate. -/
def FV.neg : FV → FV
  | .nan => .nan
  | .inf n => .inf !n
  | .fin n m e => .fin (!n) m e

/-- The exact product; 0 x infinity is NaN. -/
def FV.mul : FV → FV → FV
  | .nan, _ => .nan
  | _, .nan => .nan
  | .inf a, .inf b => .inf (a != b)
  | .inf a, .fin b m _ => if m = 0 then .nan else .inf (a != b)
  | .fin a m _, .inf b => if m = 0 then .nan else .inf (a != b)
  | .fin a m e, .fin b n d => .fin (a != b) (m * n) (e + d)

/-- A finite value as an integer multiple of 2^q, for q at most its exponent. -/
def finAt (neg : Bool) (m : Nat) (e q : Int) : Int :=
  let x : Int := m * 2 ^ (e - q).toNat
  if neg then -x else x

/-- The exact sum; an exact zero sum of opposite signs is +0, as IEEE 754 gives for RNE. -/
def FV.add : FV → FV → FV
  | .nan, _ => .nan
  | _, .nan => .nan
  | .inf a, .inf b => if a = b then .inf a else .nan
  | .inf a, .fin _ _ _ => .inf a
  | .fin _ _ _, .inf b => .inf b
  | .fin a m e, .fin b n d =>
    if m = 0 ∧ n = 0 then .fin (a && b) 0 0
    else if m = 0 then .fin b n d
    else if n = 0 then .fin a m e
    else
      let q := min e d
      let x := finAt a m e q + finAt b n d q
      .fin (decide (x < 0)) x.natAbs q

/-- Product of the operands is 0 x infinity (R329). -/
def FV.badMul : FV → FV → Bool
  | .inf _, .fin _ m _ => m == 0
  | .fin _ m _, .inf _ => m == 0
  | _, _ => false

/-- Sum of the operands is infinity - infinity (R329). -/
def FV.badAdd : FV → FV → Bool
  | .inf a, .inf b => a != b
  | _, _ => false

/-- Order of two values that are not NaN, -0 and +0 equal: the first is smaller. -/
def FV.lt : FV → FV → Bool
  | .nan, _ => false
  | _, .nan => false
  | .inf a, .inf b => a && !b
  | .inf a, .fin _ _ _ => a
  | .fin _ _ _, .inf b => !b
  | .fin a m e, .fin b n d => decide (finAt a m e (min e d) < finAt b n d (min e d))

/-- Neither value is NaN and they are equal, -0 and +0 being equal. -/
def FV.eq (a b : FV) : Bool :=
  match a, b with
  | .nan, _ => false
  | _, .nan => false
  | a, b => !a.lt b && !b.lt a

/-- The value is NaN. -/
def FV.isNan : FV → Bool
  | .nan => true
  | _ => false

/-- The value is zero. -/
def FV.isZero : FV → Bool
  | .fin _ m _ => m == 0
  | _ => false

/-- Sign of a value. -/
def FV.sign : FV → Bool
  | .nan => false
  | .inf n => n
  | .fin n _ _ => n

/-- Order with -0 below +0 (R311). -/
def FV.ltz (a b : FV) : Bool := a.lt b || (a.isZero && b.isZero && a.sign && !b.sign)

/-! ### FP32 operations, each rounded once by RNE -/

def f32add (a b : Nat) : Nat := enc32 ((dec32 a).add (dec32 b))
def f32sub (a b : Nat) : Nat := enc32 ((dec32 a).add (dec32 b).neg)
def f32mul (a b : Nat) : Nat := enc32 ((dec32 a).mul (dec32 b))
def f32fma (a b c : Nat) : Nat := enc32 (((dec32 a).mul (dec32 b)).add (dec32 c))

/-- A quotient with 2^63 or more before the point of its last place, a set last bit standing for a remainder. -/
def FV.div : FV → FV → FV
  | .nan, _ => .nan
  | _, .nan => .nan
  | .inf _, .inf _ => .nan
  | .inf a, .fin b _ _ => .inf (a != b)
  | .fin a _ _, .inf b => .fin (a != b) 0 0
  | .fin a m e, .fin b n d =>
    if n = 0 then (if m = 0 then .nan else .inf (a != b))
    else if m = 0 then .fin (a != b) 0 0
    else
      let k := 64 + bitLen n
      let x := m * 2 ^ k
      .fin (a != b) (2 * (x / n) + (if x % n = 0 then 0 else 1)) (e - d - k - 1)

def f32div (a b : Nat) : Nat := enc32 ((dec32 a).div (dec32 b))

/-- Integer square root, bit by bit from 2^(k-1). -/
def isqrtGo (x : Nat) : Nat → Nat → Nat
  | 0, r => r
  | k + 1, r => isqrtGo x k (if (r + 2 ^ k) * (r + 2 ^ k) ≤ x then r + 2 ^ k else r)

/-- Floor of the square root. -/
def isqrt (x : Nat) : Nat := isqrtGo x (bitLen x / 2 + 1) 0

/-- The square root, a set last bit standing for a remainder. -/
def FV.sqrt : FV → FV
  | .nan => .nan
  | .inf n => if n then .nan else .inf false
  | .fin n m e =>
    if m = 0 then .fin n 0 0
    else if n then .nan
    else
      let o := (e % 2).toNat
      let x := m * 2 ^ (128 + o)
      let r := isqrt x
      .fin false (2 * r + (if r * r = x then 0 else 1)) ((e - o) / 2 - 64 - 1)

/-- 1 over the square root. -/
def FV.rsqrt : FV → FV
  | .nan => .nan
  | .inf n => if n then .nan else .fin false 0 0
  | .fin n m e =>
    if m = 0 then .inf n
    else if n then .nan
    else
      let o := (e % 2).toNat
      let y := m * 2 ^ o
      let t := 64 + bitLen y
      let x := 2 ^ (2 * t) / y
      let r := isqrt x
      .fin false (2 * r + (if r * r * y = 2 ^ (2 * t) then 0 else 1)) (-((e - o) / 2) - t - 1)

/-! ### 2^x and log2 x -/

/-- The natural logarithm of 2 times 2^256, rounded down. -/
def ln2Fix : Nat := 0xb17217f7d1cf79abc9e3b39803f2f6af40f343267298b62d8a0d175b8baafa2b

/-- Sum of the Taylor terms of exp(y) for y = x / 2^256, from term k on: each term is the last one times y over its index. -/
def expSum (x : Nat) : Nat → Nat → Nat → Nat
  | 0, _, _ => 0
  | n + 1, k, t => t + expSum x n (k + 1) (t * x / 2 ^ 256 / (k + 1))

/-- 2^x. A finite x that is not an integer has an irrational power, so a set last bit stands for the digits past the 200th
(assumption log 20). -/
def FV.exp2 : FV → FV
  | .nan => .nan
  | .inf n => if n then .fin false 0 0 else .inf false
  | .fin n m e =>
    if m = 0 then .fin false 1 0
    else if (bitLen m : Int) + e > 9 then (if n then .fin false 1 (-100000) else .inf false)
    else
      let x : Int := finAt n m (max e (-256)) (-256)
      let ip := x / (2 : Int) ^ 256
      let fp := (x % (2 : Int) ^ 256).toNat
      if fp = 0 then .fin false 1 ip
      else .fin false (2 * (expSum (fp * ln2Fix / 2 ^ 256) 64 0 (2 ^ 256) / 2 ^ 56) + 1) (ip - 201)

/-- Binary digits of log2 of x / 2^320 in [1, 2), most significant first, n of them, as one number. -/
def logDigits : Nat → Nat → Nat → Nat
  | 0, _, acc => acc
  | n + 1, x, acc =>
    let y := x * x / 2 ^ 320
    if y ≥ 2 ^ 321 then logDigits n (y / 2) (2 * acc + 1) else logDigits n y (2 * acc)

/-- log2 x: an integer for a power of two, and otherwise irrational (assumption log 20). -/
def FV.log2 : FV → FV
  | .nan => .nan
  | .inf n => if n then .nan else .inf false
  | .fin n m e =>
    if m = 0 then .inf true
    else if n then .nan
    else
      let k := bitLen m - 1
      let ip : Int := (k : Int) + e
      if m = 2 ^ k then ofInt ip
      else
        let d := logDigits 128 (m * 2 ^ (320 - k)) 0
        let v : Int := (ip * (2 : Int) ^ 128 + d) * 2 + 1
        .fin (decide (v < 0)) v.natAbs (-129)

/-- Integral value under a rounding mode (0 ties to even, 2 down, 3 up); the sign of zero is kept. -/
def FV.integral (mode : Nat) : FV → FV
  | .nan => .nan
  | .inf n => .inf n
  | .fin n m e => if 0 ≤ e then .fin n m e else .fin n (roundInt mode n m e) 0

/-! ### Packing (R289, R290) -/

/-- Element i of b bits of a packed run held as one number. -/
def elemAt (run b i : Nat) : Nat := run / 2 ^ (b * i) % 2 ^ b

/-- The first n elements of b bits of a packed run. -/
def unpack (b n : Nat) (run : Nat) : List Nat := (List.range n).map (elemAt run b)

/-- A packed run of elements as a number, from element i on. -/
def packFrom (b : Nat) : Nat → List Nat → Nat
  | _, [] => 0
  | i, c :: t => c % 2 ^ b * 2 ^ (b * i) + packFrom b (i + 1) t

/-- Bytes of a packed run of n elements. -/
def runBytes (b n : Nat) : Nat := (b * n + 7) / 8

/-- Offsets of the bytes that hold element i. -/
def elemBytes (b i : Nat) : List Nat :=
  (List.range (b * (i + 1) - 1 - b * i + 1)).foldl (fun l k => nsInsert l ((b * i + k) / 8)) []

/-- An element is bad when one of its bytes is. -/
def elemBad (b i : Nat) (bad : List Nat) : Bool :=
  bad.any (fun k => decide (b * i / 8 ≤ k) && decide (k ≤ (b * (i + 1) - 1) / 8))

/-! ### MX blocks -/

/-- An element of an MX block with its scale code (R291); an unscaled format takes scale 127. -/
def mxDec (v : FV) (c : Nat) : FV := if c = 0xFF then .nan else v.scale ((c : Int) - 127)

/-- Exponent of the largest power of two of an MX element format (R293 step 3). -/
def mxEmax (f : FFmt) : Int :=
  match f.eb, f.mb with
  | 4, 3 => 8
  | 5, 2 => 15
  | 3, 2 => 4
  | _, _ => 2

/-- floor(log2 |v|) of a finite non-zero value. -/
def FV.expo : FV → Int
  | .fin _ m e => (bitLen m : Int) - 1 + e
  | _ => 0

/-- Encode a block of 32 values (R293): scale and elements; a code above the largest finite element value is clamped to it. -/
def mxEnc (f : FFmt) (mode : Nat) (vs : List FV) : Nat × List Conv :=
  if vs.any (fun v => match v with | .fin _ _ _ => false | _ => true) then (0xFF, vs.map (fun _ => ⟨0, false, false⟩))
  else if vs.all FV.isZero then (0, vs.map (fun _ => ⟨0, false, false⟩))
  else
    let top := vs.foldl (fun a v => if v.isZero then a else max a v.expo) (-100000)
    let x := min 127 (max (-127) (top - mxEmax f))
    ((x + 127).toNat, vs.map (fun v => toFlt { f with top := .none } mode false
      (v.scale (-x)) |> fun c => if f.top = .none then c else
        let u := c.code % 2 ^ (f.eb + f.mb)
        if u > f.maxCode then { c with code := c.code - u + f.maxCode, clamp := true } else c))

/-! ### Reduction trees -/

/-- One level of a balanced binary tree: neighbours are added. -/
def treeLevel {α : Type} (add : α → α → α) : List α → List α
  | a :: b :: t => add a b :: treeLevel add t
  | l => l

/-- Sum by a balanced binary tree in index order (R252), with fuel for its levels. -/
def treeSum {α : Type} (add : α → α → α) (z : α) : Nat → List α → α
  | _, [] => z
  | _, [a] => a
  | 0, a :: _ => a
  | n + 1, l => treeSum add z n (treeLevel add l)

end Sys2Proof.Machine
end

