-- ==== Sys2Proof/Machine/SeqCore.lean ====
section
/-! DEFINITION. The sequencer's shared operations (chapter 4): program faults, waits and tokens, issue with its checks and
stalls, and the start of a unit's head command. -/
namespace Sys2Proof.Machine

/-- Life state of rod i's SEQ block. -/
def rodLife (i : Nat) (s : State) : Nat := lifeAt (statOf (seqP i)) s

/-- The rod is READY or DRAINING, so a program may exist (R190). -/
def rodRuns (i : Nat) (s : State) : Bool := rodLife i s == 2 || rodLife i s == 3

/-! ### Waits -/

/-- The waits of a command are satisfied by these token counters (R173). -/
def waitsOk (w : CmdWord) (q : SeqSt) : Bool :=
  if cwW0V w && cwW1V w && cwW0 w == cwW1 w then decide (tokAt q (cwW0 w) ≥ 2)
  else (!cwW0V w || decide (tokAt q (cwW0 w) ≥ 1)) && (!cwW1V w || decide (tokAt q (cwW1 w) ≥ 1))

/-- Token counters after the command's waits are consumed (R174). -/
def consume (w : CmdWord) (q : SeqSt) : SeqSt :=
  let q1 := if cwW0V w && !cwKeep0 w then { q with tok := listSet q.tok (cwW0 w) (tokAt q (cwW0 w) - 1) } else q
  if cwW1V w && !cwKeep1 w then { q1 with tok := listSet q1.tok (cwW1 w) (tokAt q1 (cwW1 w) - 1) } else q1

/-- The command's predicate enables it (R177). -/
def enabled (w : CmdWord) (q : SeqSt) : Bool := !cwPen w || (pAt q (cwPidx w) != cwPneg w)

/-- Add a started command. -/
def addStarted (i : Nat) (c : Started) (s : State) : State :=
  let q := seqOf i s
  setSeq i { q with started := q.started ++ [c] } s

/-- Complete a started command whose work is over. -/
def completeNum (i num : Nat) (s : State) : State :=
  match startedBy i num s with
  | some c =>
    if c.done then
      let q := seqOf i s
      finish i c.cmd c.status c.res
        (unitHook i c (setSeq i { q with started := q.started.filter (fun d => d.cmd.num != num) } s))
    else s
  | none => s

/-! ### Issue -/

/-- Advance PC by one after the issue of a command of unit u; sequential fetch past 131,071 is PC_RANGE at that command, which has issued
(R184; DEDUCED, assumption log 108). -/
def advancePc (i u : Nat) (s : State) : State :=
  let pc := pcOf i s
  if pc ≥ 131071 then programFault i 2 u pc s else setF (seqP i) SEQ_PC_PC (pc + 1) s

/-- Branch by sext(IMM[23:0]) from the branch's own PC (R183); a target outside 0-131,071 is PC_RANGE (R184). -/
def branchTarget (pc : Nat) (w : CmdWord) : Int := (pc : Int) + signed 24 (cwImm w % 2 ^ 24)

/-- The target lies in the PC's range. -/
def pcInRange (t : Int) : Bool := decide (0 ≤ t) && decide (t ≤ 131071)

/-- Address of SLD and SST: S[A] + sext(IMM[47:0]). -/
def sldAddr (w : CmdWord) (q : SeqSt) : Nat := ((sAt q (cwA w)).v.toNat + sext 48 (cwImm w)) % 2 ^ 64

/-- The program fault that an enabled command raises at issue instead of issuing, if any (R182, R184, R198). -/
def issueFault (w : CmdWord) (pc : Nat) (q : SeqSt) : Option Nat :=
  match catRow w with
  | none => some 1
  | some r =>
    if (poisonReads w r).any (fun n => (sAt q n).p) then some 8
    else if cwUnit w ≠ 0 then none
    else match cwOp w with
      | 0x02 | 0x04 => if pcInRange (branchTarget pc w) then none else some 2
      | 0x09 => if 1 < lAt q (cwD w) ∧ ¬ pcInRange (branchTarget pc w) then some 2 else none
      | 0x03 => if (sAt q (cwA w)).v.toNat < 131072 then none else some 2
      | 0x28 | 0x29 =>
        if sldAddr w q + 8 > spadSize then some 3 else if sldAddr w q % 8 ≠ 0 then some 4 else none
      | _ => none

/-- A pending register stands in the way of the command (R181), a skipped one's too (DEDUCED, assumption log 106). -/
def scoreboard (w : CmdWord) (q : SeqSt) : Bool :=
  match catRow w with
  | none => false
  | some r => (sReads w r).any q.pendS.contains || (writesS w r && q.pendS.contains (cwD w))
      || (pReads w r).any q.pendP.contains || (r.d == .p && q.pendP.contains (cwD w))

/-- The sequencer stalls on a control command's waits or a full queue (R168). -/
def heldUp (w : CmdWord) (q : SeqSt) : Bool :=
  if cwUnit w == 0 then !waitsOk w q else decide ((queueOf q (cwUnit w)).length ≥ 8)

/-- Issue of the command stalls (R168). -/
def stalls (w : CmdWord) (q : SeqSt) : Bool := scoreboard w q || heldUp w q

/-- The sequencer stalls at this command; the time of R207 runs from the first moment it does. -/
def markStall (i : Nat) (w : CmdWord) (s : State) : State :=
  let q := seqOf i s
  let since := match q.stall with | some (v, t) => if v = w then t else s.now | none => s.now
  setF (seqP i) SEQ_STALL_ISSUE 1 (setSeq i { q with stall := some (w, since) } s)

/-- The command word at a PC: 16 scratchpad bytes, the lowest address first (R164, R165). -/
def cmdAt (i pc : Nat) (s : State) : CmdWord := BitVec.ofNat 128 (leNat (spadRead i (16 * pc) 16 s))

/-- The program fault due at the command the sequencer comes to, if any: a word fetched with poison (R907, Table 18-6), ILLEGAL_CMD (R206), and,
once nothing stalls it, those of an enabled command. FUNIT holds three bits of UNIT (log 150). -/
def faultAt (i : Nat) (w : CmdWord) (s : State) : Option State :=
  let q := seqOf i s
  let pc := pcOf i s
  if !(spadBadIn i (16 * pc) 16 s).isEmpty then
    some (recordErr (seqP i) 0x1003 1 (pc % 4096) pc true (programFault i 8 (cwUnit w % 8) pc (spadSeen i (16 * pc) 16 s)))
  else if !legal w then some (programFault i 1 (cwUnit w % 8) pc s)
  else if stalls w q || !enabled w q then none
  else match issueFault w pc q with
    | some 8 => some (recordErr (seqP i) 0x1003 1 (pc % 4096) pc true (programFault i 8 (cwUnit w) pc s))
    | some c => some (programFault i c (cwUnit w) pc s)
    | none => none

/-- Breakpoint at `pc` (R232). -/
def breakAt (i pc : Nat) (s : State) : Bool :=
  (flag (dbgP i) DBG_CTL_BP0_EN s && getF (dbgP i) DBG_BP0_PC s == pc)
    || (flag (dbgP i) DBG_CTL_BP1_EN s && getF (dbgP i) DBG_BP1_PC s == pc)

/-- What the sequencer does when it comes to a command: it stays as it is, or moves to another state without issuing, or
issues. -/
inductive Come where
  | stays (s : State)
  | goes

/-- The checks of issue, in order: the sequencer runs or steps; a program fault due at the command, which wins over a pause (R224); a stall (R168); a
breakpoint (R225, R232). -/
def come (i : Nat) (w : CmdWord) (s : State) : Come :=
  let q := seqOf i s
  let pc := pcOf i s
  let run := pstate i s == 1 || (pstate i s == 5 && q.stepReq)
  let pause (t : State) : Come := .stays (raise (seqP i) 21 (setPstate i 5 (setSeq i { q with bpTaken := true } t)))
  if !(rodRuns i s && run) || rodQuiet i s then .stays s
  else match faultAt i w s with
    | some t => .stays t
    | none =>
      if stalls w q then .stays (markStall i w s)
      else if breakAt i pc s && !q.bpTaken && !q.stepReq then pause s
      else .goes

/-- Bookkeeping of an issue: the command counts in SEQ_COUNT, a step ends in PAUSED, the stall mark clears. -/
def countIssue (i : Nat) (s : State) : State :=
  let q := seqOf i s
  bump64 (seqP i + 0xD0) 1 (setF (seqP i) SEQ_STALL_ISSUE 0
    (setSeq i { q with num := q.num + 1, stepReq := false, bpTaken := false, stall := none } s))

/-- Issue and execute a control command (R167, R178): its waits are consumed; enabled, it acts by `act`, which leaves PC to be
advanced unless it answers a new PC; its token is signalled. -/
def issueCtl (i : Nat) (w : CmdWord) (act : SeqSt → State → State × Option Nat) (s : State) : State :=
  match come i w s with
  | .stays t => t
  | .goes =>
    let q := seqOf i s
    let s1 := countIssue i (setSeq i (consume w q) s)
    let (s2, npc) := if enabled w q then act q s1 else (s1, none)
    let s3 := if cwSV w then signalTok i (cwSG w) s2 else s2
    if pstate i s3 == 2 then s3
    else match npc with
      | some t => setF (seqP i) SEQ_PC_PC t s3
      | none => advancePc i 0 s3

/-- Issue a unit command (R167, R180): its S operands are captured, its destination marked pending, and it joins its unit's
queue. -/
def issueUnit (i : Nat) (w : CmdWord) (s : State) : State :=
  match come i w s with
  | .stays t => t
  | .goes =>
    let q := seqOf i s
    let en := enabled w q
    let c : QCmd := ⟨w, pcOf i s, q.num, !en, sAt q (if isSbcast w then cwImm w % 32 else cwA w), sAt q (cwB w),
      sAt q (cwC w)⟩
    let q1 := withQueue q (cwUnit w) (queueOf q (cwUnit w) ++ [c])
    let q2 := match catRow w with
      | none => q1
      | some r =>
        if !en then q1
        else if writesS w r then { q1 with pendS := nsInsert q1.pendS (cwD w) }
        else if r.d == .p then { q1 with pendP := nsInsert q1.pendP (cwD w) }
        else q1
    advancePc i (cwUnit w) (countIssue i (putSeq i q2 s))

/-! ### Start -/

/-- Another unit's head, issued earlier, wants a token that cannot serve both (R215); it has the token before it has its own resource, so a later head
waits even while the earlier one lacks that (DEDUCED, assumption log 104). -/
def yields (u : Nat) (c : QCmd) (q : SeqSt) : Bool :=
  (List.range 7).any (fun k =>
    k + 1 != u && (match queueOf q (k + 1) with
      | h :: _ => decide (h.num < c.num) && waitsOk h.word q && !waitsOk c.word (consume h.word q)
      | [] => false))

/-- Start the command at the head of unit u's queue when its waits are satisfied and `free` says the unit has the resource
(R169). Its waits are consumed at that moment (R174); a skipped command completes at once (R178); otherwise `run` does what
the unit does at start. -/
def startHead (i u : Nat) (free : QCmd → State → Bool) (run : QCmd → State → State) (s : State) : State :=
  let q := seqOf i s
  if !(rodRuns i s && (pstate i s == 1 || pstate i s == 2 || pstate i s == 5)) then s
  else match queueOf q u with
    | [] => s
    | c :: t =>
      if !waitsOk c.word q || yields u c q then setF (seqP i) SEQ_STALL_HEAD_TOK
          (setBits (getF (seqP i) SEQ_STALL_HEAD_TOK s) (u - 1) (u - 1) 1) s
      else if !c.skip && !free c s then s
      else
        let s1 := putSeq i (withQueue (consume c.word q) u t) (setF (seqP i) SEQ_STALL_HEAD_TOK
          (setBits (getF (seqP i) SEQ_STALL_HEAD_TOK s) (u - 1) (u - 1) 0) s)
        if c.skip then finish i c 0 ⟨0, false⟩ s1 else run c s1

/-- Started commands of unit u. -/
def startedOf (u : Nat) (q : SeqSt) : List Started := q.started.filter (fun c => cwUnit c.cmd.word == u)

/-- A new started command, not yet done. -/
def Started.fresh (c : QCmd) (aux : List Nat) : Started := ⟨c, false, 0, ⟨0, false⟩, false, 0, 0, 0, 0, 0, aux⟩

/-- Start a command whose work ends with this status and result; it completes by a later UNIT_COMPLETE. -/
def startDone (i : Nat) (c : QCmd) (status : Nat) (res : SReg) (s : State) : State :=
  addStarted i { Started.fresh c [] with done := true, status := status, res := res } s

/-- Mark a started command as blocked now: its start time, a fresh block ID (R554), and the watchdog in force (R205). -/
def blockNow (i num : Nat) (s : State) : State :=
  let q := seqOf i s
  let s1 := setSeq i { q with blockNum := (q.blockNum + 1) % 65536 } s
  updStarted i num (fun c => { c with
    blocked := true, since := s.now, block := q.blockNum, probeAt := 0, fab := s.now + s.rtr.offset, limit := getF (seqP i) SEQ_WDOG_LIMIT s }) s1

end Sys2Proof.Machine
end

