-- ==== Sys2Proof/Machine/Control.lean ====
section
/-! DEFINITION. Family: the control commands of the sequencer (Table 4-6), executed at issue. -/
namespace Sys2Proof.Machine


/-- NOP, and any word that is no command of the catalogue, which raises ILLEGAL_CMD (R167, R206). -/
def execCtlNop (i : Nat) (w : CmdWord) (s : State) : Res :=
  .next (issueCtl i w (fun _ t => (t, none)) s)

/-- HALT stops issue and moves PSTATE to ENDING; SEQ_PC keeps the PC of the HALT (R194). -/
def execHalt (i : Nat) (w : CmdWord) (s : State) : Res :=
  .next (issueCtl i w (fun _ t => (setPstate i 2 t, none)) s)

/-- BR: PC plus sext(IMM[23:0]) (R183). -/
def execBr (i : Nat) (w : CmdWord) (s : State) : Res :=
  .next (issueCtl i w (fun _ t => (t, some (branchTarget (pcOf i s) w).toNat)) s)

/-- JR: PC from S[A][16:0]; the upper bits are zero or PC_RANGE was raised at issue (R184). -/
def execJr (i : Nat) (w : CmdWord) (s : State) : Res :=
  .next (issueCtl i w (fun q t => (t, some ((sAt q (cwA w)).v.toNat % 131072))) s)

/-- CALL: S[D] takes PC + 1, then the branch (R183). -/
def execCall (i : Nat) (w : CmdWord) (s : State) : Res :=
  .next (issueCtl i w (fun _ t =>
    (setSeq i (setS (seqOf i t) (cwD w) ⟨BitVec.ofNat 64 (pcOf i s + 1), false⟩) t,
      some (branchTarget (pcOf i s) w).toNat)) s)

/-- ISYNC discards the commands fetched after itself (R185). The model takes each command as it is issued, so nothing fetched
is held and nothing but PC changes (assumption log 6). -/
def execIsync (i : Nat) (w : CmdWord) (s : State) : Res :=
  .next (issueCtl i w (fun _ t => (t, none)) s)

/-- EVT: SEQ_USER.CODE takes IMM[15:0], COUNT increments, USER is raised. -/
def execEvt (i : Nat) (w : CmdWord) (s : State) : Res :=
  .next (issueCtl i w (fun _ t =>
    (raise (seqP i) 20 (bump (seqP i) SEQ_USER_COUNT 1 (setF (seqP i) SEQ_USER_CODE (cwImm w % 65536) t)), none)) s)

/-- Store a loop counter. -/
def setL (q : SeqSt) (n v : Nat) : SeqSt := { q with l := listSet q.l n (BitVec.ofNat 32 v) }

/-- LSET: L[D] takes S[A][31:0] when MOD[0] is 1, IMM[31:0] otherwise (R210). -/
def execLset (i : Nat) (w : CmdWord) (s : State) : Res :=
  .next (issueCtl i w (fun q t =>
    (setSeq i (setL (seqOf i t) (cwD w) (if bitOf (cwMod w) 0 then (sAt q (cwA w)).v.toNat else cwImm w)) t, none)) s)

/-- LBR: a non-zero L[D] decrements, and the branch is taken while the new value is non-zero (R183). -/
def execLbr (i : Nat) (w : CmdWord) (s : State) : Res :=
  .next (issueCtl i w (fun q t =>
    let l := lAt q (cwD w)
    if l = 0 then (t, none)
    else (setSeq i (setL (seqOf i t) (cwD w) (l - 1)) t,
      if l - 1 = 0 then none else some (branchTarget (pcOf i s) w).toNat)) s)

/-- LGET: S[D] takes L[A], zero-extended. -/
def execLget (i : Nat) (w : CmdWord) (s : State) : Res :=
  .next (issueCtl i w (fun q t =>
    (setSeq i (setS (seqOf i t) (cwD w) ⟨BitVec.ofNat 64 (lAt q (cwA w)), false⟩) t, none)) s)

/-- A scalar operation of the control unit: S[D] takes op(S[A], X); a poisoned operand gives a poisoned result (R182). -/
def scalarAct (i : Nat) (w : CmdWord) (op : Nat) (q : SeqSt) (t : State) : State × Option Nat :=
  let a := if op = 0x10 then ⟨0, false⟩ else sAt q (cwA w)
  let x := opX w (sAt q (cwB w))
  (setSeq i (setS (seqOf i t) (cwD w) ⟨scalarOp op a.v x.v, a.p || x.p⟩) t, none)

/-- MOV: S[D] takes X. -/
def execMov (i : Nat) (w : CmdWord) (s : State) : Res := .next (issueCtl i w (scalarAct i w 0x10) s)

/-- ADD: S[D] takes S[A] + X modulo 2^64 (R211). -/
def execAdd (i : Nat) (w : CmdWord) (s : State) : Res := .next (issueCtl i w (scalarAct i w 0x11) s)

/-- SUB: S[D] takes S[A] - X modulo 2^64 (R211). -/
def execSub (i : Nat) (w : CmdWord) (s : State) : Res := .next (issueCtl i w (scalarAct i w 0x12) s)

/-- MUL: S[D] takes the low 64 bits of S[A] x X (R211). -/
def execMul (i : Nat) (w : CmdWord) (s : State) : Res := .next (issueCtl i w (scalarAct i w 0x13) s)

/-- AND: S[D] takes S[A] AND X (R211). -/
def execAnd (i : Nat) (w : CmdWord) (s : State) : Res := .next (issueCtl i w (scalarAct i w 0x14) s)

/-- OR: S[D] takes S[A] OR X (R211). -/
def execOr (i : Nat) (w : CmdWord) (s : State) : Res := .next (issueCtl i w (scalarAct i w 0x15) s)

/-- XOR: S[D] takes S[A] XOR X (R211). -/
def execXor (i : Nat) (w : CmdWord) (s : State) : Res := .next (issueCtl i w (scalarAct i w 0x16) s)

/-- SHL: S[D] takes S[A] shifted left by X[5:0] (R211). -/
def execShl (i : Nat) (w : CmdWord) (s : State) : Res := .next (issueCtl i w (scalarAct i w 0x17) s)

/-- SHR: S[D] takes S[A] shifted right logically by X[5:0] (R211). -/
def execShr (i : Nat) (w : CmdWord) (s : State) : Res := .next (issueCtl i w (scalarAct i w 0x18) s)

/-- SRA: S[D] takes S[A] shifted right arithmetically by X[5:0] (R211). -/
def execSra (i : Nat) (w : CmdWord) (s : State) : Res := .next (issueCtl i w (scalarAct i w 0x19) s)

/-- MIN: S[D] takes the signed minimum of S[A] and X (R211). -/
def execMin (i : Nat) (w : CmdWord) (s : State) : Res := .next (issueCtl i w (scalarAct i w 0x1A) s)

/-- MAX: S[D] takes the signed maximum of S[A] and X (R211). -/
def execMax (i : Nat) (w : CmdWord) (s : State) : Res := .next (issueCtl i w (scalarAct i w 0x1B) s)

/-- MOVH: S[D][63:48] takes IMM[15:0], the other bits and the poison flag stay. -/
def execMovh (i : Nat) (w : CmdWord) (s : State) : Res :=
  .next (issueCtl i w (fun q t =>
    let d := sAt q (cwD w)
    (setSeq i (setS (seqOf i t) (cwD w)
      ⟨BitVec.ofNat 64 (d.v.toNat % 2 ^ 48 + cwImm w % 65536 * 2 ^ 48), d.p⟩) t, none)) s)

/-- SCMP: P[D] takes the comparison MOD[4:1] of S[A] with X (R197). -/
def execScmp (i : Nat) (w : CmdWord) (s : State) : Res :=
  .next (issueCtl i w (fun q t =>
    (setSeq i (setP (seqOf i t) (cwD w) (scmp (bitsOf (cwMod w) 4 1) (sAt q (cwA w)).v (opX w (sAt q (cwB w))).v)) t,
      none)) s)

/-- PLOG: P[D] takes MOD[4] when MOD[3] is 1, otherwise the function MOD[2:1] of P[A] and P[B]. -/
def execPlog (i : Nat) (w : CmdWord) (s : State) : Res :=
  .next (issueCtl i w (fun q t =>
    let v := if bitOf (cwMod w) 3 then bitOf (cwMod w) 4
      else plog (bitsOf (cwMod w) 2 1) (pAt q (cwA w)) (pAt q (cwB w))
    (setSeq i (setP (seqOf i t) (cwD w) v) t, none)) s)

/-- What SLD does at issue (R198, Table 4-11). -/
def sldAct (i : Nat) (w : CmdWord) (q : SeqSt) (t : State) : State × Option Nat :=
  let a := sldAddr w q
  let bad := !(spadBadIn i a 8 t).isEmpty
  let par := (List.range 8).any (fun k => t.spadPar.contains (spadKey i (a + k)))
  let t := spadSeen i a 8 t
  let t := if par then recordErr (seqP i) 0x1002 1 (pcOf i t % 4096) (pcOf i t) true t else t
  (setSeq i (setS (seqOf i t) (cwD w) ⟨BitVec.ofNat 64 (leNat (spadRead i a 8 t)), bad⟩) t, none)

/-- SLD: S[D] takes 8 scratchpad bytes at issue, where control commands complete (R212), so its destination is pending (R180) for no command of
the model (assumption log 109); a bad byte poisons S[D] (R198), and failing parity is recorded as
SLD_PARITY (Table 4-11). -/
def execSld (i : Nat) (w : CmdWord) (s : State) : Res := .next (issueCtl i w (sldAct i w) s)

/-- What SST does at issue (R198). -/
def sstAct (i : Nat) (w : CmdWord) (q : SeqSt) (t : State) : State × Option Nat :=
  let b := sAt q (cwB w)
  (spadWrite i (sldAddr w q) (leBytes 8 b.v.toNat) (if b.p then List.range 8 else []) t, none)

/-- SST: 8 scratchpad bytes take S[B] at issue; a poisoned S[B] writes them poisoned (R198). -/
def execSst (i : Nat) (w : CmdWord) (s : State) : Res := .next (issueCtl i w (sstAct i w) s)

end Sys2Proof.Machine
end

