-- ==== Sys2Proof/Machine/Sync.lean ====
section
/-! DEFINITION. Family: the sync unit (Table 4-7), program start and abort, token stall, and the debugger (chapter 4). -/
namespace Sys2Proof.Machine

/-- Every command issued before `num` to a unit selected by MOD[7:1] has completed. -/
def fenceOver (w : CmdWord) (num : Nat) (q : SeqSt) : Bool :=
  (List.range 7).all (fun k =>
    let u := k + 1
    !bitOf (cwMod w) u ||
      ((queueOf q u).all (fun c => decide (num ≤ c.num)) && (startedOf u q).all (fun c => decide (num ≤ c.cmd.num))))

/-- A started FENCE that may complete now. -/
def fenceReady (c : Started) (q : SeqSt) : Bool :=
  cwUnit c.cmd.word == 7 && cwOp c.cmd.word == 2 && fenceOver c.cmd.word c.cmd.num q

/-- What the sync unit does at the start of a command (Table 4-7). -/
def syncRun (i : Nat) (c : QCmd) (s : State) : State :=
  let w := c.word
  match cwOp w with
  | 0x01 =>
    let q := seqOf i s
    finish i c 0 ⟨0, false⟩ (setSeq i { q with tok := listSet q.tok (cwImm w % 64) (bitsOf (cwImm w) 15 8) } s)
  | 0x02 =>
    if bitsOf (cwMod w) 7 1 = 0 then finish i c 0 ⟨0, false⟩ s else addStarted i (Started.fresh c []) s
  | 0x03 => addStarted i { Started.fresh c [] with done := true, since := s.now } s
  | 0x04 => finish i c 0 ⟨BitVec.ofNat 64 s.now, false⟩ s
  | 0x05 => finish i c 0 ⟨0, false⟩ (setF (seqP i) SEQ_WDOG_LIMIT (cwImm w % 2 ^ 24) s)
  | _ => finish i c 0 ⟨0, false⟩ s

/-- The sync unit has no resource of its own to wait for. -/
def syncFree (_ : QCmd) (_ : State) : Bool := true

/-- Issue to the sync unit, which starts its head at once when its waits allow. -/
def syncIssue (i : Nat) (w : CmdWord) (s : State) : State := startHead i 7 syncFree (syncRun i) (issueUnit i w s)

/-- TOK carries waits and a signal and completes at start (R173). -/
def execTok (i : Nat) (w : CmdWord) (s : State) : Res := .next (syncIssue i w s)
/-- TSET: token IMM[5:0]'s counter takes IMM[15:8] at start (R216). -/
def execTset (i : Nat) (w : CmdWord) (s : State) : Res := .next (syncIssue i w s)
/-- FENCE completes once every earlier command of the selected units has completed (R212). -/
def execFence (i : Nat) (w : CmdWord) (s : State) : Res := .next (syncIssue i w s)
/-- DELAY starts; it completes by UNIT_COMPLETE, IMM[31:0] ns later (R212, Table 4-7). -/
def execDelay (i : Nat) (w : CmdWord) (s : State) : Res := .next (syncIssue i w s)
/-- TIME: S[D] takes package time (R199). -/
def execTime (i : Nat) (w : CmdWord) (s : State) : Res := .next (syncIssue i w s)
/-- WDOG sets the per-wait watchdog (R205). -/
def execWdog (i : Nat) (w : CmdWord) (s : State) : Res := .next (syncIssue i w s)

/-- The victim's wait completes with WAIT_BROKEN (R204, R559). -/
def breakWait (i num len : Nat) (s : State) : State :=
  let n := herdNo i s
  let s1 := dropResvs (fun r => r == .rod i num) s
  let s2 := raise (seqP i) 18 (bump (seqP i) SEQ_BROKEN_BROKEN 1 s1)
  let s3 := setF (herdP n) HERD_DL_LONGEST (max len (getF (herdP n) HERD_DL_LONGEST s2)) (bump (herdP n) HERD_DL_CYCLES 1 s2)
  completeNum i num (markDone i num 1 (statusWord 1 0) (raise (herdP n) 18 s3))

/-- Herd of rod i when its cycle detection is on (R561, R669). -/
def dlHerd (i : Nat) (s : State) : Option Nat :=
  match herdOfRod i s with
  | some n => if flag (herdP n) HERD_MODE_DL_EN s then some n else none
  | none => none

/-- The rods of a herd that detects cycles take probes and confirmations only while the herd is not STOPPING (R561, R573). -/
def probeTakes (i : Nat) (s : State) : Bool :=
  match dlHerd i s with
  | some n => lifeAt (statOf (herdP n)) s != 4
  | none => false

/-- The confirmation that breaks this wait, when it is back at the initiator. -/
def breakDue (i : Nat) (c : Started) (s : State) : Option Nat :=
  if !probeTakes i s then none
  else s.probes.findIdx? (fun p => p.conf && (p.path[p.passed]?).isNone && p.dest == i && p.rod == i && p.num == c.cmd.num
    && p.block == c.block && p.start == c.since)

/-- A program wait blocked for the watchdog limit completes with WAIT_TIMEOUT (R205); one that has ended is left alone, and one whose
break falls in the same moment is broken (R218). -/
def execWaitTimeout (i num : Nat) (s : State) : Res :=
  match startedBy i num s with
  | some c =>
    if !c.blocked || c.limit == 0 then .next s
    else match breakDue i c s with
    | some k =>
      let len := match s.probes[k]? with | some p => p.path.length + 1 | none => 1
      .next (breakWait i num len { s with probes := s.probes.eraseIdx k })
    | none =>
      let s1 := dropResvs (fun r => r == .rod i num) (waitTill (c.since + c.limit * 1000) s)
      .next (completeNum i num (markDone i num 2 (statusWord 2 0)
        (raise (seqP i) 19 (bump (seqP i) SEQ_BROKEN_TIMEOUT 1 s1))))
  | none => .next s

/-- A wait on a token that is at zero. -/
def waitsOnZero (c : QCmd) (q : SeqSt) : Bool :=
  (cwW0V c.word && tokAt q (cwW0 c.word) == 0) || (cwW1V c.word && tokAt q (cwW1 c.word) == 0)

/-- The stall conditions of R207 hold: the command that issue is stalled at, and since when. -/
def tokenStalled (i : Nat) (s : State) : Option (CmdWord × Nat) :=
  let q := seqOf i s
  match q.stall with
  | none => none
  | some (w, t) =>
    if pstate i s == 1 && flag (seqP i) SEQ_CTL_STALL_DET s && q.started.isEmpty && heldUp w q
        && (List.range 7).all (fun k => match queueOf q (k + 1) with | c :: _ => waitsOnZero c q | [] => true) then some (w, t)
    else none

/-- The stall conditions have held for 1 ms without a SEQ_TSIG: program fault TOKEN_STALL at the command where the sequencer is stalled (R207). -/
def execTokenStall (i : Nat) (s : State) : Res :=
  match tokenStalled i s with
  | some (w, t) => .next (programFault i 7 (cwUnit w) (pcOf i s) (waitTill (t + 1000000) s))
  | none => .next s

/-! ### Register writes of the SEQ and DBG pages -/

/-- Acceptance of SEQ_START clears the rod's counters (R191, R282, R342, R460): SEQ_COUNT, SPAD and MSG counters, those of the OXA, GOAT and VEC
pages, STRM_BYTES and STRM_HALTS, and those of the KV page that count since SEQ_START; what they last recorded stays (assumption log 112). -/
def startCounters (i : Nat) (s : State) : State :=
  let s1 := [msgP i + 0x8C, msgP i + 0x84, seqP i + 0xD0, spadP i + 0x88, oxaP i + 0x88, oxaP i + 0x90, oxaP i + 0x98, goatP i + 0x84,
    goatP i + 0x8C, vecP i + 0x80, strmP i + 0x88, kvP i + 0xE4, kvP i + 0xEC].foldl (fun t a => wr64 a 0 t) s
  setF (oxaP i) OXA_ACCERR_COUNT 0 (wrW (strmP i + 0x90) 0 (wrW (kvP i + 0xE0) 0 (wrW (oxaP i + 0xA4) 0 (wrW (vecP i + 0x88) 0 (wrW (vecP i + 0x8C) 0 s1)))))

/-- SEQ_START (R191): accepted with GO while the rod is READY and PSTATE is IDLE, DONE or PFAULT; any other write is ignored
with STATE_REJECT. -/
def execSeqStart (fn i v : Nat) (s : State) : Res :=
  .next (barWrite fn (seqP i + 0x84) (fun s =>
    let ps := pstate i s
    if bitOf v 31 && rodLife i s == 2 && (ps == 0 || ps == 3 || ps == 4) then
      let arg (k : Nat) : SReg := ⟨BitVec.ofNat 64 (rd64 (seqP i + 0xA0 + 8 * k) s), false⟩
      let q : SeqSt := { SeqSt.reset with
        s := [arg 0, arg 1, arg 2, arg 3] ++ List.replicate 28 ⟨0, false⟩, blockNum := (seqOf i s).blockNum }
      let s1 := wrW (seqP i + 0x8C) 1 (setF (seqP i) SEQ_PC_PC (v % 131072) (setF (seqP i) SEQ_WDOG_LIMIT 0 (putSeq i q s)))
      let s1 := forgetRod i [] s1
      startCounters i (wrW (seqP i + 0xC8) 0 s1)
    else raise (seqP i) 3 s) s)

/-- SEQ_ABORT: while PSTATE is RUN, PAUSED or ENDING it acts as the program fault HOST_ABORT at the next command to be issued,
which is the one at SEQ_PC; otherwise it is ignored (R196). -/
def execSeqAbort (fn i v : Nat) (s : State) : Res :=
  .next (barWrite fn (seqP i + 0x88) (fun s =>
    if bitOf v 0 then programFault i 9 0 (pcOf i s) s else s) s)

/-- SEQ_TSIG signals its token once while PSTATE is RUN or PAUSED (R208). -/
def execSeqTsig (fn i v : Nat) (s : State) : Res :=
  .next (barWrite fn (seqP i + 0x9C) (fun s =>
    if pstate i s == 1 || pstate i s == 5 then signalTok i (v % 64) (setSeq i (restall s.now (seqOf i s)) s) else s) s)

/-- The RWL fields of DBG_CTL take their value from a write unless the page is locked (R47). -/
def dbgEnables (i v : Nat) (s : State) : State := writeReg (dbgP i + 0x80) v s

/-- A pause request meets the command at the PC: a program fault due there wins (R224). -/
def pauseNow (i : Nat) (s : State) : State :=
  match faultAt i (cmdAt i (pcOf i s) s) s with
  | some t => t
  | none => raise (seqP i) 21 (setPstate i 5 (setSeq i { seqOf i s with bpTaken := true } s))

/-- DBG_CTL.PAUSE moves PSTATE from RUN to PAUSED before the next command is issued (R232); a breakpoint at that command adds no
second pause (R225), and a program fault due at the command in scratchpad there wins (R224). -/
def execDbgPause (fn i v : Nat) (s : State) : Res :=
  .next (barWrite fn (dbgP i + 0x80) (fun s =>
    let s := dbgEnables i v s
    if bitOf v 0 && pstate i s == 1 then pauseNow i s else s) s)

/-- DBG_CTL.RESUME returns a paused program to RUN (R232). -/
def execDbgResume (fn i v : Nat) (s : State) : Res :=
  .next (barWrite fn (dbgP i + 0x80) (fun s =>
    let s := dbgEnables i v s
    if bitOf v 1 && pstate i s == 5 then setPstate i 1 (setSeq i (restall s.now { seqOf i s with bpTaken := true }) s) else s) s)

/-- DBG_CTL.STEP: a paused program issues exactly one command, the next one the sequencer comes to, and is PAUSED again
(R232); PSTATE reads PAUSED meanwhile and no second PAUSED is raised (log 151). -/
def execDbgStep (fn i v : Nat) (s : State) : Res :=
  .next (barWrite fn (dbgP i + 0x80) (fun s =>
    let s := dbgEnables i v s
    if bitOf v 2 && pstate i s == 5 then setSeq i { seqOf i s with stepReq := true } s else s) s)

/-- DBG_DATA_HI commits the pair to the selected S, L, P or token state while PSTATE is PAUSED; a committed S register loses its
poison; otherwise the write is ignored with STATE_REJECT (R233). -/
def execDbgDataCommit (fn i v : Nat) (s : State) : Res :=
  .next (barWrite fn (dbgP i + 0x94) (fun s =>
    let lo := alGetD s.shadow (dbgP i + 0x90) (rdW (dbgP i + 0x90) s)
    let d := lo.toNat + v % 2 ^ 32 * 2 ^ 32
    let n := getF (dbgP i) DBG_SEL_SEL s
    let q := seqOf i s
    let q' : Option SeqSt :=
      if n < 0x20 then some (setS q n ⟨BitVec.ofNat 64 d, false⟩)
      else if n < 0x28 then some { q with l := listSet q.l (n - 0x20) (BitVec.ofNat 32 d) }
      else if n = 0x28 then some { q with p := (List.range 8).map (fun k => bitOf d k) }
      else if 0x40 ≤ n ∧ n < 0x80 then some { q with tok := listSet q.tok (n - 0x40) (d % 256) }
      else none
    match q' with
    | some q2 =>
      if pstate i s == 5 then
        setSeq i q2 (wr64 (dbgP i + 0x90) d { s with shadow := alErase s.shadow (dbgP i + 0x90) })
      else raise (dbgP i) 3 s
    | none => raise (dbgP i) 3 s) s)

/-- HALT or a fault, and every started and queued command has completed: PSTATE becomes DONE, or PFAULT when a fault code is
recorded (R194, R195). -/
def execProgramEnded (i : Nat) (s : State) : Res :=
  let q := seqOf i s
  if pstate i s == 2 && q.started.isEmpty && q.queues.all List.isEmpty then
    if getF (seqP i) SEQ_PSTAT_FAULT s = 0 then .next (raise (seqP i) 16 (setPstate i 3 s))
    else .next (raise (seqP i) 17 (setPstate i 4 s))
  else .next s

end Sys2Proof.Machine
end

