-- ==== Sys2Proof/Machine/Vector.lean ====
section
/-! DEFINITION. Family: the vector unit (chapter 6). -/
namespace Sys2Proof.Machine

/-- A result element: its code, whether it is poisoned, whether its operation was invalid (R329), whether it was clamped
(R330). -/
structure VEl where
  code : Nat
  bad : Bool
  inv : Bool
  clamp : Bool
  deriving DecidableEq, Repr

/-- The float format of a register form (R300): 0 FP32, 1 BF16. -/
def formFmt (form : Nat) : FFmt := if form = 1 then fmtBf16 else fmtFp32

/-- Bits of an element of a form. -/
def formBits (form : Nat) : Nat := if form = 1 then 16 else 32

/-- Elements of a register read in a form. -/
def formElems (form : Nat) (lanes : List Nat) : List Nat :=
  if form = 1 then lanes.flatMap (fun l => [l % 65536, l / 65536]) else lanes

/-- Poison of the elements of a form. -/
def formBads (form : Nat) (bads : List Bool) : List Bool := if form = 1 then bads.flatMap (fun b => [b, b]) else bads

/-- Elements of V[r] in a form. -/
def vElems (i r form : Nat) (s : State) : List Nat := formElems form (vLanes i r s)

/-- Poison of the elements of V[r] in a form. -/
def vElBads (i r form : Nat) (s : State) : List Bool := formBads form (vBads i r s)

/-- Element k of a list of codes. -/
def elN (l : List Nat) (k : Nat) : Nat := (l[k]?).getD 0

/-- Flag k of a list of flags. -/
def elB (l : List Bool) (k : Nat) : Bool := (l[k]?).getD false

/-- Lanes that hold elements of a form. -/
def lanesOf (form : Nat) : List VEl → List (Nat × Bool)
  | a :: b :: t => if form = 1 then (a.code + b.code * 65536, a.bad || b.bad) :: lanesOf form t
      else (a.code, a.bad) :: (b.code, b.bad) :: lanesOf form t
  | [a] => [(a.code, a.bad)]
  | [] => []

/-- Count invalid operations and clamped elements, and raise INVALID and SAT (VEC page). -/
def vecCount (i : Nat) (els : List VEl) (s : State) : State :=
  let n := els.countP VEl.inv
  let m := els.countP VEl.clamp
  let s1 := if n = 0 then s else raise (vecP i) 17 (bump (vecP i) VEC_INVALID_COUNT n s)
  if m = 0 then s1 else raise (vecP i) 18 (bump (vecP i) VEC_SAT_COUNT m s1)

/-- The command ends with BAD_OPERAND and has written nothing (R327). -/
def badOperand (i : Nat) (c : QCmd) (s : State) : State := startDone i c 0x0A ⟨0, false⟩ s

/-- A command that has written its output ends with OK, or with POISONED and POISON_OUT (R338). -/
def wroteOut (i : Nat) (page bit : Nat) (c : QCmd) (pois : Bool) (s : State) : State :=
  if pois then startDone i c 4 ⟨0, false⟩ (raise page bit s) else startDone i c 0 ⟨0, false⟩ s

/-- Write elements to V[d] and end the command. -/
def vWrite (i : Nat) (c : QCmd) (form : Nat) (els : List VEl) (s : State) : State :=
  wroteOut i (vecP i) 16 c (els.any VEl.bad)
    (vPutFrom i (cwD c.word) 0 (lanesOf form els) (vecCount i els s))

/-! ### VLD, VST, VACC, VTOS -/

/-- The form and format agree (R305). -/
def formAgrees (form fmt : Nat) : Bool :=
  match fmtOf fmt with
  | none => false
  | some k => if form = 2 then k.isInt else form < 2 && !k.isInt

/-- Elements of a register in a form. -/
def formCount (form : Nat) : Nat := if form = 1 then 128 else 64

/-- Bytes of n elements of a format with their scales. -/
def packedBytes (k : FKind) (n : Nat) : Nat := runBytes k.bits n + (if k.mx then n / 32 else 0)

/-- Element j of a packed run with its scales: value and poison. `run` is the run's number, `sc` the offset of the scales. -/
def runElem (k : FKind) (bs : List Byte) (run sc : Nat) (bad : List Nat) (j : Nat) : FV × Bool :=
  let v := kdec k (elemAt run k.bits j)
  if k.mx then (mxDec v ((bs[sc + j / 32]?).getD 0).toNat, elemBad k.bits j bad || bad.contains (sc + j / 32))
  else (v, elemBad k.bits j bad)

/-- VLD's element in a register form (R306): the value is decoded into FP32, and narrowed to BF16 under `mode`. -/
def vldEl (k : FKind) (form mode : Nat) (v : FV × Bool) : VEl :=
  match k with
  | .int _ => match v.1 with
    | .fin n m _ => ⟨unsigned 32 (if n then -(m : Int) else m), v.2, false, false⟩
    | _ => ⟨0, v.2, false, false⟩
  | .flt _ _ =>
    if form = 1 then
      let r := toFlt fmtBf16 mode false (dec32 (enc32 v.1))
      ⟨r.code, v.2, r.invalid, r.clamp⟩
    else ⟨enc32 v.1, v.2, false, false⟩

/-- VLD (R305, R306, R328). -/
def vldRun (i : Nat) (c : QCmd) (s : State) : State :=
  let w := c.word
  let form := bitsOf (cwMod w) 5 4
  let a := spadAddr w c.sa
  match fmtOf (cwMod w % 16) with
  | none => badOperand i c s
  | some k =>
    let n := formCount form
    let len := packedBytes k n
    if form = 3 ∨ ¬ formAgrees form (cwMod w % 16) ∨ bitsOf (cwMod w) 11 8 ≠ 0 ∨ bitsOf (cwImm w) 47 24 ≠ 0
      ∨ ¬ spadInRange a len then badOperand i c s
    else
      let bs := spadRead i a len s
      let bad := spadBadIn i a len s
      let run := leNat bs
      let els := (List.range n).map (fun j =>
        vldEl k form (bitsOf (cwMod w) 7 6) (runElem k bs run (runBytes k.bits n) bad j))
      vWrite i c form els (spadSeen i a len s)

/-- The value of an element of a register form. -/
def formVal (form code : Nat) : FV := if form = 2 then ofInt (signed 32 code) else fdec (formFmt form) code

/-- Convert values to a format under a rounding mode and SAT (R295-R298): codes with what each did; an MX format's blocks come
out with their scales. -/
def convRun (k : FKind) (mode : Nat) (sat : Bool) (vs : List FV) : List Conv × List Nat :=
  match k with
  | .int w => (vs.map (toInt w mode), [])
  | .flt f false => (vs.map (toFlt f mode sat), [])
  | .flt f true =>
    let bl := (List.range (vs.length / 32)).map (fun b => mxEnc f mode ((vs.drop (32 * b)).take 32))
    (bl.flatMap (·.2), bl.map (·.1))

/-- Poison of the elements of an output run: an MX block with a poisoned element is poisoned as a whole (R338). -/
def blockBads (mx : Bool) (bads : List Bool) : List Bool :=
  if mx then (List.range bads.length).map (fun j => ((bads.drop (32 * (j / 32))).take 32).any id) else bads

/-- Offsets of the bytes of an output run that carry poison, scales included. -/
def runBad (k : FKind) (bads : List Bool) : List Nat :=
  let b := blockBads k.mx bads
  let n := bads.length
  let e := (List.range n).flatMap (fun j => if elB b j then elemBytes k.bits j else [])
  let sc := if k.mx then (List.range (n / 32)).flatMap (fun t => if elB b (32 * t) then [runBytes k.bits n + t] else [])
    else []
  e ++ sc

/-- Write a converted run to scratchpad: its elements packed, its scales after them, and end the command. -/
def storeRun (i a : Nat) (c : QCmd) (k : FKind) (mode : Nat) (sat : Bool) (vs : List FV) (bads : List Bool) (s : State) :
    State :=
  let r := convRun k mode sat vs
  let n := vs.length
  let bs := leBytes (runBytes k.bits n) (packFrom k.bits 0 (r.1.map Conv.code)) ++ r.2.map (BitVec.ofNat 8)
  let els := r.1.map (fun x => (⟨x.code, false, x.invalid, x.clamp⟩ : VEl))
  wroteOut i (vecP i) 16 c (bads.any id) (spadWrite i a bs (runBad k bads) (vecCount i els s))

/-- VST (R305, R307, R328, R338). -/
def vstRun (i : Nat) (c : QCmd) (s : State) : State :=
  let w := c.word
  let form := bitsOf (cwMod w) 5 4
  let a := spadAddr w c.sa
  match fmtOf (cwMod w % 16) with
  | none => badOperand i c s
  | some k =>
    if form = 3 ∨ ¬ formAgrees form (cwMod w % 16) ∨ bitsOf (cwMod w) 11 9 ≠ 0 ∨ bitsOf (cwImm w) 47 24 ≠ 0
      ∨ ¬ spadInRange a (packedBytes k (formCount form)) then badOperand i c s
    else storeRun i a c k (bitsOf (cwMod w) 7 6) (bitOf (cwMod w) 8) ((vElems i (cwB w) form s).map (formVal form))
      (vElBads i (cwB w) form s) s

/-- VACC (R308, R328). -/
def vaccRun (i : Nat) (c : QCmd) (s : State) : State :=
  let w := c.word
  let a := spadAddr w c.sc
  let e0 := c.sa.v.toNat
  let n := c.sb.v.toNat % 65536
  match fmtOf (cwMod w % 16) with
  | none => badOperand i c s
  | some k =>
    if e0 ≥ 16384 ∨ e0 + n > 16384 ∨ bitsOf (cwMod w) 11 8 ≠ 0 ∨ bitsOf (cwImm w) 47 24 ≠ 0
      ∨ (k.mx ∧ n % 32 ≠ 0) ∨ (k.bits = 6 ∧ n % 4 ≠ 0) ∨ (k.bits = 4 ∧ n % 2 ≠ 0) ∨ ¬ spadInRange a (packedBytes k n)
      then badOperand i c s
    else if n = 0 then finishNow i c 0 ⟨0, false⟩ s
    else
      let es := (List.range n).map (fun j => accAt i (e0 + j) s)
      let v (x : Nat) : FV := if bitOf (cwMod w) 7 then ofInt (signed 32 x) else dec32 x
      storeRun i a c k (bitsOf (cwMod w) 5 4) (bitOf (cwMod w) 6) (es.map v)
        ((List.range n).map (fun j => accBadAt i (e0 + j) s)) ((List.range n).foldl (fun t j => accSeen i (e0 + j) t) s)

/-- VTOS (R309): S[D] takes a lane, poisoned when the lane is. -/
def vtosRun (i : Nat) (c : QCmd) (s : State) : State :=
  let w := c.word
  let l := cwImm w % 64
  if bitsOf (cwImm w) 47 6 ≠ 0 ∨ cwMod w ≠ 0 then badOperand i c s
  else
    let bad := elB (vBads i (cwA w) s) l
    startDone i c 0 ⟨BitVec.ofNat 64 (elN (vLanes i (cwA w) s) l), bad⟩ s

/-! ### VOP -/

/-- All ones or zero in an element of so many bits. -/
def ones (b : Nat) (t : Bool) : Nat := if t then 2 ^ b - 1 else 0

/-- An elementwise float operation (Table 6-5): code and whether it was invalid; none for an operation that has no float form. -/
def vopFlt (op : Nat) (f : FFmt) (a b c : Nat) : Option (Nat × Bool) :=
  let x := fdec f a
  let y := fdec f b
  let z := fdec f c
  let w := 1 + f.eb + f.mb
  let e (v : FV) : Nat := (toFlt f 0 false v).code
  match op with
  | 0x00 => some (e (x.add y), x.badAdd y)
  | 0x01 => some (e (x.add y.neg), x.badAdd y.neg)
  | 0x02 => some (e (x.mul y), x.badMul y)
  | 0x03 => some (e ((x.mul y).add z), x.badMul y || (x.mul y).badAdd z)
  | 0x04 => some (e ((x.mul y).add z.neg), x.badMul y || (x.mul y).badAdd z.neg)
  | 0x05 => some (if x.isNan || y.isNan then f.nanCode else if x.ltz y then a else b, false)
  | 0x06 => some (if x.isNan || y.isNan then f.nanCode else if x.ltz y then b else a, false)
  | 0x07 => some (if x.isNan then f.nanCode else a % 2 ^ (w - 1), false)
  | 0x08 => some (if x.isNan then f.nanCode else a ^^^ 2 ^ (w - 1), false)
  | 0x09 => some (if c ≠ 0 then a else b, false)
  | 0x0A => some (a, false)
  | 0x0B => some (ones w (x.lt y), false)
  | 0x0C => some (ones w (x.lt y || x.eq y), false)
  | 0x0D => some (ones w (x.eq y), false)
  | 0x10 => some (a &&& b, false)
  | 0x11 => some (a ||| b, false)
  | 0x12 => some (a ^^^ b, false)
  | _ => none

/-- An elementwise INT32 operation (Table 6-5). -/
def vopInt (op a b c : Nat) : Option Nat :=
  let x := signed 32 a
  let y := signed 32 b
  let bv := BitVec.ofNat 32 a
  match op with
  | 0x00 => some (unsigned 32 (x + y))
  | 0x01 => some (unsigned 32 (x - y))
  | 0x02 => some (unsigned 32 (x * y))
  | 0x05 => some (if x < y then a else b)
  | 0x06 => some (if x < y then b else a)
  | 0x07 => some (unsigned 32 x.natAbs)
  | 0x08 => some (unsigned 32 (-x))
  | 0x09 => some (if c ≠ 0 then a else b)
  | 0x0A => some a
  | 0x0B => some (ones 32 (decide (x < y)))
  | 0x0C => some (ones 32 (decide (x ≤ y)))
  | 0x0D => some (ones 32 (decide (x = y)))
  | 0x10 => some (a &&& b)
  | 0x11 => some (a ||| b)
  | 0x12 => some (a ^^^ b)
  | 0x13 => some (bv <<< (b % 32)).toNat
  | 0x14 => some (bv >>> (b % 32)).toNat
  | 0x15 => some (bv.sshiftRight (b % 32)).toNat
  | _ => none

/-- Which of V[A], V[B], V[C] an operation depends on. -/
def vopUses (op : Nat) : Bool × Bool × Bool :=
  match op with
  | 0x03 | 0x04 | 0x09 => (true, true, true)
  | 0x07 | 0x08 | 0x0A => (true, false, false)
  | _ => (true, true, false)

/-- IMM bits an operation uses in a form (R312). -/
def vopImm (op form : Nat) : Nat :=
  match op with
  | 0x18 => 128
  | 0x19 => 2 ^ formBits form
  | 0x1A => 32
  | _ => 1

/-- The elements a VOP gives, or none where the operation has no such form (Table 6-5, R310-R313). -/
def vopEls (i op form : Nat) (c : QCmd) (s : State) : Option (List VEl) :=
  let w := c.word
  let a := vElems i (cwA w) form s
  let b := vElems i (cwB w) form s
  let cc := vElems i (cwC w) form s
  let pa := vElBads i (cwA w) form s
  let pb := vElBads i (cwB w) form s
  let pc := vElBads i (cwC w) form s
  let n := formCount form
  let u := vopUses op
  let el (j code : Nat) (inv : Bool) : VEl :=
    ⟨code, (u.1 && elB pa j) || (u.2.1 && elB pb j) || (u.2.2 && elB pc j), inv, false⟩
  let all (code : Nat) (bad : Bool) : List VEl := List.replicate n ⟨code, bad, false, false⟩
  match op with
  | 0x18 => let j := cwImm w % n; some (all (elN a j) (elB pa j))
  | 0x19 => some (all (cwImm w % 2 ^ formBits form) false)
  | 0x1A => some ((formElems form (List.replicate 64 (c.sa.v.toNat % 2 ^ 32))).map (fun x => ⟨x, c.sa.p, false, false⟩))
  | 0x1B => some ((List.range n).map (fun j =>
      ⟨if form = 2 then j else (toFlt (formFmt form) 0 false (ofInt j)).code, false, false, false⟩))
  | 0x1C => if form = 1 then none else some ((List.range n).map (fun j =>
      let t := elN b j % n
      ⟨elN a t, elB pa t || elB pb j, false, false⟩))
  | 0x1D => if form ≠ 0 then none else some ((List.range n).map (fun j =>
      let x := dec32 (elN a j)
      let k := max (-1000) (min 1000 (signed 32 (elN b j)))
      el j (enc32 (x.scale k)) false))
  | _ =>
    if form = 2 then
      (if (vopInt op 0 0 0).isNone then none
       else some ((List.range n).map (fun j => el j ((vopInt op (elN a j) (elN b j) (elN cc j)).getD 0) false)))
    else
      (if (vopFlt op (formFmt form) 0 0 0).isNone then none
       else some ((List.range n).map (fun j =>
         let r := (vopFlt op (formFmt form) (elN a j) (elN b j) (elN cc j)).getD (0, false)
         el j r.1 r.2)))

/-- VOP (R310). -/
def vopRun (i : Nat) (c : QCmd) (s : State) : State :=
  let w := c.word
  let op := cwMod w % 256
  let form := bitsOf (cwMod w) 9 8
  if form = 3 ∨ bitsOf (cwMod w) 11 10 ≠ 0 ∨ cwImm w / vopImm op form ≠ 0 then badOperand i c s
  else match vopEls i op form c s with
    | none => badOperand i c s
    | some els => vWrite i c form els s

/-! ### VFN -/

/-- The segment of an activation table (R316 step 1): the largest index with B[s] ≤ x, else 0. -/
def actSegment (i t : Nat) (x : FV) (s : State) : Nat :=
  ((List.range 64).filter (fun j => !x.lt (dec32 (getF (vecP i) (VEC_ACT_BP_B t j) s))
    && !(dec32 (getF (vecP i) (VEC_ACT_BP_B t j) s)).isNan)).foldl max 0

/-- A word of the segment has bad parity (Table 6-10): the breakpoint or a coefficient. -/
def actBad (i t j : Nat) (s : State) : Bool := (List.range 5).any (fun k => s.tabBad.contains (tabKey i t j k))

/-- ACTt of an FP32 value (R316): the result, whether it was invalid, and whether its segment has bad parity. -/
def act (i t code : Nat) (s : State) : Nat × Bool × Bool :=
  match dec32 code with
  | .nan => (fmtFp32.nanCode, false, false)
  | .inf n => (if n then getF (vecP i) (VEC_ACT_NINF_VALUE t) s else getF (vecP i) (VEC_ACT_PINF_VALUE t) s, false, false)
  | x =>
    let j := actSegment i t x s
    let co (k : Nat) : Nat := getF (vecP i) (VEC_ACT_C_C t j k) s
    let d := f32sub code (getF (vecP i) (VEC_ACT_BP_B t j) s)
    let badF (p q r : Nat) : Bool := (dec32 p).badMul (dec32 q) || ((dec32 p).mul (dec32 q)).badAdd (dec32 r)
    let y1 := f32fma (co 3) d (co 2)
    let y2 := f32fma y1 d (co 1)
    (f32fma y2 d (co 0), badF (co 3) d (co 2) || badF y1 d (co 1) || badF y2 d (co 0),
      actBad i t j s)

/-- A function of an FP32 code (Table 6-6): result, invalid, and poison from the table. -/
def vfnEl (i fn code : Nat) (s : State) : Nat × Bool × Bool :=
  let x := dec32 code
  let below : Bool := x.sign && !x.isZero && !x.isNan
  match fn with
  | 0 => (enc32 x.exp2, false, false)
  | 1 => (enc32 x.log2, below, false)
  | 2 => (enc32 ((ofInt 1).div x), false, false)
  | 3 => (enc32 x.rsqrt, below, false)
  | 4 => (enc32 x.sqrt, below, false)
  | 5 => act i 0 code s
  | 6 => act i 1 code s
  | 7 => (enc32 (x.integral 2), false, false)
  | 8 => (enc32 (x.integral 3), false, false)
  | _ => (enc32 (x.integral 0), false, false)

/-- VFN (R314). -/
def vfnRun (i : Nat) (c : QCmd) (s : State) : State :=
  let w := c.word
  let fn := cwMod w % 16
  let form := bitsOf (cwMod w) 5 4
  if form ≥ 2 ∨ fn ≥ 10 ∨ bitsOf (cwMod w) 11 6 ≠ 0 ∨ cwImm w ≠ 0 then badOperand i c s
  else
    let a := vElems i (cwA w) form s
    let p := vElBads i (cwA w) form s
    let els := (List.range (formCount form)).map (fun j =>
      let r := vfnEl i fn (enc32 (fdec (formFmt form) (elN a j))) s
      (⟨(toFlt (formFmt form) 0 false (dec32 r.1)).code, elB p j || r.2.2, r.2.1, false⟩ : VEl))
    vWrite i c form els s

/-! ### VRED -/

/-- FP32 sum that counts its invalid additions. -/
def addCount (a b : Nat × Nat) : Nat × Nat :=
  (f32add a.1 b.1, a.2 + b.2 + b2n ((dec32 a.1).badAdd (dec32 b.1)))

/-- Prefix sums in element order, one rounding or wrap per addition. -/
def scanFrom (add : Nat × Nat → Nat × Nat → Nat × Nat) : Nat × Nat → List (Nat × Nat) → List (Nat × Nat)
  | _, [] => []
  | acc, x :: t => let y := add acc x; y :: scanFrom add y t

/-- Prefix sums. -/
def scan (add : Nat × Nat → Nat × Nat → Nat × Nat) : List (Nat × Nat) → List (Nat × Nat)
  | [] => []
  | x :: t => x :: scanFrom add x t

/-- Index of the first element that no other exceeds, from index j on. -/
def argmaxGo (lt : Nat → Nat → Bool) : Nat → Nat → Nat → List Nat → Nat
  | _, bi, _, [] => bi
  | j, bi, b, x :: t => if lt b x then argmaxGo lt (j + 1) j x t else argmaxGo lt (j + 1) bi b t

/-- A float reduction over FP32 codes: result code and invalid count. -/
def vredFlt (op : Nat) (l : List Nat) : Nat × Nat :=
  let nan := l.any (fun x => (dec32 x).isNan)
  let lt (a b : Nat) : Bool := (dec32 a).ltz (dec32 b)
  match op with
  | 0 => treeSum addCount (0, 0) 8 (l.map (fun x => (x, 0)))
  | 1 => (if nan then fmtFp32.nanCode else l.foldl (fun a x => if lt a x then x else a) (elN l 0), 0)
  | 2 => (if nan then fmtFp32.nanCode else l.foldl (fun a x => if lt x a then x else a) (elN l 0), 0)
  | 3 => treeSum addCount (0, 0) 8 (l.map (fun x => (f32mul x x, 0)))
  | _ => (if nan then l.findIdx (fun x => (dec32 x).isNan) else argmaxGo lt 0 0 (elN l 0) l, 0)

/-- An INT32 reduction. -/
def vredInt (op : Nat) (l : List Nat) : Nat :=
  let lt (a b : Nat) : Bool := decide (signed 32 a < signed 32 b)
  match op with
  | 0 => l.foldl (fun a x => (a + x) % 2 ^ 32) 0
  | 1 => l.foldl (fun a x => if lt a x then x else a) (elN l 0)
  | 2 => l.foldl (fun a x => if lt x a then x else a) (elN l 0)
  | 3 => l.foldl (fun a x => (a + x * x) % 2 ^ 32) 0
  | 4 => argmaxGo lt 0 0 (elN l 0) l
  | 6 => l.foldl (fun a x => a &&& x) (2 ^ 32 - 1)
  | _ => l.foldl (fun a x => a ||| x) 0

/-- Any flag among the first n + 1. -/
def anyUpTo (l : List Bool) (n : Nat) : Bool := (l.take (n + 1)).any id

/-- VRED (R317-R320). -/
def vredRun (i : Nat) (c : QCmd) (s : State) : State :=
  let w := c.word
  let op := cwMod w % 16
  let form := bitsOf (cwMod w) 5 4
  if form = 3 ∨ op ≥ 8 ∨ bitsOf (cwMod w) 11 6 ≠ 0 ∨ cwImm w ≠ 0 ∨ (op = 5 ∧ form = 1) ∨ (op ≥ 6 ∧ form ≠ 2) then
    badOperand i c s
  else
    let a := vElems i (cwA w) form s
    let p := vElBads i (cwA w) form s
    let els : List VEl :=
      if op = 5 then
        let add := if form = 2 then (fun x y : Nat × Nat => ((x.1 + y.1) % 2 ^ 32, 0))
          else (fun x y : Nat × Nat => (f32add x.1 y.1, b2n ((dec32 x.1).badAdd (dec32 y.1))))
        ((scan add (a.map (fun x => (if form = 2 then x else enc32 (dec32 x), 0)))).zip (List.range 64)).map (fun e =>
          ⟨e.1.1, anyUpTo p e.2, e.1.2 != 0, false⟩)
      else if form = 2 then List.replicate 64 ⟨vredInt op a, p.any id, false, false⟩
      else
        let r := vredFlt op (a.map (fun x => enc32 (fdec (formFmt form) x)))
        (⟨r.1, p.any id, r.2 != 0, false⟩ : VEl) :: List.replicate 63 ⟨r.1, p.any id, false, false⟩
    let n := if op = 5 ∨ form = 2 then 0
      else (vredFlt op (a.map (fun x => enc32 (fdec (formFmt form) x)))).2 - b2n (els.any VEl.inv)
    vWrite i c 0 els (if n = 0 then s else bump (vecP i) VEC_INVALID_COUNT n s)

/-! ### VCVT, VCMP, VLSE -/

/-- Narrow values in place (R323): rounded to the target's value set, held in the source form. -/
def narrow (form : Nat) (k : FKind) (mode : Nat) (sat : Bool) (vs : List FV) (bads : List Bool) : List VEl :=
  let r := convRun k mode sat vs
  let b := blockBads k.mx bads
  (List.range vs.length).map (fun j =>
    let x := (r.1[j]?).getD ⟨0, false, false⟩
    let v := kdec k x.code
    let v := if k.mx then mxDec v (elN r.2 (j / 32)) else v
    let code := match k, form with
      | .int w, 2 => unsigned 32 (signed w x.code)
      | _, _ => (toFlt (formFmt form) 0 false (dec32 (enc32 v))).code
    ⟨code, elB b j, x.invalid, x.clamp⟩)

/-- VCVT (R323). -/
def vcvtRun (i : Nat) (c : QCmd) (s : State) : State :=
  let w := c.word
  let src := cwMod w % 16
  let dst := bitsOf (cwMod w) 7 4
  let mode := bitsOf (cwMod w) 9 8
  let h := bitsOf (cwMod w) 10 10
  let sat := bitOf (cwMod w) 11
  let lanes := vLanes i (cwA w) s
  let bads := vBads i (cwA w) s
  let form := if src = 9 then 1 else if src = 12 then 2 else 0
  let a := formElems form lanes
  let p := formBads form bads
  if (src ≠ 9 ∧ src ≠ 11 ∧ src ≠ 12) ∨ cwImm w ≠ 0 then badOperand i c s
  else if src = dst then
    vWrite i c 0 ((lanes.zip bads).map (fun e => ⟨e.1, e.2, false, false⟩)) s
  else if src = 11 ∧ dst = 9 then
    let els := (a.zip p).map (fun e =>
      let r := toFlt fmtBf16 mode sat (dec32 e.1)
      (⟨r.code, e.2, r.invalid, r.clamp⟩ : VEl))
    wroteOut i (vecP i) 16 c (els.any VEl.bad)
      (vPutFrom i (cwD w) (32 * h) (lanesOf 1 els) (vecCount i els s))
  else if src = 9 ∧ dst = 11 then
    vWrite i c 0 ((List.range 64).map (fun j =>
      ⟨enc32 (fdec fmtBf16 (elN a (64 * h + j))), elB p (64 * h + j), false, false⟩)) s
  else if src = 11 ∧ dst = 12 then
    vWrite i c 2 ((a.zip p).map (fun e => let r := toInt 32 mode (dec32 e.1); ⟨r.code, e.2, r.invalid, r.clamp⟩)) s
  else if src = 12 ∧ dst = 11 then
    vWrite i c 0 ((a.zip p).map (fun e =>
      ⟨(toFlt fmtFp32 mode sat (ofInt (signed 32 e.1))).code, e.2, false, false⟩)) s
  else match fmtOf dst with
    | some (.flt f mx) =>
      if src = 12 ∨ dst = 9 ∨ dst = 11 then badOperand i c s
      else vWrite i c form (narrow form (.flt f mx) mode sat (a.map (formVal form)) p) s
    | some (.int b) =>
      if src = 9 ∨ b = 32 then badOperand i c s
      else vWrite i c form (narrow form (.int b) mode sat (a.map (formVal form)) p) s
    | none => badOperand i c s

/-- A comparison of VCMP (R321); `x` and `y` are the elements' values. -/
def vcmp (cond : Nat) (x y : FV) : Bool :=
  match cond with
  | 0 => x.eq y
  | 1 => !x.eq y
  | 2 => x.lt y
  | 3 => x.lt y || x.eq y
  | 4 => y.lt x
  | 5 => y.lt x || x.eq y
  | _ => x.isNan || y.isNan

/-- VCMP (R321): P[D] takes any or all of the comparisons; a poisoned element raises POISON_USE and P[D] keeps its value
(R322). -/
def vcmpRun (i : Nat) (c : QCmd) (s : State) : State :=
  let w := c.word
  let cond := cwMod w % 16
  let form := bitsOf (cwMod w) 6 5
  if form = 3 ∨ cond ≥ 7 ∨ bitsOf (cwMod w) 11 7 ≠ 0 ∨ cwImm w ≠ 0 then badOperand i c s
  else
    let a := vElems i (cwA w) form s
    let b := vElems i (cwB w) form s
    if (vBads i (cwA w) s).any id || (vBads i (cwB w) s).any id then
      let keep : SReg := ⟨BitVec.ofNat 64 (b2n (pAt (seqOf i s) (cwD w))), false⟩
      startDone i c 0 keep (recordErr (seqP i) 0x1003 1 (c.pc % 4096) c.pc true (programFault i 8 4 c.pc s))
    else
      let r := (a.zip b).map (fun e => vcmp cond (formVal form e.1) (formVal form e.2))
      startDone i c 0 ⟨BitVec.ofNat 64 (b2n (if bitOf (cwMod w) 4 then r.all id else r.any id)), false⟩ s

/-- Weight of a partial in a merge (R325, R326). -/
def lseWeight (l m mx : Nat) : Nat :=
  if dec32 m = .inf true then 0 else f32mul l (enc32 (dec32 (f32sub m mx)).exp2)

/-- The larger of two FP32 codes under R311. -/
def f32max (a b : Nat) : Nat := ((vopFlt 0x06 fmtFp32 a b 0).getD (0, false)).1

/-- One element of a merged output (R325). -/
def lseEl (form w1 w2 l o1 o2 : Nat) : Nat × Bool :=
  let a := enc32 (fdec (formFmt form) o1)
  let b := enc32 (fdec (formFmt form) o2)
  let u := f32mul b w2
  let v := f32fma a w1 u
  let bad := (dec32 b).badMul (dec32 w2) || (dec32 a).badMul (dec32 w1)
    || ((dec32 a).mul (dec32 w1)).badAdd (dec32 u)
  ((toFlt (formFmt form) 0 false (dec32 (f32div v l))).code, bad)

/-- VLSE (R324-R326). The invalid operations among the steps that all elements share count once each (R329). -/
def vlseRun (i : Nat) (c : QCmd) (s : State) : State :=
  let w := c.word
  let form := bitsOf (cwMod w) 5 4
  if form ≥ 2 ∨ bitsOf (cwMod w) 11 6 ≠ 0 ∨ bitsOf (cwMod w) 3 1 ≠ 0 ∨ cwImm w ≠ 0 then badOperand i c s
  else
    let v := vLanes i (cwC w) s
    let pv := vBads i (cwC w) s
    let m1 := elN v 0
    let l1 := elN v 1
    let m2 := elN v 2
    let l2 := elN v 3
    let m := f32max m1 m2
    let w1 := lseWeight l1 m1 m
    let w2 := lseWeight l2 m2 m
    let l := f32add w1 w2
    let inv (mj lj : Nat) : Nat :=
      if dec32 mj = .inf true then 0
      else b2n ((dec32 mj).badAdd (dec32 m).neg) + b2n ((dec32 lj).badMul (dec32 (enc32 (dec32 (f32sub mj m)).exp2)))
    let shared := inv m1 l1 + inv m2 l2 + b2n ((dec32 w1).badAdd (dec32 w2))
    let s := if shared = 0 then s else raise (vecP i) 17 (bump (vecP i) VEC_INVALID_COUNT shared s)
    let none2 : Bool := decide (dec32 m1 = .inf true) && decide (dec32 m2 = .inf true)
    let pm := elB pv 0 || elB pv 2
    let pl := pm || elB pv 1 || elB pv 3
    if bitOf (cwMod w) 0 then
      vWrite i c 0 ([⟨m, pm, false, false⟩, ⟨if none2 then 0 else l, pl, false, false⟩]
        ++ List.replicate 62 ⟨0, false, false, false⟩) s
    else
      let a := vElems i (cwA w) form s
      let b := vElems i (cwB w) form s
      let pa := vElBads i (cwA w) form s
      let pb := vElBads i (cwB w) form s
      vWrite i c form ((List.range (formCount form)).map (fun j =>
        let r := if none2 then (0, false) else lseEl form w1 w2 l (elN a j) (elN b j)
        ⟨r.1, elB pa j || elB pb j || pl, r.2, false⟩)) s

/-! ### The unit -/

/-- What the vector unit does at the start of a command. -/
def vecRun (i : Nat) (c : QCmd) (s : State) : State :=
  match cwOp c.word with
  | 0x01 => vldRun i c s
  | 0x02 => vstRun i c s
  | 0x03 => vopRun i c s
  | 0x04 => vfnRun i c s
  | 0x05 => vredRun i c s
  | 0x06 => vcvtRun i c s
  | 0x07 => vaccRun i c s
  | 0x08 => vtosRun i c s
  | 0x09 => vcmpRun i c s
  | _ => vlseRun i c s

/-- The vector unit takes commands in issue order and the next one only when the one before has completed, whose fault would discard it (R195,
R302). -/
def vecFree (i : Nat) (_ : QCmd) (s : State) : Bool := (startedOf 4 (seqOf i s)).isEmpty

/-- Issue to the vector unit, which starts its head at once when its waits allow. -/
def vecIssue (i : Nat) (w : CmdWord) (s : State) : State := startHead i 4 (vecFree i) (vecRun i) (issueUnit i w s)

/-- VLD: a packed scratchpad run into V[D] (R306). -/
def execVld (i : Nat) (w : CmdWord) (s : State) : Res := .next (vecIssue i w s)
/-- VST: V[B] converted and packed into scratchpad (R307). -/
def execVst (i : Nat) (w : CmdWord) (s : State) : Res := .next (vecIssue i w s)
/-- VOP: an elementwise operation (R310, Table 6-5). -/
def execVop (i : Nat) (w : CmdWord) (s : State) : Res := .next (vecIssue i w s)
/-- VFN: a function or an activation table (R314-R316). -/
def execVfn (i : Nat) (w : CmdWord) (s : State) : Res := .next (vecIssue i w s)
/-- VRED: a cross-lane reduction (R317). -/
def execVred (i : Nat) (w : CmdWord) (s : State) : Res := .next (vecIssue i w s)
/-- VCVT: conversion between forms, or rounding to a narrow format (R323). -/
def execVcvt (i : Nat) (w : CmdWord) (s : State) : Res := .next (vecIssue i w s)
/-- VACC: accumulator entries converted into scratchpad (R308). -/
def execVacc (i : Nat) (w : CmdWord) (s : State) : Res := .next (vecIssue i w s)
/-- VTOS: one lane into S[D] (R309). -/
def execVtos (i : Nat) (w : CmdWord) (s : State) : Res := .next (vecIssue i w s)
/-- VCMP: a predicate from comparisons (R321). -/
def execVcmp (i : Nat) (w : CmdWord) (s : State) : Res := .next (vecIssue i w s)
/-- VLSE: the log-sum-exp merge (R325). -/
def execVlse (i : Nat) (w : CmdWord) (s : State) : Res := .next (vecIssue i w s)

end Sys2Proof.Machine
end

