-- ==== Sys2Proof/Machine/Ox.lean ====
section
/-! DEFINITION. Family: the Ox array and the Goat path (chapter 5). -/
namespace Sys2Proof.Machine

/-- Weight buffers of rod i. -/
def oxOf (i : Nat) (s : State) : OxSt := alGetD s.ox i ⟨.empty, .empty⟩

/-- Store the weight buffers of rod i. -/
def setOx (i : Nat) (v : OxSt) (s : State) : State := { s with ox := alSet s.ox i v }

/-- The formats of the OX and GOAT units: codes 0-10 (Table 5-1). -/
def oxFmt (c : Nat) : Option FKind := if c ≤ 10 then fmtOf c else none

/-- K and N of an array shape (Table 5-2). -/
def oxShape (c : Nat) : Option (Nat × Nat) :=
  match c with
  | 0 => some (32, 32) | 1 => some (16, 64) | 2 => some (64, 16) | 3 => some (8, 128) | 4 => some (128, 8)
  | _ => none

/-- Effective depth of a tile (R238). -/
def effDepth (k : FKind) (d : Nat) : Nat := if k.bits = 4 then 2 * d else d

/-- MACs per beat of a width class (R235). -/
def classRate (k : FKind) : Nat := if k.bits = 4 then 2048 else if k.bits = 16 then 512 else 1024

/-- Bytes of a weight tile (R242). -/
def tileBytes (k : FKind) (ke n : Nat) : Nat := runBytes k.bits (ke * n) + (if k.mx then ke / 32 * n else 0)

/-- OWLD (R241-R244, R266): the shadow buffer takes the tile, read whole as the load starts (R271, log 153); it reads as loading until the load
completes. -/
def owldRun (i : Nat) (c : QCmd) (s : State) : State :=
  let w := c.word
  let tr := bitOf (cwMod w) 8
  let a := spadAddr w c.sa
  match oxShape (cwMod w % 16), oxFmt (bitsOf (cwMod w) 7 4) with
  | some (d, n), some k =>
    let ke := effDepth k d
    let len := tileBytes k ke n
    if bitsOf (cwMod w) 11 9 ≠ 0 ∨ (k.mx ∧ (ke < 32 ∨ tr)) ∨ ¬ spadInRange a len then
      badOperand i c s
    else
      let bs := spadRead i a len s
      let bad := spadBadIn i a len s
      let run := leNat bs
      let at_ (x : Nat) : Nat := if tr then (x % n) * ke + x / n else x
      let cells := (List.range (ke * n)).map (fun x => elemAt run k.bits (at_ x))
      let sc := runBytes k.bits (ke * n)
      let cols := (List.range n).filter (fun j =>
        (List.range ke).any (fun r => elemBad k.bits (at_ (r * n + j)) bad)
          || (k.mx && (List.range (ke / 32)).any (fun b => bad.contains (sc + b * n + j))))
      let s1 := spadSeen i a len s
      let s2 := wrW (oxaP i + 0x84)
        (BitVec.ofNat 32 (2 ^ 30 + b2n tr * 65536 + bitsOf (cwMod w) 7 4 * 16 + cwMod w % 16)) s1
      startDone i c 0 ⟨0, false⟩
        (setOx i { oxOf i s2 with shadow := ⟨cells, (bs.drop sc).map BitVec.toNat, cols⟩ } s2)
  | _, _ => badOperand i c s

/-- OSWAP (R245): the buffers and their records change places. -/
def oswapRun (i : Nat) (c : QCmd) (s : State) : State :=
  let o := oxOf i s
  let a := rdW (oxaP i + 0x80) s
  let b := rdW (oxaP i + 0x84) s
  startDone i c 0 ⟨0, false⟩
    (wrW (oxaP i + 0x80) b (wrW (oxaP i + 0x84) a (setOx i ⟨o.shadow, o.active⟩ s)))

/-- An addition of the Ox and Goat trees: FP32 with RNE. -/
def treeAdd (x y : FV) : FV := dec32 (enc32 (x.add y))

/-- 2^(scale of a + scale of W - 254) times a block sum, in FP32 (R252); the scale of a format without scales counts as 127. -/
def scaleBlock (v : FV) (sa sw : Nat) : FV := dec32 (enc32 (mxDec (mxDec v sa) sw))

/-- Sum of float products of a row and a column (R252): `p` the products, `sc` the two scale codes of a block; `mx` says whether
either side has block scales. -/
def floatDot (p : List FV) (mx : Bool) (sc : Nat → Nat × Nat) : FV :=
  if mx then
    treeSum treeAdd (.fin false 0 0) 12 ((List.range (p.length / 32)).map (fun b =>
      scaleBlock (treeSum treeAdd (.fin false 0 0) 8 ((p.drop (32 * b)).take 32)) (sc b).1 (sc b).2))
  else treeSum treeAdd (.fin false 0 0) 12 p

/-- An entry after a float result is written or accumulated (R249, R253, R255). -/
def accFloat (old : Nat) (accum : Bool) (v : FV) : Nat := if accum then enc32 ((dec32 old).add v) else enc32 v

/-- An entry after an integer result is written or accumulated. -/
def accInt (old : Nat) (accum : Bool) (v : Int) : Nat := unsigned 32 (if accum then signed 32 old + v else v)

/-- The active buffer's cell. -/
def OxBuf.cell (b : OxBuf) (j : Nat) : Nat := elN b.cells j

/-- Result n of a row of activation codes (R251-R255). -/
def oxResult (ka kw : FKind) (ke n : Nat) (b : OxBuf) (col : Nat) (row : List Nat) (rsc : List Nat) (old : Nat)
    (accum : Bool) : Nat :=
  if ka.isInt then
    let p (x : Nat × Nat) : Int := signed ka.bits x.1 * signed kw.bits (b.cell (x.2 * n + col))
    accInt old accum (((row.zip (List.range ke)).map p).foldl (· + ·) 0)
  else
    let p (x : Nat × Nat) : FV := (kdec ka x.1).mul (kdec kw (b.cell (x.2 * n + col)))
    let sa (t : Nat) : Nat := if ka.mx then elN rsc t else 127
    let sw (t : Nat) : Nat := if kw.mx then elN b.scales (t * n + col) else 127
    accFloat old accum (floatDot ((row.zip (List.range ke)).map p) (ka.mx || kw.mx) (fun t => (sa t, sw t)))

/-- One activation row enters (R247-R249, R277): its results go to the accumulator file. Answers whether a poisoned entry was
written. -/
def oxRow (i : Nat) (ka kw : FKind) (ke n a e : Nat) (accum : Bool) (row : Nat) (st : Bool × State) : Bool × State :=
  let s := st.2
  let len := packedBytes ka ke
  let bs := spadRead i a len s
  let bad := !(spadBadIn i a len s).isEmpty
  let par := (List.range len).any (fun k => s.spadPar.contains (spadKey i (a + k)))
  let s1 := spadSeen i a len s
  let s2 := if par then recordErr (oxaP i) 0x1103 1 (row % 4096) row true s1 else s1
  let b := (oxOf i s2).active
  let codes := unpack ka.bits ke (leNat bs)
  let rsc := (bs.drop (runBytes ka.bits ke)).map BitVec.toNat
  (List.range n).foldl (fun t col =>
    let old := accAt i (e + col) t.2
    let p := bad || b.badCols.contains col || (accum && accBadAt i (e + col) t.2)
    (t.1 || p, accPut i (e + col) (oxResult ka kw ke n b col codes rsc old accum) p (if accum then accSeen i (e + col) t.2 else t.2)))
    (st.1, s2)

/-- OMM (R247-R257, R265-R267). With M = 0 only its fields and formats are checked (log 152). Every row is written as the command starts, so a VACC
during it reads the new value (R273, log 153). -/
def ommRun (i : Nat) (c : QCmd) (s : State) : State :=
  let w := c.word
  let m := c.sb.v.toNat % 65536
  let a := spadAddr w c.sa
  let mode := bitsOf (cwMod w) 9 8
  let e := c.sc.v.toNat
  match oxShape (getF (oxaP i) OXA_ABUF_SHAPE s), oxFmt (getF (oxaP i) OXA_ABUF_FORMAT s),
      oxFmt (bitsOf (cwMod w) 7 4) with
  | some (d, n), some kw, some ka =>
    let ke := effDepth kw d
    let len := packedBytes ka ke
    let stride := if bitsOf (cwImm w) 39 24 = 0 then len else bitsOf (cwImm w) 39 24
    if bitsOf (cwImm w) 47 40 ≠ 0 ∨ bitsOf (cwMod w) 11 10 ≠ 0 ∨ mode ≥ 2
      ∨ ka.isInt ≠ kw.isInt ∨ ((ka.mx ∨ kw.mx) ∧ ke < 32)
      ∨ (m ≠ 0 ∧ (e ≥ 16384 ∨ e + m * n > 16384 ∨ ¬ spadInRange a ((m - 1) * stride + len))) then badOperand i c s
    else if m = 0 then finishNow i c 0 ⟨0, false⟩ s
    else
      let rate := min (classRate ka) (classRate kw)
      let r := (List.range m).foldl (fun t row =>
        oxRow i ka kw ke n (a + row * stride) (e + row * n) (mode == 1) row t) (false, s)
      let s1 := bump64 (oxaP i + 0x90) (m * (ke * n / rate)) (bump64 (oxaP i + 0x88) m r.2)
      wroteOut i (oxaP i) 16 c r.1 s1
  | _, _, _ => badOperand i c s

/-- What the Ox unit does at the start of a command. -/
def oxRun (i : Nat) (c : QCmd) (s : State) : State :=
  match cwOp c.word with
  | 0x01 => owldRun i c s
  | 0x02 => oswapRun i c s
  | _ => ommRun i c s

/-- Started commands of the Ox unit with an OP. -/
def oxStarted (op : Nat) (q : SeqSt) : Nat := (startedOf 2 q).countP (fun c => cwOp c.cmd.word == op)

/-- The Ox unit holds one started OWLD, one OSWAP and two OMMs, and OSWAP waits for a load (R245, R246). -/
def oxFree (i : Nat) (c : QCmd) (s : State) : Bool :=
  let q := seqOf i s
  match cwOp c.word with
  | 0x01 => oxStarted 1 q == 0
  | 0x02 => oxStarted 1 q == 0 && oxStarted 2 q == 0
  | _ => decide (oxStarted 3 q < 2)

/-- Issue to the Ox unit, which starts its head at once when its waits and resource allow. -/
def oxIssue (i : Nat) (w : CmdWord) (s : State) : State := startHead i 2 (oxFree i) (oxRun i) (issueUnit i w s)

/-- OWLD loads a weight tile into the shadow buffer (R244). -/
def execOwld (i : Nat) (w : CmdWord) (s : State) : Res := .next (oxIssue i w s)
/-- OSWAP exchanges the two weight buffers (R245). -/
def execOswap (i : Nat) (w : CmdWord) (s : State) : Res := .next (oxIssue i w s)
/-- OMM streams activation rows through the active tile (R247). -/
def execOmm (i : Nat) (w : CmdWord) (s : State) : Res := .next (oxIssue i w s)

/-! ### The Goat path -/

/-- Geometry of a GMV from its word (R258). -/
structure GmvGeo where
  v : Nat
  kw : FKind
  kv : FKind
  accum : Bool
  kb : Nat
  n : Nat
  deriving DecidableEq, Repr

/-- Decode a GMV's fields; none where it completes with BAD_OPERAND. -/
def gmvGeo (w : CmdWord) : Option GmvGeo :=
  let v := cwMod w % 16
  let kv := match bitsOf (cwMod w) 9 8 with | 0 => some 9 | 1 => some 10 | 2 => some 0 | _ => none
  match oxFmt (bitsOf (cwMod w) 7 4), kv.bind fmtOf with
  | some kw, some kv =>
    if v = 0 ∨ v ≥ 9 ∨ bitOf (cwMod w) 11 then none
    else some ⟨v, kw, kv, bitOf (cwMod w) 10, bitsOf (cwImm w) 35 24 + 1, bitsOf (cwImm w) 47 36 + 1⟩
  | _, _ => none

/-- Bytes of one vector (R259). -/
def GmvGeo.vecBytes (g : GmvGeo) : Nat := 32 * g.kb * (g.kv.bits / 8)

/-- The GMV's operands are valid (R257, R258, R270). -/
def gmvOk (c : QCmd) (g : GmvGeo) : Bool :=
  decide (c.sc.v.toNat < 16384) && decide (c.sc.v.toNat + g.v * g.n ≤ 16384)
    && spadInRange (spadAddr c.word c.sa) (g.v * g.vecBytes)

/-- Bytes of a chunk of 32 weights. -/
def GmvGeo.chunk (g : GmvGeo) : Nat := 4 * g.kw.bits

/-- Read the chunks of block `blk` of every vector into the vector chunk buffer (R262); a chunk whose bytes fail parity records VCHUNK_PARITY. -/
def readVecs (i : Nat) (c : QCmd) (g : GmvGeo) (blk : Nat) (s : State) : List (List Nat × Bool) × State :=
  let len := 32 * (g.kv.bits / 8)
  let at_ (v : Nat) : Nat := spadAddr c.word c.sa + v * g.vecBytes + 32 * blk * (g.kv.bits / 8)
  ((List.range g.v).map (fun v => (unpack g.kv.bits 32 (leNat (spadRead i (at_ v) len s)), !(spadBadIn i (at_ v) len s).isEmpty)),
    (List.range g.v).foldl (fun u v =>
      if (List.range len).any (fun k => u.spadPar.contains (spadKey i (at_ v + k))) then
        recordErr (goatP i) 0x1201 1 (v * 256 + blk % 256) v true (spadSeen i (at_ v) len u)
      else u) s)

/-- Add one chunk, row `row` of block `blk`, times the buffered chunk of each vector into the entries of every vector (R260, R277). -/
def goatChunk (i : Nat) (c : QCmd) (g : GmvGeo) (vec : List (List Nat × Bool)) (blk row : Nat) (wb : List Byte) (scale : Nat) (wbad : Bool)
    (s : State) : Bool × State :=
  let wc := (unpack g.kw.bits 32 (leNat wb)).map (kdec g.kw)
  (List.range g.v).foldl (fun t v =>
    let x := (vec[v]?).getD ([], false)
    let xs := x.1.map (kdec g.kv)
    let xbad := x.2
    let e := c.sc.v.toNat + v * g.n + row
    let acc := g.accum || decide (blk ≠ 0)
    let u := if acc then accSeen i e t.2 else t.2
    let sum := treeSum treeAdd (.fin false 0 0) 8 ((wc.zip xs).map (fun p => p.1.mul p.2))
    let sum := if g.kw.mx then scaleBlock sum 127 scale else sum
    let p := wbad || xbad || (acc && accBadAt i e u)
    (t.1 || p, accPut i e (accFloat (accAt i e u) acc sum) p u)) (false, bump64 (goatP i + 0x84) g.v s)

/-- Rows of the current block whose chunk, and scale for an MX format, has come. -/
def goatRows (g : GmvGeo) (len : Nat) : Nat :=
  if g.kw.mx then min g.n (len - g.n * g.chunk) else min g.n (len / g.chunk)

/-- Bytes of a whole block. -/
def GmvGeo.blockBytes (g : GmvGeo) : Nat := g.n * g.chunk + (if g.kw.mx then g.n else 0)

/-- Consume what has come: add each row that can be added; past the last row of a block go on with the next block; past the last
block note that the stream is too long (R260, R264). The vectors of a block are read as the block before it ends (R262; assumption log 111). -/
def goatEat (i : Nat) (c : QCmd) (g : GmvGeo) : Nat → GoatSt → State → GoatSt × State
  | 0, x, s => (x, s)
  | f + 1, x, s =>
    if x.block ≥ g.kb then ({ x with blk := [], bad := [], long := x.long || !x.blk.isEmpty }, s)
    else if x.row < goatRows g x.blk.length then
      let o := x.row * g.chunk
      let so := g.n * g.chunk + x.row
      let wb := (x.blk.drop o).take g.chunk
      let sc := ((x.blk[so]?).getD 0).toNat
      let wbad := x.bad.any (fun k => decide (o ≤ k) && decide (k < o + g.chunk)) || (g.kw.mx && x.bad.contains so)
      let r := goatChunk i c g x.vec x.block x.row wb sc wbad s
      goatEat i c g f { x with row := x.row + 1, chunks := min (x.chunks + 1) 0xFFFFFF, pois := x.pois || r.1 } r.2
    else if x.row = g.n then
      let bb := g.blockBytes
      let nx := if x.block + 1 < g.kb then readVecs i c g (x.block + 1) s else ([], s)
      goatEat i c g f { x with
        vec := nx.1
        blk := x.blk.drop bb
        bad := (x.bad.filter (fun k => decide (bb ≤ k))).map (fun k => k - bb)
        block := x.block + 1, row := 0 } nx.2
    else (x, s)

/-- Show the Goat work in GOAT_STATE and GOAT_LAST.CHUNKS. -/
def goatShow (i : Nat) (x : GoatSt) (s : State) : State :=
  setF (goatP i) GOAT_LAST_CHUNKS x.chunks (setF (goatP i) GOAT_STATE_ROW x.row (setF (goatP i) GOAT_STATE_BLOCK x.block s))

/-- The Goat path consumes bytes of its bound stream. -/
def goatTake (i : Nat) (bs : List Byte) (bad : List Nat) (s : State) : State :=
  match alGet s.goat i with
  | none => s
  | some x =>
    match startedBy i x.num s with
    | none => s
    | some c =>
      match gmvGeo c.cmd.word with
      | none => s
      | some g =>
        let x1 := { x with bad := x.bad ++ bad.map (fun k => x.blk.length + k), blk := x.blk ++ bs }
        let r := goatEat i c.cmd g (2 * (x1.blk.length + 2)) x1 s
        goatShow i r.1 { r.2 with goat := alSet r.2.goat i r.1 }

/-- The bound stream has ended with `status` (R264, R275): its GMV ends. -/
def goatEnd (i status : Nat) (s : State) : State :=
  match alGet s.goat i with
  | none => s
  | some x =>
    match startedBy i x.num s with
    | none => { s with goat := alErase s.goat i }
    | some c =>
      let s1 := { s with goat := alErase s.goat i }
      match gmvGeo c.cmd.word with
      | none => s1
      | some g =>
        let short := decide (x.block < g.kb)
        let st := if status ≠ 0 ∧ status ≠ 4 then status
          else if short then 0x80 else if x.long then 0x81 else if x.pois then 4 else 0
        let s2 := if st = 0x80 ∨ st = 0x81 then raise (goatP i) 17 s1 else s1
        let s3 := if x.pois then raise (goatP i) 16 s2 else s2
        markDone i x.num st ⟨0, false⟩ s3

end Sys2Proof.Machine
end

