-- ==== Sys2Proof/Machine/XlatCore.lean ====
section
/-! DEFINITION. Translation (chapter 9): placement (R464-R467), table entries (R470-R474), the caches of a rod's XLAT unit and of
the hub (R475-R477), and the walk (R472). -/
namespace Sys2Proof.Machine

/-! ### The host side -/

/-- Host data that arrives poisoned is recorded (POISON_RX, R791). -/
def poisonRx (bad : List Nat) (s : State) : State :=
  if bad.isEmpty then s else recordErr hifP 0x2802 1 0 0 true (raise hifP 17 (emit (.aer 0 2) s))

/-- What rod i's accesses to host memory carry: the herd's PASID while PV is 1 (R462, R472, R794), and the leaf's RLX and NS. -/
def hostTag (i : Nat) (rlx ns : Bool) (s : State) : HostTag :=
  ⟨if flag (xlatP i) XLAT_PASID_PV s then some (getF (xlatP i) XLAT_PASID_PASID s) else none, rlx, ns⟩

/-! ### Placement -/

/-- Corner, width and height of herd n's rectangle. -/
def herdX0 (n : Nat) (s : State) : Nat := getF (herdP n) HERD_GEOM_X0 s
def herdY0 (n : Nat) (s : State) : Nat := getF (herdP n) HERD_GEOM_Y0 s
def herdW (n : Nat) (s : State) : Nat := getF (herdP n) HERD_GEOM_W s
def herdH (n : Nat) (s : State) : Nat := getF (herdP n) HERD_GEOM_H s

/-- Number of rods, and bytes C of the herd's bead space (R462). -/
def herdN (n : Nat) (s : State) : Nat := herdW n s * herdH n s
def herdC (n : Nat) (s : State) : Nat := herdN n s * beadSize

/-- Rod with herd-relative index k (R464), and the anchor. -/
def herdRod (n k : Nat) (s : State) : Nat :=
  rodAt (herdX0 n s + k % max 1 (herdW n s)) (herdY0 n s + k / max 1 (herdW n s))
def anchor (n : Nat) (s : State) : Nat := herdRod n 0 s

/-- Resolve an HBA to a herd-relative rod and a bead address, exposed or interleaved (R466, R467). -/
def placeHba (interleaved : Bool) (n hba : Nat) : Nat × Nat :=
  if interleaved then
    let p := hba / 2048
    let v := p / max 1 n
    ((p % max 1 n + v * 40503 % max 1 n) % max 1 n, v * 2048 + hba % 2048)
  else (hba / beadSize, hba % beadSize)

/-- The herd's placement. -/
def interleaved (n : Nat) (s : State) : Bool := flag (herdP n) HERD_MODE_PLACE s

/-- Rod and bead address of an HBA of herd n. -/
def hbaAt (n hba : Nat) (s : State) : Nat × Nat :=
  let r := placeHba (interleaved n s) (herdN n s) hba
  (herdRod n r.1 s, r.2)

/-- Lengths of the pieces of `len` bytes at `a` that 2 KiB boundaries cut (R385, R414). -/
def pagePieces : Nat → Nat → Nat → List (Nat × Nat)
  | 0, _, _ => []
  | f + 1, a, len => if len = 0 then [] else
      let n := min len (2048 - a % 2048)
      (a, n) :: pagePieces f (a + n) (len - n)

/-- Read bytes of herd n's bead space that lie in one page. -/
def hbaRead (n hba len : Nat) (s : State) : Nat × List Byte × List Nat × State :=
  let r := hbaAt n hba s
  homeRead r.1 r.2 len s

/-- An access of `len` bytes of herd n's bead space waits for one of its pages (R135, R362, R398). -/
def hbaHeld (n hba len : Nat) (write : Bool) (s : State) : Bool :=
  (pagePieces (len / 2048 + 2) hba len).any (fun pc => let r := hbaAt n pc.1 s; homeHeld r.1 r.2 pc.2 write s)

/-- Write bytes of herd n's bead space that lie in one page. -/
def hbaWrite (n hba : Nat) (bs : List Byte) (bad : List Nat) (s : State) : Nat × State :=
  let r := hbaAt n hba s
  homeWrite r.1 r.2 bs bad s

/-- Read any range of herd n's bead space, page by page. -/
def hbaReadAll (n hba len : Nat) (s : State) : Nat × List Byte × List Nat × State :=
  (pagePieces (len / 2048 + 2) hba len).foldl (fun t pc =>
    let r := hbaRead n pc.1 pc.2 t.2.2.2
    (max t.1 r.1, t.2.1 ++ r.2.1, t.2.2.1 ++ r.2.2.1.map (fun k => pc.1 - hba + k), r.2.2.2)) (0, [], [], s)

/-- Write any range of herd n's bead space, page by page. -/
def hbaWriteAll (n hba : Nat) (bs : List Byte) (bad : List Nat) (s : State) : Nat × State :=
  (pagePieces (bs.length / 2048 + 2) hba bs.length).foldl (fun t pc =>
    let o := pc.1 - hba
    let r := hbaWrite n pc.1 ((bs.drop o).take pc.2)
      ((bad.filter (fun k => decide (o ≤ k) && decide (k < o + pc.2))).map (fun k => k - o)) t.2
    (max t.1 r.1, r.2)) (0, s)

/-! ### Entries -/

/-- Fields of a table entry (Table 9-2). -/
abbrev entV (e : Nat) : Bool := bitOf e 0
abbrev entLeaf (e : Nat) : Bool := bitOf e 1
abbrev entTgt (e : Nat) : Nat := bitsOf e 4 2
abbrev entW (e : Nat) : Bool := bitOf e 5
abbrev entAt (e : Nat) : Bool := bitOf e 6
abbrev entPin (e : Nat) : Bool := bitOf e 7
abbrev entMig (e : Nat) : Bool := bitOf e 8

/-- A valid entry of level `l` has a bad form (R473). -/
def badForm (l e : Nat) : Bool :=
  if entLeaf e then
    decide (l = 1) || (match entTgt e with
      | 0 => bitsOf e 11 9 != 0 || (if l = 3 then bitsOf e 47 37 != 0 || bitsOf e 15 12 != 0
          else bitsOf e 63 37 != 0 || bitsOf e 26 12 != 0)
      | 1 => bitOf e 11 || (if l = 3 then bitsOf e 15 12 != 0 else bitsOf e 26 12 != 0)
      | 2 => bitsOf e 11 9 != 0 || (if l = 3 then bitsOf e 15 12 != 0 else bitsOf e 26 12 != 0)
      | 3 => false
      | _ => true)
  else decide (l = 3) || decide (entTgt e ≥ 2) || bitsOf e 13 12 != 0 || bitsOf e 11 5 != 0

/-- Bytes a leaf of level l maps. -/
def leafSpan (l : Nat) : Nat := if l = 2 then 2 ^ 27 else 2 ^ 16

/-- HBA of a BEAD leaf. -/
def leafHba (l e : Nat) : Nat := if l = 2 then bitsOf e 36 27 * 2 ^ 27 else bitsOf e 36 16 * 2 ^ 16

/-- Host or global address of a HOST or PEER leaf. -/
def leafFar (l e : Nat) : Nat := if l = 2 then bitsOf e 63 27 * 2 ^ 27 else bitsOf e 63 16 * 2 ^ 16

/-- FABRIC is licensed and a node ID is assigned (R474, GLB_LIC, GLB_NODE). -/
def peerReady (s : State) : Bool := bitOf (getF glbP GLB_LIC_FEATURES s) 0 && flag glbP GLB_NODE_NODE_VALID s

/-- What a translation gives: a target, a fault with its cause, level, piece and entry, a leaf under migration (R497), or nothing yet: a node's
page waits at its home controller (R135, R362). -/
inductive TRes where
  | ok (t : Target)
  | fault (cause level piece entry : Nat)
  | mig
  | held
  deriving DecidableEq, Repr

/-- A migration of herd n covers the 64 KiB page of va. -/
def migCovers (n va : Nat) (s : State) : Bool :=
  match (alGetD s.herdX n .empty).mig with
  | some m => m.page == va / 2 ^ 16
  | none => false

/-- Use a valid leaf of level l for an access at va (R474, R482, R498, Table 9-4). -/
def useLeaf (n l e va : Nat) (write : Bool) (s : State) : TRes :=
  let piece := va / 4096 % 16
  let off := va % leafSpan l
  let tgt := entTgt e
  if badForm l e then .fault 5 l piece e
  else if tgt = 0 ∧ leafHba l e + leafSpan l > herdC n s then .fault 6 l piece e
  else if tgt = 2 ∧ ¬ peerReady s then .fault 6 l piece e
  else if entMig e ∧ migCovers n va s then .mig
  else if tgt = 3 then .fault 1 l piece e
  else if tgt = 0 ∧ l = 3 ∧ bitOf e (48 + piece) then .fault 2 l piece e
  else if write ∧ ¬ entW e then .fault 4 l piece e
  else match tgt with
    | 0 => let r := hbaAt n (leafHba l e + off) s; .ok (.bead r.1 r.2)
    | 1 => .ok (.host (leafFar l e + off) (bitOf e 10) (bitOf e 9))
    | _ => .ok (.peer (leafFar l e + off))

/-! ### Caches -/

/-- XLAT unit of rod i. -/
def xlOf (i : Nat) (s : State) : XlatSt := alGetD s.xlats i .empty

/-- Store the XLAT unit of rod i. -/
def setXl (i : Nat) (x : XlatSt) (s : State) : State := { s with xlats := alSet s.xlats i x }

/-- What the hub keeps for herd n. -/
def hxOf (n : Nat) (s : State) : HerdX := alGetD s.herdX n .empty

/-- Store what the hub keeps for herd n. -/
def setHx (n : Nat) (x : HerdX) (s : State) : State := { s with herdX := alSet s.herdX n x }

/-- Index of va at a level: VA[47:38], VA[47:27], VA[47:16]. -/
def levelIdx (l va : Nat) : Nat := match l with | 1 => va / 2 ^ 38 | 2 => va / 2 ^ 27 | _ => va / 2 ^ 16

/-- Put an entry last among those that share its set, dropping the least recently used beyond `ways`. -/
def tlbPut (same : TlbE → Bool) (ways : Nat) (e : TlbE) (l : List TlbE) : List TlbE :=
  let l1 := l.filter (fun x => !(x.level == e.level && x.idx == e.idx))
  let l2 := if l1.countP same ≥ ways then (match l1.find? same with | some v => l1.erase v | none => l1) else l1
  l2 ++ [e]

/-- Cache a good leaf or pointer without MIG (R475, R476). -/
def cacheEntry (l va e : Nat) (x : XlatSt) : XlatSt :=
  let te : TlbE := ⟨l, levelIdx l va, e⟩
  if entMig e then x
  else if !entLeaf e then { x with ptrs := tlbPut (fun _ => true) 32 te x.ptrs }
  else if l = 2 then { x with leaf2 := tlbPut (fun _ => true) 32 te x.leaf2 }
  else { x with leaf3 := tlbPut (fun y => y.idx % 64 == te.idx % 64) 8 te x.leaf3 }

/-- A cached leaf for va, with its level. -/
def tlbFind (x : XlatSt) (va : Nat) : Option TlbE :=
  match x.leaf3.find? (fun e => e.idx == levelIdx 3 va) with
  | some e => some e
  | none => x.leaf2.find? (fun e => e.idx == levelIdx 2 va)

/-- XLAT_ROOT.V as rod i's page holds it (R469). -/
def rootV (i : Nat) (s : State) : Bool := bitOf (rdW (xlatP i + 0x084) s).toNat 0

/-- Translate by a rod's cached leaf; none calls for a walk, as does a root that is not valid (R469). A hit on a leaf whose piece is marked absent drops the leaf and
walks (R477). -/
def tlbLook (i n va : Nat) (write : Bool) (s : State) : Option TRes × State :=
  let x := xlOf i s
  match if rootV i s then tlbFind x va else none with
  | none => (none, s)
  | some e =>
    match useLeaf n e.level e.entry va write s with
    | .fault 2 _ _ _ => (none, setXl i { x with leaf3 := x.leaf3.filter (fun y => y != e) } s)
    | r =>
      (some r, setXl i (if e.level = 2 then { x with leaf2 := x.leaf2.filter (fun y => y != e) ++ [e] }
        else { x with leaf3 := x.leaf3.filter (fun y => y != e) ++ [e] }) s)

/-! ### Herd-wide fields and the tier map -/

/-- Set a herd-wide field on every XLAT page of herd n (R478). -/
def setHerdF (n : Nat) (f : Field) (v : Nat) (s : State) : State := (herdRods n s).foldl (fun t i => setF (xlatP i) f v t) s

/-- A herd-wide field of herd n. -/
def herdF (n : Nat) (f : Field) (s : State) : Nat := getF (xlatP (anchor n s)) f s

/-- Auto-tier runs for herd n (R500); AUTOTIER is a goal, which takes effect at a plan (R867). -/
def tierRuns (n : Nat) (s : State) : Bool :=
  herdF n XLAT_TIER_CTL_EN s == 1 && herdF n XLAT_TIER_CTL_PAUSE s == 0 && bitOf s.thm.goal 1

/-- The regions of auto-tier (R494). -/
def tbBase (n : Nat) (s : State) : Nat := herdF n XLAT_TB_BASE_FRAMES s
def tbCount (n : Nat) (s : State) : Nat := herdF n XLAT_TB_COUNT_FRAMES s
def hsCount (n : Nat) (s : State) : Nat := herdF n XLAT_HS_COUNT_FRAMES s
def hsBase (n : Nat) (s : State) : Nat := herdF n ⟨0x0D4, 31, 0⟩ s / 2 ^ 16 * 2 ^ 16 + herdF n XLAT_HS_BASE_HI_BASE s * 2 ^ 32

/-- HBA of entry x of the tier map, and of the ACC byte of bead frame x (R494). -/
def tierEntAt (n x : Nat) (s : State) : Nat := herdF n XLAT_TM_BASE_FRAMES s * 2 ^ 16 + 8 * x
def tierAccAt (n x : Nat) (s : State) : Nat := tierEntAt n (tbCount n s + hsCount n s) s + x

/-- Index of the frame that a 64 KiB leaf maps: bead frames first, host frames after them; none outside the regions. -/
def tierFrame (n e : Nat) (s : State) : Option Nat :=
  match entTgt e with
  | 0 =>
    let f := leafHba 3 e / 2 ^ 16
    if tbBase n s ≤ f ∧ f < tbBase n s + tbCount n s then some (f - tbBase n s) else none
  | 1 =>
    let a := leafFar 3 e
    if hsBase n s ≤ a ∧ a < hsBase n s + hsCount n s * 2 ^ 16 then some (tbCount n s + (a - hsBase n s) / 2 ^ 16) else none
  | _ => none

/-- Herds whose auto-tier runs. -/
def tierHerds (s : State) : Nat := ((List.range 128).filter (fun n => lifeAt (statOf (herdP n)) s != 0 && tierRuns n s)).length

/-- The entry of the hot table with the lowest count goes. -/
def hotDrop (l : List (Nat × Nat)) : List (Nat × Nat) :=
  match l with
  | [] => []
  | x :: t => alErase l (t.foldl (fun m e => if e.2 < m.2 then e else m) x).1

/-- A herd's entries of the hot table, at most its share: when the share has shrunk those with the lowest counts go (R495, log 156). -/
def hotTrim (share : Nat) (l : List (Nat × Nat)) : List (Nat × Nat) := (List.range (l.length - share)).foldl (fun m _ => hotDrop m) l

/-- Count a request to a host frame in the hot table, whose share may be full (R495). -/
def hotCount (share f : Nat) (l : List (Nat × Nat)) : List (Nat × Nat) :=
  match alGet l f with
  | some c => hotTrim share (alSet l f (c + 1))
  | none => alSet (hotTrim (share - 1) l) f 1

/-- A herd's share of the hot table. -/
def hotShare (s : State) : Nat := 16384 / max 1 (tierHerds s)

/-- A page request has used its cached leaf: ACC, at the rod's first use of the frame in the window, and the hot table take note (R495). -/
def tierTouch (i n va : Nat) (s : State) : State :=
  if !tierRuns n s then s
  else match tlbFind (xlOf i s) va with
    | some e =>
      if e.level = 3 && entAt e.entry then
        match tierFrame n e.entry s with
        | some x =>
          if x < tbCount n s then
            let u := xlOf i s
            if u.acc.contains x then s else (hbaWrite n (tierAccAt n x s) [1] [] (setXl i { u with acc := nsInsert u.acc x } s)).2
          else
            let h := hxOf n s
            setHx n { h with hot := hotCount (hotShare s) (x - tbCount n s) h.hot } s
        | none => s
      else s
    | none => s

/-! ### The walk -/

/-- An entry's read in the herd's bead space waits at its home controller. -/
def entryHeld (n : Nat) (host : Bool) (addr : Nat) (s : State) : Bool :=
  !host && decide (addr + 8 ≤ herdC n s) && hbaHeld n addr 8 false s

/-- Read an 8-byte entry at a node address: from the herd's bead space, or the next of the entries read from the host (none: the
read failed, as it does while the function may not issue requests, R1021). Answers the entry, none when it is poisoned or failed, and the host
entries left. -/
def readEntry (n : Nat) (host : Bool) (addr : Nat) (hs : List (Option Nat)) (s : State) :
    Option Nat × List (Option Nat) × State :=
  if host then
    if !mayIssue n s then (none, hs, s)
    else
      let s1 := emit (.hostRead n addr 8 (hostTag (anchor n s) false false s)) s
      match hs with
      | [] => (none, [], s1)
      | h :: t => (h, t, s1)
  else if addr + 8 > herdC n s then (none, hs, s)
  else
    let r := hbaRead n addr 8 s
    (if r.1 = 0 then some (leNat r.2.1) else none, hs, r.2.2.2)

/-- Walk from level l at a node; `pc` is where a cached pointer saves a read (R472, R475). -/
def walkGo (n va : Nat) (write : Bool) : Nat → Nat → Bool → Nat → List (Option Nat) → XlatSt → State → TRes × XlatSt × State
  | 0, l, _, _, _, x, s => (.fault 5 l 0 0, x, s)
  | f + 1, l, host, node, hs, x, s =>
    let idx := match l with | 1 => va / 2 ^ 38 % 1024 | 2 => va / 2 ^ 27 % 2048 | _ => va / 2 ^ 16 % 2048
    let piece := va / 4096 % 16
    let cached := x.ptrs.find? (fun e => e.level == l && e.idx == levelIdx l va)
    if cached.isNone && entryHeld n host (node + 8 * idx) s then (.held, x, s)
    else
    let (e, hs1, s1) := match cached with
      | some c => (some c.entry, hs, s)
      | none => readEntry n host (node + 8 * idx) hs s
    match e with
    | none => (.fault 7 l piece 0, x, s1)
    | some e =>
      if !entV e then (.fault 3 l piece e, x, s1)
      else if badForm l e then (.fault 5 l piece e, x, s1)
      else if entLeaf e then
        let r := useLeaf n l e va write s1
        (r, (match r with | .ok _ => cacheEntry l va e x | _ => x), s1)
      else walkGo n va write f (l + 1) (entTgt e == 1) (bitsOf e 63 14 * 2 ^ 14) hs1 (cacheEntry l va e x) s1

/-- Walk the tables of herd n for va, from XLAT_ROOT as rod i's page holds it. -/
def walk (i n va : Nat) (write : Bool) (hs : List (Option Nat)) (x : XlatSt) (s : State) : TRes × XlatSt × State :=
  let lo := rdW (xlatP i + 0x084) s
  let root := (lo.toNat / 2 ^ 14 * 2 ^ 14) + (rdW (xlatP i + 0x088) s).toNat * 2 ^ 32
  if !rootV i s then (.fault 3 0 (va / 4096 % 16) 0, x, s)
  else walkGo n va write 3 1 (bitOf lo.toNat 1) root hs x s

/-- A rod's walk; what it caches stays only when it ends in a translation by a leaf without MIG, which is then in the cache itself (R476). -/
def rodWalk (i n va : Nat) (write : Bool) (hs : List (Option Nat)) (s : State) : TRes × State :=
  let r := walk i n va write hs (xlOf i s) s
  match r.1 with
  | .ok t => (.ok t, if (tlbFind r.2.1 va).isSome then setXl i r.2.1 r.2.2 else r.2.2)
  | f => (f, r.2.2)

/-- The herd's entries leave the hub TLB (R516). -/
def hubDrop (n : Nat) (s : State) : State := { s with hubTlb := s.hubTlb.filter (fun e => e.1 != n) }

/-- Put a leaf of herd n last in the hub TLB, dropping the least recently used beyond 4,096 entries (R463). -/
def hubPut (n : Nat) (e : TlbE) (s : State) : State :=
  let l := s.hubTlb.filter (fun x => !(x.1 == n && x.2.level == e.level && x.2.idx == e.idx))
  { s with hubTlb := (if l.length ≥ 4096 then l.drop 1 else l) ++ [(n, e)] }

/-- The walk of a hub TLB miss; the leaves it has read enter the hub TLB. -/
def hubMiss (n va : Nat) (write : Bool) (hs : List (Option Nat)) (s : State) : TRes × State :=
  let r := walk (anchor n s) n va write hs .empty s
  match r.1 with
  | .ok t => (.ok t, (r.2.1.leaf3 ++ r.2.1.leaf2).foldl (fun u e => hubPut n e u) r.2.2)
  | f => (f, r.2.2)

/-- A hub walk for herd n (R463): its TLB first, a hit on a leaf whose piece is absent being dropped (R477); `hs` are entries read from the host.
Leaves of both levels and of all herds share the hub TLB. -/
def hubWalk (n va : Nat) (write : Bool) (hs : List (Option Nat)) (s : State) : TRes × State :=
  let mine := if rootV (anchor n s) s then (s.hubTlb.filter (fun e => e.1 == n)).map (·.2) else []
  match tlbFind ⟨mine.filter (fun e => e.level == 3), mine.filter (fun e => e.level == 2), [], [], 0, []⟩ va with
  | none => hubMiss n va write hs s
  | some e =>
    match useLeaf n e.level e.entry va write s with
    | .fault 2 _ _ _ => hubMiss n va write hs { s with hubTlb := s.hubTlb.filter (fun x => x != (n, e)) }
    | r => (r, hubPut n e s)

end Sys2Proof.Machine
end

