-- ==== Sys2Proof/Machine/Stream.lean ====
section
/-! DEFINITION. Family: the stream engine (chapter 8): SRUN, SCRED, SFLUSH, SSTAT, page requests, delivery, halts; the Goat command
GMV, which binds to a stream (R263); and the opening and closing of translation faults (R483-R490), which halt streams. -/
namespace Sys2Proof.Machine

/-! ### Addresses -/

/-- Address of byte b on the patterned side, whose base is `base` (R412, R413). -/
def Str.patAddr (t : Str) (base b : Nat) : Int :=
  if t.list then
    let e := entryAt t.ents t.ent0 t.base0 b
    (base : Int) + ((t.ents[e.1 - t.ent0]?).getD (0, 0)).1 + e.2
  else
    let cs := counterList t.counts (b / t.elen)
    (base : Int) + ((cs.zip t.dims).foldl (fun a p => a + (p.1 : Int) * signed 32 p.2.2) 0) + (b % t.elen : Nat)

/-- The dense side is a ring of LCOUNT tiles (R409). -/
def Str.ring (t : Str) : Bool := !t.tileMode && (if t.pat = 0 then t.snkKind == 0 else t.srcKind == 1)

/-- Address of byte b on the dense side (R410). -/
def Str.denseAddr (t : Str) (base b : Nat) : Int :=
  if t.ring then (base + (b / t.tb % max 1 t.lcount) * t.tb + b % t.tb : Nat) else (base + b : Nat)

/-- Address of byte b at the source and at the sink. -/
def Str.srcAddr (t : Str) (b : Nat) : Int :=
  let base := bitsOf t.src 47 0
  if t.pat = 0 then t.patAddr base b else t.denseAddr base b
def Str.snkAddr (t : Str) (b : Nat) : Int :=
  let base := bitsOf t.snk 47 0
  if t.pat = 1 then t.patAddr base b else t.denseAddr base b

/-- The landing area is drained: it is the source (R409). -/
def Str.drains (t : Str) : Bool := t.pat == 1 && t.srcKind == 1

/-- End of the tile that holds byte b. -/
def Str.tileEnd (t : Str) (b : Nat) : Nat :=
  let e := (b / t.tb + 1) * t.tb
  match t.total with
  | some n => min e n
  | none => e

/-- How many of up to `f` bytes from b lie at consecutive addresses under `addr`. -/
def runLen (addr : Nat → Int) (b : Nat) : Nat → Nat → Nat
  | 0, k => k
  | f + 1, k => if addr (b + k) = addr b + k then runLen addr b f (k + 1) else k

/-! ### Delivery -/

/-- Put bytes at their sink addresses in scratchpad. -/
def landBytes (i : Nat) (t : Str) (bad : List Nat) : Nat → Nat → List Byte → State → State
  | _, _, [], s => s
  | off, k, b :: r, s => landBytes i t bad off (k + 1) r (spadPut i ((t.snkAddr (off + k)).toNat % spadSize) b (bad.contains k) s)

/-- Signal the tile tokens of tiles whose end is at or below `upto` (R421). -/
def signalTiles (i k : Nat) : Nat → Nat → State → State
  | 0, _, s => s
  | f + 1, upto, s =>
    match strOf i k s with
    | none => s
    | some t =>
      let e := t.tileEnd (t.sig * t.tb)
      if t.ttv && decide (t.sig * t.tb < e) && decide (e ≤ upto) then
        signalTiles i k f upto (signalTok i t.ttok (setStr i k { t with sig := t.sig + 1 } s))
      else s

/-- The status with which a stream whose position is `p` ends: all is delivered, or the list entry that ends it is reached (R424, R445). -/
def Str.endsAt (t : Str) (p : Nat) : Option Nat :=
  t.fin.or (if t.total = some p then some (if t.pois then 4 else 0) else if t.list ∧ t.known ≤ p then t.listEnd else none)

/-- The position, delivery having come to byte p: an entry that ends the stream is not passed, wherever the saved position stood in it (R445). -/
def Str.stand (t : Str) (p : Nat) : Nat := if t.list ∧ t.listEnd.isSome then min p t.known else p

/-- The stream with its position at p: the poison of the bytes delivered counts (R424). -/
def Str.moveTo (t : Str) (p : Nat) : Str :=
  { t with
    pos := t.stand p, got := t.got.filter (fun e => decide (p < e.1 + e.2))
    pois := t.pois || t.bads.any (fun o => decide (o < p)), bads := t.bads.filter (fun o => decide (p ≤ o)) }

/-- The position has moved to `p`: bytes count, the tile tokens are signalled, reads whose data are delivered become free, the record follows in a
halt, the stream is over when all is delivered (R416, R420, R421, R424, R435). -/
def moved (i k p : Nat) (s : State) : State :=
  match strOf i k s with
  | none => s
  | some t =>
    let t1 := t.moveTo p
    let t2 := { t1 with fin := t1.endsAt p }
    let s1 := freeReads i k (showDeliv i k t2 (bump64 (strmP i + 0x88) (p - t.pos) (setStr i k t2 s)))
    let s2 := if t2.halt.isSome then showPos i k t2.haltRecord s1 else s1
    if t.drains then s2 else signalTiles i k ((p - t.pos) / max 1 t.tb + 2) p s2

/-- Feed the bound GMV with the data at the position, in order; each whole tile consumed returns a credit (R418, R420). -/
def feedGoat (i k : Nat) : Nat → State → State
  | 0, s => s
  | f + 1, s =>
    match strOf i k s with
    | none => s
    | some t =>
      if !t.bound then s
      else match t.hold.find? (fun h => h.1 == t.pos) with
        | none => s
        | some h =>
          let n := h.2.1.length
          let back := (t.pos + n) / t.tb - t.pos / t.tb
          let t1 := { t with
            hold := t.hold.filter (fun x => x.1 != t.pos)
            cred := if t.tileMode then t.cred else min t.lcount (t.cred + back) }
          feedGoat i k f (moved i k (t.pos + n) (goatTake i h.2.1 h.2.2 (setStr i k t1 s)))

/-- Bytes a..b-1 that the stream holds, when it holds them all. -/
def Str.held (t : Str) (a b : Nat) : Option (List Byte × List Nat) :=
  let l := (List.range (b - a)).map (fun j =>
    match t.hold.find? (fun h => decide (h.1 ≤ a + j) && decide (a + j < h.1 + h.2.1.length)) with
    | some h => some ((h.2.1[a + j - h.1]?).getD 0, h.2.2.contains (a + j - h.1))
    | none => none)
  if l.all Option.isSome then
    some (l.map (fun x => (x.getD (0, false)).1),
      (List.range (b - a)).filter (fun j => ((l[j]?.bind id).getD (0, false)).2))
  else none

/-- Fields of a destination word (R200): rod, channel, REMOTE, node; none when another bit is set. -/
def destWord (w : Nat) : Option (Nat × Nat × Bool × Nat) :=
  if bitsOf w 15 10 ≠ 0 ∨ bitsOf w 30 21 ≠ 0 ∨ bitsOf w 63 50 ≠ 0 then none
  else some (bitsOf w 9 0, bitsOf w 20 16, bitOf w 31, bitsOf w 49 32)

/-- A message under way in a started command's numbers: phase (0 to be sent, 1 queued, 2 refused, 3 granted, 4 answered), target
rod, channel, length, REMOTE, node, answer, the time of the phase, and whether the item carries poison. -/
def sendAux (d : Nat × Nat × Bool × Nat) (len now : Nat) (pois : Bool) : List Nat :=
  [0, d.1, d.2.1, len, b2n d.2.2.1, d.2.2.2, 0, now, b2n pois]

/-- Header word of a message item from rod i with `len` payload bytes (R546, Table 10-6). -/
def itemHeader (i len : Nat) : Nat := 2 ^ 63 + 2 ^ 56 + i % 1024 * 2 ^ 16 + (len + 8)

/-- The bytes of an item: header, payload, padding to 8 bytes. -/
def itemBytes (hdr : Nat) (body : List Byte) : List Byte :=
  leBytes 8 hdr ++ body ++ List.replicate ((8 - body.length % 8) % 8) 0

/-- End of the item at the position: its tile's, or the list entry at which the stream ends (R423, R445). -/
def Str.itemEnd (t : Str) : Nat := if t.list ∧ t.listEnd.isSome then min (t.tileEnd t.pos) t.known else t.tileEnd t.pos

/-- A CHAN stream begins the item of the tile at its position once it holds all its bytes (R423); an item to another rod of the herd
is to be reserved, one to another device goes to the end-to-end engine (R655), and a destination outside the herd ends the stream
with DENIED (R527, R670). -/
def chanBegin (i k : Nat) (s : State) : State :=
  match strOf i k s with
  | none => s
  | some t =>
    let e := t.itemEnd
    if t.snkKind ≠ 3 ∨ t.fin ≠ none ∨ e ≤ t.pos then s
    else
      match t.held t.pos e, startedBy i t.num s with
      | some h, some c =>
        if !c.aux.isEmpty then s
        else match destWord t.snk with
          | none => setStr i k { t with fin := some 0x0A } s
          | some d =>
            let s1 := updStarted i t.num (fun c => { c with aux := sendAux d (e - t.pos) s.now (!h.2.isEmpty) }) s
            if d.2.2.1 then
              if e2eOpen s then
                e2eSubmit 2 2 d.2.2.2 (d.1 + d.2.1 * 2 ^ 16) 0 0 (itemBytes (itemHeader i (e - t.pos)) h.1)
                  (h.2.map (fun o => o + 8)) (.send i t.num) s1
              else setStr i k { t with fin := some 8 } s
            else if (herdOfRod i s).isSome && herdOfRod d.1 s == herdOfRod i s then s1
            else setStr i k { t with fin := some 8 } s
      | _, _ => s

/-- Data or acknowledgements have come: move the position as far as the sink allows. -/
def advance (i k : Nat) (s : State) : State :=
  match strOf i k s with
  | none => s
  | some t =>
    match t.snkKind with
    | 2 => feedGoat i k (t.hold.length + 1) s
    | 3 => chanBegin i k s
    | _ =>
      let p := posGo t.got (t.got.length + 1) t.pos
      if p = t.pos then s else moved i k p s

/-- Source bytes have come for offset `off`: written to a scratchpad sink, or held for the others; poison is noted till the bytes are delivered, and
POISON_OUT raised (R424, R458). -/
def sourceBytes (i k off : Nat) (bs : List Byte) (bad : List Nat) (s : State) : State :=
  match strOf i k s with
  | none => s
  | some t =>
    let n := bs.length
    let s0 := if bad.isEmpty then s else raise (strmP i) 18 s
    let t1 := { t with bads := bad.foldl (fun l o => nsInsert l (off + o)) t.bads }
    if t.snkKind = 0 then
      let outside := (List.range n).any (fun j => !(decide (0 ≤ t.snkAddr (off + j)) && decide (t.snkAddr (off + j) < spadSize)))
      if outside then setStr i k { t1 with fin := some 0x0A } s0
      else advance i k (landBytes i t bad off 0 bs (setStr i k { t1 with got := t1.got ++ [(off, n)] } s0))
    else advance i k (setStr i k { t1 with hold := t1.hold ++ [(off, bs, bad)] } s0)

/-! ### Halts, faults and their answers -/

/-- The earliest fault halts a stream (R431): later data is discarded, later requests are orphaned, the position's record and the
faulting address are shown. -/
def haltStream (i k off va page : Nat) (s : State) : State :=
  match strOf i k s with
  | none => s
  | some t =>
    let h := match t.halt with | some x => min x off | none => off
    let t1 := { t with
      halt := some h, haltPages := nsInsert t.haltPages page
      nxt := min t.nxt h, wnxt := min t.wnxt h
      hold := (t.hold.filter (fun x => decide (x.1 < h))).map (fun x => (x.1, x.2.1.take (h - x.1), x.2.2.filter (fun o => decide (x.1 + o < h))))
      got := t.got.filter (fun x => decide (x.1 < h))
      bads := t.bads.filter (fun o => decide (o < h)) }
    let cut (r : PReq) : PReq := match r.client with
      | .stream j l _ o => if j == i && l == k && r.phase == 5 then { r with len := min r.len (h - o) } else r
      | .orphan _ _ _ => r
    let s0 := orphanReqs i k (fun r => match r.client with | .stream _ _ _ o => decide (h ≤ o) | _ => false) (setStr i k t1 s)
    let s1 := freeReads i k { s0 with reqs := s0.reqs.map cut }
    let p := strmP i + 0x130 + 64 * k
    let s2 := wrW (p + 4) (BitVec.ofNat 32 (va / 2 ^ 32)) (wrW p (BitVec.ofNat 32 va) s1)
    let s3 := showPos i k t1.haltRecord (setF (strmP i) (STRM_S_RUN_HALTED k) 1 s2)
    if t.halt = none then raise (strmP i) 16 (bump (strmP i) STRM_HALTS_COUNT 1 s3) else s3

/-- A halted stream whose pages have all been completed resumes from its position (R433). -/
def resumeStream (i k page : Nat) (s : State) : State :=
  match strOf i k s with
  | none => s
  | some t =>
    if t.halt = none ∨ ¬ t.haltPages.contains page then s
    else
      let l := nsErase t.haltPages page
      if l.isEmpty then
        raise (strmP i) 17 (setF (strmP i) (STRM_S_RUN_HALTED k) 0 (setStr i k { t with halt := none, haltPages := [] } s))
      else setStr i k { t with haltPages := l } s

/-- A halted stream ends with XLAT_FAIL when its pager fails (R433, R489). -/
def failStream (i k page : Nat) (s : State) : State :=
  match strOf i k s with
  | none => s
  | some t => if t.haltPages.contains page then setStr i k { t with fin := t.fin.or (some 9) } s else s

/-- Show the open faults of rod i. -/
def showFaults (i : Nat) (s : State) : State := setF (xlatP i) XLAT_FSLOT_OPEN (xlOf i s).faults.length s

/-- An open fault's record (Table 9-5). -/
def XFault.record (f : XFault) (i n : Nat) : List Byte :=
  leBytes 8 (f.va + i * 2 ^ 48 + b2n f.write * 2 ^ 58)
    ++ leBytes 8 (f.fid + f.cause * 2 ^ 16 + f.level * 2 ^ 24 + f.piece * 2 ^ 26 + n * 2 ^ 32)
    ++ leBytes 8 f.entry ++ leBytes 8 f.time

/-- Open a fault, or join the one that is open on the page (R483, R484); in rod mode its record goes to the pager rod at once
(R488). -/
def openFault (i n va : Nat) (write : Bool) (cause level piece entry : Nat) (s : State) : State :=
  let x := xlOf i s
  if x.faults.any (fun f => f.page == va / 2 ^ 16) then s
  else
    let rodMode := flag (xlatP i) XLAT_PAGER_MODE s
    let f : XFault := ⟨x.fid, va / 2 ^ 16, va, write, cause, level, piece, entry, s.now, rodMode⟩
    let s1 := setXl i { x with faults := x.faults ++ [f], fid := (x.fid + 1) % 65536 } s
    let s2 := raise (xlatP i) 16 (showFaults i (bump (xlatP i) XLAT_FSLOT_FAULTS 1 s1))
    if rodMode then sendItemAs (i % 1024 * 2 ^ 16) (getF (xlatP i) XLAT_PAGER_ROD s) (getF (xlatP i) XLAT_PAGER_PCHAN s) (f.record i n) s2 else s2

/-- The error that a failing cause records (Table 9-4, Table 9-9). -/
def xlatError (i cause level : Nat) (s : State) : State :=
  let d := level * 1024 + cause
  match cause with
  | 5 => recordCE (xlatP i) 0x1701 d 0 s
  | 6 => recordCE (xlatP i) 0x1702 d 0 s
  | _ => recordErr (xlatP i) 0x1703 1 d 0 false s

/-- Drop a page request and show the slots in use. -/
def dropReq (id i : Nat) (s : State) : State := showReqs i { s with reqs := s.reqs.filter (fun r => r.id != id) }

/-- PASID of rod i's host accesses (R472, R794); 2^20 for none. -/
def pasidOf (i : Nat) (s : State) : Nat := if flag (xlatP i) XLAT_PASID_PV s then getF (xlatP i) XLAT_PASID_PASID s else 2 ^ 20

/-- A page request that waits for, or has been sent to, host memory. -/
def PReq.hostPage (r : PReq) : Option Nat := match r.target with | some (.host a _ _) => some (a / 4096) | _ => none

/-- Show the reads outstanding at the host port (HIF_NPR). -/
def showNpr (s : State) : State :=
  let n := s.reqs.countP (fun r => r.phase == 1 && !r.write && r.hostPage.isSome)
  setF hifP HIF_NPR_NOW n (setF hifP HIF_NPR_PEAK (max n (getF hifP HIF_NPR_PEAK s)) s)

/-- A host request goes out at address a: a write is acknowledged at once, a read waits for its completion (R797, R905). -/
def hostGo (r : PReq) (fn a : Nat) (s : State) : State :=
  let tag := match r.target with | some (.host _ rlx ns) => hostTag r.rod rlx ns s | _ => .plain
  if r.write then
    updReq r.id (fun x => { x with phase := 3 })
      (emit (.hostWrite fn a r.data (((List.range (r.data.length / 64 + 1)).map (· * 64)).filter (fun o =>
        r.bad.any (fun k => decide (o ≤ k) && decide (k < o + 64)))) tag) s)
  else showNpr (emit (.hostRead fn a r.len tag) (updReq r.id (fun x => { x with sent := s.now }) s))

/-- The translation cache's entry for a page (R794). -/
def atcFind (fn pasid page : Nat) (write : Bool) (s : State) : Option AtcE :=
  s.atc.find? (fun e => e.fn == fn && e.pasid == pasid && e.page == page && (e.w || !write))

/-- A host request of a herd (R794, R797, R1021): with ATS enabled by a translated address, for which a miss asks and waits (phase 4). A
function that may not issue requests ends it. -/
def launchHost (r : PReq) (fn a : Nat) (s : State) : State :=
  let pasid := pasidOf r.rod s
  let hit := atcFind fn pasid (a / 4096) r.write s
  if !mayIssue fn s then
    updReq r.id (fun x => { x with phase := 3, status := if (fnOf fn s).atsEn && hit.isNone then 9 else 0x81 }) s
  else if !(fnOf fn s).atsEn then hostGo r fn a s
  else match hit with
    | some e => hostGo r fn (e.frame * 4096 + a % 4096) { s with atc := s.atc.erase e ++ [e] }
    | none => emit (.ats fn 0 a) (updReq r.id (fun x => { x with phase := 4 }) s)

/-- Send a request that has its target: to the host, to the home controller of a bead, or as a peer request to the end-to-end engine
(R655). -/
def launchReq (r : PReq) (t : Target) (s : State) : State :=
  let fn := (herdOfRod r.rod s).getD 0
  let s1 := updReq r.id (fun x => { x with phase := 1, target := some t, sent := s.now }) s
  match t with
  | .host a _ _ => launchHost { r with target := some t } fn a s1
  | .peer g =>
    if !e2eOpen s then updReq r.id (fun x => { x with phase := 3, status := 8 }) s1
    else e2eSubmit (if r.write then 1 else 0) 0 (g / 2 ^ 46) g (if r.write then 0 else r.len) 0 (if r.write then r.data else [])
      (if r.write then r.bad else []) (.req r.id) s1
  | _ => s1

/-- What becomes of a page request when its translation is known (R482, R497). One that is orphaned waits with its fault or its migration and walks
again after it (R428, R489). -/
def resolveReq (r : PReq) (n : Nat) (res : TRes) (s : State) : State :=
  let i := r.rod
  match res with
  | .ok t => launchReq r t (tierTouch i n r.va s)
  | .mig =>
    match r.client with
    | .stream _ k _ off => dropReq r.id i (haltStream i k off r.va (r.va / 2 ^ 16) s)
    | .orphan _ _ _ => s
  | .held => s
  | .fault c l p e =>
    if c ≥ 5 then updReq r.id (fun x => { x with phase := 3, status := 9 }) (xlatError i c l s)
    else if !(xlOf i s).faults.any (fun f => f.page == r.va / 2 ^ 16) && decide ((xlOf i s).faults.length ≥ 16) then s
    else
      match r.client with
      | .stream _ k _ off =>
        dropReq r.id i (openFault i n r.va r.write c l p e (haltStream i k off r.va (r.va / 2 ^ 16) s))
      | .orphan _ _ _ => openFault i n r.va r.write c l p e s

/-- Slots 0-7. -/
def slots : List Nat := List.range 8

/-- A KV command that waits on a page goes on after RETRY, and ends after FAIL (R489). -/
def kvFaultEnds (i page : Nat) (fail : Bool) (s : State) : State :=
  let q := seqOf i s
  setSeq i { q with started := q.started.map (fun c =>
    if cwUnit c.cmd.word == 6 && !c.done && (c.aux[0]?).getD 0 == 9 && (c.aux[1]?).getD 0 == page then
      { c with aux := listSet c.aux 0 (if fail then 11 else 10) }
    else c) } s

/-- The requests of rod i that wait for a walk of `page` end with XLAT_FAIL (R489). -/
def failWaiting (i page : Nat) (s : State) : State :=
  { s with reqs := s.reqs.map (fun r => if r.rod = i ∧ r.phase = 0 ∧ r.va / 2 ^ 16 = page then { r with phase := 3, status := 9 } else r) }

/-- A fault is answered (R489): RETRY resumes the streams that halted on its page, and the rod walks again for it, past a leaf that it has cached
(R510); FAIL ends what waits on it with XLAT_FAIL. -/
def closeFault (i : Nat) (f : XFault) (fail : Bool) (s : State) : State :=
  let x := xlOf i s
  let keep (e : TlbE) : Bool := fail || levelIdx e.level f.va != e.idx
  let s1 := showFaults i (setXl i { x with
    leaf3 := x.leaf3.filter keep, leaf2 := x.leaf2.filter keep, faults := x.faults.filter (fun g => g.fid != f.fid) } s)
  let s2 := if fail then failWaiting i f.page s1 else s1
  kvFaultEnds i f.page fail
    (slots.foldl (fun t k => if fail then failStream i k f.page t else resumeStream i k f.page t) s2)

/-! ### Requests -/

/-- A request goes on by what the cached leaves answer: an answer resolves it, none leaves it to a walk (R463). -/
def lookedUp (r : PReq) (n : Nat) (x : Option TRes × State) : State :=
  match x.1 with
  | some res => resolveReq r n res x.2
  | none => x.2

/-- Make a page request and look its translation up (R414, R463). -/
def makeReq (i k num off va len : Nat) (write : Bool) (bs : List Byte) (bad : List Nat) (s : State) : State :=
  let r : PReq := ⟨s.reqNext, .stream i k num off, i, va, len, write, bs, bad, 0, none, 0, s.now⟩
  let s1 := showReqs i { s with reqs := s.reqs ++ [r], reqNext := s.reqNext + 1 }
  lookedUp r (herdNo i s) (tlbLook i (herdNo i s) va write s1)

/-- A request slot is free for slot k (R414). -/
def reqFree (i k : Nat) (s : State) : Bool :=
  decide ((reqsOf i s).length < 64) && decide ((reqsOfSlot i k s).length < getF (strmP i) STRM_CTL_REQCAP s)

/-- A list entry is poisoned: DESC_POISON is recorded, and the stream ends with it at that entry (R445, Table 8-9). -/
def descPoison (i k : Nat) (t : Str) (s : State) : State :=
  recordErr (strmP i) 0x1401 1 (k * 512) t.desc true (setStr i k { t with listEnd := some 0x80 } s)

/-- A list entry's address and length lie, with its bytes at both sides' scratchpad addresses, within 2 MiB (R413, R445); b is the stream offset at
which it begins. -/
def Str.entryOk (t : Str) (b addr len : Nat) : Bool :=
  let src := bitsOf t.src 47 0
  let snk := bitsOf t.snk 47 0
  let size := t.lcount * t.tb
  let denseEnd (base : Nat) : Nat := if t.ring then base + (if b % size + len < size then b % size + len else size) else base + b + len
  let fits (pat : Bool) (base : Nat) : Bool := decide ((if pat then base + addr + len else denseEnd base) ≤ spadSize)
  len == 0 || ((t.srcKind != 1 || fits (t.pat == 0) src) && (t.snkKind != 0 || fits (t.pat == 1) snk))

/-- Read list entries until 8 that end past byte `b` are known, at most `f` of them (R413). One that R445 refuses ends the stream when the position
is at it. -/
def readEntries (i k b : Nat) : Nat → State → State
  | 0, s => s
  | f + 1, s =>
    match strOf i k s with
    | none => s
    | some t =>
      let ends := (List.range t.ents.length).map (fun n => t.base0 + ((t.ents.take (n + 1)).map (·.2)).foldl (· + ·) 0)
      if t.fin ≠ none ∨ t.listEnd ≠ none ∨ ends.countP (fun e => decide (b < e)) ≥ 8 ∨ t.ent0 + t.ents.length ≥ t.nent then s
      else
        let a := ((t.dims[0]?).getD (0, 0)).1 % 2 ^ 21 + 16 * (t.ent0 + t.ents.length)
        let bs := spadRead i a 16 s
        let s1 := spadSeen i a 16 s
        if !(spadBadIn i a 16 s).isEmpty then descPoison i k t s1
        else
          let w0 := leNat (bs.take 8)
          let w1 := leNat (bs.drop 8)
          if w0 ≥ 2 ^ 48 ∨ w1 ≥ 2 ^ 32 ∨ !t.entryOk t.known w0 w1 then setStr i k { t with listEnd := some 0x0A } s1
          else readEntries i k b f (setStr i k { t with ents := t.ents ++ [(w0, w1)] } s1)

/-- The tile of byte b may be requested: by a credit taken now if it has none yet, or by the tile window (R418, R419). -/
def admitTile (t : Str) (b : Nat) : Option Str :=
  let n := b / t.tb
  if t.tileMode then (if n < t.pos / t.tb + t.depth then some t else none)
  else if n < t.taken then some t
  else if t.cred = 0 then none
  else some { t with cred := t.cred - 1, taken := n + 1 }

/-- The contiguous bytes to read from byte b: inside the stream and the list entries read, at consecutive source addresses, and on a VIRT side
inside a 2 KiB span (R413, R414, R417). -/
def readRun (t : Str) (b : Nat) : Nat :=
  let a := t.srcAddr b
  let lim := if t.srcKind = 0 then 2048 - (a % 2048).toNat else 2048
  let lim := match t.total with | some n => min lim (n - b) | none => lim
  runLen t.srcAddr b (if t.list then min lim (t.known - b) else lim) 0

/-- Of the n bytes from b, k of which may be requested, those whose tiles may be requested too, and the stream with the credits that these take
(R417, R418). -/
def admitRun (b n : Nat) : Nat → Nat → Str → Str × Nat
  | 0, k, t => (t, k)
  | f + 1, k, t =>
    if n ≤ k then (t, n)
    else match admitTile t (b + k) with
      | none => (t, k)
      | some t1 => admitRun b n f (min n (t1.tileEnd (b + k) - b)) t1

/-- What the engine reads next: the stream, with the credit it takes, when a byte is left whose place is known and whose tile may be requested. -/
def Str.nextRead (t : Str) : Option Str :=
  if t.fin.isSome || (match t.total with | some n => decide (t.nxt ≥ n) | none => false) || (t.list && decide (t.nxt ≥ t.known)) then none
  else admitTile t t.nxt

/-- Read step of the engine, list entries being known: a page request from a VIRT source, or bytes taken from scratchpad. -/
def readStep (i k : Nat) (s : State) : State :=
  match strOf i k s with
  | none => s
  | some t =>
    if t.fin = none ∧ t.endsAt t.pos ≠ none then moved i k t.pos s
    else match t.nextRead with
      | none => s
      | some t0 =>
        let x := admitRun t0.nxt (readRun t0 t0.nxt) (2048 / max 1 t0.tb + 2) 0 t0
        let t1 := x.1
        let n := x.2
        let a := t1.srcAddr t1.nxt
        if t1.srcKind = 0 then
          if !reqFree i k s then s
          else makeReq i k t1.num t1.nxt ((a % (2 : Int) ^ 48).toNat) n false [] [] (setStr i k { t1 with nxt := t1.nxt + n } s)
        else if a < 0 ∨ a + n > spadSize then setStr i k { t1 with fin := some 0x0A } s
        else
          let x := a.toNat
          let bs := spadRead i x n s
          let bad := spadBadIn i x n s
          let s1 := setStr i k { t1 with nxt := t1.nxt + n } (spadSeen i x n s)
          let s2 := if t1.drains then signalTiles i k (n / max 1 t1.tb + 2) (t1.nxt + n) s1 else s1
          sourceBytes i k t1.nxt bs bad s2

/-- Two byte ranges of 48-bit addresses overlap. -/
def overlap (a n b m : Nat) : Bool := decide (a < b + m) && decide (b < a + n)

/-- The bytes that the next write of a VIRT sink carries: those at consecutive addresses in one 2 KiB span (R417) that the stream has read. While
more of them can come, because they have been requested or are to be read from scratchpad at once, it waits for them. -/
def Str.writeRun (t : Str) : Nat :=
  let va := (t.snkAddr t.wnxt % (2 : Int) ^ 48).toNat
  let lim := 2048 - va % 2048
  let full := runLen t.snkAddr t.wnxt (match t.total with | some n => min lim (n - t.wnxt) | none => if t.list then min lim (t.known - t.wnxt) else lim) 0
  let have_ := posGo (t.hold.map (fun h => (h.1, h.2.1.length))) (t.hold.length + 1) t.wnxt - t.wnxt
  if have_ ≥ full then full
  else if t.wnxt + have_ < t.nxt ∨ (t.srcKind = 1 ∧ t.nextRead.isSome) then 0
  else have_

/-- Write step of the engine: a page request to a VIRT sink with the data held at the next byte to write; none overlaps an
unacknowledged write of the stream (R422). -/
def writeStep (i k : Nat) (s : State) : Option State :=
  match strOf i k s with
  | none => none
  | some t =>
    if t.snkKind ≠ 1 ∨ ¬ reqFree i k s then none
    else
      let va := (t.snkAddr t.wnxt % (2 : Int) ^ 48).toNat
      let n := t.writeRun
      match t.held t.wnxt (t.wnxt + n) with
      | none => none
      | some h =>
        if n = 0 ∨ (writesOf i k t.num s).any (fun r => overlap va n r.va r.len) then none
        else
          some (makeReq i k t.num t.wnxt va n true h.1 h.2
            (setStr i k { t with wnxt := t.wnxt + n, hold := t.hold.filter (fun x => decide (t.wnxt + n < x.1 + x.2.1.length)) } s))

/-- The slot's stream may work: it is not halted nor ending, and its slot is READY or DRAINING (R407, R431). -/
def strRuns (i k : Nat) (s : State) : Bool :=
  match strOf i k s with
  | none => false
  | some t => t.halt.isNone && t.fin.isNone && (lifeAt (slotStat i k) s == 2 || lifeAt (slotStat i k) s == 3)

/-- The slot has a page request ready and may issue it, but for its turn (R414, R415). -/
def reqReady (i k : Nat) (s : State) : Bool :=
  strRuns i k s && reqFree i k s && ((writeStep i k s).isSome
    || (match strOf i k s with | some t => t.srcKind == 0 && t.nextRead.isSome | none => false))

/-- Slot k is the first in turn of the slots that have a request ready (R415). -/
def reqTurn (i k : Nat) (s : State) : Bool :=
  ((List.range 8).map (fun j => ((seqOf i s).turn + j) % 8)).find? (fun j => reqReady i j s) == some k

/-- A list may end with entries of LEN 0: once they are read, the last tile of a stream that drains has been read out (R421). -/
def drainSignal (i k : Nat) (s : State) : State :=
  match strOf i k s with
  | some t => if t.drains then signalTiles i k 1 t.nxt s else s
  | none => s

/-- STREAM_REQUEST_ISSUE: the engine reads the slot's list on, and issues its next page request when it is its turn, or moves its next piece where
no request is needed (R413-R419). -/
def execStreamRequestIssue (i k : Nat) (s : State) : Res :=
  if strRuns i k s && !rodQuiet i s then
    let s0 := match strOf i k s with
      | some t => if t.list then drainSignal i k (readEntries i k t.nxt 8 s) else s
      | none => s
    if !reqReady i k s0 then .next (readStep i k s0)
    else if !reqTurn i k s0 then .next s0
    else
      let s1 := setSeq i { seqOf i s0 with turn := (k + 1) % 8 } s0
      .next ((writeStep i k s1).getD (readStep i k s1))
  else .next s

/-- A response to a live request: what it does to its stream (R416, R457, R458). -/
def respond (r : PReq) (i k off : Nat) (s : State) : State :=
  match strOf i k s with
  | none => s
  | some t =>
    if r.status = 0 ∨ r.status = 4 then
      if r.write then
        let t1 := { t with got := t.got ++ [(off, r.len)], bads := if r.status = 4 then nsInsert t.bads off else t.bads }
        freeReads i k (advance i k (setStr i k t1 (if r.bad.isEmpty then s else raise (strmP i) 18 s)))
      else sourceBytes i k off r.data r.bad s
    else
      let s1 := setStr i k { t with fin := t.fin.or (some r.status) } s
      if r.status = 0x81 then recordCE (strmP i) 0x1404 (k * 512) r.va s1 else s1

/-- A read has returned data that its stream holds until they are delivered: it keeps its request slot meanwhile (R416). -/
def keepRead (r : PReq) (i k : Nat) (s : State) : Bool :=
  !r.write && (r.status == 0 || r.status == 4) && (match strOf i k s with | some t => t.snkKind != 0 | none => false)

/-- STREAM_PAGE_RESPONSE: an answered page request gives its bytes to its stream, or is discarded if orphaned, and its slot becomes
free once its data are delivered (R416, R428). `late` says that a request to bead memory has had no response for 1 ms: RESP_TIMEOUT (Table 8-9). -/
def execStreamPageResponse (id : Nat) (late : Bool) (s : State) : Res :=
  match s.reqs.find? (fun r => r.id == id) with
  | none => .next s
  | some r =>
    let beadReq : Bool := match r.target with | some (.bead _ _) => true | _ => false
    if r.phase = 3 then
      match r.client with
      | .stream i k _ off =>
        if keepRead r i k s then .next (freeReads i k (respond r i k off (updReq id (fun x => { x with phase := 5, data := [], bad := [] }) s)))
        else .next (respond r i k off (dropReq id i s))
      | .orphan i _ _ => .next (dropReq id i s)
    else if late && beadReq && r.phase != 5 then
      let s := waitTill (r.sent + 1000000) s
      let k := match r.client with | .stream _ k _ _ => k | .orphan _ k _ => k
      .next (recordWith (strmP r.rod) 0x1403 2 (k * 512) r.va false false ((herdOfRod r.rod s).toList) (dropReq id r.rod s))
    else .next s

/-! ### Binding -/

/-- A started GMV that has not bound a stream and names slot k. -/
def gmvWaiting (i k : Nat) (s : State) : Option Started :=
  if (alGet s.goat i).isSome then none
  else (startedOf 3 (seqOf i s)).find? (fun c => !c.done && cwD c.cmd.word % 8 == k)

/-- Bind a GMV to the Goat stream of slot k (R263). -/
def bindGmv (i k num : Nat) (s : State) : State :=
  match strOf i k s with
  | none => s
  | some t =>
    let r : List (List Nat × Bool) × State := match startedBy i num s with
      | some c => (match gmvGeo c.cmd.word with | some g => readVecs i c.cmd g 0 s | none => ([], s))
      | none => ([], s)
    let x : GoatSt := ⟨num, k, [], [], 0, 0, 0, false, false, r.1⟩
    let s1 := setStr i k { t with bound := true } { r.2 with goat := alSet r.2.goat i x }
    advance i k (goatShow i x (setF (goatP i) GOAT_STATE_SLOT k (setF (goatP i) GOAT_STATE_BOUND 1 s1)))

/-- A stream starts in slot k, for which a GMV may be waiting (R263): a Goat stream is bound, and one without elements ends it at once
(R264); on any other sink the GMV completes with BAD_OPERAND. -/
def meetGmv (i k snk : Nat) (empty : Bool) (s : State) : State :=
  match gmvWaiting i k s with
  | none => s
  | some g =>
    if snk ≠ 2 then markDone i g.cmd.num 0x0A ⟨0, false⟩ s
    else if empty then markDone i g.cmd.num 0x80 ⟨0, false⟩ (raise (goatP i) 17 s)
    else bindGmv i k g.cmd.num s

/-- GMV at start (R257, R258, R263, R270): it binds the slot's Goat stream, waits for one, or completes with BAD_OPERAND. -/
def gmvRun (i : Nat) (c : QCmd) (s : State) : State :=
  let k := cwD c.word % 8
  match gmvGeo c.word with
  | none => badOperand i c s
  | some g =>
    if !gmvOk c g then badOperand i c s
    else match strOf i k s with
      | some t =>
        if t.snkKind ≠ 2 then badOperand i c s
        else
          let s1 := setF (goatP i) GOAT_STATE_BUSY 1 (addStarted i (Started.fresh c []) s)
          if t.bound then s1 else bindGmv i k c.num s1
      | none => setF (goatP i) GOAT_STATE_BUSY 1 (addStarted i (Started.fresh c []) s)

/-- The Goat path holds one GMV at a time. -/
def gmvFree (i : Nat) (_ : QCmd) (s : State) : Bool := (startedOf 3 (seqOf i s)).isEmpty

/-- GMV forms matrix-vector products from a bound stream (R263). -/
def execGmv (i : Nat) (w : CmdWord) (s : State) : Res :=
  .next (startHead i 3 (gmvFree i) (gmvRun i) (issueUnit i w s))

/-! ### SRUN, SCRED, SFLUSH, SSTAT -/

/-- Range of patterned addresses of an affine stream: lowest element and one past the highest byte. -/
def Str.span (t : Str) (base : Nat) : Int × Int :=
  let l := (t.counts.zip t.dims).map (fun p => ((p.1 : Int) - 1) * signed 32 p.2.2)
  ((base : Int) + (l.map (fun x => min x 0)).foldl (· + ·) 0, (base : Int) + (l.map (fun x => max x 0)).foldl (· + ·) 0 + t.elen)

/-- The scratchpad ranges of an affine stream lie within 2 MiB (R444). -/
def Str.spadOk (t : Str) : Bool :=
  let n := t.counts.foldl (· * ·) 1
  let denseOk (base : Nat) : Bool := decide (base + (if t.ring then t.lcount * t.tb else n * t.elen) ≤ spadSize)
  let patOk (base : Nat) : Bool := n == 0 || (decide (0 ≤ (t.span base).1) && decide ((t.span base).2 ≤ spadSize))
  let src := bitsOf t.src 47 0
  let snk := bitsOf t.snk 47 0
  (t.srcKind != 1 || (if t.pat = 0 then patOk src else denseOk src))
    && (t.snkKind != 0 || (if t.pat = 1 then patOk snk else denseOk snk))

/-- The list's entries are all in order and have LEN 0. -/
def listEmpty (i : Nat) (t : Str) (s : State) : Bool :=
  (List.range t.nent).all (fun e =>
    let a := ((t.dims[0]?).getD (0, 0)).1 % 2 ^ 21 + 16 * e
    decide (leNat (spadRead i a 8 s) < 2 ^ 48) && leNat (spadRead i (a + 8) 8 s) == 0 && (spadBadIn i a 16 s).isEmpty)

/-- A descriptor that R444 refuses; `rec` is its saved-position record. -/
def descBad (t : Str) (words : List Nat) (rec : List Byte) : Bool :=
  let w (k : Nat) : Nat := elN words k
  let form := t.ctl % 4
  let ndim := bitsOf t.ctl 26 24
  let res := bitOf t.ctl 20
  let tail := leNat (rec.drop 28)
  bitsOf t.ctl 23 21 != 0 || bitsOf t.ctl 31 27 != 0 || decide (form ≥ 2) || decide (t.srcKind ≥ 2)
    || (form == 0 && (ndim == 0 || decide (ndim > 5) || (List.range 5).any (fun k => decide (ndim ≤ k) && w (3 + k) != 0)))
    || (form == 1 && (ndim != 0 || t.elen != 1 || bitsOf (w 3) 31 21 != 0 || (List.range 4).any (fun k => w (4 + k) != 0)
        || (w 3 % 2 ^ 21) % 16 != 0 || decide (w 3 % 2 ^ 21 + 16 * t.nent > spadSize)))
    || t.elen == 0 || t.tileE == 0
    || (!t.tileMode && (bitsOf t.ctl 11 8 != 0 || t.lcount == 0)) || (t.tileMode && t.lcount != 0)
    || (t.pat == 1 && decide (t.snkKind ≥ 2)) || (t.snkKind == 3 && decide (t.tb > 4096)) || (t.snkKind == 2 && t.snk != 0)
    || (form == 0 && !t.spadOk) || (res && (!bitOf tail 31 || (bitOf tail 30 != (form == 1))))

/-- The stream that a descriptor describes, at its start or at the saved position (R418, R437). -/
def strOfDesc (num desc : Nat) (words : List Nat) (rec : List Byte) : Str :=
  let w (k : Nat) : Nat := elN words k
  let dims := if w 0 % 4 = 1 then [(w 3 % 2 ^ 32, w 3 / 2 ^ 32)]
    else (List.range 5).map (fun k => (w (3 + k) % 2 ^ 32, w (3 + k) / 2 ^ 32))
  let t : Str := ⟨num, desc, w 0, w 1, w 2, dims, [], 0, 0, 0, 0, 0, 0, 0, 0, [], [], false, none, [], none, false, none, []⟩
  let r (a n : Nat) : Nat := leNat ((rec.drop a).take n)
  if bitOf t.ctl 20 then
    let pos := if t.list then r 4 8
      else ((List.range 5).foldr (fun k a => r (4 * k) 4 + ((t.counts[k]?).getD 1) * a) 0) * t.elen + r 20 4
    let tile := if t.tb = 0 then 0 else pos / t.tb
    { t with
      pos := pos, nxt := pos, wnxt := pos, cred := r 24 4, sig := tile
      taken := if t.tb ≠ 0 ∧ pos % t.tb ≠ 0 then tile + 1 else tile
      ent0 := if t.list then r 0 4 else 0, base0 := if t.list then pos - r 20 4 else 0 }
  else { t with cred := if t.tileMode then 0 else if t.drains then 0 else t.lcount }

/-- SRUN at start (R406, R407, R444, R446). -/
def srunRun (i : Nat) (c : QCmd) (s : State) : State :=
  let k := cwD c.word % 8
  let d := spadAddr c.word c.sa
  if lifeAt (slotStat i k) s ≠ 2 then finish i c 5 ⟨0, false⟩ s
  else if d % 8 ≠ 0 ∨ ¬ spadInRange d 64 then finish i c 0x0A ⟨0, false⟩ s
  else
    let words := (List.range 8).map (fun j => leNat (spadRead i (d + 8 * j) 8 s))
    let withRec : Bool := bitOf (elN words 0) 19 || bitOf (elN words 0) 20
    let len := if withRec then 96 else 64
    if !spadInRange d len then finish i c 0x0A ⟨0, false⟩ s
    else
      let rec_ := if withRec then spadRead i (d + 64) 32 s else []
      let readRec : Bool := bitOf (elN words 0) 20
      let t := strOfDesc c.num d words rec_
      let s0 := spadSeen i d (if readRec then 96 else 64) s
      if !(spadBadIn i d (if readRec then 96 else 64) s).isEmpty then
        recordErr (strmP i) 0x1401 1 (k * 512) d true (finish i c 0x80 ⟨0, false⟩ s0)
      else if descBad t words rec_ then finish i c 0x0A ⟨0, false⟩ s0
      else
        let s1 := setF (strmP i) (STRM_S_RUN_DESC k) d s0
        if t.total = some 0 ∨ (t.list ∧ listEmpty i t s) then
          let s2 := if t.save then spadWrite i (d + 64) (t.record 0) [] s1 else s1
          let s3 := setF (strmP i) (STRM_S_LAST_STATUS k) 0 (showDeliv i k t (showPos i k (t.record 0) s2))
          finish i c 0 ⟨0, false⟩ (meetGmv i k t.snkKind true s3)
        else
          let s2 := showDeliv i k t (setF (strmP i) (STRM_S_RUN_BUSY k) 1 (setStr i k t (addStarted i (Started.fresh c []) s1)))
          meetGmv i k t.snkKind false s2

/-- SCRED at start (R425). -/
def scredRun (i : Nat) (c : QCmd) (s : State) : State :=
  let k := cwD c.word % 8
  let n := cwImm c.word % 65536
  let s1 := match strOf i k s with
    | none => s
    | some t =>
      if t.tileMode then s
      else
        let t1 := { t with cred := min t.lcount (t.cred + n) }
        let u0 := setStr i k t1 s
        let u := if t.halt.isSome then showPos i k t1.haltRecord u0 else u0
        if t.cred + n > t.lcount then raise (strmP i) 20 u else u
  finish i c 0 ⟨0, false⟩ s1

/-- SFLUSH at start (R426, R429): the slot's stream ends with FLUSHED, after the item it has begun; one that is ending already ends as it was to. -/
def sflushRun (i : Nat) (c : QCmd) (s : State) : State :=
  let k := cwD c.word % 8
  match strOf i k s with
  | none => finish i c 0 ⟨0, false⟩ s
  | some t =>
    if t.fin.isSome || itemUnderWay i k s then addStarted i (Started.fresh c [k]) (setStr i k { t with fin := t.fin.or (some 3) } s)
    else startDone i c 0 ⟨0, false⟩ (endStream i k 3 s)

/-- The status word of a slot (R427). -/
def slotStatus (i k : Nat) (s : State) : SReg :=
  match strOf i k s with
  | none => statusWord (getF (strmP i) (STRM_S_LAST_STATUS k) s)
      (rd64 (strmP i + 0x138 + 64 * k) s % 2 ^ 40 + (reqsOfSlot i k s).length * 2 ^ 47)
  | some t => statusWord 0 (2 ^ 55 + b2n t.halt.isSome * 2 ^ 54 + (reqsOfSlot i k s).length * 2 ^ 47 + t.delivered % 2 ^ 40)

/-- What the stream unit does at the start of a command. -/
def strmRun (i : Nat) (c : QCmd) (s : State) : State :=
  match cwOp c.word with
  | 0x01 => srunRun i c s
  | 0x02 => scredRun i c s
  | 0x03 => sflushRun i c s
  | _ => finish i c 0 (slotStatus i (cwA c.word % 8) s) s

/-- SRUN waits until its slot holds no stream (R209). -/
def strmFree (i : Nat) (c : QCmd) (s : State) : Bool :=
  cwOp c.word != 1 || (strOf i (cwD c.word % 8) s).isNone

/-- Issue to the stream unit, which starts its head at once when its waits and slot allow. -/
def strmIssue (i : Nat) (w : CmdWord) (s : State) : State := startHead i 1 (strmFree i) (strmRun i) (issueUnit i w s)

/-- SRUN runs a stream in its slot (R406). -/
def execSrun (i : Nat) (w : CmdWord) (s : State) : Res := .next (strmIssue i w s)
/-- SCRED returns credits to a stream (R425). -/
def execScred (i : Nat) (w : CmdWord) (s : State) : Res := .next (strmIssue i w s)
/-- SFLUSH ends a slot's stream with FLUSHED (R426). -/
def execSflush (i : Nat) (w : CmdWord) (s : State) : Res := .next (strmIssue i w s)
/-- SSTAT writes a slot's status word (R427). -/
def execSstat (i : Nat) (w : CmdWord) (s : State) : Res := .next (strmIssue i w s)

/-- A stream that is about to end does so now; SFLUSH commands that waited for it are over. -/
def finishStream (i k st : Nat) (s : State) : State :=
  let isGoat : Bool := match strOf i k s with | some t => t.snkKind == 2 && t.bound | none => false
  let s1 := endStream i k st s
  let s2 := if isGoat ∧ (st = 0 ∨ st = 4) then goatEnd i st s1 else s1
  let q := seqOf i s2
  setSeq i { q with started := q.started.map (fun c =>
    if cwUnit c.cmd.word = 1 ∧ cwOp c.cmd.word = 3 ∧ c.aux = [k] then { c with done := true } else c) } s2

/-- STREAM_END (R424): a stream that has delivered its last element, or whose end is due, ends and its SRUN completes; BAD_OPERAND
raises the program fault of R189 with that completion. -/
def execStreamEnd (i k : Nat) (s : State) : Res :=
  match strOf i k s with
  | none => .next s
  | some t =>
    match t.fin with
    | none => .next s
    | some st => if itemUnderWay i k s then .next s else .next (completeNum i t.num (finishStream i k st s))

/-- STRM_CTL_WRITE: REQCAP is stored clamped to 1-64 (R447). -/
def execStrmCtlWrite (fn i v : Nat) (s : State) : Res :=
  .next (barWrite fn (strmP i + 0x80) (writeReg (strmP i + 0x80) (max 1 (min 64 (v % 128)))) s)

end Sys2Proof.Machine
end

