-- ==== Sys2Proof/Machine/BeadRows.lean ====
section
/-! DEFINITION. Family: bead memory (chapter 7): requests at the home controller, fills, write-back, refresh, patrol scrub, classes,
zero-fill. -/
namespace Sys2Proof.Machine

/-- A request begins to wait for its page: a miss (R364). -/
def beginWait (i id : Nat) (s : State) : State :=
  let s1 := bump64 (beadP i + 0xE0) 1 (updReq id (fun x => { x with phase := 2 }) s)
  setBead i { beadOf i s1 with waits := (beadOf i s1).waits.filter (fun w => w != id) ++ [id] } s1

/-- BEAD_REQUEST (R362-R368): request `id` arrives at its home controller and is served from the cache, starts a fill or waits for the
one in flight; beyond the column it is ADDR_RANGE (R384), in a zero-fill it is STOPPED (R395), on a channel that is down XLAT_FAIL
(R398). A request to a channel that holds its requests, a 65th transaction, and a ninth fill of a channel, wait on their way (R362). -/
def execBeadRequest (id : Nat) (s : State) : Res :=
  match s.reqs.find? (fun r => r.id == id) with
  | none => .next s
  | some r =>
    match r.phase, r.target with
    | 1, some (.bead i a) =>
      if a + r.len > beadSize then
        .next (updReq id (fun x => { x with phase := 3, status := 9 }) (recordCE (beadP i) 0x160F 0 a s))
      else match beadBlocked i a s with
        | some st => .next (updReq id (fun x => { x with phase := 3, status := st }) s)
        | none =>
          let q := a / 2048
          let whole : Bool := r.write && r.len == 2048 && !(fillsOf i s).contains q
          if pageHeld i q whole s then .next s
          else if resident i q s || whole then .next (applyReq r (touchPage i q whole s))
          else .next (beginWait i id s)
    | _, _ => .next s

/-- What a read of page q's stored copy finds: wrong symbols `errs`, a wrong header, metadata that name another page or rod. -/
def found (i q : Nat) (errs : List Nat) (hdr other : Bool) (s : State) : State :=
  let b := beadOf i s
  setBead i { b with
    errs := if errs.isEmpty then b.errs else alSet b.errs q (errs.foldl nsInsert (pageErrs i q s))
    badHdr := if hdr then nsInsert b.badHdr q else b.badHdr
    badMeta := if other then nsInsert b.badMeta q else b.badMeta } s

/-- Transfers of page q that failed their CRC, each given by its failures (R353): one that a repeat mends records CHAN_CRC; at the eighth failure
the channel starts a calibration and the transfer is tried again (assumption log 114). Answers whether all went through. -/
def crcRepeats (i q : Nat) (crc : List Nat) (s : State) : Bool × State :=
  let c := pageChan q
  let s1 := (crc.filter (fun n => decide (0 < n) && decide (n < 8))).foldl (fun t _ => recordCE (beadP i) 0x1605 (c * 16) q t) s
  if crc.any (fun n => decide (8 ≤ n)) then (false, calDue i c s1) else (true, s1)

/-- BEAD_FILL_DONE (R353, R360, R364, R382, R396): the page that requests of rod i wait for is read and decoded, and they are applied
in arrival order. `crc` gives the failures of each transfer that failed its CRC, among the fill's and those of the write-back of the page that
it puts out, which lies on the same channel; `errs` are symbols, and `hdr` and `other` tell of a header and of metadata, found wrong in
the stored copy. -/
def execBeadFillDone (i q : Nat) (crc : List Nat) (errs : List Nat) (hdr other : Bool) (s : State) : Res :=
  if !(fillsOf i s).contains q || chanHeld i (q % 2) s then .next s
  else
    let r := crcRepeats i q crc s
    .next (if r.1 then fillServe i q (fillPage i q (found i q errs hdr other r.2)) else r.2)

/-- BEAD_WBACK: a write of 1 to BEAD_CTL.WBACK starts writing back every dirty page (R369). -/
def execBeadWback (fn i v : Nat) (s : State) : Res :=
  .next (barWrite fn (beadP i + 0xE8) (fun s => if bitOf v 0 then setF (beadP i) BEAD_CTL_BUSY 1 s else s) s)

/-- BEAD_WBACK_DONE: every dirty page has been written back and stays resident; BUSY clears. `x.crc` gives transfers that failed their CRC, as page
and failures; a page of a transfer that failed eight times is not yet written (R353). A channel that holds its requests sends neither
pages nor repeats (R394). -/
def execBeadWbackDone (x : WbackEnd) (s : State) : Res :=
  let i := x.rod
  let todo := x.crc.map (·.1) ++ ((beadOf i s).cache.filter CPage.needs).map (·.q)
  if todo.any (fun q => chanHeld i (pageChan q) s) then .next s
  else if flag (beadP i) BEAD_CTL_BUSY s then
    let r := x.crc.foldl (fun (t : Bool × State) e =>
      let y := crcRepeats i e.1 [e.2] t.2
      (t.1 && y.1, y.2)) (true, s)
    .next (if r.1 then setF (beadP i) BEAD_CTL_BUSY 0
        ((beadOf i r.2).cache.foldl (fun t c => if c.needs then writeBack i c.q false t else t) r.2)
      else r.2)
  else .next s

/-- BEAD_REFRESH (R371): a refresh of bead k's rows falls due; its rate follows the band of the bead's temperature. Stored data are
unchanged. -/
def execBeadRefresh (i k : Nat) (s : State) : Res := .next (if k < 8 then refreshBand i k s else s)

/-- Requests that wait for page q, which a retirement has made resident, are carried out before any that comes later (R364, R390, R453). -/
def serveNow (i q : Nat) (s : State) : State := if resident i q s then fillServe i q s else s

/-- The scrub of page q (R379): a resident page is written back whole; another is decoded, and the transfers that hold its corrected symbols are
written. -/
def scrubPage (i q : Nat) (errs : List Nat) (hdr other : Bool) (s : State) : State :=
  if resident i q s then writeBack i q true s
  else
    let s0 := found i q errs hdr other (pageXfer i q s)
    let tr := (pageErrs i q s0).flatMap symTransfers
    let r := decodePage i q s0
    if r.1 && !resident i q r.2 then wrote i q tr (pageXfer i q r.2) else r.2

/-- Minutes that a patrol pass takes at page q: PERIOD_MIN, or by the hotter bead of its region (R378, Table 7-5). -/
def scrubPeriod (i q : Nat) (s : State) : Nat :=
  if flag (beadP i) BEAD_SCRUB_CTL_MANUAL s then getF (beadP i) BEAD_SCRUB_CTL_PERIOD_MIN s
  else match tempFloor i (pageRegion q) s with
    | 0 => 60 | 1 => 15 | _ => 4

/-- PATROL_SCRUB (R378-R380, R388): the scrub reads the next page, found as `p` says, a page's share of the pass after the one before.
POS goes on, and a pass counts when it wraps. `p.crc` gives the failures of transfers that failed their CRC: at the eighth the
page waits for the calibration. -/
def execPatrolScrub (i : Nat) (p : PageRead) (s : State) : Res :=
  let q := getF (beadP i) BEAD_SCRUB_STAT_POS s
  let min_ := scrubPeriod i q s
  if min_ = 0 || (beadOf i s).zeroing || chanHeld i (pageChan q) s || (beadOf i s).down.contains (pageChan q) then .next s
  else
    let s0 := waitTill ((beadOf i s).scrubAt + min_ * 60000000000 / 49152) s
    let r := crcRepeats i q p.crc (setBead i { beadOf i s0 with scrubAt := s0.now } s0)
    if !r.1 then .next r.2
    else
      let s1 := serveNow i q (scrubPage i q p.errs p.hdr p.other r.2)
      if q + 1 ≥ 49152 then .next (setF (beadP i) BEAD_SCRUB_STAT_POS 0 (bump (beadP i) BEAD_SCRUB_STAT_PASSES 1 s1))
      else .next (setF (beadP i) BEAD_SCRUB_STAT_POS (q + 1) s1)

/-- Nanoseconds of an hour. -/
def hourNs : Nat := 3600000000000

/-- One region at the end of a window (R374, R375, R387, R388); with auto-strengthen off its class stays, and the time without errors is still
measured. -/
def asRegion (i r : Nat) (s : State) : State :=
  let b := beadOf i s
  let n := alGetD b.asCount r 0
  let thr := getF (beadP i) BEAD_CODE_CTL_AS_THRESH s
  let h := getF (beadP i) BEAD_CODE_CTL_RELAX_H s
  let c := regionClass i r s
  if n > thr then asRaise i r s
  else if n * 8 > thr then setBead i { b with asSince := alSet b.asSince r s.now } s
  else if asOn i s ∧ h ≠ 0 ∧ ¬ b.asChanged.contains r ∧ c > effFloor i r s ∧ beadTemp i (pageBead (512 * r)) s ≤ 85 * 16
      ∧ beadTemp i (pageBead (512 * r + 1)) s ≤ 85 * 16
      ∧ s.now - alGetD b.asSince r b.zeroAt ≥ h * hourNs then setRegionClass i r (c - 1) false s
  else s

/-- AS_WINDOW_END (R374, R375): a second after the window began, regions are raised or lowered with auto-strengthen on; the next one
begins. -/
def execAsWindowEnd (i : Nat) (s : State) : Res :=
  let s0 := waitTill ((beadOf i s).asWin + 1000000000) s
  let s1 := (List.range 96).foldl (fun t r => asRegion i r t) s0
  .next (setBead i { beadOf i s1 with asCount := [], asChanged := [], asWin := s1.now } s1)

/-- The sweep at stored page q, which is not resident: decoded at its own class and its spare transfers and header written at class c (R377). -/
def recodePage (i q c : Nat) (s : State) : State :=
  let old := storedClass i q s
  let tr := List.range (max (parityTransfers old) (parityTransfers c)) ++ (List.range 8).map (· + 56)
  let r := decodePage i q s
  if resident i q r.2 || (beadOf i r.2).lost.contains q || old = c then r.2
  else
    let b := beadOf i r.2
    setBead i { b with errs := alPut [] b.errs q (errsLeft tr (pageErrs i q r.2)) } r.2

/-- RECODE_SWEEP_DONE (R377): the sweep has taken the pages of region r in ascending order, of which those with something wrong show it; every page
is at its class, a resident one in the cache until it is written back, and SWEEP clears. A class that one of its decodes has raised starts
the next sweep: SWEEP stays. -/
def execRecodeSweepDone (i r : Nat) (s : State) : Res :=
  if getF (beadP i) (rsweepF r) s = 1 ∧ r < 96 then
    let b := beadOf i s
    let c := regionClass i r s
    let bad := ((b.errs.map (·.1) ++ b.badHdr ++ b.badMeta).foldl nsInsert []).filter (fun q => pageRegion q == r && !resident i q s)
    let s1 := bad.foldl (fun t q => serveNow i q (recodePage i q c t)) s
    let c1 := regionClass i r s1
    let b1 := beadOf i s1
    let cached := (b1.cache.filter (fun p => pageRegion p.q == r)).map (fun p => (p.q, storedClass i p.q s1))
    let s2 := setBead i { b1 with
      sweepOld := if c1 = c then alErase b1.sweepOld r else alSet b1.sweepOld r c
      hdr := b1.hdr.filter (fun e => pageRegion e.1 != r)
      cache := b1.cache.map (fun p => if pageRegion p.q = r ∧ p.cls ≠ c1 then { p with cls := c1, spare := true } else p) } s1
    .next (setF (beadP i) (rsweepF r) (b2n (c1 != c)) (cached.foldl (fun t e => putHdr i e.1 e.2 t) s2))
  else .next s

/-- Region r takes class c, clamped to the codes and to its floor. -/
def writeClass (i r c : Nat) (s : State) : State :=
  let x := max (min c 4) (effFloor i r s)
  setRegionClass i r x false (if x = c then s else setF (beadP i) BEAD_FLOOR_CLAMPED 1 s)

/-- BEAD_RCLASS_WRITE (R376, R386): in manual mode each region of the register takes its class, clamped to the codes and to its floor;
otherwise the write is ignored and CLASS_REJECT raised. -/
def execBeadRclassWrite (fn i j v : Nat) (s : State) : Res :=
  .next (barWrite fn (beadP i + 0x88 + 4 * j) (fun s =>
    if flag (beadP i) BEAD_CODE_CTL_MANUAL s then
      (List.range 8).foldl (fun t n => writeClass i (8 * j + n) (bitsOf v (4 * n + 2) (4 * n)) t) s
    else raise (beadP i) 17 s) s)

/-- BEAD_CODE_CTL_WRITE (R393): the register takes its fields; back in automatic mode the floors apply at once. -/
def execBeadCodeCtlWrite (fn i v : Nat) (s : State) : Res :=
  .next (barWrite fn (beadP i + 0x80) (fun s => applyFloors i (writeReg (beadP i + 0x80) v s)) s)

/-- ZERO_DONE (R395): the zero-fill of rod i's column ends and ZERO_DONE is raised. -/
def execZeroDone (i : Nat) (s : State) : Res :=
  if (beadOf i s).zeroing then .next (raise (beadP i) 23 (zeroFill i s)) else .next s

end Sys2Proof.Machine
end

