-- ==== Sys2Proof/Machine/Msg.lean ====
section
/-! DEFINITION. Family: message items (R546-R553, R562-R565), framed queues (R438-R442) and wait cycles (R554-R573). -/
namespace Sys2Proof.Machine

/-! ### Channels -/

/-- Key of the framed queue of channel c of rod i. -/
def chanKey (i c : Nat) : Nat := i * 32 + c

/-- Granules of an item with `len` payload bytes (R548). -/
def granules (len : Nat) : Nat := (len + 8 + 63) / 64

/-- Channel c of rod i belongs to its XLAT unit (R488, R504). -/
def isCchan (i c : Nat) (s : State) : Bool := flag (xlatP i) XLAT_PAGER_MODE s && getF (xlatP i) XLAT_PAGER_CCHAN s == c

/-- Free granules of a channel. -/
def chanFree (i c : Nat) (s : State) : Nat := getF (msgP i) (MSG_CH_STAT_FREE c) s

/-- Scratchpad address of byte o of the item that begins at granule g of a ring (R548). -/
def ringAddr (i c g o : Nat) (s : State) : Nat :=
  getF (msgP i) (MSG_CH_BUF_BASE c) s * 64 + (g * 64 + o) % (max 1 (getF (msgP i) (MSG_CH_BUF_SIZE c) s) * 64)

/-- Put an item's bytes into the ring from granule g. -/
def ringPut (i c g : Nat) (bad : List Nat) : Nat → List Byte → State → State
  | _, [], s => s
  | o, b :: t, s => ringPut i c g bad (o + 1) t (spadPut i (ringAddr i c g o s) b (bad.contains o) s)

/-- Show the items waiting on a channel. -/
def showItems (i c : Nat) (s : State) : State :=
  setF (msgP i) (MSG_CH_STAT_ITEMS c) (min 65535 (fqOf (chanKey i c) s).items.length) s

/-! ### MRECV -/

/-- A started MRECV takes an item (R201, R202, R547, R551): its payload goes from the ring to the landing space, its granules are free,
and the status word tells its length and sender. -/
def recvItem (i : Nat) (c : Started) (it : FItem) (s : State) : State :=
  let ch := (c.aux[0]?).getD 0
  let addr := (c.aux[1]?).getD 0
  let space := (c.aux[2]?).getD 0
  let full := it.body.length
  let n := min full space
  let src := (List.range n).map (fun k => ringAddr i ch it.gran (8 + k) s)
  let bs := src.map (fun a => spadByte i a s)
  let bad := (List.range n).filter (fun k => spadPoison i ((src[k]?).getD 0) s)
  let s1 := spadWrite i addr bs bad (src.foldl (fun t a => spadSeen i a 1 t) s)
  let s2 := setF (msgP i) (MSG_CH_STAT_FREE ch) (chanFree i ch s1 + granules full) s1
  let s3 := bump64 (msgP i + 0x8C) 1 (showItems i ch s2)
  let remote := bitOf it.hdr 26
  let st := if full > space then 6 else if bad.isEmpty then 0 else 4
  let res := full % 8192 + bitsOf it.hdr 25 16 * 2 ^ 16 + b2n remote * 2 ^ 26 + b2n (bitOf it.hdr 31) * 2 ^ 31
    + (if remote then bitsOf it.hdr 49 32 * 2 ^ 32 else 0)
  markDone i c.cmd.num st (statusWord st res) s3

/-- The MRECV that waits on a channel takes its oldest item. -/
def feedRecv (i ch : Nat) (s : State) : State :=
  match (startedOf 5 (seqOf i s)).find? (fun c => cwOp c.cmd.word == 2 && !c.done && c.aux[0]? == some ch) with
  | none => s
  | some c =>
    match (fqOf (chanKey i ch) s).items with
    | [] => s
    | it :: t => recvItem i c it (setFq (chanKey i ch) { fqOf (chanKey i ch) s with items := t } s)

/-! ### Framed queues -/

/-- KIND and LEN that a queue takes (R438, R546, R733): a message channel takes KIND 1 with LEN 9-4,104; a syntax buffer KIND 4 with LEN up
to 32,768. Host queues and pipes take whole entries and command blocks in rows of their own. -/
def headerOk (q w : Nat) : Bool :=
  let len := w % 65536
  let kind := bitsOf w 62 56
  bitOf w 63 && decide (8 ≤ len) &&
    (if q < 0x8000 then kind == 1 && decide (9 ≤ len) && decide (len ≤ 4104)
     else kind == 4 && decide (len ≤ 32768) && bitsOf w 39 16 == 0)

/-- A framing error on a queue's page (R440). -/
def framingError (q : Nat) (s : State) : State :=
  if q < 0x8000 then
    let p := msgP (q / 32)
    recordCE p 0x1802 (q % 32) (q % 32) (raise p 16 (bump p MSG_FRAMEERR_COUNT 1 s))
  else recordCE (vpxP (q - 0xA000)) 0x3001 0 0 s

/-- An item is whole (R439, R441): it becomes visible, is answered OK, or FLUSHED with PRIOR for a producer with a flush note. -/
def itemWhole (q : Nat) (p : FPart) (s : State) : Nat × State :=
  let v := fqOf q s
  let noted := v.notes.contains p.prod
  let len := p.hdr % 65536 - 8
  let body := p.body.take len
  let bad := p.bad.filter (fun o => decide (o < len))
  let it : FItem := ⟨p.prod, p.hdr, body, bad, v.tail⟩
  let v1 := { v with items := v.items ++ [it], notes := nsErase v.notes p.prod }
  let code := if noted then 0x103 else 0
  if q < 0x8000 ∧ ¬ isCchan (q / 32) (q % 32) s then
    let i := q / 32
    let c := q % 32
    let size := max 1 (getF (msgP i) (MSG_CH_BUF_SIZE c) s)
    let s1 := ringPut i c v.tail (bad.map (fun o => o + 8)) 0 (itemBytes p.hdr body)
      (setFq q { v1 with tail := (v.tail + granules len) % size } s)
    (code, feedRecv i c (showItems i c s1))
  else (code, setFq q v1 s)

/-- A word comes to a framed queue (R439-R441). Answers what its write is answered, once there is an answer: 0 OK, 3 FLUSHED, 0x103
FLUSHED with PRIOR. -/
def wordIn (q prod w mask : Nat) (s : State) : Option Nat × State :=
  let v := fqOf q s
  match v.parts.find? (fun p => p.prod == prod) with
  | some p =>
    let o := p.body.length
    let p1 := { p with
      body := p.body ++ leBytes 8 w
      bad := p.bad ++ ((List.range 8).filter (bitOf mask)).map (fun k => o + k)
      left := p.left - 1 }
    let rest := v.parts.filter (fun x => x.prod != prod)
    if p.left ≤ 1 then
      if p.drop then (some 3, setFq q { v with parts := rest } s)
      else let r := itemWhole q p1 (setFq q { v with parts := rest } s); (some r.1, r.2)
    else (none, setFq q { v with parts := rest ++ [p1] } s)
  | none =>
    if headerOk q w then
      let n := (w % 65536 + 7) / 8
      let p : FPart := ⟨prod, w, [], [], n - 1, false⟩
      let v1 := { v with resync := nsErase v.resync prod }
      if n ≤ 1 then let r := itemWhole q p (setFq q v1 s); (some r.1, r.2)
      else (none, setFq q { v1 with parts := v1.parts ++ [p] } s)
    else if v.resync.contains prod then (none, s)
    else (some 3, framingError q (setFq q { v with resync := nsInsert v.resync prod } s))

/-- A flush of channel c of rod i (R219, R441, R572): its granules but those granted to items not yet begun are free, a blocked MRECV
on it ends with FLUSHED, and CHAN_FLUSHED is raised. -/
def flushChan (i c : Nat) (s : State) : State :=
  let q := chanKey i c
  let v := fqOf q s
  let back := (v.items.map (fun it => granules it.body.length)).foldl (· + ·) 0
    + ((v.parts.filter (fun p => !p.drop)).map (fun p => granules (p.hdr % 65536 - 8))).foldl (· + ·) 0
  let s1 := showItems i c (setF (msgP i) (MSG_CH_STAT_FREE c) (chanFree i c s + back) (flushQueue q s))
  let s2 := match (startedOf 5 (seqOf i s1)).find? (fun x => cwOp x.cmd.word == 2 && !x.done && x.aux[0]? == some c) with
    | some x => markDone i x.cmd.num 3 (statusWord 3 0) s1
    | none => s1
  raise (msgP i) 17 s2

/-! ### Senders -/

/-- Where a sender of this device stands: phase, target rod, channel, payload length. -/
def sendInfo (src : Sender) (s : State) : Option (Nat × Nat × Nat × Nat) :=
  match src with
  | .rod i n =>
    match startedBy i n s with
    | some c =>
      if (cwUnit c.cmd.word = 5 ∧ cwOp c.cmd.word = 1) ∨ (cwUnit c.cmd.word = 1 ∧ cwOp c.cmd.word = 1) then
        (match c.aux with
         | ph :: t :: ch :: len :: 0 :: _ => some (ph, t, ch, len)
         | _ => none)
      else none
    | none => none
  | .hub id => (s.hubItems.find? (fun h => h.id == id)).map (fun h => (h.phase, h.rod, h.ch, h.body.length))

/-- Move a sender to a phase; `wait` says whether its MSEND is then blocked (R554). -/
def sendPhase (src : Sender) (ph : Nat) (wait : Bool) (s : State) : State :=
  match src with
  | .rod i n =>
    let s1 := updStarted i n (fun c => { c with aux := listSet (listSet c.aux 0 ph) 7 s.now }) s
    match startedBy i n s1 with
    | some c =>
      if wait && !c.blocked && cwUnit c.cmd.word == 5 then blockNow i n s1
      else if wait then s1
      else updStarted i n (fun c => { c with blocked := false }) s1
    | none => s1
  | .hub id => { s with hubItems := s.hubItems.map (fun h => if h.id == id then { h with phase := ph, since := s.now } else h) }

/-- A sender named by two numbers: rod i's command `num`, or with i = 1,024 hub item `num`. -/
def senderOf (i num : Nat) : Sender := if i < 1024 then .rod i num else .hub num

/-- Producer number of a sender (R439): a rod, a function (host queue), the hub, or a node. -/
def prodOf (src : Sender) (s : State) : Nat :=
  match src with
  | .rod i _ => i
  | .hub id =>
    match s.hubItems.find? (fun h => h.id == id) with
    | some h => if bitOf h.hdr 26 then 4096 + bitsOf h.hdr 49 32 else (match h.entry with | some k => 1040 + k % 1024 / 8 | none => if bitOf h.hdr 31 then 1024 else bitsOf h.hdr 25 16)
    | none => 1024

/-- Queued reservations at rod t. -/
def resvsAt (t : Nat) (s : State) : List Resv := alGetD s.resvs t []

/-- When a sender entered its phase. -/
def sendSince (src : Sender) (s : State) : Nat :=
  match src with
  | .rod i n => ((startedBy i n s).bind (fun c => c.aux[7]?)).getD 0
  | .hub id => ((s.hubItems.find? (fun h => h.id == id)).map (·.since)).getD 0

/-- An earlier message of the same sender to the same channel has not yet arrived there: packets of one class and pair keep their order (R523). -/
def sendBehind (src : Sender) (t ch : Nat) (s : State) : Bool :=
  let first (x : Sender) : Bool := match sendInfo x s with | some (0, u, c, _) => u == t && c == ch | _ => false
  match src with
  | .rod i n => (((seqOf i s).started.takeWhile (fun c => c.cmd.num != n)).any (fun c => first (.rod i c.cmd.num)))
  | .hub id => ((s.hubItems.takeWhile (fun h => h.id != id)).any (fun h => prodOf (.hub h.id) s == prodOf src s && first (.hub h.id)))

/-- RESERVATION (R523, R549, R550, R564): a sender's reservation arrives at its target channel, behind those it sent there before, and is answered
QUEUED or REFUSED, or the send ends with TARGET_OFF, CHAN_OFF or TOO_BIG. -/
def execReservation (i num : Nat) (s : State) : Res :=
  let src := senderOf i num
  match sendInfo src s with
  | some (0, t, ch, len) =>
    if sendBehind src t ch s then .next s
    else if !rodRuns t s then .next (answerSend src 0x82 s)
    else if getF (msgP t) (MSG_CH_BUF_SIZE ch) s == 0 then .next (answerSend src 0x81 s)
    else if granules len > getF (msgP t) (MSG_CH_BUF_SIZE ch) s then .next (answerSend src 0x80 s)
    else if (resvsAt t s).length ≥ 256 then .next (sendPhase src 2 true (raise (msgP t) 19 s))
    else .next (sendPhase src 1 true { s with resvs := alSet s.resvs t (resvsAt t s ++ [⟨src, ch, granules len⟩]) })
  | _ => .next s

/-- RESERVATION_RETRY (R550): 1 µs after a refusal the sender repeats its reservation. -/
def execReservationRetry (i num : Nat) (s : State) : Res :=
  match sendInfo (senderOf i num) s with
  | some (2, _) => .next (sendPhase (senderOf i num) 0 true (waitTill (sendSince (senderOf i num) s + 1000) s))
  | _ => .next s

/-- 8-byte words of an item, each with its poison mask. -/
def itemWords (bs : List Byte) (bad : List Nat) : List (Nat × Nat) :=
  (List.range (bs.length / 8)).map (fun k =>
    (leNat ((bs.drop (8 * k)).take 8), (List.range 8).foldl (fun a j => if bad.contains (8 * k + j) then a + 2 ^ j else a) 0))

/-- Header, payload and poison of a granted item, read when its words are sent (R549 step 3); and the state after the read. -/
def itemOf (src : Sender) (s : State) : Nat × List Byte × List Nat × State :=
  match src with
  | .hub id =>
    match s.hubItems.find? (fun h => h.id == id) with
    | some h => (2 ^ 63 + 2 ^ 56 + h.hdr + (h.body.length + 8), h.body, h.bad, s)
    | none => (2 ^ 63 + 2 ^ 56 + 9, [0], [], s)
  | .rod i n =>
    match startedBy i n s with
    | none => (itemHeader i 1, [0], [], s)
    | some c =>
      let len := (c.aux[3]?).getD 1
      if cwUnit c.cmd.word = 1 then
        (match strOf i (cwD c.cmd.word % 8) s with
         | some t => (match t.held t.pos (t.pos + len) with
            | some h => (itemHeader i len, h.1, h.2, s)
            | none => (itemHeader i len, List.replicate len 0, [], s))
         | none => (itemHeader i len, List.replicate len 0, [], s))
      else
        let a := spadAddr c.cmd.word c.cmd.sa
        (itemHeader i len, spadRead i a len s, spadBadIn i a len s, spadSeen i a len s)

/-- The item of a granted reservation goes on its way, its words framed (R549, R550). -/
def sendGranted (t ch : Nat) (r : Resv) (s : State) : State :=
  let prod := prodOf r.src s
  let (hdr, body, bad, s1) := itemOf r.src s
  let s2 := match r.src with
    | .rod i n => updStarted i n (fun c => { c with aux := listSet c.aux 8 (b2n (!bad.isEmpty)) }) (bump64 (msgP i + 0x84) 1 s1)
    | .hub _ => s1
  let fl : Flight := ⟨chanKey t ch, prod, r.src, itemWords (itemBytes hdr body) (bad.map (fun o => o + 8))⟩
  { sendPhase r.src 3 false s2 with flights := s2.flights ++ [fl] }

/-- GRANT (R549): rod t grants the oldest reservation queued for channel ch once the free granules cover it, and the sender sends the
item's words. -/
def execGrant (t ch : Nat) (s : State) : Res :=
  match (resvsAt t s).find? (fun r => r.ch == ch) with
  | none => .next s
  | some r =>
    let own := isCchan t ch s
    if !own && decide (chanFree t ch s < r.gran) then .next s
    else
      let s1 := { s with resvs := alSet s.resvs t ((resvsAt t s).erase r) }
      .next (sendGranted t ch r (if own then s1 else setF (msgP t) (MSG_CH_STAT_FREE ch) (chanFree t ch s - r.gran) s1))

/-- A word of a flight whose target rod has left service goes nowhere, and its last word is answered TARGET_OFF (R564, R679). -/
def lostWord (f : Flight) (s : State) : Bool :=
  decide (f.q < 0x8000) && !rodRuns (f.q / 32) s

/-! ### Answers -/

/-- The item of a CHAN stream has been answered (R420, R423, R443). -/
def chanAnswer (i k num code : Nat) (s : State) : State :=
  match strOf i k s, startedBy i num s with
  | some t, some c =>
    let len := (c.aux[3]?).getD 0
    let s1 := updStarted i num (fun c => { c with aux := [], blocked := false }) s
    let took := code = 0 || code = 4 || code = 0x103
    if took then
      let p := t.pos + len
      let t1 := { t with
        hold := t.hold.filter (fun h => decide (p < h.1 + h.2.1.length))
        fin := if code = 0x103 then some 3 else t.fin }
      chanBegin i k (moved i k p (setStr i k t1 s1))
    else setStr i k { t with fin := t.fin.or (some code) } s1
  | _, _ => s

/-- The end of an MSEND (R187, R549 step 5): an accepted item that carries poison is POISONED. -/
def sendDone (i num code : Nat) (s : State) : State :=
  match startedBy i num s with
  | some c =>
    let st := if code = 0 ∧ (c.aux[8]?).getD 0 = 1 then 4 else code % 256
    completeNum i num (markDone i num st (statusWord st 0) s)
  | none => s

/-- Offsets of a recorded outcome's data that are delivered poisoned: all 8 bytes of an ATOMIC answered POISONED (R656). -/
def outcomeBad (status : Nat) (data : List Byte) : List Nat := if status = 5 then List.range data.length else []

/-- A done outcome enters the duplicate table and is sent to the source (R661, R662). -/
def dupDone (src tag status : Nat) (data : List Byte) (s : State) : State :=
  match s.e2e.dups.find? (fun d => d.src == src && d.tag == tag) with
  | none => s
  | some d =>
    if d.mute then { s with e2e := { s.e2e with dups := s.e2e.dups.erase d } }
    else
      let s1 := { s with e2e := { s.e2e with
        dups := s.e2e.dups.map (fun x => if x == d then { x with done := some (status, data), time := s.now } else x) } }
      sendPkt (respPkt src (d.tag + d.epoch * 2 ^ 14 + d.use * 2 ^ 22 + d.op * 2 ^ 30) d.w1 status data (outcomeBad status data) s) s1

/-- Response status of a message answer (R666, Table 12-11). -/
def msgOutcome (code : Nat) : Nat :=
  match code % 256 with
  | 3 => 6 | 0x80 => 7 | 0x81 => 8 | 0x82 => 9 | _ => 0

/-- ITEM_ANSWER (R549, R443): the target's answer comes back and the MSEND, the stream's tile or the hub's delivery is over. -/
def execItemAnswer (i num : Nat) (s : State) : Res :=
  let src := senderOf i num
  match sendInfo src s with
  | some (4, _) =>
    (match src with
     | .rod j n =>
       match startedBy j n s with
       | some c =>
         let code := (c.aux[6]?).getD 0
         if cwUnit c.cmd.word = 1 then .next (chanAnswer j (cwD c.cmd.word % 8) n code s) else .next (sendDone j n code s)
       | none => .next s
     | .hub id =>
       match s.hubItems.find? (fun h => h.id == id) with
       | none => .next s
       | some h =>
         match h.dup, h.entry with
         | some d, _ =>
           .next (dupDone d.1 d.2 (msgOutcome h.answer) [] { s with hubItems := s.hubItems.filter (fun x => x.id != id) })
         | none, some key =>
           let st := if h.answer = 0 ∧ ¬ h.bad.isEmpty then 4 else h.answer % 256
           .next (hqOver key st 0 [] { s with hubItems := s.hubItems.filter (fun x => x.id != id) })
         | none, none => .next { s with hubItems := s.hubItems.filter (fun x => x.id != id) })
  | _ => .next s

/-- The herd that sent an item: its rod's, or the one whose queue entry the hub passed on; a node's item has none here (R576, R893). -/
def senderHerd (src : Sender) (s : State) : Option Nat :=
  match src with
  | .rod i _ => herdOfRod i s
  | .hub id =>
    match s.hubItems.find? (fun h => h.id == id) with
    | some h => (match h.entry with
      | some key => some (keyHerd key)
      | none => if bitOf h.hdr 31 then none else herdOfRod (bitsOf h.hdr 25 16) s)
    | none => none

/-- Byte o of an item on its way is poisoned. -/
def Flight.poison (o : Nat) (f : Flight) : Flight :=
  { f with words := f.words.mapIdx (fun k w => if k = o / 8 ∧ ¬ bitOf w.2 (o % 8) then (w.1, w.2 + 2 ^ (o % 8)) else w) }

/-- The next grid packet of the k-th item on its way is dropped: up to 256 bytes of it (R520). -/
def dropPacket (k : Nat) (s : State) : State :=
  { s with flights := (s.flights.mapIdx (fun j f => if j = k then { f with words := f.words.drop 32 } else f)).filter (fun f => !f.words.isEmpty) }

/-- RESV_TIMEOUT (R576): 1 ms has passed with no answer to a reservation or no acceptance of a sent item: the error is recorded on the
detecting rod's page and the sender's herd goes FAULTED. -/
def execResvTimeout (i num : Nat) (s : State) : Res :=
  match sendInfo (senderOf i num) s with
  | some (ph, t, ch, _) =>
    if ph = 0 ∨ ph = 3 then
      let r := if i < 1024 then i else t
      .next (recordWith (msgP r) 0x1805 2 ch t false false ((senderHerd (senderOf i num) s).toList) (waitTill (sendSince (senderOf i num) s + 1000000) s))
    else .next s
  | none => .next s

/-! ### The message unit's commands -/

/-- MSEND at start (R200, R527, R546, R562, R670). -/
def msendRun (i : Nat) (c : QCmd) (s : State) : State :=
  let len := c.sb.v.toNat % 8192
  let a := spadAddr c.word c.sa
  let bad (st : Nat) : State := finish i c st (statusWord st 0) s
  match destWord c.sc.v.toNat with
  | none => bad 0x0A
  | some d =>
    if len = 0 ∨ len > 4096 ∨ ¬ spadInRange a len then bad 0x0A
    else if d.2.2.1 then
      if !e2eOpen s then bad 8
      else
        let bs := spadRead i a len s
        let pb := spadBadIn i a len s
        let s1 := spadSeen i a len (addStarted i (Started.fresh c (sendAux d len s.now (!pb.isEmpty))) s)
        e2eSubmit 2 2 d.2.2.2 (d.1 + d.2.1 * 2 ^ 16) 0 0 (itemBytes (itemHeader i len) bs) (pb.map (fun o => o + 8)) (.send i c.num)
          (bump64 (msgP i + 0x84) 1 (blockNow i c.num s1))
    else if (herdOfRod i s).isSome && herdOfRod d.1 s == herdOfRod i s then
      addStarted i (Started.fresh c (sendAux d len s.now false)) s
    else bad 8

/-- MRECV at start (R504, R551, R554). -/
def mrecvRun (i : Nat) (c : QCmd) (s : State) : State :=
  let ch := cwMod c.word % 32
  let a := spadAddr c.word c.sa
  let space := c.sb.v.toNat % 8192
  if isCchan i ch s ∨ ¬ spadInRange a space then finish i c 0x0A (statusWord 0x0A 0) s
  else
    let s1 := addStarted i (Started.fresh c [ch, a, space]) s
    if (fqOf (chanKey i ch) s).items.isEmpty then blockNow i c.num s1 else feedRecv i ch s1

/-- What the message unit does at the start of a command. -/
def msgRun (i : Nat) (c : QCmd) (s : State) : State :=
  let ch := cwMod c.word % 32
  match cwOp c.word with
  | 0x01 => msendRun i c s
  | 0x02 => mrecvRun i c s
  | 0x03 =>
    if isCchan i ch s then finish i c 0x0A ⟨0, false⟩ s
    else finish i c 0 ⟨BitVec.ofNat 64 (fqOf (chanKey i ch) s).items.length, false⟩ s
  | _ => if isCchan i ch s then finish i c 0x0A ⟨0, false⟩ s else startDone i c 0 ⟨0, false⟩ (flushChan i ch s)

/-- At most 8 started MSENDs and one started MRECV (R553). -/
def msgFree (i : Nat) (c : QCmd) (s : State) : Bool :=
  let n (op : Nat) : Nat := (startedOf 5 (seqOf i s)).countP (fun x => cwOp x.cmd.word == op)
  match cwOp c.word with
  | 0x01 => decide (n 1 < 8)
  | 0x02 => decide (n 2 < 1)
  | _ => true

/-- Issue to the message unit, which starts its head at once when its waits and slots allow. -/
def msgIssue (i : Nat) (w : CmdWord) (s : State) : State := startHead i 5 (msgFree i) (msgRun i) (issueUnit i w s)

/-- MSEND reserves granules at the target channel and sends a message item (R549). -/
def execMsend (i : Nat) (w : CmdWord) (s : State) : Res := .next (msgIssue i w s)
/-- MRECV takes the oldest complete item of a channel, waiting if there is none (R551). -/
def execMrecv (i : Nat) (w : CmdWord) (s : State) : Res := .next (msgIssue i w s)
/-- MPOLL writes the number of complete items waiting (R551). -/
def execMpoll (i : Nat) (w : CmdWord) (s : State) : Res := .next (msgIssue i w s)
/-- MFLUSH flushes an inbound channel (R219). -/
def execMflush (i : Nat) (w : CmdWord) (s : State) : Res := .next (msgIssue i w s)

/-! ### Channel registers -/

/-- MSG_CH_BUF_WRITE (R552, R565): the channel is flushed and takes its new ring; a ring beyond 2 MiB is ignored with CFG_BAD, a SIZE above
32,768 is stored as that. -/
def execMsgChBufWrite (fn i k v : Nat) (s : State) : Res :=
  .next (barWrite fn (msgP i + 0x100 + 16 * k) (fun s =>
    let a := msgP i + 0x100 + 16 * k
    let size := min 32768 (bitsOf v 31 16)
    let base := v % 2 ^ 15
    if flag (msgP i) PG_LOCK_LOCKED s then writeReg a v s
    else if (base + size) * 64 > spadSize then raise (msgP i) 18 s
    else
      let s1 := flushChan i k s
      let out := getF (msgP i) (MSG_CH_BUF_SIZE k) s1 - chanFree i k s1
      let s2 := writeReg a (size * 65536 + base) s1
      recheckHeld (setFq (chanKey i k) { fqOf (chanKey i k) s2 with tail := 0 } (setF (msgP i) (MSG_CH_STAT_FREE k) (size - out) s2))) s)

/-- MSG_CH_FLUSH: a write of 1 flushes the channel as MFLUSH does (R219). -/
def execMsgChFlush (fn i k v : Nat) (s : State) : Res :=
  .next (barWrite fn (msgP i + 0x10C + 16 * k) (fun s => if bitOf v 0 then flushChan i k s else s) s)

/-! ### Wait cycles -/

/-- Where a blocked wait's edge points (R555): a rod of this device, a rod of a node, or no rod. -/
inductive Edge where
  | rod (j : Nat)
  | far (node j : Nat)
  | none
  deriving DecidableEq, Repr

/-- The edge of a blocked wait; a KRING's is to its ring predecessor, which it keeps in its numbers (rod, REMOTE, node); across devices
the local address of its area stands for the rod (R713). -/
def edgeOf (i : Nat) (c : Started) (s : State) : Edge :=
  let g (k : Nat) : Nat := (c.aux[k]?).getD 0
  match cwUnit c.cmd.word, cwOp c.cmd.word with
  | 5, 1 => if g 4 = 1 then .far (g 5) (g 1) else .rod (g 1)
  | 5, 2 =>
    let k := g 0
    match getF (msgP i) (MSG_CH_BIND_KIND k) s with
    | 1 => .rod (getF (msgP i) (MSG_CH_BIND_ROD k) s)
    | 2 => .far (getF (msgP i) (MSG_CH_BIND_NODE k) s) (getF (msgP i) (MSG_CH_BIND_ROD k) s)
    | _ => .none
  | 6, _ => if g 5 = 1 then .far (g 6) (2048 + g 4) else .rod (g 4)
  | _, _ => .none

/-- Send a probe from rod i along an edge: to a rod of its herd, as no packet reaches another herd's rod (R526, R556), or over VC 4 to another
device (R558, R667). -/
def sendProbe (i : Nat) (p : Probe) (e : Edge) (s : State) : State :=
  match e with
  | .rod j => if (herdOfRod i s).isSome && herdOfRod j s == herdOfRod i s then { s with probes := s.probes ++ [{ p with dest := j }] } else s
  | .far n j => sendPkt (Pkt.own n 4 (({ p with dest := j } : Probe).words.flatMap (leBytes 8)) s) s
  | .none => s

/-- Package time as fabric time, for keys that cross devices (R654, R668). -/
def fabricTime (s : State) : Nat := s.now + s.rtr.offset

/-- Time from a wait's probe to its next (R558, R667). -/
def probeEvery (e : Edge) : Nat := match e with | .far _ _ => 250000 | _ => 50000

/-- PROBE_TIMER (R558, R567, R667): a wait that has been blocked for HOLD µs sends its probe, and another 50 µs after each, or 250 µs to another device. -/
def execProbeTimer (i num : Nat) (s : State) : Res :=
  match startedBy i num s, dlHerd i s with
  | some c, some n =>
    let e := edgeOf i c s
    if c.blocked ∧ e ≠ .none then
      let s1 := waitTill (max (c.since + getF (herdP n) HERD_MODE_HOLD s * 1000) c.probeAt) s
      .next (sendProbe i ⟨false, nodeId s, i, cwUnit c.cmd.word, num, c.since, c.fab, c.block, 0, 0, []⟩ e
        (bump (msgP i) MSG_PROBES_INIT 1 (updStarted i num (fun c => { c with probeAt := s1.now + probeEvery e }) s1)))
    else .next s
  | _, _ => .next s

/-- The probe has crossed a device boundary (R668). -/
def Probe.crossed (p : Probe) (s : State) : Bool := p.node != nodeId s || p.path.any (fun x => x.1 != nodeId s)

/-- The initiator of a probe is younger than the wait v of rod i of this device: by package time, or once it has crossed to another device by the
cross-device key (R557, R668). -/
def youngerThan (p : Probe) (i : Nat) (v : Started) (s : State) : Bool :=
  let u := if p.crossed s then (v.fab, p.fab) else (v.since, p.start)
  decide (u.1 < u.2) ||
    (u.1 == u.2 &&
      (if p.node ≠ nodeId s then decide (p.node < nodeId s)
       else decide (p.rod < i) || (p.rod == i && decide (p.unit < cwUnit v.cmd.word))))

/-- Send a confirmation from rod i to the next wait of its path, or back to its initiator (R559). -/
def confirmOn (i : Nat) (p : Probe) (s : State) : State :=
  let x := (p.path[p.passed]?).getD (p.node, p.rod, 0, 0)
  sendProbe i p (if x.1 = nodeId s then .rod x.2.1 else .far x.1 x.2.1) s

/-- The rod a probe is for: named, or the home of a local address (R667, R713). -/
def probeRod (p : Probe) (s : State) : Nat :=
  if p.dest < 2048 then p.dest
  else let a := p.dest - 2048; (hbaAt (a / 2 ^ 39 % 128) (a % 2 ^ 39) s).1

/-- A probe goes on along the waits of rod i that are older than its initiator. -/
def forwardProbe (p : Probe) (i : Nat) (s : State) : State :=
  ((seqOf i s).started.filter (fun v => v.blocked && youngerThan p i v s)).foldl (fun t v =>
    let e := edgeOf i v t
    if e = .none then t
    else sendProbe i { p with path := p.path ++ [(nodeId t, i, v.cmd.num, v.block)] } e (bump (msgP i) MSG_PROBES_FWD 1 t)) s

/-- PROBE (R558, R559, R567, R571, R573): the k-th probe on its way arrives at its rod: it starts a confirmation at its initiator, and is forwarded along
the rod's waits that are older than its initiator, or dropped. -/
def execProbe (k : Nat) (s : State) : Res :=
  match s.probes[k]? with
  | none => .next s
  | some p =>
    if p.conf then .next s
    else
      let s1 := { s with probes := s.probes.eraseIdx k }
      let i := probeRod p s1
      if !probeTakes i s1 then .next s1
      else
        let home : Bool := decide (p.node = nodeId s1) && p.rod == i &&
          (match startedBy i p.num s1 with
           | some c => c.blocked && c.block == p.block && c.since == p.start
           | none => false)
        let s2 := if home then confirmOn i { p with conf := true, passed := 0 } s1 else s1
        .next (if p.path.length ≥ 1024 then s2 else forwardProbe p i s2)

/-- CONFIRMATION (R559, R570, R573): the k-th confirmation on its way arrives at the next rod of its path, which passes it on only while the
wait that forwarded the probe holds its block ID; back at the initiator it breaks the wait, unless its herd no longer detects cycles or is
STOPPING (R561). -/
def execConfirmation (k : Nat) (s : State) : Res :=
  match s.probes[k]? with
  | none => .next s
  | some p =>
    if !p.conf then .next s
    else
      let s1 := { s with probes := s.probes.eraseIdx k }
      match p.path[p.passed]? with
      | some x =>
        (match startedBy x.2.1 x.2.2.1 s1 with
         | some c =>
           if c.blocked ∧ c.block = x.2.2.2 ∧ x.2.1 = p.dest ∧ probeTakes x.2.1 s1 then
             .next (confirmOn x.2.1 { p with passed := p.passed + 1 } s1)
           else .next s1
         | none => .next s1)
      | none =>
        match startedBy p.rod p.num s1 with
        | some c =>
          if c.blocked ∧ c.block = p.block ∧ c.since = p.start ∧ p.rod = p.dest ∧ probeTakes p.rod s1 then
            .next (breakWait p.rod p.num (p.path.length + 1) s1)
          else .next s1
        | none => .next s1

end Sys2Proof.Machine
end

