-- ==== Sys2Proof/Machine/Xlat.lean ====
section
/-! DEFINITION. Family: translation (chapter 9): walks, the pager, invalidation, and auto-tier. -/
namespace Sys2Proof.Machine

/-! ### Walks and faults -/

/-- What a walk that ended in a fault or met a migration gives for another access to the same 64 KiB page (R475): a leaf it read is used anew. -/
def sameWalk (n va : Nat) (write : Bool) (r : TRes) (s : State) : TRes :=
  match r with
  | .fault c l _ e =>
    if c ≠ 7 ∧ entV e ∧ entLeaf e then useLeaf n l e va write s else .fault c l (va / 4096 % 16) e
  | r => r

/-- A request whose page has been walked: a cached leaf answers, else the page's walk does, which the requests to it share. `t` holds what the walk
gave, if one was made. -/
def walkReq (i : Nat) (hs : List (Option Nat)) (t : Option TRes × State) (r : PReq) : Option TRes × State :=
  let n := herdNo i t.2
  match tlbLook i n r.va r.write t.2, t.1 with
  | (some res, u), _ => (t.1, resolveReq r n res u)
  | (none, u), some w => (t.1, resolveReq r n (sameWalk n r.va r.write w u) u)
  | (none, u), none => let w := rodWalk i n r.va r.write hs u; (some w.1, resolveReq r n w.1 w.2)

/-- XLAT_WALK_DONE (R472, R475, R481-R484): the walk for the 64 KiB page of `va` on rod i ends; `hs` are the host-resident entries it read, in
order (none: the read failed). Every request that waits for it is resolved. -/
def execXlatWalkDone (i va : Nat) (hs : List (Option Nat)) (s : State) : Res :=
  .next ((s.reqs.filter (fun r => r.rod == i && r.phase == 0 && r.va / 2 ^ 16 == va / 2 ^ 16)).foldl (walkReq i hs) (none, s)).2

/-- Records in the fault queue that the host has not taken. -/
def fqUsed (i : Nat) (s : State) : Nat :=
  (getF (xlatP i) XLAT_FQ_IDX_PROD s + 65536 - getF (xlatP i) XLAT_FQ_IDX_CONS s) % 65536

/-- The record of fault f goes to the host's queue and the producer index moves on. -/
def putFault (i : Nat) (f : XFault) (s : State) : State :=
  let n := herdNo i s
  let x := xlOf i s
  let prod := getF (xlatP i) XLAT_FQ_IDX_PROD s
  let base := getF (xlatP i) XLAT_FQ_BASE_LO_BASE s * 4096 + getF (xlatP i) XLAT_FQ_BASE_HI_BASE s * 2 ^ 32
  let s1 := setXl i { x with faults := x.faults.map (fun g => if g.fid = f.fid then { g with sent := true } else g) } s
  let s2 := emit (.hostWrite n (base + 32 * (prod % 2 ^ getF (xlatP i) XLAT_FQ_SIZE_LOG2 s)) (f.record i n) [] .plain) s1
  raise (xlatP (anchor n s)) 17 (setHerdF n XLAT_FQ_IDX_PROD (prod + 1) s2)

/-- FAULT_RECORD_WRITE (R486): the oldest waiting record of rod i goes to the host ring if it has room, then PROD advances and the anchor raises
FQ; `ok` tells whether the write succeeded (FQ_WRITE_FAIL). -/
def execFaultRecordWrite (i : Nat) (ok : Bool) (s : State) : Res :=
  let n := herdNo i s
  match (xlOf i s).faults.find? (fun f => !f.sent) with
  | none => .next s
  | some f =>
    if flag (xlatP i) XLAT_PAGER_MODE s ∨ fqUsed i s = 2 ^ getF (xlatP i) XLAT_FQ_SIZE_LOG2 s ∨ ¬ mayIssue n s
      ∨ lifeAt (statOf (herdP n)) s = 4 then .next s
    else if !ok then .next (recordCE (xlatP i) 0x1706 (f.level * 1024 + f.cause) f.va s)
    else .next (putFault i f s)

/-- Answer an open fault of rod i, or raise PCOMP_BAD (R487, R508). -/
def answerFault (i fid res : Nat) (s : State) : State :=
  match (xlOf i s).faults.find? (fun f => f.fid == fid) with
  | some f => if res ≥ 2 then raise (xlatP i) 19 s else closeFault i f (res == 1) s
  | none => raise (xlatP i) 19 s

/-- XLAT_PCOMP (R487, R489, R508): the host answers a fault with RETRY or FAIL. -/
def execXlatPcomp (fn i v : Nat) (s : State) : Res :=
  .next (barWrite fn (xlatP i + 0xA4) (fun s => answerFault i (v % 65536) (bitsOf v 17 16) s) s)

/-- PAGER_TIMEOUT (R490): a fault of rod i that has stayed open for TIMEOUT ms closes as FAIL. -/
def execPagerTimeout (i fid : Nat) (s : State) : Res :=
  match (xlOf i s).faults.find? (fun f => f.fid == fid) with
  | some f =>
    if getF (xlatP i) XLAT_PAGER_TIMEOUT s = 0 then .next s
    else .next (closeFault i f true (recordCE (xlatP i) 0x1704 (f.level * 1024 + f.cause) f.va
      (waitTill (f.time + getF (xlatP i) XLAT_PAGER_TIMEOUT s * 1000000) s)))
  | none => .next s

/-! ### Invalidation -/

/-- The VA range of an invalidation: first byte and one past the last, not past 2^48 (R501). -/
def Inval.range (v : Inval) : Nat × Nat := if v.all then (0, 2 ^ 48) else (v.va, min (2 ^ 48) (v.va + v.count * 2 ^ 16))

/-- VA range of a cached entry. -/
def TlbE.range (e : TlbE) : Nat × Nat :=
  let k := match e.level with | 1 => 2 ^ 38 | 2 => 2 ^ 27 | _ => 2 ^ 16
  (e.idx * k, e.idx * k + k)

/-- Two ranges overlap. -/
def meets (a b : Nat × Nat) : Bool := decide (a.1 < b.2) && decide (b.1 < a.2)

/-- Drop every cached entry of herd n that overlaps a range, in its rods and the hub TLB (R480). -/
def dropRange (n : Nat) (r : Nat × Nat) (s : State) : State :=
  let keep (e : TlbE) : Bool := !meets e.range r
  let s1 := (herdRods n s).foldl (fun t i =>
    let x := xlOf i t
    setXl i { x with leaf3 := x.leaf3.filter keep, leaf2 := x.leaf2.filter keep, ptrs := x.ptrs.filter keep } t) s
  { s1 with hubTlb := s1.hubTlb.filter (fun e => e.1 != n || keep e.2) }

/-- A request of herd n whose translation has been used and whose response has not come (R480). -/
def inFlight (n : Nat) (r : PReq) (s : State) : Bool := (r.phase == 1 || r.phase == 2 || r.phase == 4) && herdOfRod r.rod s == some n

/-- The OP 3 item that answers an INVALIDATE item with header `hdr`, on channel `ch` of its sender: a rod here or of another device. The hub has no
channel and gets none (R488, log 157). -/
def replyInv (rod hdr ch tag : Nat) (s : State) : State :=
  let body := leBytes 8 (3 + tag * 256) ++ leBytes 8 0
  let dest := bitsOf hdr 25 16
  if bitOf hdr 26 then
    if e2eOpen s then e2eSubmit 2 2 (bitsOf hdr 49 32) (dest + ch * 2 ^ 16) 0 0 (itemBytes (itemHeader rod 16) body) [] (.gone rod) s else s
  else if bitOf hdr 31 then s
  else sendItem dest ch body s

/-- An invalidation is done: its TAG is recorded, BUSY clears, INV_DONE is raised, an INVALIDATE item is answered with OP 3 (R479,
R488); then the next one that waits begins. -/
def endInv (n : Nat) (v : Inval) (s : State) : State :=
  let h := hxOf n s
  let s1 := setHerdF n XLAT_INV_STAT_TAG v.tag (setHx n { h with inv := h.waiting[0]?, waiting := h.waiting.drop 1 } s)
  let s2 := setHerdF n XLAT_INV_STAT_BUSY (b2n h.waiting[0]?.isSome) s1
  let s3 := raise (xlatP v.rod) 18 s2
  match v.reply with
  | some (hdr, ch) => replyInv v.rod hdr ch v.tag s3
  | none => s3

/-- An invalidation of nothing is done as it begins (R501). -/
def Inval.empty (v : Inval) : Bool := !v.all && v.count == 0

/-- An invalidation is done, and those that waited behind it and cover nothing with it (R501). -/
def finishInv (n : Nat) (v : Inval) (s : State) : State :=
  (List.range (hxOf n s).waiting.length).foldl (fun t _ =>
    match (hxOf n t).inv with
    | some w => if w.empty then endInv n w t else t
    | none => t) (endInv n v s)

/-- Begin an invalidation, or keep it waiting behind the one in progress; COUNT 0 without ALL is done at once (R501, R509). -/
def beginInv (n : Nat) (v : Inval) (s : State) : State :=
  let h := hxOf n s
  if h.inv.isSome then setHx n { h with waiting := h.waiting ++ [v] } s
  else
    let s1 := setHerdF n XLAT_INV_STAT_BUSY 1 (setHx n { h with inv := some v } s)
    if v.empty then finishInv n v s1 else s1

/-- XLAT_INV: a write starts an invalidation (R479), or is ignored with STATE_REJECT while one runs (R509). -/
def execXlatInv (fn i v : Nat) (s : State) : Res :=
  .next (barWrite fn (xlatP i + 0xB4) (fun s =>
    let n := herdNo i s
    if flag (xlatP i) XLAT_INV_STAT_BUSY s then raise (xlatP i) 3 s
    else
      let va := getF (xlatP i) XLAT_INV_VA_LO_VA s * 2 ^ 16 + getF (xlatP i) XLAT_INV_VA_HI_VA s * 2 ^ 32
      beginInv n ⟨i, bitOf v 31, va, v % 65536, bitsOf v 23 16, none⟩ s) s)

/-- INV_DONE (R480): the invalidation of herd n finishes once no page request through an entry of its range is outstanding; no cache
holds such an entry then. -/
def execInvDone (n : Nat) (s : State) : Res :=
  match (hxOf n s).inv with
  | none => .next s
  | some v =>
    let busy := s.reqs.any (fun r => inFlight n r s && meets (r.va, r.va + r.len) v.range)
    if busy then .next s else .next (finishInv n v (dropRange n v.range s))

/-! ### Pager items -/

/-- The oldest item on the XLAT unit's channel of rod i, in rod mode. -/
def pagerItem (i : Nat) (s : State) : Option FItem :=
  if flag (xlatP i) XLAT_PAGER_MODE s then (fqOf (chanKey i (getF (xlatP i) XLAT_PAGER_CCHAN s)) s).items[0]? else none

/-- Take that item away. -/
def dropPagerItem (i : Nat) (s : State) : State :=
  let q := chanKey i (getF (xlatP i) XLAT_PAGER_CCHAN s)
  setFq q { fqOf q s with items := (fqOf q s).items.drop 1 } s

/-- Words of an item of 16 bytes that holds no poison (Table 18-6). -/
def FItem.pair (it : FItem) : Option (Nat × Nat) :=
  if it.body.length = 16 ∧ it.bad = [] then some (leNat (it.body.take 8), leNat (it.body.drop 8)) else none

/-- A COMPLETE and an INVALIDATE item with every other bit zero (Table 9-6). -/
def isComplete (p : Nat × Nat) : Bool := p.1 % 256 == 1 && p.1 / 2 ^ 34 == 0 && p.2 == 0
def isInvalidate (p : Nat × Nat) : Bool :=
  p.1 % 256 == 2 && bitsOf p.1 33 32 == 0 && p.1 / 2 ^ 40 == 0 && p.2 % 2 ^ 16 == 0 && p.2 / 2 ^ 48 == 0

/-- Any other item is ignored with PCOMP_BAD. -/
def badPagerItem (i : Nat) (s : State) : State := raise (xlatP i) 19 (dropPagerItem i s)

/-- PAGER_COMPLETE (R488, R489): the XLAT unit of rod i takes the item at its channel's head; a COMPLETE answers its fault, an item that is
neither COMPLETE nor INVALIDATE is ignored with PCOMP_BAD. -/
def execPagerComplete (i : Nat) (s : State) : Res :=
  match pagerItem i s with
  | none => .next s
  | some it =>
    match it.pair with
    | some p =>
      if isComplete p then .next (answerFault i (bitsOf p.1 31 16) (bitsOf p.1 33 32) (dropPagerItem i s))
      else if isInvalidate p then .next s else .next (badPagerItem i s)
    | none => .next (badPagerItem i s)

/-- PAGER_INVALIDATE (R479, R488, R509): an INVALIDATE at the channel's head starts an invalidation and its sender is answered when it is
done; an item that is neither kind is ignored with PCOMP_BAD. -/
def execPagerInvalidate (i : Nat) (s : State) : Res :=
  match pagerItem i s with
  | none => .next s
  | some it =>
    match it.pair with
    | some p =>
      if isInvalidate p then
        .next (beginInv (herdNo i s) ⟨i, bitOf p.1 34, bitsOf p.2 47 16 * 2 ^ 16, bitsOf p.1 31 16, bitsOf p.1 15 8,
          some (it.hdr, bitsOf p.1 39 35)⟩ (dropPagerItem i s))
      else if isComplete p then .next s else .next (badPagerItem i s)
    | none => .next (badPagerItem i s)

/-! ### Herd-wide writes -/

/-- The written fields of a herd-wide register, `o` its row of the table, copied from rod i's page to those of herd n's rods, locked or not
(R478, log 144). -/
def spreadHw (i off n : Nat) (o : Option RSpec) (s1 : State) : State :=
  match o with
  | none => s1
  | some r =>
    let fs := r.fields.filter (fun f => f.acc = .rw ∨ f.acc = .rwl)
    (herdRods n s1).foldl (fun t j => fs.foldl (fun u f =>
      setF (xlatP j) ⟨off, f.hi, f.lo⟩ (getF (xlatP i) ⟨off, f.hi, f.lo⟩ s1) u) t) s1

/-- A write to a herd-wide register of rod i's page: applied there, and its written fields copied to every XLAT page of the herd
(R478, R507). Each page keeps its own shadows (log 143). -/
def writeHw (i off v : Nat) (s : State) : State :=
  spreadHw i off (herdNo i s) (regSpec (xlatP i + off)) (writeReg (xlatP i + off) v s)

/-- XLAT_PAGER_WRITE (R503): the herd's pager, denied for a rod outside the herd and, in rod mode, for equal channels. -/
def execXlatPagerWrite (fn i v : Nat) (s : State) : Res :=
  .next (barWrite fn (xlatP i + 0x90) (fun s =>
    let rod := bitsOf v 13 4
    if flag (xlatP i) PG_LOCK_LOCKED s then writeReg (xlatP i + 0x90) v s
    else if herdOfRod rod s ≠ herdOfRod i s ∨ (bitOf v 0 ∧ bitsOf v 23 19 = bitsOf v 18 14) then raise (xlatP i) 2 s
    else writeHw i 0x90 v s) s)

/-! ### Auto-tier -/

/-- Entry x of herd n's tier map, and the state after the read. -/
def tierEnt (n x : Nat) (s : State) : Nat × State :=
  let r := hbaRead n (tierEntAt n x s) 8 s
  (leNat r.2.1, r.2.2.2)

/-- Store entry x of the tier map. -/
def setTierEnt (n x v : Nat) (s : State) : State := (hbaWrite n (tierEntAt n x s) (leBytes 8 v) [] s).2

/-- The indices whose entries satisfy a test; each entry is read in turn. -/
def tierFilter (n : Nat) (p : Nat → Bool) : List Nat → State → List Nat × State
  | [], s => ([], s)
  | x :: t, s =>
    let e := tierEnt n x s
    let r := tierFilter n p t e.2
    (if p e.1 then x :: r.1 else r.1, r.2)

/-- The first of the indices whose entry satisfies a test; entries are read up to it. -/
def tierFirst (n : Nat) (p : Nat → Bool) : List Nat → State → Option Nat × State
  | [], s => (none, s)
  | x :: t, s =>
    let e := tierEnt n x s
    if p e.1 then (some x, e.2) else tierFirst n p t e.2

/-- The frames of the bead tier region and of the host spill region, by their numbers in the tier map; an entry of a free frame. -/
def beadFrames (n : Nat) (s : State) : List Nat := List.range (tbCount n s)
def hostFrames (n : Nat) (s : State) : List Nat := (List.range (hsCount n s)).map (· + tbCount n s)
def frameFree (e : Nat) : Bool := !bitOf e 0

/-- The free frames are counted again (R499). -/
def tierRescan (n : Nat) (s : State) : State :=
  let b := tierFilter n frameFree (beadFrames n s) s
  let h := tierFilter n frameFree (hostFrames n s) b.2
  setHerdF n XLAT_FREE_B_FREE b.1.length (setHerdF n XLAT_FREE_H_FREE h.1.length h.2)

/-- What the tier engine's walk finds: the level-3 leaf, where it lies and its value; none; or not yet, as an entry has not come from the host. -/
inductive LRes where
  | leaf (at_ : Nat) (host : Bool) (e : Nat)
  | none
  | later
  deriving DecidableEq, Repr

/-- Find the leaf that maps va by reading the tables. -/
def leafGo (n va : Nat) : Nat → Nat → Bool → Nat → List (Option Nat) → State → LRes × List (Option Nat) × State
  | 0, _, _, _, hs, s => (.none, hs, s)
  | f + 1, l, host, node, hs, s =>
    let idx := match l with | 1 => va / 2 ^ 38 % 1024 | 2 => va / 2 ^ 27 % 2048 | _ => va / 2 ^ 16 % 2048
    if host && mayIssue n s && hs.isEmpty then (.later, hs, s)
    else match readEntry n host (node + 8 * idx) hs s with
    | (none, hs1, s1) => (.none, hs1, s1)
    | (some e, hs1, s1) =>
      if !entV e || badForm l e then (.none, hs1, s1)
      else if entLeaf e then (if l = 3 then .leaf (node + 8 * idx) host e else .none, hs1, s1)
      else leafGo n va f (l + 1) (entTgt e == 1) (bitsOf e 63 14 * 2 ^ 14) hs1 s1

/-- The leaf of va under herd n's root. A good one without MIG enters the hub TLB, as of any hub walk (R463, R476). -/
def findLeaf (n va : Nat) (hs : List (Option Nat)) (s : State) : LRes × List (Option Nat) × State :=
  let lo := herdF n ⟨0x084, 31, 0⟩ s
  if !bitOf lo 0 then (.none, hs, s)
  else
    let r := leafGo n va 3 1 (bitOf lo 1) (lo / 2 ^ 14 * 2 ^ 14 + herdF n XLAT_ROOT_HI_ADDR s * 2 ^ 32) hs s
    match r.1 with
    | .leaf _ _ e => (r.1, r.2.1, if entMig e then r.2.2 else hubPut n ⟨3, levelIdx 3 va, e⟩ r.2.2)
    | _ => r

/-- Write a leaf back to the tables; one in host memory only while the function may issue requests (R1021). -/
def putLeaf (n a : Nat) (host : Bool) (e : Nat) (s : State) : State :=
  if host then (if mayIssue n s then emit (.hostWrite n a (leBytes 8 e) [] (hostTag (anchor n s) false false s)) s else s) else (hbaWrite n a (leBytes 8 e) [] s).2

/-- Show IDLE: no migration is in progress (R499). -/
def showIdle (n : Nat) (s : State) : State := setHerdF n XLAT_TIER_CTL_IDLE (b2n (hxOf n s).mig.isNone) s

/-- A leaf may move (R496): AT 1, PIN 0, MIG 0, 64 KiB, target inside the regions, no piece absent. -/
def mayMove (n e : Nat) (s : State) : Bool :=
  entAt e && !entPin e && !entMig e && (tierFrame n e s).isSome && (entTgt e == 1 || bitsOf e 63 48 == 0)

/-- Step 1 of Table 9-7 for frame x, into the free frame g: the leaf of x's VA is read and, when it still maps x and may move, written with MIG 1.
Answers whether the migration has begun (none: an entry that the host has not yet given must be read first), with the host entries left; a leaf
that maps x no longer is a conflict (R511). -/
def migTry (n : Nat) (up : Bool) (x g : Nat) (hs : List (Option Nat)) (s : State) : Option Bool × List (Option Nat) × State :=
  let en := tierEnt n x s
  let va := bitsOf en.1 47 16 * 2 ^ 16
  if frameFree en.1 then (some false, hs, en.2)
  else
    let lf := findLeaf n va hs en.2
    match lf.1 with
    | .later => (none, lf.2.1, lf.2.2)
    | .leaf a host leaf =>
      if tierFrame n leaf lf.2.2 ≠ some x then (some false, lf.2.1, recordCE (xlatP (anchor n lf.2.2)) 0x1708 0 va lf.2.2)
      else if !mayMove n leaf lf.2.2 then (some false, lf.2.1, lf.2.2)
      else
        let m : Mig := ⟨a, host, leaf, va / 2 ^ 16, up, x, g, 1⟩
        let h := hxOf n lf.2.2
        (some true, lf.2.1, showIdle n (setHx n { h with mig := some m, left := h.left - 1 } (putLeaf n a host (leaf + 2 ^ 8) lf.2.2)))
    | .none => (some false, lf.2.1, recordCE (xlatP (anchor n lf.2.2)) 0x1708 0 va lf.2.2)

/-- Promotion stops for this window (R496). -/
def migStop (n : Nat) (s : State) : State := showIdle n (setHx n { hxOf n s with plan := [], cold := [], left := 0 } s)

/-- Begin the next migration of the window (R496 step 2): the hottest frame left goes to a free bead frame; when none is free, the coldest frame that
may move is demoted first. A frame whose leaf cannot be read for want of the host's entries stays in the plan (log 156). -/
def migNext (n : Nat) : Nat → List (Option Nat) → State → State
  | 0, _, s => s
  | f + 1, hs, s =>
    let h := hxOf n s
    match h.plan with
    | [] => migStop n s
    | x :: rest =>
      if h.left = 0 then migStop n s
      else
        let fb := tierFirst n frameFree (beadFrames n s) s
        match fb.1 with
        | some g =>
          let r := migTry n true x g hs fb.2
          match r.1 with
          | none => r.2.2
          | some true => setHx n { hxOf n r.2.2 with plan := rest } r.2.2
          | some false => migNext n f r.2.1 (setHx n { hxOf n r.2.2 with plan := rest } r.2.2)
        | none =>
          match h.cold with
          | [] => migStop n fb.2
          | c :: cs =>
            let fh := tierFirst n frameFree (hostFrames n fb.2) fb.2
            match fh.1 with
            | none => migStop n fh.2
            | some g =>
              if h.left < 2 then migStop n fh.2
              else
                let r := migTry n false c g hs fh.2
                match r.1 with
                | none => r.2.2
                | some true => setHx n { hxOf n r.2.2 with cold := cs } r.2.2
                | some false => migNext n f r.2.1 (setHx n { hxOf n r.2.2 with cold := cs } r.2.2)

/-- Tries that a window's plan can make. -/
def migFuel (n : Nat) (s : State) : Nat := (hxOf n s).plan.length + (hxOf n s).cold.length + 1

/-- Every 64 KiB page of host frames that are hot enough, hottest first. -/
def hotFrames (thr : Nat) : Nat → List (Nat × Nat) → List Nat
  | 0, _ => []
  | f + 1, l =>
    match l with
    | [] => []
    | x :: t =>
      let top := t.foldl (fun m e => if e.2 > m.2 then e else m) x
      if top.2 < thr then [] else top.1 :: hotFrames thr f (alErase l top.1)

/-- Bead frames from the highest AGE down, those of at least `thr`. -/
def coldFrames (thr : Nat) : Nat → List (Nat × Nat) → List Nat
  | 0, _ => []
  | f + 1, l =>
    match l with
    | [] => []
    | x :: t =>
      let top := t.foldl (fun m e => if e.2 > m.2 then e else m) x
      if top.2 < thr then [] else top.1 :: coldFrames thr f (alErase l top.1)

/-- Step 1 of R496 for bead frame x: a used frame ages, ACC is cleared. `t` gathers the ages of the used frames. -/
def ageFrame (n : Nat) (t : List (Nat × Nat) × State) (x : Nat) : List (Nat × Nat) × State :=
  let e := tierEnt n x t.2
  if frameFree e.1 then (t.1, (hbaWrite n (tierAccAt n x e.2) [0] [] e.2).2)
  else
    let r := hbaRead n (tierAccAt n x e.2) 1 e.2
    let age := if leNat r.2.1 = 1 then 0 else min 63 (bitsOf e.1 7 2 + 1)
    let u := setTierEnt n x (setBits e.1 7 2 age) r.2.2.2
    (t.1 ++ [(x, age)], (hbaWrite n (tierAccAt n x u) [0] [] u).2)

/-- The bead frames age, and the herd's rods begin to note their uses anew (R495, R496): ages of the used frames, and the state. -/
def tierAge (n : Nat) (s : State) : List (Nat × Nat) × State :=
  let r := (beadFrames n s).foldl (ageFrame n) ([], s)
  (r.1, (herdRods n r.2).foldl (fun t i => setXl i { xlOf i t with acc := [] } t) r.2)

/-- A rod of herd n holds requests to its beads, or tracks 64 (R135, R362, R398): what the tier engine does next waits. -/
def tierHeld (n : Nat) (s : State) : Bool :=
  (herdRods n s).any (fun i => chanHeld i 0 s || chanHeld i 1 s || decide ((waiting i s).length ≥ 64))

/-- TIER_WINDOW_END (R496): WIN_MS after the window began the used bead frames age, ACC is cleared, the promotions of the window are planned, the hot
table is cleared and, unless one is still in progress, the first migration begins; `hs` are host-resident table entries that it reads. It waits while
a bead of the herd holds its requests (R135, R362). -/
def execTierWindowEnd (n : Nat) (hs : List (Option Nat)) (s : State) : Res :=
  if !tierRuns n s || tierHeld n s then .next s
  else
    let a := tierAge n (waitTill ((hxOf n s).winAt + herdF n XLAT_TIER_PAR_WIN_MS s * 1000000) s)
    let h := hxOf n a.2
    let table := hotTrim (hotShare a.2) h.hot
    let hot := (hotFrames (herdF n XLAT_TIER_PAR_HOT_N a.2) table.length table).map (fun x => tbCount n a.2 + x)
    let cold := coldFrames (herdF n XLAT_TIER_CTL_COLD_W a.2) a.1.length a.1
    let s1 := setHx n { h with
      hot := [], plan := hot, cold := cold, left := herdF n XLAT_TIER_CTL_MIG_MAX a.2, winAt := a.2.now } a.2
    .next (if h.mig.isSome then s1 else migNext n (migFuel n s1) hs s1)

/-- End a migration, with MIG cleared in the leaf as it stood or as given, and resume the requests that halted on its page. -/
def endMig (n : Nat) (m : Mig) (s : State) : State :=
  let s1 := showIdle n (setHx n { hxOf n s with mig := none } s)
  (herdRods n s1).foldl (fun t i => slots.foldl (fun u k => resumeStream i k m.page u) t) s1

/-- The next migration, while auto-tier still runs (R499, R500). -/
def migOn (n : Nat) (hs : List (Option Nat)) (s : State) : State :=
  if tierRuns n s then migNext n (migFuel n s) hs s else migStop n s

/-- Frame number in HBA space, and host address, of frame x of the tier map. -/
def frameHba (n x : Nat) (s : State) : Nat := (tbBase n s + x) * 2 ^ 16
def frameHost (n x : Nat) (s : State) : Nat := hsBase n s + (x - tbCount n s) * 2 ^ 16

/-- The frame of a migration is copied, poison included (R497 step 3): `data` is the frame as read from the host. -/
def migCopy (n : Nat) (m : Mig) (data : HostBytes) (s : State) : State :=
  let bad := data.bad.filter (fun o => decide (o < 65536))
  if m.promote then (hbaWriteAll n (frameHba n m.newF s) (data.bytes.take 65536) bad (poisonRx bad s)).2
  else
    let r := hbaReadAll n (frameHba n m.oldF s) 65536 s
    let ep := (List.range 1024).filter (fun b => r.2.2.1.any (fun k => decide (k / 64 = b)))
    emit (.hostWrite n (frameHost n m.newF s) r.2.1 (ep.map (· * 64)) (hostTag (anchor n s) false false s)) r.2.2.2

/-- MIGRATION_INVALIDATED (R497 steps 1-3, TIER_COPY_FAIL): no cache holds the leaf and no request through it is outstanding; the frame is copied,
poison included: `data` is the frame as read from the host (promotion), `ok` whether the host's side succeeded, which it does not while the function
may issue no requests (R1021). After a failed copy the plan goes on (R496). -/
def execMigrationInvalidated (n : Nat) (ok : Bool) (data : HostBytes) (s : State) : Res :=
  match (hxOf n s).mig with
  | none => .next s
  | some m =>
    let busy := s.reqs.any (fun r => inFlight n r s && r.va / 2 ^ 16 == m.page)
    if m.step ≠ 1 ∨ busy ∨ tierHeld n s then .next s
    else
      let s1 := dropRange n (m.page * 2 ^ 16, m.page * 2 ^ 16 + 2 ^ 16) s
      if !(ok && mayIssue n s) then
        .next (migOn n [] (endMig n m (recordCE (xlatP (anchor n s1)) 0x1707 0 (m.page * 2 ^ 16)
          (putLeaf n m.leafAt m.leafHost m.leaf s1))))
      else
        let s2 := migCopy n m data s1
        .next (setHx n { hxOf n s2 with mig := some { m with step := 3 } } s2)

/-- The leaf after a migration: its new target, MIG 0 (Table 9-7 step 4). -/
def newLeaf (n : Nat) (m : Mig) (s : State) : Nat :=
  let low := m.leaf % 2 ^ 12
  if m.promote then setBits (low - bitsOf low 10 9 * 2 ^ 9) 4 2 0 + frameHba n m.newF s
  else setBits low 4 2 1 + frameHost n m.newF s

/-- The leaf takes its new target, the tier map and the free counts follow, and the migration is counted (R497 step 4). -/
def migCommit (n : Nat) (m : Mig) (s : State) : State :=
  let e := tierEnt n m.oldF s
  let s1 := putLeaf n m.leafAt m.leafHost (newLeaf n m e.2) e.2
  let s2 := setTierEnt n m.newF (1 + m.page * 2 ^ 16) (setTierEnt n m.oldF (e.1 - e.1 % 2) s1)
  let b := herdF n XLAT_FREE_B_FREE s2
  let h := herdF n XLAT_FREE_H_FREE s2
  if m.promote then setHerdF n XLAT_FREE_B_FREE (b - 1) (setHerdF n XLAT_FREE_H_FREE (h + 1)
      (setHerdF n XLAT_MIGS_PROMOTE (satAdd 16 (herdF n XLAT_MIGS_PROMOTE s2) 1) s2))
    else setHerdF n XLAT_FREE_B_FREE (b + 1) (setHerdF n XLAT_FREE_H_FREE (h - 1)
      (setHerdF n XLAT_MIGS_DEMOTE (satAdd 16 (herdF n XLAT_MIGS_DEMOTE s2) 1) s2))

/-- The leaf as it stands: read from a host-resident table, or from the bead. -/
def leafNow (n cur : Nat) (m : Mig) (s : State) : Nat × State :=
  if m.leafHost then (cur, s)
  else
    let r := hbaRead n m.leafAt 8 s
    (leNat r.2.1, r.2.2.2)

/-- MIGRATION_COPY_DONE (R497 steps 4-5, R511): the leaf, unless software has changed it, takes its new target, the tier map follows, the halted
requests resume and the next migration begins. `cur` is the leaf as read from a host-resident table, `hs` the host-resident entries
that the next migration reads; with no migration in progress these let the plan go on that waited for them. -/
def execMigrationCopyDone (n cur : Nat) (hs : List (Option Nat)) (s : State) : Res :=
  match (hxOf n s).mig with
  | none => .next (if (hxOf n s).plan.isEmpty || tierHeld n s then s else migOn n hs s)
  | some m =>
    if m.step ≠ 3 ∨ tierHeld n s then .next s
    else
      let l := leafNow n cur m s
      if l.1 ≠ m.leaf + 2 ^ 8 then .next (migOn n hs (endMig n m (recordCE (xlatP (anchor n l.2)) 0x1708 0 (m.page * 2 ^ 16) l.2)))
      else
        let s1 := migCommit n m l.2
        .next (migOn n hs (endMig n m (raise (xlatP (anchor n s1)) 20 s1)))

/-- The regions of auto-tier are valid (R505). -/
def tierOk (n : Nat) (s : State) : Bool :=
  let c := herdC n s
  let mapEnd := tierAccAt n (tbCount n s) s
  let mapAt := tierEntAt n 0 s
  tbCount n s != 0 && hsCount n s != 0 && decide ((tbBase n s + tbCount n s) * 2 ^ 16 ≤ c) && decide (mapEnd ≤ c)
    && !meets (mapAt, mapEnd) (tbBase n s * 2 ^ 16, (tbBase n s + tbCount n s) * 2 ^ 16)
    && herdF n XLAT_TIER_PAR_WIN_MS s != 0

/-- A window begins: the rods have used no frame in it (R495). -/
def newWindow (n : Nat) (s : State) : State :=
  (herdRods n s).foldl (fun t i => setXl i { xlOf i t with acc := [] } t) (setHx n { hxOf n s with winAt := s.now } s)

/-- A write to XLAT_TIER_CTL (R499, R500, R505): EN 1 over invalid regions is ignored with TIER_BAD; the engine pauses or stops after the
migration in progress, and recounts its free frames when it goes on. -/
def tierWrite (i v : Nat) (s : State) : State :=
  let n := herdNo i s
  let en0 := herdF n XLAT_TIER_CTL_EN s
  let p0 := herdF n XLAT_TIER_CTL_PAUSE s
  let bad := bitOf v 0 && !tierOk n s
  let s1 := writeHw i 0xBC (if bad then v - v % 2 + en0 else v) s
  let s2 := if bad then raise (xlatP i) 21 s1 else s1
  let en := herdF n XLAT_TIER_CTL_EN s2
  let p := herdF n XLAT_TIER_CTL_PAUSE s2
  let s3 := if (en = 1 ∧ en0 = 0) ∨ (p0 = 1 ∧ p = 0) then newWindow n (tierRescan n s2) else s2
  if en = 0 ∨ p = 1 then migStop n s3 else showIdle n s3

/-- TIER_PAUSE: a write to XLAT_TIER_CTL that pauses the tier engine or lets it go on (R499). -/
def execTierPause (fn i v : Nat) (s : State) : Res :=
  .next (barWrite fn (xlatP i + 0xBC) (fun s => tierWrite i v s) s)

/-- TIER_ENABLE: a write to XLAT_TIER_CTL that starts or stops auto-tier (R505). -/
def execTierEnable (fn i v : Nat) (s : State) : Res :=
  .next (barWrite fn (xlatP i + 0xBC) (fun s => tierWrite i v s) s)

end Sys2Proof.Machine
end

