-- ==== Sys2Proof/Machine/Herd.lean ====
section
/-! DEFINITION. Family: herds (chapter 10): the rectangle, creation and destruction, reset, resize, levelled rates and shares. -/
namespace Sys2Proof.Machine

/-! ### Existence and ownership -/

/-- Herd n exists (R528). -/
def herdExists (n : Nat) (s : State) : Bool := lifeAt (statOf (herdP n)) s != 0

/-- Show the herds that exist in GLB_STATE (R528). -/
def showHerds (s : State) : State :=
  setF glbP GLB_STATE_HERDS ((List.range 128).countP (fun n => herdExists n s)) s

/-- A rectangle obeys R525. -/
def geomOk (x0 y0 w h : Nat) : Bool :=
  x0 % 2 == 0 && y0 % 4 == 0 && w % 2 == 0 && decide (2 ≤ w) && decide (w ≤ 32) && h % 4 == 0 && decide (4 ≤ h)
    && decide (h ≤ 32) && decide (x0 + w ≤ 32) && decide (y0 + h ≤ 32)

/-- Rod i belongs to herd m, or a resize under way gives it to herd m (R529, R533, log 140). -/
def herdClaims (m i : Nat) (s : State) : Bool :=
  herdExists m s && (herdOfRod i s == some m ||
    (match alGet s.resizes m with
     | some r => (rectRods (herdX0 m s) (herdY0 m s) r.w r.h).contains i
     | none => false))

/-- Checks 2-5 of Table 10-4 on a rectangle, for the rods among `rods` (R529, R533): the status of the first that fails. -/
def rodChecks (n x0 y0 w h : Nat) (rods : List Nat) (s : State) : Option Nat :=
  if !geomOk x0 y0 w h then some 0x10
  else if rods.any (fun i => (List.range 128).any (fun m => m != n && herdClaims m i s)) then some 0x11
  else if rods.any (fun i => rodAbsent i s) then some 0x08
  else if rods.any (fun i => s.failed.contains i) then some 0x12
  else none

/-- The rectangle of herd n as its HERD_GEOM stands. -/
def geomRods (n : Nat) (s : State) : List Nat := rectRods (herdX0 n s) (herdY0 n s) (herdW n s) (herdH n s)

/-- The creation checks of Table 10-4, in order (R529). -/
def createChecks (n : Nat) (s : State) : Option Nat :=
  if !(outcome s == 1 || outcome s == 2) then some 0x07
  else match rodChecks n (herdX0 n s) (herdY0 n s) (herdW n s) (herdH n s) (geomRods n s) s with
    | some st => some st
    | none =>
      if (List.range 128).countP (fun m => m != n && herdExists m s) + 1 > getF glbP GLB_LIC_HERD_LIMIT s then some 0x06 else none

/-- The pages of rod i. -/
def rodPages (i : Nat) : List Nat := (List.range 12).map (fun k => rodP i + k * 0x1000)

/-- Give every page of rod i to an owner; a held notification of a page is discarded (R55, R530, R531). -/
def ownRod (i : Nat) (owner : Nat) (s : State) : State :=
  (rodPages i).foldl (fun t p => { wrW (p + 0x2C) (BitVec.ofNat 32 owner) t with held := alErase t.held p }) s

/-- PG_OWNER of a free page. -/
def freeOwner : Nat := 0x100

/-- A rod joins herd n: its pages, and its XLAT page at FLR values with its index and placement (R530). -/
def joinRod (n i : Nat) (s : State) : State :=
  let s1 := rstPage .flr (xlatP i) (ownRod i n s)
  let k := (rodY i - herdY0 n s) * herdW n s + (rodX i - herdX0 n s)
  setXl i .empty (ownRod i n (setF (xlatP i) XLAT_CFG_PLACE (getF (herdP n) HERD_MODE_PLACE s) (setF (xlatP i) XLAT_CFG_K k s1)))

/-- The BEAD and XLAT pages of rod i mirror herd n (Table 2-7, R76). -/
def mirrorHerd (n i : Nat) (s : State) : State :=
  let st := lifeAt (statOf (herdP n)) s
  putState (statOf (xlatP i)) st (putState (statOf (beadP i)) st s)

/-- A rod leaves its herd: its pages go OFF, but for a failed rod's (R902), and FREE. -/
def leaveRod (i : Nat) (s : State) : State :=
  let s1 := if s.failed.contains i then s else putState (statOf (xlatP i)) 0 (putState (statOf (beadP i)) 0 s)
  setXl i .empty (ownRod i freeOwner s1)

/-! ### Levelled rates (R536-R539, R606) -/

/-- The rectangle of herd n crosses bridge b (4: frames 0-1, 5: 2-3, 6: 0-2, 7: 1-3), or has rods in frame b (0-3). -/
def crosses (n b : Nat) (s : State) : Bool :=
  let x0 := herdX0 n s
  let x1 := x0 + herdW n s
  let y0 := herdY0 n s
  let y1 := y0 + herdH n s
  let crossX := decide (x0 ≤ 15) && decide (16 < x1)
  let crossY := decide (y0 ≤ 15) && decide (16 < y1)
  match b with
  | 0 => decide (x0 < 16) && decide (y0 < 16)
  | 1 => decide (16 < x1) && decide (y0 < 16)
  | 2 => decide (x0 < 16) && decide (16 < y1)
  | 3 => decide (16 < x1) && decide (16 < y1)
  | 4 => crossX && decide (y0 < 16)
  | 5 => crossX && decide (16 < y1)
  | 6 => crossY && decide (x0 < 16)
  | _ => crossY && decide (16 < x1)

/-- WEIGHT of herd n on resource r, and as it counts in a sum, where 0 counts as 1 (R537). -/
def weight (n r : Nat) (s : State) : Nat := getF (herdP n) (HERD_SHARE_WEIGHT r) s
def weight1 (n r : Nat) (s : State) : Nat := max 1 (weight n r s)

/-- MB/s of a bridge link as R537 counts it. -/
def linkRate (b k : Nat) (s : State) : Nat :=
  let p := brgP (4 * b + k)
  if lifeAt (statOf p) s = 2 then getF p BRG_STAT_WIDTH s * 8000 else 0

/-- A bridge is removed from routing (R603). -/
def removed (b : Nat) (s : State) : Bool := flag (brgP (4 * b)) BRG_STAT_REMOVED s

/-- The frame bridge between two neighbouring frames. -/
def frameBridge (f g : Nat) : Nat :=
  match min f g, max f g with | 0, 1 => 4 | 2, 3 => 5 | 0, 2 => 6 | _, _ => 7

/-- Hub path of frame f (R604): bridges, and the frame whose hub bridge it ends in; none when isolated. -/
def hubPath (f : Nat) (s : State) : Option (List Nat × Nat) :=
  if !removed f s then some ([f], f)
  else
    let hor := if f % 2 = 0 then f + 1 else f - 1
    let ver := if f < 2 then f + 2 else f - 2
    let g := if !removed (frameBridge f hor) s then hor else ver
    if removed (frameBridge f g) s || removed g s then none else some ([frameBridge f g, g], g)

/-- Bridges of the hub path of frame f. -/
def pathBridges (f : Nat) (s : State) : List Nat := match hubPath f s with | some (bs, _) => bs | none => []

/-- Frames that a frame bridge joins. -/
def bridgeEnds (b : Nat) : Nat × Nat := match b with | 4 => (0, 1) | 5 => (2, 3) | 6 => (0, 2) | _ => (1, 3)

/-- Traffic of herd m crosses bridge b (R537, R604-R606): its rectangle does, or the hub path of a frame whose hub bridge is removed leads over it, or
the hub relay for a removed frame bridge that its rectangle crosses. -/
def usesBridge (m b : Nat) (s : State) : Bool :=
  crosses m b s || (List.range 4).any (fun f => removed f s && crosses m f s && (pathBridges f s).contains b)
    || [4, 5, 6, 7].any (fun c => removed c s && crosses m c s
      && ((pathBridges (bridgeEnds c).1 s).contains b || (pathBridges (bridgeEnds c).2 s).contains b))

/-- Sum of the weights of the existing herds whose traffic crosses bridge b (R537, R606). -/
def weightSum (b : Nat) (s : State) : Nat :=
  (((List.range 128).filter (fun m => herdExists m s && usesBridge m b s)).map (fun m => weight1 m b s)).foldl (· + ·) 0

/-- A capacity as a fraction of MB/s. -/
abbrev Frac := Nat × Nat

/-- Sum and minimum of fractions. -/
def fracAdd (a b : Frac) : Frac := (a.1 * b.2 + b.1 * a.2, a.2 * b.2)
def fracMin (a b : Frac) : Frac := if a.1 * b.2 ≤ b.1 * a.2 then a else b

/-- Capacity of links `ks` of bridge b for herd n. -/
def bridgeCap (n b : Nat) (ks : List Nat) (s : State) : Frac :=
  ((ks.map (fun k => linkRate b k s)).foldl (· + ·) 0 * weight n b s, max 1 (weightSum b s))

/-- Capacity of a frame's hub path for herd n: the least over its bridges. -/
def hubCap (n f : Nat) (s : State) : Frac :=
  match hubPath f s with
  | none => (0, 1)
  | some (bs, _) => bs.foldl (fun a b => fracMin a (bridgeCap n b [0, 1, 2, 3] s)) (2 ^ 40, 1)

/-- Groups of a frame boundary that rows or columns from `a` to `b` - 1 of one frame side touch. -/
def groupsIn (a b : Nat) : List Nat := (List.range 4).filter (fun k => decide (a < 4 * k + 4) && decide (4 * k < b))

/-- Capacity of one bridge on a cut, through the relay when it is removed (R606). -/
def boundaryCap (n b : Nat) (ks : List Nat) (s : State) : Frac :=
  if ks.isEmpty then (0, 1)
  else if removed b s then
    let e := bridgeEnds b
    fracMin (hubCap n e.1 s) (hubCap n e.2 s)
  else bridgeCap n b ks s

/-- Capacity of the cut after column x (or row y) of herd n, in MB/s, P in Mbeat/s. -/
def cutCap (n pace : Nat) (vertical : Bool) (at_ : Nat) (s : State) : Frac :=
  let lo := if vertical then herdY0 n s else herdX0 n s
  let len := if vertical then herdH n s else herdW n s
  let mesh : Frac := (len * 64 * pace, 1)
  if at_ = 15 then
    let near := groupsIn lo (min 16 (lo + len))
    let far := if lo + len ≤ 16 then [] else groupsIn (max lo 16 - 16) (lo + len - 16)
    let near := if lo ≥ 16 then [] else near
    fracMin mesh (if vertical then fracAdd (boundaryCap n 4 near s) (boundaryCap n 5 far s)
      else fracAdd (boundaryCap n 6 near s) (boundaryCap n 7 far s))
  else mesh

/-- Lowest nominal pace among herd n's rods. -/
def herdPace (n : Nat) (s : State) : Nat :=
  match (herdRods n s).map (fun i => getF (senseP i) SENSE_PACE_NOMINAL s) with
  | [] => 0
  | p :: t => t.foldl min p

/-- INJ in units of 10 MB/s (R537): the least cut. -/
def injOf (n : Nat) (s : State) : Nat :=
  let w := herdW n s
  let h := herdH n s
  let rods := w * h
  let p := herdPace n s
  let cut (c : Frac) (a : Nat) : Nat := c.1 * (rods - 1) / max 1 (c.2 * a * (rods - a) * 10)
  let cols := (List.range (w - 1)).map (fun j => cut (cutCap n p true (herdX0 n s + j) s) ((j + 1) * h))
  let rows := (List.range (h - 1)).map (fun j => cut (cutCap n p false (herdY0 n s + j) s) ((j + 1) * w))
  (cols ++ rows).foldl min 65535

/-- PAIR in units of 10 MB/s (R538, R606). -/
def pairOf (n : Nat) (s : State) : Nat :=
  let mesh := 64 * herdPace n s / 10
  ([4, 5, 6, 7].filter (fun b => crosses n b s)).foldl (fun a b =>
    let c : Frac := if removed b s then boundaryCap n b [0] s else (128000 * weight n b s, 4 * max 1 (weightSum b s))
    min a (c.1 / (c.2 * 10))) (min 65535 mesh)

/-- Recompute the rates of every existing herd; LEVEL_CHANGE where one moves (R539). -/
def relevel (s : State) : State :=
  ((List.range 128).filter (fun n => herdExists n s)).foldl (fun t n =>
    let a := injOf n t
    let b := pairOf n t
    if getF (herdP n) HERD_LEVEL_INJ t = a ∧ getF (herdP n) HERD_LEVEL_PAIR t = b then t
    else raise (herdP n) 17 (setF (herdP n) HERD_LEVEL_INJ a (setF (herdP n) HERD_LEVEL_PAIR b t))) s

/-! ### Creation and destruction -/

/-- What a herd does in STARTING (R530): it owns its rods' pages, which take their XLAT values; sizes and rates are written. -/
def createHerd (n : Nat) (s : State) : State :=
  let s1 := (geomRods n s).foldl (fun t i => joinRod n i t) s
  let s2 := (herdRods n s1).foldl (fun t i => mirrorHerd n i t) (setHx n .empty (hubDrop n s1))
  relevel (showHerds (setF (herdP n) HERD_SIZE_ANCHOR (anchor n s2) (setF (herdP n) HERD_SIZE_N (herdN n s2) s2)))

/-- A herd's rods begin their zero-fill and its open faults and migration are abandoned, the KVM deletes its sequences and the video pipes
close its sessions (R395, R512, R531, R725, R762). -/
def endHerd (n : Nat) (s : State) : State :=
  let s1 := vHerdStop n (kvHerdStop n
    ((herdRods n s).foldl (fun t i => showFaults i (setXl i { xlOf i t with faults := [] } (zeroStart i t))) s))
  setHx n { hxOf n s1 with mig := none, plan := [], cold := [] } s1

/-- What a herd leaves when it reaches OFF (R531): its rods' pages are FREE and its weights leave the arbiters. -/
def destroyHerd (n : Nat) (s : State) : State :=
  let s1 := (herdRods n s).foldl (fun t i => leaveRod i t) s
  let s2 := { hubDrop n s1 with herdX := alErase s1.herdX n, resizes := alErase s1.resizes n }
  setF (herdP n) HERD_SIZE_ANCHOR 0 (setF (herdP n) HERD_SIZE_N 0 (setF (herdP n) HERD_RSTAT_BUSY 0 s2))

/-- FLR or herd reset of a herd-owned block (R101): STOP without a drain, a pending start discarded; a FAULTED block goes OFF with a block life
reset, but for one of a failed rod (R902). -/
def resetBlock (a : Nat) (s : State) : State :=
  match lifeAt a s with
  | 5 =>
    let dead := match pageOf a with | some (.seq, i) | some (.strm, i) => s.failed.contains i | _ => false
    if dead then s else setState a 0 (lifeReset a (setF a LIFE_PENDING_START 0 s))
  | _ => stopNow a s

/-- The herd-owned blocks of herd n, children before parents (R70). -/
def herdBlocks (n : Nat) (s : State) : List Nat :=
  (herdRods n s).flatMap (fun i => (List.range 8).map (fun k => slotStat i k) ++ [statOf (strmP i), statOf (seqP i)])
    ++ (List.range 8).map (fun q => queueStat n q) ++ [statOf (hqP n)]

/-- A page takes its FLR values while its block, and the blocks whose state registers are `subs`, keep their life states (R9, R101); a
FAULTED block keeps its cause. -/
def flrPage (p : Nat) (subs : List Nat) (s : State) : State :=
  let regs := (statOf p :: subs).map (fun a => (a, lifeAt a s, rdW a s &&& 0xFF000007))
  regs.foldl (fun t r => if r.2.1 = 5 then wrW r.1 r.2.2 t else setF r.1 LIFE_STATE r.2.1 t) (rstPage .flr p s)

/-- The pages of rod i take their FLR values (R9), its caches are emptied (R516), and a channel that is down retrains (R398). -/
def flrRod (i : Nat) (s : State) : State :=
  let s1 := (rodPages i).foldl (fun t p =>
    flrPage p (if p = strmP i then (List.range 8).map (fun k => slotStat i k) else []) t) s
  let down := (beadOf i s1).down
  let s2 := setBead i { beadOf i s1 with down := [] } (setXl i .empty s1)
  down.foldl (fun t c => countRetrain (setCal i c { calOf i c t with retrain := true, code := islCode (rodIsland i) t } t)) s2

/-- Every page that herd n owns takes its FLR values (Table 0-4, R848, R889): its rods', its HQ page, which waits for its queues' last
completions unless `now` is set, its mailbox, whose command not yet taken is dropped; MISS clears. -/
def flrHerd (n : Nat) (now : Bool) (s : State) : State :=
  let s1 := (herdRods n s).foldl (fun t i => flrRod i t) s
  let s2 := setHx n .empty (hubDrop n s1)
  let s3 := { rstPage .flr (mgsP n) s2 with mgs := { s2.mgs with queue := s2.mgs.queue.filter (fun r => r.agent != n) } }
  let s4 := setF (thmP 1) (THM_HERD_MISS n) 0 (setF (statOf (mgsP n)) LIFE_STATE (lifeAt (statOf (mgsP n)) s2) s3)
  if now then flrPage (hqP n) [] s4 else { s4 with flrDue := nsInsert s4.flrDue n }

/-- A herd reset of HERD block n (R532) and of the blocks it owns (R101); `flr` says that an FLR does it. A resize under way ends undone (log 140). -/
def herdReset (n : Nat) (flr : Bool) (s : State) : State :=
  let a := statOf (herdP n)
  let s1 := flrHerd n flr ((herdBlocks n s).foldl (fun u b => resetBlock b u) s)
  match lifeAt a s with
  | 0 => s1
  | 4 => s1
  | _ =>
    let s2 := setF (herdP n) HERD_RSTAT_BUSY 0 { s1 with resizes := alErase s1.resizes n }
    setF a LIFE_PENDING_START 1 (endHerd n (setState a 4 (setLifeX a ⟨none, 0, false⟩ s2)))

/-- HERD_RESET: a write of 1 to GO resets a READY or FAULTED herd; in another state it is ignored with STATE_REJECT (R532). -/
def execHerdReset (fn n v : Nat) (s : State) : Res :=
  .next (barWrite fn (herdP n + 0x8C) (fun s =>
    if !bitOf v 0 then s
    else if lifeAt (statOf (herdP n)) s = 2 ∨ lifeAt (statOf (herdP n)) s = 5 then herdReset n false s
    else raise (herdP n) 3 s) s)

/-! ### Resize (R533, R534) -/

/-- HERD_RESIZE: a write with GO starts a resize of a READY herd whose SEQ blocks are all OFF, after checks 2-5 of Table 10-4 on the rods that
join; otherwise HERD_RSTAT tells why not. -/
def execHerdResize (fn n v : Nat) (s : State) : Res :=
  .next (barWrite fn (herdP n + 0x90) (fun s =>
    if !bitOf v 31 then s
    else
      let a := statOf (herdP n)
      let w := bitsOf v 21 16
      let h := bitsOf v 29 24
      let set (st : Nat) (t : State) : State := setF (herdP n) HERD_RSTAT_STATUS st t
      if lifeAt a s ≠ 2 ∨ flag (herdP n) HERD_RSTAT_BUSY s ∨ (herdRods n s).any (fun i => lifeAt (statOf (seqP i)) s != 0) then set 0x13 s
      else
        let joins := (rectRods (herdX0 n s) (herdY0 n s) w h).filter (fun i => !(geomRods n s).contains i)
        match rodChecks n (herdX0 n s) (herdY0 n s) w h joins s with
        | some st => set st s
        | none => setF (herdP n) HERD_RSTAT_BUSY 1 { s with resizes := alSet s.resizes n ⟨w, h, none⟩ }) s)

/-- Copy the herd-wide XLAT registers of rod i to rod j. -/
def copyHw (i j : Nat) (s : State) : State :=
  let own := [0x00C, 0x008, 0x010, 0x014, 0x018, 0x01C, 0x020, 0x024, 0x028, 0x02C, 0x0A8]
  let regs := (specsXLAT.map (·.base)).filter (fun o => !own.contains o && o ≠ 0x080)
  let s1 := regs.foldl (fun t o => wrW (xlatP j + o) (rdW (xlatP i + o) t) t) s
  setF (xlatP j) XLAT_CFG_EXP_W (getF (xlatP i) XLAT_CFG_EXP_W s) (setF (xlatP j) XLAT_CFG_EXP_R (getF (xlatP i) XLAT_CFG_EXP_R s) s1)

/-- The five steps of a resize (R533). -/
def applyResize (n : Nat) (r : Resize) (s : State) : State :=
  let old := geomRods n s
  let new := rectRods (herdX0 n s) (herdY0 n s) r.w r.h
  let lead := anchor n s
  let fill (i : Nat) (t : State) : State := raise (beadP i) 23 (zeroFill i t)
  let s1 := (old.filter (fun i => !new.contains i)).foldl (fun t i => leaveRod i (fill i t)) s
  let s2 := setF (herdP n) HERD_GEOM_W r.w (setF (herdP n) HERD_GEOM_H r.h s1)
  let s3 := (new.filter (fun i => !old.contains i)).foldl (fun t i =>
    let st := if t.failed.contains i then 5 else 2
    putState (statOf (xlatP i)) st (putState (statOf (beadP i)) st (copyHw lead i (joinRod n i t)))) s2
  let s4 := if interleaved n s then (new.filter (fun i => old.contains i)).foldl (fun t i => fill i t) s3 else s3
  let s5 := new.foldl (fun t i =>
    setF (xlatP i) XLAT_CFG_K ((rodY i - herdY0 n t) * herdW n t + (rodX i - herdX0 n t)) t) (dropRange n (0, 2 ^ 48) s4)
  relevel (setF (herdP n) HERD_SIZE_N (herdN n s5) s5)

/-- In manual mode every WEIGHT is its FLOOR (R541, R545): what changes is told, and the rates follow. -/
def weightsManual (s : State) : State :=
  (List.range 128).foldl (fun t n => (List.range 12).foldl (fun u r =>
    let fl := getF (herdP n) (HERD_SHARE_FLOOR r) u
    if weight n r u = fl then u else relevel (raise (herdP n) 19 (setF (herdP n) (HERD_SHARE_WEIGHT r) fl u))) t) s

/-- HERD_SHARE_WRITE (R541, R545, R574): FLOOR and CAP of resource r; WEIGHT follows FLOOR in manual mode and is at least FLOOR otherwise. -/
def execHerdShareWrite (fn n r v : Nat) (s : State) : Res :=
  if r ≥ 12 then .next (barWrite fn (herdP n + 0xA0 + 4 * r) id s)
  else .next (barWrite fn (herdP n + 0xA0 + 4 * r) (fun s =>
    let a := herdP n + 0xA0 + 4 * r
    let s1 := writeReg a v s
    let fl := getF (herdP n) (HERD_SHARE_FLOOR r) s1
    let w := if flag (thmP 1) THM_GOAL_SHARES_MAN s1 then fl else max fl (getF (herdP n) (HERD_SHARE_WEIGHT r) s1)
    let s2 := setF (herdP n) (HERD_SHARE_WEIGHT r) w s1
    if rdW a s2 = rdW a s then s2 else relevel (raise (herdP n) 19 s2)) s)

end Sys2Proof.Machine
end

