-- ==== Sys2Proof/Machine/Brg.lean ====
section
/-! DEFINITION. Family: bridges between dies (chapter 11) and the hops of grid packets (R517-R524, R604, R605). Link n is 4b + k;
direction 0 is AB, 1 is BA. -/
namespace Sys2Proof.Machine

/-- Direction d of link n. -/
def brgDir (n d : Nat) (s : State) : LinkDir := alGetD s.links (n * 2 + d) .fresh

/-- When things began on it. -/
def brgTime (n d : Nat) (s : State) : LinkT := alGetD s.linkT (n * 2 + d) .rest

/-- Store it, with the times that its change begins. -/
def setBrgDir (n d : Nat) (l : LinkDir) (s : State) : State :=
  { s with links := alSet s.links (n * 2 + d) l
           linkT := alPut LinkT.rest s.linkT (n * 2 + d) (LinkT.stamp 6 8 336 s.now (brgDir n d s) l (brgTime n d s)) }

/-- Link n beside its page. -/
def brgX (n : Nat) (s : State) : BrgX := alGetD s.brgs n .rest

/-- Store it. -/
def setBrgX (n : Nat) (x : BrgX) (s : State) : State := { s with brgs := alPut BrgX.rest s.brgs n x }

/-- Link n carries (R595). -/
def brgCarries (n : Nat) (s : State) : Bool := flag (brgP n) BRG_STAT_CARRYING s

/-- Link n is READY. -/
def brgReady (n : Nat) (s : State) : Bool := lifeAt (statOf (brgP n)) s == 2

/-! ### Lanes (R582, R600) -/

def laneState (n d l : Nat) (s : State) : Nat := getF (brgP n) (BRG_LANE_STATE d l) s
def laneLogical (n d l : Nat) (s : State) : Nat := getF (brgP n) (BRG_LANE_LOGICAL d l) s

/-- Store a lane's state and logical number. -/
def setLane (n d l st lg : Nat) (s : State) : State :=
  setF (brgP n) (BRG_LANE_STATE d l) st (setF (brgP n) (BRG_LANE_LOGICAL d l) lg s)

/-- Lanes of a direction that are not bad. -/
def goodLanes (n d : Nat) (s : State) : List Nat := (List.range 18).filter (fun l => laneState n d l s != 2)

/-- Lanes that are spare. -/
def spareLanes (n d : Nat) (s : State) : List Nat := (List.range 18).filter (fun l => laneState n d l s == 0)

/-- Show the counts of good and spare lanes. -/
def showLanes (n : Nat) (s : State) : State :=
  let p := brgP n
  setF p BRG_STAT_GOOD_AB (goodLanes n 0 s).length (setF p BRG_STAT_GOOD_BA (goodLanes n 1 s).length
    (setF p BRG_STAT_SPARE_AB (spareLanes n 0 s).length (setF p BRG_STAT_SPARE_BA (spareLanes n 1 s).length s)))

/-- Lanes of `m` in rising order become logical lanes 0, 1, ...; every other good lane is spare. -/
def mapLanes (n d : Nat) (m : List Nat) (s : State) : State :=
  (List.range 18).foldl (fun t l =>
    if m.contains l then setLane n d l 1 (m.countP (fun x => x < l)) t
    else if laneState n d l t = 2 then t else setLane n d l 0 31 t) s

/-- Set the width and the lane maps (R599, R602); a change is counted. -/
def applyWidth (n w : Nat) (ab ba : List Nat) (s : State) : State :=
  let p := brgP n
  let s1 := mapLanes n 1 ba (mapLanes n 0 ab s)
  let s2 := if getF p BRG_STAT_WIDTH s ≠ w then bump p BRG_LADDER_WIDTHS 1 (setF p BRG_STAT_WIDTH w s1) else s1
  showLanes n s2

/-- The w lowest good lanes of each direction. -/
def lowLanes (n w : Nat) (s : State) : List Nat × List Nat := ((goodLanes n 0 s).take w, (goodLanes n 1 s).take w)

/-- Lanes of a bitmap, and back. -/
def lanesOfMap (m : Nat) : List Nat := (List.range 18).filter (fun l => bitOf m l)
def mapOfLanes (l : List Nat) : Nat := l.foldl (fun a x => a + 2 ^ x) 0

/-- A ladder step: BRG_LAST and a record of KIND 4 (R599, R826). -/
def ladderStep (n step d lane : Nat) (s : State) : State :=
  let p := brgP n
  tally 4 0 step p 0 [] (setF p BRG_LAST_STEP step (setF p BRG_LAST_DIR d (setF p BRG_LAST_LANE lane s)))

/-- DETAIL and locator of a BRG error (R620, Table 18-3). -/
def brgDetail (d lane : Nat) : Nat := d * 2048 + lane
def brgLoc (d lane seq : Nat) : Nat := d + lane * 16 + seq * 65536

/-- A loss of link n after the outcome (R941): its bit of GLB_LOSS_BRG, and BRG_BER. -/
def loss (n : Nat) (s : State) : State :=
  if outcome s = 0 then s else degrade (setF glbP ⟨0x0B4, n, n⟩ 1 (setF glbP GLB_LOSS_BRG_BER 1 s))

/-! ### Sending, and moving groups (R595-R597) -/

/-- A flit goes out on link n in direction d, with the ACK of the other direction in its header (R586). -/
def brgOutFlit (n d : Nat) (ctrl : Bool) (seq vc : Nat) (head : Bool) (pay : List Byte) (s : State) : State :=
  emit (.brgFlit n d (brgFlitBytes (brgHdr ctrl seq vc head 0 (brgDir n (1 - d) s).ack) pay)) s

/-- Sequenced flits go out, first sent or resent. -/
def emitFlits (n d : Nat) (l : List Unacked) (s : State) : State :=
  l.foldl (fun t f => if f.vc < 8 then brgOutFlit n d false f.seq f.vc f.head f.pay t
    else brgOutFlit n d true f.seq 0 false (brgCtlBytes f.ctl) t) s

/-- An unsequenced control flit goes out (R588). -/
def brgTell (n d : Nat) (f : List Nat) (s : State) : State := brgOutFlit n d true 0 0 false (brgCtlBytes f) s

/-- Count payload bytes of n data flits in a direction. -/
def brgBytes (n d k : Nat) (s : State) : State := bump64 (brgP n + 0x98 + 8 * d) (64 * k) s

/-- A reliable control flit goes out on link n in direction d. -/
def brgCtlOut (n d : Nat) (f : List Nat) (s : State) : State :=
  let l := brgDir n d s
  brgOutFlit n d true l.txNext 0 false (brgCtlBytes f) (setBrgDir n d (l.sendCtl (n % 4) f) s)

/-- Send a reliable control flit on link n in direction d; it waits while the replay buffer is full (R590). -/
def sendBrgCtl (n d : Nat) (f : List Nat) (s : State) : State :=
  let l := brgDir n d s
  if l.replay.length < 256 ∧ l.ctl.isEmpty then brgCtlOut n d f s else setBrgDir n d { l with ctl := l.ctl ++ [f] } s

/-- Resend flits of a direction from sequence `a` on (R590). -/
def resend (n d a : Nat) (s : State) : State :=
  let l := brgDir n d s
  let fs := l.since a
  let old := match l.replay with | f :: _ => fs.any (fun g => g.seq == f.seq) | [] => false
  let s1 := setBrgDir n d { l with resent := if old then l.resent + 1 else l.resent } s
  emitFlits n d fs (bump (brgP n) BRG_REPLAY_COUNT fs.length s1)

/-- Runs of flits first sent in sequence on one link, at most 255 each. -/
def carryRuns (l : List Unacked) : List (List Unacked) :=
  l.foldr (fun e acc =>
    match acc with
    | (f :: g) :: t => if f.orig = e.orig ∧ f.hseq = (e.hseq + 1) % 4096 ∧ g.length < 254 then (e :: f :: g) :: t else [e] :: (f :: g) :: t
    | _ => [e] :: acc) []

/-- Replay a run on link n: behind a CARRY, or under its own sequence when it was first sent there (R596). -/
def carryRun (n d : Nat) (run : List Unacked) (s : State) : State :=
  match run with
  | [] => s
  | f :: _ =>
    if f.orig = n % 4 then
      let fs := run.map (fun e => { e with seq := e.hseq })
      let l := brgDir n d s
      let older (e : Unacked) : Bool := decide (seqDiff e.seq f.hseq ≥ 2048)
      emitFlits n d fs (setBrgDir n d { l with
        replay := l.replay.filter older ++ fs ++ l.replay.filter (fun e => !older e)
        used := fs.foldl (fun u e => vcAdd u e.vc 1) l.used } s)
    else
      let s1 := brgCtlOut n d [3, f.orig, f.hseq, run.length] s
      run.foldl (fun t e =>
        let l := brgDir n d t
        let e1 := { e with seq := l.txNext }
        emitFlits n d [e1] (setBrgDir n d { l with
          txNext := (l.txNext + 1) % 4096, replay := l.replay ++ [e1], used := vcAdd l.used e.vc 1 } t)) s1

/-- Flits of a run, from its first on, that have credits, and room in the replay buffer with `more` flits before them (R590, R598). -/
def LinkDir.fits (more : Nat) (l : LinkDir) : List Unacked → Nat
  | [] => 0
  | f :: t =>
    if l.replay.length + more ≥ 256 ∨ l.free 6 8 336 f.vc = 0 then 0
    else 1 + LinkDir.fits more { l with replay := l.replay ++ [f], used := vcAdd l.used f.vc 1 } t

/-- What waits on link n, direction d goes out in order as far as there is room and credit: control flits, then the runs of moved groups. A run that
was first sent on this link keeps its sequence and its place. -/
def brgPumpGo (n d : Nat) : Nat → State → State
  | 0, s => s
  | f + 1, s =>
    let l := brgDir n d s
    match l.ctl with
    | c :: t => if l.replay.length < 256 then brgPumpGo n d f (brgCtlOut n d c (setBrgDir n d { l with ctl := t } s)) else s
    | [] =>
      match carryRuns l.held with
      | (e :: r) :: _ =>
        let k := l.fits (if e.orig = n % 4 then 0 else 1) (e :: r)
        if k = 0 then s
        else brgPumpGo n d f (brgBytes n d k (carryRun n d ((e :: r).take k) (setBrgDir n d { l with held := l.held.drop k } s)))
      | _ => s

/-- As many goes as things wait. -/
def brgPump (n d : Nat) (s : State) : State := brgPumpGo n d ((brgDir n d s).ctl.length + (brgDir n d s).held.length) s

/-- Group k of bridge b moves from link a to link c: what is not acknowledged of it waits there behind what waits already. -/
def moveGroup (b k a c : Nat) (s : State) : State :=
  let one (d : Nat) (t : State) : State :=
    let l := brgDir (4 * b + a) d t
    let mine (f : Unacked) : Bool := f.home == k && decide (f.vc < 8)
    let fs := l.replay.filter mine
    let lostOf (f : Unacked) : Bool := decide (seqDiff f.seq l.rxNext < 2048)
    let l1 := { l with
      replay := l.replay.filter (fun f => !mine f)
      used := (fs.filter lostOf).foldl (fun u f => listSet u f.vc (((u[f.vc]?).getD 0) - 1)) l.used
      held := l.held.filter (fun f => !mine f) }
    let t1 := setBrgDir (4 * b + a) d l1 t
    let m := brgDir (4 * b + c) d t1
    brgPump (4 * b + c) d (setBrgDir (4 * b + c) d { m with held := m.held ++ fs ++ l.held.filter mine } t1)
  setF (brgP (4 * b + k)) BRG_STAT_SUBST c (one 1 (one 0 s))

/-- Every group of bridge b whose link or substitute does not carry moves to the first link that does (R595, R617). -/
def moveGroups (b : Nat) (s : State) : State :=
  (List.range 4).foldl (fun t k =>
    let a := getF (brgP (4 * b + k)) BRG_STAT_SUBST t
    if brgCarries (4 * b + a) t then t
    else match [(k + 1) % 4, (k + 2) % 4, (k + 3) % 4, k].find? (fun c => brgCarries (4 * b + c) t) with
      | some c => moveGroup b k a c t
      | none => t) s

/-- Link n stops carrying. -/
def stopCarrying (n : Nat) (s : State) : State := moveGroups (n / 4) (setF (brgP n) BRG_STAT_CARRYING 0 s)

/-- The link that carries group k of bridge b, if any. -/
def carrier (b k : Nat) (s : State) : Option Nat :=
  let n := 4 * b + getF (brgP (4 * b + k)) BRG_STAT_SUBST s
  if brgCarries n s then some n else none

/-! ### Removal and return (R603-R607) -/

/-- Bridges that carry relayed or partner traffic (R604, R605). -/
def relayBridges (s : State) : List Nat :=
  let path (f : Nat) : List Nat := match hubPath f s with | some (bs, _) => bs | none => []
  ((List.range 4).filter (fun f => removed f s)).flatMap path
    ++ ([4, 5, 6, 7].filter (fun b => removed b s)).flatMap (fun b => path (bridgeEnds b).1 ++ path (bridgeEnds b).2)

/-- Show RELAY on every page. -/
def showRelay (s : State) : State :=
  let l := relayBridges s
  (List.range 32).foldl (fun t n => setF (brgP n) BRG_STAT_RELAY (b2n (l.contains (n / 4))) t) s

/-- Frame f has neither a hub path nor a frame bridge in routing (R607). -/
def isolated (f : Nat) (s : State) : Bool :=
  (hubPath f s).isNone && [4, 5, 6, 7].all (fun b => ((bridgeEnds b).1 != f && (bridgeEnds b).2 != f) || removed b s)

/-- Set REMOVED on the four pages of bridge b. -/
def setRemoved (b v : Nat) (s : State) : State :=
  (List.range 4).foldl (fun t k => setF (brgP (4 * b + k)) BRG_STAT_REMOVED v t) s

/-- Keep the loss BRG_REMOVED up to date once the outcome stands (R941). -/
def removedLoss (s : State) : State :=
  if outcome s = 0 then s else setF glbP GLB_LOSS_BRG_REMOVED (b2n ((List.range 8).any (fun b => removed b s))) s

/-- Bridge b leaves routing when no link is READY and no drain goes on, and returns when one carries (R603). -/
def checkBridge (b : Nat) (s : State) : State :=
  let ls := (List.range 4).map (fun k => 4 * b + k)
  let p := brgP (4 * b)
  if removed b s then
    if ls.any (fun n => brgCarries n s) then
      relevel (showRelay (removedLoss (ladderStep (4 * b) 6 0 31 (setRemoved b 0 s))))
    else s
  else if ls.any (fun n => brgReady n s || (brgX n s).draining) then s
  else
    let s1 := ladderStep (4 * b) 4 0 31 (recordCE p 0x2007 (brgDetail 0 31) (brgLoc 0 31 0) (raise p 21 (setRemoved b 1 s)))
    let s2 := relevel (showRelay (removedLoss (if outcome s1 = 0 then s1 else degrade s1)))
    (List.range 4).foldl (fun t f =>
      if isolated f t && !isolated f s then recordErr (brgP (4 * f)) 0x200B 3 (brgDetail 0 31) (brgLoc 0 31 0) false t else t) s2

/-! ### Retraining, degrading, retiring (R591, R599-R602) -/

/-- A retrain begins. -/
def startRetrain (n : Nat) (s : State) : State :=
  let p := brgP n
  countRetrain (raise p 19 (setF p BRG_STAT_RETRAIN 1 (stopCarrying n s)))

/-- The width changes to w: the group moves, a WIDTH goes to both ends, the link retrains. -/
def changeWidth (n w why d lane : Nat) (s : State) : State :=
  let m := lowLanes n w s
  let s1 := startRetrain n (setBrgX n { brgX n s with why := why, target := w, dir := d, lane := lane } s)
  sendBrgCtl n 0 [5, w, mapOfLanes m.1, mapOfLanes m.2] s1

/-- The link begins to drain (R601): no new flit, its group moves, a swap under way is dropped. -/
def brgDrain (n : Nat) (s : State) : State :=
  let s1 := setF (brgP n) BRG_STAT_RETRAIN 0 (stopCarrying n s)
  showRetraining (setBrgX n { brgX n s1 with swaps := [], draining := true, since := s.now } s1)

/-- The link retires with an error code: it drains first. -/
def retire (n d lane code : Nat) (s : State) : State :=
  let s1 := ladderStep n 3 d lane s
  brgDrain n (setBrgX n { brgX n s1 with why := 3, target := code, dir := d, lane := lane } s1)

/-- A lane becomes bad. -/
def laneBad (n d l : Nat) (s : State) : State := showLanes n (setLane n d l 2 31 s)

/-- The last windows of a lane hold 64 failed groups or more (1e-9, 1e-6), or it has lost symbol lock (R585). -/
def laneRates (n d l : Nat) (s : State) : Bool × Bool :=
  let lost := (brgX n s).lost.contains (d, l)
  let w := (brgX n s).inWindows d l s.now
  (lost || decide (w.2 ≥ 64), lost || decide (w.1 ≥ 64))

/-- Store the failed groups of link n; those that no window counts any more go, and the lane's page shows its windows (R585). -/
def setLaneFails (n d l : Nat) (fs : List LaneFails) (s : State) : State :=
  let x := { brgX n s with fails := fs.filter (fun f => decide (s.now < f.endS) && f.count != 0) }
  let w := x.inWindows d l s.now
  setF (brgP n) (BRG_LANE_W1S d l) (min 65535 w.2) (setF (brgP n) (BRG_LANE_W1MS d l) (min 255 w.1) (setBrgX n x s))

/-- The sparing ladder of Table 11-5 for one lane whose rate is above 1e-9 (`r9`) or 1e-6 (`r6`); `now_`: it has just come above 1e-9. -/
def ladder (n d l : Nat) (r9 r6 now_ : Bool) (s : State) : State :=
  let p := brgP n
  let x := brgX n s
  if !brgReady n s || flag p BRG_STAT_RETRAIN s || x.draining then s
  else match laneState n d l s with
    | 0 =>
      if r6 then laneBad n d l (setBrgX n { x with swaps := x.swaps.filter (fun w => !(w.1 == d && w.2.2.1 == l)) } s) else s
    | 1 =>
      if !(r9 || r6) || x.swaps.any (fun w => w.1 == d && w.2.1 == l) then s
      else match (spareLanes n d s).filter (fun k => !x.swaps.any (fun w => w.1 == d && w.2.2.1 == k)) with
        | k :: _ => setBrgX n { x with swaps := x.swaps ++ [(d, l, k, false)] } s
        | [] =>
          if !r6 then
            let f := takeFree s
            if now_ then tally 4 0 (f.1 % 65536) p 0 [] f.2 else s
          else if !x.swaps.isEmpty then s
          else
            let s1 := laneBad n d l s
            if getF p BRG_STAT_WIDTH s = 16 ∧ (goodLanes n 0 s1).length ≥ 8 ∧ (goodLanes n 1 s1).length ≥ 8 then
              let s2 := recordCE p 0x2004 (brgDetail d l) (brgLoc d l 0) (ladderStep n 2 d l s1)
              loss n (changeWidth n 8 1 d l s2)
            else loss n (retire n d l 0x2005 s1)
    | _ => s


/-- Steps that waited for a swap or a degrade of this link are evaluated (R614). -/
def reLadder (n : Nat) (s : State) : State :=
  [0, 1].foldl (fun t d => (List.range 18).foldl (fun u l =>
    let r := laneRates n d l u
    if laneState n d l u = 1 ∧ r.1 then ladder n d l r.1 r.2 false u else u) t) s

/-- A lane climbs the ladder; when a swap is dropped because its spare has become bad, the steps that waited for it are evaluated (R614). -/
def climb (n d l : Nat) (r9 r6 now_ : Bool) (s : State) : State :=
  let t := ladder n d l r9 r6 now_ s
  if (brgX n t).swaps.length < (brgX n s).swaps.length then reLadder n t else t

/-- LANE_ERROR_RATE (R585, R599, R600, R608, R613, R614): the windows of a lane end or a threshold is crossed, with the failed groups counted in
them; `fails` more groups have failed on the lane, outside the flits received. -/
def execLaneErrorRate (n d l w1s w1ms fails : Nat) (s : State) : Res :=
  let d := d % 2
  if n ≥ 32 ∨ l ≥ 18 then .next s
  else
    let p := brgP n
    let was := (laneRates n d l s).1
    let x := brgX n s
    let s0 := setBrgX n { x with lost := x.lost.filter (fun e => e != (d, l)) } s
    let s1 := setLaneFails n d l (x.fails.filter (fun f => f.dir != d || f.lane != l)
      ++ [⟨d, l, s.now + 1000000, s.now + 1000000000, w1ms⟩, ⟨d, l, 0, s.now + 1000000000, w1s - w1ms⟩]) s0
    let s2 := (List.range fails).foldl (fun t _ => recordCE p 0x2002 (brgDetail d l) (brgLoc d l 0) t) s1
    let r := laneRates n d l s2
    .next (climb n d l r.1 r.2 (!was) s2)

/-- BRG_LANE_LOCK_LOSS: a lane that loses symbol lock counts as above 1e-6 at once (R585). -/
def execBrgLaneLockLoss (n d l : Nat) (s : State) : Res :=
  let d := d % 2
  if n ≥ 32 ∨ l ≥ 18 then .next s
  else
    let x := brgX n s
    let lost := if x.lost.contains (d, l) then x.lost else x.lost ++ [(d, l)]
    .next (climb n d l true true (!(laneRates n d l s).1) (setBrgX n { x with lost := lost } s))

/-- SPARE_TRAINED: a spare in background training finishes; the SWAP goes out, or a spare that failed is bad (R599, R600). -/
def execSpareTrained (n d l : Nat) (ok : Bool) (s : State) : Res :=
  let x := brgX n s
  match x.swaps.find? (fun w => w.1 == d && w.2.2.1 == l && !w.2.2.2) with
  | none => .next s
  | some w =>
    let others := x.swaps.filter (fun v => v != w)
    if ok then .next (sendBrgCtl n d [4, d, laneLogical n d w.2.1 s, l] (setBrgX n { x with swaps := others ++ [(d, w.2.1, l, true)] } s))
    else
      let s1 := laneBad n d l (setBrgX n { x with swaps := others } s)
      .next (reLadder n (ladder n d w.2.1 true (laneRates n d w.2.1 s1).2 true s1))

/-! ### Flits (R586-R592) -/

/-- Physical lane of a logical lane. -/
def physLane (n d lg : Nat) (s : State) : Option Nat :=
  (List.range 18).find? (fun k => laneState n d k s == 1 && laneLogical n d k s == lg)

/-- A parity group of a lane fails (R584, R585): LANE_PARITY, and both windows count it. -/
def laneFailed (n d l : Nat) (s : State) : State :=
  let p := brgP n
  let was := (laneRates n d l s).1
  let s1 := setLaneFails n d l ((brgX n s).fails ++ [⟨d, l, s.now + 1000000, s.now + 1000000000, 1⟩]) s
  let s2 := recordCE p 0x2002 (brgDetail d l) (brgLoc d l 0) s1
  let r := laneRates n d l s2
  climb n d l r.1 r.2 (!was) s2

/-- The bits of a flit come in on the lanes of direction d (R583, R584), wrong where `errs` says: logical lane and place among the bits of the flit on
that lane. Each lane's parity groups of 64 bits go on from flit to flit; a group with an odd number of wrong bits fails. Lanes that fail at once
are taken in the order of their physical numbers (R613). -/
def lanePass (n d : Nat) (errs : List (Nat × Nat)) (s : State) : State :=
  let w := getF (brgP n) BRG_STAT_WIDTH s
  if w = 0 then s
  else
    let x := brgX n s
    let a := (x.laneAt[d]?).getD 0
    let last := a + flitSpan w
    let wrong := (x.odd.filter (fun e => e.1 == d)).map (fun e => (e.2, 0)) ++ errs.map (fun e => (e.1, (a + e.2) / 64))
    let odd (lg g : Nat) : Bool := wrong.countP (fun e => e == (lg, g)) % 2 == 1
    let fails := (List.range (last / 64)).flatMap (fun g => (List.range w).filter (fun lg => odd lg g))
    let open_ := ((List.range w).filter (fun lg => odd lg (last / 64))).map (fun lg => (d, lg))
    let s1 := setBrgX n { x with laneAt := listSet x.laneAt d (last % 64), odd := x.odd.filter (fun e => e.1 != d) ++ open_ } s
    let phys := fails.filterMap (fun lg => physLane n d lg s1)
    ((List.range 18).flatMap (fun l => phys.filter (fun k => k == l))).foldl (fun t l => laneFailed n d l t) s1

/-- A flit fails its CRC, or counts as one that does. -/
def brgCrcFail (n d seq : Nat) (s : State) : State :=
  recordCE (brgP n) 0x2001 (brgDetail d 31) (brgLoc d 31 seq) (bump (brgP n) BRG_CRC_COUNT 1 s)

/-- The receiver sends the credits freed so far. -/
def brgSendCredit (n d : Nat) (s : State) : State :=
  let l := brgDir n d s
  brgTell n (1 - d) (1 :: (l.freed.take 6).map (fun c => c % 256)) (setBrgDir n d { l with told := l.freed } s)

/-- Flits freed at the receiver and not yet returned. -/
def LinkDir.untold (l : LinkDir) : Nat := (l.freed.zip l.told).foldl (fun a e => a + (e.1 - e.2)) 0

/-- The header of a sequenced flit on link n, direction d, with sequence, ACK for the other direction and VC (8: control) (R589). -/
def brgHeader (n d seq ack vc : Nat) (crc : Bool) (s : State) : Take × State :=
  let o := brgDir n (1 - d) s
  let s1 := if crc then setBrgDir n (1 - d) (o.acked ack) s else brgCrcFail n d seq s
  let l := brgDir n d s1
  let t := l.take 256 seq crc
  let s2 := setBrgDir n d (l.took t vc) s1
  match t with
  | .nak => (t, brgTell n (1 - d) [2, l.rxNext] s2)
  | .duplicate => (t, brgTell n (1 - d) [0] s2)
  | .accept => (t, if vc < 8 ∧ (brgDir n d s2).untold ≥ 32 then brgSendCredit n d s2 else s2)
  | .drop => (t, s2)

/-- An accepted data flit inside a CARRY run: its home link has now accepted its home sequence, unless it had before (R596). -/
def carried (n d : Nat) (s : State) : State :=
  let l := brgDir n d s
  match l.run with
  | none => s
  | some (h, q, k) =>
    let s1 := setBrgDir n d { l with run := if k ≤ 1 then none else some (h, (q + 1) % 4096, k - 1) } s
    let m := 4 * (n / 4) + h
    let o := brgDir m d s1
    if seqDiff q o.rxNext ≥ 2048 then s1 else setBrgDir m d { o with rxNext := (q + 1) % 4096 } s1

/-- A flit from the lanes (R583, R584, R586): the lanes count its parity groups, and its CRC passes or not; `errs`: its wrong bits by lane. -/
def brgArrive (n d : Nat) (errs : List (Nat × Nat)) (s : State) : Bool × State :=
  (brgCrcPasses (getF (brgP n) BRG_STAT_WIDTH s) errs, lanePass n d errs s)

/-- BRG_FLIT_RECEIVED (R583-R590, R596, R610): a flit arrives on link n in direction d, its bits wrong on the lanes where `errs` says: a data flit of a
VC, or (`ctrl`) a control flit of an operation without a step of its own. -/
def execBrgFlitReceived (n d seq ack vc : Nat) (errs : List (Nat × Nat)) (ctrl : Bool) (op : Nat) (s : State) : Res :=
  let d := d % 2
  if n ≥ 32 then .next s
  else
    let a := brgArrive n d errs s
    let s := a.2
    if ctrl && a.1 then
      if op = 0 then .next (brgPump n (1 - d) (setBrgDir n (1 - d) ((brgDir n (1 - d) s).acked ack) s))
      else if op ≤ 6 then .next s
      else .next (brgCrcFail n d seq s)
    else
      let r := brgHeader n d seq ack (vc % 6) a.1 s
      .next (brgPump n (1 - d) (if r.1 = .accept then carried n d r.2 else r.2))

/-- BRG_CREDIT: cumulative flits freed on VC 0-5 modulo 256 come back to the sender of direction d (R592). -/
def execBrgCredit (n d ack : Nat) (c : List Nat) (s : State) : Res :=
  let d := d % 2
  if n ≥ 32 then .next s
  else
    let s := lanePass n (1 - d) [] s
    let s1 := setBrgDir n d ((brgDir n d s).heard 256 (c.take 6)) s
    .next (brgPump n d (setBrgDir n d ((brgDir n d s1).acked ack) s1))

/-- BRG_NAK: the sender of direction d resends from the named sequence (R590). -/
def execBrgNak (n d seq ack : Nat) (s : State) : Res :=
  let d := d % 2
  if n ≥ 32 then .next s
  else
    let s := lanePass n (1 - d) [] s
    let s1 := setBrgDir n d ((brgDir n d s).acked ack) s
    if (brgDir n d s1).resent ≥ 8 ∧ ¬ (brgX n s1).draining then .next (startRetrain n (setBrgDir n d { brgDir n d s1 with resent := 0 } s1))
    else .next (brgPump n d (resend n d (seq % 4096) s1))

/-- CARRY: the next `count` flits were first sent on link `home` from sequence `first` on; naming its own link, or none, it counts as a CRC
failure (R596, R611). -/
def execCarry (n d seq ack home first count : Nat) (s : State) : Res :=
  let d := d % 2
  if n ≥ 32 then .next s
  else if home = n % 4 ∨ home ≥ 4 ∨ count = 0 then .next (brgHeader n d seq ack 8 false (lanePass n d [] s)).2
  else
    let r := brgHeader n d seq ack 8 true (lanePass n d [] s)
    .next (brgPump n (1 - d) (if r.1 = .accept then setBrgDir n d { brgDir n d r.2 with run := some (home, first % 4096, count % 256) } r.2 else r.2))

/-- SWAP: at a flit boundary logical lane `lg` of direction `dir` moves to physical lane `l`; its old lane is bad (R599, R600). -/
def execSwap (n d seq ack dir lg l : Nat) (s : State) : Res :=
  let d := d % 2
  let dir := dir % 2
  if n ≥ 32 then .next s
  else
    let r := brgHeader n d seq ack 8 true (lanePass n d [] s)
    let t := r.2
    match physLane n dir lg t with
    | none => .next t
    | some old =>
      if r.1 ≠ .accept ∨ l ≥ 18 ∨ laneState n dir l t ≠ 0 then .next t
      else
        let x := brgX n t
        let t1 := showLanes n (setLane n dir l 1 lg (setLane n dir old 2 31 t))
        let t2 := setBrgX n { x with swaps := x.swaps.filter (fun w => !(w.1 == dir && w.2.1 == old)) } t1
        let t3 := recordCE (brgP n) 0x2003 (brgDetail dir old) (brgLoc dir old seq) (bump (brgP n) BRG_LADDER_SWAPS 1 t2)
        let t4 := raise (brgP n) 16 (ladderStep n 1 dir old t3)
        .next (if (brgX n t4).swaps.isEmpty then reLadder n t4 else t4)

/-- BRG_WIDTH: both ends take the width and the lane maps, which name good lanes (R582, R599, R600). -/
def execBrgWidth (n d seq ack w ab ba : Nat) (s : State) : Res :=
  let d := d % 2
  if n ≥ 32 then .next s
  else
    let r := brgHeader n d seq ack 8 true (lanePass n d [] s)
    let la := lanesOfMap ab
    let lb := lanesOfMap ba
    let good (e : Nat) (l : List Nat) : Bool := l.length == w && l.all (fun k => laneState n e k r.2 != 2)
    if r.1 = .accept ∧ (w = 8 ∨ w = 16) ∧ good 0 la ∧ good 1 lb then .next (applyWidth n w la lb r.2) else .next r.2

/-- BRG_DRAIN_END: the other end tells the last sequence it sent; no carried run goes on (R601). -/
def execBrgDrainEnd (n d seq ack : Nat) (s : State) : Res :=
  let d := d % 2
  if n ≥ 32 then .next s
  else
    let r := brgHeader n d seq ack 8 true (lanePass n d [] s)
    .next (if r.1 = .accept then setBrgDir n d { brgDir n d r.2 with run := none } r.2 else r.2)

/-- BRG_CREDIT_TIMER: the receiver of direction d returns what it has freed (R592). -/
def execBrgCreditTimer (n d : Nat) (s : State) : Res :=
  let d := d % 2
  .next (if n < 32 ∧ (brgDir n d s).untold > 0 then brgSendCredit n d s else s)

/-- BRG_REPLAY_TIMEOUT: 1 µs without ACK progress: resend from the oldest flit, or after eight resends retrain (R590, R591). The package time is then
at least that of the timeout. -/
def execBrgReplayTimeout (n d : Nat) (s : State) : Res :=
  let d := d % 2
  let l := brgDir n d s
  match l.replay with
  | [] => .next s
  | f :: _ =>
    let w := waitTill ((brgTime n d s).since + 1000) s
    if n ≥ 32 ∨ flag (brgP n) BRG_STAT_RETRAIN s then .next s
    else if l.resent ≥ 8 ∧ ¬ (brgX n s).draining then .next (startRetrain n (setBrgDir n d { l with resent := 0 } w))
    else .next (resend n d f.seq w)

/-- BRG_CREDIT_TIMEOUT: a VC has waited 1 ms without credit; the link retrains (R620). -/
def execBrgCreditTimeout (n d vc : Nat) (s : State) : Res :=
  let d := d % 2
  if n ≥ 32 ∨ ¬ brgCarries n s ∨ (brgDir n d s).free 6 8 336 (vc % 6) ≠ 0 then .next s
  else .next (startRetrain n (recordCE (brgP n) 0x2009 (brgDetail d 31) (brgLoc d 31 0)
    (waitTill (((brgTime n d s).dry[vc % 6]?).getD 0 + 1000000) s)))

/-! ### Entering service -/

/-- The link carries from now on (R595, R603). Its group comes home at once from a substitute that does not carry, with what is not acknowledged
there (R596, R617); from one that does, by GROUP_RETURN (R597). -/
def brgEnter (n : Nat) (s : State) : State :=
  let s1 := setF (brgP n) BRG_STAT_CARRYING 1 (setF (brgP n) BRG_STAT_RETRAIN 0 s)
  let sub := getF (brgP n) BRG_STAT_SUBST s1
  let s2 := if sub = n % 4 ∨ brgCarries (4 * (n / 4) + sub) s1 then s1 else moveGroup (n / 4) (n % 4) sub (n % 4) s1
  relevel (checkBridge (n / 4) (moveGroups (n / 4) (showRetraining s2)))

/-- A link just trained from OFF: sequences agree at both ends and every credit is free. -/
def brgFresh (n : Nat) (s : State) : State :=
  [0, 1].foldl (fun t d =>
    let l := brgDir n d t
    let open_ := (List.range 4).any (fun k => ((brgDir (4 * (n / 4) + k) d t).replay ++ (brgDir (4 * (n / 4) + k) d t).held).any (fun f => f.orig == n % 4))
    setBrgDir n d { LinkDir.fresh with txNext := l.txNext, rxNext := if open_ then l.rxNext else l.txNext } t) s

/-- The lanes of a link after a test, and its width (R622): whether it may enter READY. -/
def brgTested (n ab ba : Nat) (s : State) : Bool × State :=
  let mark (d m : Nat) (t : State) : State :=
    (List.range 18).foldl (fun u l => if bitOf m l then setLane n d l 0 31 u else setLane n d l 2 31 u) t
  let s1 := mark 1 ba (mark 0 ab s)
  let g := min (goodLanes n 0 s1).length (goodLanes n 1 s1).length
  let w := if g ≥ 16 then 16 else if g ≥ 8 then 8 else 0
  let m := lowLanes n w s1
  let s2 := showLanes n (setF (brgP n) BRG_STAT_WIDTH w (mapLanes n 1 m.2 (mapLanes n 0 m.1 s1)))
  (decide (w ≠ 0), s2)

/-- The link is faulted for good lanes it lacks (R620). -/
def trainFail (n : Nat) (s : State) : State :=
  loss n (recordErr (brgP n) 0x2008 2 (brgDetail 0 31) (brgLoc 0 31 0) false s)

/-- A width request of the host or the policy engine: w is 8 or 16 (R602). -/
def askWidth (n w : Nat) (s : State) : State :=
  let p := brgP n
  if !brgReady n s || flag p BRG_STAT_RETRAIN s || (brgX n s).draining || getF p BRG_STAT_WIDTH s == w then s
  else if w = 16 ∧ min (goodLanes n 0 s).length (goodLanes n 1 s).length < 16 then raise p 22 s
  else changeWidth n w 2 0 31 (ladderStep n 5 0 31 s)

/-- In manual mode BRG_CTL.WIDTH_REQ is the width asked for. -/
def manualWidth (n : Nat) (s : State) : State :=
  if flag (brgP n) BRG_CTL_MANUAL s then askWidth n (if flag (brgP n) BRG_CTL_WIDTH_REQ s then 8 else 16) s else s

/-- The end of a STARTING link's training and test (R621-R623); a width that the host asks for is evaluated again (R602, R615). -/
def brgStarted (n ab ba : Nat) (s : State) : State :=
  let r := brgTested n ab ba (setBrgX n .rest (brgFresh n s))
  if r.1 then manualWidth n (brgEnter n (setState (statOf (brgP n)) 2 r.2)) else checkBridge (n / 4) (trainFail n r.2)

/-- Lanes that did not train are bad. -/
def lanesTrained (n ab ba : Nat) (s : State) : State :=
  let drop (d m : Nat) (t : State) : State :=
    (List.range 18).foldl (fun u l => if bitOf m l then u else setLane n d l 2 31 u) t
  showLanes n (drop 1 ba (drop 0 ab s))

/-- Good lanes of the direction that has fewer. -/
def goodBoth (n : Nat) (s : State) : Nat := min (goodLanes n 0 s).length (goodLanes n 1 s).length

/-- The width that a retrain was to reach: the one it changes to, or the one before. -/
def widthMeant (n : Nat) (s : State) : Nat :=
  let x := brgX n s
  if x.why = 1 ∨ x.why = 2 then x.target else getF (brgP n) BRG_STAT_WIDTH s

/-- The first lane in use that did not train, with its direction. -/
def lostLane (n ab ba : Nat) (s : State) : Nat × Nat :=
  ([(0, ab), (1, ba)].findSome? (fun e => ((List.range 18).find? (fun l => laneState n e.1 l s == 1 && !bitOf e.2 l)).map (fun l => (e.1, l)))).getD (0, 31)

/-- A retrain at width 16 that leaves fewer than 16 good lanes in a direction is a degrade (Table 11-5, R620); `at_` is the lane that it lost. -/
def retrainDegrade (n : Nat) (at_ : Nat × Nat) (s : State) : State :=
  loss n (recordCE (brgP n) 0x2004 (brgDetail at_.1 at_.2) (brgLoc at_.1 at_.2 0) (ladderStep n 2 at_.1 at_.2 s))

/-- The link takes width w after a retrain, raises its events, resends what is not acknowledged and carries again. -/
def retrained (n w : Nat) (s : State) : State :=
  let p := brgP n
  let x := brgX n s
  let act (d : Nat) : Nat := (List.range 18).countP (fun l => laneState n d l s == 1)
  let m := lowLanes n w s
  let s2 := if getF p BRG_STAT_WIDTH s = w ∧ act 0 = w ∧ act 1 = w then s else applyWidth n w m.1 m.2 s
  let s3 := setBrgX n { brgX n s2 with why := 0, target := 0, dir := 0, lane := 31 } (raise p 20 s2)
  let s4 := if x.why = 1 ∨ w < widthMeant n s then raise p 17 s3 else s3
  let s5 := [0, 1].foldl (fun t d => match (brgDir n d t).replay with | [] => t | f :: _ => resend n d f.seq t) s4
  reLadder n (manualWidth n (brgEnter n s5))

/-- LINK_RETRAIN_DONE (R591, R599, R602, R603, R615): the retrain of link n ends with the lanes that trained, as bitmaps. -/
def execLinkRetrainDone (n ab ba : Nat) (s : State) : Res :=
  if n ≥ 32 ∨ ¬ flag (brgP n) BRG_STAT_RETRAIN s then .next s
  else
    let s1 := lanesTrained n ab ba s
    let x := brgX n s1
    if goodBoth n s1 < 8 then .next (loss n (retire n x.dir x.lane 0x2008 s1))
    else if widthMeant n s1 = 16 ∧ goodBoth n s1 < 16 then .next (retrained n 8 (retrainDegrade n (lostLane n ab ba s) s1))
    else .next (retrained n (widthMeant n s1) s1)

/-- GROUP_RETURN: a group goes home once its link carries and the substitute has every flit of it acknowledged (R597). -/
def execGroupReturn (n : Nat) (s : State) : Res :=
  let k := n % 4
  let t := 4 * (n / 4) + getF (brgP n) BRG_STAT_SUBST s
  let waits := [0, 1].any (fun d => ((brgDir t d s).replay ++ (brgDir t d s).held).any (fun f => f.home == k && decide (f.vc < 8)))
  .next (if n < 32 ∧ brgCarries n s ∧ ¬ waits then setF (brgP n) BRG_STAT_SUBST k s else s)

/-- Data flits of link n, direction d, that have not been acknowledged. -/
def flitsLeft (n d : Nat) (s : State) : List Unacked :=
  ((brgDir n d s).replay ++ (brgDir n d s).held).filter (fun f => decide (f.vc < 8))

/-- Nothing sequenced of link n waits for its acknowledgement. -/
def brgQuiet (n : Nat) (s : State) : Bool :=
  [0, 1].all (fun d => (brgDir n d s).replay.isEmpty && (brgDir n d s).held.isEmpty && (brgDir n d s).ctl.isEmpty)

/-- Herds whose flits a link leaves stranded. -/
def strandedHerds (n : Nat) (s : State) : List Nat :=
  (flitsLeft n 0 s ++ flitsLeft n 1 s).foldl (fun l f => if f.herd < 128 then nsInsert l f.herd else l) []

/-- Both directions drop what is left and tell the last sequence they sent. -/
def drainTold (n : Nat) (s : State) : State :=
  [0, 1].foldl (fun t d =>
    let l := brgDir n d t
    sendBrgCtl n d [6, (l.txNext + 4095) % 4096] (setBrgDir n d { l with replay := [], held := [], ctl := [] } t)) s

/-- One STRANDED record for a herd with flits left on link n (R601, R620): the direction and the sequence of the first of them. -/
def strand (n h : Nat) (left : List Unacked × List Unacked) (s : State) : State :=
  let mine (l : List Unacked) : Option Unacked := l.find? (fun f => f.herd == h)
  let at_ : Nat × Nat := match mine left.1 with
    | some f => (0, f.seq)
    | none => (1, match mine left.2 with | some f => f.seq | none => 0)
  recordWith (brgP n) 0x2006 2 (brgDetail at_.1 31) (brgLoc at_.1 31 at_.2) false false [h] s

/-- LINK_DRAIN_END (R601, R603): the drain of link n ends, when everything is acknowledged or 100 µs after it began; what is left is stranded and its
herds fault, with one record each; a retired link faults. -/
def execLinkDrainEnd (n : Nat) (s : State) : Res :=
  let p := brgP n
  let x := brgX n s
  if n ≥ 32 ∨ ¬ x.draining then .next s
  else
    let s1 := drainTold n (if brgQuiet n s then s else waitTill (x.since + 100000) s)
    let s2 := (strandedHerds n s).foldl (fun t h => strand n h (flitsLeft n 0 s, flitsLeft n 1 s) t) s1
    let s3 := setBrgX n { brgX n s2 with draining := false, why := 0, target := 0 } s2
    let s4 := if x.why = 3 then raise p 18 (recordErr p x.target 2 (brgDetail x.dir x.lane) (brgLoc x.dir x.lane 0) false s3) else s3
    .next (relevel (checkBridge (n / 4) s4))

/-- BRG_CTL: MANUAL and WIDTH_REQ; while MANUAL is 0 a new WIDTH_REQ is ignored with POLICY_REJECT (R602). -/
def execBrgCtlWrite (fn n v : Nat) (s : State) : Res :=
  let a := brgP n + 0x80
  .next (barWrite fn a (fun s =>
    let old := (rdW a s).toNat
    let moved := bitOf old 1 != bitOf v 1
    if lockHolds a s then writeReg a v s
    else if !bitOf old 0 && moved then manualWidth n (raise (brgP n) 23 (writeReg a (setBits v 1 1 (bitsOf old 1 1)) s))
    else manualWidth n (writeReg a v s)) s)

/-! ### Grid packets (R517-R524, R604, R605, R904) -/

/-- The hub as a place, beside rods 0-1023. -/
abbrev hubPlace : Nat := 1024

/-- Hub port rod j of frame f (Table 10-1). -/
def hubPort (f j : Nat) : Nat :=
  match f with
  | 0 => rodAt 15 (12 + j)
  | 1 => rodAt 16 (12 + j)
  | 2 => rodAt 15 (16 + j)
  | _ => rodAt 16 (16 + j)

/-- The rod at which the hub traffic of group j of frame f enters and leaves the mesh: hub port rod j, or where it is absent the next one that is not,
as the link switch joins all four to every link (R524, R581; DEDUCED, assumption log 124). -/
def portRod (f j : Nat) (s : State) : Nat :=
  ([j, (j + 1) % 4, (j + 2) % 4, (j + 3) % 4].map (fun q => hubPort f q)).find? (fun i => !rodAbsent i s) |>.getD (hubPort f j)

/-- The frame bridge and link that the hop from rod a to its neighbour b crosses, if it crosses one (R518), and the direction. -/
def hopBridge (a b : Nat) : Option (Nat × Nat × Nat) :=
  let f := rodFrame a
  let g := rodFrame b
  if f = g then none
  else
    let k := if rodX a ≠ rodX b then rodY a % 16 / 4 else rodX a % 16 / 4
    some (frameBridge f g, k, if f < g then 0 else 1)

/-- The next rod X then Y from a to b. -/
def hopXY (a b : Nat) : Nat :=
  if rodX a < rodX b then a + 1 else if rodX b < rodX a then a - 1
  else if rodY a < rodY b then a + 32 else if rodY b < rodY a then a - 32 else a

/-- Bridges that the X-then-Y route from a to b crosses. -/
def routeBridges (a b : Nat) : List Nat :=
  let fx := rodX a / 16
  let tx := rodX b / 16
  let fy := rodY a / 16
  let ty := rodY b / 16
  (if fx ≠ tx then [4 + fy] else []) ++ (if fy ≠ ty then [6 + tx] else [])

/-- Where a packet at rod `a` for `dst` is headed now: its target itself, or, as hub or relayed traffic, the hub port rod of the frame's hub path. -/
def heading (a src dst : Nat) (relay : Bool) (s : State) : Option (Nat × Bool) :=
  let toHub : Option (Nat × Bool) :=
    match hubPath (rodFrame a) s with
    | none => none
    | some (_, g) => some (portRod g (rodX (src % 1024) % 16 / 4) s, true)
  if dst = hubPlace then toHub
  else if relay || (routeBridges a dst).any (fun b => removed b s) then toHub
  else some (dst, false)

/-- Free credits on link n, direction d for k flits of a VC: all of them, and room in the replay buffer. -/
def brgRoom (n d vc k : Nat) (s : State) : Bool :=
  let l := brgDir n d s
  decide (l.replay.length + k ≤ 256) && l.held.isEmpty && l.ctl.isEmpty && decide (l.free 6 8 336 vc ≥ k)

/-- Flits of a packet of `len` bytes with its 8-byte bridge header (R587). -/
def pktFlits (len : Nat) : Nat := (8 + (len + 7) / 8 * 8 + 63) / 64

/-- Send a packet's flits, given by their payloads, in group g of bridge b on its carrier. -/
def brgSend (b g d vc herd : Nat) (pays : List (List Byte)) (s : State) : State :=
  match carrier b g s with
  | none => s
  | some n =>
    let l := brgDir n d s
    let l1 := l.send vc g (n % 4) herd true pays
    emitFlits n d (l1.replay.drop l.replay.length) (brgBytes n d pays.length (setBrgDir n d l1 s))

/-- A packet may take the hop from rod a to rod b: a credit bit of its class there, no absent rod, and room on a bridge it crosses. -/
def hopFree (a b vc k : Nat) (cred : Bool) (s : State) : Bool :=
  cred && !rodAbsent b s && decide (b < 1024)
    && (match hopBridge a b with
        | none => true
        | some (br, g, d) => !removed br s && (match carrier br g s with | some n => brgRoom n d vc k s | none => false))

/-- Directions: 0 +x, 1 -x, 2 +y, 3 -y. -/
def neighbour (a dir : Nat) : Option Nat :=
  match dir with
  | 0 => if rodX a < 31 then some (a + 1) else none
  | 1 => if rodX a > 0 then some (a - 1) else none
  | 2 => if rodY a < 31 then some (a + 32) else none
  | _ => if rodY a > 0 then some (a - 32) else none

/-- Productive directions from a to b. -/
def productive (a b : Nat) : List Nat :=
  (if rodX a < rodX b then [0] else if rodX b < rodX a then [1] else [])
    ++ (if rodY a < rodY b then [2] else if rodY b < rodY a then [3] else [])

/-- The direction of a hop. -/
def dirOf (a b : Nat) : Nat := if b = a + 1 then 0 else if b + 1 = a then 1 else if b = a + 32 then 2 else 3

/-- A grid packet on its way: class, source, target, where it stands, payload, poison mask, and the herd that it counts against. -/
structure GridPkt where
  cls : Nat
  src : Nat
  dst : Nat
  here : Nat
  data : List Byte
  mask : Nat
  herd : Nat
  deriving DecidableEq, Repr

/-- The packet leaves for `nxt` in class c. -/
def GridPkt.go (x : GridPkt) (c nxt : Nat) (rel : Bool) (s : State) : State := emit (.grid c x.src x.dst ([x.here, nxt, x.data.length, x.mask, b2n rel] ++ x.data.map (·.toNat))) s

/-- The payloads of its flits on a bridge: its bridge header and its payload padded to a multiple of 8 bytes (R587, assumption log 39). -/
def GridPkt.pays (x : GridPkt) : List (List Byte) :=
  chunks 64 (leBytes 8 (Config.brgHeader x.data.length x.src x.dst x.cls).toNat ++ padded8 x.data)

/-- A hop from rod to rod, over the bridge between them if there is one. -/
def GridPkt.hop (x : GridPkt) (c nxt : Nat) (rel : Bool) (s : State) : State :=
  x.go c nxt rel (match hopBridge x.here nxt with
    | some (b, g, d) => brgSend b g d c x.herd x.pays s
    | none => s)

/-- The rod in direction `dir`, when the packet may go there in class c: `cred` holds the credit bits of its class, those of the escape class
above them. -/
def GridPkt.way (x : GridPkt) (cred c dir : Nat) (s : State) : Option Nat :=
  match neighbour x.here dir with
  | some nxt => if hopFree x.here nxt c (pktFlits x.data.length) (bitOf cred (if c = x.cls then dir else dir + 4)) s then some nxt else none
  | none => none

/-- The X-then-Y path from a to b, of at most `f` hops, meets no absent position. -/
def pathClear (b : Nat) (s : State) : Nat → Nat → Bool
  | 0, _ => true
  | f + 1, a => a == b || (!rodAbsent (hopXY a b) s && pathClear b s f (hopXY a b))

/-- A position that the detour table of frames f and g covers: present, and not across a frame bridge that is removed. -/
def detourStep (f g a dir : Nat) (s : State) : Option Nat :=
  match neighbour a dir with
  | some b =>
    if (rodFrame b == f || rodFrame b == g) && !rodAbsent b s
        && (match hopBridge a b with | none => true | some (br, _, _) => !removed br s) then some b else none
  | none => none

/-- The positions of frames f and g by their distance round absent positions: the list of those one hop away from `fr` and not yet seen, and so on. -/
def detourRings (f g : Nat) (s : State) : Nat → List Nat → List Nat → List (List Nat)
  | 0, _, _ => []
  | k + 1, seen, fr =>
    if fr.isEmpty then []
    else
      let new := (fr.flatMap (fun a => (List.range 4).filterMap (fun d => detourStep f g a d s))).filter (fun b => !seen.contains b)
      let next := new.foldl nsInsert []
      fr :: detourRings f g s k (seen ++ next) next

/-- The detour table (R28, R524): where a packet at `a` for `b` goes next. X then Y while that path meets no absent position; else onto the row or
column of a shortest way round them within the frame, the X-then-Y direction first and then those that lead towards b (DEDUCED, assumption log 124). -/
def detour (a b : Nat) (s : State) : Option Nat :=
  if pathClear b s 64 a then some (hopXY a b)
  else
    let rings := detourRings (rodFrame a) (rodFrame b) s 512 [b] [b]
    match rings.findIdx? (fun r => r.contains a) with
    | some (k + 1) =>
      (dirOf a (hopXY a b) :: productive a b ++ [0, 1, 2, 3]).findSome? (fun d =>
        match detourStep (rodFrame a) (rodFrame b) a d s with
        | some c => if ((rings[k]?).getD []).contains c then some c else none
        | none => none)
    | _ => none

/-- The packet goes X then Y in class c, round absent positions by the detour table: within a herd's rectangle there is none. -/
def GridPkt.inOrder (x : GridPkt) (cred c tgt : Nat) (rel : Bool) (s : State) : State :=
  match detour x.here tgt s with
  | none => s
  | some b =>
    match x.way cred c (dirOf x.here b) s with
    | some nxt => x.hop c nxt rel s
    | none => s

/-- The first productive direction with credit for an adaptive packet, `pick` before the others. -/
def GridPkt.adaptive (x : GridPkt) (cred pick tgt : Nat) (s : State) : Option Nat :=
  let prod := productive x.here tgt
  ((if prod.contains pick then [pick] else []) ++ prod).findSome? (fun d => x.way cred x.cls d s)

/-- Two rods that are not both of one herd (R526). -/
def strangers (a b : Nat) (s : State) : Bool :=
  decide (a < 1024) && decide (b < 1024) && !((herdOfRod a s).isSome && herdOfRod a s == herdOfRod b s)

/-- GRID_PACKET_HOP (R517-R524, R604, R605, R904): a packet of class `cls` (Table 10-2: 0 request, 1 response, 2 message, 3 ring, 4 management,
5 escape) from `src` to `dst` (rods, or 1024 the hub) stands at `at_` and moves on if it can. `cred` holds the credit bits of its class
towards +x, -x, +y, -y, and those of the escape class above them; `pick` is the direction that an adaptive packet would take first;
`relay` marks relayed traffic; `data` is its payload of 1-256 bytes (R520), `mask` its poison mask. A packet between rods that are not of one
herd goes nowhere (R526). -/
def execGridPacketHop (cls src dst at_ pick cred : Nat) (data : List Byte) (mask : Nat) (relay : Bool) (s : State) : Res :=
  let k := pktFlits data.length
  let x : GridPkt := ⟨cls, src, dst, at_, data, mask, (herdOfRod (if src < 1024 then src else dst) s).getD 128⟩
  if at_ = dst ∨ cls > 5 ∨ at_ > hubPlace ∨ data.isEmpty ∨ data.length > 256 ∨ strangers src dst s then .next s
  else if at_ = hubPlace then
    match hubPath (rodFrame dst) s with
    | none => .next s
    | some (bs, g) =>
      let j := rodX dst % 16 / 4
      let b := (bs.getLast?).getD g
      match carrier b j s with
      | some n => .next (if brgRoom n 0 cls k s then x.go cls (portRod g j s) false (brgSend b j 0 cls x.herd x.pays s) else s)
      | none => .next s
  else match heading at_ src dst relay s with
    | none => .next s
    | some (tgt, hub) =>
      let rel := hub && dst != hubPlace
      if hub ∧ at_ = tgt then
        let f := rodFrame at_
        let q := rodX (src % 1024) % 16 / 4
        match carrier f q s with
        | some n => .next (if brgRoom n 1 cls k s then x.go cls hubPlace rel (brgSend f q 1 cls x.herd x.pays s) else s)
        | none => .next s
      else if cls ≤ 1 then
        match x.adaptive cred pick tgt s with
        | some nxt => .next (x.hop cls nxt rel s)
        | none => .next (x.inOrder cred 5 tgt rel s)
      else .next (x.inOrder cred cls tgt rel s)

end Sys2Proof.Machine
end

