-- ==== Sys2Proof/Machine/MgsCore.lean ====
section
/-! DEFINITION. The management subsystem's own work (chapter 16): the tally log's tiers (R827-R834), starts and restarts of MGS
(R839, R840, Table 16-10), the update session (R836-R838, R849) and licences (R842). -/
namespace Sys2Proof.Machine

/-- Store MGS. -/
def setMgs (m : Mgs) (s : State) : State := { s with mgs := m }

/-- Tier of the log: 0 flash, 1 reserve, 2 RAM. -/
def tier (s : State) : Nat := getF (mgsP 0) MB_LOGSTAT_TIER s

/-! ### Records -/

/-- The 64 bytes of a record (Table 16-7). -/
def TRec.bytes (r : TRec) : List Byte :=
  let b := leBytes 8 r.seq ++ leBytes 4 r.boot ++ leBytes 8 r.time ++ leBytes 1 r.kind ++ leBytes 1 r.src ++ leBytes 2 r.code
    ++ leBytes 4 r.page ++ leBytes 2 r.info ++ leBytes 2 0 ++ (r.data ++ List.replicate (28 - r.data.length) 0).take 28
  b ++ leBytes 4 (crc32c b)

/-- The order of records (R825). -/
def TRec.le (a b : TRec) : Bool := decide (a.boot < b.boot) || (a.boot == b.boot && decide (a.seq ≤ b.seq))
def TRec.same (a b : TRec) : Bool := a.boot == b.boot && a.seq == b.seq

/-- A record of MGS itself, of a kind whose CODE the spec does not give: a free value. -/
def tallyFree (kind page : Nat) (data : List Byte) (s : State) : State :=
  let r := takeFree s
  tally kind 1 (r.1 % 65536) page 0 data r.2

/-- A KIND 9 record (R1022). -/
def tallyLog (code : Nat) (data : List Byte) (s : State) : State := tallyNow ⟨0, 0, s.now, 9, 1, code, 0xFFFFFFFF, 0, data⟩ s

/-- The newest record goes before those that wait for their tier. -/
def pendFirst (s : State) : State :=
  match s.mgs.pend.reverse with
  | [] => s
  | r :: t => setMgs { s.mgs with pend := r :: t.reverse } s

/-- A record is written only to RAM (R832). -/
def ramOnly (s : State) : State := bump (mgsP 0) MB_UNPERS_COUNT 1 s

/-- The log switches to RAM (R832): LOST, the switch record first. `cause` and `fc` as Table 16-13 gives; `seq` that of the failed record. -/
def logToRam (cause fc seq : Nat) (s : State) : State :=
  let s1 := setF (mgsP 0) MB_LOGSTAT_LOST 1 (setF (mgsP 0) MB_LOGSTAT_TIER 2 s)
  let s2 := pendFirst (tallyLog 2 (leBytes 1 cause ++ leBytes 1 fc ++ leBytes 2 0 ++ leBytes 8 seq) s1)
  bmcEvent 5 2 (raise glbP 19 s2)

/-- A write to the reserve failed its verify (R832): the switch record, if there is one, comes before that of RESERVE_FAIL. -/
def reserveFailed (seq : Nat) (s : State) : State :=
  let s1 := setMgs { s.mgs with rsvFailed := true } s
  recordCE (mgsP 0) 0x0203 0 0 (if tier s1 = 1 then logToRam 1 0 seq s1 else s1)

/-- The update session began, was verified, activated or abandoned: FW_STATE and a KIND 6 record (R826). -/
def fwEvent (s : State) : State := tallyFree 6 0xFFFFFFFF [] ((List.range 128).foldl (fun t f => raise (mgsP f) 18 t) s)

/-- Firmware slot k. -/
def slotOf (k : Nat) (s : State) : Slot := if k = 0 then s.mgs.slotA else s.mgs.slotB

/-- Store a firmware slot. -/
def setSlot (k : Nat) (x : Slot) (s : State) : State :=
  setMgs (if k = 0 then { s.mgs with slotA := x } else { s.mgs with slotB := x }) s

/-- An update session is abandoned, with its slot invalid (R836, R849, R850). -/
def sessionDrop (s : State) : State :=
  match s.mgs.session with
  | none => s
  | some x =>
    let s1 := setSlot x.slot { slotOf x.slot s with valid := false } s
    fwEvent (setMgs { s1.mgs with session := none, updState := 0 } s1)

/-- The flash becomes unusable (R829, R830, R849): cause 1 no spare, 2 three timeouts, 3 identification. -/
def flashLost (cause : Nat) (s : State) : State :=
  if s.mgs.flashBad then s
  else
    let s1 := sessionDrop (setMgs { s.mgs with flashBad := true, flashCause := cause } s)
    let oldest := match s1.mgs.pend with | r :: _ => r.seq | [] => 0
    let s2 :=
      if s1.mgs.rsvFailed then logToRam 2 cause oldest s1
      else
        let t := pendFirst (tallyLog 1 (leBytes 1 cause ++ leBytes 3 0 ++ leBytes 8 oldest) (setF (mgsP 0) MB_LOGSTAT_TIER 1 s1))
        bmcEvent 5 1 (raise glbP 18 (setMgs { t.mgs with switchRec := some (t.mgs.boot, t.mgs.seq) } t))
    recordCE (mgsP 0) 0x0202 0 0 s2

/-- Put a record into the reserve ring of 512: the oldest but the switch record gives way (R831). -/
def reservePut (r : TRec) (s : State) : State :=
  let l := s.mgs.reserve
  if l.length < 512 then setMgs { s.mgs with reserve := l ++ [r] } s
  else
    let old := l.find? (fun x => some (x.boot, x.seq) != s.mgs.switchRec)
    let l1 := match old with | some x => l.erase x | none => l.tail
    bump (mgsP 0) MB_RSVOVW_COUNT 1 (setMgs { s.mgs with reserve := l1 ++ [r] } s)

/-- A copy of a record goes to the reserve beside its tier (R832, Table 17-4); `ok`: the write passes its verify. -/
def reserveCopy (r : TRec) (ok : Bool) (s : State) : State :=
  if tier s ≠ 0 ∨ s.mgs.rsvFailed then s
  else if ok then reservePut r s
  else reserveFailed r.seq s

/-- Logical sector k of the tally area; sector k lies in physical sector 1,052 + k until it is retired (Table 16-8). -/
def sectOf (k : Nat) (s : State) : TSect := alGetD s.mgs.sects k ⟨1052 + k, 0, []⟩

/-- The logical sector that takes the next record, erased if it is full of older ones (R827); none while an erase is needed and PWR_WARN_N
is low (R981). -/
def sectNext (s : State) : Option (Nat × TSect) :=
  let k := s.mgs.cur
  let c := sectOf k s
  if c.recs.length < 63 then some (k, c)
  else
    let k1 := (k + 1) % 1024
    let d := sectOf k1 s
    if d.recs.isEmpty then some (k1, d)
    else if s.mgs.noFlash then none
    else some (k1, { d with gen := d.gen + 1, recs := [] })

/-- Write the oldest waiting record to its tier (R826); `ok` says that a reserve write passes its verify. -/
def persistOne (ok : Bool) (s : State) : State :=
  match s.mgs.pend with
  | [] => s
  | r :: rest =>
    match tier s with
    | 0 =>
      match sectNext s with
      | none => s
      | some (k, c) =>
        setMgs { s.mgs with
          pend := rest, cur := k, xspiRun := 0
          sects := alSet s.mgs.sects k { c with recs := c.recs ++ [r] } } s
    | 1 => if ok then reservePut r (setMgs { s.mgs with pend := rest } s) else reserveFailed r.seq s
    | _ => ramOnly (setMgs { s.mgs with pend := rest } s)

/-- Flush the log: every waiting record is written. -/
def persistAll (s : State) : State := (List.range s.mgs.pend.length).foldl (fun t _ => persistOne true t) s

/-- Records of the flash tally area, oldest first. -/
def flashRecs (s : State) : List TRec :=
  let ks := (List.range 1024).map (fun i => (s.mgs.cur + 1 + i) % 1024)
  ks.flatMap (fun k => (sectOf k s).recs)

/-- Insert a record into a sorted list without repeats. -/
def recInsert (r : TRec) : List TRec → List TRec
  | [] => [r]
  | x :: t => if x.same r then x :: t else if r.le x then r :: x :: t else x :: recInsert r t

/-- Sort records and drop repeats. -/
def recSort (l : List TRec) : List TRec := l.foldl (fun a r => recInsert r a) []

/-- What LOG_READ serves of a source (R1023). -/
def logSource (src : Nat) (s : State) : List TRec :=
  let flash := if s.mgs.flashCause = 2 then [] else flashRecs s
  match src with
  | 1 => recSort flash
  | 2 => recSort s.mgs.reserve
  | 3 => recSort s.mgs.ring
  | _ =>
    match tier s with
    | 0 => recSort (flash ++ s.mgs.pend.filter (fun r => s.mgs.ring.any (fun x => x.same r)))
    | 1 => recSort (s.mgs.reserve ++ s.mgs.pend.filter (fun r => s.mgs.ring.any (fun x => x.same r)))
    | _ => recSort (s.mgs.reserve ++ s.mgs.ring)

/-! ### Slots, starts and restarts -/

/-- Bytes o to o + n - 1 of an image header as a number. -/
def hdrNum (h : List Byte) (o n : Nat) : Nat := leNat ((h.drop o).take n)

/-- The fields and zero fields of an image header (Table 16-9). -/
def hdrOk (h : List Byte) : Bool :=
  let zero (o n : Nat) : Bool := hdrNum h o n == 0
  let len := hdrNum h 16 4
  h.length == 256 && hdrNum h 0 4 == Config.imageMagic.toNat && hdrNum h 4 4 == 1 && zero 11 1 && decide (hdrNum h 12 1 < 64)
    && decide (hdrNum h 13 1 < 2) && zero 14 2 && decide (4096 ≤ len) && decide (len ≤ 1572864) && len % 8 == 0 && zero 20 44 && zero 112 48

/-- Body bytes of an image, in order. -/
def bodyBytes (l : List Host.Cell) (len : Nat) : List Byte := (List.range len).map (fun o => alGetD l o 0)

/-- Every body byte is there and the SHA-384 of the body is that of the header (R837, R840). -/
def bodyOk (h : List Byte) (l : List Host.Cell) : Bool :=
  let len := hdrNum h 16 4
  (List.range len).all (fun o => (alGet l o).isSome) && sha384 (bodyBytes l len) == (h.drop 64).take 48

/-- The boot ROM accepts slot k (R840); `sig`: the header's signature is good. -/
def slotGood (k : Nat) (sig : Bool) (s : State) : Bool :=
  let x := slotOf k s
  x.valid && hdrOk x.hdr && sig && bodyOk x.hdr x.body && decide (s.mgs.otpSvn ≤ hdrNum x.hdr 12 1)

/-- Show the running image (MB_INFO). -/
def showImage (slot : Nat) (trial : Bool) (s : State) : State :=
  let h := (slotOf slot s).hdr
  setF (mgsP 0) MB_INFO_SLOT slot (setF (mgsP 0) MB_INFO_TRIAL (b2n trial) (setF (mgsP 0) MB_INFO_VERSION (hdrNum h 8 3) s))

/-- MGS changes state: 0 boot, 1 run, 2 restart, 3 recovery; every mailbox page's STATE shows it. -/
def setMstate (m : Nat) (s : State) : State :=
  let st := match m with | 1 => 2 | 3 => 5 | _ => 1
  (List.range 128).foldl (fun t f => putState (statOf (mgsP f)) st t) (setF (mgsP 0) MB_INFO_MSTATE m s)

/-- MGS restarts (Table 16-10 steps 1 and 2). -/
def mgsRestart (s : State) : State :=
  let s1 := (List.range 128).foldl (fun t f => raise (mgsP f) 17 t) s
  setMstate 2 (setMgs { s1.mgs with startAt := s1.now } s1)

/-- A trial that is not committed goes back to the active slot (R839). -/
def rollback (s : State) : State :=
  recordCE (mgsP 0) 0x0205 0 0 (setMgs { s.mgs with trial := none, trialRun := false } s)

/-- The slot that the boot ROM starts: the trial slot that has not been tried, the active slot, the other one (R838-R840). -/
def bootOrder (s : State) : List Nat :=
  let a := s.mgs.active
  match s.mgs.trial with
  | some t => if s.mgs.trialRun then [a, 1 - a] else t :: (if t = a then [1 - a] else [a])
  | none => [a, 1 - a]

/-- The boot ROM selects an image: its slot, if any passes, with IMAGE_BAD for each that failed and ROLLBACK for a trial given up. `recov`: no slot
is tried (R976). -/
def bootSelect (sigA sigB recov : Bool) (s : State) : Option Nat × State :=
  if recov || s.mgs.otpBad then (none, s)
  else
    let good (k : Nat) : Bool := slotGood k (if k = 0 then sigA else sigB) s
    let order := bootOrder s
    let pick := order.find? good
    let tried := (order.takeWhile (fun k => !good k)).filter (fun k => (slotOf k s).valid)
    let s1 := tried.foldl (fun t _ => recordCE (mgsP 0) 0x0204 0 0 t) s
    match s1.mgs.trial with
    | some t =>
      if pick = some t ∧ ¬ s1.mgs.trialRun then (pick, setMgs { s1.mgs with trialRun := true } s1)
      else (pick, rollback s1)
    | none => (pick, s1)

/-- MGS drains the FIFO of what was held while it did not run (Table 16-10 step 5). -/
def drainFifo (s : State) : State :=
  let held := s.mgs.fifo
  let ovf := s.mgs.fifoOvf
  let s1 := held.foldl (fun t r => tallyNow r t) (setMgs { s.mgs with fifo := [], fifoOvf := false } s)
  if ovf then recordCE (mgsP 0) 0x020A 0 0 s1 else s1

/-- MGS starts the image of a slot, or recovery when there is none. -/
def mgsRuns (pick : Option Nat) (s : State) : State :=
  let s1 := match pick with
    | some k => showImage k (s.mgs.trial == some k && s.mgs.trialRun) (setMstate 1 s)
    | none => setMstate 3 s
  drainFifo (setMgs { s1.mgs with runAt := s1.now } s1)

/-- What a fall of PWR_WARN_N makes MGS and the hub do (Table 21-8 step 2): the log is flushed, a KIND 2 record for GLB with CODE 21 follows it
to its tier, and PWR_WARN is raised. -/
def pwrWarnLog (s : State) : State :=
  let s1 := if mstate s = 1 ∨ mstate s = 3 then persistAll s else s
  let s2 := tally 2 1 21 0 0 [] s1
  raise glbP 21 (if mstate s = 1 ∨ mstate s = 3 then persistAll s2 else s2)

/-! ### Licences -/

/-- Pages of the licensed features (R13, R842): port, router and end-to-end pages; pipe pages. -/
def licPages : List (Nat × Nat) :=
  (List.range 16).map (fun p => (rlpP p, 0)) ++ (List.range 16).map (fun j => (rtrP j, 0)) ++ (List.range 16).map (fun j => (e2eP j, 0))
    ++ (List.range 4).flatMap (fun v => [(vpxP v, 1), (venP v, 1), (tnzP v, 1)])

/-- A feature set comes into force (R842): GLB_LIC, LIC_OK of every licensed page, LICENCE_CHANGE. -/
def applyLic (l : Option Lic) (s : State) : State :=
  let f := match l with | some x => x.features % 16 | none => 0
  let s1 := setF glbP GLB_LIC_FEATURES f (setF glbP GLB_LIC_HERD_LIMIT (if bitOf f 2 then 128 else 16)
    (setF glbP GLB_LIC_CAP_MAX_W (if bitOf f 3 then 950 else 600) s))
  let pages := licPages.filter (fun q => match pageOf q.1 with | some (k, _) => licensed k | none => false)
  let s2 := pages.foldl (fun t q => setF q.1 PG_CAP_LIC_OK (b2n (bitOf f q.2)) t) s1
  raise glbP 17 (setMgs { s2.mgs with licForce := l } s2)

/-- A KIND 7 record (R1025). -/
def tallyLic (code src : Nat) (l : Option Lic) (s : State) : State :=
  let d := match l with | some x => leBytes 4 x.issue ++ leBytes 1 (x.features % 16) | none => leBytes 5 0
  tally 7 src code 0xFFFFFFFF 0 d s

/-! ### The power cap -/

/-- Effective cap: 0.95 x cap while guard bands are widened (R865). -/
def showEffCap (s : State) : State :=
  let c := getF (thmP 1) THM_CAP_WATTS s
  setF (thmP 1) THM_POWER_EFFCAP (if flag (thmP 1) THM_EST_GUARD s then c * 95 / 100 else c) s

/-- A power-cap write (R14, R865). -/
def capWrite (w : Nat) (s : State) : State :=
  let hi := getF glbP GLB_LIC_CAP_MAX_W s
  let c := if w > hi then hi else if w < 300 then 300 else w
  let s1 := setF (thmP 1) THM_CAP_WATTS c s
  showEffCap (if c = w then s1 else raise (thmP 1) 16 (setF (thmP 1) THM_CAP_CLAMPED 1 s1))

end Sys2Proof.Machine
end

