-- ==== Sys2Proof/Machine/Mgs.lean ====
section
/-! DEFINITION. Family: the management subsystem's mailbox (chapter 16): the order in which MGS takes and checks requests (R820-R824, R1024), each
command of Table 16-5, and the events of its log, update session and restarts. Whether a signature is good, and whether a flash write
verifies, is an operand. -/
namespace Sys2Proof.Machine

/-! ### Sensor readings (R824) -/

/-- The 32-bit reading of a sensor (R824, Table 16-6). -/
def sensorWord (id : Nat) (s : State) : Nat :=
  let word (band unit val : Nat) : Nat := 2 ^ 31 + band % 8 * 2 ^ 28 + unit * 2 ^ 24 + val % 2 ^ 20
  let kept (unit : Nat) : Nat :=
    match alGet s.thm.sens id with
    | some x => if x.valid then word x.band unit x.val else 0
    | none => 0
  if id < 0x600 then kept 0
  else if id < 0x618 then kept 0
  else if id < 0x800 then 0
  else if id < 0x840 then word 0 1 (getF (islP (id - 0x800)) ISL_VNOW_MV s * 16)
  else if id < 0x848 then kept 1
  else if id = 0x860 then word 0 2 (getF (thmP 1) THM_POWER_PKG s * 16)
  else if id = 0x861 then word 0 2 (getF (thmP 1) THM_CAP_WATTS s * 16)
  else if id < 0x880 then 0
  else if id < 0x8C0 then word 0 2 (getF (islP (id - 0x880)) ISL_POWER_POWER s)
  else 0

/-- Sensors that VF v may name: its herd's rods, and the memory layers over its herd's islands (Table 16-5). -/
def sensorAllowed (v id : Nat) (s : State) : Bool :=
  if id < 0x400 then (herdRods v s).contains id
  else if id < 0x600 then
    let d := id - 0x400
    (herdRods v s).any (fun i => rodIsland i == 16 * (d / 128) + d % 16)
  else false

/-! ### Taking and checking a request (R820, R821, R1024) -/

/-- MB_CMD (R820, R843): a write with GO submits the request that MB_REQ holds; while BUSY it is ignored with STATE_REJECT. -/
def execMbCmd (fn f v : Nat) (s : State) : Res :=
  .next (barWrite fn (mgsP f + 0x80) (fun s =>
    if !bitOf v 31 then s
    else if flag (mgsP f) MB_STAT_BUSY s then raise (mgsP f) 3 s
    else
      let len := bitsOf v 27 16
      let data := ((List.range 512).flatMap (fun w => leBytes 4 (rdW (mgsP f + 0x100 + 4 * w) s).toNat)).take len
      setF (mgsP f) MB_STAT_BUSY 1 (setMgs { s.mgs with queue := s.mgs.queue ++ [⟨f, v % 256, bitsOf v 15 8, len, data⟩] } s)) s)

/-- How far agent a comes after the agent served last in the round. -/
def rrDist (last a : Nat) : Nat := (a + 130 - (last + 1) % 130) % 130

/-- The request that MGS takes next: round robin over agents, oldest first of one agent (R821). -/
def mbNext (s : State) : Option MbReq :=
  s.mgs.queue.foldl (fun best r =>
    match best with
    | none => some r
    | some b => if rrDist s.mgs.rr r.agent < rrDist s.mgs.rr b.agent then some r else some b) none

/-- A row of Table 16-5: the agents P, V, H, B, whether it acts in recovery, and the LEN it takes. -/
structure MbOp where
  p : Bool
  v : Bool
  h : Bool
  b : Bool
  r : Bool
  len : Nat → Bool

/-- Table 16-5. -/
def mbOp (op : Nat) : Option MbOp :=
  let is (n : Nat) : Nat → Bool := fun l => l == n
  match op with
  | 0x00 => some ⟨true, true, true, true, true, is 0⟩
  | 0x01 => some ⟨true, true, true, true, true, is 0⟩
  | 0x02 => some ⟨true, true, true, true, false, is 4⟩
  | 0x10 => some ⟨true, false, true, true, true, is 14⟩
  | 0x11 => some ⟨true, true, true, true, false, is 32⟩
  | 0x12 => some ⟨true, false, false, true, false, is 0⟩
  | 0x20 => some ⟨true, false, true, true, true, is 256⟩
  | 0x21 => some ⟨true, false, true, true, true, fun l => decide (16 ≤ l) && decide (l ≤ 2048)⟩
  | 0x22 => some ⟨true, false, true, true, true, is 2⟩
  | 0x23 => some ⟨true, false, true, true, true, is 3⟩
  | 0x24 => some ⟨true, false, true, true, true, is 2⟩
  | 0x30 => some ⟨true, false, true, true, false, is 160⟩
  | 0x31 => some ⟨true, true, true, true, false, is 0⟩
  | 0x40 => some ⟨true, false, false, false, false, is 4⟩
  | 0x48 => some ⟨true, false, true, true, false, is 1⟩
  | 0x49 => some ⟨true, false, false, true, false, fun l => decide (9 ≤ l) && decide (l ≤ 2048)⟩
  | 0x50 => some ⟨true, false, true, true, false, is 0⟩
  | 0x51 => some ⟨true, false, false, true, false, fun l => decide (16 ≤ l) && l % 16 == 0 && decide (l ≤ 2048)⟩
  | 0x52 => some ⟨true, false, true, true, false, is 2⟩
  | 0x60 => some ⟨true, false, true, true, false, is 2⟩
  | _ => none

/-- The operation lists the agent (R813, Table 16-2). -/
def MbOp.lists (o : MbOp) (agent : Nat) : Bool :=
  if agent = 0 then o.p else if agent < 128 then o.v else if agent = 128 then o.h else o.b

/-- Checks 1 to 4 of R1024: the status of the first that fails. -/
def mbCheck (r : MbReq) (s : State) : Option Nat :=
  match mbOp r.op with
  | none => some 2
  | some o =>
    if !o.lists r.agent then some 5
    else if mstate s == 3 && !o.r then some 0xC
    else if decide (r.len > 2048) || !o.len r.len then some 3
    else none

/-- A request completes (R820 steps 3 and 4): in its mailbox, or as an MCTP reply with MB_STAT and the response (R814). -/
def mbDone (r : MbReq) (st : Nat) (resp : List Byte) (s : State) : State :=
  let rsp := resp.take 1792
  let stat := st % 256 + r.tag % 256 * 2 ^ 8 + rsp.length * 2 ^ 16
  if r.agent < 128 then
    let p := mgsP r.agent
    let words := (rsp.length + 3) / 4
    let s1 := (List.range words).foldl (fun t w =>
      let old := (leBytes 4 (rdW (p + 0x900 + 4 * w) t).toNat).drop ((rsp.drop (4 * w)).take 4).length
      wrW (p + 0x900 + 4 * w) (BitVec.ofNat 32 (leNat ((rsp.drop (4 * w)).take 4 ++ old))) t) s
    raise p 16 (wrW (p + 0x84) (BitVec.ofNat 32 stat) s1)
  else emit (.mctp (r.agent - 127) (leBytes 4 stat ++ rsp)) s

/-- MGS takes commands: it runs its firmware or, in recovery, the boot ROM (R840, R855). -/
def mgsServes (s : State) : Bool := mstate s == 1 || mstate s == 3

/-- A command that wrote flash: the run of xSPI timeouts ends (R829). -/
def xspiAnswered (op st : Nat) (s : State) : State :=
  if st = 0 && [0x20, 0x21, 0x22, 0x23, 0x24, 0x30, 0x49, 0x51].contains op then setMgs { s.mgs with xspiRun := 0 } s else s

/-- MGS takes its next request if it is one that `op` selects, and checks and executes it: `f` answers status, response and state, its own
checks included. -/
def mbRun (op : Nat → Bool) (f : MbReq → State → Nat × List Byte × State) (s : State) : State :=
  if !mgsServes s then s
  else match mbNext s with
  | none => s
  | some r =>
    if !op r.op then s
    else
      let s1 := setMgs { s.mgs with queue := s.mgs.queue.erase r, rr := r.agent } s
      match mbCheck r s1 with
      | some st => mbDone r st [] s1
      | none => let a := f r s1; mbDone r a.1 a.2.1 (xspiAnswered r.op a.1 a.2.2)

/-- A command that fails: no effect (R1024). -/
def mbFail (st : Nat) (s : State) : Nat × List Byte × State := (st, [], s)

/-- Bytes o to o + n - 1 of a request as a number. -/
def MbReq.num (r : MbReq) (o n : Nat) : Nat := leNat ((r.data.drop o).take n)

/-- Flash can be written: usable, and PWR_WARN_N high (R981, R849); `ok`: the write passes its verify. -/
def flashWrites (ok : Bool) (s : State) : Bool := !s.mgs.flashBad && !s.mgs.noFlash && ok

/-! ### General commands -/

/-- NOP. -/
def execMbNop (s : State) : Res := .next (mbRun (fun o => o == 0) (fun _ s => (0, [], s)) s)

/-- An opcode that Table 16-5 does not list. -/
def execMbBadOpcode (s : State) : Res := .next (mbRun (fun o => (mbOp o).isNone) (fun _ s => (2, [], s)) s)

/-- Version of the image in a slot as a 32-bit word. -/
def slotVersion (k : Nat) (s : State) : Nat := hdrNum (slotOf k s).hdr 8 4

/-- GET_INFO. -/
def execGetInfo (s : State) : Res :=
  .next (mbRun (fun o => o == 1) (fun _ s =>
    let a := s.mgs.active
    let other := if (slotOf (1 - a) s).valid then slotVersion (1 - a) s else 0
    (0, leBytes 8 Config.serial.toNat ++ leBytes 1 (getF glbP GLB_PART_STEPPING s) ++ leBytes 1 (if mstate s = 3 then 1 else 0)
      ++ leBytes 1 a ++ leBytes 1 (getF (mgsP 0) MB_INFO_TRIAL s) ++ leBytes 4 (slotVersion a s) ++ leBytes 4 other
      ++ leBytes 1 s.mgs.otpSvn ++ leBytes 1 (tier s) ++ leBytes 2 0, s)) s)

/-- SENSOR_READ (R824). -/
def execSensorRead (s : State) : Res :=
  .next (mbRun (fun o => o == 2) (fun r s =>
    let first := r.num 0 2
    let n := r.num 2 2
    if n = 0 ∨ n > 256 then mbFail 4 s
    else
      let ids := (List.range n).map (fun i => first + i)
      if r.agent ≠ 0 && decide (r.agent < 128) && ids.any (fun i => !sensorAllowed r.agent i s) then mbFail 5 s
      else (0, ids.flatMap (fun i => leBytes 4 (sensorWord i s)), s)) s)

/-- LOG_READ (R844, R1023). -/
def execLogRead (s : State) : Res :=
  .next (mbRun (fun o => o == 0x10) (fun r s =>
    let n := r.num 12 1
    let src := r.num 13 1
    if n = 0 ∨ src > 3 then mbFail 4 s
    else
      let all := logSource src s
      let at_ : TRec := ⟨r.num 4 8, r.num 0 4, 0, 0, 0, 0, 0, 0, []⟩
      let gone := match all with | x :: _ => !(x.le at_) | [] => false
      let recs := (all.filter (fun x => at_.le x)).take (min n 27)
      (0, leBytes 1 recs.length ++ leBytes 1 (tier s) ++ leBytes 1 (b2n gone) ++ leBytes 5 0 ++ recs.flatMap TRec.bytes, s)) s)

/-- SRC of an agent (Table 16-7). -/
def agentSrc (a : Nat) : Nat := if a = 0 then 2 else if a < 128 then 3 else if a = 128 then 4 else 5

/-- LOG_WRITE: a USER record (Table 16-7). -/
def execLogWrite (s : State) : Res :=
  .next (mbRun (fun o => o == 0x11) (fun r s =>
    let c := takeFree s
    let t := tallyNow ⟨0, 0, s.now, 8, agentSrc r.agent, c.1 % 65536, r.num 28 4, if r.agent < 128 then r.agent else 0xFFFF,
      r.data.take 28⟩ c.2
    (0, leBytes 4 t.mgs.boot ++ leBytes 8 t.mgs.seq, t)) s)

/-- LOG_ACK_LOST (R835). -/
def execLogAckLost (s : State) : Res :=
  .next (mbRun (fun o => o == 0x12) (fun _ s =>
    let n := getF (mgsP 0) MB_UNPERS_COUNT s
    let s1 := setF (mgsP 0) MB_UNPERS_COUNT 0 (setF (mgsP 0) MB_LOGSTAT_LOST 0 s)
    (0, [], if flag (mgsP 0) MB_LOGSTAT_LOST s then tallyLog 4 (leBytes 4 n) s1 else s1)) s)

/-! ### Firmware update (R836-R839, R845) -/

/-- The session that a request names: BUSY when another agent holds it, NO_SESSION when there is none or the ID differs. -/
def fwSession (r : MbReq) (s : State) : Except Nat Session :=
  match s.mgs.session with
  | none => .error 0xA
  | some x => if x.agent ≠ r.agent ∨ x.pldm then .error 1 else if x.id ≠ r.num 0 2 then .error 0xA else .ok x

/-- Open an update session: the inactive slot is marked invalid and erased, and is no trial any more (R836). -/
def fwOpen (agent : Nat) (hdr : List Byte) (pldm : Bool) (s : State) : Nat × State :=
  let f := takeFree s
  let id := f.1 % 65536
  let k := 1 - s.mgs.active
  let s1 := setSlot k { Slot.empty with hdr := hdr } f.2
  let x : Session := ⟨id, agent, k, hdr, [], false, pldm, none, s.now⟩
  (id, fwEvent (setMgs { s1.mgs with
    session := some x, trial := if s1.mgs.trial = some k then none else s1.mgs.trial, updState := if pldm then 1 else 0 } s1))

/-- FW_BEGIN (R836, R845); `sig`: the header's signature is good, `ok`: the flash takes the writes. -/
def execFwBegin (sig ok : Bool) (s : State) : Res :=
  .next (mbRun (fun o => o == 0x20) (fun r s =>
    if !hdrOk r.data then mbFail 4 s
    else if s.mgs.session.isSome then mbFail 1 s
    else if !sig then mbFail 6 s
    else if hdrNum r.data 12 1 < s.mgs.otpSvn then mbFail 8 s
    else if !flashWrites ok s then mbFail 9 s
    else
      let x := fwOpen r.agent r.data false s
      (0, leBytes 2 x.1, x.2)) s)

/-- Bytes of an update at a body offset; those written twice take the later value (R845). -/
def putBody (o : Nat) : List Byte → List Host.Cell → List Host.Cell
  | [], l => l
  | b :: t, l => putBody (o + 1) t (alSet l o b)

/-- FW_DATA (R837, R845). -/
def execFwData (ok : Bool) (s : State) : Res :=
  .next (mbRun (fun o => o == 0x21) (fun r s =>
    let off := r.num 4 4
    let d := r.data.drop 8
    if r.num 2 2 ≠ 0 ∨ off % 8 ≠ 0 then mbFail 4 s
    else match fwSession r s with
    | .error st => mbFail st s
    | .ok x =>
      if off + d.length > hdrNum x.hdr 16 4 then mbFail 4 s
      else if !flashWrites ok s then (9, [], if s.mgs.flashBad || !ok then sessionDrop s else s)
      else (0, [], setMgs { s.mgs with session := some { x with written := putBody off d x.written, verified := false, last := s.now } } s)) s)

/-- A verified image becomes valid in its slot (R837). -/
def fwVerified (x : Session) (s : State) : State :=
  let s1 := setSlot x.slot ⟨true, x.hdr, x.written⟩ s
  fwEvent (setMgs { s1.mgs with session := some { x with verified := true, last := s.now } } s1)

/-- FW_VERIFY (R837). -/
def execFwVerify (ok : Bool) (s : State) : Res :=
  .next (mbRun (fun o => o == 0x22) (fun r s =>
    match fwSession r s with
    | .error st => mbFail st s
    | .ok x =>
      if !bodyOk x.hdr x.written then mbFail 6 s
      else if !flashWrites ok s then (9, [], if s.mgs.flashBad || !ok then sessionDrop s else s)
      else (0, [], fwVerified x s)) s)

/-- Activation (R838): the slot is the trial slot; with mode 1 MGS flushes its log and restarts. -/
def fwActivate (k mode : Nat) (s : State) : State :=
  let s1 := fwEvent (setMgs { s.mgs with trial := some k, trialRun := false, session := none, updState := 0 } s)
  if mode = 1 then mgsRestart (persistAll s1) else s1

/-- FW_ACTIVATE (R837, R838). Before a successful FW_VERIFY it is refused with a status the spec does not give. -/
def execFwActivate (ok : Bool) (s : State) : Res :=
  .next (mbRun (fun o => o == 0x23) (fun r s =>
    if r.num 2 1 > 1 then mbFail 4 s
    else match fwSession r s with
    | .error st => mbFail st s
    | .ok x =>
      if !x.verified then let f := takeFree s; mbFail (1 + f.1 % 12) f.2
      else if !flashWrites ok s then (9, [], if s.mgs.flashBad || !ok then sessionDrop s else s)
      else (0, [], fwActivate x.slot (r.num 2 1) s)) s)

/-- FW_ABORT (R836). -/
def execFwAbort (s : State) : Res :=
  .next (mbRun (fun o => o == 0x24) (fun r s =>
    match fwSession r s with
    | .error st => mbFail st s
    | .ok _ => (0, [], sessionDrop s)) s)

/-! ### Licences, locks, configuration -/

/-- The fields of a licence record (Table 16-11) that must hold fixed values or zero. -/
def licForm (d : List Byte) : Bool :=
  let n (o k : Nat) : Nat := leNat ((d.drop o).take k)
  d.length == 160 && n 0 4 == 0x4C43535A && n 4 2 == 1 && n 6 2 == 160 && n 16 4 != 0 && decide (n 20 4 < 16) && n 24 40 == 0

/-- The record in a request. -/
def licOf (d : List Byte) (sig : Bool) : Lic :=
  ⟨leNat ((d.drop 16).take 4), leNat ((d.drop 20).take 4), leNat ((d.drop 8).take 8), sig, d⟩

/-- ISSUE of the stored record. -/
def storedIssue (s : State) : Nat := match s.mgs.licence with | some l => l.issue | none => 0

/-- LIC_INSTALL (R841, R842, R949): `sig`: the record's signature is good; `ok`: both copies verify. -/
def execLicInstall (sig ok : Bool) (s : State) : Res :=
  .next (mbRun (fun o => o == 0x30) (fun r s =>
    let l := licOf r.data sig
    if !licForm r.data then mbFail 4 s
    else if !sig then mbFail 6 s
    else if l.serial ≠ Config.serial.toNat then mbFail 7 s
    else if l.issue ≤ storedIssue s then mbFail 8 s
    else if !flashWrites ok s then mbFail 9 s
    else
      let s1 := setMgs { s.mgs with licence := some l } s
      if s1.mgs.licStage then (0, [], tallyLic 1 (agentSrc r.agent) (some l) (applyLic (some l) s1))
      else (0, [], tallyLic 2 (agentSrc r.agent) (some l) s1)) s)

/-- LIC_READ. -/
def execLicRead (s : State) : Res :=
  .next (mbRun (fun o => o == 0x31) (fun _ s => (0, match s.mgs.licForce with | some l => l.bytes | none => [], s)) s)

/-- UNLOCK (R48, R846). -/
def execUnlock (s : State) : Res :=
  .next (mbRun (fun o => o == 0x40) (fun r s =>
    let p := r.num 0 4
    if p % 4096 ≠ 0 || (pageOf p).isNone then mbFail 4 s else (0, [], setF p PG_LOCK_LOCKED 0 s)) s)

/-- CONFIG_GET (R1028). -/
def execConfigGet (s : State) : Res :=
  .next (mbRun (fun o => o == 0x48) (fun r s =>
    match r.num 0 1 with
    | 0 => (0, leBytes 1 (s.mgs.cfgProfile.getD 2), s)
    | 1 => (0, s.mgs.cfgDesc.getD [], s)
    | 2 => (0, leBytes 1 (s.mgs.cfgElect.getD 1), s)
    | _ => mbFail 4 s) s)

/-- CONFIG_SET (R823, R849, R981). -/
def execConfigSet (ok : Bool) (s : State) : Res :=
  .next (mbRun (fun o => o == 0x49) (fun r s =>
    let k := r.num 0 1
    let v := r.data.drop 8
    if (k = 0 ∨ k = 2) ∧ v.length ≠ 1 then mbFail 3 s
    else if k > 2 ∨ r.num 1 7 ≠ 0 ∨ (k = 0 ∧ leNat v > 3) then mbFail 4 s
    else if !flashWrites ok s then mbFail 9 s
    else match k with
    | 0 => (0, [], setMgs { s.mgs with cfgProfile := some (leNat v) } s)
    | 1 => (0, [], setMgs { s.mgs with cfgDesc := some v } s)
    | _ => (0, [], setMgs { s.mgs with cfgElect := some (leNat v) } s)) s)

/-! ### Fabric manager and defect map -/

/-- FM_STATUS. -/
def execFmStatus (s : State) : Res :=
  .next (mbRun (fun o => o == 0x50) (fun _ s => (0, leBytes 4 (rdW (rtrP 0 + 0x88) s).toNat ++ leBytes 2 s.rtr.nodes.length, s)) s)

/-- Entries of 16 bytes in a plan request: serial, node ID, zero. -/
def planEntries (d : List Byte) (n : Nat) : List (Nat × Nat × Nat) :=
  (List.range n).map (fun i =>
    let e := d.drop (16 + 16 * i)
    (leNat (e.take 8), leNat ((e.drop 8).take 4), leNat ((e.drop 12).take 4)))

/-- FM_PLAN: up to 4,096 entries in all. -/
def execFmPlan (ok : Bool) (s : State) : Res :=
  .next (mbRun (fun o => o == 0x51) (fun r s =>
    let es := planEntries r.data (r.len / 16 - 1)
    let base := if r.num 0 1 = 1 then [] else s.mgs.plan
    let plan := es.foldl (fun l e => alSet l e.1 e.2.1) base
    if r.num 0 1 > 1 ∨ r.num 1 15 ≠ 0 then mbFail 4 s
    else if es.any (fun e => decide (e.2.1 ≥ 2 ^ 18) || e.2.2 != 0) || decide (plan.length > 4096) then mbFail 4 s
    else if !flashWrites ok s then mbFail 9 s
    else (0, [], setMgs { s.mgs with plan := plan } s)) s)

/-- A page of indexed entries: total, zero, up to 110 entries. -/
def indexed {α : Type} (first : Nat) (l : List α) (f : α → List Byte) : List Byte :=
  leBytes 2 l.length ++ leBytes 14 0 ++ ((l.drop first).take 110).flatMap f

/-- FM_NODES: the spec gives no coding of an entry's state, which is a free value. -/
def execFmNodes (s : State) : Res :=
  .next (mbRun (fun o => o == 0x52) (fun r s =>
    if getF (rtrP 0) RTR_FM_ROLE s ≠ 1 then mbFail 0xB s
    else
      let f := takeFree s
      let entry (x : FmNode) : List Byte :=
        leBytes 8 x.serial ++ leBytes 4 (x.node.getD 0) ++ leBytes 2 x.epoch ++ leBytes 2 (f.1 % 65536)
      (0, indexed (r.num 0 2) s.rtr.nodes entry, f.2)) s)

/-- DEFECT_READ. -/
def execDefectRead (s : State) : Res :=
  .next (mbRun (fun o => o == 0x60) (fun r s =>
    let entry (x : Defect) : List Byte := leBytes 1 x.kind ++ leBytes 3 0 ++ leBytes 8 x.loc ++ leBytes 4 x.boot
    (0, indexed (r.num 0 2) s.mgs.defects entry, s)) s)

/-! ### Events of MGS itself -/

/-- UPDATE_SESSION_IDLE (R836): 60 s without a command. -/
def execUpdateSessionIdle (s : State) : Res :=
  match s.mgs.session with
  | none => .next s
  | some x =>
    .next (sessionDrop (waitTill (x.last + 60000000000) s))

/-- TRIAL_COMMIT (R839): 10 s in RUN; a trial that did not reach it within 5 s of its start is given up for the active slot. -/
def execTrialCommit (s : State) : Res :=
  match s.mgs.trial with
  | none => .next s
  | some k =>
    if mstate s ≠ 1 ∨ !s.mgs.trialRun ∨ !flag (mgsP 0) MB_INFO_TRIAL s then .next s
    else if s.mgs.runAt > s.mgs.startAt + 5000000000 then .next (rollback (waitTill (s.mgs.runAt + 10000000000) s))
    else
      let s0 := (waitTill (s.mgs.runAt + 10000000000) s)
      let h := (slotOf k s0).hdr
      let svn := if hdrNum h 13 1 % 2 = 1 then max s0.mgs.otpSvn (hdrNum h 12 1) else s0.mgs.otpSvn
      let s1 := setMgs { s0.mgs with active := k, trial := none, trialRun := false, otpSvn := svn } s0
      .next (tallyFree 6 0xFFFFFFFF [] (setF (mgsP 0) MB_INFO_TRIAL 0 s1))

/-- MGS_WDOG (R853, R839): MGS restarts on the active slot; a trial that runs is given up. `ue` says that an SRAM double-bit error did it. -/
def execMgsWdog (ue : Bool) (s : State) : Res :=
  if !mgsServes s then .next s
  else
    let s1 := mgsRestart s
    let s2 := recordCE (mgsP 0) (if ue then 0x0208 else 0x0206) 0 0 s1
    .next (if s2.mgs.trialRun && s2.mgs.trial.isSome then rollback s2 else s2)

/-- TALLY_PERSIST (R826-R832): the oldest waiting record reaches its tier; `ok`: a reserve write passes its verify. -/
def execTallyPersist (ok : Bool) (s : State) : Res := .next (if mgsServes s then persistOne ok s else s)

/-- FLASH_VERIFY (R828, R829): the read-back of logical tally sector k; a failed one is retired onto the next spare. -/
def execFlashVerify (k : Nat) (pass : Bool) (s : State) : Res :=
  if pass || decide (k ≥ 1024) || s.mgs.flashBad then .next s
  else if s.mgs.spareNext ≥ 64 then .next (flashLost 1 s)
  else
    let c := sectOf k s
    let m := s.mgs
    let s1 := setMgs { m with
      sects := alSet m.sects k { c with phys := 2076 + m.spareNext }, spareNext := m.spareNext + 1
      defects := m.defects ++ [⟨5, c.phys, m.boot, 0⟩] } s
    .next (recordCE (mgsP 0) 0x0201 c.phys 0 (setF (mgsP 0) MB_LOGSTAT_SPARES (63 - m.spareNext) s1))

/-- XSPI_TIMEOUT (R829): the third in a row makes the flash unusable. -/
def execXspiTimeout (s : State) : Res :=
  let s1 := setMgs { s.mgs with xspiRun := s.mgs.xspiRun + 1 } s
  .next (if s1.mgs.xspiRun ≥ 3 then flashLost 2 s1 else s1)

end Sys2Proof.Machine
end

