-- ==== Sys2Proof/Machine/FmCore.lean ====
section
/-! DEFINITION. Fabric control messages (Table 12-7): manager keys, flooding, and sending to the manager or from it (R647-R649). What is sent
goes by packets of class 5, or, to this device itself and by a relay's source route to a device without a node ID, stands in State.out. -/
namespace Sys2Proof.Machine

/-- This device's serial. -/
def ownSerial : Nat := Config.serial.toNat

/-- Key a is higher than key b (R649). -/
def MgrKey.beats (a b : MgrKey) : Bool :=
  decide (a.host > b.host) || (a.host == b.host && (decide (a.pri > b.pri) || (a.pri == b.pri && decide (a.serial > b.serial))))

/-- The key beats every key seen. -/
def beatsBest (k : MgrKey) (s : State) : Bool := match s.rtr.best with | some b => k.beats b | none => true

/-- The key with which this device claims: its host's, or that of its MGS. -/
def ownKey (s : State) : MgrKey :=
  if s.rtr.hostHere then ⟨1, 255, ownSerial⟩ else ⟨0, getF (rtrP 0) RTR_CTL_ELECT_PRI s, ownSerial⟩

/-- RTR_FM.ROLE. -/
def fmRole (s : State) : Nat := getF (rtrP 0) RTR_FM_ROLE s

/-- The manager in force is this device: its MGS, or its host. -/
def managerHere (s : State) : Bool := fmRole s == 1 || (fmRole s == 3 && flag (rtrP 0) RTR_FM_HOSTHERE s)

/-- Carrying ports. -/
def carryingPorts (s : State) : List Nat := (List.range 16).filter (fun p => carries p s)

/-- How a message of this device begins. -/
def ownVia (s : State) : Via := ⟨16, Config.floodDst.toNat, nodeId s, 64, 0, 0⟩

/-- The bytes of a control message (Table 12-7): opcode, sequence number, content; where the content's fields lie is the model's (assumption log 53). -/
def fmBody (op seq : Nat) (f : List Nat) : List Byte := leBytes 2 op ++ leBytes 2 seq ++ leBytes 4 0 ++ f.flatMap (leBytes 8)

/-- The packet of a flooded message: its own, or with HOPS and AGE of one that is forwarded (R634, R635, R647). -/
def floodPkt (v : Via) (op serial seq : Nat) (f : List Nat) : Pkt :=
  ⟨v.port, v.dst, v.src, v.hops - 1, if v.port < 16 then v.age + max 1 v.us else 0, 5, false, true, false, fmBody op seq (serial :: f)⟩

/-- Send a message on every carrying port except the one it came by; one whose HOPS or AGE has run out is discarded (R635, R647). -/
def flood (v : Via) (op : Nat) (f : List Nat) (s : State) : State :=
  let k := floodPkt v op ((f[0]?).getD 0) ((f[1]?).getD 0) (f.drop 2)
  if v.port < 16 ∧ (k.hops = 0 ∨ k.age ≥ 16000) then rlDiscard s
  else ((carryingPorts s).filter (fun p => p != v.port)).foldl (fun t p => sendVia p k t.now t) s

/-- A flooded message has been seen (R647). -/
def seenMsg (serial seq : Nat) (s : State) : Bool := s.rtr.seen.contains (serial, seq)

/-- Remember a flooded message; the last 256 are kept. -/
def rememberMsg (serial seq : Nat) (s : State) : State :=
  let l := s.rtr.seen ++ [(serial, seq)]
  { s with rtr := { s.rtr with seen := l.drop (l.length - 256) } }

/-- The next sequence number of this device's messages. -/
def nextMsg (s : State) : Nat × State :=
  let q := (s.rtr.seq + 1) % 65536
  (q, { s with rtr := { s.rtr with seq := q } })

/-- Flood a message of this device. -/
def floodOwn (op : Nat) (f : List Nat) (s : State) : State :=
  let m := nextMsg s
  flood (ownVia s) op (ownSerial :: m.1 :: f) (rememberMsg ownSerial m.1 m.2)

/-- Send a control message to a node: opcode, sequence, fields. -/
def toNode (dst op seq : Nat) (f : List Nat) (s : State) : State :=
  if nodeValid s && dst == nodeId s then emit (.rlMsg 16 op (seq :: f)) s
  else sendPkt (Pkt.own dst 5 (fmBody op seq f) s) s

/-- Send a control message to the manager, when one is known. -/
def toManager (op seq : Nat) (f : List Nat) (s : State) : State :=
  if fmRole s = 0 then s
  else if managerHere s then emit (.rlMsg 16 op (seq :: f)) s
  else toNode (getF (rtrP 0) RTR_FM_MGR_NODE s) op seq f s

/-- This MGS claims the manager role, when it may and knows of no manager (R649). -/
def mgsClaim (s : State) : State :=
  if fmRole s ≠ 0 ∨ s.rtr.claimed.isSome ∨ (carryingPorts s).isEmpty then s
  else if ¬ s.rtr.hostHere ∧ (getF (rtrP 0) RTR_CTL_ELECT_PRI s = 0 ∨ ¬ (mstate s = 1 ∨ mstate s = 3)) then s
  else
    let k := ownKey s
    if beatsBest k s then
      floodOwn 0x10 [k.host, k.pri, k.serial] { s with rtr := { s.rtr with best := some k, claimed := some s.now } }
    else s

end Sys2Proof.Machine
end

