-- ==== Sys2Proof/Machine/Kv.lean ====
section
/-! DEFINITION. Family: the KV unit's commands (chapter 13): KV formats and block layout (R687-R689), pool accesses, KAPP (R692-R694),
KATTN (R696-R699), eviction (R700), KRING (R710-R714) and KSTAT (R702). -/
namespace Sys2Proof.Machine

/-! ### Formats (Table 13-1) and layout (R689) -/

/-- Element bits, bytes of a scale, and whether the format is an MX one, by KF. -/
def kfBits (kf : Nat) : Nat := if kf < 3 then 8 else 4
def kfScale (kf : Nat) : Nat := if kf = 2 ∨ kf = 4 then 2 else 1
def kfInt (kf : Nat) : Bool := kf == 2 || kf == 4
def kfFmt (kf : Nat) : FFmt := match kf with | 0 => fmtE4m3 | 1 => fmtE5m2 | _ => fmtE2m1

/-- Head dimension, and bytes of one token's key elements and key scales. -/
def KvH.dim (x : KvH) : Nat := 32 * x.dh
def KvH.keyLen (x : KvH) : Nat := x.dim * kfBits x.kf / 8
def KvH.scLen (x : KvH) : Nat := x.dh * kfScale x.kf

/-- Offsets in a block of token t's key (v 0) or value (v 1), and of its scales. -/
def KvH.elOff (x : KvH) (v t : Nat) : Nat := 128 + (16 * v + t) * x.keyLen
def KvH.scOff (x : KvH) (v t : Nat) : Nat := 128 + 32 * x.keyLen + (16 * v + t) * x.scLen

/-- Bytes of a block, and the block stride. -/
def KvH.blkLen (x : KvH) : Nat := 128 + 32 * x.keyLen + 32 * x.scLen
def KvH.stride (x : KvH) : Nat := (x.blkLen + 63) / 64 * 64

/-- Pool VA of a slot. -/
def slotVa (i slot : Nat) (s : State) : Nat :=
  (getF (kvP i) KV_POOL_BASE_LO_BASE s * 64 + getF (kvP i) KV_POOL_BASE_HI_BASE s * 2 ^ 32
    + slot * getF (kvP i) KV_POOL_CFG_STRIDE s * 64) % 2 ^ 48

/-- A value as bytes of an FP32 number. -/
abbrev fpZero : Nat := 0
abbrev fpNegInf : Nat := 0xFF800000

/-- The largest magnitude among values, as an FP32 code without sign. -/
def amaxOf (vs : List FV) : FV := vs.foldl (fun a v => let b := (if v.sign then v.neg else v); if a.lt b then b else a) (.fin false 0 0)

/-- Clamp an integer to a magnitude. -/
def clampInt (m : Nat) (i : Int) : Int := if i < -(m : Int) then -(m : Int) else if (m : Int) < i then m else i

/-- Encode a group of 32 values (R688): scale code and element codes. `f0` is the element code where a value of 0 meets a scale of 0, which
the spec does not state. -/
def kvEncode (kf f0 : Nat) (vs : List FV) : Nat × List Nat :=
  if !kfInt kf then
    let r := mxEnc (kfFmt kf) 0 vs
    (r.1, r.2.map (·.code))
  else if vs.any (fun v => match v with | .fin _ _ _ => false | _ => true) then (0x7FC0, vs.map (fun _ => 0))
  else if vs.all FV.isZero then (0, vs.map (fun _ => 0))
  else
    let top : Nat := if kf = 2 then 127 else 7
    let sc := (toFlt fmtBf16 0 false ((amaxOf vs).div (ofInt top))).code
    (sc, vs.map (fun v =>
      match v.div (fdec fmtBf16 sc) with
      | .fin neg m e =>
        let r := roundInt 0 neg m e
        unsigned (kfBits kf) (clampInt top (if neg then -(r : Int) else r))
      | .inf neg => unsigned (kfBits kf) (if neg then -(top : Int) else top)
      | .nan => f0 % 2 ^ kfBits kf))

/-- An element without its scale, and a scale as a factor. -/
def kvElem (kf c : Nat) : FV := if kfInt kf then ofInt (signed (kfBits kf) c) else fdec (kfFmt kf) c
def kvScale (kf sc : Nat) (v : FV) : FV := if kfInt kf then v.mul (fdec fmtBf16 sc) else mxDec v sc

/-- A decoded element as FP32 (R688). -/
def kvDec (kf sc c : Nat) : Nat := enc32 (kvScale kf sc (kvElem kf c))

/-! ### Accesses -/

/-- What stops a KV command's work: a status, a translation that fails (cause, level), a bad chain, a fault that goes to the pager (VA, direction, cause, level, piece, entry), or
a page under migration. -/
inductive KErr where
  | st (n : Nat)
  | xl (c l : Nat)
  | chain
  | flt (va : Nat) (write : Bool) (c l p e : Nat)
  | wait
  deriving DecidableEq, Repr

/-- A KV command's work in progress: the state it leads to, which stays as it is once something has stopped the work, the entries that its walks
read from the host, what has stopped it, and whether it has written anything. -/
structure Kx where
  s : State
  hs : List (List (Option Nat))
  err : Option KErr
  wr : Bool
  deriving Repr

/-- Stop the work. -/
def Kx.fail (e : KErr) (x : Kx) : Kx := if x.err.isSome then x else { x with err := some e }

/-- Translate va for rod i (R463): rod and bead address. A leaf outside bead memory is not permitted (R690). -/
def kvTr (i va : Nat) (write : Bool) (x : Kx) : Option (Nat × Nat) × Kx :=
  let n := herdNo i x.s
  let k := tlbLook i n va write x.s
  let (r, x1) : TRes × Kx := match k.1 with
    | some r => (r, { x with s := k.2 })
    | none =>
      let w := rodWalk i n va write ((x.hs[0]?).getD []) k.2
      (w.1, { x with s := w.2, hs := x.hs.drop 1 })
  match r with
  | .ok (.bead j a) => (some (j, a), { x1 with s := tierTouch i n va x1.s })
  | .ok _ => (none, x1.fail (.st 8))
  | .mig | .held => (none, x1.fail .wait)
  | .fault c l p e => if c ≥ 5 then (none, x1.fail (.xl c l)) else (none, x1.fail (.flt va write c l p e))

/-- A bead status that ends a KV command. -/
def Kx.status (n : Nat) (x : Kx) : Kx := if n = 0 ∨ n = 4 then x else x.fail (.st n)

/-- Read `len` bytes at va, page by page. -/
def kvRd (i va len : Nat) (x : Kx) : (List Byte × List Nat) × Kx :=
  (pagePieces (len / 2048 + 2) va len).foldl (fun t pc =>
    if t.2.err.isSome then t
    else match kvTr i pc.1 false t.2 with
      | (some r, x1) =>
        if homeHeld r.1 r.2 pc.2 false x1.s then (t.1, x1.fail .wait)
        else
        let h := homeRead r.1 r.2 pc.2 x1.s
        ((t.1.1 ++ h.2.1, t.1.2 ++ h.2.2.1.map (fun k => pc.1 - va + k)), ({ x1 with s := h.2.2.2 }).status h.1)
      | (none, x1) => (t.1, x1)) (([], []), x)

/-- Offsets of a list that lie in [o, o + n), counted from o. -/
def badPart (bad : List Nat) (o n : Nat) : List Nat :=
  (bad.filter (fun k => decide (o ≤ k) && decide (k < o + n))).map (fun k => k - o)

/-- Write bytes at va, page by page. -/
def kvWr (i va : Nat) (bs : List Byte) (bad : List Nat) (x : Kx) : Kx :=
  (pagePieces (bs.length / 2048 + 2) va bs.length).foldl (fun x pc =>
    if x.err.isSome then x
    else match kvTr i pc.1 true x with
      | (some r, x1) =>
        if homeHeld r.1 r.2 pc.2 true x1.s then x1.fail .wait
        else
        let o := pc.1 - va
        let h := homeWrite r.1 r.2 ((bs.drop o).take pc.2) (badPart bad o pc.2) x1.s
        ({ x1 with s := h.2, wr := true }).status h.1
      | (none, x1) => x1) x

/-! ### Block headers (Table 13-2) -/

/-- A block of a list: its slot and the fields of its header. -/
structure KBlk where
  slot : Nat
  score : Nat
  count : Nat
  valid : Bool
  lbn : Nat
  next : Nat
  prev : Nat
  hdr : List Byte
  deriving DecidableEq, Repr

/-- The number in bytes [o, o + n) of a list. -/
def field (bs : List Byte) (o n : Nat) : Nat := leNat ((bs.drop o).take n)

/-- Header fields from its 128 bytes. -/
def hdrOf (slot : Nat) (bs : List Byte) : KBlk :=
  ⟨slot, field bs 0 4, field bs 4 1, bitOf (field bs 5 1) 0, field bs 8 4, field bs 12 2, field bs 14 2, bs.take 128⟩

/-- SEG and POS of token t. -/
def KBlk.seg (b : KBlk) (t : Nat) : Nat := field b.hdr (32 + 2 * t) 2
def KBlk.pos (b : KBlk) (t : Nat) : Nat := field b.hdr (64 + 4 * t) 4

/-- A header with VALID 1, no tokens. -/
def newHdr (lbn prev : Nat) : List Byte :=
  leBytes 4 0 ++ leBytes 1 0 ++ leBytes 1 1 ++ leBytes 2 0 ++ leBytes 4 lbn ++ leBytes 2 0xFFFF ++ leBytes 2 prev
    ++ List.replicate 112 0

/-- Read the header in a slot; a poisoned header is a bad chain. -/
def kvHdr (i slot : Nat) (x : Kx) : KBlk × Kx :=
  let r := kvRd i (slotVa i slot x.s) 128 x
  (hdrOf slot r.1.1, if r.1.2.isEmpty then r.2 else r.2.fail .chain)

/-- The blocks of a list in order: links and LBNs must fit the handle (Table 13-11). -/
def chainGo (i : Nat) (h : KvH) : Nat → Nat → Nat → Option Nat → Kx → List KBlk × Kx
  | 0, slot, prev, _, x => ([], if slot = 0xFFFF ∧ prev = h.tslot then x else x.fail .chain)
  | f + 1, slot, prev, low, x =>
    if slot ≥ getF (kvP i) KV_POOL_CFG_COUNT x.s then ([], x.fail .chain)
    else
      let r := kvHdr i slot x
      if r.2.err.isSome then ([], r.2)
      else
        let b := r.1
        let ok := b.valid && b.prev == prev && decide (b.count ≤ 16) && decide (b.lbn < h.nextLbn)
          && (match low with | some l => decide (l < b.lbn) | none => true)
        if !ok then ([], r.2.fail .chain)
        else
          let t := chainGo i h f b.next slot (some b.lbn) r.2
          (b :: t.1, t.2)

/-- The list of a handle. -/
def kvChain (i : Nat) (h : KvH) (x : Kx) : List KBlk × Kx :=
  if h.nblk = 0 then ([], x) else chainGo i h h.nblk h.hslot 0xFFFF none x

/-! ### Eviction (R700) -/

/-- A score in the order of victims: a NaN before every number. -/
def scoreLess (a b : KBlk) : Bool :=
  let u := dec32 a.score
  let v := dec32 b.score
  if u.isNan || v.isNan then
    if u.isNan && v.isNan then decide (a.lbn < b.lbn) else u.isNan
  else u.lt v || (!v.lt u && decide (a.lbn < b.lbn))

/-- The victim among the candidates. -/
def victim (h : KvH) (l : List KBlk) : Option KBlk :=
  ((l.take (l.length - h.recent)).filter (fun b => b.count == 16 && decide (b.lbn ≥ h.sink))).foldl
    (fun m b => match m with | some a => if scoreLess b a then some b else m | none => some b) none

/-- Evict one block of handle `hn`; without a candidate nothing changes. -/
def evictOne (i hn : Nat) (x : Kx) : Bool × Kx :=
  let h := kvH i hn x.s
  let c := kvChain i h x
  if c.2.err.isSome then (false, c.2)
  else match victim h c.1 with
    | none => (false, c.2)
    | some b =>
      let x1 := if b.prev = 0xFFFF then c.2 else kvWr i (slotVa i b.prev c.2.s + 12) (leBytes 2 b.next) [] c.2
      let x2 := if b.next = 0xFFFF then x1 else kvWr i (slotVa i b.next x1.s + 14) (leBytes 2 b.prev) [] x1
      let h1 := { h with
        nblk := h.nblk - 1
        hslot := if b.prev = 0xFFFF then b.next else h.hslot
        tslot := if b.next = 0xFFFF then b.prev else h.tslot
        evicted := satAdd 32 h.evicted 1 }
      let s3 := raise (kvP i) 16 (bump (kvP i) KV_EVICTS_COUNT 1 (setKvH i hn h1 (kvFreeSlots i [b.slot] x2.s)))
      (true, if x2.err.isSome then x2 else { x2 with s := s3 })

/-- Evict until NBLK is at most BUDGET (R718). -/
def trimGo (i hn : Nat) : Nat → Kx → Kx
  | 0, x => x
  | f + 1, x =>
    let h := kvH i hn x.s
    if h.budget ≠ 0 ∧ h.budget < h.nblk ∧ h.evict ∧ x.err.isNone then
      let r := evictOne i hn x
      if r.1 then trimGo i hn f r.2 else r.2
    else x

def kvTrim (i hn : Nat) (x : Kx) : Kx := trimGo i hn ((kvH i hn x.s).nblk) x

/-! ### The end of a command -/

/-- A KV command's work is over. A status word carries `res`. -/
def kvEnd (i num st res : Nat) (s : State) : State := markDone i num st (statusWord st res) s

/-- A handle is lost (Table 13-11). -/
def kvLose (i hn : Nat) (s : State) : State :=
  let n := herdNo i s
  let q := (kvH i hn s).seqid
  raise (kvP i) 18 (updPairs (fun z x => z.herd == n && z.seqid == q && x.rod == i && x.h == hn) (fun x => { x with st := 4 })
    (setKvH i hn { kvH i hn s with st := 4, frozen := false } s))

/-- CHAIN_BAD: the handle becomes LOST and the command completes with 0x84. -/
def chainBad (i hn : Nat) (s : State) : State := kvLose i hn (recordErr (kvP i) 0x1903 1 (hn % 256) 0 false s)

/-- Keep a command waiting in phase `ph` on a page. -/
def kvWait (i num ph page : Nat) (s : State) : State :=
  updStarted i num (fun c => { c with aux := listSet (listSet c.aux 0 ph) 1 page }) s

/-- The outcome of a command's work, begun in state `start`: what it read, and wrote before it was stopped, stays done (R24, log 134). Work that waits
for a page begins anew; what it has written then is written anew from there. -/
def kvClose (i hn num : Nat) (start : State) (x : Kx) : State :=
  let s0 := if x.wr then start else x.s
  match x.err with
  | none => x.s
  | some (.st n) => kvEnd i num n 0 x.s
  | some (.xl c l) => kvEnd i num 9 0 (xlatError i c l x.s)
  | some .chain => kvEnd i num 0x84 0 (chainBad i hn x.s)
  | some .wait => kvWait i num 10 0 s0
  | some (.flt va w c l p e) =>
    let full := decide ((xlOf i s0).faults.length ≥ 16) && !(xlOf i s0).faults.any (fun f => f.page == va / 2 ^ 16)
    if full then kvWait i num 10 0 s0
    else kvWait i num 9 (va / 2 ^ 16) (openFault i (herdNo i s0) va w c l p e s0)

/-- The outcome of a KRING's work: its ring area is read and written by HBA, so that only its first step can wait for a page; what it has sent or
released stays done when a later step ends with another status than OK (R712). -/
def kvCloseRing (i hn num : Nat) (s0 : State) (x : Kx) : State := kvClose i hn num s0 x

/-! ### KAPP (R692-R694) -/

/-- Bytes of an input element by MOD[3:0]. -/
def kappFmt (m : Nat) : Option (FFmt × Nat) :=
  match m with | 9 => some (fmtBf16, 2) | 10 => some (fmtFp16, 2) | 11 => some (fmtFp32, 4) | _ => none

/-- Store one vector of a token, key or value (R688): its elements and scales, group by group; poisoned input bytes poison what is stored
of their group. -/
def storeVec (i hn v t va : Nat) (f : FFmt) (w : Nat) (bs : List Byte) (bad : List Nat) (f0 : Nat) (x : Kx) : Kx :=
  let h := kvH i hn x.s
  (List.range h.dh).foldl (fun x g =>
    let vals := (List.range 32).map (fun k => fdec f (field bs ((32 * g + k) * w) w))
    let e := kvEncode h.kf f0 vals
    let p := !(badPart bad (32 * g * w) (32 * w)).isEmpty
    let n := 32 * kfBits h.kf / 8
    let body := leBytes n (packFrom (kfBits h.kf) 0 e.2)
    let all (k : Nat) : List Nat := if p then List.range k else []
    kvWr i (va + h.scOff v t + g * kfScale h.kf) (leBytes (kfScale h.kf) e.1) (all (kfScale h.kf))
      (kvWr i (va + h.elOff v t + g * n) body (all n) x)) x

/-- Take a new tail block (R694): evict at the budget, take the lowest free slot, write its header and link it. -/
def newBlock (i hn : Nat) (x : Kx) : Kx :=
  let h := kvH i hn x.s
  let x1 : Kx := if h.budget ≠ 0 ∧ h.budget ≤ h.nblk then
      (if h.evict then (evictOne i hn x).2 else x.fail (.st 0x81))
    else x
  if x1.err.isSome then x1
  else match kvFreeSlot i x1.s with
    | none => x1.fail (.st 0x82)
    | some slot =>
      let h := kvH i hn x1.s
      let first := h.nblk = 0
      let prev := if first then 0xFFFF else h.tslot
      let x2 := kvWr i (slotVa i slot x1.s) (newHdr h.nextLbn prev) [] x1
      let x3 := if first then x2 else kvWr i (slotVa i h.tslot x2.s + 12) (leBytes 2 slot) [] x2
      let h1 := { h with
        nblk := h.nblk + 1, nextLbn := (h.nextLbn + 1) % 2 ^ 32, tslot := slot
        hslot := if first then slot else h.hslot }
      if x3.err.isSome then x3 else { x3 with s := setKvH i hn h1 (kvTake i slot x3.s) }

/-- Append a token whose bytes have been read: SEG, POS, key and value. -/
def appendTok (i hn num a : Nat) (c : QCmd) (f : FFmt) (w : Nat) (x0 : Kx) : Kx :=
  let h0 := kvH i hn x0.s
  let len := 8 + 2 * h0.dim * w
  let bs := spadRead i a len x0.s
  let bad := spadBadIn i a len x0.s
  let seg := field bs 0 2
  let fr := takeFree x0.s
  let x := kvTrim i hn { x0 with s := spadSeen i a len fr.2 }
  let h := kvH i hn x.s
  let pos := if bitOf (cwMod c.word) 4 then field bs 4 4
    else if h.len = 0 ∨ seg ≠ h.lastSeg then 0 else (h.lastPos + 1) % 2 ^ 32
  let tail := kvHdr i h.tslot x
  let x1 := if h.nblk = 0 then newBlock i hn x
    else if tail.2.err.isSome then tail.2
    else if !tail.1.valid || tail.1.next != 0xFFFF then tail.2.fail .chain
    else if tail.1.count ≥ 16 then newBlock i hn tail.2 else tail.2
  let h1 := kvH i hn x1.s
  let t := if h.nblk = 0 ∨ tail.1.count ≥ 16 then 0 else tail.1.count
  let va := slotVa i h1.tslot x1.s
  let posBad := if bitOf (cwMod c.word) 4 then badPart bad 4 4 else []
  let x2 := storeVec i hn 0 t va f w ((bs.drop 8).take (h1.dim * w)) (badPart bad 8 (h1.dim * w)) fr.1 x1
  let x3 := storeVec i hn 1 t va f w (bs.drop (8 + h1.dim * w)) (badPart bad (8 + h1.dim * w) (h1.dim * w)) fr.1 x2
  let x4 := kvWr i (va + 64 + 4 * t) (leBytes 4 pos) posBad (kvWr i (va + 32 + 2 * t) (leBytes 2 seg) (badPart bad 0 2) x3)
  let x5 := kvWr i (va + 4) (leBytes 1 (t + 1)) [] x4
  let h2 := { h1 with len := (h1.len + 1) % 2 ^ 32, lastSeg := seg, lastPos := pos }
  if x5.err.isSome then x5
  else { x5 with s := kvEnd i num (if bad.isEmpty then 0 else 4) 0 (bump64 (kvP i + 0xE4) 1 (setKvH i hn h2 x5.s)) }

/-- KAPP's work. -/
def kappWork (i hn num : Nat) (c : QCmd) (x : Kx) : Kx :=
  let a := spadAddr c.word c.sa
  let h := kvH i hn x.s
  match kappFmt (cwMod c.word % 16) with
  | none => x.fail (.st 0x0A)
  | some (f, w) =>
    let len := 8 + 2 * h.dim * w
    if bitsOf (cwMod c.word) 11 5 ≠ 0 ∨ ¬ spadInRange a len ∨ field (spadRead i a 8 x.s) 2 2 ≠ 0 then x.fail (.st 0x0A)
    else appendTok i hn num a c f w x

/-! ### Attention (R696-R698) -/

/-- Token at (p, g) is visible under a mask (R697). -/
def visible (mask win p g seg pos : Nat) : Bool :=
  match mask with
  | 0 => seg == g && decide (pos ≤ p)
  | 1 => seg == g
  | 2 => true
  | _ => seg == g && decide (pos ≤ p) && (win == 0 || decide (p - pos < win))

/-- A partial result of a row: output elements, maximum, sum, as FP32 codes, poison, and the tokens seen. -/
structure KRow where
  o : List Nat
  m : Nat
  l : Nat
  bad : Bool
  n : Nat
  deriving DecidableEq, Repr

/-- An empty partial. -/
def KRow.empty (d : Nat) : KRow := ⟨List.replicate d fpZero, fpNegInf, 0, false, 0⟩

/-- The partial is empty (R326). -/
def KRow.none (r : KRow) : Bool := decide (dec32 r.m = .inf true)

/-- Merge two partials (R325, R326). -/
def KRow.merge (a b : KRow) : KRow :=
  let m := f32max a.m b.m
  let w1 := lseWeight a.l a.m m
  let w2 := lseWeight b.l b.m m
  let l := f32add w1 w2
  if a.none && b.none then ⟨a.o.map (fun _ => 0), fpNegInf, 0, a.bad || b.bad, a.n + b.n⟩
  else ⟨(a.o.zip b.o).map (fun p => (lseEl 0 w1 w2 l p.1 p.2).1), m, l, a.bad || b.bad, a.n + b.n⟩

/-- A block as a query meets it: its handle's shape, its bytes and the poisoned offsets among them. -/
structure KData where
  hdr : KBlk
  bs : List Byte
  bad : List Nat
  deriving DecidableEq, Repr

/-- Score of token t for a query row (R698 step 1). -/
def kvScore (h : KvH) (d : KData) (q : List FV) (t : Nat) : Nat :=
  let run := leNat ((d.bs.drop (h.elOff 0 t)).take h.keyLen)
  let sums := (List.range h.dh).map (fun g =>
    let p := (List.range 32).map (fun k =>
      ((q[32 * g + k]?).getD (.fin false 0 0)).mul (kvElem h.kf (elemAt run (kfBits h.kf) (32 * g + k))))
    let v := treeSum treeAdd (.fin false 0 0) 8 p
    dec32 (enc32 (kvScale h.kf (field d.bs (h.scOff 0 t + g * kfScale h.kf) (kfScale h.kf)) v)))
  f32mul (enc32 (treeSum treeAdd (.fin false 0 0) 8 sums)) h.qscale

/-- Value element j of token t as FP32. -/
def kvVal (h : KvH) (d : KData) (t j : Nat) : Nat :=
  let run := leNat ((d.bs.drop (h.elOff 1 t)).take h.keyLen)
  kvDec h.kf (field d.bs (h.scOff 1 t + j / 32 * kfScale h.kf) (kfScale h.kf)) (elemAt run (kfBits h.kf) j)

/-- A key or value byte of token t is poisoned (R728). -/
def tokBad (h : KvH) (d : KData) (t : Nat) : Bool :=
  (List.range 2).any (fun v => !(badPart d.bad (h.elOff v t) h.keyLen).isEmpty || !(badPart d.bad (h.scOff v t) h.scLen).isEmpty)

/-- A block's partial for a row at (p, g) (R698 step 2). -/
def kvPartial (h : KvH) (mask p g : Nat) (q : List FV) (d : KData) : KRow :=
  let ts := (List.range (min 16 d.hdr.count)).filter (fun t => visible mask h.win p g (d.hdr.seg t) (d.hdr.pos t))
  match ts.map (fun t => (t, kvScore h d q t)) with
  | [] => KRow.empty h.dim
  | sc :: rest =>
    let all := sc :: rest
    let m := rest.foldl (fun a e => f32max a e.2) sc.2
    let ws := all.map (fun e => (e.1, enc32 (dec32 (f32sub e.2 m)).exp2))
    let l := ws.foldl (fun a e => f32add a e.2) 0
    let o := (List.range h.dim).map (fun j => f32div (ws.foldl (fun a e => f32fma e.2 (kvVal h d e.1 j) a) 0) l)
    ⟨o, m, l, ts.any (tokBad h d), ts.length⟩

/-- A query block (R696): rows in order, each with position, segment, elements, poison. -/
structure KQuery where
  r : Nat
  g : Nat
  rows : List (Nat × Nat × List FV × Bool)
  deriving Repr

/-- Bytes of a query block. -/
def queryLen (dim r g : Nat) : Nat := 8 + 8 * r + r * g * dim * 2

/-- Read a query block; none where a field lies outside its range or the block outside the scratchpad (R716). -/
def readQuery (i a dim : Nat) (s : State) : Option KQuery :=
  if !spadInRange a 8 then none
  else
    let w := leNat (spadRead i a 8 s)
    let r := w % 65536
    let g := bitsOf w 23 16
    let len := queryLen dim r g
    if r = 0 ∨ r > 256 ∨ g = 0 ∨ g > 32 ∨ r * g > 256 ∨ w / 2 ^ 24 ≠ 0 ∨ ¬ spadInRange a len then none
    else
      let bs := spadRead i a len s
      let bad := spadBadIn i a len s
      let ents := (List.range r).map (fun k => field bs (8 + 8 * k) 8)
      if ents.any (fun e => decide (e ≥ 2 ^ 48)) then none
      else some ⟨r, g, (List.range (r * g)).map (fun k =>
        let e := (ents[k / g]?).getD 0
        let o := 8 + 8 * r + k * dim * 2
        (e % 2 ^ 32, e / 2 ^ 32, (List.range dim).map (fun j => fdec fmtBf16 (field bs (o + 2 * j) 2)),
          !(badPart bad 0 8).isEmpty || !(badPart bad (8 + 8 * (k / g)) 8).isEmpty || !(badPart bad o (2 * dim)).isEmpty))⟩

/-- A row's partials and their merge in list order, starting from `start` (R698 step 3). -/
def rowRun (h : KvH) (mask : Nat) (ds : List KData) (start : Option KRow) (q : Nat × Nat × List FV × Bool) : List KRow × KRow :=
  let ps := ds.map (kvPartial h mask q.1 q.2.1 q.2.2.1)
  let r := match start, ps with
    | some r0, _ => ps.foldl KRow.merge r0
    | none, [] => KRow.empty h.dim
    | none, p :: t => t.foldl KRow.merge p
  (ps, { r with bad := r.bad || q.2.2.2 })

/-- FP32 rows and (m, l) pairs already at an output address. -/
def oldRow (i o dim rows k : Nat) (s : State) : KRow :=
  let at_ (x : Nat) : Nat := leNat (spadRead i x 4 s)
  let st := o + rows * dim * 4 + 8 * k
  ⟨(List.range dim).map (fun j => at_ (o + (k * dim + j) * 4)), at_ st, at_ (st + 4),
    !(spadBadIn i (o + k * dim * 4) (dim * 4) s).isEmpty || !(spadBadIn i st 8 s).isEmpty, 0⟩

/-- Write a row's output in a format of OUT, and its (m, l) pair where asked. -/
def putRow (i o dim rows out : Nat) (stt : Bool) (k : Nat) (r : KRow) (s : State) : State :=
  let w := if out = 0 then 2 else 4
  let all (n : Nat) : List Nat := if r.bad then List.range n else []
  let bytes := r.o.flatMap (fun c => if out = 0 then leBytes 2 (toFlt fmtBf16 0 false (dec32 c)).code else leBytes 4 c)
  let s1 := spadWrite i (o + k * dim * w) bytes (all bytes.length) s
  if stt then spadWrite i (o + rows * dim * w + 8 * k) (leBytes 4 r.m ++ leBytes 4 r.l) (all 8) s1 else s1

/-- Write rows k on. -/
def putRows (i o dim rows out : Nat) (stt : Bool) : Nat → List KRow → State → State
  | _, [], s => s
  | k, r :: t, s => putRows i o dim rows out stt (k + 1) t (putRow i o dim rows out stt k r s)

/-- Read the blocks of a list whole. -/
def kvData (i : Nat) (h : KvH) : List KBlk → Kx → List KData × Kx
  | [], x => ([], x)
  | b :: t, x =>
    let r := kvRd i (slotVa i b.slot x.s) h.blkLen x
    let u := kvData i h t r.2
    (⟨b, r.1.1, r.1.2⟩ :: u.1, u.2)

/-- Mass of a block over the rows that contribute (R699). -/
def kvMass (parts : List (KRow × KRow)) : Nat :=
  parts.foldl (fun a p =>
    if p.1.none || decide (p.1.n = 0) then a
    else f32add a (f32div (f32mul (enc32 (dec32 (f32sub p.1.m p.2.m)).exp2) p.1.l) p.2.l)) 0

/-- A block's new score: SCORE × (1 − DECAY ÷ 256) + mass. -/
def newScore (score decay mass : Nat) : Nat := f32add (f32mul score (enc32 (.fin false (256 - decay) (-8)))) mass

/-- Write the new score of block k of a handle from the rows in use (R699). -/
def scoreBlock (i : Nat) (h : KvH) (bs : List KBlk) (use : List (List KRow × KRow)) (x : Kx) (k : Nat) : Kx :=
  match bs[k]? with
  | none => x
  | some b =>
    let mass := kvMass (use.map (fun r => ((r.1[k]?).getD (KRow.empty h.dim), r.2)))
    kvWr i (slotVa i b.slot x.s) (leBytes 4 (newScore b.score h.decay mass)) [] x

/-- Whether the scores of a handle cover part of its rows only: kept with the handle, and told (R699). -/
def tellPart (i hn : Nat) (part : Bool) (s : State) : State :=
  let t := setKvH i hn { kvH i hn s with part := part } s
  if part then raise (kvP i) 20 t else t

/-- Update the scores of a handle's blocks after the output is written (R699). -/
def kvScores (i hn : Nat) (h : KvH) (bs : List KBlk) (rows : List (List KRow × KRow)) (x : Kx) : Kx :=
  let part := decide (bs.length * rows.length > 8192)
  let use := if part then rows.take (8192 / max 1 bs.length) else rows
  let x1 := (List.range bs.length).foldl (scoreBlock i h bs use) x
  if x1.err.isSome then x1 else { x1 with s := tellPart i hn part x1.s }

/-- KATTN's work (R696-R699, R716, R728). -/
def kattnWork (i hn num : Nat) (c : QCmd) (x : Kx) : Kx :=
  let mod := cwMod c.word
  let a := spadAddr c.word c.sa
  let out := bitsOf mod 5 4
  let stt := bitOf mod 6
  let mrg := bitOf mod 3
  let h := kvH i hn x.s
  let o := c.sb.v.toNat
  if bitsOf mod 11 7 ≠ 0 ∨ out ≥ 2 ∨ (mrg ∧ ¬ (out = 1 ∧ stt)) ∨ o ≥ 2 ^ 21 then x.fail (.st 0x0A)
  else match readQuery i a h.dim x.s with
    | none => x.fail (.st 0x0A)
    | some q =>
      let n := q.rows.length
      let size := n * h.dim * (if out = 0 then 2 else 4) + (if stt then 8 * n else 0)
      if ¬ spadInRange o size then x.fail (.st 0x0A)
      else
        let s0 := spadSeen i a (queryLen h.dim q.r q.g) x.s
        let x0 := kvTrim i hn { x with s := if mrg then spadSeen i o size s0 else s0 }
        let h := kvH i hn x0.s
        let ch := kvChain i h x0
        let ds := kvData i h ch.1 ch.2
        let x1 := ds.2
        if x1.err.isSome then x1
        else
          let rows := (List.range n).map (fun k =>
            rowRun h (mod % 4) ds.1 (if mrg then some (oldRow i o h.dim n k x1.s) else none)
              ((q.rows[k]?).getD (0, 0, [], false)))
          let s2 := putRows i o h.dim n out stt 0 (rows.map (·.2)) x1.s
          let x2 : Kx := { x1 with s := setKvH i hn { kvH i hn s2 with part := false } s2, wr := true }
          let x3 := if bitOf mod 2 then kvScores i hn h ch.1 rows x2 else x2
          let bad := rows.any (fun r => r.2.bad)
          let s4 := bump64 (kvP i + 0xEC) ((rows.map (fun r => (r.1.map (·.n)).foldl (· + ·) 0)).foldl (· + ·) 0) x3.s
          if x3.err.isSome then x3 else { x3 with s := kvEnd i num (if bad then 4 else 0) 0 (if bad then raise (kvP i) 19 s4 else s4) }

/-! ### The drove ring (R710-R714) -/

/-- A ring descriptor (Table 13-9). -/
structure Ring where
  at_ : Nat
  n1 : Nat
  step : Nat
  gb : Nat
  mask : Nat
  remote : Bool
  round : Nat
  own : Nat
  succ : Nat
  pred : Nat
  q : Nat
  o : Nat
  sent : Bool
  ackp : Bool
  deriving DecidableEq, Repr

/-- The descriptor that eight words spell, if every field is in its range. -/
def ringOf (a : Nat) (w : List Nat) : Option Ring :=
  let g (k : Nat) : Nat := (w[k]?).getD 0
  let r : Ring := ⟨a, g 0 % 4096, bitsOf (g 0) 23 12, bitsOf (g 0) 31 24, bitsOf (g 0) 33 32, bitOf (g 0) 34, bitsOf (g 0) 55 40,
    g 1, g 2, g 3, g 4 % 2 ^ 21, bitsOf (g 4) 52 32, bitOf (g 6) 0, bitOf (g 6) 1⟩
  let bad : Bool := decide (r.n1 = 0) || decide (r.step = 0) || decide (r.step > r.n1) || decide (r.gb = 0) || decide (r.gb > 64)
    || decide (bitsOf (g 0) 39 35 ≠ 0) || decide (g 0 / 2 ^ 56 ≠ 0) || decide (g 1 ≥ 2 ^ 39)
    || (!r.remote && (decide (g 2 ≥ 2 ^ 39) || decide (g 3 ≥ 2 ^ 39)))
    || decide (bitsOf (g 4) 31 21 ≠ 0) || decide (bitsOf (g 4) 63 53 ≠ 0) || decide (g 5 ≠ 0) || decide (g 6 ≥ 4) || decide (g 7 ≠ 0)
  if bad then none else some r

/-- σ (R712). -/
def Ring.sigma (r : Ring) : Nat := r.round * r.n1 + r.step

/-- Read a rod's descriptor. -/
def readRing (i a : Nat) (s : State) : Option Ring :=
  if a % 8 ≠ 0 ∨ ¬ spadInRange a 64 then none
  else ringOf a ((List.range 8).map (fun k => leNat (spadRead i (a + 8 * k) 8 s)))

/-- Write a descriptor's phase word. -/
def putPhase (i : Nat) (r : Ring) (sent ackp : Bool) (s : State) : State :=
  spadWrite i (r.at_ + 48) (leBytes 8 (b2n sent + 2 * b2n ackp)) [] s

/-- Offset of slot k (σ mod 2) of a ring area. -/
def Ring.slot (r : Ring) (h : KvH) (k : Nat) : Nat := 64 + k % 2 * r.gb * h.stride

/-- Read and write a ring area of the herd; beyond the herd's bead space an access fails. -/
def ringRd (i hba len : Nat) (x : Kx) : (List Byte × List Nat) × Kx :=
  let n := herdNo i x.s
  if hba + len > herdC n x.s then (([], []), x.fail (.st 9))
  else if hbaHeld n hba len false x.s then (([], []), x.fail .wait)
  else
    let r := hbaReadAll n hba len x.s
    ((r.2.1, r.2.2.1), ({ x with s := r.2.2.2 }).status r.1)

def ringWr (i hba : Nat) (bs : List Byte) (bad : List Nat) (x : Kx) : Kx :=
  let n := herdNo i x.s
  if x.err.isSome then x
  else if hba + bs.length > herdC n x.s then x.fail (.st 9)
  else if hbaHeld n hba bs.length true x.s then x.fail .wait
  else
    let r := hbaWriteAll n hba bs bad x.s
    ({ x with s := r.2, wr := true }).status r.1

/-- Add 1 to a counter of a ring area, atomically. -/
def ringAdd (i hba : Nat) (x : Kx) : Kx :=
  let r := ringRd i hba 8 x
  if r.2.err.isSome then r.2 else ringWr i hba (leBytes 8 ((leNat r.1.1 + 1) % 2 ^ 64)) [] r.2

/-- The carry of a step (R712 step 1): the bytes of each position with its offset in the slot. -/
def carryOwn (i : Nat) (h : KvH) (r : Ring) (x : Kx) : List (Nat × List Byte × List Nat) × Kx :=
  (List.range r.gb).foldl (fun t k =>
    let c := ringRd i (r.own + r.slot h (r.sigma - 1) + k * h.stride) h.blkLen t.2
    let p := if bitOf (field c.1.1 5 1) 0 then (k * h.stride, c.1.1, c.1.2) else (k * h.stride, List.replicate 128 0, [])
    (t.1 ++ [p], c.2)) ([], x)

def carryList (i : Nat) (h : KvH) (r : Ring) (x : Kx) : List (Nat × List Byte × List Nat) × Kx :=
  let ch := kvChain i h x
  let ds := kvData i h ((ch.1.drop (r.round * r.gb)).take r.gb) ch.2
  ((List.range r.gb).map (fun k => match ds.1[k]? with
    | some d => (k * h.stride, d.bs, d.bad)
    | none => (k * h.stride, List.replicate 128 0, [])), ds.2)

/-- Join segments that follow one another. -/
def joinSegs : List (Nat × List Byte × List Nat) → List (Nat × List Byte × List Nat)
  | [] => []
  | a :: t =>
    match joinSegs t with
    | b :: u => if a.1 + a.2.1.length = b.1 then (a.1, a.2.1 ++ b.2.1, a.2.2 ++ b.2.2.map (· + a.2.1.length)) :: u else a :: b :: u
    | [] => [a]

/-- Cut a segment into transactions of at most 2,048 bytes (Table 12-9). -/
def cutSeg : Nat → Nat × List Byte × List Nat → List (Nat × List Byte × List Nat)
  | 0, _ => []
  | f + 1, a =>
    if a.2.1.isEmpty then []
    else (a.1, a.2.1.take 2048, badPart a.2.2 0 2048) ::
      cutSeg f (a.1 + 2048, a.2.1.drop 2048, (a.2.2.filter (fun k => decide (k ≥ 2048))).map (fun k => k - 2048))

/-- Keep a started KRING's numbers: phase, transactions outstanding. -/
def ringPhase (i num ph left : Nat) (s : State) : State :=
  updStarted i num (fun c => { c with blocked := false, aux := listSet (listSet c.aux 0 ph) 2 left }) s

/-- Issue an ATOMIC ADD of 1 to a global address and wait for it in phase `ph`. -/
def ringAtomic (i num ph g : Nat) (s : State) : State :=
  e2eSubmit 3 3 (g / 2 ^ 46) (g % 2 ^ 46) 0 0 (leBytes 8 1) [] (.ring i num ph) (ringPhase i num ph 1 s)

/-- Counters ARR and ACKD of this member: none when they are out of step (Table 13-11). -/
def ringCounts (i : Nat) (r : Ring) (x : Kx) : Option (Nat × Nat) × Kx :=
  let c := ringRd i r.own 16 x
  let arr := field c.1.1 0 8
  let ack := field c.1.1 8 8
  (if arr > r.sigma + 1 ∨ ack > r.sigma then none else some (arr, ack), c.2)

/-- RING_BAD (Table 13-11). -/
def ringBad (i hn num : Nat) (r : Ring) (s : State) : State :=
  kvEnd i num 0x85 (r.step * 2 ^ 44) (recordCE (kvP i) 0x1904 (hn % 256) 0 s)

/-- Step 5: the next step or round (R712). -/
def ringAdvance (i num : Nat) (r : Ring) (seen : Nat) (s : State) : State :=
  let step := if r.step = r.n1 then 1 else r.step + 1
  let round := if r.step = r.n1 then (r.round + 1) % 65536 else r.round
  let w := r.n1 + step * 2 ^ 12 + r.gb * 2 ^ 24 + r.mask * 2 ^ 32 + b2n r.remote * 2 ^ 34 + round * 2 ^ 40
  let s1 := putPhase i r false false (spadWrite i r.at_ (leBytes 8 w) [] s)
  kvEnd i num 0 (r.step * 2 ^ 44 + seen % 2 ^ 32) (bump (kvP i) KV_RING_STEPS 1 s1)

/-- Tokens a KRING has consumed, which it keeps in its numbers. -/
def ringSeen (i num : Nat) (s : State) : Nat := match startedBy i num s with | some c => (c.aux[3]?).getD 0 | none => 0

/-- Step 4: attention over the valid blocks of the slot that has arrived is merged into O; then step 5 (R712). -/
def ringConsume (i hn num : Nat) (r : Ring) (x : Kx) : Kx :=
  let h := kvH i hn x.s
  match readQuery i r.q h.dim x.s with
  | none => x.fail (.st 0x0A)
  | some q =>
    let n := q.rows.length
    if ¬ spadInRange r.o (n * h.dim * 4 + 8 * n) then x.fail (.st 0x0A)
    else
      let x0 : Kx := { x with s := spadSeen i r.o (n * h.dim * 4 + 8 * n) (spadSeen i r.q (queryLen h.dim q.r q.g) x.s) }
      let c := (List.range r.gb).foldl (fun (t : List KData × Kx) k =>
        let d := ringRd i (r.own + r.slot h r.sigma + k * h.stride) h.blkLen t.2
        let b := hdrOf k d.1.1
        let x1 := if (badPart d.1.2 0 128).isEmpty then d.2 else d.2.fail .chain
        (if b.valid then t.1 ++ [⟨b, d.1.1, d.1.2⟩] else t.1, x1)) ([], x0)
      if c.2.err.isSome then c.2
      else
        let rows := (List.range n).map (fun k =>
          rowRun h r.mask c.1 (some (oldRow i r.o h.dim n k c.2.s)) ((q.rows[k]?).getD (0, 0, [], false)))
        let seen := (rows.map (fun r => (r.1.map (·.n)).foldl (· + ·) 0)).foldl (· + ·) 0
        let bad := rows.any (fun r => r.2.bad)
        let s1 := bump64 (kvP i + 0xEC) seen (putRows i r.o h.dim n 1 true 0 (rows.map (·.2)) c.2.s)
        let s2 := updStarted i num (fun c => { c with blocked := false, aux := listSet c.aux 3 seen }) s1
        let x2 : Kx := { c.2 with s := s2 }
        if bad then { x2 with s := kvEnd i num 4 (r.step * 2 ^ 44 + seen % 2 ^ 32) (raise (kvP i) 19 s2) }
        else if r.step = r.n1 then
          (if r.remote then { x2 with s := ringAtomic i num 6 (r.pred + 8) s2 }
           else
             let x3 := ringAdd i (r.pred + 8) x2
             if x3.err.isSome then x3 else { x3 with s := ringAdvance i num r seen x3.s })
        else { x2 with s := ringAdvance i num r seen s2 }

/-- Step 3: wait for ARR (R712, R713). -/
def ringArrive (i hn num : Nat) (r : Ring) (x : Kx) : Kx :=
  let k := ringCounts i r x
  if k.2.err.isSome then k.2
  else match k.1 with
    | none => { k.2 with s := ringBad i hn num r k.2.s }
    | some c =>
      if c.1 ≥ r.sigma then ringConsume i hn num r k.2
      else
        let n := herdNo i k.2.s
        let home := if r.remote then r.pred % 2 ^ 46 else (hbaAt n r.pred k.2.s).1
        let nums := [3, 0, 0, 0, home, b2n r.remote, r.pred / 2 ^ 46]
        let s1 := updStarted i num (fun c => { c with aux := nums }) k.2.s
        { k.2 with s := match startedBy i num s1 with
          | some c => if c.blocked then s1 else blockNow i num s1
          | none => s1 }

/-- Step 2: release the predecessor's slot (R712). -/
def ringRelease (i hn num : Nat) (r : Ring) (x : Kx) : Kx :=
  if r.step ≥ 2 ∧ ¬ r.ackp then
    if r.remote then { x with s := ringAtomic i num 5 (r.pred + 8) x.s }
    else
      let x1 := ringAdd i (r.pred + 8) x
      if x1.err.isSome then x1
      else ringArrive i hn num { r with ackp := true } { x1 with s := putPhase i r true true x1.s }
  else ringArrive i hn num r x

/-- Step 1: send (R712). -/
def ringGo (i hn num : Nat) (r : Ring) (x : Kx) : Kx :=
  let h := kvH i hn x.s
  if r.sent then ringRelease i hn num r x
  else
    let k := ringCounts i r x
    if k.2.err.isSome then k.2
    else match k.1 with
      | none => { k.2 with s := ringBad i hn num r k.2.s }
      | some c =>
        if r.sigma ≥ 3 ∧ c.2 < r.sigma - 2 then { k.2 with s := ringPhase i num 1 0 k.2.s }
        else
          let cs := if r.step = 1 then carryList i h r k.2 else carryOwn i h r k.2
          if cs.2.err.isSome then cs.2
          else if r.remote then
            let parts := (joinSegs cs.1).flatMap (fun a => cutSeg (a.2.1.length / 2048 + 1) a)
            let base := r.succ + r.slot h r.sigma
            let send (t : State) (p : Nat × List Byte × List Nat) : State :=
              e2eSubmit 1 3 (r.succ / 2 ^ 46) ((base + p.1) % 2 ^ 46) 0 0 p.2.1 p.2.2 (.ring i num 2) t
            { cs.2 with s := parts.foldl send (ringPhase i num 2 parts.length cs.2.s) }
          else
            let x1 := cs.1.foldl (fun x p => ringWr i (r.succ + r.slot h r.sigma + p.1) p.2.1 p.2.2 x) cs.2
            let x2 := ringAdd i r.succ x1
            if x2.err.isSome then x2
            else ringRelease i hn num { r with sent := true } { x2 with s := putPhase i r true r.ackp x2.s }

/-- KRING's work, from where its descriptor says it is. -/
def kringWork (i hn num : Nat) (c : QCmd) (x : Kx) : Kx :=
  if cwMod c.word ≠ 0 then x.fail (.st 0x0A)
  else match readRing i (spadAddr c.word c.sa) x.s with
    | none => x.fail (.st 0x0A)
    | some r =>
      match readQuery i r.q (kvH i hn x.s).dim x.s with
      | none => x.fail (.st 0x0A)
      | some q =>
        let n := q.rows.length
        if ¬ spadInRange r.o (n * (kvH i hn x.s).dim * 4 + 8 * n) then x.fail (.st 0x0A)
        else if r.remote && !e2eOpen x.s then x.fail (.st 8)
        else ringGo i hn num r (kvTrim i hn { x with s := spadSeen i r.at_ 64 x.s })

/-! ### The unit -/

/-- KSTAT's result (R702). -/
def kstatWord (h : KvH) : SReg :=
  statusWord (if h.st = 0 then 0x83 else 0) (h.st % 8 * 2 ^ 53 + b2n h.part * 2 ^ 52 +
    (if h.st = 3 then h.fwdRod % 1024 + h.fwdH % 256 * 2 ^ 10 else h.nblk % 65536 * 2 ^ 32 + h.len % 2 ^ 32))

/-- Do a started command's work; what it leaves undone waits. -/
def kvWork (i num : Nat) (hs : List (List (Option Nat))) (s : State) : State :=
  match startedBy i num s with
  | none => s
  | some st =>
    let c := st.cmd
    let hn := c.sc.v.toNat
    let h := kvH i hn s
    let x : Kx := ⟨s, hs, none, false⟩
    if h.st == 0 || h.st == 4 then kvEnd i num 0x83 0 s
    else if h.st = 3 then kvEnd i num 0x80 0 s
    else match cwOp c.word with
      | 1 => kvClose i hn num s (kappWork i hn num c x)
      | 2 => kvClose i hn num s (kattnWork i hn num c x)
      | _ => kvCloseRing i hn num s (kringWork i hn num c x)

/-- What the KV unit does at the start of a command (R691, R702, R716): on a handle that closes it is refused, on a frozen one held
(R721, R722). -/
def kvRun (i : Nat) (hs : List (List (Option Nat))) (c : QCmd) (s : State) : State :=
  let bad := c.sc.v.toNat ≥ 256
  match cwOp c.word with
  | 4 =>
    if bad then finish i c 0x0A (statusWord 0x0A 0) s
    else startDone i c (if (kvH i c.sc.v.toNat s).st = 0 then 0x83 else 0) (kstatWord (kvH i c.sc.v.toNat s)) s
  | _ =>
    let s1 := addStarted i (Started.fresh c [0, 0, 0, 0, 0, 0, 0]) s
    let h := kvH i c.sc.v.toNat s
    if bad then kvEnd i c.num 0x0A 0 s1
    else if h.closing then kvEnd i c.num 0x83 0 s1
    else if h.frozen then kvWait i c.num 8 0 s1
    else kvWork i c.num hs s1

/-- At most one started command (R703). -/
def kvFree (i : Nat) (_ : QCmd) (s : State) : Bool := (startedOf 6 (seqOf i s)).isEmpty

/-- Issue to the KV unit, which starts its head at once when its waits and its one slot allow. -/
def kvIssue (i : Nat) (w : CmdWord) (hs : List (List (Option Nat))) (s : State) : State :=
  startHead i 6 (kvFree i) (kvRun i hs) (issueUnit i w s)

/-- KAPP appends a token to its handle's tail block (R692-R694). -/
def execKapp (i : Nat) (w : CmdWord) (hs : List (List (Option Nat))) (s : State) : Res := .next (kvIssue i w hs s)
/-- KATTN runs attention of a query block over a handle's blocks (R696-R699). -/
def execKattn (i : Nat) (w : CmdWord) (hs : List (List (Option Nat))) (s : State) : Res := .next (kvIssue i w hs s)
/-- KRING runs one step of the drove ring (R711-R714). -/
def execKring (i : Nat) (w : CmdWord) (hs : List (List (Option Nat))) (s : State) : Res := .next (kvIssue i w hs s)
/-- KSTAT writes a handle's status word (R702). -/
def execKstat (i : Nat) (w : CmdWord) (hs : List (List (Option Nat))) (s : State) : Res := .next (kvIssue i w hs s)

/-- A KV command that waits may go on: phase 10 works again, phase 11 has met FAIL. -/
def kvRetry (i num : Nat) (hs : List (List (Option Nat))) (s : State) : State :=
  match startedBy i num s with
  | some c =>
    if c.done then s
    else match (c.aux[0]?).getD 0 with
      | 10 => kvWork i num hs (kvWait i num 0 0 s)
      | 11 => kvEnd i num 9 0 s
      | _ => s
  | none => s

/-- The ring and handle of a started KRING. -/
def ringAt (i num : Nat) (s : State) : Option (Nat × Ring) :=
  match startedBy i num s with
  | some c =>
    if c.done then none
    else (readRing i (spadAddr c.cmd.word c.cmd.sa) s).map (fun r => (c.cmd.sc.v.toNat, r))
  | none => none

/-- KRING_RESUME (R712): a KRING that waits for ACKD or ARR looks again and goes on once its counter has come. -/
def execKringResume (i num : Nat) (hs : List (List (Option Nat))) (s : State) : Res :=
  match startedBy i num s, ringAt i num s with
  | some c, some (hn, r) =>
    if cwUnit c.cmd.word ≠ 6 then .next s
    else match (c.aux[0]?).getD 0 with
      | 1 => .next (kvWork i num hs s)
      | 3 => .next (kvCloseRing i hn num s (ringArrive i hn num r ⟨s, hs, none, false⟩))
      | _ => .next s
  | _, _ => .next s

/-- A transaction of a KRING has its outcome (R712, R714): the status that its issuer sees. -/
def ringDone (i num ph st : Nat) (s : State) : State :=
  match startedBy i num s, ringAt i num s with
  | some c, some (hn, r) =>
    if (c.aux[0]?).getD 0 ≠ ph then s
    else if st ≠ 0 then kvEnd i num st (r.step * 2 ^ 44) s
    else
      let x : Kx := ⟨s, [], none, false⟩
      match ph with
      | 2 =>
        let left := (c.aux[2]?).getD 0 - 1
        if left = 0 then ringAtomic i num 4 r.succ s else ringPhase i num 2 left s
      | 4 =>
        let t := putPhase i r true r.ackp s
        kvCloseRing i hn num t (ringRelease i hn num { r with sent := true } { x with s := t })
      | 5 =>
        let t := putPhase i r true true s
        kvCloseRing i hn num t (ringArrive i hn num { r with ackp := true } { x with s := t })
      | _ => ringAdvance i num r (ringSeen i num s) s
  | _, _ => s

end Sys2Proof.Machine
end

