-- ==== Sys2Proof/Machine/E2eDone.lean ====
section
/-! DEFINITION. The end of an end-to-end transaction at its source (R660, R675, R679), and the duplicate table's bookkeeping (R661, R662). -/
namespace Sys2Proof.Machine

/-- Give an issuer its outcome: a status as it sees it, data and poisoned offsets. -/
def txnTell (w : Issuer) (st : Nat) (data : List Byte) (bad : List Nat) (s : State) : State :=
  match w with
  | .req id =>
    updReq id (fun r =>
      { r with
        phase := 3, status := (if st = 4 then 0 else st)
        data := (if r.write then r.data else data), bad := (if r.write then r.bad else bad) }) s
  | .send i num =>
    (match startedBy i num s with
     | some c => if cwUnit c.cmd.word = 1 then chanAnswer i (cwD c.cmd.word % 8) num st s else sendDone i num st s
     | none => s)
  | .ring i num ph => ringDone i num ph st s
  | .gone _ => s

/-- An orderly leave goes on once no transaction is outstanding (R653): the device sends LEAVE_REQ. -/
def leaveIfIdle (s : State) : State :=
  if flag (e2eP 0) E2E_STAT_LEAVING s && s.e2e.live.isEmpty && s.e2e.wait.isEmpty then
    let m := nextMsg s
    toManager 0x1A m.1 [ownSerial, nodeId s, nodeEpoch s] m.2
  else s

/-- A live transaction has its final outcome, or gives up: its tag is free, its issuer is told, and waiting transactions may start. -/
def txnEnd (t : Txn) (st : Nat) (data : List Byte) (bad : List Nat) (s : State) : State :=
  leaveIfIdle (e2ePump (txnTell t.who st data bad (e2eRetire t s)))

/-- Every transaction to node n ends with REMOTE_FAIL (R675). -/
def endNode (n : Nat) (s : State) : State :=
  let s1 := (s.e2e.live.filter (fun t => t.node == n)).foldl (fun u t => txnTell t.who 7 [] [] (e2eRetire t u)) s
  let gone := s1.e2e.wait.filter (fun t => t.node == n)
  let s2 := { s1 with e2e := { s1.e2e with wait := s1.e2e.wait.filter (fun t => t.node != n) } }
  leaveIfIdle (e2ePump (gone.foldl (fun u t => txnTell t.who 7 [] [] u) s2))

/-- Show the duplicate table's use. -/
def showDups (s : State) : State :=
  let n := s.e2e.dups.length
  setF (e2eP 0) E2E_DUP_HIGH (max n (getF (e2eP 0) E2E_DUP_HIGH s)) (setF (e2eP 0) E2E_DUP_USED n s)

/-- An ANNOUNCE of node n with epoch e (R662): its done entries of another epoch go, and an executing one will give no answer. -/
def purgeDups (n e : Nat) (s : State) : State :=
  let l := s.e2e.dups.filter (fun d => !(d.src == n && d.epoch != e && d.done.isSome))
  showDups { s with e2e := { s.e2e with dups := l.map (fun d => if d.src == n && d.epoch != e then { d with mute := true } else d) } }

/-- Quiet time begins (R663). -/
def quietNow (s : State) : State := setF (e2eP 0) E2E_STAT_QUIET 1 { s with e2e := { s.e2e with since := s.now } }

end Sys2Proof.Machine
end

