-- ==== Sys2Proof/Machine/Fm.lean ====
section
/-! DEFINITION. Family: the fabric manager and its messages (R647-R654, R674, R675). A message's contents are a command's operands: what a
flooded message carries is its port, its originator's serial and sequence, and its content. Which table entries an elected MGS writes is
its own choice: they are operands too (`writes`: node, then table, first index and entries). -/
namespace Sys2Proof.Machine

/-! ### What a device does -/

/-- Show the manager in force (RTR_FM); ROLE_CHANGE when it changes. -/
def setManager (role here node pri : Nat) (s : State) : State :=
  let r := rtrP 0
  let same := fmRole s == role && getF r RTR_FM_HOSTHERE s == here && getF r RTR_FM_MGR_NODE s == node % 2 ^ 18
  let s1 := setF r RTR_FM_ROLE role (setF r RTR_FM_HOSTHERE here (setF r RTR_FM_MGR_NODE node (setF r RTR_FM_MGR_PRI pri s)))
  if same then s1 else raise r 16 s1

/-- The device forgets its manager (R650). -/
def loseManager (s : State) : State :=
  mgsClaim (setManager 0 0 0 0 (raise (rtrP 0) 21 (recordCE (rtrP 0) 0x2204 0 0
    { s with rtr := { s.rtr with best := none, beat := none, claimed := none } })))

/-- An ANNOUNCE takes effect here (R653, R662, R674, R675). -/
def announced (leave : Bool) (n e : Nat) (s : State) : State :=
  let r := rtrP 0
  let s1 := setF r RTR_JL_V 1 (setF r RTR_JL_KIND (b2n leave) (setF r RTR_JL_NODE n (setF r RTR_JL_EPOCH e s)))
  let s2 := purgeDups n e (raise r (if leave then 19 else 18) s1)
  let own := nodeValid s && nodeId s == n
  if leave then
    let s3 := endNode n s2
    if own then
      quietNow (raise (e2eP 0) 19 (setF (e2eP 0) E2E_STAT_LEAVING 0 (setF glbP GLB_NODE_NODE_VALID 0
        { s3 with e2e := { s3.e2e with announced := false } })))
    else s3
  else if own then
    if nodeEpoch s = e then e2ePump { s2 with e2e := { s2.e2e with announced := true } }
    else
      raise (rtrP 0) 21 (recordCE (rtrP 0) 0x2204 0 0 (setF glbP GLB_NODE_NODE_VALID 0
        { s2 with e2e := { s2.e2e with announced := false } }))
  else s2

/-- CLAIM (R649): a flooded claim is forwarded only if its key beats every key seen; a candidate that it beats gives way. -/
def execClaim (inp : Via) (serial seq host pri kserial : Nat) (s : State) : Res :=
  let k : MgrKey := ⟨host, pri, kserial⟩
  if seenMsg serial seq s then .next s
  else
    let s1 := rememberMsg serial seq s
    if beatsBest k s1 then
      .next (flood inp 0x10 [serial, seq, host, pri, kserial] { s1 with rtr := { s1.rtr with best := some k, claimed := none } })
    else .next s1

/-- HEARTBEAT (R650, R654): the manager is alive; fabric time moves forward to its own. -/
def execHeartbeat (inp : Via) (serial seq host pri kserial node ftime : Nat) (s : State) : Res :=
  let k : MgrKey := ⟨host, pri, kserial⟩
  if seenMsg serial seq s then .next s
  else
    let s1 := flood inp 0x11 [serial, seq, host, pri, kserial, node, ftime] (rememberMsg serial seq s)
    if beatsBest k s1 || s1.rtr.best == some k then
      let s2 := { s1 with rtr := { s1.rtr with
        best := some k, beat := some s.now, claimed := none, offset := max s1.rtr.offset (ftime - s.now) } }
      .next (setManager (if host = 1 then 3 else 2) 0 node pri s2)
    else .next s1

/-- FM_LOST (R650): no HEARTBEAT for 50 ms. -/
def execFmLost (s : State) : Res :=
  match s.rtr.beat with
  | some t => .next (if managerHere s then s else loseManager (waitTill (t + 50000000) s))
  | none => .next s

/-- Content of a TOPO_REP: serial, node ID and epoch, and each port's phase, width and partner. -/
def topoFields (s : State) : List Nat :=
  [ownSerial, b2n (nodeValid s), nodeId s, nodeEpoch s] ++ (List.range 16).flatMap (fun p =>
    [getF (rlpP p) RLP_STAT_PHASE s, getF (rlpP p) RLP_STAT_WIDTH s, rd64 (rlpP p + 0x88) s, getF (rlpP p) RLP_NBR_PORT s])

/-- Answer the manager at node `src`; a device without a node ID answers through its relay. -/
def replyTo (src op seq : Nat) (f : List Nat) (s : State) : State :=
  if nodeValid s then toNode src op seq f s else emit (.rlMsg 17 op (seq :: f)) s

/-- TOPO_REQ is answered with TOPO_REP (Table 12-7). -/
def execTopoReq (src seq : Nat) (s : State) : Res := .next (replyTo src 0x13 seq (topoFields s) s)

/-- A device takes a node ID and epoch (Table 12-8 step 3), unless FABRIC is not in force (R680). -/
def takeNode (node epoch : Nat) (s : State) : State :=
  let same := nodeValid s && nodeId s == node % 2 ^ 18 && nodeEpoch s == epoch % 256
  let s1 := setF glbP GLB_NODE_NODE_VALID 1 (setF glbP GLB_NODE_NODE_ID node (setF glbP GLB_NODE_EPOCH epoch s))
  if same then s1 else { s1 with e2e := { s1.e2e with announced := false } }

/-- Joining a fabric needs FABRIC (R13, R680): without it the RTR page raises its denial event and nothing else happens (where the command's status
LICENCE_ABSENT would stand is open: assumption log 128). -/
def joinDenied (s : State) : State := raise (rtrP 0) 2 s

/-- ASSIGN (R651): the device writes GLB_NODE and answers ASSIGN_ACK; repeated, it has the same result. -/
def execAssign (src seq node epoch : Nat) (s : State) : Res :=
  if !fabricOn s then .next (joinDenied s)
  else .next (replyTo src 0x15 seq [ownSerial, node, epoch] (takeNode node epoch s))

/-- Address of entry m of a table: 0 in-group, 1 group. -/
def tableAddr (table m : Nat) : Option Nat :=
  if table = 0 then (if m < 256 then some (rtrP 1 + 0x400 + 4 * m) else none)
  else if m < 512 then some (rtrP 2 + 0x200 + 4 * m)
  else if m < 1024 then some (rtrP 3 + 0x200 + 4 * (m - 512)) else none

/-- Write table entries from index m on. -/
def putRoutes (table : Nat) : Nat → List Nat → State → State
  | _, [], s => s
  | m, e :: t, s =>
    putRoutes table (m + 1) t (match tableAddr table m with
      | some a => wrW a (BitVec.ofNat 32 (e % 2 ^ 25)) { s with rtrBad := nsErase s.rtrBad a }
      | none => s)

/-- ROUTE_WRITE (R651): table entries are written whether or not the page is locked, and ROUTE_ACK is sent. -/
def execRouteWrite (src seq table first : Nat) (entries : List Nat) (s : State) : Res :=
  .next (replyTo src 0x17 seq [ownSerial] (raise (rtrP 0) 17 (putRoutes table first (entries.take 64) s)))

/-! ### What an elected MGS does -/

/-- The MGS here is the elected manager. -/
def mgsManages (s : State) : Bool := fmRole s == 1

/-- A device that the manager knows. -/
def fmNode (serial : Nat) (s : State) : Option FmNode := s.rtr.nodes.find? (fun x => x.serial == serial)

/-- Change it, or add it. -/
def setFmNode (x : FmNode) (s : State) : State :=
  let l := s.rtr.nodes
  let new := if l.any (fun y => y.serial == x.serial) then l.map (fun y => if y.serial == x.serial then x else y) else l ++ [x]
  { s with rtr := { s.rtr with nodes := new } }

/-- Send a request to a device: to its node, or through a relay when it has none. -/
def fmSend (x : FmNode) (op seq : Nat) (f : List Nat) (s : State) : State :=
  match x.node with
  | some n => if op = 0x14 && !x.joined then emit (.rlMsg 17 op (x.serial :: seq :: f)) s else toNode n op seq f s
  | none => emit (.rlMsg 17 op (x.serial :: seq :: f)) s

/-- The content of a device's outstanding request. -/
def FmNode.ask (x : FmNode) : List Nat := if x.asked = 0x14 then [(x.node).getD 0, x.epoch] else []

/-- Ask a device, and remember when. -/
def fmAsk (x : FmNode) (op : Nat) (s : State) : State :=
  let m := nextMsg s
  let y := { x with asked := op, seq := m.1, since := s.now, sent := s.now }
  fmSend y op m.1 y.ask (setFmNode y m.2)

/-- Ask a device that is not yet known for its topology. -/
def fmDiscover (serial : Nat) (s : State) : State :=
  if decide (serial = 0) || (fmNode serial s).isSome then s else fmAsk ⟨serial, none, 0, 0, 0, 0, [], false, [], 0⟩ 0x12 s

/-- A node ID is free: no device known here has it. -/
def nodeFree (n : Nat) (s : State) : Bool := s.rtr.nodes.all (fun x => x.node != some n)

/-- The node ID for a serial (chapter 16): the plan's, if it is free, else the lowest free one. -/
def pickNode (serial : Nat) (s : State) : Nat :=
  match alGet s.mgs.plan serial with
  | some n => if nodeFree n s then n else ((List.range (2 ^ 18)).find? (fun k => nodeFree k s)).getD 0
  | none => ((List.range (s.rtr.nodes.length + 1)).find? (fun k => nodeFree k s)).getD 0

/-- The epoch of an ASSIGN (R652). -/
def nextEpoch (n reported : Nat) (s : State) : Nat := (alGetD s.rtr.epochs n reported + 1) % 256

/-- Announce a node to all, and here. -/
def announce (leave : Bool) (n e : Nat) (s : State) : State :=
  announced leave n e (floodOwn 0x18 [b2n leave, n, e] { s with rtr := { s.rtr with epochs := alSet s.rtr.epochs n e } })

/-- Send table writes. -/
def sendWrites (seq : Nat) (l : List (Nat × List Nat)) (s : State) : State :=
  l.foldl (fun t w => toNode w.1 0x16 seq w.2 t) s

/-- A device is no longer part of the fabric: tables change, and its node's LEAVE is announced (R653). -/
def fmGone (x : FmNode) (writes : List (Nat × List Nat)) (s : State) : State :=
  let m := nextMsg s
  let s1 := sendWrites m.1 writes { m.2 with rtr := { m.2.rtr with nodes := m.2.rtr.nodes.filter (fun y => y.serial != x.serial) } }
  match x.node with
  | some n => announce true n x.epoch s1
  | none => s1

/-- Begin a device's ASSIGN. -/
def fmAssign (x : FmNode) (s : State) : State :=
  let n := pickNode x.serial s
  fmAsk { x with node := some n, epoch := nextEpoch n x.epoch s } 0x14 s

/-- This device as its own manager's first node. -/
def ownNode (s : State) : FmNode :=
  ⟨ownSerial, if nodeValid s then some (nodeId s) else none, nodeEpoch s, 0, 0, 0, [], true,
    (carryingPorts s).map (fun p => (p, rd64 (rlpP p + 0x88) s, getF (rlpP p) RLP_NBR_PORT s)), 0⟩

/-- An MGS that has become the manager takes a node ID itself if it has none, shows itself and asks its neighbours (R650). -/
def mgsRules (pri : Nat) (s : State) : State :=
  let me := ownNode s
  let s2 := { s with rtr := { s.rtr with nodes := [me] } }
  let s3 := if nodeValid s2 then s2
    else if !fabricOn s2 then joinDenied s2
    else
      let n := pickNode ownSerial s2
      let e := nextEpoch n (nodeEpoch s2) s2
      announce false n e (takeNode n e (setFmNode { me with node := some n, epoch := e } s2))
  me.links.foldl (fun t l => fmDiscover l.2.1 t) (setManager 1 0 (nodeId s3) pri s3)

/-- CLAIM_TIMER (R649): a candidate that has seen no better key for 50 ms is the manager. An MGS then rebuilds its view (R650): it takes a
node ID itself if it has none, and asks its neighbours. -/
def execClaimTimer (s : State) : Res :=
  match s.rtr.claimed with
  | none => .next s
  | some t =>
    let k := ownKey s
    if s.rtr.best ≠ some k then .next s
    else
      let s := waitTill (t + 50000000) s
      let s1 := { s with rtr := { s.rtr with claimed := none, beat := some s.now } }
      .next (if s1.rtr.hostHere then setManager 3 1 (nodeId s1) 255 s1 else mgsRules k.pri s1)

/-- HEARTBEAT_TIMER (R648): every 10 ms the manager floods HEARTBEAT with its fabric time. -/
def execHeartbeatTimer (s : State) : Res :=
  let k := ownKey s
  if managerHere s && s.rtr.best == some k then
    let s := waitTill (s.rtr.beat.getD 0 + 10000000) s
    .next (floodOwn 0x11 [k.host, k.pri, k.serial, nodeId s, fabricTime s] { s with rtr := { s.rtr with beat := some s.now } })
  else .next s

/-- TOPO_REP (R651, R653): a device has answered: it is known with its links, one without a node ID is given one, and partners not yet known
are asked. -/
def execTopoRep (serial : Nat) (valid : Bool) (node epoch : Nat) (links : List (Nat × Nat × Nat)) (s : State) : Res :=
  if !mgsManages s then .next s
  else match fmNode serial s with
    | none => .next s
    | some x =>
      let y := { x with asked := 0, epoch := epoch, node := (if valid then some node else none), joined := valid, links := links }
      let s1 := setFmNode y s
      let s2 := if valid then s1 else fmAssign y s1
      .next (links.foldl (fun t l => fmDiscover l.2.1 t) s2)

/-- ASSIGN_ACK (Table 12-8 step 4): the manager writes the tables that change, and with none to write announces the node. -/
def execAssignAck (serial : Nat) (writes : List (Nat × List Nat)) (s : State) : Res :=
  if !mgsManages s then .next s
  else match fmNode serial s with
    | none => .next s
    | some x =>
      if x.asked ≠ 0x14 then .next s
      else
        let m := nextMsg s
        let y := { x with asked := (if writes.isEmpty then 0 else 0x16), seq := m.1, since := s.now, sent := s.now, owed := writes, joined := true }
        let s1 := setFmNode y m.2
        if writes.isEmpty then .next (announce false (x.node.getD 0) x.epoch s1) else .next (sendWrites m.1 writes s1)

/-- ROUTE_ACK (Table 12-8 step 5): node `src` has written its tables; with the last of them the join is announced. -/
def execRouteAck (src seq : Nat) (s : State) : Res :=
  if !mgsManages s then .next s
  else match s.rtr.nodes.find? (fun x => x.asked == 0x16 && x.seq == seq) with
    | none => .next s
    | some x =>
      let left := match x.owed.find? (fun w => w.1 == src) with
        | some w => x.owed.erase w
        | none => x.owed
      let y := { x with owed := left, asked := (if left.isEmpty then 0 else 0x16) }
      let s1 := setFmNode y s
      .next (if left.isEmpty then announce false (x.node.getD 0) x.epoch s1 else s1)

/-- ANNOUNCE (R647, R653, R662): flooded on, and it takes effect here. -/
def execAnnounce (inp : Via) (serial seq : Nat) (leave : Bool) (node epoch : Nat) (s : State) : Res :=
  if seenMsg serial seq s then .next s
  else .next (announced leave node epoch
    (flood inp 0x18 [serial, seq, b2n leave, node, epoch] (rememberMsg serial seq s)))

/-- PORT_EVENT (R651, R653): a device's port has changed: its partner is discovered when new; a device whose partners report every one of its
ports down has left. -/
def execPortEvent (serial port phase pserial pport : Nat) (writes : List (Nat × List Nat)) (s : State) : Res :=
  if !mgsManages s then .next s
  else match fmNode serial s with
    | none => .next s
    | some x =>
      let others := x.links.filter (fun l => l.1 != port)
      let up : Bool := phase == 4 || phase == 5
      let s1 := setFmNode { x with links := if up then others ++ [(port, pserial, pport)] else others } s
      if up then .next (fmDiscover pserial s1)
      else
        let lost := (x.links.filter (fun l => l.1 == port)).map (fun l => l.2.1)
        .next (lost.foldl (fun t q => match fmNode q t with
          | some y =>
            if q ≠ ownSerial ∧ t.rtr.nodes.all (fun z => z.serial == q || z.links.all (fun l => l.2.1 != q)) then fmGone y writes t
            else t
          | none => t) s1)

/-- LEAVE_REQ (R653): the manager rewrites the tables that name the device and announces its LEAVE. -/
def execLeaveReq (serial node epoch : Nat) (writes : List (Nat × List Nat)) (s : State) : Res :=
  if !mgsManages s then .next s
  else match fmNode serial s with
    | some x => .next (fmGone { x with node := some node, epoch := epoch } writes s)
    | none => .next s

/-- MANAGER_REPEAT_TIMER (R648): 1 ms after an unanswered request the manager repeats it. -/
def execManagerRepeatTimer (serial : Nat) (s : State) : Res :=
  if !mgsManages s then .next s
  else match fmNode serial s with
    | none => .next s
    | some x =>
      let w := waitTill (x.sent + 1000000) s
      let t := setFmNode { x with sent := w.now } w
      if x.asked = 0 then .next s
      else if x.asked = 0x16 then .next (sendWrites x.seq x.owed t)
      else .next (fmSend x x.asked x.seq x.ask t)

/-- TOPO_TIMEOUT (R653): a device that has not answered TOPO_REQ for 10 ms has left. -/
def execTopoTimeout (serial : Nat) (writes : List (Nat × List Nat)) (s : State) : Res :=
  if !mgsManages s then .next s
  else match fmNode serial s with
    | some x => .next (if x.asked = 0x12 then fmGone x writes (waitTill (x.since + 10000000) s) else s)
    | none => .next s

/-! ### Register writes -/

/-- E2E_LEAVE (R653): a write of 1 to E2E_CTL.LEAVE starts an orderly leave; without a node ID it is ignored with STATE_REJECT. -/
def execE2eLeave (fn v : Nat) (s : State) : Res :=
  .next (barWrite fn (e2eP 0 + 0x80) (fun s =>
    if !bitOf v 0 then s
    else if !nodeValid s then raise (e2eP 0) 3 s
    else leaveIfIdle (setF (e2eP 0) E2E_STAT_LEAVING 1 s)) s)

/-- The host manager of this device claims, or releases, the role (R649). -/
def hostClaim (s : State) : State :=
  let s1 := { s with rtr := { s.rtr with hostHere := true } }
  let k := ownKey s1
  if beatsBest k s1 then floodOwn 0x10 [k.host, k.pri, k.serial] { s1 with rtr := { s1.rtr with best := some k, claimed := some s.now } }
  else s1

def hostRelease (s : State) : State :=
  let was := managerHere s && fmRole s == 3
  let mine := s.rtr.hostHere && s.rtr.best == some (ownKey s)
  let s1 := { s with rtr := { s.rtr with hostHere := false } }
  let s2 := if mine then { s1 with rtr := { s1.rtr with best := none, claimed := none, beat := none } } else s1
  mgsClaim (if was then setManager 0 0 0 0 s2 else s2)

/-- RTR_HOSTFM_CLAIM: a write of 1 to CLAIM. -/
def execRtrHostfmClaim (fn v : Nat) (s : State) : Res :=
  .next (barWrite fn (rtrP 0 + 0x84) (fun s => if bitOf v 0 then hostClaim s else s) s)

/-- RTR_HOSTFM_RELEASE: a write of 1 to RELEASE. -/
def execRtrHostfmRelease (fn v : Nat) (s : State) : Res :=
  .next (barWrite fn (rtrP 0 + 0x84) (fun s => if bitOf v 1 then hostRelease s else s) s)

end Sys2Proof.Machine
end

