-- ==== Sys2Proof/Machine/Rl.lean ====
section
/-! DEFINITION. Family: Ranhosia Link ports and packets (R626-R646, R672, R677, R684). -/
namespace Sys2Proof.Machine

/-- Phase of a port (R643). -/
def rlPhase (p : Nat) (s : State) : Nat := getF (rlpP p) RLP_STAT_PHASE s
def setPhase (p v : Nat) (s : State) : State := setF (rlpP p) RLP_STAT_PHASE v s

/-- Good lanes, by direction (0 receive, 1 transmit). -/
def rlGood (p d : Nat) (s : State) : List Nat := lanes4 (getF (rlpP p) (if d = 0 then RLP_STAT_GOOD_RX else RLP_STAT_GOOD_TX) s)

/-- DETAIL and locator of an RLP error. -/
def rlDetail (p l : Nat) : Nat := p * 16 + l
def rlLoc (p l : Nat) : Nat := p + l * 16

/-- Show the state of the receive lanes. -/
def showRlLanes (p : Nat) (s : State) : State :=
  (List.range 4).foldl (fun t l =>
    setF (rlpP p) (RLP_LANE_STATE l) (if !(rlGood p 0 t).contains l then 2 else if (rlUsed p 0 t).contains l then 1 else 0) t) s

/-- Set the width and the lanes in use. -/
def setRlWidth (p w : Nat) (rx tx : List Nat) (s : State) : State :=
  showRlLanes p (setF (rlpP p) RLP_STAT_WIDTH w (setF (rlpP p) RLP_STAT_USED_RX (map4 rx) (setF (rlpP p) RLP_STAT_USED_TX (map4 tx) s)))

/-- Tell the manager of a port's change from an old phase and width (Table 12-7). -/
def portEvent (p ph w : Nat) (s : State) : State :=
  let m := nextMsg s
  toManager 0x19 m.1 [ownSerial, p, ph, w, rlPhase p s, getF (rlpP p) RLP_STAT_WIDTH s, rd64 (rlpP p + 0x88) s, getF (rlpP p) RLP_NBR_PORT s] m.2

/-- Packets that wait are routed again (R646), and those that wait for one port go on there. -/
def pumpWait (s : State) : State :=
  let s1 := s.rlWait.foldl (fun t w => routePkt 2 w.1 w.2 t) { s with rlWait := [] }
  s1.rlOut.foldl (fun t w => sendVia w.1 w.2.1 w.2.2 t) { s1 with rlOut := [] }

/-- A port stops carrying. -/
def rlStop (p : Nat) (s : State) : State := setF (rlpP p) RLP_STAT_CARRYING 0 s

/-- A sequenced control flit goes out. -/
def rlCtlOut (p : Nat) (f : List Nat) (s : State) : State :=
  let l := portOf p s
  rlOutFlit p true 0 l.txNext false (rlCtlBytes f) (setPort p (l.sendCtl 0 f) s)

/-- Send a sequenced control flit; it waits while the replay buffer is full (R633). -/
def sendRlCtl (p : Nat) (f : List Nat) (s : State) : State :=
  let l := portOf p s
  if l.replay.length < 512 ∧ l.ctl.isEmpty then rlCtlOut p f s else setPort p { l with ctl := l.ctl ++ [f] } s

/-- Control flits that wait go out as far as there is room. -/
def rlPumpCtl (p : Nat) (s : State) : State :=
  (portOf p s).ctl.foldl (fun t f => sendRlCtl p f t) (setPort p { portOf p s with ctl := [] } s)

/-- A retrain begins. -/
def rlRetrain (p : Nat) (s : State) : State :=
  pumpWait (countRetrain (raise (rlpP p) 18 (setPhase p 6 (rlStop p s))))

/-- The port drains (R643). -/
def rlDrain (p : Nat) (s : State) : State :=
  pumpWait (showRetraining (setRlpX p { rlpX p s with draining := true, since := s.now } (setPhase p 7 (rlStop p s))))

/-- A port that was READY at JUDGE goes down: a loss (R941). -/
def rlLoss (p : Nat) (s : State) : State :=
  if outcome s ≠ 0 ∧ s.judged.contains p then degrade (setF glbP ⟨0x0B8, p, p⟩ 1 (setF glbP GLB_LOSS_RL_BER 1 s)) else s

/-- A ladder step: RLP_LAST and a record (R645). -/
def rlStepRec (p step dir lane : Nat) (s : State) : State :=
  tally 4 0 step (rlpP p) 0 [] (setF (rlpP p) RLP_LAST_STEP step (setF (rlpP p) RLP_LAST_DIR dir (setF (rlpP p) RLP_LAST_LANE lane s)))

/-- The width changes: WIDTH_DOWN, a WIDTH flit, a retrain (R645). -/
def rlChange (p w step dir lane : Nat) (rx tx : List Nat) (s : State) : State :=
  let ph := rlPhase p s
  let ow := getF (rlpP p) RLP_STAT_WIDTH s
  let s1 := recordCE (rlpP p) 0x2104 (rlDetail p lane) (rlLoc p lane) (raise (rlpP p) 16 (rlStepRec p step dir lane s))
  portEvent p ph ow (rlRetrain p (sendRlCtl p [3, w, map4 rx, map4 tx] (setRlWidth p w rx tx s1)))

/-- The port goes down with an error code: it drains first. -/
def rlDown (p dir lane code : Nat) (s : State) : State :=
  let ph := rlPhase p s
  let ow := getF (rlpP p) RLP_STAT_WIDTH s
  let s1 := rlDrain p (setRlpX p { rlpX p s with draining := true, down := code, lane := lane } (rlStepRec p 3 dir lane s))
  rlLoss p (portEvent p ph ow s1)

/-- Used lanes that are good, filled up to w with the lowest good unused ones. -/
def refill (used good : List Nat) (w : Nat) : List Nat :=
  let kept := used.filter (fun l => good.contains l)
  map4 (kept ++ (good.filter (fun l => !kept.contains l)).take (w - kept.length)) |> lanes4

/-- The width ladder of Table 12-6, for what the lanes are now; `dir` and `lane` name the failure. -/
def rlLadder (p dir lane : Nat) (s : State) : State :=
  let rx := rlGood p 0 s
  let tx := rlGood p 1 s
  let w := getF (rlpP p) RLP_STAT_WIDTH s
  let hurt := (rlUsed p 0 s).any (fun l => !rx.contains l) || (rlUsed p 1 s).any (fun l => !tx.contains l)
  if lifeAt (statOf (rlpP p)) s ≠ 2 ∨ (rlpX p s).draining then s
  else if rx.isEmpty || tx.isEmpty then rlDown p dir lane 0x2105 s
  else if !hurt then s
  else
    let g := min rx.length tx.length
    if w = 4 then
      let v := if g ≥ 2 then 2 else 1
      rlChange p v 2 dir lane (rx.take v) (tx.take v) s
    else if w ≤ g then rlChange p w 1 dir lane (refill (rlUsed p 0 s) rx w) (refill (rlUsed p 1 s) tx w) s
    else rlChange p 1 2 dir lane (rx.take 1) (tx.take 1) s

/-- Receive lane l fails (R644): bad until the next STARTING; a step due in a retrain waits for its end (R677). -/
def rlLaneFail (p l : Nat) (s : State) : State :=
  let s1 := showRlLanes p (setF (rlpP p) ⟨0x084, 20 + l, 20 + l⟩ 0 s)
  if rlPhase p s1 = 6 then setRlpX p { rlpX p s1 with lane := l } s1 else rlLadder p 0 l s1

/-- RL_LANE_WINDOW: a 100 ms window of receive lane l ends with its corrected symbols and uncorrectable codewords (R644). -/
def execRlLaneWindow (p l corr uncorr : Nat) (s : State) : Res :=
  if p ≥ 16 ∨ l ≥ 4 then .next s
  else
    let s1 := setF (rlpP p) (RLP_LANE_CORR l) (min (2 ^ 24 - 1) corr) (setF (rlpP p) (RLP_LANE_UNCORR l) (min 63 uncorr) s)
    if ¬ (rlGood p 0 s1).contains l then .next s1
    else if corr > 2550000 ∨ uncorr ≥ 2 then .next (rlLaneFail p l s1)
    else if corr > 106250 then .next (recordCE (rlpP p) 0x2103 (rlDetail p l) (rlLoc p l) (raise (rlpP p) 21 s1))
    else .next s1

/-- RL_LANE_LOCK_LOSS: a lane that loses lock for more than 1 µs fails (R644). -/
def execRlLaneLockLoss (p l : Nat) (s : State) : Res :=
  .next (if p < 16 ∧ l < 4 ∧ (rlGood p 0 s).contains l then rlLaneFail p l s else s)

/-- A loss of lock on every lane of port p. -/
def rlLoseLock (p : Nat) (s : State) : State :=
  (List.range 4).foldl (fun t l => if (rlGood p 0 t).contains l then rlLaneFail p l t else t) s

/-! ### Flits (R630-R633) -/

/-- Return credits in IDLE flits, one for each VC (R631). -/
def rlIdle (p : Nat) (s : State) : State := (rlUntold (portOf p s)).foldl (fun t _ => rlTell p [0] t) s

/-- Resend from sequence `a` on (R633). -/
def rlResend (p a : Nat) (s : State) : State :=
  let l := portOf p s
  let fs := l.since a
  let old := match l.replay with | f :: _ => fs.any (fun g => g.seq == f.seq) | [] => false
  emitRl p fs (bump (rlpP p) RLP_REPLAY_COUNT fs.length (setPort p { l with resent := if old then l.resent + 1 else l.resent } s))

/-- A flit that failed its CRC or (`fec`) lay in a codeword that the FEC could not correct. -/
def rlCrcFail (p : Nat) (fec : Bool) (s : State) : State :=
  let s1 := bump (rlpP p) RLP_CRC_COUNT 1 s
  if fec then s1 else recordCE (rlpP p) 0x2102 (rlDetail p 0) (rlLoc p 0) s1

/-- The codewords in which a flit lies: lane and codeword count of its lane word (R628), and how many of its symbols are wrong. FEC_UNCORR is recorded
once for each that the FEC cannot correct. -/
def rlCodewords (p : Nat) (cws : List (Nat × Nat × Nat)) (s : State) : State :=
  cws.foldl (fun t c =>
    let x := rlpX p t
    if c.2.2 ≤ fecLimit ∨ alGet x.cw (c.1 % 4) = some (c.2.1 % 65536) then t
    else recordCE (rlpP p) 0x2101 (rlDetail p (c.1 % 4)) (rlLoc p (c.1 % 4)) (setRlpX p { x with cw := alSet x.cw (c.1 % 4) (c.2.1 % 65536) } t)) s

/-- The header of a sequenced flit: sequence, ACK, VC (8: control). -/
def rlHeader (p seq ack vc : Nat) (ok fec : Bool) (s : State) : Take × State :=
  let s1 := if ok then setPort p ((portOf p s).acked ack) s else rlCrcFail p fec s
  let l := portOf p s1
  let t := l.take 512 seq ok
  let s2 := setPort p (l.took t vc) s1
  match t with
  | .nak => (t, rlTell p [1, l.rxNext] s2)
  | .duplicate => (t, rlTell p [0] s2)
  | _ => (t, s2)

/-- The credits that a trailer returns come back, and what waited for them goes on (R631). -/
def credited (p cvc cn : Nat) (s : State) : State :=
  if cn > 0 then pumpWait (setPort p ((portOf p s).returned (cvc % 8) cn) s) else s

/-- RL_FLIT_RECEIVED (R628-R633): a flit arrives at port p, its trailer returning `cn` credits of VC `cvc`: a data flit of a VC, or (`ctrl`) a control flit
of an operation without a step of its own, or of one with such a step, which takes all but the trailer. `cws`: the codewords in which it lay (lane, codeword count, wrong symbols); `errs`: its bits that are wrong
after the FEC. -/
def execRlFlitReceived (p seq ack vc cvc cn : Nat) (errs : List Nat) (cws : List (Nat × Nat × Nat)) (ctrl : Bool) (op : Nat) (s : State) : Res :=
  if p ≥ 16 then .next s
  else
    let fec := fecLost (cws.map (fun c => c.2.2))
    let ok := rlCrcPasses errs && !fec
    let s := rlCodewords p cws s
    let credit (t : State) : State := if ok then credited p cvc cn t else t
    if ctrl && ok then
      if op = 0 then .next (credit (rlPumpCtl p (setPort p ((portOf p s).acked ack) s)))
      else if op ≤ 4 then .next (credit s)
      else .next (rlCrcFail p false s)
    else
      let r := rlHeader p seq ack (vc % 8) ok fec s
      .next (credit (rlPumpCtl p (if r.1 = .accept then bump64 (rlpP p + 0xB8) 1 r.2 else r.2)))

/-- RL_NAK: the partner asks for the flits from a sequence on (R633). -/
def execRlNak (p seq ack : Nat) (s : State) : Res :=
  if p ≥ 16 then .next s
  else
    let s1 := setPort p ((portOf p s).acked ack) s
    if (portOf p s1).resent ≥ 8 ∧ rlPhase p s1 = 5 then
      .next (rlRetrain p (rlStepRec p 5 1 0 (setPort p { portOf p s1 with resent := 0 } s1)))
    else .next (rlPumpCtl p (rlResend p (seq % 4096) s1))

/-- RL_IDLE_TIMER: credits not yet returned go back (R631). -/
def execRlIdleTimer (p : Nat) (s : State) : Res := .next (if p < 16 then rlIdle p s else s)

/-- RL_REPLAY_TIMEOUT: 2 µs without ACK progress: resend, or retrain after eight resends (R633). -/
def execRlReplayTimeout (p : Nat) (s : State) : Res :=
  let l := portOf p s
  match l.replay with
  | [] => .next s
  | f :: _ =>
    let w := waitTill ((portTime p s).since + 2000) s
    if p ≥ 16 ∨ ¬ (rlPhase p s = 5 ∨ rlPhase p s = 7) then .next s
    else if l.resent ≥ 8 ∧ rlPhase p s = 5 then .next (rlRetrain p (rlStepRec p 5 1 0 (setPort p { l with resent := 0 } w)))
    else .next (rlResend p f.seq w)

/-- RL_CREDIT_TIMEOUT: a VC has waited 1 ms without credit; the port retrains (Table 12-14). -/
def execRlCreditTimeout (p vc : Nat) (s : State) : Res :=
  if p ≥ 16 ∨ rlPhase p s ≠ 5 ∨ (portOf p s).free 8 16 896 (vc % 8) ≠ 0 then .next s
  else .next (rlRetrain p (recordCE (rlpP p) 0x2108 (rlDetail p 0) (rlLoc p 0)
    (waitTill (((portTime p s).dry[vc % 8]?).getD 0 + 1000000) s)))

/-- RL_WIDTH: the partner's WIDTH flit: this end takes the width and lanes too, and retrains with it (R645). -/
def execRlWidth (p seq ack w rx tx : Nat) (s : State) : Res :=
  if p ≥ 16 then .next s
  else
    let r := rlHeader p seq ack 8 true false s
    let t := r.2
    let same := getF (rlpP p) RLP_STAT_WIDTH t == w && getF (rlpP p) RLP_STAT_USED_RX t == rx % 16 && getF (rlpP p) RLP_STAT_USED_TX t == tx % 16
    if r.1 ≠ .accept ∨ same ∨ (lanes4 rx).length ≠ w ∨ (lanes4 tx).length ≠ w ∨ w = 0 ∨ w = 3 ∨ lifeAt (statOf (rlpP p)) t ≠ 2 ∨ (rlpX p t).draining then .next t
    else
      let ow := getF (rlpP p) RLP_STAT_WIDTH t
      let ph := rlPhase p t
      let gone := ((rlUsed p 1 t).filter (fun l => !(lanes4 tx).contains l)).head?
      let lane := gone.getD 0
      let s1 := recordCE (rlpP p) 0x2104 (rlDetail p lane) (rlLoc p lane) (raise (rlpP p) 16 (rlStepRec p (if w = ow then 1 else 2) 1 lane t))
      .next (portEvent p ph ow (rlRetrain p (setRlWidth p w (lanes4 rx) (lanes4 tx) s1)))

/-- RL_DRAIN_END: the partner tells the last sequence it sent and sends no more (R643). -/
def execRlDrainEnd (p seq ack : Nat) (s : State) : Res := .next (if p < 16 then (rlHeader p seq ack 8 true false s).2 else s)

/-! ### Port states (R643, R684) -/

/-- A START: the port waits for its partner's signal. -/
def rlStart (p : Nat) (s : State) : State := setPort p .fresh (setRlpX p .rest (setPhase p 1 s))

/-- RL_PARTNER_SIGNAL: a port in DETECT sees its partner and begins TRAIN. -/
def execRlPartnerSignal (p : Nat) (s : State) : Res :=
  .next (if p < 16 ∧ rlPhase p s = 1 ∧ lifeAt (statOf (rlpP p)) s = 1 then setPhase p 2 s else s)

/-- Lanes that RLP_CTL.WIDTH_MAX allows. -/
def widthMax (p : Nat) (s : State) : Nat := match getF (rlpP p) RLP_CTL_WIDTH_MAX s with | 0 => 4 | 1 => 2 | _ => 1

/-- The largest width that g good lanes and a limit allow. -/
def widthFor (g m : Nat) : Nat := if g ≥ 4 ∧ m ≥ 4 then 4 else if g ≥ 2 ∧ m ≥ 2 then 2 else if g ≥ 1 then 1 else 0

/-- RL_TRAIN_DONE: training and the lane test end with the lanes found good in each direction (R684). -/
def execRlTrainDone (p rx tx : Nat) (s : State) : Res :=
  if p ≥ 16 ∨ rlPhase p s ≠ 2 then .next s
  else
    let s1 := showRlLanes p (setF (rlpP p) RLP_STAT_USED_RX 0 (setF (rlpP p) RLP_STAT_USED_TX 0
      (setF (rlpP p) RLP_STAT_GOOD_RX (rx % 16) (setF (rlpP p) RLP_STAT_GOOD_TX (tx % 16) s))))
    if rx % 16 = 0 ∨ tx % 16 = 0 then
      .next (setPhase p 0 (recordErr (rlpP p) 0x2107 2 (rlDetail p 0) (rlLoc p 0) false (setF (rlpP p) RLP_STAT_WIDTH 0 s1)))
    else .next (setPhase p 3 s1)

/-- RL_ALIGN_DONE: FEC lock, alignment and width setting end; HELLOs are exchanged next. -/
def execRlAlignDone (p : Nat) (s : State) : Res :=
  if p ≥ 16 ∨ rlPhase p s ≠ 3 then .next s
  else
    let rx := rlGood p 0 s
    let tx := rlGood p 1 s
    let w := widthFor (min rx.length tx.length) (widthMax p s)
    .next (setPhase p 4 (setRlWidth p w (rx.take w) (tx.take w) s))

/-- RLP_CTL.WIDTH_MAX against the width in force (R672): narrower retrains to it; wider than the good lanes allow raises WIDTH_LIMIT. -/
def rlApplyMax (p : Nat) (s : State) : State :=
  let w := getF (rlpP p) RLP_STAT_WIDTH s
  let m := widthMax p s
  let rx := rlGood p 0 s
  let tx := rlGood p 1 s
  if m < w then rlChange p m 4 0 0 ((rlUsed p 0 s).take m) ((rlUsed p 1 s).take m) s
  else if m > w then
    if min rx.length tx.length < m then raise (rlpP p) 22 s else rlChange p m 4 0 0 (rx.take m) (tx.take m) s
  else s

/-- What a port has not seen acknowledged goes out again after a retrain (R633, R590). -/
def rlRepeat (p : Nat) (s : State) : State :=
  match (portOf p s).replay with
  | [] => s
  | f :: _ => rlResend p f.seq s

/-- RL_RETRAIN_DONE: the port carries again; a step that came due is taken (R643, R677). -/
def execRlRetrainDone (p : Nat) (s : State) : Res :=
  if p ≥ 16 ∨ rlPhase p s ≠ 6 then .next s
  else
    let s0 := setRlpX p { rlpX p s with tx := [], blk := 0 } s
    let s1 := showRetraining (raise (rlpP p) 19 (setF (rlpP p) RLP_STAT_CARRYING 1 (setPhase p 5 s0)))
    let s2 := rlRepeat p s1
    let s3 := rlLadder p 0 (rlpX p s2).lane s2
    .next (pumpWait (if (rlpX p s3).maxDue ∧ rlPhase p s3 = 5 then rlApplyMax p (setRlpX p { rlpX p s3 with maxDue := false } s3) else s3))

/-- RL_DRAIN_DONE (R643, R645): the drain ends; what is left is stranded, and a port that goes down faults. -/
def execRlDrainDone (p : Nat) (s : State) : Res :=
  let x := rlpX p s
  if p ≥ 16 ∨ ¬ x.draining then .next s
  else
    let l := portOf p s
    let lost := l.replay.any (fun f => decide (f.vc < 8))
    let s0 := if l.replay.isEmpty && l.ctl.isEmpty then s else waitTill (x.since + 100000) s
    let s1 := sendRlCtl p [4, (l.txNext + 4095) % 4096] (setPort p { l with replay := [], ctl := [] } s0)
    let s2 := setRlpX p .rest (if lost then recordCE (rlpP p) 0x2106 (rlDetail p 0) (rlLoc p 0) s1 else s1)
    if x.down = 0 then .next s2
    else .next (setPhase p 0 (raise (rlpP p) 17 (recordErr (rlpP p) x.down 2 (rlDetail p x.lane) (rlLoc p x.lane) false s2)))

/-- RLP_CTL.WIDTH_MAX (R672); written during a retrain, it applies when that ends (R677). -/
def execRlpCtlWrite (fn p v : Nat) (s : State) : Res :=
  let a := rlpP p + 0x80
  .next (barWrite fn a (fun s =>
    let s1 := writeReg a (if v % 4 = 3 then v - 1 else v) s
    if rdW a s1 = rdW a s then s1
    else if rlPhase p s1 = 6 then setRlpX p { rlpX p s1 with maxDue := true } s1
    else if rlPhase p s1 = 5 then rlApplyMax p s1
    else s1) s)

/-! ### HELLO (R648) -/

/-- HELLO_TIMER: a port in EXCHANGE or ACTIVE says who it is, 1 ms after it last did. -/
def execHelloTimer (p : Nat) (s : State) : Res :=
  if p < 16 ∧ (rlPhase p s = 4 ∨ rlPhase p s = 5) then
    let k := s.rtr.best.getD ⟨0, 0, 0⟩
    let s := waitTill ((rlpX p s).hello + 1000000) s
    let s := setRlpX p { rlpX p s with hello := s.now } s
    .next (rlTell p [2, ownSerial, nodeId s, b2n (nodeValid s), nodeEpoch s, p, k.host, k.pri, k.serial] s)
  else .next s

/-- HELLO: the partner's record; a change is told to the manager; the first one in EXCHANGE makes the port READY, but
for one whose start is to be aborted (R643, R648, R649, Table 2-3). -/
def execHello (p serial node epoch port : Nat) (valid : Bool) (host pri kserial : Nat) (s : State) : Res :=
  let q := rlpP p
  if p ≥ 16 ∨ ¬ (rlPhase p s = 4 ∨ rlPhase p s = 5) then .next s
  else
    let moved := !flag q RLP_NBR_VALID s || rd64 (q + 0x88) s != serial || getF q RLP_NBR_NODE s != node % 2 ^ 18
      || getF q RLP_NBR_EPOCH s != epoch % 256 || flag q RLP_NBR_NODE_VALID s != valid
    let s1 := wr64 (q + 0x88) serial (setF q RLP_NBR_VALID 1 (setF q RLP_NBR_NODE_VALID (b2n valid)
      (setF q RLP_NBR_NODE node (setF q RLP_NBR_EPOCH epoch (setF q RLP_NBR_PORT port s)))))
    let ph := rlPhase p s
    let go := ph == 4 && !(lifeX (statOf q) s).aborting
    let s2 := if go then setState (statOf q) 2 (setF q RLP_STAT_CARRYING 1 (setPhase p 5 s1)) else s1
    let k : MgrKey := ⟨host, pri, kserial⟩
    let s3 := if (k.pri != 0 || k.host != 0) && beatsBest k s2 then { s2 with rtr := { s2.rtr with best := some k } } else s2
    let s4 := if moved then portEvent p ph (getF q RLP_STAT_WIDTH s3) (raise q 20 s3) else s3
    .next (if go then pumpWait (mgsClaim s4) else s4)

/-! ### Packets (R634-R642, R647) -/

/-- RL_PACKET_ARRIVAL (R634-R642, R647): a packet arrives at port p: the fields of its routing header, whether a zero field of it is not zero, its LEN, its
body, the whole microseconds it spends here, and for a flooded message its originator's serial and message sequence. -/
def execRlPacketArrival (p dst src hops age cls len us serial mseq : Nat) (esc fld sr bad : Bool) (body : List Byte) (s : State) : Res :=
  let k : Pkt := ⟨p % 16, dst % 2 ^ 18, src % 2 ^ 18, hops % 64, age, cls, esc, fld, sr, body⟩
  let on := { k with hops := k.hops - 1, age := age + max 1 us }
  let dies := decide (k.hops ≤ 1) || decide (on.age ≥ 16000)
  if bad || decide (cls ≥ 6) || decide (len > 4128) then .next (rlDiscard s)
  else if fld then
    if seenMsg serial mseq s then .next s
    else
      let s1 := rememberMsg serial mseq s
      if dies then .next (rlDiscard s1)
      else .next (((carryingPorts s1).filter (fun q => q != p % 16)).foldl (fun t q => sendVia q on t.now t) s1)
  else if sr then
    let r := leNat (body.take 8)
    let n := bitsOf r 51 48
    if n = 0 then .next (takePkt k s)
    else
      let r1 := bitsOf r 47 4 + (n - 1) * 2 ^ 48
      let q := r % 16
      if dies ∨ ¬ carries q s then .next (rlDiscard s)
      else .next (sendVia q { on with body := leBytes 8 r1 ++ body.drop 8 } s.now s)
  else if nodeValid s && k.dst == nodeId s then .next (takePkt k s)
  else if dies then .next (rlDiscard s)
  else .next (routePkt 2 on s.now s)

/-- ESCAPE_TIMER: the k-th waiting packet has found no live candidate with a credit for 1 µs, and enters escape if it can (R640, R641). -/
def execEscapeTimer (k : Nat) (s : State) : Res :=
  match s.rlWait[k]? with
  | none => .next s
  | some w =>
    let s1 := waitTill (w.2 + 1000) { s with rlWait := s.rlWait.take k ++ s.rlWait.drop (k + 1) }
    let e := routeEntry w.1.dst s1
    let n := w.1.flits
    let best := bestPort w.1.vc n s1 (liveCands e s1)
    let free := match best with | some q => decide (portCredit q w.1.vc n s1 ≥ n) | none => false
    if w.1.esc || free || (escPort e s1).isNone then .next (routePkt 2 w.1 w.2 s1)
    else .next (routePkt 2 { w.1 with esc := true } w.2 s1)

end Sys2Proof.Machine
end

