-- ==== Sys2Proof/Machine/Volt.lean ====
section
/-! DEFINITION. Family: pace and voltage (chapter 3): voltage commands, regulators and their faults, pace windows and calibration. -/
namespace Sys2Proof.Machine

/-- The rejection that applies to a command, in the order of R1027. An island that a shutdown, a trip or ISLAND_PWR has switched off, and that has not
had its boot command since, rejects with REJECT_NOT_READY: the spec names no rejection for it (DEDUCED, assumption log 102). -/
def islReject (j : Nat) (host : Bool) (s : State) : Option Nat :=
  let x := islOf j s
  if shutdownOn s then some 6
  else if islAbsent j s || !x.booted then some 4
  else if flag (islP j) ISL_FLAGS_VR_FAULT s || x.cut then some 5
  else if host && !flag (islP j) ISL_CTL_MANUAL s then some 3
  else none

/-- A voltage command of the host or the policy engine, evaluated (R125, R130, R1027). -/
def islCommand (j code src mv : Nat) (s : State) : State :=
  match islReject j (src == 2) s with
  | some st =>
    if st = 3 then raise (islP j) 19 (islRefuse j st s) else islRefuse j st s
  | none => islAccept j code src mv s

/-- ISL_CMD: a write of a target code (R123-R128, R139-R141, R145); `mv` is the output at that moment, which is 0 V on an island that is off or
disconnected. -/
def execIslCmd (fn j v mv : Nat) (s : State) : Res :=
  .next (barWrite fn (islP j + 0x84) (fun s =>
    let out := if (islOf j s).powered then mv else 0
    islCommand j (v % 256) 2 out (showMv j out s)) s)

/-- IVR_RAMP_START: the regulator leaves its output mv for the target, 0.5 µs after acceptance (R126). -/
def execIvrRampStart (j mv : Nat) (s : State) : Res :=
  let x := islOf j s
  .next (if x.unsettled && !x.ramping && x.powered then
    showMv j mv (setIsl j { x with ramping := true, rampAt := s.now, rampFrom := mv, stuck := false } s) else s)

/-- MGS gives island j its command to 0.80 V (R153, R159, R160); an island whose rods are all absent is held at 0.60 V (R143). -/
def islBoot (j : Nat) (s : State) : State :=
  islIssue j (if islAbsent j s then 120 else 160) 0 (setIsl j { islOf j s with booted := true, reinit := false } s)

/-- MGS's recovery command after a regulator fault (R153); during a shutdown it is rejected like every command (R151). -/
def islRecover (j : Nat) (s : State) : State := if shutdownOn s then islRefuse j 6 s else islBoot j s

/-- Islands of frame f that have rods. -/
def frameIsls (f : Nat) (s : State) : List Nat := ((List.range 16).map (fun k => 16 * f + k)).filter (fun j => !islAbsent j s)

/-- Stage ISLANDS is running (Table 19-1), or the islands power up after a shutdown has been cleared (R887). -/
def stageIslands (s : State) : Bool := (outcome s == 0 && getF glbP GLB_READY_STAGE s == 5) || s.thm.shut == 4

/-- An island has been handled by its frame's step: it settled, or failed twice (R159, R930). -/
def islHandled (j : Nat) (s : State) : Bool :=
  let x := islOf j s
  x.booted && (!x.unsettled || x.cut || x.gaveUp)

/-- Bring-up's next frame gets its boot commands once every island of the frame before is handled (R159). -/
def bootNext (s : State) : State :=
  if !stageIslands s then s
  else
    let ready (f : Nat) : Bool := (frameIsls f s).all (fun j => islHandled j s)
    match (List.range 4).find? (fun f => (frameIsls f s).any (fun j => !(islOf j s).booted)) with
    | none => s
    | some f => if (List.range f).all ready then ((frameIsls f s).filter (fun j => !(islOf j s).booted)).foldl (fun t j => islBoot j t) s else s

/-- ISLAND_STABLE: the output has stayed within 10 mV of mv for 10 µs, settled or not (R134). -/
def execIslandStable (j mv : Nat) (s : State) : Res :=
  if !(islOf j s).powered then .next s
  else .next ((islandRods j).foldl (fun t i => if rodsMapped t then calMoved i mv t else t) (measureMv j mv s))

/-- ISL_CTL.MANUAL: a write hands the island to the host or to the policy engine; the command in force stays in force (R149). -/
def execIslCtlManualWrite (fn j v : Nat) (s : State) : Res :=
  .next (barWrite fn (islP j + 0x80) (writeReg (islP j + 0x80) v) s)

/-- ISL_FLAGS: W1C; VR_FAULT clears only once the island has settled after the regulator was reinitialised, never after VR_OVER (R154, R155). -/
def execIslFlagsVrFaultClear (fn j v : Nat) (s : State) : Res :=
  .next (barWrite fn (islP j + 0x9C) (fun s =>
    let x := islOf j s
    writeReg (islP j + 0x9C) (if x.recover || x.cut then v % 8 else v) s) s)

/-- Locator of an ISL error (Table 18-3). -/
def islLoc (j mv : Nat) : Nat := j + mv * 65536

/-- A rod of an island whose regulator has faulted goes to FAULTED with cause 0x07, whatever its state (R153). -/
def islFault (j i : Nat) (s : State) : State :=
  let a := statOf (seqP i)
  let s1 := recordErr (seqP i) 0x1007 2 j j false s
  if lifeAt a s1 = 5 then setF a LIFE_FAULT_CAUSE 7 s1 else faultBlock a 0x1007 s1

/-- VR_UNDER: the output mv has been below 0.57 V for more than 2 µs (R153). -/
def execVrUnder (j mv : Nat) (s : State) : Res :=
  let x := islOf j s
  if !x.powered || decide (mv ≥ 570) then .next s
  else
    let s1 := recordErr (islP j) 0x0402 2 0 (islLoc j mv) false (measureMv j mv s)
    let s2 := raise (islP j) 21 (setF (islP j) ISL_FLAGS_VR_FAULT 1 (setIsl j { islOf j s1 with recover := true, reinit := true } s1))
    let s3 := (islandRods j).foldl (fun t i => if rodsMapped t && !rodAbsent i t then islFault j i t else t) s2
    if mstate s3 = 1 ∨ mstate s3 = 3 then .next (islRecover j s3) else .next s3

/-- Island j goes to 0 V (R142): a command that has not settled stays in force until the next one supersedes it (R128); a disconnected island keeps
its fault (R154). -/
def islOff (j : Nat) (s : State) : State :=
  let x := islOf j s
  measureMv j 0 (setIsl j { x with booted := x.booted && x.cut, ramping := false, gaveUp := false } s)

/-- VR_OVER: the output mv has been above 0.98 V for more than 2 µs: the regulator disconnects the island (R154). -/
def execVrOver (j mv : Nat) (s : State) : Res :=
  let x := islOf j s
  if !x.powered || decide (mv ≤ 980) then .next s
  else
    let s1 := measureMv j 0 (setIsl j { x with cut := true, unsettled := false, ramping := false } s)
    .next (recordErr (islP j) 0x0403 3 0 (islLoc j mv) false (raise (islP j) 21 (setF (islP j) ISL_FLAGS_VR_FAULT 1 s1)))

/-- The thermal ceiling of island j becomes `c`; when it falls below the target in force the island is commanded to it (R150);
an island that is off or disconnected has no command to issue, but during a shutdown one is rejected (log 147). -/
def setCeiling (j c : Nat) (s : State) : State :=
  let s1 := setF (islP j) ISL_THERMCAP_CEILING c s
  if c ≠ 0 ∧ (islOf j s).powered ∧ c < getF (islP j) ISL_VSTAT_TARGET s then
    raise (islP j) 20 (if shutdownOn s then islRefuse j 6 s1 else islIssue j c 3 s1)
  else s1

/-! ### Pace -/

/-- Fifty times the nominal pace of R111 at 70 °C, the voltage held to 600-950 mV (R1026). -/
def pace50 (mv : Nat) : Nat :=
  let v := min 950 (max 600 mv)
  let seg (lo p d : Nat) : Nat := p * 50 + d * (v - lo)
  if v ≤ 650 then seg 600 850 200 else if v ≤ 700 then seg 650 1050 200 else if v ≤ 750 then seg 700 1250 175
  else if v ≤ 800 then seg 750 1425 175 else if v ≤ 850 then seg 800 1600 150 else if v ≤ 900 then seg 850 1750 150
  else seg 900 1900 150

/-- 160,000 times the factor of R112, at a temperature in sixteenths of a degree. -/
def tempFactor (t : Int) : Nat := (160000 - (if t > 1120 then 12 * (t - 1120) else 5 * (t - 1120))).toNat

/-- Nominal pace over a window's voltage samples (R119), to the nearest Mbeat/s. -/
def nominalPace (vs : List Nat) (t : Int) : Nat :=
  let n := max 1 vs.length
  let d := 50 * 160000 * n
  (2 * ((vs.map pace50).foldl (· + ·) 0 * tempFactor t) + d) / (2 * d)

/-- Logic temperature of rod i in sixteenths of a degree. -/
def rodTemp (i : Nat) (s : State) : Int := signed 16 (getF (senseP i) SENSE_TEMP_TEMP s)

/-- PACE_WINDOW_END (R117-R120, R156, R157, R1026): a window of rod i ends with `beats` counted and the island's samples vs in mV; `clk` tells
that channel A's clock was present. -/
def execPaceWindowEnd (i beats : Nat) (clk : Bool) (vs : List Nat) (s : State) : Res :=
  let p := senseP i
  if !rodVisible i s then .next s
  else if vs.any (fun v => v < 570) || !(islOf (rodIsland i) s).powered then .next (showIslPace (rodIsland i) (setF p SENSE_PACE_VALID 0 { s with lowPace := alErase s.lowPace i }))
  else if beats = 0 ∨ ¬ clk then
    .next (showIslPace (rodIsland i) (recordCE p 0x1A02 0 i (setF p SENSE_PACE_VALID 0 { s with lowPace := alErase s.lowPace i })))
  else
    let pace := min 4095 ((beats * 25 + 128) / 256)
    let nom := min 4095 (nominalPace vs (rodTemp i s))
    let old := getF p SENSE_PACE_NOMINAL s
    let s1 := setF p SENSE_PACE_VALID 1 (setF p SENSE_PACE_PACE pace (setF p SENSE_PACE_NOMINAL nom s))
    let s2 := setF p SENSE_PACE_MM_MIN (min pace (getF p SENSE_PACE_MM_MIN s1)) (setF p SENSE_PACE_MM_MAX (max pace (getF p SENSE_PACE_MM_MAX s1)) s1)
    let run := if 10 * pace < 9 * nom then alGetD s.lowPace i 0 + 1 else 0
    let s3 := { s2 with lowPace := alPut 0 s2.lowPace i run }
    let s4 := if run = 3 then raise p 16 (recordCE p 0x1A01 0 (i + pace * 65536) s3) else s3
    let s5 := showIslPace (rodIsland i) s4
    .next (if nom = old then s5 else relevel s5)

/-- SENSE_PACE_MM.CLR: a write of 1 sets MIN to 0xFFF and MAX to 0 (R117). -/
def execSensePaceMmClr (fn i v : Nat) (s : State) : Res :=
  .next (barWrite fn (senseP i + 0x84) (fun s =>
    if bitOf v 31 then setF (senseP i) SENSE_PACE_MM_MIN 0xFFF (setF (senseP i) SENSE_PACE_MM_MAX 0 s) else s) s)

/-! ### Calibration -/

/-- CALIBRATION_PERIODIC: 100 ms after the channel's last calibration (R134). -/
def execCalibrationPeriodic (i c : Nat) (s : State) : Res :=
  .next (if rodsMapped s then calDue i (c % 2) (waitTill ((calOf i (c % 2) s).since + 100000000) s) else s)

/-- CALIBRATION_DONE: the calibration of channel c ends after `hold` tenths of a µs (R137), and what else is due starts (R136). -/
def execCalibrationDone (i c hold : Nat) (s : State) : Res :=
  let c := c % 2
  if !(calOf i c s).busy then .next s
  else
    let s1 := setFails i c 0 (calRecord i c hold s)
    .next (calTry i (showCal i c false (setCal i c { calOf i c s1 with busy := false } s1)))

/-- CALIBRATION_TIMEOUT: a calibration unfinished at 8 µs ends (R158, R398). -/
def execCalibrationTimeout (i c : Nat) (s : State) : Res :=
  .next (if (calOf i (c % 2) s).busy then calFailed i (c % 2) (waitTill ((calOf i (c % 2) s).since + 8000) s) else s)

/-- CAL_RETRY: 1 ms after a CAL_FAIL the calibration is repeated (R398). -/
def execCalRetry (i c : Nat) (s : State) : Res :=
  let c := c % 2
  .next (if (calOf i c s).retry then
    (let s1 := waitTill ((calOf i c s).since + 1000000) s; calDue i c (setCal i c { calOf i c s1 with retry := false } s1)) else s)

/-- CHAN_RETRAIN_DONE: a retraining ends; when it fails the channel is down, and the requests that wait for it end with XLAT_FAIL (R398). -/
def execChanRetrainDone (i c : Nat) (ok : Bool) (hold : Nat) (s : State) : Res :=
  let c := c % 2
  if !(calOf i c s).retrain then .next s
  else
    let s1 := showRetraining (setCal i c { calOf i c s with retrain := false } s)
    if ok then .next (calTry i (calRecord i c hold s1))
    else .next (calTry i (chanDown i c s1))

end Sys2Proof.Machine
end

