-- ==== Sys2Proof/Machine/Life.lean ====
section
/-! DEFINITION. Family: the register page and the block life cycle (chapter 2): life commands (Tables 2-3, 2-4), the transitions a block
makes by itself (R61-R69), parents and children (R70-R75), the header's registers, BAR0 timeouts, and parity in control state
(R893). -/
namespace Sys2Proof.Machine

/-! ### Parents and children (R70) -/

/-- Children of the block at state register `a` that have a life cycle of their own: no command is passed to a page with PG_CAP.LIFE_CTL 0 (log 142). -/
def lifeKids (a : Nat) (s : State) : List Nat :=
  let own := a % 0x1000 == 0xC
  match pageOf a with
  | some (.herd, n) => statOf (hqP n) :: (herdRods n s).map (fun i => statOf (seqP i))
  | some (.seq, i) => [statOf (strmP i)]
  | some (.strm, i) => if own then (List.range 8).map (fun k => slotStat i k) else []
  | some (.hq, n) => if own then (List.range 8).map (fun q => queueStat n q) else []
  | _ => []

/-- Herd n counts as READY for a START of a child (R71, R534). -/
def herdServes (n : Nat) (s : State) : Bool := lifeAt (statOf (herdP n)) s == 2 && !flag (herdP n) HERD_RSTAT_BUSY s

/-- The parent of the block at `a` is READY, or it has none. -/
def parentReady (a : Nat) (s : State) : Bool :=
  let own := a % 0x1000 == 0xC
  match pageOf a with
  | some (.seq, i) => (match herdOfRod i s with | some n => herdServes n s | none => false)
  | some (.strm, i) => if own then lifeAt (statOf (seqP i)) s == 2 else lifeAt (statOf (strmP i)) s == 2
  | some (.hq, n) => herdServes n s && (own || lifeAt (statOf (hqP n)) s == 2)
  | _ => true

/-- The block at `a` takes life commands. -/
def hasLife (a : Nat) : Bool :=
  match pageOf a with
  | some (k, i) => lifeCtl k i && (a % 0x1000 == 0xC || k == .strm || k == .hq)
  | none => false

/-- A ring of queue q that R774 refuses. -/
def badRing (n q : Nat) (s : State) : Bool :=
  let p := hqP n
  let out (l : Nat) : Bool := decide (l < 4) || decide (16 < l)
  getF p (HQ_Q_SQB_LO_BASE q) s % 4096 != 0 || getF p (HQ_Q_CQB_LO_BASE q) s % 4096 != 0
    || out (getF p (HQ_Q_CFG_SQ_LOG2 q) s) || out (getF p (HQ_Q_CFG_CQ_LOG2 q) s)

/-- The shutdown latch keeps this block from starting: a HERD, VPX or RLP block (R886). -/
def shutLatched (a : Nat) (s : State) : Bool :=
  flag (thmP 0) THM_SHUT_LATCHED s && (match pageOf a with | some (.herd, _) | some (.vpx, _) | some (.rlp, _) => true | _ => false)

/-- What a START of an OFF block meets (R13, R71, R106, R529, R774, R1010): the status of the first check that fails. -/
def startCheck (a : Nat) (s : State) : Option Nat :=
  if !s.gate || shutLatched a s then some 7
  else match pageOf a with
  | some (.herd, n) => createChecks n s
  | some (.rlp, _) =>
    if !bitOf (getF glbP GLB_LIC_FEATURES s) 0 then some 6 else if s.margins.contains (pageBase a) then some 0x10 else none
  | some (.vpx, _) => if !bitOf (getF glbP GLB_LIC_FEATURES s) 1 then some 6 else none
  | some (.brg, _) => if s.margins.contains (pageBase a) then some 0x10 else none
  | some (.hq, n) =>
    if !parentReady a s then some 0xB
    else if a % 0x1000 != 0xC && badRing n ((a % 0x1000 - 0x100) / 0x40) s then some 0x10 else none
  | _ => if !parentReady a s then some 0xB else none

/-- Further effects of a failed check: an absent licence raises the page's denial event (R13). -/
def startDenied (a st : Nat) (s : State) : State := if st = 6 then raise (pageBase a) 2 s else s

/-! ### Starting and stopping -/

/-- What an accepted START begins (R230, R530, R578, R729, R643). -/
def startHook (a : Nat) (s : State) : State :=
  match pageOf a with
  | some (.seq, i) =>
    (List.range 32).foldl (fun t c =>
      setF (msgP i) (MSG_CH_STAT_FREE c) (getF (msgP i) (MSG_CH_BUF_SIZE c) t) (setF (msgP i) (MSG_CH_STAT_ITEMS c) 0 t))
      (kvRodStart i (clearRod i s))
  | some (.herd, n) => createHerd n s
  | some (.rlp, p) => rlStart p s
  | some (.vpx, v) => vpxZero v s
  | _ => s

/-- The block at `a` enters STARTING. -/
def enterStarting (a : Nat) (s : State) : State := startHook a (setState a 1 (setLifeX a ⟨none, 0, false⟩ s))

/-- The block at `a` enters STOPPING: its remaining work ends with STOPPED (R61, R531, R601, R643). -/
def enterStopping (a : Nat) (s : State) : State :=
  let s1 := stopWork a (setState a 4 (setLifeX a ⟨none, 0, false⟩ s))
  match pageOf a with
  | some (.herd, n) => endHerd n s1
  | some (.brg, n) => if (brgX n s1).draining then s1 else brgDrain n s1
  | some (.rlp, p) => if (rlpX p s1).draining then s1 else rlDrain p s1
  | _ => s1

/-- The block at `a` enters DRAINING with a deadline in µs, 0 for none, set by a DRAIN with this tag (R62, R67). -/
def enterDraining (a tag dl : Nat) (s : State) : State :=
  let s1 := setState a 3 (setLifeX a ⟨if dl = 0 then none else some (s.now + dl * 1000), tag, false⟩ s)
  match pageOf a with
  | some (.brg, n) => brgDrain n s1
  | some (.rlp, p) => rlDrain p s1
  | _ => s1

/-- A DRAIN of a DRAINING block: the deadline becomes the earlier one, with its tag (R62, R67, Table 2-3). -/
def nearer (a tag dl : Nat) (s : State) : State :=
  let x := lifeX a s
  if dl = 0 then s
  else
    let d := s.now + dl * 1000
    match x.deadline with
    | some e => if d < e then setLifeX a { x with deadline := some d, dtag := tag } s else s
    | none => setLifeX a { x with deadline := some d, dtag := tag } s

/-- DRAIN (cmd 2) or STOP (cmd 3) under Table 2-3 at one block: the status, and the state before its children are told. -/
def shutOne (cmd a tag dl : Nat) (s : State) : Nat × State :=
  match lifeAt a s with
  | 0 => (3, s)
  | 1 => (0, setLifeX a { lifeX a s with aborting := true } s)
  | 2 => (0, if cmd = 2 then enterDraining a tag dl s else enterStopping a s)
  | 3 =>
    let s1 := setF a LIFE_PENDING_START 0 s
    (0, if cmd = 2 then nearer a tag dl s1 else enterStopping a s1)
  | 4 =>
    if cmd = 3 ∧ flag a LIFE_PENDING_START s then (0, setF a LIFE_PENDING_START 0 s) else (3, s)
  | _ => (9, s)

/-- DRAIN or STOP at a block, passed on to every active child with a life cycle of its own when it is accepted (R72, log 142). -/
def shut (cmd tag dl : Nat) : Nat → Nat → State → State
  | 0, _, s => s
  | f + 1, a, s =>
    let kids := (lifeKids a s).filter (fun k => lifeAt k s != 0 && lifeAt k s != 5)
    let r := shutOne cmd a tag dl s
    let s1 := lifeDone a tag r.1 r.2
    if r.1 = 0 then kids.foldl (fun t k => shut cmd tag dl f k t) s1 else s1

/-- A DRAIN or STOP whose status was given when it arrived takes effect at a READY block: it moves and its children are told (R72, R569). -/
def shutNow (cmd tag dl a : Nat) (s : State) : State :=
  if lifeAt a s ≠ 2 then s
  else ((lifeKids a s).filter (fun k => lifeAt k s != 0 && lifeAt k s != 5)).foldl (fun t k => shut cmd tag dl 3 k t) (shutOne cmd a tag dl s).2

/-- The DRAIN or STOP that a resize will end with, after another one was accepted: a STOP stays, and of two DRAINs the earlier deadline (log 140). -/
def laterStop (o : Option (Nat × Nat × Nat)) (cmd tag dl : Nat) : Nat × Nat × Nat :=
  match o with
  | none => (cmd, tag, dl)
  | some p =>
    if p.1 = 3 ∨ (cmd = 2 ∧ (dl = 0 ∨ (p.2.2 ≠ 0 ∧ p.2.2 ≤ dl))) then p else (cmd, tag, dl)

/-- DRAIN or STOP of a herd whose rectangle is being resized is accepted on arrival and takes effect when the resize completes (R569). -/
def lifeShut (cmd a tag dl : Nat) (s : State) : State :=
  match pageOf a with
  | some (.herd, n) =>
    (match alGet s.resizes n with
     | some r =>
       if lifeAt a s = 2 then lifeDone a tag 0 { s with resizes := alSet s.resizes n { r with stop := some (laterStop r.stop cmd tag dl) } }
       else shut cmd tag dl 4 a s
     | none => shut cmd tag dl 4 a s)
  | _ => shut cmd tag dl 4 a s

/-! ### CLEAR -/

/-- A herd may not be cleared (R901). -/
def herdHeld (n : Nat) (s : State) : Bool :=
  !s.fatal.isEmpty || (geomRods n s).any (fun i => s.failed.contains i || (islOf (rodIsland i) s).recover)

/-- The fault cause of the FAULTED block at `a` persists (Table 2-3, R153, R901, R902). -/
def clearHeld (a : Nat) (s : State) : Bool :=
  match pageOf a with
  | some (.herd, n) => herdHeld n s
  | some (k, i) =>
    (k.isRod && (s.failed.contains i || (islOf (rodIsland i) s).recover))
      || s.fatal.any (fun c => c / 256 == k.code && c % 256 == getF a LIFE_FAULT_CAUSE s)
  | none => false

/-- A FAULTED block goes to OFF by CLEAR with a block life reset (R69). -/
def toOff (a : Nat) (s : State) : State := setState a 0 (lifeReset a (setLifeX a ⟨none, 0, false⟩ s))

/-- A herd's CLEAR at its children (R74): FAULTED ones are cleared, others stopped. -/
def clearKids (tag : Nat) : Nat → Nat → State → State
  | 0, _, s => s
  | f + 1, a, s =>
    (lifeKids a s).foldl (fun t k =>
      match lifeAt k t with
      | 0 => t
      | 5 => clearKids tag f k (if clearHeld k t then lifeDone k tag 0xA t else lifeDone k tag 0 (toOff k t))
      | _ => shut 3 tag 0 f k t) s

/-- CLEAR under Table 2-3. -/
def lifeClear (a tag : Nat) (s : State) : State :=
  if lifeAt a s ≠ 5 then lifeDone a tag 3 s
  else if clearHeld a s then lifeDone a tag 0xA s
  else match pageOf a with
    | some (.herd, n) =>
      let s1 := lifeDone a tag 0 (setLifeX a { lifeX a s with aborting := true } s)
      endHerd n (clearKids tag 4 a s1)
    | _ => lifeDone a tag 0 (toOff a s)

/-! ### Life commands -/

/-- START under Table 2-3; R71 is judged with the other checks of a START from OFF (log 141). -/
def lifeStart (a tag : Nat) (s : State) : State :=
  match lifeAt a s with
  | 0 =>
    (match startCheck a s with
     | some st => lifeDone a tag st (startDenied a st s)
     | none => lifeDone a tag 0 (enterStarting a s))
  | 1 | 2 => lifeDone a tag 2 s
  | 3 | 4 => if flag a LIFE_PENDING_START s then lifeDone a tag 2 s else lifeDone a tag 1 (setF a LIFE_PENDING_START 1 s)
  | _ => lifeDone a tag 9 s

/-- Evaluate a life command at the block whose state register is `a` (R64, R76, R89, R106). -/
def lifeEval (cmd a tag dl : Nat) (s : State) : State :=
  let mgs : Bool := match pageOf a with | some (.mgs, _) => true | _ => false
  if (!s.gate && !mgs) || shutLatched a s then lifeDone a tag 7 s
  else match cmd with
    | 0 => lifeDone a tag 0 s
    | 1 => if hasLife a then lifeStart a tag s else lifeDone a tag 5 s
    | 2 => if hasLife a then lifeShut 2 a tag dl s else lifeDone a tag 5 s
    | 3 => if hasLife a then lifeShut 3 a tag dl s else lifeDone a tag 5 s
    | 4 => if hasLife a then lifeClear a tag s else lifeDone a tag 5 s
    | _ => lifeDone a tag 4 s

/-- A write by function `fn` of a life command to the command register at `a`: PG_LIFE_CMD, STRM_Sk_CMD or HQ_Qq_CMD. -/
def lifeWrite (fn a cmd tag dl : Nat) (s : State) : State :=
  let sub : Bool := match pageOf a with
    | some (.strm, _) | some (.hq, _) =>
      decide (0x100 ≤ a % 0x1000) && decide (a % 0x1000 < 0x300) && decide (a % 0x40 = 0)
    | _ => false
  if a % 0x1000 = 8 ∨ sub then barWrite fn a (lifeEval cmd (a + 4) (tag % 256) (dl % 65536)) s else s

/-- LIFE_NOP (R89). -/
def execLifeNop (fn a tag : Nat) (s : State) : Res := .next (lifeWrite fn a 0 tag 0 s)
/-- LIFE_START. -/
def execLifeStart (fn a tag : Nat) (s : State) : Res := .next (lifeWrite fn a 1 tag 0 s)
/-- LIFE_DRAIN: `dl` is the DEADLINE in µs. -/
def execLifeDrain (fn a tag dl : Nat) (s : State) : Res := .next (lifeWrite fn a 2 tag dl s)
/-- LIFE_STOP. -/
def execLifeStop (fn a tag : Nat) (s : State) : Res := .next (lifeWrite fn a 3 tag 0 s)
/-- LIFE_CLEAR. -/
def execLifeClear (fn a tag : Nat) (s : State) : Res := .next (lifeWrite fn a 4 tag 0 s)
/-- LIFE_BAD_CMD: CMD 5-15 (R89). -/
def execLifeBadCmd (fn a cmd tag : Nat) (s : State) : Res := .next (lifeWrite fn a (5 + cmd % 11) tag 0 s)

/-! ### What a block does by itself -/

/-- What follows when a block has entered READY (R407, R730, R774). -/
def readyHook (a : Nat) (s : State) : State :=
  match pageOf a with
  | some (.seq, i) =>
    let go (t : State) (b : Nat) : State := if lifeAt b t = 0 then setState b 1 (lifeDone b 0 0 (setLifeX b ⟨none, 0, false⟩ t)) else t
    ((List.range 8).map (fun k => slotStat i k)).foldl go (go s (statOf (strmP i)))
  | some (.hq, n) =>
    if a % 0x1000 = 0xC then s
    else
      let q := (a % 0x1000 - 0x100) / 0x40
      setF (hqP n) (HQ_Q_IDX_CQ_TAIL q) 0 (setF (hqP n) (HQ_Q_IDX_SQ_HEAD q) 0
        (setF (hqP n) (HQ_Q_DBV_CQ_HEAD q) 0 (setF (hqP n) (HQ_Q_DBV_SQ_TAIL q) 0 (hqClear n q s))))
  | some (.kvm, _) => kvmRebuild s
  | _ => s

/-- BLOCK_START_DONE (R61): a STARTING block enters READY, or FAULTED with an error code when `ok` is false; a rod whose start fails has
failed (R902). For a bridge link `ab` and `ba` are the lanes that trained; an RL port starts by its own steps (R643). -/
def execBlockStartDone (a : Nat) (ok : Bool) (code ab ba : Nat) (s : State) : Res :=
  if ¬ hasLife a ∨ lifeAt a s ≠ 1 ∨ (lifeX a s).aborting then .next s
  else match pageOf a with
    | some (.rlp, _) => .next s
    | some (.brg, n) => if outcome s = 0 then .next s else .next (relevel (brgStarted n ab ba s))
    | _ =>
      if ok then .next (readyHook a (setState a 2 s))
      else
        let s1 := recordErr (pageBase a) code 2 0 0 false s
        let s2 := if lifeAt a s1 = 5 then s1 else faultBlock a code s1
        .next (match pageOf a with | some (.seq, i) => failRod i code s2 | _ => s2)

/-- START_ABORT_SAFE_POINT (R66): an aborted start is at a safe point. -/
def execStartAbortSafePoint (a : Nat) (s : State) : Res :=
  .next (if hasLife a ∧ lifeAt a s = 1 ∧ (lifeX a s).aborting then enterStopping a s else s)

/-- The block at `a` still has accepted work: its own, or its children's. -/
def hasWork (a : Nat) (s : State) : Bool :=
  (lifeKids a s).any (fun k => lifeAt k s != 0 && lifeAt k s != 5) ||
  (match pageOf a with
   | some (.seq, i) =>
     let ps := getF (seqP i) SEQ_PSTAT_PSTATE s
     ps == 1 || ps == 2 || ps == 5 || !(seqOf i s).started.isEmpty
   | some (.strm, i) => if a % 0x1000 = 0xC then false else (strOf i ((a % 0x1000 - 0x100) / 0x40) s).isSome
   | some (.hq, n) =>
     let q := (a % 0x1000 - 0x100) / 0x40
     if a % 0x1000 = 0xC then false
     else (hqOf n s).ents.any (fun e => keyQueue e.key == q) || (hqOf n s).out.any (fun c => c.q == q)
   | some (.brg, n) => (brgX n s).draining
   | some (.rlp, p) => (rlpX p s).draining
   | some (.vpx, v) => !(vpOf v s).jobs.isEmpty
   | some (.kvm, _) => !s.kvm.ops.isEmpty || !s.kvm.moves.isEmpty
   | _ => false)

/-- DRAIN_DONE (R61): all work that a DRAINING block accepted has completed. -/
def execDrainDone (a : Nat) (s : State) : Res :=
  .next (if hasLife a ∧ lifeAt a s = 3 ∧ ¬ hasWork a s then enterStopping a s else s)

/-- A DRAINING block whose deadline has come enters STOPPING with DRAIN_EXPIRED (R62), and its children of `kids` with it (R531): those whose own deadline
has come in the same way, the others by a STOP (R72). -/
def expire (d tag : Nat) : Nat → Nat → State → State
  | 0, _, s => s
  | f + 1, a, s =>
    let kids := (lifeKids a s).filter (fun k => lifeAt k s != 0 && lifeAt k s != 5)
    let due : Bool := lifeAt a s == 3 && (match (lifeX a s).deadline with | some e => decide (e ≤ d) | none => false)
    if due then kids.foldl (fun t k => expire d tag f k t) (lifeDone a (lifeX a s).dtag 0x0C (enterStopping a s))
    else shut 3 tag 0 (f + 1) a s

/-- DRAIN_DEADLINE_EXPIRY (R62, R531): the deadline has come; what is left ends with STOPPED. A herd that so enters STOPPING stops its children. -/
def execDrainDeadlineExpiry (a : Nat) (s : State) : Res :=
  let x := lifeX a s
  match x.deadline with
  | none => .next s
  | some d =>
    if ¬ hasLife a ∨ lifeAt a s ≠ 3 then .next s
    else
      let t := waitTill d s
      .next (match pageOf a with
        | some (.herd, _) => expire d x.dtag 4 a t
        | _ => lifeDone a x.dtag 0x0C (enterStopping a t))

/-- A pending start is evaluated at OFF (R65). -/
def pendingStart (a : Nat) (s : State) : State :=
  if flag a LIFE_PENDING_START s then
    let s1 := setF a LIFE_PENDING_START 0 s
    match startCheck a s1 with
    | some st => raise (pageBase a) 1 (setF a LIFE_LAST_STATUS st (startDenied a st s1))
    | none => enterStarting a s1
  else s

/-- The block at `a` holds no resource any more. -/
def released (a : Nat) (s : State) : Bool :=
  (lifeKids a s).all (fun k => lifeAt k s == 0 || lifeAt k s == 5) &&
  (match pageOf a with
   | some (.herd, n) => (herdRods n s).all (fun i => !(beadOf i s).zeroing)
   | some (.strm, i) => decide (a % 0x1000 = 0xC) || (strOf i ((a % 0x1000 - 0x100) / 0x40) s).isNone
   | some (.hq, n) => decide (a % 0x1000 = 0xC) || !(hqOf n s).out.any (fun c => c.q == (a % 0x1000 - 0x100) / 0x40)
   | some (.brg, n) => !(brgX n s).draining
   | some (.rlp, p) => !(rlpX p s).draining
   | _ => true)

/-- A herd has reached OFF (R531): its rods are FREE; after a herd reset its HQ page takes its FLR values (R9). -/
def herdOff (n : Nat) (s : State) : State :=
  let s1 := destroyHerd n s
  let s2 := if s1.flrDue.contains n then { flrPage (hqP n) [] s1 with flrDue := nsErase s1.flrDue n } else s1
  relevel (showHerds s2)

/-- BLOCK_REACHES_OFF (R63, R65, R74): a STOPPING block, or a herd under CLEAR, has released everything. -/
def execBlockReachesOff (a : Nat) (s : State) : Res :=
  let cleared : Bool := lifeAt a s == 5 && (lifeX a s).aborting
    && (match pageOf a with | some (.herd, _) => (lifeKids a s).all (fun k => lifeAt k s == 0) | _ => false)
  if ¬ hasLife a ∨ ¬ (lifeAt a s = 4 ∨ cleared) ∨ ¬ released a s then .next s
  else
    let s0 := lifeReset a (setLifeX a ⟨none, 0, false⟩ s)
    let s1 := match pageOf a with
      | some (.herd, n) => herdOff n (setState a 0 s0)
      | some (.brg, n) => relevel (checkBridge (n / 4) (setState a 0 s0))
      | _ => setState a 0 s0
    .next (pendingStart a s1)

/-- OFF_SELFTEST_FAIL (R68): a block's self-test fails while it is OFF; a herd that so becomes FAULTED exists (R528). -/
def execOffSelftestFail (a code : Nat) (s : State) : Res :=
  .next (if hasLife a ∧ lifeAt a s = 0 then
    (match pageOf a with
     | some (.herd, _) => showHerds (faultBlock a code s)
     | _ => faultBlock a code s)
  else s)

/-- RESIZED (R533): a resize takes its steps and completes; a STOP or DRAIN that came meanwhile takes effect (R569). -/
def execResized (n : Nat) (s : State) : Res :=
  match alGet s.resizes n with
  | none => .next s
  | some r =>
    let s1 := applyResize n r { s with resizes := alErase s.resizes n }
    let s2 := raise (herdP n) 16 (setF (herdP n) HERD_RSTAT_BUSY 0 (setF (herdP n) HERD_RSTAT_STATUS 0 s1))
    .next (match r.stop with
      | some (cmd, tag, dl) => shutNow cmd tag dl (statOf (herdP n)) s2
      | none => s2)

/-! ### The header's registers -/

/-- PG_LOCK_SET (R47). -/
def execPgLockSet (fn p v : Nat) (s : State) : Res :=
  let a := pageBase p + 0x28
  .next (barWrite fn a (writeReg a v) s)

/-- PG_EVT_CLEAR (R51, R55): bits written 1 clear; a held notification goes once no enabled bit is left. -/
def execPgEvtClear (fn p v : Nat) (s : State) : Res :=
  let a := pageBase p + 0x10
  .next (barWrite fn a (fun s => dropHeldIfClear (pageBase p) (writeReg a v s)) s)

/-- PG_EVT_EN_WRITE (R51): an enabled value that becomes non-zero is delivered. -/
def execPgEvtEnWrite (fn p v : Nat) (s : State) : Res :=
  let q := pageBase p
  .next (barWrite fn (q + 0x14) (fun s =>
    let s1 := writeReg (q + 0x14) v s
    if evtLive q s = 0 ∧ evtLive q s1 ≠ 0 then deliver q s1 else dropHeldIfClear q s1) s)

/-- A route that R53 refuses: a vector past the owning function's table, or a rod outside the owning herd. -/
def badRoute (p v : Nat) (s : State) : Bool :=
  let idx := bitsOf v 14 4
  match v % 4 with
  | 1 => decide (msixSize (ownerHerd p s) ≤ idx)
  | 3 => decide (1024 ≤ idx) || herdOfRod idx s != some (ownerHerd p s)
  | _ => false

/-- PG_EVT_ROUTE_WRITE (R53, R55): an applied write discards a held notification. -/
def execPgEvtRouteWrite (fn p v : Nat) (s : State) : Res :=
  let q := pageBase p
  .next (barWrite fn (q + 0x18) (fun s =>
    if badRoute q v s then raise q 2 s
    else if flag q PG_LOCK_LOCKED s then writeReg (q + 0x18) v s
    else { writeReg (q + 0x18) v s with held := alErase s.held q }) s)

/-- NOTIFY_ROD_HELD_SEND (R54, R55): a held notification is sent once its rod takes it and the channel has credit, with its payload
captured now. -/
def execNotifyRodHeldSend (p : Nat) (s : State) : Res :=
  let q := pageBase p
  let i := getF q PG_EVT_ROUTE_INDEX s
  let ch := getF q PG_EVT_ROUTE_CHANNEL s
  if (alGet s.held q).isNone ∨ ¬ rodTakes i ch s ∨ getF (msgP i) (MSG_CH_STAT_FREE ch) s = 0 then .next s
  else
    let w (o : Nat) : List Byte := leBytes 4 (rdW (q + o) s).toNat
    .next (sendItem i ch (leBytes 4 q ++ w 0x10 ++ w 0xC ++ w 0x20) { s with held := alErase s.held q })

/-- PG_ERR_FIRST_CLEAR (R59). -/
def execPgErrFirstClear (fn p v : Nat) (s : State) : Res :=
  let q := pageBase p
  .next (barWrite fn (q + 0x20) (fun s => if bitOf v 31 then clearFirst q s else s) s)

/-- PG_ERR_CNT_CLR (R92): THRESH is written, and CLR zeroes COUNT. -/
def execPgErrCntClr (fn p v : Nat) (s : State) : Res :=
  let q := pageBase p
  .next (barWrite fn (q + 0x1C) (fun s =>
    let s1 := writeReg (q + 0x1C) v s
    if bitOf v 31 then setF q PG_ERR_CNT_COUNT 0 s1 else s1) s)

/-- PG_OWNER_WRITE (R40, R46): ignored; the owner's write raises STATE_REJECT, another function's DENIAL. -/
def execPgOwnerWrite (fn p : Nat) (s : State) : Res :=
  let q := pageBase p
  .next (barWrite fn (q + 0x2C) (raise q 3) s)

/-! ### BAR0 timeouts -/

/-- ACCESS_TIMEOUT on GLB (R103, R104). -/
def accessTimeout (fn a : Nat) (s : State) : State := recordCE glbP 0x0101 0 (a + fn * 2 ^ 32) (raise glbP 20 s)

/-- BAR0_READ_TIMEOUT (R103): all ones are returned. -/
def execBar0ReadTimeout (fn a len : Nat) (s : State) : Res :=
  .next (accessTimeout fn a (emit (.readData fn (List.replicate len 0xFF) []) s))

/-- BAR0_WRITE_TIMEOUT (R104): the write is dropped. -/
def execBar0WriteTimeout (fn a : Nat) (s : State) : Res := .next (accessTimeout fn a s)

/-! ### Parity in control state (R893, Table 18-7) -/

/-- Severity of the parity and state errors of Table 18-7: 0 CE, 1 DE, 2 UCC, 3 FAT. -/
def paritySev (code : Nat) : Option Nat :=
  if [0x1608, 0x1705, 0x1806, 0x2002, 0x2203, 0x2801, 0x3003, 0x4001].contains code then some 0
  else if [0x1002, 0x1101, 0x1102, 0x1103, 0x1201, 0x1301, 0x1302, 0x1501, 0x1609, 0x1803, 0x1902, 0x3002, 0x3201].contains code then some 1
  else if [0x1001, 0x1004, 0x1005, 0x1006, 0x1104, 0x1202, 0x1303, 0x1402, 0x1502, 0x160D, 0x1709, 0x1801, 0x1804, 0x1901, 0x2904,
    0x3004, 0x3801].contains code then some 2
  else if [0x0102, 0x200A, 0x2109, 0x2303, 0x2805].contains code then some 3
  else none

/-- An activation byte of row `row` of the started OMM with issue number `num` fails parity: the row's results are poisoned (R277, R278). -/
def rowBad (i row num : Nat) (s : State) : State :=
  match startedBy i num s, oxShape (getF (oxaP i) OXA_ABUF_SHAPE s) with
  | some c, some (_, n) =>
    if cwUnit c.cmd.word = 2 ∧ cwOp c.cmd.word = 3 ∧ row < c.cmd.sb.v.toNat % 65536 then
      let e := i * 0x4000 + c.cmd.sc.v.toNat + row * n
      let s1 := { s with accBad := (List.range n).foldl (fun l k => nsInsert l (e + k)) s.accBad }
      markDone i num (if c.status = 0 then 4 else c.status) c.res (raise (oxaP i) 16 s1)
    else s
  | _, _ => s

/-- The buffered chunk of vector detail[11:8] fails parity in the block the Goat path works on: it is poisoned, and so is every
entry of that vector, those of the rows already added at once (R277, R278). -/
def vchunkBad (i detail : Nat) (s : State) : State :=
  match alGet s.goat i with
  | some x =>
    if x.block % 256 = detail % 256 then
      let v := bitsOf detail 11 8
      let done := match (startedBy i x.num s).bind (fun c => (gmvGeo c.cmd.word).map (fun g => i * 0x4000 + c.cmd.sc.v.toNat + v * g.n)) with
        | some e => if v < x.vec.length then (List.range x.row).map (fun k => e + k) else []
        | none => []
      { s with
        accBad := done.foldl nsInsert s.accBad
        goat := alSet s.goat i { x with pois := x.pois || !done.isEmpty, vec := (x.vec.zip (List.range x.vec.length)).map (fun e =>
          if e.2 = v then (e.1.1, true) else e.1) } }
    else s
  | none => s

/-- DETAIL of a SEQ error: bits [11:0] of the PC of the command involved (R227): one of the 8 that may be fetched, one in a unit's queue, or any
the sequencer holds. A DETAIL that names no such command is that of the next one to issue. -/
def seqDetail (i code detail : Nat) (s : State) : Nat :=
  let q := seqOf i s
  let pc := pcOf i s
  let queued := q.queues.flatMap (fun l => l.map QCmd.pc)
  let some_ := match code with
    | 0x1001 => (List.range 8).map (fun k => pc + k)
    | 0x1002 => [pc - 1]
    | 0x1004 => queued
    | _ => pc :: queued ++ q.started.map (fun (c : Started) => c.cmd.pc)
  if (some_.map (fun p => p % 4096)).contains (detail % 4096) then detail % 4096 else pc % 4096

/-- DETAIL of a parity record: the locator that its table gives (Tables 4-11, 5-7, 6-10, 8-9, 14-8). -/
def parityDetail (code i detail : Nat) (s : State) : Nat :=
  match code with
  | 0x1001 | 0x1002 | 0x1004 | 0x1005 | 0x1006 => seqDetail i code detail s
  | 0x1101 => bitsOf detail 11 11 * 2048 + detail % 128
  | 0x1301 => bitsOf detail 11 7 * 128 + detail % 64
  | 0x1302 => bitsOf detail 11 11 * 2048 + detail % 64
  | 0x1402 => bitsOf detail 11 9 * 512
  | 0x2109 => i % 16 * 16 + detail % 4
  | 0x2002 | 0x200A => bitsOf detail 11 11 * 2048 + (if detail % 32 < 18 then detail % 32 else 31)
  | 0x3002 | 0x3003 | 0x3201 => vpxParityDetail i detail s
  | _ => detail

/-- A locator with the fields that Table 18-3 names for the page's block, all other bits zero; a SEQ error's PC agrees with its DETAIL (R227). -/
def locFields (k : Kind) (d loc : Nat) : Nat :=
  let f (h l : Nat) : Nat := bitsOf loc h l * 2 ^ l
  match k with
  | .glb | .kvm => loc % 2 ^ 39
  | .mgs => loc % 2 ^ 16
  | .thm | .sense => f 11 0 + f 27 16
  | .isl => f 5 0 + f 25 16
  | .seq => d % 4096 + f 16 12 + f 47 32
  | .oxa | .goat | .vec => f 16 0 + f 47 32
  | .strm => f 2 0 + f 63 16
  | .spad => loc % 2 ^ 21
  | .bead => f 20 0 + f 24 24 + f 39 32
  | .xlat => loc % 2 ^ 64
  | .msg => f 4 0 + f 25 16
  | .kv => f 7 0 + f 31 16
  | .brg => f 0 0 + f 8 4 + f 27 16
  | .rlp | .rtr | .e2e => f 13 0 + f 49 32
  | .hif | .hq => f 2 0 + f 31 16
  | .vpx | .ven | .tnz => f 3 0 + f 31 16
  | .herd => f 6 0 + f 31 16
  | .dbg => 0

/-- What a parity error does beside its record (Tables 4-11, 5-7, 6-10, 7-6, 9-9, 12-14, 13-11, 14-8): the unit of data it hit, named by `x`, is
poisoned, lost or dropped. -/
def parityEffect (code i detail x : Nat) (s : State) : State :=
  match code with
  | 0x1002 =>
    let q := seqOf i s
    setSeq i { q with s := listSet q.s (x % 32) { ((q.s[x % 32]?).getD ⟨0, false⟩) with p := true } } s
  | 0x1101 =>
    let o := alGetD s.ox i ⟨.empty, .empty⟩
    let hit (b : OxBuf) : OxBuf := { b with badCols := nsInsert b.badCols (detail % 128) }
    { s with ox := alSet s.ox i (if bitOf detail 11 then { o with shadow := hit o.shadow } else { o with active := hit o.active }) }
  | 0x1103 => rowBad i detail x s
  | 0x1201 => vchunkBad i detail s
  | 0x1301 => { s with vregBad := nsInsert s.vregBad (vKey i (bitsOf detail 11 7) (detail % 64)) }
  | 0x1302 => { s with tabBad := nsInsert s.tabBad (tabKey i (bitsOf detail 11 11) (detail % 64) (x % 5)) }
  | 0x1608 =>
    if (beadOf i s).cache.any (fun c => c.q == x && !c.needs) then
      fillPage i x (setBead i { beadOf i s with cache := (beadOf i s).cache.filter (fun c => c.q != x) } s)
    else s
  | 0x1609 => dirtySectorBad i (x % 2 ^ 21) s
  | 0x1705 =>
    let t := xlOf i s
    let keep (e : TlbE) : Bool := levelIdx e.level x != e.idx
    setXl i { t with leaf3 := t.leaf3.filter keep, leaf2 := t.leaf2.filter keep, ptrs := t.ptrs.filter keep } s
  | 0x1803 => { s with flights := s.flights.mapIdx (fun k f => if k = x % 65536 then f.poison (x / 65536) else f) }
  | 0x1806 => { s with probes := s.probes.eraseIdx x }
  | 0x1902 => kvLose i (x % 256) s
  | 0x2203 => { s with rtrBad := nsInsert s.rtrBad x }
  | 0x2801 => emit (.aer 0 4) s
  | 0x3002 => synBad i x s
  | 0x3003 => setWin i { (vpOf i s).win with par := nsInsert (vpOf i s).win.par (x % 1310720) } s
  | 0x3201 => lineBad i x s
  | _ => s

/-- The block or herds beyond R893's general rule: the sender's herd `x` of HEADER_PARITY, the queue of HQ_PARITY, the pipes ganged with
one that faults. -/
def parityFault (p code detail loc x : Nat) (s : State) : State :=
  match code with
  | 0x1804 =>
    (match x / 128 with
     | 0 => recordWith p code 2 detail loc false false [x % 128] s
     | k + 1 => recordWith p code 2 detail loc false false (match s.flights[k]? with | some f => (senderHerd f.src s).toList | none => [x % 128])
         (dropPacket k s))
  | 0x2904 =>
    (match pageOf p with
     | some (.hq, n) => recordWith p code 2 detail loc false false [n] (errBlock (queueStat n (detail % 8)) code s)
     | _ => s)
  | 0x3004 =>
    (match pageOf p with
     | some (.vpx, v) =>
       let gang := (List.range 4).filter (fun u => u != v && (List.range 4).any (fun w =>
         (vpOf w s).sess.any (fun y => y.gang != 0 && (y.group w).contains u && (y.group w).contains v)))
       gang.foldl (fun t u => errBlock (statOf (vpxP u)) code t) (recordErr p code 2 detail loc false s)
     | _ => s)
  | _ => s

/-- CONTROL_PARITY_ERROR (R893): a unit records a parity error of its page's block type with its severity and effect; SRAM_CE is recorded on PF0's
mailbox page with DETAIL 0 (R853, Table 16-12). -/
def execControlParityError (p code detail loc x : Nat) (s : State) : Res :=
  let q := pageBase p
  if q = mgsP 0 ∧ code = 0x0207 then .next (recordCE q code 0 loc s)
  else match pageOf q, paritySev code with
  | some (k, i), some sev =>
    if code / 256 ≠ k.code ∨ ¬ pageLive q s then .next s
    else if code = 0x1804 ∨ code = 0x2904 ∨ code = 0x3004 then .next (parityFault q code detail (locFields k detail loc) x s)
    else if code = 0x1501 then
      .next (spadSeen i (x % spadSize) 1 { s with spadPar := nsInsert s.spadPar (spadKey i (x % spadSize)) })
    else if code = 0x2002 ∧ detail % 32 < 18 then .next (laneFailed i (bitsOf detail 11 11) (detail % 32) s)
    else if code = 0x1102 then .next (accSeen i (x % 0x4000) { s with accPar := nsInsert s.accPar (i * 0x4000 + x % 0x4000) })
    else
      let d := parityDetail code i detail s
      let s1 := recordErr q code sev d (locFields k d loc) (sev == 1) (parityEffect code i d x s)
      let s2 := if code = 0x2203 ∧ nodeValid s1 then
          (let m := nextMsg s1; toManager 0x19 m.1 [ownSerial, 16, 0, 0, 0, 0, 0, 0, x] m.2)
        else if code = 0x2109 then pumpWait (portEvent i (rlPhase i s) (getF (rlpP i) RLP_STAT_WIDTH s) s1)
        else if code = 0x200A then relevel (checkBridge (i / 4) (moveGroups (i / 4) s1))
        else s1
      .next s2
  | _, _ => .next s

end Sys2Proof.Machine
end

