-- ==== Sys2Proof/Machine/Kvm.lean ====
section
/-! DEFINITION. Family: the KVM (R704-R709, R715-R724): its operations, placement, rebalancing and moves, and the KV pool's registers. -/
namespace Sys2Proof.Machine

/-! ### Operations -/

/-- Fields of an operation record (Table 13-6). -/
def KvOp.code (o : KvOp) : Nat := o.w0 % 256
def KvOp.herd (o : KvOp) : Nat := bitsOf o.w0 14 8
def KvOp.pin (o : KvOp) : Bool := bitOf o.w0 15
def KvOp.nhead (o : KvOp) : Nat := bitsOf o.w0 19 16 + 1
def KvOp.kf (o : KvOp) : Nat := bitsOf o.w0 22 20
def KvOp.dh (o : KvOp) : Nat := bitsOf o.w0 26 23
def KvOp.sink (o : KvOp) : Nat := bitsOf o.w0 30 28
def KvOp.seqid (o : KvOp) : Nat := o.w0 / 2 ^ 32
def KvOp.budget (o : KvOp) : Nat := o.w1 % 65536
def KvOp.recent (o : KvOp) : Nat := bitsOf o.w1 23 16
def KvOp.rod (o : KvOp) : Nat := bitsOf o.w1 41 32
def KvOp.head (o : KvOp) : Nat := bitsOf o.w1 51 48

/-- The record breaks R715. -/
def KvOp.bad (o : KvOp) : Bool :=
  (o.budget != 0 && decide (o.budget ≤ o.sink + o.recent)) || decide (o.sink > 4) || decide (o.kf > 4) || o.dh == 0
    || decide (o.dh > 8) || bitOf o.w0 31 || bitsOf o.w1 47 42 != 0 || bitsOf o.w1 63 52 != 0 || o.w3 != 0

/-- A handle as an OPEN sets it. -/
def KvOp.handle (o : KvOp) (head : Nat) : KvH :=
  { KvH.free with
    st := 1, evict := bitOf o.w0 27, kf := o.kf, dh := o.dh, sink := o.sink, recent := o.recent, decay := bitsOf o.w1 31 24
    seqid := o.seqid, head := head, budget := o.budget, qscale := o.w2 % 2 ^ 32, win := o.w2 / 2 ^ 32 }

/-- The KVM is READY. -/
def kvmReady (s : State) : Bool := lifeAt (statOf (kvmP 0)) s == 2

/-- Submit an operation (R705); while the KVM is not READY it completes with KVM_OFF (R730). -/
def kvSubmit (o : KvOp) (s : State) : State :=
  let s1 := setKvm { s.kvm with ops := s.kvm.ops ++ [o] } s
  let s2 := if o.entry.isNone then setF (kvmP 0) KVM_OPRES_BUSY 1 s1 else s1
  if kvmReady s then s2 else kvOpEnd 0x17 o s2

/-- KVM_OPGO: a write of GO submits the record in KVM_OPW (R705). -/
def execKvmOpgo (fn v : Nat) (s : State) : Res :=
  .next (barWrite fn (kvmP 0 + 0xA8) (fun s =>
    if bitOf v 0 then
      kvSubmit ⟨rd64 (kvmP 0 + 0x88) s, rd64 (kvmP 0 + 0x90) s, rd64 (kvmP 0 + 0x98) s, rd64 (kvmP 0 + 0xA0) s, bitsOf v 15 8, none,
        false⟩ s
    else s) s)

/-- The KVM carries out what it has accepted: READY, or DRAINING (Table 2-2). -/
def kvmServes (s : State) : Bool := kvmReady s || lifeAt (statOf (kvmP 0)) s == 3

/-- The operation that the KVM carries out next, unless one runs: the oldest of a herd whose WEIGHT is above zero, or with none of those the oldest
(R543, R705). -/
def kvHead (s : State) : Option KvOp :=
  if s.kvm.ops.any (·.runs) || !kvmServes s then none
  else (s.kvm.ops.find? (fun o => o.weight s != 0)).or s.kvm.ops.head?

/-- Do the next operation if it is of code `op`: `act` answers its status, or none while it goes on. -/
def kvDo (op : Nat) (act : KvOp → State → Option Nat × State) (s : State) : State :=
  match kvHead s with
  | none => s
  | some o =>
    if o.code ≠ op then s
    else match act o s with
      | (some st, t) => kvOpEnd st o t
      | (none, t) => t

/-! ### Placement -/

/-- A rod is eligible for `need` slots of a stride (R706). -/
def kvEligible (n i need stride : Nat) (s : State) : Bool :=
  decide (i < 1024) && (herdRods n s).contains i && rodLife i s == 2 && (kvFreeHandle i s).isSome
    && decide ((kvOf i s).used.length + need ≤ getF (kvP i) KV_POOL_CFG_COUNT s)
    && decide (stride ≤ getF (kvP i) KV_POOL_CFG_STRIDE s * 64)

/-- Pairs of a sequence that rod i holds. -/
def kvHolds (n q i : Nat) (s : State) : Nat :=
  match kvSeqOf n q s with
  | some z => z.pairs.countP (fun x => x.rod == i)
  | none => 0

/-- The eligible rod of least load; ties to the fewest pairs of the sequence, then to the lowest K (R706). -/
def kvPick (n q need stride : Nat) (s : State) : Option Nat :=
  ((herdRods n s).filter (fun i => kvEligible n i need stride s)).foldl (fun m i =>
    match m with
    | none => some i
    | some j =>
      if kvLoad i s < kvLoad j s ∨ (kvLoad i s = kvLoad j s ∧ kvHolds n q i s < kvHolds n q j s) then some i else some j) none

/-- Place the heads of an OPEN from head `k` on; none when one finds no rod. -/
def kvPlace (o : KvOp) : Nat → Nat → State → Option State
  | 0, _, s => some s
  | f + 1, k, s =>
    let h := o.handle k
    let rod := if o.rod = 0x3FF then kvPick o.herd o.seqid 1 h.stride s
      else if kvEligible o.herd o.rod 1 h.stride s then some o.rod else none
    match rod with
    | none => none
    | some i =>
      match kvFreeHandle i s with
      | none => none
      | some hn =>
        let s1 := setKvH i hn h s
        kvPlace o f (k + 1) (setKvm { s1.kvm with seqs := addPair o.herd o.seqid ⟨k, i, hn, 1⟩ s1.kvm.seqs } s1)

/-- OPEN (R706, R707): its status, and the state with the sequence placed. -/
def kvOpenAct (o : KvOp) (s : State) : Option Nat × State :=
  let n := (s.kvm.seqs.map (fun q => q.pairs.length)).foldl (· + ·) 0
  if o.bad || (flag (kvmP 0) KVM_CTL_MANUAL s && o.rod == 0x3FF) then (some 0x12, s)
  else if lifeAt (statOf (herdP o.herd)) s ≠ 2 then (some 0x15, s)
  else if (kvSeqOf o.herd o.seqid s).isSome then (some 0x10, s)
  else if s.kvm.seqs.length ≥ 4096 ∨ n + o.nhead > 16384 then (some 0x14, s)
  else match kvPlace o o.nhead 0 s with
    | some t => (some 0, t)
    | none => (some 0x13, s)

/-- KVM_OPEN (R706, R715). -/
def execKvmOpen (s : State) : Res := .next (kvDo 1 kvOpenAct s)

/-- Slots of a handle's list, read from its headers as far as they fit. -/
def kvSlots (i : Nat) (h : KvH) (s : State) : List Nat := ((kvChain i h ⟨s, [], none, false⟩).1).map (·.slot)

/-- Free a handle and its blocks. A list that cannot be read gives back the slots that no other handle's list names. -/
def kvClear (i hn : Nat) (s : State) : State :=
  let h := kvH i hn s
  let l := kvSlots i h s
  let others := ((kvOf i s).hs.filter (fun e => e.1 != hn)).flatMap (fun e => kvSlots i e.2 s)
  let gone := if l.length = h.nblk then l else (kvOf i s).used.filter (fun k => !others.contains k)
  setKvH i hn KvH.free (kvFreeSlots i gone s)

/-- A command on handle hn of rod i has started and goes on. -/
def kvInUse (i hn : Nat) (s : State) : Bool :=
  (startedOf 6 (seqOf i s)).any (fun c => !c.done && c.cmd.sc.v.toNat == hn && (c.aux[0]?).getD 0 != 8)

/-- Handles of MOVED pairs of a sequence go free too at its CLOSE (R709). -/
def kvDropMoved (n q : Nat) (s : State) : State :=
  (herdRods n s).foldl (fun t i =>
    (kvOf i t).hs.foldl (fun t e => if e.2.st == 3 && e.2.seqid == q then setKvH i e.1 KvH.free t else t) t) s

/-- CLOSE (R707, R721): moves of the sequence are given up, its free handles are cleared, those in use close when they are done. -/
def kvCloseAct (o : KvOp) (s : State) : Option Nat × State :=
  match kvSeqOf o.herd o.seqid s with
  | none => (some 0x11, s)
  | some _ =>
    let s1 := (s.kvm.moves.filter (fun m => m.herd == o.herd && m.seqid == o.seqid)).foldl (fun t m => kvAbandon m t) s
    match kvSeqOf o.herd o.seqid s1 with
    | none => (some 0, s1)
    | some q =>
      let busy := q.pairs.filter (fun x => kvInUse x.rod x.h s1)
      let s2 := q.pairs.foldl (fun t x =>
        if kvInUse x.rod x.h s1 then setKvH x.rod x.h { kvH x.rod x.h t with closing := true } t else kvClear x.rod x.h t) s1
      if busy.isEmpty then
        (some 0, kvDropMoved o.herd o.seqid (setKvm { s2.kvm with seqs := s2.kvm.seqs.filter (fun z => z != q) } s2))
      else
        (none, setKvm { s2.kvm with seqs := s2.kvm.seqs.map (fun z => if z == q then { z with pairs := busy } else z) } s2)

/-- KVM_CLOSE (R720, R721): moves of the sequence are abandoned; each handle is freed with its blocks once its started command has
ended; then the sequence is deleted. -/
def execKvmClose (s : State) : Res := .next (kvDo 2 kvCloseAct s)

/-- A handle takes its new budget and is trimmed to it. -/
def kvBudget (o : KvOp) (s : State) (x : KvPair) : State :=
  let h := kvH x.rod x.h s
  if h.st ≠ 1 then s
  else
    let t1 := setKvH x.rod x.h { h with
      budget := o.budget, sink := o.sink, recent := o.recent, evict := bitOf o.w0 27, decay := bitsOf o.w1 31 24 } s
    let u := kvTrim x.rod x.h ⟨t1, [], none, false⟩
    if u.err.isSome then t1 else u.s

/-- SET_BUDGET (R707). -/
def kvBudgetAct (o : KvOp) (s : State) : Option Nat × State :=
  if o.bad then (some 0x12, s)
  else match kvSeqOf o.herd o.seqid s with
    | none => (some 0x11, s)
    | some q => if q.pairs.any (fun x => x.st == 2) then (some 0x16, s) else (some 0, q.pairs.foldl (kvBudget o) s)

/-- SET_BUDGET (R718, R720): every pair takes BUDGET, SINK, RECENT, EVICT and DECAY; one with EVICT 1 evicts down to its budget. -/
def execSetBudget (s : State) : Res := .next (kvDo 3 kvBudgetAct s)

/-- PIN (R707): the sequence is pinned, or set free. -/
def kvPinAct (o : KvOp) (s : State) : Option Nat × State :=
  match kvSeqOf o.herd o.seqid s with
  | none => (some 0x11, s)
  | some q => (some 0, setKvm { s.kvm with seqs := s.kvm.seqs.map (fun z => if z == q then { z with pin := o.pin } else z) } s)

/-- KVM_PIN (R705). -/
def execKvmPin (s : State) : Res := .next (kvDo 5 kvPinAct s)

/-- KVM_BAD_OP: any other OP completes with BAD_PARAM (R705). -/
def execKvmBadOp (s : State) : Res :=
  match kvHead s with
  | some o => .next (if o.code = 0 ∨ o.code > 5 then kvOpEnd 0x12 o s else s)
  | none => .next s

/-! ### Moves (Table 13-8) -/

/-- Step 1 of a move of a pair to rod j: the target handle opens in MOVING, the source goes to MOVING. -/
def kvMoveStart (n q : Nat) (x : KvPair) (j : Nat) (op : Bool) (s : State) : State :=
  match kvFreeHandle j s with
  | none => s
  | some hn =>
    let h := kvH x.rod x.h s
    let s1 := setKvH j hn { h with st := 2, nblk := 0, len := 0 } s
    let s2 := setKvH x.rod x.h { h with st := 2 } s1
    let s3 := updPairs (fun z y => z.herd == n && z.seqid == q && y.head == x.head) (fun y => { y with st := 2 }) s2
    setKvm { s3.kvm with moves := s3.kvm.moves ++ [⟨n, q, x.head, x.rod, x.h, j, hn, s.now, op⟩] } s3

/-- MOVE (R707, R708): the pair begins to move to the rod named, or to the one that the KVM picks. -/
def kvMoveAct (o : KvOp) (s : State) : Option Nat × State :=
  match kvSeqOf o.herd o.seqid s with
  | none => (some 0x11, s)
  | some q =>
    match q.pairs.find? (fun x => x.head == o.head) with
    | none => (some 0x12, s)
    | some x =>
      let h := kvH x.rod x.h s
      if x.st = 2 then (some 0x16, s)
      else if x.st = 4 ∨ (flag (kvmP 0) KVM_CTL_MANUAL s ∧ o.rod = 0x3FF) then (some 0x12, s)
      else
        let goal := if o.rod = 0x3FF then kvPick o.herd o.seqid (h.nblk + 1) h.stride s
          else if kvEligible o.herd o.rod (h.nblk + 1) h.stride s then some o.rod else none
        match goal with
        | none => (some 0x13, s)
        | some j =>
          let s1 := setKvm { s.kvm with ops := s.kvm.ops.map (fun p => if p == o then { p with runs := true } else p) } s
          (none, kvMoveStart o.herd o.seqid x j true s1)

/-- KVM_MOVE (R708, R720): the pair starts to move to ROD, or to the rod that R706 would choose. -/
def execKvmMove (s : State) : Res := .next (kvDo 4 kvMoveAct s)

/-- The eligible rods of herd n for rebalancing, with their loads (R707). -/
def balRods (n : Nat) (s : State) : List Nat := (herdRods n s).filter (fun i => kvEligible n i 1 0 s)

/-- The pair on rod a that a rebalancing move takes: unpinned, open, the largest NBLK not above half the difference; ties to the lower
handle. -/
def balPair (n a lim : Nat) (s : State) : Option (KvSeq × KvPair) :=
  ((s.kvm.seqs.filter (fun q => q.herd == n && !q.pin)).flatMap (fun q =>
    (q.pairs.filter (fun x => x.rod == a && x.st == 1 && decide ((kvH a x.h s).nblk ≤ lim))).map (fun x => (q, x)))).foldl
    (fun m e => match m with
      | none => some e
      | some y =>
        let u := (kvH a e.2.h s).nblk
        let v := (kvH a y.2.h s).nblk
        if v < u ∨ (u = v ∧ e.2.h < y.2.h) then some e else some y) none

/-- Moves of one period. -/
def balGo (n : Nat) : Nat → State → State
  | 0, s => s
  | f + 1, s =>
    match balRods n s with
    | [] => s
    | i :: t =>
      let a := t.foldl (fun m j => if kvLoad m s < kvLoad j s then j else m) i
      let b := t.foldl (fun m j => if kvLoad j s < kvLoad m s then j else m) i
      let d := kvLoad a s - kvLoad b s
      if d ≤ getF (kvmP 0) KVM_BAL_THRESH s then s
      else match balPair n a (d / 2) s with
        | none => s
        | some (q, x) =>
          let h := kvH a x.h s
          if kvEligible n b (h.nblk + 1) h.stride s then balGo n f (kvMoveStart n q.seqid x b false s) else s

/-- A hub sensor is in the throttle band (R864). -/
def hubThrottled (s : State) : Bool := s.thm.sens.any (fun e => decide (0x600 ≤ e.1) && decide (e.1 < 0x618) && decide (2 ≤ e.2.dec))

/-- REBALANCE (R707, R719, R864): a READY herd's period of PERIOD ms ends. -/
def execRebalance (n : Nat) (s : State) : Res :=
  if kvmReady s && !flag (kvmP 0) KVM_CTL_MANUAL s && getF (kvmP 0) KVM_CTL_PERIOD s != 0 && lifeAt (statOf (herdP n)) s == 2
      && !hubThrottled s then
    let s0 := waitTill (alGetD s.kvm.balAt n 0 + getF (kvmP 0) KVM_CTL_PERIOD s * 1000000) s
    let s := setKvm { s0.kvm with balAt := alSet s0.kvm.balAt n s0.now } s0
    let t := balGo n (getF (kvmP 0) KVM_CTL_MOVES s) s
    .next (if t.kvm.moves.length > s.kvm.moves.length then raise (kvmP 0) 19 t else t)
  else .next s

/-- MOVE_COPY_DONE (Table 13-8 steps 2 and 3): at most 2 blocks of the k-th move are left to copy, and the source freezes its handle. -/
def execMoveCopyDone (k : Nat) (s : State) : Res :=
  match s.kvm.moves[k]? with
  | some m => .next (setKvH m.src m.srcH { kvH m.src m.srcH s with frozen := true } s)
  | none => .next s

/-- Copy the blocks of a source list into slots of the target rod, in list order. -/
def kvCopyGo (i j : Nat) (h : KvH) (slots : List Nat) : Nat → List KData → Kx → Kx
  | _, [], x => x
  | k, d :: t, x =>
    let at_ (n : Nat) : Nat := (slots[n]?).getD 0xFFFF
    let prev := if k = 0 then 0xFFFF else at_ (k - 1)
    let next := if t.isEmpty then 0xFFFF else at_ (k + 1)
    let bs := d.bs.take 12 ++ leBytes 2 next ++ leBytes 2 prev ++ d.bs.drop 16
    kvCopyGo i j h slots (k + 1) t (kvWr j (slotVa j (at_ k) x.s) bs d.bad x)

/-- The move's bound has passed (Table 13-8 step 5). -/
def moveLate (m : KvMove) (s : State) : Bool :=
  decide (s.now > m.start + 100000 + 1000 * (kvH m.src m.srcH s).nblk)

/-- A move is abandoned with its record (R709). -/
def moveFailed (m : KvMove) (s : State) : State := recordCE (kvmP 0) 0x3802 m.srcH 0 (kvAbandon m s)

/-- MOVE_FAIL (R709): the k-th move has missed its bound, or (`err`) met a copy error, and is abandoned. -/
def execMoveFail (k : Nat) (err : Bool) (s : State) : Res :=
  match s.kvm.moves[k]? with
  | some m => .next (moveFailed m (if err then s else waitTill (m.start + 100001 + 1000 * (kvH m.src m.srcH s).nblk) s))
  | none => .next s

/-- Free slots of the rod that a pair moves to. -/
def moveSlots (m : KvMove) (s : State) : List Nat :=
  ((List.range (getF (kvP m.dst) KV_POOL_CFG_COUNT s)).filter (fun j => !(kvOf m.dst s).used.contains j)).take (kvH m.src m.srcH s).nblk

/-- The slots that the pair leaves, and the state after the copy. -/
def moveCopy (m : KvMove) (hs : List (List (Option Nat))) (s : State) : List Nat × Kx :=
  let h := kvH m.src m.srcH s
  let ch := kvChain m.src h ⟨s, hs, none, false⟩
  let ds := kvData m.src h ch.1 ch.2
  (ch.1.map (·.slot), kvCopyGo m.src m.dst h (moveSlots m s) 0 ds.1 ds.2)

/-- The handles change over: the new one is BOUND, the old one forwards for 100 ms, the pair is shown at its new rod (R708, R709). -/
def moveOver (m : KvMove) (h : KvH) (slots left : List Nat) (now : Nat) (s : State) : State :=
  let s2 := kvFreeSlots m.src left (slots.foldl (fun t j => kvTake m.dst j t) s)
  let new := { h with st := 1, frozen := false, hslot := (slots[0]?).getD 0, tslot := (slots[h.nblk - 1]?).getD 0 }
  let s3 := setKvH m.dst m.dstH { new with evicted := 0, part := false } s2
  let s4 := setKvH m.src m.srcH
    { KvH.free with st := 3, seqid := h.seqid, head := h.head, fwdRod := m.dst, fwdH := m.dstH, movedAt := now } s3
  let s5 := setKvm { s4.kvm with moves := s4.kvm.moves.erase m } s4
  let s6 := updPairs (fun q x => q.herd == m.herd && q.seqid == m.seqid && x.head == m.head)
    (fun x => { x with rod := m.dst, h := m.dstH, st := 1 }) s5
  let s7 := raise (kvP m.src) 17 (raise (kvmP 0) 17 (bump (kvmP 0) KVM_MOVES_DONE 1 (kvUnhold m.src s6)))
  let held := (startedOf 6 (seqOf m.src s7)).filter (fun c => !c.done && c.cmd.sc.v.toNat == m.srcH)
  let s8 := held.foldl (fun t c => kvEnd m.src c.cmd.num 0x80 0 t) s7
  if m.op then kvMoveOpEnd 0 s8 else s8

/-- PAIR_MOVED (Table 13-8 steps 4 and 5, R722): with the source frozen and no command of its handle running, the blocks stand in the target,
which becomes OPEN with the source's words 0-5; the source is MOVED, its slots are free, and commands held by the freeze complete with
MOVED. A copy error, or slots that are no longer free, abandons the move (R709). -/
def execPairMoved (k : Nat) (hs : List (List (Option Nat))) (s : State) : Res :=
  match s.kvm.moves[k]? with
  | none => .next s
  | some m =>
    let h := kvH m.src m.srcH s
    if !h.frozen || kvInUse m.src m.srcH s || moveLate m s then .next s
    else
      let slots := moveSlots m s
      let x := moveCopy m hs s
      if x.2.err.isSome || decide (slots.length < h.nblk) then .next (moveFailed m x.2.s)
      else .next (moveOver m h slots x.1 s.now x.2.s)

/-- MOVED_EXPIRY (R709): a MOVED handle returns to FREE 100 ms after its move. -/
def execMovedExpiry (i hn : Nat) (s : State) : Res :=
  let h := kvH i hn s
  .next (if h.st = 3 then setKvH i hn KvH.free (waitTill (h.movedAt + 100000000) s) else s)

/-! ### Pool registers -/

/-- KV_POOL_CFG_WRITE (R717): a write to KV_POOL_BASE_LO (0), KV_POOL_BASE_HI (1) or KV_POOL_CFG (2) of rod i, ignored with STATE_REJECT while any
handle is not FREE. -/
def execKvPoolCfgWrite (fn i r v : Nat) (s : State) : Res :=
  let a := kvP i + 0x80 + 4 * (r % 3)
  .next (barWrite fn a (fun s =>
    if r % 3 = 0 then writeShadow a v s
    else if lockHolds a s then raise (kvP i) 2 s
    else if !(kvOf i s).hs.isEmpty then raise (kvP i) 3 s
    else if r % 3 = 1 then writeHi a v s
    else
      let count := min 16384 (v % 2 ^ 15)
      let stride := max 1 (bitsOf v 23 16)
      showKv i (writeReg a (stride * 65536 + count) s)) s)

end Sys2Proof.Machine
end

