-- ==== Sys2Proof/Machine/Hq.lean ====
section
/-! DEFINITION. Family: host command queues (chapter 15): doorbells, fetching, entry operations, completions and interrupts, flush, and the
queue registers with rules of their own. -/
namespace Sys2Proof.Machine

/-! ### Rings -/

/-- Ring sizes of queue q of herd n. -/
def sqSize (n q : Nat) (s : State) : Nat := 2 ^ getF (hqP n) (HQ_Q_CFG_SQ_LOG2 q) s
def cqSize (n q : Nat) (s : State) : Nat := 2 ^ getF (hqP n) (HQ_Q_CFG_CQ_LOG2 q) s

/-- Queue positions. -/
def sqHead (n q : Nat) (s : State) : Nat := getF (hqP n) (HQ_Q_IDX_SQ_HEAD q) s
def sqTail (n q : Nat) (s : State) : Nat := getF (hqP n) (HQ_Q_DBV_SQ_TAIL q) s

/-- Announced slots not yet fetched (R775). -/
def sqAnnounced (n q : Nat) (s : State) : Nat := (sqTail n q s + sqSize n q s - sqHead n q s) % sqSize n q s

/-- Completion slots in use. -/
def cqUsed (n q : Nat) (s : State) : Nat := alGetD (hqOf n s).used q 0

/-- Move the SQ head by k slots. -/
def sqMove (n q k : Nat) (s : State) : State :=
  setF (hqP n) (HQ_Q_IDX_SQ_HEAD q) ((sqHead n q s + k) % sqSize n q s) s

/-- State of queue q of herd n. -/
def queueLife (n q : Nat) (s : State) : Nat := lifeAt (queueStat n q) s

/-- Ring slots of an entry of LEN bytes (R777). -/
def entrySlots (len : Nat) : Nat := (len + 63) / 64

/-- ENTRY_BAD of queue q at SQ slot k (Table 15-7). -/
def entryBad (n q k : Nat) (s : State) : State := recordCE (hqP n) 0x2901 q (q + k * 65536) s

/-- RING_FAIL: the queue and its herd go FAULTED (Table 15-7). -/
def ringFail (n q : Nat) (s : State) : State :=
  recordWith (hqP n) 0x2902 2 q q false false [n] (faultBlock (queueStat n q) 0x2902 s)

/-! ### BAR4 (R78, R82) -/

/-- What lies at an offset of a function's BAR4: a word of an MSI-X table entry, a word of the pending-bit array, the doorbells of a queue (SQ tail
at 0x0, CQ head at 0x4) and the rest of their page, or nothing. -/
inductive Bar4 where
  | table (vec word : Nat)
  | pending (word : Nat)
  | sqTail (q : Nat)
  | cqHead (q : Nat)
  | page (q : Nat)
  | none
  deriving DecidableEq, Repr

/-- Bytes of BAR4. -/
def bar4Size : Nat := 0x20000

/-- Offset of queue q's doorbell page. -/
def doorPage (q : Nat) : Nat := 0x10000 + q * 0x1000

/-- The layout of function fn's BAR4. -/
def bar4At (fn off : Nat) : Bar4 :=
  if off < 16 * msixSize fn then .table (off / 16) (off % 16 / 4)
  else if 0x8000 ≤ off ∧ off < 0x8000 + (msixSize fn + 31) / 32 * 4 then .pending ((off - 0x8000) / 4)
  else if 0x10000 ≤ off ∧ off < 0x18000 then
    let q := (off - 0x10000) / 0x1000
    if off % 0x1000 = 0 then .sqTail q else if off % 0x1000 = 4 then .cqHead q else .page q
  else .none

/-- A 32-bit read of BAR4: the MSI-X table and its pending bits; doorbells and reserved offsets read zero (R775); all ones in D3hot (R811). -/
def bar4Read (fn off : Nat) (s : State) : Word :=
  if (fnOf fn s).d3 then BitVec.allOnes 32
  else match bar4At fn (off / 4 * 4) with
    | .table vec w =>
      let m := msixOf fn vec s
      BitVec.ofNat 32 (match w with | 0 => m.addr | 1 => m.addr / 2 ^ 32 | 2 => m.data | _ => b2n m.masked)
    | .pending w => BitVec.ofNat 32 (((List.range 32).map (fun k => b2n (msixOf fn (32 * w + k) s).pend * 2 ^ k)).foldl (· + ·) 0)
    | _ => 0

/-! ### Doorbells (R775, R798) -/

/-- A flushed partial chain moves on with the slots that a doorbell announces; with its last slot it is answered FLUSHED (R802). -/
def partialOn (n q new : Nat) (s : State) : State :=
  match alGet (hqOf n s).partials q with
  | none => s
  | some (left, slot, op, sid) =>
    let x := hqOf n s
    if new ≥ left then
      hqPush n ⟨q, false, sid, op, slot, 3, 0, [], false, s.now⟩
        (setHq n { x with partials := alErase x.partials q } (sqMove n q left s))
    else setHq n { x with partials := alSet x.partials q (left - new, slot, op, sid) } (sqMove n q new s)

/-- A doorbell of function `fn` for queue q reaches it: not in D3hot (R811), and DB_IGNORED unless the queue is READY (R798). -/
def doorbell (fn q : Nat) (k : State → State) (s : State) : State :=
  if fn ≥ 128 ∨ q ≥ 8 ∨ (fnOf fn s).d3 then s
  else if queueLife fn q s ≠ 2 then raise (hqP fn) 18 s
  else k s

/-- A write to the SQ tail of queue q: a value that is not below the ring size or withdraws announced entries is BAD_DOORBELL. -/
def sqRing (fn q v : Nat) (s : State) : State :=
  doorbell fn q (fun s =>
    let size := sqSize fn q s
    let new := (v + size - sqHead fn q s) % size
    if v ≥ size ∨ new < sqAnnounced fn q s then raise (hqP fn) 17 s
    else
      let more := new - sqAnnounced fn q s
      partialOn fn q more (setF (hqP fn) (HQ_Q_DBV_SQ_TAIL q) v s)) s

/-- A write to the CQ head of queue q frees the completion slots before it. -/
def cqRing (fn q v : Nat) (s : State) : State :=
  doorbell fn q (fun s =>
    let size := cqSize fn q s
    let freed := (v + size - getF (hqP fn) (HQ_Q_DBV_CQ_HEAD q) s) % size
    let x := hqOf fn s
    if v ≥ size ∨ freed > cqUsed fn q s then raise (hqP fn) 17 s
    else setF (hqP fn) (HQ_Q_DBV_CQ_HEAD q) v (setHq fn { x with used := alPut 0 x.used q (cqUsed fn q s - freed) } s)) s

/-- SQ_DOORBELL: a write to BAR4 offset `off`, where a queue's SQ tail lies; any other offset of a doorbell page ignores it. -/
def execSqDoorbell (fn off v : Nat) (s : State) : Res :=
  match bar4At fn off with | .sqTail q => .next (sqRing fn q v s) | _ => .next s

/-- CQ_DOORBELL: a write to BAR4 offset `off`, where a queue's CQ head lies. -/
def execCqDoorbell (fn off v : Nat) (s : State) : Res :=
  match bar4At fn off with | .cqHead q => .next (cqRing fn q v s) | _ => .next s

/-! ### Fetching (R776-R778, R786-R789) -/

/-- The Completion Timeout of a function in ns: the upper end of the range that its Completion Timeout Value names (R1020). -/
def ctoNs (fn : Nat) (s : State) : Nat :=
  match (fnOf fn s).ctoVal with
  | 1 => 100000
  | 2 => 10000000
  | 5 => 55000000
  | 6 => 210000000
  | 9 => 900000000
  | 10 => 3500000000
  | 13 => 13000000000
  | 14 => 64000000000
  | _ => 50000000

/-- A host read for function fn, issued at `at_`, ends with a PCIe error (R797, Table 15-7): 1 a completion with UR or CA status, 2 the Completion
Timeout has passed. -/
def hostErr (fn kind at_ : Nat) (s : State) : State :=
  if kind = 2 then
    let t := waitTill (at_ + ctoNs fn s) s
    recordCE hifP 0x2803 0 0 (raise hifP 18 (emit (.aer fn 3) t))
  else recordCE hifP 0x2804 0 0 s

/-- A timeout that Completion Timeout Disable keeps from coming (R1020). -/
def hostWaits (fn kind : Nat) (s : State) : Bool := kind == 2 && (fnOf fn s).ctoDis

/-- The hub reads host memory for function n (R773, R793). -/
def hostAsk (n addr len : Nat) (tag : HostTag) (s : State) : State := emit (.hostRead n (addr % 2 ^ 64) len tag) s

/-- Queue q of herd n reads k ring slots at its SQ head, without PASID (R773, R776). -/
def ringAsk (n q k : Nat) (s : State) : State :=
  hostAsk n (getF (hqP n) (HQ_Q_SQB_LO_BASE q) s + getF (hqP n) (HQ_Q_SQB_HI_BASE q) s * 2 ^ 32 + 64 * sqHead n q s) (64 * k) .plain s

/-- The header of a queue entry is valid (Table 15-2, R440). -/
def entryHeaderOk (w : Nat) : Bool :=
  bitOf w 63 && bitsOf w 62 56 == 2 && decide (16 ≤ w % 65536) && decide (w % 65536 ≤ 4120)

/-- An entry that fits its operation (Tables 15-3, 15-5): OP, LEN and the ranges of its fields. -/
def entryFits (e : HqEnt) : Bool :=
  let len := e.hdr % 65536
  let zero (w hi lo : Nat) : Bool := bitsOf w hi lo == 0
  match e.op with
  | 0 => len == 16
  | 1 => decide (25 ≤ len) && zero (e.word 2) 15 10 && zero (e.word 2) 63 21
  | 2 => len == 40 && zero (e.word 3) 62 48 && decide (1 ≤ e.word 4) && decide (e.word 4 ≤ 0x10000000)
  | 3 => len == 40 && zero (e.word 3) 31 10 && zero (e.word 3) 63 53 && decide (1 ≤ e.word 4)
      && decide (bitsOf (e.word 3) 52 32 + e.word 4 ≤ 0x200000)
  | 4 => len == 48
  | 5 =>
    let b := e.word 2
    bitOf b 63 && bitsOf b 62 56 == 3 && decide (8 ≤ b % 65536) && len == 16 + b % 65536 && decide (bitsOf b 39 32 < 4)
  | _ => false

/-- Queue q of herd n may fetch its next entry (R776-R778). -/
def mayFetch (n q : Nat) (s : State) : Bool :=
  let x := hqOf n s
  let mine := x.ents.countP (fun e => keyQueue e.key == q) + x.out.countP (fun c => c.q == q && !c.note)
  decide (n < 128) && decide (q < 8) && queueLife n q s == 2 && mayIssue n s && sqAnnounced n q s != 0 && (alGet x.partials q).isNone
    && decide (mine < cqSize n q s - cqUsed n q s)

/-- The entry at the queue's head has a bad header: the first of a run is reported, and the queue looks for the next good one (R787). -/
def fetchBad (n q w0 : Nat) (s : State) : State :=
  let x := hqOf n s
  let slot := sqHead n q s
  let s1 := sqMove n q 1 (setHq n { x with resync := nsInsert x.resync q } s)
  if x.resync.contains q then s1 else hqPush n ⟨q, false, 0, bitsOf w0 55 48, slot, 0x84, 0, [], false, s.now⟩ (entryBad n q slot s1)

/-- The entry at the queue's head as it is kept: held when another of its SID is under way (R789). -/
def fetched (n q w0 sid : Nat) (body : List Byte) (bad : List Nat) (s : State) : HqEnt :=
  let twin := sid != 0 && (hqOf n s).ents.any (fun y => y.sid == sid)
  ⟨s.hqNext * 1024 + n * 8 + q, sqHead n q s, w0, sid, body.take (w0 % 65536 - 16), bad.filter (fun o => decide (o < w0 % 65536 - 16)),
    if twin then 2 else 0, 0, false⟩

/-- An entry is taken in: one whose SID is on record is answered from it, one that does not fit its op fails, any other waits for its work. -/
def fetchGood (n q w0 sid : Nat) (body : List Byte) (bad : List Nat) (s : State) : State :=
  let x := hqOf n s
  let e := fetched n q w0 sid body bad s
  let s1 := sqMove n q (entrySlots (w0 % 65536))
    { setHq n { x with ents := x.ents ++ [e], resync := nsErase x.resync q } s with hqNext := s.hqNext + 1 }
  match if sid = 0 then none else x.recs.reverse.find? (fun (r : SidRec) => r.sid == sid) with
  | some r => hqDup n { e with phase := 0 } r s1
  | none => if e.phase = 2 then s1 else if entryFits e then s1 else hqOver e.key 0x0A 0 [] (entryBad n q (sqHead n q s) s1)

/-- ENTRY_FETCH (R776-R778, R440): queue q of herd n fetches the entry at its SQ head: header word, SID, the bytes after them with their
poisoned offsets, or a PCIe error `err` of the read (1 UR or CA status, 2 timeout). The header lies in one TLP with the first 48 of those bytes (R903): with one of them poisoned it is, and the
entry is a framing error (Table 18-6). -/
def execEntryFetch (n q w0 sid : Nat) (body : List Byte) (bad : List Nat) (err : Nat) (s : State) : Res :=
  if !mayFetch n q s || hostWaits n err s then .next s
  else if err ≠ 0 then .next (ringFail n q (hostErr n err s.now (ringAsk n q 1 s)))
  else if !entryHeaderOk w0 || bad.any (fun o => decide (o < 48)) then .next (fetchBad n q w0 (poisonRx bad (ringAsk n q 1 s)))
  else if entrySlots (w0 % 65536) > sqAnnounced n q s then .next s
  else .next (fetchGood n q w0 sid body bad (poisonRx bad (ringAsk n q (entrySlots (w0 % 65536)) s)))

/-- The entry of queue q at SQ slot k, if it may start now or has started (R778): entries start in ring order, one with FENCE only after
every earlier entry has completed. -/
def entryAtWork (n q k op : Nat) (s : State) : Option HqEnt :=
  let mine := (hqOf n s).ents.filter (fun e => keyQueue e.key == q)
  let lives : Bool := queueLife n q s == 2 || queueLife n q s == 3
  match mine.find? (fun e => e.slot == k && e.op == op) with
  | none => none
  | some e =>
    if !lives then none
    else if e.phase = 1 then some e
    else if e.phase ≠ 0 then none
    else
      let before := mine.takeWhile (fun y => y.key != e.key)
      if before.any (fun y => y.phase == 0) || (bitOf e.hdr 47 && !before.isEmpty) then none else some e

/-- Change an entry. -/
def updEnt (e : HqEnt) (s : State) : State :=
  let n := keyHerd e.key
  let x := hqOf n s
  setHq n { x with ents := x.ents.map (fun y => if y.key == e.key then e else y) } s

/-- Start an entry. -/
def startEnt (e : HqEnt) (s : State) : State := updEnt { e with phase := 1 } s

/-- A herd whose WEIGHT on the host port is 0 waits while another's, above 0, has a COPY or LOAD that may move bytes (R543). -/
def hostYields (n : Nat) (s : State) : Bool :=
  weight n 8 s == 0 && (List.range 128).any (fun m => m != n && weight m 8 s != 0 && (hqOf m s).ents.any (fun e =>
    (e.op == 2 || e.op == 3) && decide (e.phase ≤ 1) && (queueLife m (keyQueue e.key) s == 2 || queueLife m (keyQueue e.key) s == 3)))

/-- ENTRY_NOP. -/
def execEntryNop (n q k : Nat) (s : State) : Res :=
  match entryAtWork n q k 0 s with
  | some e => .next (hqOver e.key 0 0 [] s)
  | none => .next s

/-- DELIVER (R779): the payload goes out as a message item of the hub; the target's answer completes the entry. -/
def execDeliver (n q k : Nat) (s : State) : Res :=
  match entryAtWork n q k 1 s with
  | none => .next s
  | some e =>
    if e.phase = 1 then .next s
    else
      let dflt := e.word 2 % 1024 == 0x3FF
      let rod := if dflt then getF (hqP n) (HQ_Q_DEST_ROD q) s else e.word 2 % 1024
      let ch := if dflt then getF (hqP n) (HQ_Q_DEST_CHAN q) s else bitsOf (e.word 2) 20 16
      if herdOfRod rod s ≠ some n then .next (hqOver e.key 8 0 [] s)
      else
        let bad := (e.bad.filter (fun o => decide (8 ≤ o))).map (fun o => o - 8)
        .next (startEnt e { s with
          hubItems := s.hubItems ++ [⟨s.hubNext, rod, ch, 2 ^ 31, e.body.drop 8, bad, 0, 0, none, some e.key, s.now⟩]
          hubNext := s.hubNext + 1 })

/-- The next piece of a COPY or LOAD: up to a 4 KiB boundary of the herd side (R803). -/
def pieceLen (at_ left : Nat) : Nat := min left (4096 - at_ % 4096)

/-- 64-byte blocks of a host write at `addr` that hold a poisoned byte (R905). -/
def epBlocks (addr : Nat) (bad : List Nat) : List Nat :=
  bad.foldl (fun l o => let b := (addr + o) / 64 * 64 - min addr ((addr + o) / 64 * 64); nsInsert l b) []

/-- An entry has moved `len` more bytes; with its last byte it completes. -/
def entryMoved (e : HqEnt) (len total : Nat) (pois : Bool) (s : State) : State :=
  let e1 := { e with phase := 1, moved := e.moved + len, pois := e.pois || pois }
  if e1.moved ≥ total then hqOver e.key (if e1.pois then 4 else 0) total [] s else updEnt e1 s

/-- Read the second part of a piece, where it has one. -/
def restRead (rest : Option (Nat × Nat)) (len : Nat) (s : State) : Nat × List Byte × List Nat × State :=
  match rest with
  | some (j, b) => homeRead j b len s
  | none => (0, [], [], s)

/-- Write the second part of a piece, where it has one. -/
def restWrite (rest : Option (Nat × Nat)) (bs : List Byte) (bad : List Nat) (s : State) : Nat × State :=
  match rest with
  | some (j, b) => homeWrite j b bs bad s
  | none => (0, s)

/-- The bytes of a COPY piece on their way to the host: `two` from one home and the rest from another. -/
def copyOut (n : Nat) (e : HqEnt) (i a two : Nat) (rest : Option (Nat × Nat)) (len full : Nat) (s : State) : State :=
  let host := e.word 2 + e.moved
  let r1 := homeRead i a two s
  let r2 := restRead rest (len - two) r1.2.2.2
  let st := max (if r1.1 = 4 then 0 else r1.1) (if r2.1 = 4 then 0 else r2.1)
  if st ≠ 0 then hqOver e.key 9 e.moved [] r2.2.2.2
  else
    let bs := r1.2.1 ++ r2.2.1
    let bd := r1.2.2.1 ++ r2.2.2.1.map (fun o => o + two)
    entryMoved e full (e.word 4) (!bd.isEmpty) (emit (.hostWrite n host bs (epBlocks host bd) (hostTag (anchor n r2.2.2.2) false false r2.2.2.2)) r2.2.2.2)

/-- Read the host memory of the next piece of a COPY or LOAD. -/
def pieceAsk (n : Nat) (e : HqEnt) (len : Nat) (s : State) : State :=
  hostAsk n (e.word 2 + e.moved) len (hostTag (anchor n s) false false s) s

/-- The bytes of a COPY piece that came from the host. -/
def copyIn (e : HqEnt) (i a two : Nat) (rest : Option (Nat × Nat)) (full : Nat) (data : List Byte) (bad : List Nat) (s : State) : State :=
  let d := (data ++ List.replicate full 0).take full
  let bd := bad.filter (fun o => decide (o < full))
  let r1 := homeWrite i a (d.take two) (bd.filter (fun o => decide (o < two))) (poisonRx bd s)
  let r2 := restWrite rest (d.drop two) ((bd.filter (fun o => decide (two ≤ o))).map (fun o => o - two)) r1.2
  let st := max (if r1.1 = 4 then 0 else r1.1) (if r2.1 = 4 then 0 else r2.1)
  if st ≠ 0 then hqOver e.key 9 e.moved [] r2.2
  else entryMoved e full (e.word 4) (!bd.isEmpty) r2.2

/-- COPY (R780): the next piece of at most 4 KiB moves. `data` and `bad` are what the host read returned, `fail` the PCIe error it ended with (1 UR
or CA status, 2 timeout), which a write to the host never has (R797); `hs` what a walk of host-resident nodes returned. -/
def execCopy (n q k : Nat) (data : List Byte) (bad : List Nat) (fail : Nat) (hs : List (Option Nat)) (s : State) : Res :=
  match entryAtWork n q k 2 s with
  | none => .next s
  | some e =>
    if hostYields n s then .next s else
    let va := (e.word 3 + e.moved) % 2 ^ 48
    let toHost := bitOf (e.word 3) 63
    let len := pieceLen va (e.word 4 - e.moved)
    if !mayIssue n s then .next (hqOver e.key 0x83 e.moved [] s)
    else if !toHost ∧ fail ≠ 0 then .next (if hostWaits n fail s then s else hqOver e.key 0x83 e.moved [] (hostErr n fail s.now (pieceAsk n e len s)))
    else
      let w := hubWalk n va (!toHost) hs s
      match w.1 with
      | .mig | .held => .next (startEnt e w.2)
      | .ok (.bead i a) =>
        let two := min len (2048 - a % 2048)
        let hba2 := hubWalk n ((va + two) % 2 ^ 48) (!toHost) hs w.2
        let rest := match hba2.1 with | .ok (.bead j b) => if two < len then some (j, b) else none | _ => none
        let full := if two < len ∧ rest.isNone then two else len
        let s1 := if two < len then hba2.2 else w.2
        let held := homeHeld i a two (!toHost) s1 || (two < len && hba2.1 == .held)
          || (match rest with | some (j, b) => homeHeld j b (len - two) (!toHost) s1 | none => false)
        .next (if held then startEnt e s1 else if toHost then copyOut n e i a two rest len full s1 else copyIn e i a two rest full data bad (pieceAsk n e full s1))
      | _ => .next (hqOver e.key 9 e.moved [] w.2)

/-- LOAD (R781): the next piece of at most 4 KiB goes into the rod's scratchpad, with poison where the host data carries it. -/
def execLoad (n q k : Nat) (data : List Byte) (bad : List Nat) (fail : Nat) (s : State) : Res :=
  match entryAtWork n q k 3 s with
  | none => .next s
  | some e =>
    if hostYields n s then .next s else
    let i := e.word 3 % 1024
    let a := bitsOf (e.word 3) 52 32 + e.moved
    let len := pieceLen a (e.word 4 - e.moved)
    if herdOfRod i s ≠ some n then .next (hqOver e.key 8 e.moved [] s)
    else if !rodRuns i s then .next (hqOver e.key 0x82 e.moved [] s)
    else if !mayIssue n s then .next (hqOver e.key 0x83 e.moved [] s)
    else if fail ≠ 0 then .next (if hostWaits n fail s then s else hqOver e.key 0x83 e.moved [] (hostErr n fail s.now (pieceAsk n e len s)))
    else
      let bd := bad.filter (fun o => decide (o < len))
      let s1 := spadWrite i a ((data ++ List.replicate len 0).take len) bd (poisonRx bd (pieceAsk n e len s))
      .next (entryMoved e len (e.word 4) (!bd.isEmpty) s1)

/-- ENTRY_KVM (R782): the record goes to the KVM with HERD replaced by n. -/
def execEntryKvm (n q k : Nat) (s : State) : Res :=
  match entryAtWork n q k 4 s with
  | none => .next s
  | some e =>
    if e.phase = 1 then .next s
    else .next (kvSubmit ⟨setBits (e.word 2) 14 8 n, e.word 3, e.word 4, e.word 5, 0, some e.key, false⟩ (startEnt e s))

/-! ### Completions and interrupts (R783-R785) -/

/-- The 64 bytes of a completion (Table 15-4). -/
def HqCpl.bytes (c : HqCpl) (phase : Nat) : List Byte :=
  let w1 := c.status % 256 + c.op % 256 * 2 ^ 8 + c.q % 8 * 2 ^ 16 + b2n c.dup * 2 ^ 19 + b2n c.note * 2 ^ 20 + phase * 2 ^ 31
    + c.slot % 65536 * 2 ^ 32
  leBytes 8 c.sid ++ leBytes 8 w1 ++ leBytes 8 c.res ++ leBytes 8 c.time
    ++ (List.range 4).flatMap (fun j => leBytes 8 ((c.vid[j]?).getD 0))

/-- Signal queue q's vector, at most once in IMOD µs (R785). -/
def hqSignal (n q : Nat) (s : State) : State :=
  if !flag (hqP n) (HQ_Q_CFG_IEN q) s then s
  else
    let x := hqOf n s
    let us := getF (hqP n) (HQ_Q_IMOD_US q) s
    let early : Bool := match alGet x.sentAt q with | some t => decide (s.now < t + us * 1000) | none => false
    if early then setHq n { x with due := nsInsert x.due q } s
    else sendMsix n (getF (hqP n) (HQ_Q_CFG_VEC q) s) (setHq n { x with sentAt := alSet x.sentAt q s.now, due := nsErase x.due q } s)

/-- ENTRY_COMPLETION (R783-R785): queue q writes its oldest completion to the next completion slot, and signals; `err` says that the write
ended with a PCIe error. -/
def execEntryCompletion (n q : Nat) (err : Bool) (s : State) : Res :=
  let x := hqOf n s
  match x.out.find? (fun c => c.q == q) with
  | none => .next s
  | some c =>
    let l := queueLife n q s
    if n ≥ 128 ∨ q ≥ 8 ∨ ¬ mayIssue n s ∨ ¬ (l = 2 ∨ l = 3 ∨ l = 4) ∨ cqUsed n q s ≥ cqSize n q s then .next s
    else if err then .next (ringFail n q s)
    else
      let tail := getF (hqP n) (HQ_Q_IDX_CQ_TAIL q) s
      let base := getF (hqP n) (HQ_Q_CQB_LO_BASE q) s + getF (hqP n) (HQ_Q_CQB_HI_BASE q) s * 2 ^ 32
      let wraps := decide (tail + 1 = cqSize n q s)
      let x1 := { x with
        out := x.out.erase c
        used := alSet x.used q (cqUsed n q s + 1)
        phase0 := if wraps then (if x.phase0.contains q then nsErase x.phase0 q else nsInsert x.phase0 q) else x.phase0 }
      let s1 := emit (.hostWrite n (base + 64 * tail) (c.bytes (if x.phase0.contains q then 0 else 1)) [] .plain) (setHq n x1 s)
      .next (hqSignal n q (setF (hqP n) (HQ_Q_IDX_CQ_TAIL q) (if wraps then 0 else tail + 1) s1))

/-- IMOD_TIMER (R785): the interval ends; completions written inside it share one message. -/
def execImodTimer (n q : Nat) (s : State) : Res :=
  let x := hqOf n s
  if n < 128 ∧ x.due.contains q then
    let t := waitTill (alGetD x.sentAt q 0 + getF (hqP n) (HQ_Q_IMOD_US q) s * 1000) s
    .next (sendMsix n (getF (hqP n) (HQ_Q_CFG_VEC q) t) (setHq n { x with sentAt := alSet x.sentAt q t.now, due := nsErase x.due q } t))
  else .next s

/-! ### Flush and registers (R799, R802) -/

/-- Announced entries of a flushed queue are answered FLUSHED, as read from the ring: header words and SIDs in ring order. A chain that is
not wholly announced waits for its last slot. -/
def flushAnnounced (n q : Nat) : List (Nat × Nat) → State → State
  | [], s => s
  | (w, sid) :: t, s =>
    let have_ := sqAnnounced n q s
    if have_ = 0 then s
    else
      let slot := sqHead n q s
      if !entryHeaderOk w then flushAnnounced n q t (sqMove n q 1 s)
      else
        let k := entrySlots (w % 65536)
        if k ≤ have_ then
          flushAnnounced n q t (hqPush n ⟨q, false, sid, bitsOf w 55 48, slot, 3, 0, [], false, s.now⟩ (sqMove n q k s))
        else
          let x := hqOf n s
          sqMove n q have_ (setHq n { x with partials := alSet x.partials q (k - have_, slot, bitsOf w 55 48, sid) } s)

/-- HQ_FLUSH (R802): fetched entries that have not started and announced entries get FLUSHED; started entries run on. `hdrs` are the
announced entries as read from the ring, all of them. -/
def execHqFlush (fn n q v : Nat) (hdrs : List (Nat × Nat)) (s : State) : Res :=
  if q ≥ 8 then .next s
  else .next (barWrite fn (hqP n + 0x12C + 0x40 * q) (fun s =>
    if !bitOf v 0 ∨ ¬ (queueLife n q s = 2 ∨ queueLife n q s = 3) then s
    else
      let waiting := (hqOf n s).ents.filter (fun e => keyQueue e.key == q && e.phase != 1)
      let t := flushAnnounced n q hdrs (waiting.foldl (fun t e => hqOver e.key 3 0 [] t) s)
      if sqAnnounced n q t = 0 then t else s) s)

/-- HQ_CFG_WRITE (R799): a vector at or above the function's table size is DENIAL. -/
def execHqCfgWrite (fn n q v : Nat) (s : State) : Res :=
  let a := hqP n + 0x118 + 0x40 * q
  if q ≥ 8 then .next s
  else .next (barWrite fn a (fun s => if bitsOf v 26 16 ≥ msixSize n then raise (hqP n) 2 s else writeReg a v s) s)

/-- HQ_DEST_WRITE (R799): a rod outside the herd is DENIAL. -/
def execHqDestWrite (fn n q v : Nat) (s : State) : Res :=
  let a := hqP n + 0x124 + 0x40 * q
  if q ≥ 8 then .next s
  else .next (barWrite fn a (fun s => if herdOfRod (v % 1024) s ≠ some n then raise (hqP n) 2 s else writeReg a v s) s)

/-! ### The BAR2 window (R790-R792, R900) -/

/-- HQ_WIN_BASE. -/
def winBase (n : Nat) (s : State) : Nat :=
  getF (hqP n) HQ_WIN_BASE_LO_B s * 65536 + getF (hqP n) HQ_WIN_BASE_HI_B s * 2 ^ 32

/-- A window fault (R792). -/
def winFault (n va : Nat) (s : State) : State :=
  recordCE (hqP n) 0x2903 0 0 (raise (hqP n) 16
    (setF (hqP n) HQ_WIN_FVA_LO_VA va (setF (hqP n) HQ_WIN_FVA_HI_VA (va / 2 ^ 32) s)))

/-- The herd answers BAR2 accesses: while READY or DRAINING, and reads while FAULTED (R900). -/
def winOpen (n : Nat) (write : Bool) (s : State) : Bool :=
  let l := lifeAt (statOf (herdP n)) s
  l == 2 || l == 3 || (l == 5 && !write)

/-- Translate the pieces of a window access: each its bead place; none where one faults; the VA that faults. -/
def winPieces (n : Nat) (write : Bool) (hs : List (Option Nat)) : List (Nat × Nat) → State → Option (List (Nat × Nat × Nat)) × Nat × Bool × State
  | [], s => (some [], 0, false, s)
  | (va, len) :: t, s =>
    let w := hubWalk n (va % 2 ^ 48) write hs s
    match w.1 with
    | .ok (.bead i a) =>
      let r := winPieces n write hs t w.2
      (r.1.map (fun l => (i, a, len) :: l), r.2)
    | .mig | .held => (none, va % 2 ^ 48, true, w.2)
    | _ => (none, va % 2 ^ 48, false, w.2)

/-- All ones answer a read that met a window fault. -/
def winDead (n len va : Nat) (s : State) : State := emit (.readData n (List.replicate len 0xFF) []) (winFault n va s)

/-- A piece of a window access waits at its home controller (R135, R362). -/
def winHeld (l : List (Nat × Nat × Nat)) (write : Bool) (s : State) : Bool := l.any (fun pc => homeHeld pc.1 pc.2.1 pc.2.2 write s)

/-- A BAR2 access of a function may be served: none of its writes waits, or this is the write that does (R790). -/
def barTurn (fn : Nat) (w : Option BarWr) (s : State) : Bool :=
  match alGet s.barHeld fn with
  | none => true
  | some x => w == some x

/-- A BAR2 write waits, and what comes after it waits behind it; it is applied, and they may go on. -/
def barWait (fn : Nat) (w : BarWr) (s : State) : State := { s with barHeld := alSet s.barHeld fn w }
def barOver (fn : Nat) (s : State) : State := { s with barHeld := alErase s.barHeld fn }

/-- Read the pieces of a window access: the worst status, the bytes, the offsets that are poisoned. -/
def winRead (l : List (Nat × Nat × Nat)) (s : State) : Nat × List Byte × List Nat × State :=
  l.foldl (fun t pc =>
    let x := homeRead pc.1 pc.2.1 pc.2.2 t.2.2.2
    (max t.1 (if x.1 = 4 then 0 else x.1), t.2.1 ++ x.2.1, t.2.2.1 ++ x.2.2.1.map (fun o => t.2.1.length + o), x.2.2.2)) (0, [], [], s)

/-- Write the pieces of a window access: the worst status, and the bytes written. -/
def winWrite (l : List (Nat × Nat × Nat)) (data : List Byte) (ep : Bool) (s : State) : Nat × Nat × State :=
  l.foldl (fun t pc =>
    let x := homeWrite pc.1 pc.2.1 ((data.drop t.2.1).take pc.2.2) (if ep then List.range pc.2.2 else []) t.2.2
    (max t.1 (if x.1 = 4 then 0 else x.1), t.2.1 + pc.2.2, x.2)) (0, 0, s)

/-- BAR2_READ (R790-R792): translated and served, with EP on the 64-byte blocks that hold a poisoned byte (R905); all ones on a window fault. An access to a page that
migrates waits, and so does one behind a write that waits. -/
def execBar2Read (fn off len : Nat) (hs : List (Option Nat)) (s : State) : Res :=
  if fn ≥ 128 ∨ off ≥ 2 ^ (fnOf fn s).bar2 then .next s
  else if (fnOf fn s).d3 then .next (emit (.readData fn (List.replicate len 0xFF) []) s)
  else if !barTurn fn none s then .next s
  else
    let va := winBase fn s + off
    if !winOpen fn false s then .next (winDead fn len (va % 2 ^ 48) s)
    else
      let r := winPieces fn false hs (pagePieces (len / 2048 + 2) va len) s
      match r.1 with
      | none => .next (if r.2.2.1 then r.2.2.2 else winDead fn len r.2.1 r.2.2.2)
      | some l =>
        let d := winRead l r.2.2.2
        if winHeld l false r.2.2.2 then .next r.2.2.2
        else if d.1 ≠ 0 then .next (winDead fn len (va % 2 ^ 48) d.2.2.2)
        else .next (emit (.readData fn d.2.1 (epBlocks off d.2.2.1)) d.2.2.2)

/-- BAR2_WRITE (R790-R792): translated and applied, poisoned where the TLP is; dropped on a window fault. -/
def execBar2Write (fn off : Nat) (data : List Byte) (ep : Bool) (hs : List (Option Nat)) (s : State) : Res :=
  let wr : BarWr := ⟨off, data, ep⟩
  if fn ≥ 128 ∨ off ≥ 2 ^ (fnOf fn s).bar2 ∨ (fnOf fn s).d3 then .next s
  else if !barTurn fn (some wr) s then .next s
  else
    let va := winBase fn s + off
    let s1 := if (alGet s.barHeld fn).isSome then barOver fn s else poisonRx (if ep then List.range data.length else []) s
    if !winOpen fn true s1 then .next (winFault fn (va % 2 ^ 48) s1)
    else
      let r := winPieces fn true hs (pagePieces (data.length / 2048 + 2) va data.length) s1
      match r.1 with
      | none => .next (if r.2.2.1 then barWait fn wr r.2.2.2 else winFault fn r.2.1 r.2.2.2)
      | some l =>
        let d := winWrite l data ep r.2.2.2
        .next (if winHeld l true r.2.2.2 then barWait fn wr r.2.2.2 else if d.1 ≠ 0 then winFault fn (va % 2 ^ 48) d.2.2 else d.2.2)

end Sys2Proof.Machine
end

