-- ==== Sys2Proof/Machine/Pcie.lean ====
section
/-! DEFINITION. Family: the PCIe port (chapter 15): configuration, FLR, power states, BAR sizes, MSI-X masks, ATS and PRI, and the
completions of host reads. -/
namespace Sys2Proof.Machine

/-- VFs that exist: HIF_FUNCS. -/
def numVfs (s : State) : Nat := if flag hifP HIF_FUNCS_VFE s then getF hifP HIF_FUNCS_NUMVFS s else 0

/-- Pending vectors of function fn are sent once they may be (R785, R1021). -/
def sendPending (fn : Nat) (s : State) : State :=
  (s.msix.filter (fun e => e.1 / 2048 == fn && e.2.pend)).foldl (fun t e =>
    sendMsix fn (e.1 % 2048) { t with msix := alSet t.msix e.1 { e.2 with pend := false } }) s

/-- MSIX_VECTOR_UNMASK (R785): the host writes an entry of the MSI-X table; unmasked with its bit pending, its message is sent. -/
def execMsixVectorUnmask (fn vec addr data : Nat) (mask : Bool) (s : State) : Res :=
  if fn ≥ 128 ∨ vec ≥ msixSize fn ∨ (fnOf fn s).d3 then .next s
  else
    let m := msixOf fn vec s
    let s1 := setMsix fn vec { m with addr := addr, data := data, masked := mask, pend := m.pend && mask } s
    .next (if m.pend && !mask then sendMsix fn vec s1 else s1)

/-! ### Resets of functions -/

/-- FLR's part in PCIe state: the function's registers, MSI-X table, cached translations, page requests and a BAR2 write that waits (R809). -/
def flrPcie (fn : Nat) (s : State) : State :=
  let mine (r : PReq) : Bool := herdOfRod r.rod s == some fn
  { setFn fn (Fn.reset (fn == 0)) s with
    msix := s.msix.filter (fun e => e.1 / 2048 != fn)
    atc := s.atc.filter (fun e => e.fn != fn)
    pris := s.pris.filter (fun e => e.fn != fn)
    atsInv := s.atsInv.filter (fun e => e.fn != fn)
    barHeld := alErase s.barHeld fn
    reqs := s.reqs.map (fun r => if mine r && r.phase == 4 then { r with phase := 3 } else r) }

/-- Queues of herd n go OFF at an FLR, and the SID record is cleared (R809). -/
def flrQueues (n : Nat) (s : State) : State :=
  let s1 := (List.range 8).foldl (fun t q =>
    setState (queueStat n q) 0 (setF (queueStat n q) LIFE_FAULT_CAUSE 0 (stopNow (queueStat n q) t))) s
  setHq n HqSt.rest s1

/-- FLR of function fn (R809); during bring-up it acts on PCIe state only (R951). -/
def flrOne (fn : Nat) (s : State) : State :=
  let s1 := flrPcie fn s
  if outcome s = 0 then s1 else herdReset fn true (flrQueues fn s1)

/-- VF Enable is cleared: FLR on every VF (R810). -/
def vfOff (s : State) : State :=
  let n := numVfs s
  (List.range n).foldl (fun t k => flrOne (k + 1) t) (setF hifP HIF_FUNCS_VFE 0 s)

/-- FLR (R809, R810); that of the PF loads HIF_FUNCS's FLR value (R9). -/
def execFlr (fn : Nat) (s : State) : Res :=
  if fn ≥ 128 ∨ (fn ≠ 0 ∧ fn > numVfs s) then .next s
  else .next (if fn = 0 then setF hifP HIF_FUNCS_NUMVFS 0 (vfOff (flrOne 0 s)) else flrOne fn s)

/-- VF_ENABLE_CLEAR (R810). -/
def execVfEnableClear (s : State) : Res := .next (if flag hifP HIF_FUNCS_VFE s then vfOff s else s)

/-! ### Configuration (R771, R933, R977) -/

/-- Memory Space Enable is cleared: a stored BAR2 size takes effect (R801). -/
def memOff (fn : Nat) (s : State) : State :=
  let f := fnOf fn s
  setFn fn { f with mse := false, bar2 := f.bar2Stored } s

/-- Configuration requests complete with RRS: until the PCIE stage ends or 900 ms have passed, and always while STRAP_TEST is 1. -/
def configRrs (s : State) : Bool := !s.rrsDone || flag glbP GLB_STRAP_TEST s

/-- A configuration write: 0 Memory Space Enable, 1 MSI-X Enable (bit 0) and Function Mask (bit 1), 2 Completion Timeout Value [3:0] and
Disable [4], 3 ATS Enable, 4 PRI Enable (which clears a stop), 5 VF Enable [7] and NumVFs [6:0] of the PF. -/
def configWrite (fn what v : Nat) (s : State) : State :=
  let f := fnOf fn s
  match what with
  | 0 => if bitOf v 0 then setFn fn { f with mse := true } s else memOff fn s
  | 1 => sendPending fn (setFn fn { f with msixEn := bitOf v 0, msixMask := bitOf v 1 } s)
  | 2 => setFn fn { f with ctoVal := v % 16, ctoDis := bitOf v 4 } s
  | 3 =>
    let s1 := setFn fn { f with atsEn := bitOf v 0 } s
    if bitOf v 0 then s1 else { s1 with atc := s1.atc.filter (fun e => e.fn != fn) }
  | 4 => setFn fn { f with priEn := bitOf v 0, priStopped := f.priStopped && !bitOf v 0 } s
  | 5 =>
    if fn ≠ 0 then s
    else if bitOf v 7 then
      (if flag hifP HIF_FUNCS_VFE s then s else setF hifP HIF_FUNCS_NUMVFS (v % 128) (setF hifP HIF_FUNCS_VFE 1 s))
    else (let s1 := if flag hifP HIF_FUNCS_VFE s then vfOff s else s; setF hifP HIF_FUNCS_NUMVFS (v % 128) s1)
  | _ => s

/-- What a configuration read of a function answers, in the model's numbering (Table 15-1, R3, R12, R78, R801, R1020): 0-5 what configWrite sets;
6 SR-IOV of the PF: TotalVFs, First VF Offset and VF Stride; 7 PCI-PM: D3hot and No_Soft_Reset; 8 Bus Master Enable; 9 the stored BAR2 size and
10 the BAR2 sizes of the Resizable BAR capability of the PF, log2 and as a mask; 11 Device Capabilities 2: Completion Timeout Ranges A-D and
Disable; 12 ATS Invalidate Queue Depth; 13 outstanding page requests; 14 PASID width; 15 MSI-X table size; 16 largest payload and read request;
17 largest width, with a mask of the rates; 18 sizes of BAR0, BAR2 and BAR4, log2; 19 a mask of the capabilities that are present: SR-IOV, ARI,
ATS, PRI, PASID, AER, FLR, MSI-X, ASPM L1, D3hot, Resizable BAR; 20 types of BAR0, BAR2 and BAR4, two bits each: 64-bit, prefetchable
(Table 2-5). Any other option reads 0, absent. -/
def configRead (fn reg : Nat) (s : State) : Nat :=
  let f := fnOf fn s
  let pf := b2n (fn == 0)
  match reg with
  | 0 => b2n f.mse
  | 1 => b2n f.msixEn + 2 * b2n f.msixMask
  | 2 => f.ctoVal + 16 * b2n f.ctoDis
  | 3 => b2n f.atsEn
  | 4 => b2n f.priEn + 2 * b2n f.priStopped
  | 5 => pf * (getF hifP HIF_FUNCS_NUMVFS s + 128 * getF hifP HIF_FUNCS_VFE s)
  | 6 => pf * (127 + 2 ^ 16 + 2 ^ 32)
  | 7 => b2n f.d3 + 8
  | 8 => b2n f.bme
  | 9 => pf * f.bar2Stored
  | 10 => pf * (2 ^ 37 - 2 ^ 30)
  | 11 => 31
  | 12 => 32
  | 13 => 512
  | 14 => 20
  | 15 => msixSize fn
  | 16 => 512 + 4096 * 2 ^ 16
  | 17 => 16 + 63 * 2 ^ 8
  | 18 => 28 + f.bar2 * 2 ^ 8 + 17 * 2 ^ 16
  | 19 => pf + 0x3FE + pf * 2 ^ 10
  | 20 => 3 + 3 * 2 ^ 2 + 1 * 2 ^ 4
  | _ => 0

/-- CONFIG_REQUEST (R807, R933): answered with RRS during early bring-up, by Unsupported Request for a function that does not exist, and
normally otherwise: a read of an item with its value, a write with its effect. None arrives before the link is up. -/
def execConfigRequest (fn : Nat) (q : CfgReq) (s : State) : Res :=
  if getF hifP HIF_LINK_RATE s = 0 then .next s
  else if configRrs s then .next (emit (.config fn 1 0) s)
  else if fn ≥ 128 ∨ (fn ≠ 0 ∧ fn > numVfs s) then .next (emit (.config fn 2 0) s)
  else match q.write with
    | none => .next (emit (.config fn 0 (configRead fn q.reg s)) s)
    | some x => .next (emit (.config fn 0 0) (configWrite fn q.reg x s))

/-- RRS_DEADLINE (R933): 900 ms after PERST_N deasserted. -/
def execRrsDeadline (s : State) : Res :=
  if s.boot.cold || s.boot.perst then .next s else .next { s with rrsDone := true, now := max s.now (s.boot.perstAt + 900000000) }

/-- POWER_STATE_CHANGE (R811): a function enters D3hot or returns to D0 with all its state. -/
def execPowerStateChange (fn : Nat) (d3 : Bool) (s : State) : Res :=
  if fn ≥ 128 then .next s else .next (sendPending fn (setFn fn { fnOf fn s with d3 := d3 } s))

/-- BUS_MASTER_CHANGE (R1021): Bus Master Enable changes. -/
def execBusMasterChange (fn : Nat) (on : Bool) (s : State) : Res :=
  if fn ≥ 128 then .next s else .next (sendPending fn (setFn fn { fnOf fn s with bme := on } s))

/-- RESIZABLE_BAR_WRITE (R78, R801): log2 of the PF's BAR2 size, 30-36; while Memory Space Enable is 1 it is only stored. -/
def execResizableBarWrite (size : Nat) (s : State) : Res :=
  if size < 30 ∨ size > 36 then .next s
  else
    let f := fnOf 0 s
    .next (setFn 0 { f with bar2Stored := size, bar2 := if f.mse then f.bar2 else size } s)

/-- MEMORY_SPACE_DISABLE (R801). -/
def execMemorySpaceDisable (fn : Nat) (s : State) : Res := if fn ≥ 128 then .next s else .next (memOff fn s)

/-- HIF_LINK takes a rate, width, FLIT mode, which 64 GT/s always has, and L1 state, and LINK_CHANGE is raised (Table 15-1). -/
def showLink (rate width : Nat) (flit l1 : Bool) (s : State) : State :=
  raise hifP 16 (setF hifP HIF_LINK_L1 (b2n l1) (setF hifP HIF_LINK_FLIT (b2n (flit || rate == 6)) (setF hifP HIF_LINK_WIDTH width (setF hifP HIF_LINK_RATE rate s))))

/-- LINK_UP (R807): the link reaches DL_Active. -/
def execLinkUp (rate width : Nat) (flit : Bool) (s : State) : Res :=
  if s.boot.cold || s.boot.perst then .next s else .next (showLink rate width flit false s)

/-- PCIE_LINK_CHANGE (R771): the link changes rate or width, or enters or leaves L1. -/
def execPcieLinkChange (rate width : Nat) (flit l1 : Bool) (s : State) : Res :=
  if getF hifP HIF_LINK_RATE s = 0 then .next s else .next (showLink rate width flit l1 s)

/-! ### ATS and PRI (R794-R796) -/

/-- Page requests that wait for a translation of a page. -/
def atsWaiting (fn pasid page : Nat) (s : State) : List PReq :=
  s.reqs.filter (fun r => r.phase == 4 && herdOfRod r.rod s == some fn && pasidOf r.rod s == pasid && r.hostPage == some page)

/-- A page request that got no access (R796): with PRI a page request goes to the host and the stream halts; without, XLAT_FAIL. -/
def atsDenied (fn pasid page : Nat) (r : PReq) (s : State) : State :=
  let f := fnOf fn s
  if !f.priEn || f.priStopped then updReq r.id (fun x => { x with phase := 3, status := 9 }) s
  else if s.pris.length ≥ 512 then s
  else
    let vp := r.va / 2 ^ 16
    let s1 := bump hifP HIF_ATS_PRQ 1 (emit (.ats fn 1 (page * 4096)) { s with pris := s.pris ++ [⟨fn, pasid, page, r.rod, vp⟩] })
    match r.client with
    | .stream i k _ off => dropReq r.id i (haltStream i k off r.va vp s1)
    | .orphan i _ _ => dropReq r.id i s1

/-- TRANSLATION_COMPLETION (R794, R796): a page's translation, with its read and write permission. -/
def execTranslationCompletion (fn pasid page : Nat) (rd wr : Bool) (frame : Nat) (s : State) : Res :=
  let l := atsWaiting fn pasid page s
  if l.isEmpty then .next s
  else
    let others := s.atc.filter (fun e => !(e.fn == fn && e.pasid == pasid && e.page == page))
    let atc := if rd || wr then (others ++ [⟨fn, pasid, page, frame, wr⟩]) else others
    .next (l.foldl (fun t r =>
      if (if r.write then wr else rd) then
        (match r.target with
         | some (.host a _ _) => hostGo r fn (frame * 4096 + a % 4096) (updReq r.id (fun x => { x with phase := 1 }) t)
         | _ => t)
      else atsDenied fn pasid page r t) { s with atc := atc.drop (atc.length - 8192) })

/-- PRG_RESPONSE (R796): 0 Success translates again, 1 Invalid Request and 15 Response Failure end the request with XLAT_FAIL; the last also
stops further page requests. -/
def execPrgResponse (fn pasid page code : Nat) (s : State) : Res :=
  let l := s.pris.filter (fun e => e.fn == fn && e.pasid == pasid && e.page == page)
  if l.isEmpty then .next s
  else
    let s1 := { s with pris := s.pris.filter (fun e => !(e.fn == fn && e.pasid == pasid && e.page == page)) }
    let s2 := l.foldl (fun t e => slots.foldl (fun u k =>
      if code = 0 then resumeStream e.rod k e.vpage u else failStream e.rod k e.vpage u) t) s1
    .next (if code = 15 then setFn fn { fnOf fn s2 with priStopped := true } s2 else s2)

/-- Invalidations whose requests have all completed are answered (R795). -/
def atsInvDone (s : State) : State :=
  let live (v : AtsInv) : AtsInv := { v with reqs := v.reqs.filter (fun i => s.reqs.any (fun r => r.id == i && r.phase == 1)) }
  let l := s.atsInv.map live
  (l.filter (fun v => v.reqs.isEmpty)).foldl (fun t v => bump hifP HIF_ATS_INVAL 1 (emit (.ats v.fn 2 (v.page * 4096)) t))
    { s with atsInv := l.filter (fun v => !v.reqs.isEmpty) }

/-- ATS_INVALIDATE (R795): matching entries go; it completes when the requests that used them have. -/
def execAtsInvalidate (fn pasid page count : Nat) (s : State) : Res :=
  let hits (f p g : Nat) : Bool := f == fn && (pasid == 2 ^ 20 || p == pasid) && decide (page ≤ g) && decide (g < page + count)
  let used := (s.reqs.filter (fun r => r.phase == 1 && !r.write &&
    (match r.hostPage, herdOfRod r.rod s with | some g, some f => hits f (pasidOf r.rod s) g | _, _ => false))).map (fun r => r.id)
  .next (atsInvDone { s with
    atc := s.atc.filter (fun e => !hits e.fn e.pasid e.page)
    atsInv := s.atsInv ++ [⟨fn, pasid, page, count, used⟩] })

/-! ### Completions of host reads -/

/-- The outstanding host read of page request `id`. -/
def hostReadOf (id : Nat) (s : State) : Option PReq :=
  s.reqs.find? (fun r => r.id == id && r.phase == 1 && !r.write && r.hostPage.isSome)

/-- HOST_COMPLETION (R797): a host read's data, poisoned as a whole when EP is set, or a completion with UR or CA status. -/
def execHostCompletion (id : Nat) (data : List Byte) (ep err : Bool) (s : State) : Res :=
  match hostReadOf id s with
  | none => .next s
  | some r =>
    if err then
      .next (atsInvDone (showNpr (updReq id (fun x => { x with phase := 3, status := 0x81 })
        (hostErr ((herdOfRod r.rod s).getD 0) 1 r.sent s))))
    else
      let bad := if ep then List.range r.len else []
      let d := (data ++ List.replicate r.len 0).take r.len
      .next (atsInvDone (showNpr (updReq id (fun x => { x with phase := 3, data := d, bad := bad }) (poisonRx bad s))))

/-- COMPLETION_TIMEOUT (R1020): a host read has had no completion for the Completion Timeout, unless that is disabled. -/
def execCompletionTimeout (id : Nat) (s : State) : Res :=
  match hostReadOf id s with
  | none => .next s
  | some r =>
    let fn := (herdOfRod r.rod s).getD 0
    if hostWaits fn 2 s then .next s
    else .next (atsInvDone (showNpr (updReq id (fun x => { x with phase := 3, status := 0x81 }) (hostErr fn 2 r.sent s))))

end Sys2Proof.Machine
end

