-- ==== Sys2Proof/Machine/Thermal.lean ====
section
/-! DEFINITION. Family: thermal limits and power policy (chapter 17): readings and bands, throttle and ceilings, the fast limiter, the policy
engine, the estimator's confidence, quiet slices, shutdown and trip. What the estimator and the policy engine compute inside the freedom that
R868 and R869 leave is an operand. -/
namespace Sys2Proof.Machine

/-- Store thermal state. -/
def setThm (x : Thm) (s : State) : State := { s with thm := x }

/-- A sensor; before its first reading it is invalid. -/
def sensOf (id : Nat) (s : State) : Sens := alGetD s.thm.sens id ⟨false, 0, 0, 0, 0⟩
def setSens (id : Nat) (x : Sens) (s : State) : State := setThm { s.thm with sens := alSet s.thm.sens id x } s

/-- An island's thermal part. -/
def islT (j : Nat) (s : State) : IslT := alGetD s.thm.isl j ⟨false, false, 0, none, none, 0⟩
def setIslT (j : Nat) (x : IslT) (s : State) : State := setThm { s.thm with isl := alSet s.thm.isl j x } s

/-! ### Sensors and bands (R856-R859, R870, R875) -/

/-- A temperature sensor, and its class: 0 rod logic, 1 memory layer, 2 hub (R856). -/
def isTemp (id : Nat) : Bool := decide (id < 0x618)
def sensClass (id : Nat) : Nat := if id < 0x400 then 0 else if id < 0x600 then 1 else 2

/-- Island of a logic or memory sensor (Table 16-6). -/
def sensIsl (id : Nat) : Nat := if id < 0x400 then rodIsland id else 16 * ((id - 0x400) / 128) + (id - 0x400) % 16

/-- Sensors of a class over the same island, or all hub sensors. -/
def sensPeers (id : Nat) : List Nat :=
  match sensClass id with
  | 0 => islandRods (rodIsland id)
  | 1 => let j := sensIsl id; (List.range 8).map (fun l => 0x400 + 128 * (j / 16) + 16 * l + j % 16)
  | _ => (List.range 24).map (fun k => 0x600 + k)

/-- Memory-layer sensors over island j. -/
def memSensors (j : Nat) : List Nat := (List.range 8).map (fun l => 0x400 + 128 * (j / 16) + 16 * l + j % 16)

/-- The sensor of an absent rod never counts (R874, Table 16-6). -/
def sensAbsent (id : Nat) (s : State) : Bool := decide (id < 0x400) && rodsMapped s && rodAbsent id s

/-- The reading that bands use, in sixteenths: the sensor's own, or, once it has failed, the highest of its peers plus 5 °C (R875); none when
there is no valid one. -/
def bandReading (id : Nat) (s : State) : Option Int :=
  let x := sensOf id s
  if x.valid then some (signed 20 x.val)
  else
    let l := ((sensPeers id).filter (fun p => p != id && (sensOf p s).valid && !sensAbsent p s)).map (fun p => signed 20 (sensOf p s).val)
    match l with
    | [] => none
    | a :: t => some (t.foldl max a + 80)

/-- Degrees as sixteenths. -/
def deg (n : Nat) : Int := (n : Int) * 16

/-- The band after a reading `v` (R857); `g` lowers the warning and throttle thresholds, in sixteenths. -/
def bandStep (c old : Nat) (v g : Int) (s : State) : Nat :=
  let w := deg (getF (thmP 0) (THM_THR_WARN c) s) - g
  let wh := deg (getF (thmP 0) (THM_THR_WHYST c) s)
  let t := deg (getF (thmP 0) (THM_THR_THROT c) s) - g
  let th := deg (getF (thmP 0) (THM_THR_THYST c) s)
  let sh := deg (getF (thmP 0) (THM_SHUTTHR_SHUT c) s)
  if old = 3 ∨ v ≥ sh then 3
  else if v ≥ t ∨ (old = 2 ∧ v ≥ t - th) then 2
  else if v ≥ w ∨ (1 ≤ old ∧ v ≥ w - wh) then 1
  else 0

/-- Take one reading: `none` is an invalid one; the third in a row records SENSOR_FAIL (R875). A memory-layer reading moves the bands of the beads
that it covers (R371). -/
def takeReading (id : Nat) (r : Option Nat) (s : State) : State :=
  let x := sensOf id s
  match r with
  | some v =>
    let s1 := setSens id { x with valid := true, val := v % 2 ^ 20, miss := 0 } s
    if id < 0x400 ∧ rodsMapped s1 then
      let t := unsigned 16 (signed 20 v)
      let hi := signed 16 (getF (senseP id) SENSE_TMAX_MAX s1)
      let s2 := setF (senseP id) SENSE_TEMP_VALID 1 (setF (senseP id) SENSE_TEMP_TEMP t s1)
      if signed 20 v > hi then setF (senseP id) SENSE_TMAX_MAX t s2 else s2
    else if 0x400 ≤ id ∧ id < 0x600 ∧ rodsMapped s1 then
      let l := (id - 0x400) / 16 % 8
      let f := if l % 2 = 0 then SENSE_BEADT_EVEN (l / 2) else SENSE_BEADT_ODD (l / 2)
      (islandRods (sensIsl id)).foldl (fun t i =>
        let u := setF (senseP i) f (unsigned 16 (signed 20 v)) t
        if rodAbsent i u then u else refreshBand i l u) s1
    else s1
  | none =>
    if sensAbsent id s then setSens id { x with valid := false } s
    else
      let s1 := setSens id { x with valid := false, miss := min 3 (x.miss + 1) } s
      let s2 := if id < 0x400 ∧ rodsMapped s1 then setF (senseP id) SENSE_TEMP_VALID 0 s1 else s1
      if isTemp id && x.miss == 2 then recordCE (thmP 0) 0x0301 id id (raise (thmP 0) 21 s2) else s2

/-- Update a sensor's bands; answers whether it entered the warning band and whether it entered shutdown. -/
def updBand (id : Nat) (s : State) : Bool × Bool × State :=
  let x := sensOf id s
  if sensAbsent id s || (!x.valid && decide (x.miss < 3)) then (false, false, s)
  else match bandReading id s with
  | none => (false, false, s)
  | some v =>
    let c := sensClass id
    let g : Int := if flag (thmP 1) THM_EST_GUARD s then 48 else 0
    let b := bandStep c x.band v 0 s
    let d := min 2 (bandStep c (min 2 x.dec) v g s)
    let s1 := setSens id { x with band := b, dec := d } s
    let s2 := if id < 0x400 ∧ rodsMapped s1 then setF (senseP id) SENSE_TEMP_BAND b s1 else s1
    (x.band == 0 && b == 1, x.band != 3 && b == 3, s2)

/-- THM_HOT and THM_BANDS of a class. -/
def showClass (c : Nat) (s : State) : State :=
  let l := (s.thm.sens.filter (fun e => isTemp e.1 && sensClass e.1 == c && !sensAbsent e.1 s))
  let hot := (l.filter (fun e => e.2.valid)).foldl (fun (m : Option (Nat × Int)) e =>
    match m with
    | some h => if h.2 < signed 20 e.2.val then some (e.1, signed 20 e.2.val) else some h
    | none => some (e.1, signed 20 e.2.val)) none
  let s1 := match hot with
    | some h => setF (thmP 0) (THM_HOT_SENSOR c) h.1 (setF (thmP 0) (THM_HOT_TEMP c) (unsigned 16 h.2) s)
    | none => s
  setF (thmP 0) (THM_BANDS_THROT c) (l.countP (fun e => e.2.band == 2)) (setF (thmP 0) (THM_BANDS_WARN c) (l.countP (fun e => e.2.band == 1)) s1)

/-! ### Ceilings and throttle (R861, R862, R866) -/

/-- ISL_THERMCAP: the lower of the ceiling of R861 and the limiter's; a command that follows voids a quiet slice's sample (R871). -/
def showCeiling (j : Nat) (s : State) : State :=
  let t := (islT j s).ceil
  let d := getF (thmP 1) THM_LIMIT_DEPTH s
  let l := if d = 0 then 0 else max 120 (190 - d)
  let c := if t = 0 then l else if l = 0 then t else min t l
  let s1 := match s.thm.quiet with
    | some q => if q.1 = j ∧ c ≠ getF (islP j) ISL_THERMCAP_CEILING s then setThm { s.thm with quiet := some (q.1, q.2.1, true) } s else s
    | none => s
  setCeiling j c s1

/-- The ceiling of R861 becomes c; never below 0.60 V. -/
def thermCeil (j c : Nat) (s : State) : State := showCeiling j (setIslT j { islT j s with ceil := if c = 0 then 0 else max 120 c } s)

/-- A class over island j has no valid sensor left (R875). -/
def noSensor (ids : List Nat) (s : State) : Bool :=
  ids.any (fun p => !sensAbsent p s && decide ((sensOf p s).miss ≥ 3) && (bandReading p s).isNone)

/-- The hub's fallback governor, while MGS restarts (Table 16-10): 0.60 V, source THERMAL, on an island that enters the throttle band. It is a
command like any other: the shutdown latch rejects it (R151), and an island that is switched off has no regulator to command (R154). -/
def governorDown (j : Nat) (s : State) : State :=
  if shutdownOn s then islRefuse j 6 s
  else if !(islOf j s).powered then s
  else islIssue j 120 3 s

/-- Throttle of island j after a reading (R861, R874, R875, R878); an entry while MGS restarted gets its ceiling at the first reading after it
(Table 16-10 step 5). -/
def islThrottle (j : Nat) (s : State) : State :=
  let x := islT j s
  let logic := (islandRods j).filter (fun i => !sensAbsent i s)
  let hotL := logic.filter (fun i => decide ((sensOf i s).dec ≥ 2))
  let hotM := (memSensors j).filter (fun i => decide ((sensOf i s).dec ≥ 2))
  let inL := !hotL.isEmpty || noSensor logic s
  let inM := !hotM.isEmpty || noSensor (memSensors j) s
  let was := x.logic || x.mem
  let now_ := inL || inM
  let g : Int := if flag (thmP 1) THM_EST_GUARD s then 48 else 0
  let still := (hotL ++ hotM).any (fun i =>
    match bandReading i s with
    | some v => decide (v ≥ deg (getF (thmP 0) (THM_THR_THROT (sensClass i)) s) - g)
    | none => false)
  let s1 := setIslT j { x with logic := inL, mem := inM } s
  let bm := (memSensors j).foldl (fun m i => max m (sensOf i s).band) 0
  let bl := logic.foldl (fun m i => max m (sensOf i s).band) 0
  let s2 := setF (islP j) ISL_TBAND_THROTTLE (b2n now_) (setF (islP j) ISL_TBAND_MEM bm (setF (islP j) ISL_TBAND_LOGIC bl s1))
  if now_ && !was then
    let tgt := getF (islP j) ISL_VSTAT_TARGET s2
    let s3 := recordCE (thmP 0) 0x0302 j j (raise (thmP 0) 17 s2)
    if mstate s3 = 2 then governorDown j s3
    else thermCeil j ((if x.ceil = 0 then tgt else min tgt x.ceil) - 10) s3
  else if now_ && decide (x.ceil = 0) && mstate s2 != 2 then
    thermCeil j (getF (islP j) ISL_VSTAT_TARGET s2 - 10) s2
  else if now_ then (if still && mstate s2 != 2 && decide (x.ceil ≠ 0) then thermCeil j (x.ceil - 10) s2 else s2)
  else if was then raise (thmP 0) 18 (setIslT j { islT j s2 with coolAt := s2.now } s2)
  else s2

/-- CEILING_RELAX (R862): 10 ms after an island left throttle, or after the last rise. -/
def execCeilingRelax (j : Nat) (s : State) : Res :=
  let x := islT j s
  if x.logic || x.mem || decide (x.ceil = 0) || decide (j ≥ 64) then .next s
  else
    let t := waitTill (x.coolAt + 10000000) s
    .next (thermCeil j (if x.ceil + 10 ≥ 190 then 0 else x.ceil + 10) (setIslT j { x with coolAt := t.now } t))

/-! ### Shutdown and trip (R872, R873, R881-R887) -/

/-- The trip recorder's record: KIND 10 with DATA byte 0 = `why`, to the reserve, with the next SEQ (R873, R882); a write that
fails its verify loses that copy (R832). -/
def tripRecord (why : Nat) (ok : Bool) (s : State) : State :=
  let c := takeFree s
  let q := c.2.mgs.seq + 1
  let r : TRec := ⟨q, c.2.mgs.boot, c.2.now, 10, 0, c.1 % 65536, 0xFFFFFFFF, 0, leBytes 1 why⟩
  let ring := c.2.mgs.ring ++ [r]
  let s1 := wr64 (mgsP 0 + 0x98) q (setMgs { c.2.mgs with seq := q, ring := ring.drop (ring.length - 1024) } c.2)
  if s1.mgs.rsvFailed then s1 else if ok then reservePut r s1 else reserveFailed q s1

/-- Every island is disconnected (R872, R972). -/
def allOff (s : State) : State := (List.range 64).foldl (fun t j => islOff j t) s

/-- The orderly shutdown starts (Table 17-4 steps 2 and 3) and stops a bring-up (R948); before ISLANDS only the latch is set; while MGS
restarts the hub's fallback governor trips instead (R882). -/
def shutStart (id : Nat) (ok : Bool) (s : State) : State :=
  if shutdownOn s then s
  else
    let s0 := setF (thmP 0) THM_SHUT_LATCHED 1 (setF (thmP 0) THM_SHUT_SENSOR id s)
    if outcome s = 0 ∧ getF glbP GLB_READY_STAGE s < 5 then s0
    else if mstate s = 2 then fatEffects (thmP 0) 0x0306 (tripRecord 2 ok (allOff s0))
    else
      let s1 := (List.range 64).foldl (fun t j =>
        if (islOf j t).powered then islIssue j 120 3 t else t) s0
      let s2 := sessionDrop (raise (thmP 0) 19 s1)
      let s3 := (List.range 128).foldl (fun t n => if lifeAt (statOf (herdP n)) t = 0 then t else lifeShut 2 (statOf (herdP n)) 0xF0 2000 t) s2
      let s4 := setThm { s3.thm with shut := 1, shutAt := s3.now } s3
      if outcome s4 = 0 then setOutcome 3 (setF glbP GLB_LOSS_NR_CAUSE 2 s4) else s4

/-- A refresh of the sensors, with their readings. -/
def sensorRefresh (rs : List (Nat × Option Nat)) (ok : Bool) (s : State) : State :=
  let s1 := rs.foldl (fun t r => takeReading r.1 r.2 t) s
  let ids := (s1.thm.sens.map (·.1)).filter isTemp
  let u := ids.foldl (fun (a : Bool × List Nat × State) id =>
    let b := updBand id a.2.2
    (a.1 || b.1, if b.2.1 then a.2.1 ++ [id] else a.2.1, b.2.2)) (false, [], s1)
  let s2 := if u.1 then raise (thmP 0) 16 u.2.2 else u.2.2
  let s3 := (List.range 3).foldl (fun t c => showClass c t) s2
  let s4 := match u.2.1 with | id :: _ => shutStart id ok s3 | [] => s3
  (List.range 64).foldl (fun t j => islThrottle j t) s4

/-- SENSOR_REFRESH (R858), 1 ms after the last: the readings of this refresh, by sensor; `ok` says that a trip record's write passes its verify. -/
def execSensorRefresh (rs : List (Nat × Option Nat)) (ok : Bool) (s : State) : Res :=
  let t := waitEvery 1000000 s.thm.readAt s
  .next (sensorRefresh rs ok (setThm { t.thm with readAt := some t.now } t))

/-- HARDWARE_TRIP (R872, R873): sensor id's diode reads its class's trip threshold. -/
def execHardwareTrip (id : Nat) (ok : Bool) (s : State) : Res :=
  if s.boot.trip || !isTemp id then .next s
  else
    let s1 := allOff { s with boot := { s.boot with trip := true } }
    .next (fatEffects (thmP 0) 0x0306 (tripRecord 1 ok s1))

/-- SHUTDOWN_LOG (Table 17-4 step 5): every herd is OFF, or 4 ms have passed since step 3. -/
def execShutdownLog (ok : Bool) (s : State) : Res :=
  if s.thm.shut ≠ 1 then .next s
  else
    let quiet := (List.range 128).all (fun n => lifeAt (statOf (herdP n)) s == 0 || lifeAt (statOf (herdP n)) s == 5)
    let s0 := if quiet then s else (waitTill (s.thm.shutAt + 4000000) s)
    let s1 := (List.range 16).foldl (fun t p => if lifeAt (statOf (rlpP p)) t = 2 then lifeShut 2 (statOf (rlpP p)) 0xF0 0 t else t) s0
    let id := getF (thmP 0) THM_SHUT_SENSOR s1
    let s2 := recordErr (thmP 0) 0x0305 3 id id false s1
    let s3 := tallyFree 10 0xFFFFFFFF (leBytes 1 0) s2
    let s4 := match s3.mgs.ring.reverse with | r :: _ => reserveCopy r ok s3 | [] => s3
    let s5 := persistAll s4
    let s6 := setThm { s5.thm with shut := 2 } s5
    .next (if s6.boot.warnDue then pwrWarnLog { s6 with boot := { s6.boot with warnDue := false } } else s6)

/-- SHUTDOWN_POWER_OFF (Table 17-4 step 6). -/
def execShutdownPowerOff (s : State) : Res :=
  if s.thm.shut ≠ 2 then .next s
  else .next (setThm { s.thm with shut := 3 } (setOutcome 3 (allOff s)))

/-- Every valid temperature sensor reads at least 15 °C below SHUT (R887). -/
def coolEnough (s : State) : Bool :=
  s.thm.sens.all (fun e => !isTemp e.1 || !e.2.valid || sensAbsent e.1 s
    || decide (signed 20 e.2.val ≤ deg (getF (thmP 0) (THM_SHUTTHR_SHUT (sensClass e.1)) s) - 240))

/-! ### Thresholds, cap, TMAX -/

/-- Clamp the thresholds of a class (R859): whether anything changed. -/
def clampThr (c : Nat) (s : State) : State :=
  let p := thmP 0
  let sh := min (getF p (THM_SHUTTHR_SHUT c) s) (getF p (THM_SHUTTHR_TRIP c) s - 5)
  let th := min (getF p (THM_THR_THROT c) s) (sh - 5)
  let w := min (getF p (THM_THR_WARN c) s) th
  let wh := max 1 (getF p (THM_THR_WHYST c) s)
  let thy := max 1 (getF p (THM_THR_THYST c) s)
  let s1 := setF p (THM_SHUTTHR_SHUT c) sh (setF p (THM_THR_THROT c) th (setF p (THM_THR_WARN c) w
    (setF p (THM_THR_WHYST c) wh (setF p (THM_THR_THYST c) thy s))))
  if rdW (p + 0x80 + 4 * c) s1 = rdW (p + 0x80 + 4 * c) s ∧ rdW (p + 0x90 + 4 * c) s1 = rdW (p + 0x90 + 4 * c) s then s1
  else raise p 22 s1

/-- A write of THM_THR_c or, with `sh`, THM_SHUTTHR_c. -/
def execThmThresholdWrite (fn c : Nat) (sh : Bool) (v : Nat) (s : State) : Res :=
  if c ≥ 3 then .next s
  else
    let a := thmP 0 + (if sh then 0x90 else 0x80) + 4 * c
    .next (barWrite fn a (fun s => clampThr c (writeReg a v s)) s)

/-- A write of THM_CAP (R14, R865). -/
def execThmCapWrite (fn v : Nat) (s : State) : Res :=
  let a := thmP 1 + 0x80
  .next (barWrite fn a (fun s =>
    let s1 := writeReg a (bitsOf v 31 31 * 2 ^ 31 + getF (thmP 1) THM_CAP_WATTS s) s
    if flag (thmP 1) PG_LOCK_LOCKED s then s1 else capWrite (v % 65536) s1) s)

/-- SENSE_TMAX.CLR: MAX takes the current reading. -/
def execSenseTmaxClr (fn i v : Nat) (s : State) : Res :=
  .next (barWrite fn (senseP i + 0xA4) (fun s =>
    if bitOf v 31 then setF (senseP i) SENSE_TMAX_MAX (getF (senseP i) SENSE_TEMP_TEMP s) s else s) s)

/-! ### The fast limiter (R866) -/

/-- POWER_METER_SAMPLE: the meter reads mW at the end of 10 µs: ten samples in a row above 1.10 x cap lower every ceiling by 5 codes, a hundred
below 0.95 x cap return 5. -/
def execPowerMeterSample (mw : Nat) (s : State) : Res :=
  let s0 := waitEvery 10000 s.thm.meterAt s
  let s := setThm { s0.thm with meterAt := some s0.now } s0
  let cap := getF (thmP 1) THM_CAP_WATTS s * 1000
  let d := getF (thmP 1) THM_LIMIT_DEPTH s
  if 100 * mw > 110 * cap then
    if s.thm.hiRun + 1 < 10 then .next (setThm { s.thm with hiRun := s.thm.hiRun + 1, loRun := 0 } s)
    else
      let s1 := setThm { s.thm with hiRun := 0, loRun := 0 } s
      let s2 := setF (thmP 1) THM_LIMIT_ACTIVE 1 (bump (thmP 1) THM_LIMIT_COUNT 1 (bump (thmP 1) THM_LIMIT_DEPTH 5 s1))
      let s3 := recordCE (thmP 1) 0x0303 0 0 (raise (thmP 1) 21 s2)
      .next ((List.range 64).foldl (fun t j => showCeiling j t) s3)
  else if 100 * mw < 95 * cap then
    if d = 0 then .next (setThm { s.thm with hiRun := 0, loRun := 0 } s)
    else if s.thm.loRun + 1 < 100 then .next (setThm { s.thm with hiRun := 0, loRun := s.thm.loRun + 1 } s)
    else
      let s1 := setThm { s.thm with hiRun := 0, loRun := 0 } s
      let s2 := setF (thmP 1) THM_LIMIT_ACTIVE (b2n (decide (5 < d))) (setF (thmP 1) THM_LIMIT_DEPTH (d - 5) s1)
      .next ((List.range 64).foldl (fun t j => showCeiling j t) s2)
  else .next (setThm { s.thm with hiRun := 0, loRun := 0 } s)

/-! ### The policy engine (R867, R868, R876) -/

/-- Herds that own rods in island j. -/
def islHerds (j : Nat) (s : State) : List Nat :=
  (islandRods j).foldl (fun l i => if rodVisible i s then (match herdOfRod i s with | some n => nsInsert l n | none => l) else l) []

/-- Step 1 of R868: the lowest code at which the island's hottest present rod reaches the pace `f`; 190 when none does. -/
def paceCode (j f : Nat) (s : State) : Nat :=
  let temps := ((islandRods j).filter (fun i => rodCounts i s)).map (fun i => rodTemp i s)
  let t := match temps with | [] => 1120 | a :: r => r.foldl max a
  if f = 0 then 120
  else (((List.range 71).map (fun k => 120 + k)).find? (fun c => decide (nominalPace [5 * c] t ≥ f))).getD 190

/-- Pace floor of herd n. -/
def herdFloor (n : Nat) (s : State) : Nat := getF (thmP 1) (THM_HERD_FLOOR n) s

/-- Herd n's floor is beyond what 0.95 V gives in one of its islands (R876). -/
def floorTooHigh (n : Nat) (s : State) : Bool :=
  (List.range 64).any (fun j => (islHerds j s).contains n && decide (herdFloor n s ≠ 0) &&
    (let temps := ((islandRods j).filter (fun i => rodCounts i s)).map (fun i => rodTemp i s)
     match temps with
     | [] => false
     | a :: r => decide (nominalPace [950] (r.foldl max a) < herdFloor n s)))

/-- The most that island j may be raised to: its ceiling or 0.95 V (R868). -/
def islTop (j : Nat) (s : State) : Nat :=
  let cap := getF (islP j) ISL_THERMCAP_CEILING s
  if cap ≠ 0 then min 190 cap else 190

/-- An island with a sensor in the warning band: it gets no headroom (R860). -/
def islWarn (j : Nat) (s : State) : Bool :=
  ((islandRods j).filter (fun i => rodCounts i s) ++ memSensors j).any (fun i => decide ((sensOf i s).dec ≥ 1))

/-- Latency class of island j: the highest of its herds. -/
def islClass (j : Nat) (s : State) : Nat := (islHerds j s).foldl (fun m n => max m (getF (thmP 1) (THM_HERD_LCLASS n) s)) 0

/-- Every island with a LATENCY herd that may rise is given all it can take, so that NORMAL islands may rise (R868 step 2). -/
def latencyFull (volts : List (Nat × Nat)) (s : State) : Bool :=
  (List.range 64).all (fun j => decide (islClass j s < 2) || islAbsent j s || flag (islP j) ISL_CTL_MANUAL s || islWarn j s
    || decide (islTop j s ≤ alGetD volts j 120))

/-- The voltage planned for island j (R860, R868): `want` is what the headroom allows, `full` that LATENCY
islands have all they can take, `miss` the herds whose floors cap or ceiling lower. -/
def planIsl (j want : Nat) (full : Bool) (miss : List Nat) (s : State) : Option Nat :=
  if islAbsent j s then none
  else
    let hs := islHerds j s
    if hs.isEmpty then some (min 140 (islTop j s))
    else
      let base := paceCode j (hs.foldl (fun m n => max m (herdFloor n s)) 0) s
      let cls := islClass j s
      let lo := if hs.any (fun n => miss.contains n) then min want base else base
      let t := if cls = 0 ∨ islWarn j s ∨ (cls = 1 ∧ !full) then lo else max lo (min want 190)
      some (min t (islTop j s))

/-- Policy engine is at work: MGS runs and the outcome is known and good (R888, Table 16-10). -/
def policyRuns (s : State) : Bool := mstate s == 1 && (outcome s == 1 || outcome s == 2)

/-- MISS of herd n (R868 step 3, R876). -/
def showMiss (miss : List Nat) (n : Nat) (s : State) : State :=
  let m := miss.contains n || floorTooHigh n s
  let was := flag (thmP 1) (THM_HERD_MISS n) s
  let s1 := setF (thmP 1) (THM_HERD_MISS n) (b2n m) s
  if m && !was then recordCE (thmP 1) 0x0307 0 n (raise (thmP 1) 20 s1) else s1

/-- An action of the policy engine on page p writes a KIND 5 record (R826). -/
def policyAct (p : Nat) (s : State) : State := tallyFree 5 p [] s

/-- The plan's voltages take force, but in islands under manual control or in a quiet slice (R149, R870). -/
def planVolts (volts : List (Nat × Nat)) (miss : List Nat) (s : State) : State :=
  let full := latencyFull volts s
  (List.range 64).foldl (fun t j =>
    let quiet := match t.thm.quiet with | some q => q.1 == j | none => false
    if flag (islP j) ISL_CTL_MANUAL t || quiet then t
    else match planIsl j (alGetD volts j 120) full miss t with
      | none => t
      | some c => if c = getF (islP j) ISL_VSTAT_TARGET t then t
          else policyAct (islP j) (islCommand j c 1 (islMv j t) t)) s

/-- The plan's link widths (R602): links that are not under manual control retrain. -/
def planWidths (widths : List (Nat × Nat)) (s : State) : State :=
  widths.foldl (fun t w =>
    if w.1 < 32 ∧ (w.2 = 8 ∨ w.2 = 16) ∧ ¬ flag (brgP w.1) BRG_CTL_MANUAL t then policyAct (brgP w.1) (askWidth w.1 w.2 t) else t) s

/-- The plan's share weights, none below its floor (R541). -/
def planWeights (weights : List (Nat × Nat × Nat)) (s : State) : State :=
  weights.foldl (fun t w =>
    if w.1 < 128 ∧ w.2.1 < 12 then
      let f := HERD_SHARE_WEIGHT w.2.1
      let x := min 255 (max (getF (herdP w.1) (HERD_SHARE_FLOOR w.2.1) t) w.2.2)
      if getF (herdP w.1) f t = x then t else relevel (policyAct (herdP w.1) (raise (herdP w.1) 19 (setF (herdP w.1) f x t)))
    else t) s

/-- A plan, 10 ms after the last, takes the goals as they stand; a code floor that rose raises the regions below it (R373, R867). -/
def planGoals (s : State) : State :=
  let t := waitEvery 10000000 s.thm.planAt s
  let u := setThm { t.thm with planAt := some t.now, goal := (rdW (thmP 1 + 0x84) t).toNat } t
  if policyFloor u = policyFloor t ∨ !rodsMapped u then u
  else ((List.range 1024).filter (fun i => !rodAbsent i u)).foldl (fun r i => applyFloors i r) u

/-- POLICY_PLAN (R867, R868, R602, R541): the plan's voltages by island, the herds whose floors it lowers, link widths it asks for (link, 8 or 16)
and share weights (herd, resource, weight). -/
def execPolicyPlan (volts : List (Nat × Nat)) (miss : List Nat) (widths : List (Nat × Nat)) (weights : List (Nat × Nat × Nat)) (s : State) : Res :=
  if !policyRuns s || shutdownOn s then .next s
  else
    let s1 := planWidths widths ((List.range 128).foldl (fun t n => showMiss miss n t) (planVolts volts miss (planGoals s)))
    .next (if flag (thmP 1) THM_GOAL_SHARES_MAN s1 then s1 else planWeights weights s1)

/-! ### The estimator and quiet slices (R869-R871, R883) -/

/-- Show the fitted powers. -/
def estPowers (pows : List (Nat × Nat)) (pkg : Nat) (s : State) : State :=
  setF (thmP 1) THM_POWER_PKG (min pkg 65535)
    (pows.foldl (fun t e => if e.1 < 64 then setF (islP e.1) ISL_POWER_POWER (min e.2 65535) t else t) s)

/-- Island j's confidence becomes c; when it has been LOW is kept. -/
def putConf (j c : Nat) (s : State) : State :=
  let x := islT j s
  let from_ := if c = 0 then (if getF (islP j) ISL_POWER_CONF s = 0 then x.lowFrom else some s.now) else none
  setF (islP j) ISL_POWER_CONF c (setIslT j { x with lowFrom := from_ } s)

/-- Islands whose fit diverged are LOW. -/
def estDiverged (div : List Nat) (s : State) : State :=
  (div.filter (fun j => decide (j < 64))).foldl (fun t j => putConf j 0 (recordCE (thmP 1) 0x0304 0 j t)) s

/-- The package's confidence: the lowest of the present islands'. -/
def lowConf (s : State) : Nat :=
  let present := (List.range 64).filter (fun j => !islAbsent j s)
  if present.isEmpty then 0 else present.foldl (fun m j => min m (getF (islP j) ISL_POWER_CONF s)) 2

/-- Confidence from the excitation index and the power residual, in millionths (R869): 2 HIGH, 1 MED, 0 LOW. -/
def confOf (exc res : Nat) : Nat := if 50000 ≤ exc ∧ res ≤ 30000 then 2 else if 10000 ≤ exc then 1 else 0

/-- The confidence of each island, every 1 s, and of the package. -/
def estConfs (confs : List (Nat × Nat × Nat)) (s : State) : State :=
  let s1 := confs.foldl (fun t e => if e.1 < 64 then putConf e.1 (confOf e.2.1 e.2.2) t else t) s
  let c := lowConf s1
  let s2 := if getF (thmP 1) THM_EST_CONF s1 = c then s1 else raise (thmP 1) 17 (setF (thmP 1) THM_EST_CONF c s1)
  let s3 := if c = 0 then bump (thmP 1) THM_EST_LOW_S 1 s2 else setF (thmP 1) THM_EST_LOW_S 0 s2
  if c ≥ 1 ∧ flag (thmP 1) THM_EST_GUARD s3 then showEffCap (setF (thmP 1) THM_EST_GUARD 0 s3) else s3

/-- ESTIMATOR_FIT (R869): island powers in sixteenths of a watt, package power in watts, islands whose fit diverged, and every 1 s the
excitation index and power residual of each island. -/
def execEstimatorFit (pows : List (Nat × Nat)) (pkg : Nat) (div : List Nat) (confs : List (Nat × Nat × Nat)) (s : State) : Res :=
  let s0 := waitEvery 10000000 s.thm.fitAt s
  let s1 := estDiverged div (estPowers pows pkg (setThm { s0.thm with fitAt := some s0.now } s0))
  if confs.isEmpty then .next s1
  else
    let s2 := waitEvery 1000000000 s1.thm.confAt s1
    .next (estConfs confs (setThm { s2.thm with confAt := some s2.now } s2))

/-- An island that has been LOW for more than 30 s. -/
def lowLong (j : Nat) (s : State) : Bool :=
  !islAbsent j s && (match (islT j s).lowFrom with | some t => decide (s.now > t + 30000000000) | none => false)

/-- An island may have a quiet slice (R870). -/
def quietOk (j : Nat) (s : State) : Bool :=
  !flag (islP j) ISL_CTL_MANUAL s && (islHerds j s).all (fun n => getF (thmP 1) (THM_HERD_LCLASS n) s != 2)

/-- The island whose turn it is: the first after the last one, at rest for 10 s, whose herds are not changing (R870). -/
def quietTurn (can : List Nat) (s : State) : Option Nat :=
  let last := getF (thmP 1) THM_QUIET_LAST s
  let rested := can.filter (fun j => match (islT j s).sliced with | some t => decide (s.now ≥ t + 10000000000) | none => true)
  let busy (j : Nat) : Bool := (islHerds j s).any (fun n =>
    (alGet s.resizes n).isSome || lifeAt (statOf (herdP n)) s == 1 || lifeAt (statOf (herdP n)) s == 4)
  (rested.filter (fun j => decide (j > last)) ++ rested.filter (fun j => decide (j ≤ last))).find? (fun j => !busy j)

/-- Island j's quiet slice begins. -/
def quietBegin (j : Nat) (s : State) : State :=
  let s1 := setIslT j { islT j s with sliced := some s.now } s
  let s2 := setThm { s1.thm with quiet := some (j, s1.now, false) } s1
  let s3 := bump (islP j) ISL_TBAND_QUIETS 1 (setF (thmP 1) THM_EST_QUIET 1 (setF (thmP 1) THM_QUIET_LAST j (bump (thmP 1) THM_QUIET_COUNT 1 s2)))
  policyAct (islP j) (raise (thmP 1) 19 s3)

/-- The row comes once some present island has been LOW for more than 30 s. -/
def lowWait (s : State) : State :=
  match ((List.range 64).filter (fun j => !islAbsent j s)).filterMap (fun j => (islT j s).lowFrom) with
  | [] => s
  | a :: l => waitTill (l.foldl min a + 30000000001) s

/-- QUIET_SLICE (R870, R883): the next eligible LOW island in turn gets a slice; with none eligible the guard bands widen. -/
def execQuietSlice (s : State) : Res :=
  let s := lowWait s
  let long := (List.range 64).filter (fun j => lowLong j s)
  if !policyRuns s || long.isEmpty then .next s
  else
    let can := long.filter (fun j => quietOk j s)
    if can.isEmpty || !bitOf s.thm.goal 0 then
      if flag (thmP 1) THM_EST_GUARD s then .next s
      else .next (policyAct (thmP 1) <| raise (thmP 1) 18 (showEffCap (setF (thmP 1) THM_EST_GUARD 1 s)))
    else if s.thm.quiet.isSome then .next s
    else match quietTurn can s with
      | none => .next s
      | some j => .next (quietBegin j s)

/-- QUIET_SLICE_END (R871): 50 µs after it began. -/
def execQuietSliceEnd (s : State) : Res :=
  match s.thm.quiet with
  | none => .next s
  | some q =>
    let s1 := (waitTill (q.2.1 + 50000) s)
    .next (setF (thmP 1) THM_EST_QUIET 0 (setThm { s1.thm with quiet := none } s1))

end Sys2Proof.Machine
end

