-- ==== Sys2Proof/Machine/Reset.lean ====
section
/-! DEFINITION. Resets of the package (R8, R106-R108, R947, R972-R974) and the steps of bring-up's stages that other rows reach. -/
namespace Sys2Proof.Machine

/-- Store the bring-up data. -/
def setBoot (x : Boot) (s : State) : State := { s with boot := x }

/-- GLB_READY.STAGE. -/
def stage (s : State) : Nat := getF glbP GLB_READY_STAGE s

/-- Bring-up runs and stage k is in progress (R924); test mode holds it at stage 0 (R977). -/
def atStage (k : Nat) (s : State) : Bool := outcome s == 0 && !s.boot.cold && stage s == k && !flag glbP GLB_STRAP_TEST s

/-- Bring-up stops with NOT_READY and its cause (R940). -/
def bringStop (cause : Nat) (s : State) : State := setOutcome 3 (setF glbP GLB_LOSS_NR_CAUSE cause s)

/-- Stage k ends (R924, R925): its KIND 2 record with its duration in µs; the next stage begins. -/
def stageEnd (k : Nat) (s : State) : State :=
  let us := (s.now - s.boot.stageAt) / 1000
  let s1 := setBoot { s.boot with stageAt := s.now } (tally 2 1 k 0xFFFFFFFF 0 (leBytes 4 us) s)
  setF glbP GLB_READY_STAGE (min (k + 1) 0x15) s1

/-! ### Package warm reset (R107, R108) -/

/-- A register of an MGS mailbox page: untouched by a package warm reset (R812, R848). -/
def mgsReg (a : Nat) : Bool := decide (0x10000 ≤ a) && decide (a < 0x90000)

/-- The state register of a page after a package warm reset: a STATE that mirrors the package reads STARTING; that of a SENSE page stays, since its rod stays
mapped (Table 2-7); others read OFF. -/
def warmStat (a : Nat) (s : State) : Word :=
  match pageOf a with
  | some (.sense, _) => BitVec.ofNat 32 (getF a LIFE_STATE s)
  | _ => coldVal a

/-- Every page but the MGS mailbox pages takes its warm reset value, STATE as `warmStat` gives it, and PG_OWNER its cold value, so that every rod
page is FREE (R108, table PG_OWNER). -/
def warmPages (s : State) : State :=
  let regs := (s.regs.map (·.1)).filter (fun a => !mgsReg a)
  let s1 := regs.foldl (fun t a => if a % 0x1000 = 0xC then wrW a (warmStat a t) t else if a % 0x1000 = 0x2C then wrW a (coldVal a) t else rstReg .warm a t) s
  setF glbP GLB_RESET_LAST 1 { s1 with shadow := s1.shadow.filter (fun e => mgsReg e.1) }

/-- FAT conditions that outlast a package warm reset (Table 18-8). -/
def fatKept (c : Nat) : Bool := c == 0x0305 || c == 0x0306 || c == 0x0403 || c == 0x020B

/-- All state beside the registers that a package warm reset ends: herds and their programs, items, streams, queues, translations, packets,
KVM records, pipes. Bead contents, retirement, rod places, failed rods, islands and MGS stay. -/
def warmClear (s : State) : State :=
  let r := State.reset
  let s1 := { s with
    life := [], held := s.held.filter (fun e => mgsReg e.1), gate := false, msix := [], fns := [], seqs := [], spad := [],
    spadBad := [], spadPar := [], acc := [], accBad := [], vreg := [], vregBad := [], framed := [], resvs := [], hubItems := [],
    flights := [], probes := [], accPar := [], ox := [], goat := [], tabBad := [] }
  let s2 := { s1 with
    beads := s1.beads.map (fun (e : Nat × BeadSt) => (e.1, { e.2 with cache := [], zeroing := false, waits := [] })), reqs := [], strms := [], xlats := [], herdX := [], hubTlb := [],
    brgs := [], rlps := [], judged := [], links := [], ports := [], linkT := [], portT := [], rlWait := [], rlOut := [], rtrBad := [], rtr := r.rtr, e2e := { r.e2e with since := s1.now },
    kvs := [], kvm := r.kvm, hqs := [], atc := [], pris := [], atsInv := [], barHeld := [], pipes := [], flrDue := [], resizes := [] }
  { s2 with
    cals := [], lowPace := [], rrsDone := false, isls := s2.isls.map (fun (e : Nat × IslX) => (e.1, { e.2 with repeated := false, gaveUp := false })),
    fatal := s2.fatal.filter fatKept,
    thm := { s2.thm with
      isl := s2.thm.isl.map (fun (e : Nat × IslT) => (e.1, { e.2 with logic := false, mem := false, ceil := 0, coolAt := 0 })), hiRun := 0, loRun := 0, quiet := none } }

/-- What keeps a pass from beginning or going on (R938 rule 1, R940). -/
def stopCause (s : State) : Option Nat :=
  if mstate s = 3 then some 1 else if shutdownOn s then some 2 else if !s.fatal.isEmpty then some 3 else none

/-- Links and ports that the warm pass retrains (R624, R685): those READY now, and those whose retrain of the pass before had not come. -/
def warmSet (page : Nat → Nat) (n : Nat) (old : List Nat) (before : Nat) (s : State) : List Nat :=
  (List.range n).filter (fun k => lifeAt (statOf (page k)) s == 2 || ((outcome s == 0 || outcome s == 3) && decide (stage s ≤ before) && old.contains k))

/-- The boot commands with which the warm pass reaches GRID (R160, R932). -/
def gridBoot (s : State) : State :=
  ((List.range 64).filter (fun j => !islAbsent j s && !(islOf j s).cut)).foldl (fun t j => islBoot j t) s

/-- The warm pass starts at GRID with its boot commands, or stops there for cause `o` (R160, R886, R932, R940). -/
def warmPass (o : Option Nat) (s : State) : State :=
  match o with
  | some c => bringStop c s
  | none => gridBoot (setF glbP GLB_READY_STAGE 0x10 s)

/-- A package warm reset (R107, R108, R932). During a cold pass that has not reached GRID only its effects on pages apply, and the pass goes
on (R947); otherwise bring-up restarts at GRID, unless it stops there (R886, R940). -/
def warmReset (s : State) : State :=
  let on := outcome s == 0 && s.boot.coldPass && decide (stage s < 0x10)
  let st := stage s
  let links := warmSet brgP 32 s.boot.warmLinks 0x10 s
  let ports := warmSet rlpP 16 s.boot.warmPorts 0x13 s
  let ep := (nodeEpoch s + 1) % 256
  let s1 := warmClear (warmPages s)
  let s2 := bump glbP GLB_RESET_WARM_COUNT 1 (setF glbP GLB_NODE_EPOCH ep s1)
  if on then setF glbP GLB_READY_STAGE st s2
  else
    let s3 := setBoot { s2.boot with passAt := s2.now, stageAt := s2.now, coldPass := false, warmLinks := links, warmPorts := ports } s2
    warmPass (stopCause s3) s3

/-- PERST_N_ASSERT (R107, R807, R973). -/
def execPerstNAssert (s : State) : Res :=
  let s1 := setBoot { s.boot with perst := true } s
  .next (if s.boot.cold || s.boot.perst then s1 else warmReset s1)

/-- PERST_N_DEASSERT (R807, R933, R973): the 900 ms begin. -/
def execPerstNDeassert (s : State) : Res :=
  .next (if s.boot.perst then setBoot { s.boot with perst := false, perstAt := s.now } s else s)

/-- HOT_RESET (R808): a Hot Reset or DL_Down acts as an assertion of PERST_N, which ends with it. -/
def execHotReset (s : State) : Res :=
  .next (if s.boot.cold || s.boot.perst then s else (let s1 := warmReset s; setBoot { s1.boot with perstAt := s1.now } s1))

/-! ### Islands during bring-up (R159, R930, R887) -/

/-- Every island has been handled. -/
def islandsHandled (s : State) : Bool := (List.range 4).all (fun f => (frameIsls f s).all (fun j => islHandled j s))

/-- What follows an island's step while the islands power up: the next frame's commands; the end of the stage or, after a cleared shutdown, the
package warm reset (R159, R887). -/
def islandsGo (s : State) : State :=
  let s1 := bootNext s
  if !stageIslands s1 || !islandsHandled s1 then s1
  else if s1.thm.shut = 4 then warmReset (setThm { s1.thm with shut := 0 } s1)
  else stageEnd 5 s1

/-- SETTLED: the output mv has stayed within 10 mV of the target for 1 µs with the command still in force (R127): it settles, and channels whose
voltage has moved calibrate (R134). -/
def execSettled (j mv : Nat) (s : State) : Res :=
  let x := islOf j s
  let p := islP j
  if !x.unsettled || !x.powered || decide (mvDist mv (5 * getF p ISL_VSTAT_TARGET s) > 10) then .next s
  else
    let s1 := setF p ISL_SETTLED_TARGET (getF p ISL_VSTAT_TARGET s) (setF p ISL_SETTLED_SEQ (getF p ISL_VSTAT_SEQ s)
      (setF p ISL_VSTAT_DIR 0 (showMv j mv s)))
    let s2 := raise p 16 (setIsl j { x with unsettled := false, ramping := false, gaveUp := false, recover := x.recover && x.reinit } s1)
    .next (islandsGo ((islandRods j).foldl (fun t i => if rodsMapped t then calMoved i mv t else t) s2))

/-- When the command in force of island j should have settled: |ΔV| ÷ 10 mV/µs + 20 µs after its ramp began (R152). -/
def slowAt (j : Nat) (s : State) : Nat :=
  let x := islOf j s
  if x.ramping then x.rampAt + 100 * mvDist (5 * getF (islP j) ISL_VSTAT_TARGET s) x.rampFrom + 20000 else s.now

/-- VR_SLOW: the command in force has not settled in its time and stays in force (R152); while the islands power up bring-up repeats it once, and has
then handled the island (R930), as has the warm pass at GRID (log 149). -/
def execVrSlow (j mv : Nat) (s : State) : Res :=
  let x := islOf j s
  if !x.unsettled || !x.powered then .next s
  else
    let s1 := recordCE (islP j) 0x0401 0 (islLoc j mv) (measureMv j mv (waitTill (slowAt j s) s))
    if stageIslands s then
      if x.repeated then .next (islandsGo (setIsl j { islOf j s1 with gaveUp := true } s1))
      else .next (islBoot j (setIsl j { islOf j s1 with repeated := true } s1))
    else if atStage 16 s && !s.boot.coldPass then .next (setIsl j { islOf j s1 with gaveUp := true } s1)
    else .next s1

/-- THM_SHUT.CLEAR (R887): a cooled latch clears and the islands power up as R159 states; once they have settled the package warm-resets. Before
ISLANDS bring-up's own stage powers them. -/
def execThmShutClear (fn v : Nat) (s : State) : Res :=
  .next (barWrite fn (thmP 0 + 0xA0) (fun s =>
    if !bitOf v 0 || !shutdownOn s then s
    else if !coolEnough s then raise (thmP 0) 20 s
    else
      let cool := s.thm.sens.map (fun e => (e.1, { e.2 with band := if e.2.band = 3 then 0 else e.2.band }))
      let s1 := setF (thmP 0) THM_SHUT_LATCHED 0 { s with fatal := nsErase s.fatal 0x0305 }
      let s2 := setThm { s1.thm with sens := cool } s1
      if outcome s2 = 0 ∧ stage s2 < 5 then warmReset s2
      else
        let s3 := (List.range 64).foldl (fun t j => if (islOf j t).cut then t else islOff j t) (setThm { s2.thm with shut := 4 } s2)
        islandsGo ((List.range 64).foldl (fun t j => holdIsl j t) s3)) s)

/-! ### Cold reset (R972-R974, R995, R997) -/

/-- MGS as a cold reset leaves it: what lies in flash, the reserve and the OTP. -/
def mgsCold (s : State) : Mgs :=
  let m := s.mgs
  { Mgs.reset with
    boot := m.boot, sects := m.sects, cur := m.cur, spareNext := m.spareNext, reserve := m.reserve, switchRec := m.switchRec,
    slotA := m.slotA, slotB := m.slotB, active := m.active, trial := m.trial,
    trialRun := m.trialRun || (mstate s == 2 && m.trial.isSome), otpSvn := m.otpSvn, licence := m.licence, cfgProfile := m.cfgProfile,
    cfgDesc := m.cfgDesc, cfgElect := m.cfgElect, plan := m.plan, defects := m.defects, noFlash := s.boot.pwrWarn }

/-- The package is held in cold reset: nothing is left but flash, reserve, OTP, the always-on monitor and the levels of the balls. -/
def coldHold (loss : Option Nat) (s : State) : State :=
  let b := { Boot.reset with cold := true, railsBad := s.boot.railsBad, perst := s.boot.perst, pwrWarn := s.boot.pwrWarn, railNow := s.boot.railNow, loss := loss }
  { State.reset with mgs := mgsCold s, boot := b, freeN := s.freeN, out := s.out, pending := s.pending }

/-- Rail k falls below its reset threshold or rises above 110 % of nominal for 2 µs (R972, R991): cold reset, whose cause the always-on monitor
keeps when the package was running (R997). -/
def railCold (k : Nat) (s : State) : State :=
  let s1 := if s.boot.cold then s else coldHold (some k) s
  setBoot { s1.boot with railsBad := nsInsert s1.boot.railsBad k, railNow := nsInsert s1.boot.railNow k } s1

/-- COLD_RESET_ASSERT (R972): COLD_RESET_N falls or SYSCLK is lost (`rail` none), or a rail falls below its threshold. -/
def execColdResetAssert (rail : Option Nat) (s : State) : Res :=
  match rail with
  | none => .next (if s.boot.cold then s else coldHold none s)
  | some k => .next (railCold (k % 8) s)

/-- COLD_RESET_END (R972-R974, R999): 100 µs after the last condition cleared the straps are sampled and bring-up is at stage 0. -/
def execColdResetEnd (i2ca : Nat) (recov test : Bool) (s : State) : Res :=
  if !s.boot.cold then .next s
  else
    let b := s.boot
    let now := b.railNow.filter (fun k => !b.railsBad.contains k)
    let s0 := waitTill (s.now + 100000) s
    let s1 := setBoot { b with cold := false, railsBad := [], railNow := now, passAt := s0.now, stageAt := s0.now } s0
    let s2 := setF glbP GLB_STRAP_I2CA (i2ca % 4) (setF glbP GLB_STRAP_RECOV (b2n recov) (setF glbP GLB_STRAP_TEST (b2n test) s1))
    .next (match b.loss with
      | some k => setF glbP GLB_PWR_LOSS_V 1 (setF glbP GLB_PWR_LAST_LOSS k s2)
      | none => s2)

end Sys2Proof.Machine
end

