-- ==== Sys2Proof/Machine/Bringup.lean ====
section
/-! DEFINITION. Family: bring-up (chapter 19): its stages, rod mapping, readiness, and the run of a restarted MGS. Operands of a stage are what
its checks and trainings find. -/
namespace Sys2Proof.Machine

/-! ### POWER to SENSE -/

/-- STAGE_POWER. -/
def execStagePower (s : State) : Res := .next (if atStage 0 s then stageEnd 0 s else s)

/-- STAGE_ROM: `ok` says that OTP can be read; if not, OTP_FAIL and recovery (R853). -/
def execStageRom (ok : Bool) (s : State) : Res :=
  if !atStage 1 s then .next s
  else if ok then .next (stageEnd 1 s)
  else
    let s1 := mgsRuns none (setMgs { s.mgs with otpBad := true } s)
    .next (bringStop 1 (recordErr (mgsP 0) 0x020B 3 0 0 false s1))

/-- STAGE_IMAGE (R840, R976): `sigA` and `sigB` say whether the slots' header signatures are good. -/
def execStageImage (sigA sigB : Bool) (s : State) : Res :=
  if !atStage 2 s then .next s
  else
    let r := bootSelect sigA sigB (flag glbP GLB_STRAP_RECOV s) s
    match r.1 with
    | none => .next (bringStop 1 (mgsRuns none r.2))
    | some k =>
      let s1 := setMgs { r.2.mgs with startAt := r.2.now } r.2
      .next (stageEnd 2 (showImage k (s1.mgs.trial == some k && s1.mgs.trialRun) s1))

/-- Highest SEQ among persisted records (R834). -/
def seqHigh (s : State) : Nat := (flashRecs s ++ s.mgs.reserve).foldl (fun a r => max a r.seq) 0

/-- Copy the reserve back into the tally area (R834, R885). -/
def copyBack (s : State) : State :=
  let old := flashRecs s
  let new := (recSort s.mgs.reserve).filter (fun r => !old.any (fun x => x.same r))
  if s.mgs.reserve.isEmpty then s
  else
    let s1 := persistAll (setMgs { s.mgs with pend := new, reserve := [], switchRec := none } s)
    let last := match new.reverse with | r :: _ => r.seq | [] => 0
    tallyLog 3 (leBytes 4 new.length ++ leBytes 8 last) s1

/-- The KIND 10 record of the boot before this one, if the log holds one (R890): DATA byte 0. -/
def shutRecord (s : State) : Option Nat :=
  let l := (flashRecs s ++ s.mgs.reserve).filter (fun r => r.kind == 10 && r.boot + 1 == s.mgs.boot)
  match (recSort l).reverse with
  | r :: _ => some (leNat (r.data.take 1))
  | [] => none

/-- A topology descriptor is valid (R937, Table 19-3). -/
def descOk (d : List Byte) : Bool :=
  let n (o k : Nat) : Nat := leNat ((d.drop o).take k)
  let ports := (List.range 16).all (fun p => n (24 + 12 * p + 9) 3 == 0)
  let brg := (List.range 32).all (fun i => n 12 8 / 4 ^ i % 4 != 3)
  d.length == 216 && n 0 4 == 0x4F504F54 && n 4 2 == 1 && n 6 2 == 216 && decide (n 8 2 ≤ 1024) && bitsOf (n 10 1) 6 4 == 0
    && decide (n 11 1 % 16 ≤ 6) && decide (n 11 1 / 16 ≤ 5) && brg && n 20 4 == 0 && ports

/-- Load the readiness profile, the descriptor and the default ELECT_PRI (R823, R934, R937, R943). -/
def loadConfig (s : State) : State :=
  let d := match s.mgs.cfgDesc with | some x => if descOk x then some x else none | none => none
  let strict := match d with | some x => leNat ((x.drop 10).take 1) / 128 | none => 0
  let s1 := setF glbP GLB_READY_PROFILE (s.mgs.cfgProfile.getD 2 % 4) (setF glbP GLB_DESC_VALID (b2n d.isSome) (setF glbP GLB_DESC_STRICT strict s))
  let s2 := setF (rtrP 0) RTR_CTL_ELECT_PRI (min 254 (s1.mgs.cfgElect.getD 1)) (setBoot { s1.boot with desc := d } s1)
  if s.mgs.cfgDesc.isSome && d.isNone then tally 2 1 0x200 0xFFFFFFFF 0 [] s2 else s2

/-- A shutdown of the boot before is noted in GLB's first record of this boot (R890): a mark in byte 36 of DATA, whose form the spec leaves open. -/
def noteShutdown (s : State) : State :=
  let c := takeFree s
  match s.mgs.fifo with
  | r :: t => setMgs { c.2.mgs with fifo := { r with data := r.data ++ leBytes 1 c.1 } :: t } c.2
  | [] => c.2

/-- The rail whose loss ended the previous boot goes into the log (R997). -/
def noteLoss (s : State) : State :=
  match s.boot.loss with
  | some k => setBoot { s.boot with loss := none } (tally 2 1 0x201 0xFFFFFFFF 0 (leBytes 1 k) s)
  | none => s

/-- A shutdown record that names a thermal trip shows it in THM_SHUT and in the log. -/
def noteTrip (was : Option Nat) (s : State) : State :=
  match was with
  | some (w + 1) =>
    let t := setF (thmP 0) THM_SHUT_TRIPPED 1 s
    tally 1 0 0x0306 (thmP 0) 3 (errData (thmP 0) (pageState (thmP 0) t) (pageState (thmP 0) t) 0 false false false (w + 1) none t) t
  | _ => s

/-- STAGE_MGS (R854, R890, R997): MGS reaches RUN. `flash` says that the flash identification is the one in the boot record (R829). -/
def execStageMgs (flash : Bool) (s : State) : Res :=
  if !atStage 3 s then .next s
  else
    let slot := getF (mgsP 0) MB_INFO_SLOT s
    let m := setMgs { s.mgs with boot := s.mgs.boot + 1, seq := seqHigh s } s
    let s1 := setF (mgsP 0) MB_LOGSTAT_SPARES (64 - m.mgs.spareNext) (wr64 (mgsP 0 + 0x98) m.mgs.seq m)
    let was := shutRecord s1
    let s2 := if flash then copyBack s1 else flashLost 3 s1
    let s3 := mgsRuns (some slot) (if was = some 0 then noteShutdown s2 else s2)
    let h := (slotOf slot s3).hdr
    let d := (h.drop 8).take 4 ++ leBytes 1 slot ++ leBytes 1 (b2n (flag (mgsP 0) MB_INFO_TRIAL s3)) ++ leBytes 1 (hdrNum h 12 1)
    let s4 := tally 11 1 0 0xFFFFFFFF 0 d s3
    .next (stageEnd 3 (loadConfig (noteTrip was (noteLoss s4))))

/-- STAGE_SENSE (R887): the readings of every sensor; the stage holds while the shutdown latch is set or a sensor is too hot. -/
def execStageSense (rs : List (Nat × Option Nat)) (ok : Bool) (s : State) : Res :=
  if !atStage 4 s then .next s
  else
    let s1 := sensorRefresh rs ok s
    .next (if shutdownOn s1 || !coolEnough s1 then s1 else stageEnd 4 s1)

/-! ### ISLANDS and LINKS -/

/-- STAGE_ISLANDS (R159): the first frame's boot commands; the stage ends once every island has been handled. -/
def execStageIslands (s : State) : Res := .next (if atStage 5 s then islandsGo s else s)

/-- Lanes of link n that a list names, by direction; a link that it does not name has all 18. -/
def laneMap (n : Nat) (l : List (Nat × Nat × Nat)) : Nat × Nat :=
  match l.find? (fun e => e.1 == n) with
  | some e => e.2
  | none => (0x3FFFF, 0x3FFFF)

/-- Removal of bridges whose links are all out of service (R603). -/
def checkBridges (s : State) : State := (List.range 8).foldl (fun t b => checkBridge b t) s

/-- Link n after its training (R622): it is among the trained links, or fails. -/
def trainedLink (lanes : List (Nat × Nat × Nat)) (t : State) (n : Nat) : State :=
  let m := laneMap n lanes
  let r := brgTested n m.1 m.2 (setBrgX n .rest (brgFresh n (setState (statOf (brgP n)) 1 t)))
  if r.1 then setBoot { r.2.boot with trained := r.2.boot.trained ++ [n] } r.2 else trainFail n r.2

/-- STAGE_LINKS (R622, R945): every link trains without a lane test; `lanes` names the links on which not every lane trained. A frame that cannot be
reached is isolated, and bring-up stops. -/
def execStageLinks (lanes : List (Nat × Nat × Nat)) (s : State) : Res :=
  if !atStage 6 s then .next s
  else
    let s1 := (List.range 32).foldl (trainedLink lanes) (setBoot { s.boot with trained := [] } s)
    let dead (b : Nat) : Bool := (List.range 4).all (fun k => !s1.boot.trained.contains (4 * b + k))
    let s2 := ((List.range 8).filter dead).foldl (fun t b => checkBridge b t) s1
    if (List.range 4).any (fun f => isolated f s2) then .next (bringStop 4 s2) else .next (stageEnd 6 s2)

/-! ### Physical rods and their mapping (R27, R28, R928-R931) -/

/-- Physical rod at row r, column c of frame f. -/
def physAt (f r c : Nat) : Nat := f * 272 + r * 17 + c

/-- Its place as DEFECT_READ writes it (Table 16-5). -/
def physPlace (p : Nat) : Nat := p / 272 + p % 272 / 17 * 256 + p % 17 * 65536

/-- The physical rod that serves logical rod i. -/
def physOf (i : Nat) (s : State) : Nat :=
  let q := rodPlace i s
  physAt (q % 256) (q / 256 % 256) (q / 65536)

/-- Lowest failed column of a physical row (R929). -/
def firstBad (f r : Nat) (bad : List Nat) : Option Nat := (List.range 17).find? (fun c => bad.contains (physAt f r c))

/-- The physical rod that logical rod i maps to (R929). -/
def mapTo (bad : List Nat) (i : Nat) : Nat :=
  let f := rodFrame i
  let r := rodY i % 16
  let c := rodX i % 16
  match firstBad f r bad with
  | none => physAt f r c
  | some g => if c < g then physAt f r c else physAt f r (c + 1)

/-- Retirement data of a physical rod: remap table, unusable spares, lost pages, spares of each channel, pages retired. -/
abbrev PhysBead := List (Nat × Nat) × List Nat × List Nat × Nat × Nat × Nat

/-- That of a rod none of whose pages is retired (R350). -/
def PhysBead.fresh : PhysBead := ([], [], [], 128, 128, 0)

/-- That of logical rod i now. -/
def physBead (i : Nat) (s : State) : PhysBead :=
  ((beadOf i s).remap, (beadOf i s).badSpare, (beadOf i s).lost, getF (beadP i) BEAD_SPARE_A s, getF (beadP i) BEAD_SPARE_B s, getF (beadP i) BEAD_SPARE_RETIRED s)

/-- Logical rod i takes that of the physical rod which serves it now. -/
def takeBead (i : Nat) (x : PhysBead) (s : State) : State :=
  let s1 := setBead i { beadOf i s with remap := x.1, badSpare := x.2.1, lost := x.2.2.1 } s
  setF (beadP i) BEAD_SPARE_A x.2.2.2.1 (setF (beadP i) BEAD_SPARE_B x.2.2.2.2.1 (setF (beadP i) BEAD_SPARE_RETIRED x.2.2.2.2.2 s1))

/-- Map every logical rod (R929): rods whose physical rod has failed are absent; the mapped rods are those that bring-up has tested. A present rod's
SENSE page is READY from now on (R76), and a rod mapped first has its spares whole (R350). -/
def mapRods (s : State) : State :=
  let bad := s.boot.physBad
  let all := (List.range 1024).map (fun i => (i, mapTo bad i))
  let had : List (Nat × PhysBead) := if rodsMapped s then (List.range 1024).map (fun i => (physOf i s, physBead i s)) else []
  let rm := all.foldl (fun m e => if mapTo [] e.1 = e.2 then m else alSet m e.1 (physPlace e.2)) []
  let row (y : Nat) : Nat := (List.range 32).foldl (fun a x => if bad.contains (mapTo bad (rodAt x y)) then a + 2 ^ x else a) 0
  let s1 := (List.range 32).foldl (fun t y => setF glbP (GLB_ABSENT_ABSENT y) (row y) t) s
  let moved := all.filter (fun e => decide (physOf e.1 s ≠ e.2))
  let s2 := { s1 with rodMap := rm, failed := [] }
  let s3 := (if rodsMapped s then moved else all.filter (fun e => !bad.contains e.2)).foldl (fun t e =>
      takeBead e.1 (match had.find? (fun h => h.1 == e.2) with | some h => h.2 | none => .fresh) t) s2
  let ready (t : State) (e : Nat × Nat) : State := setState (statOf (senseP e.1)) (if bad.contains e.2 then 0 else 2) t
  let s4 := setF glbP GLB_STATE_PRESENT (all.countP (fun e => !bad.contains e.2)) (all.foldl ready s3)
  setBoot { s4.boot with physSeen := (all.filter (fun e => !bad.contains e.2)).foldl (fun m e => nsInsert m e.2) s4.boot.physSeen } s4

/-- Present logical rods. -/
def presentRods (s : State) : List Nat := (List.range 1024).filter (fun i => !rodAbsent i s)

/-- A physical rod fails a test and enters the defect map (R928). -/
def physFail (p : Nat) (s : State) : State :=
  if p ≥ 1088 ∨ s.boot.physBad.contains p then s
  else addDefect 1 (physPlace p) 0 (setBoot { s.boot with physBad := nsInsert s.boot.physBad p } s)

/-- A CHECKER failure is also logged as SELFTEST_FAIL for no page (R928), whose locator names no rod (R23; DEDUCED, assumption log 103). -/
def checkerFail (p : Nat) (s : State) : State :=
  if p ≥ 1088 ∨ s.boot.physBad.contains p then s
  else tally 1 0 0x160E 0xFFFFFFFF 2 (leBytes 8 0 ++ leBytes 8 0) (physFail p s)

/-- Physical rods of island j; the spare column belongs to the last island of its rows. -/
def physOfIsland (j : Nat) : List Nat :=
  let f := j / 16
  let k := j % 16
  let cols := (List.range 4).map (fun c => 4 * (k % 4) + c) ++ (if k % 4 = 3 then [16] else [])
  (List.range 4).flatMap (fun r => cols.map (fun c => physAt f (4 * (k / 4) + r) c))

/-- An island failed its boot command twice (R930). -/
def islFailed (j : Nat) (s : State) : Bool :=
  (islOf j s).cut || getF (islP j) ISL_SETTLED_SEQ s != getF (islP j) ISL_VSTAT_SEQ s

/-- STAGE_ROD_TEST (R928, R930): the defect map's rods and those of failed islands count as failed; `bad` names those that fail the self-test. -/
def execStageRodTest (bad : List Nat) (s : State) : Res :=
  if !atStage 7 s then .next s
  else
    let known := (List.range 1088).filter (fun p => s.mgs.defects.any (fun d => d.kind == 1 && d.loc == physPlace p))
    let s1 := setBoot { s.boot with physBad := known.foldl nsInsert s.boot.physBad } s
    let dead := ((List.range 64).filter (fun j => islFailed j s1)).flatMap physOfIsland
    .next (stageEnd 7 ((dead ++ bad).foldl (fun t p => physFail p t) s1))

/-- STAGE_CHECKER (R401 step 1, R928): `bad` names the physical rods whose page-code checker fails. -/
def execStageChecker (bad : List Nat) (s : State) : Res :=
  .next (if atStage 8 s then stageEnd 8 (bad.foldl (fun t p => checkerFail p t) s) else s)

/-- Islands whose rods are all absent are held at 0.60 V (R143). -/
def holdAbsent (s : State) : State := (List.range 64).foldl (fun t j => showIslPace j (holdIsl j t)) s

/-- STAGE_ROD_MAP (R929, R106). -/
def execStageRodMap (s : State) : Res := .next (if atStage 9 s then stageEnd 9 (holdAbsent (mapRods s)) else s)

/-! ### Bead and scratchpad tests (R161, R401) -/

/-- Train the channels of rod i; `bad` names channels, as rod x 2 + channel, that fail, `holds` the hold times of the others (R161, R931). -/
def trainRod (bad : List Nat) (holds : List (Nat × Nat)) (s : State) (i : Nat) : State :=
  [0, 1].foldl (fun t c =>
    if bad.contains (i * 2 + c) then rodGone i (recordCE (beadP i) 0x1606 (c * 16) (c * 2 ^ 24) t)
    else calRecord i c (alGetD holds (i * 2 + c) 0) (setCal i c { calOf i c t with code := islCode (rodIsland i) t } t)) s

/-- A scratchpad fails its march at the byte with key `k` (R931): SPAD_PARITY, and the rod becomes absent. -/
def spadFail (s : State) (k : Nat) : State :=
  let i := k / spadSize
  if i ≥ 1024 ∨ rodAbsent i s then s
  else rodGone i (spadSeen i (k % spadSize) 1 { s with spadPar := nsInsert s.spadPar k })

/-- STAGE_CHAN_TRAIN. -/
def execStageChanTrain (bad : List Nat) (holds : List (Nat × Nat)) (s : State) : Res :=
  .next (if atStage 10 s then stageEnd 10 ((presentRods s).foldl (trainRod bad holds) s) else s)

/-- STAGE_SPAD_TEST: the bytes, as rod × 2 MiB + address, at which scratchpads fail their march. -/
def execStageSpadTest (bad : List Nat) (s : State) : Res := .next (if atStage 11 s then stageEnd 11 (bad.foldl spadFail s) else s)

/-- STAGE_BEAD_TEST: pages, as rod and page, that fail the march; a spare k of channel c counts as page 49,152 + 128 c + k. -/
def execStageBeadTest (bad : List (Nat × Nat)) (s : State) : Res :=
  .next (if atStage 12 s then stageEnd 12 (setBoot { s.boot with march := bad } s) else s)

/-- A page named by the defect map is retired anew (R399, R401 step 4); one named again, for a spare it had, counts only. -/
def retireKnown (i q : Nat) (s : State) : State :=
  if (beadOf i s).lost.contains q then s
  else if (alGet (beadOf i s).remap q).isSome then bump (beadP i) BEAD_SPARE_RETIRED 1 s
  else if getF (beadP i) (spareField (pageChan q)) s = 0 then losePage i q s
  else remapPage i q s

/-- Spare k of channel ch has failed its march or is a row that was retired: it is never used (R399, R401). -/
def spareFail (i ch k : Nat) (s : State) : State :=
  let b := beadOf i s
  if b.badSpare.contains (128 * ch + k) then s
  else
    let s1 := setBead i { b with badSpare := nsInsert b.badSpare (128 * ch + k) } s
    if b.remap.any (fun e => pageChan e.1 == ch && e.2 == k) then s1 else takeSpare i ch s1

/-- Retire what the defect map names and the march failed on rod i (R401 step 4): spares that failed the march, and rows of spares that the
defect map names, are kept out first. -/
def retireRod (march : List (Nat × Nat)) (s : State) (i : Nat) : State :=
  let known := s.mgs.defects.filter (fun d => d.kind == 2 && d.loc % 2 ^ 32 == rodPlace i s)
  let mine := march.filter (fun e => e.1 == i)
  let s0 := (mine.filter (fun e => decide (49152 ≤ e.2))).foldl (fun t e => spareFail i ((e.2 - 49152) / 128 % 2) ((e.2 - 49152) % 128) t) s
  let t0 := (known.filter (fun d => decide (0 < d.row))).foldl (fun t d => spareFail i (pageChan (d.loc / 2 ^ 32)) (d.row - 1) t) s0
  let s1 := known.foldl (fun t d => retireKnown i (d.loc / 2 ^ 32) t) t0
  (mine.filter (fun e => decide (e.2 < 49152))).foldl (fun t e =>
    if (alGet (beadOf i t).remap e.2).isSome ∨ (beadOf i t).lost.contains e.2 then t
    else retirePage i e.2 true t) s1

/-- STAGE_RETIRE. -/
def execStageRetire (s : State) : Res :=
  .next (if atStage 13 s then
    (let s1 := (presentRods s).foldl (retireRod s.boot.march) s
     stageEnd 13 (setBoot { s1.boot with march := [] } s1)) else s)

/-- STAGE_ZERO. -/
def execStageZero (s : State) : Res := .next (if atStage 14 s then stageEnd 14 ((presentRods s).foldl (fun t i => zeroFill i t) s) else s)

/-! ### LANE_TEST and GRID -/

/-- How long the lane test takes at 64 Gb/s (R579, Table 19-2), in ns. -/
def laneTestNs (profile : Nat) : Nat := match profile with | 0 => 156250000 | 3 => 0 | _ => 31250000000

/-- Link n after its lane test (R579, R622): the lanes that did not pass are kept as bad, and the link is READY with the lanes left, or fails. Under
profile NONE every trained lane passes. -/
def testedLink (pass : List (Nat × Nat × Nat)) (s : State) (n : Nat) : State :=
  let t := if lifeAt (statOf (brgP n)) s = 0 then setState (statOf (brgP n)) 1 s else s
  let m := if getF glbP GLB_READY_PROFILE t == 3 then (0x3FFFF, 0x3FFFF) else laneMap n pass
  let bad := [(0, m.1), (1, m.2)].flatMap (fun e => ((List.range 18).filter (fun l => !bitOf e.2 l)).map (fun l => n * 64 + e.1 * 32 + l))
  let u := setBoot { t.boot with laneBad := bad.foldl nsInsert t.boot.laneBad } t
  let r := brgTested n (mapOfLanes ((goodLanes n 0 u).filter (fun l => bitOf m.1 l))) (mapOfLanes ((goodLanes n 1 u).filter (fun l => bitOf m.2 l))) u
  if r.1 then setState (statOf (brgP n)) 2 r.2 else trainFail n r.2

/-- STAGE_LANE_TEST (R622, Table 19-2): `pass` names the links on which not every trained lane passed; under profile NONE every trained lane is good. -/
def execStageLaneTest (pass : List (Nat × Nat × Nat)) (s : State) : Res :=
  if !atStage 15 s then .next s
  else
    let s := waitTill (s.boot.stageAt + laneTestNs (getF glbP GLB_READY_PROFILE s)) s
    let s1 := s.boot.trained.foldl (testedLink pass) s
    let dead (b : Nat) : Bool := (List.range 4).all (fun k => lifeAt (statOf (brgP (4 * b + k))) s1 != 2)
    let s2 := ((List.range 8).filter (fun b => dead b && !removed b s1)).foldl (fun t b => checkBridge b t) s1
    .next (if outcome s2 = 0 then stageEnd 15 s2 else s2)

/-- A link that was READY comes back after a package warm reset, with its lanes and width (R624). -/
def relinkWarm (s : State) (n : Nat) : State :=
  brgEnter n (setState (statOf (brgP n)) 2 (setBrgX n .rest (brgFresh n (setState (statOf (brgP n)) 1 s))))

/-- The channels of rod i that are down train again at a package warm reset (R398); the operands are those of `trainRod`. -/
def retrainDown (bad : List Nat) (holds : List (Nat × Nat)) (s : State) (i : Nat) : State :=
  (beadOf i s).down.foldl (fun t c =>
    if bad.contains (i * 2 + c) then chanDown i c t
    else
      let u := setBead i { beadOf i t with down := nsErase (beadOf i t).down c } t
      calRecord i c (alGetD holds (i * 2 + c) 0) (setCal i c { calOf i c u with code := islCode (rodIsland i) u } u)) s

/-- The warm pass's work at GRID (R932) after its boot commands: links, zero-fill, and the rows that hold a failed rod mapped anew; physical rods that had not
been mapped since cold reset run their tests, whose failures the operands name. -/
def gridWarm (checker chans : List Nat) (holds : List (Nat × Nat)) (spads : List Nat) (march : List (Nat × Nat)) (s : State) : State :=
  let s2 := s.boot.warmLinks.foldl relinkWarm s
  let s3 := (presentRods s2).foldl (fun t i => zeroFill i (retrainDown chans holds t i)) s2
  let s4 := setF (rtrP 0) RTR_CTL_ELECT_PRI (min 254 (s3.mgs.cfgElect.getD 1)) s3
  if s4.failed.isEmpty && rodsMapped s4 then s4
  else
    let seen := s4.boot.physSeen
    let s5 := setBoot { s4.boot with physBad := s4.failed.foldl (fun m i => nsInsert m (physOf i s4)) s4.boot.physBad } s4
    let fresh := ((List.range 1024).map (fun i => mapTo s5.boot.physBad i)).filter (fun p => !seen.contains p && !s5.boot.physBad.contains p)
    let s6 := mapRods ((checker.filter (fun p => fresh.contains p)).foldl (fun t p => checkerFail p t) s5)
    let news := (presentRods s6).filter (fun i => !seen.contains (physOf i s6))
    let s7 := news.foldl (trainRod chans holds) s6
    let s8 := (spads.filter (fun k => news.contains (k / spadSize))).foldl spadFail s7
    let live := news.filter (fun i => !rodAbsent i s8)
    holdAbsent (live.foldl (fun t i => zeroFill i (retireRod march t i)) s8)

/-- A channel trains once its island has settled (R161), so the warm pass waits at GRID for the commands it issued there (log 149). -/
def gridWaits (s : State) : Bool :=
  !s.boot.coldPass && (List.range 64).any (fun j => !islAbsent j s && !islHandled j s && !(islOf j s).cut)

/-- STAGE_GRID (R932, R603, R604): links that are in order carry and bridges without one are removed. -/
def execStageGrid (checker chans : List Nat) (holds : List (Nat × Nat)) (spads : List Nat) (march : List (Nat × Nat)) (s : State) : Res :=
  if !atStage 16 s || gridWaits s then .next s
  else
    let s1 :=
      if s.boot.coldPass then ((List.range 32).filter (fun n => brgReady n s)).foldl (fun t n => brgEnter n t) s
      else gridWarm checker chans holds spads march s
    let s2 := showRelay (checkBridges s1)
    let s3 := setBoot { s2.boot with warmLinks := [] } s2
    .next (if outcome s3 = 0 then stageEnd 16 s3 else s3)

/-! ### LICENCE, PCIE and RL -/

/-- STAGE_LICENCE (R20, R21, R842, R949): `sig` says whether the stored record's signature is good. -/
def execStageLicence (sig : Bool) (s : State) : Res :=
  if !atStage 17 s then .next s
  else
    let s0 := setMgs { s.mgs with licStage := true } s
    let good := match s.mgs.licence with | some l => sig && decide (l.serial = Config.serial.toNat) | none => true
    let s1 := setBoot { s0.boot with licBad := !good } s0
    .next (stageEnd 17 (
      if good then tallyLic 3 1 s1.mgs.licence (applyLic s1.mgs.licence s1)
      else recordCE (mgsP 0) 0x0209 0 0 (applyLic none s1)))

/-- STAGE_PCIE (R933). -/
def execStagePcie (s : State) : Res := .next (if atStage 18 s then stageEnd 18 { s with rrsDone := true } else s)

/-- A byte field of the descriptor in use, when there is one. -/
def descNum (o k : Nat) (s : State) : Option Nat := s.boot.desc.map (fun d => leNat ((d.drop o).take k))

/-- MODE of port p in the descriptor in use (R937). -/
def portMode (p : Nat) (s : State) : Nat := match descNum (24 + 12 * p + 8) 1 s with | some b => bitsOf b 5 4 | none => 0

/-- Training has settled (R927). -/
def rlSettled (s : State) : Bool :=
  (List.range 16).all (fun p => !(decide (2 ≤ rlPhase p s) && decide (rlPhase p s ≤ 4))
    && (!(portMode p s == 1 || portMode p s == 2) || rlPhase p s != 1))

/-- A port starts: after a package warm reset, one that was READY keeps its lanes and is not tested (R683, R685). -/
def rlBring (s : State) (p : Nat) : State :=
  if lifeAt (statOf (rlpP p)) s ≠ 0 then s
  else
    let s1 := enterStarting (statOf (rlpP p)) s
    if s.boot.warmPorts.contains p then setPhase p 3 s1 else s1

/-- The RL stage ends once training has settled or 3 s have passed (R927). -/
def rlEnd (s : State) : State :=
  if rlSettled s || decide (s.now ≥ s.boot.stageAt + 3000000000) then stageEnd 19 (setBoot { s.boot with warmPorts := [] } s) else s

/-- STAGE_RL (R683, R927): starts the ports when FABRIC is in force, and ends when their training has settled; without FABRIC it is skipped. -/
def execStageRl (s : State) : Res :=
  if !atStage 19 s then .next s
  else if !fabricOn s then .next (stageEnd 19 (setBoot { s.boot with warmPorts := [] } s))
  else .next (rlEnd ((List.range 16).foldl rlBring s))

/-! ### JUDGE and SERVICE -/

/-- Width of a link that is READY, else 0. -/
def readyWidth (n : Nat) (s : State) : Nat := if brgReady n s then getF (brgP n) BRG_STAT_WIDTH s else 0

/-- Bridge links that miss the error criteria (R935). -/
def berLinks (s : State) : List Nat :=
  (List.range 32).filter (fun n => readyWidth n s != 16
    || [0, 1].any (fun d => (List.range 18).any (fun l => laneState n d l s == 1 && s.boot.laneBad.contains (n * 64 + d * 32 + l))))

/-- Ports that miss them. -/
def berPorts (s : State) : List Nat :=
  (List.range 16).filter (fun p =>
    let st := lifeAt (statOf (rlpP p)) s
    let left := !(st == 0) && !(st == 1 && rlPhase p s == 1)
    left && !(st == 2 && getF (rlpP p) RLP_STAT_WIDTH s == 4 && (rlGood p 0 s).length == 4 && (rlGood p 1 s).length == 4))

/-- Links below their BRG_MIN (R936 check 4). -/
def topoLinks (s : State) : List Nat :=
  (List.range 32).filter (fun n =>
    let m := match descNum 12 8 s with | some v => v / 4 ^ n % 4 | none => 2
    decide (readyWidth n s < (match m with | 0 => 0 | 1 => 8 | _ => 16)))

/-- Ports that miss their MODE or MINW (check 5). -/
def topoPorts (s : State) : List Nat :=
  (List.range 16).filter (fun p =>
    match descNum (24 + 12 * p) 9 s with
    | none => false
    | some v =>
      let b := v / 2 ^ 64
      let ready := lifeAt (statOf (rlpP p)) s == 2
      let wide := decide (getF (rlpP p) RLP_STAT_WIDTH s ≥ (match bitsOf b 7 6 with | 0 => 0 | 1 => 1 | 2 => 2 | _ => 4))
      match bitsOf b 5 4 with
      | 0 => false
      | 1 => !(ready && wide)
      | 2 => !(ready && wide && rd64 (rlpP p + 0x88) s == v % 2 ^ 64 && getF (rlpP p) RLP_NBR_PORT s == b % 16)
      | _ => !(rlPhase p s == 1))

/-- Some check of the topology criteria fails beside links and ports (checks 1-3). -/
def topoRest (s : State) : Bool :=
  let rods := (descNum 8 2 s).getD 1024
  let feat := (descNum 10 1 s).getD 0 % 16
  let pcie := (descNum 11 1 s).getD 0
  let have_ := getF glbP GLB_LIC_FEATURES s
  decide (getF glbP GLB_STATE_PRESENT s < rods) || decide (feat &&& have_ ≠ feat) || decide (getF hifP HIF_LINK_RATE s < pcie % 16)
    || (decide (pcie / 16 ≠ 0) && decide (getF hifP HIF_LINK_WIDTH s < 2 ^ (pcie / 16 - 1)))

/-- Numbers as a bitmap. -/
def bitmap (l : List Nat) : Nat := l.foldl (fun a k => a ||| 2 ^ k) 0

/-- NR_CAUSE when the outcome will be NOT_READY (R940, R944): a cause that stops bring-up (`o`), an isolated frame, or a strict descriptor that the
topology falls short of. -/
def judgeCause (short : Bool) (o : Option Nat) (s : State) : State :=
  match o with
  | some c => setF glbP GLB_LOSS_NR_CAUSE c s
  | none =>
    if (List.range 4).any (fun f => isolated f s) then setF glbP GLB_LOSS_NR_CAUSE 4 s
    else if flag glbP GLB_DESC_STRICT s && short then setF glbP GLB_LOSS_NR_CAUSE 5 s
    else s

/-- JUDGE's work (R935-R939, R944): the losses, and NR_CAUSE when the outcome will be NOT_READY. -/
def judge (s : State) : State :=
  let prof := getF glbP GLB_READY_PROFILE s
  let ber := prof == 1 || prof == 2
  let topo := prof == 0 || prof == 2
  let bl := if ber then berLinks s else []
  let bp := if ber then berPorts s else []
  let tl := if topo then topoLinks s else []
  let tp := if topo then topoPorts s else []
  let short := topo && (topoRest s || !tl.isEmpty || !tp.isEmpty)
  let pages := (presentRods s).any (fun i => !(beadOf i s).lost.isEmpty)
  let put (f : Field) (b : Bool) (t : State) : State := setF glbP f (b2n b) t
  let s1 := put GLB_LOSS_LOG (tier s != 0) (put GLB_LOSS_UNCHECKED (prof == 3) (put GLB_LOSS_LICENCE s.boot.licBad (put GLB_LOSS_TOPO short s)))
  let s2 := put GLB_LOSS_RL_BER (!bp.isEmpty) (put GLB_LOSS_BRG_REMOVED ((List.range 8).any (fun b => removed b s)) (put GLB_LOSS_BRG_BER (!bl.isEmpty) s1))
  let s3 := put GLB_LOSS_PAGES pages (put GLB_LOSS_RODS (decide (getF glbP GLB_STATE_PRESENT s < 1024)) s2)
  let s4 := setF glbP GLB_LOSS_BRG_LINK (bitmap (bl ++ tl)) (setF glbP GLB_LOSS_RL_TOPO (bitmap tp) (setF glbP ⟨0x0B8, 15, 0⟩ (bitmap bp) s3))
  let s5 := { s4 with judged := (List.range 16).filter (fun p => lifeAt (statOf (rlpP p)) s == 2) }
  judgeCause short (stopCause s5) s5

/-- STAGE_JUDGE: it follows the end of the RL stage, which the 3 s of R927 bring at the latest. -/
def execStageJudge (s : State) : Res :=
  let s1 :=
    if !(atStage 19 s && fabricOn s) then s
    else if rlSettled s then rlEnd s
    else rlEnd (waitTill (s.boot.stageAt + 3000000000) s)
  .next (if atStage 20 s1 then stageEnd 20 (judge s1) else s1)

/-- The outcome that JUDGE's losses and cause give (R938). -/
def verdict (s : State) : Nat :=
  if getF glbP GLB_LOSS_NR_CAUSE s ≠ 0 then 3
  else if bitsOf (rdW (glbP + 0xB0) s).toNat 8 0 ≠ 0 then 2
  else 1

/-- STAGE_SERVICE (R938, R730, R888): the outcome; when the package serves, life commands are taken, the KVM starts, and the 30 s of R870 begin. -/
def execStageService (s : State) : Res :=
  if !atStage 21 s then .next s
  else
    let s1 := stageEnd 21 s
    let s2 := setF glbP GLB_BRINGUP_MS ((s1.now - s1.boot.passAt) / 1000000) s1
    let v := verdict s2
    let s3 := setOutcome v s2
    if v = 3 then .next s3
    else
      let isl := (List.range 64).foldl (fun t j =>
        if (islT j t).lowFrom.isNone && getF (islP j) ISL_POWER_CONF t == 0 then setIslT j { islT j t with lowFrom := some t.now } t else t) s3
      .next (lifeEval 1 (statOf (kvmP 0)) 0xF1 0 { isl with gate := true })

/-! ### STAGE_OVERRUN -/

/-- Bound of the stage in progress in ns (Table 19-1); POWER has none. -/
def stageBound (s : State) : Option Nat :=
  let prof := getF glbP GLB_READY_PROFILE s
  let remap := !s.failed.isEmpty || !rodsMapped s
  match stage s with
  | 0 => none
  | 1 => some 10000000
  | 2 => some 1200000000
  | 3 => some 50000000
  | 4 | 7 => some 5000000
  | 10 => some 200000
  | 12 => some 18000000
  | 13 | 20 => some 10000000
  | 14 => some 2000000
  | 15 => some (if prof = 3 then 0 else if prof = 0 then 200000000 else 32000000000)
  | 16 => some (if s.boot.coldPass then 1000000 else if remap then 25000000 else 3000000)
  | 17 => some 5000000
  | 19 => some (if s.boot.coldPass then 3000000000 else 1000000)
  | _ => some 1000000

/-- An island that has not settled within twice the bound of its stage fails with VR_SLOW, once (R152, Table 19-5). -/
def islandOverrun (t : State) (j : Nat) : State :=
  let x := islOf j t
  if x.unsettled && !x.cut && !x.gaveUp then
    recordCE (islP j) 0x0401 0 (islLoc j (islMv j t)) (setIsl j { x with gaveUp := true } t)
  else t

/-- A port still in training at twice the bound of its stage fails (Table 19-5). -/
def portOverrun (t : State) (p : Nat) : State :=
  if 2 ≤ rlPhase p t ∧ rlPhase p t ≤ 4 then setPhase p 0 (recordErr (rlpP p) 0x2107 2 (rlDetail p 0) (rlLoc p 0) false t) else t

/-- STAGE_OVERRUN (R926, Table 19-5): the stage in progress exceeds twice its bound; islands that have not settled and ports in training fail with
their own codes. The other stages' rows name the elements that failed. -/
def execStageOverrun (s : State) : Res :=
  match stageBound s with
  | none => .next s
  | some b =>
    if outcome s ≠ 0 ∨ s.boot.cold ∨ flag glbP GLB_STRAP_TEST s then .next s
    else
      let s1 := tally 2 1 (0x100 + stage s) 0xFFFFFFFF 0 [] (waitTill (s.boot.stageAt + 2 * b + 1) s)
      if stage s = 5 then .next (islandsGo ((List.range 64).foldl islandOverrun s1))
      else if stage s = 19 then .next (rlEnd ((List.range 16).foldl portOverrun s1))
      else .next s1

/-! ### The run of a restarted MGS -/

/-- MGS_RESTART_RUN (Table 16-10 steps 4 and 5, R839, R840): the boot ROM selects an image and MGS reaches RUN, drains the FIFO and reinitialises the
regulators that wait for it (R153). -/
def execMgsRestartRun (sigA sigB : Bool) (s : State) : Res :=
  if mstate s ≠ 2 then .next s
  else
    let r := bootSelect sigA sigB false s
    let s1 := mgsRuns r.1 r.2
    .next ((List.range 64).foldl (fun t j => if (islOf j t).reinit && !(islOf j t).cut then islRecover j t else t) s1)

end Sys2Proof.Machine
end

