-- ==== Sys2Proof/Machine/E2eRows.lean ====
section
/-! DEFINITION. Family: end-to-end transactions (R655-R664, R666, R673): requests at their target, responses and timers at their source. -/
namespace Sys2Proof.Machine

/-! ### Target -/

/-- Fields of a request (Table 12-10). -/
def Pkt.tag (k : Pkt) : Nat := k.e0 % 2 ^ 14
def Pkt.epoch (k : Pkt) : Nat := bitsOf k.e0 21 14
def Pkt.use (k : Pkt) : Nat := bitsOf k.e0 29 22
def Pkt.op (k : Pkt) : Nat := bitsOf k.e0 33 30
def Pkt.resp (k : Pkt) : Bool := bitOf k.e0 34
def Pkt.addr (k : Pkt) : Nat := k.e1 % 2 ^ 46
def Pkt.rlen (k : Pkt) : Nat := bitsOf k.e1 57 46
def Pkt.aop (k : Pkt) : Nat := bitsOf k.e1 61 58

/-- A request breaks R673. -/
def Pkt.badReq (k : Pkt) : Bool :=
  let n := k.payload.1.length
  match k.op with
  | 0 => k.rlen == 0 || decide (k.rlen > 2048) || n != 0
  | 1 => n == 0 || decide (n > 2048)
  | 2 => decide (n < 16) || n % 8 != 0
      || (let l := leNat ((k.payload.1).take 2); decide (l < 9) || decide (l > 4104) || n != (l + 7) / 8 * 8)
  | 3 => k.addr % 8 != 0 || decide (k.aop ≥ 3) || n != (if k.aop = 2 then 16 else 8)
  | _ => true

/-- The device serves a peer access of `len` bytes at a local address (R492). -/
def peerOk (a len : Nat) (rd wr : Bool) (s : State) : Bool :=
  let n := a / 2 ^ 39 % 128
  lifeAt (statOf (herdP n)) s != 0 && lifeAt (statOf (herdP n)) s != 5 && decide (a % 2 ^ 39 + len ≤ herdC n s)
    && (!rd || herdF n XLAT_CFG_EXP_R s == 1) && (!wr || herdF n XLAT_CFG_EXP_W s == 1)

/-- Send a response to a request. -/
def answer (k : Pkt) (st : Nat) (data : List Byte) (bad : List Nat) (s : State) : State :=
  sendPkt (respPkt k.src k.e0 k.e1 st data bad s) s

/-- Status of a bead access as a response (R666, Table 12-11). -/
def beadOutcome (st : Nat) : Nat := if st = 0 then 0 else if st = 4 then 5 else 0x0A

/-- READ and WRITE execute at each arrival (R664). -/
def serveRead (k : Pkt) (s : State) : State :=
  let n := k.addr / 2 ^ 39
  if !peerOk k.addr k.rlen true false s then answer k 4 [] [] s
  else
    let r := hbaReadAll n (k.addr % 2 ^ 39) k.rlen s
    let o := beadOutcome r.1
    if o = 0x0A then answer k o [] [] r.2.2.2 else answer k o r.2.1 r.2.2.1 r.2.2.2

def serveWrite (k : Pkt) (s : State) : State :=
  let d := k.payload
  if !peerOk k.addr d.1.length false true s then answer k 4 [] [] s
  else
    let r := hbaWriteAll (k.addr / 2 ^ 39) (k.addr % 2 ^ 39) d.1 d.2 s
    answer k (if beadOutcome r.1 = 0x0A then 0x0A else 0) [] [] r.2

/-- The new value of an ATOMIC's 8 bytes (Table 12-10 AOP). -/
def atomicNew (aop old a b : Nat) : Nat :=
  match aop with
  | 0 => (old + a) % 2 ^ 64
  | 1 => a
  | _ => if old = a then b else old

/-- ATOMIC: one sector update at the home controller (R666). -/
def serveAtomic (k : Pkt) (s : State) : State :=
  let n := k.addr / 2 ^ 39
  let h := k.addr % 2 ^ 39
  if !peerOk k.addr 8 true true s then dupDone k.src k.tag 4 [] s
  else
    let r := hbaReadAll n h 8 s
    if beadOutcome r.1 = 0x0A then dupDone k.src k.tag 0x0A [] r.2.2.2
    else
      let new := atomicNew k.aop (leNat r.2.1) (leNat (k.payload.1.take 8)) (leNat (k.payload.1.drop 8))
      let bad := if k.payload.2.isEmpty then [] else List.range 8
      let w := hbaWriteAll n h (leBytes 8 new) bad r.2.2.2
      dupDone k.src k.tag (if beadOutcome w.1 = 0x0A then 0x0A else beadOutcome r.1) r.2.1 w.2

/-- MSG: the hub acts as the producer of the item (R666). -/
def serveMsg (k : Pkt) (s : State) : State :=
  let rod := k.addr % 1024
  let ch := bitsOf k.addr 20 16
  let ok := !rodAbsent rod s && (match herdOfRod rod s with
    | some n => herdF n XLAT_CFG_EXP_W s == 1
    | none => false)
  if !ok then dupDone k.src k.tag 4 [] s
  else
    let d := k.payload
    let h := leNat (d.1.take 8)
    let len := h % 65536 - 8
    let hdr := bitsOf h 25 16 * 2 ^ 16 + 2 ^ 26 + k.src * 2 ^ 32
    let bad := (d.2.filter (fun o => decide (o ≥ 8))).map (fun o => o - 8)
    { s with
      hubItems := s.hubItems ++ [⟨s.hubNext, rod, ch, hdr, (d.1.drop 8).take len, bad, 0, 0, some (k.src, k.tag), none, s.now⟩]
      hubNext := s.hubNext + 1 }

/-- A READ, WRITE or ATOMIC request's access waits at a home controller (R135, R362, R398): the request waits with it. -/
def servedLater (k : Pkt) (s : State) : Bool :=
  let len := match k.op with | 0 => k.rlen | 1 => k.payload.1.length | _ => 8
  let again := k.op ≥ 2 && s.e2e.dups.any (fun d => d.src == k.src && d.tag == k.tag && d.epoch == k.epoch && d.use == k.use)
  k.op != 2 && !again && !k.badReq && s.fatal.isEmpty && peerOk k.addr len (k.op != 1) (k.op != 0) s
    && hbaHeld (k.addr / 2 ^ 39) (k.addr % 2 ^ 39) len (k.op != 0) s

/-- Execute a request that has its duplicate entry. -/
def serveOnce (k : Pkt) (s : State) : State :=
  if k.badReq then dupDone k.src k.tag 0x0B [] s
  else if k.op = 2 then serveMsg k s else serveAtomic k s

/-- A new duplicate entry for a request. -/
def Pkt.entry (k : Pkt) (s : State) : Dup := ⟨k.src, k.tag, k.epoch, k.use, k.op, k.cls, k.e1, s.now, none, false⟩

/-- A request is stale (R661). -/
def stale (s : State) : State := raise (e2eP 0) 18 (bump (e2eP 0) E2E_STALE_COUNT 1 s)

/-- A request that is not idempotent, by the duplicate table (R661). The delivery of an item whose entry is replaced runs on, its outcome for nobody. -/
def serveDup (k : Pkt) (s : State) : State :=
  let put (l : List Dup) : State := showDups { s with e2e := { s.e2e with dups := l ++ [k.entry s] } }
  match s.e2e.dups.find? (fun d => d.src == k.src && d.tag == k.tag) with
  | none =>
    if s.e2e.dups.length ≥ 32768 then
      answer k 2 [] [] (raise (e2eP 0) 17 (recordCE (e2eP 0) 0x2302 0 0 (bump (e2eP 0) E2E_BUSY_COUNT 1 s)))
    else serveOnce k (put s.e2e.dups)
  | some d =>
    if d.epoch = k.epoch ∧ d.use = k.use then
      match d.done with
      | none => s
      | some o => answer k o.1 o.2 (outcomeBad o.1 o.2) (bump (e2eP 0) E2E_DUPHIT_COUNT 1 s)
    else
      let ahead := if d.epoch = k.epoch then (k.use + 256 - d.use) % 256 else (k.epoch + 256 - d.epoch) % 256
      if 1 ≤ ahead ∧ ahead ≤ 127 then
        let t := put (s.e2e.dups.erase d)
        serveOnce k { t with hubItems := t.hubItems.map (fun h => if h.dup = some (d.src, d.tag) then { h with dup := none } else h) }
      else stale s

/-- The oldest packet that has arrived, request or response. -/
def firstArrived (resp : Bool) (s : State) : Option Pkt := s.e2e.arrived.find? (fun k => k.resp == resp)

/-- Take it away. -/
def takeArrived (k : Pkt) (s : State) : State := { s with e2e := { s.e2e with arrived := s.e2e.arrived.erase k } }

/-- E2E_REQUEST (R661, R664, R666, R673): the oldest request that has arrived is executed, absorbed, answered from its record, or
discarded. -/
def execE2eRequest (s : State) : Res :=
  match firstArrived false s with
  | none => .next s
  | some k =>
    let s1 := takeArrived k s
    if servedLater k s then .next s
    else if ¬ s.fatal.isEmpty then .next (answer k 4 [] [] s1)
    else if k.op ≥ 2 then .next (serveDup k s1)
    else if k.badReq then .next (answer k 0x0B [] [] s1)
    else .next (if k.op = 0 then serveRead k s1 else serveWrite k s1)

/-- E2E_PENDING_TIMER (R659): an operation without an outcome 1 ms after its arrival, or its last PENDING, sends PENDING. -/
def execE2ePendingTimer (src tag : Nat) (s : State) : Res :=
  match s.e2e.dups.find? (fun d => d.src == src && d.tag == tag) with
  | none => .next s
  | some d =>
    if d.done.isSome then .next s
    else
      let s := waitTill (d.time + 1000000) s
      let s1 := { s with e2e := { s.e2e with dups := s.e2e.dups.map (fun x => if x == d then { x with time := s.now } else x) } }
      .next (sendPkt (respPkt src (d.tag + d.epoch * 2 ^ 14 + d.use * 2 ^ 22 + d.op * 2 ^ 30) d.w1 1 [] [] s1) s1)

/-- DUP_ENTRY_EXPIRY (R662): a done entry goes 64 ms after its outcome. -/
def execDupEntryExpiry (src tag : Nat) (s : State) : Res :=
  match s.e2e.dups.find? (fun d => d.src == src && d.tag == tag && d.done.isSome) with
  | none => .next s
  | some d =>
    let s1 := waitTill (d.time + 64000000) s
    .next (showDups { s1 with e2e := { s1.e2e with dups := s1.e2e.dups.filter (fun x => x != d) } })

/-! ### Source -/

/-- The live transaction that a response answers (R660). -/
def liveOf (k : Pkt) (s : State) : Option Txn :=
  s.e2e.live.find? (fun t => t.tag == k.tag && t.use % 256 == k.use && k.epoch == nodeEpoch s)

/-- Change a live transaction. -/
def updTxn (tag : Nat) (f : Txn → Txn) (s : State) : State :=
  { s with e2e := { s.e2e with live := s.e2e.live.map (fun t => if t.tag == tag then f t else t) } }

/-- E2E_RESPONSE (R659, R660): the oldest response that has arrived completes its transaction, marks it pending, or is discarded as stale. -/
def execE2eResponse (s : State) : Res :=
  match firstArrived true s with
  | none => .next s
  | some k =>
    let s1 := takeArrived k s
    match liveOf k s1 with
    | none => .next (stale s1)
    | some t =>
      let st := bitsOf k.e0 45 38
      if st = 1 then .next (updTxn t.tag (fun t => { t with pend := some s.now }) s1)
      else if st = 2 ∨ st = 3 then .next s1
      else .next (txnEnd t (issuerStatus st) k.payload.1 k.payload.2 s1)

/-- A transaction gives up (R658, R660). -/
def giveUp (t : Txn) (s : State) : State :=
  txnEnd t 7 [] [] (raise (e2eP 0) 16 (recordCE (e2eP 0) 0x2301 0 0 (bump (e2eP 0) E2E_GIVEUP_COUNT 1 s)))

/-- E2E_ATTEMPT_TIMER (R658): the next attempt of an unanswered transaction at 4 ms steps, and its give-up at 48 ms. -/
def execE2eAttemptTimer (tag : Nat) (s : State) : Res :=
  match s.e2e.live.find? (fun t => t.tag == tag) with
  | none => .next s
  | some t =>
    if t.pend.isSome then .next s
    else if t.sent < 8 then
      .next (updTxn tag (fun t => { t with sent := t.sent + 1 })
        (sendAttempt t (bump (e2eP 0) E2E_RETRY_COUNT 1 (waitTill (t.start + 4000000 * t.sent) s))))
    else .next (giveUp t (waitTill (t.start + 48000000) s))

/-- E2E_PENDING_GIVEUP (R659): 4 ms have passed since the last PENDING with no outcome. -/
def execE2ePendingGiveup (tag : Nat) (s : State) : Res :=
  match s.e2e.live.find? (fun t => t.tag == tag) with
  | none => .next s
  | some t =>
    match t.pend with
    | some p => .next (giveUp t (waitTill (p + 4000000) s))
    | none => .next s

/-- QUIET_END (R663): 17 ms after a reset or leave, requests may be sent again. -/
def execQuietEnd (s : State) : Res :=
  .next (if flag (e2eP 0) E2E_STAT_QUIET s then
    e2ePump (raise (e2eP 0) 20 (setF (e2eP 0) E2E_STAT_QUIET 0 (waitTill (s.e2e.since + 17000000) s))) else s)

end Sys2Proof.Machine
end

