-- ==== Sys2Proof/Machine/Mctp.lean ====
section
/-! DEFINITION. Family: MCTP, PLDM, SPDM and the I3C port (R814-R819, R970, R975). The spec names the messages of the DMTF standards but not
their encodings: a command carries the message's fields, and a reply in State.out (`Out.mctp port bytes`) its content, completion code first
(0 done, 1 an error, 2 busy). Port 1 is PCIe VDM, port 2 I3C. -/
namespace Sys2Proof.Machine

/-- A reply. -/
def reply (port : Nat) (b : List Byte) (s : State) : State := emit (.mctp port b) s

/-- A reply that carries numbers of given widths. -/
def mctpAnswer (port : Nat) (l : List (Nat × Nat)) (s : State) : State := reply port (l.flatMap (fun e => leBytes e.1 e.2)) s

/-- A responder that runs only with MGS firmware in RUN; in recovery PLDM Type 5 alone answers (R840). -/
def inRun (port : Nat) (k : State → State) (s : State) : Res :=
  .next (if mstate s == 1 && (port == 1 || port == 2) then k s else s)
def inRunOrRecovery (port : Nat) (k : State → State) (s : State) : Res :=
  .next (if mgsServes s && (port == 1 || port == 2) then k s else s)

/-- MCTP_MESSAGE (R814): a message of type 0x7E with the device's Vendor ID carries a mailbox request; the other supported types reach the
responder whose command it is. -/
def execMctpMessage (port type vendor op tag len : Nat) (data : List Byte) (s : State) : Res :=
  .next (if type = 0x7E ∧ vendor = Config.vendorId.toNat ∧ (port = 1 ∨ port = 2) then
    setMgs { s.mgs with queue := s.mgs.queue ++ [⟨127 + port, op % 256, tag % 256, len % 4096, data.take (len % 4096)⟩] } s
  else s)

/-! ### MCTP control (type 0x00) -/

/-- Set Endpoint ID. -/
def execSetEndpointId (port eid : Nat) (s : State) : Res :=
  inRun port (fun s => mctpAnswer port [(1, 0), (1, eid % 256)] (setMgs { s.mgs with eid := alSet s.mgs.eid port (eid % 256) } s)) s

/-- Get Endpoint ID. -/
def execGetEndpointId (port : Nat) (s : State) : Res :=
  inRun port (fun s => mctpAnswer port [(1, 0), (1, alGetD s.mgs.eid port 0)] s) s

/-- Get MCTP Version Support: 1.3. -/
def execGetMctpVersionSupport (port : Nat) (s : State) : Res := inRun port (mctpAnswer port [(1, 0), (1, 1), (1, 3)]) s

/-- Get Message Type Support. -/
def execGetMessageTypeSupport (port : Nat) (s : State) : Res :=
  inRun port (mctpAnswer port [(1, 0), (1, 4), (1, 0x00), (1, 0x01), (1, 0x05), (1, 0x7E)]) s

/-! ### PLDM type 0 -/

/-- GetTID. -/
def execGettid (port : Nat) (s : State) : Res := inRun port (fun s => mctpAnswer port [(1, 0), (1, s.mgs.tid)] s) s

/-- GetPLDMVersion: the spec gives no version of a supported type. -/
def execGetpldmversion (port type : Nat) (s : State) : Res :=
  inRun port (fun s =>
    if type = 0 ∨ type = 2 ∨ type = 5 then let f := takeFree s; mctpAnswer port [(1, 0), (4, f.1)] f.2 else mctpAnswer port [(1, 1)] s) s

/-- GetPLDMTypes: 0, 2 and 5. -/
def execGetpldmtypes (port : Nat) (s : State) : Res := inRun port (mctpAnswer port [(1, 0), (1, 0), (1, 2), (1, 5)]) s

/-- Commands of a PLDM type (R816), by their codes in the DMTF standards (PRESUMED). -/
def pldmCommands (type : Nat) : List Nat :=
  match type with
  | 0 => [0x02, 0x03, 0x04, 0x05]
  | 2 => [0x04, 0x0B, 0x11, 0x21, 0x31, 0x32, 0x50, 0x51]
  | 5 => [0x01, 0x02, 0x10, 0x13, 0x14, 0x15, 0x16, 0x17, 0x18, 0x1A, 0x1B, 0x1D]
  | _ => []

/-- GetPLDMCommands. -/
def execGetpldmcommands (port type : Nat) (s : State) : Res :=
  inRun port (mctpAnswer port (if (pldmCommands type).isEmpty then [(1, 1)] else (1, 0) :: (pldmCommands type).map (fun c => (1, c)))) s

/-! ### PLDM type 2 (R817) -/

/-- The PDR repository: numeric sensors 0-33 (highest logic and memory temperature of each frame, hub sensors, package power, cap in force),
state sensors 34-36 (tier, LOG_LOST, outcome) and the numeric effecter 37 (cap). -/
def pdrCount : Nat := 38

/-- GetPDRRepositoryInfo. -/
def execGetpdrrepositoryinfo (port : Nat) (s : State) : Res := inRun port (mctpAnswer port [(1, 0), (4, pdrCount)]) s

/-- GetPDR: kind (0 numeric sensor, 1 state sensor, 2 numeric effecter) and identity of record `handle`. -/
def execGetpdr (port handle : Nat) (s : State) : Res :=
  inRun port (mctpAnswer port (if handle ≥ pdrCount then [(1, 1)]
    else [(1, 0), (4, handle), (1, if handle < 34 then 0 else if handle < 37 then 1 else 2)])) s

/-- The highest valid reading among sensors, as signed sixteenths. -/
def highest (ids : List Nat) (s : State) : Option Int :=
  ids.foldl (fun m i =>
    let w := sensorWord i s
    if !bitOf w 31 then m
    else
      let v := signed 20 w
      match m with | some x => some (max x v) | none => some v) none

/-- Rod logic and memory-layer sensors of frame f. -/
def frameLogic (f : Nat) : List Nat := (List.range 1024).filter (fun i => rodFrame i == f)
def frameMem (f : Nat) : List Nat := (List.range 128).map (fun k => 0x400 + 128 * f + k)

/-- GetSensorReading: 20 bits of signed sixteenths. -/
def execGetsensorreading (port id : Nat) (s : State) : Res :=
  inRun port (fun s =>
    let v : Option Int :=
      if id < 4 then highest (frameLogic id) s
      else if id < 8 then highest (frameMem (id - 4)) s
      else if id < 32 then highest [0x600 + (id - 8)] s
      else if id = 32 then highest [0x860] s
      else if id = 33 then highest [0x861] s
      else none
    if id ≥ 34 then mctpAnswer port [(1, 1)] s
    else match v with
    | some x => mctpAnswer port [(1, 0), (1, 1), (4, unsigned 32 x)] s
    | none => mctpAnswer port [(1, 0), (1, 0), (4, 0)] s) s

/-- GetStateSensorReadings: tier, LOG_LOST, outcome. -/
def execGetstatesensorreadings (port id : Nat) (s : State) : Res :=
  inRun port (fun s =>
    match id with
    | 34 => mctpAnswer port [(1, 0), (1, tier s)] s
    | 35 => mctpAnswer port [(1, 0), (1, getF (mgsP 0) MB_LOGSTAT_LOST s)] s
    | 36 => mctpAnswer port [(1, 0), (1, outcome s)] s
    | _ => mctpAnswer port [(1, 1)] s) s

/-- SetNumericEffecterValue: a power-cap write (R14, R817, R879). -/
def execSetnumericeffectervalue (port id watts : Nat) (s : State) : Res :=
  inRun port (fun s => if id = 37 then mctpAnswer port [(1, 0)] (capWrite watts s) else mctpAnswer port [(1, 1)] s) s

/-- GetNumericEffecterValue. -/
def execGetnumericeffectervalue (port id : Nat) (s : State) : Res :=
  inRun port (fun s => mctpAnswer port (if id = 37 then [(1, 0), (2, getF (thmP 1) THM_CAP_WATTS s)] else [(1, 1)]) s) s

/-- SetEventReceiver. -/
def execSeteventreceiver (port eid : Nat) (s : State) : Res :=
  inRun port (fun s => mctpAnswer port [(1, 0)] (setMgs { s.mgs with evtRecv := some (eid % 256) } s)) s

/-- PollForPlatformEventMessage (R970): the oldest waiting event; with the last one ALERT_N goes high. -/
def execPollforplatformeventmessage (port : Nat) (s : State) : Res :=
  inRun port (fun s =>
    match s.mgs.events with
    | [] => mctpAnswer port [(1, 0), (1, 0)] s
    | e :: r => mctpAnswer port [(1, 0), (1, e.1), (4, e.2)] (setMgs { s.mgs with events := r } s)) s

/-! ### PLDM type 5 (R818, R836) -/

/-- The PLDM update session, which the agent of this port opened. -/
def pldmSession (port : Nat) (s : State) : Option Session := s.mgs.session.filter (fun x => x.pldm && x.agent == 127 + port)

/-- QueryDeviceIdentifiers: the PCI Vendor ID. -/
def execQuerydeviceidentifiers (port : Nat) (s : State) : Res :=
  inRunOrRecovery port (mctpAnswer port [(1, 0), (2, Config.vendorId.toNat)]) s

/-- GetFirmwareParameters: version of the active image and, when a trial waits, of the pending one. -/
def execGetfirmwareparameters (port : Nat) (s : State) : Res :=
  inRunOrRecovery port (fun s =>
    mctpAnswer port [(1, 0), (2, 1), (4, slotVersion s.mgs.active s), (4, match s.mgs.trial with | some k => slotVersion k s | none => 0)] s) s

/-- RequestUpdate opens the one session, or answers busy (R836). -/
def execRequestupdate (port : Nat) (ok : Bool) (s : State) : Res :=
  inRunOrRecovery port (fun s =>
    if s.mgs.session.isSome then mctpAnswer port [(1, 2)] s
    else if !flashWrites ok s then mctpAnswer port [(1, 1)] s
    else mctpAnswer port [(1, 0)] (fwOpen (127 + port) [] true s).2) s

/-- PassComponentTable: the one component (R818). -/
def execPasscomponenttable (port : Nat) (s : State) : Res :=
  inRunOrRecovery port (fun s =>
    match pldmSession port s with
    | none => mctpAnswer port [(1, 1)] s
    | some x => mctpAnswer port [(1, 0)] (setMgs { s.mgs with session := some { x with last := s.now }, updState := max s.mgs.updState 2 } s)) s

/-- The first image byte that has not arrived. -/
def imageGap (x : Session) (size : Nat) : Option Nat :=
  if x.hdr.length < 256 then some x.hdr.length
  else ((List.range (size - 256)).find? (fun o => (alGet x.written o).isNone)).map (fun o => 256 + o)

/-- UpdateComponent: the transfer of an image of `size` bytes starts with the device's first RequestFirmwareData. -/
def execUpdatecomponent (port size : Nat) (s : State) : Res :=
  inRunOrRecovery port (fun s =>
    match pldmSession port s with
    | none => mctpAnswer port [(1, 1)] s
    | some x =>
      let y := { x with transferring := some size, hdr := [], written := [], verified := false, last := s.now }
      mctpAnswer port [(1, 0x15), (4, 0)] (mctpAnswer port [(1, 0)] (setMgs { s.mgs with session := some y, updState := 3 } s))) s

/-- The session after image bytes from offset `off` on: the header's 256 first. -/
def imageTaken (x : Session) (size off : Nat) (data : List Byte) (now : Nat) : Session :=
  let d := data.take (size - off)
  let h := d.take (256 - x.hdr.length)
  { x with hdr := x.hdr ++ h, written := putBody (off + h.length - 256) (d.drop h.length) x.written, last := now }

/-- A whole image passes the checks of FW_BEGIN and FW_VERIFY; `sig`: its header's signature is good. -/
def imageGood (y : Session) (size : Nat) (sig : Bool) (s : State) : Bool :=
  size == 256 + hdrNum y.hdr 16 4 && hdrOk y.hdr && sig && decide (s.mgs.otpSvn ≤ hdrNum y.hdr 12 1) && bodyOk y.hdr y.written

/-- The image has arrived: TransferComplete, and VerifyComplete and ApplyComplete when it is good. -/
def imageEnd (port : Nat) (y : Session) (size : Nat) (sig : Bool) (s : State) : State :=
  let s2 := mctpAnswer port [(1, 0x16), (1, 0)] s
  if imageGood y size sig s then
    let s3 := fwVerified { y with transferring := none } s2
    mctpAnswer port [(1, 0x18), (1, 0)] (mctpAnswer port [(1, 0x17), (1, 0)] (setMgs { s3.mgs with updState := 2 } s3))
  else mctpAnswer port [(1, 0x17), (1, 1)] (setMgs { s2.mgs with session := some { y with transferring := none }, updState := 2 } s2)

/-- The update agent's answer to RequestFirmwareData: image bytes go into the inactive slot; with the last of them the device checks the image
as FW_BEGIN and FW_VERIFY do and reports TransferComplete, VerifyComplete and ApplyComplete. -/
def execRequestfirmwaredataResponse (port off : Nat) (data : List Byte) (sig ok : Bool) (s : State) : Res :=
  inRunOrRecovery port (fun s =>
    match pldmSession port s with
    | none => s
    | some x =>
      match x.transferring with
      | none => s
      | some size =>
        if imageGap x size ≠ some off then s
        else if !flashWrites ok s then
          if s.mgs.noFlash then mctpAnswer port [(1, 0x16), (1, 1)] s else mctpAnswer port [(1, 0x16), (1, 1)] (sessionDrop s)
        else
          let y := imageTaken x size off data s.now
          let s1 := setMgs { s.mgs with session := some y } s
          match imageGap y size with
          | some o => mctpAnswer port [(1, 0x15), (4, o)] s1
          | none => imageEnd port y size sig s1) s

/-- ActivateFirmware (R818): now, or at the next cold reset. -/
def execActivatefirmware (port : Nat) (self ok : Bool) (s : State) : Res :=
  inRunOrRecovery port (fun s =>
    match pldmSession port s with
    | none => mctpAnswer port [(1, 1)] s
    | some x =>
      if !x.verified || !flashWrites ok s then mctpAnswer port [(1, 1)] s
      else fwActivate x.slot (b2n self) (mctpAnswer port [(1, 0)] s)) s

/-- GetStatus: the update state. -/
def execGetstatus (port : Nat) (s : State) : Res := inRunOrRecovery port (fun s => mctpAnswer port [(1, 0), (1, s.mgs.updState)] s) s

/-- CancelUpdate abandons the session. -/
def execCancelupdate (port : Nat) (s : State) : Res :=
  inRunOrRecovery port (fun s =>
    match pldmSession port s with
    | none => mctpAnswer port [(1, 1)] s
    | some _ => mctpAnswer port [(1, 0)] (sessionDrop s)) s

/-! ### SPDM (R819) -/

/-- 48 bytes whose value the spec leaves open. -/
def free48 (s : State) : List Byte × State :=
  (List.range 6).foldl (fun a _ => let f := takeFree a.2; (a.1 ++ leBytes 8 f.1, f.2)) ([], s)

/-- A measurement block (Table 16-3). The configuration area's bytes are not given, so its digest is open. -/
def measBlock (k : Nat) (s : State) : List Byte × State :=
  let x := slotOf s.mgs.active s
  match k with
  | 1 => ((leBytes 48 Config.romDigest.toNat).reverse, s)
  | 2 => (sha384 (bodyBytes x.body (hdrNum x.hdr 16 4)), s)
  | 3 => ((x.hdr.drop 8).take 4 ++ (x.hdr.drop 12).take 1 ++ leBytes 3 0, s)
  | 4 => ((match s.mgs.licForce with | some l => sha384 l.bytes | none => List.replicate 48 0), s)
  | 5 => free48 s
  | _ => (leBytes 1 s.mgs.otpSvn, s)

/-- GET_MEASUREMENTS: block k of Table 16-3, or all of them for 0xFF; signed with the device identity key, whose signature is open. -/
def execGetMeasurements (port k : Nat) (sign : Bool) (s : State) : Res :=
  inRun port (fun s =>
    let ks := if k = 0xFF then [1, 2, 3, 4, 5, 6] else if 1 ≤ k ∧ k ≤ 6 then [k] else []
    if ks.isEmpty then mctpAnswer port [(1, 1)] s
    else
      let r := ks.foldl (fun a j => let m := measBlock j a.2; (a.1 ++ leBytes 1 j ++ leBytes 1 m.1.length ++ m.1, m.2)) (([] : List Byte), s)
      if sign then
        let a := free48 r.2
        let b := free48 a.2
        reply port (leBytes 1 0 ++ r.1 ++ a.1 ++ b.1) b.2
      else reply port (leBytes 1 0 ++ r.1) r.2) s

/-- Another SPDM request: 0 version, 1 capabilities, 2 algorithms, 3 digests, 4 certificate (slot), 5 challenge (slot); certificates and signatures
are provisioned or keyed, so their bytes are open. -/
def execSpdmRequest (port code slot : Nat) (s : State) : Res :=
  inRun port (fun s =>
    match code with
    | 0 => mctpAnswer port [(1, 0), (1, 0x11), (1, 0x12)] s
    | 1 => mctpAnswer port [(1, 0), (1, 7)] s
    | 2 => mctpAnswer port [(1, 0), (1, 1), (1, 1)] s
    | 3 => let f := free48 s; reply port (leBytes 1 0 ++ leBytes 1 1 ++ f.1) f.2
    | 4 | 5 => if slot = 0 then let f := free48 s; reply port (leBytes 1 0 ++ f.1) f.2 else mctpAnswer port [(1, 1)] s
    | _ => mctpAnswer port [(1, 1)] s) s

/-! ### The I3C port (R975, R970) -/

/-- A controller assigns a dynamic address: I3C mode; ALERT_N goes high and events go by in-band interrupt. -/
def execI3cDynamicAddress (addr : Nat) (s : State) : Res := .next (setMgs { s.mgs with i3c := some (addr % 128) } s)

/-- RSTDAA: back to I2C mode. -/
def execRstdaa (s : State) : Res := .next (setMgs { s.mgs with i3c := none } s)

end Sys2Proof.Machine
end

