-- ==== Sys2Proof/Machine/Package.lean ====
section
/-! DEFINITION. Family: package balls and rails (chapter 21). -/
namespace Sys2Proof.Machine

/-- Nominal voltages of the eight rails in mV, their tolerance in percent and their reset thresholds in mV (Table 21-6). -/
def railNominal (k : Nat) : Nat := match k with | 0 | 6 | 7 => 1800 | 1 | 2 => 750 | 3 => 900 | 4 => 800 | _ => 1050
def railTol (k : Nat) : Nat := match k with | 0 | 1 | 5 => 3 | 2 | 3 | 4 => 2 | _ => 5
def railReset (k : Nat) : Nat := match k with | 0 | 6 | 7 => 1530 | 1 | 2 => 640 | 3 => 770 | 4 => 680 | _ => 890

/-- PWR_WARN_FALL (R981, R994, Table 21-8 step 2): no flash write but tally records starts; during an orderly shutdown the log step waits for step 5. -/
def execPwrWarnFall (s : State) : Res :=
  if s.boot.pwrWarn then .next s
  else
    let s1 := setMgs { s.mgs with noFlash := true } (setBoot { s.boot with pwrWarn := true } s)
    if s.boot.cold then .next s1
    else if s.thm.shut = 1 then .next (setBoot { s1.boot with warnDue := true } s1)
    else .next (pwrWarnLog s1)

/-- PWR_WARN_RISE (R992): flash writes may start again; a log step that waits for an orderly shutdown is still due. -/
def execPwrWarnRise (s : State) : Res :=
  .next (setMgs { s.mgs with noFlash := false } (setBoot { s.boot with pwrWarn := false } s))

/-- RAIL_OOT (R990, R999): rail k is measured at mv; leaving its tolerance sets OOT, and NOW follows it either way. -/
def execRailOot (k mv : Nat) (s : State) : Res :=
  let k := k % 8
  let d := if mv < railNominal k then railNominal k - mv else mv - railNominal k
  let out := decide (100 * d > railTol k * railNominal k)
  let was := s.boot.railNow.contains k
  let s1 := setBoot { s.boot with railNow := if out then nsInsert s.boot.railNow k else nsErase s.boot.railNow k } s
  if out && !was && !s.boot.cold then .next (raise glbP 22 (setF glbP ⟨0x0CC, k, k⟩ 1 s1)) else .next s1

/-- RAIL_OVERVOLTAGE (R991): rail k has been at mv, above 110 % of nominal, for 2 µs. -/
def execRailOvervoltage (k mv : Nat) (s : State) : Res :=
  let k := k % 8
  if 100 * mv > 110 * railNominal k then .next (railCold k s) else .next s

/-- RLCLK_LOSS (R971): clock c is lost, and the ports that it feeds lose lock on every lane. -/
def execRlclkLoss (c : Nat) (s : State) : Res :=
  .next ((List.range 8).foldl (fun t p => rlLoseLock (8 * (c % 2) + p) t) s)

end Sys2Proof.Machine
end

