-- ==== Sys2Proof/Machine/Tap.lean ====
section
/-! DEFINITION. Family: test access (chapter 22): the package TAP, its boundary register, the die chain and its instruments. Operands carry what the
balls and dies show: the levels that boundary cells capture, bits shifted in, the dies that answer. -/
namespace Sys2Proof.Machine

/-- Store the TAP. -/
def setTap (x : Tap) (s : State) : State := { s with tap := x }

/-- The TAP answers: rails 1-7 are within tolerance (R1018). -/
def tapUp (s : State) : Bool := s.boot.railNow.all (fun k => k == 0) && s.boot.railsBad.all (fun k => k == 0)

/-- Test mode: the sampled STRAP_TEST (R1008). -/
def testMode (s : State) : Bool := flag glbP GLB_STRAP_TEST s

/-- Bits of a number, least significant first. -/
def lsbFirst (n w : Nat) : List Bool := (List.range w).map (fun i => bitOf n i)

/-- Included dies, the one nearest TDO first (R1000-R1002). -/
def chain (s : State) : List Nat := ((List.range 37).filter (fun d => bitOf s.tap.ccr d)).reverse

/-- A package register of w bits shifts out behind one bypass bit of each other included die (R1002). -/
def shiftOut (n w : Nat) (s : State) : State :=
  emit (.tdo (((chain s).filter (fun d => d != 0)).map (fun _ => false) ++ lsbFirst n w)) s

/-- Bypass: one bit for each included die. -/
def shiftBypass (s : State) : State := emit (.tdo ((chain s).map (fun _ => false))) s

/-- An instruction is loaded; `ic` included dies capture their wrapper pattern at Update-IR (R1017). Unless it drives the balls they return to their
function. -/
def loadIr (code ic drive : Nat) (s : State) : State :=
  setTap { s.tap with ir := code, icount := min ic (chain s).length, drive := drive } s

/-- An intrusive instruction or instrument is refused (R1009). -/
def refuse (code : Nat) (s : State) : State :=
  raise glbP 23 (setF glbP GLB_TEST_LAST_REFUSED code (setTap { s.tap with refused := true } s))

/-- An intrusive instruction: in test mode its effect, else it loads and acts as BYPASS (R1009). -/
def intrusive (code ic drive : Nat) (k : State → State) (s : State) : State :=
  if !tapUp s then s
  else if testMode s then k (loadIr code ic drive s)
  else shiftBypass (refuse code (loadIr code ic 0 s))

/-- The boundary register captures `pins`, shifts out and takes `din` (R1003, R1005). -/
def boundary (pins din : Nat) (s : State) : State := setTap { s.tap with cells := din % 2 ^ 214 } (shiftOut (pins % 2 ^ 214) 214 s)

/-- EXTEST. -/
def execExtest (ic pins din : Nat) (s : State) : Res := .next (intrusive 0x00 ic 1 (boundary pins din) s)

/-- EXTEST_PULSE (R1006). -/
def execExtestPulse (ic pins din : Nat) (s : State) : Res := .next (intrusive 0x03 ic 3 (boundary pins din) s)

/-- EXTEST_TRAIN (R1006). -/
def execExtestTrain (ic pins din : Nat) (s : State) : Res := .next (intrusive 0x04 ic 4 (boundary pins din) s)

/-- CLAMP: the balls hold the latches. -/
def execClamp (ic : Nat) (s : State) : Res := .next (intrusive 0x05 ic 1 shiftBypass s)

/-- HIGHZ: the outputs float. -/
def execHighz (ic : Nat) (s : State) : Res := .next (intrusive 0x06 ic 2 shiftBypass s)

/-- SAMPLE/PRELOAD. -/
def execSamplePreload (ic pins din : Nat) (s : State) : Res :=
  .next (if tapUp s then boundary pins din (loadIr 0x02 ic 0 s) else s)

/-- The IDCODE of die d (R1004). -/
def dieId (d : Nat) : Nat :=
  let kind := if d = 0 then 1 else if (d - 1) % 9 = 0 then 2 else 3
  0x10000000 + kind * 0x100000 + d * 0x1000 + 0x5A3 * 2 + 1

/-- IDCODE (R1004). -/
def execIdcode (ic : Nat) (s : State) : Res :=
  .next (if tapUp s then (let s1 := loadIr 0x01 ic 0 s; emit (.tdo ((chain s1).flatMap (fun d => lsbFirst (dieId d) 32))) s1) else s)

/-- A CCR as it is stored (R1001, R1012), and whether a logic die was added. -/
def ccrFix (v : Nat) : Nat × Bool :=
  let v := v % 2 ^ 37
  let need := (List.range 4).filter (fun f => !bitOf v (1 + 9 * f) && decide (bitsOf v (9 + 9 * f) (2 + 9 * f) ≠ 0))
  let w := need.foldl (fun a f => a + 2 ^ (1 + 9 * f)) v
  (if w = 0 then 1 else w, !need.isEmpty)

/-- CCR_ACCESS (R1001). -/
def execCcrAccess (ic din : Nat) (s : State) : Res :=
  .next (if tapUp s then
    (let s1 := shiftOut s.tap.ccr 37 (loadIr 0x10 ic 0 s)
     let c := ccrFix din
     setTap { s1.tap with ccr := c.1, fixed := s1.tap.fixed || c.2 } s1) else s)

/-- DIE_ACCESS (R1007): wrapper instructions of dies (0 BYPASS, 1 IDCODE, 2 INTEST, 3 EXTEST, 4 INSTR) and the bits that the wrappers capture. -/
def execDieAccess (ic : Nat) (ins : List (Nat × Nat)) (cap : List Bool) (s : State) : Res :=
  .next (intrusive 0x11 ic 0 (fun t =>
    let w := (ins.filter (fun e => (chain t).contains e.1)).foldl (fun m e => alPut 0 m e.1 (e.2 % 5)) t.tap.wirs
    emit (.tdo cap) (setTap { t.tap with wirs := w } t)) s)

/-- IJTAG (R1008, R1009, R1011): an instrument of die d: 0 sensors or voltage, 1 rod sensor and pace monitor, 2 layer sensors, which observe and answer
`raw`; any other only in test mode, by its own row. -/
def execIjtag (ic d what raw : Nat) (s : State) : Res :=
  if !tapUp s then .next s
  else
    let s1 := loadIr 0x12 ic 0 s
    if !(chain s1).contains d then .next s1
    else if what < 3 then .next (emit (.tdo (lsbFirst raw 32)) s1)
    else if testMode s then .next s1
    else .next (refuse 0x12 s1)

/-- TEST_STAT as it reads now (Table 22-4). -/
def testStat (s : State) : Nat :=
  let t := s.tap
  t.icount * 2 ^ 26 + b2n (testMode s) * 2 ^ 25 + getF glbP GLB_TEST_MARGIN_EN s * 2 ^ 24 + getF glbP GLB_TEST_LAST_REFUSED s * 2 ^ 16
    + b2n t.aborted * 4 + b2n t.fixed * 2 + b2n t.refused

/-- TEST_STAT. -/
def execTapTestStat (ic : Nat) (s : State) : Res :=
  .next (if tapUp s then (let s1 := loadIr 0x13 ic 0 s; shiftOut (testStat s1) 32 s1) else s)

/-- A code of Table 22-1 other than BYPASS. -/
def tapKnown (code : Nat) : Bool := decide (code ≤ 6) || (decide (0x10 ≤ code) && decide (code ≤ 0x13))

/-- BYPASS, or a code that names no instruction (R1003). -/
def execTapBypass (ic code : Nat) (s : State) : Res :=
  .next (if tapUp s && !tapKnown (code % 256) then shiftBypass (loadIr (code % 256) ic 0 s) else s)

/-! ### Instruments -/

/-- An instrument of test mode only, through IJTAG on die d (R1008, R1009). -/
def instrument (d : Nat) (k : State → State) (s : State) : State :=
  if !tapUp s || !(chain s).contains d then s
  else if testMode s then k s
  else refuse 0x12 s

/-- ISLAND_PWR (R1008): island j goes to 0.80 V, under the slew of R121, or to 0 V. -/
def execIslandPwr (j : Nat) (on : Bool) (s : State) : Res :=
  if j ≥ 64 then .next s
  else .next (instrument 0 (fun t => if (islOf j t).cut then t else if on then islBoot j t else islOff j t) s)

/-- Physical rod p has its island powered and settled. -/
def physPowered (p : Nat) (s : State) : Bool :=
  let j := 16 * (p / 272) + p % 272 / 17 / 4 * 4 + min 3 (p % 17 / 4)
  (islOf j s).booted && !(islOf j s).unsettled && !(islOf j s).cut

/-- ROD_LOGIC_BIST: the logic BIST and scratchpad march of physical rod p, which passes or not. -/
def execRodLogicBist (p : Nat) (pass : Bool) (s : State) : Res :=
  if p ≥ 1088 then .next s
  else .next (instrument (1 + 9 * (p / 272)) (fun t => if physPowered p t then emit (.tdo [pass]) t else t) s)

/-- BEAD_ARRAY_MARCH: the march of memory layer m over physical rod p, with its list of failing pages. -/
def execBeadArrayMarch (m p : Nat) (fails : List Nat) (s : State) : Res :=
  if p ≥ 1088 ∨ m ≥ 8 then .next s
  else .next (instrument (2 + 9 * (p / 272) + m) (fun t =>
    if physPowered p t then emit (.tdo (fails.flatMap (fun q => lsbFirst q 16))) t else t) s)

/-- Page of a margined link (kind 0), port (1); a PCIe lane (2) has none that a START could name. -/
def marginPage (kind k : Nat) : Nat := match kind with | 0 => brgP (k % 32) | 1 => rlpP (k % 16) | _ => hifP

/-- The lane's link or port carries. -/
def marginCarries (kind k : Nat) (s : State) : Bool :=
  match kind with
  | 0 => brgCarries (k % 32) s
  | 1 => carries (k % 16) s
  | _ => decide (getF hifP HIF_LINK_RATE s ≠ 0)

/-- LANE_MARGIN (R1009, R1010, R1015): the eye of a lane, `width` and `height`, at the end d of the chain that sees it. On a carrying lane it only reads; on
an OFF or FAULTED link or port it runs where MARGIN_EN or test mode allows it. A ladder step on the lane in the same moment comes first and aborts it. -/
def execLaneMargin (d kind k width height : Nat) (ladder : Bool) (s : State) : Res :=
  if !tapUp s || !(chain s).contains d then .next s
  else
    let p := marginPage kind k
    let st := lifeAt (statOf p) s
    let eye (t : State) : State := emit (.tdo (lsbFirst width 16 ++ lsbFirst height 16)) t
    if ladder then .next (setTap { s.tap with aborted := true } s)
    else if marginCarries kind k s then .next (eye s)
    else if testMode s then .next (eye s)
    else if kind < 2 ∧ (st = 0 ∨ st = 5) ∧ flag glbP GLB_TEST_MARGIN_EN s then
      .next (eye (raise glbP 23 (setF glbP GLB_TEST_ACTIVE 1 { s with margins := nsInsert s.margins p })))
    else .next (refuse 0x12 s)

/-- Margin runs end. -/
def marginEnd (l : List Nat) (s : State) : State := setF glbP GLB_TEST_ACTIVE (b2n (!l.isEmpty)) { s with margins := l }

/-- MARGIN_RUN_END (R1010): the run on a link (kind 0) or port (1) ends, and its START hold with it. -/
def execMarginRunEnd (kind k : Nat) (s : State) : Res := .next (marginEnd (nsErase s.margins (marginPage kind k)) s)

/-- TEST_LOGIC_RESET (R1014). -/
def execTestLogicReset (s : State) : Res :=
  .next (if tapUp s then marginEnd [] (setTap { s.tap with ir := 1, ccr := 1, wirs := [], drive := 0 } s) else s)

end Sys2Proof.Machine
end

