-- ==== Sys2Proof/Machine/Units.lean ====
section
/-! DEFINITION. Starting and completing the commands of a rod's units (R169-R171), whichever unit they are for. -/
namespace Sys2Proof.Machine

/-- UNIT_START (R169): the unit starts the command at the head of its queue; `hs` are host translations that a KV command reads. -/
def execUnitStart (i u : Nat) (hs : List (List (Option Nat))) (s : State) : Res :=
  .next (match u with
    | 1 => startHead i 1 (strmFree i) (strmRun i) s
    | 2 => startHead i 2 (oxFree i) (oxRun i) s
    | 3 => startHead i 3 (gmvFree i) (gmvRun i) s
    | 4 => startHead i 4 (vecFree i) (vecRun i) s
    | 5 => startHead i 5 (msgFree i) (msgRun i) s
    | 6 => startHead i 6 (kvFree i) (kvRun i hs) s
    | 7 => startHead i 7 syncFree (syncRun i) s
    | _ => s)

/-- The earliest moment at which a started command's work ends: a DELAY's IMM[31:0] ns after its start (Table 4-7). -/
def workEnds (c : Started) : Nat :=
  if cwUnit c.cmd.word = 7 ∧ cwOp c.cmd.word = 3 then c.since + cwImm c.cmd.word % 2 ^ 32 else 0

/-- UNIT_COMPLETE (R170, R171): a started command whose work is over signals and writes its result; a FENCE completes once its condition holds (R212), and a
KV command that waited for a translation tries again. -/
def execUnitComplete (i num : Nat) (hs : List (List (Option Nat))) (s : State) : Res :=
  match startedBy i num s with
  | some c =>
    if c.done then .next (completeNum i num (waitTill (workEnds c) s))
    else if fenceReady c (seqOf i s) then .next (completeNum i num (markDone i num 0 ⟨0, false⟩ s))
    else if cwUnit c.cmd.word = 6 then .next (kvRetry i num hs s)
    else .next s
  | none => .next s

end Sys2Proof.Machine
end

