-- ==== Sys2Proof/Machine/Venc.lean ====
section
/-! DEFINITION. The structure of an encoded sequence (chapter 14): picture slots (R738), the motion-search window (R743, R744), picture types and
reordering (R745), gradual intra refresh (R746), the units before a picture's slices and the HRD (R749-R751). How H.265 codes them is an
operand (VEnc). -/
namespace Sys2Proof.Machine

/-! ### Picture slots (R738) -/

/-- Rounded up to a multiple of 64. -/
def up64 (x : Nat) : Nat := (x + 63) / 64 * 64

/-- Bytes of a picture slot. -/
def VSess.slotLen (y : VSess) : Nat := up64 y.width * up64 y.height * 3

/-- Place of a picture slot of the session. -/
def VSess.slotAt (y : VSess) (slot : Nat) : Nat := y.word 4 % 2 ^ 48 + slot % max (bitsOf (y.word 4) 55 48) 1 * y.slotLen

/-- Picture position of byte o of a picture slot: plane (0 luma), and luma column and row of its sample. -/
def slotPos (wa ha o : Nat) : Nat × Nat × Nat :=
  let i := o / 2
  if i < wa * ha then (0, i % wa, i / wa)
  else
    let c := (i - wa * ha) % (wa * ha / 4)
    (1, c % (wa / 2) * 2, c / (wa / 2) * 2)

/-- CTB in raster order that holds byte o of a slot, for CTBs of 2^b luma in a picture of width w; none outside the picture. -/
def slotCtb (y : VSess) (b w h o : Nat) : Option Nat :=
  let p := slotPos (up64 y.width) (up64 y.height) o
  if p.2.1 < w ∧ p.2.2 < h then some (p.2.2 / 2 ^ b * ((w + 2 ^ b - 1) / 2 ^ b) + p.2.1 / 2 ^ b) else none

/-- A sample of a picture in slot layout, plane 0, 1 or 2, in samples of the plane; beyond the picture, the nearest one (R744). -/
def VSess.sample (y : VSess) (pic : List Byte) (plane : Nat) (cx cy : Int) : List Byte :=
  let wa := up64 y.width
  let ha := up64 y.height
  let half := if plane = 0 then 1 else 2
  let off := if plane = 0 then 0 else wa * ha + (plane - 1) * (wa * ha / 4)
  let x := min cx.toNat (y.width / half - 1)
  let r := min cy.toNat (y.height / half - 1)
  let i := 2 * (off + r * (wa / half) + x)
  [(pic[i]?).getD 0, (pic[i + 1]?).getD 0]

/-- A rectangle of luma samples at (x, r), w wide and h high, with its chroma. -/
def VSess.rect (y : VSess) (pic : List Byte) (x r : Int) (w h : Nat) : List Byte :=
  (List.range 3).flatMap (fun p =>
    let half : Nat := if p = 0 then 1 else 2
    (List.range (h / half)).flatMap (fun j => (List.range (w / half)).flatMap (fun i =>
      y.sample pic p (x / half + Int.ofNat i) (r / half + Int.ofNat j))))

/-! ### The motion-search window (R743, R744) -/

/-- Column c of CTBs of the window of CTB row r: 64 x 320 luma with its chroma, 61,440 bytes. -/
def VSess.winCol (y : VSess) (pic : List Byte) (c r : Int) : List Byte := y.rect pic (64 * c) (64 * r - 128) 64 320

/-- At the start of row r the whole window of its first CTB is loaded, and the next column is fetched. -/
def VSess.winLoad (y : VSess) (pic : List Byte) (r : Nat) : VWin :=
  ⟨(List.range 9).map (fun i => y.winCol pic (Int.ofNat i - 4) r), y.winCol pic 5 r⟩

/-- The window moves from CTB column c to the next: the column that leaves is dropped, the prefetched one takes its place, and the next is
fetched. -/
def VSess.winSlide (y : VSess) (pic : List Byte) (r c : Nat) (w : VWin) : VWin :=
  ⟨w.cols.tail ++ [w.pre], y.winCol pic (c + 6) r⟩

/-- The window at CTB column c of row r, after the load of the row and c slides. -/
def VSess.winAt (y : VSess) (pic : List Byte) (r : Nat) : Nat → VWin
  | 0 => y.winLoad pic r
  | c + 1 => y.winSlide pic r c (y.winAt pic r c)

/-- CTB columns of the session's source pictures. -/
def VSess.ctbCols (y : VSess) : Nat := (y.width + 63) / 64
def VSess.ctbRows (y : VSess) : Nat := (y.height + 63) / 64

/-- The window store once the encoder stands at a CTB with these references and source: loads and fetches leave good parity (Table 14-8). -/
def VSess.store (y : VSess) (refs : List (List Byte)) (src : List Byte) (ctb : Nat) : VStore :=
  let c := ctb % max y.ctbCols 1
  let r := ctb / max y.ctbCols 1
  let win (i : Nat) : VWin := match refs[i]? with | some p => y.winAt p r c | none => ⟨[], []⟩
  ⟨some (c, r), win 0, win 1, if bitsOf (y.word 0) 19 18 = 0 then y.rect src (64 * c) (64 * r) 64 64 else [], []⟩

/-- A reference block lies inside the window of its CTB: 256 columns and 128 rows around it (R743, R744). -/
def VSess.inWindow (y : VSess) (v : VVec) : Bool :=
  let x0 : Int := 64 * (v.ctb % max y.ctbCols 1 : Nat)
  let y0 : Int := 64 * (v.ctb / max y.ctbCols 1 : Nat)
  decide (x0 - 256 ≤ v.x) && decide (v.x + v.w ≤ x0 + 320) && decide (y0 - 128 ≤ v.y) && decide (v.y + v.h ≤ y0 + 192)

/-- CTBs whose window holds a byte of a reference that is poisoned (R768). -/
def VSess.winBad (y : VSess) (bad : List Nat) : List Nat :=
  (List.range (y.ctbCols * y.ctbRows)).filter (fun k => bad.any (fun o =>
    let p := slotPos (up64 y.width) (up64 y.height) o
    y.inWindow ⟨k, 0, p.2.1, p.2.2, 1, 1⟩))

/-! ### Picture types and reordering (R745, R746, R764) -/

/-- Whether the encoder codes the session's next picture as IRAP (R745, FORCE_IRAP, R759). -/
def VSess.codesIrap (y : VSess) (j : VJob) : Bool :=
  let gop := y.word 3 % 65536
  y.pics == 0 || y.irap || bitOf (j.body 2) 32 || (y.lmode == 0 && gop != 0 && y.pics % gop == 0)

/-- A type of picture, or the encoder holds or waits. -/
inductive VKind where
  | i
  | p
  | b
  | hold
  | wait
  deriving DecidableEq, Repr

/-- The session's pictures that are held for reordering. -/
def vHeld (v : Nat) (j : VJob) (s : State) : List VJob :=
  (vpOf v s).jobs.filter (fun z => z.sess == j.sess && z.herd == j.herd && z.op == 4 && z.phase == 3)

/-- Pictures submitted to the session: those taken from its queue and those that wait there. -/
def vSubmitted (v : Nat) (y : VSess) (j : VJob) (s : State) : Nat :=
  y.pics + (vpOf v s).jobs.countP (fun z => z.sess == j.sess && z.herd == j.herd && z.op == 4 && (z.phase == 0 || z.phase == 1))

/-- An END_OF_STREAM is the session's next block. -/
def vEnding (v : Nat) (j : VJob) (s : State) : Bool :=
  match (vpOf v s).jobs.find? (fun z => z.sess == j.sess && z.herd == j.herd && z.phase == 0) with | some z => z.op == 5 | none => false

/-- What the encoder does with a running or held picture (R745, R764). In normal GOP mode an anchor is an IRAP or comes after BFRAMES held
pictures, nothing is coded before BFRAMES + 1 pictures are submitted or the stream ends, a held picture is a B picture once its anchor is
coded, and at the end of the stream the last held one is a P picture. In the other modes each picture after the first is P. -/
def encKind (v : Nat) (y : VSess) (j : VJob) (s : State) : VKind :=
  let n := bitsOf (y.word 2) 57 56
  let held := vHeld v j s
  let started := y.anchor.isSome || decide (n < vSubmitted v y j s) || vEnding v j s
  let after (a : Option Nat) (p : Nat) : Bool := match a with | some k => decide (k < p) | none => true
  if y.lmode ≠ 0 then (if y.codesIrap j then .i else .p)
  else if j.phase = 1 then
    if y.codesIrap j then (if started then .i else .hold)
    else if (held.countP (fun z => after y.anchor z.poc && !z.irap)) < n then .hold
    else if held.any (fun z => z.irap) then .wait
    else .p
  else if j.irap then (if started then .i else .wait)
  else if held.any (fun z => z.irap && decide (z.poc < j.poc)) then .wait
  else if !after y.anchor j.poc then .b
  else if vEnding v j s && held.all (fun z => decide (z.poc ≤ j.poc)) then .p
  else .wait

/-- Gradual intra refresh (LMODE 1 and 3). -/
def VSess.gir (y : VSess) : Bool := y.lmode % 2 == 1
def VSess.girp (y : VSess) : Nat := bitsOf (y.word 0) 11 6

/-- Number in its sweep of the session's next picture, when it is no IRAP (R746). -/
def VSess.sweepAt (y : VSess) : Nat := (y.since - 1) % max y.girp 1

/-- CTB column at which picture i of a sweep begins to refresh (R746). -/
def VSess.girCol (y : VSess) (i : Nat) : Nat := i * y.ctbCols / max y.girp 1

/-- The CTB columns of a sweep's picture are intra, and every other CTB left of the sweep's boundary uses only samples at least 12 columns left
of its reference's boundary (R746). -/
def girOk (y : VSess) (e : VEnc) : Bool :=
  let i := y.sweepAt
  let lo := y.girCol i
  let hi := y.girCol (i + 1)
  (List.range (hi - lo)).all (fun k => e.intra.contains (lo + k)) &&
    e.vecs.all (fun v => decide (hi ≤ v.ctb % max y.ctbCols 1) || decide (v.x + v.w ≤ 64 * (lo : Int) - 12))

/-! ### The units of a picture, rate control and HRD (R749-R751) -/

/-- Rate control of the session: 0 CQP, 1 CBR, 2 VBR. -/
def VSess.rc (y : VSess) : Nat := bitsOf (y.word 0) 13 12

/-- The units that stand before a picture's slices (R746, R749, R750). -/
def VSess.units (y : VSess) (k : VKind) : List VUnit :=
  let hrd := y.rc != 0
  let sweep := k != .i && y.gir && y.sweepAt == 0
  (if k = .i then [.params (if hrd then some (y.rc == 1, if y.rc = 1 then y.word 1 % 2 ^ 32 else bitsOf (y.word 1) 63 32, y.word 2 % 2 ^ 32) else none)]
    else [])
    ++ (if hrd && (k == .i || sweep) then [.buffering] else [])
    ++ (if hrd then [.timing] else [])
    ++ (if sweep then [.recovery (y.girp - 1)] else [])

/-- The bytes of those units, as H.265 codes them. -/
def VSess.headBytes (y : VSess) (k : VKind) (heads : List (VUnit × List Byte)) : List Byte :=
  (y.units k).flatMap (fun u => ((heads.find? (fun h => h.1 == u)).map (·.2)).getD [])

/-- Bits x FPS_NUM that leave the CPB per picture: BITRATE of CBR, MAXRATE of VBR, over FPS_DEN ÷ FPS_NUM seconds. -/
def VSess.drain (y : VSess) : Nat :=
  (if y.rc = 1 then y.word 1 % 2 ^ 32 else bitsOf (y.word 1) 63 32) * 1000 * bitsOf (y.word 3) 63 48

/-- What the CPB holds after a picture of `n` bytes. -/
def VSess.cpbAfter (y : VSess) (n : Nat) : Nat := (if y.anchor.isNone then 0 else y.cpb - y.drain) + 8 * n * bitsOf (y.word 3) 47 32

/-- Filler data NAL unit that CBR adds to a picture of `n` bytes so that the next picture interval does not empty the CPB (R749): a start code, the
NAL unit header of type 38, ff bytes and the trailing bits (H.265). -/
def VSess.filler (y : VSess) (n : Nat) : List Byte :=
  let have_ := y.cpbAfter n
  let unit := 8 * max (bitsOf (y.word 3) 47 32) 1
  if y.rc = 1 ∧ have_ < y.drain then
    [0, 0, 1, 0x4C, 1] ++ List.replicate ((y.drain - have_ + unit - 1) / unit - 6) 0xFF ++ [0x80]
  else []

/-- The mean QP that VEN_RC shows: in CQP that of the picture's type, otherwise as the rate control had it. -/
def VSess.qpOf (y : VSess) (k : VKind) (e : VEnc) : Nat :=
  let q := y.word 2
  if y.rc ≠ 0 then e.qp else match k with | .i => bitsOf q 37 32 | .b => bitsOf q 53 48 | _ => bitsOf q 45 40

/-- The slice segments of a coded picture (R747): SLICE_CTBS CTBs each, or the whole picture as one; how many they are, and first CTB and CTBs of
the k-th. -/
def VSess.segCount (y : VSess) : Nat :=
  let n := bitsOf (y.word 3) 31 16
  if n = 0 then 1 else (y.ctbCols * y.ctbRows + n - 1) / n
def VSess.segAt (y : VSess) (k : Nat) : Nat × Nat :=
  let n := bitsOf (y.word 3) 31 16
  let all := y.ctbCols * y.ctbRows
  if n = 0 then (0, all) else (k * n, min n (all - k * n))

/-- Slice segments of an encode job that have been written and noted. -/
def VJob.told (j : VJob) : Nat := if j.headed then j.slice + 1 else 0

/-- A slice note of an encode is of its next slice segment, with the CTB rows complete after it (R747); a decode's slices are the stream's own. -/
def sliceNext (y : VSess) (j : VJob) (slice rows : Nat) (g : VSeg) : Bool :=
  j.op != 4 || (slice == j.told && decide (slice < y.segCount) && (g.ctb, g.ctbs) == y.segAt slice
    && rows == (g.ctb + g.ctbs) / max y.ctbCols 1)

/-- The slice segments of an ENCODE are those of R747: all written before in sub-frame mode, otherwise all of the picture's here. -/
def segsOk (y : VSess) (j : VJob) (e : VEnc) : Bool :=
  if 2 ≤ y.lmode then j.told == y.segCount && e.bits.isEmpty && e.segs.isEmpty
  else e.segs.map (fun g => (g.ctb, g.ctbs)) == (List.range y.segCount).map y.segAt

/-- What H.265 coding made of a picture is what this encoder writes: its slice segments, QP at most 51, no residual dropped in CQP, its reconstruction in no reference's slot (R738), vectors inside the window, B's
second reference only in a B picture, no reference in an IRAP, the refresh of its sweep, and a CPB that does not overflow (R743-R751). -/
def encOk (y : VSess) (j : VJob) (k : VKind) (e : VEnc) : Bool :=
  let n := j.bytes + e.bits.length + if j.headed then 0 else (y.headBytes k e.heads).length
  segsOk y j e && e.rows == y.ctbRows && decide (e.qp ≤ 51) && !(e.strain && y.rc == 0) && decide (e.slot < bitsOf (y.word 4) 55 48) && !y.refs.contains e.slot
    && e.vecs.all (fun v => y.inWindow v && k != .i && decide (v.ref < if k = .b then 2 else 1))
    && (k == .i || !y.gir || girOk y e)
    && (y.rc == 0 || decide (y.cpbAfter n ≤ y.word 2 % 2 ^ 32 * 1000 * bitsOf (y.word 3) 47 32))

end Sys2Proof.Machine
end

