-- ==== Sys2Proof/Machine/Vpx.lean ====
section
/-! DEFINITION. Family: video pipes (chapter 14): command blocks, sessions, jobs, slice notes and the tensorizer. What H.265 itself makes of a
bitstream or a source picture is an operand (VDec, VEnc). -/
namespace Sys2Proof.Machine

/-! ### Herd memory of a pipe (R735) -/

/-- What pipe accesses have met: 0 all is well, 1 a page under migration or one that waits at its home controller, 3 XLAT_FAIL, 5 STOPPED; with the walks' host entries left. -/
structure VIo where
  st : Nat
  bytes : List Byte
  bad : List Nat
  hs : List (List (Option Nat))
  s : State

/-- Read `len` bytes at herd virtual address va, bead page by bead page. -/
def vaReadGo (n va : Nat) : Nat → Nat → Nat → VIo → VIo
  | 0, _, _, x => x
  | f + 1, o, len, x =>
    if x.st ≠ 0 ∨ o ≥ len then x
    else
      let a := (va + o) % 2 ^ 48
      let k := min (len - o) (2048 - a % 2048)
      let w := hubWalk n a false (x.hs.headD []) x.s
      match w.1 with
      | .ok (.bead i b) =>
        let r := homeRead i b k w.2
        if homeHeld i b k false w.2 then { x with st := 1, hs := x.hs.tail, s := w.2 }
        else if r.1 = 0 ∨ r.1 = 4 then
          vaReadGo n va f (o + k) len ⟨0, x.bytes ++ r.2.1, x.bad ++ r.2.2.1.map (fun q => q + o), x.hs.tail, r.2.2.2⟩
        else { x with st := if r.1 = 5 then 5 else 3, hs := x.hs.tail, s := r.2.2.2 }
      | .mig | .held => { x with st := 1, hs := x.hs.tail, s := w.2 }
      | _ => { x with st := 3, hs := x.hs.tail, s := w.2 }

/-- Read a range of a herd's virtual addresses. -/
def vaRead (n va len : Nat) (hs : List (List (Option Nat))) (s : State) : VIo :=
  vaReadGo n va (len / 2048 + 2) 0 len ⟨0, [], [], hs, s⟩

/-- Write bytes at herd virtual address va; `bad` are the poisoned offsets. -/
def vaWriteGo (n va : Nat) (bs : List Byte) (bad : List Nat) : Nat → Nat → VIo → VIo
  | 0, _, x => x
  | f + 1, o, x =>
    if x.st ≠ 0 ∨ o ≥ bs.length then x
    else
      let a := (va + o) % 2 ^ 48
      let k := min (bs.length - o) (2048 - a % 2048)
      let w := hubWalk n a true (x.hs.headD []) x.s
      match w.1 with
      | .ok (.bead i b) =>
        let r := homeWrite i b ((bs.drop o).take k)
          ((bad.filter (fun q => decide (o ≤ q) && decide (q < o + k))).map (fun q => q - o)) w.2
        if homeHeld i b k true w.2 then { x with st := 1, hs := x.hs.tail, s := w.2 }
        else if r.1 = 0 ∨ r.1 = 4 then vaWriteGo n va bs bad f (o + k) { x with hs := x.hs.tail, s := r.2 }
        else { x with st := if r.1 = 5 then 5 else 3, hs := x.hs.tail, s := r.2 }
      | .mig | .held => { x with st := 1, hs := x.hs.tail, s := w.2 }
      | _ => { x with st := 3, hs := x.hs.tail, s := w.2 }

/-- Write after what `x` has met. -/
def vaWrite (n va : Nat) (bs : List Byte) (bad : List Nat) (x : VIo) : VIo :=
  vaWriteGo n va bs bad (bs.length / 2048 + 2) 0 x

/-! ### Command blocks (R737, R758) -/

/-- Pipe life state. -/
def pipeLife (v : Nat) (s : State) : Nat := lifeAt (statOf (vpxP v)) s

/-- The pipe of a VIDEO entry's block. -/
def entryPipe (e : HqEnt) : Nat := bitsOf (e.word 2) 39 32

/-- The block of a VIDEO entry of herd n, with a status (R737). -/
def entryJob (n : Nat) (e : HqEnt) (st : Nat) : VJob :=
  let b := e.word 2
  let words := (List.range ((b % 65536 - 1) / 8)).map (fun i => e.word (3 + i))
  ⟨e.key, n, bitsOf b 55 48, bitsOf b 47 40, bitsOf b 31 16, b :: words, 0, st, false, false, false, 0, 0, 0, 0, 0, 0, [], [], [], [], false⟩

/-- ENTRY_VIDEO (R782): the entry's command block reaches the pipe that its PIPE field names; a pipe that is not READY answers STOPPED
(R763), a poisoned block is BAD_JOB (Table 18-6), and one that meets 64 blocks QUEUE_FULL (R758). -/
def execEntryVideo (n q k : Nat) (s : State) : Res :=
  match entryAtWork n q k 5 s with
  | none => .next s
  | some e =>
    if e.phase = 1 then .next s
    else
      let v := entryPipe e
      let s1 := startEnt e s
      if pipeLife v s ≠ 2 then .next (vComplete v (entryJob n e 5) s1)
      else if !e.bad.isEmpty then .next (vComplete v (entryJob n e 7) s1)
      else if (vpOf v s).jobs.countP (fun j => j.phase == 0) ≥ 64 then .next (vComplete v (entryJob n e 9) s1)
      else .next (setVp v { vpOf v s1 with jobs := (vpOf v s1).jobs ++ [entryJob n e 0] } s1)

/-- LEN of a block. -/
def VJob.len (j : VJob) : Nat := (j.words[0]?).getD 0 % 65536

/-- The first queued block of session k among those of herd n (R737). -/
def vFront (v n k : Nat) (s : State) : Option VJob :=
  (vpOf v s).jobs.find? (fun j => j.herd == n && j.sess == k && j.phase == 0)

/-- Herd n's open session k. -/
def vMine (v n k : Nat) (s : State) : Option VSess := (vsOf v k s).filter (fun y => y.herd == n)

/-- Store a session. -/
def setVs (v : Nat) (y : VSess) (s : State) : State :=
  setVp v { vpOf v s with sess := (vpOf v s).sess.map (fun z => if z.num == y.num then y else z) } s

/-- Store a block. -/
def setVj (v : Nat) (j : VJob) (s : State) : State :=
  setVp v { vpOf v s with jobs := (vpOf v s).jobs.map (fun z => if z.key == j.key then j else z) } s

/-! ### OPEN and CLOSE (R757, R761) -/

/-- Bits of an OPEN that no field of Table 14-3 or 14-6 names are zero. -/
def openReserved (j : VJob) : Bool :=
  let z (i hi lo : Nat) : Bool := bitsOf (j.body i) hi lo == 0
  z 0 31 20 && z 2 39 38 && z 2 47 46 && z 2 55 54 && z 2 63 58 && z 4 63 56 && z 5 63 16 && z 6 63 0 && z 7 63 0
    && z 9 63 50 && z 13 63 0 && z 14 63 0 && z 15 63 0

/-- The picture size fits Table 14-1: per pipe, or the luma samples of level 6 when ganged. -/
def openSize (dir gang w h : Nat) : Bool :=
  decide (0 < w) && decide (0 < h) && w % 2 == 0 && h % 2 == 0
    && (if dir = 1 then decide (w ≤ 3840) && decide (h ≤ 2160)
        else if gang = 0 then decide (w ≤ 4096) && decide (h ≤ 2176) && decide (w * h ≤ 8912896)
        else decide (w ≤ 16888) && decide (h ≤ 16888) && decide (w * h ≤ 35651584))

/-- The tensorizer profile lies inside Table 14-6 and inside the picture. -/
def openTensor (j : VJob) (w h : Nat) : Bool :=
  let c := j.body 8
  let o := j.body 9
  let cx := c % 65536
  let cy := bitsOf c 31 16
  let cw := bitsOf c 47 32
  let ch := bitsOf c 63 48
  let fmt := bitsOf o 35 32
  let lay := bitsOf o 37 36
  let patch := bitsOf o 43 38
  cx % 2 == 0 && cy % 2 == 0 && cw % 2 == 0 && ch % 2 == 0 && decide (cx + cw ≤ w) && decide (cy + ch ≤ h)
    && [0, 9, 10, 11].contains fmt && decide (lay < 3) && decide (bitsOf o 45 44 < 3)
    && decide (patch ≤ 32) && (lay != 2 || decide (1 ≤ patch) && o % 65536 % patch == 0 && bitsOf o 31 16 % patch == 0)

/-- An OPEN that R757 lets open a session on pipe v. -/
def openOk (v : Nat) (j : VJob) (s : State) : Bool :=
  let m := j.body 0
  let dir := m % 2
  let gang := bitsOf m 2 1
  let lm := bitsOf m 5 4
  let girp := bitsOf m 11 6
  let rc := bitsOf m 13 12
  let w := bitsOf m 47 32
  let h := bitsOf m 63 48
  let q := j.body 2
  let dpbn := bitsOf (j.body 4) 55 48
  let group := match gang with | 1 => [v, v + 1] | 2 => [0, 1, 2, 3] | _ => [v]
  j.len == 136 && openReserved j && bitsOf m 15 14 != 3 && !(dir == 1 && bitsOf m 19 18 == 3) && gang != 3 && !(dir == 1 && gang != 0)
    && (!(lm == 1 || lm == 3) || decide (4 ≤ girp) && decide (girp ≤ 64)) && !(dir == 1 && bitsOf (j.body 3) 63 48 == 0)
    && openSize dir gang w h && decide (2 ≤ dpbn) && decide (dpbn ≤ 17) && !(dir == 1 && decide (dpbn < 3))
    && (dir == 0 || !(rc == 0 && (decide (51 < bitsOf q 37 32) || decide (51 < bitsOf q 45 40) || decide (51 < bitsOf q 53 48))))
    && (dir == 0 || !(rc == 2 && (j.body 1 % 2 ^ 32 == 0 || decide (bitsOf (j.body 1) 63 32 < j.body 1 % 2 ^ 32))))
    && (dir == 0 || rc != 3) && openTensor j w h && decide (j.sess < 16) && j.body 4 % 2048 == 0
    && (gang != 1 || v % 2 == 0) && (gang != 2 || v == 0) && group.all (fun u => pipeLife u s == 2)

/-- VIDEO_OPEN (R757, R766): herd n's next block for session k of pipe v is an OPEN. -/
def execVideoOpen (v n k : Nat) (s : State) : Res :=
  match vFront v n k s with
  | none => .next s
  | some j =>
    if j.op ≠ 1 ∨ v ≥ 4 then .next s
    else if (vsOf v k s).isSome then .next (vEnd v 0xA j s)
    else if !openOk v j s then .next (vEnd v 7 j s)
    else
      let y : VSess := ⟨k, n, j.words.tail, 0, false, [], [], [], none, 0, 0, (bitsOf (j.body 0) 47 32 + 63) / 64, none⟩
      .next (vEnd v 0 j (setVp v { vpOf v s with sess := (vpOf v s).sess ++ [y] } s))

/-- VIDEO_CLOSE (R761): herd n's CLOSE for session k acts at once on the blocks that arrived before it; a queued OPEN before it comes
first. -/
def execVideoClose (v n k : Nat) (s : State) : Res :=
  match (vpOf v s).jobs.find? (fun j => j.herd == n && j.sess == k && j.phase == 0 && (j.op == 2 || j.op == 1)) with
  | none => .next s
  | some j =>
    if j.op ≠ 2 ∨ v ≥ 4 then .next s
    else if (vMine v n k s).isNone then .next (vEnd v 8 j s)
    else if j.len ≠ 8 then .next (vEnd v 7 j s)
    else .next (vEnd v 0 j (vClose v k j.key s))

/-! ### Jobs (R740, R741, R745) -/

/-- A DECODE or ENCODE block with its body in range (Tables 14-2, 14-7). -/
def jobOk (j : VJob) (y : VSess) : Bool :=
  let z (i hi lo : Nat) : Bool := bitsOf (j.body i) hi lo == 0
  j.len == 40 && z 0 63 48 && z 1 63 (if j.op = 3 then 32 else 48) && z 2 63 (if j.op = 3 then 48 else 33)
    && (if j.op = 3 then z 3 63 48 && y.dir == 0 else z 3 63 0 && y.dir == 1)

/-- A herd whose WEIGHT of resource 10 is 0 waits while a job of a herd with a weight above zero waits on one of these pipes (R543, R741). -/
def vYields (n : Nat) (g : List Nat) (s : State) : Bool :=
  getF (herdP n) (HERD_SHARE_WEIGHT 10) s == 0 && g.any (fun u => (vpOf u s).jobs.any (fun z =>
    z.herd != n && z.phase == 0 && (z.op == 3 || z.op == 4) && getF (herdP z.herd) (HERD_SHARE_WEIGHT 10) s != 0
      && (vMine u z.herd z.sess s).isSome && ((vFront u z.herd z.sess s).map (·.key)) == some z.key))

/-- When the pipes have rested since their last jobs, which under hub throttle takes 1 ms (R864). -/
def vRested (g : List Nat) (s : State) : Nat :=
  if hubThrottled s then (g.filterMap (fun u => (vpOf u s).ended.map (· + 1000000))).foldl max 0 else 0

/-- A job starts: the engines of its pipes begin a picture (R742). -/
def vStart (v : Nat) (j : VJob) (g : List Nat) (s : State) : State :=
  setVj v { j with phase := 1 } (g.foldl (fun t u => setEng u ⟨[], []⟩ t) (waitTill (vRested g s) s))

/-- VIDEO_JOB_START (R741, R864): the arbiter grants pipe v to herd n's next job of session k; a block that is no job ends at once. -/
def execVideoJobStart (v n k : Nat) (s : State) : Res :=
  match vFront v n k s with
  | none => .next s
  | some j =>
    if v ≥ 4 ∨ (j.op = 1 ∨ j.op = 2 ∨ j.op = 5) then .next s
    else match vMine v n k s with
    | none => .next (vEnd v 8 j s)
    | some y =>
      if (j.op ≠ 3 ∧ j.op ≠ 4) || !jobOk j y then .next (vEnd v 7 j s)
      else
        let g := y.group v
        let lives := g.all (fun u => pipeLife u s == 2 || pipeLife u s == 3)
        let free := g.all (fun u => (vpRun u s).isNone)
        if lives && free && !vYields n g s then .next (vStart v j g s) else .next s

/-- Exactly `len` bytes. -/
def fitBytes (len : Nat) (l : List Byte) : List Byte := (l ++ List.replicate (len - l.length) 0).take len

/-- A decoded picture after concealment (R767): bytes in the CTBs `lost` come from the previous output picture, or are mid-grey. -/
def conceal (y : VSess) (d : VDec) (lost : List Nat) : List Byte :=
  let len := y.slotLen
  let grey := leBytes 2 (2 ^ (d.depth - 1))
  (List.range len).map (fun o =>
    let hit := match slotCtb y d.ctb d.width d.height o with | some c => lost.contains c | none => false
    if hit then (if y.last.isEmpty then (grey[o % 2]?).getD 0 else (y.last[o]?).getD 0) else (d.pic[o]?).getD 0)

/-- Bytes of the slot in the CTBs of `l`. -/
def slotBytesIn (y : VSess) (b w h : Nat) (l : List Nat) : List Nat :=
  (List.range y.slotLen).filter (fun o => match slotCtb y b w h o with | some c => l.contains c | none => false)

/-- CTBs of a slice segment. -/
def segCtbs (g : VSeg) : List Nat := (List.range g.ctbs).map (fun i => g.ctb + i)

/-- What a decoder rejects as UNSUPPORTED (R732). -/
def unsupported (y : VSess) (p : VSps) : Bool :=
  !p.prof || p.chroma != 1 || decide (10 < p.depth) || p.field || decide (y.width < p.width) || decide (y.height < p.height)
    || decide (bitsOf (y.word 4) 55 48 < p.dpb + 2)

/-- A stream error (Table 14-8). -/
def streamErr (v k row : Nat) (s : State) : State :=
  recordCE (vpxP v) 0x3001 (vpxDetail k row) 0 (raise (vpxP v) 18 (bump (vpxP v) VPX_ERRS_STREAM 1 s))

/-- The running job of pipe v with its session. -/
def vRunning (v op : Nat) (s : State) : Option (VJob × VSess) :=
  match (vpOf v s).jobs.find? (fun j => j.phase == 1 && j.op == op) with
  | some j => (vMine v j.herd j.sess s).map (fun y => (j, y))
  | none => none

/-- What ends a job after an access: MEM_FAIL or STOPPED (R735, R762); a page under migration makes it wait. -/
def vIoEnd (v : Nat) (j : VJob) (x : VIo) : State :=
  if x.st = 1 then x.s else vEnd v x.st j x.s

/-- The access unit brings a sequence parameter set that the decoder rejects (R732). -/
def decUnsupported (y : VSess) (d : VDec) : Bool := match d.sps with | some p => unsupported y p | none => false

/-- CTBs of the slice segments of an access unit that hold a poisoned byte (R768). -/
def decPois (d : VDec) (bad : List Nat) : List Nat :=
  (d.segs.filter (fun g => bad.any (fun o => decide (g.start ≤ o) && decide (o < g.start + g.len)))).flatMap segCtbs

/-- CTB columns of the access unit's picture. -/
def decCols (d : VDec) : Nat := (d.width + 2 ^ d.ctb - 1) / 2 ^ d.ctb

/-- CTBs that are concealed: those a stream error affects, and those whose syntax record was bad (R767). -/
def decGone (d : VDec) (j : VJob) : List Nat := d.lost ++ j.syn

/-- The POC from which the session outputs pictures after this access unit: a session of LMODE 1 or 3 starts at an IRAP picture, or at the recovery
point that a recovery point SEI announces (R748). -/
def decFrom (y : VSess) (d : VDec) : Option Int :=
  if d.nopic then y.from_
  else if d.irap then some (-2 ^ 31)
  else y.from_.or (d.recovery.map (fun c => signed 32 d.poc + c))

/-- The access unit gives no picture to output: none is decoded, or a session of LMODE 1 or 3 stands before its recovery point (R740, R748). -/
def decNopic (y : VSess) (d : VDec) : Bool :=
  d.nopic || y.gir && (match decFrom y d with | some p => decide (signed 32 d.poc < p) | none => true)

/-- The job as its completion will tell of the access unit: what was used, and 0, concealment (R767) or poison (R768). -/
def decJob (y : VSess) (d : VDec) (pois : List Nat) (j : VJob) : VJob :=
  { j with
    nopic := decNopic y d, irap := d.irap, recovery := d.recovery.isSome, poc := d.poc, bytes := min d.used (j.body 1)
    rows := d.rows, st := if pois.isEmpty then (if (decGone d j).isEmpty then 0 else 1) else 4 }

/-- A loss in the stream is recorded, with the row of the first CTB lost, by the pipe whose entropy engine met it (R753, R767). -/
def decLost (v : Nat) (y : VSess) (d : VDec) (j : VJob) (s : State) : State :=
  if d.lost.isEmpty then s
  else
    let c := d.lost.headD 0
    streamErr (y.entropyPipe v d.par (parUnit d.par (decCols d) c)) j.sess (c / max (decCols d) 1) s

/-- The engines of the group have done their share of the picture, and its records are consumed (R742, R753). -/
def decShare (v : Nat) (y : VSess) (d : VDec) (s : State) : State :=
  let units := ((List.range (decCols d * d.rows)).map (parUnit d.par (decCols d))).eraseDups
  (y.group v).foldl (fun t u =>
    setEng u ⟨(List.range d.rows).filter (fun r => y.pixelPipe v r == u), units.filter (fun k => y.entropyPipe v d.par k == u)⟩
      (setFq (0xA000 + u) { fqOf (0xA000 + u) t with items := [] } t)) s

/-- A decoded picture goes into its slot. -/
def decWrite (y : VSess) (d : VDec) (gone pois : List Nat) (x : VIo) : VIo :=
  vaWrite y.herd (y.slotAt d.slot) (conceal y d (gone ++ pois)) (slotBytesIn y d.ctb d.width d.height pois) x

/-- The session after an access unit. -/
def decSess (v : Nat) (y : VSess) (d : VDec) (s : State) : State := setVs v { y with cols := decCols d, from_ := decFrom y d } s

/-- A job whose picture stands in its slot waits for its output (R740), or completes with NOPIC before the recovery point (R748). -/
def decDone (v : Nat) (y : VSess) (d : VDec) (pois : List Nat) (j : VJob) (s : State) : State :=
  let s1 := decSess v y d (decShare v y d s)
  if decNopic y d then vComplete v (decJob y d pois j) s1
  else setVj v { decJob y d pois j with
    phase := 2, pic := conceal y d (decGone d j ++ pois), bad := slotBytesIn y d.ctb d.width d.height pois } (vpEnded v j s1)

/-- DECODE (R732, R735, R738, R740, R742, R748, R753, R760, R767, R768): the running job of pipe v decodes its access unit into `d`. -/
def execDecode (v : Nat) (d : VDec) (hs : List (List (Option Nat))) (s : State) : Res :=
  match vRunning v 3 s with
  | none => .next s
  | some (j, y) =>
    let r := vaRead y.herd (j.body 0) (j.body 1) hs s
    if r.st ≠ 0 then .next (vIoEnd v j r)
    else if decUnsupported y d then .next (vEnd v 2 j r.s)
    else
      let pois := decPois d r.bad
      let s1 := decLost v y d j r.s
      if d.nopic then .next (vComplete v (decJob y d pois j) (decSess v y d (decShare v y d s1)))
      else
        let w := decWrite y d (decGone d j) pois { r with s := s1 }
        if w.st ≠ 0 then .next (if w.st = 1 then r.s else vIoEnd v j w)
        else .next (decDone v y d pois j w.s)

/-- Bytes of an encode source, and the 64 x 64 CTB of its byte o (R738, R756). -/
def VSess.srcLen (y : VSess) : Nat :=
  match bitsOf (y.word 0) 19 18 with | 0 => y.slotLen | 1 => y.width * y.height * 6 | _ => y.width * y.height * 12

/-- CTBs whose source bytes are poisoned (R768). -/
def srcBad (y : VSess) (bad : List Nat) : List Nat :=
  let f := bitsOf (y.word 0) 19 18
  if f = 0 then bad.filterMap (slotCtb y 6 y.width y.height)
  else bad.map (fun o =>
    let i := o / (if f = 1 then 2 else 4) % (y.width * y.height)
    i / y.width / 64 * ((y.width + 63) / 64) + i % y.width / 64)

/-- Offsets of bitstream bytes in slice segments that hold a poisoned CTB (R768). -/
def segsBad (segs : List VSeg) (ctbs : List Nat) : List Nat :=
  (segs.filter (fun g => (segCtbs g).any (fun c => ctbs.contains c))).flatMap (fun g => (List.range g.len).map (fun i => g.start + i))

/-- Write `bits` into a job's output after what it has written, up to OUT_SIZE (R747, R759): what the accesses met, the bytes written, and
whether they did not fit. -/
def outWrite (j : VJob) (bits : List Byte) (bad : List Nat) (x : VIo) : VIo × Nat × Bool :=
  let room := j.body 2 % 2 ^ 32 - j.bytes
  let w := bits.take room
  (vaWrite j.herd (j.body 1 + j.bytes) w (bad.filter (fun o => decide (o < w.length))) x, w.length, decide (room < bits.length))

/-- A job whose picture is held for reordering, in normal GOP mode (R745). -/
def encHold (v : Nat) (y : VSess) (j : VJob) (s : State) : State :=
  setVj v { j with phase := 3, poc := y.pics, irap := y.codesIrap j }
    (setVs v { y with pics := y.pics + 1, irap := y.irap && !y.codesIrap j } (vpEnded v j s))

/-- Read the reference pictures of a picture of this type from their slots: none of an IRAP, the last anchor of a P picture, both of a B (R738,
R744, R745). Answers what the accesses met, the pictures, and the CTBs that poison in them reaches. -/
def encRefsGo (y : VSess) : List Nat → VIo → VIo × List (List Byte) × List Nat
  | [], x => (x, [], [])
  | slot :: l, x =>
    let r := vaRead y.herd (y.slotAt slot) y.slotLen x.hs x.s
    if r.st ≠ 0 then (r, [], [])
    else
      let t := encRefsGo y l r
      (t.1, r.bytes :: t.2.1, y.winBad r.bad ++ t.2.2)

/-- The references of a picture of this type. -/
def encRefs (y : VSess) (k : VKind) (x : VIo) : VIo × List (List Byte) × List Nat :=
  encRefsGo y (y.refs.take (match k with | .i => 0 | .b => 2 | _ => 1)) x

/-- What the encoder reads for a picture, or for a slice segment of it: source and references, the CTBs that poison reaches (R768), and the
window store as it stands at CTB `ctb` (R743, R744). -/
structure EncIn where
  io : VIo
  bad : List Nat
  win : VStore

/-- Read the source of job j and the references of its type. -/
def encIn (y : VSess) (j : VJob) (k : VKind) (ctb : Nat) (hs : List (List (Option Nat))) (s : State) : EncIn :=
  let r := vaRead y.herd (j.body 0) y.srcLen hs s
  if r.st ≠ 0 then ⟨r, [], .zero⟩
  else
    let q := encRefs y k r
    ⟨q.1, srcBad y r.bad ++ q.2.2 ++ j.syn, y.store q.2.1 r.bytes ctb⟩

/-- The coded picture's bits go to the job's output: the units that stand before its slices unless a slice note has written them, the slices, and
filler (R749, R750); its reconstruction goes into a slot. Answers what the accesses met, the bytes of output written, and whether they did not
fit. -/
def encWrite (y : VSess) (j : VJob) (k : VKind) (e : VEnc) (bad : List Nat) (x : VIo) : VIo × Nat × Bool :=
  let head := if j.headed then [] else y.headBytes k e.heads
  let bits := head ++ e.bits
  let o := outWrite j (bits ++ y.filler (j.bytes + bits.length))
    (segsBad (e.segs.map (fun g => { g with start := g.start + head.length })) bad) x
  (vaWrite y.herd (y.slotAt e.slot) (fitBytes y.slotLen e.recon) [] o.1, o.2)

/-- Number of a picture: in the order of submission. -/
def encNum (y : VSess) (j : VJob) : Nat := if j.phase = 3 then j.poc else y.pics

/-- The session after a coded picture: an anchor is the next picture's reference, and the picture's bits are in the CPB (R745, R746, R750). -/
def encSess (y : VSess) (j : VJob) (k : VKind) (e : VEnc) (n : Nat) (full : Bool) : VSess :=
  { y with
    pics := if j.phase = 3 then y.pics else y.pics + 1
    irap := full || (y.irap && !(k == .i && j.phase == 1))
    refs := match k with | .i => [e.slot] | .b => y.refs | _ => (e.slot :: y.refs).take 2
    anchor := if k = .b then y.anchor else some (encNum y j)
    since := if k = .i then 1 else y.since + 1
    cpb := y.cpbAfter n }

/-- The job after its picture is coded: OUT_FULL (R759), poison (R768), or well. -/
def encJob (y : VSess) (j : VJob) (k : VKind) (e : VEnc) (n : Nat) (full pois : Bool) : VJob :=
  { j with
    phase := 2, irap := k == .i, recovery := (y.units k).contains (.recovery (y.girp - 1)), poc := encNum y j
    bytes := j.bytes + n, rows := e.rows, st := if full then 0xB else if !pois ∧ j.st = 0 then 0 else 4 }

/-- A picture is coded: session, job, window, counters and the rate control's registers (R743-R751). -/
def encDone (v : Nat) (y : VSess) (j : VJob) (k : VKind) (e : VEnc) (n : Nat) (full pois : Bool) (win : VStore) (s : State) : State :=
  let s1 := setWin v win (if j.phase = 1 then vpEnded v j s else s)
  let y1 := encSess y j k e (j.bytes + n) full
  let s2 := setVj v (encJob y j k e n full pois) (setVs v y1 (setFq (0xA000 + v) { fqOf (0xA000 + v) s1 with items := [] } s1))
  let s3 := bump64 (venP v + 0x80) n s2
  let kbit := if y.rc = 0 then e.cpb else y1.cpb / (1000 * max (bitsOf (y.word 3) 47 32) 1)
  let s4 := setF (venP v) (VEN_RC_QP j.sess) (y.qpOf k e % 64) (setF (venP v) (VEN_RC_CPB j.sess) (kbit % 2 ^ 24) s3)
  if e.strain then recordCE (venP v) 0x3101 (vpxDetail j.sess 0) 0 (raise (venP v) 16 (bump (venP v) VEN_STRAIN_COUNT 1 s4)) else s4

/-- Code the picture of job j as one of type k. -/
def encCode (v : Nat) (y : VSess) (j : VJob) (k : VKind) (e : VEnc) (hs : List (List (Option Nat))) (s : State) : State :=
  let r := encIn y j k (y.ctbCols * y.ctbRows - 1) hs s
  if r.io.st ≠ 0 then vIoEnd v j r.io
  else
    let w := encWrite y j k e r.bad r.io
    if w.1.st ≠ 0 then (if w.1.st = 1 then r.io.s else vIoEnd v j w.1)
    else encDone v y j k e w.2.1 w.2.2 (!r.bad.isEmpty) r.win w.1.s

/-- ENCODE (R743-R751, R759, R768): the job with queue key `key` of pipe v, running or held for reordering, is held, waits for its anchor, or is
coded as `e` says; an `e` that is not this encoder's changes nothing. -/
def execEncode (v key : Nat) (e : VEnc) (hs : List (List (Option Nat))) (s : State) : Res :=
  match (vpOf v s).jobs.find? (fun j => j.key == key && j.op == 4 && (j.phase == 1 || j.phase == 3)) with
  | none => .next s
  | some j =>
    match vMine v j.herd j.sess s with
    | none => .next s
    | some y =>
      match encKind v y j s with
      | .hold => .next (encHold v y j s)
      | .wait => .next s
      | k => if encOk y j k e then .next (encCode v y j k e hs s) else .next s

/-- The bytes of a slice segment go to an encode's output, after the units that stand before the slices, with what the accesses met and the
window as it stands after the segment; a decode writes nothing. -/
def sliceOut (v : Nat) (y : VSess) (j : VJob) (g : VSeg) (heads : List (VUnit × List Byte)) (data : List Byte) (x : VIo) : VIo × Nat :=
  if j.op = 4 then
    let k := encKind v y j x.s
    let r := encIn y j k (g.ctb + g.ctbs - 1) x.hs x.s
    if r.io.st ≠ 0 then (r.io, 0)
    else
      let head := if j.headed then [] else y.headBytes k heads
      let bad := segsBad [{ g with start := head.length, len := data.length }] r.bad
      let o := outWrite j (head ++ data) bad { r.io with s := setWin v r.win r.io.s, bad := r.bad }
      (o.1, o.2.1)
  else (x, data.length)

/-- The note of a slice goes out, and SLICE_OUT is raised (R747). -/
def sliceTold (v slice rows : Nat) (y : VSess) (j : VJob) (n : Nat) (pois : Bool) (s : State) : State :=
  let j1 := { j with slice := slice, rows := rows, bytes := j.bytes + n, st := if pois then 4 else j.st, headed := j.op == 4 }
  let s1 := if j.op = 4 then bump64 (venP v + 0x80) n s else s
  let ws := j1.completion v true s1.now
  raise (vpxP v) 17 (hqNote j.key ws (vNotify (some y) ws (setVj v j1 s1)))

/-- The running job of pipe v, decode or encode. -/
def sliceRunning (v : Nat) (s : State) : Option (VJob × VSess) := match vRunning v 3 s with | some x => some x | none => vRunning v 4 s

/-- SLICE_NOTE (R747, R748, R958): the next slice segment of the running job of pipe v is complete: `data` is written into an encode's output, the
note goes out, and SLICE_OUT is raised. -/
def execSliceNote (v slice rows : Nat) (g : VSlice) (data : List Byte) (hs : List (List (Option Nat))) (s : State) : Res :=
  match sliceRunning v s with
  | none => .next s
  | some (j, y) =>
    if y.lmode < 2 || !sliceNext y j slice rows g.seg then .next s
    else
      let o := sliceOut v y j g.seg g.heads data ⟨0, [], [], hs, s⟩
      if o.1.st ≠ 0 then .next (if o.1.st = 1 then s else vIoEnd v j o.1)
      else .next (sliceTold v slice rows y j o.2 (!o.1.bad.isEmpty) o.1.s)

/-! ### Output and completion (R739, R740, R764) -/

/-- Rows of a session's tensor. -/
def VSess.outW (y : VSess) : Nat := y.word 9 % 65536
def VSess.outH (y : VSess) : Nat := bitsOf (y.word 9) 31 16

/-- A finished job lacks only its output: its tensor rows are written. -/
def jobReady (j : VJob) (y : VSess) : Bool :=
  j.phase == 2 && !(j.op == 3 && j.body 3 != 0 && decide (j.trows < y.outH))

/-- A job that is ready is output: the picture is copied to PIC_VA and takes the next output index, and the job completes. -/
def jobOut (v : Nat) (j : VJob) (y : VSess) (hs : List (List (Option Nat))) (s : State) : VIo :=
  if j.op = 4 then ⟨0, [], [], hs, vComplete v { j with index := j.poc } s⟩
  else
    let w := if j.body 2 = 0 then ⟨0, [], [], hs, s⟩ else vaWrite y.herd (j.body 2) j.pic j.bad ⟨0, [], [], hs, s⟩
    if w.st = 1 then { w with s := s }
    else
      let y1 := { y with pics := y.pics + 1, last := j.pic, lastBad := j.bad }
      { w with st := 0, s := vComplete v { j with index := y.pics, st := if w.st = 0 then j.st else w.st } (setVs v y1 w.s) }

/-- The finished job that H.265 outputs next: the smallest POC before the next picture that starts POC anew. -/
def outNext (l : List VJob) : Option VJob :=
  match l with
  | [] => none
  | j :: r =>
    some ((r.takeWhile (fun k => !(k.irap && k.poc == 0))).foldl (fun a k => if signed 32 k.poc < signed 32 a.poc then k else a) j)

/-- Job j holds the picture that its session outputs next. -/
def outFirst (v : Nat) (j : VJob) (s : State) : Bool :=
  match outNext ((vpOf v s).jobs.filter (fun z => z.herd == j.herd && z.sess == j.sess && z.phase == 2)) with
  | some z => z.key == j.key
  | none => false

/-- VIDEO_JOB_DONE (R739, R740): the bumping process outputs the picture of the job with queue key `key`, the next of its session in output order,
or a coded picture is complete. -/
def execVideoJobDone (v key : Nat) (hs : List (List (Option Nat))) (s : State) : Res :=
  match (vpOf v s).jobs.find? (fun j => j.key == key && j.phase == 2) with
  | none => .next s
  | some j =>
    match vMine v j.herd j.sess s with
    | none => .next s
    | some y => if jobReady j y && (j.op == 4 || outFirst v j s) then .next (jobOut v j y hs s).s else .next s

/-- Output every remaining picture of a session in order. -/
def outAll (v k n : Nat) : Nat → VIo → VIo
  | 0, x => x
  | f + 1, x =>
    if x.st ≠ 0 then x
    else
      match outNext ((vpOf v x.s).jobs.filter (fun j => j.herd == n && j.sess == k && j.phase == 2)), vMine v n k x.s with
      | some j, some y => outAll v k n f (jobOut v j y x.hs x.s)
      | _, _ => x

/-- END_OF_STREAM (R740, R764): once every earlier job of the session has run, the remaining pictures are output in order and the block
completes. -/
def execEndOfStream (v n k : Nat) (hs : List (List (Option Nat))) (s : State) : Res :=
  match vFront v n k s with
  | none => .next s
  | some j =>
    if j.op ≠ 5 ∨ v ≥ 4 then .next s
    else match vMine v n k s with
    | none => .next (vEnd v 8 j s)
    | some y =>
      if j.len ≠ 8 then .next (vEnd v 7 j s)
      else
        let before := ((vpOf v s).jobs.takeWhile (fun z => z.key != j.key)).filter (fun z => z.herd == n && z.sess == k)
        if before.all (fun z => jobReady z y) then
          let x := outAll v k n before.length ⟨0, [], [], hs, s⟩
          .next (if x.st = 0 then vEnd v 0 j x.s else x.s)
        else .next s

/-! ### The tensorizer (R754, R755) -/

/-- Bytes of a tensor element. -/
def tnzElem (fmt : Nat) : Nat := match fmt with | 0 => 1 | 11 => 4 | _ => 2

/-- Element index of channel c, row y, column x in a layout (R755). -/
def tnzIndex (layout patch w h c y x : Nat) : Nat :=
  match layout with
  | 0 => (c * h + y) * w + x
  | 1 => (y * w + x) * 3 + c
  | _ =>
    let p := max patch 1
    ((y / p * (w / p) + x / p) * 3 + c) * (p * p) + y % p * p + x % p

/-- Steps 5 and 6 of R754 on an FP32 value of channel c: its code, and whether it was clamped. -/
def tnzConv (y : VSess) (c v : Nat) : Conv :=
  let m := y.word (10 + c)
  let fmt := bitsOf (y.word 9) 35 32
  let n := if bitOf (y.word 9) 49 then f32mul (f32sub v (m % 2 ^ 32)) (bitsOf m 63 32) else v
  match fmtOf fmt with
  | some (.flt f _) => toFlt f 0 true (dec32 n)
  | _ => ⟨n, false, false⟩

/-- Write the elements of one tensor row: (channel, column, value after step 4, poisoned). -/
def tnzRow (y : VSess) (va row : Nat) : List (Nat × Nat × Nat × Bool) → VIo → VIo
  | [], x => x
  | (c, col, v, bad) :: r, x =>
    let o := y.word 9
    let eb := tnzElem (bitsOf o 35 32)
    let k := tnzIndex (bitsOf o 37 36) (bitsOf o 43 38) y.outW y.outH c row col
    let w := vaWrite y.herd (va + k * eb) (leBytes eb (tnzConv y c v).code) (if bad then List.range eb else []) x
    tnzRow y va row r w

/-- The elements of the next tensor row: channel, column, value and poison, which bad line state gives to all of them (Table 14-8). -/
def tnzElems (y : VSess) (j : VJob) (vals : List (BitVec 32)) (bad : List Nat) : List (Nat × Nat × Nat × Bool) :=
  (List.range (3 * y.outW)).map (fun i =>
    (i / y.outW, i % y.outW, ((vals[i]?).getD 0).toNat, bad.contains i || j.lines.contains j.trows))

/-- A tensor row is written: it and its clamped elements are counted, and with the last row the frame (R754). -/
def tnzDone (v : Nat) (y : VSess) (j : VJob) (es : List (Nat × Nat × Nat × Bool)) (pois : Bool) (s : State) : State :=
  let sat := es.countP (fun e => (tnzConv y e.1 e.2.2.1).clamp)
  let p := tnzP v
  let s1 := if sat = 0 then s else raise p 16 (bump p TNZ_SAT_COUNT sat s)
  let s2 := bump64 (p + 0x84) (3 * y.outW * tnzElem (bitsOf (y.word 9) 35 32)) s1
  let s3 := if j.trows + 1 = y.outH then bump p TNZ_FRAMES_COUNT 1 s2 else s2
  setVj v { j with trows := j.trows + 1, st := if pois then 4 else j.st, lines := j.lines.filter (fun r => r != j.trows) } s3

/-- TENSORIZE_ROW (R754, R755, R768): the next row of the tensor of the finished job with queue key `key`; `vals` holds its channels' columns
after step 4, channel by channel, and `bad` the positions computed from a poisoned sample. -/
def execTensorizeRow (v key : Nat) (vals : List (BitVec 32)) (bad : List Nat) (hs : List (List (Option Nat))) (s : State) : Res :=
  match (vpOf v s).jobs.find? (fun j => j.key == key && j.op == 3 && j.phase == 2 && j.body 3 != 0) with
  | none => .next s
  | some j =>
    match vMine v j.herd j.sess s with
    | none => .next s
    | some y =>
      if j.trows ≥ y.outH then .next s
      else
        let es := tnzElems y j vals bad
        let x := tnzRow y (j.body 3) j.trows es ⟨0, [], [], hs, s⟩
        if x.st = 1 then .next s
        else if x.st ≠ 0 then .next (vEnd v x.st j x.s)
        else .next (tnzDone v y j es (es.any (fun e => e.2.2.2)) x.s)

end Sys2Proof.Machine
end

