-- ==== Sys2Proof/Machine/RegRows.lean ====
section
/-! DEFINITION. REGISTER_WRITE: a BAR0 write of any register (R37, R40, R47, R88, R95), and what a BAR0 read of a live register shows. -/
namespace Sys2Proof.Machine

/-- The state of a meaning that always goes on. -/
def thenState (r : Res) (s : State) : State :=
  match r with
  | .next t => t
  | .fault _ => s
  | .refused _ => s

/-- A write that only enters the register, and what follows it. -/
def plainThen (fn a v : Nat) (k : State → State) (s : State) : State := barWrite fn a (fun t => k (writeReg a v t)) s

/-- A register of a pair (R37), or a register by itself. -/
def plainWrite (fn a v : Nat) (s : State) : State :=
  match (regSpec a).map RSpec.role with
  | some .lo => barWrite fn a (writeShadow a v) s
  | some .hi => barWrite fn a (writeHi a v) s
  | _ => barWrite fn a (writeReg a v) s

/-- The common header: life command, event, error, lock and owner registers; the rest is read-only. -/
def headerWrite (fn a v : Nat) (s : State) : State :=
  let p := pageBase a
  match a % 0x1000 with
  | 0x08 => lifeWrite fn a (v % 16) (bitsOf v 15 8) (bitsOf v 31 16) s
  | 0x10 => thenState (execPgEvtClear fn p v s) s
  | 0x14 => thenState (execPgEvtEnWrite fn p v s) s
  | 0x18 => thenState (execPgEvtRouteWrite fn p v s) s
  | 0x1C => thenState (execPgErrCntClr fn p v s) s
  | 0x20 => thenState (execPgErrFirstClear fn p v s) s
  | 0x28 => thenState (execPgLockSet fn p v s) s
  | 0x2C => thenState (execPgOwnerWrite fn p s) s
  | _ => plainWrite fn a v s

/-- THM registers (R14, R859, R865, R868, R887): THM_GOAL.CODE_FLOOR 5-7 is stored as 4, LCLASS 3 as 2; a goal takes effect at
the next plan. -/
def thmWrite (fn i a v : Nat) (s : State) : State :=
  let o := a % 0x1000
  if i = 0 then
    if 0x80 ≤ o ∧ o < 0x8C then thenState (execThmThresholdWrite fn ((o - 0x80) / 4) false v s) s
    else if 0x90 ≤ o ∧ o < 0x9C then thenState (execThmThresholdWrite fn ((o - 0x90) / 4) true v s) s
    else if o = 0xA0 then thenState (execThmShutClear fn v s) s
    else plainWrite fn a v s
  else if o = 0x80 then thenState (execThmCapWrite fn v s) s
  else if o = 0x84 then
    let t := plainWrite fn a (if bitsOf v 6 4 > 4 then setBits v 6 4 4 else v) s
    if flag (thmP 1) THM_GOAL_SHARES_MAN t && !flag (thmP 1) THM_GOAL_SHARES_MAN s then weightsManual t else t
  else plainWrite fn a (if o ≥ 0x100 ∧ bitsOf v 13 12 = 3 then setBits v 13 12 2 else v) s

/-- ISL registers; ISL_CMD finds the regulator at its output now. -/
def islWrite (fn j a v : Nat) (s : State) : State :=
  match a % 0x1000 with
  | 0x80 => thenState (execIslCtlManualWrite fn j v s) s
  | 0x84 => thenState (execIslCmd fn j v (islMv j s) s) s
  | 0x9C => thenState (execIslFlagsVrFaultClear fn j v s) s
  | _ => plainWrite fn a v s

/-- Router registers: ELECT_PRI 255 is stored as 254; a rewritten table entry has good parity again. -/
def rtrWrite (fn j a v : Nat) (s : State) : State :=
  if j = 0 then
    match a % 0x1000 with
    | 0x80 => plainWrite fn a (if v % 256 = 255 then v - 1 else v) s
    | 0x84 => thenState (execRtrHostfmRelease fn v (thenState (execRtrHostfmClaim fn v s) s)) s
    | _ => plainWrite fn a v s
  else plainThen fn a v (fun t => if lockHolds a t then t else { t with rtrBad := nsErase t.rtrBad a }) s

/-- HQ registers; a flush finds the announced entries unread. -/
def hqWrite (fn n a v : Nat) (s : State) : State :=
  let o := a % 0x1000
  if o < 0x100 ∨ o ≥ 0x300 then plainWrite fn a v s
  else
    let q := (o - 0x100) / 0x40
    match o % 0x40 with
    | 0x00 => lifeWrite fn a (v % 16) (bitsOf v 15 8) (bitsOf v 31 16) s
    | 0x18 => thenState (execHqCfgWrite fn n q v s) s
    | 0x24 => thenState (execHqDestWrite fn n q v s) s
    | 0x2C => thenState (execHqFlush fn n q v [] s) s
    | _ => plainWrite fn a v s

/-- HERD registers. -/
def herdWrite (fn n a v : Nat) (s : State) : State :=
  let o := a % 0x1000
  if o = 0x8C then thenState (execHerdReset fn n v s) s
  else if o = 0x90 then thenState (execHerdResize fn n v s) s
  else if 0xA0 ≤ o ∧ o < 0xD0 then thenState (execHerdShareWrite fn n ((o - 0xA0) / 4) v s) s
  else plainWrite fn a v s

/-- KVM registers. -/
def kvmWrite (fn a v : Nat) (s : State) : State :=
  match a % 0x1000 with
  | 0xA8 => thenState (execKvmOpgo fn v s) s
  | 0xB0 | 0xB4 => plainThen fn a v showKvm s
  | _ => plainWrite fn a v s

/-- VEC registers: an activation-table word that a write stores has good parity again (Table 6-10). -/
def vecWrite (fn i a v : Nat) (s : State) : State :=
  if a % 0x1000 < 0x400 then plainWrite fn a v s
  else plainThen fn a v (fun u =>
    if lockHolds a u then u else { u with tabBad := nsErase u.tabBad (i * 4096 + a % 0x1000) }) s

/-- XLAT registers, most of them herd-wide (R478). -/
def xlatWrite (fn i a v : Nat) (s : State) : State :=
  let o := a % 0x1000
  match o with
  | 0x90 => thenState (execXlatPagerWrite fn i v s) s
  | 0xA4 => thenState (execXlatPcomp fn i v s) s
  | 0xB4 => thenState (execXlatInv fn i v s) s
  | 0xBC => thenState (execTierEnable fn i v s) s
  | _ =>
    match (regSpec a).map RSpec.role with
    | some .lo => barWrite fn a (writeShadow a v) s
    | some .hi => barWrite fn a (fun t =>
        let c := commitVal (a - 4) v t
        if lockHolds a t then raise (pageBase a) 2 t
        else writeHw i o (c / 2 ^ 32) (writeHw i (o - 4) (c % 2 ^ 32) { t with shadow := alErase t.shadow (a - 4) })) s
    | _ => barWrite fn a (writeHw i o (if o = 0x9C then max 6 (min 15 (v % 32)) else v)) s

/-- MSG registers: BIND.KIND 3 is stored as 0. -/
def msgWrite (fn i a v : Nat) (s : State) : State :=
  let o := a % 0x1000
  if o < 0x100 ∨ o ≥ 0x300 then plainWrite fn a v s
  else
    let k := (o - 0x100) / 16
    match o % 16 with
    | 0 => thenState (execMsgChBufWrite fn i k v s) s
    | 4 => plainWrite fn a (if bitsOf v 31 30 = 3 then v % 2 ^ 30 else v) s
    | 12 => thenState (execMsgChFlush fn i k v s) s
    | _ => plainWrite fn a v s

/-- DBG registers: the bits of DBG_CTL act in the order pause, resume, step. -/
def dbgWrite (fn i a v : Nat) (s : State) : State :=
  match a % 0x1000 with
  | 0x80 =>
    let s1 := thenState (execDbgPause fn i v s) s
    let s2 := if bitOf v 1 then thenState (execDbgResume fn i v s1) s1 else s1
    if bitOf v 2 then thenState (execDbgStep fn i v s2) s2 else s2
  | 0x94 => thenState (execDbgDataCommit fn i v s) s
  | _ => plainWrite fn a v s

/-- A 32-bit write to the register at `a`, routed to what its page does with it. -/
def regWrite (fn a v : Nat) (s : State) : State :=
  let o := a % 0x1000
  if o < 0x30 then headerWrite fn a v s
  else match pageOf a with
  | some (.mgs, f) =>
    if o = 0x80 then thenState (execMbCmd fn f v s) s
    else barWrite fn a (fun t => if 0x100 ≤ o ∧ o < 0x900 ∧ flag (mgsP f) MB_STAT_BUSY t then raise (mgsP f) 3 t else writeReg a v t) s
  | some (.thm, i) => thmWrite fn i a v s
  | some (.isl, j) => islWrite fn j a v s
  | some (.brg, n) => if o = 0x80 then thenState (execBrgCtlWrite fn n v s) s else plainWrite fn a v s
  | some (.rlp, p) => if o = 0x80 then thenState (execRlpCtlWrite fn p v s) s else plainWrite fn a v s
  | some (.rtr, j) => rtrWrite fn j a v s
  | some (.e2e, j) => if j = 0 ∧ o = 0x80 then thenState (execE2eLeave fn v s) s else plainWrite fn a v s
  | some (.hq, n) => hqWrite fn n a v s
  | some (.kvm, j) => if j = 0 then kvmWrite fn a v s else plainWrite fn a v s
  | some (.herd, n) => herdWrite fn n a v s
  | some (.seq, i) =>
    if o = 0x84 then thenState (execSeqStart fn i v s) s
    else if o = 0x88 then thenState (execSeqAbort fn i v s) s
    else if o = 0x9C then thenState (execSeqTsig fn i v s) s
    else if o = 0x80 then plainThen fn a v (fun t =>
      if flag (seqP i) SEQ_CTL_STALL_DET t && !flag (seqP i) SEQ_CTL_STALL_DET s then setSeq i (restall t.now (seqOf i t)) t else t) s
    else plainWrite fn a v s
  | some (.vec, i) => vecWrite fn i a v s
  | some (.strm, i) =>
    if o = 0x80 then thenState (execStrmCtlWrite fn i v s) s
    else if 0x100 ≤ o ∧ o < 0x300 ∧ o % 0x40 = 0 then lifeWrite fn a (v % 16) (bitsOf v 15 8) (bitsOf v 31 16) s
    else plainWrite fn a v s
  | some (.bead, i) =>
    if o = 0x80 then thenState (execBeadCodeCtlWrite fn i v s) s
    else if 0x88 ≤ o ∧ o < 0xB8 then thenState (execBeadRclassWrite fn i ((o - 0x88) / 4) v s) s
    else if o = 0xE8 then thenState (execBeadWback fn i v s) s
    else plainWrite fn a v s
  | some (.xlat, i) => xlatWrite fn i a v s
  | some (.msg, i) => msgWrite fn i a v s
  | some (.kv, i) =>
    if 0x80 ≤ o ∧ o < 0x8C then thenState (execKvPoolCfgWrite fn i ((o - 0x80) / 4) v s) s
    else if o = 0x90 then plainThen fn a v (showKv i) s
    else plainWrite fn a v s
  | some (.sense, i) =>
    if o = 0x84 then thenState (execSensePaceMmClr fn i v s) s
    else if o = 0xA4 then thenState (execSenseTmaxClr fn i v s) s
    else plainWrite fn a v s
  | some (.dbg, i) => dbgWrite fn i a v s
  | _ => plainWrite fn a v s

/-- A write of a form that R40 refuses: BAD_ACCESS on the page, after the ownership check; its first dword says which page and offset (log 145). -/
def refuseForm (fn a : Nat) (s : State) : State := barWrite fn a (raise (pageBase a) 4) s

/-- REGISTER_WRITE (R40): `size` bytes at BAR0 offset `off` with byte enables `be`; a 64-bit write is two 32-bit writes, the lower first. -/
def execRegisterWrite (fn off size v be : Nat) (s : State) : Res :=
  if size = 4 ∧ off % 4 = 0 ∧ be = 0xF then .next (regWrite fn off (v % 2 ^ 32) s)
  else if size = 8 ∧ off % 8 = 0 ∧ be = 0xFF then
    .next (regWrite fn (off + 4) (v / 2 ^ 32 % 2 ^ 32) (regWrite fn off (v % 2 ^ 32) s))
  else .next (refuseForm fn (off / 4 * 4) s)

end Sys2Proof.Machine
end

