-- ==== Sys2Proof/Machine/Syn.lean ====
section
/-! DEFINITION. Family: words of framed queues as they arrive (R439-R441), and what the engines of a video pipe do with the syntax records that
become visible in their buffer (R733, R742, R753). -/
namespace Sys2Proof.Machine

/-- Bytes in use of pipe v's syntax buffer (R733): items and partial items that are not dropped. -/
def synUsed (v : Nat) (s : State) : Nat :=
  let x := fqOf (0xA000 + v) s
  let n := (x.items.map (fun i => (i.hdr % 65536 + 7) / 8 * 8)).foldl (· + ·) 0
  min 524288 (((x.parts.filter (fun p => !p.drop)).map (fun p => p.body.length + 8)).foldl (· + ·) n)

/-- CTB address of a syntax record's header (R733). -/
def recCtb (hdr : Nat) : Nat := bitsOf hdr 55 40

/-- CTB rows of which pipe v's syntax buffer holds a record, whole or in part. -/
def synRows (v cols : Nat) (s : State) : List Nat :=
  let x := fqOf (0xA000 + v) s
  (x.items.map (fun i => recCtb i.hdr / max cols 1) ++ (x.parts.filter (fun p => !p.drop)).map (fun p => recCtb p.hdr / max cols 1)).eraseDups

/-- The producing engine may write a word (R733, R742, R753): there is room; a record that begins belongs to a row of this pipe; at most 4 rows
are in flight, and in an encoder rows overlap only under WPP. -/
def synMayWrite (v prod w : Nat) (s : State) : Bool :=
  decide (synUsed v s < 524288) &&
    (!headerOk (0xA000 + v) w || (fqOf (0xA000 + v) s).parts.any (fun p => p.prod == prod) ||
      match vLead v s with
      | none => true
      | some (u, _, y) =>
        let r := recCtb w / max y.cols 1
        let rows := synRows v y.cols s
        y.pixelPipe u r == v && (rows.contains r || decide (rows.length < 4) && (rows.isEmpty || y.dir == 0 || bitOf (y.word 0) 16)))

/-- The consuming engine takes the records of its next unit as soon as the grain lets it start (R742): at CTB grain each whole record, at CTB-row
grain a row of which every record is whole, rows of this pipe in order. -/
def synTakeGo (v u : Nat) (y : VSess) : Nat → State → State
  | 0, s => s
  | f + 1, s =>
    let q := 0xA000 + v
    let x := fqOf q s
    let e := (vpOf v s).eng
    let note (l : List FItem) (t : State) : State := (l.filter (fun i => !i.bad.isEmpty)).foldl (fun t i => synBad v (recCtb i.hdr) t) t
    if bitOf (y.word 0) 3 then
      match x.items with
      | [] => s
      | i :: r =>
        let t := setEng v { e with rows := nsInsert e.rows (recCtb i.hdr / max y.cols 1) } (setFq q { x with items := r } s)
        synTakeGo v u y f (note [i] t)
    else
      let r := e.rows.length * (y.place u v).2 + (y.place u v).1
      let mine := x.items.filter (fun i => recCtb i.hdr / max y.cols 1 == r)
      if mine.length < max y.cols 1 then s
      else
        let t := setEng v { e with rows := nsInsert e.rows r }
          (setFq q { x with items := x.items.filter (fun i => recCtb i.hdr / max y.cols 1 != r) } s)
        synTakeGo v u y f (note mine t)

/-- The consuming engine of pipe v goes on. -/
def synTake (v : Nat) (s : State) : State :=
  match vLead v s with
  | some (u, _, y) => synTakeGo v u y (fqOf (0xA000 + v) s).items.length s
  | none => s

/-- A word of pipe v's producing engine. -/
def synWord (v prod w mask : Nat) (s : State) : State :=
  if synMayWrite v prod w s then
    let s1 := synTake v (wordIn (0xA000 + v) prod w mask s).2
    setF (vpxP v) VPX_SYNBUF_USED (synUsed v s1) s1
  else s

/-- FRAMED_WORD_ARRIVAL (R439-R441): the next word that producer `prod` has on its way to queue `q` arrives; where none is on its way, a
word `w` with poison mask `mask` from outside, or of a pipe's producing engine. -/
def execFramedWordArrival (q prod w mask : Nat) (s : State) : Res :=
  match s.flights.find? (fun f => f.q == q && f.prod == prod) with
  | some f =>
    match f.words with
    | [] => .next { s with flights := s.flights.erase f }
    | x :: t =>
      let s1 := { s with flights := if t.isEmpty then s.flights.erase f
        else s.flights.map (fun g => if g == f then { g with words := t } else g) }
      if lostWord f s then .next (if t.isEmpty then answerSend f.src 0x82 s1 else s1)
      else
        let r := wordIn q prod x.1 x.2 s1
        .next (match r.1 with | some code => answerSend f.src code r.2 | none => r.2)
  | none =>
    if q < 0x8000 then .next (wordIn q prod w mask s).2
    else if 0xA000 ≤ q ∧ q < 0xA004 then .next (synWord (q - 0xA000) prod w mask s)
    else .next s

end Sys2Proof.Machine
end

