-- ==== Sys2Proof/Machine/View.lean ====
section
/-! DEFINITION. What a BAR0 read shows (R39, R44, R88, R94, R106): stored registers, and those that show other state as it is now. Reads change
nothing, so no command of the table stands for one. -/
namespace Sys2Proof.Machine

/-- The command that rod i's sequencer fetches at SEQ_PC (R164, R165, R185). The rows of rod commands carry the word themselves, as up to eight may
have been fetched earlier (assumption log 5). -/
def rodFetch (i : Nat) (hs : List (List (Option Nat))) (s : State) : Instr := rodCommand i (cmdAt i (pcOf i s) s) hs

/-- DBG_DATA as DBG_SEL selects (R233). -/
def dbgData (i : Nat) (s : State) : Nat :=
  let q := seqOf i s
  let n := getF (dbgP i) DBG_SEL_SEL s
  if n < 0x20 then match q.s[n]? with | some x => x.v.toNat | none => 0
  else if n < 0x28 then match q.l[n - 0x20]? with | some x => x.toNat | none => 0
  else if n = 0x28 then (List.range 8).foldl (fun a k => if (q.p[k]?).getD false then a + 2 ^ k else a) 0
  else if 0x40 ≤ n ∧ n < 0x80 then (q.tok[n - 0x40]?).getD 0
  else if 0x82 ≤ n ∧ n < 0x90 then
    match queueOf q ((n - 0x80) / 2) with
    | c :: _ => c.word.toNat / 2 ^ (64 * (n % 2)) % 2 ^ 64
    | [] => 0
  else 0

/-- Indices of a list at which p holds, as a bitmap. -/
def bitsWhere {α : Type} (p : α → Bool) (l : List α) : Nat :=
  (l.foldl (fun (a : Nat × Nat) x => (if p x then a.1 + 2 ^ a.2 else a.1, a.2 + 1)) (0, 0)).1

/-- A register that shows other state: rails and PWR_WARN_N now (R999), a rod's debug view, poison and message counts, fabric time (R654). -/
def liveReg (a : Nat) (s : State) : Option Nat :=
  match pageOf a, a % 0x1000 with
  | some (.glb, _), 0xC8 => some (setBits (rdW a s).toNat 5 5 (b2n s.boot.pwrWarn))
  | some (.glb, _), 0xCC => some (setBits (rdW a s).toNat 15 8 (s.boot.railNow.foldl (fun m k => m ||| 2 ^ (k % 8)) 0))
  | some (.brg, n), o =>
    if 0x100 ≤ o ∧ o < 0x1C8 ∧ (o - 0x100) % 128 < 72 then
      let w := (alGetD s.brgs n BrgX.rest).inWindows ((o - 0x100) / 128) ((o - 0x100) % 128 / 4) s.now
      some (setBits (setBits (rdW a s).toNat 15 0 (min 65535 w.2)) 23 16 (min 255 w.1))
    else none
  | some (.isl, j), 0x90 => some (islMv j s)
  | some (.seq, i), 0xC8 =>
    let q := seqOf i s
    let heads := (List.range 7).foldl (fun a k =>
      match queueOf q (k + 1) with | c :: _ => if waitsOk c.word q then a else a + 2 ^ (k + 1) | [] => a) 0
    some (heads + b2n (match q.stall with | some (w, _) => stalls w q | none => false))
  | some (.dbg, i), 0x90 => some (dbgData i s % 2 ^ 32)
  | some (.dbg, i), 0x94 => some (dbgData i s / 2 ^ 32)
  | some (.dbg, i), 0x98 => some (bitsWhere (fun (x : SReg) => x.p) (seqOf i s).s)
  | some (.dbg, i), 0x9C => some (bitsWhere (fun (x : Nat) => decide (x ≠ 0)) (seqOf i s).tok % 2 ^ 32)
  | some (.dbg, i), 0xA0 => some (bitsWhere (fun (x : Nat) => decide (x ≠ 0)) (seqOf i s).tok / 2 ^ 32)
  | some (.vec, i), 0x90 => some ((List.range 32).foldl (fun m r => if (vBads i r s).any id then m + 2 ^ r else m) 0)
  | some (.msg, i), 0x80 =>
    let st := (seqOf i s).started.filter (fun c => cwUnit c.cmd.word == 5)
    let op (k : Nat) : Nat := st.countP (fun c => cwOp c.cmd.word == k)
    some ((alGetD s.resvs i []).length * 65536 + b2n (decide (op 2 ≠ 0)) * 16 + min 8 (op 1))
  | some (.rtr, 0), 0x9C => some ((s.now + s.rtr.offset) % 2 ^ 32)
  | some (.rtr, 0), 0xA0 => some ((s.now + s.rtr.offset) / 2 ^ 32 % 2 ^ 32)
  | _, _ => none

/-- A 32-bit BAR0 read by function `fn` (R44, R88, R94, R106): no side effect (R39); reserved offsets read zero. -/
def bar0Read (fn a : Nat) (s : State) : Word :=
  let w := a / 4 * 4
  match regSpec w with
  | none => 0
  | some r =>
    if pageLive (pageBase a) s && mayRead fn (pageBase a) (a % 0x1000) s then
      BitVec.ofNat 32 (maskWo r.fields ((liveReg w s).getD (rdW w s).toNat))
    else 0

/-- The byte at BAR0 offset `a` as the 32-bit register that covers it reads (R1019). -/
def bar0Byte (fn a : Nat) (s : State) : Byte := BitVec.ofNat 8 ((bar0Read fn a s).toNat / 256 ^ (a % 4))

/-- A BAR0 read of `size` bytes at offset `a` of any alignment and byte-enable pattern `be` (R1019): the offset and value of each enabled byte,
all at this moment. -/
def bar0ReadBytes (fn a size be : Nat) (s : State) : List (Nat × Byte) :=
  ((List.range size).filter (fun k => bitOf be k)).map (fun k => (a + k, bar0Byte fn (a + k) s))

/-- A 64-bit aligned 64-bit read: both registers at one moment, so that a _LO/_HI pair reads as one value (R38). -/
def bar0Read64 (fn a : Nat) (s : State) : BitVec 64 := bar0Read fn (a / 8 * 8 + 4) s ++ bar0Read fn (a / 8 * 8) s

end Sys2Proof.Machine
end

