-- ==== Sys2Proof/Machine/Dispatch.lean ====
section
/-! DEFINITION. The meaning of every command: one call per constructor. -/
namespace Sys2Proof.Machine

def exec (i : Instr) (s : State) : Host.Outcome State Fault Refusal :=
  match i with
  | .registerWrite fn off size v be => Sys2Proof.Machine.execRegisterWrite fn off size v be s
  | .bar0ReadTimeout fn a len => Sys2Proof.Machine.execBar0ReadTimeout fn a len s
  | .bar0WriteTimeout fn a => Sys2Proof.Machine.execBar0WriteTimeout fn a s
  | .pgLockSet fn p v => Sys2Proof.Machine.execPgLockSet fn p v s
  | .pgEvtClear fn p v => Sys2Proof.Machine.execPgEvtClear fn p v s
  | .pgEvtEnWrite fn p v => Sys2Proof.Machine.execPgEvtEnWrite fn p v s
  | .pgEvtRouteWrite fn p v => Sys2Proof.Machine.execPgEvtRouteWrite fn p v s
  | .notifyRodHeldSend p => Sys2Proof.Machine.execNotifyRodHeldSend p s
  | .pgErrFirstClear fn p v => Sys2Proof.Machine.execPgErrFirstClear fn p v s
  | .pgErrCntClr fn p v => Sys2Proof.Machine.execPgErrCntClr fn p v s
  | .pgOwnerWrite fn p => Sys2Proof.Machine.execPgOwnerWrite fn p s
  | .lifeNop fn a tag => Sys2Proof.Machine.execLifeNop fn a tag s
  | .lifeStart fn a tag => Sys2Proof.Machine.execLifeStart fn a tag s
  | .lifeDrain fn a tag dl => Sys2Proof.Machine.execLifeDrain fn a tag dl s
  | .lifeStop fn a tag => Sys2Proof.Machine.execLifeStop fn a tag s
  | .lifeClear fn a tag => Sys2Proof.Machine.execLifeClear fn a tag s
  | .lifeBadCmd fn a cmd tag => Sys2Proof.Machine.execLifeBadCmd fn a cmd tag s
  | .blockStartDone a ok code ab ba => Sys2Proof.Machine.execBlockStartDone a ok code ab ba s
  | .startAbortSafePoint a => Sys2Proof.Machine.execStartAbortSafePoint a s
  | .drainDone a => Sys2Proof.Machine.execDrainDone a s
  | .drainDeadlineExpiry a => Sys2Proof.Machine.execDrainDeadlineExpiry a s
  | .blockReachesOff a => Sys2Proof.Machine.execBlockReachesOff a s
  | .offSelftestFail a code => Sys2Proof.Machine.execOffSelftestFail a code s
  | .controlParityError p code detail loc x => Sys2Proof.Machine.execControlParityError p code detail loc x s
  | .islCmd fn j v mv => Sys2Proof.Machine.execIslCmd fn j v mv s
  | .ivrRampStart j mv => Sys2Proof.Machine.execIvrRampStart j mv s
  | .settled j mv => Sys2Proof.Machine.execSettled j mv s
  | .islCtlManualWrite fn j v => Sys2Proof.Machine.execIslCtlManualWrite fn j v s
  | .islFlagsVrFaultClear fn j v => Sys2Proof.Machine.execIslFlagsVrFaultClear fn j v s
  | .vrSlow j mv => Sys2Proof.Machine.execVrSlow j mv s
  | .vrUnder j mv => Sys2Proof.Machine.execVrUnder j mv s
  | .vrOver j mv => Sys2Proof.Machine.execVrOver j mv s
  | .paceWindowEnd rod beats clk vs => Sys2Proof.Machine.execPaceWindowEnd rod beats clk vs s
  | .islandStable j mv => Sys2Proof.Machine.execIslandStable j mv s
  | .calibrationPeriodic rod c => Sys2Proof.Machine.execCalibrationPeriodic rod c s
  | .calibrationDone rod c hold => Sys2Proof.Machine.execCalibrationDone rod c hold s
  | .calibrationTimeout rod c => Sys2Proof.Machine.execCalibrationTimeout rod c s
  | .calRetry rod c => Sys2Proof.Machine.execCalRetry rod c s
  | .chanRetrainDone rod c ok hold => Sys2Proof.Machine.execChanRetrainDone rod c ok hold s
  | .unitStart rod u hs => Sys2Proof.Machine.execUnitStart rod u hs s
  | .unitComplete rod num hs => Sys2Proof.Machine.execUnitComplete rod num hs s
  | .programEnded rod => Sys2Proof.Machine.execProgramEnded rod s
  | .ctlNop rod w => Sys2Proof.Machine.execCtlNop rod w s
  | .halt rod w => Sys2Proof.Machine.execHalt rod w s
  | .br rod w => Sys2Proof.Machine.execBr rod w s
  | .jr rod w => Sys2Proof.Machine.execJr rod w s
  | .call rod w => Sys2Proof.Machine.execCall rod w s
  | .isync rod w => Sys2Proof.Machine.execIsync rod w s
  | .evt rod w => Sys2Proof.Machine.execEvt rod w s
  | .lset rod w => Sys2Proof.Machine.execLset rod w s
  | .lbr rod w => Sys2Proof.Machine.execLbr rod w s
  | .lget rod w => Sys2Proof.Machine.execLget rod w s
  | .mov rod w => Sys2Proof.Machine.execMov rod w s
  | .add rod w => Sys2Proof.Machine.execAdd rod w s
  | .sub rod w => Sys2Proof.Machine.execSub rod w s
  | .mul rod w => Sys2Proof.Machine.execMul rod w s
  | .and rod w => Sys2Proof.Machine.execAnd rod w s
  | .or rod w => Sys2Proof.Machine.execOr rod w s
  | .xor rod w => Sys2Proof.Machine.execXor rod w s
  | .shl rod w => Sys2Proof.Machine.execShl rod w s
  | .shr rod w => Sys2Proof.Machine.execShr rod w s
  | .sra rod w => Sys2Proof.Machine.execSra rod w s
  | .min rod w => Sys2Proof.Machine.execMin rod w s
  | .max rod w => Sys2Proof.Machine.execMax rod w s
  | .movh rod w => Sys2Proof.Machine.execMovh rod w s
  | .scmp rod w => Sys2Proof.Machine.execScmp rod w s
  | .plog rod w => Sys2Proof.Machine.execPlog rod w s
  | .sld rod w => Sys2Proof.Machine.execSld rod w s
  | .sst rod w => Sys2Proof.Machine.execSst rod w s
  | .tok rod w => Sys2Proof.Machine.execTok rod w s
  | .tset rod w => Sys2Proof.Machine.execTset rod w s
  | .fence rod w => Sys2Proof.Machine.execFence rod w s
  | .delay rod w => Sys2Proof.Machine.execDelay rod w s
  | .time rod w => Sys2Proof.Machine.execTime rod w s
  | .wdog rod w => Sys2Proof.Machine.execWdog rod w s
  | .waitTimeout rod num => Sys2Proof.Machine.execWaitTimeout rod num s
  | .tokenStall rod => Sys2Proof.Machine.execTokenStall rod s
  | .seqStart fn rod v => Sys2Proof.Machine.execSeqStart fn rod v s
  | .seqAbort fn rod v => Sys2Proof.Machine.execSeqAbort fn rod v s
  | .seqTsig fn rod v => Sys2Proof.Machine.execSeqTsig fn rod v s
  | .dbgPause fn rod v => Sys2Proof.Machine.execDbgPause fn rod v s
  | .dbgResume fn rod v => Sys2Proof.Machine.execDbgResume fn rod v s
  | .dbgStep fn rod v => Sys2Proof.Machine.execDbgStep fn rod v s
  | .dbgDataCommit fn rod v => Sys2Proof.Machine.execDbgDataCommit fn rod v s
  | .srun rod w => Sys2Proof.Machine.execSrun rod w s
  | .scred rod w => Sys2Proof.Machine.execScred rod w s
  | .sflush rod w => Sys2Proof.Machine.execSflush rod w s
  | .sstat rod w => Sys2Proof.Machine.execSstat rod w s
  | .owld rod w => Sys2Proof.Machine.execOwld rod w s
  | .oswap rod w => Sys2Proof.Machine.execOswap rod w s
  | .omm rod w => Sys2Proof.Machine.execOmm rod w s
  | .gmv rod w => Sys2Proof.Machine.execGmv rod w s
  | .vld rod w => Sys2Proof.Machine.execVld rod w s
  | .vst rod w => Sys2Proof.Machine.execVst rod w s
  | .vop rod w => Sys2Proof.Machine.execVop rod w s
  | .vfn rod w => Sys2Proof.Machine.execVfn rod w s
  | .vred rod w => Sys2Proof.Machine.execVred rod w s
  | .vcvt rod w => Sys2Proof.Machine.execVcvt rod w s
  | .vacc rod w => Sys2Proof.Machine.execVacc rod w s
  | .vtos rod w => Sys2Proof.Machine.execVtos rod w s
  | .vcmp rod w => Sys2Proof.Machine.execVcmp rod w s
  | .vlse rod w => Sys2Proof.Machine.execVlse rod w s
  | .msend rod w => Sys2Proof.Machine.execMsend rod w s
  | .mrecv rod w => Sys2Proof.Machine.execMrecv rod w s
  | .mpoll rod w => Sys2Proof.Machine.execMpoll rod w s
  | .mflush rod w => Sys2Proof.Machine.execMflush rod w s
  | .kapp rod w hs => Sys2Proof.Machine.execKapp rod w hs s
  | .kattn rod w hs => Sys2Proof.Machine.execKattn rod w hs s
  | .kring rod w hs => Sys2Proof.Machine.execKring rod w hs s
  | .kstat rod w hs => Sys2Proof.Machine.execKstat rod w hs s
  | .kringResume rod num hs => Sys2Proof.Machine.execKringResume rod num hs s
  | .beadRequest id => Sys2Proof.Machine.execBeadRequest id s
  | .beadFillDone rod q crc errs hdr other => Sys2Proof.Machine.execBeadFillDone rod q crc errs hdr other s
  | .beadWback fn rod v => Sys2Proof.Machine.execBeadWback fn rod v s
  | .beadWbackDone rod => Sys2Proof.Machine.execBeadWbackDone rod s
  | .beadRefresh rod k => Sys2Proof.Machine.execBeadRefresh rod k s
  | .patrolScrub rod errs => Sys2Proof.Machine.execPatrolScrub rod errs s
  | .asWindowEnd rod => Sys2Proof.Machine.execAsWindowEnd rod s
  | .recodeSweepDone rod r => Sys2Proof.Machine.execRecodeSweepDone rod r s
  | .beadRclassWrite fn rod j v => Sys2Proof.Machine.execBeadRclassWrite fn rod j v s
  | .beadCodeCtlWrite fn rod v => Sys2Proof.Machine.execBeadCodeCtlWrite fn rod v s
  | .zeroDone rod => Sys2Proof.Machine.execZeroDone rod s
  | .streamRequestIssue rod k => Sys2Proof.Machine.execStreamRequestIssue rod k s
  | .streamPageResponse id late => Sys2Proof.Machine.execStreamPageResponse id late s
  | .streamEnd rod k => Sys2Proof.Machine.execStreamEnd rod k s
  | .strmCtlWrite fn rod v => Sys2Proof.Machine.execStrmCtlWrite fn rod v s
  | .framedWordArrival q prod w mask => Sys2Proof.Machine.execFramedWordArrival q prod w mask s
  | .xlatWalkDone rod va hs => Sys2Proof.Machine.execXlatWalkDone rod va hs s
  | .faultRecordWrite rod ok => Sys2Proof.Machine.execFaultRecordWrite rod ok s
  | .xlatPcomp fn rod v => Sys2Proof.Machine.execXlatPcomp fn rod v s
  | .pagerComplete rod => Sys2Proof.Machine.execPagerComplete rod s
  | .pagerInvalidate rod => Sys2Proof.Machine.execPagerInvalidate rod s
  | .pagerTimeout rod fid => Sys2Proof.Machine.execPagerTimeout rod fid s
  | .xlatInv fn rod v => Sys2Proof.Machine.execXlatInv fn rod v s
  | .invDone n => Sys2Proof.Machine.execInvDone n s
  | .xlatPagerWrite fn rod v => Sys2Proof.Machine.execXlatPagerWrite fn rod v s
  | .tierPause fn rod v => Sys2Proof.Machine.execTierPause fn rod v s
  | .tierEnable fn rod v => Sys2Proof.Machine.execTierEnable fn rod v s
  | .tierWindowEnd n hs => Sys2Proof.Machine.execTierWindowEnd n hs s
  | .migrationInvalidated n ok data => Sys2Proof.Machine.execMigrationInvalidated n ok data s
  | .migrationCopyDone n cur hs => Sys2Proof.Machine.execMigrationCopyDone n cur hs s
  | .gridPacketHop cls src dst at_ pick cred data mask relay => Sys2Proof.Machine.execGridPacketHop cls src dst at_ pick cred data mask relay s
  | .herdReset fn n v => Sys2Proof.Machine.execHerdReset fn n v s
  | .herdResize fn n v => Sys2Proof.Machine.execHerdResize fn n v s
  | .resized n => Sys2Proof.Machine.execResized n s
  | .herdShareWrite fn n r v => Sys2Proof.Machine.execHerdShareWrite fn n r v s
  | .reservation rod num => Sys2Proof.Machine.execReservation rod num s
  | .grant t ch => Sys2Proof.Machine.execGrant t ch s
  | .reservationRetry rod num => Sys2Proof.Machine.execReservationRetry rod num s
  | .itemAnswer rod num => Sys2Proof.Machine.execItemAnswer rod num s
  | .resvTimeout rod num => Sys2Proof.Machine.execResvTimeout rod num s
  | .msgChBufWrite fn rod k v => Sys2Proof.Machine.execMsgChBufWrite fn rod k v s
  | .msgChFlush fn rod k v => Sys2Proof.Machine.execMsgChFlush fn rod k v s
  | .probeTimer rod num => Sys2Proof.Machine.execProbeTimer rod num s
  | .probe k => Sys2Proof.Machine.execProbe k s
  | .confirmation k => Sys2Proof.Machine.execConfirmation k s
  | .brgFlitReceived n d seq ack vc errs ctrl op => Sys2Proof.Machine.execBrgFlitReceived n d seq ack vc errs ctrl op s
  | .brgCredit n d ack c => Sys2Proof.Machine.execBrgCredit n d ack c s
  | .brgNak n d seq ack => Sys2Proof.Machine.execBrgNak n d seq ack s
  | .carry n d seq ack home first count => Sys2Proof.Machine.execCarry n d seq ack home first count s
  | .swap n d seq ack dir lg l => Sys2Proof.Machine.execSwap n d seq ack dir lg l s
  | .brgWidth n d seq ack w ab ba => Sys2Proof.Machine.execBrgWidth n d seq ack w ab ba s
  | .brgDrainEnd n d seq ack => Sys2Proof.Machine.execBrgDrainEnd n d seq ack s
  | .brgCreditTimer n d => Sys2Proof.Machine.execBrgCreditTimer n d s
  | .brgReplayTimeout n d => Sys2Proof.Machine.execBrgReplayTimeout n d s
  | .laneErrorRate n d l w1s w1ms fails => Sys2Proof.Machine.execLaneErrorRate n d l w1s w1ms fails s
  | .spareTrained n d l ok => Sys2Proof.Machine.execSpareTrained n d l ok s
  | .linkRetrainDone n ab ba => Sys2Proof.Machine.execLinkRetrainDone n ab ba s
  | .groupReturn n => Sys2Proof.Machine.execGroupReturn n s
  | .linkDrainEnd n => Sys2Proof.Machine.execLinkDrainEnd n s
  | .brgCreditTimeout n d vc => Sys2Proof.Machine.execBrgCreditTimeout n d vc s
  | .brgCtlWrite fn n v => Sys2Proof.Machine.execBrgCtlWrite fn n v s
  | .rlFlitReceived p seq ack vc cvc cn errs cws ctrl op => Sys2Proof.Machine.execRlFlitReceived p seq ack vc cvc cn errs cws ctrl op s
  | .rlNak p seq ack => Sys2Proof.Machine.execRlNak p seq ack s
  | .hello p serial node epoch port valid host pri kserial => Sys2Proof.Machine.execHello p serial node epoch port valid host pri kserial s
  | .rlWidth p seq ack w rx tx => Sys2Proof.Machine.execRlWidth p seq ack w rx tx s
  | .rlDrainEnd p seq ack => Sys2Proof.Machine.execRlDrainEnd p seq ack s
  | .helloTimer p => Sys2Proof.Machine.execHelloTimer p s
  | .rlIdleTimer p => Sys2Proof.Machine.execRlIdleTimer p s
  | .rlReplayTimeout p => Sys2Proof.Machine.execRlReplayTimeout p s
  | .rlPartnerSignal p => Sys2Proof.Machine.execRlPartnerSignal p s
  | .rlTrainDone p rx tx => Sys2Proof.Machine.execRlTrainDone p rx tx s
  | .rlAlignDone p => Sys2Proof.Machine.execRlAlignDone p s
  | .rlLaneWindow p l corr uncorr => Sys2Proof.Machine.execRlLaneWindow p l corr uncorr s
  | .rlLaneLockLoss p l => Sys2Proof.Machine.execRlLaneLockLoss p l s
  | .rlRetrainDone p => Sys2Proof.Machine.execRlRetrainDone p s
  | .rlDrainDone p => Sys2Proof.Machine.execRlDrainDone p s
  | .rlCreditTimeout p vc => Sys2Proof.Machine.execRlCreditTimeout p vc s
  | .rlpCtlWrite fn p v => Sys2Proof.Machine.execRlpCtlWrite fn p v s
  | .rlPacketArrival p dst src hops age cls len us serial mseq esc fld sr bad body => Sys2Proof.Machine.execRlPacketArrival p dst src hops age cls len us serial mseq esc fld sr bad body s
  | .escapeTimer k => Sys2Proof.Machine.execEscapeTimer k s
  | .claim inp serial seq host pri kserial => Sys2Proof.Machine.execClaim inp serial seq host pri kserial s
  | .claimTimer => Sys2Proof.Machine.execClaimTimer s
  | .heartbeat inp serial seq host pri kserial node ftime => Sys2Proof.Machine.execHeartbeat inp serial seq host pri kserial node ftime s
  | .heartbeatTimer => Sys2Proof.Machine.execHeartbeatTimer s
  | .fmLost => Sys2Proof.Machine.execFmLost s
  | .topoReq src seq => Sys2Proof.Machine.execTopoReq src seq s
  | .topoRep serial valid node epoch links => Sys2Proof.Machine.execTopoRep serial valid node epoch links s
  | .assign src seq node epoch => Sys2Proof.Machine.execAssign src seq node epoch s
  | .assignAck serial writes => Sys2Proof.Machine.execAssignAck serial writes s
  | .routeWrite src seq table first entries => Sys2Proof.Machine.execRouteWrite src seq table first entries s
  | .routeAck src seq => Sys2Proof.Machine.execRouteAck src seq s
  | .announce inp serial seq leave node epoch => Sys2Proof.Machine.execAnnounce inp serial seq leave node epoch s
  | .portEvent serial port phase pserial pport writes => Sys2Proof.Machine.execPortEvent serial port phase pserial pport writes s
  | .leaveReq serial node epoch writes => Sys2Proof.Machine.execLeaveReq serial node epoch writes s
  | .managerRepeatTimer serial => Sys2Proof.Machine.execManagerRepeatTimer serial s
  | .topoTimeout serial writes => Sys2Proof.Machine.execTopoTimeout serial writes s
  | .e2eLeave fn v => Sys2Proof.Machine.execE2eLeave fn v s
  | .rtrHostfmClaim fn v => Sys2Proof.Machine.execRtrHostfmClaim fn v s
  | .rtrHostfmRelease fn v => Sys2Proof.Machine.execRtrHostfmRelease fn v s
  | .e2eRequest => Sys2Proof.Machine.execE2eRequest s
  | .e2eResponse => Sys2Proof.Machine.execE2eResponse s
  | .e2eAttemptTimer tag => Sys2Proof.Machine.execE2eAttemptTimer tag s
  | .e2ePendingTimer src tag => Sys2Proof.Machine.execE2ePendingTimer src tag s
  | .e2ePendingGiveup tag => Sys2Proof.Machine.execE2ePendingGiveup tag s
  | .dupEntryExpiry src tag => Sys2Proof.Machine.execDupEntryExpiry src tag s
  | .quietEnd => Sys2Proof.Machine.execQuietEnd s
  | .kvmOpgo fn v => Sys2Proof.Machine.execKvmOpgo fn v s
  | .kvmOpen => Sys2Proof.Machine.execKvmOpen s
  | .kvmClose => Sys2Proof.Machine.execKvmClose s
  | .setBudget => Sys2Proof.Machine.execSetBudget s
  | .kvmMove => Sys2Proof.Machine.execKvmMove s
  | .kvmPin => Sys2Proof.Machine.execKvmPin s
  | .kvmBadOp => Sys2Proof.Machine.execKvmBadOp s
  | .rebalance n => Sys2Proof.Machine.execRebalance n s
  | .moveCopyDone k => Sys2Proof.Machine.execMoveCopyDone k s
  | .pairMoved k hs => Sys2Proof.Machine.execPairMoved k hs s
  | .moveFail k err => Sys2Proof.Machine.execMoveFail k err s
  | .movedExpiry rod hn => Sys2Proof.Machine.execMovedExpiry rod hn s
  | .kvPoolCfgWrite fn rod r v => Sys2Proof.Machine.execKvPoolCfgWrite fn rod r v s
  | .videoOpen v n k => Sys2Proof.Machine.execVideoOpen v n k s
  | .videoClose v n k => Sys2Proof.Machine.execVideoClose v n k s
  | .decode v d hs => Sys2Proof.Machine.execDecode v d hs s
  | .encode v key e hs => Sys2Proof.Machine.execEncode v key e hs s
  | .endOfStream v n k hs => Sys2Proof.Machine.execEndOfStream v n k hs s
  | .videoJobDone v key hs => Sys2Proof.Machine.execVideoJobDone v key hs s
  | .sliceNote v slice rows g data hs => Sys2Proof.Machine.execSliceNote v slice rows g data hs s
  | .tensorizeRow v key vals bad hs => Sys2Proof.Machine.execTensorizeRow v key vals bad hs s
  | .sqDoorbell fn off v => Sys2Proof.Machine.execSqDoorbell fn off v s
  | .cqDoorbell fn off v => Sys2Proof.Machine.execCqDoorbell fn off v s
  | .entryFetch n q w0 sid body bad err => Sys2Proof.Machine.execEntryFetch n q w0 sid body bad err s
  | .entryNop n q k => Sys2Proof.Machine.execEntryNop n q k s
  | .deliver n q k => Sys2Proof.Machine.execDeliver n q k s
  | .copy n q k data bad fail hs => Sys2Proof.Machine.execCopy n q k data bad fail hs s
  | .load n q k data bad fail => Sys2Proof.Machine.execLoad n q k data bad fail s
  | .entryKvm n q k => Sys2Proof.Machine.execEntryKvm n q k s
  | .entryVideo n q k => Sys2Proof.Machine.execEntryVideo n q k s
  | .entryCompletion n q err => Sys2Proof.Machine.execEntryCompletion n q err s
  | .imodTimer n q => Sys2Proof.Machine.execImodTimer n q s
  | .hqFlush fn n q v hdrs => Sys2Proof.Machine.execHqFlush fn n q v hdrs s
  | .hqCfgWrite fn n q v => Sys2Proof.Machine.execHqCfgWrite fn n q v s
  | .hqDestWrite fn n q v => Sys2Proof.Machine.execHqDestWrite fn n q v s
  | .bar2Read fn off len hs => Sys2Proof.Machine.execBar2Read fn off len hs s
  | .bar2Write fn off data ep hs => Sys2Proof.Machine.execBar2Write fn off data ep hs s
  | .atsInvalidate fn pasid page count => Sys2Proof.Machine.execAtsInvalidate fn pasid page count s
  | .translationCompletion fn pasid page rd wr frame => Sys2Proof.Machine.execTranslationCompletion fn pasid page rd wr frame s
  | .prgResponse fn pasid page code => Sys2Proof.Machine.execPrgResponse fn pasid page code s
  | .hostCompletion id data ep err => Sys2Proof.Machine.execHostCompletion id data ep err s
  | .completionTimeout id => Sys2Proof.Machine.execCompletionTimeout id s
  | .configRequest fn w => Sys2Proof.Machine.execConfigRequest fn w s
  | .rrsDeadline => Sys2Proof.Machine.execRrsDeadline s
  | .flr fn => Sys2Proof.Machine.execFlr fn s
  | .vfEnableClear => Sys2Proof.Machine.execVfEnableClear s
  | .hotReset => Sys2Proof.Machine.execHotReset s
  | .powerStateChange fn d3 => Sys2Proof.Machine.execPowerStateChange fn d3 s
  | .busMasterChange fn on => Sys2Proof.Machine.execBusMasterChange fn on s
  | .resizableBarWrite size => Sys2Proof.Machine.execResizableBarWrite size s
  | .memorySpaceDisable fn => Sys2Proof.Machine.execMemorySpaceDisable fn s
  | .linkUp rate width flit => Sys2Proof.Machine.execLinkUp rate width flit s
  | .mbCmd fn f v => Sys2Proof.Machine.execMbCmd fn f v s
  | .mbNop => Sys2Proof.Machine.execMbNop s
  | .getInfo => Sys2Proof.Machine.execGetInfo s
  | .sensorRead => Sys2Proof.Machine.execSensorRead s
  | .logRead => Sys2Proof.Machine.execLogRead s
  | .logWrite => Sys2Proof.Machine.execLogWrite s
  | .logAckLost => Sys2Proof.Machine.execLogAckLost s
  | .fwBegin sig ok => Sys2Proof.Machine.execFwBegin sig ok s
  | .fwData ok => Sys2Proof.Machine.execFwData ok s
  | .fwVerify ok => Sys2Proof.Machine.execFwVerify ok s
  | .fwActivate ok => Sys2Proof.Machine.execFwActivate ok s
  | .fwAbort => Sys2Proof.Machine.execFwAbort s
  | .licInstall sig ok => Sys2Proof.Machine.execLicInstall sig ok s
  | .licRead => Sys2Proof.Machine.execLicRead s
  | .unlock => Sys2Proof.Machine.execUnlock s
  | .configGet => Sys2Proof.Machine.execConfigGet s
  | .configSet ok => Sys2Proof.Machine.execConfigSet ok s
  | .fmStatus => Sys2Proof.Machine.execFmStatus s
  | .fmPlan ok => Sys2Proof.Machine.execFmPlan ok s
  | .fmNodes => Sys2Proof.Machine.execFmNodes s
  | .defectRead => Sys2Proof.Machine.execDefectRead s
  | .mbBadOpcode => Sys2Proof.Machine.execMbBadOpcode s
  | .mctpMessage port type vendor op tag len data => Sys2Proof.Machine.execMctpMessage port type vendor op tag len data s
  | .setEndpointId port eid => Sys2Proof.Machine.execSetEndpointId port eid s
  | .getEndpointId port => Sys2Proof.Machine.execGetEndpointId port s
  | .getMctpVersionSupport port => Sys2Proof.Machine.execGetMctpVersionSupport port s
  | .getMessageTypeSupport port => Sys2Proof.Machine.execGetMessageTypeSupport port s
  | .gettid port => Sys2Proof.Machine.execGettid port s
  | .getpldmversion port type => Sys2Proof.Machine.execGetpldmversion port type s
  | .getpldmtypes port => Sys2Proof.Machine.execGetpldmtypes port s
  | .getpldmcommands port type => Sys2Proof.Machine.execGetpldmcommands port type s
  | .getpdrrepositoryinfo port => Sys2Proof.Machine.execGetpdrrepositoryinfo port s
  | .getpdr port handle => Sys2Proof.Machine.execGetpdr port handle s
  | .getsensorreading port id => Sys2Proof.Machine.execGetsensorreading port id s
  | .getstatesensorreadings port id => Sys2Proof.Machine.execGetstatesensorreadings port id s
  | .setnumericeffectervalue port id watts => Sys2Proof.Machine.execSetnumericeffectervalue port id watts s
  | .getnumericeffectervalue port id => Sys2Proof.Machine.execGetnumericeffectervalue port id s
  | .seteventreceiver port eid => Sys2Proof.Machine.execSeteventreceiver port eid s
  | .pollforplatformeventmessage port => Sys2Proof.Machine.execPollforplatformeventmessage port s
  | .querydeviceidentifiers port => Sys2Proof.Machine.execQuerydeviceidentifiers port s
  | .getfirmwareparameters port => Sys2Proof.Machine.execGetfirmwareparameters port s
  | .requestupdate port ok => Sys2Proof.Machine.execRequestupdate port ok s
  | .passcomponenttable port => Sys2Proof.Machine.execPasscomponenttable port s
  | .updatecomponent port size => Sys2Proof.Machine.execUpdatecomponent port size s
  | .activatefirmware port self ok => Sys2Proof.Machine.execActivatefirmware port self ok s
  | .getstatus port => Sys2Proof.Machine.execGetstatus port s
  | .cancelupdate port => Sys2Proof.Machine.execCancelupdate port s
  | .getMeasurements port k sign => Sys2Proof.Machine.execGetMeasurements port k sign s
  | .spdmRequest port code slot => Sys2Proof.Machine.execSpdmRequest port code slot s
  | .i3cDynamicAddress addr => Sys2Proof.Machine.execI3cDynamicAddress addr s
  | .rstdaa => Sys2Proof.Machine.execRstdaa s
  | .updateSessionIdle => Sys2Proof.Machine.execUpdateSessionIdle s
  | .trialCommit => Sys2Proof.Machine.execTrialCommit s
  | .mgsWdog ue => Sys2Proof.Machine.execMgsWdog ue s
  | .mgsRestartRun sigA sigB => Sys2Proof.Machine.execMgsRestartRun sigA sigB s
  | .tallyPersist ok => Sys2Proof.Machine.execTallyPersist ok s
  | .flashVerify k pass => Sys2Proof.Machine.execFlashVerify k pass s
  | .xspiTimeout => Sys2Proof.Machine.execXspiTimeout s
  | .sensorRefresh rs ok => Sys2Proof.Machine.execSensorRefresh rs ok s
  | .ceilingRelax j => Sys2Proof.Machine.execCeilingRelax j s
  | .powerMeterSample mw => Sys2Proof.Machine.execPowerMeterSample mw s
  | .policyPlan volts miss widths weights => Sys2Proof.Machine.execPolicyPlan volts miss widths weights s
  | .estimatorFit pows pkg div confs => Sys2Proof.Machine.execEstimatorFit pows pkg div confs s
  | .quietSlice => Sys2Proof.Machine.execQuietSlice s
  | .quietSliceEnd => Sys2Proof.Machine.execQuietSliceEnd s
  | .hardwareTrip id ok => Sys2Proof.Machine.execHardwareTrip id ok s
  | .shutdownLog ok => Sys2Proof.Machine.execShutdownLog ok s
  | .shutdownPowerOff => Sys2Proof.Machine.execShutdownPowerOff s
  | .thmShutClear fn v => Sys2Proof.Machine.execThmShutClear fn v s
  | .thmCapWrite fn v => Sys2Proof.Machine.execThmCapWrite fn v s
  | .thmThresholdWrite fn c sh v => Sys2Proof.Machine.execThmThresholdWrite fn c sh v s
  | .senseTmaxClr fn rod v => Sys2Proof.Machine.execSenseTmaxClr fn rod v s
  | .sensePaceMmClr fn rod v => Sys2Proof.Machine.execSensePaceMmClr fn rod v s
  | .stagePower => Sys2Proof.Machine.execStagePower s
  | .stageRom ok => Sys2Proof.Machine.execStageRom ok s
  | .stageImage sigA sigB => Sys2Proof.Machine.execStageImage sigA sigB s
  | .stageMgs flash => Sys2Proof.Machine.execStageMgs flash s
  | .stageSense rs ok => Sys2Proof.Machine.execStageSense rs ok s
  | .stageIslands => Sys2Proof.Machine.execStageIslands s
  | .stageLinks lanes => Sys2Proof.Machine.execStageLinks lanes s
  | .stageRodTest bad => Sys2Proof.Machine.execStageRodTest bad s
  | .stageChecker bad => Sys2Proof.Machine.execStageChecker bad s
  | .stageRodMap => Sys2Proof.Machine.execStageRodMap s
  | .stageChanTrain bad holds => Sys2Proof.Machine.execStageChanTrain bad holds s
  | .stageSpadTest bad => Sys2Proof.Machine.execStageSpadTest bad s
  | .stageBeadTest bad => Sys2Proof.Machine.execStageBeadTest bad s
  | .stageRetire => Sys2Proof.Machine.execStageRetire s
  | .stageZero => Sys2Proof.Machine.execStageZero s
  | .stageLaneTest pass => Sys2Proof.Machine.execStageLaneTest pass s
  | .stageGrid checker chans holds spads march => Sys2Proof.Machine.execStageGrid checker chans holds spads march s
  | .stageLicence sig => Sys2Proof.Machine.execStageLicence sig s
  | .stagePcie => Sys2Proof.Machine.execStagePcie s
  | .stageRl => Sys2Proof.Machine.execStageRl s
  | .stageJudge => Sys2Proof.Machine.execStageJudge s
  | .stageService => Sys2Proof.Machine.execStageService s
  | .stageOverrun => Sys2Proof.Machine.execStageOverrun s
  | .coldResetAssert rail => Sys2Proof.Machine.execColdResetAssert rail s
  | .coldResetEnd i2ca recov test => Sys2Proof.Machine.execColdResetEnd i2ca recov test s
  | .perstNAssert => Sys2Proof.Machine.execPerstNAssert s
  | .perstNDeassert => Sys2Proof.Machine.execPerstNDeassert s
  | .pwrWarnFall => Sys2Proof.Machine.execPwrWarnFall s
  | .pwrWarnRise => Sys2Proof.Machine.execPwrWarnRise s
  | .railOot k mv => Sys2Proof.Machine.execRailOot k mv s
  | .railOvervoltage k mv => Sys2Proof.Machine.execRailOvervoltage k mv s
  | .rlclkLoss c => Sys2Proof.Machine.execRlclkLoss c s
  | .extest ic pins din => Sys2Proof.Machine.execExtest ic pins din s
  | .idcode ic => Sys2Proof.Machine.execIdcode ic s
  | .samplePreload ic pins din => Sys2Proof.Machine.execSamplePreload ic pins din s
  | .extestPulse ic pins din => Sys2Proof.Machine.execExtestPulse ic pins din s
  | .extestTrain ic pins din => Sys2Proof.Machine.execExtestTrain ic pins din s
  | .clamp ic => Sys2Proof.Machine.execClamp ic s
  | .highz ic => Sys2Proof.Machine.execHighz ic s
  | .ccrAccess ic din => Sys2Proof.Machine.execCcrAccess ic din s
  | .dieAccess ic ins cap => Sys2Proof.Machine.execDieAccess ic ins cap s
  | .ijtag ic d what raw => Sys2Proof.Machine.execIjtag ic d what raw s
  | .tapTestStat ic => Sys2Proof.Machine.execTapTestStat ic s
  | .tapBypass ic code => Sys2Proof.Machine.execTapBypass ic code s
  | .islandPwr j on => Sys2Proof.Machine.execIslandPwr j on s
  | .laneMargin d kind k width height ladder => Sys2Proof.Machine.execLaneMargin d kind k width height ladder s
  | .rodLogicBist p pass => Sys2Proof.Machine.execRodLogicBist p pass s
  | .beadArrayMarch m p fails => Sys2Proof.Machine.execBeadArrayMarch m p fails s
  | .testLogicReset => Sys2Proof.Machine.execTestLogicReset s
  | .brgLaneLockLoss n d l => Sys2Proof.Machine.execBrgLaneLockLoss n d l s
  | .pcieLinkChange rate width flit l1 => Sys2Proof.Machine.execPcieLinkChange rate width flit l1 s
  | .msixVectorUnmask fn vec addr data mask => Sys2Proof.Machine.execMsixVectorUnmask fn vec addr data mask s
  | .requestfirmwaredataResponse port off data sig ok => Sys2Proof.Machine.execRequestfirmwaredataResponse port off data sig ok s
  | .videoJobStart v n k => Sys2Proof.Machine.execVideoJobStart v n k s
  | .marginRunEnd kind k => Sys2Proof.Machine.execMarginRunEnd kind k s

end Sys2Proof.Machine
end

