-- ==== Sys2Proof/Safety.lean ====
section
/-! DEFINITION. What a safe run is: every step goes on. -/
namespace Sys2Proof.Machine

/-- Canonical form of a sparse map whose unlisted keys read as `d k`: keys strictly rising, no listed value equal to what an unlisted key
reads as. -/
abbrev canonical {α : Type} [DecidableEq α] (d : Nat → α) (m : List (Nat × α)) : Prop :=
  (m.map Prod.fst).Pairwise (· < ·) ∧ ∀ e ∈ m, e.2 ≠ d e.1

/-- Every addressed store of the block is in canonical form: registers, bead memory, scratchpads, accumulators and vector registers. -/
abbrev Memory.wf (s : State) : Prop :=
  canonical coldVal s.regs ∧ canonical (fun _ => (0 : Byte)) s.bead ∧ canonical (fun _ => (0 : Byte)) s.spad
    ∧ canonical (fun _ => (0 : Word)) s.acc ∧ canonical (fun _ => (0 : Word)) s.vreg

/-- The outcome is a next state. -/
def isNext {φ ρ : Type} : Host.Outcome State φ ρ → Bool
  | .next _ => true
  | .fault _ => false
  | .refused _ => false

/-- `k` steps from `s` all answer a next state. -/
def safeFor : Nat → State → Prop
  | 0, _ => True
  | k + 1, s => match step s with
    | .next t => safeFor k t
    | .fault _ => False
    | .refused _ => False

/-! ### Terms of the statements -/

/-- A write by function `fn` to the register at `a` reaches its page: the function is awake, the register exists, its page answers, and the
function owns it (R7, R28, R88, R106, R811). -/
abbrev reaches (fn a : Nat) (s : State) : Prop :=
  (fnOf fn s).d3 = false ∧ (regSpec a).isSome = true ∧ pageLive (pageBase a) s = true ∧ owns fn (pageBase a) s = true

/-- The mailbox request that MGS takes now, which passes the checks of its opcode (R820, R1024). -/
abbrev served (r : MbReq) (op : Nat) (s : State) : Prop :=
  mgsServes s = true ∧ mbNext s = some r ∧ r.op = op ∧ mbCheck r s = none

/-- A request that wrote flash was answered: no program or erase has failed in a row any more (R829). -/
def flashAnswered (s : State) : State := setMgs { s.mgs with xspiRun := 0 } s

/-- MGS has taken a request. -/
def taken (r : MbReq) (s : State) : State := setMgs { s.mgs with queue := s.mgs.queue.erase r, rr := r.agent } s

/-- MGS firmware runs, and the message came by the VDM or the I3C port. -/
abbrev answers (port : Nat) (s : State) : Prop := mstate s = 1 ∧ (port = 1 ∨ port = 2)

/-- A sequencer after the issue of `w`: its waits consumed (R174), the issue counted, a single step and a stall over. -/
def issuedSeq (w : CmdWord) (q : SeqSt) : SeqSt :=
  { consume w q with num := (consume w q).num + 1, stepReq := false, bpTaken := false, stall := none }

/-- A sequencer after the signal of `w`, where it has one: its token's counter is one higher (R175). -/
def signalled (w : CmdWord) (q : SeqSt) : SeqSt :=
  if cwSV w then { q with tok := listSet q.tok (cwSG w) (tokAt q (cwSG w) + 1) } else q

/-- The state in which an issued control command acts. -/
def afterIssue (i : Nat) (w : CmdWord) (s : State) : State := countIssue i (setSeq i (consume w (seqOf i s)) s)

/-- The registers that the issue of a control command writes: SEQ_PC, SEQ_STALL and SEQ_COUNT. -/
def issueRegs (i : Nat) : List Nat := [seqP i + 0x90, seqP i + 0xC8, seqP i + 0xD0, seqP i + 0xD4]

/-- The signal of `w`, where it has one, does not pass the limit of 255 (R175). -/
abbrev signalFits (w : CmdWord) (q : SeqSt) : Prop := cwSV w = true → tokAt (consume w q) (cwSG w) < 255

/-- What the control commands that only compute leave in the sequencer (Table 4-6): the destination takes its value. -/
def controlResults (i : Nat) (w : CmdWord) (q : SeqSt) : List (Instr × SeqSt) :=
  let a := sAt q (cwA w)
  let x := opX w (sAt q (cwB w))
  let n := issuedSeq w q
  let put (v : DWord) (p : Bool) : SeqSt := setS n (cwD w) ⟨v, p⟩
  [(.ctlNop i w, n), (.isync i w, n),
   (.mov i w, put x.v x.p),
   (.add i w, put (a.v + x.v) (a.p || x.p)), (.sub i w, put (a.v - x.v) (a.p || x.p)), (.mul i w, put (a.v * x.v) (a.p || x.p)),
   (.and i w, put (a.v &&& x.v) (a.p || x.p)), (.or i w, put (a.v ||| x.v) (a.p || x.p)), (.xor i w, put (a.v ^^^ x.v) (a.p || x.p)),
   (.shl i w, put (a.v <<< (x.v.toNat % 64)) (a.p || x.p)), (.shr i w, put (a.v >>> (x.v.toNat % 64)) (a.p || x.p)),
   (.sra i w, put (a.v.sshiftRight (x.v.toNat % 64)) (a.p || x.p)),
   (.min i w, put (if a.v.toInt ≤ x.v.toInt then a.v else x.v) (a.p || x.p)),
   (.max i w, put (if a.v.toInt ≤ x.v.toInt then x.v else a.v) (a.p || x.p)),
   (.movh i w, put (BitVec.ofNat 64 ((sAt q (cwD w)).v.toNat % 2 ^ 48 + cwImm w % 65536 * 2 ^ 48)) (sAt q (cwD w)).p),
   (.lset i w, { n with l := listSet n.l (cwD w) (BitVec.ofNat 32 (if bitOf (cwMod w) 0 then a.v.toNat else cwImm w)) }),
   (.lget i w, put (BitVec.ofNat 64 (lAt q (cwA w))) false),
   (.scmp i w, setP n (cwD w) (scmp (bitsOf (cwMod w) 4 1) a.v x.v)),
   (.plog i w, setP n (cwD w) (if bitOf (cwMod w) 3 then bitOf (cwMod w) 4
      else plog (bitsOf (cwMod w) 2 1) (pAt q (cwA w)) (pAt q (cwB w))))]

/-- What the branching control commands leave in the sequencer, and the next PC (R183, R184). -/
def controlJumps (i : Nat) (w : CmdWord) (pc : Nat) (q : SeqSt) : List (Instr × SeqSt × Nat) :=
  let n := issuedSeq w q
  let l := lAt q (cwD w)
  let t := (branchTarget pc w).toNat
  [(.br i w, n, t), (.jr i w, n, (sAt q (cwA w)).v.toNat), (.call i w, setS n (cwD w) ⟨BitVec.ofNat 64 (pc + 1), false⟩, t),
   (.lbr i w, if l = 0 then n else setL n (cwD w) (l - 1), if 1 < l then t else pc + 1)]

/-- The commands of a rod's units (Table 4-5): command, unit, what holds the head back, and what the unit does at start. -/
def unitCommands (i : Nat) (w : CmdWord) (hs : List (List (Option Nat))) : List (Instr × Nat × (QCmd → State → Bool) × (QCmd → State → State)) :=
  [(.srun i w, 1, strmFree i, strmRun i), (.scred i w, 1, strmFree i, strmRun i), (.sflush i w, 1, strmFree i, strmRun i),
   (.sstat i w, 1, strmFree i, strmRun i), (.owld i w, 2, oxFree i, oxRun i), (.oswap i w, 2, oxFree i, oxRun i), (.omm i w, 2, oxFree i, oxRun i),
   (.gmv i w, 3, gmvFree i, gmvRun i),
   (.vld i w, 4, vecFree i, vecRun i), (.vst i w, 4, vecFree i, vecRun i), (.vop i w, 4, vecFree i, vecRun i), (.vfn i w, 4, vecFree i, vecRun i),
   (.vred i w, 4, vecFree i, vecRun i), (.vcvt i w, 4, vecFree i, vecRun i), (.vacc i w, 4, vecFree i, vecRun i), (.vtos i w, 4, vecFree i, vecRun i),
   (.vcmp i w, 4, vecFree i, vecRun i), (.vlse i w, 4, vecFree i, vecRun i),
   (.msend i w, 5, msgFree i, msgRun i), (.mrecv i w, 5, msgFree i, msgRun i), (.mpoll i w, 5, msgFree i, msgRun i),
   (.mflush i w, 5, msgFree i, msgRun i),
   (.kapp i w hs, 6, kvFree i, kvRun i hs), (.kattn i w hs, 6, kvFree i, kvRun i hs), (.kring i w hs, 6, kvFree i, kvRun i hs),
   (.kstat i w hs, 6, kvFree i, kvRun i hs),
   (.tok i w, 7, syncFree, syncRun i), (.tset i w, 7, syncFree, syncRun i), (.fence i w, 7, syncFree, syncRun i), (.delay i w, 7, syncFree, syncRun i),
   (.time i w, 7, syncFree, syncRun i), (.wdog i w, 7, syncFree, syncRun i)]

/-- A unit command as it waits in its queue: its S operands are captured at issue (R167). -/
def captured (i : Nat) (w : CmdWord) (s : State) : QCmd :=
  let q := seqOf i s
  ⟨w, pcOf i s, q.num, !enabled w q, sAt q (if isSbcast w then cwImm w % 32 else cwA w), sAt q (cwB w), sAt q (cwC w)⟩

/-- Destinations pending after the issue of a unit command (R180). -/
def pendingAfter (w : CmdWord) (q : SeqSt) : List Nat × List Nat :=
  match catRow w with
  | none => (q.pendS, q.pendP)
  | some r =>
    if enabled w q = false then (q.pendS, q.pendP)
    else if writesS w r then (nsInsert q.pendS (cwD w), q.pendP)
    else if r.d = .p then (q.pendS, nsInsert q.pendP (cwD w)) else (q.pendS, q.pendP)

/-- The head of unit u's queue may start: the program runs, its waits hold, and no older head needs its token (R169, R215). -/
abbrev headMay (i u : Nat) (c : QCmd) (s : State) : Prop :=
  rodRuns i s = true ∧ (pstate i s = 1 ∨ pstate i s = 2 ∨ pstate i s = 5) ∧ waitsOk c.word (seqOf i s) = true ∧ yields u c (seqOf i s) = false

/-- The state in which a started command acts: it has left its queue, its waits are consumed, and its head is no longer stalled on tokens. -/
def atStart (i u : Nat) (c : QCmd) (rest : List QCmd) (s : State) : State :=
  putSeq i (withQueue (consume c.word (seqOf i s)) u rest)
    (setF (seqP i) SEQ_STALL_HEAD_TOK (setBits (getF (seqP i) SEQ_STALL_HEAD_TOK s) (u - 1) (u - 1) 0) s)

/-- Command `c` is a BAR0 write by function `fn` of the one register at `a`; `i`, `k`, `v` are its page, its index and its value. -/
abbrev writesReg (fn i k v : Nat) (c : Instr) (a : Nat) : Prop :=
  (c, a) ∈ [(Instr.pgLockSet fn i v, pageBase i + 0x28), (.pgEvtClear fn i v, pageBase i + 0x10), (.pgEvtEnWrite fn i v, pageBase i + 0x14),
   (.pgEvtRouteWrite fn i v, pageBase i + 0x18), (.pgErrFirstClear fn i v, pageBase i + 0x20), (.pgErrCntClr fn i v, pageBase i + 0x1C),
   (.pgOwnerWrite fn i, pageBase i + 0x2C), (.islCmd fn i v k, islP i + 0x84), (.islCtlManualWrite fn i v, islP i + 0x80),
   (.islFlagsVrFaultClear fn i v, islP i + 0x9C), (.sensePaceMmClr fn i v, senseP i + 0x84), (.senseTmaxClr fn i v, senseP i + 0xA4),
   (.thmShutClear fn v, thmP 0 + 0xA0), (.thmCapWrite fn v, thmP 1 + 0x80), (.seqStart fn i v, seqP i + 0x84), (.seqAbort fn i v, seqP i + 0x88),
   (.seqTsig fn i v, seqP i + 0x9C), (.dbgPause fn i v, dbgP i + 0x80), (.dbgResume fn i v, dbgP i + 0x80), (.dbgStep fn i v, dbgP i + 0x80),
   (.dbgDataCommit fn i v, dbgP i + 0x94), (.strmCtlWrite fn i v, strmP i + 0x80), (.beadWback fn i v, beadP i + 0xE8),
   (.beadRclassWrite fn i k v, beadP i + 0x88 + 4 * k), (.beadCodeCtlWrite fn i v, beadP i + 0x80), (.xlatPcomp fn i v, xlatP i + 0xA4),
   (.xlatInv fn i v, xlatP i + 0xB4), (.xlatPagerWrite fn i v, xlatP i + 0x90), (.tierPause fn i v, xlatP i + 0xBC),
   (.tierEnable fn i v, xlatP i + 0xBC), (.herdReset fn i v, herdP i + 0x8C), (.herdResize fn i v, herdP i + 0x90),
   (.herdShareWrite fn i k v, herdP i + 0xA0 + 4 * k), (.msgChBufWrite fn i k v, msgP i + 0x100 + 16 * k),
   (.msgChFlush fn i k v, msgP i + 0x10C + 16 * k), (.brgCtlWrite fn i v, brgP i + 0x80), (.rlpCtlWrite fn i v, rlpP i + 0x80),
   (.e2eLeave fn v, e2eP 0 + 0x80), (.rtrHostfmClaim fn v, rtrP 0 + 0x84), (.rtrHostfmRelease fn v, rtrP 0 + 0x84),
   (.kvmOpgo fn v, kvmP 0 + 0xA8), (.kvPoolCfgWrite fn i k v, kvP i + 0x80 + 4 * (k % 3)), (.mbCmd fn i v, mgsP i + 0x80)]

/-- A field's bits `x` after a write of the bits `w` (R6, R47, R95). -/
def fieldAfter (f : FSpec) (locked off : Bool) (x w : Nat) : Nat :=
  match f.acc with
  | .ro | .wo => x
  | .rw | .rws => if f.offOnly && !off then x else w
  | .rwl => if locked || (f.offOnly && !off) then x else w
  | .w1c => x - (x &&& w)
  | .w1s => x ||| w

/-- A register outside the common header of a page whose registers have no write effect of their own. -/
def plainReg (a : Nat) : Prop :=
  0x30 ≤ a % 0x1000 ∧ ∃ i, pageOf a = some (.glb, i) ∨ pageOf a = some (.oxa, i) ∨ pageOf a = some (.goat, i) ∨ pageOf a = some (.spad, i)
    ∨ pageOf a = some (.vpx, i) ∨ pageOf a = some (.ven, i) ∨ pageOf a = some (.tnz, i) ∨ pageOf a = some (.hif, i)

/-- A life command register: PG_LIFE_CMD, or the command register of a stream slot or a queue. -/
abbrev lifeReg (a : Nat) : Prop :=
  a % 0x1000 = 8 ∨ (∃ i, pageOf a = some (.strm, i) ∨ pageOf a = some (.hq, i)) ∧ 0x100 ≤ a % 0x1000 ∧ a % 0x1000 < 0x300 ∧ a % 0x40 = 0

/-- A life command that is evaluated under Table 2-3: it reaches its page, the gate is open, no shutdown is latched, and the block has a
life cycle (R64, R76, R89, R106). -/
abbrev lifeTaken (fn a : Nat) (s : State) : Prop :=
  lifeReg a ∧ reaches fn a s ∧ s.gate = true ∧ flag (thmP 0) THM_SHUT_LATCHED s = false ∧ hasLife (a + 4) = true

/-- The page of `a` is no herd's. -/
def noHerd (a : Nat) : Prop := ∀ n, pageOf a ≠ some (.herd, n)

/-- No child of the block at `a` is active. -/
abbrev noKids (a : Nat) (s : State) : Prop := (lifeKids a s).filter (fun k => lifeAt k s != 0 && lifeAt k s != 5) = []

/-- The TAP after an instruction is loaded (R1003, R1017). -/
def loadedTap (code ic drive : Nat) (s : State) : Tap := { s.tap with ir := code, icount := min ic (chain s).length, drive := drive }

/-- What the device has sent after TDO has shifted out `bits`. -/
def shifted (bits : List Bool) (s : State) : List Out := s.out ++ [.tdo bits]

/-- The bypass bits of the included dies but the package (R1002). -/
def dieBits (s : State) : List Bool := ((chain s).filter (fun d => d != 0)).map (fun _ => false)

/-- The bypass bits of all included dies. -/
def allBits (s : State) : List Bool := (chain s).map (fun _ => false)

/-- A command that is neither clamped nor capped, in 5 mV steps (R128, R150). -/
abbrev fits (j code : Nat) (s : State) : Prop :=
  120 ≤ code ∧ code ≤ 190 ∧ (getF (islP j) ISL_THERMCAP_CEILING s = 0 ∨ code ≤ getF (islP j) ISL_THERMCAP_CEILING s)

/-- Channel c of rod i, calibrated with `hold` (R137): what it held and counted is over. -/
def calibrated (i c hold : Nat) (s : State) : State := setFails i c 0 (calRecord i c hold s)

/-- Flits of a replay buffer that an ACK of sequence a leaves in it (R589, R610). -/
def unacked (a : Nat) (l : List Unacked) : List Unacked := l.filter (fun f => decide (seqDiff a f.seq ≥ 2048))

/-- The receiver of direction d of link n accepts the control flit of sequence `seq`, whose bits the lane groups count (R584, R589). -/
abbrev brgTakes (n d seq ack : Nat) (s : State) : Prop := n < 32 ∧ d < 2 ∧ (brgHeader n d seq ack 8 true (lanePass n d [] s)).1 = .accept

/-- The state after its header. -/
def brgTook (n d seq ack : Nat) (s : State) : State := (brgHeader n d seq ack 8 true (lanePass n d [] s)).2

/-- A flit that a bridge end sends beside its sequence: an ACK, a NAK or a CREDIT, with the acknowledgement that it carries (R588, R589). -/
def brgTold (n d ack : Nat) (f : List Nat) : Out := .brgFlit n d (brgFlitBytes (brgHdr true 0 0 false 0 ack) (brgCtlBytes f))

end Sys2Proof.Machine
end

