-- ==== Sys2Proof/Certificates/Slice0/Obligations.lean ====
section
/-! DEFINITION. The statements about the block, for the provers. Each says which rules of spec/ or which entries of the assumption log it
rests on. -/

open Sys2Proof Sys2Proof.Machine

/-! ### Reset, package and bring-up -/

/-- Resets of the package and of its functions, by the pins and the link. It rests on the model's own choices of assumption log 15, 67. -/
def Obligations.ResetsBegin : Prop :=
  (∀ s : State, s.boot.cold = false → s.boot.perst = false →
    exec .perstNAssert s = .next (warmReset (setBoot { s.boot with perst := true } s)))
  ∧ (∀ s : State, s.boot.perst = true → exec .perstNDeassert s = .next (setBoot { s.boot with perst := false, perstAt := s.now } s))
  ∧ (∀ s : State, s.boot.cold = false → s.boot.perst = false →
    exec .hotReset s = .next (setBoot { (warmReset s).boot with perstAt := (warmReset s).now } (warmReset s)))
  ∧ (∀ s : State, s.boot.cold = false → exec (.coldResetAssert none) s = .next (coldHold none s))
  ∧ (∀ (k : Nat) (s : State), k < 8 → exec (.coldResetAssert (some k)) s = .next (railCold k s))
  ∧ (∀ (k mv : Nat) (s : State), k < 8 → 100 * mv > 110 * railNominal k → exec (.railOvervoltage k mv) s = .next (railCold k s))
  ∧ (∀ (fn : Nat) (s : State), 0 < fn → fn < 128 → fn ≤ numVfs s → exec (.flr fn) s = .next (flrOne fn s))
  ∧ (∀ s : State, exec (.flr 0) s = .next (setF hifP HIF_FUNCS_NUMVFS 0 (vfOff (flrOne 0 s))))
  ∧ (∀ s : State, flag hifP HIF_FUNCS_VFE s = true → exec .vfEnableClear s = .next (vfOff s))

/-- A rail that leaves its tolerance is kept in the OOT bits and raises its event; the loss of an RL clock takes its eight ports' locks.
PWR_WARN_N: while it is low no flash write but tally records starts. It rests on the model's own choices of assumption log 91. -/
def Obligations.TheBoardIsWatched : Prop :=
  (∀ (k mv : Nat) (s : State), k < 8 → 100 * mvDist mv (railNominal k) > railTol k * railNominal k → s.boot.railNow.contains k = false →
    s.boot.cold = false →
      exec (.railOot k mv) s = .next (raise glbP 22 (setF glbP ⟨0x0CC, k, k⟩ 1 (setBoot { s.boot with railNow := nsInsert s.boot.railNow k } s))))
  ∧ (∀ (k mv : Nat) (s : State), k < 8 → 100 * mvDist mv (railNominal k) ≤ railTol k * railNominal k →
      exec (.railOot k mv) s = .next (setBoot { s.boot with railNow := nsErase s.boot.railNow k } s))
  ∧ (∀ (c : Nat) (s : State), c < 2 → exec (.rlclkLoss c) s = .next ((List.range 8).foldl (fun t p => rlLoseLock (8 * c + p) t) s))
  ∧ (∀ s : State, s.boot.pwrWarn = false → s.boot.cold = false → s.thm.shut ≠ 1 →
    exec .pwrWarnFall s = .next (pwrWarnLog (setMgs { s.mgs with noFlash := true } (setBoot { s.boot with pwrWarn := true } s))))
  ∧ (∀ s : State, ∃ t, exec .pwrWarnRise s = .next t ∧ t.mgs = { s.mgs with noFlash := false }
      ∧ t.boot = { s.boot with pwrWarn := false } ∧ t = { s with mgs := t.mgs, boot := t.boot })

/-- The end of a cold reset samples the straps and keeps the cause of the reset. It rests on the model's own choices of assumption log 15. -/
def Obligations.ColdResetEndSamplesTheStraps : Prop :=
  ∀ (i2ca : Nat) (recov test : Bool) (s : State), s.boot.cold = true →
    ∃ t, exec (.coldResetEnd i2ca recov test) s = .next t ∧ t.boot.cold = false ∧ t.boot.railsBad = []
      ∧ getF glbP GLB_STRAP_I2CA t = i2ca % 4 ∧ getF glbP GLB_STRAP_RECOV t = b2n recov ∧ getF glbP GLB_STRAP_TEST t = b2n test
      ∧ (∀ k, s.boot.loss = some k → getF glbP GLB_PWR_LOSS_V t = 1 ∧ getF glbP GLB_PWR_LAST_LOSS t = k % 8)
      ∧ (∀ a, a ≠ glbP + GLB_STRAP_TEST.off → a ≠ glbP + GLB_PWR_LAST_LOSS.off → rdW a t = rdW a s)
      ∧ t.boot.passAt = s.now + 100000 ∧ t.boot.stageAt = s.now + 100000
      ∧ t = { s with regs := t.regs, boot := t.boot, now := s.now + 100000 }

/-- Every stage command that ends its stage at once: the command, its stage, and what it has done by the stage's end. It rests on the model's
own choices of assumption log 86, 88. -/
def Obligations.StageCommandsEndTheirStage : Prop :=
  ∀ (bad : List Nat) (holds march : List (Nat × Nat)) (s : State),
    ∀ c k u, (c, k, u) ∈ ([
      (.stagePower, 0, s), (.stageRom true, 1, s),
      (.stageChecker bad, 8, bad.foldl (fun t p => checkerFail p t) s), (.stageRodMap, 9, holdAbsent (mapRods s)),
      (.stageChanTrain bad holds, 10, (presentRods s).foldl (trainRod bad holds) s), (.stageSpadTest bad, 11, bad.foldl spadFail s),
      (.stageBeadTest march, 12, setBoot { s.boot with march := march } s),
      (.stageZero, 14, (presentRods s).foldl (fun t i => zeroFill i t) s),
      (.stagePcie, 18, { s with rrsDone := true }), (.stageJudge, 20, judge s)] : List (Instr × Nat × State)) →
    atStage k s = true → exec c s = .next (stageEnd k u) ∧ stage (stageEnd k u) = k + 1

/-- Stages whose end depends on what they find. It rests on the model's own choices of assumption log 86, 88. -/
def Obligations.StagesGoOnByTheirOutcome : Prop :=
  (∀ (sigA sigB : Bool) (s u : State) (k : Nat), atStage 2 s = true → bootSelect sigA sigB (flag glbP GLB_STRAP_RECOV s) s = (some k, u) →
    exec (.stageImage sigA sigB) s = .next (stageEnd 2
      (showImage k (u.mgs.trial == some k && u.mgs.trialRun) (setMgs { u.mgs with startAt := u.now } u))))
  ∧ (∀ (rs : List (Nat × Option Nat)) (ok : Bool) (s : State), atStage 4 s = true → shutdownOn (sensorRefresh rs ok s) = false →
      coolEnough (sensorRefresh rs ok s) = true → exec (.stageSense rs ok) s = .next (stageEnd 4 (sensorRefresh rs ok s)))
  ∧ (∀ s : State, atStage 5 s = true → exec .stageIslands s = .next (islandsGo s))
  ∧ (∀ (bad : List Nat) (s : State), atStage 7 s = true →
      let known := (List.range 1088).filter (fun p => s.mgs.defects.any (fun d => d.kind == 1 && d.loc == physPlace p))
      let s1 := setBoot { s.boot with physBad := known.foldl nsInsert s.boot.physBad } s
      exec (.stageRodTest bad) s = .next (stageEnd 7
        ((((List.range 64).filter (fun j => islFailed j s1)).flatMap physOfIsland ++ bad).foldl (fun t p => physFail p t) s1)))
  ∧ (∀ s : State, atStage 13 s = true →
      let s1 := (presentRods s).foldl (retireRod s.boot.march) s
      exec .stageRetire s = .next (stageEnd 13 (setBoot { s1.boot with march := [] } s1)))
  ∧ (∀ s : State, atStage 19 s = true →
      exec .stageRl s = .next (if fabricOn s then rlEnd ((List.range 16).foldl rlBring s)
        else stageEnd 19 (setBoot { s.boot with warmPorts := [] } s)))

/-- The log, the licence and the links of bring-up. It rests on the model's own choices of assumption log 14, 79, 86. -/
def Obligations.MgsLicenceAndLinksComeUp : Prop :=
  (∀ s : State, atStage 3 s = true →
      let m := setMgs { s.mgs with boot := s.mgs.boot + 1, seq := seqHigh s } s
      let s1 := setF (mgsP 0) MB_LOGSTAT_SPARES (64 - m.mgs.spareNext) (wr64 (mgsP 0 + 0x98) m.mgs.seq m)
      shutRecord s1 ≠ some 0 →
      let slot := getF (mgsP 0) MB_INFO_SLOT s
      let s3 := mgsRuns (some slot) (copyBack s1)
      let h := (slotOf slot s3).hdr
      exec (.stageMgs true) s = .next (stageEnd 3 (loadConfig (noteTrip (shutRecord s1) (noteLoss (tally 11 1 0 0xFFFFFFFF 0
        ((h.drop 8).take 4 ++ leBytes 1 slot ++ leBytes 1 (b2n (flag (mgsP 0) MB_INFO_TRIAL s3)) ++ leBytes 1 (hdrNum h 12 1)) s3))))))
  ∧ (∀ (sig : Bool) (l : Lic) (s : State), atStage 17 s = true → s.mgs.licence = some l → sig = true → l.serial = Config.serial.toNat →
      let s1 := setBoot { s.boot with licBad := false } (setMgs { s.mgs with licStage := true } s)
      exec (.stageLicence sig) s = .next (stageEnd 17 (tallyLic 3 1 (some l) (applyLic (some l) s1))))
  ∧ (∀ (lanes : List (Nat × Nat × Nat)) (s : State), atStage 6 s = true →
      let s1 := (List.range 32).foldl (trainedLink lanes) (setBoot { s.boot with trained := [] } s)
      let s2 := ((List.range 8).filter (fun b => (List.range 4).all (fun k => !s1.boot.trained.contains (4 * b + k)))).foldl
        (fun t b => checkBridge b t) s1
      exec (.stageLinks lanes) s = .next (if (List.range 4).any (fun f => isolated f s2) then bringStop 4 s2 else stageEnd 6 s2))
  ∧ (∀ (checker chans : List Nat) (holds : List (Nat × Nat)) (spads : List Nat) (march : List (Nat × Nat)) (s : State),
      atStage 16 s = true → s.boot.coldPass = true →
      let s2 := showRelay (checkBridges (((List.range 32).filter (fun n => brgReady n s)).foldl (fun t n => brgEnter n t) s))
      let s3 := setBoot { s2.boot with warmLinks := [] } s2
      exec (.stageGrid checker chans holds spads march) s = .next (if outcome s3 = 0 then stageEnd 16 s3 else s3))
  ∧ (∀ (pass : List (Nat × Nat × Nat)) (s : State), atStage 15 s = true →
      let s0 := waitTill (s.boot.stageAt + laneTestNs (getF glbP GLB_READY_PROFILE s)) s
      let s1 := s0.boot.trained.foldl (testedLink pass) s0
      let s2 := ((List.range 8).filter (fun b => (List.range 4).all (fun k => lifeAt (statOf (brgP (4 * b + k))) s1 != 2) && !removed b s1)).foldl
        (fun t b => checkBridge b t) s1
      exec (.stageLaneTest pass) s = .next (if outcome s2 = 0 then stageEnd 15 s2 else s2))

/-- The outcome of bring-up, and what overruns and restarts do. It rests on the model's own choices of assumption log 86, 87, 89. -/
def Obligations.ServiceGivesTheOutcome : Prop :=
  (∀ s : State, atStage 21 s = true →
      let s1 := stageEnd 21 s
      let s2 := setF glbP GLB_BRINGUP_MS ((s1.now - s1.boot.passAt) / 1000000) s1
      let s3 := setOutcome (verdict s2) s2
      let low (t : State) (j : Nat) : State :=
        if (islT j t).lowFrom.isNone && getF (islP j) ISL_POWER_CONF t == 0 then setIslT j { islT j t with lowFrom := some t.now } t else t
      exec .stageService s = .next (if verdict s2 = 3 then s3
        else lifeEval 1 (statOf (kvmP 0)) 0xF1 0 { (List.range 64).foldl low s3 with gate := true }))
  ∧ (∀ (s : State) (b : Nat), stageBound s = some b → outcome s = 0 → s.boot.cold = false → flag glbP GLB_STRAP_TEST s = false →
      let s1 := tally 2 1 (0x100 + stage s) 0xFFFFFFFF 0 [] { s with now := max s.now (s.boot.stageAt + 2 * b + 1) }
      exec .stageOverrun s = .next (if stage s = 5 then islandsGo ((List.range 64).foldl islandOverrun s1)
        else if stage s = 19 then rlEnd ((List.range 16).foldl portOverrun s1) else s1))
  ∧ (∀ (sigA sigB : Bool) (s : State), mstate s = 2 →
      let r := bootSelect sigA sigB false s
      exec (.mgsRestartRun sigA sigB) s = .next ((List.range 64).foldl (fun t j =>
        if (islOf j t).reinit && !(islOf j t).cut then islRecover j t else t) (mgsRuns r.1 r.2)))

/-! ### Control commands -/

/-- R182, R183, R197, R210, R211 and Table 4-6: a control command that only computes, once it issues, leaves its result in its destination,
consumes its waits, signals its token and moves PC on by one; disabled, it does all of that but its result (R177). Nothing else of the block
changes. -/
def Obligations.ControlCommandsLeaveTheirResult : Prop :=
  ∀ (i : Nat) (w : CmdWord) (s : State), come i w s = .goes → pcOf i s < 131071 → signalFits w (seqOf i s) →
    ∀ c q, (c, q) ∈ controlResults i w (seqOf i s) →
      ∃ t, exec c s = .next t
        ∧ seqOf i t = signalled w (if enabled w (seqOf i s) then q else issuedSeq w (seqOf i s))
        ∧ pcOf i t = pcOf i s + 1
        ∧ (∀ j, j ≠ i → seqOf j t = seqOf j s)
        ∧ (∀ a, a ∉ issueRegs i → rdW a t = rdW a s)
        ∧ t = { s with regs := t.regs, seqs := t.seqs }

/-- R183, R184: the branches leave PC at their target, and CALL and LBR their register; nothing else of the block changes. -/
def Obligations.BranchesLeaveTheirTarget : Prop :=
  ∀ (i : Nat) (w : CmdWord) (s : State), come i w s = .goes → enabled w (seqOf i s) = true →
    signalFits w (seqOf i s) →
    ∀ c q pc, (c, q, pc) ∈ controlJumps i w (pcOf i s) (seqOf i s) → pc < 131072 →
      ∃ t, exec c s = .next t
        ∧ seqOf i t = signalled w q
        ∧ pcOf i t = pc
        ∧ (∀ j, j ≠ i → seqOf j t = seqOf j s)
        ∧ (∀ a, a ∉ issueRegs i → rdW a t = rdW a s)
        ∧ t = { s with regs := t.regs, seqs := t.seqs }

/-- HALT stops issue and keeps the PC; EVT shows its code and counts. -/
def Obligations.HaltStopsAndEvtTells : Prop :=
  ∀ (i : Nat) (w : CmdWord) (s : State), come i w s = .goes → enabled w (seqOf i s) = true → signalFits w (seqOf i s) →
    (∃ t, exec (.halt i w) s = .next t
      ∧ pstate i t = 2 ∧ pcOf i t = pcOf i s ∧ getF (seqP i) SEQ_PSTAT_FAULT t = getF (seqP i) SEQ_PSTAT_FAULT s
      ∧ seqOf i t = signalled w (issuedSeq w (seqOf i s)) ∧ (∀ j, j ≠ i → seqOf j t = seqOf j s)
      ∧ (∀ a, a ∉ issueRegs i → a ≠ seqP i + 0x8C → rdW a t = rdW a s)
      ∧ t = { s with regs := t.regs, seqs := t.seqs })
    ∧ (pcOf i s < 131071 → ∃ t, exec (.evt i w) s = .next t
      ∧ getF (seqP i) SEQ_USER_CODE t = cwImm w % 65536 ∧ getF (seqP i) SEQ_USER_COUNT t = satAdd 16 (getF (seqP i) SEQ_USER_COUNT s) 1
      ∧ bitOf (rdW (seqP i + 0x10) t).toNat 20 = true
      ∧ pcOf i t = pcOf i s + 1 ∧ seqOf i t = signalled w (issuedSeq w (seqOf i s)) ∧ (∀ j, j ≠ i → seqOf j t = seqOf j s)
      ∧ (∀ a, 0x90000 ≤ a → a ∉ issueRegs i → a ≠ seqP i + 0x98 → a ≠ seqP i + 0x10 → rdW a t = rdW a s)
      ∧ t = { s with regs := t.regs, seqs := t.seqs, mgs := t.mgs, held := t.held, msix := t.msix, out := t.out })

/-- SLD reads eight scratchpad bytes into its register, SST writes them; poison goes with them, and no other byte changes. -/
def Obligations.ScratchpadLoadAndStoreMoveEightBytes : Prop :=
  ∀ (i : Nat) (w : CmdWord) (s : State), come i w s = .goes → enabled w (seqOf i s) = true → pcOf i s < 131071 → signalFits w (seqOf i s) →
    ((∀ k, k < 8 → s.spadPar.contains (spadKey i (sldAddr w (seqOf i s) + k)) = false) →
      ∃ t, exec (.sld i w) s = .next t
        ∧ seqOf i t = signalled w (setS (issuedSeq w (seqOf i s)) (cwD w)
            ⟨BitVec.ofNat 64 (leNat (spadRead i (sldAddr w (seqOf i s)) 8 s)), !(spadBadIn i (sldAddr w (seqOf i s)) 8 s).isEmpty⟩)
        ∧ pcOf i t = pcOf i s + 1 ∧ (∀ j, j ≠ i → seqOf j t = seqOf j s) ∧ (∀ a, a ∉ issueRegs i → rdW a t = rdW a s)
        ∧ t = { s with regs := t.regs, seqs := t.seqs })
    ∧ (flag (spadP i) SPAD_INJECT_ARM s = false →
      ∃ t, exec (.sst i w) s = .next t
        ∧ (∀ k, k < 8 → spadByte i (sldAddr w (seqOf i s) + k) t = BitVec.ofNat 8 ((sAt (seqOf i s) (cwB w)).v.toNat / 256 ^ k)
            ∧ t.spadBad.contains (spadKey i (sldAddr w (seqOf i s) + k)) = (sAt (seqOf i s) (cwB w)).p)
        ∧ (∀ j a, (∀ k, k < 8 → spadKey j a ≠ spadKey i (sldAddr w (seqOf i s) + k)) → spadByte j a t = spadByte j a s)
        ∧ seqOf i t = signalled w (issuedSeq w (seqOf i s))
        ∧ pcOf i t = pcOf i s + 1 ∧ (∀ j, j ≠ i → seqOf j t = seqOf j s) ∧ (∀ a, a ∉ issueRegs i → rdW a t = rdW a s)
        ∧ t = { s with regs := t.regs, seqs := t.seqs, spad := t.spad, spadBad := t.spadBad, spadPar := t.spadPar })

/-! ### Unit commands -/

/-- An issued unit command joins the end of its unit's queue with its operands captured; then the unit looks at its head. -/
def Obligations.UnitCommandsJoinTheirQueue : Prop :=
  ∀ (i : Nat) (w : CmdWord) (hs : List (List (Option Nat))) (s : State), come i w s = .goes → pcOf i s < 131071 →
    ∀ c u free run, (c, u, free, run) ∈ unitCommands i w hs → cwUnit w = u →
      exec c s = .next (startHead i u free run (issueUnit i w s))
      ∧ seqOf i (issueUnit i w s) = { withQueue (seqOf i s) u (queueOf (seqOf i s) u ++ [captured i w s]) with
          pendS := (pendingAfter w (seqOf i s)).1, pendP := (pendingAfter w (seqOf i s)).2
          num := (seqOf i s).num + 1, stepReq := false, bpTaken := false, stall := none }
      ∧ pcOf i (issueUnit i w s) = pcOf i s + 1
      ∧ (∀ j, j ≠ i → seqOf j (issueUnit i w s) = seqOf j s)
      ∧ (∀ a, a ∉ issueRegs i → a ≠ seqP i + SEQ_QOCC_OCC.off → rdW a (issueUnit i w s) = rdW a s)
      ∧ issueUnit i w s = { s with regs := (issueUnit i w s).regs, seqs := (issueUnit i w s).seqs }

/-- The head of a unit's queue that may start leaves it, consumes its waits and does its work; a skipped one completes at once. -/
def Obligations.HeadsStart : Prop :=
  ∀ (i u : Nat) (hs : List (List (Option Nat))) (c : QCmd) (rest : List QCmd) (s : State),
    1 ≤ u → u ≤ 7 → queueOf (seqOf i s) u = c :: rest → headMay i u c s →
      (c.skip = true → exec (.unitStart i u hs) s = .next (finish i c 0 ⟨0, false⟩ (atStart i u c rest s)))
      ∧ (c.skip = false →
        (u = 1 → strmFree i c s = true → exec (.unitStart i u hs) s = .next (strmRun i c (atStart i u c rest s)))
        ∧ (u = 2 → oxFree i c s = true → exec (.unitStart i u hs) s = .next (oxRun i c (atStart i u c rest s)))
        ∧ (u = 3 → gmvFree i c s = true → exec (.unitStart i u hs) s = .next (gmvRun i c (atStart i u c rest s)))
        ∧ (u = 4 → vecFree i c s = true → exec (.unitStart i u hs) s = .next (vecRun i c (atStart i u c rest s)))
        ∧ (u = 5 → msgFree i c s = true → exec (.unitStart i u hs) s = .next (msgRun i c (atStart i u c rest s)))
        ∧ (u = 6 → kvFree i c s = true → exec (.unitStart i u hs) s = .next (kvRun i hs c (atStart i u c rest s)))
        ∧ (u = 7 → exec (.unitStart i u hs) s = .next (syncRun i c (atStart i u c rest s))))

/-- A command whose work is over completes: it leaves its unit, its S destination takes the result and is no longer pending, its token is
signalled. -/
def Obligations.CompletionWritesItsDestination : Prop :=
  ∀ (i num : Nat) (hs : List (List (Option Nat))) (c : Started) (r : CatRow) (s : State),
    startedBy i num s = some c → c.done = true → c.cmd.skip = false → catRow c.cmd.word = some r → writesS c.cmd.word r = true →
    c.status = 0 ∨ c.status = 4 → (cwSV c.cmd.word = true → tokAt (seqOf i s) (cwSG c.cmd.word) < 255) →
      ∃ t, exec (.unitComplete i num hs) s = .next t
        ∧ seqOf i t = signalled c.cmd.word (restall t.now { seqOf i s with
            started := (seqOf i s).started.filter (fun d => d.cmd.num != num)
            s := listSet (seqOf i s).s (cwD c.cmd.word) c.res
            pendS := nsErase (seqOf i s).pendS (cwD c.cmd.word) })
        ∧ t.now = max s.now (workEnds c)
        ∧ (∀ j, j ≠ i → seqOf j t = seqOf j s)

/-! ### Registers, the common header and the life cycle -/

/-- R40: a register is written by 4 aligned bytes, a pair by 8 aligned bytes, the lower half first; every other form is refused. -/
def Obligations.RegisterWritesComeInTwoSizes : Prop :=
  ∀ (fn off size v be : Nat) (s : State),
    (size = 4 → off % 4 = 0 → be = 0xF → exec (.registerWrite fn off size v be) s = .next (regWrite fn off (v % 2 ^ 32) s))
    ∧ (size = 8 → off % 8 = 0 → be = 0xFF →
      exec (.registerWrite fn off size v be) s = .next (regWrite fn (off + 4) (v / 2 ^ 32 % 2 ^ 32) (regWrite fn off (v % 2 ^ 32) s)))
    ∧ (¬ (size = 4 ∧ off % 4 = 0 ∧ be = 0xF) → ¬ (size = 8 ∧ off % 8 = 0 ∧ be = 0xFF) → reaches fn (off / 4 * 4) s →
      exec (.registerWrite fn off size v be) s = .next (raise (pageBase (off / 4 * 4)) 4 s))

/-- The fields of every register lie in its 32 bits and do not meet. -/
def Obligations.RegisterFieldsDoNotMeet : Prop :=
  ∀ (a : Nat) (r : RSpec), regSpec a = some r →
    r.fields.Pairwise (fun f g => g.hi < f.lo ∨ f.hi < g.lo) ∧ ∀ f ∈ r.fields, f.lo ≤ f.hi ∧ f.hi < 32

/-- R6, R47, R95: each field of a register takes from a write what its access type lets it take; no other register changes but for events. -/
def Obligations.FieldsFollowTheirAccessType : Prop :=
  ∀ (fn a v : Nat) (r : RSpec) (s : State), plainReg a → a % 4 = 0 → regSpec a = some r → r.role = .no → reaches fn a s →
    ∃ t, exec (.registerWrite fn a 4 v 0xF) s = .next t
      ∧ (∀ f ∈ r.fields, bitsOf (rdW a t).toNat f.hi f.lo =
          fieldAfter f (flag (pageBase a) PG_LOCK_LOCKED s) (lifeAt (offStat a) s == 0) (bitsOf (rdW a s).toNat f.hi f.lo) (bitsOf v f.hi f.lo))
      ∧ (∀ b, canon b ≠ canon a → canon b ≠ canon (pageBase a + 0x10) → canon b ≠ 0x10098 → canon b ≠ 0x1009C → rdW b t = rdW b s)
      ∧ t = { s with regs := t.regs, mgs := t.mgs, held := t.held, msix := t.msix, out := t.out }

/-- R7, R28, R88, R106, R811: a write by a function that does not own the page, of any width, alignment and byte enables, changes nothing but
the page's DENIAL event, and raises no BAD_ACCESS; one that finds the function asleep, no register or no page changes nothing at all. -/
def Obligations.WritesBesideTheOwnerAreDenied : Prop :=
  (∀ (fn i k v : Nat) (s : State), ∀ c a, writesReg fn i k v c a →
    ((fnOf fn s).d3 = true ∨ regSpec a = none ∨ pageLive (pageBase a) s = false → exec c s = .next s)
    ∧ ((fnOf fn s).d3 = false → (regSpec a).isSome = true → pageLive (pageBase a) s = true → owns fn (pageBase a) s = false →
      ∃ t, exec c s = .next t ∧ rdW (pageBase a + 0x10) t = rdW (pageBase a + 0x10) s ||| 4
        ∧ (∀ b, canon b ≠ canon (pageBase a + 0x10) → canon b ≠ 0x10098 → canon b ≠ 0x1009C → rdW b t = rdW b s)
        ∧ t = { s with regs := t.regs, mgs := t.mgs, held := t.held, msix := t.msix, out := t.out }))
  ∧ (∀ (fn off size v be : Nat) (s : State), ∀ a, off / 4 * 4 = a →
    ((fnOf fn s).d3 = true ∨ pageLive (pageBase a) s = false → exec (.registerWrite fn off size v be) s = .next s)
    ∧ ((fnOf fn s).d3 = false → (regSpec a).isSome = true → pageLive (pageBase a) s = true → owns fn (pageBase a) s = false →
      ∃ t, exec (.registerWrite fn off size v be) s = .next t ∧ rdW (pageBase a + 0x10) t = rdW (pageBase a + 0x10) s ||| 4
        ∧ (∀ b, canon b ≠ canon (pageBase a + 0x10) → canon b ≠ 0x10098 → canon b ≠ 0x1009C → rdW b t = rdW b s)
        ∧ t = { s with regs := t.regs, mgs := t.mgs, held := t.held, msix := t.msix, out := t.out }))

/-- The registers of the common header: events clear, enable and route, the error registers clear, the lock sets, the owner does not change. It
rests on the model's own choices of assumption log 64. -/
def Obligations.HeaderRegistersAct : Prop :=
  ∀ (fn p v : Nat) (s : State), p % 0x1000 = 0 →
    (reaches fn (p + 0x28) s → ∃ t, exec (.pgLockSet fn p v) s = .next t
      ∧ flag p PG_LOCK_LOCKED t = (flag p PG_LOCK_LOCKED s || bitOf v 0) ∧ (∀ b, canon b ≠ canon (p + 0x28) → rdW b t = rdW b s)
      ∧ t = { s with regs := t.regs })
    ∧ (reaches fn (p + 0x10) s → ∃ t, exec (.pgEvtClear fn p v) s = .next t
      ∧ rdW (p + 0x10) t = rdW (p + 0x10) s &&& ~~~(BitVec.ofNat 32 v)
      ∧ (∀ b, canon b ≠ canon (p + 0x10) → rdW b t = rdW b s)
      ∧ t = { s with regs := t.regs, held := if evtLive p t = 0 then alErase s.held p else s.held })
    ∧ (reaches fn (p + 0x14) s → ∃ t, exec (.pgEvtEnWrite fn p v) s = .next t
      ∧ rdW (p + 0x14) t = BitVec.ofNat 32 v
      ∧ (∀ b, canon b ≠ canon (p + 0x14) → canon b ≠ 0x10098 → canon b ≠ 0x1009C → rdW b t = rdW b s)
      ∧ t = { s with regs := t.regs, mgs := t.mgs, held := t.held, msix := t.msix, out := t.out })
    ∧ (reaches fn (p + 0x18) s → badRoute p v s = true → exec (.pgEvtRouteWrite fn p v) s = .next (raise p 2 s))
    ∧ (reaches fn (p + 0x18) s → badRoute p v s = false → flag p PG_LOCK_LOCKED s = false → ∃ t, exec (.pgEvtRouteWrite fn p v) s = .next t
      ∧ getF p PG_EVT_ROUTE_TARGET t = v % 4 ∧ getF p PG_EVT_ROUTE_INDEX t = bitsOf v 14 4 ∧ getF p PG_EVT_ROUTE_CHANNEL t = bitsOf v 20 16
      ∧ (∀ b, canon b ≠ canon (p + 0x18) → rdW b t = rdW b s) ∧ t = { s with regs := t.regs, held := alErase s.held p })
    ∧ (reaches fn (p + 0x20) s → exec (.pgErrFirstClear fn p v) s = .next (if bitOf v 31 then clearFirst p s else s))
    ∧ (reaches fn (p + 0x1C) s → ∃ t, exec (.pgErrCntClr fn p v) s = .next t
      ∧ getF p PG_ERR_CNT_THRESH t = bitsOf v 27 24 ∧ getF p PG_ERR_CNT_COUNT t = (if bitOf v 31 then 0 else getF p PG_ERR_CNT_COUNT s)
      ∧ (∀ b, canon b ≠ canon (p + 0x1C) → rdW b t = rdW b s) ∧ t = { s with regs := t.regs })
    ∧ (reaches fn (p + 0x2C) s → exec (.pgOwnerWrite fn p) s = .next (raise p 3 s))

/-- A held notification goes to its rod; a BAR0 access that times out raises ACCESS_TIMEOUT and reads all ones. -/
def Obligations.HeldNotesAndTimeouts : Prop :=
  (∀ (p : Nat) (b : Bool) (s : State), p % 0x1000 = 0 → alGet s.held p = some b →
    rodTakes (getF p PG_EVT_ROUTE_INDEX s) (getF p PG_EVT_ROUTE_CHANNEL s) s = true →
    0 < getF (msgP (getF p PG_EVT_ROUTE_INDEX s)) (MSG_CH_STAT_FREE (getF p PG_EVT_ROUTE_CHANNEL s)) s →
      exec (.notifyRodHeldSend p) s = .next (sendItem (getF p PG_EVT_ROUTE_INDEX s) (getF p PG_EVT_ROUTE_CHANNEL s)
        (leBytes 4 p ++ leBytes 4 (rdW (p + 0x10) s).toNat ++ leBytes 4 (rdW (p + 0xC) s).toNat ++ leBytes 4 (rdW (p + 0x20) s).toNat)
        { s with held := alErase s.held p }))
  ∧ (∀ (fn a len : Nat) (s : State),
      exec (.bar0ReadTimeout fn a len) s = .next (accessTimeout fn a { s with out := s.out ++ [.readData fn (List.replicate len 0xFF) []] }))
  ∧ (∀ (fn a : Nat) (s : State), exec (.bar0WriteTimeout fn a) s = .next (accessTimeout fn a s))

/-- R64, Table 2-3: what a life command does in each state of its block, and the status it answers; the answer stands in LAST_TAG and
LAST_STATUS and raises CMD_DONE. It rests on the model's own choices of assumption log 17, 65, 68. -/
def Obligations.LifeCommandsFollowTheirTable : Prop :=
  ∀ (fn a tag dl : Nat) (s : State), lifeTaken fn a s →
    exec (.lifeNop fn a tag) s = .next (lifeDone (a + 4) (tag % 256) 0 s)
    ∧ (∀ cmd, exec (.lifeBadCmd fn a cmd tag) s = .next (lifeDone (a + 4) (tag % 256) 4 s))
    ∧ (∃ t, exec (.lifeNop fn a tag) s = .next t
      ∧ getF (a + 4) LIFE_LAST_TAG t = tag % 256 ∧ getF (a + 4) LIFE_LAST_STATUS t = 0 ∧ lifeAt (a + 4) t = lifeAt (a + 4) s
      ∧ flag (a + 4) LIFE_PENDING_START t = flag (a + 4) LIFE_PENDING_START s
      ∧ bitOf (rdW (pageBase a + 0x10) t).toNat 1 = true
      ∧ (∀ b, canon b ≠ canon (a + 4) → canon b ≠ canon (pageBase a + 0x10) → canon b ≠ 0x10098 → canon b ≠ 0x1009C → rdW b t = rdW b s)
      ∧ t = { s with regs := t.regs, mgs := t.mgs, held := t.held, msix := t.msix, out := t.out })
    ∧ (lifeAt (a + 4) s = 0 →
      (startCheck (a + 4) s = none → exec (.lifeStart fn a tag) s = .next (lifeDone (a + 4) (tag % 256) 0 (enterStarting (a + 4) s)))
      ∧ (∀ st, startCheck (a + 4) s = some st →
          exec (.lifeStart fn a tag) s = .next (lifeDone (a + 4) (tag % 256) st (startDenied (a + 4) st s)))
      ∧ exec (.lifeClear fn a tag) s = .next (lifeDone (a + 4) (tag % 256) 3 s))
    ∧ (lifeAt (a + 4) s = 1 ∨ lifeAt (a + 4) s = 2 → exec (.lifeStart fn a tag) s = .next (lifeDone (a + 4) (tag % 256) 2 s)
      ∧ exec (.lifeClear fn a tag) s = .next (lifeDone (a + 4) (tag % 256) 3 s))
    ∧ (lifeAt (a + 4) s = 3 ∨ lifeAt (a + 4) s = 4 →
      (flag (a + 4) LIFE_PENDING_START s = true → exec (.lifeStart fn a tag) s = .next (lifeDone (a + 4) (tag % 256) 2 s))
      ∧ (flag (a + 4) LIFE_PENDING_START s = false →
          exec (.lifeStart fn a tag) s = .next (lifeDone (a + 4) (tag % 256) 1 (setF (a + 4) LIFE_PENDING_START 1 s)))
      ∧ exec (.lifeClear fn a tag) s = .next (lifeDone (a + 4) (tag % 256) 3 s))
    ∧ (lifeAt (a + 4) s = 5 → exec (.lifeStart fn a tag) s = .next (lifeDone (a + 4) (tag % 256) 9 s)
      ∧ (clearHeld (a + 4) s = true → exec (.lifeClear fn a tag) s = .next (lifeDone (a + 4) (tag % 256) 0xA s))
      ∧ (clearHeld (a + 4) s = false → noHerd (a + 4) →
          exec (.lifeClear fn a tag) s = .next (lifeDone (a + 4) (tag % 256) 0 (toOff (a + 4) s))))
    ∧ (noHerd (a + 4) →
      (lifeAt (a + 4) s = 0 → exec (.lifeDrain fn a tag dl) s = .next (lifeDone (a + 4) (tag % 256) 3 s)
        ∧ exec (.lifeStop fn a tag) s = .next (lifeDone (a + 4) (tag % 256) 3 s))
      ∧ (lifeAt (a + 4) s = 2 → noKids (a + 4) s →
        exec (.lifeDrain fn a tag dl) s = .next (lifeDone (a + 4) (tag % 256) 0 (enterDraining (a + 4) (tag % 256) (dl % 65536) s))
        ∧ exec (.lifeStop fn a tag) s = .next (lifeDone (a + 4) (tag % 256) 0 (enterStopping (a + 4) s)))
      ∧ (lifeAt (a + 4) s = 4 → flag (a + 4) LIFE_PENDING_START s = true → noKids (a + 4) s →
        exec (.lifeStop fn a tag) s = .next (lifeDone (a + 4) (tag % 256) 0 (setF (a + 4) LIFE_PENDING_START 0 s)))
      ∧ (lifeAt (a + 4) s = 4 → exec (.lifeDrain fn a tag dl) s = .next (lifeDone (a + 4) (tag % 256) 3 s))
      ∧ (lifeAt (a + 4) s = 5 → exec (.lifeDrain fn a tag dl) s = .next (lifeDone (a + 4) (tag % 256) 9 s)
        ∧ exec (.lifeStop fn a tag) s = .next (lifeDone (a + 4) (tag % 256) 9 s)))

/-- What a block with a life cycle does by itself: it gets ready or faults, drains out, meets its deadline, and reaches OFF. It rests on the
model's own choices of assumption log 10, 65, 66, 69, 140, 166. -/
def Obligations.BlocksChangeStateByThemselves : Prop :=
  (∀ (a code ab ba : Nat) (s : State), hasLife a = true → lifeAt a s = 1 → (lifeX a s).aborting = false →
    (∀ n, pageOf a ≠ some (.rlp, n) ∧ pageOf a ≠ some (.brg, n)) →
      exec (.blockStartDone a true code ab ba) s = .next (readyHook a (setState a 2 s)))
  ∧ (∀ (a n code ab ba : Nat) (s : State), hasLife a = true → lifeAt a s = 1 → (lifeX a s).aborting = false →
    pageOf a = some (.brg, n) → outcome s ≠ 0 → exec (.blockStartDone a true code ab ba) s = .next (relevel (brgStarted n ab ba s)))
  ∧ (∀ (a : Nat) (s : State), hasLife a = true → lifeAt a s = 1 → (lifeX a s).aborting = true →
      exec (.startAbortSafePoint a) s = .next (enterStopping a s))
  ∧ (∀ (a : Nat) (s : State), hasLife a = true → lifeAt a s = 3 → hasWork a s = false → exec (.drainDone a) s = .next (enterStopping a s))
  ∧ (∀ (a d : Nat) (s : State), hasLife a = true → lifeAt a s = 3 → (lifeX a s).deadline = some d →
      (noHerd a → exec (.drainDeadlineExpiry a) s = .next (lifeDone a (lifeX a s).dtag 0x0C (enterStopping a (waitTill d s))))
      ∧ (∀ n, pageOf a = some (.herd, n) → exec (.drainDeadlineExpiry a) s = .next (expire d (lifeX a s).dtag 4 a (waitTill d s))))
  ∧ (∀ (a : Nat) (s : State), hasLife a = true → lifeAt a s = 4 → released a s = true →
      (∀ n, pageOf a ≠ some (.herd, n) ∧ pageOf a ≠ some (.brg, n)) →
      exec (.blockReachesOff a) s = .next (pendingStart a (setState a 0 (lifeReset a (setLifeX a ⟨none, 0, false⟩ s)))))
  ∧ (∀ (a n : Nat) (s : State), hasLife a = true → lifeAt a s = 4 → released a s = true → pageOf a = some (.herd, n) →
      exec (.blockReachesOff a) s = .next (pendingStart a (herdOff n (setState a 0 (lifeReset a (setLifeX a ⟨none, 0, false⟩ s))))))
  ∧ (∀ (a n : Nat) (s : State), hasLife a = true → lifeAt a s = 4 → released a s = true → pageOf a = some (.brg, n) →
      exec (.blockReachesOff a) s = .next (pendingStart a (relevel (checkBridge (n / 4)
        (setState a 0 (lifeReset a (setLifeX a ⟨none, 0, false⟩ s)))))))
  ∧ (∀ (a code : Nat) (s : State), hasLife a = true → lifeAt a s = 0 →
      (noHerd a → exec (.offSelftestFail a code) s = .next (faultBlock a code s))
      ∧ (∀ n, pageOf a = some (.herd, n) → exec (.offSelftestFail a code) s = .next (showHerds (faultBlock a code s))))
  ∧ (∀ (n : Nat) (r : Resize) (s : State), alGet s.resizes n = some r → r.stop = none →
      exec (.resized n) s = .next (raise (herdP n) 16 (setF (herdP n) HERD_RSTAT_BUSY 0 (setF (herdP n) HERD_RSTAT_STATUS 0
        (applyResize n r { s with resizes := alErase s.resizes n })))))
  ∧ (∀ (n cmd tag dl : Nat) (r : Resize) (s : State), alGet s.resizes n = some r → r.stop = some (cmd, tag, dl) →
      exec (.resized n) s = .next (shutNow cmd tag dl (statOf (herdP n)) (raise (herdP n) 16 (setF (herdP n) HERD_RSTAT_BUSY 0
        (setF (herdP n) HERD_RSTAT_STATUS 0 (applyResize n r { s with resizes := alErase s.resizes n }))))))
  ∧ (∀ (p code detail loc x i sev : Nat) (k : Kind) (s : State), p % 0x1000 = 0 → pageOf p = some (k, i) → pageLive p s = true →
      paritySev code = some sev → code / 256 = k.code →
      (code ≠ 0x1804 → code ≠ 0x2904 → code ≠ 0x3004 → code ≠ 0x2203 → code ≠ 0x1501 → code ≠ 0x1102 →
        code ≠ 0x0207 → code ≠ 0x2002 → code ≠ 0x2109 → code ≠ 0x200A → ∀ d, parityDetail code i detail s = d →
        exec (.controlParityError p code detail loc x) s =
          .next (recordErr p code sev d (locFields k d loc) (sev == 1) (parityEffect code i d x s)))
      ∧ (code = 0x1804 ∨ code = 0x2904 ∨ code = 0x3004 →
        exec (.controlParityError p code detail loc x) s = .next (parityFault p code detail (locFields k detail loc) x s))
      ∧ (code = 0x2002 → detail % 32 < 18 → exec (.controlParityError p code detail loc x) s = .next (laneFailed i (bitsOf detail 11 11) (detail % 32) s))
      ∧ (code = 0x200A → ∀ d, parityDetail code i detail s = d → exec (.controlParityError p code detail loc x) s =
          .next (relevel (checkBridge (i / 4) (moveGroups (i / 4) (recordErr p code sev d (locFields k d loc) (sev == 1) (parityEffect code i d x s))))))
      ∧ (code = 0x1501 → exec (.controlParityError p code detail loc x) s =
        .next (spadSeen i (x % spadSize) 1 { s with spadPar := nsInsert s.spadPar (spadKey i (x % spadSize)) }))
      ∧ (code = 0x1102 → exec (.controlParityError p code detail loc x) s =
        .next (accSeen i (x % 0x4000) { s with accPar := nsInsert s.accPar (i * 0x4000 + x % 0x4000) })))

/-! ### Programs, their sync and their debugger -/

/-- A program starts, ends, stalls and is aborted; a host signals its tokens; a blocked wait times out. It rests on the model's own choices of
assumption log 9. -/
def Obligations.ProgramsStartAndEnd : Prop :=
  (∀ (fn i v : Nat) (s : State), reaches fn (seqP i + 0x84) s → bitOf v 31 = true → rodLife i s = 2 →
    pstate i s = 0 ∨ pstate i s = 3 ∨ pstate i s = 4 →
      ∃ t, exec (.seqStart fn i v) s = .next t ∧ pstate i t = 1 ∧ pcOf i t = v % 131072
        ∧ getF (seqP i) SEQ_PSTAT_FAULT t = 0 ∧ getF (seqP i) SEQ_WDOG_LIMIT t = 0 ∧ rd64 (seqP i + 0xD0) t = 0
        ∧ seqOf i t = { SeqSt.reset with
            s := [⟨BitVec.ofNat 64 (rd64 (seqP i + 0xA0) s), false⟩, ⟨BitVec.ofNat 64 (rd64 (seqP i + 0xA8) s), false⟩,
              ⟨BitVec.ofNat 64 (rd64 (seqP i + 0xB0) s), false⟩, ⟨BitVec.ofNat 64 (rd64 (seqP i + 0xB8) s), false⟩] ++ List.replicate 28 ⟨0, false⟩
            blockNum := (seqOf i s).blockNum }
        ∧ (∀ j, j ≠ i → seqOf j t = seqOf j s))
  ∧ (∀ (fn i v : Nat) (s : State), reaches fn (seqP i + 0x84) s →
      bitOf v 31 = false ∨ rodLife i s ≠ 2 ∨ pstate i s = 1 ∨ pstate i s = 2 ∨ pstate i s = 5 →
      exec (.seqStart fn i v) s = .next (raise (seqP i) 3 s))
  ∧ (∀ (fn i v : Nat) (s : State), reaches fn (seqP i + 0x88) s → bitOf v 0 = true →
      exec (.seqAbort fn i v) s = .next (programFault i 9 0 (pcOf i s) s))
  ∧ (∀ (fn i v : Nat) (s : State), reaches fn (seqP i + 0x9C) s → pstate i s = 1 ∨ pstate i s = 5 →
      exec (.seqTsig fn i v) s = .next (signalTok i (v % 64) (setSeq i (restall s.now (seqOf i s)) s)))
  ∧ (∀ (i t0 : Nat) (w : CmdWord) (s : State), tokenStalled i s = some (w, t0) →
      exec (.tokenStall i) s = .next (programFault i 7 (cwUnit w) (pcOf i s) (waitTill (t0 + 1000000) s)))
  ∧ (∀ (i num : Nat) (c : Started) (s : State), startedBy i num s = some c → c.blocked = true → c.limit ≠ 0 → breakDue i c s = none →
      exec (.waitTimeout i num) s = .next (completeNum i num (markDone i num 2 (statusWord 2 0) (raise (seqP i) 19
        (bump (seqP i) SEQ_BROKEN_TIMEOUT 1 (dropResvs (fun r => r == .rod i num) (waitTill (c.since + c.limit * 1000) s)))))))
  ∧ (∀ (i num k : Nat) (c : Started) (p : Probe) (s : State), startedBy i num s = some c → c.blocked = true → c.limit ≠ 0 →
      breakDue i c s = some k → s.probes[k]? = some p →
      exec (.waitTimeout i num) s = .next (breakWait i num (p.path.length + 1) { s with probes := s.probes.eraseIdx k }))
  ∧ (∀ (i : Nat) (s : State), pstate i s = 2 → (seqOf i s).started = [] → (seqOf i s).queues.all List.isEmpty = true →
      (getF (seqP i) SEQ_PSTAT_FAULT s = 0 → exec (.programEnded i) s = .next (raise (seqP i) 16 (setPstate i 3 s)))
      ∧ (getF (seqP i) SEQ_PSTAT_FAULT s ≠ 0 → exec (.programEnded i) s = .next (raise (seqP i) 17 (setPstate i 4 s))))

/-- R232, R233: the debugger pauses, resumes and steps a program, and commits data into a paused one. It rests on the model's own choices of
assumption log 9, 21. -/
def Obligations.TheDebuggerActs : Prop :=
  ∀ (fn i v : Nat) (s : State),
    (reaches fn (dbgP i + 0x80) s → ∀ t, dbgEnables i v s = t →
      (bitOf v 0 = true → pstate i t = 1 →
        (faultAt i (cmdAt i (pcOf i t) t) t = none →
          exec (.dbgPause fn i v) s = .next (raise (seqP i) 21 (setPstate i 5 (setSeq i { seqOf i t with bpTaken := true } t))))
        ∧ (∀ u, faultAt i (cmdAt i (pcOf i t) t) t = some u → exec (.dbgPause fn i v) s = .next u))
      ∧ (bitOf v 1 = true → pstate i t = 5 →
        exec (.dbgResume fn i v) s = .next (setPstate i 1 (setSeq i (restall t.now { seqOf i t with bpTaken := true }) t)))
      ∧ (bitOf v 2 = true → pstate i t = 5 → exec (.dbgStep fn i v) s = .next (setSeq i { seqOf i t with stepReq := true } t)))
    ∧ (reaches fn (dbgP i + 0x94) s → pstate i s = 5 → ∀ n d, n = getF (dbgP i) DBG_SEL_SEL s → d = commitVal (dbgP i + 0x90) v s →
      (n < 0x20 → ∃ t, exec (.dbgDataCommit fn i v) s = .next t ∧ seqOf i t = setS (seqOf i s) n ⟨BitVec.ofNat 64 d, false⟩ ∧ rd64 (dbgP i + 0x90) t = d)
      ∧ (0x20 ≤ n → n < 0x28 → ∃ t, exec (.dbgDataCommit fn i v) s = .next t
          ∧ seqOf i t = { seqOf i s with l := listSet (seqOf i s).l (n - 0x20) (BitVec.ofNat 32 d) } ∧ rd64 (dbgP i + 0x90) t = d)
      ∧ (n = 0x28 → ∃ t, exec (.dbgDataCommit fn i v) s = .next t
          ∧ seqOf i t = { seqOf i s with p := (List.range 8).map (fun k => bitOf d k) } ∧ rd64 (dbgP i + 0x90) t = d)
      ∧ (0x40 ≤ n → n < 0x80 → ∃ t, exec (.dbgDataCommit fn i v) s = .next t
          ∧ seqOf i t = { seqOf i s with tok := listSet (seqOf i s).tok (n - 0x40) (d % 256) } ∧ rd64 (dbgP i + 0x90) t = d)
      ∧ (0x28 < n → n < 0x40 ∨ 0x80 ≤ n → exec (.dbgDataCommit fn i v) s = .next (raise (dbgP i) 3 s)))
    ∧ (reaches fn (dbgP i + 0x94) s → pstate i s ≠ 5 → exec (.dbgDataCommit fn i v) s = .next (raise (dbgP i) 3 s))

/-- Streams move on: they issue a request or a write, take a page's answer, and end; a ring KV command that waits goes on. It rests on the
model's own choices of assumption log 22, 23, 33, 55. -/
def Obligations.StreamsAndRingsMoveOn : Prop :=
  (∀ (i k : Nat) (x : Str) (s s0 : State), strOf i k s = some x → strRuns i k s = true → rodQuiet i s = false →
      (if x.list then drainSignal i k (readEntries i k x.nxt 8 s) else s) = s0 →
      (reqReady i k s0 = false → exec (.streamRequestIssue i k) s = .next (readStep i k s0))
      ∧ (reqReady i k s0 = true → reqTurn i k s0 = false → exec (.streamRequestIssue i k) s = .next s0)
      ∧ (reqReady i k s0 = true → reqTurn i k s0 = true → ∀ s1, setSeq i { seqOf i s0 with turn := (k + 1) % 8 } s0 = s1 →
        (∀ t, writeStep i k s1 = some t → exec (.streamRequestIssue i k) s = .next t)
        ∧ (writeStep i k s1 = none → exec (.streamRequestIssue i k) s = .next (readStep i k s1))))
  ∧ (∀ (id i k off q : Nat) (late : Bool) (r : PReq) (s : State), s.reqs.find? (fun r => r.id == id) = some r → r.phase = 3 →
      r.client = .stream i k q off →
      (keepRead r i k s = false → exec (.streamPageResponse id late) s = .next (respond r i k off (dropReq id i s)))
      ∧ (keepRead r i k s = true → exec (.streamPageResponse id late) s = .next (freeReads i k (respond r i k off
          (updReq id (fun x => { x with phase := 5, data := [], bad := [] }) s)))))
  ∧ (∀ (id i k num : Nat) (late : Bool) (r : PReq) (s : State), s.reqs.find? (fun r => r.id == id) = some r → r.phase = 3 →
      r.client = .orphan i k num → exec (.streamPageResponse id late) s = .next (dropReq id i s))
  ∧ (∀ (i k st : Nat) (x : Str) (s : State), strOf i k s = some x → x.fin = some st → itemUnderWay i k s = false →
      exec (.streamEnd i k) s = .next (completeNum i x.num (finishStream i k st s)))
  ∧ (∀ (fn i v : Nat) (s : State), reaches fn (strmP i + 0x80) s →
      (flag (strmP i) PG_LOCK_LOCKED s = false → ∃ t, exec (.strmCtlWrite fn i v) s = .next t
        ∧ getF (strmP i) STRM_CTL_REQCAP t = max 1 (min 64 (v % 128)) ∧ (∀ a, canon a ≠ canon (strmP i + 0x80) → rdW a t = rdW a s)
        ∧ t = { s with regs := t.regs })
      ∧ (flag (strmP i) PG_LOCK_LOCKED s = true → ∃ t, exec (.strmCtlWrite fn i v) s = .next t
        ∧ rdW (strmP i + 0x80) t = rdW (strmP i + 0x80) s ∧ bitOf (rdW (strmP i + 0x10) t).toNat 2 = true))
  ∧ (∀ (i num hn : Nat) (hs : List (List (Option Nat))) (c : Started) (r : Ring) (s : State),
      startedBy i num s = some c → ringAt i num s = some (hn, r) → cwUnit c.cmd.word = 6 →
      ((c.aux[0]?).getD 0 = 1 → exec (.kringResume i num hs) s = .next (kvWork i num hs s))
      ∧ ((c.aux[0]?).getD 0 = 3 → exec (.kringResume i num hs) s = .next (kvCloseRing i hn num s (ringArrive i hn num r ⟨s, hs, none, false⟩))))

/-! ### Test access -/

/-- R1001-R1006: what the package TAP captures, shifts out and keeps for each of its instructions. It rests on the model's own choices of
assumption log 90. -/
def Obligations.TapInstructionsCaptureAndShift : Prop :=
  ∀ (ic pins din : Nat) (s : State), tapUp s = true →
    exec (.samplePreload ic pins din) s = .next { s with
      tap := { loadedTap 2 ic 0 s with cells := din % 2 ^ 214 }, out := shifted (dieBits s ++ lsbFirst (pins % 2 ^ 214) 214) s }
    ∧ exec (.idcode ic) s = .next { s with tap := loadedTap 1 ic 0 s, out := shifted ((chain s).flatMap (fun d => lsbFirst (dieId d) 32)) s }
    ∧ exec (.ccrAccess ic din) s = .next { s with
        tap := { loadedTap 0x10 ic 0 s with ccr := (ccrFix din).1, fixed := s.tap.fixed || (ccrFix din).2 }
        out := shifted (dieBits s ++ lsbFirst s.tap.ccr 37) s }
    ∧ exec (.tapTestStat ic) s = .next { s with
        tap := loadedTap 0x13 ic 0 s, out := shifted (dieBits s ++ lsbFirst (testStat { s with tap := loadedTap 0x13 ic 0 s }) 32) s }
    ∧ (∀ code, tapKnown (code % 256) = false → exec (.tapBypass ic code) s = .next { s with
        tap := loadedTap (code % 256) ic 0 s, out := shifted (allBits s) s })
    ∧ (testMode s = true →
      exec (.extest ic pins din) s = .next { s with
        tap := { loadedTap 0 ic 1 s with cells := din % 2 ^ 214 }, out := shifted (dieBits s ++ lsbFirst (pins % 2 ^ 214) 214) s }
      ∧ exec (.extestPulse ic pins din) s = .next { s with
        tap := { loadedTap 3 ic 3 s with cells := din % 2 ^ 214 }, out := shifted (dieBits s ++ lsbFirst (pins % 2 ^ 214) 214) s }
      ∧ exec (.extestTrain ic pins din) s = .next { s with
        tap := { loadedTap 4 ic 4 s with cells := din % 2 ^ 214 }, out := shifted (dieBits s ++ lsbFirst (pins % 2 ^ 214) 214) s }
      ∧ exec (.clamp ic) s = .next { s with tap := loadedTap 5 ic 1 s, out := shifted (allBits s) s }
      ∧ exec (.highz ic) s = .next { s with tap := loadedTap 6 ic 2 s, out := shifted (allBits s) s }
      ∧ (∀ ins cap, ∃ t, exec (.dieAccess ic ins cap) s = .next t ∧ t.out = shifted cap s
          ∧ t.tap = { loadedTap 0x11 ic 0 s with wirs := t.tap.wirs } ∧ t = { s with tap := t.tap, out := t.out }))

/-- R1009: outside test mode an intrusive instruction acts as BYPASS, is kept in TEST_STAT and GLB_TEST, and raises TEST_REFUSED. It rests on
the model's own choices of assumption log 90. -/
def Obligations.IntrusiveAccessIsRefused : Prop :=
  ∀ (ic pins din : Nat) (ins : List (Nat × Nat)) (cap : List Bool) (s : State), tapUp s = true → testMode s = false →
    ∀ c code, (c, code) ∈ [(Instr.extest ic pins din, 0), (.extestPulse ic pins din, 3), (.extestTrain ic pins din, 4), (.clamp ic, 5), (.highz ic, 6),
        (.dieAccess ic ins cap, 0x11)] →
      ∃ t, exec c s = .next t ∧ t.tap = { loadedTap code ic 0 s with refused := true } ∧ getF glbP GLB_TEST_LAST_REFUSED t = code
        ∧ bitOf (rdW (glbP + 0x10) t).toNat 23 = true
        ∧ (∃ o, t.out = o ++ [.tdo (allBits s)])
        ∧ t = { s with regs := t.regs, mgs := t.mgs, held := t.held, msix := t.msix, out := t.out, tap := t.tap }

/-- R1008-R1011, R1014, R1015: the die instruments, in test mode and outside it, and the reset of the test logic. It rests on the model's own
choices of assumption log 90. -/
def Obligations.InstrumentsObserveAndAct : Prop :=
  (∀ (ic d what raw : Nat) (s : State), tapUp s = true → (chain s).contains d = true →
    (what < 3 → exec (.ijtag ic d what raw) s = .next { s with tap := loadedTap 0x12 ic 0 s, out := shifted (lsbFirst raw 32) s })
    ∧ (3 ≤ what → testMode s = true → exec (.ijtag ic d what raw) s = .next { s with tap := loadedTap 0x12 ic 0 s })
    ∧ (3 ≤ what → testMode s = false → exec (.ijtag ic d what raw) s = .next (refuse 0x12 { s with tap := loadedTap 0x12 ic 0 s })))
  ∧ (∀ (j : Nat) (s : State), j < 64 → tapUp s = true → (chain s).contains 0 = true → testMode s = true → (islOf j s).cut = false →
      exec (.islandPwr j true) s = .next (islBoot j s) ∧ exec (.islandPwr j false) s = .next (islOff j s))
  ∧ (∀ (p : Nat) (pass : Bool) (s : State), p < 1088 → tapUp s = true → (chain s).contains (1 + 9 * (p / 272)) = true → testMode s = true →
      physPowered p s = true → exec (.rodLogicBist p pass) s = .next { s with out := shifted [pass] s })
  ∧ (∀ (m p : Nat) (fails : List Nat) (s : State), p < 1088 → m < 8 → tapUp s = true → (chain s).contains (2 + 9 * (p / 272) + m) = true →
      testMode s = true → physPowered p s = true →
      exec (.beadArrayMarch m p fails) s = .next { s with out := shifted (fails.flatMap (fun q => lsbFirst q 16)) s })
  ∧ (∀ (d kind k width height : Nat) (s : State), tapUp s = true → (chain s).contains d = true →
      exec (.laneMargin d kind k width height true) s = .next { s with tap := { s.tap with aborted := true } }
      ∧ (marginCarries kind k s = true ∨ testMode s = true → exec (.laneMargin d kind k width height false) s =
          .next { s with out := shifted (lsbFirst width 16 ++ lsbFirst height 16) s }))
  ∧ (∀ (kind k : Nat) (s : State), exec (.marginRunEnd kind k) s = .next (marginEnd (nsErase s.margins (marginPage kind k)) s))
  ∧ (∀ s : State, tapUp s = true → exec .testLogicReset s =
      .next (marginEnd [] { s with tap := { s.tap with ir := 1, ccr := 1, wirs := [], drive := 0 } }))

/-! ### Voltage and pace -/

/-- R124-R128, R1027: a voltage command is judged in the order of its rejections; one that fits takes force with the next SEQ. It rests on the
model's own choices of assumption log 42. -/
def Obligations.VoltageCommandsAreJudged : Prop :=
  ∀ (fn j v m : Nat) (s : State), j < 64 → reaches fn (islP j + 0x84) s → ∀ mv, (if (islOf j s).powered then m else 0) = mv →
    (∀ st, islReject j true s = some st → ∃ t, exec (.islCmd fn j v m) s = .next t
      ∧ getF (islP j) ISL_CMD_STAT_STATUS t = st ∧ getF (islP j) ISL_CMD_STAT_SEQ t = 0 ∧ getF (islP j) ISL_VNOW_MV t = min mv 1023
      ∧ getF (islP j) ISL_VSTAT_TARGET t = getF (islP j) ISL_VSTAT_TARGET s ∧ islOf j t = islOf j s
      ∧ (∀ a, 0x90000 ≤ a → a ≠ islP j + ISL_CMD_STAT_STATUS.off → a ≠ islP j + ISL_VNOW_MV.off → a ≠ islP j + 0x10 → rdW a t = rdW a s))
    ∧ (islReject j true s = none → fits j (v % 256) s → (islOf j s).unsettled = false → ∃ t, exec (.islCmd fn j v m) s = .next t
      ∧ getF (islP j) ISL_VSTAT_TARGET t = v % 256 ∧ getF (islP j) ISL_VSTAT_SRC t = 2
      ∧ getF (islP j) ISL_VSTAT_SEQ t = (if getF (islP j) ISL_VSTAT_SEQ s = 0xFFFF then 1 else getF (islP j) ISL_VSTAT_SEQ s + 1)
      ∧ getF (islP j) ISL_CMD_STAT_STATUS t = 0 ∧ getF (islP j) ISL_CMD_STAT_SEQ t = getF (islP j) ISL_VSTAT_SEQ t
      ∧ islOf j t = { islOf j s with unsettled := true, ramping := false } ∧ (∀ k, k ≠ j → islOf k t = islOf k s)
      ∧ (∀ a, a ∉ [islP j + ISL_VSTAT_SEQ.off, islP j + ISL_CMD_STAT_STATUS.off, islP j + ISL_VSTAT_TARGET.off, islP j + ISL_VNOW_MV.off] →
          rdW a t = rdW a s))
    ∧ (islReject j true s = none → exec (.islCmd fn j v m) s = .next (islAccept j (v % 256) 2 mv (showMv j mv s)))

/-- A regulator ramps, settles, is slow, sags, overshoots, holds still, changes hands and forgets its fault. It rests on the model's own
choices of assumption log 42, 149. -/
def Obligations.RegulatorsAct : Prop :=
  ∀ (j mv : Nat) (s : State),
    ((islOf j s).unsettled = true → (islOf j s).ramping = false → (islOf j s).powered = true →
      exec (.ivrRampStart j mv) s = .next (showMv j mv (setIsl j { islOf j s with ramping := true, rampAt := s.now, rampFrom := mv, stuck := false } s)))
    ∧ ((islOf j s).unsettled = true → (islOf j s).powered = true → mvDist mv (5 * getF (islP j) ISL_VSTAT_TARGET s) ≤ 10 →
      exec (.settled j mv) s = .next (islandsGo ((islandRods j).foldl (fun t i => if rodsMapped t then calMoved i mv t else t)
        (raise (islP j) 16 (setIsl j { islOf j s with unsettled := false, ramping := false, gaveUp := false, recover := (islOf j s).recover && (islOf j s).reinit }
          (setF (islP j) ISL_SETTLED_TARGET (getF (islP j) ISL_VSTAT_TARGET s) (setF (islP j) ISL_SETTLED_SEQ (getF (islP j) ISL_VSTAT_SEQ s)
            (setF (islP j) ISL_VSTAT_DIR 0 (showMv j mv s)))))))))
    ∧ ((islOf j s).unsettled = true → (islOf j s).powered = true →
      ∀ u, recordCE (islP j) 0x0401 0 (islLoc j mv) (measureMv j mv (waitTill (slowAt j s) s)) = u →
      (stageIslands s = false → atStage 16 s = false ∨ s.boot.coldPass = true → exec (.vrSlow j mv) s = .next u)
      ∧ (stageIslands s = false → atStage 16 s = true → s.boot.coldPass = false →
        exec (.vrSlow j mv) s = .next (setIsl j { islOf j u with gaveUp := true } u))
      ∧ (stageIslands s = true → (islOf j s).repeated = false → exec (.vrSlow j mv) s =
        .next (islBoot j (setIsl j { islOf j u with repeated := true } u)))
      ∧ (stageIslands s = true → (islOf j s).repeated = true → exec (.vrSlow j mv) s =
        .next (islandsGo (setIsl j { islOf j u with gaveUp := true } u))))
    ∧ ((islOf j s).powered = true → mv < 570 → ∀ u v, recordErr (islP j) 0x0402 2 0 (islLoc j mv) false (measureMv j mv s) = u →
      (islandRods j).foldl (fun t i => if rodsMapped t && !rodAbsent i t then islFault j i t else t)
        (raise (islP j) 21 (setF (islP j) ISL_FLAGS_VR_FAULT 1 (setIsl j { islOf j u with recover := true, reinit := true } u))) = v →
      exec (.vrUnder j mv) s = .next (if mstate v = 1 ∨ mstate v = 3 then islRecover j v else v))
    ∧ ((islOf j s).powered = true → 980 < mv →
      exec (.vrOver j mv) s = .next (recordErr (islP j) 0x0403 3 0 (islLoc j mv) false (raise (islP j) 21 (setF (islP j) ISL_FLAGS_VR_FAULT 1
        (measureMv j 0 (setIsl j { islOf j s with cut := true, unsettled := false, ramping := false } s))))))
    ∧ ((islOf j s).powered = true →
      exec (.islandStable j mv) s = .next ((islandRods j).foldl (fun t i => if rodsMapped t then calMoved i mv t else t) (measureMv j mv s)))
    ∧ (∀ fn v, reaches fn (islP j + 0x80) s → exec (.islCtlManualWrite fn j v) s = .next (writeReg (islP j + 0x80) v s))
    ∧ (∀ fn v, reaches fn (islP j + 0x9C) s → (islOf j s).recover = true ∨ (islOf j s).cut = true →
      exec (.islFlagsVrFaultClear fn j v) s = .next (writeReg (islP j + 0x9C) (v % 8) s))
    ∧ (∀ fn v, reaches fn (islP j + 0x9C) s → (islOf j s).recover = false → (islOf j s).cut = false →
      exec (.islFlagsVrFaultClear fn j v) s = .next (writeReg (islP j + 0x9C) v s))

/-- R117-R120, R1026: a pace window with beats gives its pace and its nominal pace, and widens MIN and MAX. It rests on the model's own choices
of assumption log 41. -/
def Obligations.PaceWindowsMeasure : Prop :=
  (∀ (i beats : Nat) (vs : List Nat) (s : State), i < 1024 → rodVisible i s = true → (islOf (rodIsland i) s).powered = true →
      (∀ v ∈ vs, 570 ≤ v) → 0 < beats →
    let pace := min 4095 ((beats * 25 + 128) / 256)
    let nom := min 4095 (nominalPace vs (rodTemp i s))
    ∃ t, exec (.paceWindowEnd i beats true vs) s = .next t
      ∧ getF (senseP i) SENSE_PACE_PACE t = pace ∧ getF (senseP i) SENSE_PACE_VALID t = 1 ∧ getF (senseP i) SENSE_PACE_NOMINAL t = nom
      ∧ getF (senseP i) SENSE_PACE_MM_MIN t = min pace (getF (senseP i) SENSE_PACE_MM_MIN s)
      ∧ getF (senseP i) SENSE_PACE_MM_MAX t = max pace (getF (senseP i) SENSE_PACE_MM_MAX s))
  ∧ (∀ (fn i v : Nat) (s : State), reaches fn (senseP i + 0x84) s → bitOf v 31 = true → ∃ t, exec (.sensePaceMmClr fn i v) s = .next t
      ∧ getF (senseP i) SENSE_PACE_MM_MIN t = 0xFFF ∧ getF (senseP i) SENSE_PACE_MM_MAX t = 0
      ∧ (∀ a, a ≠ senseP i + 0x84 → rdW a t = rdW a s) ∧ t = { s with regs := t.regs })
  ∧ (∀ (fn i v : Nat) (s : State), reaches fn (senseP i + 0xA4) s → bitOf v 31 = true → ∃ t, exec (.senseTmaxClr fn i v) s = .next t
      ∧ getF (senseP i) SENSE_TMAX_MAX t = getF (senseP i) SENSE_TEMP_TEMP s
      ∧ (∀ a, a ≠ senseP i + 0xA4 → rdW a t = rdW a s) ∧ t = { s with regs := t.regs })

/-- R134-R137, R158, R398: a channel's calibrations come due, end, time out and are repeated; its retraining ends. It rests on the model's own
choices of assumption log 43. -/
def Obligations.ChannelsCalibrate : Prop :=
  ∀ (i c hold : Nat) (s : State), c < 2 →
    (rodsMapped s = true → exec (.calibrationPeriodic i c) s = .next (calDue i c (waitTill ((calOf i c s).since + 100000000) s)))
    ∧ ((calOf i c s).busy = true → exec (.calibrationDone i c hold) s =
        .next (calTry i (showCal i c false (setCal i c { calOf i c (calibrated i c hold s) with busy := false } (calibrated i c hold s)))))
    ∧ ((calOf i c s).busy = true → exec (.calibrationTimeout i c) s = .next (calFailed i c (waitTill ((calOf i c s).since + 8000) s)))
    ∧ ((calOf i c s).retry = true → exec (.calRetry i c) s =
        .next (calDue i c (setCal i c { calOf i c s with retry := false } (waitTill ((calOf i c s).since + 1000000) s))))
    ∧ ((calOf i c s).retrain = true → exec (.chanRetrainDone i c true hold) s =
        .next (calTry i (calRecord i c hold (showRetraining (setCal i c { calOf i c s with retrain := false } s)))))
    ∧ ((calOf i c s).retrain = true → exec (.chanRetrainDone i c false hold) s =
        .next (calTry i (chanDown i c (showRetraining (setCal i c { calOf i c s with retrain := false } s)))))

/-! ### Heat and power -/

/-- The fast limiter counts samples of the power meter and moves the ceilings; a cap, thresholds and a shutdown's clear take effect. It rests on
the model's own choices of assumption log 83, 84. -/
def Obligations.LimitsTakeEffect : Prop :=
  (∀ (mw cap : Nat) (s u t : State), waitEvery 10000 s.thm.meterAt s = u → setThm { u.thm with meterAt := some u.now } u = t →
      getF (thmP 1) THM_CAP_WATTS s * 1000 = cap →
      (100 * mw > 110 * cap → t.thm.hiRun + 1 < 10 →
        exec (.powerMeterSample mw) s = .next (setThm { t.thm with hiRun := t.thm.hiRun + 1, loRun := 0 } t))
      ∧ (100 * mw > 110 * cap → 10 ≤ t.thm.hiRun + 1 →
        exec (.powerMeterSample mw) s = .next ((List.range 64).foldl (fun t j => showCeiling j t) (recordCE (thmP 1) 0x0303 0 0 (raise (thmP 1) 21
          (setF (thmP 1) THM_LIMIT_ACTIVE 1 (bump (thmP 1) THM_LIMIT_COUNT 1 (bump (thmP 1) THM_LIMIT_DEPTH 5
            (setThm { t.thm with hiRun := 0, loRun := 0 } t))))))))
      ∧ (100 * mw ≤ 110 * cap → 95 * cap ≤ 100 * mw →
        exec (.powerMeterSample mw) s = .next (setThm { t.thm with hiRun := 0, loRun := 0 } t))
      ∧ (100 * mw < 95 * cap → 0 < getF (thmP 1) THM_LIMIT_DEPTH s → 100 ≤ t.thm.loRun + 1 →
        exec (.powerMeterSample mw) s = .next ((List.range 64).foldl (fun t j => showCeiling j t)
          (setF (thmP 1) THM_LIMIT_ACTIVE (b2n (decide (5 < getF (thmP 1) THM_LIMIT_DEPTH s)))
            (setF (thmP 1) THM_LIMIT_DEPTH (getF (thmP 1) THM_LIMIT_DEPTH s - 5) (setThm { t.thm with hiRun := 0, loRun := 0 } t))))))
  ∧ (∀ (fn c v : Nat) (s : State), c < 3 →
      (reaches fn (thmP 0 + 0x80 + 4 * c) s → exec (.thmThresholdWrite fn c false v) s = .next (clampThr c (writeReg (thmP 0 + 0x80 + 4 * c) v s)))
      ∧ (reaches fn (thmP 0 + 0x90 + 4 * c) s → exec (.thmThresholdWrite fn c true v) s = .next (clampThr c (writeReg (thmP 0 + 0x90 + 4 * c) v s))))
  ∧ (∀ (fn v : Nat) (s : State), reaches fn (thmP 1 + 0x80) s → flag (thmP 1) PG_LOCK_LOCKED s = false →
      exec (.thmCapWrite fn v) s = .next (capWrite (v % 65536) (writeReg (thmP 1 + 0x80) (bitsOf v 31 31 * 2 ^ 31 + getF (thmP 1) THM_CAP_WATTS s) s)))
  ∧ (∀ (fn v : Nat) (s : State), reaches fn (thmP 0 + 0xA0) s → bitOf v 0 = true → shutdownOn s = true →
      (coolEnough s = false → exec (.thmShutClear fn v) s = .next (raise (thmP 0) 20 s))
      ∧ (coolEnough s = true → outcome s ≠ 0 → ∃ t, exec (.thmShutClear fn v) s =
            .next (islandsGo ((List.range 64).foldl (fun u j => holdIsl j u)
              ((List.range 64).foldl (fun u j => if (islOf j u).cut then u else islOff j u) t)))
          ∧ t.thm.shut = 4 ∧ shutdownOn t = false ∧ t = { s with regs := t.regs, thm := t.thm, fatal := nsErase s.fatal 0x0305 }))
  ∧ (∀ (j : Nat) (s t : State), j < 64 → (islT j s).logic = false → (islT j s).mem = false → (islT j s).ceil ≠ 0 →
      waitTill ((islT j s).coolAt + 10000000) s = t → exec (.ceilingRelax j) s =
        .next (thermCeil j (if (islT j s).ceil + 10 ≥ 190 then 0 else (islT j s).ceil + 10) (setIslT j { islT j s with coolAt := t.now } t)))

/-- Sensors refresh, the policy plans, the estimator fits, islands get quiet slices; heat shuts the package down or trips it. It rests on the
model's own choices of assumption log 83, 84, 85. -/
def Obligations.HeatIsGoverned : Prop :=
  (∀ (rs : List (Nat × Option Nat)) (ok : Bool) (s t : State), waitEvery 1000000 s.thm.readAt s = t →
      ∀ u, rs.foldl (fun t r => takeReading r.1 r.2 t) (setThm { t.thm with readAt := some t.now } t) = u →
      ∀ moved hot v, ((u.thm.sens.map (·.1)).filter isTemp).foldl (fun (a : Bool × List Nat × State) id =>
        ((a.1 || (updBand id a.2.2).1), (if (updBand id a.2.2).2.1 then a.2.1 ++ [id] else a.2.1), (updBand id a.2.2).2.2)) (false, [], u) = (moved, hot, v) →
      ∀ w, (List.range 3).foldl (fun t c => showClass c t) (if moved then raise (thmP 0) 16 v else v) = w →
      (hot = [] → exec (.sensorRefresh rs ok) s = .next ((List.range 64).foldl (fun t j => islThrottle j t) w))
      ∧ (∀ id l, hot = id :: l → exec (.sensorRefresh rs ok) s = .next ((List.range 64).foldl (fun t j => islThrottle j t) (shutStart id ok w))))
  ∧ (∀ (volts : List (Nat × Nat)) (miss : List Nat) (widths : List (Nat × Nat)) (weights : List (Nat × Nat × Nat)) (s t : State),
      policyRuns s = true → shutdownOn s = false →
      planWidths widths ((List.range 128).foldl (fun t n => showMiss miss n t) (planVolts volts miss (planGoals s))) = t →
      exec (.policyPlan volts miss widths weights) s = .next (if flag (thmP 1) THM_GOAL_SHARES_MAN t then t else planWeights weights t))
  ∧ (∀ (pows : List (Nat × Nat)) (pkg : Nat) (div : List Nat) (confs : List (Nat × Nat × Nat)) (s t u v : State),
      waitEvery 10000000 s.thm.fitAt s = t → estDiverged div (estPowers pows pkg (setThm { t.thm with fitAt := some t.now } t)) = u →
      waitEvery 1000000000 u.thm.confAt u = v →
      exec (.estimatorFit pows pkg div []) s = .next u
      ∧ (confs ≠ [] → exec (.estimatorFit pows pkg div confs) s = .next (estConfs confs (setThm { v.thm with confAt := some v.now } v))))
  ∧ (∀ s t : State, lowWait s = t → policyRuns t = true → ∀ long, (List.range 64).filter (fun j => lowLong j t) = long → long ≠ [] →
      ((∀ j ∈ long, quietOk j t = false) → flag (thmP 1) THM_EST_GUARD t = false →
        exec .quietSlice s = .next (policyAct (thmP 1) (raise (thmP 1) 18 (showEffCap (setF (thmP 1) THM_EST_GUARD 1 t)))))
      ∧ (∀ j, bitOf t.thm.goal 0 = true → t.thm.quiet = none → quietTurn (long.filter (fun j => quietOk j t)) t = some j →
        exec .quietSlice s = .next (quietBegin j t)))
  ∧ (∀ (j t0 : Nat) (b : Bool) (s : State), s.thm.quiet = some (j, t0, b) →
      exec .quietSliceEnd s = .next (setF (thmP 1) THM_EST_QUIET 0 { s with now := max s.now (t0 + 50000), thm := { s.thm with quiet := none } }))
  ∧ (∀ (id : Nat) (ok : Bool) (s : State), s.boot.trip = false → isTemp id = true →
      exec (.hardwareTrip id ok) s = .next (fatEffects (thmP 0) 0x0306 (tripRecord 1 ok (allOff { s with boot := { s.boot with trip := true } }))))
  ∧ (∀ s : State, s.thm.shut = 2 →
      exec .shutdownPowerOff s = .next (setThm { s.thm with shut := 3 } (setOutcome 3 (allOff s))))
  ∧ (∀ s : State, s.thm.shut ≠ 2 → exec .shutdownPowerOff s = .next s)
  ∧ (∀ (ok : Bool) (s t u v : State) (r : TRec) (l : List TRec), s.thm.shut = 1 →
      (if (List.range 128).all (fun n => lifeAt (statOf (herdP n)) s == 0 || lifeAt (statOf (herdP n)) s == 5) then s
        else waitTill (s.thm.shutAt + 4000000) s) = t →
      (List.range 16).foldl (fun t p => if lifeAt (statOf (rlpP p)) t = 2 then lifeShut 2 (statOf (rlpP p)) 0xF0 0 t else t) t = u →
      tallyFree 10 0xFFFFFFFF (leBytes 1 0) (recordErr (thmP 0) 0x0305 3 (getF (thmP 0) THM_SHUT_SENSOR u) (getF (thmP 0) THM_SHUT_SENSOR u) false u) = v →
      v.mgs.ring.reverse = r :: l → ∀ w, persistAll (reserveCopy r ok v) = w →
      (w.boot.warnDue = false → exec (.shutdownLog ok) s = .next (setThm { w.thm with shut := 2 } w))
      ∧ (w.boot.warnDue = true → exec (.shutdownLog ok) s =
        .next (pwrWarnLog { w with thm := { w.thm with shut := 2 }, boot := { w.boot with warnDue := false } })))

/-! ### Bridges between dies -/

/-- R589, R596, R610: a bridge accepts exactly the flit that its sequence expects, answers a duplicate with its ACK and a run of dropped
flits with one NAK. Beside the rules: inside a CARRY run an accepted flit is its home link's too, and what waited for the answer goes out
after it; the order in which it does is the model's own choice of assumption log 48, the bytes of an answer and the windows of wrong bits those
of 126 and 161. -/
def Obligations.BridgesAcceptInSequence : Prop :=
  ∀ (n d seq ack vc op : Nat) (errs : List (Nat × Nat)) (s u : State), n < 32 → d < 2 → vc < 6 → seq < 4096 → lanePass n d errs s = u →
    ∀ l pass, brgDir n d u = l → brgCrcPasses (getF (brgP n) BRG_STAT_WIDTH s) errs = pass →
      (pass = true → l.run = none → ∃ t, exec (.brgFlitReceived n d seq ack vc errs false op) s = .next (brgPump n (1 - d) t)
        ∧ (brgDir n (1 - d) t).replay = unacked ack (brgDir n (1 - d) u).replay
        ∧ (∀ m e, m < 32 → e < 2 → ¬ (m = n) → brgDir m e t = brgDir m e u)
        ∧ t = { u with links := t.links, linkT := t.linkT, out := t.out }
        ∧ (seq = l.rxNext → (brgDir n d t).rxNext = (l.rxNext + 1) % 4096 ∧ (brgDir n d t).naking = false
            ∧ (brgDir n d t).freed = vcAdd l.freed vc 1 ∧ (brgDir n d t).replay = l.replay)
        ∧ (seq ≠ l.rxNext → 1 ≤ seqDiff l.rxNext seq → seqDiff l.rxNext seq ≤ 256 → brgDir n d t = l
            ∧ t.out = u.out ++ [brgTold n (1 - d) l.ack [0]])
        ∧ (seq ≠ l.rxNext → 256 < seqDiff l.rxNext seq → l.naking = false → brgDir n d t = { l with naking := true }
            ∧ t.out = u.out ++ [brgTold n (1 - d) l.ack [2, l.rxNext]])
        ∧ (seq ≠ l.rxNext → 256 < seqDiff l.rxNext seq → l.naking = true → brgDir n d t = l ∧ t.out = u.out))
      ∧ (pass = false → ∃ t, exec (.brgFlitReceived n d seq ack vc errs false op) s = .next (brgPump n (1 - d) t)
        ∧ brgDir n d t = { l with naking := true } ∧ (∀ m e, ¬ (m = n ∧ e = d) → m < 32 → e < 2 → brgDir m e t = brgDir m e u)
        ∧ t.out = (brgCrcFail n d seq u).out ++ (if l.naking then [] else [brgTold n (1 - d) l.ack [2, l.rxNext]]))
      ∧ (∀ h q k, pass = true → l.run = some (h, q, k) → h < 4 → h ≠ n % 4 → seq = l.rxNext → ∃ t,
        exec (.brgFlitReceived n d seq ack vc errs false op) s = .next (brgPump n (1 - d) t) ∧ (brgDir n d t).rxNext = (l.rxNext + 1) % 4096
          ∧ (brgDir n d t).run = (if k ≤ 1 then none else some (h, (q + 1) % 4096, k - 1))
          ∧ (brgDir (4 * (n / 4) + h) d t).rxNext = (if 2048 ≤ seqDiff q (brgDir (4 * (n / 4) + h) d u).rxNext then
              (brgDir (4 * (n / 4) + h) d u).rxNext else (q + 1) % 4096)
          ∧ t = { u with links := t.links, linkT := t.linkT, out := t.out })
      ∧ (pass = true → op = 0 → exec (.brgFlitReceived n d seq ack vc errs true op) s =
          .next (brgPump n (1 - d) (setBrgDir n (1 - d) ((brgDir n (1 - d) u).acked ack) u)))
      ∧ (pass = true → 6 < op → exec (.brgFlitReceived n d seq ack vc errs true op) s = .next (brgCrcFail n d seq u))

/-- What the control flits of a bridge do once they are taken: credits, NAK, CARRY, SWAP, WIDTH and DRAIN_END. It rests on the model's own
choices of assumption log 48, 161. -/
def Obligations.BridgeControlFlitsAct : Prop :=
  ∀ (n d seq ack : Nat) (s : State),
    (n < 32 → d < 2 → ∀ c u, lanePass n (1 - d) [] s = u → ∃ t, exec (.brgCredit n d ack c) s = .next (brgPump n d t)
      ∧ brgDir n d t = ((brgDir n d u).heard 256 (c.take 6)).acked ack ∧ (∀ m e, m * 2 + e ≠ n * 2 + d → brgDir m e t = brgDir m e u)
      ∧ t = { u with links := t.links, linkT := t.linkT })
    ∧ (n < 32 → d < 2 → ∀ u t, lanePass n (1 - d) [] s = u → setBrgDir n d ((brgDir n d u).acked ack) u = t →
      ((brgDir n d t).resent < 8 ∨ (brgX n t).draining = true → exec (.brgNak n d seq ack) s = .next (brgPump n d (resend n d (seq % 4096) t)))
      ∧ (8 ≤ (brgDir n d t).resent → (brgX n t).draining = false → exec (.brgNak n d seq ack) s = .next (startRetrain n (setBrgDir n d { brgDir n d t with resent := 0 } t))))
    ∧ (brgTakes n d seq ack s → ∀ home first count, home ≠ n % 4 → home < 4 → 0 < count →
      exec (.carry n d seq ack home first count) s = .next (brgPump n (1 - d) (setBrgDir n d { brgDir n d (brgTook n d seq ack s) with
        run := some (home, first % 4096, count % 256) } (brgTook n d seq ack s))))
    ∧ (n < 32 → d < 2 → ∀ home first count, home = n % 4 ∨ 4 ≤ home ∨ count = 0 →
      exec (.carry n d seq ack home first count) s = .next (brgHeader n d seq ack 8 false (lanePass n d [] s)).2)
    ∧ (brgTakes n d seq ack s → ∀ w ab ba, w = 8 ∨ w = 16 → (lanesOfMap ab).length = w → (lanesOfMap ba).length = w →
      (∀ k ∈ lanesOfMap ab, laneState n 0 k (brgTook n d seq ack s) ≠ 2) → (∀ k ∈ lanesOfMap ba, laneState n 1 k (brgTook n d seq ack s) ≠ 2) →
      exec (.brgWidth n d seq ack w ab ba) s = .next (applyWidth n w (lanesOfMap ab) (lanesOfMap ba) (brgTook n d seq ack s)))
    ∧ (brgTakes n d seq ack s →
      exec (.brgDrainEnd n d seq ack) s = .next (setBrgDir n d { brgDir n d (brgTook n d seq ack s) with run := none } (brgTook n d seq ack s)))
    ∧ (brgTakes n d seq ack s → ∀ dir lg l old t, dir < 2 → l < 18 → laneState n dir l (brgTook n d seq ack s) = 0 →
      physLane n dir lg (brgTook n d seq ack s) = some old →
      raise (brgP n) 16 (ladderStep n 1 dir old (recordCE (brgP n) 0x2003 (brgDetail dir old) (brgLoc dir old seq)
        (bump (brgP n) BRG_LADDER_SWAPS 1 (setBrgX n { brgX n (brgTook n d seq ack s) with
            swaps := (brgX n (brgTook n d seq ack s)).swaps.filter (fun w => !(w.1 == dir && w.2.1 == old)) }
          (showLanes n (setLane n dir l 1 lg (setLane n dir old 2 31 (brgTook n d seq ack s)))))))) = t →
      exec (.swap n d seq ack dir lg l) s = .next (if (brgX n t).swaps.isEmpty then reLadder n t else t))

/-- A bridge link's timers, its sparing ladder, its retrains and drains, and its control register. It rests on the model's own choices of
assumption log 46, 47, 48, 161. -/
def Obligations.BridgeLinksChange : Prop :=
  ∀ (n d : Nat) (s : State), n < 32 → d < 2 →
    (0 < (brgDir n d s).untold → exec (.brgCreditTimer n d) s = .next (brgSendCredit n d s))
    ∧ (∀ f fs, (brgDir n d s).replay = f :: fs → flag (brgP n) BRG_STAT_RETRAIN s = false →
      ∀ t, waitTill ((brgTime n d s).since + 1000) s = t →
      ((brgDir n d s).resent < 8 ∨ (brgX n s).draining = true → exec (.brgReplayTimeout n d) s = .next (resend n d f.seq t))
      ∧ (8 ≤ (brgDir n d s).resent → (brgX n s).draining = false →
        exec (.brgReplayTimeout n d) s = .next (startRetrain n (setBrgDir n d { brgDir n d s with resent := 0 } t))))
    ∧ (∀ vc, vc < 6 → brgCarries n s = true → (brgDir n d s).free 6 8 336 vc = 0 →
      exec (.brgCreditTimeout n d vc) s = .next (startRetrain n (recordCE (brgP n) 0x2009 (brgDetail d 31) (brgLoc d 31 0)
        (waitTill (((brgTime n d s).dry[vc]?).getD 0 + 1000000) s))))
    ∧ (∀ l w1s w1ms fails x t u, l < 18 → brgX n s = x →
      setLaneFails n d l (x.fails.filter (fun f => f.dir != d || f.lane != l) ++ [⟨d, l, s.now + 1000000, s.now + 1000000000, w1ms⟩,
        ⟨d, l, 0, s.now + 1000000000, w1s - w1ms⟩]) (setBrgX n { x with lost := x.lost.filter (fun e => e != (d, l)) } s) = t →
      (List.range fails).foldl (fun t _ => recordCE (brgP n) 0x2002 (brgDetail d l) (brgLoc d l 0) t) t = u →
      exec (.laneErrorRate n d l w1s w1ms fails) s = .next (climb n d l (laneRates n d l u).1 (laneRates n d l u).2 (!(laneRates n d l s).1) u))
    ∧ (∀ l x, l < 18 → brgX n s = x → exec (.brgLaneLockLoss n d l) s = .next (climb n d l true true (!(laneRates n d l s).1)
        (setBrgX n { x with lost := if x.lost.contains (d, l) then x.lost else x.lost ++ [(d, l)] } s)))
    ∧ (∀ l w, (brgX n s).swaps.find? (fun w => w.1 == d && w.2.2.1 == l && !w.2.2.2) = some w →
      exec (.spareTrained n d l true) s = .next (sendBrgCtl n d [4, d, laneLogical n d w.2.1 s, l]
        (setBrgX n { brgX n s with swaps := (brgX n s).swaps.filter (fun v => v != w) ++ [(d, w.2.1, l, true)] } s)))
    ∧ (∀ ab ba, flag (brgP n) BRG_STAT_RETRAIN s = true → ∀ t, lanesTrained n ab ba s = t →
      (goodBoth n t < 8 → exec (.linkRetrainDone n ab ba) s = .next (loss n (retire n (brgX n t).dir (brgX n t).lane 0x2008 t)))
      ∧ (8 ≤ goodBoth n t → widthMeant n t = 16 → goodBoth n t < 16 → exec (.linkRetrainDone n ab ba) s =
          .next (retrained n 8 (retrainDegrade n (lostLane n ab ba s) t)))
      ∧ (8 ≤ goodBoth n t → widthMeant n t ≠ 16 ∨ 16 ≤ goodBoth n t → exec (.linkRetrainDone n ab ba) s =
          .next (retrained n (widthMeant n t) t)))
    ∧ (brgCarries n s = true → ([0, 1].any (fun d => ((brgDir (4 * (n / 4) + getF (brgP n) BRG_STAT_SUBST s) d s).replay
        ++ (brgDir (4 * (n / 4) + getF (brgP n) BRG_STAT_SUBST s) d s).held).any (fun f => f.home == n % 4 && decide (f.vc < 8)))) = false →
      exec (.groupReturn n) s = .next (setF (brgP n) BRG_STAT_SUBST (n % 4) s))
    ∧ (∀ t u, (brgX n s).draining = true → drainTold n (if brgQuiet n s then s else waitTill ((brgX n s).since + 100000) s) = t →
      (strandedHerds n s).foldl (fun t h => strand n h (flitsLeft n 0 s, flitsLeft n 1 s) t) t = u →
      ∀ v, setBrgX n { brgX n u with draining := false, why := 0, target := 0 } u = v →
      ((brgX n s).why ≠ 3 → exec (.linkDrainEnd n) s = .next (relevel (checkBridge (n / 4) v)))
      ∧ ((brgX n s).why = 3 → exec (.linkDrainEnd n) s = .next (relevel (checkBridge (n / 4) (raise (brgP n) 18 (recordErr (brgP n) (brgX n s).target 2
          (brgDetail (brgX n s).dir (brgX n s).lane) (brgLoc (brgX n s).dir (brgX n s).lane 0) false v))))))
    ∧ (∀ fn v, reaches fn (brgP n + 0x80) s →
      (lockHolds (brgP n + 0x80) s = true → exec (.brgCtlWrite fn n v) s = .next (writeReg (brgP n + 0x80) v s))
      ∧ (lockHolds (brgP n + 0x80) s = false → flag (brgP n) BRG_CTL_MANUAL s = false → bitOf (rdW (brgP n + 0x80) s).toNat 1 ≠ bitOf v 1 → ∃ w,
        exec (.brgCtlWrite fn n v) s = .next (manualWidth n (raise (brgP n) 23 (writeReg (brgP n + 0x80) w s))) ∧ bitOf w 0 = bitOf v 0
          ∧ bitOf w 1 = bitOf (rdW (brgP n + 0x80) s).toNat 1)
      ∧ (lockHolds (brgP n + 0x80) s = false → flag (brgP n) BRG_CTL_MANUAL s = true ∨ bitOf (rdW (brgP n + 0x80) s).toNat 1 = bitOf v 1 →
        exec (.brgCtlWrite fn n v) s = .next (manualWidth n (writeReg (brgP n + 0x80) v s))))

/-- R517-R524, R604, R605: a grid packet takes its next hop: an adaptive class any productive way with credit, the others X then Y round absent
positions by the detour table, hub traffic through its port and over its frame's hub bridge. It rests on the model's own choices of assumption
log 51, 124. -/
def Obligations.GridPacketsHop : Prop :=
  ∀ (cls src dst here pick cred mask : Nat) (data : List Byte) (relay : Bool) (s : State), cls ≤ 5 → here ≠ dst →
    1 ≤ data.length → data.length ≤ 256 →
    (strangers src dst s = true → exec (.gridPacketHop cls src dst here pick cred data mask relay) s = .next s)
    ∧ (strangers src dst s = false → ∀ x, x = GridPkt.mk cls src dst here data mask ((herdOfRod (if src < 1024 then src else dst) s).getD 128) →
    (here < 1024 → ∀ tgt hub rel, heading here src dst relay s = some (tgt, hub) → (hub && dst != hubPlace) = rel →
      (¬ (hub = true ∧ here = tgt) →
        (∀ nxt, cls ≤ 1 → x.adaptive cred pick tgt s = some nxt →
          exec (.gridPacketHop cls src dst here pick cred data mask relay) s = .next (x.hop cls nxt rel s))
        ∧ (∀ b nxt, cls ≤ 1 → x.adaptive cred pick tgt s = none → detour here tgt s = some b → x.way cred 5 (dirOf here b) s = some nxt →
          exec (.gridPacketHop cls src dst here pick cred data mask relay) s = .next (x.hop 5 nxt rel s))
        ∧ (∀ b nxt, 2 ≤ cls → detour here tgt s = some b → x.way cred cls (dirOf here b) s = some nxt →
          exec (.gridPacketHop cls src dst here pick cred data mask relay) s = .next (x.hop cls nxt rel s))
        ∧ (∀ b, 2 ≤ cls → detour here tgt s = some b → x.way cred cls (dirOf here b) s = none →
          exec (.gridPacketHop cls src dst here pick cred data mask relay) s = .next s))
      ∧ (hub = true → here = tgt → ∀ q n, rodX (src % 1024) % 16 / 4 = q → carrier (rodFrame here) q s = some n →
          brgRoom n 1 cls (pktFlits data.length) s = true →
          exec (.gridPacketHop cls src dst here pick cred data mask relay) s =
            .next (x.go cls hubPlace rel (brgSend (rodFrame here) q 1 cls x.herd x.pays s))))
    ∧ (here = hubPlace → ∀ bs g b j n, hubPath (rodFrame dst) s = some (bs, g) → (bs.getLast?).getD g = b → rodX dst % 16 / 4 = j →
      carrier b j s = some n → brgRoom n 0 cls (pktFlits data.length) s = true →
        exec (.gridPacketHop cls src dst here pick cred data mask relay) s =
          .next (x.go cls (portRod g j s) false (brgSend b j 0 cls x.herd x.pays s))))

/-! ### Ranhosia Link -/

/-- R630-R633: a port accepts exactly the flit that its sequence expects, counts it, and answers duplicates and gaps; NAKs and timers resend
or retrain. R640: a packet in escape leaves by the escape port of its entry as soon as that has the credit. It rests on the model's own
choices of assumption log 39, 50, 126, 162. -/
def Obligations.RlPortsAcceptInSequence : Prop :=
  (∀ (p seq ack vc cvc cn op : Nat) (errs : List Nat) (cws : List (Nat × Nat × Nat)) (s u : State), p < 16 → vc < 8 → seq < 4096 →
    rlCodewords p cws s = u → ∀ fec, fecLost (cws.map (fun c => c.2.2)) = fec →
    (rlCrcPasses errs = true → fec = false → ∀ l, (portOf p u).acked ack = l →
      ∃ t, (∀ q, q ≠ p → portOf q t = portOf q u) ∧ t = { u with ports := t.ports, portT := t.portT }
        ∧ (seq = l.rxNext → exec (.rlFlitReceived p seq ack vc cvc cn errs cws false op) s =
              .next (credited p cvc cn (rlPumpCtl p (bump64 (rlpP p + 0xB8) 1 t)))
            ∧ portOf p t = { l with rxNext := (l.rxNext + 1) % 4096, naking := false, freed := vcAdd l.freed vc 1 })
        ∧ (seq ≠ l.rxNext → 1 ≤ seqDiff l.rxNext seq → seqDiff l.rxNext seq ≤ 512 → portOf p t = l
            ∧ exec (.rlFlitReceived p seq ack vc cvc cn errs cws false op) s = .next (credited p cvc cn (rlPumpCtl p (rlTell p [0] t))))
        ∧ (seq ≠ l.rxNext → 512 < seqDiff l.rxNext seq → l.naking = false → portOf p t = { l with naking := true }
            ∧ exec (.rlFlitReceived p seq ack vc cvc cn errs cws false op) s = .next (credited p cvc cn (rlPumpCtl p (rlTell p [1, l.rxNext] t))))
        ∧ (seq ≠ l.rxNext → 512 < seqDiff l.rxNext seq → l.naking = true → portOf p t = l
            ∧ exec (.rlFlitReceived p seq ack vc cvc cn errs cws false op) s = .next (credited p cvc cn (rlPumpCtl p t))))
    ∧ (rlCrcPasses errs = false ∨ fec = true → ∃ t, portOf p t = { portOf p u with naking := true } ∧ (∀ q, q ≠ p → portOf q t = portOf q u)
        ∧ t = { rlCrcFail p fec u with ports := t.ports, portT := t.portT }
        ∧ ((portOf p u).naking = true → exec (.rlFlitReceived p seq ack vc cvc cn errs cws false op) s = .next (rlPumpCtl p t))
        ∧ ((portOf p u).naking = false → exec (.rlFlitReceived p seq ack vc cvc cn errs cws false op) s =
            .next (rlPumpCtl p (rlTell p [1, (portOf p u).rxNext] t))))
    ∧ (rlCrcPasses errs = true → fec = false →
        (op = 0 → exec (.rlFlitReceived p seq ack vc cvc cn errs cws true op) s =
          .next (credited p cvc cn (rlPumpCtl p (setPort p ((portOf p u).acked ack) u))))
        ∧ (4 < op → exec (.rlFlitReceived p seq ack vc cvc cn errs cws true op) s = .next (rlCrcFail p false u))))
  ∧ (∀ (p seq ack : Nat) (s t : State), p < 16 → setPort p ((portOf p s).acked ack) s = t →
      ((portOf p t).resent < 8 ∨ rlPhase p t ≠ 5 → exec (.rlNak p seq ack) s = .next (rlPumpCtl p (rlResend p (seq % 4096) t)))
      ∧ (8 ≤ (portOf p t).resent → rlPhase p t = 5 → exec (.rlNak p seq ack) s =
          .next (rlRetrain p (rlStepRec p 5 1 0 (setPort p { portOf p t with resent := 0 } t)))))
  ∧ (∀ (p : Nat) (f : Unacked) (fs : List Unacked) (s t : State), p < 16 → (portOf p s).replay = f :: fs → rlPhase p s = 5 →
      waitTill ((portTime p s).since + 2000) s = t →
      ((portOf p s).resent < 8 → exec (.rlReplayTimeout p) s = .next (rlResend p f.seq t))
      ∧ (8 ≤ (portOf p s).resent → exec (.rlReplayTimeout p) s =
          .next (rlRetrain p (rlStepRec p 5 1 0 (setPort p { portOf p s with resent := 0 } t)))))
  ∧ (∀ (p : Nat) (s : State), p < 16 → exec (.rlIdleTimer p) s = .next (rlIdle p s))
  ∧ (∀ (p vc : Nat) (s : State), p < 16 → vc < 8 → rlPhase p s = 5 → (portOf p s).free 8 16 896 vc = 0 →
      exec (.rlCreditTimeout p vc) s = .next (rlRetrain p (recordCE (rlpP p) 0x2108 (rlDetail p 0) (rlLoc p 0)
        (waitTill (((portTime p s).dry[vc]?).getD 0 + 1000000) s))))
  ∧ (∀ (p seq ack : Nat) (s : State), p < 16 → exec (.rlDrainEnd p seq ack) s = .next (rlHeader p seq ack 8 true false s).2)
  ∧ (∀ (k p : Nat) (w : Pkt × Nat) (s t : State), s.rlWait[k]? = some w →
      waitTill (w.2 + 1000) { s with rlWait := s.rlWait.take k ++ s.rlWait.drop (k + 1) } = t →
      w.1.esc = true → escPort (routeEntry w.1.dst t) t = some p → (w.1.aged w.2 t).old = false →
      (w.1.flits ≤ portCredit p w.1.vc w.1.flits t → exec (.escapeTimer k) s = .next (sendPort p (w.1.aged w.2 t) t))
      ∧ (portCredit p w.1.vc w.1.flits t < w.1.flits → exec (.escapeTimer k) s = .next (holdPkt w.1 w.2 t)))

/-- R643-R645, R648, R672, R677, R684: how a port trains, aligns, meets its partner, changes its width, retrains and drains. It rests on the
model's own choices of assumption log 47, 52. -/
def Obligations.RlPortsChangeState : Prop :=
  ∀ (p : Nat) (s : State), p < 16 →
    (rlPhase p s = 1 → lifeAt (statOf (rlpP p)) s = 1 → ∃ t, exec (.rlPartnerSignal p) s = .next t ∧ rlPhase p t = 2
      ∧ (∀ a, a ≠ rlpP p + RLP_STAT_PHASE.off → rdW a t = rdW a s) ∧ t = { s with regs := t.regs })
    ∧ (∀ rx tx, rlPhase p s = 2 → rx < 16 → tx < 16 → 0 < rx → 0 < tx → ∃ t, exec (.rlTrainDone p rx tx) s = .next t ∧ rlPhase p t = 3
      ∧ getF (rlpP p) RLP_STAT_GOOD_RX t = rx ∧ getF (rlpP p) RLP_STAT_GOOD_TX t = tx
      ∧ getF (rlpP p) RLP_STAT_USED_RX t = 0 ∧ getF (rlpP p) RLP_STAT_USED_TX t = 0 ∧ t = { s with regs := t.regs })
    ∧ (rlPhase p s = 3 → ∀ w, widthFor (min (rlGood p 0 s).length (rlGood p 1 s).length) (widthMax p s) = w →
      exec (.rlAlignDone p) s = .next (setPhase p 4 (setRlWidth p w ((rlGood p 0 s).take w) ((rlGood p 1 s).take w) s)))
    ∧ (rlPhase p s = 4 ∨ rlPhase p s = 5 → ∀ k t u, s.rtr.best.getD ⟨0, 0, 0⟩ = k → waitTill ((rlpX p s).hello + 1000000) s = t →
      setRlpX p { rlpX p t with hello := t.now } t = u →
      exec (.helloTimer p) s = .next (rlTell p [2, ownSerial, nodeId u, b2n (nodeValid u), nodeEpoch u, p, k.host, k.pri, k.serial] u))
    ∧ (∀ serial node epoch port host pri kserial valid, rlPhase p s = 5 → flag (rlpP p) RLP_NBR_VALID s = true → rd64 (rlpP p + 0x88) s = serial →
      getF (rlpP p) RLP_NBR_NODE s = node → getF (rlpP p) RLP_NBR_EPOCH s = epoch → flag (rlpP p) RLP_NBR_NODE_VALID s = valid → host = 0 → pri = 0 →
      ∃ t, exec (.hello p serial node epoch port valid host pri kserial) s = .next t ∧ getF (rlpP p) RLP_NBR_PORT t = port % 2 ^ RLP_NBR_PORT.width
        ∧ rd64 (rlpP p + 0x88) t = serial ∧ t = { s with regs := t.regs })
    ∧ (∀ t u v, rlPhase p s = 6 →
      showRetraining (raise (rlpP p) 19 (setF (rlpP p) RLP_STAT_CARRYING 1 (setPhase p 5 (setRlpX p { rlpX p s with tx := [], blk := 0 } s)))) = t →
      rlRepeat p t = u → rlLadder p 0 (rlpX p u).lane u = v →
      exec (.rlRetrainDone p) s = .next (pumpWait
        (if (rlpX p v).maxDue ∧ rlPhase p v = 5 then rlApplyMax p (setRlpX p { rlpX p v with maxDue := false } v) else v)))
    ∧ (∀ t u, (rlpX p s).draining = true →
      (if (portOf p s).replay.isEmpty && (portOf p s).ctl.isEmpty then s else waitTill ((rlpX p s).since + 100000) s) = t →
      sendRlCtl p [4, ((portOf p s).txNext + 4095) % 4096] (setPort p { portOf p s with replay := [], ctl := [] } t) = u →
      ∀ v, setRlpX p .rest (if (portOf p s).replay.any (fun f => decide (f.vc < 8)) then recordCE (rlpP p) 0x2106 (rlDetail p 0) (rlLoc p 0) u else u) = v →
      ((rlpX p s).down = 0 → exec (.rlDrainDone p) s = .next v)
      ∧ ((rlpX p s).down ≠ 0 → exec (.rlDrainDone p) s = .next (setPhase p 0 (raise (rlpP p) 17
          (recordErr (rlpP p) (rlpX p s).down 2 (rlDetail p (rlpX p s).lane) (rlLoc p (rlpX p s).lane) false v)))))
    ∧ (∀ l corr uncorr, l < 4 → ∀ t, setF (rlpP p) (RLP_LANE_CORR l) (min (2 ^ 24 - 1) corr) (setF (rlpP p) (RLP_LANE_UNCORR l) (min 63 uncorr) s) = t →
      (corr ≤ 106250 → uncorr < 2 → exec (.rlLaneWindow p l corr uncorr) s = .next t)
      ∧ ((rlGood p 0 t).contains l = true → 2550000 < corr ∨ 2 ≤ uncorr → exec (.rlLaneWindow p l corr uncorr) s = .next (rlLaneFail p l t)))
    ∧ (∀ l, l < 4 → (rlGood p 0 s).contains l = true → exec (.rlLaneLockLoss p l) s = .next (rlLaneFail p l s))
    ∧ (∀ seq ack w rx tx t, (rlHeader p seq ack 8 true false s) = (.accept, t) → getF (rlpP p) RLP_STAT_WIDTH t ≠ w →
      (lanes4 rx).length = w → (lanes4 tx).length = w → w = 1 ∨ w = 2 ∨ w = 4 → lifeAt (statOf (rlpP p)) t = 2 → (rlpX p t).draining = false →
      ∃ u, exec (.rlWidth p seq ack w rx tx) s = .next (portEvent p (rlPhase p t) (getF (rlpP p) RLP_STAT_WIDTH t)
          (rlRetrain p (setRlWidth p w (lanes4 rx) (lanes4 tx) u))) ∧ bitOf (rdW (rlpP p + 0x10) u).toNat 16 = true)
    ∧ (∀ fn v t, reaches fn (rlpP p + 0x80) s → writeReg (rlpP p + 0x80) (if v % 4 = 3 then v - 1 else v) s = t →
      (rdW (rlpP p + 0x80) t = rdW (rlpP p + 0x80) s ∨ rlPhase p t < 5 ∨ 6 < rlPhase p t → exec (.rlpCtlWrite fn p v) s = .next t)
      ∧ (rdW (rlpP p + 0x80) t ≠ rdW (rlpP p + 0x80) s → rlPhase p t = 5 → exec (.rlpCtlWrite fn p v) s = .next (rlApplyMax p t))
      ∧ (rdW (rlpP p + 0x80) t ≠ rdW (rlpP p + 0x80) s → rlPhase p t = 6 →
        exec (.rlpCtlWrite fn p v) s = .next (setRlpX p { rlpX p t with maxDue := true } t)))

/-- R634-R642: an arriving packet is taken, flooded, source-routed, routed or discarded; one that waits too long takes the escape. It rests
on the model's own choices of assumption log 39, 167. -/
def Obligations.RlPacketsFindTheirWay : Prop :=
  (∀ (p dst src hops age cls len us serial mseq : Nat) (esc : Bool) (body : List Byte) (s : State),
    p < 16 → dst < 2 ^ 18 → src < 2 ^ 18 → hops < 64 → cls < 6 → len ≤ 4128 →
      (nodeValid s = true → dst = nodeId s →
        exec (.rlPacketArrival p dst src hops age cls len us serial mseq esc false false false body) s =
          .next (takePkt ⟨p, dst, src, hops, age, cls, esc, false, false, body⟩ s))
      ∧ ((nodeValid s && dst == nodeId s) = false → hops ≤ 1 ∨ 16000 ≤ age + max 1 us →
        exec (.rlPacketArrival p dst src hops age cls len us serial mseq esc false false false body) s = .next (rlDiscard s))
      ∧ ((nodeValid s && dst == nodeId s) = false → 2 ≤ hops → age + max 1 us < 16000 →
        exec (.rlPacketArrival p dst src hops age cls len us serial mseq esc false false false body) s =
          .next (routePkt 2 ⟨p, dst, src, hops - 1, age + max 1 us, cls, esc, false, false, body⟩ s.now s))
      ∧ (seenMsg serial mseq s = false → 2 ≤ hops → age + max 1 us < 16000 → ∀ t, rememberMsg serial mseq s = t →
        exec (.rlPacketArrival p dst src hops age cls len us serial mseq esc true false false body) s = .next
          (((carryingPorts t).filter (fun q => q != p)).foldl
            (fun u q => sendVia q ⟨p, dst, src, hops - 1, age + max 1 us, cls, esc, true, false, body⟩ u.now u) t))
      ∧ (∀ r, leNat (body.take 8) = r →
        (bitsOf r 51 48 = 0 → exec (.rlPacketArrival p dst src hops age cls len us serial mseq esc false true false body) s =
          .next (takePkt ⟨p, dst, src, hops, age, cls, esc, false, true, body⟩ s))
        ∧ (0 < bitsOf r 51 48 → 2 ≤ hops → age + max 1 us < 16000 → ∀ q, bitsOf r 47 4 % 16 = q → carries q s = true →
          exec (.rlPacketArrival p dst src hops age cls len us serial mseq esc false true false body) s = .next (sendVia q
            ⟨p, dst, src, hops - 1, age + max 1 us, cls, esc, false, true, leBytes 8 (bitsOf r 47 4 + (bitsOf r 51 48 - 1) * 2 ^ 48) ++ body.drop 8⟩ s.now s)))
      ∧ (seenMsg serial mseq s = true → exec (.rlPacketArrival p dst src hops age cls len us serial mseq esc true false false body) s = .next s))
  ∧ (∀ (p dst src hops age cls len us serial mseq : Nat) (esc fld sr : Bool) (body : List Byte) (s : State),
      exec (.rlPacketArrival p dst src hops age cls len us serial mseq esc fld sr true body) s = .next (rlDiscard s))
  ∧ (∀ (k : Nat) (w : Pkt × Nat) (s t : State), s.rlWait[k]? = some w →
      waitTill (w.2 + 1000) { s with rlWait := s.rlWait.take k ++ s.rlWait.drop (k + 1) } = t →
      (∃ e, exec (.escapeTimer k) s = .next (routePkt 2 e w.2 t) ∧ (e = w.1 ∨ e = { w.1 with esc := true }))
      ∧ (w.1.esc = true → exec (.escapeTimer k) s = .next (routePkt 2 w.1 w.2 t))
      ∧ (w.1.esc = false → bestPort w.1.vc w.1.flits t (liveCands (routeEntry w.1.dst t) t) = none → (escPort (routeEntry w.1.dst t) t).isSome = true →
        exec (.escapeTimer k) s = .next (routePkt 2 { w.1 with esc := true } w.2 t)))
  ∧ (∀ (k : Nat) (s : State), s.rlWait[k]? = none → exec (.escapeTimer k) s = .next s)

/-! ### Messages between rods -/

/-- R549-R552, R564: a reservation is queued, granted against free granules, refused with the target's answer, or tried again; the item's words
arrive and are answered. R555-R559, R567, R571, R573: a blocked wait sends a probe, which goes on along older waits, comes back to confirm,
and ends in one broken wait. It rests on the model's own choices of assumption log 24, 34, 35, 36. -/
def Obligations.ItemsAreReservedSentAndAnswered : Prop :=
  (∀ (i num t ch len : Nat) (s : State), sendInfo (senderOf i num) s = some (0, t, ch, len) →
    (sendBehind (senderOf i num) t ch s = true → exec (.reservation i num) s = .next s)
    ∧ (sendBehind (senderOf i num) t ch s = false →
      (rodRuns t s = true → 0 < getF (msgP t) (MSG_CH_BUF_SIZE ch) s → granules len ≤ getF (msgP t) (MSG_CH_BUF_SIZE ch) s →
        ((resvsAt t s).length < 256 → exec (.reservation i num) s = .next (sendPhase (senderOf i num) 1 true
          { s with resvs := alSet s.resvs t (resvsAt t s ++ [⟨senderOf i num, ch, granules len⟩]) }))
        ∧ (256 ≤ (resvsAt t s).length → exec (.reservation i num) s = .next (sendPhase (senderOf i num) 2 true (raise (msgP t) 19 s))))
      ∧ (rodRuns t s = false → exec (.reservation i num) s = .next (answerSend (senderOf i num) 0x82 s))
      ∧ (rodRuns t s = true → getF (msgP t) (MSG_CH_BUF_SIZE ch) s = 0 →
        exec (.reservation i num) s = .next (answerSend (senderOf i num) 0x81 s))
      ∧ (rodRuns t s = true → 0 < getF (msgP t) (MSG_CH_BUF_SIZE ch) s → getF (msgP t) (MSG_CH_BUF_SIZE ch) s < granules len →
        exec (.reservation i num) s = .next (answerSend (senderOf i num) 0x80 s))))
  ∧ (∀ (i num : Nat) (x : Nat × Nat × Nat) (s : State), sendInfo (senderOf i num) s = some (2, x) →
      exec (.reservationRetry i num) s = .next (sendPhase (senderOf i num) 0 true (waitTill (sendSince (senderOf i num) s + 1000) s)))
  ∧ (∀ (t ch : Nat) (r : Resv) (s : State), (resvsAt t s).find? (fun r => r.ch == ch) = some r → isCchan t ch s = false → r.gran ≤ chanFree t ch s →
      exec (.grant t ch) s = .next (sendGranted t ch r (setF (msgP t) (MSG_CH_STAT_FREE ch) (chanFree t ch s - r.gran)
        { s with resvs := alSet s.resvs t ((resvsAt t s).erase r) })))
  ∧ (∀ (q prod w mask : Nat) (f : Flight) (x y : Nat × Nat) (ws : List (Nat × Nat)) (s t : State), s.flights.find? (fun f => f.q == q && f.prod == prod) = some f →
      (f.words = x :: y :: ws → { s with flights := s.flights.map (fun g => if g == f then { g with words := y :: ws } else g) } = t →
        (lostWord f s = true → exec (.framedWordArrival q prod w mask) s = .next t)
        ∧ (∀ u, lostWord f s = false → wordIn q prod x.1 x.2 t = (none, u) → exec (.framedWordArrival q prod w mask) s = .next u)
        ∧ (∀ code u, lostWord f s = false → wordIn q prod x.1 x.2 t = (some code, u) →
          exec (.framedWordArrival q prod w mask) s = .next (answerSend f.src code u)))
      ∧ (f.words = [x] → { s with flights := s.flights.erase f } = t →
        (lostWord f s = true → exec (.framedWordArrival q prod w mask) s = .next (answerSend f.src 0x82 t))
        ∧ (∀ u, lostWord f s = false → wordIn q prod x.1 x.2 t = (none, u) → exec (.framedWordArrival q prod w mask) s = .next u)
        ∧ (∀ code u, lostWord f s = false → wordIn q prod x.1 x.2 t = (some code, u) →
          exec (.framedWordArrival q prod w mask) s = .next (answerSend f.src code u))))
  ∧ (∀ (q prod w mask : Nat) (s : State), s.flights.find? (fun f => f.q == q && f.prod == prod) = none → q < 0x8000 →
      (∀ p, (fqOf q s).parts.find? (fun p => p.prod == prod) = some p →
        (1 < p.left → exec (.framedWordArrival q prod w mask) s = .next (setFq q { fqOf q s with
            parts := (fqOf q s).parts.filter (fun x => x.prod != prod) ++ [{ p with
              body := p.body ++ leBytes 8 w
              bad := p.bad ++ ((List.range 8).filter (bitOf mask)).map (fun k => p.body.length + k)
              left := p.left - 1 }] } s))
        ∧ (p.left ≤ 1 → p.drop = true → exec (.framedWordArrival q prod w mask) s =
            .next (setFq q { fqOf q s with parts := (fqOf q s).parts.filter (fun x => x.prod != prod) } s))
        ∧ (p.left ≤ 1 → p.drop = false → exec (.framedWordArrival q prod w mask) s = .next (itemWhole q { p with
              body := p.body ++ leBytes 8 w
              bad := p.bad ++ ((List.range 8).filter (bitOf mask)).map (fun k => p.body.length + k)
              left := p.left - 1 } (setFq q { fqOf q s with parts := (fqOf q s).parts.filter (fun x => x.prod != prod) } s)).2))
      ∧ ((fqOf q s).parts.find? (fun p => p.prod == prod) = none →
        (headerOk q w = true → 1 < (w % 65536 + 7) / 8 → exec (.framedWordArrival q prod w mask) s = .next (setFq q { fqOf q s with
            resync := nsErase (fqOf q s).resync prod
            parts := (fqOf q s).parts ++ [⟨prod, w, [], [], (w % 65536 + 7) / 8 - 1, false⟩] } s))
        ∧ (headerOk q w = false → (fqOf q s).resync.contains prod = true → exec (.framedWordArrival q prod w mask) s = .next s)
        ∧ (headerOk q w = false → (fqOf q s).resync.contains prod = false → exec (.framedWordArrival q prod w mask) s =
            .next (framingError q (setFq q { fqOf q s with resync := nsInsert (fqOf q s).resync prod } s)))))
  ∧ (∀ (v prod w mask : Nat) (s t : State), v < 4 → s.flights.find? (fun f => f.q == 0xA000 + v && f.prod == prod) = none →
      (synMayWrite v prod w s = false → exec (.framedWordArrival (0xA000 + v) prod w mask) s = .next s)
      ∧ (synMayWrite v prod w s = true → synTake v (wordIn (0xA000 + v) prod w mask s).2 = t →
        exec (.framedWordArrival (0xA000 + v) prod w mask) s = .next (setF (vpxP v) VPX_SYNBUF_USED (synUsed v t) t)))
  ∧ (∀ (i num : Nat) (x : Nat × Nat × Nat) (c : Started) (s : State), i < 1024 → sendInfo (senderOf i num) s = some (4, x) → startedBy i num s = some c →
      cwUnit c.cmd.word = 5 → exec (.itemAnswer i num) s = .next (sendDone i num ((c.aux[6]?).getD 0) s))
  ∧ (∀ (id : Nat) (x : Nat × Nat × Nat) (h : HubItem) (key : Nat) (s : State), sendInfo (.hub id) s = some (4, x) →
      s.hubItems.find? (fun h => h.id == id) = some h → h.dup = none → h.entry = some key → 0 < h.answer →
      exec (.itemAnswer 1024 id) s = .next (hqOver key (h.answer % 256) 0 [] { s with hubItems := s.hubItems.filter (fun x => x.id != id) }))
  ∧ (∀ (i num ph t ch len : Nat) (s : State), sendInfo (senderOf i num) s = some (ph, t, ch, len) → ph = 0 ∨ ph = 3 →
      exec (.resvTimeout i num) s = .next (recordWith (msgP (if i < 1024 then i else t)) 0x1805 2 ch t false false ((senderHerd (senderOf i num) s).toList)
        (waitTill (sendSince (senderOf i num) s + 1000000) s)))
  ∧ (∀ (fn i k v : Nat) (s : State), reaches fn (msgP i + 0x10C + 16 * k) s → bitOf v 0 = true → exec (.msgChFlush fn i k v) s = .next (flushChan i k s))
  ∧ (∀ (fn i k v : Nat) (s : State), reaches fn (msgP i + 0x100 + 16 * k) s → flag (msgP i) PG_LOCK_LOCKED s = false →
      spadSize < (v % 2 ^ 15 + min 32768 (bitsOf v 31 16)) * 64 → exec (.msgChBufWrite fn i k v) s = .next (raise (msgP i) 18 s))
  ∧ (∀ (fn i k v : Nat) (s t u : State), reaches fn (msgP i + 0x100 + 16 * k) s → flag (msgP i) PG_LOCK_LOCKED s = false →
      (v % 2 ^ 15 + min 32768 (bitsOf v 31 16)) * 64 ≤ spadSize → flushChan i k s = t →
      writeReg (msgP i + 0x100 + 16 * k) (min 32768 (bitsOf v 31 16) * 65536 + v % 2 ^ 15) t = u →
      exec (.msgChBufWrite fn i k v) s = .next (recheckHeld (setFq (chanKey i k) { fqOf (chanKey i k) u with tail := 0 }
        (setF (msgP i) (MSG_CH_STAT_FREE k) (min 32768 (bitsOf v 31 16) - (getF (msgP i) (MSG_CH_BUF_SIZE k) t - chanFree i k t)) u))))
  ∧ (∀ (i num n : Nat) (c : Started) (s t : State), startedBy i num s = some c → dlHerd i s = some n → c.blocked = true → edgeOf i c s ≠ .none →
    waitTill (max (c.since + getF (herdP n) HERD_MODE_HOLD s * 1000) c.probeAt) s = t →
    exec (.probeTimer i num) s = .next (sendProbe i ⟨false, nodeId s, i, cwUnit c.cmd.word, num, c.since, c.fab, c.block, 0, 0, []⟩ (edgeOf i c s)
      (bump (msgP i) MSG_PROBES_INIT 1 (updStarted i num (fun c' => { c' with probeAt := t.now + probeEvery (edgeOf i c s) }) t))))
  ∧ (∀ (k : Nat) (p : Probe) (s t : State), s.probes[k]? = some p → { s with probes := s.probes.eraseIdx k } = t → p.conf = false →
      (probeTakes (probeRod p t) t = false → exec (.probe k) s = .next t)
      ∧ (probeTakes (probeRod p t) t = true → ¬ (p.node = nodeId t ∧ p.rod = probeRod p t) → p.path.length < 1024 →
        exec (.probe k) s = .next (forwardProbe p (probeRod p t) t))
      ∧ (∀ c, probeTakes (probeRod p t) t = true → p.node = nodeId t → p.rod = probeRod p t → startedBy p.rod p.num t = some c →
        c.blocked = true → c.block = p.block → c.since = p.start → p.path.length < 1024 →
        exec (.probe k) s = .next (forwardProbe p p.rod (confirmOn p.rod { p with conf := true, passed := 0 } t)))
      ∧ (probeTakes (probeRod p t) t = true → p.node ≠ nodeId t → 1024 ≤ p.path.length → exec (.probe k) s = .next t))
  ∧ (∀ (k : Nat) (p : Probe) (c : Started) (s t : State), s.probes[k]? = some p → { s with probes := s.probes.eraseIdx k } = t → p.conf = true →
      (∀ x, p.path[p.passed]? = some x → startedBy x.2.1 x.2.2.1 t = some c → c.blocked = true → c.block = x.2.2.2 → x.2.1 = p.dest → probeTakes x.2.1 t = true →
        exec (.confirmation k) s = .next (confirmOn x.2.1 { p with passed := p.passed + 1 } t))
      ∧ (p.path[p.passed]? = none → startedBy p.rod p.num t = some c → c.blocked = true → c.block = p.block → c.since = p.start → p.rod = p.dest → probeTakes p.rod t = true →
        exec (.confirmation k) s = .next (breakWait p.rod p.num (p.path.length + 1) t)))

/-! ### Herds -/

/-- R532-R534, R541, R545: a herd is reset, begins a resize or refuses it, and takes its shares. -/
def Obligations.HerdsAreResetResizedAndShared : Prop :=
  ∀ (fn n v : Nat) (s : State),
    (reaches fn (herdP n + 0x8C) s → bitOf v 0 = true →
      (lifeAt (statOf (herdP n)) s = 2 ∨ lifeAt (statOf (herdP n)) s = 5 → exec (.herdReset fn n v) s = .next (herdReset n false s))
      ∧ (lifeAt (statOf (herdP n)) s ≠ 2 → lifeAt (statOf (herdP n)) s ≠ 5 → exec (.herdReset fn n v) s = .next (raise (herdP n) 3 s)))
    ∧ (reaches fn (herdP n + 0x90) s → bitOf v 31 = true →
      (lifeAt (statOf (herdP n)) s ≠ 2 ∨ flag (herdP n) HERD_RSTAT_BUSY s = true ∨ (herdRods n s).any (fun i => lifeAt (statOf (seqP i)) s != 0) = true →
        exec (.herdResize fn n v) s = .next (setF (herdP n) HERD_RSTAT_STATUS 0x13 s))
      ∧ (lifeAt (statOf (herdP n)) s = 2 → flag (herdP n) HERD_RSTAT_BUSY s = false → (herdRods n s).any (fun i => lifeAt (statOf (seqP i)) s != 0) = false →
        ∀ r, rodChecks n (herdX0 n s) (herdY0 n s) (bitsOf v 21 16) (bitsOf v 29 24)
          ((rectRods (herdX0 n s) (herdY0 n s) (bitsOf v 21 16) (bitsOf v 29 24)).filter (fun i => !(geomRods n s).contains i)) s = r →
        (∀ st, r = some st → exec (.herdResize fn n v) s = .next (setF (herdP n) HERD_RSTAT_STATUS st s))
        ∧ (r = none → exec (.herdResize fn n v) s =
            .next (setF (herdP n) HERD_RSTAT_BUSY 1 { s with resizes := alSet s.resizes n ⟨bitsOf v 21 16, bitsOf v 29 24, none⟩ }))))
    ∧ (∀ r, r < 12 → reaches fn (herdP n + 0xA0 + 4 * r) s → n < 128 →
      (flag (herdP n) PG_LOCK_LOCKED s = false → ∃ t,
        exec (.herdShareWrite fn n r v) s = .next (if rdW (herdP n + 0xA0 + 4 * r) t = rdW (herdP n + 0xA0 + 4 * r) s then t
          else relevel (raise (herdP n) 19 t))
        ∧ getF (herdP n) (HERD_SHARE_FLOOR r) t = bitsOf v 7 0 ∧ getF (herdP n) (HERD_SHARE_CAP r) t = bitsOf v 23 16
        ∧ getF (herdP n) (HERD_SHARE_WEIGHT r) t = (if flag (thmP 1) THM_GOAL_SHARES_MAN s = true then bitsOf v 7 0
            else max (bitsOf v 7 0) (getF (herdP n) (HERD_SHARE_WEIGHT r) s))
        ∧ (∀ a, 0x90000 ≤ a → a ≠ herdP n + 0xA0 + 4 * r → rdW a t = rdW a s))
      ∧ (flag (herdP n) PG_LOCK_LOCKED s = true → ∃ t, exec (.herdShareWrite fn n r v) s = .next t
        ∧ getF (herdP n) (HERD_SHARE_FLOOR r) t = getF (herdP n) (HERD_SHARE_FLOOR r) s
        ∧ getF (herdP n) (HERD_SHARE_CAP r) t = getF (herdP n) (HERD_SHARE_CAP r) s))

/-! ### Bead memory -/

/-- R353, R360, R362-R364, R368, R390, R396: a bead request is served from the cache, waits for a fill, is held back, or ends; the end of a
fill serves those that waited for it, in the order in which they came. It rests on the model's own choices of assumption log 30, 155. -/
def Obligations.BeadRequestsAreServed : Prop :=
  (∀ (id i a q : Nat) (r : PReq) (s : State), s.reqs.find? (fun r => r.id == id) = some r → r.phase = 1 → r.target = some (.bead i a) → a / 2048 = q →
    (beadSize < a + r.len → exec (.beadRequest id) s = .next (updReq id (fun x => { x with phase := 3, status := 9 }) (recordCE (beadP i) 0x160F 0 a s)))
    ∧ (a + r.len ≤ beadSize →
      (∀ st, beadBlocked i a s = some st → exec (.beadRequest id) s = .next (updReq id (fun x => { x with phase := 3, status := st }) s))
      ∧ (beadBlocked i a s = none → chanHeld i (pageChan q) s = true ∨ 64 ≤ (waiting i s).length → exec (.beadRequest id) s = .next s)
      ∧ (beadBlocked i a s = none → chanHeld i (pageChan q) s = false → (waiting i s).length < 64 →
        (∀ t, (resident i q s = true ∧ cacheUse i q (bump64 (beadP i + 0xD8) 1 s) = t)
            ∨ (resident i q s = false ∧ r.write = true ∧ r.len = 2048 ∧ (fillsOf i s).contains q = false
              ∧ cacheInsert i q (List.range 32) true (regionClass i (pageRegion q) (bump64 (beadP i + 0xE0) 1 s)) (bump64 (beadP i + 0xE0) 1 s) = t) →
          (r.write = false → exec (.beadRequest id) s = .next (updReq id (fun x => { x with
            phase := 3, data := beadBytes i a r.len t, bad := beadBadIn i a r.len t }) t))
          ∧ (r.write = true → lostAt i a t = false → exec (.beadRequest id) s = .next (updReq id (fun x => { x with phase := 3, status := 0 })
            (putSectors i a r.data.length r.bad (putBytes i a r.data t))))
          ∧ (r.write = true → lostAt i a t = true → exec (.beadRequest id) s = .next (updReq id (fun x => { x with phase := 3, status := 4 }) t)))
        ∧ (resident i q s = false → r.write = false ∨ r.len ≠ 2048 ∨ (fillsOf i s).contains q = true →
          ((fillsOf i s).contains q = false → 8 ≤ ((fillsOf i s).filter (fun x => pageChan x == pageChan q)).length →
            exec (.beadRequest id) s = .next s)
          ∧ (∀ t, (fillsOf i s).contains q = true ∨ ((fillsOf i s).filter (fun x => pageChan x == pageChan q)).length < 8 →
            bump64 (beadP i + 0xE0) 1 (updReq id (fun x => { x with phase := 2 }) s) = t →
            exec (.beadRequest id) s = .next (setBead i { beadOf i t with waits := (beadOf i t).waits.filter (fun w => w != id) ++ [id] } t))))))
  ∧ (∀ (i q : Nat) (crc errs : List Nat) (hdr other : Bool) (s t : State), (fillsOf i s).contains q = true → chanHeld i (q % 2) s = false →
      (∀ u, (crc.filter (fun n => decide (0 < n) && decide (n < 8))).foldl (fun t _ => recordCE (beadP i) 0x1605 (pageChan q * 16) q t) s = u →
        (crc.any (fun n => decide (8 ≤ n)) = false → fillPage i q (found i q errs hdr other u) = t →
          exec (.beadFillDone i q crc errs hdr other) s =
            .next (((waiting i t).filter (fun r => r.page == some (i, q))).foldl (fun v r => unwait i r.id (applyReq r v)) t))
        ∧ (crc.any (fun n => decide (8 ≤ n)) = true → exec (.beadFillDone i q crc errs hdr other) s = .next (calDue i (pageChan q) u)))
      ∧ (∀ r, crc = [] → fillPage i q (found i q errs hdr other s) = t → (waiting i t).filter (fun r => r.page == some (i, q)) = [r] →
        r.write = false → ∀ a, r.target = some (.bead i a) → exec (.beadFillDone i q crc errs hdr other) s = .next (unwait i r.id
          (updReq r.id (fun x => { x with phase := 3, data := beadBytes i a r.len t, bad := beadBadIn i a r.len t }) t))))
  ∧ (∀ (i q : Nat) (crc errs : List Nat) (hdr other : Bool) (s : State), (fillsOf i s).contains q = false ∨ chanHeld i (q % 2) s = true →
      exec (.beadFillDone i q crc errs hdr other) s = .next s)

/-- R366, R369, R374-R395: write-back, refresh, scrub, auto-spare windows, recoding, class registers and the end of a zero fill. It rests on
the model's own choices of assumption log 30, 88, 155. -/
def Obligations.BeadColumnsAreKept : Prop :=
  ∀ (i : Nat) (s : State),
    (∀ fn v, reaches fn (beadP i + 0xE8) s →
        (bitOf v 0 = true → exec (.beadWback fn i v) s = .next (setF (beadP i) BEAD_CTL_BUSY 1 s))
        ∧ (bitOf v 0 = false → exec (.beadWback fn i v) s = .next s))
    ∧ (flag (beadP i) BEAD_CTL_BUSY s = true → ((beadOf i s).cache.filter CPage.needs).any (fun c => chanHeld i (pageChan c.q) s) = false →
        exec (.beadWbackDone ⟨i, []⟩) s = .next (setF (beadP i) BEAD_CTL_BUSY 0
          ((beadOf i s).cache.foldl (fun t c => if c.needs then writeBack i c.q false t else t) s))
        ∧ (∀ q n t, chanHeld i (pageChan q) s = false → crcRepeats i q [n] s = t →
          (t.1 = true → exec (.beadWbackDone ⟨i, [(q, n)]⟩) s = .next (setF (beadP i) BEAD_CTL_BUSY 0
            ((beadOf i t.2).cache.foldl (fun t c => if c.needs then writeBack i c.q false t else t) t.2)))
          ∧ (t.1 = false → exec (.beadWbackDone ⟨i, [(q, n)]⟩) s = .next t.2)))
    ∧ (((beadOf i s).cache.filter CPage.needs).any (fun c => chanHeld i (pageChan c.q) s) = true → exec (.beadWbackDone ⟨i, []⟩) s = .next s)
    ∧ (∀ crc, flag (beadP i) BEAD_CTL_BUSY s = false → exec (.beadWbackDone ⟨i, crc⟩) s = .next s)
    ∧ (∀ k, k < 8 →
        (beadBand (beadTemp i k s) (beadMult i k s) = beadMult i k s → exec (.beadRefresh i k) s = .next s)
        ∧ (∀ b, beadBand (beadTemp i k s) (beadMult i k s) = b → b ≠ beadMult i k s →
          exec (.beadRefresh i k) s = .next (applyFloors i (setF (beadP i) ⟨0x0C0, 2 * k + 1, 2 * k⟩ b s))))
    ∧ (∀ (p : PageRead) q m t u, getF (beadP i) BEAD_SCRUB_STAT_POS s = q → scrubPeriod i q s = m →
        waitTill ((beadOf i s).scrubAt + m * 60000000000 / 49152) s = t → setBead i { beadOf i t with scrubAt := t.now } t = u →
        m ≠ 0 → (beadOf i s).zeroing = false → chanHeld i (pageChan q) s = false → (beadOf i s).down.contains (pageChan q) = false →
        (∀ v, crcRepeats i q p.crc u = (true, v) →
          (q + 1 < 49152 → exec (.patrolScrub i p) s = .next (setF (beadP i) BEAD_SCRUB_STAT_POS (q + 1) (serveNow i q (scrubPage i q p.errs p.hdr p.other v))))
          ∧ (49152 ≤ q + 1 → exec (.patrolScrub i p) s =
            .next (setF (beadP i) BEAD_SCRUB_STAT_POS 0 (bump (beadP i) BEAD_SCRUB_STAT_PASSES 1 (serveNow i q (scrubPage i q p.errs p.hdr p.other v))))))
        ∧ (∀ v, crcRepeats i q p.crc u = (false, v) → exec (.patrolScrub i p) s = .next v))
    ∧ (∀ p, (scrubPeriod i (getF (beadP i) BEAD_SCRUB_STAT_POS s) s = 0 ∨ (beadOf i s).zeroing = true) → exec (.patrolScrub i p) s = .next s)
    ∧ (∀ t u, waitTill ((beadOf i s).asWin + 1000000000) s = t → (List.range 96).foldl (fun t r => asRegion i r t) t = u →
        exec (.asWindowEnd i) s = .next (setBead i { beadOf i u with asCount := [], asChanged := [], asWin := u.now } u))
    ∧ (∀ r, r < 96 → getF (beadP i) (rsweepF r) s = 1 →
        (((beadOf i s).errs.map (·.1) ++ (beadOf i s).badHdr ++ (beadOf i s).badMeta).foldl nsInsert []).filter
          (fun q => pageRegion q == r && !resident i q s) = [] → (beadOf i s).cache = [] →
        exec (.recodeSweepDone i r) s = .next (setF (beadP i) (rsweepF r) 0 (setBead i { beadOf i s with
          sweepOld := alErase (beadOf i s).sweepOld r, hdr := (beadOf i s).hdr.filter (fun e => pageRegion e.1 != r), cache := [] } s)))
    ∧ (∀ r, getF (beadP i) (rsweepF r) s ≠ 1 ∨ 96 ≤ r → exec (.recodeSweepDone i r) s = .next s)
    ∧ (∀ fn j v, reaches fn (beadP i + 0x88 + 4 * j) s →
        (flag (beadP i) BEAD_CODE_CTL_MANUAL s = false → exec (.beadRclassWrite fn i j v) s = .next (raise (beadP i) 17 s))
        ∧ (flag (beadP i) BEAD_CODE_CTL_MANUAL s = true → exec (.beadRclassWrite fn i j v) s =
            .next ((List.range 8).foldl (fun t n => writeClass i (8 * j + n) (bitsOf v (4 * n + 2) (4 * n)) t) s)))
    ∧ (∀ fn v, reaches fn (beadP i + 0x80) s → exec (.beadCodeCtlWrite fn i v) s = .next (applyFloors i (writeReg (beadP i + 0x80) v s)))
    ∧ ((beadOf i s).zeroing = true → exec (.zeroDone i) s = .next (raise (beadP i) 23 (zeroFill i s)))
    ∧ ((beadOf i s).zeroing = false → exec (.zeroDone i) s = .next s)

/-! ### Translation -/

/-- R472, R479-R489, R503, R508, R509: walks end, faults are told and answered, the pager speaks, and invalidations run one after another.
It rests on the model's own choices of assumption log 31, 32, 93, 157, 158. -/
def Obligations.TranslationIsServed : Prop :=
  ∀ (i : Nat) (s : State),
    (∀ va hs l, s.reqs.filter (fun r => r.rod == i && r.phase == 0 && r.va / 2 ^ 16 == va / 2 ^ 16) = l →
      (l = [] → exec (.xlatWalkDone i va hs) s = .next s)
      ∧ (∀ r n u, l = [r] → r.rod = i → herdNo i s = n → tlbLook i n r.va r.write s = (none, u) →
        (∀ t w, rodWalk i n r.va r.write hs u = (.ok t, w) → exec (.xlatWalkDone i va hs) s = .next (launchReq r t (tierTouch i n r.va w)))
        ∧ (∀ c lv p e w, rodWalk i n r.va r.write hs u = (.fault c lv p e, w) →
          (5 ≤ c → exec (.xlatWalkDone i va hs) s = .next (updReq r.id (fun x => { x with phase := 3, status := 9 }) (xlatError i c lv w)))
          ∧ (∀ j k a off, c < 5 → (xlOf i w).faults.length < 16 → r.client = .stream j k a off → exec (.xlatWalkDone i va hs) s =
            .next (dropReq r.id i (openFault i n r.va r.write c lv p e (haltStream i k off r.va (r.va / 2 ^ 16) w))))
          ∧ (c < 5 → (xlOf i w).faults.any (fun f => f.page == r.va / 2 ^ 16) = false → 16 ≤ (xlOf i w).faults.length →
            exec (.xlatWalkDone i va hs) s = .next w))
        ∧ (∀ j k a off w, rodWalk i n r.va r.write hs u = (.mig, w) → r.client = .stream j k a off → exec (.xlatWalkDone i va hs) s =
            .next (dropReq r.id i (haltStream i k off r.va (r.va / 2 ^ 16) w))))
      ∧ (∀ r t u, l = [r] → r.rod = i → tlbLook i (herdNo i s) r.va r.write s = (some (.ok t), u) →
        exec (.xlatWalkDone i va hs) s = .next (launchReq r t (tierTouch i (herdNo i s) r.va u)))
      ∧ exec (.xlatWalkDone i va hs) s = .next (l.foldl (walkReq i hs) (none, s)).2)
    ∧ (∀ f, (xlOf i s).faults.find? (fun f => !f.sent) = some f →
      (∀ n prod u, herdNo i s = n → getF (xlatP i) XLAT_FQ_IDX_PROD s = prod → flag (xlatP i) XLAT_PAGER_MODE s = false →
        fqUsed i s ≠ 2 ^ getF (xlatP i) XLAT_FQ_SIZE_LOG2 s → mayIssue n s = true → lifeAt (statOf (herdP n)) s ≠ 4 →
        emit (.hostWrite n (getF (xlatP i) XLAT_FQ_BASE_LO_BASE s * 4096 + getF (xlatP i) XLAT_FQ_BASE_HI_BASE s * 2 ^ 32
            + 32 * (prod % 2 ^ getF (xlatP i) XLAT_FQ_SIZE_LOG2 s)) (f.record i n) [] .plain)
          (setXl i { xlOf i s with faults := (xlOf i s).faults.map (fun g => if g.fid = f.fid then { g with sent := true } else g) } s) = u →
        exec (.faultRecordWrite i true) s = .next (raise (xlatP (anchor n s)) 17 (setHerdF n XLAT_FQ_IDX_PROD (prod + 1) u))
        ∧ exec (.faultRecordWrite i false) s = .next (recordCE (xlatP i) 0x1706 (f.level * 1024 + f.cause) f.va s))
      ∧ (∀ ok, flag (xlatP i) XLAT_PAGER_MODE s = true ∨ fqUsed i s = 2 ^ getF (xlatP i) XLAT_FQ_SIZE_LOG2 s ∨ mayIssue (herdNo i s) s = false →
        exec (.faultRecordWrite i ok) s = .next s))
    ∧ (∀ fn v, reaches fn (xlatP i + 0xA4) s →
      ((xlOf i s).faults.find? (fun f => f.fid == v % 65536) = none ∨ 2 ≤ bitsOf v 17 16 → exec (.xlatPcomp fn i v) s = .next (raise (xlatP i) 19 s))
      ∧ (∀ f, (xlOf i s).faults.find? (fun f => f.fid == v % 65536) = some f → bitsOf v 17 16 < 2 →
        exec (.xlatPcomp fn i v) s = .next (closeFault i f (bitsOf v 17 16 == 1) s)))
    ∧ (∀ fid f, (xlOf i s).faults.find? (fun f => f.fid == fid) = some f → getF (xlatP i) XLAT_PAGER_TIMEOUT s ≠ 0 →
      exec (.pagerTimeout i fid) s = .next (closeFault i f true (recordCE (xlatP i) 0x1704 (f.level * 1024 + f.cause) f.va
        (waitTill (f.time + getF (xlatP i) XLAT_PAGER_TIMEOUT s * 1000000) s))))
    ∧ (∀ it p, pagerItem i s = some it → it.pair = some p → isComplete p = true →
      exec (.pagerComplete i) s = .next (answerFault i (bitsOf p.1 31 16) (bitsOf p.1 33 32) (dropPagerItem i s)))
    ∧ (∀ it p, pagerItem i s = some it → it.pair = some p → isInvalidate p = true →
      exec (.pagerInvalidate i) s = .next (beginInv (herdNo i s) ⟨i, bitOf p.1 34, bitsOf p.2 47 16 * 2 ^ 16, bitsOf p.1 31 16, bitsOf p.1 15 8,
        some (it.hdr, bitsOf p.1 39 35)⟩ (dropPagerItem i s)))
    ∧ (∀ it, pagerItem i s = some it → it.pair = none →
      exec (.pagerComplete i) s = .next (badPagerItem i s) ∧ exec (.pagerInvalidate i) s = .next (badPagerItem i s))
    ∧ (∀ fn v, reaches fn (xlatP i + 0xB4) s →
      (flag (xlatP i) XLAT_INV_STAT_BUSY s = true → exec (.xlatInv fn i v) s = .next (raise (xlatP i) 3 s))
      ∧ (flag (xlatP i) XLAT_INV_STAT_BUSY s = false → exec (.xlatInv fn i v) s = .next (beginInv (herdNo i s)
          ⟨i, bitOf v 31, getF (xlatP i) XLAT_INV_VA_LO_VA s * 2 ^ 16 + getF (xlatP i) XLAT_INV_VA_HI_VA s * 2 ^ 32, v % 65536, bitsOf v 23 16, none⟩ s)))
    ∧ (∀ n v, (hxOf n s).inv = some v →
      (s.reqs.any (fun r => inFlight n r s && meets (r.va, r.va + r.len) v.range) = false →
        exec (.invDone n) s = .next (finishInv n v (dropRange n v.range s)))
      ∧ (s.reqs.any (fun r => inFlight n r s && meets (r.va, r.va + r.len) v.range) = true → exec (.invDone n) s = .next s))
    ∧ (∀ fn v, reaches fn (xlatP i + 0x90) s → flag (xlatP i) PG_LOCK_LOCKED s = false →
      (herdOfRod (bitsOf v 13 4) s ≠ herdOfRod i s ∨ (bitOf v 0 = true ∧ bitsOf v 23 19 = bitsOf v 18 14) →
        exec (.xlatPagerWrite fn i v) s = .next (raise (xlatP i) 2 s))
      ∧ (herdOfRod (bitsOf v 13 4) s = herdOfRod i s → bitOf v 0 = false ∨ bitsOf v 23 19 ≠ bitsOf v 18 14 →
        exec (.xlatPagerWrite fn i v) s = .next (writeHw i 0x90 v s)))

/-- R494-R499, R505, R511: the tier engine is switched, its window ends, and a migration is invalidated, copied and committed. It rests on
the model's own choices of assumption log 37, 156. -/
def Obligations.TiersMigrate : Prop :=
  ∀ (n : Nat) (s : State),
    (∀ fn i v, reaches fn (xlatP i + 0xBC) s → exec (.tierPause fn i v) s = .next (tierWrite i v s) ∧ exec (.tierEnable fn i v) s = .next (tierWrite i v s))
    ∧ (∀ hs, tierRuns n s = false ∨ tierHeld n s = true → exec (.tierWindowEnd n hs) s = .next s)
    ∧ (∀ hs old t u table, tierRuns n s = true → tierHeld n s = false →
      tierAge n (waitTill ((hxOf n s).winAt + herdF n XLAT_TIER_PAR_WIN_MS s * 1000000) s) = (old, t) → hotTrim (hotShare t) (hxOf n t).hot = table →
      setHx n { hxOf n t with
        hot := [], left := herdF n XLAT_TIER_CTL_MIG_MAX t, winAt := t.now
        plan := (hotFrames (herdF n XLAT_TIER_PAR_HOT_N t) table.length table).map (fun x => tbCount n t + x)
        cold := coldFrames (herdF n XLAT_TIER_CTL_COLD_W t) old.length old } t = u →
      ((hxOf n t).mig = none → exec (.tierWindowEnd n hs) s = .next (migNext n (migFuel n u) hs u))
      ∧ ((hxOf n t).mig.isSome = true → exec (.tierWindowEnd n hs) s = .next u))
    ∧ (∀ m, (hxOf n s).mig = some m →
      (∀ ok data t, m.step = 1 → tierHeld n s = false →
        s.reqs.any (fun r => inFlight n r s && r.va / 2 ^ 16 == m.page) = false →
        dropRange n (m.page * 2 ^ 16, m.page * 2 ^ 16 + 2 ^ 16) s = t →
        (ok = true → mayIssue n s = true → exec (.migrationInvalidated n ok data) s =
          .next (setHx n { hxOf n (migCopy n m data t) with mig := some { m with step := 3 } } (migCopy n m data t)))
        ∧ (ok = false ∨ mayIssue n s = false → exec (.migrationInvalidated n ok data) s = .next (migOn n [] (endMig n m (recordCE (xlatP (anchor n t)) 0x1707 0 (m.page * 2 ^ 16)
            (putLeaf n m.leafAt m.leafHost m.leaf t))))))
      ∧ (∀ ok data, m.step ≠ 1 ∨ tierHeld n s = true ∨ s.reqs.any (fun r => inFlight n r s && r.va / 2 ^ 16 == m.page) = true →
        exec (.migrationInvalidated n ok data) s = .next s)
      ∧ (∀ cur hs leaf t, m.step = 3 → tierHeld n s = false → leafNow n cur m s = (leaf, t) →
        (leaf ≠ m.leaf + 2 ^ 8 → exec (.migrationCopyDone n cur hs) s =
          .next (migOn n hs (endMig n m (recordCE (xlatP (anchor n t)) 0x1708 0 (m.page * 2 ^ 16) t))))
        ∧ (∀ u, leaf = m.leaf + 2 ^ 8 → migCommit n m t = u → exec (.migrationCopyDone n cur hs) s =
          .next (migOn n hs (endMig n m (raise (xlatP (anchor n u)) 20 u)))))
      ∧ (∀ cur hs, m.step ≠ 3 ∨ tierHeld n s = true → exec (.migrationCopyDone n cur hs) s = .next s))
    ∧ (∀ cur hs, (hxOf n s).mig = none → (hxOf n s).plan ≠ [] → tierHeld n s = false → exec (.migrationCopyDone n cur hs) s = .next (migOn n hs s))

/-! ### Transactions end to end, and the fabric manager -/

/-- R638, R657-R664: a packet for this node is kept for its transaction; requests run once, are absorbed or answered from their record;
responses end their transaction, mark it pending or are stale; attempts, PENDING and quiet time follow their timers. It rests on the model's
own choices of assumption log 38, 39, 63, 155. -/
def Obligations.TransactionsRunEndToEnd : Prop :=
  (∀ (p dst src hops age cls len us serial mseq : Nat) (esc : Bool) (body : List Byte) (s : State),
    p < 16 → dst < 2 ^ 18 → src < 2 ^ 18 → hops < 64 → cls < 4 → len ≤ 4128 → nodeValid s = true → dst = nodeId s →
      exec (.rlPacketArrival p dst src hops age cls len us serial mseq esc false false false body) s =
        .next { s with e2e := { s.e2e with arrived := s.e2e.arrived ++ [⟨p, dst, src, hops, age, cls, esc, false, false, body⟩] } })
  ∧ (∀ (k : Pkt) (s t : State), firstArrived false s = some k → takeArrived k s = t →
    (servedLater k s = true → exec .e2eRequest s = .next s)
    ∧ (servedLater k s = false → s.fatal ≠ [] → exec .e2eRequest s = .next (answer k 4 [] [] t))
    ∧ (servedLater k s = false → s.fatal = [] →
      (k.op = 0 → k.badReq = false → exec .e2eRequest s = .next (serveRead k t))
      ∧ (k.op = 1 → k.badReq = false → exec .e2eRequest s = .next (serveWrite k t))
      ∧ (k.op < 2 → k.badReq = true → exec .e2eRequest s = .next (answer k 0x0B [] [] t))
      ∧ (2 ≤ k.op → t.e2e.dups.find? (fun d => d.src == k.src && d.tag == k.tag) = none → t.e2e.dups.length < 32768 →
          exec .e2eRequest s = .next (serveOnce k (showDups { t with e2e := { t.e2e with dups := t.e2e.dups ++ [k.entry t] } })))
      ∧ (2 ≤ k.op → t.e2e.dups.find? (fun d => d.src == k.src && d.tag == k.tag) = none → 32768 ≤ t.e2e.dups.length →
          exec .e2eRequest s = .next (answer k 2 [] [] (raise (e2eP 0) 17 (recordCE (e2eP 0) 0x2302 0 0 (bump (e2eP 0) E2E_BUSY_COUNT 1 t)))))
      ∧ (∀ d, 2 ≤ k.op → t.e2e.dups.find? (fun d => d.src == k.src && d.tag == k.tag) = some d → d.epoch = k.epoch → d.use = k.use →
          (d.done = none → exec .e2eRequest s = .next t)
          ∧ (∀ o, d.done = some o → exec .e2eRequest s =
            .next (answer k o.1 o.2 (outcomeBad o.1 o.2) (bump (e2eP 0) E2E_DUPHIT_COUNT 1 t))))))
  ∧ (∀ (k : Pkt) (s t : State), firstArrived true s = some k → takeArrived k s = t →
      (liveOf k t = none → exec .e2eResponse s = .next (stale t))
      ∧ (∀ x st, liveOf k t = some x → bitsOf k.e0 45 38 = st →
          (st = 1 → exec .e2eResponse s = .next (updTxn x.tag (fun y => { y with pend := some s.now }) t))
          ∧ (st = 2 ∨ st = 3 → exec .e2eResponse s = .next t)
          ∧ (st = 0 ∨ 4 ≤ st → exec .e2eResponse s = .next (txnEnd x (issuerStatus st) k.payload.1 k.payload.2 t))))
  ∧ (∀ (tag : Nat) (x : Txn) (s : State), s.e2e.live.find? (fun y => y.tag == tag) = some x →
      (x.pend = none → x.sent < 8 → exec (.e2eAttemptTimer tag) s = .next (updTxn tag (fun y => { y with sent := y.sent + 1 })
        (sendAttempt x (bump (e2eP 0) E2E_RETRY_COUNT 1 (waitTill (x.start + 4000000 * x.sent) s)))))
      ∧ (x.pend = none → 8 ≤ x.sent → exec (.e2eAttemptTimer tag) s = .next (giveUp x (waitTill (x.start + 48000000) s)))
      ∧ (∀ p, x.pend = some p → exec (.e2eAttemptTimer tag) s = .next s
        ∧ exec (.e2ePendingGiveup tag) s = .next (giveUp x (waitTill (p + 4000000) s))))
  ∧ (∀ (src tag : Nat) (d : Dup) (s t u : State), s.e2e.dups.find? (fun d => d.src == src && d.tag == tag) = some d → d.done = none →
      waitTill (d.time + 1000000) s = t →
      { t with e2e := { t.e2e with dups := t.e2e.dups.map (fun x => if x = d then { d with time := t.now } else x) } } = u →
      exec (.e2ePendingTimer src tag) s = .next (sendPkt
        (respPkt src (d.tag + d.epoch * 2 ^ 14 + d.use * 2 ^ 22 + d.op * 2 ^ 30) d.w1 1 [] [] u) u))
  ∧ (∀ (src tag : Nat) (s : State),
      (∀ d, s.e2e.dups.find? (fun d => d.src == src && d.tag == tag && d.done.isSome) = some d → ∃ t, exec (.dupEntryExpiry src tag) s = .next t
        ∧ (∀ x, x ∈ t.e2e.dups ↔ x ∈ s.e2e.dups ∧ x ≠ d) ∧ t.now = max s.now (d.time + 64000000)
        ∧ getF (e2eP 0) E2E_DUP_USED t = t.e2e.dups.length % 2 ^ E2E_DUP_USED.width
        ∧ t = { s with e2e := { s.e2e with dups := t.e2e.dups }, regs := t.regs, now := t.now })
      ∧ ((∀ d ∈ s.e2e.dups, d.src = src → d.tag = tag → d.done = none) → exec (.dupEntryExpiry src tag) s = .next s))
  ∧ (∀ s : State,
      (flag (e2eP 0) E2E_STAT_QUIET s = true → exec .quietEnd s =
        .next (e2ePump (raise (e2eP 0) 20 (setF (e2eP 0) E2E_STAT_QUIET 0 (waitTill (s.e2e.since + 17000000) s)))))
      ∧ (flag (e2eP 0) E2E_STAT_QUIET s = false → exec .quietEnd s = .next s))

/-- R647-R650, R653, R662: flooded messages act once: claims, heartbeats and announcements; the manager's timers, its loss, and the host's
claim. It rests on the model's own choices of assumption log 53, 54, 62, 167. -/
def Obligations.TheManagerIsElected : Prop :=
  (∀ (inp : Via) (serial seq host pri kserial : Nat) (s t : State), seenMsg serial seq s = false → rememberMsg serial seq s = t →
      (beatsBest ⟨host, pri, kserial⟩ s = true → exec (.claim inp serial seq host pri kserial) s = .next (flood inp 0x10 [serial, seq, host, pri, kserial]
        { t with rtr := { t.rtr with best := some ⟨host, pri, kserial⟩, claimed := none } }))
      ∧ (beatsBest ⟨host, pri, kserial⟩ s = false → exec (.claim inp serial seq host pri kserial) s = .next t))
  ∧ (∀ (inp : Via) (serial seq host pri kserial : Nat) (s : State), seenMsg serial seq s = true →
      exec (.claim inp serial seq host pri kserial) s = .next s)
  ∧ (∀ (t0 : Nat) (s t u : State), s.rtr.claimed = some t0 →
      (s.rtr.best = some (ownKey s) → waitTill (t0 + 50000000) s = t → { t with rtr := { t.rtr with claimed := none, beat := some t.now } } = u →
        (s.rtr.hostHere = true → exec .claimTimer s = .next (setManager 3 1 (nodeId u) 255 u))
        ∧ (s.rtr.hostHere = false → exec .claimTimer s = .next (mgsRules (ownKey s).pri u)))
      ∧ (s.rtr.best ≠ some (ownKey s) → exec .claimTimer s = .next s))
  ∧ (∀ (inp : Via) (serial seq host pri kserial node ftime : Nat) (s t : State), seenMsg serial seq s = false →
      flood inp 0x11 [serial, seq, host, pri, kserial, node, ftime] (rememberMsg serial seq s) = t →
      (beatsBest ⟨host, pri, kserial⟩ t = true ∨ t.rtr.best = some ⟨host, pri, kserial⟩ →
        exec (.heartbeat inp serial seq host pri kserial node ftime) s = .next (setManager (if host = 1 then 3 else 2) 0 node pri { t with rtr := { t.rtr with
          best := some ⟨host, pri, kserial⟩, beat := some s.now, claimed := none, offset := max t.rtr.offset (ftime - s.now) } }))
      ∧ (beatsBest ⟨host, pri, kserial⟩ t = false → t.rtr.best ≠ some ⟨host, pri, kserial⟩ →
        exec (.heartbeat inp serial seq host pri kserial node ftime) s = .next t))
  ∧ (∀ s t : State, managerHere s = true → s.rtr.best = some (ownKey s) → waitTill (s.rtr.beat.getD 0 + 10000000) s = t →
      exec .heartbeatTimer s = .next (floodOwn 0x11 [(ownKey s).host, (ownKey s).pri, (ownKey s).serial, nodeId t, fabricTime t]
        { t with rtr := { t.rtr with beat := some t.now } }))
  ∧ (∀ (t0 : Nat) (s t : State), s.rtr.beat = some t0 → waitTill (t0 + 50000000) s = t →
      (managerHere s = false → exec .fmLost s = .next (mgsClaim (setManager 0 0 0 0 (raise (rtrP 0) 21 (recordCE (rtrP 0) 0x2204 0 0
        { t with rtr := { t.rtr with best := none, beat := none, claimed := none } })))))
      ∧ (managerHere s = true → exec .fmLost s = .next s))
  ∧ (∀ (inp : Via) (serial seq node epoch : Nat) (leave : Bool) (s : State), seenMsg serial seq s = false →
      exec (.announce inp serial seq leave node epoch) s = .next (announced leave node epoch
        (flood inp 0x18 [serial, seq, b2n leave, node, epoch] (rememberMsg serial seq s))))
  ∧ (∀ (fn v : Nat) (s : State), reaches fn (e2eP 0 + 0x80) s → bitOf v 0 = true →
      (nodeValid s = false → exec (.e2eLeave fn v) s = .next (raise (e2eP 0) 3 s))
      ∧ (nodeValid s = true → exec (.e2eLeave fn v) s = .next (leaveIfIdle (setF (e2eP 0) E2E_STAT_LEAVING 1 s))))
  ∧ (∀ (fn v : Nat) (s : State), reaches fn (rtrP 0 + 0x84) s →
      (bitOf v 0 = true → exec (.rtrHostfmClaim fn v) s = .next (hostClaim s))
      ∧ (bitOf v 1 = true → exec (.rtrHostfmRelease fn v) s = .next (hostRelease s)))

/-- R651, R653, R680, Tables 12-7 and 12-8: devices answer their manager, and an elected MGS joins devices, repeats its requests and takes leave
of them. It rests on the model's own choices of assumption log 53, 62. -/
def Obligations.TheManagerRunsTheFabric : Prop :=
  (∀ (src seq : Nat) (s : State), exec (.topoReq src seq) s = .next (replyTo src 0x13 seq (topoFields s) s))
  ∧ (∀ (src seq node epoch : Nat) (s : State),
      (fabricOn s = true → exec (.assign src seq node epoch) s = .next (replyTo src 0x15 seq [ownSerial, node, epoch] (takeNode node epoch s)))
      ∧ (fabricOn s = false → exec (.assign src seq node epoch) s = .next (raise (rtrP 0) 2 s)))
  ∧ (∀ (src seq table first : Nat) (entries : List Nat) (s : State), exec (.routeWrite src seq table first entries) s =
      .next (replyTo src 0x17 seq [ownSerial] (raise (rtrP 0) 17 (putRoutes table first (entries.take 64) s))))
  ∧ (∀ (serial : Nat) (x : FmNode) (s : State), mgsManages s = true → fmNode serial s = some x →
      (∀ node epoch links, exec (.topoRep serial true node epoch links) s = .next (links.foldl (fun t l => fmDiscover l.2.1 t)
        (setFmNode { x with asked := 0, epoch := epoch, node := some node, joined := true, links := links } s)))
      ∧ (∀ node epoch links y, { x with asked := 0, epoch := epoch, node := none, joined := false, links := links } = y →
        exec (.topoRep serial false node epoch links) s = .next (links.foldl (fun t l => fmDiscover l.2.1 t) (fmAssign y (setFmNode y s))))
      ∧ (x.asked = 0x14 → exec (.assignAck serial []) s = .next (announce false (x.node.getD 0) x.epoch (setFmNode
        { x with asked := 0, seq := (nextMsg s).1, since := s.now, sent := s.now, owed := [], joined := true } (nextMsg s).2)))
      ∧ (∀ w ws, x.asked = 0x14 → exec (.assignAck serial (w :: ws)) s = .next (sendWrites (nextMsg s).1 (w :: ws) (setFmNode
        { x with asked := 0x16, seq := (nextMsg s).1, since := s.now, sent := s.now, owed := w :: ws, joined := true } (nextMsg s).2)))
      ∧ (∀ port phase pserial pport writes, phase = 4 ∨ phase = 5 → exec (.portEvent serial port phase pserial pport writes) s =
        .next (fmDiscover pserial (setFmNode { x with links := x.links.filter (fun l => l.1 != port) ++ [(port, pserial, pport)] } s)))
      ∧ (∀ port phase pserial pport writes, ¬ (phase = 4 ∨ phase = 5) → x.links.all (fun l => l.1 != port) = true →
        exec (.portEvent serial port phase pserial pport writes) s = .next (setFmNode { x with links := x.links.filter (fun l => l.1 != port) } s))
      ∧ (∀ node epoch writes, exec (.leaveReq serial node epoch writes) s = .next (fmGone { x with node := some node, epoch := epoch } writes s))
      ∧ (∀ w t, waitTill (x.sent + 1000000) s = w → setFmNode { x with sent := w.now } w = t →
        (x.asked = 0x16 → exec (.managerRepeatTimer serial) s = .next (sendWrites x.seq x.owed t))
        ∧ (x.asked = 0x12 ∨ x.asked = 0x14 → exec (.managerRepeatTimer serial) s = .next (fmSend x x.asked x.seq x.ask t)))
      ∧ (x.asked = 0 → exec (.managerRepeatTimer serial) s = .next s)
      ∧ (∀ writes, x.asked = 0x12 → exec (.topoTimeout serial writes) s = .next (fmGone x writes (waitTill (x.since + 10000000) s)))
      ∧ (∀ writes, x.asked ≠ 0x12 → exec (.topoTimeout serial writes) s = .next s))
  ∧ (∀ (src seq : Nat) (w : Nat × List Nat) (x : FmNode) (s : State), mgsManages s = true →
      s.rtr.nodes.find? (fun x => x.asked == 0x16 && x.seq == seq) = some x → x.owed.find? (fun w => w.1 == src) = some w →
      (x.owed.erase w = [] → exec (.routeAck src seq) s = .next (announce false (x.node.getD 0) x.epoch (setFmNode { x with owed := [], asked := 0 } s)))
      ∧ (x.owed.erase w ≠ [] → exec (.routeAck src seq) s = .next (setFmNode { x with owed := x.owed.erase w, asked := 0x16 } s)))

/-! ### KV cache manager, video pipes, host queues -/

/-- R705-R709, R715-R724: KVM operations end with their status; pairs move to another rod, are given up or forgotten; pools are configured.
It rests on the model's own choices of assumption log 55, 60, 61, 146. -/
def Obligations.TheKvmActs : Prop :=
  (∀ (fn v : Nat) (s : State), reaches fn (kvmP 0 + 0xA8) s → bitOf v 0 = true → exec (.kvmOpgo fn v) s = .next (kvSubmit
      ⟨rd64 (kvmP 0 + 0x88) s, rd64 (kvmP 0 + 0x90) s, rd64 (kvmP 0 + 0x98) s, rd64 (kvmP 0 + 0xA0) s, bitsOf v 15 8, none, false⟩ s))
  ∧ (∀ (o : KvOp) (s : State), kvHead s = some o →
      (∀ c k act, (c, k, act) ∈ ([(.kvmOpen, 1, kvOpenAct), (.kvmClose, 2, kvCloseAct), (.setBudget, 3, kvBudgetAct), (.kvmMove, 4, kvMoveAct),
          (.kvmPin, 5, kvPinAct)] : List (Instr × Nat × (KvOp → State → Option Nat × State))) → o.code = k →
        (∀ st t, act o s = (some st, t) → exec c s = .next (kvOpEnd st o t)) ∧ (∀ t, act o s = (none, t) → exec c s = .next t))
      ∧ (o.code = 1 → o.bad = true → exec .kvmOpen s = .next (kvOpEnd 0x12 o s))
      ∧ (o.code = 1 → o.bad = false → flag (kvmP 0) KVM_CTL_MANUAL s = false → lifeAt (statOf (herdP o.herd)) s = 2 →
          ((kvSeqOf o.herd o.seqid s).isSome = true → exec .kvmOpen s = .next (kvOpEnd 0x10 o s))
          ∧ (kvSeqOf o.herd o.seqid s = none → 4096 ≤ s.kvm.seqs.length → exec .kvmOpen s = .next (kvOpEnd 0x14 o s))
          ∧ (kvSeqOf o.herd o.seqid s = none → s.kvm.seqs.length < 4096 →
              (s.kvm.seqs.map (fun q => q.pairs.length)).foldl (· + ·) 0 + o.nhead ≤ 16384 →
            (∀ t, kvPlace o o.nhead 0 s = some t → exec .kvmOpen s = .next (kvOpEnd 0 o t))
            ∧ (kvPlace o o.nhead 0 s = none → exec .kvmOpen s = .next (kvOpEnd 0x13 o s))))
      ∧ (o.code = 2 → kvSeqOf o.herd o.seqid s = none → exec .kvmClose s = .next (kvOpEnd 0x11 o s))
      ∧ (∀ q t, o.code = 2 → kvSeqOf o.herd o.seqid s = some q → s.kvm.moves = [] → q.pairs.any (fun x => kvInUse x.rod x.h s) = false →
          q.pairs.foldl (fun t x => kvClear x.rod x.h t) s = t → exec .kvmClose s = .next (kvOpEnd 0 o
            (kvDropMoved o.herd o.seqid (setKvm { t.kvm with seqs := t.kvm.seqs.filter (fun z => z != q) } t))))
      ∧ (∀ q, o.code = 3 → o.bad = false → kvSeqOf o.herd o.seqid s = some q → q.pairs.any (fun x => x.st == 2) = false →
          exec .setBudget s = .next (kvOpEnd 0 o (q.pairs.foldl (kvBudget o) s)))
      ∧ (∀ q x j, o.code = 4 → kvSeqOf o.herd o.seqid s = some q → q.pairs.find? (fun x => x.head == o.head) = some x → x.st = 1 → o.rod = j → j < 1023 →
          kvEligible o.herd j ((kvH x.rod x.h s).nblk + 1) (kvH x.rod x.h s).stride s = true → exec .kvmMove s = .next (kvMoveStart o.herd o.seqid x j true
            (setKvm { s.kvm with ops := s.kvm.ops.map (fun p => if p == o then { p with runs := true } else p) } s)))
      ∧ (∀ q, o.code = 5 → kvSeqOf o.herd o.seqid s = some q → exec .kvmPin s = .next (kvOpEnd 0 o (setKvm { s.kvm with
          seqs := s.kvm.seqs.map (fun z => if z == q then { z with pin := o.pin } else z) } s)))
      ∧ (o.code = 0 ∨ 5 < o.code → exec .kvmBadOp s = .next (kvOpEnd 0x12 o s)))
  ∧ (∀ (n : Nat) (s t : State), kvmReady s = true → flag (kvmP 0) KVM_CTL_MANUAL s = false → getF (kvmP 0) KVM_CTL_PERIOD s ≠ 0 →
      lifeAt (statOf (herdP n)) s = 2 → hubThrottled s = false →
      waitTill (alGetD s.kvm.balAt n 0 + getF (kvmP 0) KVM_CTL_PERIOD s * 1000000) s = t →
      ∀ u v, setKvm { t.kvm with balAt := alSet t.kvm.balAt n t.now } t = u → balGo n (getF (kvmP 0) KVM_CTL_MOVES u) u = v →
      (u.kvm.moves.length < v.kvm.moves.length → exec (.rebalance n) s = .next (raise (kvmP 0) 19 v))
      ∧ (v.kvm.moves.length ≤ u.kvm.moves.length → exec (.rebalance n) s = .next v))
  ∧ (∀ (n : Nat) (s : State), kvmReady s = false ∨ flag (kvmP 0) KVM_CTL_MANUAL s = true ∨ getF (kvmP 0) KVM_CTL_PERIOD s = 0
      ∨ hubThrottled s = true → exec (.rebalance n) s = .next s)
  ∧ (∀ (k : Nat) (m : KvMove) (s : State), s.kvm.moves[k]? = some m →
      exec (.moveCopyDone k) s = .next (setKvH m.src m.srcH { kvH m.src m.srcH s with frozen := true } s)
      ∧ exec (.moveFail k true) s = .next (moveFailed m s)
      ∧ exec (.moveFail k false) s = .next (moveFailed m (waitTill (m.start + 100001 + 1000 * (kvH m.src m.srcH s).nblk) s))
      ∧ (∀ hs, (kvH m.src m.srcH s).frozen = false ∨ kvInUse m.src m.srcH s = true → exec (.pairMoved k hs) s = .next s)
      ∧ (∀ hs x, (kvH m.src m.srcH s).frozen = true → kvInUse m.src m.srcH s = false → moveLate m s = false →
          moveCopy m hs s = x → x.2.err.isSome = true → exec (.pairMoved k hs) s = .next (moveFailed m x.2.s))
      ∧ (∀ hs x slots, (kvH m.src m.srcH s).frozen = true → kvInUse m.src m.srcH s = false → moveLate m s = false →
          moveCopy m hs s = x → x.2.err = none → moveSlots m s = slots → (kvH m.src m.srcH s).nblk ≤ slots.length →
          exec (.pairMoved k hs) s = .next (moveOver m (kvH m.src m.srcH s) slots x.1 s.now x.2.s)))
  ∧ (∀ (i hn : Nat) (s : State),
      ((kvH i hn s).st = 3 → exec (.movedExpiry i hn) s = .next (setKvH i hn KvH.free (waitTill ((kvH i hn s).movedAt + 100000000) s)))
      ∧ ((kvH i hn s).st ≠ 3 → exec (.movedExpiry i hn) s = .next s))
  ∧ (∀ (fn i r v : Nat) (s : State), r < 3 → reaches fn (kvP i + 0x80 + 4 * r) s →
      (r = 0 → exec (.kvPoolCfgWrite fn i r v) s = .next (writeShadow (kvP i + 0x80) v s))
      ∧ (r ≠ 0 → lockHolds (kvP i + 0x80 + 4 * r) s = true → exec (.kvPoolCfgWrite fn i r v) s = .next (raise (kvP i) 2 s))
      ∧ (r ≠ 0 → lockHolds (kvP i + 0x80 + 4 * r) s = false → (kvOf i s).hs ≠ [] → exec (.kvPoolCfgWrite fn i r v) s = .next (raise (kvP i) 3 s))
      ∧ (r = 1 → lockHolds (kvP i + 0x80 + 4 * r) s = false → (kvOf i s).hs = [] → exec (.kvPoolCfgWrite fn i r v) s = .next (writeHi (kvP i + 0x84) v s))
      ∧ (r = 2 → lockHolds (kvP i + 0x80 + 4 * r) s = false → (kvOf i s).hs = [] → exec (.kvPoolCfgWrite fn i r v) s = .next (showKv i
          (writeReg (kvP i + 0x88) (max 1 (bitsOf v 23 16) * 65536 + min 16384 (v % 2 ^ 15)) s))))

/-- R732-R768: sessions open and close, jobs start, decode or encode their picture, tell of slices, make tensor rows, are output and complete.
It rests on the model's own choices of assumption log 56, 74, 76. -/
def Obligations.VideoRuns : Prop :=
  (∀ (n q k : Nat) (e : HqEnt) (s : State), entryAtWork n q k 5 s = some e → e.phase = 0 →
      ∀ v, entryPipe e = v →
      (pipeLife v s ≠ 2 → exec (.entryVideo n q k) s = .next (vComplete v (entryJob n e 5) (startEnt e s)))
      ∧ (pipeLife v s = 2 → e.bad ≠ [] → exec (.entryVideo n q k) s = .next (vComplete v (entryJob n e 7) (startEnt e s)))
      ∧ (pipeLife v s = 2 → e.bad = [] → 64 ≤ (vpOf v s).jobs.countP (fun j => j.phase == 0) →
        exec (.entryVideo n q k) s = .next (vComplete v (entryJob n e 9) (startEnt e s)))
      ∧ (pipeLife v s = 2 → e.bad = [] → (vpOf v s).jobs.countP (fun j => j.phase == 0) < 64 → exec (.entryVideo n q k) s =
        .next (setVp v { vpOf v (startEnt e s) with jobs := (vpOf v (startEnt e s)).jobs ++ [entryJob n e 0] } (startEnt e s))))
  ∧ (∀ (v n k : Nat) (hs : List (List (Option Nat))) (j : VJob) (s : State), v < 4 → vFront v n k s = some j →
      (j.op = 1 → ((vsOf v k s).isSome = true → exec (.videoOpen v n k) s = .next (vEnd v 0xA j s))
        ∧ (vsOf v k s = none → openOk v j s = false → exec (.videoOpen v n k) s = .next (vEnd v 7 j s))
        ∧ (vsOf v k s = none → openOk v j s = true → exec (.videoOpen v n k) s = .next (vEnd v 0 j (setVp v { vpOf v s with
            sess := (vpOf v s).sess ++ [⟨k, n, j.words.tail, 0, false, [], [], [], none, 0, 0, (bitsOf (j.body 0) 47 32 + 63) / 64, none⟩] } s))))
      ∧ (∀ y, j.op = 3 ∨ j.op = 4 → vMine v n k s = some y →
        (jobOk j y = true → (y.group v).all (fun u => pipeLife u s == 2 || pipeLife u s == 3) = true →
          (y.group v).all (fun u => (vpRun u s).isNone) = true →
          (vYields n (y.group v) s = false → exec (.videoJobStart v n k) s = .next (setVj v { j with phase := 1 }
            ((y.group v).foldl (fun t u => setEng u ⟨[], []⟩ t) (waitTill (vRested (y.group v) s) s))))
          ∧ (vYields n (y.group v) s = true → exec (.videoJobStart v n k) s = .next s))
        ∧ (jobOk j y = false → exec (.videoJobStart v n k) s = .next (vEnd v 7 j s)))
      ∧ (j.op = 3 ∨ j.op = 4 → vMine v n k s = none → exec (.videoJobStart v n k) s = .next (vEnd v 8 j s))
      ∧ (j.op = 5 →
        (vMine v n k s = none → exec (.endOfStream v n k hs) s = .next (vEnd v 8 j s))
        ∧ (∀ y, vMine v n k s = some y →
          (j.len ≠ 8 → exec (.endOfStream v n k hs) s = .next (vEnd v 7 j s))
          ∧ (∀ l x, j.len = 8 → ((vpOf v s).jobs.takeWhile (fun z => z.key != j.key)).filter (fun z => z.herd == n && z.sess == k) = l →
            outAll v k n l.length ⟨0, [], [], hs, s⟩ = x →
            (l.all (fun z => jobReady z y) = true → x.st = 0 → exec (.endOfStream v n k hs) s = .next (vEnd v 0 j x.s))
            ∧ (l = [] → exec (.endOfStream v n k hs) s = .next (vEnd v 0 j s))
            ∧ (l.all (fun z => jobReady z y) = false → exec (.endOfStream v n k hs) s = .next s)))))
  ∧ (∀ (v n k : Nat) (j : VJob) (s : State), v < 4 →
      (vpOf v s).jobs.find? (fun j => j.herd == n && j.sess == k && j.phase == 0 && (j.op == 2 || j.op == 1)) = some j → j.op = 2 →
      (vMine v n k s = none → exec (.videoClose v n k) s = .next (vEnd v 8 j s))
      ∧ (∀ y, vMine v n k s = some y → (j.len ≠ 8 → exec (.videoClose v n k) s = .next (vEnd v 7 j s))
        ∧ (j.len = 8 → exec (.videoClose v n k) s = .next (vEnd v 0 j (vClose v k j.key s)))))
  ∧ (∀ (v : Nat) (d : VDec) (hs : List (List (Option Nat))) (j : VJob) (y : VSess) (s t : State) (r : VIo) (pois : List Nat),
      vRunning v 3 s = some (j, y) → vaRead y.herd (j.body 0) (j.body 1) hs s = r → decPois d r.bad = pois → decLost v y d j r.s = t →
      (r.st ≠ 0 → exec (.decode v d hs) s = .next (vIoEnd v j r))
      ∧ (r.st = 0 → decUnsupported y d = true → exec (.decode v d hs) s = .next (vEnd v 2 j r.s))
      ∧ (r.st = 0 → decUnsupported y d = false →
        (d.nopic = true → exec (.decode v d hs) s = .next (vComplete v (decJob y d pois j) (decSess v y d (decShare v y d t))))
        ∧ (∀ w, d.nopic = false → decWrite y d (decGone d j) pois { r with s := t } = w → w.st = 0 → ∀ u, decSess v y d (decShare v y d w.s) = u →
          (decNopic y d = false → exec (.decode v d hs) s = .next (setVj v { decJob y d pois j with
            phase := 2, pic := conceal y d (decGone d j ++ pois), bad := slotBytesIn y d.ctb d.width d.height pois } (vpEnded v j u)))
          ∧ (decNopic y d = true → exec (.decode v d hs) s = .next (vComplete v (decJob y d pois j) u)))))
  ∧ (∀ (v key : Nat) (e : VEnc) (hs : List (List (Option Nat))) (j : VJob) (y : VSess) (s : State),
      (vpOf v s).jobs.find? (fun j => j.key == key && j.op == 4 && (j.phase == 1 || j.phase == 3)) = some j → vMine v j.herd j.sess s = some y →
      (encKind v y j s = .hold → exec (.encode v key e hs) s = .next (setVj v { j with phase := 3, poc := y.pics, irap := y.codesIrap j }
        (setVs v { y with pics := y.pics + 1, irap := y.irap && !y.codesIrap j } (vpEnded v j s))))
      ∧ (encKind v y j s = .wait → exec (.encode v key e hs) s = .next s)
      ∧ (∀ k r, encKind v y j s = k → k ≠ .hold → k ≠ .wait → encOk y j k e = true → encIn y j k (y.ctbCols * y.ctbRows - 1) hs s = r →
        (r.io.st ≠ 0 → exec (.encode v key e hs) s = .next (vIoEnd v j r.io))
        ∧ (∀ o n full, r.io.st = 0 → encWrite y j k e r.bad r.io = (o, n, full) → o.st = 0 →
          exec (.encode v key e hs) s = .next (encDone v y j k e n full (!r.bad.isEmpty) r.win o.s)))
      ∧ (∀ k, encKind v y j s = k → k ≠ .hold → k ≠ .wait → encOk y j k e = false → exec (.encode v key e hs) s = .next s))
  ∧ (∀ (v slice rows : Nat) (g : VSlice) (data : List Byte) (hs : List (List (Option Nat))) (j : VJob) (y : VSess) (s : State),
      sliceRunning v s = some (j, y) →
      (y.lmode < 2 → exec (.sliceNote v slice rows g data hs) s = .next s)
      ∧ (sliceNext y j slice rows g.seg = false → exec (.sliceNote v slice rows g data hs) s = .next s)
      ∧ (2 ≤ y.lmode → j.op = 3 → exec (.sliceNote v slice rows g data hs) s = .next (sliceTold v slice rows y j data.length false s))
      ∧ (∀ o, 2 ≤ y.lmode → sliceNext y j slice rows g.seg = true → sliceOut v y j g.seg g.heads data ⟨0, [], [], hs, s⟩ = o → o.1.st = 0 →
        exec (.sliceNote v slice rows g data hs) s = .next (sliceTold v slice rows y j o.2 (!o.1.bad.isEmpty) o.1.s)))
  ∧ (∀ (v key : Nat) (vals : List (BitVec 32)) (bad : List Nat) (hs : List (List (Option Nat))) (j : VJob) (y : VSess) (s : State) (x : VIo)
      (es : List (Nat × Nat × Nat × Bool)),
      (vpOf v s).jobs.find? (fun j => j.key == key && j.op == 3 && j.phase == 2 && j.body 3 != 0) = some j → vMine v j.herd j.sess s = some y →
      (j.trows < y.outH → tnzElems y j vals bad = es → tnzRow y (j.body 3) j.trows es ⟨0, [], [], hs, s⟩ = x →
        (x.st = 0 → exec (.tensorizeRow v key vals bad hs) s = .next (tnzDone v y j es (es.any (fun e => e.2.2.2)) x.s))
        ∧ (x.st = 1 → exec (.tensorizeRow v key vals bad hs) s = .next s)
        ∧ (2 ≤ x.st → exec (.tensorizeRow v key vals bad hs) s = .next (vEnd v x.st j x.s)))
      ∧ (y.outH ≤ j.trows → exec (.tensorizeRow v key vals bad hs) s = .next s))
  ∧ (∀ (v key : Nat) (hs : List (List (Option Nat))) (j : VJob) (y : VSess) (s : State),
      (vpOf v s).jobs.find? (fun j => j.key == key && j.phase == 2) = some j → vMine v j.herd j.sess s = some y →
      (jobReady j y = true →
        (j.op = 4 → exec (.videoJobDone v key hs) s = .next (vComplete v { j with index := j.poc } s))
        ∧ (j.op = 3 → outFirst v j s = true →
          (j.body 2 = 0 → exec (.videoJobDone v key hs) s = .next (vComplete v { j with index := y.pics }
            (setVs v { y with pics := y.pics + 1, last := j.pic, lastBad := j.bad } s)))
          ∧ (∀ w, j.body 2 ≠ 0 → vaWrite y.herd (j.body 2) j.pic j.bad ⟨0, [], [], hs, s⟩ = w → w.st = 0 →
            exec (.videoJobDone v key hs) s = .next (vComplete v { j with index := y.pics }
              (setVs v { y with pics := y.pics + 1, last := j.pic, lastBad := j.bad } w.s))))
        ∧ (j.op = 3 → outFirst v j s = false → exec (.videoJobDone v key hs) s = .next s))
      ∧ (jobReady j y = false → exec (.videoJobDone v key hs) s = .next s))

/-- R775-R789, R799-R803: doorbells move their ring, entries are fetched, work and complete, completions are written and signalled, a queue
is flushed. It rests on the model's own choices of assumption log 70, 71, 73, 155, 159, 164. -/
def Obligations.HostQueuesRun : Prop :=
  (∀ (fn q v so co : Nat) (s : State), fn < 128 → q < 8 → (fnOf fn s).d3 = false → so = 0x10000 + 0x1000 * q → co = so + 4 →
      (queueLife fn q s ≠ 2 → exec (.sqDoorbell fn so v) s = .next (raise (hqP fn) 18 s) ∧ exec (.cqDoorbell fn co v) s = .next (raise (hqP fn) 18 s))
      ∧ (queueLife fn q s = 2 →
        (∀ new, (v + sqSize fn q s - sqHead fn q s) % sqSize fn q s = new →
          (sqSize fn q s ≤ v ∨ new < sqAnnounced fn q s → exec (.sqDoorbell fn so v) s = .next (raise (hqP fn) 17 s))
          ∧ (v < sqSize fn q s → sqAnnounced fn q s ≤ new → exec (.sqDoorbell fn so v) s =
            .next (partialOn fn q (new - sqAnnounced fn q s) (setF (hqP fn) (HQ_Q_DBV_SQ_TAIL q) v s))))
        ∧ (∀ freed, (v + cqSize fn q s - getF (hqP fn) (HQ_Q_DBV_CQ_HEAD q) s) % cqSize fn q s = freed →
          (cqSize fn q s ≤ v ∨ cqUsed fn q s < freed → exec (.cqDoorbell fn co v) s = .next (raise (hqP fn) 17 s))
          ∧ (v < cqSize fn q s → freed ≤ cqUsed fn q s → exec (.cqDoorbell fn co v) s = .next (setF (hqP fn) (HQ_Q_DBV_CQ_HEAD q) v
            (setHq fn { hqOf fn s with used := alPut 0 (hqOf fn s).used q (cqUsed fn q s - freed) } s))))))
  ∧ (∀ (n q w0 sid : Nat) (body : List Byte) (bad : List Nat) (s : State), mayFetch n q s = true →
      exec (.entryFetch n q w0 sid body bad 1) s = .next (ringFail n q (recordCE hifP 0x2804 0 0 (ringAsk n q 1 s)))
      ∧ ((fnOf n s).ctoDis = false → exec (.entryFetch n q w0 sid body bad 2) s =
        .next (ringFail n q (hostErr n 2 s.now (ringAsk n q 1 s))))
      ∧ ((fnOf n s).ctoDis = true → exec (.entryFetch n q w0 sid body bad 2) s = .next s)
      ∧ (entryHeaderOk w0 = false ∨ (∃ o ∈ bad, o < 48) →
        exec (.entryFetch n q w0 sid body bad 0) s = .next (fetchBad n q w0 (poisonRx bad (ringAsk n q 1 s))))
      ∧ (entryHeaderOk w0 = true → (∀ o ∈ bad, 48 ≤ o) →
        (entrySlots (w0 % 65536) ≤ sqAnnounced n q s →
          exec (.entryFetch n q w0 sid body bad 0) s = 
            .next (fetchGood n q w0 sid body bad (poisonRx bad (ringAsk n q (entrySlots (w0 % 65536)) s))))
        ∧ (sqAnnounced n q s < entrySlots (w0 % 65536) → exec (.entryFetch n q w0 sid body bad 0) s = .next s)))
  ∧ (∀ (n q k : Nat) (e : HqEnt) (s : State),
      (entryAtWork n q k 0 s = some e → exec (.entryNop n q k) s = .next (hqOver e.key 0 0 [] s))
      ∧ (entryAtWork n q k 1 s = some e → e.phase = 0 → ∀ rod ch,
        (e.word 2 % 1024 ≠ 0x3FF → rod = e.word 2 % 1024 ∧ ch = bitsOf (e.word 2) 20 16) →
        (e.word 2 % 1024 = 0x3FF → rod = getF (hqP n) (HQ_Q_DEST_ROD q) s ∧ ch = getF (hqP n) (HQ_Q_DEST_CHAN q) s) →
        (herdOfRod rod s ≠ some n → exec (.deliver n q k) s = .next (hqOver e.key 8 0 [] s))
        ∧ (herdOfRod rod s = some n → exec (.deliver n q k) s = .next (startEnt e { s with
            hubItems := s.hubItems ++ [⟨s.hubNext, rod, ch, 2 ^ 31, e.body.drop 8,
              (e.bad.filter (fun o => decide (8 ≤ o))).map (fun o => o - 8), 0, 0, none, some e.key, s.now⟩]
            hubNext := s.hubNext + 1 })))
      ∧ (entryAtWork n q k 4 s = some e → e.phase = 0 → exec (.entryKvm n q k) s = .next (kvSubmit
        ⟨setBits (e.word 2) 14 8 n, e.word 3, e.word 4, e.word 5, 0, some e.key, false⟩ (startEnt e s)))
      ∧ (hostYields n s = true → ∀ data bad fail hs, exec (.copy n q k data bad fail hs) s = .next s ∧ exec (.load n q k data bad fail) s = .next s)
      ∧ (∀ data bad hs, entryAtWork n q k 2 s = some e → hostYields n s = false → mayIssue n s = true → ∀ va len out, (e.word 3 + e.moved) % 2 ^ 48 = va →
        pieceLen va (e.word 4 - e.moved) = len → bitOf (e.word 3) 63 = out →
        (∀ i a t, hubWalk n va (!out) hs s = (.ok (.bead i a), t) → len ≤ 2048 - a % 2048 →
          (homeHeld i a len (!out) t = true → exec (.copy n q k data bad 0 hs) s = .next (startEnt e t))
          ∧ (homeHeld i a len (!out) t = false →
            (out = true → exec (.copy n q k data bad 0 hs) s = .next (copyOut n e i a len none len len t))
            ∧ (out = false → exec (.copy n q k data bad 0 hs) s = .next (copyIn e i a len none len data bad (pieceAsk n e len t)))))
        ∧ (∀ w t, w = .mig ∨ w = .held → hubWalk n va (!out) hs s = (w, t) → exec (.copy n q k data bad 0 hs) s = .next (startEnt e t))
        ∧ (out = false → exec (.copy n q k data bad 1 hs) s = .next (hqOver e.key 0x83 e.moved [] (recordCE hifP 0x2804 0 0 (pieceAsk n e len s)))))
      ∧ (∀ data bad fail hs, entryAtWork n q k 2 s = some e → hostYields n s = false → mayIssue n s = false →
        exec (.copy n q k data bad fail hs) s = .next (hqOver e.key 0x83 e.moved [] s))
      ∧ (∀ data bad i a len, entryAtWork n q k 3 s = some e → e.word 3 % 1024 = i → bitsOf (e.word 3) 52 32 + e.moved = a →
        pieceLen a (e.word 4 - e.moved) = len → herdOfRod i s = some n → rodRuns i s = true → hostYields n s = false →
        mayIssue n s = true →
        exec (.load n q k data bad 0) s = .next (entryMoved e len (e.word 4) (!(bad.filter (fun o => decide (o < len))).isEmpty)
          (spadWrite i a ((data ++ List.replicate len 0).take len) (bad.filter (fun o => decide (o < len)))
            (poisonRx (bad.filter (fun o => decide (o < len))) (pieceAsk n e len s))))
        ∧ exec (.load n q k data bad 1) s = .next (hqOver e.key 0x83 e.moved [] (recordCE hifP 0x2804 0 0 (pieceAsk n e len s)))))
  ∧ (∀ (n q : Nat) (c : HqCpl) (s : State), n < 128 → q < 8 →
      ((hqOf n s).out.find? (fun c => c.q == q) = some c → mayIssue n s = true → queueLife n q s = 2 ∨ queueLife n q s = 3 ∨ queueLife n q s = 4 →
        cqUsed n q s < cqSize n q s → (hqOf n s).phase0.contains q = false → ∀ tail, getF (hqP n) (HQ_Q_IDX_CQ_TAIL q) s = tail → tail + 1 ≠ cqSize n q s →
        exec (.entryCompletion n q false) s = .next (hqSignal n q (setF (hqP n) (HQ_Q_IDX_CQ_TAIL q) (tail + 1)
          (emit (.hostWrite n (getF (hqP n) (HQ_Q_CQB_LO_BASE q) s + getF (hqP n) (HQ_Q_CQB_HI_BASE q) s * 2 ^ 32 + 64 * tail) (c.bytes 1) [] .plain)
            (setHq n { hqOf n s with out := (hqOf n s).out.erase c, used := alSet (hqOf n s).used q (cqUsed n q s + 1) } s)))))
      ∧ (∀ t, waitTill (alGetD (hqOf n s).sentAt q 0 + getF (hqP n) (HQ_Q_IMOD_US q) s * 1000) s = t →
        ((hqOf n s).due.contains q = true → exec (.imodTimer n q) s = .next (sendMsix n (getF (hqP n) (HQ_Q_CFG_VEC q) t)
          (setHq n { hqOf n s with sentAt := alSet (hqOf n s).sentAt q t.now, due := nsErase (hqOf n s).due q } t)))
        ∧ ((hqOf n s).due.contains q = false → exec (.imodTimer n q) s = .next s)))
  ∧ (∀ (fn n q v : Nat) (s : State), q < 8 →
      (∀ hdrs t, reaches fn (hqP n + 0x12C + 0x40 * q) s → bitOf v 0 = true → queueLife n q s = 2 ∨ queueLife n q s = 3 → flushAnnounced n q hdrs
          (((hqOf n s).ents.filter (fun e => keyQueue e.key == q && e.phase != 1)).foldl (fun t e => hqOver e.key 3 0 [] t) s) = t →
        (sqAnnounced n q t = 0 → exec (.hqFlush fn n q v hdrs) s = .next t)
        ∧ (sqAnnounced n q t ≠ 0 → exec (.hqFlush fn n q v hdrs) s = .next s))
      ∧ (reaches fn (hqP n + 0x118 + 0x40 * q) s →
        (msixSize n ≤ bitsOf v 26 16 → exec (.hqCfgWrite fn n q v) s = .next (raise (hqP n) 2 s))
        ∧ (bitsOf v 26 16 < msixSize n → exec (.hqCfgWrite fn n q v) s = .next (writeReg (hqP n + 0x118 + 0x40 * q) v s)))
      ∧ (reaches fn (hqP n + 0x124 + 0x40 * q) s →
        (herdOfRod (v % 1024) s ≠ some n → exec (.hqDestWrite fn n q v) s = .next (raise (hqP n) 2 s))
        ∧ (herdOfRod (v % 1024) s = some n → exec (.hqDestWrite fn n q v) s = .next (writeReg (hqP n + 0x124 + 0x40 * q) v s))))
  ∧ (∀ (fn off : Nat) (hs : List (Option Nat)) (s : State), fn < 128 → off < 2 ^ (fnOf fn s).bar2 → (fnOf fn s).d3 = false → alGet s.barHeld fn = none →
      (∀ len, winOpen fn false s = false → exec (.bar2Read fn off len hs) s = .next (winDead fn len ((winBase fn s + off) % 2 ^ 48) s))
      ∧ (∀ len l b d t, winOpen fn false s = true → winPieces fn false hs (pagePieces (len / 2048 + 2) (winBase fn s + off) len) s = (some l, b, d, t) →
        (winHeld l false t = true → exec (.bar2Read fn off len hs) s = .next t)
        ∧ (winHeld l false t = false → (winRead l t).1 = 0 →
          exec (.bar2Read fn off len hs) s = .next (emit (.readData fn (winRead l t).2.1 (epBlocks off (winRead l t).2.2.1)) (winRead l t).2.2.2)))
      ∧ (∀ data, winOpen fn true s = false → exec (.bar2Write fn off data false hs) s = .next (winFault fn ((winBase fn s + off) % 2 ^ 48) s))
      ∧ (∀ data l b d t, winOpen fn true s = true →
        winPieces fn true hs (pagePieces (data.length / 2048 + 2) (winBase fn s + off) data.length) s = (some l, b, d, t) →
        (winHeld l true t = true → exec (.bar2Write fn off data false hs) s = .next (barWait fn ⟨off, data, false⟩ t))
        ∧ (winHeld l true t = false → (winWrite l data false t).1 = 0 → exec (.bar2Write fn off data false hs) s = .next (winWrite l data false t).2.2)))
  ∧ (∀ (fn off : Nat) (hs : List (Option Nat)) (w : BarWr) (s : State), fn < 128 → off < 2 ^ (fnOf fn s).bar2 → (fnOf fn s).d3 = false →
      alGet s.barHeld fn = some w →
      (∀ len, exec (.bar2Read fn off len hs) s = .next s)
      ∧ (∀ data, w ≠ ⟨off, data, false⟩ → exec (.bar2Write fn off data false hs) s = .next s))

/-! ### PCIe functions, MCTP, mailbox -/

/-- R771, R785, R794-R797, R801, R807, R811, R933, R1020, R1021: configuration, link, power and BAR events of functions; ATS, PRI and
completions. It rests on the model's own choices of assumption log 13, 72, 73. -/
def Obligations.FunctionsOfThePcieLinkAct : Prop :=
  (∀ (fn vec addr data : Nat) (mask : Bool) (s : State), fn < 128 → vec < msixSize fn → (fnOf fn s).d3 = false → ∀ m, msixOf fn vec s = m →
      (m.pend = true → mask = false → exec (.msixVectorUnmask fn vec addr data mask) s = .next (sendMsix fn vec
        (setMsix fn vec { m with addr := addr, data := data, masked := false, pend := false } s)))
      ∧ (m.pend = false ∨ mask = true → exec (.msixVectorUnmask fn vec addr data mask) s = .next
        (setMsix fn vec { m with addr := addr, data := data, masked := mask } s)))
  ∧ (∀ (fn reg : Nat) (w : Option Nat) (s : State), getF hifP HIF_LINK_RATE s ≠ 0 →
      (configRrs s = true → exec (.configRequest fn ⟨reg, w⟩) s = .next { s with out := s.out ++ [.config fn 1 0] })
      ∧ (configRrs s = false → fn ≠ 0 → numVfs s < fn → exec (.configRequest fn ⟨reg, w⟩) s = .next { s with out := s.out ++ [.config fn 2 0] })
      ∧ (configRrs s = false → fn < 128 → fn = 0 ∨ fn ≤ numVfs s →
        (w = none → exec (.configRequest fn ⟨reg, w⟩) s = .next { s with out := s.out ++ [.config fn 0 (configRead fn reg s)] })
        ∧ (∀ x, w = some x → exec (.configRequest fn ⟨reg, w⟩) s = .next (emit (.config fn 0 0) (configWrite fn reg x s)))))
  ∧ (∀ s : State, configRead 0 6 s = 127 + 2 ^ 16 + 2 ^ 32 ∧ configRead 0 15 s = 2048 ∧ configRead 1 15 s = 16 ∧ configRead 0 10 s = 2 ^ 37 - 2 ^ 30)
  ∧ (∀ (s : State), s.boot.cold = false → s.boot.perst = false →
      exec .rrsDeadline s = .next { s with rrsDone := true, now := max s.now (s.boot.perstAt + 900000000) }
      ∧ (∀ rate width flit, exec (.linkUp rate width flit) s = .next (raise hifP 16 (setF hifP HIF_LINK_L1 0
          (setF hifP HIF_LINK_FLIT (b2n (flit || rate == 6)) (setF hifP HIF_LINK_WIDTH width (setF hifP HIF_LINK_RATE rate s)))))))
  ∧ (∀ (rate width : Nat) (flit l1 : Bool) (s : State),
      (getF hifP HIF_LINK_RATE s ≠ 0 → exec (.pcieLinkChange rate width flit l1) s = .next (raise hifP 16 (setF hifP HIF_LINK_L1 (b2n l1)
          (setF hifP HIF_LINK_FLIT (b2n (flit || rate == 6)) (setF hifP HIF_LINK_WIDTH width (setF hifP HIF_LINK_RATE rate s))))))
      ∧ (getF hifP HIF_LINK_RATE s = 0 → exec (.pcieLinkChange rate width flit l1) s = .next s))
  ∧ (∀ (fn : Nat) (b : Bool) (s : State), fn < 128 →
      exec (.powerStateChange fn b) s = .next (sendPending fn (setFn fn { fnOf fn s with d3 := b } s))
      ∧ exec (.busMasterChange fn b) s = .next (sendPending fn (setFn fn { fnOf fn s with bme := b } s))
      ∧ exec (.memorySpaceDisable fn) s = .next (setFn fn { fnOf fn s with mse := false, bar2 := (fnOf fn s).bar2Stored } s))
  ∧ (∀ (size : Nat) (s : State), 30 ≤ size → size ≤ 36 →
      ((fnOf 0 s).mse = true → exec (.resizableBarWrite size) s = .next (setFn 0 { fnOf 0 s with bar2Stored := size } s))
      ∧ ((fnOf 0 s).mse = false → exec (.resizableBarWrite size) s = .next (setFn 0 { fnOf 0 s with bar2Stored := size, bar2 := size } s)))
  ∧ (∀ (fn pasid page count : Nat) (s : State), ∃ t, exec (.atsInvalidate fn pasid page count) s = .next t
      ∧ (∀ e, e ∈ t.atc ↔ e ∈ s.atc ∧ ¬ (e.fn = fn ∧ (pasid = 2 ^ 20 ∨ e.pasid = pasid) ∧ page ≤ e.page ∧ e.page < page + count))
      ∧ t = { s with atc := t.atc, atsInv := t.atsInv, out := t.out, regs := t.regs })
  ∧ (∀ (fn pasid page frame : Nat) (rd wr : Bool) (s : State), atsWaiting fn pasid page s = [] →
      exec (.translationCompletion fn pasid page rd wr frame) s = .next s)
  ∧ (∀ (fn pasid page frame : Nat) (r : PReq) (s : State) (l : List AtcE), atsWaiting fn pasid page s = [r] →
      s.atc.filter (fun e => !(e.fn == fn && e.pasid == pasid && e.page == page)) = l → l.length ≤ 8192 →
      exec (.translationCompletion fn pasid page false false frame) s = .next (atsDenied fn pasid page r { s with atc := l }))
  ∧ (∀ (fn pasid page frame a : Nat) (b c : Bool) (r : PReq) (s : State), atsWaiting fn pasid page s = [r] → r.target = some (.host a b c) → s.atc = [] →
      exec (.translationCompletion fn pasid page true true frame) s = .next (hostGo r fn (frame * 4096 + a % 4096)
        (updReq r.id (fun x => { x with phase := 1 }) { s with atc := [⟨fn, pasid, page, frame, true⟩] })))
  ∧ (∀ (fn pasid page code : Nat) (e : PriReq) (s : State), s.pris = [e] → e.fn = fn → e.pasid = pasid → e.page = page → code = 0 ∨ code = 1 →
      exec (.prgResponse fn pasid page code) s = .next (slots.foldl (fun u k =>
        if code = 0 then resumeStream e.rod k e.vpage u else failStream e.rod k e.vpage u) { s with pris := [] }))
  ∧ (∀ (id : Nat) (r : PReq) (s : State), hostReadOf id s = some r →
      (∀ data, r.len ≤ data.length → exec (.hostCompletion id data false false) s =
        .next (atsInvDone (showNpr (updReq id (fun x => { x with phase := 3, data := data.take r.len, bad := [] }) s))))
      ∧ (∀ data, 0 < r.len → r.len ≤ data.length → exec (.hostCompletion id data true false) s =
        .next (atsInvDone (showNpr (updReq id (fun x => { x with phase := 3, data := data.take r.len, bad := List.range r.len })
          (recordErr hifP 0x2802 1 0 0 true (raise hifP 17 (emit (.aer 0 2) s)))))))
      ∧ (∀ data ep, exec (.hostCompletion id data ep true) s =
        .next (atsInvDone (showNpr (updReq id (fun x => { x with phase := 3, status := 0x81 }) (recordCE hifP 0x2804 0 0 s)))))
      ∧ (∀ fn, herdOfRod r.rod s = some fn →
        ((fnOf fn s).ctoDis = false → exec (.completionTimeout id) s =
          .next (atsInvDone (showNpr (updReq id (fun x => { x with phase := 3, status := 0x81 })
            (recordCE hifP 0x2803 0 0 (raise hifP 18 (emit (.aer fn 3) (waitTill (r.sent + ctoNs fn s) s))))))))
        ∧ ((fnOf fn s).ctoDis = true → exec (.completionTimeout id) s = .next s)))

/-- R814-R819, R836, R840, R970, R975: MGS answers MCTP, PLDM and SPDM messages while it runs, and updates itself over PLDM. It rests on the
model's own choices of assumption log 78, 81, 82. -/
def Obligations.MgsAnswersMctp : Prop :=
  (∀ (port op tag len : Nat) (data : List Byte) (s : State), port = 1 ∨ port = 2 →
      exec (.mctpMessage port 0x7E Config.vendorId.toNat op tag len data) s = .next (setMgs { s.mgs with
        queue := s.mgs.queue ++ [⟨127 + port, op % 256, tag % 256, len % 4096, data.take (len % 4096)⟩] } s))
  ∧ (∀ (port : Nat) (s : State), answers port s →
      (∀ c l, (c, l) ∈ ([(.getEndpointId port, [(1, 0), (1, alGetD s.mgs.eid port 0)]), (.getMctpVersionSupport port, [(1, 0), (1, 1), (1, 3)]),
          (.getMessageTypeSupport port, [(1, 0), (1, 4), (1, 0), (1, 1), (1, 5), (1, 0x7E)]), (.gettid port, [(1, 0), (1, s.mgs.tid)]),
          (.getpldmtypes port, [(1, 0), (1, 0), (1, 2), (1, 5)]), (.getpldmcommands port 0, [(1, 0), (1, 2), (1, 3), (1, 4), (1, 5)]),
          (.getpdrrepositoryinfo port, [(1, 0), (4, pdrCount)]), (.getpdr port 34, [(1, 0), (4, 34), (1, 1)]), (.getpdr port 38, [(1, 1)]),
          (.getsensorreading port 34, [(1, 1)]),
          (.getstatesensorreadings port 34, [(1, 0), (1, tier s)]), (.getstatesensorreadings port 35, [(1, 0), (1, getF (mgsP 0) MB_LOGSTAT_LOST s)]),
          (.getstatesensorreadings port 36, [(1, 0), (1, outcome s)]),
          (.getnumericeffectervalue port 37, [(1, 0), (2, getF (thmP 1) THM_CAP_WATTS s)]),
          (.querydeviceidentifiers port, [(1, 0), (2, Config.vendorId.toNat)]), (.getstatus port, [(1, 0), (1, s.mgs.updState)]),
          (.getfirmwareparameters port, [(1, 0), (2, 1), (4, slotVersion s.mgs.active s),
            (4, match s.mgs.trial with | some k => slotVersion k s | none => 0)])] : List (Instr × List (Nat × Nat))) →
        exec c s = .next (mctpAnswer port l s))
      ∧ (∀ id x, id < 4 → highest (frameLogic id) s = some x → exec (.getsensorreading port id) s = .next (mctpAnswer port [(1, 0), (1, 1), (4, unsigned 32 x)] s))
      ∧ (∀ eid, exec (.setEndpointId port eid) s = .next (mctpAnswer port [(1, 0), (1, eid % 256)] (setMgs { s.mgs with eid := alSet s.mgs.eid port (eid % 256) } s))
        ∧ exec (.seteventreceiver port eid) s = .next (mctpAnswer port [(1, 0)] (setMgs { s.mgs with evtRecv := some (eid % 256) } s)))
      ∧ (∀ type, type = 0 ∨ type = 2 ∨ type = 5 → exec (.getpldmversion port type) s = .next (mctpAnswer port [(1, 0), (4, (takeFree s).1)] (takeFree s).2))
      ∧ (∀ watts, exec (.setnumericeffectervalue port 37 watts) s = .next (mctpAnswer port [(1, 0)] (capWrite watts s)))
      ∧ (s.mgs.events = [] → exec (.pollforplatformeventmessage port) s = .next (mctpAnswer port [(1, 0), (1, 0)] s))
      ∧ (∀ e r, s.mgs.events = e :: r → exec (.pollforplatformeventmessage port) s =
        .next (mctpAnswer port [(1, 0), (1, e.1), (4, e.2)] (setMgs { s.mgs with events := r } s)))
      ∧ (s.mgs.session = none → flashWrites true s = true → exec (.requestupdate port true) s = .next (mctpAnswer port [(1, 0)] (fwOpen (127 + port) [] true s).2))
      ∧ (s.mgs.session.isSome = true → ∀ ok, exec (.requestupdate port ok) s = .next (mctpAnswer port [(1, 2)] s))
      ∧ (∀ x, pldmSession port s = some x →
        exec (.passcomponenttable port) s = .next (mctpAnswer port [(1, 0)] (setMgs { s.mgs with session := some { x with last := s.now }, updState := max s.mgs.updState 2 } s))
        ∧ (∀ size, exec (.updatecomponent port size) s = .next (mctpAnswer port [(1, 0x15), (4, 0)] (mctpAnswer port [(1, 0)] (setMgs { s.mgs with
            session := some { x with transferring := some size, hdr := [], written := [], verified := false, last := s.now }, updState := 3 } s))))
        ∧ (∀ size off data sig y, x.transferring = some size → imageGap x size = some off → flashWrites true s = true → imageTaken x size off data s.now = y →
          (∀ o, imageGap y size = some o → exec (.requestfirmwaredataResponse port off data sig true) s =
            .next (mctpAnswer port [(1, 0x15), (4, o)] (setMgs { s.mgs with session := some y } s)))
          ∧ (imageGap y size = none → exec (.requestfirmwaredataResponse port off data sig true) s = .next (imageEnd port y size sig s)))
        ∧ (∀ self, x.verified = true → flashWrites true s = true →
          exec (.activatefirmware port self true) s = .next (fwActivate x.slot (b2n self) (mctpAnswer port [(1, 0)] s)))
        ∧ exec (.cancelupdate port) s = .next (mctpAnswer port [(1, 0)] (sessionDrop s)))
      ∧ exec (.getMeasurements port 1 false) s = .next (reply port ([0, 1, 48] ++ (leBytes 48 Config.romDigest.toNat).reverse) s)
      ∧ exec (.spdmRequest port 0 0) s = .next (mctpAnswer port [(1, 0), (1, 0x11), (1, 0x12)] s)
      ∧ (∀ f, free48 s = f → exec (.spdmRequest port 5 0) s = .next (reply port (0 :: f.1) f.2)))
  ∧ (∀ (addr : Nat) (s : State), exec (.i3cDynamicAddress addr) s = .next (setMgs { s.mgs with i3c := some (addr % 128) } s))
  ∧ (∀ s : State, exec .rstdaa s = .next (setMgs { s.mgs with i3c := none } s))

/-- R820-R846, R1024, Table 16-5: a mailbox request is submitted, taken and checked; its command acts and its response goes back to its agent.
It rests on the model's own choices of assumption log 77, 78, 79, 80, 81. -/
def Obligations.TheMailboxServesItsRequests : Prop :=
  (∀ (fn f v : Nat) (s : State), reaches fn (mgsP f + 0x80) s → bitOf v 31 = true →
      (flag (mgsP f) MB_STAT_BUSY s = true → exec (.mbCmd fn f v) s = .next (raise (mgsP f) 3 s))
      ∧ (flag (mgsP f) MB_STAT_BUSY s = false → exec (.mbCmd fn f v) s = .next (setF (mgsP f) MB_STAT_BUSY 1 (setMgs { s.mgs with queue := s.mgs.queue ++
        [⟨f, v % 256, bitsOf v 15 8, bitsOf v 27 16, ((List.range 512).flatMap (fun w => leBytes 4 (rdW (mgsP f + 0x100 + 4 * w) s).toNat)).take (bitsOf v 27 16)⟩] } s))))
  ∧ (∀ (r : MbReq) (s : State), mgsServes s = true → mbNext s = some r → mbOp r.op = none → exec .mbBadOpcode s = .next (mbDone r 2 [] (taken r s)))
  ∧ (∀ (r : MbReq) (s u : State), taken r s = u →
      (served r 0x00 s → exec .mbNop s = .next (mbDone r 0 [] u))
      ∧ (∀ st, mgsServes s = true → mbNext s = some r → r.op = 0 → mbCheck r s = some st → exec .mbNop s = .next (mbDone r st [] u))
      ∧ (served r 0x01 s → ∃ resp, exec .getInfo s = .next (mbDone r 0 resp u) ∧ resp.length = 24 ∧ resp.take 8 = leBytes 8 Config.serial.toNat)
      ∧ (served r 0x02 s → r.agent = 0 → 1 ≤ r.num 2 2 → r.num 2 2 ≤ 256 → exec .sensorRead s =
        .next (mbDone r 0 (((List.range (r.num 2 2)).map (fun i => r.num 0 2 + i)).flatMap (fun i => leBytes 4 (sensorWord i u))) u))
      ∧ (∀ all recs at_, served r 0x10 s → 1 ≤ r.num 12 1 → r.num 13 1 ≤ 3 → logSource (r.num 13 1) u = all →
        (⟨r.num 4 8, r.num 0 4, 0, 0, 0, 0, 0, 0, []⟩ : TRec) = at_ → (all.filter (fun x => at_.le x)).take (min (r.num 12 1) 27) = recs →
        (all = [] → exec .logRead s = .next (mbDone r 0 (leBytes 1 0 ++ leBytes 1 (tier u) ++ leBytes 1 0 ++ leBytes 5 0) u))
        ∧ (∀ x rest, all = x :: rest → x.le at_ = true → exec .logRead s =
          .next (mbDone r 0 (leBytes 1 recs.length ++ leBytes 1 (tier u) ++ leBytes 1 0 ++ leBytes 5 0 ++ recs.flatMap TRec.bytes) u)))
      ∧ (served r 0x11 s → ∃ t, exec .logWrite s = .next (mbDone r 0 (leBytes 4 t.mgs.boot ++ leBytes 8 t.mgs.seq) t)
        ∧ t = tallyNow ⟨0, 0, s.now, 8, agentSrc r.agent, (takeFree u).1 % 65536, r.num 28 4, if r.agent < 128 then r.agent else 0xFFFF, r.data.take 28⟩ (takeFree u).2)
      ∧ (served r 0x12 s → flag (mgsP 0) MB_LOGSTAT_LOST s = false → exec .logAckLost s =
        .next (mbDone r 0 [] (setF (mgsP 0) MB_UNPERS_COUNT 0 (setF (mgsP 0) MB_LOGSTAT_LOST 0 u))))
      ∧ (served r 0x20 s → hdrOk r.data = true → u.mgs.session = none → u.mgs.otpSvn ≤ hdrNum r.data 12 1 → flashWrites true u = true →
        exec (.fwBegin true true) s = .next (mbDone r 0 (leBytes 2 (fwOpen r.agent r.data false u).1) (flashAnswered (fwOpen r.agent r.data false u).2)))
      ∧ (∀ x, served r 0x21 s → r.num 2 2 = 0 → r.num 4 4 % 8 = 0 → fwSession r u = .ok x → r.num 4 4 + (r.data.drop 8).length ≤ hdrNum x.hdr 16 4 →
        flashWrites true u = true → exec (.fwData true) s = .next (mbDone r 0 [] (setMgs { u.mgs with
          xspiRun := 0, session := some { x with written := putBody (r.num 4 4) (r.data.drop 8) x.written, verified := false, last := u.now } } u)))
      ∧ (∀ x, served r 0x22 s → fwSession r u = .ok x → bodyOk x.hdr x.written = true → flashWrites true u = true →
        exec (.fwVerify true) s = .next (mbDone r 0 [] (flashAnswered (fwVerified x u))))
      ∧ (∀ x, served r 0x23 s → r.num 2 1 ≤ 1 → fwSession r u = .ok x → x.verified = true → flashWrites true u = true →
        exec (.fwActivate true) s = .next (mbDone r 0 [] (flashAnswered (fwActivate x.slot (r.num 2 1) u))))
      ∧ (∀ x, served r 0x24 s → fwSession r u = .ok x → exec .fwAbort s =
        .next (mbDone r 0 [] (flashAnswered (sessionDrop u))))
      ∧ (∀ l, served r 0x30 s → licForm r.data = true → licOf r.data true = l → l.serial = Config.serial.toNat → storedIssue u < l.issue →
        flashWrites true u = true → u.mgs.licStage = true → exec (.licInstall true true) s =
          .next (mbDone r 0 [] (flashAnswered (tallyLic 1 (agentSrc r.agent) (some l) (applyLic (some l) (setMgs { u.mgs with licence := some l } u))))))
      ∧ (∀ l, served r 0x31 s → s.mgs.licForce = some l → exec .licRead s = .next (mbDone r 0 l.bytes u))
      ∧ (served r 0x40 s → r.num 0 4 % 4096 = 0 → (pageOf (r.num 0 4)).isSome = true →
        exec .unlock s = .next (mbDone r 0 [] (setF (r.num 0 4) PG_LOCK_LOCKED 0 u)))
      ∧ (served r 0x48 s → (r.num 0 1 = 0 → exec .configGet s = .next (mbDone r 0 [BitVec.ofNat 8 (s.mgs.cfgProfile.getD 2)] u))
        ∧ (3 ≤ r.num 0 1 → exec .configGet s = .next (mbDone r 4 [] u)))
      ∧ (served r 0x49 s → r.num 0 1 = 0 → (r.data.drop 8).length = 1 → r.num 1 7 = 0 → leNat (r.data.drop 8) ≤ 3 → flashWrites true u = true →
        exec (.configSet true) s = .next (mbDone r 0 [] (setMgs { u.mgs with cfgProfile := some (leNat (r.data.drop 8)), xspiRun := 0 } u)))
      ∧ (served r 0x50 s → exec .fmStatus s = .next (mbDone r 0 (leBytes 4 (rdW (rtrP 0 + 0x88) u).toNat ++ leBytes 2 u.rtr.nodes.length) u))
      ∧ (∀ es, served r 0x51 s → r.num 0 1 = 1 → r.num 1 15 = 0 → planEntries r.data (r.len / 16 - 1) = es →
        es.any (fun e => decide (2 ^ 18 ≤ e.2.1) || e.2.2 != 0) = false → flashWrites true u = true →
        (es.foldl (fun l e => alSet l e.1 e.2.1) []).length ≤ 4096 →
        exec (.fmPlan true) s = .next (mbDone r 0 [] (setMgs { u.mgs with plan := es.foldl (fun l e => alSet l e.1 e.2.1) [], xspiRun := 0 } u)))
      ∧ (served r 0x52 s → (fmRole u = 1 → exec .fmNodes s = .next (mbDone r 0 (indexed (r.num 0 2) u.rtr.nodes (fun x =>
            leBytes 8 x.serial ++ leBytes 4 (x.node.getD 0) ++ leBytes 2 x.epoch ++ leBytes 2 ((takeFree u).1 % 65536))) (takeFree u).2))
        ∧ (fmRole u ≠ 1 → exec .fmNodes s = .next (mbDone r 0xB [] u)))
      ∧ (served r 0x60 s → exec .defectRead s = .next (mbDone r 0 (indexed (r.num 0 2) u.mgs.defects
        (fun x => leBytes 1 x.kind ++ leBytes 3 0 ++ leBytes 8 x.loc ++ leBytes 4 x.boot)) u)))
  ∧ (∀ (x : Session) (s : State), s.mgs.session = some x →
      exec .updateSessionIdle s = .next (sessionDrop (waitTill (x.last + 60000000000) s)))
  ∧ (∀ (k : Nat) (s : State), s.mgs.trial = some k → mstate s = 1 → s.mgs.trialRun = true → flag (mgsP 0) MB_INFO_TRIAL s = true →
      s.mgs.runAt ≤ s.mgs.startAt + 5000000000 → ∃ t, exec .trialCommit s = .next (tallyFree 6 0xFFFFFFFF [] (setF (mgsP 0) MB_INFO_TRIAL 0 t))
        ∧ t.mgs.active = k ∧ t.mgs.trial = none ∧ t.mgs.trialRun = false ∧ s.mgs.otpSvn ≤ t.mgs.otpSvn
        ∧ t = { s with mgs := t.mgs, now := max s.now (s.mgs.runAt + 10000000000) })
  ∧ (∀ (ue : Bool) (s t : State), mgsServes s = true → recordCE (mgsP 0) (if ue then 0x0208 else 0x0206) 0 0 (mgsRestart s) = t →
      (t.mgs.trialRun && t.mgs.trial.isSome = true → exec (.mgsWdog ue) s = .next (rollback t))
      ∧ (t.mgs.trialRun && t.mgs.trial.isSome = false → exec (.mgsWdog ue) s = .next t))
  ∧ (∀ (k : Nat) (s t : State), s.mgs.trial = some k → mstate s = 1 → s.mgs.trialRun = true → flag (mgsP 0) MB_INFO_TRIAL s = true →
      s.mgs.startAt + 5000000000 < s.mgs.runAt → waitTill (s.mgs.runAt + 10000000000) s = t →
      exec .trialCommit s = .next (recordCE (mgsP 0) 0x0205 0 0 (setMgs { t.mgs with trial := none, trialRun := false } t)))
  ∧ (∀ (ok : Bool) (s : State), mgsServes s = true →
      (s.mgs.pend = [] → exec (.tallyPersist ok) s = .next s)
      ∧ (∀ r rest, s.mgs.pend = r :: rest →
        (∀ k c, tier s = 0 → sectNext s = some (k, c) → exec (.tallyPersist ok) s = .next (setMgs { s.mgs with
          pend := rest, cur := k, xspiRun := 0, sects := alSet s.mgs.sects k { c with recs := c.recs ++ [r] } } s))
        ∧ (tier s = 1 → exec (.tallyPersist true) s = .next (reservePut r (setMgs { s.mgs with pend := rest } s)))
        ∧ (tier s = 1 → exec (.tallyPersist false) s = .next (reserveFailed r.seq s))
        ∧ (2 ≤ tier s → exec (.tallyPersist ok) s = .next (ramOnly (setMgs { s.mgs with pend := rest } s)))))
  ∧ (∀ (k : Nat) (s : State), k < 1024 → s.mgs.flashBad = false →
      (64 ≤ s.mgs.spareNext → exec (.flashVerify k false) s = .next (flashLost 1 s))
      ∧ (s.mgs.spareNext < 64 → exec (.flashVerify k false) s = .next (recordCE (mgsP 0) 0x0201 (sectOf k s).phys 0
        (setF (mgsP 0) MB_LOGSTAT_SPARES (63 - s.mgs.spareNext) (setMgs { s.mgs with
          sects := alSet s.mgs.sects k { sectOf k s with phys := 2076 + s.mgs.spareNext }, spareNext := s.mgs.spareNext + 1
          defects := s.mgs.defects ++ [⟨5, (sectOf k s).phys, s.mgs.boot, 0⟩] } s)))))
  ∧ (∀ (s : State) (t : State), setMgs { s.mgs with xspiRun := s.mgs.xspiRun + 1 } s = t →
      (s.mgs.xspiRun < 2 → exec .xspiTimeout s = .next t) ∧ (2 ≤ s.mgs.xspiRun → exec .xspiTimeout s = .next (flashLost 2 t)))

/-! ### The queue, every command, every step -/

/-- A step takes the command at the front of the queue and is exec of it on the state with the queue's rest; on an empty queue the block idles,
and package time goes on by 1 ns (assumption log 2); no word spells a command, so withFetchWord changes nothing. -/
def Obligations.StepTakesTheFrontCommand : Prop :=
  (∀ (c : Instr) (rest : List Instr) (s : State), s.pending = c :: rest → step s = exec c { s with pending := rest })
  ∧ (∀ s : State, s.pending = [] → step s = .next { s with now := s.now + 1 })
  ∧ (∀ (nbits w : Nat) (s : State), decodeTableWord nbits w = none ∧ s.withFetchWord nbits w = s)

/-- No command stops the block: in every state every command answers a next state; it leaves the queue as it is, takes back nothing that was
sent, and uses no free value a second time. It rests on the model's own choices of assumption log 1, 96. -/
def Obligations.EveryCommandGoesOn : Prop :=
  ∀ (c : Instr) (s : State), ∃ t, exec c s = .next t ∧ t.pending = s.pending ∧ s.out <+: t.out ∧ s.freeN ≤ t.freeN

/-- Every step keeps the canonical form of every addressed store: registers, bead memory, scratchpads, accumulators and vector registers. It
rests on the model's own choices of assumption log 16. -/
def Obligations.StoresKeepTheirForm : Prop :=
  ∀ s t : State, Memory.wf s → step s = .next t → Memory.wf t

/-- The block right after reset: the stores hold their form, no command waits, nothing has been sent, the bring-up outcome is IN_PROGRESS, every
register holds its cold value, every rod's SEQ is OFF, no island has a target, REQCAP is 64, and the shares are 16. It rests on the model's
own choices of assumption log 11, 15, 16. -/
def Obligations.ResetLeavesTheBlockCold : Prop :=
  Memory.wf State.reset ∧ State.reset.pending = [] ∧ State.reset.out = [] ∧ State.reset.gate = false ∧ outcome State.reset = 0
    ∧ (∀ a, rdW a State.reset = coldVal (canon a))
    ∧ rdW (glbP + 0x80) State.reset = 0x00A11024
    ∧ (∀ i, i < 1024 → lifeAt (statOf (seqP i)) State.reset = 0 ∧ getF (strmP i) STRM_CTL_REQCAP State.reset = 64)
    ∧ (∀ j, j < 64 → getF (islP j) ISL_VSTAT_TARGET State.reset = 0)
    ∧ (∀ n, n < 128 → getF (herdP n) (HERD_SHARE_FLOOR 0) State.reset = 16)
end

