-- ==== Sys2Proof/Laws/Assoc.lean ====
section
/-! SUPPORT. Laws of sparse maps: reads after writes, and the canonical form under every operation on them. -/
namespace Sys2Proof.Machine

variable {α : Type}

@[simp] theorem alGet_alSet_same (m : List (Nat × α)) (k : Nat) (v : α) : alGet (alSet m k v) k = some v := by
  induction m with
  | nil => simp [alSet, alGet]
  | cons e t ih =>
    unfold alSet
    split
    · simp [alGet]
    · split
      · simp [alGet]
      · rename_i h1 h2
        simp only [alGet]
        rw [if_neg (fun h => h2 h.symm)]
        exact ih

theorem alGet_alSet_ne (m : List (Nat × α)) {k j : Nat} (v : α) (h : j ≠ k) : alGet (alSet m k v) j = alGet m j := by
  induction m with
  | nil => simp [alSet, alGet, h.symm]
  | cons e t ih =>
    unfold alSet
    split
    · simp [alGet, h.symm]
    · split
      · rename_i h1 h2
        simp [alGet, h.symm, ← h2]
      · simp only [alGet, ih]

@[simp] theorem alGet_alErase_same (m : List (Nat × α)) (k : Nat) : alGet (alErase m k) k = none := by
  induction m with
  | nil => simp [alErase, alGet]
  | cons e t ih =>
    unfold alErase at ih ⊢
    rw [List.filter_cons]
    split
    · rename_i h
      simp only [alGet]
      rw [if_neg (by simpa using h)]
      exact ih
    · exact ih

theorem alGet_alErase_ne (m : List (Nat × α)) {k j : Nat} (h : j ≠ k) : alGet (alErase m k) j = alGet m j := by
  induction m with
  | nil => simp [alErase, alGet]
  | cons e t ih =>
    unfold alErase at ih ⊢
    rw [List.filter_cons]
    split
    · simp only [alGet, ih]
    · rename_i h1
      have he : e.1 = k := by simpa using h1
      simp only [alGet]
      rw [if_neg (fun hh => h (hh.symm.trans he))]
      exact ih

/-- A read after a write of a map whose unlisted keys read as `d`. -/
@[simp] theorem alPut_read_same [DecidableEq α] (d : α) (m : List (Nat × α)) (k : Nat) (v : α) :
    (alGet (alPut d m k v) k).getD d = v := by
  unfold alPut
  split
  · rename_i h; simp [h]
  · simp

/-- A write leaves every other key alone. -/
theorem alPut_read_ne [DecidableEq α] (d : α) (m : List (Nat × α)) {k j : Nat} (v : α) (h : j ≠ k) :
    alGet (alPut d m k v) j = alGet m j := by
  unfold alPut
  split
  · exact alGet_alErase_ne m h
  · exact alGet_alSet_ne m v h

theorem mem_alSet {m : List (Nat × α)} {k : Nat} {v : α} {e : Nat × α} (h : e ∈ alSet m k v) : e = (k, v) ∨ e ∈ m := by
  induction m with
  | nil => simp [alSet] at h; exact .inl h
  | cons a t ih =>
    unfold alSet at h
    split at h
    · exact List.mem_cons.1 h
    · split at h
      · exact (List.mem_cons.1 h).imp id (List.mem_cons_of_mem _)
      · rcases List.mem_cons.1 h with h | h
        · exact .inr (h ▸ List.mem_cons_self)
        · exact (ih h).imp id (List.mem_cons_of_mem _)

theorem alSet_sorted {m : List (Nat × α)} (k : Nat) (v : α) (h : (m.map Prod.fst).Pairwise (· < ·)) :
    ((alSet m k v).map Prod.fst).Pairwise (· < ·) := by
  induction m with
  | nil => simp [alSet]
  | cons a t ih =>
    rw [List.map_cons, List.pairwise_cons] at h
    unfold alSet
    split
    · rename_i hk
      simp only [List.map_cons, List.pairwise_cons]
      refine ⟨fun x hx => ?_, h⟩
      rcases List.mem_cons.1 hx with rfl | hx
      · exact hk
      · exact Nat.lt_trans hk (h.1 x hx)
    · split
      · rename_i h1 h2
        simp only [List.map_cons, List.pairwise_cons]
        subst h2
        exact h
      · rename_i h1 h2
        simp only [List.map_cons, List.pairwise_cons]
        refine ⟨fun x hx => ?_, ih h.2⟩
        obtain ⟨e, he, rfl⟩ := List.mem_map.1 hx
        rcases mem_alSet he with rfl | hm
        · show a.1 < k; omega
        · exact h.1 _ (List.mem_map_of_mem hm)

theorem alErase_sorted {m : List (Nat × α)} (k : Nat) (h : (m.map Prod.fst).Pairwise (· < ·)) :
    ((alErase m k).map Prod.fst).Pairwise (· < ·) := by
  unfold alErase
  exact List.Pairwise.sublist ((List.filter_sublist).map _) h

/-- A filter keeps the canonical form. -/
theorem canonical_filter [DecidableEq α] {d : Nat → α} {m : List (Nat × α)} (p : Nat × α → Bool) (h : canonical d m) :
    canonical d (m.filter p) :=
  ⟨List.Pairwise.sublist ((List.filter_sublist).map _) h.1, fun e he => h.2 e (List.mem_filter.1 he).1⟩

/-- A write keeps the canonical form. -/
theorem canonical_alPut [DecidableEq α] {d : Nat → α} {m : List (Nat × α)} (k : Nat) (v : α) (h : canonical d m) :
    canonical d (alPut (d k) m k v) := by
  unfold alPut
  split
  · exact canonical_filter _ h
  · rename_i hv
    refine ⟨alSet_sorted k v h.1, fun e he => ?_⟩
    rcases mem_alSet he with rfl | hm
    · exact hv
    · exact h.2 e hm

@[simp] theorem canonical_nil [DecidableEq α] (d : Nat → α) : canonical d ([] : List (Nat × α)) :=
  ⟨List.Pairwise.nil, fun _ h => by simp at h⟩

end Sys2Proof.Machine
end

