-- ==== Sys2Proof/Laws/Regs.lean ====
section
/-! SUPPORT. Laws of the register file: bits, whole registers, fields and counters. -/
namespace Sys2Proof.Machine

/-! ### Bits -/

theorem bitsOf_lt (n hi lo : Nat) : bitsOf n hi lo < 2 ^ (hi + 1 - lo) := Nat.mod_lt _ (Nat.two_pow_pos _)

/-- A number as the bits above `hi`, the bits hi..lo, and the bits below `lo`. -/
theorem bitsOf_split {n hi lo : Nat} (h : lo ≤ hi + 1) :
    n = n / 2 ^ (hi + 1) * 2 ^ (hi + 1) + bitsOf n hi lo * 2 ^ lo + n % 2 ^ lo := by
  unfold bitsOf
  have e : 2 ^ (hi + 1) = 2 ^ lo * 2 ^ (hi + 1 - lo) := by rw [← Nat.pow_add]; congr 1; omega
  have h1 := Nat.div_add_mod n (2 ^ lo)
  have h2 := Nat.div_add_mod (n / 2 ^ lo) (2 ^ (hi + 1 - lo))
  rw [Nat.div_div_eq_div_mul, ← e] at h2
  generalize n / 2 ^ (hi + 1) = x at *
  generalize n / 2 ^ lo % 2 ^ (hi + 1 - lo) = y at *
  generalize n % 2 ^ lo = w at *
  rw [← h2] at h1
  rw [e]
  rw [← h1]
  rw [Nat.mul_add, Nat.mul_comm (2 ^ lo) y, ← Nat.mul_assoc, Nat.mul_comm x (2 ^ lo * 2 ^ (hi + 1 - lo))]

/-- `setBits` replaces the bits hi..lo and keeps the others. -/
theorem setBits_eq {n hi lo v : Nat} (h : lo ≤ hi + 1) :
    setBits n hi lo v = n / 2 ^ (hi + 1) * 2 ^ (hi + 1) + v % 2 ^ (hi + 1 - lo) * 2 ^ lo + n % 2 ^ lo := by
  unfold setBits
  have := bitsOf_split (n := n) h
  omega

theorem setBits_div {n hi lo v : Nat} (h : lo ≤ hi + 1) :
    setBits n hi lo v / 2 ^ lo = n / 2 ^ (hi + 1) * 2 ^ (hi + 1 - lo) + v % 2 ^ (hi + 1 - lo) := by
  rw [setBits_eq h]
  have e : 2 ^ (hi + 1) = 2 ^ (hi + 1 - lo) * 2 ^ lo := by rw [← Nat.pow_add]; congr 1; omega
  have hm : n % 2 ^ lo < 2 ^ lo := Nat.mod_lt _ (Nat.two_pow_pos _)
  rw [show n / 2 ^ (hi + 1) * 2 ^ (hi + 1) + v % 2 ^ (hi + 1 - lo) * 2 ^ lo
      = (n / 2 ^ (hi + 1) * 2 ^ (hi + 1 - lo) + v % 2 ^ (hi + 1 - lo)) * 2 ^ lo by
    rw [Nat.add_mul, Nat.mul_assoc, ← e]]
  rw [Nat.mul_comm, Nat.mul_add_div (Nat.two_pow_pos _), Nat.div_eq_of_lt hm, Nat.add_zero]

/-- The replaced bits read as what was written. -/
@[simp] theorem bitsOf_setBits_same {n hi lo v : Nat} (h : lo ≤ hi + 1) : bitsOf (setBits n hi lo v) hi lo = v % 2 ^ (hi + 1 - lo) := by
  unfold bitsOf
  rw [setBits_div h, Nat.mul_comm, Nat.mul_add_mod, Nat.mod_mod]

/-- Bits above the replaced ones stay. -/
theorem bitsOf_setBits_above {n hi lo v a b : Nat} (h : lo ≤ hi + 1) (hb : hi < b) :
    bitsOf (setBits n hi lo v) a b = bitsOf n a b := by
  unfold bitsOf
  have e : 2 ^ b = 2 ^ (hi + 1) * 2 ^ (b - (hi + 1)) := by rw [← Nat.pow_add]; congr 1; omega
  have e2 : 2 ^ (hi + 1) = 2 ^ lo * 2 ^ (hi + 1 - lo) := by rw [← Nat.pow_add]; congr 1; omega
  rw [e, ← Nat.div_div_eq_div_mul, ← Nat.div_div_eq_div_mul]
  congr 2
  conv => lhs; rw [e2, ← Nat.div_div_eq_div_mul, setBits_div h, Nat.mul_comm]
  rw [Nat.mul_add_div (Nat.two_pow_pos _), Nat.div_eq_of_lt (Nat.mod_lt _ (Nat.two_pow_pos _)), Nat.add_zero]

/-- Bits below the replaced ones stay. -/
theorem bitsOf_setBits_below {n hi lo v a b : Nat} (h : lo ≤ hi + 1) (hb : a < lo) :
    bitsOf (setBits n hi lo v) a b = bitsOf n a b := by
  by_cases hab : b ≤ a + 1
  · have key : ∀ m, bitsOf m a b = m % 2 ^ lo / 2 ^ b % 2 ^ (a + 1 - b) := by
      intro m
      unfold bitsOf
      have e : 2 ^ lo = 2 ^ b * 2 ^ (lo - b) := by rw [← Nat.pow_add]; congr 1; omega
      rw [e, Nat.mod_mul_right_div_self, Nat.mod_mod_of_dvd]
      exact Nat.pow_dvd_pow _ (by omega)
    rw [key, key]
    congr 2
    have e : 2 ^ (hi + 1) = 2 ^ lo * 2 ^ (hi + 1 - lo) := by rw [← Nat.pow_add]; congr 1; omega
    rw [setBits_eq h, e]
    rw [show n / (2 ^ lo * 2 ^ (hi + 1 - lo)) * (2 ^ lo * 2 ^ (hi + 1 - lo)) + v % 2 ^ (hi + 1 - lo) * 2 ^ lo + n % 2 ^ lo
      = 2 ^ lo * (n / (2 ^ lo * 2 ^ (hi + 1 - lo)) * 2 ^ (hi + 1 - lo) + v % 2 ^ (hi + 1 - lo)) + n % 2 ^ lo by
        rw [Nat.mul_add, Nat.mul_comm (2 ^ lo) (v % _), Nat.mul_left_comm (2 ^ lo), ]]
    rw [Nat.mul_add_mod, Nat.mod_mod]
  · unfold bitsOf
    rw [show a + 1 - b = 0 by omega]
    simp [Nat.mod_one]

/-- Replaced bits of a 32-bit number are a 32-bit number. -/
theorem setBits_lt {n hi lo v w : Nat} (h : lo ≤ hi + 1) (hh : hi < w) (hn : n < 2 ^ w) : setBits n hi lo v < 2 ^ w := by
  rw [setBits_eq h]
  have e2 : 2 ^ (hi + 1) = 2 ^ lo * 2 ^ (hi + 1 - lo) := by rw [← Nat.pow_add]; congr 1; omega
  have e3 : 2 ^ w = 2 ^ (w - (hi + 1)) * 2 ^ (hi + 1) := by rw [← Nat.pow_add]; congr 1; omega
  have hd : n / 2 ^ (hi + 1) < 2 ^ (w - (hi + 1)) := by
    rw [Nat.div_lt_iff_lt_mul (Nat.two_pow_pos _), ← e3]; exact hn
  have hv : v % 2 ^ (hi + 1 - lo) < 2 ^ (hi + 1 - lo) := Nat.mod_lt _ (Nat.two_pow_pos _)
  have hm : n % 2 ^ lo < 2 ^ lo := Nat.mod_lt _ (Nat.two_pow_pos _)
  have h1 : (v % 2 ^ (hi + 1 - lo) + 1) * 2 ^ lo ≤ 2 ^ (hi + 1 - lo) * 2 ^ lo := Nat.mul_le_mul_right _ hv
  have h2 : (n / 2 ^ (hi + 1) + 1) * 2 ^ (hi + 1) ≤ 2 ^ (w - (hi + 1)) * 2 ^ (hi + 1) := Nat.mul_le_mul_right _ hd
  rw [Nat.add_mul, Nat.one_mul] at h1 h2
  rw [Nat.mul_comm (2 ^ (hi + 1 - lo)), ← e2] at h1
  rw [← e3] at h2
  omega

/-! ### Whole registers -/

/-- A register other than MB_INFO to MB_LOGSEQ is stored once per page. -/
theorem canon_of_offset {a : Nat} (h : a % 0x1000 < 0x88 ∨ 0xA0 ≤ a % 0x1000) : canon a = a := by
  unfold canon
  rw [if_neg (by omega)]

theorem canon_high {a : Nat} (h : 0x90000 ≤ a) : canon a = a := by
  unfold canon
  rw [if_neg (by omega)]

/-- The shared registers keep their offset in the page. -/
theorem canon_mod (a : Nat) : canon a % 0x1000 = a % 0x1000 := by
  unfold canon
  split <;> omega

@[simp] theorem rdW_wrW_same (a : Nat) (v : Word) (s : State) : rdW a (wrW a v s) = v := by simp [rdW, wrW]

theorem rdW_wrW_ne {a b : Nat} (v : Word) (s : State) (h : canon a ≠ canon b) : rdW a (wrW b v s) = rdW a s := by
  unfold rdW wrW
  rw [alPut_read_ne _ _ _ h]

/-- Registers at different offsets of their pages are different registers. -/
theorem rdW_wrW_offset {a b : Nat} (v : Word) (s : State) (h : a % 0x1000 ≠ b % 0x1000) : rdW a (wrW b v s) = rdW a s :=
  rdW_wrW_ne v s (fun e => h (by rw [← canon_mod a, ← canon_mod b, e]))

theorem rdW_setF_ne {a p : Nat} {f : Field} (v : Nat) (s : State) (h : canon a ≠ canon (p + f.off)) :
    rdW a (setF p f v s) = rdW a s := rdW_wrW_ne _ _ h

theorem rdW_setF_offset {a p : Nat} {f : Field} (v : Nat) (s : State) (h : a % 0x1000 ≠ (p + f.off) % 0x1000) :
    rdW a (setF p f v s) = rdW a s := rdW_wrW_offset _ _ h

theorem rdW_bump_offset {a p : Nat} {f : Field} (v : Nat) (s : State) (h : a % 0x1000 ≠ (p + f.off) % 0x1000) :
    rdW a (bump p f v s) = rdW a s := rdW_setF_offset _ _ h

theorem rdW_wr64_offset {a b : Nat} (v : Nat) (s : State) (h : a % 0x1000 ≠ b % 0x1000) (h' : a % 0x1000 ≠ (b + 4) % 0x1000) :
    rdW a (wr64 b v s) = rdW a s := by
  unfold wr64
  rw [rdW_wrW_offset _ _ h', rdW_wrW_offset _ _ h]

theorem rdW_bump64_offset {a b : Nat} (v : Nat) (s : State) (h : a % 0x1000 ≠ b % 0x1000) (h' : a % 0x1000 ≠ (b + 4) % 0x1000) :
    rdW a (bump64 b v s) = rdW a s := rdW_wr64_offset _ _ h h'

/-! ### Fields -/

/-- A field reads as what was written to it. -/
theorem getF_setF_same {p : Nat} {f : Field} (v : Nat) (s : State) (h : f.lo ≤ f.hi) (h' : f.hi < 32) :
    getF p f (setF p f v s) = v % 2 ^ (f.hi + 1 - f.lo) := by
  unfold getF setF
  rw [rdW_wrW_same, BitVec.toNat_ofNat, Nat.mod_eq_of_lt (setBits_lt (by omega) h' (BitVec.isLt _)), bitsOf_setBits_same (by omega)]

/-- A write of a field leaves the fields above and below it in its register alone. -/
theorem getF_setF_beside {p : Nat} {f g : Field} (v : Nat) (s : State) (ho : f.off = g.off) (h : g.lo ≤ g.hi) (h' : g.hi < 32)
    (hd : g.hi < f.lo ∨ f.hi < g.lo) : getF p f (setF p g v s) = getF p f s := by
  unfold getF setF
  rw [ho, rdW_wrW_same, BitVec.toNat_ofNat, Nat.mod_eq_of_lt (setBits_lt (by omega) h' (BitVec.isLt _))]
  rcases hd with hd | hd
  · exact bitsOf_setBits_above (by omega) hd
  · exact bitsOf_setBits_below (by omega) hd

/-- A field of a register that stays, stays. -/
theorem getF_of_rdW {p : Nat} {f : Field} {s t : State} (h : rdW (p + f.off) t = rdW (p + f.off) s) : getF p f t = getF p f s := by
  unfold getF; rw [h]

theorem getF_setF_offset {p q : Nat} {f g : Field} (v : Nat) (s : State) (h : (p + f.off) % 0x1000 ≠ (q + g.off) % 0x1000) :
    getF p f (setF q g v s) = getF p f s := getF_of_rdW (rdW_setF_offset _ _ h)

theorem getF_setF_ne {p q : Nat} {f g : Field} (v : Nat) (s : State) (h : canon (p + f.off) ≠ canon (q + g.off)) :
    getF p f (setF q g v s) = getF p f s := getF_of_rdW (rdW_setF_ne _ _ h)

/-- A 64-bit pair read after it is stored. -/
theorem rd64_wr64_same (a v : Nat) (s : State) : rd64 a (wr64 a v s) = v % 2 ^ 64 := by
  have h : canon a ≠ canon (a + 4) := by
    intro h; have := congrArg (· % 0x1000) h; simp only [canon_mod] at this; omega
  unfold rd64 wr64
  rw [rdW_wrW_ne _ _ h, rdW_wrW_same, rdW_wrW_same, BitVec.toNat_ofNat, BitVec.toNat_ofNat]
  omega

theorem rd64_lt (a : Nat) (s : State) : rd64 a s < 2 ^ 64 := by
  unfold rd64; have h1 := (rdW a s).isLt; have h2 := (rdW (a + 4) s).isLt; omega

/-- A 64-bit counter after a count: it saturates. -/
theorem rd64_bump64_same (a k : Nat) (s : State) : rd64 a (bump64 a k s) = satAdd 64 (rd64 a s) k := by
  have : satAdd 64 (rd64 a s) k < 2 ^ 64 := by unfold satAdd; split <;> omega
  unfold bump64; rw [rd64_wr64_same, Nat.mod_eq_of_lt this]

/-- The registers decide every field. -/
theorem getF_regs {s t : State} (h : t.regs = s.regs) (p : Nat) (f : Field) : getF p f t = getF p f s := by
  unfold getF rdW; rw [h]

theorem rdW_regs {s t : State} (h : t.regs = s.regs) (a : Nat) : rdW a t = rdW a s := by
  unfold rdW; rw [h]

theorem rd64_regs {s t : State} (h : t.regs = s.regs) (a : Nat) : rd64 a t = rd64 a s := by
  unfold rd64; rw [rdW_regs h, rdW_regs h]

end Sys2Proof.Machine
end

