-- ==== Sys2Proof/Laws/State.lean ====
section
/-! SUPPORT. The small laws of State: what each named update leaves of every field that statements speak of, and its own field after it. -/
namespace Sys2Proof.Machine

/-! `wrW` -/
@[simp] theorem wrW_regs (a : Nat) (v : Word) (s : State) : (wrW a v s).regs = alPut (coldVal (canon a)) s.regs (canon a) v := rfl
@[simp] theorem wrW_shadow (a : Nat) (v : Word) (s : State) : (wrW a v s).shadow = s.shadow := rfl
@[simp] theorem wrW_seqs (a : Nat) (v : Word) (s : State) : (wrW a v s).seqs = s.seqs := rfl
@[simp] theorem wrW_spad (a : Nat) (v : Word) (s : State) : (wrW a v s).spad = s.spad := rfl
@[simp] theorem wrW_acc (a : Nat) (v : Word) (s : State) : (wrW a v s).acc = s.acc := rfl
@[simp] theorem wrW_vreg (a : Nat) (v : Word) (s : State) : (wrW a v s).vreg = s.vreg := rfl
@[simp] theorem wrW_bead (a : Nat) (v : Word) (s : State) : (wrW a v s).bead = s.bead := rfl
@[simp] theorem wrW_beads (a : Nat) (v : Word) (s : State) : (wrW a v s).beads = s.beads := rfl
@[simp] theorem wrW_life (a : Nat) (v : Word) (s : State) : (wrW a v s).life = s.life := rfl
@[simp] theorem wrW_out (a : Nat) (v : Word) (s : State) : (wrW a v s).out = s.out := rfl
@[simp] theorem wrW_pending (a : Nat) (v : Word) (s : State) : (wrW a v s).pending = s.pending := rfl
@[simp] theorem wrW_now (a : Nat) (v : Word) (s : State) : (wrW a v s).now = s.now := rfl
@[simp] theorem wrW_freeN (a : Nat) (v : Word) (s : State) : (wrW a v s).freeN = s.freeN := rfl
@[simp] theorem wrW_mgs (a : Nat) (v : Word) (s : State) : (wrW a v s).mgs = s.mgs := rfl
@[simp] theorem wrW_strms (a : Nat) (v : Word) (s : State) : (wrW a v s).strms = s.strms := rfl
@[simp] theorem wrW_kvs (a : Nat) (v : Word) (s : State) : (wrW a v s).kvs = s.kvs := rfl
@[simp] theorem wrW_kvm (a : Nat) (v : Word) (s : State) : (wrW a v s).kvm = s.kvm := rfl
@[simp] theorem wrW_hqs (a : Nat) (v : Word) (s : State) : (wrW a v s).hqs = s.hqs := rfl
@[simp] theorem wrW_fns (a : Nat) (v : Word) (s : State) : (wrW a v s).fns = s.fns := rfl
@[simp] theorem wrW_msix (a : Nat) (v : Word) (s : State) : (wrW a v s).msix = s.msix := rfl
@[simp] theorem wrW_boot (a : Nat) (v : Word) (s : State) : (wrW a v s).boot = s.boot := rfl
@[simp] theorem wrW_tap (a : Nat) (v : Word) (s : State) : (wrW a v s).tap = s.tap := rfl
@[simp] theorem wrW_thm (a : Nat) (v : Word) (s : State) : (wrW a v s).thm = s.thm := rfl
@[simp] theorem wrW_links (a : Nat) (v : Word) (s : State) : (wrW a v s).links = s.links := rfl
@[simp] theorem wrW_ports (a : Nat) (v : Word) (s : State) : (wrW a v s).ports = s.ports := rfl
@[simp] theorem wrW_xlats (a : Nat) (v : Word) (s : State) : (wrW a v s).xlats = s.xlats := rfl
@[simp] theorem wrW_e2e (a : Nat) (v : Word) (s : State) : (wrW a v s).e2e = s.e2e := rfl
@[simp] theorem wrW_held (a : Nat) (v : Word) (s : State) : (wrW a v s).held = s.held := rfl
@[simp] theorem wrW_resvs (a : Nat) (v : Word) (s : State) : (wrW a v s).resvs = s.resvs := rfl
@[simp] theorem wrW_accPar (a : Nat) (v : Word) (s : State) : (wrW a v s).accPar = s.accPar := rfl
@[simp] theorem wrW_hubTlb (a : Nat) (v : Word) (s : State) : (wrW a v s).hubTlb = s.hubTlb := rfl
@[simp] theorem wrW_linkT (a : Nat) (v : Word) (s : State) : (wrW a v s).linkT = s.linkT := rfl
@[simp] theorem wrW_portT (a : Nat) (v : Word) (s : State) : (wrW a v s).portT = s.portT := rfl
@[simp] theorem wrW_reqs (a : Nat) (v : Word) (s : State) : (wrW a v s).reqs = s.reqs := rfl
@[simp] theorem wrW_herdX (a : Nat) (v : Word) (s : State) : (wrW a v s).herdX = s.herdX := rfl
@[simp] theorem wrW_brgs (a : Nat) (v : Word) (s : State) : (wrW a v s).brgs = s.brgs := rfl
@[simp] theorem wrW_rlps (a : Nat) (v : Word) (s : State) : (wrW a v s).rlps = s.rlps := rfl
@[simp] theorem wrW_isls (a : Nat) (v : Word) (s : State) : (wrW a v s).isls = s.isls := rfl
@[simp] theorem wrW_cals (a : Nat) (v : Word) (s : State) : (wrW a v s).cals = s.cals := rfl
@[simp] theorem wrW_pipes (a : Nat) (v : Word) (s : State) : (wrW a v s).pipes = s.pipes := rfl
@[simp] theorem wrW_rlOut (a : Nat) (v : Word) (s : State) : (wrW a v s).rlOut = s.rlOut := rfl
@[simp] theorem wrW_barHeld (a : Nat) (v : Word) (s : State) : (wrW a v s).barHeld = s.barHeld := rfl

/-! `setF` -/
@[simp] theorem setF_shadow (p : Nat) (f : Field) (v : Nat) (s : State) : (setF p f v s).shadow = s.shadow := rfl
@[simp] theorem setF_seqs (p : Nat) (f : Field) (v : Nat) (s : State) : (setF p f v s).seqs = s.seqs := rfl
@[simp] theorem setF_spad (p : Nat) (f : Field) (v : Nat) (s : State) : (setF p f v s).spad = s.spad := rfl
@[simp] theorem setF_acc (p : Nat) (f : Field) (v : Nat) (s : State) : (setF p f v s).acc = s.acc := rfl
@[simp] theorem setF_vreg (p : Nat) (f : Field) (v : Nat) (s : State) : (setF p f v s).vreg = s.vreg := rfl
@[simp] theorem setF_bead (p : Nat) (f : Field) (v : Nat) (s : State) : (setF p f v s).bead = s.bead := rfl
@[simp] theorem setF_beads (p : Nat) (f : Field) (v : Nat) (s : State) : (setF p f v s).beads = s.beads := rfl
@[simp] theorem setF_life (p : Nat) (f : Field) (v : Nat) (s : State) : (setF p f v s).life = s.life := rfl
@[simp] theorem setF_out (p : Nat) (f : Field) (v : Nat) (s : State) : (setF p f v s).out = s.out := rfl
@[simp] theorem setF_pending (p : Nat) (f : Field) (v : Nat) (s : State) : (setF p f v s).pending = s.pending := rfl
@[simp] theorem setF_now (p : Nat) (f : Field) (v : Nat) (s : State) : (setF p f v s).now = s.now := rfl
@[simp] theorem setF_freeN (p : Nat) (f : Field) (v : Nat) (s : State) : (setF p f v s).freeN = s.freeN := rfl
@[simp] theorem setF_mgs (p : Nat) (f : Field) (v : Nat) (s : State) : (setF p f v s).mgs = s.mgs := rfl
@[simp] theorem setF_strms (p : Nat) (f : Field) (v : Nat) (s : State) : (setF p f v s).strms = s.strms := rfl
@[simp] theorem setF_kvs (p : Nat) (f : Field) (v : Nat) (s : State) : (setF p f v s).kvs = s.kvs := rfl
@[simp] theorem setF_kvm (p : Nat) (f : Field) (v : Nat) (s : State) : (setF p f v s).kvm = s.kvm := rfl
@[simp] theorem setF_hqs (p : Nat) (f : Field) (v : Nat) (s : State) : (setF p f v s).hqs = s.hqs := rfl
@[simp] theorem setF_fns (p : Nat) (f : Field) (v : Nat) (s : State) : (setF p f v s).fns = s.fns := rfl
@[simp] theorem setF_msix (p : Nat) (f : Field) (v : Nat) (s : State) : (setF p f v s).msix = s.msix := rfl
@[simp] theorem setF_boot (p : Nat) (f : Field) (v : Nat) (s : State) : (setF p f v s).boot = s.boot := rfl
@[simp] theorem setF_tap (p : Nat) (f : Field) (v : Nat) (s : State) : (setF p f v s).tap = s.tap := rfl
@[simp] theorem setF_thm (p : Nat) (f : Field) (v : Nat) (s : State) : (setF p f v s).thm = s.thm := rfl
@[simp] theorem setF_links (p : Nat) (f : Field) (v : Nat) (s : State) : (setF p f v s).links = s.links := rfl
@[simp] theorem setF_ports (p : Nat) (f : Field) (v : Nat) (s : State) : (setF p f v s).ports = s.ports := rfl
@[simp] theorem setF_xlats (p : Nat) (f : Field) (v : Nat) (s : State) : (setF p f v s).xlats = s.xlats := rfl
@[simp] theorem setF_e2e (p : Nat) (f : Field) (v : Nat) (s : State) : (setF p f v s).e2e = s.e2e := rfl
@[simp] theorem setF_held (p : Nat) (f : Field) (v : Nat) (s : State) : (setF p f v s).held = s.held := rfl
@[simp] theorem setF_resvs (p : Nat) (f : Field) (v : Nat) (s : State) : (setF p f v s).resvs = s.resvs := rfl
@[simp] theorem setF_accPar (p : Nat) (f : Field) (v : Nat) (s : State) : (setF p f v s).accPar = s.accPar := rfl
@[simp] theorem setF_hubTlb (p : Nat) (f : Field) (v : Nat) (s : State) : (setF p f v s).hubTlb = s.hubTlb := rfl
@[simp] theorem setF_linkT (p : Nat) (f : Field) (v : Nat) (s : State) : (setF p f v s).linkT = s.linkT := rfl
@[simp] theorem setF_portT (p : Nat) (f : Field) (v : Nat) (s : State) : (setF p f v s).portT = s.portT := rfl
@[simp] theorem setF_reqs (p : Nat) (f : Field) (v : Nat) (s : State) : (setF p f v s).reqs = s.reqs := rfl
@[simp] theorem setF_herdX (p : Nat) (f : Field) (v : Nat) (s : State) : (setF p f v s).herdX = s.herdX := rfl
@[simp] theorem setF_brgs (p : Nat) (f : Field) (v : Nat) (s : State) : (setF p f v s).brgs = s.brgs := rfl
@[simp] theorem setF_rlps (p : Nat) (f : Field) (v : Nat) (s : State) : (setF p f v s).rlps = s.rlps := rfl
@[simp] theorem setF_isls (p : Nat) (f : Field) (v : Nat) (s : State) : (setF p f v s).isls = s.isls := rfl
@[simp] theorem setF_cals (p : Nat) (f : Field) (v : Nat) (s : State) : (setF p f v s).cals = s.cals := rfl
@[simp] theorem setF_pipes (p : Nat) (f : Field) (v : Nat) (s : State) : (setF p f v s).pipes = s.pipes := rfl
@[simp] theorem setF_rlOut (p : Nat) (f : Field) (v : Nat) (s : State) : (setF p f v s).rlOut = s.rlOut := rfl
@[simp] theorem setF_barHeld (p : Nat) (f : Field) (v : Nat) (s : State) : (setF p f v s).barHeld = s.barHeld := rfl

/-! `wr64` -/
@[simp] theorem wr64_shadow (a v : Nat) (s : State) : (wr64 a v s).shadow = s.shadow := rfl
@[simp] theorem wr64_seqs (a v : Nat) (s : State) : (wr64 a v s).seqs = s.seqs := rfl
@[simp] theorem wr64_spad (a v : Nat) (s : State) : (wr64 a v s).spad = s.spad := rfl
@[simp] theorem wr64_acc (a v : Nat) (s : State) : (wr64 a v s).acc = s.acc := rfl
@[simp] theorem wr64_vreg (a v : Nat) (s : State) : (wr64 a v s).vreg = s.vreg := rfl
@[simp] theorem wr64_bead (a v : Nat) (s : State) : (wr64 a v s).bead = s.bead := rfl
@[simp] theorem wr64_beads (a v : Nat) (s : State) : (wr64 a v s).beads = s.beads := rfl
@[simp] theorem wr64_life (a v : Nat) (s : State) : (wr64 a v s).life = s.life := rfl
@[simp] theorem wr64_out (a v : Nat) (s : State) : (wr64 a v s).out = s.out := rfl
@[simp] theorem wr64_pending (a v : Nat) (s : State) : (wr64 a v s).pending = s.pending := rfl
@[simp] theorem wr64_now (a v : Nat) (s : State) : (wr64 a v s).now = s.now := rfl
@[simp] theorem wr64_freeN (a v : Nat) (s : State) : (wr64 a v s).freeN = s.freeN := rfl
@[simp] theorem wr64_mgs (a v : Nat) (s : State) : (wr64 a v s).mgs = s.mgs := rfl
@[simp] theorem wr64_strms (a v : Nat) (s : State) : (wr64 a v s).strms = s.strms := rfl
@[simp] theorem wr64_kvs (a v : Nat) (s : State) : (wr64 a v s).kvs = s.kvs := rfl
@[simp] theorem wr64_kvm (a v : Nat) (s : State) : (wr64 a v s).kvm = s.kvm := rfl
@[simp] theorem wr64_hqs (a v : Nat) (s : State) : (wr64 a v s).hqs = s.hqs := rfl
@[simp] theorem wr64_fns (a v : Nat) (s : State) : (wr64 a v s).fns = s.fns := rfl
@[simp] theorem wr64_msix (a v : Nat) (s : State) : (wr64 a v s).msix = s.msix := rfl
@[simp] theorem wr64_boot (a v : Nat) (s : State) : (wr64 a v s).boot = s.boot := rfl
@[simp] theorem wr64_tap (a v : Nat) (s : State) : (wr64 a v s).tap = s.tap := rfl
@[simp] theorem wr64_thm (a v : Nat) (s : State) : (wr64 a v s).thm = s.thm := rfl
@[simp] theorem wr64_links (a v : Nat) (s : State) : (wr64 a v s).links = s.links := rfl
@[simp] theorem wr64_ports (a v : Nat) (s : State) : (wr64 a v s).ports = s.ports := rfl
@[simp] theorem wr64_xlats (a v : Nat) (s : State) : (wr64 a v s).xlats = s.xlats := rfl
@[simp] theorem wr64_e2e (a v : Nat) (s : State) : (wr64 a v s).e2e = s.e2e := rfl
@[simp] theorem wr64_held (a v : Nat) (s : State) : (wr64 a v s).held = s.held := rfl
@[simp] theorem wr64_resvs (a v : Nat) (s : State) : (wr64 a v s).resvs = s.resvs := rfl
@[simp] theorem wr64_accPar (a v : Nat) (s : State) : (wr64 a v s).accPar = s.accPar := rfl
@[simp] theorem wr64_hubTlb (a v : Nat) (s : State) : (wr64 a v s).hubTlb = s.hubTlb := rfl
@[simp] theorem wr64_linkT (a v : Nat) (s : State) : (wr64 a v s).linkT = s.linkT := rfl
@[simp] theorem wr64_portT (a v : Nat) (s : State) : (wr64 a v s).portT = s.portT := rfl
@[simp] theorem wr64_reqs (a v : Nat) (s : State) : (wr64 a v s).reqs = s.reqs := rfl
@[simp] theorem wr64_herdX (a v : Nat) (s : State) : (wr64 a v s).herdX = s.herdX := rfl
@[simp] theorem wr64_brgs (a v : Nat) (s : State) : (wr64 a v s).brgs = s.brgs := rfl
@[simp] theorem wr64_rlps (a v : Nat) (s : State) : (wr64 a v s).rlps = s.rlps := rfl
@[simp] theorem wr64_isls (a v : Nat) (s : State) : (wr64 a v s).isls = s.isls := rfl
@[simp] theorem wr64_cals (a v : Nat) (s : State) : (wr64 a v s).cals = s.cals := rfl
@[simp] theorem wr64_pipes (a v : Nat) (s : State) : (wr64 a v s).pipes = s.pipes := rfl
@[simp] theorem wr64_rlOut (a v : Nat) (s : State) : (wr64 a v s).rlOut = s.rlOut := rfl
@[simp] theorem wr64_barHeld (a v : Nat) (s : State) : (wr64 a v s).barHeld = s.barHeld := rfl

/-! `bump` -/
@[simp] theorem bump_shadow (p : Nat) (f : Field) (n : Nat) (s : State) : (bump p f n s).shadow = s.shadow := setF_shadow _ _ _ _
@[simp] theorem bump_seqs (p : Nat) (f : Field) (n : Nat) (s : State) : (bump p f n s).seqs = s.seqs := setF_seqs _ _ _ _
@[simp] theorem bump_spad (p : Nat) (f : Field) (n : Nat) (s : State) : (bump p f n s).spad = s.spad := setF_spad _ _ _ _
@[simp] theorem bump_acc (p : Nat) (f : Field) (n : Nat) (s : State) : (bump p f n s).acc = s.acc := setF_acc _ _ _ _
@[simp] theorem bump_vreg (p : Nat) (f : Field) (n : Nat) (s : State) : (bump p f n s).vreg = s.vreg := setF_vreg _ _ _ _
@[simp] theorem bump_bead (p : Nat) (f : Field) (n : Nat) (s : State) : (bump p f n s).bead = s.bead := setF_bead _ _ _ _
@[simp] theorem bump_beads (p : Nat) (f : Field) (n : Nat) (s : State) : (bump p f n s).beads = s.beads := setF_beads _ _ _ _
@[simp] theorem bump_life (p : Nat) (f : Field) (n : Nat) (s : State) : (bump p f n s).life = s.life := setF_life _ _ _ _
@[simp] theorem bump_out (p : Nat) (f : Field) (n : Nat) (s : State) : (bump p f n s).out = s.out := setF_out _ _ _ _
@[simp] theorem bump_pending (p : Nat) (f : Field) (n : Nat) (s : State) : (bump p f n s).pending = s.pending := setF_pending _ _ _ _
@[simp] theorem bump_now (p : Nat) (f : Field) (n : Nat) (s : State) : (bump p f n s).now = s.now := setF_now _ _ _ _
@[simp] theorem bump_freeN (p : Nat) (f : Field) (n : Nat) (s : State) : (bump p f n s).freeN = s.freeN := setF_freeN _ _ _ _
@[simp] theorem bump_mgs (p : Nat) (f : Field) (n : Nat) (s : State) : (bump p f n s).mgs = s.mgs := setF_mgs _ _ _ _
@[simp] theorem bump_strms (p : Nat) (f : Field) (n : Nat) (s : State) : (bump p f n s).strms = s.strms := setF_strms _ _ _ _
@[simp] theorem bump_kvs (p : Nat) (f : Field) (n : Nat) (s : State) : (bump p f n s).kvs = s.kvs := setF_kvs _ _ _ _
@[simp] theorem bump_kvm (p : Nat) (f : Field) (n : Nat) (s : State) : (bump p f n s).kvm = s.kvm := setF_kvm _ _ _ _
@[simp] theorem bump_hqs (p : Nat) (f : Field) (n : Nat) (s : State) : (bump p f n s).hqs = s.hqs := setF_hqs _ _ _ _
@[simp] theorem bump_fns (p : Nat) (f : Field) (n : Nat) (s : State) : (bump p f n s).fns = s.fns := setF_fns _ _ _ _
@[simp] theorem bump_msix (p : Nat) (f : Field) (n : Nat) (s : State) : (bump p f n s).msix = s.msix := setF_msix _ _ _ _
@[simp] theorem bump_boot (p : Nat) (f : Field) (n : Nat) (s : State) : (bump p f n s).boot = s.boot := setF_boot _ _ _ _
@[simp] theorem bump_tap (p : Nat) (f : Field) (n : Nat) (s : State) : (bump p f n s).tap = s.tap := setF_tap _ _ _ _
@[simp] theorem bump_thm (p : Nat) (f : Field) (n : Nat) (s : State) : (bump p f n s).thm = s.thm := setF_thm _ _ _ _
@[simp] theorem bump_links (p : Nat) (f : Field) (n : Nat) (s : State) : (bump p f n s).links = s.links := setF_links _ _ _ _
@[simp] theorem bump_ports (p : Nat) (f : Field) (n : Nat) (s : State) : (bump p f n s).ports = s.ports := setF_ports _ _ _ _
@[simp] theorem bump_xlats (p : Nat) (f : Field) (n : Nat) (s : State) : (bump p f n s).xlats = s.xlats := setF_xlats _ _ _ _
@[simp] theorem bump_e2e (p : Nat) (f : Field) (n : Nat) (s : State) : (bump p f n s).e2e = s.e2e := setF_e2e _ _ _ _
@[simp] theorem bump_held (p : Nat) (f : Field) (n : Nat) (s : State) : (bump p f n s).held = s.held := setF_held _ _ _ _
@[simp] theorem bump_resvs (p : Nat) (f : Field) (n : Nat) (s : State) : (bump p f n s).resvs = s.resvs := setF_resvs _ _ _ _

/-! `bump64` -/
@[simp] theorem bump64_shadow (a n : Nat) (s : State) : (bump64 a n s).shadow = s.shadow := wr64_shadow _ _ _
@[simp] theorem bump64_seqs (a n : Nat) (s : State) : (bump64 a n s).seqs = s.seqs := wr64_seqs _ _ _
@[simp] theorem bump64_spad (a n : Nat) (s : State) : (bump64 a n s).spad = s.spad := wr64_spad _ _ _
@[simp] theorem bump64_acc (a n : Nat) (s : State) : (bump64 a n s).acc = s.acc := wr64_acc _ _ _
@[simp] theorem bump64_vreg (a n : Nat) (s : State) : (bump64 a n s).vreg = s.vreg := wr64_vreg _ _ _
@[simp] theorem bump64_bead (a n : Nat) (s : State) : (bump64 a n s).bead = s.bead := wr64_bead _ _ _
@[simp] theorem bump64_beads (a n : Nat) (s : State) : (bump64 a n s).beads = s.beads := wr64_beads _ _ _
@[simp] theorem bump64_life (a n : Nat) (s : State) : (bump64 a n s).life = s.life := wr64_life _ _ _
@[simp] theorem bump64_out (a n : Nat) (s : State) : (bump64 a n s).out = s.out := wr64_out _ _ _
@[simp] theorem bump64_pending (a n : Nat) (s : State) : (bump64 a n s).pending = s.pending := wr64_pending _ _ _
@[simp] theorem bump64_now (a n : Nat) (s : State) : (bump64 a n s).now = s.now := wr64_now _ _ _
@[simp] theorem bump64_freeN (a n : Nat) (s : State) : (bump64 a n s).freeN = s.freeN := wr64_freeN _ _ _
@[simp] theorem bump64_mgs (a n : Nat) (s : State) : (bump64 a n s).mgs = s.mgs := wr64_mgs _ _ _
@[simp] theorem bump64_strms (a n : Nat) (s : State) : (bump64 a n s).strms = s.strms := wr64_strms _ _ _
@[simp] theorem bump64_kvs (a n : Nat) (s : State) : (bump64 a n s).kvs = s.kvs := wr64_kvs _ _ _
@[simp] theorem bump64_kvm (a n : Nat) (s : State) : (bump64 a n s).kvm = s.kvm := wr64_kvm _ _ _
@[simp] theorem bump64_hqs (a n : Nat) (s : State) : (bump64 a n s).hqs = s.hqs := wr64_hqs _ _ _
@[simp] theorem bump64_fns (a n : Nat) (s : State) : (bump64 a n s).fns = s.fns := wr64_fns _ _ _
@[simp] theorem bump64_msix (a n : Nat) (s : State) : (bump64 a n s).msix = s.msix := wr64_msix _ _ _
@[simp] theorem bump64_boot (a n : Nat) (s : State) : (bump64 a n s).boot = s.boot := wr64_boot _ _ _
@[simp] theorem bump64_tap (a n : Nat) (s : State) : (bump64 a n s).tap = s.tap := wr64_tap _ _ _
@[simp] theorem bump64_thm (a n : Nat) (s : State) : (bump64 a n s).thm = s.thm := wr64_thm _ _ _
@[simp] theorem bump64_links (a n : Nat) (s : State) : (bump64 a n s).links = s.links := wr64_links _ _ _
@[simp] theorem bump64_ports (a n : Nat) (s : State) : (bump64 a n s).ports = s.ports := wr64_ports _ _ _
@[simp] theorem bump64_xlats (a n : Nat) (s : State) : (bump64 a n s).xlats = s.xlats := wr64_xlats _ _ _
@[simp] theorem bump64_e2e (a n : Nat) (s : State) : (bump64 a n s).e2e = s.e2e := wr64_e2e _ _ _
@[simp] theorem bump64_held (a n : Nat) (s : State) : (bump64 a n s).held = s.held := wr64_held _ _ _
@[simp] theorem bump64_resvs (a n : Nat) (s : State) : (bump64 a n s).resvs = s.resvs := wr64_resvs _ _ _

/-! `emit` -/
@[simp] theorem emit_regs (o : Out) (s : State) : (emit o s).regs = s.regs := rfl
@[simp] theorem emit_shadow (o : Out) (s : State) : (emit o s).shadow = s.shadow := rfl
@[simp] theorem emit_seqs (o : Out) (s : State) : (emit o s).seqs = s.seqs := rfl
@[simp] theorem emit_spad (o : Out) (s : State) : (emit o s).spad = s.spad := rfl
@[simp] theorem emit_acc (o : Out) (s : State) : (emit o s).acc = s.acc := rfl
@[simp] theorem emit_vreg (o : Out) (s : State) : (emit o s).vreg = s.vreg := rfl
@[simp] theorem emit_bead (o : Out) (s : State) : (emit o s).bead = s.bead := rfl
@[simp] theorem emit_beads (o : Out) (s : State) : (emit o s).beads = s.beads := rfl
@[simp] theorem emit_life (o : Out) (s : State) : (emit o s).life = s.life := rfl
@[simp] theorem emit_out (o : Out) (s : State) : (emit o s).out = s.out ++ [o] := rfl
@[simp] theorem emit_pending (o : Out) (s : State) : (emit o s).pending = s.pending := rfl
@[simp] theorem emit_now (o : Out) (s : State) : (emit o s).now = s.now := rfl
@[simp] theorem emit_freeN (o : Out) (s : State) : (emit o s).freeN = s.freeN := rfl
@[simp] theorem emit_mgs (o : Out) (s : State) : (emit o s).mgs = s.mgs := rfl
@[simp] theorem emit_strms (o : Out) (s : State) : (emit o s).strms = s.strms := rfl
@[simp] theorem emit_kvs (o : Out) (s : State) : (emit o s).kvs = s.kvs := rfl
@[simp] theorem emit_kvm (o : Out) (s : State) : (emit o s).kvm = s.kvm := rfl
@[simp] theorem emit_hqs (o : Out) (s : State) : (emit o s).hqs = s.hqs := rfl
@[simp] theorem emit_fns (o : Out) (s : State) : (emit o s).fns = s.fns := rfl
@[simp] theorem emit_msix (o : Out) (s : State) : (emit o s).msix = s.msix := rfl
@[simp] theorem emit_boot (o : Out) (s : State) : (emit o s).boot = s.boot := rfl
@[simp] theorem emit_tap (o : Out) (s : State) : (emit o s).tap = s.tap := rfl
@[simp] theorem emit_thm (o : Out) (s : State) : (emit o s).thm = s.thm := rfl
@[simp] theorem emit_links (o : Out) (s : State) : (emit o s).links = s.links := rfl
@[simp] theorem emit_ports (o : Out) (s : State) : (emit o s).ports = s.ports := rfl
@[simp] theorem emit_xlats (o : Out) (s : State) : (emit o s).xlats = s.xlats := rfl
@[simp] theorem emit_e2e (o : Out) (s : State) : (emit o s).e2e = s.e2e := rfl
@[simp] theorem emit_held (o : Out) (s : State) : (emit o s).held = s.held := rfl
@[simp] theorem emit_resvs (o : Out) (s : State) : (emit o s).resvs = s.resvs := rfl
@[simp] theorem emit_accPar (o : Out) (s : State) : (emit o s).accPar = s.accPar := rfl
@[simp] theorem emit_hubTlb (o : Out) (s : State) : (emit o s).hubTlb = s.hubTlb := rfl
@[simp] theorem emit_linkT (o : Out) (s : State) : (emit o s).linkT = s.linkT := rfl
@[simp] theorem emit_portT (o : Out) (s : State) : (emit o s).portT = s.portT := rfl
@[simp] theorem emit_reqs (o : Out) (s : State) : (emit o s).reqs = s.reqs := rfl
@[simp] theorem emit_herdX (o : Out) (s : State) : (emit o s).herdX = s.herdX := rfl
@[simp] theorem emit_brgs (o : Out) (s : State) : (emit o s).brgs = s.brgs := rfl
@[simp] theorem emit_rlps (o : Out) (s : State) : (emit o s).rlps = s.rlps := rfl
@[simp] theorem emit_isls (o : Out) (s : State) : (emit o s).isls = s.isls := rfl
@[simp] theorem emit_cals (o : Out) (s : State) : (emit o s).cals = s.cals := rfl
@[simp] theorem emit_pipes (o : Out) (s : State) : (emit o s).pipes = s.pipes := rfl
@[simp] theorem emit_rlOut (o : Out) (s : State) : (emit o s).rlOut = s.rlOut := rfl
@[simp] theorem emit_barHeld (o : Out) (s : State) : (emit o s).barHeld = s.barHeld := rfl

/-! `setFn` -/
@[simp] theorem setFn_regs (f : Nat) (v : Fn) (s : State) : (setFn f v s).regs = s.regs := rfl
@[simp] theorem setFn_shadow (f : Nat) (v : Fn) (s : State) : (setFn f v s).shadow = s.shadow := rfl
@[simp] theorem setFn_seqs (f : Nat) (v : Fn) (s : State) : (setFn f v s).seqs = s.seqs := rfl
@[simp] theorem setFn_spad (f : Nat) (v : Fn) (s : State) : (setFn f v s).spad = s.spad := rfl
@[simp] theorem setFn_acc (f : Nat) (v : Fn) (s : State) : (setFn f v s).acc = s.acc := rfl
@[simp] theorem setFn_vreg (f : Nat) (v : Fn) (s : State) : (setFn f v s).vreg = s.vreg := rfl
@[simp] theorem setFn_bead (f : Nat) (v : Fn) (s : State) : (setFn f v s).bead = s.bead := rfl
@[simp] theorem setFn_beads (f : Nat) (v : Fn) (s : State) : (setFn f v s).beads = s.beads := rfl
@[simp] theorem setFn_life (f : Nat) (v : Fn) (s : State) : (setFn f v s).life = s.life := rfl
@[simp] theorem setFn_out (f : Nat) (v : Fn) (s : State) : (setFn f v s).out = s.out := rfl
@[simp] theorem setFn_pending (f : Nat) (v : Fn) (s : State) : (setFn f v s).pending = s.pending := rfl
@[simp] theorem setFn_now (f : Nat) (v : Fn) (s : State) : (setFn f v s).now = s.now := rfl
@[simp] theorem setFn_freeN (f : Nat) (v : Fn) (s : State) : (setFn f v s).freeN = s.freeN := rfl
@[simp] theorem setFn_mgs (f : Nat) (v : Fn) (s : State) : (setFn f v s).mgs = s.mgs := rfl
@[simp] theorem setFn_strms (f : Nat) (v : Fn) (s : State) : (setFn f v s).strms = s.strms := rfl
@[simp] theorem setFn_kvs (f : Nat) (v : Fn) (s : State) : (setFn f v s).kvs = s.kvs := rfl
@[simp] theorem setFn_kvm (f : Nat) (v : Fn) (s : State) : (setFn f v s).kvm = s.kvm := rfl
@[simp] theorem setFn_hqs (f : Nat) (v : Fn) (s : State) : (setFn f v s).hqs = s.hqs := rfl
@[simp] theorem setFn_fns (f : Nat) (v : Fn) (s : State) : (setFn f v s).fns = alSet s.fns f v := rfl
@[simp] theorem setFn_msix (f : Nat) (v : Fn) (s : State) : (setFn f v s).msix = s.msix := rfl
@[simp] theorem setFn_boot (f : Nat) (v : Fn) (s : State) : (setFn f v s).boot = s.boot := rfl
@[simp] theorem setFn_tap (f : Nat) (v : Fn) (s : State) : (setFn f v s).tap = s.tap := rfl
@[simp] theorem setFn_thm (f : Nat) (v : Fn) (s : State) : (setFn f v s).thm = s.thm := rfl
@[simp] theorem setFn_links (f : Nat) (v : Fn) (s : State) : (setFn f v s).links = s.links := rfl
@[simp] theorem setFn_ports (f : Nat) (v : Fn) (s : State) : (setFn f v s).ports = s.ports := rfl
@[simp] theorem setFn_xlats (f : Nat) (v : Fn) (s : State) : (setFn f v s).xlats = s.xlats := rfl
@[simp] theorem setFn_e2e (f : Nat) (v : Fn) (s : State) : (setFn f v s).e2e = s.e2e := rfl
@[simp] theorem setFn_held (f : Nat) (v : Fn) (s : State) : (setFn f v s).held = s.held := rfl
@[simp] theorem setFn_resvs (f : Nat) (v : Fn) (s : State) : (setFn f v s).resvs = s.resvs := rfl
@[simp] theorem setFn_accPar (f : Nat) (v : Fn) (s : State) : (setFn f v s).accPar = s.accPar := rfl
@[simp] theorem setFn_hubTlb (f : Nat) (v : Fn) (s : State) : (setFn f v s).hubTlb = s.hubTlb := rfl
@[simp] theorem setFn_linkT (f : Nat) (v : Fn) (s : State) : (setFn f v s).linkT = s.linkT := rfl
@[simp] theorem setFn_portT (f : Nat) (v : Fn) (s : State) : (setFn f v s).portT = s.portT := rfl
@[simp] theorem setFn_reqs (f : Nat) (v : Fn) (s : State) : (setFn f v s).reqs = s.reqs := rfl
@[simp] theorem setFn_herdX (f : Nat) (v : Fn) (s : State) : (setFn f v s).herdX = s.herdX := rfl
@[simp] theorem setFn_brgs (f : Nat) (v : Fn) (s : State) : (setFn f v s).brgs = s.brgs := rfl
@[simp] theorem setFn_rlps (f : Nat) (v : Fn) (s : State) : (setFn f v s).rlps = s.rlps := rfl
@[simp] theorem setFn_isls (f : Nat) (v : Fn) (s : State) : (setFn f v s).isls = s.isls := rfl
@[simp] theorem setFn_cals (f : Nat) (v : Fn) (s : State) : (setFn f v s).cals = s.cals := rfl
@[simp] theorem setFn_pipes (f : Nat) (v : Fn) (s : State) : (setFn f v s).pipes = s.pipes := rfl
@[simp] theorem setFn_rlOut (f : Nat) (v : Fn) (s : State) : (setFn f v s).rlOut = s.rlOut := rfl
@[simp] theorem setFn_barHeld (f : Nat) (v : Fn) (s : State) : (setFn f v s).barHeld = s.barHeld := rfl

/-! `setMsix` -/
@[simp] theorem setMsix_regs (f e : Nat) (m : Msix) (s : State) : (setMsix f e m s).regs = s.regs := rfl
@[simp] theorem setMsix_shadow (f e : Nat) (m : Msix) (s : State) : (setMsix f e m s).shadow = s.shadow := rfl
@[simp] theorem setMsix_seqs (f e : Nat) (m : Msix) (s : State) : (setMsix f e m s).seqs = s.seqs := rfl
@[simp] theorem setMsix_spad (f e : Nat) (m : Msix) (s : State) : (setMsix f e m s).spad = s.spad := rfl
@[simp] theorem setMsix_acc (f e : Nat) (m : Msix) (s : State) : (setMsix f e m s).acc = s.acc := rfl
@[simp] theorem setMsix_vreg (f e : Nat) (m : Msix) (s : State) : (setMsix f e m s).vreg = s.vreg := rfl
@[simp] theorem setMsix_bead (f e : Nat) (m : Msix) (s : State) : (setMsix f e m s).bead = s.bead := rfl
@[simp] theorem setMsix_beads (f e : Nat) (m : Msix) (s : State) : (setMsix f e m s).beads = s.beads := rfl
@[simp] theorem setMsix_life (f e : Nat) (m : Msix) (s : State) : (setMsix f e m s).life = s.life := rfl
@[simp] theorem setMsix_out (f e : Nat) (m : Msix) (s : State) : (setMsix f e m s).out = s.out := rfl
@[simp] theorem setMsix_pending (f e : Nat) (m : Msix) (s : State) : (setMsix f e m s).pending = s.pending := rfl
@[simp] theorem setMsix_now (f e : Nat) (m : Msix) (s : State) : (setMsix f e m s).now = s.now := rfl
@[simp] theorem setMsix_freeN (f e : Nat) (m : Msix) (s : State) : (setMsix f e m s).freeN = s.freeN := rfl
@[simp] theorem setMsix_mgs (f e : Nat) (m : Msix) (s : State) : (setMsix f e m s).mgs = s.mgs := rfl
@[simp] theorem setMsix_strms (f e : Nat) (m : Msix) (s : State) : (setMsix f e m s).strms = s.strms := rfl
@[simp] theorem setMsix_kvs (f e : Nat) (m : Msix) (s : State) : (setMsix f e m s).kvs = s.kvs := rfl
@[simp] theorem setMsix_kvm (f e : Nat) (m : Msix) (s : State) : (setMsix f e m s).kvm = s.kvm := rfl
@[simp] theorem setMsix_hqs (f e : Nat) (m : Msix) (s : State) : (setMsix f e m s).hqs = s.hqs := rfl
@[simp] theorem setMsix_fns (f e : Nat) (m : Msix) (s : State) : (setMsix f e m s).fns = s.fns := rfl
@[simp] theorem setMsix_msix (f e : Nat) (m : Msix) (s : State) : (setMsix f e m s).msix = alSet s.msix (f * 2048 + e) m := rfl
@[simp] theorem setMsix_boot (f e : Nat) (m : Msix) (s : State) : (setMsix f e m s).boot = s.boot := rfl
@[simp] theorem setMsix_tap (f e : Nat) (m : Msix) (s : State) : (setMsix f e m s).tap = s.tap := rfl
@[simp] theorem setMsix_thm (f e : Nat) (m : Msix) (s : State) : (setMsix f e m s).thm = s.thm := rfl
@[simp] theorem setMsix_links (f e : Nat) (m : Msix) (s : State) : (setMsix f e m s).links = s.links := rfl
@[simp] theorem setMsix_ports (f e : Nat) (m : Msix) (s : State) : (setMsix f e m s).ports = s.ports := rfl
@[simp] theorem setMsix_xlats (f e : Nat) (m : Msix) (s : State) : (setMsix f e m s).xlats = s.xlats := rfl
@[simp] theorem setMsix_e2e (f e : Nat) (m : Msix) (s : State) : (setMsix f e m s).e2e = s.e2e := rfl
@[simp] theorem setMsix_held (f e : Nat) (m : Msix) (s : State) : (setMsix f e m s).held = s.held := rfl
@[simp] theorem setMsix_resvs (f e : Nat) (m : Msix) (s : State) : (setMsix f e m s).resvs = s.resvs := rfl
@[simp] theorem setMsix_accPar (f e : Nat) (m : Msix) (s : State) : (setMsix f e m s).accPar = s.accPar := rfl
@[simp] theorem setMsix_hubTlb (f e : Nat) (m : Msix) (s : State) : (setMsix f e m s).hubTlb = s.hubTlb := rfl
@[simp] theorem setMsix_linkT (f e : Nat) (m : Msix) (s : State) : (setMsix f e m s).linkT = s.linkT := rfl
@[simp] theorem setMsix_portT (f e : Nat) (m : Msix) (s : State) : (setMsix f e m s).portT = s.portT := rfl
@[simp] theorem setMsix_reqs (f e : Nat) (m : Msix) (s : State) : (setMsix f e m s).reqs = s.reqs := rfl
@[simp] theorem setMsix_herdX (f e : Nat) (m : Msix) (s : State) : (setMsix f e m s).herdX = s.herdX := rfl
@[simp] theorem setMsix_brgs (f e : Nat) (m : Msix) (s : State) : (setMsix f e m s).brgs = s.brgs := rfl
@[simp] theorem setMsix_rlps (f e : Nat) (m : Msix) (s : State) : (setMsix f e m s).rlps = s.rlps := rfl
@[simp] theorem setMsix_isls (f e : Nat) (m : Msix) (s : State) : (setMsix f e m s).isls = s.isls := rfl
@[simp] theorem setMsix_cals (f e : Nat) (m : Msix) (s : State) : (setMsix f e m s).cals = s.cals := rfl
@[simp] theorem setMsix_pipes (f e : Nat) (m : Msix) (s : State) : (setMsix f e m s).pipes = s.pipes := rfl
@[simp] theorem setMsix_rlOut (f e : Nat) (m : Msix) (s : State) : (setMsix f e m s).rlOut = s.rlOut := rfl
@[simp] theorem setMsix_barHeld (f e : Nat) (m : Msix) (s : State) : (setMsix f e m s).barHeld = s.barHeld := rfl

/-! `setSeq` -/
@[simp] theorem setSeq_regs (i : Nat) (v : SeqSt) (s : State) : (setSeq i v s).regs = s.regs := rfl
@[simp] theorem setSeq_shadow (i : Nat) (v : SeqSt) (s : State) : (setSeq i v s).shadow = s.shadow := rfl
@[simp] theorem setSeq_seqs (i : Nat) (v : SeqSt) (s : State) : (setSeq i v s).seqs = alSet s.seqs i v := rfl
@[simp] theorem setSeq_spad (i : Nat) (v : SeqSt) (s : State) : (setSeq i v s).spad = s.spad := rfl
@[simp] theorem setSeq_acc (i : Nat) (v : SeqSt) (s : State) : (setSeq i v s).acc = s.acc := rfl
@[simp] theorem setSeq_vreg (i : Nat) (v : SeqSt) (s : State) : (setSeq i v s).vreg = s.vreg := rfl
@[simp] theorem setSeq_bead (i : Nat) (v : SeqSt) (s : State) : (setSeq i v s).bead = s.bead := rfl
@[simp] theorem setSeq_beads (i : Nat) (v : SeqSt) (s : State) : (setSeq i v s).beads = s.beads := rfl
@[simp] theorem setSeq_life (i : Nat) (v : SeqSt) (s : State) : (setSeq i v s).life = s.life := rfl
@[simp] theorem setSeq_out (i : Nat) (v : SeqSt) (s : State) : (setSeq i v s).out = s.out := rfl
@[simp] theorem setSeq_pending (i : Nat) (v : SeqSt) (s : State) : (setSeq i v s).pending = s.pending := rfl
@[simp] theorem setSeq_now (i : Nat) (v : SeqSt) (s : State) : (setSeq i v s).now = s.now := rfl
@[simp] theorem setSeq_freeN (i : Nat) (v : SeqSt) (s : State) : (setSeq i v s).freeN = s.freeN := rfl
@[simp] theorem setSeq_mgs (i : Nat) (v : SeqSt) (s : State) : (setSeq i v s).mgs = s.mgs := rfl
@[simp] theorem setSeq_strms (i : Nat) (v : SeqSt) (s : State) : (setSeq i v s).strms = s.strms := rfl
@[simp] theorem setSeq_kvs (i : Nat) (v : SeqSt) (s : State) : (setSeq i v s).kvs = s.kvs := rfl
@[simp] theorem setSeq_kvm (i : Nat) (v : SeqSt) (s : State) : (setSeq i v s).kvm = s.kvm := rfl
@[simp] theorem setSeq_hqs (i : Nat) (v : SeqSt) (s : State) : (setSeq i v s).hqs = s.hqs := rfl
@[simp] theorem setSeq_fns (i : Nat) (v : SeqSt) (s : State) : (setSeq i v s).fns = s.fns := rfl
@[simp] theorem setSeq_msix (i : Nat) (v : SeqSt) (s : State) : (setSeq i v s).msix = s.msix := rfl
@[simp] theorem setSeq_boot (i : Nat) (v : SeqSt) (s : State) : (setSeq i v s).boot = s.boot := rfl
@[simp] theorem setSeq_tap (i : Nat) (v : SeqSt) (s : State) : (setSeq i v s).tap = s.tap := rfl
@[simp] theorem setSeq_thm (i : Nat) (v : SeqSt) (s : State) : (setSeq i v s).thm = s.thm := rfl
@[simp] theorem setSeq_links (i : Nat) (v : SeqSt) (s : State) : (setSeq i v s).links = s.links := rfl
@[simp] theorem setSeq_ports (i : Nat) (v : SeqSt) (s : State) : (setSeq i v s).ports = s.ports := rfl
@[simp] theorem setSeq_xlats (i : Nat) (v : SeqSt) (s : State) : (setSeq i v s).xlats = s.xlats := rfl
@[simp] theorem setSeq_e2e (i : Nat) (v : SeqSt) (s : State) : (setSeq i v s).e2e = s.e2e := rfl
@[simp] theorem setSeq_held (i : Nat) (v : SeqSt) (s : State) : (setSeq i v s).held = s.held := rfl
@[simp] theorem setSeq_resvs (i : Nat) (v : SeqSt) (s : State) : (setSeq i v s).resvs = s.resvs := rfl
@[simp] theorem setSeq_accPar (i : Nat) (v : SeqSt) (s : State) : (setSeq i v s).accPar = s.accPar := rfl
@[simp] theorem setSeq_hubTlb (i : Nat) (v : SeqSt) (s : State) : (setSeq i v s).hubTlb = s.hubTlb := rfl
@[simp] theorem setSeq_linkT (i : Nat) (v : SeqSt) (s : State) : (setSeq i v s).linkT = s.linkT := rfl
@[simp] theorem setSeq_portT (i : Nat) (v : SeqSt) (s : State) : (setSeq i v s).portT = s.portT := rfl
@[simp] theorem setSeq_reqs (i : Nat) (v : SeqSt) (s : State) : (setSeq i v s).reqs = s.reqs := rfl
@[simp] theorem setSeq_herdX (i : Nat) (v : SeqSt) (s : State) : (setSeq i v s).herdX = s.herdX := rfl
@[simp] theorem setSeq_brgs (i : Nat) (v : SeqSt) (s : State) : (setSeq i v s).brgs = s.brgs := rfl
@[simp] theorem setSeq_rlps (i : Nat) (v : SeqSt) (s : State) : (setSeq i v s).rlps = s.rlps := rfl
@[simp] theorem setSeq_isls (i : Nat) (v : SeqSt) (s : State) : (setSeq i v s).isls = s.isls := rfl
@[simp] theorem setSeq_cals (i : Nat) (v : SeqSt) (s : State) : (setSeq i v s).cals = s.cals := rfl
@[simp] theorem setSeq_pipes (i : Nat) (v : SeqSt) (s : State) : (setSeq i v s).pipes = s.pipes := rfl
@[simp] theorem setSeq_rlOut (i : Nat) (v : SeqSt) (s : State) : (setSeq i v s).rlOut = s.rlOut := rfl
@[simp] theorem setSeq_barHeld (i : Nat) (v : SeqSt) (s : State) : (setSeq i v s).barHeld = s.barHeld := rfl

/-! `updStarted` -/
@[simp] theorem updStarted_regs (i n : Nat) (f : Started → Started) (s : State) : (updStarted i n f s).regs = s.regs := rfl
@[simp] theorem updStarted_shadow (i n : Nat) (f : Started → Started) (s : State) : (updStarted i n f s).shadow = s.shadow := rfl
@[simp] theorem updStarted_spad (i n : Nat) (f : Started → Started) (s : State) : (updStarted i n f s).spad = s.spad := rfl
@[simp] theorem updStarted_acc (i n : Nat) (f : Started → Started) (s : State) : (updStarted i n f s).acc = s.acc := rfl
@[simp] theorem updStarted_vreg (i n : Nat) (f : Started → Started) (s : State) : (updStarted i n f s).vreg = s.vreg := rfl
@[simp] theorem updStarted_bead (i n : Nat) (f : Started → Started) (s : State) : (updStarted i n f s).bead = s.bead := rfl
@[simp] theorem updStarted_beads (i n : Nat) (f : Started → Started) (s : State) : (updStarted i n f s).beads = s.beads := rfl
@[simp] theorem updStarted_life (i n : Nat) (f : Started → Started) (s : State) : (updStarted i n f s).life = s.life := rfl
@[simp] theorem updStarted_out (i n : Nat) (f : Started → Started) (s : State) : (updStarted i n f s).out = s.out := rfl
@[simp] theorem updStarted_pending (i n : Nat) (f : Started → Started) (s : State) : (updStarted i n f s).pending = s.pending := rfl
@[simp] theorem updStarted_now (i n : Nat) (f : Started → Started) (s : State) : (updStarted i n f s).now = s.now := rfl
@[simp] theorem updStarted_freeN (i n : Nat) (f : Started → Started) (s : State) : (updStarted i n f s).freeN = s.freeN := rfl
@[simp] theorem updStarted_mgs (i n : Nat) (f : Started → Started) (s : State) : (updStarted i n f s).mgs = s.mgs := rfl
@[simp] theorem updStarted_strms (i n : Nat) (f : Started → Started) (s : State) : (updStarted i n f s).strms = s.strms := rfl
@[simp] theorem updStarted_kvs (i n : Nat) (f : Started → Started) (s : State) : (updStarted i n f s).kvs = s.kvs := rfl
@[simp] theorem updStarted_kvm (i n : Nat) (f : Started → Started) (s : State) : (updStarted i n f s).kvm = s.kvm := rfl
@[simp] theorem updStarted_hqs (i n : Nat) (f : Started → Started) (s : State) : (updStarted i n f s).hqs = s.hqs := rfl
@[simp] theorem updStarted_fns (i n : Nat) (f : Started → Started) (s : State) : (updStarted i n f s).fns = s.fns := rfl
@[simp] theorem updStarted_msix (i n : Nat) (f : Started → Started) (s : State) : (updStarted i n f s).msix = s.msix := rfl
@[simp] theorem updStarted_boot (i n : Nat) (f : Started → Started) (s : State) : (updStarted i n f s).boot = s.boot := rfl
@[simp] theorem updStarted_tap (i n : Nat) (f : Started → Started) (s : State) : (updStarted i n f s).tap = s.tap := rfl
@[simp] theorem updStarted_thm (i n : Nat) (f : Started → Started) (s : State) : (updStarted i n f s).thm = s.thm := rfl
@[simp] theorem updStarted_links (i n : Nat) (f : Started → Started) (s : State) : (updStarted i n f s).links = s.links := rfl
@[simp] theorem updStarted_ports (i n : Nat) (f : Started → Started) (s : State) : (updStarted i n f s).ports = s.ports := rfl
@[simp] theorem updStarted_xlats (i n : Nat) (f : Started → Started) (s : State) : (updStarted i n f s).xlats = s.xlats := rfl
@[simp] theorem updStarted_e2e (i n : Nat) (f : Started → Started) (s : State) : (updStarted i n f s).e2e = s.e2e := rfl
@[simp] theorem updStarted_held (i n : Nat) (f : Started → Started) (s : State) : (updStarted i n f s).held = s.held := rfl
@[simp] theorem updStarted_resvs (i n : Nat) (f : Started → Started) (s : State) : (updStarted i n f s).resvs = s.resvs := rfl
@[simp] theorem updStarted_accPar (i n : Nat) (f : Started → Started) (s : State) : (updStarted i n f s).accPar = s.accPar := rfl
@[simp] theorem updStarted_hubTlb (i n : Nat) (f : Started → Started) (s : State) : (updStarted i n f s).hubTlb = s.hubTlb := rfl
@[simp] theorem updStarted_linkT (i n : Nat) (f : Started → Started) (s : State) : (updStarted i n f s).linkT = s.linkT := rfl
@[simp] theorem updStarted_portT (i n : Nat) (f : Started → Started) (s : State) : (updStarted i n f s).portT = s.portT := rfl
@[simp] theorem updStarted_reqs (i n : Nat) (f : Started → Started) (s : State) : (updStarted i n f s).reqs = s.reqs := rfl
@[simp] theorem updStarted_herdX (i n : Nat) (f : Started → Started) (s : State) : (updStarted i n f s).herdX = s.herdX := rfl
@[simp] theorem updStarted_brgs (i n : Nat) (f : Started → Started) (s : State) : (updStarted i n f s).brgs = s.brgs := rfl
@[simp] theorem updStarted_rlps (i n : Nat) (f : Started → Started) (s : State) : (updStarted i n f s).rlps = s.rlps := rfl
@[simp] theorem updStarted_isls (i n : Nat) (f : Started → Started) (s : State) : (updStarted i n f s).isls = s.isls := rfl
@[simp] theorem updStarted_cals (i n : Nat) (f : Started → Started) (s : State) : (updStarted i n f s).cals = s.cals := rfl
@[simp] theorem updStarted_pipes (i n : Nat) (f : Started → Started) (s : State) : (updStarted i n f s).pipes = s.pipes := rfl
@[simp] theorem updStarted_rlOut (i n : Nat) (f : Started → Started) (s : State) : (updStarted i n f s).rlOut = s.rlOut := rfl
@[simp] theorem updStarted_barHeld (i n : Nat) (f : Started → Started) (s : State) : (updStarted i n f s).barHeld = s.barHeld := rfl

/-! `setMgs` -/
@[simp] theorem setMgs_regs (m : Mgs) (s : State) : (setMgs m s).regs = s.regs := rfl
@[simp] theorem setMgs_shadow (m : Mgs) (s : State) : (setMgs m s).shadow = s.shadow := rfl
@[simp] theorem setMgs_seqs (m : Mgs) (s : State) : (setMgs m s).seqs = s.seqs := rfl
@[simp] theorem setMgs_spad (m : Mgs) (s : State) : (setMgs m s).spad = s.spad := rfl
@[simp] theorem setMgs_acc (m : Mgs) (s : State) : (setMgs m s).acc = s.acc := rfl
@[simp] theorem setMgs_vreg (m : Mgs) (s : State) : (setMgs m s).vreg = s.vreg := rfl
@[simp] theorem setMgs_bead (m : Mgs) (s : State) : (setMgs m s).bead = s.bead := rfl
@[simp] theorem setMgs_beads (m : Mgs) (s : State) : (setMgs m s).beads = s.beads := rfl
@[simp] theorem setMgs_life (m : Mgs) (s : State) : (setMgs m s).life = s.life := rfl
@[simp] theorem setMgs_out (m : Mgs) (s : State) : (setMgs m s).out = s.out := rfl
@[simp] theorem setMgs_pending (m : Mgs) (s : State) : (setMgs m s).pending = s.pending := rfl
@[simp] theorem setMgs_now (m : Mgs) (s : State) : (setMgs m s).now = s.now := rfl
@[simp] theorem setMgs_freeN (m : Mgs) (s : State) : (setMgs m s).freeN = s.freeN := rfl
@[simp] theorem setMgs_mgs (m : Mgs) (s : State) : (setMgs m s).mgs = m := rfl
@[simp] theorem setMgs_strms (m : Mgs) (s : State) : (setMgs m s).strms = s.strms := rfl
@[simp] theorem setMgs_kvs (m : Mgs) (s : State) : (setMgs m s).kvs = s.kvs := rfl
@[simp] theorem setMgs_kvm (m : Mgs) (s : State) : (setMgs m s).kvm = s.kvm := rfl
@[simp] theorem setMgs_hqs (m : Mgs) (s : State) : (setMgs m s).hqs = s.hqs := rfl
@[simp] theorem setMgs_fns (m : Mgs) (s : State) : (setMgs m s).fns = s.fns := rfl
@[simp] theorem setMgs_msix (m : Mgs) (s : State) : (setMgs m s).msix = s.msix := rfl
@[simp] theorem setMgs_boot (m : Mgs) (s : State) : (setMgs m s).boot = s.boot := rfl
@[simp] theorem setMgs_tap (m : Mgs) (s : State) : (setMgs m s).tap = s.tap := rfl
@[simp] theorem setMgs_thm (m : Mgs) (s : State) : (setMgs m s).thm = s.thm := rfl
@[simp] theorem setMgs_links (m : Mgs) (s : State) : (setMgs m s).links = s.links := rfl
@[simp] theorem setMgs_ports (m : Mgs) (s : State) : (setMgs m s).ports = s.ports := rfl
@[simp] theorem setMgs_xlats (m : Mgs) (s : State) : (setMgs m s).xlats = s.xlats := rfl
@[simp] theorem setMgs_e2e (m : Mgs) (s : State) : (setMgs m s).e2e = s.e2e := rfl
@[simp] theorem setMgs_held (m : Mgs) (s : State) : (setMgs m s).held = s.held := rfl
@[simp] theorem setMgs_resvs (m : Mgs) (s : State) : (setMgs m s).resvs = s.resvs := rfl
@[simp] theorem setMgs_accPar (m : Mgs) (s : State) : (setMgs m s).accPar = s.accPar := rfl
@[simp] theorem setMgs_hubTlb (m : Mgs) (s : State) : (setMgs m s).hubTlb = s.hubTlb := rfl
@[simp] theorem setMgs_linkT (m : Mgs) (s : State) : (setMgs m s).linkT = s.linkT := rfl
@[simp] theorem setMgs_portT (m : Mgs) (s : State) : (setMgs m s).portT = s.portT := rfl
@[simp] theorem setMgs_reqs (m : Mgs) (s : State) : (setMgs m s).reqs = s.reqs := rfl
@[simp] theorem setMgs_herdX (m : Mgs) (s : State) : (setMgs m s).herdX = s.herdX := rfl
@[simp] theorem setMgs_brgs (m : Mgs) (s : State) : (setMgs m s).brgs = s.brgs := rfl
@[simp] theorem setMgs_rlps (m : Mgs) (s : State) : (setMgs m s).rlps = s.rlps := rfl
@[simp] theorem setMgs_isls (m : Mgs) (s : State) : (setMgs m s).isls = s.isls := rfl
@[simp] theorem setMgs_cals (m : Mgs) (s : State) : (setMgs m s).cals = s.cals := rfl
@[simp] theorem setMgs_pipes (m : Mgs) (s : State) : (setMgs m s).pipes = s.pipes := rfl
@[simp] theorem setMgs_rlOut (m : Mgs) (s : State) : (setMgs m s).rlOut = s.rlOut := rfl
@[simp] theorem setMgs_barHeld (m : Mgs) (s : State) : (setMgs m s).barHeld = s.barHeld := rfl

/-! `setLifeX` -/
@[simp] theorem setLifeX_regs (a : Nat) (x : LifeX) (s : State) : (setLifeX a x s).regs = s.regs := rfl
@[simp] theorem setLifeX_shadow (a : Nat) (x : LifeX) (s : State) : (setLifeX a x s).shadow = s.shadow := rfl
@[simp] theorem setLifeX_seqs (a : Nat) (x : LifeX) (s : State) : (setLifeX a x s).seqs = s.seqs := rfl
@[simp] theorem setLifeX_spad (a : Nat) (x : LifeX) (s : State) : (setLifeX a x s).spad = s.spad := rfl
@[simp] theorem setLifeX_acc (a : Nat) (x : LifeX) (s : State) : (setLifeX a x s).acc = s.acc := rfl
@[simp] theorem setLifeX_vreg (a : Nat) (x : LifeX) (s : State) : (setLifeX a x s).vreg = s.vreg := rfl
@[simp] theorem setLifeX_bead (a : Nat) (x : LifeX) (s : State) : (setLifeX a x s).bead = s.bead := rfl
@[simp] theorem setLifeX_beads (a : Nat) (x : LifeX) (s : State) : (setLifeX a x s).beads = s.beads := rfl
@[simp] theorem setLifeX_life (a : Nat) (x : LifeX) (s : State) : (setLifeX a x s).life = alSet s.life a x := rfl
@[simp] theorem setLifeX_out (a : Nat) (x : LifeX) (s : State) : (setLifeX a x s).out = s.out := rfl
@[simp] theorem setLifeX_pending (a : Nat) (x : LifeX) (s : State) : (setLifeX a x s).pending = s.pending := rfl
@[simp] theorem setLifeX_now (a : Nat) (x : LifeX) (s : State) : (setLifeX a x s).now = s.now := rfl
@[simp] theorem setLifeX_freeN (a : Nat) (x : LifeX) (s : State) : (setLifeX a x s).freeN = s.freeN := rfl
@[simp] theorem setLifeX_mgs (a : Nat) (x : LifeX) (s : State) : (setLifeX a x s).mgs = s.mgs := rfl
@[simp] theorem setLifeX_strms (a : Nat) (x : LifeX) (s : State) : (setLifeX a x s).strms = s.strms := rfl
@[simp] theorem setLifeX_kvs (a : Nat) (x : LifeX) (s : State) : (setLifeX a x s).kvs = s.kvs := rfl
@[simp] theorem setLifeX_kvm (a : Nat) (x : LifeX) (s : State) : (setLifeX a x s).kvm = s.kvm := rfl
@[simp] theorem setLifeX_hqs (a : Nat) (x : LifeX) (s : State) : (setLifeX a x s).hqs = s.hqs := rfl
@[simp] theorem setLifeX_fns (a : Nat) (x : LifeX) (s : State) : (setLifeX a x s).fns = s.fns := rfl
@[simp] theorem setLifeX_msix (a : Nat) (x : LifeX) (s : State) : (setLifeX a x s).msix = s.msix := rfl
@[simp] theorem setLifeX_boot (a : Nat) (x : LifeX) (s : State) : (setLifeX a x s).boot = s.boot := rfl
@[simp] theorem setLifeX_tap (a : Nat) (x : LifeX) (s : State) : (setLifeX a x s).tap = s.tap := rfl
@[simp] theorem setLifeX_thm (a : Nat) (x : LifeX) (s : State) : (setLifeX a x s).thm = s.thm := rfl
@[simp] theorem setLifeX_links (a : Nat) (x : LifeX) (s : State) : (setLifeX a x s).links = s.links := rfl
@[simp] theorem setLifeX_ports (a : Nat) (x : LifeX) (s : State) : (setLifeX a x s).ports = s.ports := rfl
@[simp] theorem setLifeX_xlats (a : Nat) (x : LifeX) (s : State) : (setLifeX a x s).xlats = s.xlats := rfl
@[simp] theorem setLifeX_e2e (a : Nat) (x : LifeX) (s : State) : (setLifeX a x s).e2e = s.e2e := rfl
@[simp] theorem setLifeX_held (a : Nat) (x : LifeX) (s : State) : (setLifeX a x s).held = s.held := rfl
@[simp] theorem setLifeX_resvs (a : Nat) (x : LifeX) (s : State) : (setLifeX a x s).resvs = s.resvs := rfl
@[simp] theorem setLifeX_accPar (a : Nat) (x : LifeX) (s : State) : (setLifeX a x s).accPar = s.accPar := rfl
@[simp] theorem setLifeX_hubTlb (a : Nat) (x : LifeX) (s : State) : (setLifeX a x s).hubTlb = s.hubTlb := rfl
@[simp] theorem setLifeX_linkT (a : Nat) (x : LifeX) (s : State) : (setLifeX a x s).linkT = s.linkT := rfl
@[simp] theorem setLifeX_portT (a : Nat) (x : LifeX) (s : State) : (setLifeX a x s).portT = s.portT := rfl
@[simp] theorem setLifeX_reqs (a : Nat) (x : LifeX) (s : State) : (setLifeX a x s).reqs = s.reqs := rfl
@[simp] theorem setLifeX_herdX (a : Nat) (x : LifeX) (s : State) : (setLifeX a x s).herdX = s.herdX := rfl
@[simp] theorem setLifeX_brgs (a : Nat) (x : LifeX) (s : State) : (setLifeX a x s).brgs = s.brgs := rfl
@[simp] theorem setLifeX_rlps (a : Nat) (x : LifeX) (s : State) : (setLifeX a x s).rlps = s.rlps := rfl
@[simp] theorem setLifeX_isls (a : Nat) (x : LifeX) (s : State) : (setLifeX a x s).isls = s.isls := rfl
@[simp] theorem setLifeX_cals (a : Nat) (x : LifeX) (s : State) : (setLifeX a x s).cals = s.cals := rfl
@[simp] theorem setLifeX_pipes (a : Nat) (x : LifeX) (s : State) : (setLifeX a x s).pipes = s.pipes := rfl
@[simp] theorem setLifeX_rlOut (a : Nat) (x : LifeX) (s : State) : (setLifeX a x s).rlOut = s.rlOut := rfl
@[simp] theorem setLifeX_barHeld (a : Nat) (x : LifeX) (s : State) : (setLifeX a x s).barHeld = s.barHeld := rfl

/-! `setBead` -/
@[simp] theorem setBead_regs (i : Nat) (b : BeadSt) (s : State) : (setBead i b s).regs = s.regs := rfl
@[simp] theorem setBead_shadow (i : Nat) (b : BeadSt) (s : State) : (setBead i b s).shadow = s.shadow := rfl
@[simp] theorem setBead_seqs (i : Nat) (b : BeadSt) (s : State) : (setBead i b s).seqs = s.seqs := rfl
@[simp] theorem setBead_spad (i : Nat) (b : BeadSt) (s : State) : (setBead i b s).spad = s.spad := rfl
@[simp] theorem setBead_acc (i : Nat) (b : BeadSt) (s : State) : (setBead i b s).acc = s.acc := rfl
@[simp] theorem setBead_vreg (i : Nat) (b : BeadSt) (s : State) : (setBead i b s).vreg = s.vreg := rfl
@[simp] theorem setBead_bead (i : Nat) (b : BeadSt) (s : State) : (setBead i b s).bead = s.bead := rfl
@[simp] theorem setBead_beads (i : Nat) (b : BeadSt) (s : State) : (setBead i b s).beads = alSet s.beads i b := rfl
@[simp] theorem setBead_life (i : Nat) (b : BeadSt) (s : State) : (setBead i b s).life = s.life := rfl
@[simp] theorem setBead_out (i : Nat) (b : BeadSt) (s : State) : (setBead i b s).out = s.out := rfl
@[simp] theorem setBead_pending (i : Nat) (b : BeadSt) (s : State) : (setBead i b s).pending = s.pending := rfl
@[simp] theorem setBead_now (i : Nat) (b : BeadSt) (s : State) : (setBead i b s).now = s.now := rfl
@[simp] theorem setBead_freeN (i : Nat) (b : BeadSt) (s : State) : (setBead i b s).freeN = s.freeN := rfl
@[simp] theorem setBead_mgs (i : Nat) (b : BeadSt) (s : State) : (setBead i b s).mgs = s.mgs := rfl
@[simp] theorem setBead_strms (i : Nat) (b : BeadSt) (s : State) : (setBead i b s).strms = s.strms := rfl
@[simp] theorem setBead_kvs (i : Nat) (b : BeadSt) (s : State) : (setBead i b s).kvs = s.kvs := rfl
@[simp] theorem setBead_kvm (i : Nat) (b : BeadSt) (s : State) : (setBead i b s).kvm = s.kvm := rfl
@[simp] theorem setBead_hqs (i : Nat) (b : BeadSt) (s : State) : (setBead i b s).hqs = s.hqs := rfl
@[simp] theorem setBead_fns (i : Nat) (b : BeadSt) (s : State) : (setBead i b s).fns = s.fns := rfl
@[simp] theorem setBead_msix (i : Nat) (b : BeadSt) (s : State) : (setBead i b s).msix = s.msix := rfl
@[simp] theorem setBead_boot (i : Nat) (b : BeadSt) (s : State) : (setBead i b s).boot = s.boot := rfl
@[simp] theorem setBead_tap (i : Nat) (b : BeadSt) (s : State) : (setBead i b s).tap = s.tap := rfl
@[simp] theorem setBead_thm (i : Nat) (b : BeadSt) (s : State) : (setBead i b s).thm = s.thm := rfl
@[simp] theorem setBead_links (i : Nat) (b : BeadSt) (s : State) : (setBead i b s).links = s.links := rfl
@[simp] theorem setBead_ports (i : Nat) (b : BeadSt) (s : State) : (setBead i b s).ports = s.ports := rfl
@[simp] theorem setBead_xlats (i : Nat) (b : BeadSt) (s : State) : (setBead i b s).xlats = s.xlats := rfl
@[simp] theorem setBead_e2e (i : Nat) (b : BeadSt) (s : State) : (setBead i b s).e2e = s.e2e := rfl
@[simp] theorem setBead_held (i : Nat) (b : BeadSt) (s : State) : (setBead i b s).held = s.held := rfl
@[simp] theorem setBead_resvs (i : Nat) (b : BeadSt) (s : State) : (setBead i b s).resvs = s.resvs := rfl
@[simp] theorem setBead_accPar (i : Nat) (b : BeadSt) (s : State) : (setBead i b s).accPar = s.accPar := rfl
@[simp] theorem setBead_hubTlb (i : Nat) (b : BeadSt) (s : State) : (setBead i b s).hubTlb = s.hubTlb := rfl
@[simp] theorem setBead_linkT (i : Nat) (b : BeadSt) (s : State) : (setBead i b s).linkT = s.linkT := rfl
@[simp] theorem setBead_portT (i : Nat) (b : BeadSt) (s : State) : (setBead i b s).portT = s.portT := rfl
@[simp] theorem setBead_reqs (i : Nat) (b : BeadSt) (s : State) : (setBead i b s).reqs = s.reqs := rfl
@[simp] theorem setBead_herdX (i : Nat) (b : BeadSt) (s : State) : (setBead i b s).herdX = s.herdX := rfl
@[simp] theorem setBead_brgs (i : Nat) (b : BeadSt) (s : State) : (setBead i b s).brgs = s.brgs := rfl
@[simp] theorem setBead_rlps (i : Nat) (b : BeadSt) (s : State) : (setBead i b s).rlps = s.rlps := rfl
@[simp] theorem setBead_isls (i : Nat) (b : BeadSt) (s : State) : (setBead i b s).isls = s.isls := rfl
@[simp] theorem setBead_cals (i : Nat) (b : BeadSt) (s : State) : (setBead i b s).cals = s.cals := rfl
@[simp] theorem setBead_pipes (i : Nat) (b : BeadSt) (s : State) : (setBead i b s).pipes = s.pipes := rfl
@[simp] theorem setBead_rlOut (i : Nat) (b : BeadSt) (s : State) : (setBead i b s).rlOut = s.rlOut := rfl
@[simp] theorem setBead_barHeld (i : Nat) (b : BeadSt) (s : State) : (setBead i b s).barHeld = s.barHeld := rfl

/-! `setBrgDir` -/
@[simp] theorem setBrgDir_regs (n d : Nat) (l : LinkDir) (s : State) : (setBrgDir n d l s).regs = s.regs := rfl
@[simp] theorem setBrgDir_shadow (n d : Nat) (l : LinkDir) (s : State) : (setBrgDir n d l s).shadow = s.shadow := rfl
@[simp] theorem setBrgDir_seqs (n d : Nat) (l : LinkDir) (s : State) : (setBrgDir n d l s).seqs = s.seqs := rfl
@[simp] theorem setBrgDir_spad (n d : Nat) (l : LinkDir) (s : State) : (setBrgDir n d l s).spad = s.spad := rfl
@[simp] theorem setBrgDir_acc (n d : Nat) (l : LinkDir) (s : State) : (setBrgDir n d l s).acc = s.acc := rfl
@[simp] theorem setBrgDir_vreg (n d : Nat) (l : LinkDir) (s : State) : (setBrgDir n d l s).vreg = s.vreg := rfl
@[simp] theorem setBrgDir_bead (n d : Nat) (l : LinkDir) (s : State) : (setBrgDir n d l s).bead = s.bead := rfl
@[simp] theorem setBrgDir_beads (n d : Nat) (l : LinkDir) (s : State) : (setBrgDir n d l s).beads = s.beads := rfl
@[simp] theorem setBrgDir_life (n d : Nat) (l : LinkDir) (s : State) : (setBrgDir n d l s).life = s.life := rfl
@[simp] theorem setBrgDir_out (n d : Nat) (l : LinkDir) (s : State) : (setBrgDir n d l s).out = s.out := rfl
@[simp] theorem setBrgDir_pending (n d : Nat) (l : LinkDir) (s : State) : (setBrgDir n d l s).pending = s.pending := rfl
@[simp] theorem setBrgDir_now (n d : Nat) (l : LinkDir) (s : State) : (setBrgDir n d l s).now = s.now := rfl
@[simp] theorem setBrgDir_freeN (n d : Nat) (l : LinkDir) (s : State) : (setBrgDir n d l s).freeN = s.freeN := rfl
@[simp] theorem setBrgDir_mgs (n d : Nat) (l : LinkDir) (s : State) : (setBrgDir n d l s).mgs = s.mgs := rfl
@[simp] theorem setBrgDir_strms (n d : Nat) (l : LinkDir) (s : State) : (setBrgDir n d l s).strms = s.strms := rfl
@[simp] theorem setBrgDir_kvs (n d : Nat) (l : LinkDir) (s : State) : (setBrgDir n d l s).kvs = s.kvs := rfl
@[simp] theorem setBrgDir_kvm (n d : Nat) (l : LinkDir) (s : State) : (setBrgDir n d l s).kvm = s.kvm := rfl
@[simp] theorem setBrgDir_hqs (n d : Nat) (l : LinkDir) (s : State) : (setBrgDir n d l s).hqs = s.hqs := rfl
@[simp] theorem setBrgDir_fns (n d : Nat) (l : LinkDir) (s : State) : (setBrgDir n d l s).fns = s.fns := rfl
@[simp] theorem setBrgDir_msix (n d : Nat) (l : LinkDir) (s : State) : (setBrgDir n d l s).msix = s.msix := rfl
@[simp] theorem setBrgDir_boot (n d : Nat) (l : LinkDir) (s : State) : (setBrgDir n d l s).boot = s.boot := rfl
@[simp] theorem setBrgDir_tap (n d : Nat) (l : LinkDir) (s : State) : (setBrgDir n d l s).tap = s.tap := rfl
@[simp] theorem setBrgDir_thm (n d : Nat) (l : LinkDir) (s : State) : (setBrgDir n d l s).thm = s.thm := rfl
@[simp] theorem setBrgDir_links (n d : Nat) (l : LinkDir) (s : State) : (setBrgDir n d l s).links = alSet s.links (n * 2 + d) l := rfl
@[simp] theorem setBrgDir_ports (n d : Nat) (l : LinkDir) (s : State) : (setBrgDir n d l s).ports = s.ports := rfl
@[simp] theorem setBrgDir_xlats (n d : Nat) (l : LinkDir) (s : State) : (setBrgDir n d l s).xlats = s.xlats := rfl
@[simp] theorem setBrgDir_e2e (n d : Nat) (l : LinkDir) (s : State) : (setBrgDir n d l s).e2e = s.e2e := rfl
@[simp] theorem setBrgDir_held (n d : Nat) (l : LinkDir) (s : State) : (setBrgDir n d l s).held = s.held := rfl
@[simp] theorem setBrgDir_resvs (n d : Nat) (l : LinkDir) (s : State) : (setBrgDir n d l s).resvs = s.resvs := rfl
@[simp] theorem setBrgDir_accPar (n d : Nat) (l : LinkDir) (s : State) : (setBrgDir n d l s).accPar = s.accPar := rfl
@[simp] theorem setBrgDir_hubTlb (n d : Nat) (l : LinkDir) (s : State) : (setBrgDir n d l s).hubTlb = s.hubTlb := rfl
@[simp] theorem setBrgDir_linkT (n d : Nat) (l : LinkDir) (s : State) : (setBrgDir n d l s).linkT =
    alPut LinkT.rest s.linkT (n * 2 + d) (LinkT.stamp 6 8 336 s.now (brgDir n d s) l (brgTime n d s)) := rfl
@[simp] theorem setBrgDir_portT (n d : Nat) (l : LinkDir) (s : State) : (setBrgDir n d l s).portT = s.portT := rfl
@[simp] theorem setBrgDir_reqs (n d : Nat) (l : LinkDir) (s : State) : (setBrgDir n d l s).reqs = s.reqs := rfl
@[simp] theorem setBrgDir_herdX (n d : Nat) (l : LinkDir) (s : State) : (setBrgDir n d l s).herdX = s.herdX := rfl
@[simp] theorem setBrgDir_brgs (n d : Nat) (l : LinkDir) (s : State) : (setBrgDir n d l s).brgs = s.brgs := rfl
@[simp] theorem setBrgDir_rlps (n d : Nat) (l : LinkDir) (s : State) : (setBrgDir n d l s).rlps = s.rlps := rfl
@[simp] theorem setBrgDir_isls (n d : Nat) (l : LinkDir) (s : State) : (setBrgDir n d l s).isls = s.isls := rfl
@[simp] theorem setBrgDir_cals (n d : Nat) (l : LinkDir) (s : State) : (setBrgDir n d l s).cals = s.cals := rfl
@[simp] theorem setBrgDir_pipes (n d : Nat) (l : LinkDir) (s : State) : (setBrgDir n d l s).pipes = s.pipes := rfl
@[simp] theorem setBrgDir_rlOut (n d : Nat) (l : LinkDir) (s : State) : (setBrgDir n d l s).rlOut = s.rlOut := rfl
@[simp] theorem setBrgDir_barHeld (n d : Nat) (l : LinkDir) (s : State) : (setBrgDir n d l s).barHeld = s.barHeld := rfl

/-! `setStr` -/
@[simp] theorem setStr_regs (i k : Nat) (v : Str) (s : State) : (setStr i k v s).regs = s.regs := rfl
@[simp] theorem setStr_shadow (i k : Nat) (v : Str) (s : State) : (setStr i k v s).shadow = s.shadow := rfl
@[simp] theorem setStr_seqs (i k : Nat) (v : Str) (s : State) : (setStr i k v s).seqs = s.seqs := rfl
@[simp] theorem setStr_spad (i k : Nat) (v : Str) (s : State) : (setStr i k v s).spad = s.spad := rfl
@[simp] theorem setStr_acc (i k : Nat) (v : Str) (s : State) : (setStr i k v s).acc = s.acc := rfl
@[simp] theorem setStr_vreg (i k : Nat) (v : Str) (s : State) : (setStr i k v s).vreg = s.vreg := rfl
@[simp] theorem setStr_bead (i k : Nat) (v : Str) (s : State) : (setStr i k v s).bead = s.bead := rfl
@[simp] theorem setStr_beads (i k : Nat) (v : Str) (s : State) : (setStr i k v s).beads = s.beads := rfl
@[simp] theorem setStr_life (i k : Nat) (v : Str) (s : State) : (setStr i k v s).life = s.life := rfl
@[simp] theorem setStr_out (i k : Nat) (v : Str) (s : State) : (setStr i k v s).out = s.out := rfl
@[simp] theorem setStr_pending (i k : Nat) (v : Str) (s : State) : (setStr i k v s).pending = s.pending := rfl
@[simp] theorem setStr_now (i k : Nat) (v : Str) (s : State) : (setStr i k v s).now = s.now := rfl
@[simp] theorem setStr_freeN (i k : Nat) (v : Str) (s : State) : (setStr i k v s).freeN = s.freeN := rfl
@[simp] theorem setStr_mgs (i k : Nat) (v : Str) (s : State) : (setStr i k v s).mgs = s.mgs := rfl
@[simp] theorem setStr_strms (i k : Nat) (v : Str) (s : State) : (setStr i k v s).strms = alSet s.strms (i * 8 + k) v := rfl
@[simp] theorem setStr_kvs (i k : Nat) (v : Str) (s : State) : (setStr i k v s).kvs = s.kvs := rfl
@[simp] theorem setStr_kvm (i k : Nat) (v : Str) (s : State) : (setStr i k v s).kvm = s.kvm := rfl
@[simp] theorem setStr_hqs (i k : Nat) (v : Str) (s : State) : (setStr i k v s).hqs = s.hqs := rfl
@[simp] theorem setStr_fns (i k : Nat) (v : Str) (s : State) : (setStr i k v s).fns = s.fns := rfl
@[simp] theorem setStr_msix (i k : Nat) (v : Str) (s : State) : (setStr i k v s).msix = s.msix := rfl
@[simp] theorem setStr_boot (i k : Nat) (v : Str) (s : State) : (setStr i k v s).boot = s.boot := rfl
@[simp] theorem setStr_tap (i k : Nat) (v : Str) (s : State) : (setStr i k v s).tap = s.tap := rfl
@[simp] theorem setStr_thm (i k : Nat) (v : Str) (s : State) : (setStr i k v s).thm = s.thm := rfl
@[simp] theorem setStr_links (i k : Nat) (v : Str) (s : State) : (setStr i k v s).links = s.links := rfl
@[simp] theorem setStr_ports (i k : Nat) (v : Str) (s : State) : (setStr i k v s).ports = s.ports := rfl
@[simp] theorem setStr_xlats (i k : Nat) (v : Str) (s : State) : (setStr i k v s).xlats = s.xlats := rfl
@[simp] theorem setStr_e2e (i k : Nat) (v : Str) (s : State) : (setStr i k v s).e2e = s.e2e := rfl
@[simp] theorem setStr_held (i k : Nat) (v : Str) (s : State) : (setStr i k v s).held = s.held := rfl
@[simp] theorem setStr_resvs (i k : Nat) (v : Str) (s : State) : (setStr i k v s).resvs = s.resvs := rfl
@[simp] theorem setStr_accPar (i k : Nat) (v : Str) (s : State) : (setStr i k v s).accPar = s.accPar := rfl
@[simp] theorem setStr_hubTlb (i k : Nat) (v : Str) (s : State) : (setStr i k v s).hubTlb = s.hubTlb := rfl
@[simp] theorem setStr_linkT (i k : Nat) (v : Str) (s : State) : (setStr i k v s).linkT = s.linkT := rfl
@[simp] theorem setStr_portT (i k : Nat) (v : Str) (s : State) : (setStr i k v s).portT = s.portT := rfl
@[simp] theorem setStr_reqs (i k : Nat) (v : Str) (s : State) : (setStr i k v s).reqs = s.reqs := rfl
@[simp] theorem setStr_herdX (i k : Nat) (v : Str) (s : State) : (setStr i k v s).herdX = s.herdX := rfl
@[simp] theorem setStr_brgs (i k : Nat) (v : Str) (s : State) : (setStr i k v s).brgs = s.brgs := rfl
@[simp] theorem setStr_rlps (i k : Nat) (v : Str) (s : State) : (setStr i k v s).rlps = s.rlps := rfl
@[simp] theorem setStr_isls (i k : Nat) (v : Str) (s : State) : (setStr i k v s).isls = s.isls := rfl
@[simp] theorem setStr_cals (i k : Nat) (v : Str) (s : State) : (setStr i k v s).cals = s.cals := rfl
@[simp] theorem setStr_pipes (i k : Nat) (v : Str) (s : State) : (setStr i k v s).pipes = s.pipes := rfl
@[simp] theorem setStr_rlOut (i k : Nat) (v : Str) (s : State) : (setStr i k v s).rlOut = s.rlOut := rfl
@[simp] theorem setStr_barHeld (i k : Nat) (v : Str) (s : State) : (setStr i k v s).barHeld = s.barHeld := rfl

/-! `setHq` -/
@[simp] theorem setHq_regs (n : Nat) (x : HqSt) (s : State) : (setHq n x s).regs = s.regs := rfl
@[simp] theorem setHq_shadow (n : Nat) (x : HqSt) (s : State) : (setHq n x s).shadow = s.shadow := rfl
@[simp] theorem setHq_seqs (n : Nat) (x : HqSt) (s : State) : (setHq n x s).seqs = s.seqs := rfl
@[simp] theorem setHq_spad (n : Nat) (x : HqSt) (s : State) : (setHq n x s).spad = s.spad := rfl
@[simp] theorem setHq_acc (n : Nat) (x : HqSt) (s : State) : (setHq n x s).acc = s.acc := rfl
@[simp] theorem setHq_vreg (n : Nat) (x : HqSt) (s : State) : (setHq n x s).vreg = s.vreg := rfl
@[simp] theorem setHq_bead (n : Nat) (x : HqSt) (s : State) : (setHq n x s).bead = s.bead := rfl
@[simp] theorem setHq_beads (n : Nat) (x : HqSt) (s : State) : (setHq n x s).beads = s.beads := rfl
@[simp] theorem setHq_life (n : Nat) (x : HqSt) (s : State) : (setHq n x s).life = s.life := rfl
@[simp] theorem setHq_out (n : Nat) (x : HqSt) (s : State) : (setHq n x s).out = s.out := rfl
@[simp] theorem setHq_pending (n : Nat) (x : HqSt) (s : State) : (setHq n x s).pending = s.pending := rfl
@[simp] theorem setHq_now (n : Nat) (x : HqSt) (s : State) : (setHq n x s).now = s.now := rfl
@[simp] theorem setHq_freeN (n : Nat) (x : HqSt) (s : State) : (setHq n x s).freeN = s.freeN := rfl
@[simp] theorem setHq_mgs (n : Nat) (x : HqSt) (s : State) : (setHq n x s).mgs = s.mgs := rfl
@[simp] theorem setHq_strms (n : Nat) (x : HqSt) (s : State) : (setHq n x s).strms = s.strms := rfl
@[simp] theorem setHq_kvs (n : Nat) (x : HqSt) (s : State) : (setHq n x s).kvs = s.kvs := rfl
@[simp] theorem setHq_kvm (n : Nat) (x : HqSt) (s : State) : (setHq n x s).kvm = s.kvm := rfl
@[simp] theorem setHq_hqs (n : Nat) (x : HqSt) (s : State) : (setHq n x s).hqs = alPut HqSt.rest s.hqs n x := rfl
@[simp] theorem setHq_fns (n : Nat) (x : HqSt) (s : State) : (setHq n x s).fns = s.fns := rfl
@[simp] theorem setHq_msix (n : Nat) (x : HqSt) (s : State) : (setHq n x s).msix = s.msix := rfl
@[simp] theorem setHq_boot (n : Nat) (x : HqSt) (s : State) : (setHq n x s).boot = s.boot := rfl
@[simp] theorem setHq_tap (n : Nat) (x : HqSt) (s : State) : (setHq n x s).tap = s.tap := rfl
@[simp] theorem setHq_thm (n : Nat) (x : HqSt) (s : State) : (setHq n x s).thm = s.thm := rfl
@[simp] theorem setHq_links (n : Nat) (x : HqSt) (s : State) : (setHq n x s).links = s.links := rfl
@[simp] theorem setHq_ports (n : Nat) (x : HqSt) (s : State) : (setHq n x s).ports = s.ports := rfl
@[simp] theorem setHq_xlats (n : Nat) (x : HqSt) (s : State) : (setHq n x s).xlats = s.xlats := rfl
@[simp] theorem setHq_e2e (n : Nat) (x : HqSt) (s : State) : (setHq n x s).e2e = s.e2e := rfl
@[simp] theorem setHq_held (n : Nat) (x : HqSt) (s : State) : (setHq n x s).held = s.held := rfl
@[simp] theorem setHq_resvs (n : Nat) (x : HqSt) (s : State) : (setHq n x s).resvs = s.resvs := rfl
@[simp] theorem setHq_accPar (n : Nat) (x : HqSt) (s : State) : (setHq n x s).accPar = s.accPar := rfl
@[simp] theorem setHq_hubTlb (n : Nat) (x : HqSt) (s : State) : (setHq n x s).hubTlb = s.hubTlb := rfl
@[simp] theorem setHq_linkT (n : Nat) (x : HqSt) (s : State) : (setHq n x s).linkT = s.linkT := rfl
@[simp] theorem setHq_portT (n : Nat) (x : HqSt) (s : State) : (setHq n x s).portT = s.portT := rfl
@[simp] theorem setHq_reqs (n : Nat) (x : HqSt) (s : State) : (setHq n x s).reqs = s.reqs := rfl
@[simp] theorem setHq_herdX (n : Nat) (x : HqSt) (s : State) : (setHq n x s).herdX = s.herdX := rfl
@[simp] theorem setHq_brgs (n : Nat) (x : HqSt) (s : State) : (setHq n x s).brgs = s.brgs := rfl
@[simp] theorem setHq_rlps (n : Nat) (x : HqSt) (s : State) : (setHq n x s).rlps = s.rlps := rfl
@[simp] theorem setHq_isls (n : Nat) (x : HqSt) (s : State) : (setHq n x s).isls = s.isls := rfl
@[simp] theorem setHq_cals (n : Nat) (x : HqSt) (s : State) : (setHq n x s).cals = s.cals := rfl
@[simp] theorem setHq_pipes (n : Nat) (x : HqSt) (s : State) : (setHq n x s).pipes = s.pipes := rfl
@[simp] theorem setHq_rlOut (n : Nat) (x : HqSt) (s : State) : (setHq n x s).rlOut = s.rlOut := rfl
@[simp] theorem setHq_barHeld (n : Nat) (x : HqSt) (s : State) : (setHq n x s).barHeld = s.barHeld := rfl

/-! `setBoot` -/
@[simp] theorem setBoot_regs (x : Boot) (s : State) : (setBoot x s).regs = s.regs := rfl
@[simp] theorem setBoot_shadow (x : Boot) (s : State) : (setBoot x s).shadow = s.shadow := rfl
@[simp] theorem setBoot_seqs (x : Boot) (s : State) : (setBoot x s).seqs = s.seqs := rfl
@[simp] theorem setBoot_spad (x : Boot) (s : State) : (setBoot x s).spad = s.spad := rfl
@[simp] theorem setBoot_acc (x : Boot) (s : State) : (setBoot x s).acc = s.acc := rfl
@[simp] theorem setBoot_vreg (x : Boot) (s : State) : (setBoot x s).vreg = s.vreg := rfl
@[simp] theorem setBoot_bead (x : Boot) (s : State) : (setBoot x s).bead = s.bead := rfl
@[simp] theorem setBoot_beads (x : Boot) (s : State) : (setBoot x s).beads = s.beads := rfl
@[simp] theorem setBoot_life (x : Boot) (s : State) : (setBoot x s).life = s.life := rfl
@[simp] theorem setBoot_out (x : Boot) (s : State) : (setBoot x s).out = s.out := rfl
@[simp] theorem setBoot_pending (x : Boot) (s : State) : (setBoot x s).pending = s.pending := rfl
@[simp] theorem setBoot_now (x : Boot) (s : State) : (setBoot x s).now = s.now := rfl
@[simp] theorem setBoot_freeN (x : Boot) (s : State) : (setBoot x s).freeN = s.freeN := rfl
@[simp] theorem setBoot_mgs (x : Boot) (s : State) : (setBoot x s).mgs = s.mgs := rfl
@[simp] theorem setBoot_strms (x : Boot) (s : State) : (setBoot x s).strms = s.strms := rfl
@[simp] theorem setBoot_kvs (x : Boot) (s : State) : (setBoot x s).kvs = s.kvs := rfl
@[simp] theorem setBoot_kvm (x : Boot) (s : State) : (setBoot x s).kvm = s.kvm := rfl
@[simp] theorem setBoot_hqs (x : Boot) (s : State) : (setBoot x s).hqs = s.hqs := rfl
@[simp] theorem setBoot_fns (x : Boot) (s : State) : (setBoot x s).fns = s.fns := rfl
@[simp] theorem setBoot_msix (x : Boot) (s : State) : (setBoot x s).msix = s.msix := rfl
@[simp] theorem setBoot_boot (x : Boot) (s : State) : (setBoot x s).boot = x := rfl
@[simp] theorem setBoot_tap (x : Boot) (s : State) : (setBoot x s).tap = s.tap := rfl
@[simp] theorem setBoot_thm (x : Boot) (s : State) : (setBoot x s).thm = s.thm := rfl
@[simp] theorem setBoot_links (x : Boot) (s : State) : (setBoot x s).links = s.links := rfl
@[simp] theorem setBoot_ports (x : Boot) (s : State) : (setBoot x s).ports = s.ports := rfl
@[simp] theorem setBoot_xlats (x : Boot) (s : State) : (setBoot x s).xlats = s.xlats := rfl
@[simp] theorem setBoot_e2e (x : Boot) (s : State) : (setBoot x s).e2e = s.e2e := rfl
@[simp] theorem setBoot_held (x : Boot) (s : State) : (setBoot x s).held = s.held := rfl
@[simp] theorem setBoot_resvs (x : Boot) (s : State) : (setBoot x s).resvs = s.resvs := rfl
@[simp] theorem setBoot_accPar (x : Boot) (s : State) : (setBoot x s).accPar = s.accPar := rfl
@[simp] theorem setBoot_hubTlb (x : Boot) (s : State) : (setBoot x s).hubTlb = s.hubTlb := rfl
@[simp] theorem setBoot_linkT (x : Boot) (s : State) : (setBoot x s).linkT = s.linkT := rfl
@[simp] theorem setBoot_portT (x : Boot) (s : State) : (setBoot x s).portT = s.portT := rfl
@[simp] theorem setBoot_reqs (x : Boot) (s : State) : (setBoot x s).reqs = s.reqs := rfl
@[simp] theorem setBoot_herdX (x : Boot) (s : State) : (setBoot x s).herdX = s.herdX := rfl
@[simp] theorem setBoot_brgs (x : Boot) (s : State) : (setBoot x s).brgs = s.brgs := rfl
@[simp] theorem setBoot_rlps (x : Boot) (s : State) : (setBoot x s).rlps = s.rlps := rfl
@[simp] theorem setBoot_isls (x : Boot) (s : State) : (setBoot x s).isls = s.isls := rfl
@[simp] theorem setBoot_cals (x : Boot) (s : State) : (setBoot x s).cals = s.cals := rfl
@[simp] theorem setBoot_pipes (x : Boot) (s : State) : (setBoot x s).pipes = s.pipes := rfl
@[simp] theorem setBoot_rlOut (x : Boot) (s : State) : (setBoot x s).rlOut = s.rlOut := rfl
@[simp] theorem setBoot_barHeld (x : Boot) (s : State) : (setBoot x s).barHeld = s.barHeld := rfl

/-! `setPort` -/
@[simp] theorem setPort_regs (p : Nat) (l : LinkDir) (s : State) : (setPort p l s).regs = s.regs := rfl
@[simp] theorem setPort_shadow (p : Nat) (l : LinkDir) (s : State) : (setPort p l s).shadow = s.shadow := rfl
@[simp] theorem setPort_seqs (p : Nat) (l : LinkDir) (s : State) : (setPort p l s).seqs = s.seqs := rfl
@[simp] theorem setPort_spad (p : Nat) (l : LinkDir) (s : State) : (setPort p l s).spad = s.spad := rfl
@[simp] theorem setPort_acc (p : Nat) (l : LinkDir) (s : State) : (setPort p l s).acc = s.acc := rfl
@[simp] theorem setPort_vreg (p : Nat) (l : LinkDir) (s : State) : (setPort p l s).vreg = s.vreg := rfl
@[simp] theorem setPort_bead (p : Nat) (l : LinkDir) (s : State) : (setPort p l s).bead = s.bead := rfl
@[simp] theorem setPort_beads (p : Nat) (l : LinkDir) (s : State) : (setPort p l s).beads = s.beads := rfl
@[simp] theorem setPort_life (p : Nat) (l : LinkDir) (s : State) : (setPort p l s).life = s.life := rfl
@[simp] theorem setPort_out (p : Nat) (l : LinkDir) (s : State) : (setPort p l s).out = s.out := rfl
@[simp] theorem setPort_pending (p : Nat) (l : LinkDir) (s : State) : (setPort p l s).pending = s.pending := rfl
@[simp] theorem setPort_now (p : Nat) (l : LinkDir) (s : State) : (setPort p l s).now = s.now := rfl
@[simp] theorem setPort_freeN (p : Nat) (l : LinkDir) (s : State) : (setPort p l s).freeN = s.freeN := rfl
@[simp] theorem setPort_mgs (p : Nat) (l : LinkDir) (s : State) : (setPort p l s).mgs = s.mgs := rfl
@[simp] theorem setPort_strms (p : Nat) (l : LinkDir) (s : State) : (setPort p l s).strms = s.strms := rfl
@[simp] theorem setPort_kvs (p : Nat) (l : LinkDir) (s : State) : (setPort p l s).kvs = s.kvs := rfl
@[simp] theorem setPort_kvm (p : Nat) (l : LinkDir) (s : State) : (setPort p l s).kvm = s.kvm := rfl
@[simp] theorem setPort_hqs (p : Nat) (l : LinkDir) (s : State) : (setPort p l s).hqs = s.hqs := rfl
@[simp] theorem setPort_fns (p : Nat) (l : LinkDir) (s : State) : (setPort p l s).fns = s.fns := rfl
@[simp] theorem setPort_msix (p : Nat) (l : LinkDir) (s : State) : (setPort p l s).msix = s.msix := rfl
@[simp] theorem setPort_boot (p : Nat) (l : LinkDir) (s : State) : (setPort p l s).boot = s.boot := rfl
@[simp] theorem setPort_tap (p : Nat) (l : LinkDir) (s : State) : (setPort p l s).tap = s.tap := rfl
@[simp] theorem setPort_thm (p : Nat) (l : LinkDir) (s : State) : (setPort p l s).thm = s.thm := rfl
@[simp] theorem setPort_links (p : Nat) (l : LinkDir) (s : State) : (setPort p l s).links = s.links := rfl
@[simp] theorem setPort_ports (p : Nat) (l : LinkDir) (s : State) : (setPort p l s).ports = alSet s.ports p l := rfl
@[simp] theorem setPort_xlats (p : Nat) (l : LinkDir) (s : State) : (setPort p l s).xlats = s.xlats := rfl
@[simp] theorem setPort_e2e (p : Nat) (l : LinkDir) (s : State) : (setPort p l s).e2e = s.e2e := rfl
@[simp] theorem setPort_held (p : Nat) (l : LinkDir) (s : State) : (setPort p l s).held = s.held := rfl
@[simp] theorem setPort_resvs (p : Nat) (l : LinkDir) (s : State) : (setPort p l s).resvs = s.resvs := rfl
@[simp] theorem setPort_accPar (p : Nat) (l : LinkDir) (s : State) : (setPort p l s).accPar = s.accPar := rfl
@[simp] theorem setPort_hubTlb (p : Nat) (l : LinkDir) (s : State) : (setPort p l s).hubTlb = s.hubTlb := rfl
@[simp] theorem setPort_linkT (p : Nat) (l : LinkDir) (s : State) : (setPort p l s).linkT = s.linkT := rfl
@[simp] theorem setPort_portT (p : Nat) (l : LinkDir) (s : State) : (setPort p l s).portT =
    alPut LinkT.rest s.portT p (LinkT.stamp 8 16 896 s.now (portOf p s) l (portTime p s)) := rfl
@[simp] theorem setPort_reqs (p : Nat) (l : LinkDir) (s : State) : (setPort p l s).reqs = s.reqs := rfl
@[simp] theorem setPort_herdX (p : Nat) (l : LinkDir) (s : State) : (setPort p l s).herdX = s.herdX := rfl
@[simp] theorem setPort_brgs (p : Nat) (l : LinkDir) (s : State) : (setPort p l s).brgs = s.brgs := rfl
@[simp] theorem setPort_rlps (p : Nat) (l : LinkDir) (s : State) : (setPort p l s).rlps = s.rlps := rfl
@[simp] theorem setPort_isls (p : Nat) (l : LinkDir) (s : State) : (setPort p l s).isls = s.isls := rfl
@[simp] theorem setPort_cals (p : Nat) (l : LinkDir) (s : State) : (setPort p l s).cals = s.cals := rfl
@[simp] theorem setPort_pipes (p : Nat) (l : LinkDir) (s : State) : (setPort p l s).pipes = s.pipes := rfl
@[simp] theorem setPort_rlOut (p : Nat) (l : LinkDir) (s : State) : (setPort p l s).rlOut = s.rlOut := rfl
@[simp] theorem setPort_barHeld (p : Nat) (l : LinkDir) (s : State) : (setPort p l s).barHeld = s.barHeld := rfl

/-! `setTap` -/
@[simp] theorem setTap_regs (x : Tap) (s : State) : (setTap x s).regs = s.regs := rfl
@[simp] theorem setTap_shadow (x : Tap) (s : State) : (setTap x s).shadow = s.shadow := rfl
@[simp] theorem setTap_seqs (x : Tap) (s : State) : (setTap x s).seqs = s.seqs := rfl
@[simp] theorem setTap_spad (x : Tap) (s : State) : (setTap x s).spad = s.spad := rfl
@[simp] theorem setTap_acc (x : Tap) (s : State) : (setTap x s).acc = s.acc := rfl
@[simp] theorem setTap_vreg (x : Tap) (s : State) : (setTap x s).vreg = s.vreg := rfl
@[simp] theorem setTap_bead (x : Tap) (s : State) : (setTap x s).bead = s.bead := rfl
@[simp] theorem setTap_beads (x : Tap) (s : State) : (setTap x s).beads = s.beads := rfl
@[simp] theorem setTap_life (x : Tap) (s : State) : (setTap x s).life = s.life := rfl
@[simp] theorem setTap_out (x : Tap) (s : State) : (setTap x s).out = s.out := rfl
@[simp] theorem setTap_pending (x : Tap) (s : State) : (setTap x s).pending = s.pending := rfl
@[simp] theorem setTap_now (x : Tap) (s : State) : (setTap x s).now = s.now := rfl
@[simp] theorem setTap_freeN (x : Tap) (s : State) : (setTap x s).freeN = s.freeN := rfl
@[simp] theorem setTap_mgs (x : Tap) (s : State) : (setTap x s).mgs = s.mgs := rfl
@[simp] theorem setTap_strms (x : Tap) (s : State) : (setTap x s).strms = s.strms := rfl
@[simp] theorem setTap_kvs (x : Tap) (s : State) : (setTap x s).kvs = s.kvs := rfl
@[simp] theorem setTap_kvm (x : Tap) (s : State) : (setTap x s).kvm = s.kvm := rfl
@[simp] theorem setTap_hqs (x : Tap) (s : State) : (setTap x s).hqs = s.hqs := rfl
@[simp] theorem setTap_fns (x : Tap) (s : State) : (setTap x s).fns = s.fns := rfl
@[simp] theorem setTap_msix (x : Tap) (s : State) : (setTap x s).msix = s.msix := rfl
@[simp] theorem setTap_boot (x : Tap) (s : State) : (setTap x s).boot = s.boot := rfl
@[simp] theorem setTap_tap (x : Tap) (s : State) : (setTap x s).tap = x := rfl
@[simp] theorem setTap_thm (x : Tap) (s : State) : (setTap x s).thm = s.thm := rfl
@[simp] theorem setTap_links (x : Tap) (s : State) : (setTap x s).links = s.links := rfl
@[simp] theorem setTap_ports (x : Tap) (s : State) : (setTap x s).ports = s.ports := rfl
@[simp] theorem setTap_xlats (x : Tap) (s : State) : (setTap x s).xlats = s.xlats := rfl
@[simp] theorem setTap_e2e (x : Tap) (s : State) : (setTap x s).e2e = s.e2e := rfl
@[simp] theorem setTap_held (x : Tap) (s : State) : (setTap x s).held = s.held := rfl
@[simp] theorem setTap_resvs (x : Tap) (s : State) : (setTap x s).resvs = s.resvs := rfl
@[simp] theorem setTap_accPar (x : Tap) (s : State) : (setTap x s).accPar = s.accPar := rfl
@[simp] theorem setTap_hubTlb (x : Tap) (s : State) : (setTap x s).hubTlb = s.hubTlb := rfl
@[simp] theorem setTap_linkT (x : Tap) (s : State) : (setTap x s).linkT = s.linkT := rfl
@[simp] theorem setTap_portT (x : Tap) (s : State) : (setTap x s).portT = s.portT := rfl
@[simp] theorem setTap_reqs (x : Tap) (s : State) : (setTap x s).reqs = s.reqs := rfl
@[simp] theorem setTap_herdX (x : Tap) (s : State) : (setTap x s).herdX = s.herdX := rfl
@[simp] theorem setTap_brgs (x : Tap) (s : State) : (setTap x s).brgs = s.brgs := rfl
@[simp] theorem setTap_rlps (x : Tap) (s : State) : (setTap x s).rlps = s.rlps := rfl
@[simp] theorem setTap_isls (x : Tap) (s : State) : (setTap x s).isls = s.isls := rfl
@[simp] theorem setTap_cals (x : Tap) (s : State) : (setTap x s).cals = s.cals := rfl
@[simp] theorem setTap_pipes (x : Tap) (s : State) : (setTap x s).pipes = s.pipes := rfl
@[simp] theorem setTap_rlOut (x : Tap) (s : State) : (setTap x s).rlOut = s.rlOut := rfl
@[simp] theorem setTap_barHeld (x : Tap) (s : State) : (setTap x s).barHeld = s.barHeld := rfl

/-! `setThm` -/
@[simp] theorem setThm_regs (x : Thm) (s : State) : (setThm x s).regs = s.regs := rfl
@[simp] theorem setThm_shadow (x : Thm) (s : State) : (setThm x s).shadow = s.shadow := rfl
@[simp] theorem setThm_seqs (x : Thm) (s : State) : (setThm x s).seqs = s.seqs := rfl
@[simp] theorem setThm_spad (x : Thm) (s : State) : (setThm x s).spad = s.spad := rfl
@[simp] theorem setThm_acc (x : Thm) (s : State) : (setThm x s).acc = s.acc := rfl
@[simp] theorem setThm_vreg (x : Thm) (s : State) : (setThm x s).vreg = s.vreg := rfl
@[simp] theorem setThm_bead (x : Thm) (s : State) : (setThm x s).bead = s.bead := rfl
@[simp] theorem setThm_beads (x : Thm) (s : State) : (setThm x s).beads = s.beads := rfl
@[simp] theorem setThm_life (x : Thm) (s : State) : (setThm x s).life = s.life := rfl
@[simp] theorem setThm_out (x : Thm) (s : State) : (setThm x s).out = s.out := rfl
@[simp] theorem setThm_pending (x : Thm) (s : State) : (setThm x s).pending = s.pending := rfl
@[simp] theorem setThm_now (x : Thm) (s : State) : (setThm x s).now = s.now := rfl
@[simp] theorem setThm_freeN (x : Thm) (s : State) : (setThm x s).freeN = s.freeN := rfl
@[simp] theorem setThm_mgs (x : Thm) (s : State) : (setThm x s).mgs = s.mgs := rfl
@[simp] theorem setThm_strms (x : Thm) (s : State) : (setThm x s).strms = s.strms := rfl
@[simp] theorem setThm_kvs (x : Thm) (s : State) : (setThm x s).kvs = s.kvs := rfl
@[simp] theorem setThm_kvm (x : Thm) (s : State) : (setThm x s).kvm = s.kvm := rfl
@[simp] theorem setThm_hqs (x : Thm) (s : State) : (setThm x s).hqs = s.hqs := rfl
@[simp] theorem setThm_fns (x : Thm) (s : State) : (setThm x s).fns = s.fns := rfl
@[simp] theorem setThm_msix (x : Thm) (s : State) : (setThm x s).msix = s.msix := rfl
@[simp] theorem setThm_boot (x : Thm) (s : State) : (setThm x s).boot = s.boot := rfl
@[simp] theorem setThm_tap (x : Thm) (s : State) : (setThm x s).tap = s.tap := rfl
@[simp] theorem setThm_thm (x : Thm) (s : State) : (setThm x s).thm = x := rfl
@[simp] theorem setThm_links (x : Thm) (s : State) : (setThm x s).links = s.links := rfl
@[simp] theorem setThm_ports (x : Thm) (s : State) : (setThm x s).ports = s.ports := rfl
@[simp] theorem setThm_xlats (x : Thm) (s : State) : (setThm x s).xlats = s.xlats := rfl
@[simp] theorem setThm_e2e (x : Thm) (s : State) : (setThm x s).e2e = s.e2e := rfl
@[simp] theorem setThm_held (x : Thm) (s : State) : (setThm x s).held = s.held := rfl
@[simp] theorem setThm_resvs (x : Thm) (s : State) : (setThm x s).resvs = s.resvs := rfl
@[simp] theorem setThm_accPar (x : Thm) (s : State) : (setThm x s).accPar = s.accPar := rfl
@[simp] theorem setThm_hubTlb (x : Thm) (s : State) : (setThm x s).hubTlb = s.hubTlb := rfl
@[simp] theorem setThm_linkT (x : Thm) (s : State) : (setThm x s).linkT = s.linkT := rfl
@[simp] theorem setThm_portT (x : Thm) (s : State) : (setThm x s).portT = s.portT := rfl
@[simp] theorem setThm_reqs (x : Thm) (s : State) : (setThm x s).reqs = s.reqs := rfl
@[simp] theorem setThm_herdX (x : Thm) (s : State) : (setThm x s).herdX = s.herdX := rfl
@[simp] theorem setThm_brgs (x : Thm) (s : State) : (setThm x s).brgs = s.brgs := rfl
@[simp] theorem setThm_rlps (x : Thm) (s : State) : (setThm x s).rlps = s.rlps := rfl
@[simp] theorem setThm_isls (x : Thm) (s : State) : (setThm x s).isls = s.isls := rfl
@[simp] theorem setThm_cals (x : Thm) (s : State) : (setThm x s).cals = s.cals := rfl
@[simp] theorem setThm_pipes (x : Thm) (s : State) : (setThm x s).pipes = s.pipes := rfl
@[simp] theorem setThm_rlOut (x : Thm) (s : State) : (setThm x s).rlOut = s.rlOut := rfl
@[simp] theorem setThm_barHeld (x : Thm) (s : State) : (setThm x s).barHeld = s.barHeld := rfl

/-! `setXl` -/
@[simp] theorem setXl_regs (i : Nat) (x : XlatSt) (s : State) : (setXl i x s).regs = s.regs := rfl
@[simp] theorem setXl_shadow (i : Nat) (x : XlatSt) (s : State) : (setXl i x s).shadow = s.shadow := rfl
@[simp] theorem setXl_seqs (i : Nat) (x : XlatSt) (s : State) : (setXl i x s).seqs = s.seqs := rfl
@[simp] theorem setXl_spad (i : Nat) (x : XlatSt) (s : State) : (setXl i x s).spad = s.spad := rfl
@[simp] theorem setXl_acc (i : Nat) (x : XlatSt) (s : State) : (setXl i x s).acc = s.acc := rfl
@[simp] theorem setXl_vreg (i : Nat) (x : XlatSt) (s : State) : (setXl i x s).vreg = s.vreg := rfl
@[simp] theorem setXl_bead (i : Nat) (x : XlatSt) (s : State) : (setXl i x s).bead = s.bead := rfl
@[simp] theorem setXl_beads (i : Nat) (x : XlatSt) (s : State) : (setXl i x s).beads = s.beads := rfl
@[simp] theorem setXl_life (i : Nat) (x : XlatSt) (s : State) : (setXl i x s).life = s.life := rfl
@[simp] theorem setXl_out (i : Nat) (x : XlatSt) (s : State) : (setXl i x s).out = s.out := rfl
@[simp] theorem setXl_pending (i : Nat) (x : XlatSt) (s : State) : (setXl i x s).pending = s.pending := rfl
@[simp] theorem setXl_now (i : Nat) (x : XlatSt) (s : State) : (setXl i x s).now = s.now := rfl
@[simp] theorem setXl_freeN (i : Nat) (x : XlatSt) (s : State) : (setXl i x s).freeN = s.freeN := rfl
@[simp] theorem setXl_mgs (i : Nat) (x : XlatSt) (s : State) : (setXl i x s).mgs = s.mgs := rfl
@[simp] theorem setXl_strms (i : Nat) (x : XlatSt) (s : State) : (setXl i x s).strms = s.strms := rfl
@[simp] theorem setXl_kvs (i : Nat) (x : XlatSt) (s : State) : (setXl i x s).kvs = s.kvs := rfl
@[simp] theorem setXl_kvm (i : Nat) (x : XlatSt) (s : State) : (setXl i x s).kvm = s.kvm := rfl
@[simp] theorem setXl_hqs (i : Nat) (x : XlatSt) (s : State) : (setXl i x s).hqs = s.hqs := rfl
@[simp] theorem setXl_fns (i : Nat) (x : XlatSt) (s : State) : (setXl i x s).fns = s.fns := rfl
@[simp] theorem setXl_msix (i : Nat) (x : XlatSt) (s : State) : (setXl i x s).msix = s.msix := rfl
@[simp] theorem setXl_boot (i : Nat) (x : XlatSt) (s : State) : (setXl i x s).boot = s.boot := rfl
@[simp] theorem setXl_tap (i : Nat) (x : XlatSt) (s : State) : (setXl i x s).tap = s.tap := rfl
@[simp] theorem setXl_thm (i : Nat) (x : XlatSt) (s : State) : (setXl i x s).thm = s.thm := rfl
@[simp] theorem setXl_links (i : Nat) (x : XlatSt) (s : State) : (setXl i x s).links = s.links := rfl
@[simp] theorem setXl_ports (i : Nat) (x : XlatSt) (s : State) : (setXl i x s).ports = s.ports := rfl
@[simp] theorem setXl_xlats (i : Nat) (x : XlatSt) (s : State) : (setXl i x s).xlats = alSet s.xlats i x := rfl
@[simp] theorem setXl_e2e (i : Nat) (x : XlatSt) (s : State) : (setXl i x s).e2e = s.e2e := rfl
@[simp] theorem setXl_held (i : Nat) (x : XlatSt) (s : State) : (setXl i x s).held = s.held := rfl
@[simp] theorem setXl_resvs (i : Nat) (x : XlatSt) (s : State) : (setXl i x s).resvs = s.resvs := rfl
@[simp] theorem setXl_accPar (i : Nat) (x : XlatSt) (s : State) : (setXl i x s).accPar = s.accPar := rfl
@[simp] theorem setXl_hubTlb (i : Nat) (x : XlatSt) (s : State) : (setXl i x s).hubTlb = s.hubTlb := rfl
@[simp] theorem setXl_linkT (i : Nat) (x : XlatSt) (s : State) : (setXl i x s).linkT = s.linkT := rfl
@[simp] theorem setXl_portT (i : Nat) (x : XlatSt) (s : State) : (setXl i x s).portT = s.portT := rfl
@[simp] theorem setXl_reqs (i : Nat) (x : XlatSt) (s : State) : (setXl i x s).reqs = s.reqs := rfl
@[simp] theorem setXl_herdX (i : Nat) (x : XlatSt) (s : State) : (setXl i x s).herdX = s.herdX := rfl
@[simp] theorem setXl_brgs (i : Nat) (x : XlatSt) (s : State) : (setXl i x s).brgs = s.brgs := rfl
@[simp] theorem setXl_rlps (i : Nat) (x : XlatSt) (s : State) : (setXl i x s).rlps = s.rlps := rfl
@[simp] theorem setXl_isls (i : Nat) (x : XlatSt) (s : State) : (setXl i x s).isls = s.isls := rfl
@[simp] theorem setXl_cals (i : Nat) (x : XlatSt) (s : State) : (setXl i x s).cals = s.cals := rfl
@[simp] theorem setXl_pipes (i : Nat) (x : XlatSt) (s : State) : (setXl i x s).pipes = s.pipes := rfl
@[simp] theorem setXl_rlOut (i : Nat) (x : XlatSt) (s : State) : (setXl i x s).rlOut = s.rlOut := rfl
@[simp] theorem setXl_barHeld (i : Nat) (x : XlatSt) (s : State) : (setXl i x s).barHeld = s.barHeld := rfl

/-! `setPstate` -/
@[simp] theorem setPstate_shadow (i v : Nat) (s : State) : (setPstate i v s).shadow = s.shadow := setF_shadow _ _ _ _
@[simp] theorem setPstate_seqs (i v : Nat) (s : State) : (setPstate i v s).seqs = s.seqs := setF_seqs _ _ _ _
@[simp] theorem setPstate_spad (i v : Nat) (s : State) : (setPstate i v s).spad = s.spad := setF_spad _ _ _ _
@[simp] theorem setPstate_acc (i v : Nat) (s : State) : (setPstate i v s).acc = s.acc := setF_acc _ _ _ _
@[simp] theorem setPstate_vreg (i v : Nat) (s : State) : (setPstate i v s).vreg = s.vreg := setF_vreg _ _ _ _
@[simp] theorem setPstate_bead (i v : Nat) (s : State) : (setPstate i v s).bead = s.bead := setF_bead _ _ _ _
@[simp] theorem setPstate_beads (i v : Nat) (s : State) : (setPstate i v s).beads = s.beads := setF_beads _ _ _ _
@[simp] theorem setPstate_life (i v : Nat) (s : State) : (setPstate i v s).life = s.life := setF_life _ _ _ _
@[simp] theorem setPstate_out (i v : Nat) (s : State) : (setPstate i v s).out = s.out := setF_out _ _ _ _
@[simp] theorem setPstate_pending (i v : Nat) (s : State) : (setPstate i v s).pending = s.pending := setF_pending _ _ _ _
@[simp] theorem setPstate_now (i v : Nat) (s : State) : (setPstate i v s).now = s.now := setF_now _ _ _ _
@[simp] theorem setPstate_freeN (i v : Nat) (s : State) : (setPstate i v s).freeN = s.freeN := setF_freeN _ _ _ _
@[simp] theorem setPstate_mgs (i v : Nat) (s : State) : (setPstate i v s).mgs = s.mgs := setF_mgs _ _ _ _
@[simp] theorem setPstate_strms (i v : Nat) (s : State) : (setPstate i v s).strms = s.strms := setF_strms _ _ _ _
@[simp] theorem setPstate_kvs (i v : Nat) (s : State) : (setPstate i v s).kvs = s.kvs := setF_kvs _ _ _ _
@[simp] theorem setPstate_kvm (i v : Nat) (s : State) : (setPstate i v s).kvm = s.kvm := setF_kvm _ _ _ _
@[simp] theorem setPstate_hqs (i v : Nat) (s : State) : (setPstate i v s).hqs = s.hqs := setF_hqs _ _ _ _
@[simp] theorem setPstate_fns (i v : Nat) (s : State) : (setPstate i v s).fns = s.fns := setF_fns _ _ _ _
@[simp] theorem setPstate_msix (i v : Nat) (s : State) : (setPstate i v s).msix = s.msix := setF_msix _ _ _ _
@[simp] theorem setPstate_boot (i v : Nat) (s : State) : (setPstate i v s).boot = s.boot := setF_boot _ _ _ _
@[simp] theorem setPstate_tap (i v : Nat) (s : State) : (setPstate i v s).tap = s.tap := setF_tap _ _ _ _
@[simp] theorem setPstate_thm (i v : Nat) (s : State) : (setPstate i v s).thm = s.thm := setF_thm _ _ _ _
@[simp] theorem setPstate_links (i v : Nat) (s : State) : (setPstate i v s).links = s.links := setF_links _ _ _ _
@[simp] theorem setPstate_ports (i v : Nat) (s : State) : (setPstate i v s).ports = s.ports := setF_ports _ _ _ _
@[simp] theorem setPstate_xlats (i v : Nat) (s : State) : (setPstate i v s).xlats = s.xlats := setF_xlats _ _ _ _
@[simp] theorem setPstate_e2e (i v : Nat) (s : State) : (setPstate i v s).e2e = s.e2e := setF_e2e _ _ _ _
@[simp] theorem setPstate_held (i v : Nat) (s : State) : (setPstate i v s).held = s.held := setF_held _ _ _ _
@[simp] theorem setPstate_resvs (i v : Nat) (s : State) : (setPstate i v s).resvs = s.resvs := setF_resvs _ _ _ _

/-! `vPut` -/
@[simp] theorem vPut_regs (i r l v : Nat) (b : Bool) (s : State) : (vPut i r l v b s).regs = s.regs := rfl
@[simp] theorem vPut_shadow (i r l v : Nat) (b : Bool) (s : State) : (vPut i r l v b s).shadow = s.shadow := rfl
@[simp] theorem vPut_seqs (i r l v : Nat) (b : Bool) (s : State) : (vPut i r l v b s).seqs = s.seqs := rfl
@[simp] theorem vPut_spad (i r l v : Nat) (b : Bool) (s : State) : (vPut i r l v b s).spad = s.spad := rfl
@[simp] theorem vPut_acc (i r l v : Nat) (b : Bool) (s : State) : (vPut i r l v b s).acc = s.acc := rfl
@[simp] theorem vPut_bead (i r l v : Nat) (b : Bool) (s : State) : (vPut i r l v b s).bead = s.bead := rfl
@[simp] theorem vPut_beads (i r l v : Nat) (b : Bool) (s : State) : (vPut i r l v b s).beads = s.beads := rfl
@[simp] theorem vPut_life (i r l v : Nat) (b : Bool) (s : State) : (vPut i r l v b s).life = s.life := rfl
@[simp] theorem vPut_out (i r l v : Nat) (b : Bool) (s : State) : (vPut i r l v b s).out = s.out := rfl
@[simp] theorem vPut_pending (i r l v : Nat) (b : Bool) (s : State) : (vPut i r l v b s).pending = s.pending := rfl
@[simp] theorem vPut_now (i r l v : Nat) (b : Bool) (s : State) : (vPut i r l v b s).now = s.now := rfl
@[simp] theorem vPut_freeN (i r l v : Nat) (b : Bool) (s : State) : (vPut i r l v b s).freeN = s.freeN := rfl
@[simp] theorem vPut_mgs (i r l v : Nat) (b : Bool) (s : State) : (vPut i r l v b s).mgs = s.mgs := rfl
@[simp] theorem vPut_strms (i r l v : Nat) (b : Bool) (s : State) : (vPut i r l v b s).strms = s.strms := rfl
@[simp] theorem vPut_kvs (i r l v : Nat) (b : Bool) (s : State) : (vPut i r l v b s).kvs = s.kvs := rfl
@[simp] theorem vPut_kvm (i r l v : Nat) (b : Bool) (s : State) : (vPut i r l v b s).kvm = s.kvm := rfl
@[simp] theorem vPut_hqs (i r l v : Nat) (b : Bool) (s : State) : (vPut i r l v b s).hqs = s.hqs := rfl
@[simp] theorem vPut_fns (i r l v : Nat) (b : Bool) (s : State) : (vPut i r l v b s).fns = s.fns := rfl
@[simp] theorem vPut_msix (i r l v : Nat) (b : Bool) (s : State) : (vPut i r l v b s).msix = s.msix := rfl
@[simp] theorem vPut_boot (i r l v : Nat) (b : Bool) (s : State) : (vPut i r l v b s).boot = s.boot := rfl
@[simp] theorem vPut_tap (i r l v : Nat) (b : Bool) (s : State) : (vPut i r l v b s).tap = s.tap := rfl
@[simp] theorem vPut_thm (i r l v : Nat) (b : Bool) (s : State) : (vPut i r l v b s).thm = s.thm := rfl
@[simp] theorem vPut_links (i r l v : Nat) (b : Bool) (s : State) : (vPut i r l v b s).links = s.links := rfl
@[simp] theorem vPut_ports (i r l v : Nat) (b : Bool) (s : State) : (vPut i r l v b s).ports = s.ports := rfl
@[simp] theorem vPut_xlats (i r l v : Nat) (b : Bool) (s : State) : (vPut i r l v b s).xlats = s.xlats := rfl
@[simp] theorem vPut_e2e (i r l v : Nat) (b : Bool) (s : State) : (vPut i r l v b s).e2e = s.e2e := rfl
@[simp] theorem vPut_held (i r l v : Nat) (b : Bool) (s : State) : (vPut i r l v b s).held = s.held := rfl
@[simp] theorem vPut_resvs (i r l v : Nat) (b : Bool) (s : State) : (vPut i r l v b s).resvs = s.resvs := rfl
@[simp] theorem vPut_accPar (i r l v : Nat) (b : Bool) (s : State) : (vPut i r l v b s).accPar = s.accPar := rfl
@[simp] theorem vPut_hubTlb (i r l v : Nat) (b : Bool) (s : State) : (vPut i r l v b s).hubTlb = s.hubTlb := rfl
@[simp] theorem vPut_linkT (i r l v : Nat) (b : Bool) (s : State) : (vPut i r l v b s).linkT = s.linkT := rfl
@[simp] theorem vPut_portT (i r l v : Nat) (b : Bool) (s : State) : (vPut i r l v b s).portT = s.portT := rfl
@[simp] theorem vPut_reqs (i r l v : Nat) (b : Bool) (s : State) : (vPut i r l v b s).reqs = s.reqs := rfl
@[simp] theorem vPut_herdX (i r l v : Nat) (b : Bool) (s : State) : (vPut i r l v b s).herdX = s.herdX := rfl
@[simp] theorem vPut_brgs (i r l v : Nat) (b : Bool) (s : State) : (vPut i r l v b s).brgs = s.brgs := rfl
@[simp] theorem vPut_rlps (i r l v : Nat) (b : Bool) (s : State) : (vPut i r l v b s).rlps = s.rlps := rfl
@[simp] theorem vPut_isls (i r l v : Nat) (b : Bool) (s : State) : (vPut i r l v b s).isls = s.isls := rfl
@[simp] theorem vPut_cals (i r l v : Nat) (b : Bool) (s : State) : (vPut i r l v b s).cals = s.cals := rfl
@[simp] theorem vPut_pipes (i r l v : Nat) (b : Bool) (s : State) : (vPut i r l v b s).pipes = s.pipes := rfl
@[simp] theorem vPut_rlOut (i r l v : Nat) (b : Bool) (s : State) : (vPut i r l v b s).rlOut = s.rlOut := rfl
@[simp] theorem vPut_barHeld (i r l v : Nat) (b : Bool) (s : State) : (vPut i r l v b s).barHeld = s.barHeld := rfl

/-! `accPut` -/
@[simp] theorem accPut_regs (i e v : Nat) (b : Bool) (s : State) : (accPut i e v b s).regs = s.regs := rfl
@[simp] theorem accPut_shadow (i e v : Nat) (b : Bool) (s : State) : (accPut i e v b s).shadow = s.shadow := rfl
@[simp] theorem accPut_seqs (i e v : Nat) (b : Bool) (s : State) : (accPut i e v b s).seqs = s.seqs := rfl
@[simp] theorem accPut_spad (i e v : Nat) (b : Bool) (s : State) : (accPut i e v b s).spad = s.spad := rfl
@[simp] theorem accPut_vreg (i e v : Nat) (b : Bool) (s : State) : (accPut i e v b s).vreg = s.vreg := rfl
@[simp] theorem accPut_bead (i e v : Nat) (b : Bool) (s : State) : (accPut i e v b s).bead = s.bead := rfl
@[simp] theorem accPut_beads (i e v : Nat) (b : Bool) (s : State) : (accPut i e v b s).beads = s.beads := rfl
@[simp] theorem accPut_life (i e v : Nat) (b : Bool) (s : State) : (accPut i e v b s).life = s.life := rfl
@[simp] theorem accPut_out (i e v : Nat) (b : Bool) (s : State) : (accPut i e v b s).out = s.out := rfl
@[simp] theorem accPut_pending (i e v : Nat) (b : Bool) (s : State) : (accPut i e v b s).pending = s.pending := rfl
@[simp] theorem accPut_now (i e v : Nat) (b : Bool) (s : State) : (accPut i e v b s).now = s.now := rfl
@[simp] theorem accPut_freeN (i e v : Nat) (b : Bool) (s : State) : (accPut i e v b s).freeN = s.freeN := rfl
@[simp] theorem accPut_mgs (i e v : Nat) (b : Bool) (s : State) : (accPut i e v b s).mgs = s.mgs := rfl
@[simp] theorem accPut_strms (i e v : Nat) (b : Bool) (s : State) : (accPut i e v b s).strms = s.strms := rfl
@[simp] theorem accPut_kvs (i e v : Nat) (b : Bool) (s : State) : (accPut i e v b s).kvs = s.kvs := rfl
@[simp] theorem accPut_kvm (i e v : Nat) (b : Bool) (s : State) : (accPut i e v b s).kvm = s.kvm := rfl
@[simp] theorem accPut_hqs (i e v : Nat) (b : Bool) (s : State) : (accPut i e v b s).hqs = s.hqs := rfl
@[simp] theorem accPut_fns (i e v : Nat) (b : Bool) (s : State) : (accPut i e v b s).fns = s.fns := rfl
@[simp] theorem accPut_msix (i e v : Nat) (b : Bool) (s : State) : (accPut i e v b s).msix = s.msix := rfl
@[simp] theorem accPut_boot (i e v : Nat) (b : Bool) (s : State) : (accPut i e v b s).boot = s.boot := rfl
@[simp] theorem accPut_tap (i e v : Nat) (b : Bool) (s : State) : (accPut i e v b s).tap = s.tap := rfl
@[simp] theorem accPut_thm (i e v : Nat) (b : Bool) (s : State) : (accPut i e v b s).thm = s.thm := rfl
@[simp] theorem accPut_links (i e v : Nat) (b : Bool) (s : State) : (accPut i e v b s).links = s.links := rfl
@[simp] theorem accPut_ports (i e v : Nat) (b : Bool) (s : State) : (accPut i e v b s).ports = s.ports := rfl
@[simp] theorem accPut_xlats (i e v : Nat) (b : Bool) (s : State) : (accPut i e v b s).xlats = s.xlats := rfl
@[simp] theorem accPut_e2e (i e v : Nat) (b : Bool) (s : State) : (accPut i e v b s).e2e = s.e2e := rfl
@[simp] theorem accPut_held (i e v : Nat) (b : Bool) (s : State) : (accPut i e v b s).held = s.held := rfl
@[simp] theorem accPut_resvs (i e v : Nat) (b : Bool) (s : State) : (accPut i e v b s).resvs = s.resvs := rfl
@[simp] theorem accPut_accPar (i e v : Nat) (b : Bool) (s : State) : (accPut i e v b s).accPar = nsErase s.accPar (i * 0x4000 + e) := rfl
@[simp] theorem accPut_hubTlb (i e v : Nat) (b : Bool) (s : State) : (accPut i e v b s).hubTlb = s.hubTlb := rfl
@[simp] theorem accPut_linkT (i e v : Nat) (b : Bool) (s : State) : (accPut i e v b s).linkT = s.linkT := rfl
@[simp] theorem accPut_portT (i e v : Nat) (b : Bool) (s : State) : (accPut i e v b s).portT = s.portT := rfl
@[simp] theorem accPut_reqs (i e v : Nat) (b : Bool) (s : State) : (accPut i e v b s).reqs = s.reqs := rfl
@[simp] theorem accPut_herdX (i e v : Nat) (b : Bool) (s : State) : (accPut i e v b s).herdX = s.herdX := rfl
@[simp] theorem accPut_brgs (i e v : Nat) (b : Bool) (s : State) : (accPut i e v b s).brgs = s.brgs := rfl
@[simp] theorem accPut_rlps (i e v : Nat) (b : Bool) (s : State) : (accPut i e v b s).rlps = s.rlps := rfl
@[simp] theorem accPut_isls (i e v : Nat) (b : Bool) (s : State) : (accPut i e v b s).isls = s.isls := rfl
@[simp] theorem accPut_cals (i e v : Nat) (b : Bool) (s : State) : (accPut i e v b s).cals = s.cals := rfl
@[simp] theorem accPut_pipes (i e v : Nat) (b : Bool) (s : State) : (accPut i e v b s).pipes = s.pipes := rfl
@[simp] theorem accPut_rlOut (i e v : Nat) (b : Bool) (s : State) : (accPut i e v b s).rlOut = s.rlOut := rfl
@[simp] theorem accPut_barHeld (i e v : Nat) (b : Bool) (s : State) : (accPut i e v b s).barHeld = s.barHeld := rfl

/-! `setBrgX` -/
@[simp] theorem setBrgX_regs (n : Nat) (x : BrgX) (s : State) : (setBrgX n x s).regs = s.regs := rfl
@[simp] theorem setBrgX_shadow (n : Nat) (x : BrgX) (s : State) : (setBrgX n x s).shadow = s.shadow := rfl
@[simp] theorem setBrgX_seqs (n : Nat) (x : BrgX) (s : State) : (setBrgX n x s).seqs = s.seqs := rfl
@[simp] theorem setBrgX_spad (n : Nat) (x : BrgX) (s : State) : (setBrgX n x s).spad = s.spad := rfl
@[simp] theorem setBrgX_acc (n : Nat) (x : BrgX) (s : State) : (setBrgX n x s).acc = s.acc := rfl
@[simp] theorem setBrgX_vreg (n : Nat) (x : BrgX) (s : State) : (setBrgX n x s).vreg = s.vreg := rfl
@[simp] theorem setBrgX_bead (n : Nat) (x : BrgX) (s : State) : (setBrgX n x s).bead = s.bead := rfl
@[simp] theorem setBrgX_beads (n : Nat) (x : BrgX) (s : State) : (setBrgX n x s).beads = s.beads := rfl
@[simp] theorem setBrgX_life (n : Nat) (x : BrgX) (s : State) : (setBrgX n x s).life = s.life := rfl
@[simp] theorem setBrgX_out (n : Nat) (x : BrgX) (s : State) : (setBrgX n x s).out = s.out := rfl
@[simp] theorem setBrgX_pending (n : Nat) (x : BrgX) (s : State) : (setBrgX n x s).pending = s.pending := rfl
@[simp] theorem setBrgX_now (n : Nat) (x : BrgX) (s : State) : (setBrgX n x s).now = s.now := rfl
@[simp] theorem setBrgX_freeN (n : Nat) (x : BrgX) (s : State) : (setBrgX n x s).freeN = s.freeN := rfl
@[simp] theorem setBrgX_mgs (n : Nat) (x : BrgX) (s : State) : (setBrgX n x s).mgs = s.mgs := rfl
@[simp] theorem setBrgX_strms (n : Nat) (x : BrgX) (s : State) : (setBrgX n x s).strms = s.strms := rfl
@[simp] theorem setBrgX_kvs (n : Nat) (x : BrgX) (s : State) : (setBrgX n x s).kvs = s.kvs := rfl
@[simp] theorem setBrgX_kvm (n : Nat) (x : BrgX) (s : State) : (setBrgX n x s).kvm = s.kvm := rfl
@[simp] theorem setBrgX_hqs (n : Nat) (x : BrgX) (s : State) : (setBrgX n x s).hqs = s.hqs := rfl
@[simp] theorem setBrgX_fns (n : Nat) (x : BrgX) (s : State) : (setBrgX n x s).fns = s.fns := rfl
@[simp] theorem setBrgX_msix (n : Nat) (x : BrgX) (s : State) : (setBrgX n x s).msix = s.msix := rfl
@[simp] theorem setBrgX_boot (n : Nat) (x : BrgX) (s : State) : (setBrgX n x s).boot = s.boot := rfl
@[simp] theorem setBrgX_tap (n : Nat) (x : BrgX) (s : State) : (setBrgX n x s).tap = s.tap := rfl
@[simp] theorem setBrgX_thm (n : Nat) (x : BrgX) (s : State) : (setBrgX n x s).thm = s.thm := rfl
@[simp] theorem setBrgX_links (n : Nat) (x : BrgX) (s : State) : (setBrgX n x s).links = s.links := rfl
@[simp] theorem setBrgX_ports (n : Nat) (x : BrgX) (s : State) : (setBrgX n x s).ports = s.ports := rfl
@[simp] theorem setBrgX_xlats (n : Nat) (x : BrgX) (s : State) : (setBrgX n x s).xlats = s.xlats := rfl
@[simp] theorem setBrgX_e2e (n : Nat) (x : BrgX) (s : State) : (setBrgX n x s).e2e = s.e2e := rfl
@[simp] theorem setBrgX_held (n : Nat) (x : BrgX) (s : State) : (setBrgX n x s).held = s.held := rfl
@[simp] theorem setBrgX_resvs (n : Nat) (x : BrgX) (s : State) : (setBrgX n x s).resvs = s.resvs := rfl
@[simp] theorem setBrgX_accPar (n : Nat) (x : BrgX) (s : State) : (setBrgX n x s).accPar = s.accPar := rfl
@[simp] theorem setBrgX_hubTlb (n : Nat) (x : BrgX) (s : State) : (setBrgX n x s).hubTlb = s.hubTlb := rfl
@[simp] theorem setBrgX_linkT (n : Nat) (x : BrgX) (s : State) : (setBrgX n x s).linkT = s.linkT := rfl
@[simp] theorem setBrgX_portT (n : Nat) (x : BrgX) (s : State) : (setBrgX n x s).portT = s.portT := rfl
@[simp] theorem setBrgX_reqs (n : Nat) (x : BrgX) (s : State) : (setBrgX n x s).reqs = s.reqs := rfl
@[simp] theorem setBrgX_herdX (n : Nat) (x : BrgX) (s : State) : (setBrgX n x s).herdX = s.herdX := rfl
@[simp] theorem setBrgX_brgs (n : Nat) (x : BrgX) (s : State) : (setBrgX n x s).brgs = alPut BrgX.rest s.brgs n x := rfl
@[simp] theorem setBrgX_rlps (n : Nat) (x : BrgX) (s : State) : (setBrgX n x s).rlps = s.rlps := rfl
@[simp] theorem setBrgX_isls (n : Nat) (x : BrgX) (s : State) : (setBrgX n x s).isls = s.isls := rfl
@[simp] theorem setBrgX_cals (n : Nat) (x : BrgX) (s : State) : (setBrgX n x s).cals = s.cals := rfl
@[simp] theorem setBrgX_pipes (n : Nat) (x : BrgX) (s : State) : (setBrgX n x s).pipes = s.pipes := rfl
@[simp] theorem setBrgX_rlOut (n : Nat) (x : BrgX) (s : State) : (setBrgX n x s).rlOut = s.rlOut := rfl
@[simp] theorem setBrgX_barHeld (n : Nat) (x : BrgX) (s : State) : (setBrgX n x s).barHeld = s.barHeld := rfl

/-! `setRlpX` -/
@[simp] theorem setRlpX_regs (p : Nat) (x : RlpX) (s : State) : (setRlpX p x s).regs = s.regs := rfl
@[simp] theorem setRlpX_shadow (p : Nat) (x : RlpX) (s : State) : (setRlpX p x s).shadow = s.shadow := rfl
@[simp] theorem setRlpX_seqs (p : Nat) (x : RlpX) (s : State) : (setRlpX p x s).seqs = s.seqs := rfl
@[simp] theorem setRlpX_spad (p : Nat) (x : RlpX) (s : State) : (setRlpX p x s).spad = s.spad := rfl
@[simp] theorem setRlpX_acc (p : Nat) (x : RlpX) (s : State) : (setRlpX p x s).acc = s.acc := rfl
@[simp] theorem setRlpX_vreg (p : Nat) (x : RlpX) (s : State) : (setRlpX p x s).vreg = s.vreg := rfl
@[simp] theorem setRlpX_bead (p : Nat) (x : RlpX) (s : State) : (setRlpX p x s).bead = s.bead := rfl
@[simp] theorem setRlpX_beads (p : Nat) (x : RlpX) (s : State) : (setRlpX p x s).beads = s.beads := rfl
@[simp] theorem setRlpX_life (p : Nat) (x : RlpX) (s : State) : (setRlpX p x s).life = s.life := rfl
@[simp] theorem setRlpX_out (p : Nat) (x : RlpX) (s : State) : (setRlpX p x s).out = s.out := rfl
@[simp] theorem setRlpX_pending (p : Nat) (x : RlpX) (s : State) : (setRlpX p x s).pending = s.pending := rfl
@[simp] theorem setRlpX_now (p : Nat) (x : RlpX) (s : State) : (setRlpX p x s).now = s.now := rfl
@[simp] theorem setRlpX_freeN (p : Nat) (x : RlpX) (s : State) : (setRlpX p x s).freeN = s.freeN := rfl
@[simp] theorem setRlpX_mgs (p : Nat) (x : RlpX) (s : State) : (setRlpX p x s).mgs = s.mgs := rfl
@[simp] theorem setRlpX_strms (p : Nat) (x : RlpX) (s : State) : (setRlpX p x s).strms = s.strms := rfl
@[simp] theorem setRlpX_kvs (p : Nat) (x : RlpX) (s : State) : (setRlpX p x s).kvs = s.kvs := rfl
@[simp] theorem setRlpX_kvm (p : Nat) (x : RlpX) (s : State) : (setRlpX p x s).kvm = s.kvm := rfl
@[simp] theorem setRlpX_hqs (p : Nat) (x : RlpX) (s : State) : (setRlpX p x s).hqs = s.hqs := rfl
@[simp] theorem setRlpX_fns (p : Nat) (x : RlpX) (s : State) : (setRlpX p x s).fns = s.fns := rfl
@[simp] theorem setRlpX_msix (p : Nat) (x : RlpX) (s : State) : (setRlpX p x s).msix = s.msix := rfl
@[simp] theorem setRlpX_boot (p : Nat) (x : RlpX) (s : State) : (setRlpX p x s).boot = s.boot := rfl
@[simp] theorem setRlpX_tap (p : Nat) (x : RlpX) (s : State) : (setRlpX p x s).tap = s.tap := rfl
@[simp] theorem setRlpX_thm (p : Nat) (x : RlpX) (s : State) : (setRlpX p x s).thm = s.thm := rfl
@[simp] theorem setRlpX_links (p : Nat) (x : RlpX) (s : State) : (setRlpX p x s).links = s.links := rfl
@[simp] theorem setRlpX_ports (p : Nat) (x : RlpX) (s : State) : (setRlpX p x s).ports = s.ports := rfl
@[simp] theorem setRlpX_xlats (p : Nat) (x : RlpX) (s : State) : (setRlpX p x s).xlats = s.xlats := rfl
@[simp] theorem setRlpX_e2e (p : Nat) (x : RlpX) (s : State) : (setRlpX p x s).e2e = s.e2e := rfl
@[simp] theorem setRlpX_held (p : Nat) (x : RlpX) (s : State) : (setRlpX p x s).held = s.held := rfl
@[simp] theorem setRlpX_resvs (p : Nat) (x : RlpX) (s : State) : (setRlpX p x s).resvs = s.resvs := rfl
@[simp] theorem setRlpX_accPar (p : Nat) (x : RlpX) (s : State) : (setRlpX p x s).accPar = s.accPar := rfl
@[simp] theorem setRlpX_hubTlb (p : Nat) (x : RlpX) (s : State) : (setRlpX p x s).hubTlb = s.hubTlb := rfl
@[simp] theorem setRlpX_linkT (p : Nat) (x : RlpX) (s : State) : (setRlpX p x s).linkT = s.linkT := rfl
@[simp] theorem setRlpX_portT (p : Nat) (x : RlpX) (s : State) : (setRlpX p x s).portT = s.portT := rfl
@[simp] theorem setRlpX_reqs (p : Nat) (x : RlpX) (s : State) : (setRlpX p x s).reqs = s.reqs := rfl
@[simp] theorem setRlpX_herdX (p : Nat) (x : RlpX) (s : State) : (setRlpX p x s).herdX = s.herdX := rfl
@[simp] theorem setRlpX_brgs (p : Nat) (x : RlpX) (s : State) : (setRlpX p x s).brgs = s.brgs := rfl
@[simp] theorem setRlpX_rlps (p : Nat) (x : RlpX) (s : State) : (setRlpX p x s).rlps = alPut RlpX.rest s.rlps p x := rfl
@[simp] theorem setRlpX_isls (p : Nat) (x : RlpX) (s : State) : (setRlpX p x s).isls = s.isls := rfl
@[simp] theorem setRlpX_cals (p : Nat) (x : RlpX) (s : State) : (setRlpX p x s).cals = s.cals := rfl
@[simp] theorem setRlpX_pipes (p : Nat) (x : RlpX) (s : State) : (setRlpX p x s).pipes = s.pipes := rfl
@[simp] theorem setRlpX_rlOut (p : Nat) (x : RlpX) (s : State) : (setRlpX p x s).rlOut = s.rlOut := rfl
@[simp] theorem setRlpX_barHeld (p : Nat) (x : RlpX) (s : State) : (setRlpX p x s).barHeld = s.barHeld := rfl

/-! `setHx` -/
@[simp] theorem setHx_regs (n : Nat) (x : HerdX) (s : State) : (setHx n x s).regs = s.regs := rfl
@[simp] theorem setHx_shadow (n : Nat) (x : HerdX) (s : State) : (setHx n x s).shadow = s.shadow := rfl
@[simp] theorem setHx_seqs (n : Nat) (x : HerdX) (s : State) : (setHx n x s).seqs = s.seqs := rfl
@[simp] theorem setHx_spad (n : Nat) (x : HerdX) (s : State) : (setHx n x s).spad = s.spad := rfl
@[simp] theorem setHx_acc (n : Nat) (x : HerdX) (s : State) : (setHx n x s).acc = s.acc := rfl
@[simp] theorem setHx_vreg (n : Nat) (x : HerdX) (s : State) : (setHx n x s).vreg = s.vreg := rfl
@[simp] theorem setHx_bead (n : Nat) (x : HerdX) (s : State) : (setHx n x s).bead = s.bead := rfl
@[simp] theorem setHx_beads (n : Nat) (x : HerdX) (s : State) : (setHx n x s).beads = s.beads := rfl
@[simp] theorem setHx_life (n : Nat) (x : HerdX) (s : State) : (setHx n x s).life = s.life := rfl
@[simp] theorem setHx_out (n : Nat) (x : HerdX) (s : State) : (setHx n x s).out = s.out := rfl
@[simp] theorem setHx_pending (n : Nat) (x : HerdX) (s : State) : (setHx n x s).pending = s.pending := rfl
@[simp] theorem setHx_now (n : Nat) (x : HerdX) (s : State) : (setHx n x s).now = s.now := rfl
@[simp] theorem setHx_freeN (n : Nat) (x : HerdX) (s : State) : (setHx n x s).freeN = s.freeN := rfl
@[simp] theorem setHx_mgs (n : Nat) (x : HerdX) (s : State) : (setHx n x s).mgs = s.mgs := rfl
@[simp] theorem setHx_strms (n : Nat) (x : HerdX) (s : State) : (setHx n x s).strms = s.strms := rfl
@[simp] theorem setHx_kvs (n : Nat) (x : HerdX) (s : State) : (setHx n x s).kvs = s.kvs := rfl
@[simp] theorem setHx_kvm (n : Nat) (x : HerdX) (s : State) : (setHx n x s).kvm = s.kvm := rfl
@[simp] theorem setHx_hqs (n : Nat) (x : HerdX) (s : State) : (setHx n x s).hqs = s.hqs := rfl
@[simp] theorem setHx_fns (n : Nat) (x : HerdX) (s : State) : (setHx n x s).fns = s.fns := rfl
@[simp] theorem setHx_msix (n : Nat) (x : HerdX) (s : State) : (setHx n x s).msix = s.msix := rfl
@[simp] theorem setHx_boot (n : Nat) (x : HerdX) (s : State) : (setHx n x s).boot = s.boot := rfl
@[simp] theorem setHx_tap (n : Nat) (x : HerdX) (s : State) : (setHx n x s).tap = s.tap := rfl
@[simp] theorem setHx_thm (n : Nat) (x : HerdX) (s : State) : (setHx n x s).thm = s.thm := rfl
@[simp] theorem setHx_links (n : Nat) (x : HerdX) (s : State) : (setHx n x s).links = s.links := rfl
@[simp] theorem setHx_ports (n : Nat) (x : HerdX) (s : State) : (setHx n x s).ports = s.ports := rfl
@[simp] theorem setHx_xlats (n : Nat) (x : HerdX) (s : State) : (setHx n x s).xlats = s.xlats := rfl
@[simp] theorem setHx_e2e (n : Nat) (x : HerdX) (s : State) : (setHx n x s).e2e = s.e2e := rfl
@[simp] theorem setHx_held (n : Nat) (x : HerdX) (s : State) : (setHx n x s).held = s.held := rfl
@[simp] theorem setHx_resvs (n : Nat) (x : HerdX) (s : State) : (setHx n x s).resvs = s.resvs := rfl
@[simp] theorem setHx_accPar (n : Nat) (x : HerdX) (s : State) : (setHx n x s).accPar = s.accPar := rfl
@[simp] theorem setHx_hubTlb (n : Nat) (x : HerdX) (s : State) : (setHx n x s).hubTlb = s.hubTlb := rfl
@[simp] theorem setHx_linkT (n : Nat) (x : HerdX) (s : State) : (setHx n x s).linkT = s.linkT := rfl
@[simp] theorem setHx_portT (n : Nat) (x : HerdX) (s : State) : (setHx n x s).portT = s.portT := rfl
@[simp] theorem setHx_reqs (n : Nat) (x : HerdX) (s : State) : (setHx n x s).reqs = s.reqs := rfl
@[simp] theorem setHx_herdX (n : Nat) (x : HerdX) (s : State) : (setHx n x s).herdX = alSet s.herdX n x := rfl
@[simp] theorem setHx_brgs (n : Nat) (x : HerdX) (s : State) : (setHx n x s).brgs = s.brgs := rfl
@[simp] theorem setHx_rlps (n : Nat) (x : HerdX) (s : State) : (setHx n x s).rlps = s.rlps := rfl
@[simp] theorem setHx_isls (n : Nat) (x : HerdX) (s : State) : (setHx n x s).isls = s.isls := rfl
@[simp] theorem setHx_cals (n : Nat) (x : HerdX) (s : State) : (setHx n x s).cals = s.cals := rfl
@[simp] theorem setHx_pipes (n : Nat) (x : HerdX) (s : State) : (setHx n x s).pipes = s.pipes := rfl
@[simp] theorem setHx_rlOut (n : Nat) (x : HerdX) (s : State) : (setHx n x s).rlOut = s.rlOut := rfl
@[simp] theorem setHx_barHeld (n : Nat) (x : HerdX) (s : State) : (setHx n x s).barHeld = s.barHeld := rfl

/-! `setIsl` -/
@[simp] theorem setIsl_regs (j : Nat) (x : IslX) (s : State) : (setIsl j x s).regs = s.regs := rfl
@[simp] theorem setIsl_shadow (j : Nat) (x : IslX) (s : State) : (setIsl j x s).shadow = s.shadow := rfl
@[simp] theorem setIsl_seqs (j : Nat) (x : IslX) (s : State) : (setIsl j x s).seqs = s.seqs := rfl
@[simp] theorem setIsl_spad (j : Nat) (x : IslX) (s : State) : (setIsl j x s).spad = s.spad := rfl
@[simp] theorem setIsl_acc (j : Nat) (x : IslX) (s : State) : (setIsl j x s).acc = s.acc := rfl
@[simp] theorem setIsl_vreg (j : Nat) (x : IslX) (s : State) : (setIsl j x s).vreg = s.vreg := rfl
@[simp] theorem setIsl_bead (j : Nat) (x : IslX) (s : State) : (setIsl j x s).bead = s.bead := rfl
@[simp] theorem setIsl_beads (j : Nat) (x : IslX) (s : State) : (setIsl j x s).beads = s.beads := rfl
@[simp] theorem setIsl_life (j : Nat) (x : IslX) (s : State) : (setIsl j x s).life = s.life := rfl
@[simp] theorem setIsl_out (j : Nat) (x : IslX) (s : State) : (setIsl j x s).out = s.out := rfl
@[simp] theorem setIsl_pending (j : Nat) (x : IslX) (s : State) : (setIsl j x s).pending = s.pending := rfl
@[simp] theorem setIsl_now (j : Nat) (x : IslX) (s : State) : (setIsl j x s).now = s.now := rfl
@[simp] theorem setIsl_freeN (j : Nat) (x : IslX) (s : State) : (setIsl j x s).freeN = s.freeN := rfl
@[simp] theorem setIsl_mgs (j : Nat) (x : IslX) (s : State) : (setIsl j x s).mgs = s.mgs := rfl
@[simp] theorem setIsl_strms (j : Nat) (x : IslX) (s : State) : (setIsl j x s).strms = s.strms := rfl
@[simp] theorem setIsl_kvs (j : Nat) (x : IslX) (s : State) : (setIsl j x s).kvs = s.kvs := rfl
@[simp] theorem setIsl_kvm (j : Nat) (x : IslX) (s : State) : (setIsl j x s).kvm = s.kvm := rfl
@[simp] theorem setIsl_hqs (j : Nat) (x : IslX) (s : State) : (setIsl j x s).hqs = s.hqs := rfl
@[simp] theorem setIsl_fns (j : Nat) (x : IslX) (s : State) : (setIsl j x s).fns = s.fns := rfl
@[simp] theorem setIsl_msix (j : Nat) (x : IslX) (s : State) : (setIsl j x s).msix = s.msix := rfl
@[simp] theorem setIsl_boot (j : Nat) (x : IslX) (s : State) : (setIsl j x s).boot = s.boot := rfl
@[simp] theorem setIsl_tap (j : Nat) (x : IslX) (s : State) : (setIsl j x s).tap = s.tap := rfl
@[simp] theorem setIsl_thm (j : Nat) (x : IslX) (s : State) : (setIsl j x s).thm = s.thm := rfl
@[simp] theorem setIsl_links (j : Nat) (x : IslX) (s : State) : (setIsl j x s).links = s.links := rfl
@[simp] theorem setIsl_ports (j : Nat) (x : IslX) (s : State) : (setIsl j x s).ports = s.ports := rfl
@[simp] theorem setIsl_xlats (j : Nat) (x : IslX) (s : State) : (setIsl j x s).xlats = s.xlats := rfl
@[simp] theorem setIsl_e2e (j : Nat) (x : IslX) (s : State) : (setIsl j x s).e2e = s.e2e := rfl
@[simp] theorem setIsl_held (j : Nat) (x : IslX) (s : State) : (setIsl j x s).held = s.held := rfl
@[simp] theorem setIsl_resvs (j : Nat) (x : IslX) (s : State) : (setIsl j x s).resvs = s.resvs := rfl
@[simp] theorem setIsl_accPar (j : Nat) (x : IslX) (s : State) : (setIsl j x s).accPar = s.accPar := rfl
@[simp] theorem setIsl_hubTlb (j : Nat) (x : IslX) (s : State) : (setIsl j x s).hubTlb = s.hubTlb := rfl
@[simp] theorem setIsl_linkT (j : Nat) (x : IslX) (s : State) : (setIsl j x s).linkT = s.linkT := rfl
@[simp] theorem setIsl_portT (j : Nat) (x : IslX) (s : State) : (setIsl j x s).portT = s.portT := rfl
@[simp] theorem setIsl_reqs (j : Nat) (x : IslX) (s : State) : (setIsl j x s).reqs = s.reqs := rfl
@[simp] theorem setIsl_herdX (j : Nat) (x : IslX) (s : State) : (setIsl j x s).herdX = s.herdX := rfl
@[simp] theorem setIsl_brgs (j : Nat) (x : IslX) (s : State) : (setIsl j x s).brgs = s.brgs := rfl
@[simp] theorem setIsl_rlps (j : Nat) (x : IslX) (s : State) : (setIsl j x s).rlps = s.rlps := rfl
@[simp] theorem setIsl_isls (j : Nat) (x : IslX) (s : State) : (setIsl j x s).isls = alPut IslX.cold s.isls j x := rfl
@[simp] theorem setIsl_cals (j : Nat) (x : IslX) (s : State) : (setIsl j x s).cals = s.cals := rfl
@[simp] theorem setIsl_pipes (j : Nat) (x : IslX) (s : State) : (setIsl j x s).pipes = s.pipes := rfl
@[simp] theorem setIsl_rlOut (j : Nat) (x : IslX) (s : State) : (setIsl j x s).rlOut = s.rlOut := rfl
@[simp] theorem setIsl_barHeld (j : Nat) (x : IslX) (s : State) : (setIsl j x s).barHeld = s.barHeld := rfl

/-! `setCal` -/
@[simp] theorem setCal_regs (i c : Nat) (x : Cal) (s : State) : (setCal i c x s).regs = s.regs := rfl
@[simp] theorem setCal_shadow (i c : Nat) (x : Cal) (s : State) : (setCal i c x s).shadow = s.shadow := rfl
@[simp] theorem setCal_seqs (i c : Nat) (x : Cal) (s : State) : (setCal i c x s).seqs = s.seqs := rfl
@[simp] theorem setCal_spad (i c : Nat) (x : Cal) (s : State) : (setCal i c x s).spad = s.spad := rfl
@[simp] theorem setCal_acc (i c : Nat) (x : Cal) (s : State) : (setCal i c x s).acc = s.acc := rfl
@[simp] theorem setCal_vreg (i c : Nat) (x : Cal) (s : State) : (setCal i c x s).vreg = s.vreg := rfl
@[simp] theorem setCal_bead (i c : Nat) (x : Cal) (s : State) : (setCal i c x s).bead = s.bead := rfl
@[simp] theorem setCal_beads (i c : Nat) (x : Cal) (s : State) : (setCal i c x s).beads = s.beads := rfl
@[simp] theorem setCal_life (i c : Nat) (x : Cal) (s : State) : (setCal i c x s).life = s.life := rfl
@[simp] theorem setCal_out (i c : Nat) (x : Cal) (s : State) : (setCal i c x s).out = s.out := rfl
@[simp] theorem setCal_pending (i c : Nat) (x : Cal) (s : State) : (setCal i c x s).pending = s.pending := rfl
@[simp] theorem setCal_now (i c : Nat) (x : Cal) (s : State) : (setCal i c x s).now = s.now := rfl
@[simp] theorem setCal_freeN (i c : Nat) (x : Cal) (s : State) : (setCal i c x s).freeN = s.freeN := rfl
@[simp] theorem setCal_mgs (i c : Nat) (x : Cal) (s : State) : (setCal i c x s).mgs = s.mgs := rfl
@[simp] theorem setCal_strms (i c : Nat) (x : Cal) (s : State) : (setCal i c x s).strms = s.strms := rfl
@[simp] theorem setCal_kvs (i c : Nat) (x : Cal) (s : State) : (setCal i c x s).kvs = s.kvs := rfl
@[simp] theorem setCal_kvm (i c : Nat) (x : Cal) (s : State) : (setCal i c x s).kvm = s.kvm := rfl
@[simp] theorem setCal_hqs (i c : Nat) (x : Cal) (s : State) : (setCal i c x s).hqs = s.hqs := rfl
@[simp] theorem setCal_fns (i c : Nat) (x : Cal) (s : State) : (setCal i c x s).fns = s.fns := rfl
@[simp] theorem setCal_msix (i c : Nat) (x : Cal) (s : State) : (setCal i c x s).msix = s.msix := rfl
@[simp] theorem setCal_boot (i c : Nat) (x : Cal) (s : State) : (setCal i c x s).boot = s.boot := rfl
@[simp] theorem setCal_tap (i c : Nat) (x : Cal) (s : State) : (setCal i c x s).tap = s.tap := rfl
@[simp] theorem setCal_thm (i c : Nat) (x : Cal) (s : State) : (setCal i c x s).thm = s.thm := rfl
@[simp] theorem setCal_links (i c : Nat) (x : Cal) (s : State) : (setCal i c x s).links = s.links := rfl
@[simp] theorem setCal_ports (i c : Nat) (x : Cal) (s : State) : (setCal i c x s).ports = s.ports := rfl
@[simp] theorem setCal_xlats (i c : Nat) (x : Cal) (s : State) : (setCal i c x s).xlats = s.xlats := rfl
@[simp] theorem setCal_e2e (i c : Nat) (x : Cal) (s : State) : (setCal i c x s).e2e = s.e2e := rfl
@[simp] theorem setCal_held (i c : Nat) (x : Cal) (s : State) : (setCal i c x s).held = s.held := rfl
@[simp] theorem setCal_resvs (i c : Nat) (x : Cal) (s : State) : (setCal i c x s).resvs = s.resvs := rfl
@[simp] theorem setCal_accPar (i c : Nat) (x : Cal) (s : State) : (setCal i c x s).accPar = s.accPar := rfl
@[simp] theorem setCal_hubTlb (i c : Nat) (x : Cal) (s : State) : (setCal i c x s).hubTlb = s.hubTlb := rfl
@[simp] theorem setCal_linkT (i c : Nat) (x : Cal) (s : State) : (setCal i c x s).linkT = s.linkT := rfl
@[simp] theorem setCal_portT (i c : Nat) (x : Cal) (s : State) : (setCal i c x s).portT = s.portT := rfl
@[simp] theorem setCal_reqs (i c : Nat) (x : Cal) (s : State) : (setCal i c x s).reqs = s.reqs := rfl
@[simp] theorem setCal_herdX (i c : Nat) (x : Cal) (s : State) : (setCal i c x s).herdX = s.herdX := rfl
@[simp] theorem setCal_brgs (i c : Nat) (x : Cal) (s : State) : (setCal i c x s).brgs = s.brgs := rfl
@[simp] theorem setCal_rlps (i c : Nat) (x : Cal) (s : State) : (setCal i c x s).rlps = s.rlps := rfl
@[simp] theorem setCal_isls (i c : Nat) (x : Cal) (s : State) : (setCal i c x s).isls = s.isls := rfl
@[simp] theorem setCal_cals (i c : Nat) (x : Cal) (s : State) : (setCal i c x s).cals = alPut ⟨false, false, false, 0, false, 0⟩ s.cals (i * 2 + c) x := rfl
@[simp] theorem setCal_pipes (i c : Nat) (x : Cal) (s : State) : (setCal i c x s).pipes = s.pipes := rfl
@[simp] theorem setCal_rlOut (i c : Nat) (x : Cal) (s : State) : (setCal i c x s).rlOut = s.rlOut := rfl
@[simp] theorem setCal_barHeld (i c : Nat) (x : Cal) (s : State) : (setCal i c x s).barHeld = s.barHeld := rfl

end Sys2Proof.Machine
end

