-- ==== Sys2Proof/Laws/Events.lean ====
section
/-! SUPPORT. What raising an event and writing a tally record can do: registers other than PG_EVT of the page and MB_LOGSEQ stay, and so does
all state but the log of MGS, held notifications, MSI-X entries and what is sent. -/
namespace Sys2Proof.Machine

/-- The log of MGS is all of it that differs, and a ring with a record keeps one. -/
structure LogOnly (m n : Mgs) : Prop where
  rest : n = { m with seq := n.seq, ring := n.ring, pend := n.pend, fifo := n.fifo, fifoOvf := n.fifoOvf }
  ring : m.ring ≠ [] → n.ring ≠ []

theorem LogOnly.refl (m : Mgs) : LogOnly m m := ⟨rfl, id⟩

theorem LogOnly.trans {a b c : Mgs} (h : LogOnly a b) (k : LogOnly b c) : LogOnly a c := by
  obtain ⟨h, h'⟩ := h
  obtain ⟨k, k'⟩ := k
  exact ⟨by rw [k, h], fun x => k' (h' x)⟩

/-- The log leaves the trial slot and whether it has been started. -/
theorem LogOnly.trial {m n : Mgs} (h : LogOnly m n) : n.trial = m.trial ∧ n.trialRun = m.trialRun := by
  rw [h.rest]; exact ⟨rfl, rfl⟩

/-- Between `s` and `t` only registers, the log of MGS, held notifications, MSI-X entries and what is sent differ. -/
structure EventsOnly (s t : State) : Prop where
  rest : t = { s with regs := t.regs, mgs := t.mgs, held := t.held, msix := t.msix, out := t.out }
  log : LogOnly s.mgs t.mgs

theorem EventsOnly.refl (s : State) : EventsOnly s s := ⟨rfl, .refl _⟩

theorem EventsOnly.trans {a b c : State} (h : EventsOnly a b) (k : EventsOnly b c) : EventsOnly a c := by
  obtain ⟨h, l⟩ := h
  obtain ⟨k, m⟩ := k
  exact ⟨by rw [k, h], l.trans m⟩

theorem EventsOnly.boot {s t : State} (h : EventsOnly s t) : t.boot = s.boot := by rw [h.rest]

/-- A run of steps that each change no more than an event changes no more. -/
theorem EventsOnly.foldl {α : Type} (f : State → α → State) (l : List α) (s : State) (h : ∀ t, ∀ x ∈ l, EventsOnly t (f t x)) :
    EventsOnly s (l.foldl f s) := by
  induction l generalizing s with
  | nil => exact .refl s
  | cons x l ih => exact (h s x List.mem_cons_self).trans (ih _ fun t y hy => h t y (List.mem_cons_of_mem _ hy))

theorem wrW_only (a : Nat) (v : Word) (s : State) : EventsOnly s (wrW a v s) := ⟨rfl, .refl _⟩

theorem setF_only (p : Nat) (f : Field) (v : Nat) (s : State) : EventsOnly s (setF p f v s) := wrW_only _ _ _

theorem bump_only (p : Nat) (f : Field) (v : Nat) (s : State) : EventsOnly s (bump p f v s) := setF_only _ _ _ _

/-- A record that the log takes stands in its ring. -/
theorem tallyNow_ring (r : TRec) (s : State) : (tallyNow r s).mgs.ring ≠ [] := by
  simp only [tallyNow, wr64, wrW, ne_eq, List.drop_eq_nil_iff, List.length_append, List.length_singleton]
  omega

theorem tallyNow_only (r : TRec) (s : State) : EventsOnly s (tallyNow r s) :=
  ⟨by simp only [tallyNow, wr64, wrW], by simp only [tallyNow, wr64, wrW], fun _ => tallyNow_ring r s⟩

theorem tally_only (k c d p i : Nat) (b : List Byte) (s : State) : EventsOnly s (tally k c d p i b s) := by
  unfold tally
  dsimp only
  split
  · exact tallyNow_only _ _
  · exact tallyNow_only _ _
  · split <;> exact ⟨rfl, rfl, id⟩
  · exact ⟨rfl, rfl, id⟩

theorem sendMsix_only (fn vec : Nat) (s : State) : EventsOnly s (sendMsix fn vec s) := by
  unfold sendMsix
  dsimp only
  split
  · exact .refl _
  · split <;> exact ⟨rfl, .refl _⟩

theorem holdNote_only (p : Nat) (s : State) : EventsOnly s (holdNote p s) := by
  unfold holdNote
  dsimp only
  split
  · exact ⟨rfl, .refl _⟩
  · exact .trans (b := { s with held := alSet s.held p true }) ⟨rfl, .refl _⟩ (tally_only _ _ _ _ _ _ _)

theorem deliver_only (p : Nat) (s : State) : EventsOnly s (deliver p s) := by
  unfold deliver
  split
  · split
    · exact .refl _
    · exact sendMsix_only _ _ _
  · exact tally_only _ _ _ _ _ _ _
  · exact holdNote_only _ _
  · exact .refl _

/-- Raising an event changes registers, the log of MGS, held notifications, MSI-X entries and what is sent, and nothing else. -/
theorem raise_only (p b : Nat) (s : State) : EventsOnly s (raise p b s) := by
  have h1 : EventsOnly s (wrW (p + 0x10) (rdW (p + 0x10) s ||| BitVec.ofNat 32 (2 ^ b)) s) := wrW_only _ _ _
  unfold raise
  extract_lets was s1 goes s2
  have h2 : EventsOnly s s2 := by
    unfold s2
    split
    · exact h1.trans (tally_only _ _ _ _ _ _ _)
    · exact h1
  split
  · exact h2.trans (deliver_only _ _)
  · exact h2

@[simp] theorem raise_seqs (p b : Nat) (s : State) : (raise p b s).seqs = s.seqs := by rw [(raise_only p b s).rest]
@[simp] theorem raise_spad (p b : Nat) (s : State) : (raise p b s).spad = s.spad := by rw [(raise_only p b s).rest]
@[simp] theorem raise_bead (p b : Nat) (s : State) : (raise p b s).bead = s.bead := by rw [(raise_only p b s).rest]
@[simp] theorem raise_acc (p b : Nat) (s : State) : (raise p b s).acc = s.acc := by rw [(raise_only p b s).rest]
@[simp] theorem raise_vreg (p b : Nat) (s : State) : (raise p b s).vreg = s.vreg := by rw [(raise_only p b s).rest]
@[simp] theorem raise_life (p b : Nat) (s : State) : (raise p b s).life = s.life := by rw [(raise_only p b s).rest]
@[simp] theorem raise_now (p b : Nat) (s : State) : (raise p b s).now = s.now := by rw [(raise_only p b s).rest]
@[simp] theorem raise_pending (p b : Nat) (s : State) : (raise p b s).pending = s.pending := by rw [(raise_only p b s).rest]
@[simp] theorem raise_freeN (p b : Nat) (s : State) : (raise p b s).freeN = s.freeN := by rw [(raise_only p b s).rest]
@[simp] theorem raise_fns (p b : Nat) (s : State) : (raise p b s).fns = s.fns := by rw [(raise_only p b s).rest]
@[simp] theorem raise_strms (p b : Nat) (s : State) : (raise p b s).strms = s.strms := by rw [(raise_only p b s).rest]
@[simp] theorem raise_thm (p b : Nat) (s : State) : (raise p b s).thm = s.thm := by rw [(raise_only p b s).rest]
@[simp] theorem raise_boot (p b : Nat) (s : State) : (raise p b s).boot = s.boot := by rw [(raise_only p b s).rest]
@[simp] theorem raise_tap (p b : Nat) (s : State) : (raise p b s).tap = s.tap := by rw [(raise_only p b s).rest]
@[simp] theorem raise_hqs (p b : Nat) (s : State) : (raise p b s).hqs = s.hqs := by rw [(raise_only p b s).rest]
@[simp] theorem raise_kvm (p b : Nat) (s : State) : (raise p b s).kvm = s.kvm := by rw [(raise_only p b s).rest]
@[simp] theorem raise_shadow (p b : Nat) (s : State) : (raise p b s).shadow = s.shadow := by rw [(raise_only p b s).rest]

/-- A tally record writes MB_LOGSEQ and no other register. -/
theorem rdW_tally {a : Nat} (k c d p i : Nat) (b : List Byte) (s : State) (h : canon a ≠ 0x10098) (h' : canon a ≠ 0x1009C) :
    rdW a (tally k c d p i b s) = rdW a s := by
  unfold tally
  dsimp only
  split
  · unfold tallyNow wr64
    dsimp only
    rw [rdW_wrW_ne _ _ (show canon a ≠ canon (mgsP 0 + 0x98 + 4) from h'), rdW_wrW_ne _ _ (show canon a ≠ canon (mgsP 0 + 0x98) from h)]
    rfl
  · unfold tallyNow wr64
    dsimp only
    rw [rdW_wrW_ne _ _ (show canon a ≠ canon (mgsP 0 + 0x98 + 4) from h'), rdW_wrW_ne _ _ (show canon a ≠ canon (mgsP 0 + 0x98) from h)]
    rfl
  · split <;> rfl
  · rfl

theorem rdW_sendMsix (a fn vec : Nat) (s : State) : rdW a (sendMsix fn vec s) = rdW a s := by
  unfold sendMsix
  dsimp only
  split
  · rfl
  · split <;> rfl

theorem rdW_deliver {a : Nat} (p : Nat) (s : State) (h : canon a ≠ 0x10098) (h' : canon a ≠ 0x1009C) :
    rdW a (deliver p s) = rdW a s := by
  unfold deliver
  split
  · split
    · rfl
    · exact rdW_sendMsix _ _ _ _
  · exact rdW_tally _ _ _ _ _ _ _ h h'
  · unfold holdNote
    dsimp only
    split
    · rfl
    · rw [rdW_tally _ _ _ _ _ _ _ h h']; rfl
  · rfl

/-- Raising an event writes PG_EVT of its page, and MB_LOGSEQ where the log takes a record. -/
theorem rdW_raise {a : Nat} (p b : Nat) (s : State) (he : canon a ≠ canon (p + 0x10)) (h : canon a ≠ 0x10098) (h' : canon a ≠ 0x1009C) :
    rdW a (raise p b s) = rdW a s := by
  unfold raise
  extract_lets was s1 goes s2
  have h1 : rdW a s1 = rdW a s := rdW_wrW_ne _ _ he
  have h2 : rdW a s2 = rdW a s := by
    unfold s2
    split
    · rw [rdW_tally _ _ _ _ _ _ _ h h', h1]
    · exact h1
  split
  · rw [rdW_deliver _ _ h h', h2]
  · exact h2

/-- Above the mailbox pages, a register other than a PG_EVT stays when an event is raised. -/
theorem rdW_raise_high {a : Nat} (p b : Nat) (s : State) (ha : 0x90000 ≤ a) (he : a % 0x1000 ≠ (p + 0x10) % 0x1000) :
    rdW a (raise p b s) = rdW a s := by
  refine rdW_raise _ _ _ (fun e => he ?_) ?_ ?_
  · rw [← canon_mod a, e, canon_mod]
  · rw [canon_high ha]; omega
  · rw [canon_high ha]; omega

theorem getF_raise_high {q : Nat} {f : Field} (p b : Nat) (s : State) (ha : 0x90000 ≤ q + f.off)
    (he : (q + f.off) % 0x1000 ≠ (p + 0x10) % 0x1000) : getF q f (raise p b s) = getF q f s :=
  getF_of_rdW (rdW_raise_high _ _ _ ha he)

/-- The raised bit of PG_EVT is set and its other bits stay. -/
theorem rdW_raise_evt (p b : Nat) (s : State) (h : canon (p + 0x10) ≠ 0x10098) (h' : canon (p + 0x10) ≠ 0x1009C) :
    rdW (p + 0x10) (raise p b s) = rdW (p + 0x10) s ||| BitVec.ofNat 32 (2 ^ b) := by
  unfold raise
  extract_lets was s1 goes s2
  have h1 : rdW (p + 0x10) s1 = rdW (p + 0x10) s ||| BitVec.ofNat 32 (2 ^ b) := rdW_wrW_same _ _ _
  have h2 : rdW (p + 0x10) s2 = rdW (p + 0x10) s ||| BitVec.ofNat 32 (2 ^ b) := by
    unfold s2
    split
    · rw [rdW_tally _ _ _ _ _ _ _ h h', h1]
    · exact h1
  split
  · rw [rdW_deliver _ _ h h', h2]
  · exact h2

theorem bitOf_testBit (n k : Nat) : bitOf n k = n.testBit k := by
  unfold bitOf
  rw [Nat.testBit_eq_decide_div_mod_eq]
  rfl

/-- A raised event is pending. -/
theorem raise_bit (p b : Nat) (s : State) (hb : b < 32) (h : canon (p + 0x10) ≠ 0x10098) (h' : canon (p + 0x10) ≠ 0x1009C) :
    bitOf (rdW (p + 0x10) (raise p b s)).toNat b = true := by
  rw [rdW_raise_evt p b s h h', bitOf_testBit, BitVec.toNat_or, Nat.testBit_or, BitVec.toNat_ofNat, Nat.testBit_mod_two_pow, Nat.testBit_two_pow_self]
  simp [hb]

end Sys2Proof.Machine
end

