-- ==== Sys2Proof/Laws/Errors.lean ====
section
/-! SUPPORT. What recording a correctable error can do: beside what an event changes, the page's summary time and the detail kept for
PG_ERR_NEXT, and nothing else. -/
namespace Sys2Proof.Machine

/-- Between `s` and `t` only what an event or a correctable error changes differs. -/
structure ErrorsOnly (s t : State) : Prop where
  rest : t = { s with
    regs := t.regs, mgs := t.mgs, held := t.held, msix := t.msix, out := t.out, nextDetail := t.nextDetail, summaries := t.summaries }
  log : LogOnly s.mgs t.mgs

theorem ErrorsOnly.refl (s : State) : ErrorsOnly s s := ⟨rfl, .refl _⟩

theorem ErrorsOnly.trans {a b c : State} (h : ErrorsOnly a b) (k : ErrorsOnly b c) : ErrorsOnly a c := by
  obtain ⟨h, l⟩ := h
  obtain ⟨k, m⟩ := k
  exact ⟨by rw [k, h], l.trans m⟩

/-- An event changes no more than that. -/
theorem EventsOnly.errors {s t : State} (h : EventsOnly s t) : ErrorsOnly s t := by
  obtain ⟨h, l⟩ := h
  exact ⟨by rw [h], l⟩

theorem ErrorsOnly.ite {c : Prop} [Decidable c] {s a b : State} (h : ErrorsOnly s a) (k : ErrorsOnly s b) :
    ErrorsOnly s (if c then a else b) := by
  split <;> assumption

theorem recordRegs_only (p code detail : Nat) (s : State) : ErrorsOnly s (recordRegs p code 0 detail s).2 := by
  have f (q : Nat) (g : Field) (v : Nat) {u : State} (h : ErrorsOnly s u) : ErrorsOnly s (setF q g v u) := h.trans (setF_only _ _ _ _).errors
  have r (q b : Nat) {u : State} (h : ErrorsOnly s u) : ErrorsOnly s (raise q b u) := h.trans (raise_only _ _ _).errors
  unfold recordRegs
  extract_lets sevBit up
  have u (x : State) (h : ErrorsOnly s x) : ErrorsOnly s (up x) := .ite h (r _ _ h)
  clear_value up
  split
  · exact u _ (f _ _ _ (f _ _ _ (f _ _ _ (f _ _ _ (.refl s)))))
  · split
    · have h : ErrorsOnly s { s with nextDetail := alSet s.nextDetail p detail } := ⟨rfl, .refl _⟩
      exact u _ (f _ _ _ (f _ _ _ (f _ _ _ h)))
    · rename_i s1 hi s2 _ _
      have e : ErrorsOnly s s1 := (bump_only _ _ _ _).errors
      have g : ErrorsOnly s1 { s1 with nextDetail := alSet s1.nextDetail p detail } := ⟨rfl, .refl _⟩
      have h : ErrorsOnly s s2 := .ite (f _ _ _ (f _ _ _ (e.trans g))) e
      exact u _ (r _ _ h)

theorem ErrorsOnly.ite_pos {c : Prop} [Decidable c] {s a b : State} (h : c) (k : ErrorsOnly s a) : ErrorsOnly s (if c then a else b) := by
  rwa [if_pos h]

theorem ErrorsOnly.ite_neg {c : Prop} [Decidable c] {s a b : State} (h : ¬ c) (k : ErrorsOnly s b) : ErrorsOnly s (if c then a else b) := by
  rwa [if_neg h]

/-- Recording a correctable error changes registers, the log of MGS, held notifications, MSI-X entries, what is sent, the page's summary
time and the detail of PG_ERR_NEXT, and nothing else. -/
theorem recordCE_only (p code detail loc : Nat) (s : State) : ErrorsOnly s (recordCE p code detail loc s) := by
  unfold recordCE recordErr
  refine .ite_neg (by decide) ?_
  unfold recordWith
  extract_lets before cnt0 s0 cnt hit s1 sm s2
  have h0 : ErrorsOnly s s0 := .ite_pos rfl (bump_only _ _ _ _).errors
  have h1 : ErrorsOnly s s1 := .ite (h0.trans (raise_only _ _ _).errors) h0
  have k : ErrorsOnly s1 { s1 with summaries := alSet s1.summaries p s1.now } := ⟨rfl, .refl _⟩
  have h2 : ErrorsOnly s s2 := .ite (h1.trans k) h1
  have h3 := h2.trans (recordRegs_only p code detail s2)
  clear_value s2 sm hit cnt before
  generalize recordRegs p code 0 detail s2 = r at h3
  obtain ⟨recd, s3⟩ := r
  dsimp -zeta only
  extract_lets hit' s4 s5 s6 mk s7
  have h4 : ErrorsOnly s s4 := .ite_neg (by decide) h3
  have h5 : ErrorsOnly s s5 := .ite_neg (by decide) h4
  have h6 : ErrorsOnly s s6 := .ite_neg (by decide) h5
  have h7 : ErrorsOnly s s7 := .ite (h6.trans (tally_only _ _ _ _ _ _ _).errors) h6
  exact .ite_neg (by decide) h7

end Sys2Proof.Machine
end

