-- ==== Sys2Proof/Laws/Seq.lean ====
section
/-! SUPPORT. Laws of the sequencer: its cells, the checks of issue, tokens, and what an issue leaves alone. -/
namespace Sys2Proof.Machine

/-! ### Cells -/

@[simp] theorem seqOf_setSeq_same (i : Nat) (q : SeqSt) (s : State) : seqOf i (setSeq i q s) = q := by simp [seqOf, setSeq, alGetD]

theorem seqOf_setSeq_ne {i j : Nat} (q : SeqSt) (s : State) (h : j ≠ i) : seqOf j (setSeq i q s) = seqOf j s := by
  simp [seqOf, setSeq, alGetD, alGet_alSet_ne _ _ h]

theorem seqOf_seqs {s t : State} (h : t.seqs = s.seqs) (i : Nat) : seqOf i t = seqOf i s := by unfold seqOf; rw [h]

@[simp] theorem seqOf_wrW (i a : Nat) (v : Word) (s : State) : seqOf i (wrW a v s) = seqOf i s := rfl
@[simp] theorem seqOf_setF (i p : Nat) (f : Field) (v : Nat) (s : State) : seqOf i (setF p f v s) = seqOf i s := rfl
@[simp] theorem seqOf_bump (i p : Nat) (f : Field) (v : Nat) (s : State) : seqOf i (bump p f v s) = seqOf i s := seqOf_seqs (bump_seqs _ _ _ _) i
@[simp] theorem seqOf_wr64 (i a v : Nat) (s : State) : seqOf i (wr64 a v s) = seqOf i s := seqOf_seqs (wr64_seqs _ _ _) i
@[simp] theorem seqOf_bump64 (i a v : Nat) (s : State) : seqOf i (bump64 a v s) = seqOf i s := seqOf_seqs (bump64_seqs _ _ _) i
@[simp] theorem seqOf_raise (i p b : Nat) (s : State) : seqOf i (raise p b s) = seqOf i s := seqOf_seqs (raise_seqs _ _ _) i
@[simp] theorem seqOf_setPstate (i j v : Nat) (s : State) : seqOf i (setPstate j v s) = seqOf i s := seqOf_setF _ _ _ _ _

@[simp] theorem rdW_setSeq (a i : Nat) (q : SeqSt) (s : State) : rdW a (setSeq i q s) = rdW a s := rfl
@[simp] theorem getF_setSeq (p : Nat) (f : Field) (i : Nat) (q : SeqSt) (s : State) : getF p f (setSeq i q s) = getF p f s := rfl

theorem listSet_get {α : Type} (l : List α) (n : Nat) (v : α) (h : n < l.length) : (listSet l n v)[n]? = some v := by
  induction l generalizing n with
  | nil => simp at h
  | cons a t ih =>
    cases n with
    | zero => simp [listSet]
    | succ k => simpa [listSet] using ih k (by simpa using h)

theorem listSet_get_ne {α : Type} (l : List α) {n m : Nat} (v : α) (h : m ≠ n) : (listSet l n v)[m]? = l[m]? := by
  induction l generalizing n m with
  | nil => simp [listSet]
  | cons a t ih =>
    cases n with
    | zero => cases m with
      | zero => exact absurd rfl h
      | succ k => simp [listSet]
    | succ k => cases m with
      | zero => simp [listSet]
      | succ j => simpa [listSet] using ih (n := k) (m := j) (by omega)

@[simp] theorem listSet_length {α : Type} (l : List α) (n : Nat) (v : α) : (listSet l n v).length = l.length := by
  induction l generalizing n with
  | nil => simp [listSet]
  | cons a t ih => cases n <;> simp [listSet, ih]

/-! ### Registers of a rod -/

/-- A register above the mailbox pages is one register of its own. -/
theorem canon_ne_high {a b : Nat} (hb : 0x90000 ≤ b) (h : a ≠ b) : canon a ≠ canon b := by
  rw [canon_high hb]
  unfold canon
  split <;> omega

/-- Only registers and sequencers differ between `s` and `t`. -/
structure RegsSeqs (s t : State) : Prop where
  rest : t = { s with regs := t.regs, seqs := t.seqs }

theorem RegsSeqs.refl (s : State) : RegsSeqs s s := ⟨rfl⟩
theorem RegsSeqs.trans {a b c : State} (h : RegsSeqs a b) (k : RegsSeqs b c) : RegsSeqs a c := by
  obtain ⟨h⟩ := h
  obtain ⟨k⟩ := k
  constructor
  rw [k, h]
theorem RegsSeqs.wrW {s t : State} (a : Nat) (v : Word) (h : RegsSeqs s t) : RegsSeqs s (wrW a v t) := h.trans ⟨rfl⟩
theorem RegsSeqs.setF {s t : State} (p : Nat) (f : Field) (v : Nat) (h : RegsSeqs s t) : RegsSeqs s (setF p f v t) := h.wrW _ _
theorem RegsSeqs.wr64 {s t : State} (a v : Nat) (h : RegsSeqs s t) : RegsSeqs s (wr64 a v t) := (h.wrW _ _).wrW _ _
theorem RegsSeqs.bump64 {s t : State} (a v : Nat) (h : RegsSeqs s t) : RegsSeqs s (bump64 a v t) := h.wr64 _ _
theorem RegsSeqs.setSeq {s t : State} (i : Nat) (q : SeqSt) (h : RegsSeqs s t) : RegsSeqs s (setSeq i q t) := h.trans ⟨rfl⟩
theorem RegsSeqs.countIssue {s t : State} (i : Nat) (h : RegsSeqs s t) : RegsSeqs s (countIssue i t) :=
  ((h.setSeq _ _).setF _ _ _).bump64 _ _

/-! ### Issue -/

/-- A command issues only in RUN, or in PAUSED for a step. -/
theorem come_goes_pstate {i : Nat} {w : CmdWord} {s : State} (h : come i w s = .goes) : pstate i s = 1 ∨ pstate i s = 5 := by
  unfold come at h
  dsimp only at h
  split at h
  · simp at h
  · rename_i h1
    have h2 : (pstate i s == 1 || (pstate i s == 5 && (seqOf i s).stepReq)) = true := by
      cases h3 : (pstate i s == 1 || (pstate i s == 5 && (seqOf i s).stepReq)) with
      | true => rfl
      | false => rw [h3] at h1; simp at h1
    rcases Bool.or_eq_true _ _ |>.mp h2 with h3 | h3
    · exact .inl (by simpa using h3)
    · exact .inr (by simpa using (Bool.and_eq_true _ _ |>.mp h3).1)

/-- What an issue leaves of the sequencer: its waits consumed, the issue counted, a step over. -/
theorem seqOf_countIssue (i : Nat) (s : State) :
    seqOf i (countIssue i s) = { seqOf i s with num := (seqOf i s).num + 1, stepReq := false, bpTaken := false, stall := none } := by
  unfold countIssue
  rw [seqOf_bump64, seqOf_setF, seqOf_setSeq_same]

theorem seqOf_countIssue_ne {i j : Nat} (s : State) (h : j ≠ i) : seqOf j (countIssue i s) = seqOf j s := by
  unfold countIssue
  rw [seqOf_bump64, seqOf_setF, seqOf_setSeq_ne _ _ h]

/-- An issue writes SEQ_STALL and SEQ_COUNT. -/
theorem rdW_countIssue {a : Nat} (i : Nat) (s : State) (h : a ≠ seqP i + 0xC8) (h' : a ≠ seqP i + 0xD0) (h2 : a ≠ seqP i + 0xD4) :
    rdW a (countIssue i s) = rdW a s := by
  unfold countIssue bump64 wr64
  have hp : 0x90000 ≤ seqP i := by unfold seqP rodP; omega
  rw [rdW_wrW_ne _ _ (canon_ne_high (by omega) h2), rdW_wrW_ne _ _ (canon_ne_high (by omega) h'),
    rdW_setF_ne _ _ (canon_ne_high (b := seqP i + SEQ_STALL_ISSUE.off) (by show 0x90000 ≤ seqP i + 0xC8; omega) h), rdW_setSeq]

@[simp] theorem pcOf_setSeq (i j : Nat) (q : SeqSt) (s : State) : pcOf i (setSeq j q s) = pcOf i s := by unfold pcOf; exact getF_setSeq _ _ _ _ _
@[simp] theorem pstate_setSeq (i j : Nat) (q : SeqSt) (s : State) : pstate i (setSeq j q s) = pstate i s := by unfold pstate; exact getF_setSeq _ _ _ _ _

theorem pcOf_countIssue (i : Nat) (s : State) : pcOf i (countIssue i s) = pcOf i s :=
  getF_of_rdW (rdW_countIssue _ _ (by show seqP i + 0x90 ≠ _; omega) (by show seqP i + 0x90 ≠ _; omega) (by show seqP i + 0x90 ≠ _; omega))

theorem pstate_countIssue (i : Nat) (s : State) : pstate i (countIssue i s) = pstate i s :=
  getF_of_rdW (rdW_countIssue _ _ (by show seqP i + 0x8C ≠ _; omega) (by show seqP i + 0x8C ≠ _; omega) (by show seqP i + 0x8C ≠ _; omega))

/-- SEQ_PC reads as what was written. -/
theorem pcOf_setF (i v : Nat) (s : State) (h : v < 131072) : pcOf i (setF (seqP i) SEQ_PC_PC v s) = v := by
  unfold pcOf
  rw [getF_setF_same _ _ (by decide) (by decide)]
  exact Nat.mod_eq_of_lt h

/-- A signal below the limit adds one to its counter. -/
theorem signalTok_ok {i t : Nat} {s : State} (h : tokAt (seqOf i s) t < 255) :
    signalTok i t s = setSeq i { seqOf i s with tok := listSet (seqOf i s).tok t (tokAt (seqOf i s) t + 1) } s := by
  unfold signalTok
  dsimp only
  rw [if_neg (by omega)]

end Sys2Proof.Machine
end

