-- ==== Sys2Proof/Laws/Issue.lean ====
section
/-! SUPPORT. What the issue of a control command can do. -/
namespace Sys2Proof.Machine

@[simp] theorem consume_s (w : CmdWord) (q : SeqSt) : (consume w q).s = q.s := by unfold consume; dsimp only; split <;> split <;> rfl
@[simp] theorem consume_l (w : CmdWord) (q : SeqSt) : (consume w q).l = q.l := by unfold consume; dsimp only; split <;> split <;> rfl
@[simp] theorem consume_p (w : CmdWord) (q : SeqSt) : (consume w q).p = q.p := by unfold consume; dsimp only; split <;> split <;> rfl
@[simp] theorem consume_started (w : CmdWord) (q : SeqSt) : (consume w q).started = q.started := by unfold consume; dsimp only; split <;> split <;> rfl
@[simp] theorem consume_queues (w : CmdWord) (q : SeqSt) : (consume w q).queues = q.queues := by unfold consume; dsimp only; split <;> split <;> rfl

/-! ### The state after the issue -/

theorem seqOf_afterIssue (i : Nat) (w : CmdWord) (s : State) : seqOf i (afterIssue i w s) = issuedSeq w (seqOf i s) := by
  unfold afterIssue; rw [seqOf_countIssue, seqOf_setSeq_same]; rfl

theorem seqOf_afterIssue_ne {i j : Nat} (w : CmdWord) (s : State) (h : j ≠ i) : seqOf j (afterIssue i w s) = seqOf j s := by
  unfold afterIssue; rw [seqOf_countIssue_ne _ h, seqOf_setSeq_ne _ _ h]

theorem pcOf_afterIssue (i : Nat) (w : CmdWord) (s : State) : pcOf i (afterIssue i w s) = pcOf i s := by
  unfold afterIssue; rw [pcOf_countIssue, pcOf_setSeq]

theorem pstate_afterIssue (i : Nat) (w : CmdWord) (s : State) : pstate i (afterIssue i w s) = pstate i s := by
  unfold afterIssue; rw [pstate_countIssue, pstate_setSeq]

theorem rdW_afterIssue {a i : Nat} (w : CmdWord) (s : State) (h : a ∉ issueRegs i) : rdW a (afterIssue i w s) = rdW a s := by
  simp [issueRegs] at h
  unfold afterIssue
  rw [rdW_countIssue _ _ h.2.1 h.2.2.1 h.2.2.2, rdW_setSeq]

theorem afterIssue_rest (i : Nat) (w : CmdWord) (s : State) : RegsSeqs s (afterIssue i w s) := ((RegsSeqs.refl s).setSeq _ _).countIssue _

/-! ### Acts of control commands -/

/-- What a control command does to its sequencer at issue, its PC and program state left alone. -/
structure SeqAct (i : Nat) (f : SeqSt → SeqSt) (t u : State) : Prop where
  own : seqOf i u = f (seqOf i t)
  others : ∀ j, j ≠ i → seqOf j u = seqOf j t
  pc : pcOf i u = pcOf i t
  ps : pstate i u = pstate i t

theorem SeqAct.same (i : Nat) (t : State) : SeqAct i (fun q => q) t t := ⟨rfl, fun _ _ => rfl, rfl, rfl⟩

theorem SeqAct.set (i : Nat) (f : SeqSt → SeqSt) (t : State) : SeqAct i f t (setSeq i (f (seqOf i t)) t) :=
  ⟨seqOf_setSeq_same _ _ _, fun _ h => seqOf_setSeq_ne _ _ h, pcOf_setSeq _ _ _ _, pstate_setSeq _ _ _ _⟩

theorem SeqAct.trans {i : Nat} {f g : SeqSt → SeqSt} {t u v : State} (h : SeqAct i f t u) (k : SeqAct i g u v) : SeqAct i (fun q => g (f q)) t v :=
  ⟨by rw [k.own, h.own], fun j hj => by rw [k.others j hj, h.others j hj], by rw [k.pc, h.pc], by rw [k.ps, h.ps]⟩

/-- A signal that fits its counter. -/
theorem signal_goes {i : Nat} {w : CmdWord} {t : State} (h : cwSV w = true → tokAt (seqOf i t) (cwSG w) < 255) :
    SeqAct i (signalled w) t (if cwSV w then signalTok i (cwSG w) t else t)
      ∧ (if cwSV w then signalTok i (cwSG w) t else t) = { t with seqs := (if cwSV w then signalTok i (cwSG w) t else t).seqs } := by
  cases hv : cwSV w with
  | true =>
    rw [if_pos rfl, signalTok_ok (h hv)]
    refine ⟨?_, rfl⟩
    have := SeqAct.set i (signalled w) t
    simpa [signalled, hv] using this
  | false =>
    rw [if_neg (by simp)]
    have e : signalled w = fun q => q := by funext q; simp [signalled, hv]
    rw [e]; exact ⟨.same i t, rfl⟩

/-- PC moves on by one, short of its end. -/
theorem advancePc_goes {i u : Nat} {t : State} (h : pcOf i t < 131071) : advancePc i u t = setF (seqP i) SEQ_PC_PC (pcOf i t + 1) t := by
  unfold advancePc; dsimp only; rw [if_neg (by omega)]

/-- A control command that issues: its act on the sequencer, its signal, and the next PC. `u` is the state after its act. -/
theorem issueCtl_goes {i : Nat} {w : CmdWord} {s : State} (act : SeqSt → State → State × Option Nat) (f : SeqSt → SeqSt) (npc : Option Nat)
    (u : State) (hc : come i w s = .goes)
    (ha : (if enabled w (seqOf i s) then act (seqOf i s) (afterIssue i w s) else (afterIssue i w s, none)) = (u, npc))
    (hu : SeqAct i f (afterIssue i w s) u) (hf : ∀ q, (f q).tok = q.tok) (hs : signalFits w (seqOf i s))
    (hp : npc = none → pcOf i s < 131071) (hn : ∀ p, npc = some p → p < 131072) :
    seqOf i (issueCtl i w act s) = signalled w (f (issuedSeq w (seqOf i s)))
      ∧ pcOf i (issueCtl i w act s) = npc.getD (pcOf i s + 1)
      ∧ (∀ j, j ≠ i → seqOf j (issueCtl i w act s) = seqOf j s)
      ∧ (∀ a, a ≠ seqP i + 0x90 → rdW a (issueCtl i w act s) = rdW a u)
      ∧ RegsSeqs u (issueCtl i w act s) := by
  have hown : seqOf i u = f (issuedSeq w (seqOf i s)) := by rw [hu.own, seqOf_afterIssue]
  have hS := signal_goes (i := i) (w := w) (t := u) (fun hv => by
    have := hs hv
    unfold tokAt at this ⊢
    rw [hown, hf]; exact this)
  generalize hv : (if cwSV w then signalTok i (cwSG w) u else u) = v at hS
  obtain ⟨hS, hS'⟩ := hS
  have hpv : pstate i v ≠ 2 := by
    rw [hS.ps, hu.ps, pstate_afterIssue]
    rcases come_goes_pstate hc with h | h <;> omega
  have hpcv : pcOf i v = pcOf i s := by rw [hS.pc, hu.pc, pcOf_afterIssue]
  have ht : issueCtl i w act s = setF (seqP i) SEQ_PC_PC (npc.getD (pcOf i s + 1)) v := by
    unfold issueCtl
    rw [hc]
    dsimp only
    rw [show countIssue i (setSeq i (consume w (seqOf i s)) s) = afterIssue i w s from rfl, ha]
    dsimp only
    rw [hv, if_neg (by simpa using hpv)]
    cases npc with
    | some p => rfl
    | none => simp [advancePc_goes (i := i) (u := 0) (t := v) (by have := hp rfl; omega), hpcv]
  rw [ht]
  have hregs : v.regs = u.regs := by rw [hS']
  refine ⟨?_, ?_, fun j h => ?_, fun a h => ?_, ?_⟩
  · rw [seqOf_setF, hS.own, hown]
  · rw [pcOf_setF]
    cases hnp : npc with
    | none => have := hp hnp; simp; omega
    | some p => simpa using hn p hnp
  · rw [seqOf_setF, hS.others j h, hu.others j h, seqOf_afterIssue_ne w s h]
  · have hp : 0x90000 ≤ seqP i := by unfold seqP rodP; omega
    rw [rdW_setF_ne _ _ (canon_ne_high (b := seqP i + SEQ_PC_PC.off) (by show 0x90000 ≤ seqP i + 0x90; omega) h), rdW_regs hregs]
  · refine RegsSeqs.setF _ _ _ ⟨?_⟩
    rw [hS']

end Sys2Proof.Machine
end

