-- ==== Sys2Proof/Laws/Control.lean ====
section
/-! SUPPORT. Laws of issue and start: what a control command, a unit command and the head of a queue leave. -/
namespace Sys2Proof.Machine

/-- The registers of an issue beside PC. -/
theorem issue_regs {i a : Nat} (h : a ∉ issueRegs i) : a ≠ seqP i + 0x90 := by simp [issueRegs] at h; exact h.1

/-- An update of the sequencers alone. -/
theorem seqs_only {t u : State} (h : u = { t with seqs := u.seqs }) : u.regs = t.regs ∧ RegsSeqs t u := ⟨by rw [h], ⟨by rw [h]⟩⟩

/-- What an issued control command that only changes its sequencer leaves. -/
theorem ctl_result {i : Nat} {w : CmdWord} {s : State} (act : SeqSt → State → State × Option Nat) (f : SeqSt → SeqSt)
    (hc : come i w s = .goes) (hp : pcOf i s < 131071) (hs : signalFits w (seqOf i s))
    (ha : ∀ t, SeqAct i f t (act (seqOf i s) t).1 ∧ (act (seqOf i s) t).2 = none ∧ (act (seqOf i s) t).1 = { t with seqs := (act (seqOf i s) t).1.seqs })
    (hf : ∀ q, (f q).tok = q.tok) {c : Instr} {q : SeqSt}
    (hx : exec c s = .next (issueCtl i w act s)) (hq : f (issuedSeq w (seqOf i s)) = q) :
    ∃ t, exec c s = .next t
        ∧ seqOf i t = signalled w (if enabled w (seqOf i s) then q else issuedSeq w (seqOf i s))
        ∧ pcOf i t = pcOf i s + 1
        ∧ (∀ j, j ≠ i → seqOf j t = seqOf j s)
        ∧ (∀ a, a ∉ issueRegs i → rdW a t = rdW a s)
        ∧ t = { s with regs := t.regs, seqs := t.seqs } := by
  refine ⟨_, hx, ?_⟩
  cases he : enabled w (seqOf i s) with
  | true =>
    obtain ⟨h1, h2, h3⟩ := ha (afterIssue i w s)
    have := issueCtl_goes act f none _ hc (by rw [he, if_pos rfl]; exact Prod.ext rfl h2) h1 hf hs (fun _ => hp) (by simp)
    rw [hq] at this
    exact ⟨this.1, by simpa using this.2.1, this.2.2.1, fun a h => by rw [this.2.2.2.1 a (issue_regs h), rdW_regs (seqs_only h3).1, rdW_afterIssue w s h], (((afterIssue_rest i w s).trans (seqs_only h3).2).trans this.2.2.2.2).rest⟩
  | false =>
    have := issueCtl_goes act (fun q => q) none _ hc (by rw [he, if_neg (by simp)]) (.same i _) (fun _ => rfl) hs (fun _ => hp) (by simp)
    exact ⟨this.1, by simpa using this.2.1, this.2.2.1, fun a h => by rw [this.2.2.2.1 a (issue_regs h), rdW_afterIssue w s h], ((afterIssue_rest i w s).trans this.2.2.2.2).rest⟩

/-- The same for one that may set PC. -/
theorem ctl_jump {i : Nat} {w : CmdWord} {s : State} (act : SeqSt → State → State × Option Nat) (f : SeqSt → SeqSt) (npc : Option Nat)
    (hc : come i w s = .goes) (he : enabled w (seqOf i s) = true) (hs : signalFits w (seqOf i s))
    (ha : ∀ t, SeqAct i f t (act (seqOf i s) t).1 ∧ (act (seqOf i s) t).2 = npc ∧ (act (seqOf i s) t).1 = { t with seqs := (act (seqOf i s) t).1.seqs })
    (hf : ∀ q, (f q).tok = q.tok) {c : Instr} {q : SeqSt} {pc : Nat}
    (hx : exec c s = .next (issueCtl i w act s)) (hq : f (issuedSeq w (seqOf i s)) = q) (hpc : npc.getD (pcOf i s + 1) = pc) (hlt : pc < 131072) :
    ∃ t, exec c s = .next t
        ∧ seqOf i t = signalled w q
        ∧ pcOf i t = pc
        ∧ (∀ j, j ≠ i → seqOf j t = seqOf j s)
        ∧ (∀ a, a ∉ issueRegs i → rdW a t = rdW a s)
        ∧ t = { s with regs := t.regs, seqs := t.seqs } := by
  obtain ⟨h1, h2, h3⟩ := ha (afterIssue i w s)
  have := issueCtl_goes act f npc _ hc (by rw [he, if_pos rfl]; exact Prod.ext rfl h2) h1 hf hs (fun h => by subst h; simp at hpc; omega)
    (fun p h => by subst h; simp at hpc; omega)
  rw [hq, hpc] at this
  exact ⟨_, hx, this.1, this.2.1, this.2.2.1, fun a h => by rw [this.2.2.2.1 a (issue_regs h), rdW_regs (seqs_only h3).1, rdW_afterIssue w s h], (((afterIssue_rest i w s).trans (seqs_only h3).2).trans this.2.2.2.2).rest⟩

/-- What the issue of a unit command leaves. -/
theorem issueUnit_goes {i : Nat} {w : CmdWord} {s : State} (hc : come i w s = .goes) (hp : pcOf i s < 131071) :
    seqOf i (issueUnit i w s) = { withQueue (seqOf i s) (cwUnit w) (queueOf (seqOf i s) (cwUnit w) ++ [captured i w s]) with
          pendS := (pendingAfter w (seqOf i s)).1, pendP := (pendingAfter w (seqOf i s)).2
          num := (seqOf i s).num + 1, stepReq := false, bpTaken := false, stall := none }
      ∧ pcOf i (issueUnit i w s) = pcOf i s + 1
      ∧ (∀ j, j ≠ i → seqOf j (issueUnit i w s) = seqOf j s)
      ∧ (∀ a, a ∉ issueRegs i → a ≠ seqP i + SEQ_QOCC_OCC.off → rdW a (issueUnit i w s) = rdW a s)
      ∧ RegsSeqs s (issueUnit i w s) := by
  have key : ∃ q2, issueUnit i w s = advancePc i (cwUnit w) (countIssue i (putSeq i q2 s)) ∧
      q2 = { withQueue (seqOf i s) (cwUnit w) (queueOf (seqOf i s) (cwUnit w) ++ [captured i w s]) with
          pendS := (pendingAfter w (seqOf i s)).1, pendP := (pendingAfter w (seqOf i s)).2 } := by
    refine ⟨_, by unfold issueUnit; rw [hc], ?_⟩
    unfold pendingAfter
    cases catRow w with
    | none => rfl
    | some r =>
      dsimp only
      cases he : enabled w (seqOf i s) with
      | false => simp only [captured, he]; rfl
      | true =>
        cases hw : writesS w r with
        | true => simp only [captured, he]; rfl
        | false =>
          by_cases hd : r.d = .p
          · simp only [captured, he, hd]; rfl
          · simp only [captured, he, hd]; simp [hd]; rfl
  obtain ⟨q2, hk, hq⟩ := key
  have hpc : pcOf i (countIssue i (putSeq i q2 s)) = pcOf i s := by
    rw [pcOf_countIssue]; unfold putSeq pcOf
    rw [getF_setF_offset _ _ (by show (seqP i + 0x90) % 0x1000 ≠ (seqP i + SEQ_QOCC_OCC.off) % 0x1000; unfold seqP rodP; show _ ≠ (_ + SEQ_QOCC_OCC.off) % _; simp; omega)]
    rfl
  rw [advancePc_goes (by omega), hpc] at hk
  rw [hk]
  have hp0 : 0x90000 ≤ seqP i := by unfold seqP rodP; omega
  refine ⟨?_, ?_, fun j h => ?_, fun a h h' => ?_, ?_⟩
  · rw [seqOf_setF, seqOf_countIssue]; unfold putSeq; rw [seqOf_setF, seqOf_setSeq_same, hq]; rfl
  · rw [pcOf_setF]; omega
  · rw [seqOf_setF, seqOf_countIssue_ne _ h]; unfold putSeq; rw [seqOf_setF, seqOf_setSeq_ne _ _ h]
  · simp [issueRegs] at h
    rw [rdW_setF_ne _ _ (canon_ne_high (b := seqP i + SEQ_PC_PC.off) (by omega) h.1), rdW_countIssue _ _ h.2.1 h.2.2.1 h.2.2.2]
    unfold putSeq
    rw [rdW_setF_ne _ _ (canon_ne_high (by omega) h')]; rfl
  · exact (((((RegsSeqs.refl s).setSeq _ _).setF _ _ _).countIssue _).setF _ _ _)

/-- What the start of a unit head is. -/
theorem startHead_goes {i u : Nat} {free : QCmd → State → Bool} {run : QCmd → State → State} {c : QCmd} {rest : List QCmd} {s : State}
    (hq : queueOf (seqOf i s) u = c :: rest) (hm : headMay i u c s) :
    (c.skip = true → startHead i u free run s = finish i c 0 ⟨0, false⟩ (atStart i u c rest s)) ∧
    (c.skip = false → free c s = true → startHead i u free run s = run c (atStart i u c rest s)) := by
  obtain ⟨h1, h2, h3, h4⟩ := hm
  have hp : (pstate i s == 1 || pstate i s == 2 || pstate i s == 5) = true := by rcases h2 with h | h | h <;> simp [h]
  have hg : (rodRuns i s && (pstate i s == 1 || pstate i s == 2 || pstate i s == 5)) = true := by rw [h1, hp]; rfl
  have hy : (!waitsOk c.word (seqOf i s) || yields u c (seqOf i s)) = false := by rw [h3, h4]; rfl
  constructor
  · intro hk; unfold startHead atStart; simp only [hg, hq, hy, hk, Bool.not_true, Bool.false_eq_true, if_false, if_true, Bool.false_and]
  · intro hk hf; unfold startHead atStart; simp only [hg, hq, hy, hk, hf, Bool.not_true, Bool.not_false, Bool.false_eq_true, if_false, Bool.true_and]

/-- The end of a unit command leaves the sequencers. -/
theorem unitHook_seqs (i : Nat) (c : Started) (s : State) : (unitHook i c s).seqs = s.seqs := by
  unfold unitHook; split
  · split
    · rw [bump_seqs, setF_seqs, setF_seqs]
    · rfl
  · rw [bump_seqs]
  · rw [setF_seqs, setF_seqs, setF_seqs]
  · rw [bump64_seqs]
  · rfl

theorem pstate_setPstate (i v : Nat) (s : State) (h : v < 8) : pstate i (setPstate i v s) = v := by
  unfold pstate setPstate; rw [getF_setF_same _ _ (by decide) (by decide)]; exact Nat.mod_eq_of_lt h

end Sys2Proof.Machine
end

