-- ==== Sys2Proof/Laws/Fatal.lean ====
section
/-! SUPPORT. What the moves of STATE by the package and MGS, a FAT error with every herd OFF, and the writes of the log leave: the condition of
bring-up, the trial slot, and a log that holds a record. -/
namespace Sys2Proof.Machine

/-- STATE of a block that is no sequencer moves by an event only. -/
theorem putState_only (a new : Nat) (s : State) (h : ∀ i, pageOf a ≠ some (.seq, i)) : EventsOnly s (putState a new s) := by
  unfold putState
  split
  · exact .refl s
  · dsimp only
    split
    · rename_i i e; exact absurd e (h i)
    · exact (setF_only _ _ _ _).trans (raise_only _ _ _)

/-- No page here is a sequencer's. -/
def noSeq (l : List Nat) : Bool := l.all (fun a => match pageOf a with | some (.seq, _) => false | _ => true)

theorem noSeq_page {l : List Nat} (h : noSeq l = true) {a : Nat} (ha : a ∈ l) (i : Nat) : pageOf a ≠ some (.seq, i) := by
  have := List.all_eq_true.mp h a ha
  intro e; rw [e] at this; cases this

/-- MSTATE and the mailbox pages that mirror it move by events only. -/
theorem setMstate_only (m : Nat) (s : State) : EventsOnly s (setMstate m s) := by
  have h : noSeq ((List.range 128).map (fun f => statOf (mgsP f))) = true := by decide +kernel
  exact (setF_only _ _ _ _).trans (.foldl _ _ _ fun t f hf => putState_only _ _ _ (noSeq_page h (List.mem_map_of_mem hf)))

/-- A restart of MGS leaves the trial slot and whether it has been started. -/
theorem mgsRestart_trial (s : State) : (mgsRestart s).mgs.trial = s.mgs.trial ∧ (mgsRestart s).mgs.trialRun = s.mgs.trialRun := by
  unfold mgsRestart
  extract_lets s1
  have h1 : LogOnly s.mgs s1.mgs := (EventsOnly.foldl _ _ s fun t f _ => raise_only (mgsP f) 17 t).log
  clear_value s1
  have h2 := (setMstate_only 2 (setMgs { s1.mgs with startAt := s1.now } s1)).log
  exact ⟨h2.trial.1.trans h1.trial.1, h2.trial.2.trans h1.trial.2⟩

/-- The pages whose STATE mirrors that of the package. -/
def glbMirrors : List Nat := [thmP 0, thmP 1, hifP] ++ (List.range 64).map islP ++ (List.range 16).map rtrP ++ (List.range 16).map e2eP

theorem mirrors_glb (s : State) : mirrors (statOf glbP) s = glbMirrors := rfl

theorem noSeq_glb : noSeq (statOf glbP :: glbMirrors.map statOf) = true := by decide +kernel

/-- STATE of the package and of the pages that mirror it moves by events only. -/
theorem setState_glb_only (new : Nat) (s : State) : EventsOnly s (setState (statOf glbP) new s) := by
  unfold setState
  rw [mirrors_glb]
  exact (putState_only _ _ _ (noSeq_page noSeq_glb List.mem_cons_self)).trans (.foldl _ _ _ fun t q hq =>
    putState_only _ _ _ (noSeq_page noSeq_glb (List.mem_cons_of_mem _ (List.mem_map_of_mem hq))))

/-- OUTCOME moves by events only. -/
theorem setOutcome_only (v : Nat) (s : State) : EventsOnly s (setOutcome v s) := by
  unfold setOutcome
  split
  · exact .refl s
  · exact ((setF_only _ _ _ _).trans (raise_only _ _ _)).trans (setState_glb_only _ _)

/-- A herd's STATE stays when that of a page below the herd pages moves. -/
theorem rdW_putState_low {a b : Nat} (new : Nat) (s : State) (ha : 0x800000 ≤ a) (ho : a % 0x1000 = 0xC)
    (hb : b < 0x800000) (hs : ∀ i, pageOf b ≠ some (.seq, i)) (hm : b % 0x1000 = 0xC) : rdW a (putState b new s) = rdW a s := by
  unfold putState
  split
  · rfl
  · dsimp only
    split
    · rename_i i e; exact absurd e (hs i)
    · rw [rdW_raise_high _ _ _ (by omega) (by unfold pageBase; omega), rdW_setF_ne]
      rw [canon_high (by omega)]
      show a ≠ canon (b + 0)
      unfold canon
      split <;> omega

theorem rdW_setState_glb {a : Nat} (new : Nat) (s : State) (ha : 0x800000 ≤ a) (ho : a % 0x1000 = 0xC) :
    rdW a (setState (statOf glbP) new s) = rdW a s := by
  have hl : (statOf glbP :: glbMirrors.map statOf).all (fun b => b < 0x800000 && b % 0x1000 == 0xC) = true := by decide +kernel
  have hp : ∀ b ∈ statOf glbP :: glbMirrors.map statOf, ∀ t, rdW a (putState b new t) = rdW a t := by
    intro b hb t
    have := List.all_eq_true.mp hl b hb
    simp only [Bool.and_eq_true, decide_eq_true_eq, beq_iff_eq] at this
    exact rdW_putState_low _ _ ha ho this.1 (noSeq_page noSeq_glb hb) this.2
  unfold setState
  rw [mirrors_glb]
  have hf : ∀ (l : List Nat) (t : State), (∀ q ∈ l, statOf q ∈ statOf glbP :: glbMirrors.map statOf) →
      rdW a (l.foldl (fun t q => putState (statOf q) new t) t) = rdW a t := by
    intro l
    induction l with
    | nil => intro t _; rfl
    | cons q l ih =>
      intro t h
      exact (ih _ (fun x hx => h x (List.mem_cons_of_mem _ hx))).trans (hp _ (h q List.mem_cons_self) _)
  rw [hf _ _ (fun q hq => List.mem_cons_of_mem _ (List.mem_map_of_mem hq)), hp _ List.mem_cons_self]

/-- Steps that each leave a state leave it together. -/
theorem foldl_stay {α β : Type} (f : β → α → β) (l : List α) (b : β) (h : ∀ x ∈ l, f b x = b) : l.foldl f b = b := by
  induction l with
  | nil => rfl
  | cons x l ih => rw [List.foldl_cons, h x List.mem_cons_self]; exact ih fun y hy => h y (List.mem_cons_of_mem _ hy)

/-- Address of a herd's STATE. -/
theorem herd_stat (n : Nat) : 0x800000 ≤ statOf (herdP n) + LIFE_STATE.off ∧ (statOf (herdP n) + LIFE_STATE.off) % 0x1000 = 0xC := by
  show 0x800000 ≤ 0x800000 + n * 0x1000 + 0xC + 0 ∧ (0x800000 + n * 0x1000 + 0xC + 0) % 0x1000 = 0xC
  omega

theorem herd_setF_glb (n : Nat) (f : Field) (v : Nat) (t : State) (hf : f.off < 0x1000) :
    lifeAt (statOf (herdP n)) (setF glbP f v t) = lifeAt (statOf (herdP n)) t := by
  refine getF_of_rdW (rdW_setF_ne _ _ ?_)
  have := herd_stat n
  rw [canon_high (by omega)]
  show _ ≠ canon (0 + f.off)
  unfold canon
  split <;> omega

theorem herd_setState_glb (n new : Nat) (t : State) : lifeAt (statOf (herdP n)) (setState (statOf glbP) new t) = lifeAt (statOf (herdP n)) t :=
  getF_of_rdW (rdW_setState_glb _ _ (herd_stat n).1 (herd_stat n).2)

theorem herd_setOutcome (n v : Nat) (t : State) : lifeAt (statOf (herdP n)) (setOutcome v t) = lifeAt (statOf (herdP n)) t := by
  unfold setOutcome
  split
  · rfl
  · rw [herd_setState_glb]
    refine (getF_of_rdW (rdW_raise_high _ _ _ (by have := herd_stat n; omega) ?_)).trans (herd_setF_glb _ _ _ _ (by decide))
    rw [(herd_stat n).2]; decide

/-- The first FAT error stands in GLB_FATAL. -/
def fatFirst (p code : Nat) (s : State) : State :=
  if flag glbP GLB_FATAL_VALID s then s else
    setF glbP GLB_FATAL_VALID 1 (setF glbP GLB_FATAL_CODE code (setF glbP GLB_FATAL_PAGE_PAGE p s))

theorem fatFirst_only (p code : Nat) (s : State) : EventsOnly s (fatFirst p code s) := by
    unfold fatFirst; split; exact .refl s; exact ((setF_only _ _ _ _).trans (setF_only _ _ _ _)).trans (setF_only _ _ _ _)
theorem herd_fatFirst (p code : Nat) (s : State) (n : Nat) : lifeAt (statOf (herdP n)) (fatFirst p code s) = lifeAt (statOf (herdP n)) s := by
    unfold fatFirst; split
    · rfl
    · rw [herd_setF_glb _ _ _ _ (by decide), herd_setF_glb _ _ _ _ (by decide), herd_setF_glb _ _ _ _ (by decide)]
theorem fatGlb_only  (s1 : State) : EventsOnly s1 (setState (statOf glbP) 5 (setOutcome 3 (setF glbP GLB_LOSS_NR_CAUSE 3 (bump glbP GLB_FATAL_COUNT 1 s1)))) :=
  ((bump_only _ _ _ _).trans (setF_only _ _ _ _)).trans ((setOutcome_only _ _).trans (setState_glb_only _ _))
theorem herd_fatGlb  (s1 : State) (n : Nat): lifeAt (statOf (herdP n)) (setState (statOf glbP) 5 (setOutcome 3 (setF glbP GLB_LOSS_NR_CAUSE 3 (bump glbP GLB_FATAL_COUNT 1 s1)))) = lifeAt (statOf (herdP n)) s1 := by
    rw [herd_setState_glb, herd_setOutcome, herd_setF_glb _ _ _ _ (by decide)]
    unfold bump
    rw [herd_setF_glb _ _ _ _ (by decide)]

def fatGlb (s1 : State) : State := setState (statOf glbP) 5 (setOutcome 3 (setF glbP GLB_LOSS_NR_CAUSE 3 (bump glbP GLB_FATAL_COUNT 1 s1)))
/-- The last part of a FAT error: GLB_FATAL, the event to the BMC and the AER message. -/
theorem fat_tail (code : Nat) (s4 : State) : (emit (.aer 0 1) (bmcEvent 3 code { s4 with fatal := nsInsert s4.fatal code })).boot = s4.boot
    ∧ (emit (.aer 0 1) (bmcEvent 3 code { s4 with fatal := nsInsert s4.fatal code })).mgs.ring = s4.mgs.ring := ⟨rfl, rfl⟩
theorem fatEffects_idle (p code : Nat) (s : State) (h : ∀ n < 128, lifeAt (statOf (herdP n)) s = 0) :
    (fatEffects p code s).boot = s.boot ∧ (s.mgs.ring ≠ [] → (fatEffects p code s).mgs.ring ≠ []) := by
  suffices ∀ t, fatEffects p code s = t → t.boot = s.boot ∧ (s.mgs.ring ≠ [] → t.mgs.ring ≠ []) from this _ rfl
  intro t e
  unfold fatEffects at e
  extract_lets s1 s2 s3 s4 at e
  have k1 : EventsOnly s s1 ∧ ∀ n, lifeAt (statOf (herdP n)) s1 = lifeAt (statOf (herdP n)) s := ⟨fatFirst_only p code s, herd_fatFirst p code s⟩
  have k3 : EventsOnly s1 s3 ∧ ∀ n, lifeAt (statOf (herdP n)) s3 = lifeAt (statOf (herdP n)) s1 := ⟨fatGlb_only s1, herd_fatGlb s1⟩
  have k4 : s4 = s3 := foldl_stay _ _ s3 fun n hn => if_pos ((k3.2 n).trans ((k1.2 n).trans (h n (List.mem_range.mp hn))))
  have k5 := (k1.1.trans k3.1)
  rw [← e]
  exact ⟨(fat_tail code s4).1.trans ((congrArg State.boot k4).trans k5.boot), fun hr => by
    rw [(fat_tail code s4).2, k4]; exact k5.log.ring hr⟩

/-- A record with a free CODE leaves the condition of bring-up and a log that holds a record. -/
theorem tallyFree_keeps (k code : Nat) (l : List Byte) (u : State) :
    (tallyFree k code l u).boot = u.boot ∧ (u.mgs.ring ≠ [] → (tallyFree k code l u).mgs.ring ≠ []) :=
  have q := tally_only k 1 ((takeFree u).1 % 65536) code 0 l (takeFree u).2
  ⟨q.boot, q.log.ring⟩

/-- A FAT error is recorded, and then has its effects. -/
theorem recordErr_fat (p code d : Nat) (s : State) :
    recordErr p code 3 d d false s = fatEffects p code (recordWith p code 3 d d false true ((pageHerd p s).toList) s) := by
  unfold recordErr; exact if_pos rfl

theorem pendFirst_boot (s : State) : (pendFirst s).boot = s.boot := by
  unfold pendFirst; split <;> rfl

/-- The log in its tiers leaves the condition of bring-up. -/
theorem logToRam_boot (c f q : Nat) (s : State) : (logToRam c f q s).boot = s.boot := by
  have h : EventsOnly s (tallyLog 2 (leBytes 1 c ++ leBytes 1 f ++ leBytes 2 0 ++ leBytes 8 q) (setF (mgsP 0) MB_LOGSTAT_LOST 1 (setF (mgsP 0) MB_LOGSTAT_TIER 2 s))) :=
    ((setF_only _ _ _ _).trans (setF_only _ _ _ _)).trans (tallyNow_only _ _)
  exact ((raise_boot glbP 19 _).trans (pendFirst_boot _)).trans h.boot

theorem reservePut_boot (r : TRec) (s : State) : (reservePut r s).boot = s.boot := by
  unfold reservePut; dsimp only; split <;> rfl

theorem reserveFailed_boot (q : Nat) (s : State) : (reserveFailed q s).boot = s.boot := by
  unfold reserveFailed
  dsimp only
  rw [(recordCE_only _ _ _ _ _).rest]
  dsimp only
  split
  · rw [logToRam_boot]; rfl
  · rfl

theorem persistOne_boot (ok : Bool) (s : State) : (persistOne ok s).boot = s.boot := by
  unfold persistOne
  split
  · rfl
  · split
    · split <;> rfl
    · split
      · exact reservePut_boot _ _
      · exact reserveFailed_boot _ _
    · rfl

theorem persistAll_boot (s : State) : (persistAll s).boot = s.boot := by
  have h : ∀ (l : List Nat) (t : State), (l.foldl (fun t _ => persistOne true t) t).boot = t.boot := by
    intro l
    induction l with
    | nil => intro t; rfl
    | cons n l ih => intro t; exact (ih _).trans (persistOne_boot true t)
  exact h _ s

theorem reserveCopy_boot (r : TRec) (ok : Bool) (s : State) : (reserveCopy r ok s).boot = s.boot := by
  unfold reserveCopy
  split
  · rfl
  · split
    · exact reservePut_boot _ _
    · exact reserveFailed_boot _ _

end Sys2Proof.Machine
end

