-- ==== Sys2Proof/Laws/Spad.lean ====
section
/-! SUPPORT. Laws of the scratchpad: what a write of bytes leaves, with no parity injection armed. -/
namespace Sys2Proof.Machine

theorem mem_nsInsert {l : List Nat} {k j : Nat} : j ∈ nsInsert l k ↔ j = k ∨ j ∈ l := by
  induction l with
  | nil => simp [nsInsert]
  | cons a t ih =>
    unfold nsInsert
    split
    · simp
    · split
      · rename_i h; subst h; simp
      · simp only [List.mem_cons, ih]
        constructor
        · rintro (h | h | h) <;> simp [h]
        · rintro (h | h | h) <;> simp [h]

theorem mem_nsErase {l : List Nat} {k j : Nat} : j ∈ nsErase l k ↔ j ≠ k ∧ j ∈ l := by
  simp [nsErase, and_comm]

@[simp] theorem contains_nsInsert (l : List Nat) (k j : Nat) : (nsInsert l k).contains j = (j == k || l.contains j) := by
  rw [Bool.eq_iff_iff]; simp [mem_nsInsert]

@[simp] theorem contains_nsErase (l : List Nat) (k j : Nat) : (nsErase l k).contains j = (j != k && l.contains j) := by
  rw [Bool.eq_iff_iff]; simp [mem_nsErase]

/-- A byte written with no injection armed. -/
theorem spadPut_plain {i a : Nat} {b : Byte} {bad : Bool} {s : State} (h : flag (spadP i) SPAD_INJECT_ARM s = false) :
    spadPut i a b bad s = { s with
      spad := alPut 0 s.spad (spadKey i a) b
      spadBad := if bad then nsInsert s.spadBad (spadKey i a) else nsErase s.spadBad (spadKey i a)
      spadPar := nsErase s.spadPar (spadKey i a) } := by
  unfold spadPut
  simp [h]

theorem flag_regs {s t : State} (h : t.regs = s.regs) (p : Nat) (f : Field) : flag p f t = flag p f s := by
  unfold flag; rw [getF_regs h]

/-- Between `s` and `t` only scratchpad bytes and their marks differ. -/
structure SpadOnly (s t : State) : Prop where
  rest : t = { s with spad := t.spad, spadBad := t.spadBad, spadPar := t.spadPar }

theorem SpadOnly.trans {a b c : State} (h : SpadOnly a b) (k : SpadOnly b c) : SpadOnly a c := by
  obtain ⟨h⟩ := h
  obtain ⟨k⟩ := k
  constructor
  rw [k, h]

/-- Bytes written with no injection armed: what every byte, its poison and all other state are afterwards. -/
theorem spadWriteFrom_plain {i a : Nat} (bs : List Byte) (bad : List Nat) : ∀ (k : Nat) (s : State),
    flag (spadP i) SPAD_INJECT_ARM s = false →
    (∀ n b, bs[n]? = some b → spadByte i (a + (k + n)) (spadWriteFrom i a k bs bad s) = b
      ∧ (spadWriteFrom i a k bs bad s).spadBad.contains (spadKey i (a + (k + n))) = bad.contains (k + n))
    ∧ (∀ x, (∀ n, n < bs.length → x ≠ spadKey i (a + (k + n))) →
        alGetD (spadWriteFrom i a k bs bad s).spad x 0 = alGetD s.spad x 0
        ∧ (spadWriteFrom i a k bs bad s).spadBad.contains x = s.spadBad.contains x)
    ∧ SpadOnly s (spadWriteFrom i a k bs bad s) := by
  induction bs with
  | nil => intro k s h; exact ⟨fun n b h => by simp at h, fun x _ => ⟨rfl, rfl⟩, ⟨rfl⟩⟩
  | cons c t ih =>
    intro k s h
    have hp := spadPut_plain (i := i) (a := a + k) (b := c) (bad := bad.contains k) h
    have hf : flag (spadP i) SPAD_INJECT_ARM (spadPut i (a + k) c (bad.contains k) s) = false := by
      rw [flag_regs (by rw [hp])]; exact h
    obtain ⟨h1, h2, h3⟩ := ih (k + 1) _ hf
    have hk : ∀ n, n < t.length → spadKey i (a + k) ≠ spadKey i (a + (k + 1 + n)) := fun n _ => by unfold spadKey; omega
    refine ⟨fun n b hn => ?_, fun x hx => ?_, ?_⟩
    · cases n with
      | zero =>
        simp at hn; subst hn
        obtain ⟨e1, e2⟩ := h2 (spadKey i (a + k)) hk
        refine ⟨?_, ?_⟩
        · unfold spadByte spadWriteFrom
          rw [show k + 0 = k from rfl, e1, hp]
          unfold alGetD; simp
        · unfold spadWriteFrom
          rw [show k + 0 = k from rfl, e2, hp]
          cases hb : bad.contains k with
          | true => rw [if_pos rfl, contains_nsInsert, beq_self_eq_true]; rfl
          | false => rw [if_neg (by simp), contains_nsErase, bne_self_eq_false]; rfl
      | succ m =>
        have := h1 m b (by simpa using hn)
        unfold spadWriteFrom
        rw [show a + (k + (m + 1)) = a + (k + 1 + m) by omega, show k + (m + 1) = k + 1 + m by omega]
        exact this
    · obtain ⟨e1, e2⟩ := h2 x (fun n hn => by
        have := hx (n + 1) (by simpa using hn); rw [show k + (n + 1) = k + 1 + n by omega] at this; exact this)
      have hx0 : x ≠ spadKey i (a + k) := by simpa using hx 0 (by simp)
      unfold spadWriteFrom
      rw [e1, e2, hp]
      unfold alGetD
      refine ⟨by dsimp only; rw [alPut_read_ne _ _ _ hx0], ?_⟩
      have hb0 : (x == spadKey i (a + k)) = false := by simpa using hx0
      cases hb : bad.contains k with
      | true => rw [if_pos rfl, contains_nsInsert, hb0]; rfl
      | false => rw [if_neg (by simp), contains_nsErase, bne, hb0]; rfl
    · refine SpadOnly.trans ⟨?_⟩ h3
      rw [hp]

/-- Byte k of a number's bytes. -/
theorem leBytes_get : ∀ (n v k : Nat), k < n → (leBytes n v)[k]? = some (BitVec.ofNat 8 (v / 256 ^ k))
  | 0, _, _, h => by omega
  | n + 1, v, 0, _ => by simp [leBytes]
  | n + 1, v, k + 1, h => by
    rw [leBytes, List.getElem?_cons_succ, leBytes_get n (v / 256) k (by omega), Nat.div_div_eq_div_mul, Nat.pow_succ, Nat.mul_comm]

@[simp] theorem leBytes_length : ∀ (n v : Nat), (leBytes n v).length = n
  | 0, _ => rfl
  | n + 1, v => by rw [leBytes, List.length_cons, leBytes_length n]

/-! ### SLD -/

theorem spadBadIn_eq {i a n : Nat} {s t : State} (h : t.spadBad = s.spadBad) (h' : t.spadPar = s.spadPar) : spadBadIn i a n t = spadBadIn i a n s := by
  unfold spadBadIn spadPoison; rw [h, h']

theorem spadRead_eq {i a n : Nat} {s t : State} (h : t.spad = s.spad) : spadRead i a n t = spadRead i a n s := by
  unfold spadRead spadByte; rw [h]

/-- A read of bytes with good parity leaves no trace. -/
theorem spadSeen_clean {i a n : Nat} {s : State} (h : ∀ k, k < n → s.spadPar.contains (spadKey i (a + k)) = false) : spadSeen i a n s = s := by
  unfold spadSeen
  generalize hl : List.range n = l
  have hl' : ∀ k ∈ l, k < n := fun k hk => List.mem_range.1 (hl ▸ hk)
  clear hl
  induction l with
  | nil => rfl
  | cons k l ih =>
    rw [List.foldl_cons, if_neg (by rw [h k (hl' k List.mem_cons_self)]; simp)]
    exact ih (fun j hj => hl' j (List.mem_cons_of_mem _ hj))

/-- SLD from bytes with good parity. -/
theorem sldAct_clean {i : Nat} {w : CmdWord} {q : SeqSt} {t : State} (h : ∀ k, k < 8 → t.spadPar.contains (spadKey i (sldAddr w q + k)) = false) :
    sldAct i w q t = (setSeq i (setS (seqOf i t) (cwD w)
      ⟨BitVec.ofNat 64 (leNat (spadRead i (sldAddr w q) 8 t)), !(spadBadIn i (sldAddr w q) 8 t).isEmpty⟩) t, none) := by
  have hp : (List.range 8).any (fun k => t.spadPar.contains (spadKey i (sldAddr w q + k))) = false := by
    rw [List.any_eq_false]; intro k hk; rw [h k (List.mem_range.1 hk)]; simp
  unfold sldAct
  extract_lets a bad par t1 t2
  have e1 : t1 = t := spadSeen_clean h
  have e2 : t2 = t := by
    show (if par = true then _ else t1) = t
    rw [show par = false from hp, if_neg (by simp), e1]
  rw [e2]

end Sys2Proof.Machine
end

