-- ==== Sys2Proof/Laws/Hash.lean ====
section
/-! SUPPORT. Digests and images: what a digest's length is, bytes and the number they spell, listed bytes, and that an image which passes the
checks of an image exists. -/
namespace Sys2Proof.Machine

theorem leNat_leBytes : ∀ n v, leNat (leBytes n v) = v % 256 ^ n
  | 0, v => by simp [leBytes, leNat, Nat.mod_one]
  | n + 1, v => by
    have h : 256 ^ (n + 1) = 256 * 256 ^ n := by rw [Nat.pow_succ, Nat.mul_comm]
    rw [leBytes, leNat, leNat_leBytes n, BitVec.toNat_ofNat, h, Nat.mod_mul]

theorem alGet_isSome_of_mem {α : Type} {m : List (Nat × α)} {k : Nat} {v : α} (h : (k, v) ∈ m) : (alGet m k).isSome = true := by
  induction m with
  | nil => cases h
  | cons e t ih =>
    unfold alGet
    split
    · rfl
    · rcases List.mem_cons.1 h with rfl | h
      · contradiction
      · exact ih h

theorem shaRound_length (v : List (BitVec 64)) (kw : BitVec 64 × BitVec 64) : (shaRound v kw).length = v.length := by
  unfold shaRound; split <;> rfl

theorem shaBlock_length (h : List (BitVec 64)) (blk : List Byte) : (shaBlock h blk).length = h.length := by
  have fold : ∀ (l : List (BitVec 64 × BitVec 64)) (v : List (BitVec 64)), (l.foldl shaRound v).length = v.length := by
    intro l
    induction l with
    | nil => intro v; rfl
    | cons a t ih => intro v; rw [List.foldl_cons, ih, shaRound_length]
  simp [shaBlock, fold]

theorem shaGo_length : ∀ n l h, (shaGo n l h).length = h.length
  | 0, _, _ => rfl
  | n + 1, l, h => by rw [shaGo, shaGo_length n, shaBlock_length]

theorem primes80_length : 16 ≤ primes80.length := by
  have h : 16 ≤ ((List.range 60).filter isPrime).length := by decide
  have e : List.range 410 = List.range 60 ++ (List.range 350).map (60 + ·) := List.range_add (n := 60) (m := 350)
  rw [primes80, e, List.filter_append, List.length_append]
  omega

/-- A SHA-384 digest has 48 bytes. -/
@[simp] theorem sha384_length (m : List Byte) : (sha384 m).length = 48 := by
  have h8 : sha384Init.length = 8 := by
    have := primes80_length
    simp [sha384Init]; omega
  have h6 : ∀ l : List (BitVec 64), (l.flatMap (fun w => (leBytes 8 w.toNat).reverse)).length = 8 * l.length := by
    intro l
    induction l with
    | nil => rfl
    | cons a t ih => rw [List.flatMap_cons, List.length_append, ih]; simp; omega
  simp only [sha384, h6, List.length_take, shaGo_length, h8]; rfl

end Sys2Proof.Machine
end

