-- ==== Sys2Proof/Laws/Keeps.lean ====
section
/-! SUPPORT. `Keeps z s`: what every operation of the block keeps on the way from `z` to `s`: the canonical form of the addressed stores, the
command queue, what has been sent, and free values that have been used. -/
namespace Sys2Proof.Machine

/-- From `z` to `s` the stores keep their canonical form, the queue stays, nothing sent is taken back, and no free value is used again. -/
def Keeps (z s : State) : Prop :=
  (Memory.wf z → Memory.wf s) ∧ s.pending = z.pending ∧ z.out <+: s.out ∧ z.freeN ≤ s.freeN

/-- `Keeps` of the state inside a result. -/
def KeepsP {α : Type} (g : α → State) (z : State) (a : α) : Prop := Keeps z (g a)

/-- `Keeps` of a meaning's outcome, which is a next state. -/
def KeepsR (z : State) : Res → Prop
  | .next t => Keeps z t
  | .fault _ => False
  | .refused _ => False

/-- `Keeps` of a state that may be absent. -/
def KeepsO (z : State) : Option State → Prop
  | some t => Keeps z t
  | none => True

/-- `Keeps` of a sequencer that does not issue. -/
def KeepsC (z : State) : Come → Prop
  | .stays t => Keeps z t
  | .goes => True

theorem Keeps.refl (z : State) : Keeps z z := ⟨id, rfl, List.prefix_rfl, Nat.le_refl _⟩

theorem Keeps.trans {a b c : State} (h : Keeps a b) (k : Keeps b c) : Keeps a c :=
  ⟨fun w => k.1 (h.1 w), k.2.1.trans h.2.1, h.2.2.1.trans k.2.2.1, Nat.le_trans h.2.2.2 k.2.2.2⟩

/-- An update of other fields. -/
theorem Keeps.upd {z u t : State} (h : (t.regs, t.bead, t.spad, t.acc, t.vreg, t.pending, t.out, t.freeN)
    = (u.regs, u.bead, u.spad, u.acc, u.vreg, u.pending, u.out, u.freeN)) (k : Keeps z u) : Keeps z t := by
  simp only [Prod.mk.injEq] at h
  obtain ⟨h1, h2, h3, h4, h5, h6, h7, h8⟩ := h
  unfold Keeps Memory.wf at *
  rw [h1, h2, h3, h4, h5, h6, h7, h8]
  exact k

/-- An update of other fields, by the form of the state. -/
theorem Keeps.mk {z u : State}
    {shadow'} {now'} {life'} {held'} {nextDetail'} {summaries'} {failed'} {lastUcc'} {fatal'} {gate'} {msix'} {fns'} {mgs'} {seqs'} {spadBad'}
    {spadPar'} {accBad'} {accPar'} {vregBad'} {framed'} {resvs'} {hubItems'} {hubNext'} {flights'} {probes'} {ox'} {goat'} {tabBad'} {beadPois'} {beads'}
    {reqs'} {reqNext'} {rodMap'} {strms'} {xlats'} {herdX'} {hubTlb'} {brgs'} {rlps'} {judged'} {links'} {ports'} {linkT'} {portT'} {rlWait'} {rlOut'} {rtrBad'} {rtr'} {e2e'} {kvs'}
    {kvm'} {hqs'} {hqNext'} {atc'} {pris'} {atsInv'} {barHeld'} {pipes'} {flrDue'} {resizes'} {cals'} {isls'} {lowPace'} {rrsDone'} {margins'} {tap'} {thm'}
    {boot'}
    (k : Keeps z u) :
    Keeps z (
      { regs := u.regs, shadow := shadow', now := now', freeN := u.freeN, out := u.out, life := life', held := held',
        nextDetail := nextDetail', summaries := summaries', failed := failed', lastUcc := lastUcc', fatal := fatal', gate := gate',
        msix := msix', fns := fns', mgs := mgs', seqs := seqs', spad := u.spad, spadBad := spadBad', spadPar := spadPar', acc := u.acc,
        accBad := accBad', accPar := accPar', vreg := u.vreg, vregBad := vregBad', framed := framed', resvs := resvs', hubItems := hubItems',
        hubNext := hubNext', flights := flights', probes := probes', ox := ox', goat := goat', tabBad := tabBad', bead := u.bead,
        beadPois := beadPois', beads := beads', reqs := reqs', reqNext := reqNext', rodMap := rodMap', strms := strms', xlats := xlats',
        herdX := herdX', hubTlb := hubTlb', brgs := brgs', rlps := rlps', judged := judged', links := links', ports := ports', linkT := linkT', portT := portT', rlWait := rlWait', rlOut := rlOut',
        rtrBad := rtrBad', rtr := rtr', e2e := e2e', kvs := kvs', kvm := kvm', hqs := hqs', hqNext := hqNext', atc := atc', pris := pris',
        atsInv := atsInv', barHeld := barHeld', pipes := pipes', flrDue := flrDue', resizes := resizes', cals := cals', isls := isls', lowPace := lowPace',
        rrsDone := rrsDone', margins := margins', tap := tap', thm := thm', boot := boot', pending := u.pending }) :=
  Keeps.upd rfl k

theorem KeepsP.mk {α : Type} {g : α → State} {z : State} {a : α} (h : Keeps z (g a)) : KeepsP g z a := h

/-! The state inside a result that is written out. -/
section shapes
variable {β γ δ : Type} {z : State}
/-- A value that the result names. -/
theorem KeepsP.let {ε : Type} {g : β → State} {v : ε} {f : ε → β} (h : ∀ a, KeepsP g z (f a)) : KeepsP g z (have x := v; f x) := h v
theorem KeepsP.p2 {a : β} {t : State} (h : Keeps z t) : KeepsP (fun y : β × State => y.2) z (a, t) := h
theorem KeepsP.p1 {a : β} {t : State} (h : Keeps z t) : KeepsP (fun y : State × β => y.1) z (t, a) := h
theorem KeepsP.p22 {a : β} {b : γ} {t : State} (h : Keeps z t) : KeepsP (fun y : β × γ × State => y.2.2) z (a, b, t) := h
theorem KeepsP.p222 {a : β} {b : γ} {c : δ} {t : State} (h : Keeps z t) :
    KeepsP (fun y : β × γ × δ × State => y.2.2.2) z (a, b, c, t) := h
theorem KeepsP.kx {t : State} {h : List (List (Option Nat))} {e : Option KErr} {w : Bool} (k : Keeps z t) : KeepsP (fun y : Kx => y.s) z ⟨t, h, e, w⟩ := k
theorem KeepsP.vio {t : State} {n : Nat} {l : List Byte} {b : List Nat} {h : List (List (Option Nat))} (k : Keeps z t) :
    KeepsP (fun y : VIo => y.s) z ⟨n, l, b, h, t⟩ := k
theorem KeepsP.p2x {a : β} {t : Kx} (h : KeepsP (fun y : Kx => y.s) z t) : KeepsP (fun y : β × Kx => y.2.s) z (a, t) := h
theorem KeepsP.vio1 {a : β} {t : VIo} (h : Keeps z t.s) : KeepsP (fun y : VIo × β => y.1.s) z (t, a) := h
theorem KeepsP.encin {t : VIo} {l : List Nat} {w : VStore} (h : Keeps z t.s) : KeepsP (fun y : EncIn => y.io.s) z ⟨t, l, w⟩ := h
theorem KeepsP.p1v {a : β} {t : VIo} (h : KeepsP (fun y : VIo => y.s) z t) : KeepsP (fun y : VIo × β => y.1.s) z (t, a) := h
end shapes

theorem Keeps.ite {z a b : State} {c : Prop} [Decidable c] (h : c → Keeps z a) (k : ¬c → Keeps z b) : Keeps z (if c then a else b) := by
  by_cases hc : c
  · rw [if_pos hc]; exact h hc
  · rw [if_neg hc]; exact k hc
theorem KeepsR.next {z t : State} (h : Keeps z t) : KeepsR z (.next t) := h
theorem KeepsR.out {z t : State} (h : KeepsR z (.next t)) : Keeps z t := h
theorem KeepsO.some {z t : State} (h : Keeps z t) : KeepsO z (some t) := h
theorem KeepsO.none {z : State} : KeepsO z none := True.intro
theorem Keeps.getD {z d : State} {o : Option State} (h : KeepsO z o) (k : Keeps z d) : Keeps z (o.getD d) := by
  cases o with
  | none => exact k
  | some t => exact h
theorem KeepsC.stays {z t : State} (h : Keeps z t) : KeepsC z (.stays t) := h
theorem KeepsC.goes {z : State} : KeepsC z .goes := True.intro

section folds
variable {α β γ δ ε : Type} {z : State}

theorem Keeps.foldl (l : List α) (f : State → α → State) (b : State) (hb : Keeps z b)
    (hf : ∀ t a, Keeps z t → Keeps z (f t a)) : Keeps z (l.foldl f b) := by
  induction l generalizing b with
  | nil => exact hb
  | cons a t ih => exact ih _ (hf _ _ hb)

theorem Keeps.foldlx (l : List α) (f : Kx → α → Kx) (b : Kx) (hb : Keeps z b.s)
    (hf : ∀ (t : Kx) a, Keeps z t.s → KeepsP (fun y => y.s) z (f t a)) : Keeps z (l.foldl f b).s := by
  induction l generalizing b with
  | nil => exact hb
  | cons a t ih => exact ih _ (hf _ _ hb)

theorem Keeps.foldlv (l : List α) (f : VIo → α → VIo) (b : VIo) (hb : Keeps z b.s)
    (hf : ∀ (t : VIo) a, Keeps z t.s → KeepsP (fun y => y.s) z (f t a)) : Keeps z (l.foldl f b).s := by
  induction l generalizing b with
  | nil => exact hb
  | cons a t ih => exact ih _ (hf _ _ hb)

theorem Keeps.foldl2 (l : List α) (f : β × State → α → β × State) (b : β × State) (hb : Keeps z b.2)
    (hf : ∀ (t : β × State) a, Keeps z t.2 → KeepsP (fun y => y.2) z (f t a)) : Keeps z (l.foldl f b).2 := by
  induction l generalizing b with
  | nil => exact hb
  | cons a t ih => exact ih _ (hf _ _ hb)

theorem Keeps.foldl1 (l : List α) (f : State × β → α → State × β) (b : State × β) (hb : Keeps z b.1)
    (hf : ∀ (t : State × β) a, Keeps z t.1 → KeepsP (fun y => y.1) z (f t a)) : Keeps z (l.foldl f b).1 := by
  induction l generalizing b with
  | nil => exact hb
  | cons a t ih => exact ih _ (hf _ _ hb)

theorem Keeps.foldl22 (l : List α) (f : β × γ × State → α → β × γ × State) (b : β × γ × State) (hb : Keeps z b.2.2)
    (hf : ∀ (t : β × γ × State) a, Keeps z t.2.2 → KeepsP (fun y => y.2.2) z (f t a)) : Keeps z (l.foldl f b).2.2 := by
  induction l generalizing b with
  | nil => exact hb
  | cons a t ih => exact ih _ (hf _ _ hb)

theorem Keeps.foldl222 (l : List α) (f : β × γ × δ × State → α → β × γ × δ × State) (b : β × γ × δ × State) (hb : Keeps z b.2.2.2)
    (hf : ∀ (t : β × γ × δ × State) a, Keeps z t.2.2.2 → KeepsP (fun y => y.2.2.2) z (f t a)) : Keeps z (l.foldl f b).2.2.2 := by
  induction l generalizing b with
  | nil => exact hb
  | cons a t ih => exact ih _ (hf _ _ hb)

theorem Keeps.foldl2x (l : List α) (f : β × Kx → α → β × Kx) (b : β × Kx) (hb : Keeps z b.2.s)
    (hf : ∀ (t : β × Kx) a, Keeps z t.2.s → KeepsP (fun y => y.2.s) z (f t a)) : Keeps z (l.foldl f b).2.s := by
  induction l generalizing b with
  | nil => exact hb
  | cons a t ih => exact ih _ (hf _ _ hb)

theorem Keeps.of2 {p : β × State} {a : β} {t : State} (h : p = (a, t)) (k : Keeps z p.2) : Keeps z t := by subst h; exact k
theorem Keeps.of1 {p : State × β} {a : β} {t : State} (h : p = (t, a)) (k : Keeps z p.1) : Keeps z t := by subst h; exact k
theorem Keeps.of3 {p : β × γ × State} {a : β} {c : γ} {t : State} (h : p = (a, c, t)) (k : Keeps z p.2.2) : Keeps z t := by
  subst h; exact k
theorem Keeps.of4 {p : β × γ × δ × State} {a : β} {c : γ} {d : δ} {t : State} (h : p = (a, c, d, t)) (k : Keeps z p.2.2.2) :
    Keeps z t := by subst h; exact k
theorem Keeps.of2x {p : β × Kx} {a : β} {t : Kx} (h : p = (a, t)) (k : Keeps z p.2.s) : Keeps z t.s := by subst h; exact k
theorem Keeps.of1v {p : VIo × β} {a : β} {t : VIo} (h : p = (t, a)) (k : Keeps z p.1.s) : Keeps z t.s := by subst h; exact k
theorem Keeps.ofO {o : Option State} {t : State} (h : o = some t) (k : KeepsO z o) : Keeps z t := by subst h; exact k
theorem Keeps.ofC {o : Come} {t : State} (h : o = .stays t) (k : KeepsC z o) : Keeps z t := by subst h; exact k
theorem Keeps.ofR {o : Res} {t : State} (h : o = .next t) (k : KeepsR z o) : Keeps z t := by subst h; exact k
end folds

/-! ### The operations that write what is kept -/

theorem kp_wrW {z : State} (a : Nat) (v : Word) (s : State) (hs : Keeps z s) : Keeps z (wrW a v s) :=
  hs.trans ⟨fun h => ⟨canonical_alPut _ _ h.1, h.2⟩, rfl, List.prefix_rfl, Nat.le_refl _⟩

theorem kp_emit {z : State} (o : Out) (s : State) (hs : Keeps z s) : Keeps z (emit o s) :=
  hs.trans ⟨id, rfl, List.prefix_append _ _, Nat.le_refl _⟩

theorem kp_takeFree {z : State} (s : State) (hs : Keeps z s) : Keeps z (takeFree s).2 :=
  hs.trans ⟨id, rfl, List.prefix_rfl, Nat.le_succ _⟩

theorem kp_vPut {z : State} (i r l v : Nat) (bad : Bool) (s : State) (hs : Keeps z s) : Keeps z (vPut i r l v bad s) :=
  hs.trans ⟨fun h => ⟨h.1, h.2.1, h.2.2.1, h.2.2.2.1, canonical_alPut (d := fun _ => (0 : Word)) _ _ h.2.2.2.2⟩, rfl, List.prefix_rfl, Nat.le_refl _⟩

theorem kp_accPut {z : State} (i e v : Nat) (bad : Bool) (s : State) (hs : Keeps z s) : Keeps z (accPut i e v bad s) :=
  hs.trans ⟨fun h => ⟨h.1, h.2.1, h.2.2.1, canonical_alPut (d := fun _ => (0 : Word)) _ _ h.2.2.2.1, h.2.2.2.2⟩, rfl, List.prefix_rfl, Nat.le_refl _⟩

theorem kp_setF {z : State} (p : Nat) (f : Field) (v : Nat) (s : State) (hs : Keeps z s) : Keeps z (setF p f v s) :=
  kp_wrW _ _ _ hs

theorem kp_spadPut {z : State} (i a : Nat) (b : Byte) (bad : Bool) (s : State) (hs : Keeps z s) : Keeps z (spadPut i a b bad s) := by
  unfold spadPut
  dsimp only
  have h1 : ∀ x y, Keeps z { s with spad := alPut 0 s.spad (spadKey i a) b, spadBad := x, spadPar := y } := fun x y =>
    hs.trans ⟨fun h => ⟨h.1, h.2.1, canonical_alPut (d := fun _ => (0 : Byte)) _ _ h.2.2.1, h.2.2.2⟩, rfl, List.prefix_rfl, Nat.le_refl _⟩
  split
  · exact kp_setF _ _ _ _ (h1 _ _)
  · exact h1 _ _

theorem kp_putBytes {z : State} (i a : Nat) (l : List Byte) (s : State) (hs : Keeps z s) : Keeps z (putBytes i a l s) := by
  induction l generalizing a s with
  | nil => exact hs
  | cons b t ih =>
    refine ih _ _ (hs.trans ⟨fun h => ⟨h.1, canonical_alPut (d := fun _ => (0 : Byte)) _ _ h.2.1, h.2.2⟩, rfl, List.prefix_rfl, Nat.le_refl _⟩)

theorem kp_zeroData {z : State} (i : Nat) (s : State) (hs : Keeps z s) : Keeps z (zeroData i s) :=
  hs.trans ⟨fun h => ⟨h.1, canonical_filter _ h.2.1, h.2.2⟩, rfl, List.prefix_rfl, Nat.le_refl _⟩

theorem kp_clearRod {z : State} (i : Nat) (s : State) (hs : Keeps z s) : Keeps z (clearRod i s) :=
  hs.trans ⟨fun h => ⟨canonical_filter _ h.1, h.2.1, canonical_filter _ h.2.2.1, canonical_filter _ h.2.2.2.1, canonical_filter _ h.2.2.2.2⟩, rfl,
    List.prefix_rfl, Nat.le_refl _⟩

theorem kp_warmClear {z : State} (s : State) (hs : Keeps z s) : Keeps z (warmClear s) :=
  hs.trans ⟨fun h => ⟨h.1, h.2.1, canonical_nil _, canonical_nil _, canonical_nil _⟩, rfl, List.prefix_rfl, Nat.le_refl _⟩

theorem kp_coldHold {z : State} (loss : Option Nat) (s : State) (hs : Keeps z s) : Keeps z (coldHold loss s) :=
  hs.trans ⟨fun _ => ⟨canonical_nil _, canonical_nil _, canonical_nil _, canonical_nil _, canonical_nil _⟩, rfl, List.prefix_rfl,
    Nat.le_refl _⟩

end Sys2Proof.Machine
end

