-- ==== Sys2Proof/Laws/KeepsRegs.lean ====
section
/-! SUPPORT. What every operation of Machine/Regs.lean keeps. -/
set_option linter.all false

namespace Sys2Proof.Machine

theorem kp_waitTill {z : State} (t : Nat) (s : State) (hs : Keeps z s) :
    Keeps z (waitTill t s) := by
  unfold waitTill
  repeat' first
    | (with_reducible assumption) | (with_reducible exact Keeps.mk (by assumption))

theorem kp_waitEvery {z : State} (period : Nat) (last : Option Nat) (s : State) (hs : Keeps z s) :
    Keeps z (waitEvery period last s) := by
  unfold waitEvery
  repeat' first
    | (with_reducible assumption) | (with_reducible apply kp_waitTill) | split | (with_reducible exact Keeps.mk (by assumption))

theorem kp_wr64 {z : State} (a : Nat) (v : Nat) (s : State) (hs : Keeps z s) :
    Keeps z (wr64 a v s) := by
  unfold wr64
  repeat' first
    | (with_reducible assumption) | (with_reducible apply kp_wrW) | dsimp only

theorem kp_bump {z : State} (p : Nat) (f : Field) (by_ : Nat) (s : State) (hs : Keeps z s) :
    Keeps z (bump p f by_ s) := by
  unfold bump
  repeat' first
    | (with_reducible assumption) | (with_reducible apply kp_setF) | dsimp only

theorem kp_bump64 {z : State} (a : Nat) (by_ : Nat) (s : State) (hs : Keeps z s) :
    Keeps z (bump64 a by_ s) := by
  unfold bump64
  repeat' first
    | (with_reducible assumption) | (with_reducible apply kp_wr64) | dsimp only

theorem kp_rstReg {z : State} (k : RstKind) (a : Nat) (s : State) (hs : Keeps z s) :
    Keeps z (rstReg k a s) := by
  unfold rstReg
  repeat' first
    | (with_reducible assumption) | (with_reducible apply kp_wrW) | split | dsimp only | (with_reducible exact Keeps.mk (by assumption))

theorem kp_rstPage {z : State} (k : RstKind) (p : Nat) (s : State) (hs : Keeps z s) :
    Keeps z (rstPage k p s) := by
  unfold rstPage
  repeat' first
    | (with_reducible assumption) | intro _
    | (extract_lets +onlyGivenNames lv; first | (have hx : Keeps z lv := ?_; generalize lv = w at hx ⊢; clear lv; rotate_left; subst lv) | (have hx : KeepsP (fun y : _ × State => y.2) z lv := ?_; generalize lv = w at hx ⊢; clear lv; replace hx : Keeps z w.2 := hx; rotate_left; subst lv) | (have hx : KeepsP (fun y : State × _ => y.1) z lv := ?_; generalize lv = w at hx ⊢; clear lv; replace hx : Keeps z w.1 := hx; rotate_left; subst lv) | (have hx : KeepsP (fun y : _ × _ × State => y.2.2) z lv := ?_; generalize lv = w at hx ⊢; clear lv; replace hx : Keeps z w.2.2 := hx; rotate_left; subst lv) | (generalize lv = w; clear lv) | subst lv)
    | (with_reducible apply kp_rstReg) | (with_reducible apply Keeps.foldl) | (with_reducible apply Keeps.foldlx)
    | (with_reducible apply Keeps.foldlv) | (with_reducible apply Keeps.foldl2) | (with_reducible apply Keeps.foldl1)
    | (with_reducible apply Keeps.foldl22) | (with_reducible apply Keeps.foldl222) | (with_reducible apply Keeps.foldl2x)
    | (with_reducible refine KeepsP.mk ?_; with_reducible first | assumption | apply Keeps.foldlx | apply Keeps.foldlv | apply Keeps.foldl2 | apply Keeps.foldl1 | apply Keeps.foldl22 | apply Keeps.foldl222 | apply Keeps.foldl2x)
    | (with_reducible refine KeepsP.p1 ?_) | (with_reducible refine KeepsP.p2 ?_) | (with_reducible refine KeepsP.p22 ?_)
    | (with_reducible refine Keeps.of2 (by assumption) ?_) | (with_reducible refine Keeps.of1 (by assumption) ?_)
    | (with_reducible refine Keeps.of3 (by assumption) ?_) | dsimp only | (with_reducible exact Keeps.mk (by assumption))

end Sys2Proof.Machine
end

