-- ==== Sys2Proof/Laws/KeepsEvents.lean ====
section
/-! SUPPORT. What every operation of Machine/Events.lean keeps. -/
set_option linter.all false

namespace Sys2Proof.Machine

theorem kp_tallyNow {z : State} (r : TRec) (s : State) (hs : Keeps z s) :
    Keeps z (tallyNow r s) := by
  unfold tallyNow
  repeat' first
    | (with_reducible assumption)
    | (extract_lets +onlyGivenNames lv; first | (have hx : Keeps z lv := ?_; generalize lv = w at hx ⊢; clear lv; rotate_left; subst lv) | (generalize lv = w; clear lv) | subst lv)
    | (with_reducible apply kp_wr64) | dsimp only | (with_reducible exact Keeps.mk (by assumption))

theorem kp_tally {z : State} (kind : Nat) (src : Nat) (code : Nat) (page : Nat) (info : Nat) (data : List Byte) (s : State) (hs : Keeps z s) :
    Keeps z (tally kind src code page info data s) := by
  unfold tally
  repeat' first
    | (with_reducible assumption)
    | (extract_lets +onlyGivenNames lv; first | (have hx : Keeps z lv := ?_; generalize lv = w at hx ⊢; clear lv; rotate_left; subst lv) | (generalize lv = w; clear lv) | subst lv)
    | (with_reducible apply kp_tallyNow) | split | dsimp only | (with_reducible exact Keeps.mk (by assumption))

theorem kp_bmcEvent {z : State} (kind : Nat) (code : Nat) (s : State) (hs : Keeps z s) :
    Keeps z (bmcEvent kind code s) := by
  unfold bmcEvent
  repeat' first
    | (with_reducible assumption)
    | (extract_lets +onlyGivenNames lv; first | (have hx : Keeps z lv := ?_; generalize lv = w at hx ⊢; clear lv; rotate_left; subst lv) | (generalize lv = w; clear lv) | subst lv)
    | (with_reducible apply kp_emit) | dsimp only | (with_reducible exact Keeps.mk (by assumption))

theorem kp_setFn {z : State} (fn : Nat) (v : Fn) (s : State) (hs : Keeps z s) :
    Keeps z (setFn fn v s) := by
  unfold setFn
  repeat' first
    | (with_reducible assumption) | dsimp only | (with_reducible exact Keeps.mk (by assumption))

theorem kp_setMsix {z : State} (fn : Nat) (vec : Nat) (m : Msix) (s : State) (hs : Keeps z s) :
    Keeps z (setMsix fn vec m s) := by
  unfold setMsix
  repeat' first
    | (with_reducible assumption) | dsimp only | (with_reducible exact Keeps.mk (by assumption))

theorem kp_sendMsix {z : State} (fn : Nat) (vec : Nat) (s : State) (hs : Keeps z s) :
    Keeps z (sendMsix fn vec s) := by
  unfold sendMsix
  repeat' first
    | (with_reducible assumption)
    | (extract_lets +onlyGivenNames lv; first | (have hx : Keeps z lv := ?_; generalize lv = w at hx ⊢; clear lv; rotate_left; subst lv) | (generalize lv = w; clear lv) | subst lv)
    | (with_reducible apply kp_setMsix) | (with_reducible apply kp_emit) | split | dsimp only | (with_reducible exact Keeps.mk (by assumption))

theorem kp_holdNote {z : State} (p : Nat) (s : State) (hs : Keeps z s) :
    Keeps z (holdNote p s) := by
  unfold holdNote
  repeat' first
    | (with_reducible assumption)
    | (extract_lets +onlyGivenNames lv; first | (have hx : Keeps z lv := ?_; generalize lv = w at hx ⊢; clear lv; rotate_left; subst lv) | (generalize lv = w; clear lv) | subst lv)
    | (with_reducible apply kp_tally) | split | dsimp only | (with_reducible exact Keeps.mk (by assumption))

theorem kp_recheckHeld {z : State} (s : State) (hs : Keeps z s) :
    Keeps z (recheckHeld s) := by
  unfold recheckHeld
  repeat' first
    | (with_reducible assumption) | intro _ | (with_reducible apply kp_tally) | (with_reducible apply Keeps.foldl)
    | (with_reducible apply Keeps.foldlx) | (with_reducible apply Keeps.foldlv) | (with_reducible apply Keeps.foldl2)
    | (with_reducible apply Keeps.foldl1) | (with_reducible apply Keeps.foldl22) | (with_reducible apply Keeps.foldl222)
    | (with_reducible apply Keeps.foldl2x) | split | (with_reducible exact Keeps.mk (by assumption))

theorem kp_deliver {z : State} (p : Nat) (s : State) (hs : Keeps z s) :
    Keeps z (deliver p s) := by
  unfold deliver
  repeat' first
    | (with_reducible assumption) | (with_reducible apply kp_sendMsix) | (with_reducible apply kp_tally) | (with_reducible apply kp_holdNote) | split
    | dsimp only | (with_reducible exact Keeps.mk (by assumption))

theorem kp_raise {z : State} (p : Nat) (b : Nat) (s : State) (hs : Keeps z s) :
    Keeps z (raise p b s) := by
  unfold raise
  repeat' first
    | (with_reducible assumption)
    | (extract_lets +onlyGivenNames lv; first | (have hx : Keeps z lv := ?_; generalize lv = w at hx ⊢; clear lv; rotate_left; subst lv) | (generalize lv = w; clear lv) | subst lv)
    | (with_reducible apply kp_wrW) | (with_reducible apply kp_tally) | (with_reducible apply kp_deliver) | split | dsimp only

theorem kp_dropHeldIfClear {z : State} (p : Nat) (s : State) (hs : Keeps z s) :
    Keeps z (dropHeldIfClear p s) := by
  unfold dropHeldIfClear
  repeat' first
    | (with_reducible assumption) | split | dsimp only | (with_reducible exact Keeps.mk (by assumption))

end Sys2Proof.Machine
end

