-- ==== Sys2Proof/Laws/KeepsCells.lean ====
section
/-! SUPPORT. What every operation of Machine/Cells.lean keeps. -/
set_option linter.all false

namespace Sys2Proof.Machine

theorem kp_setSeq {z : State} (i : Nat) (v : SeqSt) (s : State) (hs : Keeps z s) :
    Keeps z (setSeq i v s) := by
  unfold setSeq
  repeat' first
    | (with_reducible assumption) | dsimp only | (with_reducible exact Keeps.mk (by assumption))

theorem kp_updStarted {z : State} (i : Nat) (num : Nat) (f : Started → Started) (s : State) (hs : Keeps z s) :
    Keeps z (updStarted i num f s) := by
  unfold updStarted
  repeat' first
    | (with_reducible assumption)
    | (extract_lets +onlyGivenNames lv; first | (have hx : Keeps z lv := ?_; generalize lv = w at hx ⊢; clear lv; rotate_left; subst lv) | (generalize lv = w; clear lv) | subst lv)
    | (with_reducible apply kp_setSeq) | split | dsimp only | (with_reducible exact Keeps.mk (by assumption))

theorem kp_markDone {z : State} (i : Nat) (num : Nat) (status : Nat) (res : SReg) (s : State) (hs : Keeps z s) :
    Keeps z (markDone i num status res s) := by
  unfold markDone
  repeat' first
    | (with_reducible assumption) | intro _ | (with_reducible apply kp_updStarted) | dsimp only | (with_reducible exact Keeps.mk (by assumption))

theorem kp_dropResvs {z : State} (p : Sender → Bool) (s : State) (hs : Keeps z s) :
    Keeps z (dropResvs p s) := by
  unfold dropResvs
  repeat' first
    | (with_reducible assumption) | dsimp only | (with_reducible exact Keeps.mk (by assumption))

theorem kp_answerSend {z : State} (src : Sender) (code : Nat) (s : State) (hs : Keeps z s) :
    Keeps z (answerSend src code s) := by
  unfold answerSend
  repeat' first
    | (with_reducible assumption) | intro _
    | (extract_lets +onlyGivenNames lv; first | (have hx : Keeps z lv := ?_; generalize lv = w at hx ⊢; clear lv; rotate_left; subst lv) | (generalize lv = w; clear lv) | subst lv)
    | (with_reducible apply kp_updStarted) | split | dsimp only [id] | (with_reducible exact Keeps.mk (by assumption))

theorem kp_updReq {z : State} (id : Nat) (f : PReq → PReq) (s : State) (hs : Keeps z s) :
    Keeps z (updReq id f s) := by
  unfold updReq
  repeat' first
    | (with_reducible assumption) | intro _ | split | dsimp only [id] | (with_reducible exact Keeps.mk (by assumption))

theorem kp_spadWriteFrom {z : State} (i : Nat) (a : Nat) (k : Nat) (a3 : List Byte) (a4 : List Nat) (a5 : State) (ha5 : Keeps z a5) :
    Keeps z (spadWriteFrom i a k a3 a4 a5) := by
  induction a3 generalizing i a k a4 a5 with
  | nil => unfold spadWriteFrom; repeat' first
    | (with_reducible assumption) | (with_reducible apply kp_spadPut) | split | dsimp only
  | cons w w1 ih => unfold spadWriteFrom; repeat' first
    | (with_reducible assumption) | (with_reducible apply ih) | (with_reducible apply kp_spadPut) | split | dsimp only

theorem kp_spadWrite {z : State} (i : Nat) (a : Nat) (bs : List Byte) (bad : List Nat) (s : State) (hs : Keeps z s) :
    Keeps z (spadWrite i a bs bad s) := by
  unfold spadWrite
  repeat' first
    | (with_reducible assumption) | (with_reducible apply kp_spadWriteFrom) | dsimp only

theorem kp_vPutFrom {z : State} (i : Nat) (r : Nat) (a : Nat) (a3 : List (Nat × Bool)) (a4 : State) (ha4 : Keeps z a4) :
    Keeps z (vPutFrom i r a a3 a4) := by
  induction a3 generalizing i r a a4 with
  | nil => unfold vPutFrom; repeat' first
    | (with_reducible assumption) | (with_reducible apply kp_vPut) | split | dsimp only
  | cons w w1 ih => unfold vPutFrom; repeat' first
    | (with_reducible assumption) | (with_reducible apply ih) | (with_reducible apply kp_vPut) | split | dsimp only

theorem kp_setFq {z : State} (q : Nat) (v : FQueue) (s : State) (hs : Keeps z s) :
    Keeps z (setFq q v s) := by
  unfold setFq
  repeat' first
    | (with_reducible assumption) | (with_reducible exact Keeps.mk (by assumption))

theorem kp_flushQueue {z : State} (q : Nat) (s : State) (hs : Keeps z s) :
    Keeps z (flushQueue q s) := by
  unfold flushQueue
  repeat' first
    | (with_reducible assumption) | intro _
    | (extract_lets +onlyGivenNames lv; first | (have hx : Keeps z lv := ?_; generalize lv = w at hx ⊢; clear lv; rotate_left; subst lv) | (generalize lv = w; clear lv) | subst lv)
    | (with_reducible apply kp_setFq) | (with_reducible apply Keeps.foldl) | (with_reducible apply Keeps.foldlx)
    | (with_reducible apply Keeps.foldlv) | (with_reducible apply Keeps.foldl2) | (with_reducible apply Keeps.foldl1)
    | (with_reducible apply Keeps.foldl22) | (with_reducible apply Keeps.foldl222) | (with_reducible apply Keeps.foldl2x)
    | (with_reducible exact Keeps.mk (by assumption))

end Sys2Proof.Machine
end

