-- ==== Sys2Proof/Laws/KeepsComplete.lean ====
section
/-! SUPPORT. What every operation of Machine/Complete.lean keeps. -/
set_option linter.all false

namespace Sys2Proof.Machine

theorem kp_setPstate {z : State} (i : Nat) (v : Nat) (s : State) (hs : Keeps z s) :
    Keeps z (setPstate i v s) := by
  unfold setPstate
  repeat' first
    | (with_reducible assumption) | (with_reducible apply kp_setF)

theorem kp_putSeq {z : State} (i : Nat) (q : SeqSt) (s : State) (hs : Keeps z s) :
    Keeps z (putSeq i q s) := by
  unfold putSeq
  repeat' first
    | (with_reducible assumption) | (with_reducible apply kp_setF) | (with_reducible apply kp_setSeq)

theorem kp_programFault {z : State} (i : Nat) (code : Nat) (unit : Nat) (pc : Nat) (s : State) (hs : Keeps z s) :
    Keeps z (programFault i code unit pc s) := by
  unfold programFault
  repeat' first
    | (with_reducible assumption) | intro _
    | (extract_lets +onlyGivenNames lv; first | (have hx : Keeps z lv := ?_; generalize lv = w at hx ⊢; clear lv; rotate_left; subst lv) | (generalize lv = w; clear lv) | subst lv)
    | (with_reducible apply kp_dropResvs) | (with_reducible apply kp_setPstate) | (with_reducible apply kp_setF) | (with_reducible apply kp_putSeq)
    | split | (with_reducible exact Keeps.mk (by assumption))

theorem kp_signalTok {z : State} (i : Nat) (t : Nat) (s : State) (hs : Keeps z s) :
    Keeps z (signalTok i t s) := by
  unfold signalTok
  repeat' first
    | (with_reducible assumption)
    | (extract_lets +onlyGivenNames lv; first | (have hx : Keeps z lv := ?_; generalize lv = w at hx ⊢; clear lv; rotate_left; subst lv) | (generalize lv = w; clear lv) | subst lv)
    | (with_reducible apply kp_programFault) | (with_reducible apply kp_setSeq) | split | (with_reducible exact Keeps.mk (by assumption))

theorem kp_finish {z : State} (i : Nat) (c : QCmd) (status : Nat) (res : SReg) (s : State) (hs : Keeps z s) :
    Keeps z (finish i c status res s) := by
  unfold finish
  repeat' first
    | (with_reducible assumption)
    | (extract_lets +onlyGivenNames lv; first | (have hx : Keeps z lv := ?_; generalize lv = w at hx ⊢; clear lv; rotate_left; subst lv) | (generalize lv = w; clear lv) | subst lv)
    | (with_reducible apply kp_setSeq) | (with_reducible apply kp_raise) | (with_reducible apply kp_setF) | (with_reducible apply kp_signalTok)
    | (with_reducible apply kp_programFault) | split | (with_reducible exact Keeps.mk (by assumption))

theorem kp_unitHook {z : State} (i : Nat) (c : Started) (s : State) (hs : Keeps z s) :
    Keeps z (unitHook i c s) := by
  unfold unitHook
  repeat' first
    | (with_reducible assumption) | (with_reducible apply kp_bump) | (with_reducible apply kp_setF) | (with_reducible apply kp_bump64)
    | (with_reducible apply kp_Kx_status) | split | (with_reducible refine KeepsP.mk ?_; with_reducible first | assumption | apply kp_Kx_status)
    | (with_reducible refine KeepsP.p1 ?_) | (with_reducible refine KeepsP.p2 ?_) | (with_reducible refine KeepsP.p22 ?_)
    | (with_reducible refine KeepsP.kx ?_) | (with_reducible refine KeepsP.p2x ?_) | (with_reducible refine Keeps.of2x (by assumption) ?_)
    | (with_reducible refine KeepsP.vio1 ?_) | (with_reducible refine KeepsP.encin ?_) | (with_reducible refine KeepsP.vio ?_)
    | (with_reducible refine Keeps.of1v (by assumption) ?_) | (with_reducible refine Keeps.of2 (by assumption) ?_)
    | (with_reducible refine Keeps.of1 (by assumption) ?_) | (with_reducible refine Keeps.of3 (by assumption) ?_)

theorem kp_finishNow {z : State} (i : Nat) (c : QCmd) (status : Nat) (res : SReg) (s : State) (hs : Keeps z s) :
    Keeps z (finishNow i c status res s) := by
  unfold finishNow
  repeat' first
    | (with_reducible assumption) | (with_reducible apply kp_finish) | (with_reducible apply kp_unitHook)

end Sys2Proof.Machine
end

