-- ==== Sys2Proof/Laws/KeepsEnds.lean ====
section
/-! SUPPORT. What every operation of Machine/Ends.lean keeps. -/
set_option linter.all false

namespace Sys2Proof.Machine

theorem kp_setStr {z : State} (i : Nat) (k : Nat) (v : Str) (s : State) (hs : Keeps z s) :
    Keeps z (setStr i k v s) := by
  unfold setStr
  repeat' first
    | (with_reducible assumption) | dsimp only | (with_reducible exact Keeps.mk (by assumption))

theorem kp_showDeliv {z : State} (i : Nat) (k : Nat) (t : Str) (s : State) (hs : Keeps z s) :
    Keeps z (showDeliv i k t s) := by
  unfold showDeliv
  repeat' first
    | (with_reducible assumption)
    | (extract_lets +onlyGivenNames lv; first | (have hx : Keeps z lv := ?_; generalize lv = w at hx ⊢; clear lv; rotate_left; subst lv) | (generalize lv = w; clear lv) | subst lv)
    | (with_reducible apply kp_wrW) | dsimp only

theorem kp_showPos {z : State} (i : Nat) (k : Nat) (rec : List Byte) (s : State) (hs : Keeps z s) :
    Keeps z (showPos i k rec s) := by
  unfold showPos
  repeat' first
    | (with_reducible assumption) | intro _ | (with_reducible apply kp_wrW) | (with_reducible apply Keeps.foldl) | (with_reducible apply Keeps.foldlx)
    | (with_reducible apply Keeps.foldlv) | (with_reducible apply Keeps.foldl2) | (with_reducible apply Keeps.foldl1)
    | (with_reducible apply Keeps.foldl22) | (with_reducible apply Keeps.foldl222) | (with_reducible apply Keeps.foldl2x)
    | (with_reducible refine KeepsP.mk ?_; with_reducible first | assumption | apply Keeps.foldlx | apply Keeps.foldlv | apply Keeps.foldl2 | apply Keeps.foldl1 | apply Keeps.foldl22 | apply Keeps.foldl222 | apply Keeps.foldl2x)
    | (with_reducible refine Keeps.of2 (by assumption) ?_) | (with_reducible refine Keeps.of1 (by assumption) ?_)
    | (with_reducible refine Keeps.of3 (by assumption) ?_) | dsimp only

theorem kp_showReqs {z : State} (i : Nat) (s : State) (hs : Keeps z s) :
    Keeps z (showReqs i s) := by
  unfold showReqs
  repeat' first
    | (with_reducible assumption) | intro _
    | (extract_lets +onlyGivenNames lv; first | (have hx : Keeps z lv := ?_; generalize lv = w at hx ⊢; clear lv; rotate_left; subst lv) | (generalize lv = w; clear lv) | subst lv)
    | (with_reducible apply kp_setF) | (with_reducible apply Keeps.foldl) | (with_reducible apply Keeps.foldlx) | (with_reducible apply Keeps.foldlv)
    | (with_reducible apply Keeps.foldl2) | (with_reducible apply Keeps.foldl1) | (with_reducible apply Keeps.foldl22)
    | (with_reducible apply Keeps.foldl222) | (with_reducible apply Keeps.foldl2x) | split | (with_reducible exact Keeps.mk (by assumption))

theorem kp_orphanReqs {z : State} (i : Nat) (k : Nat) (p : PReq → Bool) (s : State) (hs : Keeps z s) :
    Keeps z (orphanReqs i k p s) := by
  unfold orphanReqs
  repeat' first
    | (with_reducible assumption) | intro _
    | (extract_lets +onlyGivenNames lv; first | (have hx : Keeps z lv := ?_; generalize lv = w at hx ⊢; clear lv; rotate_left; subst lv) | (have hfn0 : ∀ y, Keeps z y → Keeps z (lv y) := ?_; generalize lv = w at hfn0 ⊢; clear lv; rotate_left; subst lv) | (have hfn1 : ∀ a y, Keeps z y → Keeps z (lv a y) := ?_; generalize lv = w at hfn1 ⊢; clear lv; rotate_left; subst lv) | (have hfn2 : ∀ a b y, Keeps z y → Keeps z (lv a b y) := ?_; generalize lv = w at hfn2 ⊢; clear lv; rotate_left; subst lv) | (have hfn3 : ∀ a b c y, Keeps z y → Keeps z (lv a b c y) := ?_; generalize lv = w at hfn3 ⊢; clear lv; rotate_left; subst lv) | (have hfn4 : ∀ y a, Keeps z y → Keeps z (lv y a) := ?_; generalize lv = w at hfn4 ⊢; clear lv; rotate_left; subst lv) | (have hfn5 : ∀ a, Keeps z (lv a) := ?_; generalize lv = w at hfn5 ⊢; clear lv; rotate_left; subst lv) | (have hfn6 : ∀ a b, Keeps z (lv a b) := ?_; generalize lv = w at hfn6 ⊢; clear lv; rotate_left; subst lv) | (have hfn7 : ∀ y a b, Keeps z y → Keeps z (lv y a b) := ?_; generalize lv = w at hfn7 ⊢; clear lv; rotate_left; subst lv) | (have hfn8 : ∀ a, KeepsR z (lv a) := ?_; generalize lv = w at hfn8 ⊢; clear lv; rotate_left; subst lv) | (have hfn9 : ∀ y, Keeps z y → KeepsC z (lv y) := ?_; generalize lv = w at hfn9 ⊢; clear lv; rotate_left; subst lv) | (have hfn10 : ∀ y, Keeps z y → KeepsR z (lv y) := ?_; generalize lv = w at hfn10 ⊢; clear lv; rotate_left; subst lv) | (have hfn11 : ∀ a y, Keeps z y → KeepsR z (lv a y) := ?_; generalize lv = w at hfn11 ⊢; clear lv; rotate_left; subst lv) | (have hfn12 : ∀ y a, Keeps z y → KeepsR z (lv y a) := ?_; generalize lv = w at hfn12 ⊢; clear lv; rotate_left; subst lv) | (generalize lv = w; clear lv) | subst lv)
    | (with_reducible apply hfn0) | (with_reducible apply hfn1) | (with_reducible apply hfn2) | (with_reducible apply hfn3)
    | (with_reducible apply hfn4) | (with_reducible apply hfn5) | (with_reducible apply hfn6) | (with_reducible apply hfn7)
    | (with_reducible apply hfn8) | (with_reducible apply hfn9) | (with_reducible apply hfn10) | (with_reducible apply hfn11)
    | (with_reducible apply hfn12) | (with_reducible apply kp_showReqs) | split | (with_reducible exact Keeps.mk (by assumption))

theorem kp_freeReads {z : State} (i : Nat) (k : Nat) (s : State) (hs : Keeps z s) :
    Keeps z (freeReads i k s) := by
  unfold freeReads
  repeat' first
    | (with_reducible assumption) | intro _ | (with_reducible apply kp_showReqs) | split | (with_reducible exact Keeps.mk (by assumption))

theorem kp_goatAbort {z : State} (i : Nat) (k : Nat) (status : Nat) (s : State) (hs : Keeps z s) :
    Keeps z (goatAbort i k status s) := by
  unfold goatAbort
  repeat' first
    | (with_reducible assumption)
    | (extract_lets +onlyGivenNames lv; first | (have hx : Keeps z lv := ?_; generalize lv = w at hx ⊢; clear lv; rotate_left; subst lv) | (generalize lv = w; clear lv) | subst lv)
    | (with_reducible apply kp_raise) | (with_reducible apply kp_markDone) | split | dsimp only | (with_reducible exact Keeps.mk (by assumption))

theorem kp_endStream {z : State} (i : Nat) (k : Nat) (status : Nat) (s : State) (hs : Keeps z s) :
    Keeps z (endStream i k status s) := by
  unfold endStream
  repeat' first
    | (with_reducible assumption) | intro _
    | (extract_lets +onlyGivenNames lv; first | (have hx : Keeps z lv := ?_; generalize lv = w at hx ⊢; clear lv; rotate_left; subst lv) | (generalize lv = w; clear lv) | subst lv)
    | (with_reducible apply kp_orphanReqs) | (with_reducible apply kp_spadWrite) | (with_reducible apply kp_showDeliv)
    | (with_reducible apply kp_showPos) | (with_reducible apply kp_setF) | (with_reducible apply kp_raise) | (with_reducible apply kp_goatAbort)
    | (with_reducible apply kp_markDone) | split | dsimp only | (with_reducible exact Keeps.mk (by assumption))

theorem kp_stopStream {z : State} (i : Nat) (k : Nat) (s : State) (hs : Keeps z s) :
    Keeps z (stopStream i k s) := by
  unfold stopStream
  repeat' first
    | (with_reducible assumption) | (with_reducible apply kp_setStr) | (with_reducible apply kp_endStream) | split
    | (with_reducible exact Keeps.mk (by assumption))

theorem kp_forgetRod {z : State} (i : Nat) (keep : List Nat) (s : State) (hs : Keeps z s) :
    Keeps z (forgetRod i keep s) := by
  unfold forgetRod
  repeat' first
    | (with_reducible assumption) | intro _
    | (extract_lets +onlyGivenNames lv; first | (have hx : Keeps z lv := ?_; generalize lv = w at hx ⊢; clear lv; rotate_left; subst lv) | (have hfn0 : ∀ y, Keeps z y → Keeps z (lv y) := ?_; generalize lv = w at hfn0 ⊢; clear lv; rotate_left; subst lv) | (have hfn1 : ∀ a y, Keeps z y → Keeps z (lv a y) := ?_; generalize lv = w at hfn1 ⊢; clear lv; rotate_left; subst lv) | (have hfn2 : ∀ a b y, Keeps z y → Keeps z (lv a b y) := ?_; generalize lv = w at hfn2 ⊢; clear lv; rotate_left; subst lv) | (have hfn3 : ∀ a b c y, Keeps z y → Keeps z (lv a b c y) := ?_; generalize lv = w at hfn3 ⊢; clear lv; rotate_left; subst lv) | (have hfn4 : ∀ y a, Keeps z y → Keeps z (lv y a) := ?_; generalize lv = w at hfn4 ⊢; clear lv; rotate_left; subst lv) | (have hfn5 : ∀ a, Keeps z (lv a) := ?_; generalize lv = w at hfn5 ⊢; clear lv; rotate_left; subst lv) | (have hfn6 : ∀ a b, Keeps z (lv a b) := ?_; generalize lv = w at hfn6 ⊢; clear lv; rotate_left; subst lv) | (have hfn7 : ∀ y a b, Keeps z y → Keeps z (lv y a b) := ?_; generalize lv = w at hfn7 ⊢; clear lv; rotate_left; subst lv) | (have hfn8 : ∀ a, KeepsR z (lv a) := ?_; generalize lv = w at hfn8 ⊢; clear lv; rotate_left; subst lv) | (have hfn9 : ∀ y, Keeps z y → KeepsC z (lv y) := ?_; generalize lv = w at hfn9 ⊢; clear lv; rotate_left; subst lv) | (have hfn10 : ∀ y, Keeps z y → KeepsR z (lv y) := ?_; generalize lv = w at hfn10 ⊢; clear lv; rotate_left; subst lv) | (have hfn11 : ∀ a y, Keeps z y → KeepsR z (lv a y) := ?_; generalize lv = w at hfn11 ⊢; clear lv; rotate_left; subst lv) | (have hfn12 : ∀ y a, Keeps z y → KeepsR z (lv y a) := ?_; generalize lv = w at hfn12 ⊢; clear lv; rotate_left; subst lv) | (generalize lv = w; clear lv) | subst lv)
    | (with_reducible apply hfn0) | (with_reducible apply hfn1) | (with_reducible apply hfn2) | (with_reducible apply hfn3)
    | (with_reducible apply hfn4) | (with_reducible apply hfn5) | (with_reducible apply hfn6) | (with_reducible apply hfn7)
    | (with_reducible apply hfn8) | (with_reducible apply hfn9) | (with_reducible apply hfn10) | (with_reducible apply hfn11)
    | (with_reducible apply hfn12) | (with_reducible apply kp_dropResvs) | split | (with_reducible exact Keeps.mk (by assumption))

theorem kp_rejectResvs {z : State} (i : Nat) (s : State) (hs : Keeps z s) :
    Keeps z (rejectResvs i s) := by
  unfold rejectResvs
  repeat' first
    | (with_reducible assumption) | intro _
    | (extract_lets +onlyGivenNames lv; first | (have hx : Keeps z lv := ?_; generalize lv = w at hx ⊢; clear lv; rotate_left; subst lv) | (have hx : KeepsP (fun y : _ × State => y.2) z lv := ?_; generalize lv = w at hx ⊢; clear lv; replace hx : Keeps z w.2 := hx; rotate_left; subst lv) | (have hx : KeepsP (fun y : State × _ => y.1) z lv := ?_; generalize lv = w at hx ⊢; clear lv; replace hx : Keeps z w.1 := hx; rotate_left; subst lv) | (have hx : KeepsP (fun y : _ × _ × State => y.2.2) z lv := ?_; generalize lv = w at hx ⊢; clear lv; replace hx : Keeps z w.2.2 := hx; rotate_left; subst lv) | (have hfn0 : ∀ y, Keeps z y → Keeps z (lv y) := ?_; generalize lv = w at hfn0 ⊢; clear lv; rotate_left; subst lv) | (have hfn1 : ∀ a y, Keeps z y → Keeps z (lv a y) := ?_; generalize lv = w at hfn1 ⊢; clear lv; rotate_left; subst lv) | (have hfn2 : ∀ a b y, Keeps z y → Keeps z (lv a b y) := ?_; generalize lv = w at hfn2 ⊢; clear lv; rotate_left; subst lv) | (have hfn3 : ∀ a b c y, Keeps z y → Keeps z (lv a b c y) := ?_; generalize lv = w at hfn3 ⊢; clear lv; rotate_left; subst lv) | (have hfn4 : ∀ y a, Keeps z y → Keeps z (lv y a) := ?_; generalize lv = w at hfn4 ⊢; clear lv; rotate_left; subst lv) | (have hfn5 : ∀ a, Keeps z (lv a) := ?_; generalize lv = w at hfn5 ⊢; clear lv; rotate_left; subst lv) | (have hfn6 : ∀ a b, Keeps z (lv a b) := ?_; generalize lv = w at hfn6 ⊢; clear lv; rotate_left; subst lv) | (have hfn7 : ∀ y a b, Keeps z y → Keeps z (lv y a b) := ?_; generalize lv = w at hfn7 ⊢; clear lv; rotate_left; subst lv) | (have hfn8 : ∀ a, KeepsR z (lv a) := ?_; generalize lv = w at hfn8 ⊢; clear lv; rotate_left; subst lv) | (have hfn9 : ∀ y, Keeps z y → KeepsC z (lv y) := ?_; generalize lv = w at hfn9 ⊢; clear lv; rotate_left; subst lv) | (have hfn10 : ∀ y, Keeps z y → KeepsR z (lv y) := ?_; generalize lv = w at hfn10 ⊢; clear lv; rotate_left; subst lv) | (have hfn11 : ∀ a y, Keeps z y → KeepsR z (lv a y) := ?_; generalize lv = w at hfn11 ⊢; clear lv; rotate_left; subst lv) | (have hfn12 : ∀ y a, Keeps z y → KeepsR z (lv y a) := ?_; generalize lv = w at hfn12 ⊢; clear lv; rotate_left; subst lv) | (generalize lv = w; clear lv) | subst lv)
    | (with_reducible apply hfn0) | (with_reducible apply hfn1) | (with_reducible apply hfn2) | (with_reducible apply hfn3)
    | (with_reducible apply hfn4) | (with_reducible apply hfn5) | (with_reducible apply hfn6) | (with_reducible apply hfn7)
    | (with_reducible apply hfn8) | (with_reducible apply hfn9) | (with_reducible apply hfn10) | (with_reducible apply hfn11)
    | (with_reducible apply hfn12) | (with_reducible apply kp_answerSend) | (with_reducible apply Keeps.foldl) | (with_reducible apply Keeps.foldlx)
    | (with_reducible apply Keeps.foldlv) | (with_reducible apply Keeps.foldl2) | (with_reducible apply Keeps.foldl1)
    | (with_reducible apply Keeps.foldl22) | (with_reducible apply Keeps.foldl222) | (with_reducible apply Keeps.foldl2x)
    | (with_reducible refine KeepsP.mk ?_; with_reducible first | assumption | apply Keeps.foldlx | apply Keeps.foldlv | apply Keeps.foldl2 | apply Keeps.foldl1 | apply Keeps.foldl22 | apply Keeps.foldl222 | apply Keeps.foldl2x)
    | (with_reducible refine KeepsP.p1 ?_) | (with_reducible refine KeepsP.p2 ?_) | (with_reducible refine KeepsP.p22 ?_)
    | (with_reducible refine Keeps.of2 (by assumption) ?_) | (with_reducible refine Keeps.of1 (by assumption) ?_)
    | (with_reducible refine Keeps.of3 (by assumption) ?_) | dsimp only | (with_reducible exact Keeps.mk (by assumption))

theorem kp_stopStarted {z : State} (i : Nat) (c : Started) (s : State) (hs : Keeps z s) :
    Keeps z (stopStarted i c s) := by
  unfold stopStarted
  repeat' first
    | (with_reducible assumption)
    | (extract_lets +onlyGivenNames lv; first | (have hx : Keeps z lv := ?_; generalize lv = w at hx ⊢; clear lv; rotate_left; subst lv) | (generalize lv = w; clear lv) | subst lv)
    | (with_reducible apply kp_finish) | (with_reducible apply kp_unitHook) | (with_reducible exact Keeps.mk (by assumption))

theorem kp_stopProgramBut {z : State} (kept : List Started) (i : Nat) (s : State) (hs : Keeps z s) :
    Keeps z (stopProgramBut kept i s) := by
  unfold stopProgramBut
  repeat' first
    | (with_reducible assumption) | intro _
    | (extract_lets +onlyGivenNames lv; first | (have hx : Keeps z lv := ?_; generalize lv = w at hx ⊢; clear lv; rotate_left; subst lv) | (generalize lv = w; clear lv) | subst lv)
    | (with_reducible apply kp_rejectResvs) | (with_reducible apply kp_forgetRod) | (with_reducible apply kp_raise) | (with_reducible apply kp_setF)
    | (with_reducible apply kp_setSeq) | (with_reducible apply kp_stopStarted) | (with_reducible apply Keeps.foldl)
    | (with_reducible apply Keeps.foldlx) | (with_reducible apply Keeps.foldlv) | (with_reducible apply Keeps.foldl2)
    | (with_reducible apply Keeps.foldl1) | (with_reducible apply Keeps.foldl22) | (with_reducible apply Keeps.foldl222)
    | (with_reducible apply Keeps.foldl2x) | split | (with_reducible exact Keeps.mk (by assumption))

theorem kp_stopProgram {z : State} (i : Nat) (s : State) (hs : Keeps z s) :
    Keeps z (stopProgram i s) := by
  unfold stopProgram
  repeat' first
    | (with_reducible assumption) | (with_reducible apply kp_stopProgramBut)

theorem kp_haltProgram {z : State} (i : Nat) (s : State) (hs : Keeps z s) :
    Keeps z (haltProgram i s) := by
  unfold haltProgram
  repeat' first
    | (with_reducible assumption) | (with_reducible apply kp_stopProgramBut)

end Sys2Proof.Machine
end

