-- ==== Sys2Proof/Laws/KeepsHqCore.lean ====
section
/-! SUPPORT. What every operation of Machine/HqCore.lean keeps. -/
set_option linter.all false

namespace Sys2Proof.Machine

theorem kp_setHq {z : State} (n : Nat) (x : HqSt) (s : State) (hs : Keeps z s) :
    Keeps z (setHq n x s) := by
  unfold setHq
  repeat' first
    | (with_reducible assumption) | dsimp only | (with_reducible exact Keeps.mk (by assumption))

theorem kp_sendItemAs {z : State} (hdr : Nat) (rod : Nat) (ch : Nat) (body : List Byte) (s : State) (hs : Keeps z s) :
    Keeps z (sendItemAs hdr rod ch body s) := by
  unfold sendItemAs
  repeat' first
    | (with_reducible assumption) | (with_reducible exact Keeps.mk (by assumption))

theorem kp_sendItem {z : State} (rod : Nat) (ch : Nat) (body : List Byte) (s : State) (hs : Keeps z s) :
    Keeps z (sendItem rod ch body s) := by
  unfold sendItem
  repeat' first
    | (with_reducible assumption) | (with_reducible apply kp_sendItemAs)

theorem kp_hqPush {z : State} (n : Nat) (c : HqCpl) (s : State) (hs : Keeps z s) :
    Keeps z (hqPush n c s) := by
  unfold hqPush
  repeat' first
    | (with_reducible assumption)
    | (extract_lets +onlyGivenNames lv; first | (have hx : Keeps z lv := ?_; generalize lv = w at hx ⊢; clear lv; rotate_left; subst lv) | (generalize lv = w; clear lv) | subst lv)
    | (with_reducible apply kp_setHq) | dsimp only | (with_reducible exact Keeps.mk (by assumption))

theorem kp_hqDup {z : State} (n : Nat) (e : HqEnt) (r : SidRec) (s : State) (hs : Keeps z s) :
    Keeps z (hqDup n e r s) := by
  unfold hqDup
  repeat' first
    | (with_reducible assumption)
    | (extract_lets +onlyGivenNames lv; first | (have hx : Keeps z lv := ?_; generalize lv = w at hx ⊢; clear lv; rotate_left; subst lv) | (generalize lv = w; clear lv) | subst lv)
    | (with_reducible apply kp_setHq) | (with_reducible apply kp_hqPush) | (with_reducible apply kp_raise) | (with_reducible apply kp_bump)
    | dsimp only | (with_reducible exact Keeps.mk (by assumption))

theorem kp_hqOver {z : State} (key : Nat) (status : Nat) (res : Nat) (vid : List Nat) (s : State) (hs : Keeps z s) :
    Keeps z (hqOver key status res vid s) := by
  unfold hqOver
  repeat' first
    | (with_reducible assumption) | intro _
    | (extract_lets +onlyGivenNames lv; first | (have hx : Keeps z lv := ?_; generalize lv = w at hx ⊢; clear lv; rotate_left; subst lv) | (have hx : KeepsP (fun y : _ × State => y.2) z lv := ?_; generalize lv = w at hx ⊢; clear lv; replace hx : Keeps z w.2 := hx; rotate_left; subst lv) | (have hx : KeepsP (fun y : State × _ => y.1) z lv := ?_; generalize lv = w at hx ⊢; clear lv; replace hx : Keeps z w.1 := hx; rotate_left; subst lv) | (have hx : KeepsP (fun y : _ × _ × State => y.2.2) z lv := ?_; generalize lv = w at hx ⊢; clear lv; replace hx : Keeps z w.2.2 := hx; rotate_left; subst lv) | (generalize lv = w; clear lv) | subst lv)
    | (with_reducible apply kp_setHq) | (with_reducible apply kp_hqPush) | (with_reducible apply kp_hqDup) | (with_reducible apply Keeps.foldl)
    | (with_reducible apply Keeps.foldlx) | (with_reducible apply Keeps.foldlv) | (with_reducible apply Keeps.foldl2)
    | (with_reducible apply Keeps.foldl1) | (with_reducible apply Keeps.foldl22) | (with_reducible apply Keeps.foldl222)
    | (with_reducible apply Keeps.foldl2x) | split
    | (with_reducible refine KeepsP.mk ?_; with_reducible first | assumption | apply Keeps.foldlx | apply Keeps.foldlv | apply Keeps.foldl2 | apply Keeps.foldl1 | apply Keeps.foldl22 | apply Keeps.foldl222 | apply Keeps.foldl2x)
    | (with_reducible refine KeepsP.p1 ?_) | (with_reducible refine KeepsP.p2 ?_) | (with_reducible refine KeepsP.p22 ?_)
    | (with_reducible refine Keeps.of2 (by assumption) ?_) | (with_reducible refine Keeps.of1 (by assumption) ?_)
    | (with_reducible refine Keeps.of3 (by assumption) ?_) | dsimp only | (with_reducible exact Keeps.mk (by assumption))

theorem kp_hqNote {z : State} (key : Nat) (vid : List Nat) (s : State) (hs : Keeps z s) :
    Keeps z (hqNote key vid s) := by
  unfold hqNote
  repeat' first
    | (with_reducible assumption)
    | (extract_lets +onlyGivenNames lv; first | (have hx : Keeps z lv := ?_; generalize lv = w at hx ⊢; clear lv; rotate_left; subst lv) | (generalize lv = w; clear lv) | subst lv)
    | (with_reducible apply kp_hqPush) | split | dsimp only | (with_reducible exact Keeps.mk (by assumption))

theorem kp_hqClear {z : State} (n : Nat) (q : Nat) (s : State) (hs : Keeps z s) :
    Keeps z (hqClear n q s) := by
  unfold hqClear
  repeat' first
    | (with_reducible assumption)
    | (extract_lets +onlyGivenNames lv; first | (have hx : Keeps z lv := ?_; generalize lv = w at hx ⊢; clear lv; rotate_left; subst lv) | (generalize lv = w; clear lv) | subst lv)
    | (with_reducible apply kp_setHq) | dsimp only | (with_reducible exact Keeps.mk (by assumption))

end Sys2Proof.Machine
end

