-- ==== Sys2Proof/Laws/KeepsIslCore.lean ====
section
/-! SUPPORT. What every operation of Machine/IslCore.lean keeps. -/
set_option linter.all false

namespace Sys2Proof.Machine

theorem kp_setIsl {z : State} (j : Nat) (x : IslX) (s : State) (hs : Keeps z s) :
    Keeps z (setIsl j x s) := by
  unfold setIsl
  repeat' first
    | (with_reducible assumption) | (with_reducible exact Keeps.mk (by assumption))

theorem kp_showMv {z : State} (j : Nat) (mv : Nat) (s : State) (hs : Keeps z s) :
    Keeps z (showMv j mv s) := by
  unfold showMv
  repeat' first
    | (with_reducible assumption) | (with_reducible apply kp_setF)

theorem kp_islAccept {z : State} (j : Nat) (code : Nat) (src : Nat) (mv : Nat) (s : State) (hs : Keeps z s) :
    Keeps z (islAccept j code src mv s) := by
  unfold islAccept
  repeat' first
    | (with_reducible assumption)
    | (extract_lets +onlyGivenNames lv; first | (have hx : Keeps z lv := ?_; generalize lv = w at hx ⊢; clear lv; rotate_left; subst lv) | (generalize lv = w; clear lv) | subst lv)
    | (with_reducible apply kp_raise) | (with_reducible apply kp_setF) | (with_reducible apply kp_bump) | (with_reducible apply kp_setIsl)
    | (with_reducible apply kp_showMv) | split | (with_reducible exact Keeps.mk (by assumption))

theorem kp_islIssue {z : State} (j : Nat) (code : Nat) (src : Nat) (s : State) (hs : Keeps z s) :
    Keeps z (islIssue j code src s) := by
  unfold islIssue
  repeat' first
    | (with_reducible assumption) | (with_reducible apply kp_islAccept)

theorem kp_islRefuse {z : State} (j : Nat) (st : Nat) (s : State) (hs : Keeps z s) :
    Keeps z (islRefuse j st s) := by
  unfold islRefuse
  repeat' first
    | (with_reducible assumption) | (with_reducible apply kp_setF)

theorem kp_holdIsl {z : State} (j : Nat) (s : State) (hs : Keeps z s) :
    Keeps z (holdIsl j s) := by
  unfold holdIsl
  repeat' first
    | (with_reducible assumption)
    | (extract_lets +onlyGivenNames lv; first | (have hx : Keeps z lv := ?_; generalize lv = w at hx ⊢; clear lv; rotate_left; subst lv) | (generalize lv = w; clear lv) | subst lv)
    | (with_reducible apply kp_islIssue) | (with_reducible apply kp_setIsl) | split | (with_reducible exact Keeps.mk (by assumption))

theorem kp_showIslPace {z : State} (j : Nat) (s : State) (hs : Keeps z s) :
    Keeps z (showIslPace j s) := by
  unfold showIslPace
  repeat' first
    | (with_reducible assumption) | intro _
    | (extract_lets +onlyGivenNames lv; first | (have hx : Keeps z lv := ?_; generalize lv = w at hx ⊢; clear lv; rotate_left; subst lv) | (generalize lv = w; clear lv) | subst lv)
    | (with_reducible apply kp_setF) | (with_reducible apply Keeps.foldl) | (with_reducible apply Keeps.foldlx) | (with_reducible apply Keeps.foldlv)
    | (with_reducible apply Keeps.foldl2) | (with_reducible apply Keeps.foldl1) | (with_reducible apply Keeps.foldl22)
    | (with_reducible apply Keeps.foldl222) | (with_reducible apply Keeps.foldl2x) | split

theorem kp_paceGone {z : State} (j : Nat) (s : State) (hs : Keeps z s) :
    Keeps z (paceGone j s) := by
  unfold paceGone
  repeat' first
    | (with_reducible assumption) | intro _
    | (extract_lets +onlyGivenNames lv; first | (have hx : Keeps z lv := ?_; generalize lv = w at hx ⊢; clear lv; rotate_left; subst lv) | (generalize lv = w; clear lv) | subst lv)
    | (with_reducible apply kp_showIslPace) | (with_reducible apply kp_setF) | (with_reducible apply Keeps.foldl)
    | (with_reducible apply Keeps.foldlx) | (with_reducible apply Keeps.foldlv) | (with_reducible apply Keeps.foldl2)
    | (with_reducible apply Keeps.foldl1) | (with_reducible apply Keeps.foldl22) | (with_reducible apply Keeps.foldl222)
    | (with_reducible apply Keeps.foldl2x) | split | (with_reducible exact Keeps.mk (by assumption))

theorem kp_measureMv {z : State} (j : Nat) (mv : Nat) (s : State) (hs : Keeps z s) :
    Keeps z (measureMv j mv s) := by
  unfold measureMv
  repeat' first
    | (with_reducible assumption)
    | (extract_lets +onlyGivenNames lv; first | (have hx : Keeps z lv := ?_; generalize lv = w at hx ⊢; clear lv; rotate_left; subst lv) | (generalize lv = w; clear lv) | subst lv)
    | (with_reducible apply kp_showMv) | (with_reducible apply kp_setIsl) | (with_reducible apply kp_paceGone) | split
    | (with_reducible exact Keeps.mk (by assumption))

end Sys2Proof.Machine
end

