-- ==== Sys2Proof/Laws/KeepsKvCore.lean ====
section
/-! SUPPORT. What every operation of Machine/KvCore.lean keeps. -/
set_option linter.all false

namespace Sys2Proof.Machine

theorem kp_showKv {z : State} (i : Nat) (s : State) (hs : Keeps z s) :
    Keeps z (showKv i s) := by
  unfold showKv
  repeat' first
    | (with_reducible assumption) | intro _
    | (extract_lets +onlyGivenNames lv; first | (have hx : Keeps z lv := ?_; generalize lv = w at hx ⊢; clear lv; rotate_left; subst lv) | (have hx : KeepsP (fun y : _ × State => y.2) z lv := ?_; generalize lv = w at hx ⊢; clear lv; replace hx : Keeps z w.2 := hx; rotate_left; subst lv) | (have hx : KeepsP (fun y : State × _ => y.1) z lv := ?_; generalize lv = w at hx ⊢; clear lv; replace hx : Keeps z w.1 := hx; rotate_left; subst lv) | (have hx : KeepsP (fun y : _ × _ × State => y.2.2) z lv := ?_; generalize lv = w at hx ⊢; clear lv; replace hx : Keeps z w.2.2 := hx; rotate_left; subst lv) | (generalize lv = w; clear lv) | subst lv)
    | (with_reducible apply kp_setF) | (with_reducible apply Keeps.foldl) | (with_reducible apply Keeps.foldlx) | (with_reducible apply Keeps.foldlv)
    | (with_reducible apply Keeps.foldl2) | (with_reducible apply Keeps.foldl1) | (with_reducible apply Keeps.foldl22)
    | (with_reducible apply Keeps.foldl222) | (with_reducible apply Keeps.foldl2x)
    | (with_reducible refine KeepsP.mk ?_; with_reducible first | assumption | apply Keeps.foldlx | apply Keeps.foldlv | apply Keeps.foldl2 | apply Keeps.foldl1 | apply Keeps.foldl22 | apply Keeps.foldl222 | apply Keeps.foldl2x)
    | (with_reducible refine KeepsP.p1 ?_) | (with_reducible refine KeepsP.p2 ?_) | (with_reducible refine KeepsP.p22 ?_)
    | (with_reducible refine Keeps.of2 (by assumption) ?_) | (with_reducible refine Keeps.of1 (by assumption) ?_)
    | (with_reducible refine Keeps.of3 (by assumption) ?_) | dsimp only

theorem kp_setKv {z : State} (i : Nat) (k : KvSt) (s : State) (hs : Keeps z s) :
    Keeps z (setKv i k s) := by
  unfold setKv
  repeat' first
    | (with_reducible assumption) | (with_reducible apply kp_showKv) | dsimp only | (with_reducible exact Keeps.mk (by assumption))

theorem kp_setKvH {z : State} (i : Nat) (h : Nat) (x : KvH) (s : State) (hs : Keeps z s) :
    Keeps z (setKvH i h x s) := by
  unfold setKvH
  repeat' first
    | (with_reducible assumption)
    | (extract_lets +onlyGivenNames lv; first | (have hx : Keeps z lv := ?_; generalize lv = w at hx ⊢; clear lv; rotate_left; subst lv) | (generalize lv = w; clear lv) | subst lv)
    | (with_reducible apply kp_setKv) | split | dsimp only | (with_reducible exact Keeps.mk (by assumption))

theorem kp_kvTake {z : State} (i : Nat) (slot : Nat) (s : State) (hs : Keeps z s) :
    Keeps z (kvTake i slot s) := by
  unfold kvTake
  repeat' first
    | (with_reducible assumption)
    | (extract_lets +onlyGivenNames lv; first | (have hx : Keeps z lv := ?_; generalize lv = w at hx ⊢; clear lv; rotate_left; subst lv) | (generalize lv = w; clear lv) | subst lv)
    | (with_reducible apply kp_setKv) | dsimp only | (with_reducible exact Keeps.mk (by assumption))

theorem kp_kvFreeSlots {z : State} (i : Nat) (l : List Nat) (s : State) (hs : Keeps z s) :
    Keeps z (kvFreeSlots i l s) := by
  unfold kvFreeSlots
  repeat' first
    | (with_reducible assumption)
    | (extract_lets +onlyGivenNames lv; first | (have hx : Keeps z lv := ?_; generalize lv = w at hx ⊢; clear lv; rotate_left; subst lv) | (generalize lv = w; clear lv) | subst lv)
    | (with_reducible apply kp_setKv) | dsimp only | (with_reducible exact Keeps.mk (by assumption))

theorem kp_showKvm {z : State} (s : State) (hs : Keeps z s) :
    Keeps z (showKvm s) := by
  unfold showKvm
  repeat' first
    | (with_reducible assumption) | intro _
    | (extract_lets +onlyGivenNames lv; first | (have hx : Keeps z lv := ?_; generalize lv = w at hx ⊢; clear lv; rotate_left; subst lv) | (have hx : KeepsP (fun y : _ × State => y.2) z lv := ?_; generalize lv = w at hx ⊢; clear lv; replace hx : Keeps z w.2 := hx; rotate_left; subst lv) | (have hx : KeepsP (fun y : State × _ => y.1) z lv := ?_; generalize lv = w at hx ⊢; clear lv; replace hx : Keeps z w.1 := hx; rotate_left; subst lv) | (have hx : KeepsP (fun y : _ × _ × State => y.2.2) z lv := ?_; generalize lv = w at hx ⊢; clear lv; replace hx : Keeps z w.2.2 := hx; rotate_left; subst lv) | (generalize lv = w; clear lv) | subst lv)
    | (with_reducible apply kp_setF) | (with_reducible apply kp_wrW) | (with_reducible apply Keeps.foldl) | (with_reducible apply Keeps.foldlx)
    | (with_reducible apply Keeps.foldlv) | (with_reducible apply Keeps.foldl2) | (with_reducible apply Keeps.foldl1)
    | (with_reducible apply Keeps.foldl22) | (with_reducible apply Keeps.foldl222) | (with_reducible apply Keeps.foldl2x) | split
    | (with_reducible refine KeepsP.mk ?_; with_reducible first | assumption | apply Keeps.foldlx | apply Keeps.foldlv | apply Keeps.foldl2 | apply Keeps.foldl1 | apply Keeps.foldl22 | apply Keeps.foldl222 | apply Keeps.foldl2x)
    | (with_reducible refine KeepsP.p1 ?_) | (with_reducible refine KeepsP.p2 ?_) | (with_reducible refine KeepsP.p22 ?_)
    | (with_reducible refine Keeps.of2 (by assumption) ?_) | (with_reducible refine Keeps.of1 (by assumption) ?_)
    | (with_reducible refine Keeps.of3 (by assumption) ?_) | dsimp only | (with_reducible exact Keeps.mk (by assumption))

theorem kp_setKvm {z : State} (k : KvmSt) (s : State) (hs : Keeps z s) :
    Keeps z (setKvm k s) := by
  unfold setKvm
  repeat' first
    | (with_reducible assumption) | (with_reducible apply kp_showKvm) | dsimp only | (with_reducible exact Keeps.mk (by assumption))

theorem kp_updPairs {z : State} (p : KvSeq → KvPair → Bool) (f : KvPair → KvPair) (s : State) (hs : Keeps z s) :
    Keeps z (updPairs p f s) := by
  unfold updPairs
  repeat' first
    | (with_reducible assumption) | (with_reducible apply kp_setKvm) | split | dsimp only | (with_reducible exact Keeps.mk (by assumption))

theorem kp_kvOpEnd {z : State} (st : Nat) (o : KvOp) (s : State) (hs : Keeps z s) :
    Keeps z (kvOpEnd st o s) := by
  unfold kvOpEnd
  repeat' first
    | (with_reducible assumption)
    | (extract_lets +onlyGivenNames lv; first | (have hx : Keeps z lv := ?_; generalize lv = w at hx ⊢; clear lv; rotate_left; subst lv) | (generalize lv = w; clear lv) | subst lv)
    | (with_reducible apply kp_setKvm) | (with_reducible apply kp_hqOver) | (with_reducible apply kp_setF) | (with_reducible apply kp_raise) | split
    | dsimp only | (with_reducible exact Keeps.mk (by assumption))

theorem kp_kvMoveOpEnd {z : State} (st : Nat) (s : State) (hs : Keeps z s) :
    Keeps z (kvMoveOpEnd st s) := by
  unfold kvMoveOpEnd
  repeat' first
    | (with_reducible assumption) | (with_reducible apply kp_kvOpEnd) | split | dsimp only | (with_reducible exact Keeps.mk (by assumption))

theorem kp_kvUnhold {z : State} (i : Nat) (s : State) (hs : Keeps z s) :
    Keeps z (kvUnhold i s) := by
  unfold kvUnhold
  repeat' first
    | (with_reducible assumption)
    | (extract_lets +onlyGivenNames lv; first | (have hx : Keeps z lv := ?_; generalize lv = w at hx ⊢; clear lv; rotate_left; subst lv) | (generalize lv = w; clear lv) | subst lv)
    | (with_reducible apply kp_setSeq) | split | dsimp only | (with_reducible exact Keeps.mk (by assumption))

theorem kp_kvAbandon {z : State} (m : KvMove) (s : State) (hs : Keeps z s) :
    Keeps z (kvAbandon m s) := by
  unfold kvAbandon
  repeat' first
    | (with_reducible assumption) | intro _
    | (extract_lets +onlyGivenNames lv; first | (have hx : Keeps z lv := ?_; generalize lv = w at hx ⊢; clear lv; rotate_left; subst lv) | (have hx : KeepsP (fun y : _ × State => y.2) z lv := ?_; generalize lv = w at hx ⊢; clear lv; replace hx : Keeps z w.2 := hx; rotate_left; subst lv) | (generalize lv = w; clear lv) | subst lv)
    | (with_reducible apply kp_setKvm) | (with_reducible apply kp_setKvH) | (with_reducible apply kp_updPairs) | (with_reducible apply kp_kvUnhold)
    | (with_reducible apply kp_bump) | (with_reducible apply kp_takeFree) | (with_reducible apply kp_kvMoveOpEnd) | split
    | (with_reducible refine KeepsP.mk ?_; with_reducible first | assumption | apply kp_takeFree) | (with_reducible refine KeepsP.p2 ?_)
    | (with_reducible refine Keeps.of2 (by assumption) ?_) | dsimp only | (with_reducible exact Keeps.mk (by assumption))

theorem kp_kvRodLost {z : State} (i : Nat) (s : State) (hs : Keeps z s) :
    Keeps z (kvRodLost i s) := by
  unfold kvRodLost
  repeat' first
    | (with_reducible assumption) | intro _
    | (extract_lets +onlyGivenNames lv; first | (have hx : Keeps z lv := ?_; generalize lv = w at hx ⊢; clear lv; rotate_left; subst lv) | (have hx : KeepsP (fun y : _ × State => y.2) z lv := ?_; generalize lv = w at hx ⊢; clear lv; replace hx : Keeps z w.2 := hx; rotate_left; subst lv) | (have hx : KeepsP (fun y : State × _ => y.1) z lv := ?_; generalize lv = w at hx ⊢; clear lv; replace hx : Keeps z w.1 := hx; rotate_left; subst lv) | (have hx : KeepsP (fun y : _ × _ × State => y.2.2) z lv := ?_; generalize lv = w at hx ⊢; clear lv; replace hx : Keeps z w.2.2 := hx; rotate_left; subst lv) | (generalize lv = w; clear lv) | subst lv)
    | (with_reducible apply kp_kvAbandon) | (with_reducible apply kp_setKv) | (with_reducible apply kp_raise) | (with_reducible apply kp_updPairs)
    | (with_reducible apply Keeps.foldl) | (with_reducible apply Keeps.foldlx) | (with_reducible apply Keeps.foldlv)
    | (with_reducible apply Keeps.foldl2) | (with_reducible apply Keeps.foldl1) | (with_reducible apply Keeps.foldl22)
    | (with_reducible apply Keeps.foldl222) | (with_reducible apply Keeps.foldl2x) | split
    | (with_reducible refine KeepsP.mk ?_; with_reducible first | assumption | apply Keeps.foldlx | apply Keeps.foldlv | apply Keeps.foldl2 | apply Keeps.foldl1 | apply Keeps.foldl22 | apply Keeps.foldl222 | apply Keeps.foldl2x)
    | (with_reducible refine KeepsP.p1 ?_) | (with_reducible refine KeepsP.p2 ?_) | (with_reducible refine KeepsP.p22 ?_)
    | (with_reducible refine Keeps.of2 (by assumption) ?_) | (with_reducible refine Keeps.of1 (by assumption) ?_)
    | (with_reducible refine Keeps.of3 (by assumption) ?_) | dsimp only | (with_reducible exact Keeps.mk (by assumption))

theorem kp_kvRodStart {z : State} (i : Nat) (s : State) (hs : Keeps z s) :
    Keeps z (kvRodStart i s) := by
  unfold kvRodStart
  repeat' first
    | (with_reducible assumption) | (with_reducible apply kp_showKv) | dsimp only | (with_reducible exact Keeps.mk (by assumption))

theorem kp_kvHerdStop {z : State} (n : Nat) (s : State) (hs : Keeps z s) :
    Keeps z (kvHerdStop n s) := by
  unfold kvHerdStop
  repeat' first
    | (with_reducible assumption) | intro _
    | (extract_lets +onlyGivenNames lv; first | (have hx : Keeps z lv := ?_; generalize lv = w at hx ⊢; clear lv; rotate_left; subst lv) | (have hx : KeepsP (fun y : _ × State => y.2) z lv := ?_; generalize lv = w at hx ⊢; clear lv; replace hx : Keeps z w.2 := hx; rotate_left; subst lv) | (have hx : KeepsP (fun y : State × _ => y.1) z lv := ?_; generalize lv = w at hx ⊢; clear lv; replace hx : Keeps z w.1 := hx; rotate_left; subst lv) | (have hx : KeepsP (fun y : _ × _ × State => y.2.2) z lv := ?_; generalize lv = w at hx ⊢; clear lv; replace hx : Keeps z w.2.2 := hx; rotate_left; subst lv) | (generalize lv = w; clear lv) | subst lv)
    | (with_reducible apply kp_kvAbandon) | (with_reducible apply kp_setKvm) | (with_reducible apply Keeps.foldl)
    | (with_reducible apply Keeps.foldlx) | (with_reducible apply Keeps.foldlv) | (with_reducible apply Keeps.foldl2)
    | (with_reducible apply Keeps.foldl1) | (with_reducible apply Keeps.foldl22) | (with_reducible apply Keeps.foldl222)
    | (with_reducible apply Keeps.foldl2x)
    | (with_reducible refine KeepsP.mk ?_; with_reducible first | assumption | apply Keeps.foldlx | apply Keeps.foldlv | apply Keeps.foldl2 | apply Keeps.foldl1 | apply Keeps.foldl22 | apply Keeps.foldl222 | apply Keeps.foldl2x)
    | (with_reducible refine KeepsP.p1 ?_) | (with_reducible refine KeepsP.p2 ?_) | (with_reducible refine KeepsP.p22 ?_)
    | (with_reducible refine Keeps.of2 (by assumption) ?_) | (with_reducible refine Keeps.of1 (by assumption) ?_)
    | (with_reducible refine Keeps.of3 (by assumption) ?_) | dsimp only | (with_reducible exact Keeps.mk (by assumption))

theorem kp_kvmStop {z : State} (s : State) (hs : Keeps z s) :
    Keeps z (kvmStop s) := by
  unfold kvmStop
  repeat' first
    | (with_reducible assumption) | intro _
    | (extract_lets +onlyGivenNames lv; first | (have hx : Keeps z lv := ?_; generalize lv = w at hx ⊢; clear lv; rotate_left; subst lv) | (have hx : KeepsP (fun y : _ × State => y.2) z lv := ?_; generalize lv = w at hx ⊢; clear lv; replace hx : Keeps z w.2 := hx; rotate_left; subst lv) | (have hx : KeepsP (fun y : State × _ => y.1) z lv := ?_; generalize lv = w at hx ⊢; clear lv; replace hx : Keeps z w.1 := hx; rotate_left; subst lv) | (have hx : KeepsP (fun y : _ × _ × State => y.2.2) z lv := ?_; generalize lv = w at hx ⊢; clear lv; replace hx : Keeps z w.2.2 := hx; rotate_left; subst lv) | (generalize lv = w; clear lv) | subst lv)
    | (with_reducible apply kp_kvAbandon) | (with_reducible apply kp_kvOpEnd) | (with_reducible apply kp_setKvm) | (with_reducible apply Keeps.foldl)
    | (with_reducible apply Keeps.foldlx) | (with_reducible apply Keeps.foldlv) | (with_reducible apply Keeps.foldl2)
    | (with_reducible apply Keeps.foldl1) | (with_reducible apply Keeps.foldl22) | (with_reducible apply Keeps.foldl222)
    | (with_reducible apply Keeps.foldl2x)
    | (with_reducible refine KeepsP.mk ?_; with_reducible first | assumption | apply Keeps.foldlx | apply Keeps.foldlv | apply Keeps.foldl2 | apply Keeps.foldl1 | apply Keeps.foldl22 | apply Keeps.foldl222 | apply Keeps.foldl2x)
    | (with_reducible refine KeepsP.p1 ?_) | (with_reducible refine KeepsP.p2 ?_) | (with_reducible refine KeepsP.p22 ?_)
    | (with_reducible refine Keeps.of2 (by assumption) ?_) | (with_reducible refine Keeps.of1 (by assumption) ?_)
    | (with_reducible refine Keeps.of3 (by assumption) ?_) | dsimp only | (with_reducible exact Keeps.mk (by assumption))

theorem kp_freePins {z : State} (s : State) (hs : Keeps z s) :
    Keeps z (freePins s).2 := by
  change KeepsP (fun y : List KvSeq × State => y.2) z _
  unfold freePins
  repeat' first
    | (with_reducible assumption) | intro _
    | (extract_lets +onlyGivenNames lv; first | (have hx : Keeps z lv := ?_; generalize lv = w at hx ⊢; clear lv; rotate_left; subst lv) | (have hx : KeepsP (fun y : _ × State => y.2) z lv := ?_; generalize lv = w at hx ⊢; clear lv; replace hx : Keeps z w.2 := hx; rotate_left; subst lv) | (have hx : KeepsP (fun y : State × _ => y.1) z lv := ?_; generalize lv = w at hx ⊢; clear lv; replace hx : Keeps z w.1 := hx; rotate_left; subst lv) | (have hx : KeepsP (fun y : _ × _ × State => y.2.2) z lv := ?_; generalize lv = w at hx ⊢; clear lv; replace hx : Keeps z w.2.2 := hx; rotate_left; subst lv) | (generalize lv = w; clear lv) | subst lv)
    | (with_reducible apply kp_takeFree) | (with_reducible apply Keeps.foldl) | (with_reducible apply Keeps.foldlx)
    | (with_reducible apply Keeps.foldlv) | (with_reducible apply Keeps.foldl2) | (with_reducible apply Keeps.foldl1)
    | (with_reducible apply Keeps.foldl22) | (with_reducible apply Keeps.foldl222) | (with_reducible apply Keeps.foldl2x)
    | (with_reducible refine KeepsP.mk ?_; with_reducible first | assumption | apply kp_takeFree | apply Keeps.foldlx | apply Keeps.foldlv | apply Keeps.foldl2 | apply Keeps.foldl1 | apply Keeps.foldl22 | apply Keeps.foldl222 | apply Keeps.foldl2x)
    | (with_reducible refine KeepsP.p1 ?_) | (with_reducible refine KeepsP.p2 ?_) | (with_reducible refine KeepsP.p22 ?_)
    | (with_reducible refine Keeps.of2 (by assumption) ?_) | (with_reducible refine Keeps.of1 (by assumption) ?_)
    | (with_reducible refine Keeps.of3 (by assumption) ?_) | dsimp only | (with_reducible exact Keeps.mk (by assumption))

theorem kp_kvmRebuild {z : State} (s : State) (hs : Keeps z s) :
    Keeps z (kvmRebuild s) := by
  unfold kvmRebuild
  repeat' first
    | (with_reducible assumption) | intro _
    | (extract_lets +onlyGivenNames lv; first | (have hx : Keeps z lv := ?_; generalize lv = w at hx ⊢; clear lv; rotate_left; subst lv) | (have hx : KeepsP (fun y : _ × State => y.2) z lv := ?_; generalize lv = w at hx ⊢; clear lv; replace hx : Keeps z w.2 := hx; rotate_left; subst lv) | (have hx : KeepsP (fun y : State × _ => y.1) z lv := ?_; generalize lv = w at hx ⊢; clear lv; replace hx : Keeps z w.1 := hx; rotate_left; subst lv) | (have hx : KeepsP (fun y : _ × _ × State => y.2.2) z lv := ?_; generalize lv = w at hx ⊢; clear lv; replace hx : Keeps z w.2.2 := hx; rotate_left; subst lv) | (generalize lv = w; clear lv) | subst lv)
    | (with_reducible apply kp_freePins) | (with_reducible apply kp_setKvm) | (with_reducible apply Keeps.foldl) | (with_reducible apply Keeps.foldlx)
    | (with_reducible apply Keeps.foldlv) | (with_reducible apply Keeps.foldl2) | (with_reducible apply Keeps.foldl1)
    | (with_reducible apply Keeps.foldl22) | (with_reducible apply Keeps.foldl222) | (with_reducible apply Keeps.foldl2x) | split
    | (with_reducible refine KeepsP.mk ?_; with_reducible first | assumption | apply kp_freePins | apply Keeps.foldlx | apply Keeps.foldlv | apply Keeps.foldl2 | apply Keeps.foldl1 | apply Keeps.foldl22 | apply Keeps.foldl222 | apply Keeps.foldl2x)
    | (with_reducible refine KeepsP.p1 ?_) | (with_reducible refine KeepsP.p2 ?_) | (with_reducible refine KeepsP.p22 ?_)
    | (with_reducible refine Keeps.of2 (by assumption) ?_) | (with_reducible refine Keeps.of1 (by assumption) ?_)
    | (with_reducible refine Keeps.of3 (by assumption) ?_) | dsimp only | (with_reducible exact Keeps.mk (by assumption))

end Sys2Proof.Machine
end

