-- ==== Sys2Proof/Laws/KeepsVpxCore.lean ====
section
/-! SUPPORT. What every operation of Machine/VpxCore.lean keeps. -/
set_option linter.all false

namespace Sys2Proof.Machine

theorem kp_showPipe {z : State} (v : Nat) (s : State) (hs : Keeps z s) :
    Keeps z (showPipe v s) := by
  unfold showPipe
  repeat' first
    | (with_reducible assumption) | intro _
    | (extract_lets +onlyGivenNames lv; first | (have hx : Keeps z lv := ?_; generalize lv = w at hx ⊢; clear lv; rotate_left; subst lv) | (have hx : KeepsP (fun y : _ × State => y.2) z lv := ?_; generalize lv = w at hx ⊢; clear lv; replace hx : Keeps z w.2 := hx; rotate_left; subst lv) | (have hx : KeepsP (fun y : State × _ => y.1) z lv := ?_; generalize lv = w at hx ⊢; clear lv; replace hx : Keeps z w.1 := hx; rotate_left; subst lv) | (have hx : KeepsP (fun y : _ × _ × State => y.2.2) z lv := ?_; generalize lv = w at hx ⊢; clear lv; replace hx : Keeps z w.2.2 := hx; rotate_left; subst lv) | (generalize lv = w; clear lv) | subst lv)
    | (with_reducible apply kp_setF) | (with_reducible apply Keeps.foldl) | (with_reducible apply Keeps.foldlx) | (with_reducible apply Keeps.foldlv)
    | (with_reducible apply Keeps.foldl2) | (with_reducible apply Keeps.foldl1) | (with_reducible apply Keeps.foldl22)
    | (with_reducible apply Keeps.foldl222) | (with_reducible apply Keeps.foldl2x) | split
    | (with_reducible refine KeepsP.mk ?_; with_reducible first | assumption | apply Keeps.foldlx | apply Keeps.foldlv | apply Keeps.foldl2 | apply Keeps.foldl1 | apply Keeps.foldl22 | apply Keeps.foldl222 | apply Keeps.foldl2x)
    | (with_reducible refine KeepsP.p1 ?_) | (with_reducible refine KeepsP.p2 ?_) | (with_reducible refine KeepsP.p22 ?_)
    | (with_reducible refine Keeps.of2 (by assumption) ?_) | (with_reducible refine Keeps.of1 (by assumption) ?_)
    | (with_reducible refine Keeps.of3 (by assumption) ?_) | dsimp only | (with_reducible exact Keeps.mk (by assumption))

theorem kp_showPipes {z : State} (s : State) (hs : Keeps z s) :
    Keeps z (showPipes s) := by
  unfold showPipes
  repeat' first
    | (with_reducible assumption) | intro _ | (with_reducible apply kp_showPipe) | (with_reducible apply Keeps.foldl)
    | (with_reducible apply Keeps.foldlx) | (with_reducible apply Keeps.foldlv) | (with_reducible apply Keeps.foldl2)
    | (with_reducible apply Keeps.foldl1) | (with_reducible apply Keeps.foldl22) | (with_reducible apply Keeps.foldl222)
    | (with_reducible apply Keeps.foldl2x)
    | (with_reducible refine KeepsP.mk ?_; with_reducible first | assumption | apply Keeps.foldlx | apply Keeps.foldlv | apply Keeps.foldl2 | apply Keeps.foldl1 | apply Keeps.foldl22 | apply Keeps.foldl222 | apply Keeps.foldl2x)
    | (with_reducible refine Keeps.of2 (by assumption) ?_) | (with_reducible refine Keeps.of1 (by assumption) ?_)
    | (with_reducible refine Keeps.of3 (by assumption) ?_) | dsimp only

theorem kp_setVp {z : State} (v : Nat) (x : VPipe) (s : State) (hs : Keeps z s) :
    Keeps z (setVp v x s) := by
  unfold setVp
  repeat' first
    | (with_reducible assumption) | (with_reducible apply kp_showPipes) | dsimp only | (with_reducible exact Keeps.mk (by assumption))

theorem kp_vNotify {z : State} (x : Option VSess) (ws : List Nat) (s : State) (hs : Keeps z s) :
    Keeps z (vNotify x ws s) := by
  unfold vNotify
  repeat' first
    | (with_reducible assumption) | (with_reducible apply kp_sendItem) | split | dsimp only | (with_reducible exact Keeps.mk (by assumption))

theorem kp_vpEnded {z : State} (v : Nat) (j : VJob) (s : State) (hs : Keeps z s) :
    Keeps z (vpEnded v j s) := by
  unfold vpEnded
  repeat' first
    | (with_reducible assumption) | intro _
    | (extract_lets +onlyGivenNames lv; first | (have hx : Keeps z lv := ?_; generalize lv = w at hx ⊢; clear lv; rotate_left; subst lv) | (have hx : KeepsP (fun y : _ × State => y.2) z lv := ?_; generalize lv = w at hx ⊢; clear lv; replace hx : Keeps z w.2 := hx; rotate_left; subst lv) | (have hx : KeepsP (fun y : State × _ => y.1) z lv := ?_; generalize lv = w at hx ⊢; clear lv; replace hx : Keeps z w.1 := hx; rotate_left; subst lv) | (have hx : KeepsP (fun y : _ × _ × State => y.2.2) z lv := ?_; generalize lv = w at hx ⊢; clear lv; replace hx : Keeps z w.2.2 := hx; rotate_left; subst lv) | (generalize lv = w; clear lv) | subst lv)
    | (with_reducible apply Keeps.foldl) | (with_reducible apply Keeps.foldlx) | (with_reducible apply Keeps.foldlv)
    | (with_reducible apply Keeps.foldl2) | (with_reducible apply Keeps.foldl1) | (with_reducible apply Keeps.foldl22)
    | (with_reducible apply Keeps.foldl222) | (with_reducible apply Keeps.foldl2x) | split
    | (with_reducible refine KeepsP.mk ?_; with_reducible first | assumption | apply Keeps.foldlx | apply Keeps.foldlv | apply Keeps.foldl2 | apply Keeps.foldl1 | apply Keeps.foldl22 | apply Keeps.foldl222 | apply Keeps.foldl2x)
    | (with_reducible refine KeepsP.p1 ?_) | (with_reducible refine KeepsP.p2 ?_) | (with_reducible refine KeepsP.p22 ?_)
    | (with_reducible refine Keeps.of2 (by assumption) ?_) | (with_reducible refine Keeps.of1 (by assumption) ?_)
    | (with_reducible refine Keeps.of3 (by assumption) ?_) | dsimp only | (with_reducible exact Keeps.mk (by assumption))

theorem kp_vComplete {z : State} (v : Nat) (j : VJob) (s : State) (hs : Keeps z s) :
    Keeps z (vComplete v j s) := by
  unfold vComplete
  repeat' first
    | (with_reducible assumption)
    | (extract_lets +onlyGivenNames lv; first | (have hx : Keeps z lv := ?_; generalize lv = w at hx ⊢; clear lv; rotate_left; subst lv) | (generalize lv = w; clear lv) | subst lv)
    | (with_reducible apply kp_vpEnded) | (with_reducible apply kp_setVp) | (with_reducible apply kp_setF) | (with_reducible apply kp_raise)
    | (with_reducible apply kp_bump64) | (with_reducible apply kp_bump) | (with_reducible apply kp_hqOver) | (with_reducible apply kp_vNotify) | split
    | dsimp only | (with_reducible exact Keeps.mk (by assumption))

theorem kp_vEnd {z : State} (v : Nat) (st : Nat) (j : VJob) (s : State) (hs : Keeps z s) :
    Keeps z (vEnd v st j s) := by
  unfold vEnd
  repeat' first
    | (with_reducible assumption) | (with_reducible apply kp_vComplete) | dsimp only | (with_reducible exact Keeps.mk (by assumption))

theorem kp_synFlush {z : State} (v : Nat) (s : State) (hs : Keeps z s) :
    Keeps z (synFlush v s) := by
  unfold synFlush
  repeat' first
    | (with_reducible assumption) | (with_reducible apply kp_setF) | (with_reducible apply kp_flushQueue)

theorem kp_setEng {z : State} (v : Nat) (x : VEng) (s : State) (hs : Keeps z s) :
    Keeps z (setEng v x s) := by
  unfold setEng
  repeat' first
    | (with_reducible assumption) | (with_reducible exact Keeps.mk (by assumption))

theorem kp_setWin {z : State} (v : Nat) (x : VStore) (s : State) (hs : Keeps z s) :
    Keeps z (setWin v x s) := by
  unfold setWin
  repeat' first
    | (with_reducible assumption) | (with_reducible exact Keeps.mk (by assumption))

theorem kp_synBad {z : State} (v : Nat) (ctb : Nat) (s : State) (hs : Keeps z s) :
    Keeps z (synBad v ctb s) := by
  unfold synBad
  repeat' first
    | (with_reducible assumption) | intro _ | split | (with_reducible exact Keeps.mk (by assumption))

theorem kp_lineBad {z : State} (v : Nat) (row : Nat) (s : State) (hs : Keeps z s) :
    Keeps z (lineBad v row s) := by
  unfold lineBad
  repeat' first
    | (with_reducible assumption) | intro _ | split | (with_reducible exact Keeps.mk (by assumption))

theorem kp_vpxZero {z : State} (v : Nat) (s : State) (hs : Keeps z s) :
    Keeps z (vpxZero v s) := by
  unfold vpxZero
  repeat' first
    | (with_reducible assumption) | (with_reducible apply kp_setEng) | (with_reducible apply kp_setWin) | (with_reducible apply kp_setF)
    | (with_reducible exact Keeps.mk (by assumption))

theorem kp_vClose {z : State} (v : Nat) (k : Nat) (but : Nat) (s : State) (hs : Keeps z s) :
    Keeps z (vClose v k but s) := by
  unfold vClose
  repeat' first
    | (with_reducible assumption) | intro _
    | (extract_lets +onlyGivenNames lv; first | (have hx : Keeps z lv := ?_; generalize lv = w at hx ⊢; clear lv; rotate_left; subst lv) | (have hx : KeepsP (fun y : _ × State => y.2) z lv := ?_; generalize lv = w at hx ⊢; clear lv; replace hx : Keeps z w.2 := hx; rotate_left; subst lv) | (have hx : KeepsP (fun y : State × _ => y.1) z lv := ?_; generalize lv = w at hx ⊢; clear lv; replace hx : Keeps z w.1 := hx; rotate_left; subst lv) | (have hx : KeepsP (fun y : _ × _ × State => y.2.2) z lv := ?_; generalize lv = w at hx ⊢; clear lv; replace hx : Keeps z w.2.2 := hx; rotate_left; subst lv) | (generalize lv = w; clear lv) | subst lv)
    | (with_reducible apply kp_vEnd) | (with_reducible apply kp_synFlush) | (with_reducible apply kp_setVp) | (with_reducible apply kp_raise)
    | (with_reducible apply Keeps.foldl) | (with_reducible apply Keeps.foldlx) | (with_reducible apply Keeps.foldlv)
    | (with_reducible apply Keeps.foldl2) | (with_reducible apply Keeps.foldl1) | (with_reducible apply Keeps.foldl22)
    | (with_reducible apply Keeps.foldl222) | (with_reducible apply Keeps.foldl2x) | split
    | (with_reducible refine KeepsP.mk ?_; with_reducible first | assumption | apply Keeps.foldlx | apply Keeps.foldlv | apply Keeps.foldl2 | apply Keeps.foldl1 | apply Keeps.foldl22 | apply Keeps.foldl222 | apply Keeps.foldl2x)
    | (with_reducible refine KeepsP.p1 ?_) | (with_reducible refine KeepsP.p2 ?_) | (with_reducible refine KeepsP.p22 ?_)
    | (with_reducible refine Keeps.of2 (by assumption) ?_) | (with_reducible refine Keeps.of1 (by assumption) ?_)
    | (with_reducible refine Keeps.of3 (by assumption) ?_) | dsimp only | (with_reducible exact Keeps.mk (by assumption))

theorem kp_vHerdStop {z : State} (n : Nat) (s : State) (hs : Keeps z s) :
    Keeps z (vHerdStop n s) := by
  unfold vHerdStop
  repeat' first
    | (with_reducible assumption) | intro _ | (with_reducible apply kp_vClose) | (with_reducible apply Keeps.foldl)
    | (with_reducible apply Keeps.foldlx) | (with_reducible apply Keeps.foldlv) | (with_reducible apply Keeps.foldl2)
    | (with_reducible apply Keeps.foldl1) | (with_reducible apply Keeps.foldl22) | (with_reducible apply Keeps.foldl222)
    | (with_reducible apply Keeps.foldl2x)
    | (with_reducible refine KeepsP.mk ?_; with_reducible first | assumption | apply Keeps.foldlx | apply Keeps.foldlv | apply Keeps.foldl2 | apply Keeps.foldl1 | apply Keeps.foldl22 | apply Keeps.foldl222 | apply Keeps.foldl2x)
    | (with_reducible refine Keeps.of2 (by assumption) ?_) | (with_reducible refine Keeps.of1 (by assumption) ?_)
    | (with_reducible refine Keeps.of3 (by assumption) ?_) | dsimp only

theorem kp_vPipeStop {z : State} (v : Nat) (s : State) (hs : Keeps z s) :
    Keeps z (vPipeStop v s) := by
  unfold vPipeStop
  repeat' first
    | (with_reducible assumption) | intro _
    | (extract_lets +onlyGivenNames lv; first | (have hx : Keeps z lv := ?_; generalize lv = w at hx ⊢; clear lv; rotate_left; subst lv) | (have hx : KeepsP (fun y : _ × State => y.2) z lv := ?_; generalize lv = w at hx ⊢; clear lv; replace hx : Keeps z w.2 := hx; rotate_left; subst lv) | (have hx : KeepsP (fun y : State × _ => y.1) z lv := ?_; generalize lv = w at hx ⊢; clear lv; replace hx : Keeps z w.1 := hx; rotate_left; subst lv) | (have hx : KeepsP (fun y : _ × _ × State => y.2.2) z lv := ?_; generalize lv = w at hx ⊢; clear lv; replace hx : Keeps z w.2.2 := hx; rotate_left; subst lv) | (generalize lv = w; clear lv) | subst lv)
    | (with_reducible apply kp_vClose) | (with_reducible apply kp_synFlush) | (with_reducible apply kp_vEnd) | (with_reducible apply Keeps.foldl)
    | (with_reducible apply Keeps.foldlx) | (with_reducible apply Keeps.foldlv) | (with_reducible apply Keeps.foldl2)
    | (with_reducible apply Keeps.foldl1) | (with_reducible apply Keeps.foldl22) | (with_reducible apply Keeps.foldl222)
    | (with_reducible apply Keeps.foldl2x)
    | (with_reducible refine KeepsP.mk ?_; with_reducible first | assumption | apply Keeps.foldlx | apply Keeps.foldlv | apply Keeps.foldl2 | apply Keeps.foldl1 | apply Keeps.foldl22 | apply Keeps.foldl222 | apply Keeps.foldl2x)
    | (with_reducible refine KeepsP.p1 ?_) | (with_reducible refine KeepsP.p2 ?_) | (with_reducible refine KeepsP.p22 ?_)
    | (with_reducible refine Keeps.of2 (by assumption) ?_) | (with_reducible refine Keeps.of1 (by assumption) ?_)
    | (with_reducible refine Keeps.of3 (by assumption) ?_) | dsimp only

theorem kp_hqStopEnt {z : State} (e : HqEnt) (s : State) (hs : Keeps z s) :
    Keeps z (hqStopEnt e s) := by
  unfold hqStopEnt
  repeat' first
    | (with_reducible assumption) | intro _
    | (extract_lets +onlyGivenNames lv; first | (have hx : Keeps z lv := ?_; generalize lv = w at hx ⊢; clear lv; rotate_left; subst lv) | (have hx : KeepsP (fun y : _ × State => y.2) z lv := ?_; generalize lv = w at hx ⊢; clear lv; replace hx : Keeps z w.2 := hx; rotate_left; subst lv) | (have hx : KeepsP (fun y : State × _ => y.1) z lv := ?_; generalize lv = w at hx ⊢; clear lv; replace hx : Keeps z w.1 := hx; rotate_left; subst lv) | (have hx : KeepsP (fun y : _ × _ × State => y.2.2) z lv := ?_; generalize lv = w at hx ⊢; clear lv; replace hx : Keeps z w.2.2 := hx; rotate_left; subst lv) | (have hfn0 : ∀ y, Keeps z y → Keeps z (lv y) := ?_; generalize lv = w at hfn0 ⊢; clear lv; rotate_left; subst lv) | (have hfn1 : ∀ a y, Keeps z y → Keeps z (lv a y) := ?_; generalize lv = w at hfn1 ⊢; clear lv; rotate_left; subst lv) | (have hfn2 : ∀ a b y, Keeps z y → Keeps z (lv a b y) := ?_; generalize lv = w at hfn2 ⊢; clear lv; rotate_left; subst lv) | (have hfn3 : ∀ a b c y, Keeps z y → Keeps z (lv a b c y) := ?_; generalize lv = w at hfn3 ⊢; clear lv; rotate_left; subst lv) | (have hfn4 : ∀ y a, Keeps z y → Keeps z (lv y a) := ?_; generalize lv = w at hfn4 ⊢; clear lv; rotate_left; subst lv) | (have hfn5 : ∀ a, Keeps z (lv a) := ?_; generalize lv = w at hfn5 ⊢; clear lv; rotate_left; subst lv) | (have hfn6 : ∀ a b, Keeps z (lv a b) := ?_; generalize lv = w at hfn6 ⊢; clear lv; rotate_left; subst lv) | (have hfn7 : ∀ y a b, Keeps z y → Keeps z (lv y a b) := ?_; generalize lv = w at hfn7 ⊢; clear lv; rotate_left; subst lv) | (have hfn8 : ∀ a, KeepsR z (lv a) := ?_; generalize lv = w at hfn8 ⊢; clear lv; rotate_left; subst lv) | (have hfn9 : ∀ y, Keeps z y → KeepsC z (lv y) := ?_; generalize lv = w at hfn9 ⊢; clear lv; rotate_left; subst lv) | (have hfn10 : ∀ y, Keeps z y → KeepsR z (lv y) := ?_; generalize lv = w at hfn10 ⊢; clear lv; rotate_left; subst lv) | (have hfn11 : ∀ a y, Keeps z y → KeepsR z (lv a y) := ?_; generalize lv = w at hfn11 ⊢; clear lv; rotate_left; subst lv) | (have hfn12 : ∀ y a, Keeps z y → KeepsR z (lv y a) := ?_; generalize lv = w at hfn12 ⊢; clear lv; rotate_left; subst lv) | (generalize lv = w; clear lv) | subst lv)
    | (with_reducible apply hfn0) | (with_reducible apply hfn1) | (with_reducible apply hfn2) | (with_reducible apply hfn3)
    | (with_reducible apply hfn4) | (with_reducible apply hfn5) | (with_reducible apply hfn6) | (with_reducible apply hfn7)
    | (with_reducible apply hfn8) | (with_reducible apply hfn9) | (with_reducible apply hfn10) | (with_reducible apply hfn11)
    | (with_reducible apply hfn12) | (with_reducible apply kp_dropResvs) | (with_reducible apply kp_setKvm) | (with_reducible apply kp_kvAbandon)
    | (with_reducible apply kp_vEnd) | (with_reducible apply kp_hqOver) | (with_reducible apply Keeps.foldl) | (with_reducible apply Keeps.foldlx)
    | (with_reducible apply Keeps.foldlv) | (with_reducible apply Keeps.foldl2) | (with_reducible apply Keeps.foldl1)
    | (with_reducible apply Keeps.foldl22) | (with_reducible apply Keeps.foldl222) | (with_reducible apply Keeps.foldl2x) | split
    | (with_reducible refine KeepsP.mk ?_; with_reducible first | assumption | apply Keeps.foldlx | apply Keeps.foldlv | apply Keeps.foldl2 | apply Keeps.foldl1 | apply Keeps.foldl22 | apply Keeps.foldl222 | apply Keeps.foldl2x)
    | (with_reducible refine KeepsP.p1 ?_) | (with_reducible refine KeepsP.p2 ?_) | (with_reducible refine KeepsP.p22 ?_)
    | (with_reducible refine Keeps.of2 (by assumption) ?_) | (with_reducible refine Keeps.of1 (by assumption) ?_)
    | (with_reducible refine Keeps.of3 (by assumption) ?_) | dsimp only [id] | (with_reducible exact Keeps.mk (by assumption))

theorem kp_hqStop {z : State} (n : Nat) (q : Nat) (s : State) (hs : Keeps z s) :
    Keeps z (hqStop n q s) := by
  unfold hqStop
  repeat' first
    | (with_reducible assumption) | intro _
    | (extract_lets +onlyGivenNames lv; first | (have hx : Keeps z lv := ?_; generalize lv = w at hx ⊢; clear lv; rotate_left; subst lv) | (have hx : KeepsP (fun y : _ × State => y.2) z lv := ?_; generalize lv = w at hx ⊢; clear lv; replace hx : Keeps z w.2 := hx; rotate_left; subst lv) | (have hx : KeepsP (fun y : State × _ => y.1) z lv := ?_; generalize lv = w at hx ⊢; clear lv; replace hx : Keeps z w.1 := hx; rotate_left; subst lv) | (have hx : KeepsP (fun y : _ × _ × State => y.2.2) z lv := ?_; generalize lv = w at hx ⊢; clear lv; replace hx : Keeps z w.2.2 := hx; rotate_left; subst lv) | (generalize lv = w; clear lv) | subst lv)
    | (with_reducible apply kp_hqOver) | (with_reducible apply kp_hqStopEnt) | (with_reducible apply Keeps.foldl)
    | (with_reducible apply Keeps.foldlx) | (with_reducible apply Keeps.foldlv) | (with_reducible apply Keeps.foldl2)
    | (with_reducible apply Keeps.foldl1) | (with_reducible apply Keeps.foldl22) | (with_reducible apply Keeps.foldl222)
    | (with_reducible apply Keeps.foldl2x)
    | (with_reducible refine KeepsP.mk ?_; with_reducible first | assumption | apply Keeps.foldlx | apply Keeps.foldlv | apply Keeps.foldl2 | apply Keeps.foldl1 | apply Keeps.foldl22 | apply Keeps.foldl222 | apply Keeps.foldl2x)
    | (with_reducible refine KeepsP.p1 ?_) | (with_reducible refine KeepsP.p2 ?_) | (with_reducible refine KeepsP.p22 ?_)
    | (with_reducible refine Keeps.of2 (by assumption) ?_) | (with_reducible refine Keeps.of1 (by assumption) ?_)
    | (with_reducible refine Keeps.of3 (by assumption) ?_) | dsimp only

end Sys2Proof.Machine
end

