-- ==== Sys2Proof/Laws/KeepsOps.lean ====
section
/-! SUPPORT. What every operation of Machine/Ops.lean keeps. -/
set_option linter.all false

namespace Sys2Proof.Machine

theorem kp_setLifeX {z : State} (a : Nat) (x : LifeX) (s : State) (hs : Keeps z s) :
    Keeps z (setLifeX a x s) := by
  unfold setLifeX
  repeat' first
    | (with_reducible assumption) | dsimp only | (with_reducible exact Keeps.mk (by assumption))

theorem kp_putState {z : State} (a : Nat) (new : Nat) (s : State) (hs : Keeps z s) :
    Keeps z (putState a new s) := by
  unfold putState
  repeat' first
    | (with_reducible assumption)
    | (extract_lets +onlyGivenNames lv; first | (have hx : Keeps z lv := ?_; generalize lv = w at hx ⊢; clear lv; rotate_left; subst lv) | (generalize lv = w; clear lv) | subst lv)
    | (with_reducible apply kp_raise) | (with_reducible apply kp_setF) | (with_reducible apply kp_recheckHeld) | split

theorem kp_setState {z : State} (a : Nat) (new : Nat) (s : State) (hs : Keeps z s) :
    Keeps z (setState a new s) := by
  unfold setState
  repeat' first
    | (with_reducible assumption) | intro _ | (with_reducible apply kp_putState) | (with_reducible apply Keeps.foldl)
    | (with_reducible apply Keeps.foldlx) | (with_reducible apply Keeps.foldlv) | (with_reducible apply Keeps.foldl2)
    | (with_reducible apply Keeps.foldl1) | (with_reducible apply Keeps.foldl22) | (with_reducible apply Keeps.foldl222)
    | (with_reducible apply Keeps.foldl2x)
    | (with_reducible refine KeepsP.mk ?_; with_reducible first | assumption | apply Keeps.foldlx | apply Keeps.foldlv | apply Keeps.foldl2 | apply Keeps.foldl1 | apply Keeps.foldl22 | apply Keeps.foldl222 | apply Keeps.foldl2x)
    | (with_reducible refine Keeps.of2 (by assumption) ?_) | (with_reducible refine Keeps.of1 (by assumption) ?_)
    | (with_reducible refine Keeps.of3 (by assumption) ?_) | dsimp only

theorem kp_lifeDone {z : State} (a : Nat) (tag : Nat) (status : Nat) (s : State) (hs : Keeps z s) :
    Keeps z (lifeDone a tag status s) := by
  unfold lifeDone
  repeat' first
    | (with_reducible assumption) | (with_reducible apply kp_raise) | (with_reducible apply kp_setF) | dsimp only

theorem kp_setOutcome {z : State} (v : Nat) (s : State) (hs : Keeps z s) :
    Keeps z (setOutcome v s) := by
  unfold setOutcome
  repeat' first
    | (with_reducible assumption) | (with_reducible apply kp_setState) | (with_reducible apply kp_raise) | (with_reducible apply kp_setF) | split
    | dsimp only | (with_reducible exact Keeps.mk (by assumption))

theorem kp_degrade {z : State} (s : State) (hs : Keeps z s) :
    Keeps z (degrade s) := by
  unfold degrade
  repeat' first
    | (with_reducible assumption) | (with_reducible apply kp_setOutcome) | split | dsimp only

theorem kp_endWork {z : State} (a : Nat) (s : State) (hs : Keeps z s) :
    Keeps z (endWork a s) := by
  unfold endWork
  repeat' first
    | (with_reducible assumption)
    | (extract_lets +onlyGivenNames lv; first | (have hx : Keeps z lv := ?_; generalize lv = w at hx ⊢; clear lv; rotate_left; subst lv) | (generalize lv = w; clear lv) | subst lv)
    | (with_reducible apply kp_kvRodLost) | (with_reducible apply kp_stopProgram) | (with_reducible apply kp_kvmStop)
    | (with_reducible apply kp_vPipeStop) | (with_reducible apply kp_hqStop) | (with_reducible apply kp_endStream) | (with_reducible apply kp_setF)
    | split | dsimp only | (with_reducible exact Keeps.mk (by assumption))

theorem kp_stopWork {z : State} (a : Nat) (s : State) (hs : Keeps z s) :
    Keeps z (stopWork a s) := by
  unfold stopWork
  repeat' first
    | (with_reducible assumption) | (with_reducible apply kp_kvRodLost) | (with_reducible apply kp_haltProgram)
    | (with_reducible apply kp_stopStream) | (with_reducible apply kp_endWork) | split

theorem kp_dropNotes {z : State} (a : Nat) (s : State) (hs : Keeps z s) :
    Keeps z (dropNotes a s) := by
  unfold dropNotes
  repeat' first
    | (with_reducible assumption) | intro _ | (with_reducible apply kp_setFq) | (with_reducible apply Keeps.foldl)
    | (with_reducible apply Keeps.foldlx) | (with_reducible apply Keeps.foldlv) | (with_reducible apply Keeps.foldl2)
    | (with_reducible apply Keeps.foldl1) | (with_reducible apply Keeps.foldl22) | (with_reducible apply Keeps.foldl222)
    | (with_reducible apply Keeps.foldl2x) | (with_reducible exact Keeps.mk (by assumption))

theorem kp_lifeReset {z : State} (a : Nat) (s : State) (hs : Keeps z s) :
    Keeps z (lifeReset a s) := by
  unfold lifeReset
  repeat' first
    | (with_reducible assumption) | intro _
    | (extract_lets +onlyGivenNames lv; first | (have hx : Keeps z lv := ?_; generalize lv = w at hx ⊢; clear lv; rotate_left; subst lv) | (generalize lv = w; clear lv) | subst lv)
    | (with_reducible apply kp_dropNotes) | (with_reducible apply kp_setF) | (with_reducible apply kp_wrW) | (with_reducible apply kp_rstPage)
    | (with_reducible apply kp_rstReg) | (with_reducible apply kp_hqClear) | (with_reducible apply Keeps.foldl) | (with_reducible apply Keeps.foldlx)
    | (with_reducible apply Keeps.foldlv) | (with_reducible apply Keeps.foldl2) | (with_reducible apply Keeps.foldl1)
    | (with_reducible apply Keeps.foldl22) | (with_reducible apply Keeps.foldl222) | (with_reducible apply Keeps.foldl2x) | split
    | (with_reducible exact Keeps.mk (by assumption))

theorem kp_stopNow {z : State} (a : Nat) (s : State) (hs : Keeps z s) :
    Keeps z (stopNow a s) := by
  unfold stopNow
  repeat' first
    | (with_reducible assumption) | (with_reducible apply kp_stopWork) | (with_reducible apply kp_setState) | (with_reducible apply kp_setF)
    | (with_reducible apply kp_setLifeX) | split

theorem kp_stopStrm {z : State} (i : Nat) (s : State) (hs : Keeps z s) :
    Keeps z (stopStrm i s) := by
  unfold stopStrm
  repeat' first
    | (with_reducible assumption) | intro _ | (with_reducible apply kp_stopNow) | (with_reducible apply Keeps.foldl)
    | (with_reducible apply Keeps.foldlx) | (with_reducible apply Keeps.foldlv) | (with_reducible apply Keeps.foldl2)
    | (with_reducible apply Keeps.foldl1) | (with_reducible apply Keeps.foldl22) | (with_reducible apply Keeps.foldl222)
    | (with_reducible apply Keeps.foldl2x)
    | (with_reducible refine KeepsP.mk ?_; with_reducible first | assumption | apply Keeps.foldlx | apply Keeps.foldlv | apply Keeps.foldl2 | apply Keeps.foldl1 | apply Keeps.foldl22 | apply Keeps.foldl222 | apply Keeps.foldl2x)
    | (with_reducible refine Keeps.of2 (by assumption) ?_) | (with_reducible refine Keeps.of1 (by assumption) ?_)
    | (with_reducible refine Keeps.of3 (by assumption) ?_) | dsimp only

theorem kp_stopRod {z : State} (i : Nat) (s : State) (hs : Keeps z s) :
    Keeps z (stopRod i s) := by
  unfold stopRod
  repeat' first
    | (with_reducible assumption) | (with_reducible apply kp_stopStrm) | (with_reducible apply kp_stopNow) | dsimp only

theorem kp_stopHq {z : State} (n : Nat) (s : State) (hs : Keeps z s) :
    Keeps z (stopHq n s) := by
  unfold stopHq
  repeat' first
    | (with_reducible assumption) | intro _ | (with_reducible apply kp_stopNow) | (with_reducible apply Keeps.foldl)
    | (with_reducible apply Keeps.foldlx) | (with_reducible apply Keeps.foldlv) | (with_reducible apply Keeps.foldl2)
    | (with_reducible apply Keeps.foldl1) | (with_reducible apply Keeps.foldl22) | (with_reducible apply Keeps.foldl222)
    | (with_reducible apply Keeps.foldl2x)
    | (with_reducible refine KeepsP.mk ?_; with_reducible first | assumption | apply Keeps.foldlx | apply Keeps.foldlv | apply Keeps.foldl2 | apply Keeps.foldl1 | apply Keeps.foldl22 | apply Keeps.foldl222 | apply Keeps.foldl2x)
    | (with_reducible refine Keeps.of2 (by assumption) ?_) | (with_reducible refine Keeps.of1 (by assumption) ?_)
    | (with_reducible refine Keeps.of3 (by assumption) ?_) | dsimp only

theorem kp_stopHerdKids {z : State} (n : Nat) (s : State) (hs : Keeps z s) :
    Keeps z (stopHerdKids n s) := by
  unfold stopHerdKids
  repeat' first
    | (with_reducible assumption) | intro _ | (with_reducible apply kp_stopHq) | (with_reducible apply kp_stopRod)
    | (with_reducible apply Keeps.foldl) | (with_reducible apply Keeps.foldlx) | (with_reducible apply Keeps.foldlv)
    | (with_reducible apply Keeps.foldl2) | (with_reducible apply Keeps.foldl1) | (with_reducible apply Keeps.foldl22)
    | (with_reducible apply Keeps.foldl222) | (with_reducible apply Keeps.foldl2x)
    | (with_reducible refine KeepsP.mk ?_; with_reducible first | assumption | apply Keeps.foldlx | apply Keeps.foldlv | apply Keeps.foldl2 | apply Keeps.foldl1 | apply Keeps.foldl22 | apply Keeps.foldl222 | apply Keeps.foldl2x)
    | (with_reducible refine Keeps.of2 (by assumption) ?_) | (with_reducible refine Keeps.of1 (by assumption) ?_)
    | (with_reducible refine Keeps.of3 (by assumption) ?_) | dsimp only

theorem kp_faultBlock {z : State} (a : Nat) (code : Nat) (s : State) (hs : Keeps z s) :
    Keeps z (faultBlock a code s) := by
  unfold faultBlock
  repeat' first
    | (with_reducible assumption) | (with_reducible apply kp_endWork) | (with_reducible apply kp_setState) | (with_reducible apply kp_setF)
    | (with_reducible apply kp_setLifeX) | dsimp only

theorem kp_errBlock {z : State} (a : Nat) (code : Nat) (s : State) (hs : Keeps z s) :
    Keeps z (errBlock a code s) := by
  unfold errBlock
  repeat' first
    | (with_reducible assumption) | (with_reducible apply kp_faultBlock) | split

theorem kp_faultHerd {z : State} (n : Nat) (code : Nat) (s : State) (hs : Keeps z s) :
    Keeps z (faultHerd n code s) := by
  unfold faultHerd
  repeat' first
    | (with_reducible assumption)
    | (extract_lets +onlyGivenNames lv; first | (have hx : Keeps z lv := ?_; generalize lv = w at hx ⊢; clear lv; rotate_left; subst lv) | (generalize lv = w; clear lv) | subst lv)
    | (with_reducible apply kp_stopHerdKids) | (with_reducible apply kp_setState) | (with_reducible apply kp_setF)
    | (with_reducible apply kp_setLifeX) | split | dsimp only | (with_reducible exact Keeps.mk (by assumption))

theorem kp_failRod {z : State} (i : Nat) (code : Nat) (s : State) (hs : Keeps z s) :
    Keeps z (failRod i code s) := by
  unfold failRod
  repeat' first
    | (with_reducible assumption) | intro _
    | (extract_lets +onlyGivenNames lv; first | (have hx : Keeps z lv := ?_; generalize lv = w at hx ⊢; clear lv; rotate_left; subst lv) | (generalize lv = w; clear lv) | subst lv)
    | (with_reducible apply kp_faultBlock) | (with_reducible apply kp_stopNow) | (with_reducible apply kp_putState)
    | (with_reducible apply kp_showIslPace) | (with_reducible apply kp_degrade) | (with_reducible apply kp_setF) | (with_reducible apply Keeps.foldl)
    | (with_reducible apply Keeps.foldlx) | (with_reducible apply Keeps.foldlv) | (with_reducible apply Keeps.foldl2)
    | (with_reducible apply Keeps.foldl1) | (with_reducible apply Keeps.foldl22) | (with_reducible apply Keeps.foldl222)
    | (with_reducible apply Keeps.foldl2x) | split | (with_reducible exact Keeps.mk (by assumption))

theorem kp_rodGone {z : State} (i : Nat) (s : State) (hs : Keeps z s) :
    Keeps z (rodGone i s) := by
  unfold rodGone
  repeat' first
    | (with_reducible assumption)
    | (extract_lets +onlyGivenNames lv; first | (have hx : Keeps z lv := ?_; generalize lv = w at hx ⊢; clear lv; rotate_left; subst lv) | (generalize lv = w; clear lv) | subst lv)
    | (with_reducible apply kp_setF) | (with_reducible apply kp_showIslPace) | (with_reducible apply kp_holdIsl) | split
    | (with_reducible exact Keeps.mk (by assumption))

theorem kp_recordRegs {z : State} (p : Nat) (code : Nat) (sev : Nat) (detail : Nat) (s : State) (hs : Keeps z s) :
    Keeps z (recordRegs p code sev detail s).2 := by
  change KeepsP (fun y : Bool × State => y.2) z _
  unfold recordRegs
  repeat' first
    | (with_reducible assumption) | intro _
    | (extract_lets +onlyGivenNames lv; first | (have hx : Keeps z lv := ?_; generalize lv = w at hx ⊢; clear lv; rotate_left; subst lv) | (have hx : KeepsP (fun y : _ × State => y.2) z lv := ?_; generalize lv = w at hx ⊢; clear lv; replace hx : Keeps z w.2 := hx; rotate_left; subst lv) | (have hfn0 : ∀ y, Keeps z y → Keeps z (lv y) := ?_; generalize lv = w at hfn0 ⊢; clear lv; rotate_left; subst lv) | (have hfn1 : ∀ a y, Keeps z y → Keeps z (lv a y) := ?_; generalize lv = w at hfn1 ⊢; clear lv; rotate_left; subst lv) | (have hfn2 : ∀ a b y, Keeps z y → Keeps z (lv a b y) := ?_; generalize lv = w at hfn2 ⊢; clear lv; rotate_left; subst lv) | (have hfn3 : ∀ a b c y, Keeps z y → Keeps z (lv a b c y) := ?_; generalize lv = w at hfn3 ⊢; clear lv; rotate_left; subst lv) | (have hfn4 : ∀ y a, Keeps z y → Keeps z (lv y a) := ?_; generalize lv = w at hfn4 ⊢; clear lv; rotate_left; subst lv) | (have hfn5 : ∀ a, Keeps z (lv a) := ?_; generalize lv = w at hfn5 ⊢; clear lv; rotate_left; subst lv) | (have hfn6 : ∀ a b, Keeps z (lv a b) := ?_; generalize lv = w at hfn6 ⊢; clear lv; rotate_left; subst lv) | (have hfn7 : ∀ y a b, Keeps z y → Keeps z (lv y a b) := ?_; generalize lv = w at hfn7 ⊢; clear lv; rotate_left; subst lv) | (have hfn8 : ∀ a, KeepsR z (lv a) := ?_; generalize lv = w at hfn8 ⊢; clear lv; rotate_left; subst lv) | (have hfn9 : ∀ y, Keeps z y → KeepsC z (lv y) := ?_; generalize lv = w at hfn9 ⊢; clear lv; rotate_left; subst lv) | (have hfn10 : ∀ y, Keeps z y → KeepsR z (lv y) := ?_; generalize lv = w at hfn10 ⊢; clear lv; rotate_left; subst lv) | (have hfn11 : ∀ a y, Keeps z y → KeepsR z (lv a y) := ?_; generalize lv = w at hfn11 ⊢; clear lv; rotate_left; subst lv) | (have hfn12 : ∀ y a, Keeps z y → KeepsR z (lv y a) := ?_; generalize lv = w at hfn12 ⊢; clear lv; rotate_left; subst lv) | (generalize lv = w; clear lv) | subst lv)
    | (with_reducible apply hfn0) | (with_reducible apply hfn1) | (with_reducible apply hfn2) | (with_reducible apply hfn3)
    | (with_reducible apply hfn4) | (with_reducible apply hfn5) | (with_reducible apply hfn6) | (with_reducible apply hfn7)
    | (with_reducible apply hfn8) | (with_reducible apply hfn9) | (with_reducible apply hfn10) | (with_reducible apply hfn11)
    | (with_reducible apply hfn12) | (with_reducible apply kp_raise) | (with_reducible apply kp_setF) | (with_reducible apply kp_bump) | split
    | (with_reducible refine KeepsP.mk ?_; with_reducible assumption) | (with_reducible refine KeepsP.p2 ?_)
    | (with_reducible refine Keeps.of2 (by assumption) ?_) | dsimp only | (with_reducible exact Keeps.mk (by assumption))

theorem kp_fatEffects {z : State} (p : Nat) (code : Nat) (s : State) (hs : Keeps z s) :
    Keeps z (fatEffects p code s) := by
  unfold fatEffects
  repeat' first
    | (with_reducible assumption) | intro _
    | (extract_lets +onlyGivenNames lv; first | (have hx : Keeps z lv := ?_; generalize lv = w at hx ⊢; clear lv; rotate_left; subst lv) | (have hx : KeepsP (fun y : _ × State => y.2) z lv := ?_; generalize lv = w at hx ⊢; clear lv; replace hx : Keeps z w.2 := hx; rotate_left; subst lv) | (have hx : KeepsP (fun y : State × _ => y.1) z lv := ?_; generalize lv = w at hx ⊢; clear lv; replace hx : Keeps z w.1 := hx; rotate_left; subst lv) | (have hx : KeepsP (fun y : _ × _ × State => y.2.2) z lv := ?_; generalize lv = w at hx ⊢; clear lv; replace hx : Keeps z w.2.2 := hx; rotate_left; subst lv) | (generalize lv = w; clear lv) | subst lv)
    | (with_reducible apply kp_setF) | (with_reducible apply kp_bump) | (with_reducible apply kp_setState) | (with_reducible apply kp_setOutcome)
    | (with_reducible apply kp_recordRegs) | (with_reducible apply kp_faultHerd) | (with_reducible apply kp_bmcEvent)
    | (with_reducible apply kp_tally) | (with_reducible apply kp_emit) | (with_reducible apply Keeps.foldl) | (with_reducible apply Keeps.foldlx)
    | (with_reducible apply Keeps.foldlv) | (with_reducible apply Keeps.foldl2) | (with_reducible apply Keeps.foldl1)
    | (with_reducible apply Keeps.foldl22) | (with_reducible apply Keeps.foldl222) | (with_reducible apply Keeps.foldl2x) | split
    | (with_reducible refine KeepsP.mk ?_; with_reducible first | assumption | apply kp_recordRegs | apply Keeps.foldlx | apply Keeps.foldlv | apply Keeps.foldl2 | apply Keeps.foldl1 | apply Keeps.foldl22 | apply Keeps.foldl222 | apply Keeps.foldl2x)
    | (with_reducible refine KeepsP.p1 ?_) | (with_reducible refine KeepsP.p2 ?_) | (with_reducible refine KeepsP.p22 ?_)
    | (with_reducible refine Keeps.of2 (by assumption) ?_) | (with_reducible refine Keeps.of1 (by assumption) ?_)
    | (with_reducible refine Keeps.of3 (by assumption) ?_) | (with_reducible exact Keeps.mk (by assumption))

theorem kp_countUcc {z : State} (p : Nat) (code : Nat) (s : State) (hs : Keeps z s) :
    Keeps z (countUcc p code s) := by
  unfold countUcc
  repeat' first
    | (with_reducible assumption)
    | (extract_lets +onlyGivenNames lv; first | (have hx : Keeps z lv := ?_; generalize lv = w at hx ⊢; clear lv; rotate_left; subst lv) | (generalize lv = w; clear lv) | subst lv)
    | (with_reducible apply kp_rodGone) | (with_reducible apply kp_failRod) | split | dsimp only | (with_reducible exact Keeps.mk (by assumption))

theorem kp_errSeq {z : State} (i : Nat) (code : Nat) (s : State) (hs : Keeps z s) :
    Keeps z (errSeq i code s) := by
  unfold errSeq
  repeat' first
    | (with_reducible assumption)
    | (extract_lets +onlyGivenNames lv; first | (have hx : Keeps z lv := ?_; generalize lv = w at hx ⊢; clear lv; rotate_left; subst lv) | (generalize lv = w; clear lv) | subst lv)
    | (with_reducible apply kp_failRod) | (with_reducible apply kp_errBlock) | split

theorem kp_errOwn {z : State} (a : Nat) (code : Nat) (s : State) (hs : Keeps z s) :
    Keeps z (errOwn a code s) := by
  unfold errOwn
  repeat' first
    | (with_reducible assumption) | (with_reducible apply kp_errSeq) | (with_reducible apply kp_errBlock) | split

theorem kp_recordWith {z : State} (p : Nat) (code : Nat) (sev : Nat) (detail : Nat) (loc : Nat) (pois : Bool) (self : Bool) (herds : List Nat) (s : State) (hs : Keeps z s) :
    Keeps z (recordWith p code sev detail loc pois self herds s) := by
  unfold recordWith
  repeat' first
    | (with_reducible assumption) | intro _
    | (extract_lets +onlyGivenNames lv; first | (have hx : Keeps z lv := ?_; generalize lv = w at hx ⊢; clear lv; rotate_left; subst lv) | (have hx : KeepsP (fun y : _ × State => y.2) z lv := ?_; generalize lv = w at hx ⊢; clear lv; replace hx : Keeps z w.2 := hx; rotate_left; subst lv) | (have hx : KeepsP (fun y : State × _ => y.1) z lv := ?_; generalize lv = w at hx ⊢; clear lv; replace hx : Keeps z w.1 := hx; rotate_left; subst lv) | (have hx : KeepsP (fun y : _ × _ × State => y.2.2) z lv := ?_; generalize lv = w at hx ⊢; clear lv; replace hx : Keeps z w.2.2 := hx; rotate_left; subst lv) | (have hfn0 : ∀ y, Keeps z y → Keeps z (lv y) := ?_; generalize lv = w at hfn0 ⊢; clear lv; rotate_left; subst lv) | (have hfn1 : ∀ a y, Keeps z y → Keeps z (lv a y) := ?_; generalize lv = w at hfn1 ⊢; clear lv; rotate_left; subst lv) | (have hfn2 : ∀ a b y, Keeps z y → Keeps z (lv a b y) := ?_; generalize lv = w at hfn2 ⊢; clear lv; rotate_left; subst lv) | (have hfn3 : ∀ a b c y, Keeps z y → Keeps z (lv a b c y) := ?_; generalize lv = w at hfn3 ⊢; clear lv; rotate_left; subst lv) | (have hfn4 : ∀ y a, Keeps z y → Keeps z (lv y a) := ?_; generalize lv = w at hfn4 ⊢; clear lv; rotate_left; subst lv) | (have hfn5 : ∀ a, Keeps z (lv a) := ?_; generalize lv = w at hfn5 ⊢; clear lv; rotate_left; subst lv) | (have hfn6 : ∀ a b, Keeps z (lv a b) := ?_; generalize lv = w at hfn6 ⊢; clear lv; rotate_left; subst lv) | (have hfn7 : ∀ y a b, Keeps z y → Keeps z (lv y a b) := ?_; generalize lv = w at hfn7 ⊢; clear lv; rotate_left; subst lv) | (have hfn8 : ∀ a, KeepsR z (lv a) := ?_; generalize lv = w at hfn8 ⊢; clear lv; rotate_left; subst lv) | (have hfn9 : ∀ y, Keeps z y → KeepsC z (lv y) := ?_; generalize lv = w at hfn9 ⊢; clear lv; rotate_left; subst lv) | (have hfn10 : ∀ y, Keeps z y → KeepsR z (lv y) := ?_; generalize lv = w at hfn10 ⊢; clear lv; rotate_left; subst lv) | (have hfn11 : ∀ a y, Keeps z y → KeepsR z (lv a y) := ?_; generalize lv = w at hfn11 ⊢; clear lv; rotate_left; subst lv) | (have hfn12 : ∀ y a, Keeps z y → KeepsR z (lv y a) := ?_; generalize lv = w at hfn12 ⊢; clear lv; rotate_left; subst lv) | (generalize lv = w; clear lv) | subst lv)
    | (with_reducible apply hfn0) | (with_reducible apply hfn1) | (with_reducible apply hfn2) | (with_reducible apply hfn3)
    | (with_reducible apply hfn4) | (with_reducible apply hfn5) | (with_reducible apply hfn6) | (with_reducible apply hfn7)
    | (with_reducible apply hfn8) | (with_reducible apply hfn9) | (with_reducible apply hfn10) | (with_reducible apply hfn11)
    | (with_reducible apply hfn12) | (with_reducible apply kp_bump) | (with_reducible apply kp_raise) | (with_reducible apply kp_recordRegs)
    | (with_reducible apply kp_countUcc) | (with_reducible apply kp_errOwn) | (with_reducible apply kp_faultHerd) | (with_reducible apply kp_tally)
    | (with_reducible apply kp_bmcEvent) | (with_reducible apply Keeps.foldl) | (with_reducible apply Keeps.foldlx)
    | (with_reducible apply Keeps.foldlv) | (with_reducible apply Keeps.foldl2) | (with_reducible apply Keeps.foldl1)
    | (with_reducible apply Keeps.foldl22) | (with_reducible apply Keeps.foldl222) | (with_reducible apply Keeps.foldl2x) | split
    | (with_reducible refine KeepsP.mk ?_; with_reducible first | assumption | apply kp_recordRegs | apply Keeps.foldlx | apply Keeps.foldlv | apply Keeps.foldl2 | apply Keeps.foldl1 | apply Keeps.foldl22 | apply Keeps.foldl222 | apply Keeps.foldl2x)
    | (with_reducible refine KeepsP.p1 ?_) | (with_reducible refine KeepsP.p2 ?_) | (with_reducible refine KeepsP.p22 ?_)
    | (with_reducible refine Keeps.of2 (by assumption) ?_) | (with_reducible refine Keeps.of1 (by assumption) ?_)
    | (with_reducible refine Keeps.of3 (by assumption) ?_) | (with_reducible exact Keeps.mk (by assumption))

theorem kp_recordErr {z : State} (p : Nat) (code : Nat) (sev : Nat) (detail : Nat) (loc : Nat) (pois : Bool) (s : State) (hs : Keeps z s) :
    Keeps z (recordErr p code sev detail loc pois s) := by
  unfold recordErr
  repeat' first
    | (with_reducible assumption)
    | (extract_lets +onlyGivenNames lv; first | (have hx : Keeps z lv := ?_; generalize lv = w at hx ⊢; clear lv; rotate_left; subst lv) | (generalize lv = w; clear lv) | subst lv)
    | (with_reducible apply kp_recordWith) | (with_reducible apply kp_fatEffects) | split | dsimp only

theorem kp_recordCE {z : State} (p : Nat) (code : Nat) (detail : Nat) (loc : Nat) (s : State) (hs : Keeps z s) :
    Keeps z (recordCE p code detail loc s) := by
  unfold recordCE
  repeat' first
    | (with_reducible assumption) | (with_reducible apply kp_recordErr) | dsimp only

theorem kp_clearFirst {z : State} (p : Nat) (s : State) (hs : Keeps z s) :
    Keeps z (clearFirst p s) := by
  unfold clearFirst
  repeat' first
    | (with_reducible assumption)
    | (extract_lets +onlyGivenNames lv; first | (have hx : Keeps z lv := ?_; generalize lv = w at hx ⊢; clear lv; rotate_left; subst lv) | (generalize lv = w; clear lv) | subst lv)
    | (with_reducible apply kp_wrW) | split | dsimp only | (with_reducible exact Keeps.mk (by assumption))

end Sys2Proof.Machine
end

