-- ==== Sys2Proof/Laws/KeepsRegWrite.lean ====
section
/-! SUPPORT. What every operation of Machine/RegWrite.lean keeps. -/
set_option linter.all false

namespace Sys2Proof.Machine

theorem kp_barWrite {z : State} (fn : Nat) (a : Nat) (k : State → State) (s : State) (hk : ∀ y0, Keeps z y0 → Keeps z (k y0)) (hs : Keeps z s) :
    Keeps z (barWrite fn a k s) := by
  unfold barWrite
  repeat' first
    | (with_reducible assumption)
    | (extract_lets +onlyGivenNames lv; first | (have hx : Keeps z lv := ?_; generalize lv = w at hx ⊢; clear lv; rotate_left; subst lv) | (generalize lv = w; clear lv) | subst lv)
    | (with_reducible apply hk) | (with_reducible apply kp_raise) | split | dsimp only

theorem kp_writeReg {z : State} (a : Nat) (v : Nat) (s : State) (hs : Keeps z s) :
    Keeps z (writeReg a v s) := by
  unfold writeReg
  repeat' first
    | (with_reducible assumption)
    | (extract_lets +onlyGivenNames lv; first | (have hx : Keeps z lv := ?_; generalize lv = w at hx ⊢; clear lv; rotate_left; subst lv) | (generalize lv = w; clear lv) | subst lv)
    | (with_reducible apply kp_wrW) | (with_reducible apply kp_raise) | split | dsimp only | (with_reducible exact Keeps.mk (by assumption))

theorem kp_writeShadow {z : State} (a : Nat) (v : Nat) (s : State) (hs : Keeps z s) :
    Keeps z (writeShadow a v s) := by
  unfold writeShadow
  repeat' first
    | (with_reducible assumption) | (with_reducible apply kp_raise) | split | (with_reducible exact Keeps.mk (by assumption))

theorem kp_writeHi {z : State} (a : Nat) (v : Nat) (s : State) (hs : Keeps z s) :
    Keeps z (writeHi a v s) := by
  unfold writeHi
  repeat' first
    | (with_reducible assumption)
    | (extract_lets +onlyGivenNames lv; first | (have hx : Keeps z lv := ?_; generalize lv = w at hx ⊢; clear lv; rotate_left; subst lv) | (generalize lv = w; clear lv) | subst lv)
    | (with_reducible apply kp_raise) | (with_reducible apply kp_writeReg) | split | (with_reducible exact Keeps.mk (by assumption))

end Sys2Proof.Machine
end

