-- ==== Sys2Proof/Laws/KeepsSpad.lean ====
section
/-! SUPPORT. What every operation of Machine/Spad.lean keeps. -/
set_option linter.all false

namespace Sys2Proof.Machine

theorem kp_spadSeen {z : State} (i : Nat) (a : Nat) (n : Nat) (s : State) (hs : Keeps z s) :
    Keeps z (spadSeen i a n s) := by
  unfold spadSeen
  repeat' first
    | (with_reducible assumption) | intro _
    | (extract_lets +onlyGivenNames lv; first | (have hx : Keeps z lv := ?_; generalize lv = w at hx ⊢; clear lv; rotate_left; subst lv) | (have hx : KeepsP (fun y : _ × State => y.2) z lv := ?_; generalize lv = w at hx ⊢; clear lv; replace hx : Keeps z w.2 := hx; rotate_left; subst lv) | (have hx : KeepsP (fun y : State × _ => y.1) z lv := ?_; generalize lv = w at hx ⊢; clear lv; replace hx : Keeps z w.1 := hx; rotate_left; subst lv) | (have hx : KeepsP (fun y : _ × _ × State => y.2.2) z lv := ?_; generalize lv = w at hx ⊢; clear lv; replace hx : Keeps z w.2.2 := hx; rotate_left; subst lv) | (generalize lv = w; clear lv) | subst lv)
    | (with_reducible apply kp_recordErr) | (with_reducible apply kp_raise) | (with_reducible apply kp_bump) | (with_reducible apply kp_setF)
    | (with_reducible apply Keeps.foldl) | (with_reducible apply Keeps.foldlx) | (with_reducible apply Keeps.foldlv)
    | (with_reducible apply Keeps.foldl2) | (with_reducible apply Keeps.foldl1) | (with_reducible apply Keeps.foldl22)
    | (with_reducible apply Keeps.foldl222) | (with_reducible apply Keeps.foldl2x) | split
    | (with_reducible refine KeepsP.mk ?_; with_reducible first | assumption | apply Keeps.foldlx | apply Keeps.foldlv | apply Keeps.foldl2 | apply Keeps.foldl1 | apply Keeps.foldl22 | apply Keeps.foldl222 | apply Keeps.foldl2x)
    | (with_reducible refine KeepsP.p1 ?_) | (with_reducible refine KeepsP.p2 ?_) | (with_reducible refine KeepsP.p22 ?_)
    | (with_reducible refine Keeps.of2 (by assumption) ?_) | (with_reducible refine Keeps.of1 (by assumption) ?_)
    | (with_reducible refine Keeps.of3 (by assumption) ?_) | dsimp only

theorem kp_accSeen {z : State} (i : Nat) (e : Nat) (s : State) (hs : Keeps z s) :
    Keeps z (accSeen i e s) := by
  unfold accSeen
  repeat' first
    | (with_reducible assumption) | (with_reducible apply kp_recordErr) | (with_reducible apply kp_bump) | (with_reducible apply kp_setF) | split

end Sys2Proof.Machine
end

