-- ==== Sys2Proof/Laws/KeepsBead.lean ====
section
/-! SUPPORT. What every operation of Machine/Bead.lean keeps. -/
set_option linter.all false

namespace Sys2Proof.Machine

theorem kp_setBead {z : State} (i : Nat) (b : BeadSt) (s : State) (hs : Keeps z s) :
    Keeps z (setBead i b s) := by
  unfold setBead
  repeat' first
    | (with_reducible assumption) | dsimp only | (with_reducible exact Keeps.mk (by assumption))

theorem kp_setCal {z : State} (i : Nat) (c : Nat) (x : Cal) (s : State) (hs : Keeps z s) :
    Keeps z (setCal i c x s) := by
  unfold setCal
  repeat' first
    | (with_reducible assumption) | (with_reducible exact Keeps.mk (by assumption))

theorem kp_putHdr {z : State} (i : Nat) (q : Nat) (c : Nat) (s : State) (hs : Keeps z s) :
    Keeps z (putHdr i q c s) := by
  unfold putHdr
  repeat' first
    | (with_reducible assumption) | (with_reducible apply kp_setBead) | split | (with_reducible exact Keeps.mk (by assumption))

theorem kp_setRegionClass {z : State} (i : Nat) (r : Nat) (c : Nat) (floor : Bool) (s : State) (hs : Keeps z s) :
    Keeps z (setRegionClass i r c floor s) := by
  unfold setRegionClass
  repeat' first
    | (with_reducible assumption) | intro _
    | (extract_lets +onlyGivenNames lv; first | (have hx : Keeps z lv := ?_; generalize lv = w at hx ⊢; clear lv; rotate_left; subst lv) | (generalize lv = w; clear lv) | subst lv)
    | (with_reducible apply kp_raise) | (with_reducible apply kp_setF) | (with_reducible apply kp_setBead) | split
    | (with_reducible exact Keeps.mk (by assumption))

theorem kp_applyFloors {z : State} (i : Nat) (s : State) (hs : Keeps z s) :
    Keeps z (applyFloors i s) := by
  unfold applyFloors
  repeat' first
    | (with_reducible assumption) | intro _
    | (extract_lets +onlyGivenNames lv; first | (have hx : Keeps z lv := ?_; generalize lv = w at hx ⊢; clear lv; rotate_left; subst lv) | (generalize lv = w; clear lv) | subst lv)
    | (with_reducible apply kp_setF) | (with_reducible apply kp_setRegionClass) | (with_reducible apply Keeps.foldl)
    | (with_reducible apply Keeps.foldlx) | (with_reducible apply Keeps.foldlv) | (with_reducible apply Keeps.foldl2)
    | (with_reducible apply Keeps.foldl1) | (with_reducible apply Keeps.foldl22) | (with_reducible apply Keeps.foldl222)
    | (with_reducible apply Keeps.foldl2x) | split

theorem kp_asRaise {z : State} (i : Nat) (r : Nat) (s : State) (hs : Keeps z s) :
    Keeps z (asRaise i r s) := by
  unfold asRaise
  repeat' first
    | (with_reducible assumption)
    | (extract_lets +onlyGivenNames lv; first | (have hx : Keeps z lv := ?_; generalize lv = w at hx ⊢; clear lv; rotate_left; subst lv) | (generalize lv = w; clear lv) | subst lv)
    | (with_reducible apply kp_setBead) | (with_reducible apply kp_setRegionClass) | split | (with_reducible exact Keeps.mk (by assumption))

theorem kp_refreshBand {z : State} (i : Nat) (k : Nat) (s : State) (hs : Keeps z s) :
    Keeps z (refreshBand i k s) := by
  unfold refreshBand
  repeat' first
    | (with_reducible assumption)
    | (extract_lets +onlyGivenNames lv; first | (have hx : Keeps z lv := ?_; generalize lv = w at hx ⊢; clear lv; rotate_left; subst lv) | (generalize lv = w; clear lv) | subst lv)
    | (with_reducible apply kp_applyFloors) | (with_reducible apply kp_setF) | split

theorem kp_addDefect {z : State} (kind : Nat) (loc : Nat) (row : Nat) (s : State) (hs : Keeps z s) :
    Keeps z (addDefect kind loc row s) := by
  unfold addDefect
  repeat' first
    | (with_reducible assumption) | (with_reducible exact Keeps.mk (by assumption))

theorem kp_lastErr {z : State} (i : Nat) (kind : Nat) (maxsym : Nat) (q : Nat) (s : State) (hs : Keeps z s) :
    Keeps z (lastErr i kind maxsym q s) := by
  unfold lastErr
  repeat' first
    | (with_reducible assumption) | (with_reducible apply kp_setF) | dsimp only

theorem kp_losePage {z : State} (i : Nat) (q : Nat) (s : State) (hs : Keeps z s) :
    Keeps z (losePage i q s) := by
  unfold losePage
  repeat' first
    | (with_reducible assumption)
    | (extract_lets +onlyGivenNames lv; first | (have hx : Keeps z lv := ?_; generalize lv = w at hx ⊢; clear lv; rotate_left; subst lv) | (generalize lv = w; clear lv) | subst lv)
    | (with_reducible apply kp_raise) | (with_reducible apply kp_recordErr) | (with_reducible apply kp_lastErr) | (with_reducible apply kp_bump)
    | (with_reducible apply kp_setBead) | (with_reducible apply kp_degrade) | (with_reducible apply kp_setF) | split | dsimp only
    | (with_reducible exact Keeps.mk (by assumption))

theorem kp_takeSpare {z : State} (i : Nat) (ch : Nat) (s : State) (hs : Keeps z s) :
    Keeps z (takeSpare i ch s) := by
  unfold takeSpare
  repeat' first
    | (with_reducible assumption)
    | (extract_lets +onlyGivenNames lv; first | (have hx : Keeps z lv := ?_; generalize lv = w at hx ⊢; clear lv; rotate_left; subst lv) | (generalize lv = w; clear lv) | subst lv)
    | (with_reducible apply kp_setF) | (with_reducible apply kp_raise) | split

theorem kp_remapPage {z : State} (i : Nat) (q : Nat) (s : State) (hs : Keeps z s) :
    Keeps z (remapPage i q s) := by
  unfold remapPage
  repeat' first
    | (with_reducible assumption)
    | (extract_lets +onlyGivenNames lv; first | (have hx : Keeps z lv := ?_; generalize lv = w at hx ⊢; clear lv; rotate_left; subst lv) | (generalize lv = w; clear lv) | subst lv)
    | (with_reducible apply kp_takeSpare) | (with_reducible apply kp_bump) | (with_reducible apply kp_setBead) | split
    | (with_reducible exact Keeps.mk (by assumption))

theorem kp_putSectors {z : State} (i : Nat) (a : Nat) (n : Nat) (bad : List Nat) (s : State) (hs : Keeps z s) :
    Keeps z (putSectors i a n bad s) := by
  unfold putSectors
  repeat' first
    | (with_reducible assumption) | intro _
    | (extract_lets +onlyGivenNames lv; first | (have hx : Keeps z lv := ?_; generalize lv = w at hx ⊢; clear lv; rotate_left; subst lv) | (generalize lv = w; clear lv) | subst lv)
    | (with_reducible apply kp_setBead) | (with_reducible apply Keeps.foldl) | (with_reducible apply Keeps.foldlx)
    | (with_reducible apply Keeps.foldlv) | (with_reducible apply Keeps.foldl2) | (with_reducible apply Keeps.foldl1)
    | (with_reducible apply Keeps.foldl22) | (with_reducible apply Keeps.foldl222) | (with_reducible apply Keeps.foldl2x) | split
    | (with_reducible exact Keeps.mk (by assumption))

theorem kp_beadWrite {z : State} (i : Nat) (a : Nat) (bs : List Byte) (bad : List Nat) (s : State) (hs : Keeps z s) :
    Keeps z (beadWrite i a bs bad s).2 := by
  change KeepsP (fun y : Bool × State => y.2) z _
  unfold beadWrite
  repeat' first
    | (with_reducible assumption) | (with_reducible apply kp_putSectors) | (with_reducible apply kp_putBytes) | split
    | (with_reducible refine KeepsP.mk ?_; with_reducible assumption) | (with_reducible refine KeepsP.p2 ?_)
    | (with_reducible refine Keeps.of2 (by assumption) ?_) | dsimp only

theorem kp_dirtySectorBad {z : State} (i : Nat) (sec : Nat) (s : State) (hs : Keeps z s) :
    Keeps z (dirtySectorBad i sec s) := by
  unfold dirtySectorBad
  repeat' first
    | (with_reducible assumption) | intro _ | (with_reducible apply kp_putSectors) | split

theorem kp_pageXfer {z : State} (i : Nat) (q : Nat) (s : State) (hs : Keeps z s) :
    Keeps z (pageXfer i q s) := by
  unfold pageXfer
  repeat' first
    | (with_reducible assumption)
    | (extract_lets +onlyGivenNames lv; first | (have hx : Keeps z lv := ?_; generalize lv = w at hx ⊢; clear lv; rotate_left; subst lv) | (generalize lv = w; clear lv) | subst lv)
    | (with_reducible apply kp_waitTill) | (with_reducible apply kp_setBead) | split | (with_reducible exact Keeps.mk (by assumption))

theorem kp_wrote {z : State} (i : Nat) (q : Nat) (tr : List Nat) (s : State) (hs : Keeps z s) :
    Keeps z (wrote i q tr s) := by
  unfold wrote
  repeat' first
    | (with_reducible assumption) | intro _
    | (extract_lets +onlyGivenNames lv; first | (have hx : Keeps z lv := ?_; generalize lv = w at hx ⊢; clear lv; rotate_left; subst lv) | (have hfn0 : ∀ y, Keeps z y → Keeps z (lv y) := ?_; generalize lv = w at hfn0 ⊢; clear lv; rotate_left; subst lv) | (have hfn1 : ∀ a y, Keeps z y → Keeps z (lv a y) := ?_; generalize lv = w at hfn1 ⊢; clear lv; rotate_left; subst lv) | (have hfn2 : ∀ a b y, Keeps z y → Keeps z (lv a b y) := ?_; generalize lv = w at hfn2 ⊢; clear lv; rotate_left; subst lv) | (have hfn3 : ∀ a b c y, Keeps z y → Keeps z (lv a b c y) := ?_; generalize lv = w at hfn3 ⊢; clear lv; rotate_left; subst lv) | (have hfn4 : ∀ y a, Keeps z y → Keeps z (lv y a) := ?_; generalize lv = w at hfn4 ⊢; clear lv; rotate_left; subst lv) | (have hfn5 : ∀ a, Keeps z (lv a) := ?_; generalize lv = w at hfn5 ⊢; clear lv; rotate_left; subst lv) | (have hfn6 : ∀ a b, Keeps z (lv a b) := ?_; generalize lv = w at hfn6 ⊢; clear lv; rotate_left; subst lv) | (have hfn7 : ∀ y a b, Keeps z y → Keeps z (lv y a b) := ?_; generalize lv = w at hfn7 ⊢; clear lv; rotate_left; subst lv) | (have hfn8 : ∀ a, KeepsR z (lv a) := ?_; generalize lv = w at hfn8 ⊢; clear lv; rotate_left; subst lv) | (have hfn9 : ∀ y, Keeps z y → KeepsC z (lv y) := ?_; generalize lv = w at hfn9 ⊢; clear lv; rotate_left; subst lv) | (have hfn10 : ∀ y, Keeps z y → KeepsR z (lv y) := ?_; generalize lv = w at hfn10 ⊢; clear lv; rotate_left; subst lv) | (have hfn11 : ∀ a y, Keeps z y → KeepsR z (lv a y) := ?_; generalize lv = w at hfn11 ⊢; clear lv; rotate_left; subst lv) | (have hfn12 : ∀ y a, Keeps z y → KeepsR z (lv y a) := ?_; generalize lv = w at hfn12 ⊢; clear lv; rotate_left; subst lv) | (generalize lv = w; clear lv) | subst lv)
    | (with_reducible apply hfn0) | (with_reducible apply hfn1) | (with_reducible apply hfn2) | (with_reducible apply hfn3)
    | (with_reducible apply hfn4) | (with_reducible apply hfn5) | (with_reducible apply hfn6) | (with_reducible apply hfn7)
    | (with_reducible apply hfn8) | (with_reducible apply hfn9) | (with_reducible apply hfn10) | (with_reducible apply hfn11)
    | (with_reducible apply hfn12) | (with_reducible apply kp_setBead) | (with_reducible apply kp_setF) | (with_reducible apply Keeps.foldl)
    | (with_reducible apply Keeps.foldlx) | (with_reducible apply Keeps.foldlv) | (with_reducible apply Keeps.foldl2)
    | (with_reducible apply Keeps.foldl1) | (with_reducible apply Keeps.foldl22) | (with_reducible apply Keeps.foldl222)
    | (with_reducible apply Keeps.foldl2x) | split | (with_reducible exact Keeps.mk (by assumption))

theorem kp_writeBack {z : State} (i : Nat) (q : Nat) (all : Bool) (s : State) (hs : Keeps z s) :
    Keeps z (writeBack i q all s) := by
  unfold writeBack
  repeat' first
    | (with_reducible assumption) | intro _
    | (extract_lets +onlyGivenNames lv; first | (have hx : Keeps z lv := ?_; generalize lv = w at hx ⊢; clear lv; rotate_left; subst lv) | (generalize lv = w; clear lv) | subst lv)
    | (with_reducible apply kp_wrote) | (with_reducible apply kp_putHdr) | (with_reducible apply kp_pageXfer) | (with_reducible apply kp_setBead)
    | split | (with_reducible exact Keeps.mk (by assumption))

theorem kp_cacheInsert {z : State} (i : Nat) (q : Nat) (dirty : List Nat) (spare : Bool) (cls : Nat) (s : State) (hs : Keeps z s) :
    Keeps z (cacheInsert i q dirty spare cls s) := by
  unfold cacheInsert
  repeat' first
    | (with_reducible assumption) | intro _
    | (extract_lets +onlyGivenNames lv; first | (have hx : Keeps z lv := ?_; generalize lv = w at hx ⊢; clear lv; rotate_left; subst lv) | (generalize lv = w; clear lv) | subst lv)
    | (with_reducible apply kp_writeBack) | (with_reducible apply kp_setBead) | split | (with_reducible exact Keeps.mk (by assumption))

theorem kp_cacheUse {z : State} (i : Nat) (q : Nat) (s : State) (hs : Keeps z s) :
    Keeps z (cacheUse i q s) := by
  unfold cacheUse
  repeat' first
    | (with_reducible assumption)
    | (extract_lets +onlyGivenNames lv; first | (have hx : Keeps z lv := ?_; generalize lv = w at hx ⊢; clear lv; rotate_left; subst lv) | (generalize lv = w; clear lv) | subst lv)
    | (with_reducible apply kp_setBead) | split | dsimp only | (with_reducible exact Keeps.mk (by assumption))

theorem kp_retirePage {z : State} (i : Nat) (q : Nat) (uncorr : Bool) (s : State) (hs : Keeps z s) :
    Keeps z (retirePage i q uncorr s) := by
  unfold retirePage
  repeat' first
    | (with_reducible assumption) | intro _
    | (extract_lets +onlyGivenNames lv; first | (have hx : Keeps z lv := ?_; generalize lv = w at hx ⊢; clear lv; rotate_left; subst lv) | (generalize lv = w; clear lv) | subst lv)
    | (with_reducible apply kp_losePage) | (with_reducible apply kp_setRegionClass) | (with_reducible apply kp_recordCE)
    | (with_reducible apply kp_putHdr) | (with_reducible apply kp_cacheInsert) | (with_reducible apply kp_remapPage)
    | (with_reducible apply kp_setBead) | (with_reducible apply kp_raise) | (with_reducible apply kp_addDefect) | (with_reducible apply kp_lastErr)
    | split | (with_reducible exact Keeps.mk (by assumption))

theorem kp_corrected {z : State} (i : Nat) (q : Nat) (c0 : Nat) (c1 : Nat) (t : Nat) (s : State) (hs : Keeps z s) :
    Keeps z (corrected i q c0 c1 t s) := by
  unfold corrected
  repeat' first
    | (with_reducible assumption)
    | (extract_lets +onlyGivenNames lv; first | (have hx : Keeps z lv := ?_; generalize lv = w at hx ⊢; clear lv; rotate_left; subst lv) | (generalize lv = w; clear lv) | subst lv)
    | (with_reducible apply kp_lastErr) | (with_reducible apply kp_bump64) | (with_reducible apply kp_recordCE) | (with_reducible apply kp_bump)
    | (with_reducible apply kp_setBead) | (with_reducible apply kp_asRaise) | (with_reducible apply kp_retirePage) | split | dsimp only
    | (with_reducible exact Keeps.mk (by assumption))

theorem kp_uncorrectable {z : State} (i : Nat) (q : Nat) (code : Nat) (s : State) (hs : Keeps z s) :
    Keeps z (uncorrectable i q code s) := by
  unfold uncorrectable
  repeat' first
    | (with_reducible assumption) | intro _
    | (extract_lets +onlyGivenNames lv; first | (have hx : Keeps z lv := ?_; generalize lv = w at hx ⊢; clear lv; rotate_left; subst lv) | (have hx : KeepsP (fun y : _ × State => y.2) z lv := ?_; generalize lv = w at hx ⊢; clear lv; replace hx : Keeps z w.2 := hx; rotate_left; subst lv) | (have hx : KeepsP (fun y : State × _ => y.1) z lv := ?_; generalize lv = w at hx ⊢; clear lv; replace hx : Keeps z w.1 := hx; rotate_left; subst lv) | (have hx : KeepsP (fun y : _ × _ × State => y.2.2) z lv := ?_; generalize lv = w at hx ⊢; clear lv; replace hx : Keeps z w.2.2 := hx; rotate_left; subst lv) | (generalize lv = w; clear lv) | subst lv)
    | (with_reducible apply kp_raise) | (with_reducible apply kp_recordErr) | (with_reducible apply kp_lastErr) | (with_reducible apply kp_bump)
    | (with_reducible apply kp_retirePage) | (with_reducible apply Keeps.foldl) | (with_reducible apply Keeps.foldlx)
    | (with_reducible apply Keeps.foldlv) | (with_reducible apply Keeps.foldl2) | (with_reducible apply Keeps.foldl1)
    | (with_reducible apply Keeps.foldl22) | (with_reducible apply Keeps.foldl222) | (with_reducible apply Keeps.foldl2x)
    | (with_reducible refine KeepsP.mk ?_; with_reducible first | assumption | apply Keeps.foldlx | apply Keeps.foldlv | apply Keeps.foldl2 | apply Keeps.foldl1 | apply Keeps.foldl22 | apply Keeps.foldl222 | apply Keeps.foldl2x)
    | (with_reducible refine KeepsP.p1 ?_) | (with_reducible refine KeepsP.p2 ?_) | (with_reducible refine KeepsP.p22 ?_)
    | (with_reducible refine Keeps.of2 (by assumption) ?_) | (with_reducible refine Keeps.of1 (by assumption) ?_)
    | (with_reducible refine Keeps.of3 (by assumption) ?_) | dsimp only | (with_reducible exact Keeps.mk (by assumption))

theorem kp_checkMeta {z : State} (i : Nat) (q : Nat) (s : State) (hs : Keeps z s) :
    Keeps z (checkMeta i q s) := by
  unfold checkMeta
  repeat' first
    | (with_reducible assumption) | (with_reducible apply kp_recordErr) | split

theorem kp_decodePage {z : State} (i : Nat) (q : Nat) (s : State) (hs : Keeps z s) :
    Keeps z (decodePage i q s).2 := by
  change KeepsP (fun y : Bool × State => y.2) z _
  unfold decodePage
  repeat' first
    | (with_reducible assumption)
    | (extract_lets +onlyGivenNames lv; first | (have hx : Keeps z lv := ?_; generalize lv = w at hx ⊢; clear lv; rotate_left; subst lv) | (generalize lv = w; clear lv) | subst lv)
    | (with_reducible apply kp_uncorrectable) | (with_reducible apply kp_checkMeta) | (with_reducible apply kp_corrected) | split
    | (with_reducible refine KeepsP.mk ?_; with_reducible first | assumption) | (with_reducible refine KeepsP.p1 ?_)
    | (with_reducible refine KeepsP.p2 ?_) | (with_reducible refine KeepsP.p22 ?_) | (with_reducible refine Keeps.of2 (by assumption) ?_)
    | (with_reducible refine Keeps.of1 (by assumption) ?_) | (with_reducible refine Keeps.of3 (by assumption) ?_)

theorem kp_fillPage {z : State} (i : Nat) (q : Nat) (s : State) (hs : Keeps z s) :
    Keeps z (fillPage i q s) := by
  unfold fillPage
  repeat' first
    | (with_reducible assumption) | intro _
    | (extract_lets +onlyGivenNames lv; first | (have hx : Keeps z lv := ?_; generalize lv = w at hx ⊢; clear lv; rotate_left; subst lv) | (have hx : KeepsP (fun y : _ × State => y.2) z lv := ?_; generalize lv = w at hx ⊢; clear lv; replace hx : Keeps z w.2 := hx; rotate_left; subst lv) | (have hx : KeepsP (fun y : State × _ => y.1) z lv := ?_; generalize lv = w at hx ⊢; clear lv; replace hx : Keeps z w.1 := hx; rotate_left; subst lv) | (have hx : KeepsP (fun y : _ × _ × State => y.2.2) z lv := ?_; generalize lv = w at hx ⊢; clear lv; replace hx : Keeps z w.2.2 := hx; rotate_left; subst lv) | (generalize lv = w; clear lv) | subst lv)
    | (with_reducible apply kp_decodePage) | (with_reducible apply kp_pageXfer) | (with_reducible apply kp_cacheInsert)
    | (with_reducible apply Keeps.foldl) | (with_reducible apply Keeps.foldlx) | (with_reducible apply Keeps.foldlv)
    | (with_reducible apply Keeps.foldl2) | (with_reducible apply Keeps.foldl1) | (with_reducible apply Keeps.foldl22)
    | (with_reducible apply Keeps.foldl222) | (with_reducible apply Keeps.foldl2x) | split
    | (with_reducible refine KeepsP.mk ?_; with_reducible first | assumption | apply kp_decodePage | apply Keeps.foldlx | apply Keeps.foldlv | apply Keeps.foldl2 | apply Keeps.foldl1 | apply Keeps.foldl22 | apply Keeps.foldl222 | apply Keeps.foldl2x)
    | (with_reducible refine KeepsP.p1 ?_) | (with_reducible refine KeepsP.p2 ?_) | (with_reducible refine KeepsP.p22 ?_)
    | (with_reducible refine Keeps.of2 (by assumption) ?_) | (with_reducible refine Keeps.of1 (by assumption) ?_)
    | (with_reducible refine Keeps.of3 (by assumption) ?_)

theorem kp_applyReq {z : State} (r : PReq) (s : State) (hs : Keeps z s) :
    Keeps z (applyReq r s) := by
  unfold applyReq
  repeat' first
    | (with_reducible assumption) | intro _
    | (extract_lets +onlyGivenNames lv; first | (have hx : Keeps z lv := ?_; generalize lv = w at hx ⊢; clear lv; rotate_left; subst lv) | (have hx : KeepsP (fun y : _ × State => y.2) z lv := ?_; generalize lv = w at hx ⊢; clear lv; replace hx : Keeps z w.2 := hx; rotate_left; subst lv) | (generalize lv = w; clear lv) | subst lv)
    | (with_reducible apply kp_beadWrite) | (with_reducible apply kp_updReq) | split
    | (with_reducible refine KeepsP.mk ?_; with_reducible first | assumption | apply kp_beadWrite) | (with_reducible refine KeepsP.p1 ?_)
    | (with_reducible refine KeepsP.p2 ?_) | (with_reducible refine KeepsP.p22 ?_) | (with_reducible refine Keeps.of2 (by assumption) ?_)
    | (with_reducible refine Keeps.of1 (by assumption) ?_) | (with_reducible refine Keeps.of3 (by assumption) ?_) | dsimp only [id]
    | (with_reducible exact Keeps.mk (by assumption))

theorem kp_unwait {z : State} (i : Nat) (id : Nat) (s : State) (hs : Keeps z s) :
    Keeps z (unwait i id s) := by
  unfold unwait
  repeat' first
    | (with_reducible assumption) | intro _ | (with_reducible apply kp_setBead) | dsimp only [id] | (with_reducible exact Keeps.mk (by assumption))

theorem kp_fillServe {z : State} (i : Nat) (q : Nat) (s : State) (hs : Keeps z s) :
    Keeps z (fillServe i q s) := by
  unfold fillServe
  repeat' first
    | (with_reducible assumption) | intro _ | (with_reducible apply kp_unwait) | (with_reducible apply kp_applyReq)
    | (with_reducible apply Keeps.foldl) | (with_reducible apply Keeps.foldlx) | (with_reducible apply Keeps.foldlv)
    | (with_reducible apply Keeps.foldl2) | (with_reducible apply Keeps.foldl1) | (with_reducible apply Keeps.foldl22)
    | (with_reducible apply Keeps.foldl222) | (with_reducible apply Keeps.foldl2x) | dsimp only [id]

theorem kp_endWaits {z : State} (i : Nat) (st : Nat) (p : Nat → Bool) (s : State) (hs : Keeps z s) :
    Keeps z (endWaits i st p s) := by
  unfold endWaits
  repeat' first
    | (with_reducible assumption) | intro _ | (with_reducible apply kp_unwait) | (with_reducible apply kp_updReq)
    | (with_reducible apply Keeps.foldl) | (with_reducible apply Keeps.foldlx) | (with_reducible apply Keeps.foldlv)
    | (with_reducible apply Keeps.foldl2) | (with_reducible apply Keeps.foldl1) | (with_reducible apply Keeps.foldl22)
    | (with_reducible apply Keeps.foldl222) | (with_reducible apply Keeps.foldl2x) | split | dsimp only [id]
    | (with_reducible exact Keeps.mk (by assumption))

theorem kp_touchPage {z : State} (i : Nat) (q : Nat) (whole : Bool) (s : State) (hs : Keeps z s) :
    Keeps z (touchPage i q whole s) := by
  unfold touchPage
  repeat' first
    | (with_reducible assumption)
    | (extract_lets +onlyGivenNames lv; first | (have hx : Keeps z lv := ?_; generalize lv = w at hx ⊢; clear lv; rotate_left; subst lv) | (generalize lv = w; clear lv) | subst lv)
    | (with_reducible apply kp_cacheUse) | (with_reducible apply kp_bump64) | (with_reducible apply kp_fillServe)
    | (with_reducible apply kp_fillPage) | (with_reducible apply kp_cacheInsert) | split

theorem kp_inColumn {z : State} (i : Nat) (a : Nat) (n : Nat) (s : State) (hs : Keeps z s) :
    Keeps z (inColumn i a n s).2 := by
  change KeepsP (fun y : Nat × State => y.2) z _
  unfold inColumn
  repeat' first
    | (with_reducible assumption) | (with_reducible apply kp_recordCE) | split
    | (with_reducible refine KeepsP.mk ?_; with_reducible first | assumption) | (with_reducible refine KeepsP.p1 ?_)
    | (with_reducible refine KeepsP.p2 ?_) | (with_reducible refine KeepsP.p22 ?_) | (with_reducible refine Keeps.of2 (by assumption) ?_)
    | (with_reducible refine Keeps.of1 (by assumption) ?_) | (with_reducible refine Keeps.of3 (by assumption) ?_)

theorem kp_homeRead {z : State} (i : Nat) (a : Nat) (n : Nat) (s : State) (hs : Keeps z s) :
    Keeps z (homeRead i a n s).2.2.2 := by
  change KeepsP (fun y : Nat × List Byte × List Nat × State => y.2.2.2) z _
  unfold homeRead
  repeat' first
    | (with_reducible assumption) | intro _
    | (extract_lets +onlyGivenNames lv; first | (have hx : Keeps z lv := ?_; generalize lv = w at hx ⊢; clear lv; rotate_left; subst lv) | (have hx : KeepsP (fun y : _ × State => y.2) z lv := ?_; generalize lv = w at hx ⊢; clear lv; replace hx : Keeps z w.2 := hx; rotate_left; subst lv) | (have hx : KeepsP (fun y : State × _ => y.1) z lv := ?_; generalize lv = w at hx ⊢; clear lv; replace hx : Keeps z w.1 := hx; rotate_left; subst lv) | (have hx : KeepsP (fun y : _ × _ × State => y.2.2) z lv := ?_; generalize lv = w at hx ⊢; clear lv; replace hx : Keeps z w.2.2 := hx; rotate_left; subst lv) | (have hfn0 : ∀ y, Keeps z y → Keeps z (lv y) := ?_; generalize lv = w at hfn0 ⊢; clear lv; rotate_left; subst lv) | (have hfn1 : ∀ a y, Keeps z y → Keeps z (lv a y) := ?_; generalize lv = w at hfn1 ⊢; clear lv; rotate_left; subst lv) | (have hfn2 : ∀ a b y, Keeps z y → Keeps z (lv a b y) := ?_; generalize lv = w at hfn2 ⊢; clear lv; rotate_left; subst lv) | (have hfn3 : ∀ a b c y, Keeps z y → Keeps z (lv a b c y) := ?_; generalize lv = w at hfn3 ⊢; clear lv; rotate_left; subst lv) | (have hfn4 : ∀ y a, Keeps z y → Keeps z (lv y a) := ?_; generalize lv = w at hfn4 ⊢; clear lv; rotate_left; subst lv) | (have hfn5 : ∀ a, Keeps z (lv a) := ?_; generalize lv = w at hfn5 ⊢; clear lv; rotate_left; subst lv) | (have hfn6 : ∀ a b, Keeps z (lv a b) := ?_; generalize lv = w at hfn6 ⊢; clear lv; rotate_left; subst lv) | (have hfn7 : ∀ y a b, Keeps z y → Keeps z (lv y a b) := ?_; generalize lv = w at hfn7 ⊢; clear lv; rotate_left; subst lv) | (have hfn8 : ∀ a, KeepsR z (lv a) := ?_; generalize lv = w at hfn8 ⊢; clear lv; rotate_left; subst lv) | (have hfn9 : ∀ y, Keeps z y → KeepsC z (lv y) := ?_; generalize lv = w at hfn9 ⊢; clear lv; rotate_left; subst lv) | (have hfn10 : ∀ y, Keeps z y → KeepsR z (lv y) := ?_; generalize lv = w at hfn10 ⊢; clear lv; rotate_left; subst lv) | (have hfn11 : ∀ a y, Keeps z y → KeepsR z (lv a y) := ?_; generalize lv = w at hfn11 ⊢; clear lv; rotate_left; subst lv) | (have hfn12 : ∀ y a, Keeps z y → KeepsR z (lv y a) := ?_; generalize lv = w at hfn12 ⊢; clear lv; rotate_left; subst lv) | (generalize lv = w; clear lv) | subst lv)
    | (with_reducible apply hfn0) | (with_reducible apply hfn1) | (with_reducible apply hfn2) | (with_reducible apply hfn3)
    | (with_reducible apply hfn4) | (with_reducible apply hfn5) | (with_reducible apply hfn6) | (with_reducible apply hfn7)
    | (with_reducible apply hfn8) | (with_reducible apply hfn9) | (with_reducible apply hfn10) | (with_reducible apply hfn11)
    | (with_reducible apply hfn12) | (with_reducible apply kp_inColumn) | (with_reducible apply kp_touchPage)
    | (with_reducible refine Keeps.getD ?_ ?_) | (with_reducible apply Keeps.foldl) | (with_reducible apply Keeps.foldlx)
    | (with_reducible apply Keeps.foldlv) | (with_reducible apply Keeps.foldl2) | (with_reducible apply Keeps.foldl1)
    | (with_reducible apply Keeps.foldl22) | (with_reducible apply Keeps.foldl222) | (with_reducible apply Keeps.foldl2x) | split
    | (with_reducible refine KeepsP.mk ?_; with_reducible first | assumption | apply kp_inColumn | apply Keeps.foldlx | apply Keeps.foldlv | apply Keeps.foldl2 | apply Keeps.foldl1 | apply Keeps.foldl22 | apply Keeps.foldl222 | apply Keeps.foldl2x)
    | (with_reducible refine KeepsP.p1 ?_) | (with_reducible refine KeepsP.p2 ?_) | (with_reducible refine KeepsP.p22 ?_)
    | (with_reducible refine KeepsP.p222 ?_) | (with_reducible refine Keeps.of2 (by assumption) ?_)
    | (with_reducible refine Keeps.of1 (by assumption) ?_) | (with_reducible refine Keeps.of3 (by assumption) ?_)

theorem kp_homeWriteGo {z : State} (i : Nat) (a : Nat) (bs : List Byte) (bad : List Nat) (a4 : Nat) (a5 : Nat) (a6 : State) (ha6 : Keeps z a6) :
    Keeps z (homeWriteGo i a bs bad a4 a5 a6).2 := by
  induction a4 generalizing i a bs bad a5 a6 with
  | zero => change KeepsP (fun y : Nat × State => y.2) z _; unfold homeWriteGo; repeat' first
      | (with_reducible assumption) | intro _
      | (extract_lets +onlyGivenNames lv; first | (have hx : Keeps z lv := ?_; generalize lv = w at hx ⊢; clear lv; rotate_left; subst lv) | (have hx : KeepsP (fun y : _ × State => y.2) z lv := ?_; generalize lv = w at hx ⊢; clear lv; replace hx : Keeps z w.2 := hx; rotate_left; subst lv) | (generalize lv = w; clear lv) | subst lv)
      | (with_reducible apply kp_beadWrite) | (with_reducible apply kp_touchPage) | split
      | (with_reducible refine KeepsP.mk ?_; with_reducible first | assumption | apply kp_beadWrite) | (with_reducible refine KeepsP.p1 ?_)
      | (with_reducible refine KeepsP.p2 ?_) | (with_reducible refine KeepsP.p22 ?_) | (with_reducible refine Keeps.of2 (by assumption) ?_)
      | (with_reducible refine Keeps.of1 (by assumption) ?_) | (with_reducible refine Keeps.of3 (by assumption) ?_)
  | succ w ih => change KeepsP (fun y : Nat × State => y.2) z _; unfold homeWriteGo; repeat' first
      | (with_reducible assumption) | intro _
      | (extract_lets +onlyGivenNames lv; first | (have hx : Keeps z lv := ?_; generalize lv = w at hx ⊢; clear lv; rotate_left; subst lv) | (have hx : KeepsP (fun y : _ × State => y.2) z lv := ?_; generalize lv = w at hx ⊢; clear lv; replace hx : Keeps z w.2 := hx; rotate_left; subst lv) | (generalize lv = w; clear lv) | subst lv)
      | (with_reducible apply ih) | (with_reducible apply kp_beadWrite) | (with_reducible apply kp_touchPage) | split
      | (with_reducible refine KeepsP.mk ?_; with_reducible first | assumption | apply ih | apply kp_beadWrite) | (with_reducible refine KeepsP.p1 ?_)
      | (with_reducible refine KeepsP.p2 ?_) | (with_reducible refine KeepsP.p22 ?_) | (with_reducible refine Keeps.of2 (by assumption) ?_)
      | (with_reducible refine Keeps.of1 (by assumption) ?_) | (with_reducible refine Keeps.of3 (by assumption) ?_)

theorem kp_homeWrite {z : State} (i : Nat) (a : Nat) (bs : List Byte) (bad : List Nat) (s : State) (hs : Keeps z s) :
    Keeps z (homeWrite i a bs bad s).2 := by
  change KeepsP (fun y : Nat × State => y.2) z _
  unfold homeWrite
  repeat' first
    | (with_reducible assumption)
    | (extract_lets +onlyGivenNames lv; first | (have hx : Keeps z lv := ?_; generalize lv = w at hx ⊢; clear lv; rotate_left; subst lv) | (have hx : KeepsP (fun y : _ × State => y.2) z lv := ?_; generalize lv = w at hx ⊢; clear lv; replace hx : Keeps z w.2 := hx; rotate_left; subst lv) | (generalize lv = w; clear lv) | subst lv)
    | (with_reducible apply kp_inColumn) | (with_reducible apply kp_homeWriteGo) | split
    | (with_reducible refine KeepsP.mk ?_; with_reducible first | assumption | apply kp_inColumn | apply kp_homeWriteGo)
    | (with_reducible refine KeepsP.p1 ?_) | (with_reducible refine KeepsP.p2 ?_) | (with_reducible refine KeepsP.p22 ?_)
    | (with_reducible refine Keeps.of2 (by assumption) ?_) | (with_reducible refine Keeps.of1 (by assumption) ?_)
    | (with_reducible refine Keeps.of3 (by assumption) ?_)

theorem kp_zeroStart {z : State} (i : Nat) (s : State) (hs : Keeps z s) :
    Keeps z (zeroStart i s) := by
  unfold zeroStart
  repeat' first
    | (with_reducible assumption) | intro _
    | (extract_lets +onlyGivenNames lv; first | (have hx : Keeps z lv := ?_; generalize lv = w at hx ⊢; clear lv; rotate_left; subst lv) | (generalize lv = w; clear lv) | subst lv)
    | (with_reducible apply kp_endWaits) | (with_reducible apply kp_setBead) | (with_reducible exact Keeps.mk (by assumption))

theorem kp_zeroFill {z : State} (i : Nat) (s : State) (hs : Keeps z s) :
    Keeps z (zeroFill i s) := by
  unfold zeroFill
  repeat' first
    | (with_reducible assumption) | intro _
    | (extract_lets +onlyGivenNames lv; first | (have hx : Keeps z lv := ?_; generalize lv = w at hx ⊢; clear lv; rotate_left; subst lv) | (generalize lv = w; clear lv) | subst lv)
    | (with_reducible apply kp_endWaits) | (with_reducible apply kp_setBead) | (with_reducible apply kp_zeroData) | (with_reducible apply kp_setF)
    | (with_reducible apply Keeps.foldl) | (with_reducible apply Keeps.foldlx) | (with_reducible apply Keeps.foldlv)
    | (with_reducible apply Keeps.foldl2) | (with_reducible apply Keeps.foldl1) | (with_reducible apply Keeps.foldl22)
    | (with_reducible apply Keeps.foldl222) | (with_reducible apply Keeps.foldl2x) | (with_reducible exact Keeps.mk (by assumption))

end Sys2Proof.Machine
end

