-- ==== Sys2Proof/Laws/KeepsCal.lean ====
section
/-! SUPPORT. What every operation of Machine/Cal.lean keeps. -/
set_option linter.all false

namespace Sys2Proof.Machine

theorem kp_showCal {z : State} (i : Nat) (c : Nat) (on : Bool) (s : State) (hs : Keeps z s) :
    Keeps z (showCal i c on s) := by
  unfold showCal
  repeat' first
    | (with_reducible assumption)
    | (extract_lets +onlyGivenNames lv; first | (have hx : Keeps z lv := ?_; generalize lv = w at hx ⊢; clear lv; rotate_left; subst lv) | (generalize lv = w; clear lv) | subst lv)
    | (with_reducible apply kp_setF) | dsimp only

theorem kp_showRetraining {z : State} (s : State) (hs : Keeps z s) :
    Keeps z (showRetraining s) := by
  unfold showRetraining
  repeat' first
    | (with_reducible assumption) | (with_reducible apply kp_setF) | dsimp only

theorem kp_countRetrain {z : State} (s : State) (hs : Keeps z s) :
    Keeps z (countRetrain s) := by
  unfold countRetrain
  repeat' first
    | (with_reducible assumption) | (with_reducible apply kp_showRetraining) | (with_reducible apply kp_bump) | dsimp only

theorem kp_calTry {z : State} (i : Nat) (s : State) (hs : Keeps z s) :
    Keeps z (calTry i s) := by
  unfold calTry
  repeat' first
    | (with_reducible assumption) | intro _
    | (extract_lets +onlyGivenNames lv; first | (have hx : Keeps z lv := ?_; generalize lv = w at hx ⊢; clear lv; rotate_left; subst lv) | (have hfn0 : ∀ y, Keeps z y → Keeps z (lv y) := ?_; generalize lv = w at hfn0 ⊢; clear lv; rotate_left; subst lv) | (have hfn1 : ∀ a y, Keeps z y → Keeps z (lv a y) := ?_; generalize lv = w at hfn1 ⊢; clear lv; rotate_left; subst lv) | (have hfn2 : ∀ a b y, Keeps z y → Keeps z (lv a b y) := ?_; generalize lv = w at hfn2 ⊢; clear lv; rotate_left; subst lv) | (have hfn3 : ∀ a b c y, Keeps z y → Keeps z (lv a b c y) := ?_; generalize lv = w at hfn3 ⊢; clear lv; rotate_left; subst lv) | (have hfn4 : ∀ y a, Keeps z y → Keeps z (lv y a) := ?_; generalize lv = w at hfn4 ⊢; clear lv; rotate_left; subst lv) | (have hfn5 : ∀ a, Keeps z (lv a) := ?_; generalize lv = w at hfn5 ⊢; clear lv; rotate_left; subst lv) | (have hfn6 : ∀ a b, Keeps z (lv a b) := ?_; generalize lv = w at hfn6 ⊢; clear lv; rotate_left; subst lv) | (have hfn7 : ∀ y a b, Keeps z y → Keeps z (lv y a b) := ?_; generalize lv = w at hfn7 ⊢; clear lv; rotate_left; subst lv) | (have hfn8 : ∀ a, KeepsR z (lv a) := ?_; generalize lv = w at hfn8 ⊢; clear lv; rotate_left; subst lv) | (have hfn9 : ∀ y, Keeps z y → KeepsC z (lv y) := ?_; generalize lv = w at hfn9 ⊢; clear lv; rotate_left; subst lv) | (have hfn10 : ∀ y, Keeps z y → KeepsR z (lv y) := ?_; generalize lv = w at hfn10 ⊢; clear lv; rotate_left; subst lv) | (have hfn11 : ∀ a y, Keeps z y → KeepsR z (lv a y) := ?_; generalize lv = w at hfn11 ⊢; clear lv; rotate_left; subst lv) | (have hfn12 : ∀ y a, Keeps z y → KeepsR z (lv y a) := ?_; generalize lv = w at hfn12 ⊢; clear lv; rotate_left; subst lv) | (generalize lv = w; clear lv) | subst lv)
    | (with_reducible apply hfn0) | (with_reducible apply hfn1) | (with_reducible apply hfn2) | (with_reducible apply hfn3)
    | (with_reducible apply hfn4) | (with_reducible apply hfn5) | (with_reducible apply hfn6) | (with_reducible apply hfn7)
    | (with_reducible apply hfn8) | (with_reducible apply hfn9) | (with_reducible apply hfn10) | (with_reducible apply hfn11)
    | (with_reducible apply hfn12) | (with_reducible apply kp_showCal) | (with_reducible apply kp_setCal) | split
    | (with_reducible exact Keeps.mk (by assumption))

theorem kp_calDue {z : State} (i : Nat) (c : Nat) (s : State) (hs : Keeps z s) :
    Keeps z (calDue i c s) := by
  unfold calDue
  repeat' first
    | (with_reducible assumption)
    | (extract_lets +onlyGivenNames lv; first | (have hx : Keeps z lv := ?_; generalize lv = w at hx ⊢; clear lv; rotate_left; subst lv) | (generalize lv = w; clear lv) | subst lv)
    | (with_reducible apply kp_calTry) | (with_reducible apply kp_setCal) | dsimp only | (with_reducible exact Keeps.mk (by assumption))

theorem kp_calMoved {z : State} (i : Nat) (mv : Nat) (s : State) (hs : Keeps z s) :
    Keeps z (calMoved i mv s) := by
  unfold calMoved
  repeat' first
    | (with_reducible assumption) | intro _
    | (extract_lets +onlyGivenNames lv; first | (have hx : Keeps z lv := ?_; generalize lv = w at hx ⊢; clear lv; rotate_left; subst lv) | (have hfn0 : ∀ y, Keeps z y → Keeps z (lv y) := ?_; generalize lv = w at hfn0 ⊢; clear lv; rotate_left; subst lv) | (have hfn1 : ∀ a y, Keeps z y → Keeps z (lv a y) := ?_; generalize lv = w at hfn1 ⊢; clear lv; rotate_left; subst lv) | (have hfn2 : ∀ a b y, Keeps z y → Keeps z (lv a b y) := ?_; generalize lv = w at hfn2 ⊢; clear lv; rotate_left; subst lv) | (have hfn3 : ∀ a b c y, Keeps z y → Keeps z (lv a b c y) := ?_; generalize lv = w at hfn3 ⊢; clear lv; rotate_left; subst lv) | (have hfn4 : ∀ y a, Keeps z y → Keeps z (lv y a) := ?_; generalize lv = w at hfn4 ⊢; clear lv; rotate_left; subst lv) | (have hfn5 : ∀ a, Keeps z (lv a) := ?_; generalize lv = w at hfn5 ⊢; clear lv; rotate_left; subst lv) | (have hfn6 : ∀ a b, Keeps z (lv a b) := ?_; generalize lv = w at hfn6 ⊢; clear lv; rotate_left; subst lv) | (have hfn7 : ∀ y a b, Keeps z y → Keeps z (lv y a b) := ?_; generalize lv = w at hfn7 ⊢; clear lv; rotate_left; subst lv) | (have hfn8 : ∀ a, KeepsR z (lv a) := ?_; generalize lv = w at hfn8 ⊢; clear lv; rotate_left; subst lv) | (have hfn9 : ∀ y, Keeps z y → KeepsC z (lv y) := ?_; generalize lv = w at hfn9 ⊢; clear lv; rotate_left; subst lv) | (have hfn10 : ∀ y, Keeps z y → KeepsR z (lv y) := ?_; generalize lv = w at hfn10 ⊢; clear lv; rotate_left; subst lv) | (have hfn11 : ∀ a y, Keeps z y → KeepsR z (lv a y) := ?_; generalize lv = w at hfn11 ⊢; clear lv; rotate_left; subst lv) | (have hfn12 : ∀ y a, Keeps z y → KeepsR z (lv y a) := ?_; generalize lv = w at hfn12 ⊢; clear lv; rotate_left; subst lv) | (generalize lv = w; clear lv) | subst lv)
    | (with_reducible apply hfn0) | (with_reducible apply hfn1) | (with_reducible apply hfn2) | (with_reducible apply hfn3)
    | (with_reducible apply hfn4) | (with_reducible apply hfn5) | (with_reducible apply hfn6) | (with_reducible apply hfn7)
    | (with_reducible apply hfn8) | (with_reducible apply hfn9) | (with_reducible apply hfn10) | (with_reducible apply hfn11)
    | (with_reducible apply hfn12) | (with_reducible apply kp_setCal) | (with_reducible apply kp_calTry) | split | dsimp only
    | (with_reducible exact Keeps.mk (by assumption))

theorem kp_calRecord {z : State} (i : Nat) (c : Nat) (hold : Nat) (s : State) (hs : Keeps z s) :
    Keeps z (calRecord i c hold s) := by
  unfold calRecord
  repeat' first
    | (with_reducible assumption) | (with_reducible apply kp_bump) | (with_reducible apply kp_setF) | (with_reducible apply kp_setCal)
    | (with_reducible exact Keeps.mk (by assumption))

theorem kp_setFails {z : State} (i : Nat) (c : Nat) (n : Nat) (s : State) (hs : Keeps z s) :
    Keeps z (setFails i c n s) := by
  unfold setFails
  repeat' first
    | (with_reducible assumption)
    | (extract_lets +onlyGivenNames lv; first | (have hx : Keeps z lv := ?_; generalize lv = w at hx ⊢; clear lv; rotate_left; subst lv) | (generalize lv = w; clear lv) | subst lv)
    | (with_reducible apply kp_setBead) | dsimp only | (with_reducible exact Keeps.mk (by assumption))

theorem kp_calFailed {z : State} (i : Nat) (c : Nat) (s : State) (hs : Keeps z s) :
    Keeps z (calFailed i c s) := by
  unfold calFailed
  repeat' first
    | (with_reducible assumption)
    | (extract_lets +onlyGivenNames lv; first | (have hx : Keeps z lv := ?_; generalize lv = w at hx ⊢; clear lv; rotate_left; subst lv) | (generalize lv = w; clear lv) | subst lv)
    | (with_reducible apply kp_recordCE) | (with_reducible apply kp_showCal) | (with_reducible apply kp_setCal)
    | (with_reducible apply kp_countRetrain) | (with_reducible apply kp_setFails) | (with_reducible apply kp_calTry) | split
    | (with_reducible exact Keeps.mk (by assumption))

theorem kp_chanDown {z : State} (i : Nat) (c : Nat) (s : State) (hs : Keeps z s) :
    Keeps z (chanDown i c s) := by
  unfold chanDown
  repeat' first
    | (with_reducible assumption) | intro _
    | (extract_lets +onlyGivenNames lv; first | (have hx : Keeps z lv := ?_; generalize lv = w at hx ⊢; clear lv; rotate_left; subst lv) | (generalize lv = w; clear lv) | subst lv)
    | (with_reducible apply kp_setBead) | (with_reducible apply kp_recordErr) | (with_reducible apply kp_raise) | (with_reducible apply kp_endWaits)
    | (with_reducible exact Keeps.mk (by assumption))

end Sys2Proof.Machine
end

