-- ==== Sys2Proof/Laws/KeepsRlCore.lean ====
section
/-! SUPPORT. What every operation of Machine/RlCore.lean keeps. -/
set_option linter.all false

namespace Sys2Proof.Machine

theorem kp_setPort {z : State} (p : Nat) (l : LinkDir) (s : State) (hs : Keeps z s) :
    Keeps z (setPort p l s) := by
  unfold setPort
  repeat' first
    | (with_reducible assumption) | (with_reducible exact Keeps.mk (by assumption))

theorem kp_setRlpX {z : State} (p : Nat) (x : RlpX) (s : State) (hs : Keeps z s) :
    Keeps z (setRlpX p x s) := by
  unfold setRlpX
  repeat' first
    | (with_reducible assumption) | (with_reducible exact Keeps.mk (by assumption))

theorem kp_rlStream {z : State} (p : Nat) (flit : List Byte) (s : State) (hs : Keeps z s) :
    Keeps z (rlStream p flit s) := by
  unfold rlStream
  repeat' first
    | (with_reducible assumption)
    | (extract_lets +onlyGivenNames lv; first | (have hx : Keeps z lv := ?_; generalize lv = w at hx ⊢; clear lv; rotate_left; subst lv) | (generalize lv = w; clear lv) | subst lv)
    | (with_reducible apply kp_setRlpX) | (with_reducible apply kp_emit) | (with_reducible refine Keeps.getD ?_ ?_) | split
    | (with_reducible exact Keeps.mk (by assumption))

theorem kp_rlOutFlit {z : State} (p : Nat) (ctrl : Bool) (vc : Nat) (seq : Nat) (head : Bool) (pay : List Byte) (s : State) (hs : Keeps z s) :
    Keeps z (rlOutFlit p ctrl vc seq head pay s) := by
  unfold rlOutFlit
  repeat' first
    | (with_reducible assumption) | intro _
    | (extract_lets +onlyGivenNames lv; first | (have hx : Keeps z lv := ?_; generalize lv = w at hx ⊢; clear lv; rotate_left; subst lv) | (generalize lv = w; clear lv) | subst lv)
    | (with_reducible apply kp_setPort) | (with_reducible apply kp_rlStream) | (with_reducible apply kp_emit) | split
    | (with_reducible exact Keeps.mk (by assumption))

theorem kp_emitRl {z : State} (p : Nat) (l : List Unacked) (s : State) (hs : Keeps z s) :
    Keeps z (emitRl p l s) := by
  unfold emitRl
  repeat' first
    | (with_reducible assumption) | intro _ | (with_reducible apply kp_rlOutFlit) | (with_reducible apply Keeps.foldl)
    | (with_reducible apply Keeps.foldlx) | (with_reducible apply Keeps.foldlv) | (with_reducible apply Keeps.foldl2)
    | (with_reducible apply Keeps.foldl1) | (with_reducible apply Keeps.foldl22) | (with_reducible apply Keeps.foldl222)
    | (with_reducible apply Keeps.foldl2x) | split

theorem kp_rlTell {z : State} (p : Nat) (f : List Nat) (s : State) (hs : Keeps z s) :
    Keeps z (rlTell p f s) := by
  unfold rlTell
  repeat' first
    | (with_reducible assumption) | (with_reducible apply kp_rlOutFlit)

theorem kp_sendPort {z : State} (p : Nat) (k : Pkt) (s : State) (hs : Keeps z s) :
    Keeps z (sendPort p k s) := by
  unfold sendPort
  repeat' first
    | (with_reducible assumption)
    | (extract_lets +onlyGivenNames lv; first | (have hx : Keeps z lv := ?_; generalize lv = w at hx ⊢; clear lv; rotate_left; subst lv) | (generalize lv = w; clear lv) | subst lv)
    | (with_reducible apply kp_setPort) | (with_reducible apply kp_bump64) | (with_reducible apply kp_emitRl) | split

theorem kp_rlDiscard {z : State} (s : State) (hs : Keeps z s) :
    Keeps z (rlDiscard s) := by
  unfold rlDiscard
  repeat' first
    | (with_reducible assumption) | (with_reducible apply kp_recordCE) | (with_reducible apply kp_bump)

theorem kp_sendVia {z : State} (p : Nat) (k : Pkt) (t0 : Nat) (s : State) (hs : Keeps z s) :
    Keeps z (sendVia p k t0 s) := by
  unfold sendVia
  repeat' first
    | (with_reducible assumption) | intro _
    | (extract_lets +onlyGivenNames lv; first | (have hx : Keeps z lv := ?_; generalize lv = w at hx ⊢; clear lv; rotate_left; subst lv) | (generalize lv = w; clear lv) | subst lv)
    | (with_reducible apply kp_rlDiscard) | (with_reducible apply kp_sendPort) | split | (with_reducible exact Keeps.mk (by assumption))

theorem kp_takePkt {z : State} (k : Pkt) (s : State) (hs : Keeps z s) :
    Keeps z (takePkt k s) := by
  unfold takePkt
  repeat' first
    | (with_reducible assumption)
    | (extract_lets +onlyGivenNames lv; first | (have hx : Keeps z lv := ?_; generalize lv = w at hx ⊢; clear lv; rotate_left; subst lv) | (generalize lv = w; clear lv) | subst lv)
    | split | dsimp only | (with_reducible exact Keeps.mk (by assumption))

theorem kp_holdPkt {z : State} (k : Pkt) (t0 : Nat) (s : State) (hs : Keeps z s) :
    Keeps z (holdPkt k t0 s) := by
  unfold holdPkt
  repeat' first
    | (with_reducible assumption) | (with_reducible exact Keeps.mk (by assumption))

theorem kp_noRoute {z : State} (s : State) (hs : Keeps z s) :
    Keeps z (noRoute s) := by
  unfold noRoute
  repeat' first
    | (with_reducible assumption) | (with_reducible apply kp_recordCE) | (with_reducible apply kp_raise) | (with_reducible apply kp_bump) | dsimp only

theorem kp_routePkt {z : State} (a0 : Nat) (a1 : Pkt) (a2 : Nat) (a3 : State) (ha3 : Keeps z a3) :
    Keeps z (routePkt a0 a1 a2 a3) := by
  induction a0 generalizing a1 a2 a3 with
  | zero => unfold routePkt; repeat' first
      | (with_reducible assumption)
      | (extract_lets +onlyGivenNames lv; first | (have hx : Keeps z lv := ?_; generalize lv = w at hx ⊢; clear lv; rotate_left; subst lv) | (generalize lv = w; clear lv) | subst lv)
      | (with_reducible apply kp_noRoute) | (with_reducible apply kp_rlDiscard) | (with_reducible apply kp_sendPort)
      | (with_reducible apply kp_holdPkt) | split
  | succ w ih => unfold routePkt; repeat' first
      | (with_reducible assumption)
      | (extract_lets +onlyGivenNames lv; first | (have hx : Keeps z lv := ?_; generalize lv = w at hx ⊢; clear lv; rotate_left; subst lv) | (generalize lv = w; clear lv) | subst lv)
      | (with_reducible apply ih) | (with_reducible apply kp_noRoute) | (with_reducible apply kp_rlDiscard) | (with_reducible apply kp_sendPort)
      | (with_reducible apply kp_holdPkt) | split

theorem kp_sendPkt {z : State} (k : Pkt) (s : State) (hs : Keeps z s) :
    Keeps z (sendPkt k s) := by
  unfold sendPkt
  repeat' first
    | (with_reducible assumption) | (with_reducible apply kp_takePkt) | (with_reducible apply kp_routePkt) | split

end Sys2Proof.Machine
end

