-- ==== Sys2Proof/Laws/KeepsE2ECore.lean ====
section
/-! SUPPORT. What every operation of Machine/E2ECore.lean keeps. -/
set_option linter.all false

namespace Sys2Proof.Machine

theorem kp_showOut {z : State} (s : State) (hs : Keeps z s) :
    Keeps z (showOut s) := by
  unfold showOut
  repeat' first
    | (with_reducible assumption) | (with_reducible apply kp_setF) | dsimp only

theorem kp_sendAttempt {z : State} (t : Txn) (s : State) (hs : Keeps z s) :
    Keeps z (sendAttempt t s) := by
  unfold sendAttempt
  repeat' first
    | (with_reducible assumption) | (with_reducible apply kp_sendPkt) | dsimp only

theorem kp_tryStart {z : State} (s : State) (t : Txn) (hs : Keeps z s) :
    Keeps z (tryStart s t) := by
  unfold tryStart
  repeat' first
    | (with_reducible assumption)
    | (extract_lets +onlyGivenNames lv; first | (have hx : Keeps z lv := ?_; generalize lv = w at hx ⊢; clear lv; rotate_left; subst lv) | (generalize lv = w; clear lv) | subst lv)
    | (with_reducible apply kp_setF) | (with_reducible apply kp_sendAttempt) | split | dsimp only | (with_reducible exact Keeps.mk (by assumption))

theorem kp_e2ePump {z : State} (s : State) (hs : Keeps z s) :
    Keeps z (e2ePump s) := by
  unfold e2ePump
  repeat' first
    | (with_reducible assumption) | intro _
    | (extract_lets +onlyGivenNames lv; first | (have hx : Keeps z lv := ?_; generalize lv = w at hx ⊢; clear lv; rotate_left; subst lv) | (have hx : KeepsP (fun y : _ × State => y.2) z lv := ?_; generalize lv = w at hx ⊢; clear lv; replace hx : Keeps z w.2 := hx; rotate_left; subst lv) | (have hx : KeepsP (fun y : State × _ => y.1) z lv := ?_; generalize lv = w at hx ⊢; clear lv; replace hx : Keeps z w.1 := hx; rotate_left; subst lv) | (have hx : KeepsP (fun y : _ × _ × State => y.2.2) z lv := ?_; generalize lv = w at hx ⊢; clear lv; replace hx : Keeps z w.2.2 := hx; rotate_left; subst lv) | (generalize lv = w; clear lv) | subst lv)
    | (with_reducible apply kp_showOut) | (with_reducible apply kp_tryStart) | (with_reducible apply Keeps.foldl)
    | (with_reducible apply Keeps.foldlx) | (with_reducible apply Keeps.foldlv) | (with_reducible apply Keeps.foldl2)
    | (with_reducible apply Keeps.foldl1) | (with_reducible apply Keeps.foldl22) | (with_reducible apply Keeps.foldl222)
    | (with_reducible apply Keeps.foldl2x)
    | (with_reducible refine KeepsP.mk ?_; with_reducible first | assumption | apply Keeps.foldlx | apply Keeps.foldlv | apply Keeps.foldl2 | apply Keeps.foldl1 | apply Keeps.foldl22 | apply Keeps.foldl222 | apply Keeps.foldl2x)
    | (with_reducible refine KeepsP.p1 ?_) | (with_reducible refine KeepsP.p2 ?_) | (with_reducible refine KeepsP.p22 ?_)
    | (with_reducible refine Keeps.of2 (by assumption) ?_) | (with_reducible refine Keeps.of1 (by assumption) ?_)
    | (with_reducible refine Keeps.of3 (by assumption) ?_) | dsimp only | (with_reducible exact Keeps.mk (by assumption))

theorem kp_e2eSubmit {z : State} (op : Nat) (cls : Nat) (node : Nat) (addr : Nat) (rlen : Nat) (aop : Nat) (data : List Byte) (bad : List Nat) (who : Issuer) (s : State) (hs : Keeps z s) :
    Keeps z (e2eSubmit op cls node addr rlen aop data bad who s) := by
  unfold e2eSubmit
  repeat' first
    | (with_reducible assumption)
    | (extract_lets +onlyGivenNames lv; first | (have hx : Keeps z lv := ?_; generalize lv = w at hx ⊢; clear lv; rotate_left; subst lv) | (generalize lv = w; clear lv) | subst lv)
    | (with_reducible apply kp_e2ePump) | dsimp only | (with_reducible exact Keeps.mk (by assumption))

theorem kp_e2eRetire {z : State} (t : Txn) (s : State) (hs : Keeps z s) :
    Keeps z (e2eRetire t s) := by
  unfold e2eRetire
  repeat' first
    | (with_reducible assumption)
    | (extract_lets +onlyGivenNames lv; first | (have hx : Keeps z lv := ?_; generalize lv = w at hx ⊢; clear lv; rotate_left; subst lv) | (generalize lv = w; clear lv) | subst lv)
    | (with_reducible apply kp_showOut) | (with_reducible apply kp_setF) | dsimp only | (with_reducible exact Keeps.mk (by assumption))

end Sys2Proof.Machine
end

