-- ==== Sys2Proof/Laws/KeepsSeqCore.lean ====
section
/-! SUPPORT. What every operation of Machine/SeqCore.lean keeps. -/
set_option linter.all false

namespace Sys2Proof.Machine

theorem kp_addStarted {z : State} (i : Nat) (c : Started) (s : State) (hs : Keeps z s) :
    Keeps z (addStarted i c s) := by
  unfold addStarted
  repeat' first
    | (with_reducible assumption)
    | (extract_lets +onlyGivenNames lv; first | (have hx : Keeps z lv := ?_; generalize lv = w at hx ⊢; clear lv; rotate_left; subst lv) | (generalize lv = w; clear lv) | subst lv)
    | (with_reducible apply kp_setSeq) | dsimp only | (with_reducible exact Keeps.mk (by assumption))

theorem kp_completeNum {z : State} (i : Nat) (num : Nat) (s : State) (hs : Keeps z s) :
    Keeps z (completeNum i num s) := by
  unfold completeNum
  repeat' first
    | (with_reducible assumption)
    | (extract_lets +onlyGivenNames lv; first | (have hx : Keeps z lv := ?_; generalize lv = w at hx ⊢; clear lv; rotate_left; subst lv) | (generalize lv = w; clear lv) | subst lv)
    | (with_reducible apply kp_finish) | (with_reducible apply kp_unitHook) | (with_reducible apply kp_setSeq) | split | dsimp only
    | (with_reducible exact Keeps.mk (by assumption))

theorem kp_advancePc {z : State} (i : Nat) (u : Nat) (s : State) (hs : Keeps z s) :
    Keeps z (advancePc i u s) := by
  unfold advancePc
  repeat' first
    | (with_reducible assumption)
    | (extract_lets +onlyGivenNames lv; first | (have hx : Keeps z lv := ?_; generalize lv = w at hx ⊢; clear lv; rotate_left; subst lv) | (generalize lv = w; clear lv) | subst lv)
    | (with_reducible apply kp_programFault) | (with_reducible apply kp_setF) | split

theorem kp_markStall {z : State} (i : Nat) (w : CmdWord) (s : State) (hs : Keeps z s) :
    Keeps z (markStall i w s) := by
  unfold markStall
  repeat' first
    | (with_reducible assumption)
    | (extract_lets +onlyGivenNames lv; first | (have hx : Keeps z lv := ?_; generalize lv = w at hx ⊢; clear lv; rotate_left; subst lv) | (generalize lv = w; clear lv) | subst lv)
    | (with_reducible apply kp_setF) | (with_reducible apply kp_setSeq) | split | (with_reducible exact Keeps.mk (by assumption))

theorem kp_faultAt {z : State} (i : Nat) (w : CmdWord) (s : State) (hs : Keeps z s) :
    KeepsO z (faultAt i w s) := by
  unfold faultAt
  repeat' first
    | (with_reducible assumption)
    | (extract_lets +onlyGivenNames lv; first | (have hx : Keeps z lv := ?_; generalize lv = w at hx ⊢; clear lv; rotate_left; subst lv) | (generalize lv = w; clear lv) | subst lv)
    | (with_reducible refine KeepsO.some ?_) | (with_reducible exact KeepsO.none) | (with_reducible apply kp_recordErr)
    | (with_reducible apply kp_programFault) | (with_reducible apply kp_spadSeen) | split

theorem kp_come {z : State} (i : Nat) (w : CmdWord) (s : State) (hs : Keeps z s) :
    KeepsC z (come i w s) := by
  unfold come
  repeat' first
    | (with_reducible assumption) | intro _
    | (extract_lets +onlyGivenNames lv; first | (have hx : Keeps z lv := ?_; generalize lv = w at hx ⊢; clear lv; rotate_left; subst lv) | (have hx : KeepsC z lv := ?_; generalize lv = w at hx ⊢; clear lv; rotate_left; subst lv) | (have hx : KeepsO z lv := ?_; generalize lv = w at hx ⊢; clear lv; rotate_left; subst lv) | (have hx : KeepsR z lv := ?_; generalize lv = w at hx ⊢; clear lv; rotate_left; subst lv) | (have hfn0 : ∀ y, Keeps z y → Keeps z (lv y) := ?_; generalize lv = w at hfn0 ⊢; clear lv; rotate_left; subst lv) | (have hfn1 : ∀ a y, Keeps z y → Keeps z (lv a y) := ?_; generalize lv = w at hfn1 ⊢; clear lv; rotate_left; subst lv) | (have hfn2 : ∀ a b y, Keeps z y → Keeps z (lv a b y) := ?_; generalize lv = w at hfn2 ⊢; clear lv; rotate_left; subst lv) | (have hfn3 : ∀ a b c y, Keeps z y → Keeps z (lv a b c y) := ?_; generalize lv = w at hfn3 ⊢; clear lv; rotate_left; subst lv) | (have hfn4 : ∀ y a, Keeps z y → Keeps z (lv y a) := ?_; generalize lv = w at hfn4 ⊢; clear lv; rotate_left; subst lv) | (have hfn5 : ∀ a, Keeps z (lv a) := ?_; generalize lv = w at hfn5 ⊢; clear lv; rotate_left; subst lv) | (have hfn6 : ∀ a b, Keeps z (lv a b) := ?_; generalize lv = w at hfn6 ⊢; clear lv; rotate_left; subst lv) | (have hfn7 : ∀ y a b, Keeps z y → Keeps z (lv y a b) := ?_; generalize lv = w at hfn7 ⊢; clear lv; rotate_left; subst lv) | (have hfn8 : ∀ a, KeepsR z (lv a) := ?_; generalize lv = w at hfn8 ⊢; clear lv; rotate_left; subst lv) | (have hfn9 : ∀ y, Keeps z y → KeepsC z (lv y) := ?_; generalize lv = w at hfn9 ⊢; clear lv; rotate_left; subst lv) | (have hfn10 : ∀ y, Keeps z y → KeepsR z (lv y) := ?_; generalize lv = w at hfn10 ⊢; clear lv; rotate_left; subst lv) | (have hfn11 : ∀ a y, Keeps z y → KeepsR z (lv a y) := ?_; generalize lv = w at hfn11 ⊢; clear lv; rotate_left; subst lv) | (have hfn12 : ∀ y a, Keeps z y → KeepsR z (lv y a) := ?_; generalize lv = w at hfn12 ⊢; clear lv; rotate_left; subst lv) | (generalize lv = w; clear lv) | subst lv)
    | (with_reducible apply hfn0) | (with_reducible apply hfn1) | (with_reducible apply hfn2) | (with_reducible apply hfn3)
    | (with_reducible apply hfn4) | (with_reducible apply hfn5) | (with_reducible apply hfn6) | (with_reducible apply hfn7)
    | (with_reducible apply hfn8) | (with_reducible apply hfn9) | (with_reducible apply hfn10) | (with_reducible apply hfn11)
    | (with_reducible apply hfn12) | (with_reducible refine KeepsC.stays ?_) | (with_reducible exact KeepsC.goes) | (with_reducible apply kp_raise)
    | (with_reducible apply kp_setPstate) | (with_reducible apply kp_setSeq) | (with_reducible apply kp_faultAt)
    | (with_reducible apply kp_markStall) | split | (with_reducible refine Keeps.ofC (by assumption) ?_)
    | (with_reducible refine Keeps.ofO (by assumption) ?_) | (with_reducible refine Keeps.ofR (by assumption) ?_) | dsimp only
    | (with_reducible exact Keeps.mk (by assumption))

theorem kp_countIssue {z : State} (i : Nat) (s : State) (hs : Keeps z s) :
    Keeps z (countIssue i s) := by
  unfold countIssue
  repeat' first
    | (with_reducible assumption)
    | (extract_lets +onlyGivenNames lv; first | (have hx : Keeps z lv := ?_; generalize lv = w at hx ⊢; clear lv; rotate_left; subst lv) | (generalize lv = w; clear lv) | subst lv)
    | (with_reducible apply kp_bump64) | (with_reducible apply kp_setF) | (with_reducible apply kp_setSeq)
    | (with_reducible exact Keeps.mk (by assumption))

theorem kp_issueCtl {z : State} (i : Nat) (w : CmdWord) (act : SeqSt → State → State × Option Nat) (s : State) (hact : ∀ b0 y0, Keeps z y0 → Keeps z (act b0 y0).1) (hs : Keeps z s) :
    Keeps z (issueCtl i w act s) := by
  unfold issueCtl
  repeat' first
    | (with_reducible assumption) | intro _
    | (extract_lets +onlyGivenNames lv; first | (have hx : Keeps z lv := ?_; generalize lv = w at hx ⊢; clear lv; rotate_left; subst lv) | (have hx : KeepsP (fun y : _ × State => y.2) z lv := ?_; generalize lv = w at hx ⊢; clear lv; replace hx : Keeps z w.2 := hx; rotate_left; subst lv) | (have hx : KeepsP (fun y : State × _ => y.1) z lv := ?_; generalize lv = w at hx ⊢; clear lv; replace hx : Keeps z w.1 := hx; rotate_left; subst lv) | (have hx : KeepsP (fun y : _ × _ × State => y.2.2) z lv := ?_; generalize lv = w at hx ⊢; clear lv; replace hx : Keeps z w.2.2 := hx; rotate_left; subst lv) | (have hx : KeepsC z lv := ?_; generalize lv = w at hx ⊢; clear lv; rotate_left; subst lv) | (have hx : KeepsO z lv := ?_; generalize lv = w at hx ⊢; clear lv; rotate_left; subst lv) | (have hx : KeepsR z lv := ?_; generalize lv = w at hx ⊢; clear lv; rotate_left; subst lv) | (generalize lv = w; clear lv) | subst lv)
    | (with_reducible apply hact) | (with_reducible refine KeepsP.mk ?_; with_reducible apply hact) | (with_reducible apply kp_come)
    | (with_reducible apply kp_countIssue) | (with_reducible apply kp_setSeq) | (with_reducible apply kp_signalTok) | (with_reducible apply kp_setF)
    | (with_reducible apply kp_advancePc) | split | (with_reducible refine KeepsP.mk ?_; with_reducible first | assumption)
    | (with_reducible refine KeepsP.p1 ?_) | (with_reducible refine KeepsP.p2 ?_) | (with_reducible refine KeepsP.p22 ?_)
    | (with_reducible refine KeepsP.p222 ?_) | (with_reducible refine Keeps.of2 (by assumption) ?_)
    | (with_reducible refine Keeps.of1 (by assumption) ?_) | (with_reducible refine Keeps.of3 (by assumption) ?_)
    | (with_reducible refine Keeps.of4 (by assumption) ?_) | (with_reducible refine Keeps.ofC (by assumption) ?_)
    | (with_reducible refine Keeps.ofO (by assumption) ?_) | (with_reducible refine Keeps.ofR (by assumption) ?_) | dsimp only
    | (with_reducible exact Keeps.mk (by assumption))

theorem kp_issueUnit {z : State} (i : Nat) (w : CmdWord) (s : State) (hs : Keeps z s) :
    Keeps z (issueUnit i w s) := by
  unfold issueUnit
  repeat' first
    | (with_reducible assumption)
    | (extract_lets +onlyGivenNames lv; first | (have hx : Keeps z lv := ?_; generalize lv = w at hx ⊢; clear lv; rotate_left; subst lv) | (have hx : KeepsC z lv := ?_; generalize lv = w at hx ⊢; clear lv; rotate_left; subst lv) | (have hx : KeepsO z lv := ?_; generalize lv = w at hx ⊢; clear lv; rotate_left; subst lv) | (have hx : KeepsR z lv := ?_; generalize lv = w at hx ⊢; clear lv; rotate_left; subst lv) | (generalize lv = w; clear lv) | subst lv)
    | (with_reducible apply kp_come) | (with_reducible apply kp_advancePc) | (with_reducible apply kp_countIssue) | (with_reducible apply kp_putSeq)
    | split | (with_reducible refine Keeps.ofC (by assumption) ?_) | (with_reducible refine Keeps.ofO (by assumption) ?_)
    | (with_reducible refine Keeps.ofR (by assumption) ?_) | dsimp only | (with_reducible exact Keeps.mk (by assumption))

theorem kp_startHead {z : State} (i : Nat) (u : Nat) (free : QCmd → State → Bool) (run : QCmd → State → State) (s : State) (hrun : ∀ y0 y1, Keeps z y1 → Keeps z (run y0 y1)) (hs : Keeps z s) :
    Keeps z (startHead i u free run s) := by
  unfold startHead
  repeat' first
    | (with_reducible assumption)
    | (extract_lets +onlyGivenNames lv; first | (have hx : Keeps z lv := ?_; generalize lv = w at hx ⊢; clear lv; rotate_left; subst lv) | (generalize lv = w; clear lv) | subst lv)
    | (with_reducible apply hrun) | (with_reducible apply kp_setF) | (with_reducible apply kp_putSeq) | (with_reducible apply kp_finish) | split
    | dsimp only | (with_reducible exact Keeps.mk (by assumption))

theorem kp_startDone {z : State} (i : Nat) (c : QCmd) (status : Nat) (res : SReg) (s : State) (hs : Keeps z s) :
    Keeps z (startDone i c status res s) := by
  unfold startDone
  repeat' first
    | (with_reducible assumption) | (with_reducible apply kp_addStarted) | dsimp only | (with_reducible exact Keeps.mk (by assumption))

theorem kp_blockNow {z : State} (i : Nat) (num : Nat) (s : State) (hs : Keeps z s) :
    Keeps z (blockNow i num s) := by
  unfold blockNow
  repeat' first
    | (with_reducible assumption) | intro _
    | (extract_lets +onlyGivenNames lv; first | (have hx : Keeps z lv := ?_; generalize lv = w at hx ⊢; clear lv; rotate_left; subst lv) | (generalize lv = w; clear lv) | subst lv)
    | (with_reducible apply kp_setSeq) | (with_reducible apply kp_updStarted) | (with_reducible exact Keeps.mk (by assumption))

end Sys2Proof.Machine
end

