-- ==== Sys2Proof/Laws/KeepsControl.lean ====
section
/-! SUPPORT. What every operation of Machine/Control.lean keeps. -/
set_option linter.all false

namespace Sys2Proof.Machine

theorem kp_execCtlNop {z : State} (i : Nat) (w : CmdWord) (s : State) (hs : Keeps z s) :
    KeepsR z (execCtlNop i w s) := by
  unfold execCtlNop
  repeat' first
    | (with_reducible assumption) | intro _ | (with_reducible apply kp_issueCtl) | (with_reducible refine KeepsR.next ?_) | dsimp only

theorem kp_execHalt {z : State} (i : Nat) (w : CmdWord) (s : State) (hs : Keeps z s) :
    KeepsR z (execHalt i w s) := by
  unfold execHalt
  repeat' first
    | (with_reducible assumption) | intro _ | (with_reducible apply kp_issueCtl) | (with_reducible apply kp_setPstate)
    | (with_reducible refine KeepsR.next ?_) | dsimp only

theorem kp_execBr {z : State} (i : Nat) (w : CmdWord) (s : State) (hs : Keeps z s) :
    KeepsR z (execBr i w s) := by
  unfold execBr
  repeat' first
    | (with_reducible assumption) | intro _ | (with_reducible apply kp_issueCtl) | (with_reducible refine KeepsR.next ?_) | dsimp only

theorem kp_execJr {z : State} (i : Nat) (w : CmdWord) (s : State) (hs : Keeps z s) :
    KeepsR z (execJr i w s) := by
  unfold execJr
  repeat' first
    | (with_reducible assumption) | intro _ | (with_reducible apply kp_issueCtl) | (with_reducible refine KeepsR.next ?_) | dsimp only

theorem kp_execCall {z : State} (i : Nat) (w : CmdWord) (s : State) (hs : Keeps z s) :
    KeepsR z (execCall i w s) := by
  unfold execCall
  repeat' first
    | (with_reducible assumption) | intro _ | (with_reducible apply kp_issueCtl) | (with_reducible apply kp_setSeq)
    | (with_reducible refine KeepsR.next ?_) | dsimp only

theorem kp_execIsync {z : State} (i : Nat) (w : CmdWord) (s : State) (hs : Keeps z s) :
    KeepsR z (execIsync i w s) := by
  unfold execIsync
  repeat' first
    | (with_reducible assumption) | intro _ | (with_reducible apply kp_issueCtl) | (with_reducible refine KeepsR.next ?_) | dsimp only

theorem kp_execEvt {z : State} (i : Nat) (w : CmdWord) (s : State) (hs : Keeps z s) :
    KeepsR z (execEvt i w s) := by
  unfold execEvt
  repeat' first
    | (with_reducible assumption) | intro _ | (with_reducible apply kp_issueCtl) | (with_reducible apply kp_raise) | (with_reducible apply kp_bump)
    | (with_reducible apply kp_setF) | (with_reducible refine KeepsR.next ?_) | dsimp only

theorem kp_execLset {z : State} (i : Nat) (w : CmdWord) (s : State) (hs : Keeps z s) :
    KeepsR z (execLset i w s) := by
  unfold execLset
  repeat' first
    | (with_reducible assumption) | intro _ | (with_reducible apply kp_issueCtl) | (with_reducible apply kp_setSeq) | split
    | (with_reducible refine KeepsR.next ?_) | dsimp only

theorem kp_execLbr {z : State} (i : Nat) (w : CmdWord) (s : State) (hs : Keeps z s) :
    KeepsR z (execLbr i w s) := by
  unfold execLbr
  repeat' first
    | (with_reducible assumption) | intro _
    | (extract_lets +onlyGivenNames lv; first | (have hx : Keeps z lv := ?_; generalize lv = w at hx ⊢; clear lv; rotate_left; subst lv) | (generalize lv = w; clear lv) | subst lv)
    | (with_reducible apply kp_issueCtl) | (with_reducible apply kp_setSeq) | split | (with_reducible refine KeepsR.next ?_) | dsimp only

theorem kp_execLget {z : State} (i : Nat) (w : CmdWord) (s : State) (hs : Keeps z s) :
    KeepsR z (execLget i w s) := by
  unfold execLget
  repeat' first
    | (with_reducible assumption) | intro _ | (with_reducible apply kp_issueCtl) | (with_reducible apply kp_setSeq)
    | (with_reducible refine KeepsR.next ?_) | dsimp only

theorem kp_scalarAct {z : State} (i : Nat) (w : CmdWord) (op : Nat) (q : SeqSt) (t : State) (ht : Keeps z t) :
    Keeps z (scalarAct i w op q t).1 := by
  change KeepsP (fun y : State × Option Nat => y.1) z _
  unfold scalarAct
  repeat' first
    | (with_reducible assumption)
    | (extract_lets +onlyGivenNames lv; first | (have hx : Keeps z lv := ?_; generalize lv = w at hx ⊢; clear lv; rotate_left; subst lv) | (have hx : KeepsP (fun y : State × _ => y.1) z lv := ?_; generalize lv = w at hx ⊢; clear lv; replace hx : Keeps z w.1 := hx; rotate_left; subst lv) | (generalize lv = w; clear lv) | subst lv)
    | (with_reducible apply kp_setSeq) | split | (with_reducible refine KeepsP.mk ?_; with_reducible assumption)
    | (with_reducible refine KeepsP.p1 ?_) | (with_reducible refine Keeps.of1 (by assumption) ?_) | dsimp only

theorem kp_execMov {z : State} (i : Nat) (w : CmdWord) (s : State) (hs : Keeps z s) :
    KeepsR z (execMov i w s) := by
  unfold execMov
  repeat' first
    | (with_reducible assumption) | intro _ | (with_reducible apply kp_issueCtl) | (with_reducible apply kp_scalarAct)
    | (with_reducible refine KeepsR.next ?_) | (with_reducible refine Keeps.of1 (by assumption) ?_) | dsimp only

theorem kp_execAdd {z : State} (i : Nat) (w : CmdWord) (s : State) (hs : Keeps z s) :
    KeepsR z (execAdd i w s) := by
  unfold execAdd
  repeat' first
    | (with_reducible assumption) | intro _ | (with_reducible apply kp_issueCtl) | (with_reducible apply kp_scalarAct)
    | (with_reducible refine KeepsR.next ?_) | (with_reducible refine Keeps.of1 (by assumption) ?_) | dsimp only

theorem kp_execSub {z : State} (i : Nat) (w : CmdWord) (s : State) (hs : Keeps z s) :
    KeepsR z (execSub i w s) := by
  unfold execSub
  repeat' first
    | (with_reducible assumption) | intro _ | (with_reducible apply kp_issueCtl) | (with_reducible apply kp_scalarAct)
    | (with_reducible refine KeepsR.next ?_) | (with_reducible refine Keeps.of1 (by assumption) ?_) | dsimp only

theorem kp_execMul {z : State} (i : Nat) (w : CmdWord) (s : State) (hs : Keeps z s) :
    KeepsR z (execMul i w s) := by
  unfold execMul
  repeat' first
    | (with_reducible assumption) | intro _ | (with_reducible apply kp_issueCtl) | (with_reducible apply kp_scalarAct)
    | (with_reducible refine KeepsR.next ?_) | (with_reducible refine Keeps.of1 (by assumption) ?_) | dsimp only

theorem kp_execAnd {z : State} (i : Nat) (w : CmdWord) (s : State) (hs : Keeps z s) :
    KeepsR z (execAnd i w s) := by
  unfold execAnd
  repeat' first
    | (with_reducible assumption) | intro _ | (with_reducible apply kp_issueCtl) | (with_reducible apply kp_scalarAct)
    | (with_reducible refine KeepsR.next ?_) | (with_reducible refine Keeps.of1 (by assumption) ?_) | dsimp only

theorem kp_execOr {z : State} (i : Nat) (w : CmdWord) (s : State) (hs : Keeps z s) :
    KeepsR z (execOr i w s) := by
  unfold execOr
  repeat' first
    | (with_reducible assumption) | intro _ | (with_reducible apply kp_issueCtl) | (with_reducible apply kp_scalarAct)
    | (with_reducible refine KeepsR.next ?_) | (with_reducible refine Keeps.of1 (by assumption) ?_) | dsimp only

theorem kp_execXor {z : State} (i : Nat) (w : CmdWord) (s : State) (hs : Keeps z s) :
    KeepsR z (execXor i w s) := by
  unfold execXor
  repeat' first
    | (with_reducible assumption) | intro _ | (with_reducible apply kp_issueCtl) | (with_reducible apply kp_scalarAct)
    | (with_reducible refine KeepsR.next ?_) | (with_reducible refine Keeps.of1 (by assumption) ?_) | dsimp only

theorem kp_execShl {z : State} (i : Nat) (w : CmdWord) (s : State) (hs : Keeps z s) :
    KeepsR z (execShl i w s) := by
  unfold execShl
  repeat' first
    | (with_reducible assumption) | intro _ | (with_reducible apply kp_issueCtl) | (with_reducible apply kp_scalarAct)
    | (with_reducible refine KeepsR.next ?_) | (with_reducible refine Keeps.of1 (by assumption) ?_) | dsimp only

theorem kp_execShr {z : State} (i : Nat) (w : CmdWord) (s : State) (hs : Keeps z s) :
    KeepsR z (execShr i w s) := by
  unfold execShr
  repeat' first
    | (with_reducible assumption) | intro _ | (with_reducible apply kp_issueCtl) | (with_reducible apply kp_scalarAct)
    | (with_reducible refine KeepsR.next ?_) | (with_reducible refine Keeps.of1 (by assumption) ?_) | dsimp only

theorem kp_execSra {z : State} (i : Nat) (w : CmdWord) (s : State) (hs : Keeps z s) :
    KeepsR z (execSra i w s) := by
  unfold execSra
  repeat' first
    | (with_reducible assumption) | intro _ | (with_reducible apply kp_issueCtl) | (with_reducible apply kp_scalarAct)
    | (with_reducible refine KeepsR.next ?_) | (with_reducible refine Keeps.of1 (by assumption) ?_) | dsimp only

theorem kp_execMin {z : State} (i : Nat) (w : CmdWord) (s : State) (hs : Keeps z s) :
    KeepsR z (execMin i w s) := by
  unfold execMin
  repeat' first
    | (with_reducible assumption) | intro _ | (with_reducible apply kp_issueCtl) | (with_reducible apply kp_scalarAct)
    | (with_reducible refine KeepsR.next ?_) | (with_reducible refine Keeps.of1 (by assumption) ?_) | dsimp only

theorem kp_execMax {z : State} (i : Nat) (w : CmdWord) (s : State) (hs : Keeps z s) :
    KeepsR z (execMax i w s) := by
  unfold execMax
  repeat' first
    | (with_reducible assumption) | intro _ | (with_reducible apply kp_issueCtl) | (with_reducible apply kp_scalarAct)
    | (with_reducible refine KeepsR.next ?_) | (with_reducible refine Keeps.of1 (by assumption) ?_) | dsimp only

theorem kp_execMovh {z : State} (i : Nat) (w : CmdWord) (s : State) (hs : Keeps z s) :
    KeepsR z (execMovh i w s) := by
  unfold execMovh
  repeat' first
    | (with_reducible assumption) | intro _
    | (extract_lets +onlyGivenNames lv; first | (have hx : Keeps z lv := ?_; generalize lv = w at hx ⊢; clear lv; rotate_left; subst lv) | (generalize lv = w; clear lv) | subst lv)
    | (with_reducible apply kp_issueCtl) | (with_reducible apply kp_setSeq) | (with_reducible refine KeepsR.next ?_) | dsimp only

theorem kp_execScmp {z : State} (i : Nat) (w : CmdWord) (s : State) (hs : Keeps z s) :
    KeepsR z (execScmp i w s) := by
  unfold execScmp
  repeat' first
    | (with_reducible assumption) | intro _ | (with_reducible apply kp_issueCtl) | (with_reducible apply kp_setSeq)
    | (with_reducible refine KeepsR.next ?_) | dsimp only

theorem kp_execPlog {z : State} (i : Nat) (w : CmdWord) (s : State) (hs : Keeps z s) :
    KeepsR z (execPlog i w s) := by
  unfold execPlog
  repeat' first
    | (with_reducible assumption) | intro _
    | (extract_lets +onlyGivenNames lv; first | (have hx : Keeps z lv := ?_; generalize lv = w at hx ⊢; clear lv; rotate_left; subst lv) | (generalize lv = w; clear lv) | subst lv)
    | (with_reducible apply kp_issueCtl) | (with_reducible apply kp_setSeq) | split | (with_reducible refine KeepsR.next ?_) | dsimp only

theorem kp_sldAct {z : State} (i : Nat) (w : CmdWord) (q : SeqSt) (t : State) (ht : Keeps z t) :
    Keeps z (sldAct i w q t).1 := by
  change KeepsP (fun y : State × Option Nat => y.1) z _
  unfold sldAct
  repeat' first
    | (with_reducible assumption)
    | (extract_lets +onlyGivenNames lv; first | (have hx : Keeps z lv := ?_; generalize lv = w at hx ⊢; clear lv; rotate_left; subst lv) | (have hx : KeepsP (fun y : State × _ => y.1) z lv := ?_; generalize lv = w at hx ⊢; clear lv; replace hx : Keeps z w.1 := hx; rotate_left; subst lv) | (generalize lv = w; clear lv) | subst lv)
    | (with_reducible apply kp_spadSeen) | (with_reducible apply kp_recordErr) | (with_reducible apply kp_setSeq) | split
    | (with_reducible refine KeepsP.mk ?_; with_reducible assumption) | (with_reducible refine KeepsP.p1 ?_)
    | (with_reducible refine Keeps.of1 (by assumption) ?_) | dsimp only

theorem kp_execSld {z : State} (i : Nat) (w : CmdWord) (s : State) (hs : Keeps z s) :
    KeepsR z (execSld i w s) := by
  unfold execSld
  repeat' first
    | (with_reducible assumption) | intro _ | (with_reducible apply kp_issueCtl) | (with_reducible apply kp_sldAct)
    | (with_reducible refine KeepsR.next ?_) | (with_reducible refine Keeps.of1 (by assumption) ?_) | dsimp only

theorem kp_sstAct {z : State} (i : Nat) (w : CmdWord) (q : SeqSt) (t : State) (ht : Keeps z t) :
    Keeps z (sstAct i w q t).1 := by
  change KeepsP (fun y : State × Option Nat => y.1) z _
  unfold sstAct
  repeat' first
    | (with_reducible assumption)
    | (extract_lets +onlyGivenNames lv; first | (have hx : Keeps z lv := ?_; generalize lv = w at hx ⊢; clear lv; rotate_left; subst lv) | (have hx : KeepsP (fun y : State × _ => y.1) z lv := ?_; generalize lv = w at hx ⊢; clear lv; replace hx : Keeps z w.1 := hx; rotate_left; subst lv) | (generalize lv = w; clear lv) | subst lv)
    | (with_reducible apply kp_spadWrite) | split | (with_reducible refine KeepsP.mk ?_; with_reducible assumption)
    | (with_reducible refine KeepsP.p1 ?_) | (with_reducible refine Keeps.of1 (by assumption) ?_) | dsimp only

theorem kp_execSst {z : State} (i : Nat) (w : CmdWord) (s : State) (hs : Keeps z s) :
    KeepsR z (execSst i w s) := by
  unfold execSst
  repeat' first
    | (with_reducible assumption) | intro _ | (with_reducible apply kp_issueCtl) | (with_reducible apply kp_sstAct)
    | (with_reducible refine KeepsR.next ?_) | (with_reducible refine Keeps.of1 (by assumption) ?_) | dsimp only

end Sys2Proof.Machine
end

