-- ==== Sys2Proof/Laws/KeepsSync.lean ====
section
/-! SUPPORT. What every operation of Machine/Sync.lean keeps. -/
set_option linter.all false

namespace Sys2Proof.Machine

theorem kp_syncRun {z : State} (i : Nat) (c : QCmd) (s : State) (hs : Keeps z s) :
    Keeps z (syncRun i c s) := by
  unfold syncRun
  repeat' first
    | (with_reducible assumption)
    | (extract_lets +onlyGivenNames lv; first | (have hx : Keeps z lv := ?_; generalize lv = w at hx ⊢; clear lv; rotate_left; subst lv) | (generalize lv = w; clear lv) | subst lv)
    | (with_reducible apply kp_finish) | (with_reducible apply kp_setSeq) | (with_reducible apply kp_addStarted) | (with_reducible apply kp_setF)
    | split | (with_reducible exact Keeps.mk (by assumption))

theorem kp_syncIssue {z : State} (i : Nat) (w : CmdWord) (s : State) (hs : Keeps z s) :
    Keeps z (syncIssue i w s) := by
  unfold syncIssue
  repeat' first
    | (with_reducible assumption) | intro _ | (with_reducible apply kp_startHead) | (with_reducible apply kp_syncRun)
    | (with_reducible apply kp_issueUnit) | dsimp only

theorem kp_execTok {z : State} (i : Nat) (w : CmdWord) (s : State) (hs : Keeps z s) :
    KeepsR z (execTok i w s) := by
  unfold execTok
  repeat' first
    | (with_reducible assumption) | (with_reducible apply kp_syncIssue) | (with_reducible refine KeepsR.next ?_) | dsimp only

theorem kp_execTset {z : State} (i : Nat) (w : CmdWord) (s : State) (hs : Keeps z s) :
    KeepsR z (execTset i w s) := by
  unfold execTset
  repeat' first
    | (with_reducible assumption) | (with_reducible apply kp_syncIssue) | (with_reducible refine KeepsR.next ?_) | dsimp only

theorem kp_execFence {z : State} (i : Nat) (w : CmdWord) (s : State) (hs : Keeps z s) :
    KeepsR z (execFence i w s) := by
  unfold execFence
  repeat' first
    | (with_reducible assumption) | (with_reducible apply kp_syncIssue) | (with_reducible refine KeepsR.next ?_) | dsimp only

theorem kp_execDelay {z : State} (i : Nat) (w : CmdWord) (s : State) (hs : Keeps z s) :
    KeepsR z (execDelay i w s) := by
  unfold execDelay
  repeat' first
    | (with_reducible assumption) | (with_reducible apply kp_syncIssue) | (with_reducible refine KeepsR.next ?_) | dsimp only

theorem kp_execTime {z : State} (i : Nat) (w : CmdWord) (s : State) (hs : Keeps z s) :
    KeepsR z (execTime i w s) := by
  unfold execTime
  repeat' first
    | (with_reducible assumption) | (with_reducible apply kp_syncIssue) | (with_reducible refine KeepsR.next ?_) | dsimp only

theorem kp_execWdog {z : State} (i : Nat) (w : CmdWord) (s : State) (hs : Keeps z s) :
    KeepsR z (execWdog i w s) := by
  unfold execWdog
  repeat' first
    | (with_reducible assumption) | (with_reducible apply kp_syncIssue) | (with_reducible refine KeepsR.next ?_) | dsimp only

theorem kp_breakWait {z : State} (i : Nat) (num : Nat) (len : Nat) (s : State) (hs : Keeps z s) :
    Keeps z (breakWait i num len s) := by
  unfold breakWait
  repeat' first
    | (with_reducible assumption) | intro _
    | (extract_lets +onlyGivenNames lv; first | (have hx : Keeps z lv := ?_; generalize lv = w at hx ⊢; clear lv; rotate_left; subst lv) | (generalize lv = w; clear lv) | subst lv)
    | (with_reducible apply kp_dropResvs) | (with_reducible apply kp_raise) | (with_reducible apply kp_bump) | (with_reducible apply kp_setF)
    | (with_reducible apply kp_completeNum) | (with_reducible apply kp_markDone)

theorem kp_execWaitTimeout {z : State} (i : Nat) (num : Nat) (s : State) (hs : Keeps z s) :
    KeepsR z (execWaitTimeout i num s) := by
  unfold execWaitTimeout
  repeat' first
    | (with_reducible assumption) | intro _
    | (extract_lets +onlyGivenNames lv; first | (have hx : Keeps z lv := ?_; generalize lv = w at hx ⊢; clear lv; rotate_left; subst lv) | (generalize lv = w; clear lv) | subst lv)
    | (with_reducible refine KeepsR.next ?_) | (with_reducible apply kp_breakWait) | (with_reducible apply kp_dropResvs)
    | (with_reducible apply kp_waitTill) | (with_reducible apply kp_completeNum) | (with_reducible apply kp_markDone)
    | (with_reducible apply kp_raise) | (with_reducible apply kp_bump) | split | (with_reducible exact Keeps.mk (by assumption))

theorem kp_execTokenStall {z : State} (i : Nat) (s : State) (hs : Keeps z s) :
    KeepsR z (execTokenStall i s) := by
  unfold execTokenStall
  repeat' first
    | (with_reducible assumption) | (with_reducible refine KeepsR.next ?_) | (with_reducible apply kp_programFault)
    | (with_reducible apply kp_waitTill) | split

theorem kp_startCounters {z : State} (i : Nat) (s : State) (hs : Keeps z s) :
    Keeps z (startCounters i s) := by
  unfold startCounters
  repeat' first
    | (with_reducible assumption) | intro _
    | (extract_lets +onlyGivenNames lv; first | (have hx : Keeps z lv := ?_; generalize lv = w at hx ⊢; clear lv; rotate_left; subst lv) | (generalize lv = w; clear lv) | subst lv)
    | (with_reducible apply kp_wr64) | (with_reducible apply kp_setF) | (with_reducible apply kp_wrW) | (with_reducible apply Keeps.foldl)
    | (with_reducible apply Keeps.foldlx) | (with_reducible apply Keeps.foldlv) | (with_reducible apply Keeps.foldl2)
    | (with_reducible apply Keeps.foldl1) | (with_reducible apply Keeps.foldl22) | (with_reducible apply Keeps.foldl222)
    | (with_reducible apply Keeps.foldl2x)

theorem kp_execSeqStart {z : State} (fn : Nat) (i : Nat) (v : Nat) (s : State) (hs : Keeps z s) :
    KeepsR z (execSeqStart fn i v s) := by
  unfold execSeqStart
  repeat' first
    | (with_reducible assumption) | intro _
    | (extract_lets +onlyGivenNames lv; first | (have hx : Keeps z lv := ?_; generalize lv = w at hx ⊢; clear lv; rotate_left; subst lv) | (have hfn0 : ∀ y, Keeps z y → Keeps z (lv y) := ?_; generalize lv = w at hfn0 ⊢; clear lv; rotate_left; subst lv) | (have hfn1 : ∀ a y, Keeps z y → Keeps z (lv a y) := ?_; generalize lv = w at hfn1 ⊢; clear lv; rotate_left; subst lv) | (have hfn2 : ∀ a b y, Keeps z y → Keeps z (lv a b y) := ?_; generalize lv = w at hfn2 ⊢; clear lv; rotate_left; subst lv) | (have hfn3 : ∀ a b c y, Keeps z y → Keeps z (lv a b c y) := ?_; generalize lv = w at hfn3 ⊢; clear lv; rotate_left; subst lv) | (have hfn4 : ∀ y a, Keeps z y → Keeps z (lv y a) := ?_; generalize lv = w at hfn4 ⊢; clear lv; rotate_left; subst lv) | (have hfn5 : ∀ a, Keeps z (lv a) := ?_; generalize lv = w at hfn5 ⊢; clear lv; rotate_left; subst lv) | (have hfn6 : ∀ a b, Keeps z (lv a b) := ?_; generalize lv = w at hfn6 ⊢; clear lv; rotate_left; subst lv) | (have hfn7 : ∀ y a b, Keeps z y → Keeps z (lv y a b) := ?_; generalize lv = w at hfn7 ⊢; clear lv; rotate_left; subst lv) | (have hfn8 : ∀ a, KeepsR z (lv a) := ?_; generalize lv = w at hfn8 ⊢; clear lv; rotate_left; subst lv) | (have hfn9 : ∀ y, Keeps z y → KeepsC z (lv y) := ?_; generalize lv = w at hfn9 ⊢; clear lv; rotate_left; subst lv) | (have hfn10 : ∀ y, Keeps z y → KeepsR z (lv y) := ?_; generalize lv = w at hfn10 ⊢; clear lv; rotate_left; subst lv) | (have hfn11 : ∀ a y, Keeps z y → KeepsR z (lv a y) := ?_; generalize lv = w at hfn11 ⊢; clear lv; rotate_left; subst lv) | (have hfn12 : ∀ y a, Keeps z y → KeepsR z (lv y a) := ?_; generalize lv = w at hfn12 ⊢; clear lv; rotate_left; subst lv) | (generalize lv = w; clear lv) | subst lv)
    | (with_reducible apply hfn0) | (with_reducible apply hfn1) | (with_reducible apply hfn2) | (with_reducible apply hfn3)
    | (with_reducible apply hfn4) | (with_reducible apply hfn5) | (with_reducible apply hfn6) | (with_reducible apply hfn7)
    | (with_reducible apply hfn8) | (with_reducible apply hfn9) | (with_reducible apply hfn10) | (with_reducible apply hfn11)
    | (with_reducible apply hfn12) | (with_reducible refine KeepsR.next ?_) | (with_reducible apply kp_barWrite) | (with_reducible apply kp_wrW)
    | (with_reducible apply kp_setF) | (with_reducible apply kp_putSeq) | (with_reducible apply kp_forgetRod)
    | (with_reducible apply kp_startCounters) | (with_reducible apply kp_raise) | split | (with_reducible exact Keeps.mk (by assumption))

theorem kp_execSeqAbort {z : State} (fn : Nat) (i : Nat) (v : Nat) (s : State) (hs : Keeps z s) :
    KeepsR z (execSeqAbort fn i v s) := by
  unfold execSeqAbort
  repeat' first
    | (with_reducible assumption) | intro _ | (with_reducible apply kp_barWrite) | (with_reducible apply kp_programFault) | split
    | (with_reducible refine KeepsR.next ?_) | dsimp only

theorem kp_execSeqTsig {z : State} (fn : Nat) (i : Nat) (v : Nat) (s : State) (hs : Keeps z s) :
    KeepsR z (execSeqTsig fn i v s) := by
  unfold execSeqTsig
  repeat' first
    | (with_reducible assumption) | intro _ | (with_reducible refine KeepsR.next ?_) | (with_reducible apply kp_barWrite)
    | (with_reducible apply kp_signalTok) | (with_reducible apply kp_setSeq) | split

theorem kp_dbgEnables {z : State} (i : Nat) (v : Nat) (s : State) (hs : Keeps z s) :
    Keeps z (dbgEnables i v s) := by
  unfold dbgEnables
  repeat' first
    | (with_reducible assumption) | (with_reducible apply kp_writeReg) | dsimp only

theorem kp_pauseNow {z : State} (i : Nat) (s : State) (hs : Keeps z s) :
    Keeps z (pauseNow i s) := by
  unfold pauseNow
  repeat' first
    | (with_reducible assumption) | (with_reducible apply kp_faultAt) | (with_reducible apply kp_raise) | (with_reducible apply kp_setPstate)
    | (with_reducible apply kp_setSeq) | split | (with_reducible refine Keeps.ofC (by assumption) ?_)
    | (with_reducible refine Keeps.ofO (by assumption) ?_) | (with_reducible refine Keeps.ofR (by assumption) ?_) | dsimp only
    | (with_reducible exact Keeps.mk (by assumption))

theorem kp_execDbgPause {z : State} (fn : Nat) (i : Nat) (v : Nat) (s : State) (hs : Keeps z s) :
    KeepsR z (execDbgPause fn i v s) := by
  unfold execDbgPause
  repeat' first
    | (with_reducible assumption) | intro _
    | (extract_lets +onlyGivenNames lv; first | (have hx : Keeps z lv := ?_; generalize lv = w at hx ⊢; clear lv; rotate_left; subst lv) | (generalize lv = w; clear lv) | subst lv)
    | (with_reducible refine KeepsR.next ?_) | (with_reducible apply kp_barWrite) | (with_reducible apply kp_dbgEnables)
    | (with_reducible apply kp_pauseNow) | split

theorem kp_execDbgResume {z : State} (fn : Nat) (i : Nat) (v : Nat) (s : State) (hs : Keeps z s) :
    KeepsR z (execDbgResume fn i v s) := by
  unfold execDbgResume
  repeat' first
    | (with_reducible assumption) | intro _
    | (extract_lets +onlyGivenNames lv; first | (have hx : Keeps z lv := ?_; generalize lv = w at hx ⊢; clear lv; rotate_left; subst lv) | (generalize lv = w; clear lv) | subst lv)
    | (with_reducible refine KeepsR.next ?_) | (with_reducible apply kp_barWrite) | (with_reducible apply kp_dbgEnables)
    | (with_reducible apply kp_setPstate) | (with_reducible apply kp_setSeq) | split | (with_reducible exact Keeps.mk (by assumption))

theorem kp_execDbgStep {z : State} (fn : Nat) (i : Nat) (v : Nat) (s : State) (hs : Keeps z s) :
    KeepsR z (execDbgStep fn i v s) := by
  unfold execDbgStep
  repeat' first
    | (with_reducible assumption) | intro _
    | (extract_lets +onlyGivenNames lv; first | (have hx : Keeps z lv := ?_; generalize lv = w at hx ⊢; clear lv; rotate_left; subst lv) | (generalize lv = w; clear lv) | subst lv)
    | (with_reducible apply kp_barWrite) | (with_reducible apply kp_dbgEnables) | (with_reducible apply kp_setSeq) | split
    | (with_reducible refine KeepsR.next ?_) | dsimp only | (with_reducible exact Keeps.mk (by assumption))

theorem kp_execDbgDataCommit {z : State} (fn : Nat) (i : Nat) (v : Nat) (s : State) (hs : Keeps z s) :
    KeepsR z (execDbgDataCommit fn i v s) := by
  unfold execDbgDataCommit
  repeat' first
    | (with_reducible assumption) | intro _
    | (extract_lets +onlyGivenNames lv; first | (have hx : Keeps z lv := ?_; generalize lv = w at hx ⊢; clear lv; rotate_left; subst lv) | (generalize lv = w; clear lv) | subst lv)
    | (with_reducible apply kp_barWrite) | (with_reducible apply kp_setSeq) | (with_reducible apply kp_wr64) | (with_reducible apply kp_raise) | split
    | (with_reducible refine KeepsR.next ?_) | dsimp only | (with_reducible exact Keeps.mk (by assumption))

theorem kp_execProgramEnded {z : State} (i : Nat) (s : State) (hs : Keeps z s) :
    KeepsR z (execProgramEnded i s) := by
  unfold execProgramEnded
  repeat' first
    | (with_reducible assumption)
    | (extract_lets +onlyGivenNames lv; first | (have hx : Keeps z lv := ?_; generalize lv = w at hx ⊢; clear lv; rotate_left; subst lv) | (generalize lv = w; clear lv) | subst lv)
    | (with_reducible apply kp_raise) | (with_reducible apply kp_setPstate) | split | (with_reducible refine KeepsR.next ?_) | dsimp only

end Sys2Proof.Machine
end

