-- ==== Sys2Proof/Laws/KeepsVector.lean ====
section
/-! SUPPORT. What every operation of Machine/Vector.lean keeps. -/
set_option linter.all false

namespace Sys2Proof.Machine

theorem kp_vecCount {z : State} (i : Nat) (els : List VEl) (s : State) (hs : Keeps z s) :
    Keeps z (vecCount i els s) := by
  unfold vecCount
  repeat' first
    | (with_reducible assumption)
    | (extract_lets +onlyGivenNames lv; first | (have hx : Keeps z lv := ?_; generalize lv = w at hx ⊢; clear lv; rotate_left; subst lv) | (generalize lv = w; clear lv) | subst lv)
    | (with_reducible apply kp_raise) | (with_reducible apply kp_bump) | split | dsimp only

theorem kp_badOperand {z : State} (i : Nat) (c : QCmd) (s : State) (hs : Keeps z s) :
    Keeps z (badOperand i c s) := by
  unfold badOperand
  repeat' first
    | (with_reducible assumption) | (with_reducible apply kp_startDone) | dsimp only

theorem kp_wroteOut {z : State} (i : Nat) (page : Nat) (bit : Nat) (c : QCmd) (pois : Bool) (s : State) (hs : Keeps z s) :
    Keeps z (wroteOut i page bit c pois s) := by
  unfold wroteOut
  repeat' first
    | (with_reducible assumption) | (with_reducible apply kp_startDone) | (with_reducible apply kp_raise) | split | dsimp only

theorem kp_vWrite {z : State} (i : Nat) (c : QCmd) (form : Nat) (els : List VEl) (s : State) (hs : Keeps z s) :
    Keeps z (vWrite i c form els s) := by
  unfold vWrite
  repeat' first
    | (with_reducible assumption) | (with_reducible apply kp_wroteOut) | (with_reducible apply kp_vPutFrom) | (with_reducible apply kp_vecCount)
    | dsimp only

theorem kp_vldRun {z : State} (i : Nat) (c : QCmd) (s : State) (hs : Keeps z s) :
    Keeps z (vldRun i c s) := by
  unfold vldRun
  repeat' first
    | (with_reducible assumption)
    | (extract_lets +onlyGivenNames lv; first | (have hx : Keeps z lv := ?_; generalize lv = w at hx ⊢; clear lv; rotate_left; subst lv) | (generalize lv = w; clear lv) | subst lv)
    | (with_reducible apply kp_badOperand) | (with_reducible apply kp_vWrite) | (with_reducible apply kp_spadSeen) | split | dsimp only
    | (with_reducible exact Keeps.mk (by assumption))

theorem kp_storeRun {z : State} (i : Nat) (a : Nat) (c : QCmd) (k : FKind) (mode : Nat) (sat : Bool) (vs : List FV) (bads : List Bool) (s : State) (hs : Keeps z s) :
    Keeps z (storeRun i a c k mode sat vs bads s) := by
  unfold storeRun
  repeat' first
    | (with_reducible assumption)
    | (extract_lets +onlyGivenNames lv; first | (have hx : Keeps z lv := ?_; generalize lv = w at hx ⊢; clear lv; rotate_left; subst lv) | (generalize lv = w; clear lv) | subst lv)
    | (with_reducible apply kp_wroteOut) | (with_reducible apply kp_spadWrite) | (with_reducible apply kp_vecCount) | dsimp only [id]

theorem kp_vstRun {z : State} (i : Nat) (c : QCmd) (s : State) (hs : Keeps z s) :
    Keeps z (vstRun i c s) := by
  unfold vstRun
  repeat' first
    | (with_reducible assumption)
    | (extract_lets +onlyGivenNames lv; first | (have hx : Keeps z lv := ?_; generalize lv = w at hx ⊢; clear lv; rotate_left; subst lv) | (generalize lv = w; clear lv) | subst lv)
    | (with_reducible apply kp_badOperand) | (with_reducible apply kp_storeRun) | split | dsimp only | (with_reducible exact Keeps.mk (by assumption))

theorem kp_vaccRun {z : State} (i : Nat) (c : QCmd) (s : State) (hs : Keeps z s) :
    Keeps z (vaccRun i c s) := by
  unfold vaccRun
  repeat' first
    | (with_reducible assumption) | intro _
    | (extract_lets +onlyGivenNames lv; first | (have hx : Keeps z lv := ?_; generalize lv = w at hx ⊢; clear lv; rotate_left; subst lv) | (have hfn0 : ∀ y, Keeps z y → Keeps z (lv y) := ?_; generalize lv = w at hfn0 ⊢; clear lv; rotate_left; subst lv) | (have hfn1 : ∀ a y, Keeps z y → Keeps z (lv a y) := ?_; generalize lv = w at hfn1 ⊢; clear lv; rotate_left; subst lv) | (have hfn2 : ∀ a b y, Keeps z y → Keeps z (lv a b y) := ?_; generalize lv = w at hfn2 ⊢; clear lv; rotate_left; subst lv) | (have hfn3 : ∀ a b c y, Keeps z y → Keeps z (lv a b c y) := ?_; generalize lv = w at hfn3 ⊢; clear lv; rotate_left; subst lv) | (have hfn4 : ∀ y a, Keeps z y → Keeps z (lv y a) := ?_; generalize lv = w at hfn4 ⊢; clear lv; rotate_left; subst lv) | (have hfn5 : ∀ a, Keeps z (lv a) := ?_; generalize lv = w at hfn5 ⊢; clear lv; rotate_left; subst lv) | (have hfn6 : ∀ a b, Keeps z (lv a b) := ?_; generalize lv = w at hfn6 ⊢; clear lv; rotate_left; subst lv) | (have hfn7 : ∀ y a b, Keeps z y → Keeps z (lv y a b) := ?_; generalize lv = w at hfn7 ⊢; clear lv; rotate_left; subst lv) | (have hfn8 : ∀ a, KeepsR z (lv a) := ?_; generalize lv = w at hfn8 ⊢; clear lv; rotate_left; subst lv) | (have hfn9 : ∀ y, Keeps z y → KeepsC z (lv y) := ?_; generalize lv = w at hfn9 ⊢; clear lv; rotate_left; subst lv) | (have hfn10 : ∀ y, Keeps z y → KeepsR z (lv y) := ?_; generalize lv = w at hfn10 ⊢; clear lv; rotate_left; subst lv) | (have hfn11 : ∀ a y, Keeps z y → KeepsR z (lv a y) := ?_; generalize lv = w at hfn11 ⊢; clear lv; rotate_left; subst lv) | (have hfn12 : ∀ y a, Keeps z y → KeepsR z (lv y a) := ?_; generalize lv = w at hfn12 ⊢; clear lv; rotate_left; subst lv) | (generalize lv = w; clear lv) | subst lv)
    | (with_reducible apply hfn0) | (with_reducible apply hfn1) | (with_reducible apply hfn2) | (with_reducible apply hfn3)
    | (with_reducible apply hfn4) | (with_reducible apply hfn5) | (with_reducible apply hfn6) | (with_reducible apply hfn7)
    | (with_reducible apply hfn8) | (with_reducible apply hfn9) | (with_reducible apply hfn10) | (with_reducible apply hfn11)
    | (with_reducible apply hfn12) | (with_reducible apply kp_badOperand) | (with_reducible apply kp_finishNow) | (with_reducible apply kp_storeRun)
    | (with_reducible apply kp_accSeen) | (with_reducible apply Keeps.foldl) | (with_reducible apply Keeps.foldlx)
    | (with_reducible apply Keeps.foldlv) | (with_reducible apply Keeps.foldl2) | (with_reducible apply Keeps.foldl1)
    | (with_reducible apply Keeps.foldl22) | (with_reducible apply Keeps.foldl222) | (with_reducible apply Keeps.foldl2x) | split

theorem kp_vtosRun {z : State} (i : Nat) (c : QCmd) (s : State) (hs : Keeps z s) :
    Keeps z (vtosRun i c s) := by
  unfold vtosRun
  repeat' first
    | (with_reducible assumption)
    | (extract_lets +onlyGivenNames lv; first | (have hx : Keeps z lv := ?_; generalize lv = w at hx ⊢; clear lv; rotate_left; subst lv) | (generalize lv = w; clear lv) | subst lv)
    | (with_reducible apply kp_badOperand) | (with_reducible apply kp_startDone) | split | dsimp only

theorem kp_vopRun {z : State} (i : Nat) (c : QCmd) (s : State) (hs : Keeps z s) :
    Keeps z (vopRun i c s) := by
  unfold vopRun
  repeat' first
    | (with_reducible assumption)
    | (extract_lets +onlyGivenNames lv; first | (have hx : Keeps z lv := ?_; generalize lv = w at hx ⊢; clear lv; rotate_left; subst lv) | (generalize lv = w; clear lv) | subst lv)
    | (with_reducible apply kp_badOperand) | (with_reducible apply kp_vWrite) | split

theorem kp_vfnRun {z : State} (i : Nat) (c : QCmd) (s : State) (hs : Keeps z s) :
    Keeps z (vfnRun i c s) := by
  unfold vfnRun
  repeat' first
    | (with_reducible assumption)
    | (extract_lets +onlyGivenNames lv; first | (have hx : Keeps z lv := ?_; generalize lv = w at hx ⊢; clear lv; rotate_left; subst lv) | (generalize lv = w; clear lv) | subst lv)
    | (with_reducible apply kp_badOperand) | (with_reducible apply kp_vWrite) | split | dsimp only

theorem kp_vredRun {z : State} (i : Nat) (c : QCmd) (s : State) (hs : Keeps z s) :
    Keeps z (vredRun i c s) := by
  unfold vredRun
  repeat' first
    | (with_reducible assumption) | intro _
    | (extract_lets +onlyGivenNames lv; first | (have hx : Keeps z lv := ?_; generalize lv = w at hx ⊢; clear lv; rotate_left; subst lv) | (generalize lv = w; clear lv) | subst lv)
    | (with_reducible apply kp_badOperand) | (with_reducible apply kp_vWrite) | (with_reducible apply kp_bump) | split | dsimp only [id]

theorem kp_vcvtRun {z : State} (i : Nat) (c : QCmd) (s : State) (hs : Keeps z s) :
    Keeps z (vcvtRun i c s) := by
  unfold vcvtRun
  repeat' first
    | (with_reducible assumption)
    | (extract_lets +onlyGivenNames lv; first | (have hx : Keeps z lv := ?_; generalize lv = w at hx ⊢; clear lv; rotate_left; subst lv) | (generalize lv = w; clear lv) | subst lv)
    | (with_reducible apply kp_badOperand) | (with_reducible apply kp_vWrite) | (with_reducible apply kp_wroteOut)
    | (with_reducible apply kp_vPutFrom) | (with_reducible apply kp_vecCount) | split | dsimp only | (with_reducible exact Keeps.mk (by assumption))

theorem kp_vcmpRun {z : State} (i : Nat) (c : QCmd) (s : State) (hs : Keeps z s) :
    Keeps z (vcmpRun i c s) := by
  unfold vcmpRun
  repeat' first
    | (with_reducible assumption)
    | (extract_lets +onlyGivenNames lv; first | (have hx : Keeps z lv := ?_; generalize lv = w at hx ⊢; clear lv; rotate_left; subst lv) | (generalize lv = w; clear lv) | subst lv)
    | (with_reducible apply kp_badOperand) | (with_reducible apply kp_startDone) | (with_reducible apply kp_recordErr)
    | (with_reducible apply kp_programFault) | split | dsimp only [id]

theorem kp_vlseRun {z : State} (i : Nat) (c : QCmd) (s : State) (hs : Keeps z s) :
    Keeps z (vlseRun i c s) := by
  unfold vlseRun
  repeat' first
    | (with_reducible assumption) | intro _
    | (extract_lets +onlyGivenNames lv; first | (have hx : Keeps z lv := ?_; generalize lv = w at hx ⊢; clear lv; rotate_left; subst lv) | (have hfn0 : ∀ y, Keeps z y → Keeps z (lv y) := ?_; generalize lv = w at hfn0 ⊢; clear lv; rotate_left; subst lv) | (have hfn1 : ∀ a y, Keeps z y → Keeps z (lv a y) := ?_; generalize lv = w at hfn1 ⊢; clear lv; rotate_left; subst lv) | (have hfn2 : ∀ a b y, Keeps z y → Keeps z (lv a b y) := ?_; generalize lv = w at hfn2 ⊢; clear lv; rotate_left; subst lv) | (have hfn3 : ∀ a b c y, Keeps z y → Keeps z (lv a b c y) := ?_; generalize lv = w at hfn3 ⊢; clear lv; rotate_left; subst lv) | (have hfn4 : ∀ y a, Keeps z y → Keeps z (lv y a) := ?_; generalize lv = w at hfn4 ⊢; clear lv; rotate_left; subst lv) | (have hfn5 : ∀ a, Keeps z (lv a) := ?_; generalize lv = w at hfn5 ⊢; clear lv; rotate_left; subst lv) | (have hfn6 : ∀ a b, Keeps z (lv a b) := ?_; generalize lv = w at hfn6 ⊢; clear lv; rotate_left; subst lv) | (have hfn7 : ∀ y a b, Keeps z y → Keeps z (lv y a b) := ?_; generalize lv = w at hfn7 ⊢; clear lv; rotate_left; subst lv) | (have hfn8 : ∀ a, KeepsR z (lv a) := ?_; generalize lv = w at hfn8 ⊢; clear lv; rotate_left; subst lv) | (have hfn9 : ∀ y, Keeps z y → KeepsC z (lv y) := ?_; generalize lv = w at hfn9 ⊢; clear lv; rotate_left; subst lv) | (have hfn10 : ∀ y, Keeps z y → KeepsR z (lv y) := ?_; generalize lv = w at hfn10 ⊢; clear lv; rotate_left; subst lv) | (have hfn11 : ∀ a y, Keeps z y → KeepsR z (lv a y) := ?_; generalize lv = w at hfn11 ⊢; clear lv; rotate_left; subst lv) | (have hfn12 : ∀ y a, Keeps z y → KeepsR z (lv y a) := ?_; generalize lv = w at hfn12 ⊢; clear lv; rotate_left; subst lv) | (generalize lv = w; clear lv) | subst lv)
    | (with_reducible apply hfn0) | (with_reducible apply hfn1) | (with_reducible apply hfn2) | (with_reducible apply hfn3)
    | (with_reducible apply hfn4) | (with_reducible apply hfn5) | (with_reducible apply hfn6) | (with_reducible apply hfn7)
    | (with_reducible apply hfn8) | (with_reducible apply hfn9) | (with_reducible apply hfn10) | (with_reducible apply hfn11)
    | (with_reducible apply hfn12) | (with_reducible apply kp_badOperand) | (with_reducible apply kp_raise) | (with_reducible apply kp_bump)
    | (with_reducible apply kp_vWrite) | split

theorem kp_vecRun {z : State} (i : Nat) (c : QCmd) (s : State) (hs : Keeps z s) :
    Keeps z (vecRun i c s) := by
  unfold vecRun
  repeat' first
    | (with_reducible assumption) | (with_reducible apply kp_vldRun) | (with_reducible apply kp_vstRun) | (with_reducible apply kp_vopRun)
    | (with_reducible apply kp_vfnRun) | (with_reducible apply kp_vredRun) | (with_reducible apply kp_vcvtRun) | (with_reducible apply kp_vaccRun)
    | (with_reducible apply kp_vtosRun) | (with_reducible apply kp_vcmpRun) | (with_reducible apply kp_vlseRun) | split | dsimp only
    | (with_reducible exact Keeps.mk (by assumption))

theorem kp_vecIssue {z : State} (i : Nat) (w : CmdWord) (s : State) (hs : Keeps z s) :
    Keeps z (vecIssue i w s) := by
  unfold vecIssue
  repeat' first
    | (with_reducible assumption) | (with_reducible apply kp_startHead) | (with_reducible apply kp_vecRun) | (with_reducible apply kp_issueUnit)

theorem kp_execVld {z : State} (i : Nat) (w : CmdWord) (s : State) (hs : Keeps z s) :
    KeepsR z (execVld i w s) := by
  unfold execVld
  repeat' first
    | (with_reducible assumption) | (with_reducible apply kp_vecIssue) | (with_reducible refine KeepsR.next ?_) | dsimp only

theorem kp_execVst {z : State} (i : Nat) (w : CmdWord) (s : State) (hs : Keeps z s) :
    KeepsR z (execVst i w s) := by
  unfold execVst
  repeat' first
    | (with_reducible assumption) | (with_reducible apply kp_vecIssue) | (with_reducible refine KeepsR.next ?_) | dsimp only

theorem kp_execVop {z : State} (i : Nat) (w : CmdWord) (s : State) (hs : Keeps z s) :
    KeepsR z (execVop i w s) := by
  unfold execVop
  repeat' first
    | (with_reducible assumption) | (with_reducible apply kp_vecIssue) | (with_reducible refine KeepsR.next ?_) | dsimp only

theorem kp_execVfn {z : State} (i : Nat) (w : CmdWord) (s : State) (hs : Keeps z s) :
    KeepsR z (execVfn i w s) := by
  unfold execVfn
  repeat' first
    | (with_reducible assumption) | (with_reducible apply kp_vecIssue) | (with_reducible refine KeepsR.next ?_) | dsimp only

theorem kp_execVred {z : State} (i : Nat) (w : CmdWord) (s : State) (hs : Keeps z s) :
    KeepsR z (execVred i w s) := by
  unfold execVred
  repeat' first
    | (with_reducible assumption) | (with_reducible apply kp_vecIssue) | (with_reducible refine KeepsR.next ?_) | dsimp only

theorem kp_execVcvt {z : State} (i : Nat) (w : CmdWord) (s : State) (hs : Keeps z s) :
    KeepsR z (execVcvt i w s) := by
  unfold execVcvt
  repeat' first
    | (with_reducible assumption) | (with_reducible apply kp_vecIssue) | (with_reducible refine KeepsR.next ?_) | dsimp only

theorem kp_execVacc {z : State} (i : Nat) (w : CmdWord) (s : State) (hs : Keeps z s) :
    KeepsR z (execVacc i w s) := by
  unfold execVacc
  repeat' first
    | (with_reducible assumption) | (with_reducible apply kp_vecIssue) | (with_reducible refine KeepsR.next ?_) | dsimp only

theorem kp_execVtos {z : State} (i : Nat) (w : CmdWord) (s : State) (hs : Keeps z s) :
    KeepsR z (execVtos i w s) := by
  unfold execVtos
  repeat' first
    | (with_reducible assumption) | (with_reducible apply kp_vecIssue) | (with_reducible refine KeepsR.next ?_) | dsimp only

theorem kp_execVcmp {z : State} (i : Nat) (w : CmdWord) (s : State) (hs : Keeps z s) :
    KeepsR z (execVcmp i w s) := by
  unfold execVcmp
  repeat' first
    | (with_reducible assumption) | (with_reducible apply kp_vecIssue) | (with_reducible refine KeepsR.next ?_) | dsimp only

theorem kp_execVlse {z : State} (i : Nat) (w : CmdWord) (s : State) (hs : Keeps z s) :
    KeepsR z (execVlse i w s) := by
  unfold execVlse
  repeat' first
    | (with_reducible assumption) | (with_reducible apply kp_vecIssue) | (with_reducible refine KeepsR.next ?_) | dsimp only

end Sys2Proof.Machine
end

