-- ==== Sys2Proof/Laws/KeepsOx.lean ====
section
/-! SUPPORT. What every operation of Machine/Ox.lean keeps. -/
set_option linter.all false

namespace Sys2Proof.Machine

theorem kp_setOx {z : State} (i : Nat) (v : OxSt) (s : State) (hs : Keeps z s) :
    Keeps z (setOx i v s) := by
  unfold setOx
  repeat' first
    | (with_reducible assumption) | dsimp only | (with_reducible exact Keeps.mk (by assumption))

theorem kp_owldRun {z : State} (i : Nat) (c : QCmd) (s : State) (hs : Keeps z s) :
    Keeps z (owldRun i c s) := by
  unfold owldRun
  repeat' first
    | (with_reducible assumption) | intro _
    | (extract_lets +onlyGivenNames lv; first | (have hx : Keeps z lv := ?_; generalize lv = w at hx ⊢; clear lv; rotate_left; subst lv) | (have hfn0 : ∀ y, Keeps z y → Keeps z (lv y) := ?_; generalize lv = w at hfn0 ⊢; clear lv; rotate_left; subst lv) | (have hfn1 : ∀ a y, Keeps z y → Keeps z (lv a y) := ?_; generalize lv = w at hfn1 ⊢; clear lv; rotate_left; subst lv) | (have hfn2 : ∀ a b y, Keeps z y → Keeps z (lv a b y) := ?_; generalize lv = w at hfn2 ⊢; clear lv; rotate_left; subst lv) | (have hfn3 : ∀ a b c y, Keeps z y → Keeps z (lv a b c y) := ?_; generalize lv = w at hfn3 ⊢; clear lv; rotate_left; subst lv) | (have hfn4 : ∀ y a, Keeps z y → Keeps z (lv y a) := ?_; generalize lv = w at hfn4 ⊢; clear lv; rotate_left; subst lv) | (have hfn5 : ∀ a, Keeps z (lv a) := ?_; generalize lv = w at hfn5 ⊢; clear lv; rotate_left; subst lv) | (have hfn6 : ∀ a b, Keeps z (lv a b) := ?_; generalize lv = w at hfn6 ⊢; clear lv; rotate_left; subst lv) | (have hfn7 : ∀ y a b, Keeps z y → Keeps z (lv y a b) := ?_; generalize lv = w at hfn7 ⊢; clear lv; rotate_left; subst lv) | (have hfn8 : ∀ a, KeepsR z (lv a) := ?_; generalize lv = w at hfn8 ⊢; clear lv; rotate_left; subst lv) | (have hfn9 : ∀ y, Keeps z y → KeepsC z (lv y) := ?_; generalize lv = w at hfn9 ⊢; clear lv; rotate_left; subst lv) | (have hfn10 : ∀ y, Keeps z y → KeepsR z (lv y) := ?_; generalize lv = w at hfn10 ⊢; clear lv; rotate_left; subst lv) | (have hfn11 : ∀ a y, Keeps z y → KeepsR z (lv a y) := ?_; generalize lv = w at hfn11 ⊢; clear lv; rotate_left; subst lv) | (have hfn12 : ∀ y a, Keeps z y → KeepsR z (lv y a) := ?_; generalize lv = w at hfn12 ⊢; clear lv; rotate_left; subst lv) | (generalize lv = w; clear lv) | subst lv)
    | (with_reducible apply hfn0) | (with_reducible apply hfn1) | (with_reducible apply hfn2) | (with_reducible apply hfn3)
    | (with_reducible apply hfn4) | (with_reducible apply hfn5) | (with_reducible apply hfn6) | (with_reducible apply hfn7)
    | (with_reducible apply hfn8) | (with_reducible apply hfn9) | (with_reducible apply hfn10) | (with_reducible apply hfn11)
    | (with_reducible apply hfn12) | (with_reducible apply kp_badOperand) | (with_reducible apply kp_spadSeen) | (with_reducible apply kp_wrW)
    | (with_reducible apply kp_startDone) | (with_reducible apply kp_setOx) | split | dsimp only | (with_reducible exact Keeps.mk (by assumption))

theorem kp_oswapRun {z : State} (i : Nat) (c : QCmd) (s : State) (hs : Keeps z s) :
    Keeps z (oswapRun i c s) := by
  unfold oswapRun
  repeat' first
    | (with_reducible assumption)
    | (extract_lets +onlyGivenNames lv; first | (have hx : Keeps z lv := ?_; generalize lv = w at hx ⊢; clear lv; rotate_left; subst lv) | (generalize lv = w; clear lv) | subst lv)
    | (with_reducible apply kp_startDone) | (with_reducible apply kp_wrW) | (with_reducible apply kp_setOx) | dsimp only

theorem kp_oxRow {z : State} (i : Nat) (ka : FKind) (kw : FKind) (ke : Nat) (n : Nat) (a : Nat) (e : Nat) (accum : Bool) (row : Nat) (st : Bool × State) (hst : Keeps z st.2) :
    Keeps z (oxRow i ka kw ke n a e accum row st).2 := by
  change KeepsP (fun y : Bool × State => y.2) z _
  unfold oxRow
  repeat' first
    | (with_reducible assumption) | intro _
    | (extract_lets +onlyGivenNames lv; first | (have hx : Keeps z lv := ?_; generalize lv = w at hx ⊢; clear lv; rotate_left; subst lv) | (have hx : KeepsP (fun y : _ × State => y.2) z lv := ?_; generalize lv = w at hx ⊢; clear lv; replace hx : Keeps z w.2 := hx; rotate_left; subst lv) | (have hx : KeepsP (fun y : State × _ => y.1) z lv := ?_; generalize lv = w at hx ⊢; clear lv; replace hx : Keeps z w.1 := hx; rotate_left; subst lv) | (have hx : KeepsP (fun y : _ × _ × State => y.2.2) z lv := ?_; generalize lv = w at hx ⊢; clear lv; replace hx : Keeps z w.2.2 := hx; rotate_left; subst lv) | (generalize lv = w; clear lv) | subst lv)
    | (with_reducible apply kp_spadSeen) | (with_reducible apply kp_recordErr) | (with_reducible apply kp_accPut) | (with_reducible apply kp_accSeen)
    | (with_reducible apply Keeps.foldl) | (with_reducible apply Keeps.foldlx) | (with_reducible apply Keeps.foldlv)
    | (with_reducible apply Keeps.foldl2) | (with_reducible apply Keeps.foldl1) | (with_reducible apply Keeps.foldl22)
    | (with_reducible apply Keeps.foldl222) | (with_reducible apply Keeps.foldl2x) | split
    | (with_reducible refine KeepsP.mk ?_; with_reducible first | assumption | apply Keeps.foldlx | apply Keeps.foldlv | apply Keeps.foldl2 | apply Keeps.foldl1 | apply Keeps.foldl22 | apply Keeps.foldl222 | apply Keeps.foldl2x)
    | (with_reducible refine KeepsP.p1 ?_) | (with_reducible refine KeepsP.p2 ?_) | (with_reducible refine KeepsP.p22 ?_)
    | (with_reducible refine Keeps.of2 (by assumption) ?_) | (with_reducible refine Keeps.of1 (by assumption) ?_)
    | (with_reducible refine Keeps.of3 (by assumption) ?_)

theorem kp_ommRun {z : State} (i : Nat) (c : QCmd) (s : State) (hs : Keeps z s) :
    Keeps z (ommRun i c s) := by
  unfold ommRun
  repeat' first
    | (with_reducible assumption) | intro _
    | (extract_lets +onlyGivenNames lv; first | (have hx : Keeps z lv := ?_; generalize lv = w at hx ⊢; clear lv; rotate_left; subst lv) | (have hx : KeepsP (fun y : _ × State => y.2) z lv := ?_; generalize lv = w at hx ⊢; clear lv; replace hx : Keeps z w.2 := hx; rotate_left; subst lv) | (have hx : KeepsP (fun y : State × _ => y.1) z lv := ?_; generalize lv = w at hx ⊢; clear lv; replace hx : Keeps z w.1 := hx; rotate_left; subst lv) | (have hx : KeepsP (fun y : _ × _ × State => y.2.2) z lv := ?_; generalize lv = w at hx ⊢; clear lv; replace hx : Keeps z w.2.2 := hx; rotate_left; subst lv) | (generalize lv = w; clear lv) | subst lv)
    | (with_reducible apply kp_badOperand) | (with_reducible apply kp_finishNow) | (with_reducible apply kp_oxRow) | (with_reducible apply kp_bump64)
    | (with_reducible apply kp_wroteOut) | (with_reducible apply Keeps.foldl) | (with_reducible apply Keeps.foldlx)
    | (with_reducible apply Keeps.foldlv) | (with_reducible apply Keeps.foldl2) | (with_reducible apply Keeps.foldl1)
    | (with_reducible apply Keeps.foldl22) | (with_reducible apply Keeps.foldl222) | (with_reducible apply Keeps.foldl2x) | split
    | (with_reducible refine KeepsP.mk ?_; with_reducible first | assumption | apply kp_oxRow | apply Keeps.foldlx | apply Keeps.foldlv | apply Keeps.foldl2 | apply Keeps.foldl1 | apply Keeps.foldl22 | apply Keeps.foldl222 | apply Keeps.foldl2x)
    | (with_reducible refine KeepsP.p1 ?_) | (with_reducible refine KeepsP.p2 ?_) | (with_reducible refine KeepsP.p22 ?_)
    | (with_reducible refine Keeps.of2 (by assumption) ?_) | (with_reducible refine Keeps.of1 (by assumption) ?_)
    | (with_reducible refine Keeps.of3 (by assumption) ?_)

theorem kp_oxRun {z : State} (i : Nat) (c : QCmd) (s : State) (hs : Keeps z s) :
    Keeps z (oxRun i c s) := by
  unfold oxRun
  repeat' first
    | (with_reducible assumption) | (with_reducible apply kp_owldRun) | (with_reducible apply kp_oswapRun) | (with_reducible apply kp_ommRun) | split
    | dsimp only | (with_reducible exact Keeps.mk (by assumption))

theorem kp_oxIssue {z : State} (i : Nat) (w : CmdWord) (s : State) (hs : Keeps z s) :
    Keeps z (oxIssue i w s) := by
  unfold oxIssue
  repeat' first
    | (with_reducible assumption) | intro _ | (with_reducible apply kp_startHead) | (with_reducible apply kp_oxRun)
    | (with_reducible apply kp_issueUnit) | dsimp only

theorem kp_execOwld {z : State} (i : Nat) (w : CmdWord) (s : State) (hs : Keeps z s) :
    KeepsR z (execOwld i w s) := by
  unfold execOwld
  repeat' first
    | (with_reducible assumption) | (with_reducible apply kp_oxIssue) | (with_reducible refine KeepsR.next ?_) | dsimp only

theorem kp_execOswap {z : State} (i : Nat) (w : CmdWord) (s : State) (hs : Keeps z s) :
    KeepsR z (execOswap i w s) := by
  unfold execOswap
  repeat' first
    | (with_reducible assumption) | (with_reducible apply kp_oxIssue) | (with_reducible refine KeepsR.next ?_) | dsimp only

theorem kp_execOmm {z : State} (i : Nat) (w : CmdWord) (s : State) (hs : Keeps z s) :
    KeepsR z (execOmm i w s) := by
  unfold execOmm
  repeat' first
    | (with_reducible assumption) | (with_reducible apply kp_oxIssue) | (with_reducible refine KeepsR.next ?_) | dsimp only

theorem kp_readVecs {z : State} (i : Nat) (c : QCmd) (g : GmvGeo) (blk : Nat) (s : State) (hs : Keeps z s) :
    Keeps z (readVecs i c g blk s).2 := by
  change KeepsP (fun y : List (List Nat × Bool) × State => y.2) z _
  unfold readVecs
  repeat' first
    | (with_reducible assumption) | intro _
    | (extract_lets +onlyGivenNames lv; first | (have hx : Keeps z lv := ?_; generalize lv = w at hx ⊢; clear lv; rotate_left; subst lv) | (have hx : KeepsP (fun y : _ × State => y.2) z lv := ?_; generalize lv = w at hx ⊢; clear lv; replace hx : Keeps z w.2 := hx; rotate_left; subst lv) | (have hx : KeepsP (fun y : State × _ => y.1) z lv := ?_; generalize lv = w at hx ⊢; clear lv; replace hx : Keeps z w.1 := hx; rotate_left; subst lv) | (have hx : KeepsP (fun y : _ × _ × State => y.2.2) z lv := ?_; generalize lv = w at hx ⊢; clear lv; replace hx : Keeps z w.2.2 := hx; rotate_left; subst lv) | (have hfn0 : ∀ y, Keeps z y → Keeps z (lv y) := ?_; generalize lv = w at hfn0 ⊢; clear lv; rotate_left; subst lv) | (have hfn1 : ∀ a y, Keeps z y → Keeps z (lv a y) := ?_; generalize lv = w at hfn1 ⊢; clear lv; rotate_left; subst lv) | (have hfn2 : ∀ a b y, Keeps z y → Keeps z (lv a b y) := ?_; generalize lv = w at hfn2 ⊢; clear lv; rotate_left; subst lv) | (have hfn3 : ∀ a b c y, Keeps z y → Keeps z (lv a b c y) := ?_; generalize lv = w at hfn3 ⊢; clear lv; rotate_left; subst lv) | (have hfn4 : ∀ y a, Keeps z y → Keeps z (lv y a) := ?_; generalize lv = w at hfn4 ⊢; clear lv; rotate_left; subst lv) | (have hfn5 : ∀ a, Keeps z (lv a) := ?_; generalize lv = w at hfn5 ⊢; clear lv; rotate_left; subst lv) | (have hfn6 : ∀ a b, Keeps z (lv a b) := ?_; generalize lv = w at hfn6 ⊢; clear lv; rotate_left; subst lv) | (have hfn7 : ∀ y a b, Keeps z y → Keeps z (lv y a b) := ?_; generalize lv = w at hfn7 ⊢; clear lv; rotate_left; subst lv) | (have hfn8 : ∀ a, KeepsR z (lv a) := ?_; generalize lv = w at hfn8 ⊢; clear lv; rotate_left; subst lv) | (have hfn9 : ∀ y, Keeps z y → KeepsC z (lv y) := ?_; generalize lv = w at hfn9 ⊢; clear lv; rotate_left; subst lv) | (have hfn10 : ∀ y, Keeps z y → KeepsR z (lv y) := ?_; generalize lv = w at hfn10 ⊢; clear lv; rotate_left; subst lv) | (have hfn11 : ∀ a y, Keeps z y → KeepsR z (lv a y) := ?_; generalize lv = w at hfn11 ⊢; clear lv; rotate_left; subst lv) | (have hfn12 : ∀ y a, Keeps z y → KeepsR z (lv y a) := ?_; generalize lv = w at hfn12 ⊢; clear lv; rotate_left; subst lv) | (generalize lv = w; clear lv) | subst lv)
    | (with_reducible apply hfn0) | (with_reducible apply hfn1) | (with_reducible apply hfn2) | (with_reducible apply hfn3)
    | (with_reducible apply hfn4) | (with_reducible apply hfn5) | (with_reducible apply hfn6) | (with_reducible apply hfn7)
    | (with_reducible apply hfn8) | (with_reducible apply hfn9) | (with_reducible apply hfn10) | (with_reducible apply hfn11)
    | (with_reducible apply hfn12) | (with_reducible apply kp_recordErr) | (with_reducible apply kp_spadSeen) | (with_reducible apply Keeps.foldl)
    | (with_reducible apply Keeps.foldlx) | (with_reducible apply Keeps.foldlv) | (with_reducible apply Keeps.foldl2)
    | (with_reducible apply Keeps.foldl1) | (with_reducible apply Keeps.foldl22) | (with_reducible apply Keeps.foldl222)
    | (with_reducible apply Keeps.foldl2x) | split
    | (with_reducible refine KeepsP.mk ?_; with_reducible first | assumption | apply Keeps.foldlx | apply Keeps.foldlv | apply Keeps.foldl2 | apply Keeps.foldl1 | apply Keeps.foldl22 | apply Keeps.foldl222 | apply Keeps.foldl2x)
    | (with_reducible refine KeepsP.p1 ?_) | (with_reducible refine KeepsP.p2 ?_) | (with_reducible refine KeepsP.p22 ?_)
    | (with_reducible refine Keeps.of2 (by assumption) ?_) | (with_reducible refine Keeps.of1 (by assumption) ?_)
    | (with_reducible refine Keeps.of3 (by assumption) ?_)

theorem kp_goatChunk {z : State} (i : Nat) (c : QCmd) (g : GmvGeo) (vec : List (List Nat × Bool)) (blk : Nat) (row : Nat) (wb : List Byte) (scale : Nat) (wbad : Bool) (s : State) (hs : Keeps z s) :
    Keeps z (goatChunk i c g vec blk row wb scale wbad s).2 := by
  change KeepsP (fun y : Bool × State => y.2) z _
  unfold goatChunk
  repeat' first
    | (with_reducible assumption) | intro _
    | (extract_lets +onlyGivenNames lv; first | (have hx : Keeps z lv := ?_; generalize lv = w at hx ⊢; clear lv; rotate_left; subst lv) | (have hx : KeepsP (fun y : _ × State => y.2) z lv := ?_; generalize lv = w at hx ⊢; clear lv; replace hx : Keeps z w.2 := hx; rotate_left; subst lv) | (have hx : KeepsP (fun y : State × _ => y.1) z lv := ?_; generalize lv = w at hx ⊢; clear lv; replace hx : Keeps z w.1 := hx; rotate_left; subst lv) | (have hx : KeepsP (fun y : _ × _ × State => y.2.2) z lv := ?_; generalize lv = w at hx ⊢; clear lv; replace hx : Keeps z w.2.2 := hx; rotate_left; subst lv) | (generalize lv = w; clear lv) | subst lv)
    | (with_reducible apply kp_accSeen) | (with_reducible apply kp_accPut) | (with_reducible apply kp_bump64)
    | (with_reducible refine Keeps.getD ?_ ?_) | (with_reducible apply Keeps.foldl) | (with_reducible apply Keeps.foldlx)
    | (with_reducible apply Keeps.foldlv) | (with_reducible apply Keeps.foldl2) | (with_reducible apply Keeps.foldl1)
    | (with_reducible apply Keeps.foldl22) | (with_reducible apply Keeps.foldl222) | (with_reducible apply Keeps.foldl2x) | split
    | (with_reducible refine KeepsP.mk ?_; with_reducible first | assumption | apply Keeps.foldlx | apply Keeps.foldlv | apply Keeps.foldl2 | apply Keeps.foldl1 | apply Keeps.foldl22 | apply Keeps.foldl222 | apply Keeps.foldl2x)
    | (with_reducible refine KeepsP.p1 ?_) | (with_reducible refine KeepsP.p2 ?_) | (with_reducible refine KeepsP.p22 ?_)
    | (with_reducible refine Keeps.of2 (by assumption) ?_) | (with_reducible refine Keeps.of1 (by assumption) ?_)
    | (with_reducible refine Keeps.of3 (by assumption) ?_)

theorem kp_goatEat {z : State} (i : Nat) (c : QCmd) (g : GmvGeo) (a3 : Nat) (a4 : GoatSt) (a5 : State) (ha5 : Keeps z a5) :
    Keeps z (goatEat i c g a3 a4 a5).2 := by
  induction a3 generalizing i c g a4 a5 with
  | zero => change KeepsP (fun y : GoatSt × State => y.2) z _; unfold goatEat; repeat' first
      | (with_reducible assumption) | intro _
      | (extract_lets +onlyGivenNames lv; first | (have hx : Keeps z lv := ?_; generalize lv = w at hx ⊢; clear lv; rotate_left; subst lv) | (have hx : KeepsP (fun y : _ × State => y.2) z lv := ?_; generalize lv = w at hx ⊢; clear lv; replace hx : Keeps z w.2 := hx; rotate_left; subst lv) | (generalize lv = w; clear lv) | subst lv)
      | (with_reducible apply kp_goatChunk) | (with_reducible apply kp_readVecs) | (with_reducible refine Keeps.getD ?_ ?_) | split
      | (with_reducible refine KeepsP.mk ?_; with_reducible first | assumption | apply kp_goatChunk | apply kp_readVecs)
      | (with_reducible refine KeepsP.p1 ?_) | (with_reducible refine KeepsP.p2 ?_) | (with_reducible refine KeepsP.p22 ?_)
      | (with_reducible refine Keeps.of2 (by assumption) ?_) | (with_reducible refine Keeps.of1 (by assumption) ?_)
      | (with_reducible refine Keeps.of3 (by assumption) ?_) | (with_reducible exact Keeps.mk (by assumption))
  | succ w ih => change KeepsP (fun y : GoatSt × State => y.2) z _; unfold goatEat; repeat' first
      | (with_reducible assumption) | intro _
      | (extract_lets +onlyGivenNames lv; first | (have hx : Keeps z lv := ?_; generalize lv = w at hx ⊢; clear lv; rotate_left; subst lv) | (have hx : KeepsP (fun y : _ × State => y.2) z lv := ?_; generalize lv = w at hx ⊢; clear lv; replace hx : Keeps z w.2 := hx; rotate_left; subst lv) | (generalize lv = w; clear lv) | subst lv)
      | (with_reducible apply ih) | (with_reducible apply kp_goatChunk) | (with_reducible apply kp_readVecs) | (with_reducible refine Keeps.getD ?_ ?_)
      | split | (with_reducible refine KeepsP.mk ?_; with_reducible first | assumption | apply ih | apply kp_goatChunk | apply kp_readVecs)
      | (with_reducible refine KeepsP.p1 ?_) | (with_reducible refine KeepsP.p2 ?_) | (with_reducible refine KeepsP.p22 ?_)
      | (with_reducible refine Keeps.of2 (by assumption) ?_) | (with_reducible refine Keeps.of1 (by assumption) ?_)
      | (with_reducible refine Keeps.of3 (by assumption) ?_) | (with_reducible exact Keeps.mk (by assumption))

theorem kp_goatShow {z : State} (i : Nat) (x : GoatSt) (s : State) (hs : Keeps z s) :
    Keeps z (goatShow i x s) := by
  unfold goatShow
  repeat' first
    | (with_reducible assumption) | (with_reducible apply kp_setF) | dsimp only

theorem kp_goatTake {z : State} (i : Nat) (bs : List Byte) (bad : List Nat) (s : State) (hs : Keeps z s) :
    Keeps z (goatTake i bs bad s) := by
  unfold goatTake
  repeat' first
    | (with_reducible assumption)
    | (extract_lets +onlyGivenNames lv; first | (have hx : Keeps z lv := ?_; generalize lv = w at hx ⊢; clear lv; rotate_left; subst lv) | (have hx : KeepsP (fun y : _ × State => y.2) z lv := ?_; generalize lv = w at hx ⊢; clear lv; replace hx : Keeps z w.2 := hx; rotate_left; subst lv) | (generalize lv = w; clear lv) | subst lv)
    | (with_reducible apply kp_goatEat) | (with_reducible apply kp_goatShow) | split
    | (with_reducible refine KeepsP.mk ?_; with_reducible first | assumption | apply kp_goatEat) | (with_reducible refine KeepsP.p2 ?_)
    | (with_reducible refine Keeps.of2 (by assumption) ?_) | dsimp only | (with_reducible exact Keeps.mk (by assumption))

theorem kp_goatEnd {z : State} (i : Nat) (status : Nat) (s : State) (hs : Keeps z s) :
    Keeps z (goatEnd i status s) := by
  unfold goatEnd
  repeat' first
    | (with_reducible assumption)
    | (extract_lets +onlyGivenNames lv; first | (have hx : Keeps z lv := ?_; generalize lv = w at hx ⊢; clear lv; rotate_left; subst lv) | (generalize lv = w; clear lv) | subst lv)
    | (with_reducible apply kp_raise) | (with_reducible apply kp_markDone) | split | dsimp only | (with_reducible exact Keeps.mk (by assumption))

end Sys2Proof.Machine
end

