-- ==== Sys2Proof/Laws/KeepsXlatCore.lean ====
section
/-! SUPPORT. What every operation of Machine/XlatCore.lean keeps. -/
set_option linter.all false

namespace Sys2Proof.Machine

theorem kp_poisonRx {z : State} (bad : List Nat) (s : State) (hs : Keeps z s) :
    Keeps z (poisonRx bad s) := by
  unfold poisonRx
  repeat' first
    | (with_reducible assumption) | (with_reducible apply kp_recordErr) | (with_reducible apply kp_raise) | (with_reducible apply kp_emit) | split

theorem kp_hbaRead {z : State} (n : Nat) (hba : Nat) (len : Nat) (s : State) (hs : Keeps z s) :
    Keeps z (hbaRead n hba len s).2.2.2 := by
  change KeepsP (fun y : Nat × List Byte × List Nat × State => y.2.2.2) z _
  unfold hbaRead
  repeat' first
    | (with_reducible assumption)
    | (extract_lets +onlyGivenNames lv; first | (have hx : Keeps z lv := ?_; generalize lv = w at hx ⊢; clear lv; rotate_left; subst lv) | (have hx : KeepsP (fun y : _ × _ × _ × State => y.2.2.2) z lv := ?_; generalize lv = w at hx ⊢; clear lv; replace hx : Keeps z w.2.2.2 := hx; rotate_left; subst lv) | (generalize lv = w; clear lv) | subst lv)
    | (with_reducible apply kp_homeRead) | (with_reducible refine KeepsP.mk ?_; with_reducible first | assumption | apply kp_homeRead)
    | (with_reducible refine KeepsP.p222 ?_) | (with_reducible refine Keeps.of4 (by assumption) ?_) | dsimp only

theorem kp_hbaWrite {z : State} (n : Nat) (hba : Nat) (bs : List Byte) (bad : List Nat) (s : State) (hs : Keeps z s) :
    Keeps z (hbaWrite n hba bs bad s).2 := by
  change KeepsP (fun y : Nat × State => y.2) z _
  unfold hbaWrite
  repeat' first
    | (with_reducible assumption)
    | (extract_lets +onlyGivenNames lv; first | (have hx : Keeps z lv := ?_; generalize lv = w at hx ⊢; clear lv; rotate_left; subst lv) | (have hx : KeepsP (fun y : _ × State => y.2) z lv := ?_; generalize lv = w at hx ⊢; clear lv; replace hx : Keeps z w.2 := hx; rotate_left; subst lv) | (generalize lv = w; clear lv) | subst lv)
    | (with_reducible apply kp_homeWrite) | (with_reducible refine KeepsP.mk ?_; with_reducible first | assumption | apply kp_homeWrite)
    | (with_reducible refine KeepsP.p2 ?_) | (with_reducible refine Keeps.of2 (by assumption) ?_) | dsimp only

theorem kp_hbaReadAll {z : State} (n : Nat) (hba : Nat) (len : Nat) (s : State) (hs : Keeps z s) :
    Keeps z (hbaReadAll n hba len s).2.2.2 := by
  change KeepsP (fun y : Nat × List Byte × List Nat × State => y.2.2.2) z _
  unfold hbaReadAll
  repeat' first
    | (with_reducible assumption) | intro _
    | (extract_lets +onlyGivenNames lv; first | (have hx : Keeps z lv := ?_; generalize lv = w at hx ⊢; clear lv; rotate_left; subst lv) | (have hx : KeepsP (fun y : _ × _ × _ × State => y.2.2.2) z lv := ?_; generalize lv = w at hx ⊢; clear lv; replace hx : Keeps z w.2.2.2 := hx; rotate_left; subst lv) | (have hx : KeepsP (fun y : _ × State => y.2) z lv := ?_; generalize lv = w at hx ⊢; clear lv; replace hx : Keeps z w.2 := hx; rotate_left; subst lv) | (have hx : KeepsP (fun y : State × _ => y.1) z lv := ?_; generalize lv = w at hx ⊢; clear lv; replace hx : Keeps z w.1 := hx; rotate_left; subst lv) | (have hx : KeepsP (fun y : _ × _ × State => y.2.2) z lv := ?_; generalize lv = w at hx ⊢; clear lv; replace hx : Keeps z w.2.2 := hx; rotate_left; subst lv) | (generalize lv = w; clear lv) | subst lv)
    | (with_reducible apply kp_hbaRead) | (with_reducible apply Keeps.foldl) | (with_reducible apply Keeps.foldlx)
    | (with_reducible apply Keeps.foldlv) | (with_reducible apply Keeps.foldl2) | (with_reducible apply Keeps.foldl1)
    | (with_reducible apply Keeps.foldl22) | (with_reducible apply Keeps.foldl222) | (with_reducible apply Keeps.foldl2x)
    | (with_reducible refine KeepsP.mk ?_; with_reducible first | assumption | apply kp_hbaRead | apply Keeps.foldlx | apply Keeps.foldlv | apply Keeps.foldl2 | apply Keeps.foldl1 | apply Keeps.foldl22 | apply Keeps.foldl222 | apply Keeps.foldl2x)
    | (with_reducible refine KeepsP.p1 ?_) | (with_reducible refine KeepsP.p2 ?_) | (with_reducible refine KeepsP.p22 ?_)
    | (with_reducible refine KeepsP.p222 ?_) | (with_reducible refine Keeps.of4 (by assumption) ?_)
    | (with_reducible refine Keeps.of2 (by assumption) ?_) | (with_reducible refine Keeps.of1 (by assumption) ?_)
    | (with_reducible refine Keeps.of3 (by assumption) ?_) | dsimp only

theorem kp_hbaWriteAll {z : State} (n : Nat) (hba : Nat) (bs : List Byte) (bad : List Nat) (s : State) (hs : Keeps z s) :
    Keeps z (hbaWriteAll n hba bs bad s).2 := by
  change KeepsP (fun y : Nat × State => y.2) z _
  unfold hbaWriteAll
  repeat' first
    | (with_reducible assumption) | intro _
    | (extract_lets +onlyGivenNames lv; first | (have hx : Keeps z lv := ?_; generalize lv = w at hx ⊢; clear lv; rotate_left; subst lv) | (have hx : KeepsP (fun y : _ × State => y.2) z lv := ?_; generalize lv = w at hx ⊢; clear lv; replace hx : Keeps z w.2 := hx; rotate_left; subst lv) | (have hx : KeepsP (fun y : State × _ => y.1) z lv := ?_; generalize lv = w at hx ⊢; clear lv; replace hx : Keeps z w.1 := hx; rotate_left; subst lv) | (have hx : KeepsP (fun y : _ × _ × State => y.2.2) z lv := ?_; generalize lv = w at hx ⊢; clear lv; replace hx : Keeps z w.2.2 := hx; rotate_left; subst lv) | (generalize lv = w; clear lv) | subst lv)
    | (with_reducible apply kp_hbaWrite) | (with_reducible apply Keeps.foldl) | (with_reducible apply Keeps.foldlx)
    | (with_reducible apply Keeps.foldlv) | (with_reducible apply Keeps.foldl2) | (with_reducible apply Keeps.foldl1)
    | (with_reducible apply Keeps.foldl22) | (with_reducible apply Keeps.foldl222) | (with_reducible apply Keeps.foldl2x)
    | (with_reducible refine KeepsP.mk ?_; with_reducible first | assumption | apply kp_hbaWrite | apply Keeps.foldlx | apply Keeps.foldlv | apply Keeps.foldl2 | apply Keeps.foldl1 | apply Keeps.foldl22 | apply Keeps.foldl222 | apply Keeps.foldl2x)
    | (with_reducible refine KeepsP.p1 ?_) | (with_reducible refine KeepsP.p2 ?_) | (with_reducible refine KeepsP.p22 ?_)
    | (with_reducible refine Keeps.of2 (by assumption) ?_) | (with_reducible refine Keeps.of1 (by assumption) ?_)
    | (with_reducible refine Keeps.of3 (by assumption) ?_) | dsimp only

theorem kp_setXl {z : State} (i : Nat) (x : XlatSt) (s : State) (hs : Keeps z s) :
    Keeps z (setXl i x s) := by
  unfold setXl
  repeat' first
    | (with_reducible assumption) | dsimp only | (with_reducible exact Keeps.mk (by assumption))

theorem kp_setHx {z : State} (n : Nat) (x : HerdX) (s : State) (hs : Keeps z s) :
    Keeps z (setHx n x s) := by
  unfold setHx
  repeat' first
    | (with_reducible assumption) | dsimp only | (with_reducible exact Keeps.mk (by assumption))

theorem kp_tlbLook {z : State} (i : Nat) (n : Nat) (va : Nat) (write : Bool) (s : State) (hs : Keeps z s) :
    Keeps z (tlbLook i n va write s).2 := by
  change KeepsP (fun y : Option TRes × State => y.2) z _
  unfold tlbLook
  repeat' first
    | (with_reducible assumption) | intro _
    | (extract_lets +onlyGivenNames lv; first | (have hx : Keeps z lv := ?_; generalize lv = w at hx ⊢; clear lv; rotate_left; subst lv) | (generalize lv = w; clear lv) | subst lv)
    | (with_reducible apply kp_setXl) | split | (with_reducible refine KeepsP.mk ?_; with_reducible first | assumption)
    | (with_reducible refine KeepsP.p1 ?_) | (with_reducible refine KeepsP.p2 ?_) | (with_reducible refine KeepsP.p22 ?_)
    | (with_reducible refine Keeps.of2 (by assumption) ?_) | (with_reducible refine Keeps.of1 (by assumption) ?_)
    | (with_reducible refine Keeps.of3 (by assumption) ?_) | (with_reducible exact Keeps.mk (by assumption))

theorem kp_setHerdF {z : State} (n : Nat) (f : Field) (v : Nat) (s : State) (hs : Keeps z s) :
    Keeps z (setHerdF n f v s) := by
  unfold setHerdF
  repeat' first
    | (with_reducible assumption) | intro _ | (with_reducible apply kp_setF) | (with_reducible apply Keeps.foldl)
    | (with_reducible apply Keeps.foldlx) | (with_reducible apply Keeps.foldlv) | (with_reducible apply Keeps.foldl2)
    | (with_reducible apply Keeps.foldl1) | (with_reducible apply Keeps.foldl22) | (with_reducible apply Keeps.foldl222)
    | (with_reducible apply Keeps.foldl2x)
    | (with_reducible refine KeepsP.mk ?_; with_reducible first | assumption | apply Keeps.foldlx | apply Keeps.foldlv | apply Keeps.foldl2 | apply Keeps.foldl1 | apply Keeps.foldl22 | apply Keeps.foldl222 | apply Keeps.foldl2x)
    | (with_reducible refine Keeps.of2 (by assumption) ?_) | (with_reducible refine Keeps.of1 (by assumption) ?_)
    | (with_reducible refine Keeps.of3 (by assumption) ?_) | dsimp only

theorem kp_tierTouch {z : State} (i : Nat) (n : Nat) (va : Nat) (s : State) (hs : Keeps z s) :
    Keeps z (tierTouch i n va s) := by
  unfold tierTouch
  repeat' first
    | (with_reducible assumption)
    | (extract_lets +onlyGivenNames lv; first | (have hx : Keeps z lv := ?_; generalize lv = w at hx ⊢; clear lv; rotate_left; subst lv) | (have hx : KeepsP (fun y : _ × State => y.2) z lv := ?_; generalize lv = w at hx ⊢; clear lv; replace hx : Keeps z w.2 := hx; rotate_left; subst lv) | (generalize lv = w; clear lv) | subst lv)
    | (with_reducible apply kp_hbaWrite) | (with_reducible apply kp_setXl) | (with_reducible apply kp_setHx) | split
    | (with_reducible refine KeepsP.mk ?_; with_reducible first | assumption | apply kp_hbaWrite) | (with_reducible refine KeepsP.p1 ?_)
    | (with_reducible refine KeepsP.p2 ?_) | (with_reducible refine KeepsP.p22 ?_) | (with_reducible refine Keeps.of2 (by assumption) ?_)
    | (with_reducible refine Keeps.of1 (by assumption) ?_) | (with_reducible refine Keeps.of3 (by assumption) ?_)
    | (with_reducible exact Keeps.mk (by assumption))

theorem kp_readEntry {z : State} (n : Nat) (host : Bool) (addr : Nat) (hs : List (Option Nat)) (s : State) (hks : Keeps z s) :
    Keeps z (readEntry n host addr hs s).2.2 := by
  change KeepsP (fun y : Option Nat × List (Option Nat) × State => y.2.2) z _
  unfold readEntry
  repeat' first
    | (with_reducible assumption)
    | (extract_lets +onlyGivenNames lv; first | (have hx : Keeps z lv := ?_; generalize lv = w at hx ⊢; clear lv; rotate_left; subst lv) | (have hx : KeepsP (fun y : _ × _ × _ × State => y.2.2.2) z lv := ?_; generalize lv = w at hx ⊢; clear lv; replace hx : Keeps z w.2.2.2 := hx; rotate_left; subst lv) | (generalize lv = w; clear lv) | subst lv)
    | (with_reducible apply kp_emit) | (with_reducible apply kp_hbaRead) | split
    | (with_reducible refine KeepsP.mk ?_; with_reducible first | assumption | apply kp_hbaRead) | (with_reducible refine KeepsP.p1 ?_)
    | (with_reducible refine KeepsP.p2 ?_) | (with_reducible refine KeepsP.p22 ?_) | (with_reducible refine KeepsP.p222 ?_)
    | (with_reducible refine Keeps.of2 (by assumption) ?_) | (with_reducible refine Keeps.of1 (by assumption) ?_)
    | (with_reducible refine Keeps.of3 (by assumption) ?_) | (with_reducible refine Keeps.of4 (by assumption) ?_)

theorem kp_walkGo {z : State} (n : Nat) (va : Nat) (write : Bool) (a3 : Nat) (a4 : Nat) (a5 : Bool) (a6 : Nat) (a7 : List (Option Nat)) (a8 : XlatSt) (a9 : State) (ha9 : Keeps z a9) :
    Keeps z (walkGo n va write a3 a4 a5 a6 a7 a8 a9).2.2 := by
  induction a3 generalizing n va write a4 a5 a6 a7 a8 a9 with
  | zero => change KeepsP (fun y : TRes × XlatSt × State => y.2.2) z _; unfold walkGo; repeat' first
      | (with_reducible assumption) | intro _
      | (extract_lets +onlyGivenNames lv; first | (have hx : Keeps z lv := ?_; generalize lv = w at hx ⊢; clear lv; rotate_left; subst lv) | (have hx : KeepsP (fun y : _ × _ × State => y.2.2) z lv := ?_; generalize lv = w at hx ⊢; clear lv; replace hx : Keeps z w.2.2 := hx; rotate_left; subst lv) | (generalize lv = w; clear lv) | subst lv)
      | (with_reducible apply kp_readEntry) | split | (with_reducible refine KeepsP.mk ?_; with_reducible first | assumption | apply kp_readEntry)
      | (with_reducible refine KeepsP.p1 ?_) | (with_reducible refine KeepsP.p2 ?_) | (with_reducible refine KeepsP.p22 ?_)
      | (with_reducible refine Keeps.of2 (by assumption) ?_) | (with_reducible refine Keeps.of1 (by assumption) ?_)
      | (with_reducible refine Keeps.of3 (by assumption) ?_) | (with_reducible exact Keeps.mk (by assumption))
  | succ w ih => change KeepsP (fun y : TRes × XlatSt × State => y.2.2) z _; unfold walkGo; repeat' first
      | (with_reducible assumption) | intro _
      | (extract_lets +onlyGivenNames lv; first | (have hx : Keeps z lv := ?_; generalize lv = w at hx ⊢; clear lv; rotate_left; subst lv) | (have hx : KeepsP (fun y : _ × _ × State => y.2.2) z lv := ?_; generalize lv = w at hx ⊢; clear lv; replace hx : Keeps z w.2.2 := hx; rotate_left; subst lv) | (generalize lv = w; clear lv) | subst lv)
      | (with_reducible apply ih) | (with_reducible apply kp_readEntry) | split
      | (with_reducible refine KeepsP.mk ?_; with_reducible first | assumption | apply ih | apply kp_readEntry) | (with_reducible refine KeepsP.p1 ?_)
      | (with_reducible refine KeepsP.p2 ?_) | (with_reducible refine KeepsP.p22 ?_) | (with_reducible refine Keeps.of2 (by assumption) ?_)
      | (with_reducible refine Keeps.of1 (by assumption) ?_) | (with_reducible refine Keeps.of3 (by assumption) ?_)
      | (with_reducible exact Keeps.mk (by assumption))

theorem kp_walk {z : State} (i : Nat) (n : Nat) (va : Nat) (write : Bool) (hs : List (Option Nat)) (x : XlatSt) (s : State) (hks : Keeps z s) :
    Keeps z (walk i n va write hs x s).2.2 := by
  change KeepsP (fun y : TRes × XlatSt × State => y.2.2) z _
  unfold walk
  repeat' first
    | (with_reducible assumption)
    | (extract_lets +onlyGivenNames lv; first | (have hx : Keeps z lv := ?_; generalize lv = w at hx ⊢; clear lv; rotate_left; subst lv) | (have hx : KeepsP (fun y : _ × _ × State => y.2.2) z lv := ?_; generalize lv = w at hx ⊢; clear lv; replace hx : Keeps z w.2.2 := hx; rotate_left; subst lv) | (generalize lv = w; clear lv) | subst lv)
    | (with_reducible apply kp_walkGo) | split | (with_reducible refine KeepsP.mk ?_; with_reducible first | assumption | apply kp_walkGo)
    | (with_reducible refine KeepsP.p1 ?_) | (with_reducible refine KeepsP.p2 ?_) | (with_reducible refine KeepsP.p22 ?_)
    | (with_reducible refine Keeps.of2 (by assumption) ?_) | (with_reducible refine Keeps.of1 (by assumption) ?_)
    | (with_reducible refine Keeps.of3 (by assumption) ?_)

theorem kp_rodWalk {z : State} (i : Nat) (n : Nat) (va : Nat) (write : Bool) (hs : List (Option Nat)) (s : State) (hks : Keeps z s) :
    Keeps z (rodWalk i n va write hs s).2 := by
  change KeepsP (fun y : TRes × State => y.2) z _
  unfold rodWalk
  repeat' first
    | (with_reducible assumption)
    | (extract_lets +onlyGivenNames lv; first | (have hx : Keeps z lv := ?_; generalize lv = w at hx ⊢; clear lv; rotate_left; subst lv) | (have hx : KeepsP (fun y : _ × _ × State => y.2.2) z lv := ?_; generalize lv = w at hx ⊢; clear lv; replace hx : Keeps z w.2.2 := hx; rotate_left; subst lv) | (generalize lv = w; clear lv) | subst lv)
    | (with_reducible apply kp_walk) | (with_reducible apply kp_setXl) | split
    | (with_reducible refine KeepsP.mk ?_; with_reducible first | assumption | apply kp_walk) | (with_reducible refine KeepsP.p1 ?_)
    | (with_reducible refine KeepsP.p2 ?_) | (with_reducible refine KeepsP.p22 ?_) | (with_reducible refine Keeps.of2 (by assumption) ?_)
    | (with_reducible refine Keeps.of1 (by assumption) ?_) | (with_reducible refine Keeps.of3 (by assumption) ?_)

theorem kp_hubDrop {z : State} (n : Nat) (s : State) (hs : Keeps z s) :
    Keeps z (hubDrop n s) := by
  unfold hubDrop
  repeat' first
    | (with_reducible assumption) | intro _ | (with_reducible exact Keeps.mk (by assumption))

theorem kp_hubPut {z : State} (n : Nat) (e : TlbE) (s : State) (hs : Keeps z s) :
    Keeps z (hubPut n e s) := by
  unfold hubPut
  repeat' first
    | (with_reducible assumption) | intro _
    | (extract_lets +onlyGivenNames lv; first | (have hx : Keeps z lv := ?_; generalize lv = w at hx ⊢; clear lv; rotate_left; subst lv) | (generalize lv = w; clear lv) | subst lv)
    | split | (with_reducible exact Keeps.mk (by assumption))

theorem kp_hubMiss {z : State} (n : Nat) (va : Nat) (write : Bool) (hs : List (Option Nat)) (s : State) (hks : Keeps z s) :
    Keeps z (hubMiss n va write hs s).2 := by
  change KeepsP (fun y : TRes × State => y.2) z _
  unfold hubMiss
  repeat' first
    | (with_reducible assumption) | intro _
    | (extract_lets +onlyGivenNames lv; first | (have hx : Keeps z lv := ?_; generalize lv = w at hx ⊢; clear lv; rotate_left; subst lv) | (have hx : KeepsP (fun y : _ × State => y.2) z lv := ?_; generalize lv = w at hx ⊢; clear lv; replace hx : Keeps z w.2 := hx; rotate_left; subst lv) | (have hx : KeepsP (fun y : State × _ => y.1) z lv := ?_; generalize lv = w at hx ⊢; clear lv; replace hx : Keeps z w.1 := hx; rotate_left; subst lv) | (have hx : KeepsP (fun y : _ × _ × State => y.2.2) z lv := ?_; generalize lv = w at hx ⊢; clear lv; replace hx : Keeps z w.2.2 := hx; rotate_left; subst lv) | (generalize lv = w; clear lv) | subst lv)
    | (with_reducible apply kp_walk) | (with_reducible apply kp_hubPut) | (with_reducible apply Keeps.foldl) | (with_reducible apply Keeps.foldlx)
    | (with_reducible apply Keeps.foldlv) | (with_reducible apply Keeps.foldl2) | (with_reducible apply Keeps.foldl1)
    | (with_reducible apply Keeps.foldl22) | (with_reducible apply Keeps.foldl222) | (with_reducible apply Keeps.foldl2x) | split
    | (with_reducible refine KeepsP.mk ?_; with_reducible first | assumption | apply kp_walk | apply Keeps.foldlx | apply Keeps.foldlv | apply Keeps.foldl2 | apply Keeps.foldl1 | apply Keeps.foldl22 | apply Keeps.foldl222 | apply Keeps.foldl2x)
    | (with_reducible refine KeepsP.p1 ?_) | (with_reducible refine KeepsP.p2 ?_) | (with_reducible refine KeepsP.p22 ?_)
    | (with_reducible refine Keeps.of2 (by assumption) ?_) | (with_reducible refine Keeps.of1 (by assumption) ?_)
    | (with_reducible refine Keeps.of3 (by assumption) ?_)

theorem kp_hubWalk {z : State} (n : Nat) (va : Nat) (write : Bool) (hs : List (Option Nat)) (s : State) (hks : Keeps z s) :
    Keeps z (hubWalk n va write hs s).2 := by
  change KeepsP (fun y : TRes × State => y.2) z _
  unfold hubWalk
  repeat' first
    | (with_reducible assumption) | intro _
    | (extract_lets +onlyGivenNames lv; first | (have hx : Keeps z lv := ?_; generalize lv = w at hx ⊢; clear lv; rotate_left; subst lv) | (have hx : KeepsP (fun y : _ × State => y.2) z lv := ?_; generalize lv = w at hx ⊢; clear lv; replace hx : Keeps z w.2 := hx; rotate_left; subst lv) | (generalize lv = w; clear lv) | subst lv)
    | (with_reducible apply kp_hubMiss) | (with_reducible apply kp_hubPut) | split
    | (with_reducible refine KeepsP.mk ?_; with_reducible first | assumption | apply kp_hubMiss) | (with_reducible refine KeepsP.p1 ?_)
    | (with_reducible refine KeepsP.p2 ?_) | (with_reducible refine KeepsP.p22 ?_) | (with_reducible refine Keeps.of2 (by assumption) ?_)
    | (with_reducible refine Keeps.of1 (by assumption) ?_) | (with_reducible refine Keeps.of3 (by assumption) ?_)
    | (with_reducible exact Keeps.mk (by assumption))

end Sys2Proof.Machine
end

