-- ==== Sys2Proof/Laws/KeepsStream.lean ====
section
/-! SUPPORT. What every operation of Machine/Stream.lean keeps. -/
set_option linter.all false

namespace Sys2Proof.Machine

theorem kp_landBytes {z : State} (i : Nat) (t : Str) (bad : List Nat) (a : Nat) (a4 : Nat) (a5 : List Byte) (a6 : State) (ha6 : Keeps z a6) :
    Keeps z (landBytes i t bad a a4 a5 a6) := by
  induction a5 generalizing i t bad a a4 a6 with
  | nil => unfold landBytes; repeat' first
    | (with_reducible assumption) | (with_reducible apply kp_spadPut) | split | dsimp only
  | cons w w1 ih => unfold landBytes; repeat' first
    | (with_reducible assumption) | (with_reducible apply ih) | (with_reducible apply kp_spadPut) | split | dsimp only

theorem kp_signalTiles {z : State} (i : Nat) (k : Nat) (a : Nat) (a3 : Nat) (a4 : State) (ha4 : Keeps z a4) :
    Keeps z (signalTiles i k a a3 a4) := by
  induction a generalizing i k a3 a4 with
  | zero => unfold signalTiles; repeat' first
    | (with_reducible assumption)
    | (extract_lets +onlyGivenNames lv; first | (have hx : Keeps z lv := ?_; generalize lv = w at hx ⊢; clear lv; rotate_left; subst lv) | (generalize lv = w; clear lv) | subst lv)
    | (with_reducible apply kp_signalTok) | (with_reducible apply kp_setStr) | split | dsimp only | (with_reducible exact Keeps.mk (by assumption))
  | succ w ih => unfold signalTiles; repeat' first
    | (with_reducible assumption)
    | (extract_lets +onlyGivenNames lv; first | (have hx : Keeps z lv := ?_; generalize lv = w at hx ⊢; clear lv; rotate_left; subst lv) | (generalize lv = w; clear lv) | subst lv)
    | (with_reducible apply ih) | (with_reducible apply kp_signalTok) | (with_reducible apply kp_setStr) | split | dsimp only
    | (with_reducible exact Keeps.mk (by assumption))

theorem kp_moved {z : State} (i : Nat) (k : Nat) (p : Nat) (s : State) (hs : Keeps z s) :
    Keeps z (moved i k p s) := by
  unfold moved
  repeat' first
    | (with_reducible assumption)
    | (extract_lets +onlyGivenNames lv; first | (have hx : Keeps z lv := ?_; generalize lv = w at hx ⊢; clear lv; rotate_left; subst lv) | (generalize lv = w; clear lv) | subst lv)
    | (with_reducible apply kp_freeReads) | (with_reducible apply kp_showDeliv) | (with_reducible apply kp_bump64) | (with_reducible apply kp_setStr)
    | (with_reducible apply kp_showPos) | (with_reducible apply kp_signalTiles) | split | (with_reducible exact Keeps.mk (by assumption))

theorem kp_feedGoat {z : State} (i : Nat) (k : Nat) (a : Nat) (a3 : State) (ha3 : Keeps z a3) :
    Keeps z (feedGoat i k a a3) := by
  induction a generalizing i k a3 with
  | zero => unfold feedGoat; repeat' first
    | (with_reducible assumption)
    | (extract_lets +onlyGivenNames lv; first | (have hx : Keeps z lv := ?_; generalize lv = w at hx ⊢; clear lv; rotate_left; subst lv) | (generalize lv = w; clear lv) | subst lv)
    | (with_reducible apply kp_moved) | (with_reducible apply kp_goatTake) | (with_reducible apply kp_setStr) | split | dsimp only
    | (with_reducible exact Keeps.mk (by assumption))
  | succ w ih => unfold feedGoat; repeat' first
    | (with_reducible assumption)
    | (extract_lets +onlyGivenNames lv; first | (have hx : Keeps z lv := ?_; generalize lv = w at hx ⊢; clear lv; rotate_left; subst lv) | (generalize lv = w; clear lv) | subst lv)
    | (with_reducible apply ih) | (with_reducible apply kp_moved) | (with_reducible apply kp_goatTake) | (with_reducible apply kp_setStr) | split
    | dsimp only | (with_reducible exact Keeps.mk (by assumption))

theorem kp_chanBegin {z : State} (i : Nat) (k : Nat) (s : State) (hs : Keeps z s) :
    Keeps z (chanBegin i k s) := by
  unfold chanBegin
  repeat' first
    | (with_reducible assumption) | intro _
    | (extract_lets +onlyGivenNames lv; first | (have hx : Keeps z lv := ?_; generalize lv = w at hx ⊢; clear lv; rotate_left; subst lv) | (generalize lv = w; clear lv) | subst lv)
    | (with_reducible apply kp_setStr) | (with_reducible apply kp_updStarted) | (with_reducible apply kp_e2eSubmit) | split
    | (with_reducible exact Keeps.mk (by assumption))

theorem kp_advance {z : State} (i : Nat) (k : Nat) (s : State) (hs : Keeps z s) :
    Keeps z (advance i k s) := by
  unfold advance
  repeat' first
    | (with_reducible assumption)
    | (extract_lets +onlyGivenNames lv; first | (have hx : Keeps z lv := ?_; generalize lv = w at hx ⊢; clear lv; rotate_left; subst lv) | (generalize lv = w; clear lv) | subst lv)
    | (with_reducible apply kp_feedGoat) | (with_reducible apply kp_chanBegin) | (with_reducible apply kp_moved) | split | dsimp only
    | (with_reducible exact Keeps.mk (by assumption))

theorem kp_sourceBytes {z : State} (i : Nat) (k : Nat) (off : Nat) (bs : List Byte) (bad : List Nat) (s : State) (hs : Keeps z s) :
    Keeps z (sourceBytes i k off bs bad s) := by
  unfold sourceBytes
  repeat' first
    | (with_reducible assumption) | intro _
    | (extract_lets +onlyGivenNames lv; first | (have hx : Keeps z lv := ?_; generalize lv = w at hx ⊢; clear lv; rotate_left; subst lv) | (generalize lv = w; clear lv) | subst lv)
    | (with_reducible apply kp_raise) | (with_reducible apply kp_setStr) | (with_reducible apply kp_advance) | (with_reducible apply kp_landBytes)
    | (with_reducible apply Keeps.foldl) | (with_reducible apply Keeps.foldlx) | (with_reducible apply Keeps.foldlv)
    | (with_reducible apply Keeps.foldl2) | (with_reducible apply Keeps.foldl1) | (with_reducible apply Keeps.foldl22)
    | (with_reducible apply Keeps.foldl222) | (with_reducible apply Keeps.foldl2x) | split | (with_reducible exact Keeps.mk (by assumption))

theorem kp_haltStream {z : State} (i : Nat) (k : Nat) (off : Nat) (va : Nat) (page : Nat) (s : State) (hs : Keeps z s) :
    Keeps z (haltStream i k off va page s) := by
  unfold haltStream
  repeat' first
    | (with_reducible assumption) | intro _
    | (extract_lets +onlyGivenNames lv; first | (have hx : Keeps z lv := ?_; generalize lv = w at hx ⊢; clear lv; rotate_left; subst lv) | (have hfn0 : ∀ y, Keeps z y → Keeps z (lv y) := ?_; generalize lv = w at hfn0 ⊢; clear lv; rotate_left; subst lv) | (have hfn1 : ∀ a y, Keeps z y → Keeps z (lv a y) := ?_; generalize lv = w at hfn1 ⊢; clear lv; rotate_left; subst lv) | (have hfn2 : ∀ a b y, Keeps z y → Keeps z (lv a b y) := ?_; generalize lv = w at hfn2 ⊢; clear lv; rotate_left; subst lv) | (have hfn3 : ∀ a b c y, Keeps z y → Keeps z (lv a b c y) := ?_; generalize lv = w at hfn3 ⊢; clear lv; rotate_left; subst lv) | (have hfn4 : ∀ y a, Keeps z y → Keeps z (lv y a) := ?_; generalize lv = w at hfn4 ⊢; clear lv; rotate_left; subst lv) | (have hfn5 : ∀ a, Keeps z (lv a) := ?_; generalize lv = w at hfn5 ⊢; clear lv; rotate_left; subst lv) | (have hfn6 : ∀ a b, Keeps z (lv a b) := ?_; generalize lv = w at hfn6 ⊢; clear lv; rotate_left; subst lv) | (have hfn7 : ∀ y a b, Keeps z y → Keeps z (lv y a b) := ?_; generalize lv = w at hfn7 ⊢; clear lv; rotate_left; subst lv) | (have hfn8 : ∀ a, KeepsR z (lv a) := ?_; generalize lv = w at hfn8 ⊢; clear lv; rotate_left; subst lv) | (have hfn9 : ∀ y, Keeps z y → KeepsC z (lv y) := ?_; generalize lv = w at hfn9 ⊢; clear lv; rotate_left; subst lv) | (have hfn10 : ∀ y, Keeps z y → KeepsR z (lv y) := ?_; generalize lv = w at hfn10 ⊢; clear lv; rotate_left; subst lv) | (have hfn11 : ∀ a y, Keeps z y → KeepsR z (lv a y) := ?_; generalize lv = w at hfn11 ⊢; clear lv; rotate_left; subst lv) | (have hfn12 : ∀ y a, Keeps z y → KeepsR z (lv y a) := ?_; generalize lv = w at hfn12 ⊢; clear lv; rotate_left; subst lv) | (generalize lv = w; clear lv) | subst lv)
    | (with_reducible apply hfn0) | (with_reducible apply hfn1) | (with_reducible apply hfn2) | (with_reducible apply hfn3)
    | (with_reducible apply hfn4) | (with_reducible apply hfn5) | (with_reducible apply hfn6) | (with_reducible apply hfn7)
    | (with_reducible apply hfn8) | (with_reducible apply hfn9) | (with_reducible apply hfn10) | (with_reducible apply hfn11)
    | (with_reducible apply hfn12) | (with_reducible apply kp_orphanReqs) | (with_reducible apply kp_setStr) | (with_reducible apply kp_freeReads)
    | (with_reducible apply kp_wrW) | (with_reducible apply kp_showPos) | (with_reducible apply kp_setF) | (with_reducible apply kp_raise)
    | (with_reducible apply kp_bump) | split | (with_reducible exact Keeps.mk (by assumption))

theorem kp_resumeStream {z : State} (i : Nat) (k : Nat) (page : Nat) (s : State) (hs : Keeps z s) :
    Keeps z (resumeStream i k page s) := by
  unfold resumeStream
  repeat' first
    | (with_reducible assumption)
    | (extract_lets +onlyGivenNames lv; first | (have hx : Keeps z lv := ?_; generalize lv = w at hx ⊢; clear lv; rotate_left; subst lv) | (generalize lv = w; clear lv) | subst lv)
    | (with_reducible apply kp_raise) | (with_reducible apply kp_setF) | (with_reducible apply kp_setStr) | split | dsimp only
    | (with_reducible exact Keeps.mk (by assumption))

theorem kp_failStream {z : State} (i : Nat) (k : Nat) (page : Nat) (s : State) (hs : Keeps z s) :
    Keeps z (failStream i k page s) := by
  unfold failStream
  repeat' first
    | (with_reducible assumption) | (with_reducible apply kp_setStr) | split | dsimp only | (with_reducible exact Keeps.mk (by assumption))

theorem kp_showFaults {z : State} (i : Nat) (s : State) (hs : Keeps z s) :
    Keeps z (showFaults i s) := by
  unfold showFaults
  repeat' first
    | (with_reducible assumption) | (with_reducible apply kp_setF) | dsimp only

theorem kp_openFault {z : State} (i : Nat) (n : Nat) (va : Nat) (write : Bool) (cause : Nat) (level : Nat) (piece : Nat) (entry : Nat) (s : State) (hs : Keeps z s) :
    Keeps z (openFault i n va write cause level piece entry s) := by
  unfold openFault
  repeat' first
    | (with_reducible assumption) | intro _
    | (extract_lets +onlyGivenNames lv; first | (have hx : Keeps z lv := ?_; generalize lv = w at hx ⊢; clear lv; rotate_left; subst lv) | (generalize lv = w; clear lv) | subst lv)
    | (with_reducible apply kp_setXl) | (with_reducible apply kp_raise) | (with_reducible apply kp_showFaults) | (with_reducible apply kp_bump)
    | (with_reducible apply kp_sendItemAs) | split | (with_reducible exact Keeps.mk (by assumption))

theorem kp_xlatError {z : State} (i : Nat) (cause : Nat) (level : Nat) (s : State) (hs : Keeps z s) :
    Keeps z (xlatError i cause level s) := by
  unfold xlatError
  repeat' first
    | (with_reducible assumption)
    | (extract_lets +onlyGivenNames lv; first | (have hx : Keeps z lv := ?_; generalize lv = w at hx ⊢; clear lv; rotate_left; subst lv) | (generalize lv = w; clear lv) | subst lv)
    | (with_reducible apply kp_recordCE) | (with_reducible apply kp_recordErr) | split | dsimp only | (with_reducible exact Keeps.mk (by assumption))

theorem kp_dropReq {z : State} (id : Nat) (i : Nat) (s : State) (hs : Keeps z s) :
    Keeps z (dropReq id i s) := by
  unfold dropReq
  repeat' first
    | (with_reducible assumption) | (with_reducible apply kp_showReqs) | dsimp only [id] | (with_reducible exact Keeps.mk (by assumption))

theorem kp_showNpr {z : State} (s : State) (hs : Keeps z s) :
    Keeps z (showNpr s) := by
  unfold showNpr
  repeat' first
    | (with_reducible assumption)
    | (extract_lets +onlyGivenNames lv; first | (have hx : Keeps z lv := ?_; generalize lv = w at hx ⊢; clear lv; rotate_left; subst lv) | (generalize lv = w; clear lv) | subst lv)
    | (with_reducible apply kp_setF) | dsimp only

theorem kp_hostGo {z : State} (r : PReq) (fn : Nat) (a : Nat) (s : State) (hs : Keeps z s) :
    Keeps z (hostGo r fn a s) := by
  unfold hostGo
  repeat' first
    | (with_reducible assumption) | intro _
    | (extract_lets +onlyGivenNames lv; first | (have hx : Keeps z lv := ?_; generalize lv = w at hx ⊢; clear lv; rotate_left; subst lv) | (generalize lv = w; clear lv) | subst lv)
    | (with_reducible apply kp_updReq) | (with_reducible apply kp_emit) | (with_reducible apply kp_showNpr) | split | dsimp only [id]
    | (with_reducible exact Keeps.mk (by assumption))

theorem kp_launchHost {z : State} (r : PReq) (fn : Nat) (a : Nat) (s : State) (hs : Keeps z s) :
    Keeps z (launchHost r fn a s) := by
  unfold launchHost
  repeat' first
    | (with_reducible assumption) | intro _
    | (extract_lets +onlyGivenNames lv; first | (have hx : Keeps z lv := ?_; generalize lv = w at hx ⊢; clear lv; rotate_left; subst lv) | (generalize lv = w; clear lv) | subst lv)
    | (with_reducible apply kp_updReq) | (with_reducible apply kp_hostGo) | (with_reducible apply kp_emit) | split | dsimp only [id]
    | (with_reducible exact Keeps.mk (by assumption))

theorem kp_launchReq {z : State} (r : PReq) (t : Target) (s : State) (hs : Keeps z s) :
    Keeps z (launchReq r t s) := by
  unfold launchReq
  repeat' first
    | (with_reducible assumption) | intro _
    | (extract_lets +onlyGivenNames lv; first | (have hx : Keeps z lv := ?_; generalize lv = w at hx ⊢; clear lv; rotate_left; subst lv) | (generalize lv = w; clear lv) | subst lv)
    | (with_reducible apply kp_updReq) | (with_reducible apply kp_launchHost) | (with_reducible apply kp_e2eSubmit)
    | (with_reducible refine Keeps.getD ?_ ?_) | split | dsimp only [id] | (with_reducible exact Keeps.mk (by assumption))

theorem kp_resolveReq {z : State} (r : PReq) (n : Nat) (res : TRes) (s : State) (hs : Keeps z s) :
    Keeps z (resolveReq r n res s) := by
  unfold resolveReq
  repeat' first
    | (with_reducible assumption) | intro _
    | (extract_lets +onlyGivenNames lv; first | (have hx : Keeps z lv := ?_; generalize lv = w at hx ⊢; clear lv; rotate_left; subst lv) | (generalize lv = w; clear lv) | subst lv)
    | (with_reducible apply kp_launchReq) | (with_reducible apply kp_tierTouch) | (with_reducible apply kp_dropReq)
    | (with_reducible apply kp_haltStream) | (with_reducible apply kp_updReq) | (with_reducible apply kp_xlatError)
    | (with_reducible apply kp_openFault) | split | dsimp only [id] | (with_reducible exact Keeps.mk (by assumption))

theorem kp_kvFaultEnds {z : State} (i : Nat) (page : Nat) (fail : Bool) (s : State) (hs : Keeps z s) :
    Keeps z (kvFaultEnds i page fail s) := by
  unfold kvFaultEnds
  repeat' first
    | (with_reducible assumption)
    | (extract_lets +onlyGivenNames lv; first | (have hx : Keeps z lv := ?_; generalize lv = w at hx ⊢; clear lv; rotate_left; subst lv) | (generalize lv = w; clear lv) | subst lv)
    | (with_reducible apply kp_setSeq) | split | dsimp only | (with_reducible exact Keeps.mk (by assumption))

theorem kp_failWaiting {z : State} (i : Nat) (page : Nat) (s : State) (hs : Keeps z s) :
    Keeps z (failWaiting i page s) := by
  unfold failWaiting
  repeat' first
    | (with_reducible assumption) | intro _ | split | (with_reducible exact Keeps.mk (by assumption))

theorem kp_closeFault {z : State} (i : Nat) (f : XFault) (fail : Bool) (s : State) (hs : Keeps z s) :
    Keeps z (closeFault i f fail s) := by
  unfold closeFault
  repeat' first
    | (with_reducible assumption) | intro _
    | (extract_lets +onlyGivenNames lv; first | (have hx : Keeps z lv := ?_; generalize lv = w at hx ⊢; clear lv; rotate_left; subst lv) | (have hfn0 : ∀ y, Keeps z y → Keeps z (lv y) := ?_; generalize lv = w at hfn0 ⊢; clear lv; rotate_left; subst lv) | (have hfn1 : ∀ a y, Keeps z y → Keeps z (lv a y) := ?_; generalize lv = w at hfn1 ⊢; clear lv; rotate_left; subst lv) | (have hfn2 : ∀ a b y, Keeps z y → Keeps z (lv a b y) := ?_; generalize lv = w at hfn2 ⊢; clear lv; rotate_left; subst lv) | (have hfn3 : ∀ a b c y, Keeps z y → Keeps z (lv a b c y) := ?_; generalize lv = w at hfn3 ⊢; clear lv; rotate_left; subst lv) | (have hfn4 : ∀ y a, Keeps z y → Keeps z (lv y a) := ?_; generalize lv = w at hfn4 ⊢; clear lv; rotate_left; subst lv) | (have hfn5 : ∀ a, Keeps z (lv a) := ?_; generalize lv = w at hfn5 ⊢; clear lv; rotate_left; subst lv) | (have hfn6 : ∀ a b, Keeps z (lv a b) := ?_; generalize lv = w at hfn6 ⊢; clear lv; rotate_left; subst lv) | (have hfn7 : ∀ y a b, Keeps z y → Keeps z (lv y a b) := ?_; generalize lv = w at hfn7 ⊢; clear lv; rotate_left; subst lv) | (have hfn8 : ∀ a, KeepsR z (lv a) := ?_; generalize lv = w at hfn8 ⊢; clear lv; rotate_left; subst lv) | (have hfn9 : ∀ y, Keeps z y → KeepsC z (lv y) := ?_; generalize lv = w at hfn9 ⊢; clear lv; rotate_left; subst lv) | (have hfn10 : ∀ y, Keeps z y → KeepsR z (lv y) := ?_; generalize lv = w at hfn10 ⊢; clear lv; rotate_left; subst lv) | (have hfn11 : ∀ a y, Keeps z y → KeepsR z (lv a y) := ?_; generalize lv = w at hfn11 ⊢; clear lv; rotate_left; subst lv) | (have hfn12 : ∀ y a, Keeps z y → KeepsR z (lv y a) := ?_; generalize lv = w at hfn12 ⊢; clear lv; rotate_left; subst lv) | (generalize lv = w; clear lv) | subst lv)
    | (with_reducible apply hfn0) | (with_reducible apply hfn1) | (with_reducible apply hfn2) | (with_reducible apply hfn3)
    | (with_reducible apply hfn4) | (with_reducible apply hfn5) | (with_reducible apply hfn6) | (with_reducible apply hfn7)
    | (with_reducible apply hfn8) | (with_reducible apply hfn9) | (with_reducible apply hfn10) | (with_reducible apply hfn11)
    | (with_reducible apply hfn12) | (with_reducible apply kp_showFaults) | (with_reducible apply kp_setXl) | (with_reducible apply kp_failWaiting)
    | (with_reducible apply kp_kvFaultEnds) | (with_reducible apply kp_failStream) | (with_reducible apply kp_resumeStream)
    | (with_reducible apply Keeps.foldl) | (with_reducible apply Keeps.foldlx) | (with_reducible apply Keeps.foldlv)
    | (with_reducible apply Keeps.foldl2) | (with_reducible apply Keeps.foldl1) | (with_reducible apply Keeps.foldl22)
    | (with_reducible apply Keeps.foldl222) | (with_reducible apply Keeps.foldl2x) | split | (with_reducible exact Keeps.mk (by assumption))

theorem kp_lookedUp {z : State} (r : PReq) (n : Nat) (x : Option TRes × State) (hx : Keeps z x.2) : Keeps z (lookedUp r n x) := by
  unfold lookedUp
  split
  · exact kp_resolveReq _ _ _ _ hx
  · exact hx

theorem kp_makeReq {z : State} (i : Nat) (k : Nat) (num : Nat) (off : Nat) (va : Nat) (len : Nat) (write : Bool) (bs : List Byte) (bad : List Nat) (s : State) (hs : Keeps z s) :
    Keeps z (makeReq i k num off va len write bs bad s) :=
  kp_lookedUp _ _ _ (kp_tlbLook _ _ _ _ _ (kp_showReqs _ _ (Keeps.mk hs)))

theorem kp_descPoison {z : State} (i : Nat) (k : Nat) (t : Str) (s : State) (hs : Keeps z s) :
    Keeps z (descPoison i k t s) := by
  unfold descPoison
  repeat' first
    | (with_reducible assumption) | (with_reducible apply kp_recordErr) | (with_reducible apply kp_setStr)
    | (with_reducible exact Keeps.mk (by assumption))

theorem kp_readEntries {z : State} (i : Nat) (k : Nat) (b : Nat) (a3 : Nat) (a4 : State) (ha4 : Keeps z a4) :
    Keeps z (readEntries i k b a3 a4) := by
  induction a3 generalizing i k b a4 with
  | zero => unfold readEntries; repeat' first
      | (with_reducible assumption) | intro _
      | (extract_lets +onlyGivenNames lv; first | (have hx : Keeps z lv := ?_; generalize lv = w at hx ⊢; clear lv; rotate_left; subst lv) | (generalize lv = w; clear lv) | subst lv)
      | (with_reducible apply kp_spadSeen) | (with_reducible apply kp_descPoison) | (with_reducible apply kp_setStr)
      | (with_reducible refine Keeps.getD ?_ ?_) | (with_reducible apply Keeps.foldl) | (with_reducible apply Keeps.foldlx)
      | (with_reducible apply Keeps.foldlv) | (with_reducible apply Keeps.foldl2) | (with_reducible apply Keeps.foldl1)
      | (with_reducible apply Keeps.foldl22) | (with_reducible apply Keeps.foldl222) | (with_reducible apply Keeps.foldl2x) | split
      | (with_reducible exact Keeps.mk (by assumption))
  | succ w ih => unfold readEntries; repeat' first
      | (with_reducible assumption) | intro _
      | (extract_lets +onlyGivenNames lv; first | (have hx : Keeps z lv := ?_; generalize lv = w at hx ⊢; clear lv; rotate_left; subst lv) | (generalize lv = w; clear lv) | subst lv)
      | (with_reducible apply ih) | (with_reducible apply kp_spadSeen) | (with_reducible apply kp_descPoison) | (with_reducible apply kp_setStr)
      | (with_reducible refine Keeps.getD ?_ ?_) | (with_reducible apply Keeps.foldl) | (with_reducible apply Keeps.foldlx)
      | (with_reducible apply Keeps.foldlv) | (with_reducible apply Keeps.foldl2) | (with_reducible apply Keeps.foldl1)
      | (with_reducible apply Keeps.foldl22) | (with_reducible apply Keeps.foldl222) | (with_reducible apply Keeps.foldl2x) | split
      | (with_reducible exact Keeps.mk (by assumption))

theorem kp_readStep {z : State} (i : Nat) (k : Nat) (s : State) (hs : Keeps z s) :
    Keeps z (readStep i k s) := by
  unfold readStep
  repeat' first
    | (with_reducible assumption)
    | (extract_lets +onlyGivenNames lv; first | (have hx : Keeps z lv := ?_; generalize lv = w at hx ⊢; clear lv; rotate_left; subst lv) | (generalize lv = w; clear lv) | subst lv)
    | (with_reducible apply kp_moved) | (with_reducible apply kp_makeReq) | (with_reducible apply kp_setStr) | (with_reducible apply kp_spadSeen)
    | (with_reducible apply kp_signalTiles) | (with_reducible apply kp_sourceBytes) | split | (with_reducible exact Keeps.mk (by assumption))

theorem kp_writeStep {z : State} (i : Nat) (k : Nat) (s : State) (hs : Keeps z s) :
    KeepsO z (writeStep i k s) := by
  unfold writeStep
  repeat' first
    | (with_reducible assumption) | intro _
    | (extract_lets +onlyGivenNames lv; first | (have hx : Keeps z lv := ?_; generalize lv = w at hx ⊢; clear lv; rotate_left; subst lv) | (generalize lv = w; clear lv) | subst lv)
    | (with_reducible refine KeepsO.some ?_) | (with_reducible exact KeepsO.none) | (with_reducible apply kp_makeReq)
    | (with_reducible apply kp_setStr) | split | (with_reducible exact Keeps.mk (by assumption))

theorem kp_drainSignal {z : State} (i : Nat) (k : Nat) (s : State) (hs : Keeps z s) :
    Keeps z (drainSignal i k s) := by
  unfold drainSignal
  repeat' first
    | (with_reducible assumption) | (with_reducible apply kp_signalTiles) | split

theorem kp_execStreamRequestIssue {z : State} (i : Nat) (k : Nat) (s : State) (hs : Keeps z s) :
    KeepsR z (execStreamRequestIssue i k s) := by
  unfold execStreamRequestIssue
  repeat' first
    | (with_reducible assumption)
    | (extract_lets +onlyGivenNames lv; first | (have hx : Keeps z lv := ?_; generalize lv = w at hx ⊢; clear lv; rotate_left; subst lv) | (generalize lv = w; clear lv) | subst lv)
    | (with_reducible refine KeepsR.next ?_) | (with_reducible apply kp_drainSignal) | (with_reducible apply kp_readEntries)
    | (with_reducible apply kp_readStep) | (with_reducible apply kp_setSeq) | (with_reducible apply kp_writeStep)
    | (with_reducible refine Keeps.getD ?_ ?_) | split | (with_reducible exact Keeps.mk (by assumption))

theorem kp_respond {z : State} (r : PReq) (i : Nat) (k : Nat) (off : Nat) (s : State) (hs : Keeps z s) :
    Keeps z (respond r i k off s) := by
  unfold respond
  repeat' first
    | (with_reducible assumption)
    | (extract_lets +onlyGivenNames lv; first | (have hx : Keeps z lv := ?_; generalize lv = w at hx ⊢; clear lv; rotate_left; subst lv) | (have hv : KeepsP (fun y : _ × Kx => y.2.s) z lv := ?_; obtain ⟨w, e, hx⟩ : ∃ w, w = lv ∧ KeepsP (fun y : _ × Kx => y.2.s) z w := ⟨lv, rfl, hv⟩; try rw [← e]; clear e hv lv; replace hx : Keeps z w.2.s := hx; rotate_left; subst lv) | (have hv : KeepsP (fun y : Kx => y.s) z lv := ?_; obtain ⟨w, e, hx⟩ : ∃ w, w = lv ∧ KeepsP (fun y : Kx => y.s) z w := ⟨lv, rfl, hv⟩; try rw [← e]; clear e hv lv; replace hx : Keeps z w.s := hx; rotate_left; subst lv) | (have hv : KeepsP (fun y : VIo => y.s) z lv := ?_; obtain ⟨w, e, hx⟩ : ∃ w, w = lv ∧ KeepsP (fun y : VIo => y.s) z w := ⟨lv, rfl, hv⟩; try rw [← e]; clear e hv lv; replace hx : Keeps z w.s := hx; rotate_left; subst lv) | (have hv : KeepsP (fun y : EncIn => y.io.s) z lv := ?_; obtain ⟨w, e, hx⟩ : ∃ w, w = lv ∧ KeepsP (fun y : EncIn => y.io.s) z w := ⟨lv, rfl, hv⟩; try rw [← e]; clear e hv lv; replace hx : Keeps z w.io.s := hx; rotate_left; subst lv) | (have hv : KeepsP (fun y : VIo × _ => y.1.s) z lv := ?_; obtain ⟨w, e, hx⟩ : ∃ w, w = lv ∧ KeepsP (fun y : VIo × _ => y.1.s) z w := ⟨lv, rfl, hv⟩; try rw [← e]; clear e hv lv; replace hx : Keeps z w.1.s := hx; rotate_left; subst lv) | (generalize lv = w; clear lv) | subst lv)
    | (with_reducible apply kp_freeReads) | (with_reducible apply kp_advance) | (with_reducible apply kp_setStr) | (with_reducible apply kp_raise)
    | (with_reducible apply kp_sourceBytes) | (with_reducible apply kp_recordCE) | (with_reducible apply kp_Kx_status) | split
    | (with_reducible refine KeepsP.mk ?_; with_reducible first | assumption | apply kp_Kx_status) | (with_reducible refine KeepsP.p1 ?_)
    | (with_reducible refine KeepsP.p2 ?_) | (with_reducible refine KeepsP.p22 ?_) | (with_reducible refine KeepsP.kx ?_)
    | (with_reducible refine KeepsP.p2x ?_) | (with_reducible refine Keeps.of2x (by assumption) ?_) | (with_reducible refine KeepsP.vio1 ?_)
    | (with_reducible refine KeepsP.encin ?_) | (with_reducible refine KeepsP.vio ?_) | (with_reducible refine Keeps.of1v (by assumption) ?_)
    | (with_reducible refine Keeps.of2 (by assumption) ?_) | (with_reducible refine Keeps.of1 (by assumption) ?_)
    | (with_reducible refine Keeps.of3 (by assumption) ?_) | (with_reducible exact Keeps.mk (by assumption))

theorem kp_execStreamPageResponse {z : State} (id : Nat) (late : Bool) (s : State) (hs : Keeps z s) :
    KeepsR z (execStreamPageResponse id late s) := by
  unfold execStreamPageResponse
  repeat' first
    | (with_reducible assumption) | intro _
    | (extract_lets +onlyGivenNames lv; first | (have hx : Keeps z lv := ?_; generalize lv = w at hx ⊢; clear lv; rotate_left; subst lv) | (generalize lv = w; clear lv) | subst lv)
    | (with_reducible refine KeepsR.next ?_) | (with_reducible apply kp_freeReads) | (with_reducible apply kp_respond)
    | (with_reducible apply kp_updReq) | (with_reducible apply kp_dropReq) | (with_reducible apply kp_waitTill)
    | (with_reducible apply kp_recordWith) | split | dsimp only [id] | (with_reducible exact Keeps.mk (by assumption))

theorem kp_bindGmv {z : State} (i : Nat) (k : Nat) (num : Nat) (s : State) (hs : Keeps z s) :
    Keeps z (bindGmv i k num s) := by
  unfold bindGmv
  repeat' first
    | (with_reducible assumption)
    | (extract_lets +onlyGivenNames lv; first | (have hx : Keeps z lv := ?_; generalize lv = w at hx ⊢; clear lv; rotate_left; subst lv) | (have hx : KeepsP (fun y : _ × State => y.2) z lv := ?_; generalize lv = w at hx ⊢; clear lv; replace hx : Keeps z w.2 := hx; rotate_left; subst lv) | (generalize lv = w; clear lv) | subst lv)
    | (with_reducible apply kp_readVecs) | (with_reducible apply kp_setStr) | (with_reducible apply kp_advance) | (with_reducible apply kp_goatShow)
    | (with_reducible apply kp_setF) | split | (with_reducible refine KeepsP.mk ?_; with_reducible first | assumption | apply kp_readVecs)
    | (with_reducible refine KeepsP.p1 ?_) | (with_reducible refine KeepsP.p2 ?_) | (with_reducible refine KeepsP.p22 ?_)
    | (with_reducible refine Keeps.of2 (by assumption) ?_) | (with_reducible refine Keeps.of1 (by assumption) ?_)
    | (with_reducible refine Keeps.of3 (by assumption) ?_) | (with_reducible exact Keeps.mk (by assumption))

theorem kp_meetGmv {z : State} (i : Nat) (k : Nat) (snk : Nat) (empty : Bool) (s : State) (hs : Keeps z s) :
    Keeps z (meetGmv i k snk empty s) := by
  unfold meetGmv
  repeat' first
    | (with_reducible assumption) | (with_reducible apply kp_markDone) | (with_reducible apply kp_raise) | (with_reducible apply kp_bindGmv) | split

theorem kp_gmvRun {z : State} (i : Nat) (c : QCmd) (s : State) (hs : Keeps z s) :
    Keeps z (gmvRun i c s) := by
  unfold gmvRun
  repeat' first
    | (with_reducible assumption)
    | (extract_lets +onlyGivenNames lv; first | (have hx : Keeps z lv := ?_; generalize lv = w at hx ⊢; clear lv; rotate_left; subst lv) | (generalize lv = w; clear lv) | subst lv)
    | (with_reducible apply kp_badOperand) | (with_reducible apply kp_setF) | (with_reducible apply kp_addStarted) | (with_reducible apply kp_bindGmv)
    | split | dsimp only | (with_reducible exact Keeps.mk (by assumption))

theorem kp_execGmv {z : State} (i : Nat) (w : CmdWord) (s : State) (hs : Keeps z s) :
    KeepsR z (execGmv i w s) := by
  unfold execGmv
  repeat' first
    | (with_reducible assumption) | intro _ | (with_reducible apply kp_startHead) | (with_reducible apply kp_gmvRun)
    | (with_reducible apply kp_issueUnit) | (with_reducible refine KeepsR.next ?_) | dsimp only

theorem kp_srunRun {z : State} (i : Nat) (c : QCmd) (s : State) (hs : Keeps z s) :
    Keeps z (srunRun i c s) := by
  unfold srunRun
  repeat' first
    | (with_reducible assumption) | intro _
    | (extract_lets +onlyGivenNames lv; first | (have hx : Keeps z lv := ?_; generalize lv = w at hx ⊢; clear lv; rotate_left; subst lv) | (generalize lv = w; clear lv) | subst lv)
    | (with_reducible apply kp_finish) | (with_reducible apply kp_spadSeen) | (with_reducible apply kp_recordErr) | (with_reducible apply kp_setF)
    | (with_reducible apply kp_spadWrite) | (with_reducible apply kp_showDeliv) | (with_reducible apply kp_showPos)
    | (with_reducible apply kp_meetGmv) | (with_reducible apply kp_setStr) | (with_reducible apply kp_addStarted) | split

theorem kp_scredRun {z : State} (i : Nat) (c : QCmd) (s : State) (hs : Keeps z s) :
    Keeps z (scredRun i c s) := by
  unfold scredRun
  repeat' first
    | (with_reducible assumption)
    | (extract_lets +onlyGivenNames lv; first | (have hx : Keeps z lv := ?_; generalize lv = w at hx ⊢; clear lv; rotate_left; subst lv) | (generalize lv = w; clear lv) | subst lv)
    | (with_reducible apply kp_setStr) | (with_reducible apply kp_showPos) | (with_reducible apply kp_raise) | (with_reducible apply kp_finish)
    | split | (with_reducible exact Keeps.mk (by assumption))

theorem kp_sflushRun {z : State} (i : Nat) (c : QCmd) (s : State) (hs : Keeps z s) :
    Keeps z (sflushRun i c s) := by
  unfold sflushRun
  repeat' first
    | (with_reducible assumption)
    | (extract_lets +onlyGivenNames lv; first | (have hx : Keeps z lv := ?_; generalize lv = w at hx ⊢; clear lv; rotate_left; subst lv) | (generalize lv = w; clear lv) | subst lv)
    | (with_reducible apply kp_finish) | (with_reducible apply kp_addStarted) | (with_reducible apply kp_setStr)
    | (with_reducible apply kp_startDone) | (with_reducible apply kp_endStream) | split | (with_reducible exact Keeps.mk (by assumption))

theorem kp_strmRun {z : State} (i : Nat) (c : QCmd) (s : State) (hs : Keeps z s) :
    Keeps z (strmRun i c s) := by
  unfold strmRun
  repeat' first
    | (with_reducible assumption) | (with_reducible apply kp_srunRun) | (with_reducible apply kp_scredRun) | (with_reducible apply kp_sflushRun)
    | (with_reducible apply kp_finish) | split | dsimp only | (with_reducible exact Keeps.mk (by assumption))

theorem kp_strmIssue {z : State} (i : Nat) (w : CmdWord) (s : State) (hs : Keeps z s) :
    Keeps z (strmIssue i w s) := by
  unfold strmIssue
  repeat' first
    | (with_reducible assumption) | intro _ | (with_reducible apply kp_startHead) | (with_reducible apply kp_strmRun)
    | (with_reducible apply kp_issueUnit) | dsimp only

theorem kp_execSrun {z : State} (i : Nat) (w : CmdWord) (s : State) (hs : Keeps z s) :
    KeepsR z (execSrun i w s) := by
  unfold execSrun
  repeat' first
    | (with_reducible assumption) | (with_reducible apply kp_strmIssue) | (with_reducible refine KeepsR.next ?_) | dsimp only

theorem kp_execScred {z : State} (i : Nat) (w : CmdWord) (s : State) (hs : Keeps z s) :
    KeepsR z (execScred i w s) := by
  unfold execScred
  repeat' first
    | (with_reducible assumption) | (with_reducible apply kp_strmIssue) | (with_reducible refine KeepsR.next ?_) | dsimp only

theorem kp_execSflush {z : State} (i : Nat) (w : CmdWord) (s : State) (hs : Keeps z s) :
    KeepsR z (execSflush i w s) := by
  unfold execSflush
  repeat' first
    | (with_reducible assumption) | (with_reducible apply kp_strmIssue) | (with_reducible refine KeepsR.next ?_) | dsimp only

theorem kp_execSstat {z : State} (i : Nat) (w : CmdWord) (s : State) (hs : Keeps z s) :
    KeepsR z (execSstat i w s) := by
  unfold execSstat
  repeat' first
    | (with_reducible assumption) | (with_reducible apply kp_strmIssue) | (with_reducible refine KeepsR.next ?_) | dsimp only

theorem kp_finishStream {z : State} (i : Nat) (k : Nat) (st : Nat) (s : State) (hs : Keeps z s) :
    Keeps z (finishStream i k st s) := by
  unfold finishStream
  repeat' first
    | (with_reducible assumption)
    | (extract_lets +onlyGivenNames lv; first | (have hx : Keeps z lv := ?_; generalize lv = w at hx ⊢; clear lv; rotate_left; subst lv) | (generalize lv = w; clear lv) | subst lv)
    | (with_reducible apply kp_endStream) | (with_reducible apply kp_goatEnd) | (with_reducible apply kp_setSeq) | split | dsimp only
    | (with_reducible exact Keeps.mk (by assumption))

theorem kp_execStreamEnd {z : State} (i : Nat) (k : Nat) (s : State) (hs : Keeps z s) :
    KeepsR z (execStreamEnd i k s) := by
  unfold execStreamEnd
  repeat' first
    | (with_reducible assumption) | (with_reducible apply kp_completeNum) | (with_reducible apply kp_finishStream) | split
    | (with_reducible refine KeepsR.next ?_) | dsimp only | (with_reducible exact Keeps.mk (by assumption))

theorem kp_execStrmCtlWrite {z : State} (fn : Nat) (i : Nat) (v : Nat) (s : State) (hs : Keeps z s) :
    KeepsR z (execStrmCtlWrite fn i v s) := by
  unfold execStrmCtlWrite
  repeat' first
    | (with_reducible assumption) | intro _ | (with_reducible apply kp_barWrite) | (with_reducible apply kp_writeReg)
    | (with_reducible refine KeepsR.next ?_) | dsimp only

end Sys2Proof.Machine
end

