-- ==== Sys2Proof/Laws/KeepsBeadRows.lean ====
section
/-! SUPPORT. What every operation of Machine/BeadRows.lean keeps. -/
set_option linter.all false

namespace Sys2Proof.Machine

theorem kp_beginWait {z : State} (i : Nat) (id : Nat) (s : State) (hs : Keeps z s) :
    Keeps z (beginWait i id s) := by
  unfold beginWait
  repeat' first
    | (with_reducible assumption) | intro _
    | (extract_lets +onlyGivenNames lv; first | (have hx : Keeps z lv := ?_; generalize lv = w at hx ⊢; clear lv; rotate_left; subst lv) | (generalize lv = w; clear lv) | subst lv)
    | (with_reducible apply kp_bump64) | (with_reducible apply kp_updReq) | (with_reducible apply kp_setBead) | dsimp only [id]
    | (with_reducible exact Keeps.mk (by assumption))

theorem kp_execBeadRequest {z : State} (id : Nat) (s : State) (hs : Keeps z s) :
    KeepsR z (execBeadRequest id s) := by
  unfold execBeadRequest
  repeat' first
    | (with_reducible assumption) | intro _
    | (extract_lets +onlyGivenNames lv; first | (have hx : Keeps z lv := ?_; generalize lv = w at hx ⊢; clear lv; rotate_left; subst lv) | (generalize lv = w; clear lv) | subst lv)
    | (with_reducible refine KeepsR.next ?_) | (with_reducible apply kp_updReq) | (with_reducible apply kp_recordCE)
    | (with_reducible apply kp_applyReq) | (with_reducible apply kp_touchPage) | (with_reducible apply kp_beginWait) | split | dsimp only [id]
    | (with_reducible exact Keeps.mk (by assumption))

theorem kp_found {z : State} (i : Nat) (q : Nat) (errs : List Nat) (hdr : Bool) (other : Bool) (s : State) (hs : Keeps z s) :
    Keeps z (found i q errs hdr other s) := by
  unfold found
  repeat' first
    | (with_reducible assumption) | intro _
    | (extract_lets +onlyGivenNames lv; first | (have hx : Keeps z lv := ?_; generalize lv = w at hx ⊢; clear lv; rotate_left; subst lv) | (generalize lv = w; clear lv) | subst lv)
    | (with_reducible apply kp_setBead) | (with_reducible apply Keeps.foldl) | (with_reducible apply Keeps.foldlx)
    | (with_reducible apply Keeps.foldlv) | (with_reducible apply Keeps.foldl2) | (with_reducible apply Keeps.foldl1)
    | (with_reducible apply Keeps.foldl22) | (with_reducible apply Keeps.foldl222) | (with_reducible apply Keeps.foldl2x) | split
    | (with_reducible exact Keeps.mk (by assumption))

theorem kp_crcRepeats {z : State} (i : Nat) (q : Nat) (crc : List Nat) (s : State) (hs : Keeps z s) :
    Keeps z (crcRepeats i q crc s).2 := by
  change KeepsP (fun y : Bool × State => y.2) z _
  unfold crcRepeats
  repeat' first
    | (with_reducible assumption) | intro _
    | (extract_lets +onlyGivenNames lv; first | (have hx : Keeps z lv := ?_; generalize lv = w at hx ⊢; clear lv; rotate_left; subst lv) | (have hx : KeepsP (fun y : _ × State => y.2) z lv := ?_; generalize lv = w at hx ⊢; clear lv; replace hx : Keeps z w.2 := hx; rotate_left; subst lv) | (have hx : KeepsP (fun y : State × _ => y.1) z lv := ?_; generalize lv = w at hx ⊢; clear lv; replace hx : Keeps z w.1 := hx; rotate_left; subst lv) | (have hx : KeepsP (fun y : _ × _ × State => y.2.2) z lv := ?_; generalize lv = w at hx ⊢; clear lv; replace hx : Keeps z w.2.2 := hx; rotate_left; subst lv) | (generalize lv = w; clear lv) | subst lv)
    | (with_reducible apply kp_recordCE) | (with_reducible apply kp_calDue) | (with_reducible apply Keeps.foldl)
    | (with_reducible apply Keeps.foldlx) | (with_reducible apply Keeps.foldlv) | (with_reducible apply Keeps.foldl2)
    | (with_reducible apply Keeps.foldl1) | (with_reducible apply Keeps.foldl22) | (with_reducible apply Keeps.foldl222)
    | (with_reducible apply Keeps.foldl2x) | split
    | (with_reducible refine KeepsP.mk ?_; with_reducible first | assumption | apply Keeps.foldlx | apply Keeps.foldlv | apply Keeps.foldl2 | apply Keeps.foldl1 | apply Keeps.foldl22 | apply Keeps.foldl222 | apply Keeps.foldl2x)
    | (with_reducible refine KeepsP.p1 ?_) | (with_reducible refine KeepsP.p2 ?_) | (with_reducible refine KeepsP.p22 ?_)
    | (with_reducible refine Keeps.of2 (by assumption) ?_) | (with_reducible refine Keeps.of1 (by assumption) ?_)
    | (with_reducible refine Keeps.of3 (by assumption) ?_)

theorem kp_execBeadFillDone {z : State} (i : Nat) (q : Nat) (crc : List Nat) (errs : List Nat) (hdr : Bool) (other : Bool) (s : State) (hs : Keeps z s) :
    KeepsR z (execBeadFillDone i q crc errs hdr other s) := by
  unfold execBeadFillDone
  repeat' first
    | (with_reducible assumption)
    | (extract_lets +onlyGivenNames lv; first | (have hx : Keeps z lv := ?_; generalize lv = w at hx ⊢; clear lv; rotate_left; subst lv) | (have hx : KeepsP (fun y : _ × State => y.2) z lv := ?_; generalize lv = w at hx ⊢; clear lv; replace hx : Keeps z w.2 := hx; rotate_left; subst lv) | (generalize lv = w; clear lv) | subst lv)
    | (with_reducible refine KeepsR.next ?_) | (with_reducible apply kp_crcRepeats) | (with_reducible apply kp_fillServe)
    | (with_reducible apply kp_fillPage) | (with_reducible apply kp_found) | split
    | (with_reducible refine KeepsP.mk ?_; with_reducible first | assumption | apply kp_crcRepeats) | (with_reducible refine KeepsP.p1 ?_)
    | (with_reducible refine KeepsP.p2 ?_) | (with_reducible refine KeepsP.p22 ?_) | (with_reducible refine Keeps.of2 (by assumption) ?_)
    | (with_reducible refine Keeps.of1 (by assumption) ?_) | (with_reducible refine Keeps.of3 (by assumption) ?_)

theorem kp_execBeadWback {z : State} (fn : Nat) (i : Nat) (v : Nat) (s : State) (hs : Keeps z s) :
    KeepsR z (execBeadWback fn i v s) := by
  unfold execBeadWback
  repeat' first
    | (with_reducible assumption) | intro _ | (with_reducible apply kp_barWrite) | (with_reducible apply kp_setF) | split
    | (with_reducible refine KeepsR.next ?_) | dsimp only

theorem kp_execBeadWbackDone {z : State} (x : WbackEnd) (s : State) (hs : Keeps z s) :
    KeepsR z (execBeadWbackDone x s) := by
  unfold execBeadWbackDone
  repeat' first
    | (with_reducible assumption) | intro _
    | (extract_lets +onlyGivenNames lv; first | (have hx : Keeps z lv := ?_; generalize lv = w at hx ⊢; clear lv; rotate_left; subst lv) | (have hx : KeepsP (fun y : _ × State => y.2) z lv := ?_; generalize lv = w at hx ⊢; clear lv; replace hx : Keeps z w.2 := hx; rotate_left; subst lv) | (have hx : KeepsP (fun y : State × _ => y.1) z lv := ?_; generalize lv = w at hx ⊢; clear lv; replace hx : Keeps z w.1 := hx; rotate_left; subst lv) | (have hx : KeepsP (fun y : _ × _ × State => y.2.2) z lv := ?_; generalize lv = w at hx ⊢; clear lv; replace hx : Keeps z w.2.2 := hx; rotate_left; subst lv) | (generalize lv = w; clear lv) | subst lv)
    | (with_reducible refine KeepsR.next ?_) | (with_reducible apply kp_crcRepeats) | (with_reducible apply kp_setF)
    | (with_reducible apply kp_writeBack) | (with_reducible apply Keeps.foldl) | (with_reducible apply Keeps.foldlx)
    | (with_reducible apply Keeps.foldlv) | (with_reducible apply Keeps.foldl2) | (with_reducible apply Keeps.foldl1)
    | (with_reducible apply Keeps.foldl22) | (with_reducible apply Keeps.foldl222) | (with_reducible apply Keeps.foldl2x) | split
    | (with_reducible refine KeepsP.mk ?_; with_reducible first | assumption | apply kp_crcRepeats | apply Keeps.foldlx | apply Keeps.foldlv | apply Keeps.foldl2 | apply Keeps.foldl1 | apply Keeps.foldl22 | apply Keeps.foldl222 | apply Keeps.foldl2x)
    | (with_reducible refine KeepsP.p1 ?_) | (with_reducible refine KeepsP.p2 ?_) | (with_reducible refine KeepsP.p22 ?_)
    | (with_reducible refine Keeps.of2 (by assumption) ?_) | (with_reducible refine Keeps.of1 (by assumption) ?_)
    | (with_reducible refine Keeps.of3 (by assumption) ?_)

theorem kp_execBeadRefresh {z : State} (i : Nat) (k : Nat) (s : State) (hs : Keeps z s) :
    KeepsR z (execBeadRefresh i k s) := by
  unfold execBeadRefresh
  repeat' first
    | (with_reducible assumption) | (with_reducible apply kp_refreshBand) | split | (with_reducible refine KeepsR.next ?_) | dsimp only

theorem kp_serveNow {z : State} (i : Nat) (q : Nat) (s : State) (hs : Keeps z s) :
    Keeps z (serveNow i q s) := by
  unfold serveNow
  repeat' first
    | (with_reducible assumption) | (with_reducible apply kp_fillServe) | split

theorem kp_scrubPage {z : State} (i : Nat) (q : Nat) (errs : List Nat) (hdr : Bool) (other : Bool) (s : State) (hs : Keeps z s) :
    Keeps z (scrubPage i q errs hdr other s) := by
  unfold scrubPage
  repeat' first
    | (with_reducible assumption)
    | (extract_lets +onlyGivenNames lv; first | (have hx : Keeps z lv := ?_; generalize lv = w at hx ⊢; clear lv; rotate_left; subst lv) | (have hx : KeepsP (fun y : _ × State => y.2) z lv := ?_; generalize lv = w at hx ⊢; clear lv; replace hx : Keeps z w.2 := hx; rotate_left; subst lv) | (generalize lv = w; clear lv) | subst lv)
    | (with_reducible apply kp_writeBack) | (with_reducible apply kp_found) | (with_reducible apply kp_pageXfer)
    | (with_reducible apply kp_decodePage) | (with_reducible apply kp_wrote) | split
    | (with_reducible refine KeepsP.mk ?_; with_reducible first | assumption | apply kp_decodePage) | (with_reducible refine KeepsP.p1 ?_)
    | (with_reducible refine KeepsP.p2 ?_) | (with_reducible refine KeepsP.p22 ?_) | (with_reducible refine Keeps.of2 (by assumption) ?_)
    | (with_reducible refine Keeps.of1 (by assumption) ?_) | (with_reducible refine Keeps.of3 (by assumption) ?_)

theorem kp_execPatrolScrub {z : State} (i : Nat) (p : PageRead) (s : State) (hs : Keeps z s) :
    KeepsR z (execPatrolScrub i p s) := by
  unfold execPatrolScrub
  repeat' first
    | (with_reducible assumption)
    | (extract_lets +onlyGivenNames lv; first | (have hx : Keeps z lv := ?_; generalize lv = w at hx ⊢; clear lv; rotate_left; subst lv) | (have hx : KeepsP (fun y : _ × State => y.2) z lv := ?_; generalize lv = w at hx ⊢; clear lv; replace hx : Keeps z w.2 := hx; rotate_left; subst lv) | (generalize lv = w; clear lv) | subst lv)
    | (with_reducible refine KeepsR.next ?_) | (with_reducible apply kp_waitTill) | (with_reducible apply kp_crcRepeats)
    | (with_reducible apply kp_setBead) | (with_reducible apply kp_serveNow) | (with_reducible apply kp_scrubPage) | (with_reducible apply kp_setF)
    | (with_reducible apply kp_bump) | split | (with_reducible refine KeepsP.mk ?_; with_reducible first | assumption | apply kp_crcRepeats)
    | (with_reducible refine KeepsP.p1 ?_) | (with_reducible refine KeepsP.p2 ?_) | (with_reducible refine KeepsP.p22 ?_)
    | (with_reducible refine Keeps.of2 (by assumption) ?_) | (with_reducible refine Keeps.of1 (by assumption) ?_)
    | (with_reducible refine Keeps.of3 (by assumption) ?_) | (with_reducible exact Keeps.mk (by assumption))

theorem kp_asRegion {z : State} (i : Nat) (r : Nat) (s : State) (hs : Keeps z s) :
    Keeps z (asRegion i r s) := by
  unfold asRegion
  repeat' first
    | (with_reducible assumption)
    | (extract_lets +onlyGivenNames lv; first | (have hx : Keeps z lv := ?_; generalize lv = w at hx ⊢; clear lv; rotate_left; subst lv) | (generalize lv = w; clear lv) | subst lv)
    | (with_reducible apply kp_asRaise) | (with_reducible apply kp_setBead) | (with_reducible apply kp_setRegionClass) | split
    | (with_reducible exact Keeps.mk (by assumption))

theorem kp_execAsWindowEnd {z : State} (i : Nat) (s : State) (hs : Keeps z s) :
    KeepsR z (execAsWindowEnd i s) := by
  unfold execAsWindowEnd
  repeat' first
    | (with_reducible assumption) | intro _
    | (extract_lets +onlyGivenNames lv; first | (have hx : Keeps z lv := ?_; generalize lv = w at hx ⊢; clear lv; rotate_left; subst lv) | (generalize lv = w; clear lv) | subst lv)
    | (with_reducible refine KeepsR.next ?_) | (with_reducible apply kp_waitTill) | (with_reducible apply kp_asRegion)
    | (with_reducible apply kp_setBead) | (with_reducible apply Keeps.foldl) | (with_reducible apply Keeps.foldlx)
    | (with_reducible apply Keeps.foldlv) | (with_reducible apply Keeps.foldl2) | (with_reducible apply Keeps.foldl1)
    | (with_reducible apply Keeps.foldl22) | (with_reducible apply Keeps.foldl222) | (with_reducible apply Keeps.foldl2x)
    | (with_reducible exact Keeps.mk (by assumption))

theorem kp_recodePage {z : State} (i : Nat) (q : Nat) (c : Nat) (s : State) (hs : Keeps z s) :
    Keeps z (recodePage i q c s) := by
  unfold recodePage
  repeat' first
    | (with_reducible assumption)
    | (extract_lets +onlyGivenNames lv; first | (have hx : Keeps z lv := ?_; generalize lv = w at hx ⊢; clear lv; rotate_left; subst lv) | (have hx : KeepsP (fun y : _ × State => y.2) z lv := ?_; generalize lv = w at hx ⊢; clear lv; replace hx : Keeps z w.2 := hx; rotate_left; subst lv) | (generalize lv = w; clear lv) | subst lv)
    | (with_reducible apply kp_decodePage) | (with_reducible apply kp_setBead) | split
    | (with_reducible refine KeepsP.mk ?_; with_reducible first | assumption | apply kp_decodePage) | (with_reducible refine KeepsP.p1 ?_)
    | (with_reducible refine KeepsP.p2 ?_) | (with_reducible refine KeepsP.p22 ?_) | (with_reducible refine Keeps.of2 (by assumption) ?_)
    | (with_reducible refine Keeps.of1 (by assumption) ?_) | (with_reducible refine Keeps.of3 (by assumption) ?_)
    | (with_reducible exact Keeps.mk (by assumption))

theorem kp_execRecodeSweepDone {z : State} (i : Nat) (r : Nat) (s : State) (hs : Keeps z s) :
    KeepsR z (execRecodeSweepDone i r s) := by
  unfold execRecodeSweepDone
  repeat' first
    | (with_reducible assumption) | intro _
    | (extract_lets +onlyGivenNames lv; first | (have hx : Keeps z lv := ?_; generalize lv = w at hx ⊢; clear lv; rotate_left; subst lv) | (generalize lv = w; clear lv) | subst lv)
    | (with_reducible refine KeepsR.next ?_) | (with_reducible apply kp_serveNow) | (with_reducible apply kp_recodePage)
    | (with_reducible apply kp_setBead) | (with_reducible apply kp_setF) | (with_reducible apply kp_putHdr) | (with_reducible apply Keeps.foldl)
    | (with_reducible apply Keeps.foldlx) | (with_reducible apply Keeps.foldlv) | (with_reducible apply Keeps.foldl2)
    | (with_reducible apply Keeps.foldl1) | (with_reducible apply Keeps.foldl22) | (with_reducible apply Keeps.foldl222)
    | (with_reducible apply Keeps.foldl2x) | split | (with_reducible exact Keeps.mk (by assumption))

theorem kp_writeClass {z : State} (i : Nat) (r : Nat) (c : Nat) (s : State) (hs : Keeps z s) :
    Keeps z (writeClass i r c s) := by
  unfold writeClass
  repeat' first
    | (with_reducible assumption)
    | (extract_lets +onlyGivenNames lv; first | (have hx : Keeps z lv := ?_; generalize lv = w at hx ⊢; clear lv; rotate_left; subst lv) | (generalize lv = w; clear lv) | subst lv)
    | (with_reducible apply kp_setRegionClass) | (with_reducible apply kp_setF) | split

theorem kp_execBeadRclassWrite {z : State} (fn : Nat) (i : Nat) (j : Nat) (v : Nat) (s : State) (hs : Keeps z s) :
    KeepsR z (execBeadRclassWrite fn i j v s) := by
  unfold execBeadRclassWrite
  repeat' first
    | (with_reducible assumption) | intro _ | (with_reducible apply kp_barWrite) | (with_reducible apply kp_writeClass)
    | (with_reducible apply kp_raise) | (with_reducible apply Keeps.foldl) | (with_reducible apply Keeps.foldlx) | (with_reducible apply Keeps.foldlv)
    | (with_reducible apply Keeps.foldl2) | (with_reducible apply Keeps.foldl1) | (with_reducible apply Keeps.foldl22)
    | (with_reducible apply Keeps.foldl222) | (with_reducible apply Keeps.foldl2x) | split
    | (with_reducible refine KeepsP.mk ?_; with_reducible first | assumption | apply Keeps.foldlx | apply Keeps.foldlv | apply Keeps.foldl2 | apply Keeps.foldl1 | apply Keeps.foldl22 | apply Keeps.foldl222 | apply Keeps.foldl2x)
    | (with_reducible refine KeepsR.next ?_) | (with_reducible refine Keeps.of2 (by assumption) ?_)
    | (with_reducible refine Keeps.of1 (by assumption) ?_) | (with_reducible refine Keeps.of3 (by assumption) ?_) | dsimp only

theorem kp_execBeadCodeCtlWrite {z : State} (fn : Nat) (i : Nat) (v : Nat) (s : State) (hs : Keeps z s) :
    KeepsR z (execBeadCodeCtlWrite fn i v s) := by
  unfold execBeadCodeCtlWrite
  repeat' first
    | (with_reducible assumption) | intro _ | (with_reducible apply kp_barWrite) | (with_reducible apply kp_applyFloors)
    | (with_reducible apply kp_writeReg) | (with_reducible refine KeepsR.next ?_) | dsimp only

theorem kp_execZeroDone {z : State} (i : Nat) (s : State) (hs : Keeps z s) :
    KeepsR z (execZeroDone i s) := by
  unfold execZeroDone
  repeat' first
    | (with_reducible assumption) | (with_reducible apply kp_raise) | (with_reducible apply kp_zeroFill) | split
    | (with_reducible refine KeepsR.next ?_) | dsimp only

end Sys2Proof.Machine
end

