-- ==== Sys2Proof/Laws/KeepsMsg.lean ====
section
/-! SUPPORT. What every operation of Machine/Msg.lean keeps. -/
set_option linter.all false

namespace Sys2Proof.Machine

theorem kp_ringPut {z : State} (i : Nat) (c : Nat) (g : Nat) (bad : List Nat) (a : Nat) (a5 : List Byte) (a6 : State) (ha6 : Keeps z a6) :
    Keeps z (ringPut i c g bad a a5 a6) := by
  induction a5 generalizing i c g bad a a6 with
  | nil => unfold ringPut; repeat' first
    | (with_reducible assumption) | (with_reducible apply kp_spadPut) | split | dsimp only
  | cons w w1 ih => unfold ringPut; repeat' first
    | (with_reducible assumption) | (with_reducible apply ih) | (with_reducible apply kp_spadPut) | split | dsimp only

theorem kp_showItems {z : State} (i : Nat) (c : Nat) (s : State) (hs : Keeps z s) :
    Keeps z (showItems i c s) := by
  unfold showItems
  repeat' first
    | (with_reducible assumption) | (with_reducible apply kp_setF) | dsimp only

theorem kp_recvItem {z : State} (i : Nat) (c : Started) (it : FItem) (s : State) (hs : Keeps z s) :
    Keeps z (recvItem i c it s) := by
  unfold recvItem
  repeat' first
    | (with_reducible assumption) | intro _
    | (extract_lets +onlyGivenNames lv; first | (have hx : Keeps z lv := ?_; generalize lv = w at hx ⊢; clear lv; rotate_left; subst lv) | (have hx : KeepsP (fun y : _ × State => y.2) z lv := ?_; generalize lv = w at hx ⊢; clear lv; replace hx : Keeps z w.2 := hx; rotate_left; subst lv) | (have hx : KeepsP (fun y : State × _ => y.1) z lv := ?_; generalize lv = w at hx ⊢; clear lv; replace hx : Keeps z w.1 := hx; rotate_left; subst lv) | (have hx : KeepsP (fun y : _ × _ × State => y.2.2) z lv := ?_; generalize lv = w at hx ⊢; clear lv; replace hx : Keeps z w.2.2 := hx; rotate_left; subst lv) | (generalize lv = w; clear lv) | subst lv)
    | (with_reducible apply kp_spadWrite) | (with_reducible apply kp_spadSeen) | (with_reducible apply kp_setF) | (with_reducible apply kp_bump64)
    | (with_reducible apply kp_showItems) | (with_reducible apply kp_markDone) | (with_reducible apply Keeps.foldl)
    | (with_reducible apply Keeps.foldlx) | (with_reducible apply Keeps.foldlv) | (with_reducible apply Keeps.foldl2)
    | (with_reducible apply Keeps.foldl1) | (with_reducible apply Keeps.foldl22) | (with_reducible apply Keeps.foldl222)
    | (with_reducible apply Keeps.foldl2x) | split
    | (with_reducible refine KeepsP.mk ?_; with_reducible first | assumption | apply Keeps.foldlx | apply Keeps.foldlv | apply Keeps.foldl2 | apply Keeps.foldl1 | apply Keeps.foldl22 | apply Keeps.foldl222 | apply Keeps.foldl2x)
    | (with_reducible refine KeepsP.p1 ?_) | (with_reducible refine KeepsP.p2 ?_) | (with_reducible refine KeepsP.p22 ?_)
    | (with_reducible refine Keeps.of2 (by assumption) ?_) | (with_reducible refine Keeps.of1 (by assumption) ?_)
    | (with_reducible refine Keeps.of3 (by assumption) ?_) | dsimp only

theorem kp_feedRecv {z : State} (i : Nat) (ch : Nat) (s : State) (hs : Keeps z s) :
    Keeps z (feedRecv i ch s) := by
  unfold feedRecv
  repeat' first
    | (with_reducible assumption)
    | (extract_lets +onlyGivenNames lv; first | (have hx : Keeps z lv := ?_; generalize lv = w at hx ⊢; clear lv; rotate_left; subst lv) | (generalize lv = w; clear lv) | subst lv)
    | (with_reducible apply kp_recvItem) | (with_reducible apply kp_setFq) | split | dsimp only | (with_reducible exact Keeps.mk (by assumption))

theorem kp_framingError {z : State} (q : Nat) (s : State) (hs : Keeps z s) :
    Keeps z (framingError q s) := by
  unfold framingError
  repeat' first
    | (with_reducible assumption)
    | (extract_lets +onlyGivenNames lv; first | (have hx : Keeps z lv := ?_; generalize lv = w at hx ⊢; clear lv; rotate_left; subst lv) | (generalize lv = w; clear lv) | subst lv)
    | (with_reducible apply kp_recordCE) | (with_reducible apply kp_raise) | (with_reducible apply kp_bump) | split | dsimp only

theorem kp_itemWhole {z : State} (q : Nat) (p : FPart) (s : State) (hs : Keeps z s) :
    Keeps z (itemWhole q p s).2 := by
  change KeepsP (fun y : Nat × State => y.2) z _
  unfold itemWhole
  repeat' first
    | (with_reducible assumption)
    | (extract_lets +onlyGivenNames lv; first | (have hx : Keeps z lv := ?_; generalize lv = w at hx ⊢; clear lv; rotate_left; subst lv) | (have hx : KeepsP (fun y : _ × State => y.2) z lv := ?_; generalize lv = w at hx ⊢; clear lv; replace hx : Keeps z w.2 := hx; rotate_left; subst lv) | (generalize lv = w; clear lv) | subst lv)
    | (with_reducible apply kp_ringPut) | (with_reducible apply kp_setFq) | (with_reducible apply kp_feedRecv) | (with_reducible apply kp_showItems)
    | split | (with_reducible refine KeepsP.mk ?_; with_reducible assumption) | (with_reducible refine KeepsP.p2 ?_)
    | (with_reducible refine Keeps.of2 (by assumption) ?_) | dsimp only | (with_reducible exact Keeps.mk (by assumption))

theorem kp_wordIn {z : State} (q : Nat) (prod : Nat) (w : Nat) (mask : Nat) (s : State) (hs : Keeps z s) :
    Keeps z (wordIn q prod w mask s).2 := by
  change KeepsP (fun y : Option Nat × State => y.2) z _
  unfold wordIn
  repeat' first
    | (with_reducible assumption)
    | (extract_lets +onlyGivenNames lv; first | (have hx : Keeps z lv := ?_; generalize lv = w at hx ⊢; clear lv; rotate_left; subst lv) | (have hx : KeepsP (fun y : _ × State => y.2) z lv := ?_; generalize lv = w at hx ⊢; clear lv; replace hx : Keeps z w.2 := hx; rotate_left; subst lv) | (generalize lv = w; clear lv) | subst lv)
    | (with_reducible apply kp_setFq) | (with_reducible apply kp_itemWhole) | (with_reducible apply kp_framingError) | split
    | (with_reducible refine KeepsP.mk ?_; with_reducible first | assumption | apply kp_itemWhole) | (with_reducible refine KeepsP.p2 ?_)
    | (with_reducible refine Keeps.of2 (by assumption) ?_) | dsimp only | (with_reducible exact Keeps.mk (by assumption))

theorem kp_flushChan {z : State} (i : Nat) (c : Nat) (s : State) (hs : Keeps z s) :
    Keeps z (flushChan i c s) := by
  unfold flushChan
  repeat' first
    | (with_reducible assumption) | intro _
    | (extract_lets +onlyGivenNames lv; first | (have hx : Keeps z lv := ?_; generalize lv = w at hx ⊢; clear lv; rotate_left; subst lv) | (have hx : KeepsP (fun y : _ × State => y.2) z lv := ?_; generalize lv = w at hx ⊢; clear lv; replace hx : Keeps z w.2 := hx; rotate_left; subst lv) | (have hx : KeepsP (fun y : State × _ => y.1) z lv := ?_; generalize lv = w at hx ⊢; clear lv; replace hx : Keeps z w.1 := hx; rotate_left; subst lv) | (have hx : KeepsP (fun y : _ × _ × State => y.2.2) z lv := ?_; generalize lv = w at hx ⊢; clear lv; replace hx : Keeps z w.2.2 := hx; rotate_left; subst lv) | (generalize lv = w; clear lv) | subst lv)
    | (with_reducible apply kp_showItems) | (with_reducible apply kp_setF) | (with_reducible apply kp_flushQueue) | (with_reducible apply kp_markDone)
    | (with_reducible apply kp_raise) | (with_reducible apply Keeps.foldl) | (with_reducible apply Keeps.foldlx) | (with_reducible apply Keeps.foldlv)
    | (with_reducible apply Keeps.foldl2) | (with_reducible apply Keeps.foldl1) | (with_reducible apply Keeps.foldl22)
    | (with_reducible apply Keeps.foldl222) | (with_reducible apply Keeps.foldl2x) | split
    | (with_reducible refine KeepsP.mk ?_; with_reducible first | assumption | apply Keeps.foldlx | apply Keeps.foldlv | apply Keeps.foldl2 | apply Keeps.foldl1 | apply Keeps.foldl22 | apply Keeps.foldl222 | apply Keeps.foldl2x)
    | (with_reducible refine KeepsP.p1 ?_) | (with_reducible refine KeepsP.p2 ?_) | (with_reducible refine KeepsP.p22 ?_)
    | (with_reducible refine Keeps.of2 (by assumption) ?_) | (with_reducible refine Keeps.of1 (by assumption) ?_)
    | (with_reducible refine Keeps.of3 (by assumption) ?_) | dsimp only | (with_reducible exact Keeps.mk (by assumption))

theorem kp_sendPhase {z : State} (src : Sender) (ph : Nat) (wait : Bool) (s : State) (hs : Keeps z s) :
    Keeps z (sendPhase src ph wait s) := by
  unfold sendPhase
  repeat' first
    | (with_reducible assumption) | intro _
    | (extract_lets +onlyGivenNames lv; first | (have hx : Keeps z lv := ?_; generalize lv = w at hx ⊢; clear lv; rotate_left; subst lv) | (generalize lv = w; clear lv) | subst lv)
    | (with_reducible apply kp_updStarted) | (with_reducible apply kp_blockNow) | split | dsimp only [id]
    | (with_reducible exact Keeps.mk (by assumption))

theorem kp_execReservation {z : State} (i : Nat) (num : Nat) (s : State) (hs : Keeps z s) :
    KeepsR z (execReservation i num s) := by
  unfold execReservation
  repeat' first
    | (with_reducible assumption)
    | (extract_lets +onlyGivenNames lv; first | (have hx : Keeps z lv := ?_; generalize lv = w at hx ⊢; clear lv; rotate_left; subst lv) | (generalize lv = w; clear lv) | subst lv)
    | (with_reducible refine KeepsR.next ?_) | (with_reducible apply kp_answerSend) | (with_reducible apply kp_sendPhase)
    | (with_reducible apply kp_raise) | split | (with_reducible exact Keeps.mk (by assumption))

theorem kp_execReservationRetry {z : State} (i : Nat) (num : Nat) (s : State) (hs : Keeps z s) :
    KeepsR z (execReservationRetry i num s) := by
  unfold execReservationRetry
  repeat' first
    | (with_reducible assumption) | (with_reducible refine KeepsR.next ?_) | (with_reducible apply kp_sendPhase) | (with_reducible apply kp_waitTill)
    | split

theorem kp_itemOf {z : State} (src : Sender) (s : State) (hs : Keeps z s) :
    Keeps z (itemOf src s).2.2.2 := by
  change KeepsP (fun y : Nat × List Byte × List Nat × State => y.2.2.2) z _
  unfold itemOf
  repeat' first
    | (with_reducible assumption)
    | (extract_lets +onlyGivenNames lv; first | (have hx : Keeps z lv := ?_; generalize lv = w at hx ⊢; clear lv; rotate_left; subst lv) | (have hx : KeepsP (fun y : _ × _ × _ × State => y.2.2.2) z lv := ?_; generalize lv = w at hx ⊢; clear lv; replace hx : Keeps z w.2.2.2 := hx; rotate_left; subst lv) | (generalize lv = w; clear lv) | subst lv)
    | (with_reducible apply kp_spadSeen) | split | (with_reducible refine KeepsP.mk ?_; with_reducible assumption)
    | (with_reducible refine KeepsP.p222 ?_) | (with_reducible refine Keeps.of4 (by assumption) ?_) | dsimp only [id]
    | (with_reducible exact Keeps.mk (by assumption))

theorem kp_sendGranted {z : State} (t : Nat) (ch : Nat) (r : Resv) (s : State) (hs : Keeps z s) :
    Keeps z (sendGranted t ch r s) := by
  unfold sendGranted
  repeat' first
    | (with_reducible assumption) | intro _
    | (extract_lets +onlyGivenNames lv; first | (have hx : Keeps z lv := ?_; generalize lv = w at hx ⊢; clear lv; rotate_left; subst lv) | (have hx : KeepsP (fun y : _ × _ × _ × State => y.2.2.2) z lv := ?_; generalize lv = w at hx ⊢; clear lv; replace hx : Keeps z w.2.2.2 := hx; rotate_left; subst lv) | (generalize lv = w; clear lv) | subst lv)
    | (with_reducible apply kp_itemOf) | (with_reducible apply kp_updStarted) | (with_reducible apply kp_bump64) | (with_reducible apply kp_sendPhase)
    | split | (with_reducible refine KeepsP.mk ?_; with_reducible first | assumption | apply kp_itemOf) | (with_reducible refine KeepsP.p222 ?_)
    | (with_reducible refine Keeps.of4 (by assumption) ?_) | dsimp only | (with_reducible exact Keeps.mk (by assumption))

theorem kp_execGrant {z : State} (t : Nat) (ch : Nat) (s : State) (hs : Keeps z s) :
    KeepsR z (execGrant t ch s) := by
  unfold execGrant
  repeat' first
    | (with_reducible assumption)
    | (extract_lets +onlyGivenNames lv; first | (have hx : Keeps z lv := ?_; generalize lv = w at hx ⊢; clear lv; rotate_left; subst lv) | (generalize lv = w; clear lv) | subst lv)
    | (with_reducible apply kp_sendGranted) | (with_reducible apply kp_setF) | split | (with_reducible refine KeepsR.next ?_) | dsimp only
    | (with_reducible exact Keeps.mk (by assumption))

theorem kp_chanAnswer {z : State} (i : Nat) (k : Nat) (num : Nat) (code : Nat) (s : State) (hs : Keeps z s) :
    Keeps z (chanAnswer i k num code s) := by
  unfold chanAnswer
  repeat' first
    | (with_reducible assumption) | intro _
    | (extract_lets +onlyGivenNames lv; first | (have hx : Keeps z lv := ?_; generalize lv = w at hx ⊢; clear lv; rotate_left; subst lv) | (generalize lv = w; clear lv) | subst lv)
    | (with_reducible apply kp_updStarted) | (with_reducible apply kp_chanBegin) | (with_reducible apply kp_moved) | (with_reducible apply kp_setStr)
    | (with_reducible refine Keeps.getD ?_ ?_) | split | (with_reducible exact Keeps.mk (by assumption))

theorem kp_sendDone {z : State} (i : Nat) (num : Nat) (code : Nat) (s : State) (hs : Keeps z s) :
    Keeps z (sendDone i num code s) := by
  unfold sendDone
  repeat' first
    | (with_reducible assumption)
    | (extract_lets +onlyGivenNames lv; first | (have hx : Keeps z lv := ?_; generalize lv = w at hx ⊢; clear lv; rotate_left; subst lv) | (generalize lv = w; clear lv) | subst lv)
    | (with_reducible apply kp_completeNum) | (with_reducible apply kp_markDone) | split | dsimp only
    | (with_reducible exact Keeps.mk (by assumption))

theorem kp_dupDone {z : State} (src : Nat) (tag : Nat) (status : Nat) (data : List Byte) (s : State) (hs : Keeps z s) :
    Keeps z (dupDone src tag status data s) := by
  unfold dupDone
  repeat' first
    | (with_reducible assumption) | intro _
    | (extract_lets +onlyGivenNames lv; first | (have hx : Keeps z lv := ?_; generalize lv = w at hx ⊢; clear lv; rotate_left; subst lv) | (generalize lv = w; clear lv) | subst lv)
    | (with_reducible apply kp_sendPkt) | split | (with_reducible exact Keeps.mk (by assumption))

theorem kp_execItemAnswer {z : State} (i : Nat) (num : Nat) (s : State) (hs : Keeps z s) :
    KeepsR z (execItemAnswer i num s) := by
  unfold execItemAnswer
  repeat' first
    | (with_reducible assumption)
    | (extract_lets +onlyGivenNames lv; first | (have hx : Keeps z lv := ?_; generalize lv = w at hx ⊢; clear lv; rotate_left; subst lv) | (generalize lv = w; clear lv) | subst lv)
    | (with_reducible apply kp_chanAnswer) | (with_reducible apply kp_sendDone) | (with_reducible apply kp_dupDone) | (with_reducible apply kp_hqOver)
    | split | (with_reducible refine KeepsR.next ?_) | dsimp only [id] | (with_reducible exact Keeps.mk (by assumption))

theorem kp_dropPacket {z : State} (k : Nat) (s : State) (hs : Keeps z s) :
    Keeps z (dropPacket k s) := by
  unfold dropPacket
  repeat' first
    | (with_reducible assumption) | intro _ | split | (with_reducible exact Keeps.mk (by assumption))

theorem kp_execResvTimeout {z : State} (i : Nat) (num : Nat) (s : State) (hs : Keeps z s) :
    KeepsR z (execResvTimeout i num s) := by
  unfold execResvTimeout
  repeat' first
    | (with_reducible assumption)
    | (extract_lets +onlyGivenNames lv; first | (have hx : Keeps z lv := ?_; generalize lv = w at hx ⊢; clear lv; rotate_left; subst lv) | (generalize lv = w; clear lv) | subst lv)
    | (with_reducible refine KeepsR.next ?_) | (with_reducible apply kp_recordWith) | (with_reducible apply kp_waitTill) | split

theorem kp_msendRun {z : State} (i : Nat) (c : QCmd) (s : State) (hs : Keeps z s) :
    Keeps z (msendRun i c s) := by
  unfold msendRun
  repeat' first
    | (with_reducible assumption) | intro _
    | (extract_lets +onlyGivenNames lv; first | (have hx : Keeps z lv := ?_; generalize lv = w at hx ⊢; clear lv; rotate_left; subst lv) | (have hfn0 : ∀ y, Keeps z y → Keeps z (lv y) := ?_; generalize lv = w at hfn0 ⊢; clear lv; rotate_left; subst lv) | (have hfn1 : ∀ a y, Keeps z y → Keeps z (lv a y) := ?_; generalize lv = w at hfn1 ⊢; clear lv; rotate_left; subst lv) | (have hfn2 : ∀ a b y, Keeps z y → Keeps z (lv a b y) := ?_; generalize lv = w at hfn2 ⊢; clear lv; rotate_left; subst lv) | (have hfn3 : ∀ a b c y, Keeps z y → Keeps z (lv a b c y) := ?_; generalize lv = w at hfn3 ⊢; clear lv; rotate_left; subst lv) | (have hfn4 : ∀ y a, Keeps z y → Keeps z (lv y a) := ?_; generalize lv = w at hfn4 ⊢; clear lv; rotate_left; subst lv) | (have hfn5 : ∀ a, Keeps z (lv a) := ?_; generalize lv = w at hfn5 ⊢; clear lv; rotate_left; subst lv) | (have hfn6 : ∀ a b, Keeps z (lv a b) := ?_; generalize lv = w at hfn6 ⊢; clear lv; rotate_left; subst lv) | (have hfn7 : ∀ y a b, Keeps z y → Keeps z (lv y a b) := ?_; generalize lv = w at hfn7 ⊢; clear lv; rotate_left; subst lv) | (have hfn8 : ∀ a, KeepsR z (lv a) := ?_; generalize lv = w at hfn8 ⊢; clear lv; rotate_left; subst lv) | (have hfn9 : ∀ y, Keeps z y → KeepsC z (lv y) := ?_; generalize lv = w at hfn9 ⊢; clear lv; rotate_left; subst lv) | (have hfn10 : ∀ y, Keeps z y → KeepsR z (lv y) := ?_; generalize lv = w at hfn10 ⊢; clear lv; rotate_left; subst lv) | (have hfn11 : ∀ a y, Keeps z y → KeepsR z (lv a y) := ?_; generalize lv = w at hfn11 ⊢; clear lv; rotate_left; subst lv) | (have hfn12 : ∀ y a, Keeps z y → KeepsR z (lv y a) := ?_; generalize lv = w at hfn12 ⊢; clear lv; rotate_left; subst lv) | (generalize lv = w; clear lv) | subst lv)
    | (with_reducible apply hfn0) | (with_reducible apply hfn1) | (with_reducible apply hfn2) | (with_reducible apply hfn3)
    | (with_reducible apply hfn4) | (with_reducible apply hfn5) | (with_reducible apply hfn6) | (with_reducible apply hfn7)
    | (with_reducible apply hfn8) | (with_reducible apply hfn9) | (with_reducible apply hfn10) | (with_reducible apply hfn11)
    | (with_reducible apply hfn12) | (with_reducible apply kp_finish) | (with_reducible apply kp_spadSeen) | (with_reducible apply kp_addStarted)
    | (with_reducible apply kp_e2eSubmit) | (with_reducible apply kp_bump64) | (with_reducible apply kp_blockNow) | split | dsimp only
    | (with_reducible exact Keeps.mk (by assumption))

theorem kp_mrecvRun {z : State} (i : Nat) (c : QCmd) (s : State) (hs : Keeps z s) :
    Keeps z (mrecvRun i c s) := by
  unfold mrecvRun
  repeat' first
    | (with_reducible assumption)
    | (extract_lets +onlyGivenNames lv; first | (have hx : Keeps z lv := ?_; generalize lv = w at hx ⊢; clear lv; rotate_left; subst lv) | (generalize lv = w; clear lv) | subst lv)
    | (with_reducible apply kp_finish) | (with_reducible apply kp_addStarted) | (with_reducible apply kp_blockNow)
    | (with_reducible apply kp_feedRecv) | split | dsimp only

theorem kp_msgRun {z : State} (i : Nat) (c : QCmd) (s : State) (hs : Keeps z s) :
    Keeps z (msgRun i c s) := by
  unfold msgRun
  repeat' first
    | (with_reducible assumption)
    | (extract_lets +onlyGivenNames lv; first | (have hx : Keeps z lv := ?_; generalize lv = w at hx ⊢; clear lv; rotate_left; subst lv) | (generalize lv = w; clear lv) | subst lv)
    | (with_reducible apply kp_msendRun) | (with_reducible apply kp_mrecvRun) | (with_reducible apply kp_finish) | (with_reducible apply kp_startDone)
    | (with_reducible apply kp_flushChan) | split | dsimp only | (with_reducible exact Keeps.mk (by assumption))

theorem kp_msgIssue {z : State} (i : Nat) (w : CmdWord) (s : State) (hs : Keeps z s) :
    Keeps z (msgIssue i w s) := by
  unfold msgIssue
  repeat' first
    | (with_reducible assumption) | intro _ | (with_reducible apply kp_startHead) | (with_reducible apply kp_msgRun)
    | (with_reducible apply kp_issueUnit) | dsimp only

theorem kp_execMsend {z : State} (i : Nat) (w : CmdWord) (s : State) (hs : Keeps z s) :
    KeepsR z (execMsend i w s) := by
  unfold execMsend
  repeat' first
    | (with_reducible assumption) | (with_reducible apply kp_msgIssue) | (with_reducible refine KeepsR.next ?_) | dsimp only

theorem kp_execMrecv {z : State} (i : Nat) (w : CmdWord) (s : State) (hs : Keeps z s) :
    KeepsR z (execMrecv i w s) := by
  unfold execMrecv
  repeat' first
    | (with_reducible assumption) | (with_reducible apply kp_msgIssue) | (with_reducible refine KeepsR.next ?_) | dsimp only

theorem kp_execMpoll {z : State} (i : Nat) (w : CmdWord) (s : State) (hs : Keeps z s) :
    KeepsR z (execMpoll i w s) := by
  unfold execMpoll
  repeat' first
    | (with_reducible assumption) | (with_reducible apply kp_msgIssue) | (with_reducible refine KeepsR.next ?_) | dsimp only

theorem kp_execMflush {z : State} (i : Nat) (w : CmdWord) (s : State) (hs : Keeps z s) :
    KeepsR z (execMflush i w s) := by
  unfold execMflush
  repeat' first
    | (with_reducible assumption) | (with_reducible apply kp_msgIssue) | (with_reducible refine KeepsR.next ?_) | dsimp only

theorem kp_execMsgChBufWrite {z : State} (fn : Nat) (i : Nat) (k : Nat) (v : Nat) (s : State) (hs : Keeps z s) :
    KeepsR z (execMsgChBufWrite fn i k v s) := by
  unfold execMsgChBufWrite
  repeat' first
    | (with_reducible assumption) | intro _
    | (extract_lets +onlyGivenNames lv; first | (have hx : Keeps z lv := ?_; generalize lv = w at hx ⊢; clear lv; rotate_left; subst lv) | (generalize lv = w; clear lv) | subst lv)
    | (with_reducible refine KeepsR.next ?_) | (with_reducible apply kp_barWrite) | (with_reducible apply kp_writeReg)
    | (with_reducible apply kp_raise) | (with_reducible apply kp_flushChan) | (with_reducible apply kp_recheckHeld) | (with_reducible apply kp_setFq)
    | (with_reducible apply kp_setF) | split | (with_reducible exact Keeps.mk (by assumption))

theorem kp_execMsgChFlush {z : State} (fn : Nat) (i : Nat) (k : Nat) (v : Nat) (s : State) (hs : Keeps z s) :
    KeepsR z (execMsgChFlush fn i k v s) := by
  unfold execMsgChFlush
  repeat' first
    | (with_reducible assumption) | intro _ | (with_reducible apply kp_barWrite) | (with_reducible apply kp_flushChan) | split
    | (with_reducible refine KeepsR.next ?_) | dsimp only

theorem kp_sendProbe {z : State} (i : Nat) (p : Probe) (e : Edge) (s : State) (hs : Keeps z s) :
    Keeps z (sendProbe i p e s) := by
  unfold sendProbe
  repeat' first
    | (with_reducible assumption) | (with_reducible apply kp_sendPkt) | split | (with_reducible exact Keeps.mk (by assumption))

theorem kp_execProbeTimer {z : State} (i : Nat) (num : Nat) (s : State) (hs : Keeps z s) :
    KeepsR z (execProbeTimer i num s) := by
  unfold execProbeTimer
  repeat' first
    | (with_reducible assumption) | intro _
    | (extract_lets +onlyGivenNames lv; first | (have hx : Keeps z lv := ?_; generalize lv = w at hx ⊢; clear lv; rotate_left; subst lv) | (generalize lv = w; clear lv) | subst lv)
    | (with_reducible refine KeepsR.next ?_) | (with_reducible apply kp_waitTill) | (with_reducible apply kp_sendProbe)
    | (with_reducible apply kp_bump) | (with_reducible apply kp_updStarted) | split | (with_reducible exact Keeps.mk (by assumption))

theorem kp_confirmOn {z : State} (i : Nat) (p : Probe) (s : State) (hs : Keeps z s) :
    Keeps z (confirmOn i p s) := by
  unfold confirmOn
  repeat' first
    | (with_reducible assumption)
    | (extract_lets +onlyGivenNames lv; first | (have hx : Keeps z lv := ?_; generalize lv = w at hx ⊢; clear lv; rotate_left; subst lv) | (generalize lv = w; clear lv) | subst lv)
    | (with_reducible apply kp_sendProbe) | (with_reducible refine Keeps.getD ?_ ?_) | split

theorem kp_forwardProbe {z : State} (p : Probe) (i : Nat) (s : State) (hs : Keeps z s) :
    Keeps z (forwardProbe p i s) := by
  unfold forwardProbe
  repeat' first
    | (with_reducible assumption) | intro _
    | (extract_lets +onlyGivenNames lv; first | (have hx : Keeps z lv := ?_; generalize lv = w at hx ⊢; clear lv; rotate_left; subst lv) | (generalize lv = w; clear lv) | subst lv)
    | (with_reducible apply kp_sendProbe) | (with_reducible apply kp_bump) | (with_reducible apply Keeps.foldl) | (with_reducible apply Keeps.foldlx)
    | (with_reducible apply Keeps.foldlv) | (with_reducible apply Keeps.foldl2) | (with_reducible apply Keeps.foldl1)
    | (with_reducible apply Keeps.foldl22) | (with_reducible apply Keeps.foldl222) | (with_reducible apply Keeps.foldl2x) | split
    | (with_reducible exact Keeps.mk (by assumption))

theorem kp_execProbe {z : State} (k : Nat) (s : State) (hs : Keeps z s) :
    KeepsR z (execProbe k s) := by
  unfold execProbe
  repeat' first
    | (with_reducible assumption)
    | (extract_lets +onlyGivenNames lv; first | (have hx : Keeps z lv := ?_; generalize lv = w at hx ⊢; clear lv; rotate_left; subst lv) | (generalize lv = w; clear lv) | subst lv)
    | (with_reducible refine KeepsR.next ?_) | (with_reducible apply kp_confirmOn) | (with_reducible apply kp_forwardProbe) | split
    | (with_reducible exact Keeps.mk (by assumption))

theorem kp_execConfirmation {z : State} (k : Nat) (s : State) (hs : Keeps z s) :
    KeepsR z (execConfirmation k s) := by
  unfold execConfirmation
  repeat' first
    | (with_reducible assumption)
    | (extract_lets +onlyGivenNames lv; first | (have hx : Keeps z lv := ?_; generalize lv = w at hx ⊢; clear lv; rotate_left; subst lv) | (generalize lv = w; clear lv) | subst lv)
    | (with_reducible refine KeepsR.next ?_) | (with_reducible apply kp_confirmOn) | (with_reducible apply kp_breakWait) | split
    | (with_reducible exact Keeps.mk (by assumption))

end Sys2Proof.Machine
end

