-- ==== Sys2Proof/Laws/KeepsXlat.lean ====
section
/-! SUPPORT. What every operation of Machine/Xlat.lean keeps. -/
set_option linter.all false

namespace Sys2Proof.Machine

theorem kp_walkReq {z : State} (i : Nat) (hs : List (Option Nat)) (t : Option TRes × State) (r : PReq) (ht : Keeps z t.2) :
    Keeps z (walkReq i hs t r).2 := by
  change KeepsP (fun y : Option TRes × State => y.2) z _
  unfold walkReq
  repeat' first
    | (with_reducible assumption)
    | (extract_lets +onlyGivenNames lv; first | (have hx : Keeps z lv := ?_; generalize lv = w at hx ⊢; clear lv; rotate_left; subst lv) | (have hx : KeepsP (fun y : _ × State => y.2) z lv := ?_; generalize lv = w at hx ⊢; clear lv; replace hx : Keeps z w.2 := hx; rotate_left; subst lv) | (generalize lv = w; clear lv) | subst lv)
    | (with_reducible apply kp_tlbLook) | (with_reducible apply kp_resolveReq) | (with_reducible apply kp_rodWalk) | split
    | (with_reducible refine KeepsP.mk ?_; with_reducible first | assumption | apply kp_tlbLook | apply kp_rodWalk)
    | (with_reducible refine KeepsP.p1 ?_) | (with_reducible refine KeepsP.p2 ?_) | (with_reducible refine KeepsP.p22 ?_)
    | (with_reducible refine Keeps.of2 (by assumption) ?_) | (with_reducible refine Keeps.of1 (by assumption) ?_)
    | (with_reducible refine Keeps.of3 (by assumption) ?_)

theorem kp_execXlatWalkDone {z : State} (i : Nat) (va : Nat) (hs : List (Option Nat)) (s : State) (hks : Keeps z s) :
    KeepsR z (execXlatWalkDone i va hs s) := by
  unfold execXlatWalkDone
  repeat' first
    | (with_reducible assumption) | intro _ | (with_reducible refine KeepsR.next ?_) | (with_reducible apply kp_walkReq)
    | (with_reducible apply Keeps.foldl) | (with_reducible apply Keeps.foldlx) | (with_reducible apply Keeps.foldlv)
    | (with_reducible apply Keeps.foldl2) | (with_reducible apply Keeps.foldl1) | (with_reducible apply Keeps.foldl22)
    | (with_reducible apply Keeps.foldl222) | (with_reducible apply Keeps.foldl2x)
    | (with_reducible refine KeepsP.mk ?_; with_reducible first | assumption | apply kp_walkReq | apply Keeps.foldlx | apply Keeps.foldlv | apply Keeps.foldl2 | apply Keeps.foldl1 | apply Keeps.foldl22 | apply Keeps.foldl222 | apply Keeps.foldl2x)
    | (with_reducible refine KeepsP.p1 ?_) | (with_reducible refine KeepsP.p2 ?_) | (with_reducible refine KeepsP.p22 ?_)
    | (with_reducible refine Keeps.of2 (by assumption) ?_) | (with_reducible refine Keeps.of1 (by assumption) ?_)
    | (with_reducible refine Keeps.of3 (by assumption) ?_)

theorem kp_putFault {z : State} (i : Nat) (f : XFault) (s : State) (hs : Keeps z s) :
    Keeps z (putFault i f s) := by
  unfold putFault
  repeat' first
    | (with_reducible assumption) | intro _
    | (extract_lets +onlyGivenNames lv; first | (have hx : Keeps z lv := ?_; generalize lv = w at hx ⊢; clear lv; rotate_left; subst lv) | (generalize lv = w; clear lv) | subst lv)
    | (with_reducible apply kp_setXl) | (with_reducible apply kp_emit) | (with_reducible apply kp_raise) | (with_reducible apply kp_setHerdF) | split
    | (with_reducible exact Keeps.mk (by assumption))

theorem kp_execFaultRecordWrite {z : State} (i : Nat) (ok : Bool) (s : State) (hs : Keeps z s) :
    KeepsR z (execFaultRecordWrite i ok s) := by
  unfold execFaultRecordWrite
  repeat' first
    | (with_reducible assumption) | intro _
    | (extract_lets +onlyGivenNames lv; first | (have hx : Keeps z lv := ?_; generalize lv = w at hx ⊢; clear lv; rotate_left; subst lv) | (generalize lv = w; clear lv) | subst lv)
    | (with_reducible refine KeepsR.next ?_) | (with_reducible apply kp_recordCE) | (with_reducible apply kp_putFault) | split

theorem kp_answerFault {z : State} (i : Nat) (fid : Nat) (res : Nat) (s : State) (hs : Keeps z s) :
    Keeps z (answerFault i fid res s) := by
  unfold answerFault
  repeat' first
    | (with_reducible assumption) | (with_reducible apply kp_raise) | (with_reducible apply kp_closeFault) | split | dsimp only
    | (with_reducible exact Keeps.mk (by assumption))

theorem kp_execXlatPcomp {z : State} (fn : Nat) (i : Nat) (v : Nat) (s : State) (hs : Keeps z s) :
    KeepsR z (execXlatPcomp fn i v s) := by
  unfold execXlatPcomp
  repeat' first
    | (with_reducible assumption) | intro _ | (with_reducible apply kp_barWrite) | (with_reducible apply kp_answerFault)
    | (with_reducible refine KeepsR.next ?_) | dsimp only

theorem kp_execPagerTimeout {z : State} (i : Nat) (fid : Nat) (s : State) (hs : Keeps z s) :
    KeepsR z (execPagerTimeout i fid s) := by
  unfold execPagerTimeout
  repeat' first
    | (with_reducible assumption) | intro _ | (with_reducible refine KeepsR.next ?_) | (with_reducible apply kp_closeFault)
    | (with_reducible apply kp_recordCE) | (with_reducible apply kp_waitTill) | split

theorem kp_dropRange {z : State} (n : Nat) (r : Nat × Nat) (s : State) (hs : Keeps z s) :
    Keeps z (dropRange n r s) := by
  unfold dropRange
  repeat' first
    | (with_reducible assumption) | intro _
    | (extract_lets +onlyGivenNames lv; first | (have hx : Keeps z lv := ?_; generalize lv = w at hx ⊢; clear lv; rotate_left; subst lv) | (have hfn0 : ∀ y, Keeps z y → Keeps z (lv y) := ?_; generalize lv = w at hfn0 ⊢; clear lv; rotate_left; subst lv) | (have hfn1 : ∀ a y, Keeps z y → Keeps z (lv a y) := ?_; generalize lv = w at hfn1 ⊢; clear lv; rotate_left; subst lv) | (have hfn2 : ∀ a b y, Keeps z y → Keeps z (lv a b y) := ?_; generalize lv = w at hfn2 ⊢; clear lv; rotate_left; subst lv) | (have hfn3 : ∀ a b c y, Keeps z y → Keeps z (lv a b c y) := ?_; generalize lv = w at hfn3 ⊢; clear lv; rotate_left; subst lv) | (have hfn4 : ∀ y a, Keeps z y → Keeps z (lv y a) := ?_; generalize lv = w at hfn4 ⊢; clear lv; rotate_left; subst lv) | (have hfn5 : ∀ a, Keeps z (lv a) := ?_; generalize lv = w at hfn5 ⊢; clear lv; rotate_left; subst lv) | (have hfn6 : ∀ a b, Keeps z (lv a b) := ?_; generalize lv = w at hfn6 ⊢; clear lv; rotate_left; subst lv) | (have hfn7 : ∀ y a b, Keeps z y → Keeps z (lv y a b) := ?_; generalize lv = w at hfn7 ⊢; clear lv; rotate_left; subst lv) | (have hfn8 : ∀ a, KeepsR z (lv a) := ?_; generalize lv = w at hfn8 ⊢; clear lv; rotate_left; subst lv) | (have hfn9 : ∀ y, Keeps z y → KeepsC z (lv y) := ?_; generalize lv = w at hfn9 ⊢; clear lv; rotate_left; subst lv) | (have hfn10 : ∀ y, Keeps z y → KeepsR z (lv y) := ?_; generalize lv = w at hfn10 ⊢; clear lv; rotate_left; subst lv) | (have hfn11 : ∀ a y, Keeps z y → KeepsR z (lv a y) := ?_; generalize lv = w at hfn11 ⊢; clear lv; rotate_left; subst lv) | (have hfn12 : ∀ y a, Keeps z y → KeepsR z (lv y a) := ?_; generalize lv = w at hfn12 ⊢; clear lv; rotate_left; subst lv) | (generalize lv = w; clear lv) | subst lv)
    | (with_reducible apply hfn0) | (with_reducible apply hfn1) | (with_reducible apply hfn2) | (with_reducible apply hfn3)
    | (with_reducible apply hfn4) | (with_reducible apply hfn5) | (with_reducible apply hfn6) | (with_reducible apply hfn7)
    | (with_reducible apply hfn8) | (with_reducible apply hfn9) | (with_reducible apply hfn10) | (with_reducible apply hfn11)
    | (with_reducible apply hfn12) | (with_reducible apply kp_setXl) | (with_reducible apply Keeps.foldl) | (with_reducible apply Keeps.foldlx)
    | (with_reducible apply Keeps.foldlv) | (with_reducible apply Keeps.foldl2) | (with_reducible apply Keeps.foldl1)
    | (with_reducible apply Keeps.foldl22) | (with_reducible apply Keeps.foldl222) | (with_reducible apply Keeps.foldl2x)
    | (with_reducible exact Keeps.mk (by assumption))

theorem kp_replyInv {z : State} (rod : Nat) (hdr : Nat) (ch : Nat) (tag : Nat) (s : State) (hs : Keeps z s) :
    Keeps z (replyInv rod hdr ch tag s) := by
  unfold replyInv
  repeat' first
    | (with_reducible assumption)
    | (extract_lets +onlyGivenNames lv; first | (have hx : Keeps z lv := ?_; generalize lv = w at hx ⊢; clear lv; rotate_left; subst lv) | (generalize lv = w; clear lv) | subst lv)
    | (with_reducible apply kp_e2eSubmit) | (with_reducible apply kp_sendItem) | split

theorem kp_endInv {z : State} (n : Nat) (v : Inval) (s : State) (hs : Keeps z s) :
    Keeps z (endInv n v s) := by
  unfold endInv
  repeat' first
    | (with_reducible assumption)
    | (extract_lets +onlyGivenNames lv; first | (have hx : Keeps z lv := ?_; generalize lv = w at hx ⊢; clear lv; rotate_left; subst lv) | (generalize lv = w; clear lv) | subst lv)
    | (with_reducible apply kp_setHerdF) | (with_reducible apply kp_setHx) | (with_reducible apply kp_raise) | (with_reducible apply kp_reply)
    | (with_reducible apply kp_replyInv) | split | (with_reducible exact Keeps.mk (by assumption))

theorem kp_finishInv {z : State} (n : Nat) (v : Inval) (s : State) (hs : Keeps z s) :
    Keeps z (finishInv n v s) := by
  unfold finishInv
  repeat' first
    | (with_reducible assumption) | intro _ | (with_reducible apply kp_endInv) | (with_reducible apply Keeps.foldl)
    | (with_reducible apply Keeps.foldlx) | (with_reducible apply Keeps.foldlv) | (with_reducible apply Keeps.foldl2)
    | (with_reducible apply Keeps.foldl1) | (with_reducible apply Keeps.foldl22) | (with_reducible apply Keeps.foldl222)
    | (with_reducible apply Keeps.foldl2x) | split

theorem kp_beginInv {z : State} (n : Nat) (v : Inval) (s : State) (hs : Keeps z s) :
    Keeps z (beginInv n v s) := by
  unfold beginInv
  repeat' first
    | (with_reducible assumption)
    | (extract_lets +onlyGivenNames lv; first | (have hx : Keeps z lv := ?_; generalize lv = w at hx ⊢; clear lv; rotate_left; subst lv) | (generalize lv = w; clear lv) | subst lv)
    | (with_reducible apply kp_setHx) | (with_reducible apply kp_setHerdF) | (with_reducible apply kp_finishInv) | split
    | (with_reducible exact Keeps.mk (by assumption))

theorem kp_execXlatInv {z : State} (fn : Nat) (i : Nat) (v : Nat) (s : State) (hs : Keeps z s) :
    KeepsR z (execXlatInv fn i v s) := by
  unfold execXlatInv
  repeat' first
    | (with_reducible assumption) | intro _
    | (extract_lets +onlyGivenNames lv; first | (have hx : Keeps z lv := ?_; generalize lv = w at hx ⊢; clear lv; rotate_left; subst lv) | (generalize lv = w; clear lv) | subst lv)
    | (with_reducible apply kp_barWrite) | (with_reducible apply kp_raise) | (with_reducible apply kp_beginInv) | split
    | (with_reducible refine KeepsR.next ?_) | dsimp only

theorem kp_execInvDone {z : State} (n : Nat) (s : State) (hs : Keeps z s) :
    KeepsR z (execInvDone n s) := by
  unfold execInvDone
  repeat' first
    | (with_reducible assumption) | intro _
    | (extract_lets +onlyGivenNames lv; first | (have hx : Keeps z lv := ?_; generalize lv = w at hx ⊢; clear lv; rotate_left; subst lv) | (generalize lv = w; clear lv) | subst lv)
    | (with_reducible refine KeepsR.next ?_) | (with_reducible apply kp_finishInv) | (with_reducible apply kp_dropRange) | split

theorem kp_dropPagerItem {z : State} (i : Nat) (s : State) (hs : Keeps z s) :
    Keeps z (dropPagerItem i s) := by
  unfold dropPagerItem
  repeat' first
    | (with_reducible assumption)
    | (extract_lets +onlyGivenNames lv; first | (have hx : Keeps z lv := ?_; generalize lv = w at hx ⊢; clear lv; rotate_left; subst lv) | (generalize lv = w; clear lv) | subst lv)
    | (with_reducible apply kp_setFq) | dsimp only | (with_reducible exact Keeps.mk (by assumption))

theorem kp_badPagerItem {z : State} (i : Nat) (s : State) (hs : Keeps z s) :
    Keeps z (badPagerItem i s) := by
  unfold badPagerItem
  repeat' first
    | (with_reducible assumption) | (with_reducible apply kp_raise) | (with_reducible apply kp_dropPagerItem) | dsimp only

theorem kp_execPagerComplete {z : State} (i : Nat) (s : State) (hs : Keeps z s) :
    KeepsR z (execPagerComplete i s) := by
  unfold execPagerComplete
  repeat' first
    | (with_reducible assumption) | (with_reducible apply kp_answerFault) | (with_reducible apply kp_dropPagerItem)
    | (with_reducible apply kp_badPagerItem) | split | (with_reducible refine KeepsR.next ?_) | dsimp only
    | (with_reducible exact Keeps.mk (by assumption))

theorem kp_execPagerInvalidate {z : State} (i : Nat) (s : State) (hs : Keeps z s) :
    KeepsR z (execPagerInvalidate i s) := by
  unfold execPagerInvalidate
  repeat' first
    | (with_reducible assumption) | (with_reducible refine KeepsR.next ?_) | (with_reducible apply kp_beginInv)
    | (with_reducible apply kp_dropPagerItem) | (with_reducible apply kp_badPagerItem) | split

theorem kp_spreadHw {z : State} (i : Nat) (off : Nat) (n : Nat) (o : Option RSpec) (s1 : State) (hs1 : Keeps z s1) :
    Keeps z (spreadHw i off n o s1) := by
  unfold spreadHw
  repeat' first
    | (with_reducible assumption) | intro _
    | (extract_lets +onlyGivenNames lv; first | (have hx : Keeps z lv := ?_; generalize lv = w at hx ⊢; clear lv; rotate_left; subst lv) | (generalize lv = w; clear lv) | subst lv)
    | (with_reducible apply kp_setF) | (with_reducible apply Keeps.foldl) | (with_reducible apply Keeps.foldlx) | (with_reducible apply Keeps.foldlv)
    | (with_reducible apply Keeps.foldl2) | (with_reducible apply Keeps.foldl1) | (with_reducible apply Keeps.foldl22)
    | (with_reducible apply Keeps.foldl222) | (with_reducible apply Keeps.foldl2x) | split

theorem kp_writeHw {z : State} (i : Nat) (off : Nat) (v : Nat) (s : State) (hs : Keeps z s) :
    Keeps z (writeHw i off v s) := by
  unfold writeHw
  repeat' first
    | (with_reducible assumption) | (with_reducible apply kp_spreadHw) | (with_reducible apply kp_writeReg)

theorem kp_execXlatPagerWrite {z : State} (fn : Nat) (i : Nat) (v : Nat) (s : State) (hs : Keeps z s) :
    KeepsR z (execXlatPagerWrite fn i v s) := by
  unfold execXlatPagerWrite
  repeat' first
    | (with_reducible assumption) | intro _
    | (extract_lets +onlyGivenNames lv; first | (have hx : Keeps z lv := ?_; generalize lv = w at hx ⊢; clear lv; rotate_left; subst lv) | (generalize lv = w; clear lv) | subst lv)
    | (with_reducible apply kp_barWrite) | (with_reducible apply kp_writeReg) | (with_reducible apply kp_raise) | (with_reducible apply kp_writeHw)
    | split | (with_reducible refine KeepsR.next ?_) | dsimp only

theorem kp_tierEnt {z : State} (n : Nat) (x : Nat) (s : State) (hs : Keeps z s) :
    Keeps z (tierEnt n x s).2 := by
  change KeepsP (fun y : Nat × State => y.2) z _
  unfold tierEnt
  repeat' first
    | (with_reducible assumption)
    | (extract_lets +onlyGivenNames lv; first | (have hx : Keeps z lv := ?_; generalize lv = w at hx ⊢; clear lv; rotate_left; subst lv) | (have hx : KeepsP (fun y : _ × _ × _ × State => y.2.2.2) z lv := ?_; generalize lv = w at hx ⊢; clear lv; replace hx : Keeps z w.2.2.2 := hx; rotate_left; subst lv) | (have hx : KeepsP (fun y : _ × State => y.2) z lv := ?_; generalize lv = w at hx ⊢; clear lv; replace hx : Keeps z w.2 := hx; rotate_left; subst lv) | (generalize lv = w; clear lv) | subst lv)
    | (with_reducible apply kp_hbaRead) | (with_reducible refine KeepsP.mk ?_; with_reducible first | assumption | apply kp_hbaRead)
    | (with_reducible refine KeepsP.p2 ?_) | (with_reducible refine KeepsP.p222 ?_) | (with_reducible refine Keeps.of4 (by assumption) ?_)
    | (with_reducible refine Keeps.of2 (by assumption) ?_) | dsimp only

theorem kp_setTierEnt {z : State} (n : Nat) (x : Nat) (v : Nat) (s : State) (hs : Keeps z s) :
    Keeps z (setTierEnt n x v s) := by
  unfold setTierEnt
  repeat' first
    | (with_reducible assumption) | (with_reducible apply kp_hbaWrite) | (with_reducible refine Keeps.of2 (by assumption) ?_) | dsimp only

theorem kp_tierFilter {z : State} (n : Nat) (p : Nat → Bool) (a2 : List Nat) (a3 : State) (ha3 : Keeps z a3) :
    Keeps z (tierFilter n p a2 a3).2 := by
  induction a2 generalizing n p a3 with
  | nil => change KeepsP (fun y : List Nat × State => y.2) z _; unfold tierFilter; repeat' first
      | (with_reducible assumption)
      | (extract_lets +onlyGivenNames lv; first | (have hx : Keeps z lv := ?_; generalize lv = w at hx ⊢; clear lv; rotate_left; subst lv) | (have hx : KeepsP (fun y : _ × State => y.2) z lv := ?_; generalize lv = w at hx ⊢; clear lv; replace hx : Keeps z w.2 := hx; rotate_left; subst lv) | (generalize lv = w; clear lv) | subst lv)
      | (with_reducible apply kp_tierEnt) | split | (with_reducible refine KeepsP.mk ?_; with_reducible first | assumption | apply kp_tierEnt)
      | (with_reducible refine KeepsP.p1 ?_) | (with_reducible refine KeepsP.p2 ?_) | (with_reducible refine KeepsP.p22 ?_)
      | (with_reducible refine Keeps.of2 (by assumption) ?_) | (with_reducible refine Keeps.of1 (by assumption) ?_)
      | (with_reducible refine Keeps.of3 (by assumption) ?_)
  | cons w0 w ih => change KeepsP (fun y : List Nat × State => y.2) z _; unfold tierFilter; repeat' first
      | (with_reducible assumption)
      | (extract_lets +onlyGivenNames lv; first | (have hx : Keeps z lv := ?_; generalize lv = w at hx ⊢; clear lv; rotate_left; subst lv) | (have hx : KeepsP (fun y : _ × State => y.2) z lv := ?_; generalize lv = w at hx ⊢; clear lv; replace hx : Keeps z w.2 := hx; rotate_left; subst lv) | (generalize lv = w; clear lv) | subst lv)
      | (with_reducible apply ih) | (with_reducible apply kp_tierEnt) | split
      | (with_reducible refine KeepsP.mk ?_; with_reducible first | assumption | apply ih | apply kp_tierEnt) | (with_reducible refine KeepsP.p1 ?_)
      | (with_reducible refine KeepsP.p2 ?_) | (with_reducible refine KeepsP.p22 ?_) | (with_reducible refine Keeps.of2 (by assumption) ?_)
      | (with_reducible refine Keeps.of1 (by assumption) ?_) | (with_reducible refine Keeps.of3 (by assumption) ?_)

theorem kp_tierFirst {z : State} (n : Nat) (p : Nat → Bool) (a2 : List Nat) (a3 : State) (ha3 : Keeps z a3) :
    Keeps z (tierFirst n p a2 a3).2 := by
  induction a2 generalizing n p a3 with
  | nil => change KeepsP (fun y : Option Nat × State => y.2) z _; unfold tierFirst; repeat' first
      | (with_reducible assumption)
      | (extract_lets +onlyGivenNames lv; first | (have hx : Keeps z lv := ?_; generalize lv = w at hx ⊢; clear lv; rotate_left; subst lv) | (have hx : KeepsP (fun y : _ × State => y.2) z lv := ?_; generalize lv = w at hx ⊢; clear lv; replace hx : Keeps z w.2 := hx; rotate_left; subst lv) | (generalize lv = w; clear lv) | subst lv)
      | (with_reducible apply kp_tierEnt) | split | (with_reducible refine KeepsP.mk ?_; with_reducible first | assumption | apply kp_tierEnt)
      | (with_reducible refine KeepsP.p1 ?_) | (with_reducible refine KeepsP.p2 ?_) | (with_reducible refine KeepsP.p22 ?_)
      | (with_reducible refine Keeps.of2 (by assumption) ?_) | (with_reducible refine Keeps.of1 (by assumption) ?_)
      | (with_reducible refine Keeps.of3 (by assumption) ?_)
  | cons w0 w ih => change KeepsP (fun y : Option Nat × State => y.2) z _; unfold tierFirst; repeat' first
      | (with_reducible assumption)
      | (extract_lets +onlyGivenNames lv; first | (have hx : Keeps z lv := ?_; generalize lv = w at hx ⊢; clear lv; rotate_left; subst lv) | (have hx : KeepsP (fun y : _ × State => y.2) z lv := ?_; generalize lv = w at hx ⊢; clear lv; replace hx : Keeps z w.2 := hx; rotate_left; subst lv) | (generalize lv = w; clear lv) | subst lv)
      | (with_reducible apply ih) | (with_reducible apply kp_tierEnt) | split
      | (with_reducible refine KeepsP.mk ?_; with_reducible first | assumption | apply ih | apply kp_tierEnt) | (with_reducible refine KeepsP.p1 ?_)
      | (with_reducible refine KeepsP.p2 ?_) | (with_reducible refine KeepsP.p22 ?_) | (with_reducible refine Keeps.of2 (by assumption) ?_)
      | (with_reducible refine Keeps.of1 (by assumption) ?_) | (with_reducible refine Keeps.of3 (by assumption) ?_)

theorem kp_tierRescan {z : State} (n : Nat) (s : State) (hs : Keeps z s) :
    Keeps z (tierRescan n s) := by
  unfold tierRescan
  repeat' first
    | (with_reducible assumption)
    | (extract_lets +onlyGivenNames lv; first | (have hx : Keeps z lv := ?_; generalize lv = w at hx ⊢; clear lv; rotate_left; subst lv) | (have hx : KeepsP (fun y : _ × State => y.2) z lv := ?_; generalize lv = w at hx ⊢; clear lv; replace hx : Keeps z w.2 := hx; rotate_left; subst lv) | (generalize lv = w; clear lv) | subst lv)
    | (with_reducible apply kp_tierFilter) | (with_reducible apply kp_setHerdF)
    | (with_reducible refine KeepsP.mk ?_; with_reducible first | assumption | apply kp_tierFilter) | (with_reducible refine KeepsP.p1 ?_)
    | (with_reducible refine KeepsP.p2 ?_) | (with_reducible refine KeepsP.p22 ?_) | (with_reducible refine Keeps.of2 (by assumption) ?_)
    | (with_reducible refine Keeps.of1 (by assumption) ?_) | (with_reducible refine Keeps.of3 (by assumption) ?_)

theorem kp_leafGo {z : State} (n : Nat) (va : Nat) (a2 : Nat) (a3 : Nat) (a4 : Bool) (a5 : Nat) (a6 : List (Option Nat)) (a7 : State) (ha7 : Keeps z a7) :
    Keeps z (leafGo n va a2 a3 a4 a5 a6 a7).2.2 := by
  induction a2 generalizing n va a3 a4 a5 a6 a7 with
  | zero => change KeepsP (fun y : LRes × List (Option Nat) × State => y.2.2) z _; unfold leafGo; repeat' first
      | (with_reducible assumption)
      | (extract_lets +onlyGivenNames lv; first | (have hx : Keeps z lv := ?_; generalize lv = w at hx ⊢; clear lv; rotate_left; subst lv) | (have hx : KeepsP (fun y : _ × _ × State => y.2.2) z lv := ?_; generalize lv = w at hx ⊢; clear lv; replace hx : Keeps z w.2.2 := hx; rotate_left; subst lv) | (generalize lv = w; clear lv) | subst lv)
      | (with_reducible apply kp_readEntry) | split | (with_reducible refine KeepsP.mk ?_; with_reducible first | assumption | apply kp_readEntry)
      | (with_reducible refine KeepsP.p1 ?_) | (with_reducible refine KeepsP.p2 ?_) | (with_reducible refine KeepsP.p22 ?_)
      | (with_reducible refine Keeps.of2 (by assumption) ?_) | (with_reducible refine Keeps.of1 (by assumption) ?_)
      | (with_reducible refine Keeps.of3 (by assumption) ?_) | (with_reducible exact Keeps.mk (by assumption))
  | succ w ih => change KeepsP (fun y : LRes × List (Option Nat) × State => y.2.2) z _; unfold leafGo; repeat' first
      | (with_reducible assumption)
      | (extract_lets +onlyGivenNames lv; first | (have hx : Keeps z lv := ?_; generalize lv = w at hx ⊢; clear lv; rotate_left; subst lv) | (have hx : KeepsP (fun y : _ × _ × State => y.2.2) z lv := ?_; generalize lv = w at hx ⊢; clear lv; replace hx : Keeps z w.2.2 := hx; rotate_left; subst lv) | (generalize lv = w; clear lv) | subst lv)
      | (with_reducible apply ih) | (with_reducible apply kp_readEntry) | split
      | (with_reducible refine KeepsP.mk ?_; with_reducible first | assumption | apply ih | apply kp_readEntry) | (with_reducible refine KeepsP.p1 ?_)
      | (with_reducible refine KeepsP.p2 ?_) | (with_reducible refine KeepsP.p22 ?_) | (with_reducible refine Keeps.of2 (by assumption) ?_)
      | (with_reducible refine Keeps.of1 (by assumption) ?_) | (with_reducible refine Keeps.of3 (by assumption) ?_)
      | (with_reducible exact Keeps.mk (by assumption))

theorem kp_findLeaf {z : State} (n : Nat) (va : Nat) (hs : List (Option Nat)) (s : State) (hks : Keeps z s) :
    Keeps z (findLeaf n va hs s).2.2 := by
  change KeepsP (fun y : LRes × List (Option Nat) × State => y.2.2) z _
  unfold findLeaf
  repeat' first
    | (with_reducible assumption)
    | (extract_lets +onlyGivenNames lv; first | (have hx : Keeps z lv := ?_; generalize lv = w at hx ⊢; clear lv; rotate_left; subst lv) | (have hx : KeepsP (fun y : _ × _ × State => y.2.2) z lv := ?_; generalize lv = w at hx ⊢; clear lv; replace hx : Keeps z w.2.2 := hx; rotate_left; subst lv) | (generalize lv = w; clear lv) | subst lv)
    | (with_reducible apply kp_leafGo) | (with_reducible apply kp_hubPut) | split
    | (with_reducible refine KeepsP.mk ?_; with_reducible first | assumption | apply kp_leafGo) | (with_reducible refine KeepsP.p1 ?_)
    | (with_reducible refine KeepsP.p2 ?_) | (with_reducible refine KeepsP.p22 ?_) | (with_reducible refine Keeps.of2 (by assumption) ?_)
    | (with_reducible refine Keeps.of1 (by assumption) ?_) | (with_reducible refine Keeps.of3 (by assumption) ?_)

theorem kp_putLeaf {z : State} (n : Nat) (a : Nat) (host : Bool) (e : Nat) (s : State) (hs : Keeps z s) :
    Keeps z (putLeaf n a host e s) := by
  unfold putLeaf
  repeat' first
    | (with_reducible assumption) | (with_reducible apply kp_emit) | (with_reducible apply kp_hbaWrite) | split
    | (with_reducible refine KeepsP.mk ?_; with_reducible first | assumption | apply kp_hbaWrite) | (with_reducible refine KeepsP.p1 ?_)
    | (with_reducible refine KeepsP.p2 ?_) | (with_reducible refine KeepsP.p22 ?_) | (with_reducible refine Keeps.of2 (by assumption) ?_)
    | (with_reducible refine Keeps.of1 (by assumption) ?_) | (with_reducible refine Keeps.of3 (by assumption) ?_)

theorem kp_showIdle {z : State} (n : Nat) (s : State) (hs : Keeps z s) :
    Keeps z (showIdle n s) := by
  unfold showIdle
  repeat' first
    | (with_reducible assumption) | (with_reducible apply kp_setHerdF) | dsimp only

theorem kp_migTry {z : State} (n : Nat) (up : Bool) (x : Nat) (g : Nat) (hs : List (Option Nat)) (s : State) (hks : Keeps z s) :
    Keeps z (migTry n up x g hs s).2.2 := by
  change KeepsP (fun y : Option Bool × List (Option Nat) × State => y.2.2) z _
  unfold migTry
  repeat' first
    | (with_reducible assumption)
    | (extract_lets +onlyGivenNames lv; first | (have hx : Keeps z lv := ?_; generalize lv = w at hx ⊢; clear lv; rotate_left; subst lv) | (have hx : KeepsP (fun y : _ × State => y.2) z lv := ?_; generalize lv = w at hx ⊢; clear lv; replace hx : Keeps z w.2 := hx; rotate_left; subst lv) | (have hx : KeepsP (fun y : _ × _ × State => y.2.2) z lv := ?_; generalize lv = w at hx ⊢; clear lv; replace hx : Keeps z w.2.2 := hx; rotate_left; subst lv) | (generalize lv = w; clear lv) | subst lv)
    | (with_reducible apply kp_tierEnt) | (with_reducible apply kp_findLeaf) | (with_reducible apply kp_recordCE)
    | (with_reducible apply kp_showIdle) | (with_reducible apply kp_setHx) | (with_reducible apply kp_putLeaf) | split
    | (with_reducible refine KeepsP.mk ?_; with_reducible first | assumption | apply kp_tierEnt | apply kp_findLeaf)
    | (with_reducible refine KeepsP.p1 ?_) | (with_reducible refine KeepsP.p2 ?_) | (with_reducible refine KeepsP.p22 ?_)
    | (with_reducible refine Keeps.of2 (by assumption) ?_) | (with_reducible refine Keeps.of1 (by assumption) ?_)
    | (with_reducible refine Keeps.of3 (by assumption) ?_) | (with_reducible exact Keeps.mk (by assumption))

theorem kp_migStop {z : State} (n : Nat) (s : State) (hs : Keeps z s) :
    Keeps z (migStop n s) := by
  unfold migStop
  repeat' first
    | (with_reducible assumption) | (with_reducible apply kp_showIdle) | (with_reducible apply kp_setHx)
    | (with_reducible exact Keeps.mk (by assumption))

theorem kp_migNext {z : State} (n : Nat) (a1 : Nat) (a2 : List (Option Nat)) (a3 : State) (ha3 : Keeps z a3) :
    Keeps z (migNext n a1 a2 a3) := by
  induction a1 generalizing n a2 a3 with
  | zero => unfold migNext; repeat' first
      | (with_reducible assumption)
      | (extract_lets +onlyGivenNames lv; first | (have hx : Keeps z lv := ?_; generalize lv = w at hx ⊢; clear lv; rotate_left; subst lv) | (have hx : KeepsP (fun y : _ × State => y.2) z lv := ?_; generalize lv = w at hx ⊢; clear lv; replace hx : Keeps z w.2 := hx; rotate_left; subst lv) | (have hx : KeepsP (fun y : _ × _ × State => y.2.2) z lv := ?_; generalize lv = w at hx ⊢; clear lv; replace hx : Keeps z w.2.2 := hx; rotate_left; subst lv) | (generalize lv = w; clear lv) | subst lv)
      | (with_reducible apply kp_migStop) | (with_reducible apply kp_tierFirst) | (with_reducible apply kp_migTry) | (with_reducible apply kp_setHx)
      | split | (with_reducible refine KeepsP.mk ?_; with_reducible first | assumption | apply kp_tierFirst | apply kp_migTry)
      | (with_reducible refine KeepsP.p1 ?_) | (with_reducible refine KeepsP.p2 ?_) | (with_reducible refine KeepsP.p22 ?_)
      | (with_reducible refine Keeps.of2 (by assumption) ?_) | (with_reducible refine Keeps.of1 (by assumption) ?_)
      | (with_reducible refine Keeps.of3 (by assumption) ?_) | (with_reducible exact Keeps.mk (by assumption))
  | succ w ih => unfold migNext; repeat' first
      | (with_reducible assumption)
      | (extract_lets +onlyGivenNames lv; first | (have hx : Keeps z lv := ?_; generalize lv = w at hx ⊢; clear lv; rotate_left; subst lv) | (have hx : KeepsP (fun y : _ × State => y.2) z lv := ?_; generalize lv = w at hx ⊢; clear lv; replace hx : Keeps z w.2 := hx; rotate_left; subst lv) | (have hx : KeepsP (fun y : _ × _ × State => y.2.2) z lv := ?_; generalize lv = w at hx ⊢; clear lv; replace hx : Keeps z w.2.2 := hx; rotate_left; subst lv) | (generalize lv = w; clear lv) | subst lv)
      | (with_reducible apply ih) | (with_reducible apply kp_migStop) | (with_reducible apply kp_tierFirst) | (with_reducible apply kp_migTry)
      | (with_reducible apply kp_setHx) | split
      | (with_reducible refine KeepsP.mk ?_; with_reducible first | assumption | apply kp_tierFirst | apply kp_migTry)
      | (with_reducible refine KeepsP.p1 ?_) | (with_reducible refine KeepsP.p2 ?_) | (with_reducible refine KeepsP.p22 ?_)
      | (with_reducible refine Keeps.of2 (by assumption) ?_) | (with_reducible refine Keeps.of1 (by assumption) ?_)
      | (with_reducible refine Keeps.of3 (by assumption) ?_) | (with_reducible exact Keeps.mk (by assumption))

theorem kp_ageFrame {z : State} (n : Nat) (t : List (Nat × Nat) × State) (x : Nat) (ht : Keeps z t.2) :
    Keeps z (ageFrame n t x).2 := by
  change KeepsP (fun y : List (Nat × Nat) × State => y.2) z _
  unfold ageFrame
  repeat' first
    | (with_reducible assumption)
    | (extract_lets +onlyGivenNames lv; first | (have hx : Keeps z lv := ?_; generalize lv = w at hx ⊢; clear lv; rotate_left; subst lv) | (have hx : KeepsP (fun y : _ × State => y.2) z lv := ?_; generalize lv = w at hx ⊢; clear lv; replace hx : Keeps z w.2 := hx; rotate_left; subst lv) | (have hx : KeepsP (fun y : _ × _ × _ × State => y.2.2.2) z lv := ?_; generalize lv = w at hx ⊢; clear lv; replace hx : Keeps z w.2.2.2 := hx; rotate_left; subst lv) | (generalize lv = w; clear lv) | subst lv)
    | (with_reducible apply kp_tierEnt) | (with_reducible apply kp_hbaWrite) | (with_reducible apply kp_hbaRead)
    | (with_reducible apply kp_setTierEnt) | split
    | (with_reducible refine KeepsP.mk ?_; with_reducible first | assumption | apply kp_tierEnt | apply kp_hbaWrite | apply kp_hbaRead)
    | (with_reducible refine KeepsP.p1 ?_) | (with_reducible refine KeepsP.p2 ?_) | (with_reducible refine KeepsP.p22 ?_)
    | (with_reducible refine KeepsP.p222 ?_) | (with_reducible refine Keeps.of2 (by assumption) ?_)
    | (with_reducible refine Keeps.of1 (by assumption) ?_) | (with_reducible refine Keeps.of3 (by assumption) ?_)
    | (with_reducible refine Keeps.of4 (by assumption) ?_)

theorem kp_tierAge {z : State} (n : Nat) (s : State) (hs : Keeps z s) :
    Keeps z (tierAge n s).2 := by
  change KeepsP (fun y : List (Nat × Nat) × State => y.2) z _
  unfold tierAge
  repeat' first
    | (with_reducible assumption) | intro _
    | (extract_lets +onlyGivenNames lv; first | (have hx : Keeps z lv := ?_; generalize lv = w at hx ⊢; clear lv; rotate_left; subst lv) | (have hx : KeepsP (fun y : _ × State => y.2) z lv := ?_; generalize lv = w at hx ⊢; clear lv; replace hx : Keeps z w.2 := hx; rotate_left; subst lv) | (have hx : KeepsP (fun y : State × _ => y.1) z lv := ?_; generalize lv = w at hx ⊢; clear lv; replace hx : Keeps z w.1 := hx; rotate_left; subst lv) | (have hx : KeepsP (fun y : _ × _ × State => y.2.2) z lv := ?_; generalize lv = w at hx ⊢; clear lv; replace hx : Keeps z w.2.2 := hx; rotate_left; subst lv) | (generalize lv = w; clear lv) | subst lv)
    | (with_reducible apply kp_ageFrame) | (with_reducible apply kp_setXl) | (with_reducible apply Keeps.foldl) | (with_reducible apply Keeps.foldlx)
    | (with_reducible apply Keeps.foldlv) | (with_reducible apply Keeps.foldl2) | (with_reducible apply Keeps.foldl1)
    | (with_reducible apply Keeps.foldl22) | (with_reducible apply Keeps.foldl222) | (with_reducible apply Keeps.foldl2x)
    | (with_reducible refine KeepsP.mk ?_; with_reducible first | assumption | apply kp_ageFrame | apply Keeps.foldlx | apply Keeps.foldlv | apply Keeps.foldl2 | apply Keeps.foldl1 | apply Keeps.foldl22 | apply Keeps.foldl222 | apply Keeps.foldl2x)
    | (with_reducible refine KeepsP.p1 ?_) | (with_reducible refine KeepsP.p2 ?_) | (with_reducible refine KeepsP.p22 ?_)
    | (with_reducible refine Keeps.of2 (by assumption) ?_) | (with_reducible refine Keeps.of1 (by assumption) ?_)
    | (with_reducible refine Keeps.of3 (by assumption) ?_) | (with_reducible exact Keeps.mk (by assumption))

theorem kp_execTierWindowEnd {z : State} (n : Nat) (hs : List (Option Nat)) (s : State) (hks : Keeps z s) :
    KeepsR z (execTierWindowEnd n hs s) := by
  unfold execTierWindowEnd
  repeat' first
    | (with_reducible assumption) | intro _
    | (extract_lets +onlyGivenNames lv; first | (have hx : Keeps z lv := ?_; generalize lv = w at hx ⊢; clear lv; rotate_left; subst lv) | (have hx : KeepsP (fun y : _ × State => y.2) z lv := ?_; generalize lv = w at hx ⊢; clear lv; replace hx : Keeps z w.2 := hx; rotate_left; subst lv) | (generalize lv = w; clear lv) | subst lv)
    | (with_reducible refine KeepsR.next ?_) | (with_reducible apply kp_tierAge) | (with_reducible apply kp_waitTill)
    | (with_reducible apply kp_setHx) | (with_reducible apply kp_migNext) | split
    | (with_reducible refine KeepsP.mk ?_; with_reducible first | assumption | apply kp_tierAge) | (with_reducible refine KeepsP.p1 ?_)
    | (with_reducible refine KeepsP.p2 ?_) | (with_reducible refine KeepsP.p22 ?_) | (with_reducible refine Keeps.of2 (by assumption) ?_)
    | (with_reducible refine Keeps.of1 (by assumption) ?_) | (with_reducible refine Keeps.of3 (by assumption) ?_)
    | (with_reducible exact Keeps.mk (by assumption))

theorem kp_endMig {z : State} (n : Nat) (m : Mig) (s : State) (hs : Keeps z s) :
    Keeps z (endMig n m s) := by
  unfold endMig
  repeat' first
    | (with_reducible assumption) | intro _
    | (extract_lets +onlyGivenNames lv; first | (have hx : Keeps z lv := ?_; generalize lv = w at hx ⊢; clear lv; rotate_left; subst lv) | (have hx : KeepsP (fun y : _ × State => y.2) z lv := ?_; generalize lv = w at hx ⊢; clear lv; replace hx : Keeps z w.2 := hx; rotate_left; subst lv) | (have hx : KeepsP (fun y : State × _ => y.1) z lv := ?_; generalize lv = w at hx ⊢; clear lv; replace hx : Keeps z w.1 := hx; rotate_left; subst lv) | (have hx : KeepsP (fun y : _ × _ × State => y.2.2) z lv := ?_; generalize lv = w at hx ⊢; clear lv; replace hx : Keeps z w.2.2 := hx; rotate_left; subst lv) | (generalize lv = w; clear lv) | subst lv)
    | (with_reducible apply kp_showIdle) | (with_reducible apply kp_setHx) | (with_reducible apply kp_resumeStream)
    | (with_reducible apply Keeps.foldl) | (with_reducible apply Keeps.foldlx) | (with_reducible apply Keeps.foldlv)
    | (with_reducible apply Keeps.foldl2) | (with_reducible apply Keeps.foldl1) | (with_reducible apply Keeps.foldl22)
    | (with_reducible apply Keeps.foldl222) | (with_reducible apply Keeps.foldl2x)
    | (with_reducible refine KeepsP.mk ?_; with_reducible first | assumption | apply Keeps.foldlx | apply Keeps.foldlv | apply Keeps.foldl2 | apply Keeps.foldl1 | apply Keeps.foldl22 | apply Keeps.foldl222 | apply Keeps.foldl2x)
    | (with_reducible refine KeepsP.p1 ?_) | (with_reducible refine KeepsP.p2 ?_) | (with_reducible refine KeepsP.p22 ?_)
    | (with_reducible refine Keeps.of2 (by assumption) ?_) | (with_reducible refine Keeps.of1 (by assumption) ?_)
    | (with_reducible refine Keeps.of3 (by assumption) ?_) | dsimp only | (with_reducible exact Keeps.mk (by assumption))

theorem kp_migOn {z : State} (n : Nat) (hs : List (Option Nat)) (s : State) (hks : Keeps z s) :
    Keeps z (migOn n hs s) := by
  unfold migOn
  repeat' first
    | (with_reducible assumption) | (with_reducible apply kp_migNext) | (with_reducible apply kp_migStop) | split

theorem kp_migCopy {z : State} (n : Nat) (m : Mig) (data : HostBytes) (s : State) (hs : Keeps z s) :
    Keeps z (migCopy n m data s) := by
  unfold migCopy
  repeat' first
    | (with_reducible assumption) | intro _
    | (extract_lets +onlyGivenNames lv; first | (have hx : Keeps z lv := ?_; generalize lv = w at hx ⊢; clear lv; rotate_left; subst lv) | (have hx : KeepsP (fun y : _ × State => y.2) z lv := ?_; generalize lv = w at hx ⊢; clear lv; replace hx : Keeps z w.2 := hx; rotate_left; subst lv) | (have hx : KeepsP (fun y : _ × _ × _ × State => y.2.2.2) z lv := ?_; generalize lv = w at hx ⊢; clear lv; replace hx : Keeps z w.2.2.2 := hx; rotate_left; subst lv) | (generalize lv = w; clear lv) | subst lv)
    | (with_reducible apply kp_hbaWriteAll) | (with_reducible apply kp_poisonRx) | (with_reducible apply kp_hbaReadAll)
    | (with_reducible apply kp_emit) | split
    | (with_reducible refine KeepsP.mk ?_; with_reducible first | assumption | apply kp_hbaWriteAll | apply kp_hbaReadAll)
    | (with_reducible refine KeepsP.p1 ?_) | (with_reducible refine KeepsP.p2 ?_) | (with_reducible refine KeepsP.p22 ?_)
    | (with_reducible refine KeepsP.p222 ?_) | (with_reducible refine Keeps.of2 (by assumption) ?_)
    | (with_reducible refine Keeps.of1 (by assumption) ?_) | (with_reducible refine Keeps.of3 (by assumption) ?_)
    | (with_reducible refine Keeps.of4 (by assumption) ?_)

theorem kp_execMigrationInvalidated {z : State} (n : Nat) (ok : Bool) (data : HostBytes) (s : State) (hs : Keeps z s) :
    KeepsR z (execMigrationInvalidated n ok data s) := by
  unfold execMigrationInvalidated
  repeat' first
    | (with_reducible assumption) | intro _
    | (extract_lets +onlyGivenNames lv; first | (have hx : Keeps z lv := ?_; generalize lv = w at hx ⊢; clear lv; rotate_left; subst lv) | (generalize lv = w; clear lv) | subst lv)
    | (with_reducible refine KeepsR.next ?_) | (with_reducible apply kp_dropRange) | (with_reducible apply kp_migOn)
    | (with_reducible apply kp_endMig) | (with_reducible apply kp_recordCE) | (with_reducible apply kp_putLeaf) | (with_reducible apply kp_migCopy)
    | (with_reducible apply kp_setHx) | split | (with_reducible exact Keeps.mk (by assumption))

theorem kp_migCommit {z : State} (n : Nat) (m : Mig) (s : State) (hs : Keeps z s) :
    Keeps z (migCommit n m s) := by
  unfold migCommit
  repeat' first
    | (with_reducible assumption)
    | (extract_lets +onlyGivenNames lv; first | (have hx : Keeps z lv := ?_; generalize lv = w at hx ⊢; clear lv; rotate_left; subst lv) | (have hx : KeepsP (fun y : _ × State => y.2) z lv := ?_; generalize lv = w at hx ⊢; clear lv; replace hx : Keeps z w.2 := hx; rotate_left; subst lv) | (generalize lv = w; clear lv) | subst lv)
    | (with_reducible apply kp_tierEnt) | (with_reducible apply kp_putLeaf) | (with_reducible apply kp_setTierEnt)
    | (with_reducible apply kp_setHerdF) | split | (with_reducible refine KeepsP.mk ?_; with_reducible first | assumption | apply kp_tierEnt)
    | (with_reducible refine KeepsP.p1 ?_) | (with_reducible refine KeepsP.p2 ?_) | (with_reducible refine KeepsP.p22 ?_)
    | (with_reducible refine Keeps.of2 (by assumption) ?_) | (with_reducible refine Keeps.of1 (by assumption) ?_)
    | (with_reducible refine Keeps.of3 (by assumption) ?_)

theorem kp_leafNow {z : State} (n : Nat) (cur : Nat) (m : Mig) (s : State) (hs : Keeps z s) :
    Keeps z (leafNow n cur m s).2 := by
  change KeepsP (fun y : Nat × State => y.2) z _
  unfold leafNow
  repeat' first
    | (with_reducible assumption)
    | (extract_lets +onlyGivenNames lv; first | (have hx : Keeps z lv := ?_; generalize lv = w at hx ⊢; clear lv; rotate_left; subst lv) | (have hx : KeepsP (fun y : _ × _ × _ × State => y.2.2.2) z lv := ?_; generalize lv = w at hx ⊢; clear lv; replace hx : Keeps z w.2.2.2 := hx; rotate_left; subst lv) | (generalize lv = w; clear lv) | subst lv)
    | (with_reducible apply kp_hbaRead) | split | (with_reducible refine KeepsP.mk ?_; with_reducible first | assumption | apply kp_hbaRead)
    | (with_reducible refine KeepsP.p1 ?_) | (with_reducible refine KeepsP.p2 ?_) | (with_reducible refine KeepsP.p22 ?_)
    | (with_reducible refine KeepsP.p222 ?_) | (with_reducible refine Keeps.of2 (by assumption) ?_)
    | (with_reducible refine Keeps.of1 (by assumption) ?_) | (with_reducible refine Keeps.of3 (by assumption) ?_)
    | (with_reducible refine Keeps.of4 (by assumption) ?_)

theorem kp_execMigrationCopyDone {z : State} (n : Nat) (cur : Nat) (hs : List (Option Nat)) (s : State) (hks : Keeps z s) :
    KeepsR z (execMigrationCopyDone n cur hs s) := by
  unfold execMigrationCopyDone
  repeat' first
    | (with_reducible assumption)
    | (extract_lets +onlyGivenNames lv; first | (have hx : Keeps z lv := ?_; generalize lv = w at hx ⊢; clear lv; rotate_left; subst lv) | (have hx : KeepsP (fun y : _ × State => y.2) z lv := ?_; generalize lv = w at hx ⊢; clear lv; replace hx : Keeps z w.2 := hx; rotate_left; subst lv) | (generalize lv = w; clear lv) | subst lv)
    | (with_reducible refine KeepsR.next ?_) | (with_reducible apply kp_migOn) | (with_reducible apply kp_leafNow) | (with_reducible apply kp_endMig)
    | (with_reducible apply kp_recordCE) | (with_reducible apply kp_migCommit) | (with_reducible apply kp_raise) | split
    | (with_reducible refine KeepsP.mk ?_; with_reducible first | assumption | apply kp_leafNow) | (with_reducible refine KeepsP.p1 ?_)
    | (with_reducible refine KeepsP.p2 ?_) | (with_reducible refine KeepsP.p22 ?_) | (with_reducible refine Keeps.of2 (by assumption) ?_)
    | (with_reducible refine Keeps.of1 (by assumption) ?_) | (with_reducible refine Keeps.of3 (by assumption) ?_)

theorem kp_newWindow {z : State} (n : Nat) (s : State) (hs : Keeps z s) :
    Keeps z (newWindow n s) := by
  unfold newWindow
  repeat' first
    | (with_reducible assumption) | intro _ | (with_reducible apply kp_setXl) | (with_reducible apply kp_setHx) | (with_reducible apply Keeps.foldl)
    | (with_reducible apply Keeps.foldlx) | (with_reducible apply Keeps.foldlv) | (with_reducible apply Keeps.foldl2)
    | (with_reducible apply Keeps.foldl1) | (with_reducible apply Keeps.foldl22) | (with_reducible apply Keeps.foldl222)
    | (with_reducible apply Keeps.foldl2x) | (with_reducible exact Keeps.mk (by assumption))

theorem kp_tierWrite {z : State} (i : Nat) (v : Nat) (s : State) (hs : Keeps z s) :
    Keeps z (tierWrite i v s) := by
  unfold tierWrite
  repeat' first
    | (with_reducible assumption)
    | (extract_lets +onlyGivenNames lv; first | (have hx : Keeps z lv := ?_; generalize lv = w at hx ⊢; clear lv; rotate_left; subst lv) | (generalize lv = w; clear lv) | subst lv)
    | (with_reducible apply kp_writeHw) | (with_reducible apply kp_raise) | (with_reducible apply kp_newWindow)
    | (with_reducible apply kp_tierRescan) | (with_reducible apply kp_migStop) | (with_reducible apply kp_showIdle) | split

theorem kp_execTierPause {z : State} (fn : Nat) (i : Nat) (v : Nat) (s : State) (hs : Keeps z s) :
    KeepsR z (execTierPause fn i v s) := by
  unfold execTierPause
  repeat' first
    | (with_reducible assumption) | intro _ | (with_reducible apply kp_barWrite) | (with_reducible apply kp_tierWrite)
    | (with_reducible refine KeepsR.next ?_) | dsimp only

theorem kp_execTierEnable {z : State} (fn : Nat) (i : Nat) (v : Nat) (s : State) (hs : Keeps z s) :
    KeepsR z (execTierEnable fn i v s) := by
  unfold execTierEnable
  repeat' first
    | (with_reducible assumption) | intro _ | (with_reducible apply kp_barWrite) | (with_reducible apply kp_tierWrite)
    | (with_reducible refine KeepsR.next ?_) | dsimp only

end Sys2Proof.Machine
end

