-- ==== Sys2Proof/Laws/KeepsBrg.lean ====
section
/-! SUPPORT. What every operation of Machine/Brg.lean keeps. -/
set_option linter.all false

namespace Sys2Proof.Machine

theorem kp_setBrgDir {z : State} (n : Nat) (d : Nat) (l : LinkDir) (s : State) (hs : Keeps z s) :
    Keeps z (setBrgDir n d l s) := by
  unfold setBrgDir
  repeat' first
    | (with_reducible assumption) | (with_reducible exact Keeps.mk (by assumption))

theorem kp_setBrgX {z : State} (n : Nat) (x : BrgX) (s : State) (hs : Keeps z s) :
    Keeps z (setBrgX n x s) := by
  unfold setBrgX
  repeat' first
    | (with_reducible assumption) | dsimp only | (with_reducible exact Keeps.mk (by assumption))

theorem kp_setLane {z : State} (n : Nat) (d : Nat) (l : Nat) (st : Nat) (lg : Nat) (s : State) (hs : Keeps z s) :
    Keeps z (setLane n d l st lg s) := by
  unfold setLane
  repeat' first
    | (with_reducible assumption) | (with_reducible apply kp_setF) | dsimp only

theorem kp_showLanes {z : State} (n : Nat) (s : State) (hs : Keeps z s) :
    Keeps z (showLanes n s) := by
  unfold showLanes
  repeat' first
    | (with_reducible assumption)
    | (extract_lets +onlyGivenNames lv; first | (have hx : Keeps z lv := ?_; generalize lv = w at hx ⊢; clear lv; rotate_left; subst lv) | (generalize lv = w; clear lv) | subst lv)
    | (with_reducible apply kp_setF) | dsimp only

theorem kp_mapLanes {z : State} (n : Nat) (d : Nat) (m : List Nat) (s : State) (hs : Keeps z s) :
    Keeps z (mapLanes n d m s) := by
  unfold mapLanes
  repeat' first
    | (with_reducible assumption) | intro _ | (with_reducible apply kp_setLane) | (with_reducible apply Keeps.foldl)
    | (with_reducible apply Keeps.foldlx) | (with_reducible apply Keeps.foldlv) | (with_reducible apply Keeps.foldl2)
    | (with_reducible apply Keeps.foldl1) | (with_reducible apply Keeps.foldl22) | (with_reducible apply Keeps.foldl222)
    | (with_reducible apply Keeps.foldl2x) | split
    | (with_reducible refine KeepsP.mk ?_; with_reducible first | assumption | apply Keeps.foldlx | apply Keeps.foldlv | apply Keeps.foldl2 | apply Keeps.foldl1 | apply Keeps.foldl22 | apply Keeps.foldl222 | apply Keeps.foldl2x)
    | (with_reducible refine Keeps.of2 (by assumption) ?_) | (with_reducible refine Keeps.of1 (by assumption) ?_)
    | (with_reducible refine Keeps.of3 (by assumption) ?_) | dsimp only

theorem kp_applyWidth {z : State} (n : Nat) (w : Nat) (ab : List Nat) (ba : List Nat) (s : State) (hs : Keeps z s) :
    Keeps z (applyWidth n w ab ba s) := by
  unfold applyWidth
  repeat' first
    | (with_reducible assumption)
    | (extract_lets +onlyGivenNames lv; first | (have hx : Keeps z lv := ?_; generalize lv = w at hx ⊢; clear lv; rotate_left; subst lv) | (generalize lv = w; clear lv) | subst lv)
    | (with_reducible apply kp_mapLanes) | (with_reducible apply kp_bump) | (with_reducible apply kp_setF) | (with_reducible apply kp_showLanes)
    | split | dsimp only

theorem kp_ladderStep {z : State} (n : Nat) (step : Nat) (d : Nat) (lane : Nat) (s : State) (hs : Keeps z s) :
    Keeps z (ladderStep n step d lane s) := by
  unfold ladderStep
  repeat' first
    | (with_reducible assumption)
    | (extract_lets +onlyGivenNames lv; first | (have hx : Keeps z lv := ?_; generalize lv = w at hx ⊢; clear lv; rotate_left; subst lv) | (generalize lv = w; clear lv) | subst lv)
    | (with_reducible apply kp_tally) | (with_reducible apply kp_setF) | dsimp only

theorem kp_loss {z : State} (n : Nat) (s : State) (hs : Keeps z s) :
    Keeps z (loss n s) := by
  unfold loss
  repeat' first
    | (with_reducible assumption) | (with_reducible apply kp_degrade) | (with_reducible apply kp_setF) | split | dsimp only

theorem kp_brgOutFlit {z : State} (n : Nat) (d : Nat) (ctrl : Bool) (seq : Nat) (vc : Nat) (head : Bool) (pay : List Byte) (s : State) (hs : Keeps z s) :
    Keeps z (brgOutFlit n d ctrl seq vc head pay s) := by
  unfold brgOutFlit
  repeat' first
    | (with_reducible assumption) | (with_reducible apply kp_emit)

theorem kp_emitFlits {z : State} (n : Nat) (d : Nat) (l : List Unacked) (s : State) (hs : Keeps z s) :
    Keeps z (emitFlits n d l s) := by
  unfold emitFlits
  repeat' first
    | (with_reducible assumption) | intro _ | (with_reducible apply kp_brgOutFlit) | (with_reducible apply Keeps.foldl)
    | (with_reducible apply Keeps.foldlx) | (with_reducible apply Keeps.foldlv) | (with_reducible apply Keeps.foldl2)
    | (with_reducible apply Keeps.foldl1) | (with_reducible apply Keeps.foldl22) | (with_reducible apply Keeps.foldl222)
    | (with_reducible apply Keeps.foldl2x) | split

theorem kp_brgTell {z : State} (n : Nat) (d : Nat) (f : List Nat) (s : State) (hs : Keeps z s) :
    Keeps z (brgTell n d f s) := by
  unfold brgTell
  repeat' first
    | (with_reducible assumption) | (with_reducible apply kp_brgOutFlit)

theorem kp_brgBytes {z : State} (n : Nat) (d : Nat) (k : Nat) (s : State) (hs : Keeps z s) :
    Keeps z (brgBytes n d k s) := by
  unfold brgBytes
  repeat' first
    | (with_reducible assumption) | (with_reducible apply kp_bump64) | dsimp only

theorem kp_brgCtlOut {z : State} (n : Nat) (d : Nat) (f : List Nat) (s : State) (hs : Keeps z s) :
    Keeps z (brgCtlOut n d f s) := by
  unfold brgCtlOut
  repeat' first
    | (with_reducible assumption)
    | (extract_lets +onlyGivenNames lv; first | (have hx : Keeps z lv := ?_; generalize lv = w at hx ⊢; clear lv; rotate_left; subst lv) | (generalize lv = w; clear lv) | subst lv)
    | (with_reducible apply kp_brgOutFlit) | (with_reducible apply kp_setBrgDir)

theorem kp_sendBrgCtl {z : State} (n : Nat) (d : Nat) (f : List Nat) (s : State) (hs : Keeps z s) :
    Keeps z (sendBrgCtl n d f s) := by
  unfold sendBrgCtl
  repeat' first
    | (with_reducible assumption)
    | (extract_lets +onlyGivenNames lv; first | (have hx : Keeps z lv := ?_; generalize lv = w at hx ⊢; clear lv; rotate_left; subst lv) | (generalize lv = w; clear lv) | subst lv)
    | (with_reducible apply kp_brgCtlOut) | (with_reducible apply kp_setBrgDir) | split | (with_reducible exact Keeps.mk (by assumption))

theorem kp_resend {z : State} (n : Nat) (d : Nat) (a : Nat) (s : State) (hs : Keeps z s) :
    Keeps z (resend n d a s) := by
  unfold resend
  repeat' first
    | (with_reducible assumption)
    | (extract_lets +onlyGivenNames lv; first | (have hx : Keeps z lv := ?_; generalize lv = w at hx ⊢; clear lv; rotate_left; subst lv) | (generalize lv = w; clear lv) | subst lv)
    | (with_reducible apply kp_setBrgDir) | (with_reducible apply kp_emitFlits) | (with_reducible apply kp_bump) | split | dsimp only
    | (with_reducible exact Keeps.mk (by assumption))

theorem kp_carryRun {z : State} (n : Nat) (d : Nat) (run : List Unacked) (s : State) (hs : Keeps z s) :
    Keeps z (carryRun n d run s) := by
  unfold carryRun
  repeat' first
    | (with_reducible assumption) | intro _
    | (extract_lets +onlyGivenNames lv; first | (have hx : Keeps z lv := ?_; generalize lv = w at hx ⊢; clear lv; rotate_left; subst lv) | (have hfn0 : ∀ y, Keeps z y → Keeps z (lv y) := ?_; generalize lv = w at hfn0 ⊢; clear lv; rotate_left; subst lv) | (have hfn1 : ∀ a y, Keeps z y → Keeps z (lv a y) := ?_; generalize lv = w at hfn1 ⊢; clear lv; rotate_left; subst lv) | (have hfn2 : ∀ a b y, Keeps z y → Keeps z (lv a b y) := ?_; generalize lv = w at hfn2 ⊢; clear lv; rotate_left; subst lv) | (have hfn3 : ∀ a b c y, Keeps z y → Keeps z (lv a b c y) := ?_; generalize lv = w at hfn3 ⊢; clear lv; rotate_left; subst lv) | (have hfn4 : ∀ y a, Keeps z y → Keeps z (lv y a) := ?_; generalize lv = w at hfn4 ⊢; clear lv; rotate_left; subst lv) | (have hfn5 : ∀ a, Keeps z (lv a) := ?_; generalize lv = w at hfn5 ⊢; clear lv; rotate_left; subst lv) | (have hfn6 : ∀ a b, Keeps z (lv a b) := ?_; generalize lv = w at hfn6 ⊢; clear lv; rotate_left; subst lv) | (have hfn7 : ∀ y a b, Keeps z y → Keeps z (lv y a b) := ?_; generalize lv = w at hfn7 ⊢; clear lv; rotate_left; subst lv) | (have hfn8 : ∀ a, KeepsR z (lv a) := ?_; generalize lv = w at hfn8 ⊢; clear lv; rotate_left; subst lv) | (have hfn9 : ∀ y, Keeps z y → KeepsC z (lv y) := ?_; generalize lv = w at hfn9 ⊢; clear lv; rotate_left; subst lv) | (have hfn10 : ∀ y, Keeps z y → KeepsR z (lv y) := ?_; generalize lv = w at hfn10 ⊢; clear lv; rotate_left; subst lv) | (have hfn11 : ∀ a y, Keeps z y → KeepsR z (lv a y) := ?_; generalize lv = w at hfn11 ⊢; clear lv; rotate_left; subst lv) | (have hfn12 : ∀ y a, Keeps z y → KeepsR z (lv y a) := ?_; generalize lv = w at hfn12 ⊢; clear lv; rotate_left; subst lv) | (generalize lv = w; clear lv) | subst lv)
    | (with_reducible apply hfn0) | (with_reducible apply hfn1) | (with_reducible apply hfn2) | (with_reducible apply hfn3)
    | (with_reducible apply hfn4) | (with_reducible apply hfn5) | (with_reducible apply hfn6) | (with_reducible apply hfn7)
    | (with_reducible apply hfn8) | (with_reducible apply hfn9) | (with_reducible apply hfn10) | (with_reducible apply hfn11)
    | (with_reducible apply hfn12) | (with_reducible apply kp_emitFlits) | (with_reducible apply kp_setBrgDir) | (with_reducible apply kp_brgCtlOut)
    | (with_reducible apply Keeps.foldl) | (with_reducible apply Keeps.foldlx) | (with_reducible apply Keeps.foldlv)
    | (with_reducible apply Keeps.foldl2) | (with_reducible apply Keeps.foldl1) | (with_reducible apply Keeps.foldl22)
    | (with_reducible apply Keeps.foldl222) | (with_reducible apply Keeps.foldl2x) | split | (with_reducible exact Keeps.mk (by assumption))

theorem kp_brgPumpGo {z : State} (n : Nat) (d : Nat) (a2 : Nat) (a3 : State) (ha3 : Keeps z a3) :
    Keeps z (brgPumpGo n d a2 a3) := by
  induction a2 generalizing n d a3 with
  | zero => unfold brgPumpGo; repeat' first
      | (with_reducible assumption)
      | (extract_lets +onlyGivenNames lv; first | (have hx : Keeps z lv := ?_; generalize lv = w at hx ⊢; clear lv; rotate_left; subst lv) | (generalize lv = w; clear lv) | subst lv)
      | (with_reducible apply kp_brgCtlOut) | (with_reducible apply kp_setBrgDir) | (with_reducible apply kp_brgBytes)
      | (with_reducible apply kp_carryRun) | split | (with_reducible exact Keeps.mk (by assumption))
  | succ w ih => unfold brgPumpGo; repeat' first
      | (with_reducible assumption)
      | (extract_lets +onlyGivenNames lv; first | (have hx : Keeps z lv := ?_; generalize lv = w at hx ⊢; clear lv; rotate_left; subst lv) | (generalize lv = w; clear lv) | subst lv)
      | (with_reducible apply ih) | (with_reducible apply kp_brgCtlOut) | (with_reducible apply kp_setBrgDir) | (with_reducible apply kp_brgBytes)
      | (with_reducible apply kp_carryRun) | split | (with_reducible exact Keeps.mk (by assumption))

theorem kp_brgPump {z : State} (n : Nat) (d : Nat) (s : State) (hs : Keeps z s) :
    Keeps z (brgPump n d s) := by
  unfold brgPump
  repeat' first
    | (with_reducible assumption) | (with_reducible apply kp_brgPumpGo)

theorem kp_moveGroup {z : State} (b : Nat) (k : Nat) (a : Nat) (c : Nat) (s : State) (hs : Keeps z s) :
    Keeps z (moveGroup b k a c s) := by
  unfold moveGroup
  repeat' first
    | (with_reducible assumption) | intro _
    | (extract_lets +onlyGivenNames lv; first | (have hx : Keeps z lv := ?_; generalize lv = w at hx ⊢; clear lv; rotate_left; subst lv) | (have hfn0 : ∀ y, Keeps z y → Keeps z (lv y) := ?_; generalize lv = w at hfn0 ⊢; clear lv; rotate_left; subst lv) | (have hfn1 : ∀ a y, Keeps z y → Keeps z (lv a y) := ?_; generalize lv = w at hfn1 ⊢; clear lv; rotate_left; subst lv) | (have hfn2 : ∀ a b y, Keeps z y → Keeps z (lv a b y) := ?_; generalize lv = w at hfn2 ⊢; clear lv; rotate_left; subst lv) | (have hfn3 : ∀ a b c y, Keeps z y → Keeps z (lv a b c y) := ?_; generalize lv = w at hfn3 ⊢; clear lv; rotate_left; subst lv) | (have hfn4 : ∀ y a, Keeps z y → Keeps z (lv y a) := ?_; generalize lv = w at hfn4 ⊢; clear lv; rotate_left; subst lv) | (have hfn5 : ∀ a, Keeps z (lv a) := ?_; generalize lv = w at hfn5 ⊢; clear lv; rotate_left; subst lv) | (have hfn6 : ∀ a b, Keeps z (lv a b) := ?_; generalize lv = w at hfn6 ⊢; clear lv; rotate_left; subst lv) | (have hfn7 : ∀ y a b, Keeps z y → Keeps z (lv y a b) := ?_; generalize lv = w at hfn7 ⊢; clear lv; rotate_left; subst lv) | (have hfn8 : ∀ a, KeepsR z (lv a) := ?_; generalize lv = w at hfn8 ⊢; clear lv; rotate_left; subst lv) | (have hfn9 : ∀ y, Keeps z y → KeepsC z (lv y) := ?_; generalize lv = w at hfn9 ⊢; clear lv; rotate_left; subst lv) | (have hfn10 : ∀ y, Keeps z y → KeepsR z (lv y) := ?_; generalize lv = w at hfn10 ⊢; clear lv; rotate_left; subst lv) | (have hfn11 : ∀ a y, Keeps z y → KeepsR z (lv a y) := ?_; generalize lv = w at hfn11 ⊢; clear lv; rotate_left; subst lv) | (have hfn12 : ∀ y a, Keeps z y → KeepsR z (lv y a) := ?_; generalize lv = w at hfn12 ⊢; clear lv; rotate_left; subst lv) | (generalize lv = w; clear lv) | subst lv)
    | (with_reducible apply hfn0) | (with_reducible apply hfn1) | (with_reducible apply hfn2) | (with_reducible apply hfn3)
    | (with_reducible apply hfn4) | (with_reducible apply hfn5) | (with_reducible apply hfn6) | (with_reducible apply hfn7)
    | (with_reducible apply hfn8) | (with_reducible apply hfn9) | (with_reducible apply hfn10) | (with_reducible apply hfn11)
    | (with_reducible apply hfn12) | (with_reducible apply kp_setBrgDir) | (with_reducible apply kp_brgPump) | (with_reducible apply kp_setF)
    | (with_reducible refine Keeps.getD ?_ ?_) | (with_reducible apply Keeps.foldl) | (with_reducible apply Keeps.foldlx)
    | (with_reducible apply Keeps.foldlv) | (with_reducible apply Keeps.foldl2) | (with_reducible apply Keeps.foldl1)
    | (with_reducible apply Keeps.foldl22) | (with_reducible apply Keeps.foldl222) | (with_reducible apply Keeps.foldl2x)
    | (with_reducible exact Keeps.mk (by assumption))

theorem kp_moveGroups {z : State} (b : Nat) (s : State) (hs : Keeps z s) :
    Keeps z (moveGroups b s) := by
  unfold moveGroups
  repeat' first
    | (with_reducible assumption) | intro _
    | (extract_lets +onlyGivenNames lv; first | (have hx : Keeps z lv := ?_; generalize lv = w at hx ⊢; clear lv; rotate_left; subst lv) | (have hx : KeepsP (fun y : _ × State => y.2) z lv := ?_; generalize lv = w at hx ⊢; clear lv; replace hx : Keeps z w.2 := hx; rotate_left; subst lv) | (have hx : KeepsP (fun y : State × _ => y.1) z lv := ?_; generalize lv = w at hx ⊢; clear lv; replace hx : Keeps z w.1 := hx; rotate_left; subst lv) | (have hx : KeepsP (fun y : _ × _ × State => y.2.2) z lv := ?_; generalize lv = w at hx ⊢; clear lv; replace hx : Keeps z w.2.2 := hx; rotate_left; subst lv) | (generalize lv = w; clear lv) | subst lv)
    | (with_reducible apply kp_moveGroup) | (with_reducible apply Keeps.foldl) | (with_reducible apply Keeps.foldlx)
    | (with_reducible apply Keeps.foldlv) | (with_reducible apply Keeps.foldl2) | (with_reducible apply Keeps.foldl1)
    | (with_reducible apply Keeps.foldl22) | (with_reducible apply Keeps.foldl222) | (with_reducible apply Keeps.foldl2x) | split
    | (with_reducible refine KeepsP.mk ?_; with_reducible first | assumption | apply Keeps.foldlx | apply Keeps.foldlv | apply Keeps.foldl2 | apply Keeps.foldl1 | apply Keeps.foldl22 | apply Keeps.foldl222 | apply Keeps.foldl2x)
    | (with_reducible refine KeepsP.p1 ?_) | (with_reducible refine KeepsP.p2 ?_) | (with_reducible refine KeepsP.p22 ?_)
    | (with_reducible refine Keeps.of2 (by assumption) ?_) | (with_reducible refine Keeps.of1 (by assumption) ?_)
    | (with_reducible refine Keeps.of3 (by assumption) ?_) | dsimp only | (with_reducible exact Keeps.mk (by assumption))

theorem kp_stopCarrying {z : State} (n : Nat) (s : State) (hs : Keeps z s) :
    Keeps z (stopCarrying n s) := by
  unfold stopCarrying
  repeat' first
    | (with_reducible assumption) | (with_reducible apply kp_moveGroups) | (with_reducible apply kp_setF) | dsimp only

theorem kp_showRelay {z : State} (s : State) (hs : Keeps z s) :
    Keeps z (showRelay s) := by
  unfold showRelay
  repeat' first
    | (with_reducible assumption) | intro _
    | (extract_lets +onlyGivenNames lv; first | (have hx : Keeps z lv := ?_; generalize lv = w at hx ⊢; clear lv; rotate_left; subst lv) | (have hx : KeepsP (fun y : _ × State => y.2) z lv := ?_; generalize lv = w at hx ⊢; clear lv; replace hx : Keeps z w.2 := hx; rotate_left; subst lv) | (have hx : KeepsP (fun y : State × _ => y.1) z lv := ?_; generalize lv = w at hx ⊢; clear lv; replace hx : Keeps z w.1 := hx; rotate_left; subst lv) | (have hx : KeepsP (fun y : _ × _ × State => y.2.2) z lv := ?_; generalize lv = w at hx ⊢; clear lv; replace hx : Keeps z w.2.2 := hx; rotate_left; subst lv) | (generalize lv = w; clear lv) | subst lv)
    | (with_reducible apply kp_setF) | (with_reducible apply Keeps.foldl) | (with_reducible apply Keeps.foldlx) | (with_reducible apply Keeps.foldlv)
    | (with_reducible apply Keeps.foldl2) | (with_reducible apply Keeps.foldl1) | (with_reducible apply Keeps.foldl22)
    | (with_reducible apply Keeps.foldl222) | (with_reducible apply Keeps.foldl2x)
    | (with_reducible refine KeepsP.mk ?_; with_reducible first | assumption | apply Keeps.foldlx | apply Keeps.foldlv | apply Keeps.foldl2 | apply Keeps.foldl1 | apply Keeps.foldl22 | apply Keeps.foldl222 | apply Keeps.foldl2x)
    | (with_reducible refine KeepsP.p1 ?_) | (with_reducible refine KeepsP.p2 ?_) | (with_reducible refine KeepsP.p22 ?_)
    | (with_reducible refine Keeps.of2 (by assumption) ?_) | (with_reducible refine Keeps.of1 (by assumption) ?_)
    | (with_reducible refine Keeps.of3 (by assumption) ?_) | dsimp only

theorem kp_setRemoved {z : State} (b : Nat) (v : Nat) (s : State) (hs : Keeps z s) :
    Keeps z (setRemoved b v s) := by
  unfold setRemoved
  repeat' first
    | (with_reducible assumption) | intro _ | (with_reducible apply kp_setF) | (with_reducible apply Keeps.foldl)
    | (with_reducible apply Keeps.foldlx) | (with_reducible apply Keeps.foldlv) | (with_reducible apply Keeps.foldl2)
    | (with_reducible apply Keeps.foldl1) | (with_reducible apply Keeps.foldl22) | (with_reducible apply Keeps.foldl222)
    | (with_reducible apply Keeps.foldl2x)
    | (with_reducible refine KeepsP.mk ?_; with_reducible first | assumption | apply Keeps.foldlx | apply Keeps.foldlv | apply Keeps.foldl2 | apply Keeps.foldl1 | apply Keeps.foldl22 | apply Keeps.foldl222 | apply Keeps.foldl2x)
    | (with_reducible refine Keeps.of2 (by assumption) ?_) | (with_reducible refine Keeps.of1 (by assumption) ?_)
    | (with_reducible refine Keeps.of3 (by assumption) ?_) | dsimp only

theorem kp_removedLoss {z : State} (s : State) (hs : Keeps z s) :
    Keeps z (removedLoss s) := by
  unfold removedLoss
  repeat' first
    | (with_reducible assumption) | (with_reducible apply kp_setF) | split | dsimp only

theorem kp_checkBridge {z : State} (b : Nat) (s : State) (hs : Keeps z s) :
    Keeps z (checkBridge b s) := by
  unfold checkBridge
  repeat' first
    | (with_reducible assumption) | intro _
    | (extract_lets +onlyGivenNames lv; first | (have hx : Keeps z lv := ?_; generalize lv = w at hx ⊢; clear lv; rotate_left; subst lv) | (have hx : KeepsP (fun y : _ × State => y.2) z lv := ?_; generalize lv = w at hx ⊢; clear lv; replace hx : Keeps z w.2 := hx; rotate_left; subst lv) | (have hx : KeepsP (fun y : State × _ => y.1) z lv := ?_; generalize lv = w at hx ⊢; clear lv; replace hx : Keeps z w.1 := hx; rotate_left; subst lv) | (have hx : KeepsP (fun y : _ × _ × State => y.2.2) z lv := ?_; generalize lv = w at hx ⊢; clear lv; replace hx : Keeps z w.2.2 := hx; rotate_left; subst lv) | (generalize lv = w; clear lv) | subst lv)
    | (with_reducible apply kp_relevel) | (with_reducible apply kp_showRelay) | (with_reducible apply kp_removedLoss)
    | (with_reducible apply kp_ladderStep) | (with_reducible apply kp_setRemoved) | (with_reducible apply kp_recordCE)
    | (with_reducible apply kp_raise) | (with_reducible apply kp_degrade) | (with_reducible apply kp_recordErr) | (with_reducible apply Keeps.foldl)
    | (with_reducible apply Keeps.foldlx) | (with_reducible apply Keeps.foldlv) | (with_reducible apply Keeps.foldl2)
    | (with_reducible apply Keeps.foldl1) | (with_reducible apply Keeps.foldl22) | (with_reducible apply Keeps.foldl222)
    | (with_reducible apply Keeps.foldl2x) | split
    | (with_reducible refine KeepsP.mk ?_; with_reducible first | assumption | apply Keeps.foldlx | apply Keeps.foldlv | apply Keeps.foldl2 | apply Keeps.foldl1 | apply Keeps.foldl22 | apply Keeps.foldl222 | apply Keeps.foldl2x)
    | (with_reducible refine KeepsP.p1 ?_) | (with_reducible refine KeepsP.p2 ?_) | (with_reducible refine KeepsP.p22 ?_)
    | (with_reducible refine Keeps.of2 (by assumption) ?_) | (with_reducible refine Keeps.of1 (by assumption) ?_)
    | (with_reducible refine Keeps.of3 (by assumption) ?_) | dsimp only

theorem kp_startRetrain {z : State} (n : Nat) (s : State) (hs : Keeps z s) :
    Keeps z (startRetrain n s) := by
  unfold startRetrain
  repeat' first
    | (with_reducible assumption)
    | (extract_lets +onlyGivenNames lv; first | (have hx : Keeps z lv := ?_; generalize lv = w at hx ⊢; clear lv; rotate_left; subst lv) | (generalize lv = w; clear lv) | subst lv)
    | (with_reducible apply kp_countRetrain) | (with_reducible apply kp_raise) | (with_reducible apply kp_setF)
    | (with_reducible apply kp_stopCarrying) | dsimp only

theorem kp_changeWidth {z : State} (n : Nat) (w : Nat) (why : Nat) (d : Nat) (lane : Nat) (s : State) (hs : Keeps z s) :
    Keeps z (changeWidth n w why d lane s) := by
  unfold changeWidth
  repeat' first
    | (with_reducible assumption)
    | (extract_lets +onlyGivenNames lv; first | (have hx : Keeps z lv := ?_; generalize lv = w at hx ⊢; clear lv; rotate_left; subst lv) | (generalize lv = w; clear lv) | subst lv)
    | (with_reducible apply kp_startRetrain) | (with_reducible apply kp_setBrgX) | (with_reducible apply kp_sendBrgCtl) | dsimp only
    | (with_reducible exact Keeps.mk (by assumption))

theorem kp_brgDrain {z : State} (n : Nat) (s : State) (hs : Keeps z s) :
    Keeps z (brgDrain n s) := by
  unfold brgDrain
  repeat' first
    | (with_reducible assumption)
    | (extract_lets +onlyGivenNames lv; first | (have hx : Keeps z lv := ?_; generalize lv = w at hx ⊢; clear lv; rotate_left; subst lv) | (generalize lv = w; clear lv) | subst lv)
    | (with_reducible apply kp_setF) | (with_reducible apply kp_stopCarrying) | (with_reducible apply kp_showRetraining)
    | (with_reducible apply kp_setBrgX) | (with_reducible exact Keeps.mk (by assumption))

theorem kp_retire {z : State} (n : Nat) (d : Nat) (lane : Nat) (code : Nat) (s : State) (hs : Keeps z s) :
    Keeps z (retire n d lane code s) := by
  unfold retire
  repeat' first
    | (with_reducible assumption)
    | (extract_lets +onlyGivenNames lv; first | (have hx : Keeps z lv := ?_; generalize lv = w at hx ⊢; clear lv; rotate_left; subst lv) | (generalize lv = w; clear lv) | subst lv)
    | (with_reducible apply kp_ladderStep) | (with_reducible apply kp_brgDrain) | (with_reducible apply kp_setBrgX) | dsimp only
    | (with_reducible exact Keeps.mk (by assumption))

theorem kp_laneBad {z : State} (n : Nat) (d : Nat) (l : Nat) (s : State) (hs : Keeps z s) :
    Keeps z (laneBad n d l s) := by
  unfold laneBad
  repeat' first
    | (with_reducible assumption) | (with_reducible apply kp_showLanes) | (with_reducible apply kp_setLane) | dsimp only

theorem kp_setLaneFails {z : State} (n : Nat) (d : Nat) (l : Nat) (fs : List LaneFails) (s : State) (hs : Keeps z s) :
    Keeps z (setLaneFails n d l fs s) := by
  unfold setLaneFails
  repeat' first
    | (with_reducible assumption) | intro _
    | (extract_lets +onlyGivenNames lv; first | (have hx : Keeps z lv := ?_; generalize lv = w at hx ⊢; clear lv; rotate_left; subst lv) | (generalize lv = w; clear lv) | subst lv)
    | (with_reducible apply kp_setF) | (with_reducible apply kp_setBrgX) | (with_reducible exact Keeps.mk (by assumption))

theorem kp_ladder {z : State} (n : Nat) (d : Nat) (l : Nat) (r9 : Bool) (r6 : Bool) (now_ : Bool) (s : State) (hs : Keeps z s) :
    Keeps z (ladder n d l r9 r6 now_ s) := by
  unfold ladder
  repeat' first
    | (with_reducible assumption) | intro _
    | (extract_lets +onlyGivenNames lv; first | (have hx : Keeps z lv := ?_; generalize lv = w at hx ⊢; clear lv; rotate_left; subst lv) | (have hx : KeepsP (fun y : _ × State => y.2) z lv := ?_; generalize lv = w at hx ⊢; clear lv; replace hx : Keeps z w.2 := hx; rotate_left; subst lv) | (generalize lv = w; clear lv) | subst lv)
    | (with_reducible apply kp_laneBad) | (with_reducible apply kp_setBrgX) | (with_reducible apply kp_takeFree) | (with_reducible apply kp_tally)
    | (with_reducible apply kp_recordCE) | (with_reducible apply kp_ladderStep) | (with_reducible apply kp_loss)
    | (with_reducible apply kp_changeWidth) | (with_reducible apply kp_retire) | split
    | (with_reducible refine KeepsP.mk ?_; with_reducible first | assumption | apply kp_takeFree) | (with_reducible refine KeepsP.p1 ?_)
    | (with_reducible refine KeepsP.p2 ?_) | (with_reducible refine KeepsP.p22 ?_) | (with_reducible refine Keeps.of2 (by assumption) ?_)
    | (with_reducible refine Keeps.of1 (by assumption) ?_) | (with_reducible refine Keeps.of3 (by assumption) ?_)
    | (with_reducible exact Keeps.mk (by assumption))

theorem kp_reLadder {z : State} (n : Nat) (s : State) (hs : Keeps z s) :
    Keeps z (reLadder n s) := by
  unfold reLadder
  repeat' first
    | (with_reducible assumption) | intro _
    | (extract_lets +onlyGivenNames lv; first | (have hx : Keeps z lv := ?_; generalize lv = w at hx ⊢; clear lv; rotate_left; subst lv) | (generalize lv = w; clear lv) | subst lv)
    | (with_reducible apply kp_ladder) | (with_reducible apply Keeps.foldl) | (with_reducible apply Keeps.foldlx)
    | (with_reducible apply Keeps.foldlv) | (with_reducible apply Keeps.foldl2) | (with_reducible apply Keeps.foldl1)
    | (with_reducible apply Keeps.foldl22) | (with_reducible apply Keeps.foldl222) | (with_reducible apply Keeps.foldl2x) | split

theorem kp_climb {z : State} (n : Nat) (d : Nat) (l : Nat) (r9 : Bool) (r6 : Bool) (now_ : Bool) (s : State) (hs : Keeps z s) :
    Keeps z (climb n d l r9 r6 now_ s) := by
  unfold climb
  repeat' first
    | (with_reducible assumption)
    | (extract_lets +onlyGivenNames lv; first | (have hx : Keeps z lv := ?_; generalize lv = w at hx ⊢; clear lv; rotate_left; subst lv) | (generalize lv = w; clear lv) | subst lv)
    | (with_reducible apply kp_ladder) | (with_reducible apply kp_reLadder) | split

theorem kp_execLaneErrorRate {z : State} (n : Nat) (d : Nat) (l : Nat) (w1s : Nat) (w1ms : Nat) (fails : Nat) (s : State) (hs : Keeps z s) :
    KeepsR z (execLaneErrorRate n d l w1s w1ms fails s) := by
  unfold execLaneErrorRate
  repeat' first
    | (with_reducible assumption) | intro _
    | (extract_lets +onlyGivenNames lv; first | (have hx : Keeps z lv := ?_; generalize lv = w at hx ⊢; clear lv; rotate_left; subst lv) | (generalize lv = w; clear lv) | subst lv)
    | (with_reducible refine KeepsR.next ?_) | (with_reducible apply kp_setBrgX) | (with_reducible apply kp_setLaneFails)
    | (with_reducible apply kp_recordCE) | (with_reducible apply kp_climb) | (with_reducible apply Keeps.foldl) | (with_reducible apply Keeps.foldlx)
    | (with_reducible apply Keeps.foldlv) | (with_reducible apply Keeps.foldl2) | (with_reducible apply Keeps.foldl1)
    | (with_reducible apply Keeps.foldl22) | (with_reducible apply Keeps.foldl222) | (with_reducible apply Keeps.foldl2x) | split
    | (with_reducible exact Keeps.mk (by assumption))

theorem kp_execBrgLaneLockLoss {z : State} (n : Nat) (d : Nat) (l : Nat) (s : State) (hs : Keeps z s) :
    KeepsR z (execBrgLaneLockLoss n d l s) := by
  unfold execBrgLaneLockLoss
  repeat' first
    | (with_reducible assumption)
    | (extract_lets +onlyGivenNames lv; first | (have hx : Keeps z lv := ?_; generalize lv = w at hx ⊢; clear lv; rotate_left; subst lv) | (generalize lv = w; clear lv) | subst lv)
    | (with_reducible refine KeepsR.next ?_) | (with_reducible apply kp_climb) | (with_reducible apply kp_setBrgX) | split
    | (with_reducible exact Keeps.mk (by assumption))

theorem kp_execSpareTrained {z : State} (n : Nat) (d : Nat) (l : Nat) (ok : Bool) (s : State) (hs : Keeps z s) :
    KeepsR z (execSpareTrained n d l ok s) := by
  unfold execSpareTrained
  repeat' first
    | (with_reducible assumption) | intro _
    | (extract_lets +onlyGivenNames lv; first | (have hx : Keeps z lv := ?_; generalize lv = w at hx ⊢; clear lv; rotate_left; subst lv) | (generalize lv = w; clear lv) | subst lv)
    | (with_reducible refine KeepsR.next ?_) | (with_reducible apply kp_sendBrgCtl) | (with_reducible apply kp_setBrgX)
    | (with_reducible apply kp_laneBad) | (with_reducible apply kp_reLadder) | (with_reducible apply kp_ladder) | split
    | (with_reducible exact Keeps.mk (by assumption))

theorem kp_laneFailed {z : State} (n : Nat) (d : Nat) (l : Nat) (s : State) (hs : Keeps z s) :
    Keeps z (laneFailed n d l s) := by
  unfold laneFailed
  repeat' first
    | (with_reducible assumption)
    | (extract_lets +onlyGivenNames lv; first | (have hx : Keeps z lv := ?_; generalize lv = w at hx ⊢; clear lv; rotate_left; subst lv) | (generalize lv = w; clear lv) | subst lv)
    | (with_reducible apply kp_setLaneFails) | (with_reducible apply kp_recordCE) | (with_reducible apply kp_climb)

theorem kp_lanePass {z : State} (n : Nat) (d : Nat) (errs : List (Nat × Nat)) (s : State) (hs : Keeps z s) :
    Keeps z (lanePass n d errs s) := by
  unfold lanePass
  repeat' first
    | (with_reducible assumption) | intro _
    | (extract_lets +onlyGivenNames lv; first | (have hx : Keeps z lv := ?_; generalize lv = w at hx ⊢; clear lv; rotate_left; subst lv) | (have hfn0 : ∀ y, Keeps z y → Keeps z (lv y) := ?_; generalize lv = w at hfn0 ⊢; clear lv; rotate_left; subst lv) | (have hfn1 : ∀ a y, Keeps z y → Keeps z (lv a y) := ?_; generalize lv = w at hfn1 ⊢; clear lv; rotate_left; subst lv) | (have hfn2 : ∀ a b y, Keeps z y → Keeps z (lv a b y) := ?_; generalize lv = w at hfn2 ⊢; clear lv; rotate_left; subst lv) | (have hfn3 : ∀ a b c y, Keeps z y → Keeps z (lv a b c y) := ?_; generalize lv = w at hfn3 ⊢; clear lv; rotate_left; subst lv) | (have hfn4 : ∀ y a, Keeps z y → Keeps z (lv y a) := ?_; generalize lv = w at hfn4 ⊢; clear lv; rotate_left; subst lv) | (have hfn5 : ∀ a, Keeps z (lv a) := ?_; generalize lv = w at hfn5 ⊢; clear lv; rotate_left; subst lv) | (have hfn6 : ∀ a b, Keeps z (lv a b) := ?_; generalize lv = w at hfn6 ⊢; clear lv; rotate_left; subst lv) | (have hfn7 : ∀ y a b, Keeps z y → Keeps z (lv y a b) := ?_; generalize lv = w at hfn7 ⊢; clear lv; rotate_left; subst lv) | (have hfn8 : ∀ a, KeepsR z (lv a) := ?_; generalize lv = w at hfn8 ⊢; clear lv; rotate_left; subst lv) | (have hfn9 : ∀ y, Keeps z y → KeepsC z (lv y) := ?_; generalize lv = w at hfn9 ⊢; clear lv; rotate_left; subst lv) | (have hfn10 : ∀ y, Keeps z y → KeepsR z (lv y) := ?_; generalize lv = w at hfn10 ⊢; clear lv; rotate_left; subst lv) | (have hfn11 : ∀ a y, Keeps z y → KeepsR z (lv a y) := ?_; generalize lv = w at hfn11 ⊢; clear lv; rotate_left; subst lv) | (have hfn12 : ∀ y a, Keeps z y → KeepsR z (lv y a) := ?_; generalize lv = w at hfn12 ⊢; clear lv; rotate_left; subst lv) | (generalize lv = w; clear lv) | subst lv)
    | (with_reducible apply hfn0) | (with_reducible apply hfn1) | (with_reducible apply hfn2) | (with_reducible apply hfn3)
    | (with_reducible apply hfn4) | (with_reducible apply hfn5) | (with_reducible apply hfn6) | (with_reducible apply hfn7)
    | (with_reducible apply hfn8) | (with_reducible apply hfn9) | (with_reducible apply hfn10) | (with_reducible apply hfn11)
    | (with_reducible apply hfn12) | (with_reducible apply kp_setBrgX) | (with_reducible apply kp_laneFailed)
    | (with_reducible refine Keeps.getD ?_ ?_) | (with_reducible apply Keeps.foldl) | (with_reducible apply Keeps.foldlx)
    | (with_reducible apply Keeps.foldlv) | (with_reducible apply Keeps.foldl2) | (with_reducible apply Keeps.foldl1)
    | (with_reducible apply Keeps.foldl22) | (with_reducible apply Keeps.foldl222) | (with_reducible apply Keeps.foldl2x) | split
    | (with_reducible exact Keeps.mk (by assumption))

theorem kp_brgCrcFail {z : State} (n : Nat) (d : Nat) (seq : Nat) (s : State) (hs : Keeps z s) :
    Keeps z (brgCrcFail n d seq s) := by
  unfold brgCrcFail
  repeat' first
    | (with_reducible assumption) | (with_reducible apply kp_recordCE) | (with_reducible apply kp_bump) | dsimp only

theorem kp_brgSendCredit {z : State} (n : Nat) (d : Nat) (s : State) (hs : Keeps z s) :
    Keeps z (brgSendCredit n d s) := by
  unfold brgSendCredit
  repeat' first
    | (with_reducible assumption) | intro _
    | (extract_lets +onlyGivenNames lv; first | (have hx : Keeps z lv := ?_; generalize lv = w at hx ⊢; clear lv; rotate_left; subst lv) | (generalize lv = w; clear lv) | subst lv)
    | (with_reducible apply kp_brgTell) | (with_reducible apply kp_setBrgDir) | (with_reducible exact Keeps.mk (by assumption))

theorem kp_brgHeader {z : State} (n : Nat) (d : Nat) (seq : Nat) (ack : Nat) (vc : Nat) (crc : Bool) (s : State) (hs : Keeps z s) :
    Keeps z (brgHeader n d seq ack vc crc s).2 := by
  change KeepsP (fun y : Take × State => y.2) z _
  unfold brgHeader
  repeat' first
    | (with_reducible assumption)
    | (extract_lets +onlyGivenNames lv; first | (have hx : Keeps z lv := ?_; generalize lv = w at hx ⊢; clear lv; rotate_left; subst lv) | (generalize lv = w; clear lv) | subst lv)
    | (with_reducible apply kp_setBrgDir) | (with_reducible apply kp_brgCrcFail) | (with_reducible apply kp_brgTell)
    | (with_reducible apply kp_brgSendCredit) | split | (with_reducible refine KeepsP.mk ?_; with_reducible first | assumption)
    | (with_reducible refine KeepsP.p1 ?_) | (with_reducible refine KeepsP.p2 ?_) | (with_reducible refine KeepsP.p22 ?_)
    | (with_reducible refine Keeps.of2 (by assumption) ?_) | (with_reducible refine Keeps.of1 (by assumption) ?_)
    | (with_reducible refine Keeps.of3 (by assumption) ?_)

theorem kp_carried {z : State} (n : Nat) (d : Nat) (s : State) (hs : Keeps z s) :
    Keeps z (carried n d s) := by
  unfold carried
  repeat' first
    | (with_reducible assumption)
    | (extract_lets +onlyGivenNames lv; first | (have hx : Keeps z lv := ?_; generalize lv = w at hx ⊢; clear lv; rotate_left; subst lv) | (generalize lv = w; clear lv) | subst lv)
    | (with_reducible apply kp_setBrgDir) | split | dsimp only | (with_reducible exact Keeps.mk (by assumption))

theorem kp_brgArrive {z : State} (n : Nat) (d : Nat) (errs : List (Nat × Nat)) (s : State) (hs : Keeps z s) :
    Keeps z (brgArrive n d errs s).2 := by
  change KeepsP (fun y : Bool × State => y.2) z _
  unfold brgArrive
  repeat' first
    | (with_reducible assumption) | (with_reducible apply kp_lanePass) | (with_reducible refine KeepsP.mk ?_; with_reducible first | assumption)
    | (with_reducible refine KeepsP.p1 ?_) | (with_reducible refine KeepsP.p2 ?_) | (with_reducible refine KeepsP.p22 ?_)
    | (with_reducible refine Keeps.of2 (by assumption) ?_) | (with_reducible refine Keeps.of1 (by assumption) ?_)
    | (with_reducible refine Keeps.of3 (by assumption) ?_)

theorem kp_execBrgFlitReceived {z : State} (n : Nat) (d : Nat) (seq : Nat) (ack : Nat) (vc : Nat) (errs : List (Nat × Nat)) (ctrl : Bool) (op : Nat) (s : State) (hs : Keeps z s) :
    KeepsR z (execBrgFlitReceived n d seq ack vc errs ctrl op s) := by
  unfold execBrgFlitReceived
  repeat' first
    | (with_reducible assumption)
    | (extract_lets +onlyGivenNames lv; first | (have hx : Keeps z lv := ?_; generalize lv = w at hx ⊢; clear lv; rotate_left; subst lv) | (have hx : KeepsP (fun y : _ × State => y.2) z lv := ?_; generalize lv = w at hx ⊢; clear lv; replace hx : Keeps z w.2 := hx; rotate_left; subst lv) | (generalize lv = w; clear lv) | subst lv)
    | (with_reducible refine KeepsR.next ?_) | (with_reducible apply kp_brgArrive) | (with_reducible apply kp_brgPump)
    | (with_reducible apply kp_setBrgDir) | (with_reducible apply kp_brgCrcFail) | (with_reducible apply kp_brgHeader)
    | (with_reducible apply kp_carried) | split
    | (with_reducible refine KeepsP.mk ?_; with_reducible first | assumption | apply kp_brgArrive | apply kp_brgHeader)
    | (with_reducible refine KeepsP.p1 ?_) | (with_reducible refine KeepsP.p2 ?_) | (with_reducible refine KeepsP.p22 ?_)
    | (with_reducible refine Keeps.of2 (by assumption) ?_) | (with_reducible refine Keeps.of1 (by assumption) ?_)
    | (with_reducible refine Keeps.of3 (by assumption) ?_)

theorem kp_execBrgCredit {z : State} (n : Nat) (d : Nat) (ack : Nat) (c : List Nat) (s : State) (hs : Keeps z s) :
    KeepsR z (execBrgCredit n d ack c s) := by
  unfold execBrgCredit
  repeat' first
    | (with_reducible assumption)
    | (extract_lets +onlyGivenNames lv; first | (have hx : Keeps z lv := ?_; generalize lv = w at hx ⊢; clear lv; rotate_left; subst lv) | (generalize lv = w; clear lv) | subst lv)
    | (with_reducible refine KeepsR.next ?_) | (with_reducible apply kp_lanePass) | (with_reducible apply kp_setBrgDir)
    | (with_reducible apply kp_brgPump) | split

theorem kp_execBrgNak {z : State} (n : Nat) (d : Nat) (seq : Nat) (ack : Nat) (s : State) (hs : Keeps z s) :
    KeepsR z (execBrgNak n d seq ack s) := by
  unfold execBrgNak
  repeat' first
    | (with_reducible assumption)
    | (extract_lets +onlyGivenNames lv; first | (have hx : Keeps z lv := ?_; generalize lv = w at hx ⊢; clear lv; rotate_left; subst lv) | (generalize lv = w; clear lv) | subst lv)
    | (with_reducible refine KeepsR.next ?_) | (with_reducible apply kp_lanePass) | (with_reducible apply kp_setBrgDir)
    | (with_reducible apply kp_startRetrain) | (with_reducible apply kp_brgPump) | (with_reducible apply kp_resend) | split
    | (with_reducible exact Keeps.mk (by assumption))

theorem kp_execCarry {z : State} (n : Nat) (d : Nat) (seq : Nat) (ack : Nat) (home : Nat) (first : Nat) (count : Nat) (s : State) (hs : Keeps z s) :
    KeepsR z (execCarry n d seq ack home first count s) := by
  unfold execCarry
  repeat' first
    | (with_reducible assumption)
    | (extract_lets +onlyGivenNames lv; first | (have hx : Keeps z lv := ?_; generalize lv = w at hx ⊢; clear lv; rotate_left; subst lv) | (have hx : KeepsP (fun y : _ × State => y.2) z lv := ?_; generalize lv = w at hx ⊢; clear lv; replace hx : Keeps z w.2 := hx; rotate_left; subst lv) | (generalize lv = w; clear lv) | subst lv)
    | (with_reducible refine KeepsR.next ?_) | (with_reducible apply kp_brgHeader) | (with_reducible apply kp_lanePass)
    | (with_reducible apply kp_brgPump) | (with_reducible apply kp_setBrgDir) | split
    | (with_reducible refine KeepsP.mk ?_; with_reducible first | assumption | apply kp_brgHeader) | (with_reducible refine KeepsP.p1 ?_)
    | (with_reducible refine KeepsP.p2 ?_) | (with_reducible refine KeepsP.p22 ?_) | (with_reducible refine Keeps.of2 (by assumption) ?_)
    | (with_reducible refine Keeps.of1 (by assumption) ?_) | (with_reducible refine Keeps.of3 (by assumption) ?_)
    | (with_reducible exact Keeps.mk (by assumption))

theorem kp_execSwap {z : State} (n : Nat) (d : Nat) (seq : Nat) (ack : Nat) (dir : Nat) (lg : Nat) (l : Nat) (s : State) (hs : Keeps z s) :
    KeepsR z (execSwap n d seq ack dir lg l s) := by
  unfold execSwap
  repeat' first
    | (with_reducible assumption) | intro _
    | (extract_lets +onlyGivenNames lv; first | (have hx : Keeps z lv := ?_; generalize lv = w at hx ⊢; clear lv; rotate_left; subst lv) | (have hx : KeepsP (fun y : _ × State => y.2) z lv := ?_; generalize lv = w at hx ⊢; clear lv; replace hx : Keeps z w.2 := hx; rotate_left; subst lv) | (generalize lv = w; clear lv) | subst lv)
    | (with_reducible refine KeepsR.next ?_) | (with_reducible apply kp_brgHeader) | (with_reducible apply kp_lanePass)
    | (with_reducible apply kp_showLanes) | (with_reducible apply kp_setLane) | (with_reducible apply kp_setBrgX)
    | (with_reducible apply kp_recordCE) | (with_reducible apply kp_bump) | (with_reducible apply kp_raise) | (with_reducible apply kp_ladderStep)
    | (with_reducible apply kp_reLadder) | split | (with_reducible refine KeepsP.mk ?_; with_reducible first | assumption | apply kp_brgHeader)
    | (with_reducible refine KeepsP.p1 ?_) | (with_reducible refine KeepsP.p2 ?_) | (with_reducible refine KeepsP.p22 ?_)
    | (with_reducible refine Keeps.of2 (by assumption) ?_) | (with_reducible refine Keeps.of1 (by assumption) ?_)
    | (with_reducible refine Keeps.of3 (by assumption) ?_) | (with_reducible exact Keeps.mk (by assumption))

theorem kp_execBrgWidth {z : State} (n : Nat) (d : Nat) (seq : Nat) (ack : Nat) (w : Nat) (ab : Nat) (ba : Nat) (s : State) (hs : Keeps z s) :
    KeepsR z (execBrgWidth n d seq ack w ab ba s) := by
  unfold execBrgWidth
  repeat' first
    | (with_reducible assumption) | intro _
    | (extract_lets +onlyGivenNames lv; first | (have hx : Keeps z lv := ?_; generalize lv = w at hx ⊢; clear lv; rotate_left; subst lv) | (have hx : KeepsP (fun y : _ × State => y.2) z lv := ?_; generalize lv = w at hx ⊢; clear lv; replace hx : Keeps z w.2 := hx; rotate_left; subst lv) | (have hfn0 : ∀ y, Keeps z y → Keeps z (lv y) := ?_; generalize lv = w at hfn0 ⊢; clear lv; rotate_left; subst lv) | (have hfn1 : ∀ a y, Keeps z y → Keeps z (lv a y) := ?_; generalize lv = w at hfn1 ⊢; clear lv; rotate_left; subst lv) | (have hfn2 : ∀ a b y, Keeps z y → Keeps z (lv a b y) := ?_; generalize lv = w at hfn2 ⊢; clear lv; rotate_left; subst lv) | (have hfn3 : ∀ a b c y, Keeps z y → Keeps z (lv a b c y) := ?_; generalize lv = w at hfn3 ⊢; clear lv; rotate_left; subst lv) | (have hfn4 : ∀ y a, Keeps z y → Keeps z (lv y a) := ?_; generalize lv = w at hfn4 ⊢; clear lv; rotate_left; subst lv) | (have hfn5 : ∀ a, Keeps z (lv a) := ?_; generalize lv = w at hfn5 ⊢; clear lv; rotate_left; subst lv) | (have hfn6 : ∀ a b, Keeps z (lv a b) := ?_; generalize lv = w at hfn6 ⊢; clear lv; rotate_left; subst lv) | (have hfn7 : ∀ y a b, Keeps z y → Keeps z (lv y a b) := ?_; generalize lv = w at hfn7 ⊢; clear lv; rotate_left; subst lv) | (have hfn8 : ∀ a, KeepsR z (lv a) := ?_; generalize lv = w at hfn8 ⊢; clear lv; rotate_left; subst lv) | (have hfn9 : ∀ y, Keeps z y → KeepsC z (lv y) := ?_; generalize lv = w at hfn9 ⊢; clear lv; rotate_left; subst lv) | (have hfn10 : ∀ y, Keeps z y → KeepsR z (lv y) := ?_; generalize lv = w at hfn10 ⊢; clear lv; rotate_left; subst lv) | (have hfn11 : ∀ a y, Keeps z y → KeepsR z (lv a y) := ?_; generalize lv = w at hfn11 ⊢; clear lv; rotate_left; subst lv) | (have hfn12 : ∀ y a, Keeps z y → KeepsR z (lv y a) := ?_; generalize lv = w at hfn12 ⊢; clear lv; rotate_left; subst lv) | (generalize lv = w; clear lv) | subst lv)
    | (with_reducible apply hfn0) | (with_reducible apply hfn1) | (with_reducible apply hfn2) | (with_reducible apply hfn3)
    | (with_reducible apply hfn4) | (with_reducible apply hfn5) | (with_reducible apply hfn6) | (with_reducible apply hfn7)
    | (with_reducible apply hfn8) | (with_reducible apply hfn9) | (with_reducible apply hfn10) | (with_reducible apply hfn11)
    | (with_reducible apply hfn12) | (with_reducible refine KeepsR.next ?_) | (with_reducible apply kp_brgHeader)
    | (with_reducible apply kp_lanePass) | (with_reducible apply kp_applyWidth) | split
    | (with_reducible refine KeepsP.mk ?_; with_reducible first | assumption | apply kp_brgHeader) | (with_reducible refine KeepsP.p1 ?_)
    | (with_reducible refine KeepsP.p2 ?_) | (with_reducible refine KeepsP.p22 ?_) | (with_reducible refine Keeps.of2 (by assumption) ?_)
    | (with_reducible refine Keeps.of1 (by assumption) ?_) | (with_reducible refine Keeps.of3 (by assumption) ?_)

theorem kp_execBrgDrainEnd {z : State} (n : Nat) (d : Nat) (seq : Nat) (ack : Nat) (s : State) (hs : Keeps z s) :
    KeepsR z (execBrgDrainEnd n d seq ack s) := by
  unfold execBrgDrainEnd
  repeat' first
    | (with_reducible assumption)
    | (extract_lets +onlyGivenNames lv; first | (have hx : Keeps z lv := ?_; generalize lv = w at hx ⊢; clear lv; rotate_left; subst lv) | (have hx : KeepsP (fun y : _ × State => y.2) z lv := ?_; generalize lv = w at hx ⊢; clear lv; replace hx : Keeps z w.2 := hx; rotate_left; subst lv) | (generalize lv = w; clear lv) | subst lv)
    | (with_reducible refine KeepsR.next ?_) | (with_reducible apply kp_brgHeader) | (with_reducible apply kp_lanePass)
    | (with_reducible apply kp_setBrgDir) | split | (with_reducible refine KeepsP.mk ?_; with_reducible first | assumption | apply kp_brgHeader)
    | (with_reducible refine KeepsP.p1 ?_) | (with_reducible refine KeepsP.p2 ?_) | (with_reducible refine KeepsP.p22 ?_)
    | (with_reducible refine Keeps.of2 (by assumption) ?_) | (with_reducible refine Keeps.of1 (by assumption) ?_)
    | (with_reducible refine Keeps.of3 (by assumption) ?_) | (with_reducible exact Keeps.mk (by assumption))

theorem kp_execBrgCreditTimer {z : State} (n : Nat) (d : Nat) (s : State) (hs : Keeps z s) :
    KeepsR z (execBrgCreditTimer n d s) := by
  unfold execBrgCreditTimer
  repeat' first
    | (with_reducible assumption)
    | (extract_lets +onlyGivenNames lv; first | (have hx : Keeps z lv := ?_; generalize lv = w at hx ⊢; clear lv; rotate_left; subst lv) | (generalize lv = w; clear lv) | subst lv)
    | (with_reducible apply kp_brgSendCredit) | split | (with_reducible refine KeepsR.next ?_) | dsimp only

theorem kp_execBrgReplayTimeout {z : State} (n : Nat) (d : Nat) (s : State) (hs : Keeps z s) :
    KeepsR z (execBrgReplayTimeout n d s) := by
  unfold execBrgReplayTimeout
  repeat' first
    | (with_reducible assumption)
    | (extract_lets +onlyGivenNames lv; first | (have hx : Keeps z lv := ?_; generalize lv = w at hx ⊢; clear lv; rotate_left; subst lv) | (generalize lv = w; clear lv) | subst lv)
    | (with_reducible refine KeepsR.next ?_) | (with_reducible apply kp_waitTill) | (with_reducible apply kp_startRetrain)
    | (with_reducible apply kp_setBrgDir) | (with_reducible apply kp_resend) | split | (with_reducible exact Keeps.mk (by assumption))

theorem kp_execBrgCreditTimeout {z : State} (n : Nat) (d : Nat) (vc : Nat) (s : State) (hs : Keeps z s) :
    KeepsR z (execBrgCreditTimeout n d vc s) := by
  unfold execBrgCreditTimeout
  repeat' first
    | (with_reducible assumption)
    | (extract_lets +onlyGivenNames lv; first | (have hx : Keeps z lv := ?_; generalize lv = w at hx ⊢; clear lv; rotate_left; subst lv) | (generalize lv = w; clear lv) | subst lv)
    | (with_reducible refine KeepsR.next ?_) | (with_reducible apply kp_startRetrain) | (with_reducible apply kp_recordCE)
    | (with_reducible apply kp_waitTill) | (with_reducible refine Keeps.getD ?_ ?_) | split

theorem kp_brgEnter {z : State} (n : Nat) (s : State) (hs : Keeps z s) :
    Keeps z (brgEnter n s) := by
  unfold brgEnter
  repeat' first
    | (with_reducible assumption)
    | (extract_lets +onlyGivenNames lv; first | (have hx : Keeps z lv := ?_; generalize lv = w at hx ⊢; clear lv; rotate_left; subst lv) | (generalize lv = w; clear lv) | subst lv)
    | (with_reducible apply kp_setF) | (with_reducible apply kp_moveGroup) | (with_reducible apply kp_relevel)
    | (with_reducible apply kp_checkBridge) | (with_reducible apply kp_moveGroups) | (with_reducible apply kp_showRetraining) | split

theorem kp_brgFresh {z : State} (n : Nat) (s : State) (hs : Keeps z s) :
    Keeps z (brgFresh n s) := by
  unfold brgFresh
  repeat' first
    | (with_reducible assumption) | intro _
    | (extract_lets +onlyGivenNames lv; first | (have hx : Keeps z lv := ?_; generalize lv = w at hx ⊢; clear lv; rotate_left; subst lv) | (generalize lv = w; clear lv) | subst lv)
    | (with_reducible apply kp_setBrgDir) | (with_reducible apply Keeps.foldl) | (with_reducible apply Keeps.foldlx)
    | (with_reducible apply Keeps.foldlv) | (with_reducible apply Keeps.foldl2) | (with_reducible apply Keeps.foldl1)
    | (with_reducible apply Keeps.foldl22) | (with_reducible apply Keeps.foldl222) | (with_reducible apply Keeps.foldl2x) | split
    | (with_reducible exact Keeps.mk (by assumption))

theorem kp_brgTested {z : State} (n : Nat) (ab : Nat) (ba : Nat) (s : State) (hs : Keeps z s) :
    Keeps z (brgTested n ab ba s).2 := by
  change KeepsP (fun y : Bool × State => y.2) z _
  unfold brgTested
  repeat' first
    | (with_reducible assumption) | intro _
    | (extract_lets +onlyGivenNames lv; first | (have hx : Keeps z lv := ?_; generalize lv = w at hx ⊢; clear lv; rotate_left; subst lv) | (have hx : KeepsP (fun y : _ × State => y.2) z lv := ?_; generalize lv = w at hx ⊢; clear lv; replace hx : Keeps z w.2 := hx; rotate_left; subst lv) | (have hx : KeepsP (fun y : State × _ => y.1) z lv := ?_; generalize lv = w at hx ⊢; clear lv; replace hx : Keeps z w.1 := hx; rotate_left; subst lv) | (have hx : KeepsP (fun y : _ × _ × State => y.2.2) z lv := ?_; generalize lv = w at hx ⊢; clear lv; replace hx : Keeps z w.2.2 := hx; rotate_left; subst lv) | (have hfn0 : ∀ y, Keeps z y → Keeps z (lv y) := ?_; generalize lv = w at hfn0 ⊢; clear lv; rotate_left; subst lv) | (have hfn1 : ∀ a y, Keeps z y → Keeps z (lv a y) := ?_; generalize lv = w at hfn1 ⊢; clear lv; rotate_left; subst lv) | (have hfn2 : ∀ a b y, Keeps z y → Keeps z (lv a b y) := ?_; generalize lv = w at hfn2 ⊢; clear lv; rotate_left; subst lv) | (have hfn3 : ∀ a b c y, Keeps z y → Keeps z (lv a b c y) := ?_; generalize lv = w at hfn3 ⊢; clear lv; rotate_left; subst lv) | (have hfn4 : ∀ y a, Keeps z y → Keeps z (lv y a) := ?_; generalize lv = w at hfn4 ⊢; clear lv; rotate_left; subst lv) | (have hfn5 : ∀ a, Keeps z (lv a) := ?_; generalize lv = w at hfn5 ⊢; clear lv; rotate_left; subst lv) | (have hfn6 : ∀ a b, Keeps z (lv a b) := ?_; generalize lv = w at hfn6 ⊢; clear lv; rotate_left; subst lv) | (have hfn7 : ∀ y a b, Keeps z y → Keeps z (lv y a b) := ?_; generalize lv = w at hfn7 ⊢; clear lv; rotate_left; subst lv) | (have hfn8 : ∀ a, KeepsR z (lv a) := ?_; generalize lv = w at hfn8 ⊢; clear lv; rotate_left; subst lv) | (have hfn9 : ∀ y, Keeps z y → KeepsC z (lv y) := ?_; generalize lv = w at hfn9 ⊢; clear lv; rotate_left; subst lv) | (have hfn10 : ∀ y, Keeps z y → KeepsR z (lv y) := ?_; generalize lv = w at hfn10 ⊢; clear lv; rotate_left; subst lv) | (have hfn11 : ∀ a y, Keeps z y → KeepsR z (lv a y) := ?_; generalize lv = w at hfn11 ⊢; clear lv; rotate_left; subst lv) | (have hfn12 : ∀ y a, Keeps z y → KeepsR z (lv y a) := ?_; generalize lv = w at hfn12 ⊢; clear lv; rotate_left; subst lv) | (generalize lv = w; clear lv) | subst lv)
    | (with_reducible apply hfn0) | (with_reducible apply hfn1) | (with_reducible apply hfn2) | (with_reducible apply hfn3)
    | (with_reducible apply hfn4) | (with_reducible apply hfn5) | (with_reducible apply hfn6) | (with_reducible apply hfn7)
    | (with_reducible apply hfn8) | (with_reducible apply hfn9) | (with_reducible apply hfn10) | (with_reducible apply hfn11)
    | (with_reducible apply hfn12) | (with_reducible apply kp_setLane) | (with_reducible apply kp_showLanes) | (with_reducible apply kp_setF)
    | (with_reducible apply kp_mapLanes) | (with_reducible apply Keeps.foldl) | (with_reducible apply Keeps.foldlx)
    | (with_reducible apply Keeps.foldlv) | (with_reducible apply Keeps.foldl2) | (with_reducible apply Keeps.foldl1)
    | (with_reducible apply Keeps.foldl22) | (with_reducible apply Keeps.foldl222) | (with_reducible apply Keeps.foldl2x) | split
    | (with_reducible refine KeepsP.mk ?_; with_reducible first | assumption | apply Keeps.foldlx | apply Keeps.foldlv | apply Keeps.foldl2 | apply Keeps.foldl1 | apply Keeps.foldl22 | apply Keeps.foldl222 | apply Keeps.foldl2x)
    | (with_reducible refine KeepsP.p1 ?_) | (with_reducible refine KeepsP.p2 ?_) | (with_reducible refine KeepsP.p22 ?_)
    | (with_reducible refine Keeps.of2 (by assumption) ?_) | (with_reducible refine Keeps.of1 (by assumption) ?_)
    | (with_reducible refine Keeps.of3 (by assumption) ?_) | dsimp only

theorem kp_trainFail {z : State} (n : Nat) (s : State) (hs : Keeps z s) :
    Keeps z (trainFail n s) := by
  unfold trainFail
  repeat' first
    | (with_reducible assumption) | (with_reducible apply kp_loss) | (with_reducible apply kp_recordErr) | dsimp only

theorem kp_askWidth {z : State} (n : Nat) (w : Nat) (s : State) (hs : Keeps z s) :
    Keeps z (askWidth n w s) := by
  unfold askWidth
  repeat' first
    | (with_reducible assumption)
    | (extract_lets +onlyGivenNames lv; first | (have hx : Keeps z lv := ?_; generalize lv = w at hx ⊢; clear lv; rotate_left; subst lv) | (generalize lv = w; clear lv) | subst lv)
    | (with_reducible apply kp_raise) | (with_reducible apply kp_changeWidth) | (with_reducible apply kp_ladderStep) | split | dsimp only

theorem kp_manualWidth {z : State} (n : Nat) (s : State) (hs : Keeps z s) :
    Keeps z (manualWidth n s) := by
  unfold manualWidth
  repeat' first
    | (with_reducible assumption) | (with_reducible apply kp_askWidth) | split | dsimp only

theorem kp_brgStarted {z : State} (n : Nat) (ab : Nat) (ba : Nat) (s : State) (hs : Keeps z s) :
    Keeps z (brgStarted n ab ba s) := by
  unfold brgStarted
  repeat' first
    | (with_reducible assumption)
    | (extract_lets +onlyGivenNames lv; first | (have hx : Keeps z lv := ?_; generalize lv = w at hx ⊢; clear lv; rotate_left; subst lv) | (have hx : KeepsP (fun y : _ × State => y.2) z lv := ?_; generalize lv = w at hx ⊢; clear lv; replace hx : Keeps z w.2 := hx; rotate_left; subst lv) | (generalize lv = w; clear lv) | subst lv)
    | (with_reducible apply kp_brgTested) | (with_reducible apply kp_setBrgX) | (with_reducible apply kp_brgFresh)
    | (with_reducible apply kp_manualWidth) | (with_reducible apply kp_brgEnter) | (with_reducible apply kp_setState)
    | (with_reducible apply kp_checkBridge) | (with_reducible apply kp_trainFail) | split
    | (with_reducible refine KeepsP.mk ?_; with_reducible first | assumption | apply kp_brgTested) | (with_reducible refine KeepsP.p1 ?_)
    | (with_reducible refine KeepsP.p2 ?_) | (with_reducible refine KeepsP.p22 ?_) | (with_reducible refine Keeps.of2 (by assumption) ?_)
    | (with_reducible refine Keeps.of1 (by assumption) ?_) | (with_reducible refine Keeps.of3 (by assumption) ?_)

theorem kp_lanesTrained {z : State} (n : Nat) (ab : Nat) (ba : Nat) (s : State) (hs : Keeps z s) :
    Keeps z (lanesTrained n ab ba s) := by
  unfold lanesTrained
  repeat' first
    | (with_reducible assumption) | intro _
    | (extract_lets +onlyGivenNames lv; first | (have hx : Keeps z lv := ?_; generalize lv = w at hx ⊢; clear lv; rotate_left; subst lv) | (have hx : KeepsP (fun y : _ × State => y.2) z lv := ?_; generalize lv = w at hx ⊢; clear lv; replace hx : Keeps z w.2 := hx; rotate_left; subst lv) | (have hx : KeepsP (fun y : State × _ => y.1) z lv := ?_; generalize lv = w at hx ⊢; clear lv; replace hx : Keeps z w.1 := hx; rotate_left; subst lv) | (have hx : KeepsP (fun y : _ × _ × State => y.2.2) z lv := ?_; generalize lv = w at hx ⊢; clear lv; replace hx : Keeps z w.2.2 := hx; rotate_left; subst lv) | (have hfn0 : ∀ y, Keeps z y → Keeps z (lv y) := ?_; generalize lv = w at hfn0 ⊢; clear lv; rotate_left; subst lv) | (have hfn1 : ∀ a y, Keeps z y → Keeps z (lv a y) := ?_; generalize lv = w at hfn1 ⊢; clear lv; rotate_left; subst lv) | (have hfn2 : ∀ a b y, Keeps z y → Keeps z (lv a b y) := ?_; generalize lv = w at hfn2 ⊢; clear lv; rotate_left; subst lv) | (have hfn3 : ∀ a b c y, Keeps z y → Keeps z (lv a b c y) := ?_; generalize lv = w at hfn3 ⊢; clear lv; rotate_left; subst lv) | (have hfn4 : ∀ y a, Keeps z y → Keeps z (lv y a) := ?_; generalize lv = w at hfn4 ⊢; clear lv; rotate_left; subst lv) | (have hfn5 : ∀ a, Keeps z (lv a) := ?_; generalize lv = w at hfn5 ⊢; clear lv; rotate_left; subst lv) | (have hfn6 : ∀ a b, Keeps z (lv a b) := ?_; generalize lv = w at hfn6 ⊢; clear lv; rotate_left; subst lv) | (have hfn7 : ∀ y a b, Keeps z y → Keeps z (lv y a b) := ?_; generalize lv = w at hfn7 ⊢; clear lv; rotate_left; subst lv) | (have hfn8 : ∀ a, KeepsR z (lv a) := ?_; generalize lv = w at hfn8 ⊢; clear lv; rotate_left; subst lv) | (have hfn9 : ∀ y, Keeps z y → KeepsC z (lv y) := ?_; generalize lv = w at hfn9 ⊢; clear lv; rotate_left; subst lv) | (have hfn10 : ∀ y, Keeps z y → KeepsR z (lv y) := ?_; generalize lv = w at hfn10 ⊢; clear lv; rotate_left; subst lv) | (have hfn11 : ∀ a y, Keeps z y → KeepsR z (lv a y) := ?_; generalize lv = w at hfn11 ⊢; clear lv; rotate_left; subst lv) | (have hfn12 : ∀ y a, Keeps z y → KeepsR z (lv y a) := ?_; generalize lv = w at hfn12 ⊢; clear lv; rotate_left; subst lv) | (generalize lv = w; clear lv) | subst lv)
    | (with_reducible apply hfn0) | (with_reducible apply hfn1) | (with_reducible apply hfn2) | (with_reducible apply hfn3)
    | (with_reducible apply hfn4) | (with_reducible apply hfn5) | (with_reducible apply hfn6) | (with_reducible apply hfn7)
    | (with_reducible apply hfn8) | (with_reducible apply hfn9) | (with_reducible apply hfn10) | (with_reducible apply hfn11)
    | (with_reducible apply hfn12) | (with_reducible apply kp_setLane) | (with_reducible apply kp_showLanes) | (with_reducible apply Keeps.foldl)
    | (with_reducible apply Keeps.foldlx) | (with_reducible apply Keeps.foldlv) | (with_reducible apply Keeps.foldl2)
    | (with_reducible apply Keeps.foldl1) | (with_reducible apply Keeps.foldl22) | (with_reducible apply Keeps.foldl222)
    | (with_reducible apply Keeps.foldl2x) | split
    | (with_reducible refine KeepsP.mk ?_; with_reducible first | assumption | apply Keeps.foldlx | apply Keeps.foldlv | apply Keeps.foldl2 | apply Keeps.foldl1 | apply Keeps.foldl22 | apply Keeps.foldl222 | apply Keeps.foldl2x)
    | (with_reducible refine KeepsP.p1 ?_) | (with_reducible refine KeepsP.p2 ?_) | (with_reducible refine KeepsP.p22 ?_)
    | (with_reducible refine Keeps.of2 (by assumption) ?_) | (with_reducible refine Keeps.of1 (by assumption) ?_)
    | (with_reducible refine Keeps.of3 (by assumption) ?_) | dsimp only

theorem kp_retrainDegrade {z : State} (n : Nat) (at_ : Nat × Nat) (s : State) (hs : Keeps z s) :
    Keeps z (retrainDegrade n at_ s) := by
  unfold retrainDegrade
  repeat' first
    | (with_reducible assumption) | (with_reducible apply kp_loss) | (with_reducible apply kp_recordCE) | (with_reducible apply kp_ladderStep)

theorem kp_retrained {z : State} (n : Nat) (w : Nat) (s : State) (hs : Keeps z s) :
    Keeps z (retrained n w s) := by
  unfold retrained
  repeat' first
    | (with_reducible assumption) | intro _
    | (extract_lets +onlyGivenNames lv; first | (have hx : Keeps z lv := ?_; generalize lv = w at hx ⊢; clear lv; rotate_left; subst lv) | (have hfn0 : ∀ y, Keeps z y → Keeps z (lv y) := ?_; generalize lv = w at hfn0 ⊢; clear lv; rotate_left; subst lv) | (have hfn1 : ∀ a y, Keeps z y → Keeps z (lv a y) := ?_; generalize lv = w at hfn1 ⊢; clear lv; rotate_left; subst lv) | (have hfn2 : ∀ a b y, Keeps z y → Keeps z (lv a b y) := ?_; generalize lv = w at hfn2 ⊢; clear lv; rotate_left; subst lv) | (have hfn3 : ∀ a b c y, Keeps z y → Keeps z (lv a b c y) := ?_; generalize lv = w at hfn3 ⊢; clear lv; rotate_left; subst lv) | (have hfn4 : ∀ y a, Keeps z y → Keeps z (lv y a) := ?_; generalize lv = w at hfn4 ⊢; clear lv; rotate_left; subst lv) | (have hfn5 : ∀ a, Keeps z (lv a) := ?_; generalize lv = w at hfn5 ⊢; clear lv; rotate_left; subst lv) | (have hfn6 : ∀ a b, Keeps z (lv a b) := ?_; generalize lv = w at hfn6 ⊢; clear lv; rotate_left; subst lv) | (have hfn7 : ∀ y a b, Keeps z y → Keeps z (lv y a b) := ?_; generalize lv = w at hfn7 ⊢; clear lv; rotate_left; subst lv) | (have hfn8 : ∀ a, KeepsR z (lv a) := ?_; generalize lv = w at hfn8 ⊢; clear lv; rotate_left; subst lv) | (have hfn9 : ∀ y, Keeps z y → KeepsC z (lv y) := ?_; generalize lv = w at hfn9 ⊢; clear lv; rotate_left; subst lv) | (have hfn10 : ∀ y, Keeps z y → KeepsR z (lv y) := ?_; generalize lv = w at hfn10 ⊢; clear lv; rotate_left; subst lv) | (have hfn11 : ∀ a y, Keeps z y → KeepsR z (lv a y) := ?_; generalize lv = w at hfn11 ⊢; clear lv; rotate_left; subst lv) | (have hfn12 : ∀ y a, Keeps z y → KeepsR z (lv y a) := ?_; generalize lv = w at hfn12 ⊢; clear lv; rotate_left; subst lv) | (generalize lv = w; clear lv) | subst lv)
    | (with_reducible apply hfn0) | (with_reducible apply hfn1) | (with_reducible apply hfn2) | (with_reducible apply hfn3)
    | (with_reducible apply hfn4) | (with_reducible apply hfn5) | (with_reducible apply hfn6) | (with_reducible apply hfn7)
    | (with_reducible apply hfn8) | (with_reducible apply hfn9) | (with_reducible apply hfn10) | (with_reducible apply hfn11)
    | (with_reducible apply hfn12) | (with_reducible apply kp_applyWidth) | (with_reducible apply kp_setBrgX) | (with_reducible apply kp_raise)
    | (with_reducible apply kp_resend) | (with_reducible apply kp_reLadder) | (with_reducible apply kp_manualWidth)
    | (with_reducible apply kp_brgEnter) | (with_reducible apply Keeps.foldl) | (with_reducible apply Keeps.foldlx)
    | (with_reducible apply Keeps.foldlv) | (with_reducible apply Keeps.foldl2) | (with_reducible apply Keeps.foldl1)
    | (with_reducible apply Keeps.foldl22) | (with_reducible apply Keeps.foldl222) | (with_reducible apply Keeps.foldl2x) | split
    | (with_reducible exact Keeps.mk (by assumption))

theorem kp_execLinkRetrainDone {z : State} (n : Nat) (ab : Nat) (ba : Nat) (s : State) (hs : Keeps z s) :
    KeepsR z (execLinkRetrainDone n ab ba s) := by
  unfold execLinkRetrainDone
  repeat' first
    | (with_reducible assumption)
    | (extract_lets +onlyGivenNames lv; first | (have hx : Keeps z lv := ?_; generalize lv = w at hx ⊢; clear lv; rotate_left; subst lv) | (generalize lv = w; clear lv) | subst lv)
    | (with_reducible refine KeepsR.next ?_) | (with_reducible apply kp_lanesTrained) | (with_reducible apply kp_loss)
    | (with_reducible apply kp_retire) | (with_reducible apply kp_retrained) | (with_reducible apply kp_retrainDegrade) | split

theorem kp_execGroupReturn {z : State} (n : Nat) (s : State) (hs : Keeps z s) :
    KeepsR z (execGroupReturn n s) := by
  unfold execGroupReturn
  repeat' first
    | (with_reducible assumption) | intro _
    | (extract_lets +onlyGivenNames lv; first | (have hx : Keeps z lv := ?_; generalize lv = w at hx ⊢; clear lv; rotate_left; subst lv) | (generalize lv = w; clear lv) | subst lv)
    | (with_reducible refine KeepsR.next ?_) | (with_reducible apply kp_setF) | split

theorem kp_drainTold {z : State} (n : Nat) (s : State) (hs : Keeps z s) :
    Keeps z (drainTold n s) := by
  unfold drainTold
  repeat' first
    | (with_reducible assumption) | intro _
    | (extract_lets +onlyGivenNames lv; first | (have hx : Keeps z lv := ?_; generalize lv = w at hx ⊢; clear lv; rotate_left; subst lv) | (generalize lv = w; clear lv) | subst lv)
    | (with_reducible apply kp_sendBrgCtl) | (with_reducible apply kp_setBrgDir) | (with_reducible apply Keeps.foldl)
    | (with_reducible apply Keeps.foldlx) | (with_reducible apply Keeps.foldlv) | (with_reducible apply Keeps.foldl2)
    | (with_reducible apply Keeps.foldl1) | (with_reducible apply Keeps.foldl22) | (with_reducible apply Keeps.foldl222)
    | (with_reducible apply Keeps.foldl2x) | (with_reducible exact Keeps.mk (by assumption))

theorem kp_strand {z : State} (n : Nat) (h : Nat) (left : List Unacked × List Unacked) (s : State) (hs : Keeps z s) :
    Keeps z (strand n h left s) := by
  unfold strand
  repeat' first
    | (with_reducible assumption) | intro _
    | (extract_lets +onlyGivenNames lv; first | (have hx : Keeps z lv := ?_; generalize lv = w at hx ⊢; clear lv; rotate_left; subst lv) | (have hfn0 : ∀ y, Keeps z y → Keeps z (lv y) := ?_; generalize lv = w at hfn0 ⊢; clear lv; rotate_left; subst lv) | (have hfn1 : ∀ a y, Keeps z y → Keeps z (lv a y) := ?_; generalize lv = w at hfn1 ⊢; clear lv; rotate_left; subst lv) | (have hfn2 : ∀ a b y, Keeps z y → Keeps z (lv a b y) := ?_; generalize lv = w at hfn2 ⊢; clear lv; rotate_left; subst lv) | (have hfn3 : ∀ a b c y, Keeps z y → Keeps z (lv a b c y) := ?_; generalize lv = w at hfn3 ⊢; clear lv; rotate_left; subst lv) | (have hfn4 : ∀ y a, Keeps z y → Keeps z (lv y a) := ?_; generalize lv = w at hfn4 ⊢; clear lv; rotate_left; subst lv) | (have hfn5 : ∀ a, Keeps z (lv a) := ?_; generalize lv = w at hfn5 ⊢; clear lv; rotate_left; subst lv) | (have hfn6 : ∀ a b, Keeps z (lv a b) := ?_; generalize lv = w at hfn6 ⊢; clear lv; rotate_left; subst lv) | (have hfn7 : ∀ y a b, Keeps z y → Keeps z (lv y a b) := ?_; generalize lv = w at hfn7 ⊢; clear lv; rotate_left; subst lv) | (have hfn8 : ∀ a, KeepsR z (lv a) := ?_; generalize lv = w at hfn8 ⊢; clear lv; rotate_left; subst lv) | (have hfn9 : ∀ y, Keeps z y → KeepsC z (lv y) := ?_; generalize lv = w at hfn9 ⊢; clear lv; rotate_left; subst lv) | (have hfn10 : ∀ y, Keeps z y → KeepsR z (lv y) := ?_; generalize lv = w at hfn10 ⊢; clear lv; rotate_left; subst lv) | (have hfn11 : ∀ a y, Keeps z y → KeepsR z (lv a y) := ?_; generalize lv = w at hfn11 ⊢; clear lv; rotate_left; subst lv) | (have hfn12 : ∀ y a, Keeps z y → KeepsR z (lv y a) := ?_; generalize lv = w at hfn12 ⊢; clear lv; rotate_left; subst lv) | (generalize lv = w; clear lv) | subst lv)
    | (with_reducible apply hfn0) | (with_reducible apply hfn1) | (with_reducible apply hfn2) | (with_reducible apply hfn3)
    | (with_reducible apply hfn4) | (with_reducible apply hfn5) | (with_reducible apply hfn6) | (with_reducible apply hfn7)
    | (with_reducible apply hfn8) | (with_reducible apply hfn9) | (with_reducible apply hfn10) | (with_reducible apply hfn11)
    | (with_reducible apply hfn12) | (with_reducible apply kp_recordWith) | split | (with_reducible exact Keeps.mk (by assumption))

theorem kp_execLinkDrainEnd {z : State} (n : Nat) (s : State) (hs : Keeps z s) :
    KeepsR z (execLinkDrainEnd n s) := by
  unfold execLinkDrainEnd
  repeat' first
    | (with_reducible assumption) | intro _
    | (extract_lets +onlyGivenNames lv; first | (have hx : Keeps z lv := ?_; generalize lv = w at hx ⊢; clear lv; rotate_left; subst lv) | (generalize lv = w; clear lv) | subst lv)
    | (with_reducible refine KeepsR.next ?_) | (with_reducible apply kp_drainTold) | (with_reducible apply kp_waitTill)
    | (with_reducible apply kp_strand) | (with_reducible apply kp_setBrgX) | (with_reducible apply kp_raise) | (with_reducible apply kp_recordErr)
    | (with_reducible apply kp_relevel) | (with_reducible apply kp_checkBridge) | (with_reducible apply Keeps.foldl)
    | (with_reducible apply Keeps.foldlx) | (with_reducible apply Keeps.foldlv) | (with_reducible apply Keeps.foldl2)
    | (with_reducible apply Keeps.foldl1) | (with_reducible apply Keeps.foldl22) | (with_reducible apply Keeps.foldl222)
    | (with_reducible apply Keeps.foldl2x) | split | (with_reducible exact Keeps.mk (by assumption))

theorem kp_execBrgCtlWrite {z : State} (fn : Nat) (n : Nat) (v : Nat) (s : State) (hs : Keeps z s) :
    KeepsR z (execBrgCtlWrite fn n v s) := by
  unfold execBrgCtlWrite
  repeat' first
    | (with_reducible assumption) | intro _
    | (extract_lets +onlyGivenNames lv; first | (have hx : Keeps z lv := ?_; generalize lv = w at hx ⊢; clear lv; rotate_left; subst lv) | (generalize lv = w; clear lv) | subst lv)
    | (with_reducible refine KeepsR.next ?_) | (with_reducible apply kp_barWrite) | (with_reducible apply kp_moved)
    | (with_reducible apply kp_writeReg) | (with_reducible apply kp_manualWidth) | (with_reducible apply kp_raise) | split

theorem kp_brgSend {z : State} (b : Nat) (g : Nat) (d : Nat) (vc : Nat) (herd : Nat) (pays : List (List Byte)) (s : State) (hs : Keeps z s) :
    Keeps z (brgSend b g d vc herd pays s) := by
  unfold brgSend
  repeat' first
    | (with_reducible assumption)
    | (extract_lets +onlyGivenNames lv; first | (have hx : Keeps z lv := ?_; generalize lv = w at hx ⊢; clear lv; rotate_left; subst lv) | (generalize lv = w; clear lv) | subst lv)
    | (with_reducible apply kp_emitFlits) | (with_reducible apply kp_brgBytes) | (with_reducible apply kp_setBrgDir) | split

theorem kp_GridPkt_go {z : State} (x : GridPkt) (c : Nat) (nxt : Nat) (rel : Bool) (s : State) (hs : Keeps z s) :
    Keeps z (GridPkt.go x c nxt rel s) := by
  unfold GridPkt.go
  repeat' first
    | (with_reducible assumption) | (with_reducible apply kp_emit)

theorem kp_GridPkt_hop {z : State} (x : GridPkt) (c : Nat) (nxt : Nat) (rel : Bool) (s : State) (hs : Keeps z s) :
    Keeps z (GridPkt.hop x c nxt rel s) := by
  unfold GridPkt.hop
  repeat' first
    | (with_reducible assumption) | (with_reducible apply kp_brgSend) | (with_reducible apply kp_GridPkt_go) | split

theorem kp_GridPkt_inOrder {z : State} (x : GridPkt) (cred : Nat) (c : Nat) (tgt : Nat) (rel : Bool) (s : State) (hs : Keeps z s) :
    Keeps z (GridPkt.inOrder x cred c tgt rel s) := by
  unfold GridPkt.inOrder
  repeat' first
    | (with_reducible assumption) | (with_reducible apply kp_GridPkt_hop) | split

theorem kp_execGridPacketHop {z : State} (cls : Nat) (src : Nat) (dst : Nat) (at_ : Nat) (pick : Nat) (cred : Nat) (data : List Byte) (mask : Nat) (relay : Bool) (s : State) (hs : Keeps z s) :
    KeepsR z (execGridPacketHop cls src dst at_ pick cred data mask relay s) := by
  unfold execGridPacketHop
  repeat' first
    | (with_reducible assumption)
    | (extract_lets +onlyGivenNames lv; first | (have hx : Keeps z lv := ?_; generalize lv = w at hx ⊢; clear lv; rotate_left; subst lv) | (generalize lv = w; clear lv) | subst lv)
    | (with_reducible refine KeepsR.next ?_) | (with_reducible apply kp_brgSend) | (with_reducible apply kp_GridPkt_go)
    | (with_reducible apply kp_GridPkt_hop) | (with_reducible apply kp_GridPkt_inOrder) | (with_reducible refine Keeps.getD ?_ ?_) | split

end Sys2Proof.Machine
end

