-- ==== Sys2Proof/Laws/KeepsFmCore.lean ====
section
/-! SUPPORT. What every operation of Machine/FmCore.lean keeps. -/
set_option linter.all false

namespace Sys2Proof.Machine

theorem kp_flood {z : State} (v : Via) (op : Nat) (f : List Nat) (s : State) (hs : Keeps z s) :
    Keeps z (flood v op f s) := by
  unfold flood
  repeat' first
    | (with_reducible assumption) | intro _
    | (extract_lets +onlyGivenNames lv; first | (have hx : Keeps z lv := ?_; generalize lv = w at hx ⊢; clear lv; rotate_left; subst lv) | (generalize lv = w; clear lv) | subst lv)
    | (with_reducible apply kp_rlDiscard) | (with_reducible apply kp_sendVia) | (with_reducible refine Keeps.getD ?_ ?_)
    | (with_reducible apply Keeps.foldl) | (with_reducible apply Keeps.foldlx) | (with_reducible apply Keeps.foldlv)
    | (with_reducible apply Keeps.foldl2) | (with_reducible apply Keeps.foldl1) | (with_reducible apply Keeps.foldl22)
    | (with_reducible apply Keeps.foldl222) | (with_reducible apply Keeps.foldl2x) | split

theorem kp_rememberMsg {z : State} (serial : Nat) (seq : Nat) (s : State) (hs : Keeps z s) :
    Keeps z (rememberMsg serial seq s) := by
  unfold rememberMsg
  repeat' first
    | (with_reducible assumption)
    | (extract_lets +onlyGivenNames lv; first | (have hx : Keeps z lv := ?_; generalize lv = w at hx ⊢; clear lv; rotate_left; subst lv) | (generalize lv = w; clear lv) | subst lv)
    | dsimp only | (with_reducible exact Keeps.mk (by assumption))

theorem kp_nextMsg {z : State} (s : State) (hs : Keeps z s) :
    Keeps z (nextMsg s).2 := by
  change KeepsP (fun y : Nat × State => y.2) z _
  unfold nextMsg
  repeat' first
    | (with_reducible assumption)
    | (extract_lets +onlyGivenNames lv; first | (have hx : Keeps z lv := ?_; generalize lv = w at hx ⊢; clear lv; rotate_left; subst lv) | (have hx : KeepsP (fun y : _ × State => y.2) z lv := ?_; generalize lv = w at hx ⊢; clear lv; replace hx : Keeps z w.2 := hx; rotate_left; subst lv) | (generalize lv = w; clear lv) | subst lv)
    | (with_reducible refine KeepsP.mk ?_; with_reducible assumption) | (with_reducible refine KeepsP.p2 ?_)
    | (with_reducible refine Keeps.of2 (by assumption) ?_) | dsimp only | (with_reducible exact Keeps.mk (by assumption))

theorem kp_floodOwn {z : State} (op : Nat) (f : List Nat) (s : State) (hs : Keeps z s) :
    Keeps z (floodOwn op f s) := by
  unfold floodOwn
  repeat' first
    | (with_reducible assumption)
    | (extract_lets +onlyGivenNames lv; first | (have hx : Keeps z lv := ?_; generalize lv = w at hx ⊢; clear lv; rotate_left; subst lv) | (have hx : KeepsP (fun y : _ × State => y.2) z lv := ?_; generalize lv = w at hx ⊢; clear lv; replace hx : Keeps z w.2 := hx; rotate_left; subst lv) | (generalize lv = w; clear lv) | subst lv)
    | (with_reducible apply kp_nextMsg) | (with_reducible apply kp_flood) | (with_reducible apply kp_rememberMsg)
    | (with_reducible refine KeepsP.mk ?_; with_reducible first | assumption | apply kp_nextMsg) | (with_reducible refine KeepsP.p1 ?_)
    | (with_reducible refine KeepsP.p2 ?_) | (with_reducible refine KeepsP.p22 ?_) | (with_reducible refine Keeps.of2 (by assumption) ?_)
    | (with_reducible refine Keeps.of1 (by assumption) ?_) | (with_reducible refine Keeps.of3 (by assumption) ?_)

theorem kp_toNode {z : State} (dst : Nat) (op : Nat) (seq : Nat) (f : List Nat) (s : State) (hs : Keeps z s) :
    Keeps z (toNode dst op seq f s) := by
  unfold toNode
  repeat' first
    | (with_reducible assumption) | (with_reducible apply kp_emit) | (with_reducible apply kp_sendPkt) | split

theorem kp_toManager {z : State} (op : Nat) (seq : Nat) (f : List Nat) (s : State) (hs : Keeps z s) :
    Keeps z (toManager op seq f s) := by
  unfold toManager
  repeat' first
    | (with_reducible assumption) | (with_reducible apply kp_emit) | (with_reducible apply kp_toNode) | split

theorem kp_mgsClaim {z : State} (s : State) (hs : Keeps z s) :
    Keeps z (mgsClaim s) := by
  unfold mgsClaim
  repeat' first
    | (with_reducible assumption)
    | (extract_lets +onlyGivenNames lv; first | (have hx : Keeps z lv := ?_; generalize lv = w at hx ⊢; clear lv; rotate_left; subst lv) | (generalize lv = w; clear lv) | subst lv)
    | (with_reducible apply kp_floodOwn) | split | dsimp only | (with_reducible exact Keeps.mk (by assumption))

end Sys2Proof.Machine
end

