-- ==== Sys2Proof/Laws/KeepsKv.lean ====
section
/-! SUPPORT. What every operation of Machine/Kv.lean keeps. -/
set_option linter.all false

namespace Sys2Proof.Machine

theorem kp_Kx_fail {z : State} (e : KErr) (x : Kx) (hx : Keeps z x.s) :
    Keeps z (Kx.fail e x).s := by
  change KeepsP (fun y : Kx => y.s) z _
  unfold Kx.fail
  repeat' first
    | (with_reducible assumption) | split | (with_reducible refine KeepsP.mk ?_; with_reducible assumption) | (with_reducible refine KeepsP.kx ?_)
    | dsimp only | (with_reducible exact Keeps.mk (by assumption))

theorem kp_kvTr {z : State} (i : Nat) (va : Nat) (write : Bool) (x : Kx) (hx : Keeps z x.s) :
    Keeps z (kvTr i va write x).2.s := by
  change KeepsP (fun y : Option (Nat × Nat) × Kx => y.2.s) z _
  unfold kvTr
  repeat' first
    | (with_reducible assumption)
    | (extract_lets +onlyGivenNames lv; first | (have hx : Keeps z lv := ?_; generalize lv = w at hx ⊢; clear lv; rotate_left; subst lv) | (have hx : KeepsP (fun y : _ × State => y.2) z lv := ?_; generalize lv = w at hx ⊢; clear lv; replace hx : Keeps z w.2 := hx; rotate_left; subst lv) | (have hv : KeepsP (fun y : _ × Kx => y.2.s) z lv := ?_; obtain ⟨w, e, hx⟩ : ∃ w, w = lv ∧ KeepsP (fun y : _ × Kx => y.2.s) z w := ⟨lv, rfl, hv⟩; try rw [← e]; clear e hv lv; replace hx : Keeps z w.2.s := hx; rotate_left; subst lv) | (have hv : KeepsP (fun y : Kx => y.s) z lv := ?_; obtain ⟨w, e, hx⟩ : ∃ w, w = lv ∧ KeepsP (fun y : Kx => y.s) z w := ⟨lv, rfl, hv⟩; try rw [← e]; clear e hv lv; replace hx : Keeps z w.s := hx; rotate_left; subst lv) | (have hv : KeepsP (fun y : VIo => y.s) z lv := ?_; obtain ⟨w, e, hx⟩ : ∃ w, w = lv ∧ KeepsP (fun y : VIo => y.s) z w := ⟨lv, rfl, hv⟩; try rw [← e]; clear e hv lv; replace hx : Keeps z w.s := hx; rotate_left; subst lv) | (have hv : KeepsP (fun y : EncIn => y.io.s) z lv := ?_; obtain ⟨w, e, hx⟩ : ∃ w, w = lv ∧ KeepsP (fun y : EncIn => y.io.s) z w := ⟨lv, rfl, hv⟩; try rw [← e]; clear e hv lv; replace hx : Keeps z w.io.s := hx; rotate_left; subst lv) | (have hv : KeepsP (fun y : VIo × _ => y.1.s) z lv := ?_; obtain ⟨w, e, hx⟩ : ∃ w, w = lv ∧ KeepsP (fun y : VIo × _ => y.1.s) z w := ⟨lv, rfl, hv⟩; try rw [← e]; clear e hv lv; replace hx : Keeps z w.1.s := hx; rotate_left; subst lv) | (generalize lv = w; clear lv) | subst lv)
    | (with_reducible apply kp_tlbLook) | (with_reducible apply kp_rodWalk) | (with_reducible apply kp_tierTouch) | (with_reducible apply kp_Kx_fail)
    | (with_reducible refine Keeps.getD ?_ ?_) | split
    | (with_reducible refine KeepsP.mk ?_; with_reducible first | assumption | apply kp_tlbLook | apply kp_rodWalk | apply kp_Kx_fail)
    | (with_reducible refine KeepsP.p1 ?_) | (with_reducible refine KeepsP.p2 ?_) | (with_reducible refine KeepsP.p22 ?_)
    | (with_reducible refine KeepsP.kx ?_) | (with_reducible refine KeepsP.p2x ?_) | (with_reducible refine Keeps.of2x (by assumption) ?_)
    | (with_reducible refine KeepsP.vio1 ?_) | (with_reducible refine KeepsP.encin ?_) | (with_reducible refine KeepsP.vio ?_)
    | (with_reducible refine Keeps.of1v (by assumption) ?_) | (with_reducible refine Keeps.of2 (by assumption) ?_)
    | (with_reducible refine Keeps.of1 (by assumption) ?_) | (with_reducible refine Keeps.of3 (by assumption) ?_)
    | (with_reducible exact Keeps.mk (by assumption))

theorem kp_Kx_status {z : State} (n : Nat) (x : Kx) (hx : Keeps z x.s) :
    Keeps z (Kx.status n x).s := by
  change KeepsP (fun y : Kx => y.s) z _
  unfold Kx.status
  repeat' first
    | (with_reducible assumption) | (with_reducible apply kp_Kx_fail) | split
    | (with_reducible refine KeepsP.mk ?_; with_reducible first | assumption | apply kp_Kx_fail) | (with_reducible refine KeepsP.kx ?_) | dsimp only

theorem kp_kvRd {z : State} (i : Nat) (va : Nat) (len : Nat) (x : Kx) (hx : Keeps z x.s) :
    Keeps z (kvRd i va len x).2.s := by
  change KeepsP (fun y : (List Byte × List Nat) × Kx => y.2.s) z _
  unfold kvRd
  repeat' first
    | (with_reducible assumption) | intro _
    | (extract_lets +onlyGivenNames lv; first | (have hx : Keeps z lv := ?_; generalize lv = w at hx ⊢; clear lv; rotate_left; subst lv) | (have hx : KeepsP (fun y : _ × State => y.2) z lv := ?_; generalize lv = w at hx ⊢; clear lv; replace hx : Keeps z w.2 := hx; rotate_left; subst lv) | (have hx : KeepsP (fun y : State × _ => y.1) z lv := ?_; generalize lv = w at hx ⊢; clear lv; replace hx : Keeps z w.1 := hx; rotate_left; subst lv) | (have hx : KeepsP (fun y : _ × _ × State => y.2.2) z lv := ?_; generalize lv = w at hx ⊢; clear lv; replace hx : Keeps z w.2.2 := hx; rotate_left; subst lv) | (have hx : KeepsP (fun y : _ × _ × _ × State => y.2.2.2) z lv := ?_; generalize lv = w at hx ⊢; clear lv; replace hx : Keeps z w.2.2.2 := hx; rotate_left; subst lv) | (have hv : KeepsP (fun y : _ × Kx => y.2.s) z lv := ?_; obtain ⟨w, e, hx⟩ : ∃ w, w = lv ∧ KeepsP (fun y : _ × Kx => y.2.s) z w := ⟨lv, rfl, hv⟩; try rw [← e]; clear e hv lv; replace hx : Keeps z w.2.s := hx; rotate_left; subst lv) | (have hv : KeepsP (fun y : Kx => y.s) z lv := ?_; obtain ⟨w, e, hx⟩ : ∃ w, w = lv ∧ KeepsP (fun y : Kx => y.s) z w := ⟨lv, rfl, hv⟩; try rw [← e]; clear e hv lv; replace hx : Keeps z w.s := hx; rotate_left; subst lv) | (have hv : KeepsP (fun y : VIo => y.s) z lv := ?_; obtain ⟨w, e, hx⟩ : ∃ w, w = lv ∧ KeepsP (fun y : VIo => y.s) z w := ⟨lv, rfl, hv⟩; try rw [← e]; clear e hv lv; replace hx : Keeps z w.s := hx; rotate_left; subst lv) | (have hv : KeepsP (fun y : EncIn => y.io.s) z lv := ?_; obtain ⟨w, e, hx⟩ : ∃ w, w = lv ∧ KeepsP (fun y : EncIn => y.io.s) z w := ⟨lv, rfl, hv⟩; try rw [← e]; clear e hv lv; replace hx : Keeps z w.io.s := hx; rotate_left; subst lv) | (have hv : KeepsP (fun y : VIo × _ => y.1.s) z lv := ?_; obtain ⟨w, e, hx⟩ : ∃ w, w = lv ∧ KeepsP (fun y : VIo × _ => y.1.s) z w := ⟨lv, rfl, hv⟩; try rw [← e]; clear e hv lv; replace hx : Keeps z w.1.s := hx; rotate_left; subst lv) | (generalize lv = w; clear lv) | subst lv)
    | (with_reducible apply kp_kvTr) | (with_reducible apply kp_homeRead) | (with_reducible apply kp_Kx_fail) | (with_reducible apply kp_Kx_status)
    | (with_reducible apply Keeps.foldl) | (with_reducible apply Keeps.foldlx) | (with_reducible apply Keeps.foldlv)
    | (with_reducible apply Keeps.foldl2) | (with_reducible apply Keeps.foldl1) | (with_reducible apply Keeps.foldl22)
    | (with_reducible apply Keeps.foldl222) | (with_reducible apply Keeps.foldl2x) | split
    | (with_reducible refine KeepsP.mk ?_; with_reducible first | assumption | apply kp_kvTr | apply kp_homeRead | apply kp_Kx_fail | apply kp_Kx_status | apply Keeps.foldlx | apply Keeps.foldlv | apply Keeps.foldl2 | apply Keeps.foldl1 | apply Keeps.foldl22 | apply Keeps.foldl222 | apply Keeps.foldl2x)
    | (with_reducible refine KeepsP.p1 ?_) | (with_reducible refine KeepsP.p2 ?_) | (with_reducible refine KeepsP.p22 ?_)
    | (with_reducible refine KeepsP.p222 ?_) | (with_reducible refine KeepsP.kx ?_) | (with_reducible refine KeepsP.p2x ?_)
    | (with_reducible refine Keeps.of2x (by assumption) ?_) | (with_reducible refine KeepsP.vio1 ?_) | (with_reducible refine KeepsP.encin ?_)
    | (with_reducible refine KeepsP.vio ?_) | (with_reducible refine Keeps.of1v (by assumption) ?_)
    | (with_reducible refine Keeps.of2 (by assumption) ?_) | (with_reducible refine Keeps.of1 (by assumption) ?_)
    | (with_reducible refine Keeps.of3 (by assumption) ?_) | (with_reducible refine Keeps.of4 (by assumption) ?_)
    | (with_reducible exact Keeps.mk (by assumption))

theorem kp_kvWr {z : State} (i : Nat) (va : Nat) (bs : List Byte) (bad : List Nat) (x : Kx) (hx : Keeps z x.s) :
    Keeps z (kvWr i va bs bad x).s := by
  change KeepsP (fun y : Kx => y.s) z _
  unfold kvWr
  repeat' first
    | (with_reducible assumption) | intro _
    | (extract_lets +onlyGivenNames lv; first | (have hx : Keeps z lv := ?_; generalize lv = w at hx ⊢; clear lv; rotate_left; subst lv) | (have hx : KeepsP (fun y : _ × State => y.2) z lv := ?_; generalize lv = w at hx ⊢; clear lv; replace hx : Keeps z w.2 := hx; rotate_left; subst lv) | (have hx : KeepsP (fun y : State × _ => y.1) z lv := ?_; generalize lv = w at hx ⊢; clear lv; replace hx : Keeps z w.1 := hx; rotate_left; subst lv) | (have hx : KeepsP (fun y : _ × _ × State => y.2.2) z lv := ?_; generalize lv = w at hx ⊢; clear lv; replace hx : Keeps z w.2.2 := hx; rotate_left; subst lv) | (have hv : KeepsP (fun y : _ × Kx => y.2.s) z lv := ?_; obtain ⟨w, e, hx⟩ : ∃ w, w = lv ∧ KeepsP (fun y : _ × Kx => y.2.s) z w := ⟨lv, rfl, hv⟩; try rw [← e]; clear e hv lv; replace hx : Keeps z w.2.s := hx; rotate_left; subst lv) | (have hv : KeepsP (fun y : Kx => y.s) z lv := ?_; obtain ⟨w, e, hx⟩ : ∃ w, w = lv ∧ KeepsP (fun y : Kx => y.s) z w := ⟨lv, rfl, hv⟩; try rw [← e]; clear e hv lv; replace hx : Keeps z w.s := hx; rotate_left; subst lv) | (have hv : KeepsP (fun y : VIo => y.s) z lv := ?_; obtain ⟨w, e, hx⟩ : ∃ w, w = lv ∧ KeepsP (fun y : VIo => y.s) z w := ⟨lv, rfl, hv⟩; try rw [← e]; clear e hv lv; replace hx : Keeps z w.s := hx; rotate_left; subst lv) | (have hv : KeepsP (fun y : EncIn => y.io.s) z lv := ?_; obtain ⟨w, e, hx⟩ : ∃ w, w = lv ∧ KeepsP (fun y : EncIn => y.io.s) z w := ⟨lv, rfl, hv⟩; try rw [← e]; clear e hv lv; replace hx : Keeps z w.io.s := hx; rotate_left; subst lv) | (have hv : KeepsP (fun y : VIo × _ => y.1.s) z lv := ?_; obtain ⟨w, e, hx⟩ : ∃ w, w = lv ∧ KeepsP (fun y : VIo × _ => y.1.s) z w := ⟨lv, rfl, hv⟩; try rw [← e]; clear e hv lv; replace hx : Keeps z w.1.s := hx; rotate_left; subst lv) | (generalize lv = w; clear lv) | subst lv)
    | (with_reducible apply kp_kvTr) | (with_reducible apply kp_homeWrite) | (with_reducible apply kp_Kx_fail) | (with_reducible apply kp_Kx_status)
    | (with_reducible apply Keeps.foldl) | (with_reducible apply Keeps.foldlx) | (with_reducible apply Keeps.foldlv)
    | (with_reducible apply Keeps.foldl2) | (with_reducible apply Keeps.foldl1) | (with_reducible apply Keeps.foldl22)
    | (with_reducible apply Keeps.foldl222) | (with_reducible apply Keeps.foldl2x) | split
    | (with_reducible refine KeepsP.mk ?_; with_reducible first | assumption | apply kp_kvTr | apply kp_homeWrite | apply kp_Kx_fail | apply kp_Kx_status | apply Keeps.foldlx | apply Keeps.foldlv | apply Keeps.foldl2 | apply Keeps.foldl1 | apply Keeps.foldl22 | apply Keeps.foldl222 | apply Keeps.foldl2x)
    | (with_reducible refine KeepsP.p1 ?_) | (with_reducible refine KeepsP.p2 ?_) | (with_reducible refine KeepsP.p22 ?_)
    | (with_reducible refine KeepsP.kx ?_) | (with_reducible refine KeepsP.p2x ?_) | (with_reducible refine Keeps.of2x (by assumption) ?_)
    | (with_reducible refine KeepsP.vio1 ?_) | (with_reducible refine KeepsP.encin ?_) | (with_reducible refine KeepsP.vio ?_)
    | (with_reducible refine Keeps.of1v (by assumption) ?_) | (with_reducible refine Keeps.of2 (by assumption) ?_)
    | (with_reducible refine Keeps.of1 (by assumption) ?_) | (with_reducible refine Keeps.of3 (by assumption) ?_)
    | (with_reducible exact Keeps.mk (by assumption))

theorem kp_kvHdr {z : State} (i : Nat) (slot : Nat) (x : Kx) (hx : Keeps z x.s) :
    Keeps z (kvHdr i slot x).2.s := by
  change KeepsP (fun y : KBlk × Kx => y.2.s) z _
  unfold kvHdr
  repeat' first
    | (with_reducible assumption)
    | (extract_lets +onlyGivenNames lv; first | (have hx : Keeps z lv := ?_; generalize lv = w at hx ⊢; clear lv; rotate_left; subst lv) | (have hv : KeepsP (fun y : _ × Kx => y.2.s) z lv := ?_; obtain ⟨w, e, hx⟩ : ∃ w, w = lv ∧ KeepsP (fun y : _ × Kx => y.2.s) z w := ⟨lv, rfl, hv⟩; try rw [← e]; clear e hv lv; replace hx : Keeps z w.2.s := hx; rotate_left; subst lv) | (have hv : KeepsP (fun y : Kx => y.s) z lv := ?_; obtain ⟨w, e, hx⟩ : ∃ w, w = lv ∧ KeepsP (fun y : Kx => y.s) z w := ⟨lv, rfl, hv⟩; try rw [← e]; clear e hv lv; replace hx : Keeps z w.s := hx; rotate_left; subst lv) | (generalize lv = w; clear lv) | subst lv)
    | (with_reducible apply kp_kvRd) | (with_reducible apply kp_Kx_fail) | split
    | (with_reducible refine KeepsP.mk ?_; with_reducible first | assumption | apply kp_kvRd | apply kp_Kx_fail)
    | (with_reducible refine KeepsP.p2x ?_) | (with_reducible refine KeepsP.kx ?_) | (with_reducible refine Keeps.of2x (by assumption) ?_)
    | dsimp only

theorem kp_chainGo {z : State} (i : Nat) (h : KvH) (a : Nat) (a3 : Nat) (a4 : Nat) (a5 : Option Nat) (a6 : Kx) (ha6 : Keeps z a6.s) :
    Keeps z (chainGo i h a a3 a4 a5 a6).2.s := by
  induction a generalizing i h a3 a4 a5 a6 with
  | zero => change KeepsP (fun y : List KBlk × Kx => y.2.s) z _; unfold chainGo; repeat' first
    | (with_reducible assumption)
    | (extract_lets +onlyGivenNames lv; first | (have hx : Keeps z lv := ?_; generalize lv = w at hx ⊢; clear lv; rotate_left; subst lv) | (have hv : KeepsP (fun y : Kx => y.s) z lv := ?_; obtain ⟨w, e, hx⟩ : ∃ w, w = lv ∧ KeepsP (fun y : Kx => y.s) z w := ⟨lv, rfl, hv⟩; try rw [← e]; clear e hv lv; replace hx : Keeps z w.s := hx; rotate_left; subst lv) | (have hv : KeepsP (fun y : _ × Kx => y.2.s) z lv := ?_; obtain ⟨w, e, hx⟩ : ∃ w, w = lv ∧ KeepsP (fun y : _ × Kx => y.2.s) z w := ⟨lv, rfl, hv⟩; try rw [← e]; clear e hv lv; replace hx : Keeps z w.2.s := hx; rotate_left; subst lv) | (generalize lv = w; clear lv) | subst lv)
    | (with_reducible apply kp_Kx_fail) | (with_reducible apply kp_kvHdr) | split
    | (with_reducible refine KeepsP.mk ?_; with_reducible first | assumption | apply ih | apply kp_Kx_fail | apply kp_kvHdr)
    | (with_reducible refine KeepsP.p2x ?_) | (with_reducible refine KeepsP.kx ?_) | (with_reducible refine Keeps.of2x (by assumption) ?_)
    | dsimp only | (with_reducible exact Keeps.mk (by assumption))
  | succ w ih => change KeepsP (fun y : List KBlk × Kx => y.2.s) z _; unfold chainGo; repeat' first
    | (with_reducible assumption)
    | (extract_lets +onlyGivenNames lv; first | (have hx : Keeps z lv := ?_; generalize lv = w at hx ⊢; clear lv; rotate_left; subst lv) | (have hv : KeepsP (fun y : Kx => y.s) z lv := ?_; obtain ⟨w, e, hx⟩ : ∃ w, w = lv ∧ KeepsP (fun y : Kx => y.s) z w := ⟨lv, rfl, hv⟩; try rw [← e]; clear e hv lv; replace hx : Keeps z w.s := hx; rotate_left; subst lv) | (have hv : KeepsP (fun y : _ × Kx => y.2.s) z lv := ?_; obtain ⟨w, e, hx⟩ : ∃ w, w = lv ∧ KeepsP (fun y : _ × Kx => y.2.s) z w := ⟨lv, rfl, hv⟩; try rw [← e]; clear e hv lv; replace hx : Keeps z w.2.s := hx; rotate_left; subst lv) | (generalize lv = w; clear lv) | subst lv)
    | (with_reducible apply ih) | (with_reducible apply kp_Kx_fail) | (with_reducible apply kp_kvHdr) | split
    | (with_reducible refine KeepsP.mk ?_; with_reducible first | assumption | apply ih | apply kp_Kx_fail | apply kp_kvHdr)
    | (with_reducible refine KeepsP.p2x ?_) | (with_reducible refine KeepsP.kx ?_) | (with_reducible refine Keeps.of2x (by assumption) ?_)
    | dsimp only | (with_reducible exact Keeps.mk (by assumption))

theorem kp_kvChain {z : State} (i : Nat) (h : KvH) (x : Kx) (hx : Keeps z x.s) :
    Keeps z (kvChain i h x).2.s := by
  change KeepsP (fun y : List KBlk × Kx => y.2.s) z _
  unfold kvChain
  repeat' first
    | (with_reducible assumption) | (with_reducible apply kp_chainGo) | split
    | (with_reducible refine KeepsP.mk ?_; with_reducible first | assumption | apply kp_chainGo) | (with_reducible refine KeepsP.p2x ?_)
    | (with_reducible refine KeepsP.kx ?_) | (with_reducible refine Keeps.of2x (by assumption) ?_) | dsimp only

theorem kp_evictOne {z : State} (i : Nat) (hn : Nat) (x : Kx) (hx : Keeps z x.s) :
    Keeps z (evictOne i hn x).2.s := by
  change KeepsP (fun y : Bool × Kx => y.2.s) z _
  unfold evictOne
  repeat' first
    | (with_reducible assumption)
    | (extract_lets +onlyGivenNames lv; first | (have hx : Keeps z lv := ?_; generalize lv = w at hx ⊢; clear lv; rotate_left; subst lv) | (have hv : KeepsP (fun y : _ × Kx => y.2.s) z lv := ?_; obtain ⟨w, e, hx⟩ : ∃ w, w = lv ∧ KeepsP (fun y : _ × Kx => y.2.s) z w := ⟨lv, rfl, hv⟩; try rw [← e]; clear e hv lv; replace hx : Keeps z w.2.s := hx; rotate_left; subst lv) | (have hv : KeepsP (fun y : Kx => y.s) z lv := ?_; obtain ⟨w, e, hx⟩ : ∃ w, w = lv ∧ KeepsP (fun y : Kx => y.s) z w := ⟨lv, rfl, hv⟩; try rw [← e]; clear e hv lv; replace hx : Keeps z w.s := hx; rotate_left; subst lv) | (generalize lv = w; clear lv) | subst lv)
    | (with_reducible apply kp_kvChain) | (with_reducible apply kp_kvWr) | (with_reducible apply kp_raise) | (with_reducible apply kp_bump)
    | (with_reducible apply kp_setKvH) | (with_reducible apply kp_kvFreeSlots) | split
    | (with_reducible refine KeepsP.mk ?_; with_reducible first | assumption | apply kp_kvChain | apply kp_kvWr)
    | (with_reducible refine KeepsP.p2x ?_) | (with_reducible refine KeepsP.kx ?_) | (with_reducible refine Keeps.of2x (by assumption) ?_)
    | dsimp only | (with_reducible exact Keeps.mk (by assumption))

theorem kp_trimGo {z : State} (i : Nat) (hn : Nat) (a : Nat) (a3 : Kx) (ha3 : Keeps z a3.s) :
    Keeps z (trimGo i hn a a3).s := by
  induction a generalizing i hn a3 with
  | zero => change KeepsP (fun y : Kx => y.s) z _; unfold trimGo; repeat' first
    | (with_reducible assumption)
    | (extract_lets +onlyGivenNames lv; first | (have hx : Keeps z lv := ?_; generalize lv = w at hx ⊢; clear lv; rotate_left; subst lv) | (have hv : KeepsP (fun y : _ × Kx => y.2.s) z lv := ?_; obtain ⟨w, e, hx⟩ : ∃ w, w = lv ∧ KeepsP (fun y : _ × Kx => y.2.s) z w := ⟨lv, rfl, hv⟩; try rw [← e]; clear e hv lv; replace hx : Keeps z w.2.s := hx; rotate_left; subst lv) | (have hv : KeepsP (fun y : Kx => y.s) z lv := ?_; obtain ⟨w, e, hx⟩ : ∃ w, w = lv ∧ KeepsP (fun y : Kx => y.s) z w := ⟨lv, rfl, hv⟩; try rw [← e]; clear e hv lv; replace hx : Keeps z w.s := hx; rotate_left; subst lv) | (generalize lv = w; clear lv) | subst lv)
    | (with_reducible apply kp_evictOne) | split
    | (with_reducible refine KeepsP.mk ?_; with_reducible first | assumption | apply ih | apply kp_evictOne) | (with_reducible refine KeepsP.p2x ?_)
    | (with_reducible refine KeepsP.kx ?_) | (with_reducible refine Keeps.of2x (by assumption) ?_) | dsimp only
  | succ w ih => change KeepsP (fun y : Kx => y.s) z _; unfold trimGo; repeat' first
    | (with_reducible assumption)
    | (extract_lets +onlyGivenNames lv; first | (have hx : Keeps z lv := ?_; generalize lv = w at hx ⊢; clear lv; rotate_left; subst lv) | (have hv : KeepsP (fun y : _ × Kx => y.2.s) z lv := ?_; obtain ⟨w, e, hx⟩ : ∃ w, w = lv ∧ KeepsP (fun y : _ × Kx => y.2.s) z w := ⟨lv, rfl, hv⟩; try rw [← e]; clear e hv lv; replace hx : Keeps z w.2.s := hx; rotate_left; subst lv) | (have hv : KeepsP (fun y : Kx => y.s) z lv := ?_; obtain ⟨w, e, hx⟩ : ∃ w, w = lv ∧ KeepsP (fun y : Kx => y.s) z w := ⟨lv, rfl, hv⟩; try rw [← e]; clear e hv lv; replace hx : Keeps z w.s := hx; rotate_left; subst lv) | (generalize lv = w; clear lv) | subst lv)
    | (with_reducible apply ih) | (with_reducible apply kp_evictOne) | split
    | (with_reducible refine KeepsP.mk ?_; with_reducible first | assumption | apply ih | apply kp_evictOne) | (with_reducible refine KeepsP.p2x ?_)
    | (with_reducible refine KeepsP.kx ?_) | (with_reducible refine Keeps.of2x (by assumption) ?_) | dsimp only

theorem kp_kvTrim {z : State} (i : Nat) (hn : Nat) (x : Kx) (hx : Keeps z x.s) :
    Keeps z (kvTrim i hn x).s := by
  change KeepsP (fun y : Kx => y.s) z _
  unfold kvTrim
  repeat' first
    | (with_reducible assumption) | (with_reducible apply kp_trimGo)
    | (with_reducible refine KeepsP.mk ?_; with_reducible first | assumption | apply kp_trimGo) | (with_reducible refine KeepsP.kx ?_) | dsimp only

theorem kp_kvEnd {z : State} (i : Nat) (num : Nat) (st : Nat) (res : Nat) (s : State) (hs : Keeps z s) :
    Keeps z (kvEnd i num st res s) := by
  unfold kvEnd
  repeat' first
    | (with_reducible assumption) | (with_reducible apply kp_markDone) | dsimp only

theorem kp_kvLose {z : State} (i : Nat) (hn : Nat) (s : State) (hs : Keeps z s) :
    Keeps z (kvLose i hn s) := by
  unfold kvLose
  repeat' first
    | (with_reducible assumption) | intro _
    | (extract_lets +onlyGivenNames lv; first | (have hx : Keeps z lv := ?_; generalize lv = w at hx ⊢; clear lv; rotate_left; subst lv) | (generalize lv = w; clear lv) | subst lv)
    | (with_reducible apply kp_raise) | (with_reducible apply kp_updPairs) | (with_reducible apply kp_setKvH) | dsimp only
    | (with_reducible exact Keeps.mk (by assumption))

theorem kp_chainBad {z : State} (i : Nat) (hn : Nat) (s : State) (hs : Keeps z s) :
    Keeps z (chainBad i hn s) := by
  unfold chainBad
  repeat' first
    | (with_reducible assumption) | (with_reducible apply kp_kvLose) | (with_reducible apply kp_recordErr) | dsimp only

theorem kp_kvWait {z : State} (i : Nat) (num : Nat) (ph : Nat) (page : Nat) (s : State) (hs : Keeps z s) :
    Keeps z (kvWait i num ph page s) := by
  unfold kvWait
  repeat' first
    | (with_reducible assumption) | intro _ | (with_reducible apply kp_updStarted) | dsimp only | (with_reducible exact Keeps.mk (by assumption))

theorem kp_kvClose {z : State} (i : Nat) (hn : Nat) (num : Nat) (start : State) (x : Kx) (hstart : Keeps z start) (hx : Keeps z x.s) :
    Keeps z (kvClose i hn num start x) := by
  unfold kvClose
  repeat' first
    | (with_reducible assumption) | intro _
    | (extract_lets +onlyGivenNames lv; first | (have hx : Keeps z lv := ?_; generalize lv = w at hx ⊢; clear lv; rotate_left; subst lv) | (generalize lv = w; clear lv) | subst lv)
    | (with_reducible apply kp_kvEnd) | (with_reducible apply kp_xlatError) | (with_reducible apply kp_chainBad) | (with_reducible apply kp_kvWait)
    | (with_reducible apply kp_openFault) | split

theorem kp_kvCloseRing {z : State} (i : Nat) (hn : Nat) (num : Nat) (s0 : State) (x : Kx) (hs0 : Keeps z s0) (hx : Keeps z x.s) :
    Keeps z (kvCloseRing i hn num s0 x) := by
  unfold kvCloseRing
  repeat' first
    | (with_reducible assumption) | (with_reducible apply kp_kvClose)

theorem kp_storeVec {z : State} (i : Nat) (hn : Nat) (v : Nat) (t : Nat) (va : Nat) (f : FFmt) (w : Nat) (bs : List Byte) (bad : List Nat) (f0 : Nat) (x : Kx) (hx : Keeps z x.s) :
    Keeps z (storeVec i hn v t va f w bs bad f0 x).s := by
  change KeepsP (fun y : Kx => y.s) z _
  unfold storeVec
  repeat' first
    | (with_reducible assumption) | intro _
    | (extract_lets +onlyGivenNames lv; first | (have hx : Keeps z lv := ?_; generalize lv = w at hx ⊢; clear lv; rotate_left; subst lv) | (have hv : KeepsP (fun y : Kx => y.s) z lv := ?_; obtain ⟨w, e, hx⟩ : ∃ w, w = lv ∧ KeepsP (fun y : Kx => y.s) z w := ⟨lv, rfl, hv⟩; try rw [← e]; clear e hv lv; replace hx : Keeps z w.s := hx; rotate_left; subst lv) | (have hx : KeepsP (fun y : _ × State => y.2) z lv := ?_; generalize lv = w at hx ⊢; clear lv; replace hx : Keeps z w.2 := hx; rotate_left; subst lv) | (have hx : KeepsP (fun y : State × _ => y.1) z lv := ?_; generalize lv = w at hx ⊢; clear lv; replace hx : Keeps z w.1 := hx; rotate_left; subst lv) | (have hx : KeepsP (fun y : _ × _ × State => y.2.2) z lv := ?_; generalize lv = w at hx ⊢; clear lv; replace hx : Keeps z w.2.2 := hx; rotate_left; subst lv) | (have hfn0 : ∀ y, Keeps z y → Keeps z (lv y) := ?_; generalize lv = w at hfn0 ⊢; clear lv; rotate_left; subst lv) | (have hfn1 : ∀ a y, Keeps z y → Keeps z (lv a y) := ?_; generalize lv = w at hfn1 ⊢; clear lv; rotate_left; subst lv) | (have hfn2 : ∀ a b y, Keeps z y → Keeps z (lv a b y) := ?_; generalize lv = w at hfn2 ⊢; clear lv; rotate_left; subst lv) | (have hfn3 : ∀ a b c y, Keeps z y → Keeps z (lv a b c y) := ?_; generalize lv = w at hfn3 ⊢; clear lv; rotate_left; subst lv) | (have hfn4 : ∀ y a, Keeps z y → Keeps z (lv y a) := ?_; generalize lv = w at hfn4 ⊢; clear lv; rotate_left; subst lv) | (have hfn5 : ∀ a, Keeps z (lv a) := ?_; generalize lv = w at hfn5 ⊢; clear lv; rotate_left; subst lv) | (have hfn6 : ∀ a b, Keeps z (lv a b) := ?_; generalize lv = w at hfn6 ⊢; clear lv; rotate_left; subst lv) | (have hfn7 : ∀ y a b, Keeps z y → Keeps z (lv y a b) := ?_; generalize lv = w at hfn7 ⊢; clear lv; rotate_left; subst lv) | (have hfn8 : ∀ a, KeepsR z (lv a) := ?_; generalize lv = w at hfn8 ⊢; clear lv; rotate_left; subst lv) | (have hfn9 : ∀ y, Keeps z y → KeepsC z (lv y) := ?_; generalize lv = w at hfn9 ⊢; clear lv; rotate_left; subst lv) | (have hfn10 : ∀ y, Keeps z y → KeepsR z (lv y) := ?_; generalize lv = w at hfn10 ⊢; clear lv; rotate_left; subst lv) | (have hfn11 : ∀ a y, Keeps z y → KeepsR z (lv a y) := ?_; generalize lv = w at hfn11 ⊢; clear lv; rotate_left; subst lv) | (have hfn12 : ∀ y a, Keeps z y → KeepsR z (lv y a) := ?_; generalize lv = w at hfn12 ⊢; clear lv; rotate_left; subst lv) | (generalize lv = w; clear lv) | subst lv)
    | (with_reducible apply hfn0) | (with_reducible apply hfn1) | (with_reducible apply hfn2) | (with_reducible apply hfn3)
    | (with_reducible apply hfn4) | (with_reducible apply hfn5) | (with_reducible apply hfn6) | (with_reducible apply hfn7)
    | (with_reducible apply hfn8) | (with_reducible apply hfn9) | (with_reducible apply hfn10) | (with_reducible apply hfn11)
    | (with_reducible apply hfn12) | (with_reducible apply kp_kvWr) | (with_reducible apply Keeps.foldl) | (with_reducible apply Keeps.foldlx)
    | (with_reducible apply Keeps.foldlv) | (with_reducible apply Keeps.foldl2) | (with_reducible apply Keeps.foldl1)
    | (with_reducible apply Keeps.foldl22) | (with_reducible apply Keeps.foldl222) | (with_reducible apply Keeps.foldl2x) | split
    | (with_reducible refine KeepsP.mk ?_; with_reducible first | assumption | apply kp_kvWr | apply Keeps.foldlx | apply Keeps.foldlv | apply Keeps.foldl2 | apply Keeps.foldl1 | apply Keeps.foldl22 | apply Keeps.foldl222 | apply Keeps.foldl2x)
    | (with_reducible refine KeepsP.p1 ?_) | (with_reducible refine KeepsP.p2 ?_) | (with_reducible refine KeepsP.p22 ?_)
    | (with_reducible refine KeepsP.p2x ?_) | (with_reducible refine KeepsP.kx ?_) | (with_reducible refine Keeps.of2 (by assumption) ?_)
    | (with_reducible refine Keeps.of1 (by assumption) ?_) | (with_reducible refine Keeps.of3 (by assumption) ?_) | dsimp only

theorem kp_newBlock {z : State} (i : Nat) (hn : Nat) (x : Kx) (hx : Keeps z x.s) :
    Keeps z (newBlock i hn x).s := by
  change KeepsP (fun y : Kx => y.s) z _
  unfold newBlock
  repeat' first
    | (with_reducible assumption)
    | (extract_lets +onlyGivenNames lv; first | (have hx : Keeps z lv := ?_; generalize lv = w at hx ⊢; clear lv; rotate_left; subst lv) | (have hv : KeepsP (fun y : _ × Kx => y.2.s) z lv := ?_; obtain ⟨w, e, hx⟩ : ∃ w, w = lv ∧ KeepsP (fun y : _ × Kx => y.2.s) z w := ⟨lv, rfl, hv⟩; try rw [← e]; clear e hv lv; replace hx : Keeps z w.2.s := hx; rotate_left; subst lv) | (have hv : KeepsP (fun y : Kx => y.s) z lv := ?_; obtain ⟨w, e, hx⟩ : ∃ w, w = lv ∧ KeepsP (fun y : Kx => y.s) z w := ⟨lv, rfl, hv⟩; try rw [← e]; clear e hv lv; replace hx : Keeps z w.s := hx; rotate_left; subst lv) | (have hv : KeepsP (fun y : VIo => y.s) z lv := ?_; obtain ⟨w, e, hx⟩ : ∃ w, w = lv ∧ KeepsP (fun y : VIo => y.s) z w := ⟨lv, rfl, hv⟩; try rw [← e]; clear e hv lv; replace hx : Keeps z w.s := hx; rotate_left; subst lv) | (have hv : KeepsP (fun y : EncIn => y.io.s) z lv := ?_; obtain ⟨w, e, hx⟩ : ∃ w, w = lv ∧ KeepsP (fun y : EncIn => y.io.s) z w := ⟨lv, rfl, hv⟩; try rw [← e]; clear e hv lv; replace hx : Keeps z w.io.s := hx; rotate_left; subst lv) | (have hv : KeepsP (fun y : VIo × _ => y.1.s) z lv := ?_; obtain ⟨w, e, hx⟩ : ∃ w, w = lv ∧ KeepsP (fun y : VIo × _ => y.1.s) z w := ⟨lv, rfl, hv⟩; try rw [← e]; clear e hv lv; replace hx : Keeps z w.1.s := hx; rotate_left; subst lv) | (generalize lv = w; clear lv) | subst lv)
    | (with_reducible apply kp_evictOne) | (with_reducible apply kp_kvWr) | (with_reducible apply kp_setKvH) | (with_reducible apply kp_kvTake)
    | (with_reducible apply kp_Kx_fail) | split
    | (with_reducible refine KeepsP.mk ?_; with_reducible first | assumption | apply kp_evictOne | apply kp_kvWr | apply kp_Kx_fail)
    | (with_reducible refine KeepsP.p1 ?_) | (with_reducible refine KeepsP.p2 ?_) | (with_reducible refine KeepsP.p22 ?_)
    | (with_reducible refine KeepsP.kx ?_) | (with_reducible refine KeepsP.p2x ?_) | (with_reducible refine Keeps.of2x (by assumption) ?_)
    | (with_reducible refine KeepsP.vio1 ?_) | (with_reducible refine KeepsP.encin ?_) | (with_reducible refine KeepsP.vio ?_)
    | (with_reducible refine Keeps.of1v (by assumption) ?_) | (with_reducible refine Keeps.of2 (by assumption) ?_)
    | (with_reducible refine Keeps.of1 (by assumption) ?_) | (with_reducible refine Keeps.of3 (by assumption) ?_)
    | (with_reducible exact Keeps.mk (by assumption))

theorem kp_appendTok {z : State} (i : Nat) (hn : Nat) (num : Nat) (a : Nat) (c : QCmd) (f : FFmt) (w : Nat) (x0 : Kx) (hx0 : Keeps z x0.s) :
    Keeps z (appendTok i hn num a c f w x0).s := by
  change KeepsP (fun y : Kx => y.s) z _
  unfold appendTok
  repeat' first
    | (with_reducible assumption)
    | (extract_lets +onlyGivenNames lv; first | (have hx : Keeps z lv := ?_; generalize lv = w at hx ⊢; clear lv; rotate_left; subst lv) | (have hx : KeepsP (fun y : _ × State => y.2) z lv := ?_; generalize lv = w at hx ⊢; clear lv; replace hx : Keeps z w.2 := hx; rotate_left; subst lv) | (have hv : KeepsP (fun y : _ × Kx => y.2.s) z lv := ?_; obtain ⟨w, e, hx⟩ : ∃ w, w = lv ∧ KeepsP (fun y : _ × Kx => y.2.s) z w := ⟨lv, rfl, hv⟩; try rw [← e]; clear e hv lv; replace hx : Keeps z w.2.s := hx; rotate_left; subst lv) | (have hv : KeepsP (fun y : Kx => y.s) z lv := ?_; obtain ⟨w, e, hx⟩ : ∃ w, w = lv ∧ KeepsP (fun y : Kx => y.s) z w := ⟨lv, rfl, hv⟩; try rw [← e]; clear e hv lv; replace hx : Keeps z w.s := hx; rotate_left; subst lv) | (have hv : KeepsP (fun y : VIo => y.s) z lv := ?_; obtain ⟨w, e, hx⟩ : ∃ w, w = lv ∧ KeepsP (fun y : VIo => y.s) z w := ⟨lv, rfl, hv⟩; try rw [← e]; clear e hv lv; replace hx : Keeps z w.s := hx; rotate_left; subst lv) | (have hv : KeepsP (fun y : EncIn => y.io.s) z lv := ?_; obtain ⟨w, e, hx⟩ : ∃ w, w = lv ∧ KeepsP (fun y : EncIn => y.io.s) z w := ⟨lv, rfl, hv⟩; try rw [← e]; clear e hv lv; replace hx : Keeps z w.io.s := hx; rotate_left; subst lv) | (have hv : KeepsP (fun y : VIo × _ => y.1.s) z lv := ?_; obtain ⟨w, e, hx⟩ : ∃ w, w = lv ∧ KeepsP (fun y : VIo × _ => y.1.s) z w := ⟨lv, rfl, hv⟩; try rw [← e]; clear e hv lv; replace hx : Keeps z w.1.s := hx; rotate_left; subst lv) | (generalize lv = w; clear lv) | subst lv)
    | (with_reducible apply kp_takeFree) | (with_reducible apply kp_kvTrim) | (with_reducible apply kp_spadSeen) | (with_reducible apply kp_kvHdr)
    | (with_reducible apply kp_newBlock) | (with_reducible apply kp_storeVec) | (with_reducible apply kp_kvWr) | (with_reducible apply kp_kvEnd)
    | (with_reducible apply kp_bump64) | (with_reducible apply kp_setKvH) | (with_reducible apply kp_Kx_fail) | split
    | (with_reducible refine KeepsP.mk ?_; with_reducible first | assumption | apply kp_takeFree | apply kp_kvTrim | apply kp_kvHdr | apply kp_newBlock | apply kp_storeVec | apply kp_kvWr | apply kp_Kx_fail)
    | (with_reducible refine KeepsP.p1 ?_) | (with_reducible refine KeepsP.p2 ?_) | (with_reducible refine KeepsP.p22 ?_)
    | (with_reducible refine KeepsP.kx ?_) | (with_reducible refine KeepsP.p2x ?_) | (with_reducible refine Keeps.of2x (by assumption) ?_)
    | (with_reducible refine KeepsP.vio1 ?_) | (with_reducible refine KeepsP.encin ?_) | (with_reducible refine KeepsP.vio ?_)
    | (with_reducible refine Keeps.of1v (by assumption) ?_) | (with_reducible refine Keeps.of2 (by assumption) ?_)
    | (with_reducible refine Keeps.of1 (by assumption) ?_) | (with_reducible refine Keeps.of3 (by assumption) ?_)
    | (with_reducible exact Keeps.mk (by assumption))

theorem kp_kappWork {z : State} (i : Nat) (hn : Nat) (num : Nat) (c : QCmd) (x : Kx) (hx : Keeps z x.s) :
    Keeps z (kappWork i hn num c x).s := by
  change KeepsP (fun y : Kx => y.s) z _
  unfold kappWork
  repeat' first
    | (with_reducible assumption)
    | (extract_lets +onlyGivenNames lv; first | (have hx : Keeps z lv := ?_; generalize lv = w at hx ⊢; clear lv; rotate_left; subst lv) | (have hv : KeepsP (fun y : Kx => y.s) z lv := ?_; obtain ⟨w, e, hx⟩ : ∃ w, w = lv ∧ KeepsP (fun y : Kx => y.s) z w := ⟨lv, rfl, hv⟩; try rw [← e]; clear e hv lv; replace hx : Keeps z w.s := hx; rotate_left; subst lv) | (generalize lv = w; clear lv) | subst lv)
    | (with_reducible apply kp_Kx_fail) | (with_reducible apply kp_appendTok) | split
    | (with_reducible refine KeepsP.mk ?_; with_reducible first | assumption | apply kp_Kx_fail | apply kp_appendTok)
    | (with_reducible refine KeepsP.kx ?_) | dsimp only | (with_reducible exact Keeps.mk (by assumption))

theorem kp_putRow {z : State} (i : Nat) (o : Nat) (dim : Nat) (rows : Nat) (out : Nat) (stt : Bool) (k : Nat) (r : KRow) (s : State) (hs : Keeps z s) :
    Keeps z (putRow i o dim rows out stt k r s) := by
  unfold putRow
  repeat' first
    | (with_reducible assumption) | intro _
    | (extract_lets +onlyGivenNames lv; first | (have hx : Keeps z lv := ?_; generalize lv = w at hx ⊢; clear lv; rotate_left; subst lv) | (have hfn0 : ∀ y, Keeps z y → Keeps z (lv y) := ?_; generalize lv = w at hfn0 ⊢; clear lv; rotate_left; subst lv) | (have hfn1 : ∀ a y, Keeps z y → Keeps z (lv a y) := ?_; generalize lv = w at hfn1 ⊢; clear lv; rotate_left; subst lv) | (have hfn2 : ∀ a b y, Keeps z y → Keeps z (lv a b y) := ?_; generalize lv = w at hfn2 ⊢; clear lv; rotate_left; subst lv) | (have hfn3 : ∀ a b c y, Keeps z y → Keeps z (lv a b c y) := ?_; generalize lv = w at hfn3 ⊢; clear lv; rotate_left; subst lv) | (have hfn4 : ∀ y a, Keeps z y → Keeps z (lv y a) := ?_; generalize lv = w at hfn4 ⊢; clear lv; rotate_left; subst lv) | (have hfn5 : ∀ a, Keeps z (lv a) := ?_; generalize lv = w at hfn5 ⊢; clear lv; rotate_left; subst lv) | (have hfn6 : ∀ a b, Keeps z (lv a b) := ?_; generalize lv = w at hfn6 ⊢; clear lv; rotate_left; subst lv) | (have hfn7 : ∀ y a b, Keeps z y → Keeps z (lv y a b) := ?_; generalize lv = w at hfn7 ⊢; clear lv; rotate_left; subst lv) | (have hfn8 : ∀ a, KeepsR z (lv a) := ?_; generalize lv = w at hfn8 ⊢; clear lv; rotate_left; subst lv) | (have hfn9 : ∀ y, Keeps z y → KeepsC z (lv y) := ?_; generalize lv = w at hfn9 ⊢; clear lv; rotate_left; subst lv) | (have hfn10 : ∀ y, Keeps z y → KeepsR z (lv y) := ?_; generalize lv = w at hfn10 ⊢; clear lv; rotate_left; subst lv) | (have hfn11 : ∀ a y, Keeps z y → KeepsR z (lv a y) := ?_; generalize lv = w at hfn11 ⊢; clear lv; rotate_left; subst lv) | (have hfn12 : ∀ y a, Keeps z y → KeepsR z (lv y a) := ?_; generalize lv = w at hfn12 ⊢; clear lv; rotate_left; subst lv) | (generalize lv = w; clear lv) | subst lv)
    | (with_reducible apply hfn0) | (with_reducible apply hfn1) | (with_reducible apply hfn2) | (with_reducible apply hfn3)
    | (with_reducible apply hfn4) | (with_reducible apply hfn5) | (with_reducible apply hfn6) | (with_reducible apply hfn7)
    | (with_reducible apply hfn8) | (with_reducible apply hfn9) | (with_reducible apply hfn10) | (with_reducible apply hfn11)
    | (with_reducible apply hfn12) | (with_reducible apply kp_spadWrite) | split | dsimp only

theorem kp_putRows {z : State} (i : Nat) (o : Nat) (dim : Nat) (rows : Nat) (out : Nat) (stt : Bool) (a : Nat) (a7 : List KRow) (a8 : State) (ha8 : Keeps z a8) :
    Keeps z (putRows i o dim rows out stt a a7 a8) := by
  induction a7 generalizing i o dim rows out stt a a8 with
  | nil => unfold putRows; repeat' first
    | (with_reducible assumption) | (with_reducible apply kp_putRow) | split | dsimp only
  | cons w w1 ih => unfold putRows; repeat' first
    | (with_reducible assumption) | (with_reducible apply ih) | (with_reducible apply kp_putRow) | split | dsimp only

theorem kp_kvData {z : State} (i : Nat) (h : KvH) (a : List KBlk) (a3 : Kx) (ha3 : Keeps z a3.s) :
    Keeps z (kvData i h a a3).2.s := by
  induction a generalizing i h a3 with
  | nil => change KeepsP (fun y : List KData × Kx => y.2.s) z _; unfold kvData; repeat' first
    | (with_reducible assumption)
    | (extract_lets +onlyGivenNames lv; first | (have hx : Keeps z lv := ?_; generalize lv = w at hx ⊢; clear lv; rotate_left; subst lv) | (have hv : KeepsP (fun y : _ × Kx => y.2.s) z lv := ?_; obtain ⟨w, e, hx⟩ : ∃ w, w = lv ∧ KeepsP (fun y : _ × Kx => y.2.s) z w := ⟨lv, rfl, hv⟩; try rw [← e]; clear e hv lv; replace hx : Keeps z w.2.s := hx; rotate_left; subst lv) | (generalize lv = w; clear lv) | subst lv)
    | (with_reducible apply kp_kvRd) | split | (with_reducible refine KeepsP.mk ?_; with_reducible first | assumption | apply ih | apply kp_kvRd)
    | (with_reducible refine KeepsP.p2x ?_) | (with_reducible refine KeepsP.kx ?_) | (with_reducible refine Keeps.of2x (by assumption) ?_)
    | dsimp only
  | cons w w1 ih => change KeepsP (fun y : List KData × Kx => y.2.s) z _; unfold kvData; repeat' first
    | (with_reducible assumption)
    | (extract_lets +onlyGivenNames lv; first | (have hx : Keeps z lv := ?_; generalize lv = w at hx ⊢; clear lv; rotate_left; subst lv) | (have hv : KeepsP (fun y : _ × Kx => y.2.s) z lv := ?_; obtain ⟨w, e, hx⟩ : ∃ w, w = lv ∧ KeepsP (fun y : _ × Kx => y.2.s) z w := ⟨lv, rfl, hv⟩; try rw [← e]; clear e hv lv; replace hx : Keeps z w.2.s := hx; rotate_left; subst lv) | (generalize lv = w; clear lv) | subst lv)
    | (with_reducible apply ih) | (with_reducible apply kp_kvRd) | split
    | (with_reducible refine KeepsP.mk ?_; with_reducible first | assumption | apply ih | apply kp_kvRd) | (with_reducible refine KeepsP.p2x ?_)
    | (with_reducible refine KeepsP.kx ?_) | (with_reducible refine Keeps.of2x (by assumption) ?_) | dsimp only

theorem kp_scoreBlock {z : State} (i : Nat) (h : KvH) (bs : List KBlk) (use : List (List KRow × KRow)) (x : Kx) (k : Nat) (hx : Keeps z x.s) :
    Keeps z (scoreBlock i h bs use x k).s := by
  change KeepsP (fun y : Kx => y.s) z _
  unfold scoreBlock
  repeat' first
    | (with_reducible assumption) | intro _
    | (extract_lets +onlyGivenNames lv; first | (have hx : Keeps z lv := ?_; generalize lv = w at hx ⊢; clear lv; rotate_left; subst lv) | (have hv : KeepsP (fun y : _ × Kx => y.2.s) z lv := ?_; obtain ⟨w, e, hx⟩ : ∃ w, w = lv ∧ KeepsP (fun y : _ × Kx => y.2.s) z w := ⟨lv, rfl, hv⟩; try rw [← e]; clear e hv lv; replace hx : Keeps z w.2.s := hx; rotate_left; subst lv) | (have hv : KeepsP (fun y : Kx => y.s) z lv := ?_; obtain ⟨w, e, hx⟩ : ∃ w, w = lv ∧ KeepsP (fun y : Kx => y.s) z w := ⟨lv, rfl, hv⟩; try rw [← e]; clear e hv lv; replace hx : Keeps z w.s := hx; rotate_left; subst lv) | (have hv : KeepsP (fun y : VIo => y.s) z lv := ?_; obtain ⟨w, e, hx⟩ : ∃ w, w = lv ∧ KeepsP (fun y : VIo => y.s) z w := ⟨lv, rfl, hv⟩; try rw [← e]; clear e hv lv; replace hx : Keeps z w.s := hx; rotate_left; subst lv) | (have hv : KeepsP (fun y : EncIn => y.io.s) z lv := ?_; obtain ⟨w, e, hx⟩ : ∃ w, w = lv ∧ KeepsP (fun y : EncIn => y.io.s) z w := ⟨lv, rfl, hv⟩; try rw [← e]; clear e hv lv; replace hx : Keeps z w.io.s := hx; rotate_left; subst lv) | (have hv : KeepsP (fun y : VIo × _ => y.1.s) z lv := ?_; obtain ⟨w, e, hx⟩ : ∃ w, w = lv ∧ KeepsP (fun y : VIo × _ => y.1.s) z w := ⟨lv, rfl, hv⟩; try rw [← e]; clear e hv lv; replace hx : Keeps z w.1.s := hx; rotate_left; subst lv) | (generalize lv = w; clear lv) | subst lv)
    | (with_reducible apply kp_kvWr) | (with_reducible refine Keeps.getD ?_ ?_) | split
    | (with_reducible refine KeepsP.mk ?_; with_reducible first | assumption | apply kp_kvWr) | (with_reducible refine KeepsP.p1 ?_)
    | (with_reducible refine KeepsP.p2 ?_) | (with_reducible refine KeepsP.p22 ?_) | (with_reducible refine KeepsP.kx ?_)
    | (with_reducible refine KeepsP.p2x ?_) | (with_reducible refine Keeps.of2x (by assumption) ?_) | (with_reducible refine KeepsP.vio1 ?_)
    | (with_reducible refine KeepsP.encin ?_) | (with_reducible refine KeepsP.vio ?_) | (with_reducible refine Keeps.of1v (by assumption) ?_)
    | (with_reducible refine Keeps.of2 (by assumption) ?_) | (with_reducible refine Keeps.of1 (by assumption) ?_)
    | (with_reducible refine Keeps.of3 (by assumption) ?_)

theorem kp_tellPart {z : State} (i : Nat) (hn : Nat) (part : Bool) (s : State) (hs : Keeps z s) :
    Keeps z (tellPart i hn part s) := by
  unfold tellPart
  repeat' first
    | (with_reducible assumption)
    | (extract_lets +onlyGivenNames lv; first | (have hx : Keeps z lv := ?_; generalize lv = w at hx ⊢; clear lv; rotate_left; subst lv) | (generalize lv = w; clear lv) | subst lv)
    | (with_reducible apply kp_setKvH) | (with_reducible apply kp_raise) | split | (with_reducible exact Keeps.mk (by assumption))

theorem kp_kvScores {z : State} (i : Nat) (hn : Nat) (h : KvH) (bs : List KBlk) (rows : List (List KRow × KRow)) (x : Kx) (hx : Keeps z x.s) :
    Keeps z (kvScores i hn h bs rows x).s := by
  change KeepsP (fun y : Kx => y.s) z _
  unfold kvScores
  repeat' first
    | (with_reducible assumption) | intro _
    | (extract_lets +onlyGivenNames lv; first | (have hx : Keeps z lv := ?_; generalize lv = w at hx ⊢; clear lv; rotate_left; subst lv) | (have hx : KeepsP (fun y : _ × State => y.2) z lv := ?_; generalize lv = w at hx ⊢; clear lv; replace hx : Keeps z w.2 := hx; rotate_left; subst lv) | (have hx : KeepsP (fun y : State × _ => y.1) z lv := ?_; generalize lv = w at hx ⊢; clear lv; replace hx : Keeps z w.1 := hx; rotate_left; subst lv) | (have hx : KeepsP (fun y : _ × _ × State => y.2.2) z lv := ?_; generalize lv = w at hx ⊢; clear lv; replace hx : Keeps z w.2.2 := hx; rotate_left; subst lv) | (have hv : KeepsP (fun y : _ × Kx => y.2.s) z lv := ?_; obtain ⟨w, e, hx⟩ : ∃ w, w = lv ∧ KeepsP (fun y : _ × Kx => y.2.s) z w := ⟨lv, rfl, hv⟩; try rw [← e]; clear e hv lv; replace hx : Keeps z w.2.s := hx; rotate_left; subst lv) | (have hv : KeepsP (fun y : Kx => y.s) z lv := ?_; obtain ⟨w, e, hx⟩ : ∃ w, w = lv ∧ KeepsP (fun y : Kx => y.s) z w := ⟨lv, rfl, hv⟩; try rw [← e]; clear e hv lv; replace hx : Keeps z w.s := hx; rotate_left; subst lv) | (have hv : KeepsP (fun y : VIo => y.s) z lv := ?_; obtain ⟨w, e, hx⟩ : ∃ w, w = lv ∧ KeepsP (fun y : VIo => y.s) z w := ⟨lv, rfl, hv⟩; try rw [← e]; clear e hv lv; replace hx : Keeps z w.s := hx; rotate_left; subst lv) | (have hv : KeepsP (fun y : EncIn => y.io.s) z lv := ?_; obtain ⟨w, e, hx⟩ : ∃ w, w = lv ∧ KeepsP (fun y : EncIn => y.io.s) z w := ⟨lv, rfl, hv⟩; try rw [← e]; clear e hv lv; replace hx : Keeps z w.io.s := hx; rotate_left; subst lv) | (have hv : KeepsP (fun y : VIo × _ => y.1.s) z lv := ?_; obtain ⟨w, e, hx⟩ : ∃ w, w = lv ∧ KeepsP (fun y : VIo × _ => y.1.s) z w := ⟨lv, rfl, hv⟩; try rw [← e]; clear e hv lv; replace hx : Keeps z w.1.s := hx; rotate_left; subst lv) | (generalize lv = w; clear lv) | subst lv)
    | (with_reducible apply kp_scoreBlock) | (with_reducible apply kp_tellPart) | (with_reducible apply Keeps.foldl)
    | (with_reducible apply Keeps.foldlx) | (with_reducible apply Keeps.foldlv) | (with_reducible apply Keeps.foldl2)
    | (with_reducible apply Keeps.foldl1) | (with_reducible apply Keeps.foldl22) | (with_reducible apply Keeps.foldl222)
    | (with_reducible apply Keeps.foldl2x) | split
    | (with_reducible refine KeepsP.mk ?_; with_reducible first | assumption | apply kp_scoreBlock | apply Keeps.foldlx | apply Keeps.foldlv | apply Keeps.foldl2 | apply Keeps.foldl1 | apply Keeps.foldl22 | apply Keeps.foldl222 | apply Keeps.foldl2x)
    | (with_reducible refine KeepsP.p1 ?_) | (with_reducible refine KeepsP.p2 ?_) | (with_reducible refine KeepsP.p22 ?_)
    | (with_reducible refine KeepsP.kx ?_) | (with_reducible refine KeepsP.p2x ?_) | (with_reducible refine Keeps.of2x (by assumption) ?_)
    | (with_reducible refine KeepsP.vio1 ?_) | (with_reducible refine KeepsP.encin ?_) | (with_reducible refine KeepsP.vio ?_)
    | (with_reducible refine Keeps.of1v (by assumption) ?_) | (with_reducible refine Keeps.of2 (by assumption) ?_)
    | (with_reducible refine Keeps.of1 (by assumption) ?_) | (with_reducible refine Keeps.of3 (by assumption) ?_)
    | (with_reducible exact Keeps.mk (by assumption))

theorem kp_kattnWork {z : State} (i : Nat) (hn : Nat) (num : Nat) (c : QCmd) (x : Kx) (hx : Keeps z x.s) :
    Keeps z (kattnWork i hn num c x).s := by
  change KeepsP (fun y : Kx => y.s) z _
  unfold kattnWork
  repeat' first
    | (with_reducible assumption) | intro _
    | (extract_lets +onlyGivenNames lv; first | (have hx : Keeps z lv := ?_; generalize lv = w at hx ⊢; clear lv; rotate_left; subst lv) | (have hx : KeepsP (fun y : _ × State => y.2) z lv := ?_; generalize lv = w at hx ⊢; clear lv; replace hx : Keeps z w.2 := hx; rotate_left; subst lv) | (have hx : KeepsP (fun y : State × _ => y.1) z lv := ?_; generalize lv = w at hx ⊢; clear lv; replace hx : Keeps z w.1 := hx; rotate_left; subst lv) | (have hx : KeepsP (fun y : _ × _ × State => y.2.2) z lv := ?_; generalize lv = w at hx ⊢; clear lv; replace hx : Keeps z w.2.2 := hx; rotate_left; subst lv) | (have hv : KeepsP (fun y : _ × Kx => y.2.s) z lv := ?_; obtain ⟨w, e, hx⟩ : ∃ w, w = lv ∧ KeepsP (fun y : _ × Kx => y.2.s) z w := ⟨lv, rfl, hv⟩; try rw [← e]; clear e hv lv; replace hx : Keeps z w.2.s := hx; rotate_left; subst lv) | (have hv : KeepsP (fun y : Kx => y.s) z lv := ?_; obtain ⟨w, e, hx⟩ : ∃ w, w = lv ∧ KeepsP (fun y : Kx => y.s) z w := ⟨lv, rfl, hv⟩; try rw [← e]; clear e hv lv; replace hx : Keeps z w.s := hx; rotate_left; subst lv) | (have hv : KeepsP (fun y : VIo => y.s) z lv := ?_; obtain ⟨w, e, hx⟩ : ∃ w, w = lv ∧ KeepsP (fun y : VIo => y.s) z w := ⟨lv, rfl, hv⟩; try rw [← e]; clear e hv lv; replace hx : Keeps z w.s := hx; rotate_left; subst lv) | (have hv : KeepsP (fun y : EncIn => y.io.s) z lv := ?_; obtain ⟨w, e, hx⟩ : ∃ w, w = lv ∧ KeepsP (fun y : EncIn => y.io.s) z w := ⟨lv, rfl, hv⟩; try rw [← e]; clear e hv lv; replace hx : Keeps z w.io.s := hx; rotate_left; subst lv) | (have hv : KeepsP (fun y : VIo × _ => y.1.s) z lv := ?_; obtain ⟨w, e, hx⟩ : ∃ w, w = lv ∧ KeepsP (fun y : VIo × _ => y.1.s) z w := ⟨lv, rfl, hv⟩; try rw [← e]; clear e hv lv; replace hx : Keeps z w.1.s := hx; rotate_left; subst lv) | (generalize lv = w; clear lv) | subst lv)
    | (with_reducible apply kp_spadSeen) | (with_reducible apply kp_kvTrim) | (with_reducible apply kp_kvChain) | (with_reducible apply kp_kvData)
    | (with_reducible apply kp_putRows) | (with_reducible apply kp_setKvH) | (with_reducible apply kp_kvScores) | (with_reducible apply kp_bump64)
    | (with_reducible apply kp_kvEnd) | (with_reducible apply kp_raise) | (with_reducible apply kp_Kx_fail)
    | (with_reducible refine Keeps.getD ?_ ?_) | (with_reducible apply Keeps.foldl) | (with_reducible apply Keeps.foldlx)
    | (with_reducible apply Keeps.foldlv) | (with_reducible apply Keeps.foldl2) | (with_reducible apply Keeps.foldl1)
    | (with_reducible apply Keeps.foldl22) | (with_reducible apply Keeps.foldl222) | (with_reducible apply Keeps.foldl2x) | split
    | (with_reducible refine KeepsP.mk ?_; with_reducible first | assumption | apply kp_kvTrim | apply kp_kvChain | apply kp_kvData | apply kp_kvScores | apply kp_Kx_fail | apply Keeps.foldlx | apply Keeps.foldlv | apply Keeps.foldl2 | apply Keeps.foldl1 | apply Keeps.foldl22 | apply Keeps.foldl222 | apply Keeps.foldl2x)
    | (with_reducible refine KeepsP.p1 ?_) | (with_reducible refine KeepsP.p2 ?_) | (with_reducible refine KeepsP.p22 ?_)
    | (with_reducible refine KeepsP.kx ?_) | (with_reducible refine KeepsP.p2x ?_) | (with_reducible refine Keeps.of2x (by assumption) ?_)
    | (with_reducible refine KeepsP.vio1 ?_) | (with_reducible refine KeepsP.encin ?_) | (with_reducible refine KeepsP.vio ?_)
    | (with_reducible refine Keeps.of1v (by assumption) ?_) | (with_reducible refine Keeps.of2 (by assumption) ?_)
    | (with_reducible refine Keeps.of1 (by assumption) ?_) | (with_reducible refine Keeps.of3 (by assumption) ?_)
    | (with_reducible exact Keeps.mk (by assumption))

theorem kp_putPhase {z : State} (i : Nat) (r : Ring) (sent : Bool) (ackp : Bool) (s : State) (hs : Keeps z s) :
    Keeps z (putPhase i r sent ackp s) := by
  unfold putPhase
  repeat' first
    | (with_reducible assumption) | (with_reducible apply kp_spadWrite) | dsimp only

theorem kp_ringRd {z : State} (i : Nat) (hba : Nat) (len : Nat) (x : Kx) (hx : Keeps z x.s) :
    Keeps z (ringRd i hba len x).2.s := by
  change KeepsP (fun y : (List Byte × List Nat) × Kx => y.2.s) z _
  unfold ringRd
  repeat' first
    | (with_reducible assumption)
    | (extract_lets +onlyGivenNames lv; first | (have hx : Keeps z lv := ?_; generalize lv = w at hx ⊢; clear lv; rotate_left; subst lv) | (have hx : KeepsP (fun y : _ × _ × _ × State => y.2.2.2) z lv := ?_; generalize lv = w at hx ⊢; clear lv; replace hx : Keeps z w.2.2.2 := hx; rotate_left; subst lv) | (have hv : KeepsP (fun y : _ × Kx => y.2.s) z lv := ?_; obtain ⟨w, e, hx⟩ : ∃ w, w = lv ∧ KeepsP (fun y : _ × Kx => y.2.s) z w := ⟨lv, rfl, hv⟩; try rw [← e]; clear e hv lv; replace hx : Keeps z w.2.s := hx; rotate_left; subst lv) | (have hv : KeepsP (fun y : Kx => y.s) z lv := ?_; obtain ⟨w, e, hx⟩ : ∃ w, w = lv ∧ KeepsP (fun y : Kx => y.s) z w := ⟨lv, rfl, hv⟩; try rw [← e]; clear e hv lv; replace hx : Keeps z w.s := hx; rotate_left; subst lv) | (have hv : KeepsP (fun y : VIo => y.s) z lv := ?_; obtain ⟨w, e, hx⟩ : ∃ w, w = lv ∧ KeepsP (fun y : VIo => y.s) z w := ⟨lv, rfl, hv⟩; try rw [← e]; clear e hv lv; replace hx : Keeps z w.s := hx; rotate_left; subst lv) | (have hv : KeepsP (fun y : EncIn => y.io.s) z lv := ?_; obtain ⟨w, e, hx⟩ : ∃ w, w = lv ∧ KeepsP (fun y : EncIn => y.io.s) z w := ⟨lv, rfl, hv⟩; try rw [← e]; clear e hv lv; replace hx : Keeps z w.io.s := hx; rotate_left; subst lv) | (have hv : KeepsP (fun y : VIo × _ => y.1.s) z lv := ?_; obtain ⟨w, e, hx⟩ : ∃ w, w = lv ∧ KeepsP (fun y : VIo × _ => y.1.s) z w := ⟨lv, rfl, hv⟩; try rw [← e]; clear e hv lv; replace hx : Keeps z w.1.s := hx; rotate_left; subst lv) | (generalize lv = w; clear lv) | subst lv)
    | (with_reducible apply kp_hbaReadAll) | (with_reducible apply kp_Kx_fail) | (with_reducible apply kp_Kx_status) | split
    | (with_reducible refine KeepsP.mk ?_; with_reducible first | assumption | apply kp_hbaReadAll | apply kp_Kx_fail | apply kp_Kx_status)
    | (with_reducible refine KeepsP.p1 ?_) | (with_reducible refine KeepsP.p2 ?_) | (with_reducible refine KeepsP.p22 ?_)
    | (with_reducible refine KeepsP.p222 ?_) | (with_reducible refine KeepsP.kx ?_) | (with_reducible refine KeepsP.p2x ?_)
    | (with_reducible refine Keeps.of2x (by assumption) ?_) | (with_reducible refine KeepsP.vio1 ?_) | (with_reducible refine KeepsP.encin ?_)
    | (with_reducible refine KeepsP.vio ?_) | (with_reducible refine Keeps.of1v (by assumption) ?_)
    | (with_reducible refine Keeps.of2 (by assumption) ?_) | (with_reducible refine Keeps.of1 (by assumption) ?_)
    | (with_reducible refine Keeps.of3 (by assumption) ?_) | (with_reducible refine Keeps.of4 (by assumption) ?_)
    | (with_reducible exact Keeps.mk (by assumption))

theorem kp_ringWr {z : State} (i : Nat) (hba : Nat) (bs : List Byte) (bad : List Nat) (x : Kx) (hx : Keeps z x.s) :
    Keeps z (ringWr i hba bs bad x).s := by
  change KeepsP (fun y : Kx => y.s) z _
  unfold ringWr
  repeat' first
    | (with_reducible assumption)
    | (extract_lets +onlyGivenNames lv; first | (have hx : Keeps z lv := ?_; generalize lv = w at hx ⊢; clear lv; rotate_left; subst lv) | (have hx : KeepsP (fun y : _ × State => y.2) z lv := ?_; generalize lv = w at hx ⊢; clear lv; replace hx : Keeps z w.2 := hx; rotate_left; subst lv) | (have hv : KeepsP (fun y : _ × Kx => y.2.s) z lv := ?_; obtain ⟨w, e, hx⟩ : ∃ w, w = lv ∧ KeepsP (fun y : _ × Kx => y.2.s) z w := ⟨lv, rfl, hv⟩; try rw [← e]; clear e hv lv; replace hx : Keeps z w.2.s := hx; rotate_left; subst lv) | (have hv : KeepsP (fun y : Kx => y.s) z lv := ?_; obtain ⟨w, e, hx⟩ : ∃ w, w = lv ∧ KeepsP (fun y : Kx => y.s) z w := ⟨lv, rfl, hv⟩; try rw [← e]; clear e hv lv; replace hx : Keeps z w.s := hx; rotate_left; subst lv) | (have hv : KeepsP (fun y : VIo => y.s) z lv := ?_; obtain ⟨w, e, hx⟩ : ∃ w, w = lv ∧ KeepsP (fun y : VIo => y.s) z w := ⟨lv, rfl, hv⟩; try rw [← e]; clear e hv lv; replace hx : Keeps z w.s := hx; rotate_left; subst lv) | (have hv : KeepsP (fun y : EncIn => y.io.s) z lv := ?_; obtain ⟨w, e, hx⟩ : ∃ w, w = lv ∧ KeepsP (fun y : EncIn => y.io.s) z w := ⟨lv, rfl, hv⟩; try rw [← e]; clear e hv lv; replace hx : Keeps z w.io.s := hx; rotate_left; subst lv) | (have hv : KeepsP (fun y : VIo × _ => y.1.s) z lv := ?_; obtain ⟨w, e, hx⟩ : ∃ w, w = lv ∧ KeepsP (fun y : VIo × _ => y.1.s) z w := ⟨lv, rfl, hv⟩; try rw [← e]; clear e hv lv; replace hx : Keeps z w.1.s := hx; rotate_left; subst lv) | (generalize lv = w; clear lv) | subst lv)
    | (with_reducible apply kp_hbaWriteAll) | (with_reducible apply kp_Kx_fail) | (with_reducible apply kp_Kx_status) | split
    | (with_reducible refine KeepsP.mk ?_; with_reducible first | assumption | apply kp_hbaWriteAll | apply kp_Kx_fail | apply kp_Kx_status)
    | (with_reducible refine KeepsP.p1 ?_) | (with_reducible refine KeepsP.p2 ?_) | (with_reducible refine KeepsP.p22 ?_)
    | (with_reducible refine KeepsP.kx ?_) | (with_reducible refine KeepsP.p2x ?_) | (with_reducible refine Keeps.of2x (by assumption) ?_)
    | (with_reducible refine KeepsP.vio1 ?_) | (with_reducible refine KeepsP.encin ?_) | (with_reducible refine KeepsP.vio ?_)
    | (with_reducible refine Keeps.of1v (by assumption) ?_) | (with_reducible refine Keeps.of2 (by assumption) ?_)
    | (with_reducible refine Keeps.of1 (by assumption) ?_) | (with_reducible refine Keeps.of3 (by assumption) ?_)
    | (with_reducible exact Keeps.mk (by assumption))

theorem kp_ringAdd {z : State} (i : Nat) (hba : Nat) (x : Kx) (hx : Keeps z x.s) :
    Keeps z (ringAdd i hba x).s := by
  change KeepsP (fun y : Kx => y.s) z _
  unfold ringAdd
  repeat' first
    | (with_reducible assumption)
    | (extract_lets +onlyGivenNames lv; first | (have hx : Keeps z lv := ?_; generalize lv = w at hx ⊢; clear lv; rotate_left; subst lv) | (have hv : KeepsP (fun y : _ × Kx => y.2.s) z lv := ?_; obtain ⟨w, e, hx⟩ : ∃ w, w = lv ∧ KeepsP (fun y : _ × Kx => y.2.s) z w := ⟨lv, rfl, hv⟩; try rw [← e]; clear e hv lv; replace hx : Keeps z w.2.s := hx; rotate_left; subst lv) | (have hv : KeepsP (fun y : Kx => y.s) z lv := ?_; obtain ⟨w, e, hx⟩ : ∃ w, w = lv ∧ KeepsP (fun y : Kx => y.s) z w := ⟨lv, rfl, hv⟩; try rw [← e]; clear e hv lv; replace hx : Keeps z w.s := hx; rotate_left; subst lv) | (generalize lv = w; clear lv) | subst lv)
    | (with_reducible apply kp_ringRd) | (with_reducible apply kp_ringWr) | split
    | (with_reducible refine KeepsP.mk ?_; with_reducible first | assumption | apply kp_ringRd | apply kp_ringWr)
    | (with_reducible refine KeepsP.p2x ?_) | (with_reducible refine KeepsP.kx ?_) | (with_reducible refine Keeps.of2x (by assumption) ?_)
    | dsimp only

theorem kp_carryOwn {z : State} (i : Nat) (h : KvH) (r : Ring) (x : Kx) (hx : Keeps z x.s) :
    Keeps z (carryOwn i h r x).2.s := by
  change KeepsP (fun y : List (Nat × List Byte × List Nat) × Kx => y.2.s) z _
  unfold carryOwn
  repeat' first
    | (with_reducible assumption) | intro _
    | (extract_lets +onlyGivenNames lv; first | (have hx : Keeps z lv := ?_; generalize lv = w at hx ⊢; clear lv; rotate_left; subst lv) | (have hv : KeepsP (fun y : _ × Kx => y.2.s) z lv := ?_; obtain ⟨w, e, hx⟩ : ∃ w, w = lv ∧ KeepsP (fun y : _ × Kx => y.2.s) z w := ⟨lv, rfl, hv⟩; try rw [← e]; clear e hv lv; replace hx : Keeps z w.2.s := hx; rotate_left; subst lv) | (have hx : KeepsP (fun y : _ × State => y.2) z lv := ?_; generalize lv = w at hx ⊢; clear lv; replace hx : Keeps z w.2 := hx; rotate_left; subst lv) | (have hx : KeepsP (fun y : State × _ => y.1) z lv := ?_; generalize lv = w at hx ⊢; clear lv; replace hx : Keeps z w.1 := hx; rotate_left; subst lv) | (have hx : KeepsP (fun y : _ × _ × State => y.2.2) z lv := ?_; generalize lv = w at hx ⊢; clear lv; replace hx : Keeps z w.2.2 := hx; rotate_left; subst lv) | (generalize lv = w; clear lv) | subst lv)
    | (with_reducible apply kp_ringRd) | (with_reducible apply Keeps.foldl) | (with_reducible apply Keeps.foldlx)
    | (with_reducible apply Keeps.foldlv) | (with_reducible apply Keeps.foldl2) | (with_reducible apply Keeps.foldl1)
    | (with_reducible apply Keeps.foldl22) | (with_reducible apply Keeps.foldl222) | (with_reducible apply Keeps.foldl2x) | split
    | (with_reducible refine KeepsP.mk ?_; with_reducible first | assumption | apply kp_ringRd | apply Keeps.foldlx | apply Keeps.foldlv | apply Keeps.foldl2 | apply Keeps.foldl1 | apply Keeps.foldl22 | apply Keeps.foldl222 | apply Keeps.foldl2x)
    | (with_reducible refine KeepsP.p1 ?_) | (with_reducible refine KeepsP.p2 ?_) | (with_reducible refine KeepsP.p22 ?_)
    | (with_reducible refine KeepsP.p2x ?_) | (with_reducible refine KeepsP.kx ?_) | (with_reducible refine Keeps.of2x (by assumption) ?_)
    | (with_reducible refine Keeps.of2 (by assumption) ?_) | (with_reducible refine Keeps.of1 (by assumption) ?_)
    | (with_reducible refine Keeps.of3 (by assumption) ?_) | dsimp only

theorem kp_carryList {z : State} (i : Nat) (h : KvH) (r : Ring) (x : Kx) (hx : Keeps z x.s) :
    Keeps z (carryList i h r x).2.s := by
  change KeepsP (fun y : List (Nat × List Byte × List Nat) × Kx => y.2.s) z _
  unfold carryList
  repeat' first
    | (with_reducible assumption)
    | (extract_lets +onlyGivenNames lv; first | (have hx : Keeps z lv := ?_; generalize lv = w at hx ⊢; clear lv; rotate_left; subst lv) | (have hv : KeepsP (fun y : _ × Kx => y.2.s) z lv := ?_; obtain ⟨w, e, hx⟩ : ∃ w, w = lv ∧ KeepsP (fun y : _ × Kx => y.2.s) z w := ⟨lv, rfl, hv⟩; try rw [← e]; clear e hv lv; replace hx : Keeps z w.2.s := hx; rotate_left; subst lv) | (generalize lv = w; clear lv) | subst lv)
    | (with_reducible apply kp_kvChain) | (with_reducible apply kp_kvData) | split
    | (with_reducible refine KeepsP.mk ?_; with_reducible first | assumption | apply kp_kvChain | apply kp_kvData)
    | (with_reducible refine KeepsP.p2x ?_) | (with_reducible refine KeepsP.kx ?_) | (with_reducible refine Keeps.of2x (by assumption) ?_)
    | dsimp only | (with_reducible exact Keeps.mk (by assumption))

theorem kp_ringPhase {z : State} (i : Nat) (num : Nat) (ph : Nat) (left : Nat) (s : State) (hs : Keeps z s) :
    Keeps z (ringPhase i num ph left s) := by
  unfold ringPhase
  repeat' first
    | (with_reducible assumption) | intro _ | (with_reducible apply kp_updStarted) | dsimp only | (with_reducible exact Keeps.mk (by assumption))

theorem kp_ringAtomic {z : State} (i : Nat) (num : Nat) (ph : Nat) (g : Nat) (s : State) (hs : Keeps z s) :
    Keeps z (ringAtomic i num ph g s) := by
  unfold ringAtomic
  repeat' first
    | (with_reducible assumption) | (with_reducible apply kp_e2eSubmit) | (with_reducible apply kp_ringPhase) | dsimp only

theorem kp_ringCounts {z : State} (i : Nat) (r : Ring) (x : Kx) (hx : Keeps z x.s) :
    Keeps z (ringCounts i r x).2.s := by
  change KeepsP (fun y : Option (Nat × Nat) × Kx => y.2.s) z _
  unfold ringCounts
  repeat' first
    | (with_reducible assumption)
    | (extract_lets +onlyGivenNames lv; first | (have hx : Keeps z lv := ?_; generalize lv = w at hx ⊢; clear lv; rotate_left; subst lv) | (have hv : KeepsP (fun y : _ × Kx => y.2.s) z lv := ?_; obtain ⟨w, e, hx⟩ : ∃ w, w = lv ∧ KeepsP (fun y : _ × Kx => y.2.s) z w := ⟨lv, rfl, hv⟩; try rw [← e]; clear e hv lv; replace hx : Keeps z w.2.s := hx; rotate_left; subst lv) | (generalize lv = w; clear lv) | subst lv)
    | (with_reducible apply kp_ringRd) | split | (with_reducible refine KeepsP.mk ?_; with_reducible first | assumption | apply kp_ringRd)
    | (with_reducible refine KeepsP.p2x ?_) | (with_reducible refine KeepsP.kx ?_) | (with_reducible refine Keeps.of2x (by assumption) ?_)
    | dsimp only

theorem kp_ringBad {z : State} (i : Nat) (hn : Nat) (num : Nat) (r : Ring) (s : State) (hs : Keeps z s) :
    Keeps z (ringBad i hn num r s) := by
  unfold ringBad
  repeat' first
    | (with_reducible assumption) | (with_reducible apply kp_kvEnd) | (with_reducible apply kp_recordCE) | dsimp only

theorem kp_ringAdvance {z : State} (i : Nat) (num : Nat) (r : Ring) (seen : Nat) (s : State) (hs : Keeps z s) :
    Keeps z (ringAdvance i num r seen s) := by
  unfold ringAdvance
  repeat' first
    | (with_reducible assumption)
    | (extract_lets +onlyGivenNames lv; first | (have hx : Keeps z lv := ?_; generalize lv = w at hx ⊢; clear lv; rotate_left; subst lv) | (generalize lv = w; clear lv) | subst lv)
    | (with_reducible apply kp_putPhase) | (with_reducible apply kp_spadWrite) | (with_reducible apply kp_kvEnd) | (with_reducible apply kp_bump)
    | split | dsimp only

theorem kp_ringConsume {z : State} (i : Nat) (hn : Nat) (num : Nat) (r : Ring) (x : Kx) (hx : Keeps z x.s) :
    Keeps z (ringConsume i hn num r x).s := by
  change KeepsP (fun y : Kx => y.s) z _
  unfold ringConsume
  repeat' first
    | (with_reducible assumption) | intro _
    | (extract_lets +onlyGivenNames lv; first | (have hx : Keeps z lv := ?_; generalize lv = w at hx ⊢; clear lv; rotate_left; subst lv) | (have hv : KeepsP (fun y : Kx => y.s) z lv := ?_; obtain ⟨w, e, hx⟩ : ∃ w, w = lv ∧ KeepsP (fun y : Kx => y.s) z w := ⟨lv, rfl, hv⟩; try rw [← e]; clear e hv lv; replace hx : Keeps z w.s := hx; rotate_left; subst lv) | (have hv : KeepsP (fun y : _ × Kx => y.2.s) z lv := ?_; obtain ⟨w, e, hx⟩ : ∃ w, w = lv ∧ KeepsP (fun y : _ × Kx => y.2.s) z w := ⟨lv, rfl, hv⟩; try rw [← e]; clear e hv lv; replace hx : Keeps z w.2.s := hx; rotate_left; subst lv) | (have hx : KeepsP (fun y : _ × State => y.2) z lv := ?_; generalize lv = w at hx ⊢; clear lv; replace hx : Keeps z w.2 := hx; rotate_left; subst lv) | (have hx : KeepsP (fun y : State × _ => y.1) z lv := ?_; generalize lv = w at hx ⊢; clear lv; replace hx : Keeps z w.1 := hx; rotate_left; subst lv) | (have hx : KeepsP (fun y : _ × _ × State => y.2.2) z lv := ?_; generalize lv = w at hx ⊢; clear lv; replace hx : Keeps z w.2.2 := hx; rotate_left; subst lv) | (generalize lv = w; clear lv) | subst lv)
    | (with_reducible apply kp_Kx_fail) | (with_reducible apply kp_spadSeen) | (with_reducible apply kp_ringRd) | (with_reducible apply kp_bump64)
    | (with_reducible apply kp_putRows) | (with_reducible apply kp_updStarted) | (with_reducible apply kp_kvEnd) | (with_reducible apply kp_raise)
    | (with_reducible apply kp_ringAtomic) | (with_reducible apply kp_ringAdd) | (with_reducible apply kp_ringAdvance)
    | (with_reducible apply Keeps.foldl) | (with_reducible apply Keeps.foldlx) | (with_reducible apply Keeps.foldlv)
    | (with_reducible apply Keeps.foldl2) | (with_reducible apply Keeps.foldl1) | (with_reducible apply Keeps.foldl22)
    | (with_reducible apply Keeps.foldl222) | (with_reducible apply Keeps.foldl2x) | split
    | (with_reducible refine KeepsP.mk ?_; with_reducible first | assumption | apply kp_Kx_fail | apply kp_ringRd | apply kp_ringAdd | apply Keeps.foldlx | apply Keeps.foldlv | apply Keeps.foldl2 | apply Keeps.foldl1 | apply Keeps.foldl22 | apply Keeps.foldl222 | apply Keeps.foldl2x)
    | (with_reducible refine KeepsP.p1 ?_) | (with_reducible refine KeepsP.p2 ?_) | (with_reducible refine KeepsP.p22 ?_)
    | (with_reducible refine KeepsP.p2x ?_) | (with_reducible refine KeepsP.kx ?_) | (with_reducible refine Keeps.of2x (by assumption) ?_)
    | (with_reducible refine Keeps.of2 (by assumption) ?_) | (with_reducible refine Keeps.of1 (by assumption) ?_)
    | (with_reducible refine Keeps.of3 (by assumption) ?_) | dsimp only | (with_reducible exact Keeps.mk (by assumption))

theorem kp_ringArrive {z : State} (i : Nat) (hn : Nat) (num : Nat) (r : Ring) (x : Kx) (hx : Keeps z x.s) :
    Keeps z (ringArrive i hn num r x).s := by
  change KeepsP (fun y : Kx => y.s) z _
  unfold ringArrive
  repeat' first
    | (with_reducible assumption) | intro _
    | (extract_lets +onlyGivenNames lv; first | (have hx : Keeps z lv := ?_; generalize lv = w at hx ⊢; clear lv; rotate_left; subst lv) | (have hv : KeepsP (fun y : _ × Kx => y.2.s) z lv := ?_; obtain ⟨w, e, hx⟩ : ∃ w, w = lv ∧ KeepsP (fun y : _ × Kx => y.2.s) z w := ⟨lv, rfl, hv⟩; try rw [← e]; clear e hv lv; replace hx : Keeps z w.2.s := hx; rotate_left; subst lv) | (have hv : KeepsP (fun y : Kx => y.s) z lv := ?_; obtain ⟨w, e, hx⟩ : ∃ w, w = lv ∧ KeepsP (fun y : Kx => y.s) z w := ⟨lv, rfl, hv⟩; try rw [← e]; clear e hv lv; replace hx : Keeps z w.s := hx; rotate_left; subst lv) | (generalize lv = w; clear lv) | subst lv)
    | (with_reducible apply kp_ringCounts) | (with_reducible apply kp_ringBad) | (with_reducible apply kp_ringConsume)
    | (with_reducible apply kp_updStarted) | (with_reducible apply kp_blockNow) | split
    | (with_reducible refine KeepsP.mk ?_; with_reducible first | assumption | apply kp_ringCounts | apply kp_ringConsume)
    | (with_reducible refine KeepsP.p2x ?_) | (with_reducible refine KeepsP.kx ?_) | (with_reducible refine Keeps.of2x (by assumption) ?_)
    | dsimp only | (with_reducible exact Keeps.mk (by assumption))

theorem kp_ringRelease {z : State} (i : Nat) (hn : Nat) (num : Nat) (r : Ring) (x : Kx) (hx : Keeps z x.s) :
    Keeps z (ringRelease i hn num r x).s := by
  change KeepsP (fun y : Kx => y.s) z _
  unfold ringRelease
  repeat' first
    | (with_reducible assumption)
    | (extract_lets +onlyGivenNames lv; first | (have hx : Keeps z lv := ?_; generalize lv = w at hx ⊢; clear lv; rotate_left; subst lv) | (have hv : KeepsP (fun y : Kx => y.s) z lv := ?_; obtain ⟨w, e, hx⟩ : ∃ w, w = lv ∧ KeepsP (fun y : Kx => y.s) z w := ⟨lv, rfl, hv⟩; try rw [← e]; clear e hv lv; replace hx : Keeps z w.s := hx; rotate_left; subst lv) | (generalize lv = w; clear lv) | subst lv)
    | (with_reducible apply kp_ringAtomic) | (with_reducible apply kp_ringAdd) | (with_reducible apply kp_ringArrive)
    | (with_reducible apply kp_putPhase) | split
    | (with_reducible refine KeepsP.mk ?_; with_reducible first | assumption | apply kp_ringAdd | apply kp_ringArrive)
    | (with_reducible refine KeepsP.kx ?_) | dsimp only | (with_reducible exact Keeps.mk (by assumption))

theorem kp_ringGo {z : State} (i : Nat) (hn : Nat) (num : Nat) (r : Ring) (x : Kx) (hx : Keeps z x.s) :
    Keeps z (ringGo i hn num r x).s := by
  change KeepsP (fun y : Kx => y.s) z _
  unfold ringGo
  repeat' first
    | (with_reducible assumption) | intro _
    | (extract_lets +onlyGivenNames lv; first | (have hx : Keeps z lv := ?_; generalize lv = w at hx ⊢; clear lv; rotate_left; subst lv) | (have hv : KeepsP (fun y : Kx => y.s) z lv := ?_; obtain ⟨w, e, hx⟩ : ∃ w, w = lv ∧ KeepsP (fun y : Kx => y.s) z w := ⟨lv, rfl, hv⟩; try rw [← e]; clear e hv lv; replace hx : Keeps z w.s := hx; rotate_left; subst lv) | (have hv : KeepsP (fun y : _ × Kx => y.2.s) z lv := ?_; obtain ⟨w, e, hx⟩ : ∃ w, w = lv ∧ KeepsP (fun y : _ × Kx => y.2.s) z w := ⟨lv, rfl, hv⟩; try rw [← e]; clear e hv lv; replace hx : Keeps z w.2.s := hx; rotate_left; subst lv) | (have hx : KeepsP (fun y : _ × State => y.2) z lv := ?_; generalize lv = w at hx ⊢; clear lv; replace hx : Keeps z w.2 := hx; rotate_left; subst lv) | (have hx : KeepsP (fun y : State × _ => y.1) z lv := ?_; generalize lv = w at hx ⊢; clear lv; replace hx : Keeps z w.1 := hx; rotate_left; subst lv) | (have hx : KeepsP (fun y : _ × _ × State => y.2.2) z lv := ?_; generalize lv = w at hx ⊢; clear lv; replace hx : Keeps z w.2.2 := hx; rotate_left; subst lv) | (have hfn0 : ∀ y, Keeps z y → Keeps z (lv y) := ?_; generalize lv = w at hfn0 ⊢; clear lv; rotate_left; subst lv) | (have hfn1 : ∀ a y, Keeps z y → Keeps z (lv a y) := ?_; generalize lv = w at hfn1 ⊢; clear lv; rotate_left; subst lv) | (have hfn2 : ∀ a b y, Keeps z y → Keeps z (lv a b y) := ?_; generalize lv = w at hfn2 ⊢; clear lv; rotate_left; subst lv) | (have hfn3 : ∀ a b c y, Keeps z y → Keeps z (lv a b c y) := ?_; generalize lv = w at hfn3 ⊢; clear lv; rotate_left; subst lv) | (have hfn4 : ∀ y a, Keeps z y → Keeps z (lv y a) := ?_; generalize lv = w at hfn4 ⊢; clear lv; rotate_left; subst lv) | (have hfn5 : ∀ a, Keeps z (lv a) := ?_; generalize lv = w at hfn5 ⊢; clear lv; rotate_left; subst lv) | (have hfn6 : ∀ a b, Keeps z (lv a b) := ?_; generalize lv = w at hfn6 ⊢; clear lv; rotate_left; subst lv) | (have hfn7 : ∀ y a b, Keeps z y → Keeps z (lv y a b) := ?_; generalize lv = w at hfn7 ⊢; clear lv; rotate_left; subst lv) | (have hfn8 : ∀ a, KeepsR z (lv a) := ?_; generalize lv = w at hfn8 ⊢; clear lv; rotate_left; subst lv) | (have hfn9 : ∀ y, Keeps z y → KeepsC z (lv y) := ?_; generalize lv = w at hfn9 ⊢; clear lv; rotate_left; subst lv) | (have hfn10 : ∀ y, Keeps z y → KeepsR z (lv y) := ?_; generalize lv = w at hfn10 ⊢; clear lv; rotate_left; subst lv) | (have hfn11 : ∀ a y, Keeps z y → KeepsR z (lv a y) := ?_; generalize lv = w at hfn11 ⊢; clear lv; rotate_left; subst lv) | (have hfn12 : ∀ y a, Keeps z y → KeepsR z (lv y a) := ?_; generalize lv = w at hfn12 ⊢; clear lv; rotate_left; subst lv) | (generalize lv = w; clear lv) | subst lv)
    | (with_reducible apply hfn0) | (with_reducible apply hfn1) | (with_reducible apply hfn2) | (with_reducible apply hfn3)
    | (with_reducible apply hfn4) | (with_reducible apply hfn5) | (with_reducible apply hfn6) | (with_reducible apply hfn7)
    | (with_reducible apply hfn8) | (with_reducible apply hfn9) | (with_reducible apply hfn10) | (with_reducible apply hfn11)
    | (with_reducible apply hfn12) | (with_reducible apply kp_ringRelease) | (with_reducible apply kp_ringCounts) | (with_reducible apply kp_ringBad)
    | (with_reducible apply kp_ringPhase) | (with_reducible apply kp_carryList) | (with_reducible apply kp_carryOwn)
    | (with_reducible apply kp_e2eSubmit) | (with_reducible apply kp_ringWr) | (with_reducible apply kp_ringAdd) | (with_reducible apply kp_putPhase)
    | (with_reducible apply Keeps.foldl) | (with_reducible apply Keeps.foldlx) | (with_reducible apply Keeps.foldlv)
    | (with_reducible apply Keeps.foldl2) | (with_reducible apply Keeps.foldl1) | (with_reducible apply Keeps.foldl22)
    | (with_reducible apply Keeps.foldl222) | (with_reducible apply Keeps.foldl2x) | split
    | (with_reducible refine KeepsP.mk ?_; with_reducible first | assumption | apply kp_ringRelease | apply kp_ringCounts | apply kp_carryList | apply kp_carryOwn | apply kp_ringWr | apply kp_ringAdd | apply Keeps.foldlx | apply Keeps.foldlv | apply Keeps.foldl2 | apply Keeps.foldl1 | apply Keeps.foldl22 | apply Keeps.foldl222 | apply Keeps.foldl2x)
    | (with_reducible refine KeepsP.p1 ?_) | (with_reducible refine KeepsP.p2 ?_) | (with_reducible refine KeepsP.p22 ?_)
    | (with_reducible refine KeepsP.p2x ?_) | (with_reducible refine KeepsP.kx ?_) | (with_reducible refine Keeps.of2x (by assumption) ?_)
    | (with_reducible refine Keeps.of2 (by assumption) ?_) | (with_reducible refine Keeps.of1 (by assumption) ?_)
    | (with_reducible refine Keeps.of3 (by assumption) ?_) | dsimp only | (with_reducible exact Keeps.mk (by assumption))

theorem kp_kringWork {z : State} (i : Nat) (hn : Nat) (num : Nat) (c : QCmd) (x : Kx) (hx : Keeps z x.s) :
    Keeps z (kringWork i hn num c x).s := by
  change KeepsP (fun y : Kx => y.s) z _
  unfold kringWork
  repeat' first
    | (with_reducible assumption)
    | (extract_lets +onlyGivenNames lv; first | (have hx : Keeps z lv := ?_; generalize lv = w at hx ⊢; clear lv; rotate_left; subst lv) | (have hv : KeepsP (fun y : _ × Kx => y.2.s) z lv := ?_; obtain ⟨w, e, hx⟩ : ∃ w, w = lv ∧ KeepsP (fun y : _ × Kx => y.2.s) z w := ⟨lv, rfl, hv⟩; try rw [← e]; clear e hv lv; replace hx : Keeps z w.2.s := hx; rotate_left; subst lv) | (have hv : KeepsP (fun y : Kx => y.s) z lv := ?_; obtain ⟨w, e, hx⟩ : ∃ w, w = lv ∧ KeepsP (fun y : Kx => y.s) z w := ⟨lv, rfl, hv⟩; try rw [← e]; clear e hv lv; replace hx : Keeps z w.s := hx; rotate_left; subst lv) | (have hv : KeepsP (fun y : VIo => y.s) z lv := ?_; obtain ⟨w, e, hx⟩ : ∃ w, w = lv ∧ KeepsP (fun y : VIo => y.s) z w := ⟨lv, rfl, hv⟩; try rw [← e]; clear e hv lv; replace hx : Keeps z w.s := hx; rotate_left; subst lv) | (have hv : KeepsP (fun y : EncIn => y.io.s) z lv := ?_; obtain ⟨w, e, hx⟩ : ∃ w, w = lv ∧ KeepsP (fun y : EncIn => y.io.s) z w := ⟨lv, rfl, hv⟩; try rw [← e]; clear e hv lv; replace hx : Keeps z w.io.s := hx; rotate_left; subst lv) | (have hv : KeepsP (fun y : VIo × _ => y.1.s) z lv := ?_; obtain ⟨w, e, hx⟩ : ∃ w, w = lv ∧ KeepsP (fun y : VIo × _ => y.1.s) z w := ⟨lv, rfl, hv⟩; try rw [← e]; clear e hv lv; replace hx : Keeps z w.1.s := hx; rotate_left; subst lv) | (generalize lv = w; clear lv) | subst lv)
    | (with_reducible apply kp_ringGo) | (with_reducible apply kp_kvTrim) | (with_reducible apply kp_spadSeen) | (with_reducible apply kp_Kx_fail)
    | split | (with_reducible refine KeepsP.mk ?_; with_reducible first | assumption | apply kp_ringGo | apply kp_kvTrim | apply kp_Kx_fail)
    | (with_reducible refine KeepsP.p1 ?_) | (with_reducible refine KeepsP.p2 ?_) | (with_reducible refine KeepsP.p22 ?_)
    | (with_reducible refine KeepsP.kx ?_) | (with_reducible refine KeepsP.p2x ?_) | (with_reducible refine Keeps.of2x (by assumption) ?_)
    | (with_reducible refine KeepsP.vio1 ?_) | (with_reducible refine KeepsP.encin ?_) | (with_reducible refine KeepsP.vio ?_)
    | (with_reducible refine Keeps.of1v (by assumption) ?_) | (with_reducible refine Keeps.of2 (by assumption) ?_)
    | (with_reducible refine Keeps.of1 (by assumption) ?_) | (with_reducible refine Keeps.of3 (by assumption) ?_)
    | (with_reducible exact Keeps.mk (by assumption))

theorem kp_kvWork {z : State} (i : Nat) (num : Nat) (hs : List (List (Option Nat))) (s : State) (hks : Keeps z s) :
    Keeps z (kvWork i num hs s) := by
  unfold kvWork
  repeat' first
    | (with_reducible assumption)
    | (extract_lets +onlyGivenNames lv; first | (have hx : Keeps z lv := ?_; generalize lv = w at hx ⊢; clear lv; rotate_left; subst lv) | (have hv : KeepsP (fun y : _ × Kx => y.2.s) z lv := ?_; obtain ⟨w, e, hx⟩ : ∃ w, w = lv ∧ KeepsP (fun y : _ × Kx => y.2.s) z w := ⟨lv, rfl, hv⟩; try rw [← e]; clear e hv lv; replace hx : Keeps z w.2.s := hx; rotate_left; subst lv) | (have hv : KeepsP (fun y : Kx => y.s) z lv := ?_; obtain ⟨w, e, hx⟩ : ∃ w, w = lv ∧ KeepsP (fun y : Kx => y.s) z w := ⟨lv, rfl, hv⟩; try rw [← e]; clear e hv lv; replace hx : Keeps z w.s := hx; rotate_left; subst lv) | (have hv : KeepsP (fun y : VIo => y.s) z lv := ?_; obtain ⟨w, e, hx⟩ : ∃ w, w = lv ∧ KeepsP (fun y : VIo => y.s) z w := ⟨lv, rfl, hv⟩; try rw [← e]; clear e hv lv; replace hx : Keeps z w.s := hx; rotate_left; subst lv) | (have hv : KeepsP (fun y : EncIn => y.io.s) z lv := ?_; obtain ⟨w, e, hx⟩ : ∃ w, w = lv ∧ KeepsP (fun y : EncIn => y.io.s) z w := ⟨lv, rfl, hv⟩; try rw [← e]; clear e hv lv; replace hx : Keeps z w.io.s := hx; rotate_left; subst lv) | (have hv : KeepsP (fun y : VIo × _ => y.1.s) z lv := ?_; obtain ⟨w, e, hx⟩ : ∃ w, w = lv ∧ KeepsP (fun y : VIo × _ => y.1.s) z w := ⟨lv, rfl, hv⟩; try rw [← e]; clear e hv lv; replace hx : Keeps z w.1.s := hx; rotate_left; subst lv) | (generalize lv = w; clear lv) | subst lv)
    | (with_reducible apply kp_kvEnd) | (with_reducible apply kp_kvClose) | (with_reducible apply kp_kappWork) | (with_reducible apply kp_kattnWork)
    | (with_reducible apply kp_kvCloseRing) | (with_reducible apply kp_kringWork) | split
    | (with_reducible refine KeepsP.mk ?_; with_reducible first | assumption | apply kp_kappWork | apply kp_kattnWork | apply kp_kringWork)
    | (with_reducible refine KeepsP.p1 ?_) | (with_reducible refine KeepsP.p2 ?_) | (with_reducible refine KeepsP.p22 ?_)
    | (with_reducible refine KeepsP.kx ?_) | (with_reducible refine KeepsP.p2x ?_) | (with_reducible refine Keeps.of2x (by assumption) ?_)
    | (with_reducible refine KeepsP.vio1 ?_) | (with_reducible refine KeepsP.encin ?_) | (with_reducible refine KeepsP.vio ?_)
    | (with_reducible refine Keeps.of1v (by assumption) ?_) | (with_reducible refine Keeps.of2 (by assumption) ?_)
    | (with_reducible refine Keeps.of1 (by assumption) ?_) | (with_reducible refine Keeps.of3 (by assumption) ?_)

theorem kp_kvRun {z : State} (i : Nat) (hs : List (List (Option Nat))) (c : QCmd) (s : State) (ks : Keeps z s) :
    Keeps z (kvRun i hs c s) := by
  unfold kvRun
  repeat' first
    | (with_reducible assumption)
    | (extract_lets +onlyGivenNames lv; first | (have hx : Keeps z lv := ?_; generalize lv = w at hx ⊢; clear lv; rotate_left; subst lv) | (generalize lv = w; clear lv) | subst lv)
    | (with_reducible apply kp_finish) | (with_reducible apply kp_startDone) | (with_reducible apply kp_addStarted) | (with_reducible apply kp_kvEnd)
    | (with_reducible apply kp_kvWait) | (with_reducible apply kp_kvWork) | split | dsimp only | (with_reducible exact Keeps.mk (by assumption))

theorem kp_kvIssue {z : State} (i : Nat) (w : CmdWord) (hs : List (List (Option Nat))) (s : State) (ks : Keeps z s) :
    Keeps z (kvIssue i w hs s) := by
  unfold kvIssue
  repeat' first
    | (with_reducible assumption) | intro _ | (with_reducible apply kp_startHead) | (with_reducible apply kp_kvRun)
    | (with_reducible apply kp_issueUnit) | dsimp only

theorem kp_execKapp {z : State} (i : Nat) (w : CmdWord) (hs : List (List (Option Nat))) (s : State) (ks : Keeps z s) :
    KeepsR z (execKapp i w hs s) := by
  unfold execKapp
  repeat' first
    | (with_reducible assumption) | (with_reducible apply kp_kvIssue) | (with_reducible refine KeepsR.next ?_) | dsimp only

theorem kp_execKattn {z : State} (i : Nat) (w : CmdWord) (hs : List (List (Option Nat))) (s : State) (ks : Keeps z s) :
    KeepsR z (execKattn i w hs s) := by
  unfold execKattn
  repeat' first
    | (with_reducible assumption) | (with_reducible apply kp_kvIssue) | (with_reducible refine KeepsR.next ?_) | dsimp only

theorem kp_execKring {z : State} (i : Nat) (w : CmdWord) (hs : List (List (Option Nat))) (s : State) (ks : Keeps z s) :
    KeepsR z (execKring i w hs s) := by
  unfold execKring
  repeat' first
    | (with_reducible assumption) | (with_reducible apply kp_kvIssue) | (with_reducible refine KeepsR.next ?_) | dsimp only

theorem kp_execKstat {z : State} (i : Nat) (w : CmdWord) (hs : List (List (Option Nat))) (s : State) (ks : Keeps z s) :
    KeepsR z (execKstat i w hs s) := by
  unfold execKstat
  repeat' first
    | (with_reducible assumption) | (with_reducible apply kp_kvIssue) | (with_reducible refine KeepsR.next ?_) | dsimp only

theorem kp_kvRetry {z : State} (i : Nat) (num : Nat) (hs : List (List (Option Nat))) (s : State) (ks : Keeps z s) :
    Keeps z (kvRetry i num hs s) := by
  unfold kvRetry
  repeat' first
    | (with_reducible assumption) | (with_reducible apply kp_kvWork) | (with_reducible apply kp_kvWait) | (with_reducible apply kp_kvEnd) | split
    | dsimp only | (with_reducible exact Keeps.mk (by assumption))

theorem kp_execKringResume {z : State} (i : Nat) (num : Nat) (hs : List (List (Option Nat))) (s : State) (hks : Keeps z s) :
    KeepsR z (execKringResume i num hs s) := by
  unfold execKringResume
  repeat' first
    | (with_reducible assumption) | (with_reducible refine KeepsR.next ?_) | (with_reducible apply kp_kvWork) | (with_reducible apply kp_kvCloseRing)
    | (with_reducible apply kp_ringArrive) | (with_reducible refine Keeps.getD ?_ ?_) | split
    | (with_reducible refine KeepsP.mk ?_; with_reducible first | assumption | apply kp_ringArrive) | (with_reducible refine KeepsP.p1 ?_)
    | (with_reducible refine KeepsP.p2 ?_) | (with_reducible refine KeepsP.p22 ?_) | (with_reducible refine KeepsP.kx ?_)
    | (with_reducible refine KeepsP.p2x ?_) | (with_reducible refine Keeps.of2x (by assumption) ?_) | (with_reducible refine KeepsP.vio1 ?_)
    | (with_reducible refine KeepsP.encin ?_) | (with_reducible refine KeepsP.vio ?_) | (with_reducible refine Keeps.of1v (by assumption) ?_)
    | (with_reducible refine Keeps.of2 (by assumption) ?_) | (with_reducible refine Keeps.of1 (by assumption) ?_)
    | (with_reducible refine Keeps.of3 (by assumption) ?_)

theorem kp_ringDone {z : State} (i : Nat) (num : Nat) (ph : Nat) (st : Nat) (s : State) (hs : Keeps z s) :
    Keeps z (ringDone i num ph st s) := by
  unfold ringDone
  repeat' first
    | (with_reducible assumption)
    | (extract_lets +onlyGivenNames lv; first | (have hx : Keeps z lv := ?_; generalize lv = w at hx ⊢; clear lv; rotate_left; subst lv) | (have hv : KeepsP (fun y : _ × Kx => y.2.s) z lv := ?_; obtain ⟨w, e, hx⟩ : ∃ w, w = lv ∧ KeepsP (fun y : _ × Kx => y.2.s) z w := ⟨lv, rfl, hv⟩; try rw [← e]; clear e hv lv; replace hx : Keeps z w.2.s := hx; rotate_left; subst lv) | (have hv : KeepsP (fun y : Kx => y.s) z lv := ?_; obtain ⟨w, e, hx⟩ : ∃ w, w = lv ∧ KeepsP (fun y : Kx => y.s) z w := ⟨lv, rfl, hv⟩; try rw [← e]; clear e hv lv; replace hx : Keeps z w.s := hx; rotate_left; subst lv) | (have hv : KeepsP (fun y : VIo => y.s) z lv := ?_; obtain ⟨w, e, hx⟩ : ∃ w, w = lv ∧ KeepsP (fun y : VIo => y.s) z w := ⟨lv, rfl, hv⟩; try rw [← e]; clear e hv lv; replace hx : Keeps z w.s := hx; rotate_left; subst lv) | (have hv : KeepsP (fun y : EncIn => y.io.s) z lv := ?_; obtain ⟨w, e, hx⟩ : ∃ w, w = lv ∧ KeepsP (fun y : EncIn => y.io.s) z w := ⟨lv, rfl, hv⟩; try rw [← e]; clear e hv lv; replace hx : Keeps z w.io.s := hx; rotate_left; subst lv) | (have hv : KeepsP (fun y : VIo × _ => y.1.s) z lv := ?_; obtain ⟨w, e, hx⟩ : ∃ w, w = lv ∧ KeepsP (fun y : VIo × _ => y.1.s) z w := ⟨lv, rfl, hv⟩; try rw [← e]; clear e hv lv; replace hx : Keeps z w.1.s := hx; rotate_left; subst lv) | (generalize lv = w; clear lv) | subst lv)
    | (with_reducible apply kp_kvEnd) | (with_reducible apply kp_ringAtomic) | (with_reducible apply kp_ringPhase)
    | (with_reducible apply kp_putPhase) | (with_reducible apply kp_kvCloseRing) | (with_reducible apply kp_ringRelease)
    | (with_reducible apply kp_ringArrive) | (with_reducible apply kp_ringAdvance) | (with_reducible refine Keeps.getD ?_ ?_) | split
    | (with_reducible refine KeepsP.mk ?_; with_reducible first | assumption | apply kp_ringRelease | apply kp_ringArrive)
    | (with_reducible refine KeepsP.p1 ?_) | (with_reducible refine KeepsP.p2 ?_) | (with_reducible refine KeepsP.p22 ?_)
    | (with_reducible refine KeepsP.kx ?_) | (with_reducible refine KeepsP.p2x ?_) | (with_reducible refine Keeps.of2x (by assumption) ?_)
    | (with_reducible refine KeepsP.vio1 ?_) | (with_reducible refine KeepsP.encin ?_) | (with_reducible refine KeepsP.vio ?_)
    | (with_reducible refine Keeps.of1v (by assumption) ?_) | (with_reducible refine Keeps.of2 (by assumption) ?_)
    | (with_reducible refine Keeps.of1 (by assumption) ?_) | (with_reducible refine Keeps.of3 (by assumption) ?_)
    | (with_reducible exact Keeps.mk (by assumption))

end Sys2Proof.Machine
end

