-- ==== Sys2Proof/Laws/KeepsE2eDone.lean ====
section
/-! SUPPORT. What every operation of Machine/E2eDone.lean keeps. -/
set_option linter.all false

namespace Sys2Proof.Machine

theorem kp_txnTell {z : State} (w : Issuer) (st : Nat) (data : List Byte) (bad : List Nat) (s : State) (hs : Keeps z s) :
    Keeps z (txnTell w st data bad s) := by
  unfold txnTell
  repeat' first
    | (with_reducible assumption) | intro _ | (with_reducible apply kp_updReq) | (with_reducible apply kp_chanAnswer)
    | (with_reducible apply kp_sendDone) | (with_reducible apply kp_ringDone) | split | dsimp only [id]
    | (with_reducible exact Keeps.mk (by assumption))

theorem kp_leaveIfIdle {z : State} (s : State) (hs : Keeps z s) :
    Keeps z (leaveIfIdle s) := by
  unfold leaveIfIdle
  repeat' first
    | (with_reducible assumption)
    | (extract_lets +onlyGivenNames lv; first | (have hx : Keeps z lv := ?_; generalize lv = w at hx ⊢; clear lv; rotate_left; subst lv) | (have hx : KeepsP (fun y : _ × State => y.2) z lv := ?_; generalize lv = w at hx ⊢; clear lv; replace hx : Keeps z w.2 := hx; rotate_left; subst lv) | (generalize lv = w; clear lv) | subst lv)
    | (with_reducible apply kp_nextMsg) | (with_reducible apply kp_toManager) | split
    | (with_reducible refine KeepsP.mk ?_; with_reducible first | assumption | apply kp_nextMsg) | (with_reducible refine KeepsP.p2 ?_)
    | (with_reducible refine Keeps.of2 (by assumption) ?_) | dsimp only

theorem kp_txnEnd {z : State} (t : Txn) (st : Nat) (data : List Byte) (bad : List Nat) (s : State) (hs : Keeps z s) :
    Keeps z (txnEnd t st data bad s) := by
  unfold txnEnd
  repeat' first
    | (with_reducible assumption) | (with_reducible apply kp_leaveIfIdle) | (with_reducible apply kp_e2ePump) | (with_reducible apply kp_txnTell)
    | (with_reducible apply kp_e2eRetire) | dsimp only

theorem kp_endNode {z : State} (n : Nat) (s : State) (hs : Keeps z s) :
    Keeps z (endNode n s) := by
  unfold endNode
  repeat' first
    | (with_reducible assumption) | intro _
    | (extract_lets +onlyGivenNames lv; first | (have hx : Keeps z lv := ?_; generalize lv = w at hx ⊢; clear lv; rotate_left; subst lv) | (have hx : KeepsP (fun y : _ × State => y.2) z lv := ?_; generalize lv = w at hx ⊢; clear lv; replace hx : Keeps z w.2 := hx; rotate_left; subst lv) | (have hx : KeepsP (fun y : State × _ => y.1) z lv := ?_; generalize lv = w at hx ⊢; clear lv; replace hx : Keeps z w.1 := hx; rotate_left; subst lv) | (have hx : KeepsP (fun y : _ × _ × State => y.2.2) z lv := ?_; generalize lv = w at hx ⊢; clear lv; replace hx : Keeps z w.2.2 := hx; rotate_left; subst lv) | (generalize lv = w; clear lv) | subst lv)
    | (with_reducible apply kp_txnTell) | (with_reducible apply kp_e2eRetire) | (with_reducible apply kp_leaveIfIdle)
    | (with_reducible apply kp_e2ePump) | (with_reducible apply Keeps.foldl) | (with_reducible apply Keeps.foldlx)
    | (with_reducible apply Keeps.foldlv) | (with_reducible apply Keeps.foldl2) | (with_reducible apply Keeps.foldl1)
    | (with_reducible apply Keeps.foldl22) | (with_reducible apply Keeps.foldl222) | (with_reducible apply Keeps.foldl2x)
    | (with_reducible refine KeepsP.mk ?_; with_reducible first | assumption | apply Keeps.foldlx | apply Keeps.foldlv | apply Keeps.foldl2 | apply Keeps.foldl1 | apply Keeps.foldl22 | apply Keeps.foldl222 | apply Keeps.foldl2x)
    | (with_reducible refine KeepsP.p1 ?_) | (with_reducible refine KeepsP.p2 ?_) | (with_reducible refine KeepsP.p22 ?_)
    | (with_reducible refine Keeps.of2 (by assumption) ?_) | (with_reducible refine Keeps.of1 (by assumption) ?_)
    | (with_reducible refine Keeps.of3 (by assumption) ?_) | dsimp only | (with_reducible exact Keeps.mk (by assumption))

theorem kp_showDups {z : State} (s : State) (hs : Keeps z s) :
    Keeps z (showDups s) := by
  unfold showDups
  repeat' first
    | (with_reducible assumption)
    | (extract_lets +onlyGivenNames lv; first | (have hx : Keeps z lv := ?_; generalize lv = w at hx ⊢; clear lv; rotate_left; subst lv) | (generalize lv = w; clear lv) | subst lv)
    | (with_reducible apply kp_setF) | dsimp only

theorem kp_purgeDups {z : State} (n : Nat) (e : Nat) (s : State) (hs : Keeps z s) :
    Keeps z (purgeDups n e s) := by
  unfold purgeDups
  repeat' first
    | (with_reducible assumption)
    | (extract_lets +onlyGivenNames lv; first | (have hx : Keeps z lv := ?_; generalize lv = w at hx ⊢; clear lv; rotate_left; subst lv) | (generalize lv = w; clear lv) | subst lv)
    | (with_reducible apply kp_showDups) | split | dsimp only | (with_reducible exact Keeps.mk (by assumption))

theorem kp_quietNow {z : State} (s : State) (hs : Keeps z s) :
    Keeps z (quietNow s) := by
  unfold quietNow
  repeat' first
    | (with_reducible assumption)
    | (extract_lets +onlyGivenNames lv; first | (have hx : Keeps z lv := ?_; generalize lv = w at hx ⊢; clear lv; rotate_left; subst lv) | (generalize lv = w; clear lv) | subst lv)
    | (with_reducible apply kp_setF) | dsimp only | (with_reducible exact Keeps.mk (by assumption))

end Sys2Proof.Machine
end

