-- ==== Sys2Proof/Laws/KeepsFm.lean ====
section
/-! SUPPORT. What every operation of Machine/Fm.lean keeps. -/
set_option linter.all false

namespace Sys2Proof.Machine

theorem kp_setManager {z : State} (role : Nat) (here : Nat) (node : Nat) (pri : Nat) (s : State) (hs : Keeps z s) :
    Keeps z (setManager role here node pri s) := by
  unfold setManager
  repeat' first
    | (with_reducible assumption)
    | (extract_lets +onlyGivenNames lv; first | (have hx : Keeps z lv := ?_; generalize lv = w at hx ⊢; clear lv; rotate_left; subst lv) | (generalize lv = w; clear lv) | subst lv)
    | (with_reducible apply kp_setF) | (with_reducible apply kp_raise) | split | dsimp only

theorem kp_loseManager {z : State} (s : State) (hs : Keeps z s) :
    Keeps z (loseManager s) := by
  unfold loseManager
  repeat' first
    | (with_reducible assumption)
    | (extract_lets +onlyGivenNames lv; first | (have hx : Keeps z lv := ?_; generalize lv = w at hx ⊢; clear lv; rotate_left; subst lv) | (generalize lv = w; clear lv) | subst lv)
    | (with_reducible apply kp_mgsClaim) | (with_reducible apply kp_setManager) | (with_reducible apply kp_raise) | (with_reducible apply kp_recordCE)
    | dsimp only | (with_reducible exact Keeps.mk (by assumption))

theorem kp_announced {z : State} (leave : Bool) (n : Nat) (e : Nat) (s : State) (hs : Keeps z s) :
    Keeps z (announced leave n e s) := by
  unfold announced
  repeat' first
    | (with_reducible assumption)
    | (extract_lets +onlyGivenNames lv; first | (have hx : Keeps z lv := ?_; generalize lv = w at hx ⊢; clear lv; rotate_left; subst lv) | (generalize lv = w; clear lv) | subst lv)
    | (with_reducible apply kp_setF) | (with_reducible apply kp_purgeDups) | (with_reducible apply kp_raise) | (with_reducible apply kp_endNode)
    | (with_reducible apply kp_quietNow) | (with_reducible apply kp_e2ePump) | (with_reducible apply kp_recordCE) | split | dsimp only
    | (with_reducible exact Keeps.mk (by assumption))

theorem kp_execClaim {z : State} (inp : Via) (serial : Nat) (seq : Nat) (host : Nat) (pri : Nat) (kserial : Nat) (s : State) (hs : Keeps z s) :
    KeepsR z (execClaim inp serial seq host pri kserial s) := by
  unfold execClaim
  repeat' first
    | (with_reducible assumption)
    | (extract_lets +onlyGivenNames lv; first | (have hx : Keeps z lv := ?_; generalize lv = w at hx ⊢; clear lv; rotate_left; subst lv) | (generalize lv = w; clear lv) | subst lv)
    | (with_reducible refine KeepsR.next ?_) | (with_reducible apply kp_rememberMsg) | (with_reducible apply kp_flood) | split
    | (with_reducible exact Keeps.mk (by assumption))

theorem kp_execHeartbeat {z : State} (inp : Via) (serial : Nat) (seq : Nat) (host : Nat) (pri : Nat) (kserial : Nat) (node : Nat) (ftime : Nat) (s : State) (hs : Keeps z s) :
    KeepsR z (execHeartbeat inp serial seq host pri kserial node ftime s) := by
  unfold execHeartbeat
  repeat' first
    | (with_reducible assumption)
    | (extract_lets +onlyGivenNames lv; first | (have hx : Keeps z lv := ?_; generalize lv = w at hx ⊢; clear lv; rotate_left; subst lv) | (generalize lv = w; clear lv) | subst lv)
    | (with_reducible refine KeepsR.next ?_) | (with_reducible apply kp_flood) | (with_reducible apply kp_rememberMsg)
    | (with_reducible apply kp_setManager) | split | (with_reducible exact Keeps.mk (by assumption))

theorem kp_execFmLost {z : State} (s : State) (hs : Keeps z s) :
    KeepsR z (execFmLost s) := by
  unfold execFmLost
  repeat' first
    | (with_reducible assumption) | (with_reducible refine KeepsR.next ?_) | (with_reducible apply kp_loseManager)
    | (with_reducible apply kp_waitTill) | split

theorem kp_replyTo {z : State} (src : Nat) (op : Nat) (seq : Nat) (f : List Nat) (s : State) (hs : Keeps z s) :
    Keeps z (replyTo src op seq f s) := by
  unfold replyTo
  repeat' first
    | (with_reducible assumption) | (with_reducible apply kp_toNode) | (with_reducible apply kp_emit) | split

theorem kp_execTopoReq {z : State} (src : Nat) (seq : Nat) (s : State) (hs : Keeps z s) :
    KeepsR z (execTopoReq src seq s) := by
  unfold execTopoReq
  repeat' first
    | (with_reducible assumption) | (with_reducible apply kp_replyTo) | (with_reducible refine KeepsR.next ?_) | dsimp only

theorem kp_takeNode {z : State} (node : Nat) (epoch : Nat) (s : State) (hs : Keeps z s) :
    Keeps z (takeNode node epoch s) := by
  unfold takeNode
  repeat' first
    | (with_reducible assumption)
    | (extract_lets +onlyGivenNames lv; first | (have hx : Keeps z lv := ?_; generalize lv = w at hx ⊢; clear lv; rotate_left; subst lv) | (generalize lv = w; clear lv) | subst lv)
    | (with_reducible apply kp_setF) | split | dsimp only | (with_reducible exact Keeps.mk (by assumption))

theorem kp_joinDenied {z : State} (s : State) (hs : Keeps z s) :
    Keeps z (joinDenied s) := by
  unfold joinDenied
  repeat' first
    | (with_reducible assumption) | (with_reducible apply kp_raise)

theorem kp_execAssign {z : State} (src : Nat) (seq : Nat) (node : Nat) (epoch : Nat) (s : State) (hs : Keeps z s) :
    KeepsR z (execAssign src seq node epoch s) := by
  unfold execAssign
  repeat' first
    | (with_reducible assumption) | (with_reducible refine KeepsR.next ?_) | (with_reducible apply kp_joinDenied) | (with_reducible apply kp_replyTo)
    | (with_reducible apply kp_takeNode) | split

theorem kp_putRoutes {z : State} (table : Nat) (a : Nat) (a2 : List Nat) (a3 : State) (ha3 : Keeps z a3) :
    Keeps z (putRoutes table a a2 a3) := by
  induction a2 generalizing table a a3 with
  | nil => unfold putRoutes; repeat' first
    | (with_reducible assumption) | (with_reducible apply kp_wrW) | split | dsimp only | (with_reducible exact Keeps.mk (by assumption))
  | cons w w1 ih => unfold putRoutes; repeat' first
    | (with_reducible assumption) | (with_reducible apply ih) | (with_reducible apply kp_wrW) | split | dsimp only
    | (with_reducible exact Keeps.mk (by assumption))

theorem kp_execRouteWrite {z : State} (src : Nat) (seq : Nat) (table : Nat) (first : Nat) (entries : List Nat) (s : State) (hs : Keeps z s) :
    KeepsR z (execRouteWrite src seq table first entries s) := by
  unfold execRouteWrite
  repeat' first
    | (with_reducible assumption) | (with_reducible apply kp_replyTo) | (with_reducible apply kp_raise) | (with_reducible apply kp_putRoutes)
    | (with_reducible refine KeepsR.next ?_) | dsimp only

theorem kp_setFmNode {z : State} (x : FmNode) (s : State) (hs : Keeps z s) :
    Keeps z (setFmNode x s) := by
  unfold setFmNode
  repeat' first
    | (with_reducible assumption)
    | (extract_lets +onlyGivenNames lv; first | (have hx : Keeps z lv := ?_; generalize lv = w at hx ⊢; clear lv; rotate_left; subst lv) | (generalize lv = w; clear lv) | subst lv)
    | split | dsimp only | (with_reducible exact Keeps.mk (by assumption))

theorem kp_fmSend {z : State} (x : FmNode) (op : Nat) (seq : Nat) (f : List Nat) (s : State) (hs : Keeps z s) :
    Keeps z (fmSend x op seq f s) := by
  unfold fmSend
  repeat' first
    | (with_reducible assumption) | (with_reducible apply kp_emit) | (with_reducible apply kp_toNode) | split

theorem kp_fmAsk {z : State} (x : FmNode) (op : Nat) (s : State) (hs : Keeps z s) :
    Keeps z (fmAsk x op s) := by
  unfold fmAsk
  repeat' first
    | (with_reducible assumption)
    | (extract_lets +onlyGivenNames lv; first | (have hx : Keeps z lv := ?_; generalize lv = w at hx ⊢; clear lv; rotate_left; subst lv) | (have hx : KeepsP (fun y : _ × State => y.2) z lv := ?_; generalize lv = w at hx ⊢; clear lv; replace hx : Keeps z w.2 := hx; rotate_left; subst lv) | (generalize lv = w; clear lv) | subst lv)
    | (with_reducible apply kp_nextMsg) | (with_reducible apply kp_fmSend) | (with_reducible apply kp_setFmNode)
    | (with_reducible refine KeepsP.mk ?_; with_reducible first | assumption | apply kp_nextMsg) | (with_reducible refine KeepsP.p1 ?_)
    | (with_reducible refine KeepsP.p2 ?_) | (with_reducible refine KeepsP.p22 ?_) | (with_reducible refine Keeps.of2 (by assumption) ?_)
    | (with_reducible refine Keeps.of1 (by assumption) ?_) | (with_reducible refine Keeps.of3 (by assumption) ?_)
    | (with_reducible exact Keeps.mk (by assumption))

theorem kp_fmDiscover {z : State} (serial : Nat) (s : State) (hs : Keeps z s) :
    Keeps z (fmDiscover serial s) := by
  unfold fmDiscover
  repeat' first
    | (with_reducible assumption) | (with_reducible apply kp_fmAsk) | split

theorem kp_announce {z : State} (leave : Bool) (n : Nat) (e : Nat) (s : State) (hs : Keeps z s) :
    Keeps z (announce leave n e s) := by
  unfold announce
  repeat' first
    | (with_reducible assumption)
    | (extract_lets +onlyGivenNames lv; first | (have hx : Keeps z lv := ?_; generalize lv = w at hx ⊢; clear lv; rotate_left; subst lv) | (generalize lv = w; clear lv) | subst lv)
    | (with_reducible apply kp_announced) | (with_reducible apply kp_floodOwn) | dsimp only | (with_reducible exact Keeps.mk (by assumption))

theorem kp_sendWrites {z : State} (seq : Nat) (l : List (Nat × List Nat)) (s : State) (hs : Keeps z s) :
    Keeps z (sendWrites seq l s) := by
  unfold sendWrites
  repeat' first
    | (with_reducible assumption) | intro _ | (with_reducible apply kp_toNode) | (with_reducible apply Keeps.foldl)
    | (with_reducible apply Keeps.foldlx) | (with_reducible apply Keeps.foldlv) | (with_reducible apply Keeps.foldl2)
    | (with_reducible apply Keeps.foldl1) | (with_reducible apply Keeps.foldl22) | (with_reducible apply Keeps.foldl222)
    | (with_reducible apply Keeps.foldl2x)
    | (with_reducible refine KeepsP.mk ?_; with_reducible first | assumption | apply Keeps.foldlx | apply Keeps.foldlv | apply Keeps.foldl2 | apply Keeps.foldl1 | apply Keeps.foldl22 | apply Keeps.foldl222 | apply Keeps.foldl2x)
    | (with_reducible refine Keeps.of2 (by assumption) ?_) | (with_reducible refine Keeps.of1 (by assumption) ?_)
    | (with_reducible refine Keeps.of3 (by assumption) ?_) | dsimp only

theorem kp_fmGone {z : State} (x : FmNode) (writes : List (Nat × List Nat)) (s : State) (hs : Keeps z s) :
    Keeps z (fmGone x writes s) := by
  unfold fmGone
  repeat' first
    | (with_reducible assumption)
    | (extract_lets +onlyGivenNames lv; first | (have hx : Keeps z lv := ?_; generalize lv = w at hx ⊢; clear lv; rotate_left; subst lv) | (have hx : KeepsP (fun y : _ × State => y.2) z lv := ?_; generalize lv = w at hx ⊢; clear lv; replace hx : Keeps z w.2 := hx; rotate_left; subst lv) | (generalize lv = w; clear lv) | subst lv)
    | (with_reducible apply kp_nextMsg) | (with_reducible apply kp_sendWrites) | (with_reducible apply kp_announce) | split
    | (with_reducible refine KeepsP.mk ?_; with_reducible first | assumption | apply kp_nextMsg) | (with_reducible refine KeepsP.p2 ?_)
    | (with_reducible refine Keeps.of2 (by assumption) ?_) | dsimp only | (with_reducible exact Keeps.mk (by assumption))

theorem kp_fmAssign {z : State} (x : FmNode) (s : State) (hs : Keeps z s) :
    Keeps z (fmAssign x s) := by
  unfold fmAssign
  repeat' first
    | (with_reducible assumption)
    | (extract_lets +onlyGivenNames lv; first | (have hx : Keeps z lv := ?_; generalize lv = w at hx ⊢; clear lv; rotate_left; subst lv) | (generalize lv = w; clear lv) | subst lv)
    | (with_reducible apply kp_fmAsk) | dsimp only | (with_reducible exact Keeps.mk (by assumption))

theorem kp_mgsRules {z : State} (pri : Nat) (s : State) (hs : Keeps z s) :
    Keeps z (mgsRules pri s) := by
  unfold mgsRules
  repeat' first
    | (with_reducible assumption) | intro _
    | (extract_lets +onlyGivenNames lv; first | (have hx : Keeps z lv := ?_; generalize lv = w at hx ⊢; clear lv; rotate_left; subst lv) | (generalize lv = w; clear lv) | subst lv)
    | (with_reducible apply kp_joinDenied) | (with_reducible apply kp_announce) | (with_reducible apply kp_takeNode)
    | (with_reducible apply kp_setFmNode) | (with_reducible apply kp_fmDiscover) | (with_reducible apply kp_setManager)
    | (with_reducible apply Keeps.foldl) | (with_reducible apply Keeps.foldlx) | (with_reducible apply Keeps.foldlv)
    | (with_reducible apply Keeps.foldl2) | (with_reducible apply Keeps.foldl1) | (with_reducible apply Keeps.foldl22)
    | (with_reducible apply Keeps.foldl222) | (with_reducible apply Keeps.foldl2x) | split | (with_reducible exact Keeps.mk (by assumption))

theorem kp_execClaimTimer {z : State} (s : State) (hs : Keeps z s) :
    KeepsR z (execClaimTimer s) := by
  unfold execClaimTimer
  repeat' first
    | (with_reducible assumption)
    | (extract_lets +onlyGivenNames lv; first | (have hx : Keeps z lv := ?_; generalize lv = w at hx ⊢; clear lv; rotate_left; subst lv) | (generalize lv = w; clear lv) | subst lv)
    | (with_reducible refine KeepsR.next ?_) | (with_reducible apply kp_waitTill) | (with_reducible apply kp_setManager)
    | (with_reducible apply kp_mgsRules) | split | (with_reducible exact Keeps.mk (by assumption))

theorem kp_execHeartbeatTimer {z : State} (s : State) (hs : Keeps z s) :
    KeepsR z (execHeartbeatTimer s) := by
  unfold execHeartbeatTimer
  repeat' first
    | (with_reducible assumption)
    | (extract_lets +onlyGivenNames lv; first | (have hx : Keeps z lv := ?_; generalize lv = w at hx ⊢; clear lv; rotate_left; subst lv) | (generalize lv = w; clear lv) | subst lv)
    | (with_reducible refine KeepsR.next ?_) | (with_reducible apply kp_waitTill) | (with_reducible apply kp_floodOwn)
    | (with_reducible refine Keeps.getD ?_ ?_) | split | (with_reducible exact Keeps.mk (by assumption))

theorem kp_execTopoRep {z : State} (serial : Nat) (valid : Bool) (node : Nat) (epoch : Nat) (links : List (Nat × Nat × Nat)) (s : State) (hs : Keeps z s) :
    KeepsR z (execTopoRep serial valid node epoch links s) := by
  unfold execTopoRep
  repeat' first
    | (with_reducible assumption) | intro _
    | (extract_lets +onlyGivenNames lv; first | (have hx : Keeps z lv := ?_; generalize lv = w at hx ⊢; clear lv; rotate_left; subst lv) | (have hx : KeepsP (fun y : _ × State => y.2) z lv := ?_; generalize lv = w at hx ⊢; clear lv; replace hx : Keeps z w.2 := hx; rotate_left; subst lv) | (have hx : KeepsP (fun y : State × _ => y.1) z lv := ?_; generalize lv = w at hx ⊢; clear lv; replace hx : Keeps z w.1 := hx; rotate_left; subst lv) | (have hx : KeepsP (fun y : _ × _ × State => y.2.2) z lv := ?_; generalize lv = w at hx ⊢; clear lv; replace hx : Keeps z w.2.2 := hx; rotate_left; subst lv) | (generalize lv = w; clear lv) | subst lv)
    | (with_reducible apply kp_setFmNode) | (with_reducible apply kp_fmAssign) | (with_reducible apply kp_fmDiscover)
    | (with_reducible apply Keeps.foldl) | (with_reducible apply Keeps.foldlx) | (with_reducible apply Keeps.foldlv)
    | (with_reducible apply Keeps.foldl2) | (with_reducible apply Keeps.foldl1) | (with_reducible apply Keeps.foldl22)
    | (with_reducible apply Keeps.foldl222) | (with_reducible apply Keeps.foldl2x) | split
    | (with_reducible refine KeepsP.mk ?_; with_reducible first | assumption | apply Keeps.foldlx | apply Keeps.foldlv | apply Keeps.foldl2 | apply Keeps.foldl1 | apply Keeps.foldl22 | apply Keeps.foldl222 | apply Keeps.foldl2x)
    | (with_reducible refine KeepsP.p1 ?_) | (with_reducible refine KeepsP.p2 ?_) | (with_reducible refine KeepsP.p22 ?_)
    | (with_reducible refine KeepsR.next ?_) | (with_reducible refine Keeps.of2 (by assumption) ?_)
    | (with_reducible refine Keeps.of1 (by assumption) ?_) | (with_reducible refine Keeps.of3 (by assumption) ?_) | dsimp only
    | (with_reducible exact Keeps.mk (by assumption))

theorem kp_execAssignAck {z : State} (serial : Nat) (writes : List (Nat × List Nat)) (s : State) (hs : Keeps z s) :
    KeepsR z (execAssignAck serial writes s) := by
  unfold execAssignAck
  repeat' first
    | (with_reducible assumption)
    | (extract_lets +onlyGivenNames lv; first | (have hx : Keeps z lv := ?_; generalize lv = w at hx ⊢; clear lv; rotate_left; subst lv) | (have hx : KeepsP (fun y : _ × State => y.2) z lv := ?_; generalize lv = w at hx ⊢; clear lv; replace hx : Keeps z w.2 := hx; rotate_left; subst lv) | (generalize lv = w; clear lv) | subst lv)
    | (with_reducible refine KeepsR.next ?_) | (with_reducible apply kp_nextMsg) | (with_reducible apply kp_setFmNode)
    | (with_reducible apply kp_announce) | (with_reducible apply kp_sendWrites) | (with_reducible refine Keeps.getD ?_ ?_) | split
    | (with_reducible refine KeepsP.mk ?_; with_reducible first | assumption | apply kp_nextMsg) | (with_reducible refine KeepsP.p1 ?_)
    | (with_reducible refine KeepsP.p2 ?_) | (with_reducible refine KeepsP.p22 ?_) | (with_reducible refine Keeps.of2 (by assumption) ?_)
    | (with_reducible refine Keeps.of1 (by assumption) ?_) | (with_reducible refine Keeps.of3 (by assumption) ?_)
    | (with_reducible exact Keeps.mk (by assumption))

theorem kp_execRouteAck {z : State} (src : Nat) (seq : Nat) (s : State) (hs : Keeps z s) :
    KeepsR z (execRouteAck src seq s) := by
  unfold execRouteAck
  repeat' first
    | (with_reducible assumption)
    | (extract_lets +onlyGivenNames lv; first | (have hx : Keeps z lv := ?_; generalize lv = w at hx ⊢; clear lv; rotate_left; subst lv) | (generalize lv = w; clear lv) | subst lv)
    | (with_reducible apply kp_setFmNode) | (with_reducible apply kp_announce) | split | (with_reducible refine KeepsR.next ?_) | dsimp only
    | (with_reducible exact Keeps.mk (by assumption))

theorem kp_execAnnounce {z : State} (inp : Via) (serial : Nat) (seq : Nat) (leave : Bool) (node : Nat) (epoch : Nat) (s : State) (hs : Keeps z s) :
    KeepsR z (execAnnounce inp serial seq leave node epoch s) := by
  unfold execAnnounce
  repeat' first
    | (with_reducible assumption) | (with_reducible refine KeepsR.next ?_) | (with_reducible apply kp_announced) | (with_reducible apply kp_flood)
    | (with_reducible apply kp_rememberMsg) | split

theorem kp_execPortEvent {z : State} (serial : Nat) (port : Nat) (phase : Nat) (pserial : Nat) (pport : Nat) (writes : List (Nat × List Nat)) (s : State) (hs : Keeps z s) :
    KeepsR z (execPortEvent serial port phase pserial pport writes s) := by
  unfold execPortEvent
  repeat' first
    | (with_reducible assumption) | intro _
    | (extract_lets +onlyGivenNames lv; first | (have hx : Keeps z lv := ?_; generalize lv = w at hx ⊢; clear lv; rotate_left; subst lv) | (have hx : KeepsP (fun y : _ × State => y.2) z lv := ?_; generalize lv = w at hx ⊢; clear lv; replace hx : Keeps z w.2 := hx; rotate_left; subst lv) | (have hx : KeepsP (fun y : State × _ => y.1) z lv := ?_; generalize lv = w at hx ⊢; clear lv; replace hx : Keeps z w.1 := hx; rotate_left; subst lv) | (have hx : KeepsP (fun y : _ × _ × State => y.2.2) z lv := ?_; generalize lv = w at hx ⊢; clear lv; replace hx : Keeps z w.2.2 := hx; rotate_left; subst lv) | (generalize lv = w; clear lv) | subst lv)
    | (with_reducible apply kp_setFmNode) | (with_reducible apply kp_fmDiscover) | (with_reducible apply kp_fmGone)
    | (with_reducible apply Keeps.foldl) | (with_reducible apply Keeps.foldlx) | (with_reducible apply Keeps.foldlv)
    | (with_reducible apply Keeps.foldl2) | (with_reducible apply Keeps.foldl1) | (with_reducible apply Keeps.foldl22)
    | (with_reducible apply Keeps.foldl222) | (with_reducible apply Keeps.foldl2x) | split
    | (with_reducible refine KeepsP.mk ?_; with_reducible first | assumption | apply Keeps.foldlx | apply Keeps.foldlv | apply Keeps.foldl2 | apply Keeps.foldl1 | apply Keeps.foldl22 | apply Keeps.foldl222 | apply Keeps.foldl2x)
    | (with_reducible refine KeepsP.p1 ?_) | (with_reducible refine KeepsP.p2 ?_) | (with_reducible refine KeepsP.p22 ?_)
    | (with_reducible refine KeepsR.next ?_) | (with_reducible refine Keeps.of2 (by assumption) ?_)
    | (with_reducible refine Keeps.of1 (by assumption) ?_) | (with_reducible refine Keeps.of3 (by assumption) ?_) | dsimp only
    | (with_reducible exact Keeps.mk (by assumption))

theorem kp_execLeaveReq {z : State} (serial : Nat) (node : Nat) (epoch : Nat) (writes : List (Nat × List Nat)) (s : State) (hs : Keeps z s) :
    KeepsR z (execLeaveReq serial node epoch writes s) := by
  unfold execLeaveReq
  repeat' first
    | (with_reducible assumption) | (with_reducible apply kp_fmGone) | split | (with_reducible refine KeepsR.next ?_) | dsimp only
    | (with_reducible exact Keeps.mk (by assumption))

theorem kp_execManagerRepeatTimer {z : State} (serial : Nat) (s : State) (hs : Keeps z s) :
    KeepsR z (execManagerRepeatTimer serial s) := by
  unfold execManagerRepeatTimer
  repeat' first
    | (with_reducible assumption)
    | (extract_lets +onlyGivenNames lv; first | (have hx : Keeps z lv := ?_; generalize lv = w at hx ⊢; clear lv; rotate_left; subst lv) | (generalize lv = w; clear lv) | subst lv)
    | (with_reducible refine KeepsR.next ?_) | (with_reducible apply kp_waitTill) | (with_reducible apply kp_setFmNode)
    | (with_reducible apply kp_sendWrites) | (with_reducible apply kp_fmSend) | split | (with_reducible exact Keeps.mk (by assumption))

theorem kp_execTopoTimeout {z : State} (serial : Nat) (writes : List (Nat × List Nat)) (s : State) (hs : Keeps z s) :
    KeepsR z (execTopoTimeout serial writes s) := by
  unfold execTopoTimeout
  repeat' first
    | (with_reducible assumption) | (with_reducible refine KeepsR.next ?_) | (with_reducible apply kp_fmGone) | (with_reducible apply kp_waitTill)
    | split

theorem kp_execE2eLeave {z : State} (fn : Nat) (v : Nat) (s : State) (hs : Keeps z s) :
    KeepsR z (execE2eLeave fn v s) := by
  unfold execE2eLeave
  repeat' first
    | (with_reducible assumption) | intro _ | (with_reducible apply kp_barWrite) | (with_reducible apply kp_raise)
    | (with_reducible apply kp_leaveIfIdle) | (with_reducible apply kp_setF) | split | (with_reducible refine KeepsR.next ?_) | dsimp only

theorem kp_hostClaim {z : State} (s : State) (hs : Keeps z s) :
    Keeps z (hostClaim s) := by
  unfold hostClaim
  repeat' first
    | (with_reducible assumption)
    | (extract_lets +onlyGivenNames lv; first | (have hx : Keeps z lv := ?_; generalize lv = w at hx ⊢; clear lv; rotate_left; subst lv) | (generalize lv = w; clear lv) | subst lv)
    | (with_reducible apply kp_floodOwn) | split | dsimp only | (with_reducible exact Keeps.mk (by assumption))

theorem kp_hostRelease {z : State} (s : State) (hs : Keeps z s) :
    Keeps z (hostRelease s) := by
  unfold hostRelease
  repeat' first
    | (with_reducible assumption)
    | (extract_lets +onlyGivenNames lv; first | (have hx : Keeps z lv := ?_; generalize lv = w at hx ⊢; clear lv; rotate_left; subst lv) | (generalize lv = w; clear lv) | subst lv)
    | (with_reducible apply kp_mgsClaim) | (with_reducible apply kp_setManager) | split | dsimp only | (with_reducible exact Keeps.mk (by assumption))

theorem kp_execRtrHostfmClaim {z : State} (fn : Nat) (v : Nat) (s : State) (hs : Keeps z s) :
    KeepsR z (execRtrHostfmClaim fn v s) := by
  unfold execRtrHostfmClaim
  repeat' first
    | (with_reducible assumption) | intro _ | (with_reducible apply kp_barWrite) | (with_reducible apply kp_hostClaim) | split
    | (with_reducible refine KeepsR.next ?_) | dsimp only

theorem kp_execRtrHostfmRelease {z : State} (fn : Nat) (v : Nat) (s : State) (hs : Keeps z s) :
    KeepsR z (execRtrHostfmRelease fn v s) := by
  unfold execRtrHostfmRelease
  repeat' first
    | (with_reducible assumption) | intro _ | (with_reducible apply kp_barWrite) | (with_reducible apply kp_hostRelease) | split
    | (with_reducible refine KeepsR.next ?_) | dsimp only

end Sys2Proof.Machine
end

