-- ==== Sys2Proof/Laws/KeepsRl.lean ====
section
/-! SUPPORT. What every operation of Machine/Rl.lean keeps. -/
set_option linter.all false

namespace Sys2Proof.Machine

theorem kp_setPhase {z : State} (p : Nat) (v : Nat) (s : State) (hs : Keeps z s) :
    Keeps z (setPhase p v s) := by
  unfold setPhase
  repeat' first
    | (with_reducible assumption) | (with_reducible apply kp_setF) | dsimp only

theorem kp_showRlLanes {z : State} (p : Nat) (s : State) (hs : Keeps z s) :
    Keeps z (showRlLanes p s) := by
  unfold showRlLanes
  repeat' first
    | (with_reducible assumption) | intro _ | (with_reducible apply kp_setF) | (with_reducible apply Keeps.foldl)
    | (with_reducible apply Keeps.foldlx) | (with_reducible apply Keeps.foldlv) | (with_reducible apply Keeps.foldl2)
    | (with_reducible apply Keeps.foldl1) | (with_reducible apply Keeps.foldl22) | (with_reducible apply Keeps.foldl222)
    | (with_reducible apply Keeps.foldl2x) | split
    | (with_reducible refine KeepsP.mk ?_; with_reducible first | assumption | apply Keeps.foldlx | apply Keeps.foldlv | apply Keeps.foldl2 | apply Keeps.foldl1 | apply Keeps.foldl22 | apply Keeps.foldl222 | apply Keeps.foldl2x)
    | (with_reducible refine Keeps.of2 (by assumption) ?_) | (with_reducible refine Keeps.of1 (by assumption) ?_)
    | (with_reducible refine Keeps.of3 (by assumption) ?_) | dsimp only

theorem kp_setRlWidth {z : State} (p : Nat) (w : Nat) (rx : List Nat) (tx : List Nat) (s : State) (hs : Keeps z s) :
    Keeps z (setRlWidth p w rx tx s) := by
  unfold setRlWidth
  repeat' first
    | (with_reducible assumption) | (with_reducible apply kp_showRlLanes) | (with_reducible apply kp_setF) | dsimp only

theorem kp_portEvent {z : State} (p : Nat) (ph : Nat) (w : Nat) (s : State) (hs : Keeps z s) :
    Keeps z (portEvent p ph w s) := by
  unfold portEvent
  repeat' first
    | (with_reducible assumption)
    | (extract_lets +onlyGivenNames lv; first | (have hx : Keeps z lv := ?_; generalize lv = w at hx ⊢; clear lv; rotate_left; subst lv) | (have hx : KeepsP (fun y : _ × State => y.2) z lv := ?_; generalize lv = w at hx ⊢; clear lv; replace hx : Keeps z w.2 := hx; rotate_left; subst lv) | (generalize lv = w; clear lv) | subst lv)
    | (with_reducible apply kp_nextMsg) | (with_reducible apply kp_toManager)
    | (with_reducible refine KeepsP.mk ?_; with_reducible first | assumption | apply kp_nextMsg) | (with_reducible refine KeepsP.p2 ?_)
    | (with_reducible refine Keeps.of2 (by assumption) ?_) | dsimp only

theorem kp_pumpWait {z : State} (s : State) (hs : Keeps z s) :
    Keeps z (pumpWait s) := by
  unfold pumpWait
  repeat' first
    | (with_reducible assumption) | intro _
    | (extract_lets +onlyGivenNames lv; first | (have hx : Keeps z lv := ?_; generalize lv = w at hx ⊢; clear lv; rotate_left; subst lv) | (generalize lv = w; clear lv) | subst lv)
    | (with_reducible apply kp_routePkt) | (with_reducible apply kp_sendVia) | (with_reducible apply Keeps.foldl)
    | (with_reducible apply Keeps.foldlx) | (with_reducible apply Keeps.foldlv) | (with_reducible apply Keeps.foldl2)
    | (with_reducible apply Keeps.foldl1) | (with_reducible apply Keeps.foldl22) | (with_reducible apply Keeps.foldl222)
    | (with_reducible apply Keeps.foldl2x) | (with_reducible exact Keeps.mk (by assumption))

theorem kp_rlStop {z : State} (p : Nat) (s : State) (hs : Keeps z s) :
    Keeps z (rlStop p s) := by
  unfold rlStop
  repeat' first
    | (with_reducible assumption) | (with_reducible apply kp_setF) | dsimp only

theorem kp_rlCtlOut {z : State} (p : Nat) (f : List Nat) (s : State) (hs : Keeps z s) :
    Keeps z (rlCtlOut p f s) := by
  unfold rlCtlOut
  repeat' first
    | (with_reducible assumption)
    | (extract_lets +onlyGivenNames lv; first | (have hx : Keeps z lv := ?_; generalize lv = w at hx ⊢; clear lv; rotate_left; subst lv) | (generalize lv = w; clear lv) | subst lv)
    | (with_reducible apply kp_rlOutFlit) | (with_reducible apply kp_setPort)

theorem kp_sendRlCtl {z : State} (p : Nat) (f : List Nat) (s : State) (hs : Keeps z s) :
    Keeps z (sendRlCtl p f s) := by
  unfold sendRlCtl
  repeat' first
    | (with_reducible assumption)
    | (extract_lets +onlyGivenNames lv; first | (have hx : Keeps z lv := ?_; generalize lv = w at hx ⊢; clear lv; rotate_left; subst lv) | (generalize lv = w; clear lv) | subst lv)
    | (with_reducible apply kp_rlCtlOut) | (with_reducible apply kp_setPort) | split | (with_reducible exact Keeps.mk (by assumption))

theorem kp_rlPumpCtl {z : State} (p : Nat) (s : State) (hs : Keeps z s) :
    Keeps z (rlPumpCtl p s) := by
  unfold rlPumpCtl
  repeat' first
    | (with_reducible assumption) | intro _ | (with_reducible apply kp_sendRlCtl) | (with_reducible apply kp_setPort)
    | (with_reducible apply Keeps.foldl) | (with_reducible apply Keeps.foldlx) | (with_reducible apply Keeps.foldlv)
    | (with_reducible apply Keeps.foldl2) | (with_reducible apply Keeps.foldl1) | (with_reducible apply Keeps.foldl22)
    | (with_reducible apply Keeps.foldl222) | (with_reducible apply Keeps.foldl2x) | (with_reducible exact Keeps.mk (by assumption))

theorem kp_rlRetrain {z : State} (p : Nat) (s : State) (hs : Keeps z s) :
    Keeps z (rlRetrain p s) := by
  unfold rlRetrain
  repeat' first
    | (with_reducible assumption) | (with_reducible apply kp_pumpWait) | (with_reducible apply kp_countRetrain) | (with_reducible apply kp_raise)
    | (with_reducible apply kp_setPhase) | (with_reducible apply kp_rlStop) | dsimp only

theorem kp_rlDrain {z : State} (p : Nat) (s : State) (hs : Keeps z s) :
    Keeps z (rlDrain p s) := by
  unfold rlDrain
  repeat' first
    | (with_reducible assumption) | (with_reducible apply kp_pumpWait) | (with_reducible apply kp_showRetraining) | (with_reducible apply kp_setRlpX)
    | (with_reducible apply kp_setPhase) | (with_reducible apply kp_rlStop) | (with_reducible exact Keeps.mk (by assumption))

theorem kp_rlLoss {z : State} (p : Nat) (s : State) (hs : Keeps z s) :
    Keeps z (rlLoss p s) := by
  unfold rlLoss
  repeat' first
    | (with_reducible assumption) | (with_reducible apply kp_degrade) | (with_reducible apply kp_setF) | split | dsimp only

theorem kp_rlStepRec {z : State} (p : Nat) (step : Nat) (dir : Nat) (lane : Nat) (s : State) (hs : Keeps z s) :
    Keeps z (rlStepRec p step dir lane s) := by
  unfold rlStepRec
  repeat' first
    | (with_reducible assumption) | (with_reducible apply kp_tally) | (with_reducible apply kp_setF) | dsimp only

theorem kp_rlChange {z : State} (p : Nat) (w : Nat) (step : Nat) (dir : Nat) (lane : Nat) (rx : List Nat) (tx : List Nat) (s : State) (hs : Keeps z s) :
    Keeps z (rlChange p w step dir lane rx tx s) := by
  unfold rlChange
  repeat' first
    | (with_reducible assumption)
    | (extract_lets +onlyGivenNames lv; first | (have hx : Keeps z lv := ?_; generalize lv = w at hx ⊢; clear lv; rotate_left; subst lv) | (generalize lv = w; clear lv) | subst lv)
    | (with_reducible apply kp_recordCE) | (with_reducible apply kp_raise) | (with_reducible apply kp_rlStepRec) | (with_reducible apply kp_portEvent)
    | (with_reducible apply kp_rlRetrain) | (with_reducible apply kp_sendRlCtl) | (with_reducible apply kp_setRlWidth) | dsimp only

theorem kp_rlDown {z : State} (p : Nat) (dir : Nat) (lane : Nat) (code : Nat) (s : State) (hs : Keeps z s) :
    Keeps z (rlDown p dir lane code s) := by
  unfold rlDown
  repeat' first
    | (with_reducible assumption)
    | (extract_lets +onlyGivenNames lv; first | (have hx : Keeps z lv := ?_; generalize lv = w at hx ⊢; clear lv; rotate_left; subst lv) | (generalize lv = w; clear lv) | subst lv)
    | (with_reducible apply kp_rlDrain) | (with_reducible apply kp_setRlpX) | (with_reducible apply kp_rlStepRec) | (with_reducible apply kp_rlLoss)
    | (with_reducible apply kp_portEvent) | (with_reducible exact Keeps.mk (by assumption))

theorem kp_rlLadder {z : State} (p : Nat) (dir : Nat) (lane : Nat) (s : State) (hs : Keeps z s) :
    Keeps z (rlLadder p dir lane s) := by
  unfold rlLadder
  repeat' first
    | (with_reducible assumption)
    | (extract_lets +onlyGivenNames lv; first | (have hx : Keeps z lv := ?_; generalize lv = w at hx ⊢; clear lv; rotate_left; subst lv) | (generalize lv = w; clear lv) | subst lv)
    | (with_reducible apply kp_rlDown) | (with_reducible apply kp_rlChange) | split | dsimp only

theorem kp_rlLaneFail {z : State} (p : Nat) (l : Nat) (s : State) (hs : Keeps z s) :
    Keeps z (rlLaneFail p l s) := by
  unfold rlLaneFail
  repeat' first
    | (with_reducible assumption)
    | (extract_lets +onlyGivenNames lv; first | (have hx : Keeps z lv := ?_; generalize lv = w at hx ⊢; clear lv; rotate_left; subst lv) | (generalize lv = w; clear lv) | subst lv)
    | (with_reducible apply kp_showRlLanes) | (with_reducible apply kp_setF) | (with_reducible apply kp_setRlpX) | (with_reducible apply kp_rlLadder)
    | split | dsimp only | (with_reducible exact Keeps.mk (by assumption))

theorem kp_execRlLaneWindow {z : State} (p : Nat) (l : Nat) (corr : Nat) (uncorr : Nat) (s : State) (hs : Keeps z s) :
    KeepsR z (execRlLaneWindow p l corr uncorr s) := by
  unfold execRlLaneWindow
  repeat' first
    | (with_reducible assumption)
    | (extract_lets +onlyGivenNames lv; first | (have hx : Keeps z lv := ?_; generalize lv = w at hx ⊢; clear lv; rotate_left; subst lv) | (generalize lv = w; clear lv) | subst lv)
    | (with_reducible apply kp_setF) | (with_reducible apply kp_rlLaneFail) | (with_reducible apply kp_recordCE) | (with_reducible apply kp_raise)
    | split | (with_reducible refine KeepsR.next ?_) | dsimp only

theorem kp_execRlLaneLockLoss {z : State} (p : Nat) (l : Nat) (s : State) (hs : Keeps z s) :
    KeepsR z (execRlLaneLockLoss p l s) := by
  unfold execRlLaneLockLoss
  repeat' first
    | (with_reducible assumption) | (with_reducible apply kp_rlLaneFail) | split | (with_reducible refine KeepsR.next ?_) | dsimp only

theorem kp_rlLoseLock {z : State} (p : Nat) (s : State) (hs : Keeps z s) :
    Keeps z (rlLoseLock p s) := by
  unfold rlLoseLock
  repeat' first
    | (with_reducible assumption) | intro _ | (with_reducible apply kp_rlLaneFail) | (with_reducible apply Keeps.foldl)
    | (with_reducible apply Keeps.foldlx) | (with_reducible apply Keeps.foldlv) | (with_reducible apply Keeps.foldl2)
    | (with_reducible apply Keeps.foldl1) | (with_reducible apply Keeps.foldl22) | (with_reducible apply Keeps.foldl222)
    | (with_reducible apply Keeps.foldl2x) | split
    | (with_reducible refine KeepsP.mk ?_; with_reducible first | assumption | apply Keeps.foldlx | apply Keeps.foldlv | apply Keeps.foldl2 | apply Keeps.foldl1 | apply Keeps.foldl22 | apply Keeps.foldl222 | apply Keeps.foldl2x)
    | (with_reducible refine Keeps.of2 (by assumption) ?_) | (with_reducible refine Keeps.of1 (by assumption) ?_)
    | (with_reducible refine Keeps.of3 (by assumption) ?_) | dsimp only

theorem kp_rlIdle {z : State} (p : Nat) (s : State) (hs : Keeps z s) :
    Keeps z (rlIdle p s) := by
  unfold rlIdle
  repeat' first
    | (with_reducible assumption) | intro _ | (with_reducible apply kp_rlTell) | (with_reducible apply Keeps.foldl)
    | (with_reducible apply Keeps.foldlx) | (with_reducible apply Keeps.foldlv) | (with_reducible apply Keeps.foldl2)
    | (with_reducible apply Keeps.foldl1) | (with_reducible apply Keeps.foldl22) | (with_reducible apply Keeps.foldl222)
    | (with_reducible apply Keeps.foldl2x)

theorem kp_rlResend {z : State} (p : Nat) (a : Nat) (s : State) (hs : Keeps z s) :
    Keeps z (rlResend p a s) := by
  unfold rlResend
  repeat' first
    | (with_reducible assumption)
    | (extract_lets +onlyGivenNames lv; first | (have hx : Keeps z lv := ?_; generalize lv = w at hx ⊢; clear lv; rotate_left; subst lv) | (generalize lv = w; clear lv) | subst lv)
    | (with_reducible apply kp_emitRl) | (with_reducible apply kp_bump) | (with_reducible apply kp_setPort) | split | dsimp only
    | (with_reducible exact Keeps.mk (by assumption))

theorem kp_rlCrcFail {z : State} (p : Nat) (fec : Bool) (s : State) (hs : Keeps z s) :
    Keeps z (rlCrcFail p fec s) := by
  unfold rlCrcFail
  repeat' first
    | (with_reducible assumption)
    | (extract_lets +onlyGivenNames lv; first | (have hx : Keeps z lv := ?_; generalize lv = w at hx ⊢; clear lv; rotate_left; subst lv) | (generalize lv = w; clear lv) | subst lv)
    | (with_reducible apply kp_bump) | (with_reducible apply kp_recordCE) | split

theorem kp_rlCodewords {z : State} (p : Nat) (cws : List (Nat × Nat × Nat)) (s : State) (hs : Keeps z s) :
    Keeps z (rlCodewords p cws s) := by
  unfold rlCodewords
  repeat' first
    | (with_reducible assumption) | intro _
    | (extract_lets +onlyGivenNames lv; first | (have hx : Keeps z lv := ?_; generalize lv = w at hx ⊢; clear lv; rotate_left; subst lv) | (generalize lv = w; clear lv) | subst lv)
    | (with_reducible apply kp_recordCE) | (with_reducible apply kp_setRlpX) | (with_reducible apply Keeps.foldl)
    | (with_reducible apply Keeps.foldlx) | (with_reducible apply Keeps.foldlv) | (with_reducible apply Keeps.foldl2)
    | (with_reducible apply Keeps.foldl1) | (with_reducible apply Keeps.foldl22) | (with_reducible apply Keeps.foldl222)
    | (with_reducible apply Keeps.foldl2x) | split | (with_reducible exact Keeps.mk (by assumption))

theorem kp_rlHeader {z : State} (p : Nat) (seq : Nat) (ack : Nat) (vc : Nat) (ok : Bool) (fec : Bool) (s : State) (hs : Keeps z s) :
    Keeps z (rlHeader p seq ack vc ok fec s).2 := by
  change KeepsP (fun y : Take × State => y.2) z _
  unfold rlHeader
  repeat' first
    | (with_reducible assumption)
    | (extract_lets +onlyGivenNames lv; first | (have hx : Keeps z lv := ?_; generalize lv = w at hx ⊢; clear lv; rotate_left; subst lv) | (generalize lv = w; clear lv) | subst lv)
    | (with_reducible apply kp_setPort) | (with_reducible apply kp_rlCrcFail) | (with_reducible apply kp_rlTell) | split
    | (with_reducible refine KeepsP.mk ?_; with_reducible first | assumption) | (with_reducible refine KeepsP.p1 ?_)
    | (with_reducible refine KeepsP.p2 ?_) | (with_reducible refine KeepsP.p22 ?_) | (with_reducible refine Keeps.of2 (by assumption) ?_)
    | (with_reducible refine Keeps.of1 (by assumption) ?_) | (with_reducible refine Keeps.of3 (by assumption) ?_)

theorem kp_credited {z : State} (p : Nat) (cvc : Nat) (cn : Nat) (s : State) (hs : Keeps z s) :
    Keeps z (credited p cvc cn s) := by
  unfold credited
  repeat' first
    | (with_reducible assumption) | (with_reducible apply kp_pumpWait) | (with_reducible apply kp_setPort) | split

theorem kp_execRlFlitReceived {z : State} (p : Nat) (seq : Nat) (ack : Nat) (vc : Nat) (cvc : Nat) (cn : Nat) (errs : List Nat) (cws : List (Nat × Nat × Nat)) (ctrl : Bool) (op : Nat) (s : State) (hs : Keeps z s) :
    KeepsR z (execRlFlitReceived p seq ack vc cvc cn errs cws ctrl op s) := by
  unfold execRlFlitReceived
  repeat' first
    | (with_reducible assumption) | intro _
    | (extract_lets +onlyGivenNames lv; first | (have hx : Keeps z lv := ?_; generalize lv = w at hx ⊢; clear lv; rotate_left; subst lv) | (have hx : KeepsP (fun y : _ × State => y.2) z lv := ?_; generalize lv = w at hx ⊢; clear lv; replace hx : Keeps z w.2 := hx; rotate_left; subst lv) | (have hfn0 : ∀ y, Keeps z y → Keeps z (lv y) := ?_; generalize lv = w at hfn0 ⊢; clear lv; rotate_left; subst lv) | (have hfn1 : ∀ a y, Keeps z y → Keeps z (lv a y) := ?_; generalize lv = w at hfn1 ⊢; clear lv; rotate_left; subst lv) | (have hfn2 : ∀ a b y, Keeps z y → Keeps z (lv a b y) := ?_; generalize lv = w at hfn2 ⊢; clear lv; rotate_left; subst lv) | (have hfn3 : ∀ a b c y, Keeps z y → Keeps z (lv a b c y) := ?_; generalize lv = w at hfn3 ⊢; clear lv; rotate_left; subst lv) | (have hfn4 : ∀ y a, Keeps z y → Keeps z (lv y a) := ?_; generalize lv = w at hfn4 ⊢; clear lv; rotate_left; subst lv) | (have hfn5 : ∀ a, Keeps z (lv a) := ?_; generalize lv = w at hfn5 ⊢; clear lv; rotate_left; subst lv) | (have hfn6 : ∀ a b, Keeps z (lv a b) := ?_; generalize lv = w at hfn6 ⊢; clear lv; rotate_left; subst lv) | (have hfn7 : ∀ y a b, Keeps z y → Keeps z (lv y a b) := ?_; generalize lv = w at hfn7 ⊢; clear lv; rotate_left; subst lv) | (have hfn8 : ∀ a, KeepsR z (lv a) := ?_; generalize lv = w at hfn8 ⊢; clear lv; rotate_left; subst lv) | (have hfn9 : ∀ y, Keeps z y → KeepsC z (lv y) := ?_; generalize lv = w at hfn9 ⊢; clear lv; rotate_left; subst lv) | (have hfn10 : ∀ y, Keeps z y → KeepsR z (lv y) := ?_; generalize lv = w at hfn10 ⊢; clear lv; rotate_left; subst lv) | (have hfn11 : ∀ a y, Keeps z y → KeepsR z (lv a y) := ?_; generalize lv = w at hfn11 ⊢; clear lv; rotate_left; subst lv) | (have hfn12 : ∀ y a, Keeps z y → KeepsR z (lv y a) := ?_; generalize lv = w at hfn12 ⊢; clear lv; rotate_left; subst lv) | (generalize lv = w; clear lv) | subst lv)
    | (with_reducible apply hfn0) | (with_reducible apply hfn1) | (with_reducible apply hfn2) | (with_reducible apply hfn3)
    | (with_reducible apply hfn4) | (with_reducible apply hfn5) | (with_reducible apply hfn6) | (with_reducible apply hfn7)
    | (with_reducible apply hfn8) | (with_reducible apply hfn9) | (with_reducible apply hfn10) | (with_reducible apply hfn11)
    | (with_reducible apply hfn12) | (with_reducible refine KeepsR.next ?_) | (with_reducible apply kp_rlCodewords)
    | (with_reducible apply kp_credited) | (with_reducible apply kp_rlPumpCtl) | (with_reducible apply kp_setPort)
    | (with_reducible apply kp_rlCrcFail) | (with_reducible apply kp_rlHeader) | (with_reducible apply kp_bump64) | split
    | (with_reducible refine KeepsP.mk ?_; with_reducible first | assumption | apply kp_rlHeader) | (with_reducible refine KeepsP.p1 ?_)
    | (with_reducible refine KeepsP.p2 ?_) | (with_reducible refine KeepsP.p22 ?_) | (with_reducible refine Keeps.of2 (by assumption) ?_)
    | (with_reducible refine Keeps.of1 (by assumption) ?_) | (with_reducible refine Keeps.of3 (by assumption) ?_)

theorem kp_execRlNak {z : State} (p : Nat) (seq : Nat) (ack : Nat) (s : State) (hs : Keeps z s) :
    KeepsR z (execRlNak p seq ack s) := by
  unfold execRlNak
  repeat' first
    | (with_reducible assumption)
    | (extract_lets +onlyGivenNames lv; first | (have hx : Keeps z lv := ?_; generalize lv = w at hx ⊢; clear lv; rotate_left; subst lv) | (generalize lv = w; clear lv) | subst lv)
    | (with_reducible refine KeepsR.next ?_) | (with_reducible apply kp_setPort) | (with_reducible apply kp_rlRetrain)
    | (with_reducible apply kp_rlStepRec) | (with_reducible apply kp_rlPumpCtl) | (with_reducible apply kp_rlResend) | split
    | (with_reducible exact Keeps.mk (by assumption))

theorem kp_execRlIdleTimer {z : State} (p : Nat) (s : State) (hs : Keeps z s) :
    KeepsR z (execRlIdleTimer p s) := by
  unfold execRlIdleTimer
  repeat' first
    | (with_reducible assumption) | (with_reducible apply kp_rlIdle) | split | (with_reducible refine KeepsR.next ?_) | dsimp only

theorem kp_execRlReplayTimeout {z : State} (p : Nat) (s : State) (hs : Keeps z s) :
    KeepsR z (execRlReplayTimeout p s) := by
  unfold execRlReplayTimeout
  repeat' first
    | (with_reducible assumption)
    | (extract_lets +onlyGivenNames lv; first | (have hx : Keeps z lv := ?_; generalize lv = w at hx ⊢; clear lv; rotate_left; subst lv) | (generalize lv = w; clear lv) | subst lv)
    | (with_reducible refine KeepsR.next ?_) | (with_reducible apply kp_waitTill) | (with_reducible apply kp_rlRetrain)
    | (with_reducible apply kp_rlStepRec) | (with_reducible apply kp_setPort) | (with_reducible apply kp_rlResend) | split
    | (with_reducible exact Keeps.mk (by assumption))

theorem kp_execRlCreditTimeout {z : State} (p : Nat) (vc : Nat) (s : State) (hs : Keeps z s) :
    KeepsR z (execRlCreditTimeout p vc s) := by
  unfold execRlCreditTimeout
  repeat' first
    | (with_reducible assumption) | (with_reducible refine KeepsR.next ?_) | (with_reducible apply kp_rlRetrain) | (with_reducible apply kp_recordCE)
    | (with_reducible apply kp_waitTill) | (with_reducible refine Keeps.getD ?_ ?_) | split

theorem kp_execRlWidth {z : State} (p : Nat) (seq : Nat) (ack : Nat) (w : Nat) (rx : Nat) (tx : Nat) (s : State) (hs : Keeps z s) :
    KeepsR z (execRlWidth p seq ack w rx tx s) := by
  unfold execRlWidth
  repeat' first
    | (with_reducible assumption)
    | (extract_lets +onlyGivenNames lv; first | (have hx : Keeps z lv := ?_; generalize lv = w at hx ⊢; clear lv; rotate_left; subst lv) | (have hx : KeepsP (fun y : _ × State => y.2) z lv := ?_; generalize lv = w at hx ⊢; clear lv; replace hx : Keeps z w.2 := hx; rotate_left; subst lv) | (generalize lv = w; clear lv) | subst lv)
    | (with_reducible apply kp_rlHeader) | (with_reducible apply kp_recordCE) | (with_reducible apply kp_raise) | (with_reducible apply kp_rlStepRec)
    | (with_reducible apply kp_portEvent) | (with_reducible apply kp_rlRetrain) | (with_reducible apply kp_setRlWidth) | split
    | (with_reducible refine KeepsP.mk ?_; with_reducible first | assumption | apply kp_rlHeader) | (with_reducible refine KeepsP.p2 ?_)
    | (with_reducible refine KeepsR.next ?_) | (with_reducible refine Keeps.of2 (by assumption) ?_) | dsimp only

theorem kp_execRlDrainEnd {z : State} (p : Nat) (seq : Nat) (ack : Nat) (s : State) (hs : Keeps z s) :
    KeepsR z (execRlDrainEnd p seq ack s) := by
  unfold execRlDrainEnd
  repeat' first
    | (with_reducible assumption) | (with_reducible apply kp_rlHeader) | split | (with_reducible refine KeepsR.next ?_)
    | (with_reducible refine Keeps.of2 (by assumption) ?_) | dsimp only

theorem kp_rlStart {z : State} (p : Nat) (s : State) (hs : Keeps z s) :
    Keeps z (rlStart p s) := by
  unfold rlStart
  repeat' first
    | (with_reducible assumption) | (with_reducible apply kp_setPort) | (with_reducible apply kp_setRlpX) | (with_reducible apply kp_setPhase)

theorem kp_execRlPartnerSignal {z : State} (p : Nat) (s : State) (hs : Keeps z s) :
    KeepsR z (execRlPartnerSignal p s) := by
  unfold execRlPartnerSignal
  repeat' first
    | (with_reducible assumption) | (with_reducible apply kp_setPhase) | split | (with_reducible refine KeepsR.next ?_) | dsimp only

theorem kp_execRlTrainDone {z : State} (p : Nat) (rx : Nat) (tx : Nat) (s : State) (hs : Keeps z s) :
    KeepsR z (execRlTrainDone p rx tx s) := by
  unfold execRlTrainDone
  repeat' first
    | (with_reducible assumption)
    | (extract_lets +onlyGivenNames lv; first | (have hx : Keeps z lv := ?_; generalize lv = w at hx ⊢; clear lv; rotate_left; subst lv) | (generalize lv = w; clear lv) | subst lv)
    | (with_reducible apply kp_showRlLanes) | (with_reducible apply kp_setF) | (with_reducible apply kp_setPhase)
    | (with_reducible apply kp_recordErr) | split | (with_reducible refine KeepsR.next ?_) | dsimp only

theorem kp_execRlAlignDone {z : State} (p : Nat) (s : State) (hs : Keeps z s) :
    KeepsR z (execRlAlignDone p s) := by
  unfold execRlAlignDone
  repeat' first
    | (with_reducible assumption)
    | (extract_lets +onlyGivenNames lv; first | (have hx : Keeps z lv := ?_; generalize lv = w at hx ⊢; clear lv; rotate_left; subst lv) | (generalize lv = w; clear lv) | subst lv)
    | (with_reducible apply kp_setPhase) | (with_reducible apply kp_setRlWidth) | split | (with_reducible refine KeepsR.next ?_) | dsimp only

theorem kp_rlApplyMax {z : State} (p : Nat) (s : State) (hs : Keeps z s) :
    Keeps z (rlApplyMax p s) := by
  unfold rlApplyMax
  repeat' first
    | (with_reducible assumption)
    | (extract_lets +onlyGivenNames lv; first | (have hx : Keeps z lv := ?_; generalize lv = w at hx ⊢; clear lv; rotate_left; subst lv) | (generalize lv = w; clear lv) | subst lv)
    | (with_reducible apply kp_rlChange) | (with_reducible apply kp_raise) | split

theorem kp_rlRepeat {z : State} (p : Nat) (s : State) (hs : Keeps z s) :
    Keeps z (rlRepeat p s) := by
  unfold rlRepeat
  repeat' first
    | (with_reducible assumption) | (with_reducible apply kp_rlResend) | split

theorem kp_execRlRetrainDone {z : State} (p : Nat) (s : State) (hs : Keeps z s) :
    KeepsR z (execRlRetrainDone p s) := by
  unfold execRlRetrainDone
  repeat' first
    | (with_reducible assumption)
    | (extract_lets +onlyGivenNames lv; first | (have hx : Keeps z lv := ?_; generalize lv = w at hx ⊢; clear lv; rotate_left; subst lv) | (generalize lv = w; clear lv) | subst lv)
    | (with_reducible refine KeepsR.next ?_) | (with_reducible apply kp_setRlpX) | (with_reducible apply kp_showRetraining)
    | (with_reducible apply kp_raise) | (with_reducible apply kp_setF) | (with_reducible apply kp_setPhase) | (with_reducible apply kp_rlRepeat)
    | (with_reducible apply kp_rlLadder) | (with_reducible apply kp_pumpWait) | (with_reducible apply kp_rlApplyMax) | split
    | (with_reducible exact Keeps.mk (by assumption))

theorem kp_execRlDrainDone {z : State} (p : Nat) (s : State) (hs : Keeps z s) :
    KeepsR z (execRlDrainDone p s) := by
  unfold execRlDrainDone
  repeat' first
    | (with_reducible assumption) | intro _
    | (extract_lets +onlyGivenNames lv; first | (have hx : Keeps z lv := ?_; generalize lv = w at hx ⊢; clear lv; rotate_left; subst lv) | (generalize lv = w; clear lv) | subst lv)
    | (with_reducible refine KeepsR.next ?_) | (with_reducible apply kp_waitTill) | (with_reducible apply kp_sendRlCtl)
    | (with_reducible apply kp_setPort) | (with_reducible apply kp_setRlpX) | (with_reducible apply kp_recordCE) | (with_reducible apply kp_setPhase)
    | (with_reducible apply kp_raise) | (with_reducible apply kp_recordErr) | split | (with_reducible exact Keeps.mk (by assumption))

theorem kp_execRlpCtlWrite {z : State} (fn : Nat) (p : Nat) (v : Nat) (s : State) (hs : Keeps z s) :
    KeepsR z (execRlpCtlWrite fn p v s) := by
  unfold execRlpCtlWrite
  repeat' first
    | (with_reducible assumption) | intro _
    | (extract_lets +onlyGivenNames lv; first | (have hx : Keeps z lv := ?_; generalize lv = w at hx ⊢; clear lv; rotate_left; subst lv) | (generalize lv = w; clear lv) | subst lv)
    | (with_reducible refine KeepsR.next ?_) | (with_reducible apply kp_barWrite) | (with_reducible apply kp_writeReg)
    | (with_reducible apply kp_setRlpX) | (with_reducible apply kp_rlApplyMax) | split | (with_reducible exact Keeps.mk (by assumption))

theorem kp_execHelloTimer {z : State} (p : Nat) (s : State) (hs : Keeps z s) :
    KeepsR z (execHelloTimer p s) := by
  unfold execHelloTimer
  repeat' first
    | (with_reducible assumption)
    | (extract_lets +onlyGivenNames lv; first | (have hx : Keeps z lv := ?_; generalize lv = w at hx ⊢; clear lv; rotate_left; subst lv) | (generalize lv = w; clear lv) | subst lv)
    | (with_reducible refine KeepsR.next ?_) | (with_reducible apply kp_waitTill) | (with_reducible apply kp_setRlpX)
    | (with_reducible apply kp_rlTell) | (with_reducible refine Keeps.getD ?_ ?_) | split | (with_reducible exact Keeps.mk (by assumption))

theorem kp_execHello {z : State} (p : Nat) (serial : Nat) (node : Nat) (epoch : Nat) (port : Nat) (valid : Bool) (host : Nat) (pri : Nat) (kserial : Nat) (s : State) (hs : Keeps z s) :
    KeepsR z (execHello p serial node epoch port valid host pri kserial s) := by
  unfold execHello
  repeat' first
    | (with_reducible assumption)
    | (extract_lets +onlyGivenNames lv; first | (have hx : Keeps z lv := ?_; generalize lv = w at hx ⊢; clear lv; rotate_left; subst lv) | (generalize lv = w; clear lv) | subst lv)
    | (with_reducible refine KeepsR.next ?_) | (with_reducible apply kp_moved) | (with_reducible apply kp_wr64) | (with_reducible apply kp_setF)
    | (with_reducible apply kp_setState) | (with_reducible apply kp_setPhase) | (with_reducible apply kp_portEvent) | (with_reducible apply kp_raise)
    | (with_reducible apply kp_pumpWait) | (with_reducible apply kp_mgsClaim) | split | (with_reducible exact Keeps.mk (by assumption))

theorem kp_execRlPacketArrival {z : State} (p : Nat) (dst : Nat) (src : Nat) (hops : Nat) (age : Nat) (cls : Nat) (len : Nat) (us : Nat) (serial : Nat) (mseq : Nat) (esc : Bool) (fld : Bool) (sr : Bool) (bad : Bool) (body : List Byte) (s : State) (hs : Keeps z s) :
    KeepsR z (execRlPacketArrival p dst src hops age cls len us serial mseq esc fld sr bad body s) := by
  unfold execRlPacketArrival
  repeat' first
    | (with_reducible assumption) | intro _
    | (extract_lets +onlyGivenNames lv; first | (have hx : Keeps z lv := ?_; generalize lv = w at hx ⊢; clear lv; rotate_left; subst lv) | (generalize lv = w; clear lv) | subst lv)
    | (with_reducible refine KeepsR.next ?_) | (with_reducible apply kp_rlDiscard) | (with_reducible apply kp_rememberMsg)
    | (with_reducible apply kp_sendVia) | (with_reducible apply kp_takePkt) | (with_reducible apply kp_routePkt) | (with_reducible apply Keeps.foldl)
    | (with_reducible apply Keeps.foldlx) | (with_reducible apply Keeps.foldlv) | (with_reducible apply Keeps.foldl2)
    | (with_reducible apply Keeps.foldl1) | (with_reducible apply Keeps.foldl22) | (with_reducible apply Keeps.foldl222)
    | (with_reducible apply Keeps.foldl2x) | split | (with_reducible exact Keeps.mk (by assumption))

theorem kp_execEscapeTimer {z : State} (k : Nat) (s : State) (hs : Keeps z s) :
    KeepsR z (execEscapeTimer k s) := by
  unfold execEscapeTimer
  repeat' first
    | (with_reducible assumption)
    | (extract_lets +onlyGivenNames lv; first | (have hx : Keeps z lv := ?_; generalize lv = w at hx ⊢; clear lv; rotate_left; subst lv) | (generalize lv = w; clear lv) | subst lv)
    | (with_reducible refine KeepsR.next ?_) | (with_reducible apply kp_waitTill) | (with_reducible apply kp_routePkt) | split
    | (with_reducible exact Keeps.mk (by assumption))

end Sys2Proof.Machine
end

