-- ==== Sys2Proof/Laws/KeepsVolt.lean ====
section
/-! SUPPORT. What every operation of Machine/Volt.lean keeps. -/
set_option linter.all false

namespace Sys2Proof.Machine

theorem kp_islCommand {z : State} (j : Nat) (code : Nat) (src : Nat) (mv : Nat) (s : State) (hs : Keeps z s) :
    Keeps z (islCommand j code src mv s) := by
  unfold islCommand
  repeat' first
    | (with_reducible assumption) | (with_reducible apply kp_raise) | (with_reducible apply kp_islRefuse) | (with_reducible apply kp_islAccept)
    | split

theorem kp_execIslCmd {z : State} (fn : Nat) (j : Nat) (v : Nat) (mv : Nat) (s : State) (hs : Keeps z s) :
    KeepsR z (execIslCmd fn j v mv s) := by
  unfold execIslCmd
  repeat' first
    | (with_reducible assumption) | intro _
    | (extract_lets +onlyGivenNames lv; first | (have hx : Keeps z lv := ?_; generalize lv = w at hx ⊢; clear lv; rotate_left; subst lv) | (generalize lv = w; clear lv) | subst lv)
    | (with_reducible refine KeepsR.next ?_) | (with_reducible apply kp_barWrite) | (with_reducible apply kp_islCommand)
    | (with_reducible apply kp_showMv) | split

theorem kp_execIvrRampStart {z : State} (j : Nat) (mv : Nat) (s : State) (hs : Keeps z s) :
    KeepsR z (execIvrRampStart j mv s) := by
  unfold execIvrRampStart
  repeat' first
    | (with_reducible assumption)
    | (extract_lets +onlyGivenNames lv; first | (have hx : Keeps z lv := ?_; generalize lv = w at hx ⊢; clear lv; rotate_left; subst lv) | (generalize lv = w; clear lv) | subst lv)
    | (with_reducible refine KeepsR.next ?_) | (with_reducible apply kp_showMv) | (with_reducible apply kp_setIsl) | split
    | (with_reducible exact Keeps.mk (by assumption))

theorem kp_islBoot {z : State} (j : Nat) (s : State) (hs : Keeps z s) :
    Keeps z (islBoot j s) := by
  unfold islBoot
  repeat' first
    | (with_reducible assumption) | (with_reducible apply kp_islIssue) | (with_reducible apply kp_setIsl) | split
    | (with_reducible exact Keeps.mk (by assumption))

theorem kp_islRecover {z : State} (j : Nat) (s : State) (hs : Keeps z s) :
    Keeps z (islRecover j s) := by
  unfold islRecover
  repeat' first
    | (with_reducible assumption) | (with_reducible apply kp_islRefuse) | (with_reducible apply kp_islBoot) | split

theorem kp_bootNext {z : State} (s : State) (hs : Keeps z s) :
    Keeps z (bootNext s) := by
  unfold bootNext
  repeat' first
    | (with_reducible assumption) | intro _
    | (extract_lets +onlyGivenNames lv; first | (have hx : Keeps z lv := ?_; generalize lv = w at hx ⊢; clear lv; rotate_left; subst lv) | (have hx : KeepsP (fun y : _ × State => y.2) z lv := ?_; generalize lv = w at hx ⊢; clear lv; replace hx : Keeps z w.2 := hx; rotate_left; subst lv) | (have hx : KeepsP (fun y : State × _ => y.1) z lv := ?_; generalize lv = w at hx ⊢; clear lv; replace hx : Keeps z w.1 := hx; rotate_left; subst lv) | (have hx : KeepsP (fun y : _ × _ × State => y.2.2) z lv := ?_; generalize lv = w at hx ⊢; clear lv; replace hx : Keeps z w.2.2 := hx; rotate_left; subst lv) | (have hfn0 : ∀ y, Keeps z y → Keeps z (lv y) := ?_; generalize lv = w at hfn0 ⊢; clear lv; rotate_left; subst lv) | (have hfn1 : ∀ a y, Keeps z y → Keeps z (lv a y) := ?_; generalize lv = w at hfn1 ⊢; clear lv; rotate_left; subst lv) | (have hfn2 : ∀ a b y, Keeps z y → Keeps z (lv a b y) := ?_; generalize lv = w at hfn2 ⊢; clear lv; rotate_left; subst lv) | (have hfn3 : ∀ a b c y, Keeps z y → Keeps z (lv a b c y) := ?_; generalize lv = w at hfn3 ⊢; clear lv; rotate_left; subst lv) | (have hfn4 : ∀ y a, Keeps z y → Keeps z (lv y a) := ?_; generalize lv = w at hfn4 ⊢; clear lv; rotate_left; subst lv) | (have hfn5 : ∀ a, Keeps z (lv a) := ?_; generalize lv = w at hfn5 ⊢; clear lv; rotate_left; subst lv) | (have hfn6 : ∀ a b, Keeps z (lv a b) := ?_; generalize lv = w at hfn6 ⊢; clear lv; rotate_left; subst lv) | (have hfn7 : ∀ y a b, Keeps z y → Keeps z (lv y a b) := ?_; generalize lv = w at hfn7 ⊢; clear lv; rotate_left; subst lv) | (have hfn8 : ∀ a, KeepsR z (lv a) := ?_; generalize lv = w at hfn8 ⊢; clear lv; rotate_left; subst lv) | (have hfn9 : ∀ y, Keeps z y → KeepsC z (lv y) := ?_; generalize lv = w at hfn9 ⊢; clear lv; rotate_left; subst lv) | (have hfn10 : ∀ y, Keeps z y → KeepsR z (lv y) := ?_; generalize lv = w at hfn10 ⊢; clear lv; rotate_left; subst lv) | (have hfn11 : ∀ a y, Keeps z y → KeepsR z (lv a y) := ?_; generalize lv = w at hfn11 ⊢; clear lv; rotate_left; subst lv) | (have hfn12 : ∀ y a, Keeps z y → KeepsR z (lv y a) := ?_; generalize lv = w at hfn12 ⊢; clear lv; rotate_left; subst lv) | (generalize lv = w; clear lv) | subst lv)
    | (with_reducible apply hfn0) | (with_reducible apply hfn1) | (with_reducible apply hfn2) | (with_reducible apply hfn3)
    | (with_reducible apply hfn4) | (with_reducible apply hfn5) | (with_reducible apply hfn6) | (with_reducible apply hfn7)
    | (with_reducible apply hfn8) | (with_reducible apply hfn9) | (with_reducible apply hfn10) | (with_reducible apply hfn11)
    | (with_reducible apply hfn12) | (with_reducible apply kp_islBoot) | (with_reducible apply Keeps.foldl) | (with_reducible apply Keeps.foldlx)
    | (with_reducible apply Keeps.foldlv) | (with_reducible apply Keeps.foldl2) | (with_reducible apply Keeps.foldl1)
    | (with_reducible apply Keeps.foldl22) | (with_reducible apply Keeps.foldl222) | (with_reducible apply Keeps.foldl2x) | split
    | (with_reducible refine KeepsP.mk ?_; with_reducible first | assumption | apply Keeps.foldlx | apply Keeps.foldlv | apply Keeps.foldl2 | apply Keeps.foldl1 | apply Keeps.foldl22 | apply Keeps.foldl222 | apply Keeps.foldl2x)
    | (with_reducible refine KeepsP.p1 ?_) | (with_reducible refine KeepsP.p2 ?_) | (with_reducible refine KeepsP.p22 ?_)
    | (with_reducible refine Keeps.of2 (by assumption) ?_) | (with_reducible refine Keeps.of1 (by assumption) ?_)
    | (with_reducible refine Keeps.of3 (by assumption) ?_) | dsimp only | (with_reducible exact Keeps.mk (by assumption))

theorem kp_execIslandStable {z : State} (j : Nat) (mv : Nat) (s : State) (hs : Keeps z s) :
    KeepsR z (execIslandStable j mv s) := by
  unfold execIslandStable
  repeat' first
    | (with_reducible assumption) | intro _ | (with_reducible refine KeepsR.next ?_) | (with_reducible apply kp_calMoved)
    | (with_reducible apply kp_measureMv) | (with_reducible apply Keeps.foldl) | (with_reducible apply Keeps.foldlx)
    | (with_reducible apply Keeps.foldlv) | (with_reducible apply Keeps.foldl2) | (with_reducible apply Keeps.foldl1)
    | (with_reducible apply Keeps.foldl22) | (with_reducible apply Keeps.foldl222) | (with_reducible apply Keeps.foldl2x) | split

theorem kp_execIslCtlManualWrite {z : State} (fn : Nat) (j : Nat) (v : Nat) (s : State) (hs : Keeps z s) :
    KeepsR z (execIslCtlManualWrite fn j v s) := by
  unfold execIslCtlManualWrite
  repeat' first
    | (with_reducible assumption) | intro _ | (with_reducible apply kp_barWrite) | (with_reducible apply kp_writeReg)
    | (with_reducible refine KeepsR.next ?_) | dsimp only

theorem kp_execIslFlagsVrFaultClear {z : State} (fn : Nat) (j : Nat) (v : Nat) (s : State) (hs : Keeps z s) :
    KeepsR z (execIslFlagsVrFaultClear fn j v s) := by
  unfold execIslFlagsVrFaultClear
  repeat' first
    | (with_reducible assumption) | intro _
    | (extract_lets +onlyGivenNames lv; first | (have hx : Keeps z lv := ?_; generalize lv = w at hx ⊢; clear lv; rotate_left; subst lv) | (generalize lv = w; clear lv) | subst lv)
    | (with_reducible apply kp_barWrite) | (with_reducible apply kp_writeReg) | split | (with_reducible refine KeepsR.next ?_) | dsimp only

theorem kp_islFault {z : State} (j : Nat) (i : Nat) (s : State) (hs : Keeps z s) :
    Keeps z (islFault j i s) := by
  unfold islFault
  repeat' first
    | (with_reducible assumption)
    | (extract_lets +onlyGivenNames lv; first | (have hx : Keeps z lv := ?_; generalize lv = w at hx ⊢; clear lv; rotate_left; subst lv) | (generalize lv = w; clear lv) | subst lv)
    | (with_reducible apply kp_recordErr) | (with_reducible apply kp_setF) | (with_reducible apply kp_faultBlock) | split

theorem kp_execVrUnder {z : State} (j : Nat) (mv : Nat) (s : State) (hs : Keeps z s) :
    KeepsR z (execVrUnder j mv s) := by
  unfold execVrUnder
  repeat' first
    | (with_reducible assumption) | intro _
    | (extract_lets +onlyGivenNames lv; first | (have hx : Keeps z lv := ?_; generalize lv = w at hx ⊢; clear lv; rotate_left; subst lv) | (generalize lv = w; clear lv) | subst lv)
    | (with_reducible refine KeepsR.next ?_) | (with_reducible apply kp_recordErr) | (with_reducible apply kp_measureMv)
    | (with_reducible apply kp_raise) | (with_reducible apply kp_setF) | (with_reducible apply kp_setIsl) | (with_reducible apply kp_islFault)
    | (with_reducible apply kp_islRecover) | (with_reducible apply Keeps.foldl) | (with_reducible apply Keeps.foldlx)
    | (with_reducible apply Keeps.foldlv) | (with_reducible apply Keeps.foldl2) | (with_reducible apply Keeps.foldl1)
    | (with_reducible apply Keeps.foldl22) | (with_reducible apply Keeps.foldl222) | (with_reducible apply Keeps.foldl2x) | split
    | (with_reducible exact Keeps.mk (by assumption))

theorem kp_islOff {z : State} (j : Nat) (s : State) (hs : Keeps z s) :
    Keeps z (islOff j s) := by
  unfold islOff
  repeat' first
    | (with_reducible assumption)
    | (extract_lets +onlyGivenNames lv; first | (have hx : Keeps z lv := ?_; generalize lv = w at hx ⊢; clear lv; rotate_left; subst lv) | (generalize lv = w; clear lv) | subst lv)
    | (with_reducible apply kp_measureMv) | (with_reducible apply kp_setIsl) | (with_reducible exact Keeps.mk (by assumption))

theorem kp_execVrOver {z : State} (j : Nat) (mv : Nat) (s : State) (hs : Keeps z s) :
    KeepsR z (execVrOver j mv s) := by
  unfold execVrOver
  repeat' first
    | (with_reducible assumption)
    | (extract_lets +onlyGivenNames lv; first | (have hx : Keeps z lv := ?_; generalize lv = w at hx ⊢; clear lv; rotate_left; subst lv) | (generalize lv = w; clear lv) | subst lv)
    | (with_reducible refine KeepsR.next ?_) | (with_reducible apply kp_measureMv) | (with_reducible apply kp_setIsl)
    | (with_reducible apply kp_recordErr) | (with_reducible apply kp_raise) | (with_reducible apply kp_setF) | split
    | (with_reducible exact Keeps.mk (by assumption))

theorem kp_setCeiling {z : State} (j : Nat) (c : Nat) (s : State) (hs : Keeps z s) :
    Keeps z (setCeiling j c s) := by
  unfold setCeiling
  repeat' first
    | (with_reducible assumption)
    | (extract_lets +onlyGivenNames lv; first | (have hx : Keeps z lv := ?_; generalize lv = w at hx ⊢; clear lv; rotate_left; subst lv) | (generalize lv = w; clear lv) | subst lv)
    | (with_reducible apply kp_setF) | (with_reducible apply kp_raise) | (with_reducible apply kp_islRefuse) | (with_reducible apply kp_islIssue)
    | split

theorem kp_execPaceWindowEnd {z : State} (i : Nat) (beats : Nat) (clk : Bool) (vs : List Nat) (s : State) (hs : Keeps z s) :
    KeepsR z (execPaceWindowEnd i beats clk vs s) := by
  unfold execPaceWindowEnd
  repeat' first
    | (with_reducible assumption) | intro _
    | (extract_lets +onlyGivenNames lv; first | (have hx : Keeps z lv := ?_; generalize lv = w at hx ⊢; clear lv; rotate_left; subst lv) | (generalize lv = w; clear lv) | subst lv)
    | (with_reducible refine KeepsR.next ?_) | (with_reducible apply kp_showIslPace) | (with_reducible apply kp_setF)
    | (with_reducible apply kp_recordCE) | (with_reducible apply kp_raise) | (with_reducible apply kp_relevel) | split
    | (with_reducible exact Keeps.mk (by assumption))

theorem kp_execSensePaceMmClr {z : State} (fn : Nat) (i : Nat) (v : Nat) (s : State) (hs : Keeps z s) :
    KeepsR z (execSensePaceMmClr fn i v s) := by
  unfold execSensePaceMmClr
  repeat' first
    | (with_reducible assumption) | intro _ | (with_reducible apply kp_barWrite) | (with_reducible apply kp_setF) | split
    | (with_reducible refine KeepsR.next ?_) | dsimp only

theorem kp_execCalibrationPeriodic {z : State} (i : Nat) (c : Nat) (s : State) (hs : Keeps z s) :
    KeepsR z (execCalibrationPeriodic i c s) := by
  unfold execCalibrationPeriodic
  repeat' first
    | (with_reducible assumption) | (with_reducible refine KeepsR.next ?_) | (with_reducible apply kp_calDue) | (with_reducible apply kp_waitTill)
    | split

theorem kp_execCalibrationDone {z : State} (i : Nat) (c : Nat) (hold : Nat) (s : State) (hs : Keeps z s) :
    KeepsR z (execCalibrationDone i c hold s) := by
  unfold execCalibrationDone
  repeat' first
    | (with_reducible assumption)
    | (extract_lets +onlyGivenNames lv; first | (have hx : Keeps z lv := ?_; generalize lv = w at hx ⊢; clear lv; rotate_left; subst lv) | (generalize lv = w; clear lv) | subst lv)
    | (with_reducible apply kp_setFails) | (with_reducible apply kp_calRecord) | (with_reducible apply kp_calTry) | (with_reducible apply kp_showCal)
    | (with_reducible apply kp_setCal) | split | (with_reducible refine KeepsR.next ?_) | dsimp only | (with_reducible exact Keeps.mk (by assumption))

theorem kp_execCalibrationTimeout {z : State} (i : Nat) (c : Nat) (s : State) (hs : Keeps z s) :
    KeepsR z (execCalibrationTimeout i c s) := by
  unfold execCalibrationTimeout
  repeat' first
    | (with_reducible assumption) | (with_reducible refine KeepsR.next ?_) | (with_reducible apply kp_calFailed) | (with_reducible apply kp_waitTill)
    | split

theorem kp_execCalRetry {z : State} (i : Nat) (c : Nat) (s : State) (hs : Keeps z s) :
    KeepsR z (execCalRetry i c s) := by
  unfold execCalRetry
  repeat' first
    | (with_reducible assumption)
    | (extract_lets +onlyGivenNames lv; first | (have hx : Keeps z lv := ?_; generalize lv = w at hx ⊢; clear lv; rotate_left; subst lv) | (generalize lv = w; clear lv) | subst lv)
    | (with_reducible refine KeepsR.next ?_) | (with_reducible apply kp_waitTill) | (with_reducible apply kp_calDue)
    | (with_reducible apply kp_setCal) | split | (with_reducible exact Keeps.mk (by assumption))

theorem kp_execChanRetrainDone {z : State} (i : Nat) (c : Nat) (ok : Bool) (hold : Nat) (s : State) (hs : Keeps z s) :
    KeepsR z (execChanRetrainDone i c ok hold s) := by
  unfold execChanRetrainDone
  repeat' first
    | (with_reducible assumption)
    | (extract_lets +onlyGivenNames lv; first | (have hx : Keeps z lv := ?_; generalize lv = w at hx ⊢; clear lv; rotate_left; subst lv) | (generalize lv = w; clear lv) | subst lv)
    | (with_reducible refine KeepsR.next ?_) | (with_reducible apply kp_showRetraining) | (with_reducible apply kp_setCal)
    | (with_reducible apply kp_calTry) | (with_reducible apply kp_calRecord) | (with_reducible apply kp_chanDown) | split
    | (with_reducible exact Keeps.mk (by assumption))

end Sys2Proof.Machine
end

