-- ==== Sys2Proof/Laws/KeepsLife.lean ====
section
/-! SUPPORT. What every operation of Machine/Life.lean keeps. -/
set_option linter.all false

namespace Sys2Proof.Machine

theorem kp_startDenied {z : State} (a : Nat) (st : Nat) (s : State) (hs : Keeps z s) :
    Keeps z (startDenied a st s) := by
  unfold startDenied
  repeat' first
    | (with_reducible assumption) | (with_reducible apply kp_raise) | split | dsimp only

theorem kp_startHook {z : State} (a : Nat) (s : State) (hs : Keeps z s) :
    Keeps z (startHook a s) := by
  unfold startHook
  repeat' first
    | (with_reducible assumption) | intro _ | (with_reducible apply kp_setF) | (with_reducible apply kp_kvRodStart)
    | (with_reducible apply kp_clearRod) | (with_reducible apply kp_createHerd) | (with_reducible apply kp_rlStart)
    | (with_reducible apply kp_vpxZero) | (with_reducible apply Keeps.foldl) | (with_reducible apply Keeps.foldlx)
    | (with_reducible apply Keeps.foldlv) | (with_reducible apply Keeps.foldl2) | (with_reducible apply Keeps.foldl1)
    | (with_reducible apply Keeps.foldl22) | (with_reducible apply Keeps.foldl222) | (with_reducible apply Keeps.foldl2x) | split

theorem kp_enterStarting {z : State} (a : Nat) (s : State) (hs : Keeps z s) :
    Keeps z (enterStarting a s) := by
  unfold enterStarting
  repeat' first
    | (with_reducible assumption) | (with_reducible apply kp_startHook) | (with_reducible apply kp_setState) | (with_reducible apply kp_setLifeX)
    | dsimp only

theorem kp_enterStopping {z : State} (a : Nat) (s : State) (hs : Keeps z s) :
    Keeps z (enterStopping a s) := by
  unfold enterStopping
  repeat' first
    | (with_reducible assumption)
    | (extract_lets +onlyGivenNames lv; first | (have hx : Keeps z lv := ?_; generalize lv = w at hx ⊢; clear lv; rotate_left; subst lv) | (generalize lv = w; clear lv) | subst lv)
    | (with_reducible apply kp_stopWork) | (with_reducible apply kp_setState) | (with_reducible apply kp_setLifeX)
    | (with_reducible apply kp_endHerd) | (with_reducible apply kp_brgDrain) | (with_reducible apply kp_rlDrain) | split

theorem kp_enterDraining {z : State} (a : Nat) (tag : Nat) (dl : Nat) (s : State) (hs : Keeps z s) :
    Keeps z (enterDraining a tag dl s) := by
  unfold enterDraining
  repeat' first
    | (with_reducible assumption)
    | (extract_lets +onlyGivenNames lv; first | (have hx : Keeps z lv := ?_; generalize lv = w at hx ⊢; clear lv; rotate_left; subst lv) | (generalize lv = w; clear lv) | subst lv)
    | (with_reducible apply kp_setState) | (with_reducible apply kp_setLifeX) | (with_reducible apply kp_brgDrain)
    | (with_reducible apply kp_rlDrain) | split

theorem kp_nearer {z : State} (a : Nat) (tag : Nat) (dl : Nat) (s : State) (hs : Keeps z s) :
    Keeps z (nearer a tag dl s) := by
  unfold nearer
  repeat' first
    | (with_reducible assumption)
    | (extract_lets +onlyGivenNames lv; first | (have hx : Keeps z lv := ?_; generalize lv = w at hx ⊢; clear lv; rotate_left; subst lv) | (generalize lv = w; clear lv) | subst lv)
    | (with_reducible apply kp_setLifeX) | split | dsimp only | (with_reducible exact Keeps.mk (by assumption))

theorem kp_shutOne {z : State} (cmd : Nat) (a : Nat) (tag : Nat) (dl : Nat) (s : State) (hs : Keeps z s) :
    Keeps z (shutOne cmd a tag dl s).2 := by
  change KeepsP (fun y : Nat × State => y.2) z _
  unfold shutOne
  repeat' first
    | (with_reducible assumption)
    | (extract_lets +onlyGivenNames lv; first | (have hx : Keeps z lv := ?_; generalize lv = w at hx ⊢; clear lv; rotate_left; subst lv) | (have hx : KeepsP (fun y : _ × State => y.2) z lv := ?_; generalize lv = w at hx ⊢; clear lv; replace hx : Keeps z w.2 := hx; rotate_left; subst lv) | (generalize lv = w; clear lv) | subst lv)
    | (with_reducible apply kp_setLifeX) | (with_reducible apply kp_enterDraining) | (with_reducible apply kp_enterStopping)
    | (with_reducible apply kp_setF) | (with_reducible apply kp_nearer) | split | (with_reducible refine KeepsP.mk ?_; with_reducible assumption)
    | (with_reducible refine KeepsP.p2 ?_) | (with_reducible refine Keeps.of2 (by assumption) ?_) | dsimp only
    | (with_reducible exact Keeps.mk (by assumption))

theorem kp_shut {z : State} (cmd : Nat) (tag : Nat) (dl : Nat) (a : Nat) (a4 : Nat) (a5 : State) (ha5 : Keeps z a5) :
    Keeps z (shut cmd tag dl a a4 a5) := by
  induction a generalizing cmd tag dl a4 a5 with
  | zero => unfold shut; repeat' first
    | (with_reducible assumption) | intro _
    | (extract_lets +onlyGivenNames lv; first | (have hx : Keeps z lv := ?_; generalize lv = w at hx ⊢; clear lv; rotate_left; subst lv) | (have hx : KeepsP (fun y : _ × State => y.2) z lv := ?_; generalize lv = w at hx ⊢; clear lv; replace hx : Keeps z w.2 := hx; rotate_left; subst lv) | (have hx : KeepsP (fun y : State × _ => y.1) z lv := ?_; generalize lv = w at hx ⊢; clear lv; replace hx : Keeps z w.1 := hx; rotate_left; subst lv) | (have hx : KeepsP (fun y : _ × _ × State => y.2.2) z lv := ?_; generalize lv = w at hx ⊢; clear lv; replace hx : Keeps z w.2.2 := hx; rotate_left; subst lv) | (generalize lv = w; clear lv) | subst lv)
    | (with_reducible apply kp_shutOne) | (with_reducible apply kp_lifeDone) | (with_reducible apply Keeps.foldl)
    | (with_reducible apply Keeps.foldlx) | (with_reducible apply Keeps.foldlv) | (with_reducible apply Keeps.foldl2)
    | (with_reducible apply Keeps.foldl1) | (with_reducible apply Keeps.foldl22) | (with_reducible apply Keeps.foldl222)
    | (with_reducible apply Keeps.foldl2x) | split
    | (with_reducible refine KeepsP.mk ?_; with_reducible first | assumption | apply kp_shutOne | apply Keeps.foldlx | apply Keeps.foldlv | apply Keeps.foldl2 | apply Keeps.foldl1 | apply Keeps.foldl22 | apply Keeps.foldl222 | apply Keeps.foldl2x)
    | (with_reducible refine KeepsP.p1 ?_) | (with_reducible refine KeepsP.p2 ?_) | (with_reducible refine KeepsP.p22 ?_)
    | (with_reducible refine Keeps.of2 (by assumption) ?_) | (with_reducible refine Keeps.of1 (by assumption) ?_)
    | (with_reducible refine Keeps.of3 (by assumption) ?_) | dsimp only
  | succ w ih => unfold shut; repeat' first
    | (with_reducible assumption) | intro _
    | (extract_lets +onlyGivenNames lv; first | (have hx : Keeps z lv := ?_; generalize lv = w at hx ⊢; clear lv; rotate_left; subst lv) | (have hx : KeepsP (fun y : _ × State => y.2) z lv := ?_; generalize lv = w at hx ⊢; clear lv; replace hx : Keeps z w.2 := hx; rotate_left; subst lv) | (have hx : KeepsP (fun y : State × _ => y.1) z lv := ?_; generalize lv = w at hx ⊢; clear lv; replace hx : Keeps z w.1 := hx; rotate_left; subst lv) | (have hx : KeepsP (fun y : _ × _ × State => y.2.2) z lv := ?_; generalize lv = w at hx ⊢; clear lv; replace hx : Keeps z w.2.2 := hx; rotate_left; subst lv) | (generalize lv = w; clear lv) | subst lv)
    | (with_reducible apply ih) | (with_reducible apply kp_shutOne) | (with_reducible apply kp_lifeDone) | (with_reducible apply Keeps.foldl)
    | (with_reducible apply Keeps.foldlx) | (with_reducible apply Keeps.foldlv) | (with_reducible apply Keeps.foldl2)
    | (with_reducible apply Keeps.foldl1) | (with_reducible apply Keeps.foldl22) | (with_reducible apply Keeps.foldl222)
    | (with_reducible apply Keeps.foldl2x) | split
    | (with_reducible refine KeepsP.mk ?_; with_reducible first | assumption | apply kp_shutOne | apply Keeps.foldlx | apply Keeps.foldlv | apply Keeps.foldl2 | apply Keeps.foldl1 | apply Keeps.foldl22 | apply Keeps.foldl222 | apply Keeps.foldl2x)
    | (with_reducible refine KeepsP.p1 ?_) | (with_reducible refine KeepsP.p2 ?_) | (with_reducible refine KeepsP.p22 ?_)
    | (with_reducible refine Keeps.of2 (by assumption) ?_) | (with_reducible refine Keeps.of1 (by assumption) ?_)
    | (with_reducible refine Keeps.of3 (by assumption) ?_) | dsimp only

theorem kp_shutNow {z : State} (cmd : Nat) (tag : Nat) (dl : Nat) (a : Nat) (s : State) (hs : Keeps z s) :
    Keeps z (shutNow cmd tag dl a s) := by
  unfold shutNow
  repeat' first
    | (with_reducible assumption) | intro _ | (with_reducible apply kp_shut) | (with_reducible apply kp_shutOne) | (with_reducible apply Keeps.foldl)
    | (with_reducible apply Keeps.foldlx) | (with_reducible apply Keeps.foldlv) | (with_reducible apply Keeps.foldl2)
    | (with_reducible apply Keeps.foldl1) | (with_reducible apply Keeps.foldl22) | (with_reducible apply Keeps.foldl222)
    | (with_reducible apply Keeps.foldl2x) | split
    | (with_reducible refine KeepsP.mk ?_; with_reducible first | assumption | apply kp_shutOne | apply Keeps.foldlx | apply Keeps.foldlv | apply Keeps.foldl2 | apply Keeps.foldl1 | apply Keeps.foldl22 | apply Keeps.foldl222 | apply Keeps.foldl2x)
    | (with_reducible refine KeepsP.p1 ?_) | (with_reducible refine KeepsP.p2 ?_) | (with_reducible refine KeepsP.p22 ?_)
    | (with_reducible refine Keeps.of2 (by assumption) ?_) | (with_reducible refine Keeps.of1 (by assumption) ?_)
    | (with_reducible refine Keeps.of3 (by assumption) ?_)

theorem kp_lifeShut {z : State} (cmd : Nat) (a : Nat) (tag : Nat) (dl : Nat) (s : State) (hs : Keeps z s) :
    Keeps z (lifeShut cmd a tag dl s) := by
  unfold lifeShut
  repeat' first
    | (with_reducible assumption) | (with_reducible apply kp_lifeDone) | (with_reducible apply kp_shut) | split
    | (with_reducible exact Keeps.mk (by assumption))

theorem kp_toOff {z : State} (a : Nat) (s : State) (hs : Keeps z s) :
    Keeps z (toOff a s) := by
  unfold toOff
  repeat' first
    | (with_reducible assumption) | (with_reducible apply kp_setState) | (with_reducible apply kp_lifeReset) | (with_reducible apply kp_setLifeX)
    | dsimp only

theorem kp_clearKids {z : State} (tag : Nat) (a : Nat) (a2 : Nat) (a3 : State) (ha3 : Keeps z a3) :
    Keeps z (clearKids tag a a2 a3) := by
  induction a generalizing tag a2 a3 with
  | zero => unfold clearKids; repeat' first
    | (with_reducible assumption) | intro _ | (with_reducible apply kp_lifeDone) | (with_reducible apply kp_toOff) | (with_reducible apply kp_shut)
    | (with_reducible apply Keeps.foldl) | (with_reducible apply Keeps.foldlx) | (with_reducible apply Keeps.foldlv)
    | (with_reducible apply Keeps.foldl2) | (with_reducible apply Keeps.foldl1) | (with_reducible apply Keeps.foldl22)
    | (with_reducible apply Keeps.foldl222) | (with_reducible apply Keeps.foldl2x) | split
    | (with_reducible refine KeepsP.mk ?_; with_reducible first | assumption | apply Keeps.foldlx | apply Keeps.foldlv | apply Keeps.foldl2 | apply Keeps.foldl1 | apply Keeps.foldl22 | apply Keeps.foldl222 | apply Keeps.foldl2x)
    | (with_reducible refine Keeps.of2 (by assumption) ?_) | (with_reducible refine Keeps.of1 (by assumption) ?_)
    | (with_reducible refine Keeps.of3 (by assumption) ?_) | dsimp only | (with_reducible exact Keeps.mk (by assumption))
  | succ w ih => unfold clearKids; repeat' first
    | (with_reducible assumption) | intro _ | (with_reducible apply ih) | (with_reducible apply kp_lifeDone) | (with_reducible apply kp_toOff)
    | (with_reducible apply kp_shut) | (with_reducible apply Keeps.foldl) | (with_reducible apply Keeps.foldlx) | (with_reducible apply Keeps.foldlv)
    | (with_reducible apply Keeps.foldl2) | (with_reducible apply Keeps.foldl1) | (with_reducible apply Keeps.foldl22)
    | (with_reducible apply Keeps.foldl222) | (with_reducible apply Keeps.foldl2x) | split
    | (with_reducible refine KeepsP.mk ?_; with_reducible first | assumption | apply Keeps.foldlx | apply Keeps.foldlv | apply Keeps.foldl2 | apply Keeps.foldl1 | apply Keeps.foldl22 | apply Keeps.foldl222 | apply Keeps.foldl2x)
    | (with_reducible refine Keeps.of2 (by assumption) ?_) | (with_reducible refine Keeps.of1 (by assumption) ?_)
    | (with_reducible refine Keeps.of3 (by assumption) ?_) | dsimp only | (with_reducible exact Keeps.mk (by assumption))

theorem kp_lifeClear {z : State} (a : Nat) (tag : Nat) (s : State) (hs : Keeps z s) :
    Keeps z (lifeClear a tag s) := by
  unfold lifeClear
  repeat' first
    | (with_reducible assumption)
    | (extract_lets +onlyGivenNames lv; first | (have hx : Keeps z lv := ?_; generalize lv = w at hx ⊢; clear lv; rotate_left; subst lv) | (generalize lv = w; clear lv) | subst lv)
    | (with_reducible apply kp_lifeDone) | (with_reducible apply kp_setLifeX) | (with_reducible apply kp_endHerd)
    | (with_reducible apply kp_clearKids) | (with_reducible apply kp_toOff) | split | dsimp only | (with_reducible exact Keeps.mk (by assumption))

theorem kp_lifeStart {z : State} (a : Nat) (tag : Nat) (s : State) (hs : Keeps z s) :
    Keeps z (lifeStart a tag s) := by
  unfold lifeStart
  repeat' first
    | (with_reducible assumption) | (with_reducible apply kp_lifeDone) | (with_reducible apply kp_startDenied)
    | (with_reducible apply kp_enterStarting) | (with_reducible apply kp_setF) | split

theorem kp_lifeEval {z : State} (cmd : Nat) (a : Nat) (tag : Nat) (dl : Nat) (s : State) (hs : Keeps z s) :
    Keeps z (lifeEval cmd a tag dl s) := by
  unfold lifeEval
  repeat' first
    | (with_reducible assumption)
    | (extract_lets +onlyGivenNames lv; first | (have hx : Keeps z lv := ?_; generalize lv = w at hx ⊢; clear lv; rotate_left; subst lv) | (generalize lv = w; clear lv) | subst lv)
    | (with_reducible apply kp_lifeDone) | (with_reducible apply kp_lifeStart) | (with_reducible apply kp_lifeShut)
    | (with_reducible apply kp_lifeClear) | split | (with_reducible exact Keeps.mk (by assumption))

theorem kp_lifeWrite {z : State} (fn : Nat) (a : Nat) (cmd : Nat) (tag : Nat) (dl : Nat) (s : State) (hs : Keeps z s) :
    Keeps z (lifeWrite fn a cmd tag dl s) := by
  unfold lifeWrite
  repeat' first
    | (with_reducible assumption) | intro _
    | (extract_lets +onlyGivenNames lv; first | (have hx : Keeps z lv := ?_; generalize lv = w at hx ⊢; clear lv; rotate_left; subst lv) | (generalize lv = w; clear lv) | subst lv)
    | (with_reducible apply kp_barWrite) | (with_reducible apply kp_lifeEval) | split | dsimp only | (with_reducible exact Keeps.mk (by assumption))

theorem kp_execLifeNop {z : State} (fn : Nat) (a : Nat) (tag : Nat) (s : State) (hs : Keeps z s) :
    KeepsR z (execLifeNop fn a tag s) := by
  unfold execLifeNop
  repeat' first
    | (with_reducible assumption) | (with_reducible apply kp_lifeWrite) | (with_reducible refine KeepsR.next ?_) | dsimp only

theorem kp_execLifeStart {z : State} (fn : Nat) (a : Nat) (tag : Nat) (s : State) (hs : Keeps z s) :
    KeepsR z (execLifeStart fn a tag s) := by
  unfold execLifeStart
  repeat' first
    | (with_reducible assumption) | (with_reducible apply kp_lifeWrite) | (with_reducible refine KeepsR.next ?_) | dsimp only

theorem kp_execLifeDrain {z : State} (fn : Nat) (a : Nat) (tag : Nat) (dl : Nat) (s : State) (hs : Keeps z s) :
    KeepsR z (execLifeDrain fn a tag dl s) := by
  unfold execLifeDrain
  repeat' first
    | (with_reducible assumption) | (with_reducible apply kp_lifeWrite) | (with_reducible refine KeepsR.next ?_) | dsimp only

theorem kp_execLifeStop {z : State} (fn : Nat) (a : Nat) (tag : Nat) (s : State) (hs : Keeps z s) :
    KeepsR z (execLifeStop fn a tag s) := by
  unfold execLifeStop
  repeat' first
    | (with_reducible assumption) | (with_reducible apply kp_lifeWrite) | (with_reducible refine KeepsR.next ?_) | dsimp only

theorem kp_execLifeClear {z : State} (fn : Nat) (a : Nat) (tag : Nat) (s : State) (hs : Keeps z s) :
    KeepsR z (execLifeClear fn a tag s) := by
  unfold execLifeClear
  repeat' first
    | (with_reducible assumption) | (with_reducible apply kp_lifeWrite) | (with_reducible refine KeepsR.next ?_) | dsimp only

theorem kp_execLifeBadCmd {z : State} (fn : Nat) (a : Nat) (cmd : Nat) (tag : Nat) (s : State) (hs : Keeps z s) :
    KeepsR z (execLifeBadCmd fn a cmd tag s) := by
  unfold execLifeBadCmd
  repeat' first
    | (with_reducible assumption) | (with_reducible apply kp_lifeWrite) | (with_reducible refine KeepsR.next ?_) | dsimp only

theorem kp_readyHook {z : State} (a : Nat) (s : State) (hs : Keeps z s) :
    Keeps z (readyHook a s) := by
  unfold readyHook
  repeat' first
    | (with_reducible assumption) | intro _
    | (extract_lets +onlyGivenNames lv; first | (have hx : Keeps z lv := ?_; generalize lv = w at hx ⊢; clear lv; rotate_left; subst lv) | (have hx : KeepsP (fun y : _ × State => y.2) z lv := ?_; generalize lv = w at hx ⊢; clear lv; replace hx : Keeps z w.2 := hx; rotate_left; subst lv) | (have hx : KeepsP (fun y : State × _ => y.1) z lv := ?_; generalize lv = w at hx ⊢; clear lv; replace hx : Keeps z w.1 := hx; rotate_left; subst lv) | (have hx : KeepsP (fun y : _ × _ × State => y.2.2) z lv := ?_; generalize lv = w at hx ⊢; clear lv; replace hx : Keeps z w.2.2 := hx; rotate_left; subst lv) | (have hfn0 : ∀ y, Keeps z y → Keeps z (lv y) := ?_; generalize lv = w at hfn0 ⊢; clear lv; rotate_left; subst lv) | (have hfn1 : ∀ a y, Keeps z y → Keeps z (lv a y) := ?_; generalize lv = w at hfn1 ⊢; clear lv; rotate_left; subst lv) | (have hfn2 : ∀ a b y, Keeps z y → Keeps z (lv a b y) := ?_; generalize lv = w at hfn2 ⊢; clear lv; rotate_left; subst lv) | (have hfn3 : ∀ a b c y, Keeps z y → Keeps z (lv a b c y) := ?_; generalize lv = w at hfn3 ⊢; clear lv; rotate_left; subst lv) | (have hfn4 : ∀ y a, Keeps z y → Keeps z (lv y a) := ?_; generalize lv = w at hfn4 ⊢; clear lv; rotate_left; subst lv) | (have hfn5 : ∀ a, Keeps z (lv a) := ?_; generalize lv = w at hfn5 ⊢; clear lv; rotate_left; subst lv) | (have hfn6 : ∀ a b, Keeps z (lv a b) := ?_; generalize lv = w at hfn6 ⊢; clear lv; rotate_left; subst lv) | (have hfn7 : ∀ y a b, Keeps z y → Keeps z (lv y a b) := ?_; generalize lv = w at hfn7 ⊢; clear lv; rotate_left; subst lv) | (have hfn8 : ∀ a, KeepsR z (lv a) := ?_; generalize lv = w at hfn8 ⊢; clear lv; rotate_left; subst lv) | (have hfn9 : ∀ y, Keeps z y → KeepsC z (lv y) := ?_; generalize lv = w at hfn9 ⊢; clear lv; rotate_left; subst lv) | (have hfn10 : ∀ y, Keeps z y → KeepsR z (lv y) := ?_; generalize lv = w at hfn10 ⊢; clear lv; rotate_left; subst lv) | (have hfn11 : ∀ a y, Keeps z y → KeepsR z (lv a y) := ?_; generalize lv = w at hfn11 ⊢; clear lv; rotate_left; subst lv) | (have hfn12 : ∀ y a, Keeps z y → KeepsR z (lv y a) := ?_; generalize lv = w at hfn12 ⊢; clear lv; rotate_left; subst lv) | (generalize lv = w; clear lv) | subst lv)
    | (with_reducible apply hfn0) | (with_reducible apply hfn1) | (with_reducible apply hfn2) | (with_reducible apply hfn3)
    | (with_reducible apply hfn4) | (with_reducible apply hfn5) | (with_reducible apply hfn6) | (with_reducible apply hfn7)
    | (with_reducible apply hfn8) | (with_reducible apply hfn9) | (with_reducible apply hfn10) | (with_reducible apply hfn11)
    | (with_reducible apply hfn12) | (with_reducible apply kp_setState) | (with_reducible apply kp_lifeDone) | (with_reducible apply kp_setLifeX)
    | (with_reducible apply kp_setF) | (with_reducible apply kp_hqClear) | (with_reducible apply kp_kvmRebuild) | (with_reducible apply Keeps.foldl)
    | (with_reducible apply Keeps.foldlx) | (with_reducible apply Keeps.foldlv) | (with_reducible apply Keeps.foldl2)
    | (with_reducible apply Keeps.foldl1) | (with_reducible apply Keeps.foldl22) | (with_reducible apply Keeps.foldl222)
    | (with_reducible apply Keeps.foldl2x) | split
    | (with_reducible refine KeepsP.mk ?_; with_reducible first | assumption | apply Keeps.foldlx | apply Keeps.foldlv | apply Keeps.foldl2 | apply Keeps.foldl1 | apply Keeps.foldl22 | apply Keeps.foldl222 | apply Keeps.foldl2x)
    | (with_reducible refine KeepsP.p1 ?_) | (with_reducible refine KeepsP.p2 ?_) | (with_reducible refine KeepsP.p22 ?_)
    | (with_reducible refine Keeps.of2 (by assumption) ?_) | (with_reducible refine Keeps.of1 (by assumption) ?_)
    | (with_reducible refine Keeps.of3 (by assumption) ?_) | dsimp only | (with_reducible exact Keeps.mk (by assumption))

theorem kp_execBlockStartDone {z : State} (a : Nat) (ok : Bool) (code : Nat) (ab : Nat) (ba : Nat) (s : State) (hs : Keeps z s) :
    KeepsR z (execBlockStartDone a ok code ab ba s) := by
  unfold execBlockStartDone
  repeat' first
    | (with_reducible assumption)
    | (extract_lets +onlyGivenNames lv; first | (have hx : Keeps z lv := ?_; generalize lv = w at hx ⊢; clear lv; rotate_left; subst lv) | (generalize lv = w; clear lv) | subst lv)
    | (with_reducible apply kp_relevel) | (with_reducible apply kp_brgStarted) | (with_reducible apply kp_readyHook)
    | (with_reducible apply kp_setState) | (with_reducible apply kp_recordErr) | (with_reducible apply kp_faultBlock)
    | (with_reducible apply kp_failRod) | split | (with_reducible refine KeepsR.next ?_) | dsimp only
    | (with_reducible exact Keeps.mk (by assumption))

theorem kp_execStartAbortSafePoint {z : State} (a : Nat) (s : State) (hs : Keeps z s) :
    KeepsR z (execStartAbortSafePoint a s) := by
  unfold execStartAbortSafePoint
  repeat' first
    | (with_reducible assumption) | (with_reducible apply kp_enterStopping) | split | (with_reducible refine KeepsR.next ?_) | dsimp only

theorem kp_execDrainDone {z : State} (a : Nat) (s : State) (hs : Keeps z s) :
    KeepsR z (execDrainDone a s) := by
  unfold execDrainDone
  repeat' first
    | (with_reducible assumption) | (with_reducible apply kp_enterStopping) | split | (with_reducible refine KeepsR.next ?_) | dsimp only

theorem kp_expire {z : State} (d : Nat) (tag : Nat) (a2 : Nat) (a3 : Nat) (a4 : State) (ha4 : Keeps z a4) :
    Keeps z (expire d tag a2 a3 a4) := by
  induction a2 generalizing d tag a3 a4 with
  | zero => unfold expire; repeat' first
      | (with_reducible assumption) | intro _
      | (extract_lets +onlyGivenNames lv; first | (have hx : Keeps z lv := ?_; generalize lv = w at hx ⊢; clear lv; rotate_left; subst lv) | (generalize lv = w; clear lv) | subst lv)
      | (with_reducible apply kp_lifeDone) | (with_reducible apply kp_enterStopping) | (with_reducible apply kp_shut)
      | (with_reducible apply Keeps.foldl) | (with_reducible apply Keeps.foldlx) | (with_reducible apply Keeps.foldlv)
      | (with_reducible apply Keeps.foldl2) | (with_reducible apply Keeps.foldl1) | (with_reducible apply Keeps.foldl22)
      | (with_reducible apply Keeps.foldl222) | (with_reducible apply Keeps.foldl2x) | split | (with_reducible exact Keeps.mk (by assumption))
  | succ w ih => unfold expire; repeat' first
      | (with_reducible assumption) | intro _
      | (extract_lets +onlyGivenNames lv; first | (have hx : Keeps z lv := ?_; generalize lv = w at hx ⊢; clear lv; rotate_left; subst lv) | (generalize lv = w; clear lv) | subst lv)
      | (with_reducible apply ih) | (with_reducible apply kp_lifeDone) | (with_reducible apply kp_enterStopping) | (with_reducible apply kp_shut)
      | (with_reducible apply Keeps.foldl) | (with_reducible apply Keeps.foldlx) | (with_reducible apply Keeps.foldlv)
      | (with_reducible apply Keeps.foldl2) | (with_reducible apply Keeps.foldl1) | (with_reducible apply Keeps.foldl22)
      | (with_reducible apply Keeps.foldl222) | (with_reducible apply Keeps.foldl2x) | split | (with_reducible exact Keeps.mk (by assumption))

theorem kp_execDrainDeadlineExpiry {z : State} (a : Nat) (s : State) (hs : Keeps z s) :
    KeepsR z (execDrainDeadlineExpiry a s) := by
  unfold execDrainDeadlineExpiry
  repeat' first
    | (with_reducible assumption)
    | (extract_lets +onlyGivenNames lv; first | (have hx : Keeps z lv := ?_; generalize lv = w at hx ⊢; clear lv; rotate_left; subst lv) | (generalize lv = w; clear lv) | subst lv)
    | (with_reducible refine KeepsR.next ?_) | (with_reducible apply kp_waitTill) | (with_reducible apply kp_expire)
    | (with_reducible apply kp_lifeDone) | (with_reducible apply kp_enterStopping) | split

theorem kp_pendingStart {z : State} (a : Nat) (s : State) (hs : Keeps z s) :
    Keeps z (pendingStart a s) := by
  unfold pendingStart
  repeat' first
    | (with_reducible assumption)
    | (extract_lets +onlyGivenNames lv; first | (have hx : Keeps z lv := ?_; generalize lv = w at hx ⊢; clear lv; rotate_left; subst lv) | (generalize lv = w; clear lv) | subst lv)
    | (with_reducible apply kp_setF) | (with_reducible apply kp_raise) | (with_reducible apply kp_startDenied)
    | (with_reducible apply kp_enterStarting) | split | dsimp only | (with_reducible exact Keeps.mk (by assumption))

theorem kp_herdOff {z : State} (n : Nat) (s : State) (hs : Keeps z s) :
    Keeps z (herdOff n s) := by
  unfold herdOff
  repeat' first
    | (with_reducible assumption)
    | (extract_lets +onlyGivenNames lv; first | (have hx : Keeps z lv := ?_; generalize lv = w at hx ⊢; clear lv; rotate_left; subst lv) | (generalize lv = w; clear lv) | subst lv)
    | (with_reducible apply kp_destroyHerd) | (with_reducible apply kp_flrPage) | (with_reducible apply kp_relevel)
    | (with_reducible apply kp_showHerds) | split | dsimp only | (with_reducible exact Keeps.mk (by assumption))

theorem kp_execBlockReachesOff {z : State} (a : Nat) (s : State) (hs : Keeps z s) :
    KeepsR z (execBlockReachesOff a s) := by
  unfold execBlockReachesOff
  repeat' first
    | (with_reducible assumption)
    | (extract_lets +onlyGivenNames lv; first | (have hx : Keeps z lv := ?_; generalize lv = w at hx ⊢; clear lv; rotate_left; subst lv) | (generalize lv = w; clear lv) | subst lv)
    | (with_reducible apply kp_lifeReset) | (with_reducible apply kp_setLifeX) | (with_reducible apply kp_herdOff)
    | (with_reducible apply kp_setState) | (with_reducible apply kp_relevel) | (with_reducible apply kp_checkBridge)
    | (with_reducible apply kp_pendingStart) | split | (with_reducible refine KeepsR.next ?_) | dsimp only
    | (with_reducible exact Keeps.mk (by assumption))

theorem kp_execOffSelftestFail {z : State} (a : Nat) (code : Nat) (s : State) (hs : Keeps z s) :
    KeepsR z (execOffSelftestFail a code s) := by
  unfold execOffSelftestFail
  repeat' first
    | (with_reducible assumption) | (with_reducible refine KeepsR.next ?_) | (with_reducible apply kp_showHerds)
    | (with_reducible apply kp_faultBlock) | split

theorem kp_execResized {z : State} (n : Nat) (s : State) (hs : Keeps z s) :
    KeepsR z (execResized n s) := by
  unfold execResized
  repeat' first
    | (with_reducible assumption)
    | (extract_lets +onlyGivenNames lv; first | (have hx : Keeps z lv := ?_; generalize lv = w at hx ⊢; clear lv; rotate_left; subst lv) | (generalize lv = w; clear lv) | subst lv)
    | (with_reducible refine KeepsR.next ?_) | (with_reducible apply kp_applyResize) | (with_reducible apply kp_raise)
    | (with_reducible apply kp_setF) | (with_reducible apply kp_shutNow) | split | (with_reducible exact Keeps.mk (by assumption))

theorem kp_execPgLockSet {z : State} (fn : Nat) (p : Nat) (v : Nat) (s : State) (hs : Keeps z s) :
    KeepsR z (execPgLockSet fn p v s) := by
  unfold execPgLockSet
  repeat' first
    | (with_reducible assumption) | intro _
    | (extract_lets +onlyGivenNames lv; first | (have hx : Keeps z lv := ?_; generalize lv = w at hx ⊢; clear lv; rotate_left; subst lv) | (generalize lv = w; clear lv) | subst lv)
    | (with_reducible apply kp_barWrite) | (with_reducible apply kp_writeReg) | (with_reducible refine KeepsR.next ?_) | dsimp only

theorem kp_execPgEvtClear {z : State} (fn : Nat) (p : Nat) (v : Nat) (s : State) (hs : Keeps z s) :
    KeepsR z (execPgEvtClear fn p v s) := by
  unfold execPgEvtClear
  repeat' first
    | (with_reducible assumption) | intro _
    | (extract_lets +onlyGivenNames lv; first | (have hx : Keeps z lv := ?_; generalize lv = w at hx ⊢; clear lv; rotate_left; subst lv) | (generalize lv = w; clear lv) | subst lv)
    | (with_reducible apply kp_barWrite) | (with_reducible apply kp_dropHeldIfClear) | (with_reducible apply kp_writeReg)
    | (with_reducible refine KeepsR.next ?_) | dsimp only

theorem kp_execPgEvtEnWrite {z : State} (fn : Nat) (p : Nat) (v : Nat) (s : State) (hs : Keeps z s) :
    KeepsR z (execPgEvtEnWrite fn p v s) := by
  unfold execPgEvtEnWrite
  repeat' first
    | (with_reducible assumption) | intro _
    | (extract_lets +onlyGivenNames lv; first | (have hx : Keeps z lv := ?_; generalize lv = w at hx ⊢; clear lv; rotate_left; subst lv) | (generalize lv = w; clear lv) | subst lv)
    | (with_reducible apply kp_barWrite) | (with_reducible apply kp_writeReg) | (with_reducible apply kp_deliver)
    | (with_reducible apply kp_dropHeldIfClear) | split | (with_reducible refine KeepsR.next ?_) | dsimp only

theorem kp_execPgEvtRouteWrite {z : State} (fn : Nat) (p : Nat) (v : Nat) (s : State) (hs : Keeps z s) :
    KeepsR z (execPgEvtRouteWrite fn p v s) := by
  unfold execPgEvtRouteWrite
  repeat' first
    | (with_reducible assumption) | intro _
    | (extract_lets +onlyGivenNames lv; first | (have hx : Keeps z lv := ?_; generalize lv = w at hx ⊢; clear lv; rotate_left; subst lv) | (generalize lv = w; clear lv) | subst lv)
    | (with_reducible apply kp_barWrite) | (with_reducible apply kp_raise) | (with_reducible apply kp_writeReg) | split
    | (with_reducible refine KeepsR.next ?_) | dsimp only | (with_reducible exact Keeps.mk (by assumption))

theorem kp_execNotifyRodHeldSend {z : State} (p : Nat) (s : State) (hs : Keeps z s) :
    KeepsR z (execNotifyRodHeldSend p s) := by
  unfold execNotifyRodHeldSend
  repeat' first
    | (with_reducible assumption) | intro _
    | (extract_lets +onlyGivenNames lv; first | (have hx : Keeps z lv := ?_; generalize lv = w at hx ⊢; clear lv; rotate_left; subst lv) | (have hfn0 : ∀ y, Keeps z y → Keeps z (lv y) := ?_; generalize lv = w at hfn0 ⊢; clear lv; rotate_left; subst lv) | (have hfn1 : ∀ a y, Keeps z y → Keeps z (lv a y) := ?_; generalize lv = w at hfn1 ⊢; clear lv; rotate_left; subst lv) | (have hfn2 : ∀ a b y, Keeps z y → Keeps z (lv a b y) := ?_; generalize lv = w at hfn2 ⊢; clear lv; rotate_left; subst lv) | (have hfn3 : ∀ a b c y, Keeps z y → Keeps z (lv a b c y) := ?_; generalize lv = w at hfn3 ⊢; clear lv; rotate_left; subst lv) | (have hfn4 : ∀ y a, Keeps z y → Keeps z (lv y a) := ?_; generalize lv = w at hfn4 ⊢; clear lv; rotate_left; subst lv) | (have hfn5 : ∀ a, Keeps z (lv a) := ?_; generalize lv = w at hfn5 ⊢; clear lv; rotate_left; subst lv) | (have hfn6 : ∀ a b, Keeps z (lv a b) := ?_; generalize lv = w at hfn6 ⊢; clear lv; rotate_left; subst lv) | (have hfn7 : ∀ y a b, Keeps z y → Keeps z (lv y a b) := ?_; generalize lv = w at hfn7 ⊢; clear lv; rotate_left; subst lv) | (have hfn8 : ∀ a, KeepsR z (lv a) := ?_; generalize lv = w at hfn8 ⊢; clear lv; rotate_left; subst lv) | (have hfn9 : ∀ y, Keeps z y → KeepsC z (lv y) := ?_; generalize lv = w at hfn9 ⊢; clear lv; rotate_left; subst lv) | (have hfn10 : ∀ y, Keeps z y → KeepsR z (lv y) := ?_; generalize lv = w at hfn10 ⊢; clear lv; rotate_left; subst lv) | (have hfn11 : ∀ a y, Keeps z y → KeepsR z (lv a y) := ?_; generalize lv = w at hfn11 ⊢; clear lv; rotate_left; subst lv) | (have hfn12 : ∀ y a, Keeps z y → KeepsR z (lv y a) := ?_; generalize lv = w at hfn12 ⊢; clear lv; rotate_left; subst lv) | (generalize lv = w; clear lv) | subst lv)
    | (with_reducible apply hfn0) | (with_reducible apply hfn1) | (with_reducible apply hfn2) | (with_reducible apply hfn3)
    | (with_reducible apply hfn4) | (with_reducible apply hfn5) | (with_reducible apply hfn6) | (with_reducible apply hfn7)
    | (with_reducible apply hfn8) | (with_reducible apply hfn9) | (with_reducible apply hfn10) | (with_reducible apply hfn11)
    | (with_reducible apply hfn12) | (with_reducible apply kp_sendItem) | split | (with_reducible refine KeepsR.next ?_) | dsimp only
    | (with_reducible exact Keeps.mk (by assumption))

theorem kp_execPgErrFirstClear {z : State} (fn : Nat) (p : Nat) (v : Nat) (s : State) (hs : Keeps z s) :
    KeepsR z (execPgErrFirstClear fn p v s) := by
  unfold execPgErrFirstClear
  repeat' first
    | (with_reducible assumption) | intro _
    | (extract_lets +onlyGivenNames lv; first | (have hx : Keeps z lv := ?_; generalize lv = w at hx ⊢; clear lv; rotate_left; subst lv) | (generalize lv = w; clear lv) | subst lv)
    | (with_reducible apply kp_barWrite) | (with_reducible apply kp_clearFirst) | split | (with_reducible refine KeepsR.next ?_) | dsimp only

theorem kp_execPgErrCntClr {z : State} (fn : Nat) (p : Nat) (v : Nat) (s : State) (hs : Keeps z s) :
    KeepsR z (execPgErrCntClr fn p v s) := by
  unfold execPgErrCntClr
  repeat' first
    | (with_reducible assumption) | intro _
    | (extract_lets +onlyGivenNames lv; first | (have hx : Keeps z lv := ?_; generalize lv = w at hx ⊢; clear lv; rotate_left; subst lv) | (generalize lv = w; clear lv) | subst lv)
    | (with_reducible apply kp_barWrite) | (with_reducible apply kp_writeReg) | (with_reducible apply kp_setF) | split
    | (with_reducible refine KeepsR.next ?_) | dsimp only

theorem kp_execPgOwnerWrite {z : State} (fn : Nat) (p : Nat) (s : State) (hs : Keeps z s) :
    KeepsR z (execPgOwnerWrite fn p s) := by
  unfold execPgOwnerWrite
  repeat' first
    | (with_reducible assumption) | intro _
    | (extract_lets +onlyGivenNames lv; first | (have hx : Keeps z lv := ?_; generalize lv = w at hx ⊢; clear lv; rotate_left; subst lv) | (generalize lv = w; clear lv) | subst lv)
    | (with_reducible apply kp_barWrite) | (with_reducible apply kp_raise) | (with_reducible refine KeepsR.next ?_) | dsimp only

theorem kp_accessTimeout {z : State} (fn : Nat) (a : Nat) (s : State) (hs : Keeps z s) :
    Keeps z (accessTimeout fn a s) := by
  unfold accessTimeout
  repeat' first
    | (with_reducible assumption) | (with_reducible apply kp_recordCE) | (with_reducible apply kp_raise) | dsimp only

theorem kp_execBar0ReadTimeout {z : State} (fn : Nat) (a : Nat) (len : Nat) (s : State) (hs : Keeps z s) :
    KeepsR z (execBar0ReadTimeout fn a len s) := by
  unfold execBar0ReadTimeout
  repeat' first
    | (with_reducible assumption) | (with_reducible refine KeepsR.next ?_) | (with_reducible apply kp_accessTimeout) | (with_reducible apply kp_emit)

theorem kp_execBar0WriteTimeout {z : State} (fn : Nat) (a : Nat) (s : State) (hs : Keeps z s) :
    KeepsR z (execBar0WriteTimeout fn a s) := by
  unfold execBar0WriteTimeout
  repeat' first
    | (with_reducible assumption) | (with_reducible apply kp_accessTimeout) | (with_reducible refine KeepsR.next ?_) | dsimp only

theorem kp_rowBad {z : State} (i : Nat) (row : Nat) (num : Nat) (s : State) (hs : Keeps z s) :
    Keeps z (rowBad i row num s) := by
  unfold rowBad
  repeat' first
    | (with_reducible assumption) | intro _
    | (extract_lets +onlyGivenNames lv; first | (have hx : Keeps z lv := ?_; generalize lv = w at hx ⊢; clear lv; rotate_left; subst lv) | (have hx : KeepsP (fun y : _ × State => y.2) z lv := ?_; generalize lv = w at hx ⊢; clear lv; replace hx : Keeps z w.2 := hx; rotate_left; subst lv) | (have hx : KeepsP (fun y : State × _ => y.1) z lv := ?_; generalize lv = w at hx ⊢; clear lv; replace hx : Keeps z w.1 := hx; rotate_left; subst lv) | (have hx : KeepsP (fun y : _ × _ × State => y.2.2) z lv := ?_; generalize lv = w at hx ⊢; clear lv; replace hx : Keeps z w.2.2 := hx; rotate_left; subst lv) | (have hv : KeepsP (fun y : _ × Kx => y.2.s) z lv := ?_; obtain ⟨w, e, hx⟩ : ∃ w, w = lv ∧ KeepsP (fun y : _ × Kx => y.2.s) z w := ⟨lv, rfl, hv⟩; try rw [← e]; clear e hv lv; replace hx : Keeps z w.2.s := hx; rotate_left; subst lv) | (have hv : KeepsP (fun y : Kx => y.s) z lv := ?_; obtain ⟨w, e, hx⟩ : ∃ w, w = lv ∧ KeepsP (fun y : Kx => y.s) z w := ⟨lv, rfl, hv⟩; try rw [← e]; clear e hv lv; replace hx : Keeps z w.s := hx; rotate_left; subst lv) | (have hv : KeepsP (fun y : VIo => y.s) z lv := ?_; obtain ⟨w, e, hx⟩ : ∃ w, w = lv ∧ KeepsP (fun y : VIo => y.s) z w := ⟨lv, rfl, hv⟩; try rw [← e]; clear e hv lv; replace hx : Keeps z w.s := hx; rotate_left; subst lv) | (have hv : KeepsP (fun y : EncIn => y.io.s) z lv := ?_; obtain ⟨w, e, hx⟩ : ∃ w, w = lv ∧ KeepsP (fun y : EncIn => y.io.s) z w := ⟨lv, rfl, hv⟩; try rw [← e]; clear e hv lv; replace hx : Keeps z w.io.s := hx; rotate_left; subst lv) | (have hv : KeepsP (fun y : VIo × _ => y.1.s) z lv := ?_; obtain ⟨w, e, hx⟩ : ∃ w, w = lv ∧ KeepsP (fun y : VIo × _ => y.1.s) z w := ⟨lv, rfl, hv⟩; try rw [← e]; clear e hv lv; replace hx : Keeps z w.1.s := hx; rotate_left; subst lv) | (generalize lv = w; clear lv) | subst lv)
    | (with_reducible apply kp_markDone) | (with_reducible apply kp_raise) | (with_reducible apply kp_Kx_status) | (with_reducible apply Keeps.foldl)
    | (with_reducible apply Keeps.foldlx) | (with_reducible apply Keeps.foldlv) | (with_reducible apply Keeps.foldl2)
    | (with_reducible apply Keeps.foldl1) | (with_reducible apply Keeps.foldl22) | (with_reducible apply Keeps.foldl222)
    | (with_reducible apply Keeps.foldl2x) | split
    | (with_reducible refine KeepsP.mk ?_; with_reducible first | assumption | apply kp_Kx_status | apply Keeps.foldlx | apply Keeps.foldlv | apply Keeps.foldl2 | apply Keeps.foldl1 | apply Keeps.foldl22 | apply Keeps.foldl222 | apply Keeps.foldl2x)
    | (with_reducible refine KeepsP.p1 ?_) | (with_reducible refine KeepsP.p2 ?_) | (with_reducible refine KeepsP.p22 ?_)
    | (with_reducible refine KeepsP.kx ?_) | (with_reducible refine KeepsP.p2x ?_) | (with_reducible refine Keeps.of2x (by assumption) ?_)
    | (with_reducible refine KeepsP.vio1 ?_) | (with_reducible refine KeepsP.encin ?_) | (with_reducible refine KeepsP.vio ?_)
    | (with_reducible refine Keeps.of1v (by assumption) ?_) | (with_reducible refine Keeps.of2 (by assumption) ?_)
    | (with_reducible refine Keeps.of1 (by assumption) ?_) | (with_reducible refine Keeps.of3 (by assumption) ?_)
    | (with_reducible exact Keeps.mk (by assumption))

theorem kp_vchunkBad {z : State} (i : Nat) (detail : Nat) (s : State) (hs : Keeps z s) :
    Keeps z (vchunkBad i detail s) := by
  unfold vchunkBad
  repeat' first
    | (with_reducible assumption) | intro _
    | (extract_lets +onlyGivenNames lv; first | (have hx : Keeps z lv := ?_; generalize lv = w at hx ⊢; clear lv; rotate_left; subst lv) | (generalize lv = w; clear lv) | subst lv)
    | (with_reducible apply Keeps.foldl) | (with_reducible apply Keeps.foldlx) | (with_reducible apply Keeps.foldlv)
    | (with_reducible apply Keeps.foldl2) | (with_reducible apply Keeps.foldl1) | (with_reducible apply Keeps.foldl22)
    | (with_reducible apply Keeps.foldl222) | (with_reducible apply Keeps.foldl2x) | split | (with_reducible exact Keeps.mk (by assumption))

theorem kp_parityEffect {z : State} (code : Nat) (i : Nat) (detail : Nat) (x : Nat) (s : State) (hs : Keeps z s) :
    Keeps z (parityEffect code i detail x s) := by
  unfold parityEffect
  repeat' first
    | (with_reducible assumption) | intro _
    | (extract_lets +onlyGivenNames lv; first | (have hx : Keeps z lv := ?_; generalize lv = w at hx ⊢; clear lv; rotate_left; subst lv) | (have hfn0 : ∀ y, Keeps z y → Keeps z (lv y) := ?_; generalize lv = w at hfn0 ⊢; clear lv; rotate_left; subst lv) | (have hfn1 : ∀ a y, Keeps z y → Keeps z (lv a y) := ?_; generalize lv = w at hfn1 ⊢; clear lv; rotate_left; subst lv) | (have hfn2 : ∀ a b y, Keeps z y → Keeps z (lv a b y) := ?_; generalize lv = w at hfn2 ⊢; clear lv; rotate_left; subst lv) | (have hfn3 : ∀ a b c y, Keeps z y → Keeps z (lv a b c y) := ?_; generalize lv = w at hfn3 ⊢; clear lv; rotate_left; subst lv) | (have hfn4 : ∀ y a, Keeps z y → Keeps z (lv y a) := ?_; generalize lv = w at hfn4 ⊢; clear lv; rotate_left; subst lv) | (have hfn5 : ∀ a, Keeps z (lv a) := ?_; generalize lv = w at hfn5 ⊢; clear lv; rotate_left; subst lv) | (have hfn6 : ∀ a b, Keeps z (lv a b) := ?_; generalize lv = w at hfn6 ⊢; clear lv; rotate_left; subst lv) | (have hfn7 : ∀ y a b, Keeps z y → Keeps z (lv y a b) := ?_; generalize lv = w at hfn7 ⊢; clear lv; rotate_left; subst lv) | (have hfn8 : ∀ a, KeepsR z (lv a) := ?_; generalize lv = w at hfn8 ⊢; clear lv; rotate_left; subst lv) | (have hfn9 : ∀ y, Keeps z y → KeepsC z (lv y) := ?_; generalize lv = w at hfn9 ⊢; clear lv; rotate_left; subst lv) | (have hfn10 : ∀ y, Keeps z y → KeepsR z (lv y) := ?_; generalize lv = w at hfn10 ⊢; clear lv; rotate_left; subst lv) | (have hfn11 : ∀ a y, Keeps z y → KeepsR z (lv a y) := ?_; generalize lv = w at hfn11 ⊢; clear lv; rotate_left; subst lv) | (have hfn12 : ∀ y a, Keeps z y → KeepsR z (lv y a) := ?_; generalize lv = w at hfn12 ⊢; clear lv; rotate_left; subst lv) | (generalize lv = w; clear lv) | subst lv)
    | (with_reducible apply hfn0) | (with_reducible apply hfn1) | (with_reducible apply hfn2) | (with_reducible apply hfn3)
    | (with_reducible apply hfn4) | (with_reducible apply hfn5) | (with_reducible apply hfn6) | (with_reducible apply hfn7)
    | (with_reducible apply hfn8) | (with_reducible apply hfn9) | (with_reducible apply hfn10) | (with_reducible apply hfn11)
    | (with_reducible apply hfn12) | (with_reducible apply kp_setSeq) | (with_reducible apply kp_rowBad) | (with_reducible apply kp_vchunkBad)
    | (with_reducible apply kp_fillPage) | (with_reducible apply kp_setBead) | (with_reducible apply kp_dirtySectorBad)
    | (with_reducible apply kp_setXl) | (with_reducible apply kp_kvLose) | (with_reducible apply kp_emit) | (with_reducible apply kp_synBad)
    | (with_reducible apply kp_setWin) | (with_reducible apply kp_lineBad) | (with_reducible refine Keeps.getD ?_ ?_) | split
    | (with_reducible exact Keeps.mk (by assumption))

theorem kp_parityFault {z : State} (p : Nat) (code : Nat) (detail : Nat) (loc : Nat) (x : Nat) (s : State) (hs : Keeps z s) :
    Keeps z (parityFault p code detail loc x s) := by
  unfold parityFault
  repeat' first
    | (with_reducible assumption) | intro _
    | (extract_lets +onlyGivenNames lv; first | (have hx : Keeps z lv := ?_; generalize lv = w at hx ⊢; clear lv; rotate_left; subst lv) | (generalize lv = w; clear lv) | subst lv)
    | (with_reducible apply kp_recordWith) | (with_reducible apply kp_dropPacket) | (with_reducible apply kp_errBlock)
    | (with_reducible apply kp_recordErr) | (with_reducible apply Keeps.foldl) | (with_reducible apply Keeps.foldlx)
    | (with_reducible apply Keeps.foldlv) | (with_reducible apply Keeps.foldl2) | (with_reducible apply Keeps.foldl1)
    | (with_reducible apply Keeps.foldl22) | (with_reducible apply Keeps.foldl222) | (with_reducible apply Keeps.foldl2x) | split
    | (with_reducible exact Keeps.mk (by assumption))

theorem kp_execControlParityError {z : State} (p : Nat) (code : Nat) (detail : Nat) (loc : Nat) (x : Nat) (s : State) (hs : Keeps z s) :
    KeepsR z (execControlParityError p code detail loc x s) := by
  unfold execControlParityError
  repeat' first
    | (with_reducible assumption)
    | (extract_lets +onlyGivenNames lv; first | (have hx : Keeps z lv := ?_; generalize lv = w at hx ⊢; clear lv; rotate_left; subst lv) | (have hx : KeepsP (fun y : _ × State => y.2) z lv := ?_; generalize lv = w at hx ⊢; clear lv; replace hx : Keeps z w.2 := hx; rotate_left; subst lv) | (generalize lv = w; clear lv) | subst lv)
    | (with_reducible refine KeepsR.next ?_) | (with_reducible apply kp_recordCE) | (with_reducible apply kp_parityFault)
    | (with_reducible apply kp_spadSeen) | (with_reducible apply kp_laneFailed) | (with_reducible apply kp_accSeen)
    | (with_reducible apply kp_recordErr) | (with_reducible apply kp_parityEffect) | (with_reducible apply kp_nextMsg)
    | (with_reducible apply kp_toManager) | (with_reducible apply kp_pumpWait) | (with_reducible apply kp_portEvent)
    | (with_reducible apply kp_relevel) | (with_reducible apply kp_checkBridge) | (with_reducible apply kp_moveGroups) | split
    | (with_reducible refine KeepsP.mk ?_; with_reducible first | assumption | apply kp_nextMsg) | (with_reducible refine KeepsP.p1 ?_)
    | (with_reducible refine KeepsP.p2 ?_) | (with_reducible refine KeepsP.p22 ?_) | (with_reducible refine Keeps.of2 (by assumption) ?_)
    | (with_reducible refine Keeps.of1 (by assumption) ?_) | (with_reducible refine Keeps.of3 (by assumption) ?_)
    | (with_reducible exact Keeps.mk (by assumption))

end Sys2Proof.Machine
end

