-- ==== Sys2Proof/Laws/KeepsMgs.lean ====
section
/-! SUPPORT. What every operation of Machine/Mgs.lean keeps. -/
set_option linter.all false

namespace Sys2Proof.Machine

theorem kp_execMbCmd {z : State} (fn : Nat) (f : Nat) (v : Nat) (s : State) (hs : Keeps z s) :
    KeepsR z (execMbCmd fn f v s) := by
  unfold execMbCmd
  repeat' first
    | (with_reducible assumption) | intro _
    | (extract_lets +onlyGivenNames lv; first | (have hx : Keeps z lv := ?_; generalize lv = w at hx ⊢; clear lv; rotate_left; subst lv) | (generalize lv = w; clear lv) | subst lv)
    | (with_reducible apply kp_barWrite) | (with_reducible apply kp_raise) | (with_reducible apply kp_setF) | (with_reducible apply kp_setMgs) | split
    | (with_reducible refine KeepsR.next ?_) | dsimp only | (with_reducible exact Keeps.mk (by assumption))

theorem kp_mbDone {z : State} (r : MbReq) (st : Nat) (resp : List Byte) (s : State) (hs : Keeps z s) :
    Keeps z (mbDone r st resp s) := by
  unfold mbDone
  repeat' first
    | (with_reducible assumption) | intro _
    | (extract_lets +onlyGivenNames lv; first | (have hx : Keeps z lv := ?_; generalize lv = w at hx ⊢; clear lv; rotate_left; subst lv) | (have hx : KeepsP (fun y : _ × State => y.2) z lv := ?_; generalize lv = w at hx ⊢; clear lv; replace hx : Keeps z w.2 := hx; rotate_left; subst lv) | (have hx : KeepsP (fun y : State × _ => y.1) z lv := ?_; generalize lv = w at hx ⊢; clear lv; replace hx : Keeps z w.1 := hx; rotate_left; subst lv) | (have hx : KeepsP (fun y : _ × _ × State => y.2.2) z lv := ?_; generalize lv = w at hx ⊢; clear lv; replace hx : Keeps z w.2.2 := hx; rotate_left; subst lv) | (generalize lv = w; clear lv) | subst lv)
    | (with_reducible apply kp_wrW) | (with_reducible apply kp_raise) | (with_reducible apply kp_emit) | (with_reducible apply Keeps.foldl)
    | (with_reducible apply Keeps.foldlx) | (with_reducible apply Keeps.foldlv) | (with_reducible apply Keeps.foldl2)
    | (with_reducible apply Keeps.foldl1) | (with_reducible apply Keeps.foldl22) | (with_reducible apply Keeps.foldl222)
    | (with_reducible apply Keeps.foldl2x) | split
    | (with_reducible refine KeepsP.mk ?_; with_reducible first | assumption | apply Keeps.foldlx | apply Keeps.foldlv | apply Keeps.foldl2 | apply Keeps.foldl1 | apply Keeps.foldl22 | apply Keeps.foldl222 | apply Keeps.foldl2x)
    | (with_reducible refine KeepsP.p1 ?_) | (with_reducible refine KeepsP.p2 ?_) | (with_reducible refine KeepsP.p22 ?_)
    | (with_reducible refine Keeps.of2 (by assumption) ?_) | (with_reducible refine Keeps.of1 (by assumption) ?_)
    | (with_reducible refine Keeps.of3 (by assumption) ?_) | dsimp only

theorem kp_xspiAnswered {z : State} (op : Nat) (st : Nat) (s : State) (hs : Keeps z s) :
    Keeps z (xspiAnswered op st s) := by
  unfold xspiAnswered
  repeat' first
    | (with_reducible assumption) | (with_reducible apply kp_setMgs) | split | (with_reducible exact Keeps.mk (by assumption))

theorem kp_mbRun {z : State} (op : Nat → Bool) (f : MbReq → State → Nat × List Byte × State) (s : State) (hf : ∀ b0 y0, Keeps z y0 → Keeps z (f b0 y0).2.2) (hs : Keeps z s) :
    Keeps z (mbRun op f s) := by
  unfold mbRun
  repeat' first
    | (with_reducible assumption) | intro _
    | (extract_lets +onlyGivenNames lv; first | (have hx : Keeps z lv := ?_; generalize lv = w at hx ⊢; clear lv; rotate_left; subst lv) | (have hx : KeepsP (fun y : _ × State => y.2) z lv := ?_; generalize lv = w at hx ⊢; clear lv; replace hx : Keeps z w.2 := hx; rotate_left; subst lv) | (have hx : KeepsP (fun y : State × _ => y.1) z lv := ?_; generalize lv = w at hx ⊢; clear lv; replace hx : Keeps z w.1 := hx; rotate_left; subst lv) | (have hx : KeepsP (fun y : _ × _ × State => y.2.2) z lv := ?_; generalize lv = w at hx ⊢; clear lv; replace hx : Keeps z w.2.2 := hx; rotate_left; subst lv) | (have hx : KeepsC z lv := ?_; generalize lv = w at hx ⊢; clear lv; rotate_left; subst lv) | (have hx : KeepsO z lv := ?_; generalize lv = w at hx ⊢; clear lv; rotate_left; subst lv) | (have hx : KeepsR z lv := ?_; generalize lv = w at hx ⊢; clear lv; rotate_left; subst lv) | (generalize lv = w; clear lv) | subst lv)
    | (with_reducible apply hf) | (with_reducible refine KeepsP.mk ?_; with_reducible apply hf) | (with_reducible apply kp_setMgs)
    | (with_reducible apply kp_mbDone) | (with_reducible apply kp_xspiAnswered) | split
    | (with_reducible refine KeepsP.mk ?_; with_reducible first | assumption) | (with_reducible refine KeepsP.p1 ?_)
    | (with_reducible refine KeepsP.p2 ?_) | (with_reducible refine KeepsP.p22 ?_) | (with_reducible refine KeepsP.p222 ?_)
    | (with_reducible refine Keeps.of2 (by assumption) ?_) | (with_reducible refine Keeps.of1 (by assumption) ?_)
    | (with_reducible refine Keeps.of3 (by assumption) ?_) | (with_reducible refine Keeps.of4 (by assumption) ?_)
    | (with_reducible refine Keeps.ofC (by assumption) ?_) | (with_reducible refine Keeps.ofO (by assumption) ?_)
    | (with_reducible refine Keeps.ofR (by assumption) ?_) | dsimp only | (with_reducible exact Keeps.mk (by assumption))

theorem kp_mbFail {z : State} (st : Nat) (s : State) (hs : Keeps z s) :
    Keeps z (mbFail st s).2.2 := by
  change KeepsP (fun y : Nat × List Byte × State => y.2.2) z _
  unfold mbFail
  repeat' first
    | (with_reducible assumption) | (with_reducible refine KeepsP.mk ?_; with_reducible assumption) | (with_reducible refine KeepsP.p22 ?_)
    | (with_reducible refine Keeps.of3 (by assumption) ?_) | dsimp only

theorem kp_execMbNop {z : State} (s : State) (hs : Keeps z s) :
    KeepsR z (execMbNop s) := by
  unfold execMbNop
  repeat' first
    | (with_reducible assumption) | intro _ | (with_reducible apply kp_mbRun) | (with_reducible refine KeepsR.next ?_) | dsimp only

theorem kp_execMbBadOpcode {z : State} (s : State) (hs : Keeps z s) :
    KeepsR z (execMbBadOpcode s) := by
  unfold execMbBadOpcode
  repeat' first
    | (with_reducible assumption) | intro _ | (with_reducible apply kp_mbRun) | (with_reducible refine KeepsR.next ?_) | dsimp only

theorem kp_execGetInfo {z : State} (s : State) (hs : Keeps z s) :
    KeepsR z (execGetInfo s) := by
  unfold execGetInfo
  repeat' first
    | (with_reducible assumption) | intro _
    | (extract_lets +onlyGivenNames lv; first | (have hx : Keeps z lv := ?_; generalize lv = w at hx ⊢; clear lv; rotate_left; subst lv) | (generalize lv = w; clear lv) | subst lv)
    | (with_reducible apply kp_mbRun) | split | (with_reducible refine KeepsR.next ?_) | dsimp only

theorem kp_execSensorRead {z : State} (s : State) (hs : Keeps z s) :
    KeepsR z (execSensorRead s) := by
  unfold execSensorRead
  repeat' first
    | (with_reducible assumption) | intro _
    | (extract_lets +onlyGivenNames lv; first | (have hx : Keeps z lv := ?_; generalize lv = w at hx ⊢; clear lv; rotate_left; subst lv) | (have hx : KeepsP (fun y : _ × _ × State => y.2.2) z lv := ?_; generalize lv = w at hx ⊢; clear lv; replace hx : Keeps z w.2.2 := hx; rotate_left; subst lv) | (generalize lv = w; clear lv) | subst lv)
    | (with_reducible apply kp_mbRun) | (with_reducible apply kp_mbFail) | split
    | (with_reducible refine KeepsP.mk ?_; with_reducible first | assumption | apply kp_mbFail) | (with_reducible refine KeepsP.p22 ?_)
    | (with_reducible refine KeepsR.next ?_) | (with_reducible refine Keeps.of3 (by assumption) ?_) | dsimp only

theorem kp_execLogRead {z : State} (s : State) (hs : Keeps z s) :
    KeepsR z (execLogRead s) := by
  unfold execLogRead
  repeat' first
    | (with_reducible assumption) | intro _
    | (extract_lets +onlyGivenNames lv; first | (have hx : Keeps z lv := ?_; generalize lv = w at hx ⊢; clear lv; rotate_left; subst lv) | (have hx : KeepsP (fun y : _ × _ × State => y.2.2) z lv := ?_; generalize lv = w at hx ⊢; clear lv; replace hx : Keeps z w.2.2 := hx; rotate_left; subst lv) | (generalize lv = w; clear lv) | subst lv)
    | (with_reducible apply kp_mbRun) | (with_reducible apply kp_mbFail) | split
    | (with_reducible refine KeepsP.mk ?_; with_reducible first | assumption | apply kp_mbFail) | (with_reducible refine KeepsP.p22 ?_)
    | (with_reducible refine KeepsR.next ?_) | (with_reducible refine Keeps.of3 (by assumption) ?_) | dsimp only
    | (with_reducible exact Keeps.mk (by assumption))

theorem kp_execLogWrite {z : State} (s : State) (hs : Keeps z s) :
    KeepsR z (execLogWrite s) := by
  unfold execLogWrite
  repeat' first
    | (with_reducible assumption) | intro _
    | (extract_lets +onlyGivenNames lv; first | (have hx : Keeps z lv := ?_; generalize lv = w at hx ⊢; clear lv; rotate_left; subst lv) | (have hx : KeepsP (fun y : _ × State => y.2) z lv := ?_; generalize lv = w at hx ⊢; clear lv; replace hx : Keeps z w.2 := hx; rotate_left; subst lv) | (generalize lv = w; clear lv) | subst lv)
    | (with_reducible apply kp_mbRun) | (with_reducible apply kp_takeFree) | (with_reducible apply kp_tallyNow) | split
    | (with_reducible refine KeepsP.mk ?_; with_reducible first | assumption | apply kp_takeFree) | (with_reducible refine KeepsP.p2 ?_)
    | (with_reducible refine KeepsR.next ?_) | (with_reducible refine Keeps.of2 (by assumption) ?_) | dsimp only

theorem kp_execLogAckLost {z : State} (s : State) (hs : Keeps z s) :
    KeepsR z (execLogAckLost s) := by
  unfold execLogAckLost
  repeat' first
    | (with_reducible assumption) | intro _
    | (extract_lets +onlyGivenNames lv; first | (have hx : Keeps z lv := ?_; generalize lv = w at hx ⊢; clear lv; rotate_left; subst lv) | (generalize lv = w; clear lv) | subst lv)
    | (with_reducible apply kp_mbRun) | (with_reducible apply kp_setF) | (with_reducible apply kp_tallyLog) | split
    | (with_reducible refine KeepsR.next ?_) | dsimp only

theorem kp_fwOpen {z : State} (agent : Nat) (hdr : List Byte) (pldm : Bool) (s : State) (hs : Keeps z s) :
    Keeps z (fwOpen agent hdr pldm s).2 := by
  change KeepsP (fun y : Nat × State => y.2) z _
  unfold fwOpen
  repeat' first
    | (with_reducible assumption)
    | (extract_lets +onlyGivenNames lv; first | (have hx : Keeps z lv := ?_; generalize lv = w at hx ⊢; clear lv; rotate_left; subst lv) | (have hx : KeepsP (fun y : _ × State => y.2) z lv := ?_; generalize lv = w at hx ⊢; clear lv; replace hx : Keeps z w.2 := hx; rotate_left; subst lv) | (generalize lv = w; clear lv) | subst lv)
    | (with_reducible apply kp_takeFree) | (with_reducible apply kp_setSlot) | (with_reducible apply kp_fwEvent) | (with_reducible apply kp_setMgs)
    | split | (with_reducible refine KeepsP.mk ?_; with_reducible first | assumption | apply kp_takeFree) | (with_reducible refine KeepsP.p2 ?_)
    | (with_reducible refine Keeps.of2 (by assumption) ?_) | dsimp only [id] | (with_reducible exact Keeps.mk (by assumption))

theorem kp_execFwBegin {z : State} (sig : Bool) (ok : Bool) (s : State) (hs : Keeps z s) :
    KeepsR z (execFwBegin sig ok s) := by
  unfold execFwBegin
  repeat' first
    | (with_reducible assumption) | intro _
    | (extract_lets +onlyGivenNames lv; first | (have hx : Keeps z lv := ?_; generalize lv = w at hx ⊢; clear lv; rotate_left; subst lv) | (have hx : KeepsP (fun y : _ × _ × State => y.2.2) z lv := ?_; generalize lv = w at hx ⊢; clear lv; replace hx : Keeps z w.2.2 := hx; rotate_left; subst lv) | (have hx : KeepsP (fun y : _ × State => y.2) z lv := ?_; generalize lv = w at hx ⊢; clear lv; replace hx : Keeps z w.2 := hx; rotate_left; subst lv) | (generalize lv = w; clear lv) | subst lv)
    | (with_reducible apply kp_mbRun) | (with_reducible apply kp_mbFail) | (with_reducible apply kp_fwOpen) | split
    | (with_reducible refine KeepsP.mk ?_; with_reducible first | assumption | apply kp_mbFail | apply kp_fwOpen)
    | (with_reducible refine KeepsP.p2 ?_) | (with_reducible refine KeepsP.p22 ?_) | (with_reducible refine KeepsR.next ?_)
    | (with_reducible refine Keeps.of3 (by assumption) ?_) | (with_reducible refine Keeps.of2 (by assumption) ?_) | dsimp only

theorem kp_execFwData {z : State} (ok : Bool) (s : State) (hs : Keeps z s) :
    KeepsR z (execFwData ok s) := by
  unfold execFwData
  repeat' first
    | (with_reducible assumption) | intro _
    | (extract_lets +onlyGivenNames lv; first | (have hx : Keeps z lv := ?_; generalize lv = w at hx ⊢; clear lv; rotate_left; subst lv) | (have hx : KeepsP (fun y : _ × _ × State => y.2.2) z lv := ?_; generalize lv = w at hx ⊢; clear lv; replace hx : Keeps z w.2.2 := hx; rotate_left; subst lv) | (generalize lv = w; clear lv) | subst lv)
    | (with_reducible apply kp_mbRun) | (with_reducible apply kp_mbFail) | (with_reducible apply kp_sessionDrop) | (with_reducible apply kp_setMgs)
    | split | (with_reducible refine KeepsP.mk ?_; with_reducible first | assumption | apply kp_mbFail) | (with_reducible refine KeepsP.p22 ?_)
    | (with_reducible refine KeepsR.next ?_) | (with_reducible refine Keeps.of3 (by assumption) ?_) | dsimp only
    | (with_reducible exact Keeps.mk (by assumption))

theorem kp_fwVerified {z : State} (x : Session) (s : State) (hs : Keeps z s) :
    Keeps z (fwVerified x s) := by
  unfold fwVerified
  repeat' first
    | (with_reducible assumption)
    | (extract_lets +onlyGivenNames lv; first | (have hx : Keeps z lv := ?_; generalize lv = w at hx ⊢; clear lv; rotate_left; subst lv) | (generalize lv = w; clear lv) | subst lv)
    | (with_reducible apply kp_setSlot) | (with_reducible apply kp_fwEvent) | (with_reducible apply kp_setMgs) | dsimp only
    | (with_reducible exact Keeps.mk (by assumption))

theorem kp_execFwVerify {z : State} (ok : Bool) (s : State) (hs : Keeps z s) :
    KeepsR z (execFwVerify ok s) := by
  unfold execFwVerify
  repeat' first
    | (with_reducible assumption) | intro _ | (with_reducible apply kp_mbRun) | (with_reducible apply kp_mbFail)
    | (with_reducible apply kp_sessionDrop) | (with_reducible apply kp_fwVerified) | split | (with_reducible refine KeepsR.next ?_)
    | (with_reducible refine Keeps.of3 (by assumption) ?_) | dsimp only | (with_reducible exact Keeps.mk (by assumption))

theorem kp_fwActivate {z : State} (k : Nat) (mode : Nat) (s : State) (hs : Keeps z s) :
    Keeps z (fwActivate k mode s) := by
  unfold fwActivate
  repeat' first
    | (with_reducible assumption)
    | (extract_lets +onlyGivenNames lv; first | (have hx : Keeps z lv := ?_; generalize lv = w at hx ⊢; clear lv; rotate_left; subst lv) | (generalize lv = w; clear lv) | subst lv)
    | (with_reducible apply kp_fwEvent) | (with_reducible apply kp_setMgs) | (with_reducible apply kp_mgsRestart)
    | (with_reducible apply kp_persistAll) | split | dsimp only | (with_reducible exact Keeps.mk (by assumption))

theorem kp_execFwActivate {z : State} (ok : Bool) (s : State) (hs : Keeps z s) :
    KeepsR z (execFwActivate ok s) := by
  unfold execFwActivate
  repeat' first
    | (with_reducible assumption) | intro _
    | (extract_lets +onlyGivenNames lv; first | (have hx : Keeps z lv := ?_; generalize lv = w at hx ⊢; clear lv; rotate_left; subst lv) | (have hx : KeepsP (fun y : _ × _ × State => y.2.2) z lv := ?_; generalize lv = w at hx ⊢; clear lv; replace hx : Keeps z w.2.2 := hx; rotate_left; subst lv) | (have hx : KeepsP (fun y : _ × State => y.2) z lv := ?_; generalize lv = w at hx ⊢; clear lv; replace hx : Keeps z w.2 := hx; rotate_left; subst lv) | (generalize lv = w; clear lv) | subst lv)
    | (with_reducible apply kp_mbRun) | (with_reducible apply kp_mbFail) | (with_reducible apply kp_takeFree) | (with_reducible apply kp_sessionDrop)
    | (with_reducible apply kp_fwActivate) | split
    | (with_reducible refine KeepsP.mk ?_; with_reducible first | assumption | apply kp_mbFail | apply kp_takeFree)
    | (with_reducible refine KeepsP.p2 ?_) | (with_reducible refine KeepsP.p22 ?_) | (with_reducible refine KeepsR.next ?_)
    | (with_reducible refine Keeps.of3 (by assumption) ?_) | (with_reducible refine Keeps.of2 (by assumption) ?_) | dsimp only
    | (with_reducible exact Keeps.mk (by assumption))

theorem kp_execFwAbort {z : State} (s : State) (hs : Keeps z s) :
    KeepsR z (execFwAbort s) := by
  unfold execFwAbort
  repeat' first
    | (with_reducible assumption) | intro _ | (with_reducible refine KeepsR.next ?_) | (with_reducible apply kp_mbRun)
    | (with_reducible apply kp_mbFail) | (with_reducible apply kp_sessionDrop) | split
    | (with_reducible refine KeepsP.mk ?_; with_reducible first | assumption | apply kp_mbFail) | (with_reducible refine KeepsP.p1 ?_)
    | (with_reducible refine KeepsP.p2 ?_) | (with_reducible refine KeepsP.p22 ?_) | (with_reducible refine Keeps.of2 (by assumption) ?_)
    | (with_reducible refine Keeps.of1 (by assumption) ?_) | (with_reducible refine Keeps.of3 (by assumption) ?_)

theorem kp_execLicInstall {z : State} (sig : Bool) (ok : Bool) (s : State) (hs : Keeps z s) :
    KeepsR z (execLicInstall sig ok s) := by
  unfold execLicInstall
  repeat' first
    | (with_reducible assumption) | intro _
    | (extract_lets +onlyGivenNames lv; first | (have hx : Keeps z lv := ?_; generalize lv = w at hx ⊢; clear lv; rotate_left; subst lv) | (have hx : KeepsP (fun y : _ × _ × State => y.2.2) z lv := ?_; generalize lv = w at hx ⊢; clear lv; replace hx : Keeps z w.2.2 := hx; rotate_left; subst lv) | (generalize lv = w; clear lv) | subst lv)
    | (with_reducible apply kp_mbRun) | (with_reducible apply kp_mbFail) | (with_reducible apply kp_setMgs) | (with_reducible apply kp_tallyLic)
    | (with_reducible apply kp_applyLic) | split | (with_reducible refine KeepsP.mk ?_; with_reducible first | assumption | apply kp_mbFail)
    | (with_reducible refine KeepsP.p22 ?_) | (with_reducible refine KeepsR.next ?_) | (with_reducible refine Keeps.of3 (by assumption) ?_)
    | dsimp only | (with_reducible exact Keeps.mk (by assumption))

theorem kp_execLicRead {z : State} (s : State) (hs : Keeps z s) :
    KeepsR z (execLicRead s) := by
  unfold execLicRead
  repeat' first
    | (with_reducible assumption) | intro _ | (with_reducible apply kp_mbRun) | split | (with_reducible refine KeepsR.next ?_) | dsimp only
    | (with_reducible exact Keeps.mk (by assumption))

theorem kp_execUnlock {z : State} (s : State) (hs : Keeps z s) :
    KeepsR z (execUnlock s) := by
  unfold execUnlock
  repeat' first
    | (with_reducible assumption) | intro _
    | (extract_lets +onlyGivenNames lv; first | (have hx : Keeps z lv := ?_; generalize lv = w at hx ⊢; clear lv; rotate_left; subst lv) | (have hx : KeepsP (fun y : _ × _ × State => y.2.2) z lv := ?_; generalize lv = w at hx ⊢; clear lv; replace hx : Keeps z w.2.2 := hx; rotate_left; subst lv) | (generalize lv = w; clear lv) | subst lv)
    | (with_reducible apply kp_mbRun) | (with_reducible apply kp_mbFail) | (with_reducible apply kp_setF) | split
    | (with_reducible refine KeepsP.mk ?_; with_reducible first | assumption | apply kp_mbFail) | (with_reducible refine KeepsP.p22 ?_)
    | (with_reducible refine KeepsR.next ?_) | (with_reducible refine Keeps.of3 (by assumption) ?_) | dsimp only

theorem kp_execConfigGet {z : State} (s : State) (hs : Keeps z s) :
    KeepsR z (execConfigGet s) := by
  unfold execConfigGet
  repeat' first
    | (with_reducible assumption) | intro _ | (with_reducible apply kp_mbRun) | (with_reducible apply kp_mbFail) | split
    | (with_reducible refine KeepsR.next ?_) | (with_reducible refine Keeps.of3 (by assumption) ?_) | dsimp only
    | (with_reducible exact Keeps.mk (by assumption))

theorem kp_execConfigSet {z : State} (ok : Bool) (s : State) (hs : Keeps z s) :
    KeepsR z (execConfigSet ok s) := by
  unfold execConfigSet
  repeat' first
    | (with_reducible assumption) | intro _
    | (extract_lets +onlyGivenNames lv; first | (have hx : Keeps z lv := ?_; generalize lv = w at hx ⊢; clear lv; rotate_left; subst lv) | (have hx : KeepsP (fun y : _ × _ × State => y.2.2) z lv := ?_; generalize lv = w at hx ⊢; clear lv; replace hx : Keeps z w.2.2 := hx; rotate_left; subst lv) | (generalize lv = w; clear lv) | subst lv)
    | (with_reducible apply kp_mbRun) | (with_reducible apply kp_mbFail) | (with_reducible apply kp_setMgs) | split
    | (with_reducible refine KeepsP.mk ?_; with_reducible first | assumption | apply kp_mbFail) | (with_reducible refine KeepsP.p22 ?_)
    | (with_reducible refine KeepsR.next ?_) | (with_reducible refine Keeps.of3 (by assumption) ?_) | dsimp only
    | (with_reducible exact Keeps.mk (by assumption))

theorem kp_execFmStatus {z : State} (s : State) (hs : Keeps z s) :
    KeepsR z (execFmStatus s) := by
  unfold execFmStatus
  repeat' first
    | (with_reducible assumption) | intro _ | (with_reducible apply kp_mbRun) | (with_reducible refine KeepsR.next ?_) | dsimp only

theorem kp_execFmPlan {z : State} (ok : Bool) (s : State) (hs : Keeps z s) :
    KeepsR z (execFmPlan ok s) := by
  unfold execFmPlan
  repeat' first
    | (with_reducible assumption) | intro _
    | (extract_lets +onlyGivenNames lv; first | (have hx : Keeps z lv := ?_; generalize lv = w at hx ⊢; clear lv; rotate_left; subst lv) | (have hx : KeepsP (fun y : _ × _ × State => y.2.2) z lv := ?_; generalize lv = w at hx ⊢; clear lv; replace hx : Keeps z w.2.2 := hx; rotate_left; subst lv) | (have hx : KeepsP (fun y : _ × State => y.2) z lv := ?_; generalize lv = w at hx ⊢; clear lv; replace hx : Keeps z w.2 := hx; rotate_left; subst lv) | (have hx : KeepsP (fun y : State × _ => y.1) z lv := ?_; generalize lv = w at hx ⊢; clear lv; replace hx : Keeps z w.1 := hx; rotate_left; subst lv) | (generalize lv = w; clear lv) | subst lv)
    | (with_reducible apply kp_mbRun) | (with_reducible apply kp_mbFail) | (with_reducible apply kp_setMgs) | (with_reducible apply Keeps.foldl)
    | (with_reducible apply Keeps.foldlx) | (with_reducible apply Keeps.foldlv) | (with_reducible apply Keeps.foldl2)
    | (with_reducible apply Keeps.foldl1) | (with_reducible apply Keeps.foldl22) | (with_reducible apply Keeps.foldl222)
    | (with_reducible apply Keeps.foldl2x) | split
    | (with_reducible refine KeepsP.mk ?_; with_reducible first | assumption | apply kp_mbFail | apply Keeps.foldlx | apply Keeps.foldlv | apply Keeps.foldl2 | apply Keeps.foldl1 | apply Keeps.foldl22 | apply Keeps.foldl222 | apply Keeps.foldl2x)
    | (with_reducible refine KeepsP.p1 ?_) | (with_reducible refine KeepsP.p2 ?_) | (with_reducible refine KeepsP.p22 ?_)
    | (with_reducible refine KeepsR.next ?_) | (with_reducible refine Keeps.of3 (by assumption) ?_)
    | (with_reducible refine Keeps.of2 (by assumption) ?_) | (with_reducible refine Keeps.of1 (by assumption) ?_) | dsimp only
    | (with_reducible exact Keeps.mk (by assumption))

theorem kp_execFmNodes {z : State} (s : State) (hs : Keeps z s) :
    KeepsR z (execFmNodes s) := by
  unfold execFmNodes
  repeat' first
    | (with_reducible assumption) | intro _
    | (extract_lets +onlyGivenNames lv; first | (have hx : Keeps z lv := ?_; generalize lv = w at hx ⊢; clear lv; rotate_left; subst lv) | (have hx : KeepsP (fun y : _ × _ × State => y.2.2) z lv := ?_; generalize lv = w at hx ⊢; clear lv; replace hx : Keeps z w.2.2 := hx; rotate_left; subst lv) | (have hx : KeepsP (fun y : _ × State => y.2) z lv := ?_; generalize lv = w at hx ⊢; clear lv; replace hx : Keeps z w.2 := hx; rotate_left; subst lv) | (have hfn0 : ∀ y, Keeps z y → Keeps z (lv y) := ?_; generalize lv = w at hfn0 ⊢; clear lv; rotate_left; subst lv) | (have hfn1 : ∀ a y, Keeps z y → Keeps z (lv a y) := ?_; generalize lv = w at hfn1 ⊢; clear lv; rotate_left; subst lv) | (have hfn2 : ∀ a b y, Keeps z y → Keeps z (lv a b y) := ?_; generalize lv = w at hfn2 ⊢; clear lv; rotate_left; subst lv) | (have hfn3 : ∀ a b c y, Keeps z y → Keeps z (lv a b c y) := ?_; generalize lv = w at hfn3 ⊢; clear lv; rotate_left; subst lv) | (have hfn4 : ∀ y a, Keeps z y → Keeps z (lv y a) := ?_; generalize lv = w at hfn4 ⊢; clear lv; rotate_left; subst lv) | (have hfn5 : ∀ a, Keeps z (lv a) := ?_; generalize lv = w at hfn5 ⊢; clear lv; rotate_left; subst lv) | (have hfn6 : ∀ a b, Keeps z (lv a b) := ?_; generalize lv = w at hfn6 ⊢; clear lv; rotate_left; subst lv) | (have hfn7 : ∀ y a b, Keeps z y → Keeps z (lv y a b) := ?_; generalize lv = w at hfn7 ⊢; clear lv; rotate_left; subst lv) | (have hfn8 : ∀ a, KeepsR z (lv a) := ?_; generalize lv = w at hfn8 ⊢; clear lv; rotate_left; subst lv) | (have hfn9 : ∀ y, Keeps z y → KeepsC z (lv y) := ?_; generalize lv = w at hfn9 ⊢; clear lv; rotate_left; subst lv) | (have hfn10 : ∀ y, Keeps z y → KeepsR z (lv y) := ?_; generalize lv = w at hfn10 ⊢; clear lv; rotate_left; subst lv) | (have hfn11 : ∀ a y, Keeps z y → KeepsR z (lv a y) := ?_; generalize lv = w at hfn11 ⊢; clear lv; rotate_left; subst lv) | (have hfn12 : ∀ y a, Keeps z y → KeepsR z (lv y a) := ?_; generalize lv = w at hfn12 ⊢; clear lv; rotate_left; subst lv) | (generalize lv = w; clear lv) | subst lv)
    | (with_reducible apply hfn0) | (with_reducible apply hfn1) | (with_reducible apply hfn2) | (with_reducible apply hfn3)
    | (with_reducible apply hfn4) | (with_reducible apply hfn5) | (with_reducible apply hfn6) | (with_reducible apply hfn7)
    | (with_reducible apply hfn8) | (with_reducible apply hfn9) | (with_reducible apply hfn10) | (with_reducible apply hfn11)
    | (with_reducible apply hfn12) | (with_reducible apply kp_mbRun) | (with_reducible apply kp_mbFail) | (with_reducible apply kp_takeFree) | split
    | (with_reducible refine KeepsP.mk ?_; with_reducible first | assumption | apply kp_mbFail | apply kp_takeFree)
    | (with_reducible refine KeepsP.p2 ?_) | (with_reducible refine KeepsP.p22 ?_) | (with_reducible refine KeepsR.next ?_)
    | (with_reducible refine Keeps.of3 (by assumption) ?_) | (with_reducible refine Keeps.of2 (by assumption) ?_) | dsimp only

theorem kp_execDefectRead {z : State} (s : State) (hs : Keeps z s) :
    KeepsR z (execDefectRead s) := by
  unfold execDefectRead
  repeat' first
    | (with_reducible assumption) | intro _
    | (extract_lets +onlyGivenNames lv; first | (have hx : Keeps z lv := ?_; generalize lv = w at hx ⊢; clear lv; rotate_left; subst lv) | (have hfn0 : ∀ y, Keeps z y → Keeps z (lv y) := ?_; generalize lv = w at hfn0 ⊢; clear lv; rotate_left; subst lv) | (have hfn1 : ∀ a y, Keeps z y → Keeps z (lv a y) := ?_; generalize lv = w at hfn1 ⊢; clear lv; rotate_left; subst lv) | (have hfn2 : ∀ a b y, Keeps z y → Keeps z (lv a b y) := ?_; generalize lv = w at hfn2 ⊢; clear lv; rotate_left; subst lv) | (have hfn3 : ∀ a b c y, Keeps z y → Keeps z (lv a b c y) := ?_; generalize lv = w at hfn3 ⊢; clear lv; rotate_left; subst lv) | (have hfn4 : ∀ y a, Keeps z y → Keeps z (lv y a) := ?_; generalize lv = w at hfn4 ⊢; clear lv; rotate_left; subst lv) | (have hfn5 : ∀ a, Keeps z (lv a) := ?_; generalize lv = w at hfn5 ⊢; clear lv; rotate_left; subst lv) | (have hfn6 : ∀ a b, Keeps z (lv a b) := ?_; generalize lv = w at hfn6 ⊢; clear lv; rotate_left; subst lv) | (have hfn7 : ∀ y a b, Keeps z y → Keeps z (lv y a b) := ?_; generalize lv = w at hfn7 ⊢; clear lv; rotate_left; subst lv) | (have hfn8 : ∀ a, KeepsR z (lv a) := ?_; generalize lv = w at hfn8 ⊢; clear lv; rotate_left; subst lv) | (have hfn9 : ∀ y, Keeps z y → KeepsC z (lv y) := ?_; generalize lv = w at hfn9 ⊢; clear lv; rotate_left; subst lv) | (have hfn10 : ∀ y, Keeps z y → KeepsR z (lv y) := ?_; generalize lv = w at hfn10 ⊢; clear lv; rotate_left; subst lv) | (have hfn11 : ∀ a y, Keeps z y → KeepsR z (lv a y) := ?_; generalize lv = w at hfn11 ⊢; clear lv; rotate_left; subst lv) | (have hfn12 : ∀ y a, Keeps z y → KeepsR z (lv y a) := ?_; generalize lv = w at hfn12 ⊢; clear lv; rotate_left; subst lv) | (generalize lv = w; clear lv) | subst lv)
    | (with_reducible apply hfn0) | (with_reducible apply hfn1) | (with_reducible apply hfn2) | (with_reducible apply hfn3)
    | (with_reducible apply hfn4) | (with_reducible apply hfn5) | (with_reducible apply hfn6) | (with_reducible apply hfn7)
    | (with_reducible apply hfn8) | (with_reducible apply hfn9) | (with_reducible apply hfn10) | (with_reducible apply hfn11)
    | (with_reducible apply hfn12) | (with_reducible apply kp_mbRun) | (with_reducible refine KeepsR.next ?_) | dsimp only

theorem kp_execUpdateSessionIdle {z : State} (s : State) (hs : Keeps z s) :
    KeepsR z (execUpdateSessionIdle s) := by
  unfold execUpdateSessionIdle
  repeat' first
    | (with_reducible assumption) | (with_reducible refine KeepsR.next ?_) | (with_reducible apply kp_sessionDrop)
    | (with_reducible apply kp_waitTill) | split

theorem kp_execTrialCommit {z : State} (s : State) (hs : Keeps z s) :
    KeepsR z (execTrialCommit s) := by
  unfold execTrialCommit
  repeat' first
    | (with_reducible assumption)
    | (extract_lets +onlyGivenNames lv; first | (have hx : Keeps z lv := ?_; generalize lv = w at hx ⊢; clear lv; rotate_left; subst lv) | (generalize lv = w; clear lv) | subst lv)
    | (with_reducible refine KeepsR.next ?_) | (with_reducible apply kp_rollback) | (with_reducible apply kp_waitTill)
    | (with_reducible apply kp_setMgs) | (with_reducible apply kp_tallyFree) | (with_reducible apply kp_setF) | split
    | (with_reducible exact Keeps.mk (by assumption))

theorem kp_execMgsWdog {z : State} (ue : Bool) (s : State) (hs : Keeps z s) :
    KeepsR z (execMgsWdog ue s) := by
  unfold execMgsWdog
  repeat' first
    | (with_reducible assumption)
    | (extract_lets +onlyGivenNames lv; first | (have hx : Keeps z lv := ?_; generalize lv = w at hx ⊢; clear lv; rotate_left; subst lv) | (generalize lv = w; clear lv) | subst lv)
    | (with_reducible apply kp_mgsRestart) | (with_reducible apply kp_recordCE) | (with_reducible apply kp_rollback) | split
    | (with_reducible refine KeepsR.next ?_) | dsimp only

theorem kp_execTallyPersist {z : State} (ok : Bool) (s : State) (hs : Keeps z s) :
    KeepsR z (execTallyPersist ok s) := by
  unfold execTallyPersist
  repeat' first
    | (with_reducible assumption) | (with_reducible apply kp_persistOne) | split | (with_reducible refine KeepsR.next ?_) | dsimp only

theorem kp_execFlashVerify {z : State} (k : Nat) (pass : Bool) (s : State) (hs : Keeps z s) :
    KeepsR z (execFlashVerify k pass s) := by
  unfold execFlashVerify
  repeat' first
    | (with_reducible assumption)
    | (extract_lets +onlyGivenNames lv; first | (have hx : Keeps z lv := ?_; generalize lv = w at hx ⊢; clear lv; rotate_left; subst lv) | (generalize lv = w; clear lv) | subst lv)
    | (with_reducible refine KeepsR.next ?_) | (with_reducible apply kp_flashLost) | (with_reducible apply kp_setMgs)
    | (with_reducible apply kp_recordCE) | (with_reducible apply kp_setF) | split | (with_reducible exact Keeps.mk (by assumption))

theorem kp_execXspiTimeout {z : State} (s : State) (hs : Keeps z s) :
    KeepsR z (execXspiTimeout s) := by
  unfold execXspiTimeout
  repeat' first
    | (with_reducible assumption)
    | (extract_lets +onlyGivenNames lv; first | (have hx : Keeps z lv := ?_; generalize lv = w at hx ⊢; clear lv; rotate_left; subst lv) | (generalize lv = w; clear lv) | subst lv)
    | (with_reducible apply kp_setMgs) | (with_reducible apply kp_flashLost) | split | (with_reducible refine KeepsR.next ?_) | dsimp only
    | (with_reducible exact Keeps.mk (by assumption))

end Sys2Proof.Machine
end

