-- ==== Sys2Proof/Laws/KeepsKvm.lean ====
section
/-! SUPPORT. What every operation of Machine/Kvm.lean keeps. -/
set_option linter.all false

namespace Sys2Proof.Machine

theorem kp_kvSubmit {z : State} (o : KvOp) (s : State) (hs : Keeps z s) :
    Keeps z (kvSubmit o s) := by
  unfold kvSubmit
  repeat' first
    | (with_reducible assumption)
    | (extract_lets +onlyGivenNames lv; first | (have hx : Keeps z lv := ?_; generalize lv = w at hx ⊢; clear lv; rotate_left; subst lv) | (generalize lv = w; clear lv) | subst lv)
    | (with_reducible apply kp_setKvm) | (with_reducible apply kp_setF) | (with_reducible apply kp_kvOpEnd) | split | dsimp only
    | (with_reducible exact Keeps.mk (by assumption))

theorem kp_execKvmOpgo {z : State} (fn : Nat) (v : Nat) (s : State) (hs : Keeps z s) :
    KeepsR z (execKvmOpgo fn v s) := by
  unfold execKvmOpgo
  repeat' first
    | (with_reducible assumption) | intro _ | (with_reducible apply kp_barWrite) | (with_reducible apply kp_kvSubmit) | split
    | (with_reducible refine KeepsR.next ?_) | dsimp only

theorem kp_kvDo {z : State} (op : Nat) (act : KvOp → State → Option Nat × State) (s : State) (hact : ∀ y0 y1, Keeps z y1 → Keeps z (act y0 y1).2) (hs : Keeps z s) :
    Keeps z (kvDo op act s) := by
  unfold kvDo
  repeat' first
    | (with_reducible assumption) | (with_reducible apply hact) | (with_reducible apply kp_kvOpEnd) | split
    | (with_reducible refine Keeps.of2 (by assumption) ?_) | dsimp only | (with_reducible exact Keeps.mk (by assumption))

theorem kp_kvPlace {z : State} (o : KvOp) (a : Nat) (a2 : Nat) (a3 : State) (ha3 : Keeps z a3) :
    KeepsO z (kvPlace o a a2 a3) := by
  induction a generalizing o a2 a3 with
  | zero => unfold kvPlace; repeat' first
    | (with_reducible assumption)
    | (extract_lets +onlyGivenNames lv; first | (have hx : Keeps z lv := ?_; generalize lv = w at hx ⊢; clear lv; rotate_left; subst lv) | (have hx : KeepsO z lv := ?_; generalize lv = w at hx ⊢; clear lv; rotate_left; subst lv) | (generalize lv = w; clear lv) | subst lv)
    | (with_reducible apply kp_setKvH) | (with_reducible apply kp_setKvm) | split | (with_reducible exact KeepsO.none)
    | (with_reducible refine KeepsO.some ?_) | (with_reducible refine Keeps.ofO (by assumption) ?_) | dsimp only
    | (with_reducible exact Keeps.mk (by assumption))
  | succ w ih => unfold kvPlace; repeat' first
    | (with_reducible assumption)
    | (extract_lets +onlyGivenNames lv; first | (have hx : Keeps z lv := ?_; generalize lv = w at hx ⊢; clear lv; rotate_left; subst lv) | (have hx : KeepsO z lv := ?_; generalize lv = w at hx ⊢; clear lv; rotate_left; subst lv) | (generalize lv = w; clear lv) | subst lv)
    | (with_reducible apply ih) | (with_reducible apply kp_setKvH) | (with_reducible apply kp_setKvm) | split | (with_reducible exact KeepsO.none)
    | (with_reducible refine KeepsO.some ?_) | (with_reducible refine Keeps.ofO (by assumption) ?_) | dsimp only
    | (with_reducible exact Keeps.mk (by assumption))

theorem kp_kvOpenAct {z : State} (o : KvOp) (s : State) (hs : Keeps z s) :
    Keeps z (kvOpenAct o s).2 := by
  change KeepsP (fun y : Option Nat × State => y.2) z _
  unfold kvOpenAct
  repeat' first
    | (with_reducible assumption) | intro _
    | (extract_lets +onlyGivenNames lv; first | (have hx : Keeps z lv := ?_; generalize lv = w at hx ⊢; clear lv; rotate_left; subst lv) | (have hx : KeepsO z lv := ?_; generalize lv = w at hx ⊢; clear lv; rotate_left; subst lv) | (have hx : KeepsP (fun y : _ × State => y.2) z lv := ?_; generalize lv = w at hx ⊢; clear lv; replace hx : Keeps z w.2 := hx; rotate_left; subst lv) | (have hx : KeepsP (fun y : State × _ => y.1) z lv := ?_; generalize lv = w at hx ⊢; clear lv; replace hx : Keeps z w.1 := hx; rotate_left; subst lv) | (have hx : KeepsP (fun y : _ × _ × State => y.2.2) z lv := ?_; generalize lv = w at hx ⊢; clear lv; replace hx : Keeps z w.2.2 := hx; rotate_left; subst lv) | (generalize lv = w; clear lv) | subst lv)
    | (with_reducible apply kp_kvPlace) | (with_reducible apply Keeps.foldl) | (with_reducible apply Keeps.foldlx)
    | (with_reducible apply Keeps.foldlv) | (with_reducible apply Keeps.foldl2) | (with_reducible apply Keeps.foldl1)
    | (with_reducible apply Keeps.foldl22) | (with_reducible apply Keeps.foldl222) | (with_reducible apply Keeps.foldl2x) | split
    | (with_reducible refine KeepsP.mk ?_; with_reducible first | assumption | apply Keeps.foldlx | apply Keeps.foldlv | apply Keeps.foldl2 | apply Keeps.foldl1 | apply Keeps.foldl22 | apply Keeps.foldl222 | apply Keeps.foldl2x)
    | (with_reducible refine KeepsP.p1 ?_) | (with_reducible refine KeepsP.p2 ?_) | (with_reducible refine KeepsP.p22 ?_)
    | (with_reducible refine Keeps.ofO (by assumption) ?_) | (with_reducible refine Keeps.of2 (by assumption) ?_)
    | (with_reducible refine Keeps.of1 (by assumption) ?_) | (with_reducible refine Keeps.of3 (by assumption) ?_) | dsimp only
    | (with_reducible exact Keeps.mk (by assumption))

theorem kp_execKvmOpen {z : State} (s : State) (hs : Keeps z s) :
    KeepsR z (execKvmOpen s) := by
  unfold execKvmOpen
  repeat' first
    | (with_reducible assumption) | intro _ | (with_reducible apply kp_kvDo) | (with_reducible apply kp_kvOpenAct)
    | (with_reducible refine KeepsR.next ?_) | (with_reducible refine Keeps.of2 (by assumption) ?_) | dsimp only

theorem kp_kvClear {z : State} (i : Nat) (hn : Nat) (s : State) (hs : Keeps z s) :
    Keeps z (kvClear i hn s) := by
  unfold kvClear
  repeat' first
    | (with_reducible assumption)
    | (extract_lets +onlyGivenNames lv; first | (have hx : Keeps z lv := ?_; generalize lv = w at hx ⊢; clear lv; rotate_left; subst lv) | (generalize lv = w; clear lv) | subst lv)
    | (with_reducible apply kp_setKvH) | (with_reducible apply kp_kvFreeSlots) | split | dsimp only

theorem kp_kvDropMoved {z : State} (n : Nat) (q : Nat) (s : State) (hs : Keeps z s) :
    Keeps z (kvDropMoved n q s) := by
  unfold kvDropMoved
  repeat' first
    | (with_reducible assumption) | intro _ | (with_reducible apply kp_setKvH) | (with_reducible apply Keeps.foldl)
    | (with_reducible apply Keeps.foldlx) | (with_reducible apply Keeps.foldlv) | (with_reducible apply Keeps.foldl2)
    | (with_reducible apply Keeps.foldl1) | (with_reducible apply Keeps.foldl22) | (with_reducible apply Keeps.foldl222)
    | (with_reducible apply Keeps.foldl2x) | split
    | (with_reducible refine KeepsP.mk ?_; with_reducible first | assumption | apply Keeps.foldlx | apply Keeps.foldlv | apply Keeps.foldl2 | apply Keeps.foldl1 | apply Keeps.foldl22 | apply Keeps.foldl222 | apply Keeps.foldl2x)
    | (with_reducible refine Keeps.of2 (by assumption) ?_) | (with_reducible refine Keeps.of1 (by assumption) ?_)
    | (with_reducible refine Keeps.of3 (by assumption) ?_) | dsimp only

theorem kp_kvCloseAct {z : State} (o : KvOp) (s : State) (hs : Keeps z s) :
    Keeps z (kvCloseAct o s).2 := by
  change KeepsP (fun y : Option Nat × State => y.2) z _
  unfold kvCloseAct
  repeat' first
    | (with_reducible assumption) | intro _
    | (extract_lets +onlyGivenNames lv; first | (have hx : Keeps z lv := ?_; generalize lv = w at hx ⊢; clear lv; rotate_left; subst lv) | (have hx : KeepsP (fun y : _ × State => y.2) z lv := ?_; generalize lv = w at hx ⊢; clear lv; replace hx : Keeps z w.2 := hx; rotate_left; subst lv) | (have hx : KeepsP (fun y : State × _ => y.1) z lv := ?_; generalize lv = w at hx ⊢; clear lv; replace hx : Keeps z w.1 := hx; rotate_left; subst lv) | (have hx : KeepsP (fun y : _ × _ × State => y.2.2) z lv := ?_; generalize lv = w at hx ⊢; clear lv; replace hx : Keeps z w.2.2 := hx; rotate_left; subst lv) | (generalize lv = w; clear lv) | subst lv)
    | (with_reducible apply kp_kvAbandon) | (with_reducible apply kp_setKvH) | (with_reducible apply kp_kvClear)
    | (with_reducible apply kp_kvDropMoved) | (with_reducible apply kp_setKvm) | (with_reducible apply Keeps.foldl)
    | (with_reducible apply Keeps.foldlx) | (with_reducible apply Keeps.foldlv) | (with_reducible apply Keeps.foldl2)
    | (with_reducible apply Keeps.foldl1) | (with_reducible apply Keeps.foldl22) | (with_reducible apply Keeps.foldl222)
    | (with_reducible apply Keeps.foldl2x) | split
    | (with_reducible refine KeepsP.mk ?_; with_reducible first | assumption | apply Keeps.foldlx | apply Keeps.foldlv | apply Keeps.foldl2 | apply Keeps.foldl1 | apply Keeps.foldl22 | apply Keeps.foldl222 | apply Keeps.foldl2x)
    | (with_reducible refine KeepsP.p1 ?_) | (with_reducible refine KeepsP.p2 ?_) | (with_reducible refine KeepsP.p22 ?_)
    | (with_reducible refine Keeps.of2 (by assumption) ?_) | (with_reducible refine Keeps.of1 (by assumption) ?_)
    | (with_reducible refine Keeps.of3 (by assumption) ?_) | dsimp only | (with_reducible exact Keeps.mk (by assumption))

theorem kp_execKvmClose {z : State} (s : State) (hs : Keeps z s) :
    KeepsR z (execKvmClose s) := by
  unfold execKvmClose
  repeat' first
    | (with_reducible assumption) | intro _ | (with_reducible apply kp_kvDo) | (with_reducible apply kp_kvCloseAct)
    | (with_reducible refine KeepsR.next ?_) | (with_reducible refine Keeps.of2 (by assumption) ?_) | dsimp only

theorem kp_kvBudget {z : State} (o : KvOp) (s : State) (x : KvPair) (hs : Keeps z s) :
    Keeps z (kvBudget o s x) := by
  unfold kvBudget
  repeat' first
    | (with_reducible assumption)
    | (extract_lets +onlyGivenNames lv; first | (have hx : Keeps z lv := ?_; generalize lv = w at hx ⊢; clear lv; rotate_left; subst lv) | (have hv : KeepsP (fun y : _ × Kx => y.2.s) z lv := ?_; obtain ⟨w, e, hx⟩ : ∃ w, w = lv ∧ KeepsP (fun y : _ × Kx => y.2.s) z w := ⟨lv, rfl, hv⟩; try rw [← e]; clear e hv lv; replace hx : Keeps z w.2.s := hx; rotate_left; subst lv) | (have hv : KeepsP (fun y : Kx => y.s) z lv := ?_; obtain ⟨w, e, hx⟩ : ∃ w, w = lv ∧ KeepsP (fun y : Kx => y.s) z w := ⟨lv, rfl, hv⟩; try rw [← e]; clear e hv lv; replace hx : Keeps z w.s := hx; rotate_left; subst lv) | (have hv : KeepsP (fun y : VIo => y.s) z lv := ?_; obtain ⟨w, e, hx⟩ : ∃ w, w = lv ∧ KeepsP (fun y : VIo => y.s) z w := ⟨lv, rfl, hv⟩; try rw [← e]; clear e hv lv; replace hx : Keeps z w.s := hx; rotate_left; subst lv) | (have hv : KeepsP (fun y : EncIn => y.io.s) z lv := ?_; obtain ⟨w, e, hx⟩ : ∃ w, w = lv ∧ KeepsP (fun y : EncIn => y.io.s) z w := ⟨lv, rfl, hv⟩; try rw [← e]; clear e hv lv; replace hx : Keeps z w.io.s := hx; rotate_left; subst lv) | (have hv : KeepsP (fun y : VIo × _ => y.1.s) z lv := ?_; obtain ⟨w, e, hx⟩ : ∃ w, w = lv ∧ KeepsP (fun y : VIo × _ => y.1.s) z w := ⟨lv, rfl, hv⟩; try rw [← e]; clear e hv lv; replace hx : Keeps z w.1.s := hx; rotate_left; subst lv) | (generalize lv = w; clear lv) | subst lv)
    | (with_reducible apply kp_setKvH) | (with_reducible apply kp_kvTrim) | split
    | (with_reducible refine KeepsP.mk ?_; with_reducible first | assumption | apply kp_kvTrim) | (with_reducible refine KeepsP.p1 ?_)
    | (with_reducible refine KeepsP.p2 ?_) | (with_reducible refine KeepsP.p22 ?_) | (with_reducible refine KeepsP.kx ?_)
    | (with_reducible refine KeepsP.p2x ?_) | (with_reducible refine Keeps.of2x (by assumption) ?_) | (with_reducible refine KeepsP.vio1 ?_)
    | (with_reducible refine KeepsP.encin ?_) | (with_reducible refine KeepsP.vio ?_) | (with_reducible refine Keeps.of1v (by assumption) ?_)
    | (with_reducible refine Keeps.of2 (by assumption) ?_) | (with_reducible refine Keeps.of1 (by assumption) ?_)
    | (with_reducible refine Keeps.of3 (by assumption) ?_) | (with_reducible exact Keeps.mk (by assumption))

theorem kp_kvBudgetAct {z : State} (o : KvOp) (s : State) (hs : Keeps z s) :
    Keeps z (kvBudgetAct o s).2 := by
  change KeepsP (fun y : Option Nat × State => y.2) z _
  unfold kvBudgetAct
  repeat' first
    | (with_reducible assumption) | intro _ | (with_reducible apply kp_kvBudget) | (with_reducible apply Keeps.foldl)
    | (with_reducible apply Keeps.foldlx) | (with_reducible apply Keeps.foldlv) | (with_reducible apply Keeps.foldl2)
    | (with_reducible apply Keeps.foldl1) | (with_reducible apply Keeps.foldl22) | (with_reducible apply Keeps.foldl222)
    | (with_reducible apply Keeps.foldl2x) | split
    | (with_reducible refine KeepsP.mk ?_; with_reducible first | assumption | apply Keeps.foldlx | apply Keeps.foldlv | apply Keeps.foldl2 | apply Keeps.foldl1 | apply Keeps.foldl22 | apply Keeps.foldl222 | apply Keeps.foldl2x)
    | (with_reducible refine KeepsP.p2 ?_) | (with_reducible refine Keeps.of2 (by assumption) ?_)
    | (with_reducible refine Keeps.of1 (by assumption) ?_) | (with_reducible refine Keeps.of3 (by assumption) ?_) | dsimp only
    | (with_reducible exact Keeps.mk (by assumption))

theorem kp_execSetBudget {z : State} (s : State) (hs : Keeps z s) :
    KeepsR z (execSetBudget s) := by
  unfold execSetBudget
  repeat' first
    | (with_reducible assumption) | intro _ | (with_reducible apply kp_kvDo) | (with_reducible apply kp_kvBudgetAct)
    | (with_reducible refine KeepsR.next ?_) | (with_reducible refine Keeps.of2 (by assumption) ?_) | dsimp only

theorem kp_kvPinAct {z : State} (o : KvOp) (s : State) (hs : Keeps z s) :
    Keeps z (kvPinAct o s).2 := by
  change KeepsP (fun y : Option Nat × State => y.2) z _
  unfold kvPinAct
  repeat' first
    | (with_reducible assumption) | (with_reducible apply kp_setKvm) | split | (with_reducible refine KeepsP.mk ?_; with_reducible assumption)
    | (with_reducible refine KeepsP.p2 ?_) | (with_reducible refine Keeps.of2 (by assumption) ?_) | dsimp only
    | (with_reducible exact Keeps.mk (by assumption))

theorem kp_execKvmPin {z : State} (s : State) (hs : Keeps z s) :
    KeepsR z (execKvmPin s) := by
  unfold execKvmPin
  repeat' first
    | (with_reducible assumption) | intro _ | (with_reducible apply kp_kvDo) | (with_reducible apply kp_kvPinAct)
    | (with_reducible refine KeepsR.next ?_) | (with_reducible refine Keeps.of2 (by assumption) ?_) | dsimp only

theorem kp_execKvmBadOp {z : State} (s : State) (hs : Keeps z s) :
    KeepsR z (execKvmBadOp s) := by
  unfold execKvmBadOp
  repeat' first
    | (with_reducible assumption) | (with_reducible apply kp_kvOpEnd) | split | (with_reducible refine KeepsR.next ?_) | dsimp only
    | (with_reducible exact Keeps.mk (by assumption))

theorem kp_kvMoveStart {z : State} (n : Nat) (q : Nat) (x : KvPair) (j : Nat) (op : Bool) (s : State) (hs : Keeps z s) :
    Keeps z (kvMoveStart n q x j op s) := by
  unfold kvMoveStart
  repeat' first
    | (with_reducible assumption) | intro _
    | (extract_lets +onlyGivenNames lv; first | (have hx : Keeps z lv := ?_; generalize lv = w at hx ⊢; clear lv; rotate_left; subst lv) | (generalize lv = w; clear lv) | subst lv)
    | (with_reducible apply kp_setKvH) | (with_reducible apply kp_updPairs) | (with_reducible apply kp_setKvm) | split | dsimp only
    | (with_reducible exact Keeps.mk (by assumption))

theorem kp_kvMoveAct {z : State} (o : KvOp) (s : State) (hs : Keeps z s) :
    Keeps z (kvMoveAct o s).2 := by
  change KeepsP (fun y : Option Nat × State => y.2) z _
  unfold kvMoveAct
  repeat' first
    | (with_reducible assumption)
    | (extract_lets +onlyGivenNames lv; first | (have hx : Keeps z lv := ?_; generalize lv = w at hx ⊢; clear lv; rotate_left; subst lv) | (have hx : KeepsP (fun y : _ × State => y.2) z lv := ?_; generalize lv = w at hx ⊢; clear lv; replace hx : Keeps z w.2 := hx; rotate_left; subst lv) | (generalize lv = w; clear lv) | subst lv)
    | (with_reducible apply kp_setKvm) | (with_reducible apply kp_kvMoveStart) | split
    | (with_reducible refine KeepsP.mk ?_; with_reducible assumption) | (with_reducible refine KeepsP.p2 ?_)
    | (with_reducible refine Keeps.of2 (by assumption) ?_) | dsimp only | (with_reducible exact Keeps.mk (by assumption))

theorem kp_execKvmMove {z : State} (s : State) (hs : Keeps z s) :
    KeepsR z (execKvmMove s) := by
  unfold execKvmMove
  repeat' first
    | (with_reducible assumption) | intro _ | (with_reducible apply kp_kvDo) | (with_reducible apply kp_kvMoveAct)
    | (with_reducible refine KeepsR.next ?_) | (with_reducible refine Keeps.of2 (by assumption) ?_) | dsimp only

theorem kp_balGo {z : State} (n : Nat) (a : Nat) (a2 : State) (ha2 : Keeps z a2) :
    Keeps z (balGo n a a2) := by
  induction a generalizing n a2 with
  | zero => unfold balGo; repeat' first
    | (with_reducible assumption) | intro _
    | (extract_lets +onlyGivenNames lv; first | (have hx : Keeps z lv := ?_; generalize lv = w at hx ⊢; clear lv; rotate_left; subst lv) | (have hx : KeepsP (fun y : _ × State => y.2) z lv := ?_; generalize lv = w at hx ⊢; clear lv; replace hx : Keeps z w.2 := hx; rotate_left; subst lv) | (have hx : KeepsP (fun y : State × _ => y.1) z lv := ?_; generalize lv = w at hx ⊢; clear lv; replace hx : Keeps z w.1 := hx; rotate_left; subst lv) | (have hx : KeepsP (fun y : _ × _ × State => y.2.2) z lv := ?_; generalize lv = w at hx ⊢; clear lv; replace hx : Keeps z w.2.2 := hx; rotate_left; subst lv) | (generalize lv = w; clear lv) | subst lv)
    | (with_reducible apply kp_kvMoveStart) | (with_reducible apply Keeps.foldl) | (with_reducible apply Keeps.foldlx)
    | (with_reducible apply Keeps.foldlv) | (with_reducible apply Keeps.foldl2) | (with_reducible apply Keeps.foldl1)
    | (with_reducible apply Keeps.foldl22) | (with_reducible apply Keeps.foldl222) | (with_reducible apply Keeps.foldl2x) | split
    | (with_reducible refine KeepsP.mk ?_; with_reducible first | assumption | apply Keeps.foldlx | apply Keeps.foldlv | apply Keeps.foldl2 | apply Keeps.foldl1 | apply Keeps.foldl22 | apply Keeps.foldl222 | apply Keeps.foldl2x)
    | (with_reducible refine KeepsP.p1 ?_) | (with_reducible refine KeepsP.p2 ?_) | (with_reducible refine KeepsP.p22 ?_)
    | (with_reducible refine Keeps.of2 (by assumption) ?_) | (with_reducible refine Keeps.of1 (by assumption) ?_)
    | (with_reducible refine Keeps.of3 (by assumption) ?_) | dsimp only | (with_reducible exact Keeps.mk (by assumption))
  | succ w ih => unfold balGo; repeat' first
    | (with_reducible assumption) | intro _
    | (extract_lets +onlyGivenNames lv; first | (have hx : Keeps z lv := ?_; generalize lv = w at hx ⊢; clear lv; rotate_left; subst lv) | (have hx : KeepsP (fun y : _ × State => y.2) z lv := ?_; generalize lv = w at hx ⊢; clear lv; replace hx : Keeps z w.2 := hx; rotate_left; subst lv) | (have hx : KeepsP (fun y : State × _ => y.1) z lv := ?_; generalize lv = w at hx ⊢; clear lv; replace hx : Keeps z w.1 := hx; rotate_left; subst lv) | (have hx : KeepsP (fun y : _ × _ × State => y.2.2) z lv := ?_; generalize lv = w at hx ⊢; clear lv; replace hx : Keeps z w.2.2 := hx; rotate_left; subst lv) | (generalize lv = w; clear lv) | subst lv)
    | (with_reducible apply ih) | (with_reducible apply kp_kvMoveStart) | (with_reducible apply Keeps.foldl) | (with_reducible apply Keeps.foldlx)
    | (with_reducible apply Keeps.foldlv) | (with_reducible apply Keeps.foldl2) | (with_reducible apply Keeps.foldl1)
    | (with_reducible apply Keeps.foldl22) | (with_reducible apply Keeps.foldl222) | (with_reducible apply Keeps.foldl2x) | split
    | (with_reducible refine KeepsP.mk ?_; with_reducible first | assumption | apply Keeps.foldlx | apply Keeps.foldlv | apply Keeps.foldl2 | apply Keeps.foldl1 | apply Keeps.foldl22 | apply Keeps.foldl222 | apply Keeps.foldl2x)
    | (with_reducible refine KeepsP.p1 ?_) | (with_reducible refine KeepsP.p2 ?_) | (with_reducible refine KeepsP.p22 ?_)
    | (with_reducible refine Keeps.of2 (by assumption) ?_) | (with_reducible refine Keeps.of1 (by assumption) ?_)
    | (with_reducible refine Keeps.of3 (by assumption) ?_) | dsimp only | (with_reducible exact Keeps.mk (by assumption))

theorem kp_execRebalance {z : State} (n : Nat) (s : State) (hs : Keeps z s) :
    KeepsR z (execRebalance n s) := by
  unfold execRebalance
  repeat' first
    | (with_reducible assumption)
    | (extract_lets +onlyGivenNames lv; first | (have hx : Keeps z lv := ?_; generalize lv = w at hx ⊢; clear lv; rotate_left; subst lv) | (generalize lv = w; clear lv) | subst lv)
    | (with_reducible refine KeepsR.next ?_) | (with_reducible apply kp_waitTill) | (with_reducible apply kp_setKvm)
    | (with_reducible apply kp_balGo) | (with_reducible apply kp_raise) | split | (with_reducible exact Keeps.mk (by assumption))

theorem kp_execMoveCopyDone {z : State} (k : Nat) (s : State) (hs : Keeps z s) :
    KeepsR z (execMoveCopyDone k s) := by
  unfold execMoveCopyDone
  repeat' first
    | (with_reducible assumption)
    | (extract_lets +onlyGivenNames lv; first | (have hx : Keeps z lv := ?_; generalize lv = w at hx ⊢; clear lv; rotate_left; subst lv) | (generalize lv = w; clear lv) | subst lv)
    | (with_reducible apply kp_setKvH) | split | (with_reducible refine KeepsR.next ?_) | dsimp only | (with_reducible exact Keeps.mk (by assumption))

theorem kp_kvCopyGo {z : State} (i : Nat) (j : Nat) (h : KvH) (slots : List Nat) (a : Nat) (a5 : List KData) (a6 : Kx) (ha6 : Keeps z a6.s) :
    Keeps z (kvCopyGo i j h slots a a5 a6).s := by
  induction a5 generalizing i j h slots a a6 with
  | nil => change KeepsP (fun y : Kx => y.s) z _; unfold kvCopyGo; repeat' first
    | (with_reducible assumption) | intro _
    | (extract_lets +onlyGivenNames lv; first | (have hx : Keeps z lv := ?_; generalize lv = w at hx ⊢; clear lv; rotate_left; subst lv) | (have hv : KeepsP (fun y : Kx => y.s) z lv := ?_; obtain ⟨w, e, hx⟩ : ∃ w, w = lv ∧ KeepsP (fun y : Kx => y.s) z w := ⟨lv, rfl, hv⟩; try rw [← e]; clear e hv lv; replace hx : Keeps z w.s := hx; rotate_left; subst lv) | (have hfn0 : ∀ y, Keeps z y → Keeps z (lv y) := ?_; generalize lv = w at hfn0 ⊢; clear lv; rotate_left; subst lv) | (have hfn1 : ∀ a y, Keeps z y → Keeps z (lv a y) := ?_; generalize lv = w at hfn1 ⊢; clear lv; rotate_left; subst lv) | (have hfn2 : ∀ a b y, Keeps z y → Keeps z (lv a b y) := ?_; generalize lv = w at hfn2 ⊢; clear lv; rotate_left; subst lv) | (have hfn3 : ∀ a b c y, Keeps z y → Keeps z (lv a b c y) := ?_; generalize lv = w at hfn3 ⊢; clear lv; rotate_left; subst lv) | (have hfn4 : ∀ y a, Keeps z y → Keeps z (lv y a) := ?_; generalize lv = w at hfn4 ⊢; clear lv; rotate_left; subst lv) | (have hfn5 : ∀ a, Keeps z (lv a) := ?_; generalize lv = w at hfn5 ⊢; clear lv; rotate_left; subst lv) | (have hfn6 : ∀ a b, Keeps z (lv a b) := ?_; generalize lv = w at hfn6 ⊢; clear lv; rotate_left; subst lv) | (have hfn7 : ∀ y a b, Keeps z y → Keeps z (lv y a b) := ?_; generalize lv = w at hfn7 ⊢; clear lv; rotate_left; subst lv) | (have hfn8 : ∀ a, KeepsR z (lv a) := ?_; generalize lv = w at hfn8 ⊢; clear lv; rotate_left; subst lv) | (have hfn9 : ∀ y, Keeps z y → KeepsC z (lv y) := ?_; generalize lv = w at hfn9 ⊢; clear lv; rotate_left; subst lv) | (have hfn10 : ∀ y, Keeps z y → KeepsR z (lv y) := ?_; generalize lv = w at hfn10 ⊢; clear lv; rotate_left; subst lv) | (have hfn11 : ∀ a y, Keeps z y → KeepsR z (lv a y) := ?_; generalize lv = w at hfn11 ⊢; clear lv; rotate_left; subst lv) | (have hfn12 : ∀ y a, Keeps z y → KeepsR z (lv y a) := ?_; generalize lv = w at hfn12 ⊢; clear lv; rotate_left; subst lv) | (generalize lv = w; clear lv) | subst lv)
    | (with_reducible apply hfn0) | (with_reducible apply hfn1) | (with_reducible apply hfn2) | (with_reducible apply hfn3)
    | (with_reducible apply hfn4) | (with_reducible apply hfn5) | (with_reducible apply hfn6) | (with_reducible apply hfn7)
    | (with_reducible apply hfn8) | (with_reducible apply hfn9) | (with_reducible apply hfn10) | (with_reducible apply hfn11)
    | (with_reducible apply hfn12) | (with_reducible apply kp_kvWr) | split
    | (with_reducible refine KeepsP.mk ?_; with_reducible first | assumption | apply ih | apply kp_kvWr) | (with_reducible refine KeepsP.kx ?_)
    | dsimp only
  | cons w w1 ih => change KeepsP (fun y : Kx => y.s) z _; unfold kvCopyGo; repeat' first
    | (with_reducible assumption) | intro _
    | (extract_lets +onlyGivenNames lv; first | (have hx : Keeps z lv := ?_; generalize lv = w at hx ⊢; clear lv; rotate_left; subst lv) | (have hv : KeepsP (fun y : Kx => y.s) z lv := ?_; obtain ⟨w, e, hx⟩ : ∃ w, w = lv ∧ KeepsP (fun y : Kx => y.s) z w := ⟨lv, rfl, hv⟩; try rw [← e]; clear e hv lv; replace hx : Keeps z w.s := hx; rotate_left; subst lv) | (have hfn0 : ∀ y, Keeps z y → Keeps z (lv y) := ?_; generalize lv = w at hfn0 ⊢; clear lv; rotate_left; subst lv) | (have hfn1 : ∀ a y, Keeps z y → Keeps z (lv a y) := ?_; generalize lv = w at hfn1 ⊢; clear lv; rotate_left; subst lv) | (have hfn2 : ∀ a b y, Keeps z y → Keeps z (lv a b y) := ?_; generalize lv = w at hfn2 ⊢; clear lv; rotate_left; subst lv) | (have hfn3 : ∀ a b c y, Keeps z y → Keeps z (lv a b c y) := ?_; generalize lv = w at hfn3 ⊢; clear lv; rotate_left; subst lv) | (have hfn4 : ∀ y a, Keeps z y → Keeps z (lv y a) := ?_; generalize lv = w at hfn4 ⊢; clear lv; rotate_left; subst lv) | (have hfn5 : ∀ a, Keeps z (lv a) := ?_; generalize lv = w at hfn5 ⊢; clear lv; rotate_left; subst lv) | (have hfn6 : ∀ a b, Keeps z (lv a b) := ?_; generalize lv = w at hfn6 ⊢; clear lv; rotate_left; subst lv) | (have hfn7 : ∀ y a b, Keeps z y → Keeps z (lv y a b) := ?_; generalize lv = w at hfn7 ⊢; clear lv; rotate_left; subst lv) | (have hfn8 : ∀ a, KeepsR z (lv a) := ?_; generalize lv = w at hfn8 ⊢; clear lv; rotate_left; subst lv) | (have hfn9 : ∀ y, Keeps z y → KeepsC z (lv y) := ?_; generalize lv = w at hfn9 ⊢; clear lv; rotate_left; subst lv) | (have hfn10 : ∀ y, Keeps z y → KeepsR z (lv y) := ?_; generalize lv = w at hfn10 ⊢; clear lv; rotate_left; subst lv) | (have hfn11 : ∀ a y, Keeps z y → KeepsR z (lv a y) := ?_; generalize lv = w at hfn11 ⊢; clear lv; rotate_left; subst lv) | (have hfn12 : ∀ y a, Keeps z y → KeepsR z (lv y a) := ?_; generalize lv = w at hfn12 ⊢; clear lv; rotate_left; subst lv) | (generalize lv = w; clear lv) | subst lv)
    | (with_reducible apply hfn0) | (with_reducible apply hfn1) | (with_reducible apply hfn2) | (with_reducible apply hfn3)
    | (with_reducible apply hfn4) | (with_reducible apply hfn5) | (with_reducible apply hfn6) | (with_reducible apply hfn7)
    | (with_reducible apply hfn8) | (with_reducible apply hfn9) | (with_reducible apply hfn10) | (with_reducible apply hfn11)
    | (with_reducible apply hfn12) | (with_reducible apply ih) | (with_reducible apply kp_kvWr) | split
    | (with_reducible refine KeepsP.mk ?_; with_reducible first | assumption | apply ih | apply kp_kvWr) | (with_reducible refine KeepsP.kx ?_)
    | dsimp only

theorem kp_moveFailed {z : State} (m : KvMove) (s : State) (hs : Keeps z s) :
    Keeps z (moveFailed m s) := by
  unfold moveFailed
  repeat' first
    | (with_reducible assumption) | (with_reducible apply kp_recordCE) | (with_reducible apply kp_kvAbandon)

theorem kp_execMoveFail {z : State} (k : Nat) (err : Bool) (s : State) (hs : Keeps z s) :
    KeepsR z (execMoveFail k err s) := by
  unfold execMoveFail
  repeat' first
    | (with_reducible assumption) | (with_reducible refine KeepsR.next ?_) | (with_reducible apply kp_moveFailed)
    | (with_reducible apply kp_waitTill) | split

theorem kp_moveCopy {z : State} (m : KvMove) (hs : List (List (Option Nat))) (s : State) (hks : Keeps z s) :
    Keeps z (moveCopy m hs s).2.s := by
  change KeepsP (fun y : List Nat × Kx => y.2.s) z _
  unfold moveCopy
  repeat' first
    | (with_reducible assumption)
    | (extract_lets +onlyGivenNames lv; first | (have hx : Keeps z lv := ?_; generalize lv = w at hx ⊢; clear lv; rotate_left; subst lv) | (have hv : KeepsP (fun y : _ × Kx => y.2.s) z lv := ?_; obtain ⟨w, e, hx⟩ : ∃ w, w = lv ∧ KeepsP (fun y : _ × Kx => y.2.s) z w := ⟨lv, rfl, hv⟩; try rw [← e]; clear e hv lv; replace hx : Keeps z w.2.s := hx; rotate_left; subst lv) | (have hv : KeepsP (fun y : Kx => y.s) z lv := ?_; obtain ⟨w, e, hx⟩ : ∃ w, w = lv ∧ KeepsP (fun y : Kx => y.s) z w := ⟨lv, rfl, hv⟩; try rw [← e]; clear e hv lv; replace hx : Keeps z w.s := hx; rotate_left; subst lv) | (have hv : KeepsP (fun y : VIo => y.s) z lv := ?_; obtain ⟨w, e, hx⟩ : ∃ w, w = lv ∧ KeepsP (fun y : VIo => y.s) z w := ⟨lv, rfl, hv⟩; try rw [← e]; clear e hv lv; replace hx : Keeps z w.s := hx; rotate_left; subst lv) | (have hv : KeepsP (fun y : EncIn => y.io.s) z lv := ?_; obtain ⟨w, e, hx⟩ : ∃ w, w = lv ∧ KeepsP (fun y : EncIn => y.io.s) z w := ⟨lv, rfl, hv⟩; try rw [← e]; clear e hv lv; replace hx : Keeps z w.io.s := hx; rotate_left; subst lv) | (have hv : KeepsP (fun y : VIo × _ => y.1.s) z lv := ?_; obtain ⟨w, e, hx⟩ : ∃ w, w = lv ∧ KeepsP (fun y : VIo × _ => y.1.s) z w := ⟨lv, rfl, hv⟩; try rw [← e]; clear e hv lv; replace hx : Keeps z w.1.s := hx; rotate_left; subst lv) | (generalize lv = w; clear lv) | subst lv)
    | (with_reducible apply kp_kvChain) | (with_reducible apply kp_kvData) | (with_reducible apply kp_kvCopyGo)
    | (with_reducible refine KeepsP.mk ?_; with_reducible first | assumption | apply kp_kvChain | apply kp_kvData | apply kp_kvCopyGo)
    | (with_reducible refine KeepsP.p1 ?_) | (with_reducible refine KeepsP.p2 ?_) | (with_reducible refine KeepsP.p22 ?_)
    | (with_reducible refine KeepsP.kx ?_) | (with_reducible refine KeepsP.p2x ?_) | (with_reducible refine Keeps.of2x (by assumption) ?_)
    | (with_reducible refine KeepsP.vio1 ?_) | (with_reducible refine KeepsP.encin ?_) | (with_reducible refine KeepsP.vio ?_)
    | (with_reducible refine Keeps.of1v (by assumption) ?_) | (with_reducible refine Keeps.of2 (by assumption) ?_)
    | (with_reducible refine Keeps.of1 (by assumption) ?_) | (with_reducible refine Keeps.of3 (by assumption) ?_)

theorem kp_moveOver {z : State} (m : KvMove) (h : KvH) (slots : List Nat) (left : List Nat) (now : Nat) (s : State) (hs : Keeps z s) :
    Keeps z (moveOver m h slots left now s) := by
  unfold moveOver
  repeat' first
    | (with_reducible assumption) | intro _
    | (extract_lets +onlyGivenNames lv; first | (have hx : Keeps z lv := ?_; generalize lv = w at hx ⊢; clear lv; rotate_left; subst lv) | (have hx : KeepsP (fun y : _ × State => y.2) z lv := ?_; generalize lv = w at hx ⊢; clear lv; replace hx : Keeps z w.2 := hx; rotate_left; subst lv) | (have hx : KeepsP (fun y : State × _ => y.1) z lv := ?_; generalize lv = w at hx ⊢; clear lv; replace hx : Keeps z w.1 := hx; rotate_left; subst lv) | (have hx : KeepsP (fun y : _ × _ × State => y.2.2) z lv := ?_; generalize lv = w at hx ⊢; clear lv; replace hx : Keeps z w.2.2 := hx; rotate_left; subst lv) | (generalize lv = w; clear lv) | subst lv)
    | (with_reducible apply kp_kvFreeSlots) | (with_reducible apply kp_kvTake) | (with_reducible apply kp_setKvH) | (with_reducible apply kp_setKvm)
    | (with_reducible apply kp_updPairs) | (with_reducible apply kp_raise) | (with_reducible apply kp_bump) | (with_reducible apply kp_kvUnhold)
    | (with_reducible apply kp_kvEnd) | (with_reducible apply kp_kvMoveOpEnd) | (with_reducible apply Keeps.foldl)
    | (with_reducible apply Keeps.foldlx) | (with_reducible apply Keeps.foldlv) | (with_reducible apply Keeps.foldl2)
    | (with_reducible apply Keeps.foldl1) | (with_reducible apply Keeps.foldl22) | (with_reducible apply Keeps.foldl222)
    | (with_reducible apply Keeps.foldl2x) | split
    | (with_reducible refine KeepsP.mk ?_; with_reducible first | assumption | apply Keeps.foldlx | apply Keeps.foldlv | apply Keeps.foldl2 | apply Keeps.foldl1 | apply Keeps.foldl22 | apply Keeps.foldl222 | apply Keeps.foldl2x)
    | (with_reducible refine KeepsP.p1 ?_) | (with_reducible refine KeepsP.p2 ?_) | (with_reducible refine KeepsP.p22 ?_)
    | (with_reducible refine Keeps.of2 (by assumption) ?_) | (with_reducible refine Keeps.of1 (by assumption) ?_)
    | (with_reducible refine Keeps.of3 (by assumption) ?_) | dsimp only | (with_reducible exact Keeps.mk (by assumption))

theorem kp_execPairMoved {z : State} (k : Nat) (hs : List (List (Option Nat))) (s : State) (hks : Keeps z s) :
    KeepsR z (execPairMoved k hs s) := by
  unfold execPairMoved
  repeat' first
    | (with_reducible assumption)
    | (extract_lets +onlyGivenNames lv; first | (have hx : Keeps z lv := ?_; generalize lv = w at hx ⊢; clear lv; rotate_left; subst lv) | (have hv : KeepsP (fun y : _ × Kx => y.2.s) z lv := ?_; obtain ⟨w, e, hx⟩ : ∃ w, w = lv ∧ KeepsP (fun y : _ × Kx => y.2.s) z w := ⟨lv, rfl, hv⟩; try rw [← e]; clear e hv lv; replace hx : Keeps z w.2.s := hx; rotate_left; subst lv) | (have hv : KeepsP (fun y : Kx => y.s) z lv := ?_; obtain ⟨w, e, hx⟩ : ∃ w, w = lv ∧ KeepsP (fun y : Kx => y.s) z w := ⟨lv, rfl, hv⟩; try rw [← e]; clear e hv lv; replace hx : Keeps z w.s := hx; rotate_left; subst lv) | (have hv : KeepsP (fun y : VIo => y.s) z lv := ?_; obtain ⟨w, e, hx⟩ : ∃ w, w = lv ∧ KeepsP (fun y : VIo => y.s) z w := ⟨lv, rfl, hv⟩; try rw [← e]; clear e hv lv; replace hx : Keeps z w.s := hx; rotate_left; subst lv) | (have hv : KeepsP (fun y : EncIn => y.io.s) z lv := ?_; obtain ⟨w, e, hx⟩ : ∃ w, w = lv ∧ KeepsP (fun y : EncIn => y.io.s) z w := ⟨lv, rfl, hv⟩; try rw [← e]; clear e hv lv; replace hx : Keeps z w.io.s := hx; rotate_left; subst lv) | (have hv : KeepsP (fun y : VIo × _ => y.1.s) z lv := ?_; obtain ⟨w, e, hx⟩ : ∃ w, w = lv ∧ KeepsP (fun y : VIo × _ => y.1.s) z w := ⟨lv, rfl, hv⟩; try rw [← e]; clear e hv lv; replace hx : Keeps z w.1.s := hx; rotate_left; subst lv) | (generalize lv = w; clear lv) | subst lv)
    | (with_reducible refine KeepsR.next ?_) | (with_reducible apply kp_moveCopy) | (with_reducible apply kp_moveFailed)
    | (with_reducible apply kp_moveOver) | split | (with_reducible refine KeepsP.mk ?_; with_reducible first | assumption | apply kp_moveCopy)
    | (with_reducible refine KeepsP.p1 ?_) | (with_reducible refine KeepsP.p2 ?_) | (with_reducible refine KeepsP.p22 ?_)
    | (with_reducible refine KeepsP.kx ?_) | (with_reducible refine KeepsP.p2x ?_) | (with_reducible refine Keeps.of2x (by assumption) ?_)
    | (with_reducible refine KeepsP.vio1 ?_) | (with_reducible refine KeepsP.encin ?_) | (with_reducible refine KeepsP.vio ?_)
    | (with_reducible refine Keeps.of1v (by assumption) ?_) | (with_reducible refine Keeps.of2 (by assumption) ?_)
    | (with_reducible refine Keeps.of1 (by assumption) ?_) | (with_reducible refine Keeps.of3 (by assumption) ?_)

theorem kp_execMovedExpiry {z : State} (i : Nat) (hn : Nat) (s : State) (hs : Keeps z s) :
    KeepsR z (execMovedExpiry i hn s) := by
  unfold execMovedExpiry
  repeat' first
    | (with_reducible assumption)
    | (extract_lets +onlyGivenNames lv; first | (have hx : Keeps z lv := ?_; generalize lv = w at hx ⊢; clear lv; rotate_left; subst lv) | (generalize lv = w; clear lv) | subst lv)
    | (with_reducible refine KeepsR.next ?_) | (with_reducible apply kp_setKvH) | (with_reducible apply kp_waitTill) | split

theorem kp_execKvPoolCfgWrite {z : State} (fn : Nat) (i : Nat) (r : Nat) (v : Nat) (s : State) (hs : Keeps z s) :
    KeepsR z (execKvPoolCfgWrite fn i r v s) := by
  unfold execKvPoolCfgWrite
  repeat' first
    | (with_reducible assumption) | intro _
    | (extract_lets +onlyGivenNames lv; first | (have hx : Keeps z lv := ?_; generalize lv = w at hx ⊢; clear lv; rotate_left; subst lv) | (generalize lv = w; clear lv) | subst lv)
    | (with_reducible refine KeepsR.next ?_) | (with_reducible apply kp_barWrite) | (with_reducible apply kp_writeShadow)
    | (with_reducible apply kp_raise) | (with_reducible apply kp_writeHi) | (with_reducible apply kp_showKv) | (with_reducible apply kp_writeReg)
    | split

end Sys2Proof.Machine
end

