-- ==== Sys2Proof/Laws/KeepsHq.lean ====
section
/-! SUPPORT. What every operation of Machine/Hq.lean keeps. -/
set_option linter.all false

namespace Sys2Proof.Machine

theorem kp_sqMove {z : State} (n : Nat) (q : Nat) (k : Nat) (s : State) (hs : Keeps z s) :
    Keeps z (sqMove n q k s) := by
  unfold sqMove
  repeat' first
    | (with_reducible assumption) | (with_reducible apply kp_setF) | dsimp only

theorem kp_entryBad {z : State} (n : Nat) (q : Nat) (k : Nat) (s : State) (hs : Keeps z s) :
    Keeps z (entryBad n q k s) := by
  unfold entryBad
  repeat' first
    | (with_reducible assumption) | (with_reducible apply kp_recordCE) | dsimp only

theorem kp_ringFail {z : State} (n : Nat) (q : Nat) (s : State) (hs : Keeps z s) :
    Keeps z (ringFail n q s) := by
  unfold ringFail
  repeat' first
    | (with_reducible assumption) | (with_reducible apply kp_recordWith) | (with_reducible apply kp_faultBlock) | dsimp only

theorem kp_partialOn {z : State} (n : Nat) (q : Nat) (new : Nat) (s : State) (hs : Keeps z s) :
    Keeps z (partialOn n q new s) := by
  unfold partialOn
  repeat' first
    | (with_reducible assumption)
    | (extract_lets +onlyGivenNames lv; first | (have hx : Keeps z lv := ?_; generalize lv = w at hx ⊢; clear lv; rotate_left; subst lv) | (generalize lv = w; clear lv) | subst lv)
    | (with_reducible apply kp_hqPush) | (with_reducible apply kp_setHq) | (with_reducible apply kp_sqMove) | split | dsimp only
    | (with_reducible exact Keeps.mk (by assumption))

theorem kp_doorbell {z : State} (fn : Nat) (q : Nat) (k : State → State) (s : State) (hk : ∀ y0, Keeps z y0 → Keeps z (k y0)) (hs : Keeps z s) :
    Keeps z (doorbell fn q k s) := by
  unfold doorbell
  repeat' first
    | (with_reducible assumption) | (with_reducible apply hk) | (with_reducible apply kp_raise) | split | dsimp only

theorem kp_sqRing {z : State} (fn : Nat) (q : Nat) (v : Nat) (s : State) (hs : Keeps z s) :
    Keeps z (sqRing fn q v s) := by
  unfold sqRing
  repeat' first
    | (with_reducible assumption) | intro _
    | (extract_lets +onlyGivenNames lv; first | (have hx : Keeps z lv := ?_; generalize lv = w at hx ⊢; clear lv; rotate_left; subst lv) | (generalize lv = w; clear lv) | subst lv)
    | (with_reducible apply kp_doorbell) | (with_reducible apply kp_raise) | (with_reducible apply kp_partialOn) | (with_reducible apply kp_setF)
    | split

theorem kp_cqRing {z : State} (fn : Nat) (q : Nat) (v : Nat) (s : State) (hs : Keeps z s) :
    Keeps z (cqRing fn q v s) := by
  unfold cqRing
  repeat' first
    | (with_reducible assumption) | intro _
    | (extract_lets +onlyGivenNames lv; first | (have hx : Keeps z lv := ?_; generalize lv = w at hx ⊢; clear lv; rotate_left; subst lv) | (generalize lv = w; clear lv) | subst lv)
    | (with_reducible apply kp_doorbell) | (with_reducible apply kp_raise) | (with_reducible apply kp_setF) | (with_reducible apply kp_setHq) | split
    | (with_reducible exact Keeps.mk (by assumption))

theorem kp_execSqDoorbell {z : State} (fn : Nat) (off : Nat) (v : Nat) (s : State) (hs : Keeps z s) :
    KeepsR z (execSqDoorbell fn off v s) := by
  unfold execSqDoorbell
  repeat' first
    | (with_reducible assumption) | (with_reducible refine KeepsR.next ?_) | (with_reducible apply kp_sqRing) | split
    | (with_reducible exact Keeps.mk (by assumption))

theorem kp_execCqDoorbell {z : State} (fn : Nat) (off : Nat) (v : Nat) (s : State) (hs : Keeps z s) :
    KeepsR z (execCqDoorbell fn off v s) := by
  unfold execCqDoorbell
  repeat' first
    | (with_reducible assumption) | (with_reducible refine KeepsR.next ?_) | (with_reducible apply kp_cqRing) | split
    | (with_reducible exact Keeps.mk (by assumption))

theorem kp_hostErr {z : State} (fn : Nat) (kind : Nat) (at_ : Nat) (s : State) (hs : Keeps z s) :
    Keeps z (hostErr fn kind at_ s) := by
  unfold hostErr
  repeat' first
    | (with_reducible assumption)
    | (extract_lets +onlyGivenNames lv; first | (have hx : Keeps z lv := ?_; generalize lv = w at hx ⊢; clear lv; rotate_left; subst lv) | (generalize lv = w; clear lv) | subst lv)
    | (with_reducible apply kp_waitTill) | (with_reducible apply kp_recordCE) | (with_reducible apply kp_raise) | (with_reducible apply kp_emit)
    | split

theorem kp_hostAsk {z : State} (n : Nat) (addr : Nat) (len : Nat) (tag : HostTag) (s : State) (hs : Keeps z s) :
    Keeps z (hostAsk n addr len tag s) := by
  unfold hostAsk
  repeat' first
    | (with_reducible assumption) | (with_reducible apply kp_emit)

theorem kp_ringAsk {z : State} (n : Nat) (q : Nat) (k : Nat) (s : State) (hs : Keeps z s) :
    Keeps z (ringAsk n q k s) := by
  unfold ringAsk
  repeat' first
    | (with_reducible assumption) | (with_reducible apply kp_hostAsk)

theorem kp_fetchBad {z : State} (n : Nat) (q : Nat) (w0 : Nat) (s : State) (hs : Keeps z s) :
    Keeps z (fetchBad n q w0 s) := by
  unfold fetchBad
  repeat' first
    | (with_reducible assumption)
    | (extract_lets +onlyGivenNames lv; first | (have hx : Keeps z lv := ?_; generalize lv = w at hx ⊢; clear lv; rotate_left; subst lv) | (generalize lv = w; clear lv) | subst lv)
    | (with_reducible apply kp_sqMove) | (with_reducible apply kp_setHq) | (with_reducible apply kp_hqPush) | (with_reducible apply kp_entryBad)
    | split | dsimp only | (with_reducible exact Keeps.mk (by assumption))

theorem kp_fetchGood {z : State} (n : Nat) (q : Nat) (w0 : Nat) (sid : Nat) (body : List Byte) (bad : List Nat) (s : State) (hs : Keeps z s) :
    Keeps z (fetchGood n q w0 sid body bad s) := by
  unfold fetchGood
  repeat' first
    | (with_reducible assumption)
    | (extract_lets +onlyGivenNames lv; first | (have hx : Keeps z lv := ?_; generalize lv = w at hx ⊢; clear lv; rotate_left; subst lv) | (generalize lv = w; clear lv) | subst lv)
    | (with_reducible apply kp_sqMove) | (with_reducible apply kp_setHq) | (with_reducible apply kp_hqDup) | (with_reducible apply kp_hqOver)
    | (with_reducible apply kp_entryBad) | split | dsimp only | (with_reducible exact Keeps.mk (by assumption))

theorem kp_execEntryFetch {z : State} (n : Nat) (q : Nat) (w0 : Nat) (sid : Nat) (body : List Byte) (bad : List Nat) (err : Nat) (s : State) (hs : Keeps z s) :
    KeepsR z (execEntryFetch n q w0 sid body bad err s) := by
  unfold execEntryFetch
  repeat' first
    | (with_reducible assumption) | intro _ | (with_reducible refine KeepsR.next ?_) | (with_reducible apply kp_ringFail)
    | (with_reducible apply kp_hostErr) | (with_reducible apply kp_ringAsk) | (with_reducible apply kp_fetchBad) | (with_reducible apply kp_poisonRx)
    | (with_reducible apply kp_fetchGood) | split

theorem kp_updEnt {z : State} (e : HqEnt) (s : State) (hs : Keeps z s) :
    Keeps z (updEnt e s) := by
  unfold updEnt
  repeat' first
    | (with_reducible assumption)
    | (extract_lets +onlyGivenNames lv; first | (have hx : Keeps z lv := ?_; generalize lv = w at hx ⊢; clear lv; rotate_left; subst lv) | (generalize lv = w; clear lv) | subst lv)
    | (with_reducible apply kp_setHq) | split | dsimp only | (with_reducible exact Keeps.mk (by assumption))

theorem kp_startEnt {z : State} (e : HqEnt) (s : State) (hs : Keeps z s) :
    Keeps z (startEnt e s) := by
  unfold startEnt
  repeat' first
    | (with_reducible assumption) | (with_reducible apply kp_updEnt) | dsimp only | (with_reducible exact Keeps.mk (by assumption))

theorem kp_execEntryNop {z : State} (n : Nat) (q : Nat) (k : Nat) (s : State) (hs : Keeps z s) :
    KeepsR z (execEntryNop n q k s) := by
  unfold execEntryNop
  repeat' first
    | (with_reducible assumption) | (with_reducible apply kp_hqOver) | split | (with_reducible refine KeepsR.next ?_) | dsimp only
    | (with_reducible exact Keeps.mk (by assumption))

theorem kp_execDeliver {z : State} (n : Nat) (q : Nat) (k : Nat) (s : State) (hs : Keeps z s) :
    KeepsR z (execDeliver n q k s) := by
  unfold execDeliver
  repeat' first
    | (with_reducible assumption) | intro _
    | (extract_lets +onlyGivenNames lv; first | (have hx : Keeps z lv := ?_; generalize lv = w at hx ⊢; clear lv; rotate_left; subst lv) | (generalize lv = w; clear lv) | subst lv)
    | (with_reducible refine KeepsR.next ?_) | (with_reducible apply kp_hqOver) | (with_reducible apply kp_startEnt) | split
    | (with_reducible exact Keeps.mk (by assumption))

theorem kp_entryMoved {z : State} (e : HqEnt) (len : Nat) (total : Nat) (pois : Bool) (s : State) (hs : Keeps z s) :
    Keeps z (entryMoved e len total pois s) := by
  unfold entryMoved
  repeat' first
    | (with_reducible assumption)
    | (extract_lets +onlyGivenNames lv; first | (have hx : Keeps z lv := ?_; generalize lv = w at hx ⊢; clear lv; rotate_left; subst lv) | (generalize lv = w; clear lv) | subst lv)
    | (with_reducible apply kp_hqOver) | (with_reducible apply kp_updEnt) | split | dsimp only | (with_reducible exact Keeps.mk (by assumption))

theorem kp_restRead {z : State} (rest : Option (Nat × Nat)) (len : Nat) (s : State) (hs : Keeps z s) :
    Keeps z (restRead rest len s).2.2.2 := by
  change KeepsP (fun y : Nat × List Byte × List Nat × State => y.2.2.2) z _
  unfold restRead
  repeat' first
    | (with_reducible assumption) | (with_reducible apply kp_homeRead) | split
    | (with_reducible refine KeepsP.mk ?_; with_reducible first | assumption | apply kp_homeRead) | (with_reducible refine KeepsP.p222 ?_)
    | (with_reducible refine Keeps.of4 (by assumption) ?_) | dsimp only | (with_reducible exact Keeps.mk (by assumption))

theorem kp_restWrite {z : State} (rest : Option (Nat × Nat)) (bs : List Byte) (bad : List Nat) (s : State) (hs : Keeps z s) :
    Keeps z (restWrite rest bs bad s).2 := by
  change KeepsP (fun y : Nat × State => y.2) z _
  unfold restWrite
  repeat' first
    | (with_reducible assumption) | (with_reducible apply kp_homeWrite) | split
    | (with_reducible refine KeepsP.mk ?_; with_reducible first | assumption | apply kp_homeWrite) | (with_reducible refine KeepsP.p2 ?_)
    | (with_reducible refine Keeps.of2 (by assumption) ?_) | dsimp only | (with_reducible exact Keeps.mk (by assumption))

theorem kp_copyOut {z : State} (n : Nat) (e : HqEnt) (i : Nat) (a : Nat) (two : Nat) (rest : Option (Nat × Nat)) (len : Nat) (full : Nat) (s : State) (hs : Keeps z s) :
    Keeps z (copyOut n e i a two rest len full s) := by
  unfold copyOut
  repeat' first
    | (with_reducible assumption) | intro _
    | (extract_lets +onlyGivenNames lv; first | (have hx : Keeps z lv := ?_; generalize lv = w at hx ⊢; clear lv; rotate_left; subst lv) | (have hx : KeepsP (fun y : _ × _ × _ × State => y.2.2.2) z lv := ?_; generalize lv = w at hx ⊢; clear lv; replace hx : Keeps z w.2.2.2 := hx; rotate_left; subst lv) | (generalize lv = w; clear lv) | subst lv)
    | (with_reducible apply kp_moved) | (with_reducible apply kp_homeRead) | (with_reducible apply kp_restRead) | (with_reducible apply kp_hqOver)
    | (with_reducible apply kp_entryMoved) | (with_reducible apply kp_emit) | split
    | (with_reducible refine KeepsP.mk ?_; with_reducible first | assumption | apply kp_homeRead | apply kp_restRead)
    | (with_reducible refine KeepsP.p1 ?_) | (with_reducible refine KeepsP.p2 ?_) | (with_reducible refine KeepsP.p22 ?_)
    | (with_reducible refine KeepsP.p222 ?_) | (with_reducible refine Keeps.of2 (by assumption) ?_)
    | (with_reducible refine Keeps.of1 (by assumption) ?_) | (with_reducible refine Keeps.of3 (by assumption) ?_)
    | (with_reducible refine Keeps.of4 (by assumption) ?_)

theorem kp_pieceAsk {z : State} (n : Nat) (e : HqEnt) (len : Nat) (s : State) (hs : Keeps z s) :
    Keeps z (pieceAsk n e len s) := by
  unfold pieceAsk
  repeat' first
    | (with_reducible assumption) | (with_reducible apply kp_hostAsk) | (with_reducible apply kp_moved)

theorem kp_copyIn {z : State} (e : HqEnt) (i : Nat) (a : Nat) (two : Nat) (rest : Option (Nat × Nat)) (full : Nat) (data : List Byte) (bad : List Nat) (s : State) (hs : Keeps z s) :
    Keeps z (copyIn e i a two rest full data bad s) := by
  unfold copyIn
  repeat' first
    | (with_reducible assumption)
    | (extract_lets +onlyGivenNames lv; first | (have hx : Keeps z lv := ?_; generalize lv = w at hx ⊢; clear lv; rotate_left; subst lv) | (have hx : KeepsP (fun y : _ × State => y.2) z lv := ?_; generalize lv = w at hx ⊢; clear lv; replace hx : Keeps z w.2 := hx; rotate_left; subst lv) | (generalize lv = w; clear lv) | subst lv)
    | (with_reducible apply kp_homeWrite) | (with_reducible apply kp_poisonRx) | (with_reducible apply kp_restWrite)
    | (with_reducible apply kp_hqOver) | (with_reducible apply kp_entryMoved) | split
    | (with_reducible refine KeepsP.mk ?_; with_reducible first | assumption | apply kp_homeWrite | apply kp_restWrite)
    | (with_reducible refine KeepsP.p2 ?_) | (with_reducible refine Keeps.of2 (by assumption) ?_) | dsimp only

theorem kp_execCopy {z : State} (n : Nat) (q : Nat) (k : Nat) (data : List Byte) (bad : List Nat) (fail : Nat) (hs : List (Option Nat)) (s : State) (hks : Keeps z s) :
    KeepsR z (execCopy n q k data bad fail hs s) := by
  unfold execCopy
  repeat' first
    | (with_reducible assumption)
    | (extract_lets +onlyGivenNames lv; first | (have hx : Keeps z lv := ?_; generalize lv = w at hx ⊢; clear lv; rotate_left; subst lv) | (have hx : KeepsP (fun y : _ × State => y.2) z lv := ?_; generalize lv = w at hx ⊢; clear lv; replace hx : Keeps z w.2 := hx; rotate_left; subst lv) | (generalize lv = w; clear lv) | subst lv)
    | (with_reducible refine KeepsR.next ?_) | (with_reducible apply kp_moved) | (with_reducible apply kp_hqOver) | (with_reducible apply kp_hostErr)
    | (with_reducible apply kp_pieceAsk) | (with_reducible apply kp_hubWalk) | (with_reducible apply kp_startEnt) | (with_reducible apply kp_copyOut)
    | (with_reducible apply kp_copyIn) | split | (with_reducible refine KeepsP.mk ?_; with_reducible first | assumption | apply kp_hubWalk)
    | (with_reducible refine KeepsP.p1 ?_) | (with_reducible refine KeepsP.p2 ?_) | (with_reducible refine KeepsP.p22 ?_)
    | (with_reducible refine Keeps.of2 (by assumption) ?_) | (with_reducible refine Keeps.of1 (by assumption) ?_)
    | (with_reducible refine Keeps.of3 (by assumption) ?_) | (with_reducible exact Keeps.mk (by assumption))

theorem kp_execLoad {z : State} (n : Nat) (q : Nat) (k : Nat) (data : List Byte) (bad : List Nat) (fail : Nat) (s : State) (hs : Keeps z s) :
    KeepsR z (execLoad n q k data bad fail s) := by
  unfold execLoad
  repeat' first
    | (with_reducible assumption) | intro _
    | (extract_lets +onlyGivenNames lv; first | (have hx : Keeps z lv := ?_; generalize lv = w at hx ⊢; clear lv; rotate_left; subst lv) | (generalize lv = w; clear lv) | subst lv)
    | (with_reducible refine KeepsR.next ?_) | (with_reducible apply kp_moved) | (with_reducible apply kp_hqOver) | (with_reducible apply kp_hostErr)
    | (with_reducible apply kp_pieceAsk) | (with_reducible apply kp_spadWrite) | (with_reducible apply kp_poisonRx)
    | (with_reducible apply kp_entryMoved) | split

theorem kp_execEntryKvm {z : State} (n : Nat) (q : Nat) (k : Nat) (s : State) (hs : Keeps z s) :
    KeepsR z (execEntryKvm n q k s) := by
  unfold execEntryKvm
  repeat' first
    | (with_reducible assumption) | (with_reducible apply kp_kvSubmit) | (with_reducible apply kp_startEnt) | split
    | (with_reducible refine KeepsR.next ?_) | dsimp only | (with_reducible exact Keeps.mk (by assumption))

theorem kp_hqSignal {z : State} (n : Nat) (q : Nat) (s : State) (hs : Keeps z s) :
    Keeps z (hqSignal n q s) := by
  unfold hqSignal
  repeat' first
    | (with_reducible assumption)
    | (extract_lets +onlyGivenNames lv; first | (have hx : Keeps z lv := ?_; generalize lv = w at hx ⊢; clear lv; rotate_left; subst lv) | (generalize lv = w; clear lv) | subst lv)
    | (with_reducible apply kp_setHq) | (with_reducible apply kp_sendMsix) | split | dsimp only | (with_reducible exact Keeps.mk (by assumption))

theorem kp_execEntryCompletion {z : State} (n : Nat) (q : Nat) (err : Bool) (s : State) (hs : Keeps z s) :
    KeepsR z (execEntryCompletion n q err s) := by
  unfold execEntryCompletion
  repeat' first
    | (with_reducible assumption) | intro _
    | (extract_lets +onlyGivenNames lv; first | (have hx : Keeps z lv := ?_; generalize lv = w at hx ⊢; clear lv; rotate_left; subst lv) | (generalize lv = w; clear lv) | subst lv)
    | (with_reducible refine KeepsR.next ?_) | (with_reducible apply kp_ringFail) | (with_reducible apply kp_emit) | (with_reducible apply kp_setHq)
    | (with_reducible apply kp_hqSignal) | (with_reducible apply kp_setF) | split | (with_reducible exact Keeps.mk (by assumption))

theorem kp_execImodTimer {z : State} (n : Nat) (q : Nat) (s : State) (hs : Keeps z s) :
    KeepsR z (execImodTimer n q s) := by
  unfold execImodTimer
  repeat' first
    | (with_reducible assumption)
    | (extract_lets +onlyGivenNames lv; first | (have hx : Keeps z lv := ?_; generalize lv = w at hx ⊢; clear lv; rotate_left; subst lv) | (generalize lv = w; clear lv) | subst lv)
    | (with_reducible refine KeepsR.next ?_) | (with_reducible apply kp_waitTill) | (with_reducible apply kp_sendMsix)
    | (with_reducible apply kp_setHq) | split | (with_reducible exact Keeps.mk (by assumption))

theorem kp_flushAnnounced {z : State} (n : Nat) (q : Nat) (a2 : List (Nat × Nat)) (a3 : State) (ha3 : Keeps z a3) :
    Keeps z (flushAnnounced n q a2 a3) := by
  induction a2 generalizing n q a3 with
  | nil => unfold flushAnnounced; repeat' first
      | (with_reducible assumption)
      | (extract_lets +onlyGivenNames lv; first | (have hx : Keeps z lv := ?_; generalize lv = w at hx ⊢; clear lv; rotate_left; subst lv) | (generalize lv = w; clear lv) | subst lv)
      | (with_reducible apply kp_sqMove) | (with_reducible apply kp_hqPush) | (with_reducible apply kp_setHq) | split
      | (with_reducible exact Keeps.mk (by assumption))
  | cons w0 w ih => unfold flushAnnounced; repeat' first
      | (with_reducible assumption)
      | (extract_lets +onlyGivenNames lv; first | (have hx : Keeps z lv := ?_; generalize lv = w at hx ⊢; clear lv; rotate_left; subst lv) | (generalize lv = w; clear lv) | subst lv)
      | (with_reducible apply ih) | (with_reducible apply kp_sqMove) | (with_reducible apply kp_hqPush) | (with_reducible apply kp_setHq) | split
      | (with_reducible exact Keeps.mk (by assumption))

theorem kp_execHqFlush {z : State} (fn : Nat) (n : Nat) (q : Nat) (v : Nat) (hdrs : List (Nat × Nat)) (s : State) (hs : Keeps z s) :
    KeepsR z (execHqFlush fn n q v hdrs s) := by
  unfold execHqFlush
  repeat' first
    | (with_reducible assumption) | intro _
    | (extract_lets +onlyGivenNames lv; first | (have hx : Keeps z lv := ?_; generalize lv = w at hx ⊢; clear lv; rotate_left; subst lv) | (generalize lv = w; clear lv) | subst lv)
    | (with_reducible refine KeepsR.next ?_) | (with_reducible apply kp_barWrite) | (with_reducible apply kp_flushAnnounced)
    | (with_reducible apply kp_hqOver) | (with_reducible apply Keeps.foldl) | (with_reducible apply Keeps.foldlx)
    | (with_reducible apply Keeps.foldlv) | (with_reducible apply Keeps.foldl2) | (with_reducible apply Keeps.foldl1)
    | (with_reducible apply Keeps.foldl22) | (with_reducible apply Keeps.foldl222) | (with_reducible apply Keeps.foldl2x) | split

theorem kp_execHqCfgWrite {z : State} (fn : Nat) (n : Nat) (q : Nat) (v : Nat) (s : State) (hs : Keeps z s) :
    KeepsR z (execHqCfgWrite fn n q v s) := by
  unfold execHqCfgWrite
  repeat' first
    | (with_reducible assumption) | intro _
    | (extract_lets +onlyGivenNames lv; first | (have hx : Keeps z lv := ?_; generalize lv = w at hx ⊢; clear lv; rotate_left; subst lv) | (generalize lv = w; clear lv) | subst lv)
    | (with_reducible apply kp_barWrite) | (with_reducible apply kp_raise) | (with_reducible apply kp_writeReg) | split
    | (with_reducible refine KeepsR.next ?_) | dsimp only

theorem kp_execHqDestWrite {z : State} (fn : Nat) (n : Nat) (q : Nat) (v : Nat) (s : State) (hs : Keeps z s) :
    KeepsR z (execHqDestWrite fn n q v s) := by
  unfold execHqDestWrite
  repeat' first
    | (with_reducible assumption) | intro _
    | (extract_lets +onlyGivenNames lv; first | (have hx : Keeps z lv := ?_; generalize lv = w at hx ⊢; clear lv; rotate_left; subst lv) | (generalize lv = w; clear lv) | subst lv)
    | (with_reducible apply kp_barWrite) | (with_reducible apply kp_raise) | (with_reducible apply kp_writeReg) | split
    | (with_reducible refine KeepsR.next ?_) | dsimp only

theorem kp_winFault {z : State} (n : Nat) (va : Nat) (s : State) (hs : Keeps z s) :
    Keeps z (winFault n va s) := by
  unfold winFault
  repeat' first
    | (with_reducible assumption) | (with_reducible apply kp_recordCE) | (with_reducible apply kp_raise) | (with_reducible apply kp_setF) | dsimp only

theorem kp_winPieces {z : State} (n : Nat) (write : Bool) (hs : List (Option Nat)) (a3 : List (Nat × Nat)) (a4 : State) (ha4 : Keeps z a4) :
    Keeps z (winPieces n write hs a3 a4).2.2.2 := by
  induction a3 generalizing a4 with
  | nil => unfold winPieces; exact ha4
  | cons w l ih =>
    obtain ⟨va, len⟩ := w
    have h := kp_hubWalk n (va % 2 ^ 48) write hs a4 ha4
    unfold winPieces
    dsimp only
    split
    · exact ih _ h
    · exact h
    · exact h
    · exact h

theorem kp_winDead {z : State} (n : Nat) (len : Nat) (va : Nat) (s : State) (hs : Keeps z s) :
    Keeps z (winDead n len va s) := by
  unfold winDead
  repeat' first
    | (with_reducible assumption) | (with_reducible apply kp_emit) | (with_reducible apply kp_winFault)

theorem kp_barWait {z : State} (fn : Nat) (w : BarWr) (s : State) (hs : Keeps z s) :
    Keeps z (barWait fn w s) := by
  unfold barWait
  repeat' first
    | (with_reducible assumption) | (with_reducible exact Keeps.mk (by assumption))

theorem kp_barOver {z : State} (fn : Nat) (s : State) (hs : Keeps z s) :
    Keeps z (barOver fn s) := by
  unfold barOver
  repeat' first
    | (with_reducible assumption) | (with_reducible exact Keeps.mk (by assumption))

theorem kp_winRead {z : State} (l : List (Nat × Nat × Nat)) (s : State) (hs : Keeps z s) :
    Keeps z (winRead l s).2.2.2 := by
  change KeepsP (fun y : Nat × List Byte × List Nat × State => y.2.2.2) z _
  unfold winRead
  repeat' first
    | (with_reducible assumption) | intro _
    | (extract_lets +onlyGivenNames lv; first | (have hx : Keeps z lv := ?_; generalize lv = w at hx ⊢; clear lv; rotate_left; subst lv) | (have hx : KeepsP (fun y : _ × State => y.2) z lv := ?_; generalize lv = w at hx ⊢; clear lv; replace hx : Keeps z w.2 := hx; rotate_left; subst lv) | (have hx : KeepsP (fun y : State × _ => y.1) z lv := ?_; generalize lv = w at hx ⊢; clear lv; replace hx : Keeps z w.1 := hx; rotate_left; subst lv) | (have hx : KeepsP (fun y : _ × _ × State => y.2.2) z lv := ?_; generalize lv = w at hx ⊢; clear lv; replace hx : Keeps z w.2.2 := hx; rotate_left; subst lv) | (have hx : KeepsP (fun y : _ × _ × _ × State => y.2.2.2) z lv := ?_; generalize lv = w at hx ⊢; clear lv; replace hx : Keeps z w.2.2.2 := hx; rotate_left; subst lv) | (generalize lv = w; clear lv) | subst lv)
    | (with_reducible apply kp_homeRead) | (with_reducible apply Keeps.foldl) | (with_reducible apply Keeps.foldlx)
    | (with_reducible apply Keeps.foldlv) | (with_reducible apply Keeps.foldl2) | (with_reducible apply Keeps.foldl1)
    | (with_reducible apply Keeps.foldl22) | (with_reducible apply Keeps.foldl222) | (with_reducible apply Keeps.foldl2x) | split
    | (with_reducible refine KeepsP.mk ?_; with_reducible first | assumption | apply kp_homeRead | apply Keeps.foldlx | apply Keeps.foldlv | apply Keeps.foldl2 | apply Keeps.foldl1 | apply Keeps.foldl22 | apply Keeps.foldl222 | apply Keeps.foldl2x)
    | (with_reducible refine KeepsP.p1 ?_) | (with_reducible refine KeepsP.p2 ?_) | (with_reducible refine KeepsP.p22 ?_)
    | (with_reducible refine KeepsP.p222 ?_) | (with_reducible refine Keeps.of2 (by assumption) ?_)
    | (with_reducible refine Keeps.of1 (by assumption) ?_) | (with_reducible refine Keeps.of3 (by assumption) ?_)
    | (with_reducible refine Keeps.of4 (by assumption) ?_)

theorem kp_winWrite {z : State} (l : List (Nat × Nat × Nat)) (data : List Byte) (ep : Bool) (s : State) (hs : Keeps z s) :
    Keeps z (winWrite l data ep s).2.2 := by
  change KeepsP (fun y : Nat × Nat × State => y.2.2) z _
  unfold winWrite
  repeat' first
    | (with_reducible assumption) | intro _
    | (extract_lets +onlyGivenNames lv; first | (have hx : Keeps z lv := ?_; generalize lv = w at hx ⊢; clear lv; rotate_left; subst lv) | (have hx : KeepsP (fun y : _ × State => y.2) z lv := ?_; generalize lv = w at hx ⊢; clear lv; replace hx : Keeps z w.2 := hx; rotate_left; subst lv) | (have hx : KeepsP (fun y : _ × _ × State => y.2.2) z lv := ?_; generalize lv = w at hx ⊢; clear lv; replace hx : Keeps z w.2.2 := hx; rotate_left; subst lv) | (have hx : KeepsP (fun y : State × _ => y.1) z lv := ?_; generalize lv = w at hx ⊢; clear lv; replace hx : Keeps z w.1 := hx; rotate_left; subst lv) | (generalize lv = w; clear lv) | subst lv)
    | (with_reducible apply kp_homeWrite) | (with_reducible apply Keeps.foldl) | (with_reducible apply Keeps.foldlx)
    | (with_reducible apply Keeps.foldlv) | (with_reducible apply Keeps.foldl2) | (with_reducible apply Keeps.foldl1)
    | (with_reducible apply Keeps.foldl22) | (with_reducible apply Keeps.foldl222) | (with_reducible apply Keeps.foldl2x) | split
    | (with_reducible refine KeepsP.mk ?_; with_reducible first | assumption | apply kp_homeWrite | apply Keeps.foldlx | apply Keeps.foldlv | apply Keeps.foldl2 | apply Keeps.foldl1 | apply Keeps.foldl22 | apply Keeps.foldl222 | apply Keeps.foldl2x)
    | (with_reducible refine KeepsP.p1 ?_) | (with_reducible refine KeepsP.p2 ?_) | (with_reducible refine KeepsP.p22 ?_)
    | (with_reducible refine Keeps.of2 (by assumption) ?_) | (with_reducible refine Keeps.of3 (by assumption) ?_)
    | (with_reducible refine Keeps.of1 (by assumption) ?_) | dsimp only

theorem kp_execBar2Read {z : State} (fn : Nat) (off : Nat) (len : Nat) (hs : List (Option Nat)) (s : State) (hks : Keeps z s) :
    KeepsR z (execBar2Read fn off len hs s) := by
  unfold execBar2Read
  repeat' first
    | (with_reducible assumption)
    | (extract_lets +onlyGivenNames lv; first | (have hx : Keeps z lv := ?_; generalize lv = w at hx ⊢; clear lv; rotate_left; subst lv) | (have hx : KeepsP (fun y : _ × _ × _ × State => y.2.2.2) z lv := ?_; generalize lv = w at hx ⊢; clear lv; replace hx : Keeps z w.2.2.2 := hx; rotate_left; subst lv) | (generalize lv = w; clear lv) | subst lv)
    | (with_reducible refine KeepsR.next ?_) | (with_reducible apply kp_emit) | (with_reducible apply kp_winDead)
    | (with_reducible apply kp_winPieces) | (with_reducible apply kp_winRead) | split
    | (with_reducible refine KeepsP.mk ?_; with_reducible first | assumption | apply kp_winPieces | apply kp_winRead)
    | (with_reducible refine KeepsP.p1 ?_) | (with_reducible refine KeepsP.p2 ?_) | (with_reducible refine KeepsP.p22 ?_)
    | (with_reducible refine KeepsP.p222 ?_) | (with_reducible refine Keeps.of2 (by assumption) ?_)
    | (with_reducible refine Keeps.of1 (by assumption) ?_) | (with_reducible refine Keeps.of3 (by assumption) ?_)
    | (with_reducible refine Keeps.of4 (by assumption) ?_)

theorem kp_execBar2Write {z : State} (fn : Nat) (off : Nat) (data : List Byte) (ep : Bool) (hs : List (Option Nat)) (s : State) (hks : Keeps z s) :
    KeepsR z (execBar2Write fn off data ep hs s) := by
  unfold execBar2Write
  repeat' first
    | (with_reducible assumption)
    | (extract_lets +onlyGivenNames lv; first | (have hx : Keeps z lv := ?_; generalize lv = w at hx ⊢; clear lv; rotate_left; subst lv) | (have hx : KeepsP (fun y : _ × _ × State => y.2.2) z lv := ?_; generalize lv = w at hx ⊢; clear lv; replace hx : Keeps z w.2.2 := hx; rotate_left; subst lv) | (have hx : KeepsP (fun y : _ × _ × _ × State => y.2.2.2) z lv := ?_; generalize lv = w at hx ⊢; clear lv; replace hx : Keeps z w.2.2.2 := hx; rotate_left; subst lv) | (generalize lv = w; clear lv) | subst lv)
    | (with_reducible refine KeepsR.next ?_) | (with_reducible apply kp_barOver) | (with_reducible apply kp_poisonRx)
    | (with_reducible apply kp_winFault) | (with_reducible apply kp_winPieces) | (with_reducible apply kp_barWait)
    | (with_reducible apply kp_winWrite) | split
    | (with_reducible refine KeepsP.mk ?_; with_reducible first | assumption | apply kp_winPieces | apply kp_winWrite)
    | (with_reducible refine KeepsP.p1 ?_) | (with_reducible refine KeepsP.p2 ?_) | (with_reducible refine KeepsP.p22 ?_)
    | (with_reducible refine KeepsP.p222 ?_) | (with_reducible refine Keeps.of2 (by assumption) ?_)
    | (with_reducible refine Keeps.of1 (by assumption) ?_) | (with_reducible refine Keeps.of3 (by assumption) ?_)
    | (with_reducible refine Keeps.of4 (by assumption) ?_)

end Sys2Proof.Machine
end

