-- ==== Sys2Proof/Laws/KeepsThermal.lean ====
section
/-! SUPPORT. What every operation of Machine/Thermal.lean keeps. -/
set_option linter.all false

namespace Sys2Proof.Machine

theorem kp_setThm {z : State} (x : Thm) (s : State) (hs : Keeps z s) :
    Keeps z (setThm x s) := by
  unfold setThm
  repeat' first
    | (with_reducible assumption) | dsimp only | (with_reducible exact Keeps.mk (by assumption))

theorem kp_setSens {z : State} (id : Nat) (x : Sens) (s : State) (hs : Keeps z s) :
    Keeps z (setSens id x s) := by
  unfold setSens
  repeat' first
    | (with_reducible assumption) | (with_reducible apply kp_setThm) | dsimp only [id] | (with_reducible exact Keeps.mk (by assumption))

theorem kp_setIslT {z : State} (j : Nat) (x : IslT) (s : State) (hs : Keeps z s) :
    Keeps z (setIslT j x s) := by
  unfold setIslT
  repeat' first
    | (with_reducible assumption) | (with_reducible apply kp_setThm) | dsimp only | (with_reducible exact Keeps.mk (by assumption))

theorem kp_takeReading {z : State} (id : Nat) (r : Option Nat) (s : State) (hs : Keeps z s) :
    Keeps z (takeReading id r s) := by
  unfold takeReading
  repeat' first
    | (with_reducible assumption) | intro _
    | (extract_lets +onlyGivenNames lv; first | (have hx : Keeps z lv := ?_; generalize lv = w at hx ⊢; clear lv; rotate_left; subst lv) | (generalize lv = w; clear lv) | subst lv)
    | (with_reducible apply kp_setSens) | (with_reducible apply kp_setF) | (with_reducible apply kp_refreshBand) | (with_reducible apply kp_recordCE)
    | (with_reducible apply kp_raise) | (with_reducible apply Keeps.foldl) | (with_reducible apply Keeps.foldlx)
    | (with_reducible apply Keeps.foldlv) | (with_reducible apply Keeps.foldl2) | (with_reducible apply Keeps.foldl1)
    | (with_reducible apply Keeps.foldl22) | (with_reducible apply Keeps.foldl222) | (with_reducible apply Keeps.foldl2x) | split | dsimp only [id]
    | (with_reducible exact Keeps.mk (by assumption))

theorem kp_updBand {z : State} (id : Nat) (s : State) (hs : Keeps z s) :
    Keeps z (updBand id s).2.2 := by
  change KeepsP (fun y : Bool × Bool × State => y.2.2) z _
  unfold updBand
  repeat' first
    | (with_reducible assumption)
    | (extract_lets +onlyGivenNames lv; first | (have hx : Keeps z lv := ?_; generalize lv = w at hx ⊢; clear lv; rotate_left; subst lv) | (have hx : KeepsP (fun y : _ × _ × State => y.2.2) z lv := ?_; generalize lv = w at hx ⊢; clear lv; replace hx : Keeps z w.2.2 := hx; rotate_left; subst lv) | (generalize lv = w; clear lv) | subst lv)
    | (with_reducible apply kp_setSens) | (with_reducible apply kp_setF) | split | (with_reducible refine KeepsP.mk ?_; with_reducible assumption)
    | (with_reducible refine KeepsP.p22 ?_) | (with_reducible refine Keeps.of3 (by assumption) ?_) | dsimp only [id]
    | (with_reducible exact Keeps.mk (by assumption))

theorem kp_showClass {z : State} (c : Nat) (s : State) (hs : Keeps z s) :
    Keeps z (showClass c s) := by
  unfold showClass
  repeat' first
    | (with_reducible assumption) | intro _
    | (extract_lets +onlyGivenNames lv; first | (have hx : Keeps z lv := ?_; generalize lv = w at hx ⊢; clear lv; rotate_left; subst lv) | (have hx : KeepsP (fun y : _ × State => y.2) z lv := ?_; generalize lv = w at hx ⊢; clear lv; replace hx : Keeps z w.2 := hx; rotate_left; subst lv) | (have hx : KeepsP (fun y : State × _ => y.1) z lv := ?_; generalize lv = w at hx ⊢; clear lv; replace hx : Keeps z w.1 := hx; rotate_left; subst lv) | (have hx : KeepsP (fun y : _ × _ × State => y.2.2) z lv := ?_; generalize lv = w at hx ⊢; clear lv; replace hx : Keeps z w.2.2 := hx; rotate_left; subst lv) | (generalize lv = w; clear lv) | subst lv)
    | (with_reducible apply kp_setF) | (with_reducible apply Keeps.foldl) | (with_reducible apply Keeps.foldlx) | (with_reducible apply Keeps.foldlv)
    | (with_reducible apply Keeps.foldl2) | (with_reducible apply Keeps.foldl1) | (with_reducible apply Keeps.foldl22)
    | (with_reducible apply Keeps.foldl222) | (with_reducible apply Keeps.foldl2x) | split
    | (with_reducible refine KeepsP.mk ?_; with_reducible first | assumption | apply Keeps.foldlx | apply Keeps.foldlv | apply Keeps.foldl2 | apply Keeps.foldl1 | apply Keeps.foldl22 | apply Keeps.foldl222 | apply Keeps.foldl2x)
    | (with_reducible refine KeepsP.p1 ?_) | (with_reducible refine KeepsP.p2 ?_) | (with_reducible refine KeepsP.p22 ?_)
    | (with_reducible refine Keeps.of2 (by assumption) ?_) | (with_reducible refine Keeps.of1 (by assumption) ?_)
    | (with_reducible refine Keeps.of3 (by assumption) ?_) | dsimp only | (with_reducible exact Keeps.mk (by assumption))

theorem kp_showCeiling {z : State} (j : Nat) (s : State) (hs : Keeps z s) :
    Keeps z (showCeiling j s) := by
  unfold showCeiling
  repeat' first
    | (with_reducible assumption)
    | (extract_lets +onlyGivenNames lv; first | (have hx : Keeps z lv := ?_; generalize lv = w at hx ⊢; clear lv; rotate_left; subst lv) | (generalize lv = w; clear lv) | subst lv)
    | (with_reducible apply kp_setThm) | (with_reducible apply kp_setCeiling) | split | dsimp only | (with_reducible exact Keeps.mk (by assumption))

theorem kp_thermCeil {z : State} (j : Nat) (c : Nat) (s : State) (hs : Keeps z s) :
    Keeps z (thermCeil j c s) := by
  unfold thermCeil
  repeat' first
    | (with_reducible assumption)
    | (extract_lets +onlyGivenNames lv; first | (have hx : Keeps z lv := ?_; generalize lv = w at hx ⊢; clear lv; rotate_left; subst lv) | (generalize lv = w; clear lv) | subst lv)
    | (with_reducible apply kp_showCeiling) | (with_reducible apply kp_setIslT) | split | dsimp only | (with_reducible exact Keeps.mk (by assumption))

theorem kp_governorDown {z : State} (j : Nat) (s : State) (hs : Keeps z s) :
    Keeps z (governorDown j s) := by
  unfold governorDown
  repeat' first
    | (with_reducible assumption) | (with_reducible apply kp_islRefuse) | (with_reducible apply kp_islIssue) | split

theorem kp_islThrottle {z : State} (j : Nat) (s : State) (hs : Keeps z s) :
    Keeps z (islThrottle j s) := by
  unfold islThrottle
  repeat' first
    | (with_reducible assumption) | intro _
    | (extract_lets +onlyGivenNames lv; first | (have hx : Keeps z lv := ?_; generalize lv = w at hx ⊢; clear lv; rotate_left; subst lv) | (generalize lv = w; clear lv) | subst lv)
    | (with_reducible apply kp_setIslT) | (with_reducible apply kp_setF) | (with_reducible apply kp_recordCE) | (with_reducible apply kp_raise)
    | (with_reducible apply kp_governorDown) | (with_reducible apply kp_thermCeil) | (with_reducible apply Keeps.foldl)
    | (with_reducible apply Keeps.foldlx) | (with_reducible apply Keeps.foldlv) | (with_reducible apply Keeps.foldl2)
    | (with_reducible apply Keeps.foldl1) | (with_reducible apply Keeps.foldl22) | (with_reducible apply Keeps.foldl222)
    | (with_reducible apply Keeps.foldl2x) | split | (with_reducible exact Keeps.mk (by assumption))

theorem kp_execCeilingRelax {z : State} (j : Nat) (s : State) (hs : Keeps z s) :
    KeepsR z (execCeilingRelax j s) := by
  unfold execCeilingRelax
  repeat' first
    | (with_reducible assumption)
    | (extract_lets +onlyGivenNames lv; first | (have hx : Keeps z lv := ?_; generalize lv = w at hx ⊢; clear lv; rotate_left; subst lv) | (generalize lv = w; clear lv) | subst lv)
    | (with_reducible refine KeepsR.next ?_) | (with_reducible apply kp_waitTill) | (with_reducible apply kp_thermCeil)
    | (with_reducible apply kp_setIslT) | split | (with_reducible exact Keeps.mk (by assumption))

theorem kp_tripRecord {z : State} (why : Nat) (ok : Bool) (s : State) (hs : Keeps z s) :
    Keeps z (tripRecord why ok s) := by
  unfold tripRecord
  repeat' first
    | (with_reducible assumption)
    | (extract_lets +onlyGivenNames lv; first | (have hx : Keeps z lv := ?_; generalize lv = w at hx ⊢; clear lv; rotate_left; subst lv) | (have hx : KeepsP (fun y : _ × State => y.2) z lv := ?_; generalize lv = w at hx ⊢; clear lv; replace hx : Keeps z w.2 := hx; rotate_left; subst lv) | (generalize lv = w; clear lv) | subst lv)
    | (with_reducible apply kp_takeFree) | (with_reducible apply kp_wr64) | (with_reducible apply kp_setMgs) | (with_reducible apply kp_reservePut)
    | (with_reducible apply kp_reserveFailed) | split | (with_reducible refine KeepsP.mk ?_; with_reducible first | assumption | apply kp_takeFree)
    | (with_reducible refine KeepsP.p1 ?_) | (with_reducible refine KeepsP.p2 ?_) | (with_reducible refine KeepsP.p22 ?_)
    | (with_reducible refine Keeps.of2 (by assumption) ?_) | (with_reducible refine Keeps.of1 (by assumption) ?_)
    | (with_reducible refine Keeps.of3 (by assumption) ?_) | (with_reducible exact Keeps.mk (by assumption))

theorem kp_allOff {z : State} (s : State) (hs : Keeps z s) :
    Keeps z (allOff s) := by
  unfold allOff
  repeat' first
    | (with_reducible assumption) | intro _ | (with_reducible apply kp_islOff) | (with_reducible apply Keeps.foldl)
    | (with_reducible apply Keeps.foldlx) | (with_reducible apply Keeps.foldlv) | (with_reducible apply Keeps.foldl2)
    | (with_reducible apply Keeps.foldl1) | (with_reducible apply Keeps.foldl22) | (with_reducible apply Keeps.foldl222)
    | (with_reducible apply Keeps.foldl2x)
    | (with_reducible refine KeepsP.mk ?_; with_reducible first | assumption | apply Keeps.foldlx | apply Keeps.foldlv | apply Keeps.foldl2 | apply Keeps.foldl1 | apply Keeps.foldl22 | apply Keeps.foldl222 | apply Keeps.foldl2x)
    | (with_reducible refine Keeps.of2 (by assumption) ?_) | (with_reducible refine Keeps.of1 (by assumption) ?_)
    | (with_reducible refine Keeps.of3 (by assumption) ?_) | dsimp only

theorem kp_shutStart {z : State} (id : Nat) (ok : Bool) (s : State) (hs : Keeps z s) :
    Keeps z (shutStart id ok s) := by
  unfold shutStart
  repeat' first
    | (with_reducible assumption) | intro _
    | (extract_lets +onlyGivenNames lv; first | (have hx : Keeps z lv := ?_; generalize lv = w at hx ⊢; clear lv; rotate_left; subst lv) | (generalize lv = w; clear lv) | subst lv)
    | (with_reducible apply kp_setF) | (with_reducible apply kp_fatEffects) | (with_reducible apply kp_tripRecord) | (with_reducible apply kp_allOff)
    | (with_reducible apply kp_islIssue) | (with_reducible apply kp_sessionDrop) | (with_reducible apply kp_raise)
    | (with_reducible apply kp_lifeShut) | (with_reducible apply kp_setThm) | (with_reducible apply kp_shut) | (with_reducible apply kp_setOutcome)
    | (with_reducible apply Keeps.foldl) | (with_reducible apply Keeps.foldlx) | (with_reducible apply Keeps.foldlv)
    | (with_reducible apply Keeps.foldl2) | (with_reducible apply Keeps.foldl1) | (with_reducible apply Keeps.foldl22)
    | (with_reducible apply Keeps.foldl222) | (with_reducible apply Keeps.foldl2x) | split | dsimp only [id]
    | (with_reducible exact Keeps.mk (by assumption))

theorem kp_sensorRefresh {z : State} (rs : List (Nat × Option Nat)) (ok : Bool) (s : State) (hs : Keeps z s) :
    Keeps z (sensorRefresh rs ok s) := by
  unfold sensorRefresh
  repeat' first
    | (with_reducible assumption) | intro _
    | (extract_lets +onlyGivenNames lv; first | (have hx : Keeps z lv := ?_; generalize lv = w at hx ⊢; clear lv; rotate_left; subst lv) | (have hx : KeepsP (fun y : _ × _ × State => y.2.2) z lv := ?_; generalize lv = w at hx ⊢; clear lv; replace hx : Keeps z w.2.2 := hx; rotate_left; subst lv) | (have hx : KeepsP (fun y : _ × State => y.2) z lv := ?_; generalize lv = w at hx ⊢; clear lv; replace hx : Keeps z w.2 := hx; rotate_left; subst lv) | (have hx : KeepsP (fun y : State × _ => y.1) z lv := ?_; generalize lv = w at hx ⊢; clear lv; replace hx : Keeps z w.1 := hx; rotate_left; subst lv) | (generalize lv = w; clear lv) | subst lv)
    | (with_reducible apply kp_takeReading) | (with_reducible apply kp_updBand) | (with_reducible apply kp_raise)
    | (with_reducible apply kp_showClass) | (with_reducible apply kp_shutStart) | (with_reducible apply kp_islThrottle)
    | (with_reducible apply Keeps.foldl) | (with_reducible apply Keeps.foldlx) | (with_reducible apply Keeps.foldlv)
    | (with_reducible apply Keeps.foldl2) | (with_reducible apply Keeps.foldl1) | (with_reducible apply Keeps.foldl22)
    | (with_reducible apply Keeps.foldl222) | (with_reducible apply Keeps.foldl2x) | split
    | (with_reducible refine KeepsP.mk ?_; with_reducible first | assumption | apply kp_updBand | apply Keeps.foldlx | apply Keeps.foldlv | apply Keeps.foldl2 | apply Keeps.foldl1 | apply Keeps.foldl22 | apply Keeps.foldl222 | apply Keeps.foldl2x)
    | (with_reducible refine KeepsP.p1 ?_) | (with_reducible refine KeepsP.p2 ?_) | (with_reducible refine KeepsP.p22 ?_)
    | (with_reducible refine Keeps.of3 (by assumption) ?_) | (with_reducible refine Keeps.of2 (by assumption) ?_)
    | (with_reducible refine Keeps.of1 (by assumption) ?_) | dsimp only [id] | (with_reducible exact Keeps.mk (by assumption))

theorem kp_execSensorRefresh {z : State} (rs : List (Nat × Option Nat)) (ok : Bool) (s : State) (hs : Keeps z s) :
    KeepsR z (execSensorRefresh rs ok s) := by
  unfold execSensorRefresh
  repeat' first
    | (with_reducible assumption)
    | (extract_lets +onlyGivenNames lv; first | (have hx : Keeps z lv := ?_; generalize lv = w at hx ⊢; clear lv; rotate_left; subst lv) | (generalize lv = w; clear lv) | subst lv)
    | (with_reducible refine KeepsR.next ?_) | (with_reducible apply kp_waitEvery) | (with_reducible apply kp_sensorRefresh)
    | (with_reducible apply kp_setThm) | (with_reducible exact Keeps.mk (by assumption))

theorem kp_execHardwareTrip {z : State} (id : Nat) (ok : Bool) (s : State) (hs : Keeps z s) :
    KeepsR z (execHardwareTrip id ok s) := by
  unfold execHardwareTrip
  repeat' first
    | (with_reducible assumption)
    | (extract_lets +onlyGivenNames lv; first | (have hx : Keeps z lv := ?_; generalize lv = w at hx ⊢; clear lv; rotate_left; subst lv) | (generalize lv = w; clear lv) | subst lv)
    | (with_reducible apply kp_allOff) | (with_reducible apply kp_fatEffects) | (with_reducible apply kp_tripRecord) | split
    | (with_reducible refine KeepsR.next ?_) | dsimp only [id] | (with_reducible exact Keeps.mk (by assumption))

theorem kp_execShutdownLog {z : State} (ok : Bool) (s : State) (hs : Keeps z s) :
    KeepsR z (execShutdownLog ok s) := by
  unfold execShutdownLog
  repeat' first
    | (with_reducible assumption) | intro _
    | (extract_lets +onlyGivenNames lv; first | (have hx : Keeps z lv := ?_; generalize lv = w at hx ⊢; clear lv; rotate_left; subst lv) | (generalize lv = w; clear lv) | subst lv)
    | (with_reducible refine KeepsR.next ?_) | (with_reducible apply kp_shut) | (with_reducible apply kp_waitTill)
    | (with_reducible apply kp_lifeShut) | (with_reducible apply kp_recordErr) | (with_reducible apply kp_tallyFree)
    | (with_reducible apply kp_reserveCopy) | (with_reducible apply kp_persistAll) | (with_reducible apply kp_setThm)
    | (with_reducible apply kp_pwrWarnLog) | (with_reducible apply Keeps.foldl) | (with_reducible apply Keeps.foldlx)
    | (with_reducible apply Keeps.foldlv) | (with_reducible apply Keeps.foldl2) | (with_reducible apply Keeps.foldl1)
    | (with_reducible apply Keeps.foldl22) | (with_reducible apply Keeps.foldl222) | (with_reducible apply Keeps.foldl2x) | split | dsimp only [id]
    | (with_reducible exact Keeps.mk (by assumption))

theorem kp_execShutdownPowerOff {z : State} (s : State) (hs : Keeps z s) :
    KeepsR z (execShutdownPowerOff s) := by
  unfold execShutdownPowerOff
  repeat' first
    | (with_reducible assumption) | (with_reducible apply kp_setThm) | (with_reducible apply kp_setOutcome) | (with_reducible apply kp_allOff) | split
    | (with_reducible refine KeepsR.next ?_) | dsimp only | (with_reducible exact Keeps.mk (by assumption))

theorem kp_clampThr {z : State} (c : Nat) (s : State) (hs : Keeps z s) :
    Keeps z (clampThr c s) := by
  unfold clampThr
  repeat' first
    | (with_reducible assumption)
    | (extract_lets +onlyGivenNames lv; first | (have hx : Keeps z lv := ?_; generalize lv = w at hx ⊢; clear lv; rotate_left; subst lv) | (generalize lv = w; clear lv) | subst lv)
    | (with_reducible apply kp_setF) | (with_reducible apply kp_raise) | split | dsimp only

theorem kp_execThmThresholdWrite {z : State} (fn : Nat) (c : Nat) (sh : Bool) (v : Nat) (s : State) (hs : Keeps z s) :
    KeepsR z (execThmThresholdWrite fn c sh v s) := by
  unfold execThmThresholdWrite
  repeat' first
    | (with_reducible assumption) | intro _
    | (extract_lets +onlyGivenNames lv; first | (have hx : Keeps z lv := ?_; generalize lv = w at hx ⊢; clear lv; rotate_left; subst lv) | (generalize lv = w; clear lv) | subst lv)
    | (with_reducible apply kp_barWrite) | (with_reducible apply kp_clampThr) | (with_reducible apply kp_writeReg) | split
    | (with_reducible refine KeepsR.next ?_) | dsimp only

theorem kp_execThmCapWrite {z : State} (fn : Nat) (v : Nat) (s : State) (hs : Keeps z s) :
    KeepsR z (execThmCapWrite fn v s) := by
  unfold execThmCapWrite
  repeat' first
    | (with_reducible assumption) | intro _
    | (extract_lets +onlyGivenNames lv; first | (have hx : Keeps z lv := ?_; generalize lv = w at hx ⊢; clear lv; rotate_left; subst lv) | (generalize lv = w; clear lv) | subst lv)
    | (with_reducible apply kp_barWrite) | (with_reducible apply kp_writeReg) | (with_reducible apply kp_capWrite) | split
    | (with_reducible refine KeepsR.next ?_) | dsimp only

theorem kp_execSenseTmaxClr {z : State} (fn : Nat) (i : Nat) (v : Nat) (s : State) (hs : Keeps z s) :
    KeepsR z (execSenseTmaxClr fn i v s) := by
  unfold execSenseTmaxClr
  repeat' first
    | (with_reducible assumption) | intro _ | (with_reducible apply kp_barWrite) | (with_reducible apply kp_setF) | split
    | (with_reducible refine KeepsR.next ?_) | dsimp only

theorem kp_execPowerMeterSample {z : State} (mw : Nat) (s : State) (hs : Keeps z s) :
    KeepsR z (execPowerMeterSample mw s) := by
  unfold execPowerMeterSample
  repeat' first
    | (with_reducible assumption) | intro _
    | (extract_lets +onlyGivenNames lv; first | (have hx : Keeps z lv := ?_; generalize lv = w at hx ⊢; clear lv; rotate_left; subst lv) | (generalize lv = w; clear lv) | subst lv)
    | (with_reducible refine KeepsR.next ?_) | (with_reducible apply kp_waitEvery) | (with_reducible apply kp_setThm)
    | (with_reducible apply kp_setF) | (with_reducible apply kp_bump) | (with_reducible apply kp_recordCE) | (with_reducible apply kp_raise)
    | (with_reducible apply kp_showCeiling) | (with_reducible apply Keeps.foldl) | (with_reducible apply Keeps.foldlx)
    | (with_reducible apply Keeps.foldlv) | (with_reducible apply Keeps.foldl2) | (with_reducible apply Keeps.foldl1)
    | (with_reducible apply Keeps.foldl22) | (with_reducible apply Keeps.foldl222) | (with_reducible apply Keeps.foldl2x) | split
    | (with_reducible exact Keeps.mk (by assumption))

theorem kp_showMiss {z : State} (miss : List Nat) (n : Nat) (s : State) (hs : Keeps z s) :
    Keeps z (showMiss miss n s) := by
  unfold showMiss
  repeat' first
    | (with_reducible assumption)
    | (extract_lets +onlyGivenNames lv; first | (have hx : Keeps z lv := ?_; generalize lv = w at hx ⊢; clear lv; rotate_left; subst lv) | (generalize lv = w; clear lv) | subst lv)
    | (with_reducible apply kp_setF) | (with_reducible apply kp_recordCE) | (with_reducible apply kp_raise) | split | dsimp only

theorem kp_policyAct {z : State} (p : Nat) (s : State) (hs : Keeps z s) :
    Keeps z (policyAct p s) := by
  unfold policyAct
  repeat' first
    | (with_reducible assumption) | (with_reducible apply kp_tallyFree) | dsimp only

theorem kp_planVolts {z : State} (volts : List (Nat × Nat)) (miss : List Nat) (s : State) (hs : Keeps z s) :
    Keeps z (planVolts volts miss s) := by
  unfold planVolts
  repeat' first
    | (with_reducible assumption) | intro _
    | (extract_lets +onlyGivenNames lv; first | (have hx : Keeps z lv := ?_; generalize lv = w at hx ⊢; clear lv; rotate_left; subst lv) | (generalize lv = w; clear lv) | subst lv)
    | (with_reducible apply kp_policyAct) | (with_reducible apply kp_islCommand) | (with_reducible apply Keeps.foldl)
    | (with_reducible apply Keeps.foldlx) | (with_reducible apply Keeps.foldlv) | (with_reducible apply Keeps.foldl2)
    | (with_reducible apply Keeps.foldl1) | (with_reducible apply Keeps.foldl22) | (with_reducible apply Keeps.foldl222)
    | (with_reducible apply Keeps.foldl2x) | split | (with_reducible exact Keeps.mk (by assumption))

theorem kp_planWidths {z : State} (widths : List (Nat × Nat)) (s : State) (hs : Keeps z s) :
    Keeps z (planWidths widths s) := by
  unfold planWidths
  repeat' first
    | (with_reducible assumption) | intro _ | (with_reducible apply kp_policyAct) | (with_reducible apply kp_askWidth)
    | (with_reducible apply Keeps.foldl) | (with_reducible apply Keeps.foldlx) | (with_reducible apply Keeps.foldlv)
    | (with_reducible apply Keeps.foldl2) | (with_reducible apply Keeps.foldl1) | (with_reducible apply Keeps.foldl22)
    | (with_reducible apply Keeps.foldl222) | (with_reducible apply Keeps.foldl2x) | split
    | (with_reducible refine KeepsP.mk ?_; with_reducible first | assumption | apply Keeps.foldlx | apply Keeps.foldlv | apply Keeps.foldl2 | apply Keeps.foldl1 | apply Keeps.foldl22 | apply Keeps.foldl222 | apply Keeps.foldl2x)
    | (with_reducible refine Keeps.of2 (by assumption) ?_) | (with_reducible refine Keeps.of1 (by assumption) ?_)
    | (with_reducible refine Keeps.of3 (by assumption) ?_) | dsimp only

theorem kp_planWeights {z : State} (weights : List (Nat × Nat × Nat)) (s : State) (hs : Keeps z s) :
    Keeps z (planWeights weights s) := by
  unfold planWeights
  repeat' first
    | (with_reducible assumption) | intro _
    | (extract_lets +onlyGivenNames lv; first | (have hx : Keeps z lv := ?_; generalize lv = w at hx ⊢; clear lv; rotate_left; subst lv) | (have hx : KeepsP (fun y : _ × State => y.2) z lv := ?_; generalize lv = w at hx ⊢; clear lv; replace hx : Keeps z w.2 := hx; rotate_left; subst lv) | (have hx : KeepsP (fun y : State × _ => y.1) z lv := ?_; generalize lv = w at hx ⊢; clear lv; replace hx : Keeps z w.1 := hx; rotate_left; subst lv) | (have hx : KeepsP (fun y : _ × _ × State => y.2.2) z lv := ?_; generalize lv = w at hx ⊢; clear lv; replace hx : Keeps z w.2.2 := hx; rotate_left; subst lv) | (generalize lv = w; clear lv) | subst lv)
    | (with_reducible apply kp_relevel) | (with_reducible apply kp_policyAct) | (with_reducible apply kp_raise) | (with_reducible apply kp_setF)
    | (with_reducible apply Keeps.foldl) | (with_reducible apply Keeps.foldlx) | (with_reducible apply Keeps.foldlv)
    | (with_reducible apply Keeps.foldl2) | (with_reducible apply Keeps.foldl1) | (with_reducible apply Keeps.foldl22)
    | (with_reducible apply Keeps.foldl222) | (with_reducible apply Keeps.foldl2x) | split
    | (with_reducible refine KeepsP.mk ?_; with_reducible first | assumption | apply Keeps.foldlx | apply Keeps.foldlv | apply Keeps.foldl2 | apply Keeps.foldl1 | apply Keeps.foldl22 | apply Keeps.foldl222 | apply Keeps.foldl2x)
    | (with_reducible refine KeepsP.p1 ?_) | (with_reducible refine KeepsP.p2 ?_) | (with_reducible refine KeepsP.p22 ?_)
    | (with_reducible refine Keeps.of2 (by assumption) ?_) | (with_reducible refine Keeps.of1 (by assumption) ?_)
    | (with_reducible refine Keeps.of3 (by assumption) ?_) | dsimp only

theorem kp_planGoals {z : State} (s : State) (hs : Keeps z s) :
    Keeps z (planGoals s) := by
  unfold planGoals
  repeat' first
    | (with_reducible assumption) | intro _
    | (extract_lets +onlyGivenNames lv; first | (have hx : Keeps z lv := ?_; generalize lv = w at hx ⊢; clear lv; rotate_left; subst lv) | (generalize lv = w; clear lv) | subst lv)
    | (with_reducible apply kp_waitEvery) | (with_reducible apply kp_setThm) | (with_reducible apply kp_applyFloors)
    | (with_reducible apply Keeps.foldl) | (with_reducible apply Keeps.foldlx) | (with_reducible apply Keeps.foldlv)
    | (with_reducible apply Keeps.foldl2) | (with_reducible apply Keeps.foldl1) | (with_reducible apply Keeps.foldl22)
    | (with_reducible apply Keeps.foldl222) | (with_reducible apply Keeps.foldl2x) | split | (with_reducible exact Keeps.mk (by assumption))

theorem kp_execPolicyPlan {z : State} (volts : List (Nat × Nat)) (miss : List Nat) (widths : List (Nat × Nat)) (weights : List (Nat × Nat × Nat)) (s : State) (hs : Keeps z s) :
    KeepsR z (execPolicyPlan volts miss widths weights s) := by
  unfold execPolicyPlan
  repeat' first
    | (with_reducible assumption) | intro _
    | (extract_lets +onlyGivenNames lv; first | (have hx : Keeps z lv := ?_; generalize lv = w at hx ⊢; clear lv; rotate_left; subst lv) | (generalize lv = w; clear lv) | subst lv)
    | (with_reducible refine KeepsR.next ?_) | (with_reducible apply kp_planWidths) | (with_reducible apply kp_showMiss)
    | (with_reducible apply kp_planVolts) | (with_reducible apply kp_planGoals) | (with_reducible apply kp_planWeights)
    | (with_reducible apply Keeps.foldl) | (with_reducible apply Keeps.foldlx) | (with_reducible apply Keeps.foldlv)
    | (with_reducible apply Keeps.foldl2) | (with_reducible apply Keeps.foldl1) | (with_reducible apply Keeps.foldl22)
    | (with_reducible apply Keeps.foldl222) | (with_reducible apply Keeps.foldl2x) | split

theorem kp_estPowers {z : State} (pows : List (Nat × Nat)) (pkg : Nat) (s : State) (hs : Keeps z s) :
    Keeps z (estPowers pows pkg s) := by
  unfold estPowers
  repeat' first
    | (with_reducible assumption) | intro _ | (with_reducible apply kp_setF) | (with_reducible apply Keeps.foldl)
    | (with_reducible apply Keeps.foldlx) | (with_reducible apply Keeps.foldlv) | (with_reducible apply Keeps.foldl2)
    | (with_reducible apply Keeps.foldl1) | (with_reducible apply Keeps.foldl22) | (with_reducible apply Keeps.foldl222)
    | (with_reducible apply Keeps.foldl2x) | split
    | (with_reducible refine KeepsP.mk ?_; with_reducible first | assumption | apply Keeps.foldlx | apply Keeps.foldlv | apply Keeps.foldl2 | apply Keeps.foldl1 | apply Keeps.foldl22 | apply Keeps.foldl222 | apply Keeps.foldl2x)
    | (with_reducible refine Keeps.of2 (by assumption) ?_) | (with_reducible refine Keeps.of1 (by assumption) ?_)
    | (with_reducible refine Keeps.of3 (by assumption) ?_) | dsimp only

theorem kp_putConf {z : State} (j : Nat) (c : Nat) (s : State) (hs : Keeps z s) :
    Keeps z (putConf j c s) := by
  unfold putConf
  repeat' first
    | (with_reducible assumption)
    | (extract_lets +onlyGivenNames lv; first | (have hx : Keeps z lv := ?_; generalize lv = w at hx ⊢; clear lv; rotate_left; subst lv) | (generalize lv = w; clear lv) | subst lv)
    | (with_reducible apply kp_setF) | (with_reducible apply kp_setIslT) | split | dsimp only | (with_reducible exact Keeps.mk (by assumption))

theorem kp_estDiverged {z : State} (div : List Nat) (s : State) (hs : Keeps z s) :
    Keeps z (estDiverged div s) := by
  unfold estDiverged
  repeat' first
    | (with_reducible assumption) | intro _ | (with_reducible apply kp_putConf) | (with_reducible apply kp_recordCE)
    | (with_reducible apply Keeps.foldl) | (with_reducible apply Keeps.foldlx) | (with_reducible apply Keeps.foldlv)
    | (with_reducible apply Keeps.foldl2) | (with_reducible apply Keeps.foldl1) | (with_reducible apply Keeps.foldl22)
    | (with_reducible apply Keeps.foldl222) | (with_reducible apply Keeps.foldl2x)
    | (with_reducible refine KeepsP.mk ?_; with_reducible first | assumption | apply Keeps.foldlx | apply Keeps.foldlv | apply Keeps.foldl2 | apply Keeps.foldl1 | apply Keeps.foldl22 | apply Keeps.foldl222 | apply Keeps.foldl2x)
    | (with_reducible refine Keeps.of2 (by assumption) ?_) | (with_reducible refine Keeps.of1 (by assumption) ?_)
    | (with_reducible refine Keeps.of3 (by assumption) ?_) | dsimp only

theorem kp_estConfs {z : State} (confs : List (Nat × Nat × Nat)) (s : State) (hs : Keeps z s) :
    Keeps z (estConfs confs s) := by
  unfold estConfs
  repeat' first
    | (with_reducible assumption) | intro _
    | (extract_lets +onlyGivenNames lv; first | (have hx : Keeps z lv := ?_; generalize lv = w at hx ⊢; clear lv; rotate_left; subst lv) | (generalize lv = w; clear lv) | subst lv)
    | (with_reducible apply kp_putConf) | (with_reducible apply kp_raise) | (with_reducible apply kp_setF) | (with_reducible apply kp_bump)
    | (with_reducible apply kp_showEffCap) | (with_reducible apply Keeps.foldl) | (with_reducible apply Keeps.foldlx)
    | (with_reducible apply Keeps.foldlv) | (with_reducible apply Keeps.foldl2) | (with_reducible apply Keeps.foldl1)
    | (with_reducible apply Keeps.foldl22) | (with_reducible apply Keeps.foldl222) | (with_reducible apply Keeps.foldl2x) | split

theorem kp_execEstimatorFit {z : State} (pows : List (Nat × Nat)) (pkg : Nat) (div : List Nat) (confs : List (Nat × Nat × Nat)) (s : State) (hs : Keeps z s) :
    KeepsR z (execEstimatorFit pows pkg div confs s) := by
  unfold execEstimatorFit
  repeat' first
    | (with_reducible assumption)
    | (extract_lets +onlyGivenNames lv; first | (have hx : Keeps z lv := ?_; generalize lv = w at hx ⊢; clear lv; rotate_left; subst lv) | (generalize lv = w; clear lv) | subst lv)
    | (with_reducible refine KeepsR.next ?_) | (with_reducible apply kp_waitEvery) | (with_reducible apply kp_estDiverged)
    | (with_reducible apply kp_estPowers) | (with_reducible apply kp_setThm) | (with_reducible apply kp_estConfs) | split
    | (with_reducible exact Keeps.mk (by assumption))

theorem kp_quietBegin {z : State} (j : Nat) (s : State) (hs : Keeps z s) :
    Keeps z (quietBegin j s) := by
  unfold quietBegin
  repeat' first
    | (with_reducible assumption)
    | (extract_lets +onlyGivenNames lv; first | (have hx : Keeps z lv := ?_; generalize lv = w at hx ⊢; clear lv; rotate_left; subst lv) | (generalize lv = w; clear lv) | subst lv)
    | (with_reducible apply kp_setIslT) | (with_reducible apply kp_setThm) | (with_reducible apply kp_bump) | (with_reducible apply kp_setF)
    | (with_reducible apply kp_policyAct) | (with_reducible apply kp_raise) | dsimp only | (with_reducible exact Keeps.mk (by assumption))

theorem kp_lowWait {z : State} (s : State) (hs : Keeps z s) :
    Keeps z (lowWait s) := by
  unfold lowWait
  repeat' first
    | (with_reducible assumption) | intro _ | (with_reducible apply kp_waitTill) | (with_reducible apply Keeps.foldl)
    | (with_reducible apply Keeps.foldlx) | (with_reducible apply Keeps.foldlv) | (with_reducible apply Keeps.foldl2)
    | (with_reducible apply Keeps.foldl1) | (with_reducible apply Keeps.foldl22) | (with_reducible apply Keeps.foldl222)
    | (with_reducible apply Keeps.foldl2x) | split

theorem kp_execQuietSlice {z : State} (s : State) (hs : Keeps z s) :
    KeepsR z (execQuietSlice s) := by
  unfold execQuietSlice
  repeat' first
    | (with_reducible assumption) | intro _
    | (extract_lets +onlyGivenNames lv; first | (have hx : Keeps z lv := ?_; generalize lv = w at hx ⊢; clear lv; rotate_left; subst lv) | (generalize lv = w; clear lv) | subst lv)
    | (with_reducible refine KeepsR.next ?_) | (with_reducible apply kp_lowWait) | (with_reducible apply kp_policyAct)
    | (with_reducible apply kp_raise) | (with_reducible apply kp_showEffCap) | (with_reducible apply kp_setF) | (with_reducible apply kp_quietBegin)
    | split

theorem kp_execQuietSliceEnd {z : State} (s : State) (hs : Keeps z s) :
    KeepsR z (execQuietSliceEnd s) := by
  unfold execQuietSliceEnd
  repeat' first
    | (with_reducible assumption)
    | (extract_lets +onlyGivenNames lv; first | (have hx : Keeps z lv := ?_; generalize lv = w at hx ⊢; clear lv; rotate_left; subst lv) | (generalize lv = w; clear lv) | subst lv)
    | (with_reducible refine KeepsR.next ?_) | (with_reducible apply kp_waitTill) | (with_reducible apply kp_setF) | (with_reducible apply kp_setThm)
    | split | (with_reducible exact Keeps.mk (by assumption))

end Sys2Proof.Machine
end

