-- ==== Sys2Proof/Laws/KeepsReset.lean ====
section
/-! SUPPORT. What every operation of Machine/Reset.lean keeps. -/
set_option linter.all false

namespace Sys2Proof.Machine

theorem kp_setBoot {z : State} (x : Boot) (s : State) (hs : Keeps z s) :
    Keeps z (setBoot x s) := by
  unfold setBoot
  repeat' first
    | (with_reducible assumption) | dsimp only | (with_reducible exact Keeps.mk (by assumption))

theorem kp_bringStop {z : State} (cause : Nat) (s : State) (hs : Keeps z s) :
    Keeps z (bringStop cause s) := by
  unfold bringStop
  repeat' first
    | (with_reducible assumption) | (with_reducible apply kp_setOutcome) | (with_reducible apply kp_setF) | dsimp only

theorem kp_stageEnd {z : State} (k : Nat) (s : State) (hs : Keeps z s) :
    Keeps z (stageEnd k s) := by
  unfold stageEnd
  repeat' first
    | (with_reducible assumption)
    | (extract_lets +onlyGivenNames lv; first | (have hx : Keeps z lv := ?_; generalize lv = w at hx ⊢; clear lv; rotate_left; subst lv) | (generalize lv = w; clear lv) | subst lv)
    | (with_reducible apply kp_setBoot) | (with_reducible apply kp_tally) | (with_reducible apply kp_setF) | dsimp only
    | (with_reducible exact Keeps.mk (by assumption))

theorem kp_warmPages {z : State} (s : State) (hs : Keeps z s) :
    Keeps z (warmPages s) := by
  unfold warmPages
  repeat' first
    | (with_reducible assumption) | intro _
    | (extract_lets +onlyGivenNames lv; first | (have hx : Keeps z lv := ?_; generalize lv = w at hx ⊢; clear lv; rotate_left; subst lv) | (generalize lv = w; clear lv) | subst lv)
    | (with_reducible apply kp_wrW) | (with_reducible apply kp_rstReg) | (with_reducible apply kp_setF) | (with_reducible apply Keeps.foldl)
    | (with_reducible apply Keeps.foldlx) | (with_reducible apply Keeps.foldlv) | (with_reducible apply Keeps.foldl2)
    | (with_reducible apply Keeps.foldl1) | (with_reducible apply Keeps.foldl22) | (with_reducible apply Keeps.foldl222)
    | (with_reducible apply Keeps.foldl2x) | split | (with_reducible exact Keeps.mk (by assumption))

theorem kp_gridBoot {z : State} (s : State) (hs : Keeps z s) :
    Keeps z (gridBoot s) := by
  unfold gridBoot
  repeat' first
    | (with_reducible assumption) | intro _ | (with_reducible apply kp_islBoot) | (with_reducible apply Keeps.foldl)
    | (with_reducible apply Keeps.foldlx) | (with_reducible apply Keeps.foldlv) | (with_reducible apply Keeps.foldl2)
    | (with_reducible apply Keeps.foldl1) | (with_reducible apply Keeps.foldl22) | (with_reducible apply Keeps.foldl222)
    | (with_reducible apply Keeps.foldl2x)

theorem kp_warmPass {z : State} (o : Option Nat) (s : State) (hs : Keeps z s) :
    Keeps z (warmPass o s) := by
  unfold warmPass
  repeat' first
    | (with_reducible assumption) | (with_reducible apply kp_bringStop) | (with_reducible apply kp_gridBoot) | (with_reducible apply kp_setF) | split

theorem kp_warmReset {z : State} (s : State) (hs : Keeps z s) :
    Keeps z (warmReset s) := by
  unfold warmReset
  repeat' first
    | (with_reducible assumption)
    | (extract_lets +onlyGivenNames lv; first | (have hx : Keeps z lv := ?_; generalize lv = w at hx ⊢; clear lv; rotate_left; subst lv) | (generalize lv = w; clear lv) | subst lv)
    | (with_reducible apply kp_warmClear) | (with_reducible apply kp_warmPages) | (with_reducible apply kp_bump) | (with_reducible apply kp_setF)
    | (with_reducible apply kp_setBoot) | (with_reducible apply kp_warmPass) | split | (with_reducible exact Keeps.mk (by assumption))

theorem kp_execPerstNAssert {z : State} (s : State) (hs : Keeps z s) :
    KeepsR z (execPerstNAssert s) := by
  unfold execPerstNAssert
  repeat' first
    | (with_reducible assumption)
    | (extract_lets +onlyGivenNames lv; first | (have hx : Keeps z lv := ?_; generalize lv = w at hx ⊢; clear lv; rotate_left; subst lv) | (generalize lv = w; clear lv) | subst lv)
    | (with_reducible apply kp_setBoot) | (with_reducible apply kp_warmReset) | split | (with_reducible refine KeepsR.next ?_) | dsimp only
    | (with_reducible exact Keeps.mk (by assumption))

theorem kp_execPerstNDeassert {z : State} (s : State) (hs : Keeps z s) :
    KeepsR z (execPerstNDeassert s) := by
  unfold execPerstNDeassert
  repeat' first
    | (with_reducible assumption) | (with_reducible apply kp_setBoot) | split | (with_reducible refine KeepsR.next ?_) | dsimp only
    | (with_reducible exact Keeps.mk (by assumption))

theorem kp_execHotReset {z : State} (s : State) (hs : Keeps z s) :
    KeepsR z (execHotReset s) := by
  unfold execHotReset
  repeat' first
    | (with_reducible assumption)
    | (extract_lets +onlyGivenNames lv; first | (have hx : Keeps z lv := ?_; generalize lv = w at hx ⊢; clear lv; rotate_left; subst lv) | (generalize lv = w; clear lv) | subst lv)
    | (with_reducible apply kp_warmReset) | (with_reducible apply kp_setBoot) | split | (with_reducible refine KeepsR.next ?_) | dsimp only
    | (with_reducible exact Keeps.mk (by assumption))

theorem kp_islandsGo {z : State} (s : State) (hs : Keeps z s) :
    Keeps z (islandsGo s) := by
  unfold islandsGo
  repeat' first
    | (with_reducible assumption)
    | (extract_lets +onlyGivenNames lv; first | (have hx : Keeps z lv := ?_; generalize lv = w at hx ⊢; clear lv; rotate_left; subst lv) | (generalize lv = w; clear lv) | subst lv)
    | (with_reducible apply kp_bootNext) | (with_reducible apply kp_warmReset) | (with_reducible apply kp_setThm) | (with_reducible apply kp_stageEnd)
    | split | dsimp only | (with_reducible exact Keeps.mk (by assumption))

theorem kp_execSettled {z : State} (j : Nat) (mv : Nat) (s : State) (hs : Keeps z s) :
    KeepsR z (execSettled j mv s) := by
  unfold execSettled
  repeat' first
    | (with_reducible assumption) | intro _
    | (extract_lets +onlyGivenNames lv; first | (have hx : Keeps z lv := ?_; generalize lv = w at hx ⊢; clear lv; rotate_left; subst lv) | (generalize lv = w; clear lv) | subst lv)
    | (with_reducible refine KeepsR.next ?_) | (with_reducible apply kp_setF) | (with_reducible apply kp_showMv) | (with_reducible apply kp_raise)
    | (with_reducible apply kp_setIsl) | (with_reducible apply kp_islandsGo) | (with_reducible apply kp_calMoved)
    | (with_reducible apply Keeps.foldl) | (with_reducible apply Keeps.foldlx) | (with_reducible apply Keeps.foldlv)
    | (with_reducible apply Keeps.foldl2) | (with_reducible apply Keeps.foldl1) | (with_reducible apply Keeps.foldl22)
    | (with_reducible apply Keeps.foldl222) | (with_reducible apply Keeps.foldl2x) | split | (with_reducible exact Keeps.mk (by assumption))

theorem kp_execVrSlow {z : State} (j : Nat) (mv : Nat) (s : State) (hs : Keeps z s) :
    KeepsR z (execVrSlow j mv s) := by
  unfold execVrSlow
  repeat' first
    | (with_reducible assumption)
    | (extract_lets +onlyGivenNames lv; first | (have hx : Keeps z lv := ?_; generalize lv = w at hx ⊢; clear lv; rotate_left; subst lv) | (generalize lv = w; clear lv) | subst lv)
    | (with_reducible refine KeepsR.next ?_) | (with_reducible apply kp_recordCE) | (with_reducible apply kp_measureMv)
    | (with_reducible apply kp_waitTill) | (with_reducible apply kp_islandsGo) | (with_reducible apply kp_setIsl) | (with_reducible apply kp_islBoot)
    | split | (with_reducible exact Keeps.mk (by assumption))

theorem kp_execThmShutClear {z : State} (fn : Nat) (v : Nat) (s : State) (hs : Keeps z s) :
    KeepsR z (execThmShutClear fn v s) := by
  unfold execThmShutClear
  repeat' first
    | (with_reducible assumption) | intro _
    | (extract_lets +onlyGivenNames lv; first | (have hx : Keeps z lv := ?_; generalize lv = w at hx ⊢; clear lv; rotate_left; subst lv) | (generalize lv = w; clear lv) | subst lv)
    | (with_reducible refine KeepsR.next ?_) | (with_reducible apply kp_barWrite) | (with_reducible apply kp_raise) | (with_reducible apply kp_setF)
    | (with_reducible apply kp_setThm) | (with_reducible apply kp_warmReset) | (with_reducible apply kp_islOff) | (with_reducible apply kp_shut)
    | (with_reducible apply kp_islandsGo) | (with_reducible apply kp_holdIsl) | (with_reducible apply Keeps.foldl)
    | (with_reducible apply Keeps.foldlx) | (with_reducible apply Keeps.foldlv) | (with_reducible apply Keeps.foldl2)
    | (with_reducible apply Keeps.foldl1) | (with_reducible apply Keeps.foldl22) | (with_reducible apply Keeps.foldl222)
    | (with_reducible apply Keeps.foldl2x) | split | (with_reducible exact Keeps.mk (by assumption))

theorem kp_railCold {z : State} (k : Nat) (s : State) (hs : Keeps z s) :
    Keeps z (railCold k s) := by
  unfold railCold
  repeat' first
    | (with_reducible assumption)
    | (extract_lets +onlyGivenNames lv; first | (have hx : Keeps z lv := ?_; generalize lv = w at hx ⊢; clear lv; rotate_left; subst lv) | (generalize lv = w; clear lv) | subst lv)
    | (with_reducible apply kp_coldHold) | (with_reducible apply kp_setBoot) | split | dsimp only | (with_reducible exact Keeps.mk (by assumption))

theorem kp_execColdResetAssert {z : State} (rail : Option Nat) (s : State) (hs : Keeps z s) :
    KeepsR z (execColdResetAssert rail s) := by
  unfold execColdResetAssert
  repeat' first
    | (with_reducible assumption) | (with_reducible apply kp_coldHold) | (with_reducible apply kp_railCold) | split
    | (with_reducible refine KeepsR.next ?_) | dsimp only | (with_reducible exact Keeps.mk (by assumption))

theorem kp_execColdResetEnd {z : State} (i2ca : Nat) (recov : Bool) (test : Bool) (s : State) (hs : Keeps z s) :
    KeepsR z (execColdResetEnd i2ca recov test s) := by
  unfold execColdResetEnd
  repeat' first
    | (with_reducible assumption) | intro _
    | (extract_lets +onlyGivenNames lv; first | (have hx : Keeps z lv := ?_; generalize lv = w at hx ⊢; clear lv; rotate_left; subst lv) | (generalize lv = w; clear lv) | subst lv)
    | (with_reducible refine KeepsR.next ?_) | (with_reducible apply kp_waitTill) | (with_reducible apply kp_setBoot)
    | (with_reducible apply kp_setF) | (with_reducible apply kp_loss) | split | (with_reducible exact Keeps.mk (by assumption))

end Sys2Proof.Machine
end

