-- ==== Sys2Proof/Laws/KeepsBringup.lean ====
section
/-! SUPPORT. What every operation of Machine/Bringup.lean keeps. -/
set_option linter.all false

namespace Sys2Proof.Machine

theorem kp_execStagePower {z : State} (s : State) (hs : Keeps z s) :
    KeepsR z (execStagePower s) := by
  unfold execStagePower
  repeat' first
    | (with_reducible assumption) | (with_reducible apply kp_stageEnd) | split | (with_reducible refine KeepsR.next ?_) | dsimp only

theorem kp_execStageRom {z : State} (ok : Bool) (s : State) (hs : Keeps z s) :
    KeepsR z (execStageRom ok s) := by
  unfold execStageRom
  repeat' first
    | (with_reducible assumption)
    | (extract_lets +onlyGivenNames lv; first | (have hx : Keeps z lv := ?_; generalize lv = w at hx ⊢; clear lv; rotate_left; subst lv) | (generalize lv = w; clear lv) | subst lv)
    | (with_reducible apply kp_stageEnd) | (with_reducible apply kp_mgsRuns) | (with_reducible apply kp_setMgs) | (with_reducible apply kp_bringStop)
    | (with_reducible apply kp_recordErr) | split | (with_reducible refine KeepsR.next ?_) | dsimp only
    | (with_reducible exact Keeps.mk (by assumption))

theorem kp_execStageImage {z : State} (sigA : Bool) (sigB : Bool) (s : State) (hs : Keeps z s) :
    KeepsR z (execStageImage sigA sigB s) := by
  unfold execStageImage
  repeat' first
    | (with_reducible assumption)
    | (extract_lets +onlyGivenNames lv; first | (have hx : Keeps z lv := ?_; generalize lv = w at hx ⊢; clear lv; rotate_left; subst lv) | (have hx : KeepsP (fun y : _ × State => y.2) z lv := ?_; generalize lv = w at hx ⊢; clear lv; replace hx : Keeps z w.2 := hx; rotate_left; subst lv) | (generalize lv = w; clear lv) | subst lv)
    | (with_reducible apply kp_bootSelect) | (with_reducible apply kp_bringStop) | (with_reducible apply kp_mgsRuns)
    | (with_reducible apply kp_setMgs) | (with_reducible apply kp_stageEnd) | (with_reducible apply kp_showImage) | split
    | (with_reducible refine KeepsP.mk ?_; with_reducible first | assumption | apply kp_bootSelect) | (with_reducible refine KeepsP.p2 ?_)
    | (with_reducible refine KeepsR.next ?_) | (with_reducible refine Keeps.of2 (by assumption) ?_) | dsimp only
    | (with_reducible exact Keeps.mk (by assumption))

theorem kp_copyBack {z : State} (s : State) (hs : Keeps z s) :
    Keeps z (copyBack s) := by
  unfold copyBack
  repeat' first
    | (with_reducible assumption)
    | (extract_lets +onlyGivenNames lv; first | (have hx : Keeps z lv := ?_; generalize lv = w at hx ⊢; clear lv; rotate_left; subst lv) | (generalize lv = w; clear lv) | subst lv)
    | (with_reducible apply kp_persistAll) | (with_reducible apply kp_setMgs) | (with_reducible apply kp_tallyLog) | split | dsimp only
    | (with_reducible exact Keeps.mk (by assumption))

theorem kp_loadConfig {z : State} (s : State) (hs : Keeps z s) :
    Keeps z (loadConfig s) := by
  unfold loadConfig
  repeat' first
    | (with_reducible assumption)
    | (extract_lets +onlyGivenNames lv; first | (have hx : Keeps z lv := ?_; generalize lv = w at hx ⊢; clear lv; rotate_left; subst lv) | (generalize lv = w; clear lv) | subst lv)
    | (with_reducible apply kp_setF) | (with_reducible apply kp_setBoot) | (with_reducible apply kp_tally) | split | dsimp only
    | (with_reducible exact Keeps.mk (by assumption))

theorem kp_noteShutdown {z : State} (s : State) (hs : Keeps z s) :
    Keeps z (noteShutdown s) := by
  unfold noteShutdown
  repeat' first
    | (with_reducible assumption)
    | (extract_lets +onlyGivenNames lv; first | (have hx : Keeps z lv := ?_; generalize lv = w at hx ⊢; clear lv; rotate_left; subst lv) | (have hx : KeepsP (fun y : _ × State => y.2) z lv := ?_; generalize lv = w at hx ⊢; clear lv; replace hx : Keeps z w.2 := hx; rotate_left; subst lv) | (generalize lv = w; clear lv) | subst lv)
    | (with_reducible apply kp_takeFree) | (with_reducible apply kp_setMgs) | split
    | (with_reducible refine KeepsP.mk ?_; with_reducible first | assumption | apply kp_takeFree) | (with_reducible refine KeepsP.p2 ?_)
    | (with_reducible refine Keeps.of2 (by assumption) ?_) | dsimp only | (with_reducible exact Keeps.mk (by assumption))

theorem kp_noteLoss {z : State} (s : State) (hs : Keeps z s) :
    Keeps z (noteLoss s) := by
  unfold noteLoss
  repeat' first
    | (with_reducible assumption) | (with_reducible apply kp_setBoot) | (with_reducible apply kp_tally) | split | dsimp only
    | (with_reducible exact Keeps.mk (by assumption))

theorem kp_noteTrip {z : State} (was : Option Nat) (s : State) (hs : Keeps z s) :
    Keeps z (noteTrip was s) := by
  unfold noteTrip
  repeat' first
    | (with_reducible assumption)
    | (extract_lets +onlyGivenNames lv; first | (have hx : Keeps z lv := ?_; generalize lv = w at hx ⊢; clear lv; rotate_left; subst lv) | (generalize lv = w; clear lv) | subst lv)
    | (with_reducible apply kp_setF) | (with_reducible apply kp_tally) | split | dsimp only | (with_reducible exact Keeps.mk (by assumption))

theorem kp_execStageMgs {z : State} (flash : Bool) (s : State) (hs : Keeps z s) :
    KeepsR z (execStageMgs flash s) := by
  unfold execStageMgs
  repeat' first
    | (with_reducible assumption)
    | (extract_lets +onlyGivenNames lv; first | (have hx : Keeps z lv := ?_; generalize lv = w at hx ⊢; clear lv; rotate_left; subst lv) | (generalize lv = w; clear lv) | subst lv)
    | (with_reducible apply kp_setMgs) | (with_reducible apply kp_setF) | (with_reducible apply kp_wr64) | (with_reducible apply kp_copyBack)
    | (with_reducible apply kp_flashLost) | (with_reducible apply kp_mgsRuns) | (with_reducible apply kp_noteShutdown)
    | (with_reducible apply kp_tally) | (with_reducible apply kp_stageEnd) | (with_reducible apply kp_loadConfig) | (with_reducible apply kp_noteTrip)
    | (with_reducible apply kp_noteLoss) | split | (with_reducible refine KeepsR.next ?_) | dsimp only
    | (with_reducible exact Keeps.mk (by assumption))

theorem kp_execStageSense {z : State} (rs : List (Nat × Option Nat)) (ok : Bool) (s : State) (hs : Keeps z s) :
    KeepsR z (execStageSense rs ok s) := by
  unfold execStageSense
  repeat' first
    | (with_reducible assumption)
    | (extract_lets +onlyGivenNames lv; first | (have hx : Keeps z lv := ?_; generalize lv = w at hx ⊢; clear lv; rotate_left; subst lv) | (generalize lv = w; clear lv) | subst lv)
    | (with_reducible apply kp_sensorRefresh) | (with_reducible apply kp_stageEnd) | split | (with_reducible refine KeepsR.next ?_) | dsimp only

theorem kp_execStageIslands {z : State} (s : State) (hs : Keeps z s) :
    KeepsR z (execStageIslands s) := by
  unfold execStageIslands
  repeat' first
    | (with_reducible assumption) | (with_reducible apply kp_islandsGo) | split | (with_reducible refine KeepsR.next ?_) | dsimp only

theorem kp_checkBridges {z : State} (s : State) (hs : Keeps z s) :
    Keeps z (checkBridges s) := by
  unfold checkBridges
  repeat' first
    | (with_reducible assumption) | intro _ | (with_reducible apply kp_checkBridge) | (with_reducible apply Keeps.foldl)
    | (with_reducible apply Keeps.foldlx) | (with_reducible apply Keeps.foldlv) | (with_reducible apply Keeps.foldl2)
    | (with_reducible apply Keeps.foldl1) | (with_reducible apply Keeps.foldl22) | (with_reducible apply Keeps.foldl222)
    | (with_reducible apply Keeps.foldl2x)
    | (with_reducible refine KeepsP.mk ?_; with_reducible first | assumption | apply Keeps.foldlx | apply Keeps.foldlv | apply Keeps.foldl2 | apply Keeps.foldl1 | apply Keeps.foldl22 | apply Keeps.foldl222 | apply Keeps.foldl2x)
    | (with_reducible refine Keeps.of2 (by assumption) ?_) | (with_reducible refine Keeps.of1 (by assumption) ?_)
    | (with_reducible refine Keeps.of3 (by assumption) ?_) | dsimp only

theorem kp_trainedLink {z : State} (lanes : List (Nat × Nat × Nat)) (t : State) (n : Nat) (ht : Keeps z t) :
    Keeps z (trainedLink lanes t n) := by
  unfold trainedLink
  repeat' first
    | (with_reducible assumption)
    | (extract_lets +onlyGivenNames lv; first | (have hx : Keeps z lv := ?_; generalize lv = w at hx ⊢; clear lv; rotate_left; subst lv) | (have hx : KeepsP (fun y : _ × State => y.2) z lv := ?_; generalize lv = w at hx ⊢; clear lv; replace hx : Keeps z w.2 := hx; rotate_left; subst lv) | (generalize lv = w; clear lv) | subst lv)
    | (with_reducible apply kp_brgTested) | (with_reducible apply kp_setBrgX) | (with_reducible apply kp_brgFresh)
    | (with_reducible apply kp_setState) | (with_reducible apply kp_setBoot) | (with_reducible apply kp_trainFail) | split
    | (with_reducible refine KeepsP.mk ?_; with_reducible first | assumption | apply kp_brgTested) | (with_reducible refine KeepsP.p1 ?_)
    | (with_reducible refine KeepsP.p2 ?_) | (with_reducible refine KeepsP.p22 ?_) | (with_reducible refine Keeps.of2 (by assumption) ?_)
    | (with_reducible refine Keeps.of1 (by assumption) ?_) | (with_reducible refine Keeps.of3 (by assumption) ?_)
    | (with_reducible exact Keeps.mk (by assumption))

theorem kp_execStageLinks {z : State} (lanes : List (Nat × Nat × Nat)) (s : State) (hs : Keeps z s) :
    KeepsR z (execStageLinks lanes s) := by
  unfold execStageLinks
  repeat' first
    | (with_reducible assumption) | intro _
    | (extract_lets +onlyGivenNames lv; first | (have hx : Keeps z lv := ?_; generalize lv = w at hx ⊢; clear lv; rotate_left; subst lv) | (have hfn0 : ∀ y, Keeps z y → Keeps z (lv y) := ?_; generalize lv = w at hfn0 ⊢; clear lv; rotate_left; subst lv) | (have hfn1 : ∀ a y, Keeps z y → Keeps z (lv a y) := ?_; generalize lv = w at hfn1 ⊢; clear lv; rotate_left; subst lv) | (have hfn2 : ∀ a b y, Keeps z y → Keeps z (lv a b y) := ?_; generalize lv = w at hfn2 ⊢; clear lv; rotate_left; subst lv) | (have hfn3 : ∀ a b c y, Keeps z y → Keeps z (lv a b c y) := ?_; generalize lv = w at hfn3 ⊢; clear lv; rotate_left; subst lv) | (have hfn4 : ∀ y a, Keeps z y → Keeps z (lv y a) := ?_; generalize lv = w at hfn4 ⊢; clear lv; rotate_left; subst lv) | (have hfn5 : ∀ a, Keeps z (lv a) := ?_; generalize lv = w at hfn5 ⊢; clear lv; rotate_left; subst lv) | (have hfn6 : ∀ a b, Keeps z (lv a b) := ?_; generalize lv = w at hfn6 ⊢; clear lv; rotate_left; subst lv) | (have hfn7 : ∀ y a b, Keeps z y → Keeps z (lv y a b) := ?_; generalize lv = w at hfn7 ⊢; clear lv; rotate_left; subst lv) | (have hfn8 : ∀ a, KeepsR z (lv a) := ?_; generalize lv = w at hfn8 ⊢; clear lv; rotate_left; subst lv) | (have hfn9 : ∀ y, Keeps z y → KeepsC z (lv y) := ?_; generalize lv = w at hfn9 ⊢; clear lv; rotate_left; subst lv) | (have hfn10 : ∀ y, Keeps z y → KeepsR z (lv y) := ?_; generalize lv = w at hfn10 ⊢; clear lv; rotate_left; subst lv) | (have hfn11 : ∀ a y, Keeps z y → KeepsR z (lv a y) := ?_; generalize lv = w at hfn11 ⊢; clear lv; rotate_left; subst lv) | (have hfn12 : ∀ y a, Keeps z y → KeepsR z (lv y a) := ?_; generalize lv = w at hfn12 ⊢; clear lv; rotate_left; subst lv) | (generalize lv = w; clear lv) | subst lv)
    | (with_reducible apply hfn0) | (with_reducible apply hfn1) | (with_reducible apply hfn2) | (with_reducible apply hfn3)
    | (with_reducible apply hfn4) | (with_reducible apply hfn5) | (with_reducible apply hfn6) | (with_reducible apply hfn7)
    | (with_reducible apply hfn8) | (with_reducible apply hfn9) | (with_reducible apply hfn10) | (with_reducible apply hfn11)
    | (with_reducible apply hfn12) | (with_reducible refine KeepsR.next ?_) | (with_reducible apply kp_trainedLink)
    | (with_reducible apply kp_setBoot) | (with_reducible apply kp_checkBridge) | (with_reducible apply kp_bringStop)
    | (with_reducible apply kp_stageEnd) | (with_reducible apply Keeps.foldl) | (with_reducible apply Keeps.foldlx)
    | (with_reducible apply Keeps.foldlv) | (with_reducible apply Keeps.foldl2) | (with_reducible apply Keeps.foldl1)
    | (with_reducible apply Keeps.foldl22) | (with_reducible apply Keeps.foldl222) | (with_reducible apply Keeps.foldl2x) | split
    | (with_reducible exact Keeps.mk (by assumption))

theorem kp_takeBead {z : State} (i : Nat) (x : PhysBead) (s : State) (hs : Keeps z s) :
    Keeps z (takeBead i x s) := by
  unfold takeBead
  repeat' first
    | (with_reducible assumption)
    | (extract_lets +onlyGivenNames lv; first | (have hx : Keeps z lv := ?_; generalize lv = w at hx ⊢; clear lv; rotate_left; subst lv) | (generalize lv = w; clear lv) | subst lv)
    | (with_reducible apply kp_setBead) | (with_reducible apply kp_setF) | (with_reducible exact Keeps.mk (by assumption))

theorem kp_mapRods {z : State} (s : State) (hs : Keeps z s) :
    Keeps z (mapRods s) := by
  unfold mapRods
  repeat' first
    | (with_reducible assumption) | intro _
    | (extract_lets +onlyGivenNames lv; first | (have hx : Keeps z lv := ?_; generalize lv = w at hx ⊢; clear lv; rotate_left; subst lv) | (have hfn0 : ∀ y, Keeps z y → Keeps z (lv y) := ?_; generalize lv = w at hfn0 ⊢; clear lv; rotate_left; subst lv) | (have hfn1 : ∀ a y, Keeps z y → Keeps z (lv a y) := ?_; generalize lv = w at hfn1 ⊢; clear lv; rotate_left; subst lv) | (have hfn2 : ∀ a b y, Keeps z y → Keeps z (lv a b y) := ?_; generalize lv = w at hfn2 ⊢; clear lv; rotate_left; subst lv) | (have hfn3 : ∀ a b c y, Keeps z y → Keeps z (lv a b c y) := ?_; generalize lv = w at hfn3 ⊢; clear lv; rotate_left; subst lv) | (have hfn4 : ∀ y a, Keeps z y → Keeps z (lv y a) := ?_; generalize lv = w at hfn4 ⊢; clear lv; rotate_left; subst lv) | (have hfn5 : ∀ a, Keeps z (lv a) := ?_; generalize lv = w at hfn5 ⊢; clear lv; rotate_left; subst lv) | (have hfn6 : ∀ a b, Keeps z (lv a b) := ?_; generalize lv = w at hfn6 ⊢; clear lv; rotate_left; subst lv) | (have hfn7 : ∀ y a b, Keeps z y → Keeps z (lv y a b) := ?_; generalize lv = w at hfn7 ⊢; clear lv; rotate_left; subst lv) | (have hfn8 : ∀ a, KeepsR z (lv a) := ?_; generalize lv = w at hfn8 ⊢; clear lv; rotate_left; subst lv) | (have hfn9 : ∀ y, Keeps z y → KeepsC z (lv y) := ?_; generalize lv = w at hfn9 ⊢; clear lv; rotate_left; subst lv) | (have hfn10 : ∀ y, Keeps z y → KeepsR z (lv y) := ?_; generalize lv = w at hfn10 ⊢; clear lv; rotate_left; subst lv) | (have hfn11 : ∀ a y, Keeps z y → KeepsR z (lv a y) := ?_; generalize lv = w at hfn11 ⊢; clear lv; rotate_left; subst lv) | (have hfn12 : ∀ y a, Keeps z y → KeepsR z (lv y a) := ?_; generalize lv = w at hfn12 ⊢; clear lv; rotate_left; subst lv) | (generalize lv = w; clear lv) | subst lv)
    | (with_reducible apply hfn0) | (with_reducible apply hfn1) | (with_reducible apply hfn2) | (with_reducible apply hfn3)
    | (with_reducible apply hfn4) | (with_reducible apply hfn5) | (with_reducible apply hfn6) | (with_reducible apply hfn7)
    | (with_reducible apply hfn8) | (with_reducible apply hfn9) | (with_reducible apply hfn10) | (with_reducible apply hfn11)
    | (with_reducible apply hfn12) | (with_reducible apply kp_setF) | (with_reducible apply kp_moved) | (with_reducible apply kp_takeBead)
    | (with_reducible apply kp_setState) | (with_reducible apply kp_setBoot) | (with_reducible apply Keeps.foldl)
    | (with_reducible apply Keeps.foldlx) | (with_reducible apply Keeps.foldlv) | (with_reducible apply Keeps.foldl2)
    | (with_reducible apply Keeps.foldl1) | (with_reducible apply Keeps.foldl22) | (with_reducible apply Keeps.foldl222)
    | (with_reducible apply Keeps.foldl2x) | split | (with_reducible exact Keeps.mk (by assumption))

theorem kp_physFail {z : State} (p : Nat) (s : State) (hs : Keeps z s) :
    Keeps z (physFail p s) := by
  unfold physFail
  repeat' first
    | (with_reducible assumption) | (with_reducible apply kp_addDefect) | (with_reducible apply kp_setBoot) | split
    | (with_reducible exact Keeps.mk (by assumption))

theorem kp_checkerFail {z : State} (p : Nat) (s : State) (hs : Keeps z s) :
    Keeps z (checkerFail p s) := by
  unfold checkerFail
  repeat' first
    | (with_reducible assumption) | (with_reducible apply kp_tally) | (with_reducible apply kp_physFail) | split

theorem kp_execStageRodTest {z : State} (bad : List Nat) (s : State) (hs : Keeps z s) :
    KeepsR z (execStageRodTest bad s) := by
  unfold execStageRodTest
  repeat' first
    | (with_reducible assumption) | intro _
    | (extract_lets +onlyGivenNames lv; first | (have hx : Keeps z lv := ?_; generalize lv = w at hx ⊢; clear lv; rotate_left; subst lv) | (have hx : KeepsP (fun y : _ × State => y.2) z lv := ?_; generalize lv = w at hx ⊢; clear lv; replace hx : Keeps z w.2 := hx; rotate_left; subst lv) | (have hx : KeepsP (fun y : State × _ => y.1) z lv := ?_; generalize lv = w at hx ⊢; clear lv; replace hx : Keeps z w.1 := hx; rotate_left; subst lv) | (have hx : KeepsP (fun y : _ × _ × State => y.2.2) z lv := ?_; generalize lv = w at hx ⊢; clear lv; replace hx : Keeps z w.2.2 := hx; rotate_left; subst lv) | (generalize lv = w; clear lv) | subst lv)
    | (with_reducible apply kp_setBoot) | (with_reducible apply kp_stageEnd) | (with_reducible apply kp_physFail) | (with_reducible apply Keeps.foldl)
    | (with_reducible apply Keeps.foldlx) | (with_reducible apply Keeps.foldlv) | (with_reducible apply Keeps.foldl2)
    | (with_reducible apply Keeps.foldl1) | (with_reducible apply Keeps.foldl22) | (with_reducible apply Keeps.foldl222)
    | (with_reducible apply Keeps.foldl2x) | split
    | (with_reducible refine KeepsP.mk ?_; with_reducible first | assumption | apply Keeps.foldlx | apply Keeps.foldlv | apply Keeps.foldl2 | apply Keeps.foldl1 | apply Keeps.foldl22 | apply Keeps.foldl222 | apply Keeps.foldl2x)
    | (with_reducible refine KeepsP.p1 ?_) | (with_reducible refine KeepsP.p2 ?_) | (with_reducible refine KeepsP.p22 ?_)
    | (with_reducible refine KeepsR.next ?_) | (with_reducible refine Keeps.of2 (by assumption) ?_)
    | (with_reducible refine Keeps.of1 (by assumption) ?_) | (with_reducible refine Keeps.of3 (by assumption) ?_) | dsimp only
    | (with_reducible exact Keeps.mk (by assumption))

theorem kp_execStageChecker {z : State} (bad : List Nat) (s : State) (hs : Keeps z s) :
    KeepsR z (execStageChecker bad s) := by
  unfold execStageChecker
  repeat' first
    | (with_reducible assumption) | intro _ | (with_reducible apply kp_stageEnd) | (with_reducible apply kp_checkerFail)
    | (with_reducible apply Keeps.foldl) | (with_reducible apply Keeps.foldlx) | (with_reducible apply Keeps.foldlv)
    | (with_reducible apply Keeps.foldl2) | (with_reducible apply Keeps.foldl1) | (with_reducible apply Keeps.foldl22)
    | (with_reducible apply Keeps.foldl222) | (with_reducible apply Keeps.foldl2x) | split
    | (with_reducible refine KeepsP.mk ?_; with_reducible first | assumption | apply Keeps.foldlx | apply Keeps.foldlv | apply Keeps.foldl2 | apply Keeps.foldl1 | apply Keeps.foldl22 | apply Keeps.foldl222 | apply Keeps.foldl2x)
    | (with_reducible refine KeepsR.next ?_) | (with_reducible refine Keeps.of2 (by assumption) ?_)
    | (with_reducible refine Keeps.of1 (by assumption) ?_) | (with_reducible refine Keeps.of3 (by assumption) ?_) | dsimp only

theorem kp_holdAbsent {z : State} (s : State) (hs : Keeps z s) :
    Keeps z (holdAbsent s) := by
  unfold holdAbsent
  repeat' first
    | (with_reducible assumption) | intro _ | (with_reducible apply kp_showIslPace) | (with_reducible apply kp_holdIsl)
    | (with_reducible apply Keeps.foldl) | (with_reducible apply Keeps.foldlx) | (with_reducible apply Keeps.foldlv)
    | (with_reducible apply Keeps.foldl2) | (with_reducible apply Keeps.foldl1) | (with_reducible apply Keeps.foldl22)
    | (with_reducible apply Keeps.foldl222) | (with_reducible apply Keeps.foldl2x)

theorem kp_execStageRodMap {z : State} (s : State) (hs : Keeps z s) :
    KeepsR z (execStageRodMap s) := by
  unfold execStageRodMap
  repeat' first
    | (with_reducible assumption) | (with_reducible apply kp_stageEnd) | (with_reducible apply kp_holdAbsent) | (with_reducible apply kp_mapRods)
    | split | (with_reducible refine KeepsR.next ?_) | dsimp only

theorem kp_trainRod {z : State} (bad : List Nat) (holds : List (Nat × Nat)) (s : State) (i : Nat) (hs : Keeps z s) :
    Keeps z (trainRod bad holds s i) := by
  unfold trainRod
  repeat' first
    | (with_reducible assumption) | intro _ | (with_reducible apply kp_rodGone) | (with_reducible apply kp_recordCE)
    | (with_reducible apply kp_calRecord) | (with_reducible apply kp_setCal) | (with_reducible apply Keeps.foldl)
    | (with_reducible apply Keeps.foldlx) | (with_reducible apply Keeps.foldlv) | (with_reducible apply Keeps.foldl2)
    | (with_reducible apply Keeps.foldl1) | (with_reducible apply Keeps.foldl22) | (with_reducible apply Keeps.foldl222)
    | (with_reducible apply Keeps.foldl2x) | split | (with_reducible exact Keeps.mk (by assumption))

theorem kp_spadFail {z : State} (s : State) (k : Nat) (hs : Keeps z s) :
    Keeps z (spadFail s k) := by
  unfold spadFail
  repeat' first
    | (with_reducible assumption)
    | (extract_lets +onlyGivenNames lv; first | (have hx : Keeps z lv := ?_; generalize lv = w at hx ⊢; clear lv; rotate_left; subst lv) | (generalize lv = w; clear lv) | subst lv)
    | (with_reducible apply kp_rodGone) | (with_reducible apply kp_spadSeen) | split | (with_reducible exact Keeps.mk (by assumption))

theorem kp_execStageChanTrain {z : State} (bad : List Nat) (holds : List (Nat × Nat)) (s : State) (hs : Keeps z s) :
    KeepsR z (execStageChanTrain bad holds s) := by
  unfold execStageChanTrain
  repeat' first
    | (with_reducible assumption) | intro _ | (with_reducible apply kp_stageEnd) | (with_reducible apply kp_trainRod)
    | (with_reducible apply Keeps.foldl) | (with_reducible apply Keeps.foldlx) | (with_reducible apply Keeps.foldlv)
    | (with_reducible apply Keeps.foldl2) | (with_reducible apply Keeps.foldl1) | (with_reducible apply Keeps.foldl22)
    | (with_reducible apply Keeps.foldl222) | (with_reducible apply Keeps.foldl2x) | split
    | (with_reducible refine KeepsP.mk ?_; with_reducible first | assumption | apply Keeps.foldlx | apply Keeps.foldlv | apply Keeps.foldl2 | apply Keeps.foldl1 | apply Keeps.foldl22 | apply Keeps.foldl222 | apply Keeps.foldl2x)
    | (with_reducible refine KeepsR.next ?_) | (with_reducible refine Keeps.of2 (by assumption) ?_)
    | (with_reducible refine Keeps.of1 (by assumption) ?_) | (with_reducible refine Keeps.of3 (by assumption) ?_) | dsimp only

theorem kp_execStageSpadTest {z : State} (bad : List Nat) (s : State) (hs : Keeps z s) :
    KeepsR z (execStageSpadTest bad s) := by
  unfold execStageSpadTest
  repeat' first
    | (with_reducible assumption) | intro _ | (with_reducible apply kp_stageEnd) | (with_reducible apply kp_spadFail)
    | (with_reducible apply Keeps.foldl) | (with_reducible apply Keeps.foldlx) | (with_reducible apply Keeps.foldlv)
    | (with_reducible apply Keeps.foldl2) | (with_reducible apply Keeps.foldl1) | (with_reducible apply Keeps.foldl22)
    | (with_reducible apply Keeps.foldl222) | (with_reducible apply Keeps.foldl2x) | split
    | (with_reducible refine KeepsP.mk ?_; with_reducible first | assumption | apply Keeps.foldlx | apply Keeps.foldlv | apply Keeps.foldl2 | apply Keeps.foldl1 | apply Keeps.foldl22 | apply Keeps.foldl222 | apply Keeps.foldl2x)
    | (with_reducible refine KeepsR.next ?_) | (with_reducible refine Keeps.of2 (by assumption) ?_)
    | (with_reducible refine Keeps.of1 (by assumption) ?_) | (with_reducible refine Keeps.of3 (by assumption) ?_) | dsimp only

theorem kp_execStageBeadTest {z : State} (bad : List (Nat × Nat)) (s : State) (hs : Keeps z s) :
    KeepsR z (execStageBeadTest bad s) := by
  unfold execStageBeadTest
  repeat' first
    | (with_reducible assumption) | (with_reducible apply kp_stageEnd) | (with_reducible apply kp_setBoot) | split
    | (with_reducible refine KeepsR.next ?_) | dsimp only | (with_reducible exact Keeps.mk (by assumption))

theorem kp_retireKnown {z : State} (i : Nat) (q : Nat) (s : State) (hs : Keeps z s) :
    Keeps z (retireKnown i q s) := by
  unfold retireKnown
  repeat' first
    | (with_reducible assumption) | (with_reducible apply kp_bump) | (with_reducible apply kp_losePage) | (with_reducible apply kp_remapPage) | split

theorem kp_spareFail {z : State} (i : Nat) (ch : Nat) (k : Nat) (s : State) (hs : Keeps z s) :
    Keeps z (spareFail i ch k s) := by
  unfold spareFail
  repeat' first
    | (with_reducible assumption) | intro _
    | (extract_lets +onlyGivenNames lv; first | (have hx : Keeps z lv := ?_; generalize lv = w at hx ⊢; clear lv; rotate_left; subst lv) | (generalize lv = w; clear lv) | subst lv)
    | (with_reducible apply kp_setBead) | (with_reducible apply kp_takeSpare) | split | (with_reducible exact Keeps.mk (by assumption))

theorem kp_retireRod {z : State} (march : List (Nat × Nat)) (s : State) (i : Nat) (hs : Keeps z s) :
    Keeps z (retireRod march s i) := by
  unfold retireRod
  repeat' first
    | (with_reducible assumption) | intro _
    | (extract_lets +onlyGivenNames lv; first | (have hx : Keeps z lv := ?_; generalize lv = w at hx ⊢; clear lv; rotate_left; subst lv) | (generalize lv = w; clear lv) | subst lv)
    | (with_reducible apply kp_spareFail) | (with_reducible apply kp_retireKnown) | (with_reducible apply kp_retirePage)
    | (with_reducible apply Keeps.foldl) | (with_reducible apply Keeps.foldlx) | (with_reducible apply Keeps.foldlv)
    | (with_reducible apply Keeps.foldl2) | (with_reducible apply Keeps.foldl1) | (with_reducible apply Keeps.foldl22)
    | (with_reducible apply Keeps.foldl222) | (with_reducible apply Keeps.foldl2x) | split

theorem kp_execStageRetire {z : State} (s : State) (hs : Keeps z s) :
    KeepsR z (execStageRetire s) := by
  unfold execStageRetire
  repeat' first
    | (with_reducible assumption) | intro _
    | (extract_lets +onlyGivenNames lv; first | (have hx : Keeps z lv := ?_; generalize lv = w at hx ⊢; clear lv; rotate_left; subst lv) | (have hx : KeepsP (fun y : _ × State => y.2) z lv := ?_; generalize lv = w at hx ⊢; clear lv; replace hx : Keeps z w.2 := hx; rotate_left; subst lv) | (have hx : KeepsP (fun y : State × _ => y.1) z lv := ?_; generalize lv = w at hx ⊢; clear lv; replace hx : Keeps z w.1 := hx; rotate_left; subst lv) | (have hx : KeepsP (fun y : _ × _ × State => y.2.2) z lv := ?_; generalize lv = w at hx ⊢; clear lv; replace hx : Keeps z w.2.2 := hx; rotate_left; subst lv) | (generalize lv = w; clear lv) | subst lv)
    | (with_reducible apply kp_retireRod) | (with_reducible apply kp_stageEnd) | (with_reducible apply kp_setBoot)
    | (with_reducible apply Keeps.foldl) | (with_reducible apply Keeps.foldlx) | (with_reducible apply Keeps.foldlv)
    | (with_reducible apply Keeps.foldl2) | (with_reducible apply Keeps.foldl1) | (with_reducible apply Keeps.foldl22)
    | (with_reducible apply Keeps.foldl222) | (with_reducible apply Keeps.foldl2x) | split
    | (with_reducible refine KeepsP.mk ?_; with_reducible first | assumption | apply Keeps.foldlx | apply Keeps.foldlv | apply Keeps.foldl2 | apply Keeps.foldl1 | apply Keeps.foldl22 | apply Keeps.foldl222 | apply Keeps.foldl2x)
    | (with_reducible refine KeepsP.p1 ?_) | (with_reducible refine KeepsP.p2 ?_) | (with_reducible refine KeepsP.p22 ?_)
    | (with_reducible refine KeepsR.next ?_) | (with_reducible refine Keeps.of2 (by assumption) ?_)
    | (with_reducible refine Keeps.of1 (by assumption) ?_) | (with_reducible refine Keeps.of3 (by assumption) ?_) | dsimp only
    | (with_reducible exact Keeps.mk (by assumption))

theorem kp_execStageZero {z : State} (s : State) (hs : Keeps z s) :
    KeepsR z (execStageZero s) := by
  unfold execStageZero
  repeat' first
    | (with_reducible assumption) | intro _ | (with_reducible apply kp_stageEnd) | (with_reducible apply kp_zeroFill)
    | (with_reducible apply Keeps.foldl) | (with_reducible apply Keeps.foldlx) | (with_reducible apply Keeps.foldlv)
    | (with_reducible apply Keeps.foldl2) | (with_reducible apply Keeps.foldl1) | (with_reducible apply Keeps.foldl22)
    | (with_reducible apply Keeps.foldl222) | (with_reducible apply Keeps.foldl2x) | split
    | (with_reducible refine KeepsP.mk ?_; with_reducible first | assumption | apply Keeps.foldlx | apply Keeps.foldlv | apply Keeps.foldl2 | apply Keeps.foldl1 | apply Keeps.foldl22 | apply Keeps.foldl222 | apply Keeps.foldl2x)
    | (with_reducible refine KeepsR.next ?_) | (with_reducible refine Keeps.of2 (by assumption) ?_)
    | (with_reducible refine Keeps.of1 (by assumption) ?_) | (with_reducible refine Keeps.of3 (by assumption) ?_) | dsimp only

theorem kp_testedLink {z : State} (pass : List (Nat × Nat × Nat)) (s : State) (n : Nat) (hs : Keeps z s) :
    Keeps z (testedLink pass s n) := by
  unfold testedLink
  repeat' first
    | (with_reducible assumption) | intro _
    | (extract_lets +onlyGivenNames lv; first | (have hx : Keeps z lv := ?_; generalize lv = w at hx ⊢; clear lv; rotate_left; subst lv) | (have hx : KeepsP (fun y : _ × State => y.2) z lv := ?_; generalize lv = w at hx ⊢; clear lv; replace hx : Keeps z w.2 := hx; rotate_left; subst lv) | (have hx : KeepsP (fun y : State × _ => y.1) z lv := ?_; generalize lv = w at hx ⊢; clear lv; replace hx : Keeps z w.1 := hx; rotate_left; subst lv) | (have hx : KeepsP (fun y : _ × _ × State => y.2.2) z lv := ?_; generalize lv = w at hx ⊢; clear lv; replace hx : Keeps z w.2.2 := hx; rotate_left; subst lv) | (generalize lv = w; clear lv) | subst lv)
    | (with_reducible apply kp_setState) | (with_reducible apply kp_setBoot) | (with_reducible apply kp_laneBad)
    | (with_reducible apply kp_brgTested) | (with_reducible apply kp_trainFail) | (with_reducible apply Keeps.foldl)
    | (with_reducible apply Keeps.foldlx) | (with_reducible apply Keeps.foldlv) | (with_reducible apply Keeps.foldl2)
    | (with_reducible apply Keeps.foldl1) | (with_reducible apply Keeps.foldl22) | (with_reducible apply Keeps.foldl222)
    | (with_reducible apply Keeps.foldl2x) | split
    | (with_reducible refine KeepsP.mk ?_; with_reducible first | assumption | apply kp_brgTested | apply Keeps.foldlx | apply Keeps.foldlv | apply Keeps.foldl2 | apply Keeps.foldl1 | apply Keeps.foldl22 | apply Keeps.foldl222 | apply Keeps.foldl2x)
    | (with_reducible refine KeepsP.p1 ?_) | (with_reducible refine KeepsP.p2 ?_) | (with_reducible refine KeepsP.p22 ?_)
    | (with_reducible refine Keeps.of2 (by assumption) ?_) | (with_reducible refine Keeps.of1 (by assumption) ?_)
    | (with_reducible refine Keeps.of3 (by assumption) ?_) | (with_reducible exact Keeps.mk (by assumption))

theorem kp_execStageLaneTest {z : State} (pass : List (Nat × Nat × Nat)) (s : State) (hs : Keeps z s) :
    KeepsR z (execStageLaneTest pass s) := by
  unfold execStageLaneTest
  repeat' first
    | (with_reducible assumption) | intro _
    | (extract_lets +onlyGivenNames lv; first | (have hx : Keeps z lv := ?_; generalize lv = w at hx ⊢; clear lv; rotate_left; subst lv) | (have hfn0 : ∀ y, Keeps z y → Keeps z (lv y) := ?_; generalize lv = w at hfn0 ⊢; clear lv; rotate_left; subst lv) | (have hfn1 : ∀ a y, Keeps z y → Keeps z (lv a y) := ?_; generalize lv = w at hfn1 ⊢; clear lv; rotate_left; subst lv) | (have hfn2 : ∀ a b y, Keeps z y → Keeps z (lv a b y) := ?_; generalize lv = w at hfn2 ⊢; clear lv; rotate_left; subst lv) | (have hfn3 : ∀ a b c y, Keeps z y → Keeps z (lv a b c y) := ?_; generalize lv = w at hfn3 ⊢; clear lv; rotate_left; subst lv) | (have hfn4 : ∀ y a, Keeps z y → Keeps z (lv y a) := ?_; generalize lv = w at hfn4 ⊢; clear lv; rotate_left; subst lv) | (have hfn5 : ∀ a, Keeps z (lv a) := ?_; generalize lv = w at hfn5 ⊢; clear lv; rotate_left; subst lv) | (have hfn6 : ∀ a b, Keeps z (lv a b) := ?_; generalize lv = w at hfn6 ⊢; clear lv; rotate_left; subst lv) | (have hfn7 : ∀ y a b, Keeps z y → Keeps z (lv y a b) := ?_; generalize lv = w at hfn7 ⊢; clear lv; rotate_left; subst lv) | (have hfn8 : ∀ a, KeepsR z (lv a) := ?_; generalize lv = w at hfn8 ⊢; clear lv; rotate_left; subst lv) | (have hfn9 : ∀ y, Keeps z y → KeepsC z (lv y) := ?_; generalize lv = w at hfn9 ⊢; clear lv; rotate_left; subst lv) | (have hfn10 : ∀ y, Keeps z y → KeepsR z (lv y) := ?_; generalize lv = w at hfn10 ⊢; clear lv; rotate_left; subst lv) | (have hfn11 : ∀ a y, Keeps z y → KeepsR z (lv a y) := ?_; generalize lv = w at hfn11 ⊢; clear lv; rotate_left; subst lv) | (have hfn12 : ∀ y a, Keeps z y → KeepsR z (lv y a) := ?_; generalize lv = w at hfn12 ⊢; clear lv; rotate_left; subst lv) | (generalize lv = w; clear lv) | subst lv)
    | (with_reducible apply hfn0) | (with_reducible apply hfn1) | (with_reducible apply hfn2) | (with_reducible apply hfn3)
    | (with_reducible apply hfn4) | (with_reducible apply hfn5) | (with_reducible apply hfn6) | (with_reducible apply hfn7)
    | (with_reducible apply hfn8) | (with_reducible apply hfn9) | (with_reducible apply hfn10) | (with_reducible apply hfn11)
    | (with_reducible apply hfn12) | (with_reducible refine KeepsR.next ?_) | (with_reducible apply kp_waitTill)
    | (with_reducible apply kp_testedLink) | (with_reducible apply kp_checkBridge) | (with_reducible apply kp_stageEnd)
    | (with_reducible apply Keeps.foldl) | (with_reducible apply Keeps.foldlx) | (with_reducible apply Keeps.foldlv)
    | (with_reducible apply Keeps.foldl2) | (with_reducible apply Keeps.foldl1) | (with_reducible apply Keeps.foldl22)
    | (with_reducible apply Keeps.foldl222) | (with_reducible apply Keeps.foldl2x) | split

theorem kp_relinkWarm {z : State} (s : State) (n : Nat) (hs : Keeps z s) :
    Keeps z (relinkWarm s n) := by
  unfold relinkWarm
  repeat' first
    | (with_reducible assumption) | (with_reducible apply kp_brgEnter) | (with_reducible apply kp_setState) | (with_reducible apply kp_setBrgX)
    | (with_reducible apply kp_brgFresh) | dsimp only

theorem kp_retrainDown {z : State} (bad : List Nat) (holds : List (Nat × Nat)) (s : State) (i : Nat) (hs : Keeps z s) :
    Keeps z (retrainDown bad holds s i) := by
  unfold retrainDown
  repeat' first
    | (with_reducible assumption) | intro _
    | (extract_lets +onlyGivenNames lv; first | (have hx : Keeps z lv := ?_; generalize lv = w at hx ⊢; clear lv; rotate_left; subst lv) | (generalize lv = w; clear lv) | subst lv)
    | (with_reducible apply kp_chanDown) | (with_reducible apply kp_setBead) | (with_reducible apply kp_calRecord) | (with_reducible apply kp_setCal)
    | (with_reducible apply Keeps.foldl) | (with_reducible apply Keeps.foldlx) | (with_reducible apply Keeps.foldlv)
    | (with_reducible apply Keeps.foldl2) | (with_reducible apply Keeps.foldl1) | (with_reducible apply Keeps.foldl22)
    | (with_reducible apply Keeps.foldl222) | (with_reducible apply Keeps.foldl2x) | split | (with_reducible exact Keeps.mk (by assumption))

theorem kp_gridWarm {z : State} (checker : List Nat) (chans : List Nat) (holds : List (Nat × Nat)) (spads : List Nat) (march : List (Nat × Nat)) (s : State) (hs : Keeps z s) :
    Keeps z (gridWarm checker chans holds spads march s) := by
  unfold gridWarm
  repeat' first
    | (with_reducible assumption) | intro _
    | (extract_lets +onlyGivenNames lv; first | (have hx : Keeps z lv := ?_; generalize lv = w at hx ⊢; clear lv; rotate_left; subst lv) | (generalize lv = w; clear lv) | subst lv)
    | (with_reducible apply kp_relinkWarm) | (with_reducible apply kp_zeroFill) | (with_reducible apply kp_retrainDown)
    | (with_reducible apply kp_setF) | (with_reducible apply kp_setBoot) | (with_reducible apply kp_mapRods) | (with_reducible apply kp_checkerFail)
    | (with_reducible apply kp_trainRod) | (with_reducible apply kp_spadFail) | (with_reducible apply kp_holdAbsent)
    | (with_reducible apply kp_retireRod) | (with_reducible refine Keeps.getD ?_ ?_) | (with_reducible apply Keeps.foldl)
    | (with_reducible apply Keeps.foldlx) | (with_reducible apply Keeps.foldlv) | (with_reducible apply Keeps.foldl2)
    | (with_reducible apply Keeps.foldl1) | (with_reducible apply Keeps.foldl22) | (with_reducible apply Keeps.foldl222)
    | (with_reducible apply Keeps.foldl2x) | split | (with_reducible exact Keeps.mk (by assumption))

theorem kp_execStageGrid {z : State} (checker : List Nat) (chans : List Nat) (holds : List (Nat × Nat)) (spads : List Nat) (march : List (Nat × Nat)) (s : State) (hs : Keeps z s) :
    KeepsR z (execStageGrid checker chans holds spads march s) := by
  unfold execStageGrid
  repeat' first
    | (with_reducible assumption) | intro _
    | (extract_lets +onlyGivenNames lv; first | (have hx : Keeps z lv := ?_; generalize lv = w at hx ⊢; clear lv; rotate_left; subst lv) | (generalize lv = w; clear lv) | subst lv)
    | (with_reducible refine KeepsR.next ?_) | (with_reducible apply kp_brgEnter) | (with_reducible apply kp_gridWarm)
    | (with_reducible apply kp_showRelay) | (with_reducible apply kp_checkBridges) | (with_reducible apply kp_setBoot)
    | (with_reducible apply kp_stageEnd) | (with_reducible apply Keeps.foldl) | (with_reducible apply Keeps.foldlx)
    | (with_reducible apply Keeps.foldlv) | (with_reducible apply Keeps.foldl2) | (with_reducible apply Keeps.foldl1)
    | (with_reducible apply Keeps.foldl22) | (with_reducible apply Keeps.foldl222) | (with_reducible apply Keeps.foldl2x) | split
    | (with_reducible exact Keeps.mk (by assumption))

theorem kp_execStageLicence {z : State} (sig : Bool) (s : State) (hs : Keeps z s) :
    KeepsR z (execStageLicence sig s) := by
  unfold execStageLicence
  repeat' first
    | (with_reducible assumption)
    | (extract_lets +onlyGivenNames lv; first | (have hx : Keeps z lv := ?_; generalize lv = w at hx ⊢; clear lv; rotate_left; subst lv) | (generalize lv = w; clear lv) | subst lv)
    | (with_reducible apply kp_setMgs) | (with_reducible apply kp_setBoot) | (with_reducible apply kp_stageEnd) | (with_reducible apply kp_tallyLic)
    | (with_reducible apply kp_applyLic) | (with_reducible apply kp_recordCE) | split | (with_reducible refine KeepsR.next ?_) | dsimp only
    | (with_reducible exact Keeps.mk (by assumption))

theorem kp_execStagePcie {z : State} (s : State) (hs : Keeps z s) :
    KeepsR z (execStagePcie s) := by
  unfold execStagePcie
  repeat' first
    | (with_reducible assumption) | (with_reducible apply kp_stageEnd) | split | (with_reducible refine KeepsR.next ?_) | dsimp only
    | (with_reducible exact Keeps.mk (by assumption))

theorem kp_rlBring {z : State} (s : State) (p : Nat) (hs : Keeps z s) :
    Keeps z (rlBring s p) := by
  unfold rlBring
  repeat' first
    | (with_reducible assumption)
    | (extract_lets +onlyGivenNames lv; first | (have hx : Keeps z lv := ?_; generalize lv = w at hx ⊢; clear lv; rotate_left; subst lv) | (generalize lv = w; clear lv) | subst lv)
    | (with_reducible apply kp_enterStarting) | (with_reducible apply kp_setPhase) | split | dsimp only

theorem kp_rlEnd {z : State} (s : State) (hs : Keeps z s) :
    Keeps z (rlEnd s) := by
  unfold rlEnd
  repeat' first
    | (with_reducible assumption) | (with_reducible apply kp_stageEnd) | (with_reducible apply kp_setBoot) | split | dsimp only
    | (with_reducible exact Keeps.mk (by assumption))

theorem kp_execStageRl {z : State} (s : State) (hs : Keeps z s) :
    KeepsR z (execStageRl s) := by
  unfold execStageRl
  repeat' first
    | (with_reducible assumption) | intro _ | (with_reducible apply kp_stageEnd) | (with_reducible apply kp_setBoot) | (with_reducible apply kp_rlEnd)
    | (with_reducible apply kp_rlBring) | (with_reducible apply Keeps.foldl) | (with_reducible apply Keeps.foldlx)
    | (with_reducible apply Keeps.foldlv) | (with_reducible apply Keeps.foldl2) | (with_reducible apply Keeps.foldl1)
    | (with_reducible apply Keeps.foldl22) | (with_reducible apply Keeps.foldl222) | (with_reducible apply Keeps.foldl2x) | split
    | (with_reducible refine KeepsP.mk ?_; with_reducible first | assumption | apply Keeps.foldlx | apply Keeps.foldlv | apply Keeps.foldl2 | apply Keeps.foldl1 | apply Keeps.foldl22 | apply Keeps.foldl222 | apply Keeps.foldl2x)
    | (with_reducible refine KeepsR.next ?_) | (with_reducible refine Keeps.of2 (by assumption) ?_)
    | (with_reducible refine Keeps.of1 (by assumption) ?_) | (with_reducible refine Keeps.of3 (by assumption) ?_) | dsimp only
    | (with_reducible exact Keeps.mk (by assumption))

theorem kp_judgeCause {z : State} (short : Bool) (o : Option Nat) (s : State) (hs : Keeps z s) :
    Keeps z (judgeCause short o s) := by
  unfold judgeCause
  repeat' first
    | (with_reducible assumption) | intro _ | (with_reducible apply kp_setF) | split

theorem kp_judge {z : State} (s : State) (hs : Keeps z s) :
    Keeps z (judge s) := by
  unfold judge
  repeat' first
    | (with_reducible assumption) | intro _
    | (extract_lets +onlyGivenNames lv; first | (have hx : Keeps z lv := ?_; generalize lv = w at hx ⊢; clear lv; rotate_left; subst lv) | (have hfn0 : ∀ y, Keeps z y → Keeps z (lv y) := ?_; generalize lv = w at hfn0 ⊢; clear lv; rotate_left; subst lv) | (have hfn1 : ∀ a y, Keeps z y → Keeps z (lv a y) := ?_; generalize lv = w at hfn1 ⊢; clear lv; rotate_left; subst lv) | (have hfn2 : ∀ a b y, Keeps z y → Keeps z (lv a b y) := ?_; generalize lv = w at hfn2 ⊢; clear lv; rotate_left; subst lv) | (have hfn3 : ∀ a b c y, Keeps z y → Keeps z (lv a b c y) := ?_; generalize lv = w at hfn3 ⊢; clear lv; rotate_left; subst lv) | (have hfn4 : ∀ y a, Keeps z y → Keeps z (lv y a) := ?_; generalize lv = w at hfn4 ⊢; clear lv; rotate_left; subst lv) | (have hfn5 : ∀ a, Keeps z (lv a) := ?_; generalize lv = w at hfn5 ⊢; clear lv; rotate_left; subst lv) | (have hfn6 : ∀ a b, Keeps z (lv a b) := ?_; generalize lv = w at hfn6 ⊢; clear lv; rotate_left; subst lv) | (have hfn7 : ∀ y a b, Keeps z y → Keeps z (lv y a b) := ?_; generalize lv = w at hfn7 ⊢; clear lv; rotate_left; subst lv) | (have hfn8 : ∀ a, KeepsR z (lv a) := ?_; generalize lv = w at hfn8 ⊢; clear lv; rotate_left; subst lv) | (have hfn9 : ∀ y, Keeps z y → KeepsC z (lv y) := ?_; generalize lv = w at hfn9 ⊢; clear lv; rotate_left; subst lv) | (have hfn10 : ∀ y, Keeps z y → KeepsR z (lv y) := ?_; generalize lv = w at hfn10 ⊢; clear lv; rotate_left; subst lv) | (have hfn11 : ∀ a y, Keeps z y → KeepsR z (lv a y) := ?_; generalize lv = w at hfn11 ⊢; clear lv; rotate_left; subst lv) | (have hfn12 : ∀ y a, Keeps z y → KeepsR z (lv y a) := ?_; generalize lv = w at hfn12 ⊢; clear lv; rotate_left; subst lv) | (generalize lv = w; clear lv) | subst lv)
    | (with_reducible apply hfn0) | (with_reducible apply hfn1) | (with_reducible apply hfn2) | (with_reducible apply hfn3)
    | (with_reducible apply hfn4) | (with_reducible apply hfn5) | (with_reducible apply hfn6) | (with_reducible apply hfn7)
    | (with_reducible apply hfn8) | (with_reducible apply hfn9) | (with_reducible apply hfn10) | (with_reducible apply hfn11)
    | (with_reducible apply hfn12) | (with_reducible apply kp_setF) | (with_reducible apply kp_judgeCause) | split
    | (with_reducible exact Keeps.mk (by assumption))

theorem kp_execStageJudge {z : State} (s : State) (hs : Keeps z s) :
    KeepsR z (execStageJudge s) := by
  unfold execStageJudge
  repeat' first
    | (with_reducible assumption)
    | (extract_lets +onlyGivenNames lv; first | (have hx : Keeps z lv := ?_; generalize lv = w at hx ⊢; clear lv; rotate_left; subst lv) | (generalize lv = w; clear lv) | subst lv)
    | (with_reducible refine KeepsR.next ?_) | (with_reducible apply kp_rlEnd) | (with_reducible apply kp_waitTill)
    | (with_reducible apply kp_stageEnd) | (with_reducible apply kp_judge) | split

theorem kp_execStageService {z : State} (s : State) (hs : Keeps z s) :
    KeepsR z (execStageService s) := by
  unfold execStageService
  repeat' first
    | (with_reducible assumption) | intro _
    | (extract_lets +onlyGivenNames lv; first | (have hx : Keeps z lv := ?_; generalize lv = w at hx ⊢; clear lv; rotate_left; subst lv) | (have hx : KeepsP (fun y : _ × State => y.2) z lv := ?_; generalize lv = w at hx ⊢; clear lv; replace hx : Keeps z w.2 := hx; rotate_left; subst lv) | (have hx : KeepsP (fun y : State × _ => y.1) z lv := ?_; generalize lv = w at hx ⊢; clear lv; replace hx : Keeps z w.1 := hx; rotate_left; subst lv) | (have hx : KeepsP (fun y : _ × _ × State => y.2.2) z lv := ?_; generalize lv = w at hx ⊢; clear lv; replace hx : Keeps z w.2.2 := hx; rotate_left; subst lv) | (generalize lv = w; clear lv) | subst lv)
    | (with_reducible apply kp_stageEnd) | (with_reducible apply kp_setF) | (with_reducible apply kp_setOutcome) | (with_reducible apply kp_setIslT)
    | (with_reducible apply kp_lifeEval) | (with_reducible apply Keeps.foldl) | (with_reducible apply Keeps.foldlx)
    | (with_reducible apply Keeps.foldlv) | (with_reducible apply Keeps.foldl2) | (with_reducible apply Keeps.foldl1)
    | (with_reducible apply Keeps.foldl22) | (with_reducible apply Keeps.foldl222) | (with_reducible apply Keeps.foldl2x) | split
    | (with_reducible refine KeepsP.mk ?_; with_reducible first | assumption | apply Keeps.foldlx | apply Keeps.foldlv | apply Keeps.foldl2 | apply Keeps.foldl1 | apply Keeps.foldl22 | apply Keeps.foldl222 | apply Keeps.foldl2x)
    | (with_reducible refine KeepsP.p1 ?_) | (with_reducible refine KeepsP.p2 ?_) | (with_reducible refine KeepsP.p22 ?_)
    | (with_reducible refine KeepsR.next ?_) | (with_reducible refine Keeps.of2 (by assumption) ?_)
    | (with_reducible refine Keeps.of1 (by assumption) ?_) | (with_reducible refine Keeps.of3 (by assumption) ?_) | dsimp only
    | (with_reducible exact Keeps.mk (by assumption))

theorem kp_islandOverrun {z : State} (t : State) (j : Nat) (ht : Keeps z t) :
    Keeps z (islandOverrun t j) := by
  unfold islandOverrun
  repeat' first
    | (with_reducible assumption)
    | (extract_lets +onlyGivenNames lv; first | (have hx : Keeps z lv := ?_; generalize lv = w at hx ⊢; clear lv; rotate_left; subst lv) | (generalize lv = w; clear lv) | subst lv)
    | (with_reducible apply kp_recordCE) | (with_reducible apply kp_setIsl) | split | (with_reducible exact Keeps.mk (by assumption))

theorem kp_portOverrun {z : State} (t : State) (p : Nat) (ht : Keeps z t) :
    Keeps z (portOverrun t p) := by
  unfold portOverrun
  repeat' first
    | (with_reducible assumption) | (with_reducible apply kp_setPhase) | (with_reducible apply kp_recordErr) | split

theorem kp_execStageOverrun {z : State} (s : State) (hs : Keeps z s) :
    KeepsR z (execStageOverrun s) := by
  unfold execStageOverrun
  repeat' first
    | (with_reducible assumption) | intro _
    | (extract_lets +onlyGivenNames lv; first | (have hx : Keeps z lv := ?_; generalize lv = w at hx ⊢; clear lv; rotate_left; subst lv) | (generalize lv = w; clear lv) | subst lv)
    | (with_reducible refine KeepsR.next ?_) | (with_reducible apply kp_tally) | (with_reducible apply kp_waitTill)
    | (with_reducible apply kp_islandsGo) | (with_reducible apply kp_islandOverrun) | (with_reducible apply kp_rlEnd)
    | (with_reducible apply kp_portOverrun) | (with_reducible apply Keeps.foldl) | (with_reducible apply Keeps.foldlx)
    | (with_reducible apply Keeps.foldlv) | (with_reducible apply Keeps.foldl2) | (with_reducible apply Keeps.foldl1)
    | (with_reducible apply Keeps.foldl22) | (with_reducible apply Keeps.foldl222) | (with_reducible apply Keeps.foldl2x) | split

theorem kp_execMgsRestartRun {z : State} (sigA : Bool) (sigB : Bool) (s : State) (hs : Keeps z s) :
    KeepsR z (execMgsRestartRun sigA sigB s) := by
  unfold execMgsRestartRun
  repeat' first
    | (with_reducible assumption) | intro _
    | (extract_lets +onlyGivenNames lv; first | (have hx : Keeps z lv := ?_; generalize lv = w at hx ⊢; clear lv; rotate_left; subst lv) | (have hx : KeepsP (fun y : _ × State => y.2) z lv := ?_; generalize lv = w at hx ⊢; clear lv; replace hx : Keeps z w.2 := hx; rotate_left; subst lv) | (have hx : KeepsP (fun y : State × _ => y.1) z lv := ?_; generalize lv = w at hx ⊢; clear lv; replace hx : Keeps z w.1 := hx; rotate_left; subst lv) | (have hx : KeepsP (fun y : _ × _ × State => y.2.2) z lv := ?_; generalize lv = w at hx ⊢; clear lv; replace hx : Keeps z w.2.2 := hx; rotate_left; subst lv) | (generalize lv = w; clear lv) | subst lv)
    | (with_reducible refine KeepsR.next ?_) | (with_reducible apply kp_bootSelect) | (with_reducible apply kp_mgsRuns)
    | (with_reducible apply kp_islRecover) | (with_reducible apply Keeps.foldl) | (with_reducible apply Keeps.foldlx)
    | (with_reducible apply Keeps.foldlv) | (with_reducible apply Keeps.foldl2) | (with_reducible apply Keeps.foldl1)
    | (with_reducible apply Keeps.foldl22) | (with_reducible apply Keeps.foldl222) | (with_reducible apply Keeps.foldl2x) | split
    | (with_reducible refine KeepsP.mk ?_; with_reducible first | assumption | apply kp_bootSelect | apply Keeps.foldlx | apply Keeps.foldlv | apply Keeps.foldl2 | apply Keeps.foldl1 | apply Keeps.foldl22 | apply Keeps.foldl222 | apply Keeps.foldl2x)
    | (with_reducible refine KeepsP.p1 ?_) | (with_reducible refine KeepsP.p2 ?_) | (with_reducible refine KeepsP.p22 ?_)
    | (with_reducible refine Keeps.of2 (by assumption) ?_) | (with_reducible refine Keeps.of1 (by assumption) ?_)
    | (with_reducible refine Keeps.of3 (by assumption) ?_)

end Sys2Proof.Machine
end

