-- ==== Sys2Proof/Laws/KeepsE2eRows.lean ====
section
/-! SUPPORT. What every operation of Machine/E2eRows.lean keeps. -/
set_option linter.all false

namespace Sys2Proof.Machine

theorem kp_answer {z : State} (k : Pkt) (st : Nat) (data : List Byte) (bad : List Nat) (s : State) (hs : Keeps z s) :
    Keeps z (answer k st data bad s) := by
  unfold answer
  repeat' first
    | (with_reducible assumption) | (with_reducible apply kp_sendPkt) | dsimp only

theorem kp_serveRead {z : State} (k : Pkt) (s : State) (hs : Keeps z s) :
    Keeps z (serveRead k s) := by
  unfold serveRead
  repeat' first
    | (with_reducible assumption)
    | (extract_lets +onlyGivenNames lv; first | (have hx : Keeps z lv := ?_; generalize lv = w at hx ⊢; clear lv; rotate_left; subst lv) | (have hx : KeepsP (fun y : _ × _ × _ × State => y.2.2.2) z lv := ?_; generalize lv = w at hx ⊢; clear lv; replace hx : Keeps z w.2.2.2 := hx; rotate_left; subst lv) | (generalize lv = w; clear lv) | subst lv)
    | (with_reducible apply kp_answer) | (with_reducible apply kp_hbaReadAll) | split
    | (with_reducible refine KeepsP.mk ?_; with_reducible first | assumption | apply kp_hbaReadAll) | (with_reducible refine KeepsP.p222 ?_)
    | (with_reducible refine Keeps.of4 (by assumption) ?_) | dsimp only

theorem kp_serveWrite {z : State} (k : Pkt) (s : State) (hs : Keeps z s) :
    Keeps z (serveWrite k s) := by
  unfold serveWrite
  repeat' first
    | (with_reducible assumption)
    | (extract_lets +onlyGivenNames lv; first | (have hx : Keeps z lv := ?_; generalize lv = w at hx ⊢; clear lv; rotate_left; subst lv) | (have hx : KeepsP (fun y : _ × State => y.2) z lv := ?_; generalize lv = w at hx ⊢; clear lv; replace hx : Keeps z w.2 := hx; rotate_left; subst lv) | (generalize lv = w; clear lv) | subst lv)
    | (with_reducible apply kp_answer) | (with_reducible apply kp_hbaWriteAll) | split
    | (with_reducible refine KeepsP.mk ?_; with_reducible first | assumption | apply kp_hbaWriteAll) | (with_reducible refine KeepsP.p2 ?_)
    | (with_reducible refine Keeps.of2 (by assumption) ?_) | dsimp only

theorem kp_serveAtomic {z : State} (k : Pkt) (s : State) (hs : Keeps z s) :
    Keeps z (serveAtomic k s) := by
  unfold serveAtomic
  repeat' first
    | (with_reducible assumption)
    | (extract_lets +onlyGivenNames lv; first | (have hx : Keeps z lv := ?_; generalize lv = w at hx ⊢; clear lv; rotate_left; subst lv) | (have hx : KeepsP (fun y : _ × _ × _ × State => y.2.2.2) z lv := ?_; generalize lv = w at hx ⊢; clear lv; replace hx : Keeps z w.2.2.2 := hx; rotate_left; subst lv) | (have hx : KeepsP (fun y : _ × State => y.2) z lv := ?_; generalize lv = w at hx ⊢; clear lv; replace hx : Keeps z w.2 := hx; rotate_left; subst lv) | (generalize lv = w; clear lv) | subst lv)
    | (with_reducible apply kp_dupDone) | (with_reducible apply kp_hbaReadAll) | (with_reducible apply kp_hbaWriteAll) | split
    | (with_reducible refine KeepsP.mk ?_; with_reducible first | assumption | apply kp_hbaReadAll | apply kp_hbaWriteAll)
    | (with_reducible refine KeepsP.p2 ?_) | (with_reducible refine KeepsP.p222 ?_) | (with_reducible refine Keeps.of4 (by assumption) ?_)
    | (with_reducible refine Keeps.of2 (by assumption) ?_) | dsimp only

theorem kp_serveMsg {z : State} (k : Pkt) (s : State) (hs : Keeps z s) :
    Keeps z (serveMsg k s) := by
  unfold serveMsg
  repeat' first
    | (with_reducible assumption) | intro _
    | (extract_lets +onlyGivenNames lv; first | (have hx : Keeps z lv := ?_; generalize lv = w at hx ⊢; clear lv; rotate_left; subst lv) | (generalize lv = w; clear lv) | subst lv)
    | (with_reducible apply kp_dupDone) | split | (with_reducible exact Keeps.mk (by assumption))

theorem kp_serveOnce {z : State} (k : Pkt) (s : State) (hs : Keeps z s) :
    Keeps z (serveOnce k s) := by
  unfold serveOnce
  repeat' first
    | (with_reducible assumption) | (with_reducible apply kp_dupDone) | (with_reducible apply kp_serveMsg) | (with_reducible apply kp_serveAtomic)
    | split | dsimp only

theorem kp_stale {z : State} (s : State) (hs : Keeps z s) :
    Keeps z (stale s) := by
  unfold stale
  repeat' first
    | (with_reducible assumption) | (with_reducible apply kp_raise) | (with_reducible apply kp_bump) | dsimp only

theorem kp_serveDup {z : State} (k : Pkt) (s : State) (hs : Keeps z s) :
    Keeps z (serveDup k s) := by
  unfold serveDup
  repeat' first
    | (with_reducible assumption) | intro _
    | (extract_lets +onlyGivenNames lv; first | (have hx : Keeps z lv := ?_; generalize lv = w at hx ⊢; clear lv; rotate_left; subst lv) | (have hfn0 : ∀ y, Keeps z y → Keeps z (lv y) := ?_; generalize lv = w at hfn0 ⊢; clear lv; rotate_left; subst lv) | (have hfn1 : ∀ a y, Keeps z y → Keeps z (lv a y) := ?_; generalize lv = w at hfn1 ⊢; clear lv; rotate_left; subst lv) | (have hfn2 : ∀ a b y, Keeps z y → Keeps z (lv a b y) := ?_; generalize lv = w at hfn2 ⊢; clear lv; rotate_left; subst lv) | (have hfn3 : ∀ a b c y, Keeps z y → Keeps z (lv a b c y) := ?_; generalize lv = w at hfn3 ⊢; clear lv; rotate_left; subst lv) | (have hfn4 : ∀ y a, Keeps z y → Keeps z (lv y a) := ?_; generalize lv = w at hfn4 ⊢; clear lv; rotate_left; subst lv) | (have hfn5 : ∀ a, Keeps z (lv a) := ?_; generalize lv = w at hfn5 ⊢; clear lv; rotate_left; subst lv) | (have hfn6 : ∀ a b, Keeps z (lv a b) := ?_; generalize lv = w at hfn6 ⊢; clear lv; rotate_left; subst lv) | (have hfn7 : ∀ y a b, Keeps z y → Keeps z (lv y a b) := ?_; generalize lv = w at hfn7 ⊢; clear lv; rotate_left; subst lv) | (have hfn8 : ∀ a, KeepsR z (lv a) := ?_; generalize lv = w at hfn8 ⊢; clear lv; rotate_left; subst lv) | (have hfn9 : ∀ y, Keeps z y → KeepsC z (lv y) := ?_; generalize lv = w at hfn9 ⊢; clear lv; rotate_left; subst lv) | (have hfn10 : ∀ y, Keeps z y → KeepsR z (lv y) := ?_; generalize lv = w at hfn10 ⊢; clear lv; rotate_left; subst lv) | (have hfn11 : ∀ a y, Keeps z y → KeepsR z (lv a y) := ?_; generalize lv = w at hfn11 ⊢; clear lv; rotate_left; subst lv) | (have hfn12 : ∀ y a, Keeps z y → KeepsR z (lv y a) := ?_; generalize lv = w at hfn12 ⊢; clear lv; rotate_left; subst lv) | (generalize lv = w; clear lv) | subst lv)
    | (with_reducible apply hfn0) | (with_reducible apply hfn1) | (with_reducible apply hfn2) | (with_reducible apply hfn3)
    | (with_reducible apply hfn4) | (with_reducible apply hfn5) | (with_reducible apply hfn6) | (with_reducible apply hfn7)
    | (with_reducible apply hfn8) | (with_reducible apply hfn9) | (with_reducible apply hfn10) | (with_reducible apply hfn11)
    | (with_reducible apply hfn12) | (with_reducible apply kp_showDups) | (with_reducible apply kp_answer) | (with_reducible apply kp_raise)
    | (with_reducible apply kp_recordCE) | (with_reducible apply kp_bump) | (with_reducible apply kp_serveOnce) | (with_reducible apply kp_stale)
    | split | (with_reducible exact Keeps.mk (by assumption))

theorem kp_takeArrived {z : State} (k : Pkt) (s : State) (hs : Keeps z s) :
    Keeps z (takeArrived k s) := by
  unfold takeArrived
  repeat' first
    | (with_reducible assumption)
    | (extract_lets +onlyGivenNames lv; first | (have hx : Keeps z lv := ?_; generalize lv = w at hx ⊢; clear lv; rotate_left; subst lv) | (generalize lv = w; clear lv) | subst lv)
    | dsimp only | (with_reducible exact Keeps.mk (by assumption))

theorem kp_execE2eRequest {z : State} (s : State) (hs : Keeps z s) :
    KeepsR z (execE2eRequest s) := by
  unfold execE2eRequest
  repeat' first
    | (with_reducible assumption)
    | (extract_lets +onlyGivenNames lv; first | (have hx : Keeps z lv := ?_; generalize lv = w at hx ⊢; clear lv; rotate_left; subst lv) | (generalize lv = w; clear lv) | subst lv)
    | (with_reducible refine KeepsR.next ?_) | (with_reducible apply kp_takeArrived) | (with_reducible apply kp_answer)
    | (with_reducible apply kp_serveDup) | (with_reducible apply kp_serveRead) | (with_reducible apply kp_serveWrite) | split

theorem kp_execE2ePendingTimer {z : State} (src : Nat) (tag : Nat) (s : State) (hs : Keeps z s) :
    KeepsR z (execE2ePendingTimer src tag s) := by
  unfold execE2ePendingTimer
  repeat' first
    | (with_reducible assumption) | intro _
    | (extract_lets +onlyGivenNames lv; first | (have hx : Keeps z lv := ?_; generalize lv = w at hx ⊢; clear lv; rotate_left; subst lv) | (generalize lv = w; clear lv) | subst lv)
    | (with_reducible refine KeepsR.next ?_) | (with_reducible apply kp_waitTill) | (with_reducible apply kp_sendPkt) | split
    | (with_reducible exact Keeps.mk (by assumption))

theorem kp_execDupEntryExpiry {z : State} (src : Nat) (tag : Nat) (s : State) (hs : Keeps z s) :
    KeepsR z (execDupEntryExpiry src tag s) := by
  unfold execDupEntryExpiry
  repeat' first
    | (with_reducible assumption) | intro _
    | (extract_lets +onlyGivenNames lv; first | (have hx : Keeps z lv := ?_; generalize lv = w at hx ⊢; clear lv; rotate_left; subst lv) | (generalize lv = w; clear lv) | subst lv)
    | (with_reducible refine KeepsR.next ?_) | (with_reducible apply kp_waitTill) | (with_reducible apply kp_showDups) | split
    | (with_reducible exact Keeps.mk (by assumption))

theorem kp_updTxn {z : State} (tag : Nat) (f : Txn → Txn) (s : State) (hs : Keeps z s) :
    Keeps z (updTxn tag f s) := by
  unfold updTxn
  repeat' first
    | (with_reducible assumption)
    | (extract_lets +onlyGivenNames lv; first | (have hx : Keeps z lv := ?_; generalize lv = w at hx ⊢; clear lv; rotate_left; subst lv) | (generalize lv = w; clear lv) | subst lv)
    | split | dsimp only | (with_reducible exact Keeps.mk (by assumption))

theorem kp_execE2eResponse {z : State} (s : State) (hs : Keeps z s) :
    KeepsR z (execE2eResponse s) := by
  unfold execE2eResponse
  repeat' first
    | (with_reducible assumption) | intro _
    | (extract_lets +onlyGivenNames lv; first | (have hx : Keeps z lv := ?_; generalize lv = w at hx ⊢; clear lv; rotate_left; subst lv) | (generalize lv = w; clear lv) | subst lv)
    | (with_reducible apply kp_takeArrived) | (with_reducible apply kp_stale) | (with_reducible apply kp_updTxn) | (with_reducible apply kp_txnEnd)
    | split | (with_reducible refine KeepsR.next ?_) | dsimp only | (with_reducible exact Keeps.mk (by assumption))

theorem kp_giveUp {z : State} (t : Txn) (s : State) (hs : Keeps z s) :
    Keeps z (giveUp t s) := by
  unfold giveUp
  repeat' first
    | (with_reducible assumption) | (with_reducible apply kp_txnEnd) | (with_reducible apply kp_raise) | (with_reducible apply kp_recordCE)
    | (with_reducible apply kp_bump) | dsimp only

theorem kp_execE2eAttemptTimer {z : State} (tag : Nat) (s : State) (hs : Keeps z s) :
    KeepsR z (execE2eAttemptTimer tag s) := by
  unfold execE2eAttemptTimer
  repeat' first
    | (with_reducible assumption) | intro _ | (with_reducible refine KeepsR.next ?_) | (with_reducible apply kp_updTxn)
    | (with_reducible apply kp_sendAttempt) | (with_reducible apply kp_bump) | (with_reducible apply kp_waitTill) | (with_reducible apply kp_giveUp)
    | split | (with_reducible exact Keeps.mk (by assumption))

theorem kp_execE2ePendingGiveup {z : State} (tag : Nat) (s : State) (hs : Keeps z s) :
    KeepsR z (execE2ePendingGiveup tag s) := by
  unfold execE2ePendingGiveup
  repeat' first
    | (with_reducible assumption) | intro _ | (with_reducible refine KeepsR.next ?_) | (with_reducible apply kp_giveUp)
    | (with_reducible apply kp_waitTill) | split

theorem kp_execQuietEnd {z : State} (s : State) (hs : Keeps z s) :
    KeepsR z (execQuietEnd s) := by
  unfold execQuietEnd
  repeat' first
    | (with_reducible assumption) | (with_reducible refine KeepsR.next ?_) | (with_reducible apply kp_e2ePump) | (with_reducible apply kp_raise)
    | (with_reducible apply kp_setF) | (with_reducible apply kp_waitTill) | split

end Sys2Proof.Machine
end

