-- ==== Sys2Proof/Laws/KeepsMctp.lean ====
section
/-! SUPPORT. What every operation of Machine/Mctp.lean keeps. -/
set_option linter.all false

namespace Sys2Proof.Machine

theorem kp_reply {z : State} (port : Nat) (b : List Byte) (s : State) (hs : Keeps z s) :
    Keeps z (reply port b s) := by
  unfold reply
  repeat' first
    | (with_reducible assumption) | (with_reducible apply kp_emit) | dsimp only

theorem kp_mctpAnswer {z : State} (port : Nat) (l : List (Nat × Nat)) (s : State) (hs : Keeps z s) :
    Keeps z (mctpAnswer port l s) := by
  unfold mctpAnswer
  repeat' first
    | (with_reducible assumption) | (with_reducible apply kp_reply) | dsimp only

theorem kp_inRun {z : State} (port : Nat) (k : State → State) (s : State) (hk : ∀ y0, Keeps z y0 → Keeps z (k y0)) (hs : Keeps z s) :
    KeepsR z (inRun port k s) := by
  unfold inRun
  repeat' first
    | (with_reducible assumption) | (with_reducible apply hk) | split | (with_reducible refine KeepsR.next ?_) | dsimp only

theorem kp_inRunOrRecovery {z : State} (port : Nat) (k : State → State) (s : State) (hk : ∀ y0, Keeps z y0 → Keeps z (k y0)) (hs : Keeps z s) :
    KeepsR z (inRunOrRecovery port k s) := by
  unfold inRunOrRecovery
  repeat' first
    | (with_reducible assumption) | (with_reducible apply hk) | split | (with_reducible refine KeepsR.next ?_) | dsimp only

theorem kp_execMctpMessage {z : State} (port : Nat) (type : Nat) (vendor : Nat) (op : Nat) (tag : Nat) (len : Nat) (data : List Byte) (s : State) (hs : Keeps z s) :
    KeepsR z (execMctpMessage port type vendor op tag len data s) := by
  unfold execMctpMessage
  repeat' first
    | (with_reducible assumption) | (with_reducible apply kp_setMgs) | split | (with_reducible refine KeepsR.next ?_) | dsimp only
    | (with_reducible exact Keeps.mk (by assumption))

theorem kp_execSetEndpointId {z : State} (port : Nat) (eid : Nat) (s : State) (hs : Keeps z s) :
    KeepsR z (execSetEndpointId port eid s) := by
  unfold execSetEndpointId
  repeat' first
    | (with_reducible assumption) | intro _ | (with_reducible apply kp_inRun) | (with_reducible apply kp_mctpAnswer)
    | (with_reducible apply kp_setMgs) | (with_reducible refine KeepsR.next ?_) | dsimp only | (with_reducible exact Keeps.mk (by assumption))

theorem kp_execGetEndpointId {z : State} (port : Nat) (s : State) (hs : Keeps z s) :
    KeepsR z (execGetEndpointId port s) := by
  unfold execGetEndpointId
  repeat' first
    | (with_reducible assumption) | intro _ | (with_reducible apply kp_inRun) | (with_reducible apply kp_mctpAnswer)
    | (with_reducible refine KeepsR.next ?_) | dsimp only

theorem kp_execGetMctpVersionSupport {z : State} (port : Nat) (s : State) (hs : Keeps z s) :
    KeepsR z (execGetMctpVersionSupport port s) := by
  unfold execGetMctpVersionSupport
  repeat' first
    | (with_reducible assumption) | intro _ | (with_reducible apply kp_inRun) | (with_reducible apply kp_mctpAnswer)
    | (with_reducible refine KeepsR.next ?_) | dsimp only

theorem kp_execGetMessageTypeSupport {z : State} (port : Nat) (s : State) (hs : Keeps z s) :
    KeepsR z (execGetMessageTypeSupport port s) := by
  unfold execGetMessageTypeSupport
  repeat' first
    | (with_reducible assumption) | intro _ | (with_reducible apply kp_inRun) | (with_reducible apply kp_mctpAnswer)
    | (with_reducible refine KeepsR.next ?_) | dsimp only

theorem kp_execGettid {z : State} (port : Nat) (s : State) (hs : Keeps z s) :
    KeepsR z (execGettid port s) := by
  unfold execGettid
  repeat' first
    | (with_reducible assumption) | intro _ | (with_reducible apply kp_inRun) | (with_reducible apply kp_mctpAnswer)
    | (with_reducible refine KeepsR.next ?_) | dsimp only

theorem kp_execGetpldmversion {z : State} (port : Nat) (type : Nat) (s : State) (hs : Keeps z s) :
    KeepsR z (execGetpldmversion port type s) := by
  unfold execGetpldmversion
  repeat' first
    | (with_reducible assumption) | intro _
    | (extract_lets +onlyGivenNames lv; first | (have hx : Keeps z lv := ?_; generalize lv = w at hx ⊢; clear lv; rotate_left; subst lv) | (have hx : KeepsP (fun y : _ × State => y.2) z lv := ?_; generalize lv = w at hx ⊢; clear lv; replace hx : Keeps z w.2 := hx; rotate_left; subst lv) | (generalize lv = w; clear lv) | subst lv)
    | (with_reducible apply kp_inRun) | (with_reducible apply kp_takeFree) | (with_reducible apply kp_mctpAnswer) | split
    | (with_reducible refine KeepsP.mk ?_; with_reducible first | assumption | apply kp_takeFree) | (with_reducible refine KeepsP.p2 ?_)
    | (with_reducible refine KeepsR.next ?_) | (with_reducible refine Keeps.of2 (by assumption) ?_) | dsimp only

theorem kp_execGetpldmtypes {z : State} (port : Nat) (s : State) (hs : Keeps z s) :
    KeepsR z (execGetpldmtypes port s) := by
  unfold execGetpldmtypes
  repeat' first
    | (with_reducible assumption) | intro _ | (with_reducible apply kp_inRun) | (with_reducible apply kp_mctpAnswer)
    | (with_reducible refine KeepsR.next ?_) | dsimp only

theorem kp_execGetpldmcommands {z : State} (port : Nat) (type : Nat) (s : State) (hs : Keeps z s) :
    KeepsR z (execGetpldmcommands port type s) := by
  unfold execGetpldmcommands
  repeat' first
    | (with_reducible assumption) | intro _ | (with_reducible apply kp_inRun) | (with_reducible apply kp_mctpAnswer) | split
    | (with_reducible refine KeepsR.next ?_) | dsimp only

theorem kp_execGetpdrrepositoryinfo {z : State} (port : Nat) (s : State) (hs : Keeps z s) :
    KeepsR z (execGetpdrrepositoryinfo port s) := by
  unfold execGetpdrrepositoryinfo
  repeat' first
    | (with_reducible assumption) | intro _ | (with_reducible apply kp_inRun) | (with_reducible apply kp_mctpAnswer)
    | (with_reducible refine KeepsR.next ?_) | dsimp only

theorem kp_execGetpdr {z : State} (port : Nat) (handle : Nat) (s : State) (hs : Keeps z s) :
    KeepsR z (execGetpdr port handle s) := by
  unfold execGetpdr
  repeat' first
    | (with_reducible assumption) | intro _ | (with_reducible apply kp_inRun) | (with_reducible apply kp_mctpAnswer) | split
    | (with_reducible refine KeepsR.next ?_) | dsimp only

theorem kp_execGetsensorreading {z : State} (port : Nat) (id : Nat) (s : State) (hs : Keeps z s) :
    KeepsR z (execGetsensorreading port id s) := by
  unfold execGetsensorreading
  repeat' first
    | (with_reducible assumption) | intro _
    | (extract_lets +onlyGivenNames lv; first | (have hx : Keeps z lv := ?_; generalize lv = w at hx ⊢; clear lv; rotate_left; subst lv) | (generalize lv = w; clear lv) | subst lv)
    | (with_reducible apply kp_inRun) | (with_reducible apply kp_mctpAnswer) | split | (with_reducible refine KeepsR.next ?_) | dsimp only [id]
    | (with_reducible exact Keeps.mk (by assumption))

theorem kp_execGetstatesensorreadings {z : State} (port : Nat) (id : Nat) (s : State) (hs : Keeps z s) :
    KeepsR z (execGetstatesensorreadings port id s) := by
  unfold execGetstatesensorreadings
  repeat' first
    | (with_reducible assumption) | intro _ | (with_reducible apply kp_inRun) | (with_reducible apply kp_mctpAnswer) | split
    | (with_reducible refine KeepsR.next ?_) | dsimp only [id] | (with_reducible exact Keeps.mk (by assumption))

theorem kp_execSetnumericeffectervalue {z : State} (port : Nat) (id : Nat) (watts : Nat) (s : State) (hs : Keeps z s) :
    KeepsR z (execSetnumericeffectervalue port id watts s) := by
  unfold execSetnumericeffectervalue
  repeat' first
    | (with_reducible assumption) | intro _ | (with_reducible apply kp_inRun) | (with_reducible apply kp_mctpAnswer)
    | (with_reducible apply kp_capWrite) | split | (with_reducible refine KeepsR.next ?_) | dsimp only [id]

theorem kp_execGetnumericeffectervalue {z : State} (port : Nat) (id : Nat) (s : State) (hs : Keeps z s) :
    KeepsR z (execGetnumericeffectervalue port id s) := by
  unfold execGetnumericeffectervalue
  repeat' first
    | (with_reducible assumption) | intro _ | (with_reducible apply kp_inRun) | (with_reducible apply kp_mctpAnswer) | split
    | (with_reducible refine KeepsR.next ?_) | dsimp only [id]

theorem kp_execSeteventreceiver {z : State} (port : Nat) (eid : Nat) (s : State) (hs : Keeps z s) :
    KeepsR z (execSeteventreceiver port eid s) := by
  unfold execSeteventreceiver
  repeat' first
    | (with_reducible assumption) | intro _ | (with_reducible apply kp_inRun) | (with_reducible apply kp_mctpAnswer)
    | (with_reducible apply kp_setMgs) | (with_reducible refine KeepsR.next ?_) | dsimp only | (with_reducible exact Keeps.mk (by assumption))

theorem kp_execPollforplatformeventmessage {z : State} (port : Nat) (s : State) (hs : Keeps z s) :
    KeepsR z (execPollforplatformeventmessage port s) := by
  unfold execPollforplatformeventmessage
  repeat' first
    | (with_reducible assumption) | intro _ | (with_reducible apply kp_inRun) | (with_reducible apply kp_mctpAnswer)
    | (with_reducible apply kp_setMgs) | split | (with_reducible refine KeepsR.next ?_) | dsimp only | (with_reducible exact Keeps.mk (by assumption))

theorem kp_execQuerydeviceidentifiers {z : State} (port : Nat) (s : State) (hs : Keeps z s) :
    KeepsR z (execQuerydeviceidentifiers port s) := by
  unfold execQuerydeviceidentifiers
  repeat' first
    | (with_reducible assumption) | intro _ | (with_reducible apply kp_inRunOrRecovery) | (with_reducible apply kp_mctpAnswer)
    | (with_reducible refine KeepsR.next ?_) | dsimp only

theorem kp_execGetfirmwareparameters {z : State} (port : Nat) (s : State) (hs : Keeps z s) :
    KeepsR z (execGetfirmwareparameters port s) := by
  unfold execGetfirmwareparameters
  repeat' first
    | (with_reducible assumption) | intro _ | (with_reducible apply kp_inRunOrRecovery) | (with_reducible apply kp_mctpAnswer) | split
    | (with_reducible refine KeepsR.next ?_) | dsimp only | (with_reducible exact Keeps.mk (by assumption))

theorem kp_execRequestupdate {z : State} (port : Nat) (ok : Bool) (s : State) (hs : Keeps z s) :
    KeepsR z (execRequestupdate port ok s) := by
  unfold execRequestupdate
  repeat' first
    | (with_reducible assumption) | intro _ | (with_reducible apply kp_inRunOrRecovery) | (with_reducible apply kp_mctpAnswer)
    | (with_reducible apply kp_fwOpen) | split | (with_reducible refine KeepsR.next ?_) | (with_reducible refine Keeps.of2 (by assumption) ?_)
    | dsimp only

theorem kp_execPasscomponenttable {z : State} (port : Nat) (s : State) (hs : Keeps z s) :
    KeepsR z (execPasscomponenttable port s) := by
  unfold execPasscomponenttable
  repeat' first
    | (with_reducible assumption) | intro _ | (with_reducible apply kp_inRunOrRecovery) | (with_reducible apply kp_mctpAnswer)
    | (with_reducible apply kp_setMgs) | split | (with_reducible refine KeepsR.next ?_) | dsimp only | (with_reducible exact Keeps.mk (by assumption))

theorem kp_execUpdatecomponent {z : State} (port : Nat) (size : Nat) (s : State) (hs : Keeps z s) :
    KeepsR z (execUpdatecomponent port size s) := by
  unfold execUpdatecomponent
  repeat' first
    | (with_reducible assumption) | intro _
    | (extract_lets +onlyGivenNames lv; first | (have hx : Keeps z lv := ?_; generalize lv = w at hx ⊢; clear lv; rotate_left; subst lv) | (generalize lv = w; clear lv) | subst lv)
    | (with_reducible apply kp_inRunOrRecovery) | (with_reducible apply kp_mctpAnswer) | (with_reducible apply kp_setMgs) | split
    | (with_reducible refine KeepsR.next ?_) | dsimp only | (with_reducible exact Keeps.mk (by assumption))

theorem kp_imageEnd {z : State} (port : Nat) (y : Session) (size : Nat) (sig : Bool) (s : State) (hs : Keeps z s) :
    Keeps z (imageEnd port y size sig s) := by
  unfold imageEnd
  repeat' first
    | (with_reducible assumption)
    | (extract_lets +onlyGivenNames lv; first | (have hx : Keeps z lv := ?_; generalize lv = w at hx ⊢; clear lv; rotate_left; subst lv) | (generalize lv = w; clear lv) | subst lv)
    | (with_reducible apply kp_mctpAnswer) | (with_reducible apply kp_fwVerified) | (with_reducible apply kp_setMgs) | split | dsimp only
    | (with_reducible exact Keeps.mk (by assumption))

theorem kp_execRequestfirmwaredataResponse {z : State} (port : Nat) (off : Nat) (data : List Byte) (sig : Bool) (ok : Bool) (s : State) (hs : Keeps z s) :
    KeepsR z (execRequestfirmwaredataResponse port off data sig ok s) := by
  unfold execRequestfirmwaredataResponse
  repeat' first
    | (with_reducible assumption) | intro _
    | (extract_lets +onlyGivenNames lv; first | (have hx : Keeps z lv := ?_; generalize lv = w at hx ⊢; clear lv; rotate_left; subst lv) | (generalize lv = w; clear lv) | subst lv)
    | (with_reducible apply kp_inRunOrRecovery) | (with_reducible apply kp_mctpAnswer) | (with_reducible apply kp_sessionDrop)
    | (with_reducible apply kp_setMgs) | (with_reducible apply kp_imageEnd) | split | (with_reducible refine KeepsR.next ?_) | dsimp only
    | (with_reducible exact Keeps.mk (by assumption))

theorem kp_execActivatefirmware {z : State} (port : Nat) (self : Bool) (ok : Bool) (s : State) (hs : Keeps z s) :
    KeepsR z (execActivatefirmware port self ok s) := by
  unfold execActivatefirmware
  repeat' first
    | (with_reducible assumption) | intro _ | (with_reducible apply kp_inRunOrRecovery) | (with_reducible apply kp_mctpAnswer)
    | (with_reducible apply kp_fwActivate) | split | (with_reducible refine KeepsR.next ?_) | dsimp only
    | (with_reducible exact Keeps.mk (by assumption))

theorem kp_execGetstatus {z : State} (port : Nat) (s : State) (hs : Keeps z s) :
    KeepsR z (execGetstatus port s) := by
  unfold execGetstatus
  repeat' first
    | (with_reducible assumption) | intro _ | (with_reducible apply kp_inRunOrRecovery) | (with_reducible apply kp_mctpAnswer)
    | (with_reducible refine KeepsR.next ?_) | dsimp only

theorem kp_execCancelupdate {z : State} (port : Nat) (s : State) (hs : Keeps z s) :
    KeepsR z (execCancelupdate port s) := by
  unfold execCancelupdate
  repeat' first
    | (with_reducible assumption) | intro _ | (with_reducible refine KeepsR.next ?_) | (with_reducible apply kp_inRunOrRecovery)
    | (with_reducible apply kp_mctpAnswer) | (with_reducible apply kp_sessionDrop) | split

theorem kp_free48 {z : State} (s : State) (hs : Keeps z s) :
    Keeps z (free48 s).2 := by
  change KeepsP (fun y : List Byte × State => y.2) z _
  unfold free48
  repeat' first
    | (with_reducible assumption) | intro _
    | (extract_lets +onlyGivenNames lv; first | (have hx : Keeps z lv := ?_; generalize lv = w at hx ⊢; clear lv; rotate_left; subst lv) | (have hx : KeepsP (fun y : _ × State => y.2) z lv := ?_; generalize lv = w at hx ⊢; clear lv; replace hx : Keeps z w.2 := hx; rotate_left; subst lv) | (have hx : KeepsP (fun y : State × _ => y.1) z lv := ?_; generalize lv = w at hx ⊢; clear lv; replace hx : Keeps z w.1 := hx; rotate_left; subst lv) | (have hx : KeepsP (fun y : _ × _ × State => y.2.2) z lv := ?_; generalize lv = w at hx ⊢; clear lv; replace hx : Keeps z w.2.2 := hx; rotate_left; subst lv) | (generalize lv = w; clear lv) | subst lv)
    | (with_reducible apply kp_takeFree) | (with_reducible apply Keeps.foldl) | (with_reducible apply Keeps.foldlx)
    | (with_reducible apply Keeps.foldlv) | (with_reducible apply Keeps.foldl2) | (with_reducible apply Keeps.foldl1)
    | (with_reducible apply Keeps.foldl22) | (with_reducible apply Keeps.foldl222) | (with_reducible apply Keeps.foldl2x)
    | (with_reducible refine KeepsP.mk ?_; with_reducible first | assumption | apply kp_takeFree | apply Keeps.foldlx | apply Keeps.foldlv | apply Keeps.foldl2 | apply Keeps.foldl1 | apply Keeps.foldl22 | apply Keeps.foldl222 | apply Keeps.foldl2x)
    | (with_reducible refine KeepsP.p1 ?_) | (with_reducible refine KeepsP.p2 ?_) | (with_reducible refine KeepsP.p22 ?_)
    | (with_reducible refine Keeps.of2 (by assumption) ?_) | (with_reducible refine Keeps.of1 (by assumption) ?_)
    | (with_reducible refine Keeps.of3 (by assumption) ?_) | dsimp only

theorem kp_measBlock {z : State} (k : Nat) (s : State) (hs : Keeps z s) :
    Keeps z (measBlock k s).2 := by
  change KeepsP (fun y : List Byte × State => y.2) z _
  unfold measBlock
  repeat' first
    | (with_reducible assumption)
    | (extract_lets +onlyGivenNames lv; first | (have hx : Keeps z lv := ?_; generalize lv = w at hx ⊢; clear lv; rotate_left; subst lv) | (have hx : KeepsP (fun y : _ × State => y.2) z lv := ?_; generalize lv = w at hx ⊢; clear lv; replace hx : Keeps z w.2 := hx; rotate_left; subst lv) | (generalize lv = w; clear lv) | subst lv)
    | (with_reducible apply kp_free48) | split | (with_reducible refine KeepsP.mk ?_; with_reducible first | assumption | apply kp_free48)
    | (with_reducible refine KeepsP.p2 ?_) | (with_reducible refine Keeps.of2 (by assumption) ?_) | dsimp only
    | (with_reducible exact Keeps.mk (by assumption))

theorem kp_execGetMeasurements {z : State} (port : Nat) (k : Nat) (sign : Bool) (s : State) (hs : Keeps z s) :
    KeepsR z (execGetMeasurements port k sign s) := by
  unfold execGetMeasurements
  repeat' first
    | (with_reducible assumption) | intro _
    | (extract_lets +onlyGivenNames lv; first | (have hx : Keeps z lv := ?_; generalize lv = w at hx ⊢; clear lv; rotate_left; subst lv) | (have hx : KeepsP (fun y : _ × State => y.2) z lv := ?_; generalize lv = w at hx ⊢; clear lv; replace hx : Keeps z w.2 := hx; rotate_left; subst lv) | (have hx : KeepsP (fun y : State × _ => y.1) z lv := ?_; generalize lv = w at hx ⊢; clear lv; replace hx : Keeps z w.1 := hx; rotate_left; subst lv) | (have hx : KeepsP (fun y : _ × _ × State => y.2.2) z lv := ?_; generalize lv = w at hx ⊢; clear lv; replace hx : Keeps z w.2.2 := hx; rotate_left; subst lv) | (generalize lv = w; clear lv) | subst lv)
    | (with_reducible apply kp_inRun) | (with_reducible apply kp_mctpAnswer) | (with_reducible apply kp_measBlock) | (with_reducible apply kp_free48)
    | (with_reducible apply kp_reply) | (with_reducible apply Keeps.foldl) | (with_reducible apply Keeps.foldlx) | (with_reducible apply Keeps.foldlv)
    | (with_reducible apply Keeps.foldl2) | (with_reducible apply Keeps.foldl1) | (with_reducible apply Keeps.foldl22)
    | (with_reducible apply Keeps.foldl222) | (with_reducible apply Keeps.foldl2x) | split
    | (with_reducible refine KeepsP.mk ?_; with_reducible first | assumption | apply kp_measBlock | apply kp_free48 | apply Keeps.foldlx | apply Keeps.foldlv | apply Keeps.foldl2 | apply Keeps.foldl1 | apply Keeps.foldl22 | apply Keeps.foldl222 | apply Keeps.foldl2x)
    | (with_reducible refine KeepsP.p1 ?_) | (with_reducible refine KeepsP.p2 ?_) | (with_reducible refine KeepsP.p22 ?_)
    | (with_reducible refine KeepsR.next ?_) | (with_reducible refine Keeps.of2 (by assumption) ?_)
    | (with_reducible refine Keeps.of1 (by assumption) ?_) | (with_reducible refine Keeps.of3 (by assumption) ?_) | dsimp only

theorem kp_execSpdmRequest {z : State} (port : Nat) (code : Nat) (slot : Nat) (s : State) (hs : Keeps z s) :
    KeepsR z (execSpdmRequest port code slot s) := by
  unfold execSpdmRequest
  repeat' first
    | (with_reducible assumption) | intro _
    | (extract_lets +onlyGivenNames lv; first | (have hx : Keeps z lv := ?_; generalize lv = w at hx ⊢; clear lv; rotate_left; subst lv) | (have hx : KeepsP (fun y : _ × State => y.2) z lv := ?_; generalize lv = w at hx ⊢; clear lv; replace hx : Keeps z w.2 := hx; rotate_left; subst lv) | (generalize lv = w; clear lv) | subst lv)
    | (with_reducible apply kp_inRun) | (with_reducible apply kp_mctpAnswer) | (with_reducible apply kp_free48) | (with_reducible apply kp_reply)
    | split | (with_reducible refine KeepsP.mk ?_; with_reducible first | assumption | apply kp_free48) | (with_reducible refine KeepsP.p2 ?_)
    | (with_reducible refine KeepsR.next ?_) | (with_reducible refine Keeps.of2 (by assumption) ?_) | dsimp only
    | (with_reducible exact Keeps.mk (by assumption))

theorem kp_execI3cDynamicAddress {z : State} (addr : Nat) (s : State) (hs : Keeps z s) :
    KeepsR z (execI3cDynamicAddress addr s) := by
  unfold execI3cDynamicAddress
  repeat' first
    | (with_reducible assumption) | (with_reducible apply kp_setMgs) | (with_reducible refine KeepsR.next ?_) | dsimp only
    | (with_reducible exact Keeps.mk (by assumption))

theorem kp_execRstdaa {z : State} (s : State) (hs : Keeps z s) :
    KeepsR z (execRstdaa s) := by
  unfold execRstdaa
  repeat' first
    | (with_reducible assumption) | (with_reducible apply kp_setMgs) | (with_reducible refine KeepsR.next ?_) | dsimp only
    | (with_reducible exact Keeps.mk (by assumption))

end Sys2Proof.Machine
end

