-- ==== Sys2Proof/Laws/KeepsPackage.lean ====
section
/-! SUPPORT. What every operation of Machine/Package.lean keeps. -/
set_option linter.all false

namespace Sys2Proof.Machine

theorem kp_execPwrWarnFall {z : State} (s : State) (hs : Keeps z s) :
    KeepsR z (execPwrWarnFall s) := by
  unfold execPwrWarnFall
  repeat' first
    | (with_reducible assumption)
    | (extract_lets +onlyGivenNames lv; first | (have hx : Keeps z lv := ?_; generalize lv = w at hx ⊢; clear lv; rotate_left; subst lv) | (generalize lv = w; clear lv) | subst lv)
    | (with_reducible apply kp_setMgs) | (with_reducible apply kp_setBoot) | (with_reducible apply kp_pwrWarnLog) | split
    | (with_reducible refine KeepsR.next ?_) | dsimp only | (with_reducible exact Keeps.mk (by assumption))

theorem kp_execPwrWarnRise {z : State} (s : State) (hs : Keeps z s) :
    KeepsR z (execPwrWarnRise s) := by
  unfold execPwrWarnRise
  repeat' first
    | (with_reducible assumption) | (with_reducible refine KeepsR.next ?_) | (with_reducible apply kp_setMgs) | (with_reducible apply kp_setBoot)
    | (with_reducible exact Keeps.mk (by assumption))

theorem kp_execRailOot {z : State} (k : Nat) (mv : Nat) (s : State) (hs : Keeps z s) :
    KeepsR z (execRailOot k mv s) := by
  unfold execRailOot
  repeat' first
    | (with_reducible assumption)
    | (extract_lets +onlyGivenNames lv; first | (have hx : Keeps z lv := ?_; generalize lv = w at hx ⊢; clear lv; rotate_left; subst lv) | (generalize lv = w; clear lv) | subst lv)
    | (with_reducible apply kp_setBoot) | (with_reducible apply kp_raise) | (with_reducible apply kp_setF) | split
    | (with_reducible refine KeepsR.next ?_) | dsimp only | (with_reducible exact Keeps.mk (by assumption))

theorem kp_execRailOvervoltage {z : State} (k : Nat) (mv : Nat) (s : State) (hs : Keeps z s) :
    KeepsR z (execRailOvervoltage k mv s) := by
  unfold execRailOvervoltage
  repeat' first
    | (with_reducible assumption)
    | (extract_lets +onlyGivenNames lv; first | (have hx : Keeps z lv := ?_; generalize lv = w at hx ⊢; clear lv; rotate_left; subst lv) | (generalize lv = w; clear lv) | subst lv)
    | (with_reducible apply kp_railCold) | split | (with_reducible refine KeepsR.next ?_) | dsimp only

theorem kp_execRlclkLoss {z : State} (c : Nat) (s : State) (hs : Keeps z s) :
    KeepsR z (execRlclkLoss c s) := by
  unfold execRlclkLoss
  repeat' first
    | (with_reducible assumption) | intro _ | (with_reducible apply kp_rlLoseLock) | (with_reducible apply Keeps.foldl)
    | (with_reducible apply Keeps.foldlx) | (with_reducible apply Keeps.foldlv) | (with_reducible apply Keeps.foldl2)
    | (with_reducible apply Keeps.foldl1) | (with_reducible apply Keeps.foldl22) | (with_reducible apply Keeps.foldl222)
    | (with_reducible apply Keeps.foldl2x)
    | (with_reducible refine KeepsP.mk ?_; with_reducible first | assumption | apply Keeps.foldlx | apply Keeps.foldlv | apply Keeps.foldl2 | apply Keeps.foldl1 | apply Keeps.foldl22 | apply Keeps.foldl222 | apply Keeps.foldl2x)
    | (with_reducible refine KeepsR.next ?_) | (with_reducible refine Keeps.of2 (by assumption) ?_)
    | (with_reducible refine Keeps.of1 (by assumption) ?_) | (with_reducible refine Keeps.of3 (by assumption) ?_) | dsimp only

end Sys2Proof.Machine
end

