-- ==== Sys2Proof/Laws/KeepsTap.lean ====
section
/-! SUPPORT. What every operation of Machine/Tap.lean keeps. -/
set_option linter.all false

namespace Sys2Proof.Machine

theorem kp_setTap {z : State} (x : Tap) (s : State) (hs : Keeps z s) :
    Keeps z (setTap x s) := by
  unfold setTap
  repeat' first
    | (with_reducible assumption) | dsimp only | (with_reducible exact Keeps.mk (by assumption))

theorem kp_shiftOut {z : State} (n : Nat) (w : Nat) (s : State) (hs : Keeps z s) :
    Keeps z (shiftOut n w s) := by
  unfold shiftOut
  repeat' first
    | (with_reducible assumption) | (with_reducible apply kp_emit) | dsimp only

theorem kp_shiftBypass {z : State} (s : State) (hs : Keeps z s) :
    Keeps z (shiftBypass s) := by
  unfold shiftBypass
  repeat' first
    | (with_reducible assumption) | (with_reducible apply kp_emit) | dsimp only

theorem kp_loadIr {z : State} (code : Nat) (ic : Nat) (drive : Nat) (s : State) (hs : Keeps z s) :
    Keeps z (loadIr code ic drive s) := by
  unfold loadIr
  repeat' first
    | (with_reducible assumption) | (with_reducible apply kp_setTap) | dsimp only | (with_reducible exact Keeps.mk (by assumption))

theorem kp_refuse {z : State} (code : Nat) (s : State) (hs : Keeps z s) :
    Keeps z (refuse code s) := by
  unfold refuse
  repeat' first
    | (with_reducible assumption) | (with_reducible apply kp_raise) | (with_reducible apply kp_setF) | (with_reducible apply kp_setTap) | dsimp only
    | (with_reducible exact Keeps.mk (by assumption))

theorem kp_intrusive {z : State} (code : Nat) (ic : Nat) (drive : Nat) (k : State → State) (s : State) (hk : ∀ y0, Keeps z y0 → Keeps z (k y0)) (hs : Keeps z s) :
    Keeps z (intrusive code ic drive k s) := by
  unfold intrusive
  repeat' first
    | (with_reducible assumption) | (with_reducible apply hk) | (with_reducible apply kp_loadIr) | (with_reducible apply kp_shiftBypass)
    | (with_reducible apply kp_refuse) | split | dsimp only

theorem kp_boundary {z : State} (pins : Nat) (din : Nat) (s : State) (hs : Keeps z s) :
    Keeps z (boundary pins din s) := by
  unfold boundary
  repeat' first
    | (with_reducible assumption) | (with_reducible apply kp_setTap) | (with_reducible apply kp_shiftOut) | dsimp only
    | (with_reducible exact Keeps.mk (by assumption))

theorem kp_execExtest {z : State} (ic : Nat) (pins : Nat) (din : Nat) (s : State) (hs : Keeps z s) :
    KeepsR z (execExtest ic pins din s) := by
  unfold execExtest
  repeat' first
    | (with_reducible assumption) | intro _ | (with_reducible apply kp_intrusive) | (with_reducible apply kp_boundary)
    | (with_reducible refine KeepsR.next ?_) | dsimp only

theorem kp_execExtestPulse {z : State} (ic : Nat) (pins : Nat) (din : Nat) (s : State) (hs : Keeps z s) :
    KeepsR z (execExtestPulse ic pins din s) := by
  unfold execExtestPulse
  repeat' first
    | (with_reducible assumption) | intro _ | (with_reducible apply kp_intrusive) | (with_reducible apply kp_boundary)
    | (with_reducible refine KeepsR.next ?_) | dsimp only

theorem kp_execExtestTrain {z : State} (ic : Nat) (pins : Nat) (din : Nat) (s : State) (hs : Keeps z s) :
    KeepsR z (execExtestTrain ic pins din s) := by
  unfold execExtestTrain
  repeat' first
    | (with_reducible assumption) | intro _ | (with_reducible apply kp_intrusive) | (with_reducible apply kp_boundary)
    | (with_reducible refine KeepsR.next ?_) | dsimp only

theorem kp_execClamp {z : State} (ic : Nat) (s : State) (hs : Keeps z s) :
    KeepsR z (execClamp ic s) := by
  unfold execClamp
  repeat' first
    | (with_reducible assumption) | intro _ | (with_reducible apply kp_intrusive) | (with_reducible apply kp_shiftBypass)
    | (with_reducible refine KeepsR.next ?_) | dsimp only

theorem kp_execHighz {z : State} (ic : Nat) (s : State) (hs : Keeps z s) :
    KeepsR z (execHighz ic s) := by
  unfold execHighz
  repeat' first
    | (with_reducible assumption) | intro _ | (with_reducible apply kp_intrusive) | (with_reducible apply kp_shiftBypass)
    | (with_reducible refine KeepsR.next ?_) | dsimp only

theorem kp_execSamplePreload {z : State} (ic : Nat) (pins : Nat) (din : Nat) (s : State) (hs : Keeps z s) :
    KeepsR z (execSamplePreload ic pins din s) := by
  unfold execSamplePreload
  repeat' first
    | (with_reducible assumption) | (with_reducible apply kp_boundary) | (with_reducible apply kp_loadIr) | split
    | (with_reducible refine KeepsR.next ?_) | dsimp only

theorem kp_execIdcode {z : State} (ic : Nat) (s : State) (hs : Keeps z s) :
    KeepsR z (execIdcode ic s) := by
  unfold execIdcode
  repeat' first
    | (with_reducible assumption)
    | (extract_lets +onlyGivenNames lv; first | (have hx : Keeps z lv := ?_; generalize lv = w at hx ⊢; clear lv; rotate_left; subst lv) | (generalize lv = w; clear lv) | subst lv)
    | (with_reducible apply kp_loadIr) | (with_reducible apply kp_emit) | split | (with_reducible refine KeepsR.next ?_) | dsimp only

theorem kp_execCcrAccess {z : State} (ic : Nat) (din : Nat) (s : State) (hs : Keeps z s) :
    KeepsR z (execCcrAccess ic din s) := by
  unfold execCcrAccess
  repeat' first
    | (with_reducible assumption)
    | (extract_lets +onlyGivenNames lv; first | (have hx : Keeps z lv := ?_; generalize lv = w at hx ⊢; clear lv; rotate_left; subst lv) | (generalize lv = w; clear lv) | subst lv)
    | (with_reducible apply kp_shiftOut) | (with_reducible apply kp_loadIr) | (with_reducible apply kp_setTap) | split
    | (with_reducible refine KeepsR.next ?_) | dsimp only | (with_reducible exact Keeps.mk (by assumption))

theorem kp_execDieAccess {z : State} (ic : Nat) (ins : List (Nat × Nat)) (cap : List Bool) (s : State) (hs : Keeps z s) :
    KeepsR z (execDieAccess ic ins cap s) := by
  unfold execDieAccess
  repeat' first
    | (with_reducible assumption) | intro _
    | (extract_lets +onlyGivenNames lv; first | (have hx : Keeps z lv := ?_; generalize lv = w at hx ⊢; clear lv; rotate_left; subst lv) | (have hx : KeepsP (fun y : _ × State => y.2) z lv := ?_; generalize lv = w at hx ⊢; clear lv; replace hx : Keeps z w.2 := hx; rotate_left; subst lv) | (have hx : KeepsP (fun y : State × _ => y.1) z lv := ?_; generalize lv = w at hx ⊢; clear lv; replace hx : Keeps z w.1 := hx; rotate_left; subst lv) | (have hx : KeepsP (fun y : _ × _ × State => y.2.2) z lv := ?_; generalize lv = w at hx ⊢; clear lv; replace hx : Keeps z w.2.2 := hx; rotate_left; subst lv) | (generalize lv = w; clear lv) | subst lv)
    | (with_reducible apply kp_intrusive) | (with_reducible apply kp_emit) | (with_reducible apply kp_setTap) | (with_reducible apply Keeps.foldl)
    | (with_reducible apply Keeps.foldlx) | (with_reducible apply Keeps.foldlv) | (with_reducible apply Keeps.foldl2)
    | (with_reducible apply Keeps.foldl1) | (with_reducible apply Keeps.foldl22) | (with_reducible apply Keeps.foldl222)
    | (with_reducible apply Keeps.foldl2x)
    | (with_reducible refine KeepsP.mk ?_; with_reducible first | assumption | apply Keeps.foldlx | apply Keeps.foldlv | apply Keeps.foldl2 | apply Keeps.foldl1 | apply Keeps.foldl22 | apply Keeps.foldl222 | apply Keeps.foldl2x)
    | (with_reducible refine KeepsP.p1 ?_) | (with_reducible refine KeepsP.p2 ?_) | (with_reducible refine KeepsP.p22 ?_)
    | (with_reducible refine KeepsR.next ?_) | (with_reducible refine Keeps.of2 (by assumption) ?_)
    | (with_reducible refine Keeps.of1 (by assumption) ?_) | (with_reducible refine Keeps.of3 (by assumption) ?_) | dsimp only
    | (with_reducible exact Keeps.mk (by assumption))

theorem kp_execIjtag {z : State} (ic : Nat) (d : Nat) (what : Nat) (raw : Nat) (s : State) (hs : Keeps z s) :
    KeepsR z (execIjtag ic d what raw s) := by
  unfold execIjtag
  repeat' first
    | (with_reducible assumption)
    | (extract_lets +onlyGivenNames lv; first | (have hx : Keeps z lv := ?_; generalize lv = w at hx ⊢; clear lv; rotate_left; subst lv) | (generalize lv = w; clear lv) | subst lv)
    | (with_reducible apply kp_loadIr) | (with_reducible apply kp_emit) | (with_reducible apply kp_refuse) | split
    | (with_reducible refine KeepsR.next ?_) | dsimp only

theorem kp_execTapTestStat {z : State} (ic : Nat) (s : State) (hs : Keeps z s) :
    KeepsR z (execTapTestStat ic s) := by
  unfold execTapTestStat
  repeat' first
    | (with_reducible assumption)
    | (extract_lets +onlyGivenNames lv; first | (have hx : Keeps z lv := ?_; generalize lv = w at hx ⊢; clear lv; rotate_left; subst lv) | (generalize lv = w; clear lv) | subst lv)
    | (with_reducible apply kp_loadIr) | (with_reducible apply kp_shiftOut) | split | (with_reducible refine KeepsR.next ?_) | dsimp only

theorem kp_execTapBypass {z : State} (ic : Nat) (code : Nat) (s : State) (hs : Keeps z s) :
    KeepsR z (execTapBypass ic code s) := by
  unfold execTapBypass
  repeat' first
    | (with_reducible assumption) | (with_reducible apply kp_shiftBypass) | (with_reducible apply kp_loadIr) | split
    | (with_reducible refine KeepsR.next ?_) | dsimp only

theorem kp_instrument {z : State} (d : Nat) (k : State → State) (s : State) (hk : ∀ y0, Keeps z y0 → Keeps z (k y0)) (hs : Keeps z s) :
    Keeps z (instrument d k s) := by
  unfold instrument
  repeat' first
    | (with_reducible assumption) | (with_reducible apply hk) | (with_reducible apply kp_refuse) | split | dsimp only

theorem kp_execIslandPwr {z : State} (j : Nat) (on : Bool) (s : State) (hs : Keeps z s) :
    KeepsR z (execIslandPwr j on s) := by
  unfold execIslandPwr
  repeat' first
    | (with_reducible assumption) | intro _ | (with_reducible apply kp_instrument) | (with_reducible apply kp_islBoot)
    | (with_reducible apply kp_islOff) | split | (with_reducible refine KeepsR.next ?_) | dsimp only

theorem kp_execRodLogicBist {z : State} (p : Nat) (pass : Bool) (s : State) (hs : Keeps z s) :
    KeepsR z (execRodLogicBist p pass s) := by
  unfold execRodLogicBist
  repeat' first
    | (with_reducible assumption) | intro _ | (with_reducible apply kp_instrument) | (with_reducible apply kp_emit) | split
    | (with_reducible refine KeepsR.next ?_) | dsimp only

theorem kp_execBeadArrayMarch {z : State} (m : Nat) (p : Nat) (fails : List Nat) (s : State) (hs : Keeps z s) :
    KeepsR z (execBeadArrayMarch m p fails s) := by
  unfold execBeadArrayMarch
  repeat' first
    | (with_reducible assumption) | intro _ | (with_reducible apply kp_instrument) | (with_reducible apply kp_emit) | split
    | (with_reducible refine KeepsR.next ?_) | dsimp only

theorem kp_execLaneMargin {z : State} (d : Nat) (kind : Nat) (k : Nat) (width : Nat) (height : Nat) (ladder : Bool) (s : State) (hs : Keeps z s) :
    KeepsR z (execLaneMargin d kind k width height ladder s) := by
  unfold execLaneMargin
  repeat' first
    | (with_reducible assumption) | intro _
    | (extract_lets +onlyGivenNames lv; first | (have hx : Keeps z lv := ?_; generalize lv = w at hx ⊢; clear lv; rotate_left; subst lv) | (have hfn0 : ∀ y, Keeps z y → Keeps z (lv y) := ?_; generalize lv = w at hfn0 ⊢; clear lv; rotate_left; subst lv) | (have hfn1 : ∀ a y, Keeps z y → Keeps z (lv a y) := ?_; generalize lv = w at hfn1 ⊢; clear lv; rotate_left; subst lv) | (have hfn2 : ∀ a b y, Keeps z y → Keeps z (lv a b y) := ?_; generalize lv = w at hfn2 ⊢; clear lv; rotate_left; subst lv) | (have hfn3 : ∀ a b c y, Keeps z y → Keeps z (lv a b c y) := ?_; generalize lv = w at hfn3 ⊢; clear lv; rotate_left; subst lv) | (have hfn4 : ∀ y a, Keeps z y → Keeps z (lv y a) := ?_; generalize lv = w at hfn4 ⊢; clear lv; rotate_left; subst lv) | (have hfn5 : ∀ a, Keeps z (lv a) := ?_; generalize lv = w at hfn5 ⊢; clear lv; rotate_left; subst lv) | (have hfn6 : ∀ a b, Keeps z (lv a b) := ?_; generalize lv = w at hfn6 ⊢; clear lv; rotate_left; subst lv) | (have hfn7 : ∀ y a b, Keeps z y → Keeps z (lv y a b) := ?_; generalize lv = w at hfn7 ⊢; clear lv; rotate_left; subst lv) | (have hfn8 : ∀ a, KeepsR z (lv a) := ?_; generalize lv = w at hfn8 ⊢; clear lv; rotate_left; subst lv) | (have hfn9 : ∀ y, Keeps z y → KeepsC z (lv y) := ?_; generalize lv = w at hfn9 ⊢; clear lv; rotate_left; subst lv) | (have hfn10 : ∀ y, Keeps z y → KeepsR z (lv y) := ?_; generalize lv = w at hfn10 ⊢; clear lv; rotate_left; subst lv) | (have hfn11 : ∀ a y, Keeps z y → KeepsR z (lv a y) := ?_; generalize lv = w at hfn11 ⊢; clear lv; rotate_left; subst lv) | (have hfn12 : ∀ y a, Keeps z y → KeepsR z (lv y a) := ?_; generalize lv = w at hfn12 ⊢; clear lv; rotate_left; subst lv) | (generalize lv = w; clear lv) | subst lv)
    | (with_reducible apply hfn0) | (with_reducible apply hfn1) | (with_reducible apply hfn2) | (with_reducible apply hfn3)
    | (with_reducible apply hfn4) | (with_reducible apply hfn5) | (with_reducible apply hfn6) | (with_reducible apply hfn7)
    | (with_reducible apply hfn8) | (with_reducible apply hfn9) | (with_reducible apply hfn10) | (with_reducible apply hfn11)
    | (with_reducible apply hfn12) | (with_reducible apply kp_emit) | (with_reducible apply kp_setTap) | (with_reducible apply kp_raise)
    | (with_reducible apply kp_setF) | (with_reducible apply kp_refuse) | split | (with_reducible refine KeepsR.next ?_) | dsimp only
    | (with_reducible exact Keeps.mk (by assumption))

theorem kp_marginEnd {z : State} (l : List Nat) (s : State) (hs : Keeps z s) :
    Keeps z (marginEnd l s) := by
  unfold marginEnd
  repeat' first
    | (with_reducible assumption) | (with_reducible apply kp_setF) | dsimp only | (with_reducible exact Keeps.mk (by assumption))

theorem kp_execMarginRunEnd {z : State} (kind : Nat) (k : Nat) (s : State) (hs : Keeps z s) :
    KeepsR z (execMarginRunEnd kind k s) := by
  unfold execMarginRunEnd
  repeat' first
    | (with_reducible assumption) | (with_reducible apply kp_marginEnd) | (with_reducible refine KeepsR.next ?_) | dsimp only

theorem kp_execTestLogicReset {z : State} (s : State) (hs : Keeps z s) :
    KeepsR z (execTestLogicReset s) := by
  unfold execTestLogicReset
  repeat' first
    | (with_reducible assumption) | (with_reducible apply kp_marginEnd) | (with_reducible apply kp_setTap) | split
    | (with_reducible refine KeepsR.next ?_) | dsimp only | (with_reducible exact Keeps.mk (by assumption))

end Sys2Proof.Machine
end

