-- ==== Sys2Proof/Laws/KeepsUnits.lean ====
section
/-! SUPPORT. What every operation of Machine/Units.lean keeps. -/
set_option linter.all false

namespace Sys2Proof.Machine

theorem kp_execUnitStart {z : State} (i : Nat) (u : Nat) (hs : List (List (Option Nat))) (s : State) (hks : Keeps z s) :
    KeepsR z (execUnitStart i u hs s) := by
  unfold execUnitStart
  repeat' first
    | (with_reducible assumption) | (with_reducible refine KeepsR.next ?_) | (with_reducible apply kp_startHead) | (with_reducible apply kp_strmRun)
    | (with_reducible apply kp_oxRun) | (with_reducible apply kp_gmvRun) | (with_reducible apply kp_vecRun) | (with_reducible apply kp_msgRun)
    | (with_reducible apply kp_kvRun) | (with_reducible apply kp_syncRun) | split

theorem kp_execUnitComplete {z : State} (i : Nat) (num : Nat) (hs : List (List (Option Nat))) (s : State) (hks : Keeps z s) :
    KeepsR z (execUnitComplete i num hs s) := by
  unfold execUnitComplete
  repeat' first
    | (with_reducible assumption) | (with_reducible refine KeepsR.next ?_) | (with_reducible apply kp_completeNum)
    | (with_reducible apply kp_waitTill) | (with_reducible apply kp_markDone) | (with_reducible apply kp_kvRetry) | split

end Sys2Proof.Machine
end

