-- ==== Sys2Proof/Laws/KeepsVpx.lean ====
section
/-! SUPPORT. What every operation of Machine/Vpx.lean keeps. -/
set_option linter.all false

namespace Sys2Proof.Machine

theorem kp_vaReadGo {z : State} (n : Nat) (va : Nat) (a2 : Nat) (a3 : Nat) (a4 : Nat) (a5 : VIo) (ha5 : Keeps z a5.s) :
    Keeps z (vaReadGo n va a2 a3 a4 a5).s := by
  induction a2 generalizing n va a3 a4 a5 with
  | zero => change KeepsP (fun y : VIo => y.s) z _; unfold vaReadGo; repeat' first
      | (with_reducible assumption) | intro _
      | (extract_lets +onlyGivenNames lv; first | (have hx : Keeps z lv := ?_; generalize lv = w at hx ⊢; clear lv; rotate_left; subst lv) | (have hx : KeepsP (fun y : _ × State => y.2) z lv := ?_; generalize lv = w at hx ⊢; clear lv; replace hx : Keeps z w.2 := hx; rotate_left; subst lv) | (have hx : KeepsP (fun y : _ × _ × _ × State => y.2.2.2) z lv := ?_; generalize lv = w at hx ⊢; clear lv; replace hx : Keeps z w.2.2.2 := hx; rotate_left; subst lv) | (generalize lv = w; clear lv) | subst lv)
      | (with_reducible apply kp_hubWalk) | (with_reducible apply kp_homeRead) | split
      | (with_reducible refine KeepsP.mk ?_; with_reducible first | assumption | apply kp_hubWalk | apply kp_homeRead)
      | (with_reducible refine KeepsP.p1 ?_) | (with_reducible refine KeepsP.p2 ?_) | (with_reducible refine KeepsP.p22 ?_)
      | (with_reducible refine KeepsP.p222 ?_) | (with_reducible refine KeepsP.vio1 ?_) | (with_reducible refine KeepsP.encin ?_)
      | (with_reducible refine KeepsP.vio ?_) | (with_reducible refine Keeps.of1v (by assumption) ?_)
      | (with_reducible refine Keeps.of2 (by assumption) ?_) | (with_reducible refine Keeps.of1 (by assumption) ?_)
      | (with_reducible refine Keeps.of3 (by assumption) ?_) | (with_reducible refine Keeps.of4 (by assumption) ?_)
      | (with_reducible exact Keeps.mk (by assumption))
  | succ w ih => change KeepsP (fun y : VIo => y.s) z _; unfold vaReadGo; repeat' first
      | (with_reducible assumption) | intro _
      | (extract_lets +onlyGivenNames lv; first | (have hx : Keeps z lv := ?_; generalize lv = w at hx ⊢; clear lv; rotate_left; subst lv) | (have hx : KeepsP (fun y : _ × State => y.2) z lv := ?_; generalize lv = w at hx ⊢; clear lv; replace hx : Keeps z w.2 := hx; rotate_left; subst lv) | (have hx : KeepsP (fun y : _ × _ × _ × State => y.2.2.2) z lv := ?_; generalize lv = w at hx ⊢; clear lv; replace hx : Keeps z w.2.2.2 := hx; rotate_left; subst lv) | (generalize lv = w; clear lv) | subst lv)
      | (with_reducible apply ih) | (with_reducible apply kp_hubWalk) | (with_reducible apply kp_homeRead) | split
      | (with_reducible refine KeepsP.mk ?_; with_reducible first | assumption | apply ih | apply kp_hubWalk | apply kp_homeRead)
      | (with_reducible refine KeepsP.p1 ?_) | (with_reducible refine KeepsP.p2 ?_) | (with_reducible refine KeepsP.p22 ?_)
      | (with_reducible refine KeepsP.p222 ?_) | (with_reducible refine KeepsP.vio1 ?_) | (with_reducible refine KeepsP.encin ?_)
      | (with_reducible refine KeepsP.vio ?_) | (with_reducible refine Keeps.of1v (by assumption) ?_)
      | (with_reducible refine Keeps.of2 (by assumption) ?_) | (with_reducible refine Keeps.of1 (by assumption) ?_)
      | (with_reducible refine Keeps.of3 (by assumption) ?_) | (with_reducible refine Keeps.of4 (by assumption) ?_)
      | (with_reducible exact Keeps.mk (by assumption))

theorem kp_vaRead {z : State} (n : Nat) (va : Nat) (len : Nat) (hs : List (List (Option Nat))) (s : State) (ks : Keeps z s) :
    Keeps z (vaRead n va len hs s).s := by
  change KeepsP (fun y : VIo => y.s) z _
  unfold vaRead
  repeat' first
    | (with_reducible assumption) | (with_reducible apply kp_vaReadGo)
    | (with_reducible refine KeepsP.mk ?_; with_reducible first | assumption | apply kp_vaReadGo) | (with_reducible refine KeepsP.vio ?_) | dsimp only

theorem kp_vaWriteGo {z : State} (n : Nat) (va : Nat) (bs : List Byte) (bad : List Nat) (a4 : Nat) (a5 : Nat) (a6 : VIo) (ha6 : Keeps z a6.s) :
    Keeps z (vaWriteGo n va bs bad a4 a5 a6).s := by
  induction a4 generalizing n va bs bad a5 a6 with
  | zero => change KeepsP (fun y : VIo => y.s) z _; unfold vaWriteGo; repeat' first
      | (with_reducible assumption) | intro _
      | (extract_lets +onlyGivenNames lv; first | (have hx : Keeps z lv := ?_; generalize lv = w at hx ⊢; clear lv; rotate_left; subst lv) | (have hx : KeepsP (fun y : _ × State => y.2) z lv := ?_; generalize lv = w at hx ⊢; clear lv; replace hx : Keeps z w.2 := hx; rotate_left; subst lv) | (generalize lv = w; clear lv) | subst lv)
      | (with_reducible apply kp_hubWalk) | (with_reducible apply kp_homeWrite) | split
      | (with_reducible refine KeepsP.mk ?_; with_reducible first | assumption | apply kp_hubWalk | apply kp_homeWrite)
      | (with_reducible refine KeepsP.p1 ?_) | (with_reducible refine KeepsP.p2 ?_) | (with_reducible refine KeepsP.p22 ?_)
      | (with_reducible refine KeepsP.vio1 ?_) | (with_reducible refine KeepsP.encin ?_) | (with_reducible refine KeepsP.vio ?_)
      | (with_reducible refine Keeps.of1v (by assumption) ?_) | (with_reducible refine Keeps.of2 (by assumption) ?_)
      | (with_reducible refine Keeps.of1 (by assumption) ?_) | (with_reducible refine Keeps.of3 (by assumption) ?_)
      | (with_reducible exact Keeps.mk (by assumption))
  | succ w ih => change KeepsP (fun y : VIo => y.s) z _; unfold vaWriteGo; repeat' first
      | (with_reducible assumption) | intro _
      | (extract_lets +onlyGivenNames lv; first | (have hx : Keeps z lv := ?_; generalize lv = w at hx ⊢; clear lv; rotate_left; subst lv) | (have hx : KeepsP (fun y : _ × State => y.2) z lv := ?_; generalize lv = w at hx ⊢; clear lv; replace hx : Keeps z w.2 := hx; rotate_left; subst lv) | (generalize lv = w; clear lv) | subst lv)
      | (with_reducible apply ih) | (with_reducible apply kp_hubWalk) | (with_reducible apply kp_homeWrite) | split
      | (with_reducible refine KeepsP.mk ?_; with_reducible first | assumption | apply ih | apply kp_hubWalk | apply kp_homeWrite)
      | (with_reducible refine KeepsP.p1 ?_) | (with_reducible refine KeepsP.p2 ?_) | (with_reducible refine KeepsP.p22 ?_)
      | (with_reducible refine KeepsP.vio1 ?_) | (with_reducible refine KeepsP.encin ?_) | (with_reducible refine KeepsP.vio ?_)
      | (with_reducible refine Keeps.of1v (by assumption) ?_) | (with_reducible refine Keeps.of2 (by assumption) ?_)
      | (with_reducible refine Keeps.of1 (by assumption) ?_) | (with_reducible refine Keeps.of3 (by assumption) ?_)
      | (with_reducible exact Keeps.mk (by assumption))

theorem kp_vaWrite {z : State} (n : Nat) (va : Nat) (bs : List Byte) (bad : List Nat) (x : VIo) (hx : Keeps z x.s) :
    Keeps z (vaWrite n va bs bad x).s := by
  change KeepsP (fun y : VIo => y.s) z _
  unfold vaWrite
  repeat' first
    | (with_reducible assumption) | (with_reducible apply kp_vaWriteGo)
    | (with_reducible refine KeepsP.mk ?_; with_reducible first | assumption | apply kp_vaWriteGo) | (with_reducible refine KeepsP.vio ?_)
    | dsimp only

theorem kp_execEntryVideo {z : State} (n : Nat) (q : Nat) (k : Nat) (s : State) (hs : Keeps z s) :
    KeepsR z (execEntryVideo n q k s) := by
  unfold execEntryVideo
  repeat' first
    | (with_reducible assumption)
    | (extract_lets +onlyGivenNames lv; first | (have hx : Keeps z lv := ?_; generalize lv = w at hx ⊢; clear lv; rotate_left; subst lv) | (generalize lv = w; clear lv) | subst lv)
    | (with_reducible apply kp_startEnt) | (with_reducible apply kp_vComplete) | (with_reducible apply kp_setVp) | split
    | (with_reducible refine KeepsR.next ?_) | dsimp only | (with_reducible exact Keeps.mk (by assumption))

theorem kp_setVs {z : State} (v : Nat) (y : VSess) (s : State) (hs : Keeps z s) :
    Keeps z (setVs v y s) := by
  unfold setVs
  repeat' first
    | (with_reducible assumption)
    | (extract_lets +onlyGivenNames lv; first | (have hx : Keeps z lv := ?_; generalize lv = w at hx ⊢; clear lv; rotate_left; subst lv) | (generalize lv = w; clear lv) | subst lv)
    | (with_reducible apply kp_setVp) | split | dsimp only | (with_reducible exact Keeps.mk (by assumption))

theorem kp_setVj {z : State} (v : Nat) (j : VJob) (s : State) (hs : Keeps z s) :
    Keeps z (setVj v j s) := by
  unfold setVj
  repeat' first
    | (with_reducible assumption)
    | (extract_lets +onlyGivenNames lv; first | (have hx : Keeps z lv := ?_; generalize lv = w at hx ⊢; clear lv; rotate_left; subst lv) | (generalize lv = w; clear lv) | subst lv)
    | (with_reducible apply kp_setVp) | split | dsimp only | (with_reducible exact Keeps.mk (by assumption))

theorem kp_execVideoOpen {z : State} (v : Nat) (n : Nat) (k : Nat) (s : State) (hs : Keeps z s) :
    KeepsR z (execVideoOpen v n k s) := by
  unfold execVideoOpen
  repeat' first
    | (with_reducible assumption)
    | (extract_lets +onlyGivenNames lv; first | (have hx : Keeps z lv := ?_; generalize lv = w at hx ⊢; clear lv; rotate_left; subst lv) | (generalize lv = w; clear lv) | subst lv)
    | (with_reducible refine KeepsR.next ?_) | (with_reducible apply kp_vEnd) | (with_reducible apply kp_setVp) | split
    | (with_reducible exact Keeps.mk (by assumption))

theorem kp_execVideoClose {z : State} (v : Nat) (n : Nat) (k : Nat) (s : State) (hs : Keeps z s) :
    KeepsR z (execVideoClose v n k s) := by
  unfold execVideoClose
  repeat' first
    | (with_reducible assumption) | (with_reducible apply kp_vEnd) | (with_reducible apply kp_vClose) | split | (with_reducible refine KeepsR.next ?_)
    | dsimp only | (with_reducible exact Keeps.mk (by assumption))

theorem kp_vStart {z : State} (v : Nat) (j : VJob) (g : List Nat) (s : State) (hs : Keeps z s) :
    Keeps z (vStart v j g s) := by
  unfold vStart
  repeat' first
    | (with_reducible assumption) | intro _ | (with_reducible apply kp_setVj) | (with_reducible apply kp_setEng) | (with_reducible apply kp_waitTill)
    | (with_reducible apply Keeps.foldl) | (with_reducible apply Keeps.foldlx) | (with_reducible apply Keeps.foldlv)
    | (with_reducible apply Keeps.foldl2) | (with_reducible apply Keeps.foldl1) | (with_reducible apply Keeps.foldl22)
    | (with_reducible apply Keeps.foldl222) | (with_reducible apply Keeps.foldl2x) | (with_reducible exact Keeps.mk (by assumption))

theorem kp_execVideoJobStart {z : State} (v : Nat) (n : Nat) (k : Nat) (s : State) (hs : Keeps z s) :
    KeepsR z (execVideoJobStart v n k s) := by
  unfold execVideoJobStart
  repeat' first
    | (with_reducible assumption) | intro _
    | (extract_lets +onlyGivenNames lv; first | (have hx : Keeps z lv := ?_; generalize lv = w at hx ⊢; clear lv; rotate_left; subst lv) | (generalize lv = w; clear lv) | subst lv)
    | (with_reducible refine KeepsR.next ?_) | (with_reducible apply kp_vEnd) | (with_reducible apply kp_vStart) | split

theorem kp_streamErr {z : State} (v : Nat) (k : Nat) (row : Nat) (s : State) (hs : Keeps z s) :
    Keeps z (streamErr v k row s) := by
  unfold streamErr
  repeat' first
    | (with_reducible assumption) | (with_reducible apply kp_recordCE) | (with_reducible apply kp_raise) | (with_reducible apply kp_bump) | dsimp only

theorem kp_vIoEnd {z : State} (v : Nat) (j : VJob) (x : VIo) (hx : Keeps z x.s) :
    Keeps z (vIoEnd v j x) := by
  unfold vIoEnd
  repeat' first
    | (with_reducible assumption) | (with_reducible apply kp_vEnd) | split | dsimp only

theorem kp_decLost {z : State} (v : Nat) (y : VSess) (d : VDec) (j : VJob) (s : State) (hs : Keeps z s) :
    Keeps z (decLost v y d j s) := by
  unfold decLost
  repeat' first
    | (with_reducible assumption)
    | (extract_lets +onlyGivenNames lv; first | (have hx : Keeps z lv := ?_; generalize lv = w at hx ⊢; clear lv; rotate_left; subst lv) | (generalize lv = w; clear lv) | subst lv)
    | (with_reducible apply kp_streamErr) | split

theorem kp_decShare {z : State} (v : Nat) (y : VSess) (d : VDec) (s : State) (hs : Keeps z s) :
    Keeps z (decShare v y d s) := by
  unfold decShare
  repeat' first
    | (with_reducible assumption) | intro _
    | (extract_lets +onlyGivenNames lv; first | (have hx : Keeps z lv := ?_; generalize lv = w at hx ⊢; clear lv; rotate_left; subst lv) | (generalize lv = w; clear lv) | subst lv)
    | (with_reducible apply kp_setEng) | (with_reducible apply kp_setFq) | (with_reducible apply Keeps.foldl) | (with_reducible apply Keeps.foldlx)
    | (with_reducible apply Keeps.foldlv) | (with_reducible apply Keeps.foldl2) | (with_reducible apply Keeps.foldl1)
    | (with_reducible apply Keeps.foldl22) | (with_reducible apply Keeps.foldl222) | (with_reducible apply Keeps.foldl2x)
    | (with_reducible exact Keeps.mk (by assumption))

theorem kp_decWrite {z : State} (y : VSess) (d : VDec) (gone : List Nat) (pois : List Nat) (x : VIo) (hx : Keeps z x.s) :
    Keeps z (decWrite y d gone pois x).s := by
  change KeepsP (fun y : VIo => y.s) z _
  unfold decWrite
  repeat' first
    | (with_reducible assumption) | (with_reducible apply kp_vaWrite)
    | (with_reducible refine KeepsP.mk ?_; with_reducible first | assumption | apply kp_vaWrite) | (with_reducible refine KeepsP.p1 ?_)
    | (with_reducible refine KeepsP.p2 ?_) | (with_reducible refine KeepsP.p22 ?_) | (with_reducible refine KeepsP.kx ?_)
    | (with_reducible refine KeepsP.p2x ?_) | (with_reducible refine Keeps.of2x (by assumption) ?_) | (with_reducible refine KeepsP.vio1 ?_)
    | (with_reducible refine KeepsP.encin ?_) | (with_reducible refine KeepsP.vio ?_) | (with_reducible refine Keeps.of1v (by assumption) ?_)
    | (with_reducible refine Keeps.of2 (by assumption) ?_) | (with_reducible refine Keeps.of1 (by assumption) ?_)
    | (with_reducible refine Keeps.of3 (by assumption) ?_)

theorem kp_decSess {z : State} (v : Nat) (y : VSess) (d : VDec) (s : State) (hs : Keeps z s) :
    Keeps z (decSess v y d s) := by
  unfold decSess
  repeat' first
    | (with_reducible assumption) | (with_reducible apply kp_setVs) | (with_reducible exact Keeps.mk (by assumption))

theorem kp_decDone {z : State} (v : Nat) (y : VSess) (d : VDec) (pois : List Nat) (j : VJob) (s : State) (hs : Keeps z s) :
    Keeps z (decDone v y d pois j s) := by
  unfold decDone
  repeat' first
    | (with_reducible assumption)
    | (extract_lets +onlyGivenNames lv; first | (have hx : Keeps z lv := ?_; generalize lv = w at hx ⊢; clear lv; rotate_left; subst lv) | (generalize lv = w; clear lv) | subst lv)
    | (with_reducible apply kp_decSess) | (with_reducible apply kp_decShare) | (with_reducible apply kp_vComplete) | (with_reducible apply kp_setVj)
    | (with_reducible apply kp_vpEnded) | split | (with_reducible exact Keeps.mk (by assumption))

theorem kp_execDecode {z : State} (v : Nat) (d : VDec) (hs : List (List (Option Nat))) (s : State) (hks : Keeps z s) :
    KeepsR z (execDecode v d hs s) := by
  unfold execDecode
  repeat' first
    | (with_reducible assumption)
    | (extract_lets +onlyGivenNames lv; first | (have hx : Keeps z lv := ?_; generalize lv = w at hx ⊢; clear lv; rotate_left; subst lv) | (have hv : KeepsP (fun y : _ × Kx => y.2.s) z lv := ?_; obtain ⟨w, e, hx⟩ : ∃ w, w = lv ∧ KeepsP (fun y : _ × Kx => y.2.s) z w := ⟨lv, rfl, hv⟩; try rw [← e]; clear e hv lv; replace hx : Keeps z w.2.s := hx; rotate_left; subst lv) | (have hv : KeepsP (fun y : Kx => y.s) z lv := ?_; obtain ⟨w, e, hx⟩ : ∃ w, w = lv ∧ KeepsP (fun y : Kx => y.s) z w := ⟨lv, rfl, hv⟩; try rw [← e]; clear e hv lv; replace hx : Keeps z w.s := hx; rotate_left; subst lv) | (have hv : KeepsP (fun y : VIo => y.s) z lv := ?_; obtain ⟨w, e, hx⟩ : ∃ w, w = lv ∧ KeepsP (fun y : VIo => y.s) z w := ⟨lv, rfl, hv⟩; try rw [← e]; clear e hv lv; replace hx : Keeps z w.s := hx; rotate_left; subst lv) | (have hv : KeepsP (fun y : EncIn => y.io.s) z lv := ?_; obtain ⟨w, e, hx⟩ : ∃ w, w = lv ∧ KeepsP (fun y : EncIn => y.io.s) z w := ⟨lv, rfl, hv⟩; try rw [← e]; clear e hv lv; replace hx : Keeps z w.io.s := hx; rotate_left; subst lv) | (have hv : KeepsP (fun y : VIo × _ => y.1.s) z lv := ?_; obtain ⟨w, e, hx⟩ : ∃ w, w = lv ∧ KeepsP (fun y : VIo × _ => y.1.s) z w := ⟨lv, rfl, hv⟩; try rw [← e]; clear e hv lv; replace hx : Keeps z w.1.s := hx; rotate_left; subst lv) | (generalize lv = w; clear lv) | subst lv)
    | (with_reducible refine KeepsR.next ?_) | (with_reducible apply kp_vaRead) | (with_reducible apply kp_vIoEnd) | (with_reducible apply kp_vEnd)
    | (with_reducible apply kp_decLost) | (with_reducible apply kp_vComplete) | (with_reducible apply kp_decSess)
    | (with_reducible apply kp_decShare) | (with_reducible apply kp_decWrite) | (with_reducible apply kp_decDone) | split
    | (with_reducible refine KeepsP.mk ?_; with_reducible first | assumption | apply kp_vaRead | apply kp_decWrite)
    | (with_reducible refine KeepsP.p1 ?_) | (with_reducible refine KeepsP.p2 ?_) | (with_reducible refine KeepsP.p22 ?_)
    | (with_reducible refine KeepsP.kx ?_) | (with_reducible refine KeepsP.p2x ?_) | (with_reducible refine Keeps.of2x (by assumption) ?_)
    | (with_reducible refine KeepsP.vio1 ?_) | (with_reducible refine KeepsP.encin ?_) | (with_reducible refine KeepsP.vio ?_)
    | (with_reducible refine Keeps.of1v (by assumption) ?_) | (with_reducible refine Keeps.of2 (by assumption) ?_)
    | (with_reducible refine Keeps.of1 (by assumption) ?_) | (with_reducible refine Keeps.of3 (by assumption) ?_)
    | (with_reducible exact Keeps.mk (by assumption))

theorem kp_outWrite {z : State} (j : VJob) (bits : List Byte) (bad : List Nat) (x : VIo) (hx : Keeps z x.s) :
    Keeps z (outWrite j bits bad x).1.s := by
  change KeepsP (fun y : VIo × Nat × Bool => y.1.s) z _
  unfold outWrite
  repeat' first
    | (with_reducible assumption)
    | (extract_lets +onlyGivenNames lv; first | (have hx : Keeps z lv := ?_; generalize lv = w at hx ⊢; clear lv; rotate_left; subst lv) | (have hv : KeepsP (fun y : VIo => y.s) z lv := ?_; obtain ⟨w, e, hx⟩ : ∃ w, w = lv ∧ KeepsP (fun y : VIo => y.s) z w := ⟨lv, rfl, hv⟩; try rw [← e]; clear e hv lv; replace hx : Keeps z w.s := hx; rotate_left; subst lv) | (have hv : KeepsP (fun y : VIo × _ => y.1.s) z lv := ?_; obtain ⟨w, e, hx⟩ : ∃ w, w = lv ∧ KeepsP (fun y : VIo × _ => y.1.s) z w := ⟨lv, rfl, hv⟩; try rw [← e]; clear e hv lv; replace hx : Keeps z w.1.s := hx; rotate_left; subst lv) | (generalize lv = w; clear lv) | subst lv)
    | (with_reducible apply kp_vaWrite) | (with_reducible refine KeepsP.mk ?_; with_reducible first | assumption | apply kp_vaWrite)
    | (with_reducible refine KeepsP.p1v ?_) | (with_reducible refine KeepsP.vio ?_) | (with_reducible refine Keeps.of1v (by assumption) ?_)
    | dsimp only

theorem kp_encHold {z : State} (v : Nat) (y : VSess) (j : VJob) (s : State) (hs : Keeps z s) :
    Keeps z (encHold v y j s) := by
  unfold encHold
  repeat' first
    | (with_reducible assumption) | (with_reducible apply kp_setVj) | (with_reducible apply kp_setVs) | (with_reducible apply kp_vpEnded)
    | (with_reducible exact Keeps.mk (by assumption))

theorem kp_encRefsGo {z : State} (y : VSess) (a1 : List Nat) (a2 : VIo) (ha2 : Keeps z a2.s) :
    Keeps z (encRefsGo y a1 a2).1.s := by
  induction a1 generalizing y a2 with
  | nil => change KeepsP (fun y : VIo × List (List Byte) × List Nat => y.1.s) z _; unfold encRefsGo; repeat' first
      | (with_reducible assumption)
      | (extract_lets +onlyGivenNames lv; first | (have hx : Keeps z lv := ?_; generalize lv = w at hx ⊢; clear lv; rotate_left; subst lv) | (have hv : KeepsP (fun y : _ × Kx => y.2.s) z lv := ?_; obtain ⟨w, e, hx⟩ : ∃ w, w = lv ∧ KeepsP (fun y : _ × Kx => y.2.s) z w := ⟨lv, rfl, hv⟩; try rw [← e]; clear e hv lv; replace hx : Keeps z w.2.s := hx; rotate_left; subst lv) | (have hv : KeepsP (fun y : Kx => y.s) z lv := ?_; obtain ⟨w, e, hx⟩ : ∃ w, w = lv ∧ KeepsP (fun y : Kx => y.s) z w := ⟨lv, rfl, hv⟩; try rw [← e]; clear e hv lv; replace hx : Keeps z w.s := hx; rotate_left; subst lv) | (have hv : KeepsP (fun y : VIo => y.s) z lv := ?_; obtain ⟨w, e, hx⟩ : ∃ w, w = lv ∧ KeepsP (fun y : VIo => y.s) z w := ⟨lv, rfl, hv⟩; try rw [← e]; clear e hv lv; replace hx : Keeps z w.s := hx; rotate_left; subst lv) | (have hv : KeepsP (fun y : EncIn => y.io.s) z lv := ?_; obtain ⟨w, e, hx⟩ : ∃ w, w = lv ∧ KeepsP (fun y : EncIn => y.io.s) z w := ⟨lv, rfl, hv⟩; try rw [← e]; clear e hv lv; replace hx : Keeps z w.io.s := hx; rotate_left; subst lv) | (have hv : KeepsP (fun y : VIo × _ => y.1.s) z lv := ?_; obtain ⟨w, e, hx⟩ : ∃ w, w = lv ∧ KeepsP (fun y : VIo × _ => y.1.s) z w := ⟨lv, rfl, hv⟩; try rw [← e]; clear e hv lv; replace hx : Keeps z w.1.s := hx; rotate_left; subst lv) | (generalize lv = w; clear lv) | subst lv)
      | (with_reducible apply kp_vaRead) | split | (with_reducible refine KeepsP.mk ?_; with_reducible first | assumption | apply kp_vaRead)
      | (with_reducible refine KeepsP.p1 ?_) | (with_reducible refine KeepsP.p2 ?_) | (with_reducible refine KeepsP.p22 ?_)
      | (with_reducible refine KeepsP.kx ?_) | (with_reducible refine KeepsP.p2x ?_) | (with_reducible refine Keeps.of2x (by assumption) ?_)
      | (with_reducible refine KeepsP.vio1 ?_) | (with_reducible refine KeepsP.encin ?_) | (with_reducible refine KeepsP.vio ?_)
      | (with_reducible refine Keeps.of1v (by assumption) ?_) | (with_reducible refine Keeps.of2 (by assumption) ?_)
      | (with_reducible refine Keeps.of1 (by assumption) ?_) | (with_reducible refine Keeps.of3 (by assumption) ?_)
  | cons w0 w ih => change KeepsP (fun y : VIo × List (List Byte) × List Nat => y.1.s) z _; unfold encRefsGo; repeat' first
      | (with_reducible assumption)
      | (extract_lets +onlyGivenNames lv; first | (have hx : Keeps z lv := ?_; generalize lv = w at hx ⊢; clear lv; rotate_left; subst lv) | (have hv : KeepsP (fun y : _ × Kx => y.2.s) z lv := ?_; obtain ⟨w, e, hx⟩ : ∃ w, w = lv ∧ KeepsP (fun y : _ × Kx => y.2.s) z w := ⟨lv, rfl, hv⟩; try rw [← e]; clear e hv lv; replace hx : Keeps z w.2.s := hx; rotate_left; subst lv) | (have hv : KeepsP (fun y : Kx => y.s) z lv := ?_; obtain ⟨w, e, hx⟩ : ∃ w, w = lv ∧ KeepsP (fun y : Kx => y.s) z w := ⟨lv, rfl, hv⟩; try rw [← e]; clear e hv lv; replace hx : Keeps z w.s := hx; rotate_left; subst lv) | (have hv : KeepsP (fun y : VIo => y.s) z lv := ?_; obtain ⟨w, e, hx⟩ : ∃ w, w = lv ∧ KeepsP (fun y : VIo => y.s) z w := ⟨lv, rfl, hv⟩; try rw [← e]; clear e hv lv; replace hx : Keeps z w.s := hx; rotate_left; subst lv) | (have hv : KeepsP (fun y : EncIn => y.io.s) z lv := ?_; obtain ⟨w, e, hx⟩ : ∃ w, w = lv ∧ KeepsP (fun y : EncIn => y.io.s) z w := ⟨lv, rfl, hv⟩; try rw [← e]; clear e hv lv; replace hx : Keeps z w.io.s := hx; rotate_left; subst lv) | (have hv : KeepsP (fun y : VIo × _ => y.1.s) z lv := ?_; obtain ⟨w, e, hx⟩ : ∃ w, w = lv ∧ KeepsP (fun y : VIo × _ => y.1.s) z w := ⟨lv, rfl, hv⟩; try rw [← e]; clear e hv lv; replace hx : Keeps z w.1.s := hx; rotate_left; subst lv) | (generalize lv = w; clear lv) | subst lv)
      | (with_reducible apply ih) | (with_reducible apply kp_vaRead) | split
      | (with_reducible refine KeepsP.mk ?_; with_reducible first | assumption | apply ih | apply kp_vaRead) | (with_reducible refine KeepsP.p1 ?_)
      | (with_reducible refine KeepsP.p2 ?_) | (with_reducible refine KeepsP.p22 ?_) | (with_reducible refine KeepsP.kx ?_)
      | (with_reducible refine KeepsP.p2x ?_) | (with_reducible refine Keeps.of2x (by assumption) ?_) | (with_reducible refine KeepsP.vio1 ?_)
      | (with_reducible refine KeepsP.encin ?_) | (with_reducible refine KeepsP.vio ?_) | (with_reducible refine Keeps.of1v (by assumption) ?_)
      | (with_reducible refine Keeps.of2 (by assumption) ?_) | (with_reducible refine Keeps.of1 (by assumption) ?_)
      | (with_reducible refine Keeps.of3 (by assumption) ?_)

theorem kp_encRefs {z : State} (y : VSess) (k : VKind) (x : VIo) (hx : Keeps z x.s) :
    Keeps z (encRefs y k x).1.s := by
  change KeepsP (fun y : VIo × List (List Byte) × List Nat => y.1.s) z _
  unfold encRefs
  repeat' first
    | (with_reducible assumption) | (with_reducible apply kp_encRefsGo) | split
    | (with_reducible refine KeepsP.mk ?_; with_reducible first | assumption | apply kp_encRefsGo) | (with_reducible refine KeepsP.p1 ?_)
    | (with_reducible refine KeepsP.p2 ?_) | (with_reducible refine KeepsP.p22 ?_) | (with_reducible refine KeepsP.kx ?_)
    | (with_reducible refine KeepsP.p2x ?_) | (with_reducible refine Keeps.of2x (by assumption) ?_) | (with_reducible refine KeepsP.vio1 ?_)
    | (with_reducible refine KeepsP.encin ?_) | (with_reducible refine KeepsP.vio ?_) | (with_reducible refine Keeps.of1v (by assumption) ?_)
    | (with_reducible refine Keeps.of2 (by assumption) ?_) | (with_reducible refine Keeps.of1 (by assumption) ?_)
    | (with_reducible refine Keeps.of3 (by assumption) ?_) | (with_reducible exact Keeps.mk (by assumption))

theorem kp_encIn {z : State} (y : VSess) (j : VJob) (k : VKind) (ctb : Nat) (hs : List (List (Option Nat))) (s : State) (hks : Keeps z s) :
    Keeps z (encIn y j k ctb hs s).io.s := by
  change KeepsP (fun y : EncIn => y.io.s) z _
  unfold encIn
  repeat' first
    | (with_reducible assumption)
    | (extract_lets +onlyGivenNames lv; first | (have hx : Keeps z lv := ?_; generalize lv = w at hx ⊢; clear lv; rotate_left; subst lv) | (have hv : KeepsP (fun y : _ × Kx => y.2.s) z lv := ?_; obtain ⟨w, e, hx⟩ : ∃ w, w = lv ∧ KeepsP (fun y : _ × Kx => y.2.s) z w := ⟨lv, rfl, hv⟩; try rw [← e]; clear e hv lv; replace hx : Keeps z w.2.s := hx; rotate_left; subst lv) | (have hv : KeepsP (fun y : Kx => y.s) z lv := ?_; obtain ⟨w, e, hx⟩ : ∃ w, w = lv ∧ KeepsP (fun y : Kx => y.s) z w := ⟨lv, rfl, hv⟩; try rw [← e]; clear e hv lv; replace hx : Keeps z w.s := hx; rotate_left; subst lv) | (have hv : KeepsP (fun y : VIo => y.s) z lv := ?_; obtain ⟨w, e, hx⟩ : ∃ w, w = lv ∧ KeepsP (fun y : VIo => y.s) z w := ⟨lv, rfl, hv⟩; try rw [← e]; clear e hv lv; replace hx : Keeps z w.s := hx; rotate_left; subst lv) | (have hv : KeepsP (fun y : EncIn => y.io.s) z lv := ?_; obtain ⟨w, e, hx⟩ : ∃ w, w = lv ∧ KeepsP (fun y : EncIn => y.io.s) z w := ⟨lv, rfl, hv⟩; try rw [← e]; clear e hv lv; replace hx : Keeps z w.io.s := hx; rotate_left; subst lv) | (have hv : KeepsP (fun y : VIo × _ => y.1.s) z lv := ?_; obtain ⟨w, e, hx⟩ : ∃ w, w = lv ∧ KeepsP (fun y : VIo × _ => y.1.s) z w := ⟨lv, rfl, hv⟩; try rw [← e]; clear e hv lv; replace hx : Keeps z w.1.s := hx; rotate_left; subst lv) | (generalize lv = w; clear lv) | subst lv)
    | (with_reducible apply kp_vaRead) | (with_reducible apply kp_encRefs) | split
    | (with_reducible refine KeepsP.mk ?_; with_reducible first | assumption | apply kp_vaRead | apply kp_encRefs)
    | (with_reducible refine KeepsP.p1 ?_) | (with_reducible refine KeepsP.p2 ?_) | (with_reducible refine KeepsP.p22 ?_)
    | (with_reducible refine KeepsP.kx ?_) | (with_reducible refine KeepsP.p2x ?_) | (with_reducible refine Keeps.of2x (by assumption) ?_)
    | (with_reducible refine KeepsP.vio1 ?_) | (with_reducible refine KeepsP.encin ?_) | (with_reducible refine KeepsP.vio ?_)
    | (with_reducible refine Keeps.of1v (by assumption) ?_) | (with_reducible refine Keeps.of2 (by assumption) ?_)
    | (with_reducible refine Keeps.of1 (by assumption) ?_) | (with_reducible refine Keeps.of3 (by assumption) ?_)

theorem kp_encWrite {z : State} (y : VSess) (j : VJob) (k : VKind) (e : VEnc) (bad : List Nat) (x : VIo) (hx : Keeps z x.s) :
    Keeps z (encWrite y j k e bad x).1.s := by
  change KeepsP (fun y : VIo × Nat × Bool => y.1.s) z _
  unfold encWrite
  repeat' first
    | (with_reducible assumption) | intro _
    | (extract_lets +onlyGivenNames lv; first | (have hx : Keeps z lv := ?_; generalize lv = w at hx ⊢; clear lv; rotate_left; subst lv) | (have hv : KeepsP (fun y : _ × Kx => y.2.s) z lv := ?_; obtain ⟨w, e, hx⟩ : ∃ w, w = lv ∧ KeepsP (fun y : _ × Kx => y.2.s) z w := ⟨lv, rfl, hv⟩; try rw [← e]; clear e hv lv; replace hx : Keeps z w.2.s := hx; rotate_left; subst lv) | (have hv : KeepsP (fun y : Kx => y.s) z lv := ?_; obtain ⟨w, e, hx⟩ : ∃ w, w = lv ∧ KeepsP (fun y : Kx => y.s) z w := ⟨lv, rfl, hv⟩; try rw [← e]; clear e hv lv; replace hx : Keeps z w.s := hx; rotate_left; subst lv) | (have hv : KeepsP (fun y : VIo => y.s) z lv := ?_; obtain ⟨w, e, hx⟩ : ∃ w, w = lv ∧ KeepsP (fun y : VIo => y.s) z w := ⟨lv, rfl, hv⟩; try rw [← e]; clear e hv lv; replace hx : Keeps z w.s := hx; rotate_left; subst lv) | (have hv : KeepsP (fun y : EncIn => y.io.s) z lv := ?_; obtain ⟨w, e, hx⟩ : ∃ w, w = lv ∧ KeepsP (fun y : EncIn => y.io.s) z w := ⟨lv, rfl, hv⟩; try rw [← e]; clear e hv lv; replace hx : Keeps z w.io.s := hx; rotate_left; subst lv) | (have hv : KeepsP (fun y : VIo × _ => y.1.s) z lv := ?_; obtain ⟨w, e, hx⟩ : ∃ w, w = lv ∧ KeepsP (fun y : VIo × _ => y.1.s) z w := ⟨lv, rfl, hv⟩; try rw [← e]; clear e hv lv; replace hx : Keeps z w.1.s := hx; rotate_left; subst lv) | (generalize lv = w; clear lv) | subst lv)
    | (with_reducible apply kp_outWrite) | (with_reducible apply kp_vaWrite) | split
    | (with_reducible refine KeepsP.mk ?_; with_reducible first | assumption | apply kp_outWrite | apply kp_vaWrite)
    | (with_reducible refine KeepsP.p1 ?_) | (with_reducible refine KeepsP.p2 ?_) | (with_reducible refine KeepsP.p22 ?_)
    | (with_reducible refine KeepsP.kx ?_) | (with_reducible refine KeepsP.p2x ?_) | (with_reducible refine Keeps.of2x (by assumption) ?_)
    | (with_reducible refine KeepsP.vio1 ?_) | (with_reducible refine KeepsP.encin ?_) | (with_reducible refine KeepsP.vio ?_)
    | (with_reducible refine Keeps.of1v (by assumption) ?_) | (with_reducible refine Keeps.of2 (by assumption) ?_)
    | (with_reducible refine Keeps.of1 (by assumption) ?_) | (with_reducible refine Keeps.of3 (by assumption) ?_)
    | (with_reducible exact Keeps.mk (by assumption))

theorem kp_encDone {z : State} (v : Nat) (y : VSess) (j : VJob) (k : VKind) (e : VEnc) (n : Nat) (full : Bool) (pois : Bool) (win : VStore) (s : State) (hs : Keeps z s) :
    Keeps z (encDone v y j k e n full pois win s) := by
  unfold encDone
  repeat' first
    | (with_reducible assumption)
    | (extract_lets +onlyGivenNames lv; first | (have hx : Keeps z lv := ?_; generalize lv = w at hx ⊢; clear lv; rotate_left; subst lv) | (generalize lv = w; clear lv) | subst lv)
    | (with_reducible apply kp_setWin) | (with_reducible apply kp_vpEnded) | (with_reducible apply kp_setVj) | (with_reducible apply kp_setVs)
    | (with_reducible apply kp_setFq) | (with_reducible apply kp_bump64) | (with_reducible apply kp_setF) | (with_reducible apply kp_recordCE)
    | (with_reducible apply kp_raise) | (with_reducible apply kp_bump) | split | (with_reducible exact Keeps.mk (by assumption))

theorem kp_encCode {z : State} (v : Nat) (y : VSess) (j : VJob) (k : VKind) (e : VEnc) (hs : List (List (Option Nat))) (s : State) (hks : Keeps z s) :
    Keeps z (encCode v y j k e hs s) := by
  unfold encCode
  repeat' first
    | (with_reducible assumption)
    | (extract_lets +onlyGivenNames lv; first | (have hx : Keeps z lv := ?_; generalize lv = w at hx ⊢; clear lv; rotate_left; subst lv) | (have hv : KeepsP (fun y : _ × Kx => y.2.s) z lv := ?_; obtain ⟨w, e, hx⟩ : ∃ w, w = lv ∧ KeepsP (fun y : _ × Kx => y.2.s) z w := ⟨lv, rfl, hv⟩; try rw [← e]; clear e hv lv; replace hx : Keeps z w.2.s := hx; rotate_left; subst lv) | (have hv : KeepsP (fun y : Kx => y.s) z lv := ?_; obtain ⟨w, e, hx⟩ : ∃ w, w = lv ∧ KeepsP (fun y : Kx => y.s) z w := ⟨lv, rfl, hv⟩; try rw [← e]; clear e hv lv; replace hx : Keeps z w.s := hx; rotate_left; subst lv) | (have hv : KeepsP (fun y : VIo => y.s) z lv := ?_; obtain ⟨w, e, hx⟩ : ∃ w, w = lv ∧ KeepsP (fun y : VIo => y.s) z w := ⟨lv, rfl, hv⟩; try rw [← e]; clear e hv lv; replace hx : Keeps z w.s := hx; rotate_left; subst lv) | (have hv : KeepsP (fun y : EncIn => y.io.s) z lv := ?_; obtain ⟨w, e, hx⟩ : ∃ w, w = lv ∧ KeepsP (fun y : EncIn => y.io.s) z w := ⟨lv, rfl, hv⟩; try rw [← e]; clear e hv lv; replace hx : Keeps z w.io.s := hx; rotate_left; subst lv) | (have hv : KeepsP (fun y : VIo × _ => y.1.s) z lv := ?_; obtain ⟨w, e, hx⟩ : ∃ w, w = lv ∧ KeepsP (fun y : VIo × _ => y.1.s) z w := ⟨lv, rfl, hv⟩; try rw [← e]; clear e hv lv; replace hx : Keeps z w.1.s := hx; rotate_left; subst lv) | (generalize lv = w; clear lv) | subst lv)
    | (with_reducible apply kp_encIn) | (with_reducible apply kp_vIoEnd) | (with_reducible apply kp_encWrite) | (with_reducible apply kp_encDone)
    | split | (with_reducible refine KeepsP.mk ?_; with_reducible first | assumption | apply kp_encIn | apply kp_encWrite)
    | (with_reducible refine KeepsP.p1 ?_) | (with_reducible refine KeepsP.p2 ?_) | (with_reducible refine KeepsP.p22 ?_)
    | (with_reducible refine KeepsP.kx ?_) | (with_reducible refine KeepsP.p2x ?_) | (with_reducible refine Keeps.of2x (by assumption) ?_)
    | (with_reducible refine KeepsP.vio1 ?_) | (with_reducible refine KeepsP.encin ?_) | (with_reducible refine KeepsP.vio ?_)
    | (with_reducible refine Keeps.of1v (by assumption) ?_) | (with_reducible refine Keeps.of2 (by assumption) ?_)
    | (with_reducible refine Keeps.of1 (by assumption) ?_) | (with_reducible refine Keeps.of3 (by assumption) ?_)

theorem kp_execEncode {z : State} (v : Nat) (key : Nat) (e : VEnc) (hs : List (List (Option Nat))) (s : State) (hks : Keeps z s) :
    KeepsR z (execEncode v key e hs s) := by
  unfold execEncode
  repeat' first
    | (with_reducible assumption) | intro _ | (with_reducible refine KeepsR.next ?_) | (with_reducible apply kp_encHold)
    | (with_reducible apply kp_encCode) | split

theorem kp_sliceOut {z : State} (v : Nat) (y : VSess) (j : VJob) (g : VSeg) (heads : List (VUnit × List Byte)) (data : List Byte) (x : VIo) (hx : Keeps z x.s) :
    Keeps z (sliceOut v y j g heads data x).1.s := by
  change KeepsP (fun y : VIo × Nat => y.1.s) z _
  unfold sliceOut
  repeat' first
    | (with_reducible assumption)
    | (extract_lets +onlyGivenNames lv; first | (have hx : Keeps z lv := ?_; generalize lv = w at hx ⊢; clear lv; rotate_left; subst lv) | (have hv : KeepsP (fun y : _ × Kx => y.2.s) z lv := ?_; obtain ⟨w, e, hx⟩ : ∃ w, w = lv ∧ KeepsP (fun y : _ × Kx => y.2.s) z w := ⟨lv, rfl, hv⟩; try rw [← e]; clear e hv lv; replace hx : Keeps z w.2.s := hx; rotate_left; subst lv) | (have hv : KeepsP (fun y : Kx => y.s) z lv := ?_; obtain ⟨w, e, hx⟩ : ∃ w, w = lv ∧ KeepsP (fun y : Kx => y.s) z w := ⟨lv, rfl, hv⟩; try rw [← e]; clear e hv lv; replace hx : Keeps z w.s := hx; rotate_left; subst lv) | (have hv : KeepsP (fun y : VIo => y.s) z lv := ?_; obtain ⟨w, e, hx⟩ : ∃ w, w = lv ∧ KeepsP (fun y : VIo => y.s) z w := ⟨lv, rfl, hv⟩; try rw [← e]; clear e hv lv; replace hx : Keeps z w.s := hx; rotate_left; subst lv) | (have hv : KeepsP (fun y : EncIn => y.io.s) z lv := ?_; obtain ⟨w, e, hx⟩ : ∃ w, w = lv ∧ KeepsP (fun y : EncIn => y.io.s) z w := ⟨lv, rfl, hv⟩; try rw [← e]; clear e hv lv; replace hx : Keeps z w.io.s := hx; rotate_left; subst lv) | (have hv : KeepsP (fun y : VIo × _ => y.1.s) z lv := ?_; obtain ⟨w, e, hx⟩ : ∃ w, w = lv ∧ KeepsP (fun y : VIo × _ => y.1.s) z w := ⟨lv, rfl, hv⟩; try rw [← e]; clear e hv lv; replace hx : Keeps z w.1.s := hx; rotate_left; subst lv) | (generalize lv = w; clear lv) | subst lv)
    | (with_reducible apply kp_encIn) | (with_reducible apply kp_outWrite) | (with_reducible apply kp_setWin) | split
    | (with_reducible refine KeepsP.mk ?_; with_reducible first | assumption | apply kp_encIn | apply kp_outWrite)
    | (with_reducible refine KeepsP.p1 ?_) | (with_reducible refine KeepsP.p2 ?_) | (with_reducible refine KeepsP.p22 ?_)
    | (with_reducible refine KeepsP.kx ?_) | (with_reducible refine KeepsP.p2x ?_) | (with_reducible refine Keeps.of2x (by assumption) ?_)
    | (with_reducible refine KeepsP.vio1 ?_) | (with_reducible refine KeepsP.encin ?_) | (with_reducible refine KeepsP.vio ?_)
    | (with_reducible refine Keeps.of1v (by assumption) ?_) | (with_reducible refine Keeps.of2 (by assumption) ?_)
    | (with_reducible refine Keeps.of1 (by assumption) ?_) | (with_reducible refine Keeps.of3 (by assumption) ?_)
    | (with_reducible exact Keeps.mk (by assumption))

theorem kp_sliceTold {z : State} (v : Nat) (slice : Nat) (rows : Nat) (y : VSess) (j : VJob) (n : Nat) (pois : Bool) (s : State) (hs : Keeps z s) :
    Keeps z (sliceTold v slice rows y j n pois s) := by
  unfold sliceTold
  repeat' first
    | (with_reducible assumption)
    | (extract_lets +onlyGivenNames lv; first | (have hx : Keeps z lv := ?_; generalize lv = w at hx ⊢; clear lv; rotate_left; subst lv) | (generalize lv = w; clear lv) | subst lv)
    | (with_reducible apply kp_bump64) | (with_reducible apply kp_raise) | (with_reducible apply kp_hqNote) | (with_reducible apply kp_vNotify)
    | (with_reducible apply kp_setVj) | split | (with_reducible exact Keeps.mk (by assumption))

theorem kp_execSliceNote {z : State} (v : Nat) (slice : Nat) (rows : Nat) (g : VSlice) (data : List Byte) (hs : List (List (Option Nat))) (s : State) (hks : Keeps z s) :
    KeepsR z (execSliceNote v slice rows g data hs s) := by
  unfold execSliceNote
  repeat' first
    | (with_reducible assumption)
    | (extract_lets +onlyGivenNames lv; first | (have hx : Keeps z lv := ?_; generalize lv = w at hx ⊢; clear lv; rotate_left; subst lv) | (have hv : KeepsP (fun y : _ × Kx => y.2.s) z lv := ?_; obtain ⟨w, e, hx⟩ : ∃ w, w = lv ∧ KeepsP (fun y : _ × Kx => y.2.s) z w := ⟨lv, rfl, hv⟩; try rw [← e]; clear e hv lv; replace hx : Keeps z w.2.s := hx; rotate_left; subst lv) | (have hv : KeepsP (fun y : Kx => y.s) z lv := ?_; obtain ⟨w, e, hx⟩ : ∃ w, w = lv ∧ KeepsP (fun y : Kx => y.s) z w := ⟨lv, rfl, hv⟩; try rw [← e]; clear e hv lv; replace hx : Keeps z w.s := hx; rotate_left; subst lv) | (have hv : KeepsP (fun y : VIo => y.s) z lv := ?_; obtain ⟨w, e, hx⟩ : ∃ w, w = lv ∧ KeepsP (fun y : VIo => y.s) z w := ⟨lv, rfl, hv⟩; try rw [← e]; clear e hv lv; replace hx : Keeps z w.s := hx; rotate_left; subst lv) | (have hv : KeepsP (fun y : EncIn => y.io.s) z lv := ?_; obtain ⟨w, e, hx⟩ : ∃ w, w = lv ∧ KeepsP (fun y : EncIn => y.io.s) z w := ⟨lv, rfl, hv⟩; try rw [← e]; clear e hv lv; replace hx : Keeps z w.io.s := hx; rotate_left; subst lv) | (have hv : KeepsP (fun y : VIo × _ => y.1.s) z lv := ?_; obtain ⟨w, e, hx⟩ : ∃ w, w = lv ∧ KeepsP (fun y : VIo × _ => y.1.s) z w := ⟨lv, rfl, hv⟩; try rw [← e]; clear e hv lv; replace hx : Keeps z w.1.s := hx; rotate_left; subst lv) | (generalize lv = w; clear lv) | subst lv)
    | (with_reducible refine KeepsR.next ?_) | (with_reducible apply kp_sliceOut) | (with_reducible apply kp_vIoEnd)
    | (with_reducible apply kp_sliceTold) | split | (with_reducible refine KeepsP.mk ?_; with_reducible first | assumption | apply kp_sliceOut)
    | (with_reducible refine KeepsP.p1 ?_) | (with_reducible refine KeepsP.p2 ?_) | (with_reducible refine KeepsP.p22 ?_)
    | (with_reducible refine KeepsP.kx ?_) | (with_reducible refine KeepsP.p2x ?_) | (with_reducible refine Keeps.of2x (by assumption) ?_)
    | (with_reducible refine KeepsP.vio1 ?_) | (with_reducible refine KeepsP.encin ?_) | (with_reducible refine KeepsP.vio ?_)
    | (with_reducible refine Keeps.of1v (by assumption) ?_) | (with_reducible refine Keeps.of2 (by assumption) ?_)
    | (with_reducible refine Keeps.of1 (by assumption) ?_) | (with_reducible refine Keeps.of3 (by assumption) ?_)

theorem kp_jobOut {z : State} (v : Nat) (j : VJob) (y : VSess) (hs : List (List (Option Nat))) (s : State) (ks : Keeps z s) :
    Keeps z (jobOut v j y hs s).s := by
  change KeepsP (fun y : VIo => y.s) z _
  unfold jobOut
  repeat' first
    | (with_reducible assumption)
    | (extract_lets +onlyGivenNames lv; first | (have hx : Keeps z lv := ?_; generalize lv = w at hx ⊢; clear lv; rotate_left; subst lv) | (have hv : KeepsP (fun y : VIo => y.s) z lv := ?_; obtain ⟨w, e, hx⟩ : ∃ w, w = lv ∧ KeepsP (fun y : VIo => y.s) z w := ⟨lv, rfl, hv⟩; try rw [← e]; clear e hv lv; replace hx : Keeps z w.s := hx; rotate_left; subst lv) | (generalize lv = w; clear lv) | subst lv)
    | (with_reducible apply kp_vComplete) | (with_reducible apply kp_vaWrite) | (with_reducible apply kp_setVs) | split
    | (with_reducible refine KeepsP.mk ?_; with_reducible first | assumption | apply kp_vaWrite) | (with_reducible refine KeepsP.vio ?_) | dsimp only
    | (with_reducible exact Keeps.mk (by assumption))

theorem kp_execVideoJobDone {z : State} (v : Nat) (key : Nat) (hs : List (List (Option Nat))) (s : State) (hks : Keeps z s) :
    KeepsR z (execVideoJobDone v key hs s) := by
  unfold execVideoJobDone
  repeat' first
    | (with_reducible assumption) | intro _ | (with_reducible refine KeepsR.next ?_) | (with_reducible apply kp_jobOut) | split
    | (with_reducible refine KeepsP.mk ?_; with_reducible first | assumption | apply kp_jobOut) | (with_reducible refine KeepsP.p1 ?_)
    | (with_reducible refine KeepsP.p2 ?_) | (with_reducible refine KeepsP.p22 ?_) | (with_reducible refine KeepsP.kx ?_)
    | (with_reducible refine KeepsP.p2x ?_) | (with_reducible refine Keeps.of2x (by assumption) ?_) | (with_reducible refine KeepsP.vio1 ?_)
    | (with_reducible refine KeepsP.encin ?_) | (with_reducible refine KeepsP.vio ?_) | (with_reducible refine Keeps.of1v (by assumption) ?_)
    | (with_reducible refine Keeps.of2 (by assumption) ?_) | (with_reducible refine Keeps.of1 (by assumption) ?_)
    | (with_reducible refine Keeps.of3 (by assumption) ?_)

theorem kp_outAll {z : State} (v : Nat) (k : Nat) (n : Nat) (a : Nat) (a4 : VIo) (ha4 : Keeps z a4.s) :
    Keeps z (outAll v k n a a4).s := by
  induction a generalizing v k n a4 with
  | zero => change KeepsP (fun y : VIo => y.s) z _; unfold outAll; repeat' first
    | (with_reducible assumption) | (with_reducible apply kp_jobOut) | split
    | (with_reducible refine KeepsP.mk ?_; with_reducible first | assumption | apply ih | apply kp_jobOut) | (with_reducible refine KeepsP.vio ?_)
    | dsimp only | (with_reducible exact Keeps.mk (by assumption))
  | succ w ih => change KeepsP (fun y : VIo => y.s) z _; unfold outAll; repeat' first
    | (with_reducible assumption) | (with_reducible apply ih) | (with_reducible apply kp_jobOut) | split
    | (with_reducible refine KeepsP.mk ?_; with_reducible first | assumption | apply ih | apply kp_jobOut) | (with_reducible refine KeepsP.vio ?_)
    | dsimp only | (with_reducible exact Keeps.mk (by assumption))

theorem kp_execEndOfStream {z : State} (v : Nat) (n : Nat) (k : Nat) (hs : List (List (Option Nat))) (s : State) (ks : Keeps z s) :
    KeepsR z (execEndOfStream v n k hs s) := by
  unfold execEndOfStream
  repeat' first
    | (with_reducible assumption)
    | (extract_lets +onlyGivenNames lv; first | (have hx : Keeps z lv := ?_; generalize lv = w at hx ⊢; clear lv; rotate_left; subst lv) | (have hv : KeepsP (fun y : VIo => y.s) z lv := ?_; obtain ⟨w, e, hx⟩ : ∃ w, w = lv ∧ KeepsP (fun y : VIo => y.s) z w := ⟨lv, rfl, hv⟩; try rw [← e]; clear e hv lv; replace hx : Keeps z w.s := hx; rotate_left; subst lv) | (generalize lv = w; clear lv) | subst lv)
    | (with_reducible apply kp_vEnd) | (with_reducible apply kp_outAll) | split
    | (with_reducible refine KeepsP.mk ?_; with_reducible first | assumption | apply kp_outAll) | (with_reducible refine KeepsP.vio ?_)
    | (with_reducible refine KeepsR.next ?_) | dsimp only | (with_reducible exact Keeps.mk (by assumption))

theorem kp_tnzRow {z : State} (y : VSess) (va : Nat) (row : Nat) (a : List (Nat × Nat × Nat × Bool)) (a4 : VIo) (ha4 : Keeps z a4.s) :
    Keeps z (tnzRow y va row a a4).s := by
  induction a generalizing y va row a4 with
  | nil => change KeepsP (fun y : VIo => y.s) z _; unfold tnzRow; repeat' first
    | (with_reducible assumption)
    | (extract_lets +onlyGivenNames lv; first | (have hx : Keeps z lv := ?_; generalize lv = w at hx ⊢; clear lv; rotate_left; subst lv) | (have hv : KeepsP (fun y : VIo => y.s) z lv := ?_; obtain ⟨w, e, hx⟩ : ∃ w, w = lv ∧ KeepsP (fun y : VIo => y.s) z w := ⟨lv, rfl, hv⟩; try rw [← e]; clear e hv lv; replace hx : Keeps z w.s := hx; rotate_left; subst lv) | (generalize lv = w; clear lv) | subst lv)
    | (with_reducible apply kp_vaWrite) | split
    | (with_reducible refine KeepsP.mk ?_; with_reducible first | assumption | apply ih | apply kp_vaWrite) | (with_reducible refine KeepsP.vio ?_)
    | dsimp only
  | cons w w1 ih => change KeepsP (fun y : VIo => y.s) z _; unfold tnzRow; repeat' first
    | (with_reducible assumption)
    | (extract_lets +onlyGivenNames lv; first | (have hx : Keeps z lv := ?_; generalize lv = w at hx ⊢; clear lv; rotate_left; subst lv) | (have hv : KeepsP (fun y : VIo => y.s) z lv := ?_; obtain ⟨w, e, hx⟩ : ∃ w, w = lv ∧ KeepsP (fun y : VIo => y.s) z w := ⟨lv, rfl, hv⟩; try rw [← e]; clear e hv lv; replace hx : Keeps z w.s := hx; rotate_left; subst lv) | (generalize lv = w; clear lv) | subst lv)
    | (with_reducible apply ih) | (with_reducible apply kp_vaWrite) | split
    | (with_reducible refine KeepsP.mk ?_; with_reducible first | assumption | apply ih | apply kp_vaWrite) | (with_reducible refine KeepsP.vio ?_)
    | dsimp only

theorem kp_tnzDone {z : State} (v : Nat) (y : VSess) (j : VJob) (es : List (Nat × Nat × Nat × Bool)) (pois : Bool) (s : State) (hs : Keeps z s) :
    Keeps z (tnzDone v y j es pois s) := by
  unfold tnzDone
  repeat' first
    | (with_reducible assumption) | intro _
    | (extract_lets +onlyGivenNames lv; first | (have hx : Keeps z lv := ?_; generalize lv = w at hx ⊢; clear lv; rotate_left; subst lv) | (generalize lv = w; clear lv) | subst lv)
    | (with_reducible apply kp_raise) | (with_reducible apply kp_bump) | (with_reducible apply kp_bump64) | (with_reducible apply kp_setVj) | split
    | (with_reducible exact Keeps.mk (by assumption))

theorem kp_execTensorizeRow {z : State} (v : Nat) (key : Nat) (vals : List (BitVec 32)) (bad : List Nat) (hs : List (List (Option Nat))) (s : State) (hks : Keeps z s) :
    KeepsR z (execTensorizeRow v key vals bad hs s) := by
  unfold execTensorizeRow
  repeat' first
    | (with_reducible assumption) | intro _
    | (extract_lets +onlyGivenNames lv; first | (have hx : Keeps z lv := ?_; generalize lv = w at hx ⊢; clear lv; rotate_left; subst lv) | (have hv : KeepsP (fun y : _ × Kx => y.2.s) z lv := ?_; obtain ⟨w, e, hx⟩ : ∃ w, w = lv ∧ KeepsP (fun y : _ × Kx => y.2.s) z w := ⟨lv, rfl, hv⟩; try rw [← e]; clear e hv lv; replace hx : Keeps z w.2.s := hx; rotate_left; subst lv) | (have hv : KeepsP (fun y : Kx => y.s) z lv := ?_; obtain ⟨w, e, hx⟩ : ∃ w, w = lv ∧ KeepsP (fun y : Kx => y.s) z w := ⟨lv, rfl, hv⟩; try rw [← e]; clear e hv lv; replace hx : Keeps z w.s := hx; rotate_left; subst lv) | (have hv : KeepsP (fun y : VIo => y.s) z lv := ?_; obtain ⟨w, e, hx⟩ : ∃ w, w = lv ∧ KeepsP (fun y : VIo => y.s) z w := ⟨lv, rfl, hv⟩; try rw [← e]; clear e hv lv; replace hx : Keeps z w.s := hx; rotate_left; subst lv) | (have hv : KeepsP (fun y : EncIn => y.io.s) z lv := ?_; obtain ⟨w, e, hx⟩ : ∃ w, w = lv ∧ KeepsP (fun y : EncIn => y.io.s) z w := ⟨lv, rfl, hv⟩; try rw [← e]; clear e hv lv; replace hx : Keeps z w.io.s := hx; rotate_left; subst lv) | (have hv : KeepsP (fun y : VIo × _ => y.1.s) z lv := ?_; obtain ⟨w, e, hx⟩ : ∃ w, w = lv ∧ KeepsP (fun y : VIo × _ => y.1.s) z w := ⟨lv, rfl, hv⟩; try rw [← e]; clear e hv lv; replace hx : Keeps z w.1.s := hx; rotate_left; subst lv) | (generalize lv = w; clear lv) | subst lv)
    | (with_reducible refine KeepsR.next ?_) | (with_reducible apply kp_tnzRow) | (with_reducible apply kp_vEnd) | (with_reducible apply kp_tnzDone)
    | split | (with_reducible refine KeepsP.mk ?_; with_reducible first | assumption | apply kp_tnzRow) | (with_reducible refine KeepsP.p1 ?_)
    | (with_reducible refine KeepsP.p2 ?_) | (with_reducible refine KeepsP.p22 ?_) | (with_reducible refine KeepsP.kx ?_)
    | (with_reducible refine KeepsP.p2x ?_) | (with_reducible refine Keeps.of2x (by assumption) ?_) | (with_reducible refine KeepsP.vio1 ?_)
    | (with_reducible refine KeepsP.encin ?_) | (with_reducible refine KeepsP.vio ?_) | (with_reducible refine Keeps.of1v (by assumption) ?_)
    | (with_reducible refine Keeps.of2 (by assumption) ?_) | (with_reducible refine Keeps.of1 (by assumption) ?_)
    | (with_reducible refine Keeps.of3 (by assumption) ?_)

end Sys2Proof.Machine
end

