-- ==== Sys2Proof/Laws/KeepsRegRows.lean ====
section
/-! SUPPORT. What every operation of Machine/RegRows.lean keeps. -/
set_option linter.all false

namespace Sys2Proof.Machine

theorem kp_thenState {z : State} (r : Res) (s : State) (hr : KeepsR z r) (hs : Keeps z s) :
    Keeps z (thenState r s) := by
  unfold thenState
  repeat' first
    | (with_reducible assumption) | split | (with_reducible exact KeepsR.out (by assumption)) | dsimp only
    | (with_reducible exact Keeps.mk (by assumption))

theorem kp_plainThen {z : State} (fn : Nat) (a : Nat) (v : Nat) (k : State → State) (s : State) (hk : ∀ y0, Keeps z y0 → Keeps z (k y0)) (hs : Keeps z s) :
    Keeps z (plainThen fn a v k s) := by
  unfold plainThen
  repeat' first
    | (with_reducible assumption) | intro _ | (with_reducible apply hk) | (with_reducible apply kp_barWrite) | (with_reducible apply kp_writeReg)
    | dsimp only

theorem kp_plainWrite {z : State} (fn : Nat) (a : Nat) (v : Nat) (s : State) (hs : Keeps z s) :
    Keeps z (plainWrite fn a v s) := by
  unfold plainWrite
  repeat' first
    | (with_reducible assumption) | intro _ | (with_reducible apply kp_barWrite) | (with_reducible apply kp_writeShadow)
    | (with_reducible apply kp_writeHi) | (with_reducible apply kp_writeReg) | split | dsimp only | (with_reducible exact Keeps.mk (by assumption))

theorem kp_headerWrite {z : State} (fn : Nat) (a : Nat) (v : Nat) (s : State) (hs : Keeps z s) :
    Keeps z (headerWrite fn a v s) := by
  unfold headerWrite
  repeat' first
    | (with_reducible assumption)
    | (extract_lets +onlyGivenNames lv; first | (have hx : Keeps z lv := ?_; generalize lv = w at hx ⊢; clear lv; rotate_left; subst lv) | (generalize lv = w; clear lv) | subst lv)
    | (with_reducible apply kp_lifeWrite) | (with_reducible apply kp_thenState) | (with_reducible apply kp_execPgEvtClear)
    | (with_reducible apply kp_execPgEvtEnWrite) | (with_reducible apply kp_execPgEvtRouteWrite) | (with_reducible apply kp_execPgErrCntClr)
    | (with_reducible apply kp_execPgErrFirstClear) | (with_reducible apply kp_execPgLockSet) | (with_reducible apply kp_execPgOwnerWrite)
    | (with_reducible apply kp_plainWrite) | split | dsimp only | (with_reducible exact Keeps.mk (by assumption))

theorem kp_thmWrite {z : State} (fn : Nat) (i : Nat) (a : Nat) (v : Nat) (s : State) (hs : Keeps z s) :
    Keeps z (thmWrite fn i a v s) := by
  unfold thmWrite
  repeat' first
    | (with_reducible assumption)
    | (extract_lets +onlyGivenNames lv; first | (have hx : Keeps z lv := ?_; generalize lv = w at hx ⊢; clear lv; rotate_left; subst lv) | (generalize lv = w; clear lv) | subst lv)
    | (with_reducible apply kp_thenState) | (with_reducible apply kp_execThmThresholdWrite) | (with_reducible apply kp_execThmShutClear)
    | (with_reducible apply kp_plainWrite) | (with_reducible apply kp_execThmCapWrite) | (with_reducible apply kp_weightsManual) | split

theorem kp_islWrite {z : State} (fn : Nat) (j : Nat) (a : Nat) (v : Nat) (s : State) (hs : Keeps z s) :
    Keeps z (islWrite fn j a v s) := by
  unfold islWrite
  repeat' first
    | (with_reducible assumption) | (with_reducible apply kp_thenState) | (with_reducible apply kp_execIslCtlManualWrite)
    | (with_reducible apply kp_execIslCmd) | (with_reducible apply kp_execIslFlagsVrFaultClear) | (with_reducible apply kp_plainWrite) | split

theorem kp_rtrWrite {z : State} (fn : Nat) (j : Nat) (a : Nat) (v : Nat) (s : State) (hs : Keeps z s) :
    Keeps z (rtrWrite fn j a v s) := by
  unfold rtrWrite
  repeat' first
    | (with_reducible assumption) | intro _ | (with_reducible apply kp_plainWrite) | (with_reducible apply kp_thenState)
    | (with_reducible apply kp_execRtrHostfmRelease) | (with_reducible apply kp_execRtrHostfmClaim) | (with_reducible apply kp_plainThen) | split
    | (with_reducible exact Keeps.mk (by assumption))

theorem kp_hqWrite {z : State} (fn : Nat) (n : Nat) (a : Nat) (v : Nat) (s : State) (hs : Keeps z s) :
    Keeps z (hqWrite fn n a v s) := by
  unfold hqWrite
  repeat' first
    | (with_reducible assumption)
    | (extract_lets +onlyGivenNames lv; first | (have hx : Keeps z lv := ?_; generalize lv = w at hx ⊢; clear lv; rotate_left; subst lv) | (generalize lv = w; clear lv) | subst lv)
    | (with_reducible apply kp_plainWrite) | (with_reducible apply kp_lifeWrite) | (with_reducible apply kp_thenState)
    | (with_reducible apply kp_execHqCfgWrite) | (with_reducible apply kp_execHqDestWrite) | (with_reducible apply kp_execHqFlush) | split
    | dsimp only | (with_reducible exact Keeps.mk (by assumption))

theorem kp_herdWrite {z : State} (fn : Nat) (n : Nat) (a : Nat) (v : Nat) (s : State) (hs : Keeps z s) :
    Keeps z (herdWrite fn n a v s) := by
  unfold herdWrite
  repeat' first
    | (with_reducible assumption)
    | (extract_lets +onlyGivenNames lv; first | (have hx : Keeps z lv := ?_; generalize lv = w at hx ⊢; clear lv; rotate_left; subst lv) | (generalize lv = w; clear lv) | subst lv)
    | (with_reducible apply kp_thenState) | (with_reducible apply kp_execHerdReset) | (with_reducible apply kp_execHerdResize)
    | (with_reducible apply kp_execHerdShareWrite) | (with_reducible apply kp_plainWrite) | split | dsimp only

theorem kp_kvmWrite {z : State} (fn : Nat) (a : Nat) (v : Nat) (s : State) (hs : Keeps z s) :
    Keeps z (kvmWrite fn a v s) := by
  unfold kvmWrite
  repeat' first
    | (with_reducible assumption) | intro _ | (with_reducible apply kp_thenState) | (with_reducible apply kp_execKvmOpgo)
    | (with_reducible apply kp_plainThen) | (with_reducible apply kp_showKvm) | (with_reducible apply kp_plainWrite) | split | dsimp only
    | (with_reducible exact Keeps.mk (by assumption))

theorem kp_vecWrite {z : State} (fn : Nat) (i : Nat) (a : Nat) (v : Nat) (s : State) (hs : Keeps z s) :
    Keeps z (vecWrite fn i a v s) := by
  unfold vecWrite
  repeat' first
    | (with_reducible assumption) | intro _ | (with_reducible apply kp_plainWrite) | (with_reducible apply kp_plainThen) | split
    | (with_reducible exact Keeps.mk (by assumption))

theorem kp_xlatWrite {z : State} (fn : Nat) (i : Nat) (a : Nat) (v : Nat) (s : State) (hs : Keeps z s) :
    Keeps z (xlatWrite fn i a v s) := by
  unfold xlatWrite
  repeat' first
    | (with_reducible assumption) | intro _
    | (extract_lets +onlyGivenNames lv; first | (have hx : Keeps z lv := ?_; generalize lv = w at hx ⊢; clear lv; rotate_left; subst lv) | (generalize lv = w; clear lv) | subst lv)
    | (with_reducible apply kp_thenState) | (with_reducible apply kp_execXlatPagerWrite) | (with_reducible apply kp_execXlatPcomp)
    | (with_reducible apply kp_execXlatInv) | (with_reducible apply kp_execTierEnable) | (with_reducible apply kp_barWrite)
    | (with_reducible apply kp_writeShadow) | (with_reducible apply kp_raise) | (with_reducible apply kp_writeHw) | split
    | (with_reducible exact Keeps.mk (by assumption))

theorem kp_msgWrite {z : State} (fn : Nat) (i : Nat) (a : Nat) (v : Nat) (s : State) (hs : Keeps z s) :
    Keeps z (msgWrite fn i a v s) := by
  unfold msgWrite
  repeat' first
    | (with_reducible assumption)
    | (extract_lets +onlyGivenNames lv; first | (have hx : Keeps z lv := ?_; generalize lv = w at hx ⊢; clear lv; rotate_left; subst lv) | (generalize lv = w; clear lv) | subst lv)
    | (with_reducible apply kp_plainWrite) | (with_reducible apply kp_thenState) | (with_reducible apply kp_execMsgChBufWrite)
    | (with_reducible apply kp_execMsgChFlush) | split | dsimp only | (with_reducible exact Keeps.mk (by assumption))

theorem kp_dbgWrite {z : State} (fn : Nat) (i : Nat) (a : Nat) (v : Nat) (s : State) (hs : Keeps z s) :
    Keeps z (dbgWrite fn i a v s) := by
  unfold dbgWrite
  repeat' first
    | (with_reducible assumption)
    | (extract_lets +onlyGivenNames lv; first | (have hx : Keeps z lv := ?_; generalize lv = w at hx ⊢; clear lv; rotate_left; subst lv) | (generalize lv = w; clear lv) | subst lv)
    | (with_reducible apply kp_thenState) | (with_reducible apply kp_execDbgPause) | (with_reducible apply kp_execDbgResume)
    | (with_reducible apply kp_execDbgStep) | (with_reducible apply kp_execDbgDataCommit) | (with_reducible apply kp_plainWrite) | split | dsimp only
    | (with_reducible exact Keeps.mk (by assumption))

theorem kp_regWrite {z : State} (fn : Nat) (a : Nat) (v : Nat) (s : State) (hs : Keeps z s) :
    Keeps z (regWrite fn a v s) := by
  unfold regWrite
  repeat' first
    | (with_reducible assumption) | intro _
    | (extract_lets +onlyGivenNames lv; first | (have hx : Keeps z lv := ?_; generalize lv = w at hx ⊢; clear lv; rotate_left; subst lv) | (generalize lv = w; clear lv) | subst lv)
    | (with_reducible apply kp_headerWrite) | (with_reducible apply kp_thenState) | (with_reducible apply kp_execMbCmd)
    | (with_reducible apply kp_barWrite) | (with_reducible apply kp_raise) | (with_reducible apply kp_writeReg) | (with_reducible apply kp_thmWrite)
    | (with_reducible apply kp_islWrite) | (with_reducible apply kp_execBrgCtlWrite) | (with_reducible apply kp_plainWrite)
    | (with_reducible apply kp_execRlpCtlWrite) | (with_reducible apply kp_rtrWrite) | (with_reducible apply kp_execE2eLeave)
    | (with_reducible apply kp_hqWrite) | (with_reducible apply kp_kvmWrite) | (with_reducible apply kp_herdWrite)
    | (with_reducible apply kp_execSeqStart) | (with_reducible apply kp_execSeqAbort) | (with_reducible apply kp_execSeqTsig)
    | (with_reducible apply kp_plainThen) | (with_reducible apply kp_setSeq) | (with_reducible apply kp_vecWrite)
    | (with_reducible apply kp_execStrmCtlWrite) | (with_reducible apply kp_lifeWrite) | (with_reducible apply kp_execBeadCodeCtlWrite)
    | (with_reducible apply kp_execBeadRclassWrite) | (with_reducible apply kp_execBeadWback) | (with_reducible apply kp_xlatWrite)
    | (with_reducible apply kp_msgWrite) | (with_reducible apply kp_execKvPoolCfgWrite) | (with_reducible apply kp_showKv)
    | (with_reducible apply kp_execSensePaceMmClr) | (with_reducible apply kp_execSenseTmaxClr) | (with_reducible apply kp_dbgWrite) | split

theorem kp_refuseForm {z : State} (fn : Nat) (a : Nat) (s : State) (hs : Keeps z s) :
    Keeps z (refuseForm fn a s) := by
  unfold refuseForm
  repeat' first
    | (with_reducible assumption) | intro _ | (with_reducible apply kp_barWrite) | (with_reducible apply kp_raise) | dsimp only

theorem kp_execRegisterWrite {z : State} (fn : Nat) (off : Nat) (size : Nat) (v : Nat) (be : Nat) (s : State) (hs : Keeps z s) :
    KeepsR z (execRegisterWrite fn off size v be s) := by
  unfold execRegisterWrite
  repeat' first
    | (with_reducible assumption) | (with_reducible apply kp_regWrite) | (with_reducible apply kp_refuseForm) | split
    | (with_reducible refine KeepsR.next ?_) | dsimp only

end Sys2Proof.Machine
end

