-- ==== Sys2Proof/Laws/Links.lean ====
section
/-! SUPPORT. Laws of the links: reading a direction of a bridge link or the link state of an RL port after storing one, and what an error
record leaves of them. -/
namespace Sys2Proof.Machine

@[simp] theorem brgDir_set_same (n d : Nat) (l : LinkDir) (s : State) : brgDir n d (setBrgDir n d l s) = l := by
  simp [brgDir, setBrgDir, alGetD]

theorem brgDir_set_ne {n d m e : Nat} (l : LinkDir) (s : State) (h : m * 2 + e ≠ n * 2 + d) :
    brgDir m e (setBrgDir n d l s) = brgDir m e s := by
  simp [brgDir, setBrgDir, alGetD, alGet_alSet_ne _ _ h]

/-- A direction of a bridge link after another is stored. -/
theorem brgDir_set (n d m e : Nat) (l : LinkDir) (s : State) (he : e < 2) (hd : d < 2) :
    brgDir m e (setBrgDir n d l s) = if m = n ∧ e = d then l else brgDir m e s := by
  by_cases h : m * 2 + e = n * 2 + d
  · obtain ⟨rfl, rfl⟩ : m = n ∧ e = d := by omega
    simp
  · rw [brgDir_set_ne _ _ h, if_neg]; rintro ⟨rfl, rfl⟩; exact h rfl

@[simp] theorem portOf_set_same (p : Nat) (l : LinkDir) (s : State) : portOf p (setPort p l s) = l := by
  simp [portOf, setPort, alGetD]

theorem portOf_set_ne {p q : Nat} (l : LinkDir) (s : State) (h : q ≠ p) : portOf q (setPort p l s) = portOf q s := by
  simp [portOf, setPort, alGetD, alGet_alSet_ne _ _ h]

@[simp] theorem brgDir_emit (m e : Nat) (x : Out) (s : State) : brgDir m e (emit x s) = brgDir m e s := rfl

@[simp] theorem brgDir_tell (n d m e : Nat) (f : List Nat) (s : State) : brgDir m e (brgTell n d f s) = brgDir m e s := rfl

theorem brgTell_out (n d : Nat) (f : List Nat) (s : State) : (brgTell n d f s).out = s.out ++ [brgTold n d (brgDir n (1 - d) s).ack f] := rfl

@[simp] theorem portOf_emit (p : Nat) (x : Out) (s : State) : portOf p (emit x s) = portOf p s := rfl

@[simp] theorem portOf_wrW (p a : Nat) (v : Word) (s : State) : portOf p (wrW a v s) = portOf p s := rfl

@[simp] theorem portOf_bump64 (p a k : Nat) (s : State) : portOf p (bump64 a k s) = portOf p s := by
  unfold bump64 wr64; rw [portOf_wrW, portOf_wrW]

/-- Storing a pair, or counting in one, changes registers only. -/
theorem wr64_regsOnly (a v : Nat) (s : State) : wr64 a v s = { s with regs := (wr64 a v s).regs } := rfl

theorem bump64_regsOnly (a k : Nat) (s : State) : bump64 a k s = { s with regs := (bump64 a k s).regs } := wr64_regsOnly _ _ _

/-- An event or an error record leaves every link as it was. -/
theorem ErrorsOnly.links {s t : State} (h : ErrorsOnly s t) : t.links = s.links := by rw [h.rest]

theorem ErrorsOnly.ports {s t : State} (h : ErrorsOnly s t) : t.ports = s.ports := by rw [h.rest]

@[simp] theorem took_run (t : Take) (vc : Nat) (l : LinkDir) : (l.took t vc).run = l.run := by unfold LinkDir.took; split <;> rfl

@[simp] theorem took_replay (t : Take) (vc : Nat) (l : LinkDir) : (l.took t vc).replay = l.replay := by unfold LinkDir.took; split <;> rfl

/-- A bridge flit that fails its CRC leaves every link direction as it was. -/
@[simp] theorem brgDir_crcFail (n d seq m e : Nat) (s : State) : brgDir m e (brgCrcFail n d seq s) = brgDir m e s := by
  unfold brgCrcFail brgDir; rw [(recordCE_only _ _ _ _ _).links]; rfl

/-- Returning credits changes only what the receiver has told. -/
theorem brgSendCredit_dir (n d : Nat) (s : State) : brgDir n d (brgSendCredit n d s) = { brgDir n d s with told := (brgDir n d s).freed } := by
  simp [brgSendCredit]

theorem brgSendCredit_ne {n d m e : Nat} (s : State) (h : m * 2 + e ≠ n * 2 + d) : brgDir m e (brgSendCredit n d s) = brgDir m e s := by
  unfold brgSendCredit; simp [brgDir_set_ne _ _ h]

/-- Between `s` and `t` only links, their times and what is sent differ. -/
structure LinksOnly (s t : State) : Prop where
  rest : t = { s with links := t.links, linkT := t.linkT, out := t.out }

theorem LinksOnly.trans {a b c : State} (h : LinksOnly a b) (k : LinksOnly b c) : LinksOnly a c := by
  obtain ⟨h⟩ := h
  obtain ⟨k⟩ := k
  constructor
  rw [k, h]

theorem setBrgDir_lo (n d : Nat) (l : LinkDir) (s : State) : LinksOnly s (setBrgDir n d l s) := ⟨rfl⟩

theorem emit_lo (x : Out) (s : State) : LinksOnly s (emit x s) := ⟨rfl⟩

theorem brgSendCredit_lo (n d : Nat) (s : State) : LinksOnly s (brgSendCredit n d s) := (setBrgDir_lo _ _ _ _).trans (emit_lo _ _)

theorem brgTell_lo (n d : Nat) (f : List Nat) (s : State) : LinksOnly s (brgTell n d f s) := emit_lo _ _

/-- A NAK or a dropped flit leaves the acknowledgement of its direction. -/
theorem took_ack {t : Take} (vc : Nat) (l : LinkDir) (h : t ≠ .accept) : (l.took t vc).ack = l.ack := by
  cases t <;> first | exact absurd rfl h | rfl

/-- What the header of a flit whose CRC passed can do: the receiver's choice, its direction, the acknowledged direction, and nothing else. -/
theorem brgHeader_ok (n d seq ack vc : Nat) (s : State) (hd : d < 2) :
    (brgHeader n d seq ack vc true s).1 = (brgDir n d s).take 256 seq true
    ∧ (∃ told, brgDir n d (brgHeader n d seq ack vc true s).2
        = { (brgDir n d s).took ((brgDir n d s).take 256 seq true) vc with told := told }
        ∧ ((brgDir n d s).take 256 seq true ≠ .accept → told = (brgDir n d s).told))
    ∧ brgDir n (1 - d) (brgHeader n d seq ack vc true s).2 = (brgDir n (1 - d) s).acked ack
    ∧ (∀ m e, e < 2 → m ≠ n → brgDir m e (brgHeader n d seq ack vc true s).2 = brgDir m e s)
    ∧ (brgHeader n d seq ack vc true s).2 = { s with
        links := (brgHeader n d seq ack vc true s).2.links, linkT := (brgHeader n d seq ack vc true s).2.linkT, out := (brgHeader n d seq ack vc true s).2.out }
    ∧ ((brgDir n d s).take 256 seq true ≠ .accept → (brgHeader n d seq ack vc true s).2.out = s.out ++
        match (brgDir n d s).take 256 seq true with
        | .nak => [brgTold n (1 - d) (brgDir n d s).ack [2, (brgDir n d s).rxNext]]
        | .duplicate => [brgTold n (1 - d) (brgDir n d s).ack [0]]
        | _ => []) := by
  have ne : n * 2 + d ≠ n * 2 + (1 - d) := by omega
  have ne' : n * 2 + (1 - d) ≠ n * 2 + d := by omega
  have dd : 1 - (1 - d) = d := by omega
  unfold brgHeader
  simp only [if_true, brgDir_set_ne _ _ ne]
  generalize (brgDir n d s).take 256 seq true = t
  have far : ∀ m e, e < 2 → m ≠ n → m * 2 + e ≠ n * 2 + d ∧ m * 2 + e ≠ n * 2 + (1 - d) := by omega
  cases t
  · dsimp only
    split
    · refine ⟨rfl, ⟨_, by rw [brgSendCredit_dir, brgDir_set_same], by simp⟩, ?_, ?_, ?_, by simp⟩
      · rw [brgSendCredit_ne _ ne', brgDir_set_ne _ _ ne', brgDir_set_same]
      · intro m e he h; rw [brgSendCredit_ne _ (far m e he h).1, brgDir_set_ne _ _ (far m e he h).1, brgDir_set_ne _ _ (far m e he h).2]
      · exact (((setBrgDir_lo _ _ _ _).trans (setBrgDir_lo _ _ _ _)).trans (brgSendCredit_lo _ _ _)).rest
    · refine ⟨rfl, ⟨_, by rw [brgDir_set_same], by simp⟩, ?_, ?_, ?_, by simp⟩
      · rw [brgDir_set_ne _ _ ne', brgDir_set_same]
      · intro m e he h; rw [brgDir_set_ne _ _ (far m e he h).1, brgDir_set_ne _ _ (far m e he h).2]
      · exact ((setBrgDir_lo _ _ _ _).trans (setBrgDir_lo _ _ _ _)).rest
  all_goals
    dsimp only
    refine ⟨rfl, ⟨(brgDir n d s).told, ?_, fun _ => rfl⟩, ?_, ?_, ?_, ?_⟩
    · first | rfl | simp [LinkDir.took]
    · simp [brgDir_set_ne _ _ ne']
    · intro m e he h; simp [brgDir_set_ne _ _ (far m e he h).1, brgDir_set_ne _ _ (far m e he h).2]
    · first
      | exact (((setBrgDir_lo _ _ _ _).trans (setBrgDir_lo _ _ _ _)).trans (brgTell_lo _ _ _ _)).rest
      | exact ((setBrgDir_lo _ _ _ _).trans (setBrgDir_lo _ _ _ _)).rest
    · intro _
      first
      | (rw [brgTell_out, dd, brgDir_set_same, took_ack _ _ (by decide)]; rfl)
      | (rw [List.append_nil]; rfl)

/-- What the header of a flit at an RL port does when it passed its CRC and its codeword was correctable. -/
theorem rlHeader_ok (p seq ack vc : Nat) (fec : Bool) (s : State) : ∀ l, (portOf p s).acked ack = l → ∀ t,
    setPort p (l.took (l.take 512 seq true) vc) (setPort p l s) = t →
    rlHeader p seq ack vc true fec s = (l.take 512 seq true,
      match l.take 512 seq true with
      | .nak => rlTell p [1, l.rxNext] t
      | .duplicate => rlTell p [0] t
      | _ => t) := by
  intro l hl t ht
  unfold rlHeader
  simp only [if_true, hl, portOf_set_same, ht]
  cases l.take 512 seq true <;> rfl

end Sys2Proof.Machine
end

