-- ==== Sys2Proof/Laws/RegWrite.lean ====
section
/-! SUPPORT. Laws of BAR0 writes: what reaches a page, what an event shows, and what a write does to each field of a register. -/
namespace Sys2Proof.Machine

/-- A BAR0 write that reaches its page does what follows it. -/
theorem barWrite_goes {fn a : Nat} {k : State → State} {s : State} (h : reaches fn a s) : barWrite fn a k s = k s := by
  obtain ⟨h1, h2, h3, h4⟩ := h
  unfold barWrite; simp only [h1, h3, h4]
  cases hr : regSpec a <;> simp_all

/-- A BAR0 write that finds its function asleep, no register or no page changes nothing. -/
theorem barWrite_lost {fn a : Nat} {k : State → State} {s : State}
    (h : (fnOf fn s).d3 = true ∨ regSpec a = none ∨ pageLive (pageBase a) s = false) : barWrite fn a k s = s := by
  unfold barWrite; rcases h with h | h | h <;> simp [h]

/-- A BAR0 write by another function than the owner raises DENIAL and nothing else (R7). -/
theorem barWrite_denied {fn a : Nat} {k : State → State} {s : State}
    (h1 : (fnOf fn s).d3 = false) (h2 : (regSpec a).isSome = true) (h3 : pageLive (pageBase a) s = true) (h4 : owns fn (pageBase a) s = false) :
    barWrite fn a k s = raise (pageBase a) 2 s := by
  unfold barWrite; simp only [h1, h3, h4]
  cases hr : regSpec a <;> simp_all

theorem pageBase_mod (a : Nat) : pageBase a % 0x1000 = 0 := by unfold pageBase; omega

theorem pageBase_of {p : Nat} (h : p % 0x1000 = 0) : pageBase p = p := by unfold pageBase; omega

theorem pageBase_add {p o : Nat} (h : p % 0x1000 = 0) (ho : o < 0x1000) : pageBase (p + o) = p := by unfold pageBase; omega

theorem evt_ne (p : Nat) (h : p % 0x1000 = 0) (o : Nat) (hx : o % 0x1000 ≠ 0x10) : canon (p + 0x10) ≠ o := by
  intro hc; have := canon_mod (p + 0x10); rw [hc] at this; omega

/-- What raising an event shows and leaves. -/
theorem raise_shown (p b : Nat) (s : State) (hb : b < 32) (hp : p % 0x1000 = 0) :
    bitOf (rdW (p + 0x10) (raise p b s)).toNat b = true
    ∧ (∀ a, canon a ≠ canon (p + 0x10) → canon a ≠ 0x10098 → canon a ≠ 0x1009C → rdW a (raise p b s) = rdW a s)
    ∧ raise p b s = { s with regs := (raise p b s).regs, mgs := (raise p b s).mgs, held := (raise p b s).held, msix := (raise p b s).msix, out := (raise p b s).out } :=
  ⟨raise_bit p b s hb (evt_ne p hp _ (by omega)) (evt_ne p hp _ (by omega)), fun a h1 h2 h3 => rdW_raise p b s h1 h2 h3, (raise_only p b s).rest⟩

/-- A field beside the one written stays. -/
theorem bitsOf_applyField_ne {l o : Bool} {v old : Nat} {f g : FSpec} (hg : g.lo ≤ g.hi) (h : g.hi < f.lo ∨ f.hi < g.lo) :
    bitsOf (applyField l o v old g) f.hi f.lo = bitsOf old f.hi f.lo := by
  have hs : ∀ x, bitsOf (setBits old g.hi g.lo x) f.hi f.lo = bitsOf old f.hi f.lo := fun x => by
    rcases h with h | h
    · exact bitsOf_setBits_above (by omega) h
    · exact bitsOf_setBits_below (by omega) h
  unfold applyField; dsimp only
  split <;> (try split) <;> simp [hs]

/-- A written field by its access type (R6). -/
theorem bitsOf_applyField_same {l o : Bool} {v old : Nat} {f : FSpec} (hf : f.lo ≤ f.hi) :
    bitsOf (applyField l o v old f) f.hi f.lo = fieldAfter f l o (bitsOf old f.hi f.lo) (bitsOf v f.hi f.lo) := by
  have hs : ∀ x, x < 2 ^ (f.hi + 1 - f.lo) → bitsOf (setBits old f.hi f.lo x) f.hi f.lo = x := fun x hx => by
    rw [bitsOf_setBits_same (by omega), Nat.mod_eq_of_lt hx]
  have hv := bitsOf_lt v f.hi f.lo
  have ho := bitsOf_lt old f.hi f.lo
  unfold applyField fieldAfter; dsimp only
  cases hacc : f.acc <;> dsimp only
  · split
    · rfl
    · exact hs _ hv
  · split
    · rfl
    · exact hs _ hv
  · split
    · rfl
    · exact hs _ hv
  · exact hs _ (by omega)
  · exact hs _ (Nat.or_lt_two_pow ho hv)

theorem applyField_lt {l o : Bool} {v old : Nat} {f : FSpec} (hf : f.lo ≤ f.hi) (hh : f.hi < 32) (h : old < 2 ^ 32) : applyField l o v old f < 2 ^ 32 := by
  have hs : ∀ x, setBits old f.hi f.lo x < 2 ^ 32 := fun x => setBits_lt (by omega) hh h
  unfold applyField; dsimp only
  split <;> (try split) <;> first | exact h | exact hs _

theorem applyFields_lt {l o : Bool} {v : Nat} {fl : List FSpec} : ∀ {old : Nat}, (∀ f ∈ fl, f.lo ≤ f.hi ∧ f.hi < 32) → old < 2 ^ 32 → applyFields l o v fl old < 2 ^ 32 := by
  induction fl with
  | nil => intro old _ h; exact h
  | cons g t ih =>
    intro old hb h
    exact ih (fun f hf => hb f (List.mem_cons_of_mem _ hf)) (applyField_lt (hb g (by simp)).1 (hb g (by simp)).2 h)

theorem bitsOf_applyFields_ne {l o : Bool} {v : Nat} {f : FSpec} {fl : List FSpec} : ∀ {old : Nat}, (∀ g ∈ fl, g.lo ≤ g.hi) → (∀ g ∈ fl, g.hi < f.lo ∨ f.hi < g.lo) →
    bitsOf (applyFields l o v fl old) f.hi f.lo = bitsOf old f.hi f.lo := by
  induction fl with
  | nil => intros; rfl
  | cons g t ih =>
    intro old hb h
    show bitsOf (applyFields l o v t _) _ _ = _
    rw [ih (fun g hg => hb g (List.mem_cons_of_mem _ hg)) (fun g hg => h g (List.mem_cons_of_mem _ hg)), bitsOf_applyField_ne (hb g (by simp)) (h g (by simp))]

/-- Each field of a register after a write. -/
theorem bitsOf_applyFields {l o : Bool} {v : Nat} {f : FSpec} {fl : List FSpec} : ∀ {old : Nat}, fl.Pairwise (fun f g => g.hi < f.lo ∨ f.hi < g.lo) → (∀ g ∈ fl, g.lo ≤ g.hi) → f ∈ fl →
    bitsOf (applyFields l o v fl old) f.hi f.lo = fieldAfter f l o (bitsOf old f.hi f.lo) (bitsOf v f.hi f.lo) := by
  induction fl with
  | nil => intro _ _ _ h; cases h
  | cons g t ih =>
    intro old hp hb h
    rw [List.pairwise_cons] at hp
    show bitsOf (applyFields l o v t _) _ _ = _
    rcases List.mem_cons.1 h with e | h
    · subst e; rw [bitsOf_applyFields_ne (f := f) (fun g hg => hb g (List.mem_cons_of_mem _ hg)) (fun g hg => hp.1 g hg), bitsOf_applyField_same (hb _ (by simp))]
    · rw [ih hp.2 (fun g hg => hb g (List.mem_cons_of_mem _ hg)) h, bitsOf_applyField_ne (hb g (by simp)) ((hp.1 f h).symm)]

/-- What a write of a register does to its fields, other registers and the rest. -/
theorem writeReg_goes {a v : Nat} {r : RSpec} {s : State} (hr : regSpec a = some r)
    (hp : r.fields.Pairwise (fun f g => g.hi < f.lo ∨ f.hi < g.lo)) (hb : ∀ f ∈ r.fields, f.lo ≤ f.hi ∧ f.hi < 32) (ho : 0x30 ≤ a % 0x1000) (h98 : canon a ≠ 0x10098) (h9c : canon a ≠ 0x1009C) :
    (∀ f ∈ r.fields, bitsOf (rdW a (writeReg a v s)).toNat f.hi f.lo =
          fieldAfter f (flag (pageBase a) PG_LOCK_LOCKED s) (lifeAt (offStat a) s == 0) (bitsOf (rdW a s).toNat f.hi f.lo) (bitsOf v f.hi f.lo))
      ∧ (∀ b, canon b ≠ canon a → canon b ≠ canon (pageBase a + 0x10) → canon b ≠ 0x10098 → canon b ≠ 0x1009C → rdW b (writeReg a v s) = rdW b s)
      ∧ EventsOnly s (writeReg a v s) := by
  have hraise : ∀ (c : Bool) (b : Nat) (u : State), canon a ≠ 0x10098 → canon a ≠ 0x1009C →
      rdW a (if c then raise (pageBase a) b u else u) = rdW a u := fun c b u h1 h2 => by
    cases c
    · rfl
    · exact rdW_raise _ _ _ (fun hc => by have := canon_mod a; have := canon_mod (pageBase a + 0x10); have := pageBase_mod a; rw [hc] at *; omega) h1 h2
  have hraise' : ∀ (c : Bool) (n b : Nat) (u : State), canon b ≠ canon (pageBase a + 0x10) → canon b ≠ 0x10098 → canon b ≠ 0x1009C →
      rdW b (if c then raise (pageBase a) n u else u) = rdW b u := fun c n b u h1 h2 h3 => by
    cases c
    · rfl
    · exact rdW_raise _ _ _ h1 h2 h3
  have hev : ∀ (c : Bool) (b : Nat) (u : State), EventsOnly s u → EventsOnly s (if c then raise (pageBase a) b u else u) := fun c b u h => by
    cases c
    · exact h
    · exact h.trans (raise_only _ _ _)
  unfold writeReg; rw [hr]; dsimp only
  refine ⟨?_, ?_, ?_⟩
  · intro f hf
    rw [hraise _ _ _ h98 h9c, hraise _ _ _ h98 h9c, rdW_wrW_same, BitVec.toNat_ofNat,
      Nat.mod_eq_of_lt (applyFields_lt hb (rdW a s).isLt), bitsOf_applyFields hp (fun g hg => (hb g hg).1) hf]
  · intro b h1 h2 h3 h4
    rw [hraise' _ _ _ _ h2 h3 h4, hraise' _ _ _ _ h2 h3 h4, rdW_wrW_ne _ _ h1]
  · exact hev _ _ _ (hev _ _ _ (wrW_only _ _ _))

theorem plain_not_mgs {a : Nat} (h : plainReg a) (o : Nat) (h1 : 0x10000 ≤ o) (h2 : o < 0x90000) : canon a ≠ o := by
  obtain ⟨_, i, hk⟩ := h
  have hn : ¬ (0x10000 ≤ a ∧ a < 0x90000) := by
    intro ⟨h3, h4⟩
    have e : pageOf a = some (.mgs, a / 0x1000 - 0x10) := by
      unfold pageOf; dsimp only
      rw [if_neg (by omega), if_neg (by omega), if_pos (by omega)]
    rw [e] at hk; simp at hk
  unfold canon; split
  · omega
  · intro hc; subst hc; omega

/-- A header register is the common one on every page. -/
theorem hdr_spec {p o : Nat} {fn : Nat} {s : State} (hp : p % 0x1000 = 0) (ho : o < 0x30) (h : reaches fn (p + o) s) : regSpec (p + o) = specAt specsALL o := by
  have h2 := h.2.1
  unfold regSpec at *
  cases hk : pageOf (p + o) with
  | none => rw [hk] at h2; simp at h2
  | some x => 
    obtain ⟨k, i⟩ := x
    have e : (p + o) % 0x1000 = o := by omega
    simp only [e, if_pos ho]

theorem hdr_raise_ne {p o : Nat} (hp : p % 0x1000 = 0) (ho : o < 0x30) (hx : o ≠ 0x10) : canon (p + o) ≠ canon (p + 0x10) := by
  intro hc; have := canon_mod (p + o); have := canon_mod (p + 0x10); rw [hc] at *; omega

theorem tally_ne {p o : Nat} (hp : p % 0x1000 = 0) (ho : o < 0x30) (x : Nat) (hx : x % 0x1000 ≥ 0x30) : canon (p + o) ≠ x := by
  intro hc; have := canon_mod (p + o); rw [hc] at *; omega

/-- A write of a register whose fields hold no RWL and no OFF-only field. -/
theorem writeReg_plain {a v : Nat} {r : RSpec} {s : State} (hr : regSpec a = some r) (h1 : r.fields.any (fun f => f.acc = .rwl) = false)
    (h2 : r.fields.any (fun f => f.offOnly) = false) :
    writeReg a v s = wrW a (BitVec.ofNat 32 (applyFields (flag (pageBase a) PG_LOCK_LOCKED s) (lifeAt (offStat a) s == 0) v r.fields (rdW a s).toNat)) s := by
  have h3 : r.fields.any (fun f => f.offOnly && bitsOf v f.hi f.lo != bitsOf (rdW a s).toNat f.hi f.lo) = false := by
    rw [List.any_eq_false] at *
    intro f hf; have := h2 f hf; simp_all
  unfold writeReg; rw [hr]; simp only [h1, h3, Bool.and_false, Bool.false_eq_true, if_false]

/-- A field of such a register after a write. -/
theorem hdr_field {a v : Nat} {r : RSpec} {s : State} {f : FSpec} (hr : regSpec a = some r)
    (hp : r.fields.Pairwise (fun f g => g.hi < f.lo ∨ f.hi < g.lo)) (hb : ∀ f ∈ r.fields, f.lo ≤ f.hi ∧ f.hi < 32) (h1 : r.fields.any (fun f => f.acc = .rwl) = false)
    (h2 : r.fields.any (fun f => f.offOnly) = false) (hf : f ∈ r.fields) : bitsOf (rdW a (writeReg a v s)).toNat f.hi f.lo
      = fieldAfter f (flag (pageBase a) PG_LOCK_LOCKED s) (lifeAt (offStat a) s == 0) (bitsOf (rdW a s).toNat f.hi f.lo) (bitsOf v f.hi f.lo) := by
  rw [writeReg_plain hr h1 h2, rdW_wrW_same, BitVec.toNat_ofNat, Nat.mod_eq_of_lt (applyFields_lt hb (rdW a s).isLt), bitsOf_applyFields hp (fun g hg => (hb g hg).1) hf]

end Sys2Proof.Machine
end

