-- ==== Sys2Proof/Tests/Slice0.lean ====
section
/-! SUPPORT. Tests: for every statement with hypotheses, concrete states and operands that meet them (`test_hyps_<statement>`); commands that
the well-formedness checks refuse (`test_wf_…`); and single steps whose expected values stand in the spec's worked cases and tables. -/
open Sys2Proof Sys2Proof.Machine

-- One theorem after another: elaborated side by side, each kernel evaluation below holds a thread while it waits for those before it.
set_option Elab.async false

namespace Sys2Proof.Tests

/-! ### Small states -/

/-- Fields set one after another: page, field, value. -/
def sets (l : List (Nat × Field × Nat)) (s : State) : State := l.foldl (fun t x => setF x.1 x.2.1 x.2.2 t) s

/-- After a bring-up that ended with FULL. -/
def up : State := sets [(glbP, GLB_READY_STAGE, 22), (glbP, GLB_READY_OUTCOME, 1)] { State.reset with gate := true, boot := { Boot.reset with perst := false } }

/-- In stage k of bring-up. -/
def at_ (k : Nat) : State := sets [(glbP, GLB_READY_STAGE, k)] State.reset

/-- Page p belongs to herd 0. -/
def mine (p : Nat) (s : State) : State := sets [(p, PG_OWNER_FREE, 0), (p, PG_OWNER_HERD, 0)] s

/-- The block whose life state is at `a` is in state v. -/
def live (a v : Nat) (s : State) : State := sets [(a, LIFE_STATE, v)] s

/-- Rod i belongs to herd 0, is READY and runs a program. -/
def runs (i : Nat) (s : State) : State := sets [(seqP i, SEQ_PSTAT_PSTATE, 1)] (live (statOf (seqP i)) 2 (mine (seqP i) s))

/-- A rod command word of unit u and operation o with the other bits `r`. -/
def word (u o r : Nat) : CmdWord := BitVec.ofNat 128 (u * 2 ^ 124 + o * 2 ^ 116 + r)

/-- The body of a small image: 4 KiB of zeros. -/
def imgBody : List Host.Cell := (List.range 4096).map (fun o => (o, 0))

/-- Bytes 0 to 63 of its header. -/
def imgHead : List Byte := leBytes 4 Config.imageMagic.toNat ++ leBytes 4 1 ++ leBytes 8 0 ++ leBytes 4 4096 ++ List.replicate 44 0

/-- Its header (Table 16-9). -/
def imgHdr : List Byte := imgHead ++ sha384 (bodyBytes imgBody 4096) ++ List.replicate 144 0

theorem imgHead_length : imgHead.length = 64 := by decide

/-- Bytes of the header before the digest. -/
theorem imgHdr_head (o n : Nat) (h : o + n ≤ 64) : hdrNum imgHdr o n = hdrNum imgHead o n := by
  have hl := imgHead_length
  unfold hdrNum imgHdr
  rw [List.append_assoc, List.drop_append_of_le_length (by omega), List.take_append_of_le_length (by simp; omega)]

theorem test_image_header : hdrOk imgHdr = true := by
  have h4 : hdrNum imgHdr 16 4 = 4096 := (imgHdr_head 16 4 (by decide)).trans (by decide)
  have hm : hdrNum imgHdr 0 4 = Config.imageMagic.toNat := by
    rw [imgHdr_head 0 4 (by decide)]
    show leNat (leBytes 4 Config.imageMagic.toNat) = _
    rw [leNat_leBytes]; exact Nat.mod_eq_of_lt Config.imageMagic.isLt
  have hz : hdrNum imgHdr 112 48 = 0 := by
    have : imgHdr.drop 112 = List.replicate 144 0 := List.drop_left' (by simp [imgHead_length])
    simp only [hdrNum, this]; decide
  have hn : imgHdr.length = 256 := by simp [imgHdr, imgHead_length]
  simp only [hdrOk, h4, hm, hz, hn, imgHdr_head 4 4 (by decide), imgHdr_head 11 1 (by decide), imgHdr_head 12 1 (by decide),
    imgHdr_head 13 1 (by decide), imgHdr_head 14 2 (by decide), imgHdr_head 20 44 (by decide), beq_self_eq_true, Bool.true_and]
  decide

theorem test_image_body : bodyOk imgHdr imgBody = true := by
  have h4 : hdrNum imgHdr 16 4 = 4096 := (imgHdr_head 16 4 (by decide)).trans (by decide)
  have hd : (imgHdr.drop 64).take 48 = sha384 (bodyBytes imgBody 4096) := by
    unfold imgHdr
    rw [List.append_assoc, List.drop_left' imgHead_length, List.take_left' (sha384_length _)]
  simp only [bodyOk, h4, hd, beq_self_eq_true, Bool.and_true, List.all_eq_true]
  intro o ho
  exact alGet_isSome_of_mem (List.mem_map.2 ⟨o, ho, rfl⟩)


/-! ### What the statements suppose can hold: reset, package, bring-up -/

theorem test_hyps_ResetsBegin :
    (up.boot.cold = false ∧ up.boot.perst = false) ∧ State.reset.boot.perst = true ∧ 100 * 1981 > 110 * railNominal 7
    ∧ 127 ≤ numVfs (sets [(hifP, HIF_FUNCS_VFE, 1), (hifP, HIF_FUNCS_NUMVFS, 127)] up)
    ∧ flag hifP HIF_FUNCS_VFE (sets [(hifP, HIF_FUNCS_VFE, 1)] up) = true := by decide

theorem test_hyps_TheBoardIsWatched :
    (100 * mvDist 0 (railNominal 7) > railTol 7 * railNominal 7 ∧ up.boot.railNow.contains 7 = false ∧ up.boot.cold = false)
    ∧ 100 * mvDist (railNominal 0) (railNominal 0) ≤ railTol 0 * railNominal 0
    ∧ (up.boot.pwrWarn = false ∧ up.boot.cold = false ∧ up.thm.shut ≠ 1) := by decide

/-- Cold reset held since rail 7 was lost. -/
def lost : State := { State.reset with boot := { Boot.reset with cold := true, loss := some 7 } }

theorem test_hyps_ColdResetEndSamplesTheStraps : lost.boot.cold = true ∧ lost.boot.loss = some 7 := by decide

theorem test_hyps_StageCommandsEndTheirStage : ∀ k, k < 22 → atStage k (at_ k) = true := by decide

/-- At stage 2 with the image in slot A. -/
def withImage : State := { at_ 2 with mgs := { Mgs.reset with slotA := ⟨true, imgHdr, imgBody⟩ } }

theorem test_hyps_StagesGoOnByTheirOutcome_image :
    atStage 2 withImage = true
      ∧ bootSelect true true (flag glbP GLB_STRAP_RECOV withImage) withImage = (some 0, (bootSelect true true false withImage).2) := by
  have hf : flag glbP GLB_STRAP_RECOV withImage = false := by decide
  have hg : slotGood 0 true withImage = true := by
    have hs : slotOf 0 withImage = ⟨true, imgHdr, imgBody⟩ := rfl
    have hv : withImage.mgs.otpSvn = 0 := rfl
    simp only [slotGood, hs, hv, test_image_header, test_image_body, Bool.and_self, Nat.zero_le, decide_true]
  refine ⟨by decide, ?_⟩
  rw [hf]
  have ho : bootOrder withImage = [0, 1] := by decide
  have ht : withImage.mgs.trial = none := rfl
  have hb : withImage.mgs.otpBad = false := rfl
  simp [bootSelect, ho, hg, ht, hb]

theorem test_hyps_StagesGoOnByTheirOutcome_sense :
    shutdownOn (sensorRefresh [] true (at_ 4)) = false ∧ coolEnough (sensorRefresh [] true (at_ 4)) = true := by decide +kernel

theorem test_hyps_MgsLicenceAndLinksComeUp :
    shutRecord (setF (mgsP 0) MB_LOGSTAT_SPARES 64 (wr64 (mgsP 0 + 0x98) 0 { at_ 3 with mgs := { Mgs.reset with boot := 1 } })) ≠ some 0
    ∧ seqHigh (at_ 3) = 0
    ∧ (atStage 16 (at_ 16) = true ∧ (at_ 16).boot.coldPass = true) ∧ (atStage 15 (at_ 15) = true ∧ (at_ 15).boot.trained = []) := by decide +kernel

/-- A licence of the part's own serial number. -/
def ownLic : Lic := ⟨1, 0, Config.serial.toNat, true, []⟩

theorem test_hyps_MgsLicenceAndLinksComeUp_licence :
    atStage 17 { at_ 17 with mgs := { Mgs.reset with licence := some ownLic } } = true ∧ ownLic.serial = Config.serial.toNat := ⟨by decide, rfl⟩

theorem test_hyps_ServiceGivesTheOutcome :
    (stageBound (at_ 1) = some 10000000 ∧ outcome (at_ 1) = 0 ∧ (at_ 1).boot.cold = false ∧ flag glbP GLB_STRAP_TEST (at_ 1) = false)
    ∧ (stageBound (at_ 20)).isSome = true ∧ mstate (sets [(mgsP 0, MB_INFO_MSTATE, 2)] up) = 2 := by decide


/-! ### What the statements suppose can hold: rod commands -/

/-- The command issues. -/
def issues : Come → Bool
  | .goes => true
  | .stays _ => false

theorem issues_goes {c : Come} (h : issues c = true) : c = .goes := by
  cases c with
  | goes => rfl
  | stays s => cases h

/-- Rod 1023 runs at the last PC but one; token 63 stands at 254. -/
def late : State :=
  let t := sets [(seqP 1023, SEQ_PC_PC, 131070)] (runs 1023 up)
  setSeq 1023 { SeqSt.reset with tok := List.replicate 63 0 ++ [254] } t

/-- Bits of a word that signals token 63. -/
def sig63 : Nat := 2 ^ 96 + 63 * 2 ^ 90

theorem test_hyps_ControlCommandsLeaveTheirResult :
    (∀ o ∈ [0x00, 0x05, 0x08, 0x0A, 0x10, 0x11, 0x12, 0x13, 0x14, 0x15, 0x16, 0x17, 0x18, 0x19, 0x1A, 0x1B, 0x1C, 0x20, 0x21],
      issues (come 1023 (word 0 o sig63) late) = true ∧ signalFits (word 0 o sig63) (seqOf 1023 late) ∧ enabled (word 0 o sig63) (seqOf 1023 late) = true
        ∧ okWord 0 o (word 0 o sig63) = true)
    ∧ pcOf 1023 late < 131071 := by decide

/-- Disabled by P[0], which is false. -/
theorem test_hyps_ControlCommandsLeaveTheirResult_disabled :
    issues (come 1023 (word 0 0x11 (2 ^ 115)) late) = true ∧ enabled (word 0 0x11 (2 ^ 115)) (seqOf 1023 late) = false := by decide

theorem test_hyps_BranchesLeaveTheirTarget :
    (∀ o ∈ [0x02, 0x03, 0x04, 0x09], issues (come 1023 (word 0 o 1) late) = true ∧ enabled (word 0 o 1) (seqOf 1023 late) = true
      ∧ signalFits (word 0 o 1) (seqOf 1023 late))
    ∧ (branchTarget (pcOf 1023 late) (word 0 2 1)).toNat = 131071 := by decide

theorem test_hyps_HaltStopsAndEvtTells :
    (∀ o ∈ [0x01, 0x06], issues (come 1023 (word 0 o sig63) late) = true ∧ enabled (word 0 o sig63) (seqOf 1023 late) = true
      ∧ signalFits (word 0 o sig63) (seqOf 1023 late)) ∧ pcOf 1023 late < 131071 := by decide

theorem test_hyps_ScratchpadLoadAndStoreMoveEightBytes :
    (∀ o ∈ [0x28, 0x29], issues (come 1023 (word 0 o (spadSize - 8)) late) = true ∧ enabled (word 0 o (spadSize - 8)) (seqOf 1023 late) = true
      ∧ signalFits (word 0 o (spadSize - 8)) (seqOf 1023 late))
    ∧ pcOf 1023 late < 131071
    ∧ (∀ k, k < 8 → late.spadPar.contains (spadKey 1023 (sldAddr (word 0 0x28 (spadSize - 8)) (seqOf 1023 late) + k)) = false)
    ∧ flag (spadP 1023) SPAD_INJECT_ARM late = false := by decide

theorem test_hyps_UnitCommandsJoinTheirQueue :
    ∀ e ∈ [(1, 1), (1, 2), (1, 3), (1, 4), (2, 1), (2, 2), (2, 3), (3, 1), (4, 1), (4, 2), (4, 3), (4, 4), (4, 5), (4, 6), (4, 7), (4, 8), (4, 9), (4, 10),
        (5, 1), (5, 2), (5, 3), (5, 4), (6, 1), (6, 2), (6, 3), (6, 4), (7, 0), (7, 1), (7, 2), (7, 3), (7, 4), (7, 5)],
      issues (come 1023 (word e.1 e.2 0) late) = true ∧ cwUnit (word e.1 e.2 0) = e.1 ∧ okWord e.1 e.2 (word e.1 e.2 0) = true := by decide

/-- A waiting command of unit u and operation o. -/
def wait_ (u o r : Nat) (skip : Bool) : QCmd := ⟨word u o r, 7, 3, skip, ⟨0, false⟩, ⟨0, false⟩, ⟨0, false⟩⟩

/-- Rod 0 runs, with that command at the head of its unit's queue. -/
def headed (u o : Nat) (skip : Bool) : State := setSeq 0 (withQueue SeqSt.reset u [wait_ u o 0 skip]) (runs 0 up)

theorem test_hyps_HeadsStart :
    (∀ u ∈ [1, 2, 3, 4, 5, 6, 7], queueOf (seqOf 0 (headed u 1 false)) u = [wait_ u 1 0 false] ∧ headMay 0 u (wait_ u 1 0 false) (headed u 1 false)
      ∧ headMay 0 u (wait_ u 1 0 true) (headed u 1 true))
    ∧ strmFree 0 (wait_ 1 1 0 false) (headed 1 1 false) = true ∧ oxFree 0 (wait_ 2 1 0 false) (headed 2 1 false) = true
    ∧ gmvFree 0 (wait_ 3 1 0 false) (headed 3 1 false) = true ∧ vecFree 0 (wait_ 4 1 0 false) (headed 4 1 false) = true
    ∧ msgFree 0 (wait_ 5 1 0 false) (headed 5 1 false) = true ∧ kvFree 0 (wait_ 6 1 0 false) (headed 6 1 false) = true := by decide

/-- An MPOLL whose work is over; it will signal token 63. -/
def done_ : Started := ⟨wait_ 5 3 sig63 false, true, 4, ⟨9, true⟩, false, 0, 0, 0, 0, 0, []⟩

theorem test_hyps_CompletionWritesItsDestination :
    let s := setSeq 0 { SeqSt.reset with started := [done_] } up
    startedBy 0 3 s = some done_ ∧ catRow done_.cmd.word = some ⟨5, 3, .s, .non, .non, .non, 0⟩ ∧ writesS done_.cmd.word ⟨5, 3, .s, .non, .non, .non, 0⟩ = true
      ∧ tokAt (seqOf 0 s) (cwSG done_.cmd.word) < 255 := by decide


/-! ### What the statements suppose can hold: registers, life cycle, programs, streams -/

theorem test_hyps_RegisterWritesComeInTwoSizes :
    ¬ (4 = 4 ∧ 0x12 % 4 = 0 ∧ 0xF = 0xF) ∧ ¬ (4 = 8 ∧ 0x12 % 8 = 0 ∧ 0xF = 0xFF) ∧ reaches 0 (0x12 / 4 * 4) up := by decide

theorem test_hyps_RegisterFieldsDoNotMeet : (regSpec 0xA0).isSome = true := by decide

theorem test_hyps_FieldsFollowTheirAccessType :
    (plainReg 0xA0 ∧ 0xA0 % 4 = 0 ∧ (regSpec 0xA0).any (fun r => decide (r.role = .no)) = true ∧ reaches 0 0xA0 up)
    ∧ (plainReg (spadP 1023 + 0x90) ∧ (spadP 1023 + 0x90) % 4 = 0 ∧ (regSpec (spadP 1023 + 0x90)).any (fun r => decide (r.role = .no)) = true
      ∧ reaches 0 (spadP 1023 + 0x90) (mine (spadP 1023) up)) :=
  ⟨⟨⟨by decide, 0, Or.inl (by decide)⟩, by decide⟩, ⟨by decide, 1023, Or.inr (Or.inr (Or.inr (Or.inl (by decide))))⟩, by decide⟩

theorem test_hyps_WritesBesideTheOwnerAreDenied :
    writesReg 127 1023 0 1 (.seqStart 127 1023 1) (seqP 1023 + 0x84) ∧ (fnOf 127 up).d3 = false ∧ (regSpec (seqP 1023 + 0x84)).isSome = true
      ∧ pageLive (pageBase (seqP 1023 + 0x84)) up = true ∧ owns 127 (pageBase (seqP 1023 + 0x84)) up = false
      ∧ (fnOf 127 (setFn 127 { fnOf 127 up with d3 := true } up)).d3 = true ∧ regSpec 0xFFC = none
      ∧ pageLive (pageBase (seqP 1023 + 0x84)) State.reset = false :=
  ⟨by simp [writesReg], by decide, by decide, by decide, by decide, by decide, by decide, by decide⟩

theorem test_hyps_HeaderRegistersAct :
    (∀ o ∈ [0x28, 0x10, 0x14, 0x18, 0x20, 0x1C, 0x2C], reaches 0 (seqP 1023 + o) (mine (seqP 1023) up))
    ∧ badRoute (seqP 1023) (3 + 1024 * 16) (mine (seqP 1023) up) = true ∧ badRoute (seqP 1023) 0 (mine (seqP 1023) up) = false
    ∧ flag (seqP 1023) PG_LOCK_LOCKED (mine (seqP 1023) up) = false := by decide

/-- A page's note is held for rod 5, channel 31, which can take it now. -/
def holding : State :=
  sets [(glbP, PG_EVT_ROUTE_INDEX, 5), (glbP, PG_EVT_ROUTE_CHANNEL, 31), (msgP 5, MSG_CH_BUF_SIZE 31, 1), (msgP 5, MSG_CH_STAT_FREE 31, 1)]
    { runs 5 up with held := [(glbP, false)] }

theorem test_hyps_HeldNotesAndTimeouts :
    alGet holding.held glbP = some false ∧ rodTakes (getF glbP PG_EVT_ROUTE_INDEX holding) (getF glbP PG_EVT_ROUTE_CHANNEL holding) holding = true
      ∧ 0 < getF (msgP (getF glbP PG_EVT_ROUTE_INDEX holding)) (MSG_CH_STAT_FREE (getF glbP PG_EVT_ROUTE_CHANNEL holding)) holding := by decide

/-- The life command register of rod 0's SEQ, whose block is in state v. -/
def lifeReg0 : Nat := seqP 0 + 8

theorem test_hyps_LifeCommandsFollowTheirTable_taken :
    ∀ v ∈ [0, 1, 2, 3, 4, 5], lifeTaken 0 lifeReg0 (live (lifeReg0 + 4) v (mine (seqP 0) up)) ∧ lifeAt (lifeReg0 + 4) (live (lifeReg0 + 4) v (mine (seqP 0) up)) = v
      ∧ noKids (lifeReg0 + 4) (live (lifeReg0 + 4) v (mine (seqP 0) up)) ∧ clearHeld (lifeReg0 + 4) (live (lifeReg0 + 4) v (mine (seqP 0) up)) = false :=
  fun v hv => ⟨⟨Or.inl (by decide), by revert v; decide⟩, by revert v; decide⟩

theorem test_hyps_LifeCommandsFollowTheirTable_edges :
    (startCheck (lifeReg0 + 4) up = some 0xB ∧ startCheck (lifeReg0 + 4) (live (statOf (herdP 0)) 2 (mine (seqP 0) up)) = none)
    ∧ clearHeld (lifeReg0 + 4) { up with failed := [0] } = true
    ∧ flag (lifeReg0 + 4) LIFE_PENDING_START (sets [(lifeReg0 + 4, LIFE_PENDING_START, 1)] up) = true
    ∧ flag (lifeReg0 + 4) LIFE_PENDING_START up = false
    ∧ noHerd (lifeReg0 + 4) :=
  ⟨by decide, by decide, by decide, by decide, fun n h => by
    have : pageOf (lifeReg0 + 4) = some (.seq, 0) := by decide
    rw [this] at h; injection h with h; injection h with h _; cases h⟩

theorem test_hyps_BlocksChangeStateByThemselves :
    (let a := statOf (seqP 0); hasLife a = true ∧ lifeAt a (live a 1 up) = 1 ∧ (lifeX a (live a 1 up)).aborting = false
      ∧ (lifeX a (setLifeX a ⟨some 0, 7, true⟩ (live a 1 up))).aborting = true ∧ lifeAt a (live a 3 up) = 3 ∧ hasWork a (live a 3 up) = false
      ∧ (lifeX a (setLifeX a ⟨some 0, 7, true⟩ (live a 3 up))).deadline = some 0 ∧ lifeAt a (live a 4 up) = 4 ∧ released a (live a 4 up) = true)
    ∧ (let a := statOf (brgP 31); hasLife a = true ∧ lifeAt a (live a 1 up) = 1 ∧ pageOf a = some (.brg, 31) ∧ outcome (live a 1 up) ≠ 0)
    ∧ (let a := statOf (herdP 127); hasLife a = true ∧ lifeAt a (live a 4 up) = 4 ∧ released a (live a 4 up) = true ∧ pageOf a = some (.herd, 127))
    ∧ alGet { up with resizes := [(127, ⟨4, 4, none⟩)] }.resizes 127 = some ⟨4, 4, none⟩ := by decide

theorem test_hyps_BlocksChangeStateByThemselves_parity :
    pageOf (beadP 1023) = some (.bead, 1023) ∧ pageLive (beadP 1023) up = true ∧ paritySev 0x1609 = some 1 ∧ 0x1609 / 256 = Kind.bead.code := by decide

/-- A started wait of rod 0 that is blocked with a watchdog of 1 µs. -/
def blocked : Started := ⟨wait_ 5 2 0 false, false, 0, ⟨0, false⟩, true, 0, 0, 1, 0, 0, []⟩

theorem test_hyps_ProgramsStartAndEnd :
    (reaches 0 (seqP 1023 + 0x84) (runs 1023 up) ∧ rodLife 1023 (runs 1023 up) = 2 ∧ pstate 1023 (runs 1023 up) = 1
      ∧ pstate 1023 (setPstate 1023 4 (runs 1023 up)) = 4 ∧ bitOf (2 ^ 31 + 131071) 31 = true)
    ∧ (reaches 0 (seqP 1023 + 0x88) (runs 1023 up) ∧ reaches 0 (seqP 1023 + 0x9C) (runs 1023 up))
    ∧ (let w := word 0 0 (2 ^ 113 + 63 * 2 ^ 107)
       tokenStalled 0 (setSeq 0 { SeqSt.reset with stall := some (w, 5) } (sets [(seqP 0, SEQ_CTL_STALL_DET, 1)] (runs 0 up))) = some (w, 5))
    ∧ (let s := setSeq 0 { SeqSt.reset with started := [blocked] } up
       startedBy 0 3 s = some blocked ∧ blocked.limit ≠ 0 ∧ breakDue 0 blocked s = none
        ∧ breakDue 0 blocked { sets [(herdP 0, HERD_MODE_DL_EN, 1)] (runs 0 up) with probes := [⟨true, 0, 0, 5, 3, 0, 0, 0, 0, 0, []⟩] } = some 0)
    ∧ (pstate 0 (setPstate 0 2 up) = 2 ∧ (seqOf 0 (setPstate 0 2 up)).started = [] ∧ (seqOf 0 (setPstate 0 2 up)).queues.all List.isEmpty = true
      ∧ getF (seqP 0) SEQ_PSTAT_FAULT (setPstate 0 2 up) = 0 ∧ getF (seqP 0) SEQ_PSTAT_FAULT (sets [(seqP 0, SEQ_PSTAT_FAULT, 9)] up) ≠ 0) := by decide

/-- Rod 1023 is paused. -/
def paused : State := setPstate 1023 5 (mine (dbgP 1023) (runs 1023 up))

theorem test_hyps_TheDebuggerActs :
    (reaches 0 (dbgP 1023 + 0x80) paused ∧ pstate 1023 (dbgEnables 1023 2 paused) = 5 ∧ pstate 1023 (dbgEnables 1023 1 (setPstate 1023 1 paused)) = 1)
    ∧ (reaches 0 (dbgP 1023 + 0x94) paused ∧ pstate 1023 paused = 5)
    ∧ (∀ n ∈ [0, 0x1F, 0x20, 0x27, 0x28, 0x29, 0x3F, 0x40, 0x7F, 0x80, 0xFF], getF (dbgP 1023) DBG_SEL_SEL (sets [(dbgP 1023, DBG_SEL_SEL, n)] paused) = n) := by
  decide

/-- A stream of rod 0 that is about to end with status 3. -/
def str_ : Str where
  num := 3
  desc := 0
  ctl := 0
  src := 0
  snk := 0
  dims := []
  ents := []
  ent0 := 0
  base0 := 0
  pos := 0
  nxt := 0
  wnxt := 0
  cred := 0
  taken := 0
  sig := 0
  hold := []
  got := []
  pois := false
  bads := []
  halt := none
  haltPages := []
  fin := none
  bound := false
  listEnd := none

/-- Slot 7 of rod 0 is READY and holds a stream. -/
def streaming (t : Str) : State := setStr 0 7 t (live (slotStat 0 7) 2 up)

/-- It holds a byte for its VIRT sink; it has 64 bytes still to read from its VIRT source. -/
def writing : Str := { str_ with ctl := 2 ^ 6 + 2 ^ 32, nxt := 1, hold := [(0, [1], [])] }
def reading : Str := { str_ with ctl := 2 ^ 24 + 2 ^ 32, dims := [(64, 1)], cred := 1 }

/-- An answered page request of a client. -/
def preq (c : Client) : PReq := ⟨8, c, 0, 0, 64, false, [], [], 3, none, 0, 0⟩

theorem test_hyps_StreamsAndRingsMoveOn :
    (strRuns 0 7 (streaming str_) = true ∧ rodQuiet 0 (streaming str_) = false ∧ reqReady 0 7 (streaming str_) = false)
    ∧ (let s := streaming writing
       strRuns 0 7 s = true ∧ rodQuiet 0 s = false ∧ reqReady 0 7 s = true ∧ reqTurn 0 7 s = true ∧ (writeStep 0 7 s).isSome = true)
    ∧ (let s := streaming reading
       strRuns 0 7 s = true ∧ reqReady 0 7 s = true ∧ reqTurn 0 7 s = true ∧ (writeStep 0 7 s).isNone = true)
    ∧ (let s := setStr 0 6 writing (live (slotStat 0 6) 2 (streaming writing)); reqReady 0 7 s = true ∧ reqTurn 0 7 s = false)
    ∧ ({ up with reqs := [preq (.orphan 0 7 3)] }.reqs.find? (fun r => r.id == 8) = some (preq (.orphan 0 7 3)))
    ∧ ({ up with reqs := [preq (.stream 0 7 3 0)] }.reqs.find? (fun r => r.id == 8) = some (preq (.stream 0 7 3 0))
      ∧ keepRead (preq (.stream 0 7 3 0)) 0 7 (streaming str_) = false ∧ keepRead (preq (.stream 0 7 3 0)) 0 7 (streaming writing) = true)
    ∧ (strOf 0 7 (streaming { str_ with fin := some 3 }) = some { str_ with fin := some 3 } ∧ itemUnderWay 0 7 (streaming { str_ with fin := some 3 }) = false)
    ∧ (reaches 0 (strmP 1023 + 0x80) (mine (strmP 1023) up) ∧ flag (strmP 1023) PG_LOCK_LOCKED (mine (strmP 1023) up) = false
      ∧ reaches 0 (strmP 1023 + 0x80) (sets [(strmP 1023, PG_LOCK_LOCKED, 1)] (mine (strmP 1023) up))) := by decide

/-- A ring descriptor: step 1 of one, blocks of one byte. -/
def ringDesc : List Byte := leBytes 8 (1 + 2 ^ 12 + 2 ^ 24) ++ List.replicate 56 0

/-- A KRING of rod 0 that waits, its descriptor at scratchpad byte 0. -/
def ringCmd (k : Nat) : Started := ⟨wait_ 6 3 0 false, false, 0, ⟨0, false⟩, false, 0, 0, 0, 0, 0, [k]⟩

theorem test_hyps_StreamsAndRingsMoveOn_ring :
    ∀ k ∈ [1, 3], startedBy 0 3 (setSeq 0 { SeqSt.reset with started := [ringCmd k] } (spadWrite 0 0 ringDesc [] up)) = some (ringCmd k)
      ∧ (ringAt 0 3 (setSeq 0 { SeqSt.reset with started := [ringCmd k] } (spadWrite 0 0 ringDesc [] up))).isSome = true := by decide +kernel


/-! ### What the statements suppose can hold: test access, voltage, heat -/

/-- The whole chain is included; with `t`, test mode. -/
def probed (t : Nat) : State := sets [(glbP, GLB_STRAP_TEST, t)] { up with tap := { Tap.reset with ccr := 2 ^ 37 - 1 }, isls := [(63, { IslX.cold with booted := true })] }

theorem test_hyps_TapInstructionsCaptureAndShift :
    tapUp (probed 1) = true ∧ testMode (probed 1) = true ∧ tapKnown 7 = false ∧ tapKnown 0xF = false ∧ tapKnown 0x14 = false ∧ tapKnown 0xFF = false := by decide

theorem test_hyps_IntrusiveAccessIsRefused : tapUp (probed 0) = true ∧ testMode (probed 0) = false := by decide

theorem test_hyps_InstrumentsObserveAndAct :
    (∀ d ∈ [0, 36], (chain (probed 1)).contains d = true) ∧ (islOf 63 (probed 1)).cut = false
    ∧ (chain (probed 1)).contains (1 + 9 * (1087 / 272)) = true ∧ (chain (probed 1)).contains (2 + 9 * (1087 / 272) + 7) = true
    ∧ physPowered 1087 (probed 1) = true
    ∧ marginCarries 2 0 (sets [(hifP, HIF_LINK_RATE, 6)] (probed 0)) = true := by decide

/-- Island 63 is ours, its regulator runs under manual control. -/
def manual : State :=
  sets [(islP 63, ISL_CTL_MANUAL, 1)] (mine (islP 63) { up with isls := [(63, { IslX.cold with booted := true })] })

theorem test_hyps_VoltageCommandsAreJudged :
    reaches 0 (islP 63 + 0x84) manual ∧ islReject 63 true manual = none ∧ fits 63 120 manual ∧ fits 63 190 manual
      ∧ (islOf 63 manual).unsettled = false ∧ islReject 63 true up = some 4 ∧ reaches 0 (islP 63 + 0x84) up := by decide

/-- Island 63 in a state. -/
def isl63 (x : IslX) (s : State) : State := setIsl 63 x s

theorem test_hyps_RegulatorsAct :
    (let x := islOf 63 (isl63 { IslX.cold with booted := true, unsettled := true } up)
     x.unsettled = true ∧ x.ramping = false ∧ x.cut = false ∧ x.powered = true ∧ x.repeated = false ∧ x.recover = false)
    ∧ (let x := islOf 63 (isl63 { IslX.cold with booted := true, unsettled := true, repeated := true } (at_ 5))
       x.unsettled = true ∧ x.powered = true ∧ x.repeated = true)
    ∧ mvDist 600 (5 * getF (islP 63) ISL_VSTAT_TARGET (sets [(islP 63, ISL_VSTAT_TARGET, 122)] up)) ≤ 10
    ∧ stageIslands up = false ∧ stageIslands (at_ 5) = true
    ∧ (islOf 63 (isl63 { IslX.cold with recover := true } up)).recover = true
    ∧ reaches 0 (islP 63 + 0x80) up ∧ reaches 0 (islP 63 + 0x9C) up := by decide

theorem test_hyps_PaceWindowsMeasure :
    (let s := setIsl (rodIsland 1023) { IslX.cold with booted := true } up
     rodVisible 1023 s = true ∧ (islOf (rodIsland 1023) s).powered = true) ∧ (∀ v ∈ [570, 980], 570 ≤ v)
      ∧ reaches 0 (senseP 1023 + 0x84) (mine (senseP 1023) up) ∧ reaches 0 (senseP 1023 + 0xA4) (mine (senseP 1023) up) := by decide

theorem test_hyps_ChannelsCalibrate :
    rodsMapped up = true
    ∧ (let s := setCal 1023 1 ⟨false, true, true, 0, true, 0⟩ up
       (calOf 1023 1 s).busy = true ∧ (calOf 1023 1 s).retrain = true ∧ (calOf 1023 1 s).retry = true) := by decide

theorem test_hyps_LimitsTakeEffect :
    let cap := getF (thmP 1) THM_CAP_WATTS up * 1000
    100 * (2 * cap) > 110 * cap ∧ up.thm.hiRun + 1 < 10 ∧ 10 ≤ (waitEvery 10000 none { up with thm := { up.thm with hiRun := 9 } }).thm.hiRun + 1
      ∧ 100 * cap ≤ 110 * cap ∧ 95 * cap ≤ 100 * cap
      ∧ (let s := sets [(thmP 1, THM_LIMIT_DEPTH, 5)] { up with thm := { up.thm with loRun := 99 } }
         100 * 0 < 95 * cap ∧ 0 < getF (thmP 1) THM_LIMIT_DEPTH s ∧ 100 ≤ s.thm.loRun + 1)
      ∧ (∀ c, c < 3 → reaches 0 (thmP 0 + 0x80 + 4 * c) up ∧ reaches 0 (thmP 0 + 0x90 + 4 * c) up)
      ∧ reaches 0 (thmP 1 + 0x80) up ∧ flag (thmP 1) PG_LOCK_LOCKED up = false := by decide

/-- A shutdown is latched; with `v`, a sensor reads v sixteenths. -/
def shut_ (v : Nat) : State := sets [(thmP 0, THM_SHUT_LATCHED, 1)] { up with thm := { up.thm with sens := [(0, ⟨true, v, 0, 0, 0⟩)] } }

theorem test_hyps_LimitsTakeEffect_shut :
    reaches 0 (thmP 0 + 0xA0) (shut_ 0) ∧ shutdownOn (shut_ 0) = true ∧ coolEnough (shut_ 0) = true ∧ outcome (shut_ 0) ≠ 0
      ∧ reaches 0 (thmP 0 + 0xA0) (shut_ 4000) ∧ coolEnough (shut_ 4000) = false
      ∧ (let s := { up with thm := { up.thm with isl := [(63, ⟨false, false, 120, none, none, 0⟩)] } }
         (islT 63 s).logic = false ∧ (islT 63 s).mem = false ∧ (islT 63 s).ceil ≠ 0) := by decide

/-- The policy runs; island 63 has been LOW for long. -/
def policed (cls : Nat) : State :=
  let s := sets [(mgsP 0, MB_INFO_MSTATE, 1), (islP 63, ISL_CTL_MANUAL, cls)] up
  { s with now := 40000000000, thm := { s.thm with goal := 1, isl := [(63, ⟨false, false, 0, some 0, none, 0⟩)] } }

/-- A sensor of the hub's THERMAL page reads v degrees at the next refresh. -/
def warmed (v : Nat) (s : State) : State := takeReading 0x600 (some (16 * v)) s

theorem test_hyps_HeatIsGoverned :
    policyRuns (policed 0) = true ∧ shutdownOn (policed 0) = false ∧ (lowWait (policed 0)).now = (policed 0).now
    ∧ (List.range 64).filter (fun j => lowLong j (policed 0)) = [63] ∧ (List.range 64).filter (fun j => lowLong j (policed 1)) = [63]
    ∧ quietOk 63 (policed 1) = false ∧ flag (thmP 1) THM_EST_GUARD (policed 1) = false
    ∧ bitOf (policed 0).thm.goal 0 = true ∧ (policed 0).thm.quiet = none
    ∧ quietTurn ([63].filter (fun j => quietOk j (policed 0))) (policed 0) = some 63
    ∧ up.boot.trip = false ∧ isTemp 0 = true ∧ isTemp 0x617 = true
    ∧ { up with thm := { up.thm with quiet := some (63, 0, true) } }.thm.quiet = some (63, 0, true)
    ∧ (setThm { up.thm with shut := 2 } up).thm.shut = 2 ∧ up.thm.shut ≠ 2 ∧ flag (thmP 1) THM_GOAL_SHARES_MAN up = false := by decide

theorem test_hyps_HeatIsGoverned_refresh :
    (updBand 0x600 (warmed 20 up)).2.1 = false ∧ (updBand 0x600 (warmed 200 up)).2.1 = true ∧ isTemp 0x600 = true
      ∧ (warmed 200 up).thm.sens.map (·.1) = [0x600] := by decide

/-- The orderly shutdown comes to its log step; b: PWR_WARN_N fell meanwhile. -/
def toLog (b : Bool) : State :=
  sets [(mgsP 0, MB_INFO_MSTATE, 1)] { State.reset with thm := { Thm.reset with shut := 1 }, boot := { Boot.reset with warnDue := b } }

theorem toLog_record (b : Bool) :
    let u := recordWith (thmP 0) 0x0305 3 0 0 false true ((pageHerd (thmP 0) (toLog b)).toList) (toLog b)
    u.mgs.ring.isEmpty = false ∧ u.boot.warnDue = b ∧ (List.range 128).all (fun n => lifeAt (statOf (herdP n)) u == 0) = true := by
  cases b <;> decide +kernel

theorem toLog_fat (b : Bool) : (recordErr (thmP 0) 0x0305 3 0 0 false (toLog b)).mgs.ring ≠ []
    ∧ (recordErr (thmP 0) 0x0305 3 0 0 false (toLog b)).boot.warnDue = b := by
  obtain ⟨hr, hw, hl⟩ := toLog_record b
  rw [recordErr_fat]
  generalize recordWith (thmP 0) 0x0305 3 0 0 false true ((pageHerd (thmP 0) (toLog b)).toList) (toLog b) = u at hr hw hl
  have k := fatEffects_idle (thmP 0) 0x0305 u fun n hn => eq_of_beq (List.all_eq_true.mp hl n (List.mem_range.mpr hn))
  generalize fatEffects (thmP 0) 0x0305 u = t at k
  have hn : u.mgs.ring ≠ [] := fun e => by rw [e] at hr; cases hr
  exact ⟨k.2 hn, (congrArg Boot.warnDue k.1).trans hw⟩

theorem test_hyps_HeatIsGoverned_shutdown (b : Bool) :
    (toLog b).thm.shut = 1 ∧ getF (thmP 0) THM_SHUT_SENSOR (toLog b) = 0
    ∧ (∃ r l, (tallyFree 10 0xFFFFFFFF (leBytes 1 0) (recordErr (thmP 0) 0x0305 3 0 0 false (toLog b))).mgs.ring.reverse = r :: l)
    ∧ ∀ r ok, (persistAll (reserveCopy r ok (tallyFree 10 0xFFFFFFFF (leBytes 1 0) (recordErr (thmP 0) 0x0305 3 0 0 false (toLog b))))).boot.warnDue = b := by
  refine ⟨by cases b <;> rfl, by cases b <;> decide, ?_⟩
  have h := toLog_fat b
  generalize recordErr (thmP 0) 0x0305 3 0 0 false (toLog b) = t at h
  have k := tallyFree_keeps 10 0xFFFFFFFF (leBytes 1 0) t
  generalize tallyFree 10 0xFFFFFFFF (leBytes 1 0) t = v at k
  refine ⟨List.exists_cons_of_ne_nil (by simpa using k.2 h.1), fun r ok => ?_⟩
  rw [persistAll_boot, reserveCopy_boot, k.1]
  exact h.2

/-! ### What the statements suppose can hold: links, grid, packets -/

/-- A replay buffer of one flit, resent r times. -/
def replaying (r : Nat) : LinkDir := { LinkDir.fresh with replay := [⟨0, 0, 3, 31, 0, 128, false, [], []⟩], resent := r }

theorem test_hyps_BridgesAcceptInSequence :
    (brgDir 31 1 up).run = none ∧ 1 ≤ seqDiff 0 4095 ∧ seqDiff 0 4095 ≤ 256 ∧ seqDiff 0 3840 = 256 ∧ 256 < seqDiff 0 3839 ∧ 256 < seqDiff 0 1
    ∧ (brgDir 31 1 (setBrgDir 31 1 { LinkDir.fresh with run := some (0, 4095, 1) } up)).run = some (0, 4095, 1) := by decide

theorem test_hyps_BridgeControlFlitsAct :
    brgTakes 31 1 0 0 up
    ∧ (setBrgDir 31 1 ((brgDir 31 1 up).acked 5) up).links = (setBrgDir 31 1 LinkDir.fresh up).links
    ∧ 8 ≤ (brgDir 31 1 (setBrgDir 31 1 ((brgDir 31 1 (setBrgDir 31 1 (replaying 8) up)).acked 4095) (setBrgDir 31 1 (replaying 8) up))).resent
    ∧ (lanesOfMap 255).length = 8 ∧ (lanesOfMap 65535).length = 16 :=
  ⟨⟨by decide, by decide, by decide⟩, by decide, by decide, by decide⟩

theorem test_hyps_BridgeControlFlitsAct_swap :
    let s := setLane 31 1 4 1 4 up
    brgTakes 31 1 0 0 s ∧ laneState 31 1 17 (brgTook 31 1 0 0 s) = 0
      ∧ (List.range 18).find? (fun k => laneState 31 1 k (brgTook 31 1 0 0 s) == 1 && laneLogical 31 1 k (brgTook 31 1 0 0 s) == 4) = some 4 :=
  ⟨⟨by decide, by decide, by decide⟩, by decide, by decide⟩

theorem test_hyps_BridgeLinksChange :
    0 < (brgDir 31 1 (setBrgDir 31 1 { LinkDir.fresh with freed := [1] } up)).untold
    ∧ (brgDir 31 1 (setBrgDir 31 1 (replaying 8) up)).replay ≠ [] ∧ flag (brgP 31) BRG_STAT_RETRAIN (setBrgDir 31 1 (replaying 8) up) = false
    ∧ (brgX 31 up).draining = false
    ∧ (brgCarries 31 (sets [(brgP 31, BRG_STAT_CARRYING, 1)] up) = true
      ∧ (brgDir 31 1 (setBrgDir 31 1 { LinkDir.fresh with used := [336 + 8] } up)).free 6 8 336 0 = 0)
    ∧ (brgX 31 (setBrgX 31 { BrgX.rest with swaps := [(1, 4, 17, false)] } up)).swaps.find? (fun w => w.1 == 1 && w.2.2.1 == 17 && !w.2.2.2)
      = some (1, 4, 17, false)
    ∧ flag (brgP 31) BRG_STAT_RETRAIN (sets [(brgP 31, BRG_STAT_RETRAIN, 1)] up) = true
    ∧ goodBoth 31 (lanesTrained 31 127 (2 ^ 18 - 1) up) = 7 ∧ goodBoth 31 (lanesTrained 31 255 (2 ^ 18 - 1) up) = 8
    ∧ (let s := setBrgX 31 { BrgX.rest with draining := true } up
       (brgX 31 s).draining = true ∧ (brgX 31 s).why ≠ 3 ∧ flitsLeft 31 0 s = [] ∧ flitsLeft 31 1 s = [])
    ∧ reaches 0 (brgP 31 + 0x80) up ∧ flag (brgP 31) BRG_CTL_MANUAL up = false ∧ bitOf (rdW (brgP 31 + 0x80) up).toNat 1 ≠ bitOf 2 1 := by decide +kernel

theorem test_hyps_GridPacketsHop :
    (∀ cls ∈ [0, 1, 2, 5], heading 0 0 1023 false up = some (1023, false) ∧ (GridPkt.mk cls 0 1023 0 (List.replicate 8 0) 0 0).adaptive 255 0 1023 up = some 1
      ∧ (GridPkt.mk cls 0 1023 0 (List.replicate 8 0) 0 0).adaptive 0 0 1023 up = none
      ∧ (GridPkt.mk cls 0 1023 0 (List.replicate 8 0) 0 0).way 255 cls (dirOf 0 (hopXY 0 1023)) up = some 1) := by decide

theorem test_hyps_RlPortsAcceptInSequence :
    (1 ≤ seqDiff 0 3584 ∧ seqDiff 0 3584 = 512 ∧ 512 < seqDiff 0 3583)
    ∧ (portOf 15 (setPort 15 (replaying 8) up)).replay ≠ [] ∧ 8 ≤ (portOf 15 (setPort 15 (replaying 8) up)).resent
    ∧ rlPhase 15 (setPhase 15 5 up) = 5
    ∧ (portOf 15 (setPort 15 { LinkDir.fresh with used := [896 + 16] } up)).free 8 16 896 0 = 0
    ∧ 8 ≤ (portOf 15 (setPort 15 ((portOf 15 (setPort 15 (replaying 8) up)).acked 4095) up)).resent := by decide

/-- Port 15 is in phase k. -/
def port15 (k : Nat) : State := setPhase 15 k (live (statOf (rlpP 15)) (if k = 1 then 1 else 2) up)

theorem test_hyps_RlPortsChangeState :
    (rlPhase 15 (port15 1) = 1 ∧ lifeAt (statOf (rlpP 15)) (port15 1) = 1) ∧ (∀ k ∈ [2, 3, 4, 5, 6], rlPhase 15 (port15 k) = k)
    ∧ (let s := sets [(rlpP 15, RLP_NBR_VALID, 1)] (port15 5)
       flag (rlpP 15) RLP_NBR_VALID s = true ∧ rd64 (rlpP 15 + 0x88) s = 0 ∧ getF (rlpP 15) RLP_NBR_NODE s = 0 ∧ getF (rlpP 15) RLP_NBR_EPOCH s = 0
        ∧ flag (rlpP 15) RLP_NBR_NODE_VALID s = false)
    ∧ (portOf 15 (showRetraining (raise (rlpP 15) 19 (setF (rlpP 15) RLP_STAT_CARRYING 1 (setPhase 15 5 (port15 6)))))).replay = []
    ∧ (let s := setRlpX 15 { RlpX.rest with draining := true } up
       (rlpX 15 s).draining = true ∧ (rlpX 15 s).down = 0 ∧ (portOf 15 s).replay.any (fun f => decide (f.vc < 8)) = false)
    ∧ (rlGood 15 0 (sets [(rlpP 15, RLP_STAT_GOOD_RX, 15)] up)).contains 3 = true
    ∧ reaches 0 (rlpP 15 + 0x80) (port15 3) := by decide

theorem test_hyps_RlPortsChangeState_width :
    (rlHeader 15 0 0 8 true false (port15 5)).1 = .accept ∧ getF (rlpP 15) RLP_STAT_WIDTH (rlHeader 15 0 0 8 true false (port15 5)).2 ≠ 4
      ∧ (lanes4 15).length = 4 ∧ lifeAt (statOf (rlpP 15)) (rlHeader 15 0 0 8 true false (port15 5)).2 = 2
      ∧ (rlpX 15 (rlHeader 15 0 0 8 true false (port15 5)).2).draining = false := by decide

/-- A node of the fabric: node 2^18 - 1; its routing entry for node 1 escapes by port 0, which carries. -/
def noded : State :=
  wrW (rtrP 2 + 0x200) (BitVec.ofNat 32 (2 ^ 24))
    (sets [(glbP, GLB_NODE_NODE_VALID, 1), (glbP, GLB_NODE_NODE_ID, 2 ^ 18 - 1), (rlpP 0, RLP_STAT_CARRYING, 1)] up)

/-- A packet that waits. -/
def pkt_ (esc : Bool) : Pkt := ⟨15, 1, 0, 63, 0, 0, esc, false, false, []⟩

theorem test_hyps_RlPacketsFindTheirWay :
    nodeValid noded = true ∧ nodeId noded = 2 ^ 18 - 1 ∧ (nodeValid noded && (1 : Nat) == nodeId noded) = false
    ∧ 16000 ≤ 15999 + max 1 0 ∧ 15998 + max 1 0 < 16000
    ∧ seenMsg 7 9 (rememberMsg 7 9 up) = true
    ∧ [(pkt_ true, 0), (pkt_ false, 0)][1]? = some (pkt_ false, 0)
    ∧ bestPort (pkt_ false).vc (pkt_ false).flits noded (liveCands (routeEntry (pkt_ false).dst noded) noded) = none
    ∧ (escPort (routeEntry (pkt_ false).dst noded) noded).isSome = true := by decide


/-! ### What the statements suppose can hold: messages, herds, bead memory, translation -/

/-- An MSEND of rod 0 to rod 5, channel 31, in phase `ph`: 56 bytes. -/
def send_ (ph : Nat) : Started := ⟨wait_ 5 1 0 false, false, 0, ⟨0, false⟩, true, 0, 0, 1, 0, 0, [ph, 5, 31, 56, 0, 0, 4]⟩

/-- That MSEND is started; rod 5 runs, and its channel 31 has one granule. -/
def sending (ph size : Nat) : State :=
  sets [(msgP 5, MSG_CH_BUF_SIZE 31, size), (msgP 5, MSG_CH_STAT_FREE 31, size)] (setSeq 0 { SeqSt.reset with started := [send_ ph] } (runs 0 (runs 5 up)))

theorem test_hyps_ItemsAreReservedSentAndAnswered_send :
    (∀ k ∈ [0, 2, 3, 4], sendInfo (senderOf 0 3) (sending k 1) = some (k, 5, 31, 56)) ∧ startedBy 0 3 (sending 4 1) = some (send_ 4)
    ∧ cwUnit (send_ 4).cmd.word = 5
    ∧ isCchan 5 31 (sending 0 1) = false ∧ rodRuns 5 (sending 0 1) = true ∧ rodRuns 5 up = false ∧ granules 56 = 1 ∧ granules 57 = 2
    ∧ getF (msgP 5) (MSG_CH_BUF_SIZE 31) (sending 0 1) = 1 ∧ getF (msgP 5) (MSG_CH_BUF_SIZE 31) (sending 0 0) = 0 ∧ (resvsAt 5 (sending 0 1)).length < 256
    ∧ (let s := { sending 1 1 with resvs := [(5, [⟨.rod 0 3, 31, 1⟩])] }
       (resvsAt 5 s).find? (fun r => r.ch == 31) = some ⟨.rod 0 3, 31, 1⟩ ∧ 1 ≤ chanFree 5 31 s)
    ∧ 256 ≤ (resvsAt 5 { sending 0 1 with resvs := [(5, List.replicate 256 ⟨.rod 0 3, 31, 1⟩)] }).length := by decide +kernel

/-- The header of an item of n bytes at a message channel. -/
def hdr_ (n : Nat) : Nat := 2 ^ 63 + 2 ^ 56 + n

/-- Queue 191 has producer 0's partial item with `left` words to come, which is to be dropped or not. -/
def partly (left : Nat) (drop : Bool) : State := setFq 191 { FQueue.empty with parts := [⟨0, hdr_ 16, [], [], left, drop⟩] } (sending 3 1)

theorem test_hyps_ItemsAreReservedSentAndAnswered_alone :
    (∀ l ∈ [0, 1, 2], ∀ d ∈ [true, false], (fqOf 191 (partly l d)).parts.find? (fun p => p.prod == 0) = some ⟨0, hdr_ 16, [], [], l, d⟩)
    ∧ (partly 1 true).flights = [] ∧ (fqOf 191 (sending 3 1)).parts = []
    ∧ headerOk 191 (hdr_ 16) = true ∧ 1 < (hdr_ 16 % 65536 + 7) / 8 ∧ headerOk 191 0 = false
    ∧ (fqOf 191 (setFq 191 { FQueue.empty with resync := [0] } up)).resync.contains 0 = true ∧ (fqOf 191 up).resync.contains 0 = false
    ∧ synMayWrite 3 0 (2 ^ 63 + 2 ^ 58 + 8) up = true
    ∧ (let h : HubItem := ⟨9, 5, 31, 0, [], [], 4, 0x81, none, some 7, 0⟩
       let s := { up with hubItems := [h] }
       (sendInfo (.hub 9) s).map (·.1) = some 4 ∧ s.hubItems.find? (fun h => h.id == 9) = some h ∧ h.dup = none ∧ h.entry = some 7 ∧ 0 < h.answer) := by
  decide +kernel

theorem test_hyps_ItemsAreReservedSentAndAnswered_words :
    let f : Flight := ⟨191, 0, .rod 0 3, [(8, 0), (0, 0)]⟩
    [f].find? (fun f => f.q == 191 && f.prod == 0) = some f ∧ lostWord f (sending 3 1) = false ∧ lostWord f up = true
      ∧ [{ f with words := [(8, 0)] }].find? (fun f => f.q == 191 && f.prod == 0) = some { f with words := [(8, 0)] }
      ∧ (wordIn 191 0 (2 ^ 63 + 2 ^ 56 + 16) 0 (sending 3 1)).1 = none ∧ (wordIn 191 0 0 0 (sending 3 1)).1 = some 3
      ∧ (sending 3 1).flights.find? (fun f => f.q == 191 && f.prod == 0) = none ∧ 191 < 0x8000 := by decide +kernel

theorem test_hyps_ItemsAreReservedSentAndAnswered_channels :
    reaches 0 (msgP 1023 + 0x10C + 16 * 31) (mine (msgP 1023) up) ∧ reaches 0 (msgP 1023 + 0x100 + 16 * 31) (mine (msgP 1023) up)
    ∧ flag (msgP 1023) PG_LOCK_LOCKED (mine (msgP 1023) up) = false
    ∧ spadSize < (32767 % 2 ^ 15 + min 32768 (bitsOf (2 ^ 31 + 32767) 31 16)) * 64 ∧ (32767 % 2 ^ 15 + min 32768 (bitsOf (2 ^ 16 + 32767) 31 16)) * 64 ≤ spadSize := by
  decide

/-- Rod 0 takes part in deadlock detection, with that MSEND blocked. -/
def dl : State := sets [(herdP 0, HERD_MODE_DL_EN, 1)] (sending 1 1)

/-- A probe of that wait, on its way to rod d. -/
def probe_ (conf : Bool) (num : Nat) (path : List (Nat × Nat × Nat × Nat)) : Probe := ⟨conf, 0, 0, 5, num, 0, 0, 0, 0, 0, path⟩

theorem test_hyps_ItemsAreReservedSentAndAnswered_probes :
    startedBy 0 3 dl = some (send_ 1) ∧ dlHerd 0 dl = some 0 ∧ (send_ 1).blocked = true ∧ edgeOf 0 (send_ 1) dl ≠ .none
    ∧ probeTakes (probeRod (probe_ false 3 []) up) up = false ∧ probeTakes (probeRod (probe_ false 3 []) dl) dl = true
    ∧ nodeId dl = 0 ∧ probeRod (probe_ false 3 []) dl = 0 ∧ (send_ 1).block = (probe_ false 3 []).block ∧ (send_ 1).since = (probe_ false 3 []).start
    ∧ ¬ ((1 : Nat) = nodeId dl ∧ (0 : Nat) = 0)
    ∧ (probe_ true 3 [(0, 0, 3, 0)]).path[(probe_ true 3 [(0, 0, 3, 0)]).passed]? = some (0, 0, 3, 0)
    ∧ (probe_ true 3 []).path[(probe_ true 3 []).passed]? = none
    ∧ (let p := { probe_ false 3 (List.replicate 1024 (0, 0, 3, 0)) with node := 1 }; p.node ≠ nodeId dl ∧ 1024 ≤ p.path.length) := by decide +kernel

theorem test_hyps_HerdsAreResetResizedAndShared :
    (let s := live (statOf (herdP 127)) 2 (sets [(herdP 127, HERD_GEOM_W, 2), (herdP 127, HERD_GEOM_H, 4)] up)
     lifeAt (statOf (herdP 127)) s = 2 ∧ flag (herdP 127) HERD_RSTAT_BUSY s = false
      ∧ (herdRods 127 s).any (fun i => lifeAt (statOf (seqP i)) s != 0) = false
      ∧ rodChecks 127 (herdX0 127 s) (herdY0 127 s) 2 4
        ((rectRods (herdX0 127 s) (herdY0 127 s) 2 4).filter (fun i => !(geomRods 127 s).contains i)) s = none)
    ∧ rodChecks 127 0 0 0 0 [] up = some 0x10
    ∧ reaches 0 (herdP 127 + 0x8C) up ∧ reaches 0 (herdP 127 + 0x90) up ∧ (∀ r, r < 12 → reaches 0 (herdP 127 + 0xA0 + 4 * r) up)
    ∧ flag (herdP 127) PG_LOCK_LOCKED up = false := by decide

/-- A request of phase ph for 64 bytes of rod 1023 at bead address a. -/
def breq (ph a : Nat) : PReq := ⟨8, .stream 0 7 3 0, 0, 0, 64, false, [], [], ph, some (.bead 1023 a), 0, 0⟩

/-- That request is outstanding; in phase 2 it waits for its page. -/
def asked (ph a : Nat) : State := setBead 1023 { BeadSt.empty with waits := if ph = 2 then [8] else [] }
  (live (statOf (beadP 1023)) 2 { up with reqs := [breq ph a] })

theorem test_hyps_BeadRequestsAreServed :
    (asked 1 0).reqs.find? (fun r => r.id == 8) = some (breq 1 0) ∧ beadSize < beadSize - 63 + 64 ∧ beadSize - 64 + 64 ≤ beadSize
    ∧ beadBlocked 1023 0 (asked 1 0) = none ∧ chanHeld 1023 0 (asked 1 0) = false ∧ resident 1023 0 (asked 1 0) = false
    ∧ ((fillsOf 1023 (asked 1 0)).filter (fun x => x % 2 == 0)).length < 8
    ∧ beadBlocked 1023 0 (setBead 1023 { BeadSt.empty with zeroing := true } (asked 1 0)) = some 5
    ∧ chanHeld 1023 0 (setCal 1023 0 ⟨false, true, false, 0, false, 0⟩ (asked 1 0)) = true
    ∧ resident 1023 0 (setBead 1023 { BeadSt.empty with cache := [⟨0, [], false, 0⟩] } (asked 1 0)) = true
    ∧ (fillsOf 1023 (asked 2 0)).contains 0 = true ∧ chanHeld 1023 0 (asked 2 0) = false
    ∧ (let s := asked 1 0
       (fillsOf 1023 (bump64 (beadP 1023 + 0xE0) 1 s)).contains 0 = false
        ∧ lostAt 1023 0 (cacheInsert 1023 0 (List.range 32) true (regionClass 1023 (pageRegion 0) (bump64 (beadP 1023 + 0xE0) 1 s))
            (bump64 (beadP 1023 + 0xE0) 1 s)) = false)
    ∧ (let s := setBead 1023 { BeadSt.empty with cache := [⟨0, [], false, 0⟩], lost := [0] } (asked 1 0)
       resident 1023 0 s = true ∧ lostAt 1023 0 (cacheUse 1023 0 (bump64 (beadP 1023 + 0xD8) 1 s)) = true) := by decide +kernel

theorem test_hyps_BeadRequestsAreServed_line :
    (let s := setBead 1023 { BeadSt.empty with waits := List.replicate 64 9 } { asked 1 0 with reqs := [breq 1 0, { breq 2 64 with id := 9 }] }
     beadBlocked 1023 0 s = none ∧ 64 ≤ (waiting 1023 s).length ∧ s.reqs.find? (fun r => r.id == 8) = some (breq 1 0) ∧ resident 1023 0 s = false)
    ∧ (let s := setBead 1023 { BeadSt.empty with waits := (List.range 8).map (fun k => 9 + k) }
         { asked 1 0 with reqs := breq 1 0 :: (List.range 8).map (fun k => { breq 2 (4096 * (k + 1)) with id := 9 + k }) }
       beadBlocked 1023 0 s = none ∧ chanHeld 1023 0 s = false ∧ (waiting 1023 s).length < 64 ∧ (fillsOf 1023 s).contains 0 = false ∧ 8 ≤ ((fillsOf 1023 s).filter (fun x => x % 2 == 0)).length)
    ∧ [0, 7].any (fun n => decide (8 ≤ n)) = false ∧ [1, 8].any (fun n => decide (8 ≤ n)) = true
    ∧ (let t := fillPage 1023 0 (found 1023 0 [] false false (asked 2 0))
       (waiting 1023 t).filter (fun r => r.page == some (1023, 0)) = [breq 2 0]) := by decide +kernel

theorem test_hyps_BeadColumnsAreKept :
    (∀ o ∈ [0xE8, 0x80, 0x88, 0x88 + 4 * 11], reaches 0 (beadP 1023 + o) (mine (beadP 1023) up))
    ∧ flag (beadP 1023) BEAD_CTL_BUSY (sets [(beadP 1023, BEAD_CTL_BUSY, 1)] up) = true
    ∧ flag (beadP 1023) BEAD_SCRUB_CTL_MANUAL up = false ∧ (beadOf 1023 up).zeroing = false ∧ getF (beadP 1023) BEAD_SCRUB_STAT_POS up = 0
    ∧ getF (beadP 1023) BEAD_SCRUB_STAT_POS (sets [(beadP 1023, BEAD_SCRUB_STAT_POS, 49151)] up) = 49151
    ∧ asOn 1023 (sets [(beadP 1023, BEAD_CODE_CTL_AS_EN, 0)] up) = false ∧ asOn 1023 (sets [(beadP 1023, BEAD_CODE_CTL_AS_EN, 1)] up) = true
    ∧ getF (beadP 1023) (rsweepF 95) (sets [(beadP 1023, rsweepF 95, 1)] up) = 1
    ∧ flag (beadP 1023) BEAD_CODE_CTL_MANUAL up = false ∧ flag (beadP 1023) BEAD_CODE_CTL_MANUAL (sets [(beadP 1023, BEAD_CODE_CTL_MANUAL, 1)] up) = true
    ∧ (beadOf 1023 (setBead 1023 { BeadSt.empty with zeroing := true } up)).zeroing = true
    ∧ beadBand (beadTemp 1023 7 up) (beadMult 1023 7 up) = beadMult 1023 7 up
    ∧ (let s := sets [(beadP 1023, ⟨0x0C0, 15, 14⟩, 1)] up; beadBand (beadTemp 1023 7 s) (beadMult 1023 7 s) ≠ beadMult 1023 7 s)
    ∧ scrubPeriod 1023 0 up ≠ 0
    ∧ scrubPeriod 1023 0 (sets [(beadP 1023, BEAD_SCRUB_CTL_MANUAL, 1), (beadP 1023, BEAD_SCRUB_CTL_PERIOD_MIN, 0)] up) = 0
    ∧ (∀ crc ∈ [[], [7]], (crcRepeats 1023 49151 crc up).1 = true) ∧ (crcRepeats 1023 49151 [8] up).1 = false
    ∧ (let s := sets [(beadP 1023, rsweepF 95, 1)] up
       (((beadOf 1023 s).errs.map (·.1) ++ (beadOf 1023 s).badHdr ++ (beadOf 1023 s).badMeta).foldl nsInsert []) = [] ∧ (beadOf 1023 s).cache = []) := by
  decide +kernel

/-- An open fault of rod 0, told or not. -/
def fault_ (sent : Bool) : XFault := ⟨5, 0, 0, false, 1, 3, 0, 0, 0, sent⟩

/-- Rod 0 of herd 0 has that fault open; function 0 may issue. -/
def faulted (sent : Bool) : State :=
  setFn 0 { fnOf 0 up with bme := true } (setXl 0 ⟨[], [], [], [fault_ sent], 6, []⟩ (sets [(xlatP 0, XLAT_FQ_SIZE_LOG2, 4), (xlatP 0, XLAT_PAGER_TIMEOUT, 1)]
    (mine (xlatP 0) (runs 0 up))))

/-- An item of two words waits at the pager's channel 31 of rod 0. -/
def paged (body : List Byte) : State := setFq (chanKey 0 31) { FQueue.empty with items := [⟨0, 0, body, [], 0⟩] } (sets [(xlatP 0, XLAT_PAGER_MODE, 1)] up)

theorem test_hyps_TranslationIsServed :
    (let s := faulted false
     (xlOf 0 s).faults.find? (fun f => !f.sent) = some (fault_ false) ∧ flag (xlatP 0) XLAT_PAGER_MODE s = false
      ∧ fqUsed 0 s ≠ 2 ^ getF (xlatP 0) XLAT_FQ_SIZE_LOG2 s ∧ mayIssue (herdNo 0 s) s = true ∧ lifeAt (statOf (herdP (herdNo 0 s))) s ≠ 4)
    ∧ (∀ o ∈ [0xA4, 0xB4, 0x90], reaches 0 (xlatP 0 + o) (faulted true))
    ∧ ((xlOf 0 (faulted true)).faults.find? (fun f => f.fid == 5) = some (fault_ true) ∧ (xlOf 0 (faulted true)).faults.find? (fun f => f.fid == 65535) = none
      ∧ getF (xlatP 0) XLAT_PAGER_TIMEOUT (faulted true) ≠ 0)
    ∧ flag (xlatP 0) XLAT_INV_STAT_BUSY (faulted true) = false ∧ flag (xlatP 0) XLAT_INV_STAT_BUSY (sets [(xlatP 0, XLAT_INV_STAT_BUSY, 1)] up) = true
    ∧ herdOfRod (bitsOf 1 13 4) (faulted true) = herdOfRod 0 (faulted true) ∧ herdOfRod (bitsOf (1023 * 16) 13 4) (faulted true) ≠ herdOfRod 0 (faulted true)
    ∧ (bitOf 1 0 = true ∧ bitsOf 1 23 19 = bitsOf 1 18 14) ∧ bitOf 0 0 = false := by decide

theorem test_hyps_TranslationIsServed_pager :
    (let s := paged (leBytes 8 (1 + 5 * 2 ^ 16) ++ leBytes 8 0)
     (pagerItem 0 s).bind FItem.pair = some (1 + 5 * 2 ^ 16, 0) ∧ isComplete (1 + 5 * 2 ^ 16, 0) = true)
    ∧ (let s := paged (leBytes 8 (2 + 2 ^ 16) ++ leBytes 8 (2 ^ 16))
       (pagerItem 0 s).bind FItem.pair = some (2 + 2 ^ 16, 2 ^ 16) ∧ isInvalidate (2 + 2 ^ 16, 2 ^ 16) = true)
    ∧ (pagerItem 0 (paged [])).map FItem.pair = some none
    ∧ (hxOf 127 (setHx 127 { HerdX.empty with inv := some ⟨0, true, 0, 0, 7, none⟩ } up)).inv = some ⟨0, true, 0, 0, 7, none⟩ := by decide

/-- A migration of herd 0 in a step. -/
def mig_ (st : Nat) : Mig := ⟨0, true, 0x41, 3, true, 0, 0, st⟩

theorem test_hyps_TiersMigrate :
    reaches 0 (xlatP 0 + 0xBC) (faulted true)
    ∧ tierRuns 0 (sets [(xlatP 0, XLAT_TIER_CTL_EN, 1)] up) = true
    ∧ (hxOf 0 (tierAge 0 up).2).mig = none ∧ (hxOf 0 (tierAge 0 (setHx 0 { HerdX.empty with mig := some (mig_ 1) } up)).2).mig.isSome = true
    ∧ tierRuns 0 up = false
    ∧ (∀ k ∈ [1, 3], (hxOf 0 (setHx 0 { HerdX.empty with mig := some (mig_ k) } up)).mig = some (mig_ k))
    ∧ up.reqs.any (fun r => inFlight 0 r up && r.va / 2 ^ 16 == (mig_ 1).page) = false
    ∧ (leafNow 0 0x141 (mig_ 3) up).1 = (mig_ 3).leaf + 2 ^ 8 ∧ (leafNow 0 0x41 (mig_ 3) up).1 ≠ (mig_ 3).leaf + 2 ^ 8 := by decide


/-! ### What the statements suppose can hold: transactions, fabric manager -/

/-- A packet whose end-to-end header is `w0`, `w1`, with a payload. -/
def e2ePkt (w0 w1 : Nat) (body : List Byte) : Pkt := ⟨15, 0, 7, 63, 0, 0, false, false, false, leBytes 8 w0 ++ leBytes 8 w1 ++ body⟩

/-- It has arrived. -/
def arrived (k : Pkt) : State := { up with e2e := { up.e2e with arrived := [k] } }

/-- A transaction under way with tag 9, use 0. -/
def txn (sent : Nat) (pend : Option Nat) : Txn := ⟨9, 0, 0, 0, 7, 0, 64, 0, [], [], 0, sent, pend, .gone 0⟩

/-- An entry of the duplicate table for node 7, tag 9. -/
def dup_ (o : Option (Nat × List Byte)) : Dup := ⟨7, 9, 0, 0, 2, 0, 0, 0, o, false⟩

/-- At a late time, with that transaction and that entry. -/
def later (x : Txn) (d : Dup) : State := { up with now := 100000000, e2e := { up.e2e with live := [x], dups := [d] } }

/-- E0 of an operation, and of a response with a status. -/
def w0Req (op : Nat) : Nat := 9 + op * 2 ^ 30
def w0Rsp (st : Nat) : Nat := 9 + 2 ^ 34 + st * 2 ^ 38

theorem test_hyps_TransactionsRunEndToEnd_requests :
    (∀ op ∈ [0, 1, 2, 3, 15], let k := e2ePkt (w0Req op) (64 * 2 ^ 46) (if op = 1 then [1] else [])
      firstArrived false (arrived k) = some k ∧ k.op = op ∧ (k.badReq = false ↔ op < 2)
      ∧ (takeArrived k (arrived k)).e2e.dups.find? (fun d => d.src == k.src && d.tag == k.tag) = none ∧ (takeArrived k (arrived k)).e2e.dups.length < 32768)
    ∧ (let k := e2ePkt (w0Req 0) 0 []; k.op < 2 ∧ k.badReq = true) ∧ { up with fatal := [0x0102] }.fatal ≠ []
    ∧ (let k := e2ePkt (w0Req 2) 0 []
       [dup_ none].find? (fun d => d.src == k.src && d.tag == k.tag) = some (dup_ none) ∧ (dup_ none).epoch = k.epoch ∧ (dup_ none).use = k.use) := by
  decide +kernel

theorem test_hyps_TransactionsRunEndToEnd_responses :
    (∀ st ∈ [0, 1, 2, 3], let k := e2ePkt (w0Rsp st) 0 []
      firstArrived true { later (txn 1 none) (dup_ none) with e2e := { (later (txn 1 none) (dup_ none)).e2e with arrived := [k] } } = some k ∧ bitsOf k.e0 45 38 = st
        ∧ liveOf k (later (txn 1 none) (dup_ none)) = some (txn 1 none) ∧ liveOf k up = none)
    ∧ (let s := later (txn 8 none) (dup_ none)
       s.e2e.live.find? (fun y => y.tag == 9) = some (txn 8 none) ∧ (txn 8 none).start + 48000000 ≤ s.now ∧ (txn 7 none).start + 4000000 * 7 ≤ s.now
        ∧ (0 : Nat) + 4000000 ≤ s.now ∧ s.e2e.dups.find? (fun d => d.src == 7 && d.tag == 9) = some (dup_ none) ∧ (dup_ none).time + 1000000 ≤ s.now)
    ∧ (let s := sets [(e2eP 0, E2E_STAT_QUIET, 1)] { up with now := 17000000 }
       flag (e2eP 0) E2E_STAT_QUIET s = true ∧ s.e2e.since + 17000000 ≤ s.now) := by decide +kernel

theorem test_hyps_TransactionsRunEndToEnd_records :
    (let k := e2ePkt (w0Req 2) 0 []
     let d := dup_ (some (0, []))
     [d].find? (fun d => d.src == k.src && d.tag == k.tag) = some d ∧ d.done = some (0, []))
    ∧ (later (txn 1 none) (dup_ (some (0, [])))).e2e.dups.find? (fun d => d.src == 7 && d.tag == 9 && d.done.isSome) = some (dup_ (some (0, [])))
    ∧ (dup_ none).done = none ∧ (txn 7 (some 5)).pend = some 5 ∧ flag (e2eP 0) E2E_STAT_QUIET (sets [(e2eP 0, E2E_STAT_QUIET, 0)] up) = false := by decide +kernel

theorem test_hyps_TransactionsRunEndToEnd_full :
    32768 ≤ { up.e2e with dups := List.replicate 32768 { dup_ none with tag := 8 } }.dups.length
      ∧ (List.replicate 32768 { dup_ none with tag := 8 }).find? (fun d => d.src == 7 && d.tag == 9) = none := by
  refine ⟨by show 32768 ≤ (List.replicate 32768 _).length; exact Nat.le_of_eq List.length_replicate.symm, ?_⟩
  rw [List.find?_eq_none]
  intro x hx
  rw [(List.mem_replicate.1 hx).2]
  decide

/-- A fabric with a manager key known. -/
def keyed (k : MgrKey) (host : Bool) : State :=
  { up with now := 60000000, rtr := { up.rtr with best := some k, claimed := some 0, beat := some 0, hostHere := host } }

theorem test_hyps_TheManagerIsElected :
    seenMsg 7 9 up = false ∧ seenMsg 7 9 (rememberMsg 7 9 up) = true
    ∧ beatsBest ⟨1, 0, 1⟩ (keyed ⟨0, 0, 1⟩ false) = true ∧ beatsBest ⟨0, 0, 1⟩ (keyed ⟨1, 0, 1⟩ false) = false
    ∧ (keyed ⟨0, 0, 1⟩ true).rtr.claimed = some 0 ∧ (0 : Nat) + 50000000 ≤ (keyed ⟨0, 0, 1⟩ true).now
    ∧ managerHere (sets [(rtrP 0, RTR_FM_ROLE, 1)] up) = true ∧ managerHere up = false
    ∧ reaches 0 (e2eP 0 + 0x80) up ∧ nodeValid up = false ∧ nodeValid noded = true ∧ reaches 0 (rtrP 0 + 0x84) up := by decide +kernel

/-- This device's own key may be the best one: the HEARTBEAT of that key makes its sender the manager. -/
theorem test_hyps_TheManagerIsElected_own :
    (∀ h, (keyed (ownKey (keyed ⟨0, 0, 1⟩ h)) h).rtr.best = some (ownKey (keyed (ownKey (keyed ⟨0, 0, 1⟩ h)) h)))
    ∧ (flood ⟨16, 0, 0, 63, 0, 0⟩ 0x11 [7, 9, 0, 0, 1, 5, 0] (rememberMsg 7 9 (keyed ⟨0, 0, 1⟩ false))).rtr.best = some ⟨0, 0, 1⟩ :=
  ⟨fun h => by cases h <;> rfl, by decide +kernel⟩

/-- A device that the manager here has asked with request `a`. -/
def fmDev (a : Nat) : FmNode := ⟨77, some 3, 1, a, 40, 0, [(3, [1]), (4, [2])], false, [(0, 78, 1)], 0⟩

/-- MGS manages the fabric and knows that device. -/
def managing (a : Nat) : State :=
  sets [(rtrP 0, RTR_FM_ROLE, 1)] { up with now := 10000000, rtr := { up.rtr with nodes := [fmDev a] } }

theorem test_hyps_TheManagerRunsTheFabric :
    (∀ a ∈ [0x12, 0x14, 0x16], mgsManages (managing a) = true ∧ fmNode 77 (managing a) = some (fmDev a) ∧ (fmDev a).asked = a
      ∧ (fmDev a).since + 10000000 ≤ (managing a).now)
    ∧ fabricOn (sets [(glbP, GLB_LIC_FEATURES, 1)] up) = true ∧ fabricOn up = false
    ∧ (fmDev 0).links.all (fun l => l.1 != 5) = true
    ∧ (managing 0x16).rtr.nodes.find? (fun x => x.asked == 0x16 && x.seq == 40) = some (fmDev 0x16)
    ∧ (fmDev 0x16).owed.find? (fun w => w.1 == 3) = some (3, [1]) ∧ (fmDev 0x16).owed.erase (3, [1]) ≠ []
    ∧ ({ fmDev 0x16 with owed := [(3, [1])] } : FmNode).owed.erase (3, [1]) = [] := by decide +kernel


/-! ### What the statements suppose can hold: KVM, video, host queues -/

/-- A KVM operation of code c: herd 127, rod j, DH 1. -/
def kvOp (c j : Nat) : KvOp := ⟨c + 127 * 2 ^ 8 + 2 ^ 23 + 5 * 2 ^ 32, j * 2 ^ 32, 0, 0, 0, none, false⟩

/-- A bound pair of head 0 in rod 0, and its sequence. -/
def kvPair : KvPair := ⟨0, 0, 7, 1⟩
def kvSeq : KvSeq := ⟨127, 5, false, [kvPair]⟩

/-- The KVM is READY, herd 127 too, with operations and sequences. -/
def kvmUp (ops : List KvOp) (seqs : List KvSeq) : State :=
  live (statOf (herdP 127)) 2 (live (statOf (kvmP 0)) 2 { up with kvm := ⟨seqs, [], ops, []⟩ })

theorem test_hyps_TheKvmActs_ops :
    (∀ c ∈ [0, 1, 2, 3, 4, 5, 6, 255], kvHead (kvmUp [kvOp c 0] []) = some (kvOp c 0) ∧ (kvOp c 0).code = c ∧ (kvOp c 0).bad = false)
    ∧ (kvOp 1 1024).bad = true ∧ flag (kvmP 0) KVM_CTL_MANUAL (kvmUp [] []) = false ∧ (kvOp 1 0).herd = 127
    ∧ lifeAt (statOf (herdP 127)) (kvmUp [] []) = 2
    ∧ kvSeqOf 127 5 (kvmUp [] [kvSeq]) = some kvSeq ∧ kvSeqOf 127 5 (kvmUp [] []) = none ∧ kvSeq.pairs.any (fun x => x.st == 2) = false
    ∧ kvSeq.pairs.find? (fun x => x.head == (kvOp 4 0).head) = some kvPair ∧ reaches 0 (kvmP 0 + 0xA8) up := by decide +kernel

theorem test_hyps_TheKvmActs_full : 4096 ≤ (kvmUp [] (List.replicate 4096 ⟨0, 0, false, []⟩)).kvm.seqs.length := by
  show 4096 ≤ (List.replicate 4096 _).length
  exact Nat.le_of_eq List.length_replicate.symm

theorem test_hyps_TheKvmActs_pairs :
    (kvOp 1 1).nhead = 1 ∧ kvPlace (kvOp 1 5) 1 0 (kvmUp [kvOp 1 5] []) = none
    ∧ (kvmUp [kvOp 2 0] [kvSeq]).kvm.moves = [] ∧ kvSeq.pairs.any (fun x => kvInUse x.rod x.h (kvmUp [kvOp 2 0] [kvSeq])) = false
    ∧ kvPair.st = 1 ∧ (kvOp 4 1).rod = 1 := by decide +kernel

/-- Herd 127 is rods 0 to 7 of the grid's corner; rod 1 has a pool. -/
def kvHerd : State :=
  let own (i : Nat) (s : State) : State := sets [(seqP i, PG_OWNER_FREE, 0), (seqP i, PG_OWNER_HERD, 127)] (live (statOf (seqP i)) 2 s)
  own 1 (sets [(herdP 127, HERD_GEOM_W, 2), (herdP 127, HERD_GEOM_H, 4), (kvP 1, KV_POOL_CFG_COUNT, 4), (kvP 1, KV_POOL_CFG_STRIDE, 255)] (kvmUp [] [kvSeq]))

/-- A move of that pair to rod 1. -/
def kvMv : KvMove := ⟨127, 5, 0, 0, 7, 1, 0, 0, true⟩

theorem test_hyps_TheKvmActs_moves :
    kvEligible 127 1 1 64 kvHerd = true
    ∧ (kvmReady kvHerd = true ∧ hubThrottled kvHerd = false ∧ getF (kvmP 0) KVM_CTL_PERIOD (sets [(kvmP 0, KVM_CTL_PERIOD, 1)] kvHerd) ≠ 0)
    ∧ (setKvm { kvHerd.kvm with moves := [kvMv] } kvHerd).kvm.moves[0]? = some kvMv
    ∧ (let s := setKvH 0 7 { KvH.free with st := 1, frozen := true } kvHerd
       (kvH kvMv.src kvMv.srcH s).frozen = true ∧ kvInUse kvMv.src kvMv.srcH s = false ∧ moveLate kvMv s = false
        ∧ (moveCopy kvMv [] s).2.err = none ∧ (kvH kvMv.src kvMv.srcH s).nblk ≤ (moveSlots kvMv s).length)
    ∧ (let s := { setKvH 1023 255 { KvH.free with st := 3 } up with now := 100000000 }
       (kvH 1023 255 s).st = 3 ∧ (kvH 1023 255 s).movedAt + 100000000 ≤ s.now)
    ∧ (∀ r, r < 3 → reaches 0 (kvP 1023 + 0x80 + 4 * r) (mine (kvP 1023) up)) ∧ (kvOf 1023 up).hs = []
    ∧ (kvOf 1023 (setKvH 1023 255 { KvH.free with st := 1 } up)).hs ≠ [] := by decide +kernel

/-- A host-queue entry of herd 0, queue 7, slot 3, with an OP and 64-bit words. -/
def hqEnt (op : Nat) (ws : List Nat) (phase : Nat) : HqEnt := ⟨7, 3, op * 2 ^ 48 + 16, 1, ws.flatMap (leBytes 8), [], phase, 0, false⟩

/-- Queue 7 of herd 0 is READY and holds it; function 0 may issue. -/
def queued (e : HqEnt) (s : State) : State :=
  setFn 0 { fnOf 0 s with bme := true } (setHq 0 { HqSt.rest with ents := [e] } (live (queueStat 0 7) 2 s))

/-- A block of pipe 3: key 7, herd 0, session 15. -/
def vjob (op phase : Nat) (ws : List Nat) : VJob := ⟨7, 0, op, 15, 0, ws, phase, 0, false, false, false, 0, 0, 0, 0, 0, 0, [], [], [], [], false⟩

/-- A session of pipe 3. -/
def vsess (ws : List Nat) : VSess := ⟨15, 0, ws, 0, false, [], [], [], none, 0, 0, 1, none⟩

/-- Pipe 3 is READY with sessions and blocks. -/
def piped (ys : List VSess) (js : List VJob) : State := live (statOf (vpxP 3)) 2 (setVp 3 { VPipe.empty with sess := ys, jobs := js } up)

theorem test_hyps_VideoRuns_entries :
    (hqEnt 5 [9 + 3 * 2 ^ 32] 0).bad = [] ∧ { hqEnt 5 [9 + 3 * 2 ^ 32] 0 with bad := [0] }.bad ≠ [] ∧ (let e := hqEnt 5 [9 + 3 * 2 ^ 32] 0
     entryAtWork 0 7 3 5 (queued e up) = some e ∧ entryPipe e = 3 ∧ pipeLife 3 (queued e up) ≠ 2 ∧ pipeLife 3 (queued e (piped [] [])) = 2)
    ∧ (vpOf 3 (piped [] [])).jobs.countP (fun j => j.phase == 0) < 64
    ∧ 64 ≤ (vpOf 3 (piped [] (List.replicate 64 (vjob 1 0 [])))).jobs.countP (fun j => j.phase == 0) := by decide +kernel

theorem test_hyps_VideoRuns_jobs :
    (∀ op ∈ [1, 2, 3, 4, 5], vFront 3 0 15 (piped [vsess []] [vjob op 0 [8]]) = some (vjob op 0 [8]) ∧ (vjob op 0 [8]).len = 8)
    ∧ vsOf 3 15 (piped [] []) = none ∧ (vsOf 3 15 (piped [vsess []] [])).isSome = true ∧ openOk 3 (vjob 1 0 []) (piped [] []) = false
    ∧ vMine 3 0 15 (piped [vsess []] []) = some (vsess []) ∧ vMine 3 0 15 (piped [] []) = none
    ∧ jobOk (vjob 3 0 [40]) (vsess []) = true ∧ jobOk (vjob 4 0 [40]) (vsess [1]) = true
    ∧ ((vsess []).group 3).all (fun u => (pipeLife u (piped [vsess []] []) == 2 || pipeLife u (piped [vsess []] []) == 3)
        && (vpRun u (piped [vsess []] [])).isNone) = true
    ∧ jobOk (vjob 3 0 [8]) (vsess []) = false ∧ vYields 0 [3] (piped [vsess []] [vjob 3 0 [40]]) = false
    ∧ (let s := piped [vsess [], { vsess [] with num := 14, herd := 1 }] [vjob 3 0 [40], { vjob 3 0 [40] with herd := 1, sess := 14, key := 8 }]
       vYields 0 [3] (sets [(herdP 1, HERD_SHARE_WEIGHT 10, 5), (herdP 0, HERD_SHARE_WEIGHT 10, 0)] s) = true)
    ∧ (vpOf 3 (piped [] [vjob 2 0 [8]])).jobs.find? (fun j => j.herd == 0 && j.sess == 15 && j.phase == 0 && (j.op == 2 || j.op == 1)) = some (vjob 2 0 [8]) := by
  decide +kernel

/-- An OPEN of a decode session of 1,920 x 1,080 pixels. -/
def openJob : VJob := vjob 1 0 [136, 1920 * 2 ^ 32 + 1080 * 2 ^ 48, 0, 0, 0, 2 * 2 ^ 48]

theorem test_hyps_VideoRuns_open : openOk 3 openJob (piped [] []) = true := by decide +kernel

/-- What the decoder makes of an empty access unit, and the encoder of an empty picture. -/
def vdec (nopic : Bool) (sps : Option VSps) : VDec := ⟨6, 8, 0, 0, sps, nopic, false, none, 0, 0, 0, [], .one, [], 0, []⟩
def venc : VEnc := ⟨[], [], [], [], [], 0, 0, [], 0, 0, false⟩

theorem test_hyps_VideoRuns_work :
    vRunning 3 3 (piped [vsess []] [vjob 3 1 [40]]) = some (vjob 3 1 [40], vsess [])
    ∧ (vaRead 0 0 0 [] up).st = 0
    ∧ (vaRead 0 (2 ^ 40) 4 [] up).st ≠ 0
    ∧ (∀ b, decUnsupported (vsess []) (vdec b none) = false) ∧ decUnsupported (vsess []) (vdec false (some ⟨false, 1, 8, false, 0, 0, 0⟩)) = true
    ∧ (decWrite (vsess []) (vdec false none) (decGone (vdec false none) (vjob 3 1 [40])) (decPois (vdec false none) []) ⟨0, [], [], [], up⟩).st = 0
    ∧ decNopic (vsess []) (vdec false none) = false ∧ decNopic (vsess [2 ^ 4]) (vdec false none) = true := by decide +kernel

/-- Blocks of a session before its end of stream, one with `phase`. -/
def ending (phase : Nat) : State := piped [vsess []] [{ vjob 3 phase [40] with key := 6 }, vjob 5 0 [8]]

theorem test_hyps_VideoRuns_ends :
    (∀ p ∈ [1, 2], vFront 3 0 15 (ending p) = some (vjob 5 0 [8])
      ∧ ((vpOf 3 (ending p)).jobs.takeWhile (fun z => z.key != 7)).filter (fun z => z.herd == 0 && z.sess == 15) = [{ vjob 3 p [40] with key := 6 }])
    ∧ jobReady { vjob 3 2 [40] with key := 6 } (vsess []) = true ∧ jobReady { vjob 3 1 [40] with key := 6 } (vsess []) = false
    ∧ (outAll 3 15 0 1 ⟨0, [], [], [], ending 2⟩).st = 0
    ∧ ((vpOf 3 (piped [vsess []] [vjob 5 0 [8]])).jobs.takeWhile (fun z => z.key != 7)) = []
    ∧ (∀ op ∈ [3, 4], jobReady (vjob op 2 [40]) (vsess []) = true) ∧ (vjob 3 2 [40]).body 2 = 0
    ∧ jobReady (vjob 3 2 [40, 0, 0, 0, 2 ^ 16]) (vsess [0, 0, 0, 0, 0, 0, 0, 0, 0, 2 ^ 16]) = false
    ∧ (let z := { vjob 3 2 [40] with key := 6, poc := 1 }
       let s := piped [vsess []] [z, vjob 3 2 [40]]
       outFirst 3 z s = false ∧ outFirst 3 (vjob 3 2 [40]) s = true)
    ∧ (vaWrite 0 64 [] [] ⟨0, [], [], [], up⟩).st = 0 := by decide +kernel

/-- An encode job whose one slice segment has been written and noted. -/
def told : VJob := { vjob 4 1 [40] with headed := true }

/-- An encode session that tells its slices, with a DPB of three slots. -/
def esess : VSess := vsess [33, 0, 0, 0, 3 * 2 ^ 48]

theorem test_hyps_VideoRuns_encode :
    (let s := piped [vsess [0, 0, 2 ^ 56]] [vjob 4 1 [40]]
     (vpOf 3 s).jobs.find? (fun j => j.key == 7 && j.op == 4 && (j.phase == 1 || j.phase == 3)) = some (vjob 4 1 [40])
      ∧ encKind 3 (vsess [0, 0, 2 ^ 56]) (vjob 4 1 [40]) s = .hold)
    ∧ encKind 3 (vsess [0, 0, 2 ^ 56]) (vjob 4 3 [40]) (piped [vsess [0, 0, 2 ^ 56]] [vjob 4 3 [40]]) = .wait
    ∧ (∀ n ∈ [0, 1], let y := { esess with pics := n }
       let s := piped [y] [told]
       let k := encKind 3 y told s
       vMine 3 0 15 s = some y ∧ k ≠ .hold ∧ k ≠ .wait ∧ encOk y told k venc = true
        ∧ encOk y told k { venc with qp := 52 } = false
        ∧ (let r := encIn y told k (y.ctbCols * y.ctbRows - 1) [] s
           r.io.st = 0 ∧ (encWrite y told k venc r.bad r.io).1.st = 0))
    ∧ (let y := vsess [33 + 2 ^ 32 + 2 ^ 48, 0, 0, 0, 3 * 2 ^ 48]
       (encIn y (vjob 4 1 [40, 2 ^ 40]) .i (y.ctbCols * y.ctbRows - 1) [] up).io.st ≠ 0)
    ∧ (sliceRunning 3 (piped [vsess []] [vjob 3 1 [40]]) = some (vjob 3 1 [40], vsess []) ∧ (vsess []).lmode < 2)
    ∧ (sliceRunning 3 (piped [vsess [32]] [vjob 3 1 [40]]) = some (vjob 3 1 [40], vsess [32]) ∧ 2 ≤ (vsess [32]).lmode)
    ∧ (sliceRunning 3 (piped [esess] [vjob 4 1 [40]]) = some (vjob 4 1 [40], esess)
      ∧ 2 ≤ esess.lmode ∧ sliceNext esess (vjob 4 1 [40]) 0 0 ⟨0, 0, 0, 0⟩ = true ∧ sliceNext esess (vjob 4 1 [40]) 1 0 ⟨0, 0, 0, 0⟩ = false
      ∧ (sliceOut 3 esess (vjob 4 1 [40]) ⟨0, 0, 0, 0⟩ [] [] ⟨0, [], [], [], piped [esess] [vjob 4 1 [40]]⟩).1.st = 0) := by decide +kernel

/-- Queue 7 of herd 127 is READY with rings of 16 slots, three of them announced. -/
def rings : State :=
  setFn 127 { fnOf 127 up with bme := true } (sets [(hqP 127, HQ_Q_CFG_SQ_LOG2 7, 4), (hqP 127, HQ_Q_CFG_CQ_LOG2 7, 4), (hqP 127, HQ_Q_DBV_SQ_TAIL 7, 3)]
    (live (queueStat 127 7) 2 up))

theorem test_hyps_HostQueuesRun_fetch :
    (fnOf 127 rings).ctoDis = false ∧ (fnOf 127 (setFn 127 { fnOf 127 rings with ctoDis := true } rings)).ctoDis = true
    ∧ mayFetch 127 7 (setFn 127 { fnOf 127 rings with ctoDis := true } rings) = true
    ∧ sqAnnounced 127 7 rings < entrySlots 4096 ∧ entryHeaderOk (2 ^ 63 + 2 * 2 ^ 56 + 4096) = true := by decide +kernel

/-- A completion that waits. -/
def cpl : HqCpl := ⟨7, false, 0, 0, 3, 0, 0, [], false, 0⟩

theorem test_hyps_HostQueuesRun_rings :
    (fnOf 127 rings).d3 = false ∧ queueLife 127 7 rings = 2 ∧ queueLife 127 7 up ≠ 2 ∧ sqAnnounced 127 7 rings = 3
    ∧ (15 + sqSize 127 7 rings - sqHead 127 7 rings) % sqSize 127 7 rings = 15 ∧ sqSize 127 7 rings ≤ 16
    ∧ cqUsed 127 7 rings < (1 + cqSize 127 7 rings - getF (hqP 127) (HQ_Q_DBV_CQ_HEAD 7) rings) % cqSize 127 7 rings
    ∧ (0 + cqSize 127 7 rings - getF (hqP 127) (HQ_Q_DBV_CQ_HEAD 7) rings) % cqSize 127 7 rings ≤ cqUsed 127 7 rings
    ∧ mayFetch 127 7 rings = true ∧ entryHeaderOk (2 ^ 63 + 2 * 2 ^ 56 + 16) = true ∧ entrySlots 16 ≤ sqAnnounced 127 7 rings ∧ entryHeaderOk 0 = false
    ∧ (∃ o ∈ [47], o < 48) ∧ (∀ o ∈ [48], 48 ≤ o)
    ∧ (let s := setHq 127 { HqSt.rest with out := [cpl], due := [7] } rings
       (hqOf 127 s).out.find? (fun c => c.q == 7) = some cpl ∧ mayIssue 127 s = true ∧ cqUsed 127 7 s < cqSize 127 7 s ∧ (hqOf 127 s).phase0.contains 7 = false
        ∧ getF (hqP 127) (HQ_Q_IDX_CQ_TAIL 7) s + 1 ≠ cqSize 127 7 s ∧ (hqOf 127 s).due.contains 7 = true)
    ∧ (∀ o ∈ [0x12C, 0x118, 0x124], reaches 127 (hqP 127 + o + 0x40 * 7) up)
    ∧ msixSize 127 ≤ bitsOf (16 * 2 ^ 16) 26 16 ∧ bitsOf (15 * 2 ^ 16) 26 16 < msixSize 127
    ∧ herdOfRod (5 % 1024) up ≠ some 127 ∧ herdOfRod (0 % 1024) (runs 0 up) = some 0 := by decide +kernel

/-- Herd 0 is rods 0 to 7, READY; VA page 0 maps to its first bead page in the hub's TLB. -/
def mapped : State :=
  let s := live (statOf (herdP 0)) 2 (sets [(herdP 0, HERD_GEOM_W, 2), (herdP 0, HERD_GEOM_H, 4)] (runs 0 up))
  { wrW (xlatP 0 + 0x084) 1 (live (statOf (beadP 0)) 2 s) with hubTlb := [(0, ⟨3, 0, 35⟩)] }

/-- The tables of herd 0 stand in the host, and a migration moves VA page 0. -/
def moving : State :=
  setHx 0 { HerdX.empty with mig := some ⟨0, true, 0x23, 0, true, 0, 0, 1⟩ } (wrW (xlatP 0 + 0x084) 3 (setFn 0 { fnOf 0 mapped with bme := true } { mapped with hubTlb := [] }))

/-- A ganged decode session: CTB row 0 belongs to pipe 2, row 1 to pipe 3. -/
theorem test_hyps_ItemsAreReservedSentAndAnswered_syntax :
    let s := setVp 2 { VPipe.empty with sess := [vsess [2]], jobs := [vjob 3 1 [40]] } up
    synMayWrite 3 0 (2 ^ 63 + 2 ^ 58 + 8) s = false ∧ synMayWrite 3 0 (2 ^ 63 + 2 ^ 58 + 8 + 2 ^ 40) s = true := by decide +kernel

/-- A session with a tensor output of one row and one column. -/
def tsess : VSess := vsess [0, 0, 0, 0, 0, 0, 0, 0, 0, 1 + 2 ^ 16]

theorem test_hyps_VideoRuns_tensor :
    (let j := vjob 3 2 [40, 0, 0, 0, 2 ^ 16]
     (vpOf 3 (piped [tsess] [j])).jobs.find? (fun j => j.key == 7 && j.op == 3 && j.phase == 2 && j.body 3 != 0) = some j ∧ j.trows < tsess.outH
      ∧ tsess.outH ≤ { j with trows := 1 }.trows ∧ (tnzRow tsess 64 0 (tnzElems tsess j [] []) ⟨0, [], [], [[some 5, some 5, some 291]], moving⟩).st = 1
      ∧ 2 ≤ (tnzRow tsess (j.body 3) j.trows (tnzElems tsess j [] []) ⟨0, [], [], [], up⟩).st)
    ∧ (tnzRow (vsess [0, 0, 0, 0, 0, 0, 0, 0, 0, 2 ^ 16]) 1 0 [] ⟨0, [], [], [], up⟩).st = 0 := by decide +kernel

/-- A request of rod 0's stream that waits for a walk of VA page 0. -/
def walking (write : Bool) (s : State) : State := { s with reqs := [{ breq 0 0 with rod := 0, write := write }] }

theorem test_hyps_TranslationIsServed_walks :
    (∀ w, (walking w mapped).reqs.filter (fun r => r.rod == 0 && r.phase == 0 && r.va / 2 ^ 16 == 0 / 2 ^ 16) = [{ breq 0 0 with rod := 0, write := w }])
    ∧ mapped.reqs = []
    ∧ (tlbLook 0 0 0 true (walking true moving)).1 = none ∧ (rodWalk 0 0 0 true [some 5, some 5, some 35] (walking true moving)).1 = .ok (.bead 0 0)
    ∧ (rodWalk 0 0 0 true [some 5, some 5, some 291] (walking true moving)).1 = .mig
    ∧ (rodWalk 0 0 0 true [some 0] (walking true moving)).1 = .fault 3 1 0 0 ∧ (rodWalk 0 0 0 true [none] (walking true moving)).1 = .fault 7 1 0 0
    ∧ (tlbLook 0 0 0 false (setXl 0 ⟨[⟨3, 0, 35⟩], [], [], [], 0, []⟩ (walking false mapped))).1 = some (.ok (.bead 0 0))
    ∧ (xlOf 0 mapped).faults.length < 16 ∧ 16 ≤ (xlOf 0 (setXl 0 ⟨[], [], [], List.replicate 16 (fault_ true), 0, []⟩ mapped)).faults.length
    ∧ (let s := { runs 0 up with reqs := [{ breq 1 0 with rod := 0 }] }
       s.reqs.any (fun r => inFlight 0 r s && meets (r.va, r.va + r.len) (⟨0, true, 0, 0, 7, none⟩ : Inval).range) = true) := by decide +kernel

theorem test_hyps_HostQueuesRun_entries :
    (∀ op ∈ [0, 1, 2, 3, 4], entryAtWork 0 7 3 op (queued (hqEnt op [0, 0, 64, 0] 0) mapped) = some (hqEnt op [0, 0, 64, 0] 0)
      ∧ mayIssue 0 (queued (hqEnt op [0, 0, 64, 0] 0) mapped) = true)
    ∧ herdOfRod 0 (queued (hqEnt 1 [0] 0) mapped) = some 0 ∧ herdOfRod 1023 (queued (hqEnt 1 [0] 0) mapped) ≠ some 0
    ∧ pieceLen 0 64 = 64
    ∧ (hubWalk 0 0 true [] (queued (hqEnt 2 [0, 0, 64, 0] 0) mapped)).1 = .ok (.bead 0 0)
    ∧ (hubWalk 0 0 true [some 5, some 5, some 291] (queued (hqEnt 2 [0, 0, 64, 0] 0) moving)).1 = .mig
    ∧ rodRuns 0 (queued (hqEnt 3 [0] 0) mapped) = true := by decide +kernel

theorem test_hyps_HostQueuesRun_window :
    (0 < 2 ^ (fnOf 0 mapped).bar2 ∧ 2 ^ 30 - 1 < 2 ^ (fnOf 0 mapped).bar2 ∧ (fnOf 0 mapped).d3 = false)
    ∧ winOpen 0 false up = false ∧ winOpen 0 true mapped = true ∧ winOpen 0 false mapped = true
    ∧ (winPieces 0 false [] (pagePieces (64 / 2048 + 2) (winBase 0 mapped + 0) 64) mapped).1 = some [(0, 0, 64)]
    ∧ (winPieces 0 true [] (pagePieces (64 / 2048 + 2) (winBase 0 mapped + 0) 64) mapped).1 = some [(0, 0, 64)]
    ∧ (winRead [(0, 0, 64)] mapped).1 = 0 ∧ (winWrite [(0, 0, 64)] (List.replicate 64 0xFF) false mapped).1 = 0 := by decide +kernel


/-! ### What the statements suppose can hold: PCIe functions, MCTP, mailbox -/

/-- A page request of rod 0's stream in slot 0 for host address 0x5008. -/
def hreq (phase : Nat) : PReq := ⟨7, .stream 0 0 1 0, 0, 0x5008, 64, false, [], [], phase, some (.host 0x5008 false false), 0, 0⟩

theorem test_hyps_FunctionsOfThePcieLinkAct :
    ((127 : Nat) < 128 ∧ msixSize 127 - 1 < msixSize 127 ∧ (fnOf 127 up).d3 = false ∧ (msixOf 127 0 up).pend = false
      ∧ (msixOf 127 0 (setMsix 127 0 ⟨0, 0, true, true⟩ up)).pend = true)
    ∧ (let s := sets [(hifP, HIF_LINK_RATE, 1)] up
       getF hifP HIF_LINK_RATE s ≠ 0 ∧ configRrs s = true ∧ configRrs { s with rrsDone := true } = false ∧ numVfs s < 1 ∧ 127 ≤ 127)
    ∧ up.boot.cold = false ∧ up.boot.perst = false
    ∧ (fnOf 0 (setFn 0 { fnOf 0 up with mse := true } up)).mse = true ∧ (fnOf 0 up).mse = false
    ∧ (let s := runs 0 { up with reqs := [hreq 4] }
       atsWaiting 0 (2 ^ 20) 5 s = [hreq 4] ∧ s.atc = [] ∧ s.atc.filter (fun e => !(e.fn == 0 && e.pasid == 2 ^ 20 && e.page == 5)) = [])
    ∧ (hreq 4).target = some (.host 0x5008 false false)
    ∧ { up with pris := [⟨0, 0, 5, 0, 0⟩] }.pris = [⟨0, 0, 5, 0, 0⟩]
    ∧ (let s := runs 0 { up with reqs := [hreq 1] }
       hostReadOf 7 s = some (hreq 1) ∧ herdOfRod 0 s = some 0 ∧ (fnOf 0 s).ctoDis = false) := by decide +kernel

theorem test_hyps_FunctionsOfThePcieLinkAct_more :
    (let s := setFn 0 { fnOf 0 (runs 0 up) with ctoDis := true } { runs 0 up with reqs := [hreq 1] }
     hostReadOf 7 s = some (hreq 1) ∧ herdOfRod 0 s = some 0 ∧ (fnOf 0 s).ctoDis = true)
    ∧ getF hifP HIF_LINK_RATE up = 0 ∧ 0 < (hreq 1).len := by decide +kernel

/-- MGS firmware runs. -/
def managed (m : Mgs) : State := sets [(mgsP 0, MB_INFO_MSTATE, 1)] { up with mgs := m }

/-- An update session of the host over PCIe VDM, which waits for an image of `size` bytes. -/
def pldm_ (size : Option Nat) (hdr : List Byte) (ver : Bool) : Session := ⟨1, 128, 1, hdr, [], ver, true, size, 0⟩

theorem test_hyps_MgsAnswersMctp :
    answers 1 (managed Mgs.reset) ∧ answers 2 (managed Mgs.reset) ∧ Mgs.reset.events = [] ∧ Mgs.reset.session = none
    ∧ flashWrites true (managed Mgs.reset) = true
    ∧ (managed { Mgs.reset with events := [(5, 2)] }).mgs.events = (5, 2) :: []
    ∧ (managed { Mgs.reset with session := some (pldm_ none [] false) }).mgs.session.isSome = true
    ∧ pldmSession 1 (managed { Mgs.reset with session := some (pldm_ (some 300) [] true) }) = some (pldm_ (some 300) [] true)
    ∧ (pldm_ (some 300) [] true).transferring = some 300 ∧ (pldm_ (some 300) [] true).verified = true
    ∧ imageGap (pldm_ (some 300) [] true) 300 = some 0
    ∧ (let y := imageTaken (pldm_ (some 300) [] true) 300 0 (List.replicate 256 0) 0; imageGap y 300 = some 256)
    ∧ (let y := imageTaken (pldm_ (some 300) [] true) 300 0 (List.replicate 300 0) 0; imageGap y 300 = none) := by decide +kernel

theorem test_hyps_MgsAnswersMctp_sensor :
    highest (frameLogic (rodFrame 1023)) (let s := managed Mgs.reset; { s with thm := { s.thm with sens := [(1023, ⟨true, 400, 0, 0, 0⟩)] } }) = some 400 := by
  decide +kernel

/-- A mailbox request of the PF. -/
def req (op : Nat) (data : List Byte) : MbReq := ⟨0, op, 0, data.length, data⟩

/-- MGS firmware runs and holds that request. -/
def asks (op : Nat) (data : List Byte) (m : Mgs) : State := managed { m with queue := [req op data] }

theorem test_hyps_TheMailboxServesItsRequests_submit :
    reaches 127 (mgsP 127 + 0x80) up ∧ bitOf (2 ^ 31) 31 = true ∧ flag (mgsP 127) MB_STAT_BUSY up = false
    ∧ flag (mgsP 127) MB_STAT_BUSY (sets [(mgsP 127, MB_STAT_BUSY, 1)] up) = true := by decide +kernel

theorem test_hyps_TheMailboxServesItsRequests_plain :
    (mgsServes (asks 0xFF [] Mgs.reset) = true ∧ mbNext (asks 0xFF [] Mgs.reset) = some (req 0xFF []))
    ∧ (mgsServes (asks 0 [0] Mgs.reset) = true ∧ mbNext (asks 0 [0] Mgs.reset) = some (req 0 [0]) ∧ mbCheck (req 0 [0]) (asks 0 [0] Mgs.reset) = some 3)
    ∧ (∀ op ∈ [0x00, 0x01, 0x12, 0x31, 0x50], served (req op []) op (asks op [] Mgs.reset))
    ∧ (∀ n ∈ [1, 255], let d : List Byte := [0, 0, n, 0]
        served (req 0x02 d) 0x02 (asks 0x02 d Mgs.reset) ∧ 1 ≤ (req 0x02 d).num 2 2 ∧ (req 0x02 d).num 2 2 ≤ 256)
    ∧ (let d : List Byte := List.replicate 12 0 ++ [1, 3]
       served (req 0x10 d) 0x10 (asks 0x10 d Mgs.reset) ∧ 1 ≤ (req 0x10 d).num 12 1 ∧ (req 0x10 d).num 13 1 ≤ 3)
    ∧ (let d : List Byte := List.replicate 32 7; served (req 0x11 d) 0x11 (asks 0x11 d Mgs.reset)) := by
  decide +kernel

theorem test_hyps_TheMailboxServesItsRequests_log :
    let d : List Byte := List.replicate 12 0 ++ [1, 3]
    let x : TRec := ⟨0, 0, 0, 8, 0, 0, 0, 0, []⟩
    logSource ((req 0x10 d).num 13 1) (taken (req 0x10 d) (asks 0x10 d Mgs.reset)) = []
    ∧ (let s := asks 0x10 (List.replicate 12 0 ++ [1, 3]) { Mgs.reset with ring := [x] }
       let r := req 0x10 d
       served r 0x10 s ∧ logSource (r.num 13 1) (taken r s) = [x] ∧ x.le ⟨r.num 4 8, r.num 0 4, 0, 0, 0, 0, 0, 0, []⟩ = true) := by decide +kernel

theorem test_hyps_TheMailboxServesItsRequests_persist :
    let r : TRec := ⟨0, 0, 0, 8, 0, 0, 0, 0, []⟩
    let s := managed { Mgs.reset with pend := [r] }
    mgsServes s = true ∧ s.mgs.pend = r :: [] ∧ tier s = 0 ∧ (sectNext s).isSome = true
    ∧ (∀ k ∈ [1, 2], tier (sets [(mgsP 0, MB_LOGSTAT_TIER, k)] s) = k) := by decide +kernel

theorem test_hyps_TheMailboxServesItsRequests_trial :
    let s := sets [(mgsP 0, MB_INFO_TRIAL, 1)] (managed { Mgs.reset with trial := some 1, trialRun := true, runAt := 5000000001 })
    s.mgs.trial = some 1 ∧ mstate s = 1 ∧ s.mgs.trialRun = true ∧ flag (mgsP 0) MB_INFO_TRIAL s = true ∧ s.mgs.startAt + 5000000000 < s.mgs.runAt := by
  decide +kernel

theorem test_hyps_TheMailboxServesItsRequests_kept :
    flag (mgsP 0) MB_LOGSTAT_LOST (asks 0x12 [] Mgs.reset) = false
    ∧ (let d : List Byte := leBytes 4 glbP
       served (req 0x40 d) 0x40 (asks 0x40 d Mgs.reset) ∧ (req 0x40 d).num 0 4 % 4096 = 0 ∧ (pageOf ((req 0x40 d).num 0 4)).isSome = true)
    ∧ (∀ k ∈ [0, 3], served (req 0x48 [k]) 0x48 (asks 0x48 [k] Mgs.reset)) ∧ (req 0x48 [0]).num 0 1 = 0 ∧ 3 ≤ (req 0x48 [3]).num 0 1
    ∧ (let d : List Byte := List.replicate 8 0 ++ [3]
       served (req 0x49 d) 0x49 (asks 0x49 d Mgs.reset) ∧ (req 0x49 d).num 0 1 = 0 ∧ ((req 0x49 d).data.drop 8).length = 1
        ∧ (req 0x49 d).num 1 7 = 0 ∧ leNat ((req 0x49 d).data.drop 8) ≤ 3 ∧ flashWrites true (asks 0x49 d Mgs.reset) = true) := by
  decide +kernel

theorem test_hyps_TheMailboxServesItsRequests_fabric :
    (let d : List Byte := [1] ++ List.replicate 15 0 ++ leBytes 8 77 ++ leBytes 8 (2 ^ 18 - 1)
       let es := planEntries (req 0x51 d).data ((req 0x51 d).len / 16 - 1)
       served (req 0x51 d) 0x51 (asks 0x51 d Mgs.reset) ∧ (req 0x51 d).num 0 1 = 1 ∧ (req 0x51 d).num 1 15 = 0
        ∧ es.any (fun e => decide (2 ^ 18 ≤ e.2.1) || e.2.2 != 0) = false ∧ (es.foldl (fun l e => alSet l e.1 e.2.1) []).length ≤ 4096)
    ∧ (∀ op ∈ [0x52, 0x60], served (req op [0, 0]) op (asks op [0, 0] Mgs.reset))
    ∧ fmRole (sets [(rtrP 0, RTR_FM_ROLE, 1)] (asks 0x52 [0, 0] Mgs.reset)) = 1 ∧ fmRole (asks 0x52 [0, 0] Mgs.reset) ≠ 1 := by decide +kernel

theorem test_hyps_TheMailboxServesItsRequests_badOpcode : mbOp (req 0xFF []).op = none := rfl

/-- The PF's update session of slot 1. -/
def fwx (ver : Bool) : Session := ⟨0, 0, 1, imgHdr, imgBody, ver, false, none, 0⟩

theorem test_hyps_TheMailboxServesItsRequests_begin :
    served (req 0x20 imgHdr) 0x20 (asks 0x20 imgHdr Mgs.reset) ∧ hdrOk (req 0x20 imgHdr).data = true
    ∧ (taken (req 0x20 imgHdr) (asks 0x20 imgHdr Mgs.reset)).mgs.session = none ∧ (0 : Nat) ≤ hdrNum imgHdr 12 1 := by
  have hn : imgHdr.length = 256 := by simp [imgHdr, imgHead_length]
  refine ⟨⟨by decide +kernel, rfl, rfl, ?_⟩, test_image_header, rfl, Nat.zero_le _⟩
  have hm : mstate (asks 0x20 imgHdr Mgs.reset) = 1 := by decide +kernel
  have hl : (req 0x20 imgHdr).len = 256 := hn
  have ho : (req 0x20 imgHdr).op = 0x20 := rfl
  have ha : (req 0x20 imgHdr).agent = 0 := rfl
  simp [mbCheck, ho, hl, ha, hm, mbOp, MbOp.lists]

theorem test_hyps_TheMailboxServesItsRequests_session :
    (∀ op ∈ [0x22, 0x24], let s := asks op [0, 0] { Mgs.reset with session := some (fwx false) }
      served (req op [0, 0]) op s ∧ flashWrites true s = true)
    ∧ (let d : List Byte := List.replicate 16 0; let s := asks 0x21 d { Mgs.reset with session := some (fwx false) }
       served (req 0x21 d) 0x21 s ∧ (req 0x21 d).num 2 2 = 0 ∧ (req 0x21 d).num 4 4 % 8 = 0 ∧ flashWrites true s = true
        ∧ (req 0x21 d).num 4 4 + ((req 0x21 d).data.drop 8).length = 8)
    ∧ (let s := asks 0x23 [0, 0, 1] { Mgs.reset with session := some (fwx true) }
       served (req 0x23 [0, 0, 1]) 0x23 s ∧ (req 0x23 [0, 0, 1]).num 2 1 ≤ 1 ∧ flashWrites true s = true ∧ (fwx true).verified = true) := by
  decide +kernel

theorem test_hyps_TheMailboxServesItsRequests_session_named (op : Nat) (d : List Byte) (ver : Bool) (h : (req op d).num 0 2 = 0) :
    fwSession (req op d) (taken (req op d) (asks op d { Mgs.reset with session := some (fwx ver) })) = .ok (fwx ver) := by
  have hs : (taken (req op d) (asks op d { Mgs.reset with session := some (fwx ver) })).mgs.session = some (fwx ver) := rfl
  have hi : (fwx ver).id = 0 := rfl
  have hp : (fwx ver).pldm = false := rfl
  have ha : (fwx ver).agent = (req op d).agent := rfl
  simp [fwSession, hs, hi, hp, ha, h]

theorem test_hyps_TheMailboxServesItsRequests_verify :
    bodyOk (fwx false).hdr (fwx false).written = true ∧ 8 ≤ hdrNum (fwx false).hdr 16 4 := by
  have h4 : hdrNum imgHdr 16 4 = 4096 := (imgHdr_head 16 4 (by decide)).trans (by decide)
  have hh : (fwx false).hdr = imgHdr := by simp only [fwx]
  have hw : (fwx false).written = imgBody := by simp only [fwx]
  rw [hh, hw, h4]
  exact ⟨test_image_body, by decide⟩

/-- A licence record for this part (Table 16-11): issue 1, no feature. -/
def licData : List Byte :=
  leBytes 4 0x4C43535A ++ leBytes 2 1 ++ leBytes 2 160 ++ leBytes 8 Config.serial.toNat ++ leBytes 4 1 ++ List.replicate 140 0

theorem test_hyps_TheMailboxServesItsRequests_licence :
    served (req 0x30 licData) 0x30 (asks 0x30 licData { Mgs.reset with licStage := true }) ∧ licForm licData = true
    ∧ (licOf licData true).serial = Config.serial.toNat ∧ (licOf licData true).issue = 1
    ∧ storedIssue (taken (req 0x30 licData) (asks 0x30 licData { Mgs.reset with licStage := true })) = 0 := by
  refine ⟨⟨by decide +kernel, rfl, rfl, by decide +kernel⟩, by decide +kernel, ?_, by decide +kernel, rfl⟩
  have h : (licData.drop 8).take 8 = leBytes 8 Config.serial.toNat := rfl
  show leNat ((licData.drop 8).take 8) = _
  rw [h, leNat_leBytes]; exact Nat.mod_eq_of_lt Config.serial.isLt

theorem test_hyps_TheMailboxServesItsRequests_events :
    (asks 0x31 [] { Mgs.reset with licForce := some ⟨1, 0, 0, true, []⟩ }).mgs.licForce = some ⟨1, 0, 0, true, []⟩
    ∧ (let s := sets [(mgsP 0, MB_INFO_TRIAL, 1)] (managed { Mgs.reset with trial := some 1, trialRun := true, runAt := 5000000000 })
       s.mgs.trial = some 1 ∧ mstate s = 1 ∧ s.mgs.trialRun = true ∧ flag (mgsP 0) MB_INFO_TRIAL s = true ∧ s.mgs.runAt ≤ s.mgs.startAt + 5000000000)
    ∧ up.mgs.flashBad = false ∧ up.mgs.spareNext < 64 ∧ 64 ≤ { Mgs.reset with spareNext := 64 }.spareNext
    ∧ up.mgs.xspiRun < 2 ∧ 2 ≤ { Mgs.reset with xspiRun := 2 }.xspiRun := by decide +kernel

/-- MGS has restarted with error `code` in state m. -/
def restarted (code : Nat) (m : Mgs) : State := recordCE (mgsP 0) code 0 0 (mgsRestart (managed m))

theorem restarted_trial (code : Nat) (m : Mgs) : (restarted code m).mgs.trial = m.trial ∧ (restarted code m).mgs.trialRun = m.trialRun := by
  unfold restarted
  have hm : (managed m).mgs = m := by unfold managed; generalize up = u; rfl
  generalize managed m = s at hm
  subst hm
  have h := mgsRestart_trial s
  generalize mgsRestart s = t at h
  have k := (recordCE_only (mgsP 0) code 0 0 t).log.trial
  exact ⟨k.1.trans h.1, k.2.trans h.2⟩

theorem test_hyps_TheMailboxServesItsRequests_wdog :
    mgsServes (managed Mgs.reset) = true
    ∧ ((restarted 0x0206 { Mgs.reset with trial := some 1, trialRun := true }).mgs.trialRun
      && (restarted 0x0206 { Mgs.reset with trial := some 1, trialRun := true }).mgs.trial.isSome) = true
    ∧ ((restarted 0x0208 Mgs.reset).mgs.trialRun && (restarted 0x0208 Mgs.reset).mgs.trial.isSome) = false := by
  refine ⟨by decide +kernel, ?_, ?_⟩
  · rw [(restarted_trial _ _).1, (restarted_trial _ _).2]; rfl
  · rw [(restarted_trial _ _).1, (restarted_trial _ _).2]; rfl

/-! ### What the statements suppose can hold: waits, locks and loads between units -/

/-- Channel 0 of rod 0 retrains or calibrates. -/
def held_ (s : State) : State := setCal 0 0 ⟨false, true, false, 0, false, 0⟩ s

/-- Herd 1 has a COPY at work over the host port, with a weight there; herd 0's is 0. -/
def outweighed : State :=
  sets [(herdP 1, HERD_SHARE_WEIGHT 8, 1), (herdP 0, HERD_SHARE_WEIGHT 8, 0)]
    (setHq 1 { HqSt.rest with ents := [hqEnt 2 [0, 0, 64, 0] 0] } (live (queueStat 1 7) 2 mapped))

theorem test_hyps_HostQueuesRun_waits :
    hostYields 0 (queued (hqEnt 2 [0, 0, 64, 0] 0) outweighed) = true ∧ hostYields 0 (queued (hqEnt 2 [0, 0, 64, 0] 0) mapped) = false
    ∧ homeHeld 0 0 64 true (held_ mapped) = true ∧ homeHeld 0 0 64 true mapped = false
    ∧ (hubWalk 0 0 true [] (held_ { mapped with hubTlb := [] })).1 = .held
    ∧ (∀ w, winHeld [(0, 0, 64)] w (held_ mapped) = true ∧ winHeld [(0, 0, 64)] w mapped = false)
    ∧ alGet mapped.barHeld 0 = none ∧ alGet (barWait 0 ⟨0, [1], false⟩ mapped).barHeld 0 = some ⟨0, [1], false⟩ ∧ (⟨0, [1], false⟩ : BarWr) ≠ ⟨0, [2], false⟩
    ∧ sqAnnounced 127 7 (flushAnnounced 127 7 [(16, 0)] rings) ≠ 0
    ∧ sqAnnounced 127 7 (flushAnnounced 127 7 (List.replicate 3 (2 ^ 63 + 2 * 2 ^ 56 + 16, 0)) rings) = 0 := by decide +kernel

theorem test_hyps_locks :
    lockHolds (kvP 1023 + 0x88) (mine (kvP 1023) up) = false
    ∧ lockHolds (kvP 1023 + 0x88) (sets [(kvP 1023, PG_LOCK_LOCKED, 1)] (mine (kvP 1023) up)) = true
    ∧ lockHolds (brgP 31 + 0x80) up = false ∧ lockHolds (brgP 31 + 0x80) (sets [(brgP 31, PG_LOCK_LOCKED, 1)] up) = true := by decide +kernel

theorem test_hyps_BlocksChangeStateByThemselves_herd :
    (let a := statOf (herdP 127)
     lifeAt a (live a 3 up) = 3 ∧ (lifeX a (setLifeX a ⟨some 0, 7, true⟩ (live a 3 up))).deadline = some 0 ∧ pageOf a = some (.herd, 127)
      ∧ hasLife a = true ∧ lifeAt a up = 0)
    ∧ noHerd (statOf (seqP 0)) ∧ lifeAt (statOf (seqP 0)) up = 0
    ∧ alGet { up with resizes := [(127, ⟨4, 4, some (3, 7, 0)⟩)] }.resizes 127 = some ⟨4, 4, some (3, 7, 0)⟩
    ∧ (∀ c ∈ [0x2002, 0x200A], pageOf (brgP 31) = some (.brg, 31) ∧ pageLive (brgP 31) up = true ∧ (paritySev c).isSome = true ∧ c / 256 = Kind.brg.code) :=
  ⟨by decide, (fun n h => by
    have : pageOf (statOf (seqP 0)) = some (.seq, 0) := by decide
    rw [this] at h; injection h with h; injection h with h _; cases h), by decide, by decide, by decide⟩

theorem test_hyps_RegulatorsAct_warm :
    let s := isl63 { IslX.cold with booted := true, unsettled := true } { at_ 16 with boot := { (at_ 16).boot with coldPass := false } }
    stageIslands s = false ∧ atStage 16 s = true ∧ s.boot.coldPass = false ∧ (islOf 63 s).unsettled = true ∧ (islOf 63 s).powered = true := by decide +kernel

theorem test_hyps_TiersMigrate_held :
    tierHeld 0 mapped = false ∧ tierHeld 0 (held_ mapped) = true ∧ mayIssue 0 mapped = false ∧ mayIssue 0 moving = true
    ∧ (let s := setHx 0 { HerdX.empty with plan := [5] } mapped; (hxOf 0 s).mig = none ∧ (hxOf 0 s).plan ≠ [] ∧ tierHeld 0 s = false) := by decide +kernel

theorem test_hyps_TransactionsRunEndToEnd_arrive :
    nodeValid noded = true ∧ 2 ^ 18 - 1 = nodeId noded
    ∧ (let k := e2ePkt (w0Req 0) (64 * 2 ^ 46) []
       servedLater k (arrived k) = false
        ∧ (let s := held_ (sets [(xlatP 0, XLAT_CFG_EXP_R, 1)] { mapped with e2e := (arrived k).e2e })
           firstArrived false s = some k ∧ servedLater k s = true)) := by decide +kernel

theorem test_hyps_RlPortsAcceptInSequence_escape :
    [(pkt_ true, 0)][0]? = some (pkt_ true, 0)
    ∧ (let t := waitTill 1000 noded
       escPort (routeEntry (pkt_ true).dst t) t = some 0 ∧ ((pkt_ true).aged 0 t).old = false
        ∧ (pkt_ true).flits ≤ portCredit 0 (pkt_ true).vc (pkt_ true).flits t
        ∧ (let u := setPort 0 { LinkDir.fresh with used := [896 + 16] } t; escPort (routeEntry (pkt_ true).dst u) u = some 0))
    ∧ portCredit 0 (pkt_ true).vc (pkt_ true).flits (setPort 0 { LinkDir.fresh with used := List.replicate 16 (896 + 16) } noded)
        < (pkt_ true).flits := by decide +kernel

theorem test_hyps_BridgesAct_more :
    (∀ k ∈ lanesOfMap 65535, laneState 31 0 k (brgTook 31 1 0 0 up) ≠ 2)
    ∧ (let s := setBrgX 31 { brgX 31 up with draining := true } (setBrgDir 31 1 (replaying 8) up)
       8 ≤ (brgDir 31 1 s).resent ∧ (brgX 31 s).draining = true)
    ∧ (let t := sets [(brgP 31, BRG_STAT_WIDTH, 16)] (lanesTrained 31 255 (2 ^ 18 - 1) up)
       8 ≤ goodBoth 31 t ∧ widthMeant 31 t = 16 ∧ goodBoth 31 t < 16)
    ∧ (let t := sets [(brgP 31, BRG_STAT_WIDTH, 8)] (lanesTrained 31 255 (2 ^ 18 - 1) up); 8 ≤ goodBoth 31 t ∧ widthMeant 31 t ≠ 16)
    ∧ (let s := sets [(brgP 31, PG_LOCK_LOCKED, 0)] up; bitOf (rdW (brgP 31 + 0x80) s).toNat 1 = bitOf 0 1 ∨ flag (brgP 31) BRG_CTL_MANUAL s = true) := by
  decide +kernel

theorem test_hyps_GridPacketsHop_strangers :
    strangers 0 1023 up = true ∧ strangers 0 1 (runs 1 (runs 0 up)) = false ∧ strangers 0 1024 up = false ∧ 1 ≤ (List.replicate 8 (0 : Byte)).length := by decide +kernel

/-- The MSEND of `sending`, with a second one to the same channel behind it. -/
def sending2 : State :=
  setSeq 0 { SeqSt.reset with started := [send_ 0, { send_ 0 with cmd := { (send_ 0).cmd with num := 4 } }] } (sending 0 1)

theorem test_hyps_ItemsAreReservedSentAndAnswered_order :
    sendBehind (senderOf 0 3) 5 31 sending2 = false ∧ sendBehind (senderOf 0 4) 5 31 sending2 = true
    ∧ sendInfo (senderOf 0 4) sending2 = some (0, 5, 31, 56)
    ∧ sendInfo (senderOf 1024 9) { up with hubItems := [⟨9, 5, 31, 0, [], [], 0, 0, none, some 7, 0⟩] } = some (0, 5, 31, 0) := by decide +kernel

theorem test_hyps_BeadColumnsAreKept_held :
    (let s := setCal 1023 0 ⟨false, true, false, 0, false, 0⟩ (setBead 1023 { BeadSt.empty with cache := [⟨0, [0], true, 0⟩] } up)
     ((beadOf 1023 s).cache.filter CPage.needs).any (fun c => chanHeld 1023 (pageChan c.q) s) = true)
    ∧ ((beadOf 1023 up).cache.filter CPage.needs).any (fun c => chanHeld 1023 (pageChan c.q) up) = false := by decide +kernel

/-! ### What the statements suppose can hold: the queue and every step -/

theorem test_hyps_StepTakesTheFrontCommand :
    { up with pending := [.flashVerify 0 true, .rrsDeadline] }.pending = .flashVerify 0 true :: [.rrsDeadline] ∧ up.pending = [] := ⟨rfl, rfl⟩

theorem test_hyps_StoresKeepTheirForm :
    let s : State := { State.reset with pending := [.rrsDeadline] }
    Memory.wf s ∧ step s = .next { State.reset with pending := [] } := by
  refine ⟨by decide, ?_⟩
  rfl

/-! ### Ill-formed commands are refused, one for each check -/

theorem test_wf_accepts :
    (Instr.pgLockSet 127 (seqP 1023) 1).wellFormed = true ∧ (Instr.bar0WriteTimeout 0 (seqP 0 + 0xC)).wellFormed = true
    ∧ (Instr.add 1023 (word 0 0x11 0)).wellFormed = true ∧ (Instr.ctlNop 0 (word 0 0 0)).wellFormed = true
    ∧ (Instr.ctlNop 0 (word 7 0xFF 0)).wellFormed = true ∧ (Instr.gettid 2).wellFormed = true := by decide

theorem test_wf_refuses_below : (Instr.pgLockSet 128 (seqP 1023) 1).wellFormed = false := by decide
theorem test_wf_refuses_page : (Instr.pgLockSet 0 (seqP 0 + 4) 1).wellFormed = false := by decide
theorem test_wf_refuses_rate : (Instr.linkUp 7 16 true).wellFormed = false ∧ (Instr.linkUp 0 16 true).wellFormed = false := by decide
theorem test_wf_refuses_width : (Instr.pcieLinkChange 6 3 true false).wellFormed = false := by decide
theorem test_wf_refuses_register : (Instr.bar0WriteTimeout 0 (seqP 0 + 2)).wellFormed = false := by decide
theorem test_wf_refuses_port : (Instr.gettid 3).wellFormed = false := by decide
theorem test_wf_refuses_word : (Instr.add 0 (word 0 0x12 0)).wellFormed = false := by decide
theorem test_wf_refuses_other_command_as_nop : (Instr.ctlNop 0 (word 5 1 0)).wellFormed = false := by decide
theorem test_wf_refuses_life_code : (Instr.lifeBadCmd 0 (seqP 0 + 8) 4 0).wellFormed = false := by decide

/-! ### Single steps; expected values from the spec's worked cases and tables -/

/-- The state after a command. -/
def after (c : Instr) (s : State) : State :=
  match exec c s with
  | .next t => t
  | _ => s

/-- Pages of rod 0x43, island 5, link 2 of bridge 2-3, and XLAT_PCOMP (worked cases of chapters 2, 3, 9, 11). -/
theorem test_pages : seqP 0x43 = 0x01430000 ∧ islP 5 = 0x000A5000 ∧ brgP 22 = 0x00116000 ∧ xlatP 0x43 + 0xA4 = 0x014370A4 ∧ herdP 1 = 0x00801000 := by
  decide

/-- With no command waiting, package time goes on. -/
theorem test_step_idles : step up = .next { up with now := up.now + 1 } := rfl

/-- Rod 0x43 is READY and belongs to herd 1. -/
def rod43 : State := live (statOf 0x01430000) 2 (sets [(0x01430000, PG_OWNER_FREE, 0), (0x01430000, PG_OWNER_HERD, 1)] up)

/-- "A rod re-started while it drains", step 1: PG_LIFE_STAT reads 0x0000_1103. -/
theorem test_life_drain : rdW 0x0143000C (after (.lifeDrain 1 0x01430008 0x11 500) (sets [(0x01430000, SEQ_PSTAT_PSTATE, 1)] rod43)) = 0x00001103 := by decide +kernel

/-- The rod drains under tag 0x11. -/
def draining43 : State := sets [(0x0143000C, LIFE_STATE, 3), (0x0143000C, LIFE_LAST_TAG, 0x11)] rod43

/-- Step 2: START is kept as pending. -/
theorem test_life_start_pends : rdW 0x0143000C (after (.lifeStart 1 0x01430008 0x12) draining43) = 0x0001120B := by decide +kernel

/-- Step 3: a second START merges. -/
theorem test_life_start_merges :
    rdW 0x0143000C (after (.lifeStart 1 0x01430008 0x13) (sets [(0x0143000C, LIFE_PENDING_START, 1), (0x0143000C, LIFE_LAST_STATUS, 1),
      (0x0143000C, LIFE_LAST_TAG, 0x12)] draining43)) = 0x0002130B := by decide +kernel

/-- Island 5 has settled at 0.80 V under sequence 0x0029; the host has it. -/
def isl5 : State :=
  setIsl 5 { IslX.cold with booted := true } (sets [(islP 5, ISL_CTL_MANUAL, 1), (islP 5, ISL_VSTAT_SEQ, 0x29), (islP 5, ISL_VSTAT_TARGET, 160)] up)

/-- "Retargeting while slewing", step 1. -/
theorem test_voltage_command :
    let t := after (.islCmd 0 5 180 800) isl5
    getF (islP 5) ISL_VSTAT_TARGET t = 0xB4 ∧ getF (islP 5) ISL_VSTAT_SEQ t = 0x2A ∧ getF (islP 5) ISL_VSTAT_DIR t = 1
      ∧ getF (islP 5) ISL_VSTAT_SRC t = 2 ∧ getF (islP 5) ISL_CMD_STAT_STATUS t = 0 := by decide +kernel

/-- Step 3: the unsettled command is superseded. -/
theorem test_voltage_supersedes :
    let t := after (.islCmd 0 5 140 840) (setIsl 5 { IslX.cold with booted := true, unsettled := true } (sets [(islP 5, ISL_VSTAT_SEQ, 0x2A)] isl5))
    getF (islP 5) ISL_VSTAT_TARGET t = 0x8C ∧ getF (islP 5) ISL_VSTAT_SEQ t = 0x2B ∧ getF (islP 5) ISL_SUPER_LAST t = 0x2A := by decide +kernel

/-- R112: 1,720 Mbeat/s at 0.84 V and 70 °C, 1,220 at 0.70 V and 90 °C. -/
theorem test_pace : nominalPace [840] (70 * 16) = 1720 ∧ nominalPace [700] (90 * 16) = 1220 := by decide

/-- Table 4-2 and Table 4-6: ADD S3 ← S1 + S2 at PC 5, whose sum wraps. -/
theorem test_add_wraps :
    let w : CmdWord := 0x01100000000018440000000000000000
    let s := sets [(seqP 0, SEQ_PC_PC, 5)]
      (setSeq 0 { SeqSt.reset with s := [⟨0, false⟩, ⟨2 ^ 64 - 1, false⟩, ⟨3, false⟩] ++ List.replicate 29 ⟨0, false⟩ } (runs 0 up))
    sAt (seqOf 0 (after (.add 0 w) s)) 3 = ⟨2, false⟩ ∧ pcOf 0 (after (.add 0 w) s) = 6 := by decide +kernel

/-- R182: a poisoned operand gives a poisoned sum. -/
theorem test_add_poison :
    let w : CmdWord := 0x01100000000018440000000000000000
    let s := setSeq 0 { SeqSt.reset with s := [⟨0, false⟩, ⟨1, false⟩, ⟨3, true⟩] ++ List.replicate 29 ⟨0, false⟩ } (runs 0 up)
    (sAt (seqOf 0 (after (.add 0 w) s)) 3).p = true := by decide +kernel

/-- R183: a branch from PC 72 by -4 goes to 68. -/
theorem test_br_back :
    pcOf 0 (after (.br 0 0x00200000000000000000000000FFFFFC) (sets [(seqP 0, SEQ_PC_PC, 72)] (runs 0 up))) = 68 := by decide +kernel

/-- "Encoding a Model Ewe weight block to MXFP4": 11.5, -0.7, 3.0, 5.0, 0.2 and zeros. -/
theorem test_mxfp4 :
    let r := mxEnc fmtE2m1 0 ([0x41380000, 0xBF333333, 0x40400000, 0x40A00000, 0x3E4CCCCD].map dec32 ++ List.replicate 27 (dec32 0))
    r.1 = 0x80 ∧ (r.2.map (fun c => c.code)).take 6 = [7, 9, 3, 4, 0, 0] := by decide +kernel

/-- "One HBA under both placements": rod 179 of the herd at 0x246_8240, or rod 97 at 0x80_1A40. -/
theorem test_placement :
    placeHba true 256 0x246801A40 = (179, 0x2468240) ∧ placeHba false 256 0x246801A40 = (97, 0x801A40) := by decide

/-- Herd 1 covers frame 0. -/
def herd1 : State := sets [(herdP 1, HERD_GEOM_W, 16), (herdP 1, HERD_GEOM_H, 16)] up

/-- "The absent piece behind the halted weight stream": piece 5 of the leaf is absent at level 3. -/
theorem test_absent_piece : useLeaf 1 3 0x00200000D2400003 0x40035000 false herd1 = .fault 2 3 5 0x00200000D2400003 := by decide +kernel

/-- Its fault record. -/
theorem test_fault_record :
    (XFault.record ⟨7, 0x4003, 0x40035000, false, 2, 3, 5, 0x00200000D2400003, 0, false⟩ 0x43 1).take 16
      = leBytes 8 0x0043000040035000 ++ leBytes 8 0x0000000117020007 := by decide

/-- "Reading frame 2, memory layer 5": the IDCODEs of dies 25, 19 and the hub. -/
theorem test_idcode : dieId 25 = 0x10319B47 ∧ dieId 19 = 0x10213B47 ∧ dieId 0 = 0x10100B47 := by decide

/-- FIPS 180-4's example "abc": the first eight bytes of its SHA-384. -/
theorem test_sha384 : (sha384 [0x61, 0x62, 0x63]).take 8 = [0xCB, 0x00, 0x75, 0x3F, 0x45, 0xA3, 0x5E, 0x8B] := by decide +kernel

/-- CRC-32C of "123456789". -/
theorem test_crc32c : crc32c [0x31, 0x32, 0x33, 0x34, 0x35, 0x36, 0x37, 0x38, 0x39] = 0xE3069283 := by decide +kernel

/-- R14: with no POWER licence, 850 W is clamped to 600 W. -/
theorem test_power_cap : getF (thmP 1) THM_CAP_WATTS (capWrite 850 (sets [(glbP, GLB_LIC_CAP_MAX_W, 600)] up)) = 600 := by decide +kernel

/-- R7: a write of function 7 to a page that it does not own changes no register of the page. -/
theorem test_denied : rdW (islP 5 + 0x80) (after (.islCtlManualWrite 7 5 1) up) = rdW (islP 5 + 0x80) up := by decide +kernel

/-- R40: a write of half a register is not a form. -/
theorem test_bad_form : rdW (seqP 0 + 0x94) (after (.registerWrite 0 (seqP 0 + 0x94) 2 5 3) up) = rdW (seqP 0 + 0x94) up := by decide +kernel

/-- R820: NOP is answered with status 0 and the request's tag. -/
theorem test_mailbox_nop : (after .mbNop (managed { Mgs.reset with queue := [⟨128, 0, 9, 0, []⟩] })).out = [.mctp 1 (leBytes 4 0x900)] := by decide +kernel

/-- R907 and Table 18-6: a poisoned command word is POISON_USE at its PC, and SEQ 0x1003 is recorded. -/
theorem test_poisoned_command :
    let s := sets [(seqP 0, SEQ_PC_PC, 5)] (runs 0 { up with spadBad := [spadKey 0 83] })
    let t := after (.ctlNop 0 (word 0 0 0)) s
    pcOf 0 t = 5 ∧ getF (seqP 0) SEQ_PSTAT_FAULT t = 8 ∧ getF (seqP 0) PG_ERR_FIRST_CODE t = 0x1003 := by decide +kernel

/-- R398: a failed channel retraining is CHAN_DOWN. -/
theorem test_chan_down :
    let t := after (.chanRetrainDone 3 1 false 0) (setCal 3 1 ⟨false, true, true, 0, true, 0⟩ up)
    getF (beadP 3) PG_ERR_FIRST_CODE t = 0x1607 ∧ bitOf (getF (beadP 3) PG_EVT_EVT t) 22 = true := by decide +kernel

end Sys2Proof.Tests
end

section
/-! PROOFS. Writes that do not reach their page: one by a function that does not own the page raises its DENIAL and does nothing else, whatever its
command, width, alignment and byte enables, and one that finds its function asleep, no register or no page does nothing (R7, R28, R88, R106, R811). -/
namespace Sys2Proof.Machine

/-! ### The map: what an offset's page says of the offset -/

/-- Base of the page of a kind and its index (Table 2-6, Table 2-7). -/
def kindBase (k : Kind) (i : Nat) : Nat :=
  match k with
  | .glb => glbP | .mgs => mgsP i | .thm => thmP i | .isl => islP i | .brg => brgP i | .rlp => rlpP i | .rtr => rtrP i | .e2e => e2eP i
  | .vpx => vpxP i | .ven => venP i | .tnz => tnzP i | .hif => hifP | .hq => hqP i | .kvm => kvmP i | .herd => herdP i
  | .seq => seqP i | .oxa => oxaP i | .goat => goatP i | .vec => vecP i | .strm => strmP i | .spad => spadP i | .bead => beadP i
  | .xlat => xlatP i | .msg => msgP i | .kv => kvP i | .sense => senseP i | .dbg => dbgP i

/-- How many pages of a kind the map holds (Table 2-6, Table 2-7). -/
def kindCount (k : Kind) : Nat :=
  match k with
  | .glb | .hif => 1 | .thm => 2 | .vpx | .ven | .tnz => 4 | .rlp | .rtr | .e2e | .kvm => 16 | .brg => 32 | .isl => 64
  | .mgs | .hq | .herd => 128
  | .seq | .oxa | .goat | .vec | .strm | .spad | .bead | .xlat | .msg | .kv | .sense | .dbg => 1024

theorem rodKind_spec {n i : Nat} {k : Kind} (h : rodKind n = some k) : kindBase k i = rodP i + n * 0x1000 ∧ kindCount k = 1024 := by
  unfold rodKind at h
  split at h <;> cases h <;> exact ⟨rfl, rfl⟩

/-- What follows from either branch's value follows from the value of the `if`. -/
theorem ite_eq_imp {α : Type} {c P : Prop} [Decidable c] {x y z : α} (h : c → x = z → P) (h' : ¬ c → y = z → P) :
    (if c then x else y) = z → P := by
  split
  · exact h ‹_›
  · exact h' ‹_›

/-- An offset is its page's base and its offset in the page, and the page is one of those that the map holds of its kind. -/
theorem pageOf_spec {a i : Nat} {k : Kind} (h : pageOf a = some (k, i)) : a = kindBase k i + a % 0x1000 ∧ i < kindCount k := by
  revert h
  unfold pageOf
  dsimp only
  generalize hn : a / 0x1000 = n
  repeat
    refine ite_eq_imp (fun hc => ?_) (fun hc => ?_)
    rotate_left
  any_goals (intro h; contradiction)
  any_goals
    rintro ⟨⟩
    exact ⟨by delta kindBase; simp only [glbP, mgsP, thmP, islP, brgP, rlpP, rtrP, e2eP, hifP, hqP, kvmP, herdP]; omega,
      by delta kindCount; dsimp only; omega⟩
  · split
    any_goals (intro h; contradiction)
    all_goals
      rintro ⟨⟩
      exact ⟨by delta kindBase; simp only [vpxP, venP, tnzP]; omega, by delta kindCount; dsimp only; omega⟩
  · intro h
    obtain ⟨k', hk, h⟩ := Option.map_eq_some_iff.1 h
    cases h
    obtain ⟨hb, hc⟩ := rodKind_spec (i := (n - 0x1000) / 0x10) hk
    rw [hb, hc, rodP]
    omega

/-- A rod page belongs to one of the 1,024 rods. -/
theorem pageOf_rod_lt {a i : Nat} {k : Kind} (h : pageOf a = some (k, i)) (hk : k.isRod = true) : i < 1024 := by
  have hc : kindCount k = 1024 := by cases k <;> simp_all [Kind.isRod, kindCount]
  have hi := (pageOf_spec h).2
  rwa [hc] at hi

/-! ### The two ways in which a write misses, and what it leaves -/

/-- A write by function `fn` to offset `a` is lost: the function is asleep, or no register or no page answers (R28, R88, R106, R811). -/
def Lost (fn a : Nat) (s : State) : Prop := (fnOf fn s).d3 = true ∨ regSpec a = none ∨ pageLive (pageBase a) s = false

/-- A write by function `fn` finds a register at `a`, on a page that the function does not own (R7). -/
abbrev Foreign (fn a : Nat) (s : State) : Prop :=
  (fnOf fn s).d3 = false ∧ (regSpec a).isSome = true ∧ pageLive (pageBase a) s = true ∧ owns fn (pageBase a) s = false

/-- Between `s` and `t` page `p` has raised DENIAL, and no more has happened than the notification of that bit. -/
structure OnlyDenial (p : Nat) (s t : State) : Prop where
  evt : rdW (p + 0x10) t = rdW (p + 0x10) s ||| 4
  regs : ∀ b, canon b ≠ canon (p + 0x10) → canon b ≠ 0x10098 → canon b ≠ 0x1009C → rdW b t = rdW b s
  only : EventsOnly s t

/-- `t` is what a write of the register at `a` by function `fn` may leave of `s` where it does not reach its page. -/
structure Misses (fn a : Nat) (s t : State) : Prop where
  lost : Lost fn a s → t = s
  denied : Foreign fn a s → OnlyDenial (pageBase a) s t

theorem OnlyDenial.of_raise {p : Nat} (hp : p % 0x1000 = 0) (s : State) : OnlyDenial p s (raise p 2 s) where
  evt := by
    have h4 : BitVec.ofNat 32 (2 ^ 2) = 4 := by decide
    rw [rdW_raise_evt p 2 s (evt_ne p hp _ (by decide)) (evt_ne p hp _ (by decide)), h4]
  regs := fun _ he h h' => rdW_raise p 2 s he h h'
  only := raise_only p 2 s

/-- DENIAL raised twice stands as raised once. -/
theorem OnlyDenial.trans {p : Nat} {s t u : State} (h : OnlyDenial p s t) (k : OnlyDenial p t u) : OnlyDenial p s u where
  evt := by rw [k.evt, h.evt, BitVec.or_assoc, BitVec.or_self]
  regs := fun b he h1 h2 => by rw [k.regs b he h1 h2, h.regs b he h1 h2]
  only := h.only.trans k.only

/-- A field at another offset than PG_EVT, and not in MB_LOGSEQ, stays. -/
theorem OnlyDenial.getF_eq {p q : Nat} {f : Field} {s t : State} (h : OnlyDenial p s t) (hp : p % 0x1000 = 0) (he : (q + f.off) % 0x1000 ≠ 0x10)
    (h8 : (q + f.off) % 0x1000 ≠ 0x98) (hC : (q + f.off) % 0x1000 ≠ 0x9C) : getF q f t = getF q f s := by
  have hm := canon_mod (q + f.off)
  have hm' := canon_mod (p + 0x10)
  exact getF_of_rdW (h.regs _ (by omega) (by omega) (by omega))

/-- DENIAL moves no page's owner. -/
theorem OnlyDenial.owns_eq {p q : Nat} {s t : State} (h : OnlyDenial p s t) (hp : p % 0x1000 = 0) (hq : q % 0x1000 = 0) (fn : Nat) :
    owns fn q t = owns fn q s := by
  have ho (f : Field) (hf : f.off = 0x2C) : getF q f t = getF q f s :=
    h.getF_eq hp (by omega) (by omega) (by omega)
  have hf : isFree q t = isFree q s := by simp only [isFree, flag, ho PG_OWNER_FREE rfl]
  have hg : isGlobal q t = isGlobal q s := by simp only [isGlobal, flag, ho PG_OWNER_GLOBAL rfl]
  unfold owns ownerHerd
  rw [hf, hg, ho PG_OWNER_HERD rfl]

/-- DENIAL hides and shows no page. -/
theorem OnlyDenial.pageLive_eq {p : Nat} {s t : State} (h : OnlyDenial p s t) (hp : p % 0x1000 = 0) (q : Nat) :
    pageLive q t = pageLive q s := by
  have hg (b : Nat) (f : Field) (hb : b % 0x1000 = 0) (hf : 0xA0 ≤ f.off ∧ f.off < 0x1000 ∨ f.off = 0x90 ∨ f.off = 0x94) :
      getF b f t = getF b f s := h.getF_eq hp (by omega) (by omega) (by omega)
  unfold pageLive
  cases hq : pageOf q with
  | none => rfl
  | some e =>
    obtain ⟨k, i⟩ := e
    dsimp only
    by_cases hk : k.isRod = true
    · have hi := pageOf_rod_lt hq hk
      have ha : 0x100 + 4 * rodY i < 0x1000 := by unfold rodY; omega
      simp only [hk, rodVisible, rodsMapped, rodAbsent, flag, hg glbP GLB_READY_STAGE rfl (by decide), hg glbP GLB_STATE_PRESENT rfl (by decide),
        hg glbP (GLB_ABSENT_ABSENT (rodY i)) rfl (.inl ⟨by dsimp only; omega, ha⟩), hg (thmP 0) THM_SHUT_LATCHED rfl (by decide)]
    · rw [if_neg hk, if_neg hk]

/-- A function that does not own the page does not own it after its DENIAL either. -/
theorem Foreign.keeps {fn a : Nat} {s t : State} (h : Foreign fn a s) (k : OnlyDenial (pageBase a) s t) : Foreign fn a t := by
  obtain ⟨hd, hr, hl, ho⟩ := h
  have hf : fnOf fn t = fnOf fn s := by rw [k.only.rest]; rfl
  exact ⟨hf ▸ hd, hr, by rw [k.pageLive_eq (pageBase_mod a), hl], by rw [k.owns_eq (pageBase_mod a) (pageBase_mod a), ho]⟩

/-- What acts twice as a write that misses acts as one. -/
theorem Misses.trans {fn a : Nat} {s t u : State} (h : Misses fn a s t) (k : Misses fn a t u) : Misses fn a s u where
  lost := fun hl => by
    have e := h.lost hl
    rw [k.lost (e.symm ▸ hl), e]
  denied := fun hf => (h.denied hf).trans (k.denied (hf.keeps (h.denied hf)))

theorem Misses.ite {c : Prop} [Decidable c] {fn a : Nat} {s t u : State} (h : c → Misses fn a s t) (k : ¬ c → Misses fn a s u) :
    Misses fn a s (if c then t else u) := by
  split
  · exact h ‹_›
  · exact k ‹_›

/-- A BAR0 write misses as R7 says, whatever it does where it reaches its page. -/
theorem barWrite_misses {fn a b : Nat} {k : State → State} {s : State} (hb : b = a) : Misses fn a s (barWrite fn b k s) := by
  subst hb
  exact ⟨barWrite_lost, fun ⟨hd, hr, hl, ho⟩ => barWrite_denied hd hr hl ho ▸ .of_raise (pageBase_mod _) s⟩

/-- What follows a write only where a field of another register than PG_EVT has risen does not follow one that misses. -/
theorem Misses.then_if_risen {fn a q : Nat} {f : Field} {s t u : State} (h : Misses fn a s t) (he : (q + f.off) % 0x1000 ≠ 0x10)
    (h8 : (q + f.off) % 0x1000 ≠ 0x98) (hC : (q + f.off) % 0x1000 ≠ 0x9C) :
    Misses fn a s (if flag q f t && !flag q f s then u else t) where
  lost := fun hl => by rw [h.lost hl]; simp
  denied := fun hf => by
    have e : flag q f t = flag q f s := by unfold flag; rw [(h.denied hf).getF_eq (pageBase_mod a) he h8 hC]
    rw [e, Bool.and_not_self]
    exact h.denied hf

/-! ### The commands that write one register -/

/-- The command goes on, to a state that a write of the register at `a` by function `fn` may leave where it does not reach its page. -/
def ResMisses (fn a : Nat) (s : State) (r : Res) : Prop := ∃ t, r = .next t ∧ Misses fn a s t

theorem resMisses_barWrite {fn a b : Nat} {k : State → State} {s : State} {r : Res} (hr : r = .next (barWrite fn b k s)) (hb : b = a) :
    ResMisses fn a s r := ⟨_, hr, barWrite_misses hb⟩

theorem ResMisses.then {fn a : Nat} {s u : State} {r : Res} (h : ResMisses fn a s r) : Misses fn a s (thenState r u) := by
  obtain ⟨t, rfl, h⟩ := h
  exact h

theorem herdShareWrite_misses {fn n r v a : Nat} (s : State) (ha : herdP n + 0xA0 + 4 * r = a) :
    ResMisses fn a s (execHerdShareWrite fn n r v s) := by
  unfold execHerdShareWrite
  split <;> exact resMisses_barWrite rfl ha

/-- A listed command, paired with its register, misses as its register's BAR0 write does. -/
def CommandMisses (fn : Nat) (s : State) (e : Instr × Nat) : Prop := ResMisses fn e.2 s (exec e.1 s)

theorem commandMisses_herdShareWrite (fn n r v : Nat) (s : State) :
    CommandMisses fn s (.herdShareWrite fn n r v, herdP n + 0xA0 + 4 * r) := herdShareWrite_misses s rfl

/-- Each of the commands that write one register is a BAR0 write of it. -/
theorem writesReg_misses {fn i k v a : Nat} {c : Instr} (h : writesReg fn i k v c a) (s : State) : ResMisses fn a s (exec c s) := by
  refine (?_ : ∀ e ∈ _, CommandMisses fn s e) (c, a) h
  simp only [List.forall_mem_cons, List.not_mem_nil, false_imp_iff, implies_true, commandMisses_herdShareWrite, true_and, and_true]
  and_intros <;> exact resMisses_barWrite rfl rfl

/-! ### REGISTER_WRITE: each page hands a write on to a BAR0 write of the same register -/

section
variable {fn a v : Nat} {s : State}

theorem plainWrite_misses : Misses fn a s (plainWrite fn a v s) := by
  unfold plainWrite
  split <;> exact barWrite_misses rfl

theorem plainThen_misses {k : State → State} : Misses fn a s (plainThen fn a v k s) := barWrite_misses rfl

/-- A life command at the command register of a page, a stream slot or a queue. -/
theorem lifeWrite_misses {cmd tag dl : Nat} (h : lifeReg a) : Misses fn a s (lifeWrite fn a cmd tag dl s) := by
  unfold lifeWrite
  extract_lets sub
  rw [if_pos]
  · exact barWrite_misses rfl
  · rcases h with h | ⟨⟨i, h | h⟩, h1, h2, h3⟩
    · exact .inl h
    · exact .inr (by simp [sub, h, h1, h2, h3])
    · exact .inr (by simp [sub, h, h1, h2, h3])

/-- The next state of a command that is one BAR0 write of the register at `a`. -/
theorem thenState_misses {b : Nat} {k : State → State} {u : State} {r : Res} (hb : b = a) (hr : r = .next (barWrite fn b k s)) :
    Misses fn a s (thenState r u) := (resMisses_barWrite hr hb).then

theorem headerWrite_misses : Misses fn a s (headerWrite fn a v s) := by
  have ho (o : Nat) (h : a % 0x1000 = o) : pageBase (pageBase a) + o = a := by unfold pageBase; omega
  unfold headerWrite
  extract_lets p
  split
  next h => exact lifeWrite_misses (.inl h)
  next h => exact thenState_misses (ho _ h) rfl
  next h => exact thenState_misses (ho _ h) rfl
  next h => exact thenState_misses (ho _ h) rfl
  next h => exact thenState_misses (ho _ h) rfl
  next h => exact thenState_misses (ho _ h) rfl
  next h => exact thenState_misses (ho _ h) rfl
  next h => exact thenState_misses (ho _ h) rfl
  next => exact plainWrite_misses

variable {i : Nat}

theorem thmThresholdWrite_misses {c : Nat} {sh : Bool} (hc : c < 3) (ha : thmP 0 + (if sh then 0x90 else 0x80) + 4 * c = a) :
    Misses fn a s (thenState (execThmThresholdWrite fn c sh v s) s) := by
  unfold execThmThresholdWrite
  rw [if_neg (by omega)]
  exact thenState_misses ha rfl

theorem thmWrite_misses (hp : pageOf a = some (.thm, i)) (h4 : a % 4 = 0) : Misses fn a s (thmWrite fn i a v s) := by
  obtain ⟨ha, hi⟩ : a = thmP i + a % 0x1000 ∧ i < 2 := pageOf_spec hp
  unfold thmWrite
  extract_lets o
  have ho : o = a % 0x1000 := rfl
  clear_value o
  refine .ite (fun h0 => ?_) (fun h0 => ?_)
  · subst h0
    exact .ite (fun h => thmThresholdWrite_misses (by omega) (by rw [if_neg (by decide)]; omega)) fun _ =>
      .ite (fun h => thmThresholdWrite_misses (by omega) (by rw [if_pos rfl]; omega)) fun _ =>
      .ite (fun h => thenState_misses (by omega) rfl) fun _ => plainWrite_misses
  · obtain rfl : i = 1 := by omega
    exact .ite (fun h => thenState_misses (by omega) rfl) fun _ =>
      .ite (fun h => plainWrite_misses.then_if_risen (by decide) (by decide) (by decide)) fun _ => plainWrite_misses

theorem islWrite_misses (hp : pageOf a = some (.isl, i)) : Misses fn a s (islWrite fn i a v s) := by
  have ha : a = islP i + a % 0x1000 := (pageOf_spec hp).1
  unfold islWrite
  split
  next h => exact thenState_misses (by omega) rfl
  next h => exact thenState_misses (by omega) rfl
  next h => exact thenState_misses (by omega) rfl
  next => exact plainWrite_misses

theorem rtrWrite_misses (hp : pageOf a = some (.rtr, i)) : Misses fn a s (rtrWrite fn i a v s) := by
  have ha : a = rtrP i + a % 0x1000 := (pageOf_spec hp).1
  unfold rtrWrite
  refine .ite (fun h0 => ?_) (fun _ => plainThen_misses)
  subst h0
  split
  next => exact plainWrite_misses
  next h =>
    have hc : Misses fn a s (thenState (execRtrHostfmClaim fn v s) s) := thenState_misses (by omega) rfl
    exact hc.trans (thenState_misses (b := rtrP 0 + 0x84) (by omega) rfl)
  next => exact plainWrite_misses

theorem hqWrite_misses (hp : pageOf a = some (.hq, i)) : Misses fn a s (hqWrite fn i a v s) := by
  have ha : a = hqP i + a % 0x1000 := (pageOf_spec hp).1
  unfold hqWrite
  extract_lets o q
  have ho : o = a % 0x1000 := rfl
  have hq : q = (o - 0x100) / 0x40 := rfl
  clear_value o q
  refine .ite (fun _ => plainWrite_misses) (fun hr => ?_)
  split
  next h => exact lifeWrite_misses (.inr ⟨⟨i, .inr hp⟩, by omega, by omega, by omega⟩)
  next h => unfold execHqCfgWrite; rw [if_neg (by omega)]; exact thenState_misses (by omega) rfl
  next h => unfold execHqDestWrite; rw [if_neg (by omega)]; exact thenState_misses (by omega) rfl
  next h => unfold execHqFlush; rw [if_neg (by omega)]; exact thenState_misses (by omega) rfl
  next => exact plainWrite_misses

theorem herdWrite_misses (hp : pageOf a = some (.herd, i)) (h4 : a % 4 = 0) : Misses fn a s (herdWrite fn i a v s) := by
  have ha : a = herdP i + a % 0x1000 := (pageOf_spec hp).1
  unfold herdWrite
  extract_lets o
  have ho : o = a % 0x1000 := rfl
  clear_value o
  exact .ite (fun h => thenState_misses (by omega) rfl) fun _ => .ite (fun h => thenState_misses (by omega) rfl) fun _ =>
    .ite (fun h => (herdShareWrite_misses s (by omega)).then) fun _ => plainWrite_misses

theorem kvmWrite_misses (hp : pageOf a = some (.kvm, 0)) : Misses fn a s (kvmWrite fn a v s) := by
  have ha : a = kvmP 0 + a % 0x1000 := (pageOf_spec hp).1
  unfold kvmWrite
  split
  next h => exact thenState_misses (by omega) rfl
  next => exact plainThen_misses
  next => exact plainThen_misses
  next => exact plainWrite_misses

theorem vecWrite_misses : Misses fn a s (vecWrite fn i a v s) := .ite (fun _ => plainWrite_misses) (fun _ => plainThen_misses)

theorem xlatWrite_misses (hp : pageOf a = some (.xlat, i)) : Misses fn a s (xlatWrite fn i a v s) := by
  have ha : a = xlatP i + a % 0x1000 := (pageOf_spec hp).1
  unfold xlatWrite
  extract_lets o
  have ho : o = a % 0x1000 := rfl
  clear_value o
  split
  next => exact thenState_misses (by omega) rfl
  next => exact thenState_misses (by omega) rfl
  next => exact thenState_misses (by omega) rfl
  next => exact thenState_misses (by omega) rfl
  next => split <;> exact barWrite_misses rfl

theorem msgWrite_misses (hp : pageOf a = some (.msg, i)) : Misses fn a s (msgWrite fn i a v s) := by
  have ha : a = msgP i + a % 0x1000 := (pageOf_spec hp).1
  unfold msgWrite
  extract_lets o k
  have ho : o = a % 0x1000 := rfl
  have hk : k = (o - 0x100) / 16 := rfl
  clear_value o k
  refine .ite (fun _ => plainWrite_misses) (fun hr => ?_)
  split
  next h => exact thenState_misses (by omega) rfl
  next => exact plainWrite_misses
  next h => exact thenState_misses (by omega) rfl
  next => exact plainWrite_misses

/-- DBG_CTL is up to three commands in a row; DENIAL raised by each is one DENIAL. -/
theorem dbgWrite_misses (hp : pageOf a = some (.dbg, i)) : Misses fn a s (dbgWrite fn i a v s) := by
  have ha : a = dbgP i + a % 0x1000 := (pageOf_spec hp).1
  unfold dbgWrite
  split
  next h =>
    extract_lets s1 s2
    have h1 : Misses fn a s s1 := thenState_misses (b := dbgP i + 0x80) (by omega) rfl
    have h2 : Misses fn a s s2 := .ite (fun _ => h1.trans (thenState_misses (b := dbgP i + 0x80) (by omega) rfl)) (fun _ => h1)
    exact .ite (fun _ => h2.trans (thenState_misses (b := dbgP i + 0x80) (by omega) rfl)) (fun _ => h2)
  next h => exact thenState_misses (by omega) rfl
  next => exact plainWrite_misses

/-- A 32-bit write, whatever its page does with a write that reaches it. -/
theorem regWrite_misses (h4 : a % 4 = 0) : Misses fn a s (regWrite fn a v s) := by
  unfold regWrite
  extract_lets o
  have ho : o = a % 0x1000 := rfl
  clear_value o
  refine .ite (fun _ => headerWrite_misses) (fun _ => ?_)
  cases hp : pageOf a with
  | none => exact plainWrite_misses
  | some e =>
    obtain ⟨k, i⟩ := e
    have ha := (pageOf_spec hp).1
    have hat {c : Nat} (h : o = c) : kindBase k i + c = a := by omega
    cases k
    case glb | oxa | goat | spad | vpx | ven | tnz | hif => exact plainWrite_misses
    case mgs => exact .ite (fun h => thenState_misses (hat h) rfl) fun _ => barWrite_misses rfl
    case thm => exact thmWrite_misses hp h4
    case isl => exact islWrite_misses hp
    case brg => exact .ite (fun h => thenState_misses (hat h) rfl) fun _ => plainWrite_misses
    case rlp => exact .ite (fun h => thenState_misses (hat h) rfl) fun _ => plainWrite_misses
    case rtr => exact rtrWrite_misses hp
    case e2e => exact .ite (fun ⟨hi, h⟩ => thenState_misses (hi ▸ hat h) rfl) fun _ => plainWrite_misses
    case hq => exact hqWrite_misses hp
    case kvm => exact .ite (fun h => kvmWrite_misses (h ▸ hp)) fun _ => plainWrite_misses
    case herd => exact herdWrite_misses hp h4
    case seq =>
      exact .ite (fun h => thenState_misses (hat h) rfl) fun _ => .ite (fun h => thenState_misses (hat h) rfl) fun _ =>
        .ite (fun h => thenState_misses (hat h) rfl) fun _ => .ite (fun _ => plainThen_misses) fun _ => plainWrite_misses
    case vec => exact vecWrite_misses
    case strm =>
      exact .ite (fun h => thenState_misses (hat h) rfl) fun _ =>
        .ite (fun h => lifeWrite_misses (.inr ⟨⟨i, .inl hp⟩, by omega, by omega, by omega⟩)) fun _ => plainWrite_misses
    case bead =>
      have ha : a = beadP i + a % 0x1000 := ha
      exact .ite (fun h => thenState_misses (hat h) rfl) fun _ => .ite (fun h => thenState_misses (by omega) rfl) fun _ =>
        .ite (fun h => thenState_misses (hat h) rfl) fun _ => plainWrite_misses
    case xlat => exact xlatWrite_misses hp
    case msg => exact msgWrite_misses hp
    case kv =>
      have ha : a = kvP i + a % 0x1000 := ha
      exact .ite (fun h => thenState_misses (by omega) rfl) fun _ => .ite (fun _ => plainThen_misses) fun _ => plainWrite_misses
    case sense =>
      exact .ite (fun h => thenState_misses (hat h) rfl) fun _ => .ite (fun h => thenState_misses (hat h) rfl) fun _ => plainWrite_misses
    case dbg => exact dbgWrite_misses hp

end

/-- `t` is what a write of any width, whose first register is at `a`, may leave of `s` where it does not reach its page. -/
structure WideMisses (fn a : Nat) (s t : State) : Prop where
  lost : (fnOf fn s).d3 = true ∨ pageLive (pageBase a) s = false → t = s
  denied : Foreign fn a s → OnlyDenial (pageBase a) s t

theorem Misses.wide {fn a : Nat} {s t : State} (h : Misses fn a s t) : WideMisses fn a s t :=
  ⟨fun hl => h.lost (hl.imp_right .inr), h.denied⟩

/-- Both halves of a 64-bit write lie in one page: where the lower one misses, so does the other, or it finds no register (R37, R40). -/
theorem Misses.halves {fn a : Nat} {s t u : State} (ha : a % 8 = 0) (h : Misses fn a s t) (k : Misses fn (a + 4) t u) : WideMisses fn a s u := by
  have hb : pageBase (a + 4) = pageBase a := by unfold pageBase; omega
  constructor
  · intro hl
    have e : t = s := h.wide.lost hl
    subst e
    exact k.wide.lost (by rwa [hb])
  · intro hf
    have ht := h.denied hf
    obtain ⟨hd, -, hl, ho⟩ := hf.keeps ht
    cases hr : regSpec (a + 4) with
    | none => rw [k.lost (.inr (.inl hr))]; exact ht
    | some r =>
      have hu := k.denied ⟨hd, by rw [hr]; rfl, by rw [hb, hl], by rw [hb, ho]⟩
      rw [hb] at hu
      exact ht.trans hu

/-- REGISTER_WRITE is one 32-bit write, two of them, or a refused form. -/
theorem execRegisterWrite_misses (fn off size v be : Nat) (s : State) :
    ∃ t, execRegisterWrite fn off size v be s = .next t ∧ WideMisses fn (off / 4 * 4) s t := by
  unfold execRegisterWrite
  split
  next h =>
    rw [show off / 4 * 4 = off by omega]
    exact ⟨_, rfl, (regWrite_misses h.2.1).wide⟩
  next =>
    split
    next h =>
      rw [show off / 4 * 4 = off by omega]
      exact ⟨_, rfl, (regWrite_misses (by omega)).halves h.2.1 (regWrite_misses (by omega))⟩
    next => exact ⟨_, rfl, Misses.wide (barWrite_misses rfl)⟩

/-- Settles O18: a write that does not reach its page is one BAR0 write, or several in a row, of which each is lost or raises the page's DENIAL,
and DENIAL leaves what decides that as it was. -/
theorem writesBesideTheOwnerAreDenied : Obligations.WritesBesideTheOwnerAreDenied := by
  unfold Obligations.WritesBesideTheOwnerAreDenied
  constructor
  · intro fn i k v s c a hc
    obtain ⟨t, ht, hm⟩ := writesReg_misses hc s
    refine ⟨fun hl => by rw [ht, hm.lost hl], fun hd hr hl ho => ?_⟩
    obtain ⟨he, hregs, honly⟩ := hm.denied ⟨hd, hr, hl, ho⟩
    exact ⟨t, ht, he, hregs, honly.rest⟩
  · rintro fn off size v be s _ rfl
    obtain ⟨t, ht, hm⟩ := execRegisterWrite_misses fn off size v be s
    refine ⟨fun hl => hm.lost hl ▸ ht, fun hd hr hl ho => ?_⟩
    obtain ⟨he, hregs, honly⟩ := hm.denied ⟨hd, hr, hl, ho⟩
    exact ⟨t, ht, he, hregs, honly.rest⟩

end Sys2Proof.Machine
end

section
/-! PROOFS. The control commands that only compute: each stores one value into its own sequencer, so the law of issue (`ctl_result`) gives all that it
leaves (R177, R178, R182, R211, Table 4-6). -/
namespace Sys2Proof.Machine

/-- The command `c` of rod `i` leaves `q` in its sequencer where it is enabled, and the bare issue where it is skipped; with its signal given and PC
moved on by one, nothing else differs from `s`. -/
def LeavesResult (i : Nat) (w : CmdWord) (s : State) (c : Instr) (q : SeqSt) : Prop :=
  ∃ t, exec c s = .next t
    ∧ seqOf i t = signalled w (if enabled w (seqOf i s) then q else issuedSeq w (seqOf i s))
    ∧ pcOf i t = pcOf i s + 1
    ∧ (∀ j, j ≠ i → seqOf j t = seqOf j s)
    ∧ (∀ a, a ∉ issueRegs i → rdW a t = rdW a s)
    ∧ t = { s with regs := t.regs, seqs := t.seqs }

/-- The act of storing what `f` makes of the sequencer, PC left to move on. -/
def storeAct (i : Nat) (f : SeqSt → SeqSt) (t : State) : State × Option Nat := (setSeq i (f (seqOf i t)) t, none)

/-- The sequencer `q'` with a scalar operation's result on the operands of `q` (Table 4-6), poisoned where an operand is (R182). -/
def scalarStore (w : CmdWord) (op : Nat) (q q' : SeqSt) : SeqSt :=
  let a := if op = 0x10 then ⟨0, false⟩ else sAt q (cwA w)
  let x := opX w (sAt q (cwB w))
  setS q' (cwD w) ⟨scalarOp op a.v x.v, a.p || x.p⟩

theorem scalarAct_eq_storeAct (i : Nat) (w : CmdWord) (op : Nat) : scalarAct i w op = fun q => storeAct i (scalarStore w op q) := rfl

section
variable {i : Nat} {w : CmdWord} {s : State} {c : Instr}
variable (hc : come i w s = .goes) (hp : pcOf i s < 131071) (hs : signalFits w (seqOf i s))
include hc hp hs

/-- NOP and ISYNC do nothing at issue (assumption log 6). -/
theorem leavesResult_of_idle (hx : exec c s = .next (issueCtl i w (fun _ t => (t, none)) s)) : LeavesResult i w s c (issuedSeq w (seqOf i s)) :=
  ctl_result _ (fun q => q) hc hp hs (fun t => ⟨.same i t, rfl, rfl⟩) (fun _ => rfl) hx rfl

/-- A command that stores an update of its sequencer, made from the operands that it found at issue. -/
theorem leavesResult_of_store (g : SeqSt → SeqSt → SeqSt) (hg : ∀ q q', (g q q').tok = q'.tok)
    (hx : exec c s = .next (issueCtl i w (fun q => storeAct i (g q)) s)) : LeavesResult i w s c (g (seqOf i s) (issuedSeq w (seqOf i s))) :=
  ctl_result _ (g (seqOf i s)) hc hp hs (fun t => ⟨.set i _ t, rfl, rfl⟩) (hg _) hx rfl

/-- A scalar operation, MOV among them, stores its result into S[D]. -/
theorem leavesResult_of_scalar (op : Nat) (hx : exec c s = .next (issueCtl i w (scalarAct i w op) s)) :
    LeavesResult i w s c (scalarStore w op (seqOf i s) (issuedSeq w (seqOf i s))) :=
  leavesResult_of_store hc hp hs (scalarStore w op) (fun _ _ => rfl) (scalarAct_eq_storeAct i w op ▸ hx)

/-- Every row of `controlResults`: the two that do nothing, the scalar operations, and the other stores. -/
theorem controlResults_leavesResult : ∀ e ∈ controlResults i w (seqOf i s), LeavesResult i w s e.1 e.2 := by
  have store {c : Instr} := leavesResult_of_store (c := c) hc hp hs
  have scalar {c : Instr} := leavesResult_of_scalar (c := c) hc hp hs
  simp only [controlResults, List.forall_mem_cons]
  refine ⟨?nop, ?isync, ?mov, ?add, ?sub, ?mul, ?and, ?or, ?xor, ?shl, ?shr, ?sra, ?min, ?max, ?movh, ?lset, ?lget, ?scmp, ?plog,
    List.forall_mem_nil _⟩
  case nop => exact leavesResult_of_idle hc hp hs rfl
  case isync => exact leavesResult_of_idle hc hp hs rfl
  case mov => exact scalar 0x10 rfl
  case add => exact scalar 0x11 rfl
  case sub => exact scalar 0x12 rfl
  case mul => exact scalar 0x13 rfl
  case and => exact scalar 0x14 rfl
  case or => exact scalar 0x15 rfl
  case xor => exact scalar 0x16 rfl
  case shl => exact scalar 0x17 rfl
  case shr => exact scalar 0x18 rfl
  case sra => exact scalar 0x19 rfl
  case min => exact scalar 0x1A rfl
  case max => exact scalar 0x1B rfl
  case movh =>
    exact store (fun q q' => setS q' (cwD w)
      ⟨BitVec.ofNat 64 ((sAt q (cwD w)).v.toNat % 2 ^ 48 + cwImm w % 65536 * 2 ^ 48), (sAt q (cwD w)).p⟩) (fun _ _ => rfl) rfl
  case lset =>
    exact store (fun q q' => setL q' (cwD w) (if bitOf (cwMod w) 0 then (sAt q (cwA w)).v.toNat else cwImm w)) (fun _ _ => rfl) rfl
  case lget => exact store (fun q q' => setS q' (cwD w) ⟨BitVec.ofNat 64 (lAt q (cwA w)), false⟩) (fun _ _ => rfl) rfl
  case scmp =>
    exact store (fun q q' => setP q' (cwD w) (scmp (bitsOf (cwMod w) 4 1) (sAt q (cwA w)).v (opX w (sAt q (cwB w))).v)) (fun _ _ => rfl) rfl
  case plog =>
    exact store (fun q q' => setP q' (cwD w) (if bitOf (cwMod w) 3 then bitOf (cwMod w) 4
      else plog (bitsOf (cwMod w) 2 1) (pAt q (cwA w)) (pAt q (cwB w)))) (fun _ _ => rfl) rfl

end

/-- Settles O8: every row of the table stores its value through the one law of issue. -/
theorem controlCommandsLeaveTheirResult : Obligations.ControlCommandsLeaveTheirResult := by
  unfold Obligations.ControlCommandsLeaveTheirResult
  intro i w s hc hp hs c q hm
  exact controlResults_leavesResult hc hp hs (c, q) hm

end Sys2Proof.Machine
end

section
/-! PROOFS. A bridge's receiver: which flit it accepts, drops or answers, and what a flit leaves of the links, by the laws of the header
(R589, R596, R610). -/
namespace Sys2Proof.Machine

/-! ### The receiver's choice -/

/-- The next flit in sequence is accepted. -/
theorem take_next {win seq : Nat} {l : LinkDir} (hs : seq < 4096) (h : seq = l.rxNext) : l.take win seq true = .accept := by
  unfold LinkDir.take
  rw [Nat.mod_eq_of_lt hs, h]
  simp

/-- One of the `win` before it is a duplicate. -/
theorem take_behind {win seq : Nat} {l : LinkDir} (hs : seq < 4096) (h : seq ≠ l.rxNext) (h1 : 1 ≤ seqDiff l.rxNext seq)
    (hw : seqDiff l.rxNext seq ≤ win) : l.take win seq true = .duplicate := by
  simp [LinkDir.take, Nat.mod_eq_of_lt hs, h, h1, hw]

/-- Any other is dropped, with a NAK unless one has been sent for this run. -/
theorem take_beyond {win seq : Nat} {l : LinkDir} (hs : seq < 4096) (h : seq ≠ l.rxNext) (hw : win < seqDiff l.rxNext seq) :
    l.take win seq true = if l.naking then .drop else .nak := by
  simp [LinkDir.take, Nat.mod_eq_of_lt hs, h, Nat.not_le.2 hw]

/-- So is one whose CRC fails, whatever its sequence. -/
theorem take_failed (win seq : Nat) (l : LinkDir) : l.take win seq false = if l.naking then .drop else .nak := by
  simp [LinkDir.take]

/-- A receiver that is in a run of dropped flits stays in it. -/
theorem naking_self {l : LinkDir} (h : l.naking = true) : { l with naking := true } = l := by
  cases l; cases h; rfl

/-! ### A data flit -/

/-- What a data flit leaves before the pump of the other direction runs: its header is taken, and one accepted inside a CARRY run counts at its
home link. -/
def brgData (n d seq ack vc : Nat) (crc : Bool) (u : State) : State :=
  if (brgHeader n d seq ack vc crc u).1 = .accept then carried n d (brgHeader n d seq ack vc crc u).2 else (brgHeader n d seq ack vc crc u).2

/-- A flit received on a link that exists: the lanes count its bits, and a control flit whose CRC passes acts by its operation (R611); any other
flit is taken as a data flit. -/
theorem exec_brgFlitReceived {n d seq ack vc op : Nat} {errs : List (Nat × Nat)} {ctrl pass : Bool} {s u : State} (hn : n < 32) (hd : d < 2)
    (hv : vc < 6) (hu : lanePass n d errs s = u) (hp : brgCrcPasses (getF (brgP n) BRG_STAT_WIDTH s) errs = pass) :
    exec (.brgFlitReceived n d seq ack vc errs ctrl op) s =
      if ctrl && pass then
        if op = 0 then .next (brgPump n (1 - d) (setBrgDir n (1 - d) ((brgDir n (1 - d) u).acked ack) u))
        else if op ≤ 6 then .next u else .next (brgCrcFail n d seq u)
      else .next (brgPump n (1 - d) (brgData n d seq ack vc pass u)) := by
  subst hu hp
  change execBrgFlitReceived n d seq ack vc errs ctrl op s = _
  unfold execBrgFlitReceived brgArrive brgData
  simp only [Nat.mod_eq_of_lt hd, Nat.mod_eq_of_lt hv, if_neg (Nat.not_le.2 hn)]

/-! ### Inside a CARRY run -/

theorem carried_of_none {n d : Nat} {s : State} (h : (brgDir n d s).run = none) : carried n d s = s := by
  simp [carried, h]

/-- An accepted flit of a CARRY run: the run is one flit shorter, and its home link has accepted the home sequence. -/
theorem carried_of_run {n d h q k : Nat} {s : State} (hr : (brgDir n d s).run = some (h, q, k)) (hh : h ≠ n % 4) :
    brgDir n d (carried n d s) = { brgDir n d s with run := if k ≤ 1 then none else some (h, (q + 1) % 4096, k - 1) }
    ∧ (brgDir (4 * (n / 4) + h) d (carried n d s)).rxNext = (if 2048 ≤ seqDiff q (brgDir (4 * (n / 4) + h) d s).rxNext then
        (brgDir (4 * (n / 4) + h) d s).rxNext else (q + 1) % 4096)
    ∧ LinksOnly s (carried n d s) := by
  have far : (4 * (n / 4) + h) * 2 + d ≠ n * 2 + d := by omega
  unfold carried
  simp only [hr, brgDir_set_ne _ _ far]
  split
  · exact ⟨brgDir_set_same _ _ _ _, by rw [brgDir_set_ne _ _ far], setBrgDir_lo _ _ _ _⟩
  · exact ⟨by rw [brgDir_set_ne _ _ far.symm, brgDir_set_same], by rw [brgDir_set_same], (setBrgDir_lo _ _ _ _).trans (setBrgDir_lo _ _ _ _)⟩

/-- Outside a CARRY run a data flit leaves what its header leaves. -/
theorem brgData_of_no_run {n d seq ack vc : Nat} {u : State} (hd : d < 2) (hr : (brgDir n d u).run = none) :
    brgData n d seq ack vc true u = (brgHeader n d seq ack vc true u).2 := by
  obtain ⟨-, ⟨told, hl, -⟩, -⟩ := brgHeader_ok n d seq ack vc u hd
  unfold brgData
  split
  · exact carried_of_none (by rw [hl, ← hr]; exact took_run _ _ _)
  · rfl

/-! ### What the header leaves, by the receiver's choice -/

/-- A flit is accepted: the expected sequence goes on, the run of dropped flits is over, and its buffer is freed. -/
theorem brgHeader_accept {n d seq ack vc : Nat} {u : State} (hd : d < 2) (hv : vc < 8) (ht : (brgDir n d u).take 256 seq true = .accept) :
    ∃ told, brgDir n d (brgHeader n d seq ack vc true u).2 = { brgDir n d u with
      rxNext := ((brgDir n d u).rxNext + 1) % 4096, naking := false, freed := vcAdd (brgDir n d u).freed vc 1, told := told } := by
  obtain ⟨-, ⟨told, hl, -⟩, -⟩ := brgHeader_ok n d seq ack vc u hd
  rw [ht] at hl
  exact ⟨told, by rw [hl]; simp [LinkDir.took, hv]⟩

/-- A flit is dropped: its direction is as the choice leaves it, and the choice's answer goes out. -/
theorem brgHeader_dropped {n d seq ack vc : Nat} {u : State} {c : Take} (hd : d < 2) (ht : (brgDir n d u).take 256 seq true = c)
    (hc : c ≠ .accept) :
    brgDir n d (brgHeader n d seq ack vc true u).2 = (brgDir n d u).took c vc
    ∧ (brgHeader n d seq ack vc true u).2.out = u.out ++ match c with
      | .nak => [brgTold n (1 - d) (brgDir n d u).ack [2, (brgDir n d u).rxNext]]
      | .duplicate => [brgTold n (1 - d) (brgDir n d u).ack [0]]
      | _ => [] := by
  obtain ⟨-, ⟨told, hl, htold⟩, -, -, -, hout⟩ := brgHeader_ok n d seq ack vc u hd
  rw [ht] at hl htold hout
  rw [hl, htold hc, hout hc]
  cases c <;> exact ⟨rfl, rfl⟩

/-- A data flit whose CRC fails: one NAK for the run, and the other directions stay. -/
theorem brgData_failed {n d seq ack vc : Nat} {u : State} (hd : d < 2) :
    brgDir n d (brgData n d seq ack vc false u) = { brgDir n d u with naking := true }
    ∧ (∀ m e, e < 2 → ¬ (m = n ∧ e = d) → brgDir m e (brgData n d seq ack vc false u) = brgDir m e u)
    ∧ (brgData n d seq ack vc false u).out = (brgCrcFail n d seq u).out
      ++ (if (brgDir n d u).naking then [] else [brgTold n (1 - d) (brgDir n d u).ack [2, (brgDir n d u).rxNext]]) := by
  have dd : 1 - (1 - d) = d := by omega
  have far : ∀ m e, e < 2 → ¬ (m = n ∧ e = d) → m * 2 + e ≠ n * 2 + d := by omega
  unfold brgData brgHeader
  simp only [Bool.false_eq_true, if_false, take_failed, brgDir_crcFail]
  cases hk : (brgDir n d u).naking with
  | true =>
    refine ⟨?_, fun m e he h => ?_, ?_⟩
    · simp [LinkDir.took, naking_self hk]
    · simp [brgDir_set_ne _ _ (far m e he h)]
    · simp
  | false =>
    refine ⟨?_, fun m e he h => ?_, ?_⟩
    · simp [LinkDir.took]
    · simp [brgDir_set_ne _ _ (far m e he h)]
    · simp [brgTell_out, dd, took_ack _ _ (by decide : Take.nak ≠ .accept)]

/-- The next flit in sequence inside a CARRY run: accepted here, and at its home link as `carried_of_run` says. -/
theorem brgData_in_run {n d seq ack vc h q k : Nat} {u : State} (hd : d < 2) (hv : vc < 8) (hs : seq < 4096)
    (hr : (brgDir n d u).run = some (h, q, k)) (hh : h ≠ n % 4) (hq : seq = (brgDir n d u).rxNext) :
    (brgDir n d (brgData n d seq ack vc true u)).rxNext = ((brgDir n d u).rxNext + 1) % 4096
    ∧ (brgDir n d (brgData n d seq ack vc true u)).run = (if k ≤ 1 then none else some (h, (q + 1) % 4096, k - 1))
    ∧ (brgDir (4 * (n / 4) + h) d (brgData n d seq ack vc true u)).rxNext = (if 2048 ≤ seqDiff q (brgDir (4 * (n / 4) + h) d u).rxNext then
        (brgDir (4 * (n / 4) + h) d u).rxNext else (q + 1) % 4096)
    ∧ LinksOnly u (brgData n d seq ack vc true u) := by
  have ht := take_next (win := 256) hs hq
  obtain ⟨told, hl⟩ := brgHeader_accept (ack := ack) hd hv ht
  obtain ⟨hc, -, -, hfar, hlo, -⟩ := brgHeader_ok n d seq ack vc u hd
  have hm : brgDir (4 * (n / 4) + h) d (brgHeader n d seq ack vc true u).2 = brgDir (4 * (n / 4) + h) d u := hfar _ _ hd (by omega)
  obtain ⟨hdir, hhome, hrest⟩ := carried_of_run (s := (brgHeader n d seq ack vc true u).2) (by rw [hl]; exact hr) hh
  unfold brgData
  rw [hc, ht, if_pos rfl, hdir, hhome, hm, hl]
  exact ⟨rfl, rfl, rfl, .trans ⟨hlo⟩ hrest⟩

/-- Settles O35: the command is its header, the CARRY run and the pump, and the header does what the receiver's choice says. -/
theorem bridgesAcceptInSequence : Obligations.BridgesAcceptInSequence := by
  unfold Obligations.BridgesAcceptInSequence
  rintro n d seq ack vc op errs s u hn hd hv hs hu _ pass rfl hp
  have hx (ctrl : Bool) := exec_brgFlitReceived (seq := seq) (ack := ack) (op := op) (ctrl := ctrl) hn hd hv hu hp
  refine ⟨?plain, ?failed, ?carry, ?ack, ?unknown⟩
  case plain =>
    rintro rfl hr
    obtain ⟨-, -, hback, hfar, hrest, -⟩ := brgHeader_ok n d seq ack vc u hd
    refine ⟨_, brgData_of_no_run (ack := ack) (vc := vc) hd hr ▸ hx false, by rw [hback]; rfl, fun m e _ he h => hfar m e he h, hrest,
      fun h => ?accepted, fun h h1 hw => ?duplicate, fun h hw hk => ?nak, fun h hw hk => ?drop⟩
    case accepted =>
      obtain ⟨told, hl⟩ := brgHeader_accept (ack := ack) hd (by omega : vc < 8) (take_next hs h)
      rw [hl]
      exact ⟨rfl, rfl, rfl, rfl⟩
    case duplicate =>
      exact brgHeader_dropped hd (take_behind hs h h1 hw) (by decide)
    case nak =>
      exact brgHeader_dropped hd (by rw [take_beyond hs h hw, hk]; rfl) (c := .nak) (by decide)
    case drop =>
      obtain ⟨hl, ho⟩ := brgHeader_dropped (ack := ack) (vc := vc) hd (by rw [take_beyond hs h hw, hk]; rfl) (c := .drop) (by decide)
      exact ⟨hl, by rw [ho, List.append_nil]⟩
  case failed =>
    rintro rfl
    obtain ⟨hdir, hfar, ho⟩ := brgData_failed (n := n) (seq := seq) (ack := ack) (vc := vc) (u := u) hd
    exact ⟨_, hx false, hdir, fun m e h _ he => hfar m e he h, ho⟩
  case carry =>
    rintro h q k rfl hr - hh hq
    obtain ⟨hnext, hrun, hhome, hlo⟩ := brgData_in_run (ack := ack) hd (by omega : vc < 8) hs hr hh hq
    exact ⟨_, hx false, hnext, hrun, hhome, hlo.rest⟩
  case ack =>
    rintro rfl rfl
    exact hx true
  case unknown =>
    rintro rfl ho
    rw [hx true, Bool.and_self, if_pos rfl, if_neg (by omega), if_neg (by omega)]

end Sys2Proof.Machine
end

section
/-! PROOFS. Every command and every step: `Keeps` of each meaning, put together over the commands. -/

-- One theorem after another: elaborated side by side, each holds its memory while it waits for those before it.
set_option Elab.async false

namespace Sys2Proof.Machine

/-- Every meaning keeps what `Keeps` says (its own lemma in Laws/Keeps*.lean). -/
theorem kp_exec (c : Instr) (s : State) : KeepsR s (exec c s) := by
 cases c with
  | registerWrite => exact kp_execRegisterWrite _ _ _ _ _ _ (Keeps.refl s)
  | bar0ReadTimeout => exact kp_execBar0ReadTimeout _ _ _ _ (Keeps.refl s)
  | bar0WriteTimeout => exact kp_execBar0WriteTimeout _ _ _ (Keeps.refl s)
  | pgLockSet => exact kp_execPgLockSet _ _ _ _ (Keeps.refl s)
  | pgEvtClear => exact kp_execPgEvtClear _ _ _ _ (Keeps.refl s)
  | pgEvtEnWrite => exact kp_execPgEvtEnWrite _ _ _ _ (Keeps.refl s)
  | pgEvtRouteWrite => exact kp_execPgEvtRouteWrite _ _ _ _ (Keeps.refl s)
  | notifyRodHeldSend => exact kp_execNotifyRodHeldSend _ _ (Keeps.refl s)
  | pgErrFirstClear => exact kp_execPgErrFirstClear _ _ _ _ (Keeps.refl s)
  | pgErrCntClr => exact kp_execPgErrCntClr _ _ _ _ (Keeps.refl s)
  | pgOwnerWrite => exact kp_execPgOwnerWrite _ _ _ (Keeps.refl s)
  | lifeNop => exact kp_execLifeNop _ _ _ _ (Keeps.refl s)
  | lifeStart => exact kp_execLifeStart _ _ _ _ (Keeps.refl s)
  | lifeDrain => exact kp_execLifeDrain _ _ _ _ _ (Keeps.refl s)
  | lifeStop => exact kp_execLifeStop _ _ _ _ (Keeps.refl s)
  | lifeClear => exact kp_execLifeClear _ _ _ _ (Keeps.refl s)
  | lifeBadCmd => exact kp_execLifeBadCmd _ _ _ _ _ (Keeps.refl s)
  | blockStartDone => exact kp_execBlockStartDone _ _ _ _ _ _ (Keeps.refl s)
  | startAbortSafePoint => exact kp_execStartAbortSafePoint _ _ (Keeps.refl s)
  | drainDone => exact kp_execDrainDone _ _ (Keeps.refl s)
  | drainDeadlineExpiry => exact kp_execDrainDeadlineExpiry _ _ (Keeps.refl s)
  | blockReachesOff => exact kp_execBlockReachesOff _ _ (Keeps.refl s)
  | offSelftestFail => exact kp_execOffSelftestFail _ _ _ (Keeps.refl s)
  | controlParityError => exact kp_execControlParityError _ _ _ _ _ _ (Keeps.refl s)
  | islCmd => exact kp_execIslCmd _ _ _ _ _ (Keeps.refl s)
  | ivrRampStart => exact kp_execIvrRampStart _ _ _ (Keeps.refl s)
  | settled => exact kp_execSettled _ _ _ (Keeps.refl s)
  | islCtlManualWrite => exact kp_execIslCtlManualWrite _ _ _ _ (Keeps.refl s)
  | islFlagsVrFaultClear => exact kp_execIslFlagsVrFaultClear _ _ _ _ (Keeps.refl s)
  | vrSlow => exact kp_execVrSlow _ _ _ (Keeps.refl s)
  | vrUnder => exact kp_execVrUnder _ _ _ (Keeps.refl s)
  | vrOver => exact kp_execVrOver _ _ _ (Keeps.refl s)
  | paceWindowEnd => exact kp_execPaceWindowEnd _ _ _ _ _ (Keeps.refl s)
  | islandStable => exact kp_execIslandStable _ _ _ (Keeps.refl s)
  | calibrationPeriodic => exact kp_execCalibrationPeriodic _ _ _ (Keeps.refl s)
  | calibrationDone => exact kp_execCalibrationDone _ _ _ _ (Keeps.refl s)
  | calibrationTimeout => exact kp_execCalibrationTimeout _ _ _ (Keeps.refl s)
  | calRetry => exact kp_execCalRetry _ _ _ (Keeps.refl s)
  | chanRetrainDone => exact kp_execChanRetrainDone _ _ _ _ _ (Keeps.refl s)
  | unitStart => exact kp_execUnitStart _ _ _ _ (Keeps.refl s)
  | unitComplete => exact kp_execUnitComplete _ _ _ _ (Keeps.refl s)
  | programEnded => exact kp_execProgramEnded _ _ (Keeps.refl s)
  | ctlNop => exact kp_execCtlNop _ _ _ (Keeps.refl s)
  | halt => exact kp_execHalt _ _ _ (Keeps.refl s)
  | br => exact kp_execBr _ _ _ (Keeps.refl s)
  | jr => exact kp_execJr _ _ _ (Keeps.refl s)
  | call => exact kp_execCall _ _ _ (Keeps.refl s)
  | isync => exact kp_execIsync _ _ _ (Keeps.refl s)
  | evt => exact kp_execEvt _ _ _ (Keeps.refl s)
  | lset => exact kp_execLset _ _ _ (Keeps.refl s)
  | lbr => exact kp_execLbr _ _ _ (Keeps.refl s)
  | lget => exact kp_execLget _ _ _ (Keeps.refl s)
  | mov => exact kp_execMov _ _ _ (Keeps.refl s)
  | add => exact kp_execAdd _ _ _ (Keeps.refl s)
  | sub => exact kp_execSub _ _ _ (Keeps.refl s)
  | mul => exact kp_execMul _ _ _ (Keeps.refl s)
  | and => exact kp_execAnd _ _ _ (Keeps.refl s)
  | or => exact kp_execOr _ _ _ (Keeps.refl s)
  | xor => exact kp_execXor _ _ _ (Keeps.refl s)
  | shl => exact kp_execShl _ _ _ (Keeps.refl s)
  | shr => exact kp_execShr _ _ _ (Keeps.refl s)
  | sra => exact kp_execSra _ _ _ (Keeps.refl s)
  | min => exact kp_execMin _ _ _ (Keeps.refl s)
  | max => exact kp_execMax _ _ _ (Keeps.refl s)
  | movh => exact kp_execMovh _ _ _ (Keeps.refl s)
  | scmp => exact kp_execScmp _ _ _ (Keeps.refl s)
  | plog => exact kp_execPlog _ _ _ (Keeps.refl s)
  | sld => exact kp_execSld _ _ _ (Keeps.refl s)
  | sst => exact kp_execSst _ _ _ (Keeps.refl s)
  | tok => exact kp_execTok _ _ _ (Keeps.refl s)
  | tset => exact kp_execTset _ _ _ (Keeps.refl s)
  | fence => exact kp_execFence _ _ _ (Keeps.refl s)
  | delay => exact kp_execDelay _ _ _ (Keeps.refl s)
  | time => exact kp_execTime _ _ _ (Keeps.refl s)
  | wdog => exact kp_execWdog _ _ _ (Keeps.refl s)
  | waitTimeout => exact kp_execWaitTimeout _ _ _ (Keeps.refl s)
  | tokenStall => exact kp_execTokenStall _ _ (Keeps.refl s)
  | seqStart => exact kp_execSeqStart _ _ _ _ (Keeps.refl s)
  | seqAbort => exact kp_execSeqAbort _ _ _ _ (Keeps.refl s)
  | seqTsig => exact kp_execSeqTsig _ _ _ _ (Keeps.refl s)
  | dbgPause => exact kp_execDbgPause _ _ _ _ (Keeps.refl s)
  | dbgResume => exact kp_execDbgResume _ _ _ _ (Keeps.refl s)
  | dbgStep => exact kp_execDbgStep _ _ _ _ (Keeps.refl s)
  | dbgDataCommit => exact kp_execDbgDataCommit _ _ _ _ (Keeps.refl s)
  | srun => exact kp_execSrun _ _ _ (Keeps.refl s)
  | scred => exact kp_execScred _ _ _ (Keeps.refl s)
  | sflush => exact kp_execSflush _ _ _ (Keeps.refl s)
  | sstat => exact kp_execSstat _ _ _ (Keeps.refl s)
  | owld => exact kp_execOwld _ _ _ (Keeps.refl s)
  | oswap => exact kp_execOswap _ _ _ (Keeps.refl s)
  | omm => exact kp_execOmm _ _ _ (Keeps.refl s)
  | gmv => exact kp_execGmv _ _ _ (Keeps.refl s)
  | vld => exact kp_execVld _ _ _ (Keeps.refl s)
  | vst => exact kp_execVst _ _ _ (Keeps.refl s)
  | vop => exact kp_execVop _ _ _ (Keeps.refl s)
  | vfn => exact kp_execVfn _ _ _ (Keeps.refl s)
  | vred => exact kp_execVred _ _ _ (Keeps.refl s)
  | vcvt => exact kp_execVcvt _ _ _ (Keeps.refl s)
  | vacc => exact kp_execVacc _ _ _ (Keeps.refl s)
  | vtos => exact kp_execVtos _ _ _ (Keeps.refl s)
  | vcmp => exact kp_execVcmp _ _ _ (Keeps.refl s)
  | vlse => exact kp_execVlse _ _ _ (Keeps.refl s)
  | msend => exact kp_execMsend _ _ _ (Keeps.refl s)
  | mrecv => exact kp_execMrecv _ _ _ (Keeps.refl s)
  | mpoll => exact kp_execMpoll _ _ _ (Keeps.refl s)
  | mflush => exact kp_execMflush _ _ _ (Keeps.refl s)
  | kapp => exact kp_execKapp _ _ _ _ (Keeps.refl s)
  | kattn => exact kp_execKattn _ _ _ _ (Keeps.refl s)
  | kring => exact kp_execKring _ _ _ _ (Keeps.refl s)
  | kstat => exact kp_execKstat _ _ _ _ (Keeps.refl s)
  | kringResume => exact kp_execKringResume _ _ _ _ (Keeps.refl s)
  | beadRequest => exact kp_execBeadRequest _ _ (Keeps.refl s)
  | beadFillDone => exact kp_execBeadFillDone _ _ _ _ _ _ _ (Keeps.refl s)
  | beadWback => exact kp_execBeadWback _ _ _ _ (Keeps.refl s)
  | beadWbackDone => exact kp_execBeadWbackDone _ _ (Keeps.refl s)
  | beadRefresh => exact kp_execBeadRefresh _ _ _ (Keeps.refl s)
  | patrolScrub => exact kp_execPatrolScrub _ _ _ (Keeps.refl s)
  | asWindowEnd => exact kp_execAsWindowEnd _ _ (Keeps.refl s)
  | recodeSweepDone => exact kp_execRecodeSweepDone _ _ _ (Keeps.refl s)
  | beadRclassWrite => exact kp_execBeadRclassWrite _ _ _ _ _ (Keeps.refl s)
  | beadCodeCtlWrite => exact kp_execBeadCodeCtlWrite _ _ _ _ (Keeps.refl s)
  | zeroDone => exact kp_execZeroDone _ _ (Keeps.refl s)
  | streamRequestIssue => exact kp_execStreamRequestIssue _ _ _ (Keeps.refl s)
  | streamPageResponse => exact kp_execStreamPageResponse _ _ _ (Keeps.refl s)
  | streamEnd => exact kp_execStreamEnd _ _ _ (Keeps.refl s)
  | strmCtlWrite => exact kp_execStrmCtlWrite _ _ _ _ (Keeps.refl s)
  | framedWordArrival => exact kp_execFramedWordArrival _ _ _ _ _ (Keeps.refl s)
  | xlatWalkDone => exact kp_execXlatWalkDone _ _ _ _ (Keeps.refl s)
  | faultRecordWrite => exact kp_execFaultRecordWrite _ _ _ (Keeps.refl s)
  | xlatPcomp => exact kp_execXlatPcomp _ _ _ _ (Keeps.refl s)
  | pagerComplete => exact kp_execPagerComplete _ _ (Keeps.refl s)
  | pagerInvalidate => exact kp_execPagerInvalidate _ _ (Keeps.refl s)
  | pagerTimeout => exact kp_execPagerTimeout _ _ _ (Keeps.refl s)
  | xlatInv => exact kp_execXlatInv _ _ _ _ (Keeps.refl s)
  | invDone => exact kp_execInvDone _ _ (Keeps.refl s)
  | xlatPagerWrite => exact kp_execXlatPagerWrite _ _ _ _ (Keeps.refl s)
  | tierPause => exact kp_execTierPause _ _ _ _ (Keeps.refl s)
  | tierEnable => exact kp_execTierEnable _ _ _ _ (Keeps.refl s)
  | tierWindowEnd => exact kp_execTierWindowEnd _ _ _ (Keeps.refl s)
  | migrationInvalidated => exact kp_execMigrationInvalidated _ _ _ _ (Keeps.refl s)
  | migrationCopyDone => exact kp_execMigrationCopyDone _ _ _ _ (Keeps.refl s)
  | gridPacketHop => exact kp_execGridPacketHop _ _ _ _ _ _ _ _ _ _ (Keeps.refl s)
  | herdReset => exact kp_execHerdReset _ _ _ _ (Keeps.refl s)
  | herdResize => exact kp_execHerdResize _ _ _ _ (Keeps.refl s)
  | resized => exact kp_execResized _ _ (Keeps.refl s)
  | herdShareWrite => exact kp_execHerdShareWrite _ _ _ _ _ (Keeps.refl s)
  | reservation => exact kp_execReservation _ _ _ (Keeps.refl s)
  | grant => exact kp_execGrant _ _ _ (Keeps.refl s)
  | reservationRetry => exact kp_execReservationRetry _ _ _ (Keeps.refl s)
  | itemAnswer => exact kp_execItemAnswer _ _ _ (Keeps.refl s)
  | resvTimeout => exact kp_execResvTimeout _ _ _ (Keeps.refl s)
  | msgChBufWrite => exact kp_execMsgChBufWrite _ _ _ _ _ (Keeps.refl s)
  | msgChFlush => exact kp_execMsgChFlush _ _ _ _ _ (Keeps.refl s)
  | probeTimer => exact kp_execProbeTimer _ _ _ (Keeps.refl s)
  | probe => exact kp_execProbe _ _ (Keeps.refl s)
  | confirmation => exact kp_execConfirmation _ _ (Keeps.refl s)
  | brgFlitReceived => exact kp_execBrgFlitReceived _ _ _ _ _ _ _ _ _ (Keeps.refl s)
  | brgCredit => exact kp_execBrgCredit _ _ _ _ _ (Keeps.refl s)
  | brgNak => exact kp_execBrgNak _ _ _ _ _ (Keeps.refl s)
  | carry => exact kp_execCarry _ _ _ _ _ _ _ _ (Keeps.refl s)
  | swap => exact kp_execSwap _ _ _ _ _ _ _ _ (Keeps.refl s)
  | brgWidth => exact kp_execBrgWidth _ _ _ _ _ _ _ _ (Keeps.refl s)
  | brgDrainEnd => exact kp_execBrgDrainEnd _ _ _ _ _ (Keeps.refl s)
  | brgCreditTimer => exact kp_execBrgCreditTimer _ _ _ (Keeps.refl s)
  | brgReplayTimeout => exact kp_execBrgReplayTimeout _ _ _ (Keeps.refl s)
  | laneErrorRate => exact kp_execLaneErrorRate _ _ _ _ _ _ _ (Keeps.refl s)
  | spareTrained => exact kp_execSpareTrained _ _ _ _ _ (Keeps.refl s)
  | linkRetrainDone => exact kp_execLinkRetrainDone _ _ _ _ (Keeps.refl s)
  | groupReturn => exact kp_execGroupReturn _ _ (Keeps.refl s)
  | linkDrainEnd => exact kp_execLinkDrainEnd _ _ (Keeps.refl s)
  | brgCreditTimeout => exact kp_execBrgCreditTimeout _ _ _ _ (Keeps.refl s)
  | brgCtlWrite => exact kp_execBrgCtlWrite _ _ _ _ (Keeps.refl s)
  | rlFlitReceived => exact kp_execRlFlitReceived _ _ _ _ _ _ _ _ _ _ _ (Keeps.refl s)
  | rlNak => exact kp_execRlNak _ _ _ _ (Keeps.refl s)
  | hello => exact kp_execHello _ _ _ _ _ _ _ _ _ _ (Keeps.refl s)
  | rlWidth => exact kp_execRlWidth _ _ _ _ _ _ _ (Keeps.refl s)
  | rlDrainEnd => exact kp_execRlDrainEnd _ _ _ _ (Keeps.refl s)
  | helloTimer => exact kp_execHelloTimer _ _ (Keeps.refl s)
  | rlIdleTimer => exact kp_execRlIdleTimer _ _ (Keeps.refl s)
  | rlReplayTimeout => exact kp_execRlReplayTimeout _ _ (Keeps.refl s)
  | rlPartnerSignal => exact kp_execRlPartnerSignal _ _ (Keeps.refl s)
  | rlTrainDone => exact kp_execRlTrainDone _ _ _ _ (Keeps.refl s)
  | rlAlignDone => exact kp_execRlAlignDone _ _ (Keeps.refl s)
  | rlLaneWindow => exact kp_execRlLaneWindow _ _ _ _ _ (Keeps.refl s)
  | rlLaneLockLoss => exact kp_execRlLaneLockLoss _ _ _ (Keeps.refl s)
  | rlRetrainDone => exact kp_execRlRetrainDone _ _ (Keeps.refl s)
  | rlDrainDone => exact kp_execRlDrainDone _ _ (Keeps.refl s)
  | rlCreditTimeout => exact kp_execRlCreditTimeout _ _ _ (Keeps.refl s)
  | rlpCtlWrite => exact kp_execRlpCtlWrite _ _ _ _ (Keeps.refl s)
  | rlPacketArrival => exact kp_execRlPacketArrival _ _ _ _ _ _ _ _ _ _ _ _ _ _ _ _ (Keeps.refl s)
  | escapeTimer => exact kp_execEscapeTimer _ _ (Keeps.refl s)
  | claim => exact kp_execClaim _ _ _ _ _ _ _ (Keeps.refl s)
  | claimTimer => exact kp_execClaimTimer _ (Keeps.refl s)
  | heartbeat => exact kp_execHeartbeat _ _ _ _ _ _ _ _ _ (Keeps.refl s)
  | heartbeatTimer => exact kp_execHeartbeatTimer _ (Keeps.refl s)
  | fmLost => exact kp_execFmLost _ (Keeps.refl s)
  | topoReq => exact kp_execTopoReq _ _ _ (Keeps.refl s)
  | topoRep => exact kp_execTopoRep _ _ _ _ _ _ (Keeps.refl s)
  | assign => exact kp_execAssign _ _ _ _ _ (Keeps.refl s)
  | assignAck => exact kp_execAssignAck _ _ _ (Keeps.refl s)
  | routeWrite => exact kp_execRouteWrite _ _ _ _ _ _ (Keeps.refl s)
  | routeAck => exact kp_execRouteAck _ _ _ (Keeps.refl s)
  | announce => exact kp_execAnnounce _ _ _ _ _ _ _ (Keeps.refl s)
  | portEvent => exact kp_execPortEvent _ _ _ _ _ _ _ (Keeps.refl s)
  | leaveReq => exact kp_execLeaveReq _ _ _ _ _ (Keeps.refl s)
  | managerRepeatTimer => exact kp_execManagerRepeatTimer _ _ (Keeps.refl s)
  | topoTimeout => exact kp_execTopoTimeout _ _ _ (Keeps.refl s)
  | e2eLeave => exact kp_execE2eLeave _ _ _ (Keeps.refl s)
  | rtrHostfmClaim => exact kp_execRtrHostfmClaim _ _ _ (Keeps.refl s)
  | rtrHostfmRelease => exact kp_execRtrHostfmRelease _ _ _ (Keeps.refl s)
  | e2eRequest => exact kp_execE2eRequest _ (Keeps.refl s)
  | e2eResponse => exact kp_execE2eResponse _ (Keeps.refl s)
  | e2eAttemptTimer => exact kp_execE2eAttemptTimer _ _ (Keeps.refl s)
  | e2ePendingTimer => exact kp_execE2ePendingTimer _ _ _ (Keeps.refl s)
  | e2ePendingGiveup => exact kp_execE2ePendingGiveup _ _ (Keeps.refl s)
  | dupEntryExpiry => exact kp_execDupEntryExpiry _ _ _ (Keeps.refl s)
  | quietEnd => exact kp_execQuietEnd _ (Keeps.refl s)
  | kvmOpgo => exact kp_execKvmOpgo _ _ _ (Keeps.refl s)
  | kvmOpen => exact kp_execKvmOpen _ (Keeps.refl s)
  | kvmClose => exact kp_execKvmClose _ (Keeps.refl s)
  | setBudget => exact kp_execSetBudget _ (Keeps.refl s)
  | kvmMove => exact kp_execKvmMove _ (Keeps.refl s)
  | kvmPin => exact kp_execKvmPin _ (Keeps.refl s)
  | kvmBadOp => exact kp_execKvmBadOp _ (Keeps.refl s)
  | rebalance => exact kp_execRebalance _ _ (Keeps.refl s)
  | moveCopyDone => exact kp_execMoveCopyDone _ _ (Keeps.refl s)
  | pairMoved => exact kp_execPairMoved _ _ _ (Keeps.refl s)
  | moveFail => exact kp_execMoveFail _ _ _ (Keeps.refl s)
  | movedExpiry => exact kp_execMovedExpiry _ _ _ (Keeps.refl s)
  | kvPoolCfgWrite => exact kp_execKvPoolCfgWrite _ _ _ _ _ (Keeps.refl s)
  | videoOpen => exact kp_execVideoOpen _ _ _ _ (Keeps.refl s)
  | videoClose => exact kp_execVideoClose _ _ _ _ (Keeps.refl s)
  | decode => exact kp_execDecode _ _ _ _ (Keeps.refl s)
  | encode => exact kp_execEncode _ _ _ _ _ (Keeps.refl s)
  | endOfStream => exact kp_execEndOfStream _ _ _ _ _ (Keeps.refl s)
  | videoJobDone => exact kp_execVideoJobDone _ _ _ _ (Keeps.refl s)
  | sliceNote => exact kp_execSliceNote _ _ _ _ _ _ _ (Keeps.refl s)
  | tensorizeRow => exact kp_execTensorizeRow _ _ _ _ _ _ (Keeps.refl s)
  | sqDoorbell => exact kp_execSqDoorbell _ _ _ _ (Keeps.refl s)
  | cqDoorbell => exact kp_execCqDoorbell _ _ _ _ (Keeps.refl s)
  | entryFetch => exact kp_execEntryFetch _ _ _ _ _ _ _ _ (Keeps.refl s)
  | entryNop => exact kp_execEntryNop _ _ _ _ (Keeps.refl s)
  | deliver => exact kp_execDeliver _ _ _ _ (Keeps.refl s)
  | copy => exact kp_execCopy _ _ _ _ _ _ _ _ (Keeps.refl s)
  | load => exact kp_execLoad _ _ _ _ _ _ _ (Keeps.refl s)
  | entryKvm => exact kp_execEntryKvm _ _ _ _ (Keeps.refl s)
  | entryVideo => exact kp_execEntryVideo _ _ _ _ (Keeps.refl s)
  | entryCompletion => exact kp_execEntryCompletion _ _ _ _ (Keeps.refl s)
  | imodTimer => exact kp_execImodTimer _ _ _ (Keeps.refl s)
  | hqFlush => exact kp_execHqFlush _ _ _ _ _ _ (Keeps.refl s)
  | hqCfgWrite => exact kp_execHqCfgWrite _ _ _ _ _ (Keeps.refl s)
  | hqDestWrite => exact kp_execHqDestWrite _ _ _ _ _ (Keeps.refl s)
  | bar2Read => exact kp_execBar2Read _ _ _ _ _ (Keeps.refl s)
  | bar2Write => exact kp_execBar2Write _ _ _ _ _ _ (Keeps.refl s)
  | atsInvalidate => exact kp_execAtsInvalidate _ _ _ _ _ (Keeps.refl s)
  | translationCompletion => exact kp_execTranslationCompletion _ _ _ _ _ _ _ (Keeps.refl s)
  | prgResponse => exact kp_execPrgResponse _ _ _ _ _ (Keeps.refl s)
  | hostCompletion => exact kp_execHostCompletion _ _ _ _ _ (Keeps.refl s)
  | completionTimeout => exact kp_execCompletionTimeout _ _ (Keeps.refl s)
  | configRequest => exact kp_execConfigRequest _ _ _ (Keeps.refl s)
  | rrsDeadline => exact kp_execRrsDeadline _ (Keeps.refl s)
  | flr => exact kp_execFlr _ _ (Keeps.refl s)
  | vfEnableClear => exact kp_execVfEnableClear _ (Keeps.refl s)
  | hotReset => exact kp_execHotReset _ (Keeps.refl s)
  | powerStateChange => exact kp_execPowerStateChange _ _ _ (Keeps.refl s)
  | busMasterChange => exact kp_execBusMasterChange _ _ _ (Keeps.refl s)
  | resizableBarWrite => exact kp_execResizableBarWrite _ _ (Keeps.refl s)
  | memorySpaceDisable => exact kp_execMemorySpaceDisable _ _ (Keeps.refl s)
  | linkUp => exact kp_execLinkUp _ _ _ _ (Keeps.refl s)
  | mbCmd => exact kp_execMbCmd _ _ _ _ (Keeps.refl s)
  | mbNop => exact kp_execMbNop _ (Keeps.refl s)
  | getInfo => exact kp_execGetInfo _ (Keeps.refl s)
  | sensorRead => exact kp_execSensorRead _ (Keeps.refl s)
  | logRead => exact kp_execLogRead _ (Keeps.refl s)
  | logWrite => exact kp_execLogWrite _ (Keeps.refl s)
  | logAckLost => exact kp_execLogAckLost _ (Keeps.refl s)
  | fwBegin => exact kp_execFwBegin _ _ _ (Keeps.refl s)
  | fwData => exact kp_execFwData _ _ (Keeps.refl s)
  | fwVerify => exact kp_execFwVerify _ _ (Keeps.refl s)
  | fwActivate => exact kp_execFwActivate _ _ (Keeps.refl s)
  | fwAbort => exact kp_execFwAbort _ (Keeps.refl s)
  | licInstall => exact kp_execLicInstall _ _ _ (Keeps.refl s)
  | licRead => exact kp_execLicRead _ (Keeps.refl s)
  | unlock => exact kp_execUnlock _ (Keeps.refl s)
  | configGet => exact kp_execConfigGet _ (Keeps.refl s)
  | configSet => exact kp_execConfigSet _ _ (Keeps.refl s)
  | fmStatus => exact kp_execFmStatus _ (Keeps.refl s)
  | fmPlan => exact kp_execFmPlan _ _ (Keeps.refl s)
  | fmNodes => exact kp_execFmNodes _ (Keeps.refl s)
  | defectRead => exact kp_execDefectRead _ (Keeps.refl s)
  | mbBadOpcode => exact kp_execMbBadOpcode _ (Keeps.refl s)
  | mctpMessage => exact kp_execMctpMessage _ _ _ _ _ _ _ _ (Keeps.refl s)
  | setEndpointId => exact kp_execSetEndpointId _ _ _ (Keeps.refl s)
  | getEndpointId => exact kp_execGetEndpointId _ _ (Keeps.refl s)
  | getMctpVersionSupport => exact kp_execGetMctpVersionSupport _ _ (Keeps.refl s)
  | getMessageTypeSupport => exact kp_execGetMessageTypeSupport _ _ (Keeps.refl s)
  | gettid => exact kp_execGettid _ _ (Keeps.refl s)
  | getpldmversion => exact kp_execGetpldmversion _ _ _ (Keeps.refl s)
  | getpldmtypes => exact kp_execGetpldmtypes _ _ (Keeps.refl s)
  | getpldmcommands => exact kp_execGetpldmcommands _ _ _ (Keeps.refl s)
  | getpdrrepositoryinfo => exact kp_execGetpdrrepositoryinfo _ _ (Keeps.refl s)
  | getpdr => exact kp_execGetpdr _ _ _ (Keeps.refl s)
  | getsensorreading => exact kp_execGetsensorreading _ _ _ (Keeps.refl s)
  | getstatesensorreadings => exact kp_execGetstatesensorreadings _ _ _ (Keeps.refl s)
  | setnumericeffectervalue => exact kp_execSetnumericeffectervalue _ _ _ _ (Keeps.refl s)
  | getnumericeffectervalue => exact kp_execGetnumericeffectervalue _ _ _ (Keeps.refl s)
  | seteventreceiver => exact kp_execSeteventreceiver _ _ _ (Keeps.refl s)
  | pollforplatformeventmessage => exact kp_execPollforplatformeventmessage _ _ (Keeps.refl s)
  | querydeviceidentifiers => exact kp_execQuerydeviceidentifiers _ _ (Keeps.refl s)
  | getfirmwareparameters => exact kp_execGetfirmwareparameters _ _ (Keeps.refl s)
  | requestupdate => exact kp_execRequestupdate _ _ _ (Keeps.refl s)
  | passcomponenttable => exact kp_execPasscomponenttable _ _ (Keeps.refl s)
  | updatecomponent => exact kp_execUpdatecomponent _ _ _ (Keeps.refl s)
  | activatefirmware => exact kp_execActivatefirmware _ _ _ _ (Keeps.refl s)
  | getstatus => exact kp_execGetstatus _ _ (Keeps.refl s)
  | cancelupdate => exact kp_execCancelupdate _ _ (Keeps.refl s)
  | getMeasurements => exact kp_execGetMeasurements _ _ _ _ (Keeps.refl s)
  | spdmRequest => exact kp_execSpdmRequest _ _ _ _ (Keeps.refl s)
  | i3cDynamicAddress => exact kp_execI3cDynamicAddress _ _ (Keeps.refl s)
  | rstdaa => exact kp_execRstdaa _ (Keeps.refl s)
  | updateSessionIdle => exact kp_execUpdateSessionIdle _ (Keeps.refl s)
  | trialCommit => exact kp_execTrialCommit _ (Keeps.refl s)
  | mgsWdog => exact kp_execMgsWdog _ _ (Keeps.refl s)
  | mgsRestartRun => exact kp_execMgsRestartRun _ _ _ (Keeps.refl s)
  | tallyPersist => exact kp_execTallyPersist _ _ (Keeps.refl s)
  | flashVerify => exact kp_execFlashVerify _ _ _ (Keeps.refl s)
  | xspiTimeout => exact kp_execXspiTimeout _ (Keeps.refl s)
  | sensorRefresh => exact kp_execSensorRefresh _ _ _ (Keeps.refl s)
  | ceilingRelax => exact kp_execCeilingRelax _ _ (Keeps.refl s)
  | powerMeterSample => exact kp_execPowerMeterSample _ _ (Keeps.refl s)
  | policyPlan => exact kp_execPolicyPlan _ _ _ _ _ (Keeps.refl s)
  | estimatorFit => exact kp_execEstimatorFit _ _ _ _ _ (Keeps.refl s)
  | quietSlice => exact kp_execQuietSlice _ (Keeps.refl s)
  | quietSliceEnd => exact kp_execQuietSliceEnd _ (Keeps.refl s)
  | hardwareTrip => exact kp_execHardwareTrip _ _ _ (Keeps.refl s)
  | shutdownLog => exact kp_execShutdownLog _ _ (Keeps.refl s)
  | shutdownPowerOff => exact kp_execShutdownPowerOff _ (Keeps.refl s)
  | thmShutClear => exact kp_execThmShutClear _ _ _ (Keeps.refl s)
  | thmCapWrite => exact kp_execThmCapWrite _ _ _ (Keeps.refl s)
  | thmThresholdWrite => exact kp_execThmThresholdWrite _ _ _ _ _ (Keeps.refl s)
  | senseTmaxClr => exact kp_execSenseTmaxClr _ _ _ _ (Keeps.refl s)
  | sensePaceMmClr => exact kp_execSensePaceMmClr _ _ _ _ (Keeps.refl s)
  | stagePower => exact kp_execStagePower _ (Keeps.refl s)
  | stageRom => exact kp_execStageRom _ _ (Keeps.refl s)
  | stageImage => exact kp_execStageImage _ _ _ (Keeps.refl s)
  | stageMgs => exact kp_execStageMgs _ _ (Keeps.refl s)
  | stageSense => exact kp_execStageSense _ _ _ (Keeps.refl s)
  | stageIslands => exact kp_execStageIslands _ (Keeps.refl s)
  | stageLinks => exact kp_execStageLinks _ _ (Keeps.refl s)
  | stageRodTest => exact kp_execStageRodTest _ _ (Keeps.refl s)
  | stageChecker => exact kp_execStageChecker _ _ (Keeps.refl s)
  | stageRodMap => exact kp_execStageRodMap _ (Keeps.refl s)
  | stageChanTrain => exact kp_execStageChanTrain _ _ _ (Keeps.refl s)
  | stageSpadTest => exact kp_execStageSpadTest _ _ (Keeps.refl s)
  | stageBeadTest => exact kp_execStageBeadTest _ _ (Keeps.refl s)
  | stageRetire => exact kp_execStageRetire _ (Keeps.refl s)
  | stageZero => exact kp_execStageZero _ (Keeps.refl s)
  | stageLaneTest => exact kp_execStageLaneTest _ _ (Keeps.refl s)
  | stageGrid => exact kp_execStageGrid _ _ _ _ _ _ (Keeps.refl s)
  | stageLicence => exact kp_execStageLicence _ _ (Keeps.refl s)
  | stagePcie => exact kp_execStagePcie _ (Keeps.refl s)
  | stageRl => exact kp_execStageRl _ (Keeps.refl s)
  | stageJudge => exact kp_execStageJudge _ (Keeps.refl s)
  | stageService => exact kp_execStageService _ (Keeps.refl s)
  | stageOverrun => exact kp_execStageOverrun _ (Keeps.refl s)
  | coldResetAssert => exact kp_execColdResetAssert _ _ (Keeps.refl s)
  | coldResetEnd => exact kp_execColdResetEnd _ _ _ _ (Keeps.refl s)
  | perstNAssert => exact kp_execPerstNAssert _ (Keeps.refl s)
  | perstNDeassert => exact kp_execPerstNDeassert _ (Keeps.refl s)
  | pwrWarnFall => exact kp_execPwrWarnFall _ (Keeps.refl s)
  | pwrWarnRise => exact kp_execPwrWarnRise _ (Keeps.refl s)
  | railOot => exact kp_execRailOot _ _ _ (Keeps.refl s)
  | railOvervoltage => exact kp_execRailOvervoltage _ _ _ (Keeps.refl s)
  | rlclkLoss => exact kp_execRlclkLoss _ _ (Keeps.refl s)
  | extest => exact kp_execExtest _ _ _ _ (Keeps.refl s)
  | idcode => exact kp_execIdcode _ _ (Keeps.refl s)
  | samplePreload => exact kp_execSamplePreload _ _ _ _ (Keeps.refl s)
  | extestPulse => exact kp_execExtestPulse _ _ _ _ (Keeps.refl s)
  | extestTrain => exact kp_execExtestTrain _ _ _ _ (Keeps.refl s)
  | clamp => exact kp_execClamp _ _ (Keeps.refl s)
  | highz => exact kp_execHighz _ _ (Keeps.refl s)
  | ccrAccess => exact kp_execCcrAccess _ _ _ (Keeps.refl s)
  | dieAccess => exact kp_execDieAccess _ _ _ _ (Keeps.refl s)
  | ijtag => exact kp_execIjtag _ _ _ _ _ (Keeps.refl s)
  | tapTestStat => exact kp_execTapTestStat _ _ (Keeps.refl s)
  | tapBypass => exact kp_execTapBypass _ _ _ (Keeps.refl s)
  | islandPwr => exact kp_execIslandPwr _ _ _ (Keeps.refl s)
  | laneMargin => exact kp_execLaneMargin _ _ _ _ _ _ _ (Keeps.refl s)
  | rodLogicBist => exact kp_execRodLogicBist _ _ _ (Keeps.refl s)
  | beadArrayMarch => exact kp_execBeadArrayMarch _ _ _ _ (Keeps.refl s)
  | testLogicReset => exact kp_execTestLogicReset _ (Keeps.refl s)
  | brgLaneLockLoss => exact kp_execBrgLaneLockLoss _ _ _ _ (Keeps.refl s)
  | pcieLinkChange => exact kp_execPcieLinkChange _ _ _ _ _ (Keeps.refl s)
  | msixVectorUnmask => exact kp_execMsixVectorUnmask _ _ _ _ _ _ (Keeps.refl s)
  | requestfirmwaredataResponse => exact kp_execRequestfirmwaredataResponse _ _ _ _ _ _ (Keeps.refl s)
  | videoJobStart => exact kp_execVideoJobStart _ _ _ _ (Keeps.refl s)
  | marginRunEnd => exact kp_execMarginRunEnd _ _ _ (Keeps.refl s)

/-- What an outcome that keeps is: a next state, with what it keeps. -/
theorem KeepsR.next_of {z : State} {r : Res} (h : KeepsR z r) : ∃ t, r = .next t ∧ Keeps z t := by
  cases r with
  | next t => exact ⟨t, rfl, h⟩
  | fault _ => exact h.elim
  | refused _ => exact h.elim

/-- Settles O58: every meaning answers a next state that keeps the queue, what was sent and the count of free values. -/
theorem everyCommandGoesOn : Obligations.EveryCommandGoesOn := by
  unfold Obligations.EveryCommandGoesOn
  intro c s
  obtain ⟨t, ht, -, hpending, hout, hfree⟩ := (kp_exec c s).next_of
  exact ⟨t, ht, hpending, hout, hfree⟩

/-- A step on an empty queue lets package time go on by 1 ns. -/
theorem step_idle {s : State} (h : s.pending = []) : step s = .next { s with now := s.now + 1 } := by
  unfold step; rw [h]

/-- A step takes the command at the front of the queue. -/
theorem step_front {s : State} {c : Instr} {rest : List Instr} (h : s.pending = c :: rest) : step s = exec c { s with pending := rest } := by
  unfold step; rw [h]

/-- Settles O59: an idle step writes no store, and a command keeps the form of the stores. -/
theorem storesKeepTheirForm : Obligations.StoresKeepTheirForm := by
  unfold Obligations.StoresKeepTheirForm
  intro s t hwf hstep
  cases hq : s.pending with
  | nil =>
    rw [step_idle hq] at hstep
    cases hstep
    exact hwf
  | cons c rest =>
    obtain ⟨u, hu, hkeeps, -⟩ := (kp_exec c { s with pending := rest }).next_of
    rw [step_front hq, hu] at hstep
    cases hstep
    exact hkeeps hwf

/-- Settles O57: the two cases of a step; no table word spells a command. -/
theorem stepTakesTheFrontCommand : Obligations.StepTakesTheFrontCommand :=
  ⟨fun _ _ _ => step_front, fun _ => step_idle, fun _ _ _ => ⟨rfl, rfl⟩⟩

end Sys2Proof.Machine
end

section
/-! PROOFS. Branches, HALT and EVT by the law of issue (R177, R183, R194). -/
-- One theorem after another: elaborated side by side, each holds its memory while it waits for those before it.
set_option Elab.async false

namespace Sys2Proof.Machine

/-! ### Branches -/

/-- The command `c` of rod `i` leaves `q` in its sequencer, with its signal given, and `pc` as its PC; nothing else differs from `s`. -/
def LeavesJump (i : Nat) (w : CmdWord) (s : State) (c : Instr) (q : SeqSt) (pc : Nat) : Prop :=
  ∃ t, exec c s = .next t
    ∧ seqOf i t = signalled w q
    ∧ pcOf i t = pc
    ∧ (∀ j, j ≠ i → seqOf j t = seqOf j s)
    ∧ (∀ a, a ∉ issueRegs i → rdW a t = rdW a s)
    ∧ t = { s with regs := t.regs, seqs := t.seqs }

/-- What LBR does at issue: it counts its loop counter down, and branches while the counter was above 1 (R183). -/
def lbrAct (i : Nat) (w : CmdWord) (pc : Nat) (q : SeqSt) (t : State) : State × Option Nat :=
  let l := lAt q (cwD w)
  if l = 0 then (t, none)
  else (setSeq i (setL (seqOf i t) (cwD w) (l - 1)) t, if l - 1 = 0 then none else some (branchTarget pc w).toNat)

section
variable {i : Nat} {w : CmdWord} {s : State}
variable (hc : come i w s = .goes) (he : enabled w (seqOf i s) = true) (hs : signalFits w (seqOf i s))
include hc he hs

/-- A branch that leaves its sequencer as the issue left it. -/
theorem leavesJump_of_target {c : Instr} {pc : Nat} (npc : SeqSt → Nat) (hx : exec c s = .next (issueCtl i w (fun q t => (t, some (npc q))) s))
    (hpc : npc (seqOf i s) = pc) (hlt : pc < 131072) : LeavesJump i w s c (issuedSeq w (seqOf i s)) pc :=
  ctl_jump _ (fun q => q) (some pc) hc he hs (fun t => ⟨.same i t, congrArg some hpc, rfl⟩) (fun _ => rfl) hx rfl rfl hlt

theorem leavesJump_call (hlt : (branchTarget (pcOf i s) w).toNat < 131072) :
    LeavesJump i w s (.call i w) (setS (issuedSeq w (seqOf i s)) (cwD w) ⟨BitVec.ofNat 64 (pcOf i s + 1), false⟩)
      (branchTarget (pcOf i s) w).toNat :=
  ctl_jump _ (fun q => setS q (cwD w) ⟨BitVec.ofNat 64 (pcOf i s + 1), false⟩) (some (branchTarget (pcOf i s) w).toNat) hc he hs
    (fun t => ⟨.set i _ t, rfl, rfl⟩) (fun _ => rfl) rfl rfl rfl hlt

/-- LBR: a counter of 0 stays, one of 1 falls through, a higher one branches. -/
theorem leavesJump_lbr {l pc : Nat} (hl : lAt (seqOf i s) (cwD w) = l)
    (hpc : (if 1 < l then (branchTarget (pcOf i s) w).toNat else pcOf i s + 1) = pc) (hlt : pc < 131072) :
    LeavesJump i w s (.lbr i w) (if l = 0 then issuedSeq w (seqOf i s) else setL (issuedSeq w (seqOf i s)) (cwD w) (l - 1)) pc := by
  have hx : exec (.lbr i w) s = .next (issueCtl i w (lbrAct i w (pcOf i s)) s) := rfl
  rcases Nat.eq_zero_or_pos l with h0 | h0
  · have ha (t : State) : lbrAct i w (pcOf i s) (seqOf i s) t = (t, none) := if_pos (hl.trans h0)
    rw [if_neg (by omega)] at hpc
    rw [if_pos h0]
    exact ctl_jump _ (fun q => q) none hc he hs (fun t => by rw [ha]; exact ⟨.same i t, rfl, rfl⟩) (fun _ => rfl) hx rfl hpc hlt
  · have ha (t : State) : lbrAct i w (pcOf i s) (seqOf i s) t = (setSeq i (setL (seqOf i t) (cwD w) (l - 1)) t,
        if l - 1 = 0 then none else some (branchTarget (pcOf i s) w).toNat) := by
      unfold lbrAct; rw [hl]; exact if_neg (by omega)
    rw [if_neg (by omega : ¬ l = 0)]
    refine ctl_jump _ (fun q => setL q (cwD w) (l - 1)) (if l - 1 = 0 then none else some (branchTarget (pcOf i s) w).toNat) hc he hs (fun t => by rw [ha]; exact ⟨.set i _ t, rfl, rfl⟩) (fun _ => rfl) hx rfl ?_ hlt
    rw [← hpc]
    split <;> split <;> first | rfl | omega

end

/-- Settles O9: each row of the table is its own branch through the law of issue. -/
theorem branchesLeaveTheirTarget : Obligations.BranchesLeaveTheirTarget := by
  unfold Obligations.BranchesLeaveTheirTarget
  intro i w s hc he hs c q pc hm hlt
  simp only [controlJumps, List.mem_cons, Prod.mk.injEq, List.not_mem_nil, or_false] at hm
  rcases hm with ⟨rfl, rfl, rfl⟩ | ⟨rfl, rfl, rfl⟩ | ⟨rfl, rfl, rfl⟩ | ⟨rfl, rfl, rfl⟩
  case inl => exact leavesJump_of_target hc he hs (fun _ => (branchTarget (pcOf i s) w).toNat) rfl rfl hlt
  case inr.inl => exact leavesJump_of_target hc he hs (fun q => (sAt q (cwA w)).v.toNat % 131072) rfl (Nat.mod_eq_of_lt hlt) hlt
  case inr.inr.inl => exact leavesJump_call hc he hs hlt
  case inr.inr.inr => exact leavesJump_lbr hc he hs rfl rfl hlt

/-! ### HALT and EVT -/

theorem seqP_high (i : Nat) : 0x90000 ≤ seqP i := by unfold seqP rodP; omega

theorem seqP_mod (i : Nat) : seqP i % 0x1000 = 0 := by unfold seqP rodP; omega

/-- A control command whose act ends the program: PC stays as the act left it, and only the signal follows. -/
theorem issueCtl_ends {i : Nat} {w : CmdWord} {s u : State} {npc : Option Nat} (act : SeqSt → State → State × Option Nat)
    (hc : come i w s = .goes) (he : enabled w (seqOf i s) = true) (hs : signalFits w (seqOf i s))
    (ha : act (seqOf i s) (afterIssue i w s) = (u, npc)) (hq : ∀ j, seqOf j u = seqOf j (afterIssue i w s)) (hp : pstate i u = 2) :
    seqOf i (issueCtl i w act s) = signalled w (issuedSeq w (seqOf i s))
      ∧ (∀ j, j ≠ i → seqOf j (issueCtl i w act s) = seqOf j s)
      ∧ issueCtl i w act s = { u with seqs := (issueCtl i w act s).seqs } := by
  have hown : seqOf i u = issuedSeq w (seqOf i s) := by rw [hq, seqOf_afterIssue]
  have hS := signal_goes (i := i) (w := w) (t := u) (fun hv => by rw [hown]; exact hs hv)
  generalize hv : (if cwSV w then signalTok i (cwSG w) u else u) = v at hS
  obtain ⟨hS, hrest⟩ := hS
  have ht : issueCtl i w act s = v := by
    unfold issueCtl
    rw [hc]
    dsimp only
    rw [show countIssue i (setSeq i (consume w (seqOf i s)) s) = afterIssue i w s from rfl, if_pos he, ha]
    dsimp only
    rw [hv, if_pos (by rw [hS.ps, hp]; rfl)]
  rw [ht]
  exact ⟨by rw [hS.own, hown], fun j h => by rw [hS.others j h, hq, seqOf_afterIssue_ne w s h], hrest⟩

/-- An event between two changes of registers and sequencers. -/
theorem RegsSeqs.event {a b c d : State} (h : RegsSeqs a b) (k : EventsOnly b c) (l : RegsSeqs c d) :
    d = { a with regs := d.regs, seqs := d.seqs, mgs := d.mgs, held := d.held, msix := d.msix, out := d.out } := by
  rw [l.rest, k.rest, h.rest]

/-- The act of EVT: SEQ_USER shows the code and counts, and USER is raised. -/
def evtAct (i : Nat) (w : CmdWord) (t : State) : State :=
  raise (seqP i) 20 (bump (seqP i) SEQ_USER_COUNT 1 (setF (seqP i) SEQ_USER_CODE (cwImm w % 65536) t))

section
variable (i : Nat) (w : CmdWord) (t : State)

/-- EVT writes SEQ_USER and PG_EVT of its page, and MB_LOGSEQ where the log takes a record. -/
theorem rdW_evtAct {a : Nat} (ha : 0x90000 ≤ a) (h98 : a ≠ seqP i + 0x98) (h10 : a ≠ seqP i + 0x10) : rdW a (evtAct i w t) = rdW a t := by
  have hp := seqP_high i
  unfold evtAct bump
  rw [rdW_raise _ _ _ (canon_ne_high (by omega) h10) (by rw [canon_high ha]; omega) (by rw [canon_high ha]; omega),
    rdW_setF_ne _ _ (canon_ne_high (b := seqP i + SEQ_USER_COUNT.off) (by omega) h98),
    rdW_setF_ne _ _ (canon_ne_high (b := seqP i + SEQ_USER_CODE.off) (by omega) h98)]

theorem evtAct_only : EventsOnly t (evtAct i w t) := ((setF_only _ _ _ _).trans (bump_only _ _ _ _)).trans (raise_only _ _ _)

theorem seqAct_evtAct : SeqAct i (fun q => q) t (evtAct i w t) where
  own := seqOf_seqs (by rw [(evtAct_only i w t).rest]) i
  others j _ := seqOf_seqs (by rw [(evtAct_only i w t).rest]) j
  pc := getF_of_rdW (rdW_evtAct i w t (by have := seqP_high i; show 0x90000 ≤ seqP i + 0x90; omega) (by show seqP i + 0x90 ≠ _; omega)
    (by show seqP i + 0x90 ≠ _; omega))
  ps := getF_of_rdW (rdW_evtAct i w t (by have := seqP_high i; show 0x90000 ≤ seqP i + 0x8C; omega) (by show seqP i + 0x8C ≠ _; omega)
    (by show seqP i + 0x8C ≠ _; omega))

theorem seqUser_raise (f : Field) (hf : f.off = 0x98) (u : State) : getF (seqP i) f (raise (seqP i) 20 u) = getF (seqP i) f u :=
  getF_raise_high _ _ _ (by have := seqP_high i; omega) (by have := seqP_mod i; omega)

theorem evtAct_code : getF (seqP i) SEQ_USER_CODE (evtAct i w t) = cwImm w % 65536 := by
  unfold evtAct bump
  rw [seqUser_raise i _ rfl, getF_setF_beside (f := SEQ_USER_CODE) (g := SEQ_USER_COUNT) _ _ rfl (by decide) (by decide) (.inr (by decide)),
    getF_setF_same _ _ (by decide) (by decide)]
  exact Nat.mod_mod _ _

theorem satAdd_lt {n a k : Nat} : satAdd n a k < 2 ^ n := by
  have := Nat.two_pow_pos n
  unfold satAdd; split <;> omega

theorem evtAct_count : getF (seqP i) SEQ_USER_COUNT (evtAct i w t) = satAdd 16 (getF (seqP i) SEQ_USER_COUNT t) 1 := by
  unfold evtAct bump
  rw [seqUser_raise i _ rfl, getF_setF_same _ _ (by decide) (by decide),
    getF_setF_beside (f := SEQ_USER_COUNT) (g := SEQ_USER_CODE) _ _ rfl (by decide) (by decide) (.inl (by decide))]
  exact Nat.mod_eq_of_lt satAdd_lt

theorem evtAct_bit : bitOf (rdW (seqP i + 0x10) (evtAct i w t)).toNat 20 = true :=
  (raise_shown _ _ _ (by decide) (seqP_mod i)).1

end

section
variable {i : Nat} {w : CmdWord} {s : State}
variable (hc : come i w s = .goes) (he : enabled w (seqOf i s) = true) (hs : signalFits w (seqOf i s))
include hc he hs

theorem exec_halt : ∃ t, exec (.halt i w) s = .next t
    ∧ pstate i t = 2 ∧ pcOf i t = pcOf i s ∧ getF (seqP i) SEQ_PSTAT_FAULT t = getF (seqP i) SEQ_PSTAT_FAULT s
    ∧ seqOf i t = signalled w (issuedSeq w (seqOf i s)) ∧ (∀ j, j ≠ i → seqOf j t = seqOf j s)
    ∧ (∀ a, a ∉ issueRegs i → a ≠ seqP i + 0x8C → rdW a t = rdW a s)
    ∧ t = { s with regs := t.regs, seqs := t.seqs } := by
  have hp := seqP_high i
  have hps : pstate i (setPstate i 2 (afterIssue i w s)) = 2 := pstate_setPstate _ _ _ (by decide)
  obtain ⟨hown, hother, hrest⟩ := issueCtl_ends (fun _ t => (setPstate i 2 t, none)) hc he hs rfl (fun j => seqOf_setPstate _ _ _ _) hps
  have hx : exec (.halt i w) s = .next (issueCtl i w (fun _ t => (setPstate i 2 t, none)) s) := rfl
  generalize issueCtl i w (fun _ t => (setPstate i 2 t, none)) s = t at hown hother hrest hx
  have hr : t.regs = (setPstate i 2 (afterIssue i w s)).regs := by rw [hrest]
  refine ⟨t, hx, (getF_regs hr _ _).trans hps, ?pc, ?fault, hown, hother, fun a h h8 => ?far, ?rest⟩
  case pc =>
    rw [pcOf, getF_regs hr, setPstate, getF_setF_offset _ _ (by show (seqP i + 0x90) % _ ≠ (seqP i + 0x8C) % _; omega)]
    exact pcOf_afterIssue i w s
  case fault =>
    rw [getF_regs hr, setPstate, getF_setF_beside (f := SEQ_PSTAT_FAULT) (g := SEQ_PSTAT_PSTATE) _ _ rfl (by decide) (by decide) (.inl (by decide))]
    refine getF_of_rdW (rdW_afterIssue w s ?_)
    show seqP i + 0x8C ∉ issueRegs i
    simp [issueRegs]
  case far =>
    rw [rdW_regs hr, setPstate, rdW_setF_ne _ _ (canon_ne_high (b := seqP i + SEQ_PSTAT_PSTATE.off) (by omega) h8), rdW_afterIssue w s h]
  case rest =>
    rw [hrest, setPstate, ((RegsSeqs.setF _ _ _ (afterIssue_rest i w s)).rest : setF _ _ _ _ = _)]

theorem exec_evt (hpc : pcOf i s < 131071) : ∃ t, exec (.evt i w) s = .next t
    ∧ getF (seqP i) SEQ_USER_CODE t = cwImm w % 65536 ∧ getF (seqP i) SEQ_USER_COUNT t = satAdd 16 (getF (seqP i) SEQ_USER_COUNT s) 1
    ∧ bitOf (rdW (seqP i + 0x10) t).toNat 20 = true
    ∧ pcOf i t = pcOf i s + 1 ∧ seqOf i t = signalled w (issuedSeq w (seqOf i s)) ∧ (∀ j, j ≠ i → seqOf j t = seqOf j s)
    ∧ (∀ a, 0x90000 ≤ a → a ∉ issueRegs i → a ≠ seqP i + 0x98 → a ≠ seqP i + 0x10 → rdW a t = rdW a s)
    ∧ t = { s with regs := t.regs, seqs := t.seqs, mgs := t.mgs, held := t.held, msix := t.msix, out := t.out } := by
  have hp := seqP_high i
  obtain ⟨hown, hpcs, hother, hregs, hrest⟩ := issueCtl_goes (fun _ t => (evtAct i w t, none)) (fun q => q) none (evtAct i w (afterIssue i w s)) hc
    (by rw [he, if_pos rfl]) (seqAct_evtAct i w _) (fun _ => rfl) hs (fun _ => hpc) (by simp)
  have hx : exec (.evt i w) s = .next (issueCtl i w (fun _ t => (evtAct i w t, none)) s) := rfl
  generalize issueCtl i w (fun _ t => (evtAct i w t, none)) s = t at hown hpcs hother hregs hrest hx
  have huser : rdW (seqP i + 0x98) t = rdW (seqP i + 0x98) (evtAct i w (afterIssue i w s)) := hregs _ (by omega)
  refine ⟨t, hx, ?code, ?count, ?bit, hpcs, hown, hother, fun a ha h h98 h10 => ?far, ?rest⟩
  case code => exact (getF_of_rdW (f := SEQ_USER_CODE) huser).trans (evtAct_code i w _)
  case count =>
    rw [getF_of_rdW (f := SEQ_USER_COUNT) huser, evtAct_count,
      getF_of_rdW (f := SEQ_USER_COUNT) (rdW_afterIssue w s (by show seqP i + 0x98 ∉ issueRegs i; simp [issueRegs]))]
  case bit => rw [hregs _ (by omega)]; exact evtAct_bit i w _
  case far => rw [hregs a (issue_regs h), rdW_evtAct i w _ ha h98 h10, rdW_afterIssue w s h]
  case rest => exact (afterIssue_rest i w s).event (evtAct_only i w _) hrest

end

/-- Settles O10: HALT sets PSTATE and keeps PC; EVT shows its code, counts and raises its event. -/
theorem haltStopsAndEvtTells : Obligations.HaltStopsAndEvtTells :=
  fun _ _ _ hc he hs => ⟨exec_halt hc he hs, exec_evt hc he hs⟩

end Sys2Proof.Machine
end

section
/-! PROOFS. SLD and SST by the law of issue; unit commands at issue, at the start of a head and at completion (R167-R171, R180, R198). -/
-- One theorem after another: elaborated side by side, each holds its memory while it waits for those before it.
set_option Elab.async false

namespace Sys2Proof.Machine

/-! ### SLD and SST -/

theorem spadP_not_issue (i o : Nat) (ho : o < 0x1000) : spadP i + o ∉ issueRegs i := by
  simp only [issueRegs, List.mem_cons, List.not_mem_nil, or_false, not_or, spadP, seqP]
  omega

/-- A store of a value into S[D] as an act. -/
theorem seqAct_setS (i d : Nat) (r : SReg) (t : State) : SeqAct i (fun q => setS q d r) t (setSeq i (setS (seqOf i t) d r) t) :=
  .set i (fun q => setS q d r) t

/-- The marks that SST gives its eight bytes. -/
theorem contains_badMarks (p : Bool) {k : Nat} (hk : k < 8) : (if p then List.range 8 else []).contains k = p := by
  cases p <;> simp [hk]

/-- The eight bytes of SST, written with no injection armed. -/
theorem spadWrite_eight (i a v : Nat) (p : Bool) {s : State} (h : flag (spadP i) SPAD_INJECT_ARM s = false) :
    ∃ u, spadWrite i a (leBytes 8 v) (if p then List.range 8 else []) s = u ∧ SpadOnly s u
      ∧ (∀ k, k < 8 → spadByte i (a + k) u = BitVec.ofNat 8 (v / 256 ^ k) ∧ u.spadBad.contains (spadKey i (a + k)) = p)
      ∧ (∀ j b, (∀ k, k < 8 → spadKey j b ≠ spadKey i (a + k)) → spadByte j b u = spadByte j b s) := by
  obtain ⟨hbytes, hfar, honly⟩ := spadWriteFrom_plain (i := i) (a := a) (leBytes 8 v) (if p then List.range 8 else []) 0 s h
  simp only [Nat.zero_add, leBytes_length] at hbytes hfar
  refine ⟨_, rfl, honly, fun k hk => ?_, fun j b hne => (hfar _ hne).1⟩
  obtain ⟨hbyte, hmark⟩ := hbytes k _ (leBytes_get 8 v k hk)
  exact ⟨hbyte, hmark.trans (contains_badMarks p hk)⟩

section
variable {i : Nat} {w : CmdWord} {s : State}
variable (hc : come i w s = .goes) (he : enabled w (seqOf i s) = true) (hp : pcOf i s < 131071) (hs : signalFits w (seqOf i s))
include hc he hp hs

/-- SLD from bytes with good parity leaves them in S[D]. -/
theorem exec_sld (hpar : ∀ k, k < 8 → s.spadPar.contains (spadKey i (sldAddr w (seqOf i s) + k)) = false) :
    ∃ t, exec (.sld i w) s = .next t
      ∧ seqOf i t = signalled w (setS (issuedSeq w (seqOf i s)) (cwD w)
          ⟨BitVec.ofNat 64 (leNat (spadRead i (sldAddr w (seqOf i s)) 8 s)), !(spadBadIn i (sldAddr w (seqOf i s)) 8 s).isEmpty⟩)
      ∧ pcOf i t = pcOf i s + 1 ∧ (∀ j, j ≠ i → seqOf j t = seqOf j s) ∧ (∀ a, a ∉ issueRegs i → rdW a t = rdW a s)
      ∧ t = { s with regs := t.regs, seqs := t.seqs } := by
  have hrest := (afterIssue_rest i w s).rest
  have hspad : (afterIssue i w s).spad = s.spad := by rw [hrest]
  have hbad : (afterIssue i w s).spadBad = s.spadBad := by rw [hrest]
  have hpar' : (afterIssue i w s).spadPar = s.spadPar := by rw [hrest]
  have hact := sldAct_clean (i := i) (w := w) (q := seqOf i s) (t := afterIssue i w s) (by rw [hpar']; exact hpar)
  rw [spadRead_eq hspad, spadBadIn_eq hbad hpar'] at hact
  obtain ⟨hown, hpc, hother, hregs, hrs⟩ := issueCtl_goes (sldAct i w) _ none _ hc (by rw [he, if_pos rfl]; exact hact) (seqAct_setS i _ _ _)
    (fun _ => rfl) hs (fun _ => hp) (by simp)
  exact ⟨_, rfl, hown, hpc, hother, fun a h => by rw [hregs a (issue_regs h), rdW_setSeq, rdW_afterIssue w s h],
    ((((afterIssue_rest i w s).setSeq _ _).trans hrs).rest)⟩

omit hc he hp hs in
/-- The bytes that SST writes leave the sequencers and the registers alone. -/
theorem seqAct_spadOnly {t u : State} (h : SpadOnly t u) : SeqAct i (fun q => q) t u := by
  obtain ⟨h⟩ := h
  have hr : u.regs = t.regs := by rw [h]
  have hq : u.seqs = t.seqs := by rw [h]
  exact ⟨seqOf_seqs hq i, fun j _ => seqOf_seqs hq j, getF_regs hr _ _, getF_regs hr _ _⟩

omit hc he hp hs in
/-- Scratchpad bytes between two changes of registers and sequencers. -/
theorem RegsSeqs.spad {a b c d : State} (h : RegsSeqs a b) (k : SpadOnly b c) (l : RegsSeqs c d) :
    d = { a with regs := d.regs, seqs := d.seqs, spad := d.spad, spadBad := d.spadBad, spadPar := d.spadPar } := by
  rw [l.rest, k.rest, h.rest]

/-- SST with no injection armed stores S[B] with its poison. -/
theorem exec_sst (hinj : flag (spadP i) SPAD_INJECT_ARM s = false) :
    ∃ t, exec (.sst i w) s = .next t
      ∧ (∀ k, k < 8 → spadByte i (sldAddr w (seqOf i s) + k) t = BitVec.ofNat 8 ((sAt (seqOf i s) (cwB w)).v.toNat / 256 ^ k)
          ∧ t.spadBad.contains (spadKey i (sldAddr w (seqOf i s) + k)) = (sAt (seqOf i s) (cwB w)).p)
      ∧ (∀ j a, (∀ k, k < 8 → spadKey j a ≠ spadKey i (sldAddr w (seqOf i s) + k)) → spadByte j a t = spadByte j a s)
      ∧ seqOf i t = signalled w (issuedSeq w (seqOf i s))
      ∧ pcOf i t = pcOf i s + 1 ∧ (∀ j, j ≠ i → seqOf j t = seqOf j s) ∧ (∀ a, a ∉ issueRegs i → rdW a t = rdW a s)
      ∧ t = { s with regs := t.regs, seqs := t.seqs, spad := t.spad, spadBad := t.spadBad, spadPar := t.spadPar } := by
  have hinj' : flag (spadP i) SPAD_INJECT_ARM (afterIssue i w s) = false := by
    rw [← hinj]; unfold flag; rw [getF_of_rdW (rdW_afterIssue w s (spadP_not_issue i _ (by decide)))]
  obtain ⟨u, hu, honly, hbytes, hfar⟩ := spadWrite_eight i (sldAddr w (seqOf i s)) (sAt (seqOf i s) (cwB w)).v.toNat (sAt (seqOf i s) (cwB w)).p hinj'
  have hact : sstAct i w (seqOf i s) (afterIssue i w s) = (u, none) := by rw [← hu]; rfl
  obtain ⟨hown, hpc, hother, hregs, hrs⟩ := issueCtl_goes (sstAct i w) (fun q => q) none _ hc (by rw [he, if_pos rfl]; exact hact)
    (seqAct_spadOnly honly) (fun _ => rfl) hs (fun _ => hp) (by simp)
  have hx : exec (.sst i w) s = .next (issueCtl i w (sstAct i w) s) := rfl
  generalize issueCtl i w (sstAct i w) s = t at hown hpc hother hregs hrs hx
  have hspad : t.spad = u.spad := by rw [hrs.rest]
  have hbad : t.spadBad = u.spadBad := by rw [hrs.rest]
  have hissue : (afterIssue i w s).spad = s.spad := by rw [(afterIssue_rest i w s).rest]
  have hregs' : u.regs = (afterIssue i w s).regs := by rw [honly.rest]
  refine ⟨t, hx, fun k hk => ?bytes, fun j a h => ?others, hown, hpc, hother, fun a h => ?regs, (afterIssue_rest i w s).spad honly hrs⟩
  case bytes => unfold spadByte; rw [hspad, hbad]; exact hbytes k hk
  case others => unfold spadByte; rw [hspad, ← hissue]; exact hfar j a h
  case regs => rw [hregs a (issue_regs h), rdW_regs hregs', rdW_afterIssue w s h]

end

/-- Settles O11: the two commands of the scratchpad through the law of issue. -/
theorem scratchpadLoadAndStoreMoveEightBytes : Obligations.ScratchpadLoadAndStoreMoveEightBytes :=
  fun _ _ _ hc he hp hs => ⟨exec_sld hc he hp hs, exec_sst hc he hp hs⟩

/-! ### Unit commands -/

/-- Each unit command issues into its queue and then has its unit look at its head. -/
theorem exec_unitCommand {i : Nat} {w : CmdWord} {hs : List (List (Option Nat))} {c : Instr} {u : Nat} {free : QCmd → State → Bool}
    {run : QCmd → State → State} (h : (c, u, free, run) ∈ unitCommands i w hs) (s : State) :
    exec c s = .next (startHead i u free run (issueUnit i w s)) := by
  refine (?_ : ∀ e ∈ unitCommands i w hs, exec e.1 s = .next (startHead i e.2.1 e.2.2.1 e.2.2.2 (issueUnit i w s))) _ h
  simp only [unitCommands, List.forall_mem_cons, List.not_mem_nil, false_imp_iff, implies_true, and_true]
  and_intros <;> rfl

/-- Settles O12: every unit command is one issue and one look at its unit's head. -/
theorem unitCommandsJoinTheirQueue : Obligations.UnitCommandsJoinTheirQueue := by
  unfold Obligations.UnitCommandsJoinTheirQueue
  rintro i w hs s hc hp c u free run hm rfl
  obtain ⟨hown, hpc, hother, hregs, hrest⟩ := issueUnit_goes hc hp
  exact ⟨exec_unitCommand hm s, hown, hpc, hother, hregs, hrest.rest⟩

/-- Settles O13: UNIT_START is the start of the head of the unit's queue. -/
theorem headsStart : Obligations.HeadsStart := by
  unfold Obligations.HeadsStart
  intro i u hs c rest s h1 h7 hq hm
  have start (free : QCmd → State → Bool) (run : QCmd → State → State) (hx : exec (.unitStart i u hs) s = .next (startHead i u free run s)) :
      (c.skip = true → exec (.unitStart i u hs) s = .next (finish i c 0 ⟨0, false⟩ (atStart i u c rest s)))
        ∧ (c.skip = false → free c s = true → exec (.unitStart i u hs) s = .next (run c (atStart i u c rest s))) := by
    rw [hx]
    exact (startHead_goes hq hm).imp (fun h hk => by rw [h hk]) fun h hk hf => by rw [h hk hf]
  obtain ⟨free, run, hx⟩ : ∃ free run, exec (.unitStart i u hs) s = .next (startHead i u free run s) := by
    obtain rfl | rfl | rfl | rfl | rfl | rfl | rfl : u = 1 ∨ u = 2 ∨ u = 3 ∨ u = 4 ∨ u = 5 ∨ u = 6 ∨ u = 7 := by omega
    all_goals exact ⟨_, _, rfl⟩
  refine ⟨(start free run hx).1, fun hk => ⟨?_, ?_, ?_, ?_, ?_, ?_, ?_⟩⟩
  · rintro rfl hf; exact (start (strmFree i) (strmRun i) rfl).2 hk hf
  · rintro rfl hf; exact (start (oxFree i) (oxRun i) rfl).2 hk hf
  · rintro rfl hf; exact (start (gmvFree i) (gmvRun i) rfl).2 hk hf
  · rintro rfl hf; exact (start (vecFree i) (vecRun i) rfl).2 hk hf
  · rintro rfl hf; exact (start (msgFree i) (msgRun i) rfl).2 hk hf
  · rintro rfl hf; exact (start (kvFree i) (kvRun i hs) rfl).2 hk hf
  · rintro rfl; exact (start syncFree (syncRun i) rfl).2 hk rfl

/-! ### Completion -/

/-- The sequencer that a good completion of a command with an S destination leaves, before its signal. -/
def completedSeq (now num : Nat) (w : CmdWord) (res : SReg) (q : SeqSt) : SeqSt :=
  restall now { q with
    started := q.started.filter (fun d => d.cmd.num != num)
    s := listSet q.s (cwD w) res
    pendS := nsErase q.pendS (cwD w) }

/-- A completion with status OK or POISONED into an S register stores the result, and then signals. -/
theorem finish_good {i : Nat} {c : QCmd} {status : Nat} {res : SReg} {r : CatRow} {s t : State} (hk : c.skip = false)
    (hr : catRow c.word = some r) (hw : writesS c.word r = true) (hst : status = 0 ∨ status = 4)
    (ht : setSeq i (restall s.now { setS (seqOf i s) (cwD c.word) res with pendS := nsErase (seqOf i s).pendS (cwD c.word) }) s = t) :
    finish i c status res s = if cwSV c.word then signalTok i (cwSG c.word) t else t := by
  have hgood : (status == 0 || status == 4 || hasStatusWord c.word) = true := by rcases hst with rfl | rfl <;> rfl
  have hbad : ¬ (status ≠ 0 ∧ status ≠ 4 ∧ ¬ hasStatusWord c.word) := by omega
  have hfault : status ≠ 0x0A := by omega
  subst ht
  unfold finish
  dsimp only
  rw [hk, if_neg Bool.false_ne_true, hr]
  dsimp only
  rw [if_pos hw, if_pos hgood, if_neg hbad, if_neg hfault]

theorem unitHook_now (i : Nat) (c : Started) (s : State) : (unitHook i c s).now = s.now := by
  unfold unitHook
  split
  · split
    · rw [bump_now, setF_now, setF_now]
    · rfl
  · rw [bump_now]
  · rw [setF_now, setF_now, setF_now]
  · rw [bump64_now]
  · rfl

/-- A command whose work is over leaves its unit, shows its end in the unit's registers, and finishes. -/
theorem completeNum_of_done {i num : Nat} {c : Started} {s : State} (hby : startedBy i num s = some c) (hdone : c.done = true) :
    completeNum i num s = finish i c.cmd c.status c.res
      (unitHook i c (setSeq i { seqOf i s with started := (seqOf i s).started.filter (fun d => d.cmd.num != num) } s)) := by
  unfold completeNum
  rw [hby]
  exact if_pos hdone

/-- Settles O14: the completed command has left its unit, and `finish` stores its result and signals. -/
theorem completionWritesItsDestination : Obligations.CompletionWritesItsDestination := by
  unfold Obligations.CompletionWritesItsDestination
  intro i num hs c r s hby hdone hk hr hw hst hfit
  have hx : exec (.unitComplete i num hs) s = .next (completeNum i num (waitTill (workEnds c) s)) := by
    show execUnitComplete i num hs s = _
    unfold execUnitComplete
    rw [hby]
    exact if_pos hdone
  rw [hx, completeNum_of_done (s := waitTill (workEnds c) s) hby hdone]
  generalize hu : unitHook i c _ = u
  have hseqs : u.seqs = alSet s.seqs i { seqOf i s with started := (seqOf i s).started.filter (fun d => d.cmd.num != num) } := by
    rw [← hu, unitHook_seqs]; rfl
  have hnow : u.now = max s.now (workEnds c) := by rw [← hu, unitHook_now]; rfl
  have hown : seqOf i u = { seqOf i s with started := (seqOf i s).started.filter (fun d => d.cmd.num != num) } := by
    simp [seqOf, hseqs, alGetD]
  have hother (j : Nat) (h : j ≠ i) : seqOf j u = seqOf j s := by simp [seqOf, hseqs, alGetD, alGet_alSet_ne _ _ h]
  generalize hv : setSeq i (completedSeq u.now num c.cmd.word c.res (seqOf i s)) u = v
  rw [finish_good (t := v) hk hr hw hst (by rw [hown]; exact hv)]
  have hvown : seqOf i v = completedSeq u.now num c.cmd.word c.res (seqOf i s) := by rw [← hv, seqOf_setSeq_same]
  have hvother (j : Nat) (h : j ≠ i) : seqOf j v = seqOf j s := by rw [← hv, seqOf_setSeq_ne _ _ h, hother j h]
  have hvnow : v.now = u.now := by rw [← hv]; rfl
  obtain ⟨hS, hS'⟩ := signal_goes (i := i) (w := c.cmd.word) (t := v) (fun h => by rw [hvown]; exact hfit h)
  generalize (if cwSV c.cmd.word then signalTok i (cwSG c.cmd.word) v else v) = t at hS hS'
  have htnow : t.now = u.now := (congrArg State.now hS').trans hvnow
  exact ⟨t, rfl, by rw [hS.own, hvown, htnow]; rfl, by rw [htnow, hnow], fun j h => by rw [hS.others j h, hvother j h]⟩

end Sys2Proof.Machine
end

section
/-! PROOFS. The register tables: where each page lies, what its registers are after reset, and how the fields of a register take a write
(R6, R9, R40, R47, R88, R95, Table 2-6, Table 2-7). -/
-- One theorem after another: elaborated side by side, each holds its memory while it waits for those before it.
set_option Elab.async false

namespace Sys2Proof.Machine

/-! ### The map -/

/-- Page `m` of rod `i` (Table 2-7). -/
theorem pageOf_rodP {i m o : Nat} (hi : i < 1024) (hm : m < 16) (ho : o < 0x1000) :
    pageOf (rodP i + m * 0x1000 + o) = (rodKind m).map (fun k => (k, i)) := by
  unfold pageOf
  dsimp only
  generalize hn : (rodP i + m * 0x1000 + o) / 0x1000 = n
  replace hn : n = 0x1000 + i * 0x10 + m := by rw [rodP] at hn; omega
  iterate 23 rw [if_neg (by omega)]
  rw [if_pos (by omega), show n % 0x10 = m by omega, show (n - 0x1000) / 0x10 = i by omega]

/-- The offsets of a page lie in that page. -/
theorem pageOf_kindBase {k : Kind} {i o : Nat} (hi : i < kindCount k) (ho : o < 0x1000) : pageOf (kindBase k i + o) = some (k, i) := by
  have rod (m : Nat) (h : i < 1024) (hm : m < 12) (hk : rodKind m = some k) (hb : kindBase k i = rodP i + m * 0x1000) :
      pageOf (kindBase k i + o) = some (k, i) := by
    rw [hb, pageOf_rodP h (by omega) ho, hk]; rfl
  cases k
  case seq => exact rod 0 hi (by decide) rfl rfl
  case oxa => exact rod 1 hi (by decide) rfl rfl
  case goat => exact rod 2 hi (by decide) rfl rfl
  case vec => exact rod 3 hi (by decide) rfl rfl
  case strm => exact rod 4 hi (by decide) rfl rfl
  case spad => exact rod 5 hi (by decide) rfl rfl
  case bead => exact rod 6 hi (by decide) rfl rfl
  case xlat => exact rod 7 hi (by decide) rfl rfl
  case msg => exact rod 8 hi (by decide) rfl rfl
  case kv => exact rod 9 hi (by decide) rfl rfl
  case sense => exact rod 10 hi (by decide) rfl rfl
  case dbg => exact rod 11 hi (by decide) rfl rfl
  all_goals
    simp only [kindBase, kindCount, glbP, mgsP, thmP, islP, brgP, rlpP, rtrP, e2eP, vpxP, venP, tnzP, hifP, hqP, kvmP, herdP] at hi ⊢
    unfold pageOf
    dsimp only
    generalize hn : (_ + o) / 0x1000 = n
    repeat rw [if_neg (by omega)]
    rw [if_pos (by omega)]
  case vpx => rw [show n % 0x10 = 0 by omega]; simp; omega
  case ven => rw [show n % 0x10 = 1 by omega]; simp; omega
  case tnz => rw [show n % 0x10 = 2 by omega]; simp; omega
  all_goals simp; omega

/-- A register beside the common header is the one that its page's table lists. -/
theorem regSpec_kindBase {k : Kind} {i o : Nat} (hi : i < kindCount k) (h : 0x30 ≤ o) (ho : o < 0x1000) :
    regSpec (kindBase k i + o) = specAt (specsOf k i) o := by
  have hmod : (kindBase k i + o) % 0x1000 = o := by
    have := (pageOf_spec (pageOf_kindBase hi ho)).1
    omega
  unfold regSpec
  rw [pageOf_kindBase hi ho]
  dsimp only
  rw [hmod, if_neg (by omega)]

/-! ### The fields of a register -/

/-- The fields of a register lie in its 32 bits and do not meet. -/
def RSpec.fits (r : RSpec) : Bool :=
  decide (r.fields.Pairwise (fun f g => g.hi < f.lo ∨ f.hi < g.lo) ∧ ∀ f ∈ r.fields, f.lo ≤ f.hi ∧ f.hi < 32)

theorem specAt_mem {l : List RSpec} {o : Nat} {r : RSpec} (h : specAt l o = some r) : r ∈ l := by
  induction l with
  | nil => cases h
  | cons x l ih =>
    unfold specAt at h
    split at h
    · cases h; exact List.mem_cons_self
    · exact List.mem_cons_of_mem _ (ih h)

/-- Every table that describes a page is one of these. -/
theorem specsOf_fits (k : Kind) (i : Nat) : (specsOf k i).all RSpec.fits = true := by
  unfold specsOf
  cases k
  case thm | rtr | e2e | kvm =>
    dsimp only
    repeat' split
    all_goals decide +kernel
  all_goals dsimp only; decide +kernel

theorem specsALL_fits : specsALL.all RSpec.fits = true := by decide +kernel

/-- Settles O16: every table of registers passes the check. -/
theorem registerFieldsDoNotMeet : Obligations.RegisterFieldsDoNotMeet := by
  unfold Obligations.RegisterFieldsDoNotMeet
  intro a r h
  suffices hf : r.fits = true from of_decide_eq_true hf
  unfold regSpec at h
  split at h
  · cases h
  · dsimp only at h
    split at h
    · exact List.all_eq_true.1 specsALL_fits r (specAt_mem h)
    · exact List.all_eq_true.1 (specsOf_fits _ _) r (specAt_mem h)

/-! ### REGISTER_WRITE -/

/-- Settles O15: the three forms of a write are the three branches of REGISTER_WRITE. -/
theorem registerWritesComeInTwoSizes : Obligations.RegisterWritesComeInTwoSizes := by
  unfold Obligations.RegisterWritesComeInTwoSizes
  intro fn off size v be s
  show (_ → _ → _ → execRegisterWrite fn off size v be s = _) ∧ (_ → _ → _ → execRegisterWrite fn off size v be s = _)
    ∧ (_ → _ → _ → execRegisterWrite fn off size v be s = _)
  unfold execRegisterWrite
  refine ⟨fun h1 h2 h3 => if_pos ⟨h1, h2, h3⟩, fun h1 h2 h3 => ?_, fun h4 h8 hr => ?_⟩
  · rw [if_neg (by omega), if_pos ⟨h1, h2, h3⟩]
  · rw [if_neg h4, if_neg h8, refuseForm, barWrite_goes hr]

/-- A register by itself, on a page whose registers have no write effect of their own, only takes the value. -/
theorem regWrite_plain {fn a v : Nat} {r : RSpec} {s : State} (hp : plainReg a) (hr : regSpec a = some r) (hrole : r.role = .no)
    (h : reaches fn a s) : regWrite fn a v s = writeReg a v s := by
  have hplain : plainWrite fn a v s = writeReg a v s := by
    unfold plainWrite
    rw [hr, Option.map_some, hrole]
    exact barWrite_goes h
  obtain ⟨ho, i, hk⟩ := hp
  unfold regWrite
  dsimp only
  rw [if_neg (by omega)]
  rcases hk with hk | hk | hk | hk | hk | hk | hk | hk <;> rw [hk] <;> exact hplain

/-- The bits of a field of a 32-bit register, from a value of any width. -/
theorem bitsOf_mod32 (v : Nat) {hi lo : Nat} (h : lo ≤ hi) (hh : hi < 32) : bitsOf (v % 2 ^ 32) hi lo = bitsOf v hi lo := by
  unfold bitsOf
  have e : 2 ^ 32 = 2 ^ lo * 2 ^ (32 - lo) := by rw [← Nat.pow_add]; congr 1; omega
  rw [e, Nat.mod_mul_right_div_self, Nat.mod_mod_of_dvd]
  exact Nat.pow_dvd_pow _ (by omega)

/-- Settles O17: such a write is `writeReg`, whose law says what each field takes. -/
theorem fieldsFollowTheirAccessType : Obligations.FieldsFollowTheirAccessType := by
  unfold Obligations.FieldsFollowTheirAccessType
  intro fn a v r s hp h4 hr hrole h
  obtain ⟨hpair, hin⟩ := registerFieldsDoNotMeet a r hr
  obtain ⟨hfields, hothers, honly⟩ := writeReg_goes (v := v % 2 ^ 32) (s := s) hr hpair hin hp.1 (plain_not_mgs hp _ (by decide) (by decide))
    (plain_not_mgs hp _ (by decide) (by decide))
  refine ⟨_, ?_, fun f hf => ?_, hothers, honly.rest⟩
  · rw [(registerWritesComeInTwoSizes fn a 4 v 0xF s).1 rfl h4 rfl, regWrite_plain hp hr hrole h]
  · rw [hfields f hf, bitsOf_mod32 v (hin f hf).1 (hin f hf).2]

end Sys2Proof.Machine
end

section
/-! PROOFS. The common header's registers (R40, R46, R47, R50-R55, R59, R92), held notifications and BAR0 timeouts (R54, R103, R104), and the block right
after reset (R9, assumption log 11, 15, 16). -/
-- One theorem after another: elaborated side by side, each holds its memory while it waits for those before it.
set_option Elab.async false

namespace Sys2Proof.Machine

/-! ### Header registers -/

section
variable {fn p o v : Nat} {s : State}

/-- A BAR0 write of a header register that reaches its page does what follows it. -/
theorem header_goes {k : State → State} (h : reaches fn (p + o) s) : barWrite fn (p + o) k s = k s := barWrite_goes h

/-- A register whose fields no lock and no state holds back takes its value, and nothing else changes (R6). -/
theorem writeReg_free {a : Nat} {r : RSpec} (hr : regSpec a = some r) (hlock : (flag (pageBase a) PG_LOCK_LOCKED s && r.fields.any (fun f => f.acc = .rwl)) = false)
    (hoff : r.fields.any (fun f => f.offOnly) = false) :
    writeReg a v s = wrW a (BitVec.ofNat 32 (applyFields (flag (pageBase a) PG_LOCK_LOCKED s) (lifeAt (offStat a) s == 0) v r.fields (rdW a s).toNat)) s := by
  have hsame : r.fields.any (fun f => f.offOnly && bitsOf v f.hi f.lo != bitsOf (rdW a s).toNat f.hi f.lo) = false := by
    rw [List.any_eq_false] at *
    intro f hf
    simp [hoff f hf]
  unfold writeReg
  rw [hr]
  dsimp only
  rw [hlock, hsame, Bool.and_false, if_neg Bool.false_ne_true, if_neg Bool.false_ne_true]

theorem wrW_regsOnly (a : Nat) (w : Word) (s : State) : wrW a w s = { s with regs := (wrW a w s).regs } := rfl

/-- What a write of a header register that nothing holds back leaves. -/
theorem writeReg_header {r : RSpec} (hp : p % 0x1000 = 0) (ho : o < 0x30) (h : reaches fn (p + o) s) (hr : specAt specsALL o = some r)
    (hlock : (flag p PG_LOCK_LOCKED s && r.fields.any (fun f => f.acc = .rwl)) = false) (hoff : r.fields.any (fun f => f.offOnly) = false) :
    (∀ f ∈ r.fields, bitsOf (rdW (p + o) (writeReg (p + o) v s)).toNat f.hi f.lo
        = fieldAfter f (flag p PG_LOCK_LOCKED s) (lifeAt (offStat (p + o)) s == 0) (bitsOf (rdW (p + o) s).toNat f.hi f.lo) (bitsOf v f.hi f.lo))
      ∧ (∀ b, canon b ≠ canon (p + o) → rdW b (writeReg (p + o) v s) = rdW b s)
      ∧ writeReg (p + o) v s = { s with regs := (writeReg (p + o) v s).regs } := by
  have hs := (hdr_spec hp ho h).trans hr
  have hb : pageBase (p + o) = p := pageBase_add hp (by omega)
  obtain ⟨hpair, hin⟩ := registerFieldsDoNotMeet _ _ hs
  rw [writeReg_free hs (by rwa [hb]) hoff, hb]
  refine ⟨fun f hf => ?_, fun b h => rdW_wrW_ne _ _ h, rfl⟩
  rw [rdW_wrW_same, BitVec.toNat_ofNat, Nat.mod_eq_of_lt (applyFields_lt hin (rdW (p + o) s).isLt), bitsOf_applyFields hpair (fun g hg => (hin g hg).1) hf]

/-- The one field of a whole register is the register. -/
theorem bitsOf_whole (w : Word) : bitsOf w.toNat 31 0 = w.toNat := by
  unfold bitsOf
  have := w.isLt
  omega

end

/-- One bit set by another. -/
theorem oneBit_or (x y : Nat) : (bitsOf x 0 0 ||| bitsOf y 0 0 == 1) = ((bitsOf x 0 0 == 1) || bitOf y 0) := by
  rw [show bitOf y 0 = (bitsOf y 0 0 == 1) from rfl]
  have hx := bitsOf_lt x 0 0
  have hy := bitsOf_lt y 0 0
  generalize bitsOf x 0 0 = a at hx
  generalize bitsOf y 0 0 = b at hy
  obtain rfl | rfl : a = 0 ∨ a = 1 := by omega
  all_goals obtain rfl | rfl : b = 0 ∨ b = 1 := by omega
  all_goals rfl

/-- Bits taken off a word. -/
theorem toNat_sub_and (x w : Word) : x.toNat - (x.toNat &&& w.toNat) = (x &&& ~~~w).toNat := by
  have hdisjoint : (x &&& w) &&& (x &&& ~~~w) = 0 := by
    rw [← BitVec.and_assoc, BitVec.and_comm (x &&& w) x, ← BitVec.and_assoc, BitVec.and_self, BitVec.and_assoc, BitVec.and_not_self]
    exact BitVec.and_zero
  have hjoined : (x &&& w) ||| (x &&& ~~~w) = x := by rw [← BitVec.and_or_distrib_left, BitVec.or_not_self, BitVec.and_allOnes]
  have h := BitVec.toNat_add_of_and_eq_zero hdisjoint
  rw [BitVec.add_eq_or_of_and_eq_zero _ _ hdisjoint, hjoined, BitVec.toNat_and] at h
  omega

theorem bitsOf_ofNat (v : Nat) : bitsOf v 31 0 = (BitVec.ofNat 32 v).toNat := by
  unfold bitsOf
  simp

section
variable {fn p v : Nat} {s : State} (hp : p % 0x1000 = 0)
include hp

theorem exec_pgLockSet (h : reaches fn (p + 0x28) s) : ∃ t, exec (.pgLockSet fn p v) s = .next t
    ∧ flag p PG_LOCK_LOCKED t = (flag p PG_LOCK_LOCKED s || bitOf v 0) ∧ (∀ b, canon b ≠ canon (p + 0x28) → rdW b t = rdW b s)
    ∧ t = { s with regs := t.regs } := by
  obtain ⟨hf, hothers, hrest⟩ := writeReg_header (v := v) hp (by decide) h rfl (Bool.and_false _) rfl
  refine ⟨writeReg (p + 0x28) v s, ?_, ?_, hothers, hrest⟩
  · show Host.Outcome.next (barWrite fn (pageBase p + 0x28) _ s) = _
    rw [pageBase_of hp, header_goes h]
  · unfold flag getF
    rw [hf _ List.mem_cons_self]
    exact oneBit_or _ _

theorem exec_pgEvtClear (h : reaches fn (p + 0x10) s) : ∃ t, exec (.pgEvtClear fn p v) s = .next t
    ∧ rdW (p + 0x10) t = rdW (p + 0x10) s &&& ~~~(BitVec.ofNat 32 v)
    ∧ (∀ b, canon b ≠ canon (p + 0x10) → rdW b t = rdW b s)
    ∧ t = { s with regs := t.regs, held := if evtLive p t = 0 then alErase s.held p else s.held } := by
  obtain ⟨hf, hothers, hrest⟩ := writeReg_header (v := v) hp (by decide) h rfl (Bool.and_false _) rfl
  have hx : exec (.pgEvtClear fn p v) s = .next (dropHeldIfClear p (writeReg (p + 0x10) v s)) := by
    show Host.Outcome.next (barWrite fn (pageBase p + 0x10) _ s) = _
    rw [pageBase_of hp, header_goes h]
  generalize writeReg (p + 0x10) v s = u at hf hothers hrest hx
  have hregs : (dropHeldIfClear p u).regs = u.regs := by unfold dropHeldIfClear; split <;> rfl
  refine ⟨_, hx, ?value, fun b hb => (rdW_regs hregs b).trans (hothers b hb), ?rest⟩
  case value =>
    have hw := hf _ List.mem_cons_self
    rw [rdW_regs hregs]
    apply BitVec.eq_of_toNat_eq
    rw [← toNat_sub_and, ← bitsOf_whole, hw]
    simp only [fieldAfter]
    rw [bitsOf_whole, bitsOf_ofNat]
  case rest =>
    have hlive : evtLive p (dropHeldIfClear p u) = evtLive p u := by unfold evtLive; rw [rdW_regs hregs, rdW_regs hregs]
    rw [hlive, hregs]
    unfold dropHeldIfClear
    split <;> rw [hrest]

theorem exec_pgEvtEnWrite (h : reaches fn (p + 0x14) s) : ∃ t, exec (.pgEvtEnWrite fn p v) s = .next t
    ∧ rdW (p + 0x14) t = BitVec.ofNat 32 v
    ∧ (∀ b, canon b ≠ canon (p + 0x14) → canon b ≠ 0x10098 → canon b ≠ 0x1009C → rdW b t = rdW b s)
    ∧ t = { s with regs := t.regs, mgs := t.mgs, held := t.held, msix := t.msix, out := t.out } := by
  obtain ⟨hf, hothers, hrest⟩ := writeReg_header (v := v) hp (by decide) h rfl (Bool.and_false _) rfl
  have hx : exec (.pgEvtEnWrite fn p v) s = .next (if evtLive p s = 0 ∧ evtLive p (writeReg (p + 0x14) v s) ≠ 0
      then deliver p (writeReg (p + 0x14) v s) else dropHeldIfClear p (writeReg (p + 0x14) v s)) := by
    show Host.Outcome.next (barWrite fn (pageBase p + 0x14) _ s) = _
    rw [pageBase_of hp, header_goes h]
  generalize writeReg (p + 0x14) v s = u at hf hothers hrest hx
  have hu : EventsOnly s u := ⟨by rw [hrest], by rw [hrest]; exact .refl _⟩
  have hvalue : rdW (p + 0x14) u = BitVec.ofNat 32 v := by
    apply BitVec.eq_of_toNat_eq
    rw [← bitsOf_whole, hf _ List.mem_cons_self]
    exact bitsOf_ofNat v
  have h98 := tally_ne (o := 0x14) hp (by decide) 0x10098 (by decide)
  have h9C := tally_ne (o := 0x14) hp (by decide) 0x1009C (by decide)
  split at hx
  · exact ⟨_, hx, (rdW_deliver _ _ h98 h9C).trans hvalue, fun b hb h1 h2 => (rdW_deliver _ _ h1 h2).trans (hothers b hb),
      (hu.trans (deliver_only _ _)).rest⟩
  · have hregs : (dropHeldIfClear p u).regs = u.regs := by unfold dropHeldIfClear; split <;> rfl
    refine ⟨_, hx, (rdW_regs hregs _).trans hvalue, fun b hb _ _ => (rdW_regs hregs b).trans (hothers b hb), ?_⟩
    rw [hregs]
    unfold dropHeldIfClear
    split <;> rw [hu.rest]

theorem exec_pgEvtRouteWrite_bad (h : reaches fn (p + 0x18) s) (hb : badRoute p v s = true) :
    exec (.pgEvtRouteWrite fn p v) s = .next (raise p 2 s) := by
  show Host.Outcome.next (barWrite fn (pageBase p + 0x18) _ s) = _
  rw [pageBase_of hp, header_goes h, if_pos hb]

theorem exec_pgEvtRouteWrite_good (h : reaches fn (p + 0x18) s) (hb : badRoute p v s = false) (hl : flag p PG_LOCK_LOCKED s = false) :
    ∃ t, exec (.pgEvtRouteWrite fn p v) s = .next t
      ∧ getF p PG_EVT_ROUTE_TARGET t = v % 4 ∧ getF p PG_EVT_ROUTE_INDEX t = bitsOf v 14 4 ∧ getF p PG_EVT_ROUTE_CHANNEL t = bitsOf v 20 16
      ∧ (∀ b, canon b ≠ canon (p + 0x18) → rdW b t = rdW b s) ∧ t = { s with regs := t.regs, held := alErase s.held p } := by
  obtain ⟨hf, hothers, hrest⟩ := writeReg_header (v := v) hp (by decide) h rfl (by rw [hl]; rfl) rfl
  have hx : exec (.pgEvtRouteWrite fn p v) s = .next { writeReg (p + 0x18) v s with held := alErase s.held p } := by
    show Host.Outcome.next (barWrite fn (pageBase p + 0x18) _ s) = _
    rw [pageBase_of hp, header_goes h, if_neg (by rw [hb]; exact Bool.false_ne_true), if_neg (by rw [hl]; exact Bool.false_ne_true)]
  generalize writeReg (p + 0x18) v s = u at hf hothers hrest hx
  simp only [List.forall_mem_cons, hl, fieldAfter, Bool.or_false, Bool.false_and, Bool.false_eq_true, if_false] at hf
  obtain ⟨hchannel, hindex, htarget, -⟩ := hf
  exact ⟨_, hx, htarget.trans (by unfold bitsOf; simp), hindex, hchannel, hothers, by rw [hrest]⟩

theorem exec_pgErrFirstClear (h : reaches fn (p + 0x20) s) :
    exec (.pgErrFirstClear fn p v) s = .next (if bitOf v 31 then clearFirst p s else s) := by
  show Host.Outcome.next (barWrite fn (pageBase p + 0x20) _ s) = _
  rw [pageBase_of hp, header_goes h]

theorem exec_pgErrCntClr (h : reaches fn (p + 0x1C) s) : ∃ t, exec (.pgErrCntClr fn p v) s = .next t
    ∧ getF p PG_ERR_CNT_THRESH t = bitsOf v 27 24 ∧ getF p PG_ERR_CNT_COUNT t = (if bitOf v 31 then 0 else getF p PG_ERR_CNT_COUNT s)
    ∧ (∀ b, canon b ≠ canon (p + 0x1C) → rdW b t = rdW b s) ∧ t = { s with regs := t.regs } := by
  obtain ⟨hf, hothers, hrest⟩ := writeReg_header (v := v) hp (by decide) h rfl (Bool.and_false _) rfl
  have hx : exec (.pgErrCntClr fn p v) s = .next (if bitOf v 31 then setF p PG_ERR_CNT_COUNT 0 (writeReg (p + 0x1C) v s)
      else writeReg (p + 0x1C) v s) := by
    show Host.Outcome.next (barWrite fn (pageBase p + 0x1C) _ s) = _
    rw [pageBase_of hp, header_goes h]
  generalize writeReg (p + 0x1C) v s = u at hf hothers hrest hx
  simp only [List.forall_mem_cons, fieldAfter, Bool.false_and, Bool.false_eq_true, if_false] at hf
  obtain ⟨-, hthresh, hcount, -⟩ := hf
  refine ⟨_, hx, ?thresh, ?count, fun b hb => ?others, ?rest⟩
  case thresh =>
    split
    · exact (getF_setF_beside (f := PG_ERR_CNT_THRESH) (g := PG_ERR_CNT_COUNT) _ _ rfl (by decide) (by decide) (.inl (by decide))).trans hthresh
    · exact hthresh
  case count =>
    split
    · exact (getF_setF_same _ _ (by decide) (by decide)).trans (Nat.zero_mod _)
    · exact hcount
  case others =>
    split
    · exact (rdW_setF_ne _ _ hb).trans (hothers b hb)
    · exact hothers b hb
  case rest =>
    split
    · rw [hrest]; rfl
    · exact hrest

theorem exec_pgOwnerWrite (h : reaches fn (p + 0x2C) s) : exec (.pgOwnerWrite fn p) s = .next (raise p 3 s) := by
  show Host.Outcome.next (barWrite fn (pageBase p + 0x2C) _ s) = _
  rw [pageBase_of hp, header_goes h]

end

/-- Settles O19: one lemma for each header register. -/
theorem headerRegistersAct : Obligations.HeaderRegistersAct :=
  fun _ _ _ _ hp => ⟨exec_pgLockSet hp, exec_pgEvtClear hp, exec_pgEvtEnWrite hp, exec_pgEvtRouteWrite_bad hp, exec_pgEvtRouteWrite_good hp,
    exec_pgErrFirstClear hp, exec_pgErrCntClr hp, exec_pgOwnerWrite hp⟩

/-! ### Held notifications and timeouts -/

/-- Settles O20: the rod takes the note and its channel has credit, so neither reason to wait holds. -/
theorem heldNotesAndTimeouts : Obligations.HeldNotesAndTimeouts := by
  unfold Obligations.HeldNotesAndTimeouts
  refine ⟨fun p b s hp hheld htakes hfree => ?_, fun _ _ _ _ => rfl, fun _ _ _ => rfl⟩
  show execNotifyRodHeldSend p s = _
  unfold execNotifyRodHeldSend
  rw [pageBase_of hp]
  dsimp only
  rw [if_neg]
  rintro (h | h | h)
  · rw [hheld] at h; cases h
  · exact h htakes
  · omega

/-! ### The block right after reset -/

/-- A register right after reset reads as its cold value. -/
theorem rdW_reset (a : Nat) : rdW a State.reset = coldVal (canon a) := rfl

/-- The pages beside the package's and the mailboxes lie above them. -/
theorem kindBase_high {k : Kind} (hg : k ≠ .glb) (hm : k ≠ .mgs) (i : Nat) : 0x90000 ≤ kindBase k i := by
  unfold kindBase
  cases k
  case glb => exact absurd rfl hg
  case mgs => exact absurd rfl hm
  all_goals dsimp only [thmP, islP, brgP, rlpP, rtrP, e2eP, vpxP, venP, tnzP, hifP, hqP, kvmP, herdP, seqP, oxaP, goatP, vecP, strmP, spadP, beadP,
    xlatP, msgP, kvP, senseP, dbgP, rodP]; omega

/-- A register beside the common header, above the mailbox pages, right after reset. -/
theorem rdW_reset_spec {k : Kind} {i o : Nat} {r : RSpec} (hg : k ≠ .glb) (hm : k ≠ .mgs) (hi : i < kindCount k) (h : 0x30 ≤ o) (ho : o < 0x1000)
    (hr : specAt (specsOf k i) o = some r) : rdW (kindBase k i + o) State.reset = BitVec.ofNat 32 (coldOf r.fields) := by
  have hmod : (kindBase k i + o) % 0x1000 = o := by
    have := (pageOf_spec (pageOf_kindBase hi ho)).1
    omega
  have hb := kindBase_high hg hm i
  rw [rdW_reset, canon_high (by omega)]
  unfold coldVal
  rw [hmod, if_neg (by omega), if_neg (by omega), if_neg (by omega)]
  unfold coldReg
  rw [pageOf_kindBase hi ho]
  dsimp only
  rw [hmod, if_neg (by omega), if_neg (by omega), if_neg (by omega), regSpec_kindBase hi h ho, hr]

/-- A rod's SEQ is OFF right after reset. -/
theorem seqLife_reset {i : Nat} (hi : i < 1024) : lifeAt (statOf (seqP i)) State.reset = 0 := by
  have hv : rdW (seqP i + 0xC) State.reset = 0 := by
    have hp := seqP_high i
    have hm := seqP_mod i
    rw [rdW_reset, canon_high (by omega)]
    unfold coldVal
    rw [if_pos (by omega), show pageOf (seqP i + 0xC) = some (.seq, i) from pageOf_kindBase (k := .seq) hi (by decide)]
  unfold lifeAt getF
  rw [show statOf (seqP i) + LIFE_STATE.off = seqP i + 0xC from rfl, hv]
  rfl

/-- A field of such a register. -/
theorem getF_reset {k : Kind} {i : Nat} {f : Field} {r : RSpec} (hg : k ≠ .glb) (hm : k ≠ .mgs) (hi : i < kindCount k) (h : 0x30 ≤ f.off)
    (ho : f.off < 0x1000) (hr : specAt (specsOf k i) f.off = some r) :
    getF (kindBase k i) f State.reset = bitsOf (BitVec.ofNat 32 (coldOf r.fields)).toNat f.hi f.lo := by
  unfold getF
  rw [rdW_reset_spec hg hm hi h ho hr]

theorem reqcap_reset {i : Nat} (hi : i < 1024) : getF (strmP i) STRM_CTL_REQCAP State.reset = 64 :=
  (getF_reset (k := .strm) (f := STRM_CTL_REQCAP) (by decide) (by decide) hi (by decide) (by decide) rfl).trans (by decide)

theorem target_reset {j : Nat} (hj : j < 64) : getF (islP j) ISL_VSTAT_TARGET State.reset = 0 :=
  (getF_reset (k := .isl) (f := ISL_VSTAT_TARGET) (by decide) (by decide) hj (by decide) (by decide) rfl).trans (by decide)

theorem floor_reset {n : Nat} (hn : n < 128) : getF (herdP n) (HERD_SHARE_FLOOR 0) State.reset = 16 :=
  (getF_reset (k := .herd) (f := HERD_SHARE_FLOOR 0) (by decide) (by decide) hn (by decide) (by decide) rfl).trans (by decide)

/-- Settles O60: the stores are empty, and each register named holds the cold value of its table. -/
theorem resetLeavesTheBlockCold : Obligations.ResetLeavesTheBlockCold := by
  unfold Obligations.ResetLeavesTheBlockCold
  exact ⟨by decide, rfl, rfl, rfl, by decide, rdW_reset, by decide, fun i hi => ⟨seqLife_reset hi, reqcap_reset hi⟩, fun _ => target_reset, fun _ => floor_reset⟩

end Sys2Proof.Machine
end

section
/-! PROOFS. Resets, the board and the stages of bring-up (chapters 19 and 21): each row answers the named operation of its stage once its condition holds. -/
-- One theorem after another: elaborated side by side, each holds its memory while it waits for those before it.
set_option Elab.async false

namespace Sys2Proof.Machine

/-! ### Resets and the board -/

/-- A host or pin row whose condition does not hold back does its work. -/
theorem rail_mod {k : Nat} (h : k < 8) : k % 8 = k := Nat.mod_eq_of_lt h

theorem exec_perstNAssert {s : State} (hc : s.boot.cold = false) (hp : s.boot.perst = false) :
    exec .perstNAssert s = .next (warmReset (setBoot { s.boot with perst := true } s)) := by
  show execPerstNAssert s = _
  unfold execPerstNAssert
  rw [hc, hp]; rfl

theorem exec_hotReset {s : State} (hc : s.boot.cold = false) (hp : s.boot.perst = false) :
    exec .hotReset s = .next (setBoot { (warmReset s).boot with perstAt := (warmReset s).now } (warmReset s)) := by
  show execHotReset s = _
  unfold execHotReset
  rw [hc, hp]; rfl

theorem exec_railOvervoltage {k mv : Nat} {s : State} (hk : k < 8) (h : 100 * mv > 110 * railNominal k) :
    exec (.railOvervoltage k mv) s = .next (railCold k s) := by
  show execRailOvervoltage k mv s = _
  unfold execRailOvervoltage
  rw [rail_mod hk]
  exact if_pos h

theorem exec_flr {fn : Nat} {s : State} (h0 : 0 < fn) (h : fn < 128) (hv : fn ≤ numVfs s) : exec (.flr fn) s = .next (flrOne fn s) := by
  show execFlr fn s = _
  unfold execFlr
  rw [if_neg (by omega), if_neg (by omega)]

/-- Settles O1: each row is the named operation once its guards hold. -/
theorem resetsBegin : Obligations.ResetsBegin := by
  unfold Obligations.ResetsBegin
  refine ⟨fun _ => exec_perstNAssert, fun s h => ?_, fun _ => exec_hotReset, fun s h => ?_, fun k s h => ?_, fun _ _ _ => exec_railOvervoltage,
    fun _ _ => exec_flr, fun s => ?_, fun s h => ?_⟩
  · exact congrArg Host.Outcome.next (if_pos h)
  · exact congrArg Host.Outcome.next (if_neg (by rw [h]; exact Bool.false_ne_true))
  · show Host.Outcome.next (railCold (k % 8) s) = _
    rw [rail_mod h]
  · show execFlr 0 s = _
    unfold execFlr
    rw [if_neg (by omega), if_pos rfl]
  · exact congrArg Host.Outcome.next (if_pos h)

/-- The distance of a rail from its nominal voltage, as RAIL_OOT takes it. -/
theorem railDist (mv n : Nat) : (if mv < n then n - mv else mv - n) = mvDist mv n := by
  unfold mvDist
  split <;> omega

theorem exec_railOot_out {k mv : Nat} {s : State} (hk : k < 8) (h : 100 * mvDist mv (railNominal k) > railTol k * railNominal k)
    (hwas : s.boot.railNow.contains k = false) (hc : s.boot.cold = false) :
    exec (.railOot k mv) s = .next (raise glbP 22 (setF glbP ⟨0x0CC, k, k⟩ 1 (setBoot { s.boot with railNow := nsInsert s.boot.railNow k } s))) := by
  show execRailOot k mv s = _
  unfold execRailOot
  dsimp only
  rw [rail_mod hk, railDist, decide_eq_true h, hwas, hc]; rfl

theorem exec_railOot_in {k mv : Nat} {s : State} (hk : k < 8) (h : 100 * mvDist mv (railNominal k) ≤ railTol k * railNominal k) :
    exec (.railOot k mv) s = .next (setBoot { s.boot with railNow := nsErase s.boot.railNow k } s) := by
  show execRailOot k mv s = _
  unfold execRailOot
  dsimp only
  rw [rail_mod hk, railDist, decide_eq_false (by omega)]; rfl

theorem exec_pwrWarnFall {s : State} (hw : s.boot.pwrWarn = false) (hc : s.boot.cold = false) (ht : s.thm.shut ≠ 1) :
    exec .pwrWarnFall s = .next (pwrWarnLog (setMgs { s.mgs with noFlash := true } (setBoot { s.boot with pwrWarn := true } s))) := by
  show execPwrWarnFall s = _
  unfold execPwrWarnFall
  rw [hw, hc, if_neg Bool.false_ne_true]
  dsimp only
  rw [if_neg Bool.false_ne_true, if_neg ht]

/-- Settles O2: the guards of each row leave its one work. -/
theorem theBoardIsWatched : Obligations.TheBoardIsWatched := by
  unfold Obligations.TheBoardIsWatched
  refine ⟨fun _ _ _ => exec_railOot_out, fun _ _ _ => exec_railOot_in, fun c s h => ?_, fun _ => exec_pwrWarnFall, fun s => ⟨_, rfl, rfl, rfl, rfl⟩⟩
  show Host.Outcome.next ((List.range 8).foldl (fun t p => rlLoseLock (8 * (c % 2) + p) t) s) = _
  rw [Nat.mod_eq_of_lt h]

/-! ### The end of a cold reset -/

/-- A register beside the shared ones of the mailbox pages is not another one. -/
theorem rdW_setF_glb {a v : Nat} {f : Field} {s : State} (hf : f.off < 0x1000) (hm : f.off < 0x88 ∨ 0xA0 ≤ f.off) (h : a ≠ glbP + f.off) :
    rdW a (setF glbP f v s) = rdW a s := by
  refine rdW_setF_ne _ _ ?_
  intro he
  have hg : glbP + f.off = f.off := Nat.zero_add _
  rw [hg] at h he
  rw [canon_of_offset (a := f.off) (by omega)] at he
  unfold canon at he
  split at he <;> omega

/-- The straps as they are sampled: their three fields, nothing else. -/
def strapped (i2ca : Nat) (recov test : Bool) (s : State) : State :=
  setF glbP GLB_STRAP_I2CA (i2ca % 4) (setF glbP GLB_STRAP_RECOV (b2n recov) (setF glbP GLB_STRAP_TEST (b2n test) s))

theorem b2n_mod (b : Bool) : b2n b % 2 = b2n b := by cases b <;> rfl

theorem strapped_i2ca (n : Nat) (r t : Bool) (s : State) : getF glbP GLB_STRAP_I2CA (strapped n r t s) = n % 4 :=
  (getF_setF_same _ _ (by decide) (by decide)).trans (Nat.mod_mod _ _)

theorem strapped_recov (n : Nat) (r t : Bool) (s : State) : getF glbP GLB_STRAP_RECOV (strapped n r t s) = b2n r := by
  unfold strapped
  rw [getF_setF_beside (f := GLB_STRAP_RECOV) (g := GLB_STRAP_I2CA) _ _ rfl (by decide) (by decide) (.inl (by decide)), getF_setF_same _ _ (by decide) (by decide)]
  exact b2n_mod r

theorem strapped_test (n : Nat) (r t : Bool) (s : State) : getF glbP GLB_STRAP_TEST (strapped n r t s) = b2n t := by
  unfold strapped
  rw [getF_setF_beside (f := GLB_STRAP_TEST) (g := GLB_STRAP_I2CA) _ _ rfl (by decide) (by decide) (.inl (by decide)),
    getF_setF_beside (f := GLB_STRAP_TEST) (g := GLB_STRAP_RECOV) _ _ rfl (by decide) (by decide) (.inl (by decide)), getF_setF_same _ _ (by decide) (by decide)]
  exact b2n_mod t

theorem strapped_ne {a : Nat} (n : Nat) (r t : Bool) (s : State) (h : a ≠ glbP + GLB_STRAP_TEST.off) : rdW a (strapped n r t s) = rdW a s := by
  unfold strapped
  rw [rdW_setF_glb (f := GLB_STRAP_I2CA) (by decide) (by decide) h, rdW_setF_glb (f := GLB_STRAP_RECOV) (by decide) (by decide) h,
    rdW_setF_glb (f := GLB_STRAP_TEST) (by decide) (by decide) h]

/-- The record of the rail whose loss was the cause. -/
def lossShown (l : Option Nat) (s : State) : State :=
  match l with
  | some k => setF glbP GLB_PWR_LOSS_V 1 (setF glbP GLB_PWR_LAST_LOSS k s)
  | none => s

theorem lossShown_some (k : Nat) (s : State) :
    getF glbP GLB_PWR_LOSS_V (lossShown (some k) s) = 1 ∧ getF glbP GLB_PWR_LAST_LOSS (lossShown (some k) s) = k % 8 := by
  unfold lossShown
  constructor
  · exact getF_setF_same _ _ (by decide) (by decide)
  · rw [getF_setF_beside (f := GLB_PWR_LAST_LOSS) (g := GLB_PWR_LOSS_V) _ _ rfl (by decide) (by decide) (.inr (by decide))]
    exact getF_setF_same _ _ (by decide) (by decide)

theorem lossShown_ne {a : Nat} (l : Option Nat) (s : State) (h : a ≠ glbP + GLB_PWR_LAST_LOSS.off) : rdW a (lossShown l s) = rdW a s := by
  cases l with
  | none => rfl
  | some k => exact (rdW_setF_glb (f := GLB_PWR_LOSS_V) (by decide) (by decide) h).trans (rdW_setF_glb (f := GLB_PWR_LAST_LOSS) (by decide) (by decide) h)

theorem setF_regsOnly (p : Nat) (f : Field) (v : Nat) (s : State) : setF p f v s = { s with regs := (setF p f v s).regs } := rfl

theorem regsOnly_trans {s t u : State} (h : t = { s with regs := t.regs }) (h' : u = { t with regs := u.regs }) : u = { s with regs := u.regs } :=
  h'.trans (by rw [h])

theorem lossShown_regs (l : Option Nat) (s : State) : lossShown l s = { s with regs := (lossShown l s).regs } := by
  cases l with
  | none => rfl
  | some k => exact regsOnly_trans (setF_regsOnly ..) (setF_regsOnly ..)

theorem strapped_regs (n : Nat) (r t : Bool) (s : State) : strapped n r t s = { s with regs := (strapped n r t s).regs } :=
  regsOnly_trans (regsOnly_trans (setF_regsOnly ..) (setF_regsOnly ..)) (setF_regsOnly ..)

/-- Settles O3: the straps' register and the loss record's are the two that are written. -/
theorem coldResetEndSamplesTheStraps : Obligations.ColdResetEndSamplesTheStraps := by
  unfold Obligations.ColdResetEndSamplesTheStraps
  intro i2ca recov test s hc
  obtain ⟨u, hu⟩ : ∃ u, u = setBoot { s.boot with
      cold := false, railsBad := [], railNow := s.boot.railNow.filter (fun k => !s.boot.railsBad.contains k),
      passAt := s.now + 100000, stageAt := s.now + 100000 } { s with now := s.now + 100000 } := ⟨_, rfl⟩
  have hx : exec (.coldResetEnd i2ca recov test) s = .next (lossShown s.boot.loss (strapped i2ca recov test u)) := by
    show execColdResetEnd i2ca recov test s = _
    unfold execColdResetEnd
    rw [hc, Bool.not_true, if_neg Bool.false_ne_true, hu]
    unfold waitTill
    rw [Nat.max_eq_right (by omega)]
    rfl
  have hregs : u.regs = s.regs := by rw [hu]; rfl
  have field {f : Field} (hf : glbP + f.off ≠ glbP + GLB_PWR_LAST_LOSS.off) :
      getF glbP f (lossShown s.boot.loss (strapped i2ca recov test u)) = getF glbP f (strapped i2ca recov test u) :=
    getF_of_rdW (lossShown_ne _ _ hf)
  have hboot : (lossShown s.boot.loss (strapped i2ca recov test u)).boot = u.boot := by rw [lossShown_regs]; rfl
  refine ⟨_, hx, ?_, ?_, (field (by decide)).trans (strapped_i2ca ..), (field (by decide)).trans (strapped_recov ..),
    (field (by decide)).trans (strapped_test ..), fun k hk => ?_, fun a h1 h2 => ?_, ?_, ?_, ?_⟩
  · rw [hboot, hu]; rfl
  · rw [hboot, hu]; rfl
  · rw [hk]; exact lossShown_some k _
  · exact (lossShown_ne _ _ h2).trans ((strapped_ne _ _ _ _ h1).trans (rdW_regs hregs a))
  · rw [hboot, hu]; rfl
  · rw [hboot, hu]; rfl
  · rw [hboot, lossShown_regs, hu]; rfl

/-! ### The stages of bring-up -/

/-- The end of a stage moves STAGE on by one. -/
theorem stage_stageEnd {k : Nat} (h : k ≤ 20) (u : State) : stage (stageEnd k u) = k + 1 := by
  unfold stage stageEnd
  rw [getF_setF_same _ _ (by decide) (by decide)]
  show min (k + 1) 0x15 % 32 = k + 1
  omega

/-- Bring-up is at one stage at a time. -/
theorem atStage_unique {j k : Nat} {s : State} (h : atStage k s = true) (hne : k ≠ j) : atStage j s = false := by
  unfold atStage at *
  simp only [Bool.and_eq_true, beq_iff_eq] at h
  obtain ⟨⟨-, hk⟩, -⟩ := h
  rw [hk, beq_eq_false_iff_ne.mpr hne, Bool.and_false, Bool.false_and]

theorem exec_stageJudge {s : State} (h : atStage 20 s = true) : exec .stageJudge s = .next (stageEnd 20 (judge s)) := by
  show execStageJudge s = _
  unfold execStageJudge
  rw [atStage_unique h (by decide)]
  dsimp only
  rw [Bool.false_and, Bool.not_false, if_pos rfl, if_pos h]

theorem exec_stageRom {s : State} (h : atStage 1 s = true) : exec (.stageRom true) s = .next (stageEnd 1 s) := by
  show execStageRom true s = _
  unfold execStageRom
  rw [h]; rfl

/-- Settles O4: each row of the list does its work at its stage. -/
theorem stageCommandsEndTheirStage : Obligations.StageCommandsEndTheirStage := by
  unfold Obligations.StageCommandsEndTheirStage
  intro bad holds march s c k u hmem hstage
  have ends {k : Nat} {x y : State} (h : atStage k s = true) : Host.Outcome.next (if atStage k s then x else y) = (.next x : Res) :=
    congrArg Host.Outcome.next (if_pos h)
  simp only [List.mem_cons, Prod.mk.injEq, List.not_mem_nil, or_false] at hmem
  rcases hmem with h | h | h | h | h | h | h | h | h | h <;> obtain ⟨rfl, rfl, hu⟩ := h <;> refine ⟨?_, stage_stageEnd (by decide) u⟩ <;> rw [hu]
  case inr.inl => exact exec_stageRom hstage
  case inr.inr.inr.inr.inr.inr.inr.inr.inr => exact exec_stageJudge hstage
  all_goals exact ends hstage

/-- A row of a stage that is not skipped does its work. -/
theorem stage_goes {α : Sort _} {k : Nat} {s : State} {x y : α} (h : atStage k s = true) : (if !atStage k s then x else y) = y := by
  rw [h]; rfl

theorem exec_stageImage {sigA sigB : Bool} {s u : State} {k : Nat} (h : atStage 2 s = true)
    (hb : bootSelect sigA sigB (flag glbP GLB_STRAP_RECOV s) s = (some k, u)) :
    exec (.stageImage sigA sigB) s = .next (stageEnd 2
      (showImage k (u.mgs.trial == some k && u.mgs.trialRun) (setMgs { u.mgs with startAt := u.now } u))) := by
  show execStageImage sigA sigB s = _
  unfold execStageImage
  rw [stage_goes h, hb]; rfl

theorem exec_stageSense {rs : List (Nat × Option Nat)} {ok : Bool} {s : State} (h : atStage 4 s = true) (hs : shutdownOn (sensorRefresh rs ok s) = false)
    (hc : coolEnough (sensorRefresh rs ok s) = true) : exec (.stageSense rs ok) s = .next (stageEnd 4 (sensorRefresh rs ok s)) := by
  show execStageSense rs ok s = _
  unfold execStageSense
  rw [stage_goes h]
  dsimp only
  rw [hs, hc]; rfl

theorem exec_stageRl {s : State} (h : atStage 19 s = true) : exec .stageRl s = .next (if fabricOn s then rlEnd ((List.range 16).foldl rlBring s)
    else stageEnd 19 (setBoot { s.boot with warmPorts := [] } s)) := by
  show execStageRl s = _
  unfold execStageRl
  rw [stage_goes h]
  cases fabricOn s <;> rfl

/-- Settles O5: a stage in progress does its work, by what it finds. -/
theorem stagesGoOnByTheirOutcome : Obligations.StagesGoOnByTheirOutcome := by
  unfold Obligations.StagesGoOnByTheirOutcome
  exact ⟨fun _ _ _ _ _ => exec_stageImage, fun _ _ _ => exec_stageSense, fun _ h => congrArg Host.Outcome.next (if_pos h), fun _ _ h => stage_goes h,
    fun _ h => congrArg Host.Outcome.next (if_pos h), fun _ => exec_stageRl⟩

theorem exec_stageMgs {s : State} (h : atStage 3 s = true) :
    let m := setMgs { s.mgs with boot := s.mgs.boot + 1, seq := seqHigh s } s
    let s1 := setF (mgsP 0) MB_LOGSTAT_SPARES (64 - m.mgs.spareNext) (wr64 (mgsP 0 + 0x98) m.mgs.seq m)
    shutRecord s1 ≠ some 0 →
    let slot := getF (mgsP 0) MB_INFO_SLOT s
    let s3 := mgsRuns (some slot) (copyBack s1)
    let h := (slotOf slot s3).hdr
    exec (.stageMgs true) s = .next (stageEnd 3 (loadConfig (noteTrip (shutRecord s1) (noteLoss (tally 11 1 0 0xFFFFFFFF 0
      ((h.drop 8).take 4 ++ leBytes 1 slot ++ leBytes 1 (b2n (flag (mgsP 0) MB_INFO_TRIAL s3)) ++ leBytes 1 (hdrNum h 12 1)) s3))))) := by
  intro m s1 hrec
  show execStageMgs true s = _
  unfold execStageMgs
  rw [stage_goes h]
  dsimp only
  rw [if_pos rfl, if_neg hrec]

/-- What STAGE_LICENCE does with the stored record, once it has judged it. -/
def licenceJudged (good : Bool) (s : State) : State :=
  let s1 := setBoot { s.boot with licBad := !good } s
  if good then tallyLic 3 1 s1.mgs.licence (applyLic s1.mgs.licence s1) else recordCE (mgsP 0) 0x0209 0 0 (applyLic none s1)

theorem licenceJudged_good {l : Lic} {s : State} (h : s.mgs.licence = some l) :
    licenceJudged true s = tallyLic 3 1 (some l) (applyLic (some l) (setBoot { s.boot with licBad := false } s)) := by
  have h1 : (setBoot { s.boot with licBad := !true } s).mgs.licence = some l := h
  unfold licenceJudged
  rw [if_pos rfl, h1]
  rfl

theorem exec_stageLicence {l : Lic} {s : State} (h : atStage 17 s = true) (hl : s.mgs.licence = some l) (hs : l.serial = Config.serial.toNat) :
    exec (.stageLicence true) s = .next (stageEnd 17 (tallyLic 3 1 (some l) (applyLic (some l)
      (setBoot { s.boot with licBad := false } (setMgs { s.mgs with licStage := true } s))))) := by
  have hx : exec (.stageLicence true) s = .next (stageEnd 17 (licenceJudged
      (match s.mgs.licence with | some l => true && decide (l.serial = Config.serial.toNat) | none => true)
      (setMgs { s.mgs with licStage := true } s))) := stage_goes h
  rw [hx, hl]
  dsimp only
  rw [decide_eq_true hs, Bool.and_self, licenceJudged_good (l := l)]
  · rfl
  · exact hl

theorem exec_stageLinks {lanes : List (Nat × Nat × Nat)} {s : State} (h : atStage 6 s = true) :
    let s1 := (List.range 32).foldl (trainedLink lanes) (setBoot { s.boot with trained := [] } s)
    let s2 := ((List.range 8).filter (fun b => (List.range 4).all (fun k => !s1.boot.trained.contains (4 * b + k)))).foldl
      (fun t b => checkBridge b t) s1
    exec (.stageLinks lanes) s = .next (if (List.range 4).any (fun f => isolated f s2) then bringStop 4 s2 else stageEnd 6 s2) := by
  intro s1 s2
  show execStageLinks lanes s = _
  unfold execStageLinks
  rw [stage_goes h, apply_ite Host.Outcome.next]

theorem exec_stageGrid {checker chans : List Nat} {holds : List (Nat × Nat)} {spads : List Nat} {march : List (Nat × Nat)} {s : State}
    (h : atStage 16 s = true) (hc : s.boot.coldPass = true) :
    let s2 := showRelay (checkBridges (((List.range 32).filter (fun n => brgReady n s)).foldl (fun t n => brgEnter n t) s))
    let s3 := setBoot { s2.boot with warmLinks := [] } s2
    exec (.stageGrid checker chans holds spads march) s = .next (if outcome s3 = 0 then stageEnd 16 s3 else s3) := by
  intro s2 s3
  have hw : gridWaits s = false := by unfold gridWaits; rw [hc]; rfl
  show execStageGrid checker chans holds spads march s = _
  unfold execStageGrid
  rw [h, hw, hc]; rfl

/-- Settles O6: the stage in progress, and the choice its outcome makes. -/
theorem mgsLicenceAndLinksComeUp : Obligations.MgsLicenceAndLinksComeUp := by
  unfold Obligations.MgsLicenceAndLinksComeUp
  refine ⟨fun _ => exec_stageMgs, ?_, fun _ _ => exec_stageLinks, fun _ _ _ _ _ _ => exec_stageGrid, fun _ _ => stage_goes⟩
  rintro sig l s h hl rfl hs
  exact exec_stageLicence h hl hs

/-! ### Service, overruns and a restarted MGS -/

theorem exec_stageService {s : State} (h : atStage 21 s = true) :
    let s1 := stageEnd 21 s
    let s2 := setF glbP GLB_BRINGUP_MS ((s1.now - s1.boot.passAt) / 1000000) s1
    let s3 := setOutcome (verdict s2) s2
    let low (t : State) (j : Nat) : State :=
      if (islT j t).lowFrom.isNone && getF (islP j) ISL_POWER_CONF t == 0 then setIslT j { islT j t with lowFrom := some t.now } t else t
    exec .stageService s = .next (if verdict s2 = 3 then s3
      else lifeEval 1 (statOf (kvmP 0)) 0xF1 0 { (List.range 64).foldl low s3 with gate := true }) := by
  intro s1 s2 s3 low
  show execStageService s = _
  unfold execStageService
  rw [stage_goes h, apply_ite Host.Outcome.next]

theorem exec_stageOverrun {s : State} {b : Nat} (hb : stageBound s = some b) (ho : outcome s = 0) (hc : s.boot.cold = false)
    (ht : flag glbP GLB_STRAP_TEST s = false) :
    let s1 := tally 2 1 (0x100 + stage s) 0xFFFFFFFF 0 [] { s with now := max s.now (s.boot.stageAt + 2 * b + 1) }
    exec .stageOverrun s = .next (if stage s = 5 then islandsGo ((List.range 64).foldl islandOverrun s1)
      else if stage s = 19 then rlEnd ((List.range 16).foldl portOverrun s1) else s1) := by
  intro s1
  show execStageOverrun s = _
  unfold execStageOverrun
  rw [hb]
  dsimp only
  rw [if_neg (by rw [ho, hc, ht]; simp), apply_ite Host.Outcome.next, apply_ite Host.Outcome.next]
  rfl

/-- Settles O7: the branch that each condition leaves. -/
theorem serviceGivesTheOutcome : Obligations.ServiceGivesTheOutcome := by
  unfold Obligations.ServiceGivesTheOutcome
  exact ⟨fun _ => exec_stageService, fun _ _ => exec_stageOverrun, fun _ _ _ h => if_neg (by rw [h]; simp)⟩

end Sys2Proof.Machine
end

section
/-! PROOFS. Life commands (Tables 2-3 and 2-4) and what blocks with a life cycle do by themselves (R61-R69, R893). -/
-- One theorem after another: elaborated side by side, each holds its memory while it waits for those before it.
set_option Elab.async false

namespace Sys2Proof.Machine

/-! ### Life commands -/

section
variable {fn a tag dl : Nat} {s : State}

/-- The state register of a block stands apart from the events of its page and from the log's sequence number. -/
theorem lifeReg_off (h : lifeReg a) : (a + 4) % 0x1000 ≠ 0x10 ∧ (a + 4) % 0x1000 ≠ 0x98 ∧ (a + 4) % 0x1000 ≠ 0x9C := by
  rcases h with h | ⟨-, h1, h2, h3⟩ <;> omega

theorem lifeReg_page (h : lifeReg a) : pageBase (a + 4) = pageBase a := by
  unfold pageBase
  rcases h with h | ⟨-, h1, h2, h3⟩ <;> omega

/-- A command that is taken is evaluated. -/
theorem lifeWrite_taken (h : lifeTaken fn a s) (cmd tag dl : Nat) : lifeWrite fn a cmd tag dl s = lifeEval cmd (a + 4) (tag % 256) (dl % 65536) s := by
  obtain ⟨hreg, hreach, -⟩ := h
  unfold lifeWrite
  dsimp only
  rw [if_pos, barWrite_goes hreach]
  rcases hreg with h8 | ⟨⟨i, hp⟩, h1, h2, h3⟩
  · exact .inl h8
  · refine .inr ?_
    rcases hp with hp | hp <;> rw [hp] <;> simp [h1, h2, h3]

/-- No gate and no latch hold a taken command back. -/
theorem lifeOpen (h : lifeTaken fn a s) (b : Bool) : ((!s.gate && !b) || shutLatched (a + 4) s) = false := by
  obtain ⟨-, -, hgate, hlatch, -⟩ := h
  unfold shutLatched
  rw [hgate, hlatch]
  rfl

theorem lifeEval_nop {cmd : Nat} (h : lifeTaken fn a s) (hc : cmd = 0) : lifeEval cmd (a + 4) tag dl s = lifeDone (a + 4) tag 0 s := by
  unfold lifeEval
  dsimp only
  rw [lifeOpen h, if_neg Bool.false_ne_true]
  split
  case h_1 => rfl
  case h_6 h0 _ _ _ _ => exact (h0 hc).elim
  all_goals omega

theorem lifeEval_bad {cmd : Nat} (h : lifeTaken fn a s) (hc : 5 ≤ cmd) : lifeEval cmd (a + 4) tag dl s = lifeDone (a + 4) tag 4 s := by
  unfold lifeEval
  dsimp only
  rw [lifeOpen h, if_neg Bool.false_ne_true]
  split
  case h_6 => rfl
  all_goals omega

theorem exec_lifeNop (h : lifeTaken fn a s) (tag : Nat) : exec (.lifeNop fn a tag) s = .next (lifeDone (a + 4) (tag % 256) 0 s) := by
  show Host.Outcome.next (lifeWrite fn a 0 tag 0 s) = _
  rw [lifeWrite_taken h, lifeEval_nop h rfl]

theorem exec_lifeBadCmd (h : lifeTaken fn a s) (cmd tag : Nat) :
    exec (.lifeBadCmd fn a cmd tag) s = .next (lifeDone (a + 4) (tag % 256) 4 s) := by
  show Host.Outcome.next (lifeWrite fn a (5 + cmd % 11) tag 0 s) = _
  rw [lifeWrite_taken h, lifeEval_bad h (by omega)]

theorem exec_lifeStart (h : lifeTaken fn a s) (tag : Nat) : exec (.lifeStart fn a tag) s = .next (lifeStart (a + 4) (tag % 256) s) := by
  show Host.Outcome.next (lifeWrite fn a 1 tag 0 s) = _
  rw [lifeWrite_taken h]
  obtain ⟨-, -, -, -, hlife⟩ := id h
  unfold lifeEval
  dsimp only
  rw [lifeOpen h, if_neg Bool.false_ne_true]
  exact congrArg Host.Outcome.next (if_pos hlife)

theorem exec_lifeClear (h : lifeTaken fn a s) (tag : Nat) : exec (.lifeClear fn a tag) s = .next (lifeClear (a + 4) (tag % 256) s) := by
  show Host.Outcome.next (lifeWrite fn a 4 tag 0 s) = _
  rw [lifeWrite_taken h]
  obtain ⟨-, -, -, -, hlife⟩ := id h
  unfold lifeEval
  dsimp only
  rw [lifeOpen h, if_neg Bool.false_ne_true]
  exact congrArg Host.Outcome.next (if_pos hlife)

theorem lifeShut_noHerd {cmd : Nat} (hn : noHerd a) : lifeShut cmd a tag dl s = shut cmd tag dl 4 a s := by
  unfold lifeShut
  split
  · next n hp => exact absurd hp (hn n)
  · rfl

theorem exec_lifeDrain (h : lifeTaken fn a s) (hn : noHerd (a + 4)) (tag dl : Nat) :
    exec (.lifeDrain fn a tag dl) s = .next (shut 2 (tag % 256) (dl % 65536) 4 (a + 4) s) := by
  show Host.Outcome.next (lifeWrite fn a 2 tag dl s) = _
  rw [lifeWrite_taken h]
  obtain ⟨-, -, -, -, hlife⟩ := id h
  unfold lifeEval
  dsimp only
  rw [lifeOpen h, if_neg Bool.false_ne_true]
  exact congrArg Host.Outcome.next ((if_pos hlife).trans (lifeShut_noHerd hn))

theorem exec_lifeStop (h : lifeTaken fn a s) (hn : noHerd (a + 4)) (tag : Nat) :
    exec (.lifeStop fn a tag) s = .next (shut 3 (tag % 256) 0 4 (a + 4) s) := by
  show Host.Outcome.next (lifeWrite fn a 3 tag 0 s) = _
  rw [lifeWrite_taken h]
  obtain ⟨-, -, -, -, hlife⟩ := id h
  unfold lifeEval
  dsimp only
  rw [lifeOpen h, if_neg Bool.false_ne_true]
  exact congrArg Host.Outcome.next ((if_pos hlife).trans (lifeShut_noHerd hn))

/-- A DRAIN or STOP that is not accepted, or of a block without active children, gives its answer. -/
theorem shut_done {cmd f st : Nat} {t : State} (h : shutOne cmd a tag dl s = (st, t)) (hk : st = 0 → noKids a s) :
    shut cmd tag dl (f + 1) a s = lifeDone a tag st t := by
  unfold shut
  dsimp only
  rw [h]
  dsimp only
  split
  · next h0 => rw [hk h0, List.foldl_nil]
  · rfl

/-- The state of a block decides what a DRAIN or STOP does. -/
theorem shutOne_off {cmd : Nat} (h : lifeAt a s = 0) : shutOne cmd a tag dl s = (3, s) := by unfold shutOne; rw [h]; rfl
theorem shutOne_drain (h : lifeAt a s = 2) : shutOne 2 a tag dl s = (0, enterDraining a tag dl s) := by unfold shutOne; rw [h]; rfl
theorem shutOne_stop (h : lifeAt a s = 2) : shutOne 3 a tag dl s = (0, enterStopping a s) := by unfold shutOne; rw [h]; rfl
theorem shutOne_cancel (h : lifeAt a s = 4) (hp : flag a LIFE_PENDING_START s = true) :
    shutOne 3 a tag dl s = (0, setF a LIFE_PENDING_START 0 s) := by unfold shutOne; rw [h]; exact if_pos ⟨rfl, hp⟩
theorem shutOne_stopping (h : lifeAt a s = 4) : shutOne 2 a tag dl s = (3, s) := by unfold shutOne; rw [h]; exact if_neg (by omega)
theorem shutOne_faulted {cmd : Nat} (h : lifeAt a s = 5) : shutOne cmd a tag dl s = (9, s) := by unfold shutOne; rw [h]; rfl

/-- The answer of a life command stands in the state register; what its event leaves stays. -/
theorem lifeDone_shown {st : Nat} (hr : lifeReg a) (ht : tag < 256) (hst : st < 256) :
    getF (a + 4) LIFE_LAST_TAG (lifeDone (a + 4) tag st s) = tag ∧ getF (a + 4) LIFE_LAST_STATUS (lifeDone (a + 4) tag st s) = st
    ∧ lifeAt (a + 4) (lifeDone (a + 4) tag st s) = lifeAt (a + 4) s
    ∧ flag (a + 4) LIFE_PENDING_START (lifeDone (a + 4) tag st s) = flag (a + 4) LIFE_PENDING_START s
    ∧ bitOf (rdW (pageBase a + 0x10) (lifeDone (a + 4) tag st s)).toNat 1 = true
    ∧ (∀ b, canon b ≠ canon (a + 4) → canon b ≠ canon (pageBase a + 0x10) → canon b ≠ 0x10098 → canon b ≠ 0x1009C →
        rdW b (lifeDone (a + 4) tag st s) = rdW b s)
    ∧ EventsOnly s (lifeDone (a + 4) tag st s) := by
  obtain ⟨h10, h98, h9C⟩ := lifeReg_off hr
  have hm := pageBase_mod a
  obtain ⟨u, hu⟩ : ∃ u, u = setF (a + 4) LIFE_LAST_STATUS st (setF (a + 4) LIFE_LAST_TAG tag s) := ⟨_, rfl⟩
  have hd : lifeDone (a + 4) tag st s = raise (pageBase a) 1 u := by rw [hu, ← lifeReg_page hr]; rfl
  obtain ⟨hbit, hstays, -⟩ := raise_shown (pageBase a) 1 u (by decide) hm
  have hstat : rdW (a + 4) (raise (pageBase a) 1 u) = rdW (a + 4) u := by
    refine hstays _ (fun e => h10 ?_) (fun e => h98 ?_) (fun e => h9C ?_)
    · have := congrArg (· % 0x1000) e
      simp only [canon_mod] at this
      omega
    · rw [← canon_mod, e]
    · rw [← canon_mod, e]
  have field (f : Field) (hf : f.off = 0) : getF (a + 4) f (raise (pageBase a) 1 u) = getF (a + 4) f u := by
    refine getF_of_rdW ?_
    rw [hf]
    exact hstat
  have beside (f : Field) (hf : f.off = 0) (h : f.hi < 8) : getF (a + 4) f (raise (pageBase a) 1 u) = getF (a + 4) f s := by
    rw [field f hf, hu, getF_setF_beside (f := f) (g := LIFE_LAST_STATUS) _ _ hf (by decide) (by decide) (.inr (by show f.hi < 16; omega)),
      getF_setF_beside (f := f) (g := LIFE_LAST_TAG) _ _ hf (by decide) (by decide) (.inr h)]
  rw [hd]
  refine ⟨?_, ?_, beside LIFE_STATE rfl (by decide), ?_, hbit, fun b h1 h2 h3 h4 => ?_, ?_⟩
  · rw [field LIFE_LAST_TAG rfl, hu, getF_setF_beside (f := LIFE_LAST_TAG) (g := LIFE_LAST_STATUS) _ _ rfl (by decide) (by decide) (.inr (by decide)),
      getF_setF_same _ _ (by decide) (by decide)]
    exact Nat.mod_eq_of_lt ht
  · rw [field LIFE_LAST_STATUS rfl, hu, getF_setF_same _ _ (by decide) (by decide)]
    exact Nat.mod_eq_of_lt hst
  · unfold flag
    rw [beside LIFE_PENDING_START rfl (by decide)]
  · rw [hstays b h2 h3 h4, hu, rdW_setF_ne (f := LIFE_LAST_STATUS) _ _ h1, rdW_setF_ne (f := LIFE_LAST_TAG) _ _ h1]
  · rw [hu]
    exact (setF_only ..).trans ((setF_only ..).trans (raise_only ..))

/-- START and CLEAR in the states of the block (Table 2-3). -/
theorem lifeStart_starting (h : lifeAt a s = 1 ∨ lifeAt a s = 2) : lifeStart a tag s = lifeDone a tag 2 s := by
  unfold lifeStart
  split
  case h_2 => rfl
  case h_3 => rfl
  case h_6 _ h1 h2 _ _ => exact (h.elim h1 h2).elim
  all_goals omega

theorem lifeStart_pending (h : lifeAt a s = 3 ∨ lifeAt a s = 4) (hp : flag a LIFE_PENDING_START s = true) : lifeStart a tag s = lifeDone a tag 2 s := by
  unfold lifeStart
  split
  case h_4 => exact if_pos hp
  case h_5 => exact if_pos hp
  case h_6 _ _ _ h3 h4 => exact (h.elim h3 h4).elim
  all_goals omega

theorem lifeStart_later (h : lifeAt a s = 3 ∨ lifeAt a s = 4) (hp : flag a LIFE_PENDING_START s = false) :
    lifeStart a tag s = lifeDone a tag 1 (setF a LIFE_PENDING_START 1 s) := by
  have hn : ¬ flag a LIFE_PENDING_START s = true := by rw [hp]; exact Bool.false_ne_true
  unfold lifeStart
  split
  case h_4 => exact if_neg hn
  case h_5 => exact if_neg hn
  case h_6 _ _ _ h3 h4 => exact (h.elim h3 h4).elim
  all_goals omega

theorem lifeStart_faulted (h : lifeAt a s = 5) : lifeStart a tag s = lifeDone a tag 9 s := by
  unfold lifeStart
  split
  case h_6 => rfl
  all_goals omega

theorem lifeStart_off (h : lifeAt a s = 0) (hc : startCheck a s = none) : lifeStart a tag s = lifeDone a tag 0 (enterStarting a s) := by
  unfold lifeStart
  split
  case h_1 => rw [hc]
  case h_6 h0 _ _ _ _ => exact (h0 h).elim
  all_goals omega

theorem lifeStart_denied {st : Nat} (h : lifeAt a s = 0) (hc : startCheck a s = some st) :
    lifeStart a tag s = lifeDone a tag st (startDenied a st s) := by
  unfold lifeStart
  split
  case h_1 => rw [hc]
  case h_6 h0 _ _ _ _ => exact (h0 h).elim
  all_goals omega

theorem lifeClear_bad (h : lifeAt a s ≠ 5) : lifeClear a tag s = lifeDone a tag 3 s := if_pos h
theorem lifeClear_held (h : lifeAt a s = 5) (hc : clearHeld a s = true) : lifeClear a tag s = lifeDone a tag 0xA s := by
  unfold lifeClear; rw [if_neg (by omega), if_pos hc]
theorem lifeClear_off (h : lifeAt a s = 5) (hc : clearHeld a s = false) (hn : noHerd a) : lifeClear a tag s = lifeDone a tag 0 (toOff a s) := by
  unfold lifeClear
  rw [if_neg (by omega), if_neg (by rw [hc]; exact Bool.false_ne_true)]
  split
  · next n hp => exact absurd hp (hn n)
  · rfl

end

/-- Settles O21: a taken command is evaluated under Table 2-3, in the state of its block. -/
theorem lifeCommandsFollowTheirTable : Obligations.LifeCommandsFollowTheirTable := by
  unfold Obligations.LifeCommandsFollowTheirTable
  intro fn a tag dl s h
  obtain ⟨htag, hstatus, hstate, hpend, hbit, hregs, hrest⟩ := lifeDone_shown (st := 0) (s := s) h.1 (Nat.mod_lt tag (by decide)) (by decide)
  have clear {n : Nat} (hs : lifeAt (a + 4) s = n) (hn : n ≠ 5) : exec (.lifeClear fn a tag) s = .next (lifeDone (a + 4) (tag % 256) 3 s) := by
    rw [exec_lifeClear h, lifeClear_bad (by omega)]
  refine ⟨exec_lifeNop h tag, fun cmd => exec_lifeBadCmd h cmd tag, ⟨_, exec_lifeNop h tag, htag, hstatus, hstate, hpend, hbit, hregs, hrest.rest⟩,
    fun h0 => ⟨fun hc => ?_, fun st hc => ?_, clear h0 (by decide)⟩, fun h12 => ⟨?_, ?_⟩, fun h34 => ⟨fun hp => ?_, fun hp => ?_, ?_⟩,
    fun h5 => ⟨?_, fun hc => ?_, fun hc hn => ?_⟩, fun hn => ?_⟩
  · rw [exec_lifeStart h, lifeStart_off h0 hc]
  · rw [exec_lifeStart h, lifeStart_denied h0 hc]
  · rw [exec_lifeStart h, lifeStart_starting h12]
  · rcases h12 with hs | hs <;> exact clear hs (by decide)
  · rw [exec_lifeStart h, lifeStart_pending h34 hp]
  · rw [exec_lifeStart h, lifeStart_later h34 hp]
  · rcases h34 with hs | hs <;> exact clear hs (by decide)
  · rw [exec_lifeStart h, lifeStart_faulted h5]
  · rw [exec_lifeClear h, lifeClear_held h5 hc]
  · rw [exec_lifeClear h, lifeClear_off h5 hc hn]
  · have drain {st : Nat} {t : State} (ho : shutOne 2 (a + 4) (tag % 256) (dl % 65536) s = (st, t)) (hk : st = 0 → noKids (a + 4) s) :
        exec (.lifeDrain fn a tag dl) s = .next (lifeDone (a + 4) (tag % 256) st t) := by rw [exec_lifeDrain h hn, shut_done ho hk]
    have stop {st : Nat} {t : State} (ho : shutOne 3 (a + 4) (tag % 256) 0 s = (st, t)) (hk : st = 0 → noKids (a + 4) s) :
        exec (.lifeStop fn a tag) s = .next (lifeDone (a + 4) (tag % 256) st t) := by rw [exec_lifeStop h hn, shut_done ho hk]
    exact ⟨fun h0 => ⟨drain (shutOne_off h0) (by omega), stop (shutOne_off h0) (by omega)⟩,
      fun h2 hk => ⟨drain (shutOne_drain h2) fun _ => hk, stop (shutOne_stop h2) fun _ => hk⟩,
      fun h4 hp hk => stop (shutOne_cancel h4 hp) fun _ => hk, fun h4 => drain (shutOne_stopping h4) (by omega),
      fun h5 => ⟨drain (shutOne_faulted h5) (by omega), stop (shutOne_faulted h5) (by omega)⟩⟩

/-! ### What a block does by itself -/

section
variable {a : Nat} {s : State}

theorem exec_blockStartDone {code ab ba : Nat} (hl : hasLife a = true) (h1 : lifeAt a s = 1) (hab : (lifeX a s).aborting = false)
    (hp : ∀ n, pageOf a ≠ some (.rlp, n) ∧ pageOf a ≠ some (.brg, n)) :
    exec (.blockStartDone a true code ab ba) s = .next (readyHook a (setState a 2 s)) := by
  show execBlockStartDone a true code ab ba s = _
  unfold execBlockStartDone
  rw [if_neg (by rw [hl, h1, hab]; simp)]
  split
  · next n h => exact absurd h (hp n).1
  · next n h => exact absurd h (hp n).2
  · rfl

theorem exec_blockStartDone_brg {n code ab ba : Nat} (hl : hasLife a = true) (h1 : lifeAt a s = 1) (hab : (lifeX a s).aborting = false)
    (hp : pageOf a = some (.brg, n)) (ho : outcome s ≠ 0) : exec (.blockStartDone a true code ab ba) s = .next (relevel (brgStarted n ab ba s)) := by
  show execBlockStartDone a true code ab ba s = _
  unfold execBlockStartDone
  rw [if_neg (by rw [hl, h1, hab]; simp), hp]
  exact if_neg ho

/-- What the deadline `d` of a DRAINING block brings: a herd's children share it (R62, R531). -/
def deadlineMet (a d : Nat) (s : State) : State :=
  match pageOf a with
  | some (.herd, _) => expire d (lifeX a s).dtag 4 a (waitTill d s)
  | _ => lifeDone a (lifeX a s).dtag 0x0C (enterStopping a (waitTill d s))

theorem exec_drainDeadlineExpiry {d : Nat} (hl : hasLife a = true) (h3 : lifeAt a s = 3) (hd : (lifeX a s).deadline = some d) :
    exec (.drainDeadlineExpiry a) s = .next (deadlineMet a d s) := by
  show execDrainDeadlineExpiry a s = _
  unfold execDrainDeadlineExpiry
  dsimp only
  rw [hd]
  dsimp only
  rw [if_neg (by rw [hl, h3]; simp)]
  rfl

/-- A STOPPING block that holds nothing at OFF: a herd frees its rods, a link's bridge is looked at (R531, R603). -/
def reachedOff (a : Nat) (s : State) : State :=
  match pageOf a with
  | some (.herd, n) => herdOff n (setState a 0 (lifeReset a (setLifeX a ⟨none, 0, false⟩ s)))
  | some (.brg, n) => relevel (checkBridge (n / 4) (setState a 0 (lifeReset a (setLifeX a ⟨none, 0, false⟩ s))))
  | _ => setState a 0 (lifeReset a (setLifeX a ⟨none, 0, false⟩ s))

theorem exec_blockReachesOff (hl : hasLife a = true) (h4 : lifeAt a s = 4) (hr : released a s = true) :
    exec (.blockReachesOff a) s = .next (pendingStart a (reachedOff a s)) := by
  show execBlockReachesOff a s = _
  unfold execBlockReachesOff
  dsimp only
  rw [if_neg (by rw [hl, h4, hr]; simp)]
  rfl

theorem exec_offSelftestFail {code : Nat} (hl : hasLife a = true) (h0 : lifeAt a s = 0) :
    exec (.offSelftestFail a code) s = .next (match pageOf a with
      | some (.herd, _) => showHerds (faultBlock a code s)
      | _ => faultBlock a code s) := congrArg Host.Outcome.next (if_pos ⟨hl, h0⟩)

/-- The state after a resize, and the DRAIN or STOP that it held back (R533, R569). -/
def resizeShown (n : Nat) (r : Resize) (s : State) : State :=
  raise (herdP n) 16 (setF (herdP n) HERD_RSTAT_BUSY 0 (setF (herdP n) HERD_RSTAT_STATUS 0 (applyResize n r { s with resizes := alErase s.resizes n })))

def resizeEnded (n : Nat) (r : Resize) (s : State) : State :=
  match r.stop with
  | some (cmd, tag, dl) => shutNow cmd tag dl (statOf (herdP n)) (resizeShown n r s)
  | none => resizeShown n r s

theorem exec_resized {n : Nat} {r : Resize} (h : alGet s.resizes n = some r) : exec (.resized n) s = .next (resizeEnded n r s) := by
  show execResized n s = _
  unfold execResized
  rw [h]
  rfl

end

/-! ### Parity in control state -/

section
variable {p code detail loc x i sev : Nat} {k : Kind} {s : State}

/-- What a parity error does once its code is one of its page's block: the ladder of the codes with an effect of their own. -/
def parityAct (p code detail loc x i sev : Nat) (k : Kind) (s : State) : State :=
  if code = 0x1804 ∨ code = 0x2904 ∨ code = 0x3004 then parityFault p code detail (locFields k detail loc) x s
  else if code = 0x1501 then spadSeen i (x % spadSize) 1 { s with spadPar := nsInsert s.spadPar (spadKey i (x % spadSize)) }
  else if code = 0x2002 ∧ detail % 32 < 18 then laneFailed i (bitsOf detail 11 11) (detail % 32) s
  else if code = 0x1102 then accSeen i (x % 0x4000) { s with accPar := nsInsert s.accPar (i * 0x4000 + x % 0x4000) }
  else
    let d := parityDetail code i detail s
    let s1 := recordErr p code sev d (locFields k d loc) (sev == 1) (parityEffect code i d x s)
    if code = 0x2203 ∧ nodeValid s1 then (let m := nextMsg s1; toManager 0x19 m.1 [ownSerial, 16, 0, 0, 0, 0, 0, 0, x] m.2)
    else if code = 0x2109 then pumpWait (portEvent i (rlPhase i s) (getF (rlpP i) RLP_STAT_WIDTH s) s1)
    else if code = 0x200A then relevel (checkBridge (i / 4) (moveGroups (i / 4) s1))
    else s1

theorem exec_controlParityError (hp : p % 0x1000 = 0) (hk : pageOf p = some (k, i)) (hlive : pageLive p s = true) (hsev : paritySev code = some sev)
    (hcode : code / 256 = k.code) (h : code ≠ 0x0207) : exec (.controlParityError p code detail loc x) s = .next (parityAct p code detail loc x i sev k s) := by
  show execControlParityError p code detail loc x s = _
  unfold execControlParityError
  rw [pageBase_of hp]
  dsimp only
  rw [if_neg (fun e => h e.2), hk, hsev]
  dsimp only
  rw [if_neg (by rw [hlive]; simpa using hcode)]
  unfold parityAct
  simp only [apply_ite Host.Outcome.next]

/-- A code without an effect of its own is recorded. -/
theorem parityAct_plain (h1 : code ≠ 0x1804) (h2 : code ≠ 0x2904) (h3 : code ≠ 0x3004) (h4 : code ≠ 0x2203) (h5 : code ≠ 0x1501) (h6 : code ≠ 0x1102)
    (h7 : code ≠ 0x2002) (h8 : code ≠ 0x2109) (h9 : code ≠ 0x200A) : parityAct p code detail loc x i sev k s =
      recordErr p code sev (parityDetail code i detail s) (locFields k (parityDetail code i detail s) loc) (sev == 1)
        (parityEffect code i (parityDetail code i detail s) x s) := by
  unfold parityAct
  dsimp only
  rw [if_neg (by omega), if_neg h5, if_neg (fun e => h7 e.1), if_neg h6, if_neg (fun e => h4 e.1), if_neg h8, if_neg h9]

end

/-- Settles O22: each row's guards hold, and the page decides what follows. -/
theorem blocksChangeStateByThemselves : Obligations.BlocksChangeStateByThemselves := by
  unfold Obligations.BlocksChangeStateByThemselves
  refine ⟨fun _ _ _ _ _ => exec_blockStartDone, fun _ _ _ _ _ _ => exec_blockStartDone_brg,
    fun a s hl h1 hab => congrArg Host.Outcome.next (if_pos ⟨hl, h1, hab⟩),
    fun a s hl h3 hw => congrArg Host.Outcome.next (if_pos ⟨hl, h3, by rw [hw]; exact Bool.false_ne_true⟩), fun a d s hl h3 hd => ⟨fun hn => ?_, fun n hp => ?_⟩,
    fun a s hl h4 hr hp => ?_, fun a n s hl h4 hr hp => ?_, fun a n s hl h4 hr hp => ?_, fun a code s hl h0 => ⟨fun hn => ?_, fun n hp => ?_⟩,
    fun n r s h hs => ?_, fun n cmd tag dl r s h hs => ?_, fun p code detail loc x i sev k s hp hk hlive hsev hcode => ?_⟩
  · rw [exec_drainDeadlineExpiry hl h3 hd]
    unfold deadlineMet
    split
    · next n hp => exact absurd hp (hn n)
    · rfl
  · rw [exec_drainDeadlineExpiry hl h3 hd]
    unfold deadlineMet
    rw [hp]
  · rw [exec_blockReachesOff hl h4 hr]
    unfold reachedOff
    split
    · next n h => exact absurd h (hp n).1
    · next n h => exact absurd h (hp n).2
    · rfl
  · rw [exec_blockReachesOff hl h4 hr]
    unfold reachedOff
    rw [hp]
  · rw [exec_blockReachesOff hl h4 hr]
    unfold reachedOff
    rw [hp]
  · rw [exec_offSelftestFail hl h0]
    split
    · next n hp => exact absurd hp (hn n)
    · rfl
  · rw [exec_offSelftestFail hl h0, hp]
  · rw [exec_resized h]
    unfold resizeEnded
    rw [hs]
    rfl
  · rw [exec_resized h]
    unfold resizeEnded
    rw [hs]
    rfl
  · have act (h : code ≠ 0x0207) := exec_controlParityError (detail := detail) (loc := loc) (x := x) hp hk hlive hsev hcode h
    refine ⟨fun h1 h2 h3 h4 h5 h6 h7 h8 h9 hA d hd => ?_, fun h => ?_, fun h hlane => ?_, fun h d hd => ?_, fun h => ?_, fun h => ?_⟩
    · rw [act h7, parityAct_plain h1 h2 h3 h4 h5 h6 h8 h9 hA, hd]
    · rw [act (by omega)]
      unfold parityAct
      rw [if_pos h]
    · rw [act (by omega)]
      unfold parityAct
      rw [if_neg (by omega), if_neg (by omega), if_pos ⟨h, hlane⟩]
    · rw [act (by omega)]
      unfold parityAct
      dsimp only
      rw [hd, if_neg (by omega), if_neg (by omega), if_neg (by omega), if_neg (by omega), if_neg (by omega), if_neg (by omega), if_pos h]
    · rw [act (by omega)]
      unfold parityAct
      rw [if_neg (by omega), if_pos h]
    · rw [act (by omega)]
      unfold parityAct
      rw [if_neg (by omega), if_neg (by omega), if_neg (by omega), if_pos h]

end Sys2Proof.Machine
end

section
/-! PROOFS. Programs, their debugger, streams and rings (chapters 4, 8 and 13). -/
-- One theorem after another: elaborated side by side, each holds its memory while it waits for those before it.
set_option Elab.async false

namespace Sys2Proof.Machine

/-! ### Programs start -/

/-- Registers that take 0 keep what lies beside them. -/
theorem rdW_zeroed {a : Nat} (l : List Nat) (s : State) (h : ∀ x ∈ l, canon a ≠ canon x ∧ canon a ≠ canon (x + 4)) :
    rdW a (l.foldl (fun t x => wr64 x 0 t) s) = rdW a s := by
  induction l generalizing s with
  | nil => rfl
  | cons x l ih =>
    obtain ⟨h1, h2⟩ := h x List.mem_cons_self
    rw [List.foldl_cons, ih _ fun y hy => h y (List.mem_cons_of_mem _ hy)]
    unfold wr64
    rw [rdW_wrW_ne _ _ h2, rdW_wrW_ne _ _ h1]

/-- The 64-bit counters that SEQ_START clears (R191, R282, R342, R460). -/
def startPairs (i : Nat) : List Nat :=
  [msgP i + 0x8C, msgP i + 0x84, seqP i + 0xD0, spadP i + 0x88, oxaP i + 0x88, oxaP i + 0x90, oxaP i + 0x98, goatP i + 0x84,
    goatP i + 0x8C, vecP i + 0x80, strmP i + 0x88, kvP i + 0xE4, kvP i + 0xEC]

/-- The 32-bit ones that it clears with them. -/
def startSingles (i : Nat) (s : State) : State :=
  setF (oxaP i) OXA_ACCERR_COUNT 0 (wrW (strmP i + 0x90) 0 (wrW (kvP i + 0xE0) 0 (wrW (oxaP i + 0xA4) 0 (wrW (vecP i + 0x88) 0 (wrW (vecP i + 0x8C) 0 s)))))

theorem startCounters_eq (i : Nat) (s : State) : startCounters i s = startSingles i ((startPairs i).foldl (fun t a => wr64 a 0 t) s) := rfl

/-- The other pages of a rod lie beside its SEQ page. -/
theorem rdW_startSingles {i o : Nat} (ho : o < 0x1000) (s : State) : rdW (seqP i + o) (startSingles i s) = rdW (seqP i + o) s := by
  have beside {b : Nat} (hb : seqP i + 0x1000 ≤ b) : canon (seqP i + o) ≠ canon b :=
    canon_ne_high (by have := seqP_high i; omega) (by omega)
  unfold startSingles
  rw [rdW_setF_ne _ _ (beside (by dsimp only [oxaP, seqP, rodP]; omega)), rdW_wrW_ne _ _ (beside (by dsimp only [strmP, seqP, rodP]; omega)),
    rdW_wrW_ne _ _ (beside (by dsimp only [kvP, seqP, rodP]; omega)), rdW_wrW_ne _ _ (beside (by dsimp only [oxaP, seqP, rodP]; omega)),
    rdW_wrW_ne _ _ (beside (by dsimp only [vecP, seqP, rodP]; omega)), rdW_wrW_ne _ _ (beside (by dsimp only [vecP, seqP, rodP]; omega))]

/-- Of the SEQ page the pairs that are cleared hold SEQ_COUNT only. -/
theorem startPairs_seq {i x : Nat} (h : x ∈ startPairs i) : x = seqP i + 0xD0 ∨ seqP i + 0x1000 ≤ x := by
  unfold startPairs at h
  simp only [List.mem_cons, List.not_mem_nil, or_false] at h
  dsimp only [msgP, spadP, oxaP, goatP, vecP, strmP, kvP, seqP, rodP] at h ⊢
  omega

/-- The clear of the counters leaves the program's own registers. -/
theorem rdW_startCounters {i o : Nat} (ho : o < 0xD0) (s : State) : rdW (seqP i + o) (startCounters i s) = rdW (seqP i + o) s := by
  have hp := seqP_high i
  rw [startCounters_eq, rdW_startSingles (by omega), rdW_zeroed]
  intro x hx
  have := startPairs_seq hx
  exact ⟨canon_ne_high (by omega) (by omega), canon_ne_high (by omega) (by omega)⟩

theorem count_startCounters (i : Nat) (s : State) : rd64 (seqP i + 0xD0) (startCounters i s) = 0 := by
  have hp := seqP_high i
  have hsplit : startPairs i = [msgP i + 0x8C, msgP i + 0x84] ++ (seqP i + 0xD0) :: [spadP i + 0x88, oxaP i + 0x88, oxaP i + 0x90, oxaP i + 0x98,
      goatP i + 0x84, goatP i + 0x8C, vecP i + 0x80, strmP i + 0x88, kvP i + 0xE4, kvP i + 0xEC] := rfl
  have later : ∀ x ∈ [spadP i + 0x88, oxaP i + 0x88, oxaP i + 0x90, oxaP i + 0x98, goatP i + 0x84, goatP i + 0x8C, vecP i + 0x80, strmP i + 0x88,
      kvP i + 0xE4, kvP i + 0xEC], seqP i + 0x1000 ≤ x := by
    intro x hx
    simp only [List.mem_cons, List.not_mem_nil, or_false] at hx
    dsimp only [spadP, oxaP, goatP, vecP, strmP, kvP, seqP, rodP] at hx ⊢
    omega
  rw [startCounters_eq, hsplit, List.foldl_append, List.foldl_cons]
  generalize [msgP i + 0x8C, msgP i + 0x84].foldl (fun t a => wr64 a 0 t) s = u
  have half {o : Nat} (ho : o < 0x1000) :
      rdW (seqP i + o) (startSingles i (([spadP i + 0x88, oxaP i + 0x88, oxaP i + 0x90, oxaP i + 0x98, goatP i + 0x84, goatP i + 0x8C, vecP i + 0x80,
        strmP i + 0x88, kvP i + 0xE4, kvP i + 0xEC] : List Nat).foldl (fun t a => wr64 a 0 t) (wr64 (seqP i + 0xD0) 0 u)))
        = rdW (seqP i + o) (wr64 (seqP i + 0xD0) 0 u) := by
    rw [rdW_startSingles ho, rdW_zeroed]
    intro x hx
    have := later x hx
    exact ⟨canon_ne_high (by omega) (by omega), canon_ne_high (by omega) (by omega)⟩
  have hwr := rd64_wr64_same (seqP i + 0xD0) 0 u
  unfold rd64 at hwr ⊢
  rw [half (o := 0xD0) (by decide), show seqP i + 0xD0 + 4 = seqP i + 0xD4 from Nat.add_assoc .., half (o := 0xD4) (by decide)]
  exact hwr

theorem seqOf_startCounters (i j : Nat) (s : State) : seqOf j (startCounters i s) = seqOf j s := by
  have pairs (l : List Nat) (u : State) : seqOf j (l.foldl (fun t x => wr64 x 0 t) u) = seqOf j u := by
    induction l generalizing u with
    | nil => rfl
    | cons x l ih => rw [List.foldl_cons, ih, seqOf_wr64]
  rw [startCounters_eq]
  unfold startSingles
  rw [seqOf_setF, seqOf_wrW, seqOf_wrW, seqOf_wrW, seqOf_wrW, seqOf_wrW, pairs]

/-- A rod without commands has nothing under way elsewhere; its registers and sequencers stay. -/
theorem rdW_forgetRod (a i : Nat) (l : List Nat) (s : State) : rdW a (forgetRod i l s) = rdW a s := rfl
theorem seqOf_forgetRod (j i : Nat) (l : List Nat) (s : State) : seqOf j (forgetRod i l s) = seqOf j s := rfl

/-- The sequencer of a started program: four arguments, and the number of its next block. -/
def startedSeq (i : Nat) (s : State) : SeqSt :=
  { SeqSt.reset with
    s := [⟨BitVec.ofNat 64 (rd64 (seqP i + 0xA0) s), false⟩, ⟨BitVec.ofNat 64 (rd64 (seqP i + 0xA8) s), false⟩,
      ⟨BitVec.ofNat 64 (rd64 (seqP i + 0xB0) s), false⟩, ⟨BitVec.ofNat 64 (rd64 (seqP i + 0xB8) s), false⟩] ++ List.replicate 28 ⟨0, false⟩
    blockNum := (seqOf i s).blockNum }

/-- The state that a SEQ_START leaves before it clears the counters. -/
def startBegun (i v : Nat) (s : State) : State :=
  wrW (seqP i + 0xC8) 0 (forgetRod i [] (wrW (seqP i + 0x8C) 1 (setF (seqP i) SEQ_PC_PC (v % 131072) (setF (seqP i) SEQ_WDOG_LIMIT 0
    (putSeq i (startedSeq i s) s)))))

section
variable {fn i v : Nat} {s : State}

theorem exec_seqStart (h : reaches fn (seqP i + 0x84) s) (hg : bitOf v 31 = true) (hl : rodLife i s = 2)
    (hp : pstate i s = 0 ∨ pstate i s = 3 ∨ pstate i s = 4) : exec (.seqStart fn i v) s = .next (startCounters i (startBegun i v s)) := by
  show Host.Outcome.next (barWrite fn (seqP i + 0x84) _ s) = _
  rw [barWrite_goes h, if_pos]
  · rfl
  · rw [hg, hl]
    rcases hp with hp | hp | hp <;> rw [hp] <;> rfl

theorem exec_seqStart_bad (h : reaches fn (seqP i + 0x84) s)
    (hb : bitOf v 31 = false ∨ rodLife i s ≠ 2 ∨ pstate i s = 1 ∨ pstate i s = 2 ∨ pstate i s = 5) :
    exec (.seqStart fn i v) s = .next (raise (seqP i) 3 s) := by
  show Host.Outcome.next (barWrite fn (seqP i + 0x84) _ s) = _
  rw [barWrite_goes h, if_neg]
  intro hc
  simp only [Bool.and_eq_true, Bool.or_eq_true, beq_iff_eq] at hc
  obtain ⟨⟨hgo, hlife⟩, hps⟩ := hc
  rcases hb with hb | hb | hb
  · rw [hgo] at hb; cases hb
  · exact hb hlife
  · omega

/-- The registers of a program right after its start. -/
theorem rdW_startBegun (u : State) {o : Nat} (h : o < 0xC8) :
    rdW (seqP i + o) (wrW (seqP i + 0xC8) 0 (forgetRod i [] u)) = rdW (seqP i + o) u := by
  have hp := seqP_high i
  rw [rdW_wrW_ne _ _ (canon_ne_high (by omega) (by omega)), rdW_forgetRod]

theorem pstat_startBegun : rdW (seqP i + 0x8C) (startBegun i v s) = 1 := by
  unfold startBegun
  rw [rdW_startBegun _ (by decide), rdW_wrW_same]

theorem pc_startBegun : getF (seqP i) SEQ_PC_PC (startBegun i v s) = v % 131072 := by
  have hp := seqP_high i
  unfold startBegun
  rw [getF_of_rdW (p := seqP i) (f := SEQ_PC_PC) ((rdW_startBegun (o := 0x90) _ (by decide)).trans (rdW_wrW_ne _ _ (canon_ne_high (by omega) (by omega))))]
  exact pcOf_setF _ _ _ (Nat.mod_lt _ (by decide))

theorem wdog_startBegun : getF (seqP i) SEQ_WDOG_LIMIT (startBegun i v s) = 0 := by
  have hp := seqP_high i
  unfold startBegun
  rw [getF_of_rdW (p := seqP i) (f := SEQ_WDOG_LIMIT) ((rdW_startBegun (o := 0x94) _ (by decide)).trans (rdW_wrW_ne _ _ (canon_ne_high (by omega) (by omega)))),
    getF_setF_ne (f := SEQ_WDOG_LIMIT) (g := SEQ_PC_PC) _ _
    (canon_ne_high (by show 0x90000 ≤ seqP i + 0x90; omega) (by show seqP i + 0x94 ≠ seqP i + 0x90; omega)), getF_setF_same _ _ (by decide) (by decide)]
  rfl

theorem seqOf_startBegun : seqOf i (startBegun i v s) = startedSeq i s := by
  unfold startBegun putSeq
  rw [seqOf_wrW, seqOf_forgetRod, seqOf_wrW, seqOf_setF, seqOf_setF, seqOf_setF, seqOf_setSeq_same]

theorem seqOf_startBegun_ne {j : Nat} (h : j ≠ i) : seqOf j (startBegun i v s) = seqOf j s := by
  unfold startBegun putSeq
  rw [seqOf_wrW, seqOf_forgetRod, seqOf_wrW, seqOf_setF, seqOf_setF, seqOf_setF, seqOf_setSeq_ne _ _ h]

/-! ### Programs stall, wait and end -/

theorem exec_tokenStall {t0 : Nat} {w : CmdWord} (h : tokenStalled i s = some (w, t0)) :
    exec (.tokenStall i) s = .next (programFault i 7 (cwUnit w) (pcOf i s) (waitTill (t0 + 1000000) s)) := by
  show execTokenStall i s = _
  unfold execTokenStall
  rw [h]

/-- A blocked wait with a limit ends at it, or is broken where a confirmation is due. -/
theorem exec_waitTimeout {num : Nat} {c : Started} (hc : startedBy i num s = some c) (hb : c.blocked = true) (hl : c.limit ≠ 0) (hd : breakDue i c s = none) :
    exec (.waitTimeout i num) s = .next (completeNum i num (markDone i num 2 (statusWord 2 0) (raise (seqP i) 19
      (bump (seqP i) SEQ_BROKEN_TIMEOUT 1 (dropResvs (fun r => r == .rod i num) (waitTill (c.since + c.limit * 1000) s)))))) := by
  show execWaitTimeout i num s = _
  unfold execWaitTimeout
  rw [hc]
  dsimp only
  rw [if_neg (by simp [hb, hl]), hd]

theorem exec_waitTimeout_broken {num k : Nat} {c : Started} {p : Probe} (hc : startedBy i num s = some c) (hb : c.blocked = true) (hl : c.limit ≠ 0)
    (hd : breakDue i c s = some k) (hp : s.probes[k]? = some p) :
    exec (.waitTimeout i num) s = .next (breakWait i num (p.path.length + 1) { s with probes := s.probes.eraseIdx k }) := by
  show execWaitTimeout i num s = _
  unfold execWaitTimeout
  rw [hc]
  dsimp only
  rw [if_neg (by simp [hb, hl]), hd]
  dsimp only
  rw [hp]

theorem exec_programEnded (hp : pstate i s = 2) (hs : (seqOf i s).started = []) (hq : (seqOf i s).queues.all List.isEmpty = true) :
    exec (.programEnded i) s = (if getF (seqP i) SEQ_PSTAT_FAULT s = 0 then .next (raise (seqP i) 16 (setPstate i 3 s))
      else .next (raise (seqP i) 17 (setPstate i 4 s))) := by
  show execProgramEnded i s = _
  unfold execProgramEnded
  dsimp only
  rw [hp, hs, hq]
  rfl

end

/-- Settles O23: each register of the program is followed through the writes of its start; the other rows leave one branch. -/
theorem programsStartAndEnd : Obligations.ProgramsStartAndEnd := by
  unfold Obligations.ProgramsStartAndEnd
  refine ⟨fun fn i v s h hg hl hp => ⟨_, exec_seqStart h hg hl hp, ?pstate, ?pc, ?fault, ?wdog, count_startCounters .., ?seq, fun j hj => ?others⟩,
    fun _ _ _ _ => exec_seqStart_bad, fun fn i v s h hv => ?abort, fun fn i v s h hp => ?tsig, fun _ _ _ _ => exec_tokenStall,
    fun _ _ _ _ => exec_waitTimeout, fun _ _ _ _ _ _ => exec_waitTimeout_broken, fun i s hp hs hq => ⟨fun h => ?done, fun h => ?pfault⟩⟩
  case pstate =>
    unfold pstate getF
    rw [rdW_startCounters (by decide), pstat_startBegun]
    rfl
  case fault =>
    unfold getF
    rw [rdW_startCounters (by decide), pstat_startBegun]
    rfl
  case pc => exact (getF_of_rdW (rdW_startCounters (by decide) _)).trans pc_startBegun
  case wdog => exact (getF_of_rdW (rdW_startCounters (by decide) _)).trans wdog_startBegun
  case seq => rw [seqOf_startCounters, seqOf_startBegun]; rfl
  case others => rw [seqOf_startCounters, seqOf_startBegun_ne hj]
  case abort =>
    show Host.Outcome.next (barWrite fn (seqP i + 0x88) _ s) = _
    rw [barWrite_goes h, if_pos hv]
  case tsig =>
    show Host.Outcome.next (barWrite fn (seqP i + 0x9C) _ s) = _
    rw [barWrite_goes h, if_pos (by rcases hp with hp | hp <;> rw [hp] <;> rfl)]
  case done => rw [exec_programEnded hp hs hq, if_pos h]
  case pfault => rw [exec_programEnded hp hs hq, if_neg h]

/-! ### The debugger -/

section
variable {fn i v : Nat} {s : State}

theorem exec_dbgPause (h : reaches fn (dbgP i + 0x80) s) (hv : bitOf v 0 = true) (hp : pstate i (dbgEnables i v s) = 1) :
    exec (.dbgPause fn i v) s = .next (pauseNow i (dbgEnables i v s)) := by
  show Host.Outcome.next (barWrite fn (dbgP i + 0x80) _ s) = _
  rw [barWrite_goes h, if_pos (by rw [hv, hp]; rfl)]

theorem exec_dbgResume (h : reaches fn (dbgP i + 0x80) s) (hv : bitOf v 1 = true) (hp : pstate i (dbgEnables i v s) = 5) :
    exec (.dbgResume fn i v) s = .next (setPstate i 1 (setSeq i (restall (dbgEnables i v s).now { seqOf i (dbgEnables i v s) with bpTaken := true })
      (dbgEnables i v s))) := by
  show Host.Outcome.next (barWrite fn (dbgP i + 0x80) _ s) = _
  rw [barWrite_goes h, if_pos (by rw [hv, hp]; rfl)]

theorem exec_dbgStep (h : reaches fn (dbgP i + 0x80) s) (hv : bitOf v 2 = true) (hp : pstate i (dbgEnables i v s) = 5) :
    exec (.dbgStep fn i v) s = .next (setSeq i { seqOf i (dbgEnables i v s) with stepReq := true } (dbgEnables i v s)) := by
  show Host.Outcome.next (barWrite fn (dbgP i + 0x80) _ s) = _
  rw [barWrite_goes h, if_pos (by rw [hv, hp]; rfl)]

/-- A pause takes effect unless a program fault is due at the command (R224). -/
theorem pauseNow_pauses (hf : faultAt i (cmdAt i (pcOf i s) s) s = none) :
    pauseNow i s = raise (seqP i) 21 (setPstate i 5 (setSeq i { seqOf i s with bpTaken := true } s)) := by
  unfold pauseNow
  rw [hf]

theorem pauseNow_faults {u : State} (hf : faultAt i (cmdAt i (pcOf i s) s) s = some u) : pauseNow i s = u := by
  unfold pauseNow
  rw [hf]

/-- What a commit of `d` leaves in the selected state `n` of a sequencer, where it names one (R233). -/
def dbgTakes (n d : Nat) (q : SeqSt) : Option SeqSt :=
  if n < 0x20 then some (setS q n ⟨BitVec.ofNat 64 d, false⟩)
  else if n < 0x28 then some { q with l := listSet q.l (n - 0x20) (BitVec.ofNat 32 d) }
  else if n = 0x28 then some { q with p := (List.range 8).map (fun k => bitOf d k) }
  else if 0x40 ≤ n ∧ n < 0x80 then some { q with tok := listSet q.tok (n - 0x40) (d % 256) }
  else none

/-- A commit into a paused program; elsewhere the write is refused. -/
def dbgCommitted (i d : Nat) (o : Option SeqSt) (s : State) : State :=
  match o with
  | some q => if pstate i s == 5 then setSeq i q (wr64 (dbgP i + 0x90) d { s with shadow := alErase s.shadow (dbgP i + 0x90) }) else raise (dbgP i) 3 s
  | none => raise (dbgP i) 3 s

theorem exec_dbgDataCommit (h : reaches fn (dbgP i + 0x94) s) : exec (.dbgDataCommit fn i v) s =
    .next (dbgCommitted i (commitVal (dbgP i + 0x90) v s) (dbgTakes (getF (dbgP i) DBG_SEL_SEL s) (commitVal (dbgP i + 0x90) v s) (seqOf i s)) s) := by
  show Host.Outcome.next (barWrite fn (dbgP i + 0x94) _ s) = _
  rw [barWrite_goes h]
  rfl

theorem commitVal_lt (a v : Nat) (s : State) : commitVal a v s < 2 ^ 64 := by
  unfold commitVal
  have := (alGetD s.shadow a (rdW a s)).isLt
  omega

/-- A commit leaves the taken sequencer, and the pair reads as what was committed. -/
theorem dbgCommitted_taken {d : Nat} {q : SeqSt} (hp : pstate i s = 5) (hd : d < 2 ^ 64) :
    seqOf i (dbgCommitted i d (some q) s) = q ∧ rd64 (dbgP i + 0x90) (dbgCommitted i d (some q) s) = d := by
  unfold dbgCommitted
  dsimp only
  rw [if_pos (by rw [hp]; rfl)]
  refine ⟨seqOf_setSeq_same .., (rd64_regs (setSeq_regs ..) _).trans ?_⟩
  rw [rd64_wr64_same, Nat.mod_eq_of_lt hd]

theorem dbgCommitted_refused {d : Nat} {o : Option SeqSt} (hp : pstate i s ≠ 5) : dbgCommitted i d o s = raise (dbgP i) 3 s := by
  unfold dbgCommitted
  cases o with
  | none => rfl
  | some q => exact if_neg (by simpa using hp)

end

section
variable {fn i v : Nat} {s : State}

/-- A commit takes what SEL selects. -/
theorem dbgDataCommit_takes {q : SeqSt} (h : reaches fn (dbgP i + 0x94) s) (hp : pstate i s = 5)
    (hq : dbgTakes (getF (dbgP i) DBG_SEL_SEL s) (commitVal (dbgP i + 0x90) v s) (seqOf i s) = some q) :
    ∃ t, exec (.dbgDataCommit fn i v) s = .next t ∧ seqOf i t = q ∧ rd64 (dbgP i + 0x90) t = commitVal (dbgP i + 0x90) v s := by
  refine ⟨_, exec_dbgDataCommit h, ?_⟩
  rw [hq]
  exact dbgCommitted_taken hp (commitVal_lt ..)

theorem dbgDataCommit_refused (h : reaches fn (dbgP i + 0x94) s) (hp : pstate i s ≠ 5) :
    exec (.dbgDataCommit fn i v) s = .next (raise (dbgP i) 3 s) := by
  rw [exec_dbgDataCommit h, dbgCommitted_refused hp]

theorem dbgDataCommit_nothing (h : reaches fn (dbgP i + 0x94) s)
    (hq : dbgTakes (getF (dbgP i) DBG_SEL_SEL s) (commitVal (dbgP i + 0x90) v s) (seqOf i s) = none) :
    exec (.dbgDataCommit fn i v) s = .next (raise (dbgP i) 3 s) := by
  rw [exec_dbgDataCommit h, hq]
  rfl

/-- What each value of SEL selects (R233). -/
theorem dbgTakes_s {n d : Nat} {q : SeqSt} (h : n < 0x20) : dbgTakes n d q = some (setS q n ⟨BitVec.ofNat 64 d, false⟩) := if_pos h
theorem dbgTakes_l {n d : Nat} {q : SeqSt} (h : 0x20 ≤ n) (h' : n < 0x28) :
    dbgTakes n d q = some { q with l := listSet q.l (n - 0x20) (BitVec.ofNat 32 d) } := by
  unfold dbgTakes; rw [if_neg (by omega), if_pos h']
theorem dbgTakes_p {n d : Nat} {q : SeqSt} (h : n = 0x28) : dbgTakes n d q = some { q with p := (List.range 8).map (fun k => bitOf d k) } := by
  unfold dbgTakes; rw [if_neg (by omega), if_neg (by omega), if_pos h]
theorem dbgTakes_tok {n d : Nat} {q : SeqSt} (h : 0x40 ≤ n) (h' : n < 0x80) :
    dbgTakes n d q = some { q with tok := listSet q.tok (n - 0x40) (d % 256) } := by
  unfold dbgTakes; rw [if_neg (by omega), if_neg (by omega), if_neg (by omega), if_pos ⟨h, h'⟩]
theorem dbgTakes_none {n d : Nat} {q : SeqSt} (h : 0x28 < n) (h' : n < 0x40 ∨ 0x80 ≤ n) : dbgTakes n d q = none := by
  unfold dbgTakes; rw [if_neg (by omega), if_neg (by omega), if_neg (by omega), if_neg (by omega)]

end

/-- Settles O24: the enables are written first, and the state of the program decides; a commit takes what SEL selects. -/
theorem theDebuggerActs : Obligations.TheDebuggerActs := by
  unfold Obligations.TheDebuggerActs
  intro fn i v s
  refine ⟨?enables, ?commit, dbgDataCommit_refused⟩
  case enables =>
    rintro h t rfl
    refine ⟨fun hv hp => ⟨fun hf => ?_, fun u hf => ?_⟩, exec_dbgResume h, exec_dbgStep h⟩
    · rw [exec_dbgPause h hv hp, pauseNow_pauses hf]
    · rw [exec_dbgPause h hv hp, pauseNow_faults hf]
  case commit =>
    rintro h hp n d rfl rfl
    exact ⟨fun h1 => dbgDataCommit_takes h hp (dbgTakes_s h1), fun h1 h2 => dbgDataCommit_takes h hp (dbgTakes_l h1 h2),
      fun h1 => dbgDataCommit_takes h hp (dbgTakes_p h1), fun h1 h2 => dbgDataCommit_takes h hp (dbgTakes_tok h1 h2),
      fun h1 h2 => dbgDataCommit_nothing h (dbgTakes_none h1 h2)⟩

/-! ### Streams and rings -/

/-- Offsets whose register exists on a rod's page name one of the 1,024 rods. -/
theorem rod_of_regSpec {i m o : Nat} (hm : m < 16) (ho : o < 0x1000) (h : (regSpec (rodP i + m * 0x1000 + o)).isSome = true) : i < 1024 := by
  refine Nat.lt_of_not_le fun hi => ?_
  have hnone : pageOf (rodP i + m * 0x1000 + o) = none := by
    unfold pageOf
    dsimp only
    generalize hn : (rodP i + m * 0x1000 + o) / 0x1000 = n
    replace hn : n = 0x1000 + i * 0x10 + m := by rw [rodP] at hn; omega
    iterate 24 rw [if_neg (by omega)]
  unfold regSpec at h
  rw [hnone] at h
  cases h

section
variable {fn i k v : Nat} {s : State}

/-- STRM_CTL's one field. -/
def strmCtlSpec : RSpec := ⟨0x080, [], .no, [fs 6 0 .rwl (.val 64) (.val 64) (.val 64)]⟩

theorem regSpec_strmCtl (h : (regSpec (strmP i + 0x80)).isSome = true) : regSpec (strmP i + 0x80) = some strmCtlSpec :=
  regSpec_kindBase (k := .strm) (rod_of_regSpec (m := 4) (by decide) (by decide) h) (by decide) (by decide)

theorem strmP_page (i : Nat) : 0x90000 ≤ strmP i ∧ strmP i % 0x1000 = 0 := by dsimp only [strmP, rodP]; omega

theorem exec_strmCtlWrite (h : reaches fn (strmP i + 0x80) s) :
    exec (.strmCtlWrite fn i v) s = .next (writeReg (strmP i + 0x80) (max 1 (min 64 (v % 128))) s) := by
  show Host.Outcome.next (barWrite fn (strmP i + 0x80) _ s) = _
  rw [barWrite_goes h]

/-- REQCAP takes its value on a page that is not locked, and nothing else changes (R447). -/
theorem strmCtl_taken {x : Nat} (hx : x < 128) (hr : regSpec (strmP i + 0x80) = some strmCtlSpec) (hl : flag (strmP i) PG_LOCK_LOCKED s = false) :
    getF (strmP i) STRM_CTL_REQCAP (writeReg (strmP i + 0x80) x s) = x
    ∧ (∀ a, canon a ≠ canon (strmP i + 0x80) → rdW a (writeReg (strmP i + 0x80) x s) = rdW a s)
    ∧ writeReg (strmP i + 0x80) x s = { s with regs := (writeReg (strmP i + 0x80) x s).regs } := by
  have hb : pageBase (strmP i + 0x80) = strmP i := pageBase_add (strmP_page i).2 (by decide)
  obtain ⟨hpair, hin⟩ := registerFieldsDoNotMeet _ _ hr
  rw [writeReg_free hr (by rw [hb, hl]; rfl) rfl, hb, hl]
  refine ⟨?_, fun a ha => rdW_wrW_ne _ _ ha, wrW_regsOnly ..⟩
  unfold getF
  rw [show strmP i + STRM_CTL_REQCAP.off = strmP i + 0x80 from rfl, rdW_wrW_same, BitVec.toNat_ofNat,
    Nat.mod_eq_of_lt (applyFields_lt hin (rdW (strmP i + 0x80) s).isLt)]
  refine (bitsOf_applyFields hpair (fun g hg => (hin g hg).1) (f := fs 6 0 .rwl (.val 64) (.val 64) (.val 64)) List.mem_cons_self).trans ?_
  show bitsOf x 6 0 = x
  unfold bitsOf
  omega

/-- A register of one lockable field on a locked page stays, and the page tells (R47). -/
theorem writeReg_locked {a x : Nat} {r : RSpec} {f : FSpec} (hr : regSpec a = some r) (hf : r.fields = [f]) (hacc : f.acc = .rwl) (hoff : f.offOnly = false)
    (hl : flag (pageBase a) PG_LOCK_LOCKED s = true) : writeReg a x s = raise (pageBase a) 2 (wrW a (rdW a s) s) := by
  have hstays (o : Bool) (y : Nat) : applyFields true o x [f] y = y := by
    unfold applyFields
    rw [List.foldl_cons, List.foldl_nil]
    unfold applyField
    rw [hacc]
    rfl
  unfold writeReg
  rw [hr]
  dsimp only
  rw [hf, hl, hstays, BitVec.ofNat_toNat, BitVec.setWidth_eq, if_neg (by simp [hoff]), if_pos (by simp [hacc])]

theorem exec_streamRequestIssue {x : Str} (hx : strOf i k s = some x) (hr : strRuns i k s = true) (hq : rodQuiet i s = false) :
    exec (.streamRequestIssue i k) s =
      (let s0 := if x.list then drainSignal i k (readEntries i k x.nxt 8 s) else s
       if !reqReady i k s0 then .next (readStep i k s0)
       else if !reqTurn i k s0 then .next s0
       else
         let s1 := setSeq i { seqOf i s0 with turn := (k + 1) % 8 } s0
         .next ((writeStep i k s1).getD (readStep i k s1))) := by
  show execStreamRequestIssue i k s = _
  unfold execStreamRequestIssue
  rw [hr, hq, hx]
  rfl

/-- The row of an answered request. -/
theorem exec_streamPageResponse {id off q : Nat} {late : Bool} {r : PReq} (hf : s.reqs.find? (fun r => r.id == id) = some r) (h3 : r.phase = 3)
    (hc : r.client = .stream i k q off) : exec (.streamPageResponse id late) s =
      (if keepRead r i k s then .next (freeReads i k (respond r i k off (updReq id (fun x => { x with phase := 5, data := [], bad := [] }) s)))
       else .next (respond r i k off (dropReq id i s))) := by
  show execStreamPageResponse id late s = _
  unfold execStreamPageResponse
  rw [hf]
  dsimp only
  rw [if_pos h3, hc]

theorem exec_streamPageResponse_orphan {id num : Nat} {late : Bool} {r : PReq} (hf : s.reqs.find? (fun r => r.id == id) = some r) (h3 : r.phase = 3)
    (hc : r.client = .orphan i k num) : exec (.streamPageResponse id late) s = .next (dropReq id i s) := by
  show execStreamPageResponse id late s = _
  unfold execStreamPageResponse
  rw [hf]
  dsimp only
  rw [if_pos h3, hc]

theorem exec_streamEnd {st : Nat} {x : Str} (hx : strOf i k s = some x) (hf : x.fin = some st) (hu : itemUnderWay i k s = false) :
    exec (.streamEnd i k) s = .next (completeNum i x.num (finishStream i k st s)) := by
  show execStreamEnd i k s = _
  unfold execStreamEnd
  rw [hx]
  dsimp only
  rw [hf]
  dsimp only
  rw [hu, if_neg Bool.false_ne_true]

/-- The phase of a ring decides where it goes on. -/
theorem exec_kringResume {num hn : Nat} {hs : List (List (Option Nat))} {c : Started} {r : Ring} (hc : startedBy i num s = some c)
    (hr : ringAt i num s = some (hn, r)) (hu : cwUnit c.cmd.word = 6) :
    ((c.aux[0]?).getD 0 = 1 → exec (.kringResume i num hs) s = .next (kvWork i num hs s))
    ∧ ((c.aux[0]?).getD 0 = 3 → exec (.kringResume i num hs) s = .next (kvCloseRing i hn num s (ringArrive i hn num r ⟨s, hs, none, false⟩))) := by
  constructor <;> intro hp
  all_goals
    show execKringResume i num hs s = _
    unfold execKringResume
    rw [hc, hr]
    dsimp only
    rw [if_neg (by omega), hp]
    rfl

end

/-- Settles O25: each row by its own condition. -/
theorem streamsAndRingsMoveOn : Obligations.StreamsAndRingsMoveOn := by
  unfold Obligations.StreamsAndRingsMoveOn
  refine ⟨?issue, fun id i k off q late r s hf h3 hc => ⟨fun hk => ?drop, fun hk => ?keep⟩, fun _ _ _ _ _ _ _ => exec_streamPageResponse_orphan,
    fun _ _ _ _ _ => exec_streamEnd, fun fn i v s h => ⟨fun hl => ?taken, fun hl => ?locked⟩, fun _ _ _ _ _ _ _ => exec_kringResume⟩
  case issue =>
    rintro i k x s s0 hx hr hq rfl
    rw [exec_streamRequestIssue hx hr hq]
    dsimp only
    generalize (if x.list = true then drainSignal i k (readEntries i k x.nxt 8 s) else s) = s0
    refine ⟨fun h => ?_, fun h1 h2 => ?_, fun h1 h2 => ?_⟩
    · rw [h]; rfl
    · rw [h1, h2]; rfl
    · rintro s1 rfl
      rw [h1, h2]
      constructor
      · intro t ht
        simp only [Bool.not_true, Bool.false_eq_true, if_false]
        rw [ht, Option.getD_some]
      · intro ht
        simp only [Bool.not_true, Bool.false_eq_true, if_false]
        rw [ht, Option.getD_none]
  case drop => rw [exec_streamPageResponse hf h3 hc, hk]; rfl
  case keep => rw [exec_streamPageResponse hf h3 hc, hk]; rfl
  case taken =>
    obtain ⟨hvalue, hothers, hrest⟩ := strmCtl_taken (x := max 1 (min 64 (v % 128))) (by omega) (regSpec_strmCtl h.2.1) hl
    exact ⟨_, exec_strmCtlWrite h, hvalue, hothers, hrest⟩
  case locked =>
    obtain ⟨hhigh, hmod⟩ := strmP_page i
    have hb : pageBase (strmP i + 0x80) = strmP i := pageBase_add hmod (by decide)
    have hlocked := writeReg_locked (x := max 1 (min 64 (v % 128))) (regSpec_strmCtl h.2.1) rfl rfl rfl (hb.symm ▸ hl)
    refine ⟨_, exec_strmCtlWrite h, ?_, ?_⟩
    · rw [hlocked, hb, rdW_raise_high _ _ _ (by omega) (by omega), rdW_wrW_same]
    · rw [hlocked, hb]
      exact (raise_shown (strmP i) 2 _ (by decide) hmod).1

end Sys2Proof.Machine
end

section
/-! PROOFS. Test access (chapter 22): the instructions of the package TAP, their refusal outside test mode, and the die instruments. -/
-- One theorem after another: elaborated side by side, each holds its memory while it waits for those before it.
set_option Elab.async false

namespace Sys2Proof.Machine

section
variable {s : State}

/-! ### Instructions -/

/-- In test mode an intrusive instruction has its effect. -/
theorem intrusive_acts {code ic drive : Nat} {k : State → State} (hu : tapUp s = true) (ht : testMode s = true) :
    intrusive code ic drive k s = k (loadIr code ic drive s) := by
  unfold intrusive
  rw [hu, ht]
  rfl

/-- Outside test mode it loads, is refused and acts as BYPASS (R1009). -/
theorem intrusive_refused {code ic drive : Nat} {k : State → State} (hu : tapUp s = true) (ht : testMode s = false) :
    intrusive code ic drive k s = shiftBypass (refuse code (loadIr code ic 0 s)) := by
  unfold intrusive
  rw [hu, ht]
  rfl

/-- What the loading of an instruction, its shift and its boundary leave. -/
theorem loadIr_eq (code ic drive : Nat) : loadIr code ic drive s = { s with tap := loadedTap code ic drive s } := rfl

theorem boundary_loaded (code ic drive pins din : Nat) : boundary pins din (loadIr code ic drive s) = { s with
    tap := { loadedTap code ic drive s with cells := din % 2 ^ 214 }, out := shifted (dieBits s ++ lsbFirst (pins % 2 ^ 214) 214) s } := rfl

theorem shiftOut_loaded (code ic drive n w : Nat) : shiftOut n w (loadIr code ic drive s) = { s with
    tap := loadedTap code ic drive s, out := shifted (dieBits s ++ lsbFirst n w) s } := rfl

theorem shiftBypass_loaded (code ic drive : Nat) : shiftBypass (loadIr code ic drive s) = { s with
    tap := loadedTap code ic drive s, out := shifted (allBits s) s } := rfl

/-- Settles O26: each instruction loads, captures and shifts. -/
theorem tapInstructionsCaptureAndShift : Obligations.TapInstructionsCaptureAndShift := by
  unfold Obligations.TapInstructionsCaptureAndShift
  intro ic pins din s hu
  have up {x y : State} : Host.Outcome.next (if tapUp s then x else y) = (.next x : Res) := congrArg Host.Outcome.next (if_pos hu)
  refine ⟨up.trans (congrArg _ (boundary_loaded ..)), up, up, up.trans (congrArg _ (shiftOut_loaded ..)), fun code hk => ?bypass, fun ht => ?test⟩
  case bypass =>
    exact (congrArg Host.Outcome.next (if_pos (by rw [hu, hk]; rfl))).trans (congrArg _ (shiftBypass_loaded ..))
  case test =>
    have acts {code drive : Nat} {k : State → State} : Host.Outcome.next (intrusive code ic drive k s) = (.next (k (loadIr code ic drive s)) : Res) :=
      congrArg Host.Outcome.next (intrusive_acts hu ht)
    exact ⟨acts.trans (congrArg _ (boundary_loaded ..)), acts.trans (congrArg _ (boundary_loaded ..)), acts.trans (congrArg _ (boundary_loaded ..)),
      acts.trans (congrArg _ (shiftBypass_loaded ..)), acts.trans (congrArg _ (shiftBypass_loaded ..)), fun ins cap => ⟨_, acts, rfl, rfl, rfl⟩⟩

/-! ### Refusal -/

/-- What a refusal shows and leaves (R1009). -/
theorem refuse_eq (code : Nat) : refuse code s = raise glbP 23 (setF glbP GLB_TEST_LAST_REFUSED code (setTap { s.tap with refused := true } s)) := rfl

theorem refuse_tap (code : Nat) : (refuse code s).tap = { s.tap with refused := true } := by
  rw [refuse_eq, raise_tap, setF_tap]
  rfl

theorem refuse_code {code : Nat} (hc : code < 256) : getF glbP GLB_TEST_LAST_REFUSED (refuse code s) = code := by
  rw [refuse_eq]
  generalize setTap { s.tap with refused := true } s = u
  obtain ⟨-, hstays, -⟩ := raise_shown glbP 23 (setF glbP GLB_TEST_LAST_REFUSED code u) (by decide) rfl
  rw [getF_of_rdW (p := glbP) (f := GLB_TEST_LAST_REFUSED) (hstays _ (by decide) (by decide) (by decide)), getF_setF_same _ _ (by decide) (by decide)]
  exact Nat.mod_eq_of_lt hc

theorem refuse_evt (code : Nat) : bitOf (rdW (glbP + 0x10) (refuse code s)).toNat 23 = true := by
  rw [refuse_eq]
  exact (raise_shown glbP 23 _ (by decide) rfl).1

theorem refuse_only (code : Nat) : EventsOnly (setTap { s.tap with refused := true } s) (refuse code s) := by
  rw [refuse_eq]
  exact (setF_only ..).trans (raise_only ..)

/-- What is sent after an event changes no more than the event. -/
theorem eventsOut {t u : State} (h : EventsOnly t u) (l : List Out) :
    { u with out := l } = { t with regs := u.regs, mgs := u.mgs, held := u.held, msix := u.msix, out := l } :=
  congrArg (fun x : State => { x with out := l }) h.rest

/-- The bypass bits of a TAP that a refusal has marked. -/
theorem bypass_shown {code ic : Nat} {u : State} (htap : u.tap = { loadedTap code ic 0 s with refused := true })
    (honly : EventsOnly (setTap { loadedTap code ic 0 s with refused := true } s) u) :
    (shiftBypass u).tap = { loadedTap code ic 0 s with refused := true } ∧ (shiftBypass u).regs = u.regs
    ∧ (shiftBypass u).out = u.out ++ [.tdo (allBits s)]
    ∧ shiftBypass u = { s with
        regs := (shiftBypass u).regs, mgs := (shiftBypass u).mgs, held := (shiftBypass u).held, msix := (shiftBypass u).msix
        out := (shiftBypass u).out, tap := (shiftBypass u).tap } := by
  have hbits : allBits u = allBits s := by
    unfold allBits chain
    rw [htap]
    rfl
  exact ⟨htap, rfl, by rw [← hbits]; rfl, (eventsOut honly (shiftBypass u).out).trans (by rw [← htap]; rfl)⟩

/-- An instruction that is refused loads and shifts bypass bits. -/
theorem refused_shown {code ic : Nat} (hc : code < 256) : ∃ t, shiftBypass (refuse code (loadIr code ic 0 s)) = t
    ∧ t.tap = { loadedTap code ic 0 s with refused := true } ∧ getF glbP GLB_TEST_LAST_REFUSED t = code
    ∧ bitOf (rdW (glbP + 0x10) t).toNat 23 = true ∧ (∃ o, t.out = o ++ [.tdo (allBits s)])
    ∧ t = { s with regs := t.regs, mgs := t.mgs, held := t.held, msix := t.msix, out := t.out, tap := t.tap } := by
  obtain ⟨htap, hregs, hout, hrest⟩ := bypass_shown (refuse_tap code) (refuse_only (s := loadIr code ic 0 s) code)
  exact ⟨_, rfl, htap, (getF_regs hregs _ _).trans (refuse_code hc), by rw [rdW_regs hregs]; exact refuse_evt code, ⟨_, hout⟩, hrest⟩

/-- Settles O27: the six intrusive instructions share one refusal. -/
theorem intrusiveAccessIsRefused : Obligations.IntrusiveAccessIsRefused := by
  unfold Obligations.IntrusiveAccessIsRefused
  intro ic pins din ins cap s hu ht c code hmem
  have act {drive : Nat} {k : State → State} (hx : exec c s = .next (intrusive code ic drive k s)) (hc : code < 256) :
      ∃ t, exec c s = .next t ∧ t.tap = { loadedTap code ic 0 s with refused := true } ∧ getF glbP GLB_TEST_LAST_REFUSED t = code
        ∧ bitOf (rdW (glbP + 0x10) t).toNat 23 = true ∧ (∃ o, t.out = o ++ [.tdo (allBits s)])
        ∧ t = { s with regs := t.regs, mgs := t.mgs, held := t.held, msix := t.msix, out := t.out, tap := t.tap } := by
    obtain ⟨t, rfl, h⟩ := refused_shown (ic := ic) (s := s) hc
    exact ⟨_, hx.trans (congrArg _ (intrusive_refused hu ht)), h⟩
  simp only [List.mem_cons, Prod.mk.injEq, List.not_mem_nil, or_false] at hmem
  rcases hmem with ⟨rfl, rfl⟩ | ⟨rfl, rfl⟩ | ⟨rfl, rfl⟩ | ⟨rfl, rfl⟩ | ⟨rfl, rfl⟩ | ⟨rfl, rfl⟩ <;> exact act rfl (by decide)

/-! ### Instruments -/

/-- An instrument of an included die acts in test mode. -/
theorem instrument_acts {d : Nat} {k : State → State} (hu : tapUp s = true) (hd : (chain s).contains d = true) (ht : testMode s = true) :
    instrument d k s = k s := by
  unfold instrument
  rw [hu, hd, ht]
  rfl

theorem exec_islandPwr {j : Nat} {on : Bool} (hj : j < 64) (hu : tapUp s = true) (hd : (chain s).contains 0 = true) (ht : testMode s = true)
    (hc : (islOf j s).cut = false) : exec (.islandPwr j on) s = .next (if on then islBoot j s else islOff j s) := by
  show execIslandPwr j on s = _
  unfold execIslandPwr
  rw [if_neg (by omega), instrument_acts hu hd ht, hc]
  rfl

theorem exec_rodLogicBist {p : Nat} {pass : Bool} (hp : p < 1088) (hu : tapUp s = true) (hd : (chain s).contains (1 + 9 * (p / 272)) = true)
    (ht : testMode s = true) (hw : physPowered p s = true) : exec (.rodLogicBist p pass) s = .next { s with out := shifted [pass] s } := by
  show execRodLogicBist p pass s = _
  unfold execRodLogicBist
  rw [if_neg (by omega), instrument_acts hu hd ht, if_pos hw]
  rfl

theorem exec_beadArrayMarch {m p : Nat} {fails : List Nat} (hp : p < 1088) (hm : m < 8) (hu : tapUp s = true)
    (hd : (chain s).contains (2 + 9 * (p / 272) + m) = true) (ht : testMode s = true) (hw : physPowered p s = true) :
    exec (.beadArrayMarch m p fails) s = .next { s with out := shifted (fails.flatMap (fun q => lsbFirst q 16)) s } := by
  show execBeadArrayMarch m p fails s = _
  unfold execBeadArrayMarch
  rw [if_neg (by omega), instrument_acts hu hd ht, if_pos hw]
  rfl

/-- IJTAG loads; its instrument then observes, waits for its own row, or is refused. -/
theorem exec_ijtag {ic d what raw : Nat} (hu : tapUp s = true) (hd : (chain s).contains d = true) : exec (.ijtag ic d what raw) s =
    (if what < 3 then .next (emit (.tdo (lsbFirst raw 32)) (loadIr 0x12 ic 0 s))
     else if testMode s then .next (loadIr 0x12 ic 0 s) else .next (refuse 0x12 (loadIr 0x12 ic 0 s))) := by
  have hd' : (chain (loadIr 0x12 ic 0 s)).contains d = true := hd
  show execIjtag ic d what raw s = _
  unfold execIjtag
  rw [hu]
  dsimp only
  rw [hd']
  rfl

theorem exec_laneMargin {d kind k width height : Nat} {ladder : Bool} (hu : tapUp s = true) (hd : (chain s).contains d = true)
    (h : ladder = false → marginCarries kind k s = true ∨ testMode s = true) : exec (.laneMargin d kind k width height ladder) s =
      .next (if ladder then { s with tap := { s.tap with aborted := true } } else { s with out := shifted (lsbFirst width 16 ++ lsbFirst height 16) s }) := by
  show execLaneMargin d kind k width height ladder s = _
  unfold execLaneMargin
  rw [hu, hd]
  cases ladder with
  | true => rfl
  | false =>
    dsimp only
    rw [if_neg (by decide), if_neg (by decide)]
    by_cases hc : marginCarries kind k s = true
    · exact if_pos hc
    · exact (if_neg hc).trans (if_pos ((h rfl).resolve_left hc))

end

/-- Settles O28: each instrument's guards hold, and what it shows shifts out. -/
theorem instrumentsObserveAndAct : Obligations.InstrumentsObserveAndAct := by
  unfold Obligations.InstrumentsObserveAndAct
  refine ⟨fun ic d what raw s hu hd => ⟨fun h => ?_, fun h ht => ?_, fun h ht => ?_⟩, fun j s hj hu hd ht hc => ⟨exec_islandPwr hj hu hd ht hc, exec_islandPwr hj hu hd ht hc⟩,
    fun _ _ _ => exec_rodLogicBist, fun _ _ _ _ => exec_beadArrayMarch, fun d kind k width height s hu hd => ⟨?_, fun h => ?_⟩, fun _ _ _ => rfl,
    fun s hu => congrArg Host.Outcome.next (if_pos hu)⟩
  · rw [exec_ijtag hu hd, if_pos h]; rfl
  · rw [exec_ijtag hu hd, if_neg (by omega), if_pos ht]; rfl
  · rw [exec_ijtag hu hd, if_neg (by omega), if_neg (by rw [ht]; exact Bool.false_ne_true)]; rfl
  · exact exec_laneMargin hu hd (fun h => by cases h)
  · exact exec_laneMargin hu hd (fun _ => h)

end Sys2Proof.Machine
end

section
/-! PROOFS. Voltage commands, regulators, pace windows and calibrations (chapter 3). -/
-- One theorem after another: elaborated side by side, each holds its memory while it waits for those before it.
set_option Elab.async false

namespace Sys2Proof.Machine

/-! ### Voltage commands -/

section
variable {j : Nat} {s : State}

theorem islP_high (j : Nat) : 0x90000 ≤ islP j ∧ islP j % 0x1000 = 0 := by dsimp only [islP]; omega

/-- Registers of an island's page stand apart from one another. -/
theorem canon_islP {a o : Nat} (h : a ≠ islP j + o) : canon a ≠ canon (islP j + o) :=
  canon_ne_high (by have := (islP_high j).1; omega) h

theorem rdW_showMv {a : Nat} (mv : Nat) (h : a ≠ islP j + 0x90) : rdW a (showMv j mv s) = rdW a s := rdW_setF_ne _ _ (canon_islP h)

theorem getF_showMv {f : Field} (mv : Nat) (h : f.off ≠ 0x90) : getF (islP j) f (showMv j mv s) = getF (islP j) f s :=
  getF_of_rdW (rdW_showMv mv (by omega))

theorem mv_showMv (mv : Nat) : getF (islP j) ISL_VNOW_MV (showMv j mv s) = min mv 1023 := by
  refine (getF_setF_same _ _ (by decide) (by decide)).trans (Nat.mod_eq_of_lt ?_)
  show min mv 1023 < 1024
  omega

theorem islOf_isls {t : State} (h : t.isls = s.isls) (k : Nat) : islOf k t = islOf k s := by unfold islOf; rw [h]

theorem islOf_showMv (mv k : Nat) : islOf k (showMv j mv s) = islOf k s := islOf_isls rfl k
theorem islOf_raise (p b k : Nat) : islOf k (raise p b s) = islOf k s := islOf_isls (by rw [(raise_only p b s).rest]) k
theorem islOf_setIsl_same (x : IslX) : islOf j (setIsl j x s) = x := alPut_read_same _ _ _ _
theorem islOf_setIsl_ne {k : Nat} (x : IslX) (h : k ≠ j) : islOf k (setIsl j x s) = islOf k s := by
  show (alGet (alPut IslX.cold s.isls j x) k).getD IslX.cold = _
  rw [alPut_read_ne _ _ _ h]
  rfl

theorem islOf_setF (p : Nat) (f : Field) (v k : Nat) : islOf k (setF p f v s) = islOf k s := islOf_isls rfl k

/-- A refusal shows its status with SEQ 0 (R125). -/
theorem islRefuse_shown {st : Nat} (hst : st < 256) : getF (islP j) ISL_CMD_STAT_STATUS (islRefuse j st s) = st
    ∧ getF (islP j) ISL_CMD_STAT_SEQ (islRefuse j st s) = 0 ∧ (∀ a, a ≠ islP j + 0x88 → rdW a (islRefuse j st s) = rdW a s)
    ∧ (∀ k, islOf k (islRefuse j st s) = islOf k s) := by
  unfold islRefuse
  refine ⟨?_, getF_setF_same _ _ (by decide) (by decide), fun a h => ?_, fun k => by rw [islOf_setF, islOf_setF]⟩
  · rw [getF_setF_beside (f := ISL_CMD_STAT_STATUS) (g := ISL_CMD_STAT_SEQ) _ _ rfl (by decide) (by decide) (.inr (by decide)),
      getF_setF_same _ _ (by decide) (by decide)]
    exact Nat.mod_eq_of_lt hst
  · rw [rdW_setF_ne (f := ISL_CMD_STAT_SEQ) _ _ (canon_islP h), rdW_setF_ne (f := ISL_CMD_STAT_STATUS) _ _ (canon_islP h)]

/-- The state after a rejection; one for want of manual control tells (R1027). -/
def islRejected (j st : Nat) (s : State) : State := if st = 3 then raise (islP j) 19 (islRefuse j st s) else islRefuse j st s

theorem islRejected_shown {st : Nat} (hst : st < 256) : getF (islP j) ISL_CMD_STAT_STATUS (islRejected j st s) = st
    ∧ getF (islP j) ISL_CMD_STAT_SEQ (islRejected j st s) = 0
    ∧ (∀ a, 0x90000 ≤ a → a ≠ islP j + 0x88 → a ≠ islP j + 0x10 → rdW a (islRejected j st s) = rdW a s)
    ∧ (∀ k, islOf k (islRejected j st s) = islOf k s) := by
  obtain ⟨hstatus, hseq, hregs, hisl⟩ := islRefuse_shown (j := j) (s := s) hst
  obtain ⟨hhigh, hmod⟩ := islP_high j
  unfold islRejected
  split
  · have evt (a : Nat) (ha : 0x90000 ≤ a) (h : a ≠ islP j + 0x10) : rdW a (raise (islP j) 19 (islRefuse j st s)) = rdW a (islRefuse j st s) :=
      rdW_raise _ _ _ (canon_islP h) (by rw [canon_high ha]; omega) (by rw [canon_high ha]; omega)
    exact ⟨(getF_of_rdW (p := islP j) (f := ISL_CMD_STAT_STATUS) (evt _ (by show 0x90000 ≤ islP j + 0x88; omega) (by show islP j + 0x88 ≠ _; omega))).trans hstatus,
      (getF_of_rdW (p := islP j) (f := ISL_CMD_STAT_SEQ) (evt _ (by show 0x90000 ≤ islP j + 0x88; omega) (by show islP j + 0x88 ≠ _; omega))).trans hseq,
      fun a ha h h' => (evt a ha h').trans (hregs a h), fun k => (islOf_raise _ _ k).trans (hisl k)⟩
  · exact ⟨hstatus, hseq, fun a _ h _ => hregs a h, hisl⟩

/-- The status of every rejection fits its field. -/
theorem islReject_lt {host : Bool} {st : Nat} (h : islReject j host s = some st) : st < 256 := by
  unfold islReject at h
  dsimp only at h
  split at h
  · cases h; decide
  · split at h
    · cases h; decide
    · split at h
      · cases h; decide
      · split at h
        · cases h; decide
        · cases h

theorem exec_islCmd {fn v m : Nat} (h : reaches fn (islP j + 0x84) s) : exec (.islCmd fn j v m) s =
    .next (islCommand j (v % 256) 2 (if (islOf j s).powered then m else 0) (showMv j (if (islOf j s).powered then m else 0) s)) := by
  show Host.Outcome.next (barWrite fn (islP j + 0x84) _ s) = _
  rw [barWrite_goes h]

/-- The rods of an island are rods of the package. -/
theorem islandRods_lt {i : Nat} (hj : j < 64) (h : i ∈ islandRods j) : i < 1024 := by
  unfold islandRods rodAt at h
  simp only [List.mem_map, List.mem_range] at h
  obtain ⟨y, hy, x, hx, rfl⟩ := h
  omega

/-- What decides a command does not depend on the output that is shown. -/
theorem islAbsent_showMv (hj : j < 64) (mv : Nat) : islAbsent j (showMv j mv s) = islAbsent j s := by
  have glb (f : Field) (h : f.off < 0x1000) : getF glbP f (showMv j mv s) = getF glbP f s :=
    getF_of_rdW (rdW_showMv mv (by have := islP_high j; show 0 + f.off ≠ _; omega))
  have hmapped : rodsMapped (showMv j mv s) = rodsMapped s := by
    unfold rodsMapped
    rw [glb _ (by decide), glb _ (by decide)]
  unfold islAbsent
  rw [hmapped]
  congr 1
  rw [Bool.eq_iff_iff, List.all_eq_true, List.all_eq_true]
  refine forall₂_congr fun i hi => ?_
  have := islandRods_lt hj hi
  unfold rodAbsent
  rw [glb _ (by show 0x100 + 4 * rodY i < 0x1000; unfold rodY; omega)]

theorem islReject_showMv (hj : j < 64) (host : Bool) (mv : Nat) : islReject j host (showMv j mv s) = islReject j host s := by
  have off (q : Nat) (f : Field) (h : q + f.off ≠ islP j + 0x90) : flag q f (showMv j mv s) = flag q f s := by
    unfold flag
    rw [getF_of_rdW (rdW_showMv mv h)]
  have hvr : flag (islP j) ISL_FLAGS_VR_FAULT (showMv j mv s) = flag (islP j) ISL_FLAGS_VR_FAULT s :=
    off _ _ (by show islP j + 0x9C ≠ _; omega)
  have hman : flag (islP j) ISL_CTL_MANUAL (showMv j mv s) = flag (islP j) ISL_CTL_MANUAL s :=
    off _ _ (by show islP j + 0x80 ≠ _; omega)
  have hshut : shutdownOn (showMv j mv s) = shutdownOn s := off _ _ (by show 0x90000 + 0xA0 ≠ _; dsimp only [islP]; omega)
  unfold islReject
  rw [hvr, hman, hshut, islOf_showMv, islAbsent_showMv hj]

/-! ### A command that takes force -/

/-- The next sequence number of a command, which skips 0 (R124). -/
def nextSeq (old : Nat) : Nat := if old = 0xFFFF then 1 else old + 1

/-- The state after a command that is neither clamped nor capped, over a settled island. -/
def islTaken (j code src mv : Nat) (s : State) : State :=
  let seq := nextSeq (getF (islP j) ISL_VSTAT_SEQ s)
  let dir := if mvDist mv (5 * code) ≤ 10 then 0 else if mv < 5 * code then 1 else 2
  let s4 := setF (islP j) ISL_VSTAT_SEQ seq (setF (islP j) ISL_VSTAT_SRC src (setF (islP j) ISL_VSTAT_DIR dir (setF (islP j) ISL_VSTAT_TARGET code s)))
  setIsl j { islOf j s with unsettled := true, ramping := false } (showMv j mv (setF (islP j) ISL_CMD_STAT_SEQ seq (setF (islP j) ISL_CMD_STAT_STATUS 0 s4)))

theorem islAccept_fits {code src mv : Nat} (hf : fits j code s) (hu : (islOf j s).unsettled = false) : islAccept j code src mv s = islTaken j code src mv s := by
  obtain ⟨hlo, hhi, hcap⟩ := hf
  unfold islAccept
  dsimp only
  rw [if_neg (show ¬ code < 120 by omega), if_neg (show ¬ code > 190 by omega)]
  dsimp only
  rw [if_neg (show ¬ (getF (islP j) ISL_THERMCAP_CEILING s ≠ 0 ∧ code > getF (islP j) ISL_THERMCAP_CEILING s) by omega)]
  dsimp only
  rw [hu, if_neg Bool.false_ne_true]
  rfl

theorem nextSeq_lt {n : Nat} (h : n < 65536) : nextSeq n < 65536 := by unfold nextSeq; split <;> omega

/-- Within a register, a field beside those that are written later keeps its value. -/
theorem islTaken_shown {code mv : Nat} (hc : code < 256) :
    getF (islP j) ISL_VSTAT_TARGET (islTaken j code 2 mv s) = code ∧ getF (islP j) ISL_VSTAT_SRC (islTaken j code 2 mv s) = 2
    ∧ getF (islP j) ISL_VSTAT_SEQ (islTaken j code 2 mv s) = nextSeq (getF (islP j) ISL_VSTAT_SEQ s)
    ∧ getF (islP j) ISL_CMD_STAT_STATUS (islTaken j code 2 mv s) = 0
    ∧ getF (islP j) ISL_CMD_STAT_SEQ (islTaken j code 2 mv s) = nextSeq (getF (islP j) ISL_VSTAT_SEQ s) := by
  have hseq : nextSeq (getF (islP j) ISL_VSTAT_SEQ s) < 65536 := nextSeq_lt (bitsOf_lt _ _ _)
  unfold islTaken
  dsimp only
  generalize nextSeq (getF (islP j) ISL_VSTAT_SEQ s) = seq at hseq
  generalize (if mvDist mv (5 * code) ≤ 10 then 0 else if mv < 5 * code then 1 else 2) = dir
  obtain ⟨t, ht⟩ : ∃ t, t = setF (islP j) ISL_VSTAT_SEQ seq (setF (islP j) ISL_VSTAT_SRC 2 (setF (islP j) ISL_VSTAT_DIR dir
      (setF (islP j) ISL_VSTAT_TARGET code s))) := ⟨_, rfl⟩
  rw [← ht]
  have shown {f : Field} (h : f.off ≠ 0x90) (u : State) (x : IslX) : getF (islP j) f (setIsl j x (showMv j mv u)) = getF (islP j) f u :=
    (getF_regs (setIsl_regs ..) _ _).trans (getF_showMv mv h)
  have vstat {f : Field} (h : f.off = 0x8C) (x : IslX) : getF (islP j) f (setIsl j x (showMv j mv (setF (islP j) ISL_CMD_STAT_SEQ seq
      (setF (islP j) ISL_CMD_STAT_STATUS 0 t)))) = getF (islP j) f t := by
    rw [shown (by omega), getF_setF_ne (g := ISL_CMD_STAT_SEQ) _ _ (canon_islP (by rw [h]; show islP j + 0x8C ≠ islP j + 0x88; omega)),
      getF_setF_ne (g := ISL_CMD_STAT_STATUS) _ _ (canon_islP (by rw [h]; show islP j + 0x8C ≠ islP j + 0x88; omega))]
  refine ⟨?_, ?_, ?_, ?_, ?_⟩
  · rw [vstat rfl, ht, getF_setF_beside (f := ISL_VSTAT_TARGET) (g := ISL_VSTAT_SEQ) _ _ rfl (by decide) (by decide) (.inr (by decide)),
      getF_setF_beside (f := ISL_VSTAT_TARGET) (g := ISL_VSTAT_SRC) _ _ rfl (by decide) (by decide) (.inr (by decide)),
      getF_setF_beside (f := ISL_VSTAT_TARGET) (g := ISL_VSTAT_DIR) _ _ rfl (by decide) (by decide) (.inr (by decide)), getF_setF_same _ _ (by decide) (by decide)]
    exact Nat.mod_eq_of_lt hc
  · rw [vstat rfl, ht, getF_setF_beside (f := ISL_VSTAT_SRC) (g := ISL_VSTAT_SEQ) _ _ rfl (by decide) (by decide) (.inr (by decide)),
      getF_setF_same _ _ (by decide) (by decide)]
    rfl
  · rw [vstat rfl, ht, getF_setF_same _ _ (by decide) (by decide)]
    exact Nat.mod_eq_of_lt hseq
  · rw [shown (by decide), getF_setF_beside (f := ISL_CMD_STAT_STATUS) (g := ISL_CMD_STAT_SEQ) _ _ rfl (by decide) (by decide) (.inr (by decide)),
      getF_setF_same _ _ (by decide) (by decide)]
    rfl
  · rw [shown (by decide), getF_setF_same _ _ (by decide) (by decide)]
    exact Nat.mod_eq_of_lt hseq

theorem rdW_islTaken {a code mv : Nat} (h1 : a ≠ islP j + 0x8C) (h2 : a ≠ islP j + 0x88) (h3 : a ≠ islP j + 0x90) :
    rdW a (islTaken j code 2 mv s) = rdW a s := by
  unfold islTaken
  dsimp only
  refine (rdW_regs (setIsl_regs ..) _).trans ((rdW_showMv _ h3).trans ?_)
  rw [rdW_setF_ne (f := ISL_CMD_STAT_SEQ) _ _ (canon_islP h2), rdW_setF_ne (f := ISL_CMD_STAT_STATUS) _ _ (canon_islP h2),
    rdW_setF_ne (f := ISL_VSTAT_SEQ) _ _ (canon_islP h1), rdW_setF_ne (f := ISL_VSTAT_SRC) _ _ (canon_islP h1),
    rdW_setF_ne (f := ISL_VSTAT_DIR) _ _ (canon_islP h1), rdW_setF_ne (f := ISL_VSTAT_TARGET) _ _ (canon_islP h1)]

theorem islOf_islTaken (code mv : Nat) : islOf j (islTaken j code 2 mv s) = { islOf j s with unsettled := true, ramping := false } := islOf_setIsl_same _

theorem islOf_islTaken_ne {k : Nat} (code mv : Nat) (h : k ≠ j) : islOf k (islTaken j code 2 mv s) = islOf k s := by
  unfold islTaken
  rw [islOf_setIsl_ne _ h, islOf_showMv, islOf_setF, islOf_setF, islOf_setF, islOf_setF, islOf_setF, islOf_setF]

end

/-- Settles O29: the rejections are judged before the output is shown matters; what a rejection and an acceptance write is followed field by field. -/
theorem voltageCommandsAreJudged : Obligations.VoltageCommandsAreJudged := by
  unfold Obligations.VoltageCommandsAreJudged
  rintro fn j v m s hj h mv rfl
  generalize hmv : (if (islOf j s).powered then m else 0) = mv
  have hx := exec_islCmd (v := v) (m := m) h
  rw [hmv] at hx
  refine ⟨fun st hst => ?rejected, fun hn hf hu => ?taken, fun hn => ?accepted⟩
  case rejected =>
    have hcmd : islCommand j (v % 256) 2 mv (showMv j mv s) = islRejected j st (showMv j mv s) := by
      unfold islCommand
      rw [show ((2 : Nat) == 2) = true from rfl, islReject_showMv hj, hst]
      rfl
    obtain ⟨hhigh, hmod⟩ := islP_high j
    obtain ⟨hstatus, hseq, hregs, hisl⟩ := islRejected_shown (j := j) (s := showMv j mv s) (islReject_lt hst)
    refine ⟨_, hx.trans (congrArg _ hcmd), hstatus, hseq, ?_, ?_, (hisl j).trans (islOf_showMv ..), fun a ha h1 h2 h3 => ?_⟩
    · exact (getF_of_rdW (p := islP j) (f := ISL_VNOW_MV) (hregs _ (by show 0x90000 ≤ islP j + 0x90; omega) (by show islP j + 0x90 ≠ _; omega)
        (by show islP j + 0x90 ≠ _; omega))).trans (mv_showMv mv)
    · exact (getF_of_rdW (p := islP j) (f := ISL_VSTAT_TARGET) (hregs _ (by show 0x90000 ≤ islP j + 0x8C; omega) (by show islP j + 0x8C ≠ _; omega)
        (by show islP j + 0x8C ≠ _; omega))).trans (getF_showMv mv (by decide))
    · exact (hregs a ha h1 h3).trans (rdW_showMv mv h2)
  case taken =>
    have hfits : fits j (v % 256) (showMv j mv s) := by
      obtain ⟨hlo, hhi, hcap⟩ := hf
      exact ⟨hlo, hhi, by rw [getF_showMv mv (by decide)]; exact hcap⟩
    have hcmd : islCommand j (v % 256) 2 mv (showMv j mv s) = islTaken j (v % 256) 2 mv (showMv j mv s) := by
      unfold islCommand
      rw [show ((2 : Nat) == 2) = true from rfl, islReject_showMv hj, hn]
      exact islAccept_fits hfits (by rw [islOf_showMv]; exact hu)
    obtain ⟨htarget, hsrc, hseq, hstatus, hstat⟩ := islTaken_shown (j := j) (mv := mv) (s := showMv j mv s) (Nat.mod_lt v (by decide : 0 < 256))
    have hold : getF (islP j) ISL_VSTAT_SEQ (showMv j mv s) = getF (islP j) ISL_VSTAT_SEQ s := getF_showMv mv (by decide)
    rw [hold] at hseq hstat
    refine ⟨_, hx.trans (congrArg _ hcmd), htarget, hsrc, hseq, hstatus, hstat.trans hseq.symm, ?_, fun k hk => ?_, fun a ha => ?_⟩
    · rw [islOf_islTaken, islOf_showMv]
    · rw [islOf_islTaken_ne _ _ hk, islOf_showMv]
    · simp only [List.mem_cons, List.not_mem_nil, or_false, not_or] at ha
      obtain ⟨h1, h2, -, h3⟩ := ha
      exact (rdW_islTaken h1 h2 h3).trans (rdW_showMv mv h3)
  case accepted =>
    rw [hx]
    unfold islCommand
    rw [show ((2 : Nat) == 2) = true from rfl, islReject_showMv hj, hn]

/-! ### Regulators -/

section
variable {j mv : Nat} {s : State}

theorem exec_ivrRampStart (hu : (islOf j s).unsettled = true) (hr : (islOf j s).ramping = false) (hp : (islOf j s).powered = true) :
    exec (.ivrRampStart j mv) s = .next (showMv j mv (setIsl j { islOf j s with ramping := true, rampAt := s.now, rampFrom := mv, stuck := false } s)) :=
  congrArg Host.Outcome.next (if_pos (by rw [hu, hr, hp]; rfl))

theorem exec_settled (hu : (islOf j s).unsettled = true) (hp : (islOf j s).powered = true) (hd : mvDist mv (5 * getF (islP j) ISL_VSTAT_TARGET s) ≤ 10) :
    exec (.settled j mv) s = .next (islandsGo ((islandRods j).foldl (fun t i => if rodsMapped t then calMoved i mv t else t)
      (raise (islP j) 16 (setIsl j { islOf j s with unsettled := false, ramping := false, gaveUp := false, recover := (islOf j s).recover && (islOf j s).reinit }
        (setF (islP j) ISL_SETTLED_TARGET (getF (islP j) ISL_VSTAT_TARGET s) (setF (islP j) ISL_SETTLED_SEQ (getF (islP j) ISL_VSTAT_SEQ s)
          (setF (islP j) ISL_VSTAT_DIR 0 (showMv j mv s)))))))) := by
  show execSettled j mv s = _
  unfold execSettled
  dsimp only
  rw [if_neg]
  rw [hu, hp, decide_eq_false (by omega)]
  exact Bool.false_ne_true

/-- The record of a slow regulator; bring-up decides what follows (R152, R930). -/
theorem exec_vrSlow (hu : (islOf j s).unsettled = true) (hp : (islOf j s).powered = true) : exec (.vrSlow j mv) s =
    (let u := recordCE (islP j) 0x0401 0 (islLoc j mv) (measureMv j mv (waitTill (slowAt j s) s))
     if stageIslands s then
       if (islOf j s).repeated then .next (islandsGo (setIsl j { islOf j u with gaveUp := true } u))
       else .next (islBoot j (setIsl j { islOf j u with repeated := true } u))
     else if atStage 16 s && !s.boot.coldPass then .next (setIsl j { islOf j u with gaveUp := true } u)
     else .next u) := by
  show execVrSlow j mv s = _
  unfold execVrSlow
  dsimp only
  rw [if_neg]
  rw [hu, hp]
  exact Bool.false_ne_true

theorem exec_vrUnder (hp : (islOf j s).powered = true) (hm : mv < 570) : exec (.vrUnder j mv) s =
    (let u := recordErr (islP j) 0x0402 2 0 (islLoc j mv) false (measureMv j mv s)
     let v := (islandRods j).foldl (fun t i => if rodsMapped t && !rodAbsent i t then islFault j i t else t)
       (raise (islP j) 21 (setF (islP j) ISL_FLAGS_VR_FAULT 1 (setIsl j { islOf j u with recover := true, reinit := true } u)))
     .next (if mstate v = 1 ∨ mstate v = 3 then islRecover j v else v)) := by
  show execVrUnder j mv s = _
  unfold execVrUnder
  dsimp only
  rw [if_neg, apply_ite Host.Outcome.next]
  rw [hp, decide_eq_false (by omega)]
  exact Bool.false_ne_true

theorem exec_vrOver (hp : (islOf j s).powered = true) (hm : 980 < mv) :
    exec (.vrOver j mv) s = .next (recordErr (islP j) 0x0403 3 0 (islLoc j mv) false (raise (islP j) 21 (setF (islP j) ISL_FLAGS_VR_FAULT 1
      (measureMv j 0 (setIsl j { islOf j s with cut := true, unsettled := false, ramping := false } s))))) := by
  show execVrOver j mv s = _
  unfold execVrOver
  dsimp only
  rw [if_neg]
  rw [hp, decide_eq_false (by omega)]
  exact Bool.false_ne_true

theorem exec_islandStable (hp : (islOf j s).powered = true) :
    exec (.islandStable j mv) s = .next ((islandRods j).foldl (fun t i => if rodsMapped t then calMoved i mv t else t) (measureMv j mv s)) := by
  show execIslandStable j mv s = _
  unfold execIslandStable
  rw [if_neg]
  rw [hp]
  exact Bool.false_ne_true

theorem exec_islFlagsVrFaultClear {fn v : Nat} (h : reaches fn (islP j + 0x9C) s) : exec (.islFlagsVrFaultClear fn j v) s =
    .next (writeReg (islP j + 0x9C) (if (islOf j s).recover || (islOf j s).cut then v % 8 else v) s) := by
  show Host.Outcome.next (barWrite fn (islP j + 0x9C) _ s) = _
  rw [barWrite_goes h]

end

/-- Settles O30: each row past its guards. -/
theorem regulatorsAct : Obligations.RegulatorsAct := by
  unfold Obligations.RegulatorsAct
  intro j mv s
  refine ⟨exec_ivrRampStart, exec_settled, ?slow, ?under, exec_vrOver, exec_islandStable, fun fn v h => ?manual, fun fn v h hf => ?held, fun fn v h hr hc => ?clear⟩
  case slow =>
    rintro hu hp u rfl
    rw [exec_vrSlow hu hp]
    dsimp only
    generalize recordCE (islP j) 0x0401 0 (islLoc j mv) (measureMv j mv (waitTill (slowAt j s) s)) = u
    refine ⟨fun h1 h2 => ?_, fun h1 h2 h3 => ?_, fun h1 h2 => ?_, fun h1 h2 => ?_⟩
    · rw [if_neg (by rw [h1]; exact Bool.false_ne_true), if_neg]
      rcases h2 with h2 | h2 <;> simp [h2]
    · rw [if_neg (by rw [h1]; exact Bool.false_ne_true), if_pos (by rw [h2, h3]; rfl)]
    · rw [if_pos h1, if_neg (by rw [h2]; exact Bool.false_ne_true)]
    · rw [if_pos h1, if_pos h2]
  case under =>
    rintro hp hm u v rfl rfl
    exact exec_vrUnder hp hm
  case manual =>
    show Host.Outcome.next (barWrite fn (islP j + 0x80) _ s) = _
    rw [barWrite_goes h]
  case held =>
    rw [exec_islFlagsVrFaultClear h, if_pos]
    rcases hf with hf | hf <;> simp [hf]
  case clear => rw [exec_islFlagsVrFaultClear h, hr, hc, if_neg (by decide)]

/-! ### Calibrations -/

section
variable {i c hold : Nat} {s : State}

theorem exec_calibrationDone (hc : c < 2) (hb : (calOf i c s).busy = true) : exec (.calibrationDone i c hold) s =
    .next (calTry i (showCal i c false (setCal i c { calOf i c (calibrated i c hold s) with busy := false } (calibrated i c hold s)))) := by
  show execCalibrationDone i c hold s = _
  unfold execCalibrationDone
  rw [Nat.mod_eq_of_lt hc]
  dsimp only
  rw [if_neg (by rw [hb]; exact Bool.false_ne_true)]
  rfl

theorem exec_chanRetrainDone (hc : c < 2) (hr : (calOf i c s).retrain = true) (ok : Bool) : exec (.chanRetrainDone i c ok hold) s =
    (if ok then .next (calTry i (calRecord i c hold (showRetraining (setCal i c { calOf i c s with retrain := false } s))))
     else .next (calTry i (chanDown i c (showRetraining (setCal i c { calOf i c s with retrain := false } s))))) := by
  show execChanRetrainDone i c ok hold s = _
  unfold execChanRetrainDone
  rw [Nat.mod_eq_of_lt hc]
  dsimp only
  rw [if_neg (by rw [hr]; exact Bool.false_ne_true)]

end

/-- Settles O32: each row once its mark stands. -/
theorem channelsCalibrate : Obligations.ChannelsCalibrate := by
  unfold Obligations.ChannelsCalibrate
  intro i c hold s hc
  have hm : c % 2 = c := Nat.mod_eq_of_lt hc
  refine ⟨fun h => ?periodic, exec_calibrationDone hc, fun h => ?timeout, fun h => ?retry, fun h => exec_chanRetrainDone hc h true,
    fun h => (exec_chanRetrainDone hc h false).trans (if_neg Bool.false_ne_true)⟩
  case periodic =>
    show execCalibrationPeriodic i c s = _
    unfold execCalibrationPeriodic
    rw [hm, if_pos h]
  case timeout =>
    show execCalibrationTimeout i c s = _
    unfold execCalibrationTimeout
    rw [hm, if_pos h]
  case retry =>
    show execCalRetry i c s = _
    unfold execCalRetry
    rw [hm]
    exact congrArg Host.Outcome.next (if_pos h)

end Sys2Proof.Machine
end

section
/-! PROOFS. Thermal limits and pace: the fast limiter, thresholds, the cap, a shutdown's clear and a ceiling that relaxes; sensors, the policy
engine, the estimator, quiet slices, shutdown and trip; and what a pace window leaves in its registers. -/
-- One theorem after another: elaborated side by side, each holds its memory while it waits for those before it.
set_option Elab.async false

namespace Sys2Proof.Machine

variable {s : State}

/-! ### The fast limiter -/

/-- Waiting for a row's moment changes package time only. -/
theorem waitEvery_eq (period : Nat) (last : Option Nat) (s : State) :
    waitEvery period last s = { s with now := (waitEvery period last s).now } := by
  cases last <;> rfl

theorem getF_waitEvery (period : Nat) (last : Option Nat) (p : Nat) (f : Field) : getF p f (waitEvery period last s) = getF p f s :=
  getF_regs (by rw [waitEvery_eq]) p f

/-- The state in which a sample of the power meter is judged. -/
def metered (s : State) : State :=
  let u := waitEvery 10000 s.thm.meterAt s
  setThm { u.thm with meterAt := some u.now } u

theorem getF_metered (p : Nat) (f : Field) : getF p f (metered s) = getF p f s := getF_waitEvery _ _ _ _

/-- What a sample does in the state in which it is judged. -/
def meterJudged (mw cap d : Nat) (t : State) : Res :=
  if 100 * mw > 110 * cap then
    if t.thm.hiRun + 1 < 10 then .next (setThm { t.thm with hiRun := t.thm.hiRun + 1, loRun := 0 } t)
    else .next ((List.range 64).foldl (fun t j => showCeiling j t) (recordCE (thmP 1) 0x0303 0 0 (raise (thmP 1) 21
      (setF (thmP 1) THM_LIMIT_ACTIVE 1 (bump (thmP 1) THM_LIMIT_COUNT 1 (bump (thmP 1) THM_LIMIT_DEPTH 5
        (setThm { t.thm with hiRun := 0, loRun := 0 } t)))))))
  else if 100 * mw < 95 * cap then
    if d = 0 then .next (setThm { t.thm with hiRun := 0, loRun := 0 } t)
    else if t.thm.loRun + 1 < 100 then .next (setThm { t.thm with hiRun := 0, loRun := t.thm.loRun + 1 } t)
    else .next ((List.range 64).foldl (fun t j => showCeiling j t) (setF (thmP 1) THM_LIMIT_ACTIVE (b2n (decide (5 < d)))
      (setF (thmP 1) THM_LIMIT_DEPTH (d - 5) (setThm { t.thm with hiRun := 0, loRun := 0 } t))))
  else .next (setThm { t.thm with hiRun := 0, loRun := 0 } t)

theorem exec_powerMeterSample (mw : Nat) : exec (.powerMeterSample mw) s =
    meterJudged mw (getF (thmP 1) THM_CAP_WATTS s * 1000) (getF (thmP 1) THM_LIMIT_DEPTH s) (metered s) := by
  rw [← getF_metered, ← getF_metered (s := s) (thmP 1) THM_LIMIT_DEPTH]
  rfl

/-! ### Registers, and the clear of a shutdown -/

theorem exec_thmThresholdWrite {fn c v o : Nat} {sh : Bool} (hc : c < 3) (ho : (if sh then 0x90 else 0x80) = o) (h : reaches fn (thmP 0 + o + 4 * c) s) :
    exec (.thmThresholdWrite fn c sh v) s = .next (clampThr c (writeReg (thmP 0 + o + 4 * c) v s)) := by
  subst ho
  show execThmThresholdWrite fn c sh v s = _
  unfold execThmThresholdWrite
  rw [if_neg (by omega)]
  exact congrArg Host.Outcome.next (barWrite_goes h)

theorem exec_thmCapWrite {fn v : Nat} (h : reaches fn (thmP 1 + 0x80) s) (hl : flag (thmP 1) PG_LOCK_LOCKED s = false) :
    exec (.thmCapWrite fn v) s = .next (capWrite (v % 65536) (writeReg (thmP 1 + 0x80) (bitsOf v 31 31 * 2 ^ 31 + getF (thmP 1) THM_CAP_WATTS s) s)) := by
  show Host.Outcome.next (barWrite fn (thmP 1 + 0x80) _ s) = _
  rw [barWrite_goes h, hl]
  rfl

/-- A shutdown's latch and its bands are cleared. -/
def latchCleared (s : State) : State :=
  let t := setF (thmP 0) THM_SHUT_LATCHED 0 { s with fatal := nsErase s.fatal 0x0305 }
  setThm { t.thm with sens := s.thm.sens.map (fun e => (e.1, { e.2 with band := if e.2.band = 3 then 0 else e.2.band })) } t

/-- What the clear of a shutdown leaves of it. -/
def shutCleared (s : State) : State := setThm { (latchCleared s).thm with shut := 4 } (latchCleared s)

theorem getF_latchCleared (p : Nat) (f : Field) :
    getF p f (latchCleared s) = getF p f (setF (thmP 0) THM_SHUT_LATCHED 0 { s with fatal := nsErase s.fatal 0x0305 }) := getF_regs rfl p f

theorem getF_shutCleared (p : Nat) (f : Field) : getF p f (shutCleared s) = getF p f (latchCleared s) := getF_regs rfl p f

theorem thm_fatal_only {u : State} {l : List Nat} (h : u = { s with regs := u.regs, fatal := l }) (x : Thm) :
    setThm x u = { s with regs := (setThm x u).regs, thm := (setThm x u).thm, fatal := l } := by
  rw [h]
  rfl

theorem shutCleared_only :
    shutCleared s = { s with regs := (shutCleared s).regs, thm := (shutCleared s).thm, fatal := nsErase s.fatal 0x0305 } :=
  thm_fatal_only (setF_regsOnly _ _ _ { s with fatal := nsErase s.fatal 0x0305 }) _

theorem shutdownOn_shutCleared : shutdownOn (shutCleared s) = false := by
  unfold shutdownOn flag
  rw [getF_shutCleared, getF_latchCleared, getF_setF_same _ _ (by decide) (by decide)]
  rfl

theorem outcome_latchCleared : outcome (latchCleared s) = outcome s := by
  unfold outcome
  rw [getF_latchCleared, getF_setF_ne (g := THM_SHUT_LATCHED) _ _ (by decide)]
  rfl

theorem exec_thmShutClear_cool {fn v : Nat} (h : reaches fn (thmP 0 + 0xA0) s) (hv : bitOf v 0 = true) (hs : shutdownOn s = true)
    (hc : coolEnough s = true) (ho : outcome s ≠ 0) : exec (.thmShutClear fn v) s =
      .next (islandsGo ((List.range 64).foldl (fun u j => holdIsl j u)
        ((List.range 64).foldl (fun u j => if (islOf j u).cut then u else islOff j u) (shutCleared s)))) := by
  show Host.Outcome.next (barWrite fn (thmP 0 + 0xA0) _ s) = _
  rw [barWrite_goes h, if_neg (by rw [hv, hs]; decide), if_neg (by rw [hc]; decide)]
  exact congrArg Host.Outcome.next (if_neg (fun e => ho (outcome_latchCleared.symm.trans e.1)))

theorem exec_thmShutClear_hot {fn v : Nat} (h : reaches fn (thmP 0 + 0xA0) s) (hv : bitOf v 0 = true) (hs : shutdownOn s = true)
    (hc : coolEnough s = false) : exec (.thmShutClear fn v) s = .next (raise (thmP 0) 20 s) := by
  show Host.Outcome.next (barWrite fn (thmP 0 + 0xA0) _ s) = _
  rw [barWrite_goes h, if_neg (by rw [hv, hs]; decide), if_pos (by rw [hc]; decide)]

theorem exec_ceilingRelax {j : Nat} (hj : j < 64) (hl : (islT j s).logic = false) (hm : (islT j s).mem = false) (hc : (islT j s).ceil ≠ 0) :
    exec (.ceilingRelax j) s = .next (thermCeil j (if (islT j s).ceil + 10 ≥ 190 then 0 else (islT j s).ceil + 10)
      (setIslT j { islT j s with coolAt := (waitTill ((islT j s).coolAt + 10000000) s).now } (waitTill ((islT j s).coolAt + 10000000) s))) := by
  show execCeilingRelax j s = _
  exact if_neg (by rw [hl, hm, decide_eq_false hc, decide_eq_false (by omega : ¬ j ≥ 64)]; decide)

/-- Settles O33: each limit acts as its one equation says, in the branch that the sample, the lock or the sensors choose. -/
theorem limitsTakeEffect : Obligations.LimitsTakeEffect := by
  refine ⟨?_, fun fn c v s hc => ⟨exec_thmThresholdWrite hc rfl, exec_thmThresholdWrite hc rfl⟩, fun _ _ _ => exec_thmCapWrite,
    fun fn v s h hv hs => ⟨exec_thmShutClear_hot h hv hs, fun hc ho => ⟨_, exec_thmShutClear_cool h hv hs hc ho, rfl, shutdownOn_shutCleared, shutCleared_only⟩⟩, ?_⟩
  · rintro mw cap s u t rfl rfl rfl
    rw [exec_powerMeterSample]
    refine ⟨fun h hr => ?_, fun h hr => ?_, fun h1 h2 => ?_, fun h hd hr => ?_⟩ <;> unfold meterJudged
    · rw [if_pos h]
      exact if_pos hr
    · rw [if_pos h]
      exact if_neg (Nat.not_lt.mpr hr)
    · rw [if_neg (Nat.not_lt.mpr h1)]
      exact if_neg (Nat.not_lt.mpr h2)
    · rw [if_neg (by omega), if_pos h, if_neg (by omega)]
      exact if_neg (Nat.not_lt.mpr hr)
  · rintro j s t hj hl hm hc rfl
    exact exec_ceilingRelax hj hl hm hc

/-! ### Sensors, the policy engine and the estimator -/

/-- What a refresh does once the bands are known: `u` tells whether a sensor entered the warning band and which entered shutdown. -/
def bandsShown (ok : Bool) (u : Bool × List Nat × State) : State :=
  let w := (List.range 3).foldl (fun t c => showClass c t) (if u.1 then raise (thmP 0) 16 u.2.2 else u.2.2)
  (List.range 64).foldl (fun t j => islThrottle j t) (match u.2.1 with | id :: _ => shutStart id ok w | [] => w)

/-- The bands of the valid sensors after a refresh. -/
def bandsMoved (s : State) : Bool × List Nat × State :=
  ((s.thm.sens.map (·.1)).filter isTemp).foldl (fun (a : Bool × List Nat × State) id =>
    ((a.1 || (updBand id a.2.2).1), (if (updBand id a.2.2).2.1 then a.2.1 ++ [id] else a.2.1), (updBand id a.2.2).2.2)) (false, [], s)

theorem sensorRefresh_eq (rs : List (Nat × Option Nat)) (ok : Bool) (s : State) :
    sensorRefresh rs ok s = bandsShown ok (bandsMoved (rs.foldl (fun t r => takeReading r.1 r.2 t) s)) := rfl

theorem bandsShown_none {ok moved : Bool} {v w : State}
    (hw : (List.range 3).foldl (fun t c => showClass c t) (if moved then raise (thmP 0) 16 v else v) = w) :
    bandsShown ok (moved, [], v) = (List.range 64).foldl (fun t j => islThrottle j t) w := by
  rw [← hw]
  rfl

theorem bandsShown_hot {ok moved : Bool} {id : Nat} {l : List Nat} {v w : State}
    (hw : (List.range 3).foldl (fun t c => showClass c t) (if moved then raise (thmP 0) 16 v else v) = w) :
    bandsShown ok (moved, id :: l, v) = (List.range 64).foldl (fun t j => islThrottle j t) (shutStart id ok w) := by
  rw [← hw]
  rfl

theorem exec_sensorRefresh {rs : List (Nat × Option Nat)} {ok : Bool} {t u : State} {b : Bool × List Nat × State}
    (ht : waitEvery 1000000 s.thm.readAt s = t) (hu : rs.foldl (fun t r => takeReading r.1 r.2 t) (setThm { t.thm with readAt := some t.now } t) = u)
    (hb : bandsMoved u = b) : exec (.sensorRefresh rs ok) s = .next (bandsShown ok b) := by
  subst ht
  show Host.Outcome.next (sensorRefresh rs ok _) = _
  rw [sensorRefresh_eq, hu, hb]

theorem exec_policyPlan {volts : List (Nat × Nat)} {miss : List Nat} {widths : List (Nat × Nat)} {weights : List (Nat × Nat × Nat)}
    (hp : policyRuns s = true) (hs : shutdownOn s = false) {t : State}
    (ht : planWidths widths ((List.range 128).foldl (fun t n => showMiss miss n t) (planVolts volts miss (planGoals s))) = t) :
    exec (.policyPlan volts miss widths weights) s = .next (if flag (thmP 1) THM_GOAL_SHARES_MAN t then t else planWeights weights t) := by
  subst ht
  show execPolicyPlan volts miss widths weights s = _
  unfold execPolicyPlan
  rw [hp, hs]
  exact if_neg (by decide)

/-- The state in which a fit is shown and its confidences follow. -/
def fitted (pows : List (Nat × Nat)) (pkg : Nat) (div : List Nat) (s : State) : State :=
  let t := waitEvery 10000000 s.thm.fitAt s
  estDiverged div (estPowers pows pkg (setThm { t.thm with fitAt := some t.now } t))

theorem exec_estimatorFit_confs {pows : List (Nat × Nat)} {pkg : Nat} {div : List Nat} {confs : List (Nat × Nat × Nat)} {u v : State} (h : confs ≠ [])
    (hu : fitted pows pkg div s = u) (hv : waitEvery 1000000000 u.thm.confAt u = v) :
    exec (.estimatorFit pows pkg div confs) s = .next (estConfs confs (setThm { v.thm with confAt := some v.now } v)) := by
  subst hu hv
  show execEstimatorFit pows pkg div confs s = _
  unfold execEstimatorFit
  exact if_neg (by simp [h])

/-! ### Quiet slices -/

/-- A quiet slice finds no island for it, and the guard bands widen. -/
theorem exec_quietSlice_guard {t : State} {long : List Nat} (ht : lowWait s = t) (hp : policyRuns t = true)
    (hl : (List.range 64).filter (fun j => lowLong j t) = long) (hne : long ≠ []) (hq : ∀ j ∈ long, quietOk j t = false)
    (hg : flag (thmP 1) THM_EST_GUARD t = false) :
    exec .quietSlice s = .next (policyAct (thmP 1) (raise (thmP 1) 18 (showEffCap (setF (thmP 1) THM_EST_GUARD 1 t)))) := by
  have hcan : (long.filter (fun j => quietOk j t)).isEmpty = true :=
    List.isEmpty_iff.mpr (List.filter_eq_nil_iff.mpr (fun j hj => by simp [hq j hj]))
  subst ht hl
  show execQuietSlice s = _
  unfold execQuietSlice
  rw [if_neg (by simp [hp, hne]), if_pos (by rw [hcan]; rfl)]
  exact if_neg (by simp [hg])

/-- A quiet slice begins at the island whose turn it is. -/
theorem exec_quietSlice_begins {t : State} {long : List Nat} {j : Nat} (ht : lowWait s = t) (hp : policyRuns t = true)
    (hl : (List.range 64).filter (fun j => lowLong j t) = long) (hne : long ≠ []) (hgoal : bitOf t.thm.goal 0 = true) (hq : t.thm.quiet = none)
    (hj : quietTurn (long.filter (fun j => quietOk j t)) t = some j) : exec .quietSlice s = .next (quietBegin j t) := by
  have hcan : (long.filter (fun j => quietOk j t)).isEmpty = false := by
    refine Bool.eq_false_iff.mpr fun he => ?_
    rw [List.isEmpty_iff.mp he] at hj
    cases hj
  subst ht hl
  show execQuietSlice s = _
  unfold execQuietSlice
  rw [if_neg (by simp [hp, hne]), if_neg (by rw [hcan, hgoal]; decide), if_neg (by rw [hq]; decide), hj]

/-! ### Shutdown -/

theorem exec_hardwareTrip {id : Nat} {ok : Bool} (hb : s.boot.trip = false) (hi : isTemp id = true) : exec (.hardwareTrip id ok) s =
    .next (fatEffects (thmP 0) 0x0306 (tripRecord 1 ok (allOff { s with boot := { s.boot with trip := true } }))) := by
  show execHardwareTrip id ok s = _
  unfold execHardwareTrip
  exact if_neg (by rw [hb, hi]; decide)

/-- The state in which the herds' time to drain is over. -/
def shutQuiet (s : State) : State :=
  if (List.range 128).all (fun n => lifeAt (statOf (herdP n)) s == 0 || lifeAt (statOf (herdP n)) s == 5) then s
  else waitTill (s.thm.shutAt + 4000000) s

/-- The RL ports that are up drain. -/
def portsShut (s : State) : State :=
  (List.range 16).foldl (fun t p => if lifeAt (statOf (rlpP p)) t = 2 then lifeShut 2 (statOf (rlpP p)) 0xF0 0 t else t) s

/-- The record of a shutdown. -/
def shutRecorded (s : State) : State :=
  tallyFree 10 0xFFFFFFFF (leBytes 1 0) (recordErr (thmP 0) 0x0305 3 (getF (thmP 0) THM_SHUT_SENSOR s) (getF (thmP 0) THM_SHUT_SENSOR s) false s)

/-- The end of a shutdown's log; a power warning that waited for it has its turn. -/
def shutEnded (s : State) : State :=
  let t := setThm { s.thm with shut := 2 } s
  if t.boot.warnDue then pwrWarnLog { t with boot := { t.boot with warnDue := false } } else t

theorem shutEnded_plain (h : s.boot.warnDue = false) : shutEnded s = setThm { s.thm with shut := 2 } s := if_neg (by simp [setThm, h])

theorem shutEnded_warned (h : s.boot.warnDue = true) :
    shutEnded s = pwrWarnLog { s with thm := { s.thm with shut := 2 }, boot := { s.boot with warnDue := false } } := if_pos h

theorem exec_shutdownLog {ok : Bool} {v w : State} {r : TRec} {l : List TRec} (h : s.thm.shut = 1) (hv : shutRecorded (portsShut (shutQuiet s)) = v)
    (hr : v.mgs.ring.reverse = r :: l) (hw : persistAll (reserveCopy r ok v) = w) : exec (.shutdownLog ok) s = .next (shutEnded w) := by
  show execShutdownLog ok s = _
  unfold execShutdownLog
  rw [if_neg (not_not_intro h)]
  extract_lets _ _ _ _ _ s3 s4 s5
  have h3 : s3 = v := hv
  clear_value s3
  subst h3
  have h5 : s5 = w := by
    rw [← hw]
    unfold s5 s4
    rw [hr]
  clear_value s5
  subst h5
  rfl

/-- Settles O34: one equation for each row, on the state that its operands and its waits give. -/
theorem heatIsGoverned : Obligations.HeatIsGoverned := by
  refine ⟨?_, fun volts miss widths weights s t hp hs ht => exec_policyPlan hp hs ht, ?_, ?_, ?_, fun _ _ _ => exec_hardwareTrip,
    fun s h => if_neg (not_not_intro h), fun s h => if_pos h, ?_⟩
  · intro rs ok s t ht u hu moved hot v hv w hw
    rw [exec_sensorRefresh ht hu hv]
    constructor
    · rintro rfl
      exact congrArg Host.Outcome.next (bandsShown_none hw)
    · rintro id l rfl
      exact congrArg Host.Outcome.next (bandsShown_hot hw)
  · rintro pows pkg div confs s t u v rfl hu hv
    refine ⟨?_, fun h => exec_estimatorFit_confs h hu hv⟩
    rw [← hu]
    rfl
  · intro s t ht hp long hl hne
    exact ⟨fun hq hg => exec_quietSlice_guard ht hp hl hne hq hg, fun j hgoal hq hj => exec_quietSlice_begins ht hp hl hne hgoal hq hj⟩
  · intro j t0 b s h
    show execQuietSliceEnd s = _
    unfold execQuietSliceEnd
    rw [h]
    rfl
  · rintro ok s t u v r l h1 rfl rfl hv hr w hw
    rw [exec_shutdownLog h1 hv hr hw]
    exact ⟨fun h => congrArg Host.Outcome.next (shutEnded_plain h), fun h => congrArg Host.Outcome.next (shutEnded_warned h)⟩

/-! ### Pace windows -/

/-- A relation between states that lasts over all that a correctable error's record on page `p` does. -/
structure LastsOverRecords (p : Nat) (R : State → State → Prop) : Prop where
  refl (s : State) : R s s
  trans {a b c : State} : R a b → R b c → R a c
  regs {s t : State} : t.regs = s.regs → R s t
  setF (f : Field) (v : Nat) (s : State) : 0x18 ≤ f.off → f.off < 0x30 → R s (setF p f v s)
  raise (b : Nat) (s : State) : R s (raise p b s)
  tally (kind src code page info : Nat) (data : List Byte) (s : State) : R s (tally kind src code page info data s)

section
variable {p : Nat} {R : State → State → Prop}

/-- Two ways that the relation joins to `s` are joined to it whichever is taken. -/
theorem related_ite {c : Prop} [Decidable c] {s a b : State} (h : R s a) (k : R s b) : R s (if c then a else b) := by
  split <;> assumption

variable (hR : LastsOverRecords p R)
include hR

theorem LastsOverRecords.set {s t : State} (h : R s t) (f : Field) (v : Nat) (h1 : 0x18 ≤ f.off) (h2 : f.off < 0x30) :
    R s (Sys2Proof.Machine.setF p f v t) := hR.trans h (hR.setF f v t h1 h2)

theorem LastsOverRecords.told {s t : State} (h : R s t) (b : Nat) : R s (Sys2Proof.Machine.raise p b t) := hR.trans h (hR.raise b t)

theorem recordRegs_lasts (code detail : Nat) (s : State) : R s (recordRegs p code 0 detail s).2 := by
  unfold recordRegs
  extract_lets sevBit up
  have u (x : State) (h : R s x) : R s (up x) := related_ite h (hR.told h _)
  clear_value up
  have detailed (t : State) (h : R s t) : R s { t with nextDetail := alSet t.nextDetail p detail } := hR.trans h (hR.regs rfl)
  split
  · refine u _ (hR.set (hR.set (hR.set (hR.set (hR.refl s) _ _ ?_ ?_) _ _ ?_ ?_) _ _ ?_ ?_) _ _ ?_ ?_) <;> decide
  · split
    · refine u _ (hR.set (hR.set (hR.set (detailed s (hR.refl s)) _ _ ?_ ?_) _ _ ?_ ?_) _ _ ?_ ?_) <;> decide
    · rename_i s1 hi s2 _ _
      have e : R s s1 := hR.set (hR.refl s) _ _ (by decide) (by decide)
      have h : R s s2 := related_ite (hR.set (hR.set (detailed s1 e) _ _ (by decide) (by decide)) _ _ (by decide) (by decide)) e
      exact u _ (hR.told h _)

theorem recordCE_lasts (code detail loc : Nat) (s : State) : R s (recordCE p code detail loc s) := by
  unfold recordCE recordErr
  rw [if_neg (by decide)]
  unfold recordWith
  extract_lets before cnt0 s0 cnt hit s1 sm s2
  have h0 : R s s0 := related_ite (hR.set (hR.refl s) _ _ (by decide) (by decide)) (hR.refl s)
  have h1 : R s s1 := related_ite (hR.told h0 _) h0
  have h2 : R s s2 := related_ite (hR.trans h1 (hR.regs rfl)) h1
  have h3 := hR.trans h2 (recordRegs_lasts hR code detail s2)
  clear_value s2 sm hit cnt before
  generalize recordRegs p code 0 detail s2 = r at h3
  obtain ⟨recd, s3⟩ := r
  dsimp -zeta only
  extract_lets hit' s4 s5 s6 mk s7
  have h4 : R s s4 := by unfold s4; rwa [if_neg (by decide)]
  have h5 : R s s5 := by unfold s5; rwa [if_neg (by decide)]
  have h6 : R s s6 := by unfold s6; rwa [if_neg (by decide)]
  have h7 : R s s7 := related_ite (hR.trans h6 (hR.tally _ _ _ _ _ _ _)) h6
  rwa [if_neg (by decide)]

end

/-- Above the mailbox pages no register beyond a page's header differs. -/
def BodiesStay (s t : State) : Prop := ∀ a, 0x90000 ≤ a → 0x30 ≤ a % 0x1000 → rdW a t = rdW a s

/-- Recording a correctable error writes its page's header and no other register of the blocks. -/
theorem bodiesStay_lasts {p : Nat} (hp : p % 0x1000 = 0) : LastsOverRecords p BodiesStay where
  refl _ := fun _ _ _ => rfl
  trans h k := fun x hx ho => (k x hx ho).trans (h x hx ho)
  regs h := fun x _ _ => rdW_regs h x
  setF _ _ _ h1 h2 := fun _ _ ho => rdW_setF_offset _ _ (by omega)
  raise _ _ := fun _ hx ho => rdW_raise_high _ _ _ hx (by omega)
  tally _ _ _ _ _ _ _ := fun _ hx _ => rdW_tally _ _ _ _ _ _ _ (by rw [canon_high hx]; omega) (by rw [canon_high hx]; omega)

/-- The events of page `p` that are set stay set. -/
def EventsStay (p : Nat) (s t : State) : Prop := ∀ b, bitOf (rdW (p + 0x10) s).toNat b = true → bitOf (rdW (p + 0x10) t).toNat b = true

/-- Recording a correctable error clears no event of its page. -/
theorem eventsStay_lasts {p : Nat} (hi : 0x90000 ≤ p) (hp : p % 0x1000 = 0) : LastsOverRecords p (EventsStay p) where
  refl _ := fun _ h => h
  trans h k := fun b hb => k b (h b hb)
  regs h := fun b hb => by rwa [rdW_regs h]
  setF _ _ _ h1 h2 := fun b hb => by rwa [rdW_setF_offset _ _ (by omega)]
  raise c s := fun b hb => by
    rw [rdW_raise_evt _ _ _ (by rw [canon_high (by omega)]; omega) (by rw [canon_high (by omega)]; omega), BitVec.toNat_or, bitOf_testBit,
      Nat.testBit_or, ← bitOf_testBit, hb, Bool.true_or]
  tally _ _ _ _ _ _ _ := fun b hb => by
    rwa [rdW_tally _ _ _ _ _ _ _ (by rw [canon_high (by omega)]; omega) (by rw [canon_high (by omega)]; omega)]

theorem senseP_page (i : Nat) : 0x90000 ≤ senseP i ∧ senseP i % 0x1000 = 0 := by dsimp only [senseP, rodP]; omega

/-- Two registers of a sensor page that differ in their offset. -/
theorem senseP_beside (i : Nat) {o q : Nat} (ho : o < 0x1000) (hq : q < 0x1000) (h : o ≠ q) : (senseP i + o) % 0x1000 ≠ (senseP i + q) % 0x1000 := by
  have := (senseP_page i).2
  omega

/-- A register whose offset is not ISL_PACE's stays when an island shows its pace. -/
theorem rdW_showIslPace {a : Nat} (j : Nat) (t : State) (h : a % 0x1000 ≠ 0xA0) : rdW a (showIslPace j t) = rdW a t := by
  have hj : (islP j + 0xA0) % 0x1000 = 0xA0 := by dsimp only [islP]; omega
  unfold showIslPace
  extract_lets l
  cases l with
  | nil => rw [rdW_setF_offset _ _ (by rw [hj]; exact h), rdW_setF_offset _ _ (by rw [hj]; exact h)]
  | cons b r => rw [rdW_setF_offset _ _ (by rw [hj]; exact h), rdW_setF_offset _ _ (by rw [hj]; exact h)]

/-- New levels write HERD_LEVEL and PG_EVT of the herds' pages. -/
theorem rdW_relevel {a : Nat} (t : State) (ha : 0x90000 ≤ a) (h : a % 0x1000 ≠ 0x98) (h' : a % 0x1000 ≠ 0x10) : rdW a (relevel t) = rdW a t := by
  have off (n o : Nat) (ho : o < 0x1000) : (herdP n + o) % 0x1000 = o := by dsimp only [herdP]; omega
  have one (n : Nat) (f : Field) (hf : f.off = 0x98) (v : Nat) (u : State) : rdW a (setF (herdP n) f v u) = rdW a u :=
    rdW_setF_offset _ _ (by rw [hf, off _ _ (by decide)]; exact h)
  unfold relevel
  refine List.foldlRecOn (motive := fun u => rdW a u = rdW a t) _ _ rfl (fun u hu n _ => ?_)
  dsimp only
  split
  · exact hu
  · rw [rdW_raise_high _ _ _ ha (by rw [off _ _ (by decide)]; exact h'), one _ _ rfl, one _ _ rfl, hu]

section
variable {i pace nom : Nat}

/-- A window's pace and nominal pace stand in SENSE_PACE, and MIN and MAX are as wide as they have to be. -/
def paceShown (i pace nom : Nat) (s : State) : State :=
  let t := setF (senseP i) SENSE_PACE_VALID 1 (setF (senseP i) SENSE_PACE_PACE pace (setF (senseP i) SENSE_PACE_NOMINAL nom s))
  setF (senseP i) SENSE_PACE_MM_MIN (min pace (getF (senseP i) SENSE_PACE_MM_MIN t))
    (setF (senseP i) SENSE_PACE_MM_MAX (max pace (getF (senseP i) SENSE_PACE_MM_MAX t)) t)

/-- The two registers that a window writes. -/
structure PaceStands (i : Nat) (s t : State) : Prop where
  pace : rdW (senseP i + 0x80) t = rdW (senseP i + 0x80) s
  mm : rdW (senseP i + 0x84) t = rdW (senseP i + 0x84) s

theorem PaceStands.trans {a b c : State} (h : PaceStands i a b) (k : PaceStands i b c) : PaceStands i a c :=
  ⟨k.pace.trans h.pace, k.mm.trans h.mm⟩

theorem PaceStands.of_bodies {s t : State} (h : BodiesStay s t) : PaceStands i s t := by
  obtain ⟨hi, hm⟩ := senseP_page i
  exact ⟨h _ (by omega) (by omega), h _ (by omega) (by omega)⟩

theorem showIslPace_pace (j : Nat) (t : State) : PaceStands i t (showIslPace j t) := by
  obtain ⟨-, hm⟩ := senseP_page i
  exact ⟨rdW_showIslPace _ _ (by omega), rdW_showIslPace _ _ (by omega)⟩

theorem relevel_pace (t : State) : PaceStands i t (relevel t) := by
  obtain ⟨hi, hm⟩ := senseP_page i
  exact ⟨rdW_relevel _ (by omega) (by omega) (by omega), rdW_relevel _ (by omega) (by omega) (by omega)⟩

theorem getF_paceShown_pace {f : Field} (hf : f.off = 0x80) :
    getF (senseP i) f (paceShown i pace nom s) =
      getF (senseP i) f (setF (senseP i) SENSE_PACE_VALID 1 (setF (senseP i) SENSE_PACE_PACE pace (setF (senseP i) SENSE_PACE_NOMINAL nom s))) := by
  unfold paceShown
  rw [getF_setF_offset _ _ (hf ▸ senseP_beside i (by decide) (by decide) (by decide)), getF_setF_offset _ _ (hf ▸ senseP_beside i (by decide) (by decide) (by decide))]

theorem paceShown_valid : getF (senseP i) SENSE_PACE_VALID (paceShown i pace nom s) = 1 := by
  rw [getF_paceShown_pace rfl, getF_setF_same _ _ (by decide) (by decide)]
  rfl

theorem paceShown_pace (h : pace < 4096) : getF (senseP i) SENSE_PACE_PACE (paceShown i pace nom s) = pace := by
  rw [getF_paceShown_pace rfl, getF_setF_beside (f := SENSE_PACE_PACE) (g := SENSE_PACE_VALID) _ _ rfl (by decide) (by decide) (by decide),
    getF_setF_same _ _ (by decide) (by decide)]
  exact Nat.mod_eq_of_lt h

theorem paceShown_nominal (h : nom < 4096) : getF (senseP i) SENSE_PACE_NOMINAL (paceShown i pace nom s) = nom := by
  rw [getF_paceShown_pace rfl, getF_setF_beside (f := SENSE_PACE_NOMINAL) (g := SENSE_PACE_VALID) _ _ rfl (by decide) (by decide) (by decide),
    getF_setF_beside (f := SENSE_PACE_NOMINAL) (g := SENSE_PACE_PACE) _ _ rfl (by decide) (by decide) (by decide), getF_setF_same _ _ (by decide) (by decide)]
  exact Nat.mod_eq_of_lt h

/-- MIN and MAX do not hear of the three fields of SENSE_PACE. -/
theorem getF_mm_paceSet {f : Field} (hf : f.off = 0x84) :
    getF (senseP i) f (setF (senseP i) SENSE_PACE_VALID 1 (setF (senseP i) SENSE_PACE_PACE pace (setF (senseP i) SENSE_PACE_NOMINAL nom s))) =
      getF (senseP i) f s := by
  rw [getF_setF_offset _ _ (hf ▸ senseP_beside i (by decide) (by decide) (by decide)), getF_setF_offset _ _ (hf ▸ senseP_beside i (by decide) (by decide) (by decide)), getF_setF_offset _ _ (hf ▸ senseP_beside i (by decide) (by decide) (by decide))]

theorem paceShown_min : getF (senseP i) SENSE_PACE_MM_MIN (paceShown i pace nom s) = min pace (getF (senseP i) SENSE_PACE_MM_MIN s) := by
  have hlt := bitsOf_lt (rdW (senseP i + 0x84) s).toNat 11 0
  unfold paceShown
  rw [getF_setF_same _ _ (by decide) (by decide), getF_mm_paceSet rfl]
  exact Nat.mod_eq_of_lt (Nat.lt_of_le_of_lt (Nat.min_le_right _ _) hlt)

theorem paceShown_max (h : pace < 4096) :
    getF (senseP i) SENSE_PACE_MM_MAX (paceShown i pace nom s) = max pace (getF (senseP i) SENSE_PACE_MM_MAX s) := by
  have hlt := bitsOf_lt (rdW (senseP i + 0x84) s).toNat 27 16
  unfold paceShown
  rw [getF_setF_beside (f := SENSE_PACE_MM_MAX) (g := SENSE_PACE_MM_MIN) _ _ rfl (by decide) (by decide) (by decide),
    getF_setF_same _ _ (by decide) (by decide), getF_mm_paceSet rfl]
  exact Nat.mod_eq_of_lt (Nat.max_lt.mpr ⟨h, hlt⟩)

/-- What follows a window's registers: the slow run counted and told, the island's pace and the herds' levels. -/
def paceFollows (i pace nom old slow : Nat) (s : State) : State :=
  let run := if 10 * pace < 9 * nom then slow + 1 else 0
  let s3 := { s with lowPace := alPut 0 s.lowPace i run }
  let s4 := if run = 3 then raise (senseP i) 16 (recordCE (senseP i) 0x1A01 0 (i + pace * 65536) s3) else s3
  let s5 := showIslPace (rodIsland i) s4
  if nom = old then s5 else relevel s5

theorem paceFollows_stands (old slow : Nat) (t : State) : PaceStands i t (paceFollows i pace nom old slow t) := by
  unfold paceFollows
  extract_lets run s3 s4 s5
  have hp := (senseP_page i).2
  have hl := bodiesStay_lasts hp
  have h3 : BodiesStay t s3 := hl.regs rfl
  have h4 : BodiesStay t s4 := related_ite (hl.told (hl.trans h3 (recordCE_lasts hl _ _ _ _)) _) h3
  have h5 : PaceStands i t s5 := (PaceStands.of_bodies h4).trans (showIslPace_pace _ _)
  split
  · exact h5
  · exact h5.trans (relevel_pace _)

theorem exec_paceWindowEnd {beats : Nat} {vs : List Nat} (hv : rodVisible i s = true) (hp : (islOf (rodIsland i) s).powered = true)
    (hl : ∀ v ∈ vs, 570 ≤ v) (hb : 0 < beats) (h1 : min 4095 ((beats * 25 + 128) / 256) = pace) (h2 : min 4095 (nominalPace vs (rodTemp i s)) = nom) :
    exec (.paceWindowEnd i beats true vs) s =
      .next (paceFollows i pace nom (getF (senseP i) SENSE_PACE_NOMINAL s) (alGetD s.lowPace i 0) (paceShown i pace nom s)) := by
  have hlow : vs.any (fun v => v < 570) = false := List.any_eq_false.mpr (fun v hv => by simpa using hl v hv)
  subst h1 h2
  show execPaceWindowEnd i beats true vs s = _
  unfold execPaceWindowEnd
  rw [if_neg (by rw [hv]; decide), if_neg (by rw [hlow, hp]; decide), if_neg (by simp; omega)]
  rfl

/-- The two registers' CLR writes. -/
theorem exec_sensePaceMmClr {fn v : Nat} (h : reaches fn (senseP i + 0x84) s) (hv : bitOf v 31 = true) : exec (.sensePaceMmClr fn i v) s =
    .next (setF (senseP i) SENSE_PACE_MM_MIN 0xFFF (setF (senseP i) SENSE_PACE_MM_MAX 0 s)) := by
  show Host.Outcome.next (barWrite fn (senseP i + 0x84) _ s) = _
  rw [barWrite_goes h, if_pos hv]

theorem exec_senseTmaxClr {fn v : Nat} (h : reaches fn (senseP i + 0xA4) s) (hv : bitOf v 31 = true) : exec (.senseTmaxClr fn i v) s =
    .next (setF (senseP i) SENSE_TMAX_MAX (getF (senseP i) SENSE_TEMP_TEMP s) s) := by
  show Host.Outcome.next (barWrite fn (senseP i + 0xA4) _ s) = _
  rw [barWrite_goes h, if_pos hv]

theorem canon_senseP {a o : Nat} (h : a ≠ senseP i + o) : canon a ≠ canon (senseP i + o) :=
  canon_ne_high (by have := (senseP_page i).1; omega) h

end

/-- Settles O31: what follows the registers of a window writes neither of them. -/
theorem paceWindowsMeasure : Obligations.PaceWindowsMeasure := by
  refine ⟨?_, ?_, ?_⟩
  · intro i beats vs s _ hv hp hl hb pace nom
    have hpace : pace < 4096 := Nat.lt_of_le_of_lt (Nat.min_le_left _ _) (by decide)
    have hnom : nom < 4096 := Nat.lt_of_le_of_lt (Nat.min_le_left _ _) (by decide)
    obtain ⟨h80, h84⟩ := paceFollows_stands (i := i) (pace := pace) (nom := nom) (getF (senseP i) SENSE_PACE_NOMINAL s) (alGetD s.lowPace i 0)
      (paceShown i pace nom s)
    refine ⟨_, exec_paceWindowEnd hv hp hl hb rfl rfl, ?_, ?_, ?_, ?_, ?_⟩
    · exact (getF_of_rdW (f := SENSE_PACE_PACE) h80).trans (paceShown_pace hpace)
    · exact (getF_of_rdW (f := SENSE_PACE_VALID) h80).trans paceShown_valid
    · exact (getF_of_rdW (f := SENSE_PACE_NOMINAL) h80).trans (paceShown_nominal hnom)
    · exact (getF_of_rdW (f := SENSE_PACE_MM_MIN) h84).trans paceShown_min
    · exact (getF_of_rdW (f := SENSE_PACE_MM_MAX) h84).trans (paceShown_max hpace)
  · intro fn i v s h hv
    refine ⟨_, exec_sensePaceMmClr h hv, ?_, ?_, fun a ha => ?_, regsOnly_trans (setF_regsOnly _ _ _ s) (setF_regsOnly _ _ _ _)⟩
    · rw [getF_setF_same _ _ (by decide) (by decide)]
      rfl
    · rw [getF_setF_beside (f := SENSE_PACE_MM_MAX) (g := SENSE_PACE_MM_MIN) _ _ rfl (by decide) (by decide) (by decide),
        getF_setF_same _ _ (by decide) (by decide)]
      rfl
    · rw [rdW_setF_ne _ _ (canon_senseP ha), rdW_setF_ne _ _ (canon_senseP ha)]
  · intro fn i v s h hv
    refine ⟨_, exec_senseTmaxClr h hv, ?_, fun a ha => rdW_setF_ne _ _ (canon_senseP ha), setF_regsOnly _ _ _ s⟩
    rw [getF_setF_same _ _ (by decide) (by decide)]
    exact Nat.mod_eq_of_lt (bitsOf_lt _ 15 0)

end Sys2Proof.Machine
end

section
/-! PROOFS. Bridges between dies: what the control flits of a link do once they are taken, and how a link's timers, its sparing ladder, its
retrains, its drains and its control register change it (chapter 11). -/
-- One theorem after another: elaborated side by side, each holds its memory while it waits for those before it.
set_option Elab.async false

namespace Sys2Proof.Machine

section
variable {n d seq ack : Nat} {s : State}

/-! ### Control flits -/

theorem exec_brgCredit (hn : n < 32) (hd : d < 2) (c : List Nat) {u : State} (hu : lanePass n (1 - d) [] s = u) :
    exec (.brgCredit n d ack c) s =
      .next (brgPump n d (setBrgDir n d (((brgDir n d u).heard 256 (c.take 6)).acked ack) (setBrgDir n d ((brgDir n d u).heard 256 (c.take 6)) u))) := by
  subst hu
  show execBrgCredit n d ack c s = _
  unfold execBrgCredit
  rw [Nat.mod_eq_of_lt hd, if_neg (by omega)]
  dsimp only
  rw [brgDir_set_same]

/-- A NAK is heard in the state after its lanes and its acknowledgement. -/
theorem exec_brgNak (hn : n < 32) (hd : d < 2) {u t : State} (hu : lanePass n (1 - d) [] s = u)
    (ht : setBrgDir n d ((brgDir n d u).acked ack) u = t) : exec (.brgNak n d seq ack) s =
      if (brgDir n d t).resent ≥ 8 ∧ ¬ (brgX n t).draining then .next (startRetrain n (setBrgDir n d { brgDir n d t with resent := 0 } t))
      else .next (brgPump n d (resend n d (seq % 4096) t)) := by
  subst hu ht
  show execBrgNak n d seq ack s = _
  unfold execBrgNak
  rw [Nat.mod_eq_of_lt hd]
  exact if_neg (by omega)

theorem exec_carry (hn : n < 32) (hd : d < 2) {home first count : Nat} (hh : home ≠ n % 4) (h4 : home < 4) (hc : 0 < count) :
    exec (.carry n d seq ack home first count) s = .next (brgPump n (1 - d)
      (if (brgHeader n d seq ack 8 true (lanePass n d [] s)).1 = .accept then
        setBrgDir n d { brgDir n d (brgTook n d seq ack s) with run := some (home, first % 4096, count % 256) } (brgTook n d seq ack s)
      else brgTook n d seq ack s)) := by
  show execCarry n d seq ack home first count s = _
  unfold execCarry
  rw [Nat.mod_eq_of_lt hd, if_neg (by omega)]
  exact if_neg (by omega)

theorem exec_carry_bad (hn : n < 32) (hd : d < 2) {home first count : Nat} (h : home = n % 4 ∨ 4 ≤ home ∨ count = 0) :
    exec (.carry n d seq ack home first count) s = .next (brgHeader n d seq ack 8 false (lanePass n d [] s)).2 := by
  show execCarry n d seq ack home first count s = _
  unfold execCarry
  rw [Nat.mod_eq_of_lt hd, if_neg (by omega)]
  exact if_pos h

/-- The lane map of a WIDTH names good lanes, as many as the width. -/
theorem widthGood {w e : Nat} {l : List Nat} {t : State} (hl : l.length = w) (hg : ∀ k ∈ l, laneState n e k t ≠ 2) :
    (l.length == w && l.all (fun k => laneState n e k t != 2)) = true := by
  rw [hl, beq_self_eq_true, Bool.true_and, List.all_eq_true]
  exact fun k hk => bne_iff_ne.mpr (hg k hk)

theorem exec_brgWidth (h : brgTakes n d seq ack s) {w ab ba : Nat} (hw : w = 8 ∨ w = 16) (ha : (lanesOfMap ab).length = w) (hb : (lanesOfMap ba).length = w)
    (ga : ∀ k ∈ lanesOfMap ab, laneState n 0 k (brgTook n d seq ack s) ≠ 2) (gb : ∀ k ∈ lanesOfMap ba, laneState n 1 k (brgTook n d seq ack s) ≠ 2) :
    exec (.brgWidth n d seq ack w ab ba) s = .next (applyWidth n w (lanesOfMap ab) (lanesOfMap ba) (brgTook n d seq ack s)) := by
  obtain ⟨hn, hd, htake⟩ := h
  show execBrgWidth n d seq ack w ab ba s = _
  unfold execBrgWidth
  rw [Nat.mod_eq_of_lt hd, if_neg (by omega)]
  exact if_pos ⟨htake, hw, widthGood ha ga, widthGood hb gb⟩

theorem exec_brgDrainEnd (h : brgTakes n d seq ack s) : exec (.brgDrainEnd n d seq ack) s =
    .next (setBrgDir n d { brgDir n d (brgTook n d seq ack s) with run := none } (brgTook n d seq ack s)) := by
  obtain ⟨hn, hd, htake⟩ := h
  show execBrgDrainEnd n d seq ack s = _
  unfold execBrgDrainEnd
  rw [Nat.mod_eq_of_lt hd, if_neg (by omega)]
  exact congrArg Host.Outcome.next (if_pos htake)

/-- What a SWAP that moves logical lane `lg` from physical lane `old` to `l` leaves of state `u`. -/
def laneSwapped (n seq dir lg l old : Nat) (u : State) : State :=
  raise (brgP n) 16 (ladderStep n 1 dir old (recordCE (brgP n) 0x2003 (brgDetail dir old) (brgLoc dir old seq)
    (bump (brgP n) BRG_LADDER_SWAPS 1 (setBrgX n { brgX n u with swaps := (brgX n u).swaps.filter (fun w => !(w.1 == dir && w.2.1 == old)) }
      (showLanes n (setLane n dir l 1 lg (setLane n dir old 2 31 u)))))))

theorem exec_swap (h : brgTakes n d seq ack s) {dir lg l old : Nat} (hdir : dir < 2) (hl : l < 18)
    (hs : laneState n dir l (brgTook n d seq ack s) = 0) (ho : physLane n dir lg (brgTook n d seq ack s) = some old) {t : State}
    (ht : laneSwapped n seq dir lg l old (brgTook n d seq ack s) = t) :
    exec (.swap n d seq ack dir lg l) s = .next (if (brgX n t).swaps.isEmpty then reLadder n t else t) := by
  obtain ⟨hn, hd, htake⟩ := h
  subst ht
  show execSwap n d seq ack dir lg l s = _
  unfold execSwap
  rw [Nat.mod_eq_of_lt hd, Nat.mod_eq_of_lt hdir, if_neg (by omega)]
  extract_lets r u
  rw [show physLane n dir lg u = some old from ho]
  refine if_neg ?_
  rintro (h | h | h)
  · exact h htake
  · omega
  · exact h hs

/-- Settles O36: each control flit's equation, on the state after its lanes and its header. -/
theorem bridgeControlFlitsAct : Obligations.BridgeControlFlitsAct := by
  intro n d seq ack s
  refine ⟨?_, ?_, ?_, fun hn hd home first count => exec_carry_bad hn hd, fun h w ab ba => exec_brgWidth h, exec_brgDrainEnd,
    fun h dir lg l old t hdir hl hs ho ht => exec_swap h hdir hl hs ho ht⟩
  · intro hn hd c u hu
    refine ⟨_, exec_brgCredit hn hd c hu, brgDir_set_same _ _ _ _, fun m e h => ?_, ((setBrgDir_lo _ _ _ _).trans (setBrgDir_lo _ _ _ _)).rest⟩
    rw [brgDir_set_ne _ _ h, brgDir_set_ne _ _ h]
  · intro hn hd u t hu ht
    rw [exec_brgNak hn hd hu ht]
    exact ⟨fun h => if_neg (by rintro ⟨h8, hx⟩; exact h.elim (Nat.not_lt.mpr h8) hx), fun h8 hx => if_pos ⟨h8, by rw [hx]; decide⟩⟩
  · intro h home first count hh h4 hc
    obtain ⟨hn, hd, htake⟩ := h
    rw [exec_carry hn hd hh h4 hc, if_pos htake]

/-! ### Timers, the sparing ladder, retrains and drains -/

theorem exec_brgReplayTimeout (hn : n < 32) (hd : d < 2) {f : Unacked} {fs : List Unacked} (hr : (brgDir n d s).replay = f :: fs)
    (ht : flag (brgP n) BRG_STAT_RETRAIN s = false) : exec (.brgReplayTimeout n d) s =
      if (brgDir n d s).resent ≥ 8 ∧ ¬ (brgX n s).draining then
        .next (startRetrain n (setBrgDir n d { brgDir n d s with resent := 0 } (waitTill ((brgTime n d s).since + 1000) s)))
      else .next (resend n d f.seq (waitTill ((brgTime n d s).since + 1000) s)) := by
  show execBrgReplayTimeout n d s = _
  unfold execBrgReplayTimeout
  rw [Nat.mod_eq_of_lt hd]
  dsimp only
  rw [hr]
  exact if_neg (by rw [ht]; simp; omega)

theorem exec_brgCreditTimeout (hn : n < 32) (hd : d < 2) {vc : Nat} (hv : vc < 6) (hc : brgCarries n s = true) (hf : (brgDir n d s).free 6 8 336 vc = 0) :
    exec (.brgCreditTimeout n d vc) s = .next (startRetrain n (recordCE (brgP n) 0x2009 (brgDetail d 31) (brgLoc d 31 0)
      (waitTill (((brgTime n d s).dry[vc]?).getD 0 + 1000000) s))) := by
  show execBrgCreditTimeout n d vc s = _
  unfold execBrgCreditTimeout
  rw [Nat.mod_eq_of_lt hd, Nat.mod_eq_of_lt hv]
  exact if_neg (by rw [hc, hf]; simp; omega)

/-- The windows of a lane as LANE_ERROR_RATE brings them. -/
def lanesRated (n d l w1s w1ms : Nat) (s : State) : State :=
  setLaneFails n d l ((brgX n s).fails.filter (fun f => f.dir != d || f.lane != l) ++ [⟨d, l, s.now + 1000000, s.now + 1000000000, w1ms⟩,
    ⟨d, l, 0, s.now + 1000000000, w1s - w1ms⟩]) (setBrgX n { brgX n s with lost := (brgX n s).lost.filter (fun e => e != (d, l)) } s)

theorem exec_laneErrorRate (hn : n < 32) (hd : d < 2) {l w1s w1ms fails : Nat} (hl : l < 18) {u : State}
    (hu : (List.range fails).foldl (fun t _ => recordCE (brgP n) 0x2002 (brgDetail d l) (brgLoc d l 0) t) (lanesRated n d l w1s w1ms s) = u) :
    exec (.laneErrorRate n d l w1s w1ms fails) s = .next (climb n d l (laneRates n d l u).1 (laneRates n d l u).2 (!(laneRates n d l s).1) u) := by
  subst hu
  show execLaneErrorRate n d l w1s w1ms fails s = _
  unfold execLaneErrorRate
  rw [Nat.mod_eq_of_lt hd]
  exact if_neg (by omega)

theorem exec_brgLaneLockLoss (hn : n < 32) (hd : d < 2) {l : Nat} (hl : l < 18) : exec (.brgLaneLockLoss n d l) s =
    .next (climb n d l true true (!(laneRates n d l s).1)
      (setBrgX n { brgX n s with lost := if (brgX n s).lost.contains (d, l) then (brgX n s).lost else (brgX n s).lost ++ [(d, l)] } s)) := by
  show execBrgLaneLockLoss n d l s = _
  unfold execBrgLaneLockLoss
  rw [Nat.mod_eq_of_lt hd]
  exact if_neg (by omega)

theorem exec_spareTrained {l : Nat} {w : Nat × Nat × Nat × Bool} (hw : (brgX n s).swaps.find? (fun w => w.1 == d && w.2.2.1 == l && !w.2.2.2) = some w) :
    exec (.spareTrained n d l true) s = .next (sendBrgCtl n d [4, d, laneLogical n d w.2.1 s, l]
      (setBrgX n { brgX n s with swaps := (brgX n s).swaps.filter (fun v => v != w) ++ [(d, w.2.1, l, true)] } s)) := by
  show execSpareTrained n d l true s = _
  unfold execSpareTrained
  dsimp only
  rw [hw]
  rfl

/-- A retrain ends by its good lanes: too few, a degrade to 8, or the width that was meant. -/
theorem exec_linkRetrainDone (hn : n < 32) (hr : flag (brgP n) BRG_STAT_RETRAIN s = true) {ab ba : Nat} {t : State} (ht : lanesTrained n ab ba s = t) :
    exec (.linkRetrainDone n ab ba) s =
      if goodBoth n t < 8 then .next (loss n (retire n (brgX n t).dir (brgX n t).lane 0x2008 t))
      else if widthMeant n t = 16 ∧ goodBoth n t < 16 then .next (retrained n 8 (retrainDegrade n (lostLane n ab ba s) t))
      else .next (retrained n (widthMeant n t) t) := by
  subst ht
  show execLinkRetrainDone n ab ba s = _
  unfold execLinkRetrainDone
  exact if_neg (by rw [hr]; simp; omega)

/-- A drain that ends: the herds left stranded, the link at rest, and its error if it retires. -/
theorem exec_linkDrainEnd (hn : n < 32) (hx : (brgX n s).draining = true) {t u v : State}
    (ht : drainTold n (if brgQuiet n s then s else waitTill ((brgX n s).since + 100000) s) = t)
    (hu : (strandedHerds n s).foldl (fun t h => strand n h (flitsLeft n 0 s, flitsLeft n 1 s) t) t = u)
    (hv : setBrgX n { brgX n u with draining := false, why := 0, target := 0 } u = v) : exec (.linkDrainEnd n) s =
      .next (relevel (checkBridge (n / 4) (if (brgX n s).why = 3 then raise (brgP n) 18 (recordErr (brgP n) (brgX n s).target 2
        (brgDetail (brgX n s).dir (brgX n s).lane) (brgLoc (brgX n s).dir (brgX n s).lane 0) false v) else v))) := by
  subst ht hu hv
  show execLinkDrainEnd n s = _
  unfold execLinkDrainEnd
  exact if_neg (by rw [hx]; simp; omega)

/-! ### The control register -/

/-- BRG_CTL takes a write by its lock, its MANUAL bit and whether WIDTH_REQ changes. -/
theorem exec_brgCtlWrite {fn v : Nat} (h : reaches fn (brgP n + 0x80) s) : exec (.brgCtlWrite fn n v) s =
    .next (if lockHolds (brgP n + 0x80) s then writeReg (brgP n + 0x80) v s
      else if !bitOf (rdW (brgP n + 0x80) s).toNat 0 && (bitOf (rdW (brgP n + 0x80) s).toNat 1 != bitOf v 1) then
        manualWidth n (raise (brgP n) 23 (writeReg (brgP n + 0x80) (setBits v 1 1 (bitsOf (rdW (brgP n + 0x80) s).toNat 1 1)) s))
      else manualWidth n (writeReg (brgP n + 0x80) v s)) := congrArg Host.Outcome.next (barWrite_goes h)

/-- A bit is a field of one bit. -/
theorem bitOf_bitsOf (m k : Nat) : bitOf m k = (bitsOf m k k == 1) := by
  unfold bitOf bitsOf
  rw [Nat.add_sub_cancel_left, Nat.pow_one]

theorem manual_bit : flag (brgP n) BRG_CTL_MANUAL s = bitOf (rdW (brgP n + 0x80) s).toNat 0 :=
  (bitOf_bitsOf (rdW (brgP n + 0x80) s).toNat 0).symm

theorem bitOf_widthKept (v old : Nat) : bitOf (setBits v 1 1 (bitsOf old 1 1)) 0 = bitOf v 0 ∧ bitOf (setBits v 1 1 (bitsOf old 1 1)) 1 = bitOf old 1 := by
  have hlt := bitsOf_lt old 1 1
  rw [bitOf_bitsOf, bitOf_bitsOf, bitOf_bitsOf, bitOf_bitsOf, bitsOf_setBits_below (by decide) (by decide), bitsOf_setBits_same (by decide),
    Nat.mod_eq_of_lt hlt]
  exact ⟨rfl, rfl⟩

end

/-- Settles O37: the equation of each row, then its branches. -/
theorem bridgeLinksChange : Obligations.BridgeLinksChange := by
  intro n d s hn hd
  refine ⟨?_, ?_, fun vc hv hc hf => exec_brgCreditTimeout hn hd hv hc hf, ?_, ?_, fun l w hw => exec_spareTrained hw, ?_, ?_, ?_, ?_⟩
  · intro hun
    show execBrgCreditTimer n d s = _
    unfold execBrgCreditTimer
    rw [Nat.mod_eq_of_lt hd]
    exact congrArg Host.Outcome.next (if_pos ⟨hn, hun⟩)
  · rintro f fs hr ht t rfl
    rw [exec_brgReplayTimeout hn hd hr ht]
    exact ⟨fun h => if_neg (by rintro ⟨h8, hx⟩; exact h.elim (Nat.not_lt.mpr h8) hx), fun h8 hx => if_pos ⟨h8, by rw [hx]; decide⟩⟩
  · rintro l w1s w1ms fails x t u hl rfl rfl hu
    exact exec_laneErrorRate hn hd hl hu
  · rintro l x hl rfl
    exact exec_brgLaneLockLoss hn hd hl
  · intro ab ba hr t ht
    rw [exec_linkRetrainDone hn hr ht]
    refine ⟨fun h => if_pos h, fun h h16 hg => ?_, fun h hw => ?_⟩
    · rw [if_neg (by omega), if_pos ⟨h16, hg⟩]
    · rw [if_neg (by omega), if_neg (by omega)]
  · intro hc hw
    show execGroupReturn n s = _
    unfold execGroupReturn
    exact congrArg Host.Outcome.next (if_pos ⟨hn, hc, by rw [hw]; decide⟩)
  · intro t u hx ht hu v hv
    rw [exec_linkDrainEnd hn hx ht hu hv]
    exact ⟨fun h => by rw [if_neg h], fun h => by rw [if_pos h]⟩
  · intro fn v h
    rw [exec_brgCtlWrite h, manual_bit]
    refine ⟨fun hl => by rw [if_pos hl], fun hl h0 h1 => ⟨_, ?_, bitOf_widthKept v _⟩, fun hl h1 => ?_⟩
    · rw [if_neg (by rw [hl]; decide), if_pos (by rw [h0]; simpa using h1)]
    · rw [if_neg (by rw [hl]; decide), if_neg (by rcases h1 with h | h <;> simp [h])]

end Sys2Proof.Machine
end

section
/-! PROOFS. The grid: the next hop of a packet (R517-R524, R604, R605); items that are reserved, sent and answered, and the waits between rods that
are broken (chapter 10); herds that are reset, resized and share resources. -/
-- One theorem after another: elaborated side by side, each holds its memory while it waits for those before it.
set_option Elab.async false

namespace Sys2Proof.Machine

variable {s : State}

section
variable {x : GridPkt} {cred pick mask : Nat} {relay : Bool}

/-! ### The next hop of a packet -/

/-- The packet moves by itself: it is a packet of Table 10-2 between places that may speak to each other, and not at its target. -/
def GridPkt.travels (x : GridPkt) (s : State) : Prop :=
  x.cls ≤ 5 ∧ x.here ≠ x.dst ∧ 1 ≤ x.data.length ∧ x.data.length ≤ 256 ∧ strangers x.src x.dst s = false
    ∧ x.herd = (herdOfRod (if x.src < 1024 then x.src else x.dst) s).getD 128

/-- The hop of packet x. -/
def GridPkt.hops (x : GridPkt) (pick cred : Nat) (relay : Bool) (s : State) : Res :=
  exec (.gridPacketHop x.cls x.src x.dst x.here pick cred x.data x.mask relay) s

/-- What it does at a rod when it is headed for `tgt`, or, as hub traffic, for the hub port rod `tgt`. -/
def GridPkt.fromRod (x : GridPkt) (pick cred tgt : Nat) (hub : Bool) (s : State) : Res :=
  let rel := hub && x.dst != hubPlace
  if hub ∧ x.here = tgt then
    match carrier (rodFrame x.here) (rodX (x.src % 1024) % 16 / 4) s with
    | some n => .next (if brgRoom n 1 x.cls (pktFlits x.data.length) s then
        x.go x.cls hubPlace rel (brgSend (rodFrame x.here) (rodX (x.src % 1024) % 16 / 4) 1 x.cls x.herd x.pays s) else s)
    | none => .next s
  else if x.cls ≤ 1 then
    match x.adaptive cred pick tgt s with
    | some nxt => .next (x.hop x.cls nxt rel s)
    | none => .next (x.inOrder cred 5 tgt rel s)
  else .next (x.inOrder cred x.cls tgt rel s)

theorem GridPkt.herd_eq (h : x.travels s) :
    x = ⟨x.cls, x.src, x.dst, x.here, x.data, x.mask, (herdOfRod (if x.src < 1024 then x.src else x.dst) s).getD 128⟩ := by
  obtain ⟨-, -, -, -, -, h⟩ := h
  rw [← h]

theorem GridPkt.not_stopped (h : x.travels s) (hh : x.here ≤ hubPlace) : ¬ (x.here = x.dst ∨ x.cls > 5 ∨ x.here > hubPlace ∨ x.data.isEmpty = true
    ∨ x.data.length > 256 ∨ strangers x.src x.dst s = true) := by
  obtain ⟨hc, hne, h1, h2, hs, -⟩ := h
  rw [List.isEmpty_iff_length_eq_zero, hs]
  rintro (h | h | h | h | h | h)
  · exact hne h
  · omega
  · omega
  · omega
  · omega
  · cases h

theorem GridPkt.hops_fromRod (h : x.travels s) (hh : x.here < 1024) {tgt : Nat} {hub : Bool} (ht : heading x.here x.src x.dst relay s = some (tgt, hub)) :
    x.hops pick cred relay s = x.fromRod pick cred tgt hub s := by
  show execGridPacketHop x.cls x.src x.dst x.here pick cred x.data x.mask relay s = _
  unfold execGridPacketHop
  extract_lets k y
  have hy : y = x := (GridPkt.herd_eq h).symm
  clear_value y
  subst hy
  rw [if_neg (GridPkt.not_stopped h (Nat.le_of_lt hh)), if_neg (Nat.ne_of_lt hh), ht]
  rfl

/-- Hub traffic at its hub port rod goes out over the bridge of its frame. -/
theorem GridPkt.fromRod_port {tgt n : Nat} {hub : Bool} (hh : hub = true) (ht : x.here = tgt)
    (hc : carrier (rodFrame x.here) (rodX (x.src % 1024) % 16 / 4) s = some n) (hr : brgRoom n 1 x.cls (pktFlits x.data.length) s = true) :
    x.fromRod pick cred tgt hub s = .next (x.go x.cls hubPlace (hub && x.dst != hubPlace)
      (brgSend (rodFrame x.here) (rodX (x.src % 1024) % 16 / 4) 1 x.cls x.herd x.pays s)) := by
  unfold GridPkt.fromRod
  rw [if_pos ⟨hh, ht⟩, hc]
  exact congrArg Host.Outcome.next (if_pos hr)

section
variable {tgt : Nat} {hub : Bool} (hp : ¬ (hub = true ∧ x.here = tgt))
include hp

theorem GridPkt.fromRod_adaptive {nxt : Nat} (hc : x.cls ≤ 1) (ha : x.adaptive cred pick tgt s = some nxt) :
    x.fromRod pick cred tgt hub s = .next (x.hop x.cls nxt (hub && x.dst != hubPlace) s) := by
  unfold GridPkt.fromRod
  rw [if_neg hp, if_pos hc, ha]

theorem GridPkt.fromRod_escape (hc : x.cls ≤ 1) (ha : x.adaptive cred pick tgt s = none) :
    x.fromRod pick cred tgt hub s = .next (x.inOrder cred 5 tgt (hub && x.dst != hubPlace) s) := by
  unfold GridPkt.fromRod
  rw [if_neg hp, if_pos hc, ha]

theorem GridPkt.fromRod_ordered (hc : 2 ≤ x.cls) :
    x.fromRod pick cred tgt hub s = .next (x.inOrder cred x.cls tgt (hub && x.dst != hubPlace) s) := by
  unfold GridPkt.fromRod
  rw [if_neg hp, if_neg (by omega)]

end

/-- A packet that goes X then Y takes its way where that has the credit, and waits where not. -/
theorem GridPkt.inOrder_goes {c tgt b nxt : Nat} {rel : Bool} (hb : detour x.here tgt s = some b) (hw : x.way cred c (dirOf x.here b) s = some nxt) :
    x.inOrder cred c tgt rel s = x.hop c nxt rel s := by
  unfold GridPkt.inOrder
  rw [hb]
  dsimp only
  rw [hw]

theorem GridPkt.inOrder_waits {c tgt b : Nat} {rel : Bool} (hb : detour x.here tgt s = some b) (hw : x.way cred c (dirOf x.here b) s = none) :
    x.inOrder cred c tgt rel s = s := by
  unfold GridPkt.inOrder
  rw [hb]
  dsimp only
  rw [hw]

/-- From the hub the packet goes over the last bridge of its path to the port rod of its frame. -/
theorem GridPkt.hops_fromHub (h : x.travels s) (hh : x.here = hubPlace) {bs : List Nat} {g b j n : Nat} (hp : hubPath (rodFrame x.dst) s = some (bs, g))
    (hb : (bs.getLast?).getD g = b) (hj : rodX x.dst % 16 / 4 = j) (hc : carrier b j s = some n) (hr : brgRoom n 0 x.cls (pktFlits x.data.length) s = true) :
    x.hops pick cred relay s = .next (x.go x.cls (portRod g j s) false (brgSend b j 0 x.cls x.herd x.pays s)) := by
  show execGridPacketHop x.cls x.src x.dst x.here pick cred x.data x.mask relay s = _
  unfold execGridPacketHop
  extract_lets k y
  have hy : y = x := (GridPkt.herd_eq h).symm
  clear_value y
  subst hy hb hj
  rw [if_neg (GridPkt.not_stopped h (Nat.le_of_eq hh)), if_pos hh, hp]
  dsimp only
  rw [hc]
  exact congrArg Host.Outcome.next (if_pos hr)

end

/-- Settles O38: where a packet stands and where it is headed choose its hop; its class chooses how it gets there. -/
theorem gridPacketsHop : Obligations.GridPacketsHop := by
  intro cls src dst here pick cred mask data relay s hcls hne h1 h256
  constructor
  · intro hs
    exact if_pos (Or.inr (Or.inr (Or.inr (Or.inr (Or.inr hs)))))
  · intro hs x hx
    have hw : x.travels s := by
      subst hx
      exact ⟨hcls, hne, h1, h256, hs, rfl⟩
    subst hx
    refine ⟨?_, fun hh bs g b j n hp hb hj hc hr => GridPkt.hops_fromHub hw hh hp hb hj hc hr⟩
    rintro hh tgt hub rel ht rfl
    have hrod := GridPkt.hops_fromRod (pick := pick) (cred := cred) hw hh ht
    refine ⟨fun hp => ⟨fun nxt hc ha => hrod.trans (GridPkt.fromRod_adaptive hp hc ha), fun b nxt hc ha hb hy => ?_, fun b nxt hc hb hy => ?_,
      fun b hc hb hy => ?_⟩, ?_⟩
    · exact hrod.trans ((GridPkt.fromRod_escape hp hc ha).trans (congrArg Host.Outcome.next (GridPkt.inOrder_goes hb hy)))
    · exact hrod.trans ((GridPkt.fromRod_ordered hp hc).trans (congrArg Host.Outcome.next (GridPkt.inOrder_goes hb hy)))
    · exact hrod.trans ((GridPkt.fromRod_ordered hp hc).trans (congrArg Host.Outcome.next (GridPkt.inOrder_waits hb hy)))
    · rintro hhub hht q n rfl hc hr
      exact hrod.trans (GridPkt.fromRod_port hhub hht hc hr)

/-! ### Reservations, grants and words -/

/-- A sender in its first phase is judged by its order, its target and the channel's buffer. -/
theorem exec_reservation {i num t ch len : Nat} (h : sendInfo (senderOf i num) s = some (0, t, ch, len)) : exec (.reservation i num) s =
    if sendBehind (senderOf i num) t ch s then .next s
    else if !rodRuns t s then .next (answerSend (senderOf i num) 0x82 s)
    else if getF (msgP t) (MSG_CH_BUF_SIZE ch) s == 0 then .next (answerSend (senderOf i num) 0x81 s)
    else if granules len > getF (msgP t) (MSG_CH_BUF_SIZE ch) s then .next (answerSend (senderOf i num) 0x80 s)
    else if (resvsAt t s).length ≥ 256 then .next (sendPhase (senderOf i num) 2 true (raise (msgP t) 19 s))
    else .next (sendPhase (senderOf i num) 1 true { s with resvs := alSet s.resvs t (resvsAt t s ++ [⟨senderOf i num, ch, granules len⟩]) }) := by
  show execReservation i num s = _
  unfold execReservation
  dsimp only
  rw [h]
  rfl

theorem exec_reservationRetry {i num : Nat} {x : Nat × Nat × Nat} (h : sendInfo (senderOf i num) s = some (2, x)) :
    exec (.reservationRetry i num) s = .next (sendPhase (senderOf i num) 0 true (waitTill (sendSince (senderOf i num) s + 1000) s)) := by
  show execReservationRetry i num s = _
  unfold execReservationRetry
  rw [h]
  rfl

theorem exec_grant {t ch : Nat} {r : Resv} (h : (resvsAt t s).find? (fun r => r.ch == ch) = some r) (hc : isCchan t ch s = false)
    (hf : r.gran ≤ chanFree t ch s) : exec (.grant t ch) s = .next (sendGranted t ch r (setF (msgP t) (MSG_CH_STAT_FREE ch) (chanFree t ch s - r.gran)
      { s with resvs := alSet s.resvs t ((resvsAt t s).erase r) })) := by
  show execGrant t ch s = _
  unfold execGrant
  rw [h]
  dsimp only
  rw [if_neg (by rw [hc]; simp; omega), hc]
  exact congrArg Host.Outcome.next rfl

/-- A word that was on its way: lost with its rod, or taken by its queue; an answer goes to the sender. -/
theorem exec_framedWordArrival {q prod w mask : Nat} {f : Flight} {x : Nat × Nat} {ws : List (Nat × Nat)}
    (h : s.flights.find? (fun f => f.q == q && f.prod == prod) = some f) (hw : f.words = x :: ws) {t : State}
    (ht : { s with flights := if ws.isEmpty then s.flights.erase f else s.flights.map (fun g => if g == f then { g with words := ws } else g) } = t) :
    (lostWord f s = true → exec (.framedWordArrival q prod w mask) s = .next (if ws.isEmpty then answerSend f.src 0x82 t else t))
    ∧ (∀ u, lostWord f s = false → wordIn q prod x.1 x.2 t = (none, u) → exec (.framedWordArrival q prod w mask) s = .next u)
    ∧ (∀ code u, lostWord f s = false → wordIn q prod x.1 x.2 t = (some code, u) →
      exec (.framedWordArrival q prod w mask) s = .next (answerSend f.src code u)) := by
  subst ht
  show (_ → execFramedWordArrival q prod w mask s = _) ∧ (∀ u, _ → _ → execFramedWordArrival q prod w mask s = _)
    ∧ (∀ code u, _ → _ → execFramedWordArrival q prod w mask s = _)
  unfold execFramedWordArrival
  rw [h]
  dsimp only
  rw [hw]
  refine ⟨fun hl => if_pos hl, fun u hl hu => ?_, fun code u hl hu => ?_⟩
  · dsimp only
    rw [if_neg (by rw [hl]; decide), hu]
  · dsimp only
    rw [if_neg (by rw [hl]; decide), hu]

/-- A word that comes alone to a channel's queue. -/
theorem exec_wordAlone {q prod w mask : Nat} (h : s.flights.find? (fun f => f.q == q && f.prod == prod) = none) (hq : q < 0x8000) :
    exec (.framedWordArrival q prod w mask) s = .next (wordIn q prod w mask s).2 := by
  show execFramedWordArrival q prod w mask s = _
  unfold execFramedWordArrival
  rw [h]
  exact if_pos hq

/-- A word that comes alone to a pipe's syntax buffer. -/
theorem exec_synWord {v prod w mask : Nat} (h : s.flights.find? (fun f => f.q == 0xA000 + v && f.prod == prod) = none) (hv : v < 4) :
    exec (.framedWordArrival (0xA000 + v) prod w mask) s = .next (synWord v prod w mask s) := by
  show execFramedWordArrival (0xA000 + v) prod w mask s = _
  unfold execFramedWordArrival
  rw [h]
  dsimp only
  rw [if_neg (by omega), if_pos (by omega), Nat.add_sub_cancel_left]

section
variable {q prod w mask : Nat} {p : FPart}

/-- The part of an item after the word `w`. -/
def FPart.grown (p : FPart) (w mask : Nat) : FPart :=
  { p with body := p.body ++ leBytes 8 w, bad := p.bad ++ ((List.range 8).filter (bitOf mask)).map (fun k => p.body.length + k), left := p.left - 1 }

/-- The parts of the queue but those of `prod`. -/
def otherParts (q prod : Nat) (s : State) : List FPart := (fqOf q s).parts.filter (fun x => x.prod != prod)

theorem wordIn_goesOn (h : (fqOf q s).parts.find? (fun p => p.prod == prod) = some p) (hl : 1 < p.left) :
    wordIn q prod w mask s = (none, setFq q { fqOf q s with parts := otherParts q prod s ++ [p.grown w mask] } s) := by
  unfold wordIn
  dsimp only
  rw [h]
  exact if_neg (by omega)

theorem wordIn_drops (h : (fqOf q s).parts.find? (fun p => p.prod == prod) = some p) (hl : p.left ≤ 1) (hd : p.drop = true) :
    wordIn q prod w mask s = (some 3, setFq q { fqOf q s with parts := otherParts q prod s } s) := by
  unfold wordIn
  dsimp only
  rw [h]
  dsimp only
  rw [if_pos hl, if_pos hd]
  rfl

theorem wordIn_ends (h : (fqOf q s).parts.find? (fun p => p.prod == prod) = some p) (hl : p.left ≤ 1) (hd : p.drop = false) :
    (wordIn q prod w mask s).2 = (itemWhole q (p.grown w mask) (setFq q { fqOf q s with parts := otherParts q prod s } s)).2 := by
  unfold wordIn
  dsimp only
  rw [h]
  dsimp only
  rw [if_pos hl, if_neg (by rw [hd]; decide)]
  rfl

theorem wordIn_begins (h : (fqOf q s).parts.find? (fun p => p.prod == prod) = none) (hk : headerOk q w = true) (hn : 1 < (w % 65536 + 7) / 8) :
    wordIn q prod w mask s = (none, setFq q { fqOf q s with
      resync := nsErase (fqOf q s).resync prod, parts := (fqOf q s).parts ++ [⟨prod, w, [], [], (w % 65536 + 7) / 8 - 1, false⟩] } s) := by
  unfold wordIn
  dsimp only
  rw [h]
  dsimp only
  rw [if_pos hk, if_neg (by omega)]

theorem wordIn_skipped (h : (fqOf q s).parts.find? (fun p => p.prod == prod) = none) (hk : headerOk q w = false)
    (hr : (fqOf q s).resync.contains prod = true) : wordIn q prod w mask s = (none, s) := by
  unfold wordIn
  dsimp only
  rw [h]
  dsimp only
  rw [if_neg (by rw [hk]; decide), if_pos hr]

theorem wordIn_framing (h : (fqOf q s).parts.find? (fun p => p.prod == prod) = none) (hk : headerOk q w = false)
    (hr : (fqOf q s).resync.contains prod = false) :
    wordIn q prod w mask s = (some 3, framingError q (setFq q { fqOf q s with resync := nsInsert (fqOf q s).resync prod } s)) := by
  unfold wordIn
  dsimp only
  rw [h]
  dsimp only
  rw [if_neg (by rw [hk]; decide), if_neg (by rw [hr]; decide)]

end

/-! ### Answers, timers and channels -/

theorem exec_itemAnswer_rod {i num : Nat} {x : Nat × Nat × Nat} {c : Started} (hi : i < 1024) (h : sendInfo (senderOf i num) s = some (4, x))
    (hc : startedBy i num s = some c) (hu : cwUnit c.cmd.word = 5) : exec (.itemAnswer i num) s = .next (sendDone i num ((c.aux[6]?).getD 0) s) := by
  have hs : senderOf i num = .rod i num := if_pos hi
  show execItemAnswer i num s = _
  unfold execItemAnswer
  rw [hs] at h ⊢
  dsimp only
  rw [h]
  rw [hc]
  exact if_neg (by omega)

theorem exec_itemAnswer_hub {id key : Nat} {x : Nat × Nat × Nat} {h : HubItem} (hi : sendInfo (.hub id) s = some (4, x))
    (hh : s.hubItems.find? (fun h => h.id == id) = some h) (hd : h.dup = none) (he : h.entry = some key) (ha : 0 < h.answer) :
    exec (.itemAnswer 1024 id) s = .next (hqOver key (h.answer % 256) 0 [] { s with hubItems := s.hubItems.filter (fun x => x.id != id) }) := by
  have hs : senderOf 1024 id = .hub id := if_neg (by decide)
  show execItemAnswer 1024 id s = _
  unfold execItemAnswer
  rw [hs]
  dsimp only
  rw [hi]
  rw [hh]
  dsimp only
  rw [hd, he, if_neg (by omega)]
  rfl

theorem exec_resvTimeout {i num ph t ch len : Nat} (h : sendInfo (senderOf i num) s = some (ph, t, ch, len)) (hp : ph = 0 ∨ ph = 3) :
    exec (.resvTimeout i num) s = .next (recordWith (msgP (if i < 1024 then i else t)) 0x1805 2 ch t false false ((senderHerd (senderOf i num) s).toList)
      (waitTill (sendSince (senderOf i num) s + 1000000) s)) := by
  show execResvTimeout i num s = _
  unfold execResvTimeout
  rw [h]
  exact if_pos hp

theorem exec_msgChFlush {fn i k v : Nat} (h : reaches fn (msgP i + 0x10C + 16 * k) s) (hv : bitOf v 0 = true) :
    exec (.msgChFlush fn i k v) s = .next (flushChan i k s) := by
  show Host.Outcome.next (barWrite fn (msgP i + 0x10C + 16 * k) _ s) = _
  rw [barWrite_goes h, if_pos hv]

theorem exec_msgChBufWrite {fn i k v : Nat} (h : reaches fn (msgP i + 0x100 + 16 * k) s) (hl : flag (msgP i) PG_LOCK_LOCKED s = false) :
    (spadSize < (v % 2 ^ 15 + min 32768 (bitsOf v 31 16)) * 64 → exec (.msgChBufWrite fn i k v) s = .next (raise (msgP i) 18 s))
    ∧ ∀ t u, (v % 2 ^ 15 + min 32768 (bitsOf v 31 16)) * 64 ≤ spadSize → flushChan i k s = t →
      writeReg (msgP i + 0x100 + 16 * k) (min 32768 (bitsOf v 31 16) * 65536 + v % 2 ^ 15) t = u →
      exec (.msgChBufWrite fn i k v) s = .next (recheckHeld (setFq (chanKey i k) { fqOf (chanKey i k) u with tail := 0 }
        (setF (msgP i) (MSG_CH_STAT_FREE k) (min 32768 (bitsOf v 31 16) - (getF (msgP i) (MSG_CH_BUF_SIZE k) t - chanFree i k t)) u))) := by
  show (_ → Host.Outcome.next (barWrite fn (msgP i + 0x100 + 16 * k) _ s) = _)
    ∧ ∀ t u, _ → _ → _ → Host.Outcome.next (barWrite fn (msgP i + 0x100 + 16 * k) _ s) = _
  rw [barWrite_goes h, if_neg (by rw [hl]; decide)]
  refine ⟨fun hb => congrArg Host.Outcome.next (if_pos hb), ?_⟩
  rintro t u hb rfl rfl
  exact congrArg Host.Outcome.next (if_neg (Nat.not_lt.mpr hb))

/-! ### Probes -/

theorem exec_probeTimer {i num n : Nat} {c : Started} (hc : startedBy i num s = some c) (hd : dlHerd i s = some n) (hb : c.blocked = true)
    (he : edgeOf i c s ≠ .none) {t : State} (ht : waitTill (max (c.since + getF (herdP n) HERD_MODE_HOLD s * 1000) c.probeAt) s = t) :
    exec (.probeTimer i num) s = .next (sendProbe i ⟨false, nodeId s, i, cwUnit c.cmd.word, num, c.since, c.fab, c.block, 0, 0, []⟩ (edgeOf i c s)
      (bump (msgP i) MSG_PROBES_INIT 1 (updStarted i num (fun c' => { c' with probeAt := t.now + probeEvery (edgeOf i c s) }) t))) := by
  subst ht
  show execProbeTimer i num s = _
  unfold execProbeTimer
  rw [hc, hd]
  exact if_pos ⟨hb, he⟩

section
variable {k : Nat} {p : Probe} {t : State} (hp : s.probes[k]? = some p) (ht : { s with probes := s.probes.eraseIdx k } = t)
include hp ht

theorem exec_probe_ignored (hc : p.conf = false) (hk : probeTakes (probeRod p t) t = false) : exec (.probe k) s = .next t := by
  subst ht
  show execProbe k s = _
  unfold execProbe
  rw [hp]
  dsimp only
  rw [if_neg (by rw [hc]; decide)]
  exact if_pos (by rw [hk]; decide)

/-- The probe has come back to its initiator, whose wait still stands. -/
def probeHome (p : Probe) (t : State) : Bool :=
  decide (p.node = nodeId t) && p.rod == probeRod p t &&
    (match startedBy (probeRod p t) p.num t with
     | some c => c.blocked && c.block == p.block && c.since == p.start
     | none => false)

theorem exec_probe (hc : p.conf = false) (hk : probeTakes (probeRod p t) t = true) : exec (.probe k) s =
    .next (if p.path.length ≥ 1024 then (if probeHome p t then confirmOn (probeRod p t) { p with conf := true, passed := 0 } t else t)
      else forwardProbe p (probeRod p t) (if probeHome p t then confirmOn (probeRod p t) { p with conf := true, passed := 0 } t else t)) := by
  subst ht
  show execProbe k s = _
  unfold execProbe
  rw [hp]
  dsimp only
  rw [if_neg (by rw [hc]; decide)]
  exact if_neg (by rw [hk]; decide)

theorem exec_confirmation_passes {c : Started} {x : Nat × Nat × Nat × Nat} (hc : p.conf = true) (hx : p.path[p.passed]? = some x)
    (hs : startedBy x.2.1 x.2.2.1 t = some c) (h : c.blocked = true ∧ c.block = x.2.2.2 ∧ x.2.1 = p.dest ∧ probeTakes x.2.1 t = true) :
    exec (.confirmation k) s = .next (confirmOn x.2.1 { p with passed := p.passed + 1 } t) := by
  subst ht
  show execConfirmation k s = _
  unfold execConfirmation
  rw [hp]
  dsimp only
  rw [if_neg (by rw [hc]; decide), hx]
  dsimp only
  rw [hs]
  exact if_pos h

theorem exec_confirmation_breaks {c : Started} (hc : p.conf = true) (hx : p.path[p.passed]? = none)
    (hs : startedBy p.rod p.num t = some c) (h : c.blocked = true ∧ c.block = p.block ∧ c.since = p.start ∧ p.rod = p.dest ∧ probeTakes p.rod t = true) :
    exec (.confirmation k) s = .next (breakWait p.rod p.num (p.path.length + 1) t) := by
  subst ht
  show execConfirmation k s = _
  unfold execConfirmation
  rw [hp]
  dsimp only
  rw [if_neg (by rw [hc]; decide), hx]
  dsimp only
  rw [hs]
  exact if_pos h

end

theorem probeHome_away {p : Probe} (h : ¬ (p.node = nodeId s ∧ p.rod = probeRod p s)) : probeHome p s = false := by
  unfold probeHome
  rw [Bool.and_eq_false_iff]
  left
  rw [Bool.and_eq_false_iff, decide_eq_false_iff_not, beq_eq_false_iff_ne]
  exact Classical.not_and_iff_not_or_not.mp h

theorem probeHome_stands {p : Probe} {c : Started} (hn : p.node = nodeId s) (hr : p.rod = probeRod p s) (hc : startedBy p.rod p.num s = some c)
    (hb : c.blocked = true) (hk : c.block = p.block) (hs : c.since = p.start) : probeHome p s = true := by
  unfold probeHome
  rw [← hr, hc]
  simp [hn, hb, hk, hs]

/-- Settles O42: each row's equation, then the branch that the sender, the word, the register or the probe chooses. -/
theorem itemsAreReservedSentAndAnswered : Obligations.ItemsAreReservedSentAndAnswered := by
  refine ⟨?_, fun i num x s h => exec_reservationRetry h, fun t ch r s h hc hf => exec_grant h hc hf, ?_, ?_, ?_,
    fun i num x c s hi h hc hu => exec_itemAnswer_rod hi h hc hu, fun id x h key s hi hh hd he ha => exec_itemAnswer_hub hi hh hd he ha,
    fun i num ph t ch len s h hp => exec_resvTimeout h hp, fun fn i k v s h hv => exec_msgChFlush h hv,
    fun fn i k v s h hl => (exec_msgChBufWrite h hl).1, fun fn i k v s t u h hl => (exec_msgChBufWrite h hl).2 t u,
    fun i num n c s t hc hd hb he ht => exec_probeTimer hc hd hb he ht, ?_, ?_⟩
  · intro i num t ch len s h
    rw [exec_reservation h]
    refine ⟨fun hb => if_pos hb, fun hb => ?_⟩
    rw [if_neg (by rw [hb]; decide)]
    refine ⟨fun hr h0 hg => ?_, fun hr => if_pos (by rw [hr]; decide), fun hr h0 => ?_, fun hr h0 hg => ?_⟩
    · rw [if_neg (by rw [hr]; decide), if_neg (by simp; omega), if_neg (by omega)]
      exact ⟨fun hf => if_neg (by omega), fun hf => if_pos hf⟩
    · rw [if_neg (by rw [hr]; decide), if_pos (by simp [h0])]
    · rw [if_neg (by rw [hr]; decide), if_neg (by simp; omega), if_pos hg]
  · intro q prod w mask f x y ws s t h
    exact ⟨fun hw ht => exec_framedWordArrival h hw ht, fun hw ht => exec_framedWordArrival h hw ht⟩
  · intro q prod w mask s h hq
    rw [exec_wordAlone h hq]
    refine ⟨fun p hp => ⟨fun hl => ?_, fun hl hd => ?_, fun hl hd => ?_⟩, fun hp => ⟨fun hk hn => ?_, fun hk hr => ?_, fun hk hr => ?_⟩⟩
    · rw [wordIn_goesOn hp hl]
      rfl
    · rw [wordIn_drops hp hl hd]
      rfl
    · rw [wordIn_ends hp hl hd]
      rfl
    · rw [wordIn_begins hp hk hn]
    · rw [wordIn_skipped hp hk hr]
    · rw [wordIn_framing hp hk hr]
  · intro v prod w mask s t hv h
    rw [exec_synWord h hv]
    refine ⟨fun hs => congrArg Host.Outcome.next (if_neg (by rw [hs]; decide)), ?_⟩
    rintro hs rfl
    exact congrArg Host.Outcome.next (if_pos hs)
  · intro k p s t hp ht hc
    refine ⟨fun hk => exec_probe_ignored hp ht hc hk, fun hk ha hl => ?_, fun c hk hn hr hs hb hblk hst hl => ?_, fun hk hn hl => ?_⟩
    · rw [exec_probe hp ht hc hk, probeHome_away ha, if_neg (Nat.not_le.mpr hl)]
      rfl
    · rw [exec_probe hp ht hc hk, probeHome_stands hn hr hs hb hblk hst, ← hr, if_neg (Nat.not_le.mpr hl)]
      rfl
    · rw [exec_probe hp ht hc hk, probeHome_away (fun h => hn h.1), if_pos hl]
      rfl
  · intro k p c s t hp ht hc
    exact ⟨fun x hx hs hb hk hd hr => exec_confirmation_passes hp ht hc hx hs ⟨hb, hk, hd, hr⟩,
      fun hx hs hb hk hst hd hr => exec_confirmation_breaks hp ht hc hx hs ⟨hb, hk, hst, hd, hr⟩⟩

/-! ### Herds -/

section
variable {fn n v : Nat}

theorem exec_herdReset (h : reaches fn (herdP n + 0x8C) s) (hv : bitOf v 0 = true) : exec (.herdReset fn n v) s =
    .next (if lifeAt (statOf (herdP n)) s = 2 ∨ lifeAt (statOf (herdP n)) s = 5 then herdReset n false s else raise (herdP n) 3 s) := by
  show Host.Outcome.next (barWrite fn (herdP n + 0x8C) _ s) = _
  rw [barWrite_goes h, if_neg (by rw [hv]; decide)]

theorem exec_herdResize_refused (h : reaches fn (herdP n + 0x90) s) (hv : bitOf v 31 = true)
    (hr : lifeAt (statOf (herdP n)) s ≠ 2 ∨ flag (herdP n) HERD_RSTAT_BUSY s = true ∨ (herdRods n s).any (fun i => lifeAt (statOf (seqP i)) s != 0) = true) :
    exec (.herdResize fn n v) s = .next (setF (herdP n) HERD_RSTAT_STATUS 0x13 s) := by
  show Host.Outcome.next (barWrite fn (herdP n + 0x90) _ s) = _
  rw [barWrite_goes h, if_neg (by rw [hv]; decide)]
  exact congrArg Host.Outcome.next (if_pos hr)

/-- What the checks of a resize say of the rods that join. -/
def resizeChecks (n v : Nat) (s : State) : Option Nat :=
  rodChecks n (herdX0 n s) (herdY0 n s) (bitsOf v 21 16) (bitsOf v 29 24)
    ((rectRods (herdX0 n s) (herdY0 n s) (bitsOf v 21 16) (bitsOf v 29 24)).filter (fun i => !(geomRods n s).contains i)) s

theorem exec_herdResize (h : reaches fn (herdP n + 0x90) s) (hv : bitOf v 31 = true) (hl : lifeAt (statOf (herdP n)) s = 2)
    (hb : flag (herdP n) HERD_RSTAT_BUSY s = false) (hs : (herdRods n s).any (fun i => lifeAt (statOf (seqP i)) s != 0) = false) :
    (∀ st, resizeChecks n v s = some st → exec (.herdResize fn n v) s = .next (setF (herdP n) HERD_RSTAT_STATUS st s))
    ∧ (resizeChecks n v s = none → exec (.herdResize fn n v) s =
      .next (setF (herdP n) HERD_RSTAT_BUSY 1 { s with resizes := alSet s.resizes n ⟨bitsOf v 21 16, bitsOf v 29 24, none⟩ })) := by
  show (∀ st, _ → Host.Outcome.next (barWrite fn (herdP n + 0x90) _ s) = _) ∧ (_ → Host.Outcome.next (barWrite fn (herdP n + 0x90) _ s) = _)
  have hno : ¬ (lifeAt (statOf (herdP n)) s ≠ 2 ∨ flag (herdP n) HERD_RSTAT_BUSY s = true
      ∨ (herdRods n s).any (fun i => lifeAt (statOf (seqP i)) s != 0) = true) := by
    rintro (h | h | h)
    · exact h hl
    · simp [h] at hb
    · simp [h] at hs
  unfold resizeChecks
  rw [barWrite_goes h, if_neg (by rw [hv]; decide)]
  dsimp only
  rw [if_neg hno]
  constructor
  · intro st hst
    rw [hst]
  · intro hst
    rw [hst]

/-! #### Shares -/

/-- HERD_SHARE's fields: CAP, WEIGHT, FLOOR. -/
def shareSpec : RSpec := ⟨0x0A0, [(4, 12)], .no, [fs 23 16 .rwl z z kp, fs 15 8 .ro (.val 16) (.val 16) kp,
  fs 7 0 .rwl (.val 16) (.val 16) kp]⟩

variable {r : Nat}

theorem specAt_share : ∀ r < 12, specAt specsHERD (0xA0 + 4 * r) = some shareSpec := by decide +kernel

theorem regSpec_share (hn : n < 128) (hr : r < 12) : regSpec (herdP n + 0xA0 + 4 * r) = some shareSpec := by
  have hs : specAt (specsOf .herd n) (0xA0 + 4 * r) = some shareSpec := specAt_share r hr
  rw [Nat.add_assoc]
  exact (regSpec_kindBase (k := .herd) (i := n) (o := 0xA0 + 4 * r) hn (by omega) (by omega)).trans hs

theorem herdP_page (n : Nat) : 0x90000 ≤ herdP n ∧ herdP n % 0x1000 = 0 := by dsimp only [herdP]; omega

/-- What a write of HERD_SHARE leaves in each of its fields, and in the other registers but PG_EVT. -/
theorem writeReg_share (hn : n < 128) (hr : r < 12) :
    (∀ f ∈ shareSpec.fields, f.offOnly = false → f.acc = .rwl → bitsOf (rdW (herdP n + 0xA0 + 4 * r) (writeReg (herdP n + 0xA0 + 4 * r) v s)).toNat f.hi f.lo =
      if flag (herdP n) PG_LOCK_LOCKED s then bitsOf (rdW (herdP n + 0xA0 + 4 * r) s).toNat f.hi f.lo else bitsOf v f.hi f.lo)
    ∧ bitsOf (rdW (herdP n + 0xA0 + 4 * r) (writeReg (herdP n + 0xA0 + 4 * r) v s)).toNat 15 8 = bitsOf (rdW (herdP n + 0xA0 + 4 * r) s).toNat 15 8 := by
  obtain ⟨hi, hm⟩ := herdP_page n
  have hb : pageBase (herdP n + 0xA0 + 4 * r) = herdP n := by rw [Nat.add_assoc]; exact pageBase_add hm (by omega)
  have hreg := regSpec_share hn hr
  obtain ⟨hpair, hin⟩ := registerFieldsDoNotMeet _ _ hreg
  have hhigh : canon (herdP n + 0xA0 + 4 * r) = herdP n + 0xA0 + 4 * r := canon_high (by omega)
  obtain ⟨hfield, -, -⟩ := writeReg_goes (v := v) (s := s) hreg hpair hin (by omega) (by rw [hhigh]; omega) (by rw [hhigh]; omega)
  refine ⟨fun f hf hoff hacc => ?_, hfield (fs 15 8 .ro (.val 16) (.val 16) kp) (by decide)⟩
  rw [hfield f hf, hb]
  unfold fieldAfter
  rw [hacc, hoff, Bool.false_and, Bool.or_false]

/-- The share after its write: WEIGHT follows FLOOR, but the policy's weights stand above it. -/
def shareTaken (n r v : Nat) (s : State) : State :=
  let t := writeReg (herdP n + 0xA0 + 4 * r) v s
  let fl := getF (herdP n) (HERD_SHARE_FLOOR r) t
  setF (herdP n) (HERD_SHARE_WEIGHT r) (if flag (thmP 1) THM_GOAL_SHARES_MAN t then fl else max fl (getF (herdP n) (HERD_SHARE_WEIGHT r) t)) t

theorem exec_herdShareWrite (hr : r < 12) (h : reaches fn (herdP n + 0xA0 + 4 * r) s) : exec (.herdShareWrite fn n r v) s =
    .next (if rdW (herdP n + 0xA0 + 4 * r) (shareTaken n r v s) = rdW (herdP n + 0xA0 + 4 * r) s then shareTaken n r v s
      else relevel (raise (herdP n) 19 (shareTaken n r v s))) := by
  show execHerdShareWrite fn n r v s = _
  unfold execHerdShareWrite
  rw [if_neg (by omega)]
  exact congrArg Host.Outcome.next (barWrite_goes h)

theorem share_off (n r : Nat) : herdP n + (0xA0 + 4 * r) = herdP n + 0xA0 + 4 * r := by omega

/-- FLOOR and CAP stand after a write as the lock lets them. -/
theorem shareTaken_field (hn : n < 128) (hr : r < 12) {f : Field} (hf : f = HERD_SHARE_FLOOR r ∨ f = HERD_SHARE_CAP r) :
    getF (herdP n) f (shareTaken n r v s) = if flag (herdP n) PG_LOCK_LOCKED s then getF (herdP n) f s else bitsOf v f.hi f.lo := by
  obtain ⟨hfield, -⟩ := writeReg_share (v := v) (s := s) hn hr
  unfold shareTaken
  rcases hf with rfl | rfl
  · rw [getF_setF_beside (f := HERD_SHARE_FLOOR r) (g := HERD_SHARE_WEIGHT r) _ _ rfl (show 8 ≤ 15 by decide) (show 15 < 32 by decide) (.inr (show 7 < 8 by decide))]
    unfold getF
    rw [share_off]
    exact hfield (fs 7 0 .rwl (.val 16) (.val 16) kp) (by decide) rfl rfl
  · rw [getF_setF_beside (f := HERD_SHARE_CAP r) (g := HERD_SHARE_WEIGHT r) _ _ rfl (show 8 ≤ 15 by decide) (show 15 < 32 by decide) (.inl (show 15 < 16 by decide))]
    unfold getF
    rw [share_off]
    exact hfield (fs 23 16 .rwl z z kp) (by decide) rfl rfl

/-- On a page that is not locked a write of HERD_SHARE writes that register only. -/
theorem rdW_share (hn : n < 128) (hr : r < 12) (hl : flag (herdP n) PG_LOCK_LOCKED s = false) {a : Nat} (h : a ≠ herdP n + 0xA0 + 4 * r) :
    rdW a (writeReg (herdP n + 0xA0 + 4 * r) v s) = rdW a s := by
  obtain ⟨hi, hm⟩ := herdP_page n
  have hb : pageBase (herdP n + 0xA0 + 4 * r) = herdP n := by rw [Nat.add_assoc]; exact pageBase_add hm (by omega)
  rw [writeReg_free (regSpec_share hn hr) (by rw [hb, hl]; rfl) rfl, rdW_wrW_ne _ _ (canon_ne_high (by omega) h)]

theorem rdW_shareTaken (hn : n < 128) (hr : r < 12) (hl : flag (herdP n) PG_LOCK_LOCKED s = false) {a : Nat} (h : a ≠ herdP n + 0xA0 + 4 * r) :
    rdW a (shareTaken n r v s) = rdW a s := by
  have hi := (herdP_page n).1
  unfold shareTaken
  rw [rdW_setF_ne _ _ (canon_ne_high (by omega) (by rw [share_off]; exact h)), rdW_share hn hr hl h]

theorem shareTaken_weight (hn : n < 128) (hr : r < 12) (hl : flag (herdP n) PG_LOCK_LOCKED s = false) :
    getF (herdP n) (HERD_SHARE_WEIGHT r) (shareTaken n r v s) = if flag (thmP 1) THM_GOAL_SHARES_MAN s = true then bitsOf v 7 0
      else max (bitsOf v 7 0) (getF (herdP n) (HERD_SHARE_WEIGHT r) s) := by
  obtain ⟨hfield, hweight⟩ := writeReg_share (v := v) (s := s) hn hr
  have hfloor : getF (herdP n) (HERD_SHARE_FLOOR r) (writeReg (herdP n + 0xA0 + 4 * r) v s) = bitsOf v 7 0 := by
    unfold getF
    rw [share_off]
    exact (hfield (fs 7 0 .rwl (.val 16) (.val 16) kp) (by decide) rfl rfl).trans (if_neg (by rw [hl]; decide))
  have hw : getF (herdP n) (HERD_SHARE_WEIGHT r) (writeReg (herdP n + 0xA0 + 4 * r) v s) = getF (herdP n) (HERD_SHARE_WEIGHT r) s := by
    unfold getF
    rw [share_off]
    exact hweight
  have hman : flag (thmP 1) THM_GOAL_SHARES_MAN (writeReg (herdP n + 0xA0 + 4 * r) v s) = flag (thmP 1) THM_GOAL_SHARES_MAN s := by
    unfold flag getF
    rw [rdW_share hn hr hl (by dsimp only [herdP, thmP]; omega)]
  have h1 := bitsOf_lt v 7 0
  have h2 := bitsOf_lt (rdW (herdP n + (0xA0 + 4 * r)) s).toNat 15 8
  unfold shareTaken
  dsimp only
  rw [getF_setF_same _ _ (show 8 ≤ 15 by decide) (show 15 < 32 by decide), hfloor, hw, hman]
  refine Nat.mod_eq_of_lt ?_
  split
  · exact h1
  · exact Nat.max_lt.mpr ⟨h1, h2⟩

/-- FLOOR and CAP do not hear of the levels that follow. -/
theorem getF_relevel_share {f : Field} (hr : r < 12) (hf : f.off = 0xA0 + 4 * r) (b : Nat) (t : State) :
    getF (herdP n) f (relevel (raise (herdP n) b t)) = getF (herdP n) f t := by
  obtain ⟨hi, hm⟩ := herdP_page n
  refine getF_of_rdW ?_
  rw [hf, rdW_relevel _ (by omega) (by omega) (by omega), rdW_raise_high _ _ _ (by omega) (by omega)]

end

/-- Settles O43: a herd's registers act by its state, the checks of a resize and the lock of its page. -/
theorem herdsAreResetResizedAndShared : Obligations.HerdsAreResetResizedAndShared := by
  intro fn n v s
  refine ⟨fun h hv => ?_, fun h hv => ⟨exec_herdResize_refused h hv, fun hl hb hs r hr => ?_⟩, fun r hr h hn => ⟨fun hl => ?_, fun hl => ?_⟩⟩
  · rw [exec_herdReset h hv]
    exact ⟨fun hs => by rw [if_pos hs], fun h2 h5 => by rw [if_neg (by omega)]⟩
  · obtain ⟨hsome, hnone⟩ := exec_herdResize h hv hl hb hs
    exact ⟨fun st hst => hsome st (hr.trans hst), fun hst => hnone (hr.trans hst)⟩
  · refine ⟨shareTaken n r v s, exec_herdShareWrite hr h, ?_, ?_, shareTaken_weight hn hr hl, fun a _ ha => rdW_shareTaken hn hr hl ha⟩
    · exact (shareTaken_field hn hr (.inl rfl)).trans (if_neg (by rw [hl]; decide))
    · exact (shareTaken_field hn hr (.inr rfl)).trans (if_neg (by rw [hl]; decide))
  · have hkept (f : Field) (hf : f = HERD_SHARE_FLOOR r ∨ f = HERD_SHARE_CAP r) :
        getF (herdP n) f (shareTaken n r v s) = getF (herdP n) f s := (shareTaken_field hn hr hf).trans (if_pos hl)
    rw [exec_herdShareWrite hr h]
    by_cases hsame : rdW (herdP n + 0xA0 + 4 * r) (shareTaken n r v s) = rdW (herdP n + 0xA0 + 4 * r) s
    · rw [if_pos hsame]
      exact ⟨_, rfl, hkept _ (.inl rfl), hkept _ (.inr rfl)⟩
    · rw [if_neg hsame]
      exact ⟨_, rfl, (getF_relevel_share hr rfl _ _).trans (hkept _ (.inl rfl)), (getF_relevel_share hr rfl _ _).trans (hkept _ (.inr rfl))⟩

end Sys2Proof.Machine
end

section
/-! PROOFS. Ranhosia Link: what a port accepts, repeats and resends (R630-R633), how it trains and changes its width (R643-R645, R672, R677, R684),
and how packets find their way (R634-R642). -/
-- One theorem after another: elaborated side by side, each holds its memory while it waits for those before it.
set_option Elab.async false

namespace Sys2Proof.Machine

variable {s : State}

/-! ### Flits -/

section
variable {p seq ack vc cvc cn op : Nat} {errs : List Nat} {cws : List (Nat × Nat × Nat)} {u : State}

@[simp] theorem portOf_rlCrcFail (q : Nat) (fec : Bool) (t : State) : portOf q (rlCrcFail p fec t) = portOf q t := by
  unfold rlCrcFail portOf
  dsimp only
  split
  · rfl
  · rw [(recordCE_only _ _ _ _ _).ports]
    rfl

/-- Storing a port changes the ports and their times only. -/
theorem setPort_portsOnly (q : Nat) (l : LinkDir) (t : State) : setPort q l t = { t with ports := (setPort q l t).ports, portT := (setPort q l t).portT } := rfl

theorem setPort_twice_portsOnly (q : Nat) (l m : LinkDir) (t : State) : setPort q l (setPort q m t) =
    { t with ports := (setPort q l (setPort q m t)).ports, portT := (setPort q l (setPort q m t)).portT } := rfl

/-- A good data flit: its header is taken, one that is accepted counts, and the credits of its trailer come back. -/
theorem exec_rlFlit_good (hp : p < 16) (hv : vc < 8) (hu : rlCodewords p cws s = u) (hf : fecLost (cws.map (fun c => c.2.2)) = false)
    (hc : rlCrcPasses errs = true) : exec (.rlFlitReceived p seq ack vc cvc cn errs cws false op) s =
      .next (credited p cvc cn (rlPumpCtl p (if (rlHeader p seq ack vc true false u).1 = .accept then
        bump64 (rlpP p + 0xB8) 1 (rlHeader p seq ack vc true false u).2 else (rlHeader p seq ack vc true false u).2))) := by
  subst hu
  show execRlFlitReceived p seq ack vc cvc cn errs cws false op s = _
  unfold execRlFlitReceived
  rw [if_neg (by omega), hf, hc, Nat.mod_eq_of_lt hv]
  rfl

/-- A data flit whose CRC fails or whose codeword is lost. -/
theorem exec_rlFlit_bad (hp : p < 16) (hv : vc < 8) (hu : rlCodewords p cws s = u) {fec : Bool} (hf : fecLost (cws.map (fun c => c.2.2)) = fec)
    (hc : rlCrcPasses errs = false ∨ fec = true) : exec (.rlFlitReceived p seq ack vc cvc cn errs cws false op) s =
      .next (rlPumpCtl p (if (rlHeader p seq ack vc false fec u).1 = .accept then
        bump64 (rlpP p + 0xB8) 1 (rlHeader p seq ack vc false fec u).2 else (rlHeader p seq ack vc false fec u).2)) := by
  have hok : (rlCrcPasses errs && !fec) = false := by
    rcases hc with h | h
    · rw [h, Bool.false_and]
    · rw [h, Bool.not_true, Bool.and_false]
  subst hu
  show execRlFlitReceived p seq ack vc cvc cn errs cws false op s = _
  unfold execRlFlitReceived
  rw [if_neg (by omega), hf, Nat.mod_eq_of_lt hv]
  dsimp only
  rw [hok]
  rfl

/-- A good control flit without a step of its own. -/
theorem exec_rlFlit_ctrl (hp : p < 16) (hu : rlCodewords p cws s = u) (hf : fecLost (cws.map (fun c => c.2.2)) = false)
    (hc : rlCrcPasses errs = true) : exec (.rlFlitReceived p seq ack vc cvc cn errs cws true op) s =
      if op = 0 then .next (credited p cvc cn (rlPumpCtl p (setPort p ((portOf p u).acked ack) u)))
      else if op ≤ 4 then .next (credited p cvc cn u)
      else .next (rlCrcFail p false u) := by
  subst hu
  show execRlFlitReceived p seq ack vc cvc cn errs cws true op s = _
  unfold execRlFlitReceived
  rw [if_neg (by omega), hf, hc]
  rfl

/-- The header of a flit that failed. -/
theorem rlHeader_failed (fec : Bool) (u : State) : rlHeader p seq ack vc false fec u =
    (if (portOf p u).naking then .drop else .nak, if (portOf p u).naking then setPort p (portOf p u) (rlCrcFail p fec u)
      else rlTell p [1, (portOf p u).rxNext] (setPort p { portOf p u with naking := true } (rlCrcFail p fec u))) := by
  unfold rlHeader
  dsimp only
  rw [if_neg Bool.false_ne_true, take_failed, portOf_rlCrcFail]
  cases (portOf p u).naking <;> rfl

theorem exec_rlNak (hp : p < 16) {t : State} (ht : setPort p ((portOf p s).acked ack) s = t) : exec (.rlNak p seq ack) s =
    if (portOf p t).resent ≥ 8 ∧ rlPhase p t = 5 then .next (rlRetrain p (rlStepRec p 5 1 0 (setPort p { portOf p t with resent := 0 } t)))
    else .next (rlPumpCtl p (rlResend p (seq % 4096) t)) := by
  subst ht
  exact if_neg (by omega)

theorem exec_rlReplayTimeout (hp : p < 16) {f : Unacked} {fs : List Unacked} (hr : (portOf p s).replay = f :: fs) (hph : rlPhase p s = 5) :
    exec (.rlReplayTimeout p) s = if (portOf p s).resent ≥ 8 ∧ rlPhase p s = 5 then
        .next (rlRetrain p (rlStepRec p 5 1 0 (setPort p { portOf p s with resent := 0 } (waitTill ((portTime p s).since + 2000) s))))
      else .next (rlResend p f.seq (waitTill ((portTime p s).since + 2000) s)) := by
  show execRlReplayTimeout p s = _
  unfold execRlReplayTimeout
  dsimp only
  rw [hr]
  exact if_neg (by omega)

theorem exec_rlCreditTimeout (hp : p < 16) (hv : vc < 8) (hph : rlPhase p s = 5) (hf : (portOf p s).free 8 16 896 vc = 0) :
    exec (.rlCreditTimeout p vc) s = .next (rlRetrain p (recordCE (rlpP p) 0x2108 (rlDetail p 0) (rlLoc p 0)
      (waitTill (((portTime p s).dry[vc]?).getD 0 + 1000000) s))) := by
  show execRlCreditTimeout p vc s = _
  unfold execRlCreditTimeout
  rw [Nat.mod_eq_of_lt hv]
  exact if_neg (by omega)

end

/-! ### Packets that wait -/

/-- A packet in escape leaves by the escape port of its entry, or waits. -/
theorem routePkt_escape {n p t0 : Nat} {k : Pkt} (he : k.esc = true) (hp : escPort (routeEntry k.dst s) s = some p) (ho : (k.aged t0 s).old = false) :
    routePkt (n + 1) k t0 s = if portCredit p k.vc k.flits s ≥ k.flits then sendPort p (k.aged t0 s) s else holdPkt k t0 s := by
  unfold routePkt
  dsimp only
  rw [hp, if_neg (by simp), if_neg (by rw [ho]; decide), if_pos he]

section
variable {k : Nat} {w : Pkt × Nat} {t : State} (hw : s.rlWait[k]? = some w)
  (ht : waitTill (w.2 + 1000) { s with rlWait := s.rlWait.take k ++ s.rlWait.drop (k + 1) } = t)
include hw ht

/-- The k-th waiting packet has a live candidate with a credit. -/
def freeWay (w : Pkt) (t : State) : Bool :=
  match bestPort w.vc w.flits t (liveCands (routeEntry w.dst t) t) with
  | some q => decide (portCredit q w.vc w.flits t ≥ w.flits)
  | none => false

theorem exec_escapeTimer : exec (.escapeTimer k) s =
    if w.1.esc || freeWay w.1 t || (escPort (routeEntry w.1.dst t) t).isNone then .next (routePkt 2 w.1 w.2 t)
    else .next (routePkt 2 { w.1 with esc := true } w.2 t) := by
  subst ht
  show execEscapeTimer k s = _
  unfold execEscapeTimer
  rw [hw]
  rfl

theorem exec_escapeTimer_inEscape (he : w.1.esc = true) : exec (.escapeTimer k) s = .next (routePkt 2 w.1 w.2 t) := by
  rw [exec_escapeTimer hw ht]
  exact if_pos (by rw [he]; rfl)

end

/-- Settles O39: the receiver's choice of each flit, and the equation of each timer. -/
theorem rlPortsAcceptInSequence : Obligations.RlPortsAcceptInSequence := by
  refine ⟨?_, ?_, ?_, fun p s hp => congrArg Host.Outcome.next (if_pos hp), fun p vc s hp hv hph hf => exec_rlCreditTimeout hp hv hph hf,
    fun p seq ack s hp => congrArg Host.Outcome.next (if_pos hp), ?_⟩
  · intro p seq ack vc cvc cn op errs cws s u hp hv hs hu fec hf
    refine ⟨?_, fun hc => ?_, ?_⟩
    · rintro hc rfl l hl
      have hh := rlHeader_ok p seq ack vc false u l hl _ rfl
      have hx := exec_rlFlit_good (seq := seq) (ack := ack) (cvc := cvc) (cn := cn) (op := op) hp hv hu hf hc
      rw [hh] at hx
      refine ⟨_, fun q hq => ?_, setPort_twice_portsOnly p (l.took (l.take 512 seq true) vc) l u, ?_, ?_, ?_, ?_⟩
      · rw [portOf_set_ne _ _ hq, portOf_set_ne _ _ hq]
      · intro h
        rw [take_next hs h] at hx ⊢
        refine ⟨hx, ?_⟩
        rw [portOf_set_same]
        unfold LinkDir.took
        dsimp only
        rw [if_pos hv]
      · intro h h1 h2
        rw [take_behind hs h h1 h2] at hx ⊢
        exact ⟨portOf_set_same _ _ _, hx⟩
      · intro h h1 hn
        rw [take_beyond hs h h1, hn] at hx ⊢
        exact ⟨portOf_set_same _ _ _, hx⟩
      · intro h h1 hn
        rw [take_beyond hs h h1, hn] at hx ⊢
        exact ⟨portOf_set_same _ _ _, hx⟩
    · have hx := exec_rlFlit_bad (seq := seq) (ack := ack) (cvc := cvc) (cn := cn) (op := op) hp hv hu hf hc
      rw [rlHeader_failed] at hx
      refine ⟨setPort p { portOf p u with naking := true } (rlCrcFail p fec u), portOf_set_same _ _ _, fun q hq => ?_, rfl, fun hn => ?_, fun hn => ?_⟩
      · rw [portOf_set_ne _ _ hq, portOf_rlCrcFail]
      · rw [hx, hn, naking_self hn]
        rfl
      · rw [hx, hn]
        rfl
    · rintro hc rfl
      rw [exec_rlFlit_ctrl hp hu hf hc]
      exact ⟨fun h => if_pos h, fun h => by rw [if_neg (by omega), if_neg (by omega)]⟩
  · intro p seq ack s t hp ht
    rw [exec_rlNak hp ht]
    exact ⟨fun h => if_neg (by omega), fun h8 h5 => if_pos ⟨h8, h5⟩⟩
  · rintro p f fs s t hp hr hph rfl
    rw [exec_rlReplayTimeout hp hr hph]
    exact ⟨fun h => if_neg (by omega), fun h8 => if_pos ⟨h8, hph⟩⟩
  · intro k p w s t hw ht he hp ho
    rw [exec_escapeTimer_inEscape hw ht he, routePkt_escape he hp ho]
    exact ⟨fun h => by rw [if_pos h], fun h => by rw [if_neg (Nat.not_le.mpr h)]⟩

/-! ### How a port changes -/

section
variable {p : Nat}

theorem rlpP_page (p : Nat) : 0x90000 ≤ rlpP p ∧ rlpP p % 0x1000 = 0 := by dsimp only [rlpP]; omega

/-- Two registers of a port's page that differ in their offset. -/
theorem rlpP_beside (p : Nat) {o q : Nat} (ho : o < 0x1000) (hq : q < 0x1000) (h : o ≠ q) : (rlpP p + o) % 0x1000 ≠ (rlpP p + q) % 0x1000 := by
  have := (rlpP_page p).2
  omega

theorem rlPhase_setPhase {v : Nat} (hv : v < 8) (t : State) : rlPhase p (setPhase p v t) = v :=
  (getF_setF_same v t (by decide) (by decide)).trans (Nat.mod_eq_of_lt hv)

theorem exec_rlPartnerSignal (hp : p < 16) (h1 : rlPhase p s = 1) (hl : lifeAt (statOf (rlpP p)) s = 1) :
    exec (.rlPartnerSignal p) s = .next (setPhase p 2 s) := congrArg Host.Outcome.next (if_pos ⟨hp, h1, hl⟩)

/-! #### Training -/

/-- The lanes that training found good; none is in use yet. -/
def lanesFound (p rx tx : Nat) (s : State) : State :=
  setF (rlpP p) RLP_STAT_USED_RX 0 (setF (rlpP p) RLP_STAT_USED_TX 0 (setF (rlpP p) RLP_STAT_GOOD_RX (rx % 16) (setF (rlpP p) RLP_STAT_GOOD_TX (tx % 16) s)))

theorem exec_rlTrainDone {rx tx : Nat} (hp : p < 16) (h2 : rlPhase p s = 2) (hr : rx < 16) (ht : tx < 16) (h0 : 0 < rx) (h0' : 0 < tx) :
    exec (.rlTrainDone p rx tx) s = .next (setPhase p 3 (showRlLanes p (lanesFound p rx tx s))) := by
  show execRlTrainDone p rx tx s = _
  unfold execRlTrainDone
  rw [if_neg (by omega)]
  exact if_neg (by omega)

/-- Showing the lanes writes their registers only. -/
theorem rdW_showRlLanes {o : Nat} (ho : o < 0xA0) (t : State) : rdW (rlpP p + o) (showRlLanes p t) = rdW (rlpP p + o) t := by
  unfold showRlLanes
  refine List.foldlRecOn (motive := fun u => rdW (rlpP p + o) u = rdW (rlpP p + o) t) _ _ rfl (fun u hu l hl => ?_)
  have hl4 : l < 4 := List.mem_range.mp hl
  rw [rdW_setF_offset _ _ (rlpP_beside p (by omega) (show 0xA0 + 4 * l < 0x1000 by omega) (show o ≠ 0xA0 + 4 * l by omega)), hu]

theorem foldl_regsOnly {α : Type} (f : State → α → State) (hf : ∀ t a, f t a = { t with regs := (f t a).regs }) (l : List α) (t : State) :
    l.foldl f t = { t with regs := (l.foldl f t).regs } := by
  induction l generalizing t with
  | nil => rfl
  | cons a l ih => exact regsOnly_trans (hf t a) (ih _)

theorem showRlLanes_regsOnly (t : State) : showRlLanes p t = { t with regs := (showRlLanes p t).regs } :=
  foldl_regsOnly _ (fun _ _ => setF_regsOnly _ _ _ _) _ _

theorem lanesFound_regsOnly (rx tx : Nat) : lanesFound p rx tx s = { s with regs := (lanesFound p rx tx s).regs } :=
  regsOnly_trans (regsOnly_trans (regsOnly_trans (setF_regsOnly _ _ _ s) (setF_regsOnly _ _ _ _)) (setF_regsOnly _ _ _ _)) (setF_regsOnly _ _ _ _)

/-- A field of RLP_STAT but PHASE after training. -/
theorem stat_trained {f : Field} (hf : f.off = 0x84) (hb : 30 < f.lo ∨ f.hi < 28) (rx tx : Nat) :
    getF (rlpP p) f (setPhase p 3 (showRlLanes p (lanesFound p rx tx s))) = getF (rlpP p) f (lanesFound p rx tx s) := by
  unfold setPhase
  rw [getF_setF_beside (f := f) (g := RLP_STAT_PHASE) _ _ hf (by decide) (by decide) hb]
  exact getF_of_rdW (by rw [hf]; exact rdW_showRlLanes (by decide) _)

theorem found_rx {rx tx : Nat} (hr : rx < 16) : getF (rlpP p) RLP_STAT_GOOD_RX (lanesFound p rx tx s) = rx := by
  unfold lanesFound
  rw [getF_setF_beside (f := RLP_STAT_GOOD_RX) (g := RLP_STAT_USED_RX) _ _ rfl (by decide) (by decide) (by decide),
    getF_setF_beside (f := RLP_STAT_GOOD_RX) (g := RLP_STAT_USED_TX) _ _ rfl (by decide) (by decide) (by decide), getF_setF_same _ _ (by decide) (by decide),
    Nat.mod_eq_of_lt hr]
  exact Nat.mod_eq_of_lt hr

theorem found_tx {rx tx : Nat} (ht : tx < 16) : getF (rlpP p) RLP_STAT_GOOD_TX (lanesFound p rx tx s) = tx := by
  unfold lanesFound
  rw [getF_setF_beside (f := RLP_STAT_GOOD_TX) (g := RLP_STAT_USED_RX) _ _ rfl (by decide) (by decide) (by decide),
    getF_setF_beside (f := RLP_STAT_GOOD_TX) (g := RLP_STAT_USED_TX) _ _ rfl (by decide) (by decide) (by decide),
    getF_setF_beside (f := RLP_STAT_GOOD_TX) (g := RLP_STAT_GOOD_RX) _ _ rfl (by decide) (by decide) (by decide), getF_setF_same _ _ (by decide) (by decide),
    Nat.mod_eq_of_lt ht]
  exact Nat.mod_eq_of_lt ht

theorem found_usedRx (rx tx : Nat) : getF (rlpP p) RLP_STAT_USED_RX (lanesFound p rx tx s) = 0 := by
  unfold lanesFound
  rw [getF_setF_same _ _ (by decide) (by decide)]
  rfl

theorem found_usedTx (rx tx : Nat) : getF (rlpP p) RLP_STAT_USED_TX (lanesFound p rx tx s) = 0 := by
  unfold lanesFound
  rw [getF_setF_beside (f := RLP_STAT_USED_TX) (g := RLP_STAT_USED_RX) _ _ rfl (by decide) (by decide) (by decide), getF_setF_same _ _ (by decide) (by decide)]
  rfl

/-! #### HELLO -/

/-- The partner's record in RLP_NBR and RLP_NBR_SER. -/
def partnerShown (p serial node epoch port : Nat) (valid : Bool) (s : State) : State :=
  wr64 (rlpP p + 0x88) serial (setF (rlpP p) RLP_NBR_VALID 1 (setF (rlpP p) RLP_NBR_NODE_VALID (b2n valid)
    (setF (rlpP p) RLP_NBR_NODE node (setF (rlpP p) RLP_NBR_EPOCH epoch (setF (rlpP p) RLP_NBR_PORT port s)))))

/-- A HELLO of a partner that has not changed, from one that is no manager, to a port that is up. -/
theorem exec_hello {serial node epoch port : Nat} {valid : Bool} (kserial : Nat) (hp : p < 16) (h5 : rlPhase p s = 5)
    (hv : flag (rlpP p) RLP_NBR_VALID s = true) (hs : rd64 (rlpP p + 0x88) s = serial) (hn : getF (rlpP p) RLP_NBR_NODE s = node)
    (he : getF (rlpP p) RLP_NBR_EPOCH s = epoch) (hvalid : flag (rlpP p) RLP_NBR_NODE_VALID s = valid) :
    exec (.hello p serial node epoch port valid 0 0 kserial) s = .next (partnerShown p serial node epoch port valid s) := by
  have hnode : node % 2 ^ 18 = node := Nat.mod_eq_of_lt (hn ▸ bitsOf_lt _ 29 12)
  have hepoch : epoch % 256 = epoch := Nat.mod_eq_of_lt (he ▸ bitsOf_lt _ 11 4)
  show execHello p serial node epoch port valid 0 0 kserial s = _
  unfold execHello
  rw [if_neg (by omega), hv, hs, hn, he, hvalid, hnode, hepoch, h5]
  dsimp only
  simp only [bne_self_eq_false, Bool.not_true, Bool.or_false, Bool.false_eq_true, if_false, Bool.false_and, show (5 == 4) = false from rfl]
  rfl

theorem partnerShown_port (serial node epoch port : Nat) (valid : Bool) :
    getF (rlpP p) RLP_NBR_PORT (partnerShown p serial node epoch port valid s) = port % 2 ^ RLP_NBR_PORT.width := by
  unfold partnerShown
  rw [getF_of_rdW (f := RLP_NBR_PORT) (rdW_wr64_offset _ _ (rlpP_beside p (by decide) (by decide) (by decide)) (rlpP_beside p (q := 0x8C) (by decide) (by decide) (by decide))),
    getF_setF_beside (f := RLP_NBR_PORT) (g := RLP_NBR_VALID) _ _ rfl (by decide) (by decide) (by decide),
    getF_setF_beside (f := RLP_NBR_PORT) (g := RLP_NBR_NODE_VALID) _ _ rfl (by decide) (by decide) (by decide),
    getF_setF_beside (f := RLP_NBR_PORT) (g := RLP_NBR_NODE) _ _ rfl (by decide) (by decide) (by decide),
    getF_setF_beside (f := RLP_NBR_PORT) (g := RLP_NBR_EPOCH) _ _ rfl (by decide) (by decide) (by decide), getF_setF_same _ _ (by decide) (by decide)]
  rfl

theorem partnerShown_regsOnly (serial node epoch port : Nat) (valid : Bool) :
    partnerShown p serial node epoch port valid s = { s with regs := (partnerShown p serial node epoch port valid s).regs } :=
  regsOnly_trans (regsOnly_trans (regsOnly_trans (regsOnly_trans (regsOnly_trans (setF_regsOnly _ _ _ s) (setF_regsOnly _ _ _ _)) (setF_regsOnly _ _ _ _))
    (setF_regsOnly _ _ _ _)) (setF_regsOnly _ _ _ _)) (wr64_regsOnly _ _ _)

/-! #### Retrains, drains and lanes -/

theorem exec_rlRetrainDone (hp : p < 16) (h6 : rlPhase p s = 6) {t u v : State}
    (ht : showRetraining (raise (rlpP p) 19 (setF (rlpP p) RLP_STAT_CARRYING 1 (setPhase p 5 (setRlpX p { rlpX p s with tx := [], blk := 0 } s)))) = t)
    (hu : rlRepeat p t = u) (hv : rlLadder p 0 (rlpX p u).lane u = v) : exec (.rlRetrainDone p) s =
      .next (pumpWait (if (rlpX p v).maxDue ∧ rlPhase p v = 5 then rlApplyMax p (setRlpX p { rlpX p v with maxDue := false } v) else v)) := by
  subst ht hu hv
  exact if_neg (by omega)

theorem exec_rlDrainDone (hp : p < 16) (hd : (rlpX p s).draining = true) {t u v : State}
    (ht : (if (portOf p s).replay.isEmpty && (portOf p s).ctl.isEmpty then s else waitTill ((rlpX p s).since + 100000) s) = t)
    (hu : sendRlCtl p [4, ((portOf p s).txNext + 4095) % 4096] (setPort p { portOf p s with replay := [], ctl := [] } t) = u)
    (hv : setRlpX p .rest (if (portOf p s).replay.any (fun f => decide (f.vc < 8)) then recordCE (rlpP p) 0x2106 (rlDetail p 0) (rlLoc p 0) u else u) = v) :
    exec (.rlDrainDone p) s = if (rlpX p s).down = 0 then .next v else .next (setPhase p 0 (raise (rlpP p) 17
      (recordErr (rlpP p) (rlpX p s).down 2 (rlDetail p (rlpX p s).lane) (rlLoc p (rlpX p s).lane) false v))) := by
  subst ht hu hv
  show execRlDrainDone p s = _
  unfold execRlDrainDone
  exact if_neg (by rw [hd]; simp; omega)

theorem exec_rlLaneWindow {l corr uncorr : Nat} (hp : p < 16) (hl : l < 4) {t : State}
    (ht : setF (rlpP p) (RLP_LANE_CORR l) (min (2 ^ 24 - 1) corr) (setF (rlpP p) (RLP_LANE_UNCORR l) (min 63 uncorr) s) = t) :
    exec (.rlLaneWindow p l corr uncorr) s = if ¬ (rlGood p 0 t).contains l then .next t
      else if corr > 2550000 ∨ uncorr ≥ 2 then .next (rlLaneFail p l t)
      else if corr > 106250 then .next (recordCE (rlpP p) 0x2103 (rlDetail p l) (rlLoc p l) (raise (rlpP p) 21 t))
      else .next t := by
  subst ht
  exact if_neg (by omega)

/-- What WIDTH_DOWN leaves before the port takes the partner's width: the step's record, its event and its error. -/
def widthTold (p step lane : Nat) (s : State) : State :=
  recordCE (rlpP p) 0x2104 (rlDetail p lane) (rlLoc p lane) (raise (rlpP p) 16 (rlStepRec p step 1 lane s))

theorem widthTold_evt (step lane : Nat) (t : State) : bitOf (rdW (rlpP p + 0x10) (widthTold p step lane t)).toNat 16 = true := by
  obtain ⟨hi, hm⟩ := rlpP_page p
  have hc : canon (rlpP p + 0x10) = rlpP p + 0x10 := canon_high (by omega)
  exact recordCE_lasts (eventsStay_lasts hi hm) _ _ _ _ _ (raise_bit _ _ _ (by decide) (by rw [hc]; omega) (by rw [hc]; omega))

theorem exec_rlWidth {seq ack w rx tx : Nat} {t : State} (hp : p < 16) (hh : rlHeader p seq ack 8 true false s = (.accept, t))
    (hw : getF (rlpP p) RLP_STAT_WIDTH t ≠ w) (hrx : (lanes4 rx).length = w) (htx : (lanes4 tx).length = w) (hw' : w = 1 ∨ w = 2 ∨ w = 4)
    (hl : lifeAt (statOf (rlpP p)) t = 2) (hd : (rlpX p t).draining = false) : ∃ lane, exec (.rlWidth p seq ack w rx tx) s =
      .next (portEvent p (rlPhase p t) (getF (rlpP p) RLP_STAT_WIDTH t) (rlRetrain p (setRlWidth p w (lanes4 rx) (lanes4 tx)
        (widthTold p (if w = getF (rlpP p) RLP_STAT_WIDTH t then 1 else 2) lane t)))) := by
  refine ⟨(((rlUsed p 1 t).filter (fun l => !(lanes4 tx).contains l)).head?).getD 0, ?_⟩
  show execRlWidth p seq ack w rx tx s = _
  unfold execRlWidth
  rw [if_neg (by omega), hh]
  refine if_neg ?_
  rintro (h | h | h | h | h | h | h | h)
  · exact h rfl
  · rw [Bool.and_eq_true, Bool.and_eq_true, beq_iff_eq] at h
    exact hw h.1.1
  · exact h hrx
  · exact h htx
  · omega
  · omega
  · exact h hl
  · rw [hd] at h
    cases h

theorem exec_rlpCtlWrite {fn v : Nat} {t : State} (h : reaches fn (rlpP p + 0x80) s) (ht : writeReg (rlpP p + 0x80) (if v % 4 = 3 then v - 1 else v) s = t) :
    exec (.rlpCtlWrite fn p v) s = .next (if rdW (rlpP p + 0x80) t = rdW (rlpP p + 0x80) s then t
      else if rlPhase p t = 6 then setRlpX p { rlpX p t with maxDue := true } t
      else if rlPhase p t = 5 then rlApplyMax p t else t) := by
  subst ht
  exact congrArg Host.Outcome.next (barWrite_goes h)

end

/-- Settles O40: each row's equation in the phase that it is for. -/
theorem rlPortsChangeState : Obligations.RlPortsChangeState := by
  intro p s hp
  refine ⟨fun h1 hl => ?_, fun rx tx h2 hr ht h0 h0' => ?_, ?_, ?_, ?_, ?_, ?_, ?_, ?_, ?_, ?_⟩
  · exact ⟨_, exec_rlPartnerSignal hp h1 hl, rlPhase_setPhase (by decide) s,
      fun a ha => rdW_setF_ne _ _ (canon_ne_high (by have := (rlpP_page p).1; omega) ha), setF_regsOnly _ _ _ s⟩
  · refine ⟨_, exec_rlTrainDone hp h2 hr ht h0 h0', rlPhase_setPhase (by decide) _, ?_, ?_, ?_, ?_,
      regsOnly_trans (regsOnly_trans (lanesFound_regsOnly rx tx) (showRlLanes_regsOnly _)) (setF_regsOnly _ _ _ _)⟩
    · rw [stat_trained rfl (by decide), found_rx hr]
    · rw [stat_trained rfl (by decide), found_tx ht]
    · rw [stat_trained rfl (by decide), found_usedRx]
    · rw [stat_trained rfl (by decide), found_usedTx]
  · rintro h3 w rfl
    exact if_neg (by omega)
  · rintro h k t u rfl rfl rfl
    exact if_pos ⟨hp, h⟩
  · rintro serial node epoch port host pri kserial valid h5 hv hs hn he hvalid rfl rfl
    refine ⟨_, exec_hello kserial hp h5 hv hs hn he hvalid, partnerShown_port .., ?_, partnerShown_regsOnly ..⟩
    exact (rd64_wr64_same _ _ _).trans (Nat.mod_eq_of_lt (hs ▸ rd64_lt _ _))
  · intro t u v h6 ht hu hv
    exact exec_rlRetrainDone hp h6 ht hu hv
  · intro t u hd ht hu v hv
    rw [exec_rlDrainDone hp hd ht hu hv]
    exact ⟨fun h => if_pos h, fun h => if_neg h⟩
  · intro l corr uncorr hl t ht
    rw [exec_rlLaneWindow hp hl ht]
    refine ⟨fun hc hu => ?_, fun hg h => ?_⟩
    · split
      · rfl
      · rw [if_neg (by omega), if_neg (by omega)]
    · rw [if_neg (not_not_intro hg), if_pos h]
  · intro l hl hg
    exact congrArg Host.Outcome.next (if_pos ⟨hp, hl, hg⟩)
  · intro seq ack w rx tx t hh hw hrx htx hw' hl hd
    obtain ⟨lane, hx⟩ := exec_rlWidth hp hh hw hrx htx hw' hl hd
    exact ⟨_, hx, widthTold_evt _ _ _⟩
  · intro fn v t h ht
    rw [exec_rlpCtlWrite h ht]
    refine ⟨fun hn => ?_, fun hr h5 => ?_, fun hr h6 => ?_⟩
    · rcases hn with hn | hn
      · rw [if_pos hn]
      · split
        · rfl
        · rw [if_neg (by omega), if_neg (by omega)]
    · rw [if_neg hr, if_neg (by omega), if_pos h5]
    · rw [if_neg hr, if_pos h6]

/-! ### Arriving packets -/

section
variable {p dst src hops age cls len us serial mseq : Nat} {esc : Bool} {body : List Byte}

/-- The fields of a routing header that port p can bring. -/
structure HeaderFits (p dst src hops cls len : Nat) : Prop where
  port : p < 16
  dst : dst < 2 ^ 18
  src : src < 2 ^ 18
  hops : hops < 64
  cls : cls < 6
  len : len ≤ 4128

/-- Packet k goes on with one hop less, older by the whole microseconds that it spent here. -/
def Pkt.goesOn (k : Pkt) (us : Nat) : Pkt := { k with hops := k.hops - 1, age := k.age + max 1 us }

/-- It is out of hops or too old. -/
def Pkt.dies (k : Pkt) (us : Nat) : Bool := decide (k.hops ≤ 1) || decide ((k.goesOn us).age ≥ 16000)

theorem Pkt.dies_not {k : Pkt} (hh : 2 ≤ k.hops) (ha : k.age + max 1 us < 16000) : k.dies us = false := by
  unfold Pkt.dies
  rw [decide_eq_false (by omega), Bool.false_or]
  exact decide_eq_false (Nat.not_le.mpr ha)

variable (hf : HeaderFits p dst src hops cls len)
include hf

/-- A source-routed packet follows the route in its first word. -/
theorem exec_arrival_routed {k : Pkt} (hk : k = ⟨p, dst, src, hops, age, cls, esc, false, true, body⟩) {r : Nat} (hr : leNat (body.take 8) = r) :
    exec (.rlPacketArrival p dst src hops age cls len us serial mseq esc false true false body) s =
      if bitsOf r 51 48 = 0 then .next (takePkt k s)
      else if k.dies us ∨ ¬ carries (r % 16) s then .next (rlDiscard s)
      else .next (sendVia (r % 16) { k.goesOn us with body := leBytes 8 (bitsOf r 47 4 + (bitsOf r 51 48 - 1) * 2 ^ 48) ++ body.drop 8 } s.now s) := by
  subst hk hr
  obtain ⟨h1, h2, h3, h4, h5, h6⟩ := hf
  show execRlPacketArrival p dst src hops age cls len us serial mseq esc false true false body s = _
  unfold execRlPacketArrival
  rw [Nat.mod_eq_of_lt h1, Nat.mod_eq_of_lt h2, Nat.mod_eq_of_lt h3, Nat.mod_eq_of_lt h4, decide_eq_false (by omega : ¬ cls ≥ 6),
    decide_eq_false (by omega : ¬ len > 4128)]
  rfl

end

theorem ErrorsOnly.rlOut {a b : State} (h : ErrorsOnly a b) : b.rlOut = a.rlOut := by rw [h.rest]

theorem rlDiscard_rlOut (t : State) : (rlDiscard t).rlOut = t.rlOut := (recordCE_only _ _ _ _ _).rlOut.trans (setF_rlOut _ _ _ _)

/-- On a port on which another packet waits, a packet waits behind it. -/
theorem sendVia_waits {p t0 : Nat} {k : Pkt} (ho : (k.aged t0 s).old = false) (hc : carries p s = true) (hb : s.rlOut.any (fun e => e.1 == p) = true) :
    sendVia p k t0 s = { s with rlOut := s.rlOut ++ [(p, k, t0)] } := by
  unfold sendVia
  rw [if_neg (by rw [ho, hc]; simp), if_neg (by rw [hc]; decide)]
  exact if_pos (by rw [hb]; rfl)

/-! #### A route of two ports -/

/-- A packet whose route word holds one port, 0 in bits 3..0, with 1 in the bits above it. -/
def routedPkt : Pkt := ⟨0, 0, 0, 2, 0, 5, false, false, true, leBytes 8 (1 * 2 ^ 4 + 1 * 2 ^ 48)⟩

/-- The block after reset, but for port 1, which carries and on which a packet waits. -/
def portOneUp : State := { setF (rlpP 1) RLP_STAT_CARRYING 1 State.reset with rlOut := [(1, routedPkt, 0)] }

theorem carries_portOneUp : carries 1 portOneUp = true := by
  have h : getF (rlpP 1) RLP_STAT_CARRYING portOneUp = 1 := by
    refine (getF_regs (t := portOneUp) (s := setF (rlpP 1) RLP_STAT_CARRYING 1 State.reset) rfl _ _).trans ?_
    rw [getF_setF_same _ _ (by decide) (by decide)]
    rfl
  unfold carries flag
  rw [h]
  rfl

theorem carries_portOneUp_zero : carries 0 portOneUp = false := by
  have h : getF (rlpP 0) RLP_STAT_CARRYING portOneUp = 0 := by
    refine (getF_regs (t := portOneUp) (s := setF (rlpP 1) RLP_STAT_CARRYING 1 State.reset) rfl _ _).trans ?_
    rw [getF_setF_ne _ _ (canon_ne_high (by decide) (by decide))]
    exact (getF_reset (k := .rlp) (i := 0) (f := RLP_STAT_CARRYING) (by decide) (by decide) (by decide) (by decide) (by decide) rfl).trans (by decide)
  unfold carries flag
  rw [h]
  rfl

/-- The device sends it out of port 0, the port in bits 3..0 of its route (R636); port 0 does not carry, and it is discarded. -/
theorem exec_routedPkt : exec (.rlPacketArrival 0 0 0 2 0 5 8 0 0 0 false false true false routedPkt.body) portOneUp = .next (rlDiscard portOneUp) := by
  have hr : leNat (routedPkt.body.take 8) = 1 * 2 ^ 4 + 1 * 2 ^ 48 := by decide
  have hf : HeaderFits 0 0 0 2 5 8 := ⟨by decide, by decide, by decide, by decide, by decide, by decide⟩
  refine (exec_arrival_routed hf (body := routedPkt.body) (k := routedPkt) rfl hr).trans ?_
  rw [if_neg (by decide)]
  exact if_pos (.inr (by rw [show (1 * 2 ^ 4 + 1 * 2 ^ 48) % 16 = 0 from rfl, carries_portOneUp_zero]; decide))

/-- Refutes O41: the statement sends a source-routed packet out of the port in bits 7..4 of its route word, where the packet leaves by the one in
bits 3..0 (R636). With port 0 down and port 1 up, a route word 0x1_0000_0000_0010 is discarded and does not go out of port 1. -/
theorem not_rlPacketsFindTheirWay : ¬ Obligations.RlPacketsFindTheirWay := by
  intro h
  obtain ⟨-, -, -, -, hroute, -⟩ := h.1 0 0 0 2 0 5 8 0 0 0 false routedPkt.body portOneUp (by decide) (by decide) (by decide) (by decide) (by decide) (by decide)
  have hsent := (hroute _ rfl).2 (by decide) (by decide) (by decide) 1 (by decide) carries_portOneUp
  rw [exec_routedPkt, sendVia_waits (by decide) carries_portOneUp rfl] at hsent
  have hout := congrArg State.rlOut (Host.Outcome.next.inj hsent)
  rw [rlDiscard_rlOut] at hout
  exact absurd (congrArg List.length hout) (by decide)

end Sys2Proof.Machine
end

section
/-! PROOFS. Bead memory (chapter 7): requests at their home controller and the fills that serve them; write-back, refresh, scrub, classes and
the end of a zero-fill. -/
-- One theorem after another: elaborated side by side, each holds its memory while it waits for those before it.
set_option Elab.async false

namespace Sys2Proof.Machine

variable {s : State}

/-! ### Requests at a home controller -/

/-- A request in flight to the column of rod `i`, at its address `a`. -/
structure Arrives (id i a : Nat) (r : PReq) (s : State) : Prop where
  found : s.reqs.find? (fun r => r.id == id) = some r
  phase : r.phase = 1
  target : r.target = some (.bead i a)

/-- The request is a write of a whole page that no fill is in flight for (R368). -/
def wholePage (i q : Nat) (r : PReq) (s : State) : Bool := r.write && r.len == 2048 && !(fillsOf i s).contains q

theorem Arrives.id_eq {id i a : Nat} {r : PReq} (h : Arrives id i a r s) : r.id = id := by
  simpa using List.find?_some h.found

theorem exec_beadRequest_beyond {id i a : Nat} {r : PReq} (h : Arrives id i a r s) (hb : beadSize < a + r.len) :
    exec (.beadRequest id) s =
      .next (updReq id (fun x => { x with phase := 3, status := 9 }) (recordCE (beadP i) 0x160F 0 a s)) := by
  show execBeadRequest id s = _
  unfold execBeadRequest
  rw [h.found]
  dsimp only
  rw [h.phase, h.target]
  exact if_pos hb

theorem exec_beadRequest_blocked {id i a st : Nat} {r : PReq} (h : Arrives id i a r s) (hb : a + r.len ≤ beadSize)
    (hs : beadBlocked i a s = some st) :
    exec (.beadRequest id) s = .next (updReq id (fun x => { x with phase := 3, status := st }) s) := by
  show execBeadRequest id s = _
  unfold execBeadRequest
  rw [h.found]
  dsimp only
  rw [h.phase, h.target]
  refine (if_neg (Nat.not_lt.mpr hb)).trans ?_
  rw [hs]

theorem exec_beadRequest_open {id i a : Nat} {r : PReq} (h : Arrives id i a r s) (hb : a + r.len ≤ beadSize)
    (hs : beadBlocked i a s = none) :
    exec (.beadRequest id) s =
      if pageHeld i (a / 2048) (wholePage i (a / 2048) r s) s then .next s
      else if resident i (a / 2048) s || wholePage i (a / 2048) r s then
        .next (applyReq r (touchPage i (a / 2048) (wholePage i (a / 2048) r s) s))
      else .next (beginWait i id s) := by
  show execBeadRequest id s = _
  unfold execBeadRequest
  rw [h.found]
  dsimp only
  rw [h.phase, h.target]
  refine (if_neg (Nat.not_lt.mpr hb)).trans ?_
  rw [hs]
  rfl

/-- Whether the column answers depends on the page only. -/
theorem beadBlocked_of_page {i a b : Nat} (h : a / 2048 = b / 2048) : beadBlocked i a s = beadBlocked i b s := by
  unfold beadBlocked
  rw [h]

theorem pageHeld_iff {i a : Nat} {w : Bool} (hs : beadBlocked i a s = none) :
    pageHeld i (a / 2048) w s = true ↔
      (chanHeld i (pageChan (a / 2048)) s = true ∨ 64 ≤ (waiting i s).length)
        ∨ (resident i (a / 2048) s = false ∧ w = false ∧ (fillsOf i s).contains (a / 2048) = false
          ∧ 8 ≤ ((fillsOf i s).filter (fun x => pageChan x == pageChan (a / 2048))).length) := by
  unfold pageHeld
  rw [beadBlocked_of_page (Nat.mul_div_cancel (a / 2048) (by decide)), hs]
  simp only [Option.isNone_none, Bool.true_and, Bool.or_eq_true, Bool.and_eq_true, Bool.not_eq_true', decide_eq_true_eq,
    ge_iff_le, and_assoc]

theorem fillsOf_of_reqs_beads {i : Nat} {t : State} (hr : t.reqs = s.reqs) (hb : t.beads = s.beads) :
    fillsOf i t = fillsOf i s := by
  have hw : waiting i t = waiting i s := by unfold waiting beadOf; rw [hr, hb]
  unfold fillsOf
  rw [hw]

@[simp] theorem bump64_reqs (b n : Nat) (s : State) : (bump64 b n s).reqs = s.reqs := wr64_reqs ..

theorem fillsOf_bump64 (i a n : Nat) (s : State) : fillsOf i (bump64 a n s) = fillsOf i s :=
  fillsOf_of_reqs_beads (bump64_reqs ..) (bump64_beads ..)

/-- What an access finds or makes without waiting: a hit, or the place of a page that is written whole (R363, R368). -/
theorem touchPage_hit {i q : Nat} {w : Bool} (h : resident i q s = true) :
    touchPage i q w s = cacheUse i q (bump64 (beadP i + 0xD8) 1 s) := if_pos h

theorem touchPage_whole {i q : Nat} (h : resident i q s = false) (hf : (fillsOf i s).contains q = false) :
    touchPage i q true s = cacheInsert i q (List.range 32) true
      (regionClass i (pageRegion q) (bump64 (beadP i + 0xE0) 1 s)) (bump64 (beadP i + 0xE0) 1 s) := by
  unfold touchPage
  rw [if_neg (by rw [h]; decide)]
  dsimp only
  rw [fillsOf_bump64, if_neg (by rw [hf]; decide)]
  exact if_pos rfl

theorem applyReq_read {i a : Nat} {r : PReq} (ht : r.target = some (.bead i a)) (hw : r.write = false) (s : State) :
    applyReq r s = updReq r.id (fun x => { x with phase := 3, data := beadBytes i a r.len s, bad := beadBadIn i a r.len s }) s := by
  unfold applyReq
  rw [ht]
  exact if_neg (by rw [hw]; decide)

theorem applyReq_write {i a : Nat} {r : PReq} (ht : r.target = some (.bead i a)) (hw : r.write = true) (hl : lostAt i a s = false) :
    applyReq r s = updReq r.id (fun x => { x with phase := 3, status := 0 })
      (putSectors i a r.data.length r.bad (putBytes i a r.data s)) := by
  unfold applyReq beadWrite
  rw [ht]
  dsimp only
  have hneg : ¬ lostAt i a s = true := by rw [hl]; decide
  rw [if_pos hw, if_neg hneg]
  rfl

theorem applyReq_lost {i a : Nat} {r : PReq} (ht : r.target = some (.bead i a)) (hw : r.write = true) (hl : lostAt i a s = true) :
    applyReq r s = updReq r.id (fun x => { x with phase := 3, status := 4 }) s := by
  unfold applyReq beadWrite
  rw [ht]
  dsimp only
  rw [if_pos hw, if_pos hl]
  rfl

/-- A request whose page is at hand, by a hit or as a page written whole, is applied at once (R363, R368). -/
theorem exec_beadRequest_served {id i a : Nat} {r : PReq} {t : State} (h : Arrives id i a r s) (hb : a + r.len ≤ beadSize)
    (hs : beadBlocked i a s = none) (hc : chanHeld i (pageChan (a / 2048)) s = false) (hw : (waiting i s).length < 64)
    (ht : (resident i (a / 2048) s = true ∧ cacheUse i (a / 2048) (bump64 (beadP i + 0xD8) 1 s) = t)
      ∨ (resident i (a / 2048) s = false ∧ r.write = true ∧ r.len = 2048 ∧ (fillsOf i s).contains (a / 2048) = false
        ∧ cacheInsert i (a / 2048) (List.range 32) true
          (regionClass i (pageRegion (a / 2048)) (bump64 (beadP i + 0xE0) 1 s)) (bump64 (beadP i + 0xE0) 1 s) = t)) :
    exec (.beadRequest id) s = .next (applyReq r t) := by
  have hfree : ∀ w, resident i (a / 2048) s = true ∨ w = true → ¬ pageHeld i (a / 2048) w s = true := by
    intro w hor hp
    rcases (pageHeld_iff hs).mp hp with (hc' | hw') | ⟨hr, hwf, -, -⟩
    · exact Bool.false_ne_true (hc.symm.trans hc')
    · omega
    · rcases hor with h1 | h1
      · exact Bool.false_ne_true (hr.symm.trans h1)
      · exact Bool.false_ne_true (hwf.symm.trans h1)
  rw [exec_beadRequest_open h hb hs]
  rcases ht with ⟨hr, rfl⟩ | ⟨hr, hwr, hlen, hf, rfl⟩
  · rw [if_neg (hfree _ (.inl hr)), if_pos (by rw [hr]; rfl), touchPage_hit hr]
  · have hwhole : wholePage i (a / 2048) r s = true := by
      unfold wholePage
      rw [hwr, hlen, hf]
      rfl
    rw [hwhole, if_neg (hfree _ (.inr rfl)), if_pos (Bool.or_true _), touchPage_whole hr hf]

/-- A request that calls for a fill (R364). -/
theorem wholePage_false {i q : Nat} {r : PReq} (h : r.write = false ∨ r.len ≠ 2048 ∨ (fillsOf i s).contains q = true) :
    wholePage i q r s = false := by
  unfold wholePage
  rcases h with h | h | h
  · rw [h]; rfl
  · rw [beq_false_of_ne h]; simp
  · rw [h]; simp

theorem exec_beadRequest_held {id i a : Nat} {r : PReq} (h : Arrives id i a r s) (hb : a + r.len ≤ beadSize)
    (hs : beadBlocked i a s = none) (hp : pageHeld i (a / 2048) (wholePage i (a / 2048) r s) s = true) :
    exec (.beadRequest id) s = .next s := by
  rw [exec_beadRequest_open h hb hs, if_pos hp]

theorem exec_beadRequest_miss {id i a : Nat} {r : PReq} (h : Arrives id i a r s) (hb : a + r.len ≤ beadSize)
    (hs : beadBlocked i a s = none) (hc : chanHeld i (pageChan (a / 2048)) s = false) (hw : (waiting i s).length < 64)
    (hr : resident i (a / 2048) s = false) (hwhole : wholePage i (a / 2048) r s = false)
    (hf : (fillsOf i s).contains (a / 2048) = true
      ∨ ((fillsOf i s).filter (fun x => pageChan x == pageChan (a / 2048))).length < 8) :
    exec (.beadRequest id) s = .next (beginWait i id s) := by
  have hfree : ¬ pageHeld i (a / 2048) false s = true := by
    intro hp
    rcases (pageHeld_iff hs).mp hp with (hc' | hw') | ⟨-, -, hnf, h8⟩
    · exact Bool.false_ne_true (hc.symm.trans hc')
    · omega
    · rcases hf with h1 | h1
      · exact Bool.false_ne_true (hnf.symm.trans h1)
      · omega
  rw [exec_beadRequest_open h hb hs, hwhole, if_neg hfree, if_neg (by rw [hr]; decide)]

/-! ### The end of a fill -/

/-- The repeats that mended their transfer are recorded (R353). -/
def repeatsMended (i q : Nat) (crc : List Nat) (s : State) : State :=
  (crc.filter (fun n => decide (0 < n) && decide (n < 8))).foldl (fun t _ => recordCE (beadP i) 0x1605 (pageChan q * 16) q t) s

theorem crcRepeats_mended {i q : Nat} {crc : List Nat} (h : crc.any (fun n => decide (8 ≤ n)) = false) :
    crcRepeats i q crc s = (true, repeatsMended i q crc s) := if_neg (by rw [h]; decide)

theorem crcRepeats_failed {i q : Nat} {crc : List Nat} (h : crc.any (fun n => decide (8 ≤ n)) = true) :
    crcRepeats i q crc s = (false, calDue i (pageChan q) (repeatsMended i q crc s)) := if_pos h

theorem exec_beadFillDone {i q : Nat} {crc errs : List Nat} {hdr other : Bool} (hf : (fillsOf i s).contains q = true)
    (hc : chanHeld i (q % 2) s = false) :
    exec (.beadFillDone i q crc errs hdr other) s = .next (if (crcRepeats i q crc s).1 then
      fillServe i q (fillPage i q (found i q errs hdr other (crcRepeats i q crc s).2)) else (crcRepeats i q crc s).2) := by
  show execBeadFillDone i q crc errs hdr other s = _
  unfold execBeadFillDone
  exact if_neg (by rw [hf, hc]; decide)

theorem exec_beadFillDone_mended {i q : Nat} {crc errs : List Nat} {hdr other : Bool} (hf : (fillsOf i s).contains q = true)
    (hc : chanHeld i (q % 2) s = false) (h : crc.any (fun n => decide (8 ≤ n)) = false) :
    exec (.beadFillDone i q crc errs hdr other) s =
      .next (fillServe i q (fillPage i q (found i q errs hdr other (repeatsMended i q crc s)))) := by
  rw [exec_beadFillDone hf hc, crcRepeats_mended h]
  rfl

theorem fillServe_one {i q a : Nat} {r : PReq} (hl : (waiting i s).filter (fun r => r.page == some (i, q)) = [r])
    (ht : r.target = some (.bead i a)) (hw : r.write = false) :
    fillServe i q s = unwait i r.id
      (updReq r.id (fun x => { x with phase := 3, data := beadBytes i a r.len s, bad := beadBadIn i a r.len s }) s) := by
  unfold fillServe
  rw [hl, List.foldl_cons, List.foldl_nil, applyReq_read ht hw]

theorem exec_beadFillDone_idle {i q : Nat} {crc errs : List Nat} {hdr other : Bool}
    (h : (fillsOf i s).contains q = false ∨ chanHeld i (q % 2) s = true) :
    exec (.beadFillDone i q crc errs hdr other) s = .next s := by
  show execBeadFillDone i q crc errs hdr other s = _
  unfold execBeadFillDone
  refine if_pos ?_
  rcases h with h | h
  · rw [h]; rfl
  · rw [h, Bool.or_true]

/-- Settles O44: a request takes the branch that its range, its column, its channel and the cache give, and a fill serves its line. -/
theorem beadRequestsAreServed : Obligations.BeadRequestsAreServed := by
  unfold Obligations.BeadRequestsAreServed
  refine ⟨?_, ?_, fun i q crc errs hdr other s h => exec_beadFillDone_idle h⟩
  · rintro id i a q r s hfound hphase htarget rfl
    have h : Arrives id i a r s := ⟨hfound, hphase, htarget⟩
    have hid := h.id_eq
    refine ⟨exec_beadRequest_beyond h, fun hb => ⟨fun st => exec_beadRequest_blocked h hb, fun hs hor => ?_, fun hs hc hw => ⟨?_, ?_⟩⟩⟩
    · exact exec_beadRequest_held h hb hs ((pageHeld_iff hs).mpr (.inl hor))
    · intro t ht
      rw [exec_beadRequest_served h hb hs hc hw ht, ← hid]
      exact ⟨fun hr => by rw [applyReq_read htarget hr], fun hr hl => by rw [applyReq_write htarget hr hl],
        fun hr hl => by rw [applyReq_lost htarget hr hl]⟩
    · intro hr hor
      have hwhole := wholePage_false hor
      refine ⟨fun hf h8 => exec_beadRequest_held h hb hs ((pageHeld_iff hs).mpr (.inr ⟨hr, hwhole, hf, h8⟩)), ?_⟩
      rintro t hf rfl
      exact exec_beadRequest_miss h hb hs hc hw hr hwhole hf
  · intro i q crc errs hdr other s t hf hc
    refine ⟨?_, ?_⟩
    · rintro u rfl
      refine ⟨?_, fun h => ?_⟩
      · rintro h rfl
        exact exec_beadFillDone_mended hf hc h
      · rw [exec_beadFillDone hf hc, crcRepeats_failed h]
        rfl
    · rintro r rfl rfl hl hw a ht
      rw [exec_beadFillDone_mended hf hc rfl]
      exact congrArg Host.Outcome.next (fillServe_one hl ht hw)

/-! ### Write-back and refresh -/

/-- Every page of rod `i` that needs it is written back, and the write-back is over (R369). -/
def wroteBack (i : Nat) (s : State) : State :=
  setF (beadP i) BEAD_CTL_BUSY 0 ((beadOf i s).cache.foldl (fun t c => if c.needs then writeBack i c.q false t else t) s)

/-- A channel that a page to be written back lies on holds its requests (R394). -/
def wbackHeld (i : Nat) (s : State) : Bool := ((beadOf i s).cache.filter CPage.needs).any (fun c => chanHeld i (pageChan c.q) s)

/-- Neither pages nor repeats are sent while a channel of theirs holds its requests. -/
theorem exec_beadWbackDone_held {i : Nat} {crc : List (Nat × Nat)} (h : wbackHeld i s = true) : exec (.beadWbackDone ⟨i, crc⟩) s = .next s := by
  show execBeadWbackDone ⟨i, crc⟩ s = _
  unfold execBeadWbackDone
  dsimp only
  refine if_pos ?_
  rw [List.any_append, List.any_map, List.any_map, Bool.or_eq_true]
  exact .inr h

theorem exec_beadWbackDone_idle {i : Nat} {crc : List (Nat × Nat)} (h : flag (beadP i) BEAD_CTL_BUSY s = false) :
    exec (.beadWbackDone ⟨i, crc⟩) s = .next s := by
  show execBeadWbackDone ⟨i, crc⟩ s = _
  unfold execBeadWbackDone
  dsimp only
  rw [if_neg (show ¬ flag (beadP i) BEAD_CTL_BUSY s = true by rw [h]; decide), ite_self]

theorem exec_beadWbackDone_clean {i : Nat} (hb : flag (beadP i) BEAD_CTL_BUSY s = true) (hh : wbackHeld i s = false) :
    exec (.beadWbackDone ⟨i, []⟩) s = .next (wroteBack i s) := by
  show execBeadWbackDone ⟨i, []⟩ s = _
  unfold execBeadWbackDone
  have hany : ¬ (([] : List (Nat × Nat)).map (·.1) ++ ((beadOf i s).cache.filter CPage.needs).map (·.q)).any
      (fun q => chanHeld i (pageChan q) s) = true := by
    rw [List.map_nil, List.nil_append, List.any_map]
    exact ne_true_of_eq_false hh
  dsimp only
  rw [if_neg hany, if_pos hb]
  rfl

theorem exec_beadWbackDone_one {i q n : Nat} (hb : flag (beadP i) BEAD_CTL_BUSY s = true) (hh : wbackHeld i s = false)
    (hq : chanHeld i (pageChan q) s = false) :
    exec (.beadWbackDone ⟨i, [(q, n)]⟩) s =
      .next (if (crcRepeats i q [n] s).1 then wroteBack i (crcRepeats i q [n] s).2 else (crcRepeats i q [n] s).2) := by
  show execBeadWbackDone ⟨i, [(q, n)]⟩ s = _
  unfold execBeadWbackDone
  have hany : ¬ (([(q, n)] : List (Nat × Nat)).map (·.1) ++ ((beadOf i s).cache.filter CPage.needs).map (·.q)).any
      (fun q => chanHeld i (pageChan q) s) = true := by
    rw [List.any_append, List.any_map, List.any_map]
    refine ne_true_of_eq_false (Bool.or_eq_false_iff.mpr ⟨?_, hh⟩)
    simp [hq]
  dsimp only
  rw [if_neg hany, if_pos hb]
  rfl

theorem refreshBand_keeps {i k : Nat} (h : beadBand (beadTemp i k s) (beadMult i k s) = beadMult i k s) : refreshBand i k s = s :=
  if_pos h

theorem refreshBand_moves {i k : Nat} (h : beadBand (beadTemp i k s) (beadMult i k s) ≠ beadMult i k s) :
    refreshBand i k s = applyFloors i
      (setF (beadP i) ⟨0x0C0, 2 * k + 1, 2 * k⟩ (beadBand (beadTemp i k s) (beadMult i k s)) s) := if_neg h

theorem exec_beadRefresh {i k : Nat} (hk : k < 8) : exec (.beadRefresh i k) s = .next (refreshBand i k s) :=
  congrArg Host.Outcome.next (if_pos hk)

/-! ### The patrol scrub -/

/-- The scrub of rod `i`, at page `q`, takes its turn, `m` minutes a pass (R378). -/
def scrubTurn (i m : Nat) (s : State) : State :=
  let t := waitTill ((beadOf i s).scrubAt + m * 60000000000 / 49152) s
  setBead i { beadOf i t with scrubAt := t.now } t

/-- Page `q`, whose transfers have come, is scrubbed (R379). -/
def scrubbed (i q : Nat) (p : PageRead) (s : State) : State := serveNow i q (scrubPage i q p.errs p.hdr p.other s)

/-- No page of rod `i` is scrubbed now: a pass of no length, or a zero-fill (R378, R395). -/
theorem exec_patrolScrub_rests {i : Nat} {p : PageRead}
    (h : scrubPeriod i (getF (beadP i) BEAD_SCRUB_STAT_POS s) s = 0 ∨ (beadOf i s).zeroing = true) :
    exec (.patrolScrub i p) s = .next s := by
  show execPatrolScrub i p s = _
  unfold execPatrolScrub
  refine if_pos ?_
  rcases h with h | h
  · simp [h]
  · rw [h, Bool.or_true, Bool.true_or, Bool.true_or]

section
variable {i q m : Nat} {p : PageRead} {v : State}

/-- The scrub may read page `q` of rod `i` now, `m` minutes a pass. -/
structure Scrubs (i q m : Nat) (s : State) : Prop where
  pos : getF (beadP i) BEAD_SCRUB_STAT_POS s = q
  period : scrubPeriod i q s = m
  turns : m ≠ 0
  fills : (beadOf i s).zeroing = false
  free : chanHeld i (pageChan q) s = false
  up : (beadOf i s).down.contains (pageChan q) = false

theorem Scrubs.exec (h : Scrubs i q m s) : exec (.patrolScrub i p) s =
    if !(crcRepeats i q p.crc (scrubTurn i m s)).1 then .next (crcRepeats i q p.crc (scrubTurn i m s)).2
    else if q + 1 ≥ 49152 then .next (setF (beadP i) BEAD_SCRUB_STAT_POS 0
      (bump (beadP i) BEAD_SCRUB_STAT_PASSES 1 (scrubbed i q p (crcRepeats i q p.crc (scrubTurn i m s)).2)))
    else .next (setF (beadP i) BEAD_SCRUB_STAT_POS (q + 1) (scrubbed i q p (crcRepeats i q p.crc (scrubTurn i m s)).2)) := by
  obtain ⟨rfl, rfl, hm, hz, hf, hd⟩ := h
  show execPatrolScrub i p s = _
  unfold execPatrolScrub
  refine if_neg ?_
  rw [hz, hf, hd]
  simpa using hm

theorem Scrubs.exec_on (h : Scrubs i q m s) (hv : crcRepeats i q p.crc (scrubTurn i m s) = (true, v)) (hq : q + 1 < 49152) :
    Machine.exec (.patrolScrub i p) s = .next (setF (beadP i) BEAD_SCRUB_STAT_POS (q + 1) (scrubbed i q p v)) := by
  rw [h.exec, hv]
  dsimp only
  rw [if_neg (by decide), if_neg (by omega)]

theorem Scrubs.exec_wraps (h : Scrubs i q m s) (hv : crcRepeats i q p.crc (scrubTurn i m s) = (true, v)) (hq : 49152 ≤ q + 1) :
    Machine.exec (.patrolScrub i p) s =
      .next (setF (beadP i) BEAD_SCRUB_STAT_POS 0 (bump (beadP i) BEAD_SCRUB_STAT_PASSES 1 (scrubbed i q p v))) := by
  rw [h.exec, hv]
  dsimp only
  rw [if_neg (by decide), if_pos hq]

theorem Scrubs.exec_failed (h : Scrubs i q m s) (hv : crcRepeats i q p.crc (scrubTurn i m s) = (false, v)) :
    Machine.exec (.patrolScrub i p) s = .next v := by
  rw [h.exec, hv]
  exact if_pos rfl
end

/-! ### Classes and the end of a sweep -/

/-- The stored pages of region `r` of rod `i` with something wrong, which no cache holds (R377). -/
def sweepBad (i r : Nat) (s : State) : List Nat :=
  (((beadOf i s).errs.map (·.1) ++ (beadOf i s).badHdr ++ (beadOf i s).badMeta).foldl nsInsert []).filter
    (fun q => pageRegion q == r && !resident i q s)

/-- A sweep that finds nothing wrong, the cache being empty: the region is at its class (R377). -/
theorem exec_recodeSweepDone_clean {i r : Nat} (hr : r < 96) (hs : getF (beadP i) (rsweepF r) s = 1) (hbad : sweepBad i r s = [])
    (hc : (beadOf i s).cache = []) :
    exec (.recodeSweepDone i r) s = .next (setF (beadP i) (rsweepF r) 0 (setBead i { beadOf i s with
      sweepOld := alErase (beadOf i s).sweepOld r, hdr := (beadOf i s).hdr.filter (fun e => pageRegion e.1 != r), cache := [] } s)) := by
  show execRecodeSweepDone i r s = _
  unfold execRecodeSweepDone
  rw [if_pos ⟨hs, hr⟩]
  unfold sweepBad at hbad
  dsimp only
  rw [hbad]
  simp [hc, b2n]

theorem exec_recodeSweepDone_idle {i r : Nat} (h : getF (beadP i) (rsweepF r) s ≠ 1 ∨ 96 ≤ r) :
    exec (.recodeSweepDone i r) s = .next s := by
  show execRecodeSweepDone i r s = _
  exact if_neg fun ⟨hs, hr⟩ => h.elim (absurd hs) (fun h => by omega)

/-- Settles O45: each command on the column takes the branch that its registers, its cache and its channels give. -/
theorem beadColumnsAreKept : Obligations.BeadColumnsAreKept := by
  unfold Obligations.BeadColumnsAreKept
  intro i s
  refine ⟨fun fn v hgo => ⟨fun h => ?_, fun h => ?_⟩, fun hb hh => ⟨exec_beadWbackDone_clean hb hh, ?_⟩,
    exec_beadWbackDone_held, fun crc => exec_beadWbackDone_idle, fun k hk => ⟨fun h => ?_, ?_⟩, ?_, fun p => exec_patrolScrub_rests, ?_,
    fun r hr hs => exec_recodeSweepDone_clean hr hs, fun r => exec_recodeSweepDone_idle,
    fun fn j v hgo => ⟨fun h => ?_, fun h => ?_⟩, fun fn v hgo => congrArg Host.Outcome.next (barWrite_goes hgo),
    fun h => if_pos h, fun h => if_neg (by rw [h]; decide)⟩
  · exact congrArg Host.Outcome.next ((barWrite_goes hgo).trans (if_pos h))
  · exact congrArg Host.Outcome.next ((barWrite_goes hgo).trans (if_neg (by rw [h]; decide)))
  · rintro q n t hq rfl
    rw [exec_beadWbackDone_one hb hh hq]
    exact ⟨fun h => congrArg Host.Outcome.next (if_pos h), fun h => congrArg Host.Outcome.next (if_neg (by rw [h]; decide))⟩
  · rw [exec_beadRefresh hk, refreshBand_keeps h]
  · rintro b rfl h
    rw [exec_beadRefresh hk, refreshBand_moves h]
  · rintro p q m t u hq hm rfl rfl h0 hz hf hd
    have h : Scrubs i q m s := ⟨hq, hm, h0, hz, hf, hd⟩
    exact ⟨fun v hv => ⟨h.exec_on hv, h.exec_wraps hv⟩, fun v => h.exec_failed⟩
  · rintro t u rfl rfl
    rfl
  · exact congrArg Host.Outcome.next ((barWrite_goes hgo).trans (if_neg (by rw [h]; decide)))
  · exact congrArg Host.Outcome.next ((barWrite_goes hgo).trans (if_pos h))

end Sys2Proof.Machine
end

section
/-! PROOFS. Translation (chapter 9): walks, faults and the pager, invalidations, and the tier engine. -/
-- One theorem after another: elaborated side by side, each holds its memory while it waits for those before it.
set_option Elab.async false

namespace Sys2Proof.Machine

variable {s : State}

/-! ### Walks -/

section
variable {r : PReq} {n : Nat}

@[simp] theorem resolveReq_ok (t : Target) : resolveReq r n (.ok t) s = launchReq r t (tierTouch r.rod n r.va s) := rfl

theorem resolveReq_mig {j k a off : Nat} (hc : r.client = .stream j k a off) :
    resolveReq r n .mig s = dropReq r.id r.rod (haltStream r.rod k off r.va (r.va / 2 ^ 16) s) := by
  unfold resolveReq
  dsimp only
  rw [hc]

theorem resolveReq_fails {c l p e : Nat} (h : 5 ≤ c) :
    resolveReq r n (.fault c l p e) s = updReq r.id (fun x => { x with phase := 3, status := 9 }) (xlatError r.rod c l s) := if_pos h

theorem resolveReq_waits {c l p e : Nat} (h : c < 5) (hp : (xlOf r.rod s).faults.any (fun f => f.page == r.va / 2 ^ 16) = false)
    (hl : 16 ≤ (xlOf r.rod s).faults.length) : resolveReq r n (.fault c l p e) s = s := by
  unfold resolveReq
  dsimp only
  rw [if_neg (Nat.not_le.mpr h)]
  exact if_pos (by rw [hp]; simpa using hl)

theorem resolveReq_opens {c l p e j k a off : Nat} (h : c < 5) (hl : (xlOf r.rod s).faults.length < 16) (hc : r.client = .stream j k a off) :
    resolveReq r n (.fault c l p e) s =
      dropReq r.id r.rod (openFault r.rod n r.va r.write c l p e (haltStream r.rod k off r.va (r.va / 2 ^ 16) s)) := by
  unfold resolveReq
  dsimp only
  rw [if_neg (Nat.not_le.mpr h), if_neg (by simp; omega), hc]
end

section
variable {i : Nat} {hs : List (Option Nat)} {r : PReq} {u : State}

/-- A request that finds its translation cached needs no walk. -/
theorem walkReq_cached {t : TRes} (h : tlbLook i (herdNo i s) r.va r.write s = (some t, u)) :
    walkReq i hs (none, s) r = (none, resolveReq r (herdNo i s) t u) := by
  unfold walkReq
  dsimp only
  rw [h]

/-- The first request whose translation is not cached makes the walk. -/
theorem walkReq_walks {w : State} {t : TRes} (h : tlbLook i (herdNo i s) r.va r.write s = (none, u))
    (hw : rodWalk i (herdNo i s) r.va r.write hs u = (t, w)) :
    walkReq i hs (none, s) r = (some t, resolveReq r (herdNo i s) t w) := by
  unfold walkReq
  dsimp only
  rw [h]
  dsimp only
  rw [hw]

theorem exec_xlatWalkDone {va : Nat} {l : List PReq}
    (h : s.reqs.filter (fun r => r.rod == i && r.phase == 0 && r.va / 2 ^ 16 == va / 2 ^ 16) = l) :
    exec (.xlatWalkDone i va hs) s = .next (l.foldl (walkReq i hs) (none, s)).2 := by
  subst h
  rfl

theorem exec_xlatWalkDone_one {va : Nat} {t : Option TRes} {w : State}
    (h : s.reqs.filter (fun r => r.rod == i && r.phase == 0 && r.va / 2 ^ 16 == va / 2 ^ 16) = [r]) (hw : walkReq i hs (none, s) r = (t, w)) :
    exec (.xlatWalkDone i va hs) s = .next w := by
  rw [exec_xlatWalkDone h, List.foldl_cons, List.foldl_nil, hw]
end

/-- What XLAT_WALK_DONE does with the requests `l` that wait for the page of `va`. -/
theorem exec_xlatWalkDone_resolves {i va : Nat} {hs : List (Option Nat)} {l : List PReq}
    (hl : s.reqs.filter (fun r => r.rod == i && r.phase == 0 && r.va / 2 ^ 16 == va / 2 ^ 16) = l) :
    (l = [] → exec (.xlatWalkDone i va hs) s = .next s)
      ∧ (∀ r n u, l = [r] → r.rod = i → herdNo i s = n → tlbLook i n r.va r.write s = (none, u) →
        (∀ t w, rodWalk i n r.va r.write hs u = (.ok t, w) → exec (.xlatWalkDone i va hs) s = .next (launchReq r t (tierTouch i n r.va w)))
        ∧ (∀ c lv p e w, rodWalk i n r.va r.write hs u = (.fault c lv p e, w) →
          (5 ≤ c → exec (.xlatWalkDone i va hs) s = .next (updReq r.id (fun x => { x with phase := 3, status := 9 }) (xlatError i c lv w)))
          ∧ (∀ j k a off, c < 5 → (xlOf i w).faults.length < 16 → r.client = .stream j k a off → exec (.xlatWalkDone i va hs) s =
            .next (dropReq r.id i (openFault i n r.va r.write c lv p e (haltStream i k off r.va (r.va / 2 ^ 16) w))))
          ∧ (c < 5 → (xlOf i w).faults.any (fun f => f.page == r.va / 2 ^ 16) = false → 16 ≤ (xlOf i w).faults.length →
            exec (.xlatWalkDone i va hs) s = .next w))
        ∧ (∀ j k a off w, rodWalk i n r.va r.write hs u = (.mig, w) → r.client = .stream j k a off → exec (.xlatWalkDone i va hs) s =
            .next (dropReq r.id i (haltStream i k off r.va (r.va / 2 ^ 16) w))))
      ∧ (∀ r t u, l = [r] → r.rod = i → tlbLook i (herdNo i s) r.va r.write s = (some (.ok t), u) →
        exec (.xlatWalkDone i va hs) s = .next (launchReq r t (tierTouch i (herdNo i s) r.va u)))
      ∧ exec (.xlatWalkDone i va hs) s = .next (l.foldl (walkReq i hs) (none, s)).2 := by
  refine ⟨?_, ?_, ?_, exec_xlatWalkDone hl⟩
  · rintro rfl
    exact exec_xlatWalkDone hl
  · rintro r n u rfl rfl rfl hu
    refine ⟨fun t w hw => exec_xlatWalkDone_one hl (walkReq_walks hu hw),
      fun c lv p e w hw => ⟨fun h => ?_, fun j k a off h hf hc => ?_, fun h hp hf => ?_⟩, fun j k a off w hw hc => ?_⟩
    · rw [exec_xlatWalkDone_one hl (walkReq_walks hu hw), resolveReq_fails h]
    · rw [exec_xlatWalkDone_one hl (walkReq_walks hu hw), resolveReq_opens h hf hc]
    · rw [exec_xlatWalkDone_one hl (walkReq_walks hu hw), resolveReq_waits h hp hf]
    · rw [exec_xlatWalkDone_one hl (walkReq_walks hu hw), resolveReq_mig hc]
  · rintro r t u rfl rfl hu
    exact exec_xlatWalkDone_one hl (walkReq_cached hu)

/-! ### Faults and the pager -/

section
variable {i : Nat} {f : XFault}

/-- The fault queue takes no record now: rod mode, a full ring, or a function that may issue nothing (R486). -/
theorem exec_faultRecordWrite_held {ok : Bool} (hf : (xlOf i s).faults.find? (fun f => !f.sent) = some f)
    (h : flag (xlatP i) XLAT_PAGER_MODE s = true ∨ fqUsed i s = 2 ^ getF (xlatP i) XLAT_FQ_SIZE_LOG2 s ∨ mayIssue (herdNo i s) s = false) :
    exec (.faultRecordWrite i ok) s = .next s := by
  show execFaultRecordWrite i ok s = _
  unfold execFaultRecordWrite
  rw [hf]
  refine if_pos ?_
  rcases h with h | h | h
  · exact .inl h
  · exact .inr (.inl h)
  · exact .inr (.inr (.inl (by rw [h]; decide)))

theorem exec_faultRecordWrite_goes {ok : Bool} (hf : (xlOf i s).faults.find? (fun f => !f.sent) = some f)
    (hm : flag (xlatP i) XLAT_PAGER_MODE s = false) (hq : fqUsed i s ≠ 2 ^ getF (xlatP i) XLAT_FQ_SIZE_LOG2 s)
    (hi : mayIssue (herdNo i s) s = true) (hl : lifeAt (statOf (herdP (herdNo i s))) s ≠ 4) :
    exec (.faultRecordWrite i ok) s =
      if !ok then .next (recordCE (xlatP i) 0x1706 (f.level * 1024 + f.cause) f.va s) else .next (putFault i f s) := by
  show execFaultRecordWrite i ok s = _
  unfold execFaultRecordWrite
  rw [hf]
  refine if_neg ?_
  rintro (h | h | h | h)
  · exact Bool.false_ne_true (hm.symm.trans h)
  · exact hq h
  · exact h hi
  · exact hl h

theorem answerFault_bad {fid res : Nat} (h : (xlOf i s).faults.find? (fun f => f.fid == fid) = none ∨ 2 ≤ res) :
    answerFault i fid res s = raise (xlatP i) 19 s := by
  unfold answerFault
  rcases h with h | h
  · rw [h]
  · split
    · exact if_pos h
    · rfl

theorem answerFault_closes {fid res : Nat} (hf : (xlOf i s).faults.find? (fun f => f.fid == fid) = some f) (h : res < 2) :
    answerFault i fid res s = closeFault i f (res == 1) s := by
  unfold answerFault
  rw [hf]
  exact if_neg (Nat.not_le.mpr h)

theorem exec_pagerTimeout {fid : Nat} (hf : (xlOf i s).faults.find? (fun f => f.fid == fid) = some f)
    (h : getF (xlatP i) XLAT_PAGER_TIMEOUT s ≠ 0) :
    exec (.pagerTimeout i fid) s = .next (closeFault i f true (recordCE (xlatP i) 0x1704 (f.level * 1024 + f.cause) f.va
      (waitTill (f.time + getF (xlatP i) XLAT_PAGER_TIMEOUT s * 1000000) s))) := by
  show execPagerTimeout i fid s = _
  unfold execPagerTimeout
  rw [hf]
  exact if_neg h

theorem exec_pagerComplete {it : FItem} {p : Nat × Nat} (hi : pagerItem i s = some it) (hp : it.pair = some p) (h : isComplete p = true) :
    exec (.pagerComplete i) s = .next (answerFault i (bitsOf p.1 31 16) (bitsOf p.1 33 32) (dropPagerItem i s)) := by
  show execPagerComplete i s = _
  unfold execPagerComplete
  rw [hi]
  dsimp only
  rw [hp]
  exact if_pos h

theorem exec_pagerInvalidate {it : FItem} {p : Nat × Nat} (hi : pagerItem i s = some it) (hp : it.pair = some p) (h : isInvalidate p = true) :
    exec (.pagerInvalidate i) s = .next (beginInv (herdNo i s) ⟨i, bitOf p.1 34, bitsOf p.2 47 16 * 2 ^ 16, bitsOf p.1 31 16, bitsOf p.1 15 8,
      some (it.hdr, bitsOf p.1 39 35)⟩ (dropPagerItem i s)) := by
  show execPagerInvalidate i s = _
  unfold execPagerInvalidate
  rw [hi]
  dsimp only
  rw [hp]
  exact if_pos h

theorem exec_pager_bad {it : FItem} (hi : pagerItem i s = some it) (hp : it.pair = none) :
    exec (.pagerComplete i) s = .next (badPagerItem i s) ∧ exec (.pagerInvalidate i) s = .next (badPagerItem i s) := by
  constructor
  · show execPagerComplete i s = _
    unfold execPagerComplete
    rw [hi]
    dsimp only
    rw [hp]
  · show execPagerInvalidate i s = _
    unfold execPagerInvalidate
    rw [hi]
    dsimp only
    rw [hp]
end

/-! ### Invalidations and the pager's register -/

theorem exec_invDone {n : Nat} {v : Inval} (h : (hxOf n s).inv = some v) :
    exec (.invDone n) s = if s.reqs.any (fun r => inFlight n r s && meets (r.va, r.va + r.len) v.range) then .next s
      else .next (finishInv n v (dropRange n v.range s)) := by
  show execInvDone n s = _
  unfold execInvDone
  rw [h]

section
variable {fn i v : Nat} (hgo : reaches fn (xlatP i + 0x90) s) (hlock : flag (xlatP i) PG_LOCK_LOCKED s = false)
include hgo hlock

/-- A pager outside the herd, or one in rod mode with equal channels, is denied (R503). -/
theorem exec_xlatPagerWrite_denied
    (h : herdOfRod (bitsOf v 13 4) s ≠ herdOfRod i s ∨ (bitOf v 0 = true ∧ bitsOf v 23 19 = bitsOf v 18 14)) :
    exec (.xlatPagerWrite fn i v) s = .next (raise (xlatP i) 2 s) := by
  refine congrArg Host.Outcome.next ((barWrite_goes hgo).trans ?_)
  dsimp only
  rw [if_neg (by rw [hlock]; decide)]
  exact if_pos h

theorem exec_xlatPagerWrite_taken (hr : herdOfRod (bitsOf v 13 4) s = herdOfRod i s)
    (hc : bitOf v 0 = false ∨ bitsOf v 23 19 ≠ bitsOf v 18 14) :
    exec (.xlatPagerWrite fn i v) s = .next (writeHw i 0x90 v s) := by
  refine congrArg Host.Outcome.next ((barWrite_goes hgo).trans ?_)
  dsimp only
  rw [if_neg (by rw [hlock]; decide)]
  refine if_neg ?_
  rintro (h | ⟨h1, h2⟩)
  · exact h hr
  · exact hc.elim (fun h => Bool.false_ne_true (h.symm.trans h1)) (absurd h2)
end

/-- Settles O46: a request, a fault, a pager item and an invalidation each take the branch that the state of chapter 9 gives. -/
theorem translationIsServed : Obligations.TranslationIsServed := by
  unfold Obligations.TranslationIsServed
  intro i s
  refine ⟨fun va hs l => exec_xlatWalkDone_resolves, fun f hf => ⟨?_, fun ok => exec_faultRecordWrite_held hf⟩,
    fun fn v hgo => ⟨fun h => ?_, fun f hf h => ?_⟩, fun fid f => exec_pagerTimeout, fun it p => exec_pagerComplete,
    fun it p => exec_pagerInvalidate, fun it => exec_pager_bad, fun fn v hgo => ⟨fun h => ?_, fun h => ?_⟩,
    fun n v hv => ⟨fun h => ?_, fun h => ?_⟩,
    fun fn v hgo hlock => ⟨exec_xlatPagerWrite_denied hgo hlock, exec_xlatPagerWrite_taken hgo hlock⟩⟩
  · rintro n prod u rfl rfl hm hq hi hl rfl
    exact ⟨exec_faultRecordWrite_goes hf hm hq hi hl, exec_faultRecordWrite_goes hf hm hq hi hl⟩
  · exact congrArg Host.Outcome.next ((barWrite_goes hgo).trans (answerFault_bad h))
  · exact congrArg Host.Outcome.next ((barWrite_goes hgo).trans (answerFault_closes hf h))
  · exact congrArg Host.Outcome.next ((barWrite_goes hgo).trans (if_pos h))
  · exact congrArg Host.Outcome.next ((barWrite_goes hgo).trans (if_neg (by rw [h]; decide)))
  · rw [exec_invDone hv, if_neg (by rw [h]; decide)]
  · rw [exec_invDone hv, if_pos h]

/-! ### Auto-tier -/

/-- The engine plans its window anew from the uses that it has shared out, the ages `old` of the bead frames at hand (R496). -/
def tierPlan (n : Nat) (old : List (Nat × Nat)) (s : State) : State :=
  let table := hotTrim (hotShare s) (hxOf n s).hot
  setHx n { hxOf n s with
    hot := [], left := herdF n XLAT_TIER_CTL_MIG_MAX s, winAt := s.now
    plan := (hotFrames (herdF n XLAT_TIER_PAR_HOT_N s) table.length table).map (fun x => tbCount n s + x)
    cold := coldFrames (herdF n XLAT_TIER_CTL_COLD_W s) old.length old } s

/-- What the engine of herd `n` ages at the end of its window, and the state after it. -/
def tierAged (n : Nat) (s : State) : List (Nat × Nat) × State :=
  tierAge n (waitTill ((hxOf n s).winAt + herdF n XLAT_TIER_PAR_WIN_MS s * 1000000) s)

theorem exec_tierWindowEnd_rests {n : Nat} {hs : List (Option Nat)} (h : tierRuns n s = false ∨ tierHeld n s = true) :
    exec (.tierWindowEnd n hs) s = .next s := by
  show execTierWindowEnd n hs s = _
  unfold execTierWindowEnd
  refine if_pos ?_
  rcases h with h | h
  · rw [h]; rfl
  · rw [h, Bool.or_true]

theorem exec_tierWindowEnd {n : Nat} {hs : List (Option Nat)} (hr : tierRuns n s = true) (hh : tierHeld n s = false) :
    exec (.tierWindowEnd n hs) s = .next
      (if (hxOf n (tierAged n s).2).mig.isSome then tierPlan n (tierAged n s).1 (tierAged n s).2
       else migNext n (migFuel n (tierPlan n (tierAged n s).1 (tierAged n s).2)) hs (tierPlan n (tierAged n s).1 (tierAged n s).2)) := by
  show execTierWindowEnd n hs s = _
  unfold execTierWindowEnd
  exact if_neg (by rw [hr, hh]; decide)

section
variable {n : Nat} {m : Mig} (hm : (hxOf n s).mig = some m)
include hm

/-- A request through the leaf of migration `m` is outstanding (R497 step 2). -/
theorem exec_migrationInvalidated_waits {ok : Bool} {data : HostBytes} (h : m.step ≠ 1 ∨ tierHeld n s = true
      ∨ s.reqs.any (fun r => inFlight n r s && r.va / 2 ^ 16 == m.page) = true) :
    exec (.migrationInvalidated n ok data) s = .next s := by
  show execMigrationInvalidated n ok data s = _
  unfold execMigrationInvalidated
  rw [hm]
  exact if_pos (h.imp_right Or.symm)

theorem exec_migrationInvalidated {ok : Bool} {data : HostBytes} (h1 : m.step = 1) (hh : tierHeld n s = false)
    (hb : s.reqs.any (fun r => inFlight n r s && r.va / 2 ^ 16 == m.page) = false) {t : State}
    (ht : dropRange n (m.page * 2 ^ 16, m.page * 2 ^ 16 + 2 ^ 16) s = t) :
    exec (.migrationInvalidated n ok data) s =
      if !(ok && mayIssue n s) then .next (migOn n [] (endMig n m (recordCE (xlatP (anchor n t)) 0x1707 0 (m.page * 2 ^ 16)
        (putLeaf n m.leafAt m.leafHost m.leaf t))))
      else .next (setHx n { hxOf n (migCopy n m data t) with mig := some { m with step := 3 } } (migCopy n m data t)) := by
  subst ht
  show execMigrationInvalidated n ok data s = _
  unfold execMigrationInvalidated
  rw [hm]
  refine if_neg ?_
  rintro (h | h | h)
  · exact h h1
  · exact Bool.false_ne_true (hb.symm.trans h)
  · exact Bool.false_ne_true (hh.symm.trans h)

theorem exec_migrationCopyDone_waits {cur : Nat} {hs : List (Option Nat)} (h : m.step ≠ 3 ∨ tierHeld n s = true) :
    exec (.migrationCopyDone n cur hs) s = .next s := by
  show execMigrationCopyDone n cur hs s = _
  unfold execMigrationCopyDone
  rw [hm]
  exact if_pos h

theorem exec_migrationCopyDone {cur leaf : Nat} {hs : List (Option Nat)} {t : State} (h3 : m.step = 3) (hh : tierHeld n s = false)
    (hl : leafNow n cur m s = (leaf, t)) :
    exec (.migrationCopyDone n cur hs) s =
      if leaf ≠ m.leaf + 2 ^ 8 then .next (migOn n hs (endMig n m (recordCE (xlatP (anchor n t)) 0x1708 0 (m.page * 2 ^ 16) t)))
      else .next (migOn n hs (endMig n m (raise (xlatP (anchor n (migCommit n m t))) 20 (migCommit n m t)))) := by
  show execMigrationCopyDone n cur hs s = _
  unfold execMigrationCopyDone
  rw [hm]
  refine (if_neg ?_).trans ?_
  · rintro (h | h)
    · exact h h3
    · exact Bool.false_ne_true (hh.symm.trans h)
  · rw [hl]
end

theorem exec_migrationCopyDone_plans {n cur : Nat} {hs : List (Option Nat)} (hm : (hxOf n s).mig = none) (hp : (hxOf n s).plan ≠ [])
    (hh : tierHeld n s = false) : exec (.migrationCopyDone n cur hs) s = .next (migOn n hs s) := by
  show execMigrationCopyDone n cur hs s = _
  unfold execMigrationCopyDone
  rw [hm]
  refine congrArg Host.Outcome.next (if_neg ?_)
  rw [hh, Bool.or_false, List.isEmpty_iff]
  exact hp

/-- Settles O47: the engine acts when it runs and no bead holds its requests, and a migration goes from step to step. -/
theorem tiersMigrate : Obligations.TiersMigrate := by
  unfold Obligations.TiersMigrate
  intro n s
  refine ⟨fun fn i v hgo => ⟨congrArg Host.Outcome.next (barWrite_goes hgo), congrArg Host.Outcome.next (barWrite_goes hgo)⟩,
    fun hs => exec_tierWindowEnd_rests, ?_, fun m hm => ⟨?_, fun ok data => exec_migrationInvalidated_waits hm, ?_,
      fun cur hs => exec_migrationCopyDone_waits hm⟩, fun cur hs => exec_migrationCopyDone_plans⟩
  · rintro hs old t u table hr hh ha rfl rfl
    have ha' : tierAged n s = (old, t) := ha
    rw [exec_tierWindowEnd hr hh, ha']
    exact ⟨fun h => congrArg Host.Outcome.next (if_neg (by rw [h]; decide)), fun h => congrArg Host.Outcome.next (if_pos h)⟩
  · intro ok data t h1 hh hb ht
    rw [exec_migrationInvalidated hm h1 hh hb ht]
    exact ⟨fun hok hi => if_neg (by rw [hok, hi]; decide), fun h => if_pos (by rcases h with h | h <;> simp [h])⟩
  · intro cur hs leaf t h3 hh hl
    rw [exec_migrationCopyDone hm h3 hh hl]
    refine ⟨fun h => if_pos h, ?_⟩
    rintro u h rfl
    exact if_neg (not_not_intro h)

end Sys2Proof.Machine
end

section
/-! PROOFS. Transactions end to end, the election of the fabric's manager, and what it and its devices do (chapter 12). -/
-- One theorem after another: elaborated side by side, each holds its memory while it waits for those before it.
set_option Elab.async false

namespace Sys2Proof.Machine

variable {s : State}

/-! ### Requests at their target -/

section
variable {p dst src hops age cls len us serial mseq : Nat} {esc : Bool} {body : List Byte} (hf : HeaderFits p dst src hops cls len)
include hf

/-- A packet that is neither flooded nor source-routed, with a good header: for this node it is taken, else it goes on or dies. -/
theorem exec_arrival_plain {k : Pkt} (hk : k = ⟨p, dst, src, hops, age, cls, esc, false, false, body⟩) :
    exec (.rlPacketArrival p dst src hops age cls len us serial mseq esc false false false body) s =
      if nodeValid s && dst == nodeId s then .next (takePkt k s)
      else if k.dies us then .next (rlDiscard s)
      else .next (routePkt 2 (k.goesOn us) s.now s) := by
  subst hk
  obtain ⟨h1, h2, h3, h4, h5, h6⟩ := hf
  show execRlPacketArrival p dst src hops age cls len us serial mseq esc false false false body s = _
  unfold execRlPacketArrival
  rw [Nat.mod_eq_of_lt h1, Nat.mod_eq_of_lt h2, Nat.mod_eq_of_lt h3, Nat.mod_eq_of_lt h4, decide_eq_false (by omega : ¬ cls ≥ 6),
    decide_eq_false (by omega : ¬ len > 4128)]
  rfl
end

section
variable {k : Pkt}

theorem exec_e2eRequest_waits (h : firstArrived false s = some k) (hl : servedLater k s = true) : exec .e2eRequest s = .next s := by
  show execE2eRequest s = _
  unfold execE2eRequest
  rw [h]
  exact if_pos hl

/-- The oldest request, whose pages are at hand, on a device in a fatal error and on one that works. -/
theorem exec_e2eRequest_fatal (h : firstArrived false s = some k) (hl : servedLater k s = false) (hf : s.fatal ≠ []) :
    exec .e2eRequest s = .next (answer k 4 [] [] (takeArrived k s)) := by
  show execE2eRequest s = _
  unfold execE2eRequest
  rw [h]
  dsimp only
  rw [if_neg (by rw [hl]; decide)]
  exact if_pos (by rwa [List.isEmpty_iff])

theorem exec_e2eRequest_works (h : firstArrived false s = some k) (hl : servedLater k s = false) (hf : s.fatal = []) :
    exec .e2eRequest s = if k.op ≥ 2 then .next (serveDup k (takeArrived k s))
      else if k.badReq then .next (answer k 0x0B [] [] (takeArrived k s))
      else .next (if k.op = 0 then serveRead k (takeArrived k s) else serveWrite k (takeArrived k s)) := by
  show execE2eRequest s = _
  unfold execE2eRequest
  rw [h]
  dsimp only
  rw [if_neg (by rw [hl]; decide), hf]
  rfl

/-- READ and WRITE execute at each arrival (R664). -/
theorem exec_e2eRequest_read (h : firstArrived false s = some k) (hl : servedLater k s = false) (hf : s.fatal = []) (ho : k.op = 0)
    (hb : k.badReq = false) : exec .e2eRequest s = .next (serveRead k (takeArrived k s)) := by
  rw [exec_e2eRequest_works h hl hf, if_neg (by omega), if_neg (by rw [hb]; decide), if_pos ho]

theorem exec_e2eRequest_write (h : firstArrived false s = some k) (hl : servedLater k s = false) (hf : s.fatal = []) (ho : k.op = 1)
    (hb : k.badReq = false) : exec .e2eRequest s = .next (serveWrite k (takeArrived k s)) := by
  rw [exec_e2eRequest_works h hl hf, if_neg (by omega), if_neg (by rw [hb]; decide), if_neg (by omega)]

theorem exec_e2eRequest_bad (h : firstArrived false s = some k) (hl : servedLater k s = false) (hf : s.fatal = []) (ho : k.op < 2)
    (hb : k.badReq = true) : exec .e2eRequest s = .next (answer k 0x0B [] [] (takeArrived k s)) := by
  rw [exec_e2eRequest_works h hl hf, if_neg (by omega), if_pos hb]

/-- Other operations go by the duplicate table (R661). -/
theorem exec_e2eRequest_dup (h : firstArrived false s = some k) (hl : servedLater k s = false) (hf : s.fatal = []) (ho : 2 ≤ k.op) :
    exec .e2eRequest s = .next (serveDup k (takeArrived k s)) := by
  rw [exec_e2eRequest_works h hl hf, if_pos ho]

theorem serveDup_new (h : s.e2e.dups.find? (fun d => d.src == k.src && d.tag == k.tag) = none) (hl : s.e2e.dups.length < 32768) :
    serveDup k s = serveOnce k (showDups { s with e2e := { s.e2e with dups := s.e2e.dups ++ [k.entry s] } }) := by
  unfold serveDup
  dsimp only
  rw [h]
  exact if_neg (Nat.not_le.mpr hl)

theorem serveDup_full (h : s.e2e.dups.find? (fun d => d.src == k.src && d.tag == k.tag) = none) (hl : 32768 ≤ s.e2e.dups.length) :
    serveDup k s = answer k 2 [] [] (raise (e2eP 0) 17 (recordCE (e2eP 0) 0x2302 0 0 (bump (e2eP 0) E2E_BUSY_COUNT 1 s))) := by
  unfold serveDup
  dsimp only
  rw [h]
  exact if_pos hl

/-- A request seen before, while it executes and once it has its outcome. -/
theorem serveDup_again {d : Dup} (h : s.e2e.dups.find? (fun d => d.src == k.src && d.tag == k.tag) = some d) (he : d.epoch = k.epoch)
    (hu : d.use = k.use) : (d.done = none → serveDup k s = s)
      ∧ ∀ o, d.done = some o → serveDup k s = answer k o.1 o.2 (outcomeBad o.1 o.2) (bump (e2eP 0) E2E_DUPHIT_COUNT 1 s) := by
  unfold serveDup
  dsimp only
  rw [h]
  dsimp only
  rw [if_pos ⟨he, hu⟩]
  exact ⟨fun hd => by rw [hd], fun o hd => by rw [hd]⟩
end

/-! ### Responses and attempts at their source -/

section
variable {k : Pkt} {x : Txn}

theorem exec_e2eResponse_stale (h : firstArrived true s = some k) (hl : liveOf k (takeArrived k s) = none) :
    exec .e2eResponse s = .next (stale (takeArrived k s)) := by
  show execE2eResponse s = _
  unfold execE2eResponse
  rw [h]
  dsimp only
  rw [hl]

theorem exec_e2eResponse_live (h : firstArrived true s = some k) (hl : liveOf k (takeArrived k s) = some x) :
    exec .e2eResponse s =
      if bitsOf k.e0 45 38 = 1 then .next (updTxn x.tag (fun y => { y with pend := some s.now }) (takeArrived k s))
      else if bitsOf k.e0 45 38 = 2 ∨ bitsOf k.e0 45 38 = 3 then .next (takeArrived k s)
      else .next (txnEnd x (issuerStatus (bitsOf k.e0 45 38)) k.payload.1 k.payload.2 (takeArrived k s)) := by
  show execE2eResponse s = _
  unfold execE2eResponse
  rw [h]
  dsimp only
  rw [hl]

variable {tag : Nat} (hx : s.e2e.live.find? (fun y => y.tag == tag) = some x)
include hx

theorem exec_e2eAttemptTimer_waiting (hp : x.pend = none) :
    exec (.e2eAttemptTimer tag) s =
      if x.sent < 8 then .next (updTxn tag (fun y => { y with sent := y.sent + 1 })
        (sendAttempt x (bump (e2eP 0) E2E_RETRY_COUNT 1 (waitTill (x.start + 4000000 * x.sent) s))))
      else .next (giveUp x (waitTill (x.start + 48000000) s)) := by
  show execE2eAttemptTimer tag s = _
  unfold execE2eAttemptTimer
  rw [hx]
  dsimp only
  rw [hp]
  rfl

/-- A transaction that its target has answered with PENDING waits for its outcome alone (R659). -/
theorem exec_timers_pending {p : Nat} (hp : x.pend = some p) :
    exec (.e2eAttemptTimer tag) s = .next s ∧ exec (.e2ePendingGiveup tag) s = .next (giveUp x (waitTill (p + 4000000) s)) := by
  constructor
  · show execE2eAttemptTimer tag s = _
    unfold execE2eAttemptTimer
    rw [hx]
    dsimp only
    rw [hp]
    rfl
  · show execE2ePendingGiveup tag s = _
    unfold execE2ePendingGiveup
    rw [hx]
    dsimp only
    rw [hp]
end

/-! ### The duplicate table -/

section
variable {src tag : Nat} {d : Dup}

/-- The entry `d` is as old as now. -/
def dupAnew (d : Dup) (s : State) : State :=
  { s with e2e := { s.e2e with dups := s.e2e.dups.map (fun x => if x = d then { d with time := s.now } else x) } }

theorem exec_e2ePendingTimer (h : s.e2e.dups.find? (fun d => d.src == src && d.tag == tag) = some d) (hd : d.done = none) :
    exec (.e2ePendingTimer src tag) s = .next (sendPkt
      (respPkt src (d.tag + d.epoch * 2 ^ 14 + d.use * 2 ^ 22 + d.op * 2 ^ 30) d.w1 1 [] [] (dupAnew d (waitTill (d.time + 1000000) s)))
      (dupAnew d (waitTill (d.time + 1000000) s))) := by
  have hmap : ∀ (now : Nat) (l : List Dup),
      l.map (fun x => if x == d then { x with time := now } else x) = l.map (fun x => if x = d then { d with time := now } else x) := by
    intro now l
    refine List.map_congr_left fun x _ => ?_
    by_cases hxd : x = d
    · subst hxd
      rw [if_pos (beq_self_eq_true x), if_pos rfl]
    · rw [if_neg (by rwa [beq_iff_eq]), if_neg hxd]
  show execE2ePendingTimer src tag s = _
  unfold execE2ePendingTimer
  rw [h]
  dsimp only
  rw [if_neg (by rw [hd]; decide), hmap]
  rfl

/-- What the duplicate table shows is a matter of registers only. -/
theorem showDups_regsOnly (s : State) : showDups s = { s with regs := (showDups s).regs } :=
  regsOnly_trans (setF_regsOnly (e2eP 0) E2E_DUP_USED s.e2e.dups.length s) (setF_regsOnly _ _ _ _)

theorem getF_showDups (s : State) : getF (e2eP 0) E2E_DUP_USED (showDups s) = s.e2e.dups.length % 2 ^ E2E_DUP_USED.width := by
  unfold showDups
  rw [getF_setF_beside (f := E2E_DUP_USED) (g := E2E_DUP_HIGH) _ _ rfl (by decide) (by decide) (by decide),
    getF_setF_same _ _ (by decide) (by decide)]
  rfl

theorem exec_dupEntryExpiry (h : s.e2e.dups.find? (fun d => d.src == src && d.tag == tag && d.done.isSome) = some d) :
    exec (.dupEntryExpiry src tag) s = .next (showDups { waitTill (d.time + 64000000) s with
      e2e := { s.e2e with dups := s.e2e.dups.filter (fun x => x != d) } }) := by
  show execDupEntryExpiry src tag s = _
  unfold execDupEntryExpiry
  rw [h]
  rfl

theorem exec_dupEntryExpiry_none (h : ∀ d ∈ s.e2e.dups, d.src = src → d.tag = tag → d.done = none) :
    exec (.dupEntryExpiry src tag) s = .next s := by
  have hn : s.e2e.dups.find? (fun d => d.src == src && d.tag == tag && d.done.isSome) = none := by
    refine List.find?_eq_none.mpr fun d hd => ?_
    simp only [Bool.and_eq_true, beq_iff_eq, not_and, and_imp]
    intro h1 h2
    rw [h d hd h1 h2]
    decide
  show execDupEntryExpiry src tag s = _
  unfold execDupEntryExpiry
  rw [hn]
end

/-- Settles O48: each arrival, request, response and timer takes the branch that the tables of transactions and duplicates give. -/
theorem transactionsRunEndToEnd : Obligations.TransactionsRunEndToEnd := by
  unfold Obligations.TransactionsRunEndToEnd
  refine ⟨?_, ?_, ?_, ?_, ?_, ?_, fun s => ⟨fun h => congrArg Host.Outcome.next (if_pos h),
    fun h => congrArg Host.Outcome.next (if_neg (by rw [h]; decide))⟩⟩
  · intro p dst src hops age cls len us serial mseq esc body s hp hd hs hh hc hl hv hn
    rw [exec_arrival_plain ⟨hp, hd, hs, hh, by omega, hl⟩ rfl, if_pos (by rw [hv, hn]; simp)]
    exact congrArg Host.Outcome.next (if_pos hc)
  · rintro k s t h rfl
    refine ⟨exec_e2eRequest_waits h, exec_e2eRequest_fatal h, fun hl hf => ⟨exec_e2eRequest_read h hl hf, exec_e2eRequest_write h hl hf,
      exec_e2eRequest_bad h hl hf, fun ho hn hlt => ?_, fun ho hn hge => ?_, fun d ho hd he hu => ?_⟩⟩
    · rw [exec_e2eRequest_dup h hl hf ho, serveDup_new hn hlt]
    · rw [exec_e2eRequest_dup h hl hf ho, serveDup_full hn hge]
    · rw [exec_e2eRequest_dup h hl hf ho]
      exact ⟨fun hdone => congrArg Host.Outcome.next ((serveDup_again hd he hu).1 hdone),
        fun o hdone => congrArg Host.Outcome.next ((serveDup_again hd he hu).2 o hdone)⟩
  · rintro k s t h rfl
    refine ⟨exec_e2eResponse_stale h, ?_⟩
    rintro x st hl rfl
    rw [exec_e2eResponse_live h hl]
    exact ⟨fun h1 => if_pos h1, fun h23 => by rw [if_neg (by omega), if_pos h23],
      fun h04 => by rw [if_neg (by omega), if_neg (by omega)]⟩
  · intro tag x s hx
    refine ⟨fun hp hs => ?_, fun hp hs => ?_, fun p => exec_timers_pending hx⟩
    · rw [exec_e2eAttemptTimer_waiting hx hp, if_pos hs]
    · rw [exec_e2eAttemptTimer_waiting hx hp, if_neg (Nat.not_lt.mpr hs)]
  · rintro src tag d s t u h hd rfl rfl
    exact exec_e2ePendingTimer h hd
  · intro src tag s
    refine ⟨fun d h => ⟨_, exec_dupEntryExpiry h, fun x => ?_, rfl, ?_, ?_⟩, exec_dupEntryExpiry_none⟩
    · show x ∈ s.e2e.dups.filter (fun x => x != d) ↔ _
      rw [List.mem_filter, bne_iff_ne]
    · exact getF_showDups _
    · exact showDups_regsOnly _

/-! ### The election of the manager -/

section
variable {inp : Via} {serial seq host pri kserial : Nat}

/-- Which keys beat those seen is a matter of the best one. -/
theorem beatsBest_of_best {k : MgrKey} {t : State} (h : t.rtr.best = s.rtr.best) : beatsBest k t = beatsBest k s := by
  unfold beatsBest
  rw [h]

theorem rememberMsg_best (serial seq : Nat) (s : State) : (rememberMsg serial seq s).rtr.best = s.rtr.best := by
  unfold rememberMsg
  dsimp only

theorem exec_claim_seen (h : seenMsg serial seq s = true) : exec (.claim inp serial seq host pri kserial) s = .next s := if_pos h

theorem exec_claim (h : seenMsg serial seq s = false) :
    exec (.claim inp serial seq host pri kserial) s = if beatsBest ⟨host, pri, kserial⟩ s then
        .next (flood inp 0x10 [serial, seq, host, pri, kserial] { rememberMsg serial seq s with
          rtr := { (rememberMsg serial seq s).rtr with best := some ⟨host, pri, kserial⟩, claimed := none } })
      else .next (rememberMsg serial seq s) := by
  show execClaim inp serial seq host pri kserial s = _
  unfold execClaim
  dsimp only
  rw [if_neg (by rw [h]; decide), beatsBest_of_best (rememberMsg_best ..)]

/-- The manager whose heartbeat has come is the one in force, and fabric time goes on to its own (R650, R654). -/
def heartbeatTaken (host pri kserial node ftime now : Nat) (s : State) : State :=
  setManager (if host = 1 then 3 else 2) 0 node pri { s with rtr := { s.rtr with
    best := some ⟨host, pri, kserial⟩, beat := some now, claimed := none, offset := max s.rtr.offset (ftime - now) } }

theorem exec_heartbeat {node ftime : Nat} {t : State} (h : seenMsg serial seq s = false)
    (ht : flood inp 0x11 [serial, seq, host, pri, kserial, node, ftime] (rememberMsg serial seq s) = t) :
    exec (.heartbeat inp serial seq host pri kserial node ftime) s =
      if beatsBest ⟨host, pri, kserial⟩ t || t.rtr.best == some ⟨host, pri, kserial⟩ then
        .next (heartbeatTaken host pri kserial node ftime s.now t)
      else .next t := by
  subst ht
  show execHeartbeat inp serial seq host pri kserial node ftime s = _
  unfold execHeartbeat
  dsimp only
  rw [if_neg (by rw [h]; decide)]
  rfl
end

/-- The device's own key has stood for 50 ms: it is the manager from now on (R649). -/
def claimStands (t0 : Nat) (s : State) : State :=
  { waitTill (t0 + 50000000) s with rtr := { s.rtr with claimed := none, beat := some (max s.now (t0 + 50000000)) } }

theorem exec_claimTimer {t0 : Nat} (h : s.rtr.claimed = some t0) :
    exec .claimTimer s = if s.rtr.best ≠ some (ownKey s) then .next s
      else .next (if s.rtr.hostHere then setManager 3 1 (nodeId (claimStands t0 s)) 255 (claimStands t0 s)
        else mgsRules (ownKey s).pri (claimStands t0 s)) := by
  show execClaimTimer s = _
  unfold execClaimTimer
  rw [h]
  rfl

theorem exec_heartbeatTimer (h : managerHere s = true) (hb : s.rtr.best = some (ownKey s)) {t : State}
    (ht : waitTill (s.rtr.beat.getD 0 + 10000000) s = t) :
    exec .heartbeatTimer s = .next (floodOwn 0x11 [(ownKey s).host, (ownKey s).pri, (ownKey s).serial, nodeId t, fabricTime t]
      { t with rtr := { t.rtr with beat := some t.now } }) := by
  subst ht
  show execHeartbeatTimer s = _
  unfold execHeartbeatTimer
  exact if_pos (by rw [h, hb]; simp)

theorem exec_fmLost {t0 : Nat} (h : s.rtr.beat = some t0) :
    exec .fmLost s = .next (if managerHere s then s else loseManager (waitTill (t0 + 50000000) s)) := by
  show execFmLost s = _
  unfold execFmLost
  rw [h]

theorem exec_announce {inp : Via} {serial seq node epoch : Nat} {leave : Bool} (h : seenMsg serial seq s = false) :
    exec (.announce inp serial seq leave node epoch) s = .next (announced leave node epoch
      (flood inp 0x18 [serial, seq, b2n leave, node, epoch] (rememberMsg serial seq s))) := if_neg (by rw [h]; decide)

/-- Settles O49: a flooded message acts once, by the key that it carries; a timer and a register write act by the role that they find. -/
theorem theManagerIsElected : Obligations.TheManagerIsElected := by
  unfold Obligations.TheManagerIsElected
  refine ⟨?_, fun inp serial seq host pri kserial s => exec_claim_seen, ?_, ?_, fun s t h hb ht => exec_heartbeatTimer h hb ht, ?_,
    fun inp serial seq node epoch leave s => exec_announce, fun fn v s hgo hv => ⟨fun h => ?_, fun h => ?_⟩,
    fun fn v s hgo => ⟨fun h => ?_, fun h => ?_⟩⟩
  · rintro inp serial seq host pri kserial s t h rfl
    rw [exec_claim h]
    exact ⟨fun hb => if_pos hb, fun hb => if_neg (by rw [hb]; decide)⟩
  · rintro t0 s t u h
    refine ⟨?_, fun hb => (exec_claimTimer h).trans (if_pos hb)⟩
    rintro hb rfl rfl
    rw [exec_claimTimer h, if_neg (not_not_intro hb)]
    exact ⟨fun hh => congrArg Host.Outcome.next (if_pos hh), fun hh => congrArg Host.Outcome.next (if_neg (by rw [hh]; decide))⟩
  · intro inp serial seq host pri kserial node ftime s t h ht
    rw [exec_heartbeat h ht]
    exact ⟨fun hb => if_pos (by rw [Bool.or_eq_true, beq_iff_eq]; exact hb),
      fun hb hn => if_neg (by rw [hb, Bool.false_or, beq_iff_eq]; exact hn)⟩
  · rintro t0 s t h rfl
    rw [exec_fmLost h]
    exact ⟨fun hm => congrArg Host.Outcome.next (if_neg (by rw [hm]; decide)), fun hm => congrArg Host.Outcome.next (if_pos hm)⟩
  · refine congrArg Host.Outcome.next ((barWrite_goes hgo).trans ?_)
    rw [if_neg (by rw [hv]; decide), if_pos (by rw [h]; rfl)]
  · refine congrArg Host.Outcome.next ((barWrite_goes hgo).trans ?_)
    rw [if_neg (by rw [hv]; decide), if_neg (by rw [h]; decide)]
  · exact congrArg Host.Outcome.next ((barWrite_goes hgo).trans (if_pos h))
  · exact congrArg Host.Outcome.next ((barWrite_goes hgo).trans (if_pos h))

/-! ### What the manager and its devices do -/

section
variable {src seq node epoch : Nat}

theorem exec_assign : exec (.assign src seq node epoch) s =
    if !fabricOn s then .next (joinDenied s) else .next (replyTo src 0x15 seq [ownSerial, node, epoch] (takeNode node epoch s)) := rfl
end

section
variable {serial : Nat} {x : FmNode} (hm : mgsManages s = true) (hx : fmNode serial s = some x)
include hm hx

/-- A device has answered with its topology: one with a node ID is known with its links, another is given one (R651). -/
theorem exec_topoRep {valid : Bool} {node epoch : Nat} {links : List (Nat × Nat × Nat)} :
    exec (.topoRep serial valid node epoch links) s = .next (links.foldl (fun t l => fmDiscover l.2.1 t)
      (if valid then
        setFmNode { x with asked := 0, epoch := epoch, node := (if valid then some node else none), joined := valid, links := links } s
       else fmAssign { x with asked := 0, epoch := epoch, node := (if valid then some node else none), joined := valid, links := links }
        (setFmNode { x with asked := 0, epoch := epoch, node := (if valid then some node else none), joined := valid, links := links } s))) := by
  show execTopoRep serial valid node epoch links s = _
  unfold execTopoRep
  rw [if_neg (by rw [hm]; decide), hx]

theorem exec_topoRep_valid {node epoch : Nat} {links : List (Nat × Nat × Nat)} :
    exec (.topoRep serial true node epoch links) s = .next (links.foldl (fun t l => fmDiscover l.2.1 t)
      (setFmNode { x with asked := 0, epoch := epoch, node := some node, joined := true, links := links } s)) := by
  rw [exec_topoRep hm hx, if_pos rfl, if_pos rfl]

theorem exec_topoRep_new {node epoch : Nat} {links : List (Nat × Nat × Nat)} {y : FmNode}
    (hy : { x with asked := 0, epoch := epoch, node := none, joined := false, links := links } = y) :
    exec (.topoRep serial false node epoch links) s =
      .next (links.foldl (fun t l => fmDiscover l.2.1 t) (fmAssign y (setFmNode y s))) := by
  subst hy
  rw [exec_topoRep hm hx, if_neg Bool.false_ne_true, if_neg Bool.false_ne_true]

/-- The device has taken its node ID: with no tables to write it is announced, else they are written (Table 12-8 step 4). -/
theorem exec_assignAck_last (ha : x.asked = 0x14) :
    exec (.assignAck serial []) s = .next (announce false (x.node.getD 0) x.epoch (setFmNode
      { x with asked := 0, seq := (nextMsg s).1, since := s.now, sent := s.now, owed := [], joined := true } (nextMsg s).2)) := by
  show execAssignAck serial [] s = _
  unfold execAssignAck
  rw [if_neg (by rw [hm]; decide), hx]
  exact if_neg (not_not_intro ha)

theorem exec_assignAck_writes {w : Nat × List Nat} {ws : List (Nat × List Nat)} (ha : x.asked = 0x14) :
    exec (.assignAck serial (w :: ws)) s = .next (sendWrites (nextMsg s).1 (w :: ws) (setFmNode
      { x with asked := 0x16, seq := (nextMsg s).1, since := s.now, sent := s.now, owed := w :: ws, joined := true } (nextMsg s).2)) := by
  show execAssignAck serial (w :: ws) s = _
  unfold execAssignAck
  rw [if_neg (by rw [hm]; decide), hx]
  exact if_neg (not_not_intro ha)

/-- A port that is up, and one that is down and was not among the device's links (R651). -/
theorem exec_portEvent_up {port phase pserial pport : Nat} {writes : List (Nat × List Nat)} (hp : phase = 4 ∨ phase = 5) :
    exec (.portEvent serial port phase pserial pport writes) s = .next (fmDiscover pserial (setFmNode
      { x with links := x.links.filter (fun l => l.1 != port) ++ [(port, pserial, pport)] } s)) := by
  have hup : (phase == 4 || phase == 5) = true := by rcases hp with rfl | rfl <;> rfl
  show execPortEvent serial port phase pserial pport writes s = _
  unfold execPortEvent
  rw [if_neg (by rw [hm]; decide), hx]
  dsimp only
  rw [hup]
  rfl

theorem exec_portEvent_down {port phase pserial pport : Nat} {writes : List (Nat × List Nat)} (hp : ¬ (phase = 4 ∨ phase = 5))
    (hl : x.links.all (fun l => l.1 != port) = true) :
    exec (.portEvent serial port phase pserial pport writes) s =
      .next (setFmNode { x with links := x.links.filter (fun l => l.1 != port) } s) := by
  have hdown : (phase == 4 || phase == 5) = false := by simpa using hp
  have hnone : x.links.filter (fun l => l.1 == port) = [] := List.filter_eq_nil_iff.mpr fun l hmem => by
    have := List.all_eq_true.mp hl l hmem
    simpa using this
  show execPortEvent serial port phase pserial pport writes s = _
  unfold execPortEvent
  rw [if_neg (by rw [hm]; decide), hx]
  dsimp only
  rw [hdown, hnone]
  rfl

theorem exec_leaveReq {node epoch : Nat} {writes : List (Nat × List Nat)} :
    exec (.leaveReq serial node epoch writes) s = .next (fmGone { x with node := some node, epoch := epoch } writes s) := by
  show execLeaveReq serial node epoch writes s = _
  unfold execLeaveReq
  rw [if_neg (by rw [hm]; decide), hx]

theorem exec_managerRepeatTimer {w t : State} (hw : waitTill (x.sent + 1000000) s = w) (ht : setFmNode { x with sent := w.now } w = t) :
    exec (.managerRepeatTimer serial) s = if x.asked = 0 then .next s
      else if x.asked = 0x16 then .next (sendWrites x.seq x.owed t)
      else .next (fmSend x x.asked x.seq x.ask t) := by
  subst hw ht
  show execManagerRepeatTimer serial s = _
  unfold execManagerRepeatTimer
  rw [if_neg (by rw [hm]; decide), hx]

theorem exec_topoTimeout {writes : List (Nat × List Nat)} :
    exec (.topoTimeout serial writes) s = .next (if x.asked = 0x12 then fmGone x writes (waitTill (x.since + 10000000) s) else s) := by
  show execTopoTimeout serial writes s = _
  unfold execTopoTimeout
  rw [if_neg (by rw [hm]; decide), hx]
end

/-- Node `src` has written its tables; `l` are the writes that are still owed (Table 12-8 step 5). -/
theorem exec_routeAck {src seq : Nat} {w : Nat × List Nat} {x : FmNode} {l : List (Nat × List Nat)} (hm : mgsManages s = true)
    (hx : s.rtr.nodes.find? (fun x => x.asked == 0x16 && x.seq == seq) = some x) (hw : x.owed.find? (fun w => w.1 == src) = some w)
    (hl : x.owed.erase w = l) :
    exec (.routeAck src seq) s = .next (if l.isEmpty then
        announce false (x.node.getD 0) x.epoch (setFmNode { x with owed := l, asked := (if l.isEmpty then 0 else 0x16) } s)
      else setFmNode { x with owed := l, asked := (if l.isEmpty then 0 else 0x16) } s) := by
  subst hl
  show execRouteAck src seq s = _
  unfold execRouteAck
  rw [if_neg (by rw [hm]; decide), hx]
  dsimp only
  rw [hw]

/-- Settles O50: a device answers each request of its manager, and the elected MGS acts by what it knows of the device that a message names. -/
theorem theManagerRunsTheFabric : Obligations.TheManagerRunsTheFabric := by
  unfold Obligations.TheManagerRunsTheFabric
  refine ⟨fun src seq s => rfl, fun src seq node epoch s => ⟨fun h => ?_, fun h => ?_⟩, fun src seq table first entries s => rfl, ?_, ?_⟩
  · rw [exec_assign, if_neg (by rw [h]; decide)]
  · rw [exec_assign, if_pos (by rw [h]; rfl), joinDenied]
  · intro serial x s hm hx
    refine ⟨fun node epoch links => exec_topoRep_valid hm hx, fun node epoch links y => exec_topoRep_new hm hx,
      exec_assignAck_last hm hx, fun w ws => exec_assignAck_writes hm hx,
      fun port phase pserial pport writes => exec_portEvent_up hm hx, fun port phase pserial pport writes => exec_portEvent_down hm hx,
      fun node epoch writes => exec_leaveReq hm hx, fun w t hw ht => ⟨fun ha => ?_, fun ha => ?_⟩, fun ha => ?_, fun writes ha => ?_,
      fun writes ha => ?_⟩
    · rw [exec_managerRepeatTimer hm hx hw ht, if_neg (by omega), if_pos ha]
    · rw [exec_managerRepeatTimer hm hx hw ht, if_neg (by omega), if_neg (by omega)]
    · rw [exec_managerRepeatTimer hm hx rfl rfl, if_pos ha]
    · rw [exec_topoTimeout hm hx, if_pos ha]
    · rw [exec_topoTimeout hm hx, if_neg ha]
  · intro src seq w x s hm hx hw
    refine ⟨fun hl => ?_, fun hl => ?_⟩
    · rw [exec_routeAck hm hx hw hl, if_pos List.isEmpty_nil, if_pos List.isEmpty_nil]
    · have hne : ¬ (x.owed.erase w).isEmpty = true := by rwa [List.isEmpty_iff]
      rw [exec_routeAck hm hx hw rfl, if_neg hne, if_neg hne]

end Sys2Proof.Machine
end

section
/-! PROOFS. The KV cache manager (chapter 13) and the video pipes (chapter 14). -/
-- One theorem after another: elaborated side by side, each holds its memory while it waits for those before it.
set_option Elab.async false

namespace Sys2Proof.Machine

variable {s : State}

/-! ### Operations of the KVM -/

/-- The commands that carry out an operation of one code: the command, the code and what it does (R705). -/
theorem exec_kvOperation {c : Instr} {k : Nat} {act : KvOp → State → Option Nat × State}
    (hc : (c, k, act) ∈ ([(.kvmOpen, 1, kvOpenAct), (.kvmClose, 2, kvCloseAct), (.setBudget, 3, kvBudgetAct), (.kvmMove, 4, kvMoveAct),
      (.kvmPin, 5, kvPinAct)] : List (Instr × Nat × (KvOp → State → Option Nat × State)))) :
    exec c s = .next (kvDo k act s) := by
  simp only [List.mem_cons, Prod.mk.injEq, List.not_mem_nil, or_false] at hc
  rcases hc with ⟨rfl, rfl, rfl⟩ | ⟨rfl, rfl, rfl⟩ | ⟨rfl, rfl, rfl⟩ | ⟨rfl, rfl, rfl⟩ | ⟨rfl, rfl, rfl⟩ <;> rfl

section
variable {o : KvOp} {k : Nat} {act : KvOp → State → Option Nat × State} {t : State}

/-- The operation at hand ends with its status, or goes on. -/
theorem kvDo_ends {st : Nat} (h : kvHead s = some o) (hk : o.code = k) (ha : act o s = (some st, t)) : kvDo k act s = kvOpEnd st o t := by
  unfold kvDo
  rw [h]
  dsimp only
  rw [if_neg (not_not_intro hk), ha]

theorem kvDo_goes (h : kvHead s = some o) (hk : o.code = k) (ha : act o s = (none, t)) : kvDo k act s = t := by
  unfold kvDo
  rw [h]
  dsimp only
  rw [if_neg (not_not_intro hk), ha]
end

section
variable {o : KvOp} {q : KvSeq}

theorem kvOpenAct_bad (hb : o.bad = true) : kvOpenAct o s = (some 0x12, s) := if_pos (by rw [hb]; rfl)

/-- An OPEN that R715 allows, of a herd that is READY (R706, R707). -/
theorem kvOpenAct_good (hb : o.bad = false) (hm : flag (kvmP 0) KVM_CTL_MANUAL s = false) (hl : lifeAt (statOf (herdP o.herd)) s = 2) :
    kvOpenAct o s = if (kvSeqOf o.herd o.seqid s).isSome then (some 0x10, s)
      else if s.kvm.seqs.length ≥ 4096 ∨ (s.kvm.seqs.map (fun q => q.pairs.length)).foldl (· + ·) 0 + o.nhead > 16384 then (some 0x14, s)
      else match kvPlace o o.nhead 0 s with
        | some t => (some 0, t)
        | none => (some 0x13, s) := by
  unfold kvOpenAct
  dsimp only
  rw [if_neg (by simp [hb, hm])]
  exact if_neg (not_not_intro hl)

theorem kvOpenAct_exists (hb : o.bad = false) (hm : flag (kvmP 0) KVM_CTL_MANUAL s = false) (hl : lifeAt (statOf (herdP o.herd)) s = 2)
    (hq : (kvSeqOf o.herd o.seqid s).isSome = true) : kvOpenAct o s = (some 0x10, s) := by
  rw [kvOpenAct_good hb hm hl, if_pos hq]

theorem kvOpenAct_full (hb : o.bad = false) (hm : flag (kvmP 0) KVM_CTL_MANUAL s = false) (hl : lifeAt (statOf (herdP o.herd)) s = 2)
    (hq : kvSeqOf o.herd o.seqid s = none) (hf : 4096 ≤ s.kvm.seqs.length) : kvOpenAct o s = (some 0x14, s) := by
  rw [kvOpenAct_good hb hm hl, hq, if_neg (by decide), if_pos (.inl hf)]

/-- What the placement of its heads answers decides an OPEN for which there is room. -/
theorem kvOpenAct_room (hb : o.bad = false) (hm : flag (kvmP 0) KVM_CTL_MANUAL s = false) (hl : lifeAt (statOf (herdP o.herd)) s = 2)
    (hq : kvSeqOf o.herd o.seqid s = none) (hf : s.kvm.seqs.length < 4096)
    (hn : (s.kvm.seqs.map (fun q => q.pairs.length)).foldl (· + ·) 0 + o.nhead ≤ 16384) :
    (∀ t, kvPlace o o.nhead 0 s = some t → kvOpenAct o s = (some 0, t)) ∧ (kvPlace o o.nhead 0 s = none → kvOpenAct o s = (some 0x13, s)) := by
  rw [kvOpenAct_good hb hm hl, hq, if_neg (by decide), if_neg (by omega)]
  exact ⟨fun t ht => by rw [ht], fun ht => by rw [ht]⟩

theorem kvCloseAct_none (hq : kvSeqOf o.herd o.seqid s = none) : kvCloseAct o s = (some 0x11, s) := by
  unfold kvCloseAct
  rw [hq]

theorem foldl_congr_mem {α β : Type} {f g : α → β → α} : ∀ {l : List β} {a : α}, (∀ b, ∀ x ∈ l, f b x = g b x) → l.foldl f a = l.foldl g a
  | [], _, _ => rfl
  | x :: l, a, h => by
    rw [List.foldl_cons, List.foldl_cons, h a x List.mem_cons_self]
    exact foldl_congr_mem fun b y hy => h b y (List.mem_cons_of_mem _ hy)

/-- A sequence of which nothing moves and no handle is in use is closed at once (R721). -/
theorem kvCloseAct_free (hq : kvSeqOf o.herd o.seqid s = some q) (hm : s.kvm.moves = [])
    (hu : q.pairs.any (fun x => kvInUse x.rod x.h s) = false) {t : State} (ht : q.pairs.foldl (fun t x => kvClear x.rod x.h t) s = t) :
    kvCloseAct o s =
      (some 0, kvDropMoved o.herd o.seqid (setKvm { t.kvm with seqs := t.kvm.seqs.filter (fun z => z != q) } t)) := by
  have huse : ∀ x ∈ q.pairs, ¬ kvInUse x.rod x.h s = true := by simpa using hu
  have hbusy : q.pairs.filter (fun x => kvInUse x.rod x.h s) = [] := List.filter_eq_nil_iff.mpr huse
  have hclear : q.pairs.foldl (fun t x =>
      if kvInUse x.rod x.h s then setKvH x.rod x.h { kvH x.rod x.h t with closing := true } t else kvClear x.rod x.h t) s = t :=
    (foldl_congr_mem fun u x hx => if_neg (huse x hx)).trans ht
  unfold kvCloseAct
  rw [hq]
  dsimp only
  rw [hm, List.filter_nil, List.foldl_nil, hq]
  dsimp only
  rw [hbusy, hclear]
  exact if_pos rfl

theorem kvBudgetAct_still (hb : o.bad = false) (hq : kvSeqOf o.herd o.seqid s = some q) (hst : q.pairs.any (fun x => x.st == 2) = false) :
    kvBudgetAct o s = (some 0, q.pairs.foldl (kvBudget o) s) := by
  unfold kvBudgetAct
  rw [if_neg (by rw [hb]; decide), hq]
  exact if_neg (by rw [hst]; decide)

/-- An open pair begins to move to the rod that the record names, if that is eligible (R708). -/
theorem kvMoveAct_named {x : KvPair} {j : Nat} (hq : kvSeqOf o.herd o.seqid s = some q) (hx : q.pairs.find? (fun x => x.head == o.head) = some x)
    (hst : x.st = 1) (hr : o.rod = j) (hj : j < 1023)
    (he : kvEligible o.herd j ((kvH x.rod x.h s).nblk + 1) (kvH x.rod x.h s).stride s = true) :
    kvMoveAct o s = (none, kvMoveStart o.herd o.seqid x j true
      (setKvm { s.kvm with ops := s.kvm.ops.map (fun p => if p == o then { p with runs := true } else p) } s)) := by
  subst hr
  have hgone : ¬ (x.st = 4 ∨ (flag (kvmP 0) KVM_CTL_MANUAL s = true ∧ o.rod = 0x3FF)) := by
    rintro (h | ⟨-, h⟩) <;> omega
  unfold kvMoveAct
  rw [hq]
  dsimp only
  rw [hx]
  dsimp only
  rw [if_neg (by omega : ¬ x.st = 2), if_neg hgone, if_neg (by omega : ¬ o.rod = 0x3FF), if_pos he]

theorem kvPinAct_some (hq : kvSeqOf o.herd o.seqid s = some q) :
    kvPinAct o s = (some 0, setKvm { s.kvm with seqs := s.kvm.seqs.map (fun z => if z == q then { z with pin := o.pin } else z) } s) := by
  unfold kvPinAct
  rw [hq]

theorem exec_kvmBadOp (h : kvHead s = some o) : exec .kvmBadOp s = .next (if o.code = 0 ∨ o.code > 5 then kvOpEnd 0x12 o s else s) := by
  show execKvmBadOp s = _
  unfold execKvmBadOp
  rw [h]
end

/-- What the oldest operation does once its command comes. -/
theorem kvOperations_act {o : KvOp} (h : kvHead s = some o) :
    (∀ c k act, (c, k, act) ∈ ([(.kvmOpen, 1, kvOpenAct), (.kvmClose, 2, kvCloseAct), (.setBudget, 3, kvBudgetAct), (.kvmMove, 4, kvMoveAct),
          (.kvmPin, 5, kvPinAct)] : List (Instr × Nat × (KvOp → State → Option Nat × State))) → o.code = k →
        (∀ st t, act o s = (some st, t) → exec c s = .next (kvOpEnd st o t)) ∧ (∀ t, act o s = (none, t) → exec c s = .next t)) := by
  intro c k act hc hk
  rw [exec_kvOperation hc]
  exact ⟨fun st t ha => congrArg Host.Outcome.next (kvDo_ends h hk ha), fun t ha => congrArg Host.Outcome.next (kvDo_goes h hk ha)⟩

/-! ### Rebalancing and moves -/

theorem exec_rebalance {n : Nat} (hr : kvmReady s = true) (hm : flag (kvmP 0) KVM_CTL_MANUAL s = false) (hp : getF (kvmP 0) KVM_CTL_PERIOD s ≠ 0)
    (hl : lifeAt (statOf (herdP n)) s = 2) (ht : hubThrottled s = false) {t u v : State}
    (hw : waitTill (alGetD s.kvm.balAt n 0 + getF (kvmP 0) KVM_CTL_PERIOD s * 1000000) s = t)
    (hu : setKvm { t.kvm with balAt := alSet t.kvm.balAt n t.now } t = u) (hv : balGo n (getF (kvmP 0) KVM_CTL_MOVES u) u = v) :
    exec (.rebalance n) s = .next (if v.kvm.moves.length > u.kvm.moves.length then raise (kvmP 0) 19 v else v) := by
  subst hw hu hv
  show execRebalance n s = _
  unfold execRebalance
  refine if_pos ?_
  rw [hr, hm, hl, ht]
  simpa using hp

theorem exec_rebalance_rests {n : Nat} (h : kvmReady s = false ∨ flag (kvmP 0) KVM_CTL_MANUAL s = true ∨ getF (kvmP 0) KVM_CTL_PERIOD s = 0
    ∨ hubThrottled s = true) : exec (.rebalance n) s = .next s := by
  show execRebalance n s = _
  unfold execRebalance
  refine if_neg ?_
  rcases h with h | h | h | h <;> simp [h]

section
variable {k : Nat} {m : KvMove} (hm : s.kvm.moves[k]? = some m)
include hm

theorem exec_moveCopyDone : exec (.moveCopyDone k) s = .next (setKvH m.src m.srcH { kvH m.src m.srcH s with frozen := true } s) := by
  show execMoveCopyDone k s = _
  unfold execMoveCopyDone
  rw [hm]

theorem exec_moveFail {err : Bool} : exec (.moveFail k err) s =
    .next (moveFailed m (if err then s else waitTill (m.start + 100001 + 1000 * (kvH m.src m.srcH s).nblk) s)) := by
  show execMoveFail k err s = _
  unfold execMoveFail
  rw [hm]

/-- A pair changes over only with its source frozen and no command of its handle running (R722). -/
theorem exec_pairMoved_waits {hs : List (List (Option Nat))} (h : (kvH m.src m.srcH s).frozen = false ∨ kvInUse m.src m.srcH s = true) :
    exec (.pairMoved k hs) s = .next s := by
  show execPairMoved k hs s = _
  unfold execPairMoved
  rw [hm]
  refine if_pos ?_
  rcases h with h | h <;> simp [h]

theorem exec_pairMoved {hs : List (List (Option Nat))} (hf : (kvH m.src m.srcH s).frozen = true) (hu : kvInUse m.src m.srcH s = false)
    (hl : moveLate m s = false) : exec (.pairMoved k hs) s =
      if (moveCopy m hs s).2.err.isSome || decide ((moveSlots m s).length < (kvH m.src m.srcH s).nblk) then
        .next (moveFailed m (moveCopy m hs s).2.s)
      else .next (moveOver m (kvH m.src m.srcH s) (moveSlots m s) (moveCopy m hs s).1 s.now (moveCopy m hs s).2.s) := by
  show execPairMoved k hs s = _
  unfold execPairMoved
  rw [hm]
  exact if_neg (by rw [hf, hu, hl]; decide)
end

/-! ### Pool registers -/

section
variable {fn i r v : Nat} (hr : r < 3) (hgo : reaches fn (kvP i + 0x80 + 4 * r) s)
include hr hgo

theorem exec_kvPoolCfgWrite : exec (.kvPoolCfgWrite fn i r v) s = .next
    (if r = 0 then writeShadow (kvP i + 0x80 + 4 * r) v s
     else if lockHolds (kvP i + 0x80 + 4 * r) s then raise (kvP i) 2 s
     else if !(kvOf i s).hs.isEmpty then raise (kvP i) 3 s
     else if r = 1 then writeHi (kvP i + 0x80 + 4 * r) v s
     else showKv i (writeReg (kvP i + 0x80 + 4 * r) (max 1 (bitsOf v 23 16) * 65536 + min 16384 (v % 2 ^ 15)) s)) := by
  show execKvPoolCfgWrite fn i r v s = _
  unfold execKvPoolCfgWrite
  rw [Nat.mod_eq_of_lt hr]
  exact congrArg Host.Outcome.next (barWrite_goes hgo)

/-- A pool register that is not shadowed, on a locked page, while a handle is open, and free to change (R717). -/
theorem exec_kvPoolCfgWrite_locked (h0 : r ≠ 0) (hl : lockHolds (kvP i + 0x80 + 4 * r) s = true) :
    exec (.kvPoolCfgWrite fn i r v) s = .next (raise (kvP i) 2 s) := by
  rw [exec_kvPoolCfgWrite hr hgo, if_neg h0, if_pos hl]

theorem exec_kvPoolCfgWrite_used (h0 : r ≠ 0) (hl : lockHolds (kvP i + 0x80 + 4 * r) s = false) (hh : (kvOf i s).hs ≠ []) :
    exec (.kvPoolCfgWrite fn i r v) s = .next (raise (kvP i) 3 s) := by
  rw [exec_kvPoolCfgWrite hr hgo, if_neg h0, if_neg (by rw [hl]; decide), if_pos (by simpa using hh)]

theorem exec_kvPoolCfgWrite_free (h0 : r ≠ 0) (hl : lockHolds (kvP i + 0x80 + 4 * r) s = false) (hh : (kvOf i s).hs = []) :
    exec (.kvPoolCfgWrite fn i r v) s = .next (if r = 1 then writeHi (kvP i + 0x80 + 4 * r) v s
      else showKv i (writeReg (kvP i + 0x80 + 4 * r) (max 1 (bitsOf v 23 16) * 65536 + min 16384 (v % 2 ^ 15)) s)) := by
  rw [exec_kvPoolCfgWrite hr hgo, if_neg h0, if_neg (by rw [hl]; decide), if_neg (by rw [hh]; decide)]
end

/-- Settles O51: an operation ends as its act answers, a move and a period as their handles and registers allow, a pool register as its page does. -/
theorem theKvmActs : Obligations.TheKvmActs := by
  unfold Obligations.TheKvmActs
  refine ⟨fun fn v s hgo hv => congrArg Host.Outcome.next ((barWrite_goes hgo).trans (if_pos hv)), ?_, ?_,
    fun n s => exec_rebalance_rests, ?_, fun i hn s => ⟨fun h => congrArg Host.Outcome.next (if_pos h),
      fun h => congrArg Host.Outcome.next (if_neg h)⟩, ?_⟩
  · intro o s h
    have hopen := kvOperations_act h .kvmOpen 1 kvOpenAct (by simp)
    have hclose := kvOperations_act h .kvmClose 2 kvCloseAct (by simp)
    refine ⟨kvOperations_act h, fun hk hb => (hopen hk).1 _ _ (kvOpenAct_bad hb), fun hk hb hm hl => ⟨fun hq => ?_, fun hq hf => ?_,
      fun hq hf hn => ⟨fun t ht => ?_, fun ht => ?_⟩⟩, fun hk hq => (hclose hk).1 _ _ (kvCloseAct_none hq),
      fun q t hk hq hm hu ht => (hclose hk).1 _ _ (kvCloseAct_free hq hm hu ht), fun q hk hb hq hst => ?_,
      fun q x j hk hq hx hst hr hj he => ?_, fun q hk hq => ?_, fun hk => ?_⟩
    · exact (hopen hk).1 _ _ (kvOpenAct_exists hb hm hl hq)
    · exact (hopen hk).1 _ _ (kvOpenAct_full hb hm hl hq hf)
    · exact (hopen hk).1 _ _ ((kvOpenAct_room hb hm hl hq hf hn).1 t ht)
    · exact (hopen hk).1 _ _ ((kvOpenAct_room hb hm hl hq hf hn).2 ht)
    · exact (kvOperations_act h .setBudget 3 kvBudgetAct (by simp) hk).1 _ _ (kvBudgetAct_still hb hq hst)
    · exact (kvOperations_act h .kvmMove 4 kvMoveAct (by simp) hk).2 _ (kvMoveAct_named hq hx hst hr hj he)
    · exact (kvOperations_act h .kvmPin 5 kvPinAct (by simp) hk).1 _ _ (kvPinAct_some hq)
    · rw [exec_kvmBadOp h, if_pos hk]
  · intro n s t hr hm hp hl ht hw u v hu hv
    rw [exec_rebalance hr hm hp hl ht hw hu hv]
    exact ⟨fun h => congrArg Host.Outcome.next (if_pos h), fun h => congrArg Host.Outcome.next (if_neg (Nat.not_lt.mpr h))⟩
  · intro k m s hm
    refine ⟨exec_moveCopyDone hm, ?_, ?_, fun hs => exec_pairMoved_waits hm, ?_, ?_⟩
    · rw [exec_moveFail hm, if_pos rfl]
    · rw [exec_moveFail hm, if_neg Bool.false_ne_true]
    · rintro hs x hf hu hl rfl he
      rw [exec_pairMoved hm hf hu hl, if_pos (by rw [he]; rfl)]
    · rintro hs x slots hf hu hl rfl he rfl hn
      rw [exec_pairMoved hm hf hu hl, if_neg (by rw [he]; simpa using hn)]
  · intro fn i r v s hr hgo
    refine ⟨?_, exec_kvPoolCfgWrite_locked hr hgo, exec_kvPoolCfgWrite_used hr hgo, ?_, ?_⟩
    · rintro rfl
      rw [exec_kvPoolCfgWrite hr hgo, if_pos rfl]
    · rintro rfl hl hh
      rw [exec_kvPoolCfgWrite_free hr hgo (by decide) hl hh, if_pos rfl]
    · rintro rfl hl hh
      rw [exec_kvPoolCfgWrite_free hr hgo (by decide) hl hh, if_neg (by decide)]

/-! ### Command blocks of a video pipe -/

section
variable {n q k : Nat} {e : HqEnt}

theorem exec_entryVideo (he : entryAtWork n q k 5 s = some e) (hp : e.phase = 0) :
    exec (.entryVideo n q k) s =
      if pipeLife (entryPipe e) s ≠ 2 then .next (vComplete (entryPipe e) (entryJob n e 5) (startEnt e s))
      else if !e.bad.isEmpty then .next (vComplete (entryPipe e) (entryJob n e 7) (startEnt e s))
      else if (vpOf (entryPipe e) s).jobs.countP (fun j => j.phase == 0) ≥ 64 then
        .next (vComplete (entryPipe e) (entryJob n e 9) (startEnt e s))
      else .next (setVp (entryPipe e) { vpOf (entryPipe e) (startEnt e s) with
        jobs := (vpOf (entryPipe e) (startEnt e s)).jobs ++ [entryJob n e 0] } (startEnt e s)) := by
  show execEntryVideo n q k s = _
  unfold execEntryVideo
  rw [he]
  exact if_neg (by rw [hp]; decide)
end

section
variable {v n k : Nat} {j : VJob} {y : VSess}

theorem exec_videoOpen (hv : v < 4) (hj : vFront v n k s = some j) (ho : j.op = 1) :
    exec (.videoOpen v n k) s =
      if (vsOf v k s).isSome then .next (vEnd v 0xA j s)
      else if !openOk v j s then .next (vEnd v 7 j s)
      else .next (vEnd v 0 j (setVp v { vpOf v s with
        sess := (vpOf v s).sess ++ [⟨k, n, j.words.tail, 0, false, [], [], [], none, 0, 0, (bitsOf (j.body 0) 47 32 + 63) / 64, none⟩] } s)) := by
  show execVideoOpen v n k s = _
  unfold execVideoOpen
  rw [hj]
  exact if_neg (by omega)

theorem exec_videoJobStart_closed (hv : v < 4) (hj : vFront v n k s = some j) (ho : j.op = 3 ∨ j.op = 4) (hy : vMine v n k s = none) :
    exec (.videoJobStart v n k) s = .next (vEnd v 8 j s) := by
  show execVideoJobStart v n k s = _
  unfold execVideoJobStart
  rw [hj]
  dsimp only
  rw [if_neg (by omega), hy]

/-- A job of an open session starts once its pipes are free and no herd with a weight waits for them (R741, R543). -/
theorem exec_videoJobStart (hv : v < 4) (hj : vFront v n k s = some j) (ho : j.op = 3 ∨ j.op = 4) (hy : vMine v n k s = some y) :
    exec (.videoJobStart v n k) s =
      if jobOk j y = false then .next (vEnd v 7 j s)
      else if (y.group v).all (fun u => pipeLife u s == 2 || pipeLife u s == 3) && (y.group v).all (fun u => (vpRun u s).isNone)
        && !vYields n (y.group v) s then .next (vStart v j (y.group v) s) else .next s := by
  show execVideoJobStart v n k s = _
  unfold execVideoJobStart
  rw [hj]
  dsimp only
  rw [if_neg (by omega), hy]
  have hop : decide (j.op ≠ 3 ∧ j.op ≠ 4) = false := decide_eq_false (by omega)
  dsimp only
  rw [hop, Bool.false_or]
  cases jobOk j y <;> rfl

theorem exec_endOfStream_closed {hs : List (List (Option Nat))} (hv : v < 4) (hj : vFront v n k s = some j) (ho : j.op = 5)
    (hy : vMine v n k s = none) : exec (.endOfStream v n k hs) s = .next (vEnd v 8 j s) := by
  show execEndOfStream v n k hs s = _
  unfold execEndOfStream
  rw [hj]
  dsimp only
  rw [if_neg (by omega), hy]

theorem exec_endOfStream {hs : List (List (Option Nat))} (hv : v < 4) (hj : vFront v n k s = some j) (ho : j.op = 5)
    (hy : vMine v n k s = some y) {l : List VJob}
    (hl : ((vpOf v s).jobs.takeWhile (fun z => z.key != j.key)).filter (fun z => z.herd == n && z.sess == k) = l) :
    exec (.endOfStream v n k hs) s =
      if j.len ≠ 8 then .next (vEnd v 7 j s)
      else if l.all (fun z => jobReady z y) then .next (if (outAll v k n l.length ⟨0, [], [], hs, s⟩).st = 0 then
          vEnd v 0 j (outAll v k n l.length ⟨0, [], [], hs, s⟩).s else (outAll v k n l.length ⟨0, [], [], hs, s⟩).s)
      else .next s := by
  subst hl
  show execEndOfStream v n k hs s = _
  unfold execEndOfStream
  rw [hj]
  dsimp only
  rw [if_neg (by omega), hy]

theorem exec_videoClose (hv : v < 4)
    (hj : (vpOf v s).jobs.find? (fun j => j.herd == n && j.sess == k && j.phase == 0 && (j.op == 2 || j.op == 1)) = some j) (ho : j.op = 2) :
    exec (.videoClose v n k) s =
      if (vMine v n k s).isNone then .next (vEnd v 8 j s)
      else if j.len ≠ 8 then .next (vEnd v 7 j s)
      else .next (vEnd v 0 j (vClose v k j.key s)) := by
  show execVideoClose v n k s = _
  unfold execVideoClose
  rw [hj]
  exact if_neg (by omega)
end

/-! ### Decoding -/

section
variable {v : Nat} {d : VDec} {hs : List (List (Option Nat))} {j : VJob} {y : VSess} {r : VIo}
  (hj : vRunning v 3 s = some (j, y)) (hr : vaRead y.herd (j.body 0) (j.body 1) hs s = r)
include hj hr

theorem exec_decode_unread (h : r.st ≠ 0) : exec (.decode v d hs) s = .next (vIoEnd v j r) := by
  subst hr
  show execDecode v d hs s = _
  unfold execDecode
  rw [hj]
  exact if_pos h

theorem exec_decode_unsupported (h : r.st = 0) (hd : decUnsupported y d = true) : exec (.decode v d hs) s = .next (vEnd v 2 j r.s) := by
  subst hr
  show execDecode v d hs s = _
  unfold execDecode
  rw [hj]
  dsimp only
  rw [if_neg (not_not_intro h)]
  exact if_pos hd

theorem exec_decode_nopic (h : r.st = 0) (hd : decUnsupported y d = false) (hn : d.nopic = true) :
    exec (.decode v d hs) s =
      .next (vComplete v (decJob y d (decPois d r.bad) j) (decSess v y d (decShare v y d (decLost v y d j r.s)))) := by
  subst hr
  show execDecode v d hs s = _
  unfold execDecode
  rw [hj]
  dsimp only
  rw [if_neg (not_not_intro h), if_neg (by rw [hd]; decide)]
  exact if_pos hn

theorem exec_decode_written (h : r.st = 0) (hd : decUnsupported y d = false) (hn : d.nopic = false) {w : VIo}
    (hw : decWrite y d (decGone d j) (decPois d r.bad) { r with s := decLost v y d j r.s } = w) (hst : w.st = 0) :
    exec (.decode v d hs) s = .next (decDone v y d (decPois d r.bad) j w.s) := by
  subst hr hw
  show execDecode v d hs s = _
  unfold execDecode
  rw [hj]
  dsimp only
  rw [if_neg (not_not_intro h), if_neg (by rw [hd]; decide), if_neg (by rw [hn]; decide)]
  exact if_neg (not_not_intro hst)
end

/-! ### Encoding -/

section
variable {v key : Nat} {e : VEnc} {hs : List (List (Option Nat))} {j : VJob} {y : VSess}
  (hj : (vpOf v s).jobs.find? (fun j => j.key == key && j.op == 4 && (j.phase == 1 || j.phase == 3)) = some j)
  (hy : vMine v j.herd j.sess s = some y)
include hj hy

theorem exec_encode_hold (h : encKind v y j s = .hold) : exec (.encode v key e hs) s = .next (encHold v y j s) := by
  show execEncode v key e hs s = _
  unfold execEncode
  rw [hj]
  dsimp only
  rw [hy]
  dsimp only
  rw [h]

theorem exec_encode_wait (h : encKind v y j s = .wait) : exec (.encode v key e hs) s = .next s := by
  show execEncode v key e hs s = _
  unfold execEncode
  rw [hj]
  dsimp only
  rw [hy]
  dsimp only
  rw [h]

/-- A picture that the encoder codes now, as one of type `k`. -/
theorem exec_encode_codes {k : VKind} (h : encKind v y j s = k) (hh : k ≠ .hold) (hw : k ≠ .wait) :
    exec (.encode v key e hs) s = if encOk y j k e then .next (encCode v y j k e hs s) else .next s := by
  show execEncode v key e hs s = _
  unfold execEncode
  rw [hj]
  dsimp only
  rw [hy]
  dsimp only
  rw [h]
  cases k with
  | i => rfl
  | p => rfl
  | b => rfl
  | hold => exact absurd rfl hh
  | wait => exact absurd rfl hw
end

section
variable {v : Nat} {y : VSess} {j : VJob} {k : VKind} {e : VEnc} {hs : List (List (Option Nat))} {r : EncIn}
  (hr : encIn y j k (y.ctbCols * y.ctbRows - 1) hs s = r)
include hr

theorem encCode_unread (h : r.io.st ≠ 0) : encCode v y j k e hs s = vIoEnd v j r.io := by
  subst hr
  exact if_pos h

theorem encCode_written (h : r.io.st = 0) {o : VIo} {n : Nat} {full : Bool} (hw : encWrite y j k e r.bad r.io = (o, n, full)) (ho : o.st = 0) :
    encCode v y j k e hs s = encDone v y j k e n full (!r.bad.isEmpty) r.win o.s := by
  subst hr
  unfold encCode
  dsimp only
  rw [if_neg (not_not_intro h), hw]
  exact if_neg (not_not_intro ho)
end

/-! ### Slices, tensor rows and output -/

section
variable {v slice rows : Nat} {g : VSlice} {data : List Byte} {hs : List (List (Option Nat))} {j : VJob} {y : VSess}
  (hj : sliceRunning v s = some (j, y))
include hj

theorem exec_sliceNote_none (h : y.lmode < 2 ∨ sliceNext y j slice rows g.seg = false) :
    exec (.sliceNote v slice rows g data hs) s = .next s := by
  show execSliceNote v slice rows g data hs s = _
  unfold execSliceNote
  rw [hj]
  refine if_pos ?_
  rcases h with h | h <;> simp [h]

theorem exec_sliceNote_out (hl : 2 ≤ y.lmode) (hn : sliceNext y j slice rows g.seg = true) {o : VIo × Nat}
    (ho : sliceOut v y j g.seg g.heads data ⟨0, [], [], hs, s⟩ = o) (hst : o.1.st = 0) :
    exec (.sliceNote v slice rows g data hs) s = .next (sliceTold v slice rows y j o.2 (!o.1.bad.isEmpty) o.1.s) := by
  subst ho
  show execSliceNote v slice rows g data hs s = _
  unfold execSliceNote
  rw [hj]
  dsimp only
  rw [if_neg (by rw [hn]; simp; omega)]
  exact if_neg (not_not_intro hst)

/-- A slice segment of a decode is the stream's own, and nothing is written for it (R747). -/
theorem exec_sliceNote_decode (hl : 2 ≤ y.lmode) (ho : j.op = 3) :
    exec (.sliceNote v slice rows g data hs) s = .next (sliceTold v slice rows y j data.length false s) := by
  have hn : sliceNext y j slice rows g.seg = true := by
    unfold sliceNext
    rw [ho]
    rfl
  have hout : sliceOut v y j g.seg g.heads data ⟨0, [], [], hs, s⟩ = (⟨0, [], [], hs, s⟩, data.length) := if_neg (by omega)
  have h := exec_sliceNote_out hj hl hn hout rfl
  exact h
end

theorem exec_tensorizeRow {v key : Nat} {vals : List (BitVec 32)} {bad : List Nat} {hs : List (List (Option Nat))} {j : VJob} {y : VSess}
    {es : List (Nat × Nat × Nat × Bool)} {x : VIo}
    (hj : (vpOf v s).jobs.find? (fun j => j.key == key && j.op == 3 && j.phase == 2 && j.body 3 != 0) = some j)
    (hy : vMine v j.herd j.sess s = some y) (he : tnzElems y j vals bad = es)
    (hx : tnzRow y (j.body 3) j.trows es ⟨0, [], [], hs, s⟩ = x) :
    exec (.tensorizeRow v key vals bad hs) s = if j.trows ≥ y.outH then .next s
      else if x.st = 1 then .next s
      else if x.st ≠ 0 then .next (vEnd v x.st j x.s)
      else .next (tnzDone v y j es (es.any (fun e => e.2.2.2)) x.s) := by
  subst he hx
  show execTensorizeRow v key vals bad hs s = _
  unfold execTensorizeRow
  rw [hj]
  dsimp only
  rw [hy]

section
variable {v key : Nat} {hs : List (List (Option Nat))} {j : VJob} {y : VSess}

theorem exec_videoJobDone (hj : (vpOf v s).jobs.find? (fun j => j.key == key && j.phase == 2) = some j) (hy : vMine v j.herd j.sess s = some y) :
    exec (.videoJobDone v key hs) s =
      if jobReady j y && (j.op == 4 || outFirst v j s) then .next (jobOut v j y hs s).s else .next s := by
  show execVideoJobDone v key hs s = _
  unfold execVideoJobDone
  rw [hj]
  dsimp only
  rw [hy]

theorem jobOut_coded (h : j.op = 4) : (jobOut v j y hs s).s = vComplete v { j with index := j.poc } s := by
  unfold jobOut
  rw [if_pos h]

/-- The session after the output of a decoded picture (R740). -/
def pictureOut (y : VSess) (j : VJob) : VSess := { y with pics := y.pics + 1, last := j.pic, lastBad := j.bad }

theorem jobOut_shown (h : j.op = 3) (hb : j.body 2 = 0) :
    (jobOut v j y hs s).s = vComplete v { j with index := y.pics } (setVs v (pictureOut y j) s) := by
  unfold jobOut
  rw [if_neg (by omega), if_pos hb]
  dsimp only
  rw [if_neg (by decide)]
  dsimp only
  rw [if_pos rfl, pictureOut]

theorem jobOut_copied (h : j.op = 3) (hb : j.body 2 ≠ 0) {w : VIo} (hw : vaWrite y.herd (j.body 2) j.pic j.bad ⟨0, [], [], hs, s⟩ = w)
    (hst : w.st = 0) : (jobOut v j y hs s).s = vComplete v { j with index := y.pics } (setVs v (pictureOut y j) w.s) := by
  unfold jobOut
  rw [if_neg (by omega), if_neg hb, hw]
  dsimp only
  rw [if_neg (by omega), if_pos hst, pictureOut]
end

/-! ### The rows together -/

/-- What the blocks of an open session do once they are the first of it: OPEN, DECODE or ENCODE, END_OF_STREAM. -/
theorem videoBlocks_act {v n k : Nat} {hs : List (List (Option Nat))} {j : VJob} (hv : v < 4) (hj : vFront v n k s = some j) :
    (j.op = 1 → ((vsOf v k s).isSome = true → exec (.videoOpen v n k) s = .next (vEnd v 0xA j s))
      ∧ (vsOf v k s = none → openOk v j s = false → exec (.videoOpen v n k) s = .next (vEnd v 7 j s))
      ∧ (vsOf v k s = none → openOk v j s = true → exec (.videoOpen v n k) s = .next (vEnd v 0 j (setVp v { vpOf v s with
          sess := (vpOf v s).sess ++ [⟨k, n, j.words.tail, 0, false, [], [], [], none, 0, 0, (bitsOf (j.body 0) 47 32 + 63) / 64, none⟩] } s))))
    ∧ (∀ y, j.op = 3 ∨ j.op = 4 → vMine v n k s = some y →
      (jobOk j y = true → (y.group v).all (fun u => pipeLife u s == 2 || pipeLife u s == 3) = true →
        (y.group v).all (fun u => (vpRun u s).isNone) = true →
        (vYields n (y.group v) s = false → exec (.videoJobStart v n k) s = .next (setVj v { j with phase := 1 }
          ((y.group v).foldl (fun t u => setEng u ⟨[], []⟩ t) (waitTill (vRested (y.group v) s) s))))
        ∧ (vYields n (y.group v) s = true → exec (.videoJobStart v n k) s = .next s))
      ∧ (jobOk j y = false → exec (.videoJobStart v n k) s = .next (vEnd v 7 j s)))
    ∧ (j.op = 5 → ∀ y, vMine v n k s = some y →
      (j.len ≠ 8 → exec (.endOfStream v n k hs) s = .next (vEnd v 7 j s))
      ∧ (∀ l x, j.len = 8 → ((vpOf v s).jobs.takeWhile (fun z => z.key != j.key)).filter (fun z => z.herd == n && z.sess == k) = l →
        outAll v k n l.length ⟨0, [], [], hs, s⟩ = x →
        (l.all (fun z => jobReady z y) = true → x.st = 0 → exec (.endOfStream v n k hs) s = .next (vEnd v 0 j x.s))
        ∧ (l = [] → exec (.endOfStream v n k hs) s = .next (vEnd v 0 j s))
        ∧ (l.all (fun z => jobReady z y) = false → exec (.endOfStream v n k hs) s = .next s))) := by
  refine ⟨fun ho => ?_, fun y ho hy => ?_, fun ho y hy => ⟨fun hlen => ?_, ?_⟩⟩
  · rw [exec_videoOpen hv hj ho]
    refine ⟨fun h => if_pos h, fun hn hok => ?_, fun hn hok => ?_⟩
    · rw [hn, if_neg (by decide), if_pos (by rw [hok]; rfl)]
    · rw [hn, if_neg (by decide), if_neg (by rw [hok]; decide)]
  · rw [exec_videoJobStart hv hj ho hy]
    refine ⟨fun hok hl hf => ?_, fun hok => if_pos hok⟩
    rw [if_neg (by rw [hok]; decide), hl, hf]
    exact ⟨fun h => if_pos (by rw [h]; rfl), fun h => if_neg (by rw [h]; decide)⟩
  · rw [exec_endOfStream hv hj ho hy rfl, if_pos hlen]
  · rintro l x hlen hl rfl
    rw [exec_endOfStream hv hj ho hy hl, if_neg (not_not_intro hlen)]
    refine ⟨fun hall hst => by rw [if_pos hall, if_pos hst], ?_, fun hall => if_neg (by rw [hall]; decide)⟩
    rintro rfl
    rw [List.all_nil, if_pos rfl, List.length_nil, outAll, if_pos rfl]

/-- What DECODE does with what it has read of its access unit. -/
theorem decode_acts {v : Nat} {d : VDec} {hs : List (List (Option Nat))} {j : VJob} {y : VSess} {t : State} {r : VIo} {pois : List Nat}
    (hj : vRunning v 3 s = some (j, y)) (hr : vaRead y.herd (j.body 0) (j.body 1) hs s = r) (hp : decPois d r.bad = pois)
    (ht : decLost v y d j r.s = t) :
    (r.st ≠ 0 → exec (.decode v d hs) s = .next (vIoEnd v j r))
      ∧ (r.st = 0 → decUnsupported y d = true → exec (.decode v d hs) s = .next (vEnd v 2 j r.s))
      ∧ (r.st = 0 → decUnsupported y d = false →
        (d.nopic = true → exec (.decode v d hs) s = .next (vComplete v (decJob y d pois j) (decSess v y d (decShare v y d t))))
        ∧ (∀ w, d.nopic = false → decWrite y d (decGone d j) pois { r with s := t } = w → w.st = 0 → ∀ u, decSess v y d (decShare v y d w.s) = u →
          (decNopic y d = false → exec (.decode v d hs) s = .next (setVj v { decJob y d pois j with
            phase := 2, pic := conceal y d (decGone d j ++ pois), bad := slotBytesIn y d.ctb d.width d.height pois } (vpEnded v j u)))
          ∧ (decNopic y d = true → exec (.decode v d hs) s = .next (vComplete v (decJob y d pois j) u)))) := by
  subst hp ht
  refine ⟨exec_decode_unread hj hr, exec_decode_unsupported hj hr, fun h hd => ⟨exec_decode_nopic hj hr h hd, ?_⟩⟩
  rintro w hn hw hst u rfl
  rw [exec_decode_written hj hr h hd hn hw hst]
  exact ⟨fun h => congrArg Host.Outcome.next (if_neg (by rw [h]; decide)), fun h => congrArg Host.Outcome.next (if_pos h)⟩

/-- What ENCODE does with a job, by the kind of picture that it is to be. -/
theorem encode_acts {v key : Nat} {e : VEnc} {hs : List (List (Option Nat))} {j : VJob} {y : VSess}
    (hj : (vpOf v s).jobs.find? (fun j => j.key == key && j.op == 4 && (j.phase == 1 || j.phase == 3)) = some j)
    (hy : vMine v j.herd j.sess s = some y) :
    (∀ k r, encKind v y j s = k → k ≠ .hold → k ≠ .wait → encOk y j k e = true → encIn y j k (y.ctbCols * y.ctbRows - 1) hs s = r →
        (r.io.st ≠ 0 → exec (.encode v key e hs) s = .next (vIoEnd v j r.io))
        ∧ (∀ o n full, r.io.st = 0 → encWrite y j k e r.bad r.io = (o, n, full) → o.st = 0 →
          exec (.encode v key e hs) s = .next (encDone v y j k e n full (!r.bad.isEmpty) r.win o.s)))
      ∧ (∀ k, encKind v y j s = k → k ≠ .hold → k ≠ .wait → encOk y j k e = false → exec (.encode v key e hs) s = .next s) := by
  refine ⟨fun k r hk hh hw hok hr => ?_, fun k hk hh hw hok => ?_⟩
  · rw [exec_encode_codes hj hy hk hh hw, if_pos hok]
    exact ⟨fun h => congrArg Host.Outcome.next (encCode_unread hr h),
      fun o n full h hwr ho => congrArg Host.Outcome.next (encCode_written hr h hwr ho)⟩
  · rw [exec_encode_codes hj hy hk hh hw, if_neg (by rw [hok]; decide)]

/-- Settles O52: each row of a video pipe takes the branch that its block, its session and what its accesses have met give. -/
theorem videoRuns : Obligations.VideoRuns := by
  unfold Obligations.VideoRuns
  refine ⟨?_, ?_, ?_, fun v d hs j y s t r pois => decode_acts, ?_, ?_, ?_, ?_⟩
  · rintro n q k e s he hp v rfl
    rw [exec_entryVideo he hp]
    refine ⟨fun h => if_pos h, fun h hb => ?_, fun h hb hc => ?_, fun h hb hc => ?_⟩
    · rw [if_neg (not_not_intro h), if_pos (by simpa using hb)]
    · rw [if_neg (not_not_intro h), hb, if_neg (by decide), if_pos hc]
    · rw [if_neg (not_not_intro h), hb, if_neg (by decide), if_neg (Nat.not_le.mpr hc)]
  · intro v n k hs j s hv hj
    obtain ⟨hopen, hstart, hend⟩ := videoBlocks_act (hs := hs) hv hj
    exact ⟨hopen, hstart, exec_videoJobStart_closed hv hj, fun ho => ⟨exec_endOfStream_closed hv hj ho, hend ho⟩⟩
  · intro v n k j s hv hj ho
    rw [exec_videoClose hv hj ho]
    refine ⟨fun hy => if_pos (by rw [hy]; rfl), fun y hy => ?_⟩
    rw [if_neg (by rw [hy]; exact Bool.false_ne_true)]
    exact ⟨fun h => if_pos h, fun h => if_neg (not_not_intro h)⟩
  · intro v key e hs j y s hj hy
    exact ⟨exec_encode_hold hj hy, exec_encode_wait hj hy, encode_acts hj hy⟩
  · intro v slice rows g data hs j y s hj
    exact ⟨fun h => exec_sliceNote_none hj (.inl h), fun h => exec_sliceNote_none hj (.inr h), exec_sliceNote_decode hj,
      fun o hl hn ho hst => exec_sliceNote_out hj hl hn ho hst⟩
  · intro v key vals bad hs j y s x es hj hy
    refine ⟨fun ht he hx => ?_, fun ht => ?_⟩
    · rw [exec_tensorizeRow hj hy he hx, if_neg (Nat.not_le.mpr ht)]
      exact ⟨fun h => by rw [if_neg (by omega), if_neg (not_not_intro h)], fun h => if_pos h,
        fun h => by rw [if_neg (by omega), if_pos (by omega)]⟩
    · rw [exec_tensorizeRow hj hy rfl rfl, if_pos ht]
  · intro v key hs j y s hj hy
    rw [exec_videoJobDone hj hy]
    refine ⟨fun hready => ⟨fun ho => ?_, fun ho hfirst => ⟨fun hb => ?_, fun w hb hw hst => ?_⟩, fun ho hfirst => ?_⟩, fun hready => ?_⟩
    · rw [if_pos (by rw [hready, ho]; rfl), jobOut_coded ho]
    · rw [if_pos (by rw [hready, hfirst, Bool.or_true]; rfl), jobOut_shown ho hb, pictureOut]
    · rw [if_pos (by rw [hready, hfirst, Bool.or_true]; rfl), jobOut_copied ho hb hw hst, pictureOut]
    · rw [if_neg (by rw [hready, hfirst, ho]; decide)]
    · rw [if_neg (by rw [hready]; simp)]

end Sys2Proof.Machine
end

section
/-! PROOFS. The host interface (chapter 15): host command queues and the BAR2 window; configuration, links, power, translation and completions of
the PCIe functions. -/
-- One theorem after another: elaborated side by side, each holds its memory while it waits for those before it.
set_option Elab.async false

namespace Sys2Proof.Machine

variable {s : State}

/-! ### Doorbells -/

section
variable {fn q v : Nat}

/-- The offsets of a queue's doorbells lie beyond the MSI-X table and its pending bits (R775). -/
theorem bar4At_sqTail (hq : q < 8) : bar4At fn (0x10000 + 0x1000 * q) = .sqTail q := by
  have hm : msixSize fn ≤ 2048 := by unfold msixSize; split <;> omega
  unfold bar4At
  rw [if_neg (by omega), if_neg (by omega), if_pos (by omega)]
  dsimp only
  rw [if_pos (by omega), show (0x10000 + 0x1000 * q - 0x10000) / 0x1000 = q by omega]

theorem bar4At_cqHead (hq : q < 8) : bar4At fn (0x10000 + 0x1000 * q + 4) = .cqHead q := by
  have hm : msixSize fn ≤ 2048 := by unfold msixSize; split <;> omega
  unfold bar4At
  rw [if_neg (by omega), if_neg (by omega), if_pos (by omega)]
  dsimp only
  rw [if_neg (by omega), if_pos (by omega), show (0x10000 + 0x1000 * q + 4 - 0x10000) / 0x1000 = q by omega]

variable (hq : q < 8)
include hq

theorem exec_sqDoorbell : exec (.sqDoorbell fn (0x10000 + 0x1000 * q) v) s = .next (sqRing fn q v s) := by
  show execSqDoorbell fn (0x10000 + 0x1000 * q) v s = _
  unfold execSqDoorbell
  rw [bar4At_sqTail hq]

theorem exec_cqDoorbell : exec (.cqDoorbell fn (0x10000 + 0x1000 * q + 4) v) s = .next (cqRing fn q v s) := by
  show execCqDoorbell fn (0x10000 + 0x1000 * q + 4) v s = _
  unfold execCqDoorbell
  rw [bar4At_cqHead hq]

variable (hfn : fn < 128) (hd : (fnOf fn s).d3 = false)
include hfn hd

/-- A doorbell reaches its queue while that is READY (R798). -/
theorem doorbell_ignored {k : State → State} (hl : queueLife fn q s ≠ 2) : doorbell fn q k s = raise (hqP fn) 18 s := by
  unfold doorbell
  rw [if_neg (by rw [hd]; simp; omega), if_pos hl]

theorem doorbell_rings {k : State → State} (hl : queueLife fn q s = 2) : doorbell fn q k s = k s := by
  unfold doorbell
  rw [if_neg (by rw [hd]; simp; omega), if_neg (not_not_intro hl)]

/-- What a doorbell of a READY queue does (R775). -/
theorem sqRing_ready (hl : queueLife fn q s = 2) : sqRing fn q v s =
    if v ≥ sqSize fn q s ∨ (v + sqSize fn q s - sqHead fn q s) % sqSize fn q s < sqAnnounced fn q s then raise (hqP fn) 17 s
    else partialOn fn q ((v + sqSize fn q s - sqHead fn q s) % sqSize fn q s - sqAnnounced fn q s)
      (setF (hqP fn) (HQ_Q_DBV_SQ_TAIL q) v s) := doorbell_rings hq hfn hd hl

theorem cqRing_ready (hl : queueLife fn q s = 2) : cqRing fn q v s =
    if v ≥ cqSize fn q s ∨ (v + cqSize fn q s - getF (hqP fn) (HQ_Q_DBV_CQ_HEAD q) s) % cqSize fn q s > cqUsed fn q s then raise (hqP fn) 17 s
    else setF (hqP fn) (HQ_Q_DBV_CQ_HEAD q) v (setHq fn { hqOf fn s with used := alPut 0 (hqOf fn s).used q (cqUsed fn q s
      - (v + cqSize fn q s - getF (hqP fn) (HQ_Q_DBV_CQ_HEAD q) s) % cqSize fn q s) } s) := doorbell_rings hq hfn hd hl

/-- What doorbells do (R775, R798). -/
theorem doorbells_act :
    (queueLife fn q s ≠ 2 → exec (.sqDoorbell fn (0x10000 + 0x1000 * q) v) s = .next (raise (hqP fn) 18 s)
      ∧ exec (.cqDoorbell fn (0x10000 + 0x1000 * q + 4) v) s = .next (raise (hqP fn) 18 s))
    ∧ (queueLife fn q s = 2 →
      (∀ new, (v + sqSize fn q s - sqHead fn q s) % sqSize fn q s = new →
        (sqSize fn q s ≤ v ∨ new < sqAnnounced fn q s → exec (.sqDoorbell fn (0x10000 + 0x1000 * q) v) s = .next (raise (hqP fn) 17 s))
        ∧ (v < sqSize fn q s → sqAnnounced fn q s ≤ new → exec (.sqDoorbell fn (0x10000 + 0x1000 * q) v) s =
          .next (partialOn fn q (new - sqAnnounced fn q s) (setF (hqP fn) (HQ_Q_DBV_SQ_TAIL q) v s))))
      ∧ (∀ freed, (v + cqSize fn q s - getF (hqP fn) (HQ_Q_DBV_CQ_HEAD q) s) % cqSize fn q s = freed →
        (cqSize fn q s ≤ v ∨ cqUsed fn q s < freed → exec (.cqDoorbell fn (0x10000 + 0x1000 * q + 4) v) s = .next (raise (hqP fn) 17 s))
        ∧ (v < cqSize fn q s → freed ≤ cqUsed fn q s → exec (.cqDoorbell fn (0x10000 + 0x1000 * q + 4) v) s =
          .next (setF (hqP fn) (HQ_Q_DBV_CQ_HEAD q) v
            (setHq fn { hqOf fn s with used := alPut 0 (hqOf fn s).used q (cqUsed fn q s - freed) } s))))) := by
  rw [exec_sqDoorbell hq, exec_cqDoorbell hq]
  refine ⟨fun hl => ⟨?_, ?_⟩, fun hl => ⟨?_, ?_⟩⟩
  · exact congrArg Host.Outcome.next (doorbell_ignored hq hfn hd hl)
  · exact congrArg Host.Outcome.next (doorbell_ignored hq hfn hd hl)
  · rintro new rfl
    rw [sqRing_ready hq hfn hd hl]
    exact ⟨fun h => by rw [if_pos h], fun h1 h2 => by rw [if_neg (by omega)]⟩
  · rintro freed rfl
    rw [cqRing_ready hq hfn hd hl]
    exact ⟨fun h => by rw [if_pos h], fun h1 h2 => by rw [if_neg (by omega)]⟩
end

/-! ### Fetching -/

/-- A host read that is answered with UR or CA ends at once (R797). -/
theorem hostErr_refused (n at_ : Nat) (s : State) : hostErr n 1 at_ s = recordCE hifP 0x2804 0 0 s := by
  unfold hostErr
  exact if_neg (by decide)

theorem hostWaits_refused (n : Nat) (s : State) : ¬ hostWaits n 1 s = true := Bool.false_ne_true

section
variable {n q w0 sid err : Nat} {body : List Byte} {bad : List Nat} (hf : mayFetch n q s = true)
include hf

theorem exec_entryFetch (hw : hostWaits n err s = false) : exec (.entryFetch n q w0 sid body bad err) s =
    if err ≠ 0 then .next (ringFail n q (hostErr n err s.now (ringAsk n q 1 s)))
    else if !entryHeaderOk w0 || bad.any (fun o => decide (o < 48)) then .next (fetchBad n q w0 (poisonRx bad (ringAsk n q 1 s)))
    else if entrySlots (w0 % 65536) > sqAnnounced n q s then .next s
    else .next (fetchGood n q w0 sid body bad (poisonRx bad (ringAsk n q (entrySlots (w0 % 65536)) s))) := by
  show execEntryFetch n q w0 sid body bad err s = _
  unfold execEntryFetch
  exact if_neg (by rw [hf, hw]; decide)

/-- What the read of the ring's next entry brings: an error, a bad header, or an entry (R776-R778). -/
theorem entryFetch_acts :
    exec (.entryFetch n q w0 sid body bad 1) s = .next (ringFail n q (recordCE hifP 0x2804 0 0 (ringAsk n q 1 s)))
      ∧ ((fnOf n s).ctoDis = false → exec (.entryFetch n q w0 sid body bad 2) s =
        .next (ringFail n q (hostErr n 2 s.now (ringAsk n q 1 s))))
      ∧ ((fnOf n s).ctoDis = true → exec (.entryFetch n q w0 sid body bad 2) s = .next s)
      ∧ (entryHeaderOk w0 = false ∨ (∃ o ∈ bad, o < 48) →
        exec (.entryFetch n q w0 sid body bad 0) s = .next (fetchBad n q w0 (poisonRx bad (ringAsk n q 1 s))))
      ∧ (entryHeaderOk w0 = true → (∀ o ∈ bad, 48 ≤ o) →
        (entrySlots (w0 % 65536) ≤ sqAnnounced n q s →
          exec (.entryFetch n q w0 sid body bad 0) s =
            .next (fetchGood n q w0 sid body bad (poisonRx bad (ringAsk n q (entrySlots (w0 % 65536)) s))))
        ∧ (sqAnnounced n q s < entrySlots (w0 % 65536) → exec (.entryFetch n q w0 sid body bad 0) s = .next s)) := by
  refine ⟨?_, fun hc => ?_, fun hc => ?_, fun hb => ?_, fun hok hgood => ?_⟩
  · rw [exec_entryFetch hf rfl, if_pos (by decide), hostErr_refused]
  · rw [exec_entryFetch hf (by unfold hostWaits; rw [hc]; rfl), if_pos (by decide)]
  · show execEntryFetch n q w0 sid body bad 2 s = _
    unfold execEntryFetch hostWaits
    exact if_pos (by rw [hc]; simp)
  · rw [exec_entryFetch hf rfl, if_neg (by decide)]
    refine if_pos ?_
    rcases hb with hb | hb
    · rw [hb]; rfl
    · simp [hb]
  · have hany : bad.any (fun o => decide (o < 48)) = false := by simpa using hgood
    rw [exec_entryFetch hf rfl, if_neg (by decide), if_neg (by rw [hok, hany]; decide)]
    exact ⟨fun h => if_neg (Nat.not_lt.mpr h), fun h => if_pos h⟩
end

/-! ### The work of entries -/

section
variable {n q k : Nat} {e : HqEnt}

theorem exec_entryNop (he : entryAtWork n q k 0 s = some e) : exec (.entryNop n q k) s = .next (hqOver e.key 0 0 [] s) := by
  show execEntryNop n q k s = _
  unfold execEntryNop
  rw [he]

/-- The item that a DELIVER makes of its payload (R779). -/
def delivered (e : HqEnt) (rod ch : Nat) (s : State) : State :=
  startEnt e { s with
    hubItems := s.hubItems ++ [⟨s.hubNext, rod, ch, 2 ^ 31, e.body.drop 8,
      (e.bad.filter (fun o => decide (8 ≤ o))).map (fun o => o - 8), 0, 0, none, some e.key, s.now⟩]
    hubNext := s.hubNext + 1 }

theorem exec_deliver (he : entryAtWork n q k 1 s = some e) (hp : e.phase = 0) {rod ch : Nat}
    (hr : (if e.word 2 % 1024 == 0x3FF then getF (hqP n) (HQ_Q_DEST_ROD q) s else e.word 2 % 1024) = rod)
    (hc : (if e.word 2 % 1024 == 0x3FF then getF (hqP n) (HQ_Q_DEST_CHAN q) s else bitsOf (e.word 2) 20 16) = ch) :
    exec (.deliver n q k) s = if herdOfRod rod s ≠ some n then .next (hqOver e.key 8 0 [] s) else .next (delivered e rod ch s) := by
  subst hr hc
  show execDeliver n q k s = _
  unfold execDeliver
  rw [he]
  exact if_neg (by omega)

/-- A DELIVER to the rod that its entry or its queue names (R779). -/
theorem deliver_acts (he : entryAtWork n q k 1 s = some e) (hp : e.phase = 0) {rod ch : Nat}
    (h1 : e.word 2 % 1024 ≠ 0x3FF → rod = e.word 2 % 1024 ∧ ch = bitsOf (e.word 2) 20 16)
    (h2 : e.word 2 % 1024 = 0x3FF → rod = getF (hqP n) (HQ_Q_DEST_ROD q) s ∧ ch = getF (hqP n) (HQ_Q_DEST_CHAN q) s) :
    exec (.deliver n q k) s = if herdOfRod rod s ≠ some n then .next (hqOver e.key 8 0 [] s) else .next (delivered e rod ch s) := by
  by_cases hd : e.word 2 % 1024 = 0x3FF
  · obtain ⟨rfl, rfl⟩ := h2 hd
    have hb : (e.word 2 % 1024 == 0x3FF) = true := beq_iff_eq.mpr hd
    exact exec_deliver he hp (if_pos hb) (if_pos hb)
  · obtain ⟨rfl, rfl⟩ := h1 hd
    have hb : ¬ (e.word 2 % 1024 == 0x3FF) = true := fun h => hd (beq_iff_eq.mp h)
    exact exec_deliver he hp (if_neg hb) (if_neg hb)

theorem exec_entryKvm (he : entryAtWork n q k 4 s = some e) (hp : e.phase = 0) :
    exec (.entryKvm n q k) s = .next (kvSubmit
      ⟨setBits (e.word 2) 14 8 n, e.word 3, e.word 4, e.word 5, 0, some e.key, false⟩ (startEnt e s)) := by
  show execEntryKvm n q k s = _
  unfold execEntryKvm
  rw [he]
  exact if_neg (by omega)

/-- COPY and LOAD of a herd without weight wait for others that have one (R543). -/
theorem exec_copy_yields {data : List Byte} {bad : List Nat} {fail : Nat} {hs : List (Option Nat)} (h : hostYields n s = true) :
    exec (.copy n q k data bad fail hs) s = .next s := by
  show execCopy n q k data bad fail hs s = _
  unfold execCopy
  cases entryAtWork n q k 2 s with
  | none => rfl
  | some e => exact if_pos h

theorem exec_load_yields {data : List Byte} {bad : List Nat} {fail : Nat} (h : hostYields n s = true) :
    exec (.load n q k data bad fail) s = .next s := by
  show execLoad n q k data bad fail s = _
  unfold execLoad
  cases entryAtWork n q k 3 s with
  | none => rfl
  | some e => exact if_pos h
end

section
variable {n q k : Nat} {e : HqEnt} {data : List Byte} {bad : List Nat} {hs : List (Option Nat)} (he : entryAtWork n q k 2 s = some e)
  (hy : hostYields n s = false)
include he hy

theorem exec_copy_stopped {fail : Nat} (hm : mayIssue n s = false) :
    exec (.copy n q k data bad fail hs) s = .next (hqOver e.key 0x83 e.moved [] s) := by
  show execCopy n q k data bad fail hs s = _
  unfold execCopy
  rw [he]
  dsimp only
  rw [if_neg (by rw [hy]; decide), if_pos (by rw [hm]; rfl)]

variable (hm : mayIssue n s = true) {va len : Nat} {out : Bool} (hva : (e.word 3 + e.moved) % 2 ^ 48 = va)
  (hlen : pieceLen va (e.word 4 - e.moved) = len) (hout : bitOf (e.word 3) 63 = out)
include hm hva hlen hout

/-- A piece that lies in one page of the herd moves whole, unless that page is held (R780). -/
theorem exec_copy_piece {i a : Nat} {t : State} (hw : hubWalk n va (!out) hs s = (.ok (.bead i a), t)) (hfit : len ≤ 2048 - a % 2048) :
    exec (.copy n q k data bad 0 hs) s = .next (if homeHeld i a len (!out) t then startEnt e t
      else if out then copyOut n e i a len none len len t
      else copyIn e i a len none len data bad (pieceAsk n e len t)) := by
  subst hva hlen hout
  have hmin : min (pieceLen ((e.word 3 + e.moved) % 2 ^ 48) (e.word 4 - e.moved)) (2048 - a % 2048)
      = pieceLen ((e.word 3 + e.moved) % 2 ^ 48) (e.word 4 - e.moved) := Nat.min_eq_left hfit
  show execCopy n q k data bad 0 hs s = _
  unfold execCopy
  rw [he]
  dsimp only
  rw [if_neg (by rw [hy]; decide), if_neg (by rw [hm]; decide), if_neg (by simp), hw]
  dsimp only
  rw [hmin]
  simp only [Nat.lt_irrefl, decide_false, false_and, if_false, Bool.false_and, Bool.or_false]
  generalize (hubWalk n (((e.word 3 + e.moved) % 2 ^ 48 + pieceLen ((e.word 3 + e.moved) % 2 ^ 48) (e.word 4 - e.moved)) % 2 ^ 48)
    (!bitOf (e.word 3) 63) hs t).1 = z
  rcases z with (_ | _ | _) | _ | _ | _ <;> simp only [Bool.or_false]

theorem exec_copy_waits {w : TRes} {t : State} (h : w = .mig ∨ w = .held) (hw : hubWalk n va (!out) hs s = (w, t)) :
    exec (.copy n q k data bad 0 hs) s = .next (startEnt e t) := by
  subst hva hlen hout
  show execCopy n q k data bad 0 hs s = _
  unfold execCopy
  rw [he]
  dsimp only
  rw [if_neg (by rw [hy]; decide), if_neg (by rw [hm]; decide), if_neg (by simp), hw]
  rcases h with rfl | rfl <;> rfl

theorem exec_copy_error (ho : out = false) : exec (.copy n q k data bad 1 hs) s =
    .next (hqOver e.key 0x83 e.moved [] (recordCE hifP 0x2804 0 0 (pieceAsk n e len s))) := by
  subst hva hlen hout
  show execCopy n q k data bad 1 hs s = _
  unfold execCopy
  rw [he]
  dsimp only
  rw [if_neg (by rw [hy]; decide), if_neg (by rw [hm]; decide), if_pos (by rw [ho]; decide), if_neg (hostWaits_refused n s),
    hostErr_refused]
end

theorem exec_load {n q k fail : Nat} {e : HqEnt} {data : List Byte} {bad : List Nat} {i a len : Nat} (he : entryAtWork n q k 3 s = some e)
    (hi : e.word 3 % 1024 = i) (ha : bitsOf (e.word 3) 52 32 + e.moved = a) (hlen : pieceLen a (e.word 4 - e.moved) = len)
    (hr : herdOfRod i s = some n) (hl : rodRuns i s = true) (hy : hostYields n s = false) (hm : mayIssue n s = true) :
    exec (.load n q k data bad fail) s =
      if fail ≠ 0 then .next (if hostWaits n fail s then s else hqOver e.key 0x83 e.moved [] (hostErr n fail s.now (pieceAsk n e len s)))
      else .next (entryMoved e len (e.word 4) (!(bad.filter (fun o => decide (o < len))).isEmpty)
        (spadWrite i a ((data ++ List.replicate len 0).take len) (bad.filter (fun o => decide (o < len)))
          (poisonRx (bad.filter (fun o => decide (o < len))) (pieceAsk n e len s)))) := by
  subst hi ha hlen
  show execLoad n q k data bad fail s = _
  unfold execLoad
  rw [he]
  dsimp only
  rw [if_neg (by rw [hy]; decide), if_neg (not_not_intro hr), if_neg (by rw [hl]; decide), if_neg (by rw [hm]; decide)]

/-- What an entry does when it is at work: NOP, DELIVER, KVM, COPY and LOAD (R779-R782, R803). -/
theorem entries_act {n q k : Nat} {e : HqEnt} :
    (entryAtWork n q k 0 s = some e → exec (.entryNop n q k) s = .next (hqOver e.key 0 0 [] s))
      ∧ (entryAtWork n q k 1 s = some e → e.phase = 0 → ∀ rod ch,
        (e.word 2 % 1024 ≠ 0x3FF → rod = e.word 2 % 1024 ∧ ch = bitsOf (e.word 2) 20 16) →
        (e.word 2 % 1024 = 0x3FF → rod = getF (hqP n) (HQ_Q_DEST_ROD q) s ∧ ch = getF (hqP n) (HQ_Q_DEST_CHAN q) s) →
        (herdOfRod rod s ≠ some n → exec (.deliver n q k) s = .next (hqOver e.key 8 0 [] s))
        ∧ (herdOfRod rod s = some n → exec (.deliver n q k) s = .next (delivered e rod ch s)))
      ∧ (entryAtWork n q k 4 s = some e → e.phase = 0 → exec (.entryKvm n q k) s = .next (kvSubmit
        ⟨setBits (e.word 2) 14 8 n, e.word 3, e.word 4, e.word 5, 0, some e.key, false⟩ (startEnt e s)))
      ∧ (hostYields n s = true → ∀ data bad fail hs, exec (.copy n q k data bad fail hs) s = .next s ∧ exec (.load n q k data bad fail) s = .next s)
      ∧ (∀ data bad hs, entryAtWork n q k 2 s = some e → hostYields n s = false → mayIssue n s = true → ∀ va len out, (e.word 3 + e.moved) % 2 ^ 48 = va →
        pieceLen va (e.word 4 - e.moved) = len → bitOf (e.word 3) 63 = out →
        (∀ i a t, hubWalk n va (!out) hs s = (.ok (.bead i a), t) → len ≤ 2048 - a % 2048 →
          (homeHeld i a len (!out) t = true → exec (.copy n q k data bad 0 hs) s = .next (startEnt e t))
          ∧ (homeHeld i a len (!out) t = false →
            (out = true → exec (.copy n q k data bad 0 hs) s = .next (copyOut n e i a len none len len t))
            ∧ (out = false → exec (.copy n q k data bad 0 hs) s = .next (copyIn e i a len none len data bad (pieceAsk n e len t)))))
        ∧ (∀ w t, w = .mig ∨ w = .held → hubWalk n va (!out) hs s = (w, t) → exec (.copy n q k data bad 0 hs) s = .next (startEnt e t))
        ∧ (out = false → exec (.copy n q k data bad 1 hs) s = .next (hqOver e.key 0x83 e.moved [] (recordCE hifP 0x2804 0 0 (pieceAsk n e len s)))))
      ∧ (∀ data bad fail hs, entryAtWork n q k 2 s = some e → hostYields n s = false → mayIssue n s = false →
        exec (.copy n q k data bad fail hs) s = .next (hqOver e.key 0x83 e.moved [] s))
      ∧ (∀ data bad i a len, entryAtWork n q k 3 s = some e → e.word 3 % 1024 = i → bitsOf (e.word 3) 52 32 + e.moved = a →
        pieceLen a (e.word 4 - e.moved) = len → herdOfRod i s = some n → rodRuns i s = true → hostYields n s = false →
        mayIssue n s = true →
        exec (.load n q k data bad 0) s = .next (entryMoved e len (e.word 4) (!(bad.filter (fun o => decide (o < len))).isEmpty)
          (spadWrite i a ((data ++ List.replicate len 0).take len) (bad.filter (fun o => decide (o < len)))
            (poisonRx (bad.filter (fun o => decide (o < len))) (pieceAsk n e len s))))
        ∧ exec (.load n q k data bad 1) s = .next (hqOver e.key 0x83 e.moved [] (recordCE hifP 0x2804 0 0 (pieceAsk n e len s)))) := by
  refine ⟨exec_entryNop, fun he hp rod ch h1 h2 => ?_, exec_entryKvm, fun hy data bad fail hs => ⟨exec_copy_yields hy, exec_load_yields hy⟩,
    fun data bad hs he hy hm va len out hva hlen hout => ⟨fun i a t hw hfit => ?_,
      fun w t h hw => exec_copy_waits he hy hm hva hlen hout h hw, exec_copy_error he hy hm hva hlen hout⟩,
    fun data bad fail hs he hy => exec_copy_stopped he hy, fun data bad i a len he hi ha hlen hr hl hy hm => ⟨?_, ?_⟩⟩
  · rw [deliver_acts he hp h1 h2]
    exact ⟨fun h => if_pos h, fun h => if_neg (not_not_intro h)⟩
  · rw [exec_copy_piece he hy hm hva hlen hout hw hfit]
    refine ⟨fun hh => by rw [if_pos hh], fun hh => ?_⟩
    rw [if_neg (by rw [hh]; decide)]
    exact ⟨fun ho => by rw [if_pos ho], fun ho => by rw [if_neg (by rw [ho]; decide)]⟩
  · rw [exec_load he hi ha hlen hr hl hy hm, if_neg (by decide)]
  · rw [exec_load he hi ha hlen hr hl hy hm, if_pos (by decide), if_neg (hostWaits_refused n s), hostErr_refused]

/-! ### Completions, interrupts and the queue's registers -/

section
variable {n q : Nat} {c : HqCpl}

/-- The oldest completion of a queue goes to the slot at its tail, with the phase of the first pass (R783). -/
theorem exec_entryCompletion (hn : n < 128) (hq : q < 8) (hc : (hqOf n s).out.find? (fun c => c.q == q) = some c) (hm : mayIssue n s = true)
    (hl : queueLife n q s = 2 ∨ queueLife n q s = 3 ∨ queueLife n q s = 4) (hu : cqUsed n q s < cqSize n q s)
    (hp : (hqOf n s).phase0.contains q = false) {tail : Nat} (ht : getF (hqP n) (HQ_Q_IDX_CQ_TAIL q) s = tail) (hw : tail + 1 ≠ cqSize n q s) :
    exec (.entryCompletion n q false) s = .next (hqSignal n q (setF (hqP n) (HQ_Q_IDX_CQ_TAIL q) (tail + 1)
      (emit (.hostWrite n (getF (hqP n) (HQ_Q_CQB_LO_BASE q) s + getF (hqP n) (HQ_Q_CQB_HI_BASE q) s * 2 ^ 32 + 64 * tail) (c.bytes 1) [] .plain)
        (setHq n { hqOf n s with out := (hqOf n s).out.erase c, used := alSet (hqOf n s).used q (cqUsed n q s + 1) } s)))) := by
  subst ht
  have hgo : ¬ (n ≥ 128 ∨ q ≥ 8 ∨ ¬ mayIssue n s = true ∨ ¬ (queueLife n q s = 2 ∨ queueLife n q s = 3 ∨ queueLife n q s = 4)
      ∨ cqUsed n q s ≥ cqSize n q s) := by
    rintro (h | h | h | h | h)
    · omega
    · omega
    · exact h hm
    · exact h hl
    · omega
  show execEntryCompletion n q false s = _
  unfold execEntryCompletion
  dsimp only
  rw [hc]
  dsimp only
  rw [if_neg hgo, if_neg Bool.false_ne_true, decide_eq_false hw, hp, if_neg Bool.false_ne_true, if_neg Bool.false_ne_true,
    if_neg Bool.false_ne_true]

theorem exec_imodTimer (hn : n < 128) (hd : (hqOf n s).due.contains q = true) {t : State}
    (ht : waitTill (alGetD (hqOf n s).sentAt q 0 + getF (hqP n) (HQ_Q_IMOD_US q) s * 1000) s = t) :
    exec (.imodTimer n q) s = .next (sendMsix n (getF (hqP n) (HQ_Q_CFG_VEC q) t)
      (setHq n { hqOf n s with sentAt := alSet (hqOf n s).sentAt q t.now, due := nsErase (hqOf n s).due q } t)) := by
  subst ht
  exact if_pos ⟨hn, hd⟩

theorem exec_imodTimer_idle (hd : (hqOf n s).due.contains q = false) : exec (.imodTimer n q) s = .next s :=
  if_neg fun h => Bool.false_ne_true (hd.symm.trans h.2)
end

section
variable {fn n q v : Nat} (hq : q < 8)
include hq

theorem exec_hqFlush {hdrs : List (Nat × Nat)} {t : State} (hgo : reaches fn (hqP n + 0x12C + 0x40 * q) s) (hv : bitOf v 0 = true)
    (hl : queueLife n q s = 2 ∨ queueLife n q s = 3)
    (ht : flushAnnounced n q hdrs (((hqOf n s).ents.filter (fun e => keyQueue e.key == q && e.phase != 1)).foldl
      (fun t e => hqOver e.key 3 0 [] t) s) = t) :
    exec (.hqFlush fn n q v hdrs) s = .next (if sqAnnounced n q t = 0 then t else s) := by
  subst ht
  show execHqFlush fn n q v hdrs s = _
  unfold execHqFlush
  rw [if_neg (Nat.not_le.mpr hq), barWrite_goes hgo]
  refine congrArg Host.Outcome.next (if_neg ?_)
  rintro (h | h)
  · rw [hv] at h
    exact Bool.false_ne_true h
  · exact h hl

theorem exec_hqCfgWrite (hgo : reaches fn (hqP n + 0x118 + 0x40 * q) s) :
    exec (.hqCfgWrite fn n q v) s = .next (if bitsOf v 26 16 ≥ msixSize n then raise (hqP n) 2 s else writeReg (hqP n + 0x118 + 0x40 * q) v s) :=
  (if_neg (Nat.not_le.mpr hq)).trans (congrArg Host.Outcome.next (barWrite_goes hgo))

theorem exec_hqDestWrite (hgo : reaches fn (hqP n + 0x124 + 0x40 * q) s) :
    exec (.hqDestWrite fn n q v) s =
      .next (if herdOfRod (v % 1024) s ≠ some n then raise (hqP n) 2 s else writeReg (hqP n + 0x124 + 0x40 * q) v s) :=
  (if_neg (Nat.not_le.mpr hq)).trans (congrArg Host.Outcome.next (barWrite_goes hgo))
end

/-! ### The BAR2 window -/

/-- With no write waiting, every access of a function has its turn (R790). -/
theorem barTurn_free {fn : Nat} {w : Option BarWr} (h : alGet s.barHeld fn = none) : barTurn fn w s = true := by
  unfold barTurn
  rw [h]

theorem poisonRx_nil (s : State) : poisonRx [] s = s := if_pos rfl

section
variable {fn off : Nat} {hs : List (Option Nat)} (hfn : fn < 128) (hoff : off < 2 ^ (fnOf fn s).bar2) (hd : (fnOf fn s).d3 = false)
include hfn hoff hd

theorem exec_bar2Read_shut {len : Nat} (ht : barTurn fn none s = true) (hw : winOpen fn false s = false) :
    exec (.bar2Read fn off len hs) s = .next (winDead fn len ((winBase fn s + off) % 2 ^ 48) s) := by
  show execBar2Read fn off len hs s = _
  unfold execBar2Read
  rw [if_neg (by omega), if_neg (by rw [hd]; decide), if_neg (by rw [ht]; decide)]
  exact if_pos (by rw [hw]; rfl)

/-- A read whose pieces are all translated waits for a held page, or is served (R790). -/
theorem exec_bar2Read_mapped {len b : Nat} {l : List (Nat × Nat × Nat)} {d : Bool} {t : State} (ht : barTurn fn none s = true)
    (hw : winOpen fn false s = true)
    (hp : winPieces fn false hs (pagePieces (len / 2048 + 2) (winBase fn s + off) len) s = (some l, b, d, t)) :
    exec (.bar2Read fn off len hs) s = if winHeld l false t then .next t
      else if (winRead l t).1 ≠ 0 then .next (winDead fn len ((winBase fn s + off) % 2 ^ 48) (winRead l t).2.2.2)
      else .next (emit (.readData fn (winRead l t).2.1 (epBlocks off (winRead l t).2.2.1)) (winRead l t).2.2.2) := by
  show execBar2Read fn off len hs s = _
  unfold execBar2Read
  rw [if_neg (by omega), if_neg (by rw [hd]; decide), if_neg (by rw [ht]; decide)]
  dsimp only
  rw [if_neg (by rw [hw]; decide), hp]

theorem exec_bar2Read_behind {len : Nat} (ht : barTurn fn none s = false) : exec (.bar2Read fn off len hs) s = .next s := by
  show execBar2Read fn off len hs s = _
  unfold execBar2Read
  rw [if_neg (by omega), if_neg (by rw [hd]; decide)]
  exact if_pos (by rw [ht]; rfl)

theorem exec_bar2Write_behind {data : List Byte} {ep : Bool} (ht : barTurn fn (some ⟨off, data, ep⟩) s = false) :
    exec (.bar2Write fn off data ep hs) s = .next s := by
  show execBar2Write fn off data ep hs s = _
  unfold execBar2Write
  dsimp only
  rw [if_neg (by rw [hd]; simp; omega)]
  exact if_pos (by rw [ht]; rfl)

/-- No write of the function waits, so this one has its turn and leaves the state as it is: its TLP is not poisoned. -/
theorem exec_bar2Write_shut {data : List Byte} (hheld : alGet s.barHeld fn = none) (hw : winOpen fn true s = false) :
    exec (.bar2Write fn off data false hs) s = .next (winFault fn ((winBase fn s + off) % 2 ^ 48) s) := by
  show execBar2Write fn off data false hs s = _
  unfold execBar2Write
  dsimp only
  rw [if_neg (by rw [hd]; simp; omega), if_neg (by rw [barTurn_free hheld]; decide), hheld,
    if_neg (show ¬ (none : Option BarWr).isSome = true by decide), if_neg Bool.false_ne_true, poisonRx_nil]
  exact if_pos (by rw [hw]; rfl)

theorem exec_bar2Write_mapped {data : List Byte} {b : Nat} {l : List (Nat × Nat × Nat)} {d : Bool} {t : State}
    (hheld : alGet s.barHeld fn = none) (hw : winOpen fn true s = true)
    (hp : winPieces fn true hs (pagePieces (data.length / 2048 + 2) (winBase fn s + off) data.length) s = (some l, b, d, t)) :
    exec (.bar2Write fn off data false hs) s = .next (if winHeld l true t then barWait fn ⟨off, data, false⟩ t
      else if (winWrite l data false t).1 ≠ 0 then winFault fn ((winBase fn s + off) % 2 ^ 48) (winWrite l data false t).2.2
      else (winWrite l data false t).2.2) := by
  show execBar2Write fn off data false hs s = _
  unfold execBar2Write
  dsimp only
  rw [if_neg (by rw [hd]; simp; omega), if_neg (by rw [barTurn_free hheld]; decide), hheld,
    if_neg (show ¬ (none : Option BarWr).isSome = true by decide), if_neg Bool.false_ne_true, poisonRx_nil,
    if_neg (by rw [hw]; decide), hp]
end

/-- Settles O53: rings, entries, completions and the window each take the branch that the queue's registers and what was read give. -/
theorem hostQueuesRun : Obligations.HostQueuesRun := by
  unfold Obligations.HostQueuesRun
  refine ⟨?_, fun n q w0 sid body bad s => entryFetch_acts, fun n q k e s => entries_act, ?_, ?_, ?_, ?_⟩
  · rintro fn q v so co s hfn hq hd rfl rfl
    exact doorbells_act hq hfn hd
  · intro n q c s hn hq
    exact ⟨fun hc hm hl hu hp tail ht hw => exec_entryCompletion hn hq hc hm hl hu hp ht hw,
      fun t ht => ⟨fun hd => exec_imodTimer hn hd ht, exec_imodTimer_idle⟩⟩
  · intro fn n q v s hq
    refine ⟨fun hdrs t hgo hv hl ht => ?_, fun hgo => ?_, fun hgo => ?_⟩
    · rw [exec_hqFlush hq hgo hv hl ht]
      exact ⟨fun h => congrArg Host.Outcome.next (if_pos h), fun h => congrArg Host.Outcome.next (if_neg h)⟩
    · rw [exec_hqCfgWrite hq hgo]
      exact ⟨fun h => congrArg Host.Outcome.next (if_pos h), fun h => congrArg Host.Outcome.next (if_neg (Nat.not_le.mpr h))⟩
    · rw [exec_hqDestWrite hq hgo]
      exact ⟨fun h => congrArg Host.Outcome.next (if_pos h), fun h => congrArg Host.Outcome.next (if_neg (not_not_intro h))⟩
  · intro fn off hs s hfn hoff hd hheld
    refine ⟨fun len => exec_bar2Read_shut hfn hoff hd (barTurn_free hheld), fun len l b d t hw hp => ?_, fun data => exec_bar2Write_shut hfn hoff hd hheld,
      fun data l b d t hw hp => ?_⟩
    · rw [exec_bar2Read_mapped hfn hoff hd (barTurn_free hheld) hw hp]
      exact ⟨fun h => if_pos h, fun h hr => by rw [if_neg (by rw [h]; decide), if_neg (not_not_intro hr)]⟩
    · rw [exec_bar2Write_mapped hfn hoff hd hheld hw hp]
      exact ⟨fun h => by rw [if_pos h], fun h hr => by rw [if_neg (by rw [h]; decide), if_neg (not_not_intro hr)]⟩
  · intro fn off hs w s hfn hoff hd hheld
    refine ⟨fun len => exec_bar2Read_behind hfn hoff hd ?_, fun data hne => exec_bar2Write_behind hfn hoff hd ?_⟩
    · unfold barTurn
      rw [hheld]
      rfl
    · unfold barTurn
      rw [hheld]
      simpa using Ne.symm hne

/-! ### Interrupts and configuration -/

section
variable {fn vec addr data : Nat} {mask : Bool} (hfn : fn < 128) (hv : vec < msixSize fn) (hd : (fnOf fn s).d3 = false)
include hfn hv hd

theorem exec_msixVectorUnmask : exec (.msixVectorUnmask fn vec addr data mask) s =
    .next (if (msixOf fn vec s).pend && !mask then
      sendMsix fn vec (setMsix fn vec { msixOf fn vec s with addr := addr, data := data, masked := mask, pend := (msixOf fn vec s).pend && mask } s)
      else setMsix fn vec { msixOf fn vec s with addr := addr, data := data, masked := mask, pend := (msixOf fn vec s).pend && mask } s) := by
  show execMsixVectorUnmask fn vec addr data mask s = _
  unfold execMsixVectorUnmask
  exact if_neg (by rw [hd]; simp; omega)

/-- A vector that is unmasked with its bit pending sends its message (R785). -/
theorem exec_msixVectorUnmask_sends (hp : (msixOf fn vec s).pend = true) :
    exec (.msixVectorUnmask fn vec addr data false) s = .next (sendMsix fn vec
      (setMsix fn vec { msixOf fn vec s with addr := addr, data := data, masked := false, pend := false } s)) := by
  rw [exec_msixVectorUnmask hfn hv hd, hp, if_pos (by decide), Bool.and_false]

theorem exec_msixVectorUnmask_quiet (h : (msixOf fn vec s).pend = false ∨ mask = true) :
    exec (.msixVectorUnmask fn vec addr data mask) s = .next
      (setMsix fn vec { msixOf fn vec s with addr := addr, data := data, masked := mask } s) := by
  have hkeep : ((msixOf fn vec s).pend && mask) = (msixOf fn vec s).pend := by rcases h with h | h <;> simp [h]
  have hno : ¬ ((msixOf fn vec s).pend && !mask) = true := by rcases h with h | h <;> simp [h]
  rw [exec_msixVectorUnmask hfn hv hd, if_neg hno, hkeep]
end

section
variable {fn reg : Nat} {w : Option Nat} (hl : getF hifP HIF_LINK_RATE s ≠ 0)
include hl

/-- A configuration request is answered with RRS, as unsupported, or normally (R807, R933). -/
theorem exec_configRequest_rrs (hr : configRrs s = true) :
    exec (.configRequest fn ⟨reg, w⟩) s = .next { s with out := s.out ++ [.config fn 1 0] } := by
  show execConfigRequest fn ⟨reg, w⟩ s = _
  unfold execConfigRequest
  rw [if_neg hl, if_pos hr]
  rfl

theorem exec_configRequest_absent (hr : configRrs s = false) (h0 : fn ≠ 0) (hv : numVfs s < fn) :
    exec (.configRequest fn ⟨reg, w⟩) s = .next { s with out := s.out ++ [.config fn 2 0] } := by
  show execConfigRequest fn ⟨reg, w⟩ s = _
  unfold execConfigRequest
  rw [if_neg hl, if_neg (by rw [hr]; decide), if_pos (.inr ⟨h0, hv⟩)]
  rfl

theorem exec_configRequest_answered (hr : configRrs s = false) (hfn : fn < 128) (hv : fn = 0 ∨ fn ≤ numVfs s) :
    (w = none → exec (.configRequest fn ⟨reg, w⟩) s = .next { s with out := s.out ++ [.config fn 0 (configRead fn reg s)] })
      ∧ (∀ x, w = some x → exec (.configRequest fn ⟨reg, w⟩) s = .next (emit (.config fn 0 0) (configWrite fn reg x s))) := by
  show (w = none → execConfigRequest fn ⟨reg, w⟩ s = _) ∧ (∀ x, w = some x → execConfigRequest fn ⟨reg, w⟩ s = _)
  unfold execConfigRequest
  rw [if_neg hl, if_neg (by rw [hr]; decide), if_neg (by omega)]
  exact ⟨fun h => by rw [h]; rfl, fun x h => by rw [h]⟩
end

/-! ### Link, power and BAR events -/

theorem exec_rrsDeadline (hc : s.boot.cold = false) (hp : s.boot.perst = false) :
    exec .rrsDeadline s = .next { s with rrsDone := true, now := max s.now (s.boot.perstAt + 900000000) } := by
  show execRrsDeadline s = _
  unfold execRrsDeadline
  exact if_neg (by rw [hc, hp]; decide)

theorem exec_linkUp {rate width : Nat} {flit : Bool} (hc : s.boot.cold = false) (hp : s.boot.perst = false) :
    exec (.linkUp rate width flit) s = .next (showLink rate width flit false s) := by
  show execLinkUp rate width flit s = _
  unfold execLinkUp
  exact if_neg (by rw [hc, hp]; decide)

theorem exec_pcieLinkChange {rate width : Nat} {flit l1 : Bool} (h : getF hifP HIF_LINK_RATE s ≠ 0) :
    exec (.pcieLinkChange rate width flit l1) s = .next (showLink rate width flit l1 s) := if_neg h

theorem configRead_values (s : State) :
    configRead 0 6 s = 127 + 2 ^ 16 + 2 ^ 32 ∧ configRead 0 15 s = 2048 ∧ configRead 1 15 s = 16 ∧ configRead 0 10 s = 2 ^ 37 - 2 ^ 30 :=
  by simp [configRead, msixSize, b2n]

theorem exec_resizableBarWrite {size : Nat} (h1 : 30 ≤ size) (h2 : size ≤ 36) :
    exec (.resizableBarWrite size) s =
      .next (setFn 0 { fnOf 0 s with bar2Stored := size, bar2 := if (fnOf 0 s).mse then (fnOf 0 s).bar2 else size } s) := if_neg (by omega)

/-- Power state, bus mastering and memory space of a function that exists (R801, R811, R1021). -/
theorem functionEvents_act {fn : Nat} {b : Bool} (hfn : fn < 128) :
    exec (.powerStateChange fn b) s = .next (sendPending fn (setFn fn { fnOf fn s with d3 := b } s))
      ∧ exec (.busMasterChange fn b) s = .next (sendPending fn (setFn fn { fnOf fn s with bme := b } s))
      ∧ exec (.memorySpaceDisable fn) s = .next (setFn fn { fnOf fn s with mse := false, bar2 := (fnOf fn s).bar2Stored } s) :=
  ⟨if_neg (Nat.not_le.mpr hfn), if_neg (Nat.not_le.mpr hfn), if_neg (Nat.not_le.mpr hfn)⟩

/-! ### ATS and PRI -/

theorem outRegsOnly_trans {s t u : State} (h : t = { s with out := t.out, regs := t.regs }) (h' : u = { t with out := u.out, regs := u.regs }) :
    u = { s with out := u.out, regs := u.regs } := by rw [h', h]

/-- An invalidation is answered. -/
def atsAnswered (t : State) (v : AtsInv) : State := bump hifP HIF_ATS_INVAL 1 (emit (.ats v.fn 2 (v.page * 4096)) t)

theorem foldl_atsAnswered (l : List AtsInv) (t : State) :
    l.foldl atsAnswered t = { t with out := (l.foldl atsAnswered t).out, regs := (l.foldl atsAnswered t).regs } := by
  induction l generalizing t with
  | nil => rfl
  | cons v l ih => exact outRegsOnly_trans (t := atsAnswered t v) rfl (ih _)

/-- The invalidations, with the requests that they still wait for (R795). -/
def atsLive (s : State) : List AtsInv :=
  s.atsInv.map (fun v => { v with reqs := v.reqs.filter (fun i => s.reqs.any (fun r => r.id == i && r.phase == 1)) })

theorem atsInvDone_eq (t : State) : atsInvDone t = ((atsLive t).filter (fun v => v.reqs.isEmpty)).foldl atsAnswered
    { t with atsInv := (atsLive t).filter (fun v => !v.reqs.isEmpty) } := rfl

theorem atsInvDone_only (t : State) :
    atsInvDone t = { t with atsInv := (atsInvDone t).atsInv, out := (atsInvDone t).out, regs := (atsInvDone t).regs } := by
  rw [atsInvDone_eq, foldl_atsAnswered]

theorem atsInvDone_atc (t : State) : (atsInvDone t).atc = t.atc := by rw [atsInvDone_only]

theorem atsInvDone_within (a : List AtcE) (v : List AtsInv) {t : State} (ht : atsInvDone { s with atc := a, atsInv := v } = t) :
    t = { s with atc := t.atc, atsInv := t.atsInv, out := t.out, regs := t.regs } := by
  subst ht
  rw [atsInvDone_atc]
  exact atsInvDone_only _

/-- The entries that an invalidation names go, and with them nothing else changes but what answers it (R795). -/
theorem exec_atsInvalidate (fn pasid page count : Nat) (s : State) : ∃ t, exec (.atsInvalidate fn pasid page count) s = .next t
    ∧ (∀ e, e ∈ t.atc ↔ e ∈ s.atc ∧ ¬ (e.fn = fn ∧ (pasid = 2 ^ 20 ∨ e.pasid = pasid) ∧ page ≤ e.page ∧ e.page < page + count))
    ∧ t = { s with atc := t.atc, atsInv := t.atsInv, out := t.out, regs := t.regs } := by
  refine ⟨_, rfl, fun e => ?_, atsInvDone_within _ _ rfl⟩
  rw [atsInvDone_atc]
  simp only [List.mem_filter, Bool.not_eq_true', ← Bool.not_eq_true, Bool.and_eq_true, Bool.or_eq_true, beq_iff_eq, decide_eq_true_eq,
    and_assoc]

section
variable {fn pasid page frame : Nat}

theorem exec_translationCompletion_none {rd wr : Bool} (h : atsWaiting fn pasid page s = []) :
    exec (.translationCompletion fn pasid page rd wr frame) s = .next s := by
  show execTranslationCompletion fn pasid page rd wr frame s = _
  unfold execTranslationCompletion
  exact if_pos (by rw [h]; rfl)

/-- A translation without any permission is kept nowhere, and the request that waited for it is denied (R796). -/
theorem exec_translationCompletion_denied {r : PReq} {l : List AtcE} (h : atsWaiting fn pasid page s = [r])
    (hl : s.atc.filter (fun e => !(e.fn == fn && e.pasid == pasid && e.page == page)) = l) (hlen : l.length ≤ 8192) :
    exec (.translationCompletion fn pasid page false false frame) s = .next (atsDenied fn pasid page r { s with atc := l }) := by
  show execTranslationCompletion fn pasid page false false frame s = _
  unfold execTranslationCompletion
  dsimp only
  rw [h, if_neg (show ¬ [r].isEmpty = true from Bool.false_ne_true), hl, Bool.or_false, if_neg Bool.false_ne_true, Nat.sub_eq_zero_of_le hlen, List.drop_zero, List.foldl_cons,
    List.foldl_nil, ite_self, if_neg Bool.false_ne_true]

theorem exec_translationCompletion_goes {a : Nat} {b c : Bool} {r : PReq} (h : atsWaiting fn pasid page s = [r])
    (ht : r.target = some (.host a b c)) (hatc : s.atc = []) :
    exec (.translationCompletion fn pasid page true true frame) s = .next (hostGo r fn (frame * 4096 + a % 4096)
      (updReq r.id (fun x => { x with phase := 1 }) { s with atc := [⟨fn, pasid, page, frame, true⟩] })) := by
  show execTranslationCompletion fn pasid page true true frame s = _
  unfold execTranslationCompletion
  dsimp only
  rw [h, if_neg (show ¬ [r].isEmpty = true from Bool.false_ne_true), hatc, List.filter_nil, List.nil_append, if_pos (by decide), List.length_singleton,
    Nat.sub_eq_zero_of_le (by decide : 1 ≤ 8192), List.drop_zero, List.foldl_cons, List.foldl_nil, ite_self, if_pos rfl, ht]

/-- The answer to the one page request that waits ends it: its streams walk again, or fail (R796). -/
theorem exec_prgResponse {code : Nat} {e : PriReq} (h : s.pris = [e]) (hf : e.fn = fn) (hp : e.pasid = pasid) (hg : e.page = page)
    (hc : code = 0 ∨ code = 1) : exec (.prgResponse fn pasid page code) s = .next (slots.foldl (fun u k =>
      if code = 0 then resumeStream e.rod k e.vpage u else failStream e.rod k e.vpage u) { s with pris := [] }) := by
  subst hf hp hg
  have hin : [e].filter (fun x => x.fn == e.fn && x.pasid == e.pasid && x.page == e.page) = [e] :=
    List.filter_eq_self.mpr fun x hx => by rw [List.mem_singleton.mp hx]; simp
  have hout : [e].filter (fun x => !(x.fn == e.fn && x.pasid == e.pasid && x.page == e.page)) = [] :=
    List.filter_eq_nil_iff.mpr fun x hx => by rw [List.mem_singleton.mp hx]; simp
  show execPrgResponse e.fn e.pasid e.page code s = _
  unfold execPrgResponse
  dsimp only
  rw [h, hin, hout, if_neg (show ¬ [e].isEmpty = true from Bool.false_ne_true), List.foldl_cons, List.foldl_nil]
  exact congrArg Host.Outcome.next (if_neg (by omega))
end

/-! ### Completions of host reads -/

section
variable {id : Nat} {r : PReq} (h : hostReadOf id s = some r)
include h

theorem exec_hostCompletion_refused {data : List Byte} {ep : Bool} : exec (.hostCompletion id data ep true) s =
    .next (atsInvDone (showNpr (updReq id (fun x => { x with phase := 3, status := 0x81 }) (recordCE hifP 0x2804 0 0 s)))) := by
  show execHostCompletion id data ep true s = _
  unfold execHostCompletion
  rw [h]
  dsimp only
  rw [if_pos rfl, hostErr_refused]

/-- The data of a read, which the completion brings whole; `bad` are the offsets that it poisons (R797, R905). -/
theorem exec_hostCompletion_data {data : List Byte} {ep : Bool} {bad : List Nat} (hb : (if ep then List.range r.len else []) = bad)
    (hl : r.len ≤ data.length) : exec (.hostCompletion id data ep false) s =
      .next (atsInvDone (showNpr (updReq id (fun x => { x with phase := 3, data := data.take r.len, bad := bad }) (poisonRx bad s)))) := by
  subst hb
  show execHostCompletion id data ep false s = _
  unfold execHostCompletion
  rw [h]
  dsimp only
  rw [if_neg Bool.false_ne_true, List.take_append_of_le_length hl]

theorem exec_completionTimeout {fn : Nat} (hr : herdOfRod r.rod s = some fn) : exec (.completionTimeout id) s =
    if hostWaits fn 2 s then .next s
    else .next (atsInvDone (showNpr (updReq id (fun x => { x with phase := 3, status := 0x81 }) (hostErr fn 2 r.sent s)))) := by
  show execCompletionTimeout id s = _
  unfold execCompletionTimeout
  rw [h]
  dsimp only
  rw [hr, Option.getD_some]
end

theorem poisonRx_range {n : Nat} (h : 0 < n) :
    poisonRx (List.range n) s = recordErr hifP 0x2802 1 0 0 true (raise hifP 17 (emit (.aer 0 2) s)) :=
  if_neg (by simp; omega)

theorem hostErr_late (fn at_ : Nat) (s : State) :
    hostErr fn 2 at_ s = recordCE hifP 0x2803 0 0 (raise hifP 18 (emit (.aer fn 3) (waitTill (at_ + ctoNs fn s) s))) := if_pos rfl

theorem hostWaits_late (fn : Nat) (s : State) : hostWaits fn 2 s = (fnOf fn s).ctoDis := rfl

/-- Settles O54: each event of a function acts as its registers allow, and the translation cache keeps exactly what it names. -/
theorem functionsOfThePcieLinkAct : Obligations.FunctionsOfThePcieLinkAct := by
  unfold Obligations.FunctionsOfThePcieLinkAct
  refine ⟨?_, fun fn reg w s hl => ⟨exec_configRequest_rrs hl, exec_configRequest_absent hl, exec_configRequest_answered hl⟩,
    configRead_values, fun s hc hp => ⟨exec_rrsDeadline hc hp, fun rate width flit => (exec_linkUp hc hp).trans (by rw [showLink]; rfl)⟩,
    fun rate width flit l1 s => ⟨exec_pcieLinkChange, fun h => if_pos h⟩,
    fun fn b s hfn => functionEvents_act hfn,
    fun size s h1 h2 => ⟨fun h => ?_, fun h => ?_⟩, exec_atsInvalidate, fun fn pasid page frame rd wr s => exec_translationCompletion_none,
    fun fn pasid page frame r s l => exec_translationCompletion_denied, fun fn pasid page frame a b c r s => exec_translationCompletion_goes,
    fun fn pasid page code e s => exec_prgResponse, fun id r s h => ⟨fun data hl => ?_, fun data hpos hl => ?_,
      fun data ep => exec_hostCompletion_refused h, fun fn hr => ⟨fun hc => ?_, fun hc => ?_⟩⟩⟩
  · rintro fn vec addr data mask s hfn hv hd m rfl
    refine ⟨?_, exec_msixVectorUnmask_quiet hfn hv hd⟩
    rintro hp rfl
    exact exec_msixVectorUnmask_sends hfn hv hd hp
  · rw [exec_resizableBarWrite h1 h2, if_pos h]
  · rw [exec_resizableBarWrite h1 h2, if_neg (by rw [h]; decide)]
  · rw [exec_hostCompletion_data h (if_neg Bool.false_ne_true) hl, poisonRx_nil]
  · rw [exec_hostCompletion_data h (if_pos rfl) hl, poisonRx_range hpos]
  · rw [exec_completionTimeout h hr, hostWaits_late, if_neg (by rw [hc]; decide), hostErr_late]
  · rw [exec_completionTimeout h hr, hostWaits_late, if_pos hc]

end Sys2Proof.Machine
end

section
/-! PROOFS. The management subsystem (chapter 16): MCTP, PLDM and SPDM messages, and the mailbox. -/
-- One theorem after another: elaborated side by side, each holds its memory while it waits for those before it.
set_option Elab.async false

namespace Sys2Proof.Machine

variable {s : State}

/-! ### MCTP, PLDM and SPDM -/

section
variable {port : Nat}

/-! #### The session that an ended transfer leaves replaces the one before it -/

theorem setSession_setSlot (k : Nat) (w : Slot) (u v : Option Session) :
    setMgs { (setSlot k w (setMgs { s.mgs with session := u } s)).mgs with session := v } (setSlot k w (setMgs { s.mgs with session := u } s))
      = setMgs { (setSlot k w s).mgs with session := v } (setSlot k w s) := by
  unfold setSlot
  split
  · rfl
  · rfl

theorem fwVerified_setSession (y : Session) (u : Option Session) (l : List (Nat × Nat)) :
    fwVerified y (mctpAnswer port l (setMgs { s.mgs with session := u } s)) = fwVerified y (mctpAnswer port l s) :=
  congrArg fwEvent (setSession_setSlot (s := mctpAnswer port l s) y.slot _ u _)

theorem imageEnd_setSession (y : Session) (size : Nat) (sig : Bool) (u : Option Session) :
    imageEnd port y size sig (setMgs { s.mgs with session := u } s) = imageEnd port y size sig s := by
  unfold imageEnd
  dsimp only
  rw [fwVerified_setSession]
  by_cases hg : imageGood y size sig s = true
  · rw [if_pos hg]
    exact if_pos hg
  · rw [if_neg hg]
    exact if_neg hg

end

section
variable {port : Nat} {k : State → State} (h : answers port s)
include h

theorem port_isMctp : (port == 1 || port == 2) = true := by
  rcases h.2 with rfl | rfl <;> rfl

/-- Responders answer while MGS firmware runs; those of PLDM Type 5 in recovery too (R840). -/
theorem inRun_runs : inRun port k s = .next (k s) := by
  have hm : (mstate s == 1) = true := beq_iff_eq.mpr h.1
  exact congrArg Host.Outcome.next (if_pos (by rw [hm, port_isMctp h]; rfl))

theorem inRunOrRecovery_runs : inRunOrRecovery port k s = .next (k s) := by
  have hm : mgsServes s = true := by
    unfold mgsServes
    rw [h.1]
    rfl
  exact congrArg Host.Outcome.next (if_pos (by rw [hm, port_isMctp h]; rfl))

/-- No sensor has identity 34 or above (R817). -/
theorem getsensorreading_beyond : exec (.getsensorreading port 34) s = .next (mctpAnswer port [(1, 1)] s) := by
  show execGetsensorreading port 34 s = _
  unfold execGetsensorreading
  refine (inRun_runs h).trans (congrArg Host.Outcome.next ?_)
  exact if_pos (Nat.le_refl 34)

theorem getsensorreading_frameLogic {id : Nat} {x : Int} (hid : id < 4) (hx : highest (frameLogic id) s = some x) :
    exec (.getsensorreading port id) s = .next (mctpAnswer port [(1, 0), (1, 1), (4, unsigned 32 x)] s) := by
  show execGetsensorreading port id s = _
  unfold execGetsensorreading
  refine (inRun_runs h).trans (congrArg Host.Outcome.next ?_)
  dsimp only
  rw [if_neg (show ¬ id ≥ 34 by omega), if_pos hid, hx]

/-- The messages whose answers are numbers that MGS holds or that are fixed (R814-R818). -/
theorem mctpMessages_answer : ∀ c l, (c, l) ∈ ([(.getEndpointId port, [(1, 0), (1, alGetD s.mgs.eid port 0)]),
    (.getMctpVersionSupport port, [(1, 0), (1, 1), (1, 3)]),
    (.getMessageTypeSupport port, [(1, 0), (1, 4), (1, 0), (1, 1), (1, 5), (1, 0x7E)]), (.gettid port, [(1, 0), (1, s.mgs.tid)]),
    (.getpldmtypes port, [(1, 0), (1, 0), (1, 2), (1, 5)]), (.getpldmcommands port 0, [(1, 0), (1, 2), (1, 3), (1, 4), (1, 5)]),
    (.getpdrrepositoryinfo port, [(1, 0), (4, pdrCount)]), (.getpdr port 34, [(1, 0), (4, 34), (1, 1)]), (.getpdr port 38, [(1, 1)]),
    (.getsensorreading port 34, [(1, 1)]),
    (.getstatesensorreadings port 34, [(1, 0), (1, tier s)]), (.getstatesensorreadings port 35, [(1, 0), (1, getF (mgsP 0) MB_LOGSTAT_LOST s)]),
    (.getstatesensorreadings port 36, [(1, 0), (1, outcome s)]),
    (.getnumericeffectervalue port 37, [(1, 0), (2, getF (thmP 1) THM_CAP_WATTS s)]),
    (.querydeviceidentifiers port, [(1, 0), (2, Config.vendorId.toNat)]), (.getstatus port, [(1, 0), (1, s.mgs.updState)]),
    (.getfirmwareparameters port, [(1, 0), (2, 1), (4, slotVersion s.mgs.active s),
      (4, match s.mgs.trial with | some k => slotVersion k s | none => 0)])] : List (Instr × List (Nat × Nat))) →
    exec c s = .next (mctpAnswer port l s) := by
  intro c l hc
  simp only [List.mem_cons, Prod.mk.injEq, List.not_mem_nil, or_false] at hc
  rcases hc with ⟨rfl, rfl⟩ | ⟨rfl, rfl⟩ | ⟨rfl, rfl⟩ | ⟨rfl, rfl⟩ | ⟨rfl, rfl⟩ | ⟨rfl, rfl⟩ | ⟨rfl, rfl⟩ | ⟨rfl, rfl⟩ | ⟨rfl, rfl⟩
    | ⟨rfl, rfl⟩ | ⟨rfl, rfl⟩ | ⟨rfl, rfl⟩ | ⟨rfl, rfl⟩ | ⟨rfl, rfl⟩ | ⟨rfl, rfl⟩ | ⟨rfl, rfl⟩ | ⟨rfl, rfl⟩
  · exact inRun_runs h
  · exact inRun_runs h
  · exact inRun_runs h
  · exact inRun_runs h
  · exact inRun_runs h
  · exact inRun_runs h
  · exact inRun_runs h
  · exact inRun_runs h
  · exact inRun_runs h
  · exact getsensorreading_beyond h
  · exact inRun_runs h
  · exact inRun_runs h
  · exact inRun_runs h
  · exact inRun_runs h
  · exact inRunOrRecovery_runs h
  · exact inRunOrRecovery_runs h
  · exact inRunOrRecovery_runs h

theorem setEndpointId_answers (eid : Nat) : exec (.setEndpointId port eid) s =
    .next (mctpAnswer port [(1, 0), (1, eid % 256)] (setMgs { s.mgs with eid := alSet s.mgs.eid port (eid % 256) } s)) := by
  show execSetEndpointId port eid s = _
  exact inRun_runs (k := fun s => mctpAnswer port [(1, 0), (1, eid % 256)] (setMgs { s.mgs with eid := alSet s.mgs.eid port (eid % 256) } s)) h

theorem seteventreceiver_answers (eid : Nat) : exec (.seteventreceiver port eid) s =
    .next (mctpAnswer port [(1, 0)] (setMgs { s.mgs with evtRecv := some (eid % 256) } s)) := by
  show execSeteventreceiver port eid s = _
  exact inRun_runs (k := fun s => mctpAnswer port [(1, 0)] (setMgs { s.mgs with evtRecv := some (eid % 256) } s)) h

theorem getpldmversion_answers {type : Nat} (ht : type = 0 ∨ type = 2 ∨ type = 5) :
    exec (.getpldmversion port type) s = .next (mctpAnswer port [(1, 0), (4, (takeFree s).1)] (takeFree s).2) := by
  show execGetpldmversion port type s = _
  unfold execGetpldmversion
  refine (inRun_runs h).trans (congrArg Host.Outcome.next ?_)
  exact if_pos ht

theorem setnumericeffectervalue_writes (watts : Nat) :
    exec (.setnumericeffectervalue port 37 watts) s = .next (mctpAnswer port [(1, 0)] (capWrite watts s)) := by
  show execSetnumericeffectervalue port 37 watts s = _
  unfold execSetnumericeffectervalue
  refine (inRun_runs h).trans (congrArg Host.Outcome.next ?_)
  exact if_pos rfl

/-! #### Waiting events (R970) -/

theorem poll_empty (he : s.mgs.events = []) :
    exec (.pollforplatformeventmessage port) s = .next (mctpAnswer port [(1, 0), (1, 0)] s) := by
  show execPollforplatformeventmessage port s = _
  unfold execPollforplatformeventmessage
  refine (inRun_runs h).trans (congrArg Host.Outcome.next ?_)
  dsimp only
  rw [he]

theorem poll_oldest {e : Nat × Nat} {r : List (Nat × Nat)} (he : s.mgs.events = e :: r) :
    exec (.pollforplatformeventmessage port) s =
      .next (mctpAnswer port [(1, 0), (1, e.1), (4, e.2)] (setMgs { s.mgs with events := r } s)) := by
  show execPollforplatformeventmessage port s = _
  unfold execPollforplatformeventmessage
  refine (inRun_runs h).trans (congrArg Host.Outcome.next ?_)
  dsimp only
  rw [he]

/-! #### The PLDM update (R818, R836) -/

theorem requestupdate_opens (hs : s.mgs.session = none) (hf : flashWrites true s = true) :
    exec (.requestupdate port true) s = .next (mctpAnswer port [(1, 0)] (fwOpen (127 + port) [] true s).2) := by
  show execRequestupdate port true s = _
  unfold execRequestupdate
  refine (inRunOrRecovery_runs h).trans (congrArg Host.Outcome.next ?_)
  rw [if_neg (by simp [hs]), if_neg (by simp [hf])]

theorem requestupdate_busy (hs : s.mgs.session.isSome = true) (ok : Bool) :
    exec (.requestupdate port ok) s = .next (mctpAnswer port [(1, 2)] s) := by
  show execRequestupdate port ok s = _
  unfold execRequestupdate
  refine (inRunOrRecovery_runs h).trans (congrArg Host.Outcome.next ?_)
  exact if_pos hs

section
variable {x : Session} (hx : pldmSession port s = some x)
include hx

theorem passcomponenttable_takes : exec (.passcomponenttable port) s = .next (mctpAnswer port [(1, 0)]
    (setMgs { s.mgs with session := some { x with last := s.now }, updState := max s.mgs.updState 2 } s)) := by
  show execPasscomponenttable port s = _
  unfold execPasscomponenttable
  refine (inRunOrRecovery_runs h).trans (congrArg Host.Outcome.next ?_)
  dsimp only
  rw [hx]

theorem updatecomponent_starts (size : Nat) : exec (.updatecomponent port size) s =
    .next (mctpAnswer port [(1, 0x15), (4, 0)] (mctpAnswer port [(1, 0)] (setMgs { s.mgs with
      session := some { x with transferring := some size, hdr := [], written := [], verified := false, last := s.now }, updState := 3 } s))) := by
  show execUpdatecomponent port size s = _
  unfold execUpdatecomponent
  refine (inRunOrRecovery_runs h).trans (congrArg Host.Outcome.next ?_)
  dsimp only
  rw [hx]

theorem activatefirmware_acts {self : Bool} (hv : x.verified = true) (hf : flashWrites true s = true) :
    exec (.activatefirmware port self true) s = .next (fwActivate x.slot (b2n self) (mctpAnswer port [(1, 0)] s)) := by
  show execActivatefirmware port self true s = _
  unfold execActivatefirmware
  refine (inRunOrRecovery_runs h).trans (congrArg Host.Outcome.next ?_)
  rw [hx]
  exact if_neg (by simp [hv, hf])

theorem cancelupdate_drops : exec (.cancelupdate port) s = .next (mctpAnswer port [(1, 0)] (sessionDrop s)) := by
  show execCancelupdate port s = _
  unfold execCancelupdate
  refine (inRunOrRecovery_runs h).trans (congrArg Host.Outcome.next ?_)
  rw [hx]

section
variable {size off : Nat} {data : List Byte} {sig : Bool} (ht : x.transferring = some size) (hg : imageGap x size = some off)
  (hf : flashWrites true s = true)
include ht hg hf

/-- Image bytes that the update agent sends: the next request, or the end of the transfer. -/
theorem imageBytes_goOn {o : Nat} (ho : imageGap (imageTaken x size off data s.now) size = some o) :
    exec (.requestfirmwaredataResponse port off data sig true) s =
      .next (mctpAnswer port [(1, 0x15), (4, o)] (setMgs { s.mgs with session := some (imageTaken x size off data s.now) } s)) := by
  show execRequestfirmwaredataResponse port off data sig true s = _
  unfold execRequestfirmwaredataResponse
  refine (inRunOrRecovery_runs h).trans (congrArg Host.Outcome.next ?_)
  dsimp only
  rw [hx]
  dsimp only
  rw [ht]
  dsimp only
  rw [if_neg (not_not_intro hg), if_neg (by simp [hf]), ho]

theorem imageBytes_end (ho : imageGap (imageTaken x size off data s.now) size = none) :
    exec (.requestfirmwaredataResponse port off data sig true) s =
      .next (imageEnd port (imageTaken x size off data s.now) size sig s) := by
  show execRequestfirmwaredataResponse port off data sig true s = _
  unfold execRequestfirmwaredataResponse
  refine (inRunOrRecovery_runs h).trans (congrArg Host.Outcome.next ?_)
  dsimp only
  rw [hx]
  dsimp only
  rw [ht]
  dsimp only
  rw [if_neg (not_not_intro hg), if_neg (by simp [hf]), ho]
  exact imageEnd_setSession _ _ _ _
end
end

/-! #### SPDM (R819) -/

theorem getMeasurements_rom :
    exec (.getMeasurements port 1 false) s = .next (reply port ([0, 1, 48] ++ (leBytes 48 Config.romDigest.toNat).reverse) s) := by
  show execGetMeasurements port 1 false s = _
  unfold execGetMeasurements
  refine (inRun_runs h).trans (congrArg Host.Outcome.next ?_)
  simp [measBlock, leBytes]

theorem spdmVersion_answers : exec (.spdmRequest port 0 0) s = .next (mctpAnswer port [(1, 0), (1, 0x11), (1, 0x12)] s) := by
  show execSpdmRequest port 0 0 s = _
  unfold execSpdmRequest
  exact inRun_runs h

theorem spdmChallenge_answers : exec (.spdmRequest port 5 0) s = .next (reply port (0 :: (free48 s).1) (free48 s).2) := by
  show execSpdmRequest port 5 0 s = _
  unfold execSpdmRequest
  refine (inRun_runs h).trans (congrArg Host.Outcome.next ?_)
  exact if_pos rfl
end

theorem mailboxMessage_queues {port : Nat} (hp : port = 1 ∨ port = 2) (op tag len : Nat) (data : List Byte) :
    exec (.mctpMessage port 0x7E Config.vendorId.toNat op tag len data) s = .next (setMgs { s.mgs with
      queue := s.mgs.queue ++ [⟨127 + port, op % 256, tag % 256, len % 4096, data.take (len % 4096)⟩] } s) :=
  congrArg Host.Outcome.next (if_pos ⟨rfl, rfl, hp⟩)

/-- Settles O55: each message's lemma above, by its family. -/
theorem mgsAnswersMctp : Obligations.MgsAnswersMctp := by
  refine ⟨fun _ op tag len data _ hp => mailboxMessage_queues hp op tag len data, fun port s h => ?_, fun _ _ => rfl, fun _ => rfl⟩
  refine ⟨mctpMessages_answer h, fun _ _ => getsensorreading_frameLogic h, ?_, fun _ => getpldmversion_answers h,
    setnumericeffectervalue_writes h, poll_empty h, fun _ _ => poll_oldest h, requestupdate_opens h, requestupdate_busy h, ?_,
    getMeasurements_rom h, spdmVersion_answers h, ?_⟩
  · exact fun eid => ⟨setEndpointId_answers h eid, seteventreceiver_answers h eid⟩
  · intro x hx
    refine ⟨passcomponenttable_takes h hx, updatecomponent_starts h hx, ?_, fun _ => activatefirmware_acts h hx, cancelupdate_drops h hx⟩
    rintro size off data sig _ ht hg hf rfl
    exact ⟨fun _ => imageBytes_goOn h hx ht hg hf, imageBytes_end h hx ht hg hf⟩
  · rintro _ rfl
    exact spdmChallenge_answers h

/-! ### A mailbox request is submitted (R820, R843) -/

section
variable {fn f v : Nat} (hgo : reaches fn (mgsP f + 0x80) s) (hv : bitOf v 31 = true)
include hgo hv

theorem mbCmd_busy (hb : flag (mgsP f) MB_STAT_BUSY s = true) : exec (.mbCmd fn f v) s = .next (raise (mgsP f) 3 s) := by
  refine congrArg Host.Outcome.next ((barWrite_goes hgo).trans ?_)
  rw [if_neg (by simp [hv])]
  exact if_pos hb

theorem mbCmd_submits (hb : flag (mgsP f) MB_STAT_BUSY s = false) :
    exec (.mbCmd fn f v) s = .next (setF (mgsP f) MB_STAT_BUSY 1 (setMgs { s.mgs with queue := s.mgs.queue ++
      [⟨f, v % 256, bitsOf v 15 8, bitsOf v 27 16,
        ((List.range 512).flatMap (fun w => leBytes 4 (rdW (mgsP f + 0x100 + 4 * w) s).toNat)).take (bitsOf v 27 16)⟩] } s)) := by
  refine congrArg Host.Outcome.next ((barWrite_goes hgo).trans ?_)
  rw [if_neg (by simp [hv])]
  exact if_neg (by simp [hb])
end

/-! ### MGS takes a request, checks it and answers (R820, R821, R1024) -/

/-- Operations that write flash when they pass (R829). -/
def writesFlash (op : Nat) : Bool := [0x20, 0x21, 0x22, 0x23, 0x24, 0x30, 0x49, 0x51].contains op

theorem xspiAnswered_flash {op : Nat} (h : writesFlash op = true) (t : State) : xspiAnswered op 0 t = flashAnswered t :=
  if_pos h

theorem xspiAnswered_other {op st : Nat} (h : writesFlash op = false) (t : State) : xspiAnswered op st t = t := by
  unfold writesFlash at h
  unfold xspiAnswered
  rw [h, Bool.and_false]
  exact if_neg Bool.false_ne_true

theorem mbCheck_taken (r : MbReq) : mbCheck r (taken r s) = mbCheck r s := by
  have hm : mstate (taken r s) = mstate s := getF_regs rfl _ _
  unfold mbCheck
  rw [hm]

section
variable {r : MbReq} {sel : Nat → Bool} {f : MbReq → State → Nat × List Byte × State} {st : Nat}

theorem mbRun_refused (hm : mgsServes s = true) (hn : mbNext s = some r) (hsel : sel r.op = true) (hc : mbCheck r s = some st) :
    mbRun sel f s = mbDone r st [] (taken r s) := by
  have ht : mbCheck r (setMgs { s.mgs with queue := s.mgs.queue.erase r, rr := r.agent } s) = some st := (mbCheck_taken r).trans hc
  unfold mbRun
  rw [if_neg (by simp [hm]), hn]
  dsimp only
  rw [if_neg (by simp [hsel]), ht]
  rfl

variable {op : Nat} {resp : List Byte} {t : State} (h : served r op s) (hsel : sel op = true)
include h hsel

theorem mbRun_served (ha : f r (taken r s) = (st, resp, t)) : mbRun sel f s = mbDone r st resp (xspiAnswered op st t) := by
  obtain ⟨hm, hn, rfl, hc⟩ := h
  have ht : mbCheck r (setMgs { s.mgs with queue := s.mgs.queue.erase r, rr := r.agent } s) = none := (mbCheck_taken r).trans hc
  have ha' : f r (setMgs { s.mgs with queue := s.mgs.queue.erase r, rr := r.agent } s) = (st, resp, t) := ha
  unfold mbRun
  rw [if_neg (by simp [hm]), hn]
  dsimp only
  rw [if_neg (by simp [hsel]), ht, ha']

/-- A command that writes no flash. -/
theorem mbRun_plain (hw : writesFlash op = false) (ha : f r (taken r s) = (st, resp, t)) : mbRun sel f s = mbDone r st resp t := by
  rw [mbRun_served h hsel ha, xspiAnswered_other hw]

/-- A command that wrote flash and passed. -/
theorem mbRun_flash (hw : writesFlash op = true) (ha : f r (taken r s) = (0, resp, t)) :
    mbRun sel f s = mbDone r 0 resp (flashAnswered t) := by
  rw [mbRun_served h hsel ha, xspiAnswered_flash hw]
end

theorem mbBadOpcode_answers {r : MbReq} (hm : mgsServes s = true) (hn : mbNext s = some r) (ho : mbOp r.op = none) :
    exec .mbBadOpcode s = .next (mbDone r 2 [] (taken r s)) := by
  refine congrArg Host.Outcome.next (mbRun_refused hm hn ?_ ?_)
  · rw [ho]
    rfl
  · unfold mbCheck
    rw [ho]

theorem mbNop_refused {r : MbReq} {st : Nat} (hm : mgsServes s = true) (hn : mbNext s = some r) (ho : r.op = 0)
    (hc : mbCheck r s = some st) : exec .mbNop s = .next (mbDone r st [] (taken r s)) :=
  congrArg Host.Outcome.next (mbRun_refused hm hn (by rw [ho]; rfl) hc)

/-! ### The commands of Table 16-5 -/

section
variable {r : MbReq}

theorem mbNop_answers (h : served r 0x00 s) : exec .mbNop s = .next (mbDone r 0 [] (taken r s)) :=
  congrArg Host.Outcome.next (mbRun_plain h rfl rfl rfl)

theorem getInfo_answers (h : served r 0x01 s) : ∃ resp, exec .getInfo s = .next (mbDone r 0 resp (taken r s))
    ∧ resp.length = 24 ∧ resp.take 8 = leBytes 8 Config.serial.toNat := by
  refine ⟨_, congrArg Host.Outcome.next (mbRun_plain h rfl rfl rfl), ?_, ?_⟩
  · simp only [List.length_append, leBytes_length]
  · simp only [List.append_assoc]
    exact List.take_left' (leBytes_length 8 _)

theorem sensorRead_answers (h : served r 0x02 s) (hag : r.agent = 0) (h1 : 1 ≤ r.num 2 2) (h2 : r.num 2 2 ≤ 256) :
    exec .sensorRead s = .next (mbDone r 0 (((List.range (r.num 2 2)).map (fun i => r.num 0 2 + i)).flatMap
      (fun i => leBytes 4 (sensorWord i (taken r s)))) (taken r s)) := by
  refine congrArg Host.Outcome.next (mbRun_plain h rfl rfl ?_)
  dsimp only
  rw [if_neg (by omega)]
  exact if_neg (by simp [hag])

section
variable (h : served r 0x10 s) (h1 : 1 ≤ r.num 12 1) (h2 : r.num 13 1 ≤ 3)
include h h1 h2

theorem logRead_empty (hl : logSource (r.num 13 1) (taken r s) = []) : exec .logRead s =
    .next (mbDone r 0 (leBytes 1 0 ++ leBytes 1 (tier (taken r s)) ++ leBytes 1 0 ++ leBytes 5 0) (taken r s)) := by
  refine congrArg Host.Outcome.next (mbRun_plain h rfl rfl ?_)
  dsimp only
  rw [if_neg (by omega), hl]
  simp [b2n]

theorem logRead_serves {at_ x : TRec} {all rest : List TRec} (hl : logSource (r.num 13 1) (taken r s) = all) (ha : all = x :: rest)
    (hat : (⟨r.num 4 8, r.num 0 4, 0, 0, 0, 0, 0, 0, []⟩ : TRec) = at_) (hx : x.le at_ = true) :
    exec .logRead s = .next (mbDone r 0 (leBytes 1 ((all.filter (fun x => at_.le x)).take (min (r.num 12 1) 27)).length
      ++ leBytes 1 (tier (taken r s)) ++ leBytes 1 0 ++ leBytes 5 0
      ++ ((all.filter (fun x => at_.le x)).take (min (r.num 12 1) 27)).flatMap TRec.bytes) (taken r s)) := by
  subst ha hat
  refine congrArg Host.Outcome.next (mbRun_plain h rfl rfl ?_)
  dsimp only
  rw [if_neg (by omega), hl]
  simp [b2n, hx]
end

theorem logWrite_answers (h : served r 0x11 s) : ∃ t, exec .logWrite s = .next (mbDone r 0 (leBytes 4 t.mgs.boot ++ leBytes 8 t.mgs.seq) t)
    ∧ t = tallyNow ⟨0, 0, s.now, 8, agentSrc r.agent, (takeFree (taken r s)).1 % 65536, r.num 28 4,
      if r.agent < 128 then r.agent else 0xFFFF, r.data.take 28⟩ (takeFree (taken r s)).2 :=
  ⟨_, congrArg Host.Outcome.next (mbRun_plain h rfl rfl rfl), rfl⟩

theorem logAckLost_answers (h : served r 0x12 s) (hl : flag (mgsP 0) MB_LOGSTAT_LOST s = false) : exec .logAckLost s =
    .next (mbDone r 0 [] (setF (mgsP 0) MB_UNPERS_COUNT 0 (setF (mgsP 0) MB_LOGSTAT_LOST 0 (taken r s)))) := by
  have hu : flag (mgsP 0) MB_LOGSTAT_LOST (taken r s) = false := hl
  refine congrArg Host.Outcome.next (mbRun_plain h rfl rfl ?_)
  dsimp only
  rw [if_neg (by simp [hu])]

/-! #### Firmware update (R836-R838, R845) -/

theorem fwBegin_opens (h : served r 0x20 s) (hh : hdrOk r.data = true) (hn : (taken r s).mgs.session = none)
    (hv : (taken r s).mgs.otpSvn ≤ hdrNum r.data 12 1) (hf : flashWrites true (taken r s) = true) :
    exec (.fwBegin true true) s = .next (mbDone r 0 (leBytes 2 (fwOpen r.agent r.data false (taken r s)).1)
      (flashAnswered (fwOpen r.agent r.data false (taken r s)).2)) := by
  refine congrArg Host.Outcome.next (mbRun_flash h rfl rfl ?_)
  dsimp only
  rw [if_neg (by simp [hh]), if_neg (by simp [hn]), if_neg (by decide), if_neg (Nat.not_lt.mpr hv)]
  exact if_neg (by simp [hf])

section
variable {x : Session} (hs : fwSession r (taken r s) = .ok x)
include hs

theorem fwData_writes (h : served r 0x21 s) (h0 : r.num 2 2 = 0) (h8 : r.num 4 4 % 8 = 0)
    (hlen : r.num 4 4 + (r.data.drop 8).length ≤ hdrNum x.hdr 16 4) (hf : flashWrites true (taken r s) = true) :
    exec (.fwData true) s = .next (mbDone r 0 [] (setMgs { (taken r s).mgs with
      xspiRun := 0
      session := some { x with written := putBody (r.num 4 4) (r.data.drop 8) x.written, verified := false, last := (taken r s).now } }
      (taken r s))) := by
  refine congrArg Host.Outcome.next (mbRun_flash (t := setMgs { (taken r s).mgs with
    session := some { x with written := putBody (r.num 4 4) (r.data.drop 8) x.written, verified := false, last := (taken r s).now } } (taken r s)) h rfl rfl ?_)
  dsimp only
  rw [if_neg (by omega), hs]
  dsimp only
  rw [if_neg (by omega)]
  exact if_neg (by simp [hf])

theorem fwVerify_verifies (h : served r 0x22 s) (hb : bodyOk x.hdr x.written = true) (hf : flashWrites true (taken r s) = true) :
    exec (.fwVerify true) s = .next (mbDone r 0 [] (flashAnswered (fwVerified x (taken r s)))) := by
  refine congrArg Host.Outcome.next (mbRun_flash h rfl rfl ?_)
  rw [hs]
  dsimp only
  rw [if_neg (by simp [hb])]
  exact if_neg (by simp [hf])

theorem fwActivate_activates (h : served r 0x23 s) (h1 : r.num 2 1 ≤ 1) (hv : x.verified = true)
    (hf : flashWrites true (taken r s) = true) :
    exec (.fwActivate true) s = .next (mbDone r 0 [] (flashAnswered (fwActivate x.slot (r.num 2 1) (taken r s)))) := by
  refine congrArg Host.Outcome.next (mbRun_flash h rfl rfl ?_)
  dsimp only
  rw [if_neg (Nat.not_lt.mpr h1), hs]
  dsimp only
  rw [if_neg (by simp [hv])]
  exact if_neg (by simp [hf])

theorem fwAbort_drops (h : served r 0x24 s) :
    exec .fwAbort s = .next (mbDone r 0 [] (flashAnswered (sessionDrop (taken r s)))) := by
  refine congrArg Host.Outcome.next (mbRun_flash h rfl rfl ?_)
  rw [hs]
end

/-! #### Licences, locks, configuration (R841, R842, R846, R1028) -/

theorem licInstall_applies (h : served r 0x30 s) (hform : licForm r.data = true) (hser : (licOf r.data true).serial = Config.serial.toNat)
    (hiss : storedIssue (taken r s) < (licOf r.data true).issue) (hf : flashWrites true (taken r s) = true)
    (hst : (taken r s).mgs.licStage = true) :
    exec (.licInstall true true) s = .next (mbDone r 0 [] (flashAnswered (tallyLic 1 (agentSrc r.agent) (some (licOf r.data true))
      (applyLic (some (licOf r.data true)) (setMgs { (taken r s).mgs with licence := some (licOf r.data true) } (taken r s)))))) := by
  refine congrArg Host.Outcome.next (mbRun_flash h rfl rfl ?_)
  dsimp only
  rw [if_neg (by simp [hform]), if_neg (by decide), if_neg (not_not_intro hser), if_neg (Nat.not_le.mpr hiss), if_neg (by simp [hf])]
  exact if_pos hst

theorem licRead_answers {l : Lic} (h : served r 0x31 s) (hl : s.mgs.licForce = some l) :
    exec .licRead s = .next (mbDone r 0 l.bytes (taken r s)) := by
  have hu : (taken r s).mgs.licForce = some l := hl
  refine congrArg Host.Outcome.next (mbRun_plain h rfl rfl ?_)
  rw [hu]

theorem unlock_unlocks (h : served r 0x40 s) (hp : r.num 0 4 % 4096 = 0) (hpage : (pageOf (r.num 0 4)).isSome = true) :
    exec .unlock s = .next (mbDone r 0 [] (setF (r.num 0 4) PG_LOCK_LOCKED 0 (taken r s))) := by
  have hno : (pageOf (r.num 0 4)).isNone = false := by
    rw [← Option.not_isSome, hpage]
    rfl
  refine congrArg Host.Outcome.next (mbRun_plain h rfl rfl ?_)
  exact if_neg (by simp [hp, hno])

theorem configGet_profile (h : served r 0x48 s) (hk : r.num 0 1 = 0) :
    exec .configGet s = .next (mbDone r 0 [BitVec.ofNat 8 (s.mgs.cfgProfile.getD 2)] (taken r s)) := by
  refine congrArg Host.Outcome.next (mbRun_plain h rfl rfl ?_)
  rw [hk]
  rfl

theorem configGet_beyond (h : served r 0x48 s) (hk : 3 ≤ r.num 0 1) : exec .configGet s = .next (mbDone r 4 [] (taken r s)) := by
  obtain ⟨k, hk'⟩ := Nat.exists_eq_add_of_le' hk
  refine congrArg Host.Outcome.next (mbRun_plain h rfl rfl ?_)
  rw [hk']
  rfl

theorem configSet_profile (h : served r 0x49 s) (hk : r.num 0 1 = 0) (hone : (r.data.drop 8).length = 1) (hz : r.num 1 7 = 0)
    (hv : leNat (r.data.drop 8) ≤ 3) (hf : flashWrites true (taken r s) = true) :
    exec (.configSet true) s = .next (mbDone r 0 []
      (setMgs { (taken r s).mgs with cfgProfile := some (leNat (r.data.drop 8)), xspiRun := 0 } (taken r s))) := by
  refine congrArg Host.Outcome.next (mbRun_flash (t := setMgs { (taken r s).mgs with cfgProfile := some (leNat (r.data.drop 8)) } (taken r s)) h rfl rfl ?_)
  dsimp only
  rw [if_neg (by omega), if_neg (by omega), if_neg (by simp [hf]), hk]
  rfl

/-! #### Fabric manager and defect map -/

theorem fmStatus_answers (h : served r 0x50 s) : exec .fmStatus s =
    .next (mbDone r 0 (leBytes 4 (rdW (rtrP 0 + 0x88) (taken r s)).toNat ++ leBytes 2 (taken r s).rtr.nodes.length) (taken r s)) :=
  congrArg Host.Outcome.next (mbRun_plain h rfl rfl rfl)

theorem fmPlan_replaces {es : List (Nat × Nat × Nat)} (h : served r 0x51 s) (h1 : r.num 0 1 = 1) (hz : r.num 1 15 = 0)
    (he : planEntries r.data (r.len / 16 - 1) = es) (hgood : es.any (fun e => decide (2 ^ 18 ≤ e.2.1) || e.2.2 != 0) = false)
    (hf : flashWrites true (taken r s) = true) (hlen : (es.foldl (fun l e => alSet l e.1 e.2.1) []).length ≤ 4096) :
    exec (.fmPlan true) s = .next (mbDone r 0 []
      (setMgs { (taken r s).mgs with plan := es.foldl (fun l e => alSet l e.1 e.2.1) [], xspiRun := 0 } (taken r s))) := by
  refine congrArg Host.Outcome.next (mbRun_flash (t := setMgs { (taken r s).mgs with plan := es.foldl (fun l e => alSet l e.1 e.2.1) [] } (taken r s)) h rfl rfl ?_)
  dsimp only
  rw [he, if_pos h1, if_neg (by omega), if_neg ?_]
  · exact if_neg (by simp [hf])
  · rw [show es.any (fun e => decide (e.2.1 ≥ 2 ^ 18) || e.2.2 != 0) = false from hgood, decide_eq_false (Nat.not_lt.mpr hlen)]
    exact Bool.false_ne_true

theorem fmNodes_manager (h : served r 0x52 s) (hr : fmRole (taken r s) = 1) :
    exec .fmNodes s = .next (mbDone r 0 (indexed (r.num 0 2) (taken r s).rtr.nodes (fun x =>
      leBytes 8 x.serial ++ leBytes 4 (x.node.getD 0) ++ leBytes 2 x.epoch ++ leBytes 2 ((takeFree (taken r s)).1 % 65536)))
      (takeFree (taken r s)).2) :=
  congrArg Host.Outcome.next (mbRun_plain h rfl rfl (if_neg (not_not_intro hr)))

theorem fmNodes_other (h : served r 0x52 s) (hr : fmRole (taken r s) ≠ 1) :
    exec .fmNodes s = .next (mbDone r 0xB [] (taken r s)) :=
  congrArg Host.Outcome.next (mbRun_plain h rfl rfl (if_pos hr))

theorem defectRead_answers (h : served r 0x60 s) : exec .defectRead s = .next (mbDone r 0 (indexed (r.num 0 2) (taken r s).mgs.defects
    (fun x => leBytes 1 x.kind ++ leBytes 3 0 ++ leBytes 8 x.loc ++ leBytes 4 x.boot)) (taken r s)) :=
  congrArg Host.Outcome.next (mbRun_plain h rfl rfl rfl)
end

/-! ### What MGS does by itself -/

theorem updateSessionIdle_drops {x : Session} (h : s.mgs.session = some x) :
    exec .updateSessionIdle s = .next (sessionDrop (waitTill (x.last + 60000000000) s)) := by
  show execUpdateSessionIdle s = _
  unfold execUpdateSessionIdle
  rw [h]

/-- The trial slot k is the active one, with the lowest SVN that its header asks for (R839). -/
def trialCommitted (k : Nat) (s : State) : State :=
  let h := (slotOf k s).hdr
  setMgs { s.mgs with
    active := k, trial := none, trialRun := false
    otpSvn := if hdrNum h 13 1 % 2 = 1 then max s.mgs.otpSvn (hdrNum h 12 1) else s.mgs.otpSvn } s

theorem trialCommitted_otpSvn (k : Nat) : s.mgs.otpSvn ≤ (trialCommitted k s).mgs.otpSvn := by
  dsimp only [trialCommitted, setMgs]
  split
  · exact Nat.le_max_left _ _
  · exact Nat.le_refl _

section
variable {k : Nat} (ht : s.mgs.trial = some k) (hm : mstate s = 1) (hr : s.mgs.trialRun = true)
  (hf : flag (mgsP 0) MB_INFO_TRIAL s = true)
include ht hm hr hf

/-- A trial in RUN for 10 s is committed, and the lowest SVN never goes back (R839). -/
theorem trialCommit_commits (hin : s.mgs.runAt ≤ s.mgs.startAt + 5000000000) :
    ∃ t, exec .trialCommit s = .next (tallyFree 6 0xFFFFFFFF [] (setF (mgsP 0) MB_INFO_TRIAL 0 t))
      ∧ t.mgs.active = k ∧ t.mgs.trial = none ∧ t.mgs.trialRun = false ∧ s.mgs.otpSvn ≤ t.mgs.otpSvn
      ∧ t = { s with mgs := t.mgs, now := max s.now (s.mgs.runAt + 10000000000) } := by
  refine ⟨trialCommitted k (waitTill (s.mgs.runAt + 10000000000) s), ?_, rfl, rfl, rfl, trialCommitted_otpSvn k, rfl⟩
  show execTrialCommit s = _
  unfold execTrialCommit
  rw [ht]
  dsimp only
  rw [if_neg (by simp [hm, hr, hf]), if_neg (Nat.not_lt.mpr hin)]
  rfl

theorem trialCommit_late (hlate : s.mgs.startAt + 5000000000 < s.mgs.runAt) :
    exec .trialCommit s = .next (rollback (waitTill (s.mgs.runAt + 10000000000) s)) := by
  show execTrialCommit s = _
  unfold execTrialCommit
  rw [ht]
  dsimp only
  rw [if_neg (by simp [hm, hr, hf])]
  exact if_pos hlate
end

theorem mgsWdog_restarts (ue : Bool) {t : State} (hm : mgsServes s = true)
    (ht : recordCE (mgsP 0) (if ue then 0x0208 else 0x0206) 0 0 (mgsRestart s) = t) :
    exec (.mgsWdog ue) s = .next (if t.mgs.trialRun && t.mgs.trial.isSome then rollback t else t) := by
  show execMgsWdog ue s = _
  unfold execMgsWdog
  rw [if_neg (by simp [hm])]
  dsimp only
  rw [ht]

/-! #### The log and its flash (R826-R832) -/

theorem tallyPersist_persists (ok : Bool) (hm : mgsServes s = true) : exec (.tallyPersist ok) s = .next (persistOne ok s) :=
  congrArg Host.Outcome.next (if_pos hm)

theorem persistOne_nothing (ok : Bool) (h : s.mgs.pend = []) : persistOne ok s = s := by
  unfold persistOne
  rw [h]

section
variable {r : TRec} {rest : List TRec} (h : s.mgs.pend = r :: rest)
include h

theorem persistOne_flash (ok : Bool) {k : Nat} {c : TSect} (ht : tier s = 0) (hn : sectNext s = some (k, c)) :
    persistOne ok s = setMgs { s.mgs with
      pend := rest, cur := k, xspiRun := 0, sects := alSet s.mgs.sects k { c with recs := c.recs ++ [r] } } s := by
  unfold persistOne
  rw [h]
  dsimp only
  rw [ht]
  rw [hn]
  rfl

theorem persistOne_reserve (ok : Bool) (ht : tier s = 1) :
    persistOne ok s = if ok then reservePut r (setMgs { s.mgs with pend := rest } s) else reserveFailed r.seq s := by
  unfold persistOne
  rw [h]
  dsimp only
  rw [ht]
  rfl

theorem persistOne_ram (ok : Bool) (ht : 2 ≤ tier s) : persistOne ok s = ramOnly (setMgs { s.mgs with pend := rest } s) := by
  obtain ⟨n, hn⟩ := Nat.exists_eq_add_of_le' ht
  unfold persistOne
  rw [h]
  dsimp only
  rw [hn]
  rfl
end

section
variable {k : Nat} (hk : k < 1024) (hb : s.mgs.flashBad = false)
include hk hb

theorem flashVerify_noSpare (hs : 64 ≤ s.mgs.spareNext) : exec (.flashVerify k false) s = .next (flashLost 1 s) := by
  show execFlashVerify k false s = _
  unfold execFlashVerify
  rw [if_neg (by simp [hk, hb])]
  exact if_pos hs

theorem flashVerify_retires (hs : s.mgs.spareNext < 64) :
    exec (.flashVerify k false) s = .next (recordCE (mgsP 0) 0x0201 (sectOf k s).phys 0
      (setF (mgsP 0) MB_LOGSTAT_SPARES (63 - s.mgs.spareNext) (setMgs { s.mgs with
        sects := alSet s.mgs.sects k { sectOf k s with phys := 2076 + s.mgs.spareNext }, spareNext := s.mgs.spareNext + 1
        defects := s.mgs.defects ++ [⟨5, (sectOf k s).phys, s.mgs.boot, 0⟩] } s))) := by
  show execFlashVerify k false s = _
  unfold execFlashVerify
  rw [if_neg (by simp [hk, hb])]
  exact if_neg (Nat.not_le.mpr hs)
end

theorem xspiTimeout_counts (h : s.mgs.xspiRun < 2) :
    exec .xspiTimeout s = .next (setMgs { s.mgs with xspiRun := s.mgs.xspiRun + 1 } s) :=
  congrArg Host.Outcome.next (if_neg (Nat.not_le.mpr (Nat.succ_lt_succ h)))

theorem xspiTimeout_third (h : 2 ≤ s.mgs.xspiRun) :
    exec .xspiTimeout s = .next (flashLost 2 (setMgs { s.mgs with xspiRun := s.mgs.xspiRun + 1 } s)) :=
  congrArg Host.Outcome.next (if_pos (Nat.succ_le_succ h))

/-! ### The obligation -/

/-- Settles O56: each command's lemma above, by its row of Table 16-5, then what MGS does by itself. -/
theorem theMailboxServesItsRequests : Obligations.TheMailboxServesItsRequests := by
  unfold Obligations.TheMailboxServesItsRequests
  refine ⟨fun fn f v s hgo hv => ⟨mbCmd_busy hgo hv, mbCmd_submits hgo hv⟩, fun r s => mbBadOpcode_answers, ?_,
    fun x s => updateSessionIdle_drops, fun k s => trialCommit_commits, ?_, ?_, ?_,
    fun k s hk hb => ⟨flashVerify_noSpare hk hb, flashVerify_retires hk hb⟩, ?_⟩
  · rintro r s _ rfl
    refine ⟨mbNop_answers, fun _ => mbNop_refused, getInfo_answers, sensorRead_answers, ?_, logWrite_answers, logAckLost_answers,
      fwBegin_opens, ?_, fun _ h hs => fwVerify_verifies hs h, ?_, fun _ h hs => fwAbort_drops hs h, ?_,
      fun _ => licRead_answers, unlock_unlocks, fun h => ⟨configGet_profile h, configGet_beyond h⟩, configSet_profile, fmStatus_answers,
      fun _ => fmPlan_replaces, fun h => ⟨fmNodes_manager h, fmNodes_other h⟩, defectRead_answers⟩
    · rintro all _ at_ h h1 h2 hl hat rfl
      refine ⟨fun ha => logRead_empty h h1 h2 (hl.trans ha), fun x rest ha hx => logRead_serves h h1 h2 hl ha hat hx⟩
    · exact fun x h h0 h8 hs => fwData_writes hs h h0 h8
    · exact fun x h h1 hs => fwActivate_activates hs h h1
    · rintro _ h hform rfl
      exact licInstall_applies h hform
  · intro ue s t hm ht
    refine ⟨fun hr => ?_, fun hr => ?_⟩
    · rw [mgsWdog_restarts ue hm ht, if_pos (by simpa using hr)]
    · have hno : t.mgs.trial.isSome = false := of_decide_eq_true (Bool.and_eq_true_iff.mp hr).2
      rw [mgsWdog_restarts ue hm ht, hno, if_neg (by simp)]
  · rintro k s _ ht hm hr hf hlate rfl
    rw [trialCommit_late ht hm hr hf hlate, rollback]
  · intro ok s hm
    refine ⟨fun h => by rw [tallyPersist_persists ok hm, persistOne_nothing ok h], fun r rest h => ⟨fun k c ht hn => ?_, fun ht => ?_,
      fun ht => ?_, fun ht => ?_⟩⟩
    · rw [tallyPersist_persists ok hm, persistOne_flash h ok ht hn]
    · rw [tallyPersist_persists true hm, persistOne_reserve h true ht, if_pos rfl]
    · rw [tallyPersist_persists false hm, persistOne_reserve h false ht, if_neg Bool.false_ne_true]
    · rw [tallyPersist_persists ok hm, persistOne_ram h ok ht]
  · rintro s _ rfl
    exact ⟨xspiTimeout_counts, xspiTimeout_third⟩

end Sys2Proof.Machine
end
